-- ==== Sys2Proof/Word.lean ====
section
/-! DEFINITION.  The register word and the byte of the YL-7400 (R6: registers are 32 bits wide and
little-endian; a line-store, DRAM, flash or parameter-store cell is one byte). -/

set_option Elab.async false

namespace Sys2Proof

/-- A register word (R6). -/
abbrev Word := BitVec 32

/-- One byte of any addressed memory. -/
abbrev Byte := BitVec 8

end Sys2Proof
end

