-- ==== Sys2Proof/Syntax.lean ====
section
/-! DEFINITION.  The commands of the block: one constructor of `Instr` for each row of
spec/opcode_table.json, and the operand types they carry. -/

set_option Elab.async false

namespace Sys2Proof

/-- The access sizes of a line-store port (R270). -/
inductive LsSize where
  | b1 | b2 | b4 | b8 | b16
  deriving DecidableEq, Repr

/-- Bytes of an access size. -/
def LsSize.bytes : LsSize → Nat
  | .b1 => 1 | .b2 => 2 | .b4 => 4 | .b8 => 8 | .b16 => 16

/-- One access that a master port presents in a cycle (R270): a write carries its bytes. -/
structure LsReq where
  port : Fin 12
  addr : BitVec 24
  size : LsSize
  data : Option (List Byte)
  deriving DecidableEq, Repr

/-- A memory cell upset that the environment causes: a unit (a line-store word, or a 32-byte DRAM block)
and whether SECDED can still correct it. -/
structure Upset where
  unit : Nat
  uncorrectable : Bool
  deriving DecidableEq, Repr

/-- What a mode-register-4 read of a channel reports (R304): the refresh-rate field, and the state it stands for. -/
inductive Mr4State where
  | normal | high | beyond
  deriving DecidableEq, Repr

structure Mr4Report where
  rate : BitVec 5
  state : Mr4State
  deriving DecidableEq, Repr


/-- A pixel or sample: three component codes, 12-bit in a picture (R162), 6-bit fields in a demura sample (R107). -/
structure Px where
  r : Nat
  g : Nat
  b : Nat
  deriving DecidableEq, Repr

/-- Fixed-path readers of the codec (Table 7.1). -/
inductive ReadUnit where
  | rd | dd0 | dd1 | dd2 | hd | fd0 | fd1
  deriving DecidableEq, Repr

/-- Fixed-path encoders of the codec (Table 7.1): the frame ring of port A and B, the history, the fallow capture. -/
inductive WriteUnit where
  | re0 | re1 | he | fe
  deriving DecidableEq, Repr

/-- Pixel encodings of an input stream (Table 2.2). -/
inductive PixFmt where
  | rgb | ycc444 | ycc422 | ycc420
  deriving DecidableEq, Repr

/-- A pixel encoding: format, bits per component, and the conversion matrix as a layer's CSC numbers it (R40). -/
structure Enc where
  fmt : PixFmt
  bpc : Nat
  csc : Fin 4
  deriving DecidableEq, Repr

/-- What a source signals of its stream (R40, R475): totals, active size, refresh rate in mHz, the encoding of the MSA,
and that of the VSC SDP when the source sends one. -/
structure Msa where
  hTotal : Nat
  vTotal : Nat
  hActive : Nat
  vActive : Nat
  refresh : Nat
  main : Enc
  vsc : Option Enc
  deriving DecidableEq, Repr

/-- Formats of a DSC stream (Table 2.7). -/
inductive DscFmt where
  | rgb | ycc444 | simple422 | native422 | native420
  deriving DecidableEq, Repr

/-- The parameters of a picture parameter set that Table 2.7 limits; `bpp16` counts 1/16 bit per pixel. -/
structure Pps where
  fmt : DscFmt
  bpc : Nat
  bpp16 : Nat
  lineBuf : Nat
  rateBuf : Nat
  sliceW : Nat
  sliceH : Nat
  deriving DecidableEq, Repr

/-- One line of an input stream, components as received: R, G, B or Y, Cb, Cr; for 4:2:0 also the second chroma row
that the vertical filter uses (R40, R71).  In pass-through split mode the line of port B follows that of port A. -/
structure RxLine where
  a : List Nat
  b : List Nat
  c : List Nat
  b2 : List Nat
  c2 : List Nat
  deriving DecidableEq, Repr

/-- Training phases of Table 2.3. -/
inductive TrainPhase where
  | clockRecovery | channelEq | laneEq | cds
  deriving DecidableEq, Repr

/-- A transaction on the AUX channel (R63) or its I2C form (R39). -/
inductive AuxReq where
  | read (addr : BitVec 20) (len : Fin 17)
  | write (addr : BitVec 20) (data : List Byte)
  | i2cRead (addr : BitVec 7) (len : Fin 17)
  | i2cWrite (addr : BitVec 7) (data : List Byte)
  deriving DecidableEq, Repr

/-- Load widths of RV32I. -/
inductive LdSize where
  | b | h | w | bu | hu
  deriving DecidableEq, Repr

/-- Store widths of RV32I. -/
inductive StSize where
  | b | h | w
  deriving DecidableEq, Repr

/-- Bytes of a load or store, and whether a load extends the sign. -/
def LdSize.bytes : LdSize → Nat
  | .b => 1 | .h => 2 | .w => 4 | .bu => 1 | .hu => 2
def LdSize.signed : LdSize → Bool
  | .b => true | .h => true | .w => true | .bu => false | .hu => false
def StSize.bytes : StSize → Nat
  | .b => 1 | .h => 2 | .w => 4

/-- What the BL die measures over a PWM period: boost input power in 0.1 W, die dissipation in 0.01 W, by boost the
output voltage in 10 mV at the period's end, its mean over the period, and the mean input power in µW, raw current-sense
samples of sinks that are off, the boosts with a string outside its regulation, and symbol errors on ZB_RX. -/
structure PwmSense where
  meas : Nat
  diePower : Nat
  vOut : List Nat
  vMean : List Nat
  pIn : List Nat
  offset : List (Fin 128 × Int)
  unreg : List (Fin 16)
  zbErrors : Nat
  deriving DecidableEq, Repr

/-- Why the backlight shuts down by itself (R236): a raw reading of TS[8] in 1/16 °C, or the die's dissipation. -/
inductive ShutWhy where
  | temperature (raw : BitVec 16)
  | dissipation
  deriving DecidableEq, Repr

/-- Outcome of one neighbouring-pin test (R241): no shared off-time was found, or the drop was below or at least 2.0 V. -/
inductive PinTest where
  | stale | clear | positive
  deriving DecidableEq, Repr

/-- How a JEND merge ran (R211): its dale cycles, and the error that strikes the job buffer (R188): 0 none, 1 correctable, 2
uncorrectable. -/
structure MergeEnd where
  cyc : Nat
  ecc : Fin 3
  deriving DecidableEq, Repr

/-- How a glen DMA transfer ran (R204, R205): the error that strikes its first word in the glen's memories (R188): 0 none, 1
correctable, 2 uncorrectable; and the line-store words whose accesses lost a collision. -/
structure DmaEnd where
  ecc : Fin 3
  lost : List (Fin 1048576)
  deriving DecidableEq, Repr

/-- A training set of a wall link (R317): the sender's port number, role and HOPS, RX_OK, and whether its CRC-8 is good. -/
structure TrainSet where
  port : Byte
  role : Byte
  hops : Byte
  rxOk : Bool
  good : Bool
  deriving DecidableEq, Repr

/-- A good BEACON (Table 13.2). -/
structure Beacon where
  epoch : Byte
  root : BitVec 10
  hops : BitVec 4
  tTx : BitVec 32
  frame : BitVec 32
  fsTime : BitVec 32
  latchLead : BitVec 16
  deriving DecidableEq, Repr

/-- Header of a good CMD packet (R319). -/
structure WallHdr where
  lseq : Byte
  dst : BitVec 16
  src : BitVec 16
  deriving DecidableEq, Repr

/-- Where a state command comes from (R353): firmware's PWR_CMD, or the host through the management port or a DPCD
mailbox. -/
inductive CmdSrc where
  | firmware | mgmt | dpcd
  deriving DecidableEq, Repr


/-- The commands the block takes: one constructor per row of spec/opcode_table.json.  The docstring of each
names its governing rule; an operand is what the event or the write carries. -/
inductive Instr where
  /-- LATCH_POINT (R19). The raster reaches the latch line: the frame counter takes N, committed shadows apply, staging flips and the period's jobs are dispatched. -/
  | latchPoint (ns : Nat)
  /-- PREFETCH_START (R79). The raster reaches prefetch start: scan-out selects its buffers and begins fetching the next frame. -/
  | prefetchStart (us : Nat)
  /-- FRAME_START (R22). The first active line of a frame begins. -/
  | frameStart
  /-- FRAME_DONE (R87). The last active pixel of a frame ends: buffers retire, history buffers swap and the last statistics row is written. -/
  | frameDone
  /-- LINE_START (R92). A raster line begins: line packets, gate row slots, statistics row writes and line events follow. -/
  | lineStart (line : BitVec 15) (live : Option RxLine)
  /-- COMMIT (R27). A write of 1 to FSEQ_COMMIT marks all shadows for the next latch point and sets COMMIT_PENDING. -/
  | commit
  /-- STAT_WRITE_DONE (R99). The write of the last zone row ends, LAST_ROW_BUSY clears and waiting jobs become ready. -/
  | statWriteDone
  /-- RESERVE_TIMER_FRAME (R85). No frame start within FLOOR_US makes the reserve timer start a frame. -/
  | reserveTimerFrame
  /-- VRR_TRIGGER (R84). The source's front-porch end releases the hold line under variable refresh. -/
  | vrrTrigger
  /-- VRR_TIMEOUT (R84). A frame reaches V_TOTAL_MAX without a trigger and continues as a repeat. -/
  | vrrTimeout
  /-- INPUT_STOP (R17). A due source line has not begun within 2 line periods in pass-through mode, and the frame is filled from the ring. -/
  | inputStop (line : BitVec 13)
  /-- UNDERRUN (R90). The blender needs a layer pixel whose line is not fetched, and the layer is switched off to frame end. -/
  | underrun (layer : Fin 8) (line : BitVec 13) (x : BitVec 14)
  /-- LANE_LOCK (R41). A DisplayPort lane reaches lock in a training phase and its status bits are set. -/
  | laneLock (port : Fin 2) (lane : Fin 4) (phase : TrainPhase)
  /-- TRAIN_BOUND_EXPIRE (R41). A training phase bound passes without lock and the best drive settings are reported. -/
  | trainBoundExpire (port : Fin 2) (phase : TrainPhase) (best : List Byte)
  /-- LANE_LOCK_LOST (R42). A trained lane loses symbol lock and the error counters count. -/
  | laneLockLost (port : Fin 2) (lane : Fin 4)
  /-- PORT_FAIL (R42). A lane has been without symbol lock for 2 µs and the port is failed. -/
  | portFail (port : Fin 2)
  /-- MSA_RECEIVED (R46). A port receives an MSA and compares it with the configured timing. -/
  | msaReceived (port : Fin 2) (msa : Msa)
  /-- IRQ_HPD (R44). Pending reasons start a 0.75 ms low pulse on HPD once the 2 ms gap allows. -/
  | irqHpd (port : Fin 2)
  /-- IRQ_HPD_END (R44). The IRQ_HPD pulse time expires and HPD rises. -/
  | irqHpdEnd (port : Fin 2)
  /-- HPD_REDISCOVER (R45). HPD is driven low for 10 ms to make the source rediscover the port. -/
  | hpdRediscover (port : Fin 2)
  /-- HPD_REDISCOVER_END (R45). The 10 ms rediscovery low ends and HPD rises. -/
  | hpdRediscoverEnd (port : Fin 2)
  /-- SOURCE_ABSENT (R46). 1,000 ms pass without AUX activity or lane 0 signal and SOURCE_PRESENT clears. -/
  | sourceAbsent (port : Fin 2)
  /-- AUX_TRANSACTION (R63). A native AUX or I2C-over-AUX transaction reads or writes DPCD or EDID. -/
  | auxTransaction (port : Fin 2) (req : AuxReq)
  /-- MB_SUBMIT (R64). A doorbell write of 0x01 submits a mailbox request and sets BUSY. -/
  | mbSubmit (m : Fin 3)
  /-- MB_ACK (R64). A doorbell write of 0x02 acknowledges the response and frees the mailbox. -/
  | mbAck (m : Fin 3)
  /-- INPUT_FRAME_START (R79). An input frame starts and the writer takes a ring buffer. -/
  | inputFrameStart (port : Fin 2) (apart : Nat)
  /-- INPUT_FRAME_COMPLETE (R79). An input frame completes and its buffer becomes LATEST. -/
  | inputFrameComplete (port : Fin 2) (us : Nat)
  /-- INPUT_FRAME_INCOMPLETE (R79). An input frame ends incomplete or refused and its buffer becomes FREE. -/
  | inputFrameIncomplete (port : Fin 2)
  /-- STANDBY_FRAME_TIMEOUT (R52). No complete frame arrives within 1.5 frame periods and the hot-standby port is failed. -/
  | standbyFrameTimeout (port : Fin 2)
  /-- PPS_RECEIVED (R55). A PPS SDP is checked against the DSC limits. -/
  | ppsReceived (port : Fin 2) (pps : Pps)
  /-- DSC_ERROR (R57). A DSC rate-buffer error or malformed chunk marks the input frame incomplete. -/
  | dscError (port : Fin 2) (line : BitVec 13)
  /-- PR_ENTRY (R59). The source activates Panel Replay and scan-out repeats the last complete frame. -/
  | prEntry (port : Fin 2)
  /-- FALLOW_REQUEST (R60). FALLOW_DELAY frames of replay with the link asleep request FALLOW. -/
  | fallowRequest
  /-- ALPM_WAKE (R61). The AO detector latches an AUX-less ALPM wake signal. -/
  | alpmWake (port : Fin 2)
  /-- AUX_WAKE (R61). The AO detector latches AUX activity as a wake. -/
  | auxWake (port : Fin 2)
  /-- RESUME_LOCK_TIMEOUT (R62). A lane has no symbol lock 100 µs after the source resumes and the port fails. -/
  | resumeLockTimeout (port : Fin 2) (lane : Fin 4)
  /-- CODEC_Q_TAIL (R184). A write of a codec queue TAIL submits descriptors and wakes CODEC. -/
  | codecQTail (q : Fin 2) (tail : Byte)
  /-- STREAM_DECOMPRESS (R179). A stream decompress descriptor is served. -/
  | streamDecompress (q : Fin 2)
  /-- STREAM_COMPRESS (R180). A stream compress descriptor is served span by span. -/
  | streamCompress (q : Fin 2)
  /-- EXACT_ENCODE (R163). An exact encode descriptor converts raw lines into blocks. -/
  | exactEncode (q : Fin 2) (faults : List Nat)
  /-- EXACT_DECODE (R163). An exact decode descriptor converts blocks into raw lines. -/
  | exactDecode (q : Fin 2)
  /-- BOUNDED_ENCODE_2_1 (R169). A bounded 2:1 encode descriptor is served. -/
  | boundedEncode21 (q : Fin 2)
  /-- BOUNDED_ENCODE_3_1 (R169). A bounded 3:1 encode descriptor is served. -/
  | boundedEncode31 (q : Fin 2)
  /-- BOUNDED_DECODE (R170). A bounded decode descriptor is served. -/
  | boundedDecode (q : Fin 2)
  /-- DESC_DONE (R184). A codec descriptor completes, its status is written and HEAD advances. -/
  | descDone (q : Fin 2)
  /-- CTX_RESET (R182). A write of CTX_RESET abandons a context's stream. -/
  | ctxReset (mask : BitVec 4)
  /-- BLOCK_ENCODE (R167). A fixed-path encoder codes a segment, verifies it and writes block and length entry. -/
  | blockEncode (unit : WriteUnit) (line : BitVec 13) (seg : Fin 128) (rx : RxLine) (fault : Bool)
  /-- BLOCK_FETCH (R171). A fixed-path reader receives a block and checks it. -/
  | blockFetch (unit : ReadUnit) (line : BitVec 13) (seg : Fin 128)
  /-- GUARD_RELEASE (R88). A held write's range stops being guarded and the write is performed. -/
  | guardRelease
  /-- GUARD_EXPIRE (R88). A held write reaches GUARD_WAIT frame periods and ends with a GUARD error. -/
  | guardExpire
  /-- TRAIN_PHASE_TIMEOUT (R144). A Col lane training phase bound expires. -/
  | trainPhaseTimeout
  /-- LOCK_N_FALL (R145). LOCK_N falls and the low filter starts. -/
  | lockNFall
  /-- LOCK_N_RISE (R145). LOCK_N rises, counting a short low as an error pulse. -/
  | lockNRise
  /-- LOCK_LOSS (R145). LOCK_N stays low for 2 µs and a loss of lock is raised. -/
  | lockLoss
  /-- RELOCK (R146). At the first slot of the next blanking the lanes send TP1 and TP2 to relock. -/
  | relock
  /-- LANE_SEARCH_STEP (R146). One lane is idled and restored to find the failing lane. -/
  | laneSearchStep (rose : Bool)
  /-- LANE_RETRY (R146). Every 64 frames a failed lane is tried again in blanking. -/
  | laneRetry (lane : Fin 48) (passed : Bool)
  /-- TEST_BURST (R147). A test burst runs on one lane with trial settings in blanking. -/
  | testBurst (lane : Fin 48)
  /-- COL_CTLPKT_GO (R142). A queued control packet is sent on the named lanes. -/
  | colCtlpktGo
  /-- PSEQ_CMD_ON (R156). A PSEQ_CMD write of 0x1 starts the ON list. -/
  | pseqCmdOn
  /-- PSEQ_CMD_OFF (R156). A PSEQ_CMD write of 0x2 starts the OFF list. -/
  | pseqCmdOff
  /-- PSEQ_STEP (R153). An entry's delay ends and the sequencer executes the next entry of the running list. -/
  | pseqStep
  /-- WAIT_IN_MET (R153). A waited-for GPIO input goes high and the list continues. -/
  | waitInMet
  /-- WAIT_IN_TIMEOUT (R155). A WAIT_IN times out, raising PANEL_PWR_FAIL. -/
  | waitInTimeout
  /-- PFAIL (R154). PFAIL_N has been low for 2 µs: the PF list starts, the log freezes and the store flushes. -/
  | pfail
  /-- PFAIL_RELEASE (R384). PFAIL_N has been high for 100 ms and the refusal and log freeze end. -/
  | pfailRelease
  /-- BL_ENABLE (R236). The backlight is enabled and soft start begins on every enabled boost. -/
  | blEnable
  /-- BL_OFF (R236). The backlight shuts down with SHUT_CAUSE 3. -/
  | blOff
  /-- DALE_INSTRUCTION (R187). A dale executes a base RV32IMC or Zicsr instruction. -/
  | daleInstruction (dale : Byte) (cyc : Nat) (ecc : Fin 3)
  /-- DALE_LOAD (R189). A dale load reads its address map. -/
  | daleLoad (dale : Byte) (size : LdSize) (rd rs1 : Fin 32) (imm : BitVec 12) (cyc : Nat) (ecc : Fin 3)
  /-- DALE_STORE (R190). A dale store is checked against the guards and posted. -/
  | daleStore (dale : Byte) (size : StSize) (rs1 rs2 : Fin 32) (imm : BitVec 12) (cyc : Nat) (ecc : Fin 3) (loses : List Bool)
  /-- PADD_S16 (R195). Packed signed saturating add. -/
  | paddS16 (dale : Byte) (rd rs1 rs2 : Fin 32) (cyc : Nat)
  /-- PSUB_S16 (R195). Packed signed saturating subtract. -/
  | psubS16 (dale : Byte) (rd rs1 rs2 : Fin 32) (cyc : Nat)
  /-- PADD_U16 (R195). Packed unsigned saturating add. -/
  | paddU16 (dale : Byte) (rd rs1 rs2 : Fin 32) (cyc : Nat)
  /-- PSUB_U16 (R195). Packed unsigned saturating subtract. -/
  | psubU16 (dale : Byte) (rd rs1 rs2 : Fin 32) (cyc : Nat)
  /-- CLAMP (R195). Signed clamp to packed bounds. -/
  | clamp (dale : Byte) (rd rs1 rs2 : Fin 32) (cyc : Nat)
  /-- RCPE (R195). Reciprocal estimate. -/
  | rcpe (dale : Byte) (rd rs1 : Fin 32) (cyc : Nat)
  /-- QMULR (R195). Q-format multiply with rounding and saturation. -/
  | qmulr (dale : Byte) (rd rs1 rs2 : Fin 32) (q : BitVec 5) (cyc : Nat)
  /-- LUTI (R196). Table interpolation. -/
  | luti (dale : Byte) (rd rs1 rs2 : Fin 32) (sh : BitVec 4) (cyc : Nat) (ecc : Fin 3)
  /-- HACC (R197). Histogram read-accumulate of four bins. -/
  | hacc (dale : Byte) (rd rs1 rs3 : Fin 32) (cyc : Nat) (ecc : Fin 3)
  /-- HACCW (R197). Weighted histogram read-accumulate. -/
  | haccw (dale : Byte) (rd rs1 rs2 rs3 : Fin 32) (cyc : Nat) (ecc : Fin 3)
  /-- BFX (R198). Bit-field extract. -/
  | bfx (dale : Byte) (rd rs1 : Fin 32) (lsb width1 : BitVec 5) (sgn : Bool) (cyc : Nat)
  /-- BFI (R198). Bit-field insert. -/
  | bfi (dale : Byte) (rd rs1 : Fin 32) (lsb width1 : BitVec 5) (cyc : Nat)
  /-- DMAQ (R199). Queues a glen DMA descriptor and returns its tag. -/
  | dmaq (dale : Byte) (rd rs1 : Fin 32) (cyc : Nat) (ecc : Fin 3)
  /-- DMAW (R199). Waits for DMA tags and returns the error mask. -/
  | dmaw (dale : Byte) (rd rs1 : Fin 32) (cyc : Nat)
  /-- JEND (R203). Ends or abandons the job once its stores and transfers complete. -/
  | jend (dale : Byte) (rs1 : Fin 32) (cyc : Nat)
  /-- WFE (R200). Waits for an enabled dale event. -/
  | wfe (dale : Byte) (rd rs1 : Fin 32) (cyc : Nat)
  /-- DFENCE (R201). Orders the named access kinds of the dale. -/
  | dfence (dale : Byte) (pred succ : BitVec 5) (cyc : Nat)
  /-- FFENCE (R202). Completes all accesses and waits for the next latch point. -/
  | ffence (dale : Byte) (rd : Fin 32) (cyc : Nat)
  /-- JOB_MERGE_DONE (R211). A JEND merge completes into staging, DIRTY is set and the dale starts its next job. -/
  | jobMergeDone (dale : Byte) (merge : MergeEnd)
  /-- DMA_TAG_DONE (R204). A glen DMA transfer completes with its status. -/
  | dmaTagDone (glen : BitVec 6) (dma : DmaEnd)
  /-- JOB_OVERRUN (R214). A job reaches its cap and is killed as a fault. -/
  | jobOverrun (dale : Byte)
  /-- DALE_START (R217). A write of DALE_CTRL.START starts a SERVICE dale at START_PC. -/
  | daleStart (dale : Byte)
  /-- DALE_DOORBELL (R217). A write of DALE_CTRL.DOORBELL latches the dale's DOORBELL event. -/
  | daleDoorbell (dale : Byte)
  /-- IMEM_LOAD_GO (R218). A write of IMEM_LOAD.GO arms a reload at the next latch point. -/
  | imemLoadGo
  /-- IMEM_LOAD_DONE (R218). The IMEM copy ends, GO clears and dispatch proceeds. -/
  | imemLoadDone
  /-- PWM_PERIOD_START (R226). A PWM period starts: duties apply and boost targets are set. -/
  | pwmPeriodStart (index : Fin 8) (sense : PwmSense)
  /-- ZB_FS_SEND (R243). ZB_LEAD before a period start, FS or PS is sent with the budget scale. -/
  | zbFsSend (index : Fin 8)
  /-- DUTY_CUTOFF (R224). 14 µs before the latch point late duty merges are marked and granule 0 reads begin. -/
  | dutyCutoff
  /-- ZB_UPD_SEND (R245). Queued duty entries are sent to a zone-sink IC in a UPD packet. -/
  | zbUpdSend
  /-- ZB_UPD_RETURN (R245). A UPD returns and unacknowledged entries are queued again. -/
  | zbUpdReturn (ack : Bool)
  /-- ZB_STAT_SEND (R246). 2 µs after a period start a STAT packet is sent. -/
  | zbStatSend
  /-- ZB_STAT_RETURN (R246). A STAT returns and each slot's status is taken. -/
  | zbStatReturn (slots : List (List Byte))
  /-- ZB_ENUM (R248). A write of ZB_CTRL.ENUM sends RST_ADDR and ENUM. -/
  | zbEnum
  /-- ZB_ENUM_RETURN (R248). The ENUM returns and each IC is configured. -/
  | zbEnumReturn (ids : List (BitVec 16 × Byte × Byte))
  /-- ZB_RING_DOWN (R249). ZB_RX lock is lost for 10 µs, or STAT gets no reply, and the ring is down. -/
  | zbRingDown
  /-- ZB_REPLUG (R249). ZB_RX holds lock for 1 ms and the ring is re-enumerated. -/
  | zbReplug
  /-- NEED_SAMPLE (R230). At the end of an on-segment V_OUT and V_PIN are sampled. -/
  | needSample (sink : Fin 128) (vOut vPin : Nat)
  /-- BOOST_OV (R232). V_OUT reaches VMAX + 1 V and switching stops for the period. -/
  | boostOv (b : Fin 16)
  /-- BOOST_OC (R233). ILIM in 64 consecutive cycles latches the boost off. -/
  | boostOc (b : Fin 16)
  /-- BOOST_UV_TIMEOUT (R233). V_OUT below half the target for 1 ms latches the boost off. -/
  | boostUvTimeout (b : Fin 16)
  /-- BOOST_OC_CLEAR (R233). A write of 1 to OC restarts the boost through soft start. -/
  | boostOcClear (b : Fin 16)
  /-- SOFT_START_DONE (R229). The boost reaches VSTART and neediest-string tracking begins. -/
  | softStartDone (b : Fin 16)
  /-- BL_SHUTDOWN (R236). BL die temperature or dissipation exceeds its limit and the backlight shuts down. -/
  | blShutdown (why : ShutWhy)
  /-- BL_RESTART (R236). A write of RESTART resumes the backlight through soft start. -/
  | blRestart
  /-- BL_POLICY (R235). A write of POLICY takes effect at the next unsent FS or PS. -/
  | blPolicy (policy : BitVec 16)
  /-- DIAG_PULSE (R239). After 64 periods without a long segment a diagnostic pulse is lit. -/
  | diagPulse (sink : Fin 128)
  /-- PIN_TEST (R241). The 10-minute neighbouring-pin test runs on the sink pairs. -/
  | pinTest (a b : Fin 128) (result : PinTest)
  /-- SINK_FAULT_CLEAR (R237). A write of 1 to OPEN or PIN_SHORT relights the string. -/
  | sinkFaultClear (sink : Fin 128) (clr : BitVec 4)
  /-- CAL_WINDOW_END (R254). A calibration window ends by count or timeout and is tested. -/
  | calWindowEnd (c : Fin 3) (inst : BitVec 12) (timeout : Bool)
  /-- CAL_FIT_READY (R258). 4,096 periods of sense-gain sums are ready for firmware. -/
  | calFitReady (b : Fin 16)
  /-- SG_COMMIT (R258). A write of SG_COMMIT starts a verification window for a boost's candidate gains. -/
  | sgCommit (b : Fin 16)
  /-- CAL_FIT_TIMEOUT (R258). Candidate gains are missing 1 s after CAL_FIT_READY and the window is rejected. -/
  | calFitTimeout (b : Fin 16)
  /-- TS_SAMPLE (R259). The temperature sensors are sampled once per millisecond. -/
  | tsSample (raw : List (BitVec 16))
  /-- EQ_STEP (R262). A receiver equalizer step is kept or rejected after its error window. -/
  | eqStep (port : Fin 2) (lane : Fin 4) (taps : Nat) (errors : Bool)
  /-- COL_TUNE (R263). Every 64 frames a lane's de-emphasis and swing trials run. -/
  | colTune (now : Nat) (trials : List (BitVec 2 × BitVec 2 × Nat))
  /-- CAL_FW_REPORT (R264). A firmware report is treated as a rejection of calibration 5. -/
  | calFwReport (zone : BitVec 12) (reason : BitVec 4)
  /-- CAL_EN_WRITE (R267). A write clearing a CAL_CTRL.EN bit ends the running window. -/
  | calEnWrite (en : BitVec 6)
  /-- LS_ACCESS (R270). A master port access to the line store is arbitrated and served. -/
  | lsAccess (reqs : List LsReq) (upsets : List Upset)
  /-- BANK_IDLE (R276). 64 idle cycles start the signature for retention entry. -/
  | bankIdle (k : Fin 64)
  /-- BANK_SIG_DONE (R277). The retention signature completes and the bank enters retention. -/
  | bankSigDone (k : Fin 64)
  /-- BANK_STATE_REQ (R276). A write of LS_BANK_CTRL.STATE_REQ requests a bank state. -/
  | bankStateReq (k : Fin 64) (verify : Bool) (req : BitVec 2)
  /-- BANK_CHECK_DONE (R278). The retention check after wake compares the CRC with the signature. -/
  | bankCheckDone (k : Fin 64)
  /-- BANK_CLEAR_DONE (R276). An off bank finishes clearing and is on. -/
  | bankClearDone (k : Fin 64)
  /-- REGION_TEST_START (R280). Every TEST_GAP µs the engine takes the next region. -/
  | regionTestStart (busy : Bool)
  /-- REGION_TEST_DONE (R281). A region's march and restore end, reporting failures. -/
  | regionTestDone (fails : List (Fin 16))
  /-- GDMA_Q_TAIL (R285). A write of GDMA_Q_TAIL submits descriptors and wakes LS. -/
  | gdmaQTail (c : Fin 4) (tail : Byte)
  /-- GDMA_COPY (R287). A copy descriptor is served. -/
  | gdmaCopy (c : Fin 4)
  /-- GDMA_FILL (R286). A fill descriptor writes PATTERN from DST. -/
  | gdmaFill (c : Fin 4)
  /-- GDMA_DESC_DONE (R287). A general DMA descriptor completes or errors and HEAD advances. -/
  | gdmaDescDone (c : Fin 4)
  /-- DRAM_REQUEST (R296). A requester's access reaches a DRAM channel and is queued. -/
  | dramRequest (port : Fin 9) (addr : BitVec 33) (len : Fin 33) (data : Option (List Byte))
  /-- DRAM_COMPLETE (R302). A DRAM access completes with its data and status. -/
  | dramComplete (ch : Fin 8) (upsets : List Upset)
  /-- DRAM_AGE_PROMOTE (R297). A request waits past AGE_LIMIT and is promoted. -/
  | dramAgePromote (ch : Fin 8) (idx : Nat)
  /-- QUOTA_BUCKET (R298). A 1 µs quota bucket ends and USE is updated. -/
  | quotaBucket
  /-- DRQ_QUOTA_WRITE (R299). A write of QUOTA changes the port's quota. -/
  | drqQuotaWrite (port : Fin 9) (quota : BitVec 16)
  /-- PANIC_ASSERT (R303). An RT port's level reaches PANIC_ON. -/
  | panicAssert (port : Fin 3)
  /-- PANIC_RELEASE (R303). An RT port's level falls to PANIC_OFF. -/
  | panicRelease (port : Fin 3)
  /-- DRAM_REFRESH (R305). A scheduled refresh issues or is postponed. -/
  | dramRefresh (ch : Fin 8)
  /-- REFRESH_REPAY (R305). A postponed refresh is repaid midway between scheduled ones. -/
  | refreshRepay (ch : Fin 8)
  /-- MR4_READ (R304). Every 1 ms mode register 4 is read and channel 7's refresh rate updated. -/
  | mr4Read (reports : List Mr4Report)
  /-- RD_WINDOW_END (R311). The row-tracking window ends and throttles lift. -/
  | rdWindowEnd
  /-- SR_IDLE_ENTRY (R308). SR_IDLE µs without a request put a channel into self-refresh. -/
  | srIdleEntry (ch : Fin 8)
  /-- SR_EXIT_DONE (R309). A channel leaves self-refresh and is active. -/
  | srExitDone (ch : Fin 8)
  /-- DRAM_SEG_CLEAR (R310). A write of DRAM_SEG_CLEAR starts zero fill of a lost segment. -/
  | dramSegClear (ch : Fin 8) (segs : BitVec 8)
  /-- SEG_CLEAR_DONE (R310). The segment fill ends and LOST clears. -/
  | segClearDone (ch : Fin 8) (seg : Fin 8)
  /-- SCRUB_STEP (R301). The scrubber reads and corrects the next block. -/
  | scrubStep (upsets : List Upset)
  /-- DRAM_TRAIN_DONE (R312). Training ends and failed channels are marked. -/
  | dramTrainDone (failed : BitVec 8)
  /-- WCK_OSC_READ (R312). Every 100 ms the WCK oscillator is read and corrected. -/
  | wckOscRead (channels : BitVec 8)
  /-- TS_RECEIVED (R317). A wall port receives a training set. -/
  | tsReceived (p : Fin 4) (ts : TrainSet)
  /-- WALL_COMMA_TIMEOUT (R317). 2 µs without a comma, or too many symbol errors, puts the port down. -/
  | wallCommaTimeout (p : Fin 4) (errors : Nat)
  /-- BEACON_TX (R322). Every millisecond a BEACON is sent on each non-upstream port. -/
  | beaconTx (now : BitVec 64) (fsTime : BitVec 32)
  /-- DREQ_TX (R322). Every second a DREQ is sent. -/
  | dreqTx (now : BitVec 64)
  /-- BEACON_RX (R329). A beacon is received, epochs compared and the servo corrected. -/
  | beaconRx (p : Fin 4) (b : Beacon) (tRx : BitVec 64) (own : BitVec 32)
  /-- DREQ_RX (R331). A DREQ is received and answered with a DRSP. -/
  | dreqRx (p : Fin 4) (child : Bool) (t1 : BitVec 32) (seq : Byte) (t2 : BitVec 32) (t3 : BitVec 32)
  /-- DRSP_RX (R331). A DRSP gives a new link-delay measurement. -/
  | drspRx (p : Fin 4) (t1 : BitVec 32) (t2 : BitVec 32) (t3 : BitVec 32) (seq : Byte) (t4 : BitVec 32)
  /-- UPSTREAM_TIMEOUT (R322). The upstream port carries no beacon for 3.5 ms and a new one is chosen. -/
  | upstreamTimeout
  /-- ALMANAC_LOST (R332). 3.5 ms without a beacon: holdover, or a deputy takes the Almanac role. -/
  | almanacLost
  /-- LAK_RX (R320). A link acknowledgement releases a sent CMD packet. -/
  | lakRx (p : Fin 4) (lseq : Byte)
  /-- CMD_RESEND (R320). 20 µs without LAK resends the oldest CMD packet. -/
  | cmdResend (p : Fin 4)
  /-- JOIN (R326). The Almanac receives a JOIN and assigns an address. -/
  | join (p : Fin 4) (h : WallHdr) (id : BitVec 64) (req : BitVec 16) (cur : BitVec 16)
  /-- ASSIGN (R315). A worker receives its address. -/
  | assign (p : Fin 4) (h : WallHdr) (id : BitVec 64) (addr : BitVec 16) (refused : Bool)
  /-- LOST (R337). The Almanac receives unreachable addresses and sets WALL_LAG. -/
  | lost (p : Fin 4) (h : WallHdr) (addrs : List (BitVec 16))
  /-- PREPARE (R335). A member receives an Equinox PREPARE and stages the set. -/
  | prepare (p : Fin 4) (h : WallHdr) (set : BitVec 16) (f : BitVec 32) (kind : Byte) (scope : Bool) (bitmap : BitVec 1024) (data : List Byte)
  /-- ACK (R335). A device receives a subtree ACK and adds its counts. -/
  | ack (p : Fin 4) (h : WallHdr) (set : BitVec 16) (count : BitVec 16) (naks : BitVec 16) (reason : Byte)
  /-- GO (R336). A member receives GO and commits at its latch point of F − 1. -/
  | go (p : Fin 4) (h : WallHdr) (set : BitVec 16) (f : BitVec 32)
  /-- ABORT (R336). A member receives ABORT and discards the set. -/
  | abort (p : Fin 4) (h : WallHdr) (set : BitVec 16) (f : BitVec 32)
  /-- RESULT (R337). The Almanac receives a RESULT and sets WALL_LAG. -/
  | result (p : Fin 4) (h : WallHdr) (set : BitVec 16) (outcome : Byte)
  /-- WALL_REG_WR (R319). A wall REG_WR is executed as register writes. -/
  | wallRegWr (p : Fin 4) (h : WallHdr) (offset : BitVec 32) (words : List Word)
  /-- WALL_REG_RD (R319). A wall REG_RD is executed and answered with RD_RSP. -/
  | wallRegRd (p : Fin 4) (h : WallHdr) (offset : BitVec 32) (count : Byte)
  /-- RD_RSP (R319). A register read response is delivered to the requester. -/
  | rdRsp (p : Fin 4) (h : WallHdr) (status : Byte) (words : List Word)
  /-- MSG (R319). A MSG is delivered to firmware. -/
  | msg (p : Fin 4) (h : WallHdr) (data : List Byte)
  /-- WALL_STATE (R354). A wall STATE packet schedules a state change at frame F. -/
  | wallState (p : Fin 4) (h : WallHdr) (code : Byte) (f : BitVec 32)
  /-- NOTICE_PACKET (R339). A NOTICE packet is staged and forwarded, or NAKed. -/
  | noticePacket (p : Fin 4) (id : BitVec 16) (offset : BitVec 32) (total : BitVec 32) (data : List Byte) (good : Bool)
  /-- NOTICE_NAK (R339). A parent resends a notice from the first missing byte. -/
  | noticeNak (p : Fin 4) (h : WallHdr) (id : BitVec 16) (offset : BitVec 32)
  /-- NOTICE_DONE (R340). A subtree's notice result is received and counted. -/
  | noticeDone (p : Fin 4) (h : WallHdr) (id : BitVec 16) (ready : BitVec 16) (errors : BitVec 16)
  /-- EQX_CMD_PREPARE (R334). Almanac firmware starts an Equinox set by setting EQX_CMD.PREPARE. -/
  | eqxCmdPrepare (scope : Bool) (kind : Fin 4) (set : BitVec 16)
  /-- EQX_ACK (R335). Member firmware acknowledges or NAKs a staged set. -/
  | eqxAck (nak : Bool) (reason : Byte)
  /-- ACK_DEADLINE (R335). 80 µs before the latch point of F a device sends its ACK. -/
  | ackDeadline
  /-- EQX_ABORT_DEADLINE (R336). 50 µs before its latch point of F the Almanac sends ABORT if GO has not gone. -/
  | eqxAbortDeadline
  /-- NOTICE_TX (R339). A write of NOTICE_TX.GO sends a notice down the tree. -/
  | noticeTx (id : BitVec 16)
  /-- WALL_REMOVE (R315). A write of WALL_REMOVE releases an address binding. -/
  | wallRemove (addr : BitVec 10)
  /-- DOMAIN_IDLE (R344). IDLE_US without access puts an AUTO domain into retention. -/
  | domainIdle (k : Fin 80)
  /-- DOM_REQ_ON (R348). A DOM_CTRL.REQ of ON holds the domain on. -/
  | domReqOn (k : Fin 80)
  /-- DOM_REQ_RET (R348). A DOM_CTRL.REQ of RET powers the domain down or is refused. -/
  | domReqRet (k : Fin 80)
  /-- DOMAIN_POWER_DOWN_DONE (R345). A domain's power-down completes. -/
  | domainPowerDownDone (k : Fin 80)
  /-- DOMAIN_READY (R346). A waking domain is ready and stalled accesses proceed. -/
  | domainReady (k : Fin 80)
  /-- VREG_ACK (R351). A regulator acknowledges a voltage request. -/
  | vregAck (rail : Fin 16)
  /-- VREG_TIMEOUT (R351). 100 µs without acknowledgement resends or fails the request. -/
  | vregTimeout (rail : Fin 16)
  /-- VREG_RETRY (R351). Every 10 ms a failed exit raise is requested again. -/
  | vregRetry (rail : Fin 16)
  /-- DALE_TURBO (R350). A write of DALE_TURBO raises or lowers VDD_CORE and the dale clock. -/
  | daleTurbo (on : Bool)
  /-- STATE_RUN (R353). A RUN command starts an exit from FALLOW, VIGIL or DORMANT. -/
  | stateRun (src : CmdSrc)
  /-- STATE_FALLOW (R355). A FALLOW command marks the capture frame and starts entry. -/
  | stateFallow (src : CmdSrc)
  /-- STATE_VIGIL (R360). A VIGIL command starts the entry sequence. -/
  | stateVigil (src : CmdSrc)
  /-- STATE_DORMANT (R360). A DORMANT command starts the entry sequence. -/
  | stateDormant (src : CmdSrc)
  /-- STATE_CAPTURE (R356). A CAPTURE command captures the fallow frame in RUN. -/
  | stateCapture (src : CmdSrc)
  /-- STATE_HANDOVER (R354). A HANDOVER command makes the device take the Almanac role. -/
  | stateHandover (src : CmdSrc)
  /-- CAPTURE_DONE (R356). Every block of the capture frame is written and FALLOW_VALID sets. -/
  | captureDone
  /-- STATE_ENTRY_DONE (R355). The domains of a state entry are in retention and PWR_STATE reads the new state. -/
  | stateEntryDone
  /-- WAKE_SOURCE (R365). An enabled wake source latches and starts an exit. -/
  | wakeSource (src : BitVec 4) (detail : Byte)
  /-- VIGIL_TICK (R361). At each VIGIL period the AO sampler reads sensors and compares thresholds. -/
  | vigilTick (raw : List (BitVec 16)) (panel : Option (BitVec 8)) (ambient : Option (BitVec 16))
  /-- PAD_HOLD_RELEASE (R366). A write to PAD_HOLD releases a pad group. -/
  | padHoldRelease (mask : BitVec 6)
  /-- NV_CMD_READ (R370). NV_CMD OP READ reads pages. -/
  | nvCmdRead (count : BitVec 9) (flips : List (BitVec 18 × BitVec 3))
  /-- NV_CMD_UPDATE (R372). NV_CMD OP UPDATE writes pages by atomic update. -/
  | nvCmdUpdate (count : BitVec 9)
  /-- NV_CMD_SLOT_WRITE (R379). NV_CMD OP SLOT_WRITE writes AGE data pages. -/
  | nvCmdSlotWrite (count : BitVec 9)
  /-- NV_CMD_PW_CHECK (R382). NV_CMD OP PW_CHECK compares a candidate password. -/
  | nvCmdPwCheck (part : BitVec 4) (kind : Bool)
  /-- NV_CMD_PW_SET (R382). NV_CMD OP PW_SET sets a partition password. -/
  | nvCmdPwSet (part : BitVec 4) (kind : Bool)
  /-- NV_CMD_MODE (R381). NV_CMD OP MODE sets COMPAT and zeros the partition. -/
  | nvCmdMode (part : BitVec 4) (compat : Bool)
  /-- NV_CMD_CLEAR_PF (R384). NV_CMD OP CLEAR_PF zeros page 284 and clears PF_VALID. -/
  | nvCmdClearPf
  /-- NV_CMD_LOCK (R382). NV_CMD OP LOCK withdraws password grants. -/
  | nvCmdLock
  /-- NV_PROGRAM_DONE (R372). A page or group program completes and the operation advances. -/
  | nvProgramDone
  /-- NV_SPAN_GAP (R375). The 500 µs gap after a program span ends. -/
  | nvSpanGap
  /-- NV_MACRO_OFF (R369). 1 ms without an operation switches the macro off. -/
  | nvMacroOff
  /-- NV_REFRESH_TICK (R380). The next page is margin-read and rewritten if weak. -/
  | nvRefreshTick (weak : Bool) (still : Bool)
  /-- NV_LOCKOUT_MINUTE (R382). A lock-out minute elapses. -/
  | nvLockoutMinute
  /-- POWER_GOOD (R386). All supplies have been in range for 1 ms. -/
  | powerGood
  /-- RESET_N_LOW (R387). RESET_N held low for 10 µs resets every domain. -/
  | resetNLow
  /-- BOOT_START (R386). At the later of power-good and RESET_N rise the straps are sampled and the boot ROM runs. -/
  | bootStart (straps : BitVec 6)
  /-- FLASH_READ_FAIL (R390). DS does not toggle within 1 µs and the slot is marked invalid. -/
  | flashReadFail
  /-- BOOT_HOLD_RETRY (R396). Every 10 s in boot hold the sequence restarts. -/
  | bootHoldRetry
  /-- BOOT_RETRY (R396). A write of BOOT_CTRL.RETRY restarts the sequence at once. -/
  | bootRetry
  /-- WALL_WAIT_EXPIRE (R402). WALL_WAIT elapses and a worker lights alone. -/
  | wallWaitExpire
  /-- LOCKSTEP_MISMATCH (R410). The lockstep comparator or an uncorrectable CP memory error restarts the control processor. -/
  | lockstepMismatch
  /-- WDT_EXPIRE (R413). The watchdog expires and restarts the control processor. -/
  | wdtExpire
  /-- WDT_KICK (R413). A write of 0x5A to WDT_KICK restarts the watchdog count. -/
  | wdtKick (value : Byte)
  /-- WDT_ENABLE (R413). A write of WDT_CTRL.EN enables the watchdog until boot start. -/
  | wdtEnable
  /-- CP_INTERRUPT (R419). An enabled block event makes the machine external interrupt pending. -/
  | cpInterrupt
  /-- CP_LOAD (R415). A control-processor load or fetch reads the address map. -/
  | cpLoad (size : LdSize) (rd rs1 : Fin 32) (imm : BitVec 12)
  /-- CP_STORE (R418). A control-processor store is posted. -/
  | cpStore (size : StSize) (rs1 rs2 : Fin 32) (imm : BitVec 12)
  /-- HOST_EVENT_SET (R421). Firmware sets FW_NOTICE or ALERT for the host. -/
  | hostEventSet (bits : BitVec 6)
  /-- MB_COMPLETE (R424). Firmware completes a mailbox response. -/
  | mbComplete (mask : BitVec 3)
  /-- MGMT_TRANSACTION (R423). A management-port private read or write accesses the 256-byte window. -/
  | mgmtTransaction (addr : BitVec 7) (write : List Byte) (read : Nat)
  /-- ENTDAA (R422). I3C CCC ENTDAA. -/
  | entdaa (addr : BitVec 7)
  /-- SETDASA (R422). I3C CCC SETDASA. -/
  | setdasa (static : BitVec 7) (addr : BitVec 7)
  /-- SETNEWDA (R422). I3C CCC SETNEWDA. -/
  | setnewda (cur : BitVec 7) (addr : BitVec 7)
  /-- RSTDAA (R422). I3C CCC RSTDAA. -/
  | rstdaa
  /-- GETPID (R422). I3C CCC GETPID. -/
  | getpid (addr : BitVec 7)
  /-- GETBCR (R422). I3C CCC GETBCR returns 0x06. -/
  | getbcr (addr : BitVec 7)
  /-- GETDCR (R422). I3C CCC GETDCR returns 0x00. -/
  | getdcr (addr : BitVec 7)
  /-- GETSTATUS (R422). I3C CCC GETSTATUS. -/
  | getstatus (addr : BitVec 7)
  /-- GETMWL (R422). I3C CCC GETMWL returns 256. -/
  | getmwl (addr : BitVec 7)
  /-- GETMRL (R422). I3C CCC GETMRL returns 256. -/
  | getmrl (addr : BitVec 7)
  /-- ENEC (R422). I3C CCC ENEC enables in-band interrupts. -/
  | enec (addr : BitVec 7) (events : Byte)
  /-- DISEC (R422). I3C CCC DISEC disables in-band interrupts. -/
  | disec (addr : BitVec 7) (events : Byte)
  /-- BOOT_STATUS (R425). Mailbox command returning boot status. -/
  | bootStatus (m : Fin 3)
  /-- DEVICE_INFO (R425). Mailbox command returning device identity. -/
  | deviceInfo (m : Fin 3)
  /-- RESTART_CP (R425). Mailbox command restarting the control processor. -/
  | restartCp (m : Fin 3)
  /-- GET_EVENTS (R425). Mailbox command returning event-log entries. -/
  | getEvents (m : Fin 3)
  /-- REG_READ (R425). Mailbox command reading registers. -/
  | regRead (m : Fin 3)
  /-- STATE (R425). Mailbox command issuing a power-state command. -/
  | state (m : Fin 3)
  /-- BRIGHTNESS (R425). Mailbox command setting brightness. -/
  | brightness (m : Fin 3)
  /-- REDISCOVER (R425). Mailbox command driving HPD low for rediscovery. -/
  | rediscover (m : Fin 3)
  /-- PW_CHECK (R425). Mailbox command checking a partition password. -/
  | pwCheck (m : Fin 3)
  /-- PW_SET (R425). Mailbox command setting a partition password. -/
  | pwSet (m : Fin 3)
  /-- LOCK (R425). Mailbox command withdrawing the mailbox's grants. -/
  | lock (m : Fin 3)
  /-- NV_READ (R425). Mailbox command reading a parameter-store page. -/
  | nvRead (m : Fin 3)
  /-- NV_WRITE (R425). Mailbox command writing a CFG or USER page. -/
  | nvWrite (m : Fin 3)
  /-- IMG_BEGIN (R426). Mailbox command opening an image transfer. -/
  | imgBegin (m : Fin 3) (stage : BitVec 27)
  /-- IMG_DATA (R426). Mailbox command carrying image bytes. -/
  | imgData (m : Fin 3)
  /-- IMG_END (R426). Mailbox command checking and writing the image to flash. -/
  | imgEnd (m : Fin 3) (good : Bool)
  /-- IMG_ACTIVATE (R426). Mailbox command arming the firmware swap for frame F. -/
  | imgActivate (m : Fin 3)
  /-- CP_SWAP_GO (R427). A write of CP_SWAP_CTRL.GO arms a firmware swap. -/
  | cpSwapGo (slot : Bool)
  /-- XSPI_READ (R428). An XSPI command with DIR 0 moves flash data to the line store. -/
  | xspiRead
  /-- XSPI_WRITE (R428). An XSPI command with DIR 1 programs or erases flash. -/
  | xspiWrite
  /-- XSPI_DONE (R428). An XSPI command ends and GO clears. -/
  | xspiDone
  /-- TAP_EXTEST (R429). TAP instruction EXTEST. -/
  | tapExtest
  /-- TAP_IDCODE (R429). TAP instruction IDCODE. -/
  | tapIdcode
  /-- TAP_SAMPLE_PRELOAD (R429). TAP instruction SAMPLE/PRELOAD. -/
  | tapSamplePreload
  /-- TAP_EXTEST_PULSE (R429). TAP instruction EXTEST_PULSE. -/
  | tapExtestPulse
  /-- TAP_EXTEST_TRAIN (R429). TAP instruction EXTEST_TRAIN. -/
  | tapExtestTrain
  /-- TAP_CLAMP (R429). TAP instruction CLAMP. -/
  | tapClamp
  /-- TAP_HIGHZ (R429). TAP instruction HIGHZ. -/
  | tapHighz
  /-- TAP_DTMCS (R429). TAP instruction DTMCS. -/
  | tapDtmcs
  /-- TAP_DMI (R429). TAP instruction DMI. -/
  | tapDmi (addr : BitVec 7) (data : Word) (op : BitVec 2)
  /-- TAP_FUSE (R431). TAP instruction FUSE reads or programs fuses. -/
  | tapFuse (cells : List (BitVec 9)) (inRange : Bool)
  /-- TAP_BYPASS (R429). TAP instruction BYPASS. -/
  | tapBypass
  /-- DEBUG_HALT (R430). The debugger halts both lockstep cores. -/
  | debugHalt
  /-- DEBUG_RESUME (R430). The debugger resumes both cores. -/
  | debugResume
  /-- DEBUG_STEP (R430). The debugger single-steps the hart. -/
  | debugStep
  /-- LOG_PUSH (R442). A write of LOG_PUSH appends a firmware entry. -/
  | logPush
  /-- LOG_POP (R443). A write of LOG_POP removes the oldest entry. -/
  | logPop
  /-- LOG_CLEAR (R445). A write of LOG_STATUS.CLEAR clears DROPPED. -/
  | logClear
  /-- REG_WRITE (R8). A write of a register with no behaviour of its own acts by its access code. -/
  | regWrite (offset : BitVec 21) (value : Word)
  /-- CP_INSTRUCTION (R409). The control processor executes a base instruction such as FENCE, WFI, MRET or an AMO. -/
  | cpInstruction
  /-- SUPPLY_LOSS (R364). VDD_CORE or VDD_AO leaves its range and the device is OFF. -/
  | supplyLoss
  /-- SIGNAL_DETECT (R46). Signal appears on main-link lane 0 of a DisplayPort port and SOURCE_PRESENT sets. -/
  | signalDetect (port : Fin 2)
  /-- WALL_SIGNAL_DETECT (R317). Signal is detected on a wall port and the port starts sending training sets. -/
  | wallSignalDetect (p : Fin 4)
  /-- ALPM_SLEEP_ENTRY (R60). The source puts the main link into ALPM sleep and ALPM_SLEEP sets. -/
  | alpmSleepEntry (port : Fin 2)
  /-- LANE_LOCK_REGAINED (R42). A trained lane regains symbol lock before 2 µs pass, so the loss only increments the counters. -/
  | laneLockRegained (port : Fin 2) (lane : Fin 4)
  /-- COMP_TIMING_LOSS (R38). COMP stops delivering timing and the reserve timer takes over the gate outputs within the same frame period at level 4. -/
  | compTimingLoss
  deriving DecidableEq, Repr

end Sys2Proof
end

