-- ==== Sys2Proof/Decode.lean ====
section
/-! DEFINITION.  The command that a word spells by the table's bits.  Every row of spec/opcode_table.json is an event at a
pin, a bus or a moment of the raster, and none gives bits: no word spells a command. -/

set_option Elab.async false

namespace Sys2Proof

/-- No row of the table gives bits. -/
def decodeTableWord (_nbits _w : Nat) : Option Instr := none

end Sys2Proof
end

