-- ==== Sys2Proof/Machine/Bits.lean ====
section
/-! DEFINITION.  Bit fields, signed readings, saturation and byte order: the arithmetic vocabulary
that every block of the device shares.  Quantities are exact `Nat`/`Int`; narrowing is always explicit. -/

set_option Elab.async false

namespace Sys2Proof

/-- Field [hi:lo] of a number (R6: NAME[msb:lsb]). -/
def bits (x hi lo : Nat) : Nat := x / 2 ^ lo % 2 ^ (hi + 1 - lo)

/-- Bit `i` of a number. -/
def bit (x i : Nat) : Bool := x.testBit i

/-- `x` with field [hi:lo] replaced by the low bits of `v`. -/
def putBits (x hi lo v : Nat) : Nat :=
  x - bits x hi lo * 2 ^ lo + v % 2 ^ (hi + 1 - lo) * 2 ^ lo

/-- `x` with bit `i` set to `b`. -/
def putBit (x i : Nat) (b : Bool) : Nat := putBits x i i b.toNat

/-- Two's-complement reading of the low `n` bits. -/
def sgn (n x : Nat) : Int :=
  let y := x % 2 ^ n
  if y < 2 ^ (n - 1) then (y : Int) else (y : Int) - (2 ^ n : Nat)

/-- The low `n` bits of an integer, as a two's-complement pattern. -/
def wrap (n : Nat) (x : Int) : Nat := (x % (2 ^ n : Nat)).toNat

/-- Clamp of an integer into [lo, hi]. -/
def clampI (lo hi x : Int) : Int := max lo (min hi x)

/-- Clamp of an integer to an unsigned range [0, hi]. -/
def clampN (hi : Nat) (x : Int) : Nat := (clampI 0 hi x).toNat

/-- Division rounding half up: floor((2a + b) / 2b). -/
def divRound (a b : Nat) : Nat := (2 * a + b) / (2 * b)

/-- Integer division by a power of two, rounding half up (an arithmetic shift after adding a half). -/
def shrRound (x : Int) (n : Nat) : Int := (x + (2 ^ n : Nat) / 2).fdiv (2 ^ n : Nat)

/-- Division rounding up. -/
def divUp (a b : Nat) : Nat := (a + b - 1) / b

/-- `x` rounded up to a multiple of `m`. -/
def alignUp (x m : Nat) : Nat := divUp x m * m

/-- A number as a byte, modulo 256. -/
def byteOf (n : Nat) : Byte := BitVec.ofNat 8 n

/-- Little-endian value of a list of bytes. -/
def leNat : List Byte → Nat
  | [] => 0
  | b :: bs => b.toNat + 256 * leNat bs

/-- Big-endian value of a list of bytes. -/
def beNat (bs : List Byte) : Nat := leNat bs.reverse

/-- The low `n` bytes of a number, little-endian. -/
def leBytes : Nat → Nat → List Byte
  | 0, _ => []
  | n + 1, x => BitVec.ofNat 8 x :: leBytes n (x / 256)

/-- The low `n` bytes of a number, big-endian. -/
def beBytes (n x : Nat) : List Byte := (leBytes n x).reverse

/-- Frame A is ahead of frame B when (A − B) mod 2³² lies between 1 and 2³¹ − 1 (R20). -/
def ahead (a b : Word) : Bool := let k := (a - b).toNat; 1 ≤ k && k ≤ 2 ^ 31 - 1

/-- Element `i` of a list of numbers, 0 past its end. -/
def nth (l : List Nat) (i : Nat) : Nat := (l[i]?).getD 0

/-- The list with element `i` replaced (unchanged past its end). -/
def setNth {α : Type} (l : List α) (i : Nat) (x : α) : List α := l.set i x

/-- Sum of a list of numbers. -/
def sumN (l : List Nat) : Nat := l.foldl (· + ·) 0

/-- Indexes `i < n` that satisfy a test, in rising order. -/
def idxs (n : Nat) (p : Nat → Bool) : List Nat := (List.range n).filter p

/-- The lowest index `i < n` that satisfies a test. -/
def firstIdx (n : Nat) (p : Nat → Bool) : Option Nat := (List.range n).find? p

/-- Number with bit `i` set for each `i < n` that satisfies a test. -/
def maskOf (n : Nat) (p : Nat → Bool) : Nat :=
  (List.range n).foldl (fun acc i => if p i then acc + 2 ^ i else acc) 0

/-- Insert before the first element that does not come before `x`. -/
def insertBy {α : Type} (le : α → α → Bool) (x : α) : List α → List α
  | [] => [x]
  | y :: ys => if le x y then x :: y :: ys else y :: insertBy le x ys

/-- A list in rising order; equal elements keep their order. -/
def sortBy {α : Type} (le : α → α → Bool) (l : List α) : List α := l.foldr (insertBy le) []

/-- A median of a nonempty list (the mean of the middle two for an even count). -/
def median (l : List Nat) : Nat :=
  let s := sortBy (fun a b => decide (a ≤ b)) l
  let n := s.length
  if n % 2 = 1 then nth s (n / 2) else (nth s (n / 2 - 1) + nth s (n / 2)) / 2

/-- The same for integers. -/
def medianI (l : List Int) : Int :=
  let s := sortBy (fun a b => decide (a ≤ b)) l
  let at_ := fun (i : Nat) => (s[i]?).getD 0
  let n := s.length
  if n % 2 = 1 then at_ (n / 2) else (at_ (n / 2 - 1) + at_ (n / 2)).fdiv 2

/-- Sum of a list of integers. -/
def sumI (l : List Int) : Int := l.foldl (· + ·) 0

/-- Integer quotient rounding half up. -/
def divRoundI (a : Int) (b : Nat) : Int := (2 * a + b).fdiv (2 * b)

end Sys2Proof
end

