-- ==== Sys2Proof/Machine/RegTable.lean ====
section
/-! DEFINITION.  The register map: every register and field that the register tables of the spec give,
with its address (R416, Table 17.2), power domain, access codes (R8) and reset value.  A reset value
"boot" (loaded from the boot image), "strap" or "fuses" is 0 here (DESIGN CHOICE, log entries 2 and 3). -/

set_option Elab.async false

namespace Sys2Proof

/-- A register, or an array of registers of one layout.  The masks say which bits have which access code
of Table 0.6; every other bit is RO or reserved. -/
structure Reg where
  /-- bus address of index 0 -/
  addr : Nat
  /-- bytes between two indexes -/
  stride : Nat
  /-- first index -/
  first : Nat
  /-- number of indexes -/
  count : Nat
  /-- power domain (Table 14.1) of the indexes below `split` -/
  dom : Nat
  /-- power domain of the indexes from `split` on -/
  dom2 : Nat
  split : Nat
  /-- reset value of each index; one entry stands for every index -/
  rst : List Nat
  rw : Nat
  rwl : Nat
  rws : Nat
  w1c : Nat
  w1s : Nat
  /-- implemented bits that a read returns (every field but WO) -/
  rd : Nat
  /-- its number in this map -/
  no : Nat
  deriving DecidableEq, Repr

/-- A field of a register. -/
structure Field where
  reg : Reg
  hi : Nat
  lo : Nat
  deriving DecidableEq, Repr

/-- Reset value of index `i`. -/
def Reg.reset (r : Reg) (i : Nat) : Nat :=
  match r.rst with
  | [x] => x
  | l => nth l (i - r.first)

/-- Bus address of index `i`. -/
def Reg.at (r : Reg) (i : Nat) : Nat := r.addr + r.stride * i

/-- The power domain of index `i`. -/
def Reg.domain (r : Reg) (i : Nat) : Nat := if i < r.split then r.dom else r.dom2

/-- The index of a bus address in the register, if the address is one of its words. -/
def Reg.index? (r : Reg) (a : Nat) : Option Nat :=
  if r.stride = 0 then if a = r.addr then some 0 else none
  else if a < r.addr then none
  else
    let k := (a - r.addr) / r.stride
    if (a - r.addr) % r.stride = 0 ∧ r.first ≤ k ∧ k < r.first + r.count then some k else none

/-- The index belongs to the register. -/
def Reg.has (r : Reg) (i : Nat) : Bool := decide (r.first ≤ i) && decide (i < r.first + r.count)

namespace R

/-- FSEQ_COMMIT, Table 1.4. -/
def FSEQ_COMMIT : Reg := ⟨0x40010000, 0, 0, 1, 5, 5, 1, [0], 0, 0, 0, 0, 0, 0, 24⟩
/-- FSEQ_STATUS, Table 1.5. -/
def FSEQ_STATUS : Reg := ⟨0x40010004, 0, 0, 1, 5, 5, 1, [0x40], 0, 0, 0, 0, 0, 0x7f, 25⟩
/-- FRAME_COUNT, Table 1.6. -/
def FRAME_COUNT : Reg := ⟨0x40010008, 0, 0, 1, 5, 5, 1, [0], 0, 0, 0, 0, 0, 0xffffffff, 26⟩
/-- FSEQ_COMMIT_TARGET, Table 1.7. -/
def FSEQ_COMMIT_TARGET : Reg := ⟨0x4001000c, 0, 0, 1, 5, 5, 1, [0], 0, 0, 0, 0, 0, 0xffffffff, 27⟩
/-- FSEQ_EVENT, Table 1.8. -/
def FSEQ_EVENT : Reg := ⟨0x40010010, 0, 0, 1, 5, 5, 1, [0], 0, 0, 0, 0x1f, 0, 0x1f, 28⟩
/-- RX_MODE, Table 2.11; reset from boot image. -/
def RX_MODE : Reg := ⟨0x400c0000, 0, 0, 1, 0, 0, 1, [0x230], 0xff30, 0, 0xb, 0, 0, 0xff3b, 255⟩
/-- RX_PORT_STATUS, Table 2.12. -/
def RX_PORT_STATUS : Reg := ⟨0x400c0020, 0x20, 0, 2, 0, 0, 2, [0], 0, 0, 0, 0, 0, 0xffff7fff, 258⟩
/-- RX_EVENT, Table 2.13. -/
def RX_EVENT : Reg := ⟨0x400c0008, 0, 0, 1, 0, 0, 1, [0], 0, 0, 0, 0xfffff, 0, 0xfffff, 256⟩
/-- RASTER_H, Table 3.6; reset boot. -/
def RASTER_H : Reg := ⟨0x40020000, 0, 0, 1, 5, 5, 1, [0], 0, 0, 0x3fff3fff, 0, 0, 0x3fff3fff, 32⟩
/-- RASTER_V, Table 3.7; reset boot. -/
def RASTER_V : Reg := ⟨0x40020004, 0, 0, 1, 5, 5, 1, [0], 0, 0, 0x7fff1fff, 0, 0, 0x7fff1fff, 33⟩
/-- RASTER_VRR, Table 3.8; reset boot. -/
def RASTER_VRR : Reg := ⟨0x40020008, 0, 0, 1, 5, 5, 1, [0], 0, 0, 0x80007fff, 0, 0, 0x80007fff, 34⟩
/-- RASTER_FLOOR, Table 3.9; reset boot. -/
def RASTER_FLOOR : Reg := ⟨0x4002000c, 0, 0, 1, 5, 5, 1, [0], 0, 0x1ffff, 0, 0, 0, 0x1ffff, 35⟩
/-- LATCH_CTRL, Table 3.10. -/
def LATCH_CTRL : Reg := ⟨0x40020010, 0, 0, 1, 5, 5, 1, [0x100000], 0, 0, 0x7f7fff, 0, 0, 0x7f7fff, 36⟩
/-- LINE_MATCH, Table 3.11. -/
def LINE_MATCH : Reg := ⟨0x40020014, 0, 0, 1, 5, 5, 1, [0], 0x80007fff, 0, 0, 0, 0, 0x80007fff, 37⟩
/-- SCAN_POS, Table 3.12. -/
def SCAN_POS : Reg := ⟨0x40020018, 0, 0, 1, 5, 5, 1, [0], 0, 0, 0, 0, 0, 0x17fff, 38⟩
/-- SCAN_EVENT, Table 3.13. -/
def SCAN_EVENT : Reg := ⟨0x4002001c, 0, 0, 1, 5, 5, 1, [0], 0, 0, 0, 0xff00ff, 0, 0xff00ff, 39⟩
/-- UNDERRUN_STATUS, Table 3.14. -/
def UNDERRUN_STATUS : Reg := ⟨0x40020024, 0, 0, 1, 5, 5, 1, [0], 0, 0, 0, 0, 0, 0x9fffffff, 41⟩
/-- UNDERRUN_FRAMES, Table 3.15. -/
def UNDERRUN_FRAMES : Reg := ⟨0x40020028, 0, 0, 1, 5, 5, 1, [0], 0, 0, 0, 0, 0, 0xffffffff, 42⟩
/-- COMP_CTRL, Table 3.16; reset boot. -/
def COMP_CTRL : Reg := ⟨0x40020030, 0, 0, 1, 5, 5, 1, [0], 2, 0, 9, 0, 0, 0xf, 43⟩
/-- BG_COLOR_RG, Table 3.17. -/
def BG_COLOR_RG : Reg := ⟨0x40020034, 0, 0, 1, 5, 5, 1, [0], 0, 0, 0xfff0fff, 0, 0, 0xfff0fff, 44⟩
/-- BG_COLOR_B, Table 3.18. -/
def BG_COLOR_B : Reg := ⟨0x40020038, 0, 0, 1, 5, 5, 1, [0], 0, 0, 0xfff, 0, 0, 0xfff, 45⟩
/-- RING_BASE, Table 3.19; reset boot. -/
def RING_BASE : Reg := ⟨0x40020040, 4, 0, 6, 5, 5, 6, [0], 0, 0xffffffff, 0, 0, 0, 0xffffffff, 46⟩
/-- RING_STATUS, Table 3.20. -/
def RING_STATUS : Reg := ⟨0x40020060, 4, 0, 2, 5, 5, 2, [0], 0, 0, 0, 0, 0, 0xffff0fff, 47⟩
/-- GUARD_CTRL, Table 3.21. -/
def GUARD_CTRL : Reg := ⟨0x40020070, 0, 0, 1, 5, 5, 1, [2], 0xff, 0, 0, 0, 0, 0xffff, 48⟩
/-- GUARD_HOLD, Table 3.22. -/
def GUARD_HOLD : Reg := ⟨0x40020074, 0, 0, 1, 5, 5, 1, [0], 0, 0, 0, 0, 0, 0xffffffff, 49⟩
/-- GUARD_STATUS, Table 3.23. -/
def GUARD_STATUS : Reg := ⟨0x40020078, 0, 0, 1, 5, 5, 1, [0], 0, 0, 0, 0, 0, 0xffffffff, 50⟩
/-- LAYER_CTRL, Table 3.24; reset boot for l=0. -/
def LAYER_CTRL : Reg := ⟨0x40020100, 0x40, 0, 8, 5, 5, 8, [0xff0000], 0, 0, 0xff1fff, 0, 0, 0xff1fff, 51⟩
/-- LAYER_BASE, Table 3.25. -/
def LAYER_BASE : Reg := ⟨0x40020104, 0x40, 0, 8, 5, 5, 8, [0], 0, 0, 0xffffffff, 0, 0, 0xffffffff, 52⟩
/-- LAYER_STRIDE, Table 3.26. -/
def LAYER_STRIDE : Reg := ⟨0x40020110, 0x40, 0, 8, 5, 5, 8, [0], 0, 0, 0xffffffff, 0, 0, 0xffffffff, 55⟩
/-- LAYER_SIZE, Table 3.27. -/
def LAYER_SIZE : Reg := ⟨0x40020114, 0x40, 0, 8, 5, 5, 8, [0], 0, 0, 0x1fff3fff, 0, 0, 0x1fff3fff, 56⟩
/-- RETIRED_BASE, Table 3.28. -/
def RETIRED_BASE : Reg := ⟨0x40020120, 0x40, 0, 8, 5, 5, 8, [0], 0, 0, 0, 0, 0, 0xffffffff, 59⟩
/-- PAL_ENTRY, Table 3.29. -/
def PAL_ENTRY : Reg := ⟨0x40021000, 4, 0, 1792, 5, 5, 1792, [0], 0, 0, 0xffffffff, 0, 0, 0xffffffff, 66⟩
/-- CORR_CTRL, Table 4.4; reset boot. -/
def CORR_CTRL : Reg := ⟨0x40040000, 0, 0, 1, 6, 6, 1, [0x48], 0, 0, 0x1ff, 0, 0, 0x1ff, 91⟩
/-- ZONE_GRID, Table 4.5; reset boot. -/
def ZONE_GRID : Reg := ⟨0x40040004, 0, 0, 1, 6, 6, 1, [0], 0, 0, 0x7f00ff, 0, 0, 0x7f00ff, 92⟩
/-- ZONE_SIZE, Table 4.6; reset boot. -/
def ZONE_SIZE : Reg := ⟨0x40040008, 0, 0, 1, 6, 6, 1, [0], 0, 0, 0x1fff3fff, 0, 0, 0x1fff3fff, 93⟩
/-- STAT_CTRL, Table 4.7. -/
def STAT_CTRL : Reg := ⟨0x4004000c, 0, 0, 1, 6, 6, 1, [0xe000001], 0, 0, 0xfff0001, 0, 0, 0xfff0001, 94⟩
/-- STAT_BASE, Table 4.8; reset boot. -/
def STAT_BASE : Reg := ⟨0x40040010, 0, 0, 1, 6, 6, 1, [0], 0, 0xfffff, 0, 0, 0, 0xfffff, 95⟩
/-- STAT_STATUS, Table 4.9. -/
def STAT_STATUS : Reg := ⟨0x40040014, 0, 0, 1, 6, 6, 1, [0], 0, 0, 0, 0, 0, 7, 96⟩
/-- STAT_FRAME, Table 4.10. -/
def STAT_FRAME : Reg := ⟨0x40040018, 0, 0, 1, 6, 6, 1, [0], 0, 0, 0, 0, 0, 0xffffffff, 97⟩
/-- COMP_REF, Table 4.11; reset boot. -/
def COMP_REF : Reg := ⟨0x4004001c, 0, 0, 1, 6, 6, 1, [0x40000000], 0, 0, 0xffffffff, 0, 0, 0xffffffff, 98⟩
/-- DEMURA_ANCHOR, Table 4.12; reset boot. -/
def DEMURA_ANCHOR : Reg := ⟨0x40040020, 0, 0, 1, 6, 6, 1, [0], 0, 0, 0xffffff, 0, 0, 0xffffff, 99⟩
/-- DEMURA_SCALE, Table 4.13; reset boot. -/
def DEMURA_SCALE : Reg := ⟨0x40040028, 4, 0, 3, 6, 6, 3, [0], 0, 0, 0xffffff, 0, 0, 0xffffff, 101⟩
/-- DEMURA_BASE, Table 4.14; reset boot. -/
def DEMURA_BASE : Reg := ⟨0x40040040, 4, 0, 3, 6, 6, 3, [0], 0, 0, 0xffffffff, 0, 0, 0xffffffff, 102⟩
/-- DEMURA_PITCH, Table 4.15; reset boot. -/
def DEMURA_PITCH : Reg := ⟨0x4004004c, 0, 0, 1, 6, 6, 1, [0], 0, 0, 0xffff, 0, 0, 0xffff, 103⟩
/-- DEMURA_LEN_BASE, Table 4.16; reset boot. -/
def DEMURA_LEN_BASE : Reg := ⟨0x40040050, 4, 0, 3, 6, 6, 3, [0], 0, 0, 0xfffff, 0, 0, 0xfffff, 104⟩
/-- LUT_BASE, Table 4.17; reset boot. -/
def LUT_BASE : Reg := ⟨0x40040060, 0, 0, 1, 6, 6, 1, [0], 0, 0xfffff, 0, 0, 0, 0xfffff, 105⟩
/-- CORR_EVENT, Table 4.18. -/
def CORR_EVENT : Reg := ⟨0x40040070, 0, 0, 1, 6, 6, 1, [0], 0, 0, 0, 0x1f, 0, 0x1f, 106⟩
/-- CLIP_COUNT, Table 4.19. -/
def CLIP_COUNT : Reg := ⟨0x40040078, 0, 0, 1, 6, 6, 1, [0], 0, 0, 0, 0, 0, 0x3ffffff, 108⟩
/-- DRIVE_CTRL, Table 5.7; reset boot. -/
def DRIVE_CTRL : Reg := ⟨0x40050000, 0, 0, 1, 7, 7, 1, [8], 0, 0, 0x3fd, 0, 0, 0x3fd, 110⟩
/-- OD_TEMP_LO, Table 5.8; reset boot. -/
def OD_TEMP_LO : Reg := ⟨0x40050004, 0, 0, 1, 7, 7, 1, [0], 0, 0, 0xffffffff, 0, 0, 0xffffffff, 111⟩
/-- OD_CFG, Table 5.9. -/
def OD_CFG : Reg := ⟨0x4005000c, 0, 0, 1, 7, 7, 1, [0x19000002], 0, 0, 0xffff000f, 0, 0, 0xffff000f, 113⟩
/-- OD_TABLE_BASE, Table 5.10; reset boot. -/
def OD_TABLE_BASE : Reg := ⟨0x40050010, 0, 0, 1, 7, 7, 1, [0], 0, 0xfffff, 0, 0, 0, 0xfffff, 114⟩
/-- HIST_BASE, Table 5.11; reset boot. -/
def HIST_BASE : Reg := ⟨0x40050014, 4, 0, 2, 7, 7, 2, [0], 0, 0, 0xffffffff, 0, 0, 0xffffffff, 115⟩
/-- HIST_STATUS, Table 5.12. -/
def HIST_STATUS : Reg := ⟨0x40050020, 0, 0, 1, 7, 7, 1, [0xc], 0, 0, 0, 0, 0, 0x3d, 117⟩
/-- DRIVE_LIMIT_RG, Table 5.13; reset boot. -/
def DRIVE_LIMIT_RG : Reg := ⟨0x40050024, 0, 0, 1, 7, 7, 1, [0], 0, 0xfff0fff, 0, 0, 0, 0xfff0fff, 118⟩
/-- DRIVE_POLICY_RG, Table 5.14. -/
def DRIVE_POLICY_RG : Reg := ⟨0x4005002c, 0, 0, 1, 7, 7, 1, [0xfff0fff], 0, 0, 0xfff0fff, 0, 0, 0xfff0fff, 120⟩
/-- DITHER_M, Table 5.15, reset of Table 5.5. -/
def DITHER_M : Reg := ⟨0x40050040, 4, 0, 16, 7, 7, 16, [0x28082000, 0x2a0a2202, 0x18381030, 0x1a3a1232, 0x24042c0c, 0x26062e0e, 0x14341c3c, 0x16361e3e, 0x2b0b2303, 0x29092101, 0x1b3b1333, 0x19391131, 0x27072f0f, 0x25052d0d, 0x17371f3f, 0x15351d3d], 0, 0, 0x3f3f3f3f, 0, 0, 0x3f3f3f3f, 122⟩
/-- SAFE_COLOR_RG, Table 5.16; reset boot. -/
def SAFE_COLOR_RG : Reg := ⟨0x40050080, 0, 0, 1, 7, 7, 1, [0], 0xfff0fff, 0, 0, 0, 0, 0xfff0fff, 123⟩
/-- DRV_LAYOUT, Table 5.17; reset boot. -/
def DRV_LAYOUT : Reg := ⟨0x40050090, 0, 0, 1, 7, 7, 1, [0], 0, 0, 0xf3ff, 0, 0, 0xf3ff, 125⟩
/-- DRIVE_EVENT, Table 5.18. -/
def DRIVE_EVENT : Reg := ⟨0x400500a0, 0, 0, 1, 7, 7, 1, [0], 0, 0, 0, 0x1f, 0, 0x1f, 126⟩
/-- COL_CTRL, Table 6.11; reset boot. -/
def COL_CTRL : Reg := ⟨0x40060000, 0, 0, 1, 7, 7, 1, [0x400000], 0x400000, 0x8000003f, 0x7fbff000, 0, 0, 0xfffff03f, 131⟩
/-- COL_STATUS, Table 6.12. -/
def COL_STATUS : Reg := ⟨0x40060004, 0, 0, 1, 7, 7, 1, [1], 0, 0, 0, 0, 0, 0xf0001, 132⟩
/-- COL_PRESENT_LO, Table 6.13. -/
def COL_PRESENT_LO : Reg := ⟨0x40060008, 0, 0, 1, 7, 7, 1, [0], 0, 0, 0, 0, 0, 0xffffffff, 133⟩
/-- COL_LANE, Table 6.14; reset boot. -/
def COL_LANE : Reg := ⟨0x40060100, 4, 0, 48, 8, 9, 24, [0], 0x33, 0x3f00, 0, 0, 0, 0x3f33, 146⟩
/-- COL_EVENT, Table 6.15. -/
def COL_EVENT : Reg := ⟨0x40060020, 0, 0, 1, 7, 7, 1, [0], 0, 0, 0, 0x7f, 0, 0x7f, 137⟩
/-- COL_CTLPKT_HDR, Table 6.16. -/
def COL_CTLPKT_HDR : Reg := ⟨0x40060030, 0, 0, 1, 7, 7, 1, [0], 0x1fffff, 0, 0, 0, 0x80000000, 0x801fffff, 141⟩
/-- GATE_CTRL, Table 6.17; reset boot. -/
def GATE_CTRL : Reg := ⟨0x40020800, 0, 0, 1, 5, 5, 1, [0], 0, 0, 0x8f1f3fff, 0, 0, 0x8f1f3fff, 60⟩
/-- GATE_EDGE, Table 6.18; reset boot. -/
def GATE_EDGE : Reg := ⟨0x40020804, 0, 0, 1, 5, 5, 1, [0], 0, 0, 0xffffffff, 0, 0, 0xffffffff, 61⟩
/-- GATE_GST, Table 6.19; reset boot. -/
def GATE_GST : Reg := ⟨0x40020810, 4, 0, 4, 5, 5, 4, [0], 0, 0, 0xffffffff, 0, 0, 0xffffffff, 63⟩
/-- GATE_POL, Table 6.20; reset boot. -/
def GATE_POL : Reg := ⟨0x40020830, 0, 0, 1, 5, 5, 1, [0], 0, 0x7fffff, 0, 0, 0, 0x7fffff, 65⟩
/-- PSEQ_ON, Table 6.21; reset boot. -/
def PSEQ_ON : Reg := ⟨0x400e0000, 4, 0, 16, 0, 0, 16, [0], 0, 0xffffffff, 0, 0, 0, 0xffffffff, 284⟩
/-- PSEQ_STATUS, Table 6.22. -/
def PSEQ_STATUS : Reg := ⟨0x400e00a0, 0, 0, 1, 0, 0, 1, [0x100], 0, 0, 0, 0, 0, 0x1bf, 287⟩
/-- CODEC_CTRL, Table 7.8. -/
def CODEC_CTRL : Reg := ⟨0x40070000, 0, 0, 1, 10, 10, 1, [3], 3, 0, 0, 0, 0, 3, 147⟩
/-- CODEC_Q_CFG, Table 7.9. -/
def CODEC_Q_CFG : Reg := ⟨0x40070010, 0x10, 0, 2, 10, 10, 2, [0], 0xf0ffffc, 0, 0, 0, 0, 0xf0ffffc, 148⟩
/-- CODEC_EVENT, Table 7.10. -/
def CODEC_EVENT : Reg := ⟨0x40070040, 0, 0, 1, 10, 10, 1, [0], 0, 0, 0, 0x3f, 0, 0x3f, 151⟩
/-- VERIFY_MISMATCH_COUNT, Table 7.11. -/
def VERIFY_MISMATCH_COUNT : Reg := ⟨0x40070048, 0, 0, 1, 10, 10, 1, [0], 0, 0, 0, 0, 0, 0xffffffff, 153⟩
/-- CHECK_STATUS, Table 7.12. -/
def CHECK_STATUS : Reg := ⟨0x40070058, 0, 0, 1, 10, 10, 1, [0], 0, 0, 0, 0, 0, 0xffff007f, 157⟩
/-- RING_LEN_BASE, Table 7.13; reset boot. -/
def RING_LEN_BASE : Reg := ⟨0x40070080, 4, 0, 6, 10, 10, 6, [0], 0, 0xfffff, 0, 0, 0, 0xfffff, 158⟩
/-- FALLOW_BASE, Table 7.14; reset boot. -/
def FALLOW_BASE : Reg := ⟨0x400700a0, 0, 0, 1, 10, 10, 1, [0], 0, 0xffffffff, 0, 0, 0, 0xffffffff, 159⟩
/-- SCHED_CTRL, Table 8.9; reset boot. -/
def SCHED_CTRL : Reg := ⟨0x40030000, 0, 0, 1, 5, 5, 1, [0x143c], 0x3ffd, 0, 0, 0, 0, 0x3ffd, 67⟩
/-- SCHED_STATUS, Table 8.10; reset boot. -/
def SCHED_STATUS : Reg := ⟨0x40030004, 0, 0, 1, 5, 5, 1, [0], 0, 0, 0, 0, 0, 0xfffffff, 68⟩
/-- SCHED_EVENT, Table 8.11. -/
def SCHED_EVENT : Reg := ⟨0x40030010, 0, 0, 1, 5, 5, 1, [0], 0, 0, 0, 0x3ff, 0, 0x3ff, 70⟩
/-- IMEM_LOAD, Table 8.12. -/
def IMEM_LOAD : Reg := ⟨0x40030020, 0, 0, 1, 5, 5, 1, [0x2000000], 0x3ffffff, 0, 0, 0, 0x80000000, 0x83ffffff, 72⟩
/-- CTX_AREA, Table 8.13; reset boot. -/
def CTX_AREA : Reg := ⟨0x40030030, 4, 0, 2, 5, 5, 2, [0], 0, 0xffff0, 0, 0, 0, 0xffff0, 73⟩
/-- JOB_CFG, Table 8.14. -/
def JOB_CFG : Reg := ⟨0x40030100, 0x40, 0, 8, 5, 5, 8, [0xc0000000, 0x80001000, 0xc0001000, 0x80000000, 0x80000000, 0, 0, 0], 0, 0, 0xfffff000, 0, 0, 0xfffff000, 74⟩
/-- JOB_BUDGET, Table 8.15. -/
def JOB_BUDGET : Reg := ⟨0x40030114, 0x40, 0, 8, 5, 5, 8, [0xffffffff], 0xffffffff, 0, 0, 0, 0, 0xffffffff, 79⟩
/-- DALE_CTRL, Table 8.16; reset boot. -/
def DALE_CTRL : Reg := ⟨0x40030400, 4, 0, 256, 5, 5, 256, [0], 0xfffc, 0, 3, 0, 0x30000, 0x3ffff, 87⟩
/-- DALE_STATUS, Table 8.17; reset boot. -/
def DALE_STATUS : Reg := ⟨0x40030800, 4, 0, 256, 5, 5, 256, [0], 0, 0, 0, 0, 0, 0xfff3f07, 88⟩
/-- ZONE_MAP, Table 8.18; reset boot. -/
def ZONE_MAP : Reg := ⟨0x40031000, 4, 0, 1024, 5, 5, 1024, [0], 0, 0, 0xffffffff, 0, 0, 0xffffffff, 89⟩
/-- BL_CTRL, Table 9.5; reset boot. -/
def BL_CTRL : Reg := ⟨0x400b0000, 0, 0, 1, 15, 15, 1, [0x3000000], 0x83000000, 0x800000, 0x1f0700, 0, 0, 0x839f0700, 234⟩
/-- BL_SEG, Table 9.6; reset boot. -/
def BL_SEG : Reg := ⟨0x400b0004, 0, 0, 1, 15, 15, 1, [0x32], 0, 0, 0xffffffff, 0, 0, 0xffffffff, 235⟩
/-- BL_LIMIT, Table 9.7; reset boot. -/
def BL_LIMIT : Reg := ⟨0x400b0008, 0, 0, 1, 15, 15, 1, [0x400000], 0, 0xffffffff, 0, 0, 0, 0xffffffff, 236⟩
/-- BL_BUDGET, Table 9.8; reset boot. -/
def BL_BUDGET : Reg := ⟨0x400b000c, 0, 0, 1, 15, 15, 1, [0xffff0000], 0xffff0000, 0xffff, 0, 0, 0, 0xffffffff, 237⟩
/-- BL_STATUS, Table 9.9. -/
def BL_STATUS : Reg := ⟨0x400b0010, 0, 0, 1, 15, 15, 1, [0x80000000], 0, 0, 0, 0, 0, 0xffff0f07, 238⟩
/-- BL_EVENT, Table 9.10. -/
def BL_EVENT : Reg := ⟨0x400b0020, 0, 0, 1, 15, 15, 1, [0], 0, 0, 0, 0x3fff, 0, 0x3fff, 241⟩
/-- BOOST_CFG, Table 9.11; reset boot. -/
def BOOST_CFG : Reg := ⟨0x400b0100, 0x10, 0, 16, 15, 15, 16, [0], 0xffff00, 0x800000ff, 0, 0, 0, 0x80ffffff, 248⟩
/-- SINK_CFG, Table 9.12; reset boot. -/
def SINK_CFG : Reg := ⟨0x400b0400, 4, 0, 128, 15, 15, 128, [0], 0x80000000, 0xffff000, 0xff, 0, 0, 0x8ffff0ff, 253⟩
/-- CAL_CTRL, Table 10.4. -/
def CAL_CTRL : Reg := ⟨0x400f0000, 0, 0, 1, 0, 0, 1, [0x3f], 0x3f, 0, 0, 0, 0, 0x3f, 290⟩
/-- CAL_EVENT, Table 10.5. -/
def CAL_EVENT : Reg := ⟨0x400f0004, 0, 0, 1, 0, 0, 1, [0], 0, 0, 0, 0xf, 0, 0xf, 291⟩
/-- CAL_REJ_STATUS, Table 10.6. -/
def CAL_REJ_STATUS : Reg := ⟨0x400f000c, 0, 0, 1, 0, 0, 1, [0], 0, 0, 0, 0, 0, 0xfffe0fff, 293⟩
/-- CAL_STATUS, Table 10.7. -/
def CAL_STATUS : Reg := ⟨0x400f0020, 4, 0, 6, 0, 0, 6, [0x80], 0, 0, 0, 0, 0, 0xffffffff, 295⟩
/-- SINK_CAL, Table 10.8; reset from CAL record. -/
def SINK_CAL : Reg := ⟨0x400f0100, 4, 0, 128, 15, 15, 128, [0], 0, 0, 0, 0, 0, 0xffff007f, 296⟩
/-- TS_CAL, Table 10.9; reset from CAL record. -/
def TS_CAL : Reg := ⟨0x400f0500, 4, 0, 9, 0, 0, 9, [0], 0, 0, 0, 0, 0, 0xffff00ff, 298⟩
/-- GDMA_Q_CFG, Table 11.14. -/
def GDMA_Q_CFG : Reg := ⟨0x40150000, 0x10, 0, 4, 11, 11, 4, [0], 0xf0ffffe, 0, 0, 0, 0, 0xf0ffffe, 349⟩
/-- LS_CTRL, Table 11.6. -/
def LS_CTRL : Reg := ⟨0x40080000, 0, 0, 1, 11, 11, 1, [0xc9], 0x1ffff, 0, 0, 0, 0, 0x1ffff, 166⟩
/-- LS_EVENT, Table 11.7. -/
def LS_EVENT : Reg := ⟨0x40080010, 0, 0, 1, 11, 11, 1, [0], 0, 0, 0, 0x7f, 0, 0x7f, 167⟩
/-- LS_ECC_STATUS, Table 11.8. -/
def LS_ECC_STATUS : Reg := ⟨0x40080030, 0, 0, 1, 11, 11, 1, [0], 0, 0, 0, 0, 0, 0xfffff, 172⟩
/-- LS_PORT_CFG, Table 11.9. -/
def LS_PORT_CFG : Reg := ⟨0x40080100, 0x10, 0, 12, 11, 11, 12, [0, 1, 1, 1, 1, 0, 1, 0, 0, 0, 0, 0], 2, 1, 0, 0, 0, 3, 175⟩
/-- LS_BANK_CTRL, Table 11.10; reset boot. -/
def LS_BANK_CTRL : Reg := ⟨0x40080400, 4, 0, 64, 0, 0, 64, [0], 7, 0, 0, 0, 0, 7, 178⟩
/-- LS_BANK_STATUS, Table 11.11. -/
def LS_BANK_STATUS : Reg := ⟨0x40080500, 4, 0, 64, 0, 0, 64, [0], 0, 0, 0, 0x10, 0, 0x1f, 179⟩
/-- DRAM_CTRL, Table 12.6; reset boot. -/
def DRAM_CTRL : Reg := ⟨0x40090000, 0, 0, 1, 12, 12, 1, [0x1803], 0xff03, 0x70, 0, 0, 0, 0xff73, 182⟩
/-- DRAM_REGION, Table 12.7; reset boot. -/
def DRAM_REGION : Reg := ⟨0x40090010, 8, 0, 8, 12, 12, 8, [0], 0, 0xb0001fff, 0, 0, 0, 0xb0001fff, 183⟩
/-- DRAM_AGE_LIMIT, Table 12.8. -/
def DRAM_AGE_LIMIT : Reg := ⟨0x40090060, 0, 0, 1, 12, 12, 1, [0xc81402], 0xffffff, 0, 0, 0, 0, 0xffffff, 185⟩
/-- DRAM_RD_CFG, Table 12.9; reset boot. -/
def DRAM_RD_CFG : Reg := ⟨0x40090064, 0, 0, 1, 12, 12, 1, [0xa000000], 0xff000000, 0xffffff, 0, 0, 0, 0xffffffff, 186⟩
/-- DRAM_EVENT, Table 12.10. -/
def DRAM_EVENT : Reg := ⟨0x40090070, 0, 0, 1, 12, 12, 1, [0], 0, 0, 0, 0xffb, 0, 0xffb, 187⟩
/-- DRAM_ECC_STATUS, Table 12.11. -/
def DRAM_ECC_STATUS : Reg := ⟨0x40090084, 0, 0, 1, 12, 12, 1, [0], 0, 0, 0, 0, 0, 0xfffffff, 192⟩
/-- DRAM_ECC_INFO, Table 12.12. -/
def DRAM_ECC_INFO : Reg := ⟨0x40090088, 0, 0, 1, 12, 12, 1, [0], 0, 0, 0, 0, 0, 0xf07, 193⟩
/-- DRQ_CFG, Table 12.13; reset boot. -/
def DRQ_CFG : Reg := ⟨0x40090100, 0x10, 0, 9, 12, 12, 9, [0xffff0000, 0xffff0000, 0xffff0000, 0xffff0001, 0xffff0001, 0xffff0002, 0xffff0002, 0xffff0002, 0xffff0003], 0xfffffff3, 0, 0, 0, 0, 0xfffffff3, 195⟩
/-- DRAM_CH_CFG, Table 12.14; reset boot. -/
def DRAM_CH_CFG : Reg := ⟨0x40090200, 0x20, 0, 8, 12, 13, 7, [0], 0xffffff, 0, 0, 0, 0, 0xffffff, 198⟩
/-- DRAM_CH_STATUS, Table 12.15. -/
def DRAM_CH_STATUS : Reg := ⟨0x40090204, 0x20, 0, 8, 12, 13, 7, [0], 0, 0, 0, 0, 0, 0x1fff01ff, 199⟩
/-- WALL_CTRL, Table 13.6; reset boot, strap. -/
def WALL_CTRL : Reg := ⟨0x400a0000, 0, 0, 1, 14, 14, 1, [0], 0, 0xf5, 0, 0, 0, 0xf7, 201⟩
/-- WALL_STATUS, Table 13.7. -/
def WALL_STATUS : Reg := ⟨0x400a0008, 0, 0, 1, 14, 14, 1, [0xf00000], 0, 0, 0, 0, 0, 0xfff00c07, 203⟩
/-- WALL_PORT_STATUS, Table 13.8. -/
def WALL_PORT_STATUS : Reg := ⟨0x400a0040, 0x10, 0, 4, 14, 14, 4, [0xf000], 0, 0, 0, 0, 0, 0xfffff007, 211⟩
/-- EQX_CMD, Table 13.9. -/
def EQX_CMD : Reg := ⟨0x400a0080, 0, 0, 1, 14, 14, 1, [0], 0x4003ffff, 0, 0, 0, 0x80000000, 0xc003ffff, 214⟩
/-- EQX_STATUS, Table 13.10. -/
def EQX_STATUS : Reg := ⟨0x400a0090, 0, 0, 1, 14, 14, 1, [0], 0, 0, 0, 0, 0, 0xf3ffffff, 218⟩
/-- NOTICE_TX, Table 13.11. -/
def NOTICE_TX : Reg := ⟨0x400a0100, 0, 0, 1, 14, 14, 1, [0], 0xffff, 0, 0, 0, 0x80000000, 0x8000ffff, 221⟩
/-- WALL_EVENT, Table 13.12. -/
def WALL_EVENT : Reg := ⟨0x400a01c0, 0, 0, 1, 14, 14, 1, [0], 0, 0, 0, 0xfffff, 0, 0xfffff, 231⟩
/-- PWR_CMD, Table 14.12. -/
def PWR_CMD : Reg := ⟨0x400d0000, 0, 0, 1, 0, 0, 1, [0], 0, 0, 0, 0, 0, 0, 259⟩
/-- PWR_STATE, Table 14.13. -/
def PWR_STATE : Reg := ⟨0x400d0004, 0, 0, 1, 0, 0, 1, [0xf0], 0, 0, 0, 0, 0, 0xf7, 260⟩
/-- PWR_CFG, Table 14.14; reset boot. -/
def PWR_CFG : Reg := ⟨0x400d0008, 0, 0, 1, 0, 0, 1, [0x10000000], 0xf0007fff, 0x1ff0000, 0, 0, 0, 0xf1ff7fff, 261⟩
/-- WAKE_EN, Table 14.15; reset boot. -/
def WAKE_EN : Reg := ⟨0x400d0010, 0, 0, 1, 0, 0, 1, [0], 0x7ffe, 0, 0, 0, 0, 0x7ffe, 262⟩
/-- LAST_WAKE, Table 14.16. -/
def LAST_WAKE : Reg := ⟨0x400d0018, 0, 0, 1, 0, 0, 1, [0], 0, 0, 0, 0, 0, 0xffffff0f, 264⟩
/-- KEEP_LS_LO, Table 14.17; reset boot. -/
def KEEP_LS_LO : Reg := ⟨0x400d0040, 0x10, 0, 3, 0, 0, 3, [0], 0xffffffff, 0, 0, 0, 0, 0xffffffff, 269⟩
/-- VIGIL_CFG, Table 14.18; reset boot. -/
def VIGIL_CFG : Reg := ⟨0x400d0070, 0, 0, 1, 0, 0, 1, [0xf03e8], 0x1ffffff, 0, 0, 0, 0, 0x1ffffff, 273⟩
/-- VIGIL_TEMP, Table 14.19; reset boot. -/
def VIGIL_TEMP : Reg := ⟨0x400d0074, 0, 0, 1, 0, 0, 1, [0], 0xffffffff, 0, 0, 0, 0, 0xffffffff, 274⟩
/-- VREG_STATUS, Table 14.20. -/
def VREG_STATUS : Reg := ⟨0x400d0080, 0, 0, 1, 0, 0, 1, [0x40000], 0, 0, 0, 0, 0, 0xfffc01ff, 277⟩
/-- PAD_HOLD, Table 14.21. -/
def PAD_HOLD : Reg := ⟨0x400d0090, 0, 0, 1, 0, 0, 1, [0], 0, 0, 0, 0x3f, 0, 0x3f, 278⟩
/-- PWR_EVENT, Table 14.22. -/
def PWR_EVENT : Reg := ⟨0x400d00a0, 0, 0, 1, 0, 0, 1, [0], 0, 0, 0, 0xff, 0, 0xff, 279⟩
/-- DOM_CTRL, Table 14.23; reset boot. -/
def DOM_CTRL : Reg := ⟨0x400d0100, 8, 0, 80, 0, 0, 80, [0x640000], 0xffff0007, 0, 0, 0, 0, 0xffff0007, 282⟩
/-- NV_CTRL, Table 15.9. -/
def NV_CTRL : Reg := ⟨0x40100000, 0, 0, 1, 0, 0, 1, [0x1e01], 0xff01, 0, 0, 0, 0, 0xff01, 303⟩
/-- NV_CMD, Table 15.10. -/
def NV_CMD : Reg := ⟨0x40100004, 0, 0, 1, 0, 0, 1, [0], 0xf9ff00f, 0, 0, 0, 0x80000000, 0x8f9ff00f, 304⟩
/-- NV_STATUS, Table 15.11. -/
def NV_STATUS : Reg := ⟨0x40100010, 0, 0, 1, 0, 0, 1, [0x80000000], 0, 0, 0, 0, 0, 0xcff003ff, 307⟩
/-- NV_EVENT, Table 15.12. -/
def NV_EVENT : Reg := ⟨0x40100020, 0, 0, 1, 0, 0, 1, [0], 0, 0, 0, 0xff, 0, 0xff, 308⟩
/-- NV_SEL, Table 15.13. -/
def NV_SEL : Reg := ⟨0x40100034, 0, 0, 1, 0, 0, 1, [0], 0, 0, 0, 0, 0, 0x1f7, 311⟩
/-- NV_BUF, Table 15.14. -/
def NV_BUF : Reg := ⟨0x40100100, 4, 0, 16, 0, 0, 16, [0], 0xffffffff, 0, 0, 0, 0, 0xffffffff, 316⟩
/-- BOOT_STATUS, Table 16.9; reset straps. -/
def BOOT_STATUS : Reg := ⟨0x40110000, 0, 0, 1, 0, 0, 1, [0], 0, 0, 0, 0, 0, 0xffff00ff, 317⟩
/-- BOOT_SEQ, Table 16.10. -/
def BOOT_SEQ : Reg := ⟨0x40110004, 0, 0, 1, 0, 0, 1, [0], 0, 0, 0, 0, 0, 0xffffffff, 318⟩
/-- BOOT_LIGHT, Table 16.11. -/
def BOOT_LIGHT : Reg := ⟨0x40110010, 0, 0, 1, 0, 0, 1, [0], 0, 0, 0, 0, 0, 0xffffffff, 321⟩
/-- BOOT_CTRL, Table 16.12. -/
def BOOT_CTRL : Reg := ⟨0x40110014, 0, 0, 1, 0, 0, 1, [0xc8], 0, 0xffff, 0, 0, 0xc0000000, 0xc000ffff, 322⟩
/-- BOOT_EVENT, Table 16.13. -/
def BOOT_EVENT : Reg := ⟨0x40110018, 0, 0, 1, 0, 0, 1, [0], 0, 0, 0, 3, 0, 3, 323⟩
/-- BOOT_STAGE, Table 16.14; reset boot. -/
def BOOT_STAGE : Reg := ⟨0x40110044, 0, 0, 1, 0, 0, 1, [0], 0xfffff, 0, 0, 0, 0, 0xfffff, 327⟩
/-- IRQ_SUMMARY, Table 17.8. -/
def IRQ_SUMMARY : Reg := ⟨0x40000010, 0, 0, 1, 0, 0, 1, [0], 0, 0, 0, 0, 0, 0xfffff, 3⟩
/-- DEVICE_ID, Table 17.10. -/
def DEVICE_ID : Reg := ⟨0x40000000, 0, 0, 1, 0, 0, 1, [0x7400b100], 0, 0, 0, 0, 0, 0xffffff00, 0⟩
/-- CP_CTRL, Table 17.11. -/
def CP_CTRL : Reg := ⟨0x40000004, 0, 0, 1, 0, 0, 1, [0x60], 0x77, 0, 0, 0, 0, 0x77, 1⟩
/-- SYS_EVENT, Table 17.12. -/
def SYS_EVENT : Reg := ⟨0x40000020, 0, 0, 1, 0, 0, 1, [0], 0, 0, 0, 0xf, 0, 0xf, 5⟩
/-- WDT_CTRL, Table 17.13. -/
def WDT_CTRL : Reg := ⟨0x40000030, 0, 0, 1, 0, 0, 1, [0x3e8], 0xffff, 0, 0, 0, 0x80000000, 0x8000ffff, 9⟩
/-- MGMT_CFG, Table 17.14; reset boot. -/
def MGMT_CFG : Reg := ⟨0x40130330, 0, 0, 1, 0, 0, 1, [0x3c], 0, 0x17f, 0, 0, 0, 0x17f, 344⟩
/-- XSPI_CMD, Table 17.15. -/
def XSPI_CMD : Reg := ⟨0x40140000, 0, 0, 1, 0, 0, 1, [0], 0x3fff00ff, 0, 0, 0, 0x80000000, 0xffff00ff, 345⟩
/-- LADDER_CTRL, Table 18.7. -/
def LADDER_CTRL : Reg := ⟨0x40010018, 0, 0, 1, 5, 5, 1, [4], 0, 0, 7, 0, 0, 7, 30⟩
/-- LADDER_STATUS, Table 18.8. -/
def LADDER_STATUS : Reg := ⟨0x4001001c, 0, 0, 1, 5, 5, 1, [0x10], 0, 0, 0, 0, 0, 0xffff0f1f, 31⟩
/-- LOG_CTRL, Table 18.9. -/
def LOG_CTRL : Reg := ⟨0x40000100, 0, 0, 1, 0, 0, 1, [0x3c], 0xffff, 0, 0, 0, 0, 0xffff, 18⟩
/-- LOG_STATUS, Table 18.10. -/
def LOG_STATUS : Reg := ⟨0x40000104, 0, 0, 1, 0, 0, 1, [0], 0, 0, 0, 0, 0, 0xffff401f, 19⟩
/-- PIN_DP_MAP, Table 19.15; reset boot. -/
def PIN_DP_MAP : Reg := ⟨0x40120000, 4, 0, 2, 0, 0, 2, [0], 0, 0x1fff, 0, 0, 0, 0x1fff, 328⟩
/-- PIN_COL_POL_LO, Table 19.16; reset boot. -/
def PIN_COL_POL_LO : Reg := ⟨0x40120010, 0, 0, 1, 0, 0, 1, [0], 0, 0xffffffff, 0, 0, 0, 0xffffffff, 329⟩
/-- PIN_VREG, Table 19.17; reset boot. -/
def PIN_VREG : Reg := ⟨0x40120040, 4, 1, 15, 0, 0, 16, [0], 0, 0xfffeffff, 0, 0, 0, 0xfffeffff, 332⟩
/-- GPIO_CFG, Table 19.18; reset boot. -/
def GPIO_CFG : Reg := ⟨0x40120080, 4, 0, 16, 0, 0, 16, [0], 0, 0x1fb, 0, 0, 0, 0x1fb, 333⟩
/-- GPIO_OUT, Table 19.19; reset boot. -/
def GPIO_OUT : Reg := ⟨0x401200c0, 0, 0, 1, 0, 0, 1, [0], 0xffff, 0, 0, 0, 0, 0xffff, 334⟩
/-- PIN_DRIVE, Table 19.20; reset boot. -/
def PIN_DRIVE : Reg := ⟨0x401200d0, 0, 0, 1, 0, 0, 1, [0], 0, 0x3f, 0, 0, 0, 0x3f, 337⟩
/-- FSEQ_INT_EN, Table 1.8. -/
def FSEQ_INT_EN : Reg := ⟨0x40010014, 0, 0, 1, 5, 5, 1, [0], 0x1f, 0, 0, 0, 0, 0x1f, 29⟩
/-- RX_INT_EN, Table 2.13. -/
def RX_INT_EN : Reg := ⟨0x400c000c, 0, 0, 1, 0, 0, 1, [0], 0xfffff, 0, 0, 0, 0, 0xfffff, 257⟩
/-- SCAN_INT_EN, Table 3.13. -/
def SCAN_INT_EN : Reg := ⟨0x40020020, 0, 0, 1, 5, 5, 1, [0], 0xff00ff, 0, 0, 0, 0, 0xff00ff, 40⟩
/-- LAYER_BASE_C, Table 3.25. -/
def LAYER_BASE_C : Reg := ⟨0x40020108, 0x40, 0, 8, 5, 5, 8, [0], 0, 0, 0xffffffff, 0, 0, 0xffffffff, 53⟩
/-- LAYER_BASE_V, Table 3.25. -/
def LAYER_BASE_V : Reg := ⟨0x4002010c, 0x40, 0, 8, 5, 5, 8, [0], 0, 0, 0xffffffff, 0, 0, 0xffffffff, 54⟩
/-- LAYER_POS, Table 3.27. -/
def LAYER_POS : Reg := ⟨0x40020118, 0x40, 0, 8, 5, 5, 8, [0], 0, 0, 0x1fff3fff, 0, 0, 0x1fff3fff, 57⟩
/-- LAYER_SRC_OFF, Table 3.27. -/
def LAYER_SRC_OFF : Reg := ⟨0x4002011c, 0x40, 0, 8, 5, 5, 8, [0], 0, 0, 0x1fff3fff, 0, 0, 0x1fff3fff, 58⟩
/-- DEMURA_ANCHOR_HI, Table 4.12; reset boot. -/
def DEMURA_ANCHOR_HI : Reg := ⟨0x40040024, 0, 0, 1, 6, 6, 1, [0], 0, 0, 0xfff, 0, 0, 0xfff, 100⟩
/-- CORR_INT_EN, Table 4.18. -/
def CORR_INT_EN : Reg := ⟨0x40040074, 0, 0, 1, 6, 6, 1, [0], 0x1f, 0, 0, 0, 0, 0x1f, 107⟩
/-- DEMURA_ERR_STATUS, Table 4.19. -/
def DEMURA_ERR_STATUS : Reg := ⟨0x4004007c, 0, 0, 1, 6, 6, 1, [0], 0, 0, 0, 0, 0, 0xffffdfff, 109⟩
/-- OD_TEMP_HI, Table 5.8; reset boot. -/
def OD_TEMP_HI : Reg := ⟨0x40050008, 0, 0, 1, 7, 7, 1, [0], 0, 0, 0xffffffff, 0, 0, 0xffffffff, 112⟩
/-- HIST_PITCH, Table 5.11; reset boot. -/
def HIST_PITCH : Reg := ⟨0x4005001c, 0, 0, 1, 7, 7, 1, [0], 0, 0, 0xffff, 0, 0, 0xffff, 116⟩
/-- DRIVE_LIMIT_B, Table 5.13; reset boot. -/
def DRIVE_LIMIT_B : Reg := ⟨0x40050028, 0, 0, 1, 7, 7, 1, [0], 0, 0xfff, 0, 0, 0, 0xfff, 119⟩
/-- DRIVE_POLICY_B, Table 5.14. -/
def DRIVE_POLICY_B : Reg := ⟨0x40050030, 0, 0, 1, 7, 7, 1, [0xfff], 0, 0, 0xfff, 0, 0, 0xfff, 121⟩
/-- SAFE_COLOR_B, Table 5.16; reset boot. -/
def SAFE_COLOR_B : Reg := ⟨0x40050084, 0, 0, 1, 7, 7, 1, [0], 0xfff, 0, 0, 0, 0, 0xfff, 124⟩
/-- DRV_MAP, Table 5.17; reset boot. -/
def DRV_MAP : Reg := ⟨0x40050100, 4, 0, 48, 7, 7, 48, [0], 0, 0, 0xc0003fff, 0, 0, 0xc0003fff, 130⟩
/-- DRIVE_INT_EN, Table 5.18. -/
def DRIVE_INT_EN : Reg := ⟨0x400500a4, 0, 0, 1, 7, 7, 1, [0], 0x1f, 0, 0, 0, 0, 0x1f, 127⟩
/-- HIST_ERR_COUNT, Table 5.18. -/
def HIST_ERR_COUNT : Reg := ⟨0x400500a8, 0, 0, 1, 7, 7, 1, [0], 0, 0, 0, 0, 0, 0xffffffff, 128⟩
/-- DRIVE_CLAMP_COUNT, Table 5.18. -/
def DRIVE_CLAMP_COUNT : Reg := ⟨0x400500ac, 0, 0, 1, 7, 7, 1, [0], 0, 0, 0, 0, 0, 0xffffffff, 129⟩
/-- COL_PRESENT_HI, Table 6.13. -/
def COL_PRESENT_HI : Reg := ⟨0x4006000c, 0, 0, 1, 7, 7, 1, [0], 0, 0, 0, 0, 0, 0xffff, 134⟩
/-- COL_FAILED_LO, Table 6.13. -/
def COL_FAILED_LO : Reg := ⟨0x40060010, 0, 0, 1, 7, 7, 1, [0], 0, 0, 0, 0, 0, 0xffffffff, 135⟩
/-- COL_FAILED_HI, Table 6.13. -/
def COL_FAILED_HI : Reg := ⟨0x40060014, 0, 0, 1, 7, 7, 1, [0], 0, 0, 0, 0, 0, 0xffff, 136⟩
/-- COL_LANE_TEST, Table 6.14; reset boot. -/
def COL_LANE_TEST : Reg := ⟨0x400600f0, 0, 0, 1, 8, 8, 1, [0], 0x33, 0x3f00, 0, 0, 0, 0x3f33, 145⟩
/-- COL_INT_EN, Table 6.15. -/
def COL_INT_EN : Reg := ⟨0x40060024, 0, 0, 1, 7, 7, 1, [0], 0x7f, 0, 0, 0, 0, 0x7f, 138⟩
/-- COL_CRC_PULSES, Table 6.15. -/
def COL_CRC_PULSES : Reg := ⟨0x40060028, 0, 0, 1, 7, 7, 1, [0], 0, 0, 0, 0, 0, 0xffffffff, 139⟩
/-- COL_TEST_PULSES, Table 6.15. -/
def COL_TEST_PULSES : Reg := ⟨0x4006002c, 0, 0, 1, 7, 7, 1, [0], 0, 0, 0, 0, 0, 0xffffffff, 140⟩
/-- COL_CTLPKT_LANES_LO, Table 6.16. -/
def COL_CTLPKT_LANES_LO : Reg := ⟨0x40060034, 0, 0, 1, 7, 7, 1, [0], 0xffffffff, 0, 0, 0, 0, 0xffffffff, 142⟩
/-- COL_CTLPKT_LANES_HI, Table 6.16. -/
def COL_CTLPKT_LANES_HI : Reg := ⟨0x40060038, 0, 0, 1, 7, 7, 1, [0], 0xffff, 0, 0, 0, 0, 0xffff, 143⟩
/-- COL_CTLPKT_DATA, Table 6.16. -/
def COL_CTLPKT_DATA : Reg := ⟨0x40060040, 4, 0, 4, 7, 7, 4, [0], 0xffffffff, 0, 0, 0, 0, 0xffffffff, 144⟩
/-- GATE_SHIFT, Table 6.18; reset boot. -/
def GATE_SHIFT : Reg := ⟨0x40020808, 0, 0, 1, 5, 5, 1, [0], 0, 0, 0xffff, 0, 0, 0xffff, 62⟩
/-- GATE_GRST, Table 6.19; reset boot. -/
def GATE_GRST : Reg := ⟨0x40020820, 4, 0, 2, 5, 5, 2, [0], 0, 0, 0xffffffff, 0, 0, 0xffffffff, 64⟩
/-- PSEQ_OFF, Table 6.21; reset boot. -/
def PSEQ_OFF : Reg := ⟨0x400e0040, 4, 0, 16, 0, 0, 16, [0], 0, 0xffffffff, 0, 0, 0, 0xffffffff, 285⟩
/-- PSEQ_PF, Table 6.21; reset boot. -/
def PSEQ_PF : Reg := ⟨0x400e0080, 4, 0, 8, 0, 0, 8, [0], 0, 0xffffffff, 0, 0, 0, 0xffffffff, 286⟩
/-- PSEQ_CMD, Table 6.22. -/
def PSEQ_CMD : Reg := ⟨0x400e00a4, 0, 0, 1, 0, 0, 1, [0], 0, 0, 0, 0, 0, 0, 288⟩
/-- PSEQ_EVENT, Table 6.22. -/
def PSEQ_EVENT : Reg := ⟨0x400e00a8, 0, 0, 1, 0, 0, 1, [0], 0, 0, 0, 7, 0, 7, 289⟩
/-- CODEC_Q_TAIL, Table 7.9. -/
def CODEC_Q_TAIL : Reg := ⟨0x40070014, 0x10, 0, 2, 10, 10, 2, [0], 0xff, 0, 0, 0, 0, 0xff, 149⟩
/-- CODEC_Q_HEAD, Table 7.9. -/
def CODEC_Q_HEAD : Reg := ⟨0x40070018, 0x10, 0, 2, 10, 10, 2, [0], 0, 0, 0, 0, 0, 0xff, 150⟩
/-- CODEC_INT_EN, Table 7.10. -/
def CODEC_INT_EN : Reg := ⟨0x40070044, 0, 0, 1, 10, 10, 1, [0], 0x3f, 0, 0, 0, 0, 0x3f, 152⟩
/-- BOUND_FAIL_COUNT, Table 7.11. -/
def BOUND_FAIL_COUNT : Reg := ⟨0x4007004c, 0, 0, 1, 10, 10, 1, [0], 0, 0, 0, 0, 0, 0xffffffff, 154⟩
/-- BLOCK_CHECK_COUNT, Table 7.11. -/
def BLOCK_CHECK_COUNT : Reg := ⟨0x40070050, 0, 0, 1, 10, 10, 1, [0], 0, 0, 0, 0, 0, 0xffffffff, 155⟩
/-- SUBST_BG_COUNT, Table 7.11. -/
def SUBST_BG_COUNT : Reg := ⟨0x40070054, 0, 0, 1, 10, 10, 1, [0], 0, 0, 0, 0, 0, 0xffffffff, 156⟩
/-- FALLOW_LEN_BASE, Table 7.13; reset boot. -/
def FALLOW_LEN_BASE : Reg := ⟨0x400700a4, 0, 0, 1, 10, 10, 1, [0], 0, 0xfffff, 0, 0, 0, 0xfffff, 160⟩
/-- PLACARD_LEN_BASE, Table 7.13; reset boot. -/
def PLACARD_LEN_BASE : Reg := ⟨0x400700ac, 0, 0, 1, 10, 10, 1, [0], 0, 0xfffff, 0, 0, 0, 0xfffff, 162⟩
/-- STREAM_WIN_BASE, Table 7.13; reset boot. -/
def STREAM_WIN_BASE : Reg := ⟨0x400700b4, 0, 0, 1, 10, 10, 1, [0], 0, 0xfffff, 0, 0, 0, 0xfffff, 164⟩
/-- PLACARD_BASE, Table 7.14; reset boot. -/
def PLACARD_BASE : Reg := ⟨0x400700a8, 0, 0, 1, 10, 10, 1, [0], 0, 0xffffffff, 0, 0, 0, 0xffffffff, 161⟩
/-- FP_PITCH, Table 7.14; reset boot. -/
def FP_PITCH : Reg := ⟨0x400700b0, 0, 0, 1, 10, 10, 1, [0], 0, 0xffff, 0, 0, 0, 0xffff, 163⟩
/-- FP_STATUS, Table 7.14. -/
def FP_STATUS : Reg := ⟨0x400700b8, 0, 0, 1, 10, 10, 1, [0], 0, 0, 0, 0, 0, 1, 165⟩
/-- ZONES_UNASSIGNED, Table 8.10. -/
def ZONES_UNASSIGNED : Reg := ⟨0x40030008, 0, 0, 1, 5, 5, 1, [0], 0, 0, 0, 0, 0, 0x1fff, 69⟩
/-- SCHED_INT_EN, Table 8.11. -/
def SCHED_INT_EN : Reg := ⟨0x40030014, 0, 0, 1, 5, 5, 1, [0], 0x3ff, 0, 0, 0, 0, 0x3ff, 71⟩
/-- JOB_ENTRY, Table 8.14; reset boot. -/
def JOB_ENTRY : Reg := ⟨0x40030104, 0x40, 0, 8, 5, 5, 8, [0], 0, 0, 0x3fff, 0, 0, 0x3fff, 75⟩
/-- JOB_ZONES, Table 8.14; reset boot. -/
def JOB_ZONES : Reg := ⟨0x40030108, 0x40, 0, 8, 5, 5, 8, [0], 0, 0, 0xfff0fff, 0, 0, 0xfff0fff, 76⟩
/-- JOB_WMASK_LO, Table 8.14. -/
def JOB_WMASK_LO : Reg := ⟨0x4003010c, 0x40, 0, 8, 5, 5, 8, [0xf0000000, 0xff0001, 0xfff0, 0xe, 0xf000000, 0, 0, 0], 0, 0, 0xffffffff, 0, 0, 0xffffffff, 77⟩
/-- JOB_WMASK_HI, Table 8.14. -/
def JOB_WMASK_HI : Reg := ⟨0x40030110, 0x40, 0, 8, 5, 5, 8, [0], 0, 0, 0xffffffff, 0, 0, 0xffffffff, 78⟩
/-- JOB_CAP, Table 8.15. -/
def JOB_CAP : Reg := ⟨0x40030118, 0x40, 0, 8, 5, 5, 8, [0xffffffff], 0xffffffff, 0, 0, 0, 0, 0xffffffff, 80⟩
/-- JOB_USED, Table 8.15. -/
def JOB_USED : Reg := ⟨0x4003011c, 0x40, 0, 8, 5, 5, 8, [0], 0, 0, 0, 0, 0, 0xffffffff, 81⟩
/-- JOB_LAST_USED, Table 8.15. -/
def JOB_LAST_USED : Reg := ⟨0x40030120, 0x40, 0, 8, 5, 5, 8, [0], 0, 0, 0, 0, 0, 0xffffffff, 82⟩
/-- JOB_LATE_COUNT, Table 8.15. -/
def JOB_LATE_COUNT : Reg := ⟨0x40030124, 0x40, 0, 8, 5, 5, 8, [0], 0, 0, 0, 0, 0, 0xffffffff, 83⟩
/-- JOB_FAULT_COUNT, Table 8.15. -/
def JOB_FAULT_COUNT : Reg := ⟨0x40030128, 0x40, 0, 8, 5, 5, 8, [0], 0, 0, 0, 0, 0, 0xffffffff, 84⟩
/-- JOB_SKIP_COUNT, Table 8.15. -/
def JOB_SKIP_COUNT : Reg := ⟨0x4003012c, 0x40, 0, 8, 5, 5, 8, [0], 0, 0, 0, 0, 0, 0xffffffff, 85⟩
/-- JOB_DONE_COUNT, Table 8.15. -/
def JOB_DONE_COUNT : Reg := ⟨0x40030130, 0x40, 0, 8, 5, 5, 8, [0], 0, 0, 0, 0, 0, 0xffffffff, 86⟩
/-- ZONE_SEL, Table 8.18. -/
def ZONE_SEL : Reg := ⟨0x40032000, 4, 0, 1024, 5, 5, 1024, [0], 0, 0, 0, 0, 0, 0xffffffff, 90⟩
/-- BL_MON, Table 9.9. -/
def BL_MON : Reg := ⟨0x400b0014, 0, 0, 1, 15, 15, 1, [0], 0, 0, 0, 0, 0, 0xffffffff, 239⟩
/-- BL_DIE, Table 9.9. -/
def BL_DIE : Reg := ⟨0x400b0018, 0, 0, 1, 15, 15, 1, [0], 0, 0, 0, 0, 0, 0xffff00ff, 240⟩
/-- BL_INT_EN, Table 9.10. -/
def BL_INT_EN : Reg := ⟨0x400b0024, 0, 0, 1, 15, 15, 1, [0], 0x3fff, 0, 0, 0, 0, 0x3fff, 242⟩
/-- BL_LATE_COUNT, Table 9.10. -/
def BL_LATE_COUNT : Reg := ⟨0x400b0028, 0, 0, 1, 15, 15, 1, [0], 0, 0, 0, 0, 0, 0xffffffff, 243⟩
/-- ZB_ERR_COUNT, Table 9.10. -/
def ZB_ERR_COUNT : Reg := ⟨0x400b002c, 0, 0, 1, 15, 15, 1, [0], 0, 0, 0, 0, 0, 0xffffffff, 244⟩
/-- BOOST_STATUS, Table 9.11. -/
def BOOST_STATUS : Reg := ⟨0x400b0104, 0x10, 0, 16, 15, 15, 16, [0], 0, 0, 0, 0, 0, 0xffffffff, 249⟩
/-- BOOST_FAULT, Table 9.11. -/
def BOOST_FAULT : Reg := ⟨0x400b0108, 0x10, 0, 16, 15, 15, 16, [0], 0, 0, 0, 3, 0, 0xff000007, 250⟩
/-- SINK_STATUS, Table 9.12. -/
def SINK_STATUS : Reg := ⟨0x400b0600, 4, 0, 128, 15, 15, 128, [0], 0, 0, 0, 0xe, 0, 0xffff003f, 254⟩
/-- ZB_MAP, Table 9.12; reset boot. -/
def ZB_MAP : Reg := ⟨0x400b0200, 4, 0, 31, 15, 15, 31, [0], 0x80000000, 0xffff0ff, 0, 0, 0, 0x8ffff0ff, 251⟩
/-- ZB_IC_STATUS, Table 9.12. -/
def ZB_IC_STATUS : Reg := ⟨0x400b0280, 4, 0, 31, 15, 15, 31, [0], 0, 0, 0, 0, 0, 0xffffffff, 252⟩
/-- ZB_CTRL, Table 9.12; reset boot. -/
def ZB_CTRL : Reg := ⟨0x400b0040, 0, 0, 1, 15, 15, 1, [0], 0, 0x1f0000, 0, 0, 0x80000000, 0x801f0000, 245⟩
/-- ZB_STATUS, Table 9.12. -/
def ZB_STATUS : Reg := ⟨0x400b0044, 0, 0, 1, 15, 15, 1, [0], 0, 0, 0, 0, 0, 0x801f0000, 246⟩
/-- ZB_PRESENT, Table 9.12. -/
def ZB_PRESENT : Reg := ⟨0x400b0048, 0, 0, 1, 15, 15, 1, [0], 0, 0, 0, 0, 0, 0x7fffffff, 247⟩
/-- CAL_INT_EN, Table 10.5. -/
def CAL_INT_EN : Reg := ⟨0x400f0008, 0, 0, 1, 0, 0, 1, [0], 0xf, 0, 0, 0, 0, 0xf, 292⟩
/-- CAL_FW_REPORT, Table 10.6. -/
def CAL_FW_REPORT : Reg := ⟨0x400f0010, 0, 0, 1, 0, 0, 1, [0], 0, 0, 0, 0, 0, 0, 294⟩
/-- SG_CAND, Table 10.8. -/
def SG_CAND : Reg := ⟨0x400f0300, 4, 0, 128, 15, 15, 128, [0x80000000], 0xffff0000, 0, 0, 0, 0, 0xffff0000, 297⟩
/-- SG_CAND_IC, Table 10.8. -/
def SG_CAND_IC : Reg := ⟨0x400f05c0, 4, 0, 31, 15, 15, 31, [0x80000000], 0xffff0000, 0, 0, 0, 0, 0xffff0000, 301⟩
/-- SG_COMMIT, Table 10.8. -/
def SG_COMMIT : Reg := ⟨0x400f0640, 0, 0, 1, 15, 15, 1, [0], 0, 0, 0, 0, 0, 0, 302⟩
/-- ETA, Table 10.9; reset boot. -/
def ETA : Reg := ⟨0x400f0540, 4, 0, 16, 0, 0, 16, [0], 0, 0xffff, 0, 0, 0, 0xffff, 299⟩
/-- DRAM_T_HI, Table 10.9; reset boot. -/
def DRAM_T_HI : Reg := ⟨0x400f0580, 0, 0, 1, 0, 0, 1, [0], 0, 0xffff, 0, 0, 0, 0xffff, 300⟩
/-- LS_INT_EN, Table 11.7. -/
def LS_INT_EN : Reg := ⟨0x40080014, 0, 0, 1, 11, 11, 1, [0], 0x7f, 0, 0, 0, 0, 0x7f, 168⟩
/-- LS_CORR_COUNT, Table 11.7. -/
def LS_CORR_COUNT : Reg := ⟨0x40080018, 0, 0, 1, 11, 11, 1, [0], 0, 0, 0, 0, 0, 0xffffffff, 169⟩
/-- LS_TEST_FAIL_COUNT, Table 11.7. -/
def LS_TEST_FAIL_COUNT : Reg := ⟨0x4008001c, 0, 0, 1, 11, 11, 1, [0], 0, 0, 0, 0, 0, 0xffffffff, 170⟩
/-- LS_TEST_SKIP_COUNT, Table 11.7. -/
def LS_TEST_SKIP_COUNT : Reg := ⟨0x40080020, 0, 0, 1, 11, 11, 1, [0], 0, 0, 0, 0, 0, 0xffffffff, 171⟩
/-- LS_TEST_STATUS, Table 11.8. -/
def LS_TEST_STATUS : Reg := ⟨0x40080034, 0, 0, 1, 11, 11, 1, [0], 0, 0, 0, 0, 0, 0xfffff, 173⟩
/-- LS_COLLIDE_STATUS, Table 11.8. -/
def LS_COLLIDE_STATUS : Reg := ⟨0x40080038, 0, 0, 1, 11, 11, 1, [0], 0, 0, 0, 0, 0, 0xf00fffff, 174⟩
/-- LS_PORT_CONFLICT, Table 11.9. -/
def LS_PORT_CONFLICT : Reg := ⟨0x40080104, 0x10, 0, 12, 11, 11, 12, [0], 0, 0, 0, 0, 0, 0xffffffff, 176⟩
/-- LS_PORT_COLLIDE, Table 11.9. -/
def LS_PORT_COLLIDE : Reg := ⟨0x40080108, 0x10, 0, 12, 11, 11, 12, [0], 0, 0, 0, 0, 0, 0xffffffff, 177⟩
/-- LS_RET_SIG, Table 11.10. -/
def LS_RET_SIG : Reg := ⟨0x40080600, 4, 0, 64, 0, 0, 64, [0], 0, 0, 0, 0, 0, 0xffffffff, 180⟩
/-- LS_EVENT_INFO, Table 11.11. -/
def LS_EVENT_INFO : Reg := ⟨0x40080700, 0, 0, 1, 0, 0, 1, [0], 0, 0, 0, 0, 0, 0x3f, 181⟩
/-- GDMA_Q_TAIL, Table 11.14. -/
def GDMA_Q_TAIL : Reg := ⟨0x40150004, 0x10, 0, 4, 11, 11, 4, [0], 0xff, 0, 0, 0, 0, 0xff, 350⟩
/-- GDMA_Q_HEAD, Table 11.14. -/
def GDMA_Q_HEAD : Reg := ⟨0x40150008, 0x10, 0, 4, 11, 11, 4, [0], 0, 0, 0, 0, 0, 0xff, 351⟩
/-- GDMA_EVENT, Table 11.14. -/
def GDMA_EVENT : Reg := ⟨0x40150040, 0, 0, 1, 11, 11, 1, [0], 0, 0, 0, 3, 0, 3, 352⟩
/-- GDMA_INT_EN, Table 11.14. -/
def GDMA_INT_EN : Reg := ⟨0x40150044, 0, 0, 1, 11, 11, 1, [0], 3, 0, 0, 0, 0, 3, 353⟩
/-- GDMA_STATUS, Table 11.14. -/
def GDMA_STATUS : Reg := ⟨0x40150048, 0, 0, 1, 11, 11, 1, [0], 0, 0, 0, 0, 0, 0xf, 354⟩
/-- DRAM_REGION_LIMIT, Table 12.7; reset boot. -/
def DRAM_REGION_LIMIT : Reg := ⟨0x40090014, 8, 0, 8, 12, 12, 8, [0], 0, 0x1fff, 0, 0, 0, 0x1fff, 184⟩
/-- DRAM_INT_EN, Table 12.10. -/
def DRAM_INT_EN : Reg := ⟨0x40090074, 0, 0, 1, 12, 12, 1, [0], 0xffb, 0, 0, 0, 0, 0xffb, 188⟩
/-- DRAM_CE_COUNT, Table 12.10. -/
def DRAM_CE_COUNT : Reg := ⟨0x40090078, 0, 0, 1, 12, 12, 1, [0], 0, 0, 0, 0, 0, 0xffffffff, 189⟩
/-- DRAM_UE_COUNT, Table 12.10. -/
def DRAM_UE_COUNT : Reg := ⟨0x4009007c, 0, 0, 1, 12, 12, 1, [0], 0, 0, 0, 0, 0, 0xffffffff, 190⟩
/-- DRAM_RFM_COUNT, Table 12.10. -/
def DRAM_RFM_COUNT : Reg := ⟨0x40090080, 0, 0, 1, 12, 12, 1, [0], 0, 0, 0, 0, 0, 0xffffffff, 191⟩
/-- DRAM_HAMMER_STATUS, Table 12.11. -/
def DRAM_HAMMER_STATUS : Reg := ⟨0x4009008c, 0, 0, 1, 12, 12, 1, [0], 0, 0, 0, 0, 0, 0xeff07fff, 194⟩
/-- DRQ_STATUS, Table 12.13. -/
def DRQ_STATUS : Reg := ⟨0x40090104, 0x10, 0, 9, 12, 12, 9, [0], 0, 0, 0, 0, 0, 0xffff0003, 196⟩
/-- DRQ_UE_COUNT, Table 12.13. -/
def DRQ_UE_COUNT : Reg := ⟨0x40090108, 0x10, 0, 9, 12, 12, 9, [0], 0, 0, 0, 0, 0, 0xffffffff, 197⟩
/-- DRAM_SEG_CLEAR, Table 12.14. -/
def DRAM_SEG_CLEAR : Reg := ⟨0x40090208, 0x20, 0, 8, 12, 13, 7, [0], 0, 0, 0, 0, 0, 0, 200⟩
/-- WALL_ADDR, Table 13.6; reset boot. -/
def WALL_ADDR : Reg := ⟨0x400a0004, 0, 0, 1, 14, 14, 1, [0], 0, 0x3ff0000, 0, 0, 0, 0x3ff83ff, 202⟩
/-- WALL_REMOVE, Table 13.6. -/
def WALL_REMOVE : Reg := ⟨0x400a000c, 0, 0, 1, 14, 14, 1, [0], 0, 0, 0, 0, 0, 0, 204⟩
/-- WALL_MEMBERS, Table 13.7. -/
def WALL_MEMBERS : Reg := ⟨0x400a0010, 0, 0, 1, 14, 14, 1, [0], 0, 0, 0, 0, 0, 0x7ff, 205⟩
/-- WALL_OFFSET, Table 13.7. -/
def WALL_OFFSET : Reg := ⟨0x400a0014, 0, 0, 1, 14, 14, 1, [0], 0, 0, 0, 0, 0, 0xffffffff, 206⟩
/-- WALL_TIME_LO, Table 13.7. -/
def WALL_TIME_LO : Reg := ⟨0x400a0018, 0, 0, 1, 14, 14, 1, [0], 0, 0, 0, 0, 0, 0xffffffff, 207⟩
/-- WALL_TIME_HI, Table 13.7. -/
def WALL_TIME_HI : Reg := ⟨0x400a001c, 0, 0, 1, 14, 14, 1, [0], 0, 0, 0, 0, 0, 0xffffffff, 208⟩
/-- WALL_JOIN_INFO, Table 13.7. -/
def WALL_JOIN_INFO : Reg := ⟨0x400a0020, 0, 0, 1, 14, 14, 1, [0], 0, 0, 0, 0, 0, 0x800003ff, 209⟩
/-- WALL_DROP_COUNT, Table 13.7. -/
def WALL_DROP_COUNT : Reg := ⟨0x400a0024, 0, 0, 1, 14, 14, 1, [0], 0, 0, 0, 0, 0, 0xffffffff, 210⟩
/-- DELAY_ADJ, Table 13.8. -/
def DELAY_ADJ : Reg := ⟨0x400a0044, 0x10, 0, 4, 14, 14, 4, [0], 0xffff, 0, 0, 0, 0, 0xffff, 212⟩
/-- WALL_PORT_ERR, Table 13.8. -/
def WALL_PORT_ERR : Reg := ⟨0x400a0048, 0x10, 0, 4, 14, 14, 4, [0], 0, 0, 0, 0, 0, 0xffffffff, 213⟩
/-- EQX_F, Table 13.9. -/
def EQX_F : Reg := ⟨0x400a0084, 0, 0, 1, 14, 14, 1, [0], 0xffffffff, 0, 0, 0, 0, 0xffffffff, 215⟩
/-- EQX_LEN, Table 13.9. -/
def EQX_LEN : Reg := ⟨0x400a0088, 0, 0, 1, 14, 14, 1, [0], 0x1ff, 0, 0, 0, 0, 0x1ff, 216⟩
/-- EQX_BUF, Table 13.9; reset boot. -/
def EQX_BUF : Reg := ⟨0x400a008c, 0, 0, 1, 14, 14, 1, [0], 0, 0xfffff, 0, 0, 0, 0xfffff, 217⟩
/-- EQX_ACK, Table 13.10. -/
def EQX_ACK : Reg := ⟨0x400a0094, 0, 0, 1, 14, 14, 1, [0], 0, 0, 0, 0, 0, 0, 219⟩
/-- EQX_RESULT, Table 13.10. -/
def EQX_RESULT : Reg := ⟨0x400a0098, 0, 0, 1, 14, 14, 1, [0], 0, 0, 0, 0, 0, 0xf000ffff, 220⟩
/-- NOTICE_SRC, Table 13.11. -/
def NOTICE_SRC : Reg := ⟨0x400a0104, 0, 0, 1, 14, 14, 1, [0], 0xffffffff, 0, 0, 0, 0, 0xffffffff, 222⟩
/-- NOTICE_LEN, Table 13.11. -/
def NOTICE_LEN : Reg := ⟨0x400a0108, 0, 0, 1, 14, 14, 1, [0], 0xffffffff, 0, 0, 0, 0, 0xffffffff, 223⟩
/-- NOTICE_STAGE, Table 13.11; reset boot. -/
def NOTICE_STAGE : Reg := ⟨0x400a010c, 0, 0, 1, 14, 14, 1, [0], 0, 0xffffffff, 0, 0, 0, 0xffffffff, 224⟩
/-- NOTICE_BASE, Table 13.11; reset boot. -/
def NOTICE_BASE : Reg := ⟨0x400a0110, 4, 0, 2, 14, 14, 2, [0], 0, 0xffffffff, 0, 0, 0, 0xffffffff, 225⟩
/-- NOTICE_STAGE_SIZE, Table 13.11; reset boot. -/
def NOTICE_STAGE_SIZE : Reg := ⟨0x400a0118, 0, 0, 1, 14, 14, 1, [0], 0, 0x3ff, 0, 0, 0, 0x3ff, 226⟩
/-- NOTICE_PLANE_SIZE, Table 13.11; reset boot. -/
def NOTICE_PLANE_SIZE : Reg := ⟨0x400a011c, 0, 0, 1, 14, 14, 1, [0], 0, 0x3ff, 0, 0, 0, 0x3ff, 227⟩
/-- NOTICE_STATUS, Table 13.11. -/
def NOTICE_STATUS : Reg := ⟨0x400a0120, 0, 0, 1, 14, 14, 1, [0], 0, 0, 0, 0, 0, 0xff10ffff, 228⟩
/-- WALL_POS_X, Table 13.11; reset boot. -/
def WALL_POS_X : Reg := ⟨0x400a0124, 0, 0, 1, 14, 14, 1, [0], 0xffffff, 0, 0, 0, 0, 0xffffff, 229⟩
/-- WALL_POS_Y, Table 13.11; reset boot. -/
def WALL_POS_Y : Reg := ⟨0x400a0128, 0, 0, 1, 14, 14, 1, [0], 0xffffff, 0, 0, 0, 0, 0xffffff, 230⟩
/-- WALL_INT_EN, Table 13.12. -/
def WALL_INT_EN : Reg := ⟨0x400a01c4, 0, 0, 1, 14, 14, 1, [0], 0xfffff, 0, 0, 0, 0, 0xfffff, 232⟩
/-- WALL_LAG, Table 13.12. -/
def WALL_LAG : Reg := ⟨0x400a0200, 4, 0, 32, 14, 14, 32, [0], 0, 0, 0, 0xffffffff, 0, 0xffffffff, 233⟩
/-- WAKE_PENDING, Table 14.15. -/
def WAKE_PENDING : Reg := ⟨0x400d0014, 0, 0, 1, 0, 0, 1, [0], 0, 0, 0, 0x7ffe, 0, 0x7ffe, 263⟩
/-- LAST_WAKE_SEC, Table 14.16. -/
def LAST_WAKE_SEC : Reg := ⟨0x400d001c, 0, 0, 1, 0, 0, 1, [0], 0, 0, 0, 0, 0, 0xffffffff, 265⟩
/-- LAST_WAKE_SUB, Table 14.16. -/
def LAST_WAKE_SUB : Reg := ⟨0x400d0020, 0, 0, 1, 0, 0, 1, [0], 0, 0, 0, 0, 0, 0x7fff, 266⟩
/-- CAL_SEC, Table 14.16. -/
def CAL_SEC : Reg := ⟨0x400d0024, 0, 0, 1, 0, 0, 1, [0], 0xffffffff, 0, 0, 0, 0, 0xffffffff, 267⟩
/-- CAL_SUB, Table 14.16. -/
def CAL_SUB : Reg := ⟨0x400d0028, 0, 0, 1, 0, 0, 1, [0], 0, 0, 0, 0, 0, 0x7fff, 268⟩
/-- KEEP_LS_HI, Table 14.17; reset boot. -/
def KEEP_LS_HI : Reg := ⟨0x400d0044, 0x10, 0, 3, 0, 0, 3, [0], 0xffffffff, 0, 0, 0, 0, 0xffffffff, 270⟩
/-- KEEP_PASR_LO, Table 14.17; reset boot. -/
def KEEP_PASR_LO : Reg := ⟨0x400d0048, 0x10, 0, 3, 0, 0, 3, [0], 0xffffffff, 0, 0, 0, 0, 0xffffffff, 271⟩
/-- KEEP_PASR_HI, Table 14.17; reset boot. -/
def KEEP_PASR_HI : Reg := ⟨0x400d004c, 0x10, 0, 3, 0, 0, 3, [0], 0xffffffff, 0, 0, 0, 0, 0xffffffff, 272⟩
/-- VIGIL_AMB, Table 14.19; reset boot. -/
def VIGIL_AMB : Reg := ⟨0x400d0078, 0, 0, 1, 0, 0, 1, [0], 0xffffffff, 0, 0, 0, 0, 0xffffffff, 275⟩
/-- VIGIL_LAST, Table 14.19. -/
def VIGIL_LAST : Reg := ⟨0x400d007c, 0, 0, 1, 0, 0, 1, [0], 0, 0, 0, 0, 0, 0xffffffff, 276⟩
/-- PWR_INT_EN, Table 14.22. -/
def PWR_INT_EN : Reg := ⟨0x400d00a4, 0, 0, 1, 0, 0, 1, [0], 0xff, 0, 0, 0, 0, 0xff, 280⟩
/-- PIPE_CLK, Table 14.22; reset boot. -/
def PIPE_CLK : Reg := ⟨0x400d00b0, 0, 0, 1, 0, 0, 1, [0], 0, 0, 0xfffff, 0, 0, 0xfffff, 281⟩
/-- DOM_STATUS, Table 14.23. -/
def DOM_STATUS : Reg := ⟨0x400d0104, 8, 0, 80, 0, 0, 80, [0], 0, 0, 0, 0, 0, 0xffff0003, 283⟩
/-- NV_PAGE, Table 15.10. -/
def NV_PAGE : Reg := ⟨0x40100008, 0, 0, 1, 0, 0, 1, [0], 0xfff, 0, 0, 0, 0, 0xfff, 305⟩
/-- NV_SRC, Table 15.10. -/
def NV_SRC : Reg := ⟨0x4010000c, 0, 0, 1, 0, 0, 1, [0], 0x800fffff, 0, 0, 0, 0, 0x800fffff, 306⟩
/-- NV_INT_EN, Table 15.12. -/
def NV_INT_EN : Reg := ⟨0x40100024, 0, 0, 1, 0, 0, 1, [0], 0xff, 0, 0, 0, 0, 0xff, 309⟩
/-- NV_RECOVERY, Table 15.13. -/
def NV_RECOVERY : Reg := ⟨0x40100030, 0, 0, 1, 0, 0, 1, [0], 0, 0, 0, 0, 0, 0xcfff0fff, 310⟩
/-- NV_CAL_NEXT, Table 15.13. -/
def NV_CAL_NEXT : Reg := ⟨0x40100038, 0, 0, 1, 0, 0, 1, [0], 0, 0, 0, 0, 0, 0xffffffff, 312⟩
/-- NV_AGE_NEXT, Table 15.13. -/
def NV_AGE_NEXT : Reg := ⟨0x4010003c, 0, 0, 1, 0, 0, 1, [0], 0, 0, 0, 0, 0, 0xffffffff, 313⟩
/-- NV_JRNL_COUNT, Table 15.13. -/
def NV_JRNL_COUNT : Reg := ⟨0x40100044, 0, 0, 1, 0, 0, 1, [0], 0, 0, 0, 0, 0, 0xffffffff, 314⟩
/-- NV_REFRESH_COUNT, Table 15.13. -/
def NV_REFRESH_COUNT : Reg := ⟨0x40100048, 0, 0, 1, 0, 0, 1, [0], 0, 0, 0, 0, 0, 0xffffffff, 315⟩
/-- BOOT_VERSION, Table 16.10. -/
def BOOT_VERSION : Reg := ⟨0x40110008, 0, 0, 1, 0, 0, 1, [0], 0, 0, 0, 0, 0, 0xffffffff, 319⟩
/-- BOOT_FAIL_INFO, Table 16.10. -/
def BOOT_FAIL_INFO : Reg := ⟨0x4011000c, 0, 0, 1, 0, 0, 1, [0], 0, 0, 0, 0, 0, 0xffffffff, 320⟩
/-- BOOT_INT_EN, Table 16.13. -/
def BOOT_INT_EN : Reg := ⟨0x4011001c, 0, 0, 1, 0, 0, 1, [0], 3, 0, 0, 0, 0, 3, 324⟩
/-- KEY_FUSE, Table 16.13; reset fuses. -/
def KEY_FUSE : Reg := ⟨0x40110020, 4, 0, 8, 0, 0, 8, [0], 0, 0, 0, 0, 0, 0xffffffff, 325⟩
/-- FUSE_STATUS, Table 16.13; reset fuses. -/
def FUSE_STATUS : Reg := ⟨0x40110040, 0, 0, 1, 0, 0, 1, [0], 0, 0, 0, 0, 0, 1, 326⟩
/-- IRQ_MASK, Table 17.8. -/
def IRQ_MASK : Reg := ⟨0x40000014, 0, 0, 1, 0, 0, 1, [0], 0xfffff, 0, 0, 0, 0, 0xfffff, 4⟩
/-- DEVICE_UID_LO, Table 17.10; reset fuses. -/
def DEVICE_UID_LO : Reg := ⟨0x40000060, 0, 0, 1, 0, 0, 1, [0], 0, 0, 0, 0, 0, 0xffffffff, 16⟩
/-- DEVICE_UID_HI, Table 17.10; reset fuses. -/
def DEVICE_UID_HI : Reg := ⟨0x40000064, 0, 0, 1, 0, 0, 1, [0], 0, 0, 0, 0, 0, 0xffffffff, 17⟩
/-- CP_STATUS, Table 17.11. -/
def CP_STATUS : Reg := ⟨0x40000008, 0, 0, 1, 0, 0, 1, [0], 0, 0, 0, 0, 0, 0xffff010f, 2⟩
/-- SYS_INT_EN, Table 17.12. -/
def SYS_INT_EN : Reg := ⟨0x40000024, 0, 0, 1, 0, 0, 1, [0], 0xf, 0, 0, 0, 0, 0xf, 6⟩
/-- CP_BUS_ERR, Table 17.12. -/
def CP_BUS_ERR : Reg := ⟨0x40000028, 0, 0, 1, 0, 0, 1, [0], 0, 0, 0, 0, 0, 0xffffffff, 7⟩
/-- CP_BUS_ERR_COUNT, Table 17.12. -/
def CP_BUS_ERR_COUNT : Reg := ⟨0x4000002c, 0, 0, 1, 0, 0, 1, [0], 0, 0, 0, 0, 0, 0xffffffff, 8⟩
/-- WDT_KICK, Table 17.13. -/
def WDT_KICK : Reg := ⟨0x40000034, 0, 0, 1, 0, 0, 1, [0], 0, 0, 0, 0, 0, 0, 10⟩
/-- CP_SWAP, Table 17.13. -/
def CP_SWAP : Reg := ⟨0x40000040, 0, 0, 1, 0, 0, 1, [0], 0xffffffff, 0, 0, 0, 0, 0xffffffff, 11⟩
/-- CP_SWAP_CTRL, Table 17.13. -/
def CP_SWAP_CTRL : Reg := ⟨0x40000044, 0, 0, 1, 0, 0, 1, [0], 1, 0, 0, 0, 0x80000000, 0x80000001, 12⟩
/-- CP_SWAP_F, Table 17.13. -/
def CP_SWAP_F : Reg := ⟨0x40000048, 0, 0, 1, 0, 0, 1, [0], 0xffffffff, 0, 0, 0, 0, 0xffffffff, 13⟩
/-- MTIME, Table 17.13. -/
def MTIME : Reg := ⟨0x40000050, 4, 0, 2, 0, 0, 2, [0], 0xffffffff, 0, 0, 0, 0, 0xffffffff, 14⟩
/-- MTIMECMP, Table 17.13. -/
def MTIMECMP : Reg := ⟨0x40000058, 4, 0, 2, 0, 0, 2, [0], 0xffffffff, 0, 0, 0, 0, 0xffffffff, 15⟩
/-- MB_COMPLETE, Table 17.14. -/
def MB_COMPLETE : Reg := ⟨0x40130300, 0, 0, 1, 0, 0, 1, [0], 0, 0, 0, 0, 0, 0, 338⟩
/-- MGMT_EVENT, Table 17.14. -/
def MGMT_EVENT : Reg := ⟨0x40130310, 0, 0, 1, 0, 0, 1, [0], 0, 0, 0, 7, 0, 7, 339⟩
/-- MGMT_INT_EN, Table 17.14. -/
def MGMT_INT_EN : Reg := ⟨0x40130314, 0, 0, 1, 0, 0, 1, [0], 7, 0, 0, 0, 0, 7, 340⟩
/-- HOST_EVENT, Table 17.14. -/
def HOST_EVENT : Reg := ⟨0x40130320, 0, 0, 1, 0, 0, 1, [0], 0, 0, 0, 0, 0, 0x3f, 341⟩
/-- HOST_EVENT_SET, Table 17.14. -/
def HOST_EVENT_SET : Reg := ⟨0x40130324, 0, 0, 1, 0, 0, 1, [0], 0, 0, 0, 0, 0, 0, 342⟩
/-- HOST_INT_EN, Table 17.14. -/
def HOST_INT_EN : Reg := ⟨0x40130328, 0, 0, 1, 0, 0, 1, [0xc], 0, 0, 0, 0, 0, 0xff, 343⟩
/-- XSPI_ADDR, Table 17.15. -/
def XSPI_ADDR : Reg := ⟨0x40140004, 0, 0, 1, 0, 0, 1, [0], 0xffffffff, 0, 0, 0, 0, 0xffffffff, 346⟩
/-- XSPI_BUF, Table 17.15. -/
def XSPI_BUF : Reg := ⟨0x40140008, 0, 0, 1, 0, 0, 1, [0], 0xfffff, 0, 0, 0, 0, 0xfffff, 347⟩
/-- XSPI_LEN, Table 17.15. -/
def XSPI_LEN : Reg := ⟨0x4014000c, 0, 0, 1, 0, 0, 1, [0], 0xffff, 0, 0, 0, 0, 0xffff, 348⟩
/-- LOG_ENTRY, Table 18.10. -/
def LOG_ENTRY : Reg := ⟨0x40000110, 4, 0, 4, 0, 0, 4, [0], 0, 0, 0, 0, 0, 0xffffffff, 20⟩
/-- LOG_POP, Table 18.10. -/
def LOG_POP : Reg := ⟨0x40000120, 0, 0, 1, 0, 0, 1, [0], 0, 0, 0, 0, 0, 0, 21⟩
/-- LOG_WRITE, Table 18.10. -/
def LOG_WRITE : Reg := ⟨0x40000130, 4, 0, 4, 0, 0, 4, [0], 0xffffffff, 0, 0, 0, 0, 0xffffffff, 22⟩
/-- LOG_PUSH, Table 18.10. -/
def LOG_PUSH : Reg := ⟨0x40000140, 0, 0, 1, 0, 0, 1, [0], 0, 0, 0, 0, 0, 0, 23⟩
/-- PIN_COL_POL_HI, Table 19.16; reset boot. -/
def PIN_COL_POL_HI : Reg := ⟨0x40120014, 0, 0, 1, 0, 0, 1, [0], 0, 0xffff, 0, 0, 0, 0xffff, 330⟩
/-- PIN_WALL_POL, Table 19.16; reset boot. -/
def PIN_WALL_POL : Reg := ⟨0x40120018, 0, 0, 1, 0, 0, 1, [0], 0, 0x3ff, 0, 0, 0, 0x3ff, 331⟩
/-- GPIO_OE, Table 19.19; reset boot. -/
def GPIO_OE : Reg := ⟨0x401200c4, 0, 0, 1, 0, 0, 1, [0], 0xffff, 0, 0, 0, 0, 0xffff, 335⟩
/-- GPIO_IN, Table 19.19. -/
def GPIO_IN : Reg := ⟨0x401200c8, 0, 0, 1, 0, 0, 1, [0], 0, 0, 0, 0, 0, 0xffff, 336⟩

end R

/-- Every register of one 64 KiB block, by block number (Table 17.2: base = 0x4000_0000 + block × 0x1_0000). -/
def regsOfBlock0 : List Reg := [
  R.DEVICE_ID, R.CP_CTRL, R.CP_STATUS, R.IRQ_SUMMARY, R.IRQ_MASK, R.SYS_EVENT, R.SYS_INT_EN, R.CP_BUS_ERR,
  R.CP_BUS_ERR_COUNT, R.WDT_CTRL, R.WDT_KICK, R.CP_SWAP, R.CP_SWAP_CTRL, R.CP_SWAP_F, R.MTIME, R.MTIMECMP,
  R.DEVICE_UID_LO, R.DEVICE_UID_HI, R.LOG_CTRL, R.LOG_STATUS, R.LOG_ENTRY, R.LOG_POP, R.LOG_WRITE, R.LOG_PUSH]

def regsOfBlock1 : List Reg := [
  R.FSEQ_COMMIT, R.FSEQ_STATUS, R.FRAME_COUNT, R.FSEQ_COMMIT_TARGET, R.FSEQ_EVENT, R.FSEQ_INT_EN,
  R.LADDER_CTRL, R.LADDER_STATUS]

def regsOfBlock2 : List Reg := [
  R.RASTER_H, R.RASTER_V, R.RASTER_VRR, R.RASTER_FLOOR, R.LATCH_CTRL, R.LINE_MATCH, R.SCAN_POS, R.SCAN_EVENT,
  R.SCAN_INT_EN, R.UNDERRUN_STATUS, R.UNDERRUN_FRAMES, R.COMP_CTRL, R.BG_COLOR_RG, R.BG_COLOR_B, R.RING_BASE,
  R.RING_STATUS, R.GUARD_CTRL, R.GUARD_HOLD, R.GUARD_STATUS, R.LAYER_CTRL, R.LAYER_BASE, R.LAYER_BASE_C,
  R.LAYER_BASE_V, R.LAYER_STRIDE, R.LAYER_SIZE, R.LAYER_POS, R.LAYER_SRC_OFF, R.RETIRED_BASE, R.GATE_CTRL,
  R.GATE_EDGE, R.GATE_SHIFT, R.GATE_GST, R.GATE_GRST, R.GATE_POL, R.PAL_ENTRY]

def regsOfBlock3 : List Reg := [
  R.SCHED_CTRL, R.SCHED_STATUS, R.ZONES_UNASSIGNED, R.SCHED_EVENT, R.SCHED_INT_EN, R.IMEM_LOAD, R.CTX_AREA,
  R.JOB_CFG, R.JOB_ENTRY, R.JOB_ZONES, R.JOB_WMASK_LO, R.JOB_WMASK_HI, R.JOB_BUDGET, R.JOB_CAP, R.JOB_USED,
  R.JOB_LAST_USED, R.JOB_LATE_COUNT, R.JOB_FAULT_COUNT, R.JOB_SKIP_COUNT, R.JOB_DONE_COUNT, R.DALE_CTRL,
  R.DALE_STATUS, R.ZONE_MAP, R.ZONE_SEL]

def regsOfBlock4 : List Reg := [
  R.CORR_CTRL, R.ZONE_GRID, R.ZONE_SIZE, R.STAT_CTRL, R.STAT_BASE, R.STAT_STATUS, R.STAT_FRAME, R.COMP_REF,
  R.DEMURA_ANCHOR, R.DEMURA_ANCHOR_HI, R.DEMURA_SCALE, R.DEMURA_BASE, R.DEMURA_PITCH, R.DEMURA_LEN_BASE,
  R.LUT_BASE, R.CORR_EVENT, R.CORR_INT_EN, R.CLIP_COUNT, R.DEMURA_ERR_STATUS]

def regsOfBlock5 : List Reg := [
  R.DRIVE_CTRL, R.OD_TEMP_LO, R.OD_TEMP_HI, R.OD_CFG, R.OD_TABLE_BASE, R.HIST_BASE, R.HIST_PITCH,
  R.HIST_STATUS, R.DRIVE_LIMIT_RG, R.DRIVE_LIMIT_B, R.DRIVE_POLICY_RG, R.DRIVE_POLICY_B, R.DITHER_M,
  R.SAFE_COLOR_RG, R.SAFE_COLOR_B, R.DRV_LAYOUT, R.DRIVE_EVENT, R.DRIVE_INT_EN, R.HIST_ERR_COUNT,
  R.DRIVE_CLAMP_COUNT, R.DRV_MAP]

def regsOfBlock6 : List Reg := [
  R.COL_CTRL, R.COL_STATUS, R.COL_PRESENT_LO, R.COL_PRESENT_HI, R.COL_FAILED_LO, R.COL_FAILED_HI,
  R.COL_EVENT, R.COL_INT_EN, R.COL_CRC_PULSES, R.COL_TEST_PULSES, R.COL_CTLPKT_HDR, R.COL_CTLPKT_LANES_LO,
  R.COL_CTLPKT_LANES_HI, R.COL_CTLPKT_DATA, R.COL_LANE_TEST, R.COL_LANE]

def regsOfBlock7 : List Reg := [
  R.CODEC_CTRL, R.CODEC_Q_CFG, R.CODEC_Q_TAIL, R.CODEC_Q_HEAD, R.CODEC_EVENT, R.CODEC_INT_EN,
  R.VERIFY_MISMATCH_COUNT, R.BOUND_FAIL_COUNT, R.BLOCK_CHECK_COUNT, R.SUBST_BG_COUNT, R.CHECK_STATUS,
  R.RING_LEN_BASE, R.FALLOW_BASE, R.FALLOW_LEN_BASE, R.PLACARD_BASE, R.PLACARD_LEN_BASE, R.FP_PITCH,
  R.STREAM_WIN_BASE, R.FP_STATUS]

def regsOfBlock8 : List Reg := [
  R.LS_CTRL, R.LS_EVENT, R.LS_INT_EN, R.LS_CORR_COUNT, R.LS_TEST_FAIL_COUNT, R.LS_TEST_SKIP_COUNT,
  R.LS_ECC_STATUS, R.LS_TEST_STATUS, R.LS_COLLIDE_STATUS, R.LS_PORT_CFG, R.LS_PORT_CONFLICT,
  R.LS_PORT_COLLIDE, R.LS_BANK_CTRL, R.LS_BANK_STATUS, R.LS_RET_SIG, R.LS_EVENT_INFO]

def regsOfBlock9 : List Reg := [
  R.DRAM_CTRL, R.DRAM_REGION, R.DRAM_REGION_LIMIT, R.DRAM_AGE_LIMIT, R.DRAM_RD_CFG, R.DRAM_EVENT,
  R.DRAM_INT_EN, R.DRAM_CE_COUNT, R.DRAM_UE_COUNT, R.DRAM_RFM_COUNT, R.DRAM_ECC_STATUS, R.DRAM_ECC_INFO,
  R.DRAM_HAMMER_STATUS, R.DRQ_CFG, R.DRQ_STATUS, R.DRQ_UE_COUNT, R.DRAM_CH_CFG, R.DRAM_CH_STATUS,
  R.DRAM_SEG_CLEAR]

def regsOfBlock10 : List Reg := [
  R.WALL_CTRL, R.WALL_ADDR, R.WALL_STATUS, R.WALL_REMOVE, R.WALL_MEMBERS, R.WALL_OFFSET, R.WALL_TIME_LO,
  R.WALL_TIME_HI, R.WALL_JOIN_INFO, R.WALL_DROP_COUNT, R.WALL_PORT_STATUS, R.DELAY_ADJ, R.WALL_PORT_ERR,
  R.EQX_CMD, R.EQX_F, R.EQX_LEN, R.EQX_BUF, R.EQX_STATUS, R.EQX_ACK, R.EQX_RESULT, R.NOTICE_TX, R.NOTICE_SRC,
  R.NOTICE_LEN, R.NOTICE_STAGE, R.NOTICE_BASE, R.NOTICE_STAGE_SIZE, R.NOTICE_PLANE_SIZE, R.NOTICE_STATUS,
  R.WALL_POS_X, R.WALL_POS_Y, R.WALL_EVENT, R.WALL_INT_EN, R.WALL_LAG]

def regsOfBlock11 : List Reg := [
  R.BL_CTRL, R.BL_SEG, R.BL_LIMIT, R.BL_BUDGET, R.BL_STATUS, R.BL_MON, R.BL_DIE, R.BL_EVENT, R.BL_INT_EN,
  R.BL_LATE_COUNT, R.ZB_ERR_COUNT, R.ZB_CTRL, R.ZB_STATUS, R.ZB_PRESENT, R.BOOST_CFG, R.BOOST_STATUS,
  R.BOOST_FAULT, R.ZB_MAP, R.ZB_IC_STATUS, R.SINK_CFG, R.SINK_STATUS]

def regsOfBlock12 : List Reg := [
  R.RX_MODE, R.RX_EVENT, R.RX_INT_EN, R.RX_PORT_STATUS]

def regsOfBlock13 : List Reg := [
  R.PWR_CMD, R.PWR_STATE, R.PWR_CFG, R.WAKE_EN, R.WAKE_PENDING, R.LAST_WAKE, R.LAST_WAKE_SEC,
  R.LAST_WAKE_SUB, R.CAL_SEC, R.CAL_SUB, R.KEEP_LS_LO, R.KEEP_LS_HI, R.KEEP_PASR_LO, R.KEEP_PASR_HI,
  R.VIGIL_CFG, R.VIGIL_TEMP, R.VIGIL_AMB, R.VIGIL_LAST, R.VREG_STATUS, R.PAD_HOLD, R.PWR_EVENT, R.PWR_INT_EN,
  R.PIPE_CLK, R.DOM_CTRL, R.DOM_STATUS]

def regsOfBlock14 : List Reg := [
  R.PSEQ_ON, R.PSEQ_OFF, R.PSEQ_PF, R.PSEQ_STATUS, R.PSEQ_CMD, R.PSEQ_EVENT]

def regsOfBlock15 : List Reg := [
  R.CAL_CTRL, R.CAL_EVENT, R.CAL_INT_EN, R.CAL_REJ_STATUS, R.CAL_FW_REPORT, R.CAL_STATUS, R.SINK_CAL,
  R.SG_CAND, R.TS_CAL, R.ETA, R.DRAM_T_HI, R.SG_CAND_IC, R.SG_COMMIT]

def regsOfBlock16 : List Reg := [
  R.NV_CTRL, R.NV_CMD, R.NV_PAGE, R.NV_SRC, R.NV_STATUS, R.NV_EVENT, R.NV_INT_EN, R.NV_RECOVERY, R.NV_SEL,
  R.NV_CAL_NEXT, R.NV_AGE_NEXT, R.NV_JRNL_COUNT, R.NV_REFRESH_COUNT, R.NV_BUF]

def regsOfBlock17 : List Reg := [
  R.BOOT_STATUS, R.BOOT_SEQ, R.BOOT_VERSION, R.BOOT_FAIL_INFO, R.BOOT_LIGHT, R.BOOT_CTRL, R.BOOT_EVENT,
  R.BOOT_INT_EN, R.KEY_FUSE, R.FUSE_STATUS, R.BOOT_STAGE]

def regsOfBlock18 : List Reg := [
  R.PIN_DP_MAP, R.PIN_COL_POL_LO, R.PIN_COL_POL_HI, R.PIN_WALL_POL, R.PIN_VREG, R.GPIO_CFG, R.GPIO_OUT,
  R.GPIO_OE, R.GPIO_IN, R.PIN_DRIVE]

def regsOfBlock19 : List Reg := [
  R.MB_COMPLETE, R.MGMT_EVENT, R.MGMT_INT_EN, R.HOST_EVENT, R.HOST_EVENT_SET, R.HOST_INT_EN, R.MGMT_CFG]

def regsOfBlock20 : List Reg := [
  R.XSPI_CMD, R.XSPI_ADDR, R.XSPI_BUF, R.XSPI_LEN]

def regsOfBlock21 : List Reg := [
  R.GDMA_Q_CFG, R.GDMA_Q_TAIL, R.GDMA_Q_HEAD, R.GDMA_EVENT, R.GDMA_INT_EN, R.GDMA_STATUS]

/-- The registers of a block (Table 17.2). -/
def regsOfBlock : Nat → List Reg
  | 0 => regsOfBlock0
  | 1 => regsOfBlock1
  | 2 => regsOfBlock2
  | 3 => regsOfBlock3
  | 4 => regsOfBlock4
  | 5 => regsOfBlock5
  | 6 => regsOfBlock6
  | 7 => regsOfBlock7
  | 8 => regsOfBlock8
  | 9 => regsOfBlock9
  | 10 => regsOfBlock10
  | 11 => regsOfBlock11
  | 12 => regsOfBlock12
  | 13 => regsOfBlock13
  | 14 => regsOfBlock14
  | 15 => regsOfBlock15
  | 16 => regsOfBlock16
  | 17 => regsOfBlock17
  | 18 => regsOfBlock18
  | 19 => regsOfBlock19
  | 20 => regsOfBlock20
  | 21 => regsOfBlock21
  | _ => []

/-- Every register of the map, by number. -/
def allRegs : List Reg := (List.range 22).flatMap regsOfBlock

/-- The register and index that a bus address names, if a block defines one there (R415, R416). -/
def findReg (a : Nat) : Option (Reg × Nat) :=
  (regsOfBlock ((a - 0x40000000) / 0x10000)).findSome? fun r => (r.index? a).map fun i => (r, i)

namespace F

def FSEQ_COMMIT_COMMIT : Field := ⟨R.FSEQ_COMMIT, 0, 0⟩
def FSEQ_STATUS_LADDER_LEVEL : Field := ⟨R.FSEQ_STATUS, 6, 4⟩
def FSEQ_STATUS_BUFFERED : Field := ⟨R.FSEQ_STATUS, 3, 3⟩
def FSEQ_STATUS_IN_BLANK : Field := ⟨R.FSEQ_STATUS, 2, 2⟩
def FSEQ_STATUS_JOB_WINDOW : Field := ⟨R.FSEQ_STATUS, 1, 1⟩
def FSEQ_STATUS_COMMIT_PENDING : Field := ⟨R.FSEQ_STATUS, 0, 0⟩
def FRAME_COUNT_FRAME : Field := ⟨R.FRAME_COUNT, 31, 0⟩
def FSEQ_COMMIT_TARGET_TARGET : Field := ⟨R.FSEQ_COMMIT_TARGET, 31, 0⟩
def FSEQ_EVENT_INPUT_LOSS : Field := ⟨R.FSEQ_EVENT, 4, 4⟩
def FSEQ_EVENT_LADDER_DROP : Field := ⟨R.FSEQ_EVENT, 3, 3⟩
def FSEQ_EVENT_COMMIT_APPLIED : Field := ⟨R.FSEQ_EVENT, 2, 2⟩
def FSEQ_EVENT_PREFETCH : Field := ⟨R.FSEQ_EVENT, 1, 1⟩
def FSEQ_EVENT_LATCH : Field := ⟨R.FSEQ_EVENT, 0, 0⟩
def RX_MODE_FALLOW_DELAY : Field := ⟨R.RX_MODE, 15, 8⟩
def RX_MODE_AUX_WAKE_EN : Field := ⟨R.RX_MODE, 5, 5⟩
def RX_MODE_AUTO_TAKEOVER : Field := ⟨R.RX_MODE, 4, 4⟩
def RX_MODE_PREFER_PORT : Field := ⟨R.RX_MODE, 3, 3⟩
def RX_MODE_PORT_MODE : Field := ⟨R.RX_MODE, 1, 0⟩
def RX_PORT_STATUS_FRAMES : Field := ⟨R.RX_PORT_STATUS, 31, 16⟩
def RX_PORT_STATUS_HEALTHY : Field := ⟨R.RX_PORT_STATUS, 14, 14⟩
def RX_PORT_STATUS_ACTIVE : Field := ⟨R.RX_PORT_STATUS, 13, 13⟩
def RX_PORT_STATUS_ALPM_SLEEP : Field := ⟨R.RX_PORT_STATUS, 12, 12⟩
def RX_PORT_STATUS_PR_ACTIVE : Field := ⟨R.RX_PORT_STATUS, 11, 11⟩
def RX_PORT_STATUS_FEC_ON : Field := ⟨R.RX_PORT_STATUS, 10, 10⟩
def RX_PORT_STATUS_DSC_ON : Field := ⟨R.RX_PORT_STATUS, 9, 9⟩
def RX_PORT_STATUS_LANES : Field := ⟨R.RX_PORT_STATUS, 8, 7⟩
def RX_PORT_STATUS_RATE : Field := ⟨R.RX_PORT_STATUS, 6, 4⟩
def RX_PORT_STATUS_CODING : Field := ⟨R.RX_PORT_STATUS, 3, 3⟩
def RX_PORT_STATUS_TRAINED : Field := ⟨R.RX_PORT_STATUS, 2, 2⟩
def RX_PORT_STATUS_HPD_LEVEL : Field := ⟨R.RX_PORT_STATUS, 1, 1⟩
def RX_PORT_STATUS_SOURCE_PRESENT : Field := ⟨R.RX_PORT_STATUS, 0, 0⟩
def RX_EVENT_SPLIT_SKEW : Field := ⟨R.RX_EVENT, 19, 19⟩
def RX_EVENT_STANDBY_REFUSE : Field := ⟨R.RX_EVENT, 18, 18⟩
def RX_EVENT_STANDBY_LOSS : Field := ⟨R.RX_EVENT, 17, 17⟩
def RX_EVENT_TAKEOVER : Field := ⟨R.RX_EVENT, 16, 16⟩
def RX_EVENT_MB_OVERRUN : Field := ⟨R.RX_EVENT, 15, 14⟩
def RX_EVENT_MB_DOORBELL : Field := ⟨R.RX_EVENT, 13, 12⟩
def RX_EVENT_PR_ENTRY : Field := ⟨R.RX_EVENT, 11, 10⟩
def RX_EVENT_ALPM_WAKE : Field := ⟨R.RX_EVENT, 9, 8⟩
def RX_EVENT_DSC_ERROR : Field := ⟨R.RX_EVENT, 7, 6⟩
def RX_EVENT_MSA_MISMATCH : Field := ⟨R.RX_EVENT, 5, 4⟩
def RX_EVENT_LINK_DOWN : Field := ⟨R.RX_EVENT, 3, 2⟩
def RX_EVENT_LINK_UP : Field := ⟨R.RX_EVENT, 1, 0⟩
def RASTER_H_H_TOTAL : Field := ⟨R.RASTER_H, 29, 16⟩
def RASTER_H_H_ACTIVE : Field := ⟨R.RASTER_H, 13, 0⟩
def RASTER_V_V_TOTAL : Field := ⟨R.RASTER_V, 30, 16⟩
def RASTER_V_V_ACTIVE : Field := ⟨R.RASTER_V, 12, 0⟩
def RASTER_VRR_VRR_EN : Field := ⟨R.RASTER_VRR, 31, 31⟩
def RASTER_VRR_V_TOTAL_MAX : Field := ⟨R.RASTER_VRR, 14, 0⟩
def RASTER_FLOOR_FLOOR_US : Field := ⟨R.RASTER_FLOOR, 16, 0⟩
def LATCH_CTRL_PREFETCH_LINES : Field := ⟨R.LATCH_CTRL, 22, 16⟩
def LATCH_CTRL_LATCH_LINE : Field := ⟨R.LATCH_CTRL, 14, 0⟩
def LINE_MATCH_MATCH_EN : Field := ⟨R.LINE_MATCH, 31, 31⟩
def LINE_MATCH_MATCH_LINE : Field := ⟨R.LINE_MATCH, 14, 0⟩
def SCAN_POS_HOLD : Field := ⟨R.SCAN_POS, 16, 16⟩
def SCAN_POS_LINE : Field := ⟨R.SCAN_POS, 14, 0⟩
def SCAN_EVENT_RETIRE : Field := ⟨R.SCAN_EVENT, 23, 16⟩
def SCAN_EVENT_RING_DROP : Field := ⟨R.SCAN_EVENT, 7, 7⟩
def SCAN_EVENT_CFG_TIMING : Field := ⟨R.SCAN_EVENT, 6, 6⟩
def SCAN_EVENT_CFG_LAYER : Field := ⟨R.SCAN_EVENT, 5, 5⟩
def SCAN_EVENT_GUARD_EXPIRE : Field := ⟨R.SCAN_EVENT, 4, 4⟩
def SCAN_EVENT_UNDERRUN : Field := ⟨R.SCAN_EVENT, 3, 3⟩
def SCAN_EVENT_FRAME_DONE : Field := ⟨R.SCAN_EVENT, 2, 2⟩
def SCAN_EVENT_LINE_MATCH : Field := ⟨R.SCAN_EVENT, 1, 1⟩
def SCAN_EVENT_SOB : Field := ⟨R.SCAN_EVENT, 0, 0⟩
def UNDERRUN_STATUS_DRAM_ERR : Field := ⟨R.UNDERRUN_STATUS, 31, 31⟩
def UNDERRUN_STATUS_FIRST_LINE : Field := ⟨R.UNDERRUN_STATUS, 28, 16⟩
def UNDERRUN_STATUS_LAST : Field := ⟨R.UNDERRUN_STATUS, 15, 8⟩
def UNDERRUN_STATUS_LAYERS : Field := ⟨R.UNDERRUN_STATUS, 7, 0⟩
def UNDERRUN_FRAMES_COUNT : Field := ⟨R.UNDERRUN_FRAMES, 31, 0⟩
def COMP_CTRL_L0_BUFFERED : Field := ⟨R.COMP_CTRL, 3, 3⟩
def COMP_CTRL_FALLOW_VALID : Field := ⟨R.COMP_CTRL, 2, 2⟩
def COMP_CTRL_WALL_FEED : Field := ⟨R.COMP_CTRL, 1, 1⟩
def COMP_CTRL_BG_SRC : Field := ⟨R.COMP_CTRL, 0, 0⟩
def BG_COLOR_RG_GREEN : Field := ⟨R.BG_COLOR_RG, 27, 16⟩
def BG_COLOR_RG_RED : Field := ⟨R.BG_COLOR_RG, 11, 0⟩
def BG_COLOR_B_BLUE : Field := ⟨R.BG_COLOR_B, 11, 0⟩
def RING_BASE_BASE : Field := ⟨R.RING_BASE, 31, 0⟩
def RING_STATUS_DROPS : Field := ⟨R.RING_STATUS, 31, 16⟩
def RING_STATUS_PREV_VALID : Field := ⟨R.RING_STATUS, 11, 11⟩
def RING_STATUS_PREV_BUF : Field := ⟨R.RING_STATUS, 10, 9⟩
def RING_STATUS_LATEST_VALID : Field := ⟨R.RING_STATUS, 8, 8⟩
def RING_STATUS_LATEST_BUF : Field := ⟨R.RING_STATUS, 7, 6⟩
def RING_STATUS_WRITING : Field := ⟨R.RING_STATUS, 5, 5⟩
def RING_STATUS_WRITE_BUF : Field := ⟨R.RING_STATUS, 4, 3⟩
def RING_STATUS_SCAN_VALID : Field := ⟨R.RING_STATUS, 2, 2⟩
def RING_STATUS_SCAN_BUF : Field := ⟨R.RING_STATUS, 1, 0⟩
def GUARD_CTRL_HELD_NOW : Field := ⟨R.GUARD_CTRL, 15, 8⟩
def GUARD_CTRL_GUARD_WAIT : Field := ⟨R.GUARD_CTRL, 7, 0⟩
def GUARD_HOLD_HELD : Field := ⟨R.GUARD_HOLD, 31, 0⟩
def GUARD_STATUS_ADDR : Field := ⟨R.GUARD_STATUS, 31, 0⟩
def LAYER_CTRL_GALPHA : Field := ⟨R.LAYER_CTRL, 23, 16⟩
def LAYER_CTRL_CSITE : Field := ⟨R.LAYER_CTRL, 12, 12⟩
def LAYER_CTRL_CSC : Field := ⟨R.LAYER_CTRL, 11, 10⟩
def LAYER_CTRL_SCALE_Y : Field := ⟨R.LAYER_CTRL, 9, 8⟩
def LAYER_CTRL_SCALE_X : Field := ⟨R.LAYER_CTRL, 7, 6⟩
def LAYER_CTRL_PREMULT : Field := ⟨R.LAYER_CTRL, 5, 5⟩
def LAYER_CTRL_FMT : Field := ⟨R.LAYER_CTRL, 4, 1⟩
def LAYER_CTRL_EN : Field := ⟨R.LAYER_CTRL, 0, 0⟩
def LAYER_BASE_BASE : Field := ⟨R.LAYER_BASE, 31, 0⟩
def LAYER_STRIDE_STRIDE_C : Field := ⟨R.LAYER_STRIDE, 31, 16⟩
def LAYER_STRIDE_STRIDE : Field := ⟨R.LAYER_STRIDE, 15, 0⟩
def LAYER_SIZE_SRC_H : Field := ⟨R.LAYER_SIZE, 28, 16⟩
def LAYER_SIZE_SRC_W : Field := ⟨R.LAYER_SIZE, 13, 0⟩
def RETIRED_BASE_BASE : Field := ⟨R.RETIRED_BASE, 31, 0⟩
def PAL_ENTRY_ALPHA : Field := ⟨R.PAL_ENTRY, 31, 24⟩
def PAL_ENTRY_BLUE : Field := ⟨R.PAL_ENTRY, 23, 16⟩
def PAL_ENTRY_GREEN : Field := ⟨R.PAL_ENTRY, 15, 8⟩
def PAL_ENTRY_RED : Field := ⟨R.PAL_ENTRY, 7, 0⟩
def CORR_CTRL_LUT_SEL : Field := ⟨R.CORR_CTRL, 8, 8⟩
def CORR_CTRL_EDGE : Field := ⟨R.CORR_CTRL, 7, 7⟩
def CORR_CTRL_KSIZE : Field := ⟨R.CORR_CTRL, 6, 4⟩
def CORR_CTRL_CLIP_MODE : Field := ⟨R.CORR_CTRL, 3, 3⟩
def CORR_CTRL_GAMMA_EN : Field := ⟨R.CORR_CTRL, 2, 2⟩
def CORR_CTRL_DEMURA_EN : Field := ⟨R.CORR_CTRL, 1, 1⟩
def CORR_CTRL_COMP_EN : Field := ⟨R.CORR_CTRL, 0, 0⟩
def ZONE_GRID_ZONE_ROWS : Field := ⟨R.ZONE_GRID, 22, 16⟩
def ZONE_GRID_ZONE_COLS : Field := ⟨R.ZONE_GRID, 7, 0⟩
def ZONE_SIZE_ZONE_H : Field := ⟨R.ZONE_SIZE, 28, 16⟩
def ZONE_SIZE_ZONE_W : Field := ⟨R.ZONE_SIZE, 13, 0⟩
def STAT_CTRL_THRESH : Field := ⟨R.STAT_CTRL, 27, 16⟩
def STAT_CTRL_STAT_SRC : Field := ⟨R.STAT_CTRL, 0, 0⟩
def STAT_BASE_BASE : Field := ⟨R.STAT_BASE, 19, 0⟩
def STAT_STATUS_STAT_VALID : Field := ⟨R.STAT_STATUS, 2, 2⟩
def STAT_STATUS_LAST_ROW_BUSY : Field := ⟨R.STAT_STATUS, 1, 1⟩
def STAT_STATUS_READ_SIDE : Field := ⟨R.STAT_STATUS, 0, 0⟩
def STAT_FRAME_FRAME : Field := ⟨R.STAT_FRAME, 31, 0⟩
def COMP_REF_GAIN_MAX : Field := ⟨R.COMP_REF, 31, 16⟩
def COMP_REF_REF : Field := ⟨R.COMP_REF, 15, 0⟩
def DEMURA_ANCHOR_A1 : Field := ⟨R.DEMURA_ANCHOR, 23, 12⟩
def DEMURA_ANCHOR_A0 : Field := ⟨R.DEMURA_ANCHOR, 11, 0⟩
def DEMURA_SCALE_BLUE : Field := ⟨R.DEMURA_SCALE, 23, 16⟩
def DEMURA_SCALE_GREEN : Field := ⟨R.DEMURA_SCALE, 15, 8⟩
def DEMURA_SCALE_RED : Field := ⟨R.DEMURA_SCALE, 7, 0⟩
def DEMURA_BASE_BASE : Field := ⟨R.DEMURA_BASE, 31, 0⟩
def DEMURA_PITCH_PITCH : Field := ⟨R.DEMURA_PITCH, 15, 0⟩
def DEMURA_LEN_BASE_BASE : Field := ⟨R.DEMURA_LEN_BASE, 19, 0⟩
def LUT_BASE_BASE : Field := ⟨R.LUT_BASE, 19, 0⟩
def CORR_EVENT_CFG_CORR : Field := ⟨R.CORR_EVENT, 4, 4⟩
def CORR_EVENT_LUT_IN_USE : Field := ⟨R.CORR_EVENT, 3, 3⟩
def CORR_EVENT_DEMURA_ERR : Field := ⟨R.CORR_EVENT, 2, 2⟩
def CORR_EVENT_CLIP : Field := ⟨R.CORR_EVENT, 1, 1⟩
def CORR_EVENT_STAT_READY : Field := ⟨R.CORR_EVENT, 0, 0⟩
def CLIP_COUNT_PIXELS : Field := ⟨R.CLIP_COUNT, 25, 0⟩
def DRIVE_CTRL_INV_MODE : Field := ⟨R.DRIVE_CTRL, 9, 7⟩
def DRIVE_CTRL_HIST_RATIO : Field := ⟨R.DRIVE_CTRL, 6, 6⟩
def DRIVE_CTRL_OD_SEL : Field := ⟨R.DRIVE_CTRL, 5, 5⟩
def DRIVE_CTRL_OUT_BITS : Field := ⟨R.DRIVE_CTRL, 4, 4⟩
def DRIVE_CTRL_TDITHER_EN : Field := ⟨R.DRIVE_CTRL, 3, 3⟩
def DRIVE_CTRL_DITHER_EN : Field := ⟨R.DRIVE_CTRL, 2, 2⟩
def DRIVE_CTRL_OD_EN : Field := ⟨R.DRIVE_CTRL, 0, 0⟩
def OD_TEMP_LO_T1 : Field := ⟨R.OD_TEMP_LO, 31, 16⟩
def OD_TEMP_LO_T0 : Field := ⟨R.OD_TEMP_LO, 15, 0⟩
def OD_CFG_FALLBACK_TEMP : Field := ⟨R.OD_CFG, 31, 16⟩
def OD_CFG_HIST_SNAP : Field := ⟨R.OD_CFG, 3, 0⟩
def OD_TABLE_BASE_BASE : Field := ⟨R.OD_TABLE_BASE, 19, 0⟩
def HIST_BASE_BASE : Field := ⟨R.HIST_BASE, 31, 0⟩
def HIST_STATUS_PHASE : Field := ⟨R.HIST_STATUS, 5, 4⟩
def HIST_STATUS_SEED : Field := ⟨R.HIST_STATUS, 3, 2⟩
def HIST_STATUS_WRITE_BUF : Field := ⟨R.HIST_STATUS, 0, 0⟩
def DRIVE_LIMIT_RG_GREEN : Field := ⟨R.DRIVE_LIMIT_RG, 27, 16⟩
def DRIVE_LIMIT_RG_RED : Field := ⟨R.DRIVE_LIMIT_RG, 11, 0⟩
def DRIVE_POLICY_RG_GREEN : Field := ⟨R.DRIVE_POLICY_RG, 27, 16⟩
def DRIVE_POLICY_RG_RED : Field := ⟨R.DRIVE_POLICY_RG, 11, 0⟩
def DITHER_M_ENTRY0 : Field := ⟨R.DITHER_M, 5, 0⟩
def DITHER_M_ENTRY1 : Field := ⟨R.DITHER_M, 13, 8⟩
def DITHER_M_ENTRY2 : Field := ⟨R.DITHER_M, 21, 16⟩
def DITHER_M_ENTRY3 : Field := ⟨R.DITHER_M, 29, 24⟩
def SAFE_COLOR_RG_GREEN : Field := ⟨R.SAFE_COLOR_RG, 27, 16⟩
def SAFE_COLOR_RG_RED : Field := ⟨R.SAFE_COLOR_RG, 11, 0⟩
def DRV_LAYOUT_DUAL_GATE : Field := ⟨R.DRV_LAYOUT, 15, 15⟩
def DRV_LAYOUT_SUBPIX_ORDER : Field := ⟨R.DRV_LAYOUT, 14, 12⟩
def DRV_LAYOUT_DRV_PIXELS : Field := ⟨R.DRV_LAYOUT, 9, 0⟩
def DRIVE_EVENT_SEED : Field := ⟨R.DRIVE_EVENT, 4, 4⟩
def DRIVE_EVENT_DRIVE_CLAMP : Field := ⟨R.DRIVE_EVENT, 3, 3⟩
def DRIVE_EVENT_HIST_ERR : Field := ⟨R.DRIVE_EVENT, 2, 2⟩
def DRIVE_EVENT_OD_IN_USE : Field := ⟨R.DRIVE_EVENT, 1, 1⟩
def DRIVE_EVENT_CFG_DRIVE : Field := ⟨R.DRIVE_EVENT, 0, 0⟩
def COL_CTRL_MLV_MODE : Field := ⟨R.COL_CTRL, 31, 31⟩
def COL_CTRL_LOAD_W : Field := ⟨R.COL_CTRL, 30, 23⟩
def COL_CTRL_RETUNE_EN : Field := ⟨R.COL_CTRL, 22, 22⟩
def COL_CTRL_LD_DELAY : Field := ⟨R.COL_CTRL, 21, 12⟩
def COL_CTRL_COL_MULT : Field := ⟨R.COL_CTRL, 5, 0⟩
def COL_STATUS_TRAIN_STATE : Field := ⟨R.COL_STATUS, 19, 16⟩
def COL_STATUS_LOCK_N : Field := ⟨R.COL_STATUS, 0, 0⟩
def COL_PRESENT_LO_LANES : Field := ⟨R.COL_PRESENT_LO, 31, 0⟩
def COL_LANE_DELAY : Field := ⟨R.COL_LANE, 13, 8⟩
def COL_LANE_SWING : Field := ⟨R.COL_LANE, 5, 4⟩
def COL_LANE_DEEMPH : Field := ⟨R.COL_LANE, 1, 0⟩
def COL_EVENT_LANE_RETURN : Field := ⟨R.COL_EVENT, 6, 6⟩
def COL_EVENT_RELOCK_DONE : Field := ⟨R.COL_EVENT, 5, 5⟩
def COL_EVENT_CFG_PANEL : Field := ⟨R.COL_EVENT, 4, 4⟩
def COL_EVENT_CRC_PULSE : Field := ⟨R.COL_EVENT, 3, 3⟩
def COL_EVENT_LANE_FAIL : Field := ⟨R.COL_EVENT, 2, 2⟩
def COL_EVENT_LOCK_LOSS : Field := ⟨R.COL_EVENT, 1, 1⟩
def COL_EVENT_TRAIN_DONE : Field := ⟨R.COL_EVENT, 0, 0⟩
def COL_CTLPKT_HDR_GO : Field := ⟨R.COL_CTLPKT_HDR, 31, 31⟩
def COL_CTLPKT_HDR_LEN : Field := ⟨R.COL_CTLPKT_HDR, 20, 16⟩
def COL_CTLPKT_HDR_ADDR : Field := ⟨R.COL_CTLPKT_HDR, 15, 8⟩
def COL_CTLPKT_HDR_CMD : Field := ⟨R.COL_CTLPKT_HDR, 7, 0⟩
def GATE_CTRL_GATE_EN : Field := ⟨R.GATE_CTRL, 31, 31⟩
def GATE_CTRL_SPAN : Field := ⟨R.GATE_CTRL, 27, 24⟩
def GATE_CTRL_PHASES : Field := ⟨R.GATE_CTRL, 20, 16⟩
def GATE_CTRL_ROWS : Field := ⟨R.GATE_CTRL, 13, 0⟩
def GATE_EDGE_FALL : Field := ⟨R.GATE_EDGE, 31, 16⟩
def GATE_EDGE_RISE : Field := ⟨R.GATE_EDGE, 15, 0⟩
def GATE_GST_WIDTH : Field := ⟨R.GATE_GST, 31, 16⟩
def GATE_GST_START : Field := ⟨R.GATE_GST, 15, 0⟩
def GATE_POL_GDIS : Field := ⟨R.GATE_POL, 22, 22⟩
def GATE_POL_GRST : Field := ⟨R.GATE_POL, 21, 20⟩
def GATE_POL_GST : Field := ⟨R.GATE_POL, 19, 16⟩
def GATE_POL_GCK : Field := ⟨R.GATE_POL, 15, 0⟩
def PSEQ_ON_ACT : Field := ⟨R.PSEQ_ON, 31, 28⟩
def PSEQ_ON_GPIO : Field := ⟨R.PSEQ_ON, 27, 24⟩
def PSEQ_ON_DELAY : Field := ⟨R.PSEQ_ON, 23, 0⟩
def PSEQ_STATUS_PFAIL_LEVEL : Field := ⟨R.PSEQ_STATUS, 8, 8⟩
def PSEQ_STATUS_PANEL_ON : Field := ⟨R.PSEQ_STATUS, 7, 7⟩
def PSEQ_STATUS_STEP : Field := ⟨R.PSEQ_STATUS, 5, 2⟩
def PSEQ_STATUS_LIST : Field := ⟨R.PSEQ_STATUS, 1, 0⟩
def CODEC_CTRL_CTX_RESET : Field := ⟨R.CODEC_CTRL, 19, 16⟩
def CODEC_CTRL_Q1_EN : Field := ⟨R.CODEC_CTRL, 1, 1⟩
def CODEC_CTRL_Q0_EN : Field := ⟨R.CODEC_CTRL, 0, 0⟩
def CODEC_Q_CFG_SIZE : Field := ⟨R.CODEC_Q_CFG, 27, 24⟩
def CODEC_Q_CFG_BASE : Field := ⟨R.CODEC_Q_CFG, 19, 0⟩
def CODEC_EVENT_STREAM_REFUSED : Field := ⟨R.CODEC_EVENT, 5, 5⟩
def CODEC_EVENT_OUT_FULL : Field := ⟨R.CODEC_EVENT, 4, 4⟩
def CODEC_EVENT_DESC_DONE : Field := ⟨R.CODEC_EVENT, 3, 3⟩
def CODEC_EVENT_BLOCK_CHECK : Field := ⟨R.CODEC_EVENT, 2, 2⟩
def CODEC_EVENT_BOUND_FAIL : Field := ⟨R.CODEC_EVENT, 1, 1⟩
def CODEC_EVENT_VERIFY_MISMATCH : Field := ⟨R.CODEC_EVENT, 0, 0⟩
def VERIFY_MISMATCH_COUNT_COUNT : Field := ⟨R.VERIFY_MISMATCH_COUNT, 31, 0⟩
def CHECK_STATUS_SOURCE : Field := ⟨R.CHECK_STATUS, 31, 29⟩
def CHECK_STATUS_LINE : Field := ⟨R.CHECK_STATUS, 28, 16⟩
def CHECK_STATUS_SEG : Field := ⟨R.CHECK_STATUS, 6, 0⟩
def RING_LEN_BASE_BASE : Field := ⟨R.RING_LEN_BASE, 19, 0⟩
def FALLOW_BASE_BASE : Field := ⟨R.FALLOW_BASE, 31, 0⟩
def SCHED_CTRL_ZONE_CAP : Field := ⟨R.SCHED_CTRL, 13, 8⟩
def SCHED_CTRL_FAULT_LIMIT : Field := ⟨R.SCHED_CTRL, 7, 4⟩
def SCHED_CTRL_GLEN_PWR_AUTO : Field := ⟨R.SCHED_CTRL, 3, 3⟩
def SCHED_CTRL_AUTO_SPARE : Field := ⟨R.SCHED_CTRL, 2, 2⟩
def SCHED_CTRL_EN : Field := ⟨R.SCHED_CTRL, 0, 0⟩
def SCHED_STATUS_IMEM_BUSY : Field := ⟨R.SCHED_STATUS, 27, 27⟩
def SCHED_STATUS_OUT : Field := ⟨R.SCHED_STATUS, 26, 18⟩
def SCHED_STATUS_SERVICE : Field := ⟨R.SCHED_STATUS, 17, 9⟩
def SCHED_STATUS_POOL : Field := ⟨R.SCHED_STATUS, 8, 0⟩
def SCHED_EVENT_ECC_CORR : Field := ⟨R.SCHED_EVENT, 9, 9⟩
def SCHED_EVENT_CFG_JOB : Field := ⟨R.SCHED_EVENT, 8, 8⟩
def SCHED_EVENT_IMEM_DONE : Field := ⟨R.SCHED_EVENT, 7, 7⟩
def SCHED_EVENT_SPARE_SHORT : Field := ⟨R.SCHED_EVENT, 6, 6⟩
def SCHED_EVENT_DALE_SPARED : Field := ⟨R.SCHED_EVENT, 5, 5⟩
def SCHED_EVENT_JOB_SKIP : Field := ⟨R.SCHED_EVENT, 4, 4⟩
def SCHED_EVENT_OVER_QUOTA : Field := ⟨R.SCHED_EVENT, 3, 3⟩
def SCHED_EVENT_JOB_OVERRUN : Field := ⟨R.SCHED_EVENT, 2, 2⟩
def SCHED_EVENT_JOB_FAULT : Field := ⟨R.SCHED_EVENT, 1, 1⟩
def SCHED_EVENT_JOB_LATE : Field := ⟨R.SCHED_EVENT, 0, 0⟩
def IMEM_LOAD_GO : Field := ⟨R.IMEM_LOAD, 31, 31⟩
def IMEM_LOAD_LEN : Field := ⟨R.IMEM_LOAD, 25, 20⟩
def IMEM_LOAD_SRC : Field := ⟨R.IMEM_LOAD, 19, 0⟩
def CTX_AREA_BASE : Field := ⟨R.CTX_AREA, 19, 0⟩
def JOB_CFG_EN : Field := ⟨R.JOB_CFG, 31, 31⟩
def JOB_CFG_READS_STAT : Field := ⟨R.JOB_CFG, 30, 30⟩
def JOB_CFG_DIV : Field := ⟨R.JOB_CFG, 29, 27⟩
def JOB_CFG_PHASE : Field := ⟨R.JOB_CFG, 26, 20⟩
def JOB_CFG_DEP : Field := ⟨R.JOB_CFG, 19, 12⟩
def JOB_BUDGET_CYCLES : Field := ⟨R.JOB_BUDGET, 31, 0⟩
def DALE_CTRL_DOORBELL : Field := ⟨R.DALE_CTRL, 17, 17⟩
def DALE_CTRL_START : Field := ⟨R.DALE_CTRL, 16, 16⟩
def DALE_CTRL_START_PC : Field := ⟨R.DALE_CTRL, 15, 2⟩
def DALE_CTRL_STATE_REQ : Field := ⟨R.DALE_CTRL, 1, 0⟩
def DALE_STATUS_HW_FAULTS : Field := ⟨R.DALE_STATUS, 27, 20⟩
def DALE_STATUS_LAST_CAUSE : Field := ⟨R.DALE_STATUS, 19, 16⟩
def DALE_STATUS_ZONES : Field := ⟨R.DALE_STATUS, 13, 8⟩
def DALE_STATUS_BUSY : Field := ⟨R.DALE_STATUS, 2, 2⟩
def DALE_STATUS_STATE : Field := ⟨R.DALE_STATUS, 1, 0⟩
def ZONE_MAP_DALE0 : Field := ⟨R.ZONE_MAP, 7, 0⟩
def ZONE_MAP_DALE1 : Field := ⟨R.ZONE_MAP, 15, 8⟩
def ZONE_MAP_DALE2 : Field := ⟨R.ZONE_MAP, 23, 16⟩
def ZONE_MAP_DALE3 : Field := ⟨R.ZONE_MAP, 31, 24⟩
def BL_CTRL_EN : Field := ⟨R.BL_CTRL, 31, 31⟩
def BL_CTRL_RESTART : Field := ⟨R.BL_CTRL, 30, 30⟩
def BL_CTRL_PIN_TEST_EN : Field := ⟨R.BL_CTRL, 25, 25⟩
def BL_CTRL_DIAG_EN : Field := ⟨R.BL_CTRL, 24, 24⟩
def BL_CTRL_ZB_EN : Field := ⟨R.BL_CTRL, 23, 23⟩
def BL_CTRL_SEG_N : Field := ⟨R.BL_CTRL, 20, 16⟩
def BL_CTRL_PER_FRAME : Field := ⟨R.BL_CTRL, 10, 8⟩
def BL_SEG_STAGGER : Field := ⟨R.BL_SEG, 31, 16⟩
def BL_SEG_SEG_MIN : Field := ⟨R.BL_SEG, 15, 0⟩
def BL_LIMIT_TJ_MAX : Field := ⟨R.BL_LIMIT, 31, 24⟩
def BL_LIMIT_PDIE_MAX : Field := ⟨R.BL_LIMIT, 23, 16⟩
def BL_LIMIT_VMAX : Field := ⟨R.BL_LIMIT, 15, 8⟩
def BL_LIMIT_IMAX : Field := ⟨R.BL_LIMIT, 7, 0⟩
def BL_BUDGET_POLICY : Field := ⟨R.BL_BUDGET, 31, 16⟩
def BL_BUDGET_LIMIT : Field := ⟨R.BL_BUDGET, 15, 0⟩
def BL_STATUS_SCALE : Field := ⟨R.BL_STATUS, 31, 16⟩
def BL_STATUS_SHUT_CAUSE : Field := ⟨R.BL_STATUS, 11, 8⟩
def BL_STATUS_PERIOD : Field := ⟨R.BL_STATUS, 2, 0⟩
def BL_EVENT_CFG_BL : Field := ⟨R.BL_EVENT, 13, 13⟩
def BL_EVENT_ZB_IC_FAULT : Field := ⟨R.BL_EVENT, 12, 12⟩
def BL_EVENT_ZB_DESYNC : Field := ⟨R.BL_EVENT, 11, 11⟩
def BL_EVENT_ZB_ENUM_SHORT : Field := ⟨R.BL_EVENT, 10, 10⟩
def BL_EVENT_ZB_REPLUG : Field := ⟨R.BL_EVENT, 9, 9⟩
def BL_EVENT_ZB_RING_DOWN : Field := ⟨R.BL_EVENT, 8, 8⟩
def BL_EVENT_PIN_SHORT : Field := ⟨R.BL_EVENT, 7, 7⟩
def BL_EVENT_LED_SHORT : Field := ⟨R.BL_EVENT, 6, 6⟩
def BL_EVENT_OPEN : Field := ⟨R.BL_EVENT, 5, 5⟩
def BL_EVENT_BOOST_OC : Field := ⟨R.BL_EVENT, 4, 4⟩
def BL_EVENT_BOOST_OV : Field := ⟨R.BL_EVENT, 3, 3⟩
def BL_EVENT_BL_OT : Field := ⟨R.BL_EVENT, 2, 2⟩
def BL_EVENT_BL_SCALE : Field := ⟨R.BL_EVENT, 1, 1⟩
def BL_EVENT_BL_LATE : Field := ⟨R.BL_EVENT, 0, 0⟩
def BOOST_CFG_EN : Field := ⟨R.BOOST_CFG, 31, 31⟩
def BOOST_CFG_VSTART : Field := ⟨R.BOOST_CFG, 23, 16⟩
def BOOST_CFG_VMIN : Field := ⟨R.BOOST_CFG, 15, 8⟩
def BOOST_CFG_ILIM : Field := ⟨R.BOOST_CFG, 7, 4⟩
def BOOST_CFG_FSW : Field := ⟨R.BOOST_CFG, 3, 0⟩
def SINK_CFG_EN : Field := ⟨R.SINK_CFG, 31, 31⟩
def SINK_CFG_BOOST : Field := ⟨R.SINK_CFG, 27, 24⟩
def SINK_CFG_ZONE : Field := ⟨R.SINK_CFG, 23, 12⟩
def SINK_CFG_IFS : Field := ⟨R.SINK_CFG, 7, 0⟩
def CAL_CTRL_EN : Field := ⟨R.CAL_CTRL, 5, 0⟩
def CAL_EVENT_CAL_STORE : Field := ⟨R.CAL_EVENT, 3, 3⟩
def CAL_EVENT_CAL_FIT_READY : Field := ⟨R.CAL_EVENT, 2, 2⟩
def CAL_EVENT_CAL_FAULT : Field := ⟨R.CAL_EVENT, 1, 1⟩
def CAL_EVENT_CAL_REJECT : Field := ⟨R.CAL_EVENT, 0, 0⟩
def CAL_REJ_STATUS_CONSEC : Field := ⟨R.CAL_REJ_STATUS, 31, 24⟩
def CAL_REJ_STATUS_REASON : Field := ⟨R.CAL_REJ_STATUS, 23, 20⟩
def CAL_REJ_STATUS_CALIB : Field := ⟨R.CAL_REJ_STATUS, 19, 17⟩
def CAL_REJ_STATUS_INSTANCE : Field := ⟨R.CAL_REJ_STATUS, 11, 0⟩
def CAL_STATUS_ACCEPTS : Field := ⟨R.CAL_STATUS, 31, 16⟩
def CAL_STATUS_MAX_CONSEC : Field := ⟨R.CAL_STATUS, 15, 8⟩
def CAL_STATUS_LAST_IC_GAIN : Field := ⟨R.CAL_STATUS, 7, 0⟩
def SINK_CAL_GAIN : Field := ⟨R.SINK_CAL, 31, 16⟩
def SINK_CAL_OFS : Field := ⟨R.SINK_CAL, 6, 0⟩
def TS_CAL_RAW : Field := ⟨R.TS_CAL, 31, 16⟩
def TS_CAL_OFS : Field := ⟨R.TS_CAL, 7, 0⟩
def GDMA_Q_CFG_SIZE : Field := ⟨R.GDMA_Q_CFG, 27, 24⟩
def GDMA_Q_CFG_BASE : Field := ⟨R.GDMA_Q_CFG, 19, 0⟩
def LS_CTRL_TEST_GAP : Field := ⟨R.LS_CTRL, 16, 1⟩
def LS_CTRL_TEST_EN : Field := ⟨R.LS_CTRL, 0, 0⟩
def LS_EVENT_LS_BANK_OFF : Field := ⟨R.LS_EVENT, 6, 6⟩
def LS_EVENT_LS_TEST_SKIP : Field := ⟨R.LS_EVENT, 5, 5⟩
def LS_EVENT_LS_TEST_FAIL : Field := ⟨R.LS_EVENT, 4, 4⟩
def LS_EVENT_LS_COLLIDE : Field := ⟨R.LS_EVENT, 3, 3⟩
def LS_EVENT_LS_UNCORR : Field := ⟨R.LS_EVENT, 2, 2⟩
def LS_EVENT_LS_CORR : Field := ⟨R.LS_EVENT, 1, 1⟩
def LS_EVENT_RET_FAIL : Field := ⟨R.LS_EVENT, 0, 0⟩
def LS_ECC_STATUS_WORD : Field := ⟨R.LS_ECC_STATUS, 19, 0⟩
def LS_PORT_CFG_URGENT : Field := ⟨R.LS_PORT_CFG, 1, 1⟩
def LS_PORT_CFG_RT : Field := ⟨R.LS_PORT_CFG, 0, 0⟩
def LS_BANK_CTRL_VERIFY : Field := ⟨R.LS_BANK_CTRL, 2, 2⟩
def LS_BANK_CTRL_STATE_REQ : Field := ⟨R.LS_BANK_CTRL, 1, 0⟩
def LS_BANK_STATUS_RET_FAIL : Field := ⟨R.LS_BANK_STATUS, 4, 4⟩
def LS_BANK_STATUS_CHECKING : Field := ⟨R.LS_BANK_STATUS, 3, 3⟩
def LS_BANK_STATUS_ENTERING : Field := ⟨R.LS_BANK_STATUS, 2, 2⟩
def LS_BANK_STATUS_STATE : Field := ⟨R.LS_BANK_STATUS, 1, 0⟩
def DRAM_CTRL_SCRUB_HOURS : Field := ⟨R.DRAM_CTRL, 15, 8⟩
def DRAM_CTRL_RATE : Field := ⟨R.DRAM_CTRL, 6, 4⟩
def DRAM_CTRL_PANIC_EN : Field := ⟨R.DRAM_CTRL, 1, 1⟩
def DRAM_CTRL_SCRUB_EN : Field := ⟨R.DRAM_CTRL, 0, 0⟩
def DRAM_REGION_EN : Field := ⟨R.DRAM_REGION, 31, 31⟩
def DRAM_REGION_ORDER : Field := ⟨R.DRAM_REGION, 29, 28⟩
def DRAM_REGION_BASE : Field := ⟨R.DRAM_REGION, 12, 0⟩
def DRAM_AGE_LIMIT_MAINT : Field := ⟨R.DRAM_AGE_LIMIT, 23, 16⟩
def DRAM_AGE_LIMIT_BULK : Field := ⟨R.DRAM_AGE_LIMIT, 15, 8⟩
def DRAM_AGE_LIMIT_HI : Field := ⟨R.DRAM_AGE_LIMIT, 7, 0⟩
def DRAM_RD_CFG_RD_THROTTLE : Field := ⟨R.DRAM_RD_CFG, 31, 24⟩
def DRAM_RD_CFG_RD_WINDOW : Field := ⟨R.DRAM_RD_CFG, 23, 16⟩
def DRAM_RD_CFG_RD_THRESH : Field := ⟨R.DRAM_RD_CFG, 15, 0⟩
def DRAM_EVENT_DRAM_OVERTEMP : Field := ⟨R.DRAM_EVENT, 11, 11⟩
def DRAM_EVENT_SEG_CLEAR_DONE : Field := ⟨R.DRAM_EVENT, 10, 10⟩
def DRAM_EVENT_DRAM_SEG_LOST : Field := ⟨R.DRAM_EVENT, 9, 9⟩
def DRAM_EVENT_DRAM_TRAIN_FAIL : Field := ⟨R.DRAM_EVENT, 8, 8⟩
def DRAM_EVENT_DRAM_HAMMER : Field := ⟨R.DRAM_EVENT, 7, 7⟩
def DRAM_EVENT_QUOTA_HOLD : Field := ⟨R.DRAM_EVENT, 6, 6⟩
def DRAM_EVENT_DRAM_PANIC : Field := ⟨R.DRAM_EVENT, 5, 5⟩
def DRAM_EVENT_DRAM_CATCHUP : Field := ⟨R.DRAM_EVENT, 4, 4⟩
def DRAM_EVENT_DRAM_REF_RATE : Field := ⟨R.DRAM_EVENT, 3, 3⟩
def DRAM_EVENT_DRAM_UE : Field := ⟨R.DRAM_EVENT, 1, 1⟩
def DRAM_EVENT_DRAM_CE : Field := ⟨R.DRAM_EVENT, 0, 0⟩
def DRAM_ECC_STATUS_BLOCK : Field := ⟨R.DRAM_ECC_STATUS, 27, 0⟩
def DRAM_ECC_INFO_PORT : Field := ⟨R.DRAM_ECC_INFO, 11, 8⟩
def DRAM_ECC_INFO_CH : Field := ⟨R.DRAM_ECC_INFO, 2, 0⟩
def DRQ_CFG_QUOTA : Field := ⟨R.DRQ_CFG, 31, 16⟩
def DRQ_CFG_PANIC_ON : Field := ⟨R.DRQ_CFG, 15, 10⟩
def DRQ_CFG_PANIC_OFF : Field := ⟨R.DRQ_CFG, 9, 4⟩
def DRQ_CFG_CLASS : Field := ⟨R.DRQ_CFG, 1, 0⟩
def DRAM_CH_CFG_SR_IDLE : Field := ⟨R.DRAM_CH_CFG, 23, 8⟩
def DRAM_CH_CFG_PASR : Field := ⟨R.DRAM_CH_CFG, 7, 0⟩
def DRAM_CH_STATUS_MR4_RATE : Field := ⟨R.DRAM_CH_STATUS, 28, 24⟩
def DRAM_CH_STATUS_LOST : Field := ⟨R.DRAM_CH_STATUS, 23, 16⟩
def DRAM_CH_STATUS_POSTPONED : Field := ⟨R.DRAM_CH_STATUS, 8, 4⟩
def DRAM_CH_STATUS_HIGH_TEMP : Field := ⟨R.DRAM_CH_STATUS, 3, 3⟩
def DRAM_CH_STATUS_STATE : Field := ⟨R.DRAM_CH_STATUS, 2, 0⟩
def WALL_CTRL_PORT_EN : Field := ⟨R.WALL_CTRL, 7, 4⟩
def WALL_CTRL_DEPUTY : Field := ⟨R.WALL_CTRL, 2, 2⟩
def WALL_CTRL_ROLE : Field := ⟨R.WALL_CTRL, 1, 1⟩
def WALL_CTRL_EN : Field := ⟨R.WALL_CTRL, 0, 0⟩
def WALL_STATUS_EPOCH : Field := ⟨R.WALL_STATUS, 31, 24⟩
def WALL_STATUS_HOPS : Field := ⟨R.WALL_STATUS, 23, 20⟩
def WALL_STATUS_UPSTREAM : Field := ⟨R.WALL_STATUS, 11, 10⟩
def WALL_STATUS_STATE : Field := ⟨R.WALL_STATUS, 2, 0⟩
def WALL_PORT_STATUS_DELAY : Field := ⟨R.WALL_PORT_STATUS, 31, 16⟩
def WALL_PORT_STATUS_NB_HOPS : Field := ⟨R.WALL_PORT_STATUS, 15, 12⟩
def WALL_PORT_STATUS_STATE : Field := ⟨R.WALL_PORT_STATUS, 2, 0⟩
def EQX_CMD_PREPARE : Field := ⟨R.EQX_CMD, 31, 31⟩
def EQX_CMD_SCOPE : Field := ⟨R.EQX_CMD, 30, 30⟩
def EQX_CMD_KIND : Field := ⟨R.EQX_CMD, 17, 16⟩
def EQX_CMD_SET : Field := ⟨R.EQX_CMD, 15, 0⟩
def EQX_STATUS_PHASE : Field := ⟨R.EQX_STATUS, 31, 28⟩
def EQX_STATUS_COUNT : Field := ⟨R.EQX_STATUS, 25, 16⟩
def EQX_STATUS_SET : Field := ⟨R.EQX_STATUS, 15, 0⟩
def NOTICE_TX_GO : Field := ⟨R.NOTICE_TX, 31, 31⟩
def NOTICE_TX_ID : Field := ⟨R.NOTICE_TX, 15, 0⟩
def WALL_EVENT_WALL_LAG : Field := ⟨R.WALL_EVENT, 19, 19⟩
def WALL_EVENT_WALL_MSG : Field := ⟨R.WALL_EVENT, 18, 18⟩
def WALL_EVENT_NOTICE_ERR : Field := ⟨R.WALL_EVENT, 17, 17⟩
def WALL_EVENT_NOTICE_READY : Field := ⟨R.WALL_EVENT, 16, 16⟩
def WALL_EVENT_EQX_BUSY : Field := ⟨R.WALL_EVENT, 15, 15⟩
def WALL_EVENT_EQX_ABORT : Field := ⟨R.WALL_EVENT, 14, 14⟩
def WALL_EVENT_LATE : Field := ⟨R.WALL_EVENT, 13, 13⟩
def WALL_EVENT_EQX_APPLIED : Field := ⟨R.WALL_EVENT, 12, 12⟩
def WALL_EVENT_EQX_PREPARE : Field := ⟨R.WALL_EVENT, 11, 11⟩
def WALL_EVENT_WALL_TIMING : Field := ⟨R.WALL_EVENT, 10, 10⟩
def WALL_EVENT_WALL_FRAME_STEP : Field := ⟨R.WALL_EVENT, 9, 9⟩
def WALL_EVENT_WALL_DUAL : Field := ⟨R.WALL_EVENT, 8, 8⟩
def WALL_EVENT_WALL_DEPTH : Field := ⟨R.WALL_EVENT, 7, 7⟩
def WALL_EVENT_WALL_YIELD : Field := ⟨R.WALL_EVENT, 6, 6⟩
def WALL_EVENT_WALL_ALMANAC : Field := ⟨R.WALL_EVENT, 5, 5⟩
def WALL_EVENT_WALL_HOLDOVER : Field := ⟨R.WALL_EVENT, 4, 4⟩
def WALL_EVENT_WALL_LOCK : Field := ⟨R.WALL_EVENT, 3, 3⟩
def WALL_EVENT_WALL_JOIN : Field := ⟨R.WALL_EVENT, 2, 2⟩
def WALL_EVENT_WALL_LINK_DOWN : Field := ⟨R.WALL_EVENT, 1, 1⟩
def WALL_EVENT_WALL_LINK_UP : Field := ⟨R.WALL_EVENT, 0, 0⟩
def PWR_CMD_CODE : Field := ⟨R.PWR_CMD, 3, 0⟩
def PWR_STATE_PENDING : Field := ⟨R.PWR_STATE, 7, 4⟩
def PWR_STATE_STATE : Field := ⟨R.PWR_STATE, 2, 0⟩
def PWR_CFG_DALE_TURBO : Field := ⟨R.PWR_CFG, 31, 31⟩
def PWR_CFG_PHY_OFF : Field := ⟨R.PWR_CFG, 30, 30⟩
def PWR_CFG_HOST_GATE : Field := ⟨R.PWR_CFG, 29, 29⟩
def PWR_CFG_CP_SLEEP : Field := ⟨R.PWR_CFG, 28, 28⟩
def PWR_CFG_VCORE_NOM : Field := ⟨R.PWR_CFG, 24, 16⟩
def PWR_CFG_FALLOW_V_TOTAL : Field := ⟨R.PWR_CFG, 14, 0⟩
def WAKE_EN_SRC : Field := ⟨R.WAKE_EN, 14, 1⟩
def LAST_WAKE_COUNT : Field := ⟨R.LAST_WAKE, 31, 16⟩
def LAST_WAKE_DETAIL : Field := ⟨R.LAST_WAKE, 15, 8⟩
def LAST_WAKE_SRC : Field := ⟨R.LAST_WAKE, 3, 0⟩
def KEEP_LS_LO_BANKS : Field := ⟨R.KEEP_LS_LO, 31, 0⟩
def VIGIL_CFG_HEAT_EN : Field := ⟨R.VIGIL_CFG, 24, 24⟩
def VIGIL_CFG_HEAT_GPIO : Field := ⟨R.VIGIL_CFG, 23, 20⟩
def VIGIL_CFG_THR_EN : Field := ⟨R.VIGIL_CFG, 19, 16⟩
def VIGIL_CFG_PERIOD : Field := ⟨R.VIGIL_CFG, 15, 0⟩
def VIGIL_TEMP_HEAT_ON : Field := ⟨R.VIGIL_TEMP, 31, 24⟩
def VIGIL_TEMP_DIE_HI : Field := ⟨R.VIGIL_TEMP, 23, 16⟩
def VIGIL_TEMP_PANEL_HI : Field := ⟨R.VIGIL_TEMP, 15, 8⟩
def VIGIL_TEMP_PANEL_LO : Field := ⟨R.VIGIL_TEMP, 7, 0⟩
def VREG_STATUS_RETRIES : Field := ⟨R.VREG_STATUS, 31, 24⟩
def VREG_STATUS_FAIL_RAIL : Field := ⟨R.VREG_STATUS, 23, 20⟩
def VREG_STATUS_POINT : Field := ⟨R.VREG_STATUS, 19, 18⟩
def VREG_STATUS_VCORE : Field := ⟨R.VREG_STATUS, 8, 0⟩
def PAD_HOLD_HELD : Field := ⟨R.PAD_HOLD, 5, 0⟩
def PWR_EVENT_STATE_REQ : Field := ⟨R.PWR_EVENT, 7, 7⟩
def PWR_EVENT_VREG_FAIL : Field := ⟨R.PWR_EVENT, 6, 6⟩
def PWR_EVENT_DOM_REFUSE : Field := ⟨R.PWR_EVENT, 5, 5⟩
def PWR_EVENT_PWR_REFUSE : Field := ⟨R.PWR_EVENT, 4, 4⟩
def PWR_EVENT_FALLOW_EXIT : Field := ⟨R.PWR_EVENT, 3, 3⟩
def PWR_EVENT_FALLOW_ENTER : Field := ⟨R.PWR_EVENT, 2, 2⟩
def PWR_EVENT_CAPTURE_DONE : Field := ⟨R.PWR_EVENT, 1, 1⟩
def PWR_EVENT_WAKE : Field := ⟨R.PWR_EVENT, 0, 0⟩
def DOM_CTRL_IDLE_US : Field := ⟨R.DOM_CTRL, 31, 16⟩
def DOM_CTRL_AUTO : Field := ⟨R.DOM_CTRL, 2, 2⟩
def DOM_CTRL_REQ : Field := ⟨R.DOM_CTRL, 1, 0⟩
def NV_CTRL_REFRESH_DAYS : Field := ⟨R.NV_CTRL, 15, 8⟩
def NV_CTRL_REFRESH_EN : Field := ⟨R.NV_CTRL, 0, 0⟩
def NV_CMD_GO : Field := ⟨R.NV_CMD, 31, 31⟩
def NV_CMD_PART : Field := ⟨R.NV_CMD, 27, 24⟩
def NV_CMD_KIND : Field := ⟨R.NV_CMD, 23, 23⟩
def NV_CMD_COUNT : Field := ⟨R.NV_CMD, 20, 12⟩
def NV_CMD_OP : Field := ⟨R.NV_CMD, 3, 0⟩
def NV_STATUS_BUSY : Field := ⟨R.NV_STATUS, 31, 31⟩
def NV_STATUS_PROG : Field := ⟨R.NV_STATUS, 30, 30⟩
def NV_STATUS_ERR : Field := ⟨R.NV_STATUS, 27, 24⟩
def NV_STATUS_STAGE : Field := ⟨R.NV_STATUS, 23, 21⟩
def NV_STATUS_PW_PASS : Field := ⟨R.NV_STATUS, 20, 20⟩
def NV_STATUS_PAGES_DONE : Field := ⟨R.NV_STATUS, 9, 0⟩
def NV_EVENT_NV_PF_RECORD : Field := ⟨R.NV_EVENT, 7, 7⟩
def NV_EVENT_NV_LOCKOUT : Field := ⟨R.NV_EVENT, 6, 6⟩
def NV_EVENT_NV_WEAK : Field := ⟨R.NV_EVENT, 5, 5⟩
def NV_EVENT_NV_JRNL_BAD : Field := ⟨R.NV_EVENT, 4, 4⟩
def NV_EVENT_NV_ROLLBACK : Field := ⟨R.NV_EVENT, 3, 3⟩
def NV_EVENT_NV_TIE : Field := ⟨R.NV_EVENT, 2, 2⟩
def NV_EVENT_NV_ERR : Field := ⟨R.NV_EVENT, 1, 1⟩
def NV_EVENT_NV_DONE : Field := ⟨R.NV_EVENT, 0, 0⟩
def NV_SEL_PF_VALID : Field := ⟨R.NV_SEL, 8, 8⟩
def NV_SEL_AGE_TIE : Field := ⟨R.NV_SEL, 7, 7⟩
def NV_SEL_AGE_VALID : Field := ⟨R.NV_SEL, 6, 6⟩
def NV_SEL_AGE_SLOT : Field := ⟨R.NV_SEL, 5, 4⟩
def NV_SEL_CAL_TIE : Field := ⟨R.NV_SEL, 2, 2⟩
def NV_SEL_CAL_VALID : Field := ⟨R.NV_SEL, 1, 1⟩
def NV_SEL_CAL_COPY : Field := ⟨R.NV_SEL, 0, 0⟩
def NV_BUF_DATA : Field := ⟨R.NV_BUF, 31, 0⟩
def BOOT_STATUS_STEP : Field := ⟨R.BOOT_STATUS, 31, 28⟩
def BOOT_STATUS_REASON_A : Field := ⟨R.BOOT_STATUS, 27, 24⟩
def BOOT_STATUS_REASON_B : Field := ⟨R.BOOT_STATUS, 23, 20⟩
def BOOT_STATUS_TIE : Field := ⟨R.BOOT_STATUS, 19, 19⟩
def BOOT_STATUS_SIGNED : Field := ⟨R.BOOT_STATUS, 18, 18⟩
def BOOT_STATUS_SLOT : Field := ⟨R.BOOT_STATUS, 17, 17⟩
def BOOT_STATUS_AGE_RESET : Field := ⟨R.BOOT_STATUS, 16, 16⟩
def BOOT_STATUS_STRAPS : Field := ⟨R.BOOT_STATUS, 7, 0⟩
def BOOT_SEQ_SEQ : Field := ⟨R.BOOT_SEQ, 31, 0⟩
def BOOT_LIGHT_US : Field := ⟨R.BOOT_LIGHT, 31, 0⟩
def BOOT_CTRL_LOCK : Field := ⟨R.BOOT_CTRL, 31, 31⟩
def BOOT_CTRL_RETRY : Field := ⟨R.BOOT_CTRL, 30, 30⟩
def BOOT_CTRL_WALL_WAIT : Field := ⟨R.BOOT_CTRL, 15, 0⟩
def BOOT_EVENT_BOOT_TIE : Field := ⟨R.BOOT_EVENT, 1, 1⟩
def BOOT_EVENT_BOOT_FALLBACK : Field := ⟨R.BOOT_EVENT, 0, 0⟩
def BOOT_STAGE_BASE : Field := ⟨R.BOOT_STAGE, 19, 0⟩
def IRQ_SUMMARY_BLOCK : Field := ⟨R.IRQ_SUMMARY, 19, 0⟩
def DEVICE_ID_PART : Field := ⟨R.DEVICE_ID, 31, 16⟩
def DEVICE_ID_REV : Field := ⟨R.DEVICE_ID, 15, 8⟩
def CP_CTRL_DWIN1 : Field := ⟨R.CP_CTRL, 6, 4⟩
def CP_CTRL_DWIN0 : Field := ⟨R.CP_CTRL, 2, 0⟩
def SYS_EVENT_BUS_ERR : Field := ⟨R.SYS_EVENT, 3, 3⟩
def SYS_EVENT_SWAP_FAIL : Field := ⟨R.SYS_EVENT, 2, 2⟩
def SYS_EVENT_SWAPPED : Field := ⟨R.SYS_EVENT, 1, 1⟩
def SYS_EVENT_RESTART : Field := ⟨R.SYS_EVENT, 0, 0⟩
def WDT_CTRL_EN : Field := ⟨R.WDT_CTRL, 31, 31⟩
def WDT_CTRL_TIMEOUT : Field := ⟨R.WDT_CTRL, 15, 0⟩
def MGMT_CFG_I3C_EN : Field := ⟨R.MGMT_CFG, 8, 8⟩
def MGMT_CFG_ADDR : Field := ⟨R.MGMT_CFG, 6, 0⟩
def XSPI_CMD_GO : Field := ⟨R.XSPI_CMD, 31, 31⟩
def XSPI_CMD_ERR : Field := ⟨R.XSPI_CMD, 30, 30⟩
def XSPI_CMD_MODE : Field := ⟨R.XSPI_CMD, 29, 28⟩
def XSPI_CMD_DIR : Field := ⟨R.XSPI_CMD, 27, 27⟩
def XSPI_CMD_ADDR_LEN : Field := ⟨R.XSPI_CMD, 26, 24⟩
def XSPI_CMD_DUMMY : Field := ⟨R.XSPI_CMD, 23, 16⟩
def XSPI_CMD_OPCODE : Field := ⟨R.XSPI_CMD, 7, 0⟩
def LADDER_CTRL_TARGET : Field := ⟨R.LADDER_CTRL, 2, 0⟩
def LADDER_STATUS_DROPS : Field := ⟨R.LADDER_STATUS, 31, 16⟩
def LADDER_STATUS_CAUSE : Field := ⟨R.LADDER_STATUS, 11, 8⟩
def LADDER_STATUS_AVAIL : Field := ⟨R.LADDER_STATUS, 4, 0⟩
def LOG_CTRL_HOLDOFF : Field := ⟨R.LOG_CTRL, 15, 0⟩
def LOG_STATUS_DROPPED : Field := ⟨R.LOG_STATUS, 31, 16⟩
def LOG_STATUS_CLEAR : Field := ⟨R.LOG_STATUS, 15, 15⟩
def LOG_STATUS_FROZEN : Field := ⟨R.LOG_STATUS, 14, 14⟩
def LOG_STATUS_COUNT : Field := ⟨R.LOG_STATUS, 4, 0⟩
def PIN_DP_MAP_AUX_POL : Field := ⟨R.PIN_DP_MAP, 12, 12⟩
def PIN_DP_MAP_POL : Field := ⟨R.PIN_DP_MAP, 11, 8⟩
def PIN_DP_MAP_LANE_MAP : Field := ⟨R.PIN_DP_MAP, 7, 0⟩
def PIN_COL_POL_LO_INV : Field := ⟨R.PIN_COL_POL_LO, 31, 0⟩
def PIN_VREG_EN : Field := ⟨R.PIN_VREG, 31, 31⟩
def PIN_VREG_PG_EN : Field := ⟨R.PIN_VREG, 30, 30⟩
def PIN_VREG_PG_GPIO : Field := ⟨R.PIN_VREG, 29, 26⟩
def PIN_VREG_KIND : Field := ⟨R.PIN_VREG, 25, 24⟩
def PIN_VREG_ADDR : Field := ⟨R.PIN_VREG, 23, 17⟩
def PIN_VREG_VOUT : Field := ⟨R.PIN_VREG, 15, 0⟩
def GPIO_CFG_FILT : Field := ⟨R.GPIO_CFG, 8, 8⟩
def GPIO_CFG_OD : Field := ⟨R.GPIO_CFG, 7, 7⟩
def GPIO_CFG_PULL : Field := ⟨R.GPIO_CFG, 6, 5⟩
def GPIO_CFG_DRIVE : Field := ⟨R.GPIO_CFG, 4, 3⟩
def GPIO_CFG_FUNC : Field := ⟨R.GPIO_CFG, 1, 0⟩
def GPIO_OUT_OUT : Field := ⟨R.GPIO_OUT, 15, 0⟩
def PIN_DRIVE_MLV_SWING : Field := ⟨R.PIN_DRIVE, 5, 4⟩
def PIN_DRIVE_XSPI : Field := ⟨R.PIN_DRIVE, 3, 2⟩
def PIN_DRIVE_GATE : Field := ⟨R.PIN_DRIVE, 1, 0⟩
def FSEQ_INT_EN_INPUT_LOSS : Field := ⟨R.FSEQ_INT_EN, 4, 4⟩
def FSEQ_INT_EN_LADDER_DROP : Field := ⟨R.FSEQ_INT_EN, 3, 3⟩
def FSEQ_INT_EN_COMMIT_APPLIED : Field := ⟨R.FSEQ_INT_EN, 2, 2⟩
def FSEQ_INT_EN_PREFETCH : Field := ⟨R.FSEQ_INT_EN, 1, 1⟩
def FSEQ_INT_EN_LATCH : Field := ⟨R.FSEQ_INT_EN, 0, 0⟩
def RX_INT_EN_SPLIT_SKEW : Field := ⟨R.RX_INT_EN, 19, 19⟩
def RX_INT_EN_STANDBY_REFUSE : Field := ⟨R.RX_INT_EN, 18, 18⟩
def RX_INT_EN_STANDBY_LOSS : Field := ⟨R.RX_INT_EN, 17, 17⟩
def RX_INT_EN_TAKEOVER : Field := ⟨R.RX_INT_EN, 16, 16⟩
def RX_INT_EN_MB_OVERRUN : Field := ⟨R.RX_INT_EN, 15, 14⟩
def RX_INT_EN_MB_DOORBELL : Field := ⟨R.RX_INT_EN, 13, 12⟩
def RX_INT_EN_PR_ENTRY : Field := ⟨R.RX_INT_EN, 11, 10⟩
def RX_INT_EN_ALPM_WAKE : Field := ⟨R.RX_INT_EN, 9, 8⟩
def RX_INT_EN_DSC_ERROR : Field := ⟨R.RX_INT_EN, 7, 6⟩
def RX_INT_EN_MSA_MISMATCH : Field := ⟨R.RX_INT_EN, 5, 4⟩
def RX_INT_EN_LINK_DOWN : Field := ⟨R.RX_INT_EN, 3, 2⟩
def RX_INT_EN_LINK_UP : Field := ⟨R.RX_INT_EN, 1, 0⟩
def SCAN_INT_EN_RETIRE : Field := ⟨R.SCAN_INT_EN, 23, 16⟩
def SCAN_INT_EN_RING_DROP : Field := ⟨R.SCAN_INT_EN, 7, 7⟩
def SCAN_INT_EN_CFG_TIMING : Field := ⟨R.SCAN_INT_EN, 6, 6⟩
def SCAN_INT_EN_CFG_LAYER : Field := ⟨R.SCAN_INT_EN, 5, 5⟩
def SCAN_INT_EN_GUARD_EXPIRE : Field := ⟨R.SCAN_INT_EN, 4, 4⟩
def SCAN_INT_EN_UNDERRUN : Field := ⟨R.SCAN_INT_EN, 3, 3⟩
def SCAN_INT_EN_FRAME_DONE : Field := ⟨R.SCAN_INT_EN, 2, 2⟩
def SCAN_INT_EN_LINE_MATCH : Field := ⟨R.SCAN_INT_EN, 1, 1⟩
def SCAN_INT_EN_SOB : Field := ⟨R.SCAN_INT_EN, 0, 0⟩
def LAYER_BASE_C_BASE : Field := ⟨R.LAYER_BASE_C, 31, 0⟩
def LAYER_BASE_V_BASE : Field := ⟨R.LAYER_BASE_V, 31, 0⟩
def LAYER_POS_DST_Y : Field := ⟨R.LAYER_POS, 28, 16⟩
def LAYER_POS_DST_X : Field := ⟨R.LAYER_POS, 13, 0⟩
def LAYER_SRC_OFF_SRC_Y : Field := ⟨R.LAYER_SRC_OFF, 28, 16⟩
def LAYER_SRC_OFF_SRC_X : Field := ⟨R.LAYER_SRC_OFF, 13, 0⟩
def DEMURA_ANCHOR_HI_A2 : Field := ⟨R.DEMURA_ANCHOR_HI, 11, 0⟩
def CORR_INT_EN_CFG_CORR : Field := ⟨R.CORR_INT_EN, 4, 4⟩
def CORR_INT_EN_LUT_IN_USE : Field := ⟨R.CORR_INT_EN, 3, 3⟩
def CORR_INT_EN_DEMURA_ERR : Field := ⟨R.CORR_INT_EN, 2, 2⟩
def CORR_INT_EN_CLIP : Field := ⟨R.CORR_INT_EN, 1, 1⟩
def CORR_INT_EN_STAT_READY : Field := ⟨R.CORR_INT_EN, 0, 0⟩
def DEMURA_ERR_STATUS_COUNT : Field := ⟨R.DEMURA_ERR_STATUS, 31, 16⟩
def DEMURA_ERR_STATUS_PLANE : Field := ⟨R.DEMURA_ERR_STATUS, 15, 14⟩
def DEMURA_ERR_STATUS_LINE : Field := ⟨R.DEMURA_ERR_STATUS, 12, 0⟩
def OD_TEMP_HI_T3 : Field := ⟨R.OD_TEMP_HI, 31, 16⟩
def OD_TEMP_HI_T2 : Field := ⟨R.OD_TEMP_HI, 15, 0⟩
def HIST_PITCH_PITCH : Field := ⟨R.HIST_PITCH, 15, 0⟩
def DRIVE_LIMIT_B_BLUE : Field := ⟨R.DRIVE_LIMIT_B, 11, 0⟩
def DRIVE_POLICY_B_BLUE : Field := ⟨R.DRIVE_POLICY_B, 11, 0⟩
def SAFE_COLOR_B_BLUE : Field := ⟨R.SAFE_COLOR_B, 11, 0⟩
def DRV_MAP_EN : Field := ⟨R.DRV_MAP, 31, 31⟩
def DRV_MAP_REV : Field := ⟨R.DRV_MAP, 30, 30⟩
def DRV_MAP_START_X : Field := ⟨R.DRV_MAP, 13, 0⟩
def DRIVE_INT_EN_SEED : Field := ⟨R.DRIVE_INT_EN, 4, 4⟩
def DRIVE_INT_EN_DRIVE_CLAMP : Field := ⟨R.DRIVE_INT_EN, 3, 3⟩
def DRIVE_INT_EN_HIST_ERR : Field := ⟨R.DRIVE_INT_EN, 2, 2⟩
def DRIVE_INT_EN_OD_IN_USE : Field := ⟨R.DRIVE_INT_EN, 1, 1⟩
def DRIVE_INT_EN_CFG_DRIVE : Field := ⟨R.DRIVE_INT_EN, 0, 0⟩
def HIST_ERR_COUNT_COUNT : Field := ⟨R.HIST_ERR_COUNT, 31, 0⟩
def DRIVE_CLAMP_COUNT_COUNT : Field := ⟨R.DRIVE_CLAMP_COUNT, 31, 0⟩
def COL_PRESENT_HI_LANES : Field := ⟨R.COL_PRESENT_HI, 15, 0⟩
def COL_FAILED_LO_LANES : Field := ⟨R.COL_FAILED_LO, 31, 0⟩
def COL_FAILED_HI_LANES : Field := ⟨R.COL_FAILED_HI, 15, 0⟩
def COL_LANE_TEST_DELAY : Field := ⟨R.COL_LANE_TEST, 13, 8⟩
def COL_LANE_TEST_SWING : Field := ⟨R.COL_LANE_TEST, 5, 4⟩
def COL_LANE_TEST_DEEMPH : Field := ⟨R.COL_LANE_TEST, 1, 0⟩
def COL_INT_EN_LANE_RETURN : Field := ⟨R.COL_INT_EN, 6, 6⟩
def COL_INT_EN_RELOCK_DONE : Field := ⟨R.COL_INT_EN, 5, 5⟩
def COL_INT_EN_CFG_PANEL : Field := ⟨R.COL_INT_EN, 4, 4⟩
def COL_INT_EN_CRC_PULSE : Field := ⟨R.COL_INT_EN, 3, 3⟩
def COL_INT_EN_LANE_FAIL : Field := ⟨R.COL_INT_EN, 2, 2⟩
def COL_INT_EN_LOCK_LOSS : Field := ⟨R.COL_INT_EN, 1, 1⟩
def COL_INT_EN_TRAIN_DONE : Field := ⟨R.COL_INT_EN, 0, 0⟩
def COL_CRC_PULSES_COUNT : Field := ⟨R.COL_CRC_PULSES, 31, 0⟩
def COL_TEST_PULSES_COUNT : Field := ⟨R.COL_TEST_PULSES, 31, 0⟩
def COL_CTLPKT_LANES_LO_LANES : Field := ⟨R.COL_CTLPKT_LANES_LO, 31, 0⟩
def COL_CTLPKT_LANES_HI_LANES : Field := ⟨R.COL_CTLPKT_LANES_HI, 15, 0⟩
def COL_CTLPKT_DATA_DATA : Field := ⟨R.COL_CTLPKT_DATA, 31, 0⟩
def GATE_SHIFT_SHIFT : Field := ⟨R.GATE_SHIFT, 15, 0⟩
def GATE_GRST_WIDTH : Field := ⟨R.GATE_GRST, 31, 16⟩
def GATE_GRST_OFFSET : Field := ⟨R.GATE_GRST, 15, 0⟩
def PSEQ_OFF_ACT : Field := ⟨R.PSEQ_OFF, 31, 28⟩
def PSEQ_OFF_GPIO : Field := ⟨R.PSEQ_OFF, 27, 24⟩
def PSEQ_OFF_DELAY : Field := ⟨R.PSEQ_OFF, 23, 0⟩
def PSEQ_PF_ACT : Field := ⟨R.PSEQ_PF, 31, 28⟩
def PSEQ_PF_GPIO : Field := ⟨R.PSEQ_PF, 27, 24⟩
def PSEQ_PF_DELAY : Field := ⟨R.PSEQ_PF, 23, 0⟩
def PSEQ_CMD_CMD : Field := ⟨R.PSEQ_CMD, 31, 0⟩
def PSEQ_EVENT_SEQ_DONE : Field := ⟨R.PSEQ_EVENT, 2, 2⟩
def PSEQ_EVENT_PFAIL : Field := ⟨R.PSEQ_EVENT, 1, 1⟩
def PSEQ_EVENT_PANEL_PWR_FAIL : Field := ⟨R.PSEQ_EVENT, 0, 0⟩
def CODEC_Q_TAIL_TAIL : Field := ⟨R.CODEC_Q_TAIL, 7, 0⟩
def CODEC_Q_HEAD_HEAD : Field := ⟨R.CODEC_Q_HEAD, 7, 0⟩
def CODEC_INT_EN_STREAM_REFUSED : Field := ⟨R.CODEC_INT_EN, 5, 5⟩
def CODEC_INT_EN_OUT_FULL : Field := ⟨R.CODEC_INT_EN, 4, 4⟩
def CODEC_INT_EN_DESC_DONE : Field := ⟨R.CODEC_INT_EN, 3, 3⟩
def CODEC_INT_EN_BLOCK_CHECK : Field := ⟨R.CODEC_INT_EN, 2, 2⟩
def CODEC_INT_EN_BOUND_FAIL : Field := ⟨R.CODEC_INT_EN, 1, 1⟩
def CODEC_INT_EN_VERIFY_MISMATCH : Field := ⟨R.CODEC_INT_EN, 0, 0⟩
def BOUND_FAIL_COUNT_COUNT : Field := ⟨R.BOUND_FAIL_COUNT, 31, 0⟩
def BLOCK_CHECK_COUNT_COUNT : Field := ⟨R.BLOCK_CHECK_COUNT, 31, 0⟩
def SUBST_BG_COUNT_COUNT : Field := ⟨R.SUBST_BG_COUNT, 31, 0⟩
def FALLOW_LEN_BASE_BASE : Field := ⟨R.FALLOW_LEN_BASE, 19, 0⟩
def PLACARD_LEN_BASE_BASE : Field := ⟨R.PLACARD_LEN_BASE, 19, 0⟩
def STREAM_WIN_BASE_BASE : Field := ⟨R.STREAM_WIN_BASE, 19, 0⟩
def PLACARD_BASE_BASE : Field := ⟨R.PLACARD_BASE, 31, 0⟩
def FP_PITCH_PITCH : Field := ⟨R.FP_PITCH, 15, 0⟩
def FP_STATUS_PLACARD_VALID : Field := ⟨R.FP_STATUS, 0, 0⟩
def ZONES_UNASSIGNED_COUNT : Field := ⟨R.ZONES_UNASSIGNED, 12, 0⟩
def SCHED_INT_EN_ECC_CORR : Field := ⟨R.SCHED_INT_EN, 9, 9⟩
def SCHED_INT_EN_CFG_JOB : Field := ⟨R.SCHED_INT_EN, 8, 8⟩
def SCHED_INT_EN_IMEM_DONE : Field := ⟨R.SCHED_INT_EN, 7, 7⟩
def SCHED_INT_EN_SPARE_SHORT : Field := ⟨R.SCHED_INT_EN, 6, 6⟩
def SCHED_INT_EN_DALE_SPARED : Field := ⟨R.SCHED_INT_EN, 5, 5⟩
def SCHED_INT_EN_JOB_SKIP : Field := ⟨R.SCHED_INT_EN, 4, 4⟩
def SCHED_INT_EN_OVER_QUOTA : Field := ⟨R.SCHED_INT_EN, 3, 3⟩
def SCHED_INT_EN_JOB_OVERRUN : Field := ⟨R.SCHED_INT_EN, 2, 2⟩
def SCHED_INT_EN_JOB_FAULT : Field := ⟨R.SCHED_INT_EN, 1, 1⟩
def SCHED_INT_EN_JOB_LATE : Field := ⟨R.SCHED_INT_EN, 0, 0⟩
def JOB_ENTRY_ENTRY : Field := ⟨R.JOB_ENTRY, 13, 0⟩
def JOB_ZONES_LAST : Field := ⟨R.JOB_ZONES, 27, 16⟩
def JOB_ZONES_FIRST : Field := ⟨R.JOB_ZONES, 11, 0⟩
def JOB_WMASK_LO_MASK : Field := ⟨R.JOB_WMASK_LO, 31, 0⟩
def JOB_WMASK_HI_MASK : Field := ⟨R.JOB_WMASK_HI, 31, 0⟩
def JOB_CAP_CYCLES : Field := ⟨R.JOB_CAP, 31, 0⟩
def JOB_USED_COUNT : Field := ⟨R.JOB_USED, 31, 0⟩
def JOB_LAST_USED_COUNT : Field := ⟨R.JOB_LAST_USED, 31, 0⟩
def JOB_LATE_COUNT_COUNT : Field := ⟨R.JOB_LATE_COUNT, 31, 0⟩
def JOB_FAULT_COUNT_COUNT : Field := ⟨R.JOB_FAULT_COUNT, 31, 0⟩
def JOB_SKIP_COUNT_COUNT : Field := ⟨R.JOB_SKIP_COUNT, 31, 0⟩
def JOB_DONE_COUNT_COUNT : Field := ⟨R.JOB_DONE_COUNT, 31, 0⟩
def ZONE_SEL_SEL3 : Field := ⟨R.ZONE_SEL, 31, 24⟩
def ZONE_SEL_SEL2 : Field := ⟨R.ZONE_SEL, 23, 16⟩
def ZONE_SEL_SEL1 : Field := ⟨R.ZONE_SEL, 15, 8⟩
def ZONE_SEL_SEL0 : Field := ⟨R.ZONE_SEL, 7, 0⟩
def BL_MON_PRED : Field := ⟨R.BL_MON, 31, 16⟩
def BL_MON_MEAS : Field := ⟨R.BL_MON, 15, 0⟩
def BL_DIE_DIE_POWER : Field := ⟨R.BL_DIE, 31, 16⟩
def BL_DIE_TEMP : Field := ⟨R.BL_DIE, 7, 0⟩
def BL_INT_EN_CFG_BL : Field := ⟨R.BL_INT_EN, 13, 13⟩
def BL_INT_EN_ZB_IC_FAULT : Field := ⟨R.BL_INT_EN, 12, 12⟩
def BL_INT_EN_ZB_DESYNC : Field := ⟨R.BL_INT_EN, 11, 11⟩
def BL_INT_EN_ZB_ENUM_SHORT : Field := ⟨R.BL_INT_EN, 10, 10⟩
def BL_INT_EN_ZB_REPLUG : Field := ⟨R.BL_INT_EN, 9, 9⟩
def BL_INT_EN_ZB_RING_DOWN : Field := ⟨R.BL_INT_EN, 8, 8⟩
def BL_INT_EN_PIN_SHORT : Field := ⟨R.BL_INT_EN, 7, 7⟩
def BL_INT_EN_LED_SHORT : Field := ⟨R.BL_INT_EN, 6, 6⟩
def BL_INT_EN_OPEN : Field := ⟨R.BL_INT_EN, 5, 5⟩
def BL_INT_EN_BOOST_OC : Field := ⟨R.BL_INT_EN, 4, 4⟩
def BL_INT_EN_BOOST_OV : Field := ⟨R.BL_INT_EN, 3, 3⟩
def BL_INT_EN_BL_OT : Field := ⟨R.BL_INT_EN, 2, 2⟩
def BL_INT_EN_BL_SCALE : Field := ⟨R.BL_INT_EN, 1, 1⟩
def BL_INT_EN_BL_LATE : Field := ⟨R.BL_INT_EN, 0, 0⟩
def BL_LATE_COUNT_COUNT : Field := ⟨R.BL_LATE_COUNT, 31, 0⟩
def ZB_ERR_COUNT_COUNT : Field := ⟨R.ZB_ERR_COUNT, 31, 0⟩
def BOOST_STATUS_TARGET : Field := ⟨R.BOOST_STATUS, 31, 16⟩
def BOOST_STATUS_V_OUT : Field := ⟨R.BOOST_STATUS, 15, 0⟩
def BOOST_FAULT_NEEDIEST : Field := ⟨R.BOOST_FAULT, 31, 24⟩
def BOOST_FAULT_LATCHED : Field := ⟨R.BOOST_FAULT, 2, 2⟩
def BOOST_FAULT_OC : Field := ⟨R.BOOST_FAULT, 1, 1⟩
def BOOST_FAULT_OV : Field := ⟨R.BOOST_FAULT, 0, 0⟩
def SINK_STATUS_NEED : Field := ⟨R.SINK_STATUS, 31, 16⟩
def SINK_STATUS_DIAG_STALE : Field := ⟨R.SINK_STATUS, 5, 5⟩
def SINK_STATUS_PIN_STALE : Field := ⟨R.SINK_STATUS, 4, 4⟩
def SINK_STATUS_PIN_SHORT : Field := ⟨R.SINK_STATUS, 3, 3⟩
def SINK_STATUS_LED_SHORT : Field := ⟨R.SINK_STATUS, 2, 2⟩
def SINK_STATUS_OPEN : Field := ⟨R.SINK_STATUS, 1, 1⟩
def SINK_STATUS_OFF : Field := ⟨R.SINK_STATUS, 0, 0⟩
def ZB_MAP_EN : Field := ⟨R.ZB_MAP, 31, 31⟩
def ZB_MAP_BOOST : Field := ⟨R.ZB_MAP, 27, 24⟩
def ZB_MAP_BASE : Field := ⟨R.ZB_MAP, 23, 12⟩
def ZB_MAP_IFS : Field := ⟨R.ZB_MAP, 7, 0⟩
def ZB_IC_STATUS_NEED : Field := ⟨R.ZB_IC_STATUS, 31, 16⟩
def ZB_IC_STATUS_FLAGS : Field := ⟨R.ZB_IC_STATUS, 15, 8⟩
def ZB_IC_STATUS_FCH : Field := ⟨R.ZB_IC_STATUS, 7, 0⟩
def ZB_CTRL_ENUM : Field := ⟨R.ZB_CTRL, 31, 31⟩
def ZB_CTRL_EXPECT : Field := ⟨R.ZB_CTRL, 20, 16⟩
def ZB_STATUS_RING_UP : Field := ⟨R.ZB_STATUS, 31, 31⟩
def ZB_STATUS_FOUND : Field := ⟨R.ZB_STATUS, 20, 16⟩
def ZB_PRESENT_ICS : Field := ⟨R.ZB_PRESENT, 30, 0⟩
def CAL_INT_EN_CAL_STORE : Field := ⟨R.CAL_INT_EN, 3, 3⟩
def CAL_INT_EN_CAL_FIT_READY : Field := ⟨R.CAL_INT_EN, 2, 2⟩
def CAL_INT_EN_CAL_FAULT : Field := ⟨R.CAL_INT_EN, 1, 1⟩
def CAL_INT_EN_CAL_REJECT : Field := ⟨R.CAL_INT_EN, 0, 0⟩
def CAL_FW_REPORT_CONSEC : Field := ⟨R.CAL_FW_REPORT, 31, 24⟩
def CAL_FW_REPORT_REASON : Field := ⟨R.CAL_FW_REPORT, 23, 20⟩
def CAL_FW_REPORT_CALIB : Field := ⟨R.CAL_FW_REPORT, 19, 17⟩
def CAL_FW_REPORT_INSTANCE : Field := ⟨R.CAL_FW_REPORT, 11, 0⟩
def SG_CAND_GAIN : Field := ⟨R.SG_CAND, 31, 16⟩
def SG_CAND_IC_GAIN : Field := ⟨R.SG_CAND_IC, 31, 16⟩
def SG_COMMIT_GO : Field := ⟨R.SG_COMMIT, 31, 31⟩
def SG_COMMIT_BOOST : Field := ⟨R.SG_COMMIT, 3, 0⟩
def ETA_ETA : Field := ⟨R.ETA, 15, 0⟩
def DRAM_T_HI_T : Field := ⟨R.DRAM_T_HI, 15, 0⟩
def LS_INT_EN_LS_BANK_OFF : Field := ⟨R.LS_INT_EN, 6, 6⟩
def LS_INT_EN_LS_TEST_SKIP : Field := ⟨R.LS_INT_EN, 5, 5⟩
def LS_INT_EN_LS_TEST_FAIL : Field := ⟨R.LS_INT_EN, 4, 4⟩
def LS_INT_EN_LS_COLLIDE : Field := ⟨R.LS_INT_EN, 3, 3⟩
def LS_INT_EN_LS_UNCORR : Field := ⟨R.LS_INT_EN, 2, 2⟩
def LS_INT_EN_LS_CORR : Field := ⟨R.LS_INT_EN, 1, 1⟩
def LS_INT_EN_RET_FAIL : Field := ⟨R.LS_INT_EN, 0, 0⟩
def LS_CORR_COUNT_COUNT : Field := ⟨R.LS_CORR_COUNT, 31, 0⟩
def LS_TEST_FAIL_COUNT_COUNT : Field := ⟨R.LS_TEST_FAIL_COUNT, 31, 0⟩
def LS_TEST_SKIP_COUNT_COUNT : Field := ⟨R.LS_TEST_SKIP_COUNT, 31, 0⟩
def LS_TEST_STATUS_WORD : Field := ⟨R.LS_TEST_STATUS, 19, 0⟩
def LS_COLLIDE_STATUS_PORT : Field := ⟨R.LS_COLLIDE_STATUS, 31, 28⟩
def LS_COLLIDE_STATUS_WORD : Field := ⟨R.LS_COLLIDE_STATUS, 19, 0⟩
def LS_PORT_CONFLICT_COUNT : Field := ⟨R.LS_PORT_CONFLICT, 31, 0⟩
def LS_PORT_COLLIDE_COUNT : Field := ⟨R.LS_PORT_COLLIDE, 31, 0⟩
def LS_RET_SIG_SIG : Field := ⟨R.LS_RET_SIG, 31, 0⟩
def LS_EVENT_INFO_RET_BANK : Field := ⟨R.LS_EVENT_INFO, 5, 0⟩
def GDMA_Q_TAIL_TAIL : Field := ⟨R.GDMA_Q_TAIL, 7, 0⟩
def GDMA_Q_HEAD_HEAD : Field := ⟨R.GDMA_Q_HEAD, 7, 0⟩
def GDMA_EVENT_GDMA_ERR : Field := ⟨R.GDMA_EVENT, 1, 1⟩
def GDMA_EVENT_GDMA_DONE : Field := ⟨R.GDMA_EVENT, 0, 0⟩
def GDMA_INT_EN_GDMA_ERR : Field := ⟨R.GDMA_INT_EN, 1, 1⟩
def GDMA_INT_EN_GDMA_DONE : Field := ⟨R.GDMA_INT_EN, 0, 0⟩
def GDMA_STATUS_BUSY : Field := ⟨R.GDMA_STATUS, 3, 0⟩
def DRAM_REGION_LIMIT_LIMIT : Field := ⟨R.DRAM_REGION_LIMIT, 12, 0⟩
def DRAM_INT_EN_DRAM_OVERTEMP : Field := ⟨R.DRAM_INT_EN, 11, 11⟩
def DRAM_INT_EN_SEG_CLEAR_DONE : Field := ⟨R.DRAM_INT_EN, 10, 10⟩
def DRAM_INT_EN_DRAM_SEG_LOST : Field := ⟨R.DRAM_INT_EN, 9, 9⟩
def DRAM_INT_EN_DRAM_TRAIN_FAIL : Field := ⟨R.DRAM_INT_EN, 8, 8⟩
def DRAM_INT_EN_DRAM_HAMMER : Field := ⟨R.DRAM_INT_EN, 7, 7⟩
def DRAM_INT_EN_QUOTA_HOLD : Field := ⟨R.DRAM_INT_EN, 6, 6⟩
def DRAM_INT_EN_DRAM_PANIC : Field := ⟨R.DRAM_INT_EN, 5, 5⟩
def DRAM_INT_EN_DRAM_CATCHUP : Field := ⟨R.DRAM_INT_EN, 4, 4⟩
def DRAM_INT_EN_DRAM_REF_RATE : Field := ⟨R.DRAM_INT_EN, 3, 3⟩
def DRAM_INT_EN_DRAM_UE : Field := ⟨R.DRAM_INT_EN, 1, 1⟩
def DRAM_INT_EN_DRAM_CE : Field := ⟨R.DRAM_INT_EN, 0, 0⟩
def DRAM_CE_COUNT_COUNT : Field := ⟨R.DRAM_CE_COUNT, 31, 0⟩
def DRAM_UE_COUNT_COUNT : Field := ⟨R.DRAM_UE_COUNT, 31, 0⟩
def DRAM_RFM_COUNT_COUNT : Field := ⟨R.DRAM_RFM_COUNT, 31, 0⟩
def DRAM_HAMMER_STATUS_CH : Field := ⟨R.DRAM_HAMMER_STATUS, 31, 29⟩
def DRAM_HAMMER_STATUS_BANK : Field := ⟨R.DRAM_HAMMER_STATUS, 27, 24⟩
def DRAM_HAMMER_STATUS_PORT : Field := ⟨R.DRAM_HAMMER_STATUS, 23, 20⟩
def DRAM_HAMMER_STATUS_ROW : Field := ⟨R.DRAM_HAMMER_STATUS, 14, 0⟩
def DRQ_STATUS_USE : Field := ⟨R.DRQ_STATUS, 31, 16⟩
def DRQ_STATUS_OVER_QUOTA : Field := ⟨R.DRQ_STATUS, 1, 1⟩
def DRQ_STATUS_PANIC : Field := ⟨R.DRQ_STATUS, 0, 0⟩
def DRQ_UE_COUNT_COUNT : Field := ⟨R.DRQ_UE_COUNT, 31, 0⟩
def DRAM_SEG_CLEAR_SEG : Field := ⟨R.DRAM_SEG_CLEAR, 7, 0⟩
def WALL_ADDR_REQ_ADDR : Field := ⟨R.WALL_ADDR, 25, 16⟩
def WALL_ADDR_VALID : Field := ⟨R.WALL_ADDR, 15, 15⟩
def WALL_ADDR_ADDR : Field := ⟨R.WALL_ADDR, 9, 0⟩
def WALL_REMOVE_ADDR : Field := ⟨R.WALL_REMOVE, 9, 0⟩
def WALL_MEMBERS_COUNT : Field := ⟨R.WALL_MEMBERS, 10, 0⟩
def WALL_OFFSET_OFFSET : Field := ⟨R.WALL_OFFSET, 31, 0⟩
def WALL_TIME_LO_TIME : Field := ⟨R.WALL_TIME_LO, 31, 0⟩
def WALL_TIME_HI_TIME : Field := ⟨R.WALL_TIME_HI, 31, 0⟩
def WALL_JOIN_INFO_REFUSED : Field := ⟨R.WALL_JOIN_INFO, 31, 31⟩
def WALL_JOIN_INFO_ADDR : Field := ⟨R.WALL_JOIN_INFO, 9, 0⟩
def WALL_DROP_COUNT_COUNT : Field := ⟨R.WALL_DROP_COUNT, 31, 0⟩
def DELAY_ADJ_ADJ : Field := ⟨R.DELAY_ADJ, 15, 0⟩
def WALL_PORT_ERR_COUNT : Field := ⟨R.WALL_PORT_ERR, 31, 0⟩
def EQX_F_F : Field := ⟨R.EQX_F, 31, 0⟩
def EQX_LEN_LEN : Field := ⟨R.EQX_LEN, 8, 0⟩
def EQX_BUF_BASE : Field := ⟨R.EQX_BUF, 19, 0⟩
def EQX_ACK_REASON : Field := ⟨R.EQX_ACK, 15, 8⟩
def EQX_ACK_NAK : Field := ⟨R.EQX_ACK, 1, 1⟩
def EQX_ACK_ACK : Field := ⟨R.EQX_ACK, 0, 0⟩
def EQX_RESULT_OUTCOME : Field := ⟨R.EQX_RESULT, 31, 28⟩
def EQX_RESULT_SET : Field := ⟨R.EQX_RESULT, 15, 0⟩
def NOTICE_SRC_SRC : Field := ⟨R.NOTICE_SRC, 31, 0⟩
def NOTICE_LEN_LEN : Field := ⟨R.NOTICE_LEN, 31, 0⟩
def NOTICE_STAGE_BASE : Field := ⟨R.NOTICE_STAGE, 31, 0⟩
def NOTICE_BASE_BASE : Field := ⟨R.NOTICE_BASE, 31, 0⟩
def NOTICE_STAGE_SIZE_MIB : Field := ⟨R.NOTICE_STAGE_SIZE, 9, 0⟩
def NOTICE_PLANE_SIZE_MIB : Field := ⟨R.NOTICE_PLANE_SIZE, 9, 0⟩
def NOTICE_STATUS_STATE : Field := ⟨R.NOTICE_STATUS, 31, 28⟩
def NOTICE_STATUS_ERR : Field := ⟨R.NOTICE_STATUS, 27, 24⟩
def NOTICE_STATUS_LIVE_PLANE : Field := ⟨R.NOTICE_STATUS, 20, 20⟩
def NOTICE_STATUS_ID : Field := ⟨R.NOTICE_STATUS, 15, 0⟩
def WALL_POS_X_PX : Field := ⟨R.WALL_POS_X, 23, 0⟩
def WALL_POS_Y_PY : Field := ⟨R.WALL_POS_Y, 23, 0⟩
def WALL_INT_EN_WALL_LAG : Field := ⟨R.WALL_INT_EN, 19, 19⟩
def WALL_INT_EN_WALL_MSG : Field := ⟨R.WALL_INT_EN, 18, 18⟩
def WALL_INT_EN_NOTICE_ERR : Field := ⟨R.WALL_INT_EN, 17, 17⟩
def WALL_INT_EN_NOTICE_READY : Field := ⟨R.WALL_INT_EN, 16, 16⟩
def WALL_INT_EN_EQX_BUSY : Field := ⟨R.WALL_INT_EN, 15, 15⟩
def WALL_INT_EN_EQX_ABORT : Field := ⟨R.WALL_INT_EN, 14, 14⟩
def WALL_INT_EN_LATE : Field := ⟨R.WALL_INT_EN, 13, 13⟩
def WALL_INT_EN_EQX_APPLIED : Field := ⟨R.WALL_INT_EN, 12, 12⟩
def WALL_INT_EN_EQX_PREPARE : Field := ⟨R.WALL_INT_EN, 11, 11⟩
def WALL_INT_EN_WALL_TIMING : Field := ⟨R.WALL_INT_EN, 10, 10⟩
def WALL_INT_EN_WALL_FRAME_STEP : Field := ⟨R.WALL_INT_EN, 9, 9⟩
def WALL_INT_EN_WALL_DUAL : Field := ⟨R.WALL_INT_EN, 8, 8⟩
def WALL_INT_EN_WALL_DEPTH : Field := ⟨R.WALL_INT_EN, 7, 7⟩
def WALL_INT_EN_WALL_YIELD : Field := ⟨R.WALL_INT_EN, 6, 6⟩
def WALL_INT_EN_WALL_ALMANAC : Field := ⟨R.WALL_INT_EN, 5, 5⟩
def WALL_INT_EN_WALL_HOLDOVER : Field := ⟨R.WALL_INT_EN, 4, 4⟩
def WALL_INT_EN_WALL_LOCK : Field := ⟨R.WALL_INT_EN, 3, 3⟩
def WALL_INT_EN_WALL_JOIN : Field := ⟨R.WALL_INT_EN, 2, 2⟩
def WALL_INT_EN_WALL_LINK_DOWN : Field := ⟨R.WALL_INT_EN, 1, 1⟩
def WALL_INT_EN_WALL_LINK_UP : Field := ⟨R.WALL_INT_EN, 0, 0⟩
def WALL_LAG_MEMBER : Field := ⟨R.WALL_LAG, 31, 0⟩
def WAKE_PENDING_SRC : Field := ⟨R.WAKE_PENDING, 14, 1⟩
def LAST_WAKE_SEC_SEC : Field := ⟨R.LAST_WAKE_SEC, 31, 0⟩
def LAST_WAKE_SUB_SUB : Field := ⟨R.LAST_WAKE_SUB, 14, 0⟩
def CAL_SEC_SEC : Field := ⟨R.CAL_SEC, 31, 0⟩
def CAL_SUB_SUB : Field := ⟨R.CAL_SUB, 14, 0⟩
def KEEP_LS_HI_BANKS : Field := ⟨R.KEEP_LS_HI, 31, 0⟩
def KEEP_PASR_LO_SEGS : Field := ⟨R.KEEP_PASR_LO, 31, 0⟩
def KEEP_PASR_HI_SEGS : Field := ⟨R.KEEP_PASR_HI, 31, 0⟩
def VIGIL_AMB_AMB_HI : Field := ⟨R.VIGIL_AMB, 31, 16⟩
def VIGIL_AMB_AMB_LO : Field := ⟨R.VIGIL_AMB, 15, 0⟩
def VIGIL_LAST_PANEL : Field := ⟨R.VIGIL_LAST, 31, 24⟩
def VIGIL_LAST_DIE : Field := ⟨R.VIGIL_LAST, 23, 16⟩
def VIGIL_LAST_AMB : Field := ⟨R.VIGIL_LAST, 15, 0⟩
def PWR_INT_EN_STATE_REQ : Field := ⟨R.PWR_INT_EN, 7, 7⟩
def PWR_INT_EN_VREG_FAIL : Field := ⟨R.PWR_INT_EN, 6, 6⟩
def PWR_INT_EN_DOM_REFUSE : Field := ⟨R.PWR_INT_EN, 5, 5⟩
def PWR_INT_EN_PWR_REFUSE : Field := ⟨R.PWR_INT_EN, 4, 4⟩
def PWR_INT_EN_FALLOW_EXIT : Field := ⟨R.PWR_INT_EN, 3, 3⟩
def PWR_INT_EN_FALLOW_ENTER : Field := ⟨R.PWR_INT_EN, 2, 2⟩
def PWR_INT_EN_CAPTURE_DONE : Field := ⟨R.PWR_INT_EN, 1, 1⟩
def PWR_INT_EN_WAKE : Field := ⟨R.PWR_INT_EN, 0, 0⟩
def PIPE_CLK_FREQ : Field := ⟨R.PIPE_CLK, 19, 0⟩
def DOM_STATUS_WAKES : Field := ⟨R.DOM_STATUS, 31, 16⟩
def DOM_STATUS_STATE : Field := ⟨R.DOM_STATUS, 1, 0⟩
def NV_PAGE_PAGE : Field := ⟨R.NV_PAGE, 11, 0⟩
def NV_SRC_USE_LS : Field := ⟨R.NV_SRC, 31, 31⟩
def NV_SRC_ADDR : Field := ⟨R.NV_SRC, 19, 0⟩
def NV_INT_EN_NV_PF_RECORD : Field := ⟨R.NV_INT_EN, 7, 7⟩
def NV_INT_EN_NV_LOCKOUT : Field := ⟨R.NV_INT_EN, 6, 6⟩
def NV_INT_EN_NV_WEAK : Field := ⟨R.NV_INT_EN, 5, 5⟩
def NV_INT_EN_NV_JRNL_BAD : Field := ⟨R.NV_INT_EN, 4, 4⟩
def NV_INT_EN_NV_ROLLBACK : Field := ⟨R.NV_INT_EN, 3, 3⟩
def NV_INT_EN_NV_TIE : Field := ⟨R.NV_INT_EN, 2, 2⟩
def NV_INT_EN_NV_ERR : Field := ⟨R.NV_INT_EN, 1, 1⟩
def NV_INT_EN_NV_DONE : Field := ⟨R.NV_INT_EN, 0, 0⟩
def NV_RECOVERY_ACTION : Field := ⟨R.NV_RECOVERY, 31, 30⟩
def NV_RECOVERY_WEAK_PAGE : Field := ⟨R.NV_RECOVERY, 27, 16⟩
def NV_RECOVERY_PAGE : Field := ⟨R.NV_RECOVERY, 11, 0⟩
def NV_CAL_NEXT_SEQ : Field := ⟨R.NV_CAL_NEXT, 31, 0⟩
def NV_AGE_NEXT_SEQ : Field := ⟨R.NV_AGE_NEXT, 31, 0⟩
def NV_JRNL_COUNT_COUNT : Field := ⟨R.NV_JRNL_COUNT, 31, 0⟩
def NV_REFRESH_COUNT_COUNT : Field := ⟨R.NV_REFRESH_COUNT, 31, 0⟩
def BOOT_VERSION_VERSION : Field := ⟨R.BOOT_VERSION, 31, 0⟩
def BOOT_FAIL_INFO_INFO : Field := ⟨R.BOOT_FAIL_INFO, 31, 0⟩
def BOOT_INT_EN_BOOT_TIE : Field := ⟨R.BOOT_INT_EN, 1, 1⟩
def BOOT_INT_EN_BOOT_FALLBACK : Field := ⟨R.BOOT_INT_EN, 0, 0⟩
def KEY_FUSE_BITS : Field := ⟨R.KEY_FUSE, 31, 0⟩
def FUSE_STATUS_REQUIRE_SIG : Field := ⟨R.FUSE_STATUS, 0, 0⟩
def IRQ_MASK_BLOCK : Field := ⟨R.IRQ_MASK, 19, 0⟩
def DEVICE_UID_LO_UID : Field := ⟨R.DEVICE_UID_LO, 31, 0⟩
def DEVICE_UID_HI_UID : Field := ⟨R.DEVICE_UID_HI, 31, 0⟩
def CP_STATUS_RESTARTS : Field := ⟨R.CP_STATUS, 31, 16⟩
def CP_STATUS_HOLD : Field := ⟨R.CP_STATUS, 8, 8⟩
def CP_STATUS_CAUSE : Field := ⟨R.CP_STATUS, 3, 0⟩
def SYS_INT_EN_BUS_ERR : Field := ⟨R.SYS_INT_EN, 3, 3⟩
def SYS_INT_EN_SWAP_FAIL : Field := ⟨R.SYS_INT_EN, 2, 2⟩
def SYS_INT_EN_SWAPPED : Field := ⟨R.SYS_INT_EN, 1, 1⟩
def SYS_INT_EN_RESTART : Field := ⟨R.SYS_INT_EN, 0, 0⟩
def CP_BUS_ERR_ADDR : Field := ⟨R.CP_BUS_ERR, 31, 0⟩
def CP_BUS_ERR_COUNT_COUNT : Field := ⟨R.CP_BUS_ERR_COUNT, 31, 0⟩
def WDT_KICK_KICK : Field := ⟨R.WDT_KICK, 7, 0⟩
def CP_SWAP_SRC : Field := ⟨R.CP_SWAP, 31, 0⟩
def CP_SWAP_CTRL_GO : Field := ⟨R.CP_SWAP_CTRL, 31, 31⟩
def CP_SWAP_CTRL_SLOT : Field := ⟨R.CP_SWAP_CTRL, 0, 0⟩
def CP_SWAP_F_F : Field := ⟨R.CP_SWAP_F, 31, 0⟩
def MTIME_T : Field := ⟨R.MTIME, 31, 0⟩
def MTIMECMP_T : Field := ⟨R.MTIMECMP, 31, 0⟩
def MB_COMPLETE_MB : Field := ⟨R.MB_COMPLETE, 2, 0⟩
def MGMT_EVENT_I3C_DAA : Field := ⟨R.MGMT_EVENT, 2, 2⟩
def MGMT_EVENT_MGMT_OVERRUN : Field := ⟨R.MGMT_EVENT, 1, 1⟩
def MGMT_EVENT_MGMT_DOORBELL : Field := ⟨R.MGMT_EVENT, 0, 0⟩
def MGMT_INT_EN_I3C_DAA : Field := ⟨R.MGMT_INT_EN, 2, 2⟩
def MGMT_INT_EN_MGMT_OVERRUN : Field := ⟨R.MGMT_INT_EN, 1, 1⟩
def MGMT_INT_EN_MGMT_DOORBELL : Field := ⟨R.MGMT_INT_EN, 0, 0⟩
def HOST_EVENT_ALERT : Field := ⟨R.HOST_EVENT, 5, 5⟩
def HOST_EVENT_BOOT_DONE : Field := ⟨R.HOST_EVENT, 4, 4⟩
def HOST_EVENT_CP_HOLD : Field := ⟨R.HOST_EVENT, 3, 3⟩
def HOST_EVENT_CP_RESTART : Field := ⟨R.HOST_EVENT, 2, 2⟩
def HOST_EVENT_FW_NOTICE : Field := ⟨R.HOST_EVENT, 1, 1⟩
def HOST_EVENT_MB_DONE : Field := ⟨R.HOST_EVENT, 0, 0⟩
def HOST_EVENT_SET_ALERT : Field := ⟨R.HOST_EVENT_SET, 5, 5⟩
def HOST_EVENT_SET_FW_NOTICE : Field := ⟨R.HOST_EVENT_SET, 1, 1⟩
def HOST_INT_EN_EN : Field := ⟨R.HOST_INT_EN, 7, 0⟩
def XSPI_ADDR_ADDR : Field := ⟨R.XSPI_ADDR, 31, 0⟩
def XSPI_BUF_BUF : Field := ⟨R.XSPI_BUF, 19, 0⟩
def XSPI_LEN_LEN : Field := ⟨R.XSPI_LEN, 15, 0⟩
def LOG_ENTRY_BYTES : Field := ⟨R.LOG_ENTRY, 31, 0⟩
def LOG_POP_POP : Field := ⟨R.LOG_POP, 31, 0⟩
def LOG_WRITE_BYTES : Field := ⟨R.LOG_WRITE, 31, 0⟩
def LOG_PUSH_PUSH : Field := ⟨R.LOG_PUSH, 31, 0⟩
def PIN_COL_POL_HI_INV : Field := ⟨R.PIN_COL_POL_HI, 15, 0⟩
def PIN_WALL_POL_ZB_RX : Field := ⟨R.PIN_WALL_POL, 9, 9⟩
def PIN_WALL_POL_ZB_TX : Field := ⟨R.PIN_WALL_POL, 8, 8⟩
def PIN_WALL_POL_RX : Field := ⟨R.PIN_WALL_POL, 7, 4⟩
def PIN_WALL_POL_TX : Field := ⟨R.PIN_WALL_POL, 3, 0⟩
def GPIO_OE_OE : Field := ⟨R.GPIO_OE, 15, 0⟩
def GPIO_IN_IN : Field := ⟨R.GPIO_IN, 15, 0⟩

end F

/-- An event of Table 18.3: its EVENT register, its block number b, its lowest bit i, whether the field holds
one bit per index, and its severity (R439; 0 INFO, 1 WARN, 2 FAULT, 3 ALARM). -/
structure Event where
  reg : Reg
  block : Nat
  lo : Nat
  wide : Bool
  sev : Nat
  deriving DecidableEq, Repr

/-- The 16-bit event code 256 × b + i (Event catalogue, R440). -/
def Event.code (e : Event) : Nat := 256 * e.block + e.lo

namespace Ev

def INPUT_LOSS : Event := ⟨R.FSEQ_EVENT, 1, 4, false, 1⟩
def LADDER_DROP : Event := ⟨R.FSEQ_EVENT, 1, 3, false, 2⟩
def COMMIT_APPLIED : Event := ⟨R.FSEQ_EVENT, 1, 2, false, 0⟩
def PREFETCH : Event := ⟨R.FSEQ_EVENT, 1, 1, false, 0⟩
def LATCH : Event := ⟨R.FSEQ_EVENT, 1, 0, false, 0⟩
def SPLIT_SKEW : Event := ⟨R.RX_EVENT, 12, 19, false, 1⟩
def STANDBY_REFUSE : Event := ⟨R.RX_EVENT, 12, 18, false, 1⟩
def STANDBY_LOSS : Event := ⟨R.RX_EVENT, 12, 17, false, 1⟩
def TAKEOVER : Event := ⟨R.RX_EVENT, 12, 16, false, 1⟩
def MB_OVERRUN : Event := ⟨R.RX_EVENT, 12, 14, true, 1⟩
def MB_DOORBELL : Event := ⟨R.RX_EVENT, 12, 12, true, 0⟩
def PR_ENTRY : Event := ⟨R.RX_EVENT, 12, 10, true, 0⟩
def ALPM_WAKE : Event := ⟨R.RX_EVENT, 12, 8, true, 0⟩
def DSC_ERROR : Event := ⟨R.RX_EVENT, 12, 6, true, 1⟩
def MSA_MISMATCH : Event := ⟨R.RX_EVENT, 12, 4, true, 1⟩
def LINK_DOWN : Event := ⟨R.RX_EVENT, 12, 2, true, 1⟩
def LINK_UP : Event := ⟨R.RX_EVENT, 12, 0, true, 0⟩
def RETIRE : Event := ⟨R.SCAN_EVENT, 2, 16, true, 0⟩
def RING_DROP : Event := ⟨R.SCAN_EVENT, 2, 7, false, 0⟩
def CFG_TIMING : Event := ⟨R.SCAN_EVENT, 2, 6, false, 1⟩
def CFG_LAYER : Event := ⟨R.SCAN_EVENT, 2, 5, false, 1⟩
def GUARD_EXPIRE : Event := ⟨R.SCAN_EVENT, 2, 4, false, 1⟩
def UNDERRUN : Event := ⟨R.SCAN_EVENT, 2, 3, false, 2⟩
def FRAME_DONE : Event := ⟨R.SCAN_EVENT, 2, 2, false, 0⟩
def LINE_MATCH : Event := ⟨R.SCAN_EVENT, 2, 1, false, 0⟩
def SOB : Event := ⟨R.SCAN_EVENT, 2, 0, false, 0⟩
def CFG_CORR : Event := ⟨R.CORR_EVENT, 4, 4, false, 1⟩
def LUT_IN_USE : Event := ⟨R.CORR_EVENT, 4, 3, false, 1⟩
def DEMURA_ERR : Event := ⟨R.CORR_EVENT, 4, 2, false, 2⟩
def CLIP : Event := ⟨R.CORR_EVENT, 4, 1, false, 0⟩
def STAT_READY : Event := ⟨R.CORR_EVENT, 4, 0, false, 0⟩
def SEED : Event := ⟨R.DRIVE_EVENT, 5, 4, false, 0⟩
def DRIVE_CLAMP : Event := ⟨R.DRIVE_EVENT, 5, 3, false, 0⟩
def HIST_ERR : Event := ⟨R.DRIVE_EVENT, 5, 2, false, 1⟩
def OD_IN_USE : Event := ⟨R.DRIVE_EVENT, 5, 1, false, 1⟩
def CFG_DRIVE : Event := ⟨R.DRIVE_EVENT, 5, 0, false, 1⟩
def LANE_RETURN : Event := ⟨R.COL_EVENT, 6, 6, false, 0⟩
def RELOCK_DONE : Event := ⟨R.COL_EVENT, 6, 5, false, 0⟩
def CFG_PANEL : Event := ⟨R.COL_EVENT, 6, 4, false, 1⟩
def CRC_PULSE : Event := ⟨R.COL_EVENT, 6, 3, false, 1⟩
def LANE_FAIL : Event := ⟨R.COL_EVENT, 6, 2, false, 2⟩
def LOCK_LOSS : Event := ⟨R.COL_EVENT, 6, 1, false, 2⟩
def TRAIN_DONE : Event := ⟨R.COL_EVENT, 6, 0, false, 0⟩
def STREAM_REFUSED : Event := ⟨R.CODEC_EVENT, 7, 5, false, 1⟩
def OUT_FULL : Event := ⟨R.CODEC_EVENT, 7, 4, false, 0⟩
def DESC_DONE : Event := ⟨R.CODEC_EVENT, 7, 3, false, 0⟩
def BLOCK_CHECK : Event := ⟨R.CODEC_EVENT, 7, 2, false, 1⟩
def BOUND_FAIL : Event := ⟨R.CODEC_EVENT, 7, 1, false, 1⟩
def VERIFY_MISMATCH : Event := ⟨R.CODEC_EVENT, 7, 0, false, 1⟩
def ECC_CORR : Event := ⟨R.SCHED_EVENT, 3, 9, false, 0⟩
def CFG_JOB : Event := ⟨R.SCHED_EVENT, 3, 8, false, 1⟩
def IMEM_DONE : Event := ⟨R.SCHED_EVENT, 3, 7, false, 0⟩
def SPARE_SHORT : Event := ⟨R.SCHED_EVENT, 3, 6, false, 2⟩
def DALE_SPARED : Event := ⟨R.SCHED_EVENT, 3, 5, false, 2⟩
def JOB_SKIP : Event := ⟨R.SCHED_EVENT, 3, 4, false, 1⟩
def OVER_QUOTA : Event := ⟨R.SCHED_EVENT, 3, 3, false, 1⟩
def JOB_OVERRUN : Event := ⟨R.SCHED_EVENT, 3, 2, false, 1⟩
def JOB_FAULT : Event := ⟨R.SCHED_EVENT, 3, 1, false, 1⟩
def JOB_LATE : Event := ⟨R.SCHED_EVENT, 3, 0, false, 1⟩
def CFG_BL : Event := ⟨R.BL_EVENT, 11, 13, false, 1⟩
def ZB_IC_FAULT : Event := ⟨R.BL_EVENT, 11, 12, false, 1⟩
def ZB_DESYNC : Event := ⟨R.BL_EVENT, 11, 11, false, 1⟩
def ZB_ENUM_SHORT : Event := ⟨R.BL_EVENT, 11, 10, false, 1⟩
def ZB_REPLUG : Event := ⟨R.BL_EVENT, 11, 9, false, 0⟩
def ZB_RING_DOWN : Event := ⟨R.BL_EVENT, 11, 8, false, 2⟩
def PIN_SHORT : Event := ⟨R.BL_EVENT, 11, 7, false, 2⟩
def LED_SHORT : Event := ⟨R.BL_EVENT, 11, 6, false, 1⟩
def OPEN : Event := ⟨R.BL_EVENT, 11, 5, false, 2⟩
def BOOST_OC : Event := ⟨R.BL_EVENT, 11, 4, false, 2⟩
def BOOST_OV : Event := ⟨R.BL_EVENT, 11, 3, false, 1⟩
def BL_OT : Event := ⟨R.BL_EVENT, 11, 2, false, 3⟩
def BL_SCALE : Event := ⟨R.BL_EVENT, 11, 1, false, 0⟩
def BL_LATE : Event := ⟨R.BL_EVENT, 11, 0, false, 1⟩
def CAL_STORE : Event := ⟨R.CAL_EVENT, 15, 3, false, 0⟩
def CAL_FIT_READY : Event := ⟨R.CAL_EVENT, 15, 2, false, 0⟩
def CAL_FAULT : Event := ⟨R.CAL_EVENT, 15, 1, false, 2⟩
def CAL_REJECT : Event := ⟨R.CAL_EVENT, 15, 0, false, 1⟩
def LS_BANK_OFF : Event := ⟨R.LS_EVENT, 8, 6, false, 1⟩
def LS_TEST_SKIP : Event := ⟨R.LS_EVENT, 8, 5, false, 1⟩
def LS_TEST_FAIL : Event := ⟨R.LS_EVENT, 8, 4, false, 1⟩
def LS_COLLIDE : Event := ⟨R.LS_EVENT, 8, 3, false, 1⟩
def LS_UNCORR : Event := ⟨R.LS_EVENT, 8, 2, false, 2⟩
def LS_CORR : Event := ⟨R.LS_EVENT, 8, 1, false, 0⟩
def RET_FAIL : Event := ⟨R.LS_EVENT, 8, 0, false, 2⟩
def DRAM_OVERTEMP : Event := ⟨R.DRAM_EVENT, 9, 11, false, 1⟩
def SEG_CLEAR_DONE : Event := ⟨R.DRAM_EVENT, 9, 10, false, 0⟩
def DRAM_SEG_LOST : Event := ⟨R.DRAM_EVENT, 9, 9, false, 2⟩
def DRAM_TRAIN_FAIL : Event := ⟨R.DRAM_EVENT, 9, 8, false, 2⟩
def DRAM_HAMMER : Event := ⟨R.DRAM_EVENT, 9, 7, false, 1⟩
def QUOTA_HOLD : Event := ⟨R.DRAM_EVENT, 9, 6, false, 0⟩
def DRAM_PANIC : Event := ⟨R.DRAM_EVENT, 9, 5, false, 0⟩
def DRAM_CATCHUP : Event := ⟨R.DRAM_EVENT, 9, 4, false, 1⟩
def DRAM_REF_RATE : Event := ⟨R.DRAM_EVENT, 9, 3, false, 0⟩
def DRAM_UE : Event := ⟨R.DRAM_EVENT, 9, 1, false, 2⟩
def DRAM_CE : Event := ⟨R.DRAM_EVENT, 9, 0, false, 0⟩
def WALL_LAG : Event := ⟨R.WALL_EVENT, 10, 19, false, 1⟩
def WALL_MSG : Event := ⟨R.WALL_EVENT, 10, 18, false, 0⟩
def NOTICE_ERR : Event := ⟨R.WALL_EVENT, 10, 17, false, 1⟩
def NOTICE_READY : Event := ⟨R.WALL_EVENT, 10, 16, false, 0⟩
def EQX_BUSY : Event := ⟨R.WALL_EVENT, 10, 15, false, 0⟩
def EQX_ABORT : Event := ⟨R.WALL_EVENT, 10, 14, false, 1⟩
def LATE : Event := ⟨R.WALL_EVENT, 10, 13, false, 2⟩
def EQX_APPLIED : Event := ⟨R.WALL_EVENT, 10, 12, false, 0⟩
def EQX_PREPARE : Event := ⟨R.WALL_EVENT, 10, 11, false, 0⟩
def WALL_TIMING : Event := ⟨R.WALL_EVENT, 10, 10, false, 1⟩
def WALL_FRAME_STEP : Event := ⟨R.WALL_EVENT, 10, 9, false, 0⟩
def WALL_DUAL : Event := ⟨R.WALL_EVENT, 10, 8, false, 2⟩
def WALL_DEPTH : Event := ⟨R.WALL_EVENT, 10, 7, false, 2⟩
def WALL_YIELD : Event := ⟨R.WALL_EVENT, 10, 6, false, 1⟩
def WALL_ALMANAC : Event := ⟨R.WALL_EVENT, 10, 5, false, 0⟩
def WALL_HOLDOVER : Event := ⟨R.WALL_EVENT, 10, 4, false, 2⟩
def WALL_LOCK : Event := ⟨R.WALL_EVENT, 10, 3, false, 0⟩
def WALL_JOIN : Event := ⟨R.WALL_EVENT, 10, 2, false, 0⟩
def WALL_LINK_DOWN : Event := ⟨R.WALL_EVENT, 10, 1, false, 1⟩
def WALL_LINK_UP : Event := ⟨R.WALL_EVENT, 10, 0, false, 0⟩
def STATE_REQ : Event := ⟨R.PWR_EVENT, 13, 7, false, 0⟩
def VREG_FAIL : Event := ⟨R.PWR_EVENT, 13, 6, false, 2⟩
def DOM_REFUSE : Event := ⟨R.PWR_EVENT, 13, 5, false, 1⟩
def PWR_REFUSE : Event := ⟨R.PWR_EVENT, 13, 4, false, 1⟩
def FALLOW_EXIT : Event := ⟨R.PWR_EVENT, 13, 3, false, 0⟩
def FALLOW_ENTER : Event := ⟨R.PWR_EVENT, 13, 2, false, 0⟩
def CAPTURE_DONE : Event := ⟨R.PWR_EVENT, 13, 1, false, 0⟩
def WAKE : Event := ⟨R.PWR_EVENT, 13, 0, false, 0⟩
def NV_PF_RECORD : Event := ⟨R.NV_EVENT, 16, 7, false, 0⟩
def NV_LOCKOUT : Event := ⟨R.NV_EVENT, 16, 6, false, 1⟩
def NV_WEAK : Event := ⟨R.NV_EVENT, 16, 5, false, 2⟩
def NV_JRNL_BAD : Event := ⟨R.NV_EVENT, 16, 4, false, 2⟩
def NV_ROLLBACK : Event := ⟨R.NV_EVENT, 16, 3, false, 1⟩
def NV_TIE : Event := ⟨R.NV_EVENT, 16, 2, false, 1⟩
def NV_ERR : Event := ⟨R.NV_EVENT, 16, 1, false, 1⟩
def NV_DONE : Event := ⟨R.NV_EVENT, 16, 0, false, 0⟩
def BOOT_TIE : Event := ⟨R.BOOT_EVENT, 17, 1, false, 1⟩
def BOOT_FALLBACK : Event := ⟨R.BOOT_EVENT, 17, 0, false, 1⟩
def BUS_ERR : Event := ⟨R.SYS_EVENT, 0, 3, false, 1⟩
def SWAP_FAIL : Event := ⟨R.SYS_EVENT, 0, 2, false, 1⟩
def SWAPPED : Event := ⟨R.SYS_EVENT, 0, 1, false, 0⟩
def RESTART : Event := ⟨R.SYS_EVENT, 0, 0, false, 1⟩
def SEQ_DONE : Event := ⟨R.PSEQ_EVENT, 14, 2, false, 0⟩
def PFAIL : Event := ⟨R.PSEQ_EVENT, 14, 1, false, 3⟩
def PANEL_PWR_FAIL : Event := ⟨R.PSEQ_EVENT, 14, 0, false, 3⟩
def GDMA_ERR : Event := ⟨R.GDMA_EVENT, 19, 1, false, 1⟩
def GDMA_DONE : Event := ⟨R.GDMA_EVENT, 19, 0, false, 0⟩
def I3C_DAA : Event := ⟨R.MGMT_EVENT, 18, 2, false, 0⟩
def MGMT_OVERRUN : Event := ⟨R.MGMT_EVENT, 18, 1, false, 1⟩
def MGMT_DOORBELL : Event := ⟨R.MGMT_EVENT, 18, 0, false, 0⟩

end Ev

end Sys2Proof
end

