-- ==== Sys2Proof/Machine/State.lean ====
section
/-! DEFINITION.  The state of the device, as plain data: the queue of waiting commands and, in `Dev`, every
register, memory, queue, counter, mode and pin that the spec gives the YL-7400.  A default field value is the
value at reset (log entries 1 to 3 name what the spec does not give). -/

set_option Elab.async false

namespace Sys2Proof.Machine

/-- The words written so far of a register space, by rising bus address; an unlisted word holds its reset value. -/
abbrev RegFile := List (Nat × Word)

/-- A byte-addressed memory in canonical form: addresses strictly rising, no entry equal to the byte 0 that an
unlisted address reads as (DESIGN CHOICE, log entry 1). -/
abbrev Memory := List Host.Cell

/-- The canonical form of a memory. -/
def Memory.wf : Memory → Bool
  | [] => true
  | [(_, v)] => v != 0
  | (a, v) :: (b, w) :: rest => v != 0 && a < b && Memory.wf ((b, w) :: rest)

/-- Why a step stops with a fault.  No command of the table does: every error of the spec is a response, an event
or a register value (R418, R436), which is a next state.  Safe: the type has no inhabitant. -/
inductive Fault where
  deriving DecidableEq, Repr

/-- Why a command is refused. -/
inductive Refusal where
  /-- Raised by an arm of `exec` for a command that has no meaning in this model yet.  Safe: nothing is claimed of it. -/
  | notModelled (mnemonic : String)
  deriving DecidableEq, Repr

/-! ### Event log (R441, Table 18.5) -/

/-- One entry of the event log. -/
structure LogEntry where
  time : Nat
  lseq : Nat
  frame : Nat
  code : Nat
  detail : Nat
  rep : Nat
  sev : Nat
  level : Nat
  origin : Nat
  deriving DecidableEq, Repr

/-- The log buffer in AO, oldest entry first, at most 16 entries (R442), and its freeze (R444). -/
structure LogState where
  entries : List LogEntry := []
  frozen : Bool := false
  /-- the buffer accepts entries from boot start on -/
  started : Bool := false
  deriving DecidableEq, Repr

/-! ### Writes in progress: transfer engines and the scan guard -/

/-- One write that a transfer still has to perform: at most one line-store word or one 32-byte DRAM block. -/
structure WChunk where
  ls : Bool
  addr : Nat
  bytes : List Byte
  deriving DecidableEq, Repr

/-- The engine on whose behalf a write is held (R88). -/
inductive Owner where
  | gdma (c : Nat)
  | codec (q : Nat)
  | glen (dale : Nat) (tag : Nat)
  | notice
  | plain (port : Nat)
  deriving DecidableEq, Repr

/-- A held write (R88): what remains of its transfer, and the frame periods it has been held. -/
structure Held where
  owner : Owner
  port : Nat
  todo : List WChunk
  waited : Nat
  deriving DecidableEq, Repr

/-- A descriptor or transfer in service: bytes moved, and once no write remains, how it ended. -/
structure Xfer where
  moved : Nat
  status : Option Nat
  deriving DecidableEq, Repr

/-! ### Processors (R187, R409) -/

/-- A RISC-V hart: program counter, x1 to x31 (an unlisted register holds 0) and the CSRs written so far. -/
structure Hart where
  pc : Word := 0
  x : RegFile := []
  csr : RegFile := []
  deriving DecidableEq, Repr

/-! ### Line store (R268 to R284) -/

/-- Response status of a port access, in the rank order of Table 11.1. -/
inductive LsStatus where
  | ok | collide | refused | bankOff | ecc
  deriving DecidableEq, Repr

/-- The response of a port access. -/
structure LsResp where
  port : Nat
  status : LsStatus
  data : List Byte
  deriving DecidableEq, Repr

structure LsState where
  mem : Memory := []
  /-- words that hold a single-bit error -/
  corr : List Nat := []
  /-- words that hold an uncorrectable error -/
  uncorr : List Nat := []
  /-- last real-time port granted, by bank (round robin of R273) -/
  rrRt : List (Nat × Nat) := []
  /-- last other port granted, by bank -/
  rrOrd : List (Nat × Nat) := []
  /-- the region under test (R280) -/
  region : Option Nat := none
  /-- the next region of the walk -/
  regionNext : Nat := 0
  /-- consecutive aborts of the region (R282) -/
  aborts : Nat := 0
  /-- accesses that wait for a bank check, a region restore or the domain LS -/
  stalled : List LsReq := []
  /-- responses of the accesses last served -/
  resp : List LsResp := []
  deriving DecidableEq, Repr

/-- The descriptor that a general DMA channel serves (R286): its 32 bytes as read, the bytes moved, and once nothing is left
to move, its error code. -/
structure GdmaXfer where
  desc : List Byte
  moved : Nat
  status : Option Nat
  deriving DecidableEq, Repr

/-- General DMA (R285): pending descriptors as (channel, slot) in submission order, and each channel's service. -/
structure GdmaState where
  order : List (Nat × Nat) := []
  prog : List (Nat × GdmaXfer) := []
  deriving DecidableEq, Repr

/-! ### Power domains and bus accesses (R344 to R348, R415) -/

/-- A master that reaches registers and memories over the device address map. -/
inductive Master where
  | cp
  | dale (d : Nat)
  | wall
  | host
  deriving DecidableEq, Repr

/-- An access that stalls while a domain wakes (R346): a posted store of `size` bytes, or a wall REG_RD of `size` words
for the device at address `data`.  The address is a bus address; DRAM byte a stands at 2³³ + a. -/
structure BusAcc where
  master : Master
  write : Bool
  addr : Nat
  size : Nat
  data : Nat
  deriving DecidableEq, Repr

/-- Why a regulator request is outstanding (R351). -/
inductive VWhy where
  | turbo | nominal | entry | exit
  deriving DecidableEq, Repr

/-- A regulator request: rail 0 is VDD_CORE (target 0 RET, 1 NOM, 2 TURBO), rails 1 to 15 are PMBus rails (target
0 off, 1 on). -/
structure VReq where
  rail : Nat
  target : Nat
  retried : Bool
  /-- both attempts of an exit raise have failed; the pair is repeated every 10 ms -/
  failed : Bool
  why : VWhy
  deriving DecidableEq, Repr

/-- A state command held while a transition runs (R353): its code, its wake source of Table 14.10 and the source's
detail, and the wall frame F it applies at, if any (R354). -/
structure StateCmd where
  code : Nat
  src : Nat
  detail : Nat
  frame : Option Nat
  deriving DecidableEq, Repr

/-- Power-state logic. -/
structure PwrState where
  /-- domains that wake as soon as their power-down ends (R347) -/
  wakeAfter : List Nat := []
  /-- posted stores and wall reads that stall on a waking domain, oldest first -/
  stalled : List BusAcc := []
  /-- the state that an entry goes to (while PWR_STATE reads entering) -/
  target : Nat := 0
  /-- the state that the transition in progress left -/
  origin : Nat := 0
  /-- a wake arrived during an entry into VIGIL or DORMANT (R360) -/
  exitAfter : Bool := false
  /-- source and detail of that wake -/
  exitSrc : Nat × Nat := (0, 0)
  /-- the OFF list of an entry still runs (R360, step 1) -/
  offList : Bool := false
  /-- a state command held until the transition ends (R353) -/
  heldCmd : Option StateCmd := none
  /-- a wall state command that waits for its frame F (R354) -/
  wallCmd : Option StateCmd := none
  /-- the next latch point marks the capture frame (R355, R356) -/
  captureNext : Bool := false
  /-- the frame being scanned out is a capture frame -/
  capturing : Bool := false
  /-- a block of the capture ended with an error response (R358) -/
  captureBad : Bool := false
  /-- blocks of the capture frame written so far, in raster order (R356) -/
  capNext : Nat := 0
  /-- the FALLOW capture is complete; the domains of the entry still go to RET (Table 14.6, step 7) -/
  captured : Bool := false
  /-- from L1 on the scheduler dispatches no job (R355) -/
  noDispatch : Bool := false
  /-- the hold of an exiting FALLOW ends at its next line (R359) -/
  holdEnd : Bool := false
  /-- lines run so far in the frame of a FALLOW hold (R357) -/
  holdLines : Nat := 0
  /-- STATE_REQ of each bank before an entry, by bank (R360, R363) -/
  savedBanks : List (Nat × Nat) := []
  vreqs : List VReq := []
  /-- VDD_PHY is switched off (R360) -/
  phyOff : Bool := false
  /-- the dale clock runs at 800 MHz; the raise is acknowledged and waits for a latch point (R350) -/
  dale800 : Bool := false
  turboAcked : Bool := false
  /-- levels that a held pad group keeps: (group, level word) (R366) -/
  padLevels : List (Nat × Nat) := []
  /-- consecutive VIGIL cycles with each crossing: panel high, panel low, die high, ambient high, ambient low (R361) -/
  crossings : List Nat := [0, 0, 0, 0, 0]
  /-- consecutive failed reads of the temperature and ambient sensors -/
  sensorFails : List Nat := [0, 0]
  heaterOn : Bool := false
  /-- consecutive cycles the heater has been on (R362) -/
  heaterCycles : Nat := 0
  /-- the request that lowers VDD_CORE at an entry has gone out (R360, step 7) -/
  lowering : Bool := false
  /-- the ON list starts once firmware has released every held pad group (R363) -/
  onAfterRelease : Bool := false
  /-- pad groups whose release waits for their domain (R366) -/
  releaseWait : List Nat := []
  deriving DecidableEq, Repr

/-! ### DRAM controller (R291 to R313) -/

/-- End status of a DRAM access. -/
inductive DramStatus where
  | ok | lost | bus | ecc | guard
  deriving DecidableEq, Repr

/-- One request of a channel (R296): a write carries its bytes. -/
structure DramReq where
  port : Nat
  addr : Nat
  len : Nat
  data : Option (List Byte)
  /-- class it ranks in now (promotion, R297) -/
  cls : Nat
  /-- native class -/
  native : Nat
  /-- times a younger request has passed it -/
  passed : Nat
  /-- waited past AGE_LIMIT, promotion to RT pending (R297) -/
  waiting : Bool
  deriving DecidableEq, Repr

/-- Response of a DRAM access. -/
structure DramResp where
  port : Nat
  addr : Nat
  status : DramStatus
  data : List Byte
  deriving DecidableEq, Repr

/-- One entry of a bank's row tracker (R311). -/
structure RowTrack where
  row : Nat
  count : Nat
  /-- majority candidate and its vote -/
  cand : Nat
  vote : Nat
  deriving DecidableEq, Repr

structure DramState where
  mem : Memory := []
  corr : List Nat := []
  uncorr : List Nat := []
  /-- requests queued in a channel, in arrival order: (channel, request) -/
  queue : List (Nat × DramReq) := []
  /-- requests that wait at their port's interface for quota (R298) -/
  atPort : List DramReq := []
  /-- last response -/
  resp : Option DramResp := none
  /-- open row of a bank, by 16 × channel + bank -/
  openRow : List (Nat × Nat) := []
  tracker : List (Nat × List RowTrack) := []
  /-- ports throttled on a bank until the window ends: (16 × channel + bank, port) -/
  throttled : List (Nat × Nat) := []
  /-- bytes granted in each of the last 8 buckets of a port, newest first (R298) -/
  buckets : List (Nat × List Nat) := []
  /-- RT levels at or above PANIC_ON and not yet down to PANIC_OFF -/
  panic : Bool := false
  /-- next 32-byte block of the scrub -/
  scrubNext : Nat := 0
  /-- segments being filled with zeros: (channel, segment) -/
  clearing : List (Nat × Nat) := []
  /-- channel whose WCK oscillator correction waits for its next refresh -/
  wckFix : List Nat := []
  deriving DecidableEq, Repr

/-! ### Codec (R160 to R185) -/

/-- What a stream is in the middle of (R179). -/
inductive SMode where
  | tokens
  /-- literal bytes still to copy -/
  | lits (n : Nat)
  /-- match bytes still to copy, and their distance -/
  | mat (n dist : Nat)
  deriving DecidableEq, Repr

/-- A stream that a context holds (R182); its window lies in the line store. -/
structure StreamCtx where
  compress : Bool
  /-- decompress: output bytes so far; compress: input bytes coded so far -/
  total : Nat
  /-- running CRC-32 register -/
  crc : Nat
  mode : SMode
  /-- decompress: header or end-group bytes read so far; compress: the held part of a span -/
  pend : List Byte
  deriving DecidableEq, Repr

/-- A codec descriptor in service: segments served, and how it stands. -/
structure CodecProg where
  next : Nat := 0
  /-- nothing of it remains but its status words -/
  fin : Bool := false
  outFull : Bool := false
  inEmpty : Bool := false
  ended : Bool := false
  err : Nat := 0
  consumed : Nat := 0
  produced : Nat := 0
  resKind : Nat := 0
  resRemain : Nat := 0
  resDist : Nat := 0
  /-- events already raised for the descriptor: VERIFY_MISMATCH, BOUND_FAIL, BLOCK_CHECK -/
  seen : List Nat := []
  /-- the slot whose block is being written, as (in the line store, address, bytes of the block, bytes of the slot): once it
  stands there, the rest of the slot is not defined (R165) -/
  tail : Option (Bool × Nat × Nat × Nat) := none
  deriving DecidableEq, Repr

structure CodecState where
  ctx : List (Nat × StreamCtx) := []
  prog : List (Nat × CodecProg) := []
  /-- queue last served by SU (unit 0) and GB (unit 1) -/
  last : List (Nat × Nat) := []
  deriving DecidableEq, Repr

/-! ### Layers, rings and scan-out (ch. 3) -/

/-- A guarded byte range of DRAM [lo, hi). -/
structure Range where
  lo : Nat
  hi : Nat
  deriving DecidableEq, Repr

/-- A replaced layer buffer that has not retired (R87). -/
structure Retiring where
  layer : Nat
  base : Nat
  ranges : List Range
  deriving DecidableEq, Repr

/-- What a fixed-path reader holds of one segment; none stands for samples that its rule replaces (R110, R124, R172,
R174). -/
structure Seg where
  unit : ReadUnit
  line : Nat
  seg : Nat
  px : Option (List Px)
  deriving DecidableEq, Repr

/-- Statistics of one zone while its row runs (R97). -/
structure ZoneAcc where
  /-- pixels by bin, rising, unlisted bins 0 -/
  bins : List (Nat × Nat) := []
  max : Nat := 0
  sum : Nat := 0
  above : Nat := 0
  pixels : Nat := 0
  deriving DecidableEq, Repr

/-- Events that are raised once per frame. -/
inductive Once where
  | underrun (layer : Nat)
  | clip | demuraErr | histErr | driveClamp | lineMatch | boundFail
  | verify (unit : WriteUnit)
  | blockCheck (unit : ReadUnit)
  deriving DecidableEq, Repr

/-- Scan-out and the pixel pipelines. -/
structure ScanState where
  /-- segments in the readers' line buffers -/
  segs : List Seg := []
  /-- lines whose fetch for a layer ended with an error: (layer, line) (R91) -/
  badLine : List (Nat × Nat) := []
  /-- layers switched off in this frame from (line, x) on: (layer, line, x) (R90) -/
  off : List (Nat × Nat × Nat) := []
  /-- first line that the ring supplies in this frame after a stop or a DSC error (R17, R57) -/
  stopLine : Option Nat := none
  /-- the input has stopped in this frame; line number that the last INPUT_LOSS was reported with (R17) -/
  stopped : Bool := false
  lossLine : Nat := 0
  /-- once-per-frame events already raised in this frame -/
  seen : List Once := []
  /-- consecutive frames with a layer 0 underrun, and with ring, fallow and placard failures -/
  l0Under : Nat := 0
  ringFail : Nat := 0
  fallowFail : Nat := 0
  placardFail : Nat := 0
  /-- this frame had a ring, fallow or placard failure -/
  badRing : Bool := false
  badFallow : Bool := false
  badPlacard : Bool := false
  /-- FD[0] reads the fallow frame, the placard in this frame -/
  readFallow : Bool := false
  readPlacard : Bool := false
  /-- after a FALLOW exit the fallow frame is shown alone until layer 0 has a complete frame (R359) -/
  fallowAlone : Bool := false
  /-- the raster scans a frame: from frame start to frame done -/
  inFrame : Bool := false
  /-- statistics of the zone row that runs, by zone column, and its row number -/
  acc : List (Nat × ZoneAcc) := []
  accRow : Nat := 0
  /-- records that STAT_WRITE_DONE still writes: (first byte, bytes) -/
  statTail : List (Nat × List Byte) := []
  /-- grid and STAT_SRC changed, CORR woke, or the first lit frame: the next read side is not valid (R100) -/
  statInvalid : Bool := true
  /-- predicted map, by zone (R102) -/
  pmap : List Nat := []
  /-- last line processed: its number, the output of stage 6, the reached levels, the output codes -/
  line : Nat := 0
  stage6 : List Px := []
  reach : List Px := []
  out : List Px := []
  /-- seed of the frame (Table 5.2) and the reasons for the next one -/
  seed : Nat := 3
  /-- the last frame wrote a complete history -/
  histOk : Bool := false
  /-- overdrive runs in this frame -/
  odFrame : Bool := false
  /-- the next frame is the first after exit from FALLOW -/
  fromFallow : Bool := false
  /-- a latch point changed what the history depends on -/
  histChanged : Bool := false
  /-- the last frame was at ladder level 4 -/
  fromSafe : Bool := false
  /-- SAFE_COLOR as sampled at the last frame start (R131) -/
  safe : Px := ⟨0, 0, 0⟩
  /-- the reserve timer drives the panel (R38) -/
  reserve : Bool := false
  /-- COMP delivers timing -/
  compLost : Bool := false
  /-- the raster holds its line until the trigger (R84) -/
  vrrHold : Bool := false
  /-- layer 7's shadows were last written by the wall block (R74, R78) -/
  l7Wall : Bool := false
  /-- LADDER_CTRL.TARGET has been written since a commit applied it (R434) -/
  targetWritten : Bool := false
  /-- drop causes of Table 18.1 that wait for the next latch point -/
  causes : List Nat := []
  /-- the latch point of the coming frame has passed, its frame start has not -/
  latched : Bool := false
  /-- the first lit frame since the ON list has been shown (R403) -/
  lit : Bool := false
  /-- a first lit frame has been shown since reset: the next comes from the highest available level (R363, R403) -/
  everLit : Bool := false
  /-- pixels clipped so far in this frame (R105) -/
  clips : Nat := 0
  /-- lines of this frame drawn so far: a block of one of them comes too late (R124) -/
  drawn : Nat := 0
  /-- history blocks of this frame written so far, in raster order (R122) -/
  histNext : Nat := 0
  /-- the write side holds a complete frame (R100) -/
  statDone : Bool := false
  /-- after a PORT_MODE change: the ring that is scanned until a frame completes in the new mode (R47) -/
  ringHeld : Option Nat := none
  deriving DecidableEq, Repr

/-! ### Col lanes, gate outputs and the panel sequencer (ch. 6) -/

/-- A symbol of a Col lane: data or control (R135). -/
inductive Sym where
  | data (b : Byte)
  | ctl (b : Byte)
  deriving DecidableEq, Repr

/-- What a lane carries beside packets (R134, R144): an unlisted lane is in electrical idle. -/
inductive LaneDrive where
  | elecIdle | tp1 | tp2 | live
  deriving DecidableEq, Repr

/-- Why lanes train: the ON list, a pipe-clock change (R148). -/
inductive TrainWhy where
  | on | retrain
  deriving DecidableEq, Repr

/-- A test window (R147): its lane, the trial settings it sends with, and the symbols until it closes. -/
structure TestWindow where
  lane : Nat
  eq : Nat
  left : Nat
  deriving DecidableEq, Repr

structure ColState where
  drive : List (Nat × LaneDrive) := []
  /-- the slot or half-slots of the last line on each lane, up to the last symbol that is not IDL -/
  slots : List (Nat × List (List Sym)) := []
  /-- lanes whose running disparity is positive at the start of those slots (R134) -/
  plus : List Nat := []
  /-- start of those slots in pipe-clock cycles from the start of their line (R134) -/
  slotAt : Nat := 0
  /-- the last slot carried a line packet -/
  prevPacket : Bool := false
  /-- the last slot lay in blanking and carried neither LD nor a control packet nor a test burst (R147) -/
  slotFree : Bool := false
  /-- control packets last sent, by lane -/
  ctl : List (Nat × List Sym) := []
  /-- lanes to which CONFIG goes in the next slot without a line packet; the discharge write goes out in the next slot -/
  config : List Nat := []
  discharge : Bool := false
  /-- symbols of TP1 that a relock still sends (R146) -/
  tp1Left : Nat := 0
  /-- LOCK_N is low and its 2 µs filter runs (R145) -/
  lockLow : Bool := false
  /-- lane under DETECT -/
  detect : Nat := 0
  why : TrainWhy := .on
  /-- a loss of lock waits for the next blanking (R146) -/
  relockDue : Bool := false
  /-- the search of R146 belongs to a training -/
  searchTrain : Bool := false
  /-- next lane of the search, and the lanes found failing -/
  searchNext : Nat := 0
  suspects : List Nat := []
  /-- the test window that is open (R147) -/
  test : Option TestWindow := none
  /-- the last line on each mini-LVDS bus, from the reset clock on, edge by edge: bit 0 the clock pair, bits 1 to 5 the data
  pairs D0 to D4 (R149) -/
  mlv : List (Nat × List Nat) := []
  /-- clocks for which LOAD is high from the slot start, the level of POL, and the polarity of the last line sent (R149) -/
  mlvLoad : Nat := 0
  mlvPol : Bool := false
  mlvNext : Bool := false
  /-- PIPE_CLK.FREQ for which the lanes are trained (R148) -/
  pipeFreq : Nat := 0
  /-- COL_LANE settings in force: DEEMPH and SWING take effect at the next blanking (R148) -/
  eq : List (Nat × Nat) := []
  deriving DecidableEq, Repr

/-- An edge of a gate output within a line: cycle from the line's start, output (0 to 15 GCK, 16 to 19 GST, 20 and 21
GRST), and whether the pin goes high. -/
structure GateEdge where
  cycle : Nat
  pin : Nat
  high : Bool
  deriving DecidableEq, Repr

structure GateState where
  /-- outputs active at the start of the present line -/
  active : List Nat := []
  edges : List GateEdge := []
  /-- repeats of a hold line in the frame that runs, and in the one before it (R151, R152) -/
  held : Nat := 0
  heldLast : Nat := 0
  /-- an ON list has begun since reset: before it the panel's pads are high-impedance (Table 6.10) -/
  driven : Bool := false
  /-- GDIS is active (R153) -/
  gdis : Bool := false
  /-- GRST[0] and GRST[1] are held active by GATE_RESET -/
  reset : Bool := false
  /-- FIRST_FRAME waits for the next latch point, then for that frame's frame done (R153) -/
  firstFrame : Bool := false
  firstDone : Bool := false
  deriving DecidableEq, Repr

/-- What the entry being executed waits for. -/
inductive PseqWait where
  | none | delay | input | train | firstFrame
  deriving DecidableEq, Repr

structure PseqState where
  wait : PseqWait := .none
  /-- requests that wait for the running list (R156) -/
  onReq : Bool := false
  offReq : Bool := false
  /-- PFAIL_N has been high for 100 ms since the last PF list (R156) -/
  pfailClear : Bool := true
  /-- GPIO pins that the sequencer drives high -/
  gpio : List Nat := []
  deriving DecidableEq, Repr

/-! ### Dale engines and the frame job scheduler (ch. 8) -/

/-- A glen DMA descriptor, as DMAQ captured it (Table 8.5). -/
structure DmaReq where
  tag : Nat
  src : Nat
  dst : Nat
  ctrl : Nat
  resv : Nat
  /-- queued by the job that runs (R203) -/
  mine : Bool
  deriving DecidableEq, Repr

/-- A job that a dale runs: cycles since dispatch, the cap in force, and whether its merge is in progress. -/
structure Job where
  zone : Nat
  type : Nat
  cycles : Nat
  cap : Nat
  merging : Bool
  deriving DecidableEq, Repr

/-- A dale engine. -/
structure DaleState where
  hart : Hart := {}
  imem : Memory := []
  dmem : Memory := []
  job : Option Job := none
  /-- jobs of its list not yet started, as (zone, type), in order -/
  todo : List (Nat × Nat) := []
  /-- firmware started by DALE_CTRL.START runs -/
  service : Bool := false
  /-- descriptors of busy tags, in order of DMAQ -/
  dma : List DmaReq := []
  /-- error of the last transfer of each tag that ended with one -/
  dmaErr : List (Nat × Nat) := []
  /-- a transfer whose write the scan guard holds: tag and the error found so far -/
  dmaHeld : Option (Nat × Nat) := none
  /-- pending WFE events (Table 8.7) -/
  events : Nat := 0
  /-- ages in periods of the hardware faults of the last 64 periods -/
  hwFaults : List Nat := []
  /-- rs1[7:0] of the last JEND that abandoned a job -/
  abandonCode : Nat := 0
  /-- FFENCE waits for the next latch point (false), or that has passed (true) -/
  ffence : Option Bool := none
  deriving DecidableEq, Repr

/-- The scheduler, the dales (an unlisted dale is in its reset state) and the glen shared memories. -/
structure SchedState where
  dales : List (Nat × DaleState) := []
  /-- shared memory, by 0x20000 × glen + offset from 0x0002_0000 -/
  shared : Memory := []
  /-- DIRTY[z][t], as 8z + t -/
  dirty : List Nat := []
  /-- types that OVER_QUOTA has been raised for in this period -/
  overQuota : List Nat := []
  /-- dales that automatic sparing puts to OUT at the next latch point -/
  spareNext : List Nat := []
  /-- a reload copies IMEM: dispatch waits (R218) -/
  imemCopy : Bool := false
  /-- dales that have entered POOL and that no committed map has given a zone since (R216) -/
  noZones : List Nat := []
  /-- the descriptor that a glen DMA serves, as (glen, dale, tag), and the place of the dale that it served last (R205) -/
  dmaNow : List (Nat × Nat × Nat) := []
  dmaLast : List (Nat × Nat) := []
  /-- words of IMEM, DMEM and glen shared memory that hold a single-bit, an uncorrectable error (R188), numbered by
  `glenWord` -/
  corr : List Nat := []
  uncorr : List Nat := []
  deriving DecidableEq, Repr

/-! ### Backlight and zone bus (ch. 9) -/

/-- One entry of a UPD packet (R245). -/
structure UpdEntry where
  ic : Nat
  ch : Nat
  duty : Nat
  level : Nat
  now : Bool
  zone : Nat
  deriving DecidableEq, Repr

/-- A direct sink: the parts of R230 and R237 to R241 that no register holds. -/
structure SinkState where
  /-- a sample has been taken since reset; in this period; V_PIN was below 0.10 V in it -/
  ever : Bool := false
  sampled : Bool := false
  dropout : Bool := false
  /-- this period's, and the previous period's, sample points to an open string -/
  low : Bool := false
  lowPrev : Bool := false
  /-- periods in a row with a need 2.0 V below the median -/
  short : Nat := 0
  /-- periods in a row without an on-segment of 1.5 µs; with no segment lit at all -/
  noLong : Nat := 0
  dark : Nat := 0
  /-- the next period lights one pulse; excess of a diagnostic pulse in ticks, and the periods left to remove it -/
  pulse : Bool := false
  owed : Nat := 0
  owedLeft : Nat := 0
  /-- segments lit in the present period, as (start, length) in ticks of 4 ns -/
  segs : List (Nat × Nat) := []
  /-- the sink was turned OFF by a fault in this period (R241); pin tests that used its off-time in this period -/
  offNow : Bool := false
  tests : Nat := 0
  /-- sense offset and gain in force since the last period start, and the current in µA that the sink regulates (R223, R253,
  R257, R258) -/
  ofs : Int := 0
  gain : Nat := 32768
  current : Nat := 0
  deriving DecidableEq, Repr

/-- A boost stage. -/
structure BoostState where
  /-- 0 off, 1 soft start, 2 tracking -/
  phase : Nat := 0
  /-- switching has stopped for the rest of the period; overvoltage in this period; periods in a row with one -/
  ovStop : Bool := false
  ovNow : Bool := false
  ovRun : Nat := 0
  deriving DecidableEq, Repr

/-- A zone-sink IC as the device knows it. -/
structure IcState where
  /-- its ID is the one that the boot image expects (R248); CTRL.OUT_EN as last written -/
  idOk : Bool := false
  outEn : Bool := false
  /-- the slot of the last STAT was valid; NEED held; a valid slot with NEED_VALID has been seen -/
  slot : Bool := false
  need : Nat := 0
  ever : Bool := false
  temp : Nat := 0
  /-- registers the device has written: PDLY, IFS, SEG_N, SEG_MIN, STAGGER, CTRL (R248) -/
  regs : List Nat := []
  deriving DecidableEq, Repr

structure BlState where
  sinks : List (Nat × SinkState) := []
  boosts : List (Nat × BoostState) := []
  ics : List (Nat × IcState) := []
  /-- VENDOR, PART, REV that the boot image expects, by IC -/
  zbIds : List (Nat × Nat × Nat) := []
  /-- a latch point has passed; time in ns from the one before to the last one, 0 for the nominal frame period (R226) -/
  latched : Bool := false
  frameNs : Nat := 0
  /-- duty and level in force of the lit zones -/
  duties : List (Nat × Nat × Nat) := []
  /-- duty and level of the lit zones as read for the coming latch point (R224) -/
  taken : Option (List (Nat × Nat × Nat)) := none
  /-- k computed at the last FS or PS, for the period that follows -/
  nextScale : Nat := 32768
  /-- p of the last FS or PS, and of the period in force -/
  pred : Nat := 0
  predNow : Nat := 0
  queue : List UpdEntry := []
  /-- packets on the ring, oldest first -/
  flight : List (List UpdEntry) := []
  /-- entries acknowledged since the last latch point: they pend in their ICs -/
  acked : List UpdEntry := []
  /-- the cutoff of the coming latch point has passed; zones whose type-1 merge is late -/
  cutoff : Bool := false
  late : List Nat := []
  /-- a STAT is on the ring; its replies have come; FS or PS instants in a row without a reply -/
  statOut : Bool := false
  replied : Bool := false
  noReply : Nat := 0
  /-- the ring has gone down and is not yet up again (R249) -/
  down : Bool := false
  /-- an enumeration is on the ring -/
  enumOut : Bool := false
  /-- symbols last sent on ZB_TX; the running disparity before them is positive (R242) -/
  sent : List Sym := []
  plus : Bool := false
  /-- pairs of sinks with one positive test result -/
  pinOnce : List (Nat × Nat) := []
  /-- periods in a row with DIE_POWER above PDIE_MAX -/
  dieOver : Nat := 0
  deriving DecidableEq, Repr

/-! ### Statistical calibration (ch. 10) -/

/-- A sense-gain calibration of one boost (R258). -/
structure GainCal where
  /-- 0 accumulates, 1 waits for candidates, 2 verifies -/
  phase : Nat := 0
  /-- periods accumulated -/
  count : Nat := 0
  /-- terms of the period before, in µA -/
  prev : List Nat := []
  sumX : List Nat := []
  sumXX : List (List Nat) := []
  sumXY : List Nat := []
  sumY : Nat := 0
  /-- candidate gains under verification, Q1.15 -/
  g : List Nat := []
  /-- verification periods: terms of the period before, of the period, and the delivered current -/
  rows : List (List Nat × List Nat × Nat) := []
  deriving DecidableEq, Repr

structure CalState where
  /-- offset samples of each sink's window -/
  ofs : List (Nat × List Int) := []
  gain : List (Nat × GainCal) := []
  /-- corrected readings of the sensors in 1/16 °C, as of the last sample (R253, R261) -/
  tsNow : List Int := []
  /-- raw readings of the sensors in the window, newest first -/
  ts : List (List Int) := []
  /-- anchor readings of the running window, and the records kept (R260) -/
  anchorNow : List Int := []
  anchors : List Int := []
  /-- consecutive rejections by 4096 × calibration + instance -/
  consec : List (Nat × Nat) := []
  /-- equalizer taps of each lane (4 × port + lane): the last error-free set -/
  taps : List (Nat × Nat) := []
  /-- rejections in a row of each lane since it was trained, and the lanes that have stopped adapting (R262) -/
  eqRun : List (Nat × Nat) := []
  eqStopped : List Nat := []
  /-- next lane of calibration 4; a relock has disturbed its bursts (R263) -/
  tuneNext : Nat := 0
  tuneSpoilt : Bool := false
  /-- results as stored in the CAL partition, by 4096 × calibration + instance -/
  stored : List (Nat × Int) := []
  deriving DecidableEq, Repr

/-! ### DisplayPort input (ch. 2) -/

/-- Answer to the last AUX transaction of a port. -/
inductive AuxReply where
  | none | ack | nack | defer
  | data (bs : List Byte)
  deriving DecidableEq, Repr

/-- One half of a split-mode input frame (R49, R50): none; it has started and waits for its partner, or has completed
without it; it has its partner and runs, or has completed; it runs, but its frame is abandoned. -/
inductive Half where
  | idle | waiting | alone | paired | complete | dropped
  deriving DecidableEq, Repr

/-- A DisplayPort receiver. -/
structure PortState where
  /-- DPCD lane status: lanes with CR_DONE, CHANNEL_EQ_DONE or EQ_DONE, SYMBOL_LOCKED -/
  cr : List Nat := []
  eq : List Nat := []
  sym : List Nat := []
  cds : Bool := false
  aligned : Bool := false
  /-- LINK_STATUS_UPDATED -/
  updated : Bool := false
  /-- drive settings requested of the source, by lane -/
  adjust : List Byte := []
  /-- trained lanes without symbol lock -/
  lost : List Nat := []
  /-- error counters of the port -/
  errors : Nat := 0
  failed : Bool := false
  /-- training has completed; the first valid MSA after it has arrived -/
  trainedNow : Bool := false
  up : Bool := false
  msa : Option Msa := none
  /-- the stream's MSA is accepted (R48, R58) -/
  accepted : Bool := false
  pps : Option Pps := none
  /-- the PPS lies outside the limits (R55, R56) -/
  ppsBad : Bool := false
  /-- Table 2.5: no complete frame in time; the MSA differs; frames in a row with DSC_ERROR -/
  noFrame : Bool := false
  msaBad : Bool := false
  dscRun : Nat := 0
  /-- the present input frame is incomplete by a DSC error -/
  dscBad : Bool := false
  /-- HPD is low by R45; HPD is low by an IRQ_HPD pulse; a reason waits for a pulse (R44) -/
  rediscover : Bool := false
  pulse : Bool := false
  irqWait : Bool := false
  /-- DEVICE_SERVICE_IRQ_VECTOR, DPCD 0x00201 -/
  irqVec : Nat := 0
  /-- Panel Replay error status (R44), as its DPCD byte -/
  prErr : Nat := 0
  /-- DPCD link and power configuration that the source wrote, by address -/
  dpcd : Memory := []
  /-- EDID pointer and segment of the I2C target -/
  edidPtr : Nat := 0
  edidSeg : Nat := 0
  reply : AuxReply := .none
  /-- a full-frame update has completed in Panel Replay -/
  prDone : Bool := false
  half : Half := .idle
  /-- µs from the end of the last complete frame to the last latch point (negative before it); none before any frame -/
  age : Option Int := none
  deriving DecidableEq, Repr

/-- The input link. -/
structure RxState where
  a : PortState := {}
  b : PortState := {}
  /-- the reference stream (R475) -/
  ref : Option Msa := none
  /-- start-up has reached DisplayPort link training (R43) -/
  started : Bool := false
  /-- EDID and DisplayID of the boot image (R39) -/
  edid : List Byte := []
  /-- frames in a row in replay with the link asleep (R60) -/
  replayFrames : Nat := 0
  /-- after a change to pass-through: 3 waits for a complete input frame (R359), 2 for an
  input frame start, 1 for the frame start that follows (R474) -/
  relock : Nat := 0
  deriving DecidableEq, Repr

/-! ### Wall (ch. 13) -/

/-- A CMD packet (R319). -/
structure WCmd where
  type : Nat
  dst : Nat
  src : Nat
  data : List Byte
  deriving DecidableEq, Repr

/-- The stream bytes that a port sends as NOTICE packets: identifier, TOTAL, DRAM address of byte 0, and the byte range
[from, upto) (R339). -/
structure NoticeOut where
  id : Nat
  total : Nat
  addr : Nat
  from_ : Nat
  upto : Nat
  deriving DecidableEq, Repr

/-- A wall port. -/
structure WPort where
  /-- signal is detected; training sets in a row that were good, and that carried the peer's RX_OK -/
  signal : Bool := false
  good : Nat := 0
  peer : Nat := 0
  up : Bool := false
  /-- port number, role and HOPS of the last good training set -/
  nb : Nat × Nat × Nat := (0, 0, 0)
  /-- the neighbour's DREQ carries CHILD; the port is fenced (R322, R324) -/
  child : Bool := false
  fenced : Bool := false
  /-- EPOCH, ROOT and HOPS of the last beacon -/
  beacon : Option (Nat × Nat × Nat) := none
  /-- last 5 link delays, newest first; SEQ and T1 of the DREQ whose DRSP is awaited (R331) -/
  delays : List Int := []
  dreq : Option (Nat × Nat) := none
  /-- SEQ of the next BEACON and DREQ -/
  seqB : Nat := 0
  seqD : Nat := 0
  /-- SYNC packet last sent -/
  sync : List Byte := []
  /-- LSEQ of the next CMD packet, the packets without LAK by LSEQ, times the oldest was resent, packets that wait -/
  lseq : Nat := 0
  unacked : List (Nat × WCmd) := []
  resent : Nat := 0
  backlog : List WCmd := []
  /-- LSEQ of the last 8 CMD packets received, newest first; the newest is the one last acknowledged -/
  seen : List Nat := []
  /-- addresses learned from the SRC of packets that arrived here (R325) -/
  learned : List Nat := []
  /-- NOTICE bytes last sent -/
  notice : Option NoticeOut := none
  /-- symbols last sent, and the running disparity before them: true is positive (R316) -/
  sent : List Sym := []
  plus : Bool := false
  deriving DecidableEq, Repr

/-- An Equinox set in progress (R334 to R336). -/
structure EqxSet where
  set : Nat
  f : Nat
  kind : Nat
  /-- this device is the Almanac that sent it, and the members in scope -/
  root : Bool
  need : Nat
  inScope : Bool
  /-- own acknowledgement: 0 ACK, else a NAK's reason + 1 -/
  own : Option Nat := none
  /-- COUNT and NAKS of each downstream port that has answered -/
  acks : List (Nat × Nat × Nat) := []
  reason : Nat := 0
  acked : Bool := false
  /-- GO has been sent or received -/
  go : Bool := false
  /-- FSEQ_COMMIT has been written for it -/
  committed : Bool := false
  deriving DecidableEq, Repr

/-- A notice in transfer or held (R339, R340). -/
structure NoticeIn where
  id : Nat
  total : Nat
  /-- contiguous bytes staged -/
  got : Nat := 0
  plane : Nat := 0
  /-- READY and ERRORS of the subtree, ports whose NOTICE_DONE is in, own result in, NOTICE_DONE sent -/
  ready : Nat := 0
  errors : Nat := 0
  done : List Nat := []
  own : Bool := false
  sent : Bool := false
  deriving DecidableEq, Repr

/-- A NOTICE packet as a port received it (R339): good says that its CRC-32 is. -/
structure NoticePkt where
  port : Nat
  id : Nat
  off : Nat
  total : Nat
  data : List Byte
  good : Bool
  deriving DecidableEq, Repr

structure WallState where
  ports : List (Nat × WPort) := []
  upstream : Option Nat := none
  /-- ROOT of the epoch held -/
  root : Option Nat := none
  /-- the timing check of R326: not made, passed or failed -/
  timing : Option Bool := none
  /-- FRAME and FS_TIME of the last upstream beacon -/
  last : Option (Nat × Nat) := none
  /-- beacons in a row below 10 ns while acquiring, above 50 ns while locked -/
  near : Nat := 0
  far : Nat := 0
  /-- a frame step waits for the next latch point: what the counter gains, and e in ns; what of e is left, and what the
  present frame takes of it (R327) -/
  step : Option (Nat × Nat) := none
  stretchLeft : Nat := 0
  stretch : Nat := 0
  /-- Almanac: bindings of device identifiers to addresses, and the members -/
  binds : List (Nat × Nat) := []
  members : List Nat := []
  /-- ports on which JOINs have passed upward, by device identifier -/
  paths : List (Nat × Nat) := []
  /-- RESULTs that wait for a path to the Almanac -/
  results : List WCmd := []
  eqx : Option EqxSet := none
  notice : Option NoticeIn := none
  /-- the packet whose write the scan guard holds, and the packets that wait behind it (R88, R339) -/
  noticeHeld : Option NoticePkt := none
  noticeWait : List NoticePkt := []
  /-- last MSG and RD_RSP delivered: source and payload -/
  msg : Nat × List Byte := (0, [])
  rsp : Nat × List Byte := (0, [])
  deriving DecidableEq, Repr

/-! ### Parameter store (ch. 15) -/

/-- One page that an operation still programs: by atomic update, or as a page of SLOT_WRITE. -/
structure NvWrite where
  page : Nat
  data : List Byte
  slot : Bool
  deriving DecidableEq, Repr

/-- What follows once the pages of an operation are programmed. -/
inductive NvAfter where
  | done
  /-- PW_CHECK has counted the attempt on partition, kind; the candidate matched -/
  | compare (part kind : Nat) (good : Bool)
  /-- PW_CHECK has cleared the count -/
  | passed
  /-- PW_CHECK has stored the lock-out -/
  | locked
  | clearPf
  /-- margin refresh has rewritten a page; it still fails its margin reads -/
  | refreshed (page : Nat) (still : Bool)
  deriving DecidableEq, Repr

/-- The operation that the controller runs: `cmd` is false for its own (refresh, saving of lock-out minutes). -/
structure NvOp where
  cmd : Bool
  todo : List NvWrite
  after : NvAfter
  deriving DecidableEq, Repr

structure NvState where
  /-- the cells, by 64 × page + byte -/
  mem : Memory := []
  /-- the macro is powered -/
  powered : Bool := false
  /-- recovery has run since the last reset or power-good -/
  recovered : Bool := false
  /-- last journal sequence number -/
  jseq : Nat := 0
  op : Option NvOp := none
  /-- the 500 µs after a span run -/
  gap : Bool := false
  /-- pages of a PF burst that waits or runs -/
  burst : Option (List (Nat × List Byte)) := none
  /-- new commands end with PFAIL -/
  refuse : Bool := false
  /-- lock-out minutes by 2 × partition + kind, and partitions whose minutes are to be saved -/
  lock : List (Nat × Nat) := []
  saves : List Nat := []
  /-- next page of the margin refresh, and pages queued for it -/
  refreshNext : Nat := 0
  refreshQ : List Nat := []
  deriving DecidableEq, Repr

/-! ### Start-up (ch. 16) -/

/-- A command that the boot ROM sends to the flash (R389, R390): `mode` as XSPI_CMD.MODE, the bytes of the command and its
address, the dummy cycles, the data sent, and how many bytes are read. -/
structure FlashOp where
  mode : Nat
  cmd : List Byte
  dummy : Nat := 0
  data : List Byte := []
  reads : Nat := 0
  deriving DecidableEq, Repr

/-- The boot ROM beside BOOT_STATUS. -/
structure BootState where
  /-- the commands sent to the flash since the reset before this boot -/
  flash : List FlashOp := []
  /-- slots that have failed in this boot, the first candidate, the candidate -/
  failed : List Nat := []
  first : Option Nat := none
  cand : Nat := 0
  /-- PFAIL_N has stopped the ROM (R406) -/
  stopped : Bool := false
  /-- SCHED_CTRL.EN as REG_TABLE wrote it, held until the boot lock -/
  schedEn : Bool := false
  /-- the zone-sink enumeration that the ROM waits for -/
  waitEnum : Bool := false
  /-- WALL_WAIT has expired -/
  waitOver : Bool := false
  deriving DecidableEq, Repr

/-! ### Control processor (ch. 17) -/

structure CpState where
  hart : Hart := {}
  /-- tightly coupled memory, by offset from 0x0800_0000 -/
  tcm : Memory := []
  /-- the interrupt handler runs, from trap entry to MRET (R420) -/
  inHandler : Bool := false
  /-- word reserved by LR -/
  resv : Option Nat := none
  /-- the boot ROM has started the firmware, which runs (R404, R425) -/
  fwRuns : Bool := false
  /-- WFI waits for an interrupt -/
  waiting : Bool := false
  /-- calendar-clock cycles that the watchdog has counted (R413) -/
  wdt : Nat := 0
  /-- a restart has begun: the next latch point copies the active values back (R412) -/
  copyBack : Bool := false
  /-- times of the restarts of the last 600 s, in ticks of the calendar clock since boot start (R414) -/
  restarts : List Nat := []
  deriving DecidableEq, Repr

/-- The TAP and the debug module (R429 to R431). -/
structure TapState where
  ir : Nat := 1
  /-- data register as last captured -/
  dr : Nat := 0
  dbgLock : Bool := false
  halted : Bool := false
  /-- debug module: dmactive, data registers, program buffer, command error, system bus -/
  dmActive : Bool := false
  resumeAck : Bool := false
  data : Word := 0
  progbuf : List Word := []
  cmdErr : Nat := 0
  /-- sbcs as written (access size, autoincrement, read on address and on data), and its error -/
  sbcs : Word := 0
  sbErr : Nat := 0
  sbaddr : Word := 0
  sbdata : Word := 0
  /-- dpc, the writable bits of dcsr, and its cause -/
  dpc : Word := 0
  dcsr : Word := 0
  cause : Nat := 0
  deriving DecidableEq, Repr

/-- The management port (R422, R423) and the image transfer (R426). -/
structure MgmtState where
  ptr : Nat := 0
  /-- the I3C dynamic address -/
  dyn : Option Nat := none
  /-- in-band interrupts are enabled; the byte last sent by one -/
  ibiEn : Bool := false
  ibi : Option Byte := none
  reply : AuxReply := .none
  /-- mailbox that opened the image transfer, its IMAGE_LEN, the DRAM address of firmware's staging area, the bytes staged
  so far, and the slot that holds the image once IMG_END has checked and written it -/
  imgOwner : Option Nat := none
  imgLen : Nat := 0
  imgBase : Nat := 0
  imgGot : Nat := 0
  imgSlot : Option Nat := none
  /-- mailboxes whose transfer was abandoned -/
  imgLost : List Nat := []
  /-- password checks that have passed, by 16 × mailbox + 2 × partition + kind (R382) -/
  grants : List Nat := []
  /-- the request that waits for the parameter store: mailbox, its opcode, partition, kind -/
  nvJob : Option (Nat × Nat × Nat × Nat) := none
  deriving DecidableEq, Repr

/-- The xSPI port (R390, R428, R465). -/
structure XspiState where
  /-- a command waits for the boot ROM to leave the flash -/
  waits : Bool := false
  /-- level of XSPI_RST_N, and the pulses that the recovery of R390 has driven on it since RESET_N rose -/
  rstN : Bool := false
  pulses : Nat := 0
  deriving DecidableEq, Repr

/-! ### The device and the state -/

/-- Everything the device holds beside the queue of waiting commands. -/
structure Dev where
  /-- register words outside RWS bits -/
  regs : RegFile := []
  /-- shadow values of the RWS bits (R9) -/
  shadow : RegFile := []
  /-- active values of the RWS bits -/
  active : RegFile := []
  /-- the model's own counter: names the next free value (log entry 4) -/
  free : Nat := 0
  log : LogState := {}
  held : List Held := []
  pwr : PwrState := {}
  cp : CpState := {}
  ls : LsState := {}
  gdma : GdmaState := {}
  dram : DramState := {}
  codec : CodecState := {}
  retiring : List Retiring := []
  scan : ScanState := {}
  col : ColState := {}
  gate : GateState := {}
  pseq : PseqState := {}
  sched : SchedState := {}
  bl : BlState := {}
  cal : CalState := {}
  rx : RxState := {}
  wall : WallState := {}
  /-- the bytes 0x10 to 0x84 and 0x88 to 0xEF of the three mailboxes, by 256 × mailbox + offset (Table 2.10) -/
  mbox : Memory := []
  mgmt : MgmtState := {}
  nv : NvState := {}
  boot : BootState := {}
  tap : TapState := {}
  /-- the attached flash, by byte address -/
  flash : Memory := []
  xspi : XspiState := {}
  /-- calendar-clock cycles since boot start -/
  ticks : Nat := 0
  deriving DecidableEq, Repr

/-- The state of the block: the commands that wait, first in, first out, and the device. -/
structure State where
  pending : List Instr
  dev : Dev
  deriving DecidableEq, Repr

/-- The machine right after power-on reset: no command waits, every register holds its reset value, every memory
is unwritten (R8, R387; log entries 1 to 3). -/
def State.reset : State := { pending := [], dev := {} }

end Sys2Proof.Machine
end

