-- ==== Sys2Proof/Machine/Ops.lean ====
section
/-! DEFINITION.  The named operations that every family shares: memory bytes, registers by field, shadows and
commits, events with the log, and free values. -/

set_option Elab.async false

namespace Sys2Proof.Machine

/-! ### Bytes of a memory -/

/-- The byte at an address; an unlisted address reads as 0 (log entry 1). -/
def Memory.get : Memory → Nat → Byte
  | [], _ => 0
  | (b, v) :: rest, a => if b = a then v else Memory.get rest a

/-- Insert or replace an entry, keeping addresses rising. -/
def Memory.insert : Memory → Nat → Byte → Memory
  | [], a, v => [(a, v)]
  | (b, w) :: rest, a, v =>
    if a < b then (a, v) :: (b, w) :: rest
    else if b = a then (a, v) :: rest
    else (b, w) :: Memory.insert rest a v

/-- Write one byte; writing the value that an unlisted address reads as removes the entry. -/
def Memory.set (m : Memory) (a : Nat) (v : Byte) : Memory :=
  if v = 0 then m.filter (fun c => c.1 != a) else Memory.insert m a v

/-- `n` bytes from address `a` on. -/
def Memory.read (m : Memory) (a n : Nat) : List Byte :=
  (List.range n).map fun i => Memory.get m (a + i)

/-- Write bytes at rising addresses from `a` on. -/
def Memory.write (m : Memory) (a : Nat) : List Byte → Memory
  | [] => m
  | b :: bs => Memory.write (Memory.set m a b) (a + 1) bs

/-- `n` bytes from `a` on become 0. -/
def Memory.clear (m : Memory) (a n : Nat) : Memory :=
  m.filter fun c => c.1 < a || a + n ≤ c.1

/-! ### Register words -/

/-- The word listed at a bus address. -/
def RegFile.find : RegFile → Nat → Option Word
  | [], _ => none
  | (b, w) :: rest, a => if b = a then some w else RegFile.find rest a

/-- Insert or replace a word, keeping addresses rising. -/
def RegFile.put : RegFile → Nat → Word → RegFile
  | [], a, v => [(a, v)]
  | (b, w) :: rest, a, v =>
    if a < b then (a, v) :: (b, w) :: rest
    else if b = a then (a, v) :: rest
    else (b, w) :: RegFile.put rest a v

/-- The part of a register outside its RWS bits. -/
def Dev.plainWord (d : Dev) (r : Reg) (i : Nat) : Nat :=
  (match RegFile.find d.regs (r.at i) with
  | some w => w.toNat
  | none => r.reset i) &&& (0xFFFFFFFF - r.rws)

/-- The RWS bits of a register in one of the two RWS stores. -/
def rwsWord (f : RegFile) (r : Reg) (i : Nat) : Nat :=
  (match RegFile.find f (r.at i) with
  | some w => w.toNat
  | none => r.reset i) &&& r.rws

/-- The word in force: plain bits and active RWS bits. -/
def Dev.rd (d : Dev) (r : Reg) (i : Nat := 0) : Nat :=
  d.plainWord r i ||| (if r.rws = 0 then 0 else rwsWord d.active r i)

/-- The word as a bus read shows it: plain bits and shadow RWS bits, WO bits 0 (R8). -/
def Dev.rdShadow (d : Dev) (r : Reg) (i : Nat := 0) : Nat :=
  (d.plainWord r i ||| (if r.rws = 0 then 0 else rwsWord d.shadow r i)) &&& r.rd

/-- A field's value in force. -/
def Dev.get (d : Dev) (f : Field) (i : Nat := 0) : Nat := bits (d.rd f.reg i) f.hi f.lo

/-- A field as its shadow holds it. -/
def Dev.getShadow (d : Dev) (f : Field) (i : Nat := 0) : Nat :=
  bits (d.plainWord f.reg i ||| rwsWord d.shadow f.reg i) f.hi f.lo

/-- A field that is not 0 in force. -/
def Dev.on (d : Dev) (f : Field) (i : Nat := 0) : Bool := d.get f i != 0

/-- The hardware stores a whole plain word; an index that the register does not have names no word. -/
def Dev.putWord (d : Dev) (r : Reg) (i : Nat) (w : Nat) : Dev :=
  if r.has i then { d with regs := RegFile.put d.regs (r.at i) (BitVec.ofNat 32 w) } else d

/-- The hardware writes a field: a plain field at once; an RWS field in its shadow and its active value. -/
def Dev.put (d : Dev) (f : Field) (v : Nat) (i : Nat := 0) : Dev :=
  if bit f.reg.rws f.lo then
    if f.reg.has i then { d with
      shadow := RegFile.put d.shadow (f.reg.at i) (BitVec.ofNat 32 (putBits (rwsWord d.shadow f.reg i) f.hi f.lo v))
      active := RegFile.put d.active (f.reg.at i) (BitVec.ofNat 32 (putBits (rwsWord d.active f.reg i) f.hi f.lo v)) }
    else d
  else d.putWord f.reg i (putBits (d.plainWord f.reg i) f.hi f.lo v)

/-- The shadow alone of an RWS field is written. -/
def Dev.putShadow (d : Dev) (f : Field) (v : Nat) (i : Nat := 0) : Dev :=
  if f.reg.has i then { d with
    shadow := RegFile.put d.shadow (f.reg.at i) (BitVec.ofNat 32 (putBits (rwsWord d.shadow f.reg i) f.hi f.lo v)) }
  else d

/-- The hardware sets or clears a one-bit field. -/
def Dev.flag (d : Dev) (f : Field) (b : Bool) (i : Nat := 0) : Dev := d.put f b.toNat i

/-- A counter field goes up by `n`, wrapping at its width. -/
def Dev.inc (d : Dev) (f : Field) (i : Nat := 0) (n : Nat := 1) : Dev := d.put f (d.get f i + n) i

/-- A counter field goes up by `n`, saturating at its width. -/
def Dev.incSat (d : Dev) (f : Field) (i : Nat := 0) (n : Nat := 1) : Dev :=
  d.put f (min (d.get f i + n) (2 ^ (f.hi + 1 - f.lo) - 1)) i

/-- A field as a signed number. -/
def Dev.getS (d : Dev) (f : Field) (i : Nat := 0) : Int := sgn (f.hi + 1 - f.lo) (d.get f i)

/-- Every shadow is copied to its active value (R27). -/
def Dev.commitShadows (d : Dev) : Dev := { d with active := d.shadow }

/-- Every active value is copied back to its shadow (R30, R336, R412). -/
def Dev.discardShadows (d : Dev) : Dev := { d with shadow := d.active, scan := { d.scan with targetWritten := false } }

/-- The device as it would be if its shadows were in force: what the checks of a committed set look at. -/
def Dev.asCommitted (d : Dev) : Dev := d.commitShadows

/-- A field that an RWS write has changed and no commit has applied yet. -/
def Dev.changes (d : Dev) (f : Field) (i : Nat := 0) : Bool := d.get f i != d.getShadow f i

/-! ### The event log (R441, R442) -/

/-- FLAGS, FRAME and TIME of an entry made now. -/
def Dev.logEntry (d : Dev) (code detail sev origin : Nat) : LogEntry :=
  { time := d.get F.CAL_SEC_SEC, lseq := 0, frame := d.get F.FRAME_COUNT_FRAME % 2 ^ 16, code := code % 2 ^ 16,
    detail := detail % 2 ^ 16, rep := 1, sev := sev, level := d.get F.FSEQ_STATUS_LADDER_LEVEL, origin := origin }

/-- An entry joins the buffer, or is discarded and counted when the buffer holds 16 (R442); a frozen buffer
discards it without a count (R444). -/
def Dev.logAppend (d : Dev) (e : LogEntry) : Dev :=
  if d.log.frozen || !d.log.started then d
  else if d.log.entries.length < 16 then
    let d := { d with log := { d.log with entries := d.log.entries ++ [e] } }
    d.put F.LOG_STATUS_COUNT d.log.entries.length
  else d.incSat F.LOG_STATUS_DROPPED

/-- An entry of the buffer that a repeat of a hardware event folds into (R442). -/
def foldsInto (now holdoff code detail : Nat) (e : LogEntry) : Bool :=
  e.origin == 0 && e.code == code && e.detail == detail && decide ((now + 2 ^ 32 - e.time) % 2 ^ 32 < holdoff)

/-- Fold into the first entry that takes it, if any. -/
def foldEntry (now holdoff code detail : Nat) : List LogEntry → Option (List LogEntry)
  | [] => none
  | e :: es =>
    if foldsInto now holdoff code detail e then some ({ e with rep := min 255 (e.rep + 1) } :: es)
    else (foldEntry now holdoff code detail es).map (e :: ·)

/-- The hardware logs an event: folded into an entry within HOLDOFF, or appended (R442). -/
def Dev.logHw (d : Dev) (code detail sev : Nat) : Dev :=
  if d.log.frozen || !d.log.started then d
  else
    match foldEntry (d.get F.CAL_SEC_SEC) (d.get F.LOG_CTRL_HOLDOFF) (code % 2 ^ 16) (detail % 2 ^ 16) d.log.entries with
    | some es => { d with log := { d.log with entries := es } }
    | none => d.logAppend (d.logEntry code detail sev 0)

/-! ### Events (R11, R419, R439, R440) -/

/-- The EVENT bit of an event is set. -/
def Dev.setEvent (d : Dev) (e : Event) (detail : Nat) : Dev :=
  let i := e.lo + (if e.wide then detail else 0)
  d.putWord e.reg 0 (putBit (d.plainWord e.reg 0) i true)

/-- Raise an event at a given severity: its EVENT bit sets, and FAULT and ALARM are logged (R442). -/
def Dev.raiseSev (d : Dev) (e : Event) (sev detail : Nat) : Dev :=
  let d := d.setEvent e detail
  if 2 ≤ sev then d.logHw e.code detail sev else d

/-- Raise an event; the detail is its bracketed index, or 0 (R440). -/
def Dev.raise (d : Dev) (e : Event) (detail : Nat := 0) : Dev := d.raiseSev e e.sev detail

/-- Raise an event when a condition holds. -/
def Dev.raiseIf (d : Dev) (c : Bool) (e : Event) (detail : Nat := 0) : Dev := if c then d.raise e detail else d

/-! ### Free values -/

/-- Apply a change when a condition holds. -/
def Dev.when (d : Dev) (c : Bool) (f : Dev → Dev) : Dev := if c then f d else d

/-- The number that names the next free value, and the device after it is taken (log entry 4). -/
def Dev.fresh (d : Dev) : Nat × Dev := (d.free, { d with free := d.free + 1 })

/-! ### Association lists -/

/-- The value listed under a key. -/
def assoc {α : Type} (k : Nat) : List (Nat × α) → Option α
  | [] => none
  | (b, v) :: rest => if b = k then some v else assoc k rest

/-- The list with the key's value replaced, or added in rising key order. -/
def assocSet {α : Type} (k : Nat) (v : α) : List (Nat × α) → List (Nat × α)
  | [] => [(k, v)]
  | (b, w) :: rest =>
    if k < b then (k, v) :: (b, w) :: rest
    else if b = k then (k, v) :: rest
    else (b, w) :: assocSet k v rest

/-- The list without a key. -/
def assocDel {α : Type} (k : Nat) (l : List (Nat × α)) : List (Nat × α) := l.filter fun p => p.1 != k

/-- A number joins a rising list without repeats. -/
def insertN (x : Nat) : List Nat → List Nat
  | [] => [x]
  | y :: ys => if x < y then x :: y :: ys else if x = y then y :: ys else y :: insertN x ys

/-- A number leaves a list. -/
def removeN (x : Nat) (l : List Nat) : List Nat := l.filter (· != x)

/-- Fold of a device change over a list. -/
def Dev.each {α : Type} (d : Dev) (l : List α) (f : Dev → α → Dev) : Dev := l.foldl f d

/-- The meaning of a command that changes the device: the queue is untouched. -/
def State.upd (s : State) (f : Dev → Dev) : State := { s with dev := f s.dev }

end Sys2Proof.Machine
end

