-- ==== Sys2Proof/Machine/Clock.lean ====
section
/-! DEFINITION.  The calendar tick: what time alone does, with no command (R33, R409, R413; log entry 26). -/

set_option Elab.async false

namespace Sys2Proof.Machine

/-- The calendar counts 32,768 cycles to the second (R33). -/
def Dev.calTick (d : Dev) : Dev :=
  let sub := d.get F.CAL_SUB_SUB + 1
  if sub < 32768 then d.put F.CAL_SUB_SUB sub else (d.put F.CAL_SUB_SUB 0).inc F.CAL_SEC_SEC

/-- MTIME counts microseconds: those that a cycle which began at `sub` takes (R409). -/
def mtimeStep (sub : Nat) : Nat := 15625 * (sub + 1) / 512 - 15625 * sub / 512

/-- MTIME advances. -/
def Dev.mtimeTick (d : Dev) : Dev :=
  let t := d.rd R.MTIME 0 + d.rd R.MTIME 1 * 2 ^ 32 + mtimeStep (d.get F.CAL_SUB_SUB)
  (d.putWord R.MTIME 0 (t % 2 ^ 32)).putWord R.MTIME 1 (t / 2 ^ 32)

/-- One cycle of the calendar clock. -/
def Dev.tick (d : Dev) : Dev :=
  let d := { d.mtimeTick.calTick with ticks := d.ticks + 1 }
  if d.on F.WDT_CTRL_EN && !d.tap.halted then { d with cp := { d.cp with wdt := d.cp.wdt + 1 } } else d

end Sys2Proof.Machine
end

