-- ==== Sys2Proof/Machine/Crc.lean ====
section
/-! DEFINITION.  The check words of the device: CRC-16 (R138, R166) and CRC-32 (R176). -/

set_option Elab.async false

namespace Sys2Proof.Machine

/-- One bit step of CRC-16, polynomial 0x1021, most significant bit first. -/
def crc16Bit (c : Nat) (b : Bool) : Nat :=
  let fb := bit c 15 != b
  let c := c * 2 % 2 ^ 16
  if fb then c ^^^ 0x1021 else c

/-- CRC-16 over one byte, most significant bit first. -/
def crc16Byte (c : Nat) (x : Byte) : Nat :=
  [7, 6, 5, 4, 3, 2, 1, 0].foldl (fun c i => crc16Bit c (bit x.toNat i)) c

/-- CRC-16: initial value 0xFFFF, no reflection, no final XOR (R166). -/
def crc16 (bs : List Byte) : Nat := bs.foldl crc16Byte 0xFFFF

/-- One bit step of the reflected CRC-32. -/
def crc32Bit (c : Nat) : Nat := if bit c 0 then c / 2 ^^^ 0xEDB88320 else c / 2

/-- CRC-32 register over one byte. -/
def crc32Byte (c : Nat) (x : Byte) : Nat :=
  (List.range 8).foldl (fun c _ => crc32Bit c) (c ^^^ x.toNat)

/-- The CRC-32 register after more bytes (a running CRC keeps this value, R176). -/
def crc32Run (c : Nat) (bs : List Byte) : Nat := bs.foldl crc32Byte c

/-- CRC-32 of IEEE 802.3 (R176). -/
def crc32 (bs : List Byte) : Nat := crc32Run 0xFFFFFFFF bs ^^^ 0xFFFFFFFF

end Sys2Proof.Machine
end

