-- ==== Sys2Proof/Machine/LineCode.lean ====
section
/-! DEFINITION.  The 8b/10b code of the Col lanes, the zone bus and the wall ports (R134, R135, R242, R316): code groups
and running disparity.  The spec names the code of Fibre Channel and prints no table of it: the tables are PRESUMED (log
entry 80). -/

set_option Elab.async false

namespace Sys2Proof.Machine

/-- Ones among the low `n` bits. -/
def onesOf (n v : Nat) : Nat := ((List.range n).filter (bit v)).length

/-- Sub-blocks abcdei of D.0 to D.31 at negative disparity, a first. -/
def sixData : List Nat :=
  [0b100111, 0b011101, 0b101101, 0b110001, 0b110101, 0b101001, 0b011001, 0b111000,
   0b111001, 0b100101, 0b010101, 0b110100, 0b001101, 0b101100, 0b011100, 0b010111,
   0b011011, 0b100011, 0b010011, 0b110010, 0b001011, 0b101010, 0b011010, 0b111010,
   0b110011, 0b100110, 0b010110, 0b110110, 0b001110, 0b101110, 0b011110, 0b101011]

/-- Sub-blocks fghj of data and of control symbols at negative disparity. -/
def fourData : List Nat := [0b1011, 0b1001, 0b0101, 0b1100, 0b1101, 0b1010, 0b0110, 0b1110]
def fourCtl : List Nat := [0b1011, 0b0110, 0b1010, 0b1100, 0b1101, 0b0101, 0b1001, 0b0111]

/-- The sub-block abcdei of a symbol at a disparity (true is positive): control symbols use that of K.28 or of their data
symbol; an unbalanced one, and that of D.7, is inverted at positive disparity. -/
def sixOf (pos ctl : Bool) (x : Nat) : Nat :=
  let v := if ctl && x == 28 then 0b001111 else nth sixData x
  if pos && (onesOf 6 v != 3 || (x == 7 && !ctl)) then 63 - v else v

/-- D.x.7 takes its alternate sub-block, which keeps runs short. -/
def altSeven (pos : Bool) (x : Nat) : Bool := if pos then [11, 13, 14].contains x else [17, 18, 20].contains x

/-- The sub-block fghj of a symbol at the disparity behind its abcdei. -/
def fourOf (pos ctl : Bool) (x y : Nat) : Nat :=
  if ctl then (if pos then 15 - nth fourCtl y else nth fourCtl y)
  else
    let v := if y = 7 ∧ altSeven pos x then 0b0111 else nth fourData y
    if pos && (onesOf 4 v != 2 || y == 3) then 15 - v else v

/-- The code group of a symbol, first bit on the line most significant, and the running disparity behind it. -/
def codeGroup (pos : Bool) (s : Sym) : Nat × Bool :=
  let (ctl, b) := match s with | .data b => (false, b.toNat) | .ctl b => (true, b.toNat)
  let six := sixOf pos ctl (b % 32)
  let mid := pos != (onesOf 6 six != 3)
  let four := fourOf mid ctl (b % 32) (b / 32)
  (16 * six + four, mid != (onesOf 4 four != 2))

/-- Running disparity behind symbols. -/
def disparityAfter (pos : Bool) (l : List Sym) : Bool := l.foldl (fun p s => (codeGroup p s).2) pos

/-- Code groups of symbols sent one after the other. -/
def codeGroups : Bool → List Sym → List Nat
  | _, [] => []
  | p, s :: l => (codeGroup p s).1 :: codeGroups (codeGroup p s).2 l

end Sys2Proof.Machine
end

