-- ==== Sys2Proof/Config.lean ====
section
/-! DEFINITION.  What the spec leaves open, as constants without a body: nothing can evaluate them, so a claim
holds for every value they may have.  A free value is numbered by the device's counter of free values. -/

set_option Elab.async false

namespace Sys2Proof.Config

/-- Byte `i` of the free value that a number names (log entry 4). -/
opaque freeByte : Nat → Nat → Byte

/-- The tokens that the stream compressor forms for a span after the given window (R178 leaves the choice open;
log entry 7).  They are used when they decode to the span and are no longer than one literal run allows. -/
opaque spanTokens : List Byte → List Byte → List Byte

/-- KERNEL coefficient [dy + 4][dx + 4], Q0.16: the spec names no register that holds it (R102; log entry 9). -/
opaque kernel : Nat → Nat → BitVec 16

/-- SINK_OUI, byte by byte: the spec names no place of the boot image that holds it (Table 2.10; log entry 11). -/
opaque oui : Nat → Byte

/-- Firmware major and minor of an image, from its VERSION word (Table 2.10; log entry 11). -/
opaque fwRev : Word → Nat → Byte

/-- A DPCD byte that the DisplayPort standard fixes and the spec does not state (R39; log entry 12). -/
opaque dpcdByte : Nat → Byte

/-- An identification CSR (mvendorid, marchid, mimpid, mhartid) of a core: 256 is the control processor, else a dale
(log entry 13). -/
opaque identCsr : Nat → Nat → Word

/-- The boot ROM, byte by byte: the spec gives what it does, not what it holds (log entry 14). -/
opaque bootRom : Nat → Byte

/-- REASON byte of a NAK that the wall block forms: 1 TIMING, 2 UNLOCKED, 3 PAST, 4 BUSY, 5 FEED, 6 NOTICE, 7 a restart of
the control processor; the spec
names the reasons and states no code (R335, R341, R412; log entry 15). -/
opaque nakReason : Nat → Byte

/-- Status byte of RD_RSP for a read that was good, or not: the spec does not code it (R319; log entry 21). -/
opaque rdStatus : Bool → Byte

/-- The flash byte after a program or erase command: opcode, old byte, byte sent.  The spec names no command of the
flash but reads (R389, R428; log entry 19). -/
opaque flashByte : Byte → Byte → Byte → Byte

/-- The Read opcode of Profile 1.0, which R389 names and does not state (log entry 90). -/
opaque profileRead : Byte

/-- The 48-bit provisioned ID of the I3C target, most significant byte first (R422; log entry 23). -/
opaque pid : Nat → Byte

/-- What a boundary-scan register captures: the spec gives the instruction, not the register (R429; log entry 24). -/
opaque boundary : Nat → Nat

/-- The level that a boundary-scan register gives a pad group (R429; log entry 24). -/
opaque tapPad : Nat → Nat → Nat

/-- Address bits of the debug transport, and what of it the RISC-V debug specification leaves to an implementation
(R430; log entry 25). -/
opaque dmiBits : BitVec 6

end Sys2Proof.Config
end

