-- ==== Sys2Proof/Machine/Domains.lean ====
section
/-! DEFINITION.  Power domains: their state, and the wake that an access to a sleeping domain starts
(R344 to R347; Table 14.1 numbers the domains). -/

set_option Elab.async false

namespace Sys2Proof.Machine

/-- Domain numbers of Table 14.1. -/
def domCP : Nat := 1
def domRXA : Nat := 2
def domDSC : Nat := 4
def domCOMP : Nat := 5
def domCORR : Nat := 6
def domDRIVE : Nat := 7
def domCOLA : Nat := 8
def domCOLB : Nat := 9
def domCODEC : Nat := 10
def domLS : Nat := 11
def domMEMC : Nat := 12
def domMEMP : Nat := 13
def domWALL : Nat := 14
def domBL : Nat := 15
def domGlen (g : Nat) : Nat := 16 + g

/-- A domain's state: 0 ON, 1 RET, 2 powering down, 3 waking (Table 14.23). -/
def Dev.domState (d : Dev) (k : Nat) : Nat := d.get F.DOM_STATUS_STATE k

/-- AO is always ON; any other domain when its state reads ON (R344). -/
def Dev.domOn (d : Dev) (k : Nat) : Bool := k == 0 || d.domState k == 0

/-- The PLLs of Table 1.10. -/
inductive Pll where
  | cp | dale | pipe | mem | rx0 | rx1 | col0 | col1 | wall | bl
  deriving DecidableEq, Repr

/-- The domains that a PLL feeds (Table 1.10). -/
def Pll.feeds : Pll → List Nat
  | .cp => [domCP]
  | .dale => (List.range 64).map domGlen
  | .pipe => [domCOMP, domCORR, domDRIVE, domCODEC, domLS]
  | .mem => [domMEMC, domMEMP]
  | .rx0 => [domRXA]
  | .rx1 => [domRXA + 1]
  | .col0 => [domCOLA]
  | .col1 => [domCOLB]
  | .wall => [domWALL]
  | .bl => [domBL]

/-- A PLL runs from the moment the first domain it feeds starts to wake until the last one has powered down (R34). -/
def Dev.pllRuns (d : Dev) (p : Pll) : Bool := p.feeds.any fun k => d.domState k != 1

/-- A regulator request goes out (R351). -/
def Dev.vregRequest (d : Dev) (rail target : Nat) (why : VWhy) : Dev :=
  { d with pwr := { d.pwr with vreqs := d.pwr.vreqs.filter (fun v => v.rail != rail) ++ [⟨rail, target, false, false, why⟩] } }

/-- Device state: 0 RUN, 1 FALLOW, 2 VIGIL, 3 DORMANT, 4 entering, 5 exiting (Table 14.13). -/
def Dev.pwrState (d : Dev) : Nat := d.get F.PWR_STATE_STATE

/-- At the RET point of VDD_CORE a wake needs the raise to NOM first (R346); an exit has asked for it already. -/
def Dev.raiseForWake (d : Dev) : Dev :=
  if d.get F.VREG_STATUS_POINT = 0 ∧ d.pwr.vreqs.all (fun v => v.rail != 0) then d.vregRequest 0 1 .nominal else d

/-- Start the wake of a domain: from RET at once, from a power-down as soon as that ends (R346, R347). -/
def Dev.startWake (d : Dev) (k : Nat) : Dev :=
  if d.domState k = 1 then ((d.put F.DOM_STATUS_STATE 3 k).inc F.DOM_STATUS_WAKES k).raiseForWake
  else if d.domState k = 2 then { d with pwr := { d.pwr with wakeAfter := insertN k d.pwr.wakeAfter } }
  else d

/-- A domain is ready at once: what a command that spans the whole wake does (log entry 6). -/
def Dev.wakeNow (d : Dev) (k : Nat) : Dev :=
  if d.domOn k then d
  else (d.put F.DOM_STATUS_STATE 0 k).inc F.DOM_STATUS_WAKES k

/-- An access stalls: it is kept, and every domain it needs starts to wake. -/
def Dev.stall (d : Dev) (a : BusAcc) (doms : List Nat) : Dev :=
  { d with pwr := { d.pwr with stalled := d.pwr.stalled ++ [a] } }.each doms Dev.startWake

/-- Start the power-down of a domain that is ON (R345). -/
def Dev.startDown (d : Dev) (k : Nat) : Dev := if d.domState k = 0 then d.put F.DOM_STATUS_STATE 2 k else d

/-- A register write at address `a` reaches domain `k` at once: the domain is ON and no older store of the processor to
the address stalls (R25, R346). -/
def Dev.reaches (d : Dev) (k a : Nat) : Bool := d.domOn k && d.pwr.stalled.all fun q => q.master != .cp || q.addr != a

/-- The effect of a register write to domain `k`: performed when it reaches it, else stalled as the store of `w` at
address `a` (R25, R346). -/
def Dev.viaDomain (d : Dev) (k : Nat) (a w : Nat) (f : Dev → Dev) : Dev :=
  if d.reaches k a then f d else d.stall ⟨.cp, true, a, 4, w⟩ [k]

/-! ### Wake sources (R356, R361, R365) -/

/-- The device is in a wall (R314). -/
def Dev.inWall (d : Dev) : Bool := d.on F.WALL_CTRL_EN

/-- The device holds the Almanac role: a manager from start, or by Table 13.7's STATE 5. -/
def Dev.isAlmanac (d : Dev) : Bool := d.get F.WALL_STATUS_STATE == 5

/-- The PMBus rail that is VDD_PHY (Table 19.17). -/
def Dev.phyRail (d : Dev) : Option Nat :=
  (firstIdx 15 fun i => d.on F.PIN_VREG_EN (i + 1) && d.get F.PIN_VREG_KIND (i + 1) == 1).map (· + 1)

/-- An exit starts: the source is recorded with the calendar time; from FALLOW MEMC and CORR wake and channels 0–6
leave self-refresh (R359); from VIGIL or DORMANT the supplies are raised first (R363, R365).  PENDING shows RUN while a command's
exit runs (Table 14.13). -/
def Dev.startExit (d : Dev) (src detail : Nat) : Dev :=
  let st := d.pwrState
  let d := (((d.put F.LAST_WAKE_SRC src).put F.LAST_WAKE_DETAIL detail).put F.LAST_WAKE_SEC_SEC (d.get F.CAL_SEC_SEC)).put
    F.LAST_WAKE_SUB_SUB (d.get F.CAL_SUB_SUB)
  let d := ((d.inc F.LAST_WAKE_COUNT).put F.PWR_STATE_STATE 5).put F.PWR_STATE_PENDING (if 11 ≤ src ∧ src ≤ 13 then 0 else 0xF)
  let d := { d with pwr := { d.pwr with origin := st, exitAfter := false, holdEnd := false } }
  if st = 1 then
    ((d.startWake domMEMC).startWake domCORR).each (List.range 7) fun d ch =>
      if d.get F.DRAM_CH_STATUS_STATE ch = 4 then d.put F.DRAM_CH_STATUS_STATE 5 ch else d
  else
    let d := d.vregRequest 0 1 .exit
    match d.phyRail with
    | some k => if d.pwr.phyOff then d.vregRequest k 1 .exit else d
    | none => d

/-- A domain of the FALLOW entry that RUN marks ON: CORR and MEMC, a receiver whose port PORT_MODE enables, DSC while DSC_ON
(Table 14.4). -/
def Dev.fallowWakes (d : Dev) : List Nat :=
  let mode := d.get F.RX_MODE_PORT_MODE
  [domCORR, domMEMC] ++ (idxs 2 fun p => mode == p || decide (2 ≤ mode)).map (domRXA + ·) ++ (if d.on F.RX_PORT_STATUS_DSC_ON 0 || d.on F.RX_PORT_STATUS_DSC_ON 1 then [domDSC] else [])

/-- The entry into FALLOW is abandoned before its domains are in RET: the device stays in RUN and dispatches from the
next latch point; a domain that has begun to power down wakes as soon as that ends (R345, R347, R358).  A capture in
progress completes, one that has not begun falls away. -/
def Dev.abandonFallow (d : Dev) : Dev :=
  let d := (d.put F.PWR_STATE_STATE 0).put F.PWR_STATE_PENDING 0xF
  let d := if d.pwr.captured then
      (d.each d.fallowWakes Dev.startWake).each (List.range 7) fun d ch =>
        if d.get F.DRAM_CH_STATUS_STATE ch = 4 then d.put F.DRAM_CH_STATUS_STATE 5 ch else d
    else d
  { d with pwr := { d.pwr with target := 0, captured := false, captureNext := false, noDispatch := false } }

/-- A wake acts on the state in force: it starts an exit, abandons an entry into FALLOW, or runs an entry into VIGIL or
DORMANT to its end first (R358 to R360, R365). -/
def Dev.actWake (d : Dev) (src detail : Nat) : Dev :=
  match d.pwrState with
  | 1 | 2 | 3 => d.startExit src detail
  | 4 => if d.pwr.target = 1 then d.abandonFallow
    else if d.pwr.exitAfter then d
    else { d with pwr := { d.pwr with exitAfter := true, exitSrc := (src, detail) } }
  | _ => d

/-- An AO detector latches a wake source that WAKE_EN enables, or FALLOW_FAIL (14) whatever WAKE_EN holds; on a device in
a wall it is recorded and starts nothing (R354, R356, R365). -/
def Dev.latchWake (d : Dev) (src detail : Nat) : Dev :=
  if src = 14 ∨ bit (d.get F.WAKE_EN_SRC) (src - 1) then
    let d := (d.put F.WAKE_PENDING_SRC (putBit (d.get F.WAKE_PENDING_SRC) (src - 1) true)).raise Ev.WAKE
    if d.inWall then d else d.actWake src detail
  else d

/-- A drop condition of the ladder holds: it waits for the next latch point (R37, R435). -/
def Dev.cause (d : Dev) (c : Nat) : Dev :=
  { d with scan := { d.scan with causes := insertN c d.scan.causes } }

/-- FALLOW_VALID clears: at level 2 that is drop cause 4 (Table 1.11), and in FALLOW it latches FALLOW_FAIL (R356). -/
def Dev.clearFallow (d : Dev) : Dev :=
  if d.on F.COMP_CTRL_FALLOW_VALID then
    let d := (d.put F.COMP_CTRL_FALLOW_VALID 0).cause 4
    if d.pwrState = 1 then d.latchWake 14 0 else d
  else d

end Sys2Proof.Machine
end

