-- ==== Sys2Proof/Machine/LineStore.lean ====
section
/-! DEFINITION.  The line store (R268 to R284): words with SECDED, port accesses with arbitration and collisions,
bank states with the retention check, and the background region test. -/

set_option Elab.async false

namespace Sys2Proof.Machine

/-- Rank of a status: the higher number is reported (Table 11.1). -/
def LsStatus.rank : LsStatus → Nat
  | .ok => 0 | .collide => 1 | .refused => 2 | .bankOff => 3 | .ecc => 4

/-- The status that ranks higher. -/
def LsStatus.worse (a b : LsStatus) : LsStatus := if a.rank < b.rank then b else a

/-- Bank of a word (R268). -/
def lsBankOf (w : Nat) : Nat := w / 16384

/-- Words of a bank. -/
def inBank (k w : Nat) : Bool := lsBankOf w == k

/-- The word accesses of a span of bytes: word, first byte within it, bytes of it (R270). -/
def lsSpans (fuel a n : Nat) : List (Nat × Nat × Nat) :=
  match fuel with
  | 0 => []
  | fuel + 1 =>
    if n = 0 then []
    else
      let m := min n (16 - a % 16)
      (a / 16, a % 16, m) :: lsSpans fuel (a + m) (n - m)

/-- Do [a, a + n) and [b, b + m) meet? -/
def overlaps (a n b m : Nat) : Bool := decide (a < b + m) && decide (b < a + n)

/-- First byte of LUT copy `n` (R112). -/
def Dev.lutCopy (d : Dev) (n : Nat) : Nat := d.get F.LUT_BASE_BASE * 16 + n * 0xA000

/-- First byte of overdrive table copy `n` (R116). -/
def Dev.odCopy (d : Dev) (n : Nat) : Nat := d.get F.OD_TABLE_BASE_BASE * 16 + n * 0xD000

/-- First byte of zone-context area `a` (R210). -/
def Dev.ctxArea (d : Dev) (a : Nat) : Nat := d.get F.CTX_AREA_BASE a * 16

/-- A write into an area that its owner protects is refused (Table 11.1): the LUT copy in use (R112), the overdrive
copy in use (R116), and the zone-context areas while the scheduler runs (R210). -/
def Dev.lsProtected (d : Dev) (a n : Nat) : Option (Option Event) :=
  if overlaps a n (d.lutCopy (d.get F.CORR_CTRL_LUT_SEL)) 0xA000 then some (some Ev.LUT_IN_USE)
  else if overlaps a n (d.odCopy (d.get F.DRIVE_CTRL_OD_SEL)) 52416 then some (some Ev.OD_IN_USE)
  else if d.on F.SCHED_CTRL_EN && (overlaps a n (d.ctxArea 0) 0x100000 || overlaps a n (d.ctxArea 1) 0x100000) then
    some none
  else none

/-- Every access of the port is urgent (R283). -/
def Dev.lsUrgent (d : Dev) (p : Nat) : Bool :=
  d.on F.LS_PORT_CFG_RT p || d.on F.LS_PORT_CFG_URGENT p || (p == 0 && d.cp.inHandler)

/-- The region test stops and the 16 words are restored (R282); after 8 consecutive aborts the engine moves on. -/
def Dev.lsAbortTest (d : Dev) : Dev :=
  match d.ls.region with
  | none => d
  | some r =>
    if d.ls.aborts + 1 < 8 then { d with ls := { d.ls with region := none, aborts := d.ls.aborts + 1 } }
    else
      ({ d with ls := { d.ls with region := none, aborts := 0, regionNext := (r + 1) % 65536 } }.inc
        F.LS_TEST_SKIP_COUNT_COUNT).raise Ev.LS_TEST_SKIP

/-- A port reaches a word of the held region: an urgent access aborts the test (R282). -/
def Dev.lsMeetTest (d : Dev) (p w : Nat) : Dev :=
  if d.ls.region = some (w / 16) ∧ d.lsUrgent p = true then d.lsAbortTest else d

/-- The retention check of bank `k` ends: the CRC-32 of its bytes against the signature (R278, R279). -/
def Dev.lsRetCheck (d : Dev) (k : Nat) : Dev :=
  let ok := !(d.ls.uncorr.any (inBank k)) &&
    crc32 (Memory.read d.ls.mem (k * 0x40000) 0x40000) == d.get F.LS_RET_SIG_SIG k
  let d := (d.put F.LS_BANK_STATUS_STATE 0 k).put F.LS_BANK_STATUS_CHECKING 0 k
  if ok then d
  else ((d.put F.LS_BANK_STATUS_RET_FAIL 1 k).put F.LS_EVENT_INFO_RET_BANK k).raise Ev.RET_FAIL k

/-- A request reaches bank `k`: a signature in progress is abandoned (R277); a command that spans a whole wake
finishes the check of a bank in retention (log entry 6). -/
def Dev.lsTouchBank (d : Dev) (k : Nat) : Dev :=
  let d := if d.on F.LS_BANK_STATUS_ENTERING k then d.put F.LS_BANK_STATUS_ENTERING 0 k else d
  if d.get F.LS_BANK_STATUS_STATE k = 1 then d.lsRetCheck k else d

/-- A word that an error response names (R272, R279). -/
def Dev.lsReport (d : Dev) (e : Event) (w : Nat) : Dev := (d.put F.LS_ECC_STATUS_WORD w).raise e

/-- A single-bit error of a word is corrected and written back (R272). -/
def Dev.lsCorrect (d : Dev) (w : Nat) : Dev :=
  if d.ls.corr.contains w then
    ({ d with ls := { d.ls with corr := removeN w d.ls.corr } }.inc F.LS_CORR_COUNT_COUNT).raise Ev.LS_CORR
  else d

/-- Read `n` bytes from byte `o` of word `w` (R272). -/
def Dev.lsReadWord (d : Dev) (p w o n : Nat) : Dev × LsStatus × List Byte :=
  let d := (d.lsMeetTest p w).lsTouchBank (lsBankOf w)
  if d.get F.LS_BANK_STATUS_STATE (lsBankOf w) = 2 then (d.lsReport Ev.LS_BANK_OFF w, .bankOff, [])
  else if d.ls.uncorr.contains w then (d.lsReport Ev.LS_UNCORR w, .ecc, [])
  else (d.lsCorrect w, .ok, Memory.read d.ls.mem (16 * w + o) n)

/-- Store bytes in a word: a full word removes every error, a part merges into the corrected word (R271). -/
def Dev.lsStore (d : Dev) (w o : Nat) (bs : List Byte) : Dev :=
  { d with ls := { d.ls with mem := Memory.write d.ls.mem (16 * w + o) bs, corr := removeN w d.ls.corr,
                             uncorr := removeN w d.ls.uncorr } }

/-- Write bytes from byte `o` of word `w` on (R271, Table 11.1). -/
def Dev.lsWriteWord (d : Dev) (p w o : Nat) (bs : List Byte) : Dev × LsStatus :=
  let d := (d.lsMeetTest p w).lsTouchBank (lsBankOf w)
  if d.get F.LS_BANK_STATUS_STATE (lsBankOf w) = 2 then (d.lsReport Ev.LS_BANK_OFF w, .bankOff)
  else
    match d.lsProtected (16 * w + o) bs.length with
    | some e => (match e with | some ev => d.raise ev | none => d, .refused)
    | none =>
      if bs.length < 16 && d.ls.uncorr.contains w then (d.lsReport Ev.LS_UNCORR w, .ecc)
      else ((if bs.length < 16 then d.lsCorrect w else d).lsStore w o bs, .ok)

/-- A span of bytes read by a port, lower word first, with the status that ranks highest (R270).  A word that
returns an error gives zeros, which no requester uses. -/
def Dev.lsRead (d : Dev) (p a n : Nat) : Dev × LsStatus × List Byte :=
  (lsSpans (n + 1) a n).foldl (fun (d, st, bs) (w, o, m) =>
    let (d, st', b) := d.lsReadWord p w o m
    (d, st.worse st', bs ++ (if st' = .ok then b else List.replicate m 0))) (d, .ok, [])

/-- A span of bytes written by a port; a refused half leaves the other half written (R270). -/
def Dev.lsWrite (d : Dev) (p a : Nat) (bs : List Byte) : Dev × LsStatus :=
  (lsSpans (bs.length + 1) a bs.length).foldl (fun (d, st) (w, o, m) =>
    let (d, st') := d.lsWriteWord p w o ((bs.drop (16 * w + o - a)).take m)
    (d, st.worse st')) (d, .ok)

/-- What the device's own logic reads: bytes as stored, no port and no status (used where the spec gives the
reader's result for a good read only). -/
def Dev.lsPeek (d : Dev) (a n : Nat) : List Byte := Memory.read d.ls.mem (a % 2 ^ 24) n

/-- A little-endian number of `n` bytes. -/
def Dev.lsPeekN (d : Dev) (a n : Nat) : Nat := leNat (d.lsPeek a n)

/-- The scheduler, the boot ROM and the statistics writer store past the protection of other masters (R210, R398). -/
def Dev.lsPoke (d : Dev) (a : Nat) (bs : List Byte) : Dev :=
  (lsSpans (bs.length + 1) a bs.length).foldl (fun d (w, o, m) =>
    if d.get F.LS_BANK_STATUS_STATE (lsBankOf w) = 2 then d.lsReport Ev.LS_BANK_OFF w
    else d.lsStore w o ((bs.drop (16 * w + o - a)).take m)) d

/-! ### Port accesses of one cycle (LS_ACCESS) -/

/-- Environment upsets of words, in force before the cycle. -/
def Dev.lsUpset (d : Dev) (us : List Upset) : Dev :=
  d.each us fun d u =>
    if u.uncorrectable then
      { d with ls := { d.ls with uncorr := insertN u.unit d.ls.uncorr, corr := removeN u.unit d.ls.corr } }
    else if d.ls.uncorr.contains u.unit then d
    else { d with ls := { d.ls with corr := insertN u.unit d.ls.corr } }

/-- One word access of a port in a cycle. -/
structure LsHalf where
  port : Nat
  word : Nat
  off : Nat
  len : Nat
  data : Option (List Byte)
  deriving DecidableEq, Repr

/-- The bytes a write carries, exactly as many as its size. -/
def lsReqBytes (r : LsReq) : Option (List Byte) :=
  r.data.map fun bs => (bs ++ List.replicate r.size.bytes 0).take r.size.bytes

/-- The word accesses of a request (R270). -/
def lsReqHalves (r : LsReq) : List LsHalf :=
  (lsSpans 3 r.addr.toNat r.size.bytes).map fun (w, o, m) =>
    ⟨r.port.val, w, o, m, (lsReqBytes r).map fun bs => (bs.drop (16 * w + o - r.addr.toNat)).take m⟩

/-- The write of a word that wins its collision: the lowest-numbered port's (R274). -/
def winnerOf (hs : List LsHalf) (w : Nat) : Option LsHalf :=
  (sortBy (fun a b => decide (a.port ≤ b.port)) (hs.filter fun h => h.data.isSome && h.word == w)).head?

/-- A write that loses a collision: another port's write of the same word wins, with another mask or other data (R274). -/
def LsHalf.loses (hs : List LsHalf) (h : LsHalf) : Bool :=
  h.data.isSome && match winnerOf hs h.word with
    | some g => !(h.off == g.off && h.data == g.data)
    | none => false

/-- Does the request wait for its bank, for LS or for a held region (R276, R278, R282)? -/
def Dev.lsStalls (d : Dev) (r : LsReq) : Bool :=
  (lsReqHalves r).any fun h =>
    let k := lsBankOf h.word
    (d.get F.LS_BANK_STATUS_STATE k == 1 && (!d.on F.LS_BANK_CTRL_VERIFY k || r.data.isSome)) ||
    (d.ls.region == some (h.word / 16) && !d.lsUrgent r.port.val)

/-- A request that waits: its banks in retention start their check. -/
def Dev.lsHoldReq (d : Dev) (r : LsReq) : Dev :=
  let d := d.each (lsReqHalves r) fun d h =>
    if d.get F.LS_BANK_STATUS_STATE (lsBankOf h.word) = 1 then d.put F.LS_BANK_STATUS_CHECKING 1 (lsBankOf h.word) else d
  { d with ls := { d.ls with stalled := d.ls.stalled ++ [r] } }

/-- Read of one half that is served while the array is awake (verify-behind serves reads during the check, R278). -/
def Dev.lsServeRead (d : Dev) (h : LsHalf) : Dev × LsStatus × List Byte :=
  let k := lsBankOf h.word
  if d.get F.LS_BANK_STATUS_STATE k = 1 then
    let d := (d.lsMeetTest h.port h.word).put F.LS_BANK_STATUS_CHECKING 1 k
    if d.ls.uncorr.contains h.word then (d.lsReport Ev.LS_UNCORR h.word, .ecc, [])
    else (d.lsCorrect h.word, .ok, Memory.read d.ls.mem (16 * h.word + h.off) h.len)
  else d.lsReadWord h.port h.word h.off h.len

/-- A write of a port loses a collision of its word (R274). -/
def Dev.lsLose (d : Dev) (p w : Nat) : Dev :=
  (((d.inc F.LS_PORT_COLLIDE_COUNT p).put F.LS_COLLIDE_STATUS_PORT p).put F.LS_COLLIDE_STATUS_WORD w).raise Ev.LS_COLLIDE

/-- The accesses of one cycle: losers of a collision get COLLIDE, the other writes are performed, then the reads
(R274, R275). -/
def Dev.lsCycle (d : Dev) (hs : List LsHalf) : Dev × List LsResp :=
  let (d, r1) := hs.foldl (fun (d, rs) h =>
    match h.data with
    | none => (d, rs)
    | some bs =>
      if h.loses hs then (d.lsLose h.port h.word, rs ++ [⟨h.port, .collide, []⟩])
      else
        let (d, st) := d.lsWriteWord h.port h.word h.off bs
        (d, rs ++ [⟨h.port, st, []⟩])) (d, [])
  hs.foldl (fun (d, rs) h =>
    match h.data with
    | some _ => (d, rs)
    | none =>
      let (d, st, bs) := d.lsServeRead h
      (d, rs ++ [⟨h.port, st, bs⟩])) (d, r1)

/-- The grant order of a bank in a cycle (R273): real-time ports round robin, then the others round robin. -/
def Dev.lsOrder (d : Dev) (k : Nat) (hs : List LsHalf) : List LsHalf :=
  let after := fun (last : Option Nat) (h : LsHalf) => (h.port + 12 - (last.getD 11 + 1) % 12) % 12
  let rt := hs.filter fun h => d.on F.LS_PORT_CFG_RT h.port
  let ord := hs.filter fun h => !d.on F.LS_PORT_CFG_RT h.port
  sortBy (fun a b => decide (after (assoc k d.ls.rrRt) a ≤ after (assoc k d.ls.rrRt) b)) rt ++
    sortBy (fun a b => decide (after (assoc k d.ls.rrOrd) a ≤ after (assoc k d.ls.rrOrd) b)) ord

/-- Cycles of its bank that a grant takes (R271). -/
def LsHalf.cycles (h : LsHalf) : Nat :=
  match h.data with
  | some bs => if bs.length < 16 then 2 else 1
  | none => 1

/-- The grants of a bank in a cycle, one after another, each with the ports it serves: reads of one word together (R268),
identical writes together (R274), and a write before the reads of its word (R275). -/
def lsGrants : List LsHalf → List LsHalf → List (List LsHalf)
  | _, [] => []
  | done, h :: hs =>
    if done.contains h then lsGrants done hs
    else
      let same := (h :: hs).filter fun g => g.word == h.word
      let writes := if done.any fun g => g.word == h.word && g.data.isSome then [] else same.filter (·.data.isSome)
      let reads := same.filter (·.data.isNone)
      let now := if h.data.isSome then [same.filter (·.data.isSome)]
        else (if writes.isEmpty then [] else [writes]) ++ [reads]
      now ++ lsGrants (now.flatten ++ done) hs

/-- The conflict counters of one bank (R273): a port counts each cycle in which another requester is granted; a
held region of the bank takes a cycle before each grant.  A write that loses its collision asks for no cycle. -/
def Dev.lsConflicts (d : Dev) (k : Nat) (hs : List LsHalf) : Dev :=
  let mine := d.lsOrder k (hs.filter fun h => inBank k h.word && !h.loses hs)
  let held := match d.ls.region with | some r => decide (r / 1024 = k) | none => false
  ((lsGrants [] mine).foldl (fun (d, t) group =>
    let t := t + held.toNat
    let d := d.each group fun d h =>
      let d := d.inc F.LS_PORT_CONFLICT_COUNT h.port t
      if d.on F.LS_PORT_CFG_RT h.port then { d with ls := { d.ls with rrRt := assocSet k h.port d.ls.rrRt } }
      else { d with ls := { d.ls with rrOrd := assocSet k h.port d.ls.rrOrd } }
    (d, t + ((group.head?.map LsHalf.cycles).getD 1))) (d, 0)).1

/-- Arbitrate and serve the accesses of one cycle. -/
def Dev.lsBatch (d : Dev) (hs : List LsHalf) : Dev × List LsResp :=
  let d := d.each (((hs.map fun h => lsBankOf h.word).foldl (fun l k => insertN k l) [])) fun d k => d.lsConflicts k hs
  d.lsCycle hs

/-- Join the responses of the halves of one access: the status that ranks higher, the bytes in order (R270). -/
def joinResp (p : Nat) (rs : List LsResp) : LsResp :=
  rs.foldl (fun a r => if r.port = p then ⟨p, a.status.worse r.status, a.data ++ r.data⟩ else a) ⟨p, .ok, []⟩

/-- Serve requests that do not wait: the lower halves in this cycle, the higher halves in the next (R270).  Their responses
join those given since the accesses arrived. -/
def Dev.lsServe (d : Dev) (rs : List LsReq) : Dev :=
  let (d, r1) := d.lsBatch (rs.filterMap fun r => (lsReqHalves r)[0]?)
  let (d, r2) := d.lsBatch (rs.filterMap fun r => (lsReqHalves r)[1]?)
  { d with ls := { d.ls with resp := d.ls.resp ++ rs.map fun r => joinResp r.port.val (r1 ++ r2) } }

/-- The accesses of a cycle arrive: those that must wait are kept, the others are served. -/
def Dev.lsArrive (d : Dev) (rs : List LsReq) : Dev :=
  if d.domOn domLS then
    let d := { d with ls := { d.ls with resp := [] } }
    let d := d.each (rs.filter d.lsStalls) Dev.lsHoldReq
    d.lsServe (rs.filter fun r => !d.lsStalls r)
  else
    let d := d.startWake domLS
    { d with ls := { d.ls with stalled := d.ls.stalled ++ rs } }

/-- Accesses that waited arrive again, oldest first, one a cycle, once LS is ON. -/
def Dev.lsRetry (d : Dev) : Dev :=
  if d.domOn domLS then
    let rs := d.ls.stalled
    { d with ls := { d.ls with stalled := [] } }.each rs fun d r => if d.lsStalls r then d.lsHoldReq r else d.lsServe [r]
  else d

/-- The accesses of one cycle: an access that stops the region test lets those through that waited for it (R282). -/
def Dev.lsAccess (d : Dev) (rs : List LsReq) : Dev :=
  let e := d.lsArrive rs
  if d.ls.region.isSome && e.ls.region.isNone then e.lsRetry else e

/-! ### Bank states (R276 to R279) -/

/-- 64 idle cycles: a bank on whose retention is requested starts its signature (R276). -/
def Dev.bankIdle (d : Dev) (k : Nat) : Dev :=
  if d.get F.LS_BANK_CTRL_STATE_REQ k = 1 ∧ d.get F.LS_BANK_STATUS_STATE k = 0 then d.put F.LS_BANK_STATUS_ENTERING 1 k
  else d

/-- The signature completes: the bank enters retention, unless it holds an uncorrectable word (R277). -/
def Dev.bankSigDone (d : Dev) (k : Nat) : Dev :=
  if d.on F.LS_BANK_STATUS_ENTERING k then
    let d := d.put F.LS_BANK_STATUS_ENTERING 0 k
    if d.ls.uncorr.any (inBank k) then d.raise Ev.LS_UNCORR
    else (d.put F.LS_RET_SIG_SIG (crc32 (Memory.read d.ls.mem (k * 0x40000) 0x40000)) k).put F.LS_BANK_STATUS_STATE 1 k
  else d

/-- The bank goes off at once: contents and signature are discarded (Table 11.4). -/
def Dev.bankOff (d : Dev) (k : Nat) : Dev :=
  let d := (((d.put F.LS_BANK_STATUS_STATE 2 k).put F.LS_BANK_STATUS_ENTERING 0 k).put
    F.LS_BANK_STATUS_CHECKING 0 k).put F.LS_RET_SIG_SIG 0 k
  { d with ls := { d.ls with region := d.ls.region.filter fun r => r / 1024 != k,
                             mem := Memory.clear d.ls.mem (k * 0x40000) 0x40000,
                             corr := d.ls.corr.filter (fun w => !inBank k w),
                             uncorr := d.ls.uncorr.filter (fun w => !inBank k w) } }

/-- A requested bank state takes effect (Table 11.4; value 3 reads as 0). -/
def Dev.bankRequest (d : Dev) (k req : Nat) : Dev :=
  let req := if req = 3 then 0 else req
  let d := d.put F.LS_BANK_CTRL_STATE_REQ req k
  if req = 2 then (if d.get F.LS_BANK_STATUS_STATE k = 2 ∧ ¬ d.on F.LS_BANK_STATUS_CHECKING k then d else (d.bankOff k).lsRetry)
  else if req = 0 then
    let d := d.put F.LS_BANK_STATUS_ENTERING 0 k
    if d.get F.LS_BANK_STATUS_STATE k = 0 then d else d.put F.LS_BANK_STATUS_CHECKING 1 k
  else d

/-- The check after a wake ends, and the accesses that waited for it proceed (R278, R279). -/
def Dev.bankCheckDone (d : Dev) (k : Nat) : Dev :=
  if d.get F.LS_BANK_STATUS_STATE k = 1 ∧ d.on F.LS_BANK_STATUS_CHECKING k then (d.lsRetCheck k).lsRetry else d

/-- An off bank has been cleared and is on (Table 11.4). -/
def Dev.bankClearDone (d : Dev) (k : Nat) : Dev :=
  if d.get F.LS_BANK_STATUS_STATE k = 2 ∧ d.on F.LS_BANK_STATUS_CHECKING k then
    (d.put F.LS_BANK_STATUS_STATE 0 k).put F.LS_BANK_STATUS_CHECKING 0 k
  else d

/-! ### Background test (R280 to R282) -/

/-- The next region of the walk from `r` on whose bank is on and not being checked. -/
def Dev.nextRegion (d : Dev) : Nat → Nat → Option Nat
  | 0, _ => none
  | fuel + 1, r =>
    let k := r / 1024
    if d.get F.LS_BANK_STATUS_STATE k = 0 ∧ ¬ d.on F.LS_BANK_STATUS_CHECKING k then some r
    else d.nextRegion fuel ((k + 1) * 1024 % 65536)

/-- The engine takes a region and saves its words (R280): a request in that cycle keeps the region free.  Accesses that
still wait for a region that another command's access freed are served first (log entry 6). -/
def Dev.regionTestStart (d : Dev) (busy : Bool) : Dev :=
  let d := if d.ls.region.isNone then d.lsRetry else d
  if busy || !d.on F.LS_CTRL_TEST_EN || decide (d.get F.PIPE_CLK_FREQ < 250000) || d.ls.region.isSome then d
  else
    match d.nextRegion 65 d.ls.regionNext with
    | none => d
    | some r =>
      let mine := fun w => w / 16 == r
      let fixed := d.ls.corr.filter mine
      let d := { d with ls := { d.ls with region := some r, regionNext := r,
                                          aborts := if d.ls.regionNext = r then d.ls.aborts else 0,
                                          corr := d.ls.corr.filter fun w => !mine w } }
      (d.inc F.LS_CORR_COUNT_COUNT 0 fixed.length).raiseIf (d.ls.uncorr.any mine) Ev.LS_UNCORR

/-- The march ends: failures are reported, the region is restored, the walk goes on (R281). -/
def Dev.regionTestDone (d : Dev) (fails : List Nat) : Dev :=
  match d.ls.region with
  | none => d
  | some r =>
    let d := d.each fails fun d i =>
      ((d.put F.LS_TEST_STATUS_WORD (16 * r + i)).inc F.LS_TEST_FAIL_COUNT_COUNT).raise Ev.LS_TEST_FAIL
    { d with ls := { d.ls with region := none, aborts := 0, regionNext := (r + 1) % 65536 } }.lsRetry

/-! ### Meanings -/

/-- LS_ACCESS: the accesses that the master ports present in one cycle (R270 to R279). -/
def execLsAccess (reqs : List LsReq) (upsets : List Upset) (s : State) : Host.Outcome State Fault Refusal :=
  .next (s.upd fun d => (d.lsUpset upsets).lsAccess reqs)

/-- BANK_IDLE (R276). -/
def execBankIdle (k : Fin 64) (s : State) : Host.Outcome State Fault Refusal := .next (s.upd (·.bankIdle k))

/-- BANK_SIG_DONE (R277). -/
def execBankSigDone (k : Fin 64) (s : State) : Host.Outcome State Fault Refusal := .next (s.upd (·.bankSigDone k))

/-- BANK_STATE_REQ: a write of LS_BANK_CTRL[k] (R276, R278). -/
def execBankStateReq (k : Fin 64) (verify : Bool) (req : BitVec 2) (s : State) : Host.Outcome State Fault Refusal :=
  .next (s.upd fun d => (d.flag F.LS_BANK_CTRL_VERIFY verify k).bankRequest k req.toNat)

/-- BANK_CHECK_DONE (R278, R279). -/
def execBankCheckDone (k : Fin 64) (s : State) : Host.Outcome State Fault Refusal := .next (s.upd (·.bankCheckDone k))

/-- BANK_CLEAR_DONE (R276). -/
def execBankClearDone (k : Fin 64) (s : State) : Host.Outcome State Fault Refusal := .next (s.upd (·.bankClearDone k))

/-- REGION_TEST_START (R280). -/
def execRegionTestStart (busy : Bool) (s : State) : Host.Outcome State Fault Refusal :=
  .next (s.upd (·.regionTestStart busy))

/-- REGION_TEST_DONE (R281, R282). -/
def execRegionTestDone (fails : List (Fin 16)) (s : State) : Host.Outcome State Fault Refusal :=
  .next (s.upd (·.regionTestDone (fails.map (·.val))))

end Sys2Proof.Machine
end

