-- ==== Sys2Proof/Machine/Zones.lean ====
section
/-! DEFINITION.  The zone grid (R95), the zone contexts with their two copies (R210), the position weights (R104) and
the predicted map (R102). -/

set_option Elab.async false

namespace Sys2Proof.Machine

def Dev.zoneCols (d : Dev) : Nat := d.get F.ZONE_GRID_ZONE_COLS
def Dev.zoneRows (d : Dev) : Nat := d.get F.ZONE_GRID_ZONE_ROWS
def Dev.zoneW (d : Dev) : Nat := d.get F.ZONE_SIZE_ZONE_W
def Dev.zoneH (d : Dev) : Nat := d.get F.ZONE_SIZE_ZONE_H
def Dev.zones (d : Dev) : Nat := d.zoneCols * d.zoneRows

/-! ### Zone contexts (R210) -/

/-- Write mask of a job type. -/
def Dev.jobMask (d : Dev) (t : Nat) : Nat := d.get F.JOB_WMASK_LO_MASK t + d.get F.JOB_WMASK_HI_MASK t * 2 ^ 32

/-- The enabled type whose mask holds granule `k`. -/
def Dev.granType (d : Dev) (k : Nat) : Option Nat := firstIdx 8 fun t => d.on F.JOB_CFG_EN t && bit (d.jobMask t) k

/-- The SEL byte of a zone. -/
def selField (z : Nat) : Field :=
  match z % 4 with
  | 0 => F.ZONE_SEL_SEL0 | 1 => F.ZONE_SEL_SEL1 | 2 => F.ZONE_SEL_SEL2 | _ => F.ZONE_SEL_SEL3

/-- SEL[z][t]. -/
def Dev.zoneSel (d : Dev) (z t : Nat) : Nat := (bit (d.get (selField z) (z / 4)) t).toNat

/-- Line-store address of granule `k` of zone `z` in area `a`. -/
def Dev.granAddr (d : Dev) (a z k : Nat) : Nat := d.ctxArea a + 256 * z + 4 * k

/-- Area of the current copy of a granule. -/
def Dev.curArea (d : Dev) (z k : Nat) : Nat := match d.granType k with | some t => d.zoneSel z t | none => 0

/-- An unsigned field of the current copy: `n` bytes at offset `o` of the zone's context. -/
def Dev.ctxField (d : Dev) (z o n : Nat) : Nat := d.lsPeekN (d.granAddr (d.curArea z (o / 4)) z (o / 4) + o % 4) n

/-- Duty and level of a zone (Table 4.3). -/
def Dev.zoneDuty (d : Dev) (z : Nat) : Nat := d.ctxField z 0 2
def Dev.zoneLevel (d : Dev) (z : Nat) : Nat := d.ctxField z 2 1
/-- Aging weight and bias of anchor `a`. -/
def Dev.ageW (d : Dev) (a z : Nat) : Int := d.ctxField z (0x10 + 2 * a) 2
def Dev.ageB (d : Dev) (a z : Nat) : Int := sgn 16 (d.ctxField z (0x16 + 2 * a) 2)

/-- THERM of a zone, with OD_CFG.FALLBACK_TEMP for an unknown estimate (R118, R119). -/
def Dev.therm (d : Dev) (z : Nat) : Int :=
  let t := d.ctxField z 4 2
  if t = 0x8000 then d.getS F.OD_CFG_FALLBACK_TEMP else sgn 16 t

/-! ### Position weights (R104) -/

/-- The four nearest zones of a pixel and the weights between them. -/
structure ZonePos where
  i : Nat
  fx : Nat
  j : Nat
  fy : Nat
  deriving DecidableEq, Repr

/-- Index and weight of one coordinate: `n` zones of size `w`. -/
def axisPos (x w n : Nat) : Nat × Nat :=
  let g := clampI 0 (((n : Int) - 1) * 256) (Int.tdiv ((((2 * x + 1 : Nat) : Int) - w) * 256) (2 * w))
  (g.toNat / 256, g.toNat % 256)

def Dev.zonePos (d : Dev) (x y : Nat) : ZonePos :=
  let (i, fx) := axisPos x d.zoneW d.zoneCols
  let (j, fy) := axisPos y d.zoneH d.zoneRows
  ⟨i, fx, j, fy⟩

/-- Interpolation between the values of four zones. -/
def interp4 (q00 q01 q10 q11 : Int) (fx fy : Nat) : Int :=
  let top := q00 * (256 - fx : Int) + q01 * fx
  let bot := q10 * (256 - fx : Int) + q11 * fx
  (top * (256 - fy : Int) + bot * fy + 32768).fdiv 65536

/-- A zone quantity at a position; an index beyond the last column or row takes the last one. -/
def Dev.zoneInterp (d : Dev) (p : ZonePos) (q : Nat → Int) : Int :=
  let i' := min (p.i + 1) (d.zoneCols - 1)
  let j' := min (p.j + 1) (d.zoneRows - 1)
  let z := fun i j => q (j * d.zoneCols + i)
  interp4 (z p.i p.j) (z i' p.j) (z p.i j') (z i' j') p.fx p.fy

/-! ### Predicted map (R102, R103) -/

/-- One zone of the predicted map from the source values. -/
def predicted (cols rows ksize : Nat) (edge : Bool) (s : List Nat) (zc zr : Nat) : Nat :=
  let span := (List.range (2 * ksize + 1)).map fun (i : Nat) => (i : Int) - ksize
  let acc := sumN (span.flatMap fun dy => span.map fun dx =>
    let c := (zc : Int) + dx
    let r := (zr : Int) + dy
    let out := decide (c < 0) || decide ((cols : Int) ≤ c) || decide (r < 0) || decide ((rows : Int) ≤ r)
    if out && !edge then 0
    else
      let c := (clampI 0 ((cols : Int) - 1) c).toNat
      let r := (clampI 0 ((rows : Int) - 1) r).toNat
      (Config.kernel (dy + 4).toNat (dx + 4).toNat).toNat * nth s (r * cols + c))
  min 65535 ((acc + 32768) / 65536)

/-- The predicted map from given source values. -/
def Dev.predictedMap (d : Dev) (s : List Nat) : List Nat :=
  (List.range d.zones).map fun z =>
    predicted d.zoneCols d.zoneRows (d.get F.CORR_CTRL_KSIZE) (d.on F.CORR_CTRL_EDGE) s (z % d.zoneCols) (z / d.zoneCols)

end Sys2Proof.Machine
end

