-- ==== Sys2Proof/Machine/Correct.lean ====
section
/-! DEFINITION.  The correction pipeline (R94 to R112): zone statistics, dimming compensation, demura and panel
gamma. -/

set_option Elab.async false

namespace Sys2Proof.Machine

/-! ### Zone statistics (R97 to R99) -/

/-- Statistic value of a composited pixel. -/
def statValue (src : Nat) (p : Px) : Nat :=
  if src = 0 then max p.r (max p.g p.b) else (871 * p.r + 2929 * p.g + 296 * p.b + 2048) / 4096

/-- A pixel joins its zone's statistics. -/
def ZoneAcc.add (a : ZoneAcc) (thresh v : Nat) : ZoneAcc where
  bins := assocSet (v / 64) (((assoc (v / 64) a.bins).getD 0) + 1) a.bins
  max := Nat.max a.max v
  sum := a.sum + v
  above := a.above + (if thresh ≤ v then 1 else 0)
  pixels := a.pixels + 1

/-- The 272 bytes of a record (Table 4.2). -/
def ZoneAcc.record (a : ZoneAcc) (frame : Nat) : List Byte :=
  (List.range 64).flatMap (fun k => leBytes 4 ((assoc k a.bins).getD 0)) ++ leBytes 2 a.max ++
    leBytes 2 ((a.sum * 16 + a.pixels / 2) / a.pixels) ++ leBytes 4 a.above ++ leBytes 4 a.pixels ++ leBytes 4 frame

/-- Start of a statistics side (R98). -/
def Dev.statSide (d : Dev) (side : Nat) : Nat := d.get F.STAT_BASE_BASE * 16 + side * 0x110000

/-- The write side. -/
def Dev.writeSide (d : Dev) : Nat := 1 - d.get F.STAT_STATUS_READ_SIDE

/-- A line of composited pixels is counted (R97). -/
def Dev.statLine (d : Dev) (y : Nat) (px : List Px) : Dev :=
  let src := d.get F.STAT_CTRL_STAT_SRC
  let thr := d.get F.STAT_CTRL_THRESH
  let w := d.zoneW
  let acc := px.zipIdx.foldl (fun acc (p, x) =>
    assocSet (x / w) (((assoc (x / w) acc).getD {}).add thr (statValue src p)) acc) d.scan.acc
  { d with scan := { d.scan with acc := acc, accRow := y / d.zoneH } }

/-- The records of the zone row that runs, with their addresses on the write side. -/
def Dev.rowRecords (d : Dev) : List (Nat × List Byte) :=
  d.scan.acc.map fun (c, a) =>
    (d.statSide d.writeSide + 272 * (d.scan.accRow * d.zoneCols + c), a.record (d.get F.FRAME_COUNT_FRAME))

/-- Write records through master port 2 (R99). -/
def Dev.writeRecords (d : Dev) (rs : List (Nat × List Byte)) : Dev := d.each rs fun d r => (d.lsWrite 2 r.1 r.2).1

/-- A zone row has ended: its records are written, and the accumulation starts again (R99). -/
def Dev.statRowWrite (d : Dev) : Dev :=
  { d.writeRecords d.rowRecords with scan := { d.scan with acc := [] } }

/-! ### Dimming compensation (R102 to R106) -/

/-- Source value of a zone under budget scale `k` (R102, R103, R227). -/
def Dev.sourceValue (d : Dev) (k z : Nat) : Nat :=
  ((d.zoneDuty z * k + 16384) / 32768 * d.zoneLevel z + 127) / 255

/-- The map that is in force after a latch point with budget scale `k` (R102, R103). -/
def Dev.loadMap (d : Dev) (k : Nat) : Dev :=
  { d with scan := { d.scan with pmap := d.predictedMap ((List.range d.zones).map (d.sourceValue k)) } }

/-- Entry `v` of table `t` (0 LIN, 1 ENC, 2 to 4 GAMMA) of the LUT copy in use (R112). -/
def Dev.lut (d : Dev) (t v : Nat) : Nat := d.lsPeekN (d.lutCopy (d.get F.CORR_CTRL_LUT_SEL) + t * 0x2000 + 2 * v) 2

/-- Pixel gain, Q4.12 (R105); GAIN_MAX below 0x1000 reads as 0x1000. -/
def pixelGain (ref gmax p : Nat) : Nat :=
  let gmax := max 0x1000 gmax
  if p = 0 then gmax else min gmax ((ref * 4096 + p / 2) / p)

/-- Re-encoding of a linear value by the ENC table (R105). -/
def encode (enc : Nat → Nat) (v : Nat) : Nat :=
  if v < 2048 then enc v % 4096
  else
    let k := 2048 + (v - 2048) / 32
    let f := (v - 2048) % 32
    let a := enc k % 4096
    let b := enc (k + 1) % 4096
    wrap 16 ((a : Int) + (((b : Int) - a) * f + 16).fdiv 32)

/-- Stages 2 to 4 on one pixel, and whether a channel passed 65,535 (R105). -/
def Dev.compensate (d : Dev) (p : Nat) (c : Px) : Px × Bool :=
  let gain := pixelGain (d.get F.COMP_REF_REF) (d.get F.COMP_REF_GAIN_MAX) p
  let lin := fun c => (d.lut 0 c * gain + 2048) / 4096
  let l : Px := ⟨lin c.r, lin c.g, lin c.b⟩
  let m := max l.r (max l.g l.b)
  let clip := decide (65535 < m)
  let keep := fun x => if d.on F.CORR_CTRL_CLIP_MODE && clip then x * (65535 * 65536 / m) / 65536 else x
  let out := fun x => encode (d.lut 1) (min 65535 (keep x))
  (⟨out l.r, out l.g, out l.b⟩, clip)

/-! ### Demura (R107 to R110) -/

/-- Anchor codes A0, A1, A2. -/
def Dev.anchors (d : Dev) : Nat × Nat × Nat := (d.get F.DEMURA_ANCHOR_A0, d.get F.DEMURA_ANCHOR_A1, d.get F.DEMURA_ANCHOR_HI_A2)

/-- One channel of stage 5: anchors, the three plane corrections at the anchors, and the code (R108). -/
def demura (a : Nat × Nat × Nat) (dp1 dp2 dp3 : Int) (v : Nat) : Nat :=
  let (a0, a1, a2) := a
  let pt := [0, a0, a1, a2, 4095]
  let dp : List Int := [0, dp1, dp2, dp3, 0]
  let g := if v < a0 then 0 else if v < a1 then 1 else if v < a2 then 2 else 3
  let len := nth pt (g + 1) - nth pt g
  let inv := (2 ^ 24 + len / 2) / len
  let t := min 65536 (((v - nth pt g) * inv + 128) / 256)
  let lo := dp.getD g 0
  let delta := lo + ((dp.getD (g + 1) 0 - lo) * t + 32768).fdiv 65536
  clampN 4095 ((v : Int) + (delta + 8).fdiv 16)

/-- Correction of a plane at its anchor: offset, scale, interpolated weight and bias (R108). -/
def anchorDelta (o scale : Nat) (wa ba : Int) : Int := (sgn 6 o * scale * wa + 8192).fdiv 16384 + ba

/-- Stage 5 on one pixel; `o a` is the sample of plane `a`, offset 0 where the plane failed (R110). -/
def Dev.demuraPx (d : Dev) (pos : ZonePos) (o : Nat → Px) (c : Px) : Px :=
  let wa := fun a => d.zoneInterp pos (d.ageW a)
  let ba := fun a => d.zoneInterp pos (d.ageB a)
  let ch := fun (f : Px → Nat) (s : Field) v =>
    let dp := fun a => anchorDelta (f (o a)) (d.get s a) (wa a) (ba a)
    demura d.anchors (dp 0) (dp 1) (dp 2) v
  ⟨ch (·.r) F.DEMURA_SCALE_RED c.r, ch (·.g) F.DEMURA_SCALE_GREEN c.g, ch (·.b) F.DEMURA_SCALE_BLUE c.b⟩

/-- Stage 6 (R111). -/
def Dev.gamma (d : Dev) (c : Px) : Px := ⟨d.lut 2 c.r % 4096, d.lut 3 c.g % 4096, d.lut 4 c.b % 4096⟩

/-- Stages 2 to 6 on one pixel, and whether it clipped. -/
def Dev.correctPx (d : Dev) (x y : Nat) (o : Nat → Px) (c : Px) : Px × Bool :=
  let pos := d.zonePos x y
  let (c, clip) := if d.on F.CORR_CTRL_COMP_EN then
      d.compensate (d.zoneInterp pos fun z => nth d.scan.pmap z).toNat c else (c, false)
  let c := if d.on F.CORR_CTRL_DEMURA_EN then d.demuraPx pos o c else c
  (if d.on F.CORR_CTRL_GAMMA_EN then d.gamma c else c, clip)

/-! ### Checks of a committed set (R95, R102, R108) -/

/-- The zone grid breaks a condition of R95. -/
def Dev.badGrid (d : Dev) : Bool :=
  let c := d.zoneCols
  let r := d.zoneRows
  let h := d.get F.RASTER_H_H_ACTIVE
  let v := d.get F.RASTER_V_V_ACTIVE
  !(decide (1 ≤ c) && decide (c ≤ 128) && decide (1 ≤ r) && decide (r ≤ 64) && decide (c * r ≤ 4096) &&
    decide (16 ≤ d.zoneW) && decide (8 ≤ d.zoneH) && decide ((c - 1) * d.zoneW < h) && decide (h ≤ c * d.zoneW) &&
    decide ((r - 1) * d.zoneH < v) && decide (v ≤ r * d.zoneH))

/-- Lines from the latch point to frame start. -/
def Dev.latchToStart (d : Dev) : Nat :=
  let total := d.get F.RASTER_V_V_TOTAL
  let latch := if d.get F.LATCH_CTRL_LATCH_LINE = 0 then d.get F.RASTER_V_V_ACTIVE else d.get F.LATCH_CTRL_LATCH_LINE
  total - min (max latch (d.get F.RASTER_V_V_ACTIVE)) (total - d.get F.LATCH_CTRL_PREFETCH_LINES - 1)

/-- The predicted map takes too long: cycles against ZONE_H lines of H_TOTAL / 8 cycles, and twice that against the time
from the latch point to frame start (R102).  DESIGN CHOICE (log entry 75): ZONE_COLS × K² / 8 is rounded down. -/
def Dev.mapTooSlow (d : Dev) : Bool :=
  let k := 2 * d.get F.CORR_CTRL_KSIZE + 1
  let row := d.zoneCols * k * k / 8 + 64
  let line := d.get F.RASTER_H_H_TOTAL / 8
  decide (d.zoneH * line < row) || decide (d.latchToStart * line < 2 * row)

/-- CFG_CORR holds for the set in force in `d`. -/
def Dev.cfgCorr (d : Dev) : Bool :=
  let (a0, a1, a2) := d.anchors
  d.badGrid || decide (4 < d.get F.CORR_CTRL_KSIZE) || d.mapTooSlow ||
    decide (a0 < 16) || decide (a1 < a0 + 16) || decide (a2 < a1 + 16) || decide (4095 < a2 + 16)

end Sys2Proof.Machine
end

