-- ==== Sys2Proof/Machine/Rv.lean ====
section
/-! DEFINITION.  The RISC-V cores of the device (R187, R409): decoding of RV32IMC with the A and Zicsr extensions, and
what an instruction does within the hart.  The instruction set is that of the RISC-V manuals that R187 and R409 name
(PRESUMED where their text is not in the spec, log entry 13). -/

set_option Elab.async false

namespace Sys2Proof.Machine

/-! ### Decoded instructions -/

/-- Operations of the integer and multiply groups. -/
inductive AluOp where
  | add | sub | sll | slt | sltu | xor | srl | sra | or | and
  | mul | mulh | mulhsu | mulhu | div | divu | rem | remu
  deriving DecidableEq, Repr

inductive BrOp where
  | eq | ne | lt | ge | ltu | geu
  deriving DecidableEq, Repr

/-- Operations of the atomic group. -/
inductive AmoOp where
  | swap | add | xor | and | or | min | max | minu | maxu
  deriving DecidableEq, Repr

inductive CsrOp where
  | rw | rs | rc
  deriving DecidableEq, Repr

/-- A decoded instruction; register numbers below 32, immediates already extended. -/
inductive RvInstr where
  | lui (rd : Nat) (imm : Word)
  | auipc (rd : Nat) (imm : Word)
  | jal (rd : Nat) (off : Word)
  | jalr (rd rs1 : Nat) (off : Word)
  | branch (op : BrOp) (rs1 rs2 : Nat) (off : Word)
  | load (size : Nat) (signed : Bool) (rd rs1 : Nat) (off : Word)
  | store (size : Nat) (rs1 rs2 : Nat) (off : Word)
  | opImm (op : AluOp) (rd rs1 : Nat) (imm : Word)
  | op (op : AluOp) (rd rs1 rs2 : Nat)
  | fence | fenceI | ecall | ebreak | mret | wfi
  | csr (op : CsrOp) (rd : Nat) (src : Nat) (isImm : Bool) (num : Nat)
  | lr (rd rs1 : Nat)
  | sc (rd rs1 rs2 : Nat)
  | amo (op : AmoOp) (rd rs1 rs2 : Nat)
  | custom (w : Nat)
  | illegal
  deriving DecidableEq, Repr

/-- Sign-extend the low `n` bits to a word. -/
def sext (n x : Nat) : Word := BitVec.ofInt 32 (sgn n x)

def immI (w : Nat) : Word := sext 12 (bits w 31 20)
def immS (w : Nat) : Word := sext 12 (bits w 31 25 * 32 + bits w 11 7)
def immB (w : Nat) : Word := sext 13 (bits w 31 31 * 4096 + bits w 7 7 * 2048 + bits w 30 25 * 32 + bits w 11 8 * 2)
def immU (w : Nat) : Word := BitVec.ofNat 32 (bits w 31 12 * 4096)
def immJ (w : Nat) : Word := sext 21 (bits w 31 31 * 1048576 + bits w 19 12 * 4096 + bits w 20 20 * 2048 + bits w 30 21 * 2)

def brOp : Nat → Option BrOp
  | 0 => some .eq | 1 => some .ne | 4 => some .lt | 5 => some .ge | 6 => some .ltu | 7 => some .geu | _ => none

/-- The register group: funct7 0, 0x20 and 1 (M). -/
def aluOp (f7 f3 : Nat) : Option AluOp :=
  match f7, f3 with
  | 0, 0 => some .add | 0, 1 => some .sll | 0, 2 => some .slt | 0, 3 => some .sltu
  | 0, 4 => some .xor | 0, 5 => some .srl | 0, 6 => some .or | 0, 7 => some .and
  | 0x20, 0 => some .sub | 0x20, 5 => some .sra
  | 1, 0 => some .mul | 1, 1 => some .mulh | 1, 2 => some .mulhsu | 1, 3 => some .mulhu
  | 1, 4 => some .div | 1, 5 => some .divu | 1, 6 => some .rem | 1, 7 => some .remu
  | _, _ => none

def amoOp : Nat → Option AmoOp
  | 0x01 => some .swap | 0x00 => some .add | 0x04 => some .xor | 0x0C => some .and | 0x08 => some .or
  | 0x10 => some .min | 0x14 => some .max | 0x18 => some .minu | 0x1C => some .maxu
  | _ => none

/-- The atomic group (opcode 0x2F, funct3 2). -/
def decodeAmo (w : Nat) : RvInstr :=
  let rd := bits w 11 7
  let rs1 := bits w 19 15
  let rs2 := bits w 24 20
  if bits w 14 12 ≠ 2 then .illegal
  else match bits w 31 27 with
    | 2 => if rs2 = 0 then .lr rd rs1 else .illegal
    | 3 => .sc rd rs1 rs2
    | f => match amoOp f with
      | some o => .amo o rd rs1 rs2
      | none => .illegal

/-- The SYSTEM group. -/
def decodeSystem (w : Nat) : RvInstr :=
  let rd := bits w 11 7
  let rs1 := bits w 19 15
  let num := bits w 31 20
  match bits w 14 12 with
  | 0 =>
    if w = 0x00000073 then .ecall else if w = 0x00100073 then .ebreak
    else if w = 0x30200073 then .mret else if w = 0x10500073 then .wfi else .illegal
  | 1 => .csr .rw rd rs1 false num
  | 2 => .csr .rs rd rs1 false num
  | 3 => .csr .rc rd rs1 false num
  | 5 => .csr .rw rd rs1 true num
  | 6 => .csr .rs rd rs1 true num
  | 7 => .csr .rc rd rs1 true num
  | _ => .illegal

/-- A 32-bit instruction. -/
def decode32 (w : Nat) : RvInstr :=
  let rd := bits w 11 7
  let rs1 := bits w 19 15
  let rs2 := bits w 24 20
  let f3 := bits w 14 12
  let f7 := bits w 31 25
  match bits w 6 0 with
  | 0x37 => .lui rd (immU w)
  | 0x17 => .auipc rd (immU w)
  | 0x6F => .jal rd (immJ w)
  | 0x67 => if f3 = 0 then .jalr rd rs1 (immI w) else .illegal
  | 0x63 => match brOp f3 with
    | some o => .branch o rs1 rs2 (immB w)
    | none => .illegal
  | 0x03 => match f3 with
    | 0 => .load 1 true rd rs1 (immI w)
    | 1 => .load 2 true rd rs1 (immI w)
    | 2 => .load 4 true rd rs1 (immI w)
    | 4 => .load 1 false rd rs1 (immI w)
    | 5 => .load 2 false rd rs1 (immI w)
    | _ => .illegal
  | 0x23 => match f3 with
    | 0 => .store 1 rs1 rs2 (immS w)
    | 1 => .store 2 rs1 rs2 (immS w)
    | 2 => .store 4 rs1 rs2 (immS w)
    | _ => .illegal
  | 0x13 => match f3 with
    | 0 => .opImm .add rd rs1 (immI w)
    | 2 => .opImm .slt rd rs1 (immI w)
    | 3 => .opImm .sltu rd rs1 (immI w)
    | 4 => .opImm .xor rd rs1 (immI w)
    | 6 => .opImm .or rd rs1 (immI w)
    | 7 => .opImm .and rd rs1 (immI w)
    | 1 => if f7 = 0 then .opImm .sll rd rs1 (BitVec.ofNat 32 rs2) else .illegal
    | _ => if f7 = 0 then .opImm .srl rd rs1 (BitVec.ofNat 32 rs2)
      else if f7 = 0x20 then .opImm .sra rd rs1 (BitVec.ofNat 32 rs2) else .illegal
  | 0x33 => match aluOp f7 f3 with
    | some o => .op o rd rs1 rs2
    | none => .illegal
  | 0x0F => if f3 = 0 then .fence else if f3 = 1 then .fenceI else .illegal
  | 0x73 => decodeSystem w
  | 0x2F => decodeAmo w
  | 0x0B => .custom w
  | 0x2B => .custom w
  | _ => .illegal

/-! ### Compressed instructions (RV32C) -/

/-- Quadrant 0. -/
def decodeC0 (h : Nat) : RvInstr :=
  let rd' := 8 + bits h 4 2
  let rs1' := 8 + bits h 9 7
  let offW := bits h 12 10 * 8 + bits h 6 6 * 4 + bits h 5 5 * 64
  match bits h 15 13 with
  | 0 =>
    let imm := bits h 12 11 * 16 + bits h 10 7 * 64 + bits h 6 6 * 4 + bits h 5 5 * 8
    if imm = 0 then .illegal else .opImm .add rd' 2 (BitVec.ofNat 32 imm)
  | 2 => .load 4 true rd' rs1' (BitVec.ofNat 32 offW)
  | 6 => .store 4 rs1' rd' (BitVec.ofNat 32 offW)
  | _ => .illegal

/-- The register-register group of quadrant 1. -/
def decodeC1Alu (h : Nat) : RvInstr :=
  let rd' := 8 + bits h 9 7
  let rs2' := 8 + bits h 4 2
  let imm := sext 6 (bits h 12 12 * 32 + bits h 6 2)
  let sh := BitVec.ofNat 32 (bits h 6 2)
  match bits h 11 10 with
  | 0 => if bit h 12 then .illegal else .opImm .srl rd' rd' sh
  | 1 => if bit h 12 then .illegal else .opImm .sra rd' rd' sh
  | 2 => .opImm .and rd' rd' imm
  | _ =>
    if bit h 12 then .illegal
    else match bits h 6 5 with
      | 0 => .op .sub rd' rd' rs2'
      | 1 => .op .xor rd' rd' rs2'
      | 2 => .op .or rd' rd' rs2'
      | _ => .op .and rd' rd' rs2'

/-- Quadrant 1. -/
def decodeC1 (h : Nat) : RvInstr :=
  let rd := bits h 11 7
  let imm := sext 6 (bits h 12 12 * 32 + bits h 6 2)
  let offJ := sext 12 (bits h 12 12 * 2048 + bits h 11 11 * 16 + bits h 10 9 * 256 + bits h 8 8 * 1024 + bits h 7 7 * 64 +
    bits h 6 6 * 128 + bits h 5 3 * 2 + bits h 2 2 * 32)
  let offB := sext 9 (bits h 12 12 * 256 + bits h 11 10 * 8 + bits h 6 5 * 64 + bits h 4 3 * 2 + bits h 2 2 * 32)
  match bits h 15 13 with
  | 0 => .opImm .add rd rd imm
  | 1 => .jal 1 offJ
  | 2 => .opImm .add rd 0 imm
  | 3 =>
    if imm = 0 then .illegal
    else if rd = 2 then
      .opImm .add 2 2 (sext 10 (bits h 12 12 * 512 + bits h 6 6 * 16 + bits h 5 5 * 64 + bits h 4 3 * 128 + bits h 2 2 * 32))
    else .lui rd (imm <<< 12)
  | 4 => decodeC1Alu h
  | 5 => .jal 0 offJ
  | 6 => .branch .eq (8 + bits h 9 7) 0 offB
  | _ => .branch .ne (8 + bits h 9 7) 0 offB

/-- Quadrant 2. -/
def decodeC2 (h : Nat) : RvInstr :=
  let rd := bits h 11 7
  let rs2 := bits h 6 2
  match bits h 15 13 with
  | 0 => if bit h 12 then .illegal else .opImm .sll rd rd (BitVec.ofNat 32 rs2)
  | 2 => if rd = 0 then .illegal
    else .load 4 true rd 2 (BitVec.ofNat 32 (bits h 12 12 * 32 + bits h 6 4 * 4 + bits h 3 2 * 64))
  | 4 =>
    if !bit h 12 then (if rs2 = 0 then (if rd = 0 then .illegal else .jalr 0 rd 0) else .op .add rd 0 rs2)
    else if rs2 = 0 then (if rd = 0 then .ebreak else .jalr 1 rd 0)
    else .op .add rd rd rs2
  | 6 => .store 4 2 rs2 (BitVec.ofNat 32 (bits h 12 9 * 4 + bits h 8 7 * 64))
  | _ => .illegal

/-- Length in bytes of the instruction that starts with a halfword. -/
def rvLen (h : Nat) : Nat := if h % 4 = 3 then 4 else 2

/-- Decode the instruction in the 32 bits at the program counter. -/
def rvDecode (w : Nat) : RvInstr :=
  match w % 4 with
  | 0 => decodeC0 (w % 65536)
  | 1 => decodeC1 (w % 65536)
  | 2 => decodeC2 (w % 65536)
  | _ => decode32 w

/-! ### Registers and arithmetic -/

/-- Register x`i`; x0 reads 0. -/
def Hart.reg (h : Hart) (i : Nat) : Word := if i = 0 then 0 else ((RegFile.find h.x i).getD 0)

/-- Write register x`i`; a write of x0 is discarded. -/
def Hart.setReg (h : Hart) (i : Nat) (v : Word) : Hart := if i = 0 then h else { h with x := RegFile.put h.x i v }

/-- A CSR as the hart stores it. -/
def Hart.csrWord (h : Hart) (n : Nat) : Word := (RegFile.find h.csr n).getD 0
def Hart.setCsr (h : Hart) (n : Nat) (v : Word) : Hart := { h with csr := RegFile.put h.csr n v }

/-- The 64-bit counter whose low word is CSR `n`, and whose high word is 0x80 above it, counts `k` (R187). -/
def Hart.count (h : Hart) (n k : Nat) : Hart :=
  let v := (h.csrWord n).toNat + k
  let h := h.setCsr n (BitVec.ofNat 32 v)
  if v < 2 ^ 32 then h else h.setCsr (n + 0x80) (h.csrWord (n + 0x80) + BitVec.ofNat 32 (v / 2 ^ 32))

/-- minstret counts an instruction that is complete. -/
def Hart.retire (h : Hart) : Hart := h.count 0xB02 1

/-- The program counter moves past an instruction of `len` bytes. -/
def Hart.advance (h : Hart) (len : Nat) : Hart := { h with pc := h.pc + BitVec.ofNat 32 len }

/-- Integer and multiply arithmetic; division by zero and the signed overflow give the results of the M extension. -/
def alu (o : AluOp) (a b : Word) : Word :=
  match o with
  | .add => a + b
  | .sub => a - b
  | .sll => a <<< (b.toNat % 32)
  | .slt => if a.toInt < b.toInt then 1 else 0
  | .sltu => if a.toNat < b.toNat then 1 else 0
  | .xor => a ^^^ b
  | .srl => a >>> (b.toNat % 32)
  | .sra => BitVec.sshiftRight a (b.toNat % 32)
  | .or => a ||| b
  | .and => a &&& b
  | .mul => a * b
  | .mulh => BitVec.ofInt 32 ((a.toInt * b.toInt).fdiv 4294967296)
  | .mulhsu => BitVec.ofInt 32 ((a.toInt * b.toNat).fdiv 4294967296)
  | .mulhu => BitVec.ofNat 32 (a.toNat * b.toNat / 4294967296)
  | .div => if b = 0 then 0xFFFFFFFF else BitVec.ofInt 32 (a.toInt.tdiv b.toInt)
  | .divu => if b = 0 then 0xFFFFFFFF else BitVec.ofNat 32 (a.toNat / b.toNat)
  | .rem => if b = 0 then a else BitVec.ofInt 32 (a.toInt.tmod b.toInt)
  | .remu => if b = 0 then a else BitVec.ofNat 32 (a.toNat % b.toNat)

def brTaken (o : BrOp) (a b : Word) : Bool :=
  match o with
  | .eq => a == b
  | .ne => a != b
  | .lt => decide (a.toInt < b.toInt)
  | .ge => decide (b.toInt ≤ a.toInt)
  | .ltu => decide (a.toNat < b.toNat)
  | .geu => decide (b.toNat ≤ a.toNat)

/-- The word that an atomic operation stores. -/
def amoWord (o : AmoOp) (m r : Word) : Word :=
  match o with
  | .swap => r
  | .add => m + r
  | .xor => m ^^^ r
  | .and => m &&& r
  | .or => m ||| r
  | .min => if m.toInt < r.toInt then m else r
  | .max => if m.toInt < r.toInt then r else m
  | .minu => if m.toNat < r.toNat then m else r
  | .maxu => if m.toNat < r.toNat then r else m

/-- The value that a load of `size` bytes gives its register. -/
def loadWord (size : Nat) (signed : Bool) (bs : List Byte) : Word :=
  if signed then sext (8 * size) (leNat bs) else BitVec.ofNat 32 (leNat bs)

/-! ### CSRs and traps -/

def csrMstatus : Nat := 0x300
def csrMie : Nat := 0x304
def csrMtvec : Nat := 0x305
def csrMepc : Nat := 0x341
def csrMcause : Nat := 0x342
def csrMtval : Nat := 0x343
def csrMip : Nat := 0x344

/-- Exception causes of the privileged architecture. -/
def excFetchFault : Nat := 1
def excIllegal : Nat := 2
def excBreak : Nat := 3
def excLoadMis : Nat := 4
def excLoadFault : Nat := 5
def excStoreMis : Nat := 6
def excStoreFault : Nat := 7
def excEcallM : Nat := 11

/-- Take a trap: mepc, mcause and mtval are written, MIE moves to MPIE, and the handler of mtvec runs; an interrupt in
vectored mode goes to its own entry. -/
def Hart.trap (h : Hart) (interrupt : Bool) (cause : Nat) (tval : Word) : Hart :=
  let st := (h.csrWord csrMstatus).toNat
  let tv := h.csrWord csrMtvec
  let base := tv &&& 0xFFFFFFFC
  let h := ((h.setCsr csrMepc h.pc).setCsr csrMcause (BitVec.ofNat 32 (cause + if interrupt then 0x80000000 else 0))).setCsr
    csrMtval tval
  let h := h.setCsr csrMstatus (BitVec.ofNat 32 (putBit (putBit st 7 (bit st 3)) 3 false))
  { h with pc := if interrupt && tv.toNat % 4 == 1 then base + BitVec.ofNat 32 (4 * cause) else base }

/-- Return from a trap (MRET): the program counter from mepc, MIE from MPIE. -/
def Hart.mret (h : Hart) : Hart :=
  let st := (h.csrWord csrMstatus).toNat
  let h := h.setCsr csrMstatus (BitVec.ofNat 32 (putBit (putBit st 3 (bit st 7)) 7 true))
  { h with pc := h.csrWord csrMepc }

/-- The writable CSRs that both kinds of hart have. -/
def csrPlain (n : Nat) : Bool :=
  [0x300, 0x304, 0x305, 0x320, 0x340, 0x341, 0x342, 0x343, 0x344, 0xB00, 0xB02, 0xB80, 0xB82].contains n

/-- Machine CSRs that read 0 and ignore writes: mstatush, the event counters and their selectors. -/
def csrZero (n : Nat) : Bool :=
  n == 0x310 || (decide (0xB03 ≤ n) && decide (n ≤ 0xB1F)) || (decide (0xB83 ≤ n) && decide (n ≤ 0xB9F)) ||
    (decide (0x323 ≤ n) && decide (n ≤ 0x33F))

/-- The identification CSRs. -/
def csrIdent (n : Nat) : Bool := decide (0xF11 ≤ n) && decide (n ≤ 0xF14)

/-- What a write leaves in a plain CSR: machine mode only, so MPP reads 3. -/
def csrLegal (n : Nat) (v : Word) : Word :=
  if n = 0x300 then v &&& 0x88
  else if n = 0x304 then v &&& 0x888
  else if n = 0x305 then v &&& 0xFFFFFFFD
  else if n = 0x341 then v &&& 0xFFFFFFFE
  else if n = 0x344 then 0
  else v

/-- The new value of a CSR instruction and whether it writes. -/
def csrNew (o : CsrOp) (old src : Word) (srcReg : Nat) : Option Word :=
  match o with
  | .rw => some src
  | .rs => if srcReg = 0 then none else some (old ||| src)
  | .rc => if srcReg = 0 then none else some (old &&& ~~~src)

/-! ### Instructions that stay within the hart -/

/-- What an instruction asks of the device. -/
inductive RvEff where
  /-- it is complete -/
  | done (h : Hart)
  /-- it raises an exception: cause and trap value -/
  | trap (cause : Nat) (tval : Word)
  | load (size : Nat) (signed : Bool) (rd : Nat) (addr : Word)
  | store (size : Nat) (addr : Word) (v : Word)
  | lr (rd : Nat) (addr : Word)
  | sc (rd : Nat) (addr v : Word)
  | amo (op : AmoOp) (rd : Nat) (addr v : Word)
  | csr (op : CsrOp) (rd : Nat) (src : Word) (srcReg : Nat) (num : Nat)
  | custom (w : Nat)
  | mret
  | wfi
  deriving DecidableEq, Repr

/-- Execute a decoded instruction of `len` bytes whose bits are `w`, up to what the device must do for it. -/
def Hart.exec (h : Hart) (i : RvInstr) (len w : Nat) : RvEff :=
  match i with
  | .lui rd imm => .done ((h.setReg rd imm).advance len)
  | .auipc rd imm => .done ((h.setReg rd (h.pc + imm)).advance len)
  | .jal rd off => .done { h.setReg rd (h.pc + BitVec.ofNat 32 len) with pc := h.pc + off }
  | .jalr rd rs1 off => .done { h.setReg rd (h.pc + BitVec.ofNat 32 len) with pc := (h.reg rs1 + off) &&& 0xFFFFFFFE }
  | .branch o rs1 rs2 off =>
    if brTaken o (h.reg rs1) (h.reg rs2) then .done { h with pc := h.pc + off } else .done (h.advance len)
  | .load size sg rd rs1 off => .load size sg rd (h.reg rs1 + off)
  | .store size rs1 rs2 off => .store size (h.reg rs1 + off) (h.reg rs2)
  | .opImm o rd rs1 imm => .done ((h.setReg rd (alu o (h.reg rs1) imm)).advance len)
  | .op o rd rs1 rs2 => .done ((h.setReg rd (alu o (h.reg rs1) (h.reg rs2))).advance len)
  | .fence => .done (h.advance len)
  | .fenceI => .done (h.advance len)
  | .ecall => .trap excEcallM 0
  | .ebreak => .trap excBreak h.pc
  | .mret => .mret
  | .wfi => .wfi
  | .csr o rd src isImm n => .csr o rd (if isImm then BitVec.ofNat 32 src else h.reg src) src n
  | .lr rd rs1 => .lr rd (h.reg rs1)
  | .sc rd rs1 rs2 => .sc rd (h.reg rs1) (h.reg rs2)
  | .amo o rd rs1 rs2 => .amo o rd (h.reg rs1) (h.reg rs2)
  | .custom w => .custom w
  | .illegal => .trap excIllegal (BitVec.ofNat 32 w)

end Sys2Proof.Machine
end

