-- ==== Sys2Proof/Machine/Dram.lean ====
section
/-! DEFINITION.  The DRAM controller (R291 to R313): addresses and orders, blocks with ECC and lost segments,
request queues by class, quotas, panic, refresh, self-refresh and the row-disturbance defence. -/

set_option Elab.async false

namespace Sys2Proof.Machine

/-- First address past the DRAM space (R293). -/
def dramTop : Nat := 0x1E0000000
/-- First address of channel 7 (R293). -/
def dramCh7 : Nat := 0x1A4000000

/-- Channel of an address (R293). -/
def dramChannel (a : Nat) : Nat := if a < dramCh7 then a / 128 % 7 else 7

/-- Local 128-byte granule of an address within its channel (R293). -/
def dramGranule (a : Nat) : Nat := if a < dramCh7 then a / 128 / 7 else (a - dramCh7) / 128

/-- Row of a local granule, the same in every order (Table 12.2). -/
def dramRow (a : Nat) : Nat := dramGranule a / 240

/-- Segment of an address: rows 4,096 × s to 4,096 × s + 4,095 (R308). -/
def dramSegment (a : Nat) : Nat := dramRow a / 4096

/-- Address order in force at an address: that of the enabled region that holds it, else order 1 (R294). -/
def Dev.dramOrder (d : Dev) (a : Nat) : Nat :=
  match firstIdx 8 (fun r => d.on F.DRAM_REGION_EN r && decide (d.get F.DRAM_REGION_BASE r ≤ a / 2 ^ 20) &&
      decide (a / 2 ^ 20 ≤ d.get F.DRAM_REGION_LIMIT_LIMIT r)) with
  | some r => d.get F.DRAM_REGION_ORDER r
  | none => 1

/-- Bank of an address (Table 12.2). -/
def Dev.dramBank (d : Dev) (a : Nat) : Nat :=
  let g := dramGranule a
  let row := dramRow a
  match d.dramOrder a with
  | 0 => g / 15 % 16
  | 2 => (g % 16) ^^^ (row % 16) ^^^ (row / 16 % 16)
  | _ => g % 16

/-- Column granule of an address (Table 12.2). -/
def Dev.dramColumn (d : Dev) (a : Nat) : Nat :=
  if d.dramOrder a = 0 then dramGranule a % 15 else dramGranule a / 16 % 15

/-- A channel's state (Table 12.15). -/
def Dev.chState (d : Dev) (ch : Nat) : Nat := d.get F.DRAM_CH_STATUS_STATE ch

/-- The power domain of a channel's controller. -/
def chDomain (ch : Nat) : Nat := if ch < 7 then domMEMC else domMEMP

/-- Is the address in a lost segment (R310)? -/
def Dev.dramLost (d : Dev) (a : Nat) : Bool := bit (d.get F.DRAM_CH_STATUS_LOST (dramChannel a)) (dramSegment a)

/-- A status that ends an access before it reaches the DRAM: outside memory, or a failed channel (R293, R312). -/
def Dev.dramBus (d : Dev) (a : Nat) : Bool := decide (dramTop ≤ a) || d.chState (dramChannel a) == 6

/-- An access finds its controller awake and its channel out of self-refresh (R309, R346; log entry 6). -/
def Dev.dramReady (d : Dev) (a : Nat) : Dev :=
  let ch := dramChannel a
  let d := d.wakeNow (chDomain ch)
  if d.chState ch = 3 ∨ d.chState ch = 4 ∨ d.chState ch = 5 then d.put F.DRAM_CH_STATUS_STATE 2 ch else d

/-- Read the 32-byte block that holds address `a` (R301, R302, R310). -/
def Dev.dramReadBlock (d : Dev) (port a : Nat) : Dev × DramStatus × List Byte :=
  let blk := a / 32
  let ch := dramChannel a
  if d.dramBus a then (d, .bus, [])
  else
    let d := d.dramReady a
    if d.dramLost a then (d.raise Ev.DRAM_SEG_LOST ch, .lost, [])
    else if d.dram.uncorr.contains blk then
      let d := ((d.put F.DRAM_ECC_STATUS_BLOCK blk).put F.DRAM_ECC_INFO_PORT port).put F.DRAM_ECC_INFO_CH ch
      (((d.inc F.DRAM_UE_COUNT_COUNT).inc F.DRQ_UE_COUNT_COUNT port).raise Ev.DRAM_UE, .ecc, [])
    else
      let d := if d.dram.corr.contains blk then
          ({ d with dram := { d.dram with corr := removeN blk d.dram.corr } }.inc F.DRAM_CE_COUNT_COUNT).raise Ev.DRAM_CE
        else d
      (d, .ok, Memory.read d.dram.mem (blk * 32) 32)

/-- Store a whole or merged block: the error marks go with the old check word (R302). -/
def Dev.dramStore (d : Dev) (a : Nat) (bs : List Byte) : Dev :=
  { d with dram := { d.dram with mem := Memory.write d.dram.mem a bs, corr := removeN (a / 32) d.dram.corr,
                                 uncorr := removeN (a / 32) d.dram.uncorr } }

/-- Write bytes within one 32-byte block: a full block replaces it; a part is a read-modify-write (R300, R302, R310). -/
def Dev.dramWriteBlock (d : Dev) (port a : Nat) (bs : List Byte) : Dev × DramStatus :=
  if d.dramBus a then (d, .bus)
  else
    let d := d.dramReady a
    if bs.length = 32 then (d.dramStore a bs, .ok)
    else if d.dramLost a then (d, .lost)
    else
      match d.dramReadBlock port a with
      | (d, .ok, _) => (d.dramStore a bs, .ok)
      | (d, st, _) => (d, st)

/-- The block accesses of a span: address and length of each part. -/
def dramSpans (fuel a n : Nat) : List (Nat × Nat) :=
  match fuel with
  | 0 => []
  | fuel + 1 =>
    if n = 0 then [] else (a, min n (32 - a % 32)) :: dramSpans fuel (a + min n (32 - a % 32)) (n - min n (32 - a % 32))

/-- A span of bytes read in ascending order; the first bad status is the span's. -/
def Dev.dramRead (d : Dev) (port a n : Nat) : Dev × DramStatus × List Byte :=
  (dramSpans (n + 1) a n).foldl (fun (d, st, bs) (b, m) =>
    let (d, st', blk) := d.dramReadBlock port b
    (d, if st = .ok then st' else st,
      bs ++ (if st' = .ok then (blk.drop (b % 32)).take m else List.replicate m 0))) (d, .ok, [])

/-- A span of bytes written in ascending order. -/
def Dev.dramWrite (d : Dev) (port a : Nat) (bs : List Byte) : Dev × DramStatus :=
  (dramSpans (bs.length + 1) a bs.length).foldl (fun (d, st) (b, m) =>
    let (d, st') := d.dramWriteBlock port b ((bs.drop (b - a)).take m)
    (d, if st = .ok then st' else st)) (d, .ok)

/-- Bytes as stored. -/
def Dev.dramPeek (d : Dev) (a n : Nat) : List Byte := Memory.read d.dram.mem a n

/-! ### The scan guard (R87) -/

/-- Number of planes of a layer format (Table 3.2). -/
def fmtPlanes (f : Nat) : Nat := if f < 4 then 1 else if f < 8 then 2 else if f < 10 then 3 else 1

/-- The byte ranges of a layer's live buffer (R87). -/
def Dev.layerRanges (d : Dev) (l : Nat) : List Range :=
  let fmt := d.get F.LAYER_CTRL_FMT l
  let rows := d.get F.LAYER_SRC_OFF_SRC_Y l + d.get F.LAYER_SIZE_SRC_H l
  let crows := if fmt = 4 ∨ fmt = 5 then rows / 2 else rows
  let plane := fun base stride rows => (⟨base * 64, base * 64 + stride * 64 * rows⟩ : Range)
  plane (d.get F.LAYER_BASE_BASE l) (d.get F.LAYER_STRIDE_STRIDE l) rows ::
    ((if 2 ≤ fmtPlanes fmt then [plane (d.get F.LAYER_BASE_C_BASE l) (d.get F.LAYER_STRIDE_STRIDE_C l) crows] else []) ++
     (if fmtPlanes fmt = 3 then [plane (d.get F.LAYER_BASE_V_BASE l) (d.get F.LAYER_STRIDE_STRIDE_C l) crows] else []))

/-- Bytes between two lines of a ring buffer (R80). -/
def Dev.ringPitch (d : Dev) : Nat := alignUp (divUp (d.get F.RASTER_H_H_ACTIVE) 128 * 580) 64

/-- The byte range of ring buffer `b` (0 to 5). -/
def Dev.ringRange (d : Dev) (b : Nat) : Range :=
  let base := d.get F.RING_BASE_BASE b * 64
  ⟨base, base + d.ringPitch * d.get F.RASTER_V_V_ACTIVE⟩

/-- The ring buffers in state SCAN, PREV, LATEST or WRITE (R87). -/
def Dev.ringGuarded (d : Dev) : List Nat :=
  [0, 1].flatMap fun p =>
    (if d.on F.RING_STATUS_SCAN_VALID p then [3 * p + d.get F.RING_STATUS_SCAN_BUF p] else []) ++
    (if d.on F.RING_STATUS_PREV_VALID p then [3 * p + d.get F.RING_STATUS_PREV_BUF p] else []) ++
    (if d.on F.RING_STATUS_LATEST_VALID p then [3 * p + d.get F.RING_STATUS_LATEST_BUF p] else []) ++
    (if d.on F.RING_STATUS_WRITING p then [3 * p + d.get F.RING_STATUS_WRITE_BUF p] else [])

/-- Every guarded range (R87): live layer buffers, retiring buffers, and the ring. -/
def Dev.guardRanges (d : Dev) : List Range :=
  [1, 2, 3, 4, 5, 6, 7].flatMap d.layerRanges ++ d.retiring.flatMap (·.ranges) ++ d.ringGuarded.map d.ringRange

/-- Does a write of `n` bytes at `a` fall into a guarded range? -/
def Dev.guarded (d : Dev) (a n : Nat) : Bool := d.guardRanges.any fun r => decide (a < r.hi) && decide (r.lo < a + n)

/-- A write is held (R88). -/
def Dev.hold (d : Dev) (h : Held) : Dev :=
  ({ d with held := d.held ++ [h] }.inc F.GUARD_HOLD_HELD).put F.GUARD_CTRL_HELD_NOW (d.held.length + 1)

/-- A store by a processor into a guarded range is refused, and its address is recorded (R89). -/
def Dev.guardRefuse (d : Dev) (a : Nat) : Dev := d.put F.GUARD_STATUS_ADDR (a / 64)

/-! ### Requests (R295 to R300) -/

/-- Class of a port: 0 RT, 1 HI, 2 BULK, 3 MAINT (R295). -/
def Dev.portClass (d : Dev) (p : Nat) : Nat := d.get F.DRQ_CFG_CLASS p

/-- Bytes granted to a port in the current window (R298). -/
def Dev.portUse (d : Dev) (p : Nat) : Nat := sumN ((assoc p d.dram.buckets).getD [])

/-- The USE field follows the buckets. -/
def Dev.showUse (d : Dev) (p : Nat) : Dev := d.put F.DRQ_STATUS_USE (d.portUse p / 64) p

/-- The port has used its quota (R298). -/
def Dev.overQuota (d : Dev) (p : Nat) : Bool :=
  d.portClass p != 0 && d.get F.DRQ_CFG_QUOTA p != 0xFFFF && decide (d.get F.DRQ_CFG_QUOTA p * 64 ≤ d.portUse p)

/-- The OVER_QUOTA state of a port follows its use; a hold is raised once (R298, R299). -/
def Dev.checkQuota (d : Dev) (p : Nat) : Dev :=
  if d.overQuota p then
    if d.on F.DRQ_STATUS_OVER_QUOTA p then d else (d.put F.DRQ_STATUS_OVER_QUOTA 1 p).raise Ev.QUOTA_HOLD p
  else d.put F.DRQ_STATUS_OVER_QUOTA 0 p

/-- A grant counts in the newest bucket (R298). -/
def Dev.countGrant (d : Dev) (p n : Nat) : Dev :=
  let b := match (assoc p d.dram.buckets).getD [] with | [] => [n] | x :: xs => (x + n) :: xs
  ({ d with dram := { d.dram with buckets := assocSet p b d.dram.buckets } }.showUse p).checkQuota p

/-- Requests queued in a channel. -/
def Dev.chQueue (d : Dev) (ch : Nat) : List DramReq := (d.dram.queue.filter fun p => p.1 == ch).map (·.2)

/-- Room in the channel: 32 entries for native RT requests, 64 for all others (R296). -/
def Dev.chRoom (d : Dev) (ch : Nat) (r : DramReq) : Bool :=
  let q := d.chQueue ch
  if r.native = 0 then decide ((q.filter fun x => x.native == 0).length < 32)
  else decide ((q.filter fun x => x.native != 0).length < 64)

/-- Boyer–Moore vote and space-saving count of one activation (R311). -/
def trackRow (row port : Nat) (t : List RowTrack) : List RowTrack :=
  match t.find? (fun e => e.row == row) with
  | some _ => t.map fun e =>
      if e.row = row then
        if e.vote = 0 then { e with count := e.count + 1, cand := port, vote := 1 }
        else if e.cand = port then { e with count := e.count + 1, vote := e.vote + 1 }
        else { e with count := e.count + 1, vote := e.vote - 1 }
      else e
  | none =>
    if t.length < 32 then t ++ [⟨row, 1, port, 1⟩]
    else
      let low := t.foldl (fun m e => min m e.count) ((t.head?.map (·.count)).getD 0)
      match t.findIdx? (fun e => e.count == low) with
      | some i => t.set i ⟨row, low + 1, port, 1⟩
      | none => t

/-- The rows of a channel's banks are closed. -/
def Dev.closeRows (d : Dev) (p : Nat → Bool) : Dev :=
  { d with dram := { d.dram with openRow := d.dram.openRow.filter fun x => !p x.1 } }

/-- An activation is counted; a row past RD_THRESH gets refresh management, which leaves the bank closed (R311; a threshold of
0 reads as 1). -/
def Dev.countActivation (d : Dev) (ch bank row port : Nat) : Dev :=
  let key := 16 * ch + bank
  let t := trackRow row port ((assoc key d.dram.tracker).getD [])
  match t.find? (fun e => e.row == row && decide (max 1 (d.get F.DRAM_RD_CFG_RD_THRESH) < e.count)) with
  | none => { d with dram := { d.dram with tracker := assocSet key t d.dram.tracker } }
  | some e =>
    let t := t.map fun x => if x.row = row then { x with count := 0 } else x
    let thr := if d.portClass e.cand = 0 then d.dram.throttled else d.dram.throttled ++ [(key, e.cand)]
    let d := { d with dram := { d.dram with tracker := assocSet key t d.dram.tracker, throttled := thr } }
    let d := (((d.put F.DRAM_HAMMER_STATUS_CH ch).put F.DRAM_HAMMER_STATUS_BANK bank).put
      F.DRAM_HAMMER_STATUS_PORT e.cand).put F.DRAM_HAMMER_STATUS_ROW row
    ((d.inc F.DRAM_RFM_COUNT_COUNT).raise Ev.DRAM_HAMMER ch).closeRows (· == key)

/-- An access of a request opens its row: an activation unless the bank has it open (R296, R311). -/
def Dev.dramOpen (d : Dev) (r : DramReq) : Dev :=
  let ch := dramChannel r.addr
  let bank := d.dramBank r.addr
  let key := 16 * ch + bank
  let row := dramRow r.addr
  if assoc key d.dram.openRow = some row then d
  else { d with dram := { d.dram with openRow := assocSet key row d.dram.openRow } }.countActivation ch bank row r.port

/-- A granted request joins its channel: it abandons a self-refresh entry or starts an exit (R309). -/
def Dev.dramGrant (d : Dev) (r : DramReq) : Dev :=
  let ch := dramChannel r.addr
  let d := if r.native = 0 then d else d.countGrant r.port r.len
  let d := d.startWake (chDomain ch)
  let d := if d.chState ch = 3 then d.put F.DRAM_CH_STATUS_STATE 2 ch
    else if d.chState ch = 4 then d.put F.DRAM_CH_STATUS_STATE 5 ch else d
  { d with dram := { d.dram with queue := d.dram.queue ++ [(ch, r)] } }

/-- A request is granted, or waits at its port's interface for quota or room (R296, R298). -/
def Dev.dramAdmit (d : Dev) (r : DramReq) : Dev :=
  let atPort := fun (d : Dev) => { d with dram := { d.dram with atPort := d.dram.atPort ++ [r] } }
  if d.overQuota r.port then atPort (d.checkQuota r.port)
  else if d.chRoom (dramChannel r.addr) r then d.dramGrant r
  else atPort d

/-- Requests that wait at the ports try again, oldest first. -/
def Dev.dramRetryPorts (d : Dev) : Dev :=
  let rs := d.dram.atPort
  { d with dram := { d.dram with atPort := [] } }.each rs Dev.dramAdmit

/-- The response of an access. -/
def Dev.dramRespond (d : Dev) (r : DramReq) (st : DramStatus) (bs : List Byte) : Dev :=
  { d with dram := { d.dram with resp := some ⟨r.port, r.addr, st, bs⟩ } }

/-- A request reaches the controller: an address outside memory or a failed channel answers BUS at once; a DMA, codec
or wall write into a guarded range is held (R88), and a store of the control processor into one is refused (R89);
else it is admitted. -/
def Dev.dramRequest (d : Dev) (port a len : Nat) (data : Option (List Byte)) : Dev :=
  let len := min (max 1 len) (32 - a % 32)
  let cls := d.portClass port
  let r : DramReq := ⟨port, a, len, data.map fun bs => (bs ++ List.replicate len 0).take len, cls, cls, 0, false⟩
  if d.dramBus a then d.dramRespond r .bus []
  else
    match r.data with
    | some bs =>
      if 4 ≤ port ∧ port ≤ 7 ∧ d.guarded a len then d.hold ⟨.plain port, port, [⟨false, a, bs⟩], 0⟩
      else if port = 3 ∧ d.guarded a len then (d.guardRefuse a).dramRespond r .guard []
      else d.dramAdmit r
    | none => d.dramAdmit r

/-- May a queued request issue now: a write waits for every older request to its block (R25, R296); a read waits for none,
since it takes the data of the older writes (R300). -/
def issuable (older : List DramReq) (r : DramReq) : Bool :=
  r.data.isNone || !older.any fun o => o.addr / 32 == r.addr / 32

/-- Queue positions of the requests that may issue, with the request. -/
def issuables : List DramReq → List DramReq → Nat → List (Nat × DramReq)
  | _, [], _ => []
  | older, r :: rs, i => (if issuable older r then [(i, r)] else []) ++ issuables (older ++ [r]) rs (i + 1)

/-- Device-wide panic: the OR of the RT ports' levels when PANIC_EN is 1 (R303). -/
def Dev.panicNow (d : Dev) : Bool :=
  d.on F.DRAM_CTRL_PANIC_EN && [0, 1, 2].any fun p => d.on F.DRQ_STATUS_PANIC p

/-- The request a channel issues next (R296, R303): by class; RT strictly in arrival order, so that one that must wait holds
back the others of its class; in another class the oldest, unless a younger one hits an open row and the older ones have
been passed fewer than 16 times. -/
def Dev.dramPick (d : Dev) (ch : Nat) : Option (Nat × DramReq) :=
  let q := d.chQueue ch
  let may := fun (r : DramReq) => !d.panicNow || r.native == 0
  let c := (issuables [] q 0).filter fun (p : Nat × DramReq) => may p.2
  let rt := match q.find? fun (r : DramReq) => r.cls == 0 && may r with
    | some r => (c.find? fun (p : Nat × DramReq) => p.2.cls == 0).filter fun (p : Nat × DramReq) => decide (p.2 = r)
    | none => none
  if rt.isSome then rt
  else
    let c := c.filter fun (p : Nat × DramReq) => p.2.cls != 0
    let best := c.foldl (fun m (p : Nat × DramReq) => min m p.2.cls) 3
    let c := c.filter fun (p : Nat × DramReq) => p.2.cls == best
    match c with
    | [] => none
    | o :: _ =>
      let hit := fun (p : Nat × DramReq) =>
        assoc (16 * ch + d.dramBank p.2.addr) d.dram.openRow == some (dramRow p.2.addr)
      match c.find? hit with
      | some h => if (c.filter fun (p : Nat × DramReq) => decide (p.1 < h.1)).all fun (p : Nat × DramReq) => decide (p.2.passed < 16) then some h else some o
      | none => some o

/-- Requests waiting for a place in RT take it in order, at most 4 promoted at a time (R297). -/
def promoteWaiting : Nat → List DramReq → List DramReq
  | _, [] => []
  | room, r :: rs =>
    if r.waiting ∧ 0 < room then { r with cls := 0, waiting := false } :: promoteWaiting (room - 1) rs
    else r :: promoteWaiting room rs

/-- Promoted requests of a channel that rank in RT now. -/
def promotedRt (q : List DramReq) : Nat := (q.filter fun r => r.cls == 0 && r.native != 0).length

/-- Replace a channel's queue. -/
def Dev.setChQueue (d : Dev) (ch : Nat) (q : List DramReq) : Dev :=
  { d with dram := { d.dram with queue := (d.dram.queue.filter fun p => p.1 != ch) ++ q.map fun r => (ch, r) } }

/-- Environment upsets of blocks. -/
def Dev.dramUpset (d : Dev) (us : List Upset) : Dev :=
  d.each us fun d u =>
    if u.uncorrectable then
      { d with dram := { d.dram with uncorr := insertN u.unit d.dram.uncorr, corr := removeN u.unit d.dram.corr } }
    else if d.dram.uncorr.contains u.unit then d
    else { d with dram := { d.dram with corr := insertN u.unit d.dram.corr } }

/-- The block of a read after the older queued writes of it, in arrival order (R300). -/
def mergeWrites (ws : List DramReq) (blk : List Byte) : List Byte :=
  ws.foldl (fun b w =>
    let bs := w.data.getD []
    b.take (w.addr % 32) ++ bs ++ b.drop (w.addr % 32 + bs.length)) blk

/-- A read is served: from the queued writes of its block where there are any, without an access of the DRAM when one of
them is whole (R300); else from the DRAM. -/
def Dev.dramServeRead (d : Dev) (ws : List DramReq) (r : DramReq) : Dev × DramStatus × List Byte :=
  if ws.any (·.len == 32) && !d.dramBus r.addr && !d.dramLost r.addr then (d, .ok, mergeWrites ws (List.replicate 32 0))
  else
    let d := if d.dramBus r.addr || d.dramLost r.addr then d else d.dramOpen r
    let (d, st, blk) := d.dramReadBlock r.port r.addr
    (d, st, mergeWrites (if st = .ok then ws else []) blk)

/-- A write is served: a read-modify-write where it is not a whole block (R300). -/
def Dev.dramServeWrite (d : Dev) (r : DramReq) (bs : List Byte) : Dev × DramStatus :=
  let d := if d.dramBus r.addr || (d.dramLost r.addr && bs.length != 32) then d else d.dramOpen r
  d.dramWriteBlock r.port r.addr bs

/-- An access completes: the picked request is served and answered; requests it passed count a pass; promotions and
port queues move up (R296, R297, R300 to R302). -/
def Dev.dramComplete (d : Dev) (ch : Nat) : Dev :=
  if d.chState ch != 2 || !d.domOn (chDomain ch) then d
  else
    match d.dramPick ch with
    | none => d
    | some (i, r) =>
      let q := d.chQueue ch
      let older := (q.take i).map fun o => if o.cls = r.cls then { o with passed := o.passed + 1 } else o
      let rest := older ++ q.drop (i + 1)
      let d := d.setChQueue ch (promoteWaiting (4 - promotedRt rest) rest)
      let d := match r.data with
        | some bs => let (d, st) := d.dramServeWrite r bs; d.dramRespond r st []
        | none =>
          let ws := (q.take i).filter fun (o : DramReq) => o.data.isSome && o.addr / 32 == r.addr / 32
          let (d, st, blk) := d.dramServeRead ws r
          d.dramRespond r st ((blk.drop (r.addr % 32)).take r.len)
      d.dramRetryPorts

/-- A request has waited past AGE_LIMIT of its class: it is promoted one class, into RT only while fewer than 4
promoted requests are there (R297). -/
def Dev.dramPromote (d : Dev) (ch i : Nat) : Dev :=
  let q := d.chQueue ch
  match q[i]? with
  | none => d
  | some r =>
    if r.cls = 0 then d
    else if r.cls = 1 ∧ 4 ≤ promotedRt q then d.setChQueue ch (q.set i { r with waiting := true })
    else d.setChQueue ch (q.set i { r with cls := r.cls - 1 })

/-- A 1 µs bucket ends: the window slides, and ports back under their quota are served again (R298). -/
def Dev.quotaBucket (d : Dev) : Dev :=
  let d := { d with dram := { d.dram with buckets := d.dram.buckets.map fun (x : Nat × List Nat) => (x.1, 0 :: x.2.take 7) } }
  let d := d.each (List.range 9) fun d p => (d.showUse p).checkQuota p
  d.dramRetryPorts

/-- QUOTA of a port is written: grants already made stand (R299). -/
def Dev.quotaWrite (d : Dev) (p q : Nat) : Dev := ((d.put F.DRQ_CFG_QUOTA q p).checkQuota p).dramRetryPorts

/-- DRAM_PANIC is raised each time the device-wide signal rises (R303). -/
def Dev.showPanic (d : Dev) : Dev :=
  let now := d.panicNow
  let d := d.raiseIf (now && !d.dram.panic) Ev.DRAM_PANIC
  { d with dram := { d.dram with panic := now } }

/-- A port's panic level changes (R303). -/
def Dev.setPanic (d : Dev) (p : Nat) (b : Bool) : Dev := (d.flag F.DRQ_STATUS_PANIC b p).showPanic

/-! ### Refresh (R304 to R306) -/

/-- A scheduled refresh: postponed under panic up to 8, else issued with a waiting WCK correction (R305, R312). -/
def Dev.refresh (d : Dev) (ch : Nat) : Dev :=
  let c := d.get F.DRAM_CH_STATUS_POSTPONED ch
  if d.panicNow && decide (c < 8) then d.put F.DRAM_CH_STATUS_POSTPONED (c + 1) ch
  else ({ d with dram := { d.dram with wckFix := removeN ch d.dram.wckFix } }).closeRows fun k => k / 16 == ch

/-- One postponed refresh is repaid midway between scheduled ones, without panic (R305). -/
def Dev.refreshRepay (d : Dev) (ch : Nat) : Dev :=
  let c := d.get F.DRAM_CH_STATUS_POSTPONED ch
  if d.panicNow || c == 0 then d else (d.put F.DRAM_CH_STATUS_POSTPONED (c - 1) ch).closeRows fun k => k / 16 == ch

/-- Channel 7 enters the doubled state: the count is re-weighted, and what exceeds 8 is caught up at once (R306). -/
def Dev.enterDoubled (d : Dev) : Dev :=
  let c := 2 * d.get F.DRAM_CH_STATUS_POSTPONED 7
  let d := (d.put F.DRAM_CH_STATUS_HIGH_TEMP 1 7).put F.DRAM_CH_STATUS_POSTPONED (min 8 c) 7
  if 8 < c then (d.setEvent Ev.DRAM_CATCHUP 0).logHw Ev.DRAM_CATCHUP.code (c - 8) 1 else d

/-- Channel 7 returns to the normal state (R306). -/
def Dev.leaveDoubled (d : Dev) : Dev :=
  (d.put F.DRAM_CH_STATUS_HIGH_TEMP 0 7).put F.DRAM_CH_STATUS_POSTPONED
    (divUp (d.get F.DRAM_CH_STATUS_POSTPONED 7) 2) 7

/-- Mode register 4 of every channel is read (R304). -/
def Dev.mr4 (d : Dev) (reports : List Mr4Report) : Dev :=
  let d := d.each (reports.zipIdx.take 8) fun d (r, ch) =>
    (d.put F.DRAM_CH_STATUS_MR4_RATE r.rate.toNat ch).raiseIf (r.state == .beyond) Ev.DRAM_OVERTEMP ch
  match reports[7]? with
  | none => d
  | some r =>
    let high := r.state != .normal
    if high && !d.on F.DRAM_CH_STATUS_HIGH_TEMP 7 then (d.raise Ev.DRAM_REF_RATE 7).enterDoubled
    else if !high && d.on F.DRAM_CH_STATUS_HIGH_TEMP 7 then (d.raise Ev.DRAM_REF_RATE 7).leaveDoubled
    else d

/-! ### Self-refresh and segments (R308 to R310) -/

/-- The channel-7 segments that a byte range touches. -/
def segsOf (lo hi : Nat) : List Nat := idxs 8 fun s => decide (lo < dramCh7 + (s + 1) * 0x7800000) && decide (dramCh7 + s * 0x7800000 < hi)

/-- The byte range of the fallow frame in channel 7 (R161). -/
def Dev.fallowRange (d : Dev) : Range :=
  let base := d.get F.FALLOW_BASE_BASE * 64
  ⟨base, base + d.get F.FP_PITCH_PITCH * 64 * d.get F.RASTER_V_V_ACTIVE⟩

/-- A channel is in self-refresh: segments that PASR does not keep are lost, and with one that holds the fallow frame
goes FALLOW_VALID (R308, R310, R356). -/
def Dev.enterSelfRefresh (d : Dev) (ch : Nat) : Dev :=
  let keep := d.get F.DRAM_CH_CFG_PASR ch
  let lost := d.get F.DRAM_CH_STATUS_LOST ch ||| (0xFF - keep)
  let d := (d.put F.DRAM_CH_STATUS_LOST lost ch).put F.DRAM_CH_STATUS_STATE 4 ch
  let d := d.closeRows fun k => k / 16 == ch
  let fr := d.fallowRange
  if ch = 7 ∧ fr.lo < fr.hi ∧ (segsOf fr.lo fr.hi).any (fun s => bit lost s) then d.clearFallow else d

/-- SR_IDLE µs without a request: an active channel whose SR_IDLE is not 0 enters self-refresh, unless a request has
arrived (R308, R309). -/
def Dev.srIdle (d : Dev) (ch : Nat) : Dev :=
  if d.chState ch == 2 && d.on F.DRAM_CH_CFG_SR_IDLE ch && (d.chQueue ch).isEmpty then d.enterSelfRefresh ch else d

/-- A channel has left self-refresh and is active (R309). -/
def Dev.srExitDone (d : Dev) (ch : Nat) : Dev :=
  if d.chState ch = 5 then d.put F.DRAM_CH_STATUS_STATE 2 ch else d

/-- A write of DRAM_SEG_CLEAR starts the zero fill of segments (R310). -/
def Dev.segClear (d : Dev) (ch mask : Nat) : Dev :=
  { d with dram := { d.dram with clearing := d.dram.clearing ++ (idxs 8 (bit mask)).map fun s => (ch, s) } }

/-- Is a byte address in segment `s` of channel `ch`? -/
def inSegment (ch s a : Nat) : Bool := dramChannel a == ch && dramSegment a == s

/-- The fill of a segment ends: zeros with valid check words, LOST clears (R310). -/
def Dev.segClearDone (d : Dev) (ch s : Nat) : Dev :=
  if d.dram.clearing.contains (ch, s) then
    let d := { d with dram := { d.dram with
      mem := d.dram.mem.filter (fun c => !inSegment ch s c.1),
      corr := d.dram.corr.filter (fun b => !inSegment ch s (32 * b)),
      uncorr := d.dram.uncorr.filter (fun b => !inSegment ch s (32 * b)),
      clearing := d.dram.clearing.filter (fun p => p != (ch, s)) } }
    (d.put F.DRAM_CH_STATUS_LOST (putBit (d.get F.DRAM_CH_STATUS_LOST ch) s false) ch).raise Ev.SEG_CLEAR_DONE ch
  else d

/-- The scrubber reads the next block and corrects it; channels that are not active and lost segments are skipped
(R301). -/
def Dev.scrubStep (d : Dev) : Dev :=
  let b := d.dram.scrubNext
  let d' := { d with dram := { d.dram with scrubNext := (b + 1) % (dramTop / 32) } }
  if !d.on F.DRAM_CTRL_SCRUB_EN then d
  else if d.chState (dramChannel (32 * b)) = 2 ∧ ¬ d.dramLost (32 * b) then (d'.dramReadBlock 8 (32 * b)).1
  else d'

/-- Training ends: a channel is active, or failed and reported (R312). -/
def Dev.dramTrained (d : Dev) (failed : Nat) : Dev :=
  d.each (List.range 8) fun d ch =>
    if d.chState ch = 1 then
      if bit failed ch then (d.put F.DRAM_CH_STATUS_STATE 6 ch).raise Ev.DRAM_TRAIN_FAIL ch
      else d.put F.DRAM_CH_STATUS_STATE 2 ch
    else d

/-! ### Meanings -/

/-- DRAM_REQUEST (R292 to R296, R298, R300, R309 to R311, R88). -/
def execDramRequest (port : Fin 9) (addr : BitVec 33) (len : Fin 33) (data : Option (List Byte)) (s : State) :
    Host.Outcome State Fault Refusal := .next (s.upd (·.dramRequest port addr.toNat len data))

/-- DRAM_COMPLETE (R296, R301, R302, R307). -/
def execDramComplete (ch : Fin 8) (upsets : List Upset) (s : State) : Host.Outcome State Fault Refusal :=
  .next (s.upd fun d => (d.dramUpset upsets).dramComplete ch)

/-- DRAM_AGE_PROMOTE (R297). -/
def execDramAgePromote (ch : Fin 8) (i : Nat) (s : State) : Host.Outcome State Fault Refusal :=
  .next (s.upd (·.dramPromote ch i))

/-- QUOTA_BUCKET (R298). -/
def execQuotaBucket (s : State) : Host.Outcome State Fault Refusal := .next (s.upd (·.quotaBucket))

/-- DRQ_QUOTA_WRITE (R299). -/
def execDrqQuotaWrite (port : Fin 9) (quota : BitVec 16) (s : State) : Host.Outcome State Fault Refusal :=
  .next (s.upd (·.quotaWrite port quota.toNat))

/-- PANIC_ASSERT (R303). -/
def execPanicAssert (port : Fin 3) (s : State) : Host.Outcome State Fault Refusal := .next (s.upd (·.setPanic port true))

/-- PANIC_RELEASE (R303). -/
def execPanicRelease (port : Fin 3) (s : State) : Host.Outcome State Fault Refusal := .next (s.upd (·.setPanic port false))

/-- DRAM_REFRESH (R304, R305). -/
def execDramRefresh (ch : Fin 8) (s : State) : Host.Outcome State Fault Refusal := .next (s.upd (·.refresh ch))

/-- REFRESH_REPAY (R305). -/
def execRefreshRepay (ch : Fin 8) (s : State) : Host.Outcome State Fault Refusal := .next (s.upd (·.refreshRepay ch))

/-- RD_WINDOW_END (R311): counts and throttles end with the window. -/
def execRdWindowEnd (s : State) : Host.Outcome State Fault Refusal :=
  .next (s.upd fun d => { d with dram := { d.dram with tracker := [], throttled := [] } })

/-- SR_IDLE_ENTRY (R308, R310). -/
def execSrIdleEntry (ch : Fin 8) (s : State) : Host.Outcome State Fault Refusal := .next (s.upd (·.srIdle ch))

/-- SR_EXIT_DONE (R309). -/
def execSrExitDone (ch : Fin 8) (s : State) : Host.Outcome State Fault Refusal := .next (s.upd (·.srExitDone ch))

/-- DRAM_SEG_CLEAR (R310). -/
def execDramSegClear (ch : Fin 8) (segs : BitVec 8) (s : State) : Host.Outcome State Fault Refusal :=
  .next (s.upd (·.segClear ch segs.toNat))

/-- SEG_CLEAR_DONE (R310). -/
def execSegClearDone (ch : Fin 8) (seg : Fin 8) (s : State) : Host.Outcome State Fault Refusal :=
  .next (s.upd (·.segClearDone ch seg))

/-- SCRUB_STEP (R301). -/
def execScrubStep (upsets : List Upset) (s : State) : Host.Outcome State Fault Refusal :=
  .next (s.upd fun d => (d.dramUpset upsets).scrubStep)

/-- WCK_OSC_READ (R312): the correction of each named channel waits for its next refresh. -/
def execWckOscRead (channels : BitVec 8) (s : State) : Host.Outcome State Fault Refusal :=
  .next (s.upd fun d => { d with dram := { d.dram with
    wckFix := (idxs 8 (bit channels.toNat)).foldl (fun l ch => insertN ch l) d.dram.wckFix } })

end Sys2Proof.Machine
end

