-- ==== Sys2Proof/Machine/Transfer.lean ====
section
/-! DEFINITION.  What the transfer engines share: addresses with a space bit, chunked writes under the scan guard
(R88), and descriptor rings (R184). -/

set_option Elab.async false

namespace Sys2Proof.Machine

/-- An address of a descriptor: line store when bit 63 is set, else DRAM (R183, R286). -/
structure XAddr where
  ls : Bool
  addr : Nat
  deriving DecidableEq, Repr

/-- Decode the 64-bit address of a descriptor. -/
def xaddr (a : Nat) : XAddr := ⟨bit a 63, a % 2 ^ 63⟩

/-- An address some bytes on. -/
def XAddr.plus (x : XAddr) (n : Nat) : XAddr := { x with addr := x.addr + n }

/-- Do `n` bytes from here lie inside memory? -/
def XAddr.inside (x : XAddr) (n : Nat) : Bool := if x.ls then decide (x.addr + n ≤ 2 ^ 24) else decide (x.addr + n ≤ dramTop)

/-- End status of an access on either side. -/
inductive XStatus where
  | ls (s : LsStatus)
  | dram (s : DramStatus)
  deriving DecidableEq, Repr

def XStatus.good : XStatus → Bool
  | .ls .ok => true
  | .dram .ok => true
  | _ => false

/-- Read a span through an engine's line-store port or DRAM port. -/
def Dev.xread (d : Dev) (lp dp : Nat) (x : XAddr) (n : Nat) : Dev × XStatus × List Byte :=
  if x.ls then let (d, st, bs) := d.lsRead lp x.addr n; (d, .ls st, bs)
  else let (d, st, bs) := d.dramRead dp x.addr n; (d, .dram st, bs)

/-- Write a span through an engine's ports. -/
def Dev.xwrite (d : Dev) (lp dp : Nat) (x : XAddr) (bs : List Byte) : Dev × XStatus :=
  if x.ls then let (d, st) := d.lsWrite lp x.addr bs; (d, .ls st)
  else let (d, st) := d.dramWrite dp x.addr bs; (d, .dram st)

/-- The writes of a span, one line-store word or DRAM block at a time. -/
def chunksOf (x : XAddr) (bs : List Byte) : List WChunk :=
  if x.ls then (lsSpans (bs.length + 1) x.addr bs.length).map fun (w, o, m) =>
    ⟨true, 16 * w + o, (bs.drop (16 * w + o - x.addr)).take m⟩
  else (dramSpans (bs.length + 1) x.addr bs.length).map fun (b, m) => ⟨false, b, (bs.drop (b - x.addr)).take m⟩

/-- How a run of writes ends: all performed, one held by the scan guard, or one in error. -/
inductive XEnd where
  | done
  | held
  /-- the status of the bad write, and the bytes that were not written -/
  | bad (s : XStatus) (left : Nat)
  deriving DecidableEq, Repr

/-- Perform writes in order; a DRAM write into a guarded range is held with all that follows it (R88). -/
def Dev.runChunks (lp dp : Nat) (o : Owner) : List WChunk → Dev → Dev × XEnd
  | [], d => (d, .done)
  | c :: cs, d =>
    if !c.ls && d.guarded c.addr c.bytes.length then (d.hold ⟨o, dp, c :: cs, 0⟩, .held)
    else
      let (d, st) := d.xwrite lp dp ⟨c.ls, c.addr⟩ c.bytes
      if st.good then Dev.runChunks lp dp o cs d else (d, .bad st (sumN ((c :: cs).map (·.bytes.length))))

/-- Slots of a descriptor ring: 2^SIZE, SIZE above 8 reading as 8 (R184). -/
def ringSlots (size : Nat) : Nat := 2 ^ min 8 size

/-- The slots submitted by moving a TAIL from `t` to `t'` in a ring of `n` slots. -/
def newSlots (n t t' : Nat) : List Nat := (List.range ((t' + n - t) % n)).map fun i => (t + i) % n

end Sys2Proof.Machine
end

