-- ==== Sys2Proof/Machine/Sched.lean ====
section
/-! DEFINITION.  The frame job scheduler (R206 to R219): dale states, job lists, dispatch, budgets and caps, staging and
its flip, faults and sparing, the glen DMA and the IMEM reload. -/

set_option Elab.async false

namespace Sys2Proof.Machine

/-! ### Dales -/

/-- A dale; its glen; its place in the glen. -/
def Dev.dale (d : Dev) (k : Nat) : DaleState := (assoc k d.sched.dales).getD {}

/-- A dale changes. -/
def Dev.setDale (d : Dev) (k : Nat) (f : DaleState → DaleState) : Dev :=
  { d with sched := { d.sched with dales := assocSet k (f (d.dale k)) d.sched.dales } }

/-- State in force: 0 POOL, 1 SERVICE, 2 OUT (R206). -/
def Dev.daleMode (d : Dev) (k : Nat) : Nat := d.get F.DALE_STATUS_STATE k

/-- Domain of a dale's glen. -/
def daleDomain (k : Nat) : Nat := domGlen (k / 4)

/-- A dale's job buffer: its dale address, and its first byte in `SchedState.shared` (Table 8.2). -/
def jobBufAt (k : Nat) : Nat := 0x3FC00 + 256 * (k % 4)
def jobBuf (k : Nat) : Nat := 0x20000 * (k / 4) + 0x1FC00 + 256 * (k % 4)

/-! ### SECDED of the glen memories (R188) -/

/-- Number of the 32-bit word at address `a` of dale `k`: its IMEM and DMEM, then the shared memory of its glen. -/
def glenWord (k a : Nat) : Nat :=
  if a < 0x10000 then 0x4000 * k + a / 4
  else if a < 0x20000 then 0x4000 * k + 0x2000 + (a - 0x10000) / 4
  else 0x400000 + 0x8000 * (k / 4) + (a - 0x20000) / 4

/-- A word lies in the `n` bytes from address `a` of dale `k` on. -/
def inSpan (k a n w : Nat) : Bool := decide (glenWord k a ≤ w) && decide (w ≤ glenWord k (a + n - 1))

/-- An upset strikes the word at an address: 1 a single-bit error, 2 an uncorrectable one. -/
def Dev.glenUpset (d : Dev) (k a ecc : Nat) : Dev :=
  let w := glenWord k a
  if ecc = 2 then { d with sched := { d.sched with uncorr := insertN w d.sched.uncorr, corr := removeN w d.sched.corr } }
  else if ecc = 1 ∧ ¬ d.sched.uncorr.contains w then { d with sched := { d.sched with corr := insertN w d.sched.corr } }
  else d

/-- A read of `n` bytes: single-bit errors are corrected, counted and scrubbed; the flag says that a word is
uncorrectable. -/
def Dev.glenMeet (d : Dev) (k a n : Nat) : Dev × Bool :=
  let d := if d.sched.corr.any (inSpan k a n) then
      { d with sched := { d.sched with corr := d.sched.corr.filter fun w => !inSpan k a n w } }.raise Ev.ECC_CORR
    else d
  (d, d.sched.uncorr.any (inSpan k a n))

/-- The words of `n` bytes have been written whole: they hold no error. -/
def Dev.glenClean (d : Dev) (k a n : Nat) : Dev :=
  { d with sched := { d.sched with corr := d.sched.corr.filter fun w => !inSpan k a n w,
                                   uncorr := d.sched.uncorr.filter fun w => !inSpan k a n w } }

/-- Bytes at an address of a dale, in its own memories or its glen's shared memory. -/
def Dev.localRead (d : Dev) (k a n : Nat) : List Byte :=
  if a < 0x10000 then Memory.read (d.dale k).imem a n
  else if a < 0x18000 then Memory.read (d.dale k).dmem (a - 0x10000) n
  else Memory.read d.sched.shared (0x20000 * (k / 4) + (a - 0x20000)) n

/-- Bytes at such an address are written. -/
def Dev.localWrite (d : Dev) (k a : Nat) (bs : List Byte) : Dev :=
  if a < 0x10000 then d.setDale k fun s => { s with imem := Memory.write s.imem a bs }
  else if a < 0x18000 then d.setDale k fun s => { s with dmem := Memory.write s.dmem (a - 0x10000) bs }
  else { d with sched := { d.sched with shared := Memory.write d.sched.shared (0x20000 * (k / 4) + (a - 0x20000)) bs } }

/-- A write through SECDED: a part of a word merges into the corrected word, and is not performed where that word is
uncorrectable, which the flag says. -/
def Dev.glenWrite (d : Dev) (k a : Nat) (bs : List Byte) : Dev × Bool :=
  let n := bs.length
  let head := if a % 4 = 0 then 0 else min n (4 - a % 4)
  let tail := if n ≤ head then 0 else (a + n) % 4
  let (d, bad0) := if head = 0 then (d, false) else d.glenMeet k a head
  let (d, bad1) := if tail = 0 then (d, false) else d.glenMeet k (a + n - tail) tail
  let skip := if bad0 then head else 0
  let keep := n - skip - (if bad1 then tail else 0)
  if keep = 0 then (d, bad0 || bad1)
  else ((d.localWrite k (a + skip) ((bs.drop skip).take keep)).glenClean k (a + skip) keep, bad0 || bad1)

/-- BUSY shows that a job or service code runs. -/
def Dev.showBusy (d : Dev) (k : Nat) : Dev :=
  d.flag F.DALE_STATUS_BUSY ((d.dale k).job.isSome || (d.dale k).service) k

/-- WFE events of a dale are latched (Table 8.7). -/
def Dev.daleEvent (d : Dev) (k bitNo : Nat) : Dev := d.setDale k fun s => { s with events := putBit s.events bitNo true }

/-- An event for every dale. -/
def Dev.allDalesEvent (d : Dev) (bitNo : Nat) : Dev :=
  { d with sched := { d.sched with dales := (List.range 256).map fun k =>
      (k, { d.dale k with events := putBit (d.dale k).events bitNo true }) } }

/-! ### Zone map (R216) -/

/-- The ZONE_MAP byte of a zone. -/
def mapField (z : Nat) : Field :=
  match z % 4 with
  | 0 => F.ZONE_MAP_DALE0 | 1 => F.ZONE_MAP_DALE1 | 2 => F.ZONE_MAP_DALE2 | _ => F.ZONE_MAP_DALE3

/-- The dale that owns a zone in force; 0xFF is none. -/
def Dev.zoneDale (d : Dev) (z : Nat) : Nat := d.get (mapField z) (z / 4)

/-- Zones that a dale owns, ascending. -/
def Dev.daleZones (d : Dev) (k : Nat) : List Nat := if k = 255 then [] else idxs 4096 fun z => d.zoneDale z == k

/-- ZONE_CAP: 0 reads as 1, above 32 as 32. -/
def Dev.zoneCap (d : Dev) : Nat := max 1 (min 32 (d.get F.SCHED_CTRL_ZONE_CAP))

/-- Zone counts and the dale states are shown. -/
def Dev.showSched (d : Dev) : Dev :=
  let d := d.each (List.range 256) fun d k => d.put F.DALE_STATUS_ZONES (d.daleZones k).length k
  let n := fun (m : Nat) => (idxs 256 fun k => d.daleMode k == m).length
  ((d.put F.SCHED_STATUS_POOL (n 0)).put F.SCHED_STATUS_SERVICE (n 1)).put F.SCHED_STATUS_OUT (n 2)

/-- A zone of a dale that leaves POOL goes to the POOL dale with the fewest zones below ZONE_CAP, the lowest-numbered on a
tie, or to none; a dale that has entered POOL since the last committed map that gives it zones takes none (R216). -/
def Dev.reassign (d : Dev) (z : Nat) : Dev :=
  let counts := (idxs 255 fun k => d.daleMode k == 0 && !d.sched.noZones.contains k).map fun k => (k, (d.daleZones k).length)
  let best := (counts.filter fun c => decide (c.2 < d.zoneCap)).foldl (fun (b : Option (Nat × Nat)) c =>
    match b with
    | some b => some (if c.2 < b.2 then c else b)
    | none => some c) none
  match best with
  | some (k, _) => d.put (mapField z) k (z / 4)
  | none => ((d.put (mapField z) 0xFF (z / 4)).inc F.ZONES_UNASSIGNED_COUNT).raise Ev.SPARE_SHORT

/-! ### Jobs (R208 to R214) -/

/-- Type `t` is due in period `n` (R208). -/
def Dev.jobDue (d : Dev) (t n : Nat) : Bool :=
  let m := 2 ^ d.get F.JOB_CFG_DIV t
  d.on F.JOB_CFG_EN t && n % m == d.get F.JOB_CFG_PHASE t % m

/-- A type's zone range holds a zone. -/
def Dev.jobHas (d : Dev) (t z : Nat) : Bool := decide (d.get F.JOB_ZONES_FIRST t ≤ z) && decide (z ≤ d.get F.JOB_ZONES_LAST t)

/-- A dale's list for the period: zones ascending, due types ascending (R208). -/
def Dev.jobList (d : Dev) (k : Nat) : List (Nat × Nat) :=
  let due := idxs 8 fun t => d.jobDue t (d.get F.FRAME_COUNT_FRAME)
  (d.daleZones k).flatMap fun z => (due.filter fun t => d.jobHas t z).map fun t => (z, t)

/-- The job waits for the statistics of the last zone row, or names in DEP a job of its zone that waits; `kept` are the
jobs of the list that wait (R208). -/
def Dev.jobWaits (d : Dev) (kept : List (Nat × Nat)) (z t : Nat) : Bool :=
  d.on F.JOB_CFG_READS_STAT t && d.on F.STAT_STATUS_LAST_ROW_BUSY && z / max 1 d.zoneCols + 1 == d.zoneRows ||
    (List.range t).any fun u => bit (d.get F.JOB_CFG_DEP t) u && kept.contains (z, u)

/-- DIRTY[z][t]. -/
def Dev.isDirty (d : Dev) (z t : Nat) : Bool := d.sched.dirty.contains (8 * z + t)

/-- Granule `k` of a zone as its job buffer takes it (R211): staging when DIRTY, else the current copy. -/
def Dev.jobGranule (d : Dev) (z k : Nat) : List Byte :=
  let a := d.curArea z k
  let a := match d.granType k with
    | some t => if d.isDirty z t then 1 - a else a
    | none => a
  d.lsPeek (d.granAddr a z k) 4

/-- Dispatch of one job (R209). -/
def Dev.startJob (d : Dev) (k z t : Nat) : Dev :=
  let buf := (List.range 64).flatMap fun g => d.jobGranule z g
  let d := { d with sched := { d.sched with shared := Memory.write d.sched.shared (jobBuf k) buf } }
  let d := (d.glenClean k (jobBufAt k) 256).setDale k fun s =>
    { s with job := some ⟨z, t, 0, d.get F.JOB_CAP_CYCLES t, false⟩,
             hart := { s.hart with pc := BitVec.ofNat 32 (2 * d.get F.JOB_ENTRY_ENTRY t),
                                   x := if z = 0 then (if t = 0 then [] else [(11, BitVec.ofNat 32 t)])
                                     else (10, BitVec.ofNat 32 z) :: (if t = 0 then [] else [(11, BitVec.ofNat 32 t)]) } }
  d.showBusy k

/-- A job is skipped (R214). -/
def Dev.skipJob (d : Dev) (t : Nat) : Dev := (d.inc F.JOB_SKIP_COUNT_COUNT t).raise Ev.JOB_SKIP

/-- Run down a dale's list to the next job that starts; waiting jobs stay on it (R208, R214). -/
def Dev.dispatchFrom (k : Nat) : List (Nat × Nat) → List (Nat × Nat) → Dev → Dev
  | kept, [], d => d.setDale k fun s => { s with todo := kept }
  | kept, (z, t) :: rest, d =>
    if d.on F.JOB_CFG_READS_STAT t && !d.on F.STAT_STATUS_STAT_VALID then Dev.dispatchFrom k kept rest (d.skipJob t)
    else if d.jobWaits kept z t then Dev.dispatchFrom k (kept ++ [(z, t)]) rest d
    else if d.get F.JOB_BUDGET_CYCLES t ≤ d.get F.JOB_USED_COUNT t then
      let d := d.skipJob t
      let d := if d.sched.overQuota.contains t then d
        else ({ d with sched := { d.sched with overQuota := t :: d.sched.overQuota } }).raise Ev.OVER_QUOTA
      Dev.dispatchFrom k kept rest d
    else (d.setDale k fun s => { s with todo := kept ++ rest }).startJob k z t

/-- A POOL dale without a job takes its next one; its glen must be awake and no reload may run (R218, R219). -/
def Dev.dispatch (d : Dev) (k : Nat) : Dev :=
  let s := d.dale k
  if d.daleMode k != 0 || s.job.isSome || d.sched.imemCopy || d.pwr.noDispatch || s.todo.isEmpty then d
  else if !d.domOn (daleDomain k) then d.startWake (daleDomain k)
  else Dev.dispatchFrom k [] s.todo d

/-- Every dale takes its next job. -/
def Dev.dispatchAll (d : Dev) : Dev := d.each (d.sched.dales.map (·.1)) Dev.dispatch

/-- Cycles of a dale pass: the job and its type's use grow (R214); mcycle counts them (R187). -/
def Dev.daleTick (d : Dev) (k cyc : Nat) : Dev :=
  let d := d.setDale k fun s =>
    { s with job := s.job.map (fun j => { j with cycles := j.cycles + cyc }),
             hart := s.hart.count 0xB00 cyc }
  match (d.dale k).job with
  | some j => d.inc F.JOB_USED_COUNT j.type cyc
  | none => d

/-- Transfers that a job leaves behind are no longer those of the job that runs (R203). -/
def DaleState.disown (s : DaleState) : DaleState := { s with dma := s.dma.map fun q => { q with mine := false } }

/-- A job has ended, and the dale goes on with its list. -/
def Dev.jobEnded (d : Dev) (k : Nat) : Dev := ((d.setDale k fun s => { s.disown with job := none }).showBusy k).dispatch k

/-- A job ends as a fault of a cause of Table 8.6 (R213). -/
def Dev.jobFault (d : Dev) (k cause : Nat) : Dev :=
  match (d.dale k).job with
  | none => d
  | some j =>
    let d := ((d.inc F.JOB_FAULT_COUNT_COUNT j.type).put F.DALE_STATUS_LAST_CAUSE cause k).raise Ev.JOB_FAULT
    let d := if cause = 8 then
        let d := d.setDale k fun s => { s with hwFaults := 0 :: s.hwFaults }
        let n := (d.dale k).hwFaults.length
        let d := d.put F.DALE_STATUS_HW_FAULTS (min 255 n) k
        if d.on F.SCHED_CTRL_AUTO_SPARE ∧ d.get F.SCHED_CTRL_FAULT_LIMIT ≤ n then
          { d with sched := { d.sched with spareNext := insertN k d.sched.spareNext } } else d
      else d
    d.jobEnded k

/-- The cause of Table 8.6 for an exception cause. -/
def jobCause (exc : Nat) : Nat :=
  if exc = excIllegal then 1 else if exc = excLoadMis ∨ exc = excStoreMis ∨ exc = 0 then 2
  else if exc = excBreak ∨ exc = excEcallM then 7 else 3

/-- A trap of a dale: a fault in a job, mtvec in SERVICE (R213). -/
def Dev.daleTrap (d : Dev) (k exc : Nat) (tval : Word) : Dev :=
  if (d.dale k).job.isSome then d.jobFault k (jobCause exc)
  else d.setDale k fun s => { s with hart := s.hart.trap false exc tval }

/-- The coefficient set of a (zone, type) pair changes hands at the next flip (R212). -/
def Dev.markDirty (d : Dev) (n : Nat) : Dev :=
  { d with sched := { d.sched with dirty := insertN n d.sched.dirty } }

/-- A merge completes: the granules of the type's mask go from the job buffer to staging and DIRTY sets (R203, R211). -/
def Dev.mergeDone (d : Dev) (k : Nat) : Dev :=
  match (d.dale k).job with
  | none => d
  | some j =>
    if !j.merging then d
    else
      let (d, bad) := d.glenMeet k (jobBufAt k) 256
      if bad then d.jobFault k 8
      else
      let d := d.each (idxs 64 fun g => bit (d.jobMask j.type) g) fun d g =>
        d.lsPoke (d.granAddr (1 - d.zoneSel j.zone j.type) j.zone g) (Memory.read d.sched.shared (jobBuf k + 4 * g) 4)
      ((d.markDirty (8 * j.zone + j.type)).inc F.JOB_DONE_COUNT_COUNT j.type).jobEnded k

/-- A job reaches its cap and is killed as a fault of cause OVERRUN (R214). -/
def Dev.jobOverrun (d : Dev) (k : Nat) : Dev :=
  match (d.dale k).job with
  | none => d
  | some j => ((d.daleTick k (j.cap - j.cycles)).raise Ev.JOB_OVERRUN).jobFault k 5

/-- The queued descriptors of a dale that its glen DMA has not started are dropped (R206, R212). -/
def Dev.dmaDrop (d : Dev) (k : Nat) : Dev :=
  d.setDale k fun s => { s.disown with dma := s.disown.dma.filter fun q => assoc (k / 4) d.sched.dmaNow == some (k, q.tag) }

/-! ### The latch point (R206, R210, R212, R213, R216, R218, R219) -/

/-- Jobs of the ending period that have not ended are killed (R23, R212). -/
def Dev.killJobs (d : Dev) : Dev :=
  d.each d.sched.dales fun d (k, s) =>
    let late := (match s.job with | some j => [j.type] | none => []) ++ s.todo.map (·.2)
    if late.isEmpty then d
    else
      let d := d.each late fun d t => (d.inc F.JOB_LATE_COUNT_COUNT t).raise Ev.JOB_LATE
      ((d.setDale k fun s => { s with job := none, todo := [] }).dmaDrop k).showBusy k

/-- JOB_USED is copied to JOB_LAST_USED and restarts (R214). -/
def Dev.newBudgets (d : Dev) : Dev :=
  let d := d.each (List.range 8) fun d t => (d.put F.JOB_LAST_USED_COUNT (d.get F.JOB_USED_COUNT t) t).put F.JOB_USED_COUNT 0 t
  { d with sched := { d.sched with overQuota := [] } }

/-- SEL flips where DIRTY is set and every DIRTY clears (R210). -/
def Dev.stagingFlip (d : Dev) : Dev :=
  let d := d.each d.sched.dirty fun d n =>
    d.put (selField (n / 8)) (putBit (d.get (selField (n / 8)) (n / 32)) (n % 8) (!bit (d.get (selField (n / 8)) (n / 32)) (n % 8))) (n / 32)
  { d with sched := { d.sched with dirty := [] } }

/-- A dale to which the committed map gives a zone takes part in reassignment again (R216). -/
def Dev.mapGiven (d : Dev) : Dev :=
  { d with sched := { d.sched with noZones := d.sched.noZones.filter fun k => (d.daleZones k).isEmpty } }

/-- Dale states take their committed requests; automatic sparing has put a dale to OUT; the zones of a dale that leaves
POOL move (R206, R213, R216). -/
def Dev.daleStates (d : Dev) : Dev :=
  let d := d.each d.sched.spareNext fun d k => d.put F.DALE_CTRL_STATE_REQ 2 k
  let d := { d with sched := { d.sched with spareNext := [] } }
  let moved := idxs 256 fun k => d.get F.DALE_CTRL_STATE_REQ k != d.daleMode k
  if moved.isEmpty then d
  else
    let left := moved.filter fun k => d.daleMode k == 0
    let d := d.each moved fun d k =>
      let d := if d.daleMode k = 1 then
          ((d.setDale k fun s => { s with service := false, ffence := none }).dmaDrop k).showBusy k
        else d
      let d := if d.get F.DALE_CTRL_STATE_REQ k = 0 then
          { d with sched := { d.sched with noZones := insertN k d.sched.noZones } } else d
      d.put F.DALE_STATUS_STATE (d.get F.DALE_CTRL_STATE_REQ k) k
    let d := d.mapGiven.each left fun d k => (d.each (d.daleZones k) Dev.reassign).raise Ev.DALE_SPARED
    d.showSched

/-- Ages of hardware faults advance by one period (R213). -/
def Dev.ageFaults (d : Dev) : Dev :=
  d.each (d.sched.dales.filter fun p => !p.2.hwFaults.isEmpty) fun d (k, _) =>
    let d := d.setDale k fun s => { s with hwFaults := (s.hwFaults.map (· + 1)).filter fun a => decide (a < 64) }
    d.put F.DALE_STATUS_HW_FAULTS (min 255 (d.dale k).hwFaults.length) k

/-- With GLEN_PWR_AUTO, every glen without a job in the new period and without a SERVICE dale powers down, unless firmware
holds it ON (R219, R348). -/
def Dev.glensDown (d : Dev) : Dev :=
  if d.on F.SCHED_CTRL_GLEN_PWR_AUTO then
    d.each (List.range 64) fun d g =>
      if d.get F.DOM_CTRL_REQ (domGlen g) == 1 ||
          (List.range 4).any fun i => !(d.dale (4 * g + i)).todo.isEmpty || d.daleMode (4 * g + i) == 1 then d
      else d.startDown (domGlen g)
  else d

/-- The scheduler's part of a latch point, after the shadows have been applied: kill, budgets, flip, dale states, reload,
lists and dispatch. -/
def Dev.schedLatch (d : Dev) : Dev :=
  let d := ((d.killJobs.newBudgets.stagingFlip.daleStates.ageFaults)).allDalesEvent 1
  let pass := fun (s : DaleState) => { s with ffence := s.ffence.map fun _ => true }
  let d := { d with sched := { d.sched with dales := d.sched.dales.map fun (p : Nat × DaleState) => (p.1, pass p.2) } }
  let d := if d.on F.IMEM_LOAD_GO then { d with sched := { d.sched with imemCopy := true } } else d
  let d := if !d.on F.SCHED_CTRL_EN || d.pwr.noDispatch then d
    else d.each (idxs 255 fun k => d.daleMode k == 0) fun d k =>
      let l := d.jobList k
      if l.isEmpty then d else d.setDale k fun s => { s with todo := l }
  d.glensDown.dispatchAll

/-- A committed set that the scheduler refuses (R206, R207, R216); `d` is the device with its shadows in force, `old` the
device before. -/
def Dev.cfgJob (d old : Dev) : Bool :=
  let masks := (List.range 8).map d.jobMask
  let twice := (List.range 64).any fun g => decide (1 < (masks.filter fun m => bit m g).length)
  let own := !bit (d.jobMask 1) 0 || !bit (d.jobMask 3) 1 || !bit (d.jobMask 2) 4 || !bit (d.jobMask 2) 5 || !bit (d.jobMask 2) 6
  let dep := (List.range 8).any fun t => decide (2 ^ t ≤ d.get F.JOB_CFG_DEP t)
  let req := (List.range 256).any fun k => d.get F.DALE_CTRL_STATE_REQ k == 3
  let mapMoved := (List.range 4096).any fun z => d.zoneDale z != old.zoneDale z
  let out := fun k => d.get F.DALE_CTRL_STATE_REQ k != 0 || d.sched.spareNext.contains k
  let map := mapMoved && ((List.range 4096).any (fun z => d.zoneDale z != 0xFF && out (d.zoneDale z)) ||
    (List.range 255).any fun k => decide (d.zoneCap < (d.daleZones k).length))
  own || twice || dep || req || map

/-! ### IMEM reload and service (R217, R218) -/

/-- Bytes that a reload copies: LEN 0 reads as 1 KiB, above 32 as 32. -/
def Dev.imemLen (d : Dev) : Nat := 1024 * max 1 (min 32 (d.get F.IMEM_LOAD_LEN))

/-- The copy into every POOL dale ends, and dispatch proceeds. -/
def Dev.imemLoadDone (d : Dev) : Dev :=
  if !d.sched.imemCopy then d
  else
    let bs := d.lsPeek (d.get F.IMEM_LOAD_SRC * 16) d.imemLen
    let d := d.each (idxs 256 fun k => d.daleMode k == 0) fun d k => (d.localWrite k 0 bs).glenClean k 0 bs.length
    let d := { d with sched := { d.sched with imemCopy := false } }
    ((d.put F.IMEM_LOAD_GO 0).put F.SCHED_STATUS_IMEM_BUSY 0).raise Ev.IMEM_DONE |>.dispatchAll

/-- START of a SERVICE dale (R217): also one whose service code runs; a glen in RET wakes, and the code runs from then on
(R346). -/
def Dev.daleStart (d : Dev) (k : Nat) : Dev :=
  if d.daleMode k = 1 then
    ((d.setDale k fun s => { s with service := true, ffence := none,
                                    hart := { s.hart with pc := BitVec.ofNat 32 (2 * d.get F.DALE_CTRL_START_PC k), x := [] } }).showBusy k).startWake
      (daleDomain k)
  else d

/-! ### Glen DMA (R199, R204, R205) -/

/-- Line-store port of a glen's dales (Table 11.2). -/
def dalePort (k : Nat) : Nat := 8 + k / 64

/-- A space-0 address range of a dale's DMA: own DMEM or the glen's shared memory below the job buffers. -/
def dmaLocal (a n : Nat) : Bool :=
  (decide (0x10000 ≤ a) && decide (a + n ≤ 0x18000)) || (decide (0x20000 ≤ a) && decide (a + n ≤ 0x3FC00))

/-- Length, spaces and full addresses of a descriptor. -/
def DmaReq.len (q : DmaReq) : Nat := bits q.ctrl 15 0 + 1
def DmaReq.srcSp (q : DmaReq) : Nat := bits q.ctrl 17 16
def DmaReq.dstSp (q : DmaReq) : Nat := bits q.ctrl 19 18
def DmaReq.srcAddr (q : DmaReq) : Nat := if q.srcSp = 2 then bits q.ctrl 22 20 * 2 ^ 32 + q.src else q.src
def DmaReq.dstAddr (q : DmaReq) : Nat := if q.dstSp = 2 then bits q.ctrl 26 24 * 2 ^ 32 + q.dst else q.dst

/-- Does a range lie inside its space? -/
def dmaInside (sp a n : Nat) : Bool :=
  match sp with
  | 0 => dmaLocal a n
  | 1 => decide (a + n ≤ 2 ^ 24)
  | 2 => decide (a + n ≤ dramTop)
  | _ => false

/-- Error DESC (Table 8.5). -/
def DmaReq.bad (q : DmaReq) : Bool :=
  q.resv != 0 || bits q.ctrl 31 27 != 0 || bit q.ctrl 23 || !dmaInside q.srcSp q.srcAddr q.len || !dmaInside q.dstSp q.dstAddr q.len

/-- The dales of a glen whose queue holds a descriptor, from the one after the place last served on (R205). -/
def Dev.dmaTurns (d : Dev) (g : Nat) : List Nat :=
  ((List.range 4).map fun i => 4 * g + ((assoc g d.sched.dmaLast).getD 3 + 1 + i) % 4).filter fun k => !(d.dale k).dma.isEmpty

/-- The glen DMA, when it serves none, starts the next descriptor: in order within a dale, round robin among the dales
(R205). -/
def Dev.dmaStart (d : Dev) (g : Nat) : Dev :=
  if (assoc g d.sched.dmaNow).isSome then d
  else match d.dmaTurns g with
    | k :: _ => match (d.dale k).dma with
      | q :: _ => { d with sched := { d.sched with dmaNow := assocSet g (k, q.tag) d.sched.dmaNow,
                                                   dmaLast := assocSet g (k % 4) d.sched.dmaLast } }
      | [] => d
    | [] => d

/-- A tag completes: the DMA event is latched, its error is kept, and the glen DMA goes on. -/
def Dev.dmaEnd (d : Dev) (k tag err : Nat) : Dev :=
  let d := { d with sched := { d.sched with dmaNow := assocDel (k / 4) d.sched.dmaNow } }
  ((d.setDale k fun s => { s with dma := s.dma.filter (fun q => q.tag != tag), dmaHeld := none,
                                  dmaErr := if err = 0 then assocDel tag s.dmaErr else assocSet tag err s.dmaErr }).daleEvent k
    0).dmaStart (k / 4)

/-- Tag error of a bad access. -/
def dmaErrOf : XStatus → Nat
  | .dram .guard => 3 | .ls .collide => 4 | .ls .ok => 0 | .dram .ok => 0 | _ => 2

/-- The source is read piece by piece; an uncorrectable piece is carried as free bytes, and the rest of the transfer goes on
(R192, R205; log entry 83). -/
def Dev.dmaFetch (d : Dev) (k : Nat) (q : DmaReq) : Dev × Nat × List Byte :=
  let read := fun (d : Dev) (a n : Nat) =>
    match q.srcSp with
    | 0 => let (d, bad) := d.glenMeet k a n; (d, if bad then 2 else 0, d.localRead k a n)
    | sp => let (d, st, bs) := d.xread (dalePort k) 7 ⟨sp == 1, a⟩ n; (d, dmaErrOf st, bs)
  let (d, e, bs) := read d q.srcAddr q.len
  if e = 0 then (d, 0, bs)
  else
    let unit := match q.srcSp with | 0 => 4 | 1 => 16 | _ => 32
    let good := fun (a n : Nat) => (read d a n).2.1 == 0
    let (key, d) := d.fresh
    (d, e, bs.zipIdx.map fun (b, i) =>
      let a := (q.srcAddr + i) / unit * unit
      if good (max a q.srcAddr) (min (a + unit) (q.srcAddr + q.len) - max a q.srcAddr) then b else Config.freeByte key i)

/-- Write to the line store; the words listed lose a collision and stay unwritten (R192). -/
def Dev.dmaLsWrite (d : Dev) (k a : Nat) (bs : List Byte) (lost : List Nat) (e : Nat) : Dev × Nat :=
  (lsSpans (bs.length + 1) a bs.length).foldl (fun (d, e) (w, o, m) =>
    if lost.contains w then (d.lsLose (dalePort k) w, max e 4)
    else
      let (d, st) := d.lsWriteWord (dalePort k) w o ((bs.drop (16 * w + o - a)).take m)
      (d, max e (dmaErrOf (.ls st)))) (d, e)

/-- Writes to DRAM in order: one that the scan guard holds stalls the glen DMA, with the error found so far (R88); another
bad one leaves the rest to complete (R205). -/
def Dev.dmaChunks (k tag : Nat) : List WChunk → Nat → Dev → Dev
  | [], e, d => d.dmaEnd k tag e
  | c :: cs, e, d =>
    if d.guarded c.addr c.bytes.length then
      (d.hold ⟨.glen k tag, 7, c :: cs, 0⟩).setDale k fun s => { s with dmaHeld := some (tag, e) }
    else
      let (d, st) := d.dramWrite 7 c.addr c.bytes
      Dev.dmaChunks k tag cs (max e (dmaErrOf (.dram st))) d

/-- The transfer of a descriptor is carried out. -/
def Dev.dmaRun (d : Dev) (k : Nat) (q : DmaReq) (lost : List Nat) : Dev :=
  if q.bad then d.dmaEnd k q.tag 1
  else
    let (d, e, bs) := d.dmaFetch k q
    match q.dstSp with
    | 0 => let (d, bad) := d.glenWrite k q.dstAddr bs; d.dmaEnd k q.tag (if bad then max e 2 else e)
    | 1 => let (d, e) := d.dmaLsWrite k q.dstAddr bs lost e; d.dmaEnd k q.tag e
    | _ => Dev.dmaChunks k q.tag (chunksOf ⟨false, q.dstAddr⟩ bs) e d

/-- The glen DMA completes the descriptor that it serves, unless a held write stalls it (R88, R205); `ecc` is an error that
strikes the first word of a source in the glen (R188). -/
def Dev.dmaServe (d : Dev) (g ecc : Nat) (lost : List Nat) : Dev :=
  match assoc g d.sched.dmaNow with
  | none => d
  | some (k, tag) =>
    if (d.dale k).dmaHeld.isSome then d
    else match (d.dale k).dma.find? fun q => q.tag == tag with
      | some q => (if q.srcSp = 0 ∧ q.bad = false then d.glenUpset k q.srcAddr ecc else d).dmaRun k q lost
      | none => d

/-! ### Meanings -/

/-- DMA_TAG_DONE (R188, R204, R205): the descriptor that the glen DMA serves. -/
def execDmaTagDone (glen : BitVec 6) (dma : DmaEnd) (s : State) : Host.Outcome State Fault Refusal :=
  .next (s.upd (·.dmaServe glen.toNat dma.ecc (dma.lost.map (·.val))))

/-- JOB_OVERRUN (R214). -/
def execJobOverrun (dale : Byte) (s : State) : Host.Outcome State Fault Refusal := .next (s.upd (·.jobOverrun dale.toNat))

/-- DALE_START (R217). -/
def execDaleStart (dale : Byte) (s : State) : Host.Outcome State Fault Refusal := .next (s.upd (·.daleStart dale.toNat))

/-- DALE_DOORBELL (R217). -/
def execDaleDoorbell (dale : Byte) (s : State) : Host.Outcome State Fault Refusal := .next (s.upd (·.daleEvent dale.toNat 4))

/-- IMEM_LOAD_GO (R218). -/
def execImemLoadGo (s : State) : Host.Outcome State Fault Refusal :=
  .next (s.upd fun d => (d.put F.IMEM_LOAD_GO 1).put F.SCHED_STATUS_IMEM_BUSY 1)

/-- IMEM_LOAD_DONE (R218). -/
def execImemLoadDone (s : State) : Host.Outcome State Fault Refusal := .next (s.upd (·.imemLoadDone))

/-- STAT_WRITE_DONE (R99, R100): the last zone row's records are written, STAT_READY is raised, and the jobs that waited
for them are dispatched (R208). -/
def execStatWriteDone (s : State) : Host.Outcome State Fault Refusal :=
  .next (s.upd fun d =>
    if d.on F.STAT_STATUS_LAST_ROW_BUSY then
      let d := d.writeRecords d.scan.statTail
      let d := { d.put F.STAT_STATUS_LAST_ROW_BUSY 0 with scan := { d.scan with statTail := [] } }
      ((d.raise Ev.STAT_READY).allDalesEvent 2).dispatchAll
    else d)

end Sys2Proof.Machine
end

