-- ==== Sys2Proof/Machine/Backlight.lean ====
section
/-! DEFINITION.  The backlight and the Akmuiz zone bus (R222 to R252): the duties of a frame, spread-pulse PWM, boost
targets, the power budget, fault detection, and the packets of the zone bus. -/

set_option Elab.async false

namespace Sys2Proof.Machine

/-! ### State -/

def Dev.sink (d : Dev) (s : Nat) : SinkState := (assoc s d.bl.sinks).getD {}
def Dev.setSink (d : Dev) (s : Nat) (f : SinkState → SinkState) : Dev :=
  { d with bl := { d.bl with sinks := assocSet s (f (d.sink s)) d.bl.sinks } }
def Dev.boost (d : Dev) (b : Nat) : BoostState := (assoc b d.bl.boosts).getD {}
def Dev.setBoost (d : Dev) (b : Nat) (f : BoostState → BoostState) : Dev :=
  { d with bl := { d.bl with boosts := assocSet b (f (d.boost b)) d.bl.boosts } }
def Dev.ic (d : Dev) (i : Nat) : IcState := (assoc i d.bl.ics).getD {}
def Dev.setIc (d : Dev) (i : Nat) (f : IcState → IcState) : Dev :=
  { d with bl := { d.bl with ics := assocSet i (f (d.ic i)) d.bl.ics } }

/-! ### Strings, channels and zones (R222, R223) -/

/-- Sinks that drive a string. -/
def Dev.enSinks (d : Dev) : List Nat := idxs 128 fun s => d.on F.SINK_CFG_EN s

/-- Zone-sink ICs enumerated on a zone bus that runs, and those of them whose strings may light. -/
def Dev.foundIcs (d : Dev) : List Nat := if d.on F.BL_CTRL_ZB_EN then idxs 31 (bit (d.get F.ZB_PRESENT_ICS)) else []
def Dev.liveIcs (d : Dev) : List Nat := d.foundIcs.filter fun i => d.on F.ZB_MAP_EN i

/-- Channels of the bus that light a zone: (IC, channel). -/
def Dev.busChannels (d : Dev) (z : Nat) : List (Nat × Nat) :=
  d.liveIcs.filterMap fun i =>
    let b := d.get F.ZB_MAP_BASE i
    if b ≤ z ∧ z < b + 128 then some (i, z - b) else none

/-- A zone is lit over the bus; by any sink or channel. -/
def Dev.busLit (d : Dev) (z : Nat) : Bool := !(d.busChannels z).isEmpty
def Dev.zoneLit (d : Dev) (z : Nat) : Bool := d.busLit z || d.enSinks.any fun s => d.get F.SINK_CFG_ZONE s == z

/-- Zones that any sink or channel lights. -/
def Dev.litZones (d : Dev) : List Nat :=
  let ss := d.enSinks.map fun s => d.get F.SINK_CFG_ZONE s
  let bs := d.liveIcs.map fun i => d.get F.ZB_MAP_BASE i
  if ss.isEmpty && bs.isEmpty then []
  else idxs 4096 fun z => ss.contains z || bs.any fun b => decide (b ≤ z) && decide (z < b + 128)

/-- Full-scale current of a string in 0.5 mA, lowered to IMAX. -/
def Dev.sinkIfs (d : Dev) (s : Nat) : Nat := min (d.get F.SINK_CFG_IFS s) (d.get F.BL_LIMIT_IMAX)
def Dev.icIfs (d : Dev) (i : Nat) : Nat := min (d.get F.ZB_MAP_IFS i) (d.get F.BL_LIMIT_IMAX)

/-- Duty and level of a zone in force; of a dark zone 0. -/
def Dev.dutyOf (d : Dev) (z : Nat) : Nat × Nat := (assoc z d.bl.duties).getD (0, 0)

/-- Granule 0 of a zone as it will be current after the coming latch point: staging where DIRTY and not late (R224). -/
def Dev.nextGranule (d : Dev) (z : Nat) : Nat :=
  let a := d.curArea z 0
  d.granAddr (if d.isDirty z 1 && !d.bl.late.contains z && d.granType 0 == some 1 then 1 - a else a) z 0

/-- Duty and level there. -/
def Dev.nextDuty (d : Dev) (z : Nat) : Nat × Nat := (d.lsPeekN (d.nextGranule z) 2, d.lsPeekN (d.nextGranule z + 2) 1)

/-- A boost may feed strings: in use, not latched off. -/
def Dev.boostUsable (d : Dev) (b : Nat) : Bool := d.on F.BOOST_CFG_EN b && !d.on F.BOOST_FAULT_LATCHED b

/-- A direct string may light. -/
def Dev.stringOn (d : Dev) (s : Nat) : Bool :=
  d.on F.BL_CTRL_EN && d.on F.SINK_CFG_EN s && !d.on F.SINK_STATUS_OFF s && d.boostUsable (d.get F.SINK_CFG_BOOST s)

/-! ### Spread-pulse PWM (R226 to R228, R239, R240) -/

/-- Periods of a frame. -/
def Dev.periods (d : Dev) : Nat := d.get F.BL_CTRL_PER_FRAME + 1

/-- Nominal raster frame period in ns: 8 pixels a pipe clock. -/
def Dev.nominalNs (d : Dev) : Nat :=
  d.get F.RASTER_H_H_TOTAL * d.get F.RASTER_V_V_TOTAL * 1000000 / (8 * d.get F.PIPE_CLK_FREQ)

/-- Period length in ticks of `tick` ns. -/
def Dev.periodTicks (d : Dev) (tick : Nat) : Nat :=
  (if d.bl.frameNs = 0 then d.nominalNs else d.bl.frameNs) / tick / d.periods

/-- Scaled duty and on-time of a period (R227). -/
def scaledDuty (duty k : Nat) : Nat := (duty * k + 16384) / 32768
def onTicks (duty k l : Nat) : Nat := (scaledDuty duty k * l + 32767) / 65535

/-- A segment within a period of `l` ticks: past the period end it continues from the period start (R228). -/
def wrapSeg (l : Nat) (p : Nat × Nat) : List (Nat × Nat) :=
  let a := p.1 % l
  if p.2 = 0 then [] else if a + p.2 ≤ l then [(a, p.2)] else [(a, l - a), (0, min l (a + p.2 - l))]

/-- A segment joins those before it, last first; where they meet the string is lit once (R228). -/
def mergeSeg (acc : List (Nat × Nat)) (p : Nat × Nat) : List (Nat × Nat) :=
  match acc with
  | q :: t => if p.1 ≤ q.1 + q.2 then (q.1, max q.2 (p.1 + p.2 - q.1)) :: t else p :: acc
  | [] => [p]

/-- The on-segments of a period, rising and apart. -/
def litSegs (l : Nat) (segs : List (Nat × Nat)) : List (Nat × Nat) :=
  ((sortBy (fun a b => decide (a.1 ≤ b.1)) (segs.flatMap (wrapSeg l))).foldl mergeSeg []).reverse

/-- Segments of a period (R228): start and length in ticks; `n` segments from the sink's own offset. -/
def segments (l on n off : Nat) : List (Nat × Nat) :=
  (List.range n).map fun j => (j * l / n + off, on / n + (if j < on % n then 1 else 0))

/-- Number of segments and the offset of channel `ch` (R228). -/
def segCount (segN segMin on : Nat) : Nat := min segN (max 1 (on / max 1 segMin))
def segOffset (stagger l n ch : Nat) : Nat := if n = 0 ∨ l / n = 0 then 0 else ch * stagger % (l / n)

/-- SEG_N: 0 selects 32. -/
def Dev.segN (d : Dev) : Nat := if d.get F.BL_CTRL_SEG_N = 0 then 32 else d.get F.BL_CTRL_SEG_N

/-- 10 ns units in ticks of 4 ns, rounded up. -/
def to4ns (v : Nat) : Nat := divUp (10 * v) 4

/-- 1.5 µs in ticks of 4 ns. -/
def longSeg : Nat := 375

/-- What a direct sink takes over at a period start: sense offset and gain, and its current under IMAX (R223, R232, R253,
R257, R258). -/
def Dev.sinkTakes (d : Dev) (s : Nat) : Dev :=
  let g := d.get F.SINK_CAL_GAIN s
  let level := (d.dutyOf (d.get F.SINK_CFG_ZONE s)).2
  d.setSink s fun t => { t with
    ofs := d.getS F.SINK_CAL_OFS s, gain := g
    current := min (d.get F.BL_LIMIT_IMAX * 500) (d.sinkIfs s * 500 * level * g / (255 * 32768)) }

/-- The period of a direct string: its segments, with the single pulse and the excess of R239. -/
def Dev.lightSink (d : Dev) (s : Nat) : Dev :=
  let st := d.sink s
  if !d.stringOn s then d.setSink s fun t => { t with segs := [], current := 0 }
  else
    let d := d.sinkTakes s
    let l := d.periodTicks 4
    let on := min l (onTicks (d.dutyOf (d.get F.SINK_CFG_ZONE s)).1 (d.get F.BL_STATUS_SCALE) l)
    let stagger := to4ns (d.get F.BL_SEG_STAGGER)
    if on = 0 then
      let d := d.setSink s fun t => { t with segs := [], dark := t.dark + 1 }
      if 64 ≤ (d.sink s).dark then d.put F.SINK_STATUS_DIAG_STALE 1 s else d
    else if st.pulse then
      let len := max on longSeg
      d.setSink s fun t => { t with segs := litSegs l [(segOffset stagger l 1 s, len)], pulse := false, owed := len - on,
                                    owedLeft := 8, noLong := 0, dark := 0 }
    else
      let lit := if st.owedLeft = 0 then on else on - st.owed
      let n := segCount d.segN (to4ns (d.get F.BL_SEG_SEG_MIN)) lit
      let segs := if lit = 0 then [] else litSegs l (segments l lit n (segOffset stagger l n s))
      let long := segs.any fun p => decide (longSeg ≤ p.2)
      d.setSink s fun t =>
        { t with segs := segs, dark := 0, owed := st.owed - on, owedLeft := st.owedLeft - 1,
                 noLong := if long then 0 else t.noLong + 1 }

/-! ### Interrupted windows of the calibrations (R265) -/

/-- Every running window of every calibration ends without a result. -/
def Dev.calEndAll (d : Dev) : Dev := { d with cal := { d.cal with ofs := [], gain := [], ts := [], anchorNow := [] } }

/-- The windows of a sink, of a boost, that gains a latched fault end. -/
def Dev.calEndSink (d : Dev) (s : Nat) : Dev := { d with cal := { d.cal with ofs := assocDel s d.cal.ofs } }
def Dev.calEndBoost (d : Dev) (b : Nat) : Dev := { d with cal := { d.cal with gain := assocDel b d.cal.gain } }

/-! ### Boosts (R229, R231 to R233) -/

/-- The need that a direct string contributes: its last sample, or VSTART − 0.35 V before any. -/
def Dev.stringNeed (d : Dev) (s b : Nat) : Nat :=
  if (d.sink s).ever then d.get F.SINK_STATUS_NEED s else d.get F.BOOST_CFG_VSTART b * 25 - 35

/-- The need that an IC contributes, valid slot or held. -/
def Dev.icNeed (d : Dev) (i b : Nat) : Nat :=
  if (d.ic i).ever then (d.ic i).need else d.get F.BOOST_CFG_VSTART b * 25 - 35

/-- The largest need on a boost and who has it: sink number, or 0x80 + IC address. -/
def Dev.neediest (d : Dev) (b : Nat) : Nat × Nat :=
  let ss := (d.enSinks.filter fun s => d.get F.SINK_CFG_BOOST s == b && !d.on F.SINK_STATUS_OFF s).map fun s => (d.stringNeed s b, s)
  let is := (d.liveIcs.filter fun i => d.get F.ZB_MAP_BOOST i == b).map fun i => (d.icNeed i b, 0x80 + i)
  (ss ++ is).foldl (fun a c => if a.1 < c.1 then c else a) (0, 0)

/-- A string of the boost is lit in the coming period: a direct one, or a channel of an IC (R231). -/
def Dev.boostLit (d : Dev) (b : Nat) : Bool :=
  let lit := fun (z : Nat) => decide (0 < scaledDuty (d.dutyOf z).1 (d.get F.BL_STATUS_SCALE))
  (d.enSinks.any fun s => d.get F.SINK_CFG_BOOST s == b && d.stringOn s && lit (d.get F.SINK_CFG_ZONE s)) ||
  (d.liveIcs.any fun i => d.get F.ZB_MAP_BOOST i == b && (d.ic i).outEn &&
    d.bl.duties.any fun p => decide (d.get F.ZB_MAP_BASE i ≤ p.1) && decide (p.1 < d.get F.ZB_MAP_BASE i + 128) && lit p.1)

/-- The target of a boost at a period start (R231); while the ring is down it is held (R249). -/
def Dev.boostTarget (d : Dev) (b : Nat) : Dev :=
  if (d.boost b).phase ≠ 2 || !d.boostUsable b || !d.boostLit b || d.bl.down then d
  else
    let (v, who) := d.neediest b
    let prev := d.get F.BOOST_STATUS_TARGET b
    let t := min (max (v + 35) (d.get F.BOOST_CFG_VMIN b * 25)) (d.get F.BL_LIMIT_VMAX * 25)
    let drop := decide (who < 0x80) && (d.sink who).dropout
    let blind := d.liveIcs.any fun i => d.get F.ZB_MAP_BOOST i == b && !(d.ic i).slot
    let t := if t < prev then (if blind then prev else max t (prev - 25)) else if drop then min t (prev + 100) else t
    (d.put F.BOOST_STATUS_TARGET t b).put F.BOOST_FAULT_NEEDIEST who b

/-- Soft start begins on a boost: the target rises from the input voltage to VSTART (R229); until it is there it reads a
free value of at most VSTART, since the input voltage is the board's (log entry 84). -/
def Dev.softStart (d : Dev) (b : Nat) : Dev :=
  if d.boostUsable b then
    let (key, d) := d.fresh
    (d.setBoost b fun t => { t with phase := 1, ovStop := false }).put F.BOOST_STATUS_TARGET
      (min (leNat [Config.freeByte key 0, Config.freeByte key 1]) (d.get F.BOOST_CFG_VSTART b * 25)) b
  else d

/-- The boost reaches VSTART, and tracking begins. -/
def Dev.softStartDone (d : Dev) (b : Nat) : Dev :=
  if (d.boost b).phase = 1 then
    (d.setBoost b fun t => { t with phase := 2 }).put F.BOOST_STATUS_TARGET (d.get F.BOOST_CFG_VSTART b * 25) b
  else d

/-! ### Zone bus packets (R242 to R244) -/

/-- Control symbols of Table 9.1: K28.5, K28.1, K28.6, K27.7, K29.7. -/
def zbIDL : Sym := .ctl 0xBC
def zbFS : Sym := .ctl 0x3C
def zbPS : Sym := .ctl 0xDC
def zbSOP : Sym := .ctl 0xFB
def zbEOP : Sym := .ctl 0xFD

/-- A packet after two symbols of idle fill. -/
def zbPacket (bs : List Byte) : List Sym := [zbIDL, zbIDL, zbSOP] ++ bs.map .data ++ [zbEOP]

/-- Symbols go out on ZB_TX; running disparity continues, idle fill beyond the two symbols of a packet being taken as of
even length (log entry 80). -/
def Dev.zbSend (d : Dev) (l : List Sym) : Dev :=
  { d with bl := { d.bl with sent := l, plus := disparityAfter d.bl.plus d.bl.sent } }

/-- Packets follow those of the same command. -/
def Dev.zbMore (d : Dev) (l : List Sym) : Dev := { d with bl := { d.bl with sent := d.bl.sent ++ l } }

/-- The code groups of the symbols last sent (R242). -/
def Dev.zbGroups (d : Dev) : List Nat := codeGroups d.bl.plus d.bl.sent

/-- REG_WR and REG_RD of an IC (Table 9.2): the device sends ACK, and what the IC fills in, as 0. -/
def regWrBytes (i reg : Nat) (data : List Byte) : List Byte :=
  let body := [byteOf 0x30, byteOf i, byteOf reg, byteOf data.length] ++ data
  body ++ beBytes 2 (crc16 body) ++ [0]
def regRdBytes (i reg len : Nat) : List Byte :=
  let body := [byteOf 0x31, byteOf i, byteOf reg, byteOf len]
  body ++ beBytes 2 (crc16 body) ++ List.replicate (len + 3) 0

/-- An IC's outputs may be on: its ID is the expected one, its strings may light and its boost is not latched off (R222,
R233, R248). -/
def Dev.icMay (d : Dev) (i : Nat) : Bool :=
  (d.ic i).idOk && d.on F.ZB_MAP_EN i && !d.on F.BOOST_FAULT_LATCHED (d.get F.ZB_MAP_BOOST i)

/-- CTRL of an IC (Table 9.3). -/
def Dev.icCtrl (d : Dev) (en : Bool) : Nat := en.toNat + 4 * d.get F.BL_CTRL_DIAG_EN

/-- OUT_EN of an IC is written where it changes. -/
def Dev.icOut (d : Dev) (i : Nat) : Dev :=
  let en := d.icMay i
  if (d.ic i).outEn == en then d
  else (d.setIc i fun t => { t with outEn := en, regs := t.regs.take 5 ++ [d.icCtrl en] }).zbMore
    (zbPacket (regWrBytes i 0x0D [byteOf (d.icCtrl en)]))

/-- OUT_EN of every IC on a boost. -/
def Dev.icsOut (d : Dev) (b : Nat) : Dev := d.each (d.foundIcs.filter fun i => d.get F.ZB_MAP_BOOST i == b) Dev.icOut

/-- A boost is latched off (R233). -/
def Dev.latchBoost (d : Dev) (b : Nat) : Dev :=
  if d.on F.BOOST_FAULT_LATCHED b then d
  else
    let d := ((d.put F.BOOST_FAULT_OC 1 b).put F.BOOST_FAULT_LATCHED 1 b).setBoost b fun t => { t with phase := 0, ovRun := 0 }
    let d := d.each (d.enSinks.filter fun s => d.get F.SINK_CFG_BOOST s == b) fun d s => d.setSink s fun t => { t with segs := [] }
    ((d.icsOut b).raise Ev.BOOST_OC b).calEndBoost b

/-- An overvoltage: switching stops for the rest of the period (R232). -/
def Dev.boostOv (d : Dev) (b : Nat) : Dev :=
  if (d.boost b).ovNow then d
  else
    let d := (d.put F.BOOST_FAULT_OV 1 b).raise Ev.BOOST_OV b
    let d := d.setBoost b fun t => { t with ovStop := true, ovNow := true, ovRun := t.ovRun + 1 }
    if 3 ≤ (d.boost b).ovRun then d.latchBoost b else d

/-- Writing 1 to OC restarts a latched boost through soft start and sets OUT_EN again (R233). -/
def Dev.boostOcClear (d : Dev) (b : Nat) : Dev :=
  let was := d.on F.BOOST_FAULT_LATCHED b
  let d := (d.put F.BOOST_FAULT_OC 0 b).put F.BOOST_FAULT_LATCHED 0 b
  if was then (if d.on F.BL_CTRL_EN then (d.icsOut b).softStart b else d.icsOut b) else d

/-! ### Enable and shutdown (R236) -/

/-- BL_ENABLE: EN sets and soft start begins on every enabled boost. -/
def Dev.blEnable (d : Dev) : Dev :=
  if d.on F.BL_CTRL_EN then d
  else ((d.put F.BL_CTRL_EN 1).put F.BL_STATUS_SHUT_CAUSE 0).each (List.range 16) Dev.softStart

/-- Shutdown with a cause: sinks off, boosts stopped, EN clear; the next FS or PS carries SCALE 0. -/
def Dev.blShut (d : Dev) (cause : Nat) : Dev :=
  let d := (d.put F.BL_CTRL_EN 0).put F.BL_STATUS_SHUT_CAUSE cause
  let off := fun (t : SinkState) => { t with segs := [], current := 0 }
  let stop := fun (t : BoostState) => { t with phase := 0 }
  { d with bl := { d.bl with sinks := d.bl.sinks.map fun (p : Nat × SinkState) => (p.1, off p.2),
                             boosts := d.bl.boosts.map fun (p : Nat × BoostState) => (p.1, stop p.2) } }.calEndAll

/-- RESTART resumes through soft start once the die is 15 °C below TJ_MAX. -/
def Dev.blRestart (d : Dev) : Dev :=
  if d.get F.BL_STATUS_SHUT_CAUSE = 0 then d
  else if d.getS F.BL_DIE_TEMP + 15 ≤ (d.get F.BL_LIMIT_TJ_MAX : Nat) then d.blEnable else d

/-- A raw reading of TS[8] in 1/16 °C: it, or the reading after correction, reaches TJ_MAX (R236, R261). -/
def Dev.dieHot (d : Dev) (raw : Int) : Dev :=
  if d.on F.BL_CTRL_EN && decide ((16 * d.get F.BL_LIMIT_TJ_MAX : Nat) ≤ max raw (raw + d.getS F.TS_CAL_OFS 8)) then
    (d.blShut 1).raise Ev.BL_OT
  else d

/-- A firmware write of BL_CTRL.EN (R236). -/
def Dev.blEnWrite (d : Dev) (en : Bool) : Dev :=
  if !en then d.blShut 3
  else if d.on F.BL_CTRL_EN then d
  else if d.get F.BL_STATUS_SHUT_CAUSE = 1 ∨ d.get F.BL_STATUS_SHUT_CAUSE = 2 then d.blRestart
  else d.blEnable

/-! ### Power budget (R234, R235) -/

/-- Strings lit from a boost: full-scale current and zone of each. -/
def Dev.boostStrings (d : Dev) (b : Nat) : List (Nat × Nat) :=
  ((d.enSinks.filter fun s => d.get F.SINK_CFG_BOOST s == b && d.stringOn s).map fun s => (d.sinkIfs s, d.get F.SINK_CFG_ZONE s)) ++
  (d.liveIcs.filter fun i => d.get F.ZB_MAP_BOOST i == b && (d.ic i).outEn && d.on F.BL_CTRL_EN).flatMap fun i =>
    ((List.range 128).filter fun c => decide (d.get F.ZB_MAP_BASE i + c ≤ 4095)).map fun c => (d.icIfs i, d.get F.ZB_MAP_BASE i + c)

/-- Predicted power p in 0.1 W: V_T in 10 mV, I in 0.5 mA × LEVEL / 255, DUTY / 65,535. -/
def Dev.predict (d : Dev) (duty : Nat → Nat × Nat) : Nat :=
  let p := sumN ((List.range 16).map fun b =>
    d.get F.BOOST_STATUS_TARGET b * sumN ((d.boostStrings b).map fun c => c.1 * (duty c.2).2 * (duty c.2).1))
  p / (255 * 65535 * 20000)

/-- The scale of a period under the budget. -/
def budgetScale (p b : Nat) : Nat := if p ≤ b then 32768 else 32768 * b / p

def Dev.budget (d : Dev) : Nat := min (d.get F.BL_BUDGET_LIMIT) (d.get F.BL_BUDGET_POLICY)

/-! ### Packet bytes (R243 to R248) -/

/-- CRC-8 with polynomial 0x07 and initial value 0xFF. -/
def crc8 (bs : List Byte) : Nat :=
  bs.foldl (fun c b => (List.range 8).foldl (fun c _ => if bit c 7 then (c * 2 ^^^ 0x07) % 256 else c * 2) (c ^^^ b.toNat)) 0xFF

/-- The bytes of a UPD packet: CRC-16 high byte first, then ACK as 0. -/
def updBytes (es : List UpdEntry) : List Byte :=
  let e := es.headD ⟨0, 0, 0, 0, false, 0⟩
  let body := [byteOf 0x10, byteOf e.ic, byteOf (es.length + (if e.now then 128 else 0))] ++
    es.flatMap fun e => [byteOf e.ch, byteOf e.duty, byteOf (e.duty / 256), byteOf e.level]
  body ++ beBytes 2 (crc16 body) ++ [0]

/-- The 7 payload bytes of FS and PS (R243). -/
def fsBytes (index frame perLen scale : Nat) : List Byte :=
  let b := [byteOf (index + frame % 32 * 8)] ++ leBytes 3 perLen ++ leBytes 2 scale
  b ++ [byteOf (crc8 b)]

/-- STAT with `n` empty slots (R246). -/
def statBytes (n : Nat) : List Byte :=
  let h := [byteOf 0x20, byteOf 0x1F, byteOf n]
  h ++ [byteOf (crc8 h)] ++ List.replicate (8 * n) 0

/-- RST_ADDR, and ENUM with NEXT 0 (R248). -/
def rstBytes : List Byte := [byteOf 0x41, byteOf 0x1F, byteOf (crc8 [byteOf 0x41, byteOf 0x1F])]
def enumBytes : List Byte := [byteOf 0x40, 0, byteOf (crc8 [byteOf 0x40, 0])]

/-! ### The ring (R245 to R249) -/

def Dev.ringUp (d : Dev) : Bool := d.on F.ZB_STATUS_RING_UP && d.on F.BL_CTRL_ZB_EN

/-- The duties that the device holds for an IC, channel by channel; a channel past zone 4,095 stays off. -/
def Dev.icDuties (d : Dev) (i : Nat) : List (Nat × Nat) :=
  (List.range 128).map fun c => if d.get F.ZB_MAP_BASE i + c ≤ 4095 then d.dutyOf (d.get F.ZB_MAP_BASE i + c) else (0, 0)

/-- Its CRC as the IC forms it (TCRC). -/
def Dev.icCrc (d : Dev) (i : Nat) : Nat :=
  crc16 ((d.icDuties i).flatMap fun p => [byteOf p.1, byteOf (p.1 / 256), byteOf p.2])

/-- All 128 channels of an IC are queued with NOW. -/
def Dev.resendIc (d : Dev) (i : Nat) : Dev :=
  let es := (d.icDuties i).zipIdx.map fun (p, c) => (⟨i, c, p.1, p.2, true, d.get F.ZB_MAP_BASE i + c⟩ : UpdEntry)
  { d with bl := { d.bl with queue := d.bl.queue ++ es } }

/-- A type-1 merge of a zone: it is late after the cutoff, or on the bus while its ring is down or the reserve timer drives
the panel; else its channels' entries are queued (R224, R225, R245, R249). -/
def Dev.blMerge (d : Dev) (z : Nat) : Dev :=
  if !d.zoneLit z then d
  else if d.bl.cutoff || (d.busLit z && (!d.ringUp || d.scan.compLost)) then { d with bl := { d.bl with late := insertN z d.bl.late } }
  else
    let a := 1 - d.curArea z 0
    let duty := d.lsPeekN (d.granAddr a z 0) 2
    let level := d.lsPeekN (d.granAddr a z 0 + 2) 1
    let es := (d.busChannels z).map fun (i, c) => (⟨i, c, duty, level, false, z⟩ : UpdEntry)
    { d with bl := { d.bl with queue := d.bl.queue ++ es } }

/-- The entries of the next packet: those at the head of the queue for one IC of one kind, at most 8. -/
def nextPacket (q : List UpdEntry) : List UpdEntry :=
  match q with
  | [] => []
  | e :: es => (e :: es.takeWhile fun f => f.ic == e.ic && f.now == e.now).take 8

/-- The next UPD packet goes out (R245). -/
def Dev.updSend (d : Dev) : Dev :=
  let p := nextPacket d.bl.queue
  if p.isEmpty || !d.ringUp then d
  else { d with bl := { d.bl with queue := d.bl.queue.drop p.length, flight := d.bl.flight ++ [p] } }.zbSend (zbPacket (updBytes p))

/-- The oldest packet returns: an entry without acknowledgement is sent again, until the cutoff. -/
def Dev.updReturn (d : Dev) (ack : Bool) : Dev :=
  match d.bl.flight with
  | [] => d
  | p :: ps =>
    let d := { d with bl := { d.bl with flight := ps, acked := if ack then d.bl.acked ++ p else d.bl.acked } }
    if ack || (d.bl.cutoff && p.all (fun e => !e.now)) then d else { d with bl := { d.bl with queue := p ++ d.bl.queue } }

/-- Entries of zones' updates without acknowledgement. -/
def Dev.updOpen (d : Dev) : List UpdEntry := (d.bl.queue ++ d.bl.flight.flatten).filter fun e => !e.now

/-- Zones whose update is not acknowledged are late, and nothing of it is sent any more (R245, R248, R249). -/
def Dev.updGiveUp (d : Dev) : Dev :=
  { d with bl := { d.bl with queue := d.bl.queue.filter (·.now),
                             late := d.updOpen.foldl (fun l (e : UpdEntry) => insertN e.zone l) d.bl.late } }

/-- Each channel of some entries gets the value in force once more. -/
def Dev.updUndo (d : Dev) (es : List UpdEntry) : Dev :=
  let again := es.map fun e => let p := d.dutyOf e.zone; { e with duty := p.1, level := p.2 }
  let again := again.foldl (fun l e => if l.any fun f => f.ic == e.ic && f.ch == e.ch then l else l ++ [e]) []
  { d with bl := { d.bl with queue := d.bl.queue ++ again } }

/-- Granule 0 of every lit zone is read through master port 6, as it will be after the coming latch point (R224); the spec
gives no duty for a read that ends in an error: it is a free value (log entry 85). -/
def Dev.blRead (d : Dev) : Dev :=
  let (d, l) := d.litZones.foldl (fun (d, l) z =>
    let (d, st, bs) := d.lsRead 6 (d.nextGranule z) 3
    if st = .ok then (d, l ++ [(z, leNat (bs.take 2), leNat (bs.drop 2))])
    else
      let (key, d) := d.fresh
      (d, l ++ [(z, leNat ((List.range 2).map (Config.freeByte key)), (Config.freeByte key 2).toNat)])) (d, [])
  { d with bl := { d.bl with taken := some l } }

/-- The duty cutoff (R224, R245): a bus zone still unacknowledged is late, each of its channels gets the value in force once
more, and the reads of granule 0 begin. -/
def Dev.dutyCutoff (d : Dev) : Dev :=
  let es := d.updOpen
  let d := (d.updGiveUp).updUndo es
  { d with bl := { d.bl with cutoff := true } }.blRead

/-- While the reserve timer drives the panel the duties of the last latch point are kept: what pends for the ICs is undone
(R225). -/
def Dev.blHold (d : Dev) : Dev :=
  let es := d.updOpen ++ d.bl.acked
  let d := d.updGiveUp.updUndo es
  { d with bl := { d.bl with acked := [] } }

/-- Late merges at the latch point: DIRTY[z][1] clears instead of flipping (R224). -/
def Dev.blLate (d : Dev) : Dev :=
  let zs := d.bl.late.filter fun z => d.isDirty z 1
  let d := d.each zs fun d z =>
    let d := { d with sched := { d.sched with dirty := removeN (8 * z + 1) d.sched.dirty } }
    (((d.inc F.JOB_LATE_COUNT_COUNT 1).raise Ev.JOB_LATE).inc F.BL_LATE_COUNT_COUNT).raise Ev.BL_LATE
  { d with bl := { d.bl with late := [], cutoff := false } }

/-- The duties of the frame are in force (R224, R225). -/
def Dev.blTakeDuties (d : Dev) : Dev :=
  { d with bl := { d.bl with duties := d.bl.taken.getD d.bl.duties, taken := none, acked := [] } }

/-- A latch point of the backlight, `ns` after the one before: the length of the frame from which its periods follow; the
nominal frame period at the first (R226). -/
def Dev.blLatch (d : Dev) (ns : Nat) : Dev :=
  { d with bl := { d.bl with latched := true, frameNs := if d.bl.latched then ns else 0 } }

/-- A latch point that the reserve timer gives: duties stay, and late merges wait for COMP (R225). -/
def Dev.blReserve (d : Dev) (ns : Nat) : Dev :=
  let d := d.blLatch ns
  { d with bl := { d.bl with cutoff := false, taken := none } }

/-- Duty and level of a zone for the period 0 that comes: kept while the reserve timer drives the panel (R225). -/
def Dev.comingDuty (d : Dev) (z : Nat) : Nat × Nat :=
  if d.scan.compLost then d.dutyOf z
  else match d.bl.taken with
    | some l => (assoc z l).getD (0, 0)
    | none => d.nextDuty z

/-- FS or PS goes out ZB_LEAD before a period, with the budget scale of that period (R234, R243); a STAT that has not
returned counts as no reply (R246). -/
def Dev.fsSend (d : Dev) (index : Nat) : Dev :=
  let d := if d.bl.statOut && !d.bl.replied then
      { d with bl := { d.bl with noReply := d.bl.noReply + 1, statOut := false } }.each d.liveIcs fun d i => d.setIc i fun t => { t with slot := false }
    else { d with bl := { d.bl with statOut := false } }
  let p := d.predict (if index = 0 then d.comingDuty else d.dutyOf)
  let k := if d.on F.BL_CTRL_EN then budgetScale p d.budget else 0
  let d := { d with bl := { d.bl with pred := p, nextScale := k } }
  if d.on F.BL_CTRL_ZB_EN then
    d.zbSend ((if index = 0 then zbFS else zbPS) :: (fsBytes index (d.get F.FRAME_COUNT_FRAME) (d.periodTicks 10) k).map .data)
  else d

/-- STAT goes out (R246). -/
def Dev.statSend (d : Dev) : Dev :=
  if d.on F.BL_CTRL_ZB_EN then
    { d with bl := { d.bl with statOut := true, replied := false } }.zbSend (zbPacket (statBytes (d.get F.ZB_STATUS_FOUND)))
  else d

/-- A FLAGS fault bit of an IC becomes 1: the event, which the log keeps, and the reads of its four bitmaps; the spec gives
no log entry that holds a bitmap (R246; log entry 86). -/
def Dev.icFault (d : Dev) (i : Nat) : Dev :=
  (d.raise Ev.ZB_IC_FAULT i).zbMore ((List.range 4).flatMap fun k => zbPacket (regRdBytes i (0x10 + 16 * k) 16))

/-- One slot of a STAT (R246, R247). -/
def Dev.takeSlot (d : Dev) (i : Nat) (s : List Byte) : Dev :=
  let u := fun o => ((s[o]?).getD 0).toNat
  if s.length ≠ 8 ∨ crc8 (s.take 7) ≠ u 7 ∨ s.all (· == 0) then d.setIc i fun t => { t with slot := false }
  else
    let flags := u 2
    let old := d.get F.ZB_IC_STATUS_FLAGS i
    let d := ((d.put F.ZB_IC_STATUS_NEED (u 0 + 256 * u 1) i).put F.ZB_IC_STATUS_FLAGS flags i).put F.ZB_IC_STATUS_FCH (u 3) i
    let d := d.setIc i fun t =>
      { t with slot := true, temp := u 4, need := if bit flags 5 then u 0 + 256 * u 1 else t.need, ever := t.ever || bit flags 5 }
    let d := { d with bl := { d.bl with replied := true } }
    let d := if (flags &&& 0x1F) &&& (0xFF - old) != 0 then d.icFault i else d
    if d.get F.BL_STATUS_PERIOD = 0 ∧ u 5 + 256 * u 6 ≠ d.icCrc i then (d.raise Ev.ZB_DESYNC).resendIc i else d

/-- A STAT returns before the next FS or PS instant. -/
def Dev.statReturn (d : Dev) (slots : List (List Byte)) : Dev :=
  if !d.bl.statOut then d
  else
    let d := d.each d.liveIcs fun d i => d.takeSlot i ((slots[i]?).getD [])
    { d with bl := { d.bl with statOut := false, noReply := if d.bl.replied then 0 else d.bl.noReply + 1 } }

/-- The ring is down (R249): every bus zone's pending merge is late. -/
def Dev.ringDown (d : Dev) : Dev :=
  if !d.on F.ZB_STATUS_RING_UP then d
  else
    let d := (d.updGiveUp).put F.ZB_STATUS_RING_UP 0
    { d with bl := { d.bl with queue := [], flight := [], down := true } }.raise Ev.ZB_RING_DOWN

/-- Enumeration starts (R248). -/
def Dev.enumStart (d : Dev) : Dev :=
  { d.put F.ZB_CTRL_ENUM 1 with bl := { d.bl with enumOut := true } }.zbSend (zbPacket rstBytes ++ zbPacket enumBytes)

/-- The ring holds lock again: it is enumerated, and up (R249). -/
def Dev.replug (d : Dev) : Dev :=
  if d.on F.ZB_STATUS_RING_UP then d
  else { (d.enumStart).put F.ZB_STATUS_RING_UP 1 with bl := { d.enumStart.bl with down := false, noReply := 0, statOut := false } }.raise
    Ev.ZB_REPLUG

/-- The ID of an IC meets the boot image's expectation: an entry of 0 accepts any IC, REV 0xFF any REV. -/
def idOk (want : Nat × Nat × Nat) (got : BitVec 16 × Byte × Byte) : Bool :=
  want == (0, 0, 0) || (want.1 == got.1.toNat && want.2.1 == got.2.1.toNat && (want.2.2 == 0xFF || want.2.2 == got.2.2.toNat))

/-- Configure an enumerated IC: its ID is read, PDLY, IFS, SEG_N, SEG_MIN, STAGGER and CTRL are written in one packet, then
its channels follow (R243, R248); the need it has reported is held. -/
def Dev.configureIc (d : Dev) (i : Nat) (id : BitVec 16 × Byte × Byte) : Dev :=
  let ok := idOk (((d.bl.zbIds[i]?)).getD (0, 0, 0)) id
  let d := d.setIc i fun t => { t with idOk := ok, slot := false }
  let en := d.icMay i
  let regs := [1400 - 40 * i, d.icIfs i, d.segN, d.get F.BL_SEG_SEG_MIN, d.get F.BL_SEG_STAGGER, d.icCtrl en]
  let bytes := leBytes 2 (nth regs 0) ++ [byteOf (nth regs 1), byteOf (nth regs 2)] ++ leBytes 2 (nth regs 3) ++
    leBytes 2 (nth regs 4) ++ [byteOf (nth regs 5)]
  let d := (d.setIc i fun t => { t with outEn := en, regs := regs }).zbMore
    (zbPacket (regRdBytes i 0 4) ++ zbPacket (regWrBytes i 5 bytes))
  (d.raiseIf (!ok) Ev.ZB_ENUM_SHORT).resendIc i

/-- The ENUM returns with the ICs found (R248). -/
def Dev.enumReturn (d : Dev) (ids : List (BitVec 16 × Byte × Byte)) : Dev :=
  if !d.bl.enumOut then d
  else
    let ids := ids.take 31
    let n := ids.length
    let d := (((d.put F.ZB_CTRL_ENUM 0).put F.ZB_STATUS_FOUND n).put F.ZB_PRESENT_ICS (2 ^ n - 1)).put F.ZB_STATUS_RING_UP 1
    let d := d.updGiveUp
    let d := { d with bl := { d.bl with enumOut := false, noReply := 0, queue := [], flight := [], down := false } }.zbSend []
    let d := d.raiseIf (decide (n < d.get F.ZB_CTRL_EXPECT)) Ev.ZB_ENUM_SHORT
    d.each ids.zipIdx fun d p => d.configureIc p.2 p.1

/-! ### Samples and faults of direct strings (R230, R237 to R241) -/

/-- A sink has a string of its own: it is open, and goes dark (R237). -/
def Dev.openSink (d : Dev) (s : Nat) : Dev :=
  (((d.put F.SINK_STATUS_OPEN 1 s).put F.SINK_STATUS_OFF 1 s).raise Ev.OPEN s |>.setSink s fun t => { t with segs := [], offNow := true }).calEndSink s

/-- The sample at the end of an on-segment of 1.5 µs or more; voltages in 10 mV.  A string whose sample shows V_PIN below
0.10 V in a second period running is open, where its boost has V_OUT (R230, R237); one that another fault has turned OFF in
this period is sampled still (R241). -/
def Dev.needSample (d : Dev) (s vOut vPin : Nat) : Dev :=
  if !d.stringOn s && !(d.sink s).offNow then d
  else
    let b := d.get F.SINK_CFG_BOOST s
    let low := decide (vPin < 10)
    let d := (d.put F.SINK_STATUS_NEED (min 65535 (vOut - vPin + 25)) s).put F.SINK_STATUS_DIAG_STALE 0 s
    let d := d.setSink s fun t => { t with ever := true, sampled := true, dropout := low, low := low }
    if low && (d.sink s).lowPrev && d.boostUsable b && decide (d.get F.BOOST_STATUS_TARGET b ≤ vOut + 50) then d.openSink s else d

/-- LED_SHORT of the strings of a boost, at the end of a period (R238). -/
def Dev.ledShorts (d : Dev) (b : Nat) : Dev :=
  let mine := d.enSinks.filter fun s => d.get F.SINK_CFG_BOOST s == b
  let ss := mine.filter fun s => (d.sink s).sampled
  d.each mine fun d s =>
    let m := median ((ss.filter (· != s)).map fun k => d.get F.SINK_STATUS_NEED k)
    let below := decide (3 ≤ ss.length) && (d.sink s).sampled && decide (d.get F.SINK_STATUS_NEED s + 200 ≤ m)
    let d := d.setSink s fun t => { t with short := if below then t.short + 1 else 0 }
    if 4 ≤ (d.sink s).short ∧ ¬ d.on F.SINK_STATUS_LED_SHORT s then
      ((d.put F.SINK_STATUS_LED_SHORT 1 s).raise Ev.LED_SHORT s).calEndSink s
    else d

/-- The end of a period for the samples: a period without a sample restarts the open count. -/
def Dev.endSamples (d : Dev) : Dev :=
  let d := d.each (List.range 16) Dev.ledShorts
  d.each d.enSinks fun d s => d.setSink s fun t =>
    { t with lowPrev := t.sampled && t.low, low := false, sampled := false, offNow := false, tests := 0 }

/-- Neighbouring sinks of the ball grid (R241). -/
def pinNeighbours (a b : Nat) : Bool := (b == a + 1 && a % 32 != 31) || b == a + 32

/-- The outcome of a neighbouring-pin test; two positive results are a short.  A string turned OFF is not tested, but one
whose fault falls in the same period shows both (R241). -/
def Dev.pinTest (d : Dev) (a b : Nat) (r : PinTest) : Dev :=
  let off := fun (s : Nat) => (d.on F.SINK_STATUS_OFF s && !(d.sink s).offNow) || d.on F.BOOST_FAULT_LATCHED (d.get F.SINK_CFG_BOOST s)
  if !pinNeighbours a b || !d.on F.BL_CTRL_PIN_TEST_EN || off a || off b then d
  else
    let d := if r = .stale then d else d.each [a, b] fun d s => d.setSink s fun t => { t with tests := t.tests + 1 }
    match r with
    | .stale => (d.put F.SINK_STATUS_PIN_STALE 1 a).put F.SINK_STATUS_PIN_STALE 1 b
    | .clear =>
      let d := (d.put F.SINK_STATUS_PIN_STALE 0 a).put F.SINK_STATUS_PIN_STALE 0 b
      { d with bl := { d.bl with pinOnce := d.bl.pinOnce.filter (· != (a, b)) } }
    | .positive =>
      if d.bl.pinOnce.contains (a, b) then
        let d := { d with bl := { d.bl with pinOnce := d.bl.pinOnce.filter (· != (a, b)) } }
        d.each [a, b] fun d s => ((((d.put F.SINK_STATUS_PIN_SHORT 1 s).put F.SINK_STATUS_OFF 1 s).setSink s fun t => { t with segs := [], offNow := true }).raise
          Ev.PIN_SHORT s).calEndSink s
      else { d with bl := { d.bl with pinOnce := d.bl.pinOnce ++ [(a, b)] } }

/-- A write of 1 to the fault bits of a sink (bit 1 OPEN, 2 LED_SHORT, 3 PIN_SHORT): the string lights again when neither
OPEN nor PIN_SHORT is left (R237, R241). -/
def Dev.sinkFaultClear (d : Dev) (s clr : Nat) : Dev :=
  let d := if bit clr 1 then d.put F.SINK_STATUS_OPEN 0 s else d
  let d := if bit clr 2 then d.put F.SINK_STATUS_LED_SHORT 0 s else d
  let d := if bit clr 3 then d.put F.SINK_STATUS_PIN_SHORT 0 s else d
  if d.on F.SINK_STATUS_OPEN s || d.on F.SINK_STATUS_PIN_SHORT s then d else d.put F.SINK_STATUS_OFF 0 s

/-- A diagnostic pulse falls due after 64 periods without a long segment: the next period lights one pulse (R239). -/
def Dev.diagPulse (d : Dev) (s : Nat) : Dev :=
  if d.on F.BL_CTRL_DIAG_EN && decide (64 ≤ (d.sink s).noLong) && d.stringOn s then d.setSink s fun t => { t with pulse := true } else d

/-! ### Period start -/

/-- The period's registers: its index and scale, the power predicted for and measured in the period that ends, symbol errors
on ZB_RX, the outputs read. -/
def Dev.blPeriodShow (d : Dev) (index : Nat) (m : PwmSense) : Dev :=
  let k := d.get F.BL_STATUS_SCALE
  let d := (d.put F.BL_STATUS_PERIOD index).put F.BL_STATUS_SCALE d.bl.nextScale
  let d := ((d.put F.BL_MON_PRED (min 65535 d.bl.predNow)).put F.BL_MON_MEAS m.meas).inc F.ZB_ERR_COUNT_COUNT 0 m.zbErrors
  let d := { d with bl := { d.bl with predNow := d.bl.pred } }
  let d := d.raiseIf (k == 32768 && decide (d.bl.nextScale < 32768) && d.on F.BL_CTRL_EN) Ev.BL_SCALE
  let d := d.put F.BL_DIE_DIE_POWER m.diePower
  d.each (m.vOut.zipIdx.take 16) fun d p => d.put F.BOOST_STATUS_V_OUT p.1 p.2

/-- A boost at a period start: its overvoltage run and its target (R231, R232). -/
def Dev.blPeriodBoost (d : Dev) (b : Nat) : Dev :=
  let below := decide (d.get F.BL_LIMIT_VMAX * 25 ≤ d.get F.BOOST_STATUS_V_OUT b)
  let d := d.setBoost b fun t =>
    { t with ovRun := if t.ovNow then t.ovRun else 0, ovNow := false, ovStop := t.ovStop && below }
  d.boostTarget b

/-- The dissipation of the die over its limit for two periods shuts the backlight down (R236). -/
def Dev.blPeriodDie (d : Dev) (m : PwmSense) : Dev :=
  let n := if d.get F.BL_LIMIT_PDIE_MAX * 100 < m.diePower * 16 then d.bl.dieOver + 1 else 0
  let d := { d with bl := { d.bl with dieOver := n } }
  if 2 ≤ n ∧ d.on F.BL_CTRL_EN then (d.blShut 2).raise Ev.BL_OT else d

/-- The backlight's part of a period start (R226, R231, R232, R234, R236). -/
def Dev.blPeriod (d : Dev) (index : Nat) (m : PwmSense) : Dev :=
  let d := (d.blPeriodShow index m).endSamples
  let d := d.each (List.range 16) Dev.blPeriodBoost
  (d.each d.enSinks Dev.lightSink).blPeriodDie m

/-- Checks of a boot image's strings (R222). -/
def Dev.cfgBl (d : Dev) : Bool :=
  (List.range 16).any (fun b => decide (8 < (d.enSinks.filter fun s => d.get F.SINK_CFG_BOOST s == b).length)) ||
  (d.enSinks.any fun s => !d.on F.BOOST_CFG_EN (d.get F.SINK_CFG_BOOST s)) ||
  ((idxs 31 fun i => d.on F.ZB_MAP_EN i).any fun i => !d.on F.BOOST_CFG_EN (d.get F.ZB_MAP_BOOST i))

/-! ### Meanings -/

/-- BL_ENABLE (R236). -/
def execBlEnable (s : State) : Host.Outcome State Fault Refusal := .next (s.upd (·.blEnable))
/-- BL_OFF (R236): the shutdown with SHUT_CAUSE 3 and no event. -/
def execBlOff (s : State) : Host.Outcome State Fault Refusal := .next (s.upd (·.blShut 3))
/-- ZB_FS_SEND (R234, R243): FS for period 0, PS for the others. -/
def execZbFsSend (index : Fin 8) (s : State) : Host.Outcome State Fault Refusal :=
  .next (s.upd fun d => let d := d.fsSend index; if 2 ≤ d.bl.noReply then d.ringDown else d)
/-- DUTY_CUTOFF (R224, R245). -/
def execDutyCutoff (s : State) : Host.Outcome State Fault Refusal := .next (s.upd (·.dutyCutoff))
/-- ZB_UPD_SEND (R245). -/
def execZbUpdSend (s : State) : Host.Outcome State Fault Refusal := .next (s.upd (·.updSend))
/-- ZB_UPD_RETURN (R245): `ack` says that the packet shows 0xA5. -/
def execZbUpdReturn (ack : Bool) (s : State) : Host.Outcome State Fault Refusal := .next (s.upd (·.updReturn ack))
/-- ZB_STAT_SEND (R246). -/
def execZbStatSend (s : State) : Host.Outcome State Fault Refusal := .next (s.upd (·.statSend))
/-- ZB_STAT_RETURN (R246, R247). -/
def execZbStatReturn (slots : List (List Byte)) (s : State) : Host.Outcome State Fault Refusal :=
  .next (s.upd (·.statReturn slots))
/-- ZB_ENUM (R248): a write of ZB_CTRL.ENUM. -/
def execZbEnum (s : State) : Host.Outcome State Fault Refusal :=
  .next (s.upd fun d => d.viaDomain domBL (R.ZB_CTRL.at 0) 0x80000000 (·.enumStart))
/-- ZB_RING_DOWN (R249). -/
def execZbRingDown (s : State) : Host.Outcome State Fault Refusal := .next (s.upd (·.ringDown))
/-- ZB_REPLUG (R249): the ring is enumerated again. -/
def execZbReplug (s : State) : Host.Outcome State Fault Refusal := .next (s.upd (·.replug))
/-- NEED_SAMPLE (R230, R237): voltages in 10 mV. -/
def execNeedSample (sink : Fin 128) (vOut vPin : Nat) (s : State) : Host.Outcome State Fault Refusal :=
  .next (s.upd (·.needSample sink vOut vPin))
/-- BOOST_OV (R232). -/
def execBoostOv (b : Fin 16) (s : State) : Host.Outcome State Fault Refusal := .next (s.upd (·.boostOv b))
/-- BOOST_OC (R233): ILIM in 64 consecutive switching cycles. -/
def execBoostOc (b : Fin 16) (s : State) : Host.Outcome State Fault Refusal := .next (s.upd (·.latchBoost b))
/-- BOOST_UV_TIMEOUT (R233): below half the target for 1 ms after soft start. -/
def execBoostUvTimeout (b : Fin 16) (s : State) : Host.Outcome State Fault Refusal :=
  .next (s.upd fun d => if (d.boost b).phase = 2 then d.latchBoost b else d)
/-- BOOST_OC_CLEAR (R233): a write of 1 to BOOST_FAULT.OC. -/
def execBoostOcClear (b : Fin 16) (s : State) : Host.Outcome State Fault Refusal :=
  .next (s.upd fun d => d.viaDomain domBL (R.BOOST_FAULT.at b) 2 (·.boostOcClear b))
/-- SOFT_START_DONE (R229). -/
def execSoftStartDone (b : Fin 16) (s : State) : Host.Outcome State Fault Refusal := .next (s.upd (·.softStartDone b))
/-- BL_SHUTDOWN (R236, R261): the higher of the raw and the corrected reading reaches TJ_MAX, or the dissipation has exceeded
PDIE_MAX in two periods running. -/
def execBlShutdown (why : ShutWhy) (s : State) : Host.Outcome State Fault Refusal :=
  .next (s.upd fun d => match why with
    | .temperature raw => d.dieHot raw.toInt
    | .dissipation => if d.on F.BL_CTRL_EN ∧ 2 ≤ d.bl.dieOver then (d.blShut 2).raise Ev.BL_OT else d)
/-- BL_RESTART (R236): a write of BL_CTRL.RESTART. -/
def execBlRestart (s : State) : Host.Outcome State Fault Refusal :=
  .next (s.upd fun d => d.viaDomain domBL (R.BL_CTRL.at 0) (d.rdShadow R.BL_CTRL ||| 0x40000000) (·.blRestart))
/-- BL_POLICY (R235): a write of BL_BUDGET.POLICY; the next FS or PS that is sent uses it. -/
def execBlPolicy (policy : BitVec 16) (s : State) : Host.Outcome State Fault Refusal :=
  .next (s.upd fun d => d.viaDomain domBL (R.BL_BUDGET.at 0) (policy.toNat * 65536 + d.get F.BL_BUDGET_LIMIT) (·.put F.BL_BUDGET_POLICY policy.toNat))
/-- DIAG_PULSE (R239). -/
def execDiagPulse (sink : Fin 128) (s : State) : Host.Outcome State Fault Refusal := .next (s.upd (·.diagPulse sink))
/-- PIN_TEST (R241). -/
def execPinTest (a b : Fin 128) (result : PinTest) (s : State) : Host.Outcome State Fault Refusal :=
  .next (s.upd (·.pinTest a b result))
/-- SINK_FAULT_CLEAR (R237, R241): a write of SINK_STATUS. -/
def execSinkFaultClear (sink : Fin 128) (clr : BitVec 4) (s : State) : Host.Outcome State Fault Refusal :=
  .next (s.upd fun d => d.viaDomain domBL (R.SINK_STATUS.at sink) clr.toNat (·.sinkFaultClear sink clr.toNat))
/-- JOB_MERGE_DONE (R188, R203, R211, R224, R245): an error strikes the first word of the job buffer. -/
def execJobMergeDone (dale : Byte) (merge : MergeEnd) (s : State) : Host.Outcome State Fault Refusal :=
  .next (s.upd fun d =>
    match (d.dale dale.toNat).job with
    | some j =>
      if j.merging then
        let d := (d.daleTick dale.toNat merge.cyc).glenUpset dale.toNat (jobBufAt dale.toNat) merge.ecc
        let bad := (d.glenMeet dale.toNat (jobBufAt dale.toNat) 256).2
        let d := d.mergeDone dale.toNat
        if j.type = 1 ∧ bad = false then d.blMerge j.zone else d
      else d
    | none => d)

end Sys2Proof.Machine
end

