-- ==== Sys2Proof/Machine/Sha.lean ====
section
/-! DEFINITION.  SHA-256 (FIPS 180-4) and ECDSA verification on P-256 (FIPS 186-5), which R393 and R394 name. -/

set_option Elab.async false

namespace Sys2Proof.Machine

/-! ### SHA-256 -/

/-- The largest `r` below `r0` + 2^`b` with `r` ^ `k` ≤ `n`, found bit by bit. -/
def rootFrom (k n : Nat) : Nat → Nat → Nat
  | 0, r => r
  | b + 1, r => rootFrom k n b (if (r + 2 ^ b) ^ k ≤ n then r + 2 ^ b else r)

/-- The first 64 primes. -/
def primes64 : List Nat := (List.range 312).filter fun p => decide (2 ≤ p) && (List.range 18).all fun q => decide (q < 2) || q == p || p % q != 0

/-- The first 32 bits of the fraction of the `k`-th root of a prime (FIPS 180-4 takes its constants so). -/
def rootWord (k p : Nat) : Nat := rootFrom k (p * 2 ^ (32 * k)) 37 0 % 2 ^ 32

/-- Round constants: cube roots of the first 64 primes.  Initial hash: square roots of the first 8. -/
def shaK : List Nat := primes64.map (rootWord 3)
def shaInit : List Nat := (primes64.take 8).map (rootWord 2)

def rotr (x n : Nat) : Nat := (x / 2 ^ n + x % 2 ^ n * 2 ^ (32 - n)) % 2 ^ 32
def add32 (a b : Nat) : Nat := (a + b) % 2 ^ 32

/-- The message with its padding. -/
def shaPad (m : List Byte) : List Byte :=
  m ++ [0x80] ++ List.replicate ((119 - m.length % 64) % 64) 0 ++ beBytes 8 (8 * m.length)

/-- The schedule: 16 words of the block, extended to 64; newest word first. -/
def shaExtend : Nat → List Nat → List Nat
  | 0, w => w
  | n + 1, w =>
    let s0 := fun (x : Nat) => rotr x 7 ^^^ rotr x 18 ^^^ x / 8
    let s1 := fun (x : Nat) => rotr x 17 ^^^ rotr x 19 ^^^ x / 1024
    shaExtend n (add32 (add32 (s1 (nth w 1)) (nth w 6)) (add32 (s0 (nth w 14)) (nth w 15)) :: w)

/-- One round on the working variables a to h. -/
def shaRound (v : List Nat) (kw : Nat × Nat) : List Nat :=
  match v with
  | [a, b, c, d, e, f, g, h] =>
    let t1 := add32 (add32 h (rotr e 6 ^^^ rotr e 11 ^^^ rotr e 25)) (add32 ((e &&& f) ^^^ ((2 ^ 32 - 1 - e) &&& g)) (add32 kw.1 kw.2))
    let t2 := add32 (rotr a 2 ^^^ rotr a 13 ^^^ rotr a 22) ((a &&& b) ^^^ (a &&& c) ^^^ (b &&& c))
    [add32 t1 t2, a, b, c, add32 d t1, e, f, g]
  | _ => v

/-- One block of 64 bytes. -/
def shaBlock (hs : List Nat) (block : List Byte) : List Nat :=
  let w := (shaExtend 48 (((List.range 16).map fun i => beNat ((block.drop (4 * i)).take 4)).reverse)).reverse
  ((shaK.zip w).foldl shaRound hs |>.zip hs).map fun p => add32 p.1 p.2

/-- The blocks of a padded message. -/
def shaBlocks : Nat → List Byte → List Nat → List Nat
  | 0, _, hs => hs
  | n + 1, bs, hs => shaBlocks n (bs.drop 64) (shaBlock hs (bs.take 64))

/-- The digest as a number, most significant byte first. -/
def sha256 (m : List Byte) : Nat :=
  let p := shaPad m
  (shaBlocks (p.length / 64) p shaInit).foldl (fun a x => a * 2 ^ 32 + x) 0

/-! ### P-256 -/

def p256P : Nat := 2 ^ 256 - 2 ^ 224 + 2 ^ 192 + 2 ^ 96 - 1
def p256N : Nat := 0xFFFFFFFF00000000FFFFFFFFFFFFFFFFBCE6FAADA7179E84F3B9CAC2FC632551
def p256B : Nat := 0x5AC635D8AA3A93E7B3EBBD55769886BC651D06B0CC53B0F63BCE3C3E27D2604B
def p256G : Nat × Nat := (0x6B17D1F2E12C4247F8BCE6E563A440F277037D812DEB33A0F4A13945D898C296,
  0x4FE342E2FE1A7F9B8EE7EB4A7C0F9E162BCE33576B315ECECBB6406837BF51F5)

/-- Power modulo `m`, by the bits of the exponent from bit `n` − 1 down. -/
def powMod (m a e : Nat) : Nat → Nat
  | 0 => 1 % m
  | n + 1 => let x := powMod m a (e / 2) n; if e % 2 = 1 then x * x % m * a % m else x * x % m

/-- Inverse modulo a prime. -/
def invMod (m a : Nat) : Nat := powMod m a (m - 2) 256

/-- A point of the curve; none is the point at infinity. -/
abbrev EcPoint := Option (Nat × Nat)

def subMod (a b : Nat) : Nat := (a + p256P - b % p256P) % p256P

def ecAdd : EcPoint → EcPoint → EcPoint
  | none, q => q
  | p, none => p
  | some (x1, y1), some (x2, y2) =>
    if x1 = x2 ∧ (y1 + y2) % p256P = 0 then none
    else
      let l := if x1 = x2 then (3 * x1 * x1 + (p256P - 3)) % p256P * invMod p256P (2 * y1 % p256P) % p256P
        else subMod y2 y1 * invMod p256P (subMod x2 x1) % p256P
      let x3 := subMod (l * l) (x1 + x2)
      some (x3, subMod (l * subMod x1 x3) y1)

/-- Multiple of a point by the low `n` bits of a number. -/
def ecMul (k : Nat) (p : EcPoint) : Nat → EcPoint
  | 0 => none
  | n + 1 => let q := ecMul (k / 2) p n; let q2 := ecAdd q q; if k % 2 = 1 then ecAdd q2 p else q2

/-- A point satisfies the curve equation. -/
def onCurve (x y : Nat) : Bool :=
  decide (x < p256P) && decide (y < p256P) && y * y % p256P == (x * x * x + (p256P - 3) * x + p256B) % p256P

/-- The signature (r, s) of digest `e` verifies under public key (x, y) (R394). -/
def ecdsaOk (x y e r s : Nat) : Bool :=
  onCurve x y && decide (1 ≤ r) && decide (r < p256N) && decide (1 ≤ s) && decide (s < p256N) &&
    (let w := invMod p256N s
     match ecAdd (ecMul (e * w % p256N) (some p256G) 256) (ecMul (r * w % p256N) (some (x, y)) 256) with
     | some (px, _) => px % p256N == r
     | none => false)

end Sys2Proof.Machine
end

