-- ==== Sys2Proof/Machine/Stream.lean ====
section
/-! DEFINITION.  Bluris stream mode (R175 to R181): tokens, the resumable decompressor and the span compressor.
Pure functions over bytes; `back` is the stream's output or coded input, newest byte first. -/

set_option Elab.async false

namespace Sys2Proof.Machine

/-- Header bytes of the token that begins with these bytes; the end token counts its CRC-32 (Table 7.5). -/
def tokenNeed : List Byte → Nat
  | [] => 1
  | t :: _ =>
    match t.toNat / 64 with
    | 0 => if t.toNat % 64 = 63 then 3 else 1
    | 1 => 2
    | 2 => if t.toNat % 64 = 63 then 4 else 3
    | _ => if t.toNat = 0xC0 then 5 else 1

/-- A token. -/
inductive Token where
  | lits (n : Nat)
  | mat (n dist : Nat)
  | fin (crc : Nat)
  | bad
  deriving DecidableEq, Repr

/-- The token that complete header bytes spell (Table 7.5). -/
def tokenOf (h : List Byte) : Token :=
  let u := fun i n => leNat ((h.drop i).take n)
  let t := u 0 1
  let low := t % 64
  match t / 64 with
  | 0 => .lits (if low = 63 then 64 + u 1 2 else low + 1)
  | 1 => .mat (bits t 5 3 + 3) (t % 8 * 256 + u 1 1 + 1)
  | 2 => if low = 63 then .mat (66 + u 1 1) (u 2 2 + 1) else .mat (low + 3) (u 1 2 + 1)
  | _ => if t = 0xC0 then .fin (u 1 4) else .bad

/-- Why a decompressor stops. -/
inductive SStop where
  /-- output full, input empty -/
  | pause (full empty : Bool)
  | ended
  /-- refused with an error of Table 7.7 -/
  | err (code : Nat)
  deriving DecidableEq, Repr

/-- The decompressor at work. -/
structure SRun where
  mode : SMode
  pend : List Byte
  /-- output of the stream, newest first: this run's bytes on top of the window -/
  back : List Byte
  /-- bytes written and read in this run -/
  out : Nat
  consumed : Nat
  /-- how far before this run's output a match has read -/
  reach : Nat
  deriving DecidableEq, Repr

/-- Output bytes of a run, oldest first. -/
def SRun.bytes (r : SRun) : List Byte := (r.back.take r.out).reverse

/-- One byte is written. -/
def SRun.emit (r : SRun) (b : Byte) (m : SMode) : SRun := { r with back := b :: r.back, out := r.out + 1, mode := m }

/-- The input is empty: TRUNC on a LAST descriptor, else a pause (R177, R179, R181). -/
def inputEmpty (last full : Bool) : SStop := if last then .err 4 else .pause full true

/-- Decompress until the input, the room or the stream ends (R175 to R181).  `total` and `crc` are the stream's
output bytes and CRC register before this run. -/
def decompress (total crc : Nat) (last : Bool) (room : Nat) : Nat → List Byte → SRun → SRun × SStop
  | 0, _, r => (r, .pause false true)
  | fuel + 1, inp, r =>
    match r.mode with
    | .lits 0 => decompress total crc last room fuel inp { r with mode := .tokens }
    | .mat 0 _ => decompress total crc last room fuel inp { r with mode := .tokens }
    | .lits (n + 1) =>
      match inp with
      | [] => (r, inputEmpty last (r.out == room))
      | b :: inp =>
        if room ≤ r.out then (r, .pause true false)
        else
          let r := { r.emit b (.lits n) with consumed := r.consumed + 1 }
          if inp.isEmpty && r.out == room then (r, inputEmpty last true)
          else decompress total crc last room fuel inp r
    | .mat (n + 1) dist =>
      if room ≤ r.out then (r, .pause true false)
      else decompress total crc last room fuel inp
        { r.emit ((r.back[dist - 1]?).getD 0) (.mat n dist) with reach := max r.reach (dist - r.out) }
    | .tokens =>
      match inp with
      | [] => (r, inputEmpty last false)
      | b :: inp =>
        let r := { r with pend := r.pend ++ [b], consumed := r.consumed + 1 }
        if r.pend.length < tokenNeed r.pend then decompress total crc last room fuel inp r
        else
          let h := r.pend
          let r := { r with pend := [] }
          match tokenOf h with
          | .lits n => decompress total crc last room fuel inp { r with mode := .lits n }
          | .mat n dist =>
            if total + r.out < dist then (r, .err 2)
            else decompress total crc last room fuel inp { r with mode := .mat n dist }
          | .bad => (r, .err 2)
          | .fin c => (r, if c = crc32Run crc r.bytes ^^^ 0xFFFFFFFF then .ended else .err 3)

/-- Work units that a run can need: each takes an input byte, writes a byte, or ends a token. -/
def runFuel (inp room : Nat) : Nat := 2 * (inp + room) + 4

/-! ### Compressor (R178, R180) -/

/-- One literal run of a span. -/
def literalRun (span : List Byte) : List Byte :=
  (if span.length ≤ 63 then leBytes 1 (span.length - 1) else 63 :: leBytes 2 (span.length - 64)) ++ span

/-- Do tokens decode to the span after the window, within span length + 3 bytes and at a token boundary? -/
def spanOk (total : Nat) (back span toks : List Byte) : Bool :=
  decide (toks.length ≤ span.length + 3) &&
    match decompress total 0 false span.length (runFuel toks.length span.length) toks ⟨.tokens, [], back, 0, 0, 0⟩ with
    | (r, .pause _ true) => r.bytes == span && r.pend.isEmpty && (r.mode == .tokens || r.mode == .lits 0)
    | _ => false

/-- The tokens of a span: the compressor's choice where it is allowed, else one literal run (R178). -/
def tokensOf (total : Nat) (back span : List Byte) : List Byte :=
  let toks := Config.spanTokens back span
  if spanOk total back span toks then toks else literalRun span

/-- The end token and the CRC-32. -/
def endGroup (crc : Nat) : List Byte := 0xC0 :: leBytes 4 (crc ^^^ 0xFFFFFFFF)

/-- The compressor at work. -/
structure CRun where
  total : Nat
  crc : Nat
  back : List Byte
  /-- input not coded yet -/
  inp : List Byte
  out : List Byte
  deriving DecidableEq, Repr

/-- How a compress run ends. -/
inductive CStop where
  | full | empty | ended
  deriving DecidableEq, Repr

/-- Code a span: none when its tokens do not fit the room left (R180). -/
def CRun.span (c : CRun) (room n : Nat) : Option CRun :=
  let span := c.inp.take n
  let toks := tokensOf c.total (c.back.take 65536) span
  if room < c.out.length + toks.length then none
  else some ⟨c.total + n, crc32Run c.crc span, span.reverse ++ c.back, c.inp.drop n, c.out ++ toks⟩

/-- Code whole spans, counted from the first byte of the stream, then on LAST the rest and the end group. -/
def compressRun (last : Bool) (room : Nat) : Nat → CRun → CRun × CStop
  | 0, c => (c, .empty)
  | fuel + 1, c =>
    let n := 16384 - c.total % 16384
    if n ≤ c.inp.length then
      match c.span room n with
      | none => (c, .full)
      | some c => compressRun last room fuel c
    else if !last then (c, .empty)
    else
      let c' := if c.inp.isEmpty then some c else c.span room c.inp.length
      match c' with
      | none => (c, .full)
      | some c => if room < c.out.length + 5 then (c, .full) else ({ c with out := c.out ++ endGroup c.crc }, .ended)

end Sys2Proof.Machine
end

