-- ==== Sys2Proof/Machine/Image.lean ====
section
/-! DEFINITION.  The boot image (R391 to R394): header, segment table, CRC and authentication, read from any memory. -/

set_option Elab.async false

namespace Sys2Proof.Machine

/-- Where an image lies: a memory and the address of its byte 0. -/
structure ImgAt where
  mem : Memory
  base : Nat
  deriving DecidableEq, Repr

def ImgAt.bytes (m : ImgAt) (o n : Nat) : List Byte := Memory.read m.mem (m.base + o) n
def ImgAt.num (m : ImgAt) (o n : Nat) : Nat := leNat (m.bytes o n)

/-- Reason codes of BOOT_STATUS (Table 16.9). -/
def rsFlash : Nat := 1
def rsHeader : Nat := 2
def rsLength : Nat := 3
def rsSegments : Nat := 4
def rsCrc : Nat := 5
def rsSignature : Nat := 6
def rsKey : Nat := 7
def rsConfig : Nat := 8
def rsUnpack : Nat := 9
def rsDram : Nat := 10

def ImgAt.segCount (m : ImgAt) : Nat := m.num 6 2
def ImgAt.seq (m : ImgAt) : Nat := m.num 8 4
def ImgAt.len (m : ImgAt) : Nat := m.num 0xC 4
def ImgAt.isSigned (m : ImgAt) : Bool := bit (m.num 0x10 4) 0
def ImgAt.version (m : ImgAt) : Nat := m.num 0x1C 4
/-- The CRC offset (R393). -/
def ImgAt.crcAt (m : ImgAt) : Nat := m.len - 4 - (if m.isSigned then 64 else 0)

/-- A segment entry (Table 16.4). -/
structure BSeg where
  type : Nat
  comp : Nat
  zero : Nat
  off : Nat
  len : Nat
  outLen : Nat
  dest : Nat
  deriving DecidableEq, Repr

def ImgAt.seg (m : ImgAt) (i : Nat) : BSeg :=
  let a := 0x100 + 24 * i
  ⟨m.num a 1, m.num (a + 1) 1, m.num (a + 2) 2, m.num (a + 4) 4, m.num (a + 8) 4, m.num (a + 12) 4, m.num (a + 16) 8⟩

def ImgAt.segs (m : ImgAt) : List BSeg := (List.range m.segCount).map m.seg
def ImgAt.segsOf (m : ImgAt) (t : Nat) : List BSeg := m.segs.filter fun g => g.type == t

def zeros (bs : List Byte) : Bool := bs.all (· == 0)

/-- OUT_LEN and DEST meet the rules of the TYPE (Table 16.5). -/
def BSeg.destOk (g : BSeg) : Bool :=
  match g.type with
  | 1 => g.dest == 0 && g.outLen % 8 == 0
  | 2 => g.dest == 0 && g.outLen % 8 == 0 && decide (g.outLen ≤ 65536)
  | 3 => decide (g.dest + g.outLen ≤ 0x80000)
  | 4 => g.dest == 0 && decide (g.outLen ≤ 0x8000)
  | 5 => decide (g.dest + g.outLen ≤ 2 ^ 24)
  | 6 => decide (g.dest + g.outLen ≤ dramTop)
  | 7 => decide (g.dest ≤ 2)
  | 8 => g.dest == 0
  | 9 => g.dest == 0 && decide (g.outLen ≤ 2048)
  | 10 => g.dest == 0 && g.outLen == 124
  | _ => false

def apart : List BSeg → Bool
  | [] => true
  | g :: gs => gs.all (fun h => decide (g.off + g.len ≤ h.off) || decide (h.off + h.len ≤ g.off) || g.len == 0 || h.len == 0) && apart gs

/-- An entry stands by itself: its fields, its place in the slot, OUT_LEN and DEST. -/
def ImgAt.segOk (m : ImgAt) (g : BSeg) : Bool :=
  decide (g.comp ≤ 1) && g.zero == 0 && g.off % 4 == 0 && decide (4096 ≤ g.off) && decide (g.off + g.len ≤ m.crcAt) &&
    (g.comp == 1 || g.outLen == g.len) && g.destOk

/-- The segment table is valid (R392). -/
def ImgAt.tableOk (m : ImgAt) : Bool :=
  let l := m.segs
  let n := fun t => (m.segsOf t).length
  l.all m.segOk && apart l && n 1 == 1 && n 2 == 1 && decide (1 ≤ n 3) && decide (n 3 ≤ 16) && decide (n 4 ≤ 1) &&
  ((List.range 3).all fun a => decide (((m.segsOf 7).filter fun g => g.dest == a).length ≤ 1)) &&
  decide (n 8 ≤ 1) && decide (n 9 ≤ 1) && decide (n 10 ≤ 1)

/-- The segment that BOOT_FAIL_INFO names when the table is refused: the first entry that does not stand by itself, else the
first that meets one before it, else none (log entry 59). -/
def ImgAt.badSeg (m : ImgAt) : Option Nat :=
  match (List.range m.segCount).find? fun i => !m.segOk (m.seg i) with
  | some i => some i
  | none => (List.range m.segCount).find? fun i => !apart ((List.range (i + 1)).map m.seg)

/-- Every field and reserved byte of the header but the lengths and the segments (Table 16.3); `quad` ignores DUMMY. -/
def ImgAt.fieldsOk (m : ImgAt) (quad : Bool) : Bool :=
  let pipe := m.num 0x14 4
  decide (1 ≤ m.segCount) && decide (m.segCount ≤ 128) && decide (m.num 0x10 4 ≤ 1) &&
  decide (20000 ≤ pipe) && decide (pipe ≤ 600000) && decide (m.num 0x18 1 ≤ 3) &&
  decide (25 ≤ m.num 0x19 1) && decide (m.num 0x19 1 ≤ 200) &&
  (quad || (decide (8 ≤ m.num 0x1A 1) && decide (m.num 0x1A 1 ≤ 30))) && decide (m.num 0x1B 1 ≤ 4) &&
  ((List.range 4).all fun k => (m.num (0x21 + 16 * k) 1 == 0 || m.num (0x21 + 16 * k) 1 == 4) && decide (m.num (0x22 + 16 * k) 1 ≤ 8)) &&
  zeros (m.bytes 0x60 0xA0) && zeros (m.bytes (0x100 + 24 * m.segCount) (24 * (128 - m.segCount))) &&
  (m.isSigned || zeros (m.bytes 0xD00 64)) && zeros (m.bytes 0xD40 0x2BC)

/-- Why a header is not usable (R391); `limit` is the slot B offset for slot A. -/
def ImgAt.headerBad (m : ImgAt) (quad : Bool) (limit : Nat) : Option Nat :=
  if m.bytes 0 4 ≠ [0x59, 0x4C, 0x42, 0x49] then some rsHeader
  else if crc32 (m.bytes 0 0xFFC) ≠ m.num 0xFFC 4 ∨ m.num 4 2 ≠ 1 ∨ m.fieldsOk quad = false then some rsHeader
  else if m.len % 4 ≠ 0 ∨ m.len < 4100 ∨ 2 ^ 28 < m.len ∨ limit < m.len then some rsLength
  else if m.tableOk then none
  else some rsSegments

/-- IMG_CRC matches (R393). -/
def ImgAt.crcOk (m : ImgAt) : Bool := crc32 (m.bytes 0 m.crcAt) == m.num m.crcAt 4

/-- KEY_FUSE as the digest of a public key, most significant byte first (log entry 17). -/
def Dev.keyFuse (d : Dev) : Nat := beNat ((List.range 8).flatMap fun k => leBytes 4 (d.rd R.KEY_FUSE k))

/-- Authentication (R394): the reason for which it fails. -/
def Dev.authBad (d : Dev) (m : ImgAt) : Option Nat :=
  if m.isSigned then
    let key := m.bytes 0xD00 64
    if d.on F.FUSE_STATUS_REQUIRE_SIG ∧ sha256 key ≠ d.keyFuse then some rsKey
    else
      let sig := m.bytes (m.crcAt + 4) 64
      if ecdsaOk (beNat (key.take 32)) (beNat (key.drop 32)) (sha256 (m.bytes 0 (m.crcAt + 4))) (beNat (sig.take 32))
          (beNat (sig.drop 32)) then none
      else some rsSignature
  else if d.on F.FUSE_STATUS_REQUIRE_SIG then some rsSignature else none

/-- CRC and authentication. -/
def Dev.imageBad (d : Dev) (m : ImgAt) : Option Nat := if m.crcOk then d.authBad m else some rsCrc

/-- The bytes of a segment, decompressed; none when the stream is refused or its length differs from OUT_LEN. -/
def ImgAt.content (m : ImgAt) (g : BSeg) : Option (List Byte) :=
  let inp := m.bytes g.off g.len
  if g.comp = 0 then some inp
  else
    match decompress 0 0xFFFFFFFF true g.outLen (runFuel inp.length g.outLen) inp ⟨.tokens, [], [], 0, 0, 0⟩ with
    | (r, .ended) => if r.out = g.outLen then some r.bytes else none
    | _ => none

/-- The image copy area (R399). -/
def copyBase : Nat := 0x1D0000000
def Dev.imageCopy (d : Dev) : ImgAt := ⟨d.dram.mem, copyBase⟩

/-- An image is copied into the image copy area. -/
def Dev.copyImage (d : Dev) (m : ImgAt) : Dev :=
  let fresh := fun (b : Nat) => decide (32 * b < copyBase) || decide (copyBase + m.len ≤ 32 * b)
  { d with dram := { d.dram with mem := Memory.write d.dram.mem copyBase (m.bytes 0 m.len)
                                 corr := d.dram.corr.filter fresh
                                 uncorr := d.dram.uncorr.filter fresh } }

/-- The CP_FW segments are loaded into TCM; none when one cannot be unpacked. -/
def Dev.loadFw (d : Dev) (m : ImgAt) : Option Dev :=
  (m.segsOf 3).foldl (fun a g =>
    match a, m.content g with
    | some d, some bs => some { d with cp := { d.cp with tcm := Memory.write d.cp.tcm g.dest bs } }
    | _, _ => none) (some d)

end Sys2Proof.Machine
end

