-- ==== Sys2Proof/Machine/Mailbox.lean ====
section
/-! DEFINITION.  The three mailboxes (R63 to R65, R423 to R425; Tables 2.10, 17.5 and 17.6) and the host's events (R421). -/

set_option Elab.async false

namespace Sys2Proof.Machine

/-- Offsets of Table 2.10. -/
def mbReqSeq : Nat := 0x10
def mbOpcode : Nat := 0x11
def mbReqLen : Nat := 0x12
def mbArg : Nat := 0x14
def mbReqData : Nat := 0x18
def mbStatusAt : Nat := 0x80
def mbRspSeq : Nat := 0x81
def mbRspLen : Nat := 0x82
def mbResult : Nat := 0x84
def mbRspData : Nat := 0x88
def mbDoorbell : Nat := 0xF0

/-- A little-endian field of a mailbox. -/
def Dev.mbGet (d : Dev) (m o n : Nat) : Nat := leNat (Memory.read d.mbox (256 * m + o) n)

/-- The device writes bytes of a mailbox. -/
def Dev.mbPut (d : Dev) (m o : Nat) (bs : List Byte) : Dev := { d with mbox := Memory.write d.mbox (256 * m + o) bs }

/-- A bit of MB_STATUS: 0 BUSY, 1 DONE, 2 OVERRUN. -/
def Dev.mbBit (d : Dev) (m i : Nat) : Bool := bit (d.mbGet m mbStatusAt 1) i
def Dev.mbSet (d : Dev) (m i : Nat) (b : Bool) : Dev :=
  d.mbPut m mbStatusAt [BitVec.ofNat 8 (putBit (d.mbGet m mbStatusAt 1) i b)]

/-- HOST_EVENT & HOST_INT_EN: the host's events that are enabled. -/
def Dev.hostIrq (d : Dev) : Nat := d.rd R.HOST_EVENT &&& d.get F.HOST_INT_EN_EN

/-- A bit of HOST_EVENT & HOST_INT_EN has risen since `old`: an in-band interrupt is sent (R422). -/
def Dev.sendIbi (d : Dev) (old : Nat) : Dev :=
  if (d.hostIrq &&& old) != d.hostIrq && d.mgmt.ibiEn && d.on F.MGMT_CFG_I3C_EN then
    { d with mgmt := { d.mgmt with ibi := some (BitVec.ofNat 8 (d.rd R.HOST_EVENT)) } }
  else d

/-- A bit of HOST_EVENT sets (R421). -/
def Dev.hostEvent (d : Dev) (i : Nat) : Dev :=
  (d.putWord R.HOST_EVENT 0 (putBit (d.rd R.HOST_EVENT) i true)).sendIbi d.hostIrq

/-- INT_N is driven low (R421). -/
def Dev.intN (d : Dev) : Bool := d.hostIrq != 0

/-- ASCII "YL7400". -/
def deviceIdBytes : List Byte := [0x59, 0x4C, 0x37, 0x34, 0x30, 0x30]

/-- Firmware major and minor; 0 until firmware has started (R425). -/
def Dev.fwRevByte (d : Dev) (i : Nat) : Byte :=
  if d.get F.BOOT_STATUS_STEP = 11 then Config.fwRev (BitVec.ofNat 32 (d.rd R.BOOT_VERSION)) i else 0

/-- A byte as the host reads it (Table 2.10; R423 for the management port). -/
def Dev.mbByte (d : Dev) (m o : Nat) : Byte :=
  if o < 3 then Config.oui o
  else if o < 9 then (deviceIdBytes[o - 3]?).getD 0
  else if o = 9 then 0xB1
  else if o < 0xC then d.fwRevByte (o - 0xA)
  else if o = 0xC then (if m = 2 then BitVec.ofNat 8 (d.rd R.HOST_EVENT) else 0)
  else if o = 0xD then (if m = 2 then BitVec.ofNat 8 (d.rd R.HOST_INT_EN) else 0)
  else if 0x10 ≤ o ∧ o < 0xF0 then Memory.get d.mbox (256 * m + o)
  else 0

/-- An IRQ_HPD reason of a port is set; it waits for a pulse unless HPD is low (R44). -/
def Dev.irqReason (d : Dev) (p : Nat) (vec : Nat) : Dev :=
  let f := fun (s : PortState) =>
    { s with irqVec := s.irqVec ||| vec, irqWait := s.irqWait || d.on F.RX_PORT_STATUS_HPD_LEVEL p }
  { d with rx := if p = 0 then { d.rx with a := f d.rx.a } else { d.rx with b := f d.rx.b } }

/-- A request completes: the response fields, DONE for BUSY, and the host is told (R64 step 3, R423). -/
def Dev.mbComplete (d : Dev) (m : Nat) : Dev :=
  if d.mbBit m 0 then
    let d := d.mbPut m mbRspSeq [Memory.get d.mbox (256 * m + mbReqSeq)]
    let d := (d.mbSet m 1 true).mbSet m 0 false
    if m < 2 then d.irqReason m 0x40 else d.hostEvent 0
  else d

/-- A request is answered with a result and response data. -/
def Dev.mbAnswer (d : Dev) (m result : Nat) (data : List Byte := []) : Dev :=
  if d.mbBit m 0 then
    let d := (d.mbPut m mbRspLen (leBytes 2 data.length)).mbPut m mbResult (leBytes 4 result)
    (d.mbPut m mbRspData data).mbComplete m
  else d

/-- An opcode of Table 17.5. -/
def knownOpcode (op : Nat) : Bool :=
  [0x01, 0x02, 0x0F, 0x03, 0x04, 0x10, 0x11, 0x12, 0x20, 0x21, 0x22, 0x23, 0x24, 0x30, 0x31, 0x32, 0x33].contains op

/-- OVERRUN sets with its event (R64, R423). -/
def Dev.mbOverrun (d : Dev) (m : Nat) : Dev :=
  let d := d.mbSet m 2 true
  if m < 2 then d.raise Ev.MB_OVERRUN m else d.raise Ev.MGMT_OVERRUN

/-- The doorbell 0x01: the request is submitted, unless the mailbox is taken; an unknown opcode ends at once (R64,
R425). -/
def Dev.mbSubmit (d : Dev) (m : Nat) : Dev :=
  if d.mbBit m 0 || d.mbBit m 1 then d.mbOverrun m
  else
    let d := d.mbSet m 0 true
    let d := if m < 2 then d.raise Ev.MB_DOORBELL m else d.raise Ev.MGMT_DOORBELL
    if knownOpcode (d.mbGet m mbOpcode 1) then d else d.mbAnswer m 1

/-- The doorbell 0x02: DONE and OVERRUN clear (R64). -/
def Dev.mbAck (d : Dev) (m : Nat) : Dev := (d.mbSet m 1 false).mbSet m 2 false

/-- The host writes a byte (R63, R64, R423). -/
def Dev.mbHostWrite (d : Dev) (m o : Nat) (b : Byte) : Dev :=
  if m = 2 ∧ o = 0xC then d.putWord R.HOST_EVENT 0 (d.rd R.HOST_EVENT &&& (0xFF - b.toNat))
  else if m = 2 ∧ o = 0xD then (d.put F.HOST_INT_EN_EN b.toNat).sendIbi d.hostIrq
  else if 0x10 ≤ o ∧ o < 0x80 then
    if d.mbBit m 0 || d.mbBit m 1 then d.mbSet m 2 true else d.mbPut m o [b]
  else if o = mbDoorbell then (if b = 1 then d.mbSubmit m else if b = 2 then d.mbAck m else d)
  else d

/-! ### Meanings -/

/-- MB_SUBMIT: a doorbell write of 0x01 to mailbox `m` (R64, R65). -/
def execMbSubmit (m : Fin 3) (s : State) : Host.Outcome State Fault Refusal := .next (s.upd (·.mbSubmit m))

/-- MB_ACK: a doorbell write of 0x02 to mailbox `m` (R64). -/
def execMbAck (m : Fin 3) (s : State) : Host.Outcome State Fault Refusal := .next (s.upd (·.mbAck m))

end Sys2Proof.Machine
end

