-- ==== Sys2Proof/Machine/Blocks.lean ====
section
/-! DEFINITION.  The Bluris block formats (R161 to R171): raw packing, exact and bounded coding of a segment, the
header with its check, and the check of a block read back.  Pure functions over samples and bytes. -/

set_option Elab.async false

namespace Sys2Proof.Machine

/-- The four kinds of a block (Table 7.2). -/
inductive BKind where
  | rgb36 | s18 | b2 | b3
  deriving DecidableEq, Repr

/-- KIND field of the header. -/
def BKind.code : BKind → Nat
  | .rgb36 => 0 | .s18 => 1 | .b2 => 2 | .b3 => 3

def BKind.exact : BKind → Bool
  | .rgb36 | .s18 => true
  | .b2 | .b3 => false

/-- Bytes of a slot (R161). -/
def BKind.slot : BKind → Nat
  | .rgb36 => 580 | .s18 => 292 | .b2 => 288 | .b3 => 192

/-- Bits of a component in the raw packing (R162). -/
def BKind.rawBits : BKind → Nat
  | .s18 => 6
  | _ => 12

/-- Largest allowed error of a bounded kind (R169). -/
def BKind.bound : BKind → Nat
  | .b2 => 2 | .b3 => 4 | _ => 0

/-- Payload budget (R169); an exact payload is limited by its raw size alone. -/
def BKind.budget : BKind → Nat
  | .b2 => 284 | .b3 => 188 | _ => 1023

/-- Quantizer indexes that a kind may use, in the order tried (R169). -/
def BKind.steps : BKind → List Nat
  | .b2 => [0, 1] | .b3 => [0, 1, 2] | _ => [0]

/-- Quantizer step of an index: 3, 5, 9 (R169). -/
def qStep (q : Nat) : Nat := if q = 0 then 3 else if q = 1 then 5 else 9

/-- Component width of a kind and index (R163, R169). -/
def BKind.width (k : BKind) (q : Nat) : Nat :=
  match k with
  | .rgb36 => 12
  | .s18 => 6
  | _ => if q = 0 then 11 else if q = 1 then 10 else 9

/-! ### Bit streams, least significant bit first -/

/-- The low `n` bits of a number. -/
def natBits (n x : Nat) : List Bool := (List.range n).map fun i => x.testBit i

/-- The number that a list of bits spells. -/
def bitsNat : List Bool → Nat
  | [] => 0
  | b :: bs => b.toNat + 2 * bitsNat bs

/-- Bits packed into bytes, the last one padded with 0 bits. -/
def packBits (bs : List Bool) : List Byte :=
  (List.range (divUp bs.length 8)).map fun i => BitVec.ofNat 8 (bitsNat ((bs.drop (8 * i)).take 8))

/-- The bits of bytes. -/
def unpackBits (bs : List Byte) : List Bool := bs.flatMap fun b => natBits 8 b.toNat

/-- Take an `n`-bit field; none when the stream ends first. -/
def takeField (n : Nat) (bs : List Bool) : Option (Nat × List Bool) :=
  if n ≤ bs.length then some (bitsNat (bs.take n), bs.drop n) else none

/-- Take `m` fields of `n` bits each. -/
def takeFields (n : Nat) : Nat → List Bool → Option (List Nat × List Bool)
  | 0, bs => some ([], bs)
  | m + 1, bs =>
    match takeField n bs with
    | none => none
    | some (x, bs) => (takeFields n m bs).map fun (xs, bs) => (x :: xs, bs)

/-! ### Raw packing (R162) -/

def BKind.rawPack (k : BKind) (px : List Px) : List Byte :=
  packBits (px.flatMap fun p => natBits k.rawBits p.r ++ natBits k.rawBits p.g ++ natBits k.rawBits p.b)

/-- Raw size of a segment of `n` samples. -/
def BKind.rawSize (k : BKind) (n : Nat) : Nat := divUp (3 * k.rawBits * n) 8

/-- Group numbers in threes: the components of samples. -/
def triples : List Nat → List Px
  | r :: g :: b :: rest => ⟨r, g, b⟩ :: triples rest
  | _ => []

/-- The samples of a raw packing. -/
def BKind.rawUnpack (k : BKind) (n : Nat) (bs : List Byte) : List Px :=
  match takeFields k.rawBits (3 * n) (unpackBits bs) with
  | some (xs, _) => triples xs
  | none => []

/-! ### Components and residuals (R163, R169) -/

/-- A sample as the three coded components. -/
def BKind.toComps (k : BKind) (q : Nat) (p : Px) : List Nat :=
  let qi := fun v => (v + (qStep q - 1) / 2) / qStep q
  match k with
  | .rgb36 => [p.g % 4096, (p.r + 4096 - p.g % 4096) % 4096, (p.b + 4096 - p.g % 4096) % 4096]
  | .s18 => [p.r % 64, p.g % 64, p.b % 64]
  | _ => [qi p.r, qi p.g, qi p.b]

/-- The sample that three components decode to. -/
def BKind.ofComps (k : BKind) (q c0 c1 c2 : Nat) : Px :=
  match k with
  | .rgb36 => ⟨(c1 + c0) % 4096, c0, (c2 + c0) % 4096⟩
  | .s18 => ⟨c0, c1, c2⟩
  | _ => ⟨min (c0 * qStep q) 4095, min (c1 * qStep q) 4095, min (c2 * qStep q) 4095⟩

/-- Residuals of a component of width `w` from prediction `p` on, as `w`-bit patterns read signed. -/
def residuals (w : Nat) : Nat → List Nat → List Int
  | _, [] => []
  | p, c :: cs => sgn w (c + 2 ^ w - p) :: residuals w c cs

/-- The components back from the residuals. -/
def integrate (w : Nat) : Nat → List Int → List Nat
  | _, [] => []
  | p, r :: rs => let c := wrap w (p + r); c :: integrate w c rs

/-- Does a residual fit a width code? -/
def fitsWidth (n : Nat) (r : Int) : Bool :=
  if n = 0 then r == 0 else decide (-(2 ^ (n - 1) : Nat) ≤ r) && decide (r < (2 ^ (n - 1) : Nat))

/-- Width code of a group: the smallest that fits every residual. -/
def widthCode (w : Nat) (rs : List Int) : Nat := (firstIdx (w + 1) fun n => rs.all (fitsWidth n)).getD w

/-- A list in groups of 8. -/
def groups8 {α : Type} (l : List α) : List (List α) :=
  (List.range (divUp l.length 8)).map fun g => (l.drop (8 * g)).take 8

/-- Coded bits of one component: the width codes, then the residual fields. -/
def codeComp (w : Nat) (cs : List Nat) : List Bool :=
  let gs := groups8 (residuals w (2 ^ (w - 1)) cs)
  gs.flatMap (fun g => natBits 4 (widthCode w g)) ++
    gs.flatMap (fun g => g.flatMap fun r => natBits (widthCode w g) (wrap (widthCode w g) r))

/-- The coded payload of a segment. -/
def BKind.codePayload (k : BKind) (q : Nat) (px : List Px) : List Byte :=
  packBits ([0, 1, 2].flatMap fun c => codeComp (k.width q) (px.map fun p => nth (k.toComps q p) c))

/-- The residual fields of groups with given width codes: `n` samples in all. -/
def takeGroups : List Nat → Nat → List Bool → Option (List Int × List Bool)
  | [], _, bs => some ([], bs)
  | n :: ns, left, bs =>
    match takeFields n (min 8 left) bs with
    | none => none
    | some (xs, bs) => (takeGroups ns (left - 8) bs).map fun (ys, bs) => (xs.map (sgn n) ++ ys, bs)

/-- Decode one component of `n` samples; none when a width code exceeds `w` or the fields run out (R171). -/
def decodeComp (w n : Nat) (bs : List Bool) : Option (List Nat × List Bool) :=
  match takeFields 4 (divUp n 8) bs with
  | none => none
  | some (ws, bs) =>
    if ws.any (fun x => decide (w < x)) then none
    else (takeGroups ws n bs).map fun (rs, bs) => (integrate w (2 ^ (w - 1)) rs, bs)

/-- Decode a coded payload of `n` samples. -/
def BKind.decodePayload (k : BKind) (q n : Nat) (payload : List Byte) : Option (List Px) :=
  let w := k.width q
  match decodeComp w n (unpackBits payload) with
  | none => none
  | some (c0, bs) =>
    match decodeComp w n bs with
    | none => none
    | some (c1, bs) =>
      match decodeComp w n bs with
      | none => none
      | some (c2, _) => some ((List.range n).map fun i => k.ofComps q (nth c0 i) (nth c1 i) (nth c2 i))

/-! ### Blocks (R164 to R170) -/

/-- Low half of a header (Table 7.2). -/
def BKind.headLow (k : BKind) (len : Nat) (raw boundFail : Bool) (q : Nat) : Nat :=
  len % 1024 + raw.toNat * 1024 + k.code * 2048 + boundFail.toNat * 8192 + q * 16384

/-- Header and payload: CHECK covers header bytes 0 and 1 and `covered` (R166). -/
def mkBlock (low : Nat) (covered payload : List Byte) : List Byte :=
  leBytes 2 low ++ leBytes 2 (crc16 (leBytes 2 low ++ covered)) ++ payload

/-- The block that stores the raw packing (R164, R167). -/
def BKind.rawBlock (k : BKind) (px : List Px) : List Byte :=
  mkBlock (k.headLow (k.rawSize px.length) true false 0) (k.rawPack px) (k.rawPack px)

/-- The one form of a BOUND_FAIL header (R170). -/
def BKind.boundFailBlock (k : BKind) : List Byte := mkBlock (k.headLow 0 false true 0) [] []

/-- The samples that a bounded encoder's choice decodes to. -/
def BKind.quantized (k : BKind) (q : Nat) (px : List Px) : List Px :=
  px.map fun p => let c := k.toComps q p; k.ofComps q (nth c 0) (nth c 1) (nth c 2)

/-- What an encoder produces. -/
structure Encoded where
  block : List Byte
  /-- the exact encoder's self-check failed (R167) -/
  mismatch : Bool
  /-- the segment received BOUND_FAIL (R170) -/
  boundFail : Bool
  deriving DecidableEq, Repr

/-- Exact encoder (R163, R164, R167): with a logic fault the self-check fails and the raw packing is stored. -/
def BKind.encodeExact (k : BKind) (px : List Px) (fault : Bool) : Encoded :=
  let payload := k.codePayload 0 px
  if fault then ⟨k.rawBlock px, true, false⟩
  else if payload.length < k.rawSize px.length then
    ⟨mkBlock (k.headLow payload.length false false 0) (k.rawPack px) payload, false, false⟩
  else ⟨k.rawBlock px, false, false⟩

/-- Bounded encoder (R169, R170): the first step whose payload fits; `fault` makes the self-check of HE fail. -/
def BKind.encodeBounded (k : BKind) (px : List Px) (fault : Bool) : Encoded :=
  let pad := fun (bs : List Byte) => bs ++ List.replicate (k.slot - bs.length) 0
  let fit := k.steps.find? fun q => decide ((k.codePayload q px).length ≤ k.budget)
  match (if fault then none else fit) with
  | some q =>
    let payload := k.codePayload q px
    ⟨pad (mkBlock (k.headLow payload.length false false q) (k.rawPack (k.quantized q px)) payload), false, false⟩
  | none => ⟨k.boundFailBlock, false, true⟩

/-- The encoder of a kind. -/
def BKind.encode (k : BKind) (px : List Px) (fault : Bool) : Encoded :=
  if k.exact then k.encodeExact px fault else k.encodeBounded px fault

/-! ### Reading back (R171) -/

/-- What a reader gets from a block. -/
inductive BlockRes where
  | ok (px : List Px)
  | boundFail
  | bad
  deriving DecidableEq, Repr

/-- Check a block of `n` samples from the bytes fetched; `len` is the LEN that the length table gives, none where it
is not compared (bounded mode, SUSPECT, an uncorrectable entry). -/
def BKind.check (k : BKind) (n : Nat) (len : Option Nat) (bs : List Byte) : BlockRes :=
  let low := leNat (bs.take 2)
  let chk := leNat ((bs.drop 2).take 2)
  let l := bits low 9 0
  let raw := bit low 10
  let bf := bit low 13
  let q := bits low 15 14
  let payload := (bs.drop 4).take l
  let covers := fun (px : List Px) =>
    if crc16 (leBytes 2 low ++ k.rawPack px) = chk then BlockRes.ok px else .bad
  if bs.length < 4 ∨ bits low 12 11 ≠ k.code ∨ k.rawSize n < l ∨ payload.length < l then .bad
  else if k.exact then
    if (match len with | some x => x != l | none => false) || q != 0 || bf then .bad
    else if raw then (if l = k.rawSize n then covers (k.rawUnpack n payload) else .bad)
    else
      match k.decodePayload 0 n payload with
      | some px => covers px
      | none => .bad
  else if raw || !(k.steps.contains q) then .bad
  else if bf then
    if l = 0 ∧ q = 0 ∧ crc16 (leBytes 2 low) = chk then .boundFail else .bad
  else if k.budget < l then .bad
  else
    match k.decodePayload q n payload with
    | some px => covers px
    | none => .bad

end Sys2Proof.Machine
end

