-- ==== Sys2Proof/Machine/Codec.lean ====
section
/-! DEFINITION.  The codec's descriptor queues and contexts (R182 to R184): stream descriptors on SU, block
descriptors on GB, and what every reader of a failing block reports (R471). -/

set_option Elab.async false

namespace Sys2Proof.Machine

/-- Line-store and DRAM port of the codec's descriptors (Tables 11.2 and 12.3). -/
def codecLs : Nat := 4
def codecDram : Nat := 5

/-- A codec descriptor (Table 7.6). -/
structure CodecDesc where
  ctrl : Nat
  src : XAddr
  dst : XAddr
  srcLen : Nat
  dstLen : Nat
  geom : Nat
  pitch : Nat
  lenTab : Nat
  deriving DecidableEq, Repr

def CodecDesc.op (g : CodecDesc) : Nat := bits g.ctrl 3 0
def CodecDesc.ctx (g : CodecDesc) : Nat := bits g.ctrl 5 4
def CodecDesc.first (g : CodecDesc) : Bool := bit g.ctrl 6
def CodecDesc.isLast (g : CodecDesc) : Bool := bit g.ctrl 7
def CodecDesc.kindBit (g : CodecDesc) : Bool := bit g.ctrl 8
def CodecDesc.doneEvt (g : CodecDesc) : Bool := bit g.ctrl 9
def CodecDesc.width (g : CodecDesc) : Nat := bits g.geom 13 0
def CodecDesc.lines (g : CodecDesc) : Nat := bits g.geom 28 16
/-- Segments of a line (R161). -/
def CodecDesc.segs (g : CodecDesc) : Nat := divUp g.width 128

/-- Decode the 64 bytes of a descriptor. -/
def codecDecode (bs : List Byte) : CodecDesc :=
  let u := fun o n => leNat ((bs.drop o).take n)
  ⟨u 0 4, xaddr (u 8 8), xaddr (u 16 8), u 24 4, u 28 4, u 52 4, u 56 4 % 65536 * 64, u 60 4 % 0x100000 * 16⟩

/-- The unit that serves an operation: 0 SU, 1 GB. -/
def opUnit (op : Nat) : Nat := if op ≤ 1 then 0 else 1

/-- The block kind of a block operation. -/
def CodecDesc.kind (g : CodecDesc) : BKind :=
  if g.op = 4 then .b2 else if g.op = 5 then .b3
  else if g.op = 6 then (if g.kindBit then .b3 else .b2)
  else if g.kindBit then .s18 else .rgb36

def CodecDesc.encodes (g : CodecDesc) : Bool := g.op == 2 || g.op == 4 || g.op == 5

/-- The raw side and the block side of a block operation. -/
def CodecDesc.rawSide (g : CodecDesc) : XAddr := if g.encodes then g.src else g.dst
def CodecDesc.blkSide (g : CodecDesc) : XAddr := if g.encodes then g.dst else g.src

/-- Samples of segment `k` of a line. -/
def CodecDesc.samples (g : CodecDesc) (k : Nat) : Nat := min 128 (g.width - 128 * k)

/-- Raw bytes of the samples `[0, n)` of a line's segment. -/
def CodecDesc.rawAt (g : CodecDesc) (y k : Nat) : XAddr := g.rawSide.plus (y * g.srcLen + g.kind.rawSize (128 * k))
def CodecDesc.blkAt (g : CodecDesc) (y k : Nat) : XAddr := g.blkSide.plus (y * g.pitch + k * g.kind.slot)
/-- Of the unwritten bytes of a segment, those that belong to its output: an encoder's table entry does not (R183). -/
def CodecDesc.blockLeft (g : CodecDesc) (left : Nat) : Nat := if g.encodes && g.kind.exact then left - 2 else left
/-- Line-store address of a length-table entry (R168). -/
def CodecDesc.entryAt (g : CodecDesc) (y k : Nat) : Nat := g.lenTab + 2 * (y * g.segs + k)

/-! ### Queues -/

def Dev.codecSlots (d : Dev) (q : Nat) : Nat := ringSlots (d.get F.CODEC_Q_CFG_SIZE q)
def Dev.codecHead (d : Dev) (q : Nat) : Nat := d.get F.CODEC_Q_HEAD_HEAD q % d.codecSlots q
def Dev.codecTail (d : Dev) (q : Nat) : Nat := d.get F.CODEC_Q_TAIL_TAIL q % d.codecSlots q
/-- Address of the descriptor at HEAD; bits [1:0] of BASE read 0. -/
def Dev.codecDescAddr (d : Dev) (q : Nat) : Nat := d.get F.CODEC_Q_CFG_BASE q / 4 * 64 + d.codecHead q * 64

/-- The queue is enabled and not empty. -/
def Dev.codecPending (d : Dev) (q : Nat) : Bool :=
  (if q = 0 then d.on F.CODEC_CTRL_Q0_EN else d.on F.CODEC_CTRL_Q1_EN) && d.codecHead q != d.codecTail q

/-- The descriptor at HEAD as stored. -/
def Dev.codecPeek (d : Dev) (q : Nat) : CodecDesc := codecDecode (d.lsPeek (d.codecDescAddr q) 64)

def Dev.codecAt (d : Dev) (q : Nat) (p : CodecProg) : Dev :=
  { d with codec := { d.codec with prog := assocSet q p d.codec.prog } }

def Dev.setCtx (d : Dev) (c : Nat) (x : Option StreamCtx) : Dev :=
  { d with codec := { d.codec with ctx := match x with | some x => assocSet c x d.codec.ctx | none => assocDel c d.codec.ctx } }

/-- May queue `q` take `unit` now: nothing in service on it, and the other queue, if it waits for the same unit, is not
due first (R184). -/
def Dev.codecTurn (d : Dev) (q unit : Nat) : Bool :=
  let o := 1 - q
  let oUnit := opUnit (d.codecPeek o).op == unit
  if (assoc o d.codec.prog).isSome then !oUnit
  else !(d.codecPending o && oUnit && (assoc unit d.codec.last).getD 1 == q)

/-! ### Reports (R167, R170, R471) -/

/-- Raise an event once for the thing that `seen` belongs to; `n` names the event in it. -/
def CodecProg.once (p : CodecProg) (n : Nat) (e : Event) (d : Dev) : Dev × CodecProg :=
  if p.seen.contains n then (d, p) else (d.raise e, { p with seen := n :: p.seen })

/-- A block fails its check: source, line and segment are recorded and counted (R471). -/
def Dev.blockCheckRecord (d : Dev) (source line seg : Nat) : Dev :=
  (((d.put F.CHECK_STATUS_SOURCE source).put F.CHECK_STATUS_LINE line).put F.CHECK_STATUS_SEG seg).inc
    F.BLOCK_CHECK_COUNT_COUNT

/-- Length-table entry of a block (Table 7.3). -/
def lenEntry (block : List Byte) : Nat := leNat (block.take 2) % 2048

/-- The rest of a slot after a block holds bytes that are not defined (R165; log entry 5): they become free values. -/
def Dev.freeTail (d : Dev) (x : XAddr) (written slot : Nat) : Dev :=
  let (n, d) := d.fresh
  let bs := (List.range (slot - written)).map (Config.freeByte n)
  if x.ls then { d with ls := { d.ls with mem := Memory.write d.ls.mem (x.addr + written) bs } }
  else { d with dram := { d.dram with mem := Memory.write d.dram.mem (x.addr + written) bs } }

/-! ### Block descriptors -/

/-- How the service of one segment ends. -/
inductive SegEnd where
  | next | held | stop (err : Nat)
  deriving DecidableEq, Repr

/-- Encode a segment: block first, table entry second (R168). -/
def Dev.encodeSeg (d : Dev) (q : Nat) (g : CodecDesc) (p : CodecProg) (y k : Nat) (fault : Bool) : Dev × CodecProg × SegEnd :=
  let n := g.samples k
  let (d, st, raw) := d.xread codecLs codecDram (g.rawAt y k) (g.kind.rawSize n)
  if !st.good then (d, p, .stop 6)
  else
    let e := g.kind.encode (g.kind.rawUnpack n raw) (fault && g.kind.exact)
    let (d, p) := if e.mismatch then p.once 0 Ev.VERIFY_MISMATCH (d.inc F.VERIFY_MISMATCH_COUNT_COUNT) else (d, p)
    let (d, p) := if e.boundFail then p.once 1 Ev.BOUND_FAIL (d.inc F.BOUND_FAIL_COUNT_COUNT) else (d, p)
    let entry := if g.kind.exact then chunksOf ⟨true, g.entryAt y k⟩ (leBytes 2 (lenEntry e.block)) else []
    let p := { p with consumed := p.consumed + raw.length, produced := p.produced + e.block.length }
    match Dev.runChunks codecLs codecDram (.codec q) (chunksOf (g.blkAt y k) e.block ++ entry) d with
    | (d, .done) => (d.freeTail (g.blkAt y k) e.block.length g.kind.slot, p, .next)
    | (d, .held) =>
      let x := g.blkAt y k
      (d, { p with tail := some (x.ls, x.addr, e.block.length, g.kind.slot) }, .held)
    | (d, .bad _ left) => (d, { p with produced := p.produced - g.blockLeft left }, .stop 6)

/-- Decode a segment: a failing block gives zeros and ERR BLOCK (R183), one with BOUND_FAIL gives samples that the
spec does not state (log entry 8). -/
def Dev.decodeSeg (d : Dev) (q : Nat) (g : CodecDesc) (p : CodecProg) (y k : Nat) : Dev × CodecProg × SegEnd :=
  let n := g.samples k
  let (d, st, eb) := if g.kind.exact then d.lsRead codecLs (g.entryAt y k) 2 else (d, .ok, [])
  let entry := leNat eb
  let len := if g.kind.exact && st == .ok && !bit entry 15 then some (entry % 1024) else none
  let fetch := match len with | some l => 4 + l | none => g.kind.slot
  let (d, st, bs) := d.xread codecLs codecDram (g.blkAt y k) fetch
  if !st.good then (d, p, .stop 6)
  else
    let res := g.kind.check n len bs
    let (m, d) := d.fresh
    let size := g.kind.rawSize n
    let raw := match res with
      | .ok px => g.kind.rawPack px
      | .boundFail => (List.range size).map (Config.freeByte m)
      | .bad => List.replicate size 0
    let p := { p with consumed := p.consumed + bs.length, produced := p.produced + size }
    let (d, p) := if res = .bad then
        let d := d.blockCheckRecord 5 y k
        let (d, p) := p.once 2 Ev.BLOCK_CHECK d
        let d := if g.kind.exact && !eb.isEmpty then
            (d.lsWrite codecLs (g.entryAt y k) (leBytes 2 (putBit entry 15 true))).1 else d
        (d, { p with err := 5 })
      else (d, p)
    match Dev.runChunks codecLs codecDram (.codec q) (chunksOf (g.rawAt y k) raw) d with
    | (d, .done) => (d, p, .next)
    | (d, .held) => (d, p, .held)
    | (d, .bad _ left) => (d, { p with produced := p.produced - left }, .stop 6)

/-- Serve the segments of a block descriptor from its next one on; an error other than BLOCK stops it (R183). -/
def Dev.blockRun (q : Nat) (g : CodecDesc) (faults : List Nat) : Nat → CodecProg → Dev → Dev
  | 0, p, d => d.codecAt q { p with fin := true }
  | fuel + 1, p, d =>
    if g.lines * g.segs ≤ p.next then d.codecAt q { p with fin := true }
    else
      let y := p.next / g.segs
      let k := p.next % g.segs
      let (d, p, e) := if g.encodes then d.encodeSeg q g p y k (faults.contains p.next) else d.decodeSeg q g p y k
      match e with
      | .next => Dev.blockRun q g faults fuel { p with next := p.next + 1 } d
      | .held => d.codecAt q { p with next := p.next + 1 }
      | .stop err => d.codecAt q { p with fin := true, err := max p.err err }

/-! ### Stream descriptors -/

/-- Line-store address of a window byte: position `i` of the stream in context `c` (R182). -/
def Dev.winAddr (d : Dev) (c i : Nat) : Nat := d.get F.STREAM_WIN_BASE_BASE * 16 + c * 65536 + i % 65536

/-- The last `n` bytes of a stream before position `total`, newest first. -/
def Dev.winBack (d : Dev) (c total n : Nat) : List Byte :=
  (List.range (min n total)).map fun i => Memory.get d.ls.mem (d.winAddr c (total - 1 - i))

/-- Bytes join the window from position `total` on. -/
def Dev.winPush (d : Dev) (c total : Nat) (bs : List Byte) : Dev :=
  d.each (bs.zipIdx.drop (bs.length - 65536)) fun d (b, i) => (d.lsWrite codecLs (d.winAddr c (total + i)) [b]).1

/-- A good read of the last `n` bytes of the window (R272). -/
def Dev.winRead (d : Dev) (c total n : Nat) : Dev × Bool :=
  (List.range (min n total)).foldl (fun (d, ok) i =>
    let (d, st, _) := d.lsRead codecLs (d.winAddr c (total - 1 - i)) 1
    (d, ok && st == .ok)) (d, true)

/-- The source of a stream descriptor up to the first failed access, and whether one failed. -/
def Dev.readSource (d : Dev) (g : CodecDesc) : Dev × List Byte × Bool :=
  (List.range (divUp g.srcLen 16)).foldl (fun (d, bs, bad) i =>
    if bad then (d, bs, bad)
    else
      let (d, st, b) := d.xread codecLs codecDram (g.src.plus (16 * i)) (min 16 (g.srcLen - 16 * i))
      if st.good then (d, bs ++ b, false) else (d, bs, true)) (d, [], false)

/-- The next access of a stream's source from byte `pos` on: to the end of its line-store word or DRAM block. -/
def CodecDesc.srcStep (g : CodecDesc) (pos : Nat) : Nat :=
  let u := if g.src.ls then 16 else 32
  min (u - (g.src.addr + pos) % u) (g.srcLen - pos)

/-- A decompressor between tokens. -/
def SMode.between : SMode → Bool
  | .tokens | .lits 0 | .mat 0 _ => true
  | _ => false

/-- How a decompress run over its source ends: the run, its stop, and whether a read of the source failed. -/
structure SourceRun where
  run : SRun
  stop : SStop
  bad : Bool
  deriving DecidableEq, Repr

/-- Decompress from the source, which is read as the stream needs it: nothing after the CRC, and nothing once the run has
stopped (R176, R179, R183).  `pos` source bytes have been read; `inp` is the last of them. -/
def Dev.sourceRun (g : CodecDesc) (x : StreamCtx) : Nat → Nat → List Byte → SRun → Dev → Dev × SourceRun
  | 0, _, _, r, d => (d, ⟨r, .pause false true, false⟩)
  | fuel + 1, pos, inp, r, d =>
    let more := decide (pos < g.srcLen)
    let (r, stop) := decompress x.total x.crc (g.isLast && !more) g.dstLen (runFuel inp.length g.dstLen) inp r
    match more, stop with
    | true, .pause full true =>
      if full && !r.mode.between then (d, ⟨r, .pause true false, false⟩)
      else
        let (d, st, b) := d.xread codecLs codecDram (g.src.plus pos) (g.srcStep pos)
        if st.good then Dev.sourceRun g x fuel (pos + b.length) b r d else (d, ⟨r, stop, true⟩)
    | _, _ => (d, ⟨r, stop, false⟩)

/-- The stream a descriptor continues, or begins with FIRST (R182); none is DESC_ERR. -/
def Dev.streamOf (d : Dev) (g : CodecDesc) : Option StreamCtx :=
  let comp := g.op == 1
  if g.first then some ⟨comp, 0, 0xFFFFFFFF, .tokens, []⟩
  else (assoc g.ctx d.codec.ctx).filter fun x => x.compress == comp

/-- Write the output of a stream run, then end the descriptor or wait for held writes. -/
def Dev.streamOut (d : Dev) (q : Nat) (g : CodecDesc) (out : List Byte) (p : CodecProg) : Dev :=
  match Dev.runChunks codecLs codecDram (.codec q) (chunksOf g.dst out) d with
  | (d, .done) => d.codecAt q { p with fin := true }
  | (d, .held) => d.codecAt q p
  | (d, .bad _ left) =>
    d.codecAt q { p with fin := true, err := max p.err 6, produced := p.produced - left, outFull := false, inEmpty := false,
                         ended := false }

/-- Resume state of a stopped decompressor: RES_KIND word, RES_REMAIN, RES_DIST (R179, R181). -/
def resWords (r : SRun) : Nat × Nat × Nat :=
  match r.mode with
  | .lits (n + 1) => (1, n + 1, 0)
  | .mat (n + 1) dist => (2, n + 1, dist)
  | _ =>
    match r.pend with
    | [] => (0, 0, 0)
    | t :: rest =>
      let group := t.toNat == 0xC0
      let bs := if group then rest else t :: rest
      (group.toNat * 3 + 4 * min 3 bs.length + 256 * leNat (bs.take 3), 0, 0)

/-- A decompress descriptor (R177, R179, R181). -/
def Dev.decompressDesc (d : Dev) (q : Nat) (g : CodecDesc) (x : StreamCtx) : Dev :=
  let (d, ⟨r, stop, bad⟩) := Dev.sourceRun g x (g.srcLen + 2) 0 [] ⟨x.mode, x.pend, d.winBack g.ctx x.total 65536, 0, 0, 0⟩ d
  let (d, winOk) := d.winRead g.ctx x.total r.reach
  if !winOk then d.codecAt q { fin := true, err := 6 }
  else
    let out := r.bytes
    let d := d.winPush g.ctx x.total out
    let x' : StreamCtx := ⟨false, x.total + r.out, crc32Run x.crc out, r.mode, r.pend⟩
    let base : CodecProg := { consumed := r.consumed, produced := r.out }
    match stop with
    | .pause full empty =>
      let d := d.setCtx g.ctx (some x')
      if bad then d.streamOut q g out { base with err := 6 }
      else
        let (k, n, dist) := resWords r
        d.streamOut q g out { base with outFull := full, inEmpty := empty, resKind := k, resRemain := n, resDist := dist }
    | .ended => (d.setCtx g.ctx none).streamOut q g out { base with ended := true }
    | .err c => ((d.setCtx g.ctx none).raise Ev.STREAM_REFUSED).streamOut q g out { base with err := c }

/-- A compress descriptor (R178, R180). -/
def Dev.compressDesc (d : Dev) (q : Nat) (g : CodecDesc) (x : StreamCtx) : Dev :=
  let (d, inp, bad) := d.readSource g
  let (d, winOk) := d.winRead g.ctx x.total 65536
  if bad || !winOk then (d.setCtx g.ctx (some x)).codecAt q { fin := true, err := 6 }
  else
    let held := x.pend.length
    let (c, stop) := compressRun g.isLast g.dstLen ((held + inp.length) / 16384 + 2)
      ⟨x.total, x.crc, d.winBack g.ctx x.total 65536, x.pend ++ inp, []⟩
    let coded := c.total - x.total
    let d := d.winPush g.ctx x.total (c.back.take coded).reverse
    let x' : StreamCtx := ⟨true, c.total, c.crc, .tokens, []⟩
    let base : CodecProg := { produced := c.out.length }
    match stop with
    | .full =>
      (d.setCtx g.ctx (some { x' with pend := (x.pend ++ inp).take held |>.drop coded })).streamOut q g c.out
        { base with outFull := true, consumed := coded - held }
    | .empty =>
      (d.setCtx g.ctx (some { x' with pend := c.inp })).streamOut q g c.out
        { base with inEmpty := true, consumed := inp.length }
    | .ended => (d.setCtx g.ctx none).streamOut q g c.out { base with ended := true, consumed := inp.length }

/-! ### Service -/

/-- A field that makes a descriptor DESC_ERR (R180, R182, R183, Table 7.7). -/
def Dev.codecInvalid (d : Dev) (q : Nat) (g : CodecDesc) : Bool :=
  decide (6 < g.op) || decide (1024 ≤ g.ctrl) || (g.kindBit && !(g.op == 2 || g.op == 3 || g.op == 6)) ||
    (if g.op ≤ 1 then
      g.ctx / 2 != q || (g.op == 1 && decide (g.dstLen < 16448)) || !g.src.inside g.srcLen || !g.dst.inside g.dstLen ||
        (d.streamOf g).isNone
    else
      g.width == 0 || g.lines == 0 ||
        !g.rawSide.inside ((g.lines - 1) * g.srcLen + g.kind.rawSize g.width) ||
        !g.blkSide.inside ((g.lines - 1) * g.pitch + g.segs * g.kind.slot) ||
        (g.kind.exact && decide (2 ^ 24 < g.lenTab + 2 * g.lines * g.segs)))

/-- Serve the descriptor at HEAD of a queue when it asks for operation `op` (an OP that Table 7.6 does not name is
refused by whichever service meets it). -/
def Dev.codecServe (d : Dev) (q op : Nat) (faults : List Nat) : Dev :=
  if !d.codecPending q || (assoc q d.codec.prog).isSome then d
  else
    let d := d.wakeNow domCODEC
    let (d, st, bs) := d.lsRead codecLs (d.codecDescAddr q) 64
    let g := codecDecode bs
    if st != .ok then d.codecAt q { fin := true, err := 6 }
    else if (g.op ≤ 6 ∧ g.op ≠ op) ∨ !d.codecTurn q (opUnit g.op) then d
    else
      let d := { d with codec := { d.codec with last := assocSet (opUnit g.op) q d.codec.last } }
      if d.codecInvalid q g then d.codecAt q { fin := true, err := 1 }
      else if g.op ≤ 1 then
        match d.streamOf g with
        | some x => if g.op = 0 then d.decompressDesc q g x else d.compressDesc q g x
        | none => d
      else d.blockRun q g faults (g.lines * g.segs + 1) {}

/-- The held writes of a queue's descriptor have been performed: it goes on (R88). -/
def Dev.codecResume (d : Dev) (q : Nat) : Dev :=
  match assoc q d.codec.prog with
  | some p =>
    let g := d.codecPeek q
    if p.fin then d
    else if g.op ≤ 1 then d.codecAt q { p with fin := true }
    else
      let d := match p.tail with
        | some (ls, a, n, slot) => d.freeTail ⟨ls, a⟩ n slot
        | none => d
      d.blockRun q g [] (g.lines * g.segs + 1) { p with tail := none }
  | none => d

/-- A held write of a queue's descriptor ends with an error, `left` bytes unwritten: the descriptor stops (R88, R183). -/
def Dev.codecFail (d : Dev) (q err left : Nat) : Dev :=
  match assoc q d.codec.prog with
  | some p =>
    if p.fin then d
    else
      let left := if (d.codecPeek q).op ≤ 1 then left else (d.codecPeek q).blockLeft left
      d.codecAt q { p with fin := true, err := max p.err err, produced := p.produced - left, outFull := false,
                           inEmpty := false, ended := false, tail := none }
  | none => d

/-- STATUS word of a descriptor that has ended. -/
def CodecProg.statusWord (p : CodecProg) : Nat :=
  1 + 2 * p.outFull.toNat + 4 * p.inEmpty.toNat + 8 * p.ended.toNat + 16 * p.err

/-- A descriptor completes: status words, HEAD, DESC_DONE (R179, R184). -/
def Dev.codecDescDone (d : Dev) (q : Nat) : Dev :=
  match assoc q d.codec.prog with
  | some p =>
    if !p.fin then d
    else
      let g := d.codecPeek q
      let a := d.codecDescAddr q
      let (d, _) := d.lsWrite codecLs (a + 4) (leBytes 4 p.statusWord)
      let (d, _) := d.lsWrite codecLs (a + 32) (leBytes 4 p.consumed ++ leBytes 4 p.produced ++ leBytes 4 p.resKind ++
        leBytes 4 p.resRemain ++ leBytes 4 p.resDist)
      let d := { d with codec := { d.codec with prog := assocDel q d.codec.prog } }
      let d := d.put F.CODEC_Q_HEAD_HEAD ((d.codecHead q + 1) % d.codecSlots q) q
      (d.raiseIf p.outFull Ev.OUT_FULL).raiseIf g.doneEvt Ev.DESC_DONE
  | none => d

/-- A write of CTX_RESET abandons streams (R182). -/
def Dev.ctxReset (d : Dev) (mask : Nat) : Dev := d.each (idxs 4 (bit mask)) fun d c => d.setCtx c none

/-! ### Meanings (DESC_DONE stands with the wall's notices, whose check it ends) -/

/-- CODEC_Q_TAIL (R184): a write while CODEC is powered down wakes it. -/
def execCodecQTail (q : Fin 2) (tail : Byte) (s : State) : Host.Outcome State Fault Refusal :=
  .next (s.upd fun d => d.viaDomain domCODEC (R.CODEC_Q_TAIL.at q) tail.toNat fun d =>
    d.put F.CODEC_Q_TAIL_TAIL (tail.toNat % d.codecSlots q) q)

/-- STREAM_DECOMPRESS (R177, R179, R181). -/
def execStreamDecompress (q : Fin 2) (s : State) : Host.Outcome State Fault Refusal :=
  .next (s.upd (·.codecServe q 0 []))

/-- STREAM_COMPRESS (R178, R180). -/
def execStreamCompress (q : Fin 2) (s : State) : Host.Outcome State Fault Refusal :=
  .next (s.upd (·.codecServe q 1 []))

/-- EXACT_ENCODE (R163 to R168): `faults` are the segments whose self-check fails. -/
def execExactEncode (q : Fin 2) (faults : List Nat) (s : State) : Host.Outcome State Fault Refusal :=
  .next (s.upd (·.codecServe q 2 faults))

/-- EXACT_DECODE (R163, R171). -/
def execExactDecode (q : Fin 2) (s : State) : Host.Outcome State Fault Refusal := .next (s.upd (·.codecServe q 3 []))

/-- BOUNDED_ENCODE_2_1 (R169, R170). -/
def execBoundedEncode21 (q : Fin 2) (s : State) : Host.Outcome State Fault Refusal := .next (s.upd (·.codecServe q 4 []))

/-- BOUNDED_ENCODE_3_1 (R169, R170). -/
def execBoundedEncode31 (q : Fin 2) (s : State) : Host.Outcome State Fault Refusal := .next (s.upd (·.codecServe q 5 []))

/-- BOUNDED_DECODE (R169, R170, R171). -/
def execBoundedDecode (q : Fin 2) (s : State) : Host.Outcome State Fault Refusal := .next (s.upd (·.codecServe q 6 []))

/-- CTX_RESET (R182): a write of CODEC_CTRL.CTX_RESET. -/
def execCtxReset (mask : BitVec 4) (s : State) : Host.Outcome State Fault Refusal :=
  .next (s.upd fun d => d.viaDomain domCODEC (R.CODEC_CTRL.at 0) (mask.toNat * 65536 + d.rd R.CODEC_CTRL) (·.ctxReset mask.toNat))

end Sys2Proof.Machine
end

