-- ==== Sys2Proof/Machine/Drive.lean ====
section
/-! DEFINITION.  The drive pipeline's arithmetic (R114 to R130): overdrive tables, the drive-level clamp, dither,
polarity and the mapping of pixels to drivers. -/

set_option Elab.async false

namespace Sys2Proof.Machine

/-! ### Recursive overdrive (R115 to R121) -/

/-- Table entry (pi, ti) of set `s` and channel `ch` in the copy in use (R115, R116). -/
def Dev.odEntry (d : Dev) (s ch pi ti : Nat) : Nat :=
  d.lsPeekN (d.odCopy (d.get F.DRIVE_CTRL_OD_SEL) + 0x1110 * (3 * s + ch) + 4 * (33 * pi + ti)) 4

/-- The points T0 to T3. -/
def Dev.odPoints (d : Dev) : List Int := [d.getS F.OD_TEMP_LO_T0, d.getS F.OD_TEMP_LO_T1, d.getS F.OD_TEMP_HI_T2, d.getS F.OD_TEMP_HI_T3]

/-- Set and weight of a temperature (R119). -/
def odSet (t : List Int) (theta : Int) : Nat × Nat :=
  let p := fun i => t.getD i 0
  if theta ≤ p 0 then (0, 0)
  else if p 3 ≤ theta then (2, 256)
  else
    let s := if theta < p 1 then 0 else if theta < p 2 then 1 else 2
    (s, ((theta - p s) * 256).toNat / (p (s + 1) - p s).toNat)

/-- Node and fraction of a code (R120). -/
def nodePos (v : Nat) : Nat × Nat :=
  let u := (v * 4097 + 2048) / 4096
  let k := min 31 (u / 128)
  (k, u - k * 128)

/-- Bilinear lookup of a field of four entries (R120): `e pi ti` gives the entry, `shift` 0 DRIVE or 16 REACH. -/
def bilin (e : Nat → Nat → Nat) (pi fp ti ft shift : Nat) : Nat :=
  let f := fun a b => e a b / 2 ^ shift % 4096
  let top := f pi ti * (128 - ft) + f pi (ti + 1) * ft
  let bot := f (pi + 1) ti * (128 - ft) + f (pi + 1) (ti + 1) * ft
  (top * (128 - fp) + bot * fp + 8192) / 16384

/-- Error bound of the history ratio: 2 at 2:1, 4 at 3:1 (R120). -/
def Dev.histBound (d : Dev) : Nat := if d.on F.DRIVE_CTRL_HIST_RATIO then 4 else 2

/-- The block kind of the history (R122). -/
def Dev.histKindB3 (d : Dev) : Bool := d.on F.DRIVE_CTRL_HIST_RATIO

/-- Drive code and reached level of a channel before the limit (R120). -/
def overdrive (snap : Nat) (e : Nat → Nat → Nat → Nat) (s w p t : Nat) : Nat × Nat :=
  if ((t : Int) - p).natAbs ≤ snap then (t, t)
  else
    let (pi, fp) := nodePos p
    let (ti, ft) := nodePos t
    let mix := fun shift =>
      (bilin (e s) pi fp ti ft shift * (256 - w) + bilin (e (s + 1)) pi fp ti ft shift * w + 128) / 256
    (mix 0, mix 16)

/-- Limit of a channel: the lower of the locked and the policy value (R121). -/
def Dev.driveLimit (d : Dev) (ch : Nat) : Nat :=
  match ch with
  | 0 => min (d.get F.DRIVE_LIMIT_RG_RED) (d.get F.DRIVE_POLICY_RG_RED)
  | 1 => min (d.get F.DRIVE_LIMIT_RG_GREEN) (d.get F.DRIVE_POLICY_RG_GREEN)
  | _ => min (d.get F.DRIVE_LIMIT_B_BLUE) (d.get F.DRIVE_POLICY_B_BLUE)

/-- Reached level once the drive code is cut to the limit (R121). -/
def limitReach (p d r l : Nat) : Nat :=
  if l ≤ p then l
  else
    let num := ((r : Int) - p) * ((l : Int) - p)
    let den := (d : Int) - p
    let q := if 0 ≤ num then (num + den.tdiv 2).tdiv den else -((-num + den.tdiv 2).tdiv den)
    wrap 16 (min ((p : Int) + q) r)

/-- What stage 1 gives for a channel: drive code, reached level, and whether the limit cut it. -/
structure OdOut where
  d : Nat
  r : Nat
  cut : Bool
  deriving DecidableEq, Repr

/-- Stage 1 on one channel. -/
def Dev.odChannel (d : Dev) (ch s w p t : Nat) : OdOut :=
  let snap := max (d.get F.OD_CFG_HIST_SNAP) d.histBound
  let (dr, r) := overdrive snap (fun s pi ti => d.odEntry s ch pi ti) s w p t
  let l := d.driveLimit ch
  if l < dr then ⟨l, limitReach p dr r l, true⟩ else ⟨dr, r, false⟩

/-- Stage 1 on one pixel: drive codes, reached levels, cut (R119 to R121). -/
def Dev.odPixel (d : Dev) (x y : Nat) (p t : Px) : Px × Px × Bool :=
  let pos := d.zonePos x y
  let (s, w) := odSet d.odPoints (d.zoneInterp pos d.therm)
  let a := d.odChannel 0 s w p.r t.r
  let b := d.odChannel 1 s w p.g t.g
  let c := d.odChannel 2 s w p.b t.b
  (⟨a.d, b.d, c.d⟩, ⟨a.r, b.r, c.r⟩, a.cut || b.cut || c.cut)

/-! ### Dither and clamp (R125, R128) -/

/-- Matrix entry M[row][column] (Table 5.15). -/
def Dev.ditherM (d : Dev) (row col : Nat) : Nat :=
  let f := match col % 4 with
    | 0 => F.DITHER_M_ENTRY0 | 1 => F.DITHER_M_ENTRY1 | 2 => F.DITHER_M_ENTRY2 | _ => F.DITHER_M_ENTRY3
  d.get f (2 * row + col / 4)

/-- Bits that the output drops. -/
def Dev.dropBits (d : Dev) : Nat := if d.on F.DRIVE_CTRL_OUT_BITS then 4 else 2

/-- Stage 2 on one code with matrix entry `m` (R125). -/
def ditherCode (on temporal : Bool) (s m phi v : Nat) : Nat :=
  let tt := if temporal then (m + 16 * phi) % 64 else m
  let add := if on then tt / 2 ^ (6 - s) else 2 ^ (s - 1)
  min ((v + add) / 2 ^ s) (2 ^ (12 - s) - 1)

/-- Stages 2 and 3 on one pixel; the flag says that stage 3 clamped a channel (R125, R128). -/
def Dev.outputPx (d : Dev) (x y : Nat) (c : Px) : Px × Bool :=
  let s := d.dropBits
  let f := fun ch v =>
    let o := ditherCode (d.on F.DRIVE_CTRL_DITHER_EN) (d.on F.DRIVE_CTRL_TDITHER_EN) s (d.ditherM (y % 8) (x % 8))
      (d.get F.HIST_STATUS_PHASE) v
    let l := d.driveLimit ch / 2 ^ s
    (min l o, decide (l < o))
  let a := f 0 c.r
  let b := f 1 c.g
  let e := f 2 c.b
  (⟨a.1, b.1, e.1⟩, a.2 || b.2 || e.2)

/-! ### Polarity and drivers (R126, R129, R130) -/

/-- b(x, y) of an inversion mode (Table 5.6). -/
def polBase (mode x y : Nat) : Nat :=
  match mode with
  | 0 => 0 | 1 => x % 2 | 2 => y % 2 | 3 => (x + y) % 2 | _ => (x + y / 2) % 2

/-- Polarity of a pixel (R126). -/
def Dev.polarity (d : Dev) (x y : Nat) : Nat := (polBase (d.get F.DRIVE_CTRL_INV_MODE) x y + d.get F.HIST_STATUS_PHASE) % 2

/-- Component order of SUBPIX_ORDER: 0 red, 1 green, 2 blue at each position (R129). -/
def subpix (order pos : Nat) : Nat :=
  nth (match order with
    | 0 => [0, 1, 2] | 1 => [0, 2, 1] | 2 => [1, 0, 2] | 3 => [1, 2, 0] | 4 => [2, 0, 1] | _ => [2, 1, 0]) pos

/-- Component 0 red, 1 green, 2 blue of a pixel. -/
def pxComp (p : Px) (i : Nat) : Nat := if i = 0 then p.r else if i = 1 then p.g else p.b

/-- The channels of driver `v` for a line of output codes, in channel order; none for a pixel past the last column (R129). -/
def Dev.driverChannels (d : Dev) (v : Nat) (line : List Px) : List (Option Nat) :=
  let px := line.drop (d.get F.DRV_MAP_START_X v)
  let ord := d.get F.DRV_LAYOUT_SUBPIX_ORDER
  let chans := (List.range (3 * d.get F.DRV_LAYOUT_DRV_PIXELS)).map fun k =>
    (px[k / 3]?).map fun p => pxComp p (subpix ord (k % 3))
  if d.on F.DRV_MAP_REV v then chans.reverse else chans

/-- Elements at even (or odd) positions: the half-lines of a dual-gate panel (R130). -/
def everyOther {α : Type} (odd : Bool) (l : List α) : List α :=
  (l.zipIdx.filter fun p => (p.2 % 2 == 1) == odd).map (·.1)

/-- Column of the pixel that channel 0 of driver `v` carries (R141). -/
def Dev.firstColumn (d : Dev) (v : Nat) : Nat :=
  d.get F.DRV_MAP_START_X v + (if d.on F.DRV_MAP_REV v then d.get F.DRV_LAYOUT_DRV_PIXELS - 1 else 0)

/-- Enabled drivers. -/
def Dev.drivers (d : Dev) : List Nat := idxs 48 fun v => d.on F.DRV_MAP_EN v

/-! ### Checks of a committed set (R119, R126, R129, R130) -/

/-- The enabled drivers cover every active column exactly once (R129): in rising order their starting columns are
0, n, 2n, … up to the last active column. -/
def Dev.driversTile (d : Dev) : Bool :=
  let h := d.get F.RASTER_H_H_ACTIVE
  let n := d.get F.DRV_LAYOUT_DRV_PIXELS
  let starts := sortBy (fun a b => decide (a ≤ b)) ((d.drivers.map fun v => d.get F.DRV_MAP_START_X v).filter (· < h))
  starts == (List.range (divUp h n)).map (· * n)

/-- CFG_DRIVE holds for the set in force in `d`. -/
def Dev.cfgDrive (d : Dev) : Bool :=
  let p := fun i => d.odPoints.getD i 0
  let n := d.get F.DRV_LAYOUT_DRV_PIXELS
  decide (p 1 - p 0 < 256) || decide (p 2 - p 1 < 256) || decide (p 3 - p 2 < 256) ||
    decide (4 < d.get F.DRIVE_CTRL_INV_MODE) || n == 0 || decide (1536 < 3 * n) ||
    decide (5 < d.get F.DRV_LAYOUT_SUBPIX_ORDER) || (d.on F.DRV_LAYOUT_DUAL_GATE && n % 2 == 1) ||
    !d.driversTile

end Sys2Proof.Machine
end

