-- ==== Sys2Proof/Machine/Col.lean ====
section
/-! DEFINITION.  Col lanes (R133 to R150) and gate outputs (R151, R152): line and control packets, training and relock,
mini-LVDS lines, and the gate edges of a line. -/

set_option Elab.async false

namespace Sys2Proof.Machine

/-! ### Symbols and packets (R135 to R142) -/

def symLD : Sym := .ctl 0xFB
def symIDL : Sym := .ctl 0xBC
def symSOL : Sym := .ctl 0x1C
def symSOC : Sym := .ctl 0x5C
def symTST : Sym := .ctl 0x7C
def symEOP : Sym := .ctl 0xFD

/-- CRC bytes of a packet, high byte first (R138). -/
def crcSyms (bs : List Byte) : List Sym := (beBytes 2 (crc16 bs)).map .data

/-- Symbols of a slot or half-slot (R133, R134). -/
def Dev.slotLen (d : Dev) : Nat :=
  let s := d.get F.RASTER_H_H_TOTAL * d.get F.COL_CTRL_COL_MULT / 160
  if d.on F.DRV_LAYOUT_DUAL_GATE then s / 2 else s

/-- Symbols that a lane sends in some 10⁻⁸ s (R133): PIPE_CLK.FREQ is in kHz. -/
def Dev.symsIn (d : Dev) (t : Nat) : Nat := divUp (d.get F.PIPE_CLK_FREQ * d.get F.COL_CTRL_COL_MULT * t) 2000000

/-- Channels of a slot (R136). -/
def Dev.slotChannels (d : Dev) : Nat :=
  let c := 3 * d.get F.DRV_LAYOUT_DRV_PIXELS
  if d.on F.DRV_LAYOUT_DUAL_GATE then c / 2 else c

/-- Payload bytes of a slot (R136). -/
def Dev.slotBytes (d : Dev) : Nat :=
  if d.on F.DRIVE_CTRL_OUT_BITS then d.slotChannels else divUp (10 * d.slotChannels) 8

/-- Payload of output codes: a byte each at 8 bits, a bit stream at 10 bits (R137). -/
def payload (eightBit : Bool) (codes : List Nat) : List Byte :=
  if eightBit then codes.map (BitVec.ofNat 8)
  else
    let stream := codes.foldr (fun c acc => c % 1024 + 1024 * acc) 0
    leBytes (divUp (10 * codes.length) 8) stream

/-- Header byte H0 (Table 6.2). -/
def Dev.h0 (d : Dev) (pol half : Nat) : Nat :=
  pol + 2 * half + 4 * (if d.on F.DRIVE_CTRL_OUT_BITS then 0 else 1) + 8 * d.get F.HIST_STATUS_PHASE

/-- A line packet with the symbol that opens its slot (R136). -/
def linePacket (first : Sym) (h0 line : Nat) (body : List Byte) : List Sym :=
  let covered := BitVec.ofNat 8 h0 :: leBytes 2 line ++ body
  [first, symSOL] ++ covered.map .data ++ crcSyms covered ++ [symEOP]

/-- A control packet (R142). -/
def controlPacket (cmd addr : Nat) (bs : List Byte) : List Sym :=
  let covered := BitVec.ofNat 8 cmd :: BitVec.ofNat 8 addr :: BitVec.ofNat 8 bs.length :: bs
  symSOC :: covered.map .data ++ crcSyms covered ++ [symEOP]

/-! ### Lanes -/

def Dev.mapCol (d : Dev) (f : ColState → ColState) : Dev := { d with col := f d.col }
def Dev.laneDrive (d : Dev) (l : Nat) : LaneDrive := (assoc l d.col.drive).getD .elecIdle
def Dev.setLane (d : Dev) (x : LaneDrive) (l : Nat) : Dev :=
  { d with col := { d.col with drive := if x = .elecIdle then assocDel l d.col.drive else assocSet l x d.col.drive } }

/-- A 48-bit lane mask kept in two registers. -/
def Dev.laneMask (d : Dev) (lo hi : Field) : Nat := d.get lo + d.get hi * 2 ^ 32
def Dev.setLaneMask (d : Dev) (lo hi : Field) (m : Nat) : Dev := (d.put lo m).put hi (m / 2 ^ 32)
def Dev.lanePresent (d : Dev) (l : Nat) : Bool := bit (d.laneMask F.COL_PRESENT_LO_LANES F.COL_PRESENT_HI_LANES) l
def Dev.laneFailed (d : Dev) (l : Nat) : Bool := bit (d.laneMask F.COL_FAILED_LO_LANES F.COL_FAILED_HI_LANES) l
def Dev.setPresent (d : Dev) (l : Nat) (b : Bool) : Dev :=
  d.setLaneMask F.COL_PRESENT_LO_LANES F.COL_PRESENT_HI_LANES
    (putBit (d.laneMask F.COL_PRESENT_LO_LANES F.COL_PRESENT_HI_LANES) l b)
def Dev.setFailed (d : Dev) (l : Nat) (b : Bool) : Dev :=
  d.setLaneMask F.COL_FAILED_LO_LANES F.COL_FAILED_HI_LANES
    (putBit (d.laneMask F.COL_FAILED_LO_LANES F.COL_FAILED_HI_LANES) l b)

/-- Lanes that have a driver and are not failing. -/
def Dev.goodLanes (d : Dev) : List Nat := idxs 48 fun l => d.lanePresent l && !d.laneFailed l

/-- Every lane goes to electrical idle (R154); in mini-LVDS mode LOAD and POL are low (Table 6.10). -/
def Dev.lanesIdle (d : Dev) : Dev :=
  { d with col := { d.col with drive := [], slots := [], plus := [], prevPacket := false, slotFree := false, config := [],
                               discharge := false, test := none, mlvLoad := 0, mlvPol := false } }

/-- Swing and de-emphasis take effect: when lanes train, then at the start of each vertical blanking (R148). -/
def Dev.latchEq (d : Dev) : Dev :=
  { d with col := { d.col with eq := (List.range 48).map fun l => (l, d.rd R.COL_LANE l % 64) } }

/-- A control packet goes out on lanes; the packet is what those lanes last sent. -/
def Dev.sendControl (d : Dev) (ls : List Nat) (p : Nat → List Sym) : Dev :=
  { d with col := { d.col with ctl := ls.foldl (fun c l => assocSet l (p l) c) d.col.ctl } }

/-- CONFIG: WRITE of MODE, CHANNELS and OUT = 0 (Tables 6.4 and 6.5); INV_PIX by R141. -/
def Dev.configPacket (d : Dev) : List Sym :=
  let inv := d.get F.DRIVE_CTRL_INV_MODE
  let mode := (if d.on F.DRIVE_CTRL_OUT_BITS then 0 else 1) + 2 * (d.get F.DRV_LAYOUT_DUAL_GATE) +
    4 * (if inv = 1 ∨ inv = 3 ∨ inv = 4 then 1 else 0)
  controlPacket 1 0 (BitVec.ofNat 8 mode :: leBytes 2 d.slotChannels ++ [0])

/-- CONFIG is due on lanes, which are then live: its packets go out in the next slot without a line packet (R142, R144).
DESIGN CHOICE (log entry 75): a commit that changes INV_MODE or OUT_BITS without a retrain sends no CONFIG. -/
def Dev.runConfig (d : Dev) (ls : List Nat) : Dev :=
  { d with col := { d.col with config := d.col.config ++ ls.filter fun l => !d.col.config.contains l } }.each ls (·.setLane .live)

/-- The CONFIG packets that are due have gone out. -/
def Dev.configSent (d : Dev) : Dev :=
  let ls := d.col.config
  (d.sendControl ls fun _ => d.configPacket).mapCol fun c => { c with config := [] }

/-! ### Training (R144, R148) -/

def Dev.trainState (d : Dev) : Nat := d.get F.COL_STATUS_TRAIN_STATE
def Dev.setTrain (d : Dev) (s : Nat) : Dev := d.put F.COL_STATUS_TRAIN_STATE s

/-- The lanes run: a COL_TRAIN action that waits for them is complete. -/
def Dev.lanesRun (d : Dev) : Dev :=
  let d := d.setTrain 5
  let d := { d with col := { d.col with pipeFreq := d.get F.PIPE_CLK_FREQ } }
  if d.pseq.wait = .train then { d with pseq := { d.pseq with wait := .delay } } else d

/-- Training ends: CONFIG has run on the lanes that are not failing. -/
def Dev.trainDone (d : Dev) : Dev := (d.configSent.raise Ev.TRAIN_DONE).lanesRun

/-- CONFIG begins: its packets go out in the next slot, and end it (Table 6.5). -/
def Dev.startConfig (d : Dev) : Dev := (d.setTrain 4).runConfig d.goodLanes

/-- ALIGN begins: TP2 on all present lanes; it passes at once when LOCK_N is high already (Table 6.5). -/
def Dev.startAlign (d : Dev) : Dev :=
  let d := (d.setTrain 3).each d.goodLanes (·.setLane .tp2)
  if d.col.lockLow then d else d.startConfig

/-- CDR begins: TP1 on all present lanes. -/
def Dev.startCdr (d : Dev) : Dev := (d.setTrain 2).each d.goodLanes (·.setLane .tp1)

/-- DETECT goes on with the first enabled lane from `l` on, or ends. -/
def Dev.detectFrom (d : Dev) (l : Nat) : Dev :=
  let d := d.mapCol fun c => { c with drive := [], slots := [], plus := [] }
  match d.drivers.find? fun v => decide (l ≤ v) with
  | some v => ({ d with col := { d.col with detect := v } }.setTrain 1).setLane .tp1 v
  | none => d.startCdr

/-- Lanes that mini-LVDS drives: every lane of a bus with a driver, on lanes 0 to 23 only (Table 6.6). -/
def Dev.mlvLanes (d : Dev) : List Nat := idxs 24 fun l => d.drivers.any fun v => v / 6 == l / 6

/-- Training starts with DETECT on the lanes that DRV_MAP enables (R144); mini-LVDS has none (Table 6.6). -/
def Dev.trainStart (d : Dev) : Dev :=
  let d := d.latchEq
  if d.on F.COL_CTRL_MLV_MODE then (d.each d.mlvLanes (·.setLane .live)).lanesRun
  else
    let d := d.setLaneMask F.COL_PRESENT_LO_LANES F.COL_PRESENT_HI_LANES 0
    let d := d.setLaneMask F.COL_FAILED_LO_LANES F.COL_FAILED_HI_LANES 0
    (d.mapCol fun c => { c with why := .on, config := [], test := none }).detectFrom 0

/-- A pipe-clock change beyond 500 ppm makes CDR, ALIGN and CONFIG run again before the next line packet (R148). -/
def Dev.retrainIfMoved (d : Dev) : Dev :=
  let f := d.get F.PIPE_CLK_FREQ
  let g := d.col.pipeFreq
  let moved := decide (g * 500 < ((f : Int) - g).natAbs * 1000000)
  if d.trainState = 5 ∧ moved = true ∧ ¬ d.on F.COL_CTRL_MLV_MODE then
    (d.mapCol fun c => { c with why := .retrain, test := none }).startCdr
  else d

/-- A training after a pipe-clock change runs: frame start waits for its end (R148). -/
def Dev.retraining (d : Dev) : Bool :=
  d.col.why == .retrain && (match d.trainState with | 2 | 3 | 4 => true | 7 => d.col.searchTrain | _ => false)

/-- The search of R146 begins. -/
def Dev.searchStart (d : Dev) (training : Bool) : Dev :=
  { (d.setTrain 7) with col := { d.col with searchNext := 0, suspects := [], searchTrain := training } }

/-- The search ends: failing lanes are marked and idle, CONFIG repeats on the rest (R144, R146).  DESIGN CHOICE (log entry
75): a search that finds no failing lane raises no LANE_FAIL, and the relock runs again in the next blanking. -/
def Dev.searchEnd (d : Dev) : Dev :=
  let bad := d.col.suspects
  let d := d.each bad fun d l => ((d.setFailed l true).setLane .elecIdle l).raise Ev.LANE_FAIL l
  let d := d.mapCol fun c => { c with suspects := [], relockDue := bad.isEmpty && !c.searchTrain }
  if d.col.searchTrain then d.startConfig else (d.runConfig d.goodLanes).setTrain 5

/-- The first good lane from `l` on. -/
def Dev.laneFrom (d : Dev) (l : Nat) : Option Nat := d.goodLanes.find? fun x => decide (l ≤ x)

/-- A lane's idle has passed: the search ends after the last lane. -/
def Dev.searchAfter (d : Dev) (l : Nat) : Dev :=
  (d.laneFrom (l + 1)).elim d.searchEnd fun _ => d

/-- The search goes on: the next present lane is idled and restored; a lane during whose idle LOCK_N rises is failing. -/
def Dev.searchNextLane (d : Dev) (rose : Bool) : Dev :=
  (d.laneFrom d.col.searchNext).elim d.searchEnd fun l =>
    let d := d.mapCol fun c => { c with searchNext := l + 1, suspects := if rose then c.suspects ++ [l] else c.suspects }
    (d.setLane .tp2 l).searchAfter l

/-- One step of the search, which a relock that has not ended begins. -/
def Dev.searchStep (d : Dev) (rose : Bool) : Dev :=
  match d.trainState with
  | 6 => (d.searchStart false).searchNextLane rose
  | 7 => d.searchNextLane rose
  | _ => d

/-- A training phase's bound expires (R144); a lane without a driver counts as failing (Table 16.7). -/
def Dev.trainTimeout (d : Dev) : Dev :=
  match d.trainState with
  | 1 => (d.setFailed d.col.detect true).detectFrom (d.col.detect + 1)
  | 2 => d.startAlign
  | 3 => d.searchStart true
  | 4 => d.trainDone
  | _ => d

/-- LOCK_N falls: a driver answers in DETECT, and the low filter starts (R143 to R145). -/
def Dev.lockFall (d : Dev) : Dev :=
  let d := d.mapCol fun c => { c with lockLow := true }
  if d.trainState = 1 then (d.setPresent d.col.detect true).detectFrom (d.col.detect + 1) else d

/-- A short low of LOCK_N is an error pulse (R145, R147). -/
def Dev.errorPulse (d : Dev) : Dev :=
  if d.col.test.isSome then d.inc F.COL_TEST_PULSES_COUNT else (d.inc F.COL_CRC_PULSES_COUNT).raise Ev.CRC_PULSE

/-- LOCK_N rises (R144 to R147).  In training a low is the drivers' answer and counts as no pulse (log entry 81). -/
def Dev.lockRise (d : Dev) : Dev :=
  let short := d.col.lockLow && d.on F.COL_STATUS_LOCK_N
  let d := (d.mapCol fun c => { c with lockLow := false }).put F.COL_STATUS_LOCK_N 1
  match d.trainState with
  | 3 => d.startConfig
  | 6 => (((d.runConfig d.goodLanes).setTrain 5).raise Ev.RELOCK_DONE).mapCol fun c => { c with relockDue := false }
  | 5 => if short then d.errorPulse else d
  | _ => d

/-- LOCK_N has been low for 2 µs: its filtered level is low, and on running lanes lock is lost (R145). -/
def Dev.lockLoss (d : Dev) : Dev :=
  if d.col.lockLow && d.on F.COL_STATUS_LOCK_N then
    let d := d.put F.COL_STATUS_LOCK_N 0
    if d.trainState = 5 then (d.raise Ev.LOCK_LOSS).mapCol fun c => { c with relockDue := true } else d
  else d

/-- The relock of R146 begins: 20 µs of TP1, then TP2, on all present lanes; it ends a test window (R147). -/
def Dev.relock (d : Dev) : Dev :=
  if d.col.relockDue && d.trainState == 5 then
    let d := ((d.setTrain 6).each d.goodLanes (·.setLane .tp1)).mapCol fun c => { c with tp1Left := d.symsIn 2000, test := none }
    { d with cal := { d.cal with tuneSpoilt := true } }
  else d

/-- A failed lane is tried again (R146). -/
def Dev.laneRetry (d : Dev) (l : Nat) (passed : Bool) : Dev :=
  if d.laneFailed l && passed && d.trainState == 5 then
    (((d.setFailed l false).setPresent l true).runConfig [l]).raise Ev.LANE_RETURN l
  else d

/-- Byte `i` of the test sequence: 8 shifts of x⁷ + x⁶ + 1 from seed 0x7F, first shift in bit 0 (R147; log entry 10). -/
def testByte (i : Nat) : Byte :=
  let shift := fun s => s * 2 % 128 + (if bit s 6 != bit s 5 then 1 else 0)
  let s := (List.range (8 * i)).foldl (fun s _ => shift s) 0x7F
  BitVec.ofNat 8 ((List.range 8).foldl (fun (s, b) k => (shift s, b + (bit s 6).toNat * 2 ^ k)) (s, 0)).2

/-- A test burst on one lane, in a blanking slot without LD or control packet, one lane at a time and while no relock runs:
its window closes 3 µs after EOP, and it goes out with the settings of COL_LANE_TEST (R147). -/
def Dev.testBurst (d : Dev) (l : Nat) : Dev :=
  if d.on F.COL_CTRL_RETUNE_EN && d.trainState == 5 && !d.col.relockDue && d.lanePresent l && !d.laneFailed l &&
      !d.on F.COL_CTRL_MLV_MODE && d.col.slotFree && d.col.test.isNone then
    let burst := symTST :: (List.range 1024).map (fun i => Sym.data (testByte i)) ++ [symEOP]
    d.mapCol fun c => { c with test := some ⟨l, d.rd R.COL_LANE_TEST 0 % 64, 1026 + d.symsIn 300⟩, slotFree := false,
                               slots := assocSet l [burst] c.slots }
  else d

/-- The packet that COL_CTLPKT describes (Table 6.16; LEN above 16 reads as 16). -/
def Dev.ctlPacket (d : Dev) : List Sym :=
  let n := min 16 (d.get F.COL_CTLPKT_HDR_LEN)
  let bs := (List.range n).map fun i => BitVec.ofNat 8 (d.get F.COL_CTLPKT_DATA_DATA (i / 4) / 256 ^ (i % 4))
  controlPacket (d.get F.COL_CTLPKT_HDR_CMD) (d.get F.COL_CTLPKT_HDR_ADDR) bs

/-- Lanes that COL_CTLPKT names and that run; a lane in electrical idle carries nothing (log entry 81). -/
def Dev.ctlLanes (d : Dev) : List Nat :=
  (idxs 48 (bit (d.laneMask F.COL_CTLPKT_LANES_LO_LANES F.COL_CTLPKT_LANES_HI_LANES))).filter fun l => d.laneDrive l == .live

/-- A queued control packet goes out in this slot without a line packet: outside a test window, while the lanes run, and
not in the slot of a CONFIG or discharge write: at most one packet a slot (R142, R147). -/
def Dev.ctlDue (d : Dev) : Bool :=
  d.on F.COL_CTLPKT_HDR_GO && d.col.test.isNone && d.trainState == 5 && d.col.config.isEmpty && !d.col.discharge &&
    !d.on F.COL_CTRL_MLV_MODE

/-- The packet queued with GO has gone out on every named lane. -/
def Dev.ctlSent (d : Dev) : Dev := (d.sendControl d.ctlLanes fun _ => d.ctlPacket).put F.COL_CTLPKT_HDR_GO 0

/-- A packet is queued with GO for the next slot without a line packet (R142). -/
def Dev.ctlGo (d : Dev) : Dev := d.put F.COL_CTLPKT_HDR_GO 1

/-- WRITE OUT = 2, the discharge write (Table 6.4). -/
def dischargePacket : List Sym := controlPacket 1 3 [2]

/-- COL_DISCHARGE: WRITE OUT = 2 goes into the next slot of every present lane (R142, R153). -/
def Dev.colDischarge (d : Dev) : Dev :=
  (d.sendControl d.goodLanes fun _ => dischargePacket).mapCol fun c => { c with discharge := true }

/-! ### The slots of a line (R134 to R141, R149) -/

/-- A free output code: any of the codes of the output's width (log entry 5). -/
def Dev.freeCode (d : Dev) (n i : Nat) : Nat :=
  ((Config.freeByte n (2 * i)).toNat + 256 * (Config.freeByte n (2 * i + 1)).toNat) % 2 ^ (12 - d.dropBits)

/-- Output codes of driver `v`, with free values for channels past the last column (log entry 5). -/
def Dev.slotCodes (d : Dev) (n v : Nat) (line : List Px) : List Nat :=
  (d.driverChannels v line).zipIdx.map fun (c, k) => c.getD (d.freeCode n (48 * k + v))

/-- The slot or half-slots of a lane for an active line. -/
def Dev.laneSlots (d : Dev) (n v y : Nat) (line : List Px) : List (List Sym) :=
  let codes := d.slotCodes n v line
  let pol := d.polarity (d.firstColumn v) y
  let eight := d.on F.DRIVE_CTRL_OUT_BITS
  let first := if d.col.prevPacket then symLD else symIDL
  if d.on F.DRV_LAYOUT_DUAL_GATE then
    [linePacket first (d.h0 pol 0) y (payload eight (everyOther false codes)),
     linePacket symLD (d.h0 pol 1) y (payload eight (everyOther true codes))]
  else [linePacket first (d.h0 pol 0) y (payload eight codes)]

/-- A lane carries line packets: it runs, or a relock or search tries it between frames (R146). -/
def Dev.laneCarries (d : Dev) (l : Nat) : Bool :=
  d.laneDrive l == .live ||
    ((d.trainState == 6 || (d.trainState == 7 && !d.col.searchTrain)) && d.lanePresent l && !d.laneFailed l)

/-- Running disparity at the start of a lane's slots (R134). -/
def Dev.lanePlus (d : Dev) (l : Nat) : Bool := d.col.plus.contains l

/-- Disparity behind one slot: each IDL that fills it changes the sign (R134). -/
def Dev.slotDisparity (d : Dev) (p : Bool) (s : List Sym) : Bool :=
  disparityAfter p s != decide ((d.slotLen - s.length) % 2 = 1)

/-- Disparity behind a lane's slots, with which its next ones begin. -/
def Dev.nextPlus (d : Dev) (l : Nat) : Bool := ((assoc l d.col.slots).getD []).foldl d.slotDisparity (d.lanePlus l)

/-- The code groups of a lane's slots, filled with IDL (R134, R135). -/
def Dev.laneGroups (d : Dev) (l : Nat) : List Nat :=
  codeGroups (d.lanePlus l) (((assoc l d.col.slots).getD []).flatMap fun s => s ++ List.replicate (d.slotLen - s.length) symIDL)

/-- The slots of a line begin, LD_DELAY cycles into it; running disparity continues (R134), and a test window runs on. -/
def Dev.openSlots (d : Dev) (ls : List (Nat × List (List Sym))) : Dev :=
  let passed := d.slotLen * (if d.on F.DRV_LAYOUT_DUAL_GATE then 2 else 1)
  d.mapCol fun c => { c with
    slots := ls, plus := (ls.map (·.1)).filter d.nextPlus, slotAt := d.get F.COL_CTRL_LD_DELAY,
    test := c.test.bind fun t => if passed < t.left then some { t with left := t.left - passed } else none }

/-- The bytes of mini-LVDS bus `b`: its drivers' channels in driver then channel order (R149). -/
def Dev.mlvBytes (d : Dev) (n b : Nat) (line : List Px) : List Byte :=
  ((d.drivers.filter fun v => v / 6 == b).flatMap fun v => d.slotCodes n v line).map (BitVec.ofNat 8)

/-- Edges of a mini-LVDS bus: the reset clock with every data pair high, then byte j on pair j mod 5, most significant bit
first; the clock pair is high on rising edges (Table 6.6). -/
def mlvEdges (bs : List Byte) : List Nat :=
  [63, 62] ++ (List.range (8 * divUp bs.length 5)).map fun e =>
    (1 - e % 2) + sumN ((List.range 5).map fun i => (bit ((bs[5 * (e / 8) + i]?).getD 0).toNat (7 - e % 8)).toNat * 2 ^ (i + 1))

/-- LOAD and POL of a mini-LVDS line: LOAD is high for LOAD_W clocks from the slot start, and at its rising edge POL takes
the polarity of the line that it loads (Table 6.6; log entry 82). -/
def Dev.mlvStrobe (d : Dev) : Dev :=
  d.mapCol fun c => { c with mlvLoad := d.get F.COL_CTRL_LOAD_W, mlvPol := if c.prevPacket then c.mlvNext else c.mlvPol,
                             slotAt := d.get F.COL_CTRL_LD_DELAY }

/-- The slots of an active line go out on every lane that carries packets; a discharge write follows the line packet
(R134, R136, R142). -/
def Dev.sendLine (d : Dev) (y : Nat) (line : List Px) : Dev :=
  let (n, d) := d.fresh
  if d.on F.COL_CTRL_MLV_MODE then
    let pol := match d.drivers with | v :: _ => d.polarity (d.firstColumn v) y | [] => 0
    d.mlvStrobe.mapCol fun c => { c with
      mlv := (List.range 4).map fun b => (b, mlvEdges (d.mlvBytes n b line)), mlvNext := pol == 1, prevPacket := true }
  else
    let ls := d.drivers.filter d.laneCarries
    let tail := if d.col.discharge then dischargePacket else []
    let slots := ls.map fun v => (v, match d.laneSlots n v y line with
      | s :: rest => (s ++ tail) :: rest
      | [] => [])
    (d.openSlots slots).mapCol fun c => { c with prevPacket := true, slotFree := false, discharge := false }

/-- Training patterns of a slot: TP1 is D10.2 repeated, TP2 IDL and three D11.6 repeated (Table 6.5). -/
def tp1Syms (n : Nat) : List Sym := List.replicate n (.data 0x4A)
def tp2Syms (n : Nat) : List Sym := (List.range n).map fun i => if i % 4 = 0 then symIDL else .data 0xCB

/-- What a lane sends in a line without a line packet (R140, R142, R144, R146). -/
def Dev.blankSlots (d : Dev) (l : Nat) : List (List Sym) :=
  let n := d.slotLen * (if d.on F.DRV_LAYOUT_DUAL_GATE then 2 else 1)
  let whole := fun (s : List Sym) => if d.on F.DRV_LAYOUT_DUAL_GATE then [s.take d.slotLen, s.drop d.slotLen] else [s]
  match d.laneDrive l with
  | .elecIdle => []
  | .tp1 => if d.trainState = 6 then whole (tp1Syms (min n d.col.tp1Left) ++ tp2Syms (n - d.col.tp1Left)) else whole (tp1Syms n)
  | .tp2 => whole (tp2Syms n)
  | .live =>
    let packet := if d.col.discharge then dischargePacket
      else if d.col.config.contains l then d.configPacket
      else if d.ctlDue && d.ctlLanes.contains l then d.ctlPacket else []
    let s := (if d.col.prevPacket then [symLD] else if packet.isEmpty then [] else [symIDL]) ++ packet
    if d.on F.DRV_LAYOUT_DUAL_GATE then [s, []] else [s]

/-- What has gone out in a slot without a line packet: CONFIG, which ends its training phase, or the queued packet. -/
def Dev.blankSent (d : Dev) : Dev :=
  let d := if d.ctlDue then d.ctlSent else d
  if d.col.discharge then d.mapCol fun c => { c with discharge := false }
  else if d.trainState = 4 then d.trainDone else d.configSent

/-- A relock's 20 µs of TP1 pass, and TP2 follows. -/
def Dev.tp1Passes (d : Dev) : Dev :=
  if d.trainState ≠ 6 then d
  else
    let n := d.slotLen * (if d.on F.DRV_LAYOUT_DUAL_GATE then 2 else 1)
    let d := if d.col.tp1Left ≤ n then d.each (d.goodLanes.filter fun l => d.laneDrive l == .tp1) (·.setLane .tp2) else d
    d.mapCol fun c => { c with tp1Left := c.tp1Left - n }

/-- A line without a line packet: LD in the first one, then what is queued (R140, R142). -/
def Dev.sendBlank (d : Dev) : Dev :=
  if d.on F.COL_CTRL_MLV_MODE then d.mlvStrobe.mapCol fun c => { c with mlv := [], prevPacket := false }
  else
    let free := !d.col.prevPacket && !d.col.discharge && d.col.config.isEmpty && !d.ctlDue
    let e := d.openSlots (((List.range 48).filter fun l => d.laneDrive l != .elecIdle).map fun l => (l, d.blankSlots l))
    ((e.mapCol fun c => { c with prevPacket := false, slotFree := free }).blankSent).tp1Passes

/-! ### Gate outputs (R151, R152) -/

/-- Pipe-clock cycles of a line and of a row slot. -/
def Dev.lineCycles (d : Dev) : Nat := d.get F.RASTER_H_H_TOTAL / 8
def Dev.rowCycles (d : Dev) : Nat := if d.on F.DRV_LAYOUT_DUAL_GATE then d.lineCycles / 2 else d.lineCycles

/-- Start of row slot `r` in cycles from frame start. -/
def Dev.rowSlot (d : Dev) (r : Nat) : Int := d.getS F.GATE_SHIFT_SHIFT + r * d.rowCycles

/-- One active interval of a gate output, in cycles from frame start. -/
structure GateSpan where
  pin : Nat
  from_ : Int
  to_ : Int
  deriving DecidableEq, Repr

/-- Frame done in cycles from frame start. -/
def Dev.frameDoneCycle (d : Dev) : Int :=
  ((d.get F.RASTER_V_V_ACTIVE - 1) * d.lineCycles + d.get F.RASTER_H_H_ACTIVE / 8 : Nat)

/-- GST and GRST intervals of a frame. -/
def Dev.gateStrobes (d : Dev) : List GateSpan :=
  ((idxs 4 fun k => d.on F.GATE_GST_WIDTH k).map fun k =>
    let a := d.rowSlot 0 + d.getS F.GATE_GST_START k
    (⟨16 + k, a, a + d.get F.GATE_GST_WIDTH k⟩ : GateSpan)) ++
  ((idxs 2 fun k => d.on F.GATE_GRST_WIDTH k).map fun k =>
    let a := d.frameDoneCycle + d.get F.GATE_GRST_OFFSET k
    (⟨20 + k, a, a + d.get F.GATE_GRST_WIDTH k⟩ : GateSpan))

/-- GCK interval of a row. -/
def Dev.gckSpan (d : Dev) (r : Nat) : GateSpan :=
  ⟨r % d.get F.GATE_CTRL_PHASES, d.rowSlot r + d.get F.GATE_EDGE_RISE,
   d.rowSlot (r + d.get F.GATE_CTRL_SPAN) + d.get F.GATE_EDGE_FALL⟩

/-- Every interval of a frame, shifted by an offset. -/
def Dev.gateSpans (d : Dev) (off : Int) : List GateSpan :=
  ((List.range (d.get F.GATE_CTRL_ROWS)).map d.gckSpan ++ d.gateStrobes).map fun s => { s with from_ := s.from_ + off, to_ := s.to_ + off }

/-- Is an output active at a cycle? -/
def activeAt (spans : List GateSpan) (pin : Nat) (t : Int) : Bool :=
  spans.any fun s => s.pin == pin && decide (s.from_ ≤ t) && decide (t < s.to_)

/-- Intervals near line `y`, from its start on: those of the frame that runs and of the one before it, whose time goes on
while a hold line repeats, and those of the next one, whose first row slots may begin in blanking but not while it repeats
(R151, R152). -/
def Dev.gateNear (d : Dev) (y : Nat) (repeated : Bool) : List GateSpan :=
  let total : Int := (d.get F.RASTER_V_V_TOTAL * d.lineCycles : Nat)
  let now : Int := ((y + d.gate.held) * d.lineCycles : Nat)
  let spans := d.gateSpans (-now) ++ d.gateSpans (-(now + total + (d.gate.heldLast * d.lineCycles : Nat))) ++
    (if repeated then [] else d.gateSpans (total - (y * d.lineCycles : Nat)))
  spans.filter fun s => decide (s.from_ < d.lineCycles) && decide (0 ≤ s.to_)

/-- Active level of a gate pin (GATE_POL: bit i makes pin i active low; bit 22 is GDIS). -/
def Dev.gateHigh (d : Dev) (pin : Nat) (active : Bool) : Bool := active != bit (d.rd R.GATE_POL 0) pin

/-- The gate outputs of a line: active at its start, and the edges within it. -/
def Dev.gateLine (d : Dev) (y : Nat) (repeated : Bool) : Dev :=
  let d := if repeated then { d with gate := { d.gate with held := d.gate.held + 1 } } else d
  if !d.on F.GATE_CTRL_GATE_EN then { d with gate := { d.gate with active := [], edges := [] } }
  else
    let near := d.gateNear y repeated
    let times := near.flatMap fun s => [(s.pin, s.from_), (s.pin, s.to_)]
    let edges := times.filterMap fun (p, t) =>
      if 0 < t ∧ t < d.lineCycles ∧ activeAt near p t ≠ activeAt near p (t - 1) then
        some (⟨t.toNat, p, d.gateHigh p (activeAt near p t)⟩ : GateEdge) else none
    { d with gate := { d.gate with active := idxs 22 fun p => activeAt near p 0, edges := edges } }

/-- A gate output is active now: by its timing, by GATE_RESET, or GDIS (22) by GATE_ALLON (R151, R153). -/
def Dev.gateActive (d : Dev) (pin : Nat) : Bool :=
  d.gate.active.contains pin || (d.gate.reset && (pin == 20 || pin == 21)) || (d.gate.gdis && pin == 22)

/-! ### Checks of a committed set (R133, R139, R150, R152) -/

/-- Twice the lane rate in kbit/s: f_pipe × COL_MULT (PIPE_CLK.FREQ in kHz). -/
def Dev.laneRate2 (d : Dev) : Nat := d.get F.PIPE_CLK_FREQ * d.get F.COL_CTRL_COL_MULT

/-- A rule of the Col lanes is broken (R133, R139). -/
def Dev.badLanes (d : Dev) : Bool :=
  let n := d.get F.RASTER_H_H_TOTAL * d.get F.COL_CTRL_COL_MULT
  let s := n / 160
  let slot := if d.on F.DRV_LAYOUT_DUAL_GATE then s / 2 else s
  n % 160 != 0 || (s % 2 == 1 && d.on F.DRV_LAYOUT_DUAL_GATE) || decide (d.laneRate2 < 3000000) ||
    decide (12000000 < d.laneRate2) || decide (slot < 24 + d.slotBytes)

/-- A rule of mini-LVDS is broken (R149, R150). -/
def Dev.badMlv (d : Dev) : Bool :=
  let n := d.get F.RASTER_H_H_TOTAL * d.get F.COL_CTRL_COL_MULT
  let f := d.laneRate2
  n % 64 != 0 || decide (f < 400000) || decide (1600000 < f) || !d.on F.DRIVE_CTRL_OUT_BITS || d.on F.DRV_LAYOUT_DUAL_GATE ||
    d.drivers.any (fun v => decide (24 ≤ v)) ||
    (List.range 4).any fun b =>
      let c := (d.drivers.filter fun v => v / 6 == b).length * d.slotChannels
      decide (n / 64 < 1 + 4 * divUp c 5 + d.get F.COL_CTRL_LOAD_W + 8)

/-- A rule of the gate outputs is broken (R152; PHASES above 16 refused). -/
def Dev.badGate (d : Dev) : Bool :=
  let dual := d.get F.DRV_LAYOUT_DUAL_GATE
  let rows := d.get F.GATE_CTRL_ROWS
  let ph := d.get F.GATE_CTRL_PHASES
  let lastGck := d.rowSlot (rows - 1 + d.get F.GATE_CTRL_SPAN) + d.get F.GATE_EDGE_FALL
  let strobes := d.gateStrobes
  let last := (strobes.filter fun s => decide (20 ≤ s.pin)).foldl (fun m s => max m s.to_) lastGck
  let total : Int := (d.get F.RASTER_V_V_TOTAL * d.lineCycles : Nat)
  decide (rows < d.get F.RASTER_V_V_ACTIVE * (1 + dual)) || ph == 0 || decide (16 < ph) || d.get F.GATE_CTRL_SPAN == 0 ||
    (strobes.any fun s => decide (s.pin < 20) && decide (total + s.from_ < last))

/-- CFG_PANEL holds for the set in force in `d`. -/
def Dev.cfgPanel (d : Dev) : Bool := (if d.on F.COL_CTRL_MLV_MODE then d.badMlv else d.badLanes) || d.badGate

/-! ### Meanings -/

/-- TRAIN_PHASE_TIMEOUT (R144). -/
def execTrainPhaseTimeout (s : State) : Host.Outcome State Fault Refusal := .next (s.upd (·.trainTimeout))

/-- LOCK_N_FALL (R143 to R145). -/
def execLockNFall (s : State) : Host.Outcome State Fault Refusal := .next (s.upd (·.lockFall))

/-- LOCK_N_RISE (R144 to R147). -/
def execLockNRise (s : State) : Host.Outcome State Fault Refusal := .next (s.upd (·.lockRise))

/-- LOCK_LOSS (R145). -/
def execLockLoss (s : State) : Host.Outcome State Fault Refusal := .next (s.upd (·.lockLoss))

/-- RELOCK (R146). -/
def execRelock (s : State) : Host.Outcome State Fault Refusal := .next (s.upd (·.relock))

/-- LANE_SEARCH_STEP (R146): `rose` says whether LOCK_N rose during the lane's idle. -/
def execLaneSearchStep (rose : Bool) (s : State) : Host.Outcome State Fault Refusal := .next (s.upd (·.searchStep rose))

/-- LANE_RETRY (R146): `passed` says whether DETECT, CDR and ALIGN passed. -/
def execLaneRetry (lane : Fin 48) (passed : Bool) (s : State) : Host.Outcome State Fault Refusal :=
  .next (s.upd (·.laneRetry lane passed))

/-- TEST_BURST (R147). -/
def execTestBurst (lane : Fin 48) (s : State) : Host.Outcome State Fault Refusal := .next (s.upd (·.testBurst lane))

/-- COL_CTLPKT_GO (R142). -/
def execColCtlpktGo (s : State) : Host.Outcome State Fault Refusal := .next (s.upd (·.ctlGo))

end Sys2Proof.Machine
end

