-- ==== Sys2Proof/Machine/Compose.lean ====
section
/-! DEFINITION.  The arithmetic of composition (R67 to R77): layer formats, chroma, colour conversion, placement and
blending.  Pure functions of a layer's settings and of memory bytes. -/

set_option Elab.async false

namespace Sys2Proof

/-- The encoding of a stream: the VSC SDP names it when the source sends one, else the MSA (R40). -/
def Msa.enc (m : Msa) : Enc := m.vsc.getD m.main
def Msa.fmt (m : Msa) : PixFmt := m.enc.fmt
def Msa.bpc (m : Msa) : Nat := m.enc.bpc
def Msa.csc (m : Msa) : Fin 4 := m.enc.csc

/-- Chroma samples in a row of `w` pixels. -/
def Msa.chromaLen (m : Msa) (w : Nat) : Nat :=
  match m.fmt with
  | .rgb | .ycc444 => w
  | .ycc422 | .ycc420 => w / 2

/-- The first `w` pixels of a line, and what follows them (Table 2.4). -/
def RxLine.left (l : RxLine) (m : Msa) (w : Nat) : RxLine :=
  let n := m.chromaLen w
  ⟨l.a.take w, l.b.take n, l.c.take n, l.b2.take n, l.c2.take n⟩
def RxLine.right (l : RxLine) (m : Msa) (w : Nat) : RxLine :=
  let n := m.chromaLen w
  ⟨l.a.drop w, l.b.drop n, l.c.drop n, l.b2.drop n, l.c2.drop n⟩

end Sys2Proof

namespace Sys2Proof.Machine

/-- A component of `n` bits expanded to 12 (R40, R70): the code with its own high bits repeated below it. -/
def expand (n v : Nat) : Nat :=
  if 12 ≤ n then v / 2 ^ (n - 12) else if n = 5 then (v * 128 ||| v * 4 ||| v / 8) else (v * 2 ^ (12 - n) ||| v / 2 ^ (2 * n - 12))

/-- Conversion matrix of Table 3.3: y_off, k_y, k_rv, k_gu, k_gv, k_bu. -/
def cscMatrix : Nat → Int × Int × Int × Int × Int × Int
  | 0 => (256, 4787, 7370, 877, 2191, 8684)
  | 1 => (0, 4096, 6450, 767, 1917, 7601)
  | 2 => (256, 4787, 6901, 770, 2674, 8805)
  | _ => (0, 4096, 6040, 674, 2340, 7706)

/-- YCbCr to RGB (R72). -/
def ycc (csc y cb cr : Nat) : Px :=
  let (off, ky, krv, kgu, kgv, kbu) := cscMatrix csc
  let y : Int := ky * ((y : Int) - off)
  let u : Int := (cb : Int) - 2048
  let v : Int := (cr : Int) - 2048
  let c := fun (x : Int) => clampN 4095 ((x + 2048).fdiv 4096)
  ⟨c (y + krv * v), c (y - kgu * u - kgv * v), c (y + kbu * u)⟩

/-- Horizontal chroma filter at luma column `x` from chroma `c k` (R71). -/
def chromaH (c : Int → Int) (x : Int) : Int :=
  let k := x.fdiv 2
  if x % 2 = 0 then c k
  else clampI 0 4095 ((-(c (k - 1)) + 9 * c k + 9 * c (k + 1) - c (k + 2) + 8).fdiv 16)

/-- Vertical 4:2:0 chroma filter at luma row `y` (R71). -/
def chromaV (csite : Bool) (c : Int → Int) (y : Int) : Int :=
  let k := y.fdiv 2
  let odd := y % 2 != 0
  clampI 0 4095 <|
    if csite then (if odd then (c k + c (k + 1) + 1).fdiv 2 else c k)
    else (3 * c k + c (if odd then k + 1 else k - 1) + 2).fdiv 4

/-! ### Input pixels (R40) -/

/-- A chroma row of an input line, expanded, at a chroma column clamped to the row. -/
def rxChroma (bpc : Nat) (row : List Nat) (k : Int) : Int :=
  expand bpc (nth row (clampI 0 ((row.length : Int) - 1) k).toNat % 2 ^ bpc)

/-- Chroma of an input line at a luma column: as received, or upsampled by the layers' filter; 4:2:0 uses CSITE 0, and a
chroma row outside the picture is the picture's first or last one (R40, R71). -/
def rxChromaAt (m : Msa) (row row2 : List Nat) (line x : Nat) : Nat :=
  let last : Int := ((m.vActive / 2 : Nat) : Int) - 1
  match m.fmt with
  | .rgb | .ycc444 => expand m.bpc (nth row x % 2 ^ m.bpc)
  | .ycc422 => (chromaH (rxChroma m.bpc row) x).toNat
  | .ycc420 => (chromaH (fun k => chromaV false (fun cy =>
      if clampI 0 last cy = (line / 2 : Nat) then rxChroma m.bpc row k else rxChroma m.bpc row2 k) line) x).toNat

/-- The 12-bit RGB pixels of a received line (R40). -/
def rxPixels (m : Msa) (l : RxLine) (line : Nat) : List Px :=
  (List.range l.a.length).map fun x =>
    let a := expand m.bpc (nth l.a x % 2 ^ m.bpc)
    let b := rxChromaAt m l.b l.b2 line x
    let c := rxChromaAt m l.c l.c2 line x
    if m.fmt = .rgb then (⟨a, b, c⟩ : Px) else ycc m.csc a b c

/-! ### Layers -/

/-- The settings of a layer in force. -/
structure Layer where
  en : Bool
  fmt : Nat
  premult : Bool
  sx : Nat
  sy : Nat
  csc : Nat
  csite : Bool
  galpha : Nat
  base : Nat
  baseC : Nat
  baseV : Nat
  stride : Nat
  strideC : Nat
  srcW : Nat
  srcH : Nat
  dstX : Nat
  dstY : Nat
  srcX : Nat
  srcY : Nat
  deriving DecidableEq, Repr

/-- Read a layer's registers. -/
def Dev.layer (d : Dev) (l : Nat) : Layer where
  en := d.on F.LAYER_CTRL_EN l
  fmt := d.get F.LAYER_CTRL_FMT l
  premult := d.on F.LAYER_CTRL_PREMULT l
  sx := d.get F.LAYER_CTRL_SCALE_X l + 1
  sy := d.get F.LAYER_CTRL_SCALE_Y l + 1
  csc := d.get F.LAYER_CTRL_CSC l
  csite := d.on F.LAYER_CTRL_CSITE l
  galpha := d.get F.LAYER_CTRL_GALPHA l
  base := d.get F.LAYER_BASE_BASE l * 64
  baseC := d.get F.LAYER_BASE_C_BASE l * 64
  baseV := d.get F.LAYER_BASE_V_BASE l * 64
  stride := d.get F.LAYER_STRIDE_STRIDE l * 64
  strideC := d.get F.LAYER_STRIDE_STRIDE_C l * 64
  srcW := d.get F.LAYER_SIZE_SRC_W l
  srcH := d.get F.LAYER_SIZE_SRC_H l
  dstX := d.get F.LAYER_POS_DST_X l
  dstY := d.get F.LAYER_POS_DST_Y l
  srcX := d.get F.LAYER_SRC_OFF_SRC_X l
  srcY := d.get F.LAYER_SRC_OFF_SRC_Y l

/-- Bytes of a plane-0 sample (Table 3.2). -/
def fmtBytes (f : Nat) : Nat :=
  if f ≤ 1 then 4 else if f = 2 then 2 else if f = 3 then 1 else if f % 2 = 1 then 2 else 1

def Layer.is420 (y : Layer) : Bool := y.fmt == 4 || y.fmt == 5
def Layer.is422 (y : Layer) : Bool := y.fmt == 6 || y.fmt == 7

/-- Does the layer's rectangle cover a line, a pixel (R73)? -/
def Layer.coversLine (y : Layer) (line : Nat) : Bool := decide (y.dstY ≤ line) && decide (line < y.dstY + y.srcH * y.sy)
def Layer.covers (y : Layer) (x line : Nat) : Bool :=
  y.coversLine line && decide (y.dstX ≤ x) && decide (x < y.dstX + y.srcW * y.sx)

/-- A YCbCr word expanded to 12 bits: 8-bit, or bits [9:0] of a 16-bit word (R69, R70). -/
def yccWord (m : Memory) (fmt a : Nat) : Nat :=
  if fmt % 2 = 0 then expand 8 (Memory.get m a).toNat else expand 10 (leNat (Memory.read m a 2) % 1024)

/-- Chroma sample (0 Cb, 1 Cr) at chroma column `cx` and row `cy`, clamped to the source rectangle (R71). -/
def Layer.chromaAt (y : Layer) (m : Memory) (c : Nat) (cx cy : Int) : Int :=
  let bps := fmtBytes y.fmt
  let row0 := if y.is420 then y.srcY / 2 else y.srcY
  let row1 := if y.is420 then (y.srcY + y.srcH) / 2 else y.srcY + y.srcH
  let cx := (clampI (y.srcX / 2 : Nat) (((y.srcX + y.srcW) / 2 : Nat) - 1) cx).toNat
  let cy := (clampI row0 ((row1 : Int) - 1) cy).toNat
  yccWord m y.fmt (y.baseC + cy * y.strideC + (2 * cx + c) * bps)

/-- Cb or Cr at a source sample (R71). -/
def Layer.chroma (y : Layer) (m : Memory) (c sx sy : Nat) : Nat :=
  let bps := fmtBytes y.fmt
  if 8 ≤ y.fmt then yccWord m y.fmt ((if c = 0 then y.baseC else y.baseV) + sy * y.strideC + sx * bps)
  else
    (chromaH (fun cx =>
      if y.is420 then chromaV y.csite (fun cy => y.chromaAt m c cx cy) sy else y.chromaAt m c cx sy) sx).toNat

/-- A FMT 0 word: colour and alpha, expanded (R70). -/
def rgba8888 (w : Nat) : Px × Nat :=
  (⟨expand 8 (bits w 7 0), expand 8 (bits w 15 8), expand 8 (bits w 23 16)⟩, expand 8 (bits w 31 24))

/-- Colour and pixel alpha of a source sample (R69 to R73); `pal` is the layer's palette. -/
def Layer.sample (y : Layer) (m : Memory) (pal : Nat → Nat) (sx sy : Nat) : Px × Nat :=
  let a := y.base + sy * y.stride + sx * fmtBytes y.fmt
  let w := leNat (Memory.read m a (fmtBytes y.fmt))
  match y.fmt with
  | 0 => rgba8888 w
  | 1 => (⟨expand 10 (bits w 9 0), expand 10 (bits w 19 10), expand 10 (bits w 29 20)⟩, bits w 31 30 * 1365)
  | 2 => (⟨expand 5 (bits w 15 11), expand 6 (bits w 10 5), expand 5 (bits w 4 0)⟩, 4095)
  | 3 => rgba8888 (pal w)
  | _ => (ycc y.csc (yccWord m y.fmt a) (y.chroma m 0 sx sy) (y.chroma m 1 sx sy), 4095)

/-- The source sample of a destination pixel (R73). -/
def Layer.pixel (y : Layer) (m : Memory) (pal : Nat → Nat) (x line : Nat) : Px × Nat :=
  y.sample m pal (y.srcX + (x - y.dstX) / y.sx) (y.srcY + (line - y.dstY) / y.sy)

/-! ### Blending (R76) -/

def div4095 (x : Nat) : Nat := (x * 4097 + 2 ^ 23) / 2 ^ 24

/-- Effective alpha of a pixel under a layer's global alpha. -/
def effAlpha (apx galpha : Nat) : Nat := div4095 (apx * expand 8 galpha)

/-- One channel blended over what lies beneath. -/
def blend (d c apx galpha : Nat) (premult : Bool) : Nat :=
  let a := effAlpha apx galpha
  if premult then min 4095 (div4095 (c * expand 8 galpha) + div4095 (d * (4095 - a)))
  else div4095 (c * a + d * (4095 - a))

/-- A pixel blended; a layer whose effective alpha is 0 leaves it unchanged. -/
def blendPx (d c : Px) (apx galpha : Nat) (premult : Bool) : Px :=
  ⟨blend d.r c.r apx galpha premult, blend d.g c.g apx galpha premult, blend d.b c.b apx galpha premult⟩

/-- A pixel on its way up the stack, and whether a layer has changed it (R77). -/
structure Comp where
  px : Px
  covered : Bool
  deriving DecidableEq, Repr

/-- Put a layer's pixel on top (R76). -/
def Comp.over (k : Comp) (c : Px) (apx galpha : Nat) (premult : Bool) : Comp :=
  if effAlpha apx galpha = 0 then k else ⟨blendPx k.px c apx galpha premult, true⟩

/-! ### Checks of a committed set (R74) -/

/-- A layer's set fails a check of R74 other than the reserved format. -/
def Layer.misplaced (y : Layer) (hActive vActive : Nat) : Bool :=
  decide (hActive < y.dstX + y.srcW * y.sx) || decide (vActive < y.dstY + y.srcH * y.sy) ||
    decide (y.stride < (y.srcX + y.srcW) * fmtBytes y.fmt) || y.srcW == 0 || y.srcH == 0 ||
    (y.is420 && (y.srcX % 2 == 1 || y.srcY % 2 == 1 || y.srcW % 2 == 1 || y.srcH % 2 == 1)) ||
    (y.is422 && (y.srcX % 2 == 1 || y.srcW % 2 == 1))

/-- WALL_FEED is 1, and the wall block is not what last wrote layer 7's shadows (R74, R78). -/
def Dev.foreignFeed (d : Dev) (l : Nat) : Bool := l == 7 && d.on F.COMP_CTRL_WALL_FEED && !d.scan.l7Wall

/-- CFG_LAYER holds for the set in force in `d` (R74). -/
def Dev.cfgLayer (d : Dev) : Bool :=
  [1, 2, 3, 4, 5, 6, 7].any fun l =>
    let y := d.layer l
    y.en && (decide (10 ≤ y.fmt) || d.foreignFeed l || y.misplaced (d.get F.RASTER_H_H_ACTIVE) (d.get F.RASTER_V_V_ACTIVE))

end Sys2Proof.Machine
end

