-- ==== Sys2Proof/Machine/Scan.lean ====
section
/-! DEFINITION.  Scan-out (R67 to R92, R114 to R131, R160 to R174, R471, R472): the frame ring, the ladder, the
fixed-path readers and encoders, underruns, and a raster line from composition to its line packets. -/

set_option Elab.async false

namespace Sys2Proof.Machine

/-! ### Raster -/

def Dev.hActive (d : Dev) : Nat := d.get F.RASTER_H_H_ACTIVE
def Dev.vActive (d : Dev) : Nat := d.get F.RASTER_V_V_ACTIVE
def Dev.vTotal (d : Dev) : Nat := d.get F.RASTER_V_V_TOTAL
def Dev.prefetchLines (d : Dev) : Nat := d.get F.LATCH_CTRL_PREFETCH_LINES

/-- Line of the latch point (R82): 0 selects V_ACTIVE; clamped between V_ACTIVE and the line before prefetch start. -/
def Dev.latchLine (d : Dev) : Nat :=
  let l := d.get F.LATCH_CTRL_LATCH_LINE
  min (max (if l = 0 then d.vActive else l) d.vActive) (d.vTotal - d.prefetchLines - 1)

/-- Line of prefetch start (R82). -/
def Dev.prefetchLine (d : Dev) : Nat := d.vTotal - d.prefetchLines

/-- Ladder level in force. -/
def Dev.level (d : Dev) : Nat := d.get F.FSEQ_STATUS_LADDER_LEVEL

/-- Layer 0 runs in buffered mode. -/
def Dev.buffered (d : Dev) : Bool := d.on F.COMP_CTRL_L0_BUFFERED

/-- The panel shows FALLOW's picture: in FALLOW and during its exit (R355, R359). -/
def Dev.inFallow (d : Dev) : Bool := d.pwrState == 1 || (d.pwrState == 5 && d.pwr.origin == 1)

/-- Raise an event once per frame. -/
def Dev.once (d : Dev) (o : Once) (e : Event) (detail : Nat := 0) : Dev :=
  if d.scan.seen.contains o then d
  else { d with scan := { d.scan with seen := d.scan.seen ++ [o] } }.raise e detail

/-! ### The frame ring (R79) -/

/-- A receiver. -/
def Dev.port (d : Dev) (p : Nat) : PortState := if p = 0 then d.rx.a else d.rx.b

/-- The stream of a port is accepted: by its MSA, and with DSC on by its PPS (R48, R55, R56, R58). -/
def Dev.streamOk (d : Dev) (p : Nat) : Bool :=
  let s := d.port p
  s.accepted && (!d.on F.RX_PORT_STATUS_DSC_ON p || (s.pps.isSome && !s.ppsBad))

/-- The pixels of a line that a port receives with an accepted stream (R40). -/
def Dev.rxLine (d : Dev) (p : Nat) (l : RxLine) (line : Nat) : Option (List Px) :=
  if d.streamOk p then (d.port p).msa.map fun m => rxPixels m l line else none

/-- PORT_MODE in force (Table 2.4). -/
def Dev.portMode (d : Dev) : Nat := d.get F.RX_MODE_PORT_MODE

/-- The port that feeds layer 0 (Table 2.4). -/
def Dev.activePort (d : Dev) : Nat :=
  match d.portMode with
  | 1 => 1
  | 3 => if d.on F.RX_PORT_STATUS_ACTIVE 1 then 1 else 0
  | _ => 0

/-- The line received in pass-through mode: of the active port, or in split mode of both, each half converted with its own
port's stream (Table 2.4, R40, R71). -/
def Dev.liveLine (d : Dev) (l : RxLine) (line : Nat) : Option (List Px) :=
  if d.portMode = 2 then
    let w := d.hActive / 2
    match (d.port 0).msa with
    | some m =>
      match d.rxLine 0 (l.left m w) line, d.rxLine 1 (l.right m w) line with
      | some a, some b => some (a ++ b)
      | _, _ => none
    | none => none
  else d.rxLine d.activePort l line

/-- Ring that a port writes: both halves go to ring A in split mode (R79). -/
def Dev.ringOf (d : Dev) (p : Nat) : Nat := if d.portMode = 2 then 0 else p

/-- The ring that scan-out reads; after a PORT_MODE change the old one until a frame completes (R47). -/
def Dev.scanRing (d : Dev) : Nat := d.scan.ringHeld.getD (d.ringOf d.activePort)

/-- Buffers of a ring in state FREE, lowest first. -/
def Dev.ringFree (d : Dev) (p : Nat) : List Nat :=
  (List.range 3).filter fun b =>
    !((d.on F.RING_STATUS_SCAN_VALID p && d.get F.RING_STATUS_SCAN_BUF p == b) ||
      (d.on F.RING_STATUS_PREV_VALID p && d.get F.RING_STATUS_PREV_BUF p == b) ||
      (d.on F.RING_STATUS_LATEST_VALID p && d.get F.RING_STATUS_LATEST_BUF p == b) ||
      (d.on F.RING_STATUS_WRITING p && d.get F.RING_STATUS_WRITE_BUF p == b))

/-- Input frame start: the writer takes a FREE buffer, else PREV. -/
def Dev.ringTake (d : Dev) (p : Nat) : Dev :=
  if d.on F.RING_STATUS_WRITING p then d
  else
    match d.ringFree p with
    | b :: _ => (d.put F.RING_STATUS_WRITE_BUF b p).put F.RING_STATUS_WRITING 1 p
    | [] =>
      if d.on F.RING_STATUS_PREV_VALID p then
        ((d.put F.RING_STATUS_WRITE_BUF (d.get F.RING_STATUS_PREV_BUF p) p).put F.RING_STATUS_WRITING 1 p).put
          F.RING_STATUS_PREV_VALID 0 p
      else d

/-- Input frame complete: WRITE becomes LATEST; an unscanned LATEST is freed, and counted only in the ring that
scan-out reads, at level 0. -/
def Dev.ringComplete (d : Dev) (p : Nat) : Dev :=
  if d.on F.RING_STATUS_WRITING p then
    let drop := d.on F.RING_STATUS_LATEST_VALID p && p == d.scanRing && d.level == 0
    let d := if drop then (d.inc F.RING_STATUS_DROPS p).raise Ev.RING_DROP else d
    ((d.put F.RING_STATUS_LATEST_BUF (d.get F.RING_STATUS_WRITE_BUF p) p).put F.RING_STATUS_LATEST_VALID 1 p).put
      F.RING_STATUS_WRITING 0 p
  else d

/-- Input frame incomplete or refused: WRITE becomes FREE. -/
def Dev.ringDiscard (d : Dev) (p : Nat) : Dev := d.put F.RING_STATUS_WRITING 0 p

/-- Prefetch start at level 0 with a LATEST buffer: SCAN becomes PREV and LATEST becomes SCAN. -/
def Dev.ringScanMove (d : Dev) (p : Nat) : Dev :=
  if d.level == 0 && d.on F.RING_STATUS_LATEST_VALID p then
    let d := (d.put F.RING_STATUS_PREV_BUF (d.get F.RING_STATUS_SCAN_BUF p) p).put F.RING_STATUS_PREV_VALID
      (d.get F.RING_STATUS_SCAN_VALID p) p
    ((d.put F.RING_STATUS_SCAN_BUF (d.get F.RING_STATUS_LATEST_BUF p) p).put F.RING_STATUS_SCAN_VALID 1 p).put
      F.RING_STATUS_LATEST_VALID 0 p
  else d

/-- Every buffer of both rings becomes FREE (R359). -/
def Dev.ringsFree (d : Dev) : Dev :=
  d.each [0, 1] fun d p => (((d.put F.RING_STATUS_SCAN_VALID 0 p).put F.RING_STATUS_PREV_VALID 0 p).put
    F.RING_STATUS_LATEST_VALID 0 p).put F.RING_STATUS_WRITING 0 p

/-! ### The fallback ladder (R37, R433 to R436) -/

/-- Channels `lo` to `hi` are trained and not failed. -/
def Dev.chTrained (d : Dev) (lo hi : Nat) : Bool :=
  (List.range 8).all fun ch => decide (ch < lo) || decide (hi < ch) || (decide (2 ≤ d.chState ch) && d.chState ch != 6)

/-- A level is available (R433). -/
def Dev.levelAvail (d : Dev) (l : Nat) : Bool :=
  let p := if l = 0 then d.ringOf d.activePort else d.scanRing
  match l with
  | 0 => d.on F.RX_PORT_STATUS_HEALTHY d.activePort && (d.on F.RING_STATUS_LATEST_VALID p || d.on F.RING_STATUS_SCAN_VALID p) &&
      !d.scan.compLost && d.chTrained 0 6
  | 1 => d.on F.RING_STATUS_SCAN_VALID p && !d.scan.compLost && d.chTrained 0 7
  | 2 => d.on F.COMP_CTRL_FALLOW_VALID && !d.scan.compLost && d.chTrained 7 7
  | 3 => d.on F.FP_STATUS_PLACARD_VALID && !d.scan.compLost && d.chTrained 7 7
  | _ => true

/-- LADDER_STATUS.AVAIL is evaluated. -/
def Dev.showAvail (d : Dev) : Dev := d.put F.LADDER_STATUS_AVAIL (maskOf 5 d.levelAvail)

/-- The first available level in the order `l`, `l` + 1, …, 4 (R434). -/
def Dev.firstLevel (d : Dev) (l : Nat) : Nat := ((firstIdx 5 fun k => decide (l ≤ k) && d.levelAvail k).getD 4)

/-- The level in force changes: TARGET reads it in shadow and active value, and a frame after level 4 takes seed SAFE. -/
def Dev.setLevel (d : Dev) (l : Nat) : Dev :=
  let d := if d.level = 4 ∧ l < 4 then { d with scan := { d.scan with fromSafe := true } } else d
  (d.put F.FSEQ_STATUS_LADDER_LEVEL l).put F.LADDER_CTRL_TARGET l

/-- An automatic drop from level `old` (R37, R435, R440). -/
def Dev.ladderDrop (d : Dev) (cause old new : Nat) : Dev :=
  let d := ((d.setLevel new).put F.LADDER_STATUS_CAUSE cause).inc F.LADDER_STATUS_DROPS
  d.raiseSev Ev.LADDER_DROP (if new = 4 then 3 else 2) (new + 16 * old + 256 * cause)

/-- A drop cause applies to a level (Table 1.11, Table 18.1). -/
def causeAt (cause level : Nat) : Bool :=
  match cause with
  | 1 | 2 | 9 => level == 0
  | 3 => level == 1
  | 4 => level == 2
  | 5 => level == 3
  | 10 => level == 0 || level == 1
  | 6 | 7 | 8 => decide (level < 4)
  | _ => false

/-- The lowest waiting cause that applies to a level (R435). -/
def Dev.dueCause (d : Dev) (level : Nat) : Option Nat := d.scan.causes.find? fun c => causeAt c level

/-- A drop due at a latch point at which `old` was in force takes effect, after a commit of TARGET (R37, R435).  In FALLOW
the fallow frame lost makes a device in a wall show the placard or the safe raster from the next frame (R356), and only
the causes that also hold of the fallow frame wait on (R436). -/
def Dev.applyDrop (d : Dev) (old : Nat) : Dev :=
  if d.inFallow then
    if d.inWall && d.scan.causes.contains 4 && !d.on F.COMP_CTRL_FALLOW_VALID && decide (d.level < 3) then
      { d with scan := { d.scan with causes := [] } }.ladderDrop 4 d.level (d.firstLevel 3)
    else { d with scan := { d.scan with causes := d.scan.causes.filter fun c => [4, 5, 6, 7, 8].contains c } }
  else
    let e := { d with scan := { d.scan with causes := [] } }
    match d.dueCause old with
    | some c => e.ladderDrop c old (e.firstLevel (old + 1))
    | none => e

/-! ### Underrun (R90, R91) -/

/-- Is a layer switched off at a pixel? -/
def Dev.layerOff (d : Dev) (l y x : Nat) : Bool :=
  d.scan.off.any fun (k, ly, lx) => k == l && (decide (ly < y) || (ly == y && decide (lx ≤ x)))

/-- A layer underruns from pixel (x, y) on. -/
def Dev.underrun (d : Dev) (l y x : Nat) (dram : Bool) : Dev :=
  let d := if dram then d.put F.UNDERRUN_STATUS_DRAM_ERR 1 else d
  if d.layerOff l y x then d
  else
    let first := d.get F.UNDERRUN_STATUS_LAYERS == 0
    let d := if first then (d.put F.UNDERRUN_STATUS_FIRST_LINE y).inc F.UNDERRUN_FRAMES_COUNT else d
    let d := d.put F.UNDERRUN_STATUS_LAYERS (putBit (d.get F.UNDERRUN_STATUS_LAYERS) l true)
    { d with scan := { d.scan with off := d.scan.off ++ [(l, y, x)] } }.once (.underrun l) Ev.UNDERRUN l

/-! ### Fixed-path readers (R171 to R174, R110, R124, R471) -/

/-- What a fixed-path fetch gives. -/
inductive Fetched where
  | ok (px : List Px)
  | boundFail
  | bad
  | err
  deriving DecidableEq, Repr

/-- Samples of segment `k` of a picture line. -/
def Dev.segLen (d : Dev) (k : Nat) : Nat := min 128 (d.hActive - 128 * k)

/-- Segments of a line. -/
def Dev.lineSegs (d : Dev) : Nat := divUp d.hActive 128

/-- Fetch a block through a DRAM port and check it; `entry` is the address of its length-table entry.  A failing block
of an exact picture gets SUSPECT (R171, R173). -/
def Dev.fetchBlock (d : Dev) (port : Nat) (k : BKind) (addr : Nat) (entry : Option Nat) (n : Nat) : Dev × Fetched :=
  let (d, e) := match entry with
    | none => (d, none)
    | some a =>
      let (d, st, bs) := d.lsRead codecLs a 2
      (d, if st = LsStatus.ok then some (leNat bs) else none)
  let len := (e.filter fun w => !bit w 15).map (· % 1024)
  let (d, st, bs) := d.dramRead port addr (match len with | some l => 4 + l | none => k.slot)
  if st ≠ DramStatus.ok then (d, .err)
  else
    match k.check n len bs with
    | .ok px => (d, .ok px)
    | .boundFail => (d, .boundFail)
    | .bad =>
      let d := match entry, e with
        | some a, some w => (d.lsWrite codecLs a (leBytes 2 (putBit w 15 true))).1
        | _, _ => d
      (d, .bad)

/-- A failing block of a fixed-path reader is recorded, counted and raised once per frame (R471). -/
def Dev.blockBad (d : Dev) (u : ReadUnit) (source line seg : Nat) : Dev :=
  (d.blockCheckRecord source line seg).once (.blockCheck u) Ev.BLOCK_CHECK

/-- A reader takes a segment into its line buffer. -/
def Dev.takeSeg (d : Dev) (u : ReadUnit) (line seg : Nat) (px : Option (List Px)) : Dev :=
  { d with scan := { d.scan with segs := d.scan.segs ++ [⟨u, line, seg, px⟩] } }

/-- A block of ring buffer `b` (0 to 5). -/
def Dev.fetchRing (d : Dev) (b line seg : Nat) : Dev × Fetched :=
  d.fetchBlock 0 .rgb36 (d.get F.RING_BASE_BASE b * 64 + line * d.ringPitch + seg * 580)
    (some (d.get F.RING_LEN_BASE_BASE b * 16 + 2 * (line * d.lineSegs + seg))) (d.segLen seg)

/-- The co-located block of the PREV buffer, while it is in that state (R172). -/
def Dev.fetchPrev (d : Dev) (p line seg : Nat) : Dev × Option (List Px) :=
  if d.on F.RING_STATUS_PREV_VALID p then
    match d.fetchRing (3 * p + d.get F.RING_STATUS_PREV_BUF p) line seg with
    | (d, .ok px) => (d, some px)
    | (d, .bad) => (d.blockBad .rd 0 line seg, none)
    | (d, _) => (d, none)
  else (d, none)

/-- RD reads a segment of the SCAN buffer, with the co-located block of PREV as substitute (R91, R172). -/
def Dev.fetchRd (d : Dev) (line seg : Nat) : Dev :=
  let p := d.scanRing
  if !d.on F.RING_STATUS_SCAN_VALID p then d
  else
    match d.fetchRing (3 * p + d.get F.RING_STATUS_SCAN_BUF p) line seg with
    | (d, .ok px) => d.takeSeg .rd line seg (some px)
    | (d, .bad) | (d, .boundFail) =>
      let d := d.blockBad .rd 0 line seg
      let (d, sub) := { d with scan := { d.scan with badRing := true } }.fetchPrev p line seg
      (if sub.isNone then d.inc F.SUBST_BG_COUNT_COUNT else d).takeSeg .rd line seg sub
    | (d, .err) => { d with scan := { d.scan with badLine := d.scan.badLine ++ [(0, line)], badRing := true } }

/-- DD[a] reads a demura segment; a failing one gives offset 0 (R107, R110). -/
def Dev.fetchDd (d : Dev) (u : ReadUnit) (a line seg : Nat) : Dev :=
  if !d.on F.CORR_CTRL_DEMURA_EN then d
  else
    let (d, r) := d.fetchBlock 0 .s18
      (d.get F.DEMURA_BASE_BASE a * 64 + line * d.get F.DEMURA_PITCH_PITCH * 64 + seg * 292)
      (some (d.get F.DEMURA_LEN_BASE_BASE a * 16 + 2 * (line * d.lineSegs + seg))) (d.segLen seg)
    match r with
    | .ok px => d.takeSeg u line seg (some px)
    | r =>
      let d := if r = .bad then d.blockBad u 3 line seg else d
      let d := if d.scan.seen.contains .demuraErr then d
        else (d.put F.DEMURA_ERR_STATUS_PLANE a).put F.DEMURA_ERR_STATUS_LINE line
      ((d.inc F.DEMURA_ERR_STATUS_COUNT).once .demuraErr Ev.DEMURA_ERR a).takeSeg u line seg none

/-- A history segment, or one of the fallow frame read as seed, is unusable (R124). -/
def Dev.histErr (d : Dev) : Dev := (d.inc F.HIST_ERR_COUNT_COUNT).once .histErr Ev.HIST_ERR

/-- A seed segment came without data; of a line drawn already it has been counted as late (R124). -/
def Dev.histLost (d : Dev) (u : ReadUnit) (line seg : Nat) : Dev :=
  (if line < d.scan.drawn then d else d.histErr).takeSeg u line seg none

/-- Kind of the history blocks (R122). -/
def Dev.histKind (d : Dev) : BKind := if d.on F.DRIVE_CTRL_HIST_RATIO then .b3 else .b2

/-- Address of a history block. -/
def Dev.histAddr (d : Dev) (b line seg : Nat) : Nat :=
  d.get F.HIST_BASE_BASE b * 64 + line * d.get F.HIST_PITCH_PITCH * 64 + seg * d.histKind.slot

/-- HD reads a segment of the history (R122, R124). -/
def Dev.fetchHd (d : Dev) (line seg : Nat) : Dev :=
  if !(d.scan.odFrame && d.scan.seed == 0) then d
  else
    let (d, r) := d.fetchBlock 1 d.histKind (d.histAddr (1 - d.get F.HIST_STATUS_WRITE_BUF) line seg) none (d.segLen seg)
    match r with
    | .ok px => d.takeSeg .hd line seg (some px)
    | .bad => (d.blockBad .hd 4 line seg).histLost .hd line seg
    | _ => d.histLost .hd line seg

/-- A block of the fallow frame or the placard. -/
def Dev.fetchStored (d : Dev) (port : Nat) (placard : Bool) (line seg : Nat) : Dev × Fetched :=
  let base := if placard then d.get F.PLACARD_BASE_BASE else d.get F.FALLOW_BASE_BASE
  let len := if placard then d.get F.PLACARD_LEN_BASE_BASE else d.get F.FALLOW_LEN_BASE_BASE
  d.fetchBlock port .rgb36 (base * 64 + line * d.get F.FP_PITCH_PITCH * 64 + seg * 580)
    (some (len * 16 + 2 * (line * d.lineSegs + seg))) (d.segLen seg)

/-- The stored picture that FD[0] reads in this frame: false the fallow frame, true the placard (R77, R472). -/
def Dev.storedPicture (d : Dev) : Option Bool :=
  if d.level = 3 then some true
  else if d.level = 2 ∨ (d.level < 2 ∧ (d.inFallow ∨ d.scan.fallowAlone)) then some false
  else if d.level < 2 ∧ d.on F.COMP_CTRL_BG_SRC ∧ d.on F.COMP_CTRL_FALLOW_VALID then some false
  else none

/-- FD[0] reads a segment; a failing one takes BG_COLOR (R174). -/
def Dev.fetchFd0 (d : Dev) (line seg : Nat) : Dev :=
  match d.storedPicture with
  | none => d
  | some pl =>
    let d := { d with scan := { d.scan with readFallow := d.scan.readFallow || !pl, readPlacard := d.scan.readPlacard || pl } }
    match d.fetchStored 0 pl line seg with
    | (d, .ok px) => d.takeSeg .fd0 line seg (some px)
    | (d, .err) =>
      ((d.put F.UNDERRUN_STATUS_DRAM_ERR 1).once (.underrun 8) Ev.UNDERRUN).takeSeg .fd0 line seg none
    | (d, _) =>
      let d := (d.blockBad .fd0 (if pl then 2 else 1) line seg).inc F.SUBST_BG_COUNT_COUNT
      { d with scan := { d.scan with badFallow := d.scan.badFallow || !pl, badPlacard := d.scan.badPlacard || pl } }.takeSeg
        .fd0 line seg none

/-- FD[1] reads a segment of the fallow frame as seed (R123, R124). -/
def Dev.fetchFd1 (d : Dev) (line seg : Nat) : Dev :=
  if !(d.scan.odFrame && d.scan.seed == 1) then d
  else
    match d.fetchStored 1 false line seg with
    | (d, .ok px) => d.takeSeg .fd1 line seg (some px)
    | (d, .bad) => (d.blockBad .fd1 1 line seg).histLost .fd1 line seg
    | (d, _) => d.histLost .fd1 line seg

/-- A fixed-path reader receives a block of an active line. -/
def Dev.blockFetch (d : Dev) (u : ReadUnit) (line seg : Nat) : Dev :=
  if !(decide (line < d.vActive) && decide (seg < d.lineSegs)) || d.level == 4 then d
  else
    match u with
    | .rd => d.fetchRd line seg
    | .dd0 => d.fetchDd u 0 line seg
    | .dd1 => d.fetchDd u 1 line seg
    | .dd2 => d.fetchDd u 2 line seg
    | .hd => d.fetchHd line seg
    | .fd0 => d.fetchFd0 line seg
    | .fd1 => d.fetchFd1 line seg

/-! ### Fixed-path encoders (R161, R167 to R170) -/

/-- A list cut or filled with black to `n` samples. -/
def fitSegment (n : Nat) (px : List Px) : List Px := (px ++ List.replicate n (⟨0, 0, 0⟩ : Px)).take n

/-- An exact block goes to its slot, then its table entry (R168); the flag says that both writes were good. -/
def Dev.storeExact (d : Dev) (u : WriteUnit) (port addr entry : Nat) (px : List Px) (fault : Bool) : Dev × Bool :=
  let e := BKind.rgb36.encode px fault
  let d := if e.mismatch then (d.inc F.VERIFY_MISMATCH_COUNT_COUNT).once (.verify u) Ev.VERIFY_MISMATCH else d
  let (d, st) := d.dramWrite port addr e.block
  let d := d.freeTail (XAddr.mk false addr) e.block.length 580
  let (d, st') := d.lsWrite codecLs entry (leBytes 2 (lenEntry e.block))
  (d, st == .ok && st' == .ok)

/-- RE[p] writes a segment of the frame that port `p` is sending into its ring's WRITE buffer (R16, R49). -/
def Dev.encodeRing (d : Dev) (u : WriteUnit) (p line seg : Nat) (px : List Px) (fault : Bool) : Dev :=
  let r := d.ringOf p
  if !d.on F.RING_STATUS_WRITING r then d
  else
    let b := 3 * r + d.get F.RING_STATUS_WRITE_BUF r
    let seg := if d.portMode = 2 ∧ p = 1 then seg + d.hActive / 256 else seg
    (d.storeExact u 2 (d.get F.RING_BASE_BASE b * 64 + line * d.ringPitch + seg * 580)
      (d.get F.RING_LEN_BASE_BASE b * 16 + 2 * (line * d.lineSegs + seg)) (fitSegment (d.segLen seg) px) fault).1

/-- HE writes a segment of the line's reached levels (R122, R170). -/
def Dev.encodeHist (d : Dev) (line seg : Nat) (fault : Bool) : Dev :=
  if !(d.scan.odFrame && d.scan.line == line && !d.scan.reach.isEmpty) then d
  else
    let e := d.histKind.encode ((d.scan.reach.drop (128 * seg)).take 128) fault
    let d := if e.boundFail then (d.inc F.BOUND_FAIL_COUNT_COUNT).once .boundFail Ev.BOUND_FAIL else d
    let a := d.histAddr (d.get F.HIST_STATUS_WRITE_BUF) line seg
    let (d, st) := d.dramWrite 1 a e.block
    let d := if st = .ok then d.freeTail (XAddr.mk false a) e.block.length d.histKind.slot else d
    if st = .ok ∧ d.scan.histNext = line * d.lineSegs + seg then
      { d with scan := { d.scan with histNext := d.scan.histNext + 1 } }
    else d

/-- FE writes a segment of the capture frame's stage-6 output (R355, R356). -/
def Dev.encodeFallow (d : Dev) (line seg : Nat) (fault : Bool) : Dev :=
  if !(d.pwr.capturing && d.scan.line == line && !d.scan.stage6.isEmpty) then d
  else
    let (d, ok) := d.storeExact .fe 2 (d.get F.FALLOW_BASE_BASE * 64 + line * d.get F.FP_PITCH_PITCH * 64 + seg * 580)
      (d.get F.FALLOW_LEN_BASE_BASE * 16 + 2 * (line * d.lineSegs + seg)) ((d.scan.stage6.drop (128 * seg)).take 128) fault
    if !ok then { d with pwr := { d.pwr with captureBad := true } }
    else if d.pwr.capNext = line * d.lineSegs + seg then { d with pwr := { d.pwr with capNext := d.pwr.capNext + 1 } }
    else d

/-- A fixed-path encoder codes a segment of an active line. -/
def Dev.blockEncode (d : Dev) (u : WriteUnit) (line seg : Nat) (px : List Px) (fault : Bool) : Dev :=
  if !(decide (line < d.vActive) && decide (seg < d.lineSegs)) then d
  else
    match u with
    | .re0 => d.encodeRing u 0 line seg px fault
    | .re1 => d.encodeRing u 1 line seg px fault
    | .he => d.encodeHist line seg fault
    | .fe => d.encodeFallow line seg fault

/-! ### Composition of a line (R67, R77, R472) -/

/-- Samples of a reader's line: outer none where no segment was fetched, inner none where its rule replaces them. -/
def Dev.segLine (d : Dev) (u : ReadUnit) (line : Nat) : List (Option (Option Px)) :=
  (List.range d.lineSegs).flatMap fun k =>
    let n := d.segLen k
    match d.scan.segs.find? fun s => s.unit == u && s.line == line && s.seg == k with
    | none => List.replicate n none
    | some s =>
      match s.px with
      | none => List.replicate n (some none)
      | some px => (fitSegment n px).map fun p => some (some p)

def Dev.bgColor (d : Dev) : Px := ⟨d.get F.BG_COLOR_RG_RED, d.get F.BG_COLOR_RG_GREEN, d.get F.BG_COLOR_B_BLUE⟩

/-- Palette entry of a layer as a FMT 0 word. -/
def Dev.palette (d : Dev) (l i : Nat) : Nat := d.rd R.PAL_ENTRY (256 * (l - 1) + i)

/-- The plane rows of a layer that a line needs are fetched; the flag says that one ended with an error (R91). -/
def Dev.fetchLayer (d : Dev) (y : Layer) (line : Nat) : Dev × Bool :=
  let sy := y.srcY + (line - y.dstY) / y.sy
  let bps := fmtBytes y.fmt
  let row := fun base stride r x n => (base + r * stride + x, n)
  let crow := fun r => if 8 ≤ y.fmt then
      [row y.baseC y.strideC r (y.srcX * bps) (y.srcW * bps), row y.baseV y.strideC r (y.srcX * bps) (y.srcW * bps)]
    else [row y.baseC y.strideC r (y.srcX / 2 * 2 * bps) (y.srcW / 2 * 2 * bps)]
  let crows := if y.fmt < 4 then [] else if y.is420 then
      let lo := y.srcY / 2
      let hi := (y.srcY + y.srcH) / 2 - 1
      [max lo (sy / 2 - 1), sy / 2, min hi (sy / 2 + 1)].flatMap crow
    else crow sy
  (row y.base y.stride sy (y.srcX * bps) (y.srcW * bps) :: crows).foldl (fun (d, bad) (a, n) =>
    let (d, st, _) := d.dramRead 0 a n
    (d, bad || st != .ok)) (d, false)

/-- Layers 1 to 7 that may show at the ladder level: all at levels 0 and 1, layer 7 alone at 2 and 3, none over the
fallow frame shown alone (R341, R355, R359, R472). -/
def Dev.shownLayers (d : Dev) : List Nat :=
  if d.inFallow || d.scan.fallowAlone then []
  else if d.level < 2 then [1, 2, 3, 4, 5, 6, 7]
  else if d.level < 4 then [7] else []

/-- A composited pixel and whether it comes from a stored picture (R472). -/
structure Composed where
  px : Px
  stored : Bool
  deriving DecidableEq, Repr

/-- Layer 0's samples of a line: the receiver stream in pass-through mode, else the ring (R15, R17).  DESIGN CHOICE (log
entry 75): between the latch point that selects pass-through mode and the lock to the source it shows the SCAN buffer of
the ring, where R474 gives the raster's timing alone. -/
def Dev.layer0Line (d : Dev) (line : Nat) (live : Option (List Px)) : List (Option (Option Px)) :=
  let fromRing := d.buffered || d.level != 0 || d.rx.relock != 0 || d.on F.RX_PORT_STATUS_PR_ACTIVE d.activePort ||
    (match d.scan.stopLine with | some s => decide (s ≤ line) | none => false)
  if fromRing then d.segLine .rd line
  else
    match live with
    | some px => (fitSegment d.hActive px).map fun p => some (some p)
    | none => List.replicate d.hActive (some none)

/-- Compose an active line; layers whose data is missing or in error are switched off (R67, R76, R77, R90, R91). -/
def Dev.composeLine (d : Dev) (line : Nat) (live : Option (List Px)) : Dev × List Composed :=
  let bg := d.bgColor
  let shown := d.shownLayers.filter fun l => (d.layer l).en && (d.layer l).coversLine line
  -- fetches of layers 1 to 7
  let d := d.each shown fun d l =>
    if d.layerOff l line 0 then d
    else
      let (d, bad) := d.fetchLayer (d.layer l) line
      if bad then d.underrun l line 0 true else d
  -- layer 0
  let l0 := d.layer 0
  let use0 := l0.en && decide (d.level < 2) && !d.inFallow && !d.scan.fallowAlone && effAlpha 4095 l0.galpha != 0
  let px0 := d.layer0Line line live
  let d := if !use0 then d
    else if d.scan.badLine.contains (0, line) then d.underrun 0 line 0 true
    else
      match px0.findIdx? (·.isNone) with
      | some x => d.underrun 0 line x false
      | none => d
  let pic := d.storedPicture
  let fd0 := if pic.isSome then d.segLine .fd0 line else []
  let cfgs := shown.map fun l => (l, d.layer l)
  let onTop := d.level ≥ 2 || d.inFallow || d.scan.fallowAlone
  let px := (List.range d.hActive).map fun x =>
    let k : Comp := ⟨bg, false⟩
    let k := if use0 && !d.layerOff 0 line x then
        match (px0[x]?).getD none with
        | some (some p) => k.over p 4095 l0.galpha false
        | _ => k
      else k
    let k := cfgs.foldl (fun k (l, y) =>
      if y.covers x line && !d.layerOff l line x then
        let (c, a) := y.pixel d.dram.mem (d.palette l) x line
        k.over c a y.galpha y.premult
      else k) k
    if k.covered then (⟨k.px, false⟩ : Composed)
    else if pic.isSome then
      match (fd0[x]?).getD none with
      | some (some p) => ⟨p, true⟩
      | _ => ⟨bg, true⟩
    else ⟨bg, onTop⟩
  (d, px)

/-! ### Correction and drive of a line -/

/-- Stages 1 to 6 of the correction pipeline on a composed line (R94); CORR is bypassed in FALLOW (R355). -/
def Dev.correctLine (d : Dev) (line : Nat) (px : List Composed) : Dev × List Px :=
  if d.inFallow then (d, px.map (·.px))
  else
    let d := d.statLine line (px.map (·.px))
    let dd := [d.segLine .dd0 line, d.segLine .dd1 line, d.segLine .dd2 line]
    let off := fun x a => match (((dd.getD a [])[x]?).getD none) with | some (some p) => p | _ => (⟨0, 0, 0⟩ : Px)
    let res := px.zipIdx.map fun (c, x) => if c.stored then (c.px, false) else d.correctPx x line (off x) c.px
    let clips := (res.filter (·.2)).length
    let d := if clips = 0 then d else { d with scan := { d.scan with clips := d.scan.clips + clips } }.once .clip Ev.CLIP
    (d, res.map (·.1))

/-- The previous reached levels of a line under the frame's seed; none is seed TARGET for the pixel (R123, R124).  DESIGN
CHOICE (log entry 75): seed SAFE is SAFE_COLOR as sampled at the start of the overdriven frame, where R123 names the
register alone. -/
def Dev.seedLine (d : Dev) (line : Nat) : Dev × List (Option Px) :=
  let fromSegs := fun (d : Dev) (u : ReadUnit) =>
    let s := d.segLine u line
    let late := (idxs d.lineSegs fun k => (s.getD (128 * k) none).isNone).length
    ((List.range late).foldl (fun d _ => d.histErr) d, s.map fun p => p.getD none)
  match d.scan.seed with
  | 0 => fromSegs d .hd
  | 1 => fromSegs d .fd1
  | 2 => (d, List.replicate d.hActive (some d.scan.safe))
  | _ => (d, List.replicate d.hActive none)

/-- Stages 1 to 3 of the drive pipeline on a line of target codes; the reached levels and output codes are kept (R120 to
R128). -/
def Dev.driveLine (d : Dev) (line : Nat) (px : List Px) : Dev × List Px :=
  let (d, prev) := if d.scan.odFrame then d.seedLine line else (d, [])
  let od := px.zipIdx.map fun (t, x) =>
    if d.scan.odFrame then d.odPixel x line (((prev[x]?).getD none).getD t) t else (t, t, false)
  let out := od.zipIdx.map fun (o, x) => let (c, cut) := d.outputPx x line o.1; (c, cut || o.2.2)
  let cuts := (out.filter (·.2)).length
  let d := if cuts = 0 then d else (d.inc F.DRIVE_CLAMP_COUNT_COUNT 0 cuts).once .driveClamp Ev.DRIVE_CLAMP
  ({ d with scan := { d.scan with reach := if d.scan.odFrame then od.map (·.2.1) else [], out := out.map (·.1) } },
    out.map (·.1))

/-- An active line: composition, correction, drive and its packets; at level 4 the safe raster enters at stage 2 of the
drive pipeline (R114, R131).  DESIGN CHOICE (log entry 75): a frame at level 4 counts no zone statistics, where R97 speaks
of every refreshed frame and R131 of a picture that enters behind the correction pipeline. -/
def Dev.activeLine (d : Dev) (line : Nat) (live : Option (List Px)) : Dev :=
  let (d, target) := if d.level = 4 then (d, List.replicate d.hActive d.scan.safe)
    else
      let (d, px) := d.composeLine line live
      d.correctLine line px
  let d := { d with scan := { d.scan with line := line, stage6 := if d.level = 4 then [] else target } }
  let (d, out) := d.driveLine line target
  let d := d.sendLine line out
  { d with scan := { d.scan with segs := d.scan.segs.filter (fun s => decide (line < s.line)), drawn := max d.scan.drawn (line + 1) } }

/-! ### Line events (R83, R84, R92, R357) -/

/-- The line that the raster repeats under variable refresh (R84). -/
def Dev.vrrHoldLine (d : Dev) : Nat := d.vTotal - d.prefetchLines - 1

/-- Variable refresh applies: VRR_EN in pass-through mode (R84). -/
def Dev.vrrRuns (d : Dev) : Bool := d.on F.RASTER_VRR_VRR_EN && !d.buffered

/-- The fallow hold line (R357). -/
def Dev.fallowHoldLine (d : Dev) : Nat := d.vTotal - d.prefetchLines - 2

/-- The raster repeats its hold line: under variable refresh until the trigger, or in FALLOW. -/
def Dev.holds (d : Dev) (line : Nat) : Bool :=
  (d.vrrRuns && d.scan.vrrHold && line == d.vrrHoldLine) ||
    (d.inFallow && !d.pwr.holdEnd && line == d.fallowHoldLine)

/-- A raster line begins. -/
def Dev.lineStart (d : Dev) (line : Nat) (live : Option (List Px)) : Dev :=
  let repeated := d.holds line && d.get F.SCAN_POS_LINE == line
  let d := (d.put F.SCAN_POS_LINE line).flag F.SCAN_POS_HOLD (d.holds line)
  -- a zone row has ended
  let d := if 0 < line ∧ line < d.vActive ∧ line / d.zoneH ≠ d.scan.accRow ∧ ¬ d.scan.acc.isEmpty then d.statRowWrite else d
  let d := d.gateLine line repeated
  let d := if line < d.vActive then d.activeLine line live else d.sendBlank.retrainIfMoved
  let d := if line = d.vActive then ((d.put F.FSEQ_STATUS_IN_BLANK 1).latchEq).raise Ev.SOB else d
  let d := if d.on F.LINE_MATCH_MATCH_EN ∧ d.get F.LINE_MATCH_MATCH_LINE = line then
      (if d.holds line then d.once .lineMatch Ev.LINE_MATCH else d.raise Ev.LINE_MATCH)
    else d
  -- the FALLOW hold: lines run, and its end once MEMC and CORR are ready (R359)
  if d.inFallow ∧ line = d.fallowHoldLine then
    let ready := d.pwrState == 5 && d.domOn domMEMC && d.domOn domCORR
    { d with pwr := { d.pwr with holdLines := d.pwr.holdLines + 1, holdEnd := d.pwr.holdEnd || ready } }
  else d

/-! ### Meanings -/

/-- LINE_START (R92): `live` is the line received in pass-through mode. -/
def execLineStart (line : BitVec 15) (live : Option RxLine) (s : State) : Host.Outcome State Fault Refusal :=
  .next (s.upd fun d => d.lineStart line.toNat (live.bind fun l => d.liveLine l line.toNat))

/-- UNDERRUN (R90): an enabled layer's data is missing from pixel (x, line) on. -/
def execUnderrun (layer : Fin 8) (line : BitVec 13) (x : BitVec 14) (s : State) : Host.Outcome State Fault Refusal :=
  .next (s.upd fun d => if (d.layer layer).en then d.underrun layer line.toNat x.toNat false else d)

/-- BLOCK_FETCH (R171 to R174, R110, R124). -/
def execBlockFetch (unit : ReadUnit) (line : BitVec 13) (seg : Fin 128) (s : State) : Host.Outcome State Fault Refusal :=
  .next (s.upd (·.blockFetch unit line.toNat seg))

/-- BLOCK_ENCODE (R167 to R170): `rx` is the line that the port of RE receives. -/
def execBlockEncode (unit : WriteUnit) (line : BitVec 13) (seg : Fin 128) (rx : RxLine) (fault : Bool) (s : State) :
    Host.Outcome State Fault Refusal :=
  .next (s.upd fun d => d.blockEncode unit line.toNat seg
    (((d.rxLine (if unit = .re1 then 1 else 0) rx line.toNat).getD []).drop (128 * seg)) fault)

/-- The number that the next latch point gives its frame: one more, and what a frame step that waits adds (R19, R327). -/
def Dev.latchFrame (d : Dev) : Nat :=
  d.get F.FRAME_COUNT_FRAME + 1 + (match d.wall.step with | some (gain, _) => gain | none => 0)

/-- COMMIT_TARGET names the frame at whose latch point a pending commit applies (Table 1.7). -/
def Dev.retarget (d : Dev) : Dev :=
  if d.on F.FSEQ_STATUS_COMMIT_PENDING then d.put F.FSEQ_COMMIT_TARGET_TARGET d.latchFrame else d

/-- The write of COMMIT (R27, R86). -/
def Dev.commit (d : Dev) : Dev := (d.put F.FSEQ_STATUS_COMMIT_PENDING 1).retarget

/-- A member has acknowledged an Equinox set that has not ended (R335). -/
def Dev.eqxHolds (d : Dev) : Bool :=
  match d.wall.eqx with
  | some e => e.inScope && e.own.isSome
  | none => false

/-- COMMIT (R27): a write of 1 to FSEQ_COMMIT; ignored with EQX_BUSY while an acknowledged Equinox set runs (R335). -/
def execCommit (s : State) : Host.Outcome State Fault Refusal :=
  .next (s.upd fun d => d.viaDomain domCOMP (R.FSEQ_COMMIT.at 0) 1 fun d =>
    if d.eqxHolds then d.raise Ev.EQX_BUSY else d.commit)

end Sys2Proof.Machine
end

