-- ==== Sys2Proof/Machine/Input.lean ====
section
/-! DEFINITION.  The DisplayPort input (R39 to R66, R15 to R17, R475): training, port failure and recovery, HPD, AUX and
DPCD, streams and their acceptance, input frames, hot standby and Panel Replay.  DPCD addresses outside 0x400 to 0x4FF
are those of the DisplayPort standard (PRESUMED, log entry 12). -/

set_option Elab.async false

namespace Sys2Proof.Machine

/-- A change of one receiver's state. -/
def Dev.setPort (d : Dev) (p : Nat) (f : PortState → PortState) : Dev :=
  { d with rx := if p = 0 then { d.rx with a := f d.rx.a } else { d.rx with b := f d.rx.b } }

/-- Ports that PORT_MODE enables (Table 2.4). -/
def Dev.modePorts (d : Dev) : List Nat :=
  match d.portMode with
  | 0 => [0]
  | 1 => [1]
  | _ => [0, 1]

def Dev.portEnabled (d : Dev) (p : Nat) : Bool := d.modePorts.contains p

/-- Lanes in use (RX_PORT_STATUS.LANES). -/
def Dev.laneCount (d : Dev) (p : Nat) : Nat := 2 ^ min 2 (d.get F.RX_PORT_STATUS_LANES p)

/-! ### HPD (R43 to R45) -/

/-- The steady level of a port's HPD output (R43). -/
def Dev.hpdSteady (d : Dev) (p : Nat) : Bool :=
  let asleep := d.pwrState == 2 || d.pwrState == 3
  d.rx.started && d.portEnabled p && !(d.port p).rediscover &&
    (!asleep || bit (d.get F.WAKE_EN_SRC) p || bit (d.get F.WAKE_EN_SRC) (2 + p))

/-- HPD is driven: the steady level, or low during a pulse. -/
def Dev.driveHpd (d : Dev) (p : Nat) : Dev :=
  d.flag F.RX_PORT_STATUS_HPD_LEVEL (d.hpdSteady p && !(d.port p).pulse) p

/-! ### Health in hot standby (R52, R54) -/

/-- No condition of Table 2.5 holds. -/
def Dev.portHealthy (d : Dev) (p : Nat) : Bool :=
  let s := d.port p
  s.up && !s.failed && !s.noFrame && !s.msaBad && decide (s.dscRun < 2) && d.hpdSteady p

/-- A port of the mode is failed: in hot standby by a condition of Table 2.5, else by R42. -/
def Dev.portFailed (d : Dev) (p : Nat) : Bool := if d.portMode = 3 then !d.portHealthy p else (d.port p).failed

/-- Every port of the mode is failed: the next accepted stream is the reference stream (R475). -/
def Dev.dropRef (d : Dev) : Dev :=
  if d.modePorts.all d.portFailed then { d with rx := { d.rx with ref := none } } else d

/-- HEALTHY is evaluated: in hot standby a standby port that fails raises STANDBY_LOSS, a recovered port raises LINK_UP
(R54), and the last port to fail ends the reference stream (R475). -/
def Dev.showHealth (d : Dev) (p : Nat) : Dev :=
  let was := d.on F.RX_PORT_STATUS_HEALTHY p
  let now := d.portHealthy p
  let d := d.flag F.RX_PORT_STATUS_HEALTHY now p
  if d.portMode = 3 then
    let d := d.raiseIf (was && !now && p != d.activePort) Ev.STANDBY_LOSS
    let d := if was && !now then d.dropRef else d
    d.raiseIf (!was && now) Ev.LINK_UP p
  else d

/-! ### Loss of the input (R17, R51) -/

/-- From a line of this frame on the ring supplies layer 0 (R17, R57). -/
def Dev.stopAt (d : Dev) (line : Nat) : Dev :=
  let first := match d.scan.stopLine with | some l => min l line | none => line
  { d with scan := { d.scan with stopLine := some first } }

/-- The input stops within a frame in pass-through mode: the remaining lines come from the ring, INPUT_LOSS is reported
with the line number, and the ladder drops from the next frame on.  Entry into Panel Replay is not a stop, and a stop is
reported once in a frame. -/
def Dev.inputStop (d : Dev) (line : Nat) : Dev :=
  if d.buffered || d.level != 0 || d.on F.RX_PORT_STATUS_PR_ACTIVE d.activePort || d.scan.stopped then d
  else
    let d := (d.stopAt line).cause 9
    { d with scan := { d.scan with stopped := true, lossLine := line } }.raise Ev.INPUT_LOSS

/-- The line at which an input that is lost now stops: the line that runs, or line 0 of the coming frame (R17, R51). -/
def Dev.lostLine (d : Dev) : Nat := if d.scan.inFrame then d.get F.SCAN_POS_LINE else 0

/-- A half of an abandoned frame runs on without a frame. -/
def Half.abandon (h : Half) : Half := if h = .idle then .idle else .dropped

/-- The input frame of a port, and in split mode of the pair, ends without completing (R51, R57, R79). -/
def Dev.abandonFrame (d : Dev) (p : Nat) : Dev :=
  let d := d.ringDiscard (d.ringOf p)
  if d.portMode = 2 then
    (d.setPort 0 fun s => { s with half := s.half.abandon }).setPort 1 fun s => { s with half := s.half.abandon }
  else d.setPort p fun s => { s with half := .idle }

/-- A port fails (R42): lock bits clear, the source is told, no frame is accepted.  A failed port that has been trained
again fails again. -/
def Dev.portFail (d : Dev) (p : Nat) : Dev :=
  let s := d.port p
  if s.lost.isEmpty || (s.failed && !s.trainedNow) then d
  else
    let d := d.setPort p fun s =>
      { s with sym := s.sym.filter (fun l => !s.lost.contains l), cr := s.cr.filter (fun l => !s.lost.contains l),
               eq := s.eq.filter (fun l => !s.lost.contains l), aligned := false, updated := true, failed := true,
               trainedNow := false, up := false }
    let d := ((d.put F.RX_PORT_STATUS_TRAINED 0 p).irqReason p 0).raise Ev.LINK_DOWN p
    let d := (d.abandonFrame p).dropRef
    let d := if d.portMode = 2 then d.inputStop d.lostLine else d
    d.showHealth p

/-! ### Training (R41, R42) -/

/-- Training completes with all lanes locked; a failed port stays failed until its MSA (R42). -/
def Dev.checkTrained (d : Dev) (p : Nat) : Dev :=
  let s := d.port p
  let all := fun (l : List Nat) => (List.range (d.laneCount p)).all l.contains
  let done := if d.on F.RX_PORT_STATUS_CODING p then all s.eq && s.cds && s.aligned else all s.cr && all s.eq && all s.sym && s.aligned
  if done && !s.trainedNow then
    let d := d.setPort p fun s => { s with trainedNow := true, up := false, lost := [] }
    let d := { d with cal := { d.cal with eqStopped := d.cal.eqStopped.filter (· / 4 != p),
                                          eqRun := d.cal.eqRun.filter fun q => q.1 / 4 != p } }
    if s.failed then d else d.put F.RX_PORT_STATUS_TRAINED 1 p
  else d

/-- A lane reaches lock in a training phase (Table 2.3). -/
def Dev.laneLock (d : Dev) (p l : Nat) (ph : TrainPhase) : Dev :=
  let all := fun (k : List Nat) => (List.range (d.laneCount p)).all k.contains
  let d := match ph with
    | .clockRecovery => d.setPort p fun s => { s with cr := insertN l s.cr, lost := removeN l s.lost }
    | .channelEq => d.setPort p fun s =>
        let eq := insertN l s.eq
        let sym := insertN l s.sym
        { s with eq := eq, sym := sym, aligned := all eq && all sym, lost := removeN l s.lost }
    | .laneEq => d.setPort p fun s => { s with eq := insertN l s.eq, lost := removeN l s.lost }
    | .cds => d.setPort p fun s => { s with cds := all s.eq, aligned := all s.eq }
  d.checkTrained p

/-- A source begins training: the status of a previous training clears (log entry 12). -/
def Dev.trainReset (d : Dev) (p : Nat) : Dev :=
  (d.setPort p fun s => { s with cr := [], eq := [], sym := [], cds := false, aligned := false, trainedNow := false,
                                 up := false, lost := [] }).put F.RX_PORT_STATUS_TRAINED 0 p

/-! ### Streams (R48, R55, R56, R58, R475) -/

/-- Pixels a second, times 1,000. -/
def msaRate (m : Msa) : Nat := m.hTotal * m.vTotal * m.refresh

/-- Bits per pixel of an uncompressed encoding, in 1/16 (Table 2.2). -/
def msaBpp16 (m : Msa) : Nat :=
  match m.fmt with
  | .rgb | .ycc444 => 48 * m.bpc
  | .ycc422 => 32 * m.bpc
  | .ycc420 => 24 * m.bpc

/-- An encoding of Table 2.2. -/
def msaEncodingOk (m : Msa) : Bool :=
  [8, 10, 12].contains m.bpc || (m.fmt == .rgb && m.bpc == 6)

/-- Lane rate in kbit/s by RATE. -/
def laneRate (r : Nat) : Nat := nth [1620000, 2700000, 5400000, 8100000, 10000000, 13500000, 20000000] r

/-- A stream fits the payload capacity of its link (R58, Table 2.8): bits a second times 16,000 on both sides. -/
def Dev.fitsLink (d : Dev) (p : Nat) (rate bpp16 : Nat) : Bool :=
  let lanes := d.laneCount p * laneRate (d.get F.RX_PORT_STATUS_RATE p)
  if d.on F.RX_PORT_STATUS_CODING p then decide (rate * bpp16 * 132 ≤ lanes * 1000 * 16000 * 128)
  else if d.on F.RX_PORT_STATUS_FEC_ON p then decide (rate * bpp16 * 10000 ≤ lanes * 1000 * 16000 * 8 * 976)
  else decide (rate * bpp16 * 10 ≤ lanes * 1000 * 16000 * 8)

/-- Width of the stream that a port carries. -/
def Dev.portWidth (d : Dev) : Nat := if d.portMode = 2 then d.hActive / 2 else d.hActive

/-- Refresh rates agree within 0.5 % (R475). -/
def refreshNear (r ref : Nat) : Bool := decide (200 * (max r ref - min r ref) ≤ ref)

/-- The stream differs from the configured timing in active size, refresh or encoding (R475, Table 2.5). -/
def Dev.msaDiffers (d : Dev) (m : Msa) : Bool :=
  m.hActive != d.portWidth || m.vActive != d.vActive ||
    (decide (2 ≤ d.portMode) && (match d.rx.ref with
      | some r => !refreshNear m.refresh r.refresh || m.fmt != r.fmt || m.bpc != r.bpc
      | none => false))

/-- The totals differ from the configured timing, compared in split mode and in hot standby (R475). -/
def Dev.totalsDiffer (d : Dev) (m : Msa) : Bool :=
  decide (2 ≤ d.portMode) && (match d.rx.ref with
    | some r => m.hTotal != r.hTotal || m.vTotal != r.vTotal
    | none => false)

/-- The limits of R58: with DSC on the compressed bits per pixel count, which the PPS gives; in split mode the pixel rates
of both ports add up. -/
def Dev.msaTooFast (d : Dev) (p : Nat) (m : Msa) : Bool :=
  let bpp := if d.on F.RX_PORT_STATUS_DSC_ON p then (d.port p).pps.map (·.bpp16) else some (msaBpp16 m)
  let other := if d.portMode = 2 ∧ (d.port (1 - p)).up then (((d.port (1 - p)).msa.map msaRate).getD 0) else 0
  bpp.any (fun b => !d.fitsLink p (msaRate m) b) || decide (4400000000000 < msaRate m + other)

/-- The stream breaks a condition of R48 or R58. -/
def Dev.msaRefused (d : Dev) (p : Nat) (m : Msa) : Bool := d.msaDiffers m || d.totalsDiffer m || d.msaTooFast p m

/-- A PPS lies within the limits of R55 (Table 2.7) and R56 for the stream's MSA. -/
def Dev.ppsOk (d : Dev) (p : Nat) (q : Pps) : Bool :=
  let bppOk := match q.fmt with
    | .rgb | .ycc444 | .simple422 => decide (128 ≤ q.bpp16) && decide (q.bpp16 ≤ 48 * q.bpc)
    | .native422 => decide (96 ≤ q.bpp16) && decide (q.bpp16 ≤ 32 * q.bpc)
    | .native420 => decide (96 ≤ q.bpp16) && decide (q.bpp16 ≤ 24 * q.bpc)
  let width := (((d.port p).msa.map (·.hActive)).getD d.portWidth)
  let height := (((d.port p).msa.map (·.vActive)).getD d.vActive)
  let rate := (((d.port p).msa.map msaRate).getD 0)
  let slices := if q.sliceW = 0 then 0 else width / q.sliceW
  [8, 10, 12].contains q.bpc && bppOk && decide (8 ≤ q.lineBuf) && decide (q.lineBuf ≤ 13) && decide (q.rateBuf ≤ 6144) &&
    decide (0 < q.sliceW) && decide (q.sliceW ≤ 2560) && width % max 1 q.sliceW == 0 && decide (8 ≤ q.sliceH) &&
    decide (q.sliceH ≤ height) && decide (slices ≤ if d.portMode < 2 then 16 else 8) &&
    decide (rate ≤ slices * d.get F.PIPE_CLK_FREQ * 1000000) &&
    (d.on F.RX_PORT_STATUS_CODING p || d.on F.RX_PORT_STATUS_FEC_ON p)

/-- What the acceptance of a port's stream rests on has changed: MSA, PPS, link configuration or the device's timing.  A
stream that is refused now ends its frame and raises MSA_MISMATCH, or DSC_ERROR while DSC is on, unless it was refused
before (R48, R55, R56, R58).  DESIGN CHOICE (log entry 76): the spec names no moment at which it judges again. -/
def Dev.rejudge (d : Dev) (p : Nat) : Dev :=
  let s := d.port p
  let bad := s.msa.any (d.msaRefused p)
  let ok := s.up && !bad && s.msa.any msaEncodingOk
  let ppsBad := s.pps.any fun q => !d.ppsOk p q
  let d := d.setPort p fun s => { s with accepted := ok, msaBad := s.msa.any d.msaDiffers, ppsBad := ppsBad }
  let d := d.raiseIf (s.up && s.accepted && bad) Ev.MSA_MISMATCH p
  let d := d.raiseIf (!s.ppsBad && ppsBad && d.on F.RX_PORT_STATUS_DSC_ON p) Ev.DSC_ERROR p
  let d := if s.accepted && !ok then d.abandonFrame p else d
  d.showHealth p

/-- A PPS is checked (R55, R56); one outside the limits counts as a DSC_ERROR of its frame (Table 2.5). -/
def Dev.ppsReceived (d : Dev) (p : Nat) (q : Pps) : Dev :=
  let ok := d.ppsOk p q
  let d := d.setPort p fun s => { s with pps := some q, ppsBad := !ok, dscRun := if ok then s.dscRun else s.dscRun + 1 }
  (d.raiseIf (!ok) Ev.DSC_ERROR p).rejudge p

/-- An MSA is compared with the configured timing; the first one after training makes the port up (R42, R46, R48, R52,
R58).  In split mode the other port's stream is judged with it. -/
def Dev.msaReceived (d : Dev) (p : Nat) (m : Msa) : Dev :=
  let s := d.port p
  if !s.trainedNow then d
  else
    let first := !s.up
    let d := (d.setPort p fun s => { s with up := true, failed := false, msa := some m }).put F.RX_PORT_STATUS_TRAINED 1 p
    let d := d.raiseIf first Ev.LINK_UP p
    let bad := d.msaRefused p m
    let ok := !bad && msaEncodingOk m
    let d := d.setPort p fun s => { s with accepted := ok, msaBad := d.msaDiffers m }
    let d := if ok then (if d.rx.ref.isNone && d.portEnabled p then { d with rx := { d.rx with ref := some m } } else d)
      else (d.raiseIf bad Ev.MSA_MISMATCH p).abandonFrame p
    let d := d.rejudge p
    if d.portMode = 2 then d.rejudge (1 - p) else d

/-! ### Input frames (R15, R16, R49 to R51, R57, R59, R79) -/

/-- A frame of the port can be accepted. -/
def Dev.acceptsFrames (d : Dev) (p : Nat) : Bool :=
  d.portEnabled p && (d.port p).up && !(d.port p).failed && d.streamOk p

/-- The largest distance in lines between the two frame starts of a split pair (R49, R50). -/
def Dev.pairLines (d : Dev) : Nat :=
  if d.buffered then (((d.rx.ref.map (·.vTotal)).getD d.vTotal)) / 2 else 8

/-- A half that waits for its partner. -/
def Half.unpaired (h : Half) : Bool := h == .waiting || h == .alone

/-- Two frame starts of a split pair lie too far apart, or a half finds no partner: the half is discarded, and in
pass-through mode the frame counts as an input that stopped at its first line (R49, R50). -/
def Dev.splitSkew (d : Dev) (p : Nat) : Dev :=
  let d := (d.abandonFrame p).raise Ev.SPLIT_SKEW
  if d.buffered then d else d.inputStop 0

/-- A half of a split frame starts `apart` lines after the latest start of the other one.  It joins a half that waits for
it within the window; a half of the port that still waits, or one that waits beyond the window, has no partner.  A half
whose partner's frame has been abandoned belongs to that frame (R57).  A pair that has not completed when one of its
halves starts anew is incomplete (DEDUCED, log entry 77). -/
def Dev.halfStart (d : Dev) (p apart : Nat) : Dev :=
  let near := decide (apart ≤ d.pairLines)
  let d := if (d.port p).half.unpaired then d.splitSkew p
    else if (d.port p).half = .paired ∨ (d.port p).half = .complete then d.abandonFrame p else d
  let o := (d.port (1 - p)).half
  if o.unpaired && near then
    (d.setPort p fun s => { s with half := .paired }).setPort (1 - p) fun s =>
      { s with half := if s.half = .waiting then .paired else .complete }
  else if o.unpaired && !d.buffered then (d.splitSkew p).setPort p fun s => { s with half := .dropped }
  else if o == .dropped && near then d.setPort p fun s => { s with half := .dropped }
  else
    let d := if o.unpaired then d.splitSkew p else d
    (d.setPort p fun s => { s with half := .waiting }).ringTake 0

/-- An input frame starts (R79). -/
def Dev.inputFrameStart (d : Dev) (p apart : Nat) : Dev :=
  if !d.acceptsFrames p then d
  else
    let d := (d.setPort p fun s => { s with dscRun := if s.dscBad then s.dscRun else 0, dscBad := false }).showHealth p
    let d := { d with rx := { d.rx with relock := if d.rx.relock = 2 ∧ p = d.activePort then 1 else d.rx.relock } }
    if d.portMode = 2 then d.halfStart p apart else d.ringTake (d.ringOf p)

/-- A whole input frame of `ps` has completed `us` after the latest latch point: the buffer becomes LATEST. -/
def Dev.frameComplete (d : Dev) (ps : List Nat) (us : Nat) : Dev :=
  let p := ps.headD 0
  let d := d.ringComplete (d.ringOf p)
  let d := { d with rx := { d.rx with relock := if d.rx.relock = 3 ∧ (p = d.activePort ∨ d.portMode = 2) then 1 else d.rx.relock } }
  d.each ps fun d p => (d.setPort p fun s =>
    { s with noFrame := false, age := some (-(us : Int)), dscRun := 0,
             prDone := s.prDone || d.on F.RX_PORT_STATUS_PR_ACTIVE p }).showHealth p

/-- The frame of a port completes; in split mode a frame is complete when both halves of a pair are (R49). -/
def Dev.inputFrameComplete (d : Dev) (p us : Nat) : Dev :=
  if !d.acceptsFrames p || (d.port p).dscBad then d
  else if d.portMode = 2 then
    match (d.port p).half with
    | .waiting => (d.inc F.RX_PORT_STATUS_FRAMES p).setPort p fun s => { s with half := .alone }
    | .paired =>
      let d := d.inc F.RX_PORT_STATUS_FRAMES p
      if (d.port (1 - p)).half = .complete then
        ((d.setPort 0 fun s => { s with half := .idle }).setPort 1 fun s => { s with half := .idle }).frameComplete [0, 1] us
      else d.setPort p fun s => { s with half := .complete }
    | _ => d
  else if d.on F.RING_STATUS_WRITING (d.ringOf p) then (d.inc F.RX_PORT_STATUS_FRAMES p).frameComplete [p] us
  else d

/-- A full-frame update of Panel Replay that does not complete is a Panel Replay error: its status is a reason for an
IRQ_HPD (R44; DESIGN CHOICE, log entry 78: the spec names no cause of the status). -/
def Dev.replayError (d : Dev) (p : Nat) : Dev :=
  if d.on F.RX_PORT_STATUS_PR_ACTIVE p then (d.setPort p fun s => { s with prErr := s.prErr ||| 2 }).irqReason p 0 else d

/-- A DSC error marks the input frame incomplete (R57); from the second frame in a row a hot-standby port is failed. -/
def Dev.dscError (d : Dev) (p line : Nat) : Dev :=
  let d := d.raise Ev.DSC_ERROR p
  let d := d.setPort p fun s => { s with dscRun := if s.dscBad then s.dscRun else s.dscRun + 1, dscBad := true }
  let d := (d.abandonFrame p).replayError p
  let d := if !d.buffered && (d.portMode == 2 || p == d.activePort) then d.stopAt line else d
  d.showHealth p

/-! ### DPCD and EDID (R39, R41, R44, R63) -/

/-- Four bits of lane status: CR_DONE, CHANNEL_EQ_DONE, SYMBOL_LOCKED. -/
def PortState.laneBits (s : PortState) (l : Nat) : Nat :=
  (s.cr.contains l).toNat + 2 * (s.eq.contains l).toNat + 4 * (s.sym.contains l).toNat

/-- The DPCD capability fields of Table 2.1's features, as (address, bits that the field holds, its value): no more than
these is advertised (R39).  The addresses and codes are the DisplayPort standard's (PRESUMED, log entry 12). -/
def dpcdCaps : List (Nat × Nat × Nat) := [
  (0x001, 0xFF, 0x1E), (0x002, 0xDF, 0xC4), (0x003, 0x80, 0x80), (0x005, 0x01, 0x00), (0x006, 0x03, 0x03), (0x007, 0x40, 0x40),
  (0x021, 0x01, 0x00), (0x02E, 0x05, 0x05), (0x060, 0x01, 0x01), (0x061, 0xFF, 0x21), (0x062, 0x03, 0x00), (0x063, 0xFF, 0x05),
  (0x065, 0x0F, 0x04), (0x066, 0x01, 0x01), (0x069, 0x1F, 0x1F), (0x06A, 0x0E, 0x0E), (0x06C, 0xFF, 0x08), (0x070, 0xFF, 0x00),
  (0x090, 0x01, 0x01), (0x0B0, 0x03, 0x01), (0x701, 0x01, 0x00), (0x2215, 0x07, 0x07), (0x68028, 0x01, 0x00),
  (0x6921D, 0xFF, 0x00), (0x6921E, 0xFF, 0x00), (0x6921F, 0xFF, 0x00)]

/-- A DPCD byte that the source only reads: the advertised fields, and what the standard fixes beside them. -/
def dpcdCap (a : Nat) : Nat :=
  let b := (Config.dpcdByte a).toNat
  match assoc a dpcdCaps with
  | some (m, v) => (b &&& (0xFF - m)) ||| v
  | none => b

/-- Fields that enable features outside Table 2.1 and outside 0x100 to 0x1FF: eDP backlight control, HDCP; they read 0
(R39). -/
def dpcdOffField (a : Nat) : Bool :=
  (decide (0x720 ≤ a) && decide (a < 0x740)) || (decide (0x68000 ≤ a) && decide (a < 0x6A000) && (assoc a dpcdCaps).isNone)

/-- A DPCD byte outside the sink-specific range. -/
def Dev.dpcdStd (d : Dev) (p a : Nat) : Byte :=
  let s := d.port p
  let n := if a = 0x201 then s.irqVec
    else if a = 0x202 then s.laneBits 0 + 16 * s.laneBits 1
    else if a = 0x203 then s.laneBits 2 + 16 * s.laneBits 3
    else if a = 0x204 then s.aligned.toNat + (if d.on F.RX_PORT_STATUS_CODING p then 4 * s.aligned.toNat + 8 * s.cds.toNat else 0)
      + 128 * s.updated.toNat
    else if a = 0x206 ∨ a = 0x207 then ((s.adjust[a - 0x206]?).getD 0).toNat
    else if a = 0x2020 then s.prErr
    else if 0x100 ≤ a ∧ a < 0x200 ∨ a = 0x600 then (Memory.get s.dpcd a).toNat
    else if dpcdOffField a then 0
    else dpcdCap a
  BitVec.ofNat 8 n

/-- A DPCD byte as a native AUX read gives it. -/
def Dev.dpcdByte (d : Dev) (p a : Nat) : Byte := if 0x400 ≤ a ∧ a < 0x500 then d.mbByte p (a - 0x400) else d.dpcdStd p a

/-- RATE of a link-rate code under a coding (Table 2.12); none for a rate that is not advertised. -/
def rateOf (coding : Bool) (b : Byte) : Option Nat :=
  if coding then (if b = 1 then some 4 else if b = 4 then some 5 else if b = 2 then some 6 else none)
  else if b = 0x06 then some 0 else if b = 0x0A then some 1 else if b = 0x14 then some 2 else if b = 0x1E then some 3 else none

/-- The bits of a link or power configuration byte that belong to advertised features; the others stay 0 (R39). -/
def dpcdEnables (a : Nat) : Nat :=
  if a = 0x101 then 0x9F
  else if 0x102 ≤ a ∧ a ≤ 0x106 ∨ a = 0x108 ∨ a = 0x600 then 0xFF
  else if a = 0x107 then 0x90
  else if a = 0x116 then 0x07
  else if a = 0x120 ∨ a = 0x160 then 0x01
  else if a = 0x1B0 then 0xBF
  else 0

/-- A write of an enabling field keeps the bits the port has (R39). -/
def Dev.dpcdKeep (d : Dev) (p a : Nat) (b : Byte) : Dev :=
  d.setPort p fun s => { s with dpcd := Memory.set s.dpcd a (b &&& BitVec.ofNat 8 (dpcdEnables a)) }

/-- A native AUX write of one byte: link configuration, interrupt vector, SET_POWER, mailbox; a field of a feature that is
not advertised is acknowledged and stays 0 (R39). -/
def Dev.dpcdWrite (d : Dev) (p a : Nat) (b : Byte) : Dev :=
  if 0x400 ≤ a ∧ a < 0x500 then d.mbHostWrite p (a - 0x400) b
  else if a = 0x100 then
    match rateOf (d.on F.RX_PORT_STATUS_CODING p) b with
    | some k => ((d.setPort p fun s => { s with dpcd := Memory.set s.dpcd 0x100 b }).put F.RX_PORT_STATUS_RATE k p).rejudge p
    | none => d.dpcdKeep p a 0
  else if a = 0x101 then
    let n := b.toNat % 32
    if n = 1 ∨ n = 2 ∨ n = 4 then
      ((d.dpcdKeep p a b).put F.RX_PORT_STATUS_LANES (if n = 4 then 2 else if n = 2 then 1 else 0) p).rejudge p
    else d.dpcdKeep p a (b &&& 0x80)
  else if a = 0x102 then (if b.toNat % 16 = 1 then (d.dpcdKeep p a b).trainReset p else d.dpcdKeep p a b)
  else if a = 0x108 then
    if b = 1 ∨ b = 2 then
      let d := (d.dpcdKeep p a b).flag F.RX_PORT_STATUS_CODING (b == 2) p
      (match rateOf (b == 2) (Memory.get (d.port p).dpcd 0x100) with
        | some k => d.put F.RX_PORT_STATUS_RATE k p
        | none => d).rejudge p
    else d.dpcdKeep p a 0
  else if a = 0x120 then ((d.dpcdKeep p a b).flag F.RX_PORT_STATUS_FEC_ON (bit b.toNat 0 && !d.on F.RX_PORT_STATUS_CODING p) p).rejudge p
  else if a = 0x160 then ((d.dpcdKeep p a b).flag F.RX_PORT_STATUS_DSC_ON (bit b.toNat 0) p).rejudge p
  else if a = 0x201 then d.setPort p fun s => { s with irqVec := s.irqVec &&& (0xFF - b.toNat) }
  else if a = 0x2020 then d.setPort p fun s => { s with prErr := s.prErr &&& (0xFF - b.toNat) }
  else if dpcdEnables a = 0 then d
  else d.dpcdKeep p a b

/-- The source has asked for the power state D3 (R60). -/
def PortState.d3 (s : PortState) : Bool := (Memory.get s.dpcd 0x600).toNat % 8 == 2 || (Memory.get s.dpcd 0x600).toNat % 8 == 5

/-- An AUX transaction of a ready port. -/
def Dev.auxServe (d : Dev) (p : Nat) (r : AuxReq) : Dev :=
  match r with
  | .read a n =>
    let d' := d.setPort p fun s => { s with reply := .data ((List.range n.val).map fun i => d.dpcdByte p (a.toNat + i)) }
    if a.toNat ≤ 0x204 ∧ 0x204 < a.toNat + n.val then d'.setPort p fun s => { s with updated := false } else d'
  | .write a bs =>
    let d := (bs.zipIdx.foldl (fun d (b, i) => d.dpcdWrite p (a.toNat + i) b) d)
    d.setPort p fun s => { s with reply := .ack }
  | .i2cWrite a bs =>
    if a = 0x50 then d.setPort p fun s => { s with edidPtr := ((bs[0]?).map (·.toNat)).getD s.edidPtr, reply := .ack }
    else if a = 0x30 then d.setPort p fun s => { s with edidSeg := ((bs[0]?).map (·.toNat)).getD s.edidSeg, reply := .ack }
    else d.setPort p fun s => { s with reply := .nack }
  | .i2cRead a n =>
    if a = 0x50 then
      d.setPort p fun s =>
        { s with reply := .data ((List.range n.val).map fun i => (d.rx.edid[256 * s.edidSeg + s.edidPtr + i]?).getD 0),
                 edidPtr := (s.edidPtr + n.val) % 256 }
    else d.setPort p fun s => { s with reply := .nack }

/-- An AUX transaction: the source is present; a port whose domain is off answers AUX_DEFER, and wakes when it is enabled
and AUX_WAKE_EN is 1 (R46, R61). -/
def Dev.aux (d : Dev) (p : Nat) (r : AuxReq) : Dev :=
  let d := d.put F.RX_PORT_STATUS_SOURCE_PRESENT 1 p
  if d.domOn (domRXA + p) then d.auxServe p r
  else
    let d := if d.portEnabled p && d.on F.RX_MODE_AUX_WAKE_EN then d.startWake (domRXA + p) else d
    d.setPort p fun s => { s with reply := .defer }

/-! ### Panel Replay, ALPM and wake (R59 to R62) -/

/-- Panel Replay is activated. -/
def Dev.prEntry (d : Dev) (p : Nat) : Dev :=
  if !(d.port p).up || d.on F.RX_PORT_STATUS_PR_ACTIVE p then d
  else ((d.put F.RX_PORT_STATUS_PR_ACTIVE 1 p).setPort p fun s => { s with prDone := false }).raise Ev.PR_ENTRY p

/-- The replay ends at a latch point after a full-frame update: an input frame counts as completed then (R59). -/
def Dev.prExit (d : Dev) (p : Nat) : Dev :=
  if d.on F.RX_PORT_STATUS_PR_ACTIVE p && (d.port p).prDone then
    (d.put F.RX_PORT_STATUS_PR_ACTIVE 0 p).setPort p fun s => { s with prDone := false, age := some 0 }
  else d

/-- One more frame of replay with the link asleep, or none (R60).  DESIGN CHOICE (log entry 75): in split mode port A alone
counts. -/
def Dev.countReplay (d : Dev) : Dev :=
  let p := d.activePort
  let asleep := d.on F.RX_PORT_STATUS_PR_ACTIVE p && (d.on F.RX_PORT_STATUS_ALPM_SLEEP p || (d.port p).d3)
  { d with rx := { d.rx with replayFrames := if asleep then d.rx.replayFrames + 1 else 0 } }

/-- FALLOW is due to be requested (R60). -/
def Dev.fallowDue (d : Dev) : Bool :=
  decide (0 < d.get F.RX_MODE_FALLOW_DELAY) && decide (d.get F.RX_MODE_FALLOW_DELAY ≤ d.rx.replayFrames)

/-- The detector of an enabled port latches the AUX-less wake signal; the link leaves ALPM sleep (R61, R62). -/
def Dev.alpmWake (d : Dev) (p : Nat) : Dev :=
  if !d.portEnabled p then d
  else ((d.put F.RX_PORT_STATUS_ALPM_SLEEP 0 p).raise Ev.ALPM_WAKE p).latchWake (1 + p) 0

/-- AUX activity is latched when AUX_WAKE_EN is 1 (R61). -/
def Dev.auxWake (d : Dev) (p : Nat) : Dev :=
  let d := d.put F.RX_PORT_STATUS_SOURCE_PRESENT 1 p
  if d.portEnabled p && d.on F.RX_MODE_AUX_WAKE_EN then d.latchWake (3 + p) 0 else d

/-! ### Hot standby (R53, R54) -/

/-- ACTIVE shows the port that feeds layer 0 (Table 2.12); in hot standby `p` is the active port. -/
def Dev.showActive (d : Dev) (p : Nat) : Dev :=
  let act := fun (k : Nat) => match d.portMode with
    | 0 => k == 0
    | 1 => k == 1
    | 2 => true
    | _ => k == p
  (d.flag F.RX_PORT_STATUS_ACTIVE (act 0) 0).flag F.RX_PORT_STATUS_ACTIVE (act 1) 1

/-- A port's ring holds a complete frame that ended within the last 2 frame periods, `us` after the latest latch
point (R53). -/
def Dev.freshFrame (d : Dev) (p us : Nat) : Bool :=
  (d.on F.RING_STATUS_LATEST_VALID p || d.on F.RING_STATUS_SCAN_VALID p) &&
    (match (d.port p).age, d.rx.ref with
      | some a, some r => decide ((a + us) * r.refresh ≤ 2000000000)
      | _, _ => false)

/-- A port becomes active with the age of the input it takes over, if it has sent no frame yet: the refresh floor runs on
(Table 1.11). -/
def Dev.inheritAge (d : Dev) (old new : Nat) : Dev :=
  let a := (d.port old).age
  d.setPort new fun s => { s with age := match s.age with | some x => some x | none => some (a.getD 0) }

/-- Takeover at a prefetch start: the active port is failed, the standby port healthy with a fresh frame.  At level 0
scan-out changes to its ring; at another level it keeps the buffer it shows until firmware moves up (R53, R54). -/
def Dev.takeover (d : Dev) (us : Nat) : Dev :=
  let p := d.activePort
  if d.portMode == 3 && d.on F.RX_MODE_AUTO_TAKEOVER && !d.on F.RX_PORT_STATUS_HEALTHY p &&
      d.on F.RX_PORT_STATUS_HEALTHY (1 - p) && d.freshFrame (1 - p) us then
    let held := d.scanRing
    let d := ((d.showActive (1 - p)).put F.RX_MODE_PREFER_PORT (1 - p)).raise Ev.TAKEOVER
    if d.level = 0 then d else { d with scan := { d.scan with ringHeld := some held } }
  else d

/-- HPD goes low for 10 ms to make the source rediscover the port (R45). -/
def Dev.rediscover (d : Dev) (p : Nat) : Dev :=
  ((d.setPort p fun s => { s with rediscover := true, pulse := false }).driveHpd p).showHealth p

/-! ### Meanings -/

/-- LANE_LOCK (R41). -/
def execLaneLock (port : Fin 2) (lane : Fin 4) (phase : TrainPhase) (s : State) : Host.Outcome State Fault Refusal :=
  .next (s.upd (·.laneLock port lane phase))

/-- TRAIN_BOUND_EXPIRE (R41): the status bits stay 0 and the best drive settings are reported. -/
def execTrainBoundExpire (port : Fin 2) (_phase : TrainPhase) (best : List Byte) (s : State) :
    Host.Outcome State Fault Refusal := .next (s.upd fun d => d.setPort port fun t => { t with adjust := best })

/-- LANE_LOCK_LOST (R42). -/
def execLaneLockLost (port : Fin 2) (lane : Fin 4) (s : State) : Host.Outcome State Fault Refusal :=
  .next (s.upd fun d => if (d.port port).trainedNow then
    d.setPort port fun t => { t with lost := insertN lane t.lost, errors := t.errors + 1 } else d)

/-- LANE_LOCK_REGAINED within 2 µs (R42). -/
def execLaneLockRegained (port : Fin 2) (lane : Fin 4) (s : State) : Host.Outcome State Fault Refusal :=
  .next (s.upd fun d => if (d.port port).failed && !(d.port port).trainedNow then d
    else d.setPort port fun t => { t with lost := removeN lane t.lost })

/-- PORT_FAIL (R42): a trained lane has been without symbol lock for 2 µs. -/
def execPortFail (port : Fin 2) (s : State) : Host.Outcome State Fault Refusal := .next (s.upd (·.portFail port))

/-- MSA_RECEIVED (R46, R48, R58, R475). -/
def execMsaReceived (port : Fin 2) (msa : Msa) (s : State) : Host.Outcome State Fault Refusal :=
  .next (s.upd (·.msaReceived port msa))

/-- IRQ_HPD (R44): the pulse starts. -/
def execIrqHpd (port : Fin 2) (s : State) : Host.Outcome State Fault Refusal :=
  .next (s.upd fun d => if (d.port port).irqWait && d.on F.RX_PORT_STATUS_HPD_LEVEL port then
    (d.setPort port fun t => { t with irqWait := false, pulse := true }).driveHpd port else d)

/-- IRQ_HPD_END (R44). -/
def execIrqHpdEnd (port : Fin 2) (s : State) : Host.Outcome State Fault Refusal :=
  .next (s.upd fun d => (d.setPort port fun t => { t with pulse := false }).driveHpd port)

/-- HPD_REDISCOVER (R45). -/
def execHpdRediscover (port : Fin 2) (s : State) : Host.Outcome State Fault Refusal := .next (s.upd (·.rediscover port))

/-- HPD_REDISCOVER_END (R45, R43). -/
def execHpdRediscoverEnd (port : Fin 2) (s : State) : Host.Outcome State Fault Refusal :=
  .next (s.upd fun d => ((d.setPort port fun t => { t with rediscover := false }).driveHpd port).showHealth port)

/-- SOURCE_ABSENT (R46). -/
def execSourceAbsent (port : Fin 2) (s : State) : Host.Outcome State Fault Refusal :=
  .next (s.upd (·.put F.RX_PORT_STATUS_SOURCE_PRESENT 0 port))

/-- SIGNAL_DETECT (R46). -/
def execSignalDetect (port : Fin 2) (s : State) : Host.Outcome State Fault Refusal :=
  .next (s.upd (·.put F.RX_PORT_STATUS_SOURCE_PRESENT 1 port))

/-- AUX_TRANSACTION (R39, R46, R61, R63, R64). -/
def execAuxTransaction (port : Fin 2) (req : AuxReq) (s : State) : Host.Outcome State Fault Refusal :=
  .next (s.upd (·.aux port req))

/-- INPUT_FRAME_START (R79): in split mode `apart` is the number of lines since the other port's frame start. -/
def execInputFrameStart (port : Fin 2) (apart : Nat) (s : State) : Host.Outcome State Fault Refusal :=
  .next (s.upd (·.inputFrameStart port apart))

/-- INPUT_FRAME_COMPLETE (R79), `us` after the latest latch point. -/
def execInputFrameComplete (port : Fin 2) (us : Nat) (s : State) : Host.Outcome State Fault Refusal :=
  .next (s.upd (·.inputFrameComplete port us))

/-- INPUT_FRAME_INCOMPLETE (R79). -/
def execInputFrameIncomplete (port : Fin 2) (s : State) : Host.Outcome State Fault Refusal :=
  .next (s.upd fun d => (d.abandonFrame port).replayError port)

/-- STANDBY_FRAME_TIMEOUT (R52). -/
def execStandbyFrameTimeout (port : Fin 2) (s : State) : Host.Outcome State Fault Refusal :=
  .next (s.upd fun d => if d.portMode = 3 then (d.setPort port fun t => { t with noFrame := true }).showHealth port else d)

/-- PPS_RECEIVED (R55, R56). -/
def execPpsReceived (port : Fin 2) (pps : Pps) (s : State) : Host.Outcome State Fault Refusal :=
  .next (s.upd (·.ppsReceived port pps))

/-- DSC_ERROR (R57): `line` is the first line that the error affects. -/
def execDscError (port : Fin 2) (line : BitVec 13) (s : State) : Host.Outcome State Fault Refusal :=
  .next (s.upd (·.dscError port line.toNat))

/-- PR_ENTRY (R59). -/
def execPrEntry (port : Fin 2) (s : State) : Host.Outcome State Fault Refusal := .next (s.upd (·.prEntry port))

/-- ALPM_WAKE (R61). -/
def execAlpmWake (port : Fin 2) (s : State) : Host.Outcome State Fault Refusal := .next (s.upd (·.alpmWake port))

/-- AUX_WAKE (R61). -/
def execAuxWake (port : Fin 2) (s : State) : Host.Outcome State Fault Refusal := .next (s.upd (·.auxWake port))

/-- ALPM_SLEEP_ENTRY (R60). -/
def execAlpmSleepEntry (port : Fin 2) (s : State) : Host.Outcome State Fault Refusal :=
  .next (s.upd (·.put F.RX_PORT_STATUS_ALPM_SLEEP 1 port))

/-- RESUME_LOCK_TIMEOUT (R62): the device proceeds as in R42. -/
def execResumeLockTimeout (port : Fin 2) (lane : Fin 4) (s : State) : Host.Outcome State Fault Refusal :=
  .next (s.upd fun d => (d.setPort port fun t => { t with lost := insertN lane t.lost }).portFail port)

/-- INPUT_STOP (R17): the line that is due and has not begun within 2 line periods. -/
def execInputStop (line : BitVec 13) (s : State) : Host.Outcome State Fault Refusal := .next (s.upd (·.inputStop line.toNat))

/-- VRR_TRIGGER (R84): the source's vertical front porch ends and the raster leaves its hold line. -/
def execVrrTrigger (s : State) : Host.Outcome State Fault Refusal :=
  .next (s.upd fun d => { d with scan := { d.scan with vrrHold := false } })

/-- VRR_TIMEOUT (R84): no trigger came; the frame is taken from the last complete frame, as a repeat at level 0. -/
def execVrrTimeout (s : State) : Host.Outcome State Fault Refusal :=
  .next (s.upd fun d => if d.scan.vrrHold then { d with scan := { d.scan with vrrHold := false, stopLine := some 0 } } else d)

end Sys2Proof.Machine
end

