-- ==== Sys2Proof/Machine/Wall.lean ====
section
/-! DEFINITION.  The wall (R314 to R342): ports and links, the tree and its timebase, joining, the Almanac's loss, and
Equinox commits.  Times are in ticks of 1/16 ns. -/

set_option Elab.async false

namespace Sys2Proof.Machine

/-! ### Ports -/

def Dev.wp (d : Dev) (p : Nat) : WPort := (assoc p d.wall.ports).getD {}
def Dev.setWp (d : Dev) (p : Nat) (f : WPort → WPort) : Dev :=
  { d with wall := { d.wall with ports := assocSet p (f (d.wp p)) d.wall.ports } }
def Dev.updWall (d : Dev) (f : WallState → WallState) : Dev := { d with wall := f d.wall }

def wallPorts : List Nat := [0, 1, 2, 3]

/-! ### Symbols on a wall link (R316 to R320) -/

/-- Control symbols of Table 13.1. -/
def wallTS : Sym := .ctl 0x1C
def wallSYN : Sym := .ctl 0x3C
def wallSOC : Sym := .ctl 0xFB
def wallSON : Sym := .ctl 0xDC
def wallLAK : Sym := .ctl 0x9C
def wallEOP : Sym := .ctl 0xFD

/-- Symbols go out on a port; the running disparity goes on (idle fill as in log entry 80). -/
def WPort.emit (l : List Sym) (w : WPort) : WPort := { w with sent := l, plus := disparityAfter w.plus w.sent }

/-- Body of a packet with its CRC-32, little-endian, between start symbol and EOP (R319). -/
def wallFramed (start : Sym) (body : List Byte) : List Sym :=
  start :: (body ++ leBytes 4 (crc32 body)).map .data ++ [wallEOP]

/-- A CMD packet of LEN bytes: LEN + 14 symbols (R319). -/
def cmdSyms (lseq : Nat) (c : WCmd) : List Sym :=
  wallFramed wallSOC ([byteOf c.type, byteOf lseq] ++ leBytes 2 c.dst ++ leBytes 2 c.src ++ leBytes 2 c.data.length ++ c.data)

/-- A NOTICE packet (R319). -/
def noticeSyms (id off total : Nat) (bs : List Byte) : List Sym :=
  wallFramed wallSON (leBytes 2 id ++ leBytes 4 off ++ leBytes 2 bs.length ++ leBytes 4 total ++ bs)

/-- LAK, the LSEQ and its CRC-8 (R320). -/
def lakSyms (lseq : Nat) : List Sym := [wallLAK, .data (byteOf lseq), .data (byteOf (crc8 [byteOf lseq]))]

/-- A SYNC packet of 20 bytes goes out with its CRC-16, high byte first, and no end symbol (R318). -/
def WPort.emitSync (bs : List Byte) (w : WPort) : WPort :=
  let bs := bs ++ beBytes 2 (crc16 bs)
  { w.emit (wallSYN :: bs.map .data) with sync := bs }

/-- The port is on: the device is in a wall and PORT_EN is set (R314). -/
def Dev.wallPortOn (d : Dev) (p : Nat) : Bool := d.inWall && bit (d.get F.WALL_CTRL_PORT_EN) p

/-- STATE of the wall block (Table 13.7). -/
def Dev.wallState (d : Dev) : Nat := d.get F.WALL_STATUS_STATE
def Dev.setWallState (d : Dev) (k : Nat) : Dev := d.put F.WALL_STATUS_STATE k

/-- STATE of a port (Table 13.8). -/
def Dev.wallPortState (d : Dev) (p : Nat) : Nat :=
  let w := d.wp p
  if !w.up then (if w.signal && d.wallPortOn p then 1 else 0)
  else if w.fenced then 5 else if d.wall.upstream == some p then 2 else if w.child then 3 else 4

/-- The port and tree registers follow the state. -/
def Dev.showWall (d : Dev) : Dev :=
  let d := d.each wallPorts fun d p =>
    (d.put F.WALL_PORT_STATUS_STATE (d.wallPortState p) p).put F.WALL_PORT_STATUS_NB_HOPS
      (match (d.wp p).beacon with | some b => b.2.2 | none => 0xF) p
  (d.put F.WALL_STATUS_UPSTREAM (d.wall.upstream.getD 0)).put F.WALL_MEMBERS_COUNT d.wall.members.length

/-- Downstream ports (R322). -/
def Dev.wallDown (d : Dev) : List Nat := wallPorts.filter fun p => d.wallPortState p == 3

/-- The device's own wall address: of the Almanac without an assigned one, 0; none else. -/
def Dev.ownAddr (d : Dev) : Option Nat :=
  if d.on F.WALL_ADDR_VALID then some (d.get F.WALL_ADDR_ADDR)
  else if d.on F.WALL_CTRL_ROLE then some 0 else none

/-- The 64-bit device identifier (R315). -/
def Dev.uid (d : Dev) : Nat := d.get F.DEVICE_UID_LO_UID + d.get F.DEVICE_UID_HI_UID * 2 ^ 32

/-- The device takes its role at start (R314, R402): a manager is the Almanac of epoch 0, a worker searches. -/
def Dev.wallStart (d : Dev) : Dev :=
  if !d.inWall then d
  else if d.on F.WALL_CTRL_ROLE then
    (((d.setWallState 5).put F.WALL_STATUS_HOPS 0).put F.WALL_STATUS_EPOCH 0).updWall fun w => { w with root := some 0 }
  else d.setWallState 1

/-! ### CMD packets (R319 to R321, R325) -/

/-- PREPARE, ACK, GO and ABORT go ahead of other types (R321). -/
def WCmd.first (c : WCmd) : Bool := decide (0x10 ≤ c.type) && decide (c.type ≤ 0x13)

/-- A packet joins those that wait. -/
def joinBacklog (l : List WCmd) (c : WCmd) : List WCmd :=
  if c.first then l.takeWhile (·.first) ++ c :: l.dropWhile (·.first) else l ++ [c]

/-- Packets leave while fewer than 8 lack their LAK (R320). -/
def WPort.pump : Nat → WPort → WPort
  | 0, w => w
  | n + 1, w =>
    match w.backlog with
    | c :: rest =>
      if w.unacked.length < 8 then
        WPort.pump n ({ w with unacked := w.unacked ++ [(w.lseq, c)], lseq := (w.lseq + 1) % 256, backlog := rest }.emit
          (cmdSyms w.lseq c))
      else w
    | [] => w

/-- A CMD packet is sent on a port that is up and not fenced. -/
def Dev.wallSend (d : Dev) (p : Nat) (c : WCmd) : Dev :=
  if (d.wp p).up && !(d.wp p).fenced then d.setWp p fun w => WPort.pump 8 { w with backlog := joinBacklog w.backlog c } else d

/-- SRC of the device's own packets. -/
def Dev.wallSrc (d : Dev) : Nat := d.ownAddr.getD 0xFFFF

def Dev.wallDownAll (d : Dev) (c : WCmd) : Dev := d.each d.wallDown fun d p => d.wallSend p c
def Dev.wallUp (d : Dev) (c : WCmd) : Dev := match d.wall.upstream with | some p => d.wallSend p c | none => d

/-- An orphan forwards nothing (R323). -/
def Dev.wallForwards (d : Dev) : Bool := d.wallState != 6

/-- Where a packet that has arrived on port `p` goes: delivered here, and the ports it is forwarded on; none for no
route (R325). -/
def Dev.wallRoute (d : Dev) (p dst : Nat) : Option (Bool × List Nat) :=
  let up := d.wall.upstream.toList.filter (· != p)
  if dst = 0xFFFF then some (true, d.wallDown.filter (· != p))
  else if dst = 0xFFFE then (if d.isAlmanac then some (true, []) else if up.isEmpty then none else some (false, up))
  else if dst = 0xFFFD then some (true, [])
  else if d.ownAddr == some dst then some (true, [])
  else match d.wallDown.find? fun q => q != p && (d.wp q).learned.contains dst with
    | some q => some (false, [q])
    | none => if up.isEmpty then none else some (false, up)

/-- The SRC of a packet that came from below is learned on its port. -/
def Dev.wallLearn (d : Dev) (p src : Nat) : Dev :=
  if src < 0x400 ∧ d.wall.upstream ≠ some p then
    (d.each wallPorts fun d q => d.setWp q fun w => { w with learned := removeN src w.learned }).setWp p fun w =>
      { w with learned := insertN src w.learned }
  else d

/-- A reserved address. -/
def wallReserved (a : Nat) : Bool := decide (0x400 ≤ a) && decide (a ≤ 0xFFFC)

/-- A good CMD packet arrives: LAK, duplicates discarded, then learned, forwarded and delivered (R315, R320, R325). -/
def Dev.cmdRx (d : Dev) (p : Nat) (h : WallHdr) (type : Nat) (data : List Byte) (f : Dev → Dev) : Dev :=
  let w := d.wp p
  let l := h.lseq.toNat
  if !d.wallPortOn p || !w.up || w.fenced then d
  else if w.seen.contains l then d.setWp p fun w => { w with seen := l :: w.seen.filter (· != l) }.emit (lakSyms l)
  else
    let d := d.setWp p fun w => { w with seen := (l :: w.seen).take 8 }.emit (lakSyms l)
    let dst := h.dst.toNat
    let src := h.src.toNat
    if wallReserved dst || wallReserved src then d.inc F.WALL_DROP_COUNT_COUNT
    else
      let d := d.wallLearn p src
      match d.wallRoute p dst with
      | none => d.inc F.WALL_DROP_COUNT_COUNT
      | some (here, out) =>
        let d := if d.wallForwards then d.each out fun d q => d.wallSend q ⟨type, dst, src, data⟩ else d
        (if here then f d else d).showWall

/-! ### The tree (R322 to R326) -/

def u2 (n : Nat) : List Byte := leBytes 2 n
def u4 (n : Nat) : List Byte := leBytes 4 n

/-- JOIN goes to the Almanac (R326). -/
def Dev.sendJoin (d : Dev) : Dev :=
  d.wallUp ⟨0x01, 0xFFFE, d.wallSrc, leBytes 8 d.uid ++ u2 (d.get F.WALL_ADDR_REQ_ADDR) ++ u2 (d.ownAddr.getD 0xFFFF)⟩

/-- RESULTs that waited for a path leave (R336). -/
def Dev.flushResults (d : Dev) : Dev :=
  if d.wall.upstream.isSome then
    (d.each d.wall.results fun d c => d.wallUp c).updWall fun w => { w with results := [] }
  else d

/-- The best port for an upstream: up, not fenced, no child, with beacons of the epoch held; lowest HOPS, then port. -/
def Dev.bestUpstream (d : Dev) : Option (Nat × Nat) :=
  wallPorts.foldl (fun a p =>
    let w := d.wp p
    match w.beacon with
    | some (e, _, h) =>
      if w.up && !w.fenced && !w.child && e == d.get F.WALL_STATUS_EPOCH then
        match a with
        | some (_, h') => if h < h' then some (p, h) else a
        | none => some (p, h)
      else a
    | none => a) none

/-- A device without an upstream port chooses one; above 10 hops it is an orphan (R322, R323). -/
def Dev.chooseUpstream (d : Dev) : Dev :=
  if d.isAlmanac || d.wall.upstream.isSome then d
  else match d.bestUpstream with
  | none => d.put F.WALL_STATUS_HOPS 0xF
  | some (p, h) =>
    if 10 < h + 1 then
      if d.wallState = 6 then d else ((d.setWallState 6).put F.WALL_STATUS_HOPS 0xF).raise Ev.WALL_DEPTH
    else
      let d := (d.updWall fun w => { w with upstream := some p, last := none, near := 0, far := 0 }).put F.WALL_STATUS_HOPS (h + 1)
      let d := if d.wallState = 4 ∨ d.wallState = 6 then d.setWallState (if d.wall.timing == some true then 2 else 1) else d
      d.sendJoin.flushResults

/-- The upstream port is given up. -/
def Dev.dropUpstream (d : Dev) : Dev := (d.updWall fun w => { w with upstream := none }).put F.WALL_STATUS_HOPS 0xF

/-- WALL_LAG of an address. -/
def Dev.setLag (d : Dev) (a : Nat) : Dev :=
  if a < 1024 then d.put F.WALL_LAG_MEMBER (putBit (d.get F.WALL_LAG_MEMBER (a / 32)) (a % 32) true) (a / 32) else d

/-- The Almanac learns of unreachable addresses (R337). -/
def Dev.lostAt (d : Dev) (addrs : List Nat) : Dev :=
  if addrs.isEmpty then d
  else
    let d := (d.each addrs Dev.setLag).updWall fun w => { w with members := w.members.filter fun a => !addrs.contains a }
    d.raise Ev.WALL_LAG

/-- LOST packets name every address, at most 256 in one, the length a packet can have (R319, R325). -/
def Dev.sendLost (d : Dev) (addrs : List Nat) : Dev :=
  d.each (List.range (divUp addrs.length 256)) fun d i =>
    d.wallUp ⟨0x03, 0xFFFE, d.wallSrc, ((addrs.drop (256 * i)).take 256).flatMap u2⟩

/-- The port sends a training set: port number, role, HOPS, RX_OK, and a byte that R317 leaves open, under their CRC-8 (log
entry 88). -/
def Dev.sendTrainSet (d : Dev) (p : Nat) : Dev :=
  let role := if d.isAlmanac then 2 else if d.on F.WALL_CTRL_ROLE then 1 else 0
  let (k, d) := d.fresh
  let bs := [byteOf p, byteOf role, byteOf (d.get F.WALL_STATUS_HOPS), byteOf (decide (32 ≤ (d.wp p).good)).toNat, Config.freeByte k 0]
  d.setWp p fun w => w.emit (wallTS :: (bs ++ [byteOf (crc8 bs)]).map .data)

/-- A port goes down and trains again (R317, R322, R325). -/
def Dev.wallPortDown (d : Dev) (p : Nat) : Dev :=
  let w := d.wp p
  let wasUp := d.wall.upstream == some p
  let d := d.setWp p fun w =>
    { ({} : WPort) with signal := w.signal, seqB := w.seqB, seqD := w.seqD, lseq := w.lseq, sent := w.sent, plus := w.plus }
  let d := if w.up then d.raise Ev.WALL_LINK_DOWN else d
  let d := if wasUp then d.dropUpstream.chooseUpstream else d
  let d := if w.up && w.child && !w.learned.isEmpty then
      (if d.isAlmanac then d.lostAt w.learned else d.sendLost w.learned)
    else d
  d.showWall

/-- A training set arrives; the port, while it is not up, answers with its own (R317). -/
def Dev.trainSet (d : Dev) (p : Nat) (t : TrainSet) : Dev :=
  if !d.wallPortOn p || (d.wp p).up then d
  else
    let d := d.setWp p fun w =>
      if t.good then { w with signal := true, good := w.good + 1, peer := if t.rxOk then w.peer + 1 else 0,
                              nb := (t.port.toNat, t.role.toNat, t.hops.toNat) }
      else { w with signal := true, good := if 32 ≤ w.good then w.good else 0, peer := 0 }
    let d := if 32 ≤ (d.wp p).good ∧ 8 ≤ (d.wp p).peer then (d.setWp p fun w => { w with up := true }).raise Ev.WALL_LINK_UP
      else d.sendTrainSet p
    d.showWall

/-! ### SYNC packets (R318, R322, R331) -/

/-- Frame that starts next. -/
def Dev.nextFrame (d : Dev) : Nat := (if d.scan.latched then d.get F.FRAME_COUNT_FRAME else d.get F.FRAME_COUNT_FRAME + 1) % 2 ^ 32

/-- Time of one raster line in ns (8 pixels a pipe clock). -/
def Dev.lineNs (d : Dev) : Nat := d.get F.RASTER_H_H_TOTAL * 1000000 / (8 * d.get F.PIPE_CLK_FREQ)

/-- Time from latch point to frame start in µs. -/
def Dev.latchLeadUs (d : Dev) : Nat :=
  (d.vTotal - d.latchLine) * d.get F.RASTER_H_H_TOTAL * 1000 / (8 * d.get F.PIPE_CLK_FREQ)

/-- BEACON on every port that is up and not the upstream port (R322): none from an orphan, or without an epoch. -/
def Dev.beaconTx (d : Dev) (now fsTime : Nat) : Dev :=
  let d := (d.put F.WALL_TIME_LO_TIME now).put F.WALL_TIME_HI_TIME (now / 2 ^ 32)
  match d.wall.root with
  | none => d
  | some root =>
    if d.wallState = 6 ∨ d.get F.WALL_STATUS_HOPS = 0xF then d
    else
      d.each (wallPorts.filter fun p => (d.wp p).up && !(d.wp p).fenced && d.wall.upstream != some p) fun d p =>
        d.setWp p fun w =>
          { w with seqB := (w.seqB + 1) % 256 }.emitSync
            ([byteOf 1, byteOf (d.get F.WALL_STATUS_EPOCH)] ++ u2 (root + d.get F.WALL_STATUS_HOPS * 4096) ++
              u4 now ++ u4 d.nextFrame ++ u4 fsTime ++ u2 d.latchLeadUs ++ [byteOf w.seqB, 0])

/-- DREQ on every port that is up: R322 names the ports that are not upstream, and R318 and R331 need it on the upstream
port too (log entry 51). -/
def Dev.dreqTx (d : Dev) (now : Nat) : Dev :=
  d.each (wallPorts.filter fun p => (d.wp p).up && !(d.wp p).fenced) fun d p =>
    let child := d.wall.upstream == some p
    d.setWp p fun w =>
      { w with seqD := (w.seqD + 1) % 256, dreq := some (w.seqD, now % 2 ^ 32) }.emitSync
        ([byteOf 2, byteOf (d.get F.WALL_STATUS_EPOCH), byteOf child.toNat, 0] ++ u4 now ++ List.replicate 10 0 ++ [byteOf w.seqD, 0])

/-- A DREQ is answered with a DRSP; its CHILD bit makes the port a downstream port. -/
def Dev.dreqRx (d : Dev) (p : Nat) (child : Bool) (t1 seq t2 t3 : Nat) : Dev :=
  if !d.wallPortOn p || !(d.wp p).up || (d.wp p).fenced then d
  else
    (d.setWp p fun w =>
      { w with child := child }.emitSync
        ([byteOf 3, byteOf (d.get F.WALL_STATUS_EPOCH), 0, 0] ++ u4 t1 ++ u4 t2 ++ u4 t3 ++ [0, 0, byteOf seq, 0])).showWall

/-- A DRSP measures the link delay: median of the last 5; one later than 100 µs is discarded (R331). -/
def Dev.drspRx (d : Dev) (p t1 t2 t3 seq t4 : Nat) : Dev :=
  if (d.wp p).dreq ≠ some (seq, t1) then d
  else
    let dt : Nat := (t4 + 2 ^ 32 - t1) % 2 ^ 32
    if 1600000 < dt then d.setWp p fun w => { w with dreq := none }
    else
      let d := d.setWp p fun w =>
        { w with dreq := none, delays := ((Int.ofNat dt - sgn 32 (t3 + 2 ^ 32 - t2)).fdiv 2 :: w.delays).take 5 }
      d.put F.WALL_PORT_STATUS_DELAY (wrap 16 (medianI (d.wp p).delays)) p

/-! ### Beacons and the servo (R324, R326, R327, R329) -/

/-- Ticks of a frame period, as a fraction: numerator and denominator. -/
def Dev.periodFrac (d : Dev) : Nat × Nat :=
  (16 * 1000000 * (d.get F.RASTER_H_H_TOTAL * d.get F.RASTER_V_V_TOTAL), 8 * d.get F.PIPE_CLK_FREQ)

/-- The timing check (R326) against two beacons of different frames. -/
def Dev.timingOk (d : Dev) (frame fs frame' fs' lead : Nat) : Bool :=
  let n := (frame' + 2 ^ 32 - frame) % 2 ^ 32
  let t := (fs' + 2 ^ 32 - fs) % 2 ^ 32
  let (a, b) := d.periodFrac
  decide ((Int.ofNat (t * b) - Int.ofNat (n * a)).natAbs * 10000 ≤ n * a) &&
  decide (((lead : Int) - d.latchLeadUs).natAbs ≤ 20)

/-- FLOOR_US in force in ns (R85). -/
def Dev.floorNs (d : Dev) : Nat :=
  let f := d.get F.RASTER_FLOOR_FLOOR_US
  (if f = 0 ∨ 100000 < f then 100000 else f) * 1000

/-- Nanoseconds by which one frame may be lengthened (R327). -/
def Dev.stretchMax (d : Dev) : Nat := d.floorNs - d.lineNs - d.nominalNs

/-- The frame step that a member needs (R327): what its counter gains, and e in ns.  `own` is the wall time at which the
device's next frame starts. -/
def Dev.stepNeed (d : Dev) (frame fs own : Nat) : Option (Nat × Nat) :=
  let p := d.periodFrac.1 / d.periodFrac.2
  if p = 0 then none
  else
    let gap := sgn 32 (own + 2 ^ 32 - fs)
    let e := ((0 - gap) % (p : Int)).toNat
    let k := (gap + (e : Int)) / (p : Int)
    let off := decide (32000 ≤ min e (p - e))
    let lift := if off && decide (d.nominalNs + d.lineNs ≤ d.floorNs) then e / 16 else 0
    let k := if lift ≠ 0 ∨ e ≤ p - e then k else k - 1
    let gain := (((frame : Int) + k - (d.nextFrame : Int)) % 4294967296).toNat
    if gain = 0 ∧ lift = 0 then none else some (gain, lift)

/-- The offset of a beacon moves the lock (R327). -/
def Dev.lockCount (d : Dev) (o : Int) : Dev :=
  if d.wallState = 2 then
    let n := if o.natAbs < 160 then d.wall.near + 1 else 0
    let d := d.updWall fun w => { w with near := n, far := 0 }
    if n = 16 then ((d.setWallState 3).updWall fun w => { w with near := 0 }).raise Ev.WALL_LOCK else d
  else if d.wallState = 3 then
    let n := if 800 < o.natAbs then d.wall.far + 1 else 0
    let d := d.updWall fun w => { w with far := n, near := 0 }
    if n = 4 then (d.setWallState 2).updWall fun w => { w with far := 0 } else d
  else d

/-- The timing check, once the device is a member (R326). -/
def Dev.checkTiming (d : Dev) (b : Beacon) : Dev :=
  if d.wall.timing.isSome || !d.on F.WALL_ADDR_VALID && !d.on F.WALL_CTRL_ROLE then d
  else match d.wall.last with
  | some (fr, fs) =>
    if fr = b.frame.toNat then d
    else if d.timingOk fr fs b.frame.toNat b.fsTime.toNat b.latchLead.toNat then
      (d.updWall fun w => { w with timing := some true }).setWallState 2
    else (d.updWall fun w => { w with timing := some false }).raise Ev.WALL_TIMING
  | none => d

/-- The servo on a beacon of the upstream port (R329): a port without a valid delay is not used (R331). -/
def Dev.servo (d : Dev) (p : Nat) (b : Beacon) (tRx own : Nat) : Dev :=
  if (d.wp p).delays.isEmpty then d
  else
    let adj := d.getS F.DELAY_ADJ_ADJ p
    let o := sgn 32 (((b.tTx.toNat : Int) + medianI (d.wp p).delays + adj - (tRx : Int)) % 4294967296).toNat
    let now := wrap 64 ((tRx : Int) + o)
    let d := ((d.put F.WALL_OFFSET_OFFSET (wrap 32 o)).put F.WALL_TIME_LO_TIME now).put F.WALL_TIME_HI_TIME (now / 2 ^ 32)
    let d := d.checkTiming b
    let d := d.updWall fun w => { w with last := some (b.frame.toNat, b.fsTime.toNat) }
    let d := if d.wallState = 2 ∧ d.wall.step.isNone ∧ d.wall.stretchLeft = 0 then
        (d.updWall fun w => { w with step := d.stepNeed b.frame.toNat b.fsTime.toNat own }).retarget
      else d
    d.lockCount o

/-- The Almanac yields (R324, R333). -/
def Dev.yield (d : Dev) : Dev :=
  let d := ((d.setWallState 1).put F.WALL_STATUS_HOPS 0xF).updWall fun w =>
    { w with members := [], upstream := none, timing := none, near := 0, far := 0 }
  d.raiseIf (d.on F.WALL_CTRL_ROLE) Ev.WALL_YIELD

/-- A port is fenced (R324). -/
def Dev.fence (d : Dev) (p : Nat) : Dev :=
  let d := d.setWp p fun w => { w with fenced := true, backlog := [], unacked := [] }
  if d.wall.upstream = some p then d.dropUpstream else d

/-- A newer epoch is taken: every port carrying it is eligible (R324, R333). -/
def Dev.newEpoch (d : Dev) (epoch root : Nat) : Dev :=
  ((d.put F.WALL_STATUS_EPOCH epoch).dropUpstream).updWall fun w => { w with root := some root }

/-- Is epoch `a` newer than `b` (R20 on 8 bits)? -/
def newer8 (a b : Nat) : Bool := let k := (a + 256 - b) % 256; decide (1 ≤ k) && decide (k ≤ 127)

/-- Every other port whose last beacon carries another ROOT of the epoch is fenced. -/
def Dev.fenceOthers (d : Dev) (p epoch root : Nat) : Dev :=
  d.each (wallPorts.filter fun q => q != p && match (d.wp q).beacon with | some (e, r, _) => e == epoch && r != root | none => false) Dev.fence

/-- A beacon that a device without the Almanac role takes. -/
def Dev.beaconTake (d : Dev) (p : Nat) (b : Beacon) (tRx own : Nat) : Dev :=
  let d := d.setWp p fun w => { w with beacon := some (b.epoch.toNat, b.root.toNat, b.hops.toNat) }
  let d := if d.wall.upstream = some p then
      (if 10 < b.hops.toNat + 1 then d.dropUpstream else d.put F.WALL_STATUS_HOPS (b.hops.toNat + 1))
    else d
  let d := d.chooseUpstream
  let d := if d.wall.upstream = some p then d.servo p b tRx own else d
  d.showWall

/-- BEACON_RX: epochs and roots are compared, then the servo is corrected. -/
def Dev.beaconRx (d : Dev) (p : Nat) (b : Beacon) (tRx own : Nat) : Dev :=
  let e := b.epoch.toNat
  let r := b.root.toNat
  let held := d.get F.WALL_STATUS_EPOCH
  if !d.wallPortOn p || !(d.wp p).up || (d.wp p).fenced then d
  else if d.isAlmanac then
    if newer8 e held then ((d.yield).newEpoch e r).beaconTake p b tRx own
    else if e = held then
      match d.wall.root with
      | some mine =>
        if r < mine then ((d.yield).newEpoch e r).beaconTake p b tRx own
        else if r = mine then ((d.fence p).raise Ev.WALL_DUAL).showWall
        else d
      | none => d
    else d
  else match d.wall.root with
  | none => (d.newEpoch e r).beaconTake p b tRx own
  | some mine =>
    if newer8 e held then (d.newEpoch e r).beaconTake p b tRx own
    else if e ≠ held then d
    else if r = mine then d.beaconTake p b tRx own
    else if r < mine then (((d.newEpoch e r).fenceOthers p e r).raise Ev.WALL_DUAL).beaconTake p b tRx own
    else ((d.fence p).raise Ev.WALL_DUAL).chooseUpstream.showWall

/-- 3.5 ms without a beacon on the upstream port (R322). -/
def Dev.upstreamTimeout (d : Dev) : Dev :=
  match d.wall.upstream with
  | some p => ((d.setWp p fun w => { w with beacon := none }).dropUpstream.chooseUpstream).showWall
  | none => d

/-- 3.5 ms without a beacon on any port: a member enters holdover, and a deputy takes the role (R332, R333). -/
def Dev.almanacLost (d : Dev) : Dev :=
  if !d.inWall || d.isAlmanac || d.wall.root.isNone || d.ownAddr.isNone || d.wallState == 4 then d
  else
    let d := d.each wallPorts fun d p => d.setWp p fun w => { w with beacon := none }
    let d := (((d.setWallState 4).dropUpstream).updWall fun w => { w with near := 0, far := 0 }).raise Ev.WALL_HOLDOVER
    if d.on F.WALL_CTRL_DEPUTY then
      let d := ((d.setWallState 5).put F.WALL_STATUS_HOPS 0).inc F.WALL_STATUS_EPOCH
      ((d.updWall fun w => { w with root := d.ownAddr, members := [], binds := (d.ownAddr.map fun a => (d.uid, a)).toList }).raise Ev.WALL_ALMANAC).showWall
    else d.showWall

/-! ### Joining (R315, R326) -/

/-- Is an address bound to another device? -/
def bound (binds : List (Nat × Nat)) (id a : Nat) : Bool := binds.any fun b => b.2 == a && b.1 != id

/-- The address that a joiner gets. -/
def grantAddr (binds : List (Nat × Nat)) (id req cur : Nat) : Option Nat :=
  let free := fun (a : Nat) => decide (1 ≤ a) && decide (a ≤ 1023) && !bound binds id a
  match assoc id binds with
  | some a => some a
  | none =>
    if cur ≤ 1023 ∧ !bound binds id cur then some cur
    else if free req then some req
    else ((List.range 1023).map (· + 1)).find? free

/-- A JOIN reaches the Almanac.  DESIGN CHOICE (log entry 75): WALL_JOIN_INFO.ADDR shows 0 for a refused device. -/
def Dev.joinAt (d : Dev) (p id req cur : Nat) : Dev :=
  match grantAddr d.wall.binds id req cur with
  | some a =>
    let d := d.updWall fun w => { w with binds := assocSet id a w.binds, members := insertN a w.members }
    let d := ((d.put F.WALL_JOIN_INFO_ADDR a).put F.WALL_JOIN_INFO_REFUSED 0).raise Ev.WALL_JOIN
    d.wallSend p ⟨0x02, a, d.wallSrc, leBytes 8 id ++ u2 a ++ [0]⟩
  | none =>
    let d := ((d.put F.WALL_JOIN_INFO_ADDR 0).put F.WALL_JOIN_INFO_REFUSED 1).raise Ev.WALL_JOIN
    d.wallSend p ⟨0x02, 0xFFFF, d.wallSrc, leBytes 8 id ++ u2 0xFFFF ++ [1]⟩

/-- ASSIGN travels by the path that the JOIN took: it is for this device, or goes on (R315). -/
def Dev.assignRx (d : Dev) (p : Nat) (h : WallHdr) (id addr : Nat) (refused : Bool) : Dev :=
  let w := d.wp p
  let l := h.lseq.toNat
  if !d.wallPortOn p || !w.up || w.fenced then d
  else if w.seen.contains l then d.setWp p fun w => { w with seen := l :: w.seen.filter (· != l) }.emit (lakSyms l)
  else
    let d := d.setWp p fun w => { w with seen := (l :: w.seen).take 8 }.emit (lakSyms l)
    if wallReserved h.dst.toNat || wallReserved h.src.toNat then d.inc F.WALL_DROP_COUNT_COUNT
    else if id = d.uid then
      if refused then d else (d.put F.WALL_ADDR_ADDR addr).put F.WALL_ADDR_VALID 1
    else match assoc id d.wall.paths with
    | some q =>
      if d.wallForwards then d.wallSend q ⟨0x02, h.dst.toNat, h.src.toNat, leBytes 8 id ++ u2 addr ++ [byteOf refused.toNat]⟩ else d
    | none => d.inc F.WALL_DROP_COUNT_COUNT

/-! ### Equinox commit (R334 to R337) -/

def Dev.updEqx (d : Dev) (f : EqxSet → EqxSet) : Dev := d.updWall fun w => { w with eqx := w.eqx.map f }

/-- COUNT and NAKS of the subtree. -/
def EqxSet.count (e : EqxSet) : Nat := sumN (e.acks.map (·.2.1)) + (e.inScope && e.own.isSome).toNat
def EqxSet.naks (e : EqxSet) : Nat := sumN (e.acks.map (·.2.2)) + (e.inScope && (e.own.getD 0) != 0).toNat

/-- COUNT shows the subtree's acknowledgements. -/
def Dev.showEqx (d : Dev) : Dev := match d.wall.eqx with | some e => d.put F.EQX_STATUS_COUNT e.count | none => d

/-- The set ends: the phase, and on the Almanac PREPARE clears. -/
def Dev.eqxEnd (d : Dev) (phase : Nat) : Dev :=
  let root := match d.wall.eqx with | some e => e.root | none => false
  let d := (d.updWall fun w => { w with eqx := none }).put F.EQX_STATUS_PHASE phase
  if root then d.put F.EQX_CMD_PREPARE 0 else d

/-- Outcome of a set on this device, and its RESULT when it did not apply (R336): 1 APPLIED, 2 LATE, 3 ABORTED,
4 REFUSED, 5 NAK. -/
def Dev.eqxOutcome (d : Dev) (set outcome : Nat) : Dev :=
  let d := (d.put F.EQX_RESULT_OUTCOME outcome).put F.EQX_RESULT_SET set
  if outcome = 1 ∨ outcome = 5 then d
  else
    (d.updWall fun w => { w with results := w.results ++ [⟨0x14, 0xFFFE, d.wallSrc, u2 set ++ [byteOf outcome, 0]⟩] }).flushResults

/-- The Almanac sends GO once every member in scope has acknowledged and its latch point of F − 1 has passed (R336). -/
def Dev.eqxTryGo (d : Dev) : Dev :=
  match d.wall.eqx with
  | some e =>
    if e.root && !e.go && e.count == e.need && e.naks == 0 &&
        !ahead (BitVec.ofNat 32 (e.f + 2 ^ 32 - 1)) (BitVec.ofNat 32 (d.get F.FRAME_COUNT_FRAME)) then
      ((d.updEqx fun e => { e with go := true }).wallDownAll ⟨0x12, 0xFFFF, d.wallSrc, u2 e.set ++ u4 e.f⟩).put F.EQX_STATUS_PHASE 2
    else d
  | none => d

/-- The one ACK of a device, when its own acknowledgement and those of its downstream ports are in, or at its deadline
(R335). -/
def Dev.eqxTryAck (d : Dev) (deadline : Bool) : Dev :=
  match d.wall.eqx with
  | some e =>
    let all := (!e.inScope || e.own.isSome) && d.wallDown.all fun p => (assoc p e.acks).isSome
    if e.root || e.acked || !(all || deadline) then d
    else
      (d.updEqx fun e => { e with acked := true }).wallUp
        ⟨0x11, 0xFFFD, d.wallSrc, u2 e.set ++ u2 e.count ++ u2 e.naks ++ [byteOf e.reason, 0]⟩
  | none => d

/-- The acknowledgement of this device, which the wall block may turn into a NAK (R335): reason 1 TIMING, 2 UNLOCKED,
3 PAST, 4 BUSY, 5 FEED, 6 NOTICE, or `fw` for firmware's own NAK with its byte. -/
def Dev.eqxOwn (d : Dev) (why : Option Nat) (fw : Option Byte) : Dev :=
  match d.wall.eqx with
  | some e =>
    if !e.inScope || e.own.isSome || e.root then d
    else
      let forced :=
        if d.wall.timing == some false then some 1
        else if d.wallState ≠ 3 then some 2
        else if !ahead (BitVec.ofNat 32 e.f) (BitVec.ofNat 32 (d.get F.FRAME_COUNT_FRAME)) then some 3
        else if d.on F.FSEQ_STATUS_COMMIT_PENDING then some 4
        else why
      let reason := match forced, fw with
        | some k, _ => some (Config.nakReason k)
        | none, some b => some b
        | none, none => none
      let d := d.updEqx fun e => { e with own := some (match reason with | some r => r.toNat + 1 | none => 0),
                                          reason := match reason with | some r => r.toNat | none => e.reason }
      let d := if reason.isSome then d.eqxOutcome e.set 5 else d
      (d.showEqx).eqxTryAck false
  | none => d

/-! ### Notices on the panel (R338, R340, R341) -/

/-- The head of a notice as stored in a plane. -/
structure NoticeHead where
  magic : Nat
  fmt : Nat
  sx : Nat
  sy : Nat
  w : Nat
  h : Nat
  x0 : Nat
  y0 : Nat
  deriving DecidableEq, Repr

def Dev.planeAddr (d : Dev) (b : Nat) : Nat := d.get F.NOTICE_BASE_BASE b * 64

def Dev.noticeHead (d : Dev) (b : Nat) : NoticeHead :=
  let g := fun (o n : Nat) => leNat (d.dramPeek (d.planeAddr b + o) n)
  ⟨g 0 2, g 2 1, g 3 1 % 4 + 1, g 3 1 / 4 % 4 + 1, g 4 2, g 6 2, g 8 4, g 12 4⟩

/-- Bytes per sample of plane 0 of formats 0 to 3 (Table 3.2). -/
def noticeBytes (fmt : Nat) : Nat := if fmt ≤ 1 then 4 else if fmt = 2 then 2 else 1

def NoticeHead.stride (h : NoticeHead) : Nat := alignUp (h.w * noticeBytes h.fmt) 64

/-- The intersection of the notice and panel rectangles: left, top, right, bottom in wall coordinates. -/
def Dev.noticeCut (d : Dev) (h : NoticeHead) : Nat × Nat × Nat × Nat :=
  let px := d.get F.WALL_POS_X_PX
  let py := d.get F.WALL_POS_Y_PY
  (max px h.x0, max py h.y0, min (px + d.hActive) (h.x0 + h.w * h.sx), min (py + d.vActive) (h.y0 + h.h * h.sy))

def Dev.noticeMeets (d : Dev) (h : NoticeHead) : Bool :=
  let (l, t, r, b) := d.noticeCut h
  decide (l < r) && decide (t < b)

/-- Error of a decompressed notice (Table 13.11): 0 none, 1 SIZE, 3 MAGIC, 4 FORMAT, 5 GEOM. -/
def Dev.noticeError (d : Dev) (h : NoticeHead) : Nat :=
  let mult := fun (a : Int) (n : Nat) => decide (a % (n : Int) = 0)
  let px : Int := (d.get F.WALL_POS_X_PX : Nat)
  let py : Int := (d.get F.WALL_POS_Y_PY : Nat)
  if h.magic ≠ 0x544E then 3
  else if 3 < h.fmt then 4
  else if d.get F.NOTICE_PLANE_SIZE_MIB * 2 ^ 20 < 4096 + h.h * h.stride then 1
  else if d.noticeMeets h && !(mult (px - h.x0) h.sx && mult d.hActive h.sx && mult (py - h.y0) h.sy && mult d.vActive h.sy) then 5
  else 0

/-- The shadow of layer 7's palette entry `i` of 256. -/
def Dev.putPal7 (d : Dev) (i w : Nat) : Dev :=
  let k := 6 * 256 + i
  let f := fun (d : Dev) (x : Field) => d.putShadow x (bits w x.hi x.lo) k
  f (f (f (f d F.PAL_ENTRY_ALPHA) F.PAL_ENTRY_BLUE) F.PAL_ENTRY_GREEN) F.PAL_ENTRY_RED

/-- The shadows of layer 7 for a notice (R341). -/
def Dev.stageNotice (d : Dev) (b galpha premult : Nat) : Dev :=
  let h := d.noticeHead b
  let (l, t, r, bo) := d.noticeCut h
  let d := { d with scan := { d.scan with l7Wall := true } }
  let d := ((((d.putShadow F.LAYER_CTRL_EN (d.noticeMeets h).toNat 7).putShadow F.LAYER_CTRL_FMT h.fmt 7).putShadow
    F.LAYER_CTRL_SCALE_X (h.sx - 1) 7).putShadow F.LAYER_CTRL_SCALE_Y (h.sy - 1) 7)
  let d := (d.putShadow F.LAYER_CTRL_GALPHA galpha 7).putShadow F.LAYER_CTRL_PREMULT premult 7
  let d := if d.noticeMeets h then
    let d := (d.putShadow F.LAYER_SRC_OFF_SRC_X ((l - h.x0) / h.sx) 7).putShadow F.LAYER_SRC_OFF_SRC_Y ((t - h.y0) / h.sy) 7
    let d := (d.putShadow F.LAYER_SIZE_SRC_W ((r - l) / h.sx) 7).putShadow F.LAYER_SIZE_SRC_H ((bo - t) / h.sy) 7
    (d.putShadow F.LAYER_POS_DST_X (l - d.get F.WALL_POS_X_PX) 7).putShadow F.LAYER_POS_DST_Y (t - d.get F.WALL_POS_Y_PY) 7
    else d
  let d := (d.putShadow F.LAYER_BASE_BASE ((d.planeAddr b + 4096) / 64) 7).putShadow F.LAYER_STRIDE_STRIDE (h.stride / 64) 7
  if h.fmt = 3 then
    d.each (List.range 256) fun d i => d.putPal7 i (leNat (d.dramPeek (d.planeAddr b + 16 + 4 * i) 4))
  else d

/-- The wall block stages and acknowledges a set of KIND 1 or 2 (R341). -/
def Dev.eqxStage (d : Dev) (kind : Nat) (data : List Byte) : Dev :=
  if kind = 2 then
    ({ d with scan := { d.scan with l7Wall := true } }.putShadow F.LAYER_CTRL_EN 0 7).eqxOwn none none
  else if !d.on F.COMP_CTRL_WALL_FEED then d.eqxOwn (some 5) none
  else
    let id := leNat (data.take 2)
    let ready := d.get F.NOTICE_STATUS_STATE == 3 && d.get F.NOTICE_STATUS_ID == id
    match d.wall.notice with
    | some n =>
      if ready then (d.stageNotice n.plane (leNat ((data.drop 2).take 1)) (leNat ((data.drop 3).take 1))).eqxOwn none none
      else d.eqxOwn (some 6) none
    | none => d.eqxOwn (some 6) none

/-- A member receives PREPARE (R335). -/
def Dev.eqxPrepare (d : Dev) (set f kind : Nat) (scope : Bool) (bitmap : Nat) (data : List Byte) : Dev :=
  if d.isAlmanac then d
  else
    let inScope := match d.ownAddr with | some a => !scope || bit bitmap a | none => false
    let d := d.updWall fun w => { w with eqx := some { set := set, f := f, kind := kind, root := false, need := 0, inScope := inScope } }
    let d := ((d.put F.EQX_STATUS_PHASE 1).put F.EQX_STATUS_SET set).showEqx
    if !inScope then d.eqxTryAck false
    else if kind = 0 then
      let d := (d.put F.EQX_LEN_LEN data.length).put F.EQX_F_F f
      let (d, _) := d.lsWrite 7 (d.get F.EQX_BUF_BASE * 16) data
      d.raise Ev.EQX_PREPARE
    else d.eqxStage kind data

/-- An ACK from a downstream port (R335). -/
def Dev.eqxAckRx (d : Dev) (p set count naks reason : Nat) : Dev :=
  match d.wall.eqx with
  | some e =>
    if e.set ≠ set ∨ d.wallPortState p ≠ 3 then d
    else
      let d := (d.updEqx fun e => { e with acks := assocSet p (count, naks) e.acks,
                                           reason := if naks = 0 then e.reason else reason }).showEqx
      (d.eqxTryAck false).eqxTryGo
  | none => d

/-- The wall block writes FSEQ_COMMIT once the latch point of F − 1 has passed (R30, R336). -/
def Dev.eqxCommit (d : Dev) : Dev :=
  match d.wall.eqx with
  | some e =>
    if !e.root && e.inScope && e.go && !e.committed && e.f == (d.get F.FRAME_COUNT_FRAME + 1) % 2 ^ 32 then
      (d.updEqx fun e => { e with committed := true }).commit
    else d
  | none => d

/-- The latch point of frame `f` has passed once the counter reads `n` (R20): it was that of `n`, or a frame step (R327)
or frames of the reserve timer (R38) have carried the counter beyond `f`. -/
def framePassed (f n : Nat) : Bool := f == n || ahead (BitVec.ofNat 32 n) (BitVec.ofNat 32 f)

/-- A member drops a set as LATE: its shadows are discarded without a commit (R30, R336). -/
def Dev.eqxDropLate (d : Dev) (e : EqxSet) : Dev :=
  if e.inScope then (((d.discardShadows).eqxEnd 0).eqxOutcome e.set 2).raise Ev.LATE else d.eqxEnd 0

/-- A member receives GO; one for a frame whose latch point has passed drops the set as LATE (R30, R336). -/
def Dev.eqxGoRx (d : Dev) (set f : Nat) : Dev :=
  match d.wall.eqx with
  | some e =>
    if e.root || e.set != set || e.f != f || (e.inScope && e.own != some 0) || e.committed then d
    else if framePassed f (d.get F.FRAME_COUNT_FRAME) then d.eqxDropLate e
    else ((d.updEqx fun e => { e with go := true }).put F.EQX_STATUS_PHASE 2).eqxCommit
  | none => d

/-- A member receives ABORT (R336). -/
def Dev.eqxAbortRx (d : Dev) (set : Nat) : Dev :=
  match d.wall.eqx with
  | some e =>
    if e.root || e.set != set || e.committed then d
    else if e.inScope then (((d.discardShadows).eqxEnd 3).eqxOutcome set 3).raise Ev.EQX_ABORT
    else d.eqxEnd 3
  | none => d

/-- Before the latch point of frame `n` applies a commit: a set of that frame without GO is dropped as LATE, and so is
one whose frame the counter has passed (R30, R336). -/
def Dev.eqxLate (d : Dev) (n : Nat) : Dev :=
  match d.wall.eqx with
  | some e =>
    if !framePassed e.f n || e.committed then d
    else if e.root then d.eqxEnd 0
    else if e.inScope && e.go && e.f == n then (d.updEqx fun e => { e with committed := true }).commit
    else d.eqxDropLate e
  | none => d

/-- After the latch point of frame `n`: a committed set has applied or was refused by a check (R75, R336). -/
def Dev.eqxApplied (d : Dev) (n : Nat) (applied : Bool) : Dev :=
  match d.wall.eqx with
  | some e =>
    if !framePassed e.f n || !e.committed then d
    else if applied then
      let d := if e.kind = 1 then d.put F.NOTICE_STATUS_LIVE_PLANE (match d.wall.notice with | some x => x.plane | none => 0) else d
      ((d.eqxEnd 0).eqxOutcome e.set 1).raise Ev.EQX_APPLIED
    else (d.eqxEnd 4).eqxOutcome e.set 4
  | none => d

/-- PREPARE in EQX_CMD (R334). -/
def Dev.eqxStart (d : Dev) (scope : Bool) (kind set : Nat) : Dev :=
  let d := ((d.put F.EQX_CMD_SCOPE scope.toNat).put F.EQX_CMD_KIND kind).put F.EQX_CMD_SET set
  let f := d.get F.EQX_F_F
  let k := (f + 2 ^ 32 - d.get F.FRAME_COUNT_FRAME) % 2 ^ 32
  if !d.isAlmanac || d.wall.eqx.isSome || kind == 3 || decide (k < 2) || decide (2 ^ 31 ≤ k) then
    (d.put F.EQX_STATUS_PHASE 4).raise Ev.EQX_ABORT
  else
    let lag := d.wall.members.filter fun a => bit (d.get F.WALL_LAG_MEMBER (a / 32)) (a % 32)
    let who := if scope then lag else d.wall.members
    let len := min 376 (d.get F.EQX_LEN_LEN)
    let (d, _, data) := d.lsRead 7 (d.get F.EQX_BUF_BASE * 16) len
    let map := if scope then leBytes 128 (maskOf 1024 who.contains) else []
    let d := d.updWall fun w =>
      { w with eqx := some { set := set, f := f, kind := kind, root := true, need := who.length, inScope := false } }
    let d := (((d.put F.EQX_CMD_PREPARE 1).put F.EQX_STATUS_PHASE 1).put F.EQX_STATUS_SET set).showEqx
    (d.wallDownAll ⟨0x10, 0xFFFF, d.wallSrc, u2 set ++ u4 f ++ [byteOf kind, byteOf scope.toNat] ++ map ++ data⟩).eqxTryGo

/-- 50 µs before the Almanac's latch point of F without GO: ABORT (R336). -/
def Dev.eqxAbortDeadline (d : Dev) : Dev :=
  match d.wall.eqx with
  | some e =>
    if e.root && !e.go then
      ((d.wallDownAll ⟨0x13, 0xFFFF, d.wallSrc, u2 e.set ++ u4 e.f⟩).eqxEnd 3).raise Ev.EQX_ABORT
    else d
  | none => d

/-! ### The frame step at a latch point (R327) -/

/-- A frame takes its part of what is left of e. -/
def Dev.takeStretch (d : Dev) : Dev :=
  let t := min d.wall.stretchLeft d.stretchMax
  d.updWall fun w => { w with stretch := t, stretchLeft := w.stretchLeft - t }

/-- The latch point of a member that steps: its counter takes the wall's value, and the event comes once. -/
def Dev.wallLatch (d : Dev) : Dev :=
  match d.wall.step with
  | some (gain, e) =>
    let d := (d.put F.FRAME_COUNT_FRAME (d.get F.FRAME_COUNT_FRAME + gain)).updWall fun w => { w with step := none, stretchLeft := e }
    d.takeStretch.raise Ev.WALL_FRAME_STEP
  | none => d.takeStretch

end Sys2Proof.Machine
end

