-- ==== Sys2Proof/Machine/Cp.lean ====
section
/-! DEFINITION.  The control processor's restart, watchdog and firmware swap (R410 to R414, R427). -/

set_option Elab.async false

namespace Sys2Proof.Machine

def Dev.setCp (d : Dev) (f : CpState → CpState) : Dev := { d with cp := f d.cp }

/-- Base of TCM in the map of Table 17.1. -/
def tcmBase : Nat := 0x08000000

/-- The boot is complete: the firmware has the control processor. -/
def Dev.bootDone (d : Dev) : Bool := d.get F.BOOT_STATUS_STEP == 11

/-- The flash offset of a slot (Table 16.1). -/
def Dev.slotBase (d : Dev) (slot : Nat) : Nat :=
  if slot = 0 then 0 else nth [32, 64, 128, 256] (bits (d.get F.BOOT_STATUS_STRAPS) 4 3) * 0x100000

/-- The longest image that a slot takes (R391). -/
def Dev.slotRoom (d : Dev) (slot : Nat) : Nat := if slot = 0 then d.slotBase 1 else 2 ^ 28

def Dev.slotImage (d : Dev) (slot : Nat) : ImgAt := ⟨d.flash, d.slotBase slot⟩

/-- STRAP_BOOT selects quad SPI. -/
def Dev.quadBoot (d : Dev) : Bool := bits (d.get F.BOOT_STATUS_STRAPS) 2 1 == 1

/-- The firmware starts at the base of TCM (DESIGN CHOICE, log entry 18). -/
def Dev.startFw (d : Dev) : Dev := d.setCp fun c =>
  { c with hart := { pc := BitVec.ofNat 32 tcmBase }, fwRuns := true, inHandler := false, resv := none, waiting := false }

/-- The control processor is reset: what has not left it is dropped, open requests are answered, an image transfer is
abandoned, a half-written set will not be committed (R411, R412, R426). -/
def Dev.cpReset (d : Dev) (cause : Nat) : Dev :=
  let d := setPwr' d fun p => { p with stalled := p.stalled.filter fun a => a.master != .cp }
  let d := d.setCp fun c =>
    { c with hart := {}, inHandler := false, resv := none, waiting := false, fwRuns := false, copyBack := true, wdt := 0 }
  let d := { d with mgmt := { d.mgmt with imgLost := d.mgmt.imgOwner.toList ++ d.mgmt.imgLost, imgOwner := none, imgLen := 0, imgGot := 0, imgSlot := none, nvJob := none } }
  let d := d.each [0, 1, 2] fun d m => d.mbAnswer m 6
  let d := { d with tap := { d.tap with halted := false } }
  let d := (d.inc F.CP_STATUS_RESTARTS).put F.CP_STATUS_CAUSE cause
  match d.wall.eqx with
  | some e => if e.inScope && e.kind == 0 then d.eqxOwn (some 7) none else d
  | none => d
where
  setPwr' (d : Dev) (f : PwrState → PwrState) : Dev := { d with pwr := f d.pwr }

/-- The image copy may be used: its CRC matches and none of its segments is LOST (R411). -/
def Dev.copyGood (d : Dev) : Bool :=
  let m := d.imageCopy
  decide (4100 ≤ m.len) && decide (m.len ≤ 2 ^ 28) && m.crcOk &&
    (List.range 8).all fun s => !bit (d.get F.DRAM_CH_STATUS_LOST 7) s || decide (s ≤ 4)

/-- Restart hold: the firmware is not started again (R414). -/
def Dev.cpHold (d : Dev) : Dev := (d.put F.CP_STATUS_HOLD 1).hostEvent 3

/-- The boot ROM loads the firmware from the image copy, or after reading the slot in use from flash again (R411). -/
def Dev.cpLoad (d : Dev) : Dev :=
  let slot := d.get F.BOOT_STATUS_SLOT
  let src := d.slotImage slot
  let d' := if d.copyGood then some d
    else if (src.headerBad d.quadBoot (d.slotRoom slot)).isNone && (d.imageBad src).isNone then some (d.copyImage src)
    else none
  match d'.bind fun d => d.loadFw d.imageCopy with
  | some d => d.startFw
  | none => d.cpHold

/-- Calendar-clock cycles of 600 s. -/
def restartSpan : Nat := 600 * 32768

/-- A restart (R411, R414): the fourth within 600 s leaves the processor in hold. -/
def Dev.cpRestart (d : Dev) (cause : Nat) : Dev :=
  let d := ((d.cpReset cause).hostEvent 2).raise Ev.RESTART
  let recent := d.cp.restarts.filter fun t => decide (d.ticks < t + restartSpan)
  let d := d.setCp fun c => { c with restarts := d.ticks :: recent }
  if 3 ≤ recent.length then d.cpHold else d.cpLoad

/-- A restart of the processor that runs firmware. -/
def Dev.cpFault (d : Dev) (cause : Nat) : Dev :=
  if d.bootDone && !d.on F.CP_STATUS_HOLD then d.cpRestart cause else d

/-- The watchdog expires (R413). -/
def Dev.wdtExpire (d : Dev) : Dev := if d.on F.WDT_CTRL_EN && !d.tap.halted then d.cpFault 2 else d

/-- The mailbox command RESTART_CP restarts, from hold too, and ends the hold (R414, R425). -/
def Dev.restartCmd (d : Dev) : Dev :=
  if d.on F.CP_STATUS_HOLD then ((d.put F.CP_STATUS_HOLD 0).setCp fun c => { c with restarts := [] }).cpRestart 3
  else d.cpRestart 3

/-- The firmware swap at its latch point (R427). -/
def Dev.cpSwap (d : Dev) : Dev :=
  let slot := d.get F.CP_SWAP_CTRL_SLOT
  let m : ImgAt := ⟨d.dram.mem, d.get F.CP_SWAP_SRC * 64⟩
  let d := d.put F.CP_SWAP_CTRL_GO 0
  let good := (m.headerBad d.quadBoot (d.slotRoom slot)).isNone && (d.imageBad m).isNone
  match (if good then (d.copyImage m).loadFw m else none) with
  | some d' =>
    let d' := (((d'.cpReset 4).put F.BOOT_SEQ_SEQ m.seq).put F.BOOT_VERSION_VERSION m.version).put F.BOOT_STATUS_SLOT slot
    (d'.flag F.BOOT_STATUS_SIGNED m.isSigned).startFw.raise Ev.SWAPPED
  | none => (d.cpRestart 4).raise Ev.SWAP_FAIL

/-- At a latch point: the swap of that frame, and the copy back after a restart unless a set is pending or acknowledged
(R412, R427).  `n` is the frame. -/
def Dev.cpLatch (d : Dev) (n : Nat) : Dev :=
  let held := match d.wall.eqx with
    | some e => e.inScope && e.own == some 0
    | none => false
  let d := if d.cp.copyBack then
      (if d.on F.FSEQ_STATUS_COMMIT_PENDING || held then d else d.discardShadows).setCp fun c => { c with copyBack := false }
    else d
  if d.on F.CP_SWAP_CTRL_GO && d.get F.CP_SWAP_F_F == n then d.cpSwap else d

/-! ### Meanings -/

/-- LOCKSTEP_MISMATCH (R410, R411, R414). -/
def execLockstepMismatch (s : State) : Host.Outcome State Fault Refusal := .next (s.upd (·.cpFault 1))
/-- WDT_EXPIRE (R411, R413, R414). -/
def execWdtExpire (s : State) : Host.Outcome State Fault Refusal := .next (s.upd (·.wdtExpire))
/-- WDT_KICK (R413): a write of 0x5A starts the count anew. -/
def execWdtKick (value : Byte) (s : State) : Host.Outcome State Fault Refusal :=
  .next (s.upd fun d => if value = 0x5A then d.setCp fun c => { c with wdt := 0 } else d)
/-- WDT_ENABLE (R413). -/
def execWdtEnable (s : State) : Host.Outcome State Fault Refusal := .next (s.upd (·.put F.WDT_CTRL_EN 1))
/-- CP_SWAP_GO (R427): a write of CP_SWAP_CTRL with GO. -/
def execCpSwapGo (slot : Bool) (s : State) : Host.Outcome State Fault Refusal :=
  .next (s.upd fun d => (d.flag F.CP_SWAP_CTRL_SLOT slot).put F.CP_SWAP_CTRL_GO 1)
/-- HOST_EVENT_SET (R421): firmware sets FW_NOTICE and ALERT. -/
def execHostEventSet (bits : BitVec 6) (s : State) : Host.Outcome State Fault Refusal :=
  .next (s.upd fun d => d.each ([1, 5].filter fun i => bits.getLsbD i) Dev.hostEvent)
/-- MB_COMPLETE (R424). -/
def execMbComplete (mask : BitVec 3) (s : State) : Host.Outcome State Fault Refusal :=
  .next (s.upd fun d => d.each (idxs 3 fun m => mask.getLsbD m) Dev.mbComplete)

end Sys2Proof.Machine
end

