-- ==== Sys2Proof/Machine/Nv.lean ====
section
/-! DEFINITION.  The parameter store (R369 to R385): its commands, atomic updates, recovery, records, passwords, refresh
and the power-fail burst. -/

set_option Elab.async false

namespace Sys2Proof.Machine

def Dev.setNv (d : Dev) (f : NvState → NvState) : Dev := { d with nv := f d.nv }

/-! ### Pages (R369, R370, Table 15.2) -/

def Dev.nvPage (d : Dev) (p : Nat) : List Byte := Memory.read d.nv.mem (64 * p) 64
def Dev.nvPut (d : Dev) (p o : Nat) (bs : List Byte) : Dev := d.setNv fun n => { n with mem := Memory.write n.mem (64 * p + o) bs }

/-- Bytes at any offset of a page. -/
def Dev.nvNat (d : Dev) (p o n : Nat) : Nat := leNat (Memory.read d.nv.mem (64 * p + o) n)

def zeroPage : List Byte := List.replicate 64 0
def padPage (bs : List Byte) : List Byte := (bs ++ zeroPage).take 64

/-- READ may name the page. -/
def nvReadable (p : Nat) : Bool := decide (280 ≤ p) && decide (p < 4096)
/-- A data page or a trailer of an AGE slot. -/
def nvAge (p : Nat) : Bool := decide (608 ≤ p) && decide (p ≤ 2659)
def nvAgeTrailer (p : Nat) : Bool := nvAge p && (p - 608) % 513 == 512
/-- UPDATE may name the page. -/
def nvUpdatable (p : Nat) : Bool := decide (288 ≤ p) && decide (p < 4096) && (!nvAge p || nvAgeTrailer p)
/-- SLOT_WRITE may name the page. -/
def nvSlotPage (p : Nat) : Bool := nvAge p && !nvAgeTrailer p

/-! ### The YL-3200 layout (R381) -/

/-- First page of partition 3 or 4. -/
def partBase (p : Nat) : Nat := if p = 3 then 352 else 2660

/-- A page lies in a partition whose COMPAT is 1. -/
def Dev.nvCompat (d : Dev) (p : Nat) : Bool :=
  [3, 4].any fun k => decide (partBase k ≤ p) && decide (p < partBase k + 256) && bit (d.nvNat (256 + k) 18 1) 0

/-- Code positions of the 112 data bits: 1 to 119 without the powers of two. -/
def dataPos : List Nat := (List.range 120).filter fun p => 2 < p && p &&& (p - 1) != 0

/-- Data bits of a group, with their code positions. -/
def groupBits (g : List Byte) : List (Nat × Bool) :=
  dataPos.zipIdx.map fun (pos, k) => (pos, ((g[k / 8]?).getD 0).getLsbD (k % 8))

def xorB (l : List Bool) : Bool := l.foldl (· != ·) false

/-- The check byte of a group. -/
def secded112 (g : List Byte) : Nat :=
  let c := (groupBits g).foldl (fun c (pos, b) => if b then c ^^^ pos else c) 0
  let par := xorB ((groupBits g).map (·.2)) != xorB ((List.range 7).map (bit c))
  c + (if par then 128 else 0)

/-- A group as written: the check byte in byte 14, 0 in byte 15. -/
def sealGroup (g : List Byte) : List Byte := let d := (g ++ List.replicate 14 0).take 14; d ++ [byteOf (secded112 d), 0]

def groups (bs : List Byte) : List (List Byte) := (List.range 4).map fun i => (bs.drop (16 * i)).take 16

/-- A page as written into a COMPAT partition. -/
def sealPage (bs : List Byte) : List Byte := (groups bs).flatMap sealGroup

/-- A group read: its data with a single-bit error corrected; none for a double-bit error; and whether it was corrected. -/
def readGroup (g : List Byte) : Option (List Byte) × Bool :=
  let stored := ((g[14]?).getD 0).toNat
  let s := (secded112 g ^^^ stored) % 128
  let odd := xorB ((groupBits g).map (·.2)) != xorB ((List.range 8).map (bit stored))
  if s = 0 ∧ ¬ odd then (some g, false)
  else if ¬ odd then (none, false)
  else
    match dataPos.findIdx? (· == s) with
    | some k =>
      let fixed := g.set (k / 8) (((g[k / 8]?).getD 0) ^^^ byteOf (2 ^ (k % 8)))
      (some fixed, true)
    | none => if s &&& (s - 1) = 0 then (some (sealGroup g), true) else (none, false)

/-- A page as READ returns it; a corrected page is queued for refresh. -/
def Dev.nvFetch (d : Dev) (p : Nat) : Dev × Option (List Byte) :=
  let raw := d.nvPage p
  if d.nvCompat p then
    let gs := (groups raw).map readGroup
    let d := if gs.any (·.2) then d.setNv fun n => { n with refreshQ := insertN p n.refreshQ } else d
    (d, if gs.all (·.1.isSome) then some (gs.flatMap fun g => g.1.getD []) else none)
  else (d, some raw)

/-! ### Operations, spans and steps (R371, R372, R375) -/

def Dev.nvStage (d : Dev) : Nat := d.get F.NV_STATUS_STAGE
def Dev.setNvStage (d : Dev) (k : Nat) : Dev := (d.put F.NV_STATUS_STAGE k).flag F.NV_STATUS_PROG (k != 0)

/-- The entry of the journal that the next update uses, and its JSEQ. -/
def Dev.nextJseq (d : Dev) : Nat := (d.nv.jseq + 1) % 2 ^ 32

/-- The next span begins, unless the gap after the last one still runs. -/
def Dev.nvSpan (d : Dev) : Dev :=
  match d.nv.op with
  | some { todo := w :: _, .. } =>
    if d.nv.gap ∨ d.nvStage ≠ 0 then d
    else (d.setNv fun n => { n with powered := true }).setNvStage (if w.slot then 5 else 1)
  | _ => d

/-- Lock-out minutes that wait to be saved are programmed while the controller is idle. -/
def Dev.recordPage (d : Dev) (p : Nat) (o : Nat) (bs : List Byte) : List Byte :=
  let r := d.nvPage (256 + p)
  let r := (r.take o ++ bs ++ r.drop (o + bs.length)).take 62
  r ++ leBytes 2 (crc16 r)

def Dev.lockLeft (d : Dev) (p k : Nat) : Nat := (assoc (2 * p + k) d.nv.lock).getD 0

/-- The controller is idle and takes an operation of its own. -/
def Dev.nvIdle (d : Dev) : Bool := !d.on F.NV_STATUS_BUSY && !d.nv.refuse && d.nv.op.isNone

def Dev.nvSave (d : Dev) : Dev :=
  match d.nv.saves with
  | p :: rest =>
    if d.nvIdle then
      let page := d.recordPage p 20 (leBytes 2 (d.lockLeft p 0) ++ leBytes 2 (d.lockLeft p 1))
      ((d.setNv fun n => { n with saves := rest, op := some ⟨false, [⟨256 + p, page, false⟩], .done⟩ }).put
        F.NV_STATUS_BUSY 1).nvSpan
    else d
  | [] => d

/-- A command ends with an error code, 0 for none (Table 15.11). -/
def Dev.nvEnd (d : Dev) (err : Nat) : Dev :=
  let d := (((d.setNv fun n => { n with op := none }).put F.NV_STATUS_BUSY 0).put F.NV_STATUS_ERR err).put F.NV_CMD_GO 0
  (((d.raiseIf (err != 0) Ev.NV_ERR).raise Ev.NV_DONE)).nvSave

/-- An operation of the controller itself ends. -/
def Dev.nvOwnEnd (d : Dev) : Dev :=
  ((d.setNv fun n => { n with op := none }).put F.NV_STATUS_BUSY 0).nvSave

/-- A command that is not carried out ends at once: the one that runs goes on (R371, R384). -/
def Dev.nvReject (d : Dev) (err : Nat) : Dev := ((d.put F.NV_STATUS_ERR err).raise Ev.NV_ERR).raise Ev.NV_DONE

/-- A command starts with the pages it programs. -/
def Dev.nvStart (d : Dev) (todo : List NvWrite) (after : NvAfter) : Dev :=
  ((((d.put F.NV_CMD_GO 1).put F.NV_STATUS_BUSY 1).put F.NV_STATUS_ERR 0).put F.NV_STATUS_PAGES_DONE 0).setNv
    (fun n => { n with powered := true, op := some ⟨true, todo, after⟩ }) |>.nvSpan

/-- The pages of an operation are programmed: what follows. -/
def Dev.nvAfter (d : Dev) (o : NvOp) : Dev :=
  let more := fun (d : Dev) (w : NvWrite) (a : NvAfter) => (d.setNv fun n => { n with op := some ⟨o.cmd, [w], a⟩ }).nvSpan
  match o.after with
  | .done => if o.cmd then d.nvEnd 0 else d.nvOwnEnd
  | .compare p k good =>
    if good then more d ⟨256 + p, d.recordPage p (16 + k) [0], false⟩ .passed
    else if 8 ≤ d.nvNat (256 + p) (16 + k) 1 then
      more (d.setNv fun n => { n with lock := assocSet (2 * p + k) 60 n.lock })
        ⟨256 + p, d.recordPage p (20 + 2 * k) (leBytes 2 60), false⟩ .locked
    else d.nvEnd 0
  | .passed => (d.put F.NV_STATUS_PW_PASS 1).nvEnd 0
  | .locked => (d.raise Ev.NV_LOCKOUT).nvEnd 0
  | .clearPf => (d.put F.NV_SEL_PF_VALID 0).nvEnd 0
  | .refreshed p still =>
    let d := d.inc F.NV_REFRESH_COUNT_COUNT
    let d := if still then (d.put F.NV_RECOVERY_WEAK_PAGE p).raise Ev.NV_WEAK else d
    d.nvOwnEnd

/-- The PF burst starts (R384). -/
def Dev.burstStart (d : Dev) : Dev :=
  if d.nv.burst.isSome then ((d.put F.NV_STATUS_BUSY 1).setNv fun n => { n with op := none, gap := false }).setNvStage 6 else d

/-- A span ends: the gap begins, and the operation goes on, ends, or gives way to the PF burst. -/
def Dev.spanEnd (d : Dev) : Dev :=
  match d.nv.op with
  | some o =>
    let o := { o with todo := o.todo.drop 1 }
    let d := (d.setNvStage 0).setNv fun n => { n with gap := true, op := some o }
    let d := if o.cmd then d.inc F.NV_STATUS_PAGES_DONE else d
    if d.nv.burst.isSome then
      let d := if !o.todo.isEmpty && o.cmd then d.nvReject 3 else if o.todo.isEmpty && o.cmd then d.nvAfter o else d
      (d.put F.NV_CMD_GO 0).burstStart
    else if o.todo.isEmpty then d.nvAfter o
    else d
  | none => d

/-- Header and marker groups of a journal record (Table 15.4). -/
def jrnlHeader (target jseq : Nat) (img : List Byte) : List Byte :=
  let b := [0x4A, 0] ++ leBytes 2 target ++ leBytes 4 jseq ++ leBytes 2 (crc16 img) ++ List.replicate 4 0
  b ++ leBytes 2 (crc16 b)
def jrnlMarker (state target jseq : Nat) : List Byte :=
  let b := [0x4D, byteOf state] ++ leBytes 2 target ++ leBytes 4 jseq ++ List.replicate 6 0
  b ++ leBytes 2 (crc16 b)

/-- A program completes (Table 15.3). -/
def Dev.nvProgramDone (d : Dev) : Dev :=
  let e := d.nextJseq % 128
  match d.nvStage, d.nv.op with
  | 6, _ =>
    let d := d.each (d.nv.burst.getD []) fun d p => d.nvPut p.1 0 p.2
    ((d.setNvStage 0).put F.NV_STATUS_BUSY 0).setNv fun n => { n with burst := none, gap := true }
  | 1, some { todo := w :: _, .. } => (d.nvPut (2 * e) 0 (d.nvPage w.page)).setNvStage 2
  | 2, some { todo := w :: _, .. } => (d.nvPut (2 * e + 1) 0 (jrnlHeader w.page d.nextJseq (d.nvPage (2 * e)))).setNvStage 3
  | 3, some { todo := w :: _, .. } => (d.nvPut w.page 0 w.data).setNvStage 4
  | 4, some { todo := w :: _, .. } =>
    let d := d.nvPut (2 * e + 1) 16 (jrnlMarker 1 w.page d.nextJseq)
    ((d.setNv fun n => { n with jseq := d.nextJseq }).inc F.NV_JRNL_COUNT_COUNT).spanEnd
  | 5, some { todo := w :: _, .. } => (d.nvPut w.page 0 w.data).spanEnd
  | _, _ => d

/-- The gap ends (R375). -/
def Dev.nvSpanGap (d : Dev) : Dev := (d.setNv fun n => { n with gap := false }).nvSpan

/-- 1 ms without an operation (R369). -/
def Dev.nvOff (d : Dev) : Dev := if d.on F.NV_STATUS_BUSY then d else d.setNv fun n => { n with powered := false }

/-! ### Commands (R370, R379, R381, R382) -/

/-- A write of NV_CMD with GO: the fields are stored, and the command is taken, or ends with PFAIL or BUSY. -/
def Dev.nvCommand (d : Dev) (op count part : Nat) (kind : Bool) (f : Dev → Dev) : Dev :=
  let d := (((d.put F.NV_CMD_OP op).put F.NV_CMD_COUNT count).put F.NV_CMD_PART part).flag F.NV_CMD_KIND kind
  if d.nv.refuse then d.nvReject 3
  else if d.on F.NV_STATUS_BUSY then d.nvReject 2
  else f ((d.put F.NV_STATUS_PAGES_DONE 0).setNv fun n => { n with powered := true })

/-- The pages that a command names, when its area permits them. -/
def Dev.nvPages (d : Dev) (count : Nat) (ok : Nat → Bool) : Option (List Nat) :=
  let l := (List.range (count + 1)).map (d.get F.NV_PAGE_PAGE + ·)
  if (d.on F.NV_SRC_USE_LS || count == 0) && decide (count < 512) && l.all ok then some l else none

def Dev.nvBuf (d : Dev) : List Byte := (List.range 16).flatMap fun k => leBytes 4 (d.get F.NV_BUF_DATA k)
def Dev.setNvBuf (d : Dev) (bs : List Byte) : Dev :=
  d.each (List.range 16) fun d k => d.put F.NV_BUF_DATA (leNat ((bs.drop (4 * k)).take 4)) k

/-- The 64 bytes of each page that a command programs; none after an error of the line store. -/
def Dev.nvSource (d : Dev) (n : Nat) : Dev × Option (List (List Byte)) :=
  if d.on F.NV_SRC_USE_LS then
    let (d, st, bs) := (d.wakeNow domLS).lsRead 0 (d.get F.NV_SRC_ADDR * 16) (64 * n)
    (d, if st = .ok then some ((List.range n).map fun i => padPage (bs.drop (64 * i))) else none)
  else (d, some [d.nvBuf])

/-- READ: pages to NV_BUF or the line store. -/
def Dev.nvRead (d : Dev) (count : Nat) : Dev :=
  match d.nvPages count nvReadable with
  | none => d.nvEnd 1
  | some l =>
    let (d, err) := l.zipIdx.foldl (fun (a : Dev × Nat) (p, i) =>
      if a.2 ≠ 0 then a
      else
        match a.1.nvFetch p with
        | (d, none) => (d, 4)
        | (d, some bs) =>
          if d.on F.NV_SRC_USE_LS then
            let (d, st) := (d.wakeNow domLS).lsWrite 0 (d.get F.NV_SRC_ADDR * 16 + 64 * i) bs
            if st = .ok then (d.inc F.NV_STATUS_PAGES_DONE, 0) else (d, 6)
          else ((d.setNvBuf bs).inc F.NV_STATUS_PAGES_DONE, 0)) (d, 0)
    d.nvEnd err

/-- UPDATE and SLOT_WRITE. -/
def Dev.nvWrite (d : Dev) (count : Nat) (slot : Bool) : Dev :=
  match d.nvPages count (if slot then nvSlotPage else nvUpdatable) with
  | none => d.nvEnd 1
  | some l =>
    match d.nvSource l.length with
    | (d, none) => d.nvEnd 6
    | (d, some data) =>
      d.nvStart ((l.zip data).map fun (p, bs) => ⟨p, if d.nvCompat p then sealPage bs else bs, slot⟩) .done

/-- PW_CHECK. -/
def Dev.pwCheck (d : Dev) (p : Nat) (kind : Bool) : Dev :=
  let k := kind.toNat
  let d := d.put F.NV_STATUS_PW_PASS 0
  if 4 < p then d.nvEnd 1
  else
    let pw := d.nvNat (256 + p) (8 * k) 8
    if pw = 0 then (d.put F.NV_STATUS_PW_PASS 1).nvEnd 0
    else if d.lockLeft p k ≠ 0 then d.nvEnd 5
    else
      let n := min 255 (d.nvNat (256 + p) (16 + k) 1 + 1)
      d.nvStart [⟨256 + p, d.recordPage p (16 + k) [byteOf n], false⟩] (.compare p k (leNat (d.nvBuf.take 8) == pw))

/-- PW_SET. -/
def Dev.pwSet (d : Dev) (p : Nat) (kind : Bool) : Dev :=
  if 4 < p then d.nvEnd 1
  else d.nvStart [⟨256 + p, d.recordPage p (8 * kind.toNat) (d.nvBuf.take 8), false⟩] .done

/-- MODE: COMPAT of partition 3 or 4, whose 256 pages become zeros. -/
def Dev.nvMode (d : Dev) (p : Nat) (compat : Bool) : Dev :=
  if p ≠ 3 ∧ p ≠ 4 then d.nvEnd 1
  else
    let m := putBit (d.nvNat (256 + p) 18 1) 0 compat
    d.nvStart (⟨256 + p, d.recordPage p 18 [byteOf m], false⟩ ::
      (List.range 256).map fun i => ⟨partBase p + i, zeroPage, false⟩) .done

/-- LOCK: the grants to hosts and the last pass are withdrawn. -/
def Dev.nvLock (d : Dev) : Dev :=
  ({ d with mgmt := { d.mgmt with grants := [] } }.put F.NV_STATUS_PW_PASS 0).nvEnd 0

/-- Bits of cells flip (log entry 16). -/
def Dev.nvFlip (d : Dev) (flips : List (BitVec 18 × BitVec 3)) : Dev :=
  d.each flips fun d (a, b) =>
    d.setNv fun n => { n with mem := Memory.set n.mem a.toNat (Memory.get n.mem a.toNat ^^^ byteOf (2 ^ b.toNat)) }

/-! ### Margin refresh and lock-out minutes (R380, R382) -/

/-- A page is margin-read: a weak one is rewritten; every 256 pages the pointer is saved. -/
def Dev.nvRefresh (d : Dev) (weak still : Bool) : Dev :=
  if !d.nvIdle || !d.on F.NV_CTRL_REFRESH_EN then d
  else
    let (p, queued) := match d.nv.refreshQ with
      | p :: _ => (p, true)
      | [] => (d.nv.refreshNext, false)
    let next := if queued then d.nv.refreshNext else (p + 1) % 4096
    let (d, data) := d.nvFetch p
    let d := d.setNv fun n => { n with powered := true, refreshNext := next, refreshQ := n.refreshQ.filter (· != p) }
    let own := fun (d : Dev) (l : List NvWrite) (a : NvAfter) =>
      ((d.setNv fun n => { n with op := some ⟨false, l, a⟩ }).put F.NV_STATUS_BUSY 1).nvSpan
    let save := if !queued ∧ next % 256 = 0 then [(⟨261, padPage (leBytes 2 next), false⟩ : NvWrite)] else []
    if weak || queued then own d (⟨p, data.getD (d.nvPage p), false⟩ :: save) (.refreshed p still)
    else if save.isEmpty then d
    else own d save .done

/-- A lock-out minute elapses: saved every 10 minutes and at 0. -/
def Dev.lockMinute (d : Dev) : Dev :=
  let due := d.nv.lock.filter fun (_, m) => decide (0 < m) && (m - 1) % 10 == 0
  (d.setNv fun n =>
    { n with lock := (n.lock.map fun (k, m) => (k, m - 1)).filter fun (_, m) => m != 0
             saves := (due.map (·.1 / 2)).foldl (fun l p => insertN p l) n.saves }).nvSave

/-! ### Recovery and records (R374, R376, R377) -/

/-- The header of journal entry `e`: TARGET, JSEQ, OLD_CRC; none when torn or never used. -/
def Dev.jrnlRead (d : Dev) (e : Nat) : Option (Nat × Nat × Nat) :=
  if Memory.get d.nv.mem (64 * (2 * e + 1)) ≠ 0x4A then none
  else
    let b := (d.nvPage (2 * e + 1)).take 14
    if crc16 b = d.nvNat (2 * e + 1) 14 2 then
      some (d.nvNat (2 * e + 1) 2 2, d.nvNat (2 * e + 1) 4 4, d.nvNat (2 * e + 1) 8 2)
    else none

def aheadN (a b : Nat) : Bool := ahead (BitVec.ofNat 32 a) (BitVec.ofNat 32 b)

/-- The entry of the last update begun. -/
def Dev.jrnlTop (d : Dev) : Option (Nat × Nat × Nat × Nat) :=
  (List.range 128).foldl (fun top e =>
    match d.jrnlRead e, top with
    | some (t, j, c), none => some (e, t, j, c)
    | some (t, j, c), some (_, _, j', _) => if aheadN j j' then some (e, t, j, c) else top
    | none, _ => top) none

def Dev.markerComplete (d : Dev) (e t j : Nat) : Bool :=
  let p := 2 * e + 1
  Memory.get d.nv.mem (64 * p + 16) == 0x4D && crc16 (((d.nvPage p).drop 16).take 14) == d.nvNat p 30 2 &&
    d.nvNat p 18 2 == t && d.nvNat p 20 4 == j

/-- Power-up recovery. -/
def Dev.nvRecover (d : Dev) : Dev :=
  match d.jrnlTop with
  | none => d.put F.NV_RECOVERY_ACTION 0
  | some (e, t, j, c) =>
    let d := d.setNv fun n => { n with jseq := j }
    if d.markerComplete e t j then d.put F.NV_RECOVERY_ACTION 0
    else
      let img := d.nvPage (2 * e)
      let d := d.put F.NV_RECOVERY_PAGE t
      if crc16 img ≠ c then (d.put F.NV_RECOVERY_ACTION 2).raise Ev.NV_JRNL_BAD
      else (((d.nvPut t 0 img).nvPut (2 * e + 1) 16 (jrnlMarker 2 t j)).put F.NV_RECOVERY_ACTION 1).raise Ev.NV_ROLLBACK

/-- A record: first data page, trailer page, bytes of its area, MAGIC. -/
structure NvRec where
  base : Nat
  trailer : Nat
  room : Nat
  magic : List Byte
  deriving DecidableEq, Repr

def calRec (i : Nat) : NvRec := ⟨288 + 32 * i, 319 + 32 * i, 31 * 64, [0x43, 0x41, 0x4C, 0x52]⟩
def ageRec (i : Nat) : NvRec := ⟨608 + 513 * i, 608 + 513 * i + 512, 32768, [0x41, 0x47, 0x45, 0x43]⟩
def pfRec : NvRec := ⟨280, 284, 256, [0x50, 0x46, 0x52, 0x43]⟩

def Dev.recData (d : Dev) (r : NvRec) : List Byte := Memory.read d.nv.mem (64 * r.base) (d.nvNat r.trailer 12 4)

/-- A record is valid (R376). -/
def Dev.recValid (d : Dev) (r : NvRec) : Bool :=
  Memory.read d.nv.mem (64 * r.trailer) 4 == r.magic && crc16 ((d.nvPage r.trailer).take 62) == d.nvNat r.trailer 62 2 &&
    decide (d.nvNat r.trailer 12 4 ≤ r.room) && crc32 (d.recData r) == d.nvNat r.trailer 8 4

def Dev.recSeq (d : Dev) (r : NvRec) : Nat := d.nvNat r.trailer 4 4

/-- The record in use among `n`, the tie flag and the next SEQ (R377). -/
def Dev.pick (d : Dev) (n : Nat) (f : Nat → NvRec) : Option Nat × Bool × Nat :=
  let (best, tie) := (List.range n).foldl (fun (a : Option Nat × Bool) i =>
    if !d.recValid (f i) then a
    else
      match a.1 with
      | none => (some i, false)
      | some b =>
        if aheadN (d.recSeq (f i)) (d.recSeq (f b)) then (some i, false)
        else if d.recSeq (f i) = d.recSeq (f b) ∧ d.recData (f i) ≠ d.recData (f b) then (a.1, true)
        else a) (none, false)
  (best, tie, match best with
    | some b => (d.recSeq (f b) + (if tie then 2 else 1)) % 2 ^ 32
    | none => 1)

/-- Recovery, selection, lock-out minutes and refresh pointer; then the store serves commands (R374, R377, R384). -/
def Dev.nvBegin (d : Dev) : Dev :=
  let d := d.nvRecover
  let (cal, calTie, calNext) := d.pick 2 calRec
  let (age, ageTie, ageNext) := d.pick 4 ageRec
  let pf := d.recValid pfRec
  let d := ((d.flag F.NV_SEL_CAL_VALID cal.isSome).put F.NV_SEL_CAL_COPY (cal.getD 0)).flag F.NV_SEL_CAL_TIE calTie
  let d := ((d.flag F.NV_SEL_AGE_VALID age.isSome).put F.NV_SEL_AGE_SLOT (age.getD 0)).flag F.NV_SEL_AGE_TIE ageTie
  let d := ((d.put F.NV_CAL_NEXT_SEQ calNext).put F.NV_AGE_NEXT_SEQ ageNext).flag F.NV_SEL_PF_VALID pf
  let d := (d.raiseIf (calTie || ageTie) Ev.NV_TIE).raiseIf pf Ev.NV_PF_RECORD
  let left := (List.range 10).map fun i => (i, d.nvNat (256 + i / 2) (20 + 2 * (i % 2)) 2)
  (d.put F.NV_STATUS_BUSY 0).setNv fun n =>
    { n with powered := true, recovered := true, lock := left.filter fun p => p.2 != 0, refreshNext := d.nvNat 261 0 2 % 4096 }

/-! ### Loss of power (R384) -/

/-- A program that is cut short leaves its bytes open: they take free values. -/
def Dev.nvTear (d : Dev) (a n : Nat) : Dev :=
  let (k, d) := d.fresh
  d.setNv fun s => { s with mem := Memory.write s.mem a ((List.range n).map (Config.freeByte k)) }

/-- The program in progress is cut short. -/
def Dev.nvCut (d : Dev) : Dev :=
  let e := d.nextJseq % 128
  match d.nvStage, d.nv.op with
  | 6, _ => d.each (d.nv.burst.getD []) fun d p => d.nvTear (64 * p.1) 64
  | 1, some _ => d.nvTear (128 * e) 64
  | 2, some _ => d.nvTear (128 * e + 64) 16
  | 3, some { todo := w :: _, .. } => d.nvTear (64 * w.page) 64
  | 4, some _ => d.nvTear (128 * e + 80) 16
  | 5, some { todo := w :: _, .. } => d.nvTear (64 * w.page) 64
  | _, _ => d

/-- Bytes of a log entry (Table 18.5). -/
def LogEntry.bytes (e : LogEntry) : List Byte :=
  leBytes 4 e.time ++ leBytes 4 e.lseq ++ leBytes 2 e.frame ++ leBytes 2 e.code ++ leBytes 2 e.detail ++
    [byteOf e.rep, byteOf (e.sev + 4 * e.level + 128 * e.origin)]

/-- The pages of the PF burst: the frozen log as the tail, and the trailer (Table 15.5). -/
def Dev.pfPages (d : Dev) : List (Nat × List Byte) :=
  let tail := d.log.entries.flatMap LogEntry.bytes
  let t := [0x50, 0x46, 0x52, 0x43] ++ leBytes 4 (d.nvNat 284 4 4 + 1) ++ leBytes 4 (crc32 tail) ++ leBytes 4 tail.length ++
    leBytes 4 (d.get F.CAL_SEC_SEC) ++ leBytes 4 (d.get F.FRAME_COUNT_FRAME) ++ leBytes 2 1 ++
    leBytes 2 d.log.entries.length ++ [byteOf (d.get F.PWR_STATE_STATE), byteOf (d.get F.FSEQ_STATUS_LADDER_LEVEL), 0, 0] ++
    leBytes 4 (d.rd R.PSEQ_STATUS) ++ leBytes 4 (d.rd R.BL_STATUS) ++ List.replicate 22 0
  (List.range 4).map (fun i => (280 + i, padPage (tail.drop (64 * i)))) ++ [(284, t ++ leBytes 2 (crc16 t))]

/-- PFAIL_N has been low for 2 µs: the store refuses commands, stops what may stop, and programs the PF burst. -/
def Dev.nvPfail (d : Dev) : Dev :=
  if d.nvStage = 6 ∨ d.nv.burst.isSome then d.setNv fun n => { n with refuse := true }
  else
    let d := d.setNv fun n => { n with refuse := true, burst := some d.pfPages }
    if d.nvStage = 3 ∨ d.nvStage = 4 then d
    else
      let d := d.nvCut
      let cmd := match d.nv.op with | some o => o.cmd | none => false
      let d := if cmd then (d.put F.NV_CMD_GO 0).nvReject 3 else d
      d.burstStart

/-- The refusal ends (R384). -/
def Dev.nvRelease (d : Dev) : Dev := (d.setNv fun n => { n with refuse := false }).nvSave

/-! ### Meanings -/

/-- NV_CMD_READ (R370, R371, R381): `flips` are the cell bits that have flipped before it. -/
def execNvCmdRead (count : BitVec 9) (flips : List (BitVec 18 × BitVec 3)) (s : State) : Host.Outcome State Fault Refusal :=
  .next (s.upd fun d => (d.nvFlip flips).nvCommand 1 count.toNat (d.get F.NV_CMD_PART) (d.on F.NV_CMD_KIND) (·.nvRead count.toNat))
/-- NV_CMD_UPDATE (R370 to R372). -/
def execNvCmdUpdate (count : BitVec 9) (s : State) : Host.Outcome State Fault Refusal :=
  .next (s.upd fun d => d.nvCommand 2 count.toNat (d.get F.NV_CMD_PART) (d.on F.NV_CMD_KIND) (·.nvWrite count.toNat false))
/-- NV_CMD_SLOT_WRITE (R370, R371, R379). -/
def execNvCmdSlotWrite (count : BitVec 9) (s : State) : Host.Outcome State Fault Refusal :=
  .next (s.upd fun d => d.nvCommand 3 count.toNat (d.get F.NV_CMD_PART) (d.on F.NV_CMD_KIND) (·.nvWrite count.toNat true))
/-- NV_CMD_PW_CHECK (R382). -/
def execNvCmdPwCheck (part : BitVec 4) (kind : Bool) (s : State) : Host.Outcome State Fault Refusal :=
  .next (s.upd fun d => d.nvCommand 4 (d.get F.NV_CMD_COUNT) part.toNat kind (·.pwCheck part.toNat kind))
/-- NV_CMD_PW_SET (R382). -/
def execNvCmdPwSet (part : BitVec 4) (kind : Bool) (s : State) : Host.Outcome State Fault Refusal :=
  .next (s.upd fun d => d.nvCommand 5 (d.get F.NV_CMD_COUNT) part.toNat kind (·.pwSet part.toNat kind))
/-- NV_CMD_MODE (R381). -/
def execNvCmdMode (part : BitVec 4) (compat : Bool) (s : State) : Host.Outcome State Fault Refusal :=
  .next (s.upd fun d => d.nvCommand 6 (d.get F.NV_CMD_COUNT) part.toNat compat (·.nvMode part.toNat compat))
/-- NV_CMD_CLEAR_PF (R370, R384). -/
def execNvCmdClearPf (s : State) : Host.Outcome State Fault Refusal :=
  .next (s.upd fun d => d.nvCommand 7 (d.get F.NV_CMD_COUNT) (d.get F.NV_CMD_PART) (d.on F.NV_CMD_KIND)
    (·.nvStart [⟨284, zeroPage, false⟩] .clearPf))
/-- NV_CMD_LOCK (R382). -/
def execNvCmdLock (s : State) : Host.Outcome State Fault Refusal :=
  .next (s.upd fun d => d.nvCommand 8 (d.get F.NV_CMD_COUNT) (d.get F.NV_CMD_PART) (d.on F.NV_CMD_KIND) (·.nvLock))
/-- NV_SPAN_GAP (R375). -/
def execNvSpanGap (s : State) : Host.Outcome State Fault Refusal := .next (s.upd (·.nvSpanGap))
/-- NV_MACRO_OFF (R369). -/
def execNvMacroOff (s : State) : Host.Outcome State Fault Refusal := .next (s.upd (·.nvOff))
/-- NV_REFRESH_TICK (R371, R380): `weak` says that a margin read differs, `still` that it does so after the rewrite. -/
def execNvRefreshTick (weak still : Bool) (s : State) : Host.Outcome State Fault Refusal := .next (s.upd (·.nvRefresh weak still))
/-- NV_LOCKOUT_MINUTE (R382). -/
def execNvLockoutMinute (s : State) : Host.Outcome State Fault Refusal := .next (s.upd (·.lockMinute))

end Sys2Proof.Machine
end

