-- ==== Sys2Proof/Machine/Calib.lean ====
section
/-! DEFINITION.  Statistical calibration (R253 to R267): the acceptance tests on a window's samples, the six
calibrations, and what an acceptance or a rejection leaves. -/

set_option Elab.async false

namespace Sys2Proof.Machine

/-! ### Acceptance tests (R254, R255) -/

/-- N × Σx² − (Σx)². -/
def spread (l : List Int) : Int := (l.length : Int) * sumI (l.map fun x => x * x) - sumI l * sumI l

/-- The variance test: sample variance at most `v` / `q`. -/
def varianceOk (l : List Int) (v q : Nat) : Bool := decide (spread l * q ≤ (v : Int) * (l.length * (l.length - 1)))

/-- Bin of a sample: bins of width `p` / `q` around `m`; none for an outlier. -/
def binOf (m : Int) (p q : Nat) (x : Int) : Option Nat :=
  let y := (x - m) * q + 8 * p
  if 0 ≤ y ∧ y < 16 * p then some (y.toNat / p) else none

/-- The bimodality test fails. -/
def bimodal (l : List Int) (m : Int) (p q : Nat) : Bool :=
  let n := l.length
  let hits := l.filterMap (binOf m p q)
  let c := (List.range 16).map fun i => hits.count i
  decide (n < 16 * (n - hits.length)) ||
  (List.range 16).any fun i => (List.range 16).any fun k => (List.range 16).any fun j =>
    decide (i < j ∧ j < k) && decide (n ≤ 8 * nth c i) && decide (n ≤ 8 * nth c k) &&
    decide (4 * nth c j ≤ min (nth c i) (nth c k))

/-! ### Acceptance and rejection (R256, R266) -/

def calKey (c inst : Nat) : Nat := 4096 * c + inst
def Dev.consecOf (d : Dev) (c inst : Nat) : Nat := (assoc (calKey c inst) d.cal.consec).getD 0

/-- The count of an instance, and the largest count of its calibration. -/
def Dev.setConsec (d : Dev) (c inst n : Nat) : Dev :=
  let d := { d with cal := { d.cal with consec := assocSet (calKey c inst) n d.cal.consec } }
  d.put F.CAL_STATUS_MAX_CONSEC ((d.cal.consec.filter fun p => p.1 / 4096 == c).foldl (fun a p => max a p.2) 0) c

/-- CAL_REJECT with its calibration, instance, reason and count (Tables 10.3, 10.6). -/
def Dev.calShow (d : Dev) (c inst reason n : Nat) : Dev :=
  let d := ((d.put F.CAL_REJ_STATUS_CONSEC n).put F.CAL_REJ_STATUS_REASON reason).put F.CAL_REJ_STATUS_CALIB c
  (d.put F.CAL_REJ_STATUS_INSTANCE inst).raise Ev.CAL_REJECT

/-- A window is rejected (R256; Table 10.3). -/
def Dev.calReject (d : Dev) (c inst reason : Nat) : Dev :=
  let old := d.consecOf c inst
  let n := if reason = 1 then old else min 255 (old + 1)
  let d := (d.setConsec c inst n).calShow c inst reason n
  d.raiseIf (n == 16 && old == 15) Ev.CAL_FAULT

/-- A window is accepted (R256). -/
def Dev.calAccept (d : Dev) (c inst : Nat) : Dev := (d.setConsec c inst 0).inc F.CAL_STATUS_ACCEPTS c

/-- A result that lies more than `tol` from the stored one is marked for storage (R266). -/
def Dev.calMark (d : Dev) (c inst : Nat) (v dflt : Int) (tol : Nat) : Dev :=
  d.raiseIf (decide (tol < (v - (assoc (calKey c inst) d.cal.stored).getD dflt).natAbs)) Ev.CAL_STORE

/-- A calibration runs: enabled, in RUN or FALLOW (R265, Table 10.4). -/
def Dev.calRuns (d : Dev) (c : Nat) : Bool := bit (d.get F.CAL_CTRL_EN) c && decide (d.pwrState ≤ 1)

/-! ### Calibration 0: sink current-sense offset (R257) -/

/-- The off-segments of a period of `l` ticks, as lengths. -/
def offSegments (l : Nat) : Nat → List (Nat × Nat) → List Nat
  | t, [] => [l - t]
  | t, (a, n) :: rest => (a - t) :: offSegments l (a + n) rest

/-- A sink may give an offset sample: an off-segment of 2.0 µs (500 ticks of 4 ns) that no pin test has used, and none of the
faults set; a diagnostic pulse is one of the sink's segments (R257). -/
def Dev.ofsOk (d : Dev) (s : Nat) : Bool :=
  d.on F.SINK_CFG_EN s && !d.on F.SINK_STATUS_OFF s && !d.on F.SINK_STATUS_OPEN s && !d.on F.SINK_STATUS_PIN_SHORT s &&
  !d.on F.SINK_STATUS_DIAG_STALE s && decide ((d.sink s).tests < ((offSegments (d.periodTicks 4) 0 (d.sink s).segs).filter fun n => decide (500 ≤ n)).length)

/-- The offset sample of a sink in the period that ends: at most one (R257). -/
def Dev.ofsSample (d : Dev) (p : Nat × Int) : Dev :=
  let w := (assoc p.1 d.cal.ofs).getD []
  if d.ofsOk p.1 && decide (w.length < 1024) then
    { d with cal := { d.cal with ofs := assocSet p.1 (p.2 :: w) d.cal.ofs } }
  else d

/-- The first sample of each sink. -/
def firstOfs : List (Fin 128 × Int) → List Nat → List (Nat × Int)
  | [], _ => []
  | (s, x) :: rest, seen => if seen.contains s.val then firstOfs rest seen else (s.val, x) :: firstOfs rest (s.val :: seen)

/-- The offset window of a sink ends. -/
def Dev.ofsEnd (d : Dev) (s : Nat) (timeout : Bool) : Dev :=
  let w := (assoc s d.cal.ofs).getD []
  if w.length < 1024 && !timeout then d
  else
    let d := d.calEndSink s
    let m := medianI w
    if w.length < 1024 then d.calReject 0 s 1
    else if bimodal w m 2 1 then d.calReject 0 s 2
    else if !varianceOk w 16 1 then d.calReject 0 s 3
    else if m < -64 ∨ 63 < m then d.calReject 0 s 4
    else ((d.calAccept 0 s).put F.SINK_CAL_OFS (wrap 7 m) s).calMark 0 s m 0 2

/-! ### Calibration 1: sense gain (R258) -/

def Dev.gainCal (d : Dev) (b : Nat) : GainCal := (assoc b d.cal.gain).getD {}
def Dev.setGainCal (d : Dev) (b : Nat) (f : GainCal → GainCal) : Dev :=
  { d with cal := { d.cal with gain := assocSet b (f (d.gainCal b)) d.cal.gain } }

/-- Direct sinks, ICs of a boost, in rising order: the terms of its fit. -/
def Dev.fitSinks (d : Dev) (b : Nat) : List Nat := d.enSinks.filter fun s => d.get F.SINK_CFG_BOOST s == b
def Dev.fitIcs (d : Dev) (b : Nat) : List Nat := d.liveIcs.filter fun i => d.get F.ZB_MAP_BOOST i == b

/-- Commanded mean current in µA of a string with full-scale current `ifs` in 0.5 mA in a zone: I × on / L. -/
def Dev.meanCurrent (d : Dev) (ifs z : Nat) : Nat :=
  let l := d.periodTicks 4
  let (duty, level) := d.dutyOf z
  ifs * 500 * level * onTicks duty (d.get F.BL_STATUS_SCALE) l / (255 * l)

/-- The terms x of a boost in the period. -/
def Dev.fitTerms (d : Dev) (b : Nat) : List Nat :=
  (d.fitSinks b).map (fun s => if d.stringOn s then d.meanCurrent (d.sinkIfs s) (d.get F.SINK_CFG_ZONE s) else 0) ++
  (d.fitIcs b).map fun i =>
    if (d.ic i).outEn && d.on F.BL_CTRL_EN then
      sumN (((List.range 128).filter fun c => decide (d.get F.ZB_MAP_BASE i + c ≤ 4095)).map fun c =>
        d.meanCurrent (d.icIfs i) (d.get F.ZB_MAP_BASE i + c))
    else 0

/-- The delivered current y in µA: ETA × input power / V_OUT, both averaged over the period. -/
def Dev.fitY (d : Dev) (b pIn vMean : Nat) : Nat := d.get F.ETA_ETA b * pIn * 100 / (65536 * vMean)

/-- Element-wise sum; the shorter list counts as padded with 0. -/
def addL : List Nat → List Nat → List Nat
  | [], b => b
  | a, [] => a
  | x :: a, y :: b => (x + y) :: addL a b

/-- The sums of one more period. -/
def GainCal.add (g : GainCal) (x : List Nat) (y : Nat) : GainCal :=
  let row := fun (i : Nat) => x.map (· * nth x i)
  { g with count := g.count + 1, sumX := addL g.sumX x, sumY := g.sumY + y, sumXY := addL g.sumXY (x.map (· * y)),
           sumXX := (List.range x.length).map fun i => addL ((g.sumXX[i]?).getD []) (row i), prev := x }

/-- A period of a boost that has a string outside its regulation, or a latched fault of the boost, of a sink or of an IC, is
left out of a verification. -/
def Dev.leftOut (d : Dev) (b : Nat) (m : PwmSense) : Bool :=
  m.unreg.any (fun u => u.val == b) || d.on F.BOOST_FAULT_LATCHED b ||
  ((d.fitSinks b).any fun s => d.on F.SINK_STATUS_OPEN s || d.on F.SINK_STATUS_LED_SHORT s || d.on F.SINK_STATUS_PIN_SHORT s) ||
  (d.fitIcs b).any fun i => d.get F.ZB_IC_STATUS_FLAGS i &&& 0xF != 0

/-- The period that ends gives one sample of a boost (R258). -/
def Dev.gainSample (d : Dev) (m : PwmSense) (b : Nat) : Dev :=
  if !d.on F.BOOST_CFG_EN b then d
  else
    let x := d.fitTerms b
    let y := d.fitY b (nth m.pIn b) (nth m.vMean b)
    match (d.gainCal b).phase with
    | 0 => if (d.gainCal b).count < 4096 then d.setGainCal b fun g => g.add x y else d
    | 1 => d.setGainCal b fun g => { g with prev := x }
    | _ => d.setGainCal b fun g =>
        { g with prev := x, rows := if d.leftOut b m then g.rows else (g.prev, x, y) :: g.rows }

/-- 4,096 periods are summed (R258); a boost with more than 4 ICs cannot be fitted (Table 10.3, code 5). -/
def Dev.fitReady (d : Dev) (b : Nat) : Dev :=
  if (d.gainCal b).phase ≠ 0 ∨ (d.gainCal b).count < 4096 then d
  else if 4 < (d.fitIcs b).length then (d.calEndBoost b).calReject 1 b 5
  else (d.setGainCal b fun g => { g with phase := 1 }).raise Ev.CAL_FIT_READY

/-- SG_COMMIT: the candidates of a boost enter verification (R258). -/
def Dev.sgCommit (d : Dev) (b : Nat) : Dev :=
  if !d.calRuns 1 then d
  else
    let g := (d.fitSinks b).map (fun s => d.get F.SG_CAND_GAIN s) ++ (d.fitIcs b).map fun i => d.get F.SG_CAND_IC_GAIN i
    d.setGainCal b fun t => { t with phase := 2, g := g, rows := [] }

/-- Σ g · x of a period. -/
def dotN (g x : List Nat) : Nat := sumN ((g.zip x).map fun p => p.1 * p.2)

/-- Residual of a period in units of 2⁻¹⁵ µA. -/
def residual (g : List Nat) (r : List Nat × List Nat × Nat) : Int := (32768 * r.2.2 : Nat) - (dotN g r.2.1 : Nat)

/-- Excited periods: some term differs from the period before, and by at least 5 % of its window mean. -/
def excitedCount (rows : List (List Nat × List Nat × Nat)) : Nat :=
  let n := rows.length
  let tot := rows.foldl (fun a r => addL a r.2.1) []
  (rows.filter fun r => decide (r.1.length = r.2.1.length) && (List.range r.2.1.length).any fun i =>
    nth r.1 i != nth r.2.1 i && decide (nth tot i ≤ 20 * n * ((nth r.1 i - nth r.2.1 i) + (nth r.2.1 i - nth r.1 i)))).length

/-- A gain in Q1.15 lies in 0.90 to 1.10. -/
def gainInRange (g : Nat) : Bool := decide (9 * 32768 ≤ 10 * g) && decide (10 * g ≤ 11 * 32768)

/-- An accepted candidate: GAIN = 1 / g of each direct sink, LAST_IC_GAIN of each IC; RANGE is reported for an IC outside the
range, and the acceptance stands (R256, R258). -/
def Dev.gainApply (d : Dev) (b : Nat) (g : List Nat) : Dev :=
  let ss := d.fitSinks b
  let d := d.each (ss.zip g) fun d p =>
    let v := divRound (2 ^ 30) p.2
    (d.put F.SINK_CAL_GAIN v p.1).calMark 1 p.1 v 32768 163
  d.each (g.drop ss.length) fun d q =>
    let d := d.put F.CAL_STATUS_LAST_IC_GAIN ((clampI 0 255 (128 + divRoundI ((q : Int) - 32768) 64)).toNat) 1
    if gainInRange q then d else d.calShow 1 b 4 0

/-- The verification window of a boost ends (R258). -/
def Dev.gainEnd (d : Dev) (b : Nat) (timeout : Bool) : Dev :=
  let c := d.gainCal b
  let full := decide (1024 ≤ c.rows.length) && decide (256 ≤ excitedCount c.rows)
  if c.phase ≠ 2 || (!full && !timeout) then d
  else
    let d := d.calEndBoost b
    let r := c.rows.map (residual c.g)
    let n := c.rows.length
    let w := 32768 * sumN (c.rows.map (·.2.2))
    if !full then d.calReject 1 b 1
    else if bimodal r 0 w (200 * n) then d.calReject 1 b 2
    else if !varianceOk r (w * w) (10000 * n * n) then d.calReject 1 b 3
    else if (c.g.take (d.fitSinks b).length).any (fun g => !gainInRange g) then d.calReject 1 b 4
    else (d.calAccept 1 b).gainApply b c.g

/-- Candidates are missing 1 s after CAL_FIT_READY (Table 10.3, code 5). -/
def Dev.fitTimeout (d : Dev) (b : Nat) : Dev := if (d.gainCal b).phase = 1 then (d.calEndBoost b).calReject 1 b 5 else d

/-- The samples that the PWM period gives as it ends. -/
def Dev.calPeriod (d : Dev) (m : PwmSense) : Dev :=
  let d := if d.calRuns 0 then d.each (firstOfs m.offset []) Dev.ofsSample else d
  if d.calRuns 1 then d.each (List.range 16) fun d b => d.gainSample m b else d

/-! ### Calibration 2: temperature sensors (R259 to R261) -/

/-- Corrected reading of a sensor in 1/16 °C: a new offset takes effect at the next sample (R253, R261). -/
def Dev.tsRead (d : Dev) (i : Nat) : Int := (d.cal.tsNow[i]?).getD 0

/-- The sensors are read: RAW, the corrected readings, and the BL die temperature in °C, which may shut the backlight down
(R236, R261). -/
def Dev.tsConvert (d : Dev) (raw : List (BitVec 16)) : Dev :=
  let d := d.each (raw.zipIdx.take 9) fun d p => d.put F.TS_CAL_RAW p.1.toNat p.2
  let d := { d with cal := { d.cal with tsNow := (List.range 9).map fun i => d.getS F.TS_CAL_RAW i + d.getS F.TS_CAL_OFS i } }
  (d.put F.BL_DIE_TEMP (wrap 8 (clampI (-128) 127 ((d.tsRead 8).fdiv 16)))).dieHot (d.getS F.TS_CAL_RAW 8)

/-- TS_SAMPLE (R259). -/
def Dev.tsSample (d : Dev) (raw : List (BitVec 16)) : Dev :=
  if 9 ≠ raw.length || d.pwrState == 2 || d.pwrState == 3 then d
  else
    let d := d.tsConvert raw
    if d.calRuns 2 && decide (d.cal.ts.length < 1000) then
      { d with cal := { d.cal with ts := (raw.map fun x => x.toInt) :: d.cal.ts } }
    else d

/-- Readings of one sensor in the window. -/
def Dev.tsOf (d : Dev) (i : Nat) : List Int := d.cal.ts.map fun r => (r[i]?).getD 0

/-- N times the corrected mean of each sensor. -/
def Dev.tsMeans (d : Dev) : List Int :=
  (List.range 9).map fun i => sumI (d.tsOf i) + d.cal.ts.length * d.getS F.TS_CAL_OFS i

/-- The window is uniform (R259). -/
def Dev.tsUniform (d : Dev) : Bool :=
  let v := d.tsMeans
  let m := medianI v
  ((List.range 9).all fun i => varianceOk (d.tsOf i) 16 1) && v.all fun x => decide ((x - m).natAbs ≤ 8 * d.cal.ts.length)

/-- One sensor of a uniform window. -/
def Dev.tsJudge (d : Dev) (w : List Int) (i : Nat) (cand : Int) : Dev :=
  if bimodal w (medianI w) 2 1 then d.calReject 2 i 2
  else if cand < -48 ∨ 48 < cand then d.calReject 2 i 4
  else ((d.calAccept 2 i).put F.TS_CAL_OFS (wrap 8 cand) i).calMark 2 i cand 0 16

/-- A set of 16 anchor records shifts every offset, within the range of an offset (R260; log entry 87). -/
def Dev.anchorSet (d : Dev) (r : List Int) : Dev :=
  if !varianceOk r 576 1 then d.calReject 2 0 3
  else d.each (List.range 9) fun d i =>
    let o := clampI (-48) 48 (d.getS F.TS_CAL_OFS i + medianI r)
    (d.put F.TS_CAL_OFS (wrap 8 o) i).calMark 2 i o 0 16

/-- Anchor records join those kept; each 16 make a set, and the rest wait for the next one (R260). -/
def Dev.anchorAdd (d : Dev) (found : List Int) : Dev :=
  d.each found fun d r =>
    let l := d.cal.anchors ++ [r]
    if l.length < 16 then { d with cal := { d.cal with anchors := l } } else { d with cal := { d.cal with anchors := [] } }.anchorSet l

/-- The sensor window ends. -/
def Dev.tsEnd (d : Dev) (timeout : Bool) : Dev :=
  let n := d.cal.ts.length
  if n < 1000 && !timeout then d
  else
    let uniform := d.tsUniform
    let v := d.tsMeans
    let m := medianI v
    let ws := (List.range 9).map d.tsOf
    let cands := (List.range 9).map fun i => d.getS F.TS_CAL_OFS i + divRoundI (m - (v[i]?).getD 0) n
    let found := d.cal.anchorNow
    let d := { d with cal := { d.cal with ts := [], anchorNow := [] } }
    if n < 1000 then d.each (List.range 9) fun d i => d.calReject 2 i 1
    else if !uniform then d
    else
      (d.each (List.range 9) fun d i => d.tsJudge ((ws[i]?).getD []) i ((cands[i]?).getD 0)).anchorAdd found

/-- Mode register 4 of every channel is read; a transition of channel 7's high-temperature state in a running window is
an anchor reading (R260, R304). -/
def Dev.mr4Read (d : Dev) (reports : List Mr4Report) : Dev :=
  let was := d.on F.DRAM_CH_STATUS_HIGH_TEMP 7
  let d := d.mr4 reports
  if d.on F.DRAM_CH_STATUS_HIGH_TEMP 7 == was || !d.calRuns 2 || d.cal.ts.isEmpty then d
  else
    let r := medianI ((List.range 8).map d.tsRead) - d.getS F.DRAM_T_HI_T
    { d with cal := { d.cal with anchorNow := d.cal.anchorNow ++ [r] } }

/-! ### Calibrations 3 to 5 (R262 to R264) -/

/-- An equalizer step and its 2²⁰ symbols, on a lane in use of a trained port; 16 rejections in a row since the training stop
the lane (R262). -/
def Dev.eqStep (d : Dev) (p l taps : Nat) (errors : Bool) : Dev :=
  let i := 4 * p + l
  if !d.calRuns 3 || !d.on F.RX_PORT_STATUS_TRAINED p || decide (d.laneCount p ≤ l) || d.cal.eqStopped.contains i then d
  else if errors then
    let run := (assoc i d.cal.eqRun).getD 0 + 1
    let d := d.calReject 3 i 6
    let d := { d with cal := { d.cal with eqRun := assocSet i run d.cal.eqRun } }
    if run < 16 then d
    else { d with cal := { d.cal with eqStopped := insertN i d.cal.eqStopped } }.raiseIf (d.consecOf 3 i != 16) Ev.CAL_FAULT
  else { d with cal := { d.cal with taps := assocSet i taps d.cal.taps, eqRun := assocDel i d.cal.eqRun } }.calAccept 3 i

/-- Neighbouring settings: one field changed by one step. -/
def nextTo (a b c e : Nat) : Bool :=
  (a == c && (b == e + 1 || e == b + 1)) || (b == e && (a == c + 1 || c == a + 1))

/-- The next lane in turn for calibration 4: present, not failed. -/
def Dev.tuneLane (d : Dev) : Option Nat :=
  ((List.range 48).map fun k => (d.cal.tuneNext + k) % 48).find? fun l => d.lanePresent l && !d.laneFailed l

/-- The trial to apply: no pulses, the lower swing, then the lower de-emphasis. -/
def bestTrial (l : List (Nat × Nat)) : Option (Nat × Nat) :=
  l.foldl (fun a c => match a with
    | none => some c
    | some b => if c.2 < b.2 ∨ (c.2 = b.2 ∧ c.1 < b.1) then some c else some b) none

/-- COL_TUNE (R263), when the bursts of the lane in turn are over; a relock among them leaves its trial to the next turn:
pulses drawn by the current settings, and by the trials (DEEMPH, SWING, pulses). -/
def Dev.colTune (d : Dev) (now : Nat) (trials : List (Nat × Nat × Nat)) : Dev :=
  if !d.calRuns 4 || !d.on F.COL_CTRL_RETUNE_EN || d.trainState != 5 then d
  else match d.tuneLane with
  | none => d
  | some l =>
    let spoilt := d.cal.tuneSpoilt
    let d := { d with cal := { d.cal with tuneNext := if spoilt then l else (l + 1) % 48, tuneSpoilt := false } }
    if spoilt || now == 0 then d
    else
      let ts := trials.filter fun t => nextTo t.1 t.2.1 (d.get F.COL_LANE_DEEMPH l) (d.get F.COL_LANE_SWING l)
      match bestTrial ((ts.filter fun t => t.2.2 == 0).map fun t => (t.1, t.2.1)) with
      | some (e, w) => ((d.put F.COL_LANE_DEEMPH e l).put F.COL_LANE_SWING w l).calAccept 4 l
      | none => d.calReject 4 l 6

/-- A write of CAL_FW_REPORT (R264). -/
def Dev.calFwReport (d : Dev) (zone reason : Nat) : Dev := if reason = 4 ∨ reason = 7 then d.calReject 5 zone reason else d

/-- A write of CAL_CTRL: a cleared bit ends the running window (R265, Table 10.4). -/
def Dev.calEnWrite (d : Dev) (en : Nat) : Dev :=
  let d := d.put F.CAL_CTRL_EN en
  let keep := fun (c : Nat) => bit en c
  { d with cal := { d.cal with ofs := if keep 0 then d.cal.ofs else [], gain := if keep 1 then d.cal.gain else [],
                               ts := if keep 2 then d.cal.ts else [], anchorNow := if keep 2 then d.cal.anchorNow else [] } }

/-! ### Meanings -/

/-- PWM_PERIOD_START (R226): the calibrations take the samples of the period that ends, then the new period begins. -/
def execPwmPeriodStart (index : Fin 8) (sense : PwmSense) (s : State) : Host.Outcome State Fault Refusal :=
  .next (s.upd fun d => (d.calPeriod sense).blPeriod index sense)
/-- CAL_WINDOW_END (R254) of calibrations 0 to 2; `timeout` says that the time of Table 10.2 has run out. -/
def execCalWindowEnd (c : Fin 3) (inst : BitVec 12) (timeout : Bool) (s : State) : Host.Outcome State Fault Refusal :=
  .next (s.upd fun d => match c with
    | 0 => if d.calRuns 0 && decide (inst.toNat < 128) then d.ofsEnd inst.toNat timeout else d
    | 1 => if d.calRuns 1 && decide (inst.toNat < 16) then d.gainEnd inst.toNat timeout else d
    | 2 => if d.calRuns 2 then d.tsEnd timeout else d)
/-- CAL_FIT_READY (R258). -/
def execCalFitReady (b : Fin 16) (s : State) : Host.Outcome State Fault Refusal := .next (s.upd (·.fitReady b))
/-- SG_COMMIT (R258): a write of SG_COMMIT with GO. -/
def execSgCommit (b : Fin 16) (s : State) : Host.Outcome State Fault Refusal :=
  .next (s.upd fun d => d.viaDomain domBL (R.SG_COMMIT.at 0) (0x80000000 + b.val) (·.sgCommit b))
/-- CAL_FIT_TIMEOUT (R258). -/
def execCalFitTimeout (b : Fin 16) (s : State) : Host.Outcome State Fault Refusal := .next (s.upd (·.fitTimeout b))
/-- TS_SAMPLE (R259): raw readings of TS[0] to TS[8]. -/
def execTsSample (raw : List (BitVec 16)) (s : State) : Host.Outcome State Fault Refusal := .next (s.upd (·.tsSample raw))
/-- EQ_STEP (R262). -/
def execEqStep (port : Fin 2) (lane : Fin 4) (taps : Nat) (errors : Bool) (s : State) : Host.Outcome State Fault Refusal :=
  .next (s.upd (·.eqStep port lane taps errors))
/-- COL_TUNE (R263). -/
def execColTune (now : Nat) (trials : List (BitVec 2 × BitVec 2 × Nat)) (s : State) : Host.Outcome State Fault Refusal :=
  .next (s.upd (·.colTune now (trials.map fun t => (t.1.toNat, t.2.1.toNat, t.2.2))))
/-- CAL_FW_REPORT (R264). -/
def execCalFwReport (zone : BitVec 12) (reason : BitVec 4) (s : State) : Host.Outcome State Fault Refusal :=
  .next (s.upd (·.calFwReport zone.toNat reason.toNat))
/-- CAL_EN_WRITE (R267). -/
def execCalEnWrite (en : BitVec 6) (s : State) : Host.Outcome State Fault Refusal := .next (s.upd (·.calEnWrite en.toNat))
/-- MR4_READ (R304). -/
def execMr4Read (reports : List Mr4Report) (s : State) : Host.Outcome State Fault Refusal := .next (s.upd (·.mr4Read reports))

end Sys2Proof.Machine
end

