-- ==== Sys2Proof/Machine/DaleExt.lean ====
section
/-! DEFINITION.  The Dale extension (R193 to R203): encodings, packed and bit-field arithmetic, table and histogram
reads, DMA, events, fences and job end; and the CSRs of a dale. -/

set_option Elab.async false

namespace Sys2Proof.Machine

/-! ### Arithmetic (R195 to R198) -/

/-- A 16-bit lane-wise operation. -/
def lanes (f : Nat → Nat → Nat) (a b : Word) : Word :=
  BitVec.ofNat 32 (f (bits a.toNat 15 0) (bits b.toNat 15 0) % 65536 + 65536 * (f (bits a.toNat 31 16) (bits b.toNat 31 16) % 65536))

/-- Saturating signed and unsigned sums of 16-bit lanes. -/
def satS16 (x : Int) : Nat := wrap 16 (clampI (-32768) 32767 x)
def satU16 (x : Int) : Nat := clampN 65535 x

def paddS16 (a b : Word) : Word := lanes (fun x y => satS16 (sgn 16 x + sgn 16 y)) a b
def psubS16 (a b : Word) : Word := lanes (fun x y => satS16 (sgn 16 x - sgn 16 y)) a b
def paddU16 (a b : Word) : Word := lanes (fun x y => satU16 ((x : Int) + y)) a b
def psubU16 (a b : Word) : Word := lanes (fun x y => satU16 ((x : Int) - y)) a b

/-- Signed clamp to packed bounds; lo > hi gives hi. -/
def clampW (a b : Word) : Word :=
  BitVec.ofInt 32 (min (max a.toInt (sgn 16 (bits b.toNat 15 0))) (sgn 16 (bits b.toNat 31 16)))

/-- Leading zeros of a word that is not 0. -/
def clz32 (x : Nat) : Nat := 31 - Nat.log2 x

/-- Reciprocal estimate. -/
def rcpe (a : Word) : Word :=
  if a = 0 then 0xFFFFFFFF
  else
    let n := clz32 a.toNat
    let m := a.toNat * 2 ^ n / 65536
    let r := (0x80000000 + m / 2) / m
    BitVec.ofNat 32 (n * 65536 ||| min r 0xFFFF)

/-- Q-format multiply, round, saturate. -/
def qmulr (a b : Word) (q : Nat) : Word :=
  let p : Int := a.toInt * b.toInt
  let p := if q = 0 then p else (p + (2 ^ (q - 1) : Nat)).fdiv (2 ^ q : Nat)
  BitVec.ofInt 32 (clampI (-2147483648) 2147483647 p)

/-- Interpolation between two table entries. -/
def lutiWord (a b : Nat) (x s : Nat) : Word :=
  let f := x % 2 ^ s
  BitVec.ofInt 32 ((a : Int) + ((((b : Int) - a) * f + (2 ^ (s - 1) : Nat)).fdiv (2 ^ s : Nat)))

/-- Saturation at 2³² − 1. -/
def sat32 (x : Nat) : Word := BitVec.ofNat 32 (min x 0xFFFFFFFF)

/-- Bit-field extract and insert of width `w` at `lsb`. -/
def bfx (a : Word) (lsb w : Nat) (sg : Bool) : Word :=
  let v := bits a.toNat (lsb + w - 1) lsb
  if sg then sext w v else BitVec.ofNat 32 v
def bfi (rd a : Word) (lsb w : Nat) : Word := BitVec.ofNat 32 (putBits rd.toNat (lsb + w - 1) lsb (a.toNat % 2 ^ w))

/-! ### Encoding (R194, Table 8.4) -/

/-- An instruction of the Dale extension; register numbers below 32. -/
inductive DaleOp where
  | paddS16 (rd rs1 rs2 : Nat)
  | psubS16 (rd rs1 rs2 : Nat)
  | paddU16 (rd rs1 rs2 : Nat)
  | psubU16 (rd rs1 rs2 : Nat)
  | clamp (rd rs1 rs2 : Nat)
  | rcpe (rd rs1 : Nat)
  | qmulr (rd rs1 rs2 q : Nat)
  | luti (rd rs1 rs2 s : Nat)
  | hacc (rd rs1 rs3 : Nat)
  | haccw (rd rs1 rs2 rs3 : Nat)
  | bfx (rd rs1 lsb w : Nat) (sg : Bool)
  | bfi (rd rs1 lsb w : Nat)
  | dmaq (rd rs1 : Nat)
  | dmaw (rd rs1 : Nat)
  | jend (rs1 : Nat)
  | wfe (rd rs1 : Nat)
  | dfence (pred succ : Nat)
  | ffence (rd : Nat)
  deriving DecidableEq, Repr

/-- Operand values that the encoding admits (R194, R196, R198). -/
def DaleOp.valid : DaleOp → Bool
  | .luti _ _ _ s => decide (1 ≤ s)
  | .bfx _ _ lsb w _ => decide (lsb + w ≤ 32)
  | .bfi _ _ lsb w => decide (lsb + w ≤ 32)
  | _ => true

/-- funct3 0 of custom-0. -/
def dalePacked (f7 rd rs1 rs2 : Nat) : Option DaleOp :=
  match f7 with
  | 0 => some (.paddS16 rd rs1 rs2)
  | 1 => some (.psubS16 rd rs1 rs2)
  | 2 => some (.paddU16 rd rs1 rs2)
  | 3 => some (.psubU16 rd rs1 rs2)
  | 4 => some (.clamp rd rs1 rs2)
  | 5 => if rs2 = 0 then some (.rcpe rd rs1) else none
  | _ => none

/-- Decode a word of custom-0 or custom-1; none is an illegal instruction. -/
def daleDecode (w : Nat) : Option DaleOp :=
  let rd := bits w 11 7
  let rs1 := bits w 19 15
  let rs2 := bits w 24 20
  let f7 := bits w 31 25
  let imm := bits w 31 20
  let f3 := bits w 14 12
  let op : Option DaleOp :=
    if bits w 6 0 = 0x0B then
      match f3 with
      | 0 => dalePacked f7 rd rs1 rs2
      | 1 => if f7 < 32 then some (.qmulr rd rs1 rs2 f7) else none
      | 2 => if f7 < 16 then some (.luti rd rs1 rs2 f7) else none
      | 3 => match bits w 26 25 with
        | 0 => if rs2 = 0 then some (.hacc rd rs1 (bits w 31 27)) else none
        | 1 => some (.haccw rd rs1 rs2 (bits w 31 27))
        | _ => none
      | 4 => if bit imm 11 then none else some (.bfx rd rs1 (bits imm 4 0) (bits imm 9 5 + 1) (bit imm 10))
      | 5 => if bits imm 11 10 ≠ 0 then none else some (.bfi rd rs1 (bits imm 4 0) (bits imm 9 5 + 1))
      | _ => none
    else
      match f3 with
      | 0 => if f7 = 0 ∧ rs2 = 0 then some (.dmaq rd rs1) else none
      | 1 => if f7 = 0 ∧ rs2 = 0 then some (.dmaw rd rs1) else none
      | 2 => if f7 = 0 ∧ rs2 = 0 ∧ rd = 0 then some (.jend rs1) else none
      | 3 => if f7 = 0 ∧ rs2 = 0 then some (.wfe rd rs1) else none
      | 4 => if rd = 0 ∧ rs1 = 0 ∧ bits imm 11 10 = 0 then some (.dfence (bits imm 9 5) (bits imm 4 0)) else none
      | 5 => if rs1 = 0 ∧ imm = 0 then some (.ffence rd) else none
      | _ => none
  op.filter DaleOp.valid

/-! ### CSRs (R187, R193) -/

/-- misa of a dale: RV32IMC. -/
def daleMisa : Word := 0x40001104

/-- A machine CSR of any hart; none is not there. -/
def hartCsrRead (core : Nat) (misa : Word) (h : Hart) (n : Nat) : Option Word :=
  if n = 0x300 then some (h.csrWord n ||| 0x1800)
  else if csrPlain n then some (h.csrWord n)
  else if csrZero n then some 0
  else if csrIdent n then some (Config.identCsr core n)
  else if n = 0x301 then some misa
  else none

/-- A write of a machine CSR. -/
def hartCsrWrite (h : Hart) (n : Nat) (v : Word) : Hart := if csrPlain n then h.setCsr n (csrLegal n v) else h

/-- Dale cycles until the next latch point, from the raster line count (DLEFT). -/
def Dev.dleft (d : Dev) : Nat :=
  let vt := max 1 (d.get F.RASTER_V_V_TOTAL)
  let l := d.get F.LATCH_CTRL_LATCH_LINE
  let va := d.get F.RASTER_V_V_ACTIVE
  let ll := min (max (if l = 0 then va else l) va) (vt - d.get F.LATCH_CTRL_PREFETCH_LINES - 1)
  let lines := (ll + vt - d.get F.SCAN_POS_LINE - 1) % vt + 1
  let khz := if d.pwr.dale800 then 800000 else 600000
  min 0xFFFFFFFF (lines * d.get F.RASTER_H_H_TOTAL * khz / (8 * d.get F.PIPE_CLK_FREQ))

/-- A CSR as a dale reads it (Table 8.3). -/
def Dev.daleCsr (d : Dev) (k n : Nat) : Option Word :=
  let s := d.dale k
  match n with
  | 0xFC0 => some (match s.job with | some j => BitVec.ofNat 32 (0x80000000 + j.type * 65536 + j.zone) | none => 0)
  | 0xFC1 => some (BitVec.ofNat 32 (d.get F.FRAME_COUNT_FRAME))
  | 0xFC2 => some (BitVec.ofNat 32 (0x3FC00 + 256 * (k % 4)))
  | 0xFC3 => some (match s.job with
    | some j => if d.on F.JOB_CFG_READS_STAT j.type then
        BitVec.ofNat 32 (0x10000000 + d.statSide (d.get F.STAT_STATUS_READ_SIDE) + 272 * j.zone) else 0
    | none => 0)
  | 0xFC4 => some (BitVec.ofNat 32 (k / 4 * 256 + k))
  | 0xFC5 => some (BitVec.ofNat 32 d.dleft)
  | 0xFC6 => some (match s.job with | some j => BitVec.ofNat 32 (j.cap - j.cycles) | none => 0xFFFFFFFF)
  | 0xFC7 => some (BitVec.ofNat 32 (s.dma.foldl (fun a q => putBit a (24 + q.tag) true)
      (s.dmaErr.foldl (fun a e => a ||| e.2 * 2 ^ (3 * e.1)) 0)))
  | 0x7C0 => some (s.hart.csrWord n)
  | 0x7C1 => some (s.hart.csrWord n)
  | n => hartCsrRead k daleMisa s.hart n

/-- A CSR write of a dale; writing 0 to a bit of DLSSTAT clears it. -/
def daleCsrWrite (h : Hart) (n : Nat) (v : Word) : Hart :=
  if n = 0x7C0 then h.setCsr n (v &&& 7)
  else if n = 0x7C1 then h.setCsr n (h.csrWord n &&& v)
  else hartCsrWrite h n v

/-- A refused or failed store is recorded in DLSSTAT; a posted one that lost a collision or failed in another way latches
event COLLIDE too (R190, R192, R473). -/
def Dev.dlsstat (d : Dev) (k bitNo : Nat) (word : Option Nat) : Dev :=
  let d := d.setDale k fun s =>
    let v := putBit (s.hart.csrWord 0x7C1).toNat bitNo true
    { s with hart := s.hart.setCsr 0x7C1 (BitVec.ofNat 32 (match word with | some w => putBits v 27 8 w | none => v)) }
  if bitNo = 1 then d else d.daleEvent k 3

/-! ### Execution -/

/-- The dale executes instructions: a job that is not merging, or service code, in a glen that is ON. -/
def Dev.daleRuns (d : Dev) (k : Nat) : Bool :=
  let s := d.dale k
  d.domOn (daleDomain k) && (s.service || (match s.job with | some j => !j.merging | none => false))

/-- A register of a dale. -/
def Dev.daleReg (d : Dev) (k i : Nat) : Word := (d.dale k).hart.reg i

/-- An instruction of `len` bytes is complete with a result for `rd`; minstret counts it. -/
def Dev.daleDone (d : Dev) (k len rd : Nat) (v : Word) : Dev :=
  d.setDale k fun s =>
    { s with hart := ((s.hart.setReg rd v).advance len).retire }

/-- An uncorrectable word in an access of a dale: a hardware fault of the job, in SERVICE a trap with the access's own
exception (R188, R213). -/
def Dev.daleUncorr (d : Dev) (k exc : Nat) (tval : Word) : Dev :=
  if (d.dale k).job.isSome then d.jobFault k 8 else d.daleTrap k exc tval

/-- A read of `n` bytes of the glen's memories by a dale, which `f` completes with the bytes; `ecc` is an error that strikes
its first word (R188). -/
def Dev.daleRead (d : Dev) (k a n ecc : Nat) (exc : Nat := excLoadFault) (f : Dev → List Byte → Dev) : Dev :=
  let (d, bad) := (d.glenUpset k a ecc).glenMeet k a n
  if bad then d.daleUncorr k exc (BitVec.ofNat 32 a) else f d (d.localRead k a n)

/-- An address range in DMEM or glen shared memory. -/
def inDmemOrShared (a n : Nat) : Bool := dmaLocal a n

/-- LUTI (R196). -/
def Dev.luti (d : Dev) (k rd rs1 rs2 s ecc : Nat) : Dev :=
  let a := (d.daleReg k rs1).toNat
  let x := (d.daleReg k rs2).toNat % 65536
  let i := x / 2 ^ s
  if a % 2 ≠ 0 ∨ ¬ inDmemOrShared a 2 ∨ ¬ inDmemOrShared (a + 2 * i) 4 then d.daleTrap k excLoadFault (BitVec.ofNat 32 a)
  else d.daleRead k (a + 2 * i) 4 ecc (f := fun d bs => d.daleDone k 4 rd (lutiWord (leNat (bs.take 2)) (leNat (bs.drop 2)) x s))

/-- HACC and HACCW: four bins at a 16-byte-aligned address of DMEM, glen shared memory or the line store, read as one word
(R197, R272); `weight` is rs2[5:0] of the weighted form. -/
def Dev.hacc (d : Dev) (k rd rs1 rs3 : Nat) (weight : Option Nat) (ecc : Nat) : Dev :=
  let a := (d.daleReg k rs1).toNat
  let fault := fun (d : Dev) => d.daleTrap k excLoadFault (BitVec.ofNat 32 a)
  let done := fun (d : Dev) (bs : List Byte) =>
    let terms := (List.range 4).map fun j =>
      let v := leNat ((bs.drop (4 * j)).take 4)
      match weight with | some w => v * (w + j) | none => v
    d.daleDone k 4 rd (sat32 ((d.daleReg k rs3).toNat + sumN terms))
  if a % 16 ≠ 0 then fault d
  else if inDmemOrShared a 16 then d.daleRead k a 16 ecc (f := done)
  else if 0x10000000 ≤ a ∧ a < 0x11000000 then
    if !d.domOn domLS then d.startWake domLS
    else
      let (d, st, bs) := d.lsReadWord (dalePort k) ((a - 0x10000000) / 16) 0 16
      if st = LsStatus.ok then done d bs else fault d
  else fault d

/-- DMAQ (R199): the lowest free tag takes the descriptor; with 8 busy tags it stalls. -/
def Dev.dmaq (d : Dev) (k rd rs1 ecc : Nat) : Dev :=
  let a := (d.daleReg k rs1).toNat
  if a % 4 ≠ 0 ∨ ¬ inDmemOrShared a 16 then d.daleTrap k excLoadFault (BitVec.ofNat 32 a)
  else
    match firstIdx 8 fun t => (d.dale k).dma.all fun q => q.tag != t with
    | none => d
    | some t => d.daleRead k a 16 ecc (f := fun d bs =>
        let u := fun o => leNat ((bs.drop o).take 4)
        let q : DmaReq := ⟨t, u 0, u 4, u 8, u 12, (d.dale k).job.isSome⟩
        ((d.setDale k fun s => { s with dma := s.dma ++ [q], dmaErr := assocDel t s.dmaErr }).dmaStart (k / 4)).daleDone k 4 rd
          (BitVec.ofNat 32 t))

/-- DMAW (R199): it stalls until every named tag has completed. -/
def Dev.dmaw (d : Dev) (k rd rs1 : Nat) : Dev :=
  let m := (d.daleReg k rs1).toNat % 256
  if (d.dale k).dma.any fun q => bit m q.tag then d
  else d.daleDone k 4 rd (BitVec.ofNat 32 (maskOf 8 fun t => bit m t && (assoc t (d.dale k).dmaErr).isSome))

/-- Posted stores of the dale that a waking domain still stalls. -/
def Dev.storesWait (d : Dev) (k : Nat) : Bool := d.pwr.stalled.any fun a => a.master == .dale k && a.write

/-- JEND (R203): after the job's stores and the transfers that it queued, the merge starts, or the job is abandoned. -/
def Dev.jend (d : Dev) (k rs1 : Nat) : Dev :=
  if (d.dale k).job.isNone then d.daleTrap k excIllegal 0
  else if d.storesWait k || (d.dale k).dma.any (·.mine) then d
  else
    let v := (d.daleReg k rs1).toNat
    if v = 0 then d.setDale k fun s => { s with job := s.job.map fun j => { j with merging := true } }
    else (d.setDale k fun s => { s with abandonCode := v % 256 }).jobFault k 6

/-- WFE (R200): the enabled pending events go to rd and clear; with none pending it stalls. -/
def Dev.wfe (d : Dev) (k rd rs1 : Nat) : Dev :=
  let m := (d.daleReg k rs1).toNat
  let e := (d.dale k).events &&& m
  if m = 0 then d.daleDone k 4 rd 0
  else if e = 0 then d
  else (d.setDale k fun s => { s with events := s.events ^^^ e }).daleDone k 4 rd (BitVec.ofNat 32 e)

/-- DFENCE (R201): D in pred waits for the queued transfers, any other kind for the dale's stores. -/
def Dev.dfence (d : Dev) (k pred : Nat) : Dev :=
  if bit pred 4 && !(d.dale k).dma.isEmpty || (bit pred 0 || bit pred 2) && d.storesWait k then d
  else d.daleDone k 4 0 0

/-- FFENCE (R202): every earlier access completes, then it stalls until the next latch point. -/
def Dev.ffence (d : Dev) (k rd : Nat) : Dev :=
  if (d.dale k).job.isSome then d.daleTrap k excIllegal 0
  else
    match (d.dale k).ffence with
    | none => if d.storesWait k || !(d.dale k).dma.isEmpty then d else d.setDale k fun s => { s with ffence := some false }
    | some false => d
    | some true => (d.setDale k fun s => { s with ffence := none }).daleDone k 4 rd (BitVec.ofNat 32 (d.get F.FRAME_COUNT_FRAME))

/-- An instruction of the Dale extension at the program counter of a dale. -/
def Dev.daleExt (d : Dev) (k : Nat) (o : DaleOp) (ecc : Nat) : Dev :=
  let r := d.daleReg k
  let two := fun (rd : Nat) (v : Word) => d.daleDone k 4 rd v
  if !o.valid then d.daleTrap k excIllegal 0
  else match o with
    | .paddS16 rd a b => two rd (Machine.paddS16 (r a) (r b))
    | .psubS16 rd a b => two rd (Machine.psubS16 (r a) (r b))
    | .paddU16 rd a b => two rd (Machine.paddU16 (r a) (r b))
    | .psubU16 rd a b => two rd (Machine.psubU16 (r a) (r b))
    | .clamp rd a b => two rd (clampW (r a) (r b))
    | .rcpe rd a => two rd (Machine.rcpe (r a))
    | .qmulr rd a b q => two rd (Machine.qmulr (r a) (r b) q)
    | .luti rd a b s => d.luti k rd a b s ecc
    | .hacc rd a c => d.hacc k rd a c none ecc
    | .haccw rd a b c => d.hacc k rd a c (some ((r b).toNat % 64)) ecc
    | .bfx rd a lsb w sg => two rd (Machine.bfx (r a) lsb w sg)
    | .bfi rd a lsb w => two rd (Machine.bfi (r rd) (r a) lsb w)
    | .dmaq rd a => d.dmaq k rd a ecc
    | .dmaw rd a => d.dmaw k rd a
    | .jend a => d.jend k a
    | .wfe rd a => d.wfe k rd a
    | .dfence p _ => d.dfence k p
    | .ffence rd => d.ffence k rd

/-- A dale that runs takes `cyc` cycles over an instruction of the extension. -/
def Dev.daleIssue (d : Dev) (dale : Byte) (cyc : Nat) (o : DaleOp) (ecc : Nat := 0) : Dev :=
  if d.daleRuns dale.toNat then (d.daleTick dale.toNat cyc).daleExt dale.toNat o ecc else d

/-! ### Meanings -/

/-- PADD.S16 (R195). -/
def execPaddS16 (dale : Byte) (rd rs1 rs2 : Fin 32) (cyc : Nat) (s : State) : Host.Outcome State Fault Refusal :=
  .next (s.upd fun d => d.daleIssue dale cyc (.paddS16 rd rs1 rs2))
/-- PSUB.S16 (R195). -/
def execPsubS16 (dale : Byte) (rd rs1 rs2 : Fin 32) (cyc : Nat) (s : State) : Host.Outcome State Fault Refusal :=
  .next (s.upd fun d => d.daleIssue dale cyc (.psubS16 rd rs1 rs2))
/-- PADD.U16 (R195). -/
def execPaddU16 (dale : Byte) (rd rs1 rs2 : Fin 32) (cyc : Nat) (s : State) : Host.Outcome State Fault Refusal :=
  .next (s.upd fun d => d.daleIssue dale cyc (.paddU16 rd rs1 rs2))
/-- PSUB.U16 (R195). -/
def execPsubU16 (dale : Byte) (rd rs1 rs2 : Fin 32) (cyc : Nat) (s : State) : Host.Outcome State Fault Refusal :=
  .next (s.upd fun d => d.daleIssue dale cyc (.psubU16 rd rs1 rs2))
/-- CLAMP (R195). -/
def execClamp (dale : Byte) (rd rs1 rs2 : Fin 32) (cyc : Nat) (s : State) : Host.Outcome State Fault Refusal :=
  .next (s.upd fun d => d.daleIssue dale cyc (.clamp rd rs1 rs2))
/-- RCPE (R195). -/
def execRcpe (dale : Byte) (rd rs1 : Fin 32) (cyc : Nat) (s : State) : Host.Outcome State Fault Refusal :=
  .next (s.upd fun d => d.daleIssue dale cyc (.rcpe rd rs1))
/-- QMULR (R195). -/
def execQmulr (dale : Byte) (rd rs1 rs2 : Fin 32) (q : BitVec 5) (cyc : Nat) (s : State) : Host.Outcome State Fault Refusal :=
  .next (s.upd fun d => d.daleIssue dale cyc (.qmulr rd rs1 rs2 q.toNat))
/-- LUTI (R196); `sh` is its shift. -/
def execLuti (dale : Byte) (rd rs1 rs2 : Fin 32) (sh : BitVec 4) (cyc : Nat) (ecc : Fin 3) (s : State) :
    Host.Outcome State Fault Refusal := .next (s.upd fun d => d.daleIssue dale cyc (.luti rd rs1 rs2 sh.toNat) ecc)
/-- HACC (R197). -/
def execHacc (dale : Byte) (rd rs1 rs3 : Fin 32) (cyc : Nat) (ecc : Fin 3) (s : State) : Host.Outcome State Fault Refusal :=
  .next (s.upd fun d => d.daleIssue dale cyc (.hacc rd rs1 rs3) ecc)
/-- HACCW (R197). -/
def execHaccw (dale : Byte) (rd rs1 rs2 rs3 : Fin 32) (cyc : Nat) (ecc : Fin 3) (s : State) :
    Host.Outcome State Fault Refusal := .next (s.upd fun d => d.daleIssue dale cyc (.haccw rd rs1 rs2 rs3) ecc)
/-- BFX (R198): the width is `width1` + 1. -/
def execBfx (dale : Byte) (rd rs1 : Fin 32) (lsb width1 : BitVec 5) (sg : Bool) (cyc : Nat) (s : State) :
    Host.Outcome State Fault Refusal :=
  .next (s.upd fun d => d.daleIssue dale cyc (.bfx rd rs1 lsb.toNat (width1.toNat + 1) sg))
/-- BFI (R198): the width is `width1` + 1. -/
def execBfi (dale : Byte) (rd rs1 : Fin 32) (lsb width1 : BitVec 5) (cyc : Nat) (s : State) :
    Host.Outcome State Fault Refusal :=
  .next (s.upd fun d => d.daleIssue dale cyc (.bfi rd rs1 lsb.toNat (width1.toNat + 1)))
/-- DMAQ (R199). -/
def execDmaq (dale : Byte) (rd rs1 : Fin 32) (cyc : Nat) (ecc : Fin 3) (s : State) : Host.Outcome State Fault Refusal :=
  .next (s.upd fun d => d.daleIssue dale cyc (.dmaq rd rs1) ecc)
/-- DMAW (R199). -/
def execDmaw (dale : Byte) (rd rs1 : Fin 32) (cyc : Nat) (s : State) : Host.Outcome State Fault Refusal :=
  .next (s.upd fun d => d.daleIssue dale cyc (.dmaw rd rs1))
/-- JEND (R203). -/
def execJend (dale : Byte) (rs1 : Fin 32) (cyc : Nat) (s : State) : Host.Outcome State Fault Refusal :=
  .next (s.upd fun d => d.daleIssue dale cyc (.jend rs1))
/-- WFE (R200). -/
def execWfe (dale : Byte) (rd rs1 : Fin 32) (cyc : Nat) (s : State) : Host.Outcome State Fault Refusal :=
  .next (s.upd fun d => d.daleIssue dale cyc (.wfe rd rs1))
/-- DFENCE (R201). -/
def execDfence (dale : Byte) (pred succ : BitVec 5) (cyc : Nat) (s : State) : Host.Outcome State Fault Refusal :=
  .next (s.upd fun d => d.daleIssue dale cyc (.dfence pred.toNat succ.toNat))
/-- FFENCE (R202). -/
def execFfence (dale : Byte) (rd : Fin 32) (cyc : Nat) (s : State) : Host.Outcome State Fault Refusal :=
  .next (s.upd fun d => d.daleIssue dale cyc (.ffence rd))

end Sys2Proof.Machine
end

