-- ==== Sys2Proof/Machine/Notice.lean ====
section
/-! DEFINITION.  The wall's notice broadcast (R338 to R341), and the meanings of the wall's commands. -/

set_option Elab.async false

namespace Sys2Proof.Machine

/-! ### Staging and forwarding (R339) -/

def Dev.updNotice (d : Dev) (f : NoticeIn → NoticeIn) : Dev := d.updWall fun w => { w with notice := w.notice.map f }

def Dev.stageAddr (d : Dev) : Nat := d.get F.NOTICE_STAGE_BASE * 64

/-- Where a parent finds the bytes it resends: its staging buffer, on the Almanac the source (R339). -/
def Dev.noticeStore (d : Dev) : Nat := if d.isAlmanac then d.get F.NOTICE_SRC_SRC * 64 else d.stageAddr

/-- Bytes [a, b) of a notice are sent on a port as NOTICE packets of at most 512 bytes; the last of them is the last sent. -/
def Dev.noticeSend (d : Dev) (p id total a b : Nat) : Dev :=
  if a < b ∧ (d.wp p).up then
    let last := a + (b - a - 1) / 512 * 512
    d.setWp p fun w => { w with notice := some ⟨id, total, d.noticeStore, a, b⟩ }.emit
      (noticeSyms id last total (d.dramPeek (d.noticeStore + last) (b - last)))
  else d

/-- NOTICE_DONE goes up once the own result and those of the downstream ports are in (R340). -/
def Dev.noticeTryDone (d : Dev) : Dev :=
  match d.wall.notice with
  | some n =>
    if n.own && !n.sent && d.wallDown.all n.done.contains then
      (d.updNotice fun n => { n with sent := true }).wallUp ⟨0x41, 0xFFFD, d.wallSrc, u2 n.id ++ u2 n.ready ++ u2 n.errors⟩
    else d
  | none => d

/-- The notice is READY, or in error with its code (Table 13.11). -/
def Dev.noticeResult (d : Dev) (err : Nat) : Dev :=
  let d := (d.put F.NOTICE_STATUS_ERR err).put F.NOTICE_STATUS_STATE (if err = 0 then 3 else 4)
  let d := d.updNotice fun n =>
    { n with own := true, ready := n.ready + (decide (err = 0)).toNat, errors := n.errors + (decide (err ≠ 0)).toNat }
  (d.raise (if err = 0 then Ev.NOTICE_READY else Ev.NOTICE_ERR)).noticeTryDone

/-- The plane that layer 7 neither shows nor is retiring (R339). -/
def Dev.noticePlane (d : Dev) : Nat :=
  let size := d.get F.NOTICE_PLANE_SIZE_MIB * 2 ^ 20
  let holds := fun (b a : Nat) => decide (d.planeAddr b ≤ a) && decide (a < d.planeAddr b + size)
  let busy := fun (b : Nat) =>
    (d.on F.LAYER_CTRL_EN 7 && holds b (d.get F.LAYER_BASE_BASE 7 * 64)) ||
    d.retiring.any fun r => r.layer == 7 && r.ranges.any fun g => holds b g.lo
  if busy 0 then 1 else 0

/-- The staged stream goes to codec queue 1: one descriptor, context 2, FIRST and LAST (R182, R339). -/
def Dev.noticeDecompress (d : Dev) (n : NoticeIn) : Dev :=
  let b := d.noticePlane
  let slot := d.get F.CODEC_Q_CFG_BASE 1 / 4 * 64 + d.codecTail 1 * 64
  let desc := leBytes 4 (2 * 16 + 64 + 128) ++ leBytes 4 0 ++ leBytes 8 d.stageAddr ++ leBytes 8 (d.planeAddr b) ++
    leBytes 4 n.total ++ leBytes 4 (d.get F.NOTICE_PLANE_SIZE_MIB * 2 ^ 20) ++ List.replicate 32 0
  let (d, _) := d.lsWrite 7 slot desc
  let d := (d.put F.CODEC_Q_TAIL_TAIL ((d.codecTail 1 + 1) % d.codecSlots 1) 1).put F.NOTICE_STATUS_STATE 2
  (d.updNotice fun n => { n with plane := b }).startWake domCODEC

/-- A NAK asks the parent for the first missing byte. -/
def Dev.noticeNak (d : Dev) (p : Nat) : Dev :=
  match d.wall.notice with
  | some n => d.wallSend p ⟨0x40, 0xFFFD, d.wallSrc, u2 n.id ++ u4 n.got⟩
  | none => d

/-- A packet with a new identifier abandons the notice in transfer. -/
def Dev.noticeBegin (d : Dev) (id total : Nat) : Dev :=
  let d := d.updWall fun w => { w with notice := some { id := id, total := total } }
  let d := ((d.put F.NOTICE_STATUS_ID id).put F.NOTICE_STATUS_STATE 1).put F.NOTICE_STATUS_ERR 0
  if d.get F.NOTICE_STAGE_SIZE_MIB * 2 ^ 20 < total then d.noticeResult 1 else d

/-- A packet's bytes stand in the staging buffer: what extends the prefix is forwarded, and TOTAL bytes are decompressed
(R339). -/
def Dev.noticeStaged (d : Dev) (n : NoticeIn) (top : Nat) : Dev :=
  let top := max n.got top
  let d := if d.wallForwards then d.each d.wallDown fun d q => d.noticeSend q n.id n.total n.got top else d
  let d := d.updNotice fun n => { n with got := top }
  if n.got < n.total ∧ n.total ≤ top then d.noticeDecompress n else d

/-- The write of a packet has ended, well or with an error; a packet that was not staged is asked for again, as a discarded
one is (R88, R339; log entry 79). -/
def Dev.noticeWritten (d : Dev) (k : NoticePkt) (ok : Bool) : Dev :=
  match d.wall.notice with
  | some n =>
    if n.id ≠ k.id ∨ d.get F.NOTICE_STATUS_STATE ≠ 1 then d
    else if ok then d.noticeStaged n (k.off + k.data.length) else d.noticeNak k.port
  | none => d

/-- A good packet is staged at OFFSET; a held write stalls the stream (R88, R339). -/
def Dev.noticeTake (d : Dev) (k : NoticePkt) : Dev :=
  match d.wall.notice with
  | some n =>
    if d.get F.NOTICE_STATUS_STATE ≠ 1 then d
    else if n.got < k.off then d.noticeNak k.port
    else
      match Dev.runChunks 7 4 .notice (chunksOf ⟨false, d.stageAddr + k.off⟩ k.data) d with
      | (d, .done) => d.noticeWritten k true
      | (d, .held) => d.updWall fun w => { w with noticeHeld := some k }
      | (d, .bad _ _) => d.noticeWritten k false
  | none => d

/-- A NOTICE packet from the upstream port (R339); it waits behind a held one. -/
def Dev.noticePacket (d : Dev) (k : NoticePkt) : Dev :=
  if !d.wallPortOn k.port || d.wallPortState k.port ≠ 2 then d
  else if d.wall.noticeHeld.isSome then d.updWall fun w => { w with noticeWait := w.noticeWait ++ [k] }
  else if !k.good then d.noticeNak k.port
  else
    let same := match d.wall.notice with | some n => n.id == k.id | none => false
    (if same then d else d.noticeBegin k.id k.total).noticeTake k

/-- The held write of the stream has ended: its packet, then those that waited, in their order (R88). -/
def Dev.noticeResume (d : Dev) (ok : Bool) : Dev :=
  match d.wall.noticeHeld with
  | some k =>
    let l := d.wall.noticeWait
    let d := d.updWall fun w => { w with noticeHeld := none, noticeWait := [] }
    (d.noticeWritten k ok).each l Dev.noticePacket
  | none => d

/-- A child asks again (R339). -/
def Dev.noticeAgain (d : Dev) (p id off : Nat) : Dev :=
  match d.wall.notice with
  | some n => if n.id = id ∧ d.wallPortState p = 3 then d.noticeSend p n.id n.total off n.got else d
  | none => d

/-- NOTICE_DONE of a child (R340). -/
def Dev.noticeDoneRx (d : Dev) (p id ready errors : Nat) : Dev :=
  match d.wall.notice with
  | some n =>
    if n.id ≠ id ∨ n.done.contains p then d
    else (d.updNotice fun n => { n with ready := n.ready + ready, errors := n.errors + errors, done := insertN p n.done }).noticeTryDone
  | none => d

/-- NOTICE_TX.GO on the Almanac: the stream leaves on every downstream port, and GO clears (R339). -/
def Dev.noticeTx (d : Dev) (id : Nat) : Dev :=
  let d := d.put F.NOTICE_TX_ID id
  if !d.isAlmanac then d
  else
    let total := d.get F.NOTICE_LEN_LEN
    let d := d.updWall fun w => { w with notice := some { id := id, total := total, got := total, own := true, sent := true } }
    (d.each d.wallDown fun d p => d.noticeSend p id total 0 total).put F.NOTICE_TX_GO 0

/-- The check of a decompressed notice (R340): `p` is how its descriptor ended. -/
def Dev.noticeCheck (d : Dev) (p : CodecProg) : Dev :=
  match d.wall.notice with
  | some n =>
    if d.get F.NOTICE_STATUS_STATE ≠ 2 then d
    else if p.outFull then d.noticeResult 1
    else if p.err ≠ 0 ∨ !p.ended then d.noticeResult 2
    else d.noticeResult (d.noticeError (d.noticeHead n.plane))
  | none => d

/-- DESC_DONE, and on queue 1 the check of the notice that it decompressed. -/
def Dev.descDone (d : Dev) (q : Nat) : Dev :=
  match assoc q d.codec.prog with
  | some p => if p.fin then (if q = 1 then (d.codecDescDone q).noticeCheck p else d.codecDescDone q) else d
  | none => d

/-! ### Meanings -/

/-- DESC_DONE (R184, R340). -/
def execDescDone (q : Fin 2) (s : State) : Host.Outcome State Fault Refusal := .next (s.upd (·.descDone q))

/-- Signal is detected on a port: it trains until it is up; in VIGIL and DORMANT it is a wake source (R317, Table 14.10). -/
def Dev.wallSignal (d : Dev) (p : Nat) : Dev :=
  if d.pwrState = 2 ∨ d.pwrState = 3 then d.latchWake 5 p
  else if d.wallPortOn p then
    let d := d.setWp p fun w => { w with signal := true }
    (if (d.wp p).up then d else d.sendTrainSet p).showWall
  else d

/-- WALL_SIGNAL_DETECT (R317). -/
def execWallSignalDetect (p : Fin 4) (s : State) : Host.Outcome State Fault Refusal := .next (s.upd (·.wallSignal p))
/-- TS_RECEIVED (R317). -/
def execTsReceived (p : Fin 4) (ts : TrainSet) (s : State) : Host.Outcome State Fault Refusal :=
  .next (s.upd (·.trainSet p ts))
/-- WALL_COMMA_TIMEOUT (R317): `errors` symbol errors have been counted. -/
def execWallCommaTimeout (p : Fin 4) (errors : Nat) (s : State) : Host.Outcome State Fault Refusal :=
  .next (s.upd fun d => if d.wallPortOn p then (d.inc F.WALL_PORT_ERR_COUNT p errors).wallPortDown p else d)
/-- BEACON_TX (R322): `now` is the wall time at the timing mark, `fsTime` that of the next frame start. -/
def execBeaconTx (now : BitVec 64) (fsTime : BitVec 32) (s : State) : Host.Outcome State Fault Refusal :=
  .next (s.upd (·.beaconTx now.toNat fsTime.toNat))
/-- DREQ_TX (R322). -/
def execDreqTx (now : BitVec 64) (s : State) : Host.Outcome State Fault Refusal := .next (s.upd (·.dreqTx now.toNat))
/-- DREQ_RX (R331). -/
def execDreqRx (p : Fin 4) (child : Bool) (t1 : BitVec 32) (seq : Byte) (t2 : BitVec 32) (t3 : BitVec 32) (s : State) :
    Host.Outcome State Fault Refusal := .next (s.upd (·.dreqRx p child t1.toNat seq.toNat t2.toNat t3.toNat))
/-- DRSP_RX (R331). -/
def execDrspRx (p : Fin 4) (t1 : BitVec 32) (t2 : BitVec 32) (t3 : BitVec 32) (seq : Byte) (t4 : BitVec 32) (s : State) :
    Host.Outcome State Fault Refusal := .next (s.upd (·.drspRx p t1.toNat t2.toNat t3.toNat seq.toNat t4.toNat))
/-- UPSTREAM_TIMEOUT (R322). -/
def execUpstreamTimeout (s : State) : Host.Outcome State Fault Refusal := .next (s.upd (·.upstreamTimeout))
/-- ALMANAC_LOST (R332, R333). -/
def execAlmanacLost (s : State) : Host.Outcome State Fault Refusal := .next (s.upd (·.almanacLost))

/-- A LAK releases its packet, and one that waited leaves (R320). -/
def Dev.lakRx (d : Dev) (p l : Nat) : Dev :=
  if (d.wp p).unacked.any (fun u => u.1 == l) then
    d.setWp p fun w => WPort.pump 8 { w with unacked := w.unacked.filter (fun u => u.1 != l), resent := 0 }
  else d

/-- 20 µs without the LAK of the oldest packet: it is resent; the fourth time the port goes down (R317, R320). -/
def Dev.cmdResend (d : Dev) (p : Nat) : Dev :=
  if (d.wp p).unacked.isEmpty then d
  else
    let d := d.setWp p fun w => { w with resent := w.resent + 1 }
    if 4 ≤ (d.wp p).resent then d.wallPortDown p
    else match (d.wp p).unacked with
      | (l, c) :: _ => d.setWp p fun w => w.emit (cmdSyms l c)
      | [] => d

/-- LAK_RX (R320). -/
def execLakRx (p : Fin 4) (lseq : Byte) (s : State) : Host.Outcome State Fault Refusal := .next (s.upd (·.lakRx p lseq.toNat))
/-- CMD_RESEND (R320). -/
def execCmdResend (p : Fin 4) (s : State) : Host.Outcome State Fault Refusal := .next (s.upd (·.cmdResend p))

/-- JOIN on its way up leaves the path of its ASSIGN (R315). -/
def Dev.joinRx (d : Dev) (p : Nat) (h : WallHdr) (id req cur : Nat) : Dev :=
  let w := d.wp p
  let taken := d.wallPortOn p && w.up && !w.fenced && !w.seen.contains h.lseq.toNat && !wallReserved h.dst.toNat && !wallReserved h.src.toNat
  let d := d.cmdRx p h 0x01 (leBytes 8 id ++ u2 req ++ u2 cur) fun d => d.joinAt p id req cur
  if taken then d.updWall fun w => { w with paths := assocSet id p w.paths } else d

/-- JOIN (R315, R326). -/
def execJoin (p : Fin 4) (h : WallHdr) (id : BitVec 64) (req : BitVec 16) (cur : BitVec 16) (s : State) :
    Host.Outcome State Fault Refusal := .next (s.upd (·.joinRx p h id.toNat req.toNat cur.toNat))
/-- ASSIGN (R315). -/
def execAssign (p : Fin 4) (h : WallHdr) (id : BitVec 64) (addr : BitVec 16) (refused : Bool) (s : State) :
    Host.Outcome State Fault Refusal := .next (s.upd (·.assignRx p h id.toNat addr.toNat refused))
/-- LOST (R325, R337). -/
def execLost (p : Fin 4) (h : WallHdr) (addrs : List (BitVec 16)) (s : State) : Host.Outcome State Fault Refusal :=
  .next (s.upd fun d => d.cmdRx p h 0x03 ((addrs.map (·.toNat)).flatMap u2) (·.lostAt (addrs.map (·.toNat))))
/-- PREPARE (R335). -/
def execPrepare (p : Fin 4) (h : WallHdr) (set : BitVec 16) (f : BitVec 32) (kind : Byte) (scope : Bool)
    (bitmap : BitVec 1024) (data : List Byte) (s : State) : Host.Outcome State Fault Refusal :=
  .next (s.upd fun d => d.cmdRx p h 0x10 (u2 set.toNat ++ u4 f.toNat ++ [kind, byteOf scope.toNat] ++
    (if scope then leBytes 128 bitmap.toNat else []) ++ data)
    (·.eqxPrepare set.toNat f.toNat kind.toNat scope bitmap.toNat data))
/-- ACK (R335, R336). -/
def execAck (p : Fin 4) (h : WallHdr) (set : BitVec 16) (count : BitVec 16) (naks : BitVec 16) (reason : Byte) (s : State) :
    Host.Outcome State Fault Refusal :=
  .next (s.upd fun d => d.cmdRx p h 0x11 (u2 set.toNat ++ u2 count.toNat ++ u2 naks.toNat ++ [reason, 0])
    (·.eqxAckRx p set.toNat count.toNat naks.toNat reason.toNat))
/-- GO (R336). -/
def execGo (p : Fin 4) (h : WallHdr) (set : BitVec 16) (f : BitVec 32) (s : State) : Host.Outcome State Fault Refusal :=
  .next (s.upd fun d => d.cmdRx p h 0x12 (u2 set.toNat ++ u4 f.toNat) (·.eqxGoRx set.toNat f.toNat))
/-- ABORT (R336). -/
def execAbort (p : Fin 4) (h : WallHdr) (set : BitVec 16) (f : BitVec 32) (s : State) : Host.Outcome State Fault Refusal :=
  .next (s.upd fun d => d.cmdRx p h 0x13 (u2 set.toNat ++ u4 f.toNat) (·.eqxAbortRx set.toNat))
/-- RESULT (R337): a member that did not apply lags. -/
def execResult (p : Fin 4) (h : WallHdr) (set : BitVec 16) (outcome : Byte) (s : State) : Host.Outcome State Fault Refusal :=
  .next (s.upd fun d => d.cmdRx p h 0x14 (u2 set.toNat ++ [outcome, 0]) fun d =>
    if outcome = 1 then d else (d.setLag h.src.toNat).raise Ev.WALL_LAG)
/-- RD_RSP (R319): the words are delivered to the requester. -/
def execRdRsp (p : Fin 4) (h : WallHdr) (status : Byte) (words : List Word) (s : State) : Host.Outcome State Fault Refusal :=
  .next (s.upd fun d =>
    let bs := status :: words.flatMap fun w => u4 w.toNat
    d.cmdRx p h 0x22 bs fun d => d.updWall fun w => { w with rsp := (h.src.toNat, bs) })
/-- MSG (R319): delivered to firmware. -/
def execMsg (p : Fin 4) (h : WallHdr) (data : List Byte) (s : State) : Host.Outcome State Fault Refusal :=
  .next (s.upd fun d => d.cmdRx p h 0x30 data fun d => (d.updWall fun w => { w with msg := (h.src.toNat, data) }).raise Ev.WALL_MSG)
/-- NOTICE_PACKET (R339): `good` says that its CRC-32 is. -/
def execNoticePacket (p : Fin 4) (id : BitVec 16) (offset : BitVec 32) (total : BitVec 32) (data : List Byte) (good : Bool)
    (s : State) : Host.Outcome State Fault Refusal :=
  .next (s.upd (·.noticePacket ⟨p, id.toNat, offset.toNat, total.toNat, data, good⟩))
/-- NOTICE_NAK (R339). -/
def execNoticeNak (p : Fin 4) (h : WallHdr) (id : BitVec 16) (offset : BitVec 32) (s : State) : Host.Outcome State Fault Refusal :=
  .next (s.upd fun d => d.cmdRx p h 0x40 (u2 id.toNat ++ u4 offset.toNat) (·.noticeAgain p id.toNat offset.toNat))
/-- NOTICE_DONE (R340). -/
def execNoticeDone (p : Fin 4) (h : WallHdr) (id : BitVec 16) (ready : BitVec 16) (errors : BitVec 16) (s : State) :
    Host.Outcome State Fault Refusal :=
  .next (s.upd fun d => d.cmdRx p h 0x41 (u2 id.toNat ++ u2 ready.toNat ++ u2 errors.toNat)
    (·.noticeDoneRx p id.toNat ready.toNat errors.toNat))
/-- EQX_CMD_PREPARE (R334): a write of EQX_CMD with PREPARE. -/
def execEqxCmdPrepare (scope : Bool) (kind : Fin 4) (set : BitVec 16) (s : State) : Host.Outcome State Fault Refusal :=
  .next (s.upd fun d => d.viaDomain domWALL (R.EQX_CMD.at 0) (0x80000000 + scope.toNat * 0x40000000 + kind * 0x10000 + set.toNat)
    (·.eqxStart scope kind set.toNat))
/-- EQX_ACK (R335): a write of EQX_ACK with ACK or NAK. -/
def execEqxAck (nak : Bool) (reason : Byte) (s : State) : Host.Outcome State Fault Refusal :=
  .next (s.upd fun d => d.viaDomain domWALL (R.EQX_ACK.at 0) ((if nak then 2 else 1) + 256 * reason.toNat)
    (·.eqxOwn none (if nak then some reason else none)))
/-- ACK_DEADLINE (R335). -/
def execAckDeadline (s : State) : Host.Outcome State Fault Refusal := .next (s.upd (·.eqxTryAck true))
/-- EQX_ABORT_DEADLINE (R336). -/
def execEqxAbortDeadline (s : State) : Host.Outcome State Fault Refusal := .next (s.upd (·.eqxAbortDeadline))
/-- NOTICE_TX (R339): a write of NOTICE_TX with GO. -/
def execNoticeTx (id : BitVec 16) (s : State) : Host.Outcome State Fault Refusal :=
  .next (s.upd fun d => d.viaDomain domWALL (R.NOTICE_TX.at 0) (0x80000000 + id.toNat) (·.noticeTx id.toNat))
/-- An address is removed: its binding is dropped (R326). -/
def Dev.wallRemove (d : Dev) (a : Nat) : Dev := d.updWall fun w => { w with binds := w.binds.filter fun b => b.2 != a }

/-- WALL_REMOVE (R315). -/
def execWallRemove (addr : BitVec 10) (s : State) : Host.Outcome State Fault Refusal :=
  .next (s.upd fun d => d.viaDomain domWALL (R.WALL_REMOVE.at 0) addr.toNat fun d =>
    d.wallRemove addr.toNat)

end Sys2Proof.Machine
end

