-- ==== Sys2Proof/Machine/Pseq.lean ====
section
/-! DEFINITION.  The panel power sequencer (R153 to R158): its three lists, and how their requests interact. -/

set_option Elab.async false

namespace Sys2Proof.Machine

/-! ### Lists and entries -/

/-- The list that runs: 0 none, 1 ON, 2 OFF, 3 PF (Table 6.22). -/
def Dev.pseqList (d : Dev) : Nat := d.get F.PSEQ_STATUS_LIST
def Dev.pseqIndex (d : Dev) : Nat := d.get F.PSEQ_STATUS_STEP
def Dev.setPseq (d : Dev) (f : PseqState → PseqState) : Dev := { d with pseq := f d.pseq }

/-- ACT, GPIO and DELAY of entry `k` of a list (Table 6.7). -/
def Dev.pseqEntry (d : Dev) (l k : Nat) : Nat × Nat × Nat :=
  match l with
  | 1 => (d.get F.PSEQ_ON_ACT k, d.get F.PSEQ_ON_GPIO k, d.get F.PSEQ_ON_DELAY k)
  | 2 => (d.get F.PSEQ_OFF_ACT k, d.get F.PSEQ_OFF_GPIO k, d.get F.PSEQ_OFF_DELAY k)
  | _ => (d.get F.PSEQ_PF_ACT k, d.get F.PSEQ_PF_GPIO k, d.get F.PSEQ_PF_DELAY k)

/-- Entries of a list (R153). -/
def pseqLen (l : Nat) : Nat := if l = 3 then 8 else 16

/-- A sequence entry drives a panel-supply output: a pin whose FUNC is 1 (R153, R470). -/
def Dev.pseqGpio (d : Dev) (g : Nat) (high : Bool) : Dev :=
  if d.get F.GPIO_CFG_FUNC g = 1 then
    d.setPseq fun p => { p with gpio := if high then insertN g p.gpio else removeN g p.gpio }
  else d


/-- The action of an entry; what it then waits for is in the state.  WAIT_IN on an input that is high is over at once. -/
def Dev.pseqAct (d : Dev) (act g : Nat) : Dev :=
  let wait := fun (d : Dev) (w : PseqWait) => d.setPseq fun p => { p with wait := w }
  match act with
  | 1 => wait (d.pseqGpio g true) .delay
  | 2 => wait (d.pseqGpio g false) .delay
  | 3 => wait d (if bit (d.get F.GPIO_IN_IN) g then .none else .input)
  | 4 => (wait d .train).trainStart
  | 5 => wait { d with gate := { d.gate with reset := true } } .delay
  | 6 => wait { d with gate := { d.gate with gdis := true } } .delay
  | 7 => wait d.colDischarge .delay
  | 8 => wait { d with gate := { d.gate with firstFrame := true, firstDone := false } } .firstFrame
  | 9 => wait d.blEnable .delay
  | _ => wait (if d.on F.BL_CTRL_EN then d.blShut 3 else d) .delay

/-- A list ends (R154, R156): SEQ_DONE; after ON the panel is on, after OFF and PF the lanes are idle and every gate
output but GDIS is inactive. -/
def Dev.pseqFinish (d : Dev) : Dev :=
  let l := d.pseqList
  let d := (((d.put F.PSEQ_STATUS_LIST 0).put F.PSEQ_STATUS_STEP 0).setPseq fun p => { p with wait := .none }).raise Ev.SEQ_DONE
  if l = 1 then d.put F.PSEQ_STATUS_PANEL_ON 1
  else
    let d := d.lanesIdle
    let d := { d with gate := { d.gate with active := [], edges := [], firstFrame := false }, scan := { d.scan with lit := false } }
    (d.put F.GATE_CTRL_GATE_EN 0).setTrain 0

/-- Execute the entry at STEP, and those after it while nothing is to be waited for. -/
def Dev.pseqRun : Nat → Dev → Dev
  | 0, d => d.pseqFinish
  | n + 1, d =>
    let l := d.pseqList
    let k := d.pseqIndex
    let (act, g, _) := d.pseqEntry l k
    if act = 0 ∨ 11 ≤ act then d.pseqFinish
    else
      let d := d.pseqAct act g
      if d.pseq.wait ≠ .none then d
      else if k + 1 < pseqLen l then Dev.pseqRun n (d.put F.PSEQ_STATUS_STEP (k + 1))
      else d.pseqFinish

/-- A list begins at its first entry; ON releases GDIS, OFF and PF end PANEL_ON. -/
def Dev.pseqStart (d : Dev) (l : Nat) : Dev :=
  let d := (d.put F.PSEQ_STATUS_LIST l).put F.PSEQ_STATUS_STEP 0
  let d := { d with gate := { d.gate with reset := false, firstFrame := false, firstDone := false } }
  let d := if l = 1 then { d with gate := { d.gate with gdis := false, driven := true } }.setPseq fun p => { p with onReq := false }
    else (d.put F.PSEQ_STATUS_PANEL_ON 0).setPseq fun p => { p with offReq := false }
  d.pseqRun 16

/-- A request that waited starts, once no list runs (R156). -/
def Dev.pseqNextList (d : Dev) : Dev :=
  if d.pseqList ≠ 0 then d
  else if d.pseq.offReq then d.pseqStart 2
  else if d.pseq.onReq && d.pseq.pfailClear then d.pseqStart 1
  else d

/-- The ON list is requested (R154, R156). -/
def Dev.pseqOn (d : Dev) : Dev :=
  if d.pseqList = 1 then d else (d.setPseq fun p => { p with onReq := true }).pseqNextList

/-- The OFF list is requested: it waits for the running ON entry; one that runs, or a PF list, serves it (R156). -/
def Dev.pseqOff (d : Dev) : Dev :=
  match d.pseqList with
  | 0 => d.pseqStart 2
  | 1 => d.setPseq fun p => { p with offReq := true }
  | _ => d

/-- The next entry of the running list. -/
def Dev.pseqAdvance (d : Dev) : Dev :=
  let l := d.pseqList
  let d := { d with gate := { d.gate with reset := false } }.setPseq fun p => { p with wait := .none }
  if l = 1 ∧ d.pseq.offReq then d.pseqStart 2
  else
    let d := if d.pseqIndex + 1 < pseqLen l then Dev.pseqRun 16 (d.put F.PSEQ_STATUS_STEP (d.pseqIndex + 1)) else d.pseqFinish
    d.pseqNextList

/-- An entry's delay ends (R153). -/
def Dev.pseqStep (d : Dev) : Dev := if d.pseq.wait = .delay then d.pseqAdvance else d

/-- The input that WAIT_IN waits for goes high (R153). -/
def Dev.waitInMet (d : Dev) : Dev :=
  if d.pseq.wait = .input then
    let (_, g, _) := d.pseqEntry d.pseqList d.pseqIndex
    (d.put F.GPIO_IN_IN (putBit (d.get F.GPIO_IN_IN) g true)).pseqAdvance
  else d

/-- A WAIT_IN times out: the ON list is abandoned for the OFF list, the others go on (R155). -/
def Dev.waitInTimeout (d : Dev) : Dev :=
  if d.pseq.wait = .input then
    let d := d.raise Ev.PANEL_PWR_FAIL
    if d.pseqList = 1 then d.pseqStart 2 else d.pseqAdvance
  else d

/-- PFAIL_N has been low for 2 µs: a running ON or OFF list stops at once, and the PF list starts; one that runs goes on
(R154, R156). -/
def Dev.pseqPfail (d : Dev) : Dev :=
  let d := d.setPseq fun p => { p with pfailClear := false, offReq := false }
  if d.pseqList = 3 then d else d.pseqStart 3

/-- FIRST_FRAME completes at that frame's frame done (R153). -/
def Dev.pseqFirstDone (d : Dev) : Dev :=
  if d.pseq.wait = .firstFrame then d.setPseq fun p => { p with wait := .delay } else d

end Sys2Proof.Machine
end

