-- ==== Sys2Proof/Machine/Power.lean ====
section
/-! DEFINITION.  Device states and wake (R343 to R366): domains by state, regulators, entry, capture, exit, VIGIL. -/

set_option Elab.async false

namespace Sys2Proof.Machine

def Dev.setPwr (d : Dev) (f : PwrState → PwrState) : Dev := { d with pwr := f d.pwr }

/-! ### Domains by device state (R344, R348, Table 14.4) -/

/-- The state whose column of Table 14.4 is in force: during an entry that of the state left, during an exit RUN. -/
def Dev.columnState (d : Dev) : Nat :=
  match d.pwrState with
  | 4 => d.pwr.origin
  | 5 => 0
  | k => k

/-- Half of the Col lanes has a present lane: 0 lanes 0–23, 1 lanes 24–47. -/
def Dev.colHalfUsed (d : Dev) (h : Nat) : Bool :=
  if d.on F.COL_CTRL_MLV_MODE then h == 0 && !d.mlvLanes.isEmpty else (List.range 24).any fun l => d.lanePresent (24 * h + l)

/-- Table 14.4 marks domain `k` ON in the state in force. -/
def Dev.markedOn (d : Dev) (k : Nat) : Bool :=
  if k = 0 then true
  else
    match d.columnState with
    | 0 =>
      match k with
      | 2 => d.portEnabled 0
      | 3 => d.portEnabled 1
      | 4 => d.on F.RX_PORT_STATUS_DSC_ON 0 || d.on F.RX_PORT_STATUS_DSC_ON 1
      | 8 => d.colHalfUsed 0
      | 9 => d.colHalfUsed 1
      | 14 => d.inWall
      | _ => decide (k ≤ 15)
    | 1 =>
      match k with
      | 2 | 3 | 4 | 6 | 12 => false
      | 8 => d.colHalfUsed 0
      | 9 => d.colHalfUsed 1
      | 14 => d.inWall
      | _ => decide (k ≤ 15)
    | _ => false

/-- Domains that are in RET on entry into VIGIL or DORMANT and wake on access. -/
def onAccess (k : Nat) : Bool := k == 1 || (5 ≤ k && k ≤ 7) || k == 10 || k == 11

/-- Every domain but AO is in RET. -/
def Dev.allRet (d : Dev) : Bool := (List.range 79).all fun i => d.domState (i + 1) == 1

/-- The domains that an entry puts into RET: of FALLOW those of Table 14.6, step 7; of VIGIL and DORMANT all. -/
def entryDomains (target : Nat) : List Nat :=
  if target = 1 then [6, 4, 2, 3, 12] ++ (List.range 64).map domGlen else (List.range 79).map (· + 1)

/-- An entry has reached the step that powers domains down. -/
def Dev.entryDowns (d : Dev) : Bool :=
  d.pwrState == 4 && (if d.pwr.target = 1 then d.pwr.captured else !d.pwr.offList)

/-- IDLE_US without an access: an AUTO domain goes to RET unless its state or REQ holds it ON; in VIGIL and DORMANT a
domain that an access woke returns to RET (R344, R348). -/
def Dev.domainIdle (d : Dev) (k : Nat) : Dev :=
  let due := d.on F.DOM_CTRL_AUTO k || ((d.pwrState == 2 || d.pwrState == 3) && onAccess k)
  if k = 0 || !due || d.get F.DOM_CTRL_REQ k == 1 || d.markedOn k then d else d.startDown k

/-- REQ = ON (R348). -/
def Dev.domReqOn (d : Dev) (k : Nat) : Dev := if k = 0 then d else (d.put F.DOM_CTRL_REQ 1 k).startWake k

/-- REQ = RET: refused for a domain that the state in force marks ON (R348). -/
def Dev.domReqRet (d : Dev) (k : Nat) : Dev :=
  if k = 0 then d
  else if d.markedOn k then d.raise Ev.DOM_REFUSE k
  else (d.put F.DOM_CTRL_REQ 2 k).startDown k

/-! ### Pad hold (R366) -/

/-- The pad group of PAD_HOLD that a domain owns. -/
def padGroup (k : Nat) : Option Nat :=
  match k with
  | 8 | 9 => some 0
  | 5 => some 1
  | 2 | 3 => some 3
  | 14 => some 4
  | 15 => some 5
  | _ => none

/-- A GPIO pin is driven high: by GPIO_OUT where GPIO_OE is 1, what a sequence has set, or the alternate function, LOAD on GPIO[14] and POL on
GPIO[15] in mini-LVDS mode (R149, R470). -/
def Dev.gpioHigh (d : Dev) (i : Nat) : Bool :=
  match d.get F.GPIO_CFG_FUNC i with
  | 0 => bit (d.get F.GPIO_OE_OE) i && bit (d.get F.GPIO_OUT_OUT) i
  | 2 => (i == 14 && decide (0 < d.col.mlvLoad)) || (i == 15 && d.col.mlvPol)
  | _ => d.pseq.gpio.contains i

/-- Levels that a pad group drives: driven lanes, gate outputs in the active levels of GATE_POL with GDIS at bit 22, GPIO
levels (Table 6.10). -/
def Dev.padLevel (d : Dev) (g : Nat) : Nat :=
  match g with
  | 0 => maskOf 48 fun l => d.laneDrive l != .elecIdle
  | 1 => maskOf 23 fun p => d.gateHigh p (d.gateActive p)
  | 2 => maskOf 16 d.gpioHigh
  | _ => 0

/-- The pins of a pad group have a level: those of the panel are high-impedance from reset until the ON list (Table
6.10). -/
def Dev.padDriven (d : Dev) (g : Nat) : Bool := d.gate.driven || g == 0 || decide (2 < g)

/-- The pads obey the TAP (R429). -/
def Dev.tapPads (d : Dev) : Bool := [0x00, 0x03, 0x04, 0x05, 0x06].contains d.tap.ir

/-- What the pins of a group show, none when they are high-impedance: what the TAP drives, a held level, or the device's
own (R366, R429, Table 6.10). -/
def Dev.padShown (d : Dev) (g : Nat) : Option Nat :=
  if d.tapPads then (if d.tap.ir = 0x06 then none else some (Config.tapPad d.tap.dr g))
  else if !d.padDriven g then none
  else some ((assoc g d.pwr.padLevels).getD (d.padLevel g))

/-- A pad group is latched. -/
def Dev.padLatch (d : Dev) (g : Nat) : Dev :=
  if bit (d.get F.PAD_HOLD_HELD) g then d
  else (d.setPwr fun p => { p with padLevels := assocSet g (d.padLevel g) p.padLevels }).put F.PAD_HOLD_HELD
    (putBit (d.get F.PAD_HOLD_HELD) g true)

/-- A pad group is released. -/
def Dev.padFree (d : Dev) (g : Nat) : Dev :=
  let d := (d.setPwr fun p => { p with padLevels := assocDel g p.padLevels, releaseWait := removeN g p.releaseWait }).put
    F.PAD_HOLD_HELD (putBit (d.get F.PAD_HOLD_HELD) g false)
  if d.get F.PAD_HOLD_HELD = 0 ∧ d.pwr.onAfterRelease then
    (d.setPwr fun p => { p with onAfterRelease := false }).pseqOn
  else d

/-- Domains that own a pad group. -/
def padDomains (g : Nat) : List Nat := idxs 16 fun k => padGroup k == some g

/-- A write of PAD_HOLD releases groups; one whose domain is in RET wakes the domain first (R366). -/
def Dev.padRelease (d : Dev) (mask : Nat) : Dev :=
  d.each (idxs 6 fun g => bit mask g && bit (d.get F.PAD_HOLD_HELD) g) fun d g =>
    if (padDomains g).all d.domOn then d.padFree g
    else (d.setPwr fun p => { p with releaseWait := insertN g p.releaseWait }).each (padDomains g) Dev.startWake

/-! ### The entry into VIGIL or DORMANT (R360) -/

/-- Steps 6 to 8: with every domain in RET, VDD_CORE is lowered, and VDD_PHY switched off. -/
def Dev.tryLower (d : Dev) : Dev :=
  if d.pwrState = 4 ∧ d.pwr.target ≠ 1 ∧ d.pwr.offList = false ∧ d.pwr.lowering = false ∧ d.allRet then
    let d := d.setPwr fun p => { p with lowering := true }
    let d := if d.get F.VREG_STATUS_POINT = 0 then d else d.vregRequest 0 0 .entry
    if d.pwr.target = 3 ∧ d.on F.PWR_CFG_PHY_OFF ∧ d.pwr.phyOff = false then
      match d.phyRail with
      | some k => d.vregRequest k 0 .entry
      | none => d
    else d
  else if (d.pwrState = 2 ∨ d.pwrState = 3) ∧ d.get F.VREG_STATUS_POINT ≠ 0 ∧ d.allRet ∧ d.pwr.vreqs.isEmpty then
    d.vregRequest 0 0 .entry
  else d

/-- Bank `k` is in the keep mask of a state (Table 14.17). -/
def Dev.keepBank (d : Dev) (s k : Nat) : Bool :=
  if k < 32 then bit (d.get F.KEEP_LS_LO_BANKS s) k else bit (d.get F.KEEP_LS_HI_BANKS s) (k - 32)

/-- Segments of a channel that a state keeps. -/
def Dev.keepSegs (d : Dev) (s ch : Nat) : Nat :=
  if ch < 4 then bits (d.get F.KEEP_PASR_LO_SEGS s) (8 * ch + 7) (8 * ch)
  else bits (d.get F.KEEP_PASR_HI_SEGS s) (8 * ch - 25) (8 * ch - 32)

/-- The banks' requests are saved, unless the state left saved them, and set under the keep mask of state `s` (R360). -/
def Dev.setBanks (d : Dev) (s : Nat) : Dev :=
  let d := if d.pwr.savedBanks.isEmpty then
      d.setPwr fun p => { p with savedBanks := (List.range 64).map fun k => (k, d.get F.LS_BANK_CTRL_STATE_REQ k) }
    else d
  d.each (List.range 64) fun d k =>
    d.bankRequest k (match s, d.keepBank s k with
      | 0, true => 0
      | 0, false => 1
      | _, true => 1
      | _, false => 2)

/-- Every bank returns to the request it held before entry (R359, R363). -/
def Dev.restoreBanks (d : Dev) : Dev :=
  (d.each d.pwr.savedBanks fun d p => d.bankRequest p.1 p.2).setPwr fun p => { p with savedBanks := [] }

/-- A trained channel goes to self-refresh with the segments that state `s` keeps. -/
def Dev.sleepChannel (d : Dev) (s ch : Nat) : Dev :=
  if d.chState ch = 2 ∨ d.chState ch = 4 ∨ d.chState ch = 5 then
    (d.put F.DRAM_CH_CFG_PASR (d.keepSegs s ch) ch).enterSelfRefresh ch
  else d

/-- Steps 2 to 5, once the OFF list has ended; the dale clock leaves 800 MHz before the voltage falls (R350). -/
def Dev.sleepDown (d : Dev) : Dev :=
  if d.pwrState = 4 ∧ d.pwr.target ≠ 1 ∧ d.pwr.offList ∧ d.pseqList = 0 then
    let s := d.pwr.target - 1
    let d := d.setPwr fun p => { p with offList := false, dale800 := false, turboAcked := false }
    let d := { d.each (List.range 6) Dev.padLatch with scan := { d.scan with inFrame := false, lit := false, latched := false } }
    let d := (d.setBanks s).each (List.range 8) fun d ch => d.sleepChannel s ch
    (d.each (entryDomains 2) Dev.startDown).tryLower
  else d

/-- An entry into VIGIL (2) or DORMANT (3) begins with the OFF list; calibration windows end (R265, R360). -/
def Dev.sleepEntry (d : Dev) (target : Nat) : Dev :=
  let st := d.pwrState
  let d := ((d.put F.PWR_STATE_STATE 4).put F.PWR_STATE_PENDING target).calEndAll.setPwr fun p =>
    { p with target := target, origin := st, exitAfter := false, offList := true, lowering := false, captureNext := false,
             capturing := false, noDispatch := true, onAfterRelease := false }
  d.pseqOff.sleepDown

/-! ### State commands (R353 to R355, Table 14.5) -/

/-- FALLOW may be entered (R355). -/
def Dev.fallowAllowed (d : Dev) : Bool :=
  let v := d.get F.PWR_CFG_FALLOW_V_TOTAL
  decide (d.level ≤ 1) && d.chTrained 7 7 && decide (d.vTotal ≤ v) &&
    decide (v * d.get F.RASTER_H_H_TOTAL * 1000000 ≤ d.floorNs * 8 * d.get F.PIPE_CLK_FREQ)

/-- FALLOW is accepted: the next latch point marks the capture frame (R355). -/
def Dev.fallowEntry (d : Dev) : Dev :=
  ((d.put F.PWR_STATE_STATE 4).put F.PWR_STATE_PENDING 1).setPwr fun p =>
    { p with target := 1, origin := 0, captureNext := true, captured := false, exitAfter := false }

/-- The device takes the Almanac role (R333, R354). -/
def Dev.takeAlmanac (d : Dev) : Dev :=
  let d := ((d.setWallState 5).put F.WALL_STATUS_HOPS 0).inc F.WALL_STATUS_EPOCH
  ((d.updWall fun w => { w with root := d.ownAddr, upstream := none, members := [], binds := (d.ownAddr.map fun a => (d.uid, a)).toList, near := 0, far := 0 }).raise
    Ev.WALL_ALMANAC).showWall

/-- A RUN command is a wake (R359, R365): its source latches when enabled. -/
def Dev.runCmd (d : Dev) (src detail : Nat) : Dev :=
  let d := if bit (d.get F.WAKE_EN_SRC) (src - 1) then
      (d.put F.WAKE_PENDING_SRC (putBit (d.get F.WAKE_PENDING_SRC) (src - 1) true)).raise Ev.WAKE
    else d
  d.actWake src detail

/-- HANDOVER goes to address 0 (R333, R354, Table 14.5): a STATE packet whose F the spec leaves open (log entry 88). -/
def Dev.sendHandover (d : Dev) : Dev :=
  let (k, d) := d.fresh
  match d.wallDown.find? fun q => (d.wp q).learned.contains 0 with
  | some q => d.wallSend q ⟨0x31, 0, d.wallSrc, [byteOf 5, 0, 0, 0] ++ (List.range 4).map (Config.freeByte k)⟩
  | none => d.inc F.WALL_DROP_COUNT_COUNT

/-- A command acts on the state in force: RUN, FALLOW, VIGIL or DORMANT. -/
def Dev.applyCmd (d : Dev) (c : StateCmd) : Dev :=
  let st := d.pwrState
  match c.code with
  | 0 => if st = 0 then d else d.runCmd c.src c.detail
  | 1 => if st = 0 ∧ d.fallowAllowed then d.fallowEntry else d.raise Ev.PWR_REFUSE
  | 2 => if st ≤ 1 then d.sleepEntry 2 else d.raise Ev.PWR_REFUSE
  | 3 => if st ≤ 2 then d.sleepEntry 3 else d.raise Ev.PWR_REFUSE
  | 4 => if st = 0 ∧ d.chTrained 7 7 then
      (d.put F.PWR_STATE_PENDING 4).setPwr fun p => { p with captureNext := true }
    else d.raise Ev.PWR_REFUSE
  | 5 => if d.inWall ∧ d.isAlmanac = false ∧ d.ownAddr = some 0 then d.takeAlmanac
    else if d.inWall ∧ c.src = 13 ∧ d.isAlmanac = true ∧ d.ownAddr ≠ some 0 then d.sendHandover
    else d.raise Ev.PWR_REFUSE
  | _ => d.raise Ev.PWR_REFUSE

/-- A command acts, or is held during a transition; RUN acts at once on an entry (R353). -/
def Dev.takeCmd (d : Dev) (c : StateCmd) : Dev :=
  if d.pwrState = 4 ∨ d.pwrState = 5 then
    if c.code = 0 ∧ d.pwrState = 4 then d.runCmd c.src c.detail
    else (d.put F.PWR_STATE_PENDING c.code).setPwr fun p => { p with heldCmd := some c }
  else d.applyCmd c

/-- A state command from firmware or the host (R353).  In a wall only the Almanac's STATE packet changes a member's
state (R354). -/
def Dev.stateCmd (d : Dev) (c : StateCmd) : Dev :=
  if d.on F.PWR_CFG_HOST_GATE ∧ c.src = 11 then d.raise Ev.STATE_REQ
  else if d.inWall ∧ d.isAlmanac = false ∧ c.code ≤ 3 then d.raise Ev.PWR_REFUSE
  else d.takeCmd c

/-- A STATE packet (R353, R354). -/
def Dev.wallCmd (d : Dev) (code f : Nat) : Dev :=
  let k := (f + 2 ^ 32 - d.get F.FRAME_COUNT_FRAME) % 2 ^ 32
  let c : StateCmd := ⟨code, 12, 0, some f⟩
  if d.on F.PWR_CFG_HOST_GATE then d.raise Ev.STATE_REQ
  else if 3 < code then d.takeCmd c
  else if k < 2 ∨ 2 ^ 31 ≤ k then d.raise Ev.PWR_REFUSE
  else if 2 ≤ d.pwrState ∧ d.pwrState ≤ 3 then d.takeCmd c
  else d.setPwr fun p => { p with wallCmd := some c }

/-- The held command is evaluated against the state that the transition has reached (R353). -/
def Dev.releaseCmd (d : Dev) : Dev :=
  match d.pwr.heldCmd with
  | some c => (d.setPwr fun p => { p with heldCmd := none }).applyCmd c
  | none => d

/-! ### The capture and the end of an entry (R356, R358, R360) -/

/-- The domains of the FALLOW entry go to RET, and channels 0–6 to self-refresh (Table 14.6, step 7). -/
def Dev.fallowDown (d : Dev) : Dev :=
  let d := (d.setPwr fun p => { p with captured := true }).each (List.range 7) fun d ch => d.sleepChannel 0 ch
  d.each (entryDomains 1) Dev.startDown

/-- The capture is complete or has failed (R356, R358). -/
def Dev.captureDone (d : Dev) : Dev :=
  let bad := d.pwr.captureBad
  if !d.pwr.capturing || (!bad && d.pwr.capNext != d.vActive * d.lineSegs) then d
  else
    let entry := d.pwrState == 4 && d.pwr.target == 1
    let d := d.setPwr fun p => { p with capturing := false, captureBad := false }
    if bad then if entry then d.abandonFallow.raise Ev.PWR_REFUSE else d.put F.PWR_STATE_PENDING 0xF
    else
      let d := (d.put F.COMP_CTRL_FALLOW_VALID 1).raise Ev.CAPTURE_DONE
      if entry then d.fallowDown else if d.pwrState = 0 then d.put F.PWR_STATE_PENDING 0xF else d

/-- An entry is complete: PWR_STATE reads the new state; a wake that came during it, or a held command, acts. -/
def Dev.entryEnd (d : Dev) (st : Nat) : Dev :=
  let back := d.pwr.exitAfter
  let d := ((d.put F.PWR_STATE_STATE st).put F.PWR_STATE_PENDING 0xF).setPwr fun p =>
    { p with target := 0, captured := false, exitAfter := false, lowering := false, holdLines := 0, holdEnd := false,
             crossings := [0, 0, 0, 0, 0], sensorFails := [0, 0], heaterCycles := 0 }
  let d := { (d.driveHpd 0).driveHpd 1 with mgmt := { d.mgmt with grants := [] } }
  if back then (d.setPwr fun p => { p with heldCmd := none }).startExit d.pwr.exitSrc.1 d.pwr.exitSrc.2
  else d.releaseCmd

/-- STATE_ENTRY_DONE: the domains of the entry are in RET (R355, R358, R360). -/
def Dev.entryDone (d : Dev) : Dev :=
  if !d.entryDowns || !(entryDomains d.pwr.target).all (fun k => d.domState k == 1) then d
  else if d.pwr.target = 1 then ((d.setBanks 0).entryEnd 1).raise Ev.FALLOW_ENTER
  else if d.pwr.lowering && d.pwr.vreqs.all (fun v => v.why != .entry) then d.entryEnd d.pwr.target
  else d

/-! ### The exit from VIGIL and DORMANT (R363) -/

/-- CP, MEMC and MEMP are ready: PWR_STATE reads RUN, and firmware is to release the pads. -/
def Dev.exitRun (d : Dev) : Dev :=
  let d := ((d.put F.PWR_STATE_STATE 0).put F.PWR_STATE_PENDING 0xF).restoreBanks.ringsFree
  let h := d.get F.VIGIL_CFG_HEAT_GPIO
  let d := if d.on F.VIGIL_CFG_HEAT_EN then d.put F.GPIO_OUT_OUT (putBit (d.get F.GPIO_OUT_OUT) h d.pwr.heaterOn) else d
  let d := { d with scan := { d.scan with statInvalid := true } }.setPwr fun p =>
    { p with noDispatch := false, onAfterRelease := true }
  let d := (d.each (idxs 16 d.markedOn) Dev.startWake).raise Ev.WAKE
  let d := if d.on F.PWR_CFG_DALE_TURBO then d.vregRequest 0 2 .turbo else d
  ((d.driveHpd 0).driveHpd 1).releaseCmd

/-- The exit goes on: with the supplies raised the PLLs start, CP, MEMC and MEMP wake and the channels leave
self-refresh; with the three ready the device is in RUN. -/
def Dev.exitAdvance (d : Dev) : Dev :=
  if d.pwrState ≠ 5 ∨ d.pwr.origin = 1 ∨ d.pwr.vreqs.any (fun v => v.why == .exit) then d
  else if d.domOn domCP && d.domOn domMEMC && d.domOn domMEMP then d.exitRun
  else
    let d := ((d.startWake domCP).startWake domMEMC).startWake domMEMP
    d.each (List.range 8) fun d ch => if d.chState ch = 4 then d.put F.DRAM_CH_STATUS_STATE 5 ch else d

/-! ### Regulators (R350, R351) -/

/-- VDD_CORE at NOM in 5 mV steps above 0.50 V. -/
def Dev.vcoreAt (d : Dev) (point : Nat) : Nat :=
  match point with
  | 0 => 10
  | 1 => 40 + d.get F.PWR_CFG_VCORE_NOM
  | _ => 70

/-- The request outstanding on a rail. -/
def Dev.vreq (d : Dev) (rail : Nat) : Option VReq := d.pwr.vreqs.find? fun v => v.rail == rail
def Dev.dropVreq (d : Dev) (rail : Nat) : Dev := d.setPwr fun p => { p with vreqs := p.vreqs.filter fun v => v.rail != rail }
def Dev.setVreq (d : Dev) (rail : Nat) (f : VReq → VReq) : Dev :=
  d.setPwr fun p => { p with vreqs := p.vreqs.map fun v => if v.rail = rail then f v else v }

/-- An acknowledgement arrives (R351). -/
def Dev.vregAck (d : Dev) (rail : Nat) : Dev :=
  match d.vreq rail with
  | none => d
  | some v =>
    let d := d.dropVreq rail
    let d := if rail = 0 then
        let d := (d.put F.VREG_STATUS_POINT v.target).put F.VREG_STATUS_VCORE (d.vcoreAt v.target)
        d.setPwr fun p => { p with turboAcked := decide (v.target = 2) }
      else if d.phyRail = some rail then d.setPwr fun p => { p with phyOff := decide (v.target = 0) }
      else d
    d.exitAdvance

/-- 100 µs pass: one retry, then VREG_FAIL; what needed the voltage does not proceed: an exit leaves the device in the state
that it was to leave (R351). -/
def Dev.vregTimeout (d : Dev) (rail : Nat) : Dev :=
  match d.vreq rail with
  | none => d
  | some v =>
    if v.failed then d
    else if !v.retried then (d.setVreq rail fun v => { v with retried := true }).incSat F.VREG_STATUS_RETRIES
    else
      let d := (d.put F.VREG_STATUS_FAIL_RAIL rail).raise Ev.VREG_FAIL
      if v.why = .exit then (d.setVreq rail fun v => { v with failed := true }).put F.PWR_STATE_STATE d.pwr.origin
      else d.dropVreq rail

/-- The pair of requests of a failed exit raise is repeated, and the exit goes on once it is acknowledged (R351). -/
def Dev.vregRetry (d : Dev) (rail : Nat) : Dev :=
  match d.vreq rail with
  | some v =>
    if v.failed then (d.setVreq rail fun v => { v with failed := false, retried := false }).put F.PWR_STATE_STATE 5 else d
  | none => d

/-- VIGIL and DORMANT, with their entries and exits: the core voltage follows the state (R360, R363). -/
def Dev.coreDown (d : Dev) : Bool :=
  match d.pwrState with
  | 2 | 3 => true
  | 4 => d.pwr.target != 1
  | 5 => d.pwr.origin != 1
  | _ => false

/-- DALE_TURBO is written (R350). -/
def Dev.daleTurbo (d : Dev) (on : Bool) : Dev :=
  let d := d.flag F.PWR_CFG_DALE_TURBO on
  if d.coreDown then d
  else if on then (if d.get F.VREG_STATUS_POINT = 2 then d else d.vregRequest 0 2 .turbo)
  else if d.pwr.dale800 then d
  else if d.get F.VREG_STATUS_POINT = 2 then d.vregRequest 0 1 .nominal
  else if d.vreq 0 |>.any (fun v => v.why == .turbo) then d.dropVreq 0
  else d

/-- The dale clock at a latch point: to 800 MHz after an acknowledged raise, back to 600 MHz before the voltage falls. -/
def Dev.turboLatch (d : Dev) : Dev :=
  if d.on F.PWR_CFG_DALE_TURBO then
    if d.pwr.turboAcked then d.setPwr fun p => { p with dale800 := true } else d
  else if d.pwr.dale800 then (d.setPwr fun p => { p with dale800 := false }).vregRequest 0 1 .nominal
  else d

/-! ### Power-down done, and the power-state part of a wake (R345 to R347) -/

/-- A power-down ends: the pads of the domain are held, and an access that came meanwhile wakes it. -/
def Dev.domainDown (d : Dev) (k : Nat) : Dev :=
  if d.domState k ≠ 2 then d
  else
    let d := d.put F.DOM_STATUS_STATE 1 k
    let d := match padGroup k with
      | some g => d.padLatch g
      | none => d
    let d := if d.pwr.wakeAfter.contains k then
        (d.setPwr fun p => { p with wakeAfter := removeN k p.wakeAfter }).startWake k
      else d
    d.tryLower

/-- A waking domain is ready: pads that waited for it are released, an exit goes on, an entry powers it down again. -/
def Dev.domainUp (d : Dev) (k : Nat) : Dev :=
  let d := d.put F.DOM_STATUS_STATE 0 k
  let d := d.each d.pwr.releaseWait fun d g => if (padDomains g).all d.domOn then d.padFree g else d
  let d := d.exitAdvance
  if d.entryDowns && (entryDomains d.pwr.target).contains k then d.startDown k else d

/-! ### The VIGIL cycle (R361, R362) -/

/-- A crossing counter: 2 consecutive cycles make a crossing. -/
def crossed (n : Nat) (beyond : Bool) : Nat := if beyond then min 2 (n + 1) else 0

/-- The heater output (R362). -/
def Dev.heat (d : Dev) (panel : Option Int) : Dev :=
  match panel with
  | none => d
  | some t =>
    if !d.on F.VIGIL_CFG_HEAT_EN then d
    else
      let on := if t < d.getS F.VIGIL_TEMP_HEAT_ON then true
        else if d.getS F.VIGIL_TEMP_HEAT_ON + 3 ≤ t then false else d.pwr.heaterOn
      d.setPwr fun p => { p with heaterOn := on, heaterCycles := if on then p.heaterCycles + 1 else 0 }

/-- The heater has been on for 32 consecutive cycles, and the panel is still below HEAT_ON − 10 °C (R362). -/
def Dev.heaterFails (d : Dev) (panel : Option Int) : Bool :=
  decide (32 ≤ d.pwr.heaterCycles) && panel.any fun t => decide (t < d.getS F.VIGIL_TEMP_HEAT_ON - 10)

/-- One cycle of the AO sampler: a cycle without a sample ends a run of crossings. -/
def Dev.vigilTick (d : Dev) (raw : List (BitVec 16)) (panel : Option (BitVec 8)) (amb : Option (BitVec 16)) : Dev :=
  if d.pwrState ≠ 2 then d
  else
    let d := d.tsConvert raw
    let die := ((List.range 9).map fun i => (d.tsRead i).fdiv 16).foldl max (-128)
    let pt := panel.map BitVec.toInt
    let en := d.get F.VIGIL_CFG_THR_EN
    let cross := fun (i : Nat) (b : Bool) => crossed (nth d.pwr.crossings i) b
    let c := [ match pt with | some t => cross 0 (bit en 0 && decide (d.getS F.VIGIL_TEMP_PANEL_HI < t)) | none => 0,
               match pt with | some t => cross 1 (bit en 1 && decide (t < d.getS F.VIGIL_TEMP_PANEL_LO)) | none => 0,
               cross 2 (bit en 2 && decide (d.getS F.VIGIL_TEMP_DIE_HI < die)),
               match amb with | some a => cross 3 (bit en 3 && decide (d.get F.VIGIL_AMB_AMB_HI < a.toNat)) | none => 0,
               match amb with | some a => cross 4 (bit en 3 && decide (a.toNat < d.get F.VIGIL_AMB_AMB_LO)) | none => 0 ]
    let fails := [if panel.isNone then nth d.pwr.sensorFails 0 + 1 else 0, if amb.isNone then nth d.pwr.sensorFails 1 + 1 else 0]
    let d := (d.setPwr fun p => { p with crossings := c, sensorFails := fails }).heat pt
    let d := (d.put F.VIGIL_LAST_DIE (wrap 8 (clampI (-128) 127 die)))
    let d := match panel with | some t => d.put F.VIGIL_LAST_PANEL t.toNat | none => d
    let d := match amb with | some a => d.put F.VIGIL_LAST_AMB a.toNat | none => d
    let wakes := ((List.range 3).filter fun i => nth c i == 2).map (fun i => (7, i)) ++
      ((List.range 2).filter fun i => nth c (3 + i) == 2).map (fun i => (8, i)) ++
      (if d.heaterFails pt then [(9, 0)] else []) ++
      ((List.range 2).filter fun i => decide (3 ≤ nth fails i)).map (fun i => (10, i))
    d.each wakes fun d w => d.latchWake w.1 w.2

/-! ### Meanings -/

/-- PSEQ_CMD_ON (R154). -/
def execPseqCmdOn (s : State) : Host.Outcome State Fault Refusal := .next (s.upd (·.pseqOn))
/-- PSEQ_CMD_OFF (R154). -/
def execPseqCmdOff (s : State) : Host.Outcome State Fault Refusal := .next (s.upd (·.pseqOff))
/-- PSEQ_STEP (R153, R154, R360). -/
def execPseqStep (s : State) : Host.Outcome State Fault Refusal := .next (s.upd (·.pseqStep.sleepDown))
/-- WAIT_IN_MET (R153). -/
def execWaitInMet (s : State) : Host.Outcome State Fault Refusal := .next (s.upd (·.waitInMet.sleepDown))
/-- WAIT_IN_TIMEOUT (R155). -/
def execWaitInTimeout (s : State) : Host.Outcome State Fault Refusal := .next (s.upd (·.waitInTimeout.sleepDown))

/-- DOMAIN_IDLE (R344). -/
def execDomainIdle (k : Fin 80) (s : State) : Host.Outcome State Fault Refusal := .next (s.upd (·.domainIdle k))
/-- DOM_REQ_ON (R348). -/
def execDomReqOn (k : Fin 80) (s : State) : Host.Outcome State Fault Refusal := .next (s.upd (·.domReqOn k))
/-- DOM_REQ_RET (R348). -/
def execDomReqRet (k : Fin 80) (s : State) : Host.Outcome State Fault Refusal := .next (s.upd (·.domReqRet k))
/-- DOMAIN_POWER_DOWN_DONE (R345, R347, R366). -/
def execDomainPowerDownDone (k : Fin 80) (s : State) : Host.Outcome State Fault Refusal := .next (s.upd (·.domainDown k))

/-- VREG_ACK (R351). -/
def execVregAck (rail : Fin 16) (s : State) : Host.Outcome State Fault Refusal := .next (s.upd (·.vregAck rail))
/-- VREG_TIMEOUT (R351). -/
def execVregTimeout (rail : Fin 16) (s : State) : Host.Outcome State Fault Refusal := .next (s.upd (·.vregTimeout rail))
/-- VREG_RETRY (R351). -/
def execVregRetry (rail : Fin 16) (s : State) : Host.Outcome State Fault Refusal := .next (s.upd (·.vregRetry rail))
/-- DALE_TURBO (R350). -/
def execDaleTurbo (on : Bool) (s : State) : Host.Outcome State Fault Refusal := .next (s.upd (·.daleTurbo on))

/-- Wake source and detail of Table 14.10 for a command's origin. -/
def cmdOrigin : CmdSrc → Nat × Nat
  | .firmware => (13, 0)
  | .mgmt => (11, 0)
  | .dpcd => (11, 1)

/-- A state command of Table 14.5 from an origin. -/
def Dev.stateFrom (d : Dev) (code : Nat) (src : CmdSrc) : Dev :=
  d.stateCmd ⟨code, (cmdOrigin src).1, (cmdOrigin src).2, none⟩

/-- STATE_RUN (R353, R358, R359, R363). -/
def execStateRun (src : CmdSrc) (s : State) : Host.Outcome State Fault Refusal := .next (s.upd (·.stateFrom 0 src))
/-- STATE_FALLOW (R355). -/
def execStateFallow (src : CmdSrc) (s : State) : Host.Outcome State Fault Refusal := .next (s.upd (·.stateFrom 1 src))
/-- STATE_VIGIL (R360). -/
def execStateVigil (src : CmdSrc) (s : State) : Host.Outcome State Fault Refusal := .next (s.upd (·.stateFrom 2 src))
/-- STATE_DORMANT (R360). -/
def execStateDormant (src : CmdSrc) (s : State) : Host.Outcome State Fault Refusal := .next (s.upd (·.stateFrom 3 src))
/-- STATE_CAPTURE (R356). -/
def execStateCapture (src : CmdSrc) (s : State) : Host.Outcome State Fault Refusal := .next (s.upd (·.stateFrom 4 src))
/-- STATE_HANDOVER (R354). -/
def execStateHandover (src : CmdSrc) (s : State) : Host.Outcome State Fault Refusal := .next (s.upd (·.stateFrom 5 src))

/-- WALL_STATE (R354). -/
def execWallState (p : Fin 4) (h : WallHdr) (code : Byte) (f : BitVec 32) (s : State) : Host.Outcome State Fault Refusal :=
  .next (s.upd fun d => d.cmdRx p h 0x31 ([code, 0, 0, 0] ++ u4 f.toNat) fun d => d.wallCmd code.toNat f.toNat)

/-- FALLOW_REQUEST (R60): ignored in a wall (R354). -/
def execFallowRequest (s : State) : Host.Outcome State Fault Refusal :=
  .next (s.upd fun d => if d.fallowDue && !d.inWall then d.takeCmd ⟨1, 13, 0, none⟩ else d)

/-- CAPTURE_DONE (R356, R358). -/
def execCaptureDone (s : State) : Host.Outcome State Fault Refusal := .next (s.upd (·.captureDone))
/-- STATE_ENTRY_DONE (R355, R358, R360). -/
def execStateEntryDone (s : State) : Host.Outcome State Fault Refusal := .next (s.upd (·.entryDone))

/-- WAKE_SOURCE (R365): a detector reports source 1 to 14. -/
def execWakeSource (src : BitVec 4) (detail : Byte) (s : State) : Host.Outcome State Fault Refusal :=
  .next (s.upd fun d => if 1 ≤ src.toNat ∧ src.toNat ≤ 14 then d.latchWake src.toNat detail.toNat else d)

/-- VIGIL_TICK (R361, R362): readings of TS[0] to TS[8], of the panel sensor and of the ambient sensor; none is a failed
read. -/
def execVigilTick (raw : List (BitVec 16)) (panel : Option (BitVec 8)) (ambient : Option (BitVec 16)) (s : State) :
    Host.Outcome State Fault Refusal := .next (s.upd (·.vigilTick raw panel ambient))

/-- PAD_HOLD_RELEASE (R363, R366). -/
def execPadHoldRelease (mask : BitVec 6) (s : State) : Host.Outcome State Fault Refusal := .next (s.upd (·.padRelease mask.toNat))

end Sys2Proof.Machine
end

