-- ==== Sys2Proof/Machine/Boot.lean ====
section
/-! DEFINITION.  Reset, power-good and the boot ROM's first steps (R386 to R397): straps, headers, DRAM training; and XSPI
(R428). -/

set_option Elab.async false

namespace Sys2Proof.Machine

def Dev.setBoot (d : Dev) (f : BootState → BootState) : Dev := { d with boot := f d.boot }
def Dev.bootStep (d : Dev) : Nat := d.get F.BOOT_STATUS_STEP
def Dev.setStep (d : Dev) (k : Nat) : Dev := d.put F.BOOT_STATUS_STEP k

/-! ### Reset and power (R364, R387) -/

/-- The registers that read the fuses. -/
def Dev.copyFuses (d old : Dev) : Dev :=
  let d := d.each (List.range 8) fun d k => d.putWord R.KEY_FUSE k (old.rd R.KEY_FUSE k)
  ((d.putWord R.FUSE_STATUS 0 (old.rd R.FUSE_STATUS)).putWord R.DEVICE_UID_LO 0 (old.rd R.DEVICE_UID_LO)).putWord
    R.DEVICE_UID_HI 0 (old.rd R.DEVICE_UID_HI)

/-- Everything is at its reset value but the cells of the store, where a program in progress is cut short, the flash, the
fuses and the TAP. -/
def Dev.resetAll (d : Dev) : Dev :=
  let old := d.nvCut
  let n : Dev := { free := old.free, nv := { mem := old.nv.mem }, flash := old.flash
                   tap := { ir := old.tap.ir, dr := old.tap.dr, dbgLock := old.tap.dbgLock } }
  n.copyFuses old

/-- RESET_N (R387): the calendar survives too. -/
def Dev.resetN (d : Dev) : Dev :=
  ((d.resetAll).put F.CAL_SEC_SEC (d.get F.CAL_SEC_SEC)).put F.CAL_SUB_SUB (d.get F.CAL_SUB_SUB)

/-- The internal reset of R395: as RESET_N, but BOOT_STATUS keeps its reasons, the failed slots stay excluded and the
store's recovery does not run again. -/
def Dev.internalReset (d : Dev) : Dev :=
  let n := d.resetN
  let n := n.put F.WALL_CTRL_ROLE (d.get F.WALL_CTRL_ROLE)
  let n := ((n.put F.BOOT_STATUS_STRAPS (d.get F.BOOT_STATUS_STRAPS)).put F.BOOT_STATUS_REASON_A
    (d.get F.BOOT_STATUS_REASON_A)).put F.BOOT_STATUS_REASON_B (d.get F.BOOT_STATUS_REASON_B)
  let n := ((n.putWord R.NV_SEL 0 (d.rd R.NV_SEL)).putWord R.NV_RECOVERY 0 (d.rd R.NV_RECOVERY)).put F.NV_STATUS_BUSY 0
  let n := (n.putWord R.NV_CAL_NEXT 0 (d.rd R.NV_CAL_NEXT)).putWord R.NV_AGE_NEXT 0 (d.rd R.NV_AGE_NEXT)
  let n := n.setNv fun s => { s with recovered := true, jseq := d.nv.jseq, lock := d.nv.lock, refreshNext := d.nv.refreshNext,
                                     refuse := d.nv.refuse }
  { n with ticks := d.ticks, xspi := { rstN := d.xspi.rstN, pulses := d.xspi.pulses }, log := { n.log with started := true }
           boot := { failed := d.boot.failed, first := d.boot.first, stopped := d.boot.stopped } }

/-- Power-good (R356, R374, R386): the store recovers. -/
def Dev.powerGood (d : Dev) : Dev :=
  if d.nv.recovered then d
  else ({ d with log := { d.log with started := true } }.put F.COMP_CTRL_FALLOW_VALID 0).nvBegin

/-! ### Choosing a slot (R391, R395, R396) -/

/-- The reason recorded for a slot. -/
def Dev.setReason (d : Dev) (slot r : Nat) : Dev :=
  if slot = 0 then d.put F.BOOT_STATUS_REASON_A r else d.put F.BOOT_STATUS_REASON_B r

/-- Boot hold. -/
def Dev.bootHold (d : Dev) : Dev := d.setStep 15

/-! The ROM's commands to the flash (R389, R390). -/

/-- The ROM sends commands to the flash. -/
def Dev.flashSend (d : Dev) (ops : List FlashOp) : Dev := d.setBoot fun b => { b with flash := b.flash ++ ops }

/-- An address of 4 bytes, most significant first (PRESUMED, log entry 90). -/
def flashAddr (a : Nat) : List Byte := (leBytes 4 a).reverse

/-- The read of a header. -/
def Dev.headerRead (d : Dev) (slot : Nat) : FlashOp :=
  { mode := 0, cmd := 0x13 :: flashAddr (d.slotBase slot), reads := 4096 }

/-- FLASH_INIT[k] of a header. -/
def ImgAt.flashInit (m : ImgAt) (k : Nat) : FlashOp :=
  let e := 0x20 + 16 * k
  { mode := 0, cmd := m.bytes e 1 ++ (flashAddr (m.num (e + 4) 4)).take (m.num (e + 1) 1), data := m.bytes (e + 8) (m.num (e + 2) 1) }

/-- The read of the candidate slot in the mode that STRAP_BOOT selects. -/
def Dev.slotRead (d : Dev) : FlashOp :=
  let m := d.slotImage d.boot.cand
  let a := flashAddr m.base
  if d.quadBoot then { mode := 1, cmd := 0x6C :: a, dummy := 8, reads := m.len }
  else { mode := 2, cmd := Config.profileRead :: (~~~Config.profileRead) :: a, dummy := m.num 0x1A 1, reads := m.len }

/-- The part's soft-reset pair. -/
def softReset : List FlashOp := [{ mode := 0, cmd := [0x66] }, { mode := 0, cmd := [0x99] }]

/-- The candidate's header has been checked: FLASH_INIT is sent, the PLLs start from it and DRAM training begins (R312,
R389, R401). -/
def Dev.takeCandidate (d : Dev) (slot : Nat) : Dev :=
  let m := d.slotImage slot
  let d := d.setBoot fun b => { b with cand := slot, first := match b.first with | some f => some f | none => some slot }
  let d := d.flashSend ((List.range (m.num 0x1B 1)).map m.flashInit)
  let d := (d.put F.PIPE_CLK_FREQ (m.num 0x14 4)).put F.DRAM_CTRL_RATE (m.num 0x18 1)
  (d.each (List.range 8) fun d ch => d.put F.DRAM_CH_STATUS_STATE 1 ch).setStep 2

/-- The header step: both headers are read, and the usable slot whose SEQ is ahead is the candidate. -/
def Dev.bootHeaders (d : Dev) : Dev :=
  let d := d.setStep 1
  if bits (d.get F.BOOT_STATUS_STRAPS) 2 1 = 2 then d.bootHold
  else
    let bad := fun (s : Nat) => (d.slotImage s).headerBad d.quadBoot (d.slotRoom s)
    let open_ := [0, 1].filter fun s => !d.boot.failed.contains s
    let d := d.flashSend [d.headerRead 0, d.headerRead 1]
    let d := d.each open_ fun d s => d.setReason s ((bad s).getD 0)
    let d := d.each (open_.filter fun s => bad s == some rsSegments) fun d s =>
      match (d.slotImage s).badSeg with
      | some i => d.putWord R.BOOT_FAIL_INFO 0 i
      | none => d
    let seq := fun (s : Nat) => (d.slotImage s).seq
    match open_.filter fun s => (bad s).isNone with
    | [] => d.bootHold
    | [s] => d.takeCandidate s
    | _ =>
      if seq 0 = seq 1 then (d.put F.BOOT_STATUS_TIE 1).takeCandidate 0
      else d.takeCandidate (if aheadN (seq 1) (seq 0) then 1 else 0)

/-- The other slot can still be the slot in use. -/
def Dev.otherUsable (d : Dev) : Bool :=
  [0, 1].any fun s => !d.boot.failed.contains s && ((d.slotImage s).headerBad d.quadBoot (d.slotRoom s)).isNone

/-- The candidate fails: its reason is recorded, and the other slot is taken, after the internal reset when registers have
been written; with no other slot, boot hold. -/
def Dev.bootFail (d : Dev) (reason : Nat) (written : Bool) : Dev :=
  let d := (d.setReason d.boot.cand reason).setBoot fun b => { b with failed := insertN b.cand b.failed }
  if d.otherUsable then (if written then d.internalReset else d).bootHeaders else d.bootHold

/-- BOOT_START (R386, R388): the straps are sampled, and the ROM runs. -/
def Dev.bootStart (d : Dev) (straps : Nat) : Dev :=
  if d.bootStep ≠ 0 then d
  else
    let d := { d.powerGood with ticks := 0, xspi := { d.xspi with rstN := true }, log := { d.powerGood.log with started := true } }
    let d := (d.put F.BOOT_STATUS_STRAPS straps).put F.WALL_CTRL_ROLE straps
    d.bootHeaders

/-- In boot hold the whole sequence starts again, with both slots (R396). -/
def Dev.bootAgain (d : Dev) : Dev :=
  if d.bootStep = 15 ∧ d.boot.stopped = false then
    ((d.internalReset).setBoot fun b => { b with failed := [], first := none }).bootHeaders
  else d

/-! ### XSPI (R428) -/

/-- Bytes that a command moves. -/
def Dev.xspiLen (d : Dev) : Nat := d.get F.XSPI_LEN_LEN + 1

/-- The command in XSPI_CMD is carried out: a command with an address reads or writes the flash there; one without reads
what the flash answers (log entry 19). -/
def Dev.xspiRun (d : Dev) : Dev :=
  let n := d.xspiLen
  let ls := d.get F.XSPI_BUF_BUF * 16
  let a := d.get F.XSPI_ADDR_ADDR
  let addressed := d.get F.XSPI_CMD_ADDR_LEN == 4
  let op : Byte := byteOf (d.get F.XSPI_CMD_OPCODE)
  let d := { d.wakeNow domLS with xspi := { d.xspi with waits := false } }
  if d.on F.XSPI_CMD_DIR then
    let (d, _, bs) := d.lsRead 0 ls n
    if addressed then
      let new := bs.zipIdx.map fun (b, i) => Config.flashByte op (Memory.get d.flash (a + i)) b
      { d with flash := Memory.write d.flash a new }
    else d
  else if addressed then (d.lsWrite 0 ls (Memory.read d.flash a n)).1
  else
    let (k, d) := d.fresh
    (d.lsWrite 0 ls ((List.range n).map (Config.freeByte k))).1

/-- GO is written: the command waits while the boot ROM owns the flash. -/
def Dev.xspiGo (d : Dev) (dir : Bool) : Dev :=
  let d := ((d.flag F.XSPI_CMD_DIR dir).put F.XSPI_CMD_GO 1).put F.XSPI_CMD_ERR 0
  if d.bootDone then d.xspiRun else { d with xspi := { d.xspi with waits := true } }

/-- The command ends. -/
def Dev.xspiDone (d : Dev) : Dev := if d.on F.XSPI_CMD_GO && !d.xspi.waits then d.put F.XSPI_CMD_GO 0 else d

/-- DS does not toggle (R390): the recovery pulses XSPI_RST_N, and the candidate slot fails with FLASH (R465); an XSPI read
ends with ERR. -/
def Dev.flashReadFail (d : Dev) : Dev :=
  if d.bootStep = 2 then
    if d.quadBoot then d else ({ d with xspi := { d.xspi with pulses := d.xspi.pulses + 1 } }.flashSend softReset).bootFail rsFlash false
  else if d.on F.XSPI_CMD_GO && !d.xspi.waits && !d.on F.XSPI_CMD_DIR && d.get F.XSPI_CMD_MODE == 2 then
    (d.put F.XSPI_CMD_ERR 1).put F.XSPI_CMD_GO 0
  else d

/-! ### Meanings -/

/-- SUPPLY_LOSS (R364): the device is OFF. -/
def execSupplyLoss (s : State) : Host.Outcome State Fault Refusal := .next (s.upd (·.resetAll))
/-- RESET_N_LOW (R387, R454). -/
def execResetNLow (s : State) : Host.Outcome State Fault Refusal := .next (s.upd (·.resetN))
/-- POWER_GOOD (R356, R364, R374, R377, R384, R386). -/
def execPowerGood (s : State) : Host.Outcome State Fault Refusal := .next (s.upd (·.powerGood))
/-- BOOT_START (R386, R388, R391, R395, R396, R312): `straps` are the levels of the strap balls. -/
def execBootStart (straps : BitVec 6) (s : State) : Host.Outcome State Fault Refusal := .next (s.upd (·.bootStart straps.toNat))
/-- FLASH_READ_FAIL (R390, R395). -/
def execFlashReadFail (s : State) : Host.Outcome State Fault Refusal := .next (s.upd (·.flashReadFail))
/-- BOOT_HOLD_RETRY (R396). -/
def execBootHoldRetry (s : State) : Host.Outcome State Fault Refusal := .next (s.upd (·.bootAgain))
/-- BOOT_RETRY (R396): RETRY clears when taken. -/
def execBootRetry (s : State) : Host.Outcome State Fault Refusal := .next (s.upd (·.bootAgain))
/-- XSPI_READ (R428). -/
def execXspiRead (s : State) : Host.Outcome State Fault Refusal := .next (s.upd (·.xspiGo false))
/-- XSPI_WRITE (R428). -/
def execXspiWrite (s : State) : Host.Outcome State Fault Refusal := .next (s.upd (·.xspiGo true))
/-- XSPI_DONE (R428). -/
def execXspiDone (s : State) : Host.Outcome State Fault Refusal := .next (s.upd (·.xspiDone))

end Sys2Proof.Machine
end

