-- ==== Sys2Proof/Machine/Gdma.lean ====
section
/-! DEFINITION.  The general DMA (R285 to R288): four channels of descriptors in the line store. -/

set_option Elab.async false

namespace Sys2Proof.Machine

/-- A general DMA descriptor (Table 11.12). -/
structure GdmaDesc where
  src : XAddr
  dst : XAddr
  len : Nat
  lenHi : Nat
  ctrl : Nat
  pattern : Nat
  deriving DecidableEq, Repr

def GdmaDesc.fill (g : GdmaDesc) : Bool := bit g.ctrl 0
def GdmaDesc.doneEvt (g : GdmaDesc) : Bool := bit g.ctrl 1
def GdmaDesc.fence (g : GdmaDesc) : Bool := bit g.ctrl 2

/-- Decode the 32 bytes of a descriptor. -/
def gdmaDecode (bs : List Byte) : GdmaDesc :=
  let u := fun o n => leNat ((bs.drop o).take n)
  ⟨xaddr (u 0 8), xaddr (u 8 8), bits (u 16 4) 23 0 + 1, bits (u 16 4) 31 24, u 20 4, u 24 4⟩

/-- Slots of a channel's ring. -/
def Dev.gdmaSlots (d : Dev) (c : Nat) : Nat := ringSlots (d.get F.GDMA_Q_CFG_SIZE c)

/-- HEAD and TAIL of a channel, index bits above SIZE ignored (R184). -/
def Dev.gdmaHead (d : Dev) (c : Nat) : Nat := d.get F.GDMA_Q_HEAD_HEAD c % d.gdmaSlots c
def Dev.gdmaTail (d : Dev) (c : Nat) : Nat := d.get F.GDMA_Q_TAIL_TAIL c % d.gdmaSlots c

/-- Line-store address of the descriptor at HEAD; bit 0 of BASE reads 0. -/
def Dev.gdmaDescAddr (d : Dev) (c : Nat) : Nat := d.get F.GDMA_Q_CFG_BASE c * 16 + d.gdmaHead c * 32

/-- The BUSY bits follow the queues. -/
def Dev.gdmaBusy (d : Dev) : Dev := d.put F.GDMA_STATUS_BUSY (maskOf 4 fun c => d.gdmaHead c != d.gdmaTail c)

/-- A write of GDMA_Q_TAIL submits descriptors (R285). -/
def Dev.gdmaSubmit (d : Dev) (c tail : Nat) : Dev :=
  let n := d.gdmaSlots c
  let new := newSlots n (d.gdmaTail c) (tail % n)
  let d := { d with gdma := { d.gdma with order := d.gdma.order ++ new.map fun s => (c, s) } }
  (d.put F.GDMA_Q_TAIL_TAIL (tail % n) c).gdmaBusy

/-- A descriptor that ends with DESC_ERR before anything moves: a reserved bit, an address outside memory, or an overlap
with DST above SRC (R287, Table 11.13). -/
def GdmaDesc.invalid (g : GdmaDesc) : Bool :=
  g.lenHi != 0 || decide (8 ≤ g.ctrl) || !g.dst.inside g.len || (!g.fill && !g.src.inside g.len) ||
    (!g.fill && g.src.ls == g.dst.ls && decide (g.src.addr < g.dst.addr) && decide (g.dst.addr < g.src.addr + g.len))

/-- Error code of a bad access (Table 11.13). -/
def gdmaErr : XStatus → Nat
  | .ls .ecc => 2 | .ls .bankOff => 3 | .ls .refused => 4 | .ls .collide => 5 | .ls .ok => 0
  | .dram .ecc => 2 | .dram .guard => 6 | .dram .lost => 7 | .dram .bus => 8 | .dram .ok => 0

/-- A channel's service of a descriptor is at a point. -/
def Dev.gdmaAt (d : Dev) (c : Nat) (desc : List Byte) (moved : Nat) (st : Option Nat) : Dev :=
  { d with gdma := { d.gdma with prog := assocSet c ⟨desc, moved, st⟩ d.gdma.prog } }

/-- Bytes `i` to `i + n` of the fill pattern (repeated from DST, little-endian). -/
def patternBytes (p i n : Nat) : List Byte := (List.range n).map fun k => BitVec.ofNat 8 (p / 256 ^ ((i + k) % 4))

/-- Move a descriptor's bytes in ascending order, 16 at a time, from byte `i` up to byte `stop`; it stops at an error, or
waits while a write is held (R287, R288). -/
def Dev.gdmaRun (c : Nat) (desc : List Byte) (stop : Nat) : Nat → Nat → Dev → Dev
  | 0, i, d => d.gdmaAt c desc i none
  | fuel + 1, i, d =>
    let g := gdmaDecode desc
    if g.len ≤ i then d.gdmaAt c desc i (some 0)
    else if stop ≤ i then d.gdmaAt c desc i none
    else
      let n := min 16 (g.len - i)
      let (d, st, bs) := if g.fill then (d, .ls .ok, patternBytes g.pattern i n) else d.xread 5 6 (g.src.plus i) n
      if !st.good then d.gdmaAt c desc i (some (gdmaErr st))
      else
        match Dev.runChunks 5 6 (.gdma c) (chunksOf (g.dst.plus i) bs) d with
        | (d, .done) => d.gdmaRun c desc stop fuel (i + n)
        | (d, .held) => d.gdmaAt c desc (i + n) none
        | (d, .bad st _) => d.gdmaAt c desc i (some (gdmaErr st))
termination_by structural fuel => fuel

/-- The bytes that a channel has moved of a descriptor that it may go on with: not finished, and no write held (R88). -/
def Dev.gdmaGoing (d : Dev) (c : Nat) : Option (List Byte × Nat) :=
  match assoc c d.gdma.prog with
  | some ⟨desc, moved, none⟩ => if d.held.any (fun h => h.owner == .gdma c) then none else some (desc, moved)
  | _ => none

/-- Read the descriptor at HEAD and begin it: one at a time in a channel, and with FENCE only after every earlier descriptor
of all channels (R285, R286).  With `kind`, only a descriptor of that kind. -/
def Dev.gdmaBegin (d : Dev) (c : Nat) (kind : Option Bool) : Dev :=
  let (d, st, desc) := d.lsRead 5 (d.gdmaDescAddr c) 32
  let g := gdmaDecode desc
  if st != .ok then d.gdmaAt c desc 0 (some (gdmaErr (.ls st)))
  else if kind.any (· != g.fill) then d
  else if g.fence && d.gdma.order.head? != some (c, d.gdmaHead c) then d
  else if g.invalid then d.gdmaAt c desc 0 (some 1)
  else d.gdmaAt c desc 0 none

/-- Has the channel a descriptor that no service has begun? -/
def Dev.gdmaDue (d : Dev) (c : Nat) : Bool := d.gdmaHead c != d.gdmaTail c && (assoc c d.gdma.prog).isNone

/-- The engine's turn of a channel: up to 256 bytes of its descriptor (R285). -/
def Dev.gdmaTurn (d : Dev) (c : Nat) : Dev :=
  let d := if d.gdmaDue c then d.gdmaBegin c none else d
  match d.gdmaGoing c with
  | some (desc, moved) => d.gdmaRun c desc (moved + 256) 17 moved
  | none => d

/-- Serve a channel until its descriptor ends or waits; the engine alternates with the other channels that have pending
descriptors at every 256 bytes (R285). -/
def Dev.gdmaTurns (c : Nat) : Nat → Dev → Dev
  | 0, d => d
  | fuel + 1, d =>
    if (d.gdmaGoing c).isSome then Dev.gdmaTurns c fuel (d.each [c, (c + 1) % 4, (c + 2) % 4, (c + 3) % 4] Dev.gdmaTurn) else d

/-- Go on with a channel's descriptor. -/
def Dev.gdmaGo (d : Dev) (c : Nat) : Dev :=
  match d.gdmaGoing c with
  | some (desc, _) => Dev.gdmaTurns c ((gdmaDecode desc).len / 256 + 2) d
  | none => d

/-- Serve the descriptor at HEAD when it is of the asked kind. -/
def Dev.gdmaServe (d : Dev) (c : Nat) (fill : Bool) : Dev :=
  if d.gdmaDue c then (d.gdmaBegin c (some fill)).gdmaGo c
  else if (d.gdmaGoing c).any fun p => (gdmaDecode p.1).fill == fill then d.gdmaGo c
  else d

/-- A held write of a channel has been performed: the descriptor goes on (R88). -/
def Dev.gdmaResume (d : Dev) (c : Nat) : Dev := d.gdmaGo c

/-- A held write of a channel ended with an error: the descriptor stops (R288). -/
def Dev.gdmaFail (d : Dev) (c err : Nat) : Dev :=
  match assoc c d.gdma.prog with
  | some ⟨desc, moved, none⟩ => d.gdmaAt c desc ((moved - 1) / 16 * 16) (some err)
  | _ => d

/-- A served descriptor completes: STATUS is written, HEAD advances, GDMA_DONE or GDMA_ERR is raised (R287, R288). -/
def Dev.gdmaDescDone (d : Dev) (c : Nat) : Dev :=
  match assoc c d.gdma.prog with
  | some ⟨desc, moved, some err⟩ =>
    let w := 1 + 16 * err + (if err = 0 then 0 else moved / 16 * 256)
    let (d, _) := d.lsWrite 5 (d.gdmaDescAddr c + 28) (leBytes 4 w)
    let h := d.gdmaHead c
    let d := { d with gdma := { d.gdma with
      prog := assocDel c d.gdma.prog,
      order := d.gdma.order.filter (fun p => p != (c, h)) } }
    let d := (d.put F.GDMA_Q_HEAD_HEAD ((h + 1) % d.gdmaSlots c) c).gdmaBusy
    if err = 0 then d.raiseIf (gdmaDecode desc).doneEvt Ev.GDMA_DONE c else d.raise Ev.GDMA_ERR c
  | _ => d

/-! ### Meanings -/

/-- GDMA_Q_TAIL (R285): a write while LS sleeps wakes it. -/
def execGdmaQTail (c : Fin 4) (tail : Byte) (s : State) : Host.Outcome State Fault Refusal :=
  .next (s.upd fun d => d.viaDomain domLS (R.GDMA_Q_TAIL.at c) tail.toNat (·.gdmaSubmit c tail.toNat))

/-- GDMA_COPY (R286, R287). -/
def execGdmaCopy (c : Fin 4) (s : State) : Host.Outcome State Fault Refusal := .next (s.upd (·.gdmaServe c false))

/-- GDMA_FILL (R286, R287). -/
def execGdmaFill (c : Fin 4) (s : State) : Host.Outcome State Fault Refusal := .next (s.upd (·.gdmaServe c true))

/-- GDMA_DESC_DONE (R287, R288). -/
def execGdmaDescDone (c : Fin 4) (s : State) : Host.Outcome State Fault Refusal := .next (s.upd (·.gdmaDescDone c))

end Sys2Proof.Machine
end

