-- ==== Sys2Proof/Machine/Bus.lean ====
section
/-! DEFINITION.  Registers and memories as a bus master reaches them: reads (R8 with every "reads as" of the register
tables), writes by access code (R8, R9, R398), the registers whose write does more, and the address map (R415 to R418). -/

set_option Elab.async false

namespace Sys2Proof.Machine

/-! ### Writes by access code -/

/-- The boot lock is set (R8, R404). -/
def Dev.locked (d : Dev) : Bool := d.on F.BOOT_CTRL_LOCK

/-- The bits that a write replaces at once: RW, and RWL before the boot lock; the class of DRAM ports 0 to 2 is RWL
(Table 12.13). -/
def Dev.writable (d : Dev) (r : Reg) (i : Nat) : Nat :=
  if r = R.DRQ_CFG ∧ i < 3 ∧ d.locked = true then r.rw &&& 0xFFFFFFF0
  else r.rw ||| (if d.locked then 0 else r.rwl)

/-- A write acts by the access code of each bit (R8): RW and open RWL bits are replaced, W1C bits clear, RWS bits go to
the shadow, and before the boot lock to the active value too (R398).  Everything else is unchanged. -/
def Dev.codeWrite (d : Dev) (r : Reg) (i w : Nat) : Dev :=
  let m := d.writable r i
  let old := d.plainWord r i
  let new := (putMask old m w) &&& (0xFFFFFFFF - (r.w1c &&& w))
  let d := if m ||| r.w1c = 0 then d else d.putWord r i new
  if r.rws = 0 then d
  else
    let v := BitVec.ofNat 32 (w &&& r.rws)
    let d := { d with shadow := RegFile.put d.shadow (r.at i) v }
    if d.locked then d else { d with active := RegFile.put d.active (r.at i) v }
where
  putMask (old m w : Nat) : Nat := (old &&& (0xFFFFFFFF - m)) ||| (w &&& m)

/-! ### Registers whose write does more -/

/-- NV_CMD with GO: the command of OP; an OP outside Table 15.10 ends with RANGE (R370). -/
def Dev.nvGo (d : Dev) (w : Nat) : Dev :=
  let n := bits w 20 12
  let p := bits w 27 24
  let k := bit w 23
  d.nvCommand (bits w 3 0) n p k fun d =>
    match bits w 3 0 with
    | 1 => d.nvRead n
    | 2 => d.nvWrite n false
    | 3 => d.nvWrite n true
    | 4 => d.pwCheck p k
    | 5 => d.pwSet p k
    | 6 => d.nvMode p k
    | 7 => d.nvStart [⟨284, zeroPage, false⟩] .clearPf
    | 8 => d.nvLock
    | _ => d.nvEnd 1

/-- LOG_PUSH: LOG_WRITE is appended with ORIGIN 1 and LSEQ 0 (R442). -/
def Dev.logPush (d : Dev) : Dev :=
  let w := fun i => d.rd R.LOG_WRITE i
  d.logAppend { time := w 0, lseq := 0, frame := bits (w 2) 15 0, code := bits (w 2) 31 16, detail := bits (w 3) 15 0,
                rep := bits (w 3) 23 16, sev := bits (w 3) 25 24, level := bits (w 3) 30 26, origin := 1 }

/-- LOG_POP: the oldest entry is removed (R443). -/
def Dev.logPop (d : Dev) : Dev :=
  { d with log := { d.log with entries := d.log.entries.drop 1 } }.put F.LOG_STATUS_COUNT (d.log.entries.drop 1).length

/-- LOG_STATUS.CLEAR: DROPPED becomes 0 (R445). -/
def Dev.logClear (d : Dev) : Dev := d.put F.LOG_STATUS_DROPPED 0

/-- A change of IFS or of the boost mapping ends the calibration windows of the sinks and boosts it touches (R265);
`old` is the device before the change. -/
def Dev.calConfig (d old : Dev) : Dev :=
  let sinks := (List.range 128).filter fun s => d.rd R.SINK_CFG s &&& 0x0F0000FF != old.rd R.SINK_CFG s &&& 0x0F0000FF
  let ics := (List.range 31).filter fun i => d.rd R.ZB_MAP i &&& 0x0F0000FF != old.rd R.ZB_MAP i &&& 0x0F0000FF
  let d := d.each sinks fun d s =>
    ((d.calEndSink s).calEndBoost (d.get F.SINK_CFG_BOOST s)).calEndBoost (old.get F.SINK_CFG_BOOST s)
  d.each ics fun d i => (d.calEndBoost (d.get F.ZB_MAP_BOOST i)).calEndBoost (old.get F.ZB_MAP_BOOST i)

/-- SYS. -/
def Dev.writeSys (d : Dev) (r : Reg) (i w : Nat) : Dev :=
  if r = R.WDT_CTRL then (d.codeWrite r i w).when (bit w 31) (·.put F.WDT_CTRL_EN 1)
  else if r = R.WDT_KICK then d.when (w % 256 == 0x5A) fun d => d.setCp fun c => { c with wdt := 0 }
  else if r = R.CP_SWAP_CTRL then (d.codeWrite r i w).when (bit w 31) (·.put F.CP_SWAP_CTRL_GO 1)
  else if r = R.LOG_PUSH then d.logPush
  else if r = R.LOG_POP then d.logPop
  else if r = R.LOG_STATUS then d.when (bit w 15) (·.logClear)
  else d.codeWrite r i w

/-- FSEQ: COMMIT (R27, R335) and the ladder target (R434). -/
def Dev.writeFseq (d : Dev) (r : Reg) (i w : Nat) : Dev :=
  if r = R.FSEQ_COMMIT then d.when (bit w 0) fun d => if d.eqxHolds then d.raise Ev.EQX_BUSY else d.commit
  else if r = R.LADDER_CTRL then
    let d := d.codeWrite r i w
    { d with scan := { d.scan with targetWritten := true } }
  else d.codeWrite r i w

/-- SCHED: IMEM_LOAD.GO (R218), DALE_CTRL (R217); SCHED_CTRL.EN before the boot lock is held until the lock (R398). -/
def Dev.writeSched (d : Dev) (r : Reg) (i w : Nat) : Dev :=
  if r = R.IMEM_LOAD then
    (d.codeWrite r i w).when (bit w 31) fun d => (d.put F.IMEM_LOAD_GO 1).put F.SCHED_STATUS_IMEM_BUSY 1
  else if r = R.DALE_CTRL then
    ((d.codeWrite r i w).when (bit w 17) fun d => d.daleEvent i 4).when (bit w 16) fun d => d.daleStart i
  else if r = R.SCHED_CTRL ∧ d.locked = false then
    ((d.codeWrite r i w).put F.SCHED_CTRL_EN 0).setBoot fun b => { b with schedEn := bit w 0 }
  else d.codeWrite r i w

/-- DRAM: quotas (R298), segment clears (R310), and PANIC_EN (R303). -/
def Dev.writeDram (d : Dev) (r : Reg) (i w : Nat) : Dev :=
  if r = R.DRQ_CFG then (d.codeWrite r i w).quotaWrite i (bits w 31 16)
  else if r = R.DRAM_SEG_CLEAR then d.segClear i (w % 256)
  else if r = R.DRAM_CTRL then (d.codeWrite r i w).showPanic
  else d.codeWrite r i w

/-- WALL: PREPARE, acknowledgements, notices, removal (R333 to R340, R315). -/
def Dev.writeWall (d : Dev) (r : Reg) (i w : Nat) : Dev :=
  if r = R.EQX_CMD then if bit w 31 then d.eqxStart (bit w 30) (bits w 17 16) (bits w 15 0) else d.codeWrite r i w
  else if r = R.EQX_ACK then
    if bit w 1 then d.eqxOwn none (some (byteOf (w / 256))) else if bit w 0 then d.eqxOwn none none else d
  else if r = R.NOTICE_TX then if bit w 31 then d.noticeTx (w % 65536) else d.codeWrite r i w
  else if r = R.WALL_REMOVE then d.wallRemove (w % 1024)
  else d.codeWrite r i w

/-- A locked limit written above its maximum reads as the maximum (R252). -/
def blLimit (w : Nat) : Nat :=
  min 140 (bits w 31 24) * 2 ^ 24 + min 64 (bits w 23 16) * 2 ^ 16 + min 236 (bits w 15 8) * 2 ^ 8 + min 160 (bits w 7 0)

/-- BL: enable and restart (R236), fault clears (R233, R237), enumeration (R248), limits (R252), OUT_EN of an IC whose strings
may light (R222). -/
def Dev.writeBl (d : Dev) (r : Reg) (i w : Nat) : Dev :=
  if r = R.BL_CTRL then
    let en := d.get F.BL_CTRL_EN
    (((d.codeWrite r i w).put F.BL_CTRL_EN en).blEnWrite (bit w 31)).when (bit w 30) (·.blRestart)
  else if r = R.BL_LIMIT then d.codeWrite r i (blLimit w)
  else if r = R.BOOST_FAULT then (d.codeWrite r i (w &&& 1)).when (bit w 1) fun d => d.boostOcClear i
  else if r = R.SINK_STATUS then d.sinkFaultClear i (w % 16)
  else if r = R.ZB_CTRL then (d.codeWrite r i w).when (bit w 31) (·.enumStart)
  else if r = R.ZB_MAP then ((d.codeWrite r i (w / 256 * 256 + min 160 (w % 256))).calConfig d).when (d.foundIcs.contains i) (·.icOut i)
  else if r = R.SINK_CFG then (d.codeWrite r i w).calConfig d
  else d.codeWrite r i w

/-- CAL (R258, R262, R265). -/
def Dev.writeCal (d : Dev) (r : Reg) (i w : Nat) : Dev :=
  if r = R.CAL_CTRL then d.calEnWrite (w % 64)
  else if r = R.CAL_FW_REPORT then d.calFwReport (bits w 11 0) (bits w 23 20)
  else if r = R.SG_COMMIT then d.when (bit w 31) fun d => d.sgCommit (w % 16)
  else d.codeWrite r i w

/-- PWR: state commands (R353), the dale turbo (R350), domain requests (R348), pad release (R366);
FREQ is ignored in pass-through and in a wall once the boot is locked (R352). -/
def Dev.writePwr (d : Dev) (r : Reg) (i w : Nat) : Dev :=
  if r = R.PWR_CMD then d.stateFrom (w % 16) .firmware
  else if r = R.PWR_CFG then
    let was := d.get F.PWR_CFG_DALE_TURBO
    ((d.codeWrite r i w).put F.PWR_CFG_DALE_TURBO was).when (bit w 31 != (was == 1)) fun d => d.daleTurbo (bit w 31)
  else if r = R.DOM_CTRL then
    let was := d.get F.DOM_CTRL_REQ i
    let d := (d.codeWrite r i w).put F.DOM_CTRL_REQ was i
    match w % 4 with
    | 1 => d.domReqOn i
    | 2 => d.domReqRet i
    | _ => d.put F.DOM_CTRL_REQ 0 i
  else if r = R.PAD_HOLD then d.padRelease (w % 64)
  else if r = R.PIPE_CLK ∧ d.locked = true ∧ (!d.buffered || d.inWall) = true then d
  else d.codeWrite r i w

/-- PSEQ_CMD: 1 starts the ON list, 2 the OFF list (R156). -/
def Dev.writePseq (d : Dev) (r : Reg) (i w : Nat) : Dev :=
  if r = R.PSEQ_CMD then if w = 1 then d.pseqOn else if w = 2 then d.pseqOff else d
  else d.codeWrite r i w

/-- BOOT_CTRL: the lock, and the retry of a boot hold (R396). -/
def Dev.writeBoot (d : Dev) (r : Reg) (i w : Nat) : Dev :=
  if r = R.BOOT_CTRL then ((d.codeWrite r i w).when (bit w 31) (·.put F.BOOT_CTRL_LOCK 1)).when (bit w 30) (·.bootAgain)
  else d.codeWrite r i w

/-- GPIO_OUT and GPIO_OE change only for pins whose FUNC is 0 (R470). -/
def Dev.writePin (d : Dev) (r : Reg) (i w : Nat) : Dev :=
  if r = R.GPIO_OUT ∨ r = R.GPIO_OE then
    let m := maskOf 16 fun g => d.get F.GPIO_CFG_FUNC g == 0
    d.putWord r i ((d.plainWord r i &&& (0xFFFFFFFF - m)) ||| (w &&& m))
  else d.codeWrite r i w

/-- MGMT: completions (R424) and firmware's host events (R421). -/
def Dev.writeMgmt (d : Dev) (r : Reg) (i w : Nat) : Dev :=
  if r = R.MB_COMPLETE then d.each (idxs 3 (bit w)) Dev.mbComplete
  else if r = R.HOST_EVENT_SET then d.each ([1, 5].filter (bit w)) Dev.hostEvent
  else d.codeWrite r i w

/-- A write of word `w` to index `i` of a register, whose domain is ON. -/
def Dev.regPut (d : Dev) (r : Reg) (i w : Nat) : Dev :=
  match (r.addr - 0x40000000) / 0x10000 with
  | 0 => d.writeSys r i w
  | 1 => d.writeFseq r i w
  | 3 => d.writeSched r i w
  | 6 => if r = R.COL_CTLPKT_HDR then (d.codeWrite r i w).when (bit w 31) (·.ctlGo) else d.codeWrite r i w
  | 7 =>
    if r = R.CODEC_CTRL then (d.codeWrite r i w).ctxReset (bits w 19 16)
    else if r = R.CODEC_Q_TAIL then d.put F.CODEC_Q_TAIL_TAIL (w % 256 % d.codecSlots i) i
    else d.codeWrite r i w
  | 8 => if r = R.LS_BANK_CTRL then (d.flag F.LS_BANK_CTRL_VERIFY (bit w 2) i).bankRequest i (w % 4) else d.codeWrite r i w
  | 9 => d.writeDram r i w
  | 10 => d.writeWall r i w
  | 11 => d.writeBl r i w
  | 13 => d.writePwr r i w
  | 14 => d.writePseq r i w
  | 15 => d.writeCal r i w
  | 16 => if r = R.NV_CMD then (if bit w 31 then d.nvGo w else d.codeWrite r i w) else d.codeWrite r i w
  | 17 => d.writeBoot r i w
  | 18 => d.writePin r i w
  | 19 => d.writeMgmt r i w
  | 20 => if r = R.XSPI_CMD then (d.codeWrite r i w).when (bit w 31) fun d => d.xspiGo (bit w 27) else d.codeWrite r i w
  | 21 => if r = R.GDMA_Q_TAIL then d.gdmaSubmit i (w % 256) else d.codeWrite r i w
  | _ => d.codeWrite r i w

/-! ### Register accesses -/

/-- A bus address of layer 7's registers or palette (R78). -/
def layer7 (a : Nat) : Bool :=
  (decide (0x400202C0 ≤ a) && decide (a < 0x40020300)) || (decide (0x40022800 ≤ a) && decide (a < 0x40022C00))

/-- A bus address in MB_WIN (Table 17.14), as mailbox and offset. -/
def mbWin (a : Nat) : Option (Nat × Nat) :=
  if 0x40130000 ≤ a ∧ a < 0x40130300 then some ((a - 0x40130000) / 256, (a - 0x40130000) % 256) else none

/-- A mailbox byte that firmware may write: the response fields but the status byte. -/
def mbWritable (o : Nat) : Bool := decide (mbRspSeq ≤ o) && decide (o < mbDoorbell)

/-- The domain of the register at a bus address; none where no block defines one (R415). -/
def regDomain (a : Nat) : Option Nat :=
  match mbWin a with
  | some _ => some 0
  | none => (findReg (a / 4 * 4)).map fun p => p.1.domain p.2

/-- Who last wrote the shadows of layer 7 (R74). -/
def Dev.noteLayer7 (d : Dev) (m : Master) (a : Nat) : Dev :=
  if layer7 a then { d with scan := { d.scan with l7Wall := m == .wall } } else d

/-- A whole word is written at a bus address; the flag is an error response.  The domain is ON. -/
def Dev.regWrite (d : Dev) (m : Master) (a w : Nat) : Dev × Bool :=
  if layer7 a ∧ d.on F.COMP_CTRL_WALL_FEED ∧ m = .cp then (d, true)
  else
    match findReg a with
    | some (r, i) => ((d.noteLayer7 m a).regPut r i w, false)
    | none => (d, true)

/-- "Reads as" of the register tables: the value that a stored field value reads as. -/
def readsAs : List (Field × (Nat → Nat)) := [
  (F.RASTER_FLOOR_FLOOR_US, fun v => if v = 0 ∨ 100000 < v then 100000 else v),
  (F.GUARD_CTRL_GUARD_WAIT, max 1),
  (F.COMP_REF_GAIN_MAX, max 0x1000),
  (F.COL_CTLPKT_HDR_LEN, min 16),
  (F.CODEC_Q_CFG_SIZE, min 8),
  (F.GDMA_Q_CFG_SIZE, min 8),
  (F.SCHED_CTRL_ZONE_CAP, fun v => max 1 (min 32 v)),
  (F.IMEM_LOAD_LEN, fun v => max 1 (min 32 v)),
  (F.LS_CTRL_TEST_GAP, max 1),
  (F.LS_BANK_CTRL_STATE_REQ, fun v => if v = 3 then 0 else v),
  (F.DRAM_CTRL_SCRUB_HOURS, max 1),
  (F.DRAM_AGE_LIMIT_MAINT, max 1),
  (F.DRAM_RD_CFG_RD_WINDOW, max 1),
  (F.DRAM_RD_CFG_RD_THRESH, max 1),
  (F.VIGIL_CFG_PERIOD, max 100),
  (F.DOM_CTRL_REQ, fun v => if v = 3 then 0 else v),
  (F.NV_CTRL_REFRESH_DAYS, fun v => if v = 0 ∨ 30 < v then 30 else v),
  (F.WDT_CTRL_TIMEOUT, max 1)]

/-- A stored word as a read returns it. -/
def shownWord (r : Reg) (w : Nat) : Nat :=
  (readsAs.filter fun p => p.1.reg == r).foldl (fun w p => putBits w p.1.hi p.1.lo (p.2 (bits w p.1.hi p.1.lo))) w

/-- The event and interrupt-enable registers of each bit of IRQ_SUMMARY (Table 17.8); PSEQ has no enables (R419). -/
def irqBlocks : List (Nat × Reg × Option Reg) := [
  (0, R.SYS_EVENT, some R.SYS_INT_EN), (1, R.FSEQ_EVENT, some R.FSEQ_INT_EN), (2, R.SCAN_EVENT, some R.SCAN_INT_EN),
  (3, R.SCHED_EVENT, some R.SCHED_INT_EN), (4, R.CORR_EVENT, some R.CORR_INT_EN), (5, R.DRIVE_EVENT, some R.DRIVE_INT_EN),
  (6, R.COL_EVENT, some R.COL_INT_EN), (7, R.CODEC_EVENT, some R.CODEC_INT_EN), (8, R.LS_EVENT, some R.LS_INT_EN),
  (9, R.DRAM_EVENT, some R.DRAM_INT_EN), (10, R.WALL_EVENT, some R.WALL_INT_EN), (11, R.BL_EVENT, some R.BL_INT_EN),
  (12, R.RX_EVENT, some R.RX_INT_EN), (13, R.PWR_EVENT, some R.PWR_INT_EN), (14, R.PSEQ_EVENT, none),
  (15, R.CAL_EVENT, some R.CAL_INT_EN), (16, R.NV_EVENT, some R.NV_INT_EN), (17, R.BOOT_EVENT, some R.BOOT_INT_EN),
  (18, R.MGMT_EVENT, some R.MGMT_INT_EN), (19, R.GDMA_EVENT, some R.GDMA_INT_EN)]

/-- IRQ_SUMMARY (R419): bit b is 1 while its block has an event that is both set and enabled. -/
def Dev.irqSummary (d : Dev) : Nat :=
  irqBlocks.foldl (fun acc b =>
    let en := match b.2.2 with | some r => d.rd r | none => 0xFFFFFFFF
    if d.rd b.2.1 &&& en = 0 then acc else acc + 2 ^ b.1) 0

/-- The word that a read of a bus address returns; none is an error response.  The domain is ON. -/
def Dev.regRead (d : Dev) (a : Nat) : Option Nat :=
  match mbWin a with
  | some (m, o) => some (leNat ((List.range 4).map fun i => d.mbByte m (o + i)))
  | none =>
    match findReg a with
    | none => none
    | some (r, i) => some (
        if r = R.IRQ_SUMMARY then d.irqSummary
        else if r = R.LOG_ENTRY then
          match d.log.entries with
          | e :: _ => leNat ((e.bytes.drop (4 * i)).take 4)
          | [] => 0
        else if r = R.CODEC_Q_HEAD ∨ r = R.CODEC_Q_TAIL then d.rdShadow r i % d.codecSlots i
        else if r = R.GDMA_Q_HEAD ∨ r = R.GDMA_Q_TAIL then d.rdShadow r i % d.gdmaSlots i
        else shownWord r (d.rdShadow r i))

/-- A store of `n` bytes into register space: a store narrower than the word keeps the other bytes' fields (DESIGN CHOICE,
log entry 20: the spec gives no access size). -/
def Dev.regStore (d : Dev) (m : Master) (a n v : Nat) : Dev × Bool :=
  let lo := 8 * (a % 4)
  let hi := lo + 8 * n - 1
  if 4 < a % 4 + n then (d, true)
  else
    match mbWin a with
    | some (k, o) =>
      (d.each (List.range n) fun d i => if mbWritable (o + i) then d.mbPut k (o + i) [byteOf (v / 256 ^ i)] else d, false)
    | none =>
      if n = 4 then d.regWrite m a v
      else
        match findReg (a / 4 * 4) with
        | none => (d, true)
        | some (r, i) =>
          let keep := d.rdShadow r i &&& (r.rw ||| r.rwl ||| r.rws) &&& (0xFFFFFFFF - putBits 0 hi lo 0xFFFFFFFF)
          d.regWrite m (a / 4 * 4) (keep ||| putBits 0 hi lo v)

/-! ### The address map (Table 17.1) -/

/-- Bus address of DRAM byte `a`. -/
def busDram (a : Nat) : Nat := 2 ^ 33 + a

/-- The bus address that a control-processor address names, for the windows outside the control processor; none outside
the listed ranges. -/
def Dev.cpBus (d : Dev) (a : Nat) : Option Nat :=
  if 0x10000000 ≤ a ∧ a < 0x11000000 then some a
  else if 0x20000000 ≤ a ∧ a < 0x21800000 then some a
  else if 0x40000000 ≤ a ∧ a < 0x40160000 then some a
  else if 0x80000000 ≤ a ∧ a < 0xC0000000 then some (busDram (d.get F.CP_CTRL_DWIN0 * 2 ^ 30 + (a - 0x80000000)))
  else if 0xC0000000 ≤ a ∧ a < 2 ^ 32 then some (busDram (d.get F.CP_CTRL_DWIN1 * 2 ^ 30 + (a - 0xC0000000)))
  else none

/-- The domain that an access to a bus address needs. -/
def busDomain (a : Nat) : Option Nat :=
  if 2 ^ 33 ≤ a then (if a - 2 ^ 33 < dramTop then some (chDomain (dramChannel (a - 2 ^ 33))) else none)
  else if 0x40000000 ≤ a then regDomain a
  else if 0x21000000 ≤ a then some (domGlen ((a - 0x21000000) / 0x20000))
  else if 0x20000000 ≤ a then some (daleDomain ((a - 0x20000000) / 0x10000))
  else some domLS

/-- Line-store and DRAM ports of a master (Tables 11.2 and 12.3). -/
def Master.lsPort : Master → Nat
  | .dale k => dalePort k
  | .wall => 7
  | _ => 0
def Master.dramPort : Master → Nat
  | .dale _ => 7
  | .wall => 4
  | _ => 3

/-- The control processor may write a dale's IMEM and DMEM (R206). -/
def Dev.daleOpen (d : Dev) (k : Nat) : Bool :=
  !d.on F.SCHED_CTRL_EN || d.daleMode k == 2 || (d.daleMode k == 1 && !(d.dale k).service)

/-- A bus address in the dale windows, as a dale and its own address (Tables 8.2, 17.1): IMEM, DMEM, glen shared memory. -/
def glenWindow (a : Nat) : Nat × Nat :=
  if 0x21000000 ≤ a then (4 * ((a - 0x21000000) / 0x20000), 0x20000 + a % 0x20000)
  else ((a - 0x20000000) / 0x10000, if a % 0x10000 < 0x8000 then a % 0x10000 else 0x8000 + a % 0x10000)

/-- A store of a dale into the line store: each word access is arbitrated and reported on its own (R192, R270, R473); those
that `loses` marks lose a collision. -/
def Dev.daleLsWrite (d : Dev) (k a : Nat) (bs : List Byte) (loses : List Bool) : Dev :=
  d.each ((lsSpans (bs.length + 1) a bs.length).zipIdx) fun d ((w, o, m), i) =>
    if loses.getD i false then (d.lsLose (dalePort k) w).dlsstat k 0 (some w)
    else
      let (d, st) := d.lsWriteWord (dalePort k) w o ((bs.drop (16 * w + o - a)).take m)
      if st = .ok then d else d.dlsstat k 2 (some w)

/-- A store is performed at a bus address whose domain is ON; the flag is an error response that is still to be
reported. -/
def Dev.busPerform (d : Dev) (m : Master) (a n v : Nat) : Dev × Bool :=
  let bs := leBytes n v
  if 2 ^ 33 ≤ a then
    let (d, st) := d.dramWrite m.dramPort (a - 2 ^ 33) bs
    (d, st != .ok)
  else if 0x40000000 ≤ a then d.regStore m a n v
  else if 0x20000000 ≤ a then
    let (k, o) := glenWindow a
    if 0x21000000 ≤ a ∨ d.daleOpen k = true then d.glenWrite k o bs else (d, true)
  else
    match m with
    | .dale k => (d.daleLsWrite k (a - 0x10000000) bs [], false)
    | _ =>
      let (d, st) := d.lsWrite m.lsPort (a - 0x10000000) bs
      (d, st != .ok)

/-- The control-processor address of a bus address, through the windows in force. -/
def Dev.cpAddr (d : Dev) (a : Nat) : Nat :=
  if a < 2 ^ 33 then a
  else
    let o := a - 2 ^ 33
    if o / 2 ^ 30 = d.get F.CP_CTRL_DWIN0 then 0x80000000 + o % 2 ^ 30 else 0xC0000000 + o % 2 ^ 30

/-- An error response to a posted store: the control processor's is recorded in CP_BUS_ERR (R418), a dale's in DLSSTAT
(R473); no exception is raised. -/
def Dev.busError (d : Dev) (m : Master) (a : Nat) : Dev :=
  match m with
  | .cp =>
    let d := d.inc F.CP_BUS_ERR_COUNT_COUNT
    (if d.on F.SYS_EVENT_BUS_ERR then d else d.put F.CP_BUS_ERR_ADDR (d.cpAddr a)).raise Ev.BUS_ERR
  | .dale k => d.dlsstat k 2 none
  | _ => d

/-- An older access of the master to the domain still stalls: a later one waits behind it, so that accesses to one address
complete in program order (R25). -/
def Dev.behind (d : Dev) (m : Master) (k : Nat) : Bool :=
  d.pwr.stalled.any fun q => q.master == m && busDomain q.addr == some k

/-- A posted store of `n` bytes: it stalls on a domain in RET, which wakes (R346), and behind an older access of its master
that stalls there (R25); an error response is reported. -/
def Dev.busStore (d : Dev) (m : Master) (a n v : Nat) : Dev :=
  match busDomain a with
  | none => d.busError m a
  | some k =>
    if d.domOn k && !d.behind m k then
      let (d, bad) := d.busPerform m a n v
      if bad then d.busError m a else d
    else d.stall ⟨m, true, a, n, v⟩ [k]

/-- A read of `n` bytes at a bus address whose domain is ON; none is an error response. -/
def Dev.busRead (d : Dev) (m : Master) (a n : Nat) : Dev × Option (List Byte) :=
  if 2 ^ 33 ≤ a then
    let (d, st, bs) := d.dramRead m.dramPort (a - 2 ^ 33) n
    (d, if st = .ok then some bs else none)
  else if 0x40000000 ≤ a then
    (d, if 4 < a % 4 + n then none else (d.regRead (a / 4 * 4)).map fun w => leBytes n (w / 256 ^ (a % 4)))
  else if 0x20000000 ≤ a then
    let (k, o) := glenWindow a
    let (d, bad) := d.glenMeet k o n
    (d, if bad then none else some (d.localRead k o n))
  else
    let (d, st, bs) := d.lsRead m.lsPort (a - 0x10000000) n
    (d, if st = .ok then some bs else none)

/-- How a load stands. -/
inductive Loaded where
  /-- the domain wakes: the load stalls and is issued again -/
  | stall
  | error
  | data (bs : List Byte)
  deriving DecidableEq, Repr

/-- A load of `n` bytes (R346): a domain in RET wakes and the load stalls, as it does behind an older store (R25). -/
def Dev.busLoad (d : Dev) (m : Master) (a n : Nat) : Dev × Loaded :=
  match busDomain a with
  | none => (d, .error)
  | some k =>
    if d.domOn k && !d.behind m k then
      match d.busRead m a n with
      | (d, some bs) => (d, .data bs)
      | (d, none) => (d, .error)
    else (d.startWake k, .stall)

/-! ### Wall register accesses (R319) -/

/-- A packet that this device sends to another: down the port that learned the address, else upstream (R325). -/
def Dev.wallTo (d : Dev) (c : WCmd) : Dev :=
  match d.wallDown.find? fun q => (d.wp q).learned.contains c.dst with
  | some q => d.wallSend q c
  | none => d.wallUp c

/-- A REG_RD is answered with RD_RSP: its status, and the words; the spec does not code the status, nor give the word of
an offset that no block defines (log entry 21). -/
def Dev.wallRead (d : Dev) (a n dst : Nat) : Dev :=
  let ws := (List.range n).map fun i => d.regRead (a + 4 * i)
  let (k, d) := d.fresh
  let word := fun (p : Option Nat × Nat) => match p.1 with
    | some w => leBytes 4 w
    | none => (List.range 4).map fun j => Config.freeByte k (4 * p.2 + j)
  d.wallTo ⟨0x22, dst, d.wallSrc, Config.rdStatus (ws.all (·.isSome)) :: ws.zipIdx.flatMap word⟩

/-- The first domain of the words that is not ON. -/
def Dev.asleep (d : Dev) (a n : Nat) : Option Nat :=
  (List.range n).findSome? fun i => (regDomain (a + 4 * i)).bind fun k => if d.domOn k then none else some k

/-- REG_RD: it stalls while a domain it reaches wakes. -/
def Dev.wallReadReq (d : Dev) (a n dst : Nat) : Dev :=
  match d.asleep a n with
  | some k => d.stall ⟨.wall, false, a, n, dst⟩ [k]
  | none =>
    if (List.range n).any fun i => (regDomain (a + 4 * i)).any fun k => d.behind .wall k then
      d.stall ⟨.wall, false, a, n, dst⟩ []
    else d.wallRead a n dst

/-! ### Meanings -/

/-- REG_WRITE (R8, R9, R28, R265, R470): the control processor writes the word at an offset of register space. -/
def execRegWrite (offset : BitVec 21) (value : Word) (s : State) : Host.Outcome State Fault Refusal :=
  .next (s.upd fun d => d.busStore .cp (0x40000000 + offset.toNat) 4 value.toNat)
/-- WALL_REG_WR (R319): register writes of the wall block. -/
def execWallRegWr (p : Fin 4) (h : WallHdr) (offset : BitVec 32) (words : List Word) (s : State) :
    Host.Outcome State Fault Refusal :=
  .next (s.upd fun d => d.cmdRx p h 0x20 (u4 offset.toNat ++ words.flatMap fun w => u4 w.toNat) fun d =>
    d.each ((words.take 64).zipIdx) fun d q => d.busStore .wall (0x40000000 + offset.toNat + 4 * q.2) 4 q.1.toNat)
/-- WALL_REG_RD (R319). -/
def execWallRegRd (p : Fin 4) (h : WallHdr) (offset : BitVec 32) (count : Byte) (s : State) :
    Host.Outcome State Fault Refusal :=
  .next (s.upd fun d => d.cmdRx p h 0x21 (u4 offset.toNat ++ [count]) fun d =>
    d.wallReadReq (0x40000000 + offset.toNat) (min 64 count.toNat) h.src.toNat)
/-- LOG_PUSH (R442). -/
def execLogPush (s : State) : Host.Outcome State Fault Refusal := .next (s.upd (·.logPush))
/-- LOG_POP (R443). -/
def execLogPop (s : State) : Host.Outcome State Fault Refusal := .next (s.upd (·.logPop))
/-- LOG_CLEAR (R445). -/
def execLogClear (s : State) : Host.Outcome State Fault Refusal := .next (s.upd (·.logClear))

end Sys2Proof.Machine
end

