-- ==== Sys2Proof/Machine/Harts.lean ====
section
/-! DEFINITION.  Instructions of the two kinds of hart: the dales' base set, loads and stores with their guards (R187 to
R193), and the control processor (R409, R415 to R420). -/

set_option Elab.async false

namespace Sys2Proof.Machine

/-- A FENCE waits for a posted store that still stalls, when its predecessor set names the store's kind: O (bit 26) for a
register, W (bit 24) for memory (R25, R26).  FENCE.I waits for both. -/
def Dev.fenceWaits (d : Dev) (m : Master) (o w : Bool) : Bool :=
  d.pwr.stalled.any fun a => a.master == m && a.write && (if 0x40000000 ≤ a.addr ∧ a.addr < 2 ^ 33 then o else w)

/-! ### Dales -/

/-- The hart of a dale changes. -/
def Dev.setDaleHart (d : Dev) (k : Nat) (h : Hart) : Dev := d.setDale k fun s => { s with hart := h }

/-- A precise GUARD error: DLSSTAT.GUARD and a store access fault, which in a job has its own cause (R190, Table 8.6). -/
def Dev.daleGuard (d : Dev) (k a : Nat) : Dev :=
  let d := d.dlsstat k 1 none
  if (d.dale k).job.isSome then d.jobFault k 4 else d.daleTrap k excStoreFault (BitVec.ofNat 32 a)

/-- The bus address that a dale address names outside the glen (Table 8.2). -/
def Dev.daleBus (d : Dev) (k a : Nat) : Option Nat :=
  if 0x10000000 ≤ a ∧ a < 0x11000000 then some a
  else if 0x40000000 ≤ a ∧ a < 0x50000000 then some a
  else if 0x80000000 ≤ a ∧ a < 0xC0000000 then
    some (busDram (((d.dale k).hart.csrWord 0x7C0).toNat * 2 ^ 30 + (a - 0x80000000)))
  else none

/-- A dale address range of its own IMEM, of its own DMEM, of its glen's shared memory with the job buffers. -/
def inImem (a n : Nat) : Bool := decide (a + n ≤ 0x8000)
def inDmem (a n : Nat) : Bool := decide (0x10000 ≤ a) && decide (a + n ≤ 0x18000)
def inShared (a n : Nat) : Bool := decide (0x20000 ≤ a) && decide (a + n ≤ 0x40000)

/-- A load of a dale (R187, R189, R272, R473): a misaligned one outside the line-store window raises an exception. -/
def Dev.daleLoad (d : Dev) (k size : Nat) (sg : Bool) (rd : Nat) (addr : Word) (ecc len : Nat) : Dev :=
  let a := addr.toNat
  let ls := decide (0x10000000 ≤ a) && decide (a + size ≤ 0x11000000)
  if a % size ≠ 0 ∧ ls = false then d.daleTrap k excLoadMis addr
  else if inImem a size || inDmem a size || inShared a size then
    d.daleRead k a size ecc (f := fun d bs => d.daleDone k len rd (loadWord size sg bs))
  else
    match d.daleBus k a with
    | none => d.daleTrap k excLoadFault addr
    | some b =>
      if (decide (0x10000000 ≤ a) && decide (a < 0x11000000)) && !ls then d.daleTrap k excLoadFault addr
      else
        match d.busLoad (.dale k) b size with
        | (d, .data bs) => d.daleDone k len rd (loadWord size sg bs)
        | (d, .error) => d.daleTrap k excLoadFault addr
        | (d, .stall) => d

/-- Does a store hit RWS bits of a register (R29, R190)? -/
def storesShadow (a n : Nat) : Bool :=
  match findReg (a / 4 * 4) with
  | some (r, _) => r.rws &&& putBits 0 (8 * (a % 4) + 8 * n - 1) (8 * (a % 4)) 0xFFFFFFFF != 0
  | none => false

/-- A store of `n` bytes that R190 refuses: another dale's job buffer, a zone-context area while SCHED_CTRL.EN is 1, an
RWS field, a range of the scan guard. -/
def Dev.daleRefused (d : Dev) (k a n : Nat) : Bool :=
  if 0x3FC00 ≤ a ∧ a < 0x40000 then (a - 0x3FC00) / 256 != k % 4
  else if 0x10000000 ≤ a ∧ a < 0x11000000 then
    d.on F.SCHED_CTRL_EN && (overlaps (a - 0x10000000) n (d.ctxArea 0) 0x100000 || overlaps (a - 0x10000000) n (d.ctxArea 1) 0x100000)
  else if 0x40000000 ≤ a ∧ a < 0x50000000 then storesShadow a n
  else
    match d.daleBus k a with
    | some b => decide (2 ^ 33 ≤ b) && d.guarded (b - 2 ^ 33) n
    | none => false

/-- A store of a dale (R187 to R190, R192, R473); `loses` says which of its word accesses in the line store, lower word
first, lose a same-cycle collision. -/
def Dev.daleStore (d : Dev) (k size : Nat) (addr v : Word) (ecc : Nat) (loses : List Bool) (len : Nat) : Dev :=
  let a := addr.toNat
  let ls := decide (0x10000000 ≤ a) && decide (a + size ≤ 0x11000000)
  if a % size ≠ 0 ∧ ls = false then d.daleTrap k excStoreMis addr
  else if d.daleRefused k a size then
    (match d.daleBus k a with
      | some b => if 2 ^ 33 ≤ b then d.guardRefuse (b - 2 ^ 33) else d
      | none => d).daleGuard k a
  else if inDmem a size || inShared a size then
    let (d, bad) := (d.glenUpset k a ecc).glenWrite k a (leBytes size v.toNat)
    if bad then d.daleUncorr k excStoreFault addr else d.daleDone k len 0 0
  else
    match d.daleBus k a with
    | none => d.daleTrap k excStoreFault addr
    | some b =>
      if (decide (0x10000000 ≤ a) && decide (a < 0x11000000)) && !ls then d.daleTrap k excStoreFault addr
      else if ls && loses.any id && d.domOn domLS && !d.behind (.dale k) domLS then
        (d.daleLsWrite k (a - 0x10000000) (leBytes size v.toNat) loses).daleDone k len 0 0
      else (d.busStore (.dale k) b size v.toNat).daleDone k len 0 0

/-- A CSR instruction of a dale (R193). -/
def Dev.daleCsrOp (d : Dev) (k : Nat) (o : CsrOp) (rd : Nat) (src : Word) (srcReg n w : Nat) : Dev :=
  match d.daleCsr k n with
  | none => d.daleTrap k excIllegal (BitVec.ofNat 32 w)
  | some old =>
    match csrNew o old src srcReg with
    | some v =>
      if 0xC00 ≤ n then d.daleTrap k excIllegal (BitVec.ofNat 32 w)
      else d.setDaleHart k ((((daleCsrWrite (d.dale k).hart n v).setReg rd old).advance 4).retire)
    | none => d.setDaleHart k (((((d.dale k).hart).setReg rd old).advance 4).retire)

/-- A decoded instruction of a dale: RV32IMC and Zicsr, or the extension (R187, R194); FENCE.I belongs to neither. -/
def Dev.daleExec (d : Dev) (k : Nat) (i : RvInstr) (len w : Nat) : Dev :=
  match (d.dale k).hart.exec i len w with
  | .done h =>
    match i with
    | .fenceI => d.daleTrap k excIllegal (BitVec.ofNat 32 w)
    | .fence => if d.fenceWaits (.dale k) (bit w 26) (bit w 24) then d else d.setDaleHart k h.retire
    | _ => d.setDaleHart k h.retire
  | .trap c t => d.daleTrap k c t
  | .load n sg rd a => d.daleLoad k n sg rd a 0 len
  | .store n a v => d.daleStore k n a v 0 [] len
  | .csr o rd src sr n => d.daleCsrOp k o rd src sr n w
  | .custom w =>
    match daleDecode w with
    | some o => d.daleExt k o 0
    | none => d.daleTrap k excIllegal (BitVec.ofNat 32 w)
  | .mret => d.setDaleHart k (d.dale k).hart.mret.retire
  | .wfi => d.setDaleHart k (((d.dale k).hart.advance 4).retire)
  | .lr _ _ => d.daleTrap k excIllegal (BitVec.ofNat 32 w)
  | .sc _ _ _ => d.daleTrap k excIllegal (BitVec.ofNat 32 w)
  | .amo _ _ _ _ => d.daleTrap k excIllegal (BitVec.ofNat 32 w)

/-- The instruction at the program counter of a dale, fetched from its IMEM. -/
def Dev.daleStep (d : Dev) (k ecc : Nat) : Dev :=
  let pc := (d.dale k).hart.pc.toNat
  if inImem pc 2 then
    let h := leNat (Memory.read (d.dale k).imem pc 2)
    let len := rvLen h
    if inImem pc len then
      d.daleRead k pc len ecc (exc := excFetchFault) (f := fun d bs => d.daleExec k (rvDecode (leNat bs)) len (leNat bs))
    else d.daleTrap k excFetchFault (BitVec.ofNat 32 (pc + 2))
  else d.daleTrap k excFetchFault (BitVec.ofNat 32 pc)

/-! ### The control processor -/

/-- The hart of the control processor changes. -/
def Dev.setCpHart (d : Dev) (h : Hart) : Dev := d.setCp fun c => { c with hart := h }

/-- mtime and mtimecmp (R409, Table 17.13). -/
def Dev.mtime (d : Dev) : Nat := d.rd R.MTIME 0 + d.rd R.MTIME 1 * 2 ^ 32
def Dev.mtimecmp (d : Dev) : Nat := d.rd R.MTIMECMP 0 + d.rd R.MTIMECMP 1 * 2 ^ 32

/-- mip: bit 11 external (R419), bit 7 timer.  The spec names no source of the software interrupt, bit 3. -/
def Dev.mip (d : Dev) : Nat :=
  (if d.irqSummary &&& d.get F.IRQ_MASK_BLOCK = 0 then 0 else 0x800) + (if d.mtimecmp ≤ d.mtime then 0x80 else 0)

/-- An interrupt is pending that mie enables. -/
def Dev.irqPending (d : Dev) : Nat := d.mip &&& (d.cp.hart.csrWord csrMie).toNat

/-- The control processor executes: firmware runs, its domain is ON, and neither restart hold nor the debugger stops it. -/
def Dev.cpRuns (d : Dev) : Bool := d.cp.fwRuns && d.domOn domCP && !d.on F.CP_STATUS_HOLD && !d.tap.halted

/-- A trap of the control processor; an interrupt handler runs until MRET (R420). -/
def Dev.cpTrap (d : Dev) (irq : Bool) (cause : Nat) (tval : Word) : Dev :=
  d.setCp fun c => { c with hart := c.hart.trap irq cause tval, inHandler := c.inHandler || irq, waiting := false }

/-- The interrupt that is taken now, external first: pending, enabled in mie and by mstatus.MIE. -/
def Dev.irqTaken (d : Dev) : Option Nat :=
  if bit (d.cp.hart.csrWord csrMstatus).toNat 3 then
    if bit d.irqPending 11 then some 11 else if bit d.irqPending 7 then some 7 else none
  else none

/-- An event makes an interrupt pending: a sleeping domain CP wakes, a WFI ends, and an enabled interrupt is taken (R419,
R420). -/
def Dev.cpInterrupt (d : Dev) : Dev :=
  if !d.cp.fwRuns || d.on F.CP_STATUS_HOLD then d
  else if d.irqPending = 0 then d
  else
    let d := d.setCp fun c => { c with waiting := false }
    if !d.domOn domCP then d.startWake domCP
    else if d.tap.halted then d
    else match d.irqTaken with
      | some c => d.cpTrap true c 0
      | none => d

/-- A control-processor address in TCM, and in the boot ROM. -/
def inTcm (a n : Nat) : Bool := decide (tcmBase ≤ a) && decide (a + n ≤ tcmBase + 0x80000)
def inRom (a n : Nat) : Bool := decide (a + n ≤ 0x10000)

/-- A register read waits for the earlier posted stores of the control processor to its block (R417). -/
def Dev.readWaits (d : Dev) (a : Nat) : Bool :=
  decide (0x40000000 ≤ a) && decide (a < 0x80000000) &&
    d.pwr.stalled.any fun s => s.master == .cp && s.write && s.addr / 0x10000 == a / 0x10000

/-- A load or fetch of the control processor over Table 17.1. -/
def Dev.cpRead (d : Dev) (a n : Nat) : Dev × Loaded :=
  if inTcm a n then (d, .data (Memory.read d.cp.tcm (a - tcmBase) n))
  else if inRom a n then (d, .data ((List.range n).map fun i => Config.bootRom (a + i)))
  else if d.readWaits a then (d, .stall)
  else
    match d.cpBus a, d.cpBus (a + n - 1) with
    | some b, some _ => d.busLoad .cp b n
    | _, _ => (d, .error)

/-- A load of the control processor; a misaligned one raises an exception (DESIGN CHOICE, log entry 13). -/
def Dev.cpLoadInto (d : Dev) (size : Nat) (sg : Bool) (rd : Nat) (addr : Word) (len : Nat) : Dev :=
  let a := addr.toNat
  if a % size ≠ 0 then d.cpTrap false excLoadMis addr
  else
    match d.cpRead a size with
    | (d, .data bs) => d.setCpHart (((d.cp.hart.setReg rd (loadWord size sg bs)).advance len).retire)
    | (d, .error) => d.cpTrap false excLoadFault addr
    | (d, .stall) => d

/-- A store of the control processor: at once in TCM, an exception in the boot ROM, refused with a precise GUARD error in
a guarded range (R89), else posted (R418). -/
def Dev.cpStoreFrom (d : Dev) (size : Nat) (addr v : Word) (len : Nat) : Dev :=
  let a := addr.toNat
  let next := fun (d : Dev) => d.setCpHart ((d.cp.hart.advance len).retire)
  if a % size ≠ 0 then d.cpTrap false excStoreMis addr
  else if inTcm a size then next (d.setCp fun c => { c with tcm := Memory.write c.tcm (a - tcmBase) (leBytes size v.toNat) })
  else if inRom a size then d.cpTrap false excStoreFault addr
  else
    match d.cpBus a with
    | none => next (d.busError .cp a)
    | some b =>
      if 2 ^ 33 ≤ b ∧ d.guarded (b - 2 ^ 33) size = true then (d.guardRefuse (b - 2 ^ 33)).cpTrap false excStoreFault addr
      else next (d.busStore .cp b size v.toNat)

/-- LR, SC and the AMOs act in TCM only (R409). -/
def Dev.cpAtomic (d : Dev) (addr : Word) (f : Nat → Word → Dev → Dev) : Dev :=
  let a := addr.toNat
  if a % 4 ≠ 0 then d.cpTrap false excStoreMis addr
  else if inTcm a 4 then f (a - tcmBase) (BitVec.ofNat 32 (leNat (Memory.read d.cp.tcm (a - tcmBase) 4))) d
  else d.cpTrap false excStoreFault addr

/-- A result for rd, and on to the next instruction. -/
def Dev.cpDone (d : Dev) (rd : Nat) (v : Word) : Dev := d.setCpHart (((d.cp.hart.setReg rd v).advance 4).retire)

/-- A word of TCM is written. -/
def Dev.tcmPut (d : Dev) (o : Nat) (v : Word) : Dev :=
  d.setCp fun c => { c with tcm := Memory.write c.tcm o (leBytes 4 v.toNat) }

/-- A CSR as the control processor reads it; mcycle is a free value, since the spec gives no instruction a number of
cycles (log entry 22). -/
def Dev.cpCsr (d : Dev) (n : Nat) : Dev × Option Word :=
  if n = csrMip then (d, some (BitVec.ofNat 32 d.mip))
  else if n = 0xB00 ∨ n = 0xB80 then
    let (k, d) := d.fresh
    (d, some (BitVec.ofNat 32 (leNat ((List.range 4).map (Config.freeByte k)))))
  else (d, hartCsrRead 256 0x40001105 d.cp.hart n)

/-- A CSR instruction of the control processor. -/
def Dev.cpCsrOp (d : Dev) (o : CsrOp) (rd : Nat) (src : Word) (srcReg n w : Nat) : Dev :=
  match d.cpCsr n with
  | (d, none) => d.cpTrap false excIllegal (BitVec.ofNat 32 w)
  | (d, some old) =>
    match csrNew o old src srcReg with
    | some v =>
      if 0xC00 ≤ n then d.cpTrap false excIllegal (BitVec.ofNat 32 w)
      else (d.setCpHart (hartCsrWrite d.cp.hart n v)).cpDone rd old
    | none => d.cpDone rd old

/-- WFI: with nothing pending the processor waits, and CP enters RET when CP_SLEEP is 1 (Table 14.4). -/
def Dev.cpWfi (d : Dev) : Dev :=
  let d := d.setCpHart ((d.cp.hart.advance 4).retire)
  if d.irqPending ≠ 0 then d
  else
    let d := d.setCp fun c => { c with waiting := true }
    if d.on F.PWR_CFG_CP_SLEEP && d.get F.DOM_CTRL_REQ domCP != 1 then d.startDown domCP else d

/-- The hart stops in debug mode (R430): `cause` as dcsr reports it. -/
def Dev.enterDebug (d : Dev) (cause : Nat) : Dev :=
  { d with tap := { d.tap with halted := true, dpc := d.cp.hart.pc, cause := cause } }

/-- A decoded instruction of the control processor; EBREAK stops it in debug mode when dcsr.ebreakm is 1. -/
def Dev.cpExec (d : Dev) (i : RvInstr) (len w : Nat) : Dev :=
  match d.cp.hart.exec i len w with
  | .done h =>
    let waits := match i with
      | .fence => d.fenceWaits .cp (bit w 26) (bit w 24)
      | .fenceI => d.fenceWaits .cp true true
      | _ => false
    if waits then d else d.setCpHart h.retire
  | .trap c t => if c = excBreak ∧ bit d.tap.dcsr.toNat 15 = true then d.enterDebug 1 else d.cpTrap false c t
  | .load n sg rd a => d.cpLoadInto n sg rd a len
  | .store n a v => d.cpStoreFrom n a v len
  | .csr o rd src sr n => d.cpCsrOp o rd src sr n w
  | .lr rd a => d.cpAtomic a fun o v d => (d.setCp fun c => { c with resv := some o }).cpDone rd v
  | .sc rd a v => d.cpAtomic a fun o _ d =>
    let d' := d.setCp fun c => { c with resv := none }
    if d.cp.resv = some o then (d'.tcmPut o v).cpDone rd 0 else d'.cpDone rd 1
  | .amo op rd a v => d.cpAtomic a fun o m d => (d.tcmPut o (amoWord op m v)).cpDone rd m
  | .custom w => d.cpTrap false excIllegal (BitVec.ofNat 32 w)
  | .mret => d.setCp fun c => { c with hart := c.hart.mret.retire, inHandler := false }
  | .wfi => d.cpWfi

/-- The instruction at the program counter of the control processor. -/
def Dev.cpFetch (d : Dev) : Dev :=
  let pc := d.cp.hart.pc.toNat
  match d.cpRead pc 2 with
  | (d, .stall) => d
  | (d, .error) => d.cpTrap false excFetchFault (BitVec.ofNat 32 pc)
  | (d, .data lo) =>
    if rvLen (leNat lo) = 2 then d.cpExec (rvDecode (leNat lo)) 2 (leNat lo)
    else
      match d.cpRead (pc + 2) 2 with
      | (d, .stall) => d
      | (d, .error) => d.cpTrap false excFetchFault (BitVec.ofNat 32 (pc + 2))
      | (d, .data hi) =>
        let w := leNat (lo ++ hi)
        d.cpExec (rvDecode w) 4 w

/-- What the control processor does next: a pending interrupt is taken, a WFI waits, or the next instruction runs. -/
def Dev.cpStep (d : Dev) (f : Dev → Dev) : Dev :=
  if !d.cpRuns then d
  else
    match d.irqTaken with
    | some c => d.cpTrap true c 0
    | none => if d.cp.waiting ∧ d.irqPending = 0 then d else f (d.setCp fun c => { c with waiting := false })

/-! ### Meanings -/

/-- DALE_INSTRUCTION (R187, R188, R193, R194, R213): the instruction at the dale's program counter takes `cyc` cycles; `ecc`
is the error its fetch meets. -/
def execDaleInstruction (dale : Byte) (cyc : Nat) (ecc : Fin 3) (s : State) : Host.Outcome State Fault Refusal :=
  .next (s.upd fun d => if d.daleRuns dale.toNat then (d.daleTick dale.toNat cyc).daleStep dale.toNat ecc else d)
/-- DALE_LOAD (R25, R187 to R189, R473). -/
def execDaleLoad (dale : Byte) (size : LdSize) (rd rs1 : Fin 32) (imm : BitVec 12) (cyc : Nat) (ecc : Fin 3) (s : State) :
    Host.Outcome State Fault Refusal :=
  .next (s.upd fun d =>
    let k := dale.toNat
    if d.daleRuns k then
      (d.daleTick k cyc).daleLoad k size.bytes size.signed rd (d.daleReg k rs1 + imm.signExtend 32) ecc 4
    else d)
/-- DALE_STORE (R25, R29, R89, R187 to R190, R192, R473). -/
def execDaleStore (dale : Byte) (size : StSize) (rs1 rs2 : Fin 32) (imm : BitVec 12) (cyc : Nat) (ecc : Fin 3)
    (loses : List Bool) (s : State) : Host.Outcome State Fault Refusal :=
  .next (s.upd fun d =>
    let k := dale.toNat
    if d.daleRuns k then
      (d.daleTick k cyc).daleStore k size.bytes (d.daleReg k rs1 + imm.signExtend 32) (d.daleReg k rs2) ecc loses 4
    else d)
/-- CP_INSTRUCTION (R26, R409, R420). -/
def execCpInstruction (s : State) : Host.Outcome State Fault Refusal := .next (s.upd fun d => d.cpStep Dev.cpFetch)
/-- CP_LOAD (R25, R346, R409, R415, R417). -/
def execCpLoad (size : LdSize) (rd rs1 : Fin 32) (imm : BitVec 12) (s : State) : Host.Outcome State Fault Refusal :=
  .next (s.upd fun d => d.cpStep fun d =>
    d.cpLoadInto size.bytes size.signed rd (d.cp.hart.reg rs1 + imm.signExtend 32) 4)
/-- CP_STORE (R25, R26, R28, R78, R89, R206, R346, R409, R415, R418). -/
def execCpStore (size : StSize) (rs1 rs2 : Fin 32) (imm : BitVec 12) (s : State) : Host.Outcome State Fault Refusal :=
  .next (s.upd fun d => d.cpStep fun d =>
    d.cpStoreFrom size.bytes (d.cp.hart.reg rs1 + imm.signExtend 32) (d.cp.hart.reg rs2) 4)
/-- CP_INTERRUPT (R283, R419, R420). -/
def execCpInterrupt (s : State) : Host.Outcome State Fault Refusal := .next (s.upd (·.cpInterrupt))

end Sys2Proof.Machine
end

