-- ==== Sys2Proof/Machine/Wake.lean ====
section
/-! DEFINITION.  A waking domain becomes ready (R346, R347), and held writes are released or expire (R88, R89). -/

set_option Elab.async false

namespace Sys2Proof.Machine

/-! ### DOMAIN_READY -/

/-- An access that stalled proceeds. -/
def Dev.resumeAcc (d : Dev) (a : BusAcc) : Dev :=
  if a.write then d.busStore a.master a.addr a.size a.data else d.wallReadReq a.addr a.size a.data

/-- Every stalled access is tried again, oldest first; one that needs another domain goes on stalling. -/
def Dev.resumeStalled (d : Dev) : Dev :=
  let l := d.pwr.stalled
  (d.setPwr fun p => { p with stalled := [] }).each l Dev.resumeAcc

/-- A domain is ready: at the RET point of VDD_CORE none of its domains is before the raise (R346).  A domain that a whole
command has woken meanwhile (log entry 6) lets the accesses that stall on it go on in their order. -/
def Dev.domainReady (d : Dev) (k : Nat) : Dev :=
  if d.domOn k then d.resumeStalled
  else if d.domState k ≠ 3 ∨ (k ≠ domBL ∧ d.get F.VREG_STATUS_POINT = 0) then d
  else
    let d := (d.domainUp k).resumeStalled
    let d := if k = domLS then d.lsRetry else d
    let d := if k = domCORR then { d with scan := { d.scan with statInvalid := true } } else d
    if 16 ≤ k then d.each (List.range 4) fun d i => d.dispatch (4 * (k - 16) + i) else d

/-! ### Held writes -/

/-- Line-store port of the engine that a held write belongs to. -/
def ownerPort : Owner → Nat
  | .gdma _ => 5
  | .codec _ => 4
  | .glen k _ => dalePort k
  | .notice => 7
  | .plain _ => 5

/-- The held writes become a given list. -/
def Dev.setHeld (d : Dev) (l : List Held) : Dev := { d with held := l }.put F.GUARD_CTRL_HELD_NOW l.length

/-- A write of a processor-less request joins its channel, or is answered. -/
def Dev.plainReq (d : Dev) (c : WChunk) (port : Nat) : DramReq :=
  ⟨port, c.addr, c.bytes.length, some c.bytes, d.portClass port, d.portClass port, 0, false⟩

/-- A held write is performed with what follows it, and its engine goes on (R88). -/
def Dev.heldGo (d : Dev) (h : Held) : Dev :=
  match h.owner with
  | .plain p => d.each h.todo fun d c => d.dramAdmit (d.plainReq c p)
  | .glen k tag => Dev.dmaChunks k tag h.todo (((d.dale k).dmaHeld.map (·.2)).getD 0) (d.setDale k fun s => { s with dmaHeld := none })
  | o =>
    let r := Dev.runChunks (ownerPort o) h.port o h.todo d
    match o, r.2 with
    | _, .held => r.1
    | .gdma c, .done => r.1.gdmaResume c
    | .gdma c, .bad st _ => r.1.gdmaFail c (gdmaErr st)
    | .codec q, .done => r.1.codecResume q
    | .codec q, .bad _ left => r.1.codecFail q 6 left
    | .notice, .done => r.1.noticeResume true
    | .notice, .bad _ _ => r.1.noticeResume false
    | _, _ => r.1

/-- Held writes whose range is no longer guarded are performed, oldest first (R88, R89). -/
def Dev.guardRelease (d : Dev) : Dev :=
  let free := fun (h : Held) => match h.todo with | c :: _ => !d.guarded c.addr c.bytes.length | [] => true
  let go := d.held.filter free
  (d.setHeld (d.held.filter fun h => !free h)).each go Dev.heldGo

/-- GUARD_WAIT: 0 reads as 1. -/
def Dev.guardWait (d : Dev) : Nat := max 1 (d.get F.GUARD_CTRL_GUARD_WAIT)

/-- A held write ends with a GUARD error and writes nothing (R88). -/
def Dev.heldEnd (d : Dev) (h : Held) : Dev :=
  let d := d.raise Ev.GUARD_EXPIRE
  match h.owner with
  | .gdma c => d.gdmaFail c 6
  | .codec q => d.codecFail q 7 (sumN (h.todo.map (·.bytes.length)))
  | .glen k tag => d.dmaEnd k tag (max 3 (((d.dale k).dmaHeld.map (·.2)).getD 0))
  | .plain p => d.each h.todo fun d c => d.dramRespond (d.plainReq c p) .guard []
  | .notice => d.noticeResume false

/-- Writes held for GUARD_WAIT frame periods, whose range is still guarded, end with the error. -/
def Dev.guardExpire (d : Dev) : Dev :=
  let due := fun (h : Held) => decide (d.guardWait ≤ h.waited) &&
    match h.todo with | c :: _ => d.guarded c.addr c.bytes.length | [] => false
  let out := d.held.filter due
  (d.setHeld (d.held.filter fun h => !due h)).each out Dev.heldEnd

/-- A frame period passes for every held write. -/
def Dev.heldPeriod (d : Dev) : Dev := { d with held := d.held.map fun h => { h with waited := h.waited + 1 } }

/-! ### Meanings -/

/-- DOMAIN_READY (R34, R61, R346, R347, R359, R363). -/
def execDomainReady (k : Fin 80) (s : State) : Host.Outcome State Fault Refusal := .next (s.upd (·.domainReady k))
/-- GUARD_RELEASE (R88, R89). -/
def execGuardRelease (s : State) : Host.Outcome State Fault Refusal := .next (s.upd (·.guardRelease))
/-- GUARD_EXPIRE (R88, R92, R288). -/
def execGuardExpire (s : State) : Host.Outcome State Fault Refusal := .next (s.upd (·.guardExpire))

end Sys2Proof.Machine
end

