-- ==== Sys2Proof/Machine/Frame.lean ====
section
/-! DEFINITION.  The moments of a frame period (R9 to R31, R75 to R87, R122 to R126, R433 to R437, R474): the latch point
with the checks of a committed set, prefetch start, frame start, frame done, and the reserve timer. -/

set_option Elab.async false

namespace Sys2Proof.Machine

def Dev.setScan (d : Dev) (f : ScanState → ScanState) : Dev := { d with scan := f d.scan }

/-- The raster runs: in RUN and in FALLOW, and in the transitions of Table 14.5 in which the panel is still driven (R21,
R358 to R360), from the boot lock on. -/
def Dev.rasterRuns (d : Dev) : Bool :=
  d.locked && (match d.pwrState with
    | 0 | 1 => true
    | 4 => d.pwr.target == 1 || d.pwr.offList
    | 5 => d.pwr.origin == 1
    | _ => false)

/-! ### Checks of a committed set -/

/-- CFG_TIMING holds for the raster in force in `d` (R2, R81).  DESIGN CHOICE (log entry 75): a refresh rate outside Table
0.2 fails the check too, where R81 names sizes and pixel rate and R2 says that such a configuration is not supported. -/
def Dev.cfgTiming (d : Dev) : Bool :=
  let ha := d.hActive
  let ht := d.get F.RASTER_H_H_TOTAL
  let va := d.vActive
  let vt := d.vTotal
  let pf := d.prefetchLines
  let f := d.get F.PIPE_CLK_FREQ
  let vrr := d.on F.RASTER_VRR_VRR_EN
  let max_ := d.get F.RASTER_VRR_V_TOTAL_MAX
  let top := if ha * va ≤ 16588800 then 240 else 120
  let longest := if vrr then max_ else vt
  let sizes := ha == 0 || va == 0 || decide (15360 < ha) || decide (4320 < va) || decide (33177600 < ha * va)
  let rate := decide (4400000 < 8 * f) || decide (600000 < f) || decide (8000 * f < 10 * (ht * vt)) ||
    decide (top * (ht * vt) < 8000 * f)
  let lines := ha % 8 != 0 || ht % 8 != 0 || decide (ht < ha + 64) || decide (vt < va + pf + 1) || decide (pf < 4) ||
    decide (64 < pf)
  let floor := decide (d.floorNs * 8 * f < longest * ht * 1000000)
  sizes || rate || lines || floor || (vrr && (decide (max_ < vt) || d.buffered))

/-- Two values of PIPE_CLK.FREQ lie more than 2 % apart (R352). -/
def freqJump (old new : Nat) : Bool := decide (old < (max old new - min old new) * 50)

/-- CFG_MODE holds (R18, R47, R161, R357): `d` has its shadows in force, `old` is the device before.  DESIGN CHOICE (log
entry 75): the first lit frame of R47 is that since the last OFF or PF list. -/
def Dev.cfgMode (d old : Dev) : Bool :=
  let moved := d.portMode != old.portMode
  (!d.buffered && (d.inWall || d.portMode == 3)) ||
    (moved && old.scan.lit && !(d.buffered && old.buffered)) ||
    (d.portMode == 2 && d.hActive % 256 != 0) ||
    (old.inFallow && (d.hActive != old.hActive || d.vActive != old.vActive || d.rd R.ZONE_GRID != old.rd R.ZONE_GRID ||
      d.rd R.ZONE_SIZE != old.rd R.ZONE_SIZE))

/-- A commit of PREFER_PORT names a failed port (R54). -/
def Dev.standbyRefused (d old : Dev) : Bool :=
  d.portMode == 3 && old.portMode == 3 && d.get F.RX_MODE_PREFER_PORT != old.get F.RX_MODE_PREFER_PORT &&
    !d.on F.RX_PORT_STATUS_HEALTHY (d.get F.RX_MODE_PREFER_PORT)

/-- The checks that the committed set fails, with the event of each; CFG_MODE has none. -/
def Dev.failedChecks (old : Dev) : List (Option Event) :=
  let d := old.asCommitted
  (if d.cfgLayer then [some Ev.CFG_LAYER] else []) ++
  (if d.cfgTiming || decide (4 < d.get F.LADDER_CTRL_TARGET) || freqJump (old.get F.PIPE_CLK_FREQ) (d.get F.PIPE_CLK_FREQ)
    then [some Ev.CFG_TIMING] else []) ++
  (if d.cfgCorr then [some Ev.CFG_CORR] else []) ++ (if d.cfgDrive then [some Ev.CFG_DRIVE] else []) ++
  (if d.cfgPanel then [some Ev.CFG_PANEL] else []) ++ (if d.cfgJob old then [some Ev.CFG_JOB] else []) ++
  (if d.standbyRefused old then [some Ev.STANDBY_REFUSE] else []) ++ (if d.cfgMode old then [none] else [])

/-- Every failed check that has an event raises it (R75). -/
def Dev.raiseChecks (d : Dev) (l : List (Option Event)) : Dev := d.each l fun d e => match e with | some e => d.raise e | none => d

/-! ### What a set changes when it applies -/

/-- Layers 1 to 7 whose base changes, and so replace a buffer (R87); one that is live again stays guarded.  Layer 0 has no
buffer: its LAYER_BASE is ignored (R74). -/
def Dev.replaceBuffers (d old : Dev) : Dev :=
  let bases := fun (d : Dev) (l : Nat) => [d.get F.LAYER_BASE_BASE l, d.get F.LAYER_BASE_C_BASE l, d.get F.LAYER_BASE_V_BASE l]
  let gone := [1, 2, 3, 4, 5, 6, 7].filter fun l => bases d l != bases old l
  let kept := d.retiring.filter fun r => r.base != d.get F.LAYER_BASE_BASE r.layer * 64
  { d with retiring := kept ++ gone.map fun l => ⟨l, old.get F.LAYER_BASE_BASE l * 64, old.layerRanges l⟩ }

/-- The grid or the source of the statistics changes: the next read side is not valid (R96, R100). -/
def Dev.statMoves (d old : Dev) : Bool :=
  d.rd R.ZONE_GRID != old.rd R.ZONE_GRID || d.rd R.ZONE_SIZE != old.rd R.ZONE_SIZE ||
    d.get F.STAT_CTRL_STAT_SRC != old.get F.STAT_CTRL_STAT_SRC

/-- The active size changes. -/
def Dev.sizeMoves (d old : Dev) : Bool := d.hActive != old.hActive || d.vActive != old.vActive

/-- What the history depends on changes (Table 5.2). -/
def Dev.histMoves (d old : Dev) : Bool :=
  (d.on F.DRIVE_CTRL_OD_EN && !old.on F.DRIVE_CTRL_OD_EN) ||
    d.get F.DRIVE_CTRL_HIST_RATIO != old.get F.DRIVE_CTRL_HIST_RATIO ||
    d.rd R.HIST_BASE 0 != old.rd R.HIST_BASE 0 || d.rd R.HIST_BASE 1 != old.rd R.HIST_BASE 1 ||
    d.rd R.HIST_PITCH != old.rd R.HIST_PITCH || d.rd R.RASTER_H != old.rd R.RASTER_H || d.rd R.RASTER_V != old.rd R.RASTER_V

/-- Every buffer of a ring becomes FREE. -/
def Dev.ringFreeAll (d : Dev) (p : Nat) : Dev :=
  (((d.put F.RING_STATUS_SCAN_VALID 0 p).put F.RING_STATUS_PREV_VALID 0 p).put F.RING_STATUS_LATEST_VALID 0 p).put
    F.RING_STATUS_WRITING 0 p

/-- PORT_MODE changes (R43, R45, R47, R475): input frames in progress are abandoned, the reference stream is taken anew,
scan-out keeps its ring until a frame completes, and the enabled ports are rediscovered. -/
def Dev.modeMoves (d old : Dev) : Dev :=
  let held := old.scanRing
  let d := { d with rx := { d.rx with ref := none } }.setScan fun s => { s with ringHeld := some held }
  let d := ((d.ringFreeAll (1 - held)).ringDiscard held).each [0, 1] fun d p => d.setPort p fun s => { s with half := .idle, age := (old.port old.activePort).age }
  let d := (d.showActive (d.get F.RX_MODE_PREFER_PORT)).each (idxs 16 d.markedOn) Dev.startWake
  let d := d.each ([0, 1].filter fun p => !d.portEnabled p) fun d p => d.startDown (domRXA + p)
  let d := d.each ([0, 1].filter d.portEnabled) Dev.rediscover
  (((d.driveHpd 0).driveHpd 1).showHealth 0).showHealth 1

/-- PREFER_PORT changes in hot standby: the active port changes with it (R54). -/
def Dev.preferMoves (d : Dev) (old : Dev) : Dev :=
  let held := old.scanRing
  let p := d.get F.RX_MODE_PREFER_PORT
  let has := d.on F.RING_STATUS_LATEST_VALID p || d.on F.RING_STATUS_SCAN_VALID p
  ((d.showActive p).inheritAge old.activePort p).setScan fun s => { s with ringHeld := if has then none else some held }

/-- Variable refresh that begins at this latch point holds the raster in this blanking already (R83, R84). -/
def Dev.vrrBegins (d old : Dev) : Dev :=
  d.setScan fun s => { s with vrrHold := s.vrrHold || (d.vrrRuns && !old.vrrRuns) }

/-- The consequences of an applied set; a region test in progress is aborted before a change of the pipe clock (R280). -/
def Dev.setApplied (d old : Dev) : Dev :=
  let d := ((d.replaceBuffers old).vrrBegins old).calConfig old
  let d := if (List.range 1024).any (fun k => d.rd R.ZONE_MAP k != old.rd R.ZONE_MAP k) then d.mapGiven.showSched else d
  let d := d.setScan fun s =>
    { s with statInvalid := s.statInvalid || d.statMoves old, histChanged := s.histChanged || d.histMoves old }
  let d := if d.sizeMoves old then
      let d := d.clearFallow
      if d.pwr.capturing then d.setPwr fun p => { p with captureBad := true } else d
    else d
  let d := if d.portMode ≠ old.portMode then d.modeMoves old
    else if d.portMode = 3 ∧ d.get F.RX_MODE_PREFER_PORT ≠ old.get F.RX_MODE_PREFER_PORT then d.preferMoves old else d
  let d := (d.rejudge 0).rejudge 1
  let d := if d.get F.PIPE_CLK_FREQ ≠ old.get F.PIPE_CLK_FREQ then d.lsAbortTest.lsRetry else d
  let d := d.flag F.FSEQ_STATUS_BUFFERED d.buffered
  if old.buffered && !d.buffered then { d with rx := { d.rx with relock := 2 } } else d

/-- The pending commit at a latch point: the whole set applies in one cycle, or is refused whole (R27, R75).  The flag
says that a set applied. -/
def Dev.latchCommit (d : Dev) : Dev × Bool :=
  if !d.on F.FSEQ_STATUS_COMMIT_PENDING then (d, false)
  else
    let e := d.put F.FSEQ_STATUS_COMMIT_PENDING 0
    match d.failedChecks with
    | [] => ((e.commitShadows.setApplied d).raise Ev.COMMIT_APPLIED, true)
    | l => (e.raiseChecks l, false)

/-! ### The ladder at a latch point (R433 to R436) -/

/-- A commit that wrote TARGET moves the ladder; in FALLOW the level in force does not change (R434, R436). -/
def Dev.ladderCommit (d : Dev) (applied : Bool) : Dev :=
  if applied && d.scan.targetWritten then
    let d := d.setScan fun s => { s with targetWritten := false }
    if d.inFallow then d.put F.LADDER_CTRL_TARGET d.level else d.setLevel (d.firstLevel (d.get F.LADDER_CTRL_TARGET))
  else d

/-- The refresh floor passes without a complete input frame (Table 1.11, R59). -/
def Dev.floorCause (d : Dev) : Dev :=
  let p := d.activePort
  match (d.port p).age with
  | some a => if (d.floorNs : Int) < a * 1000 ∧ !d.on F.RX_PORT_STATUS_PR_ACTIVE p ∧ !d.scan.fallowAlone then d.cause 1 else d
  | none => d

/-- The coming frame is the first lit frame: gate timing comes on; after reset it shows the placard or the safe raster,
after an exit from VIGIL or DORMANT the highest available level (R153, R363, R403). -/
def Dev.firstLit (d : Dev) : Dev :=
  let l := if d.scan.everLit then d.firstLevel 0 else if d.levelAvail 3 then 3 else 4
  let d := (d.setLevel l).put F.GATE_CTRL_GATE_EN 1
  { d with gate := { d.gate with firstFrame := false, firstDone := true } }.setScan fun s =>
    { s with fromSafe := false, statInvalid := true, histChanged := true, everLit := true, causes := [] }

/-- The ladder's part of a latch point. -/
def Dev.ladderLatch (d : Dev) (applied : Bool) : Dev :=
  let d := if d.level < 4 then d.floorCause else d
  let old := d.level
  if d.gate.firstFrame then (d.firstLit).showAvail
  else ((d.ladderCommit applied).applyDrop old).showAvail

/-! ### The statistics, the scheduler and the backlight at a latch point -/

/-- The write side becomes the read side while CORR is powered (R19, R100). -/
def Dev.statSwap (d : Dev) (measured : Nat) : Dev :=
  let d := if d.domOn domCORR then
      ((d.put F.STAT_STATUS_READ_SIDE d.writeSide).put F.STAT_FRAME_FRAME measured).flag F.STAT_STATUS_STAT_VALID
        (d.scan.statDone && !d.scan.statInvalid)
    else d
  d.setScan fun s => { s with statInvalid := s.statInvalid && !d.domOn domCORR, statDone := false }

/-- Staging, jobs and duties of the new period (R23, R208, R210, R224, R225, R102). -/
def Dev.periodLatch (d : Dev) (ns : Nat) : Dev :=
  let d := (if d.bl.taken.isNone then d.blRead else d).blLate.schedLatch
  let d := d.flag F.FSEQ_STATUS_JOB_WINDOW (d.on F.SCHED_CTRL_EN && !d.pwr.noDispatch)
  let d := d.blTakeDuties
  (d.loadMap d.bl.nextScale).blLatch ns

/-! ### Device states at a latch point (R354 to R359) -/

/-- The latch point after the hold makes the device RUN (R359). -/
def Dev.fallowExit (d : Dev) : Dev :=
  let d := ((d.put F.PWR_STATE_STATE 0).put F.PWR_STATE_PENDING 0xF).setPwr fun p =>
    { p with holdEnd := false, holdLines := 0, noDispatch := false }
  let d := (d.ringsFree.restoreBanks).setScan fun s =>
    { s with statInvalid := true, statDone := false, fromFallow := true, fallowAlone := true, ringHeld := none }
  let d := if d.buffered then d else { d with rx := { d.rx with relock := 3 } }
  ((d.each (idxs 16 d.markedOn) Dev.startWake).raise Ev.FALLOW_EXIT).releaseCmd

/-- The exit of FALLOW is due at this latch point. -/
def Dev.exitDue (d : Dev) : Bool := d.pwrState == 5 && d.pwr.origin == 1 && d.pwr.holdEnd

/-- L1: the coming frame is the capture frame; on an entry the scheduler stops dispatching (R355, R356). -/
def Dev.markCapture (d : Dev) : Dev :=
  if d.pwr.captureNext then
    d.setPwr fun p => { p with captureNext := false, capturing := true, captureBad := false, capNext := 0,
                               noDispatch := p.noDispatch || (d.pwrState == 4 && p.target == 1) }
  else d

/-- A wall state command acts at the device's latch point of its frame (R354). -/
def Dev.wallCmdLatch (d : Dev) (n : Nat) : Dev :=
  match d.pwr.wallCmd with
  | some c =>
    match c.frame with
    | some f =>
      if f = n ∨ ahead (BitVec.ofNat 32 n) (BitVec.ofNat 32 f) then (d.setPwr fun p => { p with wallCmd := none }).takeCmd c
      else d
    | none => d
  | none => d

/-! ### LATCH_POINT -/

/-- Line at which the raster stands at the latch point (R82, R357). -/
def Dev.latchPos (d : Dev) : Nat := if d.inFallow then d.vrrHoldLine else d.latchLine

/-- Ages of the input frames grow by the period that ends (R59, Table 1.11). -/
def Dev.agePorts (d : Dev) (ns : Nat) : Dev :=
  (d.each [0, 1] fun d p => d.setPort p fun s => { s with age := s.age.map fun a => a + (ns / 1000 : Nat) }).each [0, 1] Dev.prExit

/-- The counter takes the frame's number, and what was due for that frame before its set applies. -/
def Dev.latchBefore (d : Dev) (ns : Nat) : Dev :=
  let pos := d.latchPos
  let d := ((d.put F.SCAN_POS_LINE pos).put F.SCAN_POS_HOLD 0).put F.FSEQ_STATUS_IN_BLANK 1
  let d := (((d.inc F.FRAME_COUNT_FRAME).wallLatch).agePorts ns).heldPeriod
  let n := d.get F.FRAME_COUNT_FRAME
  let d := (d.eqxLate n).cpLatch n
  d.setScan fun s => { s with reserve := false, latched := true }

/-- What follows the set: device states, ladder, statistics, jobs, duties, and the wall's set of the next frame. -/
def Dev.latchAfter (d : Dev) (ns : Nat) (applied : Bool) : Dev :=
  let n := d.get F.FRAME_COUNT_FRAME
  let d := if d.exitDue then d.fallowExit else d
  let d := (d.markCapture).ladderLatch applied
  let d := (d.statSwap ((n + 2 ^ 32 - 1) % 2 ^ 32)).periodLatch ns
  let d := (d.put F.HIST_STATUS_PHASE (n % 4)).turboLatch
  let d := ((d.eqxApplied n applied).eqxCommit.eqxTryGo).wallCmdLatch n
  d.raise Ev.LATCH

/-- A latch point: the raster reaches the latch line `ns` after the latch point before (R19, R22, R24). -/
def Dev.latchPoint (d : Dev) (ns : Nat) : Dev :=
  if !d.rasterRuns || d.scan.compLost then d
  else
    let r := (d.latchBefore ns).latchCommit
    r.1.latchAfter ns r.2

/-! ### PREFETCH_START -/

/-- Source of the previous reached level for the frame (Table 5.2): 0 HIST, 1 FALLOW, 2 SAFE, 3 TARGET. -/
def Dev.seedFor (d : Dev) : Nat :=
  let s := d.scan
  if d.gate.firstDone then 3
  else if s.fromFallow then (if d.on F.COMP_CTRL_FALLOW_VALID then 1 else 3)
  else if s.fromSafe then 2
  else if s.histChanged || !s.histOk then 3
  else 0

/-- The frame runs overdrive: not in FALLOW and not at level 4 (R131, R355). -/
def Dev.odRuns (d : Dev) : Bool := d.on F.DRIVE_CTRL_OD_EN && decide (d.level < 4) && !d.inFallow

/-- The seed of the frame is chosen (R123).  DESIGN CHOICE (log entry 75): SEED shows it, and its event is raised, from the
prefetch start of the frame that uses it on. -/
def Dev.chooseSeed (d : Dev) : Dev :=
  let od := d.odRuns
  let seed := d.seedFor
  let d := d.setScan fun s =>
    { s with odFrame := od, seed := seed, histNext := 0, histChanged := false, fromFallow := s.fromFallow && d.inFallow,
             fromSafe := s.fromSafe && decide (d.level = 4) }
  if od then (d.put F.HIST_STATUS_SEED seed).raiseIf (seed != 0) Ev.SEED else d

/-- At level 0 the ring of the mode has a complete frame: scan-out leaves the ring it kept (R47, R54). -/
def Dev.ringSwitch (d : Dev) : Dev :=
  let p := d.ringOf d.activePort
  if d.level = 0 ∧ (d.on F.RING_STATUS_LATEST_VALID p ∨ d.on F.RING_STATUS_SCAN_VALID p) then d.setScan fun s => { s with ringHeld := none } else d

/-- Prefetch start, `us` after the latest latch point; a line counter that already lies beyond its line keeps its number
(R83). -/
def Dev.prefetchStart (d : Dev) (us : Nat) : Dev :=
  if !d.rasterRuns || d.scan.compLost then d
  else
    let d := d.put F.SCAN_POS_LINE (max d.prefetchLine (d.get F.SCAN_POS_LINE))
    let d := (d.takeover us).ringSwitch
    let d := d.ringScanMove d.scanRing
    let d := (((d.put F.UNDERRUN_STATUS_LAST (d.get F.UNDERRUN_STATUS_LAYERS)).put F.UNDERRUN_STATUS_LAYERS 0).put
      F.UNDERRUN_STATUS_FIRST_LINE 0).put F.UNDERRUN_STATUS_DRAM_ERR 0
    let d := d.setScan fun s =>
      { s with segs := [], badLine := [], off := [], seen := [], drawn := 0, badRing := false, badFallow := false, badPlacard := false,
               readFallow := false, readPlacard := false,
               fallowAlone := s.fallowAlone && !d.on F.RING_STATUS_SCAN_VALID d.scanRing }
    d.chooseSeed.raise Ev.PREFETCH

/-! ### FRAME_START -/

/-- SAFE_COLOR is sampled (R131). -/
def Dev.sampleSafe (d : Dev) : Dev :=
  d.setScan fun s => { s with safe := ⟨d.get F.SAFE_COLOR_RG_RED, d.get F.SAFE_COLOR_RG_GREEN, d.get F.SAFE_COLOR_B_BLUE⟩ }

/-- Line 0 begins. -/
def Dev.beginFrame (d : Dev) : Dev :=
  let d := ((d.put F.SCAN_POS_LINE 0).put F.SCAN_POS_HOLD 0).put F.FSEQ_STATUS_IN_BLANK 0
  let d := { d with gate := { d.gate with held := 0, heldLast := d.gate.held } }
  d.sampleSafe.setScan fun s => { s with inFrame := true, latched := false, acc := [], accRow := 0, drawn := 0 }

/-- The first active line of a frame begins, once a training for a new pipe clock is over (R148); a capture frame clears FALLOW_VALID (R356), a raster in the device's own
timing locks to the source (R359, R474), and one under variable refresh will hold for its trigger (R84). -/
def Dev.frameStart (d : Dev) : Dev :=
  if !d.rasterRuns || d.scan.compLost || d.retraining then d
  else
    let d := d.beginFrame.setScan fun s => { s with vrrHold := d.vrrRuns }
    let d := if d.pwr.capturing then d.clearFallow else d
    if d.rx.relock = 1 then { d with rx := { d.rx with relock := 0 } } else d

/-! ### FRAME_DONE -/

/-- Replaced buffers retire (R87). -/
def Dev.retire (d : Dev) : Dev :=
  let l := d.retiring
  { d with retiring := [] }.each l fun d r => (d.put F.RETIRED_BASE_BASE (r.base / 64) r.layer).raise Ev.RETIRE r.layer

/-- The history buffers swap after a frame that ran overdrive (R122). -/
def Dev.histSwap (d : Dev) : Dev :=
  let ok := d.scan.odFrame && d.scan.histNext == d.vActive * d.lineSegs
  let d' := d.setScan fun s => { s with histOk := ok, odFrame := false, clips := 0, stopLine := none, stopped := false }
  if d.scan.odFrame then d'.put F.HIST_STATUS_WRITE_BUF (1 - d.get F.HIST_STATUS_WRITE_BUF) else d'

/-- The last zone row's statistics wait for STAT_WRITE_DONE (R99). -/
def Dev.statEnd (d : Dev) : Dev :=
  if d.scan.acc.isEmpty then d
  else (d.setScan fun s => { s with statTail := d.rowRecords, statDone := decide (s.accRow + 1 = d.zoneRows), acc := [] }).put
    F.STAT_STATUS_LAST_ROW_BUSY 1

/-- PLACARD_VALID clears: at level 3 that is drop cause 5 (R174). -/
def Dev.losePlacard (d : Dev) : Dev := if d.on F.FP_STATUS_PLACARD_VALID then (d.put F.FP_STATUS_PLACARD_VALID 0).cause 5 else d

/-- Failures in consecutive frames (Table 1.11, R174). -/
def Dev.countFailures (d : Dev) : Dev :=
  let s := d.scan
  let u := if bit (d.get F.UNDERRUN_STATUS_LAYERS) 0 then s.l0Under + 1 else 0
  let r := if s.badRing then s.ringFail + 1 else 0
  let f := if s.badFallow then s.fallowFail + 1 else if s.readFallow then 0 else s.fallowFail
  let p := if s.badPlacard then s.placardFail + 1 else if s.readPlacard then 0 else s.placardFail
  let d := d.setScan fun s => { s with l0Under := u, ringFail := r, fallowFail := if 2 ≤ f then 0 else f,
                                       placardFail := if 2 ≤ p then 0 else p }
  let d := if 2 ≤ u then d.cause 2 else d
  let d := if 2 ≤ r then d.cause 3 else d
  let d := if 2 ≤ f then d.clearFallow else d
  if 2 ≤ p then d.losePlacard else d

/-- The last active pixel of a frame ends. -/
def Dev.frameDone (d : Dev) : Dev :=
  if !d.scan.inFrame then d
  else
    let d := (d.put F.CLIP_COUNT_PIXELS d.scan.clips).statEnd
    let d := (d.countFailures.retire).histSwap
    let d := d.countReplay.setScan fun s => { s with inFrame := false }
    let d := if d.gate.firstDone then
        ({ d with gate := { d.gate with firstDone := false } }.setScan fun s => { s with lit := true, statInvalid := true }).pseqFirstDone
      else d
    d.raise Ev.FRAME_DONE

/-! ### The reserve timer (R38, R85) -/

/-- The reserve timer takes over within the frame: the panel shows level 4 at once; in FALLOW outside a wall that is wake
source FALLOW_FAIL (R38, R436). -/
def Dev.compTimingLoss (d : Dev) : Dev :=
  if d.scan.compLost || !d.rasterRuns then d
  else
    let was := d.inFallow
    let d := d.setScan fun s => { s with compLost := true, reserve := true, odFrame := false, histOk := false }
    let d := if d.scan.lit ∧ d.level < 4 then d.ladderDrop 7 d.level 4 else d
    let d := d.showAvail.blHold
    if was && d.pwrState == 1 then d.latchWake 14 0 else d

/-- Nanoseconds between frames that the reserve timer starts: FLOOR_US; while COMP delivers no timing, the nominal period of
the raster timing that it copies (R38, R85; DEDUCED, log entry 60). -/
def Dev.reserveNs (d : Dev) : Nat := if d.scan.compLost then d.nominalNs else d.floorNs

/-- The reserve timer starts a frame: the copy of the counter advances, the dither phase advances at the frame start, and
the ladder shows the highest level that is available (R38, R85, R126).  DESIGN CHOICE (log entry 75): such a frame runs no
overdrive, at every level: it has no prefetch start at which the history is read. -/
def Dev.reserveFrame (d : Dev) : Dev :=
  if !d.rasterRuns || !(d.scan.lit || d.scan.compLost) then d
  else
    let d := ((d.inc F.FRAME_COUNT_FRAME).put F.HIST_STATUS_PHASE (d.get F.HIST_STATUS_PHASE + 1)).retarget
    let new := d.firstLevel d.level
    let d := if new ≠ d.level ∧ !d.inFallow then d.ladderDrop ((d.dueCause d.level).getD 7) d.level new else d
    let d := (d.beginFrame.blReserve d.reserveNs).setScan fun s => { s with reserve := true, odFrame := false, seen := [] }
    if d.scan.compLost && d.exitDue then d.fallowExit else d

/-! ### Meanings -/

/-- PREFETCH_START (R53, R54, R79, R90, R123): `us` is the time since the latest latch point. -/
def execPrefetchStart (us : Nat) (s : State) : Host.Outcome State Fault Refusal := .next (s.upd (·.prefetchStart us))
/-- FRAME_START (R22, R126, R131, R356). -/
def execFrameStart (s : State) : Host.Outcome State Fault Refusal := .next (s.upd (·.frameStart))
/-- RESERVE_TIMER_FRAME (R38, R85, R126, R225). -/
def execReserveTimerFrame (s : State) : Host.Outcome State Fault Refusal := .next (s.upd (·.reserveFrame))
/-- COMP_TIMING_LOSS (R38, R436). -/
def execCompTimingLoss (s : State) : Host.Outcome State Fault Refusal := .next (s.upd (·.compTimingLoss))

end Sys2Proof.Machine
end

