-- ==== Sys2Proof/Machine/Configure.lean ====
section
/-! DEFINITION.  The boot ROM's configuration of the device (R398 to R400): PIN_CFG and REG_TABLE entries, the checks of a
boot image, the segments, the CAL and AGE records, and the unpacking of the demura planes and the placard. -/

set_option Elab.async false

namespace Sys2Proof.Machine

/-! ### Register entries (R398 steps 1 and 2, R469) -/

/-- The 8-byte entries of a PIN_CFG or REG_TABLE segment: address and value. -/
def regEntries (bs : List Byte) : List (Nat × Nat) :=
  (List.range (bs.length / 8)).map fun i => (leNat ((bs.drop (8 * i)).take 4), leNat ((bs.drop (8 * i + 4)).take 4))

/-- The write-only fields of a register (access code WO). -/
def writeOnly (r : Reg) : Nat :=
  if r = R.FSEQ_COMMIT then 1
  else if r = R.CODEC_CTRL then 0xF0000
  else if r = R.BL_CTRL then 0x40000000
  else if r = R.PWR_CMD then 0xF
  else if r = R.LOG_STATUS then 0x8000
  else if r = R.PSEQ_CMD ∨ r = R.LOG_POP ∨ r = R.LOG_PUSH then 0xFFFFFFFF
  else if r = R.CAL_FW_REPORT then 0xFFFE0FFF
  else if r = R.SG_COMMIT then 0x8000000F
  else if r = R.DRAM_SEG_CLEAR ∨ r = R.WDT_KICK then 0xFF
  else if r = R.WALL_REMOVE then 0x3FF
  else if r = R.EQX_ACK then 0xFF03
  else if r = R.MB_COMPLETE then 7
  else if r = R.HOST_EVENT_SET then 0x22
  else 0

/-- The bits of a register that a boot image may write. -/
def bootBits (r : Reg) : Nat := r.rw ||| r.rwl ||| r.rws ||| r.w1c ||| r.w1s ||| writeOnly r

/-- The entries of a block of `size` bytes at `base` are applied in order; the address of the first that may not be written
stops them. -/
def Dev.applyEntries (size base : Nat) : List (Nat × Nat) → Dev → Dev × Option Nat
  | [], d => (d, none)
  | (a, w) :: rest, d =>
    match (if a < size then findReg (base + a) else none) with
    | some (r, i) =>
      if bootBits r = 0 ∨ w &&& bootBits r ≠ w then (d, some (base + a)) else Dev.applyEntries size base rest (d.regPut r i w)
    | none => (d, some (base + a))

/-! ### Checks (R398 step 3) -/

/-- A register base that the boot image names: its word has been written. -/
def Dev.named (d : Dev) (r : Reg) (i : Nat) : Bool := (RegFile.find d.regs (r.at i)).isSome

/-- The line-store areas that RWL base registers name, each with its register's address (R284). -/
def Dev.lsAreas (d : Dev) : List (Nat × Range) :=
  let table := 2 * (d.vActive * d.lineSegs)
  let area := fun (r : Reg) (f : Field) (i n : Nat) =>
    if d.named r i then [(r.at i, (⟨d.get f i * 16, d.get f i * 16 + n⟩ : Range))] else []
  area R.STAT_BASE F.STAT_BASE_BASE 0 0x220000 ++ area R.LUT_BASE F.LUT_BASE_BASE 0 0x14000 ++
    area R.OD_TABLE_BASE F.OD_TABLE_BASE_BASE 0 0x1A000 ++ area R.STREAM_WIN_BASE F.STREAM_WIN_BASE_BASE 0 0x40000 ++
    (List.range 6).flatMap (fun b => area R.RING_LEN_BASE F.RING_LEN_BASE_BASE b table) ++
    area R.FALLOW_LEN_BASE F.FALLOW_LEN_BASE_BASE 0 table ++ area R.PLACARD_LEN_BASE F.PLACARD_LEN_BASE_BASE 0 table ++
    (List.range 2).flatMap (fun a => area R.CTX_AREA F.CTX_AREA_BASE a 0x100000) ++ area R.EQX_BUF F.EQX_BUF_BASE 0 376

def Range.meets (a b : Range) : Bool := decide (a.lo < b.hi) && decide (b.lo < a.hi)

/-- The register of the first area that overlaps one before it. -/
def firstOverlap : List Range → List (Nat × Range) → Option Nat
  | _, [] => none
  | seen, (a, r) :: rest => if seen.any r.meets then some a else firstOverlap (seen ++ [r]) rest

/-- The ring buffers named, within channels 0 to 6 and each with bytes of its own (R80). -/
def Dev.badRing (d : Dev) : Option Nat :=
  let bufs := (idxs 6 (d.named R.RING_BASE)).map fun b => (R.RING_BASE.at b, d.ringRange b)
  match bufs.find? fun p => decide (dramCh7 < p.2.hi) with
  | some p => some p.1
  | none => firstOverlap [] bufs

/-- DRAM regions (R294): order 3, a region across 0x1_A400_0000, or an overlap. -/
def Dev.badRegion (d : Dev) : Option Nat :=
  let en := (idxs 8 fun r => d.on F.DRAM_REGION_EN r).map fun r =>
    (R.DRAM_REGION.at r, d.get F.DRAM_REGION_ORDER r,
      (⟨d.get F.DRAM_REGION_BASE r * 2 ^ 20, (d.get F.DRAM_REGION_LIMIT_LIMIT r + 1) * 2 ^ 20⟩ : Range))
  match en.find? fun p => p.2.1 == 3 || (decide (p.2.2.lo < dramCh7) && decide (dramCh7 < p.2.2.hi)) with
  | some p => some p.1
  | none => firstOverlap [] (en.map fun p => (p.1, p.2.2))

/-- DRAM areas that registers name, with their registers. -/
def Dev.dramAreas (d : Dev) : List (Nat × Range) :=
  let span := fun (base n : Nat) => (⟨base, base + n⟩ : Range)
  let mib := 2 ^ 20
  let lines := d.vActive * 64
  [(R.FALLOW_BASE.at 0, d.fallowRange),
   (R.PLACARD_BASE.at 0, span (d.get F.PLACARD_BASE_BASE * 64) (d.get F.FP_PITCH_PITCH * lines)),
   (R.NOTICE_STAGE.at 0, span (d.get F.NOTICE_STAGE_BASE * 64) (d.get F.NOTICE_STAGE_SIZE_MIB * mib))] ++
  (List.range 2).map (fun b => (R.NOTICE_BASE.at b, span (d.get F.NOTICE_BASE_BASE b * 64) (d.get F.NOTICE_PLANE_SIZE_MIB * mib))) ++
  (List.range 2).map (fun b => (R.HIST_BASE.at b, span (d.get F.HIST_BASE_BASE b * 64) (d.get F.HIST_PITCH_PITCH * lines))) ++
  (List.range 3).map (fun a => (R.DEMURA_BASE.at a, span (d.get F.DEMURA_BASE_BASE a * 64) (d.get F.DEMURA_PITCH_PITCH * lines))) ++
  ((idxs 8 fun l => d.on F.LAYER_CTRL_EN l).flatMap fun l => (d.layerRanges l).map fun r => (R.LAYER_BASE.at l, r))

/-- An area that meets the image copy area (R398 step 3, R399). -/
def Dev.badCopy (d : Dev) : Option Nat :=
  (d.dramAreas.find? fun p => p.2.meets ⟨copyBase, dramTop⟩).map (·.1)

/-- A pin that a register names with the wrong FUNC, or a refused pin setting (R469, R470). -/
def Dev.badPins (d : Dev) : Option Nat :=
  let func := fun g => d.get F.GPIO_CFG_FUNC g
  let mlv := d.on F.COL_CTRL_MLV_MODE
  let lists := [(1, R.PSEQ_ON, 16), (2, R.PSEQ_OFF, 16), (3, R.PSEQ_PF, 8)].flatMap fun (l, r, n) =>
    (idxs n fun k => let e := d.pseqEntry l k; (e.1 == 1 || e.1 == 2) && func e.2.1 != 1).map r.at
  let alt := ([14, 15].filter fun g => (func g == 2) != mlv).map R.GPIO_CFG.at
  let pg := (((List.range 15).map (· + 1)).filter fun k =>
    d.on F.PIN_VREG_EN k && d.on F.PIN_VREG_PG_EN k && func (d.get F.PIN_VREG_PG_GPIO k) != 3).map R.PIN_VREG.at
  let kinds := (((List.range 15).map (· + 1)).filter fun k => decide (2 ≤ d.get F.PIN_VREG_KIND k)).map R.PIN_VREG.at
  let pulls := (idxs 16 fun g => d.get F.GPIO_CFG_PULL g == 3 || d.get F.GPIO_CFG_DRIVE g == 3).map R.GPIO_CFG.at
  let drive := if d.get F.PIN_DRIVE_XSPI = 3 ∨ d.get F.PIN_DRIVE_GATE = 3 then [R.PIN_DRIVE.at 0] else []
  let heat := if func (d.get F.VIGIL_CFG_HEAT_GPIO) ≠ 0 then [R.VIGIL_CFG.at 0] else []
  (kinds ++ pulls ++ drive ++ lists ++ alt ++ pg ++ heat).head?

/-- The register of the first check that fails (R398 step 3). -/
def Dev.bootChecks (d : Dev) : Option Nat :=
  let latch := [
    (d.cfgLayer, R.LAYER_CTRL), (d.cfgTiming, R.RASTER_H), (decide (4 < d.get F.LADDER_CTRL_TARGET), R.LADDER_CTRL),
    (d.cfgCorr, R.ZONE_GRID), (d.cfgDrive, R.DRIVE_CTRL), (d.cfgPanel, R.COL_CTRL), (d.cfgJob {}, R.JOB_CFG),
    (d.cfgMode d, R.RX_MODE), (d.cfgBl, R.BOOST_CFG),
    (decide (6000 < sumN ((List.range 8).map fun k => d.get F.PSEQ_PF_DELAY k)), R.PSEQ_PF), (decide (3 < d.get F.DRAM_CTRL_RATE), R.DRAM_CTRL)]
  match latch.find? (·.1) with
  | some p => some (p.2.at 0)
  | none =>
    [firstOverlap [] d.lsAreas, d.badRegion, d.badRing, d.badCopy, d.badPins].findSome? id

/-- The active values that REG_TABLE has given the dales' states are in force (R217, R398). -/
def Dev.bootDales (d : Dev) : Dev :=
  (d.each (idxs 256 fun k => decide (d.get F.DALE_CTRL_STATE_REQ k < 3)) fun d k =>
    if d.daleMode k = d.get F.DALE_CTRL_STATE_REQ k then d else d.put F.DALE_STATUS_STATE (d.get F.DALE_CTRL_STATE_REQ k) k).showSched

/-! ### Segments (R398 step 4) -/

/-- The entries of ZB_IDS: VENDOR, PART, REV. -/
def zbEntries (bs : List Byte) : List (Nat × Nat × Nat) :=
  (List.range 31).map fun i => let e := (bs.drop (4 * i)).take 4; (leNat (e.take 2), leNat ((e.drop 2).take 1), leNat (e.drop 3))

/-- One segment goes to its place; what fails to be written there is a missing partner (R405). -/
def Dev.placeSeg (d : Dev) (g : BSeg) (bs : List Byte) : Dev :=
  match g.type with
  | 3 => d.setCp fun c => { c with tcm := Memory.write c.tcm g.dest bs }
  | 4 => d.each (idxs 256 fun k => d.daleMode k == 0) fun d k => (d.localWrite k 0 bs).glenClean k 0 bs.length
  | 5 => (d.lsWrite codecLs g.dest bs).1
  | 6 => (d.dramWrite codecDram g.dest bs).1
  | 9 => { d with rx := { d.rx with edid := bs } }
  | 10 => { d with bl := { d.bl with zbIds := zbEntries bs } }
  | _ => d

/-- The segments of types 3 to 6, 9 and 10; none when one cannot be unpacked, with its index. -/
def Dev.placeSegs (m : ImgAt) : List (BSeg × Nat) → Dev → Dev × Option Nat
  | [], d => (d, none)
  | (g, i) :: rest, d =>
    if g.type = 7 ∨ g.type = 8 ∨ g.type < 3 then Dev.placeSegs m rest d
    else
      match m.content g with
      | some bs => Dev.placeSegs m rest (d.placeSeg g bs)
      | none => (d, some i)

/-! ### The records of the parameter store (R266, R376, R398 step 6) -/

/-- The CAL copy in use goes into SINK_CAL and TS_CAL; without one, offsets are 0 and gains 1.0. -/
def Dev.loadCal (d : Dev) : Dev :=
  let rec_ := d.recData (calRec (d.get F.NV_SEL_CAL_COPY))
  let valid := d.on F.NV_SEL_CAL_VALID
  let word := fun (s : Nat) => if valid then leNat ((rec_.drop (4 * s)).take 4) &&& 0xFFFF007F else 0x80000000
  let ofs := fun (i : Nat) => if valid then leNat ((rec_.drop (512 + i)).take 1) else 0
  let d := d.each (List.range 128) fun d s => d.putWord R.SINK_CAL s (word s)
  let d := d.each (List.range 9) fun d i => d.put F.TS_CAL_OFS (ofs i) i
  let stored := (List.range 128).flatMap (fun s =>
      [(calKey 0 s, d.getS F.SINK_CAL_OFS s), (calKey 1 s, (d.get F.SINK_CAL_GAIN s : Int))]) ++
    (List.range 9).map fun i => (calKey 2 i, d.getS F.TS_CAL_OFS i)
  { d with cal := { d.cal with stored := stored } }

/-- STRESS of every zone, from the AGE slot in use when its grid is the one in force. -/
def Dev.loadAge (d : Dev) : Dev :=
  let r := ageRec (d.get F.NV_SEL_AGE_SLOT)
  let valid := d.on F.NV_SEL_AGE_VALID
  let fits := valid && d.nvNat r.trailer 26 2 == d.zones && d.nvNat r.trailer 30 1 == d.zoneCols && d.nvNat r.trailer 31 1 == d.zoneRows
  let data := if fits then d.recData r else []
  let stress := fun (z : Nat) => if fits then (data.drop (8 * z)).take 8 else List.replicate 8 0
  let d := d.each [0, 1] fun d a => d.each (List.range d.zones) fun d z => d.lsPoke (d.ctxArea a + 256 * z + 0x20) (stress z)
  d.flag F.BOOT_STATUS_AGE_RESET (valid && !fits)

/-! ### Unpacking (R400) -/

/-- Bytes of a raw line. -/
def Dev.rawLine (d : Dev) (k : BKind) : Nat := k.rawSize d.hActive

/-- One block and its length-table entry; none when a write ends with an error. -/
def Dev.bootBlock (d : Dev) (k : BKind) (addr entry : Nat) (px : List Px) : Option Dev :=
  let e := k.encode px false
  let (d, st) := d.dramWrite codecDram addr e.block
  let (d, st') := d.lsWrite codecLs entry (leBytes 2 (lenEntry e.block))
  if st = .ok ∧ st' = .ok then some (d.freeTail ⟨false, addr⟩ e.block.length k.slot) else none

/-- GB encodes a raw line. -/
def Dev.bootLine (d : Dev) (k : BKind) (base pitch table line : Nat) (raw : List Byte) : Option Dev :=
  let px := k.rawUnpack d.hActive raw
  (List.range d.lineSegs).foldl (fun a s => a.bind fun d =>
    d.bootBlock k (base + line * pitch + s * k.slot) (table + 2 * (line * d.lineSegs + s)) ((px.drop (128 * s)).take 128)) (some d)

/-- The complete lines of a raw picture, at most V_ACTIVE. -/
def Dev.rawLines (d : Dev) (k : BKind) (raw : List Byte) : List (List Byte × Nat) :=
  let n := d.rawLine k
  ((List.range (min d.vActive (raw.length / max 1 n))).map fun y => ((raw.drop (n * y)).take n, y))

/-- GB encodes a raw picture. -/
def Dev.bootPicture (d : Dev) (k : BKind) (base pitch table : Nat) (raw : List Byte) : Option Dev :=
  (d.rawLines k raw).foldl (fun a p => a.bind fun d => d.bootLine k base pitch table p.2 p.1) (some d)

/-- A demura plane goes through ring buffer `a` as raw lines. -/
def Dev.unpackDemura (d : Dev) (a : Nat) (raw : List Byte) : Option Dev :=
  let (d, st) := d.dramWrite codecDram (d.get F.RING_BASE_BASE a * 64) raw
  if st = .ok then
    d.bootPicture .s18 (d.get F.DEMURA_BASE_BASE a * 64) (d.get F.DEMURA_PITCH_PITCH * 64) (d.get F.DEMURA_LEN_BASE_BASE a * 16) raw
  else none

/-- The demura planes, in plane order; skipped when a channel among 0 to 6 has failed (R405). -/
def Dev.unpackPlanes (d : Dev) (m : ImgAt) : Dev × Option Nat :=
  if !d.chTrained 0 6 then (d, none)
  else
    [0, 1, 2].foldl (fun (r : Dev × Option Nat) a =>
      match r.2, m.segs.zipIdx.find? fun p => p.1.type == 7 && p.1.dest == a with
      | none, some (g, i) =>
        (match (m.content g).bind fun raw => r.1.unpackDemura a raw with
        | some d => (d, none)
        | none => (r.1, some i))
      | _, _ => r) (d, none)

/-- The staging area of the placard: two pieces of 8 raw lines at BOOT_STAGE. -/
def Dev.stagePlacard (d : Dev) (raw : List Byte) : Dev :=
  let n := 8 * d.rawLine .rgb36
  let at_ := d.get F.BOOT_STAGE_BASE * 16
  d.each (List.range (divUp raw.length (max 1 n))) fun d j => d.lsPoke (at_ + j % 2 * n) ((raw.drop (n * j)).take n)

/-- The placard; PLACARD_VALID at the end. -/
def Dev.unpackPlacard (d : Dev) (m : ImgAt) : Dev × Option Nat :=
  match m.segs.zipIdx.find? fun p => p.1.type == 8 with
  | none => (d, none)
  | some (g, i) =>
    if 2 ^ 24 < d.get F.BOOT_STAGE_BASE * 16 + 16 * d.rawLine .rgb36 then (d, some i)
    else
      match (m.content g).bind fun raw => (d.stagePlacard raw).bootPicture .rgb36 (d.get F.PLACARD_BASE_BASE * 64)
          (d.get F.FP_PITCH_PITCH * 64) (d.get F.PLACARD_LEN_BASE_BASE * 16) raw with
      | some d => (d.put F.FP_STATUS_PLACARD_VALID 1, none)
      | none => (d, some i)

end Sys2Proof.Machine
end

