-- ==== Sys2Proof/Machine/Startup.lean ====
section
/-! DEFINITION.  The boot after DRAM training (R395 to R406): copy, verification, configuration, boot lock, unpacking, the
partners, the ON list, the first lit frame and the start of the firmware; and PFAIL_N (R154, R156, R384, R406, R444). -/

set_option Elab.async false

namespace Sys2Proof.Machine

/-! ### Partners and the ON list (R401, R402) -/

/-- The device drives no panel: no Col lane has a driver, and there is no mini-LVDS panel. -/
def Dev.noPanel (d : Dev) : Bool := d.drivers.isEmpty && !d.on F.COL_CTRL_MLV_MODE

/-- A worker of a wall lights once its frame step has applied, its timing check has failed, or its wait is over (R402). -/
def Dev.mayLight (d : Dev) : Bool :=
  !d.inWall || d.on F.WALL_CTRL_ROLE || d.boot.waitOver || d.wall.timing == some false ||
    (d.wall.timing == some true && d.wall.step.isNone)

/-- DisplayPort, then the firmware; the boot is done (R401, R404). -/
def Dev.bootEnd (d : Dev) : Dev :=
  let d := { d with rx := { d.rx with started := true } }
  let d := (d.driveHpd 0).driveHpd 1
  let d := (d.startFw.setStep 11).hostEvent 4
  let d := (d.raiseIf (d.boot.first != some d.boot.cand) Ev.BOOT_FALLBACK).raiseIf (d.on F.BOOT_STATUS_TIE) Ev.BOOT_TIE
  if d.xspi.waits then d.xspiRun else d

/-- The ON list starts when the zone bus is enumerated and the wall allows it; a manager without a panel runs none. -/
def Dev.bootLight (d : Dev) : Dev :=
  if d.bootStep = 8 ∧ d.boot.waitEnum = false ∧ d.boot.stopped = false ∧ d.mayLight = true then
    if d.on F.WALL_CTRL_ROLE && d.noPanel then d.bootEnd else (d.setStep 9).pseqOn
  else d

/-- Step 8: the zone-sink ICs are enumerated. -/
def Dev.bootPartners (d : Dev) : Dev :=
  let d := d.setStep 8
  if d.get F.ZB_CTRL_EXPECT = 0 then d.bootLight else (d.enumStart).setBoot fun b => { b with waitEnum := true }

/-! ### Copy, verification, configuration (R395, R398, R399) -/

/-- A check fails: BOOT_FAIL_INFO holds its register or segment, and the other slot is tried. -/
def Dev.bootRefuse (d : Dev) (reason info : Nat) (written := true) : Dev :=
  (d.putWord R.BOOT_FAIL_INFO 0 info).bootFail reason written

/-- The slot in use. -/
def Dev.slotInUse (d : Dev) (m : ImgAt) : Dev :=
  let d := (d.put F.BOOT_SEQ_SEQ m.seq).put F.BOOT_VERSION_VERSION m.version
  (d.put F.BOOT_STATUS_SLOT d.boot.cand).flag F.BOOT_STATUS_SIGNED m.isSigned

/-- Steps 6 and 7, then the slot is in use. -/
def Dev.bootUnpack (d : Dev) (m : ImgAt) : Dev :=
  match (d.setStep 6).unpackPlanes m with
  | (d, some i) => d.bootRefuse rsUnpack i
  | (d, none) =>
    match (d.setStep 7).unpackPlacard m with
    | (d, some i) => d.bootRefuse rsUnpack i
    | (d, none) => ((d.ringsFree).slotInUse m).bootPartners

/-- The boot lock; from then on the raster runs, the scheduler may run, a manager sends beacons, and ACTIVE shows the port
that feeds layer 0 (R398, R402, Table 2.12). -/
def Dev.bootLock (d : Dev) : Dev :=
  let d := (d.put F.BOOT_CTRL_LOCK 1).flag F.SCHED_CTRL_EN d.boot.schedEn
  (d.wallStart.flag F.FSEQ_STATUS_BUFFERED d.buffered).showActive (d.get F.RX_MODE_PREFER_PORT)

/-- Steps 5 to 7 of R398, after the segments. -/
def Dev.bootRecords (d : Dev) : Dev := ((d.vregRequest 0 1 .nominal).loadCal).loadAge

/-- The segments of step 4, and the rest. -/
def Dev.bootSegments (d : Dev) (m : ImgAt) : Dev :=
  match Dev.placeSegs m m.segs.zipIdx d with
  | (d, some i) => d.bootRefuse rsUnpack i
  | (d, none) => (d.bootRecords.bootLock).bootUnpack m

/-- REG_TABLE and the checks. -/
def Dev.bootRegs (d : Dev) (m : ImgAt) (regs : List Byte) : Dev :=
  match Dev.applyEntries (2 ^ 32) 0 (regEntries regs) d with
  | (d, some a) => d.bootRefuse rsConfig a
  | (d, none) =>
    match d.bootChecks with
    | some a => d.bootRefuse rsConfig a
    | none => d.bootDales.bootSegments m

/-- The content of the first segment of a type, or the index of that segment when it cannot be unpacked. -/
def ImgAt.firstOf (m : ImgAt) (t : Nat) : Except Nat (List Byte) :=
  match m.segs.zipIdx.find? fun p => p.1.type == t with
  | some (g, i) => (match m.content g with | some bs => .ok bs | none => .error i)
  | none => .ok []

/-- Step 5: PIN_CFG, REG_TABLE and the checks (R398, R469). -/
def Dev.bootConfigure (d : Dev) (m : ImgAt) : Dev :=
  match m.firstOf 1 with
  | .error i => (d.setStep 5).bootRefuse rsUnpack i false
  | .ok pins =>
    match Dev.applyEntries 0x10000 0x40120000 (regEntries pins) (d.setStep 5) with
    | (d, some a) => d.bootRefuse rsConfig a
    | (d, none) =>
      match m.firstOf 2 with
      | .error i => d.bootRefuse rsUnpack i
      | .ok regs => d.bootRegs m regs

/-- Steps 3 and 4: the slot is copied, and its CRC and authentication are checked. -/
def Dev.bootCopy (d : Dev) : Dev :=
  let d := ((d.setStep 3).flashSend [d.slotRead]).copyImage (d.slotImage d.boot.cand)
  let m := d.imageCopy
  match d.imageBad m with
  | some r => (d.setStep 4).bootFail r false
  | none => (d.setStep 4).bootConfigure m

/-- The ROM goes on after step 2 when every channel's training has ended; without channel 7 there is nowhere to copy to
(R405). -/
def Dev.bootTrained (d : Dev) : Dev :=
  if d.bootStep ≠ 2 ∨ d.boot.stopped = true ∨ (List.range 8).any (fun ch => d.chState ch == 1) then d
  else if d.chState 7 = 6 then (d.setReason d.boot.cand rsDram).bootHold
  else d.bootCopy

/-! ### PFAIL_N (R154, R156, R384, R406, R444) -/

/-- The boot has not come to its ON list. -/
def Dev.beforeOnList (d : Dev) : Bool := decide (d.bootStep < 9) || d.bootStep == 15

/-- PFAIL_N has been low for 2 µs: the event is logged before the log freezes, the store flushes, the ROM stops, and from
the ON list on the PF list runs. -/
def Dev.pfail (d : Dev) : Dev :=
  let d := (d.put F.PSEQ_STATUS_PFAIL_LEVEL 0).raise Ev.PFAIL
  let d := { d with log := { d.log with frozen := true } }.put F.LOG_STATUS_FROZEN 1
  let d := d.nvPfail
  let early := d.beforeOnList
  let d := if d.bootDone then d else d.setBoot fun b => { b with stopped := true }
  if early then d else d.pseqPfail

/-- The ROM goes on from where it stopped. -/
def Dev.bootResume (d : Dev) : Dev :=
  match d.bootStep with
  | 2 => d.bootTrained
  | 8 => d.bootLight
  | 9 => if d.on F.PSEQ_STATUS_PANEL_ON then d else d.pseqOn
  | _ => d

/-- PFAIL_N has been high for 100 ms without a loss of supply. -/
def Dev.pfailRelease (d : Dev) : Dev :=
  let d := d.put F.PSEQ_STATUS_PFAIL_LEVEL 1
  let d := { d with log := { d.log with frozen := false } }.put F.LOG_STATUS_FROZEN 0
  let d := (d.nvRelease).setPseq fun p => { p with pfailClear := true }
  let d := d.pseqNextList
  if d.boot.stopped then (d.setBoot fun b => { b with stopped := false }).bootResume else d

/-! ### Moments that the boot waits for -/

/-- Frame done of the first lit frame ends step 9 (R403, R404, R407). -/
def Dev.bootFrame (d : Dev) (first : Bool) : Dev :=
  if first ∧ d.bootStep = 9 ∧ d.boot.stopped = false then
    ((d.setStep 10).put F.BOOT_LIGHT_US (d.ticks * 15625 / 512)).bootEnd
  else d

/-- The enumeration that the ROM waits for has ended. -/
def Dev.bootEnumEnd (d : Dev) : Dev :=
  if d.boot.waitEnum && !d.bl.enumOut then (d.setBoot fun b => { b with waitEnum := false }).bootLight else d

/-- WALL_WAIT ms have passed since the boot lock (R402). -/
def Dev.wallWaitExpire (d : Dev) : Dev :=
  if d.locked ∧ d.bootStep < 9 then (d.setBoot fun b => { b with waitOver := true }).bootLight else d

/-! ### Meanings -/

/-- DRAM_TRAIN_DONE (R312, R401, R405): bit c of `failed` says that channel c failed. -/
def execDramTrainDone (failed : BitVec 8) (s : State) : Host.Outcome State Fault Refusal :=
  .next (s.upd fun d => (d.dramTrained failed.toNat).bootTrained)
/-- ZB_ENUM_RETURN (R248, R401): the IDs read from the ICs found, by position. -/
def execZbEnumReturn (ids : List (BitVec 16 × Byte × Byte)) (s : State) : Host.Outcome State Fault Refusal :=
  .next (s.upd fun d => (d.enumReturn ids).bootEnumEnd)
/-- WALL_WAIT_EXPIRE (R402). -/
def execWallWaitExpire (s : State) : Host.Outcome State Fault Refusal := .next (s.upd (·.wallWaitExpire))
/-- BEACON_RX (R324, R326, R327, R329, R402). -/
def execBeaconRx (p : Fin 4) (b : Beacon) (tRx : BitVec 64) (own : BitVec 32) (s : State) : Host.Outcome State Fault Refusal :=
  .next (s.upd fun d => (d.beaconRx p b tRx.toNat own.toNat).bootLight)
/-- LATCH_POINT (R19, R22, R24, R27, R75, R402): `ns` is the time since the latch point before. -/
def execLatchPoint (ns : Nat) (s : State) : Host.Outcome State Fault Refusal := .next (s.upd fun d => (d.latchPoint ns).bootLight)
/-- FRAME_DONE (R22, R87, R99, R122, R153, R404, R407). -/
def execFrameDone (s : State) : Host.Outcome State Fault Refusal :=
  .next (s.upd fun d => d.frameDone.bootFrame (d.scan.inFrame && d.gate.firstDone))
/-- PFAIL_RELEASE (R156, R384, R406, R444). -/
def execPfailRelease (s : State) : Host.Outcome State Fault Refusal := .next (s.upd (·.pfailRelease))

end Sys2Proof.Machine
end

