-- ==== Sys2Proof/Machine/Service.lean ====
section
/-! DEFINITION.  The commands of the mailboxes (R425, R426; Tables 17.5 and 17.6), as hardware or firmware serves them, and
the parameter-store jobs that they wait for (R375, R382). -/

set_option Elab.async false

namespace Sys2Proof.Machine

def Dev.setMgmt (d : Dev) (f : MgmtState → MgmtState) : Dev := { d with mgmt := f d.mgmt }

/-! ### Serving a request -/

def Dev.mbArgOf (d : Dev) (m : Nat) : Nat := d.mbGet m mbArg 4
def Dev.mbLenOf (d : Dev) (m : Nat) : Nat := d.mbGet m mbReqLen 2
def Dev.mbData (d : Dev) (m n : Nat) : List Byte := Memory.read d.mbox (256 * m + mbReqData) n

/-- A request with this opcode is open in the mailbox. -/
def Dev.mbOpen (d : Dev) (m op : Nat) : Bool := d.mbBit m 0 && d.mbGet m mbOpcode 1 == op

/-- ARG is 0 where Table 17.5 gives 0, and there are no request data where it gives none; else BAD_ARG. -/
def Dev.mbShape (d : Dev) (m op : Nat) : Bool :=
  (d.mbArgOf m == 0 || !([0x01, 0x02, 0x0F, 0x22, 0x32].contains op)) &&
    (d.mbLenOf m == 0 || [0x04, 0x20, 0x21, 0x24, 0x31].contains op)

/-- A request is served, or ends with BAD_ARG. -/
def Dev.mbServe (d : Dev) (m op : Nat) (f : Dev → Dev) : Dev := if d.mbShape m op then f d else d.mbAnswer m 2

/-- A command that hardware serves, from boot start on. -/
def Dev.hwServe (d : Dev) (m op : Nat) (f : Dev → Dev) : Dev :=
  if d.mbOpen m op && d.bootStep != 0 then d.mbServe m op f else d

/-- A command that firmware serves: BUSY while the firmware does not run; it waits while its domain sleeps or the debugger
holds it, and while a job for the mailbox runs. -/
def Dev.fwServe (d : Dev) (m op : Nat) (f : Dev → Dev) : Dev :=
  if !d.mbOpen m op || d.bootStep == 0 then d
  else if !d.bootDone || d.on F.CP_STATUS_HOLD || !d.cp.fwRuns then d.mbAnswer m 3
  else if !d.cpRuns || d.mgmt.nvJob.any (fun j => j.1 == m) then d
  else d.mbServe m op f

/-! ### Hardware -/

/-- BOOT_STATUS, BOOT_SEQ, BOOT_VERSION, BOOT_FAIL_INFO, BOOT_LIGHT. -/
def Dev.bootStatusBytes (d : Dev) : List Byte :=
  [R.BOOT_STATUS, R.BOOT_SEQ, R.BOOT_VERSION, R.BOOT_FAIL_INFO, R.BOOT_LIGHT].flatMap fun r => leBytes 4 (d.rd r)

/-- DEVICE_ID, DEVICE_UID, FW_REV, WALL_ADDR. -/
def Dev.deviceInfoBytes (d : Dev) : List Byte :=
  leBytes 4 (d.rd R.DEVICE_ID) ++ leBytes 8 d.uid ++ [d.fwRevByte 0, d.fwRevByte 1] ++ leBytes 2 (d.rd R.WALL_ADDR)

/-- RESTART_CP: BUSY during the boot; else answered at once, and the control processor restarts (R414, R425). -/
def Dev.serveRestart (d : Dev) (m : Nat) : Dev := if d.bootDone then (d.mbAnswer m 0).restartCmd else d.mbAnswer m 3

/-! ### Registers, events, state -/

/-- GET_EVENTS: whole entries, oldest first, within 104 bytes. -/
def Dev.serveEvents (d : Dev) (m : Nat) : Dev :=
  d.mbAnswer m 0 ((d.log.entries.take (min 6 (d.mbArgOf m))).flatMap (·.bytes))

/-- REG_READ: 1 to 26 words from a register address on; a sleeping domain wakes. -/
def Dev.serveRegRead (d : Dev) (m : Nat) : Dev :=
  let a := d.mbArgOf m
  let n := leNat (d.mbData m 1)
  if d.mbLenOf m ≠ 1 ∨ n = 0 ∨ 26 < n ∨ a % 4 ≠ 0 then d.mbAnswer m 2
  else
    let addrs := (List.range n).map fun i => a + 4 * i
    let d := d.each (addrs.filterMap regDomain) Dev.wakeNow
    match addrs.mapM d.regRead with
    | some ws => d.mbAnswer m 0 (ws.flatMap (leBytes 4))
    | none => d.mbAnswer m 2

/-- The power-state logic refuses a state command of the host. -/
def Dev.stateRefused (d : Dev) (code : Nat) (src : CmdSrc) : Dev × Bool :=
  let was := d.get F.PWR_EVENT_PWR_REFUSE
  let d := (d.put F.PWR_EVENT_PWR_REFUSE 0).stateFrom code src
  (d.put F.PWR_EVENT_PWR_REFUSE (max was (d.get F.PWR_EVENT_PWR_REFUSE)), d.on F.PWR_EVENT_PWR_REFUSE)

/-- STATE: with HOST_GATE the request waits for firmware's decision (R353). -/
def Dev.serveState (d : Dev) (m : Nat) : Dev :=
  let src : CmdSrc := if m = 2 then .mgmt else .dpcd
  if 16 ≤ d.mbArgOf m then d.mbAnswer m 2
  else if d.on F.PWR_CFG_HOST_GATE then d.stateFrom (d.mbArgOf m) src
  else
    let (d, refused) := d.stateRefused (d.mbArgOf m) src
    d.mbAnswer m (if refused then 8 else 0)

/-- BRIGHTNESS: what firmware does with the level is its own. -/
def Dev.serveBrightness (d : Dev) (m : Nat) : Dev := d.mbAnswer m (if d.mbArgOf m < 65536 then 0 else 2)

/-- REDISCOVER: HPD of the port goes low for 10 ms (R45). -/
def Dev.serveRediscover (d : Dev) (m : Nat) : Dev :=
  if d.mbArgOf m < 2 then (d.rediscover (d.mbArgOf m)).mbAnswer m 0 else d.mbAnswer m 2

/-! ### The parameter store -/

/-- First page and number of pages of a partition (Table 15.2). -/
def nvPart (p : Nat) : Nat × Nat := ([(288, 64), (608, 2052), (2916, 1180), (352, 256), (2660, 256)][p]?).getD (0, 0)

/-- A passing password check that a mailbox holds. -/
def grantKey (m p k : Nat) : Nat := 16 * m + 2 * p + k
def Dev.granted (d : Dev) (m p k : Nat) : Bool := d.mgmt.grants.contains (grantKey m p k)

/-- The job of a mailbox ends with the store's command: the request is answered. -/
def Dev.nvJobEnd (d : Dev) : Dev :=
  match d.mgmt.nvJob with
  | none => d
  | some (m, op, p, k) =>
    let runs := match d.nv.op with | some o => o.cmd | none => false
    if d.on F.NV_CMD_GO || runs then d
    else
      let err := d.get F.NV_STATUS_ERR
      let d := d.setMgmt fun g => { g with nvJob := none }
      if err = 5 then d.mbAnswer m 5
      else if err ≠ 0 then d.mbAnswer m 7
      else if op = 0x20 then
        if d.on F.NV_STATUS_PW_PASS then
          (d.setMgmt fun g => { g with grants := insertN (grantKey m p k) g.grants }).mbAnswer m 0
        else d.mbAnswer m 4
      else if op = 0x23 then d.mbAnswer m 0 d.nvBuf
      else d.mbAnswer m 0

/-- Firmware runs a command of the store for a mailbox: BUSY while the store has another. -/
def Dev.nvJobStart (d : Dev) (m op p k : Nat) (f : Dev → Dev) : Dev :=
  if d.on F.NV_STATUS_BUSY && !d.nv.refuse || d.mgmt.nvJob.isSome then d.mbAnswer m 3
  else (f ((d.setMgmt fun g => { g with nvJob := some (m, op, p, k) }).put F.NV_SRC_USE_LS 0)).nvJobEnd

/-- PART and KIND of a password request; none when out of range. -/
def Dev.pwArg (d : Dev) (m : Nat) : Option (Nat × Nat) :=
  let a := d.mbArgOf m
  let p := bits a 3 0
  if 4 < p ∨ a ≠ p + 256 * bits a 8 8 ∨ d.mbLenOf m ≠ 8 then none else some (p, bits a 8 8)

/-- PW_CHECK. -/
def Dev.servePwCheck (d : Dev) (m : Nat) : Dev :=
  match d.pwArg m with
  | none => d.mbAnswer m 2
  | some (p, k) => d.nvJobStart m 0x20 p k fun d =>
      (d.setNvBuf (d.mbData m 8)).nvCommand 4 0 p (k == 1) (·.pwCheck p (k == 1))

/-- PW_SET, only after a passing write check (R382). -/
def Dev.servePwSet (d : Dev) (m : Nat) : Dev :=
  match d.pwArg m with
  | none => d.mbAnswer m 2
  | some (p, k) =>
    if d.granted m p 1 then
      d.nvJobStart m 0x21 p k fun d => (d.setNvBuf (d.mbData m 8)).nvCommand 5 0 p (k == 1) (·.pwSet p (k == 1))
    else d.mbAnswer m 4

/-- LOCK withdraws every grant of this mailbox (R382). -/
def Dev.serveLock (d : Dev) (m : Nat) : Dev :=
  (d.setMgmt fun g => { g with grants := g.grants.filter fun x => x / 16 != m }).mbAnswer m 0

/-- PART and absolute page of NV_READ and NV_WRITE. -/
def Dev.nvArg (d : Dev) (m : Nat) : Option (Nat × Nat) :=
  let a := d.mbArgOf m
  let p := bits a 27 24
  let n := bits a 11 0
  if a ≠ p * 2 ^ 24 + n ∨ (nvPart p).2 ≤ n then none else some (p, (nvPart p).1 + n)

/-- NV_READ, after a passing read check. -/
def Dev.serveNvRead (d : Dev) (m : Nat) : Dev :=
  match d.nvArg m with
  | none => d.mbAnswer m 2
  | some (p, page) =>
    if d.granted m p 0 then
      d.nvJobStart m 0x23 p 0 fun d => (d.put F.NV_PAGE_PAGE page).nvCommand 1 0 p false (·.nvRead 0)
    else d.mbAnswer m 4

/-- NV_WRITE to CFG and USER, after a passing write check. -/
def Dev.serveNvWrite (d : Dev) (m : Nat) : Dev :=
  match d.nvArg m with
  | none => d.mbAnswer m 2
  | some (p, page) =>
    if p < 3 ∨ d.mbLenOf m ≠ 64 then d.mbAnswer m 2
    else if d.granted m p 1 then
      d.nvJobStart m 0x24 p 1 fun d =>
        ((d.setNvBuf (d.mbData m 64)).put F.NV_PAGE_PAGE page).nvCommand 2 0 p true (·.nvWrite 0 false)
    else d.mbAnswer m 4

/-! ### Image transfer (R426) -/

/-- The slot that is not in use. -/
def Dev.spareSlot (d : Dev) : Nat := 1 - d.get F.BOOT_STATUS_SLOT

/-- The transfer in progress is over. -/
def Dev.imgDrop (d : Dev) : Dev := d.setMgmt fun g => { g with imgOwner := none, imgLen := 0, imgGot := 0, imgSlot := none }

/-- Another IMG_BEGIN or a restart abandons the transfer in progress: its mailbox is told so by IMAGE. -/
def Dev.imgAbandon (d : Dev) : Dev :=
  match d.mgmt.imgOwner with
  | some o => (d.setMgmt fun g => { g with imgLost := insertN o g.imgLost }).imgDrop
  | none => d

/-- IMG_BEGIN: a transfer in progress is abandoned, and this mailbox opens one; firmware stages it at `stage` × 64. -/
def Dev.imgBegin (d : Dev) (m stage : Nat) : Dev :=
  let n := d.mbArgOf m
  let d := d.imgAbandon
  if n % 4 ≠ 0 ∨ n < 4100 ∨ 2 ^ 28 < n ∨ d.slotRoom d.spareSlot < n then d.mbAnswer m 2
  else if stage * 64 < dramCh7 ∨ copyBase < stage * 64 + n then d.mbAnswer m 3
  else
    (d.setMgmt fun g =>
      { g with imgOwner := some m, imgLen := n, imgBase := stage * 64, imgLost := removeN m g.imgLost }).mbAnswer m 0

/-- The transfer belongs to the mailbox; else the result: none open or this mailbox's abandoned, or another's. -/
def Dev.imgMine (d : Dev) (m : Nat) (f : Dev → Dev) : Dev :=
  match d.mgmt.imgOwner with
  | none => d.mbAnswer m 9
  | some o => if o = m then f d else d.mbAnswer m (if d.mgmt.imgLost.contains m then 9 else 3)

/-- IMG_DATA: the bytes at the offset received so far. -/
def Dev.imgData (d : Dev) (m : Nat) : Dev :=
  d.imgMine m fun d =>
    let n := d.mbLenOf m
    let got := d.mgmt.imgGot
    if d.mbArgOf m ≠ got ∨ n = 0 ∨ 104 < n ∨ d.mgmt.imgLen < got + n then d.mbAnswer m 2
    else
      let (d, _) := d.dramWrite 3 (d.mgmt.imgBase + got) (d.mbData m n)
      (d.setMgmt fun g => { g with imgGot := got + n }).mbAnswer m 0

/-- The staged image. -/
def Dev.imgStaged (d : Dev) : ImgAt := ⟨d.dram.mem, d.mgmt.imgBase⟩

/-- The staged image is complete, valid for the slot not in use, and newer than the slot in use. -/
def Dev.imgGood (d : Dev) : Bool :=
  let i := d.imgStaged
  decide (d.mgmt.imgGot = d.mgmt.imgLen) && (i.headerBad d.quadBoot (d.slotRoom d.spareSlot)).isNone &&
    i.len == d.mgmt.imgLen && (d.imageBad i).isNone && aheadN i.seq (d.get F.BOOT_SEQ_SEQ)

/-- The image is written into the slot not in use; a write whose read-back differs leaves open bytes there. -/
def Dev.imgFlash (d : Dev) (good : Bool) : Dev :=
  let at_ := d.slotBase d.spareSlot
  let n := d.mgmt.imgLen
  if good then { d with flash := Memory.write d.flash at_ (d.imgStaged.bytes 0 n) }
  else
    let (k, d) := d.fresh
    { d with flash := Memory.write d.flash at_ ((List.range n).map (Config.freeByte k)) }

/-- IMG_END: the checks, then the write and its read-back, `good` when it matches. -/
def Dev.imgEnd (d : Dev) (m : Nat) (good : Bool) : Dev :=
  d.imgMine m fun d =>
    if !d.imgGood then d.imgDrop.mbAnswer m 9
    else
      let i := d.imgStaged
      let d := d.imgFlash good
      if good then
        (d.setMgmt fun g => { g with imgSlot := some d.spareSlot }).mbAnswer m 0 (leBytes 4 i.seq ++ leBytes 4 i.version)
      else d.imgDrop.mbAnswer m 9

/-- IMG_ACTIVATE: the swap of R427 is armed for frame F. -/
def Dev.imgActivate (d : Dev) (m : Nat) : Dev :=
  d.imgMine m fun d =>
    let f := d.mbArgOf m
    let k := (f + 2 ^ 32 - d.get F.FRAME_COUNT_FRAME) % 2 ^ 32
    match d.mgmt.imgSlot with
    | none => d.mbAnswer m 9
    | some s =>
      if k < 2 ∨ 2 ^ 31 ≤ k then d.mbAnswer m 2
      else
        let d := ((d.put F.CP_SWAP_SRC (d.mgmt.imgBase / 64)).put F.CP_SWAP_CTRL_SLOT s).put F.CP_SWAP_F_F f
        (d.put F.CP_SWAP_CTRL_GO 1).mbAnswer m 0

/-! ### Meanings -/

/-- BOOT_STATUS (R425). -/
def execBootStatus (m : Fin 3) (s : State) : Host.Outcome State Fault Refusal :=
  .next (s.upd fun d => d.hwServe m 0x01 fun d => d.mbAnswer m 0 d.bootStatusBytes)
/-- DEVICE_INFO (R425). -/
def execDeviceInfo (m : Fin 3) (s : State) : Host.Outcome State Fault Refusal :=
  .next (s.upd fun d => d.hwServe m 0x02 fun d => d.mbAnswer m 0 d.deviceInfoBytes)
/-- RESTART_CP (R65, R411, R414, R425). -/
def execRestartCp (m : Fin 3) (s : State) : Host.Outcome State Fault Refusal :=
  .next (s.upd fun d => d.hwServe m 0x0F fun d => d.serveRestart m)
/-- GET_EVENTS (R425). -/
def execGetEvents (m : Fin 3) (s : State) : Host.Outcome State Fault Refusal :=
  .next (s.upd fun d => d.fwServe m 0x03 fun d => d.serveEvents m)
/-- REG_READ (R425). -/
def execRegRead (m : Fin 3) (s : State) : Host.Outcome State Fault Refusal :=
  .next (s.upd fun d => d.fwServe m 0x04 fun d => d.serveRegRead m)
/-- STATE (R353, R425). -/
def execState (m : Fin 3) (s : State) : Host.Outcome State Fault Refusal :=
  .next (s.upd fun d => d.fwServe m 0x10 fun d => d.serveState m)
/-- BRIGHTNESS (R425). -/
def execBrightness (m : Fin 3) (s : State) : Host.Outcome State Fault Refusal :=
  .next (s.upd fun d => d.fwServe m 0x11 fun d => d.serveBrightness m)
/-- REDISCOVER (R45, R425). -/
def execRediscover (m : Fin 3) (s : State) : Host.Outcome State Fault Refusal :=
  .next (s.upd fun d => d.fwServe m 0x12 fun d => d.serveRediscover m)
/-- PW_CHECK (R382, R425). -/
def execPwCheck (m : Fin 3) (s : State) : Host.Outcome State Fault Refusal :=
  .next (s.upd fun d => d.fwServe m 0x20 fun d => d.servePwCheck m)
/-- PW_SET (R382, R425). -/
def execPwSet (m : Fin 3) (s : State) : Host.Outcome State Fault Refusal :=
  .next (s.upd fun d => d.fwServe m 0x21 fun d => d.servePwSet m)
/-- LOCK (R382, R425). -/
def execLock (m : Fin 3) (s : State) : Host.Outcome State Fault Refusal :=
  .next (s.upd fun d => d.fwServe m 0x22 fun d => d.serveLock m)
/-- NV_READ (R382, R425). -/
def execNvRead (m : Fin 3) (s : State) : Host.Outcome State Fault Refusal :=
  .next (s.upd fun d => d.fwServe m 0x23 fun d => d.serveNvRead m)
/-- NV_WRITE (R382, R425). -/
def execNvWrite (m : Fin 3) (s : State) : Host.Outcome State Fault Refusal :=
  .next (s.upd fun d => d.fwServe m 0x24 fun d => d.serveNvWrite m)
/-- IMG_BEGIN (R425, R426): firmware stages the image at DRAM address `stage` × 64. -/
def execImgBegin (m : Fin 3) (stage : BitVec 27) (s : State) : Host.Outcome State Fault Refusal :=
  .next (s.upd fun d => d.fwServe m 0x30 fun d => d.imgBegin m stage.toNat)
/-- IMG_DATA (R425, R426). -/
def execImgData (m : Fin 3) (s : State) : Host.Outcome State Fault Refusal :=
  .next (s.upd fun d => d.fwServe m 0x31 fun d => d.imgData m)
/-- IMG_END (R391 to R394, R425, R426): `good` says that the read-back of the flash matches. -/
def execImgEnd (m : Fin 3) (good : Bool) (s : State) : Host.Outcome State Fault Refusal :=
  .next (s.upd fun d => d.fwServe m 0x32 fun d => d.imgEnd m good)
/-- IMG_ACTIVATE (R425 to R427). -/
def execImgActivate (m : Fin 3) (s : State) : Host.Outcome State Fault Refusal :=
  .next (s.upd fun d => d.fwServe m 0x33 fun d => d.imgActivate m)
/-- NV_PROGRAM_DONE (R372, R373, R375). -/
def execNvProgramDone (s : State) : Host.Outcome State Fault Refusal := .next (s.upd (·.nvProgramDone.nvJobEnd))
/-- PFAIL (R154, R156, R384, R406, R444). -/
def execPfail (s : State) : Host.Outcome State Fault Refusal := .next (s.upd (·.pfail.nvJobEnd))

end Sys2Proof.Machine
end

