-- ==== Sys2Proof/Machine/Debug.lean ====
section
/-! DEFINITION.  JTAG and debug (R429 to R431): the TAP's instructions, the fuses, and the debug module of the RISC-V
External Debug Support 0.13.2 (log entry 25). -/

set_option Elab.async false

namespace Sys2Proof.Machine

def Dev.setTap (d : Dev) (f : TapState → TapState) : Dev := { d with tap := f d.tap }

/-! ### The TAP (R429) -/

/-- An instruction is in force, and its data register has captured `v`. -/
def Dev.tapSet (d : Dev) (ir v : Nat) : Dev := d.setTap fun t => { t with ir := ir, dr := v }

/-- An instruction that selects the boundary-scan register. -/
def Dev.tapBoundary (d : Dev) (ir : Nat) : Dev := let (k, d) := d.fresh; d.tapSet ir (Config.boundary k)

/-- The device identification code. -/
def idcode : Nat := 0x1740056B

/-! ### Halting (R430) -/

/-- Both cores halt together. -/
def Dev.debugHalt (d : Dev) : Dev := if d.tap.dbgLock || d.tap.halted then d else d.enterDebug 3

/-- One instruction runs, without interrupts, and the hart stops again. -/
def Dev.debugOne (d : Dev) : Dev :=
  let d := { d with tap := { d.tap with halted := false }, cp := { d.cp with waiting := false, hart := { d.cp.hart with pc := d.tap.dpc } } }
  let d := d.cpFetch
  if d.tap.halted then d else d.enterDebug 4

def Dev.debugStep (d : Dev) : Dev := if d.tap.dbgLock || !d.tap.halted then d else d.debugOne

/-- Both cores resume at dpc; with dcsr.step they stop after one instruction. -/
def Dev.debugResume (d : Dev) : Dev :=
  if d.tap.dbgLock || !d.tap.halted then d
  else
    let d := if bit d.tap.dcsr.toNat 2 then d.debugOne
      else { d with tap := { d.tap with halted := false }, cp := { d.cp with hart := { d.cp.hart with pc := d.tap.dpc } } }
    d.setTap fun t => { t with resumeAck := true }

/-! ### Abstract commands and the program buffer -/

/-- dcsr: xdebugver 4, cause, machine mode, and the writable bits. -/
def Dev.dcsrWord (d : Dev) : Word := d.tap.dcsr ||| BitVec.ofNat 32 (4 * 2 ^ 28 + d.tap.cause * 64 + 3)

/-- A register of the hart as the debugger reads it; none where there is no such register. -/
def Dev.debugReg (d : Dev) (n : Nat) : Dev × Option Word :=
  if 0x1000 ≤ n ∧ n < 0x1020 then (d, some (d.cp.hart.reg (n - 0x1000)))
  else if n = 0x7B0 then (d, some d.dcsrWord)
  else if n = 0x7B1 then (d, some d.tap.dpc)
  else if n < 0x1000 then d.cpCsr n
  else (d, none)

/-- The debugger writes a register of the hart. -/
def Dev.debugRegPut (d : Dev) (n : Nat) (v : Word) : Dev :=
  if 0x1000 ≤ n ∧ n < 0x1020 then d.setCpHart (d.cp.hart.setReg (n - 0x1000) v)
  else if n = 0x7B0 then d.setTap fun t => { t with dcsr := v &&& 0x00008E04 }
  else if n = 0x7B1 then d.setTap fun t => { t with dpc := v &&& 0xFFFFFFFE }
  else if 0xC00 ≤ n then d
  else d.setCpHart (hartCsrWrite d.cp.hart n v)

/-- A command error, kept until it is cleared. -/
def Dev.debugErr (d : Dev) (e : Nat) : Dev := d.setTap fun t => { t with cmdErr := if t.cmdErr = 0 then e else t.cmdErr }

/-- The program buffer as half words. -/
def Dev.progHalves (d : Dev) : List Nat :=
  (List.range 8).flatMap fun i => let w := ((d.tap.progbuf[i]?).getD 0).toNat; [w % 65536, w / 65536]

/-- Run the program buffer from half word `h`: it ends at EBREAK or at its end; an instruction that traps or leaves the
line ends it with cmderr 3. -/
def Dev.runProg (halves : List Nat) : Nat → Nat → Dev → Dev
  | 0, _, d => d
  | n + 1, h, d =>
    if 16 ≤ h then d
    else
      let lo := nth halves h
      let len := rvLen lo
      let w := if len = 2 then lo else lo + 65536 * nth halves (h + 1)
      match rvDecode w with
      | .ebreak => d
      | i =>
        let before := d.cp.hart
        let d' := d.cpExec i len w
        if d'.cp.hart.pc = before.pc + BitVec.ofNat 32 len then
          Dev.runProg halves n (h + len / 2) (d'.setCpHart { d'.cp.hart with pc := before.pc })
        else (d'.setCpHart { d'.cp.hart with pc := before.pc, csr := before.csr }).debugErr 3

/-- `command`: access register, with transfer, and execution of the program buffer after it. -/
def Dev.abstractCmd (d : Dev) (w : Nat) : Dev :=
  if d.tap.cmdErr ≠ 0 then d
  else if bits w 31 24 ≠ 0 then d.debugErr 2
  else if !d.tap.halted then d.debugErr 4
  else if bit w 17 && bits w 22 20 != 2 then d.debugErr 2
  else
    let n := bits w 15 0
    let d := if !bit w 17 then d
      else
        match d.debugReg n with
        | (d, none) => d.debugErr 3
        | (d, some v) => if bit w 16 then d.debugRegPut n d.tap.data else d.setTap fun t => { t with data := v }
    if bit w 18 && d.tap.cmdErr == 0 then
      let held := d.cp.hart.pc
      let d := (d.setTap fun t => { t with halted := false })
      let d := Dev.runProg d.progHalves 16 0 d
      (d.setTap fun t => { t with halted := true }).setCpHart { d.cp.hart with pc := held }
    else d

/-! ### System bus (R430) -/

/-- A read of the map of Table 17.1; none is an error. -/
def Dev.sbRead (d : Dev) (a n : Nat) : Dev × Option (List Byte) :=
  if inTcm a n then (d, some (Memory.read d.cp.tcm (a - tcmBase) n))
  else if inRom a n then (d, some ((List.range n).map fun i => Config.bootRom (a + i)))
  else
    match d.cpBus a with
    | some b =>
      match (match busDomain b with | some k => d.wakeNow k | none => d).busLoad .host b n with
      | (d, .data bs) => (d, some bs)
      | (d, _) => (d, none)
    | none => (d, none)

/-- A write of the map of Table 17.1; the flag is an error. -/
def Dev.sbWrite (d : Dev) (a n v : Nat) : Dev × Bool :=
  if inTcm a n then (d.setCp fun c => { c with tcm := Memory.write c.tcm (a - tcmBase) (leBytes n v) }, false)
  else
    match d.cpBus a with
    | some b =>
      match busDomain b with
      | some k => (d.wakeNow k).busPerform .host b n v
      | none => (d, true)
    | none => (d, true)

/-- Bytes of a system-bus access; none where the size is not 8, 16 or 32 bits. -/
def Dev.sbSize (d : Dev) : Option Nat := match bits d.tap.sbcs.toNat 19 17 with | 0 => some 1 | 1 => some 2 | 2 => some 4 | _ => none

def Dev.sbFail (d : Dev) (e : Nat) : Dev := d.setTap fun t => { t with sbErr := e }
def Dev.sbNext (d : Dev) (n : Nat) : Dev :=
  if bit d.tap.sbcs.toNat 16 then d.setTap fun t => { t with sbaddr := t.sbaddr + BitVec.ofNat 32 n } else d

/-- A system-bus access starts: none while an error stands. -/
def Dev.sbAccess (d : Dev) (write : Bool) : Dev :=
  if d.tap.sbErr ≠ 0 then d
  else
    match d.sbSize with
    | none => d.sbFail 4
    | some n =>
      let a := d.tap.sbaddr.toNat
      if a % n ≠ 0 then d.sbFail 3
      else if write then
        let (d, bad) := d.sbWrite a n (d.tap.sbdata.toNat % 256 ^ n)
        if bad then d.sbFail 2 else d.sbNext n
      else
        match d.sbRead a n with
        | (d, some bs) => (d.setTap fun t => { t with sbdata := BitVec.ofNat 32 (leNat bs) }).sbNext n
        | (d, none) => d.sbFail 2

/-! ### The debug module interface -/

/-- dmstatus: version 2, authenticated, implicit EBREAK; and whether the hart is halted, runs, and has resumed. -/
def Dev.dmStatus (d : Dev) : Nat :=
  2 + 0x80 + 0x400000 + (if d.tap.halted then 0x300 else 0xC00) + (if d.tap.resumeAck then 0x30000 else 0)

/-- A register of the debug module, as read. -/
def Dev.dmRead (d : Dev) (a : Nat) : Dev × Nat :=
  if a = 0x04 then (d, d.tap.data.toNat)
  else if a = 0x10 then (d, d.tap.dmActive.toNat)
  else if a = 0x11 then (d, d.dmStatus)
  else if a = 0x16 then (d, 8 * 2 ^ 24 + d.tap.cmdErr * 256 + 1)
  else if 0x20 ≤ a ∧ a < 0x28 then (d, ((d.tap.progbuf[a - 0x20]?).getD 0).toNat)
  else if a = 0x38 then (d, 2 ^ 29 + (d.tap.sbcs.toNat &&& 0x001F8000) + d.tap.sbErr * 4096 + 32 * 32 + 7)
  else if a = 0x39 then (d, d.tap.sbaddr.toNat)
  else if a = 0x3C then
    let v := d.tap.sbdata.toNat
    (if bit d.tap.sbcs.toNat 15 then d.sbAccess false else d, v)
  else if a = 0x40 then (d, d.tap.halted.toNat)
  else (d, 0)

/-- dmcontrol: dmactive 0 resets the module; haltreq, else resumereq. -/
def Dev.dmControl (d : Dev) (w : Nat) : Dev :=
  if !bit w 0 then
    d.setTap fun t => { t with dmActive := false, data := 0, progbuf := [], cmdErr := 0, sbcs := 0, sbErr := 0, sbaddr := 0, sbdata := 0,
                               resumeAck := false }
  else
    let d := d.setTap fun t => { t with dmActive := true }
    if bit w 31 then d.debugHalt
    else if bit w 30 then (d.setTap fun t => { t with resumeAck := false }).debugResume
    else d

/-- sbcs: the error clears by writing ones. -/
def Dev.sbControl (d : Dev) (w : Nat) : Dev :=
  d.setTap fun t => { t with sbcs := BitVec.ofNat 32 (w &&& 0x001F8000), sbErr := t.sbErr &&& (7 - bits w 14 12) }

/-- A register of the debug module is written. -/
def Dev.dmWrite (d : Dev) (a : Nat) (v : Word) : Dev :=
  if a = 0x10 then d.dmControl v.toNat
  else if !d.tap.dmActive then d
  else if a = 0x04 then d.setTap fun t => { t with data := v }
  else if a = 0x16 then d.setTap fun t => { t with cmdErr := t.cmdErr &&& (7 - bits v.toNat 10 8) }
  else if a = 0x17 then d.abstractCmd v.toNat
  else if 0x20 ≤ a ∧ a < 0x28 then
    d.setTap fun t => { t with progbuf := (t.progbuf ++ List.replicate (8 - t.progbuf.length) 0).set (a - 0x20) v }
  else if a = 0x38 then d.sbControl v.toNat
  else if a = 0x39 then
    let d := d.setTap fun t => { t with sbaddr := v }
    if bit d.tap.sbcs.toNat 20 then d.sbAccess false else d
  else if a = 0x3C then (d.setTap fun t => { t with sbdata := v }).sbAccess true
  else d

/-- DMI: a read or a write of the debug module; bypass when DBG_LOCK is 1. -/
def Dev.tapDmi (d : Dev) (a : Nat) (v : Word) (op : Nat) : Dev :=
  if d.tap.dbgLock then d.tapSet 0x11 0
  else
    match op with
    | 1 => let (d, r) := d.dmRead a; d.tapSet 0x11 (a * 2 ^ 34 + r * 4)
    | 2 => (d.dmWrite a v).tapSet 0x11 (a * 2 ^ 34)
    | _ => d.tapSet 0x11 (a * 2 ^ 34)

/-- DTMCS: version 1 and the address bits; bypass when DBG_LOCK is 1. -/
def Dev.tapDtmcs (d : Dev) : Dev := d.tapSet 0x10 (if d.tap.dbgLock then 0 else 1 + 16 * Config.dmiBits.toNat)

/-! ### Fuses (R394, R431) -/

/-- Cells 0 to 255 are KEY_FUSE, 256 REQUIRE_SIG and 257 DBG_LOCK; others cannot be programmed. -/
def Dev.burnFuse (d : Dev) (c : Nat) : Dev :=
  if c < 256 then d.putWord R.KEY_FUSE (c / 32) (d.rd R.KEY_FUSE (c / 32) ||| 2 ^ (c % 32))
  else if c = 256 then d.putWord R.FUSE_STATUS 0 (d.rd R.FUSE_STATUS ||| 1)
  else if c = 257 then d.setTap fun t => { t with dbgLock := true }
  else d

/-- Every fuse as read: KEY_FUSE, REQUIRE_SIG, DBG_LOCK, DEVICE_UID. -/
def Dev.fuses (d : Dev) : Nat :=
  leNat ((List.range 8).flatMap fun k => leBytes 4 (d.rd R.KEY_FUSE k)) + (d.get F.FUSE_STATUS_REQUIRE_SIG) * 2 ^ 256 +
    d.tap.dbgLock.toNat * 2 ^ 257 + d.uid * 2 ^ 258

/-- FUSE: programming requires boot hold, and supply and temperature in range. -/
def Dev.tapFuse (d : Dev) (cells : List Nat) (inRange : Bool) : Dev :=
  let d := if inRange && d.bootStep == 15 then d.each cells Dev.burnFuse else d
  d.tapSet 0x20 d.fuses

/-! ### Meanings -/

/-- TAP_EXTEST (R429). -/
def execTapExtest (s : State) : Host.Outcome State Fault Refusal := .next (s.upd (·.tapBoundary 0x00))
/-- TAP_IDCODE (R429). -/
def execTapIdcode (s : State) : Host.Outcome State Fault Refusal := .next (s.upd (·.tapSet 0x01 idcode))
/-- TAP_SAMPLE_PRELOAD (R429). -/
def execTapSamplePreload (s : State) : Host.Outcome State Fault Refusal := .next (s.upd (·.tapBoundary 0x02))
/-- TAP_EXTEST_PULSE (R429). -/
def execTapExtestPulse (s : State) : Host.Outcome State Fault Refusal := .next (s.upd (·.tapBoundary 0x03))
/-- TAP_EXTEST_TRAIN (R429). -/
def execTapExtestTrain (s : State) : Host.Outcome State Fault Refusal := .next (s.upd (·.tapBoundary 0x04))
/-- TAP_CLAMP (R429). -/
def execTapClamp (s : State) : Host.Outcome State Fault Refusal := .next (s.upd (·.tapSet 0x05 0))
/-- TAP_HIGHZ (R429). -/
def execTapHighz (s : State) : Host.Outcome State Fault Refusal := .next (s.upd (·.tapSet 0x06 0))
/-- TAP_DTMCS (R429, R430). -/
def execTapDtmcs (s : State) : Host.Outcome State Fault Refusal := .next (s.upd (·.tapDtmcs))
/-- TAP_DMI (R429, R430): address, data and operation (1 read, 2 write) of the debug module interface. -/
def execTapDmi (addr : BitVec 7) (data : Word) (op : BitVec 2) (s : State) : Host.Outcome State Fault Refusal :=
  .next (s.upd (·.tapDmi addr.toNat data op.toNat))
/-- TAP_FUSE (R394, R431): the cells to program, and whether VDDIO_18 and TJ are in range. -/
def execTapFuse (cells : List (BitVec 9)) (inRange : Bool) (s : State) : Host.Outcome State Fault Refusal :=
  .next (s.upd (·.tapFuse (cells.map (·.toNat)) inRange))
/-- TAP_BYPASS (R429). -/
def execTapBypass (s : State) : Host.Outcome State Fault Refusal := .next (s.upd (·.tapSet 0xFF 0))
/-- DEBUG_HALT (R430). -/
def execDebugHalt (s : State) : Host.Outcome State Fault Refusal := .next (s.upd (·.debugHalt))
/-- DEBUG_RESUME (R430). -/
def execDebugResume (s : State) : Host.Outcome State Fault Refusal := .next (s.upd (·.debugResume))
/-- DEBUG_STEP (R430). -/
def execDebugStep (s : State) : Host.Outcome State Fault Refusal := .next (s.upd (·.debugStep))

end Sys2Proof.Machine
end

