-- ==== Sys2Proof/Machine/Mgmt.lean ====
section
/-! DEFINITION.  The management port (R375, R422, R423): its I2C and I3C transactions and the common command codes. -/

set_option Elab.async false

namespace Sys2Proof.Machine

def Dev.mgmtReply (d : Dev) (r : AuxReply) : Dev := d.setMgmt fun g => { g with reply := r }
def Dev.i3c (d : Dev) : Bool := d.on F.MGMT_CFG_I3C_EN

/-- The port answers an address: its static one, or under I3C its dynamic one. -/
def Dev.mgmtHears (d : Dev) (a : Nat) : Bool :=
  a != 0 && (a == d.get F.MGMT_CFG_ADDR || (d.i3c && d.mgmt.dyn == some a))

/-- The parameter store programs: the port NAKs its address (R375). -/
def Dev.mgmtNak (d : Dev) : Bool := d.on F.NV_STATUS_PROG

/-- Data bytes of a private write go to the pointer, which increments and wraps. -/
def Dev.mgmtWrite : List Byte → Dev → Dev
  | [], d => d
  | b :: bs, d =>
    let p := d.mgmt.ptr
    Dev.mgmtWrite bs ((d.mbHostWrite 2 p b).setMgmt fun g => { g with ptr := (p + 1) % 256 })

/-- A private transaction: a pointer byte and data bytes, and `n` bytes read. -/
def Dev.mgmtTransaction (d : Dev) (a : Nat) (w : List Byte) (n : Nat) : Dev :=
  if !d.mgmtHears a then d
  else if d.mgmtNak then d.mgmtReply .nack
  else
    let d := match w with
      | [] => d
      | p :: bs => Dev.mgmtWrite bs (d.setMgmt fun g => { g with ptr := p.toNat })
    if n = 0 then d.mgmtReply .ack
    else
      let p := d.mgmt.ptr
      (d.mgmtReply (.data ((List.range n).map fun i => d.mbByte 2 ((p + i) % 256)))).setMgmt fun g => { g with ptr := (p + n) % 256 }

/-! ### Common command codes (R422) -/

/-- A dynamic address is assigned, and its event is raised. -/
def Dev.assignDyn (d : Dev) (a : Nat) : Dev := (d.setMgmt fun g => { g with dyn := some a }).raise Ev.I3C_DAA

/-- A direct command code to the dynamic address: NAKed while the store programs. -/
def Dev.direct (d : Dev) (a : Nat) (f : Dev → Dev) : Dev :=
  if !d.i3c || d.mgmt.dyn != some a then d else if d.mgmtNak then d.mgmtReply .nack else f d

def Dev.cccData (d : Dev) (a : Nat) (bs : List Byte) : Dev := d.direct a fun d => d.mgmtReply (.data bs)

/-- ENTDAA gives an address to a target without one. -/
def Dev.entdaa (d : Dev) (a : Nat) : Dev := if d.i3c && d.mgmt.dyn.isNone then d.assignDyn a else d

/-- SETDASA gives an address to the target with the static address. -/
def Dev.setdasa (d : Dev) (st a : Nat) : Dev :=
  if !d.i3c || st != d.get F.MGMT_CFG_ADDR || d.mgmt.dyn.isSome then d else if d.mgmtNak then d.mgmtReply .nack else d.assignDyn a

/-- GETSTATUS: the spec states no value. -/
def Dev.getStatus (d : Dev) (a : Nat) : Dev :=
  d.direct a fun d => let (k, d) := d.fresh; d.mgmtReply (.data [Config.freeByte k 0, Config.freeByte k 1])

/-- ENEC and DISEC: bit 0 of the events is the in-band interrupt; address 0x7E is the broadcast form. -/
def Dev.setIbi (d : Dev) (a : Nat) (events : Byte) (on : Bool) : Dev :=
  let f := fun (d : Dev) => if events.getLsbD 0 then d.setMgmt fun g => { g with ibiEn := on } else d
  if d.i3c && a == 0x7E then f d else d.direct a f

/-! ### Meanings -/

/-- MGMT_TRANSACTION (R375, R421 to R424): address, bytes written (pointer first), number of bytes read. -/
def execMgmtTransaction (addr : BitVec 7) (write : List Byte) (read : Nat) (s : State) : Host.Outcome State Fault Refusal :=
  .next (s.upd (·.mgmtTransaction addr.toNat write read))
/-- ENTDAA (R422). -/
def execEntdaa (addr : BitVec 7) (s : State) : Host.Outcome State Fault Refusal := .next (s.upd (·.entdaa addr.toNat))
/-- SETDASA (R422). -/
def execSetdasa (static : BitVec 7) (addr : BitVec 7) (s : State) : Host.Outcome State Fault Refusal :=
  .next (s.upd (·.setdasa static.toNat addr.toNat))
/-- SETNEWDA (R422). -/
def execSetnewda (cur : BitVec 7) (addr : BitVec 7) (s : State) : Host.Outcome State Fault Refusal :=
  .next (s.upd fun d => d.direct cur.toNat fun d => d.assignDyn addr.toNat)
/-- RSTDAA (R422). -/
def execRstdaa (s : State) : Host.Outcome State Fault Refusal :=
  .next (s.upd fun d => if d.i3c then d.setMgmt fun g => { g with dyn := none } else d)
/-- GETPID (R422): the provisioned ID is open. -/
def execGetpid (addr : BitVec 7) (s : State) : Host.Outcome State Fault Refusal :=
  .next (s.upd (·.cccData addr.toNat ((List.range 6).map Config.pid)))
/-- GETBCR (R422). -/
def execGetbcr (addr : BitVec 7) (s : State) : Host.Outcome State Fault Refusal := .next (s.upd (·.cccData addr.toNat [0x06]))
/-- GETDCR (R422). -/
def execGetdcr (addr : BitVec 7) (s : State) : Host.Outcome State Fault Refusal := .next (s.upd (·.cccData addr.toNat [0x00]))
/-- GETSTATUS (R422). -/
def execGetstatus (addr : BitVec 7) (s : State) : Host.Outcome State Fault Refusal := .next (s.upd (·.getStatus addr.toNat))
/-- GETMWL (R422): 256, most significant byte first. -/
def execGetmwl (addr : BitVec 7) (s : State) : Host.Outcome State Fault Refusal := .next (s.upd (·.cccData addr.toNat [1, 0]))
/-- GETMRL (R422): 256, most significant byte first. -/
def execGetmrl (addr : BitVec 7) (s : State) : Host.Outcome State Fault Refusal := .next (s.upd (·.cccData addr.toNat [1, 0]))
/-- ENEC (R422). -/
def execEnec (addr : BitVec 7) (events : Byte) (s : State) : Host.Outcome State Fault Refusal :=
  .next (s.upd (·.setIbi addr.toNat events true))
/-- DISEC (R422). -/
def execDisec (addr : BitVec 7) (events : Byte) (s : State) : Host.Outcome State Fault Refusal :=
  .next (s.upd (·.setIbi addr.toNat events false))

end Sys2Proof.Machine
end

