-- ==== Sys2Proof/Machine/Dispatch.lean ====
section
/-! DEFINITION.  exec: one arm per command, one direct call of its meaning. -/

namespace Sys2Proof.Machine

def exec (i : Instr) (s : State) : Host.Outcome State Fault Refusal :=
  match i with
  | .latchPoint ns => Sys2Proof.Machine.execLatchPoint ns s
  | .prefetchStart us => Sys2Proof.Machine.execPrefetchStart us s
  | .frameStart => Sys2Proof.Machine.execFrameStart s
  | .frameDone => Sys2Proof.Machine.execFrameDone s
  | .lineStart line live => Sys2Proof.Machine.execLineStart line live s
  | .commit => Sys2Proof.Machine.execCommit s
  | .statWriteDone => Sys2Proof.Machine.execStatWriteDone s
  | .reserveTimerFrame => Sys2Proof.Machine.execReserveTimerFrame s
  | .vrrTrigger => Sys2Proof.Machine.execVrrTrigger s
  | .vrrTimeout => Sys2Proof.Machine.execVrrTimeout s
  | .inputStop line => Sys2Proof.Machine.execInputStop line s
  | .underrun layer line x => Sys2Proof.Machine.execUnderrun layer line x s
  | .laneLock port lane phase => Sys2Proof.Machine.execLaneLock port lane phase s
  | .trainBoundExpire port phase best => Sys2Proof.Machine.execTrainBoundExpire port phase best s
  | .laneLockLost port lane => Sys2Proof.Machine.execLaneLockLost port lane s
  | .portFail port => Sys2Proof.Machine.execPortFail port s
  | .msaReceived port msa => Sys2Proof.Machine.execMsaReceived port msa s
  | .irqHpd port => Sys2Proof.Machine.execIrqHpd port s
  | .irqHpdEnd port => Sys2Proof.Machine.execIrqHpdEnd port s
  | .hpdRediscover port => Sys2Proof.Machine.execHpdRediscover port s
  | .hpdRediscoverEnd port => Sys2Proof.Machine.execHpdRediscoverEnd port s
  | .sourceAbsent port => Sys2Proof.Machine.execSourceAbsent port s
  | .auxTransaction port req => Sys2Proof.Machine.execAuxTransaction port req s
  | .mbSubmit m => Sys2Proof.Machine.execMbSubmit m s
  | .mbAck m => Sys2Proof.Machine.execMbAck m s
  | .inputFrameStart port apart => Sys2Proof.Machine.execInputFrameStart port apart s
  | .inputFrameComplete port us => Sys2Proof.Machine.execInputFrameComplete port us s
  | .inputFrameIncomplete port => Sys2Proof.Machine.execInputFrameIncomplete port s
  | .standbyFrameTimeout port => Sys2Proof.Machine.execStandbyFrameTimeout port s
  | .ppsReceived port pps => Sys2Proof.Machine.execPpsReceived port pps s
  | .dscError port line => Sys2Proof.Machine.execDscError port line s
  | .prEntry port => Sys2Proof.Machine.execPrEntry port s
  | .fallowRequest => Sys2Proof.Machine.execFallowRequest s
  | .alpmWake port => Sys2Proof.Machine.execAlpmWake port s
  | .auxWake port => Sys2Proof.Machine.execAuxWake port s
  | .resumeLockTimeout port lane => Sys2Proof.Machine.execResumeLockTimeout port lane s
  | .codecQTail q tail => Sys2Proof.Machine.execCodecQTail q tail s
  | .streamDecompress q => Sys2Proof.Machine.execStreamDecompress q s
  | .streamCompress q => Sys2Proof.Machine.execStreamCompress q s
  | .exactEncode q faults => Sys2Proof.Machine.execExactEncode q faults s
  | .exactDecode q => Sys2Proof.Machine.execExactDecode q s
  | .boundedEncode21 q => Sys2Proof.Machine.execBoundedEncode21 q s
  | .boundedEncode31 q => Sys2Proof.Machine.execBoundedEncode31 q s
  | .boundedDecode q => Sys2Proof.Machine.execBoundedDecode q s
  | .descDone q => Sys2Proof.Machine.execDescDone q s
  | .ctxReset mask => Sys2Proof.Machine.execCtxReset mask s
  | .blockEncode unit line seg rx fault => Sys2Proof.Machine.execBlockEncode unit line seg rx fault s
  | .blockFetch unit line seg => Sys2Proof.Machine.execBlockFetch unit line seg s
  | .guardRelease => Sys2Proof.Machine.execGuardRelease s
  | .guardExpire => Sys2Proof.Machine.execGuardExpire s
  | .trainPhaseTimeout => Sys2Proof.Machine.execTrainPhaseTimeout s
  | .lockNFall => Sys2Proof.Machine.execLockNFall s
  | .lockNRise => Sys2Proof.Machine.execLockNRise s
  | .lockLoss => Sys2Proof.Machine.execLockLoss s
  | .relock => Sys2Proof.Machine.execRelock s
  | .laneSearchStep rose => Sys2Proof.Machine.execLaneSearchStep rose s
  | .laneRetry lane passed => Sys2Proof.Machine.execLaneRetry lane passed s
  | .testBurst lane => Sys2Proof.Machine.execTestBurst lane s
  | .colCtlpktGo => Sys2Proof.Machine.execColCtlpktGo s
  | .pseqCmdOn => Sys2Proof.Machine.execPseqCmdOn s
  | .pseqCmdOff => Sys2Proof.Machine.execPseqCmdOff s
  | .pseqStep => Sys2Proof.Machine.execPseqStep s
  | .waitInMet => Sys2Proof.Machine.execWaitInMet s
  | .waitInTimeout => Sys2Proof.Machine.execWaitInTimeout s
  | .pfail => Sys2Proof.Machine.execPfail s
  | .pfailRelease => Sys2Proof.Machine.execPfailRelease s
  | .blEnable => Sys2Proof.Machine.execBlEnable s
  | .blOff => Sys2Proof.Machine.execBlOff s
  | .daleInstruction dale cyc ecc => Sys2Proof.Machine.execDaleInstruction dale cyc ecc s
  | .daleLoad dale size rd rs1 imm cyc ecc => Sys2Proof.Machine.execDaleLoad dale size rd rs1 imm cyc ecc s
  | .daleStore dale size rs1 rs2 imm cyc ecc loses => Sys2Proof.Machine.execDaleStore dale size rs1 rs2 imm cyc ecc loses s
  | .paddS16 dale rd rs1 rs2 cyc => Sys2Proof.Machine.execPaddS16 dale rd rs1 rs2 cyc s
  | .psubS16 dale rd rs1 rs2 cyc => Sys2Proof.Machine.execPsubS16 dale rd rs1 rs2 cyc s
  | .paddU16 dale rd rs1 rs2 cyc => Sys2Proof.Machine.execPaddU16 dale rd rs1 rs2 cyc s
  | .psubU16 dale rd rs1 rs2 cyc => Sys2Proof.Machine.execPsubU16 dale rd rs1 rs2 cyc s
  | .clamp dale rd rs1 rs2 cyc => Sys2Proof.Machine.execClamp dale rd rs1 rs2 cyc s
  | .rcpe dale rd rs1 cyc => Sys2Proof.Machine.execRcpe dale rd rs1 cyc s
  | .qmulr dale rd rs1 rs2 q cyc => Sys2Proof.Machine.execQmulr dale rd rs1 rs2 q cyc s
  | .luti dale rd rs1 rs2 sh cyc ecc => Sys2Proof.Machine.execLuti dale rd rs1 rs2 sh cyc ecc s
  | .hacc dale rd rs1 rs3 cyc ecc => Sys2Proof.Machine.execHacc dale rd rs1 rs3 cyc ecc s
  | .haccw dale rd rs1 rs2 rs3 cyc ecc => Sys2Proof.Machine.execHaccw dale rd rs1 rs2 rs3 cyc ecc s
  | .bfx dale rd rs1 lsb width1 sgn cyc => Sys2Proof.Machine.execBfx dale rd rs1 lsb width1 sgn cyc s
  | .bfi dale rd rs1 lsb width1 cyc => Sys2Proof.Machine.execBfi dale rd rs1 lsb width1 cyc s
  | .dmaq dale rd rs1 cyc ecc => Sys2Proof.Machine.execDmaq dale rd rs1 cyc ecc s
  | .dmaw dale rd rs1 cyc => Sys2Proof.Machine.execDmaw dale rd rs1 cyc s
  | .jend dale rs1 cyc => Sys2Proof.Machine.execJend dale rs1 cyc s
  | .wfe dale rd rs1 cyc => Sys2Proof.Machine.execWfe dale rd rs1 cyc s
  | .dfence dale pred succ cyc => Sys2Proof.Machine.execDfence dale pred succ cyc s
  | .ffence dale rd cyc => Sys2Proof.Machine.execFfence dale rd cyc s
  | .jobMergeDone dale merge => Sys2Proof.Machine.execJobMergeDone dale merge s
  | .dmaTagDone glen dma => Sys2Proof.Machine.execDmaTagDone glen dma s
  | .jobOverrun dale => Sys2Proof.Machine.execJobOverrun dale s
  | .daleStart dale => Sys2Proof.Machine.execDaleStart dale s
  | .daleDoorbell dale => Sys2Proof.Machine.execDaleDoorbell dale s
  | .imemLoadGo => Sys2Proof.Machine.execImemLoadGo s
  | .imemLoadDone => Sys2Proof.Machine.execImemLoadDone s
  | .pwmPeriodStart index sense => Sys2Proof.Machine.execPwmPeriodStart index sense s
  | .zbFsSend index => Sys2Proof.Machine.execZbFsSend index s
  | .dutyCutoff => Sys2Proof.Machine.execDutyCutoff s
  | .zbUpdSend => Sys2Proof.Machine.execZbUpdSend s
  | .zbUpdReturn ack => Sys2Proof.Machine.execZbUpdReturn ack s
  | .zbStatSend => Sys2Proof.Machine.execZbStatSend s
  | .zbStatReturn slots => Sys2Proof.Machine.execZbStatReturn slots s
  | .zbEnum => Sys2Proof.Machine.execZbEnum s
  | .zbEnumReturn ids => Sys2Proof.Machine.execZbEnumReturn ids s
  | .zbRingDown => Sys2Proof.Machine.execZbRingDown s
  | .zbReplug => Sys2Proof.Machine.execZbReplug s
  | .needSample sink vOut vPin => Sys2Proof.Machine.execNeedSample sink vOut vPin s
  | .boostOv b => Sys2Proof.Machine.execBoostOv b s
  | .boostOc b => Sys2Proof.Machine.execBoostOc b s
  | .boostUvTimeout b => Sys2Proof.Machine.execBoostUvTimeout b s
  | .boostOcClear b => Sys2Proof.Machine.execBoostOcClear b s
  | .softStartDone b => Sys2Proof.Machine.execSoftStartDone b s
  | .blShutdown why => Sys2Proof.Machine.execBlShutdown why s
  | .blRestart => Sys2Proof.Machine.execBlRestart s
  | .blPolicy policy => Sys2Proof.Machine.execBlPolicy policy s
  | .diagPulse sink => Sys2Proof.Machine.execDiagPulse sink s
  | .pinTest a b result => Sys2Proof.Machine.execPinTest a b result s
  | .sinkFaultClear sink clr => Sys2Proof.Machine.execSinkFaultClear sink clr s
  | .calWindowEnd c inst timeout => Sys2Proof.Machine.execCalWindowEnd c inst timeout s
  | .calFitReady b => Sys2Proof.Machine.execCalFitReady b s
  | .sgCommit b => Sys2Proof.Machine.execSgCommit b s
  | .calFitTimeout b => Sys2Proof.Machine.execCalFitTimeout b s
  | .tsSample raw => Sys2Proof.Machine.execTsSample raw s
  | .eqStep port lane taps errors => Sys2Proof.Machine.execEqStep port lane taps errors s
  | .colTune now trials => Sys2Proof.Machine.execColTune now trials s
  | .calFwReport zone reason => Sys2Proof.Machine.execCalFwReport zone reason s
  | .calEnWrite en => Sys2Proof.Machine.execCalEnWrite en s
  | .lsAccess reqs upsets => Sys2Proof.Machine.execLsAccess reqs upsets s
  | .bankIdle k => Sys2Proof.Machine.execBankIdle k s
  | .bankSigDone k => Sys2Proof.Machine.execBankSigDone k s
  | .bankStateReq k verify req => Sys2Proof.Machine.execBankStateReq k verify req s
  | .bankCheckDone k => Sys2Proof.Machine.execBankCheckDone k s
  | .bankClearDone k => Sys2Proof.Machine.execBankClearDone k s
  | .regionTestStart busy => Sys2Proof.Machine.execRegionTestStart busy s
  | .regionTestDone fails => Sys2Proof.Machine.execRegionTestDone fails s
  | .gdmaQTail c tail => Sys2Proof.Machine.execGdmaQTail c tail s
  | .gdmaCopy c => Sys2Proof.Machine.execGdmaCopy c s
  | .gdmaFill c => Sys2Proof.Machine.execGdmaFill c s
  | .gdmaDescDone c => Sys2Proof.Machine.execGdmaDescDone c s
  | .dramRequest port addr len data => Sys2Proof.Machine.execDramRequest port addr len data s
  | .dramComplete ch upsets => Sys2Proof.Machine.execDramComplete ch upsets s
  | .dramAgePromote ch idx => Sys2Proof.Machine.execDramAgePromote ch idx s
  | .quotaBucket => Sys2Proof.Machine.execQuotaBucket s
  | .drqQuotaWrite port quota => Sys2Proof.Machine.execDrqQuotaWrite port quota s
  | .panicAssert port => Sys2Proof.Machine.execPanicAssert port s
  | .panicRelease port => Sys2Proof.Machine.execPanicRelease port s
  | .dramRefresh ch => Sys2Proof.Machine.execDramRefresh ch s
  | .refreshRepay ch => Sys2Proof.Machine.execRefreshRepay ch s
  | .mr4Read reports => Sys2Proof.Machine.execMr4Read reports s
  | .rdWindowEnd => Sys2Proof.Machine.execRdWindowEnd s
  | .srIdleEntry ch => Sys2Proof.Machine.execSrIdleEntry ch s
  | .srExitDone ch => Sys2Proof.Machine.execSrExitDone ch s
  | .dramSegClear ch segs => Sys2Proof.Machine.execDramSegClear ch segs s
  | .segClearDone ch seg => Sys2Proof.Machine.execSegClearDone ch seg s
  | .scrubStep upsets => Sys2Proof.Machine.execScrubStep upsets s
  | .dramTrainDone failed => Sys2Proof.Machine.execDramTrainDone failed s
  | .wckOscRead channels => Sys2Proof.Machine.execWckOscRead channels s
  | .tsReceived p ts => Sys2Proof.Machine.execTsReceived p ts s
  | .wallCommaTimeout p errors => Sys2Proof.Machine.execWallCommaTimeout p errors s
  | .beaconTx now fsTime => Sys2Proof.Machine.execBeaconTx now fsTime s
  | .dreqTx now => Sys2Proof.Machine.execDreqTx now s
  | .beaconRx p b tRx own => Sys2Proof.Machine.execBeaconRx p b tRx own s
  | .dreqRx p child t1 seq t2 t3 => Sys2Proof.Machine.execDreqRx p child t1 seq t2 t3 s
  | .drspRx p t1 t2 t3 seq t4 => Sys2Proof.Machine.execDrspRx p t1 t2 t3 seq t4 s
  | .upstreamTimeout => Sys2Proof.Machine.execUpstreamTimeout s
  | .almanacLost => Sys2Proof.Machine.execAlmanacLost s
  | .lakRx p lseq => Sys2Proof.Machine.execLakRx p lseq s
  | .cmdResend p => Sys2Proof.Machine.execCmdResend p s
  | .join p h id req cur => Sys2Proof.Machine.execJoin p h id req cur s
  | .assign p h id addr refused => Sys2Proof.Machine.execAssign p h id addr refused s
  | .lost p h addrs => Sys2Proof.Machine.execLost p h addrs s
  | .prepare p h set f kind scope bitmap data => Sys2Proof.Machine.execPrepare p h set f kind scope bitmap data s
  | .ack p h set count naks reason => Sys2Proof.Machine.execAck p h set count naks reason s
  | .go p h set f => Sys2Proof.Machine.execGo p h set f s
  | .abort p h set f => Sys2Proof.Machine.execAbort p h set f s
  | .result p h set outcome => Sys2Proof.Machine.execResult p h set outcome s
  | .wallRegWr p h offset words => Sys2Proof.Machine.execWallRegWr p h offset words s
  | .wallRegRd p h offset count => Sys2Proof.Machine.execWallRegRd p h offset count s
  | .rdRsp p h status words => Sys2Proof.Machine.execRdRsp p h status words s
  | .msg p h data => Sys2Proof.Machine.execMsg p h data s
  | .wallState p h code f => Sys2Proof.Machine.execWallState p h code f s
  | .noticePacket p id offset total data good => Sys2Proof.Machine.execNoticePacket p id offset total data good s
  | .noticeNak p h id offset => Sys2Proof.Machine.execNoticeNak p h id offset s
  | .noticeDone p h id ready errors => Sys2Proof.Machine.execNoticeDone p h id ready errors s
  | .eqxCmdPrepare scope kind set => Sys2Proof.Machine.execEqxCmdPrepare scope kind set s
  | .eqxAck nak reason => Sys2Proof.Machine.execEqxAck nak reason s
  | .ackDeadline => Sys2Proof.Machine.execAckDeadline s
  | .eqxAbortDeadline => Sys2Proof.Machine.execEqxAbortDeadline s
  | .noticeTx id => Sys2Proof.Machine.execNoticeTx id s
  | .wallRemove addr => Sys2Proof.Machine.execWallRemove addr s
  | .domainIdle k => Sys2Proof.Machine.execDomainIdle k s
  | .domReqOn k => Sys2Proof.Machine.execDomReqOn k s
  | .domReqRet k => Sys2Proof.Machine.execDomReqRet k s
  | .domainPowerDownDone k => Sys2Proof.Machine.execDomainPowerDownDone k s
  | .domainReady k => Sys2Proof.Machine.execDomainReady k s
  | .vregAck rail => Sys2Proof.Machine.execVregAck rail s
  | .vregTimeout rail => Sys2Proof.Machine.execVregTimeout rail s
  | .vregRetry rail => Sys2Proof.Machine.execVregRetry rail s
  | .daleTurbo on => Sys2Proof.Machine.execDaleTurbo on s
  | .stateRun src => Sys2Proof.Machine.execStateRun src s
  | .stateFallow src => Sys2Proof.Machine.execStateFallow src s
  | .stateVigil src => Sys2Proof.Machine.execStateVigil src s
  | .stateDormant src => Sys2Proof.Machine.execStateDormant src s
  | .stateCapture src => Sys2Proof.Machine.execStateCapture src s
  | .stateHandover src => Sys2Proof.Machine.execStateHandover src s
  | .captureDone => Sys2Proof.Machine.execCaptureDone s
  | .stateEntryDone => Sys2Proof.Machine.execStateEntryDone s
  | .wakeSource src detail => Sys2Proof.Machine.execWakeSource src detail s
  | .vigilTick raw panel ambient => Sys2Proof.Machine.execVigilTick raw panel ambient s
  | .padHoldRelease mask => Sys2Proof.Machine.execPadHoldRelease mask s
  | .nvCmdRead count flips => Sys2Proof.Machine.execNvCmdRead count flips s
  | .nvCmdUpdate count => Sys2Proof.Machine.execNvCmdUpdate count s
  | .nvCmdSlotWrite count => Sys2Proof.Machine.execNvCmdSlotWrite count s
  | .nvCmdPwCheck part kind => Sys2Proof.Machine.execNvCmdPwCheck part kind s
  | .nvCmdPwSet part kind => Sys2Proof.Machine.execNvCmdPwSet part kind s
  | .nvCmdMode part compat => Sys2Proof.Machine.execNvCmdMode part compat s
  | .nvCmdClearPf => Sys2Proof.Machine.execNvCmdClearPf s
  | .nvCmdLock => Sys2Proof.Machine.execNvCmdLock s
  | .nvProgramDone => Sys2Proof.Machine.execNvProgramDone s
  | .nvSpanGap => Sys2Proof.Machine.execNvSpanGap s
  | .nvMacroOff => Sys2Proof.Machine.execNvMacroOff s
  | .nvRefreshTick weak still => Sys2Proof.Machine.execNvRefreshTick weak still s
  | .nvLockoutMinute => Sys2Proof.Machine.execNvLockoutMinute s
  | .powerGood => Sys2Proof.Machine.execPowerGood s
  | .resetNLow => Sys2Proof.Machine.execResetNLow s
  | .bootStart straps => Sys2Proof.Machine.execBootStart straps s
  | .flashReadFail => Sys2Proof.Machine.execFlashReadFail s
  | .bootHoldRetry => Sys2Proof.Machine.execBootHoldRetry s
  | .bootRetry => Sys2Proof.Machine.execBootRetry s
  | .wallWaitExpire => Sys2Proof.Machine.execWallWaitExpire s
  | .lockstepMismatch => Sys2Proof.Machine.execLockstepMismatch s
  | .wdtExpire => Sys2Proof.Machine.execWdtExpire s
  | .wdtKick value => Sys2Proof.Machine.execWdtKick value s
  | .wdtEnable => Sys2Proof.Machine.execWdtEnable s
  | .cpInterrupt => Sys2Proof.Machine.execCpInterrupt s
  | .cpLoad size rd rs1 imm => Sys2Proof.Machine.execCpLoad size rd rs1 imm s
  | .cpStore size rs1 rs2 imm => Sys2Proof.Machine.execCpStore size rs1 rs2 imm s
  | .hostEventSet bits => Sys2Proof.Machine.execHostEventSet bits s
  | .mbComplete mask => Sys2Proof.Machine.execMbComplete mask s
  | .mgmtTransaction addr write read => Sys2Proof.Machine.execMgmtTransaction addr write read s
  | .entdaa addr => Sys2Proof.Machine.execEntdaa addr s
  | .setdasa static addr => Sys2Proof.Machine.execSetdasa static addr s
  | .setnewda cur addr => Sys2Proof.Machine.execSetnewda cur addr s
  | .rstdaa => Sys2Proof.Machine.execRstdaa s
  | .getpid addr => Sys2Proof.Machine.execGetpid addr s
  | .getbcr addr => Sys2Proof.Machine.execGetbcr addr s
  | .getdcr addr => Sys2Proof.Machine.execGetdcr addr s
  | .getstatus addr => Sys2Proof.Machine.execGetstatus addr s
  | .getmwl addr => Sys2Proof.Machine.execGetmwl addr s
  | .getmrl addr => Sys2Proof.Machine.execGetmrl addr s
  | .enec addr events => Sys2Proof.Machine.execEnec addr events s
  | .disec addr events => Sys2Proof.Machine.execDisec addr events s
  | .bootStatus m => Sys2Proof.Machine.execBootStatus m s
  | .deviceInfo m => Sys2Proof.Machine.execDeviceInfo m s
  | .restartCp m => Sys2Proof.Machine.execRestartCp m s
  | .getEvents m => Sys2Proof.Machine.execGetEvents m s
  | .regRead m => Sys2Proof.Machine.execRegRead m s
  | .state m => Sys2Proof.Machine.execState m s
  | .brightness m => Sys2Proof.Machine.execBrightness m s
  | .rediscover m => Sys2Proof.Machine.execRediscover m s
  | .pwCheck m => Sys2Proof.Machine.execPwCheck m s
  | .pwSet m => Sys2Proof.Machine.execPwSet m s
  | .lock m => Sys2Proof.Machine.execLock m s
  | .nvRead m => Sys2Proof.Machine.execNvRead m s
  | .nvWrite m => Sys2Proof.Machine.execNvWrite m s
  | .imgBegin m stage => Sys2Proof.Machine.execImgBegin m stage s
  | .imgData m => Sys2Proof.Machine.execImgData m s
  | .imgEnd m good => Sys2Proof.Machine.execImgEnd m good s
  | .imgActivate m => Sys2Proof.Machine.execImgActivate m s
  | .cpSwapGo slot => Sys2Proof.Machine.execCpSwapGo slot s
  | .xspiRead => Sys2Proof.Machine.execXspiRead s
  | .xspiWrite => Sys2Proof.Machine.execXspiWrite s
  | .xspiDone => Sys2Proof.Machine.execXspiDone s
  | .tapExtest => Sys2Proof.Machine.execTapExtest s
  | .tapIdcode => Sys2Proof.Machine.execTapIdcode s
  | .tapSamplePreload => Sys2Proof.Machine.execTapSamplePreload s
  | .tapExtestPulse => Sys2Proof.Machine.execTapExtestPulse s
  | .tapExtestTrain => Sys2Proof.Machine.execTapExtestTrain s
  | .tapClamp => Sys2Proof.Machine.execTapClamp s
  | .tapHighz => Sys2Proof.Machine.execTapHighz s
  | .tapDtmcs => Sys2Proof.Machine.execTapDtmcs s
  | .tapDmi addr data op => Sys2Proof.Machine.execTapDmi addr data op s
  | .tapFuse cells inRange => Sys2Proof.Machine.execTapFuse cells inRange s
  | .tapBypass => Sys2Proof.Machine.execTapBypass s
  | .debugHalt => Sys2Proof.Machine.execDebugHalt s
  | .debugResume => Sys2Proof.Machine.execDebugResume s
  | .debugStep => Sys2Proof.Machine.execDebugStep s
  | .logPush => Sys2Proof.Machine.execLogPush s
  | .logPop => Sys2Proof.Machine.execLogPop s
  | .logClear => Sys2Proof.Machine.execLogClear s
  | .regWrite offset value => Sys2Proof.Machine.execRegWrite offset value s
  | .cpInstruction => Sys2Proof.Machine.execCpInstruction s
  | .supplyLoss => Sys2Proof.Machine.execSupplyLoss s
  | .signalDetect port => Sys2Proof.Machine.execSignalDetect port s
  | .wallSignalDetect p => Sys2Proof.Machine.execWallSignalDetect p s
  | .alpmSleepEntry port => Sys2Proof.Machine.execAlpmSleepEntry port s
  | .laneLockRegained port lane => Sys2Proof.Machine.execLaneLockRegained port lane s
  | .compTimingLoss => Sys2Proof.Machine.execCompTimingLoss s

end Sys2Proof.Machine
end

