-- ==== Sys2Proof/Machine/Step.lean ====
section
/-! DEFINITION.  A step: the command at the front of the queue, or on an empty queue one cycle of the calendar clock. -/

set_option Elab.async false

namespace Sys2Proof.Machine

/-- A step takes the command at the front and answers what it does to the device with the queue's rest; on an empty queue
the calendar clock ticks (DESIGN CHOICE, log entry 26). -/
def step (s : State) : Host.Outcome State Fault Refusal :=
  match s.pending with
  | c :: rest => exec c { s with pending := rest }
  | [] => .next { s with dev := s.dev.tick }

/-- The command that a word spells goes to the front of the queue. -/
def State.withFetchWord (s : State) (nbits w : Nat) : State :=
  match decodeTableWord nbits w with
  | some c => { s with pending := c :: s.pending }
  | none => s

end Sys2Proof.Machine
end

