-- ==== Sys2Proof/Safety.lean ====
section
/-! DEFINITION.  What the claims about this device are said in: the parts of the device, what a command leaves alone,
a command that answers a next state, an event that is raised, and the invariant of the memories. -/

set_option Elab.async false

namespace Sys2Proof.Machine

/-- The parts of the device beside its register words. -/
inductive Part where
  | free | log | held | pwr | cp | ls | gdma | dram | codec | retiring | scan | col | gate | pseq | sched
  | bl | cal | rx | wall | mbox | mgmt | nv | boot | tap | flash | xspi | ticks
  /-- the bytes alone of the addressed memories that a part above holds: line store, DRAM, parameter store, TCM, DPCD, the
  glens' shared memories, the dales' own memories -/
  | lsMem | dramMem | nvMem | tcm | dpcd | sharedMem | daleMem
  deriving DecidableEq, Repr

/-- Two devices hold the same in a part. -/
def Dev.same (d e : Dev) : Part → Prop
  | .free => d.free = e.free
  | .log => d.log = e.log
  | .held => d.held = e.held
  | .pwr => d.pwr = e.pwr
  | .cp => d.cp = e.cp
  | .ls => d.ls = e.ls
  | .gdma => d.gdma = e.gdma
  | .dram => d.dram = e.dram
  | .codec => d.codec = e.codec
  | .retiring => d.retiring = e.retiring
  | .scan => d.scan = e.scan
  | .col => d.col = e.col
  | .gate => d.gate = e.gate
  | .pseq => d.pseq = e.pseq
  | .sched => d.sched = e.sched
  | .bl => d.bl = e.bl
  | .cal => d.cal = e.cal
  | .rx => d.rx = e.rx
  | .wall => d.wall = e.wall
  | .mbox => d.mbox = e.mbox
  | .mgmt => d.mgmt = e.mgmt
  | .nv => d.nv = e.nv
  | .boot => d.boot = e.boot
  | .tap => d.tap = e.tap
  | .flash => d.flash = e.flash
  | .xspi => d.xspi = e.xspi
  | .ticks => d.ticks = e.ticks
  | .lsMem => d.ls.mem = e.ls.mem
  | .dramMem => d.dram.mem = e.dram.mem
  | .nvMem => d.nv.mem = e.nv.mem
  | .tcm => d.cp.tcm = e.cp.tcm
  | .dpcd => d.rx.a.dpcd = e.rx.a.dpcd ∧ d.rx.b.dpcd = e.rx.b.dpcd
  | .sharedMem => d.sched.shared = e.sched.shared
  | .daleMem => ∀ k, (d.dale k).imem = (e.dale k).imem ∧ (d.dale k).dmem = (e.dale k).dmem

/-- What a register word is made of: the plain word, the shadow and the active value listed at its address. -/
def Dev.wordsAt (d : Dev) (a : Nat) : Option Word × Option Word × Option Word :=
  (RegFile.find d.regs a, RegFile.find d.shadow a, RegFile.find d.active a)

/-- The bus addresses of one register word. -/
def wordOf (r : Reg) (i : Nat := 0) : Nat × Nat := (r.at i, r.at i + 4)

/-- The bus addresses of a register array. -/
def arrayOf (r : Reg) : Nat × Nat := (r.at r.first, r.at (r.first + r.count - 1) + 4)

/-- The bus addresses of block `k` of Table 17.2, 64 KiB each from 0x4000_0000 on. -/
def blockOf (k : Nat) : Nat × Nat := (0x40000000 + 0x10000 * k, 0x40000000 + 0x10000 * (k + 1))

/-- An address lies outside every range of a list. -/
def outside (a : Nat) (rs : List (Nat × Nat)) : Prop := ∀ r ∈ rs, a < r.1 ∨ r.2 ≤ a

/-- The frame of a change from `d` to `e`: every part but those listed is the same, and so is every register word outside
the address ranges listed.  A part that holds a memory may change while the memory's bytes, a part of their own, do not. -/
def Keeps (d e : Dev) (ps : List Part) (rs : List (Nat × Nat)) : Prop :=
  (∀ p, p ∉ ps → d.same e p) ∧ ∀ a, outside a rs → e.wordsAt a = d.wordsAt a

/-- A command answers a next state, which leaves the queue alone and has a property. -/
def Completes (c : Instr) (s : State) (P : Dev → Prop) : Prop :=
  ∃ t, exec c s = .next t ∧ t.pending = s.pending ∧ P t.dev

/-- The EVENT bit of an event is set (R440). -/
def Dev.raised (d : Dev) (e : Event) (detail : Nat := 0) : Bool :=
  bit (d.rd e.reg) (e.lo + if e.wide then detail else 0)

/-- The words that an event may change: its EVENT register and LOG_STATUS. -/
def eventWords (e : Event) : List (Nat × Nat) := [wordOf e.reg, wordOf R.LOG_STATUS]

/-- A command raises an event and does nothing else. -/
def OnlyRaises (c : Instr) (s : State) (ev : Event) (detail : Nat := 0) : Prop :=
  Completes c s fun e => e.raised ev detail = true ∧ Keeps s.dev e [.log] (eventWords ev)

/-- What the rejection of a window leaves (R256, Table 10.3): the instance and the reason in CAL_REJ_STATUS, one more
consecutive rejection unless the window only lacked samples, and the events. -/
def Dev.rejected (d e : Dev) (c inst reason : Nat) : Prop :=
  e.get F.CAL_REJ_STATUS_CALIB = c ∧ e.get F.CAL_REJ_STATUS_INSTANCE = inst ∧ e.get F.CAL_REJ_STATUS_REASON = reason ∧
  e.consecOf c inst = (if reason = 1 then d.consecOf c inst else min 255 (d.consecOf c inst + 1)) ∧
  e.raised Ev.CAL_REJECT = true ∧ (reason ≠ 1 → d.consecOf c inst = 15 → e.raised Ev.CAL_FAULT = true)

/-- What the acceptance of a window leaves (R256): no consecutive rejection, and one more acceptance, modulo 65,536. -/
def Dev.accepted (d e : Dev) (c inst : Nat) : Prop :=
  e.consecOf c inst = 0 ∧ e.get F.CAL_STATUS_ACCEPTS c = (d.get F.CAL_STATUS_ACCEPTS c + 1) % 65536

/-- The registers in which a calibration reports. -/
def calWords : List (Nat × Nat) :=
  [wordOf R.CAL_REJ_STATUS, arrayOf R.CAL_STATUS, wordOf R.CAL_EVENT, wordOf R.LOG_STATUS]

/-- The domain and the address of the register whose write a command is (R346), for the commands that act at a register
outside AO. -/
def writeAt : Instr → Option (Nat × Nat)
  | .zbEnum => some (domBL, R.ZB_CTRL.at 0)
  | .boostOcClear b => some (domBL, R.BOOST_FAULT.at b)
  | .blRestart => some (domBL, R.BL_CTRL.at 0)
  | .blPolicy _ => some (domBL, R.BL_BUDGET.at 0)
  | .sinkFaultClear k _ => some (domBL, R.SINK_STATUS.at k)
  | .sgCommit _ => some (domBL, R.SG_COMMIT.at 0)
  | .codecQTail q _ => some (domCODEC, R.CODEC_Q_TAIL.at q)
  | .ctxReset _ => some (domCODEC, R.CODEC_CTRL.at 0)
  | .gdmaQTail c _ => some (domLS, R.GDMA_Q_TAIL.at c)
  | .eqxCmdPrepare _ _ _ => some (domWALL, R.EQX_CMD.at 0)
  | .eqxAck _ _ => some (domWALL, R.EQX_ACK.at 0)
  | .noticeTx _ => some (domWALL, R.NOTICE_TX.at 0)
  | .wallRemove _ => some (domWALL, R.WALL_REMOVE.at 0)
  | .commit => some (domCOMP, R.FSEQ_COMMIT.at 0)
  | _ => none

/-- An instruction of dale `k` is complete with result `v` for `rd`, `cyc` cycles later: x0 stays 0, the other registers and
the other dales are unchanged, and a job's type is charged the cycles. -/
def Dev.daleResult (d e : Dev) (k rd : Nat) (v : Word) (cyc : Nat) : Prop :=
  (∀ i < 32, e.daleReg k i = if i = rd ∧ rd ≠ 0 then v else d.daleReg k i) ∧ (e.dale k).hart.pc = (d.dale k).hart.pc + 4 ∧
  (e.dale k).hart.csrWord 0xB02 = (d.dale k).hart.csrWord 0xB02 + 1 ∧
  (e.dale k).hart.csrWord 0xB00 = (d.dale k).hart.csrWord 0xB00 + BitVec.ofNat 32 cyc ∧
  (∀ j ∈ List.range 256, j ≠ k → e.dale j = d.dale j) ∧
  ∀ t ∈ List.range 8, e.get F.JOB_USED_COUNT t =
    if (d.dale k).job.any (fun j => j.type == t) then (d.get F.JOB_USED_COUNT t + cyc) % 2 ^ 32 else d.get F.JOB_USED_COUNT t

/-- No word of the `n` bytes from address `a` of dale `k` on holds an error (R188). -/
def Dev.glenPlain (d : Dev) (k a n : Nat) : Bool := (d.sched.corr ++ d.sched.uncorr).all fun w => !inSpan k a n w

/-- Accesses of any port to the line-store bytes `[a, a + n)` meet nothing but the memory: inside the line store, their
banks on and not about to enter retention, no word in error, no word under background test, no area protected. -/
def Dev.lsPlain (d : Dev) (a n : Nat) : Bool :=
  decide (a + n ≤ 2 ^ 24) && (List.range (n / 16 + 2)).all fun j =>
    let w := a / 16 + j
    decide (a + n ≤ 16 * w) ||
      (d.get F.LS_BANK_STATUS_STATE (lsBankOf w) == 0 && !d.on F.LS_BANK_STATUS_ENTERING (lsBankOf w) &&
        !d.ls.corr.contains w && !d.ls.uncorr.contains w && d.ls.region != some (w / 16) && (d.lsProtected (16 * w) 16).isNone)

/-- Accesses to the DRAM bytes `[a, a + n)` meet nothing but the memory: no block of them is outside memory or in a failed
channel, in a lost segment, or in error. -/
def Dev.dramPlain (d : Dev) (a n : Nat) : Bool :=
  (List.range (n / 32 + 2)).all fun j =>
    let b := 32 * (a / 32 + j)
    decide (a + n ≤ b) || (!d.dramBus b && !d.dramLost b && !d.dram.corr.contains (b / 32) && !d.dram.uncorr.contains (b / 32))

/-- The request of mailbox `m` is answered (R64, R423, R425): the response fields, DONE for BUSY, the host told; no other
byte of a mailbox changes. -/
def Dev.answered (d e : Dev) (m result : Nat) (data : List Byte) : Prop :=
  e.mbGet m mbResult 4 = result ∧ e.mbGet m mbRspLen 2 = data.length ∧ Memory.read e.mbox (256 * m + mbRspData) data.length = data ∧
  e.mbGet m mbRspSeq 1 = d.mbGet m mbReqSeq 1 ∧ e.mbBit m 1 = true ∧ e.mbBit m 0 = false ∧ e.mbBit m 2 = d.mbBit m 2 ∧
  (∀ o, o < 256 * m + 0x80 ∨ 256 * m + 0xF0 ≤ o → Memory.get e.mbox o = Memory.get d.mbox o) ∧
  (m = 0 → bit e.rx.a.irqVec 6 = true) ∧ (m = 1 → bit e.rx.b.irqVec 6 = true) ∧ (m = 2 → bit (e.rd R.HOST_EVENT) 0 = true)

/-- Nothing but an answer: beside the mailbox, an interrupt reason of a port, HOST_EVENT and its in-band interrupt. -/
def Dev.onlyAnswered (d e : Dev) (m result : Nat) (data : List Byte := []) : Prop :=
  d.answered e m result data ∧ e.mgmt = { d.mgmt with ibi := e.mgmt.ibi } ∧ Keeps d e [.rx, .mbox, .mgmt] [wordOf R.HOST_EVENT]

/-- The firmware serves a request with this opcode: it is open, the boot is complete, the control processor runs, and no
job of the parameter store for the mailbox is under way. -/
def Dev.serves (d : Dev) (m op : Nat) : Bool :=
  d.mbOpen m op && d.bootDone && d.cpRuns && !d.mgmt.nvJob.any fun j => j.1 == m

/-- It serves one whose argument and data are those that the opcode has. -/
def Dev.servesReq (d : Dev) (m op : Nat) : Bool := d.serves m op && d.mbShape m op

/-- How the boot ROM chooses a slot (R391, R395, R396), for the level of the straps and the slots that have failed: boot
hold for a reserved boot source or when no slot is left with a good header; else the good slot whose sequence number is
ahead, slot A with the TIE flag when they are equal, from whose header the clock and the DRAM rate are taken. -/
def Dev.picks (d e : Dev) (straps : Nat) (failed : List Nat) : Prop :=
  let room := nth [32, 64, 128, 256] (bits straps 4 3) * 0x100000
  let img := fun (k : Nat) => (⟨d.flash, if k = 0 then 0 else room⟩ : ImgAt)
  let usable := fun (k : Nat) => !failed.contains k && ((img k).headerBad (bits straps 2 1 == 1) (if k = 0 then room else 2 ^ 28)).isNone
  let takes := fun (k : Nat) => e.get F.BOOT_STATUS_STEP = 2 ∧ e.boot.cand = k ∧ e.get F.PIPE_CLK_FREQ = (img k).num 0x14 4 % 2 ^ 20 ∧
    e.get F.DRAM_CTRL_RATE = (img k).num 0x18 1 % 8 ∧ ∀ ch ∈ List.range 8, e.chState ch = 1
  if bits straps 2 1 = 2 ∨ (usable 0 = false ∧ usable 1 = false) then e.get F.BOOT_STATUS_STEP = 15
  else if usable 1 = false then takes 0
  else if usable 0 = false then takes 1
  else if (img 0).seq = (img 1).seq then takes 0 ∧ e.on F.BOOT_STATUS_TIE = true
  else takes (if aheadN (img 1).seq (img 0).seq then 1 else 0)

/-- Every addressed memory of the device is in canonical form: the line store, DRAM, the parameter store, the flash, the
mailboxes, the control processor's TCM, the DPCD of both ports, the shared memories of the glens and each dale's own. -/
def Dev.memsWf (d : Dev) : Bool :=
  d.ls.mem.wf && d.dram.mem.wf && d.nv.mem.wf && Memory.wf d.flash && Memory.wf d.mbox && d.cp.tcm.wf &&
    d.rx.a.dpcd.wf && d.rx.b.dpcd.wf && d.sched.shared.wf && d.sched.dales.all fun p => p.2.imem.wf && p.2.dmem.wf

/-- The invariant of the device's memories. -/
def State.memsWf (s : State) : Bool := s.dev.memsWf

end Sys2Proof.Machine

namespace Sys2Proof

/-- A field that a register can hold: in place, 32 bits at most, and wholly inside or wholly outside the RWS bits. -/
def Field.ok (f : Field) : Bool :=
  decide (f.lo ≤ f.hi) && decide (f.hi < 32) && decide (f.reg.rws < 2 ^ 32) &&
    (List.range 32).all fun k => !decide (f.lo ≤ k ∧ k ≤ f.hi) || bit f.reg.rws k == bit f.reg.rws f.lo

end Sys2Proof
end

