-- ==== Sys2Proof/Certificates/Slice0/Obligations.lean ====
section
/-! DEFINITION.  The statements for the provers.  `Completes c s P` says that the command `c` answers a next state whose device
satisfies `P`; `Keeps d e parts regs` is the frame: every part and every register word outside the two lists is unchanged; in the
lists, what the clauses beside it state is what changes. -/

open Sys2Proof Sys2Proof.Machine

/-- A step runs the command at the front of the queue on the device with the queue's rest (R28, R61). For every command and state, a step of
the state with that command in front is the command's meaning on the state with the rest of the queue. (That commands wait in a queue is the
model's own form.) -/
def Obligations.StepRunsTheFront : Prop :=
  ∀ (c : Instr) (rest : List Instr) (s : State), step { s with pending := c :: rest } = exec c { s with pending := rest }

/-- On an empty queue the calendar clock ticks: CAL_SUB, CAL_SEC, MTIME and the watchdog (the model's choice, log entry 26) (R33, R409,
R413). The calendar counts 32,768 cycles to the second, MTIME advances by the microseconds of the cycle, and the watchdog counts while it is
enabled and the debugger does not hold the processor. Nothing else changes. That an empty queue lets one cycle of the calendar clock pass is
the model's choice (log entry 26). -/
def Obligations.IdleTick : Prop :=
  ∀ s : State, s.pending = [] → ∃ t, step s = .next t ∧ t.pending = [] ∧
    let d := s.dev; let e := t.dev
    (d.get F.CAL_SUB_SUB < 32767 → e.get F.CAL_SUB_SUB = d.get F.CAL_SUB_SUB + 1 ∧ e.get F.CAL_SEC_SEC = d.get F.CAL_SEC_SEC) ∧
    (d.get F.CAL_SUB_SUB = 32767 → e.get F.CAL_SUB_SUB = 0 ∧ e.get F.CAL_SEC_SEC = (d.get F.CAL_SEC_SEC + 1) % 2 ^ 32) ∧
    e.rd R.MTIME 0 + e.rd R.MTIME 1 * 2 ^ 32 = (d.rd R.MTIME 0 + d.rd R.MTIME 1 * 2 ^ 32 + mtimeStep (d.get F.CAL_SUB_SUB)) % 2 ^ 64 ∧
    e.ticks = d.ticks + 1 ∧
    e.cp.wdt = (if d.on F.WDT_CTRL_EN && !d.tap.halted then d.cp.wdt + 1 else d.cp.wdt) ∧
    Keeps d e [.ticks, .cp] [arrayOf R.MTIME, wordOf R.CAL_SUB, wordOf R.CAL_SEC]

/-- Every command answers a next state and leaves the queue alone (R61, R346). No command of the table faults or is refused in any state:
what cannot happen in a state changes nothing, and the block goes on. -/
def Obligations.EveryCommandAnswers : Prop :=
  ∀ (c : Instr) (s : State), ∃ t, exec c s = .next t ∧ t.pending = s.pending

/-- The machine after reset: the values that the register tables give, empty queues, memory with nothing listed (R7, R93, R132, R207, R290,
R368, R422, R442, R445). Registers hold the reset values of their tables, event and status bits are 0, the backlight budget and the line
store's banks stand as reset leaves them, no command waits, the log is empty and every addressed memory lists nothing. -/
def Obligations.ResetValues : Prop :=
  let d := State.reset.dev
  State.reset.pending = [] ∧ d.get F.MGMT_CFG_ADDR = 0x3C ∧ d.get F.LADDER_CTRL_TARGET = 4 ∧ d.get F.LADDER_STATUS_DROPS = 0 ∧
  d.get F.WDT_CTRL_TIMEOUT = 1000 ∧ d.on F.WDT_CTRL_EN = false ∧ d.on F.BOOT_CTRL_LOCK = false ∧ d.pwrState = 0 ∧
  d.get F.BL_BUDGET_POLICY = 0xFFFF ∧ d.get F.CAL_CTRL_EN = 0x3F ∧ d.get F.RASTER_V_V_TOTAL = 0 ∧
  (∀ b ∈ [R.SYS_EVENT, R.FSEQ_EVENT, R.SCAN_EVENT, R.SCHED_EVENT, R.CORR_EVENT, R.DRIVE_EVENT, R.COL_EVENT, R.CODEC_EVENT,
    R.LS_EVENT, R.DRAM_EVENT, R.WALL_EVENT, R.BL_EVENT, R.RX_EVENT, R.PWR_EVENT, R.PSEQ_EVENT, R.CAL_EVENT, R.NV_EVENT,
    R.BOOT_EVENT, R.MGMT_EVENT, R.GDMA_EVENT], d.rd b = 0) ∧
  d.log.entries = [] ∧ d.held = {} ∧ d.ls.mem = [] ∧ d.dram.mem = [] ∧ d.nv.mem = [] ∧ d.cp.tcm = [] ∧ d.flash = [] ∧ d.mbox = [] ∧
  d.sched.shared = [] ∧ d.rx.a.dpcd = [] ∧ d.rx.b.dpcd = []

/-- Every addressed memory is in canonical form after reset (R7). The line store, DRAM, the parameter store, the flash, the mailboxes, the
TCM, the DPCD of both ports, the glens' shared memories and the dales' own memories list rising addresses and no byte that an unlisted
address reads as. (The form is the model's own, log entry 1.) -/
def Obligations.ResetMemoriesCanonical : Prop :=
  State.reset.memsWf = true

/-- Every step keeps every addressed memory in canonical form (R7). For every state whose memories are in canonical form, whatever a step
does, they are in canonical form after it. The form (rising addresses, no entry equal to what an unlisted address reads as) is the model's
own, log entry 1; that every write of every command keeps it is what makes equal memories equal data. -/
def Obligations.StepKeepsMemories : Prop :=
  ∀ s t : State, s.memsWf = true → step s = .next t → t.memsWf = true

/-- REG_WRITE: each bit of a register acts by its access code, shadows wait for a commit, unmapped offsets and sleeping domains (R6, R7, R8,
R9, R398, R415, R416). In the blocks whose registers do nothing more on a write (correction, drive pipeline, DisplayPort input): RW bits,
and RWL bits before the boot lock, take the written value; W1C bits written as 1 clear; RWS bits reach the shadow, and before the boot lock
the value in force as well; every other bit keeps its value. Nothing else changes. -/
def Obligations.RegisterWrites : Prop :=
  ∀ (s : State) (offset : BitVec 21) (value : Word) (r : Reg) (i : Nat),
    findReg (0x40000000 + offset.toNat) = some (r, i) → (r.addr - 0x40000000) / 0x10000 ∈ [4, 5, 12] →
    s.dev.domOn (r.domain i) = true → s.dev.behind .cp (r.domain i) = false →
    Completes (.regWrite offset value) s fun e =>
      let d := s.dev; let v := value.toNat
      let open_ := fun (k : Nat) => bit r.rw k || (bit r.rwl k && !d.on F.BOOT_CTRL_LOCK)
      (∀ k < 32, bit r.rws k = false → bit (e.plainWord r i) k =
        (if bit r.w1c k && bit v k then false else if open_ k then bit v k else bit (d.plainWord r i) k)) ∧
      (∀ k < 32, bit r.rws k = true → bit (rwsWord e.shadow r i) k = bit v k ∧
        bit (rwsWord e.active r i) k = (if d.on F.BOOT_CTRL_LOCK then bit (rwsWord d.active r i) k else bit v k)) ∧
      Keeps d e [] [wordOf r i]

/-- A store with an error response raises no exception and is recorded; one to a sleeping domain wakes it and is no error (R418). The first
store that receives an error response leaves its address in CP_BUS_ERR and raises BUS_ERR; while BUS_ERR is set, a further one counts and
leaves the address; a store to a register whose domain is in RET is kept and wakes the domain, with no error; one whose domain holds an
older access of the processor waits behind it. No exception is taken in any of them. -/
def Obligations.UnmappedStores : Prop :=
  ∀ (s : State) (offset : BitVec 21) (value : Word), let d := s.dev; let a := 0x40000000 + offset.toNat
    (regDomain a = none → d.on F.SYS_EVENT_BUS_ERR = false → Completes (.regWrite offset value) s fun e =>
      e.get F.CP_BUS_ERR_ADDR = a ∧ e.raised Ev.BUS_ERR = true ∧ e.cp.hart = d.cp.hart ∧
      Keeps d e [.log] (wordOf R.CP_BUS_ERR :: wordOf R.CP_BUS_ERR_COUNT :: eventWords Ev.BUS_ERR)) ∧
    (regDomain a = none → d.on F.SYS_EVENT_BUS_ERR = true → Completes (.regWrite offset value) s fun e =>
      e.get F.CP_BUS_ERR_COUNT_COUNT = (d.get F.CP_BUS_ERR_COUNT_COUNT + 1) % 2 ^ 32 ∧
      e.get F.CP_BUS_ERR_ADDR = d.get F.CP_BUS_ERR_ADDR ∧ e.on F.SYS_EVENT_BUS_ERR = true ∧ e.cp.hart = d.cp.hart ∧
      Keeps d e [.log] (wordOf R.CP_BUS_ERR_COUNT :: eventWords Ev.BUS_ERR)) ∧
    (∀ k, regDomain a = some k → k ≠ 0 → k < 80 → d.domState k = 1 → Completes (.regWrite offset value) s fun e =>
      e.domState k = 3 ∧ e.pwr.stalled = d.pwr.stalled ++ [⟨.cp, true, a, 4, value.toNat⟩] ∧
      e.on F.SYS_EVENT_BUS_ERR = d.on F.SYS_EVENT_BUS_ERR ∧ e.cp.hart = d.cp.hart ∧ Keeps d e [.pwr] [wordOf R.DOM_STATUS k]) ∧
    (∀ k, regDomain a = some k → d.domState k = 0 → d.behind .cp k = true → Completes (.regWrite offset value) s fun e =>
      e.pwr = { d.pwr with stalled := d.pwr.stalled ++ [⟨.cp, true, a, 4, value.toNat⟩] } ∧ Keeps d e [.pwr] [])

/-- A command at a register of a sleeping domain is kept, and the domain wakes (R346, R347). A register write whose domain is not ON, or
that an older store to its address waits in front of, is kept as a posted store at the register's own address and has no other effect yet; a
domain in RET starts to wake and counts it, one that is powering down is remembered and wakes after it. -/
def Obligations.StalledWrites : Prop :=
  ∀ (s : State) (c : Instr) (k a : Nat), writeAt c = some (k, a) → s.dev.reaches k a = false →
    Completes c s fun e => let d := s.dev
      (∃ w, e.pwr.stalled = d.pwr.stalled ++ [⟨.cp, true, a, 4, w⟩]) ∧ regDomain a = some k ∧
      (d.domState k = 1 → e.domState k = 3 ∧ e.get F.DOM_STATUS_WAKES k = (d.get F.DOM_STATUS_WAKES k + 1) % 2 ^ 16) ∧
      (d.domState k = 2 → k ∈ e.pwr.wakeAfter ∧ e.domState k = 2) ∧ (d.domState k = 0 → e.domState k = 0) ∧
      Keeps d e [.pwr] [wordOf R.DOM_STATUS k]

/-- The event log: a push appends or is counted as dropped, a pop removes the oldest, CLEAR (R442, R443, R445). LOG_PUSH appends the entry
of LOG_WRITE with ORIGIN 1 while the buffer holds fewer than 16, and otherwise counts it as dropped; LOG_POP removes the oldest entry;
LOG_CLEAR zeroes DROPPED. Before boot start, or while the buffer is frozen, a push changes nothing. -/
def Obligations.EventLog : Prop :=
  ∀ s : State, let d := s.dev
    (d.log.frozen = false → d.log.started = true → d.log.entries.length < 16 → Completes .logPush s fun e =>
      (∃ x ∈ e.log.entries, e.log.entries = d.log.entries ++ [x] ∧ x.origin = 1 ∧ x.lseq = 0 ∧ x.time = d.get F.LOG_WRITE_BYTES 0 ∧
        x.code = d.get F.LOG_WRITE_BYTES 2 / 2 ^ 16 ∧ x.frame = d.get F.LOG_WRITE_BYTES 2 % 2 ^ 16 ∧
            x.detail = d.get F.LOG_WRITE_BYTES 3 % 2 ^ 16) ∧
      e.get F.LOG_STATUS_COUNT = d.log.entries.length + 1 ∧ Keeps d e [.log] [wordOf R.LOG_STATUS]) ∧
    (d.log.frozen = false → d.log.started = true → 16 ≤ d.log.entries.length → Completes .logPush s fun e =>
      e.log = d.log ∧ e.get F.LOG_STATUS_DROPPED = min (d.get F.LOG_STATUS_DROPPED + 1) 65535 ∧ Keeps d e [] [wordOf R.LOG_STATUS]) ∧
    (d.log.frozen = true ∨ d.log.started = false → exec .logPush s = .next s) ∧
    (d.log.entries.length ≤ 16 → Completes .logPop s fun e =>
      e.log.entries = d.log.entries.drop 1 ∧ e.get F.LOG_STATUS_COUNT = d.log.entries.length - 1 ∧
      e.get F.LOG_STATUS_DROPPED = d.get F.LOG_STATUS_DROPPED ∧ Keeps d e [.log] [wordOf R.LOG_STATUS]) ∧
    (Completes .logClear s fun e => e.get F.LOG_STATUS_DROPPED = 0 ∧ e.get F.LOG_STATUS_COUNT = d.get F.LOG_STATUS_COUNT ∧
      Keeps d e [] [wordOf R.LOG_STATUS])

/-- The backlight's enable, its shutdowns, its restart and the policy budget (R229, R233, R234, R235, R236, R261). BL_ENABLE with EN 0 sets
EN, clears SHUT_CAUSE and starts soft start on every enabled boost that is not latched, whose target is at most VSTART from then on (which
value is free, log entry 84); with EN 1 it changes nothing. BL_OFF clears EN with SHUT_CAUSE 3. BL_SHUTDOWN does it with 1 or 2 and the
event BL_OT, while EN is 1 and the higher of the raw and the corrected reading of TS[8] reaches TJ_MAX, or the dissipation has exceeded its
limit in two periods running; else it changes nothing. Every direct string goes dark and every boost stops. BL_RESTART after a shutdown
enables again once the die is 15 °C below TJ_MAX, and changes nothing before that. BL_POLICY writes POLICY. Each keeps the rest of the
device. -/
def Obligations.BacklightSwitches : Prop :=
  ∀ s : State,
    (s.dev.on F.BL_CTRL_EN = false → Completes .blEnable s fun d =>
      d.get F.BL_CTRL_EN = 1 ∧ d.get F.BL_STATUS_SHUT_CAUSE = 0 ∧
      (∀ b : Fin 16, (d.boost b).phase = (if s.dev.boostUsable b then 1 else (s.dev.boost b).phase) ∧
        (if s.dev.boostUsable b then d.get F.BOOST_STATUS_TARGET b ≤ s.dev.get F.BOOST_CFG_VSTART b * 25
          else d.get F.BOOST_STATUS_TARGET b = s.dev.get F.BOOST_STATUS_TARGET b)) ∧
      Keeps s.dev d [.bl, .free] [wordOf R.BL_CTRL, wordOf R.BL_STATUS, arrayOf R.BOOST_STATUS]) ∧
    (s.dev.on F.BL_CTRL_EN = true → exec .blEnable s = .next s) ∧
    (Completes .blOff s fun d =>
      d.get F.BL_CTRL_EN = 0 ∧ d.get F.BL_STATUS_SHUT_CAUSE = 3 ∧
      (∀ k, (d.sink k).segs = []) ∧ (∀ k, (d.boost k).phase = 0) ∧
      Keeps s.dev d [.bl, .cal] [wordOf R.BL_CTRL, wordOf R.BL_STATUS]) ∧
    (∀ why : ShutWhy,
      let due := s.dev.on F.BL_CTRL_EN = true ∧ (match why with
        | .temperature raw => decide (16 * (s.dev.get F.BL_LIMIT_TJ_MAX : Int) ≤ raw.toInt ∨
            16 * (s.dev.get F.BL_LIMIT_TJ_MAX : Int) ≤ raw.toInt + s.dev.getS F.TS_CAL_OFS 8)
        | .dissipation => decide (2 ≤ s.dev.bl.dieOver)) = true
      (due → Completes (.blShutdown why) s fun d =>
        d.get F.BL_CTRL_EN = 0 ∧ d.get F.BL_STATUS_SHUT_CAUSE = (match why with | .temperature _ => 1 | .dissipation => 2) ∧
        d.raised Ev.BL_OT = true ∧ (∀ k, (d.sink k).segs = []) ∧ (∀ k, (d.boost k).phase = 0) ∧
        Keeps s.dev d [.bl, .cal, .log] ([wordOf R.BL_CTRL, wordOf R.BL_STATUS] ++ eventWords Ev.BL_OT)) ∧
      (¬ due → exec (.blShutdown why) s = .next s)) ∧
    (s.dev.reaches domBL (R.BL_CTRL.at 0) = true → s.dev.get F.BL_STATUS_SHUT_CAUSE ≠ 0 → s.dev.on F.BL_CTRL_EN = false →
      s.dev.getS F.BL_DIE_TEMP + 15 ≤ (s.dev.get F.BL_LIMIT_TJ_MAX : Int) → Completes .blRestart s fun d =>
        d.get F.BL_CTRL_EN = 1 ∧ d.get F.BL_STATUS_SHUT_CAUSE = 0 ∧
        Keeps s.dev d [.bl, .free] [wordOf R.BL_CTRL, wordOf R.BL_STATUS, arrayOf R.BOOST_STATUS]) ∧
    (s.dev.reaches domBL (R.BL_CTRL.at 0) = true →
      s.dev.get F.BL_STATUS_SHUT_CAUSE = 0 ∨ (s.dev.get F.BL_LIMIT_TJ_MAX : Int) < s.dev.getS F.BL_DIE_TEMP + 15 →
      exec .blRestart s = .next s) ∧
    (∀ policy : BitVec 16, s.dev.reaches domBL (R.BL_BUDGET.at 0) = true → Completes (.blPolicy policy) s fun d =>
      d.get F.BL_BUDGET_POLICY = policy.toNat ∧ Keeps s.dev d [] [wordOf R.BL_BUDGET])

/-- Overvoltage, overcurrent and undervoltage of a boost, their clearing, and the end of soft start (R229, R232, R233). BOOST_OV counts one
overvoltage period, stops switching for the rest of it and raises its event; a third consecutive one latches the boost off. BOOST_OC, and
BOOST_UV_TIMEOUT of a tracking boost, latch it off: OC and LATCHED set, the boost stops, its direct strings go dark, the ICs on it lose
OUT_EN, BOOST_OC is raised. A write of 1 to OC clears both bits and, while the backlight is enabled, restarts a latched boost that is in use
through soft start, its target at most VSTART from then on (which value is free, log entry 84). SOFT_START_DONE starts tracking at VSTART.
Repeats change nothing. -/
def Obligations.BoostFaults : Prop :=
  ∀ (s : State) (b : Fin 16),
    ((s.dev.boost b).ovNow = false → (s.dev.boost b).ovRun < 2 ∨ s.dev.on F.BOOST_FAULT_LATCHED b = true → Completes (.boostOv b) s fun d =>
      d.get F.BOOST_FAULT_OV b = 1 ∧ d.raised Ev.BOOST_OV b = true ∧
      d.boost b = { s.dev.boost b with ovStop := true, ovNow := true, ovRun := (s.dev.boost b).ovRun + 1 } ∧
      Keeps s.dev d [.bl, .log] (wordOf R.BOOST_FAULT b :: eventWords Ev.BOOST_OV)) ∧
    ((s.dev.boost b).ovNow = false → 2 ≤ (s.dev.boost b).ovRun → s.dev.on F.BOOST_FAULT_LATCHED b = false →
      Completes (.boostOv b) s fun d =>
        d.get F.BOOST_FAULT_OV b = 1 ∧ d.get F.BOOST_FAULT_LATCHED b = 1 ∧ (d.boost b).phase = 0 ∧
        d.raised Ev.BOOST_OV b = true ∧ d.raised Ev.BOOST_OC b = true ∧
        Keeps s.dev d [.bl, .cal, .log] (wordOf R.BOOST_FAULT b :: eventWords Ev.BOOST_OV)) ∧
    ((s.dev.boost b).ovNow = true → exec (.boostOv b) s = .next s) ∧
    (s.dev.on F.BOOST_FAULT_LATCHED b = false → Completes (.boostOc b) s fun d =>
      d.get F.BOOST_FAULT_OC b = 1 ∧ d.get F.BOOST_FAULT_LATCHED b = 1 ∧ (d.boost b).phase = 0 ∧ d.raised Ev.BOOST_OC b = true ∧
      (∀ k : Fin 128, s.dev.on F.SINK_CFG_EN k = true → s.dev.get F.SINK_CFG_BOOST k = b → (d.sink k).segs = []) ∧
      (∀ i ∈ s.dev.foundIcs, s.dev.get F.ZB_MAP_BOOST i = b → (d.ic i).outEn = false) ∧
      Keeps s.dev d [.bl, .cal, .log] (wordOf R.BOOST_FAULT b :: eventWords Ev.BOOST_OC)) ∧
    (s.dev.on F.BOOST_FAULT_LATCHED b = true → exec (.boostOc b) s = .next s ∧ exec (.boostUvTimeout b) s = .next s) ∧
    ((s.dev.boost b).phase = 2 → s.dev.on F.BOOST_FAULT_LATCHED b = false → Completes (.boostUvTimeout b) s fun d =>
      d.get F.BOOST_FAULT_LATCHED b = 1 ∧ (d.boost b).phase = 0 ∧ d.raised Ev.BOOST_OC b = true ∧
      Keeps s.dev d [.bl, .cal, .log] (wordOf R.BOOST_FAULT b :: eventWords Ev.BOOST_OC)) ∧
    ((s.dev.boost b).phase ≠ 2 → exec (.boostUvTimeout b) s = .next s) ∧
    (s.dev.reaches domBL (R.BOOST_FAULT.at b) = true → s.dev.on F.BOOST_FAULT_LATCHED b = true → s.dev.on F.BL_CTRL_EN = true →
        s.dev.on F.BOOST_CFG_EN b = true →
      Completes (.boostOcClear b) s fun d =>
        d.get F.BOOST_FAULT_OC b = 0 ∧ d.get F.BOOST_FAULT_LATCHED b = 0 ∧ (d.boost b).phase = 1 ∧
        d.get F.BOOST_STATUS_TARGET b ≤ s.dev.get F.BOOST_CFG_VSTART b * 25 ∧
        Keeps s.dev d [.bl, .free] [wordOf R.BOOST_FAULT b, wordOf R.BOOST_STATUS b]) ∧
    (s.dev.reaches domBL (R.BOOST_FAULT.at b) = true → s.dev.on F.BOOST_FAULT_LATCHED b = true →
      s.dev.on F.BL_CTRL_EN = false ∨ s.dev.on F.BOOST_CFG_EN b = false → Completes (.boostOcClear b) s fun d =>
        d.get F.BOOST_FAULT_OC b = 0 ∧ d.get F.BOOST_FAULT_LATCHED b = 0 ∧ (d.boost b).phase = (s.dev.boost b).phase ∧
        Keeps s.dev d [.bl] [wordOf R.BOOST_FAULT b]) ∧
    (s.dev.reaches domBL (R.BOOST_FAULT.at b) = true → s.dev.on F.BOOST_FAULT_LATCHED b = false → Completes (.boostOcClear b) s fun d =>
      d.get F.BOOST_FAULT_OC b = 0 ∧ d.get F.BOOST_FAULT_LATCHED b = 0 ∧ (d.boost b).phase = (s.dev.boost b).phase ∧
      Keeps s.dev d [] [wordOf R.BOOST_FAULT b]) ∧
    ((s.dev.boost b).phase = 1 → Completes (.softStartDone b) s fun d =>
      (d.boost b).phase = 2 ∧ d.get F.BOOST_STATUS_TARGET b = s.dev.get F.BOOST_CFG_VSTART b * 25 ∧
      Keeps s.dev d [.bl] [wordOf R.BOOST_STATUS b]) ∧
    ((s.dev.boost b).phase ≠ 1 → exec (.softStartDone b) s = .next s)

/-- Samples, diagnostic pulses, pin tests and fault clears of direct strings (R230, R237, R239, R241). A sample of a string that is lit, or
that a fault turned OFF in this period, gives NEED = V_OUT − V_PIN + 0.25 V and clears DIAG_STALE; a second period with V_PIN below 0.10 V
opens the string where its boost has V_OUT near the target: OPEN and OFF set, OPEN raised. A diagnostic pulse falls due after 64 periods
without a long segment. A pin test of two neighbours, neither OFF before this period nor on a latched boost, marks both stale, clears both,
or after a second positive result switches both off as a short; of any other pair it does nothing. A write of 1 clears OPEN, LED_SHORT or
PIN_SHORT, and the string may light again when neither OPEN nor PIN_SHORT is left. -/
def Obligations.StringSamples : Prop :=
  ∀ s : State,
    (∀ (k : Fin 128) (vOut vPin : Nat), s.dev.stringOn k = true ∨ (s.dev.sink k).offNow = true →
      10 ≤ vPin ∨ vOut + 50 < s.dev.get F.BOOST_STATUS_TARGET (s.dev.get F.SINK_CFG_BOOST k) ∨ (s.dev.sink k).lowPrev = false ∨
        s.dev.boostUsable (s.dev.get F.SINK_CFG_BOOST k) = false →
      Completes (.needSample k vOut vPin) s fun d =>
        d.get F.SINK_STATUS_NEED k = min 65535 (vOut - vPin + 25) ∧ d.get F.SINK_STATUS_DIAG_STALE k = 0 ∧
        (d.sink k).ever = true ∧ (d.sink k).sampled = true ∧ (d.sink k).dropout = decide (vPin < 10) ∧
        (d.sink k).low = decide (vPin < 10) ∧ Keeps s.dev d [.bl] [wordOf R.SINK_STATUS k]) ∧
    (∀ (k : Fin 128) (vOut vPin : Nat), s.dev.stringOn k = true ∨ (s.dev.sink k).offNow = true → vPin < 10 →
      s.dev.get F.BOOST_STATUS_TARGET (s.dev.get F.SINK_CFG_BOOST k) ≤ vOut + 50 → (s.dev.sink k).lowPrev = true →
      s.dev.boostUsable (s.dev.get F.SINK_CFG_BOOST k) = true → Completes (.needSample k vOut vPin) s fun d =>
        d.get F.SINK_STATUS_OPEN k = 1 ∧ d.get F.SINK_STATUS_OFF k = 1 ∧ d.raised Ev.OPEN k = true ∧ (d.sink k).segs = [] ∧
        Keeps s.dev d [.bl, .cal, .log] (wordOf R.SINK_STATUS k :: eventWords Ev.OPEN)) ∧
    (∀ (k : Fin 128) (vOut vPin : Nat), s.dev.stringOn k = false → (s.dev.sink k).offNow = false →
      exec (.needSample k vOut vPin) s = .next s) ∧
    (∀ k : Fin 128, s.dev.on F.BL_CTRL_DIAG_EN = true → 64 ≤ (s.dev.sink k).noLong → s.dev.stringOn k = true →
      Completes (.diagPulse k) s fun d => d.sink k = { s.dev.sink k with pulse := true } ∧ Keeps s.dev d [.bl] []) ∧
    (∀ k : Fin 128, s.dev.on F.BL_CTRL_DIAG_EN = false ∨ (s.dev.sink k).noLong < 64 ∨ s.dev.stringOn k = false →
      exec (.diagPulse k) s = .next s) ∧
    (∀ a b : Fin 128, (b.val = a + 1 ∧ a.val % 32 ≠ 31 ∨ b.val = a + 32) → s.dev.on F.BL_CTRL_PIN_TEST_EN = true →
      (∀ k, k = a ∨ k = b → (s.dev.on F.SINK_STATUS_OFF k = false ∨ (s.dev.sink k).offNow = true) ∧
        s.dev.on F.BOOST_FAULT_LATCHED (s.dev.get F.SINK_CFG_BOOST k) = false) →
      (Completes (.pinTest a b .stale) s fun d =>
        d.get F.SINK_STATUS_PIN_STALE a = 1 ∧ d.get F.SINK_STATUS_PIN_STALE b = 1 ∧
        Keeps s.dev d [] [wordOf R.SINK_STATUS a, wordOf R.SINK_STATUS b]) ∧
      (Completes (.pinTest a b .clear) s fun d =>
        d.get F.SINK_STATUS_PIN_STALE a = 0 ∧ d.get F.SINK_STATUS_PIN_STALE b = 0 ∧ (a.val, b.val) ∉ d.bl.pinOnce ∧
            (d.sink b).tests = (s.dev.sink b).tests + 1 ∧
        Keeps s.dev d [.bl] [wordOf R.SINK_STATUS a, wordOf R.SINK_STATUS b]) ∧
      ((a.val, b.val) ∉ s.dev.bl.pinOnce → Completes (.pinTest a b .positive) s fun d =>
        (a.val, b.val) ∈ d.bl.pinOnce ∧ (d.sink b).tests = (s.dev.sink b).tests + 1 ∧ Keeps s.dev d [.bl] []) ∧
      ((a.val, b.val) ∈ s.dev.bl.pinOnce → Completes (.pinTest a b .positive) s fun d =>
        d.get F.SINK_STATUS_PIN_SHORT a = 1 ∧ d.get F.SINK_STATUS_OFF a = 1 ∧ d.get F.SINK_STATUS_PIN_SHORT b = 1 ∧
        d.get F.SINK_STATUS_OFF b = 1 ∧ d.raised Ev.PIN_SHORT b = true ∧
        Keeps s.dev d [.bl, .cal, .log] ([wordOf R.SINK_STATUS a, wordOf R.SINK_STATUS b] ++ eventWords Ev.PIN_SHORT))) ∧
    (∀ (a b : Fin 128) (r : PinTest), ¬ (b.val = a + 1 ∧ a.val % 32 ≠ 31 ∨ b.val = a + 32) ∨ s.dev.on F.BL_CTRL_PIN_TEST_EN = false ∨
      (∃ k ∈ [a, b], s.dev.on F.SINK_STATUS_OFF k = true ∧ (s.dev.sink k).offNow = false ∨
        s.dev.on F.BOOST_FAULT_LATCHED (s.dev.get F.SINK_CFG_BOOST k) = true) → exec (.pinTest a b r) s = .next s) ∧
    (∀ (k : Fin 128) (clr : BitVec 4), s.dev.reaches domBL (R.SINK_STATUS.at k) = true → Completes (.sinkFaultClear k clr) s fun d =>
      d.get F.SINK_STATUS_OPEN k = (if clr.getLsbD 1 then 0 else s.dev.get F.SINK_STATUS_OPEN k) ∧
      d.get F.SINK_STATUS_LED_SHORT k = (if clr.getLsbD 2 then 0 else s.dev.get F.SINK_STATUS_LED_SHORT k) ∧
      d.get F.SINK_STATUS_PIN_SHORT k = (if clr.getLsbD 3 then 0 else s.dev.get F.SINK_STATUS_PIN_SHORT k) ∧
      d.get F.SINK_STATUS_OFF k = (if d.on F.SINK_STATUS_OPEN k || d.on F.SINK_STATUS_PIN_SHORT k then s.dev.get F.SINK_STATUS_OFF k else 0) ∧
      Keeps s.dev d [] [wordOf R.SINK_STATUS k])

/-- What the zone bus sends: FS and PS, STAT, UPD, the enumeration, and the duty cutoff (R224, R234, R243, R245, R246, R248, R249). FS and
PS carry the period index, the frame and the scale of the budget, and a STAT that has not returned counts as no reply, the second of which
takes the ring down. UPD sends the head of the queue in a packet, after two symbols of idle fill, and moves it in flight. STAT goes out with
one slot for each IC found. A write of ENUM, and a replug of a ring that is down, send RST_ADDR and ENUM. The duty cutoff makes every bus
zone still unacknowledged late, gives each of its channels the value in force once more, keeps the entries sent with NOW and reads the
coming duties. The running disparity goes on from what was sent before. A bus or ring that does not run sends nothing. -/
def Obligations.ZoneBusOut : Prop :=
  ∀ s : State,
    (∀ index : Fin 8, s.dev.bl.statOut = false ∨ s.dev.bl.replied = true → s.dev.bl.noReply < 2 ∨ s.dev.on F.ZB_STATUS_RING_UP = false →
      Completes (.zbFsSend index) s fun d =>
        let p := s.dev.predict (if index = 0 then s.dev.comingDuty else s.dev.dutyOf)
        let k := if s.dev.on F.BL_CTRL_EN then budgetScale p s.dev.budget else 0
        d.bl.pred = p ∧ d.bl.nextScale = k ∧ d.bl.statOut = false ∧ d.bl.noReply = s.dev.bl.noReply ∧
        (s.dev.on F.BL_CTRL_ZB_EN = true → d.bl.plus = disparityAfter s.dev.bl.plus s.dev.bl.sent ∧
          d.bl.sent = (if index = 0 then zbFS else zbPS) ::
            (fsBytes index (s.dev.get F.FRAME_COUNT_FRAME) (s.dev.periodTicks 10) k).map .data) ∧
        (s.dev.on F.BL_CTRL_ZB_EN = false → d.bl.plus = s.dev.bl.plus ∧ d.bl.sent = s.dev.bl.sent) ∧ Keeps s.dev d [.bl] []) ∧
    (∀ index : Fin 8, s.dev.bl.statOut = true → s.dev.bl.replied = false → s.dev.bl.noReply = 0 ∨ s.dev.on F.ZB_STATUS_RING_UP = false →
      Completes (.zbFsSend index) s fun d => d.bl.noReply = s.dev.bl.noReply + 1 ∧ d.bl.statOut = false ∧
        (∀ i ∈ s.dev.liveIcs, (d.ic i).slot = false) ∧ Keeps s.dev d [.bl] []) ∧
    (∀ index : Fin 8, s.dev.bl.statOut = true → s.dev.bl.replied = false → 1 ≤ s.dev.bl.noReply → s.dev.on F.ZB_STATUS_RING_UP = true →
      Completes (.zbFsSend index) s fun d =>
        d.get F.ZB_STATUS_RING_UP = 0 ∧ d.raised Ev.ZB_RING_DOWN = true ∧ d.bl.queue = [] ∧ d.bl.flight = [] ∧ d.bl.down = true ∧
        Keeps s.dev d [.bl, .log] (wordOf R.ZB_STATUS :: eventWords Ev.ZB_RING_DOWN)) ∧
    (nextPacket s.dev.bl.queue ≠ [] → s.dev.ringUp = true → Completes .zbUpdSend s fun d =>
      d.bl.queue = s.dev.bl.queue.drop (nextPacket s.dev.bl.queue).length ∧
      d.bl.flight = s.dev.bl.flight ++ [nextPacket s.dev.bl.queue] ∧
      d.bl.sent = zbPacket (updBytes (nextPacket s.dev.bl.queue)) ∧ Keeps s.dev d [.bl] []) ∧
    (s.dev.bl.queue = [] ∨ s.dev.ringUp = false → exec .zbUpdSend s = .next s) ∧
    (s.dev.on F.BL_CTRL_ZB_EN = true → Completes .zbStatSend s fun d =>
      d.bl.statOut = true ∧ d.bl.replied = false ∧ d.bl.sent = zbPacket (statBytes (s.dev.get F.ZB_STATUS_FOUND)) ∧
      Keeps s.dev d [.bl] []) ∧
    (s.dev.on F.BL_CTRL_ZB_EN = false → exec .zbStatSend s = .next s) ∧
    (s.dev.reaches domBL (R.ZB_CTRL.at 0) = true → Completes .zbEnum s fun d =>
      d.get F.ZB_CTRL_ENUM = 1 ∧ d.bl.enumOut = true ∧ d.bl.sent = zbPacket rstBytes ++ zbPacket enumBytes ∧
          Keeps s.dev d [.bl] [wordOf R.ZB_CTRL]) ∧
    (s.dev.on F.ZB_STATUS_RING_UP = false → Completes .zbReplug s fun d =>
      d.get F.ZB_CTRL_ENUM = 1 ∧ d.get F.ZB_STATUS_RING_UP = 1 ∧ d.bl.enumOut = true ∧ d.bl.sent = zbPacket rstBytes ++ zbPacket enumBytes ∧
      d.bl.down = false ∧ d.bl.noReply = 0 ∧ d.bl.statOut = false ∧ d.raised Ev.ZB_REPLUG = true ∧
      Keeps s.dev d [.bl, .log] ([wordOf R.ZB_CTRL, wordOf R.ZB_STATUS] ++ eventWords Ev.ZB_REPLUG)) ∧
    (s.dev.on F.ZB_STATUS_RING_UP = true → exec .zbReplug s = .next s) ∧
    (Completes .dutyCutoff s fun d =>
      d.bl.cutoff = true ∧ (∀ e ∈ s.dev.bl.queue ++ s.dev.bl.flight.flatten, e.now = false → e.zone ∈ d.bl.late) ∧
      (∀ e ∈ s.dev.bl.queue, e.now = true → e ∈ d.bl.queue) ∧
      (∀ e ∈ s.dev.bl.queue ++ s.dev.bl.flight.flatten, e.now = false →
        ∃ f ∈ d.bl.queue, f.ic = e.ic ∧ f.ch = e.ch ∧ (f.duty, f.level) = s.dev.dutyOf f.zone) ∧
      d.bl.taken.isSome = true ∧ Keeps s.dev d [.free, .log, .ls, .bl] [wordOf R.LOG_STATUS, wordOf R.LS_EVENT, wordOf R.LS_CORR_COUNT,
          wordOf R.LS_TEST_SKIP_COUNT, wordOf R.LS_ECC_STATUS, arrayOf R.LS_BANK_STATUS, wordOf R.LS_EVENT_INFO])

/-- What returns on the zone bus: acknowledgements, status slots and the enumeration; and the ring going down (R245, R246, R247, R248,
R249). An acknowledged UPD leaves the flight; one without acknowledgement goes back to the head of the queue until the cutoff. A STAT ends
the wait: an IC whose slot has 8 bytes with a good CRC and is not empty has replied, and its need, flags and first fault channel show in
ZB_IC_STATUS; any other has not. A fault bit of the flags that becomes 1 raises ZB_IC_FAULT. ENUM gives the number of ICs found, marks them
present and brings the ring up; the zones still open are late. A ring that goes down drops its queue and makes the open zones late. -/
def Obligations.ZoneBusBack : Prop :=
  ∀ s : State,
    (∀ (ack : Bool) (p : List UpdEntry) (ps : List (List UpdEntry)), s.dev.bl.flight = p :: ps → Completes (.zbUpdReturn ack) s fun d =>
      d.bl.flight = ps ∧
      d.bl.queue = (if ack || (s.dev.bl.cutoff && p.all (fun e => !e.now)) then s.dev.bl.queue else p ++ s.dev.bl.queue) ∧
      d.bl.acked = (if ack then s.dev.bl.acked ++ p else s.dev.bl.acked) ∧ Keeps s.dev d [.bl] []) ∧
    (∀ ack : Bool, s.dev.bl.flight = [] → exec (.zbUpdReturn ack) s = .next s) ∧
    (∀ slots : List (List Byte), s.dev.bl.statOut = true →
      let good := fun (i : Nat) => let b := (slots[i]?).getD []; b.length = 8 ∧ crc8 (b.take 7) = ((b[7]?).getD 0).toNat ∧ b.all (· == 0) = false
      Completes (.zbStatReturn slots) s fun d =>
        d.bl.statOut = false ∧ (∀ i ∈ s.dev.liveIcs, (d.ic i).slot = true ↔ good i) ∧
        (∀ i ∈ s.dev.liveIcs, good i → let u := fun (o : Nat) => ((((slots[i]?).getD [])[o]?).getD 0).toNat
          d.get F.ZB_IC_STATUS_NEED i = u 0 + 256 * u 1 ∧ d.get F.ZB_IC_STATUS_FLAGS i = u 2 ∧ d.get F.ZB_IC_STATUS_FCH i = u 3 ∧
          ((u 2 &&& 0x1F) &&& (0xFF - s.dev.get F.ZB_IC_STATUS_FLAGS i) ≠ 0 → d.raised Ev.ZB_IC_FAULT i = true)) ∧
        ((∃ i ∈ s.dev.liveIcs, good i) → d.bl.noReply = 0) ∧
        (s.dev.bl.replied = false → (∀ i ∈ s.dev.liveIcs, ¬ good i) → d.bl.noReply = s.dev.bl.noReply + 1) ∧
        Keeps s.dev d [.bl, .log] (arrayOf R.ZB_IC_STATUS :: eventWords Ev.ZB_IC_FAULT)) ∧
    (∀ slots : List (List Byte), s.dev.bl.statOut = false → exec (.zbStatReturn slots) s = .next s) ∧
    (∀ ids : List (BitVec 16 × Byte × Byte), s.dev.bl.enumOut = true → s.dev.boot.waitEnum = false →
      Completes (.zbEnumReturn ids) s fun d =>
        d.get F.ZB_CTRL_ENUM = 0 ∧ d.get F.ZB_STATUS_FOUND = min 31 ids.length ∧ d.get F.ZB_PRESENT_ICS = 2 ^ (min 31 ids.length) - 1 ∧
        d.get F.ZB_STATUS_RING_UP = 1 ∧ d.bl.enumOut = false ∧ d.bl.down = false ∧ d.bl.noReply = 0 ∧ d.bl.flight = [] ∧
        (∀ e ∈ s.dev.bl.queue ++ s.dev.bl.flight.flatten, e.now = false → e.zone ∈ d.bl.late) ∧
        (ids.length < s.dev.get F.ZB_CTRL_EXPECT → d.raised Ev.ZB_ENUM_SHORT = true) ∧
        Keeps s.dev d [.bl, .log] ([wordOf R.ZB_CTRL, wordOf R.ZB_STATUS, wordOf R.ZB_PRESENT] ++ eventWords Ev.ZB_ENUM_SHORT)) ∧
    (s.dev.on F.ZB_STATUS_RING_UP = true → Completes .zbRingDown s fun d =>
      d.get F.ZB_STATUS_RING_UP = 0 ∧ d.bl.queue = [] ∧ d.bl.flight = [] ∧ d.bl.down = true ∧ d.raised Ev.ZB_RING_DOWN = true ∧
      (∀ e ∈ s.dev.bl.queue ++ s.dev.bl.flight.flatten, e.now = false → e.zone ∈ d.bl.late) ∧
      Keeps s.dev d [.bl, .log] (wordOf R.ZB_STATUS :: eventWords Ev.ZB_RING_DOWN)) ∧
    (s.dev.on F.ZB_STATUS_RING_UP = false → exec .zbRingDown s = .next s)

/-- A calibration window ends: too few samples, the tests in their order, acceptance, and what each leaves (R254, R255, R256, R257, R258,
R259, R265). A window of calibration 0 to 2 that is neither full nor timed out goes on. One that times out is rejected with reason 1; a full
one is rejected with reason 2 when bimodal, 3 when its variance is too large and 4 when the result is out of range, and otherwise accepted:
the offset of a sink, the gains of a boost's strings, the offsets of the sensors take the new result. A sensor window that is not uniform
ends without a result; 16 anchor records that agree shift every offset by their median, within ±48 (log entry 87), and the others wait for
the next set. CAL_FIT_READY, SG_COMMIT and the missing commit end or advance a gain window, and clearing a bit of CAL_CTRL ends that
calibration's window. -/
def Obligations.CalibrationWindows : Prop :=
  ∀ (s : State) (inst : BitVec 12) (timeout : Bool), let d := s.dev; let k := inst.toNat
    (d.calRuns 0 = true → k < 128 →
      let w := (assoc k d.cal.ofs).getD []; let m := medianI w; let c := Instr.calWindowEnd 0 inst timeout
      let bad := fun (r : Nat) => Completes c s fun e => d.rejected e 0 k r ∧ assoc k e.cal.ofs = none ∧
        e.get F.SINK_CAL_OFS k = d.get F.SINK_CAL_OFS k ∧ Keeps d e [.cal, .log] calWords
      (w.length < 1024 → timeout = false → exec c s = .next s) ∧
      (w.length < 1024 → timeout = true → bad 1) ∧
      (1024 ≤ w.length → bimodal w m 2 1 = true → bad 2) ∧
      (1024 ≤ w.length → bimodal w m 2 1 = false → varianceOk w 16 1 = false → bad 3) ∧
      (1024 ≤ w.length → bimodal w m 2 1 = false → varianceOk w 16 1 = true → (m < -64 ∨ 63 < m) → bad 4) ∧
      (1024 ≤ w.length → bimodal w m 2 1 = false → varianceOk w 16 1 = true → -64 ≤ m → m ≤ 63 → Completes c s fun e =>
        d.accepted e 0 k ∧ e.getS F.SINK_CAL_OFS k = m ∧ assoc k e.cal.ofs = none ∧
        (2 < (m - (assoc (calKey 0 k) d.cal.stored).getD 0).natAbs → e.raised Ev.CAL_STORE = true) ∧
        Keeps d e [.cal, .log] (wordOf R.SINK_CAL k :: calWords))) ∧
    (d.calRuns 1 = true → k < 16 →
      let g := d.gainCal k; let r := g.rows.map (residual g.g); let n := g.rows.length
      let w := 32768 * sumN (g.rows.map (·.2.2)); let c := Instr.calWindowEnd 1 inst timeout
      let full := 1024 ≤ n ∧ 256 ≤ excitedCount g.rows
      let bad := fun (q : Nat) => Completes c s fun e => d.rejected e 1 k q ∧ assoc k e.cal.gain = none ∧
        (∀ i < 128, e.get F.SINK_CAL_GAIN i = d.get F.SINK_CAL_GAIN i) ∧ Keeps d e [.cal, .log] calWords
      (g.phase ≠ 2 ∨ (¬ full ∧ timeout = false) → exec c s = .next s) ∧
      (g.phase = 2 → ¬ full → timeout = true → bad 1) ∧
      (g.phase = 2 → full → bimodal r 0 w (200 * n) = true → bad 2) ∧
      (g.phase = 2 → full → bimodal r 0 w (200 * n) = false → varianceOk r (w * w) (10000 * n * n) = false → bad 3) ∧
      (g.phase = 2 → full → bimodal r 0 w (200 * n) = false → varianceOk r (w * w) (10000 * n * n) = true →
        (∃ x ∈ g.g.take (d.fitSinks k).length, gainInRange x = false) → bad 4) ∧
      (g.phase = 2 → full → bimodal r 0 w (200 * n) = false → varianceOk r (w * w) (10000 * n * n) = true →
        (∀ x ∈ g.g.take (d.fitSinks k).length, gainInRange x = true) → Completes c s fun e =>
          d.accepted e 1 k ∧ assoc k e.cal.gain = none ∧
          (∀ p ∈ (d.fitSinks k).zip g.g, e.get F.SINK_CAL_GAIN p.1 = divRound (2 ^ 30) p.2) ∧
          Keeps d e [.cal, .log] (arrayOf R.SINK_CAL :: calWords))) ∧
    (d.calRuns 2 = true →
      let n := d.cal.ts.length; let c := Instr.calWindowEnd 2 inst timeout
      let cand := fun (i : Nat) => d.getS F.TS_CAL_OFS i + divRoundI (medianI d.tsMeans - (d.tsMeans[i]?).getD 0) n
      (n < 1000 → timeout = false → exec c s = .next s) ∧
      (n < 1000 → timeout = true → Completes c s fun e =>
        e.cal.ts = [] ∧ e.get F.CAL_REJ_STATUS_REASON = 1 ∧ (∀ i < 9, e.consecOf 2 i = d.consecOf 2 i) ∧
        Keeps d e [.cal, .log] calWords) ∧
      (1000 ≤ n → d.tsUniform = false → Completes c s fun e => e.cal.ts = [] ∧ Keeps d e [.cal] []) ∧
      (1000 ≤ n → d.tsUniform = true → (d.cal.anchors ++ d.cal.anchorNow).length < 16 → Completes c s fun e =>
        e.cal.ts = [] ∧ (∀ i < 9, bimodal (d.tsOf i) (medianI (d.tsOf i)) 2 1 = false → (cand i).natAbs ≤ 48 →
          e.consecOf 2 i = 0 ∧ e.getS F.TS_CAL_OFS i = cand i) ∧
        (∀ i < 9, bimodal (d.tsOf i) (medianI (d.tsOf i)) 2 1 = true ∨ 48 < (cand i).natAbs →
          e.consecOf 2 i = min 255 (d.consecOf 2 i + 1) ∧ e.get F.TS_CAL_OFS i = d.get F.TS_CAL_OFS i) ∧
        Keeps d e [.cal, .log] (arrayOf R.TS_CAL :: calWords)) ∧
      (let all := d.cal.anchors ++ d.cal.anchorNow; let r := all.take 16
        1000 ≤ n → d.tsUniform = true → d.cal.anchors.length < 16 → 16 ≤ all.length → all.length < 32 → varianceOk r 576 1 = true →
        Completes c s fun e => e.cal.anchors = all.drop 16 ∧ (∀ i < 9, e.getS F.TS_CAL_OFS i = clampI (-48) 48 (medianI r +
          (if bimodal (d.tsOf i) (medianI (d.tsOf i)) 2 1 = true ∨ 48 < (cand i).natAbs then d.getS F.TS_CAL_OFS i else cand i))) ∧
        Keeps d e [.cal, .log] (arrayOf R.TS_CAL :: calWords))) ∧
    (∀ b : Fin 16,
      ((d.gainCal b).phase = 0 → 4096 ≤ (d.gainCal b).count → (d.fitIcs b).length ≤ 4 → Completes (.calFitReady b) s fun e =>
        (e.gainCal b).phase = 1 ∧ e.raised Ev.CAL_FIT_READY = true ∧ Keeps d e [.cal, .log] [wordOf R.CAL_EVENT, wordOf R.LOG_STATUS]) ∧
      ((d.gainCal b).phase = 0 → 4096 ≤ (d.gainCal b).count → 4 < (d.fitIcs b).length → Completes (.calFitReady b) s fun e =>
        d.rejected e 1 b 5 ∧ assoc b.val e.cal.gain = none ∧ Keeps d e [.cal, .log] calWords) ∧
      ((d.gainCal b).phase ≠ 0 ∨ (d.gainCal b).count < 4096 → exec (.calFitReady b) s = .next s) ∧
      (d.reaches domBL (R.SG_COMMIT.at 0) = true → d.calRuns 1 = true → Completes (.sgCommit b) s fun e =>
        (e.gainCal b).phase = 2 ∧ (e.gainCal b).rows = [] ∧
        (e.gainCal b).g = (d.fitSinks b).map (fun i => d.get F.SG_CAND_GAIN i) ++ (d.fitIcs b).map (fun i => d.get F.SG_CAND_IC_GAIN i) ∧
        Keeps d e [.cal] []) ∧
      (d.reaches domBL (R.SG_COMMIT.at 0) = true → d.calRuns 1 = false → exec (.sgCommit b) s = .next s) ∧
      ((d.gainCal b).phase = 1 → Completes (.calFitTimeout b) s fun e =>
        d.rejected e 1 b 5 ∧ assoc b.val e.cal.gain = none ∧ Keeps d e [.cal, .log] calWords) ∧
      ((d.gainCal b).phase ≠ 1 → exec (.calFitTimeout b) s = .next s)) ∧
    (∀ en : BitVec 6, Completes (.calEnWrite en) s fun e =>
      e.get F.CAL_CTRL_EN = en.toNat ∧ (en.getLsbD 0 = false → e.cal.ofs = []) ∧ (en.getLsbD 1 = false → e.cal.gain = []) ∧
      (en.getLsbD 2 = false → e.cal.ts = []) ∧ (en.getLsbD 0 = true → e.cal.ofs = d.cal.ofs) ∧
      (en.getLsbD 1 = true → e.cal.gain = d.cal.gain) ∧ (en.getLsbD 2 = true → e.cal.ts = d.cal.ts) ∧
      e.cal.consec = d.cal.consec ∧ Keeps d e [.cal] [wordOf R.CAL_CTRL])

/-- What feeds the calibrations: a PWM period, a sensor sample, an equalizer step, a tuned lane, mode register 4, the aging report (R226,
R230, R234, R236, R259, R260, R261, R262, R263, R264, R304). A period start shows its index, its scale and the measurements, and stops the
backlight after two periods above the die's dissipation limit. A sensor sample is shown in TS_CAL and joins a running window; the higher of
the raw and the corrected reading of TS[8] at TJ_MAX shuts the backlight down. An equalizer step with errors is rejected and stops the lane
at the 16th in a row, one without is kept. Calibration 4 goes back to a lane whose bursts a relock spoilt, else it applies the best error-
free neighbour of a lane that drew errors, or rejects. Mode register 4 of channel 7 turns its high-temperature state, which in a running
window is an anchor. CAL_FW_REPORT counts for reasons 4 and 7. -/
def Obligations.CalibrationSamples : Prop :=
  ∀ s : State, let d := s.dev
    (∀ (index : Fin 8) (m : PwmSense),
      Completes (.pwmPeriodStart index m) s fun e =>
        e.get F.BL_STATUS_PERIOD = index ∧ e.get F.BL_STATUS_SCALE = d.bl.nextScale % 65536 ∧
        e.get F.BL_MON_PRED = min 65535 d.bl.predNow ∧ e.bl.predNow = d.bl.pred ∧ e.get F.BL_MON_MEAS = m.meas % 65536 ∧
        e.get F.ZB_ERR_COUNT_COUNT = (d.get F.ZB_ERR_COUNT_COUNT + m.zbErrors) % 2 ^ 32 ∧ e.get F.BL_DIE_DIE_POWER = m.diePower % 65536 ∧
        (m.diePower * 16 ≤ d.get F.BL_LIMIT_PDIE_MAX * 100 → e.bl.dieOver = 0 ∧ e.get F.BL_CTRL_EN = d.get F.BL_CTRL_EN) ∧
        (d.get F.BL_LIMIT_PDIE_MAX * 100 < m.diePower * 16 → 1 ≤ d.bl.dieOver → d.on F.BL_CTRL_EN = true →
          e.get F.BL_CTRL_EN = 0 ∧ e.get F.BL_STATUS_SHUT_CAUSE = 2 ∧ e.raised Ev.BL_OT = true) ∧
        Keeps d e [.bl, .cal, .log] [wordOf R.BL_CTRL, wordOf R.BL_STATUS, wordOf R.BL_MON, wordOf R.BL_DIE, wordOf R.BL_EVENT,
            wordOf R.ZB_ERR_COUNT,
          arrayOf R.BOOST_STATUS, arrayOf R.BOOST_FAULT, arrayOf R.SINK_STATUS, wordOf R.LOG_STATUS]) ∧
    (∀ raw : List (BitVec 16), raw.length = 9 → d.pwrState ≠ 2 → d.pwrState ≠ 3 →
      let die := (raw[8]?.getD 0).toInt; let fixed := die + d.getS F.TS_CAL_OFS 8
      let hot := d.on F.BL_CTRL_EN = true ∧ 16 * (d.get F.BL_LIMIT_TJ_MAX : Int) ≤ max die fixed
      Completes (.tsSample raw) s fun e =>
        (∀ i : Fin 9, e.get F.TS_CAL_RAW i = (raw[i.val]?.getD 0).toNat ∧ e.get F.TS_CAL_OFS i = d.get F.TS_CAL_OFS i ∧
          e.tsRead i = (raw[i.val]?.getD 0).toInt + d.getS F.TS_CAL_OFS i) ∧
        e.getS F.BL_DIE_TEMP = clampI (-128) 127 (fixed.fdiv 16) ∧
        (hot → e.get F.BL_CTRL_EN = 0 ∧ e.get F.BL_STATUS_SHUT_CAUSE = 1 ∧ e.raised Ev.BL_OT = true ∧ (∀ k, (d.sink k).segs ≠ [] →
            (e.sink k).segs = []) ∧
          Keeps d e [.bl, .cal, .log] ([wordOf R.BL_DIE, arrayOf R.TS_CAL, wordOf R.BL_CTRL, wordOf R.BL_STATUS] ++ eventWords Ev.BL_OT)) ∧
        (¬ hot → e.cal.ts = (if d.calRuns 2 = true ∧ d.cal.ts.length < 1000 then raw.map (·.toInt) :: d.cal.ts else d.cal.ts) ∧
          Keeps d e [.cal] [wordOf R.BL_DIE, arrayOf R.TS_CAL])) ∧
    (∀ raw : List (BitVec 16), raw.length ≠ 9 ∨ d.pwrState = 2 ∨ d.pwrState = 3 → exec (.tsSample raw) s = .next s) ∧
    (∀ (port : Fin 2) (lane : Fin 4) (taps : Nat), let i := 4 * port.val + lane.val
      let live := d.calRuns 3 = true ∧ d.on F.RX_PORT_STATUS_TRAINED port = true ∧ lane.val < d.laneCount port ∧ i ∉ d.cal.eqStopped
      (live → Completes (.eqStep port lane taps true) s fun e => d.rejected e 3 i 6 ∧
        (i ∈ e.cal.eqStopped ↔ 15 ≤ (assoc i d.cal.eqRun).getD 0) ∧ e.cal.taps = d.cal.taps ∧ Keeps d e [.cal, .log] calWords) ∧
      (live → Completes (.eqStep port lane taps false) s fun e => d.accepted e 3 i ∧ assoc i e.cal.taps = some taps ∧
          assoc i e.cal.eqRun = none ∧
        Keeps d e [.cal] [arrayOf R.CAL_STATUS]) ∧
      (¬ live → ∀ errors, exec (.eqStep port lane taps errors) s = .next s)) ∧
    (∀ (now : Nat) (trials : List (BitVec 2 × BitVec 2 × Nat)),
      let go := d.calRuns 4 = true ∧ d.on F.COL_CTRL_RETUNE_EN = true ∧ d.trainState = 5
      let clear := d.cal.tuneSpoilt = false
      let near := fun (l : Nat) => (trials.map fun t => (t.1.toNat, t.2.1.toNat, t.2.2)).filter fun t =>
        nextTo t.1 t.2.1 (d.get F.COL_LANE_DEEMPH l) (d.get F.COL_LANE_SWING l)
      let best := fun (l : Nat) => bestTrial (((near l).filter fun t => t.2.2 == 0).map fun t => (t.1, t.2.1))
      (¬ go ∨ d.tuneLane = none → exec (.colTune now trials) s = .next s) ∧
      (∀ l, go → d.tuneLane = some l → d.cal.tuneSpoilt = true → Completes (.colTune now trials) s fun e =>
        e.cal.tuneNext = l ∧ e.cal.tuneSpoilt = false ∧ Keeps d e [.cal] []) ∧
      (∀ l, go → clear → d.tuneLane = some l → now = 0 → Completes (.colTune now trials) s fun e =>
        e.cal.tuneNext = (l + 1) % 48 ∧ Keeps d e [.cal] []) ∧
      (∀ l p, go → clear → d.tuneLane = some l → now ≠ 0 → best l = some p → Completes (.colTune now trials) s fun e =>
        e.get F.COL_LANE_DEEMPH l = p.1 ∧ e.get F.COL_LANE_SWING l = p.2 ∧ d.accepted e 4 l ∧
        Keeps d e [.cal] [wordOf R.COL_LANE l, arrayOf R.CAL_STATUS]) ∧
      (∀ l, go → clear → d.tuneLane = some l → now ≠ 0 → best l = none → Completes (.colTune now trials) s fun e =>
        d.rejected e 4 l 6 ∧ Keeps d e [.cal, .log] calWords)) ∧
    (∀ reports : List Mr4Report, Completes (.mr4Read reports) s fun e =>
      (∀ i < 8, ∀ r ∈ reports[i]?, e.get F.DRAM_CH_STATUS_MR4_RATE i = r.rate.toNat ∧
        (r.state = .beyond → e.raised Ev.DRAM_OVERTEMP i = true)) ∧
      (∀ r ∈ reports[7]?, e.get F.DRAM_CH_STATUS_HIGH_TEMP 7 = (if r.state = .normal then 0 else 1)) ∧
      (d.calRuns 2 = true → d.cal.ts ≠ [] → e.get F.DRAM_CH_STATUS_HIGH_TEMP 7 ≠ d.get F.DRAM_CH_STATUS_HIGH_TEMP 7 →
        e.cal.anchorNow = d.cal.anchorNow ++ [medianI ((List.range 8).map d.tsRead) - d.getS F.DRAM_T_HI_T]) ∧
      Keeps d e [.cal, .log] [arrayOf R.DRAM_CH_STATUS, wordOf R.DRAM_EVENT, wordOf R.LOG_STATUS]) ∧
    (∀ (zone : BitVec 12) (reason : BitVec 4),
      (reason = 4 ∨ reason = 7 → Completes (.calFwReport zone reason) s fun e =>
        d.rejected e 5 zone.toNat reason.toNat ∧ Keeps d e [.cal, .log] calWords) ∧
      (reason ≠ 4 → reason ≠ 7 → exec (.calFwReport zone reason) s = .next s))

/-- What the exact encoder stores, a reader reads back: every sample of every segment, in both exact kinds (R162, R163, R166, R171). For
every segment of 1 to 128 samples whose components fit the kind's raw packing, and whether or not the encoder's self-check meets a logic
fault, the block that the exact encoder produces passes every check of a reader with the block's own LEN, whatever bytes follow it, and
gives back the very samples. -/
def Obligations.ExactBlockRoundTrip : Prop :=
  ∀ (k : BKind) (px : List Px) (fault : Bool) (rest : List Byte), k.exact = true → 1 ≤ px.length → px.length ≤ 128 →
    (∀ p ∈ px, p.r < 2 ^ k.rawBits ∧ p.g < 2 ^ k.rawBits ∧ p.b < 2 ^ k.rawBits) →
    let b := (k.encodeExact px fault).block
    k.check px.length (some (bits (leNat (b.take 2)) 9 0)) (b ++ rest) = .ok px ∧ k.check px.length none (b ++ rest) = .ok px

/-- The exact encoder stores the coded payload when it is shorter than the raw packing, else the raw packing with RAW set (R164). Without a
logic fault, the payload of the block is the coded payload when that is shorter than the raw packing of the segment, with RAW 0, and
otherwise the raw packing, with RAW 1; so no block is longer than its raw packing plus the 4 bytes of the header. -/
def Obligations.ExactBlockChoice : Prop :=
  ∀ (k : BKind) (px : List Px), k.exact = true → 1 ≤ px.length → px.length ≤ 128 →
    let b := (k.encodeExact px false).block
    let coded := k.codePayload 0 px
    (coded.length < (k.rawPack px).length → b.drop 4 = coded ∧ bit (leNat (b.take 2)) 10 = false) ∧
    ((k.rawPack px).length ≤ coded.length → b.drop 4 = k.rawPack px ∧ bit (leNat (b.take 2)) 10 = true) ∧
    b.length ≤ (k.rawPack px).length + 4

/-- A bounded block no longer than its raw size reads back within its error bound, or carries BOUND_FAIL in its one form (R169, R170, R171).
For every segment of 1 to 128 samples of 12-bit components and both bounded kinds: a block without BOUND_FAIL fills the slot exactly; when
the encoder did not report BOUND_FAIL and the payload is no longer than the raw size, a reader accepts it and every component differs from
the original by at most the kind's bound; a payload longer than the raw size (a segment of a few samples) fails the reader's check, as R171
says; and when the encoder reported BOUND_FAIL the block is its header alone, with LEN 0, and the reader reports the failed bound whatever
the rest of the slot holds. -/
def Obligations.BoundedBlocks : Prop :=
  ∀ (k : BKind) (px : List Px) (fault : Bool), k.exact = false → 1 ≤ px.length → px.length ≤ 128 →
    (∀ p ∈ px, p.r < 4096 ∧ p.g < 4096 ∧ p.b < 4096) →
    let e := k.encodeBounded px fault
    (e.boundFail = false → e.block.length = k.slot) ∧
    (e.boundFail = true → e.block.length = 4 ∧ bits (leNat (e.block.take 2)) 9 0 = 0 ∧
      ∀ rest, k.check px.length none (e.block ++ rest) = .boundFail) ∧
    (e.boundFail = false → k.rawSize px.length < bits (leNat (e.block.take 2)) 9 0 → k.check px.length none e.block = .bad) ∧
    (e.boundFail = false → bits (leNat (e.block.take 2)) 9 0 ≤ k.rawSize px.length → ∃ out, k.check px.length none e.block = .ok out ∧
        out.length = px.length ∧
      ∀ i < px.length, ∀ p ∈ px[i]?, ∀ o ∈ out[i]?,
        p.r ≤ o.r + k.bound ∧ o.r ≤ p.r + k.bound ∧ p.g ≤ o.g + k.bound ∧ o.g ≤ p.g + k.bound ∧ p.b ≤ o.b + k.bound ∧ o.b ≤ p.b + k.bound)

/-- The codec serves a block descriptor: a segment encoded with its length-table entry, or decoded, zeros for a bad block (R163, R168, R169,
R170, R171, R182, R183, R184, R471). A service command changes nothing on a queue with nothing to serve, and ends an invalid descriptor with
ERR 1. An encode descriptor of one segment whose accesses meet plain line store leaves the encoder's block at the destination and, in the
exact kinds, its length-table entry, and counts both ways. A decode descriptor of one segment writes the samples of a good block; a bad one
gives zeros, ERR 5, BLOCK_CHECK and its counter. A descriptor of any size is taken into service and keeps everything else. -/
def Obligations.CodecBlockService : Prop :=
  ∀ (s : State) (q : Fin 2) (faults : List Nat), let d := s.dev
    let g := codecDecode (d.lsPeek (d.codecDescAddr q) 64)
    let due := d.codecPending q = true ∧ assoc q.val d.codec.prog = none
    let clean := d.lsPlain (d.codecDescAddr q) 64 = true ∧ d.domOn domCODEC = true ∧ d.codecTurn q 1 = true
    ∀ p ∈ [(2, Instr.exactEncode q faults), (3, .exactDecode q), (4, .boundedEncode21 q), (5, .boundedEncode31 q), (6, .boundedDecode q)],
      (¬ due → exec p.2 s = .next s) ∧
      (due → clean → g.op = p.1 → d.codecInvalid q g = true → Completes p.2 s fun e =>
        assoc q.val e.codec.prog = some { fin := true, err := 1 } ∧ assoc 1 e.codec.last = some q.val ∧ Keeps d e [.codec] []) ∧
      (due → clean → g.op = p.1 → d.codecInvalid q g = false → Completes p.2 s fun e =>
        (assoc q.val e.codec.prog).isSome = true ∧ assoc 1 e.codec.last = some q.val ∧
            Keeps d e [.free, .log, .held, .ls, .dram, .codec, .lsMem, .dramMem] [wordOf R.LOG_STATUS, wordOf R.GUARD_CTRL,
            wordOf R.GUARD_HOLD, wordOf R.CORR_EVENT, wordOf R.DRIVE_EVENT, wordOf R.CODEC_EVENT, wordOf R.VERIFY_MISMATCH_COUNT,
            wordOf R.BOUND_FAIL_COUNT, wordOf R.BLOCK_CHECK_COUNT, wordOf R.CHECK_STATUS, wordOf R.LS_EVENT, wordOf R.LS_CORR_COUNT,
            wordOf R.LS_TEST_SKIP_COUNT, wordOf R.LS_ECC_STATUS, arrayOf R.LS_BANK_STATUS, wordOf R.LS_EVENT_INFO, wordOf R.DRAM_EVENT,
            wordOf R.DRAM_CE_COUNT, wordOf R.DRAM_UE_COUNT, wordOf R.DRAM_ECC_STATUS, wordOf R.DRAM_ECC_INFO, arrayOf R.DRQ_UE_COUNT,
            arrayOf R.DRAM_CH_STATUS]) ∧
      (due → clean → g.op = p.1 → d.codecInvalid q g = false → g.encodes = true → g.lines = 1 → g.width ≤ 128 →
        g.src.ls = true → g.dst.ls = true → d.lsPlain g.src.addr (g.kind.rawSize g.width) = true → d.lsPlain g.dst.addr g.kind.slot = true →
        (g.kind.exact = true → d.lsPlain g.lenTab 2 = true ∧ overlaps g.dst.addr g.kind.slot g.lenTab 2 = false) →
        Completes p.2 s fun e =>
          let px := g.kind.rawUnpack g.width (d.lsPeek g.src.addr (g.kind.rawSize g.width))
          let x := g.kind.encode px (faults.contains 0 && g.kind.exact)
          e.lsPeek g.dst.addr x.block.length = x.block ∧ (g.kind.exact = true → e.lsPeekN g.lenTab 2 = lenEntry x.block) ∧
          (x.mismatch = true → e.raised Ev.VERIFY_MISMATCH = true) ∧ (x.boundFail = true → e.raised Ev.BOUND_FAIL = true) ∧
          ∃ r ∈ assoc q.val e.codec.prog, r.fin = true ∧ r.err = 0 ∧ r.consumed = g.kind.rawSize g.width ∧ r.produced = x.block.length) ∧
      (due → clean → g.op = p.1 → d.codecInvalid q g = false → g.encodes = false → g.lines = 1 → g.width ≤ 128 →
        g.src.ls = true → g.dst.ls = true → d.lsPlain g.src.addr 1040 = true → d.lsPlain g.dst.addr (g.kind.rawSize g.width) = true →
        (g.kind.exact = true → d.lsPlain g.lenTab 2 = true) →
        Completes p.2 s fun e =>
          let entry := d.lsPeekN g.lenTab 2
          let len := if g.kind.exact && !bit entry 15 then some (entry % 1024) else none
          let n := match len with | some l => 4 + l | none => g.kind.slot
          let got := g.kind.check g.width len (d.lsPeek g.src.addr n)
          (∀ px, got = .ok px → e.lsPeek g.dst.addr (g.kind.rawPack px).length = g.kind.rawPack px ∧
              ∃ r ∈ assoc q.val e.codec.prog, r.fin = true ∧ r.err = 0) ∧
          (got = .bad → e.lsPeek g.dst.addr (g.kind.rawSize g.width) = List.replicate (g.kind.rawSize g.width) 0 ∧
              e.raised Ev.BLOCK_CHECK = true ∧ e.get F.BLOCK_CHECK_COUNT_COUNT = (d.get F.BLOCK_CHECK_COUNT_COUNT + 1) % 2 ^ 32 ∧
              e.get F.CHECK_STATUS_SOURCE = 5 ∧ ∃ r ∈ assoc q.val e.codec.prog, r.fin = true ∧ r.err = 5) ∧
          (got = .boundFail → ∃ r ∈ assoc q.val e.codec.prog, r.fin = true ∧ r.err = 0))

/-- Stream descriptors, their contexts, the queue tail and the end of a descriptor (R177, R178, R179, R180, R181, R182, R184). The first
descriptor of a stream, with source, destination and window in plain line store, leaves the decompressor's bytes, or the compressor's, at
the destination with the counts and the end status of the run; a decompressor error drops the context and raises STREAM_REFUSED. CTX_RESET
drops the streams of its mask; a tail write moves TAIL within the ring; DESC_DONE writes the status words, advances HEAD and raises what the
descriptor asks for. -/
def Obligations.CodecStreams : Prop :=
  ∀ (s : State) (q : Fin 2), let d := s.dev
    let g := codecDecode (d.lsPeek (d.codecDescAddr q) 64)
    let due := d.codecPending q = true ∧ assoc q.val d.codec.prog = none
    let clean := d.lsPlain (d.codecDescAddr q) 64 = true ∧ d.domOn domCODEC = true ∧ d.codecTurn q 0 = true
    let inp := d.lsPeek g.src.addr g.srcLen
    let at_ := d.get F.STREAM_WIN_BASE_BASE * 16 + g.ctx * 65536
    let plain := g.src.ls = true ∧ g.dst.ls = true ∧ d.lsPlain g.src.addr g.srcLen = true ∧ d.lsPlain at_ 65536 = true
    (∀ c ∈ [Instr.streamDecompress q, .streamCompress q], ¬ due → exec c s = .next s) ∧
    (∀ p ∈ [(0, Instr.streamDecompress q), (1, .streamCompress q)], due → clean → g.op = p.1 → d.codecInvalid q g = false →
      Completes p.2 s fun e => (assoc q.val e.codec.prog).isSome = true ∧ assoc 0 e.codec.last = some q.val ∧
        Keeps d e [.free, .log, .held, .ls, .dram, .codec, .lsMem, .dramMem] [wordOf R.LOG_STATUS, wordOf R.GUARD_CTRL, wordOf R.GUARD_HOLD,
            wordOf R.CORR_EVENT, wordOf R.DRIVE_EVENT, wordOf R.CODEC_EVENT, wordOf R.VERIFY_MISMATCH_COUNT, wordOf R.BOUND_FAIL_COUNT,
            wordOf R.BLOCK_CHECK_COUNT, wordOf R.CHECK_STATUS, wordOf R.LS_EVENT, wordOf R.LS_CORR_COUNT, wordOf R.LS_TEST_SKIP_COUNT,
            wordOf R.LS_ECC_STATUS, arrayOf R.LS_BANK_STATUS, wordOf R.LS_EVENT_INFO, wordOf R.DRAM_EVENT, wordOf R.DRAM_CE_COUNT,
            wordOf R.DRAM_UE_COUNT, wordOf R.DRAM_ECC_STATUS, wordOf R.DRAM_ECC_INFO, arrayOf R.DRQ_UE_COUNT, arrayOf R.DRAM_CH_STATUS]) ∧
    (due → clean → g.op = 0 → d.codecInvalid q g = false → g.first = true → plain →
      let run := decompress 0 0xFFFFFFFF g.isLast g.dstLen (runFuel g.srcLen g.dstLen) inp ⟨.tokens, [], [], 0, 0, 0⟩
      d.lsPlain g.dst.addr run.1.bytes.length = true → Completes (.streamDecompress q) s fun e =>
        e.lsPeek g.dst.addr run.1.bytes.length = run.1.bytes ∧
        (∃ r ∈ assoc q.val e.codec.prog, r.fin = true ∧ r.consumed = run.1.consumed ∧ r.produced = run.1.out ∧
          (run.2 = .ended → r.ended = true ∧ r.err = 0 ∧ assoc g.ctx e.codec.ctx = none) ∧
          (∀ full empty, run.2 = .pause full empty →
            r.outFull = full ∧ r.inEmpty = empty ∧ r.err = 0 ∧ (assoc g.ctx e.codec.ctx).isSome = true) ∧
          (∀ c, run.2 = .err c → r.err = c ∧ assoc g.ctx e.codec.ctx = none ∧ e.raised Ev.STREAM_REFUSED = true))) ∧
    (due → clean → g.op = 1 → d.codecInvalid q g = false → g.first = true → plain →
      let run := compressRun g.isLast g.dstLen (g.srcLen / 16384 + 2) ⟨0, 0xFFFFFFFF, [], inp, []⟩
      d.lsPlain g.dst.addr run.1.out.length = true → Completes (.streamCompress q) s fun e =>
        e.lsPeek g.dst.addr run.1.out.length = run.1.out ∧
        (∃ r ∈ assoc q.val e.codec.prog, r.fin = true ∧ r.err = 0 ∧ r.produced = run.1.out.length ∧
          (run.2 = .ended → r.ended = true ∧ assoc g.ctx e.codec.ctx = none) ∧
          (run.2 = .full → r.outFull = true ∧ (assoc g.ctx e.codec.ctx).isSome = true) ∧
          (run.2 = .empty → r.inEmpty = true ∧ (assoc g.ctx e.codec.ctx).isSome = true))) ∧
    (∀ mask : BitVec 4, d.reaches domCODEC (R.CODEC_CTRL.at 0) = true → Completes (.ctxReset mask) s fun e =>
      (∀ c < 4, assoc c e.codec.ctx = if mask.getLsbD c then none else assoc c d.codec.ctx) ∧ e.codec.prog = d.codec.prog ∧
      Keeps d e [.codec] []) ∧
    (∀ tail : Byte, d.reaches domCODEC (R.CODEC_Q_TAIL.at q) = true → Completes (.codecQTail q tail) s fun e =>
      e.codecTail q = tail.toNat % d.codecSlots q ∧ e.codecHead q = d.codecHead q ∧ Keeps d e [] [wordOf R.CODEC_Q_TAIL q]) ∧
    (∀ r, assoc q.val d.codec.prog = some r → r.fin = true → d.lsPlain (d.codecDescAddr q) 64 = true → Completes (.descDone q) s fun e =>
      assoc q.val e.codec.prog = none ∧ e.codecHead q = (d.codecHead q + 1) % d.codecSlots q ∧
      e.lsPeekN (d.codecDescAddr q + 4) 4 = r.statusWord % 2 ^ 32 ∧ e.lsPeekN (d.codecDescAddr q + 32) 4 = r.consumed % 2 ^ 32 ∧
      e.lsPeekN (d.codecDescAddr q + 36) 4 = r.produced % 2 ^ 32 ∧
      (r.outFull = true → e.raised Ev.OUT_FULL = true) ∧ ((d.codecPeek q).doneEvt = true → e.raised Ev.DESC_DONE = true) ∧
      Keeps d e [.log, .ls, .codec, .wall, .lsMem] [wordOf R.LOG_STATUS, wordOf R.CORR_EVENT, wordOf R.DRIVE_EVENT, arrayOf R.CODEC_Q_HEAD,
          wordOf R.CODEC_EVENT, wordOf R.LS_EVENT, wordOf R.LS_CORR_COUNT, wordOf R.LS_TEST_SKIP_COUNT, wordOf R.LS_ECC_STATUS,
          arrayOf R.LS_BANK_STATUS, wordOf R.LS_EVENT_INFO, wordOf R.NOTICE_STATUS, wordOf R.WALL_EVENT]) ∧
    ((∀ r ∈ assoc q.val d.codec.prog, r.fin = false) → exec (.descDone q) s = .next s)

/-- A cycle of line-store accesses: what a write stores, what a read returns, errors, collisions, off banks and a sleeping LS (R270, R271,
R272, R274, R275, R276, R279, R346). An access whose words meet nothing but the memory is served: a write stores exactly its bytes, a split
one too, and a read returns the bytes of the address. A read, or a write of a part, of an uncorrectable word ends with ECC and names the
word; a full-word write removes the error. Of two different writes to one word the lower port's is performed whole, the other is discarded
with COLLIDE and counted. An off bank answers BANK_OFF and stays off. With LS powered down the accesses wait and LS wakes. -/
def Obligations.LineStoreAccess : Prop :=
  ∀ (s : State) (r : LsReq), let d := s.dev; let a := r.addr.toNat; let n := r.size.bytes; let w := a / 16
    let one := d.domOn domLS = true ∧ a % 16 + n ≤ 16 ∧ d.ls.region = none ∧ d.on F.LS_BANK_STATUS_ENTERING (lsBankOf w) = false ∧
      (d.lsProtected (16 * w) 16).isNone = true
    (∀ bs, d.domOn domLS = true → d.lsPlain a n = true → r.data = some bs → bs.length = n → Completes (.lsAccess [r] []) s fun e =>
      Memory.read e.ls.mem a n = bs ∧ (∀ x, x < a ∨ a + n ≤ x → Memory.get e.ls.mem x = Memory.get d.ls.mem x) ∧
      e.ls.resp = [⟨r.port, .ok, []⟩] ∧ e.ls.uncorr = d.ls.uncorr ∧ Keeps d e [.ls, .lsMem] [arrayOf R.LS_PORT_CONFLICT]) ∧
    (d.domOn domLS = true → d.lsPlain a n = true → r.data = none → Completes (.lsAccess [r] []) s fun e =>
      e.ls.resp = [⟨r.port, .ok, Memory.read d.ls.mem a n⟩] ∧ e.ls.corr = d.ls.corr ∧
      Keeps d e [.ls] [arrayOf R.LS_PORT_CONFLICT]) ∧
    (one → d.get F.LS_BANK_STATUS_STATE (lsBankOf w) = 0 → w ∈ d.ls.uncorr → r.data = none ∨ n < 16 →
        Completes (.lsAccess [r] []) s fun e =>
      e.ls.resp = [⟨r.port, .ecc, []⟩] ∧ e.get F.LS_ECC_STATUS_WORD = w ∧ e.raised Ev.LS_UNCORR = true ∧ e.ls.uncorr = d.ls.uncorr ∧
      Keeps d e [.ls, .log] ([arrayOf R.LS_PORT_CONFLICT, wordOf R.LS_ECC_STATUS] ++ eventWords Ev.LS_UNCORR)) ∧
    (∀ bs, one → d.get F.LS_BANK_STATUS_STATE (lsBankOf w) = 0 → r.data = some bs → bs.length = 16 → n = 16 →
        Completes (.lsAccess [r] []) s fun e =>
      w ∉ e.ls.uncorr ∧ w ∉ e.ls.corr ∧ Memory.read e.ls.mem (16 * w) 16 = bs ∧ Keeps d e [.ls, .lsMem] [arrayOf R.LS_PORT_CONFLICT]) ∧
    (one → d.get F.LS_BANK_STATUS_STATE (lsBankOf w) = 2 → Completes (.lsAccess [r] []) s fun e =>
      e.ls.resp = [⟨r.port, .bankOff, []⟩] ∧ e.get F.LS_ECC_STATUS_WORD = w ∧ e.raised Ev.LS_BANK_OFF = true ∧
      e.get F.LS_BANK_STATUS_STATE (lsBankOf w) = 2 ∧
      Keeps d e [.ls, .log] ([arrayOf R.LS_PORT_CONFLICT, wordOf R.LS_ECC_STATUS] ++ eventWords Ev.LS_BANK_OFF)) ∧
    (∀ (p : Fin 12) (bs cs : List Byte), d.domOn domLS = true → d.lsPlain a 16 = true → a % 16 = 0 → n = 16 → r.data = some bs →
        bs.length = 16 →
      cs.length = 16 → bs ≠ cs → r.port < p → Completes (.lsAccess [⟨p, r.addr, r.size, some cs⟩, r] []) s fun e =>
        Memory.read e.ls.mem a 16 = bs ∧ (⟨p.val, .collide, []⟩ : LsResp) ∈ e.ls.resp ∧ (⟨r.port.val, .ok, []⟩ : LsResp) ∈ e.ls.resp ∧
        e.get F.LS_PORT_COLLIDE_COUNT p = (d.get F.LS_PORT_COLLIDE_COUNT p + 1) % 2 ^ 32 ∧
        e.get F.LS_COLLIDE_STATUS_PORT = p ∧ e.get F.LS_COLLIDE_STATUS_WORD = w ∧ e.raised Ev.LS_COLLIDE = true) ∧
    (∀ rs, d.domOn domLS = false → Completes (.lsAccess rs []) s fun e =>
      e.ls.stalled = d.ls.stalled ++ rs ∧ (d.domState domLS = 1 → e.domState domLS = 3) ∧
      Keeps d e [.ls, .pwr] [wordOf R.DOM_STATUS domLS])

/-- A bank's idle entry into retention, its signature, its states on request, its check on return, and the background test (R276, R277,
R278, R279, R280, R281). An idle bank with retention requested starts its signature; when it completes the bank holds the CRC-32 of its
bytes in LS_RET_SIG and is in retention, unless it holds an uncorrectable word. A request for off discards contents and signature at once; a
request for on starts the check of a retained bank, or the clearing of an off one. The check compares the CRC-32 and reports a mismatch with
RET_FAIL; either way the bank is on. The background test takes the next region of a bank that is on, counts the single-bit errors it
corrects, and moves on when the march ends, failures reported. -/
def Obligations.LineStoreBanks : Prop :=
  ∀ (s : State) (k : Fin 64), let d := s.dev; let st := d.get F.LS_BANK_STATUS_STATE k
    let sum := crc32 (Memory.read d.ls.mem (k.val * 0x40000) 0x40000)
    let bad := d.ls.uncorr.any (inBank k)
    let quiet := d.ls.stalled = [] ∨ d.domOn domLS = false
    (d.get F.LS_BANK_CTRL_STATE_REQ k = 1 → st = 0 → Completes (.bankIdle k) s fun e =>
      e.get F.LS_BANK_STATUS_ENTERING k = 1 ∧ e.get F.LS_BANK_STATUS_STATE k = 0 ∧ Keeps d e [] [wordOf R.LS_BANK_STATUS k]) ∧
    (d.get F.LS_BANK_CTRL_STATE_REQ k ≠ 1 ∨ st ≠ 0 → exec (.bankIdle k) s = .next s) ∧
    (d.on F.LS_BANK_STATUS_ENTERING k = true → bad = false → Completes (.bankSigDone k) s fun e =>
      e.get F.LS_BANK_STATUS_STATE k = 1 ∧ e.get F.LS_BANK_STATUS_ENTERING k = 0 ∧ e.get F.LS_RET_SIG_SIG k = sum ∧
      Keeps d e [] [wordOf R.LS_BANK_STATUS k, wordOf R.LS_RET_SIG k]) ∧
    (d.on F.LS_BANK_STATUS_ENTERING k = true → bad = true → Completes (.bankSigDone k) s fun e =>
      e.get F.LS_BANK_STATUS_STATE k = st ∧ e.get F.LS_BANK_STATUS_ENTERING k = 0 ∧ e.raised Ev.LS_UNCORR = true ∧
      Keeps d e [.log] (wordOf R.LS_BANK_STATUS k :: eventWords Ev.LS_UNCORR)) ∧
    (d.on F.LS_BANK_STATUS_ENTERING k = false → exec (.bankSigDone k) s = .next s) ∧
    (∀ verify : Bool, st ≠ 2 → quiet → Completes (.bankStateReq k verify 2) s fun e =>
      e.get F.LS_BANK_STATUS_STATE k = 2 ∧ e.get F.LS_RET_SIG_SIG k = 0 ∧ e.on F.LS_BANK_CTRL_VERIFY k = verify ∧
      (∀ x, Memory.get e.ls.mem x = if k.val * 0x40000 ≤ x ∧ x < (k.val + 1) * 0x40000 then 0 else Memory.get d.ls.mem x) ∧
      Keeps d e [.ls, .lsMem] [wordOf R.LS_BANK_STATUS k, wordOf R.LS_BANK_CTRL k, wordOf R.LS_RET_SIG k]) ∧
    (∀ (verify : Bool) (req : BitVec 2), req = 0 ∨ req = 3 → Completes (.bankStateReq k verify req) s fun e =>
      e.get F.LS_BANK_CTRL_STATE_REQ k = 0 ∧ e.get F.LS_BANK_STATUS_STATE k = st ∧ (st ≠ 0 → e.get F.LS_BANK_STATUS_CHECKING k = 1) ∧
      e.get F.LS_BANK_STATUS_ENTERING k = 0 ∧ Keeps d e [] [wordOf R.LS_BANK_STATUS k, wordOf R.LS_BANK_CTRL k]) ∧
    (∀ verify : Bool, Completes (.bankStateReq k verify 1) s fun e =>
      e.get F.LS_BANK_CTRL_STATE_REQ k = 1 ∧ e.on F.LS_BANK_CTRL_VERIFY k = verify ∧ Keeps d e [] [wordOf R.LS_BANK_CTRL k]) ∧
    (st = 1 → d.on F.LS_BANK_STATUS_CHECKING k = true → quiet → Completes (.bankCheckDone k) s fun e =>
      e.get F.LS_BANK_STATUS_STATE k = 0 ∧ e.get F.LS_BANK_STATUS_CHECKING k = 0 ∧
      (bad = false ∧ sum = d.get F.LS_RET_SIG_SIG k → Keeps d e [.ls] [wordOf R.LS_BANK_STATUS k]) ∧
      (bad = true ∨ sum ≠ d.get F.LS_RET_SIG_SIG k → e.get F.LS_BANK_STATUS_RET_FAIL k = 1 ∧ e.get F.LS_EVENT_INFO_RET_BANK = k ∧
        e.raised Ev.RET_FAIL k = true ∧ Keeps d e [.ls, .log] ([wordOf R.LS_BANK_STATUS k, wordOf R.LS_EVENT_INFO] ++
            eventWords Ev.RET_FAIL))) ∧
    (st ≠ 1 ∨ d.on F.LS_BANK_STATUS_CHECKING k = false → exec (.bankCheckDone k) s = .next s) ∧
    (st = 2 → d.on F.LS_BANK_STATUS_CHECKING k = true → Completes (.bankClearDone k) s fun e =>
      e.get F.LS_BANK_STATUS_STATE k = 0 ∧ e.get F.LS_BANK_STATUS_CHECKING k = 0 ∧ Keeps d e [] [wordOf R.LS_BANK_STATUS k]) ∧
    (st ≠ 2 ∨ d.on F.LS_BANK_STATUS_CHECKING k = false → exec (.bankClearDone k) s = .next s)

/-- The background test takes a region of a bank that is on, corrects what it saved, and reports failures as it ends (R280, R281, R282).
With TEST_EN, a pipe clock of 250 MHz or more, no region held and no request in the cycle, the engine takes the next region on from its walk
whose bank is on and not being checked, and counts the single-bit errors that it corrects in the copy. When the march ends each failing word
is recorded and counted, and the walk goes on; the bytes of the line store are as before. -/
def Obligations.LineStoreTest : Prop :=
  ∀ s : State, let d := s.dev; let quiet := d.ls.stalled = [] ∨ d.domOn domLS = false
    (∀ (busy : Bool) (r : Nat), quiet → busy = false → d.on F.LS_CTRL_TEST_EN = true → 250000 ≤ d.get F.PIPE_CLK_FREQ → d.ls.region = none →
      d.nextRegion 65 d.ls.regionNext = some r → Completes (.regionTestStart busy) s fun e =>
        e.ls.region = some r ∧ e.get F.LS_CORR_COUNT_COUNT = (d.get F.LS_CORR_COUNT_COUNT + (d.ls.corr.filter fun w =>
            w / 16 == r).length) % 2 ^ 32 ∧
        (∀ w ∈ e.ls.corr, w / 16 ≠ r) ∧ e.ls.uncorr = d.ls.uncorr ∧
        ((∃ w ∈ d.ls.uncorr, w / 16 = r) → e.raised Ev.LS_UNCORR = true) ∧
        Keeps d e [.ls, .log] (wordOf R.LS_CORR_COUNT :: eventWords Ev.LS_UNCORR)) ∧
    (∀ busy : Bool, quiet → busy = true ∨ d.on F.LS_CTRL_TEST_EN = false ∨ d.get F.PIPE_CLK_FREQ < 250000 ∨
        d.nextRegion 65 d.ls.regionNext = none → exec (.regionTestStart busy) s = .next s) ∧
    (∀ busy : Bool, d.ls.region.isSome = true →
      exec (.regionTestStart busy) s = .next s) ∧
    (∀ (fails : List (Fin 16)) (r : Nat), d.ls.region = some r → quiet → Completes (.regionTestDone fails) s fun e =>
      e.ls.region = none ∧ e.ls.regionNext = (r + 1) % 65536 ∧
      e.get F.LS_TEST_FAIL_COUNT_COUNT = (d.get F.LS_TEST_FAIL_COUNT_COUNT + fails.length) % 2 ^ 32 ∧
      (fails ≠ [] → e.raised Ev.LS_TEST_FAIL = true) ∧
      (∀ i ∈ fails.getLast?, e.get F.LS_TEST_STATUS_WORD = (16 * r + i.val) % 2 ^ 20) ∧
      Keeps d e [.ls, .log] ([wordOf R.LS_TEST_STATUS, wordOf R.LS_TEST_FAIL_COUNT] ++ eventWords Ev.LS_TEST_FAIL)) ∧
    (∀ fails : List (Fin 16), d.ls.region = none → exec (.regionTestDone fails) s = .next s)

/-- DRAM requests: refused outside memory, held by the guard, waiting for quota or room, queued, promoted, and completed (R25, R88, R293,
R296, R297, R298, R300, R301, R302, R310, R311, R312). A request outside memory, or to a failed channel, answers BUS at once. A DMA, codec
or wall write into a guarded range is held; a store of the control processor into one is refused. A port over its quota, or a full channel,
keeps the request at the port; otherwise it joins its channel's queue. A completed read answers the bytes of its block after the older
writes of it that still wait, a completed write stores exactly its bytes; a lost segment answers LOST and an uncorrectable block ECC with
its report. A request past its age limit moves up a class, into RT only while fewer than four promoted ones are there. -/
def Obligations.DramRequests : Prop :=
  ∀ s : State, let d := s.dev
    (∀ (port : Fin 9) (addr : BitVec 33) (len : Fin 33) (data : Option (List Byte)), let a := addr.toNat
      let r : DramReq := ⟨port, a, len, data, d.portClass port, d.portClass port, 0, false⟩
      let refused := port.val = 3 ∧ data.isSome = true ∧ d.guarded a len = true
      let held := 4 ≤ port.val ∧ port.val ≤ 7 ∧ data.isSome = true ∧ d.guarded a len = true
      1 ≤ len.val → a % 32 + len.val ≤ 32 → (∀ bs ∈ data, bs.length = len.val) →
      (d.dramBus a = true → Completes (.dramRequest port addr len data) s fun e =>
        e.dram.resp = some ⟨port, a, .bus, []⟩ ∧ e.dram.queue = d.dram.queue ∧ Keeps d e [.dram] []) ∧
      (d.dramBus a = false → held → Completes (.dramRequest port addr len data) s fun e =>
        e.held.length = d.held.length + 1 ∧ e.dram = d.dram ∧
        e.get F.GUARD_HOLD_HELD = (d.get F.GUARD_HOLD_HELD + 1) % 2 ^ 32 ∧ Keeps d e [.held] [wordOf R.GUARD_CTRL, wordOf R.GUARD_HOLD]) ∧
      (d.dramBus a = false → refused → Completes (.dramRequest port addr len data) s fun e =>
        e.dram.resp = some ⟨port, a, .guard, []⟩ ∧ e.dram.queue = d.dram.queue ∧ e.get F.GUARD_STATUS_ADDR = a / 64 ∧
        Keeps d e [.dram] [wordOf R.GUARD_STATUS]) ∧
      (d.dramBus a = false → ¬ held → ¬ refused → d.overQuota port = true → Completes (.dramRequest port addr len data) s fun e =>
        e.dram.atPort = d.dram.atPort ++ [r] ∧ e.dram.queue = d.dram.queue ∧ e.on F.DRQ_STATUS_OVER_QUOTA port = true ∧
        (d.on F.DRQ_STATUS_OVER_QUOTA port = false → e.raised Ev.QUOTA_HOLD port = true) ∧
        Keeps d e [.dram, .log] (wordOf R.DRQ_STATUS port :: eventWords Ev.QUOTA_HOLD)) ∧
      (d.dramBus a = false → ¬ held → ¬ refused → d.overQuota port = false → d.chRoom (dramChannel a) r = false →
        Completes (.dramRequest port addr len data) s fun e =>
          e.dram.atPort = d.dram.atPort ++ [r] ∧ e.dram.queue = d.dram.queue ∧ Keeps d e [.dram] []) ∧
      (d.dramBus a = false → ¬ held → ¬ refused → d.overQuota port = false → d.chRoom (dramChannel a) r = true →
        Completes (.dramRequest port addr len data) s fun e =>
          e.dram.queue = d.dram.queue ++ [(dramChannel a, r)] ∧ e.dram.atPort = d.dram.atPort ∧ e.held = d.held ∧
          Keeps d e [.log, .pwr, .dram] [wordOf R.LOG_STATUS, wordOf R.DRAM_EVENT, arrayOf R.DRQ_STATUS, arrayOf R.DRAM_CH_STATUS,
              arrayOf R.DOM_STATUS])) ∧
    (∀ (ch : Fin 8) (i : Nat) (r : DramReq), d.chState ch = 2 → d.domOn (chDomain ch) = true → d.dramPick ch = some (i, r) →
      dramChannel r.addr = ch → d.dramBus r.addr = false → r.addr % 32 + r.len ≤ 32 → d.dram.atPort = [] →
      let ws := ((d.chQueue ch).take i).filter fun w => w.data.isSome && w.addr / 32 == r.addr / 32
      let words := [wordOf R.DRAM_CE_COUNT, wordOf R.DRAM_HAMMER_STATUS, wordOf R.DRAM_RFM_COUNT] ++ eventWords Ev.DRAM_CE
      (r.data = none → d.dramLost r.addr = false → r.addr / 32 ∉ d.dram.uncorr ∨ (∃ w ∈ ws, w.len = 32) →
        (∀ w ∈ ws, (w.data.getD []).length = w.len ∧ w.addr % 32 + w.len ≤ 32) → Completes (.dramComplete ch []) s fun e =>
        e.dram.resp = some ⟨r.port, r.addr, .ok,
          ((mergeWrites ws (Memory.read d.dram.mem (r.addr / 32 * 32) 32)).drop (r.addr % 32)).take r.len⟩ ∧
        (ws = [] → e.dram.resp = some ⟨r.port, r.addr, .ok, Memory.read d.dram.mem r.addr r.len⟩) ∧ e.dram.mem = d.dram.mem ∧
        (e.chQueue ch).length + 1 = (d.chQueue ch).length ∧ Keeps d e [.dram, .log] words) ∧
      (r.data = none → d.dramLost r.addr = true → Completes (.dramComplete ch []) s fun e =>
        e.dram.resp = some ⟨r.port, r.addr, .lost, []⟩ ∧ e.raised Ev.DRAM_SEG_LOST ch = true ∧
        Keeps d e [.dram, .log] (eventWords Ev.DRAM_SEG_LOST)) ∧
      (r.data = none → d.dramLost r.addr = false → r.addr / 32 ∈ d.dram.uncorr → (∀ w ∈ ws, w.len ≠ 32) →
          Completes (.dramComplete ch []) s fun e =>
        e.dram.resp = some ⟨r.port, r.addr, .ecc, []⟩ ∧ e.raised Ev.DRAM_UE = true ∧ e.get F.DRAM_ECC_INFO_CH = ch ∧
        e.get F.DRAM_UE_COUNT_COUNT = (d.get F.DRAM_UE_COUNT_COUNT + 1) % 2 ^ 32 ∧ e.dram.mem = d.dram.mem) ∧
      (∀ bs, r.data = some bs → bs.length = r.len → r.len = 32 ∨ (d.dramLost r.addr = false ∧ r.addr / 32 ∉ d.dram.uncorr) →
        Completes (.dramComplete ch []) s fun e =>
          e.dram.resp = some ⟨r.port, r.addr, .ok, []⟩ ∧ Memory.read e.dram.mem r.addr r.len = bs ∧
          (∀ x, x < r.addr ∨ r.addr + r.len ≤ x → Memory.get e.dram.mem x = Memory.get d.dram.mem x) ∧
          r.addr / 32 ∉ e.dram.uncorr ∧ Keeps d e [.dram, .dramMem, .log] words)) ∧
    (∀ ch : Fin 8, d.chState ch ≠ 2 ∨ d.domOn (chDomain ch) = false ∨ d.dramPick ch = none → exec (.dramComplete ch []) s = .next s) ∧
    (∀ (ch : Fin 8) (i : Nat) (r : DramReq), (d.chQueue ch)[i]? = some r →
      (r.cls = 0 → exec (.dramAgePromote ch i) s = .next s) ∧
      (r.cls = 1 → 4 ≤ promotedRt (d.chQueue ch) → Completes (.dramAgePromote ch i) s fun e =>
        e.chQueue ch = (d.chQueue ch).set i { r with waiting := true } ∧ Keeps d e [.dram] []) ∧
      (r.cls = 1 ∧ promotedRt (d.chQueue ch) < 4 ∨ 2 ≤ r.cls → Completes (.dramAgePromote ch i) s fun e =>
        e.chQueue ch = (d.chQueue ch).set i { r with cls := r.cls - 1 } ∧ Keeps d e [.dram] []))

/-- Quotas and panic: the window slides, OVER_QUOTA follows the use, a panic level and the device-wide signal, postponed refreshes (R298,
R299, R303, R305). A bucket's end drops the oldest bucket, and USE and OVER_QUOTA of every port follow; a written QUOTA takes effect at
once. A panic level of an RT port is shown, and DRAM_PANIC is raised when the device-wide signal rises. Under panic a scheduled refresh is
postponed, up to eight a channel; otherwise it is issued with a waiting WCK correction; without panic a postponed one is repaid. -/
def Obligations.DramQuotaAndPanic : Prop :=
  ∀ s : State, let d := s.dev
    (d.dram.atPort = [] → Completes .quotaBucket s fun e =>
      (∀ p : Fin 9, ∀ b ∈ assoc p.val d.dram.buckets, assoc p.val e.dram.buckets = some (0 :: b.take 7)) ∧
      (∀ p : Fin 9, e.get F.DRQ_STATUS_USE p = e.portUse p / 64 % 65536 ∧ e.on F.DRQ_STATUS_OVER_QUOTA p = e.overQuota p) ∧
      Keeps d e [.dram, .log] (arrayOf R.DRQ_STATUS :: eventWords Ev.QUOTA_HOLD)) ∧
    (∀ (port : Fin 9) (quota : BitVec 16), d.dram.atPort = [] → Completes (.drqQuotaWrite port quota) s fun e =>
      e.get F.DRQ_CFG_QUOTA port = quota.toNat ∧ e.on F.DRQ_STATUS_OVER_QUOTA port = e.overQuota port ∧ e.dram = d.dram ∧
      Keeps d e [.dram, .log] ([wordOf R.DRQ_CFG port, wordOf R.DRQ_STATUS port] ++ eventWords Ev.QUOTA_HOLD)) ∧
    (∀ p ∈ [true, false], ∀ port : Fin 3, Completes (if p then .panicAssert port else .panicRelease port) s fun e =>
      e.on F.DRQ_STATUS_PANIC port = p ∧ e.dram.panic = e.panicNow ∧
      (e.panicNow = true → d.dram.panic = false → e.raised Ev.DRAM_PANIC = true) ∧
      Keeps d e [.dram, .log] (wordOf R.DRQ_STATUS port :: eventWords Ev.DRAM_PANIC)) ∧
    (∀ ch : Fin 8, let c := d.get F.DRAM_CH_STATUS_POSTPONED ch
      (d.panicNow = true → c < 8 → Completes (.dramRefresh ch) s fun e =>
        e.get F.DRAM_CH_STATUS_POSTPONED ch = c + 1 ∧ Keeps d e [] [wordOf R.DRAM_CH_STATUS ch]) ∧
      (d.panicNow = false ∨ 8 ≤ c → Completes (.dramRefresh ch) s fun e =>
        ch.val ∉ e.dram.wckFix ∧ e.get F.DRAM_CH_STATUS_POSTPONED ch = c ∧ (∀ b < 16, assoc (16 * ch + b) e.dram.openRow = none) ∧
        Keeps d e [.dram] []) ∧
      (d.panicNow = false → 1 ≤ c → Completes (.refreshRepay ch) s fun e =>
        e.get F.DRAM_CH_STATUS_POSTPONED ch = c - 1 ∧ (∀ b < 16, assoc (16 * ch + b) e.dram.openRow = none) ∧
        Keeps d e [.dram] [wordOf R.DRAM_CH_STATUS ch]) ∧
      (d.panicNow = true ∨ c = 0 → exec (.refreshRepay ch) s = .next s))

/-- Self-refresh, lost and cleared segments, the scrub, and the row-disturbance window (R301, R308, R309, R310, R311, R312, R356). An active
idle channel with SR_IDLE set enters self-refresh and loses the segments that PASR does not keep; an exit makes it active. A segment clear,
when it ends, fills the segment with zeros, clears its LOST bit and raises SEG_CLEAR_DONE. A scrub step reads its block on an active
channel, corrects a single-bit error and reports an uncorrectable one, and moves on; without SCRUB_EN it does nothing. The window's end
drops every count and throttle; an oscillator reading leaves a correction waiting on the named channels. -/
def Obligations.DramUpkeep : Prop :=
  ∀ s : State, let d := s.dev
    (∀ ch : Fin 8, d.chState ch = 2 → d.on F.DRAM_CH_CFG_SR_IDLE ch = true → d.chQueue ch = [] → Completes (.srIdleEntry ch) s fun e =>
      e.chState ch = 4 ∧ e.get F.DRAM_CH_STATUS_LOST ch = (d.get F.DRAM_CH_STATUS_LOST ch ||| (255 - d.get F.DRAM_CH_CFG_PASR ch)) ∧
      (ch ≠ 7 → Keeps d e [.dram] [wordOf R.DRAM_CH_STATUS ch]) ∧
          Keeps d e [.log, .pwr, .dram, .scan] [wordOf R.LOG_STATUS, wordOf R.COMP_CTRL, arrayOf R.DRAM_CH_STATUS, wordOf R.PWR_STATE,
          wordOf R.WAKE_PENDING, wordOf R.LAST_WAKE, wordOf R.LAST_WAKE_SEC, wordOf R.LAST_WAKE_SUB, wordOf R.PWR_EVENT,
          arrayOf R.DOM_STATUS]) ∧
    (∀ ch : Fin 8, d.chState ch ≠ 2 ∨ d.on F.DRAM_CH_CFG_SR_IDLE ch = false ∨ d.chQueue ch ≠ [] → exec (.srIdleEntry ch) s = .next s) ∧
    (∀ ch : Fin 8, d.chState ch = 5 → Completes (.srExitDone ch) s fun e => e.chState ch = 2 ∧ Keeps d e [] [wordOf R.DRAM_CH_STATUS ch]) ∧
    (∀ ch : Fin 8, d.chState ch ≠ 5 → exec (.srExitDone ch) s = .next s) ∧
    (∀ (ch : Fin 8) (segs : BitVec 8), Completes (.dramSegClear ch segs) s fun e =>
      (∀ k : Fin 8, segs.getLsbD k = true → (ch.val, k.val) ∈ e.dram.clearing) ∧ (∀ x ∈ d.dram.clearing, x ∈ e.dram.clearing) ∧
      e.dram.mem = d.dram.mem ∧ Keeps d e [.dram] []) ∧
    (∀ ch seg : Fin 8, (ch.val, seg.val) ∈ d.dram.clearing → Completes (.segClearDone ch seg) s fun e =>
      (∀ x, Memory.get e.dram.mem x = if inSegment ch seg x then 0 else Memory.get d.dram.mem x) ∧
      (∀ k : Fin 8, bit (e.get F.DRAM_CH_STATUS_LOST ch) k = if k = seg then false else bit (d.get F.DRAM_CH_STATUS_LOST ch) k) ∧
      (ch.val, seg.val) ∉ e.dram.clearing ∧ e.raised Ev.SEG_CLEAR_DONE ch = true ∧
      Keeps d e [.dram, .dramMem, .log] (wordOf R.DRAM_CH_STATUS ch :: eventWords Ev.SEG_CLEAR_DONE)) ∧
    (∀ ch seg : Fin 8, (ch.val, seg.val) ∉ d.dram.clearing → exec (.segClearDone ch seg) s = .next s) ∧
    (∀ b, b = d.dram.scrubNext →
      let live := d.chState (dramChannel (32 * b)) = 2 ∧ d.dramLost (32 * b) = false ∧ d.domOn (chDomain (dramChannel (32 * b))) = true ∧
          b < dramTop / 32
      (d.on F.DRAM_CTRL_SCRUB_EN = false → exec (.scrubStep []) s = .next s) ∧
      (d.on F.DRAM_CTRL_SCRUB_EN = true → Completes (.scrubStep []) s fun e =>
        e.dram.scrubNext = (b + 1) % (dramTop / 32) ∧ e.dram.mem = d.dram.mem ∧
        (live → b ∉ d.dram.uncorr → b ∈ d.dram.corr → b ∉ e.dram.corr ∧ e.raised Ev.DRAM_CE = true ∧
          e.get F.DRAM_CE_COUNT_COUNT = (d.get F.DRAM_CE_COUNT_COUNT + 1) % 2 ^ 32) ∧
        (live → b ∈ d.dram.uncorr → e.raised Ev.DRAM_UE = true ∧ e.get F.DRAM_ECC_STATUS_BLOCK = b ∧ e.get F.DRAM_ECC_INFO_PORT = 8) ∧
        Keeps d e [.log, .dram] [wordOf R.LOG_STATUS, wordOf R.DRAM_EVENT, wordOf R.DRAM_CE_COUNT, wordOf R.DRAM_UE_COUNT,
            wordOf R.DRAM_ECC_STATUS, wordOf R.DRAM_ECC_INFO, arrayOf R.DRQ_UE_COUNT, arrayOf R.DRAM_CH_STATUS, arrayOf R.DOM_STATUS])) ∧
    (Completes .rdWindowEnd s fun e => e.dram.tracker = [] ∧ e.dram.throttled = [] ∧ e.dram.mem = d.dram.mem ∧ e.dram.queue = d.dram.queue ∧
      Keeps d e [.dram] []) ∧
    (∀ chs : BitVec 8, Completes (.wckOscRead chs) s fun e =>
      (∀ k : Fin 8, k.val ∈ e.dram.wckFix ↔ k.val ∈ d.dram.wckFix ∨ chs.getLsbD k = true) ∧ e.dram.queue = d.dram.queue ∧
          Keeps d e [.dram] [])

/-- The general DMA: a tail submits, a copy moves exactly its bytes, a fill repeats its pattern, and completion (R184, R285, R286, R287,
R288). A tail write moves TAIL within the ring, keeps HEAD and queues the new slots. A service command changes nothing where no descriptor
waits and none of its kind is in service; an invalid descriptor ends with DESC_ERR and moves nothing. A valid copy within plain line store,
with nothing to do on the other channels, leaves at DST the bytes that stood at SRC, also where DST overlaps below SRC, and every other byte
as it was; a fill leaves the pattern repeated from DST. DESC_DONE writes STATUS, advances HEAD and raises GDMA_DONE on request, or GDMA_ERR.
-/
def Obligations.GdmaService : Prop :=
  ∀ (s : State) (c : Fin 4), let d := s.dev
    let desc := d.lsPeek (d.gdmaDescAddr c) 32
    let g := gdmaDecode desc
    let due := d.gdmaHead c ≠ d.gdmaTail c ∧ assoc c.val d.gdma.prog = none
    let alone := (∀ k : Fin 4, k ≠ c → d.gdmaDue k = false ∧ d.gdmaGoing k = none) ∧ (∀ h ∈ d.held, h.owner ≠ .gdma c)
    let clean := d.lsPlain (d.gdmaDescAddr c) 32 = true ∧ (g.fence = true → d.gdma.order.head? = some (c.val, d.gdmaHead c))
    (∀ tail : Byte, d.reaches domLS (R.GDMA_Q_TAIL.at c) = true → Completes (.gdmaQTail c tail) s fun e =>
      e.gdmaTail c = tail.toNat % d.gdmaSlots c ∧ e.gdmaHead c = d.gdmaHead c ∧ e.gdma.prog = d.gdma.prog ∧
      e.gdma.order = d.gdma.order ++ (newSlots (d.gdmaSlots c) (d.gdmaTail c) (tail.toNat % d.gdmaSlots c)).map (fun i => (c.val, i)) ∧
      bit (e.get F.GDMA_STATUS_BUSY) c = (e.gdmaHead c != e.gdmaTail c) ∧
      Keeps d e [.gdma] [wordOf R.GDMA_Q_TAIL c, wordOf R.GDMA_STATUS]) ∧
    (∀ x ∈ [(false, Instr.gdmaCopy c), (true, .gdmaFill c)], ¬ due → (∀ p ∈ d.gdmaGoing c, (gdmaDecode p.1).fill ≠ x.1) →
      exec x.2 s = .next s) ∧
    (∀ x ∈ [(false, Instr.gdmaCopy c), (true, .gdmaFill c)],
      (due → clean → g.fill = x.1 → g.invalid = true → Completes x.2 s fun e =>
        assoc c.val e.gdma.prog = some ⟨desc, 0, some 1⟩ ∧ Keeps d e [.gdma] []) ∧
      (due → clean → g.fill = x.1 → g.invalid = false → Completes x.2 s fun e =>
        (assoc c.val e.gdma.prog).isSome = true ∧ Keeps d e [.log, .held, .ls, .gdma, .dram, .lsMem, .dramMem] [wordOf R.LOG_STATUS,
            wordOf R.GUARD_CTRL, wordOf R.GUARD_HOLD, wordOf R.CORR_EVENT, wordOf R.DRIVE_EVENT, wordOf R.LS_EVENT, wordOf R.LS_CORR_COUNT,
            wordOf R.LS_TEST_SKIP_COUNT, wordOf R.LS_ECC_STATUS, arrayOf R.LS_BANK_STATUS, wordOf R.LS_EVENT_INFO, wordOf R.DRAM_EVENT,
            wordOf R.DRAM_CE_COUNT, wordOf R.DRAM_UE_COUNT, wordOf R.DRAM_ECC_STATUS, wordOf R.DRAM_ECC_INFO, arrayOf R.DRQ_UE_COUNT,
            arrayOf R.DRAM_CH_STATUS, arrayOf R.DOM_STATUS]) ∧
      (due → clean → g.fill = x.1 → g.invalid = false → alone → g.dst.ls = true → d.lsPlain g.dst.addr g.len = true →
        (x.1 = false → g.src.ls = true ∧ d.lsPlain g.src.addr g.len = true) → Completes x.2 s fun e =>
          e.lsPeek g.dst.addr g.len = (if x.1 then patternBytes g.pattern 0 g.len else d.lsPeek g.src.addr g.len) ∧
          (∀ a, a < g.dst.addr ∨ g.dst.addr + g.len ≤ a → Memory.get e.ls.mem a = Memory.get d.ls.mem a) ∧
          assoc c.val e.gdma.prog = some ⟨desc, g.len, some 0⟩ ∧ Keeps d e [.ls, .lsMem, .gdma] [])) ∧
    (∀ begun moved err, assoc c.val d.gdma.prog = some ⟨begun, moved, some err⟩ → d.lsPlain (d.gdmaDescAddr c) 32 = true →
        Completes (.gdmaDescDone c) s fun e =>
      assoc c.val e.gdma.prog = none ∧ e.gdmaHead c = (d.gdmaHead c + 1) % d.gdmaSlots c ∧
      e.lsPeekN (d.gdmaDescAddr c + 28) 4 = (1 + 16 * err + if err = 0 then 0 else moved / 16 * 256) % 2 ^ 32 ∧
      (c.val, d.gdmaHead c) ∉ e.gdma.order ∧ (err = 0 → (gdmaDecode begun).doneEvt = true → e.raised Ev.GDMA_DONE c = true) ∧
      (err ≠ 0 → e.raised Ev.GDMA_ERR c = true) ∧
      Keeps d e [.ls, .lsMem, .gdma, .log] [wordOf R.GDMA_Q_HEAD c, wordOf R.GDMA_STATUS, wordOf R.GDMA_EVENT, wordOf R.LOG_STATUS]) ∧
    ((∀ p ∈ assoc c.val d.gdma.prog, p.status = none) → exec (.gdmaDescDone c) s = .next s)

/-- Power domains: idle, requests, the end of a power-down, readiness and the stalled accesses, and the hold of pads (R344, R345, R346,
R347, R348, R366). DOMAIN_IDLE and DOM_REQ_RET start the power-down of an ON domain that its state does not mark ON; for a marked one the
first changes nothing and the second only raises DOM_REFUSE. DOM_REQ_ON writes REQ and wakes a domain in RET. A power-down ends in RET, or
in a wake where an access came meanwhile, and latches the pads of the domain. DOMAIN_READY turns a waking domain ON, where the supply allows
it, and a store that stalled on it is performed; it changes nothing for any other domain while no access stalls. PAD_HOLD_RELEASE frees the
held groups whose domains are ON. -/
def Obligations.DomainsAndStalls : Prop :=
  ∀ (s : State) (k : Fin 80), let d := s.dev
    let due := d.on F.DOM_CTRL_AUTO k = true ∨ ((d.pwrState = 2 ∨ d.pwrState = 3) ∧ onAccess k = true)
    (k.val ≠ 0 → due → d.get F.DOM_CTRL_REQ k ≠ 1 → d.markedOn k = false → d.domState k = 0 → Completes (.domainIdle k) s fun e =>
      e.domState k = 2 ∧ Keeps d e [] [wordOf R.DOM_STATUS k]) ∧
    (k.val = 0 ∨ ¬ due ∨ d.get F.DOM_CTRL_REQ k = 1 ∨ d.markedOn k = true ∨ d.domState k ≠ 0 → exec (.domainIdle k) s = .next s) ∧
    (k.val ≠ 0 → Completes (.domReqOn k) s fun e =>
      e.get F.DOM_CTRL_REQ k = 1 ∧ (d.domState k = 1 → e.domState k = 3) ∧ (d.domState k ≠ 1 → e.domState k = d.domState k) ∧
      Keeps d e [.pwr] [wordOf R.DOM_CTRL k, wordOf R.DOM_STATUS k]) ∧
    (k.val ≠ 0 → d.markedOn k = false → Completes (.domReqRet k) s fun e =>
      e.get F.DOM_CTRL_REQ k = 2 ∧ e.domState k = (if d.domState k = 0 then 2 else d.domState k) ∧
      Keeps d e [] [wordOf R.DOM_CTRL k, wordOf R.DOM_STATUS k]) ∧
    (k.val ≠ 0 → d.markedOn k = true → Completes (.domReqRet k) s fun e =>
      e.raised Ev.DOM_REFUSE = true ∧ e.domState k = d.domState k ∧
      Keeps d e [.log] (eventWords Ev.DOM_REFUSE)) ∧
    (d.domState k = 2 → Completes (.domainPowerDownDone k) s fun e =>
      e.domState k = (if k.val ∈ d.pwr.wakeAfter then 3 else 1) ∧ k.val ∉ e.pwr.wakeAfter ∧
      (∀ g ∈ padGroup k, bit (e.get F.PAD_HOLD_HELD) g = true) ∧ Keeps d e [.pwr] [wordOf R.DOM_STATUS k, wordOf R.PAD_HOLD]) ∧
    (d.domState k ≠ 2 → exec (.domainPowerDownDone k) s = .next s) ∧
    (d.domState k = 3 → k.val = domBL ∨ d.get F.VREG_STATUS_POINT ≠ 0 → k.val < 16 → k.val ≠ domLS → k.val ≠ domCORR → d.pwr.stalled = [] →
      d.pwr.releaseWait = [] → d.pwrState ≠ 4 → d.pwrState ≠ 5 → Completes (.domainReady k) s fun e =>
        e.domState k = 0 ∧ Keeps d e [.pwr] [wordOf R.DOM_STATUS k]) ∧
    (∀ v : BitVec 16, k.val = domBL → d.domState k = 3 → d.pwr.stalled = [⟨.cp, true, R.BL_BUDGET.at 0, 4, v.toNat * 2 ^ 16⟩] →
      d.pwr.releaseWait = [] → d.pwrState ≠ 4 → d.pwrState ≠ 5 → Completes (.domainReady k) s fun e =>
        e.domState k = 0 ∧ e.pwr.stalled = [] ∧ e.get F.BL_BUDGET_POLICY = v.toNat) ∧
    (d.domOn k = false → d.domState k ≠ 3 ∨ (k.val ≠ domBL ∧ d.get F.VREG_STATUS_POINT = 0) → exec (.domainReady k) s = .next s) ∧
    (d.domOn k = true → d.pwr.stalled = [] → exec (.domainReady k) s = .next s) ∧
    (∀ mask : BitVec 6, (∀ g < 6, bit mask.toNat g = true → (padDomains g).all d.domOn = true) → d.pwr.onAfterRelease = false →
      Completes (.padHoldRelease mask) s fun e =>
        (∀ g < 6, bit (e.get F.PAD_HOLD_HELD) g = (bit (d.get F.PAD_HOLD_HELD) g && !bit mask.toNat g)) ∧
        Keeps d e [.pwr] [wordOf R.PAD_HOLD])

/-- The regulators: an acknowledgement, a time-out, its retry, and the dale clock's voltage (R350, R351). An acknowledgement on rail 0 ends
its request, makes its target the operating point and shows the voltage. A first time-out retries and counts in RETRIES; a second raises
VREG_FAIL with the rail and drops the request, or, in an exit, keeps it for VREG_RETRY and shows the state that the exit was to leave until
then. DALE_TURBO 1 asks for the higher point, once. Without a request on the rail nothing changes. -/
def Obligations.Regulators : Prop :=
  ∀ (s : State) (rail : Fin 16), let d := s.dev
    (d.vreq rail = none → exec (.vregAck rail) s = .next s ∧ exec (.vregTimeout rail) s = .next s ∧ exec (.vregRetry rail) s = .next s) ∧
    (∀ v : VReq, d.vreq rail = some v →
      (rail.val = 0 → d.pwrState ≠ 5 → Completes (.vregAck rail) s fun e =>
        e.vreq rail = none ∧ e.get F.VREG_STATUS_POINT = v.target % 4 ∧
        (v.target = 0 → e.get F.VREG_STATUS_VCORE = 10) ∧ (v.target = 1 → e.get F.VREG_STATUS_VCORE = 40 + d.get F.PWR_CFG_VCORE_NOM) ∧
        (v.target = 2 → e.get F.VREG_STATUS_VCORE = 70) ∧ Keeps d e [.pwr] [wordOf R.VREG_STATUS]) ∧
      (rail.val ≠ 0 → d.pwrState ≠ 5 → Completes (.vregAck rail) s fun e =>
        e.vreq rail = none ∧ (d.phyRail = some rail.val → e.pwr.phyOff = decide (v.target = 0)) ∧ Keeps d e [.pwr] []) ∧
      (v.failed = false → v.retried = false → Completes (.vregTimeout rail) s fun e =>
        e.vreq rail = some { v with retried := true } ∧ e.get F.VREG_STATUS_RETRIES = min 255 (d.get F.VREG_STATUS_RETRIES + 1) ∧
        Keeps d e [.pwr] [wordOf R.VREG_STATUS]) ∧
      (v.failed = false → v.retried = true → v.why ≠ .exit → Completes (.vregTimeout rail) s fun e =>
        e.get F.VREG_STATUS_FAIL_RAIL = rail ∧ e.raised Ev.VREG_FAIL = true ∧ e.vreq rail = none ∧
        Keeps d e [.pwr, .log] (wordOf R.VREG_STATUS :: eventWords Ev.VREG_FAIL)) ∧
      (v.failed = false → v.retried = true → v.why = .exit → Completes (.vregTimeout rail) s fun e =>
        e.get F.VREG_STATUS_FAIL_RAIL = rail ∧ e.raised Ev.VREG_FAIL = true ∧ e.vreq rail = some { v with failed := true } ∧
        e.pwrState = d.pwr.origin % 16 ∧ Keeps d e [.pwr, .log] (wordOf R.VREG_STATUS :: wordOf R.PWR_STATE :: eventWords Ev.VREG_FAIL)) ∧
      (v.failed = true → exec (.vregTimeout rail) s = .next s ∧ Completes (.vregRetry rail) s fun e =>
        e.vreq rail = some { v with failed := false, retried := false } ∧ e.pwrState = 5 ∧ Keeps d e [.pwr] [wordOf R.PWR_STATE]) ∧
      (v.failed = false → exec (.vregRetry rail) s = .next s)) ∧
    (d.coreDown = false → Completes (.daleTurbo true) s fun e =>
      e.on F.PWR_CFG_DALE_TURBO = true ∧ (d.get F.VREG_STATUS_POINT ≠ 2 → ∃ v, e.vreq 0 = some v ∧ v.target = 2 ∧ v.failed = false) ∧
      (d.get F.VREG_STATUS_POINT = 2 → e.pwr = d.pwr) ∧ Keeps d e [.pwr] [wordOf R.PWR_CFG]) ∧
    (Completes (.daleTurbo false) s fun e => e.on F.PWR_CFG_DALE_TURBO = false ∧ e.pwr.dale800 = d.pwr.dale800 ∧
      (d.pwr.dale800 = true → e.pwr = d.pwr) ∧ Keeps d e [.pwr] [wordOf R.PWR_CFG])

/-- State commands: what each starts in which state, what is refused or held, and where an entry ends (R60, R353, R354, R355, R356, R358,
R360). From firmware and out of a wall: RUN changes nothing in RUN and ends an entry into FALLOW; FALLOW is accepted in RUN only where the
level, the memory and the timing allow it, and marks a capture frame; VIGIL is refused in VIGIL and DORMANT, DORMANT in DORMANT; CAPTURE
marks a frame; HANDOVER outside a wall is refused. A command during a transition, RUN apart, is held in PENDING. With HOST_GATE a host's
command raises STATE_REQ alone. FALLOW_REQUEST acts in RUN as firmware's FALLOW when a request is due. A complete capture sets FALLOW_VALID,
a failed one ends the entry. -/
def Obligations.PowerStates : Prop :=
  ∀ s : State, let d := s.dev
    (∀ c ∈ [Instr.stateRun, .stateFallow, .stateVigil, .stateDormant, .stateCapture, .stateHandover], ∀ src ∈ [CmdSrc.mgmt, .dpcd],
      d.on F.PWR_CFG_HOST_GATE = true → OnlyRaises (c src) s Ev.STATE_REQ) ∧
    (d.inWall = false → d.pwrState = 0 → exec (.stateRun .firmware) s = .next s) ∧
    (d.inWall = false → d.pwrState = 4 → d.pwr.target = 1 → d.pwr.captured = false → bit (d.get F.WAKE_EN_SRC) 12 = false →
        Completes (.stateRun .firmware) s fun e =>
        e.pwrState = 0 ∧ e.get F.PWR_STATE_PENDING = 15 ∧ e.pwr.target = 0 ∧ e.pwr.noDispatch = false ∧
            Keeps d e [.pwr] [wordOf R.PWR_STATE]) ∧
    (d.inWall = false → ∀ c ∈ [Instr.stateFallow .firmware, .fallowRequest], (c = .fallowRequest → d.fallowDue = true) → d.pwrState = 0 →
        d.fallowAllowed = true → Completes c s fun e =>
        e.pwrState = 4 ∧ e.get F.PWR_STATE_PENDING = 1 ∧ e.pwr.target = 1 ∧ e.pwr.captureNext = true ∧
            Keeps d e [.pwr] [wordOf R.PWR_STATE]) ∧
    (d.inWall = false → d.pwrState < 4 → ¬ (d.pwrState = 0 ∧ d.fallowAllowed = true) →
        OnlyRaises (.stateFallow .firmware) s Ev.PWR_REFUSE) ∧
    (d.inWall = false → d.pwrState = 2 ∨ d.pwrState = 3 → OnlyRaises (.stateVigil .firmware) s Ev.PWR_REFUSE) ∧
    (d.inWall = false → d.pwrState = 3 → OnlyRaises (.stateDormant .firmware) s Ev.PWR_REFUSE) ∧
    (d.inWall = false → ∀ x ∈ [(2, Instr.stateVigil .firmware), (3, .stateDormant .firmware)], d.pwrState ≤ 1 → Completes x.2 s fun e =>
        e.pwrState = 4 ∧ e.get F.PWR_STATE_PENDING = x.1 ∧ e.pwr.target = x.1 ∧ e.pwr.origin = d.pwrState ∧ e.pwr.noDispatch = true) ∧
    (d.inWall = false → d.pwrState = 0 → d.chTrained 7 7 = true → Completes (.stateCapture .firmware) s fun e =>
        e.get F.PWR_STATE_PENDING = 4 ∧ e.pwr.captureNext = true ∧ e.pwrState = 0 ∧ Keeps d e [.pwr] [wordOf R.PWR_STATE]) ∧
    (d.inWall = false → d.pwrState < 4 → ¬ (d.pwrState = 0 ∧ d.chTrained 7 7 = true) →
        OnlyRaises (.stateCapture .firmware) s Ev.PWR_REFUSE) ∧
    (d.inWall = false → d.pwrState < 4 → OnlyRaises (.stateHandover .firmware) s Ev.PWR_REFUSE) ∧
    (d.inWall = false → ∀ x ∈ [(1, Instr.stateFallow .firmware), (2, .stateVigil .firmware), (3, .stateDormant .firmware), (4,
        .stateCapture .firmware), (5, .stateHandover .firmware)], 4 ≤ d.pwrState → d.pwrState ≤ 5 →
        Completes x.2 s fun e => e.get F.PWR_STATE_PENDING = x.1 ∧ e.pwr.heldCmd = some ⟨x.1, 13, 0, none⟩ ∧
          e.pwrState = d.pwrState ∧ Keeps d e [.pwr] [wordOf R.PWR_STATE]) ∧
    (d.inWall = true ∨ d.fallowDue = false → exec .fallowRequest s = .next s) ∧
    (d.inWall = true → d.isAlmanac = false → ∀ c ∈ [Instr.stateRun, .stateFallow, .stateVigil, .stateDormant],
        OnlyRaises (c .firmware) s Ev.PWR_REFUSE) ∧
    (d.inWall = true → d.isAlmanac = false → d.ownAddr = some 0 → d.pwrState < 4 → Completes (.stateHandover .firmware) s fun e =>
      e.isAlmanac = true ∧ e.get F.WALL_STATUS_EPOCH = (d.get F.WALL_STATUS_EPOCH + 1) % 256 ∧ e.raised Ev.WALL_ALMANAC = true) ∧
    (d.pwr.capturing = false ∨ (d.pwr.captureBad = false ∧ d.pwr.capNext ≠ d.vActive * d.lineSegs) → exec .captureDone s = .next s) ∧
    (d.pwr.capturing = true → d.pwr.captureBad = false → d.pwr.capNext = d.vActive * d.lineSegs → d.pwrState = 0 →
        Completes .captureDone s fun e =>
      e.on F.COMP_CTRL_FALLOW_VALID = true ∧ e.raised Ev.CAPTURE_DONE = true ∧ e.pwr.capturing = false ∧ e.get F.PWR_STATE_PENDING = 15) ∧
    (d.pwr.capturing = true → d.pwr.captureBad = true → d.pwrState = 4 → d.pwr.target = 1 → Completes .captureDone s fun e =>
      e.pwrState = 0 ∧ e.raised Ev.PWR_REFUSE = true ∧ e.get F.COMP_CTRL_FALLOW_VALID = d.get F.COMP_CTRL_FALLOW_VALID) ∧
    (d.entryDowns = true → d.pwr.target = 1 → (entryDomains 1).all (fun k => d.domState k == 1) = true → d.pwr.exitAfter = false →
        d.pwr.heldCmd = none →
      Completes .stateEntryDone s fun e => e.pwrState = 1 ∧ e.get F.PWR_STATE_PENDING = 15 ∧ e.raised Ev.FALLOW_ENTER = true) ∧
    (d.entryDowns = false ∨ (entryDomains d.pwr.target).all (fun k => d.domState k == 1) = false → exec .stateEntryDone s = .next s)

/-- Wake sources, the VIGIL sampler, and the release and expiry of writes that the guard holds (R61, R88, R89, R354, R356, R361, R362,
R365). A source that WAKE_EN does not enable latches nothing, FALLOW_FAIL apart. An enabled one sets its pending bit and raises WAKE; in
FALLOW, VIGIL and DORMANT it starts the exit and records itself with the time, during an entry into VIGIL or DORMANT it is kept for its end,
and in a wall it does no more. The AUX-less wake signal and AUX activity act as sources 1+p and 3+p. A VIGIL cycle counts consecutive
crossings, wakes at the second, records its readings and drives the heater with 3 °C hysteresis. Held writes proceed when their range is
free, and end with the GUARD error after GUARD_WAIT periods. -/
def Obligations.WakesAndHeldWrites : Prop :=
  ∀ s : State, let d := s.dev
    (∀ (src : BitVec 4) (detail : Byte), src.toNat = 0 ∨ src.toNat = 15 ∨ (src.toNat ≠ 14 ∧
        bit (d.get F.WAKE_EN_SRC) (src.toNat - 1) = false) →
      exec (.wakeSource src detail) s = .next s) ∧
    (∀ (src : BitVec 4) (detail : Byte), 1 ≤ src.toNat → src.toNat ≤ 14 →
        src.toNat = 14 ∨ bit (d.get F.WAKE_EN_SRC) (src.toNat - 1) = true →
      (d.inWall = true ∨ d.pwrState = 0 ∨ 5 ≤ d.pwrState → Completes (.wakeSource src detail) s fun e =>
        bit (e.get F.WAKE_PENDING_SRC) (src.toNat - 1) = true ∧ e.raised Ev.WAKE = true ∧
        Keeps d e [.log] (wordOf R.WAKE_PENDING :: eventWords Ev.WAKE)) ∧
      (d.inWall = false → 1 ≤ d.pwrState → d.pwrState ≤ 3 → Completes (.wakeSource src detail) s fun e =>
        e.pwrState = 5 ∧ e.pwr.origin = d.pwrState ∧ e.get F.LAST_WAKE_SRC = src.toNat ∧ e.get F.LAST_WAKE_DETAIL = detail.toNat ∧
        e.get F.LAST_WAKE_SEC_SEC = d.get F.CAL_SEC_SEC ∧ e.get F.LAST_WAKE_SUB_SUB = d.get F.CAL_SUB_SUB ∧
        bit (e.get F.WAKE_PENDING_SRC) (src.toNat - 1) = true ∧ e.raised Ev.WAKE = true ∧
        (d.pwrState = 1 → d.domState domCORR = 1 → e.domState domCORR = 3) ∧
        (2 ≤ d.pwrState → ∃ v, e.vreq 0 = some v ∧ v.target = 1 ∧ v.why = .exit)) ∧
      (d.inWall = false → d.pwrState = 4 → d.pwr.target ≠ 1 → d.pwr.exitAfter = false → Completes (.wakeSource src detail) s fun e =>
        e.pwrState = 4 ∧ e.pwr.exitAfter = true ∧ e.pwr.exitSrc = (src.toNat, detail.toNat))) ∧
    (∀ p : Fin 2, (d.portEnabled p = false → exec (.alpmWake p) s = .next s) ∧
      (d.portEnabled p = true → Completes (.alpmWake p) s fun e =>
        e.on F.RX_PORT_STATUS_ALPM_SLEEP p = false ∧ e.raised Ev.ALPM_WAKE p = true ∧
        (bit (d.get F.WAKE_EN_SRC) p = true → bit (e.get F.WAKE_PENDING_SRC) p = true))) ∧
    (∀ p : Fin 2, Completes (.auxWake p) s fun e => e.on F.RX_PORT_STATUS_SOURCE_PRESENT p = true ∧
      (d.portEnabled p = true → d.on F.RX_MODE_AUX_WAKE_EN = true → bit (d.get F.WAKE_EN_SRC) (2 + p) = true →
          bit (e.get F.WAKE_PENDING_SRC) (2 + p) = true) ∧
      (d.portEnabled p = false ∨ d.on F.RX_MODE_AUX_WAKE_EN = false ∨ bit (d.get F.WAKE_EN_SRC) (2 + p) = false →
        Keeps d e [] [wordOf R.RX_PORT_STATUS p])) ∧
    (∀ raw panel amb, d.pwrState ≠ 2 → exec (.vigilTick raw panel amb) s = .next s) ∧
    (∀ (raw : List (BitVec 16)) (t : BitVec 8) (amb : BitVec 16), d.pwrState = 2 → Completes (.vigilTick raw (some t) (some amb)) s fun e =>
      let hot := bit (d.get F.VIGIL_CFG_THR_EN) 0 = true ∧ d.getS F.VIGIL_TEMP_PANEL_HI < t.toInt
      let bright := bit (d.get F.VIGIL_CFG_THR_EN) 3 = true ∧ d.get F.VIGIL_AMB_AMB_HI < amb.toNat
      e.get F.VIGIL_LAST_PANEL = t.toNat ∧ e.get F.VIGIL_LAST_AMB = amb.toNat ∧ nth e.pwr.sensorFails 0 = 0 ∧ nth e.pwr.sensorFails 1 = 0 ∧
      nth e.pwr.crossings 0 = (if hot then min 2 (nth d.pwr.crossings 0 + 1) else 0) ∧
      nth e.pwr.crossings 3 = (if bright then min 2 (nth d.pwr.crossings 3 + 1) else 0) ∧
      (hot → 1 ≤ nth d.pwr.crossings 0 → bit (d.get F.WAKE_EN_SRC) 6 = true → d.inWall = false →
        e.pwrState = 5 ∧ e.get F.LAST_WAKE_SRC = 7 ∧ e.get F.LAST_WAKE_DETAIL = 0 ∧ e.raised Ev.WAKE = true) ∧
      (d.on F.VIGIL_CFG_HEAT_EN = true → (t.toInt < d.getS F.VIGIL_TEMP_HEAT_ON → e.pwr.heaterOn = true) ∧
        (d.getS F.VIGIL_TEMP_HEAT_ON + 3 ≤ t.toInt → e.pwr.heaterOn = false) ∧
        (d.getS F.VIGIL_TEMP_HEAT_ON ≤ t.toInt → t.toInt < d.getS F.VIGIL_TEMP_HEAT_ON + 3 → e.pwr.heaterOn = d.pwr.heaterOn)) ∧
      (d.on F.VIGIL_CFG_HEAT_EN = false → e.pwr.heaterOn = d.pwr.heaterOn)) ∧
    (∀ raw : List (BitVec 16), d.pwrState = 2 → Completes (.vigilTick raw none none) s fun e =>
      nth e.pwr.sensorFails 0 = nth d.pwr.sensorFails 0 + 1 ∧ e.get F.VIGIL_LAST_PANEL = d.get F.VIGIL_LAST_PANEL ∧
      (2 ≤ nth d.pwr.sensorFails 0 → bit (d.get F.WAKE_EN_SRC) 9 = true → bit (e.get F.WAKE_PENDING_SRC) 9 = true)) ∧
    ((d.held.all fun h => h.todo.any fun c => d.guarded c.addr c.bytes.length) = true →
        (d.held.all fun h => decide (h.todo.length = 1)) = true →
      Completes .guardRelease s fun e => e.held = d.held ∧ Keeps d e [] [wordOf R.GUARD_CTRL]) ∧
    (∀ h c p, d.held = [h] → h.owner = .plain p → h.todo = [c] → d.guarded c.addr c.bytes.length = false →
      d.overQuota p = false → d.chRoom (dramChannel c.addr) (d.plainReq c p) = true → Completes .guardRelease s fun e =>
        e.held = [] ∧ e.get F.GUARD_CTRL_HELD_NOW = 0 ∧ e.dram.queue = d.dram.queue ++ [(dramChannel c.addr, d.plainReq c p)]) ∧
    ((d.held.all fun h => decide (h.waited < d.guardWait)) = true → Completes .guardExpire s fun e =>
      e.held = d.held ∧ Keeps d e [] [wordOf R.GUARD_CTRL]) ∧
    (∀ h c p, d.held = [h] → h.owner = .plain p → h.todo = [c] → d.guarded c.addr c.bytes.length = true → d.guardWait ≤ h.waited →
      Completes .guardExpire s fun e => e.held = [] ∧ e.get F.GUARD_CTRL_HELD_NOW = 0 ∧ e.raised Ev.GUARD_EXPIRE = true ∧
        e.dram.resp = some ⟨p, c.addr, .guard, []⟩ ∧ e.dram.mem = d.dram.mem ∧ e.dram.queue = d.dram.queue ∧
        Keeps d e [.held, .dram, .log] (wordOf R.GUARD_CTRL :: eventWords Ev.GUARD_EXPIRE))

/-- The input links: training, loss of lock, port failure, HPD and its pulses, the source's presence, replay and sleep (R41, R42, R43, R44,
R45, R46, R59, R60, R62). A lane that locks sets its DPCD bits; the last one of a training sets TRAINED. A lost lane counts an error, and
one regained in time leaves the port up. The LANE_EQ phase of 128b/132b sets no SYMBOL_LOCKED. PORT_FAIL, with a lane lost, also on a failed
port that has been trained again, clears TRAINED and the lock bits, raises LINK_DOWN, asks for an IRQ_HPD and abandons the input frame; a
resume time-out does the same. HPD is low in a pulse and in a rediscovery and otherwise at its steady level. The presence and sleep commands
write their status bit; Panel Replay starts only on a port that is up. -/
def Obligations.InputLinks : Prop :=
  ∀ (s : State) (p : Fin 2) (l : Fin 4), let d := s.dev
    let q := d.port p
    (∀ ph : TrainPhase, Completes (.laneLock p l ph) s fun e =>
      (ph = .clockRecovery → l.val ∈ (e.port p).cr) ∧ (ph = .channelEq → l.val ∈ (e.port p).eq ∧ l.val ∈ (e.port p).sym) ∧
      (ph = .laneEq → l.val ∈ (e.port p).eq ∧ (e.port p).sym = q.sym) ∧
      (ph = .cds → (e.port p).cds = (List.range (d.laneCount p)).all q.eq.contains) ∧ e.port (1 - p) = d.port (1 - p) ∧
      (q.failed = false → q.trainedNow = false → (e.port p).trainedNow = true → e.on F.RX_PORT_STATUS_TRAINED p = true) ∧
      (d.on F.RX_PORT_STATUS_CODING p = false → q.trainedNow = false → ((e.port p).trainedNow = true ↔
        (∀ k < d.laneCount p, k ∈ (e.port p).cr ∧ k ∈ (e.port p).eq ∧ k ∈ (e.port p).sym) ∧ (e.port p).aligned = true)) ∧
      Keeps d e [.rx, .cal] [wordOf R.RX_PORT_STATUS p]) ∧
    (∀ (ph : TrainPhase) (best : List Byte), Completes (.trainBoundExpire p ph best) s fun e =>
      e.port p = { q with adjust := best } ∧ e.port (1 - p) = d.port (1 - p) ∧ Keeps d e [.rx] []) ∧
    (q.trainedNow = true → Completes (.laneLockLost p l) s fun e =>
      l.val ∈ (e.port p).lost ∧ (e.port p).errors = q.errors + 1 ∧ (e.port p).sym = q.sym ∧ e.port (1 - p) = d.port (1 - p) ∧
          Keeps d e [.rx] []) ∧
    (q.trainedNow = false → exec (.laneLockLost p l) s = .next s) ∧
    (q.failed = false ∨ q.trainedNow = true → Completes (.laneLockRegained p l) s fun e =>
      l.val ∉ (e.port p).lost ∧ (e.port p).errors = q.errors ∧ e.port (1 - p) = d.port (1 - p) ∧ Keeps d e [.rx] []) ∧
    (q.failed = true → q.trainedNow = false → exec (.laneLockRegained p l) s = .next s) ∧
    (q.lost = [] ∨ (q.failed = true ∧ q.trainedNow = false) → exec (.portFail p) s = .next s) ∧
    (∀ c ∈ [Instr.portFail p, .resumeLockTimeout p l], (c = .portFail p → q.lost ≠ []) → q.failed = false ∨ q.trainedNow = true →
        Completes c s fun e =>
      e.on F.RX_PORT_STATUS_TRAINED p = false ∧ e.raised Ev.LINK_DOWN p = true ∧ (e.port p).failed = true ∧ (e.port p).aligned = false ∧
      (e.port p).up = false ∧ (e.port p).trainedNow = false ∧ (d.on F.RX_PORT_STATUS_HPD_LEVEL p = true → (e.port p).irqWait = true) ∧
          (∀ k ∈ (e.port p).lost, k ∉ (e.port p).sym ∧ k ∉ (e.port p).cr) ∧
      (e.port p).half = (if d.portMode = 2 then q.half.abandon else .idle) ∧ (d.portMode = 3 → e.on F.RX_PORT_STATUS_HEALTHY p = false)) ∧
    (q.irqWait = true → d.on F.RX_PORT_STATUS_HPD_LEVEL p = true → Completes (.irqHpd p) s fun e =>
      (e.port p).irqWait = false ∧ (e.port p).pulse = true ∧ e.on F.RX_PORT_STATUS_HPD_LEVEL p = false ∧
          Keeps d e [.rx] [wordOf R.RX_PORT_STATUS p]) ∧
    (q.irqWait = false ∨ d.on F.RX_PORT_STATUS_HPD_LEVEL p = false → exec (.irqHpd p) s = .next s) ∧
    (Completes (.irqHpdEnd p) s fun e => e.port p = { q with pulse := false } ∧ e.on F.RX_PORT_STATUS_HPD_LEVEL p = d.hpdSteady p ∧
      e.port (1 - p) = d.port (1 - p) ∧ Keeps d e [.rx] [wordOf R.RX_PORT_STATUS p]) ∧
    (Completes (.hpdRediscover p) s fun e => e.on F.RX_PORT_STATUS_HPD_LEVEL p = false ∧ e.on F.RX_PORT_STATUS_HEALTHY p = false ∧
      e.port p = { q with rediscover := true, pulse := false } ∧
          Keeps d e [.rx, .log] (wordOf R.RX_PORT_STATUS p :: eventWords Ev.STANDBY_LOSS)) ∧
    (Completes (.hpdRediscoverEnd p) s fun e => e.port p = { q with rediscover := false } ∧
      e.on F.RX_PORT_STATUS_HPD_LEVEL p = (e.hpdSteady p && !q.pulse) ∧
          Keeps d e [.rx, .log] (wordOf R.RX_PORT_STATUS p :: eventWords Ev.LINK_UP)) ∧
    (Completes (.sourceAbsent p) s fun e => e.on F.RX_PORT_STATUS_SOURCE_PRESENT p = false ∧ Keeps d e [] [wordOf R.RX_PORT_STATUS p]) ∧
    (Completes (.signalDetect p) s fun e => e.on F.RX_PORT_STATUS_SOURCE_PRESENT p = true ∧ Keeps d e [] [wordOf R.RX_PORT_STATUS p]) ∧
    (Completes (.alpmSleepEntry p) s fun e => e.on F.RX_PORT_STATUS_ALPM_SLEEP p = true ∧
      e.on F.RX_PORT_STATUS_PR_ACTIVE p = d.on F.RX_PORT_STATUS_PR_ACTIVE p ∧ Keeps d e [] [wordOf R.RX_PORT_STATUS p]) ∧
    (q.up = true → d.on F.RX_PORT_STATUS_PR_ACTIVE p = false → Completes (.prEntry p) s fun e =>
      e.on F.RX_PORT_STATUS_PR_ACTIVE p = true ∧ e.raised Ev.PR_ENTRY p = true ∧
          Keeps d e [.rx, .log] (wordOf R.RX_PORT_STATUS p :: eventWords Ev.PR_ENTRY)) ∧
    (q.up = false ∨ d.on F.RX_PORT_STATUS_PR_ACTIVE p = true → exec (.prEntry p) s = .next s)

/-- Stream attributes, compressed-stream parameters and AUX transactions (R39, R46, R48, R55, R56, R58, R61, R63, R64, R475). An MSA on a
trained port makes it up, raises LINK_UP the first time, and is accepted exactly when it matches the configured timing, fits the limits and
has an encoding of Table 2.2; a differing or too fast one raises MSA_MISMATCH. The first accepted stream becomes the reference. A PPS beyond
its limits raises DSC_ERROR and counts as an error of its frame; a stream that its PPS makes too fast is refused and its frame ends (the
moment of that judgement is the model's: log entry 76). On an awake port a native AUX read answers the addressed bytes, an I2C read at 0x50
those of the EDID and moves the pointer, an I2C write elsewhere is answered NACK; on a sleeping one the transaction is deferred, and its
domain wakes when the port is enabled and AUX_WAKE_EN is 1. -/
def Obligations.InputStreams : Prop :=
  ∀ (s : State) (p : Fin 2), let d := s.dev
    let q := d.port p
    (∀ m : Msa, (q.trainedNow = false → exec (.msaReceived p m) s = .next s) ∧
      (q.trainedNow = true → Completes (.msaReceived p m) s fun e =>
        let ok := !d.msaDiffers m && !d.totalsDiffer m && !d.msaTooFast p m && msaEncodingOk m
        (e.port p).msa = some m ∧ (e.port p).up = true ∧ (e.port p).failed = false ∧ (e.port p).accepted = ok ∧
        (e.port p).msaBad = d.msaDiffers m ∧ (q.up = false → e.raised Ev.LINK_UP p = true) ∧ e.on F.RX_PORT_STATUS_TRAINED p = true ∧
        (d.msaDiffers m = true ∨ d.totalsDiffer m = true ∨ d.msaTooFast p m = true → e.raised Ev.MSA_MISMATCH p = true) ∧
        (ok = true → d.rx.ref = none → d.portEnabled p = true → e.rx.ref = some m) ∧ (∀ r, d.rx.ref = some r → e.rx.ref = some r))) ∧
    (∀ x : Pps, Completes (.ppsReceived p x) s fun e =>
      let f := d.setPort p fun s => { s with pps := some x }
      (e.port p).pps = some x ∧ (e.port p).ppsBad = !d.ppsOk p x ∧
          (e.port p).accepted = (q.up && q.msa.any fun m => !f.msaRefused p m && msaEncodingOk m) ∧
      (d.ppsOk p x = false → e.raised Ev.DSC_ERROR p = true ∧ (e.port p).dscRun = q.dscRun + 1) ∧
      (d.ppsOk p x = true → (e.port p).dscRun = q.dscRun) ∧ (d.portMode ≠ 2 → e.port (1 - p) = d.port (1 - p)) ∧
          Keeps d e [.log, .rx] [wordOf R.LOG_STATUS, arrayOf R.RING_STATUS, wordOf R.RX_EVENT, arrayOf R.RX_PORT_STATUS]) ∧
    (∀ x : Pps, q.up = true → q.accepted = true → q.msa.any ((d.setPort p fun s => { s with pps := some x }).msaRefused p) = true →
      Completes (.ppsReceived p x) s fun e => e.raised Ev.MSA_MISMATCH p = true ∧ (e.port p).accepted = false ∧
          e.on F.RING_STATUS_WRITING (d.ringOf p) = false) ∧
    (∀ r : AuxReq, d.domOn (domRXA + p) = false → Completes (.auxTransaction p r) s fun e =>
      (e.port p).reply = .defer ∧ e.on F.RX_PORT_STATUS_SOURCE_PRESENT p = true ∧
      (d.domState (domRXA + p) = 1 → e.domState (domRXA + p) = if d.portEnabled p ∧ d.on F.RX_MODE_AUX_WAKE_EN = true then 3 else 1) ∧
          (e.port p).dpcd = q.dpcd ∧
      Keeps d e [.rx, .pwr] [wordOf R.RX_PORT_STATUS p, wordOf R.DOM_STATUS (domRXA + p)]) ∧
    (∀ (a : BitVec 20) (n : Fin 17), d.domOn (domRXA + p) = true → Completes (.auxTransaction p (.read a n)) s fun e =>
      (e.port p).reply = .data ((List.range n.val).map fun i => (d.put F.RX_PORT_STATUS_SOURCE_PRESENT 1 p).dpcdByte p (a.toNat + i)) ∧
      (a.toNat ≤ 0x204 → 0x204 < a.toNat + n.val → (e.port p).updated = false) ∧ (e.port p).dpcd = q.dpcd ∧
          Keeps d e [.rx] [wordOf R.RX_PORT_STATUS p]) ∧
    (∀ n : Fin 17, d.domOn (domRXA + p) = true → Completes (.auxTransaction p (.i2cRead 0x50 n)) s fun e =>
      (e.port p).reply = .data ((List.range n.val).map fun i => (d.rx.edid[256 * q.edidSeg + q.edidPtr + i]?).getD 0) ∧
      (e.port p).edidPtr = (q.edidPtr + n.val) % 256 ∧ Keeps d e [.rx] [wordOf R.RX_PORT_STATUS p]) ∧
    (∀ (b : Byte) (bs : List Byte), d.domOn (domRXA + p) = true → Completes (.auxTransaction p (.i2cWrite 0x50 (b :: bs))) s fun e =>
      (e.port p).reply = .ack ∧ (e.port p).edidPtr = b.toNat ∧ (e.port p).edidSeg = q.edidSeg ∧
          Keeps d e [.rx] [wordOf R.RX_PORT_STATUS p]) ∧
    (∀ (a : BitVec 7) (bs : List Byte), a ≠ 0x50 → a ≠ 0x30 → d.domOn (domRXA + p) = true →
        Completes (.auxTransaction p (.i2cWrite a bs)) s fun e =>
      (e.port p).reply = .nack ∧ (e.port p).edidPtr = q.edidPtr ∧ Keeps d e [.rx] [wordOf R.RX_PORT_STATUS p]) ∧
    (∀ b : Byte, d.domOn (domRXA + p) = true → Completes (.auxTransaction p (.write 0x600 [b])) s fun e =>
      (e.port p).reply = .ack ∧ e.dpcdByte p 0x600 = b ∧ (e.port p).d3 = (b.toNat % 8 == 2 || b.toNat % 8 == 5) ∧
      (∀ a, a ≠ 0x600 → Memory.get (e.port p).dpcd a = Memory.get q.dpcd a) ∧ Keeps d e [.rx, .dpcd] [wordOf R.RX_PORT_STATUS p])

/-- Input frames: start, completion, loss, the pairing of split halves, standby time-out, and the stops of a live input (R15, R16, R17, R49,
R50, R51, R52, R57, R79, R84). A frame of a port that accepts none changes nothing. A started frame takes a buffer of its port's ring; a
complete one becomes LATEST and counts, in split mode only when both halves are complete; an incomplete one gives its buffer back. Halves
more than the bound apart, and a half without a partner, raise SPLIT_SKEW. A DSC error raises its event and abandons the frame; in hot
standby a time-out or two frames in error make the port unhealthy. In pass-through at level 0 a stop, once a frame, raises INPUT_LOSS with
its line and drop cause 9, and the rest of the frame comes from the ring. A VRR trigger releases the hold, a time-out repeats the frame. -/
def Obligations.InputFrames : Prop :=
  ∀ (s : State) (p : Fin 2), let d := s.dev
    let q := d.port p
    let r := d.ringOf p
    (∀ apart us, d.acceptsFrames p = false → exec (.inputFrameStart p apart) s = .next s ∧ exec (.inputFrameComplete p us) s = .next s) ∧
    (∀ apart, d.acceptsFrames p = true → d.portMode ≠ 2 → Completes (.inputFrameStart p apart) s fun e =>
      (d.on F.RING_STATUS_WRITING r = true → e.get F.RING_STATUS_WRITE_BUF r = d.get F.RING_STATUS_WRITE_BUF r) ∧
      (d.on F.RING_STATUS_WRITING r = false → ∀ b, (d.ringFree r).head? = some b → e.get F.RING_STATUS_WRITE_BUF r = b) ∧
      (d.on F.RING_STATUS_WRITING r = false → d.ringFree r = [] → d.on F.RING_STATUS_PREV_VALID r = true →
        e.get F.RING_STATUS_WRITE_BUF r = d.get F.RING_STATUS_PREV_BUF r ∧ e.on F.RING_STATUS_PREV_VALID r = false) ∧
      (d.ringFree r ≠ [] → e.on F.RING_STATUS_WRITING r = true) ∧ (e.port p).dscBad = false ∧
      (e.port p).dscRun = (if q.dscBad then q.dscRun else 0) ∧ e.port (1 - p) = d.port (1 - p)) ∧
    (∀ apart, d.acceptsFrames p = true → d.portMode = 2 → q.half = .idle ∨ q.half = .dropped → (d.port (1 - p)).half = .waiting →
      (apart ≤ d.pairLines → Completes (.inputFrameStart p apart) s fun e => (e.port p).half = .paired ∧ (e.port (1 - p)).half = .paired) ∧
      (d.pairLines < apart → Completes (.inputFrameStart p apart) s fun e => (e.port (1 - p)).half = .dropped ∧
          e.raised Ev.SPLIT_SKEW = true ∧
        (e.port p).half = (if d.buffered then .waiting else .dropped))) ∧
    (∀ apart, d.acceptsFrames p = true → d.portMode = 2 → q.half.unpaired = true → (d.port (1 - p)).half.unpaired = false →
      Completes (.inputFrameStart p apart) s fun e => e.raised Ev.SPLIT_SKEW = true) ∧
    (∀ us, d.acceptsFrames p = true → d.portMode ≠ 2 → q.dscBad = false → d.on F.RING_STATUS_WRITING r = true →
        Completes (.inputFrameComplete p us) s fun e =>
      e.get F.RX_PORT_STATUS_FRAMES p = (d.get F.RX_PORT_STATUS_FRAMES p + 1) % 2 ^ (F.RX_PORT_STATUS_FRAMES.hi + 1 - F.RX_PORT_STATUS_FRAMES.lo) ∧
      e.on F.RING_STATUS_LATEST_VALID r = true ∧ e.on F.RING_STATUS_WRITING r = false ∧ (e.port p).age = some (-(us : Int)) ∧
          (e.port p).noFrame = false) ∧
    (∀ us, d.acceptsFrames p = true → d.portMode = 2 → q.dscBad = false → q.half = .waiting ∨ (q.half = .paired ∧
        (d.port (1 - p)).half ≠ .complete) →
      Completes (.inputFrameComplete p us) s fun e => (e.port p).half = (if q.half = .waiting then .alone else .complete) ∧
        e.on F.RING_STATUS_WRITING r = d.on F.RING_STATUS_WRITING r ∧ e.get F.RING_STATUS_LATEST_BUF r = d.get F.RING_STATUS_LATEST_BUF r ∧
        Keeps d e [.rx] [wordOf R.RX_PORT_STATUS p]) ∧
    (∀ us, d.acceptsFrames p = true → d.portMode = 2 → q.dscBad = false → d.on F.RING_STATUS_WRITING r = true → q.half = .paired →
        (d.port (1 - p)).half = .complete →
      Completes (.inputFrameComplete p us) s fun e => (e.port 0).half = .idle ∧ (e.port 1).half = .idle ∧
          e.on F.RING_STATUS_LATEST_VALID r = true ∧
        e.get F.RING_STATUS_LATEST_BUF r = d.get F.RING_STATUS_WRITE_BUF r ∧ e.on F.RING_STATUS_WRITING r = false) ∧
    (∀ us, d.portMode = 2 → q.half = .idle ∨ q.half = .dropped ∨ q.half = .alone → exec (.inputFrameComplete p us) s = .next s) ∧
    (Completes (.inputFrameIncomplete p) s fun e =>
      e.on F.RING_STATUS_WRITING r = false ∧ e.on F.RING_STATUS_LATEST_VALID r = d.on F.RING_STATUS_LATEST_VALID r ∧
      (d.portMode ≠ 2 → (e.port p).half = .idle) ∧ (d.portMode = 2 → (e.port p).half = q.half.abandon ∧
          (e.port (1 - p)).half = (d.port (1 - p)).half.abandon) ∧
      (e.port p).prErr = (if d.on F.RX_PORT_STATUS_PR_ACTIVE p then q.prErr ||| 2 else q.prErr) ∧ e.rx.ref = d.rx.ref ∧ e.log = d.log) ∧
    (d.portMode = 3 → Completes (.standbyFrameTimeout p) s fun e =>
      (e.port p).noFrame = true ∧ e.on F.RX_PORT_STATUS_HEALTHY p = false ∧ (d.on F.RX_PORT_STATUS_HEALTHY p = true → p.val ≠ d.activePort →
          e.raised Ev.STANDBY_LOSS = true) ∧
      Keeps d e [.rx, .log] (wordOf R.RX_PORT_STATUS p :: eventWords Ev.STANDBY_LOSS)) ∧
    (d.portMode ≠ 3 → exec (.standbyFrameTimeout p) s = .next s) ∧
    (∀ line : BitVec 13, Completes (.dscError p line) s fun e =>
      e.raised Ev.DSC_ERROR p = true ∧ (e.port p).dscBad = true ∧ (e.port p).dscRun = (if q.dscBad then q.dscRun else q.dscRun + 1) ∧
      (1 ≤ q.dscRun → q.dscBad = false → e.on F.RX_PORT_STATUS_HEALTHY p = false) ∧
      (d.buffered = false → d.portMode = 2 ∨ p.val = d.activePort →
        e.scan.stopLine = some (match d.scan.stopLine with | some l => min l line.toNat | none => line.toNat)) ∧
      e.scan.stopped = d.scan.stopped) ∧
    (∀ line : BitVec 13, d.buffered = true ∨ d.level ≠ 0 ∨ d.on F.RX_PORT_STATUS_PR_ACTIVE d.activePort = true ∨ d.scan.stopped = true →
      exec (.inputStop line) s = .next s) ∧
    (∀ line : BitVec 13, d.buffered = false → d.level = 0 → d.on F.RX_PORT_STATUS_PR_ACTIVE d.activePort = false → d.scan.stopped = false →
      Completes (.inputStop line) s fun e => e.raised Ev.INPUT_LOSS = true ∧ e.scan.lossLine = line.toNat ∧ e.scan.stopped = true ∧
          e.level = 0 ∧
        e.scan.stopLine = some (match d.scan.stopLine with | some l => min l line.toNat | none => line.toNat) ∧ 9 ∈ e.scan.causes ∧
        Keeps d e [.scan, .log] (eventWords Ev.INPUT_LOSS)) ∧
    (Completes .vrrTrigger s fun e => e.scan = { d.scan with vrrHold := false } ∧ Keeps d e [.scan] []) ∧
    (d.scan.vrrHold = true → Completes .vrrTimeout s fun e => e.scan = { d.scan with vrrHold := false, stopLine := some 0 } ∧
        Keeps d e [.scan] []) ∧
    (d.scan.vrrHold = false → exec .vrrTimeout s = .next s)

/-- The latch point and the committed set: the frame counter, a set that applies whole or is refused whole (R19, R22, R24, R27, R30, R75,
R82, R86, R99, R335, R354, R433, R434, R435). COMMIT leaves a set pending for the next frame, unless an acknowledged Equinox set runs. A
latch point of a running raster advances FRAME_COUNT, by one or by the wall's step, shows the latch line, begins a drive phase and raises
LATCH; a step leaves its excess to the frames that follow. A pending set that passes its checks is in force whole, with COMMIT_APPLIED; one
that fails raises the event of every failed check and leaves the values in force. A raster that does not run, or has lost its composer, sees
no latch point. STAT_WRITE_DONE writes the last row's records and clears LAST_ROW_BUSY. -/
def Obligations.LatchAndCommit : Prop :=
  ∀ s : State, let d := s.dev
    (d.reaches domCOMP (R.FSEQ_COMMIT.at 0) = true → d.eqxHolds = false → Completes .commit s fun e =>
      e.on F.FSEQ_STATUS_COMMIT_PENDING = true ∧ e.get F.FSEQ_COMMIT_TARGET_TARGET = d.latchFrame % 2 ^ 32 ∧
      Keeps d e [] [wordOf R.FSEQ_STATUS, wordOf R.FSEQ_COMMIT_TARGET]) ∧
    (d.reaches domCOMP (R.FSEQ_COMMIT.at 0) = true → d.eqxHolds = true → OnlyRaises .commit s Ev.EQX_BUSY) ∧
    (∀ ns, d.rasterRuns = false ∨ d.scan.compLost = true → Completes (.latchPoint ns) s fun e =>
      e.get F.FRAME_COUNT_FRAME = d.get F.FRAME_COUNT_FRAME ∧ e.scan = d.scan ∧ e.active = d.active) ∧
    (∀ ns, d.rasterRuns = true → d.scan.compLost = false → Completes (.latchPoint ns) s fun e =>
      let n := (d.get F.FRAME_COUNT_FRAME + 1 + (d.wall.step.map (·.1)).getD 0) % 2 ^ 32
      n = d.latchFrame % 2 ^ 32 ∧ e.get F.FRAME_COUNT_FRAME = n ∧ e.on F.FSEQ_STATUS_COMMIT_PENDING = false ∧ e.raised Ev.LATCH = true ∧
      e.get F.HIST_STATUS_PHASE = n % 4 ∧ e.get F.SCAN_POS_LINE = d.latchPos % 2 ^ 15 ∧ e.on F.FSEQ_STATUS_IN_BLANK = true ∧
          e.bl.frameNs = (if d.bl.latched then ns else 0) ∧
      e.wall.step = none ∧ e.wall.stretch + e.wall.stretchLeft = (d.wall.step.map (·.2)).getD d.wall.stretchLeft ∧
          (d.wall.step.isSome = true → e.raised Ev.WALL_FRAME_STEP = true)) ∧
    (∀ ns, d.rasterRuns = true → d.scan.compLost = false → d.on F.FSEQ_STATUS_COMMIT_PENDING = true →
      ((d.latchBefore ns).put F.FSEQ_STATUS_COMMIT_PENDING 0).failedChecks = [] → Completes (.latchPoint ns) s fun e =>
        e.raised Ev.COMMIT_APPLIED = true ∧ (∀ f ∈ [F.RASTER_H_H_TOTAL, F.RASTER_H_H_ACTIVE, F.RASTER_V_V_TOTAL, F.RASTER_V_V_ACTIVE,
            F.PIPE_CLK_FREQ,
          F.RX_MODE_PORT_MODE, F.STAT_CTRL_STAT_SRC, F.ZONE_GRID_ZONE_COLS], e.get f = d.getShadow f) ∧
        (∀ l : Fin 8, e.get F.LAYER_BASE_BASE l = d.getShadow F.LAYER_BASE_BASE l ∧
            e.get F.LAYER_CTRL_EN l = d.getShadow F.LAYER_CTRL_EN l)) ∧
    (∀ ns, d.rasterRuns = true → d.scan.compLost = false → d.on F.FSEQ_STATUS_COMMIT_PENDING = true →
      ((d.latchBefore ns).put F.FSEQ_STATUS_COMMIT_PENDING 0).failedChecks ≠ [] → Completes (.latchPoint ns) s fun e =>
        (∀ x ∈ ((d.latchBefore ns).put F.FSEQ_STATUS_COMMIT_PENDING 0).failedChecks, ∀ ev ∈ x, e.raised ev = true) ∧
        (∀ f ∈ [F.RASTER_H_H_TOTAL, F.RASTER_H_H_ACTIVE, F.RASTER_V_V_TOTAL, F.RASTER_V_V_ACTIVE, F.PIPE_CLK_FREQ,
          F.RX_MODE_PORT_MODE, F.STAT_CTRL_STAT_SRC, F.ZONE_GRID_ZONE_COLS], e.get f = d.get f) ∧
        (∀ l : Fin 8, e.get F.LAYER_BASE_BASE l = d.get F.LAYER_BASE_BASE l)) ∧
    (d.on F.STAT_STATUS_LAST_ROW_BUSY = true → (∀ r ∈ d.scan.statTail, d.lsPlain r.1 r.2.length = true) →
      (d.scan.statTail.map (·.1)).Pairwise (fun a b => a + 272 ≤ b ∨ b + 272 ≤ a) → (∀ r ∈ d.scan.statTail, r.2.length ≤ 272) →
      Completes .statWriteDone s fun e =>
        e.on F.STAT_STATUS_LAST_ROW_BUSY = false ∧ e.scan.statTail = [] ∧ (∀ r ∈ d.scan.statTail, e.lsPeek r.1 r.2.length = r.2)) ∧
    (d.on F.STAT_STATUS_LAST_ROW_BUSY = false → exec .statWriteDone s = .next s)

/-- Prefetch start, frame start, frame done, the reserve timer's frame and the loss of the composer's timing (R22, R38, R79, R85, R87, R90,
R99, R122, R123, R126, R131, R153, R356, R435, R436). Prefetch start clears the frame's underruns into LAST, takes a LATEST buffer for
scanning at level 0, chooses the seed and raises PREFETCH. Frame start begins line 0 and samples SAFE_COLOR, but waits while the lanes are
trained for a new clock; a capture frame clears FALLOW_VALID. Frame done retires every replaced buffer, swaps the history buffers after a
frame that ran overdrive, and raises FRAME_DONE; out of a frame it changes nothing. A frame of the reserve timer advances the counter, moves
the target of a pending commit, and runs no overdrive (the model's choice, log entry 75); a loss of the composer's timing drops a lit panel
to level 4. -/
def Obligations.FrameMoments : Prop :=
  ∀ s : State, let d := s.dev
    (∀ us, d.rasterRuns = false ∨ d.scan.compLost = true → exec (.prefetchStart us) s = .next s ∧ exec .frameStart s = .next s) ∧
    (d.retraining = true → exec .frameStart s = .next s) ∧
    (∀ us, d.rasterRuns = true → d.scan.compLost = false → Completes (.prefetchStart us) s fun e =>
      e.get F.SCAN_POS_LINE = max (d.prefetchLine % 2 ^ 15) (d.get F.SCAN_POS_LINE) ∧
      e.get F.UNDERRUN_STATUS_LAST = d.get F.UNDERRUN_STATUS_LAYERS ∧ e.get F.UNDERRUN_STATUS_LAYERS = 0 ∧
          e.on F.UNDERRUN_STATUS_DRAM_ERR = false ∧
      e.raised Ev.PREFETCH = true ∧ e.scan.odFrame = d.odRuns ∧ e.scan.seed = d.seedFor ∧ e.scan.histNext = 0 ∧ e.scan.segs = [] ∧
      (d.odRuns = true → e.get F.HIST_STATUS_SEED = d.seedFor ∧ (d.seedFor ≠ 0 → e.raised Ev.SEED = true)) ∧
      (d.portMode < 2 → d.scan.ringHeld = none → d.level = 0 → d.on F.RING_STATUS_LATEST_VALID d.activePort = true →
        e.get F.RING_STATUS_SCAN_BUF d.activePort = d.get F.RING_STATUS_LATEST_BUF d.activePort ∧
            e.on F.RING_STATUS_SCAN_VALID d.activePort = true ∧
        e.get F.RING_STATUS_PREV_BUF d.activePort = d.get F.RING_STATUS_SCAN_BUF d.activePort ∧
            e.on F.RING_STATUS_LATEST_VALID d.activePort = false)) ∧
    (d.rasterRuns = true → d.scan.compLost = false → d.retraining = false → Completes .frameStart s fun e =>
      e.get F.SCAN_POS_LINE = 0 ∧ e.on F.FSEQ_STATUS_IN_BLANK = false ∧ e.scan.inFrame = true ∧ e.scan.latched = false ∧
      e.scan.safe = ⟨d.get F.SAFE_COLOR_RG_RED, d.get F.SAFE_COLOR_RG_GREEN, d.get F.SAFE_COLOR_B_BLUE⟩ ∧
      (d.pwr.capturing = true → e.on F.COMP_CTRL_FALLOW_VALID = false) ∧ e.rx.relock = (if d.rx.relock = 1 then 0 else d.rx.relock)) ∧
    (d.scan.inFrame = false → Completes .frameDone s fun e => Keeps d e [] []) ∧
    (d.scan.inFrame = true → d.gate.firstDone = false → Completes .frameDone s fun e =>
      e.raised Ev.FRAME_DONE = true ∧ e.scan.inFrame = false ∧ e.retiring = [] ∧ e.get F.CLIP_COUNT_PIXELS = d.scan.clips % 2 ^ 32 ∧
      (∀ r ∈ d.retiring, r.layer < 8 → e.raised Ev.RETIRE r.layer = true) ∧
      (∀ r ∈ d.retiring, r.layer < 8 → (∀ x ∈ d.retiring, x.layer = r.layer → x = r) →
          e.get F.RETIRED_BASE_BASE r.layer = r.base / 64 % 2 ^ 32) ∧
      (d.scan.odFrame = true → e.get F.HIST_STATUS_WRITE_BUF = 1 - d.get F.HIST_STATUS_WRITE_BUF ∧
          e.scan.histOk = (d.scan.histNext == d.vActive * d.lineSegs)) ∧
      (d.scan.odFrame = false → e.get F.HIST_STATUS_WRITE_BUF = d.get F.HIST_STATUS_WRITE_BUF) ∧
      (1 ≤ d.scan.l0Under → bit (d.get F.UNDERRUN_STATUS_LAYERS) 0 = true → 2 ∈ e.scan.causes)) ∧
    (d.rasterRuns = true → d.scan.lit = true ∨ d.scan.compLost = true → Completes .reserveTimerFrame s fun e =>
      e.get F.FRAME_COUNT_FRAME = (d.get F.FRAME_COUNT_FRAME + 1) % 2 ^ 32 ∧ e.scan.reserve = true ∧ e.scan.inFrame = true ∧
          e.scan.odFrame = false ∧ e.bl.frameNs = (if d.bl.latched then (if d.scan.compLost then d.nominalNs else d.floorNs) else 0) ∧
      (d.on F.FSEQ_STATUS_COMMIT_PENDING = true → e.get F.FSEQ_COMMIT_TARGET_TARGET = e.latchFrame % 2 ^ 32) ∧
      e.get F.HIST_STATUS_PHASE = (d.get F.HIST_STATUS_PHASE + 1) % 4 ∧ (d.inFallow = false → e.level = d.firstLevel d.level)) ∧
    (d.rasterRuns = false ∨ (d.scan.lit = false ∧ d.scan.compLost = false) → exec .reserveTimerFrame s = .next s) ∧
    (d.rasterRuns = true → d.scan.compLost = false → Completes .compTimingLoss s fun e =>
      e.scan.compLost = true ∧ e.get F.LADDER_STATUS_AVAIL = 16 ∧
      (d.scan.lit = true → d.level < 4 → e.level = 4 ∧ e.get F.LADDER_STATUS_CAUSE = 7 ∧ e.raised Ev.LADDER_DROP = true)) ∧
    (d.scan.compLost = true ∨ d.rasterRuns = false → exec .compTimingLoss s = .next s)

/-- Lines and blocks: line start, underruns, and the blocks that the fixed path fetches and writes (R16, R90, R92, R110, R122, R148, R167,
R168, R170, R171, R172, R174, R356). A line start shows its line; the first blanking line raises SOB and takes the lanes' swing, the matched
line LINE_MATCH. An underrun sets the layer's bit, records the frame's first line and counts the frame once; a layer that is off changes
nothing. A ring block that passes its check gives its samples; a failing one is counted in BG where no previous frame can stand in. An
encoder writes a good exact block to its slot with the length-table entry, and out of the active area nothing. -/
def Obligations.LinesAndBlocks : Prop :=
  ∀ s : State, let d := s.dev
    (∀ line : BitVec 15, d.pwrState = 0 → Completes (.lineStart line none) s fun e =>
      e.get F.SCAN_POS_LINE = line.toNat ∧ e.on F.SCAN_POS_HOLD = d.holds line.toNat ∧
          e.get F.FRAME_COUNT_FRAME = d.get F.FRAME_COUNT_FRAME ∧
      (line.toNat = d.vActive → e.raised Ev.SOB = true ∧ e.on F.FSEQ_STATUS_IN_BLANK = true ∧
        ∀ l : Fin 48, assoc l.val e.col.eq = some (d.rd R.COL_LANE l % 64)) ∧
      (d.on F.LINE_MATCH_MATCH_EN = true → d.get F.LINE_MATCH_MATCH_LINE = line.toNat → d.holds line.toNat = false →
          Once.lineMatch ∉ d.scan.seen →
        e.raised Ev.LINE_MATCH = true) ∧
      (line.toNat < d.vActive → e.scan.line = line.toNat ∧ e.scan.out.length = d.hActive)) ∧
    (∀ (l : Fin 8) (line : BitVec 13) (x : BitVec 14), (d.layer l).en = false ∨ d.layerOff l line.toNat x.toNat = true →
      exec (.underrun l line x) s = .next s) ∧
    (∀ (l : Fin 8) (line : BitVec 13) (x : BitVec 14), (d.layer l).en = true → d.layerOff l line.toNat x.toNat = false →
        Completes (.underrun l line x) s fun e =>
      bit (e.get F.UNDERRUN_STATUS_LAYERS) l = true ∧ e.layerOff l line.toNat x.toNat = true ∧
      (d.get F.UNDERRUN_STATUS_LAYERS = 0 → e.get F.UNDERRUN_STATUS_FIRST_LINE = line.toNat ∧
        e.get F.UNDERRUN_FRAMES_COUNT = (d.get F.UNDERRUN_FRAMES_COUNT + 1) % 2 ^ 32) ∧
      (d.get F.UNDERRUN_STATUS_LAYERS ≠ 0 → e.get F.UNDERRUN_FRAMES_COUNT = d.get F.UNDERRUN_FRAMES_COUNT) ∧
      (Once.underrun l ∉ d.scan.seen → e.raised Ev.UNDERRUN l = true) ∧
      Keeps d e [.scan, .log] ([wordOf R.UNDERRUN_STATUS, wordOf R.UNDERRUN_FRAMES] ++ eventWords Ev.UNDERRUN)) ∧
    (∀ (u : ReadUnit) (line : BitVec 13) (seg : Fin 128), d.vActive ≤ line.toNat ∨ d.lineSegs ≤ seg.val ∨ d.level = 4 →
        exec (.blockFetch u line seg) s = .next s) ∧
    (∀ (line : BitVec 13) (seg : Fin 128), line.toNat < d.vActive → seg.val < d.lineSegs → d.level ≠ 4 →
      (d.on F.RING_STATUS_SCAN_VALID d.scanRing = false → exec (.blockFetch .rd line seg) s = .next s) ∧
      (d.on F.RING_STATUS_SCAN_VALID d.scanRing = true →
          let r := d.fetchRing (3 * d.scanRing + d.get F.RING_STATUS_SCAN_BUF d.scanRing) line.toNat seg
        (∀ px, r.2 = .ok px → Completes (.blockFetch .rd line seg) s fun e => e.scan.segs = d.scan.segs ++ [⟨.rd, line.toNat, seg,
            some px⟩] ∧
          e.get F.SUBST_BG_COUNT_COUNT = d.get F.SUBST_BG_COUNT_COUNT) ∧
        (r.2 = .bad → d.on F.RING_STATUS_PREV_VALID d.scanRing = false → Completes (.blockFetch .rd line seg) s fun e =>
          e.scan.segs = d.scan.segs ++ [⟨.rd, line.toNat, seg, none⟩] ∧ e.scan.badRing = true ∧
          e.get F.SUBST_BG_COUNT_COUNT = (d.get F.SUBST_BG_COUNT_COUNT + 1) % 2 ^ 32) ∧
        (r.2 = .err → Completes (.blockFetch .rd line seg) s fun e => (0, line.toNat) ∈ e.scan.badLine ∧ e.scan.segs = d.scan.segs))) ∧
    (∀ (u : WriteUnit) (line : BitVec 13) (seg : Fin 128) (rx : RxLine) (f : Bool), d.vActive ≤ line.toNat ∨ d.lineSegs ≤ seg.val →
      exec (.blockEncode u line seg rx f) s = .next s) ∧
    (∀ (line : BitVec 13) (seg : Fin 128) (rx : RxLine) (f : Bool), d.on F.RING_STATUS_WRITING (d.ringOf 0) = false →
        exec (.blockEncode .re0 line seg rx f) s = .next s) ∧
    (∀ (line : BitVec 13) (seg : Fin 128) (rx : RxLine), line.toNat < d.vActive → seg.val < d.lineSegs →
        d.on F.RING_STATUS_WRITING (d.ringOf 0) = true →
      ∀ px, d.rxLine 0 rx line.toNat = some px → Completes (.blockEncode .re0 line seg rx false) s fun e =>
        let b := 3 * d.ringOf 0 + d.get F.RING_STATUS_WRITE_BUF (d.ringOf 0)
        let blk := (BKind.rgb36.encode (fitSegment (d.segLen seg) (px.drop (128 * seg))) false).block
        let a := d.get F.RING_BASE_BASE b * 64 + line.toNat * d.ringPitch + seg * 580
        let t := d.get F.RING_LEN_BASE_BASE b * 16 + 2 * (line.toNat * d.lineSegs + seg)
        (d.dramPlain a 580 = true → Memory.read e.dram.mem a blk.length = blk) ∧
        (d.lsPlain t 2 = true → e.lsPeek t 2 = leBytes 2 (lenEntry blk)) ∧ e.scan = d.scan)

/-- The panel power sequencer: its requests, its entries in order, what a list waits for, and how a list ends (R153, R154, R155, R156,
R470). An ON request while the ON list runs, or an OFF request while OFF or PF runs, changes nothing; one that must wait is kept. On an idle
sequencer the list starts with its first entry: a GPIO entry drives its panel-supply pin and waits, an empty one ends the list with
SEQ_DONE, after which ON leaves the panel on. A step acts only when a delay runs, WAIT_IN only while an input is awaited; a time-out raises
PANEL_PWR_FAIL and abandons ON for OFF. A finished OFF list leaves every lane idle. -/
def Obligations.PanelSequencer : Prop :=
  ∀ (s : State), let d := s.dev
    (d.pseqList = 1 → exec .pseqCmdOn s = .next s) ∧
    (d.pseqList ≠ 1 → d.pseqList ≠ 0 ∨ (d.pseq.offReq = false ∧ d.pseq.pfailClear = false) → Completes .pseqCmdOn s fun e =>
      e.pseq = { d.pseq with onReq := true } ∧ Keeps d e [.pseq] []) ∧
    (d.pseqList = 0 → d.pseq.offReq = false → d.pseq.pfailClear = true →
      ((d.pseqEntry 1 0).1 = 0 → Completes .pseqCmdOn s fun e =>
        e.pseqList = 0 ∧ e.on F.PSEQ_STATUS_PANEL_ON = true ∧ e.raised Ev.SEQ_DONE = true ∧ e.gate.gdis = false ∧ e.pseq.onReq = false ∧
        Keeps d e [.pseq, .gate, .log] (wordOf R.PSEQ_STATUS :: eventWords Ev.SEQ_DONE)) ∧
      ((d.pseqEntry 1 0).1 = 1 → d.get F.GPIO_CFG_FUNC (d.pseqEntry 1 0).2.1 = 1 → Completes .pseqCmdOn s fun e =>
        e.pseqList = 1 ∧ e.pseqIndex = 0 ∧ (d.pseqEntry 1 0).2.1 ∈ e.pseq.gpio ∧ e.pseq.wait = .delay ∧ e.pseq.onReq = false ∧
        Keeps d e [.pseq, .gate] [wordOf R.PSEQ_STATUS])) ∧
    (d.pseqList = 2 ∨ d.pseqList = 3 → d.pwrState ≠ 4 → exec .pseqCmdOff s = .next s) ∧
    (d.pseqList = 1 → Completes .pseqCmdOff s fun e => e.pseq = { d.pseq with offReq := true } ∧ Keeps d e [.pseq] []) ∧
    (d.pseqList = 0 → (d.pseqEntry 2 0).1 = 2 → Completes .pseqCmdOff s fun e =>
      e.pseqList = 2 ∧ e.pseqIndex = 0 ∧ e.on F.PSEQ_STATUS_PANEL_ON = false ∧ e.pseq.wait = .delay ∧
      (d.get F.GPIO_CFG_FUNC (d.pseqEntry 2 0).2.1 = 1 → (d.pseqEntry 2 0).2.1 ∉ e.pseq.gpio) ∧
          Keeps d e [.pseq, .gate] [wordOf R.PSEQ_STATUS]) ∧
    (d.pseqList = 0 → (d.pseqEntry 2 0).1 = 0 → Completes .pseqCmdOff s fun e =>
      e.pseqList = 0 ∧ e.on F.PSEQ_STATUS_PANEL_ON = false ∧ e.raised Ev.SEQ_DONE = true ∧ (∀ l < 48, e.laneDrive l = .elecIdle) ∧
          e.gate.active = [] ∧
      e.on F.GATE_CTRL_GATE_EN = false ∧ e.trainState = 0) ∧
    (d.pseq.wait ≠ .delay → d.pwrState ≠ 4 → exec .pseqStep s = .next s) ∧
    (d.pseq.wait ≠ .input → d.pwrState ≠ 4 → exec .waitInMet s = .next s ∧ exec .waitInTimeout s = .next s) ∧
    (∀ x ∈ [(PseqWait.delay, Instr.pseqStep), (.input, .waitInMet)], d.pseq.wait = x.1 → d.pwrState ≠ 4 → d.pseqList ∈ [1, 2] →
        d.pseq.offReq = false →
      d.pseqIndex < 15 →
      ((d.pseqEntry d.pseqList (d.pseqIndex + 1)).1 = 6 → Completes x.2 s fun e =>
        e.pseqList = d.pseqList ∧ e.pseqIndex = d.pseqIndex + 1 ∧ e.gate.gdis = true ∧ e.pseq.wait = .delay ∧
        (x.1 = .input → bit (e.get F.GPIO_IN_IN) (d.pseqEntry d.pseqList d.pseqIndex).2.1 = true)) ∧
      ((d.pseqEntry d.pseqList (d.pseqIndex + 1)).1 = 0 → d.pseq.onReq = false → Completes x.2 s fun e =>
        e.pseqList = 0 ∧ e.pseq.wait = .none ∧ e.raised Ev.SEQ_DONE = true ∧ (d.pseqList = 1 → e.on F.PSEQ_STATUS_PANEL_ON = true))) ∧
    (d.pseq.wait = .delay → d.pseqList = 1 → d.pseq.offReq = true → (d.pseqEntry 2 0).1 = 5 → d.pwrState ≠ 4 →
        Completes .pseqStep s fun e =>
      e.pseqList = 2 ∧ e.pseqIndex = 0 ∧ e.gate.reset = true ∧ e.pseq.offReq = false) ∧
    (d.pseq.wait = .input → d.pseqList = 1 → (d.pseqEntry 2 0).1 = 5 → d.pwrState ≠ 4 → Completes .waitInTimeout s fun e =>
      e.raised Ev.PANEL_PWR_FAIL = true ∧ e.pseqList = 2 ∧ e.pseqIndex = 0 ∧ e.gate.reset = true)

/-- The column lanes: training by phases, lock and its loss, the search for a failing lane, test bursts and control packets (R142, R143,
R144, R145, R146, R147). A bound's end moves DETECT, the lane marked failed, to the next lane or to CDR, CDR to ALIGN, or to CONFIG where
LOCK_N is high, ALIGN to the search, CONFIG to TRAIN_DONE; a LOCK_N fall in DETECT marks the lane present. A rise ends ALIGN, all good lanes
live with CONFIG due, and the relock with RELOCK_DONE; while the lanes run it is a CRC pulse, or a test pulse. Two microseconds low show the
filtered level, and while the lanes run raise LOCK_LOSS; a relock then sends TP1 for 20 µs. The search idles one lane a step, marks the
suspects LANE_FAIL at its end, and runs the relock again where it finds none (the model's choice, log entry 75); a failed lane that passes
returns. GO queues a control packet, which the next blanking line sends on the named live lanes; CONFIG goes out there too. A test burst
opens a window on its lane in a free slot. -/
def Obligations.ColumnLanes : Prop :=
  ∀ s : State, let d := s.dev
    let st := d.trainState
    let next := d.drivers.find? fun v => decide (d.col.detect + 1 ≤ v)
    (st = 1 → Completes .trainPhaseTimeout s fun e => (d.col.detect < 48 → e.laneFailed d.col.detect = true) ∧
      (∀ v, next = some v → e.trainState = 1 ∧ e.col.detect = v ∧ e.laneDrive v = .tp1 ∧ ∀ k < 48, k ≠ v → e.laneDrive k = .elecIdle) ∧
      (next = none → e.trainState = 2 ∧ ∀ k ∈ e.goodLanes, e.laneDrive k = .tp1)) ∧
    (st = 2 → d.col.lockLow = true → Completes .trainPhaseTimeout s fun e =>
      e.trainState = 3 ∧ (∀ k ∈ d.goodLanes, e.laneDrive k = .tp2) ∧ Keeps d e [.col] [wordOf R.COL_STATUS]) ∧
    (st = 2 → d.col.lockLow = false → Completes .trainPhaseTimeout s fun e =>
      e.trainState = 4 ∧ (∀ k ∈ d.goodLanes, e.laneDrive k = .live ∧ k ∈ e.col.config) ∧ Keeps d e [.col] [wordOf R.COL_STATUS]) ∧
    (st = 3 → Completes .trainPhaseTimeout s fun e => e.trainState = 7 ∧ e.col.suspects = [] ∧ e.col.searchTrain = true ∧
        Keeps d e [.col] [wordOf R.COL_STATUS]) ∧
    (st = 4 → Completes .trainPhaseTimeout s fun e => e.trainState = 5 ∧ e.raised Ev.TRAIN_DONE = true ∧ e.col.config = [] ∧
      (∀ k ∈ d.col.config, assoc k e.col.ctl = some d.configPacket) ∧ e.col.pipeFreq = d.get F.PIPE_CLK_FREQ ∧ (d.pseq.wait = .train →
          e.pseq.wait = .delay)) ∧
    (st ∉ [1, 2, 3, 4] → exec .trainPhaseTimeout s = .next s) ∧
    (st ≠ 1 → Completes .lockNFall s fun e => e.col = { d.col with lockLow := true } ∧ Keeps d e [.col] []) ∧
    (st = 1 → d.col.detect < 48 → Completes .lockNFall s fun e => e.lanePresent d.col.detect = true ∧
        (e.trainState = 1 ∨ e.trainState = 2)) ∧
    (st = 3 → Completes .lockNRise s fun e => e.trainState = 4 ∧ e.on F.COL_STATUS_LOCK_N = true ∧
      ∀ k ∈ d.goodLanes, e.laneDrive k = .live ∧ k ∈ e.col.config) ∧
    (st = 6 → Completes .lockNRise s fun e => e.trainState = 5 ∧ e.raised Ev.RELOCK_DONE = true ∧ e.col.relockDue = false ∧
      ∀ k ∈ d.goodLanes, e.laneDrive k = .live) ∧
    (st = 5 → d.on F.COL_STATUS_LOCK_N = true → d.col.lockLow = true → Completes .lockNRise s fun e =>
      e.col = { d.col with lockLow := false } ∧
      (d.col.test = none → e.raised Ev.CRC_PULSE = true ∧ e.get F.COL_CRC_PULSES_COUNT = (d.get F.COL_CRC_PULSES_COUNT + 1) % 2 ^ 32) ∧
      (d.col.test ≠ none → e.get F.COL_CRC_PULSES_COUNT = d.get F.COL_CRC_PULSES_COUNT ∧
        e.get F.COL_TEST_PULSES_COUNT = (d.get F.COL_TEST_PULSES_COUNT + 1) % 2 ^ 32)) ∧
    (d.col.lockLow = true → st = 5 → d.on F.COL_STATUS_LOCK_N = true → Completes .lockLoss s fun e =>
      e.on F.COL_STATUS_LOCK_N = false ∧ e.raised Ev.LOCK_LOSS = true ∧ e.col = { d.col with relockDue := true } ∧
      Keeps d e [.col, .log] (wordOf R.COL_STATUS :: eventWords Ev.LOCK_LOSS)) ∧
    (d.col.lockLow = true → st ≠ 5 → d.on F.COL_STATUS_LOCK_N = true → Completes .lockLoss s fun e =>
      e.on F.COL_STATUS_LOCK_N = false ∧ Keeps d e [] [wordOf R.COL_STATUS]) ∧
    (d.col.lockLow = false ∨ d.on F.COL_STATUS_LOCK_N = false → exec .lockLoss s = .next s) ∧
    (d.col.relockDue = true → st = 5 → Completes .relock s fun e => e.trainState = 6 ∧ (∀ k ∈ d.goodLanes, e.laneDrive k = .tp1) ∧
      e.col.tp1Left = d.symsIn 2000 ∧ e.col.test = none ∧ Keeps d e [.col, .cal] [wordOf R.COL_STATUS]) ∧
    (d.col.relockDue = false ∨ st ≠ 5 → exec .relock s = .next s) ∧
    (∀ rose : Bool, st ≠ 6 → st ≠ 7 → exec (.laneSearchStep rose) s = .next s) ∧
    (∀ rose : Bool, st = 6 ∨ st = 7 → ∀ l, d.laneFrom (if st = 6 then 0 else d.col.searchNext) = some l →
        Completes (.laneSearchStep rose) s fun e =>
      let bad := (if st = 6 then [] else d.col.suspects) ++ (if rose then [l] else [])
      (d.laneFrom (l + 1) ≠ none → e.trainState = 7 ∧ e.col.suspects = bad ∧ e.col.searchNext = l + 1 ∧ e.laneDrive l = .tp2 ∧
        Keeps d e [.col] [wordOf R.COL_STATUS]) ∧
      (d.laneFrom (l + 1) = none → (∀ k ∈ bad, k < 48 → e.laneFailed k = true ∧ e.laneDrive k = .elecIdle ∧ e.raised Ev.LANE_FAIL = true) ∧
        e.trainState = (if st = 7 ∧ d.col.searchTrain = true then 4 else 5) ∧
        e.col.relockDue = (bad.isEmpty && !(decide (st = 7) && d.col.searchTrain)) ∧ ∀ k ∈ d.goodLanes, k ∉ bad → e.laneDrive k = .live)) ∧
    (∀ rose : Bool, st = 7 → d.laneFrom d.col.searchNext = none → Completes (.laneSearchStep rose) s fun e =>
      (∀ k ∈ d.col.suspects, k < 48 → e.laneFailed k = true) ∧ e.trainState = if d.col.searchTrain then 4 else 5) ∧
    (∀ l : Fin 48, d.laneFailed l = true → st = 5 → Completes (.laneRetry l true) s fun e =>
      e.laneFailed l = false ∧ e.lanePresent l = true ∧ e.laneDrive l = .live ∧ l.val ∈ e.col.config ∧ e.raised Ev.LANE_RETURN = true ∧
      ∀ k < 48, k ≠ l.val → e.laneFailed k = d.laneFailed k) ∧
    (∀ (l : Fin 48) (ok : Bool), d.laneFailed l = false ∨ ok = false ∨ st ≠ 5 → exec (.laneRetry l ok) s = .next s) ∧
    (∀ l : Fin 48, let ok := d.on F.COL_CTRL_RETUNE_EN = true ∧ st = 5 ∧ d.col.relockDue = false ∧ d.lanePresent l = true ∧ d.laneFailed l = false ∧ d.on F.COL_CTRL_MLV_MODE = false ∧ d.col.slotFree = true ∧ d.col.test = none
      (ok → Completes (.testBurst l) s fun e => e.col.test = some ⟨l, d.rd R.COL_LANE_TEST 0 % 64, 1026 + d.symsIn 300⟩ ∧
          e.col.slotFree = false ∧
        assoc l.val e.col.slots = some [symTST :: (List.range 1024).map (fun i => Sym.data (testByte i)) ++ [symEOP]] ∧
            Keeps d e [.col] []) ∧
      (¬ ok → exec (.testBurst l) s = .next s)) ∧
    (Completes .colCtlpktGo s fun e => e.on F.COL_CTLPKT_HDR_GO = true ∧ Keeps d e [] [wordOf R.COL_CTLPKT_HDR]) ∧
    (∀ line : BitVec 15, d.vActive ≤ line.toNat → d.on F.COL_CTRL_MLV_MODE = false →
      (d.ctlDue = true → Completes (.lineStart line none) s fun e => e.on F.COL_CTLPKT_HDR_GO = false ∧
        ∀ l : Fin 48, bit (d.laneMask F.COL_CTLPKT_LANES_LO_LANES F.COL_CTLPKT_LANES_HI_LANES) l = true → d.laneDrive l = .live →
          assoc l.val e.col.ctl = some d.ctlPacket) ∧
      (st = 4 → d.col.discharge = false → Completes (.lineStart line none) s fun e => e.trainState = 5 ∧ e.raised Ev.TRAIN_DONE = true ∧
        ∀ k ∈ d.col.config, assoc k e.col.ctl = some d.configPacket))

/-- The Dale extension's arithmetic: packed saturating sums, clamp, reciprocal estimate, rounding multiply and bit fields (R195, R198). A
dale that does not run executes nothing. On one that runs, each arithmetic instruction writes its result to rd alone (x0 stays 0), advances
the program counter by 4, retires one instruction and charges its cycles. Each 16-bit lane of a packed sum is the exact sum or difference
cut to the lane's range; CLAMP keeps a value between its packed bounds; QMULR is the product rounded at Q and cut to 32 bits; BFX extracts a
field, with its sign or without, and BFI replaces it, where the field lies within the word; beyond it they trap. -/
def Obligations.DaleArithmetic : Prop :=
  (∀ (s : State) (k : Byte) (rd rs1 rs2 : Fin 32) (q : BitVec 5) (cyc : Nat), let d := s.dev
    let a := d.daleReg k.toNat rs1
    let b := d.daleReg k.toNat rs2
    (d.daleRuns k.toNat = false → ∀ c ∈ [Instr.paddS16 k rd rs1 rs2 cyc, .psubS16 k rd rs1 rs2 cyc, .paddU16 k rd rs1 rs2 cyc,
        .psubU16 k rd rs1 rs2 cyc,
      .clamp k rd rs1 rs2 cyc, .rcpe k rd rs1 cyc, .qmulr k rd rs1 rs2 q cyc, .bfx k rd rs1 q 0 false cyc, .bfi k rd rs1 q 0 cyc],
          exec c s = .next s) ∧
    (d.daleRuns k.toNat = true → ∀ x ∈ [(Instr.paddS16 k rd rs1 rs2 cyc, paddS16 a b), (.psubS16 k rd rs1 rs2 cyc, psubS16 a b),
      (.paddU16 k rd rs1 rs2 cyc, paddU16 a b), (.psubU16 k rd rs1 rs2 cyc, psubU16 a b), (.clamp k rd rs1 rs2 cyc, clampW a b),
      (.rcpe k rd rs1 cyc, rcpe a), (.qmulr k rd rs1 rs2 q cyc, qmulr a b q.toNat)],
      Completes x.1 s fun e => d.daleResult e k.toNat rd x.2 cyc ∧ Keeps d e [.sched] [arrayOf R.JOB_USED]) ∧
    (∀ (w : BitVec 5) (sg : Bool), d.daleRuns k.toNat = true → q.toNat + w.toNat < 32 →
      (Completes (.bfx k rd rs1 q w sg cyc) s fun e => d.daleResult e k.toNat rd (bfx a q.toNat (w.toNat + 1) sg) cyc ∧
          Keeps d e [.sched] [arrayOf R.JOB_USED]) ∧
      (Completes (.bfi k rd rs1 q w cyc) s fun e => d.daleResult e k.toNat rd (bfi (d.daleReg k.toNat rd) a q.toNat (w.toNat + 1)) cyc ∧
        Keeps d e [.sched] [arrayOf R.JOB_USED])) ∧
    (∀ (w : BitVec 5) (sg : Bool), d.daleRuns k.toNat = true → 32 ≤ q.toNat + w.toNat → (d.dale k.toNat).job = none →
      ∀ c ∈ [Instr.bfx k rd rs1 q w sg cyc, .bfi k rd rs1 q w cyc], Completes c s fun e =>
        (e.dale k.toNat).hart.csrWord 0x342 = 2 ∧ (e.dale k.toNat).hart.csrWord 0x341 = (d.dale k.toNat).hart.pc ∧ Keeps d e [.sched] [])) ∧
  (∀ (a b : Word) (h : Nat), h ∈ [0, 16] →
    let x := sgn 16 (bits a.toNat (h + 15) h)
    let y := sgn 16 (bits b.toNat (h + 15) h)
    let u := bits a.toNat (h + 15) h
    let v := bits b.toNat (h + 15) h
    sgn 16 (bits (paddS16 a b).toNat (h + 15) h) = max (-32768) (min 32767 (x + y)) ∧
    sgn 16 (bits (psubS16 a b).toNat (h + 15) h) = max (-32768) (min 32767 (x - y)) ∧
    bits (paddU16 a b).toNat (h + 15) h = min 65535 (u + v) ∧ bits (psubU16 a b).toNat (h + 15) h = u - v) ∧
  (∀ a b : Word, sgn 16 (bits b.toNat 15 0) ≤ sgn 16 (bits b.toNat 31 16) →
    (clampW a b).toInt = max (sgn 16 (bits b.toNat 15 0)) (min (sgn 16 (bits b.toNat 31 16)) a.toInt)) ∧
  (∀ a b : Word, (qmulr a b 0).toInt = max (-2147483648) (min 2147483647 (a.toInt * b.toInt))) ∧
  (∀ (a b : Word) (q : Nat), 1 ≤ q → q < 32 →
    (qmulr a b q).toInt = max (-2147483648) (min 2147483647 ((a.toInt * b.toInt + 2 ^ (q - 1)) / 2 ^ q))) ∧
  (∀ (a : Word) (l w : Nat), 1 ≤ w → l + w ≤ 32 → (bfx a l w false).toNat = a.toNat / 2 ^ l % 2 ^ w) ∧
  (∀ (a b : Word) (l w i : Nat), 1 ≤ w → l + w ≤ 32 → i < 32 →
    (bfi a b l w).getLsbD i = if l ≤ i ∧ i < l + w then b.getLsbD (i - l) else a.getLsbD i) ∧
  (∀ a b : Word, sgn 16 (bits b.toNat 31 16) < sgn 16 (bits b.toNat 15 0) → (clampW a b).toInt = sgn 16 (bits b.toNat 31 16)) ∧
  (∀ (a : Word) (l w : Nat), 1 ≤ w → l + w ≤ 32 → (bfx a l w true).toInt = sgn w (a.toNat / 2 ^ l % 2 ^ w)) ∧
  (∀ (a : Word) (n : Nat), n < 32 → 2 ^ (31 - n) ≤ a.toNat → a.toNat < 2 ^ (32 - n) → let m := a.toNat * 2 ^ n / 65536
    (rcpe a).toNat = n * 65536 + min 65535 ((0x80000000 + m / 2) / m)) ∧
  rcpe 0 = 0xFFFFFFFF ∧ rcpe 0x80000000 = 0xFFFF

/-- The dales' memory: loads and stores, table and histogram reads, the glen DMA's queue and its transfers (R187, R188, R189, R190, R192,
R196, R197, R199, R204, R205, R473). A load from a dale's own memory without an error, or of plain line-store bytes, gives the bytes
extended by its size; a misaligned one outside the line store raises its exception. A store writes exactly its bytes; of one in the line
store, a word that loses a collision stays unwritten and is counted and recorded; a refused one is a GUARD error. LUTI interpolates between
two table entries, HACC adds four bins with saturation. DMAQ gives the lowest free tag to the descriptor, DMAW waits for the named tags. The
transfer that the glen DMA serves moves exactly its bytes, frees its tag and latches the DMA event, and the next dale's turn comes; a bad
descriptor moves none, and an uncorrectable source word ends it with ERR 2. -/
def Obligations.DaleMemory : Prop :=
  ∀ (s : State) (k : Byte) (rd rs1 rs2 : Fin 32) (cyc : Nat), let d := s.dev
    let x := d.dale k.toNat
    (d.daleRuns k.toNat = false → ∀ c ∈ [Instr.daleLoad k .w rd rs1 0 cyc 0, .daleStore k .w rs1 rs2 0 cyc 0 [], .luti k rd rs1 rs2 1 cyc 0,
        .hacc k rd rs1 rs2 cyc 0,
      .haccw k rd rs1 rs1 rs2 cyc 0, .dmaq k rd rs1 cyc 0, .dmaw k rd rs1 cyc], exec c s = .next s) ∧
    (∀ (z : LdSize) (imm : BitVec 12), let a := (d.daleReg k.toNat rs1 + imm.signExtend 32).toNat
      d.daleRuns k.toNat = true →
      (inDmem a z.bytes = true → a % z.bytes = 0 → d.glenPlain k.toNat a z.bytes = true →
          Completes (.daleLoad k z rd rs1 imm cyc 0) s fun e =>
        d.daleResult e k.toNat rd (loadWord z.bytes z.signed (Memory.read x.dmem (a - 0x10000) z.bytes)) cyc ∧
            Keeps d e [.sched] [arrayOf R.JOB_USED]) ∧
      (0x10000000 ≤ a → a + z.bytes ≤ 0x11000000 → d.domOn domLS = true → d.behind (.dale k.toNat) domLS = false →
          d.lsPlain (a - 0x10000000) z.bytes = true → Completes (.daleLoad k z rd rs1 imm cyc 0) s fun e =>
        d.daleResult e k.toNat rd (loadWord z.bytes z.signed (d.lsPeek (a - 0x10000000) z.bytes)) cyc ∧
            Keeps d e [.sched] [arrayOf R.JOB_USED]) ∧
      (a % z.bytes ≠ 0 → a < 0x10000000 → x.job = none → Completes (.daleLoad k z rd rs1 imm cyc 0) s fun e =>
        (e.dale k.toNat).hart.csrWord 0x342 = 4 ∧ (e.dale k.toNat).hart.csrWord 0x343 = BitVec.ofNat 32 a ∧
            (e.dale k.toNat).hart.csrWord 0x341 = x.hart.pc ∧
        (∀ i < 32, e.daleReg k.toNat i = d.daleReg k.toNat i) ∧ Keeps d e [.sched] [])) ∧
    (∀ (z : StSize) (imm : BitVec 12), let a := (d.daleReg k.toNat rs1 + imm.signExtend 32).toNat
      d.daleRuns k.toNat = true →
      (inDmem a z.bytes = true → a % z.bytes = 0 → d.glenPlain k.toNat a z.bytes = true →
          Completes (.daleStore k z rs1 rs2 imm cyc 0 []) s fun e =>
        Memory.read (e.dale k.toNat).dmem (a - 0x10000) z.bytes = leBytes z.bytes (d.daleReg k.toNat rs2).toNat ∧
        (∀ o, o < a - 0x10000 ∨ a - 0x10000 + z.bytes ≤ o → Memory.get (e.dale k.toNat).dmem o = Memory.get x.dmem o) ∧
        (∀ i < 32, e.daleReg k.toNat i = d.daleReg k.toNat i) ∧ (e.dale k.toNat).hart.pc = x.hart.pc + 4 ∧ (e.dale k.toNat).imem = x.imem ∧
        Keeps d e [.sched, .daleMem] [arrayOf R.JOB_USED]) ∧
      (∀ loses, 0x10000000 ≤ a → a + z.bytes ≤ 0x11000000 → d.domOn domLS = true → d.behind (.dale k.toNat) domLS = false →
        d.lsPlain (a - 0x10000000) z.bytes = true → d.on F.SCHED_CTRL_EN = false →
            Completes (.daleStore k z rs1 rs2 imm cyc 0 loses) s fun e =>
          let lost := fun j => loses.getD (j / 16 - (a - 0x10000000) / 16) false
          (∀ j < z.bytes, Memory.get e.ls.mem (a - 0x10000000 + j) = if lost (a - 0x10000000 + j) then Memory.get d.ls.mem (a - 0x10000000 + j)
            else (leBytes z.bytes (d.daleReg k.toNat rs2).toNat).getD j 0) ∧
          (∀ o, o < a - 0x10000000 ∨ a - 0x10000000 + z.bytes ≤ o → Memory.get e.ls.mem o = Memory.get d.ls.mem o) ∧
          (lost (a - 0x10000000) = true → bit ((e.dale k.toNat).hart.csrWord 0x7C1).toNat 0 = true ∧ bit (e.dale k.toNat).events 3 = true ∧
              e.raised Ev.LS_COLLIDE = true) ∧
          ((loses.take 2).any id = false → e.log = d.log ∧ ∀ p < 12, e.get F.LS_PORT_COLLIDE_COUNT p = d.get F.LS_PORT_COLLIDE_COUNT p) ∧
          (lost (a - 0x10000000 + z.bytes - 1) = true → let w := (a - 0x10000000 + z.bytes - 1) / 16
            bits ((e.dale k.toNat).hart.csrWord 0x7C1).toNat 27 8 = w ∧ e.get F.LS_COLLIDE_STATUS_WORD = w ∧
                e.get F.LS_COLLIDE_STATUS_PORT = dalePort k.toNat) ∧
          (e.dale k.toNat).hart.pc = x.hart.pc + 4 ∧
          Keeps d e [.sched, .ls, .lsMem, .log] ([arrayOf R.JOB_USED, arrayOf R.LS_PORT_COLLIDE, wordOf R.LS_COLLIDE_STATUS] ++
              eventWords Ev.LS_COLLIDE)) ∧
      (0x3FC00 ≤ a → a < 0x40000 → (a - 0x3FC00) / 256 ≠ k.toNat % 4 → a % z.bytes = 0 → x.job = none →
          Completes (.daleStore k z rs1 rs2 imm cyc 0 []) s fun e =>
        (e.dale k.toNat).hart.csrWord 0x342 = 7 ∧ bit ((e.dale k.toNat).hart.csrWord 0x7C1).toNat 1 = true ∧ Keeps d e [.sched] [])) ∧
    (∀ sh : BitVec 4, let a := (d.daleReg k.toNat rs1).toNat
      let v := (d.daleReg k.toNat rs2).toNat % 65536
      let i := v / 2 ^ sh.toNat
      let t := fun j => leNat (Memory.read x.dmem (a - 0x10000 + 2 * j) 2)
      d.daleRuns k.toNat = true → 1 ≤ sh.toNat → a % 2 = 0 → inDmem a (2 * i + 4) = true → d.glenPlain k.toNat (a + 2 * i) 4 = true →
          Completes (.luti k rd rs1 rs2 sh cyc 0) s fun e =>
        d.daleResult e k.toNat rd (BitVec.ofInt 32 (t i + (((t (i + 1) : Int) - t i) * (v % 2 ^ sh.toNat : Nat) + 2 ^ (sh.toNat - 1)) / 2 ^ sh.toNat)) cyc ∧
        Keeps d e [.sched] [arrayOf R.JOB_USED]) ∧
    (let a := (d.daleReg k.toNat rs1).toNat
      let v := fun j => leNat (Memory.read x.dmem (a - 0x10000 + 4 * j) 4)
      let w := (d.daleReg k.toNat rs2).toNat % 64
      d.daleRuns k.toNat = true → a % 16 = 0 → inDmem a 16 = true → d.glenPlain k.toNat a 16 = true →
      (Completes (.hacc k rd rs1 rs2 cyc 0) s fun e =>
        d.daleResult e k.toNat rd (sat32 ((d.daleReg k.toNat rs2).toNat + v 0 + v 1 + v 2 + v 3)) cyc ∧
            Keeps d e [.sched] [arrayOf R.JOB_USED]) ∧
      (Completes (.haccw k rd rs1 rs2 rs2 cyc 0) s fun e =>
        d.daleResult e k.toNat rd (sat32 ((d.daleReg k.toNat rs2).toNat + v 0 * w + v 1 * (w + 1) + v 2 * (w + 2) + v 3 * (w + 3))) cyc ∧
        Keeps d e [.sched] [arrayOf R.JOB_USED])) ∧
    (let a := (d.daleReg k.toNat rs1).toNat
      let u := fun o => leNat (Memory.read x.dmem (a - 0x10000 + o) 4)
      d.daleRuns k.toNat = true → a % 4 = 0 → inDmem a 16 = true → d.glenPlain k.toNat a 16 = true → ∀ t : Fin 8, (∀ q ∈ x.dma, q.tag ≠ t) →
          (∀ t' : Fin 8, t' < t → ∃ q ∈ x.dma, q.tag = t') →
        Completes (.dmaq k rd rs1 cyc 0) s fun e => e.daleReg k.toNat rd = (if rd = 0 then 0 else BitVec.ofNat 32 t) ∧
          (e.dale k.toNat).dma = x.dma ++ [⟨t, u 0, u 4, u 8, u 12, x.job.isSome⟩] ∧ (e.dale k.toNat).hart.pc = x.hart.pc + 4 ∧
              Keeps d e [.sched] [arrayOf R.JOB_USED]) ∧
    (d.daleRuns k.toNat = true → (∀ q ∈ x.dma, bit ((d.daleReg k.toNat rs1).toNat % 256) q.tag = false) →
        Completes (.dmaw k rd rs1 cyc) s fun e =>
      (∀ t < 8, (e.daleReg k.toNat rd).getLsbD t = (rd != 0 && (d.daleReg k.toNat rs1).getLsbD t && (assoc t x.dmaErr).isSome)) ∧
      (e.dale k.toNat).hart.pc = x.hart.pc + 4 ∧ Keeps d e [.sched] [arrayOf R.JOB_USED]) ∧
    (d.daleRuns k.toNat = true → (∃ q ∈ x.dma, bit ((d.daleReg k.toNat rs1).toNat % 256) q.tag = true) →
        Completes (.dmaw k rd rs1 cyc) s fun e =>
      (e.dale k.toNat).hart.pc = x.hart.pc ∧ (∀ i < 32, e.daleReg k.toNat i = d.daleReg k.toNat i) ∧
          Keeps d e [.sched] [arrayOf R.JOB_USED]) ∧
    (∀ (g : BitVec 6) (ecc : Fin 3), assoc g.toNat d.sched.dmaNow = none → exec (.dmaTagDone g ⟨ecc, []⟩) s = .next s) ∧
    (∀ q, x.dma.head? = some q → let rest := x.dma.drop 1; let g : BitVec 6 := BitVec.ofNat 6 (k.toNat / 4)
      assoc (k.toNat / 4) d.sched.dmaNow = some (k.toNat, q.tag) → x.dmaHeld = none → (∀ r ∈ rest, r.tag ≠ q.tag) →
      let ends := fun (e : Dev) err => (e.dale k.toNat).dma = rest ∧ assoc q.tag (e.dale k.toNat).dmaErr = err ∧
          bit (e.dale k.toNat).events 0 = true ∧
        (assoc (k.toNat / 4) d.sched.dmaLast = some (k.toNat % 4) → assoc (k.toNat / 4) e.sched.dmaNow =
          (((List.range 4).map fun i => k.toNat / 4 * 4 + (k.toNat + 1 + i) % 4).find? fun j => !(e.dale j).dma.isEmpty).bind fun j =>
            (e.dale j).dma.head?.map fun r => (j, r.tag))
      (q.bad = true → ∀ m, Completes (.dmaTagDone g m) s fun e => ends e (some 1) ∧ Keeps d e [.sched] []) ∧
      (q.bad = false → q.srcSp = 0 → q.dstSp = 1 → d.lsPlain q.dst q.len = true → d.glenPlain k.toNat q.src q.len = true →
          Completes (.dmaTagDone g ⟨0, []⟩) s fun e =>
        e.lsPeek q.dst q.len = d.localRead k.toNat q.src q.len ∧ (∀ o, o < q.dst ∨ q.dst + q.len ≤ o →
            Memory.get e.ls.mem o = Memory.get d.ls.mem o) ∧
        ends e none ∧ Keeps d e [.sched, .ls, .lsMem] []) ∧
      (q.bad = false → q.srcSp = 0 → q.dstSp = 1 → d.lsPlain q.dst q.len = true → d.glenPlain k.toNat q.src q.len = true →
          Completes (.dmaTagDone g ⟨2, []⟩) s fun e =>
        ends e (some 2)))

/-- Jobs and services of the dales: ends, faults, events and fences, START and DOORBELL, and the IMEM reload (R199, R200, R201, R202, R203,
R211, R212, R213, R214, R217, R218). JEND with 0 starts the merge of a job whose stores and own transfers are complete, and with any other
value abandons it; out of a job it traps. A merge writes the granules of the type's mask to staging, sets DIRTY and counts the job done, and
one that meets an uncorrectable word is a hardware fault; an overrun counts a fault. WFE takes the pending enabled events or stalls; DFENCE
stalls while transfers or stores that it names run; FFENCE ends at the latch point. START runs a SERVICE dale at START_PC, also one that
runs, and wakes its glen, DOORBELL latches its event; a reload copies its bytes into every POOL dale and raises IMEM_DONE. -/
def Obligations.DaleJobs : Prop :=
  ∀ (s : State) (k : Byte) (rd rs1 : Fin 32) (cyc : Nat), let d := s.dev
    let x := d.dale k.toNat
    let stays := fun e : Dev => (e.dale k.toNat).hart.pc = x.hart.pc ∧ Keeps d e [.sched] [arrayOf R.JOB_USED]
    (d.daleRuns k.toNat = false → ∀ c ∈ [Instr.daleInstruction k cyc 0, .jend k rs1 cyc, .wfe k rd rs1 cyc, .dfence k 31 31 cyc,
        .ffence k rd cyc], exec c s = .next s) ∧
    (d.daleRuns k.toNat = true → inImem x.hart.pc.toNat 4 = true → d.glenPlain k.toNat x.hart.pc.toNat 4 = true →
        Memory.read x.imem x.hart.pc.toNat 4 = [0x93, 0x80, 0x10, 0x00] →
      Completes (.daleInstruction k cyc 0) s fun e => d.daleResult e k.toNat 1 (d.daleReg k.toNat 1 + 1) cyc ∧
          Keeps d e [.sched] [arrayOf R.JOB_USED]) ∧
    (d.daleRuns k.toNat = true → ∀ j, x.job = some j → d.storesWait k.toNat = false → x.dma.any (·.mine) = false →
        d.daleReg k.toNat rs1 = 0 → Completes (.jend k rs1 cyc) s fun e =>
      (e.dale k.toNat).job = some { j with cycles := j.cycles + cyc, merging := true } ∧ Keeps d e [.sched] [arrayOf R.JOB_USED]) ∧
    (d.daleRuns k.toNat = true → ∀ j, x.job = some j → j.type < 8 → x.todo = [] → d.storesWait k.toNat = false →
        x.dma.any (·.mine) = false → d.daleReg k.toNat rs1 ≠ 0 →
      Completes (.jend k rs1 cyc) s fun e => (e.dale k.toNat).job = none ∧ e.raised Ev.JOB_FAULT = true ∧
        e.get F.JOB_FAULT_COUNT_COUNT j.type = (d.get F.JOB_FAULT_COUNT_COUNT j.type + 1) % 2 ^ 32 ∧
            e.get F.DALE_STATUS_LAST_CAUSE k.toNat = 6 ∧
        (e.dale k.toNat).abandonCode = (d.daleReg k.toNat rs1).toNat % 256) ∧
    (d.daleRuns k.toNat = true → x.job = none → Completes (.jend k rs1 cyc) s fun e => (e.dale k.toNat).hart.csrWord 0x342 = 2 ∧
        Keeps d e [.sched] []) ∧
    (d.daleRuns k.toNat = true → (x.job.isSome = true ∧ (d.storesWait k.toNat = true ∨ x.dma.any (·.mine) = true)) →
        Completes (.jend k rs1 cyc) s stays) ∧
    (let m := (d.daleReg k.toNat rs1).toNat; d.daleRuns k.toNat = true →
      (m = 0 ∨ x.events &&& m ≠ 0 → Completes (.wfe k rd rs1 cyc) s fun e =>
        e.daleReg k.toNat rd = (if rd = 0 then 0 else BitVec.ofNat 32 (x.events &&& m)) ∧ (e.dale k.toNat).events &&& m = 0 ∧
            (e.dale k.toNat).hart.pc = x.hart.pc + 4 ∧
        Keeps d e [.sched] [arrayOf R.JOB_USED]) ∧
      (m ≠ 0 → x.events &&& m = 0 → Completes (.wfe k rd rs1 cyc) s stays)) ∧
    (∀ pred succ : BitVec 5, d.daleRuns k.toNat = true →
      let waits := (pred.getLsbD 4 = true ∧ x.dma ≠ []) ∨ ((pred.getLsbD 0 = true ∨ pred.getLsbD 2 = true) ∧ d.storesWait k.toNat = true)
      (waits → Completes (.dfence k pred succ cyc) s stays) ∧
      (¬ waits → Completes (.dfence k pred succ cyc) s fun e => d.daleResult e k.toNat 0 0 cyc ∧ Keeps d e [.sched] [arrayOf R.JOB_USED])) ∧
    (d.daleRuns k.toNat = true → x.job = none →
      (x.ffence = none → d.storesWait k.toNat = false → x.dma = [] →
          Completes (.ffence k rd cyc) s fun e => (e.dale k.toNat).ffence = some false ∧ stays e) ∧
      (x.ffence = some true → Completes (.ffence k rd cyc) s fun e => (e.dale k.toNat).ffence = none ∧
        e.daleReg k.toNat rd = (if rd = 0 then 0 else BitVec.ofNat 32 (d.get F.FRAME_COUNT_FRAME)) ∧
            (e.dale k.toNat).hart.pc = x.hart.pc + 4)) ∧
    (x.job.all (fun j => !j.merging) = true → ∀ ecc, exec (.jobMergeDone k ⟨cyc, ecc⟩) s = .next s) ∧
    (∀ j, x.job = some j → j.merging = true → j.type < 8 → x.todo = [] → d.glenPlain k.toNat (jobBufAt k.toNat) 256 = true →
        Completes (.jobMergeDone k ⟨cyc, 0⟩) s fun e =>
      (e.dale k.toNat).job = none ∧ e.isDirty j.zone j.type = true ∧
          e.get F.JOB_DONE_COUNT_COUNT j.type = (d.get F.JOB_DONE_COUNT_COUNT j.type + 1) % 2 ^ 32 ∧
      ∀ g < 64, bit (d.jobMask j.type) g = true → d.lsPlain (d.granAddr (1 - d.zoneSel j.zone j.type) j.zone g) 4 = true →
        e.lsPeek (d.granAddr (1 - d.zoneSel j.zone j.type) j.zone g) 4 = Memory.read d.sched.shared (jobBuf k.toNat + 4 * g) 4) ∧
    (∀ j, x.job = some j → j.merging = true → j.type < 8 → x.todo = [] → Completes (.jobMergeDone k ⟨cyc, 2⟩) s fun e =>
      (e.dale k.toNat).job = none ∧ e.raised Ev.JOB_FAULT = true ∧ e.get F.DALE_STATUS_LAST_CAUSE k.toNat = 8 ∧
          e.isDirty j.zone j.type = d.isDirty j.zone j.type ∧
        e.get F.JOB_FAULT_COUNT_COUNT j.type = (d.get F.JOB_FAULT_COUNT_COUNT j.type + 1) % 2 ^ 32 ∧
            Memory.read e.ls.mem 0 4096 = Memory.read d.ls.mem 0 4096) ∧
    (x.job = none → exec (.jobOverrun k) s = .next s) ∧
    (∀ j, x.job = some j → j.type < 8 → x.todo = [] → Completes (.jobOverrun k) s fun e => (e.dale k.toNat).job = none ∧
        e.raised Ev.JOB_OVERRUN = true ∧
      e.get F.JOB_FAULT_COUNT_COUNT j.type = (d.get F.JOB_FAULT_COUNT_COUNT j.type + 1) % 2 ^ 32 ∧
          e.get F.DALE_STATUS_LAST_CAUSE k.toNat = 5 ∧
      e.get F.JOB_USED_COUNT j.type = (d.get F.JOB_USED_COUNT j.type + (j.cap - j.cycles)) % 2 ^ 32) ∧
    (d.daleMode k.toNat = 1 → Completes (.daleStart k) s fun e => (e.dale k.toNat).service = true ∧
      (e.dale k.toNat).hart.pc = BitVec.ofNat 32 (2 * d.get F.DALE_CTRL_START_PC k.toNat) ∧ (∀ i < 32, e.daleReg k.toNat i = 0) ∧
      (d.domState (daleDomain k.toNat) = 1 → e.domState (daleDomain k.toNat) = 3) ∧
      Keeps d e [.sched, .pwr] [wordOf R.DALE_STATUS k.toNat, wordOf R.DOM_STATUS (daleDomain k.toNat)]) ∧
    (d.daleMode k.toNat ≠ 1 → exec (.daleStart k) s = .next s) ∧
    (Completes (.daleDoorbell k) s fun e => bit (e.dale k.toNat).events 4 = true ∧ (e.dale k.toNat).hart = x.hart ∧ Keeps d e [.sched] []) ∧
    (Completes .imemLoadGo s fun e => e.on F.IMEM_LOAD_GO = true ∧ e.on F.SCHED_STATUS_IMEM_BUSY = true ∧
        Keeps d e [] [wordOf R.IMEM_LOAD, wordOf R.SCHED_STATUS]) ∧
    (d.sched.imemCopy = false → exec .imemLoadDone s = .next s) ∧
    (d.sched.imemCopy = true → Completes .imemLoadDone s fun e => e.sched.imemCopy = false ∧ e.on F.IMEM_LOAD_GO = false ∧
        e.on F.SCHED_STATUS_IMEM_BUSY = false ∧
      e.raised Ev.IMEM_DONE = true ∧ (d.daleMode k.toNat = 0 →
          Memory.read (e.dale k.toNat).imem 0 d.imemLen = d.lsPeek (d.get F.IMEM_LOAD_SRC * 16) d.imemLen) ∧
      (d.daleMode k.toNat ≠ 0 → (e.dale k.toNat).imem = x.imem))

/-- Restarts of the control processor: lockstep, watchdog and command, what a restart drops, and restart hold (R410, R411, R412, R413, R414,
R419, R421, R423, R424, R425, R427). Before the boot is complete or in hold, a mismatch or an expiry does nothing; nor does the watchdog
disabled or under the debugger. Otherwise the processor is reset with its cause, one restart is counted and told, open requests are answered
with 6, and an image transfer is dropped. The fourth restart within 600 s leaves it in hold. Else the firmware of the good image copy, or of
the slot in use read anew, is loaded and started at the base of TCM; with neither, it holds. RESTART_CP answers its request and restarts,
from hold too, with no history. WDT_KICK, WDT_ENABLE and CP_SWAP_GO write their fields. -/
def Obligations.CpRestarts : Prop :=
  ∀ (s : State) (m : Fin 3), let d := s.dev
    let recent := (d.cp.restarts.filter fun t => decide (d.ticks < t + 600 * 32768)).length
    let slot := d.slotImage (d.get F.BOOT_STATUS_SLOT)
    let slotGood := (slot.headerBad d.quadBoot (d.slotRoom (d.get F.BOOT_STATUS_SLOT))).isNone && (d.imageBad slot).isNone
    let restarted := fun (cause : Nat) (e : Dev) => e.get F.CP_STATUS_CAUSE = cause ∧
        e.get F.CP_STATUS_RESTARTS = (d.get F.CP_STATUS_RESTARTS + 1) % 2 ^ 16 ∧
      e.raised Ev.RESTART = true ∧ bit (e.rd R.HOST_EVENT) 2 = true ∧ e.cp.copyBack = true ∧ e.cp.resv = none ∧ e.mgmt.imgOwner = none ∧
          e.mgmt.nvJob = none ∧
      e.tap.halted = false ∧ e.pwr.stalled = d.pwr.stalled.filter (fun a => a.master != .cp) ∧
      Keeps d e [.log, .pwr, .cp, .dram, .rx, .wall, .mbox, .mgmt, .tap, .dramMem, .tcm]
        [wordOf R.CP_STATUS, wordOf R.SYS_EVENT, wordOf R.LOG_STATUS, wordOf R.EQX_STATUS, arrayOf R.EQX_RESULT, wordOf R.HOST_EVENT]
    let requestsEnd := fun e : Dev => ∀ i < 3, d.mbBit i 0 = true → e.mbBit i 0 = false ∧ e.mbBit i 1 = true ∧ e.mbGet i mbResult 4 = 6
    let starts := fun e : Dev => e.cp.fwRuns = true ∧ e.cp.hart.pc = 0x08000000 ∧ (∀ i < 32, e.cp.hart.reg i = 0) ∧ e.cp.waiting = false ∧
        e.on F.CP_STATUS_HOLD = false
    let holds := fun e : Dev => e.on F.CP_STATUS_HOLD = true ∧ bit (e.rd R.HOST_EVENT) 3 = true ∧ e.cp.fwRuns = false ∧ e.cp.tcm = d.cp.tcm
    (d.bootDone = false ∨ d.on F.CP_STATUS_HOLD = true → exec .lockstepMismatch s = .next s ∧ exec .wdtExpire s = .next s) ∧
    (d.on F.WDT_CTRL_EN = false ∨ d.tap.halted = true → exec .wdtExpire s = .next s) ∧
    (d.bootDone = true → d.on F.CP_STATUS_HOLD = false → ∀ x ∈ [(Instr.lockstepMismatch, 1), (.wdtExpire, 2)], (x.2 = 2 →
        d.on F.WDT_CTRL_EN = true ∧ d.tap.halted = false) →
      (3 ≤ recent → Completes x.1 s fun e => restarted x.2 e ∧ requestsEnd e ∧ holds e) ∧
      (recent < 3 → d.copyGood = false → slotGood = false → Completes x.1 s fun e => restarted x.2 e ∧ requestsEnd e ∧ holds e) ∧
      (∀ g, recent < 3 → d.copyGood = true → d.imageCopy.segsOf 3 = [g] → g.comp = 0 → Completes x.1 s fun e => restarted x.2 e ∧
          requestsEnd e ∧ starts e ∧
        e.cp.restarts.length = recent + 1 ∧ e.dram = d.dram ∧ Memory.read e.cp.tcm g.dest g.len = d.imageCopy.bytes g.off g.len ∧
        (∀ o, o < g.dest ∨ g.dest + g.len ≤ o → Memory.get e.cp.tcm o = Memory.get d.cp.tcm o)) ∧
      (∀ g, recent < 3 → d.copyGood = false → slotGood = true → slot.segsOf 3 = [g] → g.comp = 0 →
          Completes x.1 s fun e => restarted x.2 e ∧ starts e ∧
        e.imageCopy.bytes 0 slot.len = slot.bytes 0 slot.len ∧ Memory.read e.cp.tcm g.dest g.len = slot.bytes g.off g.len)) ∧
    (d.mbOpen m 0x0F = true → d.get F.BOOT_STATUS_STEP ≠ 0 → d.bootDone = true →
      (d.on F.CP_STATUS_HOLD = false → 3 ≤ recent → Completes (.restartCp m) s fun e => restarted 3 e ∧ holds e ∧ e.mbBit m 1 = true ∧
          e.mbGet m mbResult 4 = 0) ∧
      (∀ g, d.on F.CP_STATUS_HOLD = true ∨ recent < 3 → d.copyGood = true → d.imageCopy.segsOf 3 = [g] → g.comp = 0 →
          Completes (.restartCp m) s fun e =>
        restarted 3 e ∧ starts e ∧ e.mbBit m 1 = true ∧ e.mbGet m mbResult 4 = 0 ∧ (d.on F.CP_STATUS_HOLD = true →
            e.cp.restarts = [d.ticks]))) ∧
    (∀ v : Byte, Completes (.wdtKick v) s fun e => e.cp = { d.cp with wdt := if v = 0x5A then 0 else d.cp.wdt } ∧ Keeps d e [.cp] []) ∧
    (Completes .wdtEnable s fun e => e.on F.WDT_CTRL_EN = true ∧ Keeps d e [] [wordOf R.WDT_CTRL]) ∧
    (∀ b : Bool, Completes (.cpSwapGo b) s fun e => e.on F.CP_SWAP_CTRL_GO = true ∧ e.on F.CP_SWAP_CTRL_SLOT = b ∧
        Keeps d e [] [wordOf R.CP_SWAP_CTRL])

/-- The control processor: interrupts, instructions of its firmware, its loads and stores, and the debugger's halt, resume and step (R25,
R89, R346, R409, R415, R417, R418, R419, R420, R430). A processor that does not run executes nothing. A pending enabled interrupt, external
first, is taken before the next instruction, with its cause, the interrupted address and no further interrupts; it wakes a sleeping domain
CP. Otherwise the instruction at the program counter runs. A load gives exactly the bytes of TCM, of DRAM through its window, or a register;
a store to TCM or DRAM writes exactly its bytes; a misaligned, an unmapped or a guarded access traps with its cause, and a store to no
address is a bus error. The debugger halts, steps and resumes at dpc, unless DBG_LOCK is set. -/
def Obligations.CpInstructions : Prop :=
  ∀ (s : State) (rd rs1 rs2 : Fin 32), let d := s.dev
    let h := d.cp.hart
    let mie := (h.csrWord 0x304).toNat
    let ext := d.irqSummary &&& d.get F.IRQ_MASK_BLOCK ≠ 0 ∧ bit mie 11 = true
    let timer := d.rd R.MTIMECMP 0 + d.rd R.MTIMECMP 1 * 2 ^ 32 ≤ d.rd R.MTIME 0 + d.rd R.MTIME 1 * 2 ^ 32 ∧ bit mie 7 = true
    let on := d.cpRuns = true ∧ bit (h.csrWord 0x300).toNat 3 = true
    let free := d.cpRuns = true ∧ d.cp.waiting = false ∧ (bit (h.csrWord 0x300).toNat 3 = false ∨ (¬ ext ∧ ¬ timer))
    let trapped := fun (cause : Nat) (e : Dev) => (e.cp.hart.csrWord 0x342).toNat = cause ∧ e.cp.hart.csrWord 0x341 = h.pc ∧
      bit (e.cp.hart.csrWord 0x300).toNat 3 = false ∧ bit (e.cp.hart.csrWord 0x300).toNat 7 = bit (h.csrWord 0x300).toNat 3 ∧
      (∀ i < 32, e.cp.hart.reg i = h.reg i)
    let done := fun (v : Option Word) (e : Dev) => (∀ i < 32, e.cp.hart.reg i = if v.isSome ∧ i = rd ∧ rd ≠ 0 then v.getD 0 else h.reg i) ∧
      e.cp.hart.pc = h.pc + 4 ∧ e.cp.hart.csrWord 0xB02 = h.csrWord 0xB02 + 1
    (d.cpRuns = false → ∀ c ∈ [Instr.cpInstruction, .cpLoad .w rd rs1 0, .cpStore .w rs1 rs2 0], exec c s = .next s) ∧
    (on → ext → ∀ c ∈ [Instr.cpInstruction, .cpInterrupt, .cpLoad .w rd rs1 0, .cpStore .w rs1 rs2 0], Completes c s fun e =>
      trapped (0x80000000 + 11) e ∧ e.cp.inHandler = true ∧ e.cp.waiting = false ∧
          e.cp.hart.pc = (h.csrWord 0x305 &&& 0xFFFFFFFC) + (if (h.csrWord 0x305).toNat % 4 = 1 then 44 else 0) ∧
      Keeps d e [.cp] []) ∧
    (on → ¬ ext → timer → ∀ c ∈ [Instr.cpInstruction, .cpInterrupt, .cpLoad .w rd rs1 0, .cpStore .w rs1 rs2 0], Completes c s fun e =>
      trapped (0x80000000 + 7) e ∧ e.cp.inHandler = true ∧ e.cp.waiting = false ∧ Keeps d e [.cp] []) ∧
    ((¬ ext ∧ ¬ timer) ∨ d.cp.fwRuns = false ∨ d.on F.CP_STATUS_HOLD = true → exec .cpInterrupt s = .next s) ∧
    (ext ∨ timer → d.cp.fwRuns = true → d.on F.CP_STATUS_HOLD = false → d.domState domCP = 1 → Completes .cpInterrupt s fun e =>
      e.get F.DOM_STATUS_STATE domCP = 3 ∧ e.get F.DOM_STATUS_WAKES domCP = (d.get F.DOM_STATUS_WAKES domCP + 1) % 2 ^ 16 ∧ e.cp.hart = h) ∧
    (d.cpRuns = true → d.cp.waiting = true → ¬ ext → ¬ timer → exec .cpInstruction s = .next s) ∧
    (let p := h.pc.toNat; free → 0x08000000 ≤ p → p + 4 ≤ 0x08080000 →
      (Memory.read d.cp.tcm (p - 0x08000000) 4 = [0x93, 0x80, 0x10, 0x00] → Completes .cpInstruction s fun e =>
        (∀ i < 32, e.cp.hart.reg i = if i = 1 then h.reg 1 + 1 else h.reg i) ∧ e.cp.hart.pc = h.pc + 4 ∧
            e.cp.hart.csrWord 0xB02 = h.csrWord 0xB02 + 1 ∧ Keeps d e [.cp] []) ∧
      (Memory.read d.cp.tcm (p - 0x08000000) 4 = [0x73, 0, 0, 0] → Completes .cpInstruction s fun e => trapped 11 e ∧
          e.cp.inHandler = d.cp.inHandler ∧ Keeps d e [.cp] []) ∧
      (Memory.read d.cp.tcm (p - 0x08000000) 2 = [0, 0] → Completes .cpInstruction s fun e => trapped 2 e ∧ Keeps d e [.cp] [])) ∧
    (∀ (z : LdSize) (imm : BitVec 12), let a := (h.reg rs1 + imm.signExtend 32).toNat
      let c := Instr.cpLoad z rd rs1 imm
      let w := d.get F.CP_CTRL_DWIN0 * 2 ^ 30 + (a - 0x80000000)
      free →
      (0x08000000 ≤ a → a + z.bytes ≤ 0x08080000 → a % z.bytes = 0 → Completes c s fun e =>
        done (some (loadWord z.bytes z.signed (Memory.read d.cp.tcm (a - 0x08000000) z.bytes))) e ∧ Keeps d e [.cp] []) ∧
      (a + z.bytes ≤ 0x10000 → a % z.bytes = 0 → Completes c s fun e =>
          done (some (loadWord z.bytes z.signed ((List.range z.bytes).map fun i => Config.bootRom (a + i)))) e ∧ Keeps d e [.cp] []) ∧
      (0x80000000 ≤ a → a < 0xC0000000 → a % z.bytes = 0 → w + z.bytes ≤ dramTop → d.dramPlain w z.bytes = true →
          d.domOn (chDomain (dramChannel w)) = true → Completes c s fun e =>
        done (some (loadWord z.bytes z.signed (Memory.read d.dram.mem w z.bytes))) e ∧ Keeps d e [.cp] []) ∧
      (0x40000000 ≤ a → a < 0x40160000 → a % z.bytes = 0 → d.pwr.stalled = [] → (regDomain a).all d.domOn = true →
        (∀ v, d.regRead (a / 4 * 4) = some v → regDomain a ≠ none →
            Completes c s fun e => done (some (loadWord z.bytes z.signed (leBytes z.bytes (v / 256 ^ (a % 4))))) e ∧ Keeps d e [.cp] []) ∧
        (d.regRead (a / 4 * 4) = none → Completes c s fun e => trapped 5 e ∧ (e.cp.hart.csrWord 0x343).toNat = a ∧ Keeps d e [.cp] [])) ∧
      (a % z.bytes ≠ 0 → Completes c s fun e => trapped 4 e ∧ (e.cp.hart.csrWord 0x343).toNat = a ∧ Keeps d e [.cp] []) ∧
      (0x21800000 ≤ a → a < 0x40000000 → a % z.bytes = 0 → Completes c s fun e => trapped 5 e ∧ (e.cp.hart.csrWord 0x343).toNat = a ∧
          Keeps d e [.cp] [])) ∧
    (∀ (z : StSize) (imm : BitVec 12), let a := (h.reg rs1 + imm.signExtend 32).toNat
      let c := Instr.cpStore z rs1 rs2 imm
      let w := d.get F.CP_CTRL_DWIN0 * 2 ^ 30 + (a - 0x80000000)
      let bs := leBytes z.bytes (h.reg rs2).toNat
      free →
      (0x08000000 ≤ a → a + z.bytes ≤ 0x08080000 → a % z.bytes = 0 → Completes c s fun e => done none e ∧
          Memory.read e.cp.tcm (a - 0x08000000) z.bytes = bs ∧
        (∀ o, o < a - 0x08000000 ∨ a - 0x08000000 + z.bytes ≤ o → Memory.get e.cp.tcm o = Memory.get d.cp.tcm o) ∧
            Keeps d e [.cp, .tcm] []) ∧
      (a + z.bytes ≤ 0x10000 → a % z.bytes = 0 → Completes c s fun e => trapped 7 e ∧ Keeps d e [.cp] []) ∧
      (a % z.bytes ≠ 0 → Completes c s fun e => trapped 6 e ∧ (e.cp.hart.csrWord 0x343).toNat = a ∧ Keeps d e [.cp] []) ∧
      (0x80000000 ≤ a → a < 0xC0000000 → a % z.bytes = 0 → w + z.bytes ≤ dramTop →
        (d.guarded w z.bytes = true → Completes c s fun e => trapped 7 e ∧ e.get F.GUARD_STATUS_ADDR = w / 64 ∧
            Keeps d e [.cp] [wordOf R.GUARD_STATUS]) ∧
        (d.guarded w z.bytes = false → d.dramPlain w z.bytes = true → d.domOn (chDomain (dramChannel w)) = true →
            Completes c s fun e => done none e ∧
          Memory.read e.dram.mem w z.bytes = bs ∧ (∀ o, o < w ∨ w + z.bytes ≤ o → Memory.get e.dram.mem o = Memory.get d.dram.mem o) ∧
              Keeps d e [.cp, .dram, .dramMem] [])) ∧
      (0x21800000 ≤ a → a < 0x40000000 → a % z.bytes = 0 → Completes c s fun e => done none e ∧ e.raised Ev.BUS_ERR = true ∧
        (d.on F.SYS_EVENT_BUS_ERR = false → e.get F.CP_BUS_ERR_ADDR = a) ∧
            Keeps d e [.cp, .log] [wordOf R.CP_BUS_ERR, wordOf R.CP_BUS_ERR_COUNT, wordOf R.SYS_EVENT, wordOf R.LOG_STATUS])) ∧
    (d.tap.dbgLock = true → exec .debugHalt s = .next s ∧ exec .debugResume s = .next s ∧ exec .debugStep s = .next s) ∧
    (d.tap.dbgLock = false → d.tap.halted = true → exec .debugHalt s = .next s) ∧
    (d.tap.dbgLock = false → d.tap.halted = false → exec .debugResume s = .next s ∧ exec .debugStep s = .next s ∧
      Completes .debugHalt s fun e => e.tap = { d.tap with halted := true, dpc := h.pc, cause := 3 } ∧ Keeps d e [.tap] []) ∧
    (d.tap.dbgLock = false → d.tap.halted = true → d.tap.dcsr.getLsbD 2 = false → Completes .debugResume s fun e =>
      e.tap = { d.tap with halted := false, resumeAck := true } ∧ e.cp = { d.cp with hart := { h with pc := d.tap.dpc } } ∧
          Keeps d e [.tap, .cp] []) ∧
    (d.tap.dbgLock = false → d.tap.halted = true → d.tap.dpc = 0x08000010 → Memory.read d.cp.tcm 0x10 4 = [0x93, 0x80, 0x10, 0x00] →
        Completes .debugStep s fun e =>
      (∀ i < 32, e.cp.hart.reg i = if i = 1 then h.reg 1 + 1 else h.reg i) ∧ e.tap = { d.tap with dpc := 0x08000014, cause := 4 } ∧
          Keeps d e [.tap, .cp] [])

/-- Mailboxes: submission, acknowledgement, completion and overrun, and the commands that hardware and firmware answer (R44, R45, R63, R64,
R65, R353, R382, R414, R421, R422, R423, R425). A doorbell on a taken mailbox is an overrun; else the request is open, and an unknown opcode
is answered BAD_OPCODE. Acknowledging clears DONE and OVERRUN. Hardware answers BOOT_STATUS and DEVICE_INFO; the firmware's commands are
answered BUSY while it does not run, wait while it is stopped, and are served otherwise: events, registers, state, brightness, rediscovery
and lock, with BAD_ARG for an argument out of range, for one that is not 0 and for request data where the opcode has none (log entry 48). An
answer puts the response fields, DONE for BUSY and the interrupt, and changes nothing else of any mailbox. -/
def Obligations.Mailboxes : Prop :=
  ∀ (s : State) (m : Fin 3), let d := s.dev
    let arg := d.mbArgOf m;
    let takes := fun e : Dev => e.mbBit m 0 = true ∧ e.mbBit m 1 = false ∧ e.mbBit m 2 = d.mbBit m 2 ∧
      (∀ o, o ≠ 256 * m + 0x80 → Memory.get e.mbox o = Memory.get d.mbox o) ∧
      (m < 2 → e.raised Ev.MB_DOORBELL m = true) ∧ (m = 2 → e.raised Ev.MGMT_DOORBELL = true) ∧
      Keeps d e [.log, .mbox] [wordOf R.RX_EVENT, wordOf R.MGMT_EVENT, wordOf R.LOG_STATUS];
    (d.mbBit m 0 = true ∨ d.mbBit m 1 = true → Completes (.mbSubmit m) s fun e => e.mbBit m 2 = true ∧ e.mbBit m 0 = d.mbBit m 0 ∧
        e.mbBit m 1 = d.mbBit m 1 ∧
      (∀ o, o ≠ 256 * m + 0x80 → Memory.get e.mbox o = Memory.get d.mbox o) ∧ (m < 2 → e.raised Ev.MB_OVERRUN m = true) ∧ (m = 2 →
          e.raised Ev.MGMT_OVERRUN = true) ∧
      Keeps d e [.log, .mbox] [wordOf R.RX_EVENT, wordOf R.MGMT_EVENT, wordOf R.LOG_STATUS]) ∧
    (d.mbBit m 0 = false → d.mbBit m 1 = false → d.mbGet m mbOpcode 1 ∈ [0x01, 0x02, 0x0F, 0x03, 0x04, 0x10, 0x11, 0x12, 0x20, 0x21, 0x22,
        0x23, 0x24, 0x30, 0x31, 0x32, 0x33] →
      Completes (.mbSubmit m) s takes) ∧
    (d.mbBit m 0 = false → d.mbBit m 1 = false → d.mbGet m mbOpcode 1 ∉ [0x01, 0x02, 0x0F, 0x03, 0x04, 0x10, 0x11, 0x12, 0x20, 0x21, 0x22,
        0x23, 0x24, 0x30, 0x31, 0x32, 0x33] →
      Completes (.mbSubmit m) s fun e => d.answered e m 1 [] ∧ (m < 2 → e.raised Ev.MB_DOORBELL m = true) ∧ (m = 2 →
          e.raised Ev.MGMT_DOORBELL = true) ∧
        Keeps d e [.log, .rx, .mbox, .mgmt] [wordOf R.RX_EVENT, wordOf R.MGMT_EVENT, wordOf R.LOG_STATUS, wordOf R.HOST_EVENT]) ∧
    (Completes (.mbAck m) s fun e => e.mbBit m 1 = false ∧ e.mbBit m 2 = false ∧ e.mbBit m 0 = d.mbBit m 0 ∧
      (∀ o, o ≠ 256 * m + 0x80 → Memory.get e.mbox o = Memory.get d.mbox o) ∧ Keeps d e [.mbox] []) ∧
    (∀ mask : BitVec 3, Completes (.mbComplete mask) s fun e => Keeps d e [.rx, .mbox, .mgmt] [wordOf R.HOST_EVENT] ∧
      if mask.getLsbD m && d.mbBit m 0 then e.mbBit m 1 = true ∧ e.mbBit m 0 = false ∧ e.mbGet m mbRspSeq 1 = d.mbGet m mbReqSeq 1 ∧
          e.mbGet m mbResult 4 = d.mbGet m mbResult 4
      else e.mbGet m mbStatusAt 1 = d.mbGet m mbStatusAt 1 ∧ e.mbGet m mbRspSeq 1 = d.mbGet m mbRspSeq 1) ∧
    (∀ b : BitVec 6, Completes (.hostEventSet b) s fun e => e.rd R.HOST_EVENT = d.rd R.HOST_EVENT ||| (b.toNat &&& 0x22) ∧
        Keeps d e [.mgmt] [wordOf R.HOST_EVENT] ∧
      (b.toNat &&& 0x22 = 2 → bit (d.rd R.HOST_EVENT) 1 = false → bit (d.get F.HOST_INT_EN_EN) 1 = true → d.mgmt.ibiEn = true →
          d.on F.MGMT_CFG_I3C_EN = true →
        e.mgmt.ibi = some (BitVec.ofNat 8 (e.rd R.HOST_EVENT)))) ∧
    (∀ x ∈ [(Instr.bootStatus m, 0x01), (.deviceInfo m, 0x02), (.restartCp m, 0x0F), (.getEvents m, 0x03), (.regRead m, 0x04), (.state m,
        0x10), (.brightness m, 0x11),
      (.rediscover m, 0x12), (.pwCheck m, 0x20), (.pwSet m, 0x21), (.lock m, 0x22), (.nvRead m, 0x23), (.nvWrite m, 0x24), (.imgBegin m 0,
          0x30), (.imgData m, 0x31),
      (.imgEnd m true, 0x32), (.imgActivate m, 0x33)], d.mbBit m 0 = false ∨ d.mbGet m mbOpcode 1 ≠ x.2 ∨ d.get F.BOOT_STATUS_STEP = 0 →
          exec x.1 s = .next s) ∧
    (∀ x ∈ [(Instr.getEvents m, 0x03), (.regRead m, 0x04), (.state m, 0x10), (.brightness m, 0x11), (.rediscover m, 0x12), (.pwCheck m,
        0x20), (.pwSet m, 0x21), (.lock m, 0x22),
      (.nvRead m, 0x23), (.nvWrite m, 0x24), (.imgBegin m 0, 0x30), (.imgData m, 0x31), (.imgEnd m true, 0x32), (.imgActivate m, 0x33)],
      d.mbBit m 0 = true → d.mbGet m mbOpcode 1 = x.2 → d.get F.BOOT_STATUS_STEP ≠ 0 →
      (d.bootDone = false ∨ d.on F.CP_STATUS_HOLD = true ∨ d.cp.fwRuns = false → Completes x.1 s fun e => d.onlyAnswered e m 3) ∧
      (d.bootDone = true ∧ d.on F.CP_STATUS_HOLD = false ∧ d.cp.fwRuns = true ∧ d.serves m x.2 = false → exec x.1 s = .next s) ∧
      (d.serves m x.2 = true → d.mbShape m x.2 = false → Completes x.1 s fun e => d.onlyAnswered e m 2)) ∧
    (d.mbOpen m 0x01 = true → d.get F.BOOT_STATUS_STEP ≠ 0 → d.mbShape m 0x01 = true →
        Completes (.bootStatus m) s fun e => d.onlyAnswered e m 0
      (leBytes 4 (d.rd R.BOOT_STATUS) ++ leBytes 4 (d.rd R.BOOT_SEQ) ++ leBytes 4 (d.rd R.BOOT_VERSION) ++
          leBytes 4 (d.rd R.BOOT_FAIL_INFO) ++ leBytes 4 (d.rd R.BOOT_LIGHT))) ∧
    (d.mbOpen m 0x02 = true → d.get F.BOOT_STATUS_STEP ≠ 0 → d.mbShape m 0x02 = true →
        Completes (.deviceInfo m) s fun e => d.onlyAnswered e m 0
      (leBytes 4 (d.rd R.DEVICE_ID) ++ leBytes 8 d.uid ++ [d.mbByte m 0xA, d.mbByte m 0xB] ++ leBytes 2 (d.rd R.WALL_ADDR))) ∧
    (d.mbOpen m 0x0F = true → d.get F.BOOT_STATUS_STEP ≠ 0 → d.mbShape m 0x0F = true → d.bootDone = false →
        Completes (.restartCp m) s fun e => d.onlyAnswered e m 3) ∧
    (∀ x ∈ [(Instr.bootStatus m, 0x01), (.deviceInfo m, 0x02), (.restartCp m, 0x0F)], d.mbOpen m x.2 = true → d.get F.BOOT_STATUS_STEP ≠ 0 →
        d.mbShape m x.2 = false →
      Completes x.1 s fun e => d.onlyAnswered e m 2) ∧
    (d.servesReq m 0x03 = true → Completes (.getEvents m) s fun e =>
        d.onlyAnswered e m 0 ((d.log.entries.take (min 6 arg)).flatMap (·.bytes))) ∧
    (let n := leNat (d.mbData m 1);
      d.servesReq m 0x04 = true →
      (d.mbLenOf m ≠ 1 ∨ n = 0 ∨ 26 < n ∨ arg % 4 ≠ 0 → Completes (.regRead m) s fun e => d.onlyAnswered e m 2) ∧
      (d.mbLenOf m = 1 → 1 ≤ n → n ≤ 26 → arg % 4 = 0 → (∀ i < n, (regDomain (arg + 4 * i)).all d.domOn = true) →
        ((∀ i < n, d.regRead (arg + 4 * i) ≠ none) → Completes (.regRead m) s fun e =>
          d.onlyAnswered e m 0 ((List.range n).flatMap fun i => leBytes 4 ((d.regRead (arg + 4 * i)).getD 0))) ∧
        ((∃ i < n, d.regRead (arg + 4 * i) = none) → Completes (.regRead m) s fun e => d.onlyAnswered e m 2))) ∧
    (d.servesReq m 0x10 = true →
      (16 ≤ arg → Completes (.state m) s fun e => d.onlyAnswered e m 2) ∧
      (arg < 16 → d.on F.PWR_CFG_HOST_GATE = true → Completes (.state m) s fun e => e.mbox = d.mbox) ∧
      (arg < 16 → d.on F.PWR_CFG_HOST_GATE = false → d.on F.PWR_EVENT_PWR_REFUSE = false → Completes (.state m) s fun e =>
        d.answered e m (if e.on F.PWR_EVENT_PWR_REFUSE then 8 else 0) [])) ∧
    (d.servesReq m 0x11 = true → Completes (.brightness m) s fun e => d.onlyAnswered e m (if arg < 65536 then 0 else 2)) ∧
    (d.servesReq m 0x12 = true → 2 ≤ arg → Completes (.rediscover m) s fun e => d.onlyAnswered e m 2) ∧
    (d.servesReq m 0x12 = true → arg < 2 → Completes (.rediscover m) s fun e => d.answered e m 0 [] ∧
        e.on F.RX_PORT_STATUS_HPD_LEVEL arg = false ∧
      (e.port arg).rediscover = true ∧ Keeps d e [.log, .rx, .mbox, .mgmt] [arrayOf R.RX_PORT_STATUS, wordOf R.RX_EVENT,
          wordOf R.LOG_STATUS, wordOf R.HOST_EVENT]) ∧
    (d.servesReq m 0x22 = true → Completes (.lock m) s fun e => d.answered e m 0 [] ∧ (∀ g, g ∈ e.mgmt.grants ↔ g ∈ d.mgmt.grants ∧
        g / 16 ≠ m.val) ∧
      Keeps d e [.rx, .mbox, .mgmt] [wordOf R.HOST_EVENT])

/-- The parameter store's commands: refused, busy or out of range; pages read, and the updates that each command starts (R370, R371, R372,
R375, R379, R381, R382, R384). A command while power fails ends with PFAIL, one while another runs with BUSY, and neither disturbs what
runs. A page count or a page that the command may not name ends with RANGE. READ shows the page's bytes in NV_BUF. UPDATE and SLOT_WRITE
start the program of NV_BUF into their page; PW_CHECK passes at once without a password, is refused in a lock-out, and else counts the
attempt first; PW_SET, MODE and CLEAR_PF start the pages that they rewrite; LOCK withdraws every grant and the last pass. -/
def Obligations.NvCommands : Prop :=
  ∀ (s : State) (count : BitVec 9) (part : BitVec 4) (kind : Bool), let d := s.dev
    let words := [wordOf R.NV_CMD, wordOf R.NV_STATUS, wordOf R.NV_EVENT, wordOf R.LOG_STATUS]
    let all := [(Instr.nvCmdRead count [], 0x1), (.nvCmdUpdate count, 0x2), (.nvCmdSlotWrite count, 0x3), (.nvCmdPwCheck part kind, 0x4),
        (.nvCmdPwSet part kind, 0x5),
      (.nvCmdMode part kind, 0x6), (.nvCmdClearPf, 0x7), (.nvCmdLock, 0x8)]
    let idle := d.nv.refuse = false ∧ d.on F.NV_STATUS_BUSY = false ∧ d.nv.saves = [] ∧ d.nv.gap = false ∧ d.nvStage = 0
    let ended := fun (err : Nat) (e : Dev) => e.get F.NV_STATUS_ERR = err ∧ e.get F.NV_CMD_GO = 0 ∧ e.get F.NV_STATUS_BUSY = 0 ∧
        e.nv.op = none ∧
      e.raised Ev.NV_DONE = true ∧ (err ≠ 0 → e.raised Ev.NV_ERR = true)
    let started := fun (todo : List NvWrite) (after : NvAfter) (stage : Nat) (e : Dev) =>
        e.nv = { d.nv with op := some ⟨true, todo, after⟩, powered := true } ∧
      e.get F.NV_STATUS_BUSY = 1 ∧ e.get F.NV_STATUS_ERR = 0 ∧ e.get F.NV_STATUS_PAGES_DONE = 0 ∧ e.get F.NV_CMD_GO = 1 ∧
          e.nvStage = stage ∧ e.get F.NV_STATUS_PROG = 1
    let page := d.get F.NV_PAGE_PAGE
    let record := fun (o : Nat) (bs : List Byte) => (⟨256 + part.toNat, d.recordPage part.toNat o bs, false⟩ : NvWrite)
    let plain := fun (p : Nat) => ∀ k ∈ [3, 4], p < partBase k ∨ partBase k + 256 ≤ p ∨ d.nvNat (256 + k) 18 1 % 2 = 0
    (∀ x ∈ all, (d.nv.refuse = true ∨ d.on F.NV_STATUS_BUSY = true →
        Completes x.1 s fun e => e.get F.NV_STATUS_ERR = (if d.nv.refuse then 3 else 2) ∧ e.raised Ev.NV_ERR = true ∧
      e.raised Ev.NV_DONE = true ∧ e.get F.NV_CMD_GO = d.get F.NV_CMD_GO ∧ e.get F.NV_STATUS_BUSY = d.get F.NV_STATUS_BUSY ∧
          e.get F.NV_CMD_OP = x.2 ∧ Keeps d e [.log] words)) ∧
    (∀ x ∈ all, idle → (x.2 ≤ 3 → page + count.toNat < 4096 → d.on F.NV_SRC_USE_LS = false) →
        Completes x.1 s fun e => e.get F.NV_CMD_OP = x.2 ∧
      (x.2 ≤ 3 → e.get F.NV_CMD_COUNT = count.toNat) ∧ (4 ≤ x.2 ∧ x.2 ≤ 6 → e.get F.NV_CMD_PART = part.toNat ∧ e.on F.NV_CMD_KIND = kind) ∧
      e.nv.mem = d.nv.mem ∧ Keeps d e [.log, .nv, .mgmt] (arrayOf R.NV_BUF :: words)) ∧
    (idle → page + count.toNat < 280 ∨ 4096 ≤ page + count.toNat ∨ (d.on F.NV_SRC_USE_LS = false ∧ count ≠ 0) →
        Completes (.nvCmdRead count []) s fun e => ended 1 e ∧
      Keeps d e [.log, .nv] words) ∧
    (idle → d.on F.NV_SRC_USE_LS = false → count = 0 → 280 ≤ page → page < 4096 → plain page →
        Completes (.nvCmdRead count []) s fun e => ended 0 e ∧ e.get F.NV_STATUS_PAGES_DONE = 1 ∧
      (∀ k < 16, leBytes 4 (e.get F.NV_BUF_DATA k) = Memory.read d.nv.mem (64 * page + 4 * k) 4) ∧
          Keeps d e [.log, .nv] (arrayOf R.NV_BUF :: words)) ∧
    (∀ (a : BitVec 18) (b : BitVec 3), Completes (.nvCmdRead count [(a, b)]) s fun e =>
      (∀ i < 8, (Memory.get e.nv.mem a.toNat).getLsbD i = ((Memory.get d.nv.mem a.toNat).getLsbD i != decide (i = b.toNat))) ∧
      (∀ o, o ≠ a.toNat → Memory.get e.nv.mem o = Memory.get d.nv.mem o)) ∧
    (idle → d.on F.NV_SRC_USE_LS = false → plain page →
      let age := 608 ≤ page ∧ page ≤ 2659
      let trailer := (page - 608) % 513 = 512
      (count = 0 → 288 ≤ page → page < 4096 → (¬ age ∨ trailer) →
          Completes (.nvCmdUpdate count) s fun e => started [⟨page, d.nvBuf, false⟩] .done 1 e ∧ Keeps d e [.log, .nv] words) ∧
      (count ≠ 0 ∨ page < 288 ∨ 4096 ≤ page ∨ (age ∧ ¬ trailer) → Completes (.nvCmdUpdate count) s fun e => ended 1 e ∧
          Keeps d e [.log, .nv] words) ∧
      (count = 0 → age → ¬ trailer → Completes (.nvCmdSlotWrite count) s fun e => started [⟨page, d.nvBuf, true⟩] .done 5 e ∧
          Keeps d e [.log, .nv] words) ∧
      (count ≠ 0 ∨ ¬ age ∨ trailer → Completes (.nvCmdSlotWrite count) s fun e => ended 1 e ∧ Keeps d e [.log, .nv] words)) ∧
    (let k := kind.toNat
      let pw := d.nvNat (256 + part.toNat) (8 * k) 8
      idle →
      (4 < part.toNat → Completes (.nvCmdPwCheck part kind) s fun e => ended 1 e ∧ e.get F.NV_STATUS_PW_PASS = 0 ∧
          Keeps d e [.log, .nv] words) ∧
      (part.toNat ≤ 4 → pw = 0 → Completes (.nvCmdPwCheck part kind) s fun e => ended 0 e ∧ e.get F.NV_STATUS_PW_PASS = 1 ∧
          Keeps d e [.log, .nv] words) ∧
      (part.toNat ≤ 4 → pw ≠ 0 → d.lockLeft part.toNat k ≠ 0 → Completes (.nvCmdPwCheck part kind) s fun e => ended 5 e ∧
          e.get F.NV_STATUS_PW_PASS = 0 ∧ Keeps d e [.log, .nv] words) ∧
      (part.toNat ≤ 4 → pw ≠ 0 → d.lockLeft part.toNat k = 0 →
          Completes (.nvCmdPwCheck part kind) s fun e => e.get F.NV_STATUS_PW_PASS = 0 ∧
        started [record (16 + k) [byteOf (min 255 (d.nvNat (256 + part.toNat) (16 + k) 1 + 1))]] (.compare part.toNat k (leNat (d.nvBuf.take 8) == pw)) 1 e ∧ Keeps d e [.log, .nv] words) ∧
      (4 < part.toNat → Completes (.nvCmdPwSet part kind) s fun e => ended 1 e ∧ Keeps d e [.log, .nv] words) ∧
      (part.toNat ≤ 4 → Completes (.nvCmdPwSet part kind) s fun e => started [record (8 * k) (d.nvBuf.take 8)] .done 1 e ∧
          Keeps d e [.log, .nv] words) ∧
      (part.toNat ≠ 3 → part.toNat ≠ 4 → Completes (.nvCmdMode part kind) s fun e => ended 1 e ∧ Keeps d e [.log, .nv] words) ∧
      (part.toNat = 3 ∨ part.toNat = 4 → Completes (.nvCmdMode part kind) s fun e =>
        started (record 18 [byteOf (putBit (d.nvNat (256 + part.toNat) 18 1) 0 kind)] :: (List.range 256).map fun i =>
            ⟨partBase part.toNat + i, List.replicate 64 0, false⟩) .done 1 e ∧
        Keeps d e [.log, .nv] words) ∧
      (Completes .nvCmdClearPf s fun e => started [⟨284, List.replicate 64 0, false⟩] .clearPf 1 e ∧ Keeps d e [.log, .nv] words) ∧
      (Completes .nvCmdLock s fun e => ended 0 e ∧ e.get F.NV_STATUS_PW_PASS = 0 ∧ e.mgmt = { d.mgmt with grants := [] } ∧
          Keeps d e [.log, .nv, .mgmt] words)) ∧
    (∀ (p : Fin 5) (o : Nat) (bs : List Byte), o + bs.length ≤ 62 → (d.recordPage p o bs).length = 64 ∧
        ((d.recordPage p o bs).drop o).take bs.length = bs ∧
      crc16 ((d.recordPage p o bs).take 62) = leNat ((d.recordPage p o bs).drop 62) ∧ ∀ i, i < o ∨ o + bs.length ≤ i → i < 62 →
          (d.recordPage p o bs)[i]? = some (Memory.get d.nv.mem (64 * (256 + p) + i)))

/-- The parameter store programs: the four stages of an atomic update, slot pages and the power-fail burst, gaps, refresh and lock-outs
(R369, R371, R372, R373, R375, R380, R382, R383). An update copies its page into the journal, then writes the journal header, then the page,
then the marker; each stage changes only its own bytes, so that the old page or the new one is whole at every moment. The last stage counts
the journal, ends the span with a gap, and ends the command when no page is left. A slot page is programmed in one stage; the burst writes
its pages. The next span waits for the gap. The macro powers off when idle. The refresh advances over the pages and rewrites a weak one; a
lock-out minute counts every lock-out down and saves it every ten. -/
def Obligations.NvPrograms : Prop :=
  ∀ s : State, let d := s.dev
    let e := (d.nv.jseq + 1) % 2 ^ 32 % 128
    let jseq := (d.nv.jseq + 1) % 2 ^ 32
    let writes := fun (t : Dev) (a : Nat) (bs : List Byte) => Memory.read t.nv.mem a bs.length = bs ∧ ∀ o, o < a ∨ a + bs.length ≤ o →
        Memory.get t.nv.mem o = Memory.get d.nv.mem o
    let only := fun (t : Dev) (k : Nat) => t.nv = { d.nv with mem := t.nv.mem } ∧ t.nvStage = k ∧
        Keeps d t [.nv, .nvMem] [wordOf R.NV_STATUS]
    (d.mgmt.nvJob = none → d.nvStage = 0 ∨ (d.nv.op = none ∧ d.nvStage ≠ 6) → exec .nvProgramDone s = .next s) ∧
    (∀ o, d.nv.op = some o → d.mgmt.nvJob = none → ∀ w, o.todo.head? = some w → w.data.length = 64 →
      (d.nvStage = 1 → Completes .nvProgramDone s fun t => writes t (128 * e) (d.nvPage w.page) ∧ only t 2) ∧
      (d.nvStage = 2 → Completes .nvProgramDone s fun t => writes t (128 * e + 64) (jrnlHeader w.page jseq (d.nvPage (2 * e))) ∧ only t 3) ∧
      (d.nvStage = 3 → Completes .nvProgramDone s fun t => writes t (64 * w.page) w.data ∧ only t 4) ∧
      (d.nvStage = 4 → Completes .nvProgramDone s fun t => t.nv.jseq = jseq ∧
          t.get F.NV_JRNL_COUNT_COUNT = (d.get F.NV_JRNL_COUNT_COUNT + 1) % 2 ^ 32 ∧ t.nv.gap = true ∧
        (d.nv.burst = none → (o.todo.length ≠ 1 ∨ o.after = .done) → writes t (128 * e + 80) (jrnlMarker 1 w.page jseq))) ∧
      (d.nvStage = 5 → d.nv.burst = none → 2 ≤ o.todo.length → Completes .nvProgramDone s fun t => writes t (64 * w.page) w.data ∧
          t.nv.gap = true ∧ t.nvStage = 0 ∧
        t.nv.op = some { o with todo := o.todo.drop 1 } ∧ Keeps d t [.nv, .nvMem] [wordOf R.NV_STATUS]) ∧
      (d.nvStage = 4 ∨ d.nvStage = 5 → d.nv.burst = none → d.nv.saves = [] → o.todo.length = 1 → o.cmd = true → o.after = .done →
          Completes .nvProgramDone s fun t => t.nv.op = none ∧
        t.nvStage = 0 ∧ t.get F.NV_STATUS_BUSY = 0 ∧ t.get F.NV_STATUS_ERR = 0 ∧ t.get F.NV_CMD_GO = 0 ∧
            t.get F.NV_STATUS_PAGES_DONE = (d.get F.NV_STATUS_PAGES_DONE + 1) % 2 ^ 10 ∧
        t.raised Ev.NV_DONE = true)) ∧
    (∀ b, d.nv.burst = some b → b.length = 1 → ∀ x ∈ b, x.2.length = 64 → d.nvStage = 6 → d.mgmt.nvJob = none →
        Completes .nvProgramDone s fun t => writes t (64 * x.1) x.2 ∧ t.nv.burst = none ∧
      t.nvStage = 0 ∧ t.get F.NV_STATUS_BUSY = 0 ∧ Keeps d t [.nv, .nvMem] [wordOf R.NV_STATUS]) ∧
    (Completes .nvSpanGap s fun t => t.nv.gap = false ∧ t.nv.mem = d.nv.mem ∧ t.nv.op = d.nv.op ∧ Keeps d t [.nv] [wordOf R.NV_STATUS] ∧
      (∀ o, d.nv.op = some o → ∀ w, o.todo.head? = some w → d.nvStage = 0 → t.nvStage = (if w.slot then 5 else 1) ∧ t.nv.powered = true)) ∧
    (d.on F.NV_STATUS_BUSY = true → exec .nvMacroOff s = .next s) ∧
    (d.on F.NV_STATUS_BUSY = false → Completes .nvMacroOff s fun t => t.nv = { d.nv with powered := false } ∧ Keeps d t [.nv] []) ∧
    (∀ weak still : Bool, let idle := d.on F.NV_STATUS_BUSY = false ∧ d.nv.refuse = false ∧ d.nv.op = none ∧ d.on F.NV_CTRL_REFRESH_EN = true
      let p := d.nv.refreshNext
      (¬ idle → exec (.nvRefreshTick weak still) s = .next s) ∧
      (idle → d.nv.refreshQ = [] → (∀ k ∈ [3, 4], d.nvNat (256 + k) 18 1 % 2 = 0) → weak = false → (p + 1) % 4096 % 256 ≠ 0 →
          Completes (.nvRefreshTick weak still) s fun t =>
        t.nv = { d.nv with powered := true, refreshNext := (p + 1) % 4096 } ∧ Keeps d t [.nv] []) ∧
      (idle → d.nv.refreshQ = [] → (∀ k ∈ [3, 4], d.nvNat (256 + k) 18 1 % 2 = 0) → weak = true → (p + 1) % 4096 % 256 ≠ 0 →
          Completes (.nvRefreshTick weak still) s fun t =>
        t.nv.op = some ⟨false, [⟨p, d.nvPage p, false⟩], .refreshed p still⟩ ∧ t.get F.NV_STATUS_BUSY = 1 ∧
            t.nv.refreshNext = (p + 1) % 4096 ∧ t.nv.mem = d.nv.mem ∧
        Keeps d t [.nv] [wordOf R.NV_STATUS])) ∧
    ((d.nv.lock.map (·.1)).Nodup → Completes .nvLockoutMinute s fun t => (∀ q k, k < 2 → t.lockLeft q k = d.lockLeft q k - 1) ∧
        t.nv.mem = d.nv.mem ∧
      (∀ q k, k < 2 → d.lockLeft q k ≠ 0 → (d.lockLeft q k - 1) % 10 = 0 →
          q ∈ t.nv.saves ∨ t.nv.op.any (fun o => o.todo.any fun w => w.page == 256 + q) = true) ∧ Keeps d t [.nv] [wordOf R.NV_STATUS])

/-- A page of the YL-3200 layout corrects every single-bit error of a group and reports every double-bit error (R381). For every 14 data
bytes: the group as written reads back as it is; with any one of its first 120 bits flipped its data reads back, marked as corrected; and
with any two different of them flipped the group is refused. -/
def Obligations.CompatPages : Prop :=
  ∀ g : List Byte, g.length = 14 →
    let x := sealGroup g
    let flip := fun (i : Nat) (l : List Byte) => l.set (i / 8) (((l[i / 8]?).getD 0) ^^^ BitVec.ofNat 8 (2 ^ (i % 8)))
    x.length = 16 ∧ x.take 14 = g ∧ readGroup x = (some x, false) ∧
    (∀ i < 120, (readGroup (flip i x)).1.map (·.take 14) = some g ∧ (readGroup (flip i x)).2 = true) ∧
    (∀ i < 120, ∀ j < 120, i ≠ j → (readGroup (flip j (flip i x))).1 = none)

/-- JTAG: the TAP's instructions, the debug module behind DBG_LOCK, and the programming of fuses (R394, R429, R430, R431). Each instruction
of the TAP takes effect with the value that its data register captures: the boundary, the identification code, one bypass bit, the debug
transport. With DBG_LOCK both debug instructions are bypass. The debug module halts the processor, moves its registers through the data word
while it is halted, and reads and writes the memory map. Fuses are programmed only in boot hold with supply and temperature in range:
exactly the cells named become 1. -/
def Obligations.TapAndFuses : Prop :=
  ∀ (s : State) (a : BitVec 7) (v : Word), let d := s.dev
    let t := d.tap
    let live := t.dbgLock = false ∧ t.dmActive = true
    (∀ x ∈ [(Instr.tapExtest, 0x00), (.tapSamplePreload, 0x02), (.tapExtestPulse, 0x03), (.tapExtestTrain, 0x04)], Completes x.1 s fun e =>
      e.tap = { t with ir := x.2, dr := Config.boundary d.free } ∧ Keeps d e [.tap, .free] []) ∧
    (∀ x ∈ [(Instr.tapClamp, 0x05), (.tapHighz, 0x06), (.tapBypass, 0xFF)], Completes x.1 s fun e => e.tap = { t with ir := x.2, dr := 0 } ∧
        Keeps d e [.tap] []) ∧
    (Completes .tapIdcode s fun e => e.tap = { t with ir := 1, dr := 0x1740056B } ∧ Keeps d e [.tap] []) ∧
    (Completes .tapDtmcs s fun e => e.tap = { t with ir := 0x10, dr := if t.dbgLock then 0 else 1 + 16 * Config.dmiBits.toNat } ∧
        Keeps d e [.tap] []) ∧
    (∀ op : BitVec 2, t.dbgLock = true → Completes (.tapDmi a v op) s fun e => e.tap = { t with ir := 0x11, dr := 0 } ∧
        Keeps d e [.tap] []) ∧
    (∀ op : BitVec 2, t.dbgLock = false → op ≠ 1 → op ≠ 2 →
        Completes (.tapDmi a v op) s fun e => e.tap = { t with ir := 0x11, dr := a.toNat * 2 ^ 34 } ∧ Keeps d e [.tap] []) ∧
    (t.dbgLock = false → t.dmActive = false → a ≠ 0x10 →
        Completes (.tapDmi a v 2) s fun e => e.tap = { t with ir := 0x11, dr := a.toNat * 2 ^ 34 } ∧ Keeps d e [.tap] []) ∧
    (t.dbgLock = false → Completes (.tapDmi 0x11 v 1) s fun e =>
        e.tap.dr = 0x11 * 2 ^ 34 + 4 * (2 + 0x80 + 0x400000 + (if t.halted then 0x300 else 0xC00) + (if t.resumeAck then 0x30000 else 0)) ∧
      Keeps d e [.tap] []) ∧
    (t.dbgLock = false → v.getLsbD 0 = false → Completes (.tapDmi 0x10 v 2) s fun e => e.tap.dmActive = false ∧ e.tap.cmdErr = 0 ∧
        e.tap.progbuf = [] ∧ e.tap.halted = t.halted ∧ Keeps d e [.tap] []) ∧
    (t.dbgLock = false → t.halted = false → v.getLsbD 0 = true → v.getLsbD 31 = true →
        Completes (.tapDmi 0x10 v 2) s fun e => e.tap.halted = true ∧ e.tap.dmActive = true ∧ e.tap.dpc = d.cp.hart.pc ∧ e.tap.cause = 3 ∧
      Keeps d e [.tap] []) ∧
    (live → Completes (.tapDmi 0x04 v 2) s fun e => e.tap = { t with data := v, ir := 0x11, dr := 4 * 2 ^ 34 } ∧ Keeps d e [.tap] []) ∧
    (t.dbgLock = false → Completes (.tapDmi 0x04 v 1) s fun e => e.tap = { t with ir := 0x11, dr := 4 * 2 ^ 34 + 4 * t.data.toNat } ∧
        Keeps d e [.tap] []) ∧
    (live → t.cmdErr = 0 → t.halted = false → Completes (.tapDmi 0x17 0x00221005 2) s fun e => e.tap.cmdErr = 4 ∧ e.tap.data = t.data ∧
        Keeps d e [.tap] []) ∧
    (live → t.cmdErr = 0 → t.halted = true → (Completes (.tapDmi 0x17 0x00221005 2) s fun e =>
        e.tap = { t with data := d.cp.hart.reg 5, ir := 0x11, dr := 0x17 * 2 ^ 34 } ∧ Keeps d e [.tap] []) ∧
      (Completes (.tapDmi 0x17 0x00231005 2) s fun e => (∀ i < 32, e.cp.hart.reg i = if i = 5 then t.data else d.cp.hart.reg i) ∧
          e.cp.hart.pc = d.cp.hart.pc ∧ Keeps d e [.tap, .cp] [])) ∧
    (live → t.cmdErr ≠ 0 → Completes (.tapDmi 0x17 v 2) s fun e => e.tap = { t with ir := 0x11, dr := 0x17 * 2 ^ 34 } ∧
        Keeps d e [.tap] []) ∧
    (let b := t.sbaddr.toNat; live → t.sbErr = 0 → bits t.sbcs.toNat 19 17 = 2 → 0x08000000 ≤ b → b + 4 ≤ 0x08080000 →
      (b % 4 = 0 → Completes (.tapDmi 0x3C v 2) s fun e => Memory.read e.cp.tcm (b - 0x08000000) 4 = leBytes 4 v.toNat ∧
        (∀ o, o < b - 0x08000000 ∨ b - 0x08000000 + 4 ≤ o → Memory.get e.cp.tcm o = Memory.get d.cp.tcm o) ∧ e.cp.hart = d.cp.hart ∧
            e.tap.sbErr = 0 ∧
        e.tap.sbaddr = t.sbaddr + (if t.sbcs.getLsbD 16 then 4 else 0) ∧ Keeps d e [.tap, .cp, .tcm] []) ∧
      (b % 4 ≠ 0 → Completes (.tapDmi 0x3C v 2) s fun e => e.tap.sbErr = 3 ∧ Keeps d e [.tap] [])) ∧
    (∀ (cells : List (BitVec 9)) (ok : Bool),
      (ok = false ∨ d.get F.BOOT_STATUS_STEP ≠ 15 → Completes (.tapFuse cells ok) s fun e => e.tap = { t with ir := 0x20, dr := d.fuses } ∧
          Keeps d e [.tap] []) ∧
      (ok = true → d.get F.BOOT_STATUS_STEP = 15 → Completes (.tapFuse cells ok) s fun e => e.tap.dr = e.fuses ∧ e.tap.ir = 0x20 ∧
        (∀ c < 256, bit (e.rd R.KEY_FUSE (c / 32)) (c % 32) = (bit (d.rd R.KEY_FUSE (c / 32)) (c % 32) || cells.contains (BitVec.ofNat 9 c))) ∧
        e.on F.FUSE_STATUS_REQUIRE_SIG = (d.on F.FUSE_STATUS_REQUIRE_SIG || cells.contains 256) ∧
            e.tap.dbgLock = (t.dbgLock || cells.contains 257) ∧
        Keeps d e [.tap] [arrayOf R.KEY_FUSE, wordOf R.FUSE_STATUS]))

/-- Mailbox commands for the parameter store and for a boot image: arguments, grants, and the transfer from IMG_BEGIN to IMG_ACTIVATE (R375,
R381, R382, R391, R394, R423, R425, R426, R427). PW_CHECK, PW_SET, NV_READ and NV_WRITE answer BAD_ARG for a bad partition, page or length,
DENIED without the grant that they need, and BUSY while the store runs another command; with a grant NV_READ answers the page and the others
start the store's command. IMG_BEGIN opens a transfer of a legal length; IMG_DATA takes the bytes at the offset received so far; IMG_END
checks the image and writes the slot not in use; IMG_ACTIVATE arms the swap for a frame at least two ahead. Another mailbox's transfer is
BUSY; none, and one that another IMG_BEGIN has abandoned, is IMAGE. -/
def Obligations.StoreAndImageRequests : Prop :=
  ∀ (s : State) (m : Fin 3), let d := s.dev
    let arg := d.mbArgOf m
    let n := d.mbLenOf m
    let part := bits arg 3 0
    let kind := bits arg 8 8
    let badPw := 4 < part ∨ arg ≠ part + 256 * kind ∨ n ≠ 8
    let free := d.on F.NV_STATUS_BUSY = false ∧ d.nv.refuse = false ∧ d.mgmt.nvJob = none ∧ d.nv.saves = [] ∧ d.nv.gap = false ∧
        d.nvStage = 0 ∧ d.on F.NV_CMD_GO = false ∧ d.nv.op = none
    let waits := fun (op p k : Nat) (e : Dev) => e.mgmt.nvJob = some (m.val, op, p, k) ∧ e.mbox = d.mbox ∧ e.get F.NV_STATUS_BUSY = 1 ∧
        e.mgmt.grants = d.mgmt.grants
    let p := bits arg 27 24
    let q := bits arg 11 0
    let badNv := arg ≠ p * 2 ^ 24 + q ∨ ([64, 2052, 1180, 256, 256][p]?).getD 0 ≤ q
    let page := ([288, 608, 2916, 352, 2660][p]?).getD 0 + q
    let len := d.mgmt.imgLen
    (d.servesReq m 0x20 = true → (badPw → Completes (.pwCheck m) s fun e => d.onlyAnswered e m 2) ∧
      (¬ badPw → d.on F.NV_STATUS_BUSY = true → d.nv.refuse = false → Completes (.pwCheck m) s fun e => d.onlyAnswered e m 3) ∧
      (¬ badPw → free → d.nvNat (256 + part) (8 * kind) 8 = 0 → Completes (.pwCheck m) s fun e => d.answered e m 0 [] ∧
        (∀ g, g ∈ e.mgmt.grants ↔ g = 16 * m + 2 * part + kind ∨ g ∈ d.mgmt.grants) ∧ e.mgmt.nvJob = none) ∧
      (¬ badPw → free → d.nvNat (256 + part) (8 * kind) 8 ≠ 0 → d.lockLeft part kind ≠ 0 →
          Completes (.pwCheck m) s fun e => d.answered e m 5 [] ∧ e.mgmt.grants = d.mgmt.grants) ∧
      (¬ badPw → free → d.nvNat (256 + part) (8 * kind) 8 ≠ 0 → d.lockLeft part kind = 0 →
          Completes (.pwCheck m) s (waits 0x20 part kind))) ∧
    (d.servesReq m 0x21 = true → (badPw → Completes (.pwSet m) s fun e => d.onlyAnswered e m 2) ∧
      (¬ badPw → d.granted m part 1 = false → Completes (.pwSet m) s fun e => d.onlyAnswered e m 4) ∧
      (¬ badPw → d.granted m part 1 = true → free → Completes (.pwSet m) s (waits 0x21 part kind))) ∧
    (d.servesReq m 0x23 = true → (badNv → Completes (.nvRead m) s fun e => d.onlyAnswered e m 2) ∧
      (¬ badNv → d.granted m p 0 = false → Completes (.nvRead m) s fun e => d.onlyAnswered e m 4) ∧
      (¬ badNv → d.granted m p 0 = true → free → (∀ k ∈ [3, 4], d.nvNat (256 + k) 18 1 % 2 = 0) →
          Completes (.nvRead m) s fun e => d.answered e m 0 (Memory.read d.nv.mem (64 * page) 64) ∧
        e.mgmt.nvJob = none ∧ e.nv.mem = d.nv.mem)) ∧
    (d.servesReq m 0x24 = true → (badNv ∨ p < 3 ∨ n ≠ 64 → Completes (.nvWrite m) s fun e => d.onlyAnswered e m 2) ∧
      (¬ badNv → 3 ≤ p → n = 64 → d.granted m p 1 = false → Completes (.nvWrite m) s fun e => d.onlyAnswered e m 4) ∧
      (¬ badNv → 3 ≤ p → n = 64 → d.granted m p 1 = true → free → (∀ k ∈ [3, 4], d.nvNat (256 + k) 18 1 % 2 = 0) →
          Completes (.nvWrite m) s fun e => waits 0x24 p 1 e ∧
        e.nv.op = some ⟨true, [⟨page, d.mbData m 64, false⟩], .done⟩)) ∧
    (∀ stage : BitVec 27, let at_ := stage.toNat * 64
      let legal := arg % 4 = 0 ∧ 4100 ≤ arg ∧ arg ≤ 2 ^ 28 ∧ arg ≤ d.slotRoom (1 - d.get F.BOOT_STATUS_SLOT);
      d.servesReq m 0x30 = true →
      (¬ legal → Completes (.imgBegin m stage) s fun e => d.answered e m 2 [] ∧ e.mgmt.imgOwner = none ∧ ∀ x, d.mgmt.imgOwner = some x →
          x ∈ e.mgmt.imgLost) ∧
      (legal → at_ < 0x1A4000000 ∨ 0x1D0000000 < at_ + arg → Completes (.imgBegin m stage) s fun e => d.answered e m 3 [] ∧
          e.mgmt.imgOwner = none) ∧
      (legal → 0x1A4000000 ≤ at_ → at_ + arg ≤ 0x1D0000000 → Completes (.imgBegin m stage) s fun e => d.answered e m 0 [] ∧
          e.mgmt.imgOwner = some m.val ∧ e.mgmt.imgLen = arg ∧ e.mgmt.imgGot = 0 ∧
        e.mgmt.imgBase = at_ ∧ e.mgmt.imgSlot = none ∧ m.val ∉ e.mgmt.imgLost ∧ (∀ x, d.mgmt.imgOwner = some x → x ≠ m.val →
            x ∈ e.mgmt.imgLost) ∧ Keeps d e [.rx, .mbox, .mgmt] [wordOf R.HOST_EVENT])) ∧
    (d.mgmt.imgOwner = none → (d.servesReq m 0x31 = true → Completes (.imgData m) s fun e => d.onlyAnswered e m 9) ∧
        (d.servesReq m 0x32 = true → ∀ good, Completes (.imgEnd m good) s fun e => d.onlyAnswered e m 9) ∧
      (d.servesReq m 0x33 = true → Completes (.imgActivate m) s fun e => d.onlyAnswered e m 9)) ∧
    (∀ o, d.mgmt.imgOwner = some o → o ≠ m.val → let r := if d.mgmt.imgLost.contains m.val then 9 else 3
      (d.servesReq m 0x31 = true → Completes (.imgData m) s fun e => d.onlyAnswered e m r) ∧
      (d.servesReq m 0x32 = true → ∀ good, Completes (.imgEnd m good) s fun e => d.onlyAnswered e m r) ∧ (d.servesReq m 0x33 = true →
          Completes (.imgActivate m) s fun e => d.onlyAnswered e m r)) ∧
    (let w := d.mgmt.imgBase + d.mgmt.imgGot;
      d.mgmt.imgOwner = some m.val → d.servesReq m 0x31 = true →
      (arg ≠ d.mgmt.imgGot ∨ n = 0 ∨ 104 < n ∨ len < d.mgmt.imgGot + n → Completes (.imgData m) s fun e => d.onlyAnswered e m 2) ∧
      (arg = d.mgmt.imgGot → 1 ≤ n → n ≤ 104 → d.mgmt.imgGot + n ≤ len → w + n ≤ 0x1D0000000 → d.dramPlain w n = true →
          Completes (.imgData m) s fun e => d.answered e m 0 [] ∧
        e.mgmt.imgGot = d.mgmt.imgGot + n ∧ Memory.read e.dram.mem w n = d.mbData m n ∧ (∀ i, i < w ∨ w + n ≤ i →
            Memory.get e.dram.mem i = Memory.get d.dram.mem i))) ∧
    (∀ good : Bool, let i : ImgAt := ⟨d.dram.mem, d.mgmt.imgBase⟩;
      d.mgmt.imgOwner = some m.val → d.servesReq m 0x32 = true →
      (d.imgGood = false → Completes (.imgEnd m good) s fun e => d.answered e m 9 [] ∧ e.mgmt.imgOwner = none ∧ e.flash = d.flash) ∧
      (d.imgGood = true → good = true → Completes (.imgEnd m good) s fun e => d.answered e m 0 (leBytes 4 i.seq ++ leBytes 4 i.version) ∧
          e.mgmt.imgSlot = some (1 - d.get F.BOOT_STATUS_SLOT) ∧
        (∀ k < len, Memory.get e.flash (d.slotBase (1 - d.get F.BOOT_STATUS_SLOT) + k) = Memory.get d.dram.mem (d.mgmt.imgBase + k)) ∧
        (∀ o, o < d.slotBase (1 - d.get F.BOOT_STATUS_SLOT) ∨ d.slotBase (1 - d.get F.BOOT_STATUS_SLOT) + len ≤ o →
            Memory.get e.flash o = Memory.get d.flash o)) ∧
      (d.imgGood = true → good = false → Completes (.imgEnd m good) s fun e => d.answered e m 9 [] ∧ e.mgmt.imgOwner = none ∧
        ∀ o, o < d.slotBase (1 - d.get F.BOOT_STATUS_SLOT) ∨ d.slotBase (1 - d.get F.BOOT_STATUS_SLOT) + len ≤ o →
            Memory.get e.flash o = Memory.get d.flash o)) ∧
    (let k := (arg + 2 ^ 32 - d.get F.FRAME_COUNT_FRAME) % 2 ^ 32;
      d.mgmt.imgOwner = some m.val → d.servesReq m 0x33 = true →
      (d.mgmt.imgSlot = none → Completes (.imgActivate m) s fun e => d.onlyAnswered e m 9) ∧
      (d.mgmt.imgSlot.isSome = true → k < 2 ∨ 2 ^ 31 ≤ k → Completes (.imgActivate m) s fun e => d.onlyAnswered e m 2) ∧
      (∀ slot, d.mgmt.imgSlot = some slot → 2 ≤ k → k < 2 ^ 31 → d.mgmt.imgBase < 2 ^ 33 →
          Completes (.imgActivate m) s fun e => d.answered e m 0 [] ∧ e.on F.CP_SWAP_CTRL_GO = true ∧
        e.get F.CP_SWAP_CTRL_SLOT = slot % 2 ∧ e.get F.CP_SWAP_F_F = arg % 2 ^ 32 ∧ e.get F.CP_SWAP_SRC = d.mgmt.imgBase / 64 % 2 ^ 27 ∧
        Keeps d e [.rx, .mbox, .mgmt] [wordOf R.CP_SWAP, wordOf R.CP_SWAP_CTRL, wordOf R.CP_SWAP_F, wordOf R.HOST_EVENT]))

/-- The management port: private reads and writes through the pointer, and the common command codes of I3C (R375, R421, R422, R423). An
address that the port does not hear leaves it alone; while the store programs it is NAKed. The first byte written sets the pointer, and the
data bytes that follow are written at it and after it; a read gives the bytes at the pointer and after it, modulo 256. ENTDAA and SETDASA
assign a dynamic address to a port without one, SETNEWDA changes it, RSTDAA forgets it; the GET codes answer their constants, and ENEC and
DISEC turn the in-band interrupt. Without I3C every code is ignored. -/
def Obligations.ManagementPort : Prop :=
  ∀ (s : State) (a b : BitVec 7), let d := s.dev
    let i3c := d.on F.MGMT_CFG_I3C_EN
    let heard := a ≠ 0 ∧ (a.toNat = d.get F.MGMT_CFG_ADDR ∨ (i3c = true ∧ d.mgmt.dyn = some a.toNat))
    let prog := d.on F.NV_STATUS_PROG
    let direct := i3c = true ∧ d.mgmt.dyn = some a.toNat
    let replies := fun (r : AuxReply) (e : Dev) => e.mgmt = { d.mgmt with reply := r } ∧ Keeps d e [.mgmt] []
    let assigned := fun (x : Nat) (e : Dev) => e.mgmt = { d.mgmt with dyn := some x } ∧ e.raised Ev.I3C_DAA = true ∧
        Keeps d e [.mgmt, .log] (eventWords Ev.I3C_DAA)
    (∀ (w : List Byte) (n : Nat), ¬ heard → exec (.mgmtTransaction a w n) s = .next s) ∧
    (∀ (w : List Byte) (n : Nat), heard → prog = true → Completes (.mgmtTransaction a w n) s (replies .nack)) ∧
    (∀ n : Nat, heard → prog = false → n ≠ 0 → Completes (.mgmtTransaction a [] n) s fun e =>
      e.mgmt = { d.mgmt with ptr := (d.mgmt.ptr + n) % 256, reply := .data ((List.range n).map fun i => d.mbByte 2 ((d.mgmt.ptr + i) % 256)) } ∧ Keeps d e [.mgmt] []) ∧
    (∀ p : Byte, heard → prog = false → Completes (.mgmtTransaction a [p] 0) s fun e =>
        e.mgmt = { d.mgmt with ptr := p.toNat, reply := .ack } ∧ Keeps d e [.mgmt] []) ∧
    (∀ (p : Byte) (bs : List Byte), heard → prog = false → 0x10 ≤ p.toNat → p.toNat + bs.length ≤ 0x80 →
      (d.mbBit 2 0 = false → d.mbBit 2 1 = false → Completes (.mgmtTransaction a (p :: bs) 0) s fun e =>
          Memory.read e.mbox (512 + p.toNat) bs.length = bs ∧
        (∀ o, o < 512 + p.toNat ∨ 512 + p.toNat + bs.length ≤ o → Memory.get e.mbox o = Memory.get d.mbox o) ∧
            e.mgmt.ptr = p.toNat + bs.length ∧ Keeps d e [.mbox, .mgmt] []) ∧
      (bs ≠ [] → d.mbBit 2 0 = true ∨ d.mbBit 2 1 = true → Completes (.mgmtTransaction a (p :: bs) 0) s fun e => e.mbBit 2 2 = true ∧
        (∀ o, o ≠ 512 + 0x80 → Memory.get e.mbox o = Memory.get d.mbox o) ∧ Keeps d e [.mbox, .mgmt] [])) ∧
    (∀ v : Byte, heard → prog = false → (Completes (.mgmtTransaction a [0x0C, v] 0) s fun e =>
        e.rd R.HOST_EVENT = d.rd R.HOST_EVENT &&& (0xFF - v.toNat) ∧ Keeps d e [.mgmt] [wordOf R.HOST_EVENT]) ∧
      (Completes (.mgmtTransaction a [0x0D, v] 0) s fun e => e.get F.HOST_INT_EN_EN = v.toNat ∧ Keeps d e [.mgmt] [wordOf R.HOST_INT_EN])) ∧
    (i3c = false → ∀ c ∈ [Instr.entdaa a, .setdasa b a, .setnewda b a, .rstdaa, .getpid a, .getbcr a, .getdcr a, .getstatus a, .getmwl a,
        .getmrl a, .enec a 1, .disec a 1], exec c s = .next s) ∧
    (d.mgmt.dyn.isSome = true → exec (.entdaa a) s = .next s ∧ exec (.setdasa b a) s = .next s) ∧
    (i3c = true → d.mgmt.dyn = none → (Completes (.entdaa a) s (assigned a.toNat)) ∧
      (b.toNat ≠ d.get F.MGMT_CFG_ADDR → exec (.setdasa b a) s = .next s) ∧
      (b.toNat = d.get F.MGMT_CFG_ADDR → prog = false → Completes (.setdasa b a) s (assigned a.toNat)) ∧
      (b.toNat = d.get F.MGMT_CFG_ADDR → prog = true → Completes (.setdasa b a) s (replies .nack))) ∧
    (i3c = true → Completes .rstdaa s fun e => e.mgmt = { d.mgmt with dyn := none } ∧ Keeps d e [.mgmt] []) ∧
    (¬ direct → ∀ c ∈ [Instr.setnewda a b, .getpid a, .getbcr a, .getdcr a, .getstatus a, .getmwl a, .getmrl a], exec c s = .next s) ∧
    (direct → prog = true → ∀ c ∈ [Instr.setnewda a b, .getpid a, .getbcr a, .getdcr a, .getstatus a, .getmwl a, .getmrl a],
        Completes c s (replies .nack)) ∧
    (direct → prog = false → (Completes (.setnewda a b) s (assigned b.toNat)) ∧
        (Completes (.getpid a) s (replies (.data ((List.range 6).map Config.pid)))) ∧
      (Completes (.getbcr a) s (replies (.data [0x06]))) ∧ (Completes (.getdcr a) s (replies (.data [0x00]))) ∧
          (Completes (.getmwl a) s (replies (.data [1, 0]))) ∧
      (Completes (.getmrl a) s (replies (.data [1, 0]))) ∧
      (Completes (.getstatus a) s fun e => e.mgmt = { d.mgmt with reply := .data [Config.freeByte d.free 0, Config.freeByte d.free 1] } ∧
          Keeps d e [.mgmt, .free] [])) ∧
    (∀ v : Byte, (i3c = true ∧ a = 0x7E) ∨ (direct ∧ prog = false) →
        (Completes (.enec a v) s fun e => e.mgmt = { d.mgmt with ibiEn := d.mgmt.ibiEn || v.getLsbD 0 } ∧ Keeps d e [.mgmt] []) ∧
      (Completes (.disec a v) s fun e => e.mgmt = { d.mgmt with ibiEn := d.mgmt.ibiEn && !v.getLsbD 0 } ∧ Keeps d e [.mgmt] []))

/-- Reset, power-good and the boot: what each reset leaves, the store's recovery, the choice of a slot, training and the device in use
(R312, R356, R364, R374, R387, R390, R391, R395, R396, R402, R404). A loss of supply and RESET_N put everything at its reset value but the
store's cells, the flash, the fuses and the TAP, and the calendar for RESET_N. Power-good runs the store's recovery once: a torn update is
rolled back from its journal image, or reported. BOOT_START samples the straps and picks the slot; a flash failure, which pulses XSPI_RST_N
and resets the part, and a retry pick anew. Training without channel 7 ends in boot hold, a bad image CRC fails the slot, and a boot that
reaches the partners has the image verified, copied and in use, with the boot lock set. Commands out of place do nothing. -/
def Obligations.ResetAndBoot : Prop :=
  ∀ s : State, let d := s.dev
    let step := d.get F.BOOT_STATUS_STEP
    let fuses := [arrayOf R.KEY_FUSE, wordOf R.FUSE_STATUS, wordOf R.DEVICE_UID_LO, wordOf R.DEVICE_UID_HI]
    let cold := fun (e : Dev) (more : List (Nat × Nat)) => Keeps State.reset.dev e [.free, .nv, .nvMem, .flash, .tap] (fuses ++ more) ∧
        e.flash = d.flash ∧
      e.tap = { ir := d.tap.ir, dr := d.tap.dr, dbgLock := d.tap.dbgLock } ∧ (∀ k < 8, e.rd R.KEY_FUSE k = d.rd R.KEY_FUSE k) ∧
          e.rd R.FUSE_STATUS = d.rd R.FUSE_STATUS ∧ e.uid = d.uid ∧
      e.nv = { mem := e.nv.mem } ∧ (d.nvStage = 0 → e.nv.mem = d.nv.mem) ∧
      (d.nvStage = 3 → ∀ o, d.nv.op = some o → ∀ w, o.todo.head? = some w → ∀ x, x < 64 * w.page ∨ 64 * (w.page + 1) ≤ x →
          Memory.get e.nv.mem x = Memory.get d.nv.mem x)
    let good := fun (k : Nat) => let m := d.slotImage k; (m.headerBad d.quadBoot (d.slotRoom k)).isNone
    let straps := d.get F.BOOT_STATUS_STRAPS
    let head := fun (a : Nat) => ({ mode := 0, cmd := 0x13 :: beBytes 4 a, reads := 4096 } : FlashOp)
    (Completes .supplyLoss s fun e => cold e []) ∧
    (Completes .resetNLow s fun e => cold e [wordOf R.CAL_SEC, wordOf R.CAL_SUB] ∧ e.get F.CAL_SEC_SEC = d.get F.CAL_SEC_SEC ∧
        e.get F.CAL_SUB_SUB = d.get F.CAL_SUB_SUB) ∧
    (d.nv.recovered = true → exec .powerGood s = .next s) ∧
    (d.nv.recovered = false → Completes .powerGood s fun e => e.nv.recovered = true ∧ e.log.started = true ∧ e.get F.NV_STATUS_BUSY = 0 ∧
        e.get F.COMP_CTRL_FALLOW_VALID = 0 ∧
      Keeps d e [.log, .nv, .nvMem] [wordOf R.COMP_CTRL, wordOf R.NV_RECOVERY, wordOf R.NV_SEL, wordOf R.NV_CAL_NEXT, wordOf R.NV_AGE_NEXT,
          wordOf R.NV_STATUS, wordOf R.NV_EVENT, wordOf R.LOG_STATUS]) ∧
    (d.nv.recovered = false → d.jrnlTop = none → Completes .powerGood s fun e => e.get F.NV_RECOVERY_ACTION = 0 ∧ e.nv.mem = d.nv.mem) ∧
    (∀ top, d.jrnlTop = some top → let x := top.1; let t := top.2.1; let j := top.2.2.1; let img := d.nvPage (2 * x)
      d.nv.recovered = false →
      (d.markerComplete x t j = true → Completes .powerGood s fun e => e.get F.NV_RECOVERY_ACTION = 0 ∧ e.nv.mem = d.nv.mem ∧
          e.nv.jseq = j) ∧
      (d.markerComplete x t j = false → crc16 img = top.2.2.2 → t < 4096 → (t < 2 * x ∨ 2 * x + 1 < t) →
          Completes .powerGood s fun e => e.get F.NV_RECOVERY_ACTION = 1 ∧ e.get F.NV_RECOVERY_PAGE = t ∧
        e.raised Ev.NV_ROLLBACK = true ∧ Memory.read e.nv.mem (64 * t) 64 = img ∧
        (∀ o, (o < 64 * t ∨ 64 * (t + 1) ≤ o) ∧ (o < 128 * x + 80 ∨ 128 * x + 96 ≤ o) → Memory.get e.nv.mem o = Memory.get d.nv.mem o)) ∧
      (d.markerComplete x t j = false → crc16 img ≠ top.2.2.2 → Completes .powerGood s fun e => e.get F.NV_RECOVERY_ACTION = 2 ∧
          e.raised Ev.NV_JRNL_BAD = true ∧ e.nv.mem = d.nv.mem)) ∧
    (∀ b : BitVec 6, (step ≠ 0 → exec (.bootStart b) s = .next s) ∧
      (step = 0 → d.boot.failed = [] → Completes (.bootStart b) s fun e => e.get F.BOOT_STATUS_STRAPS = b.toNat ∧
          e.on F.WALL_CTRL_ROLE = b.getLsbD 0 ∧ e.ticks = 0 ∧ e.log.started = true ∧
        e.nv.recovered = true ∧ d.picks e b.toNat [] ∧
        e.xspi = { d.xspi with rstN := true } ∧ (b.toNat / 2 % 4 ≠ 2 →
            e.boot.flash.take (d.boot.flash.length + 2) = d.boot.flash ++ [head 0, head (0x2000000 * 2 ^ (b.toNat / 8 % 4))]))) ∧
    (step = 2 → d.quadBoot = true → exec .flashReadFail s = .next s) ∧
    (step = 2 → d.quadBoot = false → d.boot.cand < 2 → Completes .flashReadFail s fun e => d.picks e straps (d.boot.cand :: d.boot.failed) ∧
      e.get (if d.boot.cand = 0 then F.BOOT_STATUS_REASON_A else F.BOOT_STATUS_REASON_B) = 1 ∧
          e.xspi = { d.xspi with pulses := d.xspi.pulses + 1 } ∧
      e.boot.flash.take (d.boot.flash.length + 2) = d.boot.flash ++ [{ mode := 0, cmd := [0x66] }, { mode := 0, cmd := [0x99] }]) ∧
    (∀ c ∈ [Instr.bootHoldRetry, .bootRetry], (step ≠ 15 ∨ d.boot.stopped = true → exec c s = .next s) ∧
      (step = 15 → d.boot.stopped = false → Completes c s fun e => d.picks e straps [] ∧ e.get F.BOOT_STATUS_STRAPS = straps ∧
          e.ticks = d.ticks ∧ e.nv.mem = (if d.nvStage = 0 then d.nv.mem else e.nv.mem))) ∧
    (∀ f : BitVec 8, let after := fun (ch : Nat) => if d.chState ch = 1 then (if f.getLsbD ch then 6 else 2) else d.chState ch
      (step ≠ 2 ∨ d.boot.stopped = true → Completes (.dramTrainDone f) s fun e => (∀ ch < 8, e.chState ch = after ch ∧ (d.chState ch = 1 →
          f.getLsbD ch = true → e.raised Ev.DRAM_TRAIN_FAIL ch = true)) ∧
        Keeps d e [.log] [arrayOf R.DRAM_CH_STATUS, wordOf R.DRAM_EVENT, wordOf R.LOG_STATUS]) ∧
      (step = 2 → d.boot.stopped = false → after 7 = 6 → d.boot.cand < 2 →
          Completes (.dramTrainDone f) s fun e => e.get F.BOOT_STATUS_STEP = 15 ∧
        e.get (if d.boot.cand = 0 then F.BOOT_STATUS_REASON_A else F.BOOT_STATUS_REASON_B) = 10 ∧ (∀ ch < 8, e.chState ch = after ch)) ∧
      (step = 2 → d.boot.stopped = false → after 7 ≠ 6 → d.boot.cand < 2 → (d.slotImage d.boot.cand).len ≤ 2 ^ 28 →
          4100 ≤ (d.slotImage d.boot.cand).len → (d.slotImage d.boot.cand).crcOk = false →
        Completes (.dramTrainDone f) s fun e => d.picks e straps (d.boot.cand :: d.boot.failed) ∧
            e.get (if d.boot.cand = 0 then F.BOOT_STATUS_REASON_A else F.BOOT_STATUS_REASON_B) = 5) ∧
      (step = 2 → d.boot.stopped = false → after 7 ≠ 6 → good d.boot.cand = true → d.boot.cand < 2 →
          Completes (.dramTrainDone f) s fun e => (e.get F.BOOT_STATUS_STEP ∈ [8, 9, 11] →
        let m := d.slotImage d.boot.cand
        m.crcOk = true ∧ d.authBad m = none ∧ e.get F.BOOT_SEQ_SEQ = m.seq ∧ e.get F.BOOT_VERSION_VERSION = m.version ∧
            e.get F.BOOT_STATUS_SLOT = d.boot.cand ∧
        e.on F.BOOT_STATUS_SIGNED = m.isSigned ∧ e.on F.BOOT_CTRL_LOCK = true))) ∧
    (d.on F.BOOT_CTRL_LOCK = false ∨ 9 ≤ step → exec .wallWaitExpire s = .next s) ∧
    (d.on F.BOOT_CTRL_LOCK = true → step = 8 → (d.boot.waitEnum = true ∨ d.boot.stopped = true) →
        Completes .wallWaitExpire s fun e => e.boot = { d.boot with waitOver := true } ∧ Keeps d e [.boot] []) ∧
    (d.on F.BOOT_CTRL_LOCK = true → step = 8 → d.boot.waitEnum = false → d.boot.stopped = false → Completes .wallWaitExpire s fun e =>
      (if d.on F.WALL_CTRL_ROLE ∧ d.noPanel then e.get F.BOOT_STATUS_STEP = 11 ∧ e.cp.fwRuns = true ∧ e.cp.hart.pc = 0x08000000 ∧
          e.rx.started = true ∧ bit (e.rd R.HOST_EVENT) 4 = true
        else e.get F.BOOT_STATUS_STEP = 9 ∧
          (d.get F.PSEQ_STATUS_LIST = 0 → d.pseq.offReq = false → d.pseq.pfailClear = true → d.get F.PSEQ_ON_ACT 0 = 1 →
              e.get F.PSEQ_STATUS_LIST = 1)))

/-- Power fail and its release, and the flash commands: what freezes, what is flushed, what resumes, and where the flash's bytes go (R154,
R156, R369, R384, R389, R390, R406, R428, R444). A power fail is logged, freezes the log, makes the store refuse commands, gives up the
programs that may stop and starts the burst; from the ON list on it starts the PF list, and it stops the boot. Its release ends each of
these, and a requested ON list runs. A flash command waits while the boot ROM owns the flash. A read with an address puts exactly the
flash's bytes into the line store; a write changes only the bytes that it names; the command ends with XSPI_DONE, and a read without strobe
with ERR. -/
def Obligations.PowerFailAndFlash : Prop :=
  ∀ s : State, let d := s.dev
    let done := d.get F.BOOT_STATUS_STEP = 11
    let early := d.get F.BOOT_STATUS_STEP < 9 ∨ d.get F.BOOT_STATUS_STEP = 15
    let n := d.get F.XSPI_LEN_LEN + 1
    let ls := d.get F.XSPI_BUF_BUF * 16
    let a := d.get F.XSPI_ADDR_ADDR
    (d.mgmt.nvJob = none → Completes .pfail s fun e => e.get F.PSEQ_STATUS_PFAIL_LEVEL = 0 ∧ e.raised Ev.PFAIL = true ∧
        e.log.frozen = true ∧ e.get F.LOG_STATUS_FROZEN = 1 ∧ e.nv.refuse = true ∧
      (d.nv.burst = none → d.nvStage ≠ 6 → d.nvStage ≠ 3 → d.nvStage ≠ 4 → e.nvStage = 6 ∧ e.nv.burst.isSome = true ∧ e.nv.op = none ∧
          e.on F.NV_STATUS_BUSY = true ∧
        (d.nvStage = 0 → e.nv.mem = d.nv.mem) ∧ (∀ o, d.nv.op = some o → o.cmd = true → e.get F.NV_STATUS_ERR = 3 ∧ e.get F.NV_CMD_GO = 0 ∧
            e.raised Ev.NV_ERR = true)) ∧
      (d.nvStage = 3 ∨ d.nvStage = 4 → d.nv.burst = none → e.nvStage = d.nvStage ∧ e.nv.op = d.nv.op ∧ e.nv.burst.isSome = true ∧
          e.nv.mem = d.nv.mem) ∧
      (¬ done → e.boot.stopped = true) ∧ (¬ early → (e.pseq.wait ≠ .none → e.get F.PSEQ_STATUS_LIST = 3) ∧ e.pseq.pfailClear = false) ∧
          (early → e.pseq = d.pseq)) ∧
    (Completes .pfailRelease s fun e => e.get F.PSEQ_STATUS_PFAIL_LEVEL = 1 ∧ e.log.frozen = false ∧ e.get F.LOG_STATUS_FROZEN = 0 ∧
        e.nv.refuse = false ∧ e.boot.stopped = false) ∧
    (d.boot.stopped = false → d.nv.saves = [] → d.get F.PSEQ_STATUS_LIST ≠ 0 →
        Completes .pfailRelease s fun e => e.pseq = { d.pseq with pfailClear := true } ∧ e.nv = { d.nv with refuse := false } ∧
      Keeps d e [.log, .nv, .pseq] [wordOf R.PSEQ_STATUS, wordOf R.LOG_STATUS]) ∧
    (d.get F.BOOT_STATUS_STEP ≠ 11 → ∀ x ∈ [(Instr.xspiRead, 0x0), (.xspiWrite, 0x1)], Completes x.1 s fun e => e.xspi.waits = true ∧
        e.get F.XSPI_CMD_GO = 1 ∧ e.get F.XSPI_CMD_ERR = 0 ∧
      e.get F.XSPI_CMD_DIR = x.2 ∧ Keeps d e [.xspi] [wordOf R.XSPI_CMD]) ∧
    (done → d.get F.XSPI_CMD_ADDR_LEN = 4 → d.domOn domLS = true → d.lsPlain ls n = true →
      (Completes .xspiRead s fun e => e.get F.XSPI_CMD_GO = 1 ∧ e.lsPeek ls n = Memory.read d.flash a n ∧ (∀ o, o < ls ∨ ls + n ≤ o →
          Memory.get e.ls.mem o = Memory.get d.ls.mem o) ∧
        e.xspi.waits = false ∧ Keeps d e [.ls, .lsMem, .xspi] [wordOf R.XSPI_CMD]) ∧
      (Completes .xspiWrite s fun e => e.get F.XSPI_CMD_GO = 1 ∧
        (∀ i < n, Memory.get e.flash (a + i) = Config.flashByte (BitVec.ofNat 8 (d.get F.XSPI_CMD_OPCODE)) (Memory.get d.flash (a + i)) (Memory.get d.ls.mem (ls + i))) ∧
        (∀ o, o < a ∨ a + n ≤ o → Memory.get e.flash o = Memory.get d.flash o) ∧ e.xspi.waits = false ∧
            Keeps d e [.flash, .xspi] [wordOf R.XSPI_CMD])) ∧
    (done → d.get F.XSPI_CMD_ADDR_LEN ≠ 4 → Completes .xspiWrite s fun e => e.flash = d.flash ∧ e.get F.XSPI_CMD_GO = 1 ∧
        e.ls.mem = d.ls.mem) ∧
    (d.on F.XSPI_CMD_GO = true → d.xspi.waits = false → Completes .xspiDone s fun e => e.get F.XSPI_CMD_GO = 0 ∧
        Keeps d e [] [wordOf R.XSPI_CMD]) ∧
    (d.on F.XSPI_CMD_GO = false ∨ d.xspi.waits = true → exec .xspiDone s = .next s) ∧
    (d.get F.BOOT_STATUS_STEP ≠ 2 → d.on F.XSPI_CMD_GO = true → d.xspi.waits = false → d.get F.XSPI_CMD_DIR = 0 →
        d.get F.XSPI_CMD_MODE = 2 → Completes .flashReadFail s fun e =>
      e.get F.XSPI_CMD_ERR = 1 ∧ e.get F.XSPI_CMD_GO = 0 ∧ Keeps d e [] [wordOf R.XSPI_CMD])

/-- The ports of the wall: training, loss, packets without acknowledgement, beacons and delay measurement, holdover and the deputy (R314,
R317, R318, R320, R322, R331, R332, R333). A port that is off takes nothing. Training sets, which a port sends until it is up, bring it up
in a row; lost commas or a fourth resend take it down, and its learned addresses are named as lost. An acknowledgement releases its packet
and lets a waiting one leave, in order. Each measurement packet goes out on the ports that the rules name, with its fields and CRC; a
request is answered and sets the child bit; a reply in time enters the delays, whose median is shown. Without beacons the upstream port is
given up; without any a device with an address holds over, and a deputy becomes the Almanac of the next epoch. -/
def Obligations.WallPorts : Prop :=
  ∀ (s : State) (p : Fin 4), let d := s.dev
    let w := d.wp p
    let on := d.wallPortOn p
    let shown := [arrayOf R.WALL_PORT_STATUS, wordOf R.WALL_STATUS, wordOf R.WALL_MEMBERS]
    let others := fun e : Dev => ∀ q < 4, q ≠ p.val → e.wp q = d.wp q
    let out := fun (l : List Sym) (x : WPort) => { x with sent := l, plus := disparityAfter x.plus x.sent }
    let synced := fun (l : List Byte) (x : WPort) =>
        { out (.ctl 0x3C :: (l ++ beBytes 2 (crc16 l)).map .data) x with sync := l ++ beBytes 2 (crc16 l) }
    let cmd := fun (k : Nat) (c : WCmd) => let b := [byteOf c.type, byteOf k] ++ leBytes 2 c.dst ++ leBytes 2 c.src ++ leBytes 2 c.data.length ++ c.data; (.ctl 0xFB :: (b ++ leBytes 4 (crc32 b)).map .data ++ [.ctl 0xFD] : List Sym)
    let role := if d.isAlmanac then 2 else d.get F.WALL_CTRL_ROLE
    let set := fun (rx : Bool) => let b := [byteOf p, byteOf role, byteOf (d.get F.WALL_STATUS_HOPS), if rx then 1 else 0, Config.freeByte d.free 0]; (.ctl 0x1C :: (b ++ [byteOf (crc8 b)]).map .data : List Sym)
    (d.pwrState = 0 → (on = false → exec (.wallSignalDetect p) s = .next s) ∧
      (on = true → Completes (.wallSignalDetect p) s fun e =>
          e.wp p = { (if w.up then w else out (set (decide (32 ≤ w.good))) w) with signal := true } ∧ others e ∧ (w.up = false →
          e.get F.WALL_PORT_STATUS_STATE p = 1) ∧ Keeps d e [.wall, .free] shown)) ∧
    (∀ t : TrainSet, (on = false ∨ w.up = true → exec (.tsReceived p t) s = .next s) ∧
      (on = true → w.up = false → Completes (.tsReceived p t) s fun e => others e ∧
          Keeps d e [.wall, .log, .free] (shown ++ eventWords Ev.WALL_LINK_UP) ∧ (e.wp p).signal = true ∧
        (e.wp p).good = (if t.good then w.good + 1 else if 32 ≤ w.good then w.good else 0) ∧ (e.wp p).peer = (if t.good ∧
            t.rxOk then w.peer + 1 else 0) ∧
        ((e.wp p).up = true ↔ 32 ≤ (e.wp p).good ∧ 8 ≤ (e.wp p).peer) ∧ ((e.wp p).up = true → e.raised Ev.WALL_LINK_UP = true) ∧
            ((e.wp p).up = false → (e.wp p).sent = set (decide (32 ≤ (e.wp p).good)) ∧ (e.wp p).plus = disparityAfter w.plus w.sent))) ∧
    (∀ n : Nat, (on = false → exec (.wallCommaTimeout p n) s = .next s) ∧
      (on = true → Completes (.wallCommaTimeout p n) s fun e => (e.wp p).up = false ∧ (e.wp p).unacked = [] ∧ (e.wp p).lseq = w.lseq ∧
          e.wall.upstream ≠ some p.val ∧
        e.get F.WALL_PORT_ERR_COUNT p = (d.get F.WALL_PORT_ERR_COUNT p + n) % 2 ^ 32 ∧ (w.up = true → e.raised Ev.WALL_LINK_DOWN = true) ∧
        (d.wall.upstream ≠ some p.val → e.wall.upstream = d.wall.upstream) ∧
        (w.up = true → w.child = true → d.isAlmanac = true → ∀ a ∈ w.learned, a ∉ e.wall.members ∧ e.raised Ev.WALL_LAG = true) ∧
        (w.up = true → w.child = true → d.isAlmanac = false → w.learned ≠ [] → w.learned.length ≤ 256 → ∀ q < 4, q ≠ p.val →
            d.wall.upstream = some q → (d.wp q).up = true → (d.wp q).fenced = false →
          (⟨0x03, 0xFFFE, d.wallSrc, w.learned.flatMap (leBytes 2)⟩ : WCmd) ∈ (e.wp q).unacked.map (·.2) ++ (e.wp q).backlog))) ∧
    (∀ l : Byte, let rest := w.unacked.filter fun u => u.1 != l.toNat
      ((∀ u ∈ w.unacked, u.1 ≠ l.toNat) → exec (.lakRx p l) s = .next s) ∧
      ((∃ u ∈ w.unacked, u.1 = l.toNat) → Completes (.lakRx p l) s fun e => others e ∧ (e.wp p).resent = 0 ∧
        (e.wp p).unacked.map (·.2) ++ (e.wp p).backlog = rest.map (·.2) ++ w.backlog ∧ (rest.length ≤ 8 →
            (e.wp p).unacked.length = min 8 (rest.length + w.backlog.length)) ∧
        (w.backlog = [] → e.wp p = { w with unacked := rest, resent := 0 }) ∧ (∀ c, w.backlog.head? = some c → w.backlog.length = 1 →
            rest.length < 8 → (e.wp p).sent = cmd w.lseq c) ∧ Keeps d e [.wall] [])) ∧
    (w.unacked = [] → exec (.cmdResend p) s = .next s) ∧
    (∀ u, w.unacked.head? = some u → w.resent < 3 → Completes (.cmdResend p) s fun e =>
        e.wp p = { out (cmd u.1 u.2) w with resent := w.resent + 1 } ∧ others e ∧ Keeps d e [.wall] []) ∧
    (w.unacked ≠ [] → 3 ≤ w.resent → w.up = true → Completes (.cmdResend p) s fun e => (e.wp p).up = false ∧
        e.raised Ev.WALL_LINK_DOWN = true ∧ (e.wp p).unacked = []) ∧
    (∀ now : BitVec 64, Completes (.dreqTx now) s fun e => (∀ q < 4, let x := d.wp q
        e.wp q = if x.up && !x.fenced then { synced ([2, byteOf (d.get F.WALL_STATUS_EPOCH), (if d.wall.upstream = some q then 1 else 0), 0] ++
          leBytes 4 now.toNat ++ List.replicate 10 0 ++ [byteOf x.seqD, 0]) x with seqD := (x.seqD + 1) % 256, dreq := some (x.seqD,
              now.toNat % 2 ^ 32) } else x) ∧ Keeps d e [.wall] []) ∧
    (∀ (now : BitVec 64) (fs : BitVec 32), Completes (.beaconTx now fs) s fun e => e.get F.WALL_TIME_LO_TIME = now.toNat % 2 ^ 32 ∧
        e.get F.WALL_TIME_HI_TIME = now.toNat / 2 ^ 32 ∧
      Keeps d e [.wall] [wordOf R.WALL_TIME_LO, wordOf R.WALL_TIME_HI] ∧
      (d.wall.root = none ∨ d.wallState = 6 ∨ d.get F.WALL_STATUS_HOPS = 0xF → e.wall = d.wall) ∧
      (∀ root, d.wall.root = some root → d.wallState ≠ 6 → d.get F.WALL_STATUS_HOPS ≠ 0xF → ∀ q < 4, let x := d.wp q
        e.wp q = if x.up && !x.fenced && d.wall.upstream != some q then { synced ([1, byteOf (d.get F.WALL_STATUS_EPOCH)] ++ leBytes 2 (root + d.get F.WALL_STATUS_HOPS * 4096) ++
          leBytes 4 now.toNat ++ leBytes 4 d.nextFrame ++ leBytes 4 fs.toNat ++ leBytes 2 d.latchLeadUs ++ [byteOf x.seqB,
              0]) x with seqB := (x.seqB + 1) % 256 } else x)) ∧
    (∀ (child : Bool) (t1 t2 t3 : BitVec 32) (seq : Byte), (on = false ∨ w.up = false ∨ w.fenced = true →
        exec (.dreqRx p child t1 seq t2 t3) s = .next s) ∧
      (on = true → w.up = true → w.fenced = false → Completes (.dreqRx p child t1 seq t2 t3) s fun e => others e ∧ Keeps d e [.wall] shown ∧
        e.wp p = { synced ([3, byteOf (d.get F.WALL_STATUS_EPOCH), 0, 0] ++ leBytes 4 t1.toNat ++ leBytes 4 t2.toNat ++ leBytes 4 t3.toNat ++ [0, 0, seq, 0]) w with child := child } ∧
        (d.wall.upstream ≠ some p.val → e.get F.WALL_PORT_STATUS_STATE p = if child then 3 else 4))) ∧
    (∀ (t1 t2 t3 : BitVec 32) (seq : Byte) (t4 : BitVec 32), let dt := (t4 - t1).toNat
      (w.dreq ≠ some (seq.toNat, t1.toNat) → exec (.drspRx p t1 t2 t3 seq t4) s = .next s) ∧
      (w.dreq = some (seq.toNat, t1.toNat) → 1600000 < dt →
          Completes (.drspRx p t1 t2 t3 seq t4) s fun e => e.wp p = { w with dreq := none } ∧ others e ∧ Keeps d e [.wall] []) ∧
      (w.dreq = some (seq.toNat, t1.toNat) → dt ≤ 1600000 → Completes (.drspRx p t1 t2 t3 seq t4) s fun e => others e ∧
          Keeps d e [.wall] [arrayOf R.WALL_PORT_STATUS] ∧
        e.wp p = { w with dreq := none, delays := (((dt : Int) - (t3 - t2).toInt).fdiv 2 :: w.delays).take 5 } ∧
            e.get F.WALL_PORT_STATUS_DELAY p = wrap 16 (medianI (e.wp p).delays))) ∧
    (d.wall.upstream = none → exec .upstreamTimeout s = .next s) ∧
    (∀ q, d.wall.upstream = some q → Completes .upstreamTimeout s fun e => (e.wp q).beacon = none ∧ e.wall.upstream ≠ some q ∧
      ((∀ r < 4, r ≠ q → (d.wp r).beacon = none) → d.isAlmanac = false → e.wall.upstream = none ∧ e.get F.WALL_STATUS_HOPS = 0xF)) ∧
    (d.on F.WALL_CTRL_EN = false ∨ d.isAlmanac = true ∨ d.wall.root = none ∨ d.ownAddr = none ∨ d.wallState = 4 →
        exec .almanacLost s = .next s) ∧
    (d.on F.WALL_CTRL_EN = true → d.isAlmanac = false → d.wall.root ≠ none → d.ownAddr ≠ none → d.wallState ≠ 4 →
        Completes .almanacLost s fun e => (∀ q < 4, (e.wp q).beacon = none) ∧ e.wall.upstream = none ∧
      e.raised Ev.WALL_HOLDOVER = true ∧ Keeps d e [.wall, .log] (shown ++ eventWords Ev.WALL_HOLDOVER ++ eventWords Ev.WALL_ALMANAC) ∧
      (if d.on F.WALL_CTRL_DEPUTY then e.wallState = 5 ∧ e.get F.WALL_STATUS_HOPS = 0 ∧
          e.get F.WALL_STATUS_EPOCH = (d.get F.WALL_STATUS_EPOCH + 1) % 256 ∧ e.wall.root = d.ownAddr ∧ e.wall.members = [] ∧
          e.wall.binds = (d.ownAddr.toList.map fun a => (d.uid, a)) ∧
        e.raised Ev.WALL_ALMANAC = true else e.wallState = 4 ∧ e.get F.WALL_STATUS_HOPS = 0xF ∧
            e.get F.WALL_STATUS_EPOCH = d.get F.WALL_STATUS_EPOCH))

/-- A beacon arrives: older epochs ignored, newer ones taken, a second Almanac, the tree, the servo and the lock (R322, R323, R324, R326,
R327, R329, R331, R333). A beacon on a port that is off, down or fenced does nothing, nor does one of an older epoch. An Almanac yields to a
newer epoch or a lower root, and fences the port of its own root; a member takes a newer epoch or a lower root and fences the port of a
higher one. A member without an upstream port takes one at up to 10 hops and joins; deeper it is an orphan. A beacon of the upstream port
moves the wall time by its offset, once the delay is known; 16 small offsets lock, 4 large ones unlock, a device that is acquiring steps its
frame number and start, and the first beacons of two frames decide the timing check. -/
def Obligations.WallTiming : Prop :=
  ∀ (s : State) (p : Fin 4) (b : Beacon) (tRx : BitVec 64) (own : BitVec 32), let d := s.dev
    let w := d.wp p
    let heard := d.wallPortOn p = true ∧ w.up = true ∧ w.fenced = false
    let held := d.get F.WALL_STATUS_EPOCH
    let e8 := (b.epoch.toNat + 256 - held) % 256
    let newer := 1 ≤ e8 ∧ e8 ≤ 127
    let c := Instr.beaconRx p b tRx own
    let idle := d.get F.BOOT_STATUS_STEP ≠ 8
    let alone := ∀ q < 4, q ≠ p.val → (d.wp q).beacon = none ∧ d.wall.upstream ≠ some q
    let free := w.child = false
    let o := sgn 32 (((b.tTx.toNat : Int) + medianI w.delays + d.getS F.DELAY_ADJ_ADJ p - (tRx.toNat : Int)) % 4294967296).toNat
    let quiet := idle ∧ heard ∧ d.isAlmanac = false ∧ d.wall.root = some b.root.toNat ∧ b.epoch.toNat = held ∧
        d.wall.upstream = some p.val ∧ b.hops.toNat < 10
    let period := 16 * 1000000 * (d.get F.RASTER_H_H_TOTAL * d.get F.RASTER_V_V_TOTAL) / (8 * d.get F.PIPE_CLK_FREQ)
    (idle → ¬ heard → exec c s = .next s) ∧
    (idle → heard → ¬ newer → b.epoch.toNat ≠ held → d.wall.root ≠ none → exec c s = .next s) ∧
    (idle → heard → d.isAlmanac = true → ∀ mine, d.wall.root = some mine → b.epoch.toNat = held →
      (mine < b.root.toNat → exec c s = .next s) ∧
      (b.root.toNat = mine → Completes c s fun e => (e.wp p).fenced = true ∧ e.raised Ev.WALL_DUAL = true ∧ e.isAlmanac = true ∧
          e.get F.WALL_PORT_STATUS_STATE p = 5)) ∧
    (idle → heard → d.isAlmanac = true → newer ∨ (b.epoch.toNat = held ∧ ∃ mine, d.wall.root = some mine ∧ b.root.toNat < mine) →
        Completes c s fun e => e.isAlmanac = false ∧
      e.get F.WALL_STATUS_EPOCH = b.epoch.toNat ∧ e.wall.root = some b.root.toNat ∧ e.wall.members = [] ∧ (d.on F.WALL_CTRL_ROLE = true →
          e.raised Ev.WALL_YIELD = true)) ∧
    (idle → heard → d.isAlmanac = false → d.wall.root = none ∨ newer ∨ (b.epoch.toNat = held ∧ ∃ mine, d.wall.root = some mine ∧
        b.root.toNat < mine) → Completes c s fun e =>
      e.get F.WALL_STATUS_EPOCH = b.epoch.toNat ∧ e.wall.root = some b.root.toNat ∧
          (e.wp p).beacon = some (b.epoch.toNat, b.root.toNat, b.hops.toNat)) ∧
    (idle → heard → d.isAlmanac = false → ∀ mine, d.wall.root = some mine → b.epoch.toNat = held → mine < b.root.toNat →
        Completes c s fun e => (e.wp p).fenced = true ∧
      e.raised Ev.WALL_DUAL = true ∧ e.wall.upstream ≠ some p.val ∧ e.wall.root = some mine) ∧
    (idle → heard → d.isAlmanac = false → d.wall.root = some b.root.toNat → b.epoch.toNat = held → d.wall.upstream = none → alone → free →
      (b.hops.toNat < 10 → Completes c s fun e => e.wall.upstream = some p.val ∧ e.get F.WALL_STATUS_HOPS = b.hops.toNat + 1 ∧
          e.get F.WALL_PORT_STATUS_STATE p = 2 ∧
        ((e.wp p).unacked.map (·.2) ++ (e.wp p).backlog).any (fun x =>
            x.type == 1 && x.dst == 0xFFFE && x.data.take 8 == leBytes 8 d.uid) = true) ∧
      (10 ≤ b.hops.toNat → d.wallState ≠ 6 → Completes c s fun e => e.wall.upstream = none ∧ e.wallState = 6 ∧
          e.raised Ev.WALL_DEPTH = true ∧ e.get F.WALL_STATUS_HOPS = 0xF)) ∧
    (quiet → w.delays = [] → Completes c s fun e => e.get F.WALL_STATUS_HOPS = b.hops.toNat + 1 ∧
        e.get F.WALL_OFFSET_OFFSET = d.get F.WALL_OFFSET_OFFSET ∧ e.wallState = d.wallState ∧ e.wall.last = d.wall.last) ∧
    (quiet → w.delays ≠ [] → Completes c s fun e => e.get F.WALL_OFFSET_OFFSET = wrap 32 o ∧
        e.get F.WALL_TIME_LO_TIME = wrap 64 (tRx.toNat + o) % 2 ^ 32 ∧ e.get F.WALL_TIME_HI_TIME = wrap 64 (tRx.toNat + o) / 2 ^ 32 ∧
      e.wall.last = some (b.frame.toNat, b.fsTime.toNat)) ∧
    (quiet → w.delays ≠ [] → d.wall.timing.isSome = true →
      (d.wallState = 2 → o.natAbs < 160 → d.wall.near = 15 → Completes c s fun e => e.wallState = 3 ∧ e.raised Ev.WALL_LOCK = true) ∧
      (d.wallState = 2 → o.natAbs < 160 → d.wall.near < 15 → Completes c s fun e => e.wallState = 2 ∧ e.wall.near = d.wall.near + 1) ∧
      (d.wallState = 2 → 160 ≤ o.natAbs → Completes c s fun e => e.wallState = 2 ∧ e.wall.near = 0) ∧
      (d.wallState = 3 → 800 < o.natAbs → d.wall.far = 3 → Completes c s fun e => e.wallState = 2 ∧ e.wall.far = 0) ∧
      (d.wallState = 3 → 800 < o.natAbs → d.wall.far < 3 → Completes c s fun e => e.wallState = 3 ∧ e.wall.far = d.wall.far + 1) ∧
      (d.wallState = 3 → o.natAbs ≤ 800 → Completes c s fun e => e.wallState = 3 ∧ e.wall.far = 0)) ∧
    (quiet → w.delays ≠ [] → d.wall.timing.isSome = true →
      (d.wallState ≠ 2 ∨ d.wall.step.isSome = true ∨ d.wall.stretchLeft ≠ 0 → Completes c s fun e => e.wall.step = d.wall.step) ∧
      (d.wallState = 2 → d.wall.step = none → d.wall.stretchLeft = 0 → Completes c s fun e => let x := (e.wall.step.map (·.2)).getD 0
        x * 16 < max 1 period ∧ (d.floorNs < d.nominalNs + d.lineNs → x = 0) ∧ (own = b.fsTime → 0 < period →
            e.wall.step = if d.nextFrame = b.frame.toNat then none else some ((b.frame.toNat + 2 ^ 32 - d.nextFrame) % 2 ^ 32, 0)))) ∧
    (∀ last, d.wall.last = some last → quiet → w.delays ≠ [] → d.wall.timing = none → d.on F.WALL_ADDR_VALID = true →
        last.1 ≠ b.frame.toNat →
      (d.timingOk last.1 last.2 b.frame.toNat b.fsTime.toNat b.latchLead.toNat = true → Completes c s fun e => e.wall.timing = some true ∧
          (e.wallState = 2 ∨ (e.wallState = 3 ∧ e.raised Ev.WALL_LOCK = true))) ∧
      (d.timingOk last.1 last.2 b.frame.toNat b.fsTime.toNat b.latchLead.toNat = false → Completes c s fun e => e.wall.timing = some false ∧
          e.raised Ev.WALL_TIMING = true))

/-- CMD packets of the wall: duplicates, reserved addresses and routes, forwarding, and what each type does where it is delivered (R315,
R319, R320, R325, R326, R336, R337, R346, R353, R354). A packet on a port that does not hear does nothing; a duplicate is acknowledged only;
one with a reserved address or without a route is counted. The source of one from below is learned; a packet for another device leaves on
its route alone, and a broadcast is delivered and leaves on every other downstream port. Delivered: a JOIN binds an address, by the order of
the rules, and is answered with ASSIGN; ASSIGN sets the address; LOST and a RESULT other than APPLIED mark the lagging; a register write
writes, a read is answered; messages and state commands reach their registers. -/
def Obligations.WallPackets : Prop :=
  ∀ (s : State) (p : Fin 4) (h : WallHdr), let d := s.dev
    let w := d.wp p
    let heard := d.wallPortOn p = true ∧ w.up = true ∧ w.fenced = false
    let fresh := heard ∧ h.lseq.toNat ∉ w.seen
    let dst := h.dst.toNat
    let src := h.src.toNat
    let odd := fun (a : Nat) => 0x400 ≤ a ∧ a ≤ 0xFFFC
    let here := fresh ∧ ¬ odd src ∧ (dst = 0xFFFD ∨ (dst = 0xFFFE ∧ d.isAlmanac = true) ∨ (dst < 0x400 ∧ d.ownAddr = some dst))
    let all := [(Instr.lost p h [5], 0x1), (.rdRsp p h 0 [7], 0x1), (.msg p h [1], 0x1), (.result p h 5 2, 0x1), (.ack p h 5 1 0 0, 0x1),
        (.go p h 5 9, 0x1), (.abort p h 5 9, 0x1), (.noticeNak p h 5 9, 0x1),
      (.noticeDone p h 5 1 0, 0x1), (.wallRegRd p h 8 1, 0x1), (.wallRegWr p h 8 [3], 0x1), (.wallState p h 0 9, 0x1),
          (.prepare p h 5 9 0 false 0 [], 0x1)]
    let sent := fun (e : Dev) (q : Nat) => (e.wp q).unacked.map (·.2) ++ (e.wp q).backlog
    let acked := { w with sent := [.ctl 0x9C, .data h.lseq, .data (byteOf (crc8 [h.lseq]))], plus := disparityAfter w.plus w.sent }
    let shown := [arrayOf R.WALL_PORT_STATUS, wordOf R.WALL_STATUS, wordOf R.WALL_MEMBERS]
    (∀ x ∈ all, (¬ heard → exec x.1 s = .next s) ∧
      (heard → h.lseq.toNat ∈ w.seen → Completes x.1 s fun e =>
          e.wp p = { acked with seen := h.lseq.toNat :: w.seen.filter (· != h.lseq.toNat) } ∧ Keeps d e [.wall] []) ∧
      (fresh → odd src ∨ odd dst → Completes x.1 s fun e => e.wp p = { acked with seen := (h.lseq.toNat :: w.seen).take 8 } ∧
          e.get F.WALL_DROP_COUNT_COUNT = (d.get F.WALL_DROP_COUNT_COUNT + 1) % 2 ^ 32 ∧
        Keeps d e [.wall] [wordOf R.WALL_DROP_COUNT]) ∧
      (fresh → ¬ odd src → ¬ odd dst → src < 0x400 → d.wall.upstream ≠ some p.val → dst < 0x400 → d.ownAddr ≠ some dst →
          Completes x.1 s fun e => src ∈ (e.wp p).learned ∧ (∀ q < 4, q ≠ p.val → src ∉ (e.wp q).learned))) ∧
    (¬ heard → ∀ (id : BitVec 64) (r : BitVec 16), exec (.join p h id r r) s = .next s ∧ exec (.assign p h id r false) s = .next s) ∧
    (∀ data : List Byte, fresh → ¬ odd src →
      (here → Completes (.msg p h data) s fun e => e.wall.msg = (src, data) ∧ e.raised Ev.WALL_MSG = true ∧
          (e.wp p).seen = (h.lseq.toNat :: w.seen).take 8 ∧
        Keeps d e [.wall, .log] (shown ++ eventWords Ev.WALL_MSG)) ∧
      (dst = 0xFFFF → d.wallState ≠ 6 → Completes (.msg p h data) s fun e => e.wall.msg = (src, data) ∧ ∀ q ∈ d.wallDown, q ≠ p.val →
          (⟨0x30, dst, src, data⟩ : WCmd) ∈ sent e q) ∧
      (dst < 0x400 → d.ownAddr ≠ some dst → d.wallState ≠ 6 →
          ∀ q, (d.wallDown.find? fun q => q != p.val && (d.wp q).learned.contains dst) = some q → src ≠ dst →
          Completes (.msg p h data) s fun e =>
        (⟨0x30, dst, src, data⟩ : WCmd) ∈ sent e q ∧ e.wall.msg = d.wall.msg ∧ ∀ r < 4, r ≠ q → sent e r = sent d r) ∧
      (dst < 0x400 → d.ownAddr ≠ some dst → d.wall.upstream = none → (∀ q < 4, q ≠ p.val → dst ∉ (d.wp q).learned) →
          Completes (.msg p h data) s fun e =>
        e.get F.WALL_DROP_COUNT_COUNT = (d.get F.WALL_DROP_COUNT_COUNT + 1) % 2 ^ 32 ∧ e.wall.msg = d.wall.msg)) ∧
    (here → ∀ (st : Byte) (ws : List Word), Completes (.rdRsp p h st ws) s fun e => e.wall.rsp = (src, st :: ws.flatMap fun w =>
        leBytes 4 w.toNat) ∧ Keeps d e [.wall] shown) ∧
    (here → ∀ (set : BitVec 16) (oc : Byte), src < 1024 →
        Completes (.result p h set oc) s fun e => Keeps d e [.wall, .log] (arrayOf R.WALL_LAG :: shown ++ eventWords Ev.WALL_LAG) ∧
      (oc ≠ 1 → bit (e.get F.WALL_LAG_MEMBER (src / 32)) (src % 32) = true ∧ e.raised Ev.WALL_LAG = true) ∧ (oc = 1 →
          ∀ k < 32, e.get F.WALL_LAG_MEMBER k = d.get F.WALL_LAG_MEMBER k)) ∧
    (here → ∀ l : List (BitVec 16), l ≠ [] → Completes (.lost p h l) s fun e => e.raised Ev.WALL_LAG = true ∧
        (∀ a ∈ l, a.toNat ∉ e.wall.members ∧ (a.toNat < 1024 → bit (e.get F.WALL_LAG_MEMBER (a.toNat / 32)) (a.toNat % 32) = true)) ∧
      (∀ m ∈ d.wall.members, (∀ a ∈ l, a.toNat ≠ m) → m ∈ e.wall.members)) ∧
    (here → ∀ (id : BitVec 64) (r cur : BitVec 16), let free := fun (a : Nat) => ∀ x ∈ d.wall.binds, x.2 = a → x.1 = id.toNat
      let gets := fun (a : Nat) => Completes (.join p h id r cur) s fun e => e.get F.WALL_JOIN_INFO_ADDR = a ∧
          e.get F.WALL_JOIN_INFO_REFUSED = 0 ∧ e.raised Ev.WALL_JOIN = true ∧ assoc id.toNat e.wall.binds = some a ∧
        a ∈ e.wall.members ∧ (⟨0x02, a, d.wallSrc, leBytes 8 id.toNat ++ leBytes 2 a ++ [0]⟩ : WCmd) ∈ sent e p ∧
            assoc id.toNat e.wall.paths = some p.val
      (∀ a, assoc id.toNat d.wall.binds = some a → a < 1024 → gets a) ∧
      (assoc id.toNat d.wall.binds = none → cur.toNat ≤ 1023 → free cur.toNat → gets cur.toNat) ∧
      (assoc id.toNat d.wall.binds = none → 1023 < cur.toNat → 1 ≤ r.toNat → r.toNat ≤ 1023 → free r.toNat → gets r.toNat) ∧
      (∀ k < 1023, assoc id.toNat d.wall.binds = none → 1023 < cur.toNat → (r = 0 ∨ 1023 < r.toNat ∨ ¬ free r.toNat) →
          (∀ i < k, ¬ free (i + 1)) → free (k + 1) → gets (k + 1))) ∧
    (∀ (id : BitVec 64) (a : BitVec 16) (no : Bool), (fresh → odd src ∨ odd dst →
        Completes (.assign p h id a no) s fun e => e.get F.WALL_DROP_COUNT_COUNT = (d.get F.WALL_DROP_COUNT_COUNT + 1) % 2 ^ 32 ∧
        Keeps d e [.wall] [wordOf R.WALL_DROP_COUNT]) ∧
      (fresh → ¬ odd src → ¬ odd dst →
      (id.toNat = d.uid → no = false → Completes (.assign p h id a no) s fun e => e.get F.WALL_ADDR_ADDR = a.toNat % 2 ^ 10 ∧
          e.on F.WALL_ADDR_VALID = true ∧ Keeps d e [.wall] [wordOf R.WALL_ADDR]) ∧
      (id.toNat = d.uid → no = true → Completes (.assign p h id a no) s fun e => Keeps d e [.wall] []) ∧
      (∀ q, assoc id.toNat d.wall.paths = some q → id.toNat ≠ d.uid → d.wallState ≠ 6 → (d.wp q).up = true → (d.wp q).fenced = false →
          Completes (.assign p h id a no) s fun e => Keeps d e [.wall] [] ∧
        (⟨0x02, dst, src, leBytes 8 id.toNat ++ leBytes 2 a.toNat ++ [if no then 1 else 0]⟩ : WCmd) ∈ sent e q) ∧
      (id.toNat ≠ d.uid → assoc id.toNat d.wall.paths = none →
          Completes (.assign p h id a no) s fun e => e.get F.WALL_DROP_COUNT_COUNT = (d.get F.WALL_DROP_COUNT_COUNT + 1) % 2 ^ 32))) ∧
    (here → ∀ v : Word, Completes (.wallRegWr p h (BitVec.ofNat 32 (R.SYS_INT_EN.at 0 - 0x40000000)) [v]) s fun e =>
        e.rd R.SYS_INT_EN = v.toNat &&& R.SYS_INT_EN.rw ∧ Keeps d e [.wall] (wordOf R.SYS_INT_EN :: shown)) ∧
    (here → src < 0x400 → p.val ∈ d.wallDown → Completes (.wallRegRd p h (BitVec.ofNat 32 (R.SYS_INT_EN.at 0 - 0x40000000)) 1) s fun e =>
      (⟨0x22, src, d.wallSrc, Config.rdStatus true :: leBytes 4 (d.rd R.SYS_INT_EN)⟩ : WCmd) ∈ sent e p ∧ Keeps d e [.wall, .free] shown) ∧
    (here → ∀ (code : Byte) (f : BitVec 32), let k := (f - BitVec.ofNat 32 (d.get F.FRAME_COUNT_FRAME)).toNat
      (d.on F.PWR_CFG_HOST_GATE = true → Completes (.wallState p h code f) s fun e => e.raised Ev.STATE_REQ = true ∧ e.pwr = d.pwr) ∧
      (d.on F.PWR_CFG_HOST_GATE = false → code.toNat ≤ 3 → k < 2 ∨ 2 ^ 31 ≤ k →
          Completes (.wallState p h code f) s fun e => e.raised Ev.PWR_REFUSE = true ∧ e.pwr = d.pwr) ∧
      (d.on F.PWR_CFG_HOST_GATE = false → code.toNat ≤ 3 → 2 ≤ k → k < 2 ^ 31 → d.pwrState = 0 →
          Completes (.wallState p h code f) s fun e =>
        e.pwr = { d.pwr with wallCmd := some ⟨code.toNat, 12, 0, some f.toNat⟩ })) ∧
    (∀ a : BitVec 10, d.reaches domWALL (R.WALL_REMOVE.at 0) = true →
        Completes (.wallRemove a) s fun e => e.wall = { d.wall with binds := d.wall.binds.filter fun b => b.2 != a.toNat } ∧
        Keeps d e [.wall] [])

/-- An Equinox set: its start, PREPARE, acknowledgements and their sums, GO, ABORT and the deadlines (R334, R335, R336, R337, R341, R30).
The Almanac starts a set of a frame at least 2 ahead, with the members that SCOPE names, or refuses it. A member stages what PREPARE brings
by KIND and scope. Its acknowledgement becomes a NAK for timing, lock, a past frame or a pending commit. The ACKs of the downstream ports
add up; one ACK goes upstream when all are in or at the deadline. GO leaves when all have acknowledged and F - 1 is past; at F - 1 a member
commits; past F it drops the set as LATE. ABORT discards the shadows and leaves a RESULT. -/
def Obligations.EquinoxCommits : Prop :=
  ∀ (s : State) (p : Fin 4) (h : WallHdr) (set : BitVec 16) (f : BitVec 32), let d := s.dev
    let w := d.wp p
    let src := h.src.toNat
    let heard := d.wallPortOn p = true ∧ w.up = true ∧ w.fenced = false ∧ h.lseq.toNat ∉ w.seen ∧ ¬ (0x400 ≤ src ∧ src ≤ 0xFFFC)
    let here := heard ∧ h.dst.toNat = 0xFFFD
    let all := heard ∧ h.dst.toNat = 0xFFFF
    let frame := d.get F.FRAME_COUNT_FRAME
    let dist := fun (g : Nat) => (g + 2 ^ 32 - frame) % 2 ^ 32
    let sent := fun (e : Dev) (q : Nat) => (e.wp q).unacked.map (·.2) ++ (e.wp q).backlog
    let wired := ∀ u, d.wall.upstream = some u → (d.wp u).up = true ∧ (d.wp u).fenced = false
    let above := fun (e : Dev) (c : WCmd) => ∀ u, d.wall.upstream = some u → c ∈ sent e u
    let ackOf := fun (x : EqxSet) => (⟨0x11, 0xFFFD, d.wallSrc, leBytes 2 x.set ++
        leBytes 2 (sumN (x.acks.map (·.2.1)) + (x.inScope && x.own.isSome).toNat) ++
      leBytes 2 (sumN (x.acks.map (·.2.2)) + (x.inScope && (x.own.getD 0) != 0).toNat) ++ [byteOf x.reason, 0]⟩ : WCmd)
    let allIn := fun (x : EqxSet) => ∀ q ∈ d.wallDown, (assoc q x.acks).isSome = true
    let forced := fun (x : Nat) => (if d.wall.timing = some false then some 1 else if d.wallState ≠ 3 then some 2 else if dist x = 0 ∨
        2 ^ 31 ≤ dist x then some 3
      else if d.on F.FSEQ_STATUS_COMMIT_PENDING then some 4 else none : Option Nat)
    (d.reaches domWALL (R.EQX_CMD.at 0) = true → ∀ (scope : Bool) (kind : Fin 4), let k := dist (d.get F.EQX_F_F)
      let lag := d.wall.members.filter fun a => bit (d.get F.WALL_LAG_MEMBER (a / 32)) (a % 32)
      let who := if scope then lag else d.wall.members
      let base := d.get F.EQX_BUF_BASE * 16
      (d.isAlmanac = false ∨ d.wall.eqx.isSome = true ∨ kind = 3 ∨ k < 2 ∨ 2 ^ 31 ≤ k →
          Completes (.eqxCmdPrepare scope kind set) s fun e => e.get F.EQX_STATUS_PHASE = 4 ∧ e.raised Ev.EQX_ABORT = true ∧
        Keeps d e [.log] ([wordOf R.EQX_CMD, wordOf R.EQX_STATUS] ++ eventWords Ev.EQX_ABORT)) ∧
      (d.isAlmanac = true → d.wall.eqx = none → kind ≠ 3 → 2 ≤ k → k < 2 ^ 31 → d.get F.EQX_LEN_LEN ≤ 376 →
          d.lsPlain base (d.get F.EQX_LEN_LEN) = true → Completes (.eqxCmdPrepare scope kind set) s fun e =>
        e.wall.eqx = some { set := set.toNat, f := d.get F.EQX_F_F, kind := kind, root := true, need := who.length, inScope := false } ∧
            e.get F.EQX_STATUS_PHASE = 1 ∧ e.get F.EQX_STATUS_SET = set.toNat ∧
        e.get F.EQX_STATUS_COUNT = 0 ∧ e.on F.EQX_CMD_PREPARE = true ∧
            ∀ q ∈ d.wallDown, (⟨0x10, 0xFFFF, d.wallSrc, leBytes 2 set.toNat ++ leBytes 4 (d.get F.EQX_F_F) ++ [byteOf kind,
            byteOf scope.toNat] ++
          (if scope then leBytes 128 (maskOf 1024 who.contains) else []) ++ d.lsPeek base (d.get F.EQX_LEN_LEN)⟩ : WCmd) ∈ sent e q)) ∧
    (all → d.isAlmanac = false → wired → ∀ (kind : Byte) (scope : Bool) (map : BitVec 1024) (data : List Byte),
        let meant := ∃ a, d.ownAddr = some a ∧ (scope = true → bit map.toNat a = true)
      let new := fun (y : Bool) => ({ set := set.toNat, f := f.toNat, kind := kind.toNat, root := false, need := 0, inScope := y } : EqxSet)
      let c := Instr.prepare p h set f kind scope map data
      (¬ meant → Completes c s fun e => e.wall.eqx = some { new false with acked := d.wallDown.isEmpty } ∧ e.get F.EQX_STATUS_PHASE = 1 ∧
          e.get F.EQX_STATUS_SET = set.toNat ∧
        (d.wallDown = [] → above e (ackOf (new false))) ∧ e.raised Ev.EQX_PREPARE = d.raised Ev.EQX_PREPARE) ∧
      (meant → kind = 0 → d.lsPlain (d.get F.EQX_BUF_BASE * 16) data.length = true → data.length < 512 →
          Completes c s fun e => e.wall.eqx = some (new true) ∧ e.get F.EQX_STATUS_PHASE = 1 ∧ e.get F.EQX_STATUS_SET = set.toNat ∧
        e.get F.EQX_LEN_LEN = data.length ∧ e.get F.EQX_F_F = f.toNat ∧ e.lsPeek (d.get F.EQX_BUF_BASE * 16) data.length = data ∧
            e.raised Ev.EQX_PREPARE = true) ∧
      (meant → kind = 1 ∨ kind = 2 → ∀ why, forced f.toNat = some why →
          Completes c s fun e => e.wall.eqx.map (·.own) = some (some ((Config.nakReason why).toNat + 1)) ∧ e.get F.EQX_RESULT_OUTCOME = 5 ∧
          e.get F.EQX_RESULT_SET = set.toNat) ∧
      (meant → kind = 2 → forced f.toNat = none → Completes c s fun e => e.wall.eqx.map (·.own) = some (some 0) ∧
          e.getShadow F.LAYER_CTRL_EN 7 = 0 ∧ (d.wallDown = [] → above e (ackOf { new true with own := some 0 }))) ∧
      (meant → kind = 1 → forced f.toNat = none → d.on F.COMP_CTRL_WALL_FEED = false →
          Completes c s fun e => e.wall.eqx.map (·.own) = some (some ((Config.nakReason 5).toNat + 1))) ∧
      (meant → kind = 1 → forced f.toNat = none → d.on F.COMP_CTRL_WALL_FEED = true →
          d.get F.NOTICE_STATUS_STATE ≠ 3 ∨ d.get F.NOTICE_STATUS_ID ≠ leNat (data.take 2) → Completes c s fun e =>
        e.wall.eqx.map (·.own) = some (some ((Config.nakReason 6).toNat + 1)) ∧ e.shadow = d.shadow) ∧
      (∀ n, d.wall.notice = some n → meant → kind = 1 → forced f.toNat = none → d.on F.COMP_CTRL_WALL_FEED = true →
          d.get F.NOTICE_STATUS_STATE = 3 → d.get F.NOTICE_STATUS_ID = leNat (data.take 2) → 4 ≤ data.length →
        let g := d.noticeHead n.plane
        let px := d.get F.WALL_POS_X_PX
        let py := d.get F.WALL_POS_Y_PY
        let ix := max px g.x0
        let iy := max py g.y0
        let jx := min (px + d.hActive) (g.x0 + g.w * g.sx)
        let jy := min (py + d.vActive) (g.y0 + g.h * g.sy)
        Completes c s fun e => e.wall.eqx.map (·.own) = some (some 0) ∧ (if ix < jx ∧ iy < jy then e.getShadow F.LAYER_CTRL_EN 7 = 1 ∧
            e.getShadow F.LAYER_CTRL_SCALE_X 7 = g.sx - 1 ∧ e.getShadow F.LAYER_CTRL_SCALE_Y 7 = g.sy - 1 ∧
          e.getShadow F.LAYER_CTRL_FMT 7 = g.fmt % 16 ∧ e.getShadow F.LAYER_CTRL_GALPHA 7 = leNat ((data.drop 2).take 1) ∧
              e.getShadow F.LAYER_CTRL_PREMULT 7 = leNat ((data.drop 3).take 1) % 2 ∧
          e.getShadow F.LAYER_SRC_OFF_SRC_X 7 = (ix - g.x0) / g.sx % 2 ^ 14 ∧
              e.getShadow F.LAYER_SRC_OFF_SRC_Y 7 = (iy - g.y0) / g.sy % 2 ^ 13 ∧
              e.getShadow F.LAYER_SIZE_SRC_W 7 = (jx - ix) / g.sx % 2 ^ 14 ∧
          e.getShadow F.LAYER_SIZE_SRC_H 7 = (jy - iy) / g.sy % 2 ^ 13 ∧ e.getShadow F.LAYER_POS_DST_X 7 = (ix - px) % 2 ^ 14 ∧
              e.getShadow F.LAYER_POS_DST_Y 7 = (iy - py) % 2 ^ 13 ∧
          e.getShadow F.LAYER_BASE_BASE 7 = (d.get F.NOTICE_BASE_BASE n.plane * 64 + 4096) / 64 % 2 ^ 32 else e.getShadow F.LAYER_CTRL_EN 7 = 0))) ∧
    (d.reaches domWALL (R.EQX_ACK.at 0) = true → ∀ (nak : Bool) (reason : Byte), (d.wall.eqx = none →
        exec (.eqxAck nak reason) s = .next s) ∧
      (∀ x, d.wall.eqx = some x → x.inScope = false ∨ x.own.isSome = true ∨ x.root = true → exec (.eqxAck nak reason) s = .next s) ∧
      (∀ x, d.wall.eqx = some x → x.inScope = true → x.own = none → x.root = false → wired →
        (∀ why, forced x.f = some why → Completes (.eqxAck nak reason) s fun e =>
            e.wall.eqx.map (·.own) = some (some ((Config.nakReason why).toNat + 1)) ∧ e.get F.EQX_RESULT_OUTCOME = 5) ∧
        (forced x.f = none → nak = true → Completes (.eqxAck nak reason) s fun e =>
            e.wall.eqx.map (·.own) = some (some (reason.toNat + 1)) ∧ e.get F.EQX_RESULT_OUTCOME = 5) ∧
        (forced x.f = none → nak = false → Completes (.eqxAck nak reason) s fun e => let y := { x with own := some 0 }
          (allIn x → x.acked = false → e.wall.eqx = some { y with acked := true } ∧ above e (ackOf y)) ∧ (¬ allIn x → e.wall.eqx = some y ∧
              ∀ q < 4, e.wp q = d.wp q) ∧
          Keeps d e [.wall] [wordOf R.EQX_STATUS]))) ∧
    (here → ∀ (n k : BitVec 16) (why : Byte), let c := Instr.ack p h set n k why
      (d.wall.eqx.map (·.set) ≠ some set.toNat ∨ d.wallPortState p ≠ 3 → Completes c s fun e => e.wall.eqx = d.wall.eqx ∧
          ∀ q < 4, sent e q = sent d q) ∧
      (∀ x, d.wall.eqx = some x → x.set = set.toNat → d.wallPortState p = 3 → wired →
          let y := { x with acks := assocSet p (n.toNat, k.toNat) x.acks, reason := if k = 0 then x.reason else why.toNat }
        Completes c s fun e => e.get F.EQX_STATUS_COUNT = (sumN (y.acks.map (·.2.1)) + (x.inScope && x.own.isSome).toNat) % 2 ^ 10 ∧
          (x.root = false → x.acked = false → (x.inScope = true → x.own.isSome = true) → allIn y →
              e.wall.eqx = some { y with acked := true } ∧ above e (ackOf y)) ∧
          (x.root = false → x.acked = true ∨ (x.inScope = true ∧ x.own = none) ∨ ¬ allIn y → e.wall.eqx = some y) ∧
          (x.root = true → x.go = false → let go := x.need = sumN (y.acks.map (·.2.1)) + (x.inScope && x.own.isSome).toNat ∧ sumN (y.acks.map (·.2.2)) + (x.inScope && (x.own.getD 0) != 0).toNat = 0 ∧ (dist (x.f + 2 ^ 32 - 1) = 0 ∨ 2 ^ 31 ≤ dist (x.f + 2 ^ 32 - 1))
            (go → e.wall.eqx = some { y with go := true } ∧ e.get F.EQX_STATUS_PHASE = 2 ∧
                ∀ q ∈ d.wallDown, (⟨0x12, 0xFFFF, d.wallSrc, leBytes 2 set.toNat ++ leBytes 4 x.f⟩ : WCmd) ∈ sent e q) ∧ (¬ go →
                e.wall.eqx = some y)))) ∧
    (d.wall.eqx = none → exec .ackDeadline s = .next s ∧ exec .eqxAbortDeadline s = .next s) ∧
    (∀ x, d.wall.eqx = some x → (x.root = true ∨ x.acked = true → exec .ackDeadline s = .next s) ∧
      (x.root = false → x.acked = false → wired → Completes .ackDeadline s fun e => e.wall.eqx = some { x with acked := true } ∧
          above e (ackOf x) ∧ Keeps d e [.wall] [])) ∧
    (all → ∀ x, d.wall.eqx = some x → let ok := x.root = false ∧ x.set = set.toNat ∧ x.f = f.toNat ∧ (x.inScope = true → x.own = some 0)
      let now := x.inScope = true ∧ x.f = (frame + 1) % 2 ^ 32
      let past := dist x.f = 0 ∨ 2 ^ 31 < dist x.f
      (¬ ok → Completes (.go p h set f) s fun e => e.wall.eqx = some x ∧ e.get F.EQX_STATUS_PHASE = d.get F.EQX_STATUS_PHASE) ∧
      (ok → x.committed = false → past → x.inScope = false → Completes (.go p h set f) s fun e => e.wall.eqx = none ∧
          e.get F.EQX_STATUS_PHASE = 0 ∧ e.shadow = d.shadow) ∧
      (ok → x.committed = false → past → x.inScope = true → wired → Completes (.go p h set f) s fun e => e.wall.eqx = none ∧
          e.get F.EQX_STATUS_PHASE = 0 ∧ e.get F.EQX_RESULT_OUTCOME = 2 ∧ e.get F.EQX_RESULT_SET = set.toNat ∧ e.raised Ev.LATE = true ∧
        e.on F.FSEQ_STATUS_COMMIT_PENDING = d.on F.FSEQ_STATUS_COMMIT_PENDING ∧
            (∀ l < 8, e.getShadow F.LAYER_CTRL_EN l = e.get F.LAYER_CTRL_EN l ∧
            e.getShadow F.LAYER_BASE_BASE l = d.get F.LAYER_BASE_BASE l) ∧
        (if d.wall.upstream.isSome then above e ⟨0x14, 0xFFFE, d.wallSrc, leBytes 2 set.toNat ++ [2, 0]⟩ ∧
            e.wall.results = [] else (⟨0x14, 0xFFFE, d.wallSrc, leBytes 2 set.toNat ++ [2, 0]⟩ : WCmd) ∈ e.wall.results)) ∧
      (ok → x.committed = false → ¬ past → Completes (.go p h set f) s fun e => e.get F.EQX_STATUS_PHASE = 2 ∧ (now →
          e.wall.eqx = some { x with go := true, committed := true } ∧ e.on F.FSEQ_STATUS_COMMIT_PENDING = true ∧
        (d.wall.step = none → e.get F.FSEQ_COMMIT_TARGET_TARGET = x.f)) ∧ (¬ now → e.wall.eqx = some { x with go := true } ∧
            e.get F.FSEQ_STATUS_COMMIT_PENDING = d.get F.FSEQ_STATUS_COMMIT_PENDING))) ∧
    (all → wired → ∀ x, d.wall.eqx = some x → let ok := x.root = false ∧ x.set = set.toNat ∧ x.committed = false
      (¬ ok → Completes (.abort p h set f) s fun e => e.wall.eqx = some x ∧ e.shadow = d.shadow) ∧
      (ok → x.inScope = false → Completes (.abort p h set f) s fun e => e.wall.eqx = none ∧ e.get F.EQX_STATUS_PHASE = 3 ∧
          e.shadow = d.shadow) ∧
      (ok → x.inScope = true → Completes (.abort p h set f) s fun e => e.wall.eqx = none ∧ e.get F.EQX_STATUS_PHASE = 3 ∧
          e.get F.EQX_RESULT_OUTCOME = 3 ∧ e.get F.EQX_RESULT_SET = set.toNat ∧ e.raised Ev.EQX_ABORT = true ∧
        (∀ l < 8, e.getShadow F.LAYER_CTRL_EN l = e.get F.LAYER_CTRL_EN l ∧ e.getShadow F.LAYER_BASE_BASE l = d.get F.LAYER_BASE_BASE l) ∧
        (if d.wall.upstream.isSome then above e ⟨0x14, 0xFFFE, d.wallSrc, leBytes 2 set.toNat ++ [3, 0]⟩ ∧ e.wall.results = []
         else (⟨0x14, 0xFFFE, d.wallSrc, leBytes 2 set.toNat ++ [3, 0]⟩ : WCmd) ∈ e.wall.results))) ∧
    (∀ x, d.wall.eqx = some x → (x.root = false ∨ x.go = true → exec .eqxAbortDeadline s = .next s) ∧
      (x.root = true → x.go = false → Completes .eqxAbortDeadline s fun e => e.wall.eqx = none ∧ e.get F.EQX_STATUS_PHASE = 3 ∧
          e.on F.EQX_CMD_PREPARE = false ∧ e.raised Ev.EQX_ABORT = true ∧
        (∀ q ∈ d.wallDown, (⟨0x13, 0xFFFF, d.wallSrc, leBytes 2 x.set ++ leBytes 4 x.f⟩ : WCmd) ∈ sent e q) ∧
            Keeps d e [.wall, .log] ([wordOf R.EQX_STATUS, wordOf R.EQX_CMD] ++ eventWords Ev.EQX_ABORT)))

/-- A notice: sent by the Almanac, staged and forwarded in order, asked for again, decompressed, and its result added up (R338, R339, R340).
The Almanac sends its stream on every downstream port. A packet of the upstream port with a bad CRC or beyond the prefix asks for the rest
with NOTICE_NAK; a good one is staged at OFFSET and the bytes that extend the prefix go down; a new ID abandons the notice in transfer, and
a TOTAL above the staging size is error SIZE. The last byte sends a descriptor to codec queue 1. A NOTICE_NAK of a child is answered from
the store on that port only, and NOTICE_DONE goes up when all results are in. -/
def Obligations.WallNotices : Prop :=
  ∀ (s : State) (p : Fin 4) (h : WallHdr) (id : BitVec 16), let d := s.dev
    let w := d.wp p
    let src := h.src.toNat
    let here := d.wallPortOn p = true ∧ w.up = true ∧ w.fenced = false ∧ h.lseq.toNat ∉ w.seen ∧ ¬ (0x400 ≤ src ∧ src ≤ 0xFFFC) ∧
        h.dst.toNat = 0xFFFD
    let sent := fun (e : Dev) (q : Nat) => (e.wp q).unacked.map (·.2) ++ (e.wp q).backlog
    let stage := d.get F.NOTICE_STAGE_BASE * 64
    let room := d.get F.NOTICE_STAGE_SIZE_MIB * 2 ^ 20
    let link := d.wallPortOn p = true ∧ d.wallPortState p = 2
    (d.reaches domWALL (R.NOTICE_TX.at 0) = true → (d.isAlmanac = false →
        Completes (.noticeTx id) s fun e => Keeps d e [] [wordOf R.NOTICE_TX]) ∧
      (d.isAlmanac = true → let n := d.get F.NOTICE_LEN_LEN
        Completes (.noticeTx id) s fun e => e.get F.NOTICE_TX_ID = id.toNat ∧ e.on F.NOTICE_TX_GO = false ∧
            e.wall.notice = some { id := id.toNat, total := n, got := n, own := true, sent := true } ∧
          (∀ q < 4, (e.wp q).notice = if q ∈ d.wallDown ∧ 0 < n then some ⟨id.toNat, n, d.get F.NOTICE_SRC_SRC * 64, 0,
              n⟩ else (d.wp q).notice) ∧ Keeps d e [.wall] [wordOf R.NOTICE_TX])) ∧
    (∀ (off total : BitVec 32) (data : List Byte) (good : Bool), let c := Instr.noticePacket p id off total data good
      (¬ link → exec c s = .next s) ∧
      (∀ n, d.wall.notice = some n → link → w.fenced = false → good = false →
          Completes c s fun e => (⟨0x40, 0xFFFD, d.wallSrc, leBytes 2 n.id ++ leBytes 4 n.got⟩ : WCmd) ∈ sent e p ∧ e.wall.notice = some n ∧
          Keeps d e [.wall] []) ∧
      (∀ n, d.wall.notice = some n → link → w.fenced = false → good = true → n.id = id.toNat → d.get F.NOTICE_STATUS_STATE = 1 →
          n.got < off.toNat → Completes c s fun e =>
        (⟨0x40, 0xFFFD, d.wallSrc, leBytes 2 n.id ++ leBytes 4 n.got⟩ : WCmd) ∈ sent e p ∧ e.wall.notice = some n ∧ Keeps d e [.wall] []) ∧
      (link → good = true → d.wall.notice.map (·.id) ≠ some id.toNat → room < total.toNat →
          Completes c s fun e => e.get F.NOTICE_STATUS_ID = id.toNat ∧ e.get F.NOTICE_STATUS_STATE = 4 ∧ e.get F.NOTICE_STATUS_ERR = 1 ∧
        e.raised Ev.NOTICE_ERR = true ∧ e.wall.notice.map (fun n => (n.id, n.total, n.got, n.errors)) = some (id.toNat, total.toNat, 0, 1) ∧
            e.dram = d.dram ∧ ∀ q < 4, (e.wp q).notice = (d.wp q).notice) ∧
      (link → good = true → d.wall.notice.map (·.id) ≠ some id.toNat → total.toNat ≤ room → 0 < off.toNat →
          Completes c s fun e => e.get F.NOTICE_STATUS_ID = id.toNat ∧ e.get F.NOTICE_STATUS_STATE = 1 ∧
        e.wall.notice = some { id := id.toNat, total := total.toNat } ∧ e.dram = d.dram) ∧
      (∀ n, d.wall.notice = some n → link → good = true → n.id = id.toNat → d.get F.NOTICE_STATUS_STATE = 1 → off.toNat ≤ n.got →
          d.wallState ≠ 6 → data ≠ [] → off.toNat + data.length ≤ n.total → n.total ≤ room →
        d.dramPlain (stage + off.toNat) data.length = true → d.guarded (stage + off.toNat) data.length = false →
            Completes c s fun e => let top := max n.got (off.toNat + data.length)
          e.dramPeek (stage + off.toNat) data.length = data ∧
              (∀ q ∈ d.wallDown, (e.wp q).notice = if n.got < top then some ⟨id.toNat, n.total,
              if d.isAlmanac then d.get F.NOTICE_SRC_SRC * 64 else stage, n.got, top⟩ else (d.wp q).notice) ∧
          e.wall.notice.map (·.got) = some top ∧ (top < n.total ∨ n.got = n.total → e.get F.NOTICE_STATUS_STATE = 1 ∧
              e.get (F.CODEC_Q_TAIL_TAIL) 1 = d.get F.CODEC_Q_TAIL_TAIL 1) ∧
          (n.got < n.total → top = n.total → d.on F.LAYER_CTRL_EN 7 = false → (∀ r ∈ d.retiring, r.layer ≠ 7) →
              d.lsPlain (d.get F.CODEC_Q_CFG_BASE 1 / 4 * 64 + d.codecTail 1 * 64) 64 = true →
            e.get F.NOTICE_STATUS_STATE = 2 ∧ e.get F.CODEC_Q_TAIL_TAIL 1 = (d.codecTail 1 + 1) % d.codecSlots 1 ∧
                e.lsPeek (d.get F.CODEC_Q_CFG_BASE 1 / 4 * 64 + d.codecTail 1 * 64) 32 = leBytes 4 224 ++ leBytes 4 0 ++ leBytes 8 stage ++
              leBytes 8 (d.get F.NOTICE_BASE_BASE 0 * 64) ++ leBytes 4 n.total ++ leBytes 4 (d.get F.NOTICE_PLANE_SIZE_MIB * 2 ^ 20)))) ∧
    (here → ∀ off : BitVec 32, let c := Instr.noticeNak p h id off
      let at_ := if d.isAlmanac then d.get F.NOTICE_SRC_SRC * 64 else stage
      (d.wall.notice.map (·.id) ≠ some id.toNat ∨ d.wallPortState p ≠ 3 →
          Completes c s fun e => (∀ q < 4, (e.wp q).notice = (d.wp q).notice) ∧ e.wall.notice = d.wall.notice) ∧
      (∀ n, d.wall.notice = some n → n.id = id.toNat → d.wallPortState p = 3 →
          Completes c s fun e => (e.wp p).notice = (if off.toNat < n.got then some ⟨id.toNat, n.total, at_, off.toNat,
          n.got⟩ else w.notice) ∧
        (∀ q < 4, q ≠ p.val → (e.wp q).notice = (d.wp q).notice) ∧ e.wall.notice = some n)) ∧
    (here → ∀ ready errors : BitVec 16, let c := Instr.noticeDone p h id ready errors
      (d.wall.notice.map (·.id) ≠ some id.toNat → Completes c s fun e => e.wall.notice = d.wall.notice ∧ ∀ q < 4, sent e q = sent d q) ∧
      (∀ n, d.wall.notice = some n → n.id = id.toNat → p.val ∈ n.done → Completes c s fun e => e.wall.notice = some n) ∧
      (∀ n, d.wall.notice = some n → n.id = id.toNat → p.val ∉ n.done →
          let y := { n with ready := n.ready + ready.toNat, errors := n.errors + errors.toNat, done := insertN p n.done }
        let full := n.own = true ∧ n.sent = false ∧ ∀ q ∈ d.wallDown, q ∈ y.done
        Completes c s fun e => (¬ full → e.wall.notice = some y) ∧ (full → e.wall.notice = some { y with sent := true } ∧
            ∀ u, d.wall.upstream = some u → (d.wp u).up = true → (d.wp u).fenced = false →
          (⟨0x41, 0xFFFD, d.wallSrc, leBytes 2 id.toNat ++ leBytes 2 (n.ready + ready.toNat) ++
              leBytes 2 (n.errors + errors.toNat)⟩ : WCmd) ∈ sent e u)))
end

