-- ==== Sys2Proof/Laws/State.lean ====
section
/-! SUPPORT.  One lemma per part of the device per update: what each named update of `Machine/` leaves alone, and what it
does to its own part.  No later proof unfolds a record update. -/

set_option Elab.async false

namespace Sys2Proof.Machine

/-! ### Reads of registers see only the register words -/

@[simp] theorem Dev.get_mk (d : Dev) (s x0 x1 x2 x3 x4 x5 x6 x7 x8 x9 x10 x11 x12 x13 x14 x15 x16 x17 x18 x19 x20 x21 x22 x23 x24 x25 x26) (f : Field) (i : Nat) :
    Dev.get (Dev.mk d.regs s d.active x0 x1 x2 x3 x4 x5 x6 x7 x8 x9 x10 x11 x12 x13 x14 x15 x16 x17 x18 x19 x20 x21 x22 x23 x24 x25 x26) f i = d.get f i :=
  rfl
@[simp] theorem Dev.rd_mk (d : Dev) (s x0 x1 x2 x3 x4 x5 x6 x7 x8 x9 x10 x11 x12 x13 x14 x15 x16 x17 x18 x19 x20 x21 x22 x23 x24 x25 x26) (r : Reg) (i : Nat) :
    Dev.rd (Dev.mk d.regs s d.active x0 x1 x2 x3 x4 x5 x6 x7 x8 x9 x10 x11 x12 x13 x14 x15 x16 x17 x18 x19 x20 x21 x22 x23 x24 x25 x26) r i = d.rd r i :=
  rfl
@[simp] theorem Dev.getShadow_mk (d : Dev) (a x0 x1 x2 x3 x4 x5 x6 x7 x8 x9 x10 x11 x12 x13 x14 x15 x16 x17 x18 x19 x20 x21 x22 x23 x24 x25 x26) (f : Field) (i : Nat) :
    Dev.getShadow (Dev.mk d.regs d.shadow a x0 x1 x2 x3 x4 x5 x6 x7 x8 x9 x10 x11 x12 x13 x14 x15 x16 x17 x18 x19 x20 x21 x22 x23 x24 x25 x26) f i = d.getShadow f i :=
  rfl
@[simp] theorem Dev.rdShadow_mk (d : Dev) (a x0 x1 x2 x3 x4 x5 x6 x7 x8 x9 x10 x11 x12 x13 x14 x15 x16 x17 x18 x19 x20 x21 x22 x23 x24 x25 x26) (r : Reg) (i : Nat) :
    Dev.rdShadow (Dev.mk d.regs d.shadow a x0 x1 x2 x3 x4 x5 x6 x7 x8 x9 x10 x11 x12 x13 x14 x15 x16 x17 x18 x19 x20 x21 x22 x23 x24 x25 x26) r i = d.rdShadow r i :=
  rfl
@[simp] theorem Dev.plainWord_mk (d : Dev) (s a x0 x1 x2 x3 x4 x5 x6 x7 x8 x9 x10 x11 x12 x13 x14 x15 x16 x17 x18 x19 x20 x21 x22 x23 x24 x25 x26) (r : Reg) (i : Nat) :
    Dev.plainWord (Dev.mk d.regs s a x0 x1 x2 x3 x4 x5 x6 x7 x8 x9 x10 x11 x12 x13 x14 x15 x16 x17 x18 x19 x20 x21 x22 x23 x24 x25 x26) r i = d.plainWord r i :=
  rfl
@[simp] theorem Dev.wordsAt_mk (d : Dev) (x0 x1 x2 x3 x4 x5 x6 x7 x8 x9 x10 x11 x12 x13 x14 x15 x16 x17 x18 x19 x20 x21 x22 x23 x24 x25 x26) (a : Nat) :
    Dev.wordsAt (Dev.mk d.regs d.shadow d.active x0 x1 x2 x3 x4 x5 x6 x7 x8 x9 x10 x11 x12 x13 x14 x15 x16 x17 x18 x19 x20 x21 x22 x23 x24 x25 x26) a = d.wordsAt a :=
  rfl

/-! ### Hardware writes of registers -/

@[simp] theorem Dev.putWord_free (d : Dev) (r : Reg) (i w : Nat) : (d.putWord r i w).free = d.free :=
  by unfold Dev.putWord; split <;> rfl
@[simp] theorem Dev.putWord_log (d : Dev) (r : Reg) (i w : Nat) : (d.putWord r i w).log = d.log :=
  by unfold Dev.putWord; split <;> rfl
@[simp] theorem Dev.putWord_held (d : Dev) (r : Reg) (i w : Nat) : (d.putWord r i w).held = d.held :=
  by unfold Dev.putWord; split <;> rfl
@[simp] theorem Dev.putWord_pwr (d : Dev) (r : Reg) (i w : Nat) : (d.putWord r i w).pwr = d.pwr :=
  by unfold Dev.putWord; split <;> rfl
@[simp] theorem Dev.putWord_cp (d : Dev) (r : Reg) (i w : Nat) : (d.putWord r i w).cp = d.cp :=
  by unfold Dev.putWord; split <;> rfl
@[simp] theorem Dev.putWord_ls (d : Dev) (r : Reg) (i w : Nat) : (d.putWord r i w).ls = d.ls :=
  by unfold Dev.putWord; split <;> rfl
@[simp] theorem Dev.putWord_gdma (d : Dev) (r : Reg) (i w : Nat) : (d.putWord r i w).gdma = d.gdma :=
  by unfold Dev.putWord; split <;> rfl
@[simp] theorem Dev.putWord_dram (d : Dev) (r : Reg) (i w : Nat) : (d.putWord r i w).dram = d.dram :=
  by unfold Dev.putWord; split <;> rfl
@[simp] theorem Dev.putWord_codec (d : Dev) (r : Reg) (i w : Nat) : (d.putWord r i w).codec = d.codec :=
  by unfold Dev.putWord; split <;> rfl
@[simp] theorem Dev.putWord_retiring (d : Dev) (r : Reg) (i w : Nat) : (d.putWord r i w).retiring = d.retiring :=
  by unfold Dev.putWord; split <;> rfl
@[simp] theorem Dev.putWord_scan (d : Dev) (r : Reg) (i w : Nat) : (d.putWord r i w).scan = d.scan :=
  by unfold Dev.putWord; split <;> rfl
@[simp] theorem Dev.putWord_col (d : Dev) (r : Reg) (i w : Nat) : (d.putWord r i w).col = d.col :=
  by unfold Dev.putWord; split <;> rfl
@[simp] theorem Dev.putWord_gate (d : Dev) (r : Reg) (i w : Nat) : (d.putWord r i w).gate = d.gate :=
  by unfold Dev.putWord; split <;> rfl
@[simp] theorem Dev.putWord_pseq (d : Dev) (r : Reg) (i w : Nat) : (d.putWord r i w).pseq = d.pseq :=
  by unfold Dev.putWord; split <;> rfl
@[simp] theorem Dev.putWord_sched (d : Dev) (r : Reg) (i w : Nat) : (d.putWord r i w).sched = d.sched :=
  by unfold Dev.putWord; split <;> rfl
@[simp] theorem Dev.putWord_bl (d : Dev) (r : Reg) (i w : Nat) : (d.putWord r i w).bl = d.bl :=
  by unfold Dev.putWord; split <;> rfl
@[simp] theorem Dev.putWord_cal (d : Dev) (r : Reg) (i w : Nat) : (d.putWord r i w).cal = d.cal :=
  by unfold Dev.putWord; split <;> rfl
@[simp] theorem Dev.putWord_rx (d : Dev) (r : Reg) (i w : Nat) : (d.putWord r i w).rx = d.rx :=
  by unfold Dev.putWord; split <;> rfl
@[simp] theorem Dev.putWord_wall (d : Dev) (r : Reg) (i w : Nat) : (d.putWord r i w).wall = d.wall :=
  by unfold Dev.putWord; split <;> rfl
@[simp] theorem Dev.putWord_mbox (d : Dev) (r : Reg) (i w : Nat) : (d.putWord r i w).mbox = d.mbox :=
  by unfold Dev.putWord; split <;> rfl
@[simp] theorem Dev.putWord_mgmt (d : Dev) (r : Reg) (i w : Nat) : (d.putWord r i w).mgmt = d.mgmt :=
  by unfold Dev.putWord; split <;> rfl
@[simp] theorem Dev.putWord_nv (d : Dev) (r : Reg) (i w : Nat) : (d.putWord r i w).nv = d.nv :=
  by unfold Dev.putWord; split <;> rfl
@[simp] theorem Dev.putWord_boot (d : Dev) (r : Reg) (i w : Nat) : (d.putWord r i w).boot = d.boot :=
  by unfold Dev.putWord; split <;> rfl
@[simp] theorem Dev.putWord_tap (d : Dev) (r : Reg) (i w : Nat) : (d.putWord r i w).tap = d.tap :=
  by unfold Dev.putWord; split <;> rfl
@[simp] theorem Dev.putWord_flash (d : Dev) (r : Reg) (i w : Nat) : (d.putWord r i w).flash = d.flash :=
  by unfold Dev.putWord; split <;> rfl
@[simp] theorem Dev.putWord_xspi (d : Dev) (r : Reg) (i w : Nat) : (d.putWord r i w).xspi = d.xspi :=
  by unfold Dev.putWord; split <;> rfl
@[simp] theorem Dev.putWord_ticks (d : Dev) (r : Reg) (i w : Nat) : (d.putWord r i w).ticks = d.ticks :=
  by unfold Dev.putWord; split <;> rfl
@[simp] theorem Dev.put_free (d : Dev) (f : Field) (v i : Nat) : (d.put f v i).free = d.free :=
  by unfold Dev.put; split <;> (try split) <;> simp
@[simp] theorem Dev.put_log (d : Dev) (f : Field) (v i : Nat) : (d.put f v i).log = d.log :=
  by unfold Dev.put; split <;> (try split) <;> simp
@[simp] theorem Dev.put_held (d : Dev) (f : Field) (v i : Nat) : (d.put f v i).held = d.held :=
  by unfold Dev.put; split <;> (try split) <;> simp
@[simp] theorem Dev.put_pwr (d : Dev) (f : Field) (v i : Nat) : (d.put f v i).pwr = d.pwr :=
  by unfold Dev.put; split <;> (try split) <;> simp
@[simp] theorem Dev.put_cp (d : Dev) (f : Field) (v i : Nat) : (d.put f v i).cp = d.cp :=
  by unfold Dev.put; split <;> (try split) <;> simp
@[simp] theorem Dev.put_ls (d : Dev) (f : Field) (v i : Nat) : (d.put f v i).ls = d.ls :=
  by unfold Dev.put; split <;> (try split) <;> simp
@[simp] theorem Dev.put_gdma (d : Dev) (f : Field) (v i : Nat) : (d.put f v i).gdma = d.gdma :=
  by unfold Dev.put; split <;> (try split) <;> simp
@[simp] theorem Dev.put_dram (d : Dev) (f : Field) (v i : Nat) : (d.put f v i).dram = d.dram :=
  by unfold Dev.put; split <;> (try split) <;> simp
@[simp] theorem Dev.put_codec (d : Dev) (f : Field) (v i : Nat) : (d.put f v i).codec = d.codec :=
  by unfold Dev.put; split <;> (try split) <;> simp
@[simp] theorem Dev.put_retiring (d : Dev) (f : Field) (v i : Nat) : (d.put f v i).retiring = d.retiring :=
  by unfold Dev.put; split <;> (try split) <;> simp
@[simp] theorem Dev.put_scan (d : Dev) (f : Field) (v i : Nat) : (d.put f v i).scan = d.scan :=
  by unfold Dev.put; split <;> (try split) <;> simp
@[simp] theorem Dev.put_col (d : Dev) (f : Field) (v i : Nat) : (d.put f v i).col = d.col :=
  by unfold Dev.put; split <;> (try split) <;> simp
@[simp] theorem Dev.put_gate (d : Dev) (f : Field) (v i : Nat) : (d.put f v i).gate = d.gate :=
  by unfold Dev.put; split <;> (try split) <;> simp
@[simp] theorem Dev.put_pseq (d : Dev) (f : Field) (v i : Nat) : (d.put f v i).pseq = d.pseq :=
  by unfold Dev.put; split <;> (try split) <;> simp
@[simp] theorem Dev.put_sched (d : Dev) (f : Field) (v i : Nat) : (d.put f v i).sched = d.sched :=
  by unfold Dev.put; split <;> (try split) <;> simp
@[simp] theorem Dev.put_bl (d : Dev) (f : Field) (v i : Nat) : (d.put f v i).bl = d.bl :=
  by unfold Dev.put; split <;> (try split) <;> simp
@[simp] theorem Dev.put_cal (d : Dev) (f : Field) (v i : Nat) : (d.put f v i).cal = d.cal :=
  by unfold Dev.put; split <;> (try split) <;> simp
@[simp] theorem Dev.put_rx (d : Dev) (f : Field) (v i : Nat) : (d.put f v i).rx = d.rx :=
  by unfold Dev.put; split <;> (try split) <;> simp
@[simp] theorem Dev.put_wall (d : Dev) (f : Field) (v i : Nat) : (d.put f v i).wall = d.wall :=
  by unfold Dev.put; split <;> (try split) <;> simp
@[simp] theorem Dev.put_mbox (d : Dev) (f : Field) (v i : Nat) : (d.put f v i).mbox = d.mbox :=
  by unfold Dev.put; split <;> (try split) <;> simp
@[simp] theorem Dev.put_mgmt (d : Dev) (f : Field) (v i : Nat) : (d.put f v i).mgmt = d.mgmt :=
  by unfold Dev.put; split <;> (try split) <;> simp
@[simp] theorem Dev.put_nv (d : Dev) (f : Field) (v i : Nat) : (d.put f v i).nv = d.nv :=
  by unfold Dev.put; split <;> (try split) <;> simp
@[simp] theorem Dev.put_boot (d : Dev) (f : Field) (v i : Nat) : (d.put f v i).boot = d.boot :=
  by unfold Dev.put; split <;> (try split) <;> simp
@[simp] theorem Dev.put_tap (d : Dev) (f : Field) (v i : Nat) : (d.put f v i).tap = d.tap :=
  by unfold Dev.put; split <;> (try split) <;> simp
@[simp] theorem Dev.put_flash (d : Dev) (f : Field) (v i : Nat) : (d.put f v i).flash = d.flash :=
  by unfold Dev.put; split <;> (try split) <;> simp
@[simp] theorem Dev.put_xspi (d : Dev) (f : Field) (v i : Nat) : (d.put f v i).xspi = d.xspi :=
  by unfold Dev.put; split <;> (try split) <;> simp
@[simp] theorem Dev.put_ticks (d : Dev) (f : Field) (v i : Nat) : (d.put f v i).ticks = d.ticks :=
  by unfold Dev.put; split <;> (try split) <;> simp
@[simp] theorem Dev.putShadow_free (d : Dev) (f : Field) (v i : Nat) : (d.putShadow f v i).free = d.free :=
  by unfold Dev.putShadow; split <;> rfl
@[simp] theorem Dev.putShadow_log (d : Dev) (f : Field) (v i : Nat) : (d.putShadow f v i).log = d.log :=
  by unfold Dev.putShadow; split <;> rfl
@[simp] theorem Dev.putShadow_held (d : Dev) (f : Field) (v i : Nat) : (d.putShadow f v i).held = d.held :=
  by unfold Dev.putShadow; split <;> rfl
@[simp] theorem Dev.putShadow_pwr (d : Dev) (f : Field) (v i : Nat) : (d.putShadow f v i).pwr = d.pwr :=
  by unfold Dev.putShadow; split <;> rfl
@[simp] theorem Dev.putShadow_cp (d : Dev) (f : Field) (v i : Nat) : (d.putShadow f v i).cp = d.cp :=
  by unfold Dev.putShadow; split <;> rfl
@[simp] theorem Dev.putShadow_ls (d : Dev) (f : Field) (v i : Nat) : (d.putShadow f v i).ls = d.ls :=
  by unfold Dev.putShadow; split <;> rfl
@[simp] theorem Dev.putShadow_gdma (d : Dev) (f : Field) (v i : Nat) : (d.putShadow f v i).gdma = d.gdma :=
  by unfold Dev.putShadow; split <;> rfl
@[simp] theorem Dev.putShadow_dram (d : Dev) (f : Field) (v i : Nat) : (d.putShadow f v i).dram = d.dram :=
  by unfold Dev.putShadow; split <;> rfl
@[simp] theorem Dev.putShadow_codec (d : Dev) (f : Field) (v i : Nat) : (d.putShadow f v i).codec = d.codec :=
  by unfold Dev.putShadow; split <;> rfl
@[simp] theorem Dev.putShadow_retiring (d : Dev) (f : Field) (v i : Nat) : (d.putShadow f v i).retiring = d.retiring :=
  by unfold Dev.putShadow; split <;> rfl
@[simp] theorem Dev.putShadow_scan (d : Dev) (f : Field) (v i : Nat) : (d.putShadow f v i).scan = d.scan :=
  by unfold Dev.putShadow; split <;> rfl
@[simp] theorem Dev.putShadow_col (d : Dev) (f : Field) (v i : Nat) : (d.putShadow f v i).col = d.col :=
  by unfold Dev.putShadow; split <;> rfl
@[simp] theorem Dev.putShadow_gate (d : Dev) (f : Field) (v i : Nat) : (d.putShadow f v i).gate = d.gate :=
  by unfold Dev.putShadow; split <;> rfl
@[simp] theorem Dev.putShadow_pseq (d : Dev) (f : Field) (v i : Nat) : (d.putShadow f v i).pseq = d.pseq :=
  by unfold Dev.putShadow; split <;> rfl
@[simp] theorem Dev.putShadow_sched (d : Dev) (f : Field) (v i : Nat) : (d.putShadow f v i).sched = d.sched :=
  by unfold Dev.putShadow; split <;> rfl
@[simp] theorem Dev.putShadow_bl (d : Dev) (f : Field) (v i : Nat) : (d.putShadow f v i).bl = d.bl :=
  by unfold Dev.putShadow; split <;> rfl
@[simp] theorem Dev.putShadow_cal (d : Dev) (f : Field) (v i : Nat) : (d.putShadow f v i).cal = d.cal :=
  by unfold Dev.putShadow; split <;> rfl
@[simp] theorem Dev.putShadow_rx (d : Dev) (f : Field) (v i : Nat) : (d.putShadow f v i).rx = d.rx :=
  by unfold Dev.putShadow; split <;> rfl
@[simp] theorem Dev.putShadow_wall (d : Dev) (f : Field) (v i : Nat) : (d.putShadow f v i).wall = d.wall :=
  by unfold Dev.putShadow; split <;> rfl
@[simp] theorem Dev.putShadow_mbox (d : Dev) (f : Field) (v i : Nat) : (d.putShadow f v i).mbox = d.mbox :=
  by unfold Dev.putShadow; split <;> rfl
@[simp] theorem Dev.putShadow_mgmt (d : Dev) (f : Field) (v i : Nat) : (d.putShadow f v i).mgmt = d.mgmt :=
  by unfold Dev.putShadow; split <;> rfl
@[simp] theorem Dev.putShadow_nv (d : Dev) (f : Field) (v i : Nat) : (d.putShadow f v i).nv = d.nv :=
  by unfold Dev.putShadow; split <;> rfl
@[simp] theorem Dev.putShadow_boot (d : Dev) (f : Field) (v i : Nat) : (d.putShadow f v i).boot = d.boot :=
  by unfold Dev.putShadow; split <;> rfl
@[simp] theorem Dev.putShadow_tap (d : Dev) (f : Field) (v i : Nat) : (d.putShadow f v i).tap = d.tap :=
  by unfold Dev.putShadow; split <;> rfl
@[simp] theorem Dev.putShadow_flash (d : Dev) (f : Field) (v i : Nat) : (d.putShadow f v i).flash = d.flash :=
  by unfold Dev.putShadow; split <;> rfl
@[simp] theorem Dev.putShadow_xspi (d : Dev) (f : Field) (v i : Nat) : (d.putShadow f v i).xspi = d.xspi :=
  by unfold Dev.putShadow; split <;> rfl
@[simp] theorem Dev.putShadow_ticks (d : Dev) (f : Field) (v i : Nat) : (d.putShadow f v i).ticks = d.ticks :=
  by unfold Dev.putShadow; split <;> rfl
@[simp] theorem Dev.flag_free (d : Dev) (f : Field) (b : Bool) (i : Nat) : (d.flag f b i).free = d.free :=
  by simp [Dev.flag]
@[simp] theorem Dev.flag_log (d : Dev) (f : Field) (b : Bool) (i : Nat) : (d.flag f b i).log = d.log :=
  by simp [Dev.flag]
@[simp] theorem Dev.flag_held (d : Dev) (f : Field) (b : Bool) (i : Nat) : (d.flag f b i).held = d.held :=
  by simp [Dev.flag]
@[simp] theorem Dev.flag_pwr (d : Dev) (f : Field) (b : Bool) (i : Nat) : (d.flag f b i).pwr = d.pwr :=
  by simp [Dev.flag]
@[simp] theorem Dev.flag_cp (d : Dev) (f : Field) (b : Bool) (i : Nat) : (d.flag f b i).cp = d.cp :=
  by simp [Dev.flag]
@[simp] theorem Dev.flag_ls (d : Dev) (f : Field) (b : Bool) (i : Nat) : (d.flag f b i).ls = d.ls :=
  by simp [Dev.flag]
@[simp] theorem Dev.flag_gdma (d : Dev) (f : Field) (b : Bool) (i : Nat) : (d.flag f b i).gdma = d.gdma :=
  by simp [Dev.flag]
@[simp] theorem Dev.flag_dram (d : Dev) (f : Field) (b : Bool) (i : Nat) : (d.flag f b i).dram = d.dram :=
  by simp [Dev.flag]
@[simp] theorem Dev.flag_codec (d : Dev) (f : Field) (b : Bool) (i : Nat) : (d.flag f b i).codec = d.codec :=
  by simp [Dev.flag]
@[simp] theorem Dev.flag_retiring (d : Dev) (f : Field) (b : Bool) (i : Nat) : (d.flag f b i).retiring = d.retiring :=
  by simp [Dev.flag]
@[simp] theorem Dev.flag_scan (d : Dev) (f : Field) (b : Bool) (i : Nat) : (d.flag f b i).scan = d.scan :=
  by simp [Dev.flag]
@[simp] theorem Dev.flag_col (d : Dev) (f : Field) (b : Bool) (i : Nat) : (d.flag f b i).col = d.col :=
  by simp [Dev.flag]
@[simp] theorem Dev.flag_gate (d : Dev) (f : Field) (b : Bool) (i : Nat) : (d.flag f b i).gate = d.gate :=
  by simp [Dev.flag]
@[simp] theorem Dev.flag_pseq (d : Dev) (f : Field) (b : Bool) (i : Nat) : (d.flag f b i).pseq = d.pseq :=
  by simp [Dev.flag]
@[simp] theorem Dev.flag_sched (d : Dev) (f : Field) (b : Bool) (i : Nat) : (d.flag f b i).sched = d.sched :=
  by simp [Dev.flag]
@[simp] theorem Dev.flag_bl (d : Dev) (f : Field) (b : Bool) (i : Nat) : (d.flag f b i).bl = d.bl :=
  by simp [Dev.flag]
@[simp] theorem Dev.flag_cal (d : Dev) (f : Field) (b : Bool) (i : Nat) : (d.flag f b i).cal = d.cal :=
  by simp [Dev.flag]
@[simp] theorem Dev.flag_rx (d : Dev) (f : Field) (b : Bool) (i : Nat) : (d.flag f b i).rx = d.rx :=
  by simp [Dev.flag]
@[simp] theorem Dev.flag_wall (d : Dev) (f : Field) (b : Bool) (i : Nat) : (d.flag f b i).wall = d.wall :=
  by simp [Dev.flag]
@[simp] theorem Dev.flag_mbox (d : Dev) (f : Field) (b : Bool) (i : Nat) : (d.flag f b i).mbox = d.mbox :=
  by simp [Dev.flag]
@[simp] theorem Dev.flag_mgmt (d : Dev) (f : Field) (b : Bool) (i : Nat) : (d.flag f b i).mgmt = d.mgmt :=
  by simp [Dev.flag]
@[simp] theorem Dev.flag_nv (d : Dev) (f : Field) (b : Bool) (i : Nat) : (d.flag f b i).nv = d.nv :=
  by simp [Dev.flag]
@[simp] theorem Dev.flag_boot (d : Dev) (f : Field) (b : Bool) (i : Nat) : (d.flag f b i).boot = d.boot :=
  by simp [Dev.flag]
@[simp] theorem Dev.flag_tap (d : Dev) (f : Field) (b : Bool) (i : Nat) : (d.flag f b i).tap = d.tap :=
  by simp [Dev.flag]
@[simp] theorem Dev.flag_flash (d : Dev) (f : Field) (b : Bool) (i : Nat) : (d.flag f b i).flash = d.flash :=
  by simp [Dev.flag]
@[simp] theorem Dev.flag_xspi (d : Dev) (f : Field) (b : Bool) (i : Nat) : (d.flag f b i).xspi = d.xspi :=
  by simp [Dev.flag]
@[simp] theorem Dev.flag_ticks (d : Dev) (f : Field) (b : Bool) (i : Nat) : (d.flag f b i).ticks = d.ticks :=
  by simp [Dev.flag]
@[simp] theorem Dev.inc_free (d : Dev) (f : Field) (i n : Nat) : (d.inc f i n).free = d.free :=
  by simp [Dev.inc]
@[simp] theorem Dev.inc_log (d : Dev) (f : Field) (i n : Nat) : (d.inc f i n).log = d.log :=
  by simp [Dev.inc]
@[simp] theorem Dev.inc_held (d : Dev) (f : Field) (i n : Nat) : (d.inc f i n).held = d.held :=
  by simp [Dev.inc]
@[simp] theorem Dev.inc_pwr (d : Dev) (f : Field) (i n : Nat) : (d.inc f i n).pwr = d.pwr :=
  by simp [Dev.inc]
@[simp] theorem Dev.inc_cp (d : Dev) (f : Field) (i n : Nat) : (d.inc f i n).cp = d.cp :=
  by simp [Dev.inc]
@[simp] theorem Dev.inc_ls (d : Dev) (f : Field) (i n : Nat) : (d.inc f i n).ls = d.ls :=
  by simp [Dev.inc]
@[simp] theorem Dev.inc_gdma (d : Dev) (f : Field) (i n : Nat) : (d.inc f i n).gdma = d.gdma :=
  by simp [Dev.inc]
@[simp] theorem Dev.inc_dram (d : Dev) (f : Field) (i n : Nat) : (d.inc f i n).dram = d.dram :=
  by simp [Dev.inc]
@[simp] theorem Dev.inc_codec (d : Dev) (f : Field) (i n : Nat) : (d.inc f i n).codec = d.codec :=
  by simp [Dev.inc]
@[simp] theorem Dev.inc_retiring (d : Dev) (f : Field) (i n : Nat) : (d.inc f i n).retiring = d.retiring :=
  by simp [Dev.inc]
@[simp] theorem Dev.inc_scan (d : Dev) (f : Field) (i n : Nat) : (d.inc f i n).scan = d.scan :=
  by simp [Dev.inc]
@[simp] theorem Dev.inc_col (d : Dev) (f : Field) (i n : Nat) : (d.inc f i n).col = d.col :=
  by simp [Dev.inc]
@[simp] theorem Dev.inc_gate (d : Dev) (f : Field) (i n : Nat) : (d.inc f i n).gate = d.gate :=
  by simp [Dev.inc]
@[simp] theorem Dev.inc_pseq (d : Dev) (f : Field) (i n : Nat) : (d.inc f i n).pseq = d.pseq :=
  by simp [Dev.inc]
@[simp] theorem Dev.inc_sched (d : Dev) (f : Field) (i n : Nat) : (d.inc f i n).sched = d.sched :=
  by simp [Dev.inc]
@[simp] theorem Dev.inc_bl (d : Dev) (f : Field) (i n : Nat) : (d.inc f i n).bl = d.bl :=
  by simp [Dev.inc]
@[simp] theorem Dev.inc_cal (d : Dev) (f : Field) (i n : Nat) : (d.inc f i n).cal = d.cal :=
  by simp [Dev.inc]
@[simp] theorem Dev.inc_rx (d : Dev) (f : Field) (i n : Nat) : (d.inc f i n).rx = d.rx :=
  by simp [Dev.inc]
@[simp] theorem Dev.inc_wall (d : Dev) (f : Field) (i n : Nat) : (d.inc f i n).wall = d.wall :=
  by simp [Dev.inc]
@[simp] theorem Dev.inc_mbox (d : Dev) (f : Field) (i n : Nat) : (d.inc f i n).mbox = d.mbox :=
  by simp [Dev.inc]
@[simp] theorem Dev.inc_mgmt (d : Dev) (f : Field) (i n : Nat) : (d.inc f i n).mgmt = d.mgmt :=
  by simp [Dev.inc]
@[simp] theorem Dev.inc_nv (d : Dev) (f : Field) (i n : Nat) : (d.inc f i n).nv = d.nv :=
  by simp [Dev.inc]
@[simp] theorem Dev.inc_boot (d : Dev) (f : Field) (i n : Nat) : (d.inc f i n).boot = d.boot :=
  by simp [Dev.inc]
@[simp] theorem Dev.inc_tap (d : Dev) (f : Field) (i n : Nat) : (d.inc f i n).tap = d.tap :=
  by simp [Dev.inc]
@[simp] theorem Dev.inc_flash (d : Dev) (f : Field) (i n : Nat) : (d.inc f i n).flash = d.flash :=
  by simp [Dev.inc]
@[simp] theorem Dev.inc_xspi (d : Dev) (f : Field) (i n : Nat) : (d.inc f i n).xspi = d.xspi :=
  by simp [Dev.inc]
@[simp] theorem Dev.inc_ticks (d : Dev) (f : Field) (i n : Nat) : (d.inc f i n).ticks = d.ticks :=
  by simp [Dev.inc]
@[simp] theorem Dev.incSat_free (d : Dev) (f : Field) (i n : Nat) : (d.incSat f i n).free = d.free :=
  by simp [Dev.incSat]
@[simp] theorem Dev.incSat_log (d : Dev) (f : Field) (i n : Nat) : (d.incSat f i n).log = d.log :=
  by simp [Dev.incSat]
@[simp] theorem Dev.incSat_held (d : Dev) (f : Field) (i n : Nat) : (d.incSat f i n).held = d.held :=
  by simp [Dev.incSat]
@[simp] theorem Dev.incSat_pwr (d : Dev) (f : Field) (i n : Nat) : (d.incSat f i n).pwr = d.pwr :=
  by simp [Dev.incSat]
@[simp] theorem Dev.incSat_cp (d : Dev) (f : Field) (i n : Nat) : (d.incSat f i n).cp = d.cp :=
  by simp [Dev.incSat]
@[simp] theorem Dev.incSat_ls (d : Dev) (f : Field) (i n : Nat) : (d.incSat f i n).ls = d.ls :=
  by simp [Dev.incSat]
@[simp] theorem Dev.incSat_gdma (d : Dev) (f : Field) (i n : Nat) : (d.incSat f i n).gdma = d.gdma :=
  by simp [Dev.incSat]
@[simp] theorem Dev.incSat_dram (d : Dev) (f : Field) (i n : Nat) : (d.incSat f i n).dram = d.dram :=
  by simp [Dev.incSat]
@[simp] theorem Dev.incSat_codec (d : Dev) (f : Field) (i n : Nat) : (d.incSat f i n).codec = d.codec :=
  by simp [Dev.incSat]
@[simp] theorem Dev.incSat_retiring (d : Dev) (f : Field) (i n : Nat) : (d.incSat f i n).retiring = d.retiring :=
  by simp [Dev.incSat]
@[simp] theorem Dev.incSat_scan (d : Dev) (f : Field) (i n : Nat) : (d.incSat f i n).scan = d.scan :=
  by simp [Dev.incSat]
@[simp] theorem Dev.incSat_col (d : Dev) (f : Field) (i n : Nat) : (d.incSat f i n).col = d.col :=
  by simp [Dev.incSat]
@[simp] theorem Dev.incSat_gate (d : Dev) (f : Field) (i n : Nat) : (d.incSat f i n).gate = d.gate :=
  by simp [Dev.incSat]
@[simp] theorem Dev.incSat_pseq (d : Dev) (f : Field) (i n : Nat) : (d.incSat f i n).pseq = d.pseq :=
  by simp [Dev.incSat]
@[simp] theorem Dev.incSat_sched (d : Dev) (f : Field) (i n : Nat) : (d.incSat f i n).sched = d.sched :=
  by simp [Dev.incSat]
@[simp] theorem Dev.incSat_bl (d : Dev) (f : Field) (i n : Nat) : (d.incSat f i n).bl = d.bl :=
  by simp [Dev.incSat]
@[simp] theorem Dev.incSat_cal (d : Dev) (f : Field) (i n : Nat) : (d.incSat f i n).cal = d.cal :=
  by simp [Dev.incSat]
@[simp] theorem Dev.incSat_rx (d : Dev) (f : Field) (i n : Nat) : (d.incSat f i n).rx = d.rx :=
  by simp [Dev.incSat]
@[simp] theorem Dev.incSat_wall (d : Dev) (f : Field) (i n : Nat) : (d.incSat f i n).wall = d.wall :=
  by simp [Dev.incSat]
@[simp] theorem Dev.incSat_mbox (d : Dev) (f : Field) (i n : Nat) : (d.incSat f i n).mbox = d.mbox :=
  by simp [Dev.incSat]
@[simp] theorem Dev.incSat_mgmt (d : Dev) (f : Field) (i n : Nat) : (d.incSat f i n).mgmt = d.mgmt :=
  by simp [Dev.incSat]
@[simp] theorem Dev.incSat_nv (d : Dev) (f : Field) (i n : Nat) : (d.incSat f i n).nv = d.nv :=
  by simp [Dev.incSat]
@[simp] theorem Dev.incSat_boot (d : Dev) (f : Field) (i n : Nat) : (d.incSat f i n).boot = d.boot :=
  by simp [Dev.incSat]
@[simp] theorem Dev.incSat_tap (d : Dev) (f : Field) (i n : Nat) : (d.incSat f i n).tap = d.tap :=
  by simp [Dev.incSat]
@[simp] theorem Dev.incSat_flash (d : Dev) (f : Field) (i n : Nat) : (d.incSat f i n).flash = d.flash :=
  by simp [Dev.incSat]
@[simp] theorem Dev.incSat_xspi (d : Dev) (f : Field) (i n : Nat) : (d.incSat f i n).xspi = d.xspi :=
  by simp [Dev.incSat]
@[simp] theorem Dev.incSat_ticks (d : Dev) (f : Field) (i n : Nat) : (d.incSat f i n).ticks = d.ticks :=
  by simp [Dev.incSat]
@[simp] theorem Dev.commitShadows_free (d : Dev)  : (d.commitShadows).free = d.free :=
  rfl
@[simp] theorem Dev.commitShadows_log (d : Dev)  : (d.commitShadows).log = d.log :=
  rfl
@[simp] theorem Dev.commitShadows_held (d : Dev)  : (d.commitShadows).held = d.held :=
  rfl
@[simp] theorem Dev.commitShadows_pwr (d : Dev)  : (d.commitShadows).pwr = d.pwr :=
  rfl
@[simp] theorem Dev.commitShadows_cp (d : Dev)  : (d.commitShadows).cp = d.cp :=
  rfl
@[simp] theorem Dev.commitShadows_ls (d : Dev)  : (d.commitShadows).ls = d.ls :=
  rfl
@[simp] theorem Dev.commitShadows_gdma (d : Dev)  : (d.commitShadows).gdma = d.gdma :=
  rfl
@[simp] theorem Dev.commitShadows_dram (d : Dev)  : (d.commitShadows).dram = d.dram :=
  rfl
@[simp] theorem Dev.commitShadows_codec (d : Dev)  : (d.commitShadows).codec = d.codec :=
  rfl
@[simp] theorem Dev.commitShadows_retiring (d : Dev)  : (d.commitShadows).retiring = d.retiring :=
  rfl
@[simp] theorem Dev.commitShadows_scan (d : Dev)  : (d.commitShadows).scan = d.scan :=
  rfl
@[simp] theorem Dev.commitShadows_col (d : Dev)  : (d.commitShadows).col = d.col :=
  rfl
@[simp] theorem Dev.commitShadows_gate (d : Dev)  : (d.commitShadows).gate = d.gate :=
  rfl
@[simp] theorem Dev.commitShadows_pseq (d : Dev)  : (d.commitShadows).pseq = d.pseq :=
  rfl
@[simp] theorem Dev.commitShadows_sched (d : Dev)  : (d.commitShadows).sched = d.sched :=
  rfl
@[simp] theorem Dev.commitShadows_bl (d : Dev)  : (d.commitShadows).bl = d.bl :=
  rfl
@[simp] theorem Dev.commitShadows_cal (d : Dev)  : (d.commitShadows).cal = d.cal :=
  rfl
@[simp] theorem Dev.commitShadows_rx (d : Dev)  : (d.commitShadows).rx = d.rx :=
  rfl
@[simp] theorem Dev.commitShadows_wall (d : Dev)  : (d.commitShadows).wall = d.wall :=
  rfl
@[simp] theorem Dev.commitShadows_mbox (d : Dev)  : (d.commitShadows).mbox = d.mbox :=
  rfl
@[simp] theorem Dev.commitShadows_mgmt (d : Dev)  : (d.commitShadows).mgmt = d.mgmt :=
  rfl
@[simp] theorem Dev.commitShadows_nv (d : Dev)  : (d.commitShadows).nv = d.nv :=
  rfl
@[simp] theorem Dev.commitShadows_boot (d : Dev)  : (d.commitShadows).boot = d.boot :=
  rfl
@[simp] theorem Dev.commitShadows_tap (d : Dev)  : (d.commitShadows).tap = d.tap :=
  rfl
@[simp] theorem Dev.commitShadows_flash (d : Dev)  : (d.commitShadows).flash = d.flash :=
  rfl
@[simp] theorem Dev.commitShadows_xspi (d : Dev)  : (d.commitShadows).xspi = d.xspi :=
  rfl
@[simp] theorem Dev.commitShadows_ticks (d : Dev)  : (d.commitShadows).ticks = d.ticks :=
  rfl
@[simp] theorem Dev.setEvent_free (d : Dev) (e : Event) (k : Nat) : (d.setEvent e k).free = d.free :=
  by simp [Dev.setEvent]
@[simp] theorem Dev.setEvent_log (d : Dev) (e : Event) (k : Nat) : (d.setEvent e k).log = d.log :=
  by simp [Dev.setEvent]
@[simp] theorem Dev.setEvent_held (d : Dev) (e : Event) (k : Nat) : (d.setEvent e k).held = d.held :=
  by simp [Dev.setEvent]
@[simp] theorem Dev.setEvent_pwr (d : Dev) (e : Event) (k : Nat) : (d.setEvent e k).pwr = d.pwr :=
  by simp [Dev.setEvent]
@[simp] theorem Dev.setEvent_cp (d : Dev) (e : Event) (k : Nat) : (d.setEvent e k).cp = d.cp :=
  by simp [Dev.setEvent]
@[simp] theorem Dev.setEvent_ls (d : Dev) (e : Event) (k : Nat) : (d.setEvent e k).ls = d.ls :=
  by simp [Dev.setEvent]
@[simp] theorem Dev.setEvent_gdma (d : Dev) (e : Event) (k : Nat) : (d.setEvent e k).gdma = d.gdma :=
  by simp [Dev.setEvent]
@[simp] theorem Dev.setEvent_dram (d : Dev) (e : Event) (k : Nat) : (d.setEvent e k).dram = d.dram :=
  by simp [Dev.setEvent]
@[simp] theorem Dev.setEvent_codec (d : Dev) (e : Event) (k : Nat) : (d.setEvent e k).codec = d.codec :=
  by simp [Dev.setEvent]
@[simp] theorem Dev.setEvent_retiring (d : Dev) (e : Event) (k : Nat) : (d.setEvent e k).retiring = d.retiring :=
  by simp [Dev.setEvent]
@[simp] theorem Dev.setEvent_scan (d : Dev) (e : Event) (k : Nat) : (d.setEvent e k).scan = d.scan :=
  by simp [Dev.setEvent]
@[simp] theorem Dev.setEvent_col (d : Dev) (e : Event) (k : Nat) : (d.setEvent e k).col = d.col :=
  by simp [Dev.setEvent]
@[simp] theorem Dev.setEvent_gate (d : Dev) (e : Event) (k : Nat) : (d.setEvent e k).gate = d.gate :=
  by simp [Dev.setEvent]
@[simp] theorem Dev.setEvent_pseq (d : Dev) (e : Event) (k : Nat) : (d.setEvent e k).pseq = d.pseq :=
  by simp [Dev.setEvent]
@[simp] theorem Dev.setEvent_sched (d : Dev) (e : Event) (k : Nat) : (d.setEvent e k).sched = d.sched :=
  by simp [Dev.setEvent]
@[simp] theorem Dev.setEvent_bl (d : Dev) (e : Event) (k : Nat) : (d.setEvent e k).bl = d.bl :=
  by simp [Dev.setEvent]
@[simp] theorem Dev.setEvent_cal (d : Dev) (e : Event) (k : Nat) : (d.setEvent e k).cal = d.cal :=
  by simp [Dev.setEvent]
@[simp] theorem Dev.setEvent_rx (d : Dev) (e : Event) (k : Nat) : (d.setEvent e k).rx = d.rx :=
  by simp [Dev.setEvent]
@[simp] theorem Dev.setEvent_wall (d : Dev) (e : Event) (k : Nat) : (d.setEvent e k).wall = d.wall :=
  by simp [Dev.setEvent]
@[simp] theorem Dev.setEvent_mbox (d : Dev) (e : Event) (k : Nat) : (d.setEvent e k).mbox = d.mbox :=
  by simp [Dev.setEvent]
@[simp] theorem Dev.setEvent_mgmt (d : Dev) (e : Event) (k : Nat) : (d.setEvent e k).mgmt = d.mgmt :=
  by simp [Dev.setEvent]
@[simp] theorem Dev.setEvent_nv (d : Dev) (e : Event) (k : Nat) : (d.setEvent e k).nv = d.nv :=
  by simp [Dev.setEvent]
@[simp] theorem Dev.setEvent_boot (d : Dev) (e : Event) (k : Nat) : (d.setEvent e k).boot = d.boot :=
  by simp [Dev.setEvent]
@[simp] theorem Dev.setEvent_tap (d : Dev) (e : Event) (k : Nat) : (d.setEvent e k).tap = d.tap :=
  by simp [Dev.setEvent]
@[simp] theorem Dev.setEvent_flash (d : Dev) (e : Event) (k : Nat) : (d.setEvent e k).flash = d.flash :=
  by simp [Dev.setEvent]
@[simp] theorem Dev.setEvent_xspi (d : Dev) (e : Event) (k : Nat) : (d.setEvent e k).xspi = d.xspi :=
  by simp [Dev.setEvent]
@[simp] theorem Dev.setEvent_ticks (d : Dev) (e : Event) (k : Nat) : (d.setEvent e k).ticks = d.ticks :=
  by simp [Dev.setEvent]
@[simp] theorem Dev.discardShadows_free (d : Dev) : d.discardShadows.free = d.free :=
  rfl
@[simp] theorem Dev.discardShadows_log (d : Dev) : d.discardShadows.log = d.log :=
  rfl
@[simp] theorem Dev.discardShadows_held (d : Dev) : d.discardShadows.held = d.held :=
  rfl
@[simp] theorem Dev.discardShadows_pwr (d : Dev) : d.discardShadows.pwr = d.pwr :=
  rfl
@[simp] theorem Dev.discardShadows_cp (d : Dev) : d.discardShadows.cp = d.cp :=
  rfl
@[simp] theorem Dev.discardShadows_ls (d : Dev) : d.discardShadows.ls = d.ls :=
  rfl
@[simp] theorem Dev.discardShadows_gdma (d : Dev) : d.discardShadows.gdma = d.gdma :=
  rfl
@[simp] theorem Dev.discardShadows_dram (d : Dev) : d.discardShadows.dram = d.dram :=
  rfl
@[simp] theorem Dev.discardShadows_codec (d : Dev) : d.discardShadows.codec = d.codec :=
  rfl
@[simp] theorem Dev.discardShadows_retiring (d : Dev) : d.discardShadows.retiring = d.retiring :=
  rfl
@[simp] theorem Dev.discardShadows_col (d : Dev) : d.discardShadows.col = d.col :=
  rfl
@[simp] theorem Dev.discardShadows_gate (d : Dev) : d.discardShadows.gate = d.gate :=
  rfl
@[simp] theorem Dev.discardShadows_pseq (d : Dev) : d.discardShadows.pseq = d.pseq :=
  rfl
@[simp] theorem Dev.discardShadows_sched (d : Dev) : d.discardShadows.sched = d.sched :=
  rfl
@[simp] theorem Dev.discardShadows_bl (d : Dev) : d.discardShadows.bl = d.bl :=
  rfl
@[simp] theorem Dev.discardShadows_cal (d : Dev) : d.discardShadows.cal = d.cal :=
  rfl
@[simp] theorem Dev.discardShadows_rx (d : Dev) : d.discardShadows.rx = d.rx :=
  rfl
@[simp] theorem Dev.discardShadows_wall (d : Dev) : d.discardShadows.wall = d.wall :=
  rfl
@[simp] theorem Dev.discardShadows_mbox (d : Dev) : d.discardShadows.mbox = d.mbox :=
  rfl
@[simp] theorem Dev.discardShadows_mgmt (d : Dev) : d.discardShadows.mgmt = d.mgmt :=
  rfl
@[simp] theorem Dev.discardShadows_nv (d : Dev) : d.discardShadows.nv = d.nv :=
  rfl
@[simp] theorem Dev.discardShadows_boot (d : Dev) : d.discardShadows.boot = d.boot :=
  rfl
@[simp] theorem Dev.discardShadows_tap (d : Dev) : d.discardShadows.tap = d.tap :=
  rfl
@[simp] theorem Dev.discardShadows_flash (d : Dev) : d.discardShadows.flash = d.flash :=
  rfl
@[simp] theorem Dev.discardShadows_xspi (d : Dev) : d.discardShadows.xspi = d.xspi :=
  rfl
@[simp] theorem Dev.discardShadows_ticks (d : Dev) : d.discardShadows.ticks = d.ticks :=
  rfl

/-! ### Events: the log is the one part that raising an event changes -/

@[simp] theorem Dev.logAppend_free (d : Dev) (e : LogEntry) : (d.logAppend e).free = d.free :=
  by unfold Dev.logAppend; split <;> (try split) <;> simp
@[simp] theorem Dev.logAppend_held (d : Dev) (e : LogEntry) : (d.logAppend e).held = d.held :=
  by unfold Dev.logAppend; split <;> (try split) <;> simp
@[simp] theorem Dev.logAppend_pwr (d : Dev) (e : LogEntry) : (d.logAppend e).pwr = d.pwr :=
  by unfold Dev.logAppend; split <;> (try split) <;> simp
@[simp] theorem Dev.logAppend_cp (d : Dev) (e : LogEntry) : (d.logAppend e).cp = d.cp :=
  by unfold Dev.logAppend; split <;> (try split) <;> simp
@[simp] theorem Dev.logAppend_ls (d : Dev) (e : LogEntry) : (d.logAppend e).ls = d.ls :=
  by unfold Dev.logAppend; split <;> (try split) <;> simp
@[simp] theorem Dev.logAppend_gdma (d : Dev) (e : LogEntry) : (d.logAppend e).gdma = d.gdma :=
  by unfold Dev.logAppend; split <;> (try split) <;> simp
@[simp] theorem Dev.logAppend_dram (d : Dev) (e : LogEntry) : (d.logAppend e).dram = d.dram :=
  by unfold Dev.logAppend; split <;> (try split) <;> simp
@[simp] theorem Dev.logAppend_codec (d : Dev) (e : LogEntry) : (d.logAppend e).codec = d.codec :=
  by unfold Dev.logAppend; split <;> (try split) <;> simp
@[simp] theorem Dev.logAppend_retiring (d : Dev) (e : LogEntry) : (d.logAppend e).retiring = d.retiring :=
  by unfold Dev.logAppend; split <;> (try split) <;> simp
@[simp] theorem Dev.logAppend_scan (d : Dev) (e : LogEntry) : (d.logAppend e).scan = d.scan :=
  by unfold Dev.logAppend; split <;> (try split) <;> simp
@[simp] theorem Dev.logAppend_col (d : Dev) (e : LogEntry) : (d.logAppend e).col = d.col :=
  by unfold Dev.logAppend; split <;> (try split) <;> simp
@[simp] theorem Dev.logAppend_gate (d : Dev) (e : LogEntry) : (d.logAppend e).gate = d.gate :=
  by unfold Dev.logAppend; split <;> (try split) <;> simp
@[simp] theorem Dev.logAppend_pseq (d : Dev) (e : LogEntry) : (d.logAppend e).pseq = d.pseq :=
  by unfold Dev.logAppend; split <;> (try split) <;> simp
@[simp] theorem Dev.logAppend_sched (d : Dev) (e : LogEntry) : (d.logAppend e).sched = d.sched :=
  by unfold Dev.logAppend; split <;> (try split) <;> simp
@[simp] theorem Dev.logAppend_bl (d : Dev) (e : LogEntry) : (d.logAppend e).bl = d.bl :=
  by unfold Dev.logAppend; split <;> (try split) <;> simp
@[simp] theorem Dev.logAppend_cal (d : Dev) (e : LogEntry) : (d.logAppend e).cal = d.cal :=
  by unfold Dev.logAppend; split <;> (try split) <;> simp
@[simp] theorem Dev.logAppend_rx (d : Dev) (e : LogEntry) : (d.logAppend e).rx = d.rx :=
  by unfold Dev.logAppend; split <;> (try split) <;> simp
@[simp] theorem Dev.logAppend_wall (d : Dev) (e : LogEntry) : (d.logAppend e).wall = d.wall :=
  by unfold Dev.logAppend; split <;> (try split) <;> simp
@[simp] theorem Dev.logAppend_mbox (d : Dev) (e : LogEntry) : (d.logAppend e).mbox = d.mbox :=
  by unfold Dev.logAppend; split <;> (try split) <;> simp
@[simp] theorem Dev.logAppend_mgmt (d : Dev) (e : LogEntry) : (d.logAppend e).mgmt = d.mgmt :=
  by unfold Dev.logAppend; split <;> (try split) <;> simp
@[simp] theorem Dev.logAppend_nv (d : Dev) (e : LogEntry) : (d.logAppend e).nv = d.nv :=
  by unfold Dev.logAppend; split <;> (try split) <;> simp
@[simp] theorem Dev.logAppend_boot (d : Dev) (e : LogEntry) : (d.logAppend e).boot = d.boot :=
  by unfold Dev.logAppend; split <;> (try split) <;> simp
@[simp] theorem Dev.logAppend_tap (d : Dev) (e : LogEntry) : (d.logAppend e).tap = d.tap :=
  by unfold Dev.logAppend; split <;> (try split) <;> simp
@[simp] theorem Dev.logAppend_flash (d : Dev) (e : LogEntry) : (d.logAppend e).flash = d.flash :=
  by unfold Dev.logAppend; split <;> (try split) <;> simp
@[simp] theorem Dev.logAppend_xspi (d : Dev) (e : LogEntry) : (d.logAppend e).xspi = d.xspi :=
  by unfold Dev.logAppend; split <;> (try split) <;> simp
@[simp] theorem Dev.logAppend_ticks (d : Dev) (e : LogEntry) : (d.logAppend e).ticks = d.ticks :=
  by unfold Dev.logAppend; split <;> (try split) <;> simp
@[simp] theorem Dev.logHw_free (d : Dev) (c k v : Nat) : (d.logHw c k v).free = d.free :=
  by unfold Dev.logHw; split <;> (try split) <;> simp
@[simp] theorem Dev.logHw_held (d : Dev) (c k v : Nat) : (d.logHw c k v).held = d.held :=
  by unfold Dev.logHw; split <;> (try split) <;> simp
@[simp] theorem Dev.logHw_pwr (d : Dev) (c k v : Nat) : (d.logHw c k v).pwr = d.pwr :=
  by unfold Dev.logHw; split <;> (try split) <;> simp
@[simp] theorem Dev.logHw_cp (d : Dev) (c k v : Nat) : (d.logHw c k v).cp = d.cp :=
  by unfold Dev.logHw; split <;> (try split) <;> simp
@[simp] theorem Dev.logHw_ls (d : Dev) (c k v : Nat) : (d.logHw c k v).ls = d.ls :=
  by unfold Dev.logHw; split <;> (try split) <;> simp
@[simp] theorem Dev.logHw_gdma (d : Dev) (c k v : Nat) : (d.logHw c k v).gdma = d.gdma :=
  by unfold Dev.logHw; split <;> (try split) <;> simp
@[simp] theorem Dev.logHw_dram (d : Dev) (c k v : Nat) : (d.logHw c k v).dram = d.dram :=
  by unfold Dev.logHw; split <;> (try split) <;> simp
@[simp] theorem Dev.logHw_codec (d : Dev) (c k v : Nat) : (d.logHw c k v).codec = d.codec :=
  by unfold Dev.logHw; split <;> (try split) <;> simp
@[simp] theorem Dev.logHw_retiring (d : Dev) (c k v : Nat) : (d.logHw c k v).retiring = d.retiring :=
  by unfold Dev.logHw; split <;> (try split) <;> simp
@[simp] theorem Dev.logHw_scan (d : Dev) (c k v : Nat) : (d.logHw c k v).scan = d.scan :=
  by unfold Dev.logHw; split <;> (try split) <;> simp
@[simp] theorem Dev.logHw_col (d : Dev) (c k v : Nat) : (d.logHw c k v).col = d.col :=
  by unfold Dev.logHw; split <;> (try split) <;> simp
@[simp] theorem Dev.logHw_gate (d : Dev) (c k v : Nat) : (d.logHw c k v).gate = d.gate :=
  by unfold Dev.logHw; split <;> (try split) <;> simp
@[simp] theorem Dev.logHw_pseq (d : Dev) (c k v : Nat) : (d.logHw c k v).pseq = d.pseq :=
  by unfold Dev.logHw; split <;> (try split) <;> simp
@[simp] theorem Dev.logHw_sched (d : Dev) (c k v : Nat) : (d.logHw c k v).sched = d.sched :=
  by unfold Dev.logHw; split <;> (try split) <;> simp
@[simp] theorem Dev.logHw_bl (d : Dev) (c k v : Nat) : (d.logHw c k v).bl = d.bl :=
  by unfold Dev.logHw; split <;> (try split) <;> simp
@[simp] theorem Dev.logHw_cal (d : Dev) (c k v : Nat) : (d.logHw c k v).cal = d.cal :=
  by unfold Dev.logHw; split <;> (try split) <;> simp
@[simp] theorem Dev.logHw_rx (d : Dev) (c k v : Nat) : (d.logHw c k v).rx = d.rx :=
  by unfold Dev.logHw; split <;> (try split) <;> simp
@[simp] theorem Dev.logHw_wall (d : Dev) (c k v : Nat) : (d.logHw c k v).wall = d.wall :=
  by unfold Dev.logHw; split <;> (try split) <;> simp
@[simp] theorem Dev.logHw_mbox (d : Dev) (c k v : Nat) : (d.logHw c k v).mbox = d.mbox :=
  by unfold Dev.logHw; split <;> (try split) <;> simp
@[simp] theorem Dev.logHw_mgmt (d : Dev) (c k v : Nat) : (d.logHw c k v).mgmt = d.mgmt :=
  by unfold Dev.logHw; split <;> (try split) <;> simp
@[simp] theorem Dev.logHw_nv (d : Dev) (c k v : Nat) : (d.logHw c k v).nv = d.nv :=
  by unfold Dev.logHw; split <;> (try split) <;> simp
@[simp] theorem Dev.logHw_boot (d : Dev) (c k v : Nat) : (d.logHw c k v).boot = d.boot :=
  by unfold Dev.logHw; split <;> (try split) <;> simp
@[simp] theorem Dev.logHw_tap (d : Dev) (c k v : Nat) : (d.logHw c k v).tap = d.tap :=
  by unfold Dev.logHw; split <;> (try split) <;> simp
@[simp] theorem Dev.logHw_flash (d : Dev) (c k v : Nat) : (d.logHw c k v).flash = d.flash :=
  by unfold Dev.logHw; split <;> (try split) <;> simp
@[simp] theorem Dev.logHw_xspi (d : Dev) (c k v : Nat) : (d.logHw c k v).xspi = d.xspi :=
  by unfold Dev.logHw; split <;> (try split) <;> simp
@[simp] theorem Dev.logHw_ticks (d : Dev) (c k v : Nat) : (d.logHw c k v).ticks = d.ticks :=
  by unfold Dev.logHw; split <;> (try split) <;> simp
@[simp] theorem Dev.raiseSev_free (d : Dev) (e : Event) (v k : Nat) : (d.raiseSev e v k).free = d.free :=
  by unfold Dev.raiseSev; simp only; split <;> simp
@[simp] theorem Dev.raiseSev_held (d : Dev) (e : Event) (v k : Nat) : (d.raiseSev e v k).held = d.held :=
  by unfold Dev.raiseSev; simp only; split <;> simp
@[simp] theorem Dev.raiseSev_pwr (d : Dev) (e : Event) (v k : Nat) : (d.raiseSev e v k).pwr = d.pwr :=
  by unfold Dev.raiseSev; simp only; split <;> simp
@[simp] theorem Dev.raiseSev_cp (d : Dev) (e : Event) (v k : Nat) : (d.raiseSev e v k).cp = d.cp :=
  by unfold Dev.raiseSev; simp only; split <;> simp
@[simp] theorem Dev.raiseSev_ls (d : Dev) (e : Event) (v k : Nat) : (d.raiseSev e v k).ls = d.ls :=
  by unfold Dev.raiseSev; simp only; split <;> simp
@[simp] theorem Dev.raiseSev_gdma (d : Dev) (e : Event) (v k : Nat) : (d.raiseSev e v k).gdma = d.gdma :=
  by unfold Dev.raiseSev; simp only; split <;> simp
@[simp] theorem Dev.raiseSev_dram (d : Dev) (e : Event) (v k : Nat) : (d.raiseSev e v k).dram = d.dram :=
  by unfold Dev.raiseSev; simp only; split <;> simp
@[simp] theorem Dev.raiseSev_codec (d : Dev) (e : Event) (v k : Nat) : (d.raiseSev e v k).codec = d.codec :=
  by unfold Dev.raiseSev; simp only; split <;> simp
@[simp] theorem Dev.raiseSev_retiring (d : Dev) (e : Event) (v k : Nat) : (d.raiseSev e v k).retiring = d.retiring :=
  by unfold Dev.raiseSev; simp only; split <;> simp
@[simp] theorem Dev.raiseSev_scan (d : Dev) (e : Event) (v k : Nat) : (d.raiseSev e v k).scan = d.scan :=
  by unfold Dev.raiseSev; simp only; split <;> simp
@[simp] theorem Dev.raiseSev_col (d : Dev) (e : Event) (v k : Nat) : (d.raiseSev e v k).col = d.col :=
  by unfold Dev.raiseSev; simp only; split <;> simp
@[simp] theorem Dev.raiseSev_gate (d : Dev) (e : Event) (v k : Nat) : (d.raiseSev e v k).gate = d.gate :=
  by unfold Dev.raiseSev; simp only; split <;> simp
@[simp] theorem Dev.raiseSev_pseq (d : Dev) (e : Event) (v k : Nat) : (d.raiseSev e v k).pseq = d.pseq :=
  by unfold Dev.raiseSev; simp only; split <;> simp
@[simp] theorem Dev.raiseSev_sched (d : Dev) (e : Event) (v k : Nat) : (d.raiseSev e v k).sched = d.sched :=
  by unfold Dev.raiseSev; simp only; split <;> simp
@[simp] theorem Dev.raiseSev_bl (d : Dev) (e : Event) (v k : Nat) : (d.raiseSev e v k).bl = d.bl :=
  by unfold Dev.raiseSev; simp only; split <;> simp
@[simp] theorem Dev.raiseSev_cal (d : Dev) (e : Event) (v k : Nat) : (d.raiseSev e v k).cal = d.cal :=
  by unfold Dev.raiseSev; simp only; split <;> simp
@[simp] theorem Dev.raiseSev_rx (d : Dev) (e : Event) (v k : Nat) : (d.raiseSev e v k).rx = d.rx :=
  by unfold Dev.raiseSev; simp only; split <;> simp
@[simp] theorem Dev.raiseSev_wall (d : Dev) (e : Event) (v k : Nat) : (d.raiseSev e v k).wall = d.wall :=
  by unfold Dev.raiseSev; simp only; split <;> simp
@[simp] theorem Dev.raiseSev_mbox (d : Dev) (e : Event) (v k : Nat) : (d.raiseSev e v k).mbox = d.mbox :=
  by unfold Dev.raiseSev; simp only; split <;> simp
@[simp] theorem Dev.raiseSev_mgmt (d : Dev) (e : Event) (v k : Nat) : (d.raiseSev e v k).mgmt = d.mgmt :=
  by unfold Dev.raiseSev; simp only; split <;> simp
@[simp] theorem Dev.raiseSev_nv (d : Dev) (e : Event) (v k : Nat) : (d.raiseSev e v k).nv = d.nv :=
  by unfold Dev.raiseSev; simp only; split <;> simp
@[simp] theorem Dev.raiseSev_boot (d : Dev) (e : Event) (v k : Nat) : (d.raiseSev e v k).boot = d.boot :=
  by unfold Dev.raiseSev; simp only; split <;> simp
@[simp] theorem Dev.raiseSev_tap (d : Dev) (e : Event) (v k : Nat) : (d.raiseSev e v k).tap = d.tap :=
  by unfold Dev.raiseSev; simp only; split <;> simp
@[simp] theorem Dev.raiseSev_flash (d : Dev) (e : Event) (v k : Nat) : (d.raiseSev e v k).flash = d.flash :=
  by unfold Dev.raiseSev; simp only; split <;> simp
@[simp] theorem Dev.raiseSev_xspi (d : Dev) (e : Event) (v k : Nat) : (d.raiseSev e v k).xspi = d.xspi :=
  by unfold Dev.raiseSev; simp only; split <;> simp
@[simp] theorem Dev.raiseSev_ticks (d : Dev) (e : Event) (v k : Nat) : (d.raiseSev e v k).ticks = d.ticks :=
  by unfold Dev.raiseSev; simp only; split <;> simp
@[simp] theorem Dev.raise_free (d : Dev) (e : Event) (k : Nat) : (d.raise e k).free = d.free :=
  by simp [Dev.raise]
@[simp] theorem Dev.raise_held (d : Dev) (e : Event) (k : Nat) : (d.raise e k).held = d.held :=
  by simp [Dev.raise]
@[simp] theorem Dev.raise_pwr (d : Dev) (e : Event) (k : Nat) : (d.raise e k).pwr = d.pwr :=
  by simp [Dev.raise]
@[simp] theorem Dev.raise_cp (d : Dev) (e : Event) (k : Nat) : (d.raise e k).cp = d.cp :=
  by simp [Dev.raise]
@[simp] theorem Dev.raise_ls (d : Dev) (e : Event) (k : Nat) : (d.raise e k).ls = d.ls :=
  by simp [Dev.raise]
@[simp] theorem Dev.raise_gdma (d : Dev) (e : Event) (k : Nat) : (d.raise e k).gdma = d.gdma :=
  by simp [Dev.raise]
@[simp] theorem Dev.raise_dram (d : Dev) (e : Event) (k : Nat) : (d.raise e k).dram = d.dram :=
  by simp [Dev.raise]
@[simp] theorem Dev.raise_codec (d : Dev) (e : Event) (k : Nat) : (d.raise e k).codec = d.codec :=
  by simp [Dev.raise]
@[simp] theorem Dev.raise_retiring (d : Dev) (e : Event) (k : Nat) : (d.raise e k).retiring = d.retiring :=
  by simp [Dev.raise]
@[simp] theorem Dev.raise_scan (d : Dev) (e : Event) (k : Nat) : (d.raise e k).scan = d.scan :=
  by simp [Dev.raise]
@[simp] theorem Dev.raise_col (d : Dev) (e : Event) (k : Nat) : (d.raise e k).col = d.col :=
  by simp [Dev.raise]
@[simp] theorem Dev.raise_gate (d : Dev) (e : Event) (k : Nat) : (d.raise e k).gate = d.gate :=
  by simp [Dev.raise]
@[simp] theorem Dev.raise_pseq (d : Dev) (e : Event) (k : Nat) : (d.raise e k).pseq = d.pseq :=
  by simp [Dev.raise]
@[simp] theorem Dev.raise_sched (d : Dev) (e : Event) (k : Nat) : (d.raise e k).sched = d.sched :=
  by simp [Dev.raise]
@[simp] theorem Dev.raise_bl (d : Dev) (e : Event) (k : Nat) : (d.raise e k).bl = d.bl :=
  by simp [Dev.raise]
@[simp] theorem Dev.raise_cal (d : Dev) (e : Event) (k : Nat) : (d.raise e k).cal = d.cal :=
  by simp [Dev.raise]
@[simp] theorem Dev.raise_rx (d : Dev) (e : Event) (k : Nat) : (d.raise e k).rx = d.rx :=
  by simp [Dev.raise]
@[simp] theorem Dev.raise_wall (d : Dev) (e : Event) (k : Nat) : (d.raise e k).wall = d.wall :=
  by simp [Dev.raise]
@[simp] theorem Dev.raise_mbox (d : Dev) (e : Event) (k : Nat) : (d.raise e k).mbox = d.mbox :=
  by simp [Dev.raise]
@[simp] theorem Dev.raise_mgmt (d : Dev) (e : Event) (k : Nat) : (d.raise e k).mgmt = d.mgmt :=
  by simp [Dev.raise]
@[simp] theorem Dev.raise_nv (d : Dev) (e : Event) (k : Nat) : (d.raise e k).nv = d.nv :=
  by simp [Dev.raise]
@[simp] theorem Dev.raise_boot (d : Dev) (e : Event) (k : Nat) : (d.raise e k).boot = d.boot :=
  by simp [Dev.raise]
@[simp] theorem Dev.raise_tap (d : Dev) (e : Event) (k : Nat) : (d.raise e k).tap = d.tap :=
  by simp [Dev.raise]
@[simp] theorem Dev.raise_flash (d : Dev) (e : Event) (k : Nat) : (d.raise e k).flash = d.flash :=
  by simp [Dev.raise]
@[simp] theorem Dev.raise_xspi (d : Dev) (e : Event) (k : Nat) : (d.raise e k).xspi = d.xspi :=
  by simp [Dev.raise]
@[simp] theorem Dev.raise_ticks (d : Dev) (e : Event) (k : Nat) : (d.raise e k).ticks = d.ticks :=
  by simp [Dev.raise]
@[simp] theorem Dev.raiseIf_free (d : Dev) (c : Bool) (e : Event) (k : Nat) : (d.raiseIf c e k).free = d.free :=
  by unfold Dev.raiseIf; split <;> simp
@[simp] theorem Dev.raiseIf_held (d : Dev) (c : Bool) (e : Event) (k : Nat) : (d.raiseIf c e k).held = d.held :=
  by unfold Dev.raiseIf; split <;> simp
@[simp] theorem Dev.raiseIf_pwr (d : Dev) (c : Bool) (e : Event) (k : Nat) : (d.raiseIf c e k).pwr = d.pwr :=
  by unfold Dev.raiseIf; split <;> simp
@[simp] theorem Dev.raiseIf_cp (d : Dev) (c : Bool) (e : Event) (k : Nat) : (d.raiseIf c e k).cp = d.cp :=
  by unfold Dev.raiseIf; split <;> simp
@[simp] theorem Dev.raiseIf_ls (d : Dev) (c : Bool) (e : Event) (k : Nat) : (d.raiseIf c e k).ls = d.ls :=
  by unfold Dev.raiseIf; split <;> simp
@[simp] theorem Dev.raiseIf_gdma (d : Dev) (c : Bool) (e : Event) (k : Nat) : (d.raiseIf c e k).gdma = d.gdma :=
  by unfold Dev.raiseIf; split <;> simp
@[simp] theorem Dev.raiseIf_dram (d : Dev) (c : Bool) (e : Event) (k : Nat) : (d.raiseIf c e k).dram = d.dram :=
  by unfold Dev.raiseIf; split <;> simp
@[simp] theorem Dev.raiseIf_codec (d : Dev) (c : Bool) (e : Event) (k : Nat) : (d.raiseIf c e k).codec = d.codec :=
  by unfold Dev.raiseIf; split <;> simp
@[simp] theorem Dev.raiseIf_retiring (d : Dev) (c : Bool) (e : Event) (k : Nat) : (d.raiseIf c e k).retiring = d.retiring :=
  by unfold Dev.raiseIf; split <;> simp
@[simp] theorem Dev.raiseIf_scan (d : Dev) (c : Bool) (e : Event) (k : Nat) : (d.raiseIf c e k).scan = d.scan :=
  by unfold Dev.raiseIf; split <;> simp
@[simp] theorem Dev.raiseIf_col (d : Dev) (c : Bool) (e : Event) (k : Nat) : (d.raiseIf c e k).col = d.col :=
  by unfold Dev.raiseIf; split <;> simp
@[simp] theorem Dev.raiseIf_gate (d : Dev) (c : Bool) (e : Event) (k : Nat) : (d.raiseIf c e k).gate = d.gate :=
  by unfold Dev.raiseIf; split <;> simp
@[simp] theorem Dev.raiseIf_pseq (d : Dev) (c : Bool) (e : Event) (k : Nat) : (d.raiseIf c e k).pseq = d.pseq :=
  by unfold Dev.raiseIf; split <;> simp
@[simp] theorem Dev.raiseIf_sched (d : Dev) (c : Bool) (e : Event) (k : Nat) : (d.raiseIf c e k).sched = d.sched :=
  by unfold Dev.raiseIf; split <;> simp
@[simp] theorem Dev.raiseIf_bl (d : Dev) (c : Bool) (e : Event) (k : Nat) : (d.raiseIf c e k).bl = d.bl :=
  by unfold Dev.raiseIf; split <;> simp
@[simp] theorem Dev.raiseIf_cal (d : Dev) (c : Bool) (e : Event) (k : Nat) : (d.raiseIf c e k).cal = d.cal :=
  by unfold Dev.raiseIf; split <;> simp
@[simp] theorem Dev.raiseIf_rx (d : Dev) (c : Bool) (e : Event) (k : Nat) : (d.raiseIf c e k).rx = d.rx :=
  by unfold Dev.raiseIf; split <;> simp
@[simp] theorem Dev.raiseIf_wall (d : Dev) (c : Bool) (e : Event) (k : Nat) : (d.raiseIf c e k).wall = d.wall :=
  by unfold Dev.raiseIf; split <;> simp
@[simp] theorem Dev.raiseIf_mbox (d : Dev) (c : Bool) (e : Event) (k : Nat) : (d.raiseIf c e k).mbox = d.mbox :=
  by unfold Dev.raiseIf; split <;> simp
@[simp] theorem Dev.raiseIf_mgmt (d : Dev) (c : Bool) (e : Event) (k : Nat) : (d.raiseIf c e k).mgmt = d.mgmt :=
  by unfold Dev.raiseIf; split <;> simp
@[simp] theorem Dev.raiseIf_nv (d : Dev) (c : Bool) (e : Event) (k : Nat) : (d.raiseIf c e k).nv = d.nv :=
  by unfold Dev.raiseIf; split <;> simp
@[simp] theorem Dev.raiseIf_boot (d : Dev) (c : Bool) (e : Event) (k : Nat) : (d.raiseIf c e k).boot = d.boot :=
  by unfold Dev.raiseIf; split <;> simp
@[simp] theorem Dev.raiseIf_tap (d : Dev) (c : Bool) (e : Event) (k : Nat) : (d.raiseIf c e k).tap = d.tap :=
  by unfold Dev.raiseIf; split <;> simp
@[simp] theorem Dev.raiseIf_flash (d : Dev) (c : Bool) (e : Event) (k : Nat) : (d.raiseIf c e k).flash = d.flash :=
  by unfold Dev.raiseIf; split <;> simp
@[simp] theorem Dev.raiseIf_xspi (d : Dev) (c : Bool) (e : Event) (k : Nat) : (d.raiseIf c e k).xspi = d.xspi :=
  by unfold Dev.raiseIf; split <;> simp
@[simp] theorem Dev.raiseIf_ticks (d : Dev) (c : Bool) (e : Event) (k : Nat) : (d.raiseIf c e k).ticks = d.ticks :=
  by unfold Dev.raiseIf; split <;> simp

end Sys2Proof.Machine
end

