-- ==== Sys2Proof/Laws/Regs.lean ====
section
/-! SUPPORT.  Registers by field: what the hardware writes to a field reads back modulo its width, and no field apart from
it changes. -/

set_option Elab.async false

namespace Sys2Proof.Machine

theorem testBit_bits (x hi lo k : Nat) :
    (bits x hi lo).testBit k = (decide (k < hi + 1 - lo) && x.testBit (lo + k)) := by
  unfold bits
  rw [Nat.testBit_mod_two_pow, Nat.testBit_div_two_pow]
  congr 2
  omega

theorem bits_lt (x hi lo : Nat) : bits x hi lo < 2 ^ (hi + 1 - lo) :=
  Nat.mod_lt _ (Nat.two_pow_pos _)

theorem putBits_eq {hi lo : Nat} (x v : Nat) (h : lo ≤ hi) :
    putBits x hi lo v = 2 ^ (hi + 1) * (x / 2 ^ (hi + 1)) + (2 ^ lo * (v % 2 ^ (hi + 1 - lo)) + x % 2 ^ lo) := by
  unfold putBits bits
  have e : 2 ^ (hi + 1) = 2 ^ lo * 2 ^ (hi + 1 - lo) := by rw [← Nat.pow_add]; congr 1; omega
  have h1 : x = 2 ^ lo * (x / 2 ^ lo) + x % 2 ^ lo := (Nat.div_add_mod _ _).symm
  have h2 : x / 2 ^ lo = 2 ^ (hi + 1 - lo) * (x / 2 ^ (hi + 1)) + x / 2 ^ lo % 2 ^ (hi + 1 - lo) := by
    rw [e, ← Nat.div_div_eq_div_mul]; exact (Nat.div_add_mod _ _).symm
  generalize x / 2 ^ (hi + 1) = a at *
  generalize hb : x / 2 ^ lo % 2 ^ (hi + 1 - lo) = b at *
  generalize x % 2 ^ lo = c at *
  generalize v % 2 ^ (hi + 1 - lo) = w
  rw [h2] at h1
  have h3 : x = 2 ^ (hi + 1) * a + 2 ^ lo * b + c := by rw [e]; rw [h1, Nat.mul_add, Nat.mul_assoc]
  have h4 : b * 2 ^ lo = 2 ^ lo * b := Nat.mul_comm _ _
  have h5 : w * 2 ^ lo = 2 ^ lo * w := Nat.mul_comm _ _
  omega

theorem testBit_putBits {hi lo : Nat} (x v k : Nat) (h : lo ≤ hi) :
    (putBits x hi lo v).testBit k = if lo ≤ k ∧ k ≤ hi then v.testBit (k - lo) else x.testBit k := by
  rw [putBits_eq x v h]
  have hc : x % 2 ^ lo < 2 ^ lo := Nat.mod_lt _ (Nat.two_pow_pos _)
  have hw : v % 2 ^ (hi + 1 - lo) < 2 ^ (hi + 1 - lo) := Nat.mod_lt _ (Nat.two_pow_pos _)
  have e : 2 ^ (hi + 1) = 2 ^ lo * 2 ^ (hi + 1 - lo) := by rw [← Nat.pow_add]; congr 1; omega
  have hb : 2 ^ lo * (v % 2 ^ (hi + 1 - lo)) + x % 2 ^ lo < 2 ^ (hi + 1) := by
    rw [e]
    calc _ < 2 ^ lo * (v % 2 ^ (hi + 1 - lo)) + 2 ^ lo := by omega
      _ = 2 ^ lo * (v % 2 ^ (hi + 1 - lo) + 1) := by rw [Nat.mul_add, Nat.mul_one]
      _ ≤ _ := Nat.mul_le_mul_left _ hw
  rw [Nat.testBit_two_pow_mul_add _ hb, Nat.testBit_two_pow_mul_add _ hc]
  by_cases h1 : k < hi + 1
  · by_cases h2 : k < lo
    · simp [h1, h2, Nat.testBit_mod_two_pow, show ¬ (lo ≤ k ∧ k ≤ hi) by omega]
    · simp [h1, h2, Nat.testBit_mod_two_pow, show lo ≤ k ∧ k ≤ hi by omega]
      omega
  · simp [h1, Nat.testBit_div_two_pow, show ¬ (lo ≤ k ∧ k ≤ hi) by omega]
    congr 1; omega

theorem Field.ok_spec {f : Field} (h : f.ok = true) :
    f.lo ≤ f.hi ∧ f.hi < 32 ∧ f.reg.rws < 2 ^ 32 ∧
      ∀ k, f.lo ≤ k → k ≤ f.hi → f.reg.rws.testBit k = f.reg.rws.testBit f.lo := by
  simp only [Sys2Proof.Field.ok, Bool.and_eq_true, decide_eq_true_eq, List.all_eq_true, List.mem_range, Bool.or_eq_true, beq_iff_eq,
    bit, Bool.not_eq_true', decide_eq_false_iff_not] at h
  obtain ⟨⟨⟨h1, h2⟩, h3⟩, h4⟩ := h
  refine ⟨h1, h2, h3, fun k a b => ?_⟩
  rcases h4 k (by omega) with h | h
  · exact absurd ⟨a, b⟩ h
  · exact h

theorem RegFile.find_put_self (f : RegFile) (a : Nat) (v : Word) : RegFile.find (RegFile.put f a v) a = some v := by
  induction f with
  | nil => simp [RegFile.put, RegFile.find]
  | cons p f ih =>
    obtain ⟨b, w⟩ := p
    simp only [RegFile.put]
    split
    · simp [RegFile.find]
    · split
      · simp [RegFile.find]
      · simp [RegFile.find, *]

theorem RegFile.find_put_ne (f : RegFile) {a b : Nat} (v : Word) (h : b ≠ a) :
    RegFile.find (RegFile.put f a v) b = RegFile.find f b := by
  induction f with
  | nil => simp [RegFile.put, RegFile.find, h.symm]
  | cons p f ih =>
    obtain ⟨c, w⟩ := p
    simp only [RegFile.put]
    split
    · simp [RegFile.find, h.symm]
    · split
      · subst_vars; simp [RegFile.find, h.symm]
      · simp only [RegFile.find, ih]

theorem testBit_mask {r k : Nat} (h : r < 2 ^ 32) : (0xFFFFFFFF - r).testBit k = (decide (k < 32) && !r.testBit k) := by
  have := Nat.testBit_two_pow_sub_succ h k
  rw [← this]; congr 1; omega

theorem testBit_ofNat32 (x k : Nat) : (BitVec.ofNat 32 x).toNat.testBit k = (decide (k < 32) && x.testBit k) := by
  rw [BitVec.toNat_ofNat, Nat.testBit_mod_two_pow]

/-- Hardware that writes a field reads it back, modulo its width. -/
theorem Dev.get_put_self {f : Field} (h : f.ok = true) (d : Dev) (v : Nat) {i : Nat} (hi : f.reg.has i = true) :
    (d.put f v i).get f i = v % 2 ^ (f.hi + 1 - f.lo) := by
  obtain ⟨h1, h2, h3, h4⟩ := Field.ok_spec h
  apply Nat.eq_of_testBit_eq
  intro k
  rw [Nat.testBit_mod_two_pow]
  unfold Dev.get
  rw [testBit_bits]
  by_cases hk : k < f.hi + 1 - f.lo
  · simp only [hk, decide_true, Bool.true_and]
    have h5 := h4 (f.lo + k) (by omega) (by omega)
    unfold Dev.put bit
    cases hr : f.reg.rws.testBit f.lo
    · rw [hr] at h5
      simp only [Bool.false_eq_true, if_false]
      simp only [Dev.rd, Dev.putWord, hi, if_true, Dev.plainWord, RegFile.find_put_self, Nat.testBit_or, Nat.testBit_and, testBit_mask h3,
        testBit_ofNat32, testBit_putBits _ _ _ h1, h5, show f.lo + k < 32 by omega, show f.lo ≤ f.lo + k by omega,
        show f.lo + k ≤ f.hi by omega]
      have hz : (if f.reg.rws = 0 then 0 else rwsWord d.active f.reg i).testBit (f.lo + k) = false := by
        split
        · exact Nat.zero_testBit _
        · simp only [rwsWord, Nat.testBit_and, h5, Bool.and_false]
      simp [hz]
    · rw [hr] at h5
      simp only [hi, if_true]
      have hz : f.reg.rws ≠ 0 := by intro e; simp [e] at hr
      simp only [Dev.rd, Dev.plainWord, rwsWord, hz, if_false, RegFile.find_put_self, Nat.testBit_or, Nat.testBit_and,
        testBit_mask h3, testBit_ofNat32, testBit_putBits _ _ _ h1, h5, show f.lo + k < 32 by omega,
        show f.lo ≤ f.lo + k by omega, show f.lo + k ≤ f.hi by omega]
      simp
  · simp [hk]

/-- Two fields that share no word, or no bit. -/
abbrev fieldsApart (f : Field) (i : Nat) (g : Field) (j : Nat) : Prop :=
  f.reg.at i ≠ g.reg.at j ∨ (f.reg = g.reg ∧ i = j ∧ (f.hi < g.lo ∨ g.hi < f.lo))

theorem Dev.rd_put_ne {f : Field} (d : Dev) (v i : Nat) {r : Reg} {j : Nat} (h : f.reg.at i ≠ r.at j) :
    (d.put f v i).rd r j = d.rd r j := by
  unfold Dev.put Dev.putWord
  split <;> split <;> simp only [Dev.rd, Dev.plainWord, rwsWord, RegFile.find_put_ne _ _ h.symm]

/-- A write of one field leaves every field apart from it as it was. -/
theorem Dev.get_put_apart {f g : Field} (hf : f.ok = true) (hg : g.ok = true) (d : Dev) (v i j : Nat) (h : fieldsApart f i g j) :
    (d.put f v i).get g j = d.get g j := by
  rcases h with h | ⟨hr, rfl, hb⟩
  · simp only [Dev.get, Dev.rd_put_ne d v i h]
  · obtain ⟨h1, h2, h3, h4⟩ := Field.ok_spec hf
    obtain ⟨g1, g2, g3, g4⟩ := Field.ok_spec hg
    cases hi : f.reg.has i
    · have : d.put f v i = d := by unfold Dev.put Dev.putWord; simp [hi]
      rw [this]
    apply Nat.eq_of_testBit_eq
    intro k
    unfold Dev.get
    rw [testBit_bits, testBit_bits]
    by_cases hk : k < g.hi + 1 - g.lo
    · simp only [hk, decide_true, Bool.true_and]
      have g5 := g4 (g.lo + k) (by omega) (by omega)
      rw [← hr] at g5 ⊢
      unfold Dev.put bit
      have ho : ¬ (f.lo ≤ g.lo + k ∧ g.lo + k ≤ f.hi) := by omega
      cases hrr : f.reg.rws.testBit f.lo
      · simp only [Bool.false_eq_true, if_false]
        simp only [Dev.rd, Dev.putWord, hi, if_true, Dev.plainWord, RegFile.find_put_self, Nat.testBit_or, Nat.testBit_and, testBit_mask h3,
          testBit_ofNat32, testBit_putBits _ _ _ h1, ho, if_false]
        cases (f.reg.rws.testBit (g.lo + k)) <;> simp [show g.lo + k < 32 by omega]
      · simp only [hi, if_true]
        have hz : f.reg.rws ≠ 0 := by intro e; simp [e] at hrr
        simp only [Dev.rd, Dev.plainWord, rwsWord, hz, if_false, RegFile.find_put_self, Nat.testBit_or, Nat.testBit_and, testBit_mask h3,
          testBit_ofNat32, testBit_putBits _ _ _ h1, ho]
        cases (f.reg.rws.testBit (g.lo + k)) <;> simp [show g.lo + k < 32 by omega]
    · simp [hk]

/-! ### The other hardware writes -/

@[simp] theorem Dev.on_iff (d : Dev) (f : Field) (i : Nat) : (d.on f i = true) = (d.get f i ≠ 0) := by
  simp [Dev.on]

theorem Dev.get_flag_self {f : Field} (h : f.ok = true) (hw : f.hi = f.lo) (d : Dev) (b : Bool) {i : Nat} (hi : f.reg.has i = true) :
    (d.flag f b i).get f i = b.toNat := by
  rw [Dev.flag, Dev.get_put_self h _ _ hi, hw, Nat.add_sub_cancel_left]
  cases b <;> rfl

theorem Dev.get_inc_self {f : Field} (h : f.ok = true) (d : Dev) (n : Nat) {i : Nat} (hi : f.reg.has i = true) :
    (d.inc f i n).get f i = (d.get f i + n) % 2 ^ (f.hi + 1 - f.lo) := Dev.get_put_self h d _ hi

theorem Dev.get_incSat_self {f : Field} (h : f.ok = true) (d : Dev) (n : Nat) {i : Nat} (hi : f.reg.has i = true) :
    (d.incSat f i n).get f i = min (d.get f i + n) (2 ^ (f.hi + 1 - f.lo) - 1) := by
  rw [Dev.incSat, Dev.get_put_self h _ _ hi, Nat.mod_eq_of_lt]
  have := Nat.two_pow_pos (f.hi + 1 - f.lo)
  omega

theorem Dev.get_flag_apart {f g : Field} (hf : f.ok = true) (hg : g.ok = true) (d : Dev) (b : Bool) (i j : Nat)
    (h : fieldsApart f i g j) : (d.flag f b i).get g j = d.get g j := Dev.get_put_apart hf hg d _ i j h

theorem Dev.get_inc_apart {f g : Field} (hf : f.ok = true) (hg : g.ok = true) (d : Dev) (n i j : Nat)
    (h : fieldsApart f i g j) : (d.inc f i n).get g j = d.get g j := Dev.get_put_apart hf hg d _ i j h

theorem Dev.get_incSat_apart {f g : Field} (hf : f.ok = true) (hg : g.ok = true) (d : Dev) (n i j : Nat)
    (h : fieldsApart f i g j) : (d.incSat f i n).get g j = d.get g j := Dev.get_put_apart hf hg d _ i j h

/-- A field is no wider than its register says. -/
theorem Dev.get_lt (d : Dev) (f : Field) (i : Nat) : d.get f i < 2 ^ (f.hi + 1 - f.lo) := bits_lt _ _ _

/-- A word stored whole shows in each plain field. -/
theorem Dev.get_putWord_self {f : Field} (h : f.ok = true) (hp : f.reg.rws = 0) (d : Dev) (w : Nat) {i : Nat}
    (hi : f.reg.has i = true) : (d.putWord f.reg i w).get f i = bits w f.hi f.lo := by
  obtain ⟨h1, h2, h3, h4⟩ := Field.ok_spec h
  apply Nat.eq_of_testBit_eq
  intro k
  unfold Dev.get
  rw [testBit_bits, testBit_bits]
  by_cases hk : k < f.hi + 1 - f.lo
  · simp only [Dev.rd, Dev.putWord, hi, if_true, Dev.plainWord, RegFile.find_put_self, hp, if_true, Nat.testBit_or, Nat.testBit_and,
      testBit_mask (show 0 < 2 ^ 32 by omega), testBit_ofNat32, Nat.zero_testBit, show f.lo + k < 32 by omega]
    simp
  · simp [hk]

theorem Dev.rd_putWord_ne (d : Dev) {r q : Reg} {i j : Nat} (w : Nat) (h : r.at i ≠ q.at j) :
    (d.putWord r i w).rd q j = d.rd q j := by
  unfold Dev.putWord
  split <;> simp only [Dev.rd, Dev.plainWord, rwsWord, RegFile.find_put_ne _ _ h.symm]

theorem Dev.get_putWord_ne (d : Dev) {r : Reg} {g : Field} {i j : Nat} (w : Nat) (h : r.at i ≠ g.reg.at j) :
    (d.putWord r i w).get g j = d.get g j := by
  rw [Dev.get, Dev.rd_putWord_ne d w h, Dev.get]

/-- A write of the shadow alone leaves every value in force as it was. -/
@[simp] theorem Dev.get_putShadow (d : Dev) (f g : Field) (v i j : Nat) : (d.putShadow f v i).get g j = d.get g j := by
  unfold Dev.putShadow; split <;> rfl

end Sys2Proof.Machine
end

