-- ==== Sys2Proof/Laws/Events.lean ====
section
/-! SUPPORT.  Events: raising one sets its EVENT bit, and changes no register but that one and LOG_STATUS. -/

set_option Elab.async false

namespace Sys2Proof.Machine

theorem Dev.rd_logAppend (d : Dev) (x : LogEntry) {r : Reg} {j : Nat} (h : R.LOG_STATUS.at 0 ≠ r.at j) :
    (d.logAppend x).rd r j = d.rd r j := by
  unfold Dev.logAppend
  split
  · rfl
  · split
    · exact Dev.rd_put_ne _ _ _ h
    · exact Dev.rd_put_ne _ _ _ h

theorem Dev.rd_logHw (d : Dev) (c k v : Nat) {r : Reg} {j : Nat} (h : R.LOG_STATUS.at 0 ≠ r.at j) :
    (d.logHw c k v).rd r j = d.rd r j := by
  unfold Dev.logHw
  split
  · rfl
  · split
    · rfl
    · exact Dev.rd_logAppend d _ h

/-- Raising an event leaves every register word but its EVENT register and LOG_STATUS as it was. -/
theorem Dev.rd_raiseSev (d : Dev) (e : Event) (v k : Nat) {r : Reg} {j : Nat} (h1 : e.reg.at 0 ≠ r.at j)
    (h2 : R.LOG_STATUS.at 0 ≠ r.at j) : (d.raiseSev e v k).rd r j = d.rd r j := by
  unfold Dev.raiseSev
  simp only
  split
  · rw [Dev.rd_logHw _ _ _ _ h2]; exact Dev.rd_putWord_ne _ _ h1
  · exact Dev.rd_putWord_ne _ _ h1

theorem Dev.rd_raise (d : Dev) (e : Event) (k : Nat) {r : Reg} {j : Nat} (h1 : e.reg.at 0 ≠ r.at j)
    (h2 : R.LOG_STATUS.at 0 ≠ r.at j) : (d.raise e k).rd r j = d.rd r j := Dev.rd_raiseSev d e _ k h1 h2

theorem Dev.get_raise (d : Dev) (e : Event) (k : Nat) {f : Field} {j : Nat} (h1 : e.reg.at 0 ≠ f.reg.at j)
    (h2 : R.LOG_STATUS.at 0 ≠ f.reg.at j) : (d.raise e k).get f j = d.get f j := by
  rw [Dev.get, Dev.rd_raise d e k h1 h2, Dev.get]

theorem Dev.get_raiseIf (d : Dev) (c : Bool) (e : Event) (k : Nat) {f : Field} {j : Nat} (h1 : e.reg.at 0 ≠ f.reg.at j)
    (h2 : R.LOG_STATUS.at 0 ≠ f.reg.at j) : (d.raiseIf c e k).get f j = d.get f j := by
  unfold Dev.raiseIf
  split
  · exact Dev.get_raise d e k h1 h2
  · rfl

theorem Dev.rd_setEvent_self (d : Dev) (e : Event) (k : Nat) (h : e.reg.rws = 0) (hi : e.reg.has 0 = true) :
    (d.setEvent e k).rd e.reg 0 =
      putBit (d.plainWord e.reg 0) (e.lo + if e.wide then k else 0) true % 2 ^ 32 &&& 0xFFFFFFFF := by
  simp only [Dev.setEvent, Dev.rd, Dev.putWord, hi, if_true, Dev.plainWord, RegFile.find_put_self, h, if_true, Nat.or_zero,
    BitVec.toNat_ofNat, Nat.sub_zero]

/-- An event that is raised has its EVENT bit set. -/
theorem Dev.raised_raise (d : Dev) (e : Event) (k : Nat) (h : e.reg.rws = 0) (hl : R.LOG_STATUS.at 0 ≠ e.reg.at 0)
    (hi : e.reg.has 0 = true) (hb : e.lo + (if e.wide then k else 0) < 32) : (d.raise e k).raised e k = true := by
  have h2 : (d.raise e k).rd e.reg 0 = (d.setEvent e k).rd e.reg 0 := by
    unfold Dev.raise Dev.raiseSev
    simp only
    split
    · exact Dev.rd_logHw _ _ _ _ hl
    · rfl
  rw [Dev.raised, h2, Dev.rd_setEvent_self d e k h hi, bit, Nat.testBit_and, Nat.testBit_mod_two_pow, putBit,
    testBit_putBits _ _ _ (Nat.le_refl _)]
  have : (0xFFFFFFFF : Nat).testBit (e.lo + if e.wide then k else 0) = true := by
    have := testBit_mask (show 0 < 2 ^ 32 by omega) (k := e.lo + if e.wide then k else 0)
    rw [Nat.sub_zero] at this
    rw [this]; simp [hb]
  simp [this, hb]

/-- Raising an event leaves the bits of other EVENT registers as they were. -/
theorem Dev.raised_raise_ne (d : Dev) (e g : Event) (k l : Nat) (h1 : e.reg.at 0 ≠ g.reg.at 0)
    (h2 : R.LOG_STATUS.at 0 ≠ g.reg.at 0) : (d.raise e k).raised g l = d.raised g l := by
  rw [Dev.raised, Dev.rd_raise d e k h1 h2, Dev.raised]

theorem Dev.raised_put_ne {f : Field} (d : Dev) (v i : Nat) (g : Event) (l : Nat) (h : f.reg.at i ≠ g.reg.at 0) :
    (d.put f v i).raised g l = d.raised g l := by
  rw [Dev.raised, Dev.rd_put_ne d v i h, Dev.raised]

end Sys2Proof.Machine
end

