-- ==== Sys2Proof/Laws/Frame.lean ====
section
/-! SUPPORT.  Frames: `Keeps` composes, and each shared update keeps all but its own part or word. -/

set_option Elab.async false

namespace Sys2Proof.Machine

theorem Keeps.refl (d : Dev) (ps : List Part) (rs : List (Nat × Nat)) : Keeps d d ps rs :=
  ⟨fun p _ => by cases p <;> simp [Dev.same], fun _ _ => rfl⟩

theorem Dev.same_trans {d e g : Dev} {p : Part} (h1 : d.same e p) (h2 : e.same g p) : d.same g p := by
  cases p
  case dpcd => exact ⟨h1.1.trans h2.1, h1.2.trans h2.2⟩
  case daleMem => exact fun k => ⟨(h1 k).1.trans (h2 k).1, (h1 k).2.trans (h2 k).2⟩
  all_goals exact Eq.trans h1 h2

/-- Two changes one after the other. -/
theorem Keeps.trans {d e g : Dev} {ps : List Part} {rs : List (Nat × Nat)} (h1 : Keeps d e ps rs) (h2 : Keeps e g ps rs) :
    Keeps d g ps rs :=
  ⟨fun p hp => Dev.same_trans (h1.1 p hp) (h2.1 p hp), fun a ha => (h2.2 a ha).trans (h1.2 a ha)⟩

/-- Every range of the first list lies in a range of the second. -/
abbrev rangesIn (rs qs : List (Nat × Nat)) : Prop := ∀ r ∈ rs, ∃ q ∈ qs, q.1 ≤ r.1 ∧ r.2 ≤ q.2

/-- A frame may name more parts and wider ranges. -/
theorem Keeps.mono {d e : Dev} {ps qs : List Part} {rs xs : List (Nat × Nat)} (h : Keeps d e ps rs)
    (hp : ps ⊆ qs) (hr : rangesIn rs xs) : Keeps d e qs xs :=
  ⟨fun p hq => h.1 p fun hi => hq (hp hi), fun a ha => h.2 a fun r hi => by
    obtain ⟨q, hq, h1, h2⟩ := hr r hi
    rcases ha q hq with h | h
    · exact .inl (by omega)
    · exact .inr (by omega)⟩

/-- Registers that lie outside the ranges of a frame read as before. -/
theorem Keeps.rd {d e : Dev} {ps : List Part} {rs : List (Nat × Nat)} (h : Keeps d e ps rs) {r : Reg} {i : Nat}
    (ha : outside (r.at i) rs) : e.rd r i = d.rd r i := by
  have := h.2 _ ha
  simp only [Dev.wordsAt, Prod.mk.injEq] at this
  simp only [Dev.rd, Dev.plainWord, rwsWord, this]

theorem Keeps.get {d e : Dev} {ps : List Part} {rs : List (Nat × Nat)} (h : Keeps d e ps rs) {f : Field} {i : Nat}
    (ha : outside (f.reg.at i) rs) : e.get f i = d.get f i := by
  rw [Dev.get, h.rd ha, Dev.get]

theorem Keeps.rdShadow {d e : Dev} {ps : List Part} {rs : List (Nat × Nat)} (h : Keeps d e ps rs) {r : Reg} {i : Nat}
    (ha : outside (r.at i) rs) : e.rdShadow r i = d.rdShadow r i := by
  have := h.2 _ ha
  simp only [Dev.wordsAt, Prod.mk.injEq] at this
  simp only [Dev.rdShadow, Dev.plainWord, rwsWord, this]

/-- A change of parts alone. -/
theorem Keeps.parts {d e : Dev} {ps : List Part} (rs : List (Nat × Nat)) (hp : ∀ p, p ∉ ps → d.same e p)
    (h1 : e.regs = d.regs) (h2 : e.shadow = d.shadow) (h3 : e.active = d.active) : Keeps d e ps rs :=
  ⟨hp, fun a _ => by simp only [Dev.wordsAt, h1, h2, h3]⟩

theorem outside_ne {a x y : Nat} {rs : List (Nat × Nat)} (h : outside a rs) (hi : (x, y) ∈ rs) (hy : x < y) : a ≠ x := by
  rcases h _ hi with h | h
  · exact Nat.ne_of_lt h
  · exact Nat.ne_of_gt (Nat.lt_of_lt_of_le hy h)

theorem Keeps.putWord (d : Dev) (r : Reg) (i w : Nat) : Keeps d (d.putWord r i w) [] [wordOf r i] :=
  ⟨fun p _ => by cases p <;> simp [Dev.same, Dev.dale], fun a ha => by
    have := outside_ne ha (List.mem_singleton.2 rfl) (by omega)
    unfold Dev.putWord
    split <;> simp only [Dev.wordsAt, RegFile.find_put_ne _ _ this]⟩

theorem Keeps.put (d : Dev) (f : Field) (v i : Nat) : Keeps d (d.put f v i) [] [wordOf f.reg i] :=
  ⟨fun p _ => by cases p <;> simp [Dev.same, Dev.dale], fun a ha => by
    have := outside_ne ha (List.mem_singleton.2 rfl) (by omega)
    unfold Dev.put Dev.putWord
    split <;> split <;> simp only [Dev.wordsAt, RegFile.find_put_ne _ _ this]⟩

theorem Keeps.putShadow (d : Dev) (f : Field) (v i : Nat) : Keeps d (d.putShadow f v i) [] [wordOf f.reg i] :=
  ⟨fun p _ => by cases p <;> simp [Dev.same, Dev.dale], fun a ha => by
    have := outside_ne ha (List.mem_singleton.2 rfl) (by omega)
    unfold Dev.putShadow
    split <;> simp only [Dev.wordsAt, RegFile.find_put_ne _ _ this]⟩

theorem Keeps.flag (d : Dev) (f : Field) (b : Bool) (i : Nat) : Keeps d (d.flag f b i) [] [wordOf f.reg i] :=
  Keeps.put d f _ i

theorem Keeps.inc (d : Dev) (f : Field) (i n : Nat) : Keeps d (d.inc f i n) [] [wordOf f.reg i] := Keeps.put d f _ i

theorem Keeps.incSat (d : Dev) (f : Field) (i n : Nat) : Keeps d (d.incSat f i n) [] [wordOf f.reg i] := Keeps.put d f _ i

/-- The device with one more entry in its log buffer. -/
def Dev.logPlus (d : Dev) (x : LogEntry) : Dev := { d with log := { d.log with entries := d.log.entries ++ [x] } }

theorem Keeps.logAppend (d : Dev) (x : LogEntry) : Keeps d (d.logAppend x) [.log] [wordOf R.LOG_STATUS] := by
  unfold Dev.logAppend
  split
  · exact Keeps.refl _ _ _
  · split
    · refine Keeps.trans (e := Dev.logPlus d x) (Keeps.parts _ (fun p hp => ?_) rfl rfl rfl)
        ((Keeps.put (Dev.logPlus d x) F.LOG_STATUS_COUNT _ 0).mono (by simp) (by decide))
      cases p <;> first | rfl | exact ⟨rfl, rfl⟩ | exact fun _ => ⟨rfl, rfl⟩ | simp at hp
    · exact (Keeps.incSat d F.LOG_STATUS_DROPPED 0 1).mono (by simp) (by decide)

theorem Keeps.logHw (d : Dev) (c k v : Nat) : Keeps d (d.logHw c k v) [.log] [wordOf R.LOG_STATUS] := by
  unfold Dev.logHw
  split
  · exact Keeps.refl _ _ _
  · split
    · refine Keeps.parts _ (fun p hp => ?_) rfl rfl rfl
      cases p <;> first | rfl | exact ⟨rfl, rfl⟩ | exact fun _ => ⟨rfl, rfl⟩ | simp at hp
    · exact Keeps.logAppend d _

/-- Raising an event changes its EVENT register, the log and LOG_STATUS. -/
theorem Keeps.raiseSev (d : Dev) (e : Event) (v k : Nat) : Keeps d (d.raiseSev e v k) [.log] (eventWords e) := by
  have h : Keeps d (d.setEvent e k) [.log] (eventWords e) :=
    (Keeps.putWord d e.reg 0 _).mono (by simp) (by intro r hr; exact ⟨r, by simp_all [eventWords], Nat.le_refl _, Nat.le_refl _⟩)
  unfold Dev.raiseSev
  simp only
  split
  · exact h.trans ((Keeps.logHw _ _ _ _).mono (by simp)
      (by intro r hr; exact ⟨r, by simp_all [eventWords], Nat.le_refl _, Nat.le_refl _⟩))
  · exact h

theorem Keeps.raise (d : Dev) (e : Event) (k : Nat) : Keeps d (d.raise e k) [.log] (eventWords e) := Keeps.raiseSev d e _ k

theorem Keeps.raiseIf (d : Dev) (c : Bool) (e : Event) (k : Nat) : Keeps d (d.raiseIf c e k) [.log] (eventWords e) := by
  unfold Dev.raiseIf
  split
  · exact Keeps.raise d e k
  · exact Keeps.refl _ _ _

/-- A change of one part alone keeps the words. -/
theorem Keeps.ite {d e g : Dev} {c : Prop} [Decidable c] {ps : List Part} {rs : List (Nat × Nat)} (h1 : c → Keeps d e ps rs)
    (h2 : ¬ c → Keeps d g ps rs) : Keeps d (if c then e else g) ps rs := by
  split
  · exact h1 ‹_›
  · exact h2 ‹_›

theorem Keeps.each {α : Type} {f : Dev → α → Dev} {ps : List Part} {rs : List (Nat × Nat)}
    (h : ∀ d x, Keeps d (f d x) ps rs) (l : List α) (d : Dev) : Keeps d (d.each l f) ps rs := by
  induction l generalizing d with
  | nil => exact Keeps.refl _ _ _
  | cons x l ih => exact (h d x).trans (ih _)

/-! ### The named updates of one part -/

@[simp] theorem Dev.setCp_free (d : Dev) (g : CpState → CpState) : (d.setCp g).free = d.free := rfl
@[simp] theorem Dev.setCp_log (d : Dev) (g : CpState → CpState) : (d.setCp g).log = d.log := rfl
@[simp] theorem Dev.setCp_held (d : Dev) (g : CpState → CpState) : (d.setCp g).held = d.held := rfl
@[simp] theorem Dev.setCp_pwr (d : Dev) (g : CpState → CpState) : (d.setCp g).pwr = d.pwr := rfl
@[simp] theorem Dev.setCp_ls (d : Dev) (g : CpState → CpState) : (d.setCp g).ls = d.ls := rfl
@[simp] theorem Dev.setCp_gdma (d : Dev) (g : CpState → CpState) : (d.setCp g).gdma = d.gdma := rfl
@[simp] theorem Dev.setCp_dram (d : Dev) (g : CpState → CpState) : (d.setCp g).dram = d.dram := rfl
@[simp] theorem Dev.setCp_codec (d : Dev) (g : CpState → CpState) : (d.setCp g).codec = d.codec := rfl
@[simp] theorem Dev.setCp_retiring (d : Dev) (g : CpState → CpState) : (d.setCp g).retiring = d.retiring := rfl
@[simp] theorem Dev.setCp_scan (d : Dev) (g : CpState → CpState) : (d.setCp g).scan = d.scan := rfl
@[simp] theorem Dev.setCp_col (d : Dev) (g : CpState → CpState) : (d.setCp g).col = d.col := rfl
@[simp] theorem Dev.setCp_gate (d : Dev) (g : CpState → CpState) : (d.setCp g).gate = d.gate := rfl
@[simp] theorem Dev.setCp_pseq (d : Dev) (g : CpState → CpState) : (d.setCp g).pseq = d.pseq := rfl
@[simp] theorem Dev.setCp_sched (d : Dev) (g : CpState → CpState) : (d.setCp g).sched = d.sched := rfl
@[simp] theorem Dev.setCp_bl (d : Dev) (g : CpState → CpState) : (d.setCp g).bl = d.bl := rfl
@[simp] theorem Dev.setCp_cal (d : Dev) (g : CpState → CpState) : (d.setCp g).cal = d.cal := rfl
@[simp] theorem Dev.setCp_rx (d : Dev) (g : CpState → CpState) : (d.setCp g).rx = d.rx := rfl
@[simp] theorem Dev.setCp_wall (d : Dev) (g : CpState → CpState) : (d.setCp g).wall = d.wall := rfl
@[simp] theorem Dev.setCp_mbox (d : Dev) (g : CpState → CpState) : (d.setCp g).mbox = d.mbox := rfl
@[simp] theorem Dev.setCp_mgmt (d : Dev) (g : CpState → CpState) : (d.setCp g).mgmt = d.mgmt := rfl
@[simp] theorem Dev.setCp_nv (d : Dev) (g : CpState → CpState) : (d.setCp g).nv = d.nv := rfl
@[simp] theorem Dev.setCp_boot (d : Dev) (g : CpState → CpState) : (d.setCp g).boot = d.boot := rfl
@[simp] theorem Dev.setCp_tap (d : Dev) (g : CpState → CpState) : (d.setCp g).tap = d.tap := rfl
@[simp] theorem Dev.setCp_flash (d : Dev) (g : CpState → CpState) : (d.setCp g).flash = d.flash := rfl
@[simp] theorem Dev.setCp_xspi (d : Dev) (g : CpState → CpState) : (d.setCp g).xspi = d.xspi := rfl
@[simp] theorem Dev.setCp_ticks (d : Dev) (g : CpState → CpState) : (d.setCp g).ticks = d.ticks := rfl
@[simp] theorem Dev.get_setCp (d : Dev) (g : CpState → CpState) (f : Field) (i : Nat) : (d.setCp g).get f i = d.get f i := rfl
@[simp] theorem Dev.rd_setCp (d : Dev) (g : CpState → CpState) (r : Reg) (i : Nat) : (d.setCp g).rd r i = d.rd r i := rfl
@[simp] theorem Dev.setNv_free (d : Dev) (g : NvState → NvState) : (d.setNv g).free = d.free := rfl
@[simp] theorem Dev.setNv_log (d : Dev) (g : NvState → NvState) : (d.setNv g).log = d.log := rfl
@[simp] theorem Dev.setNv_held (d : Dev) (g : NvState → NvState) : (d.setNv g).held = d.held := rfl
@[simp] theorem Dev.setNv_pwr (d : Dev) (g : NvState → NvState) : (d.setNv g).pwr = d.pwr := rfl
@[simp] theorem Dev.setNv_cp (d : Dev) (g : NvState → NvState) : (d.setNv g).cp = d.cp := rfl
@[simp] theorem Dev.setNv_ls (d : Dev) (g : NvState → NvState) : (d.setNv g).ls = d.ls := rfl
@[simp] theorem Dev.setNv_gdma (d : Dev) (g : NvState → NvState) : (d.setNv g).gdma = d.gdma := rfl
@[simp] theorem Dev.setNv_dram (d : Dev) (g : NvState → NvState) : (d.setNv g).dram = d.dram := rfl
@[simp] theorem Dev.setNv_codec (d : Dev) (g : NvState → NvState) : (d.setNv g).codec = d.codec := rfl
@[simp] theorem Dev.setNv_retiring (d : Dev) (g : NvState → NvState) : (d.setNv g).retiring = d.retiring := rfl
@[simp] theorem Dev.setNv_scan (d : Dev) (g : NvState → NvState) : (d.setNv g).scan = d.scan := rfl
@[simp] theorem Dev.setNv_col (d : Dev) (g : NvState → NvState) : (d.setNv g).col = d.col := rfl
@[simp] theorem Dev.setNv_gate (d : Dev) (g : NvState → NvState) : (d.setNv g).gate = d.gate := rfl
@[simp] theorem Dev.setNv_pseq (d : Dev) (g : NvState → NvState) : (d.setNv g).pseq = d.pseq := rfl
@[simp] theorem Dev.setNv_sched (d : Dev) (g : NvState → NvState) : (d.setNv g).sched = d.sched := rfl
@[simp] theorem Dev.setNv_bl (d : Dev) (g : NvState → NvState) : (d.setNv g).bl = d.bl := rfl
@[simp] theorem Dev.setNv_cal (d : Dev) (g : NvState → NvState) : (d.setNv g).cal = d.cal := rfl
@[simp] theorem Dev.setNv_rx (d : Dev) (g : NvState → NvState) : (d.setNv g).rx = d.rx := rfl
@[simp] theorem Dev.setNv_wall (d : Dev) (g : NvState → NvState) : (d.setNv g).wall = d.wall := rfl
@[simp] theorem Dev.setNv_mbox (d : Dev) (g : NvState → NvState) : (d.setNv g).mbox = d.mbox := rfl
@[simp] theorem Dev.setNv_mgmt (d : Dev) (g : NvState → NvState) : (d.setNv g).mgmt = d.mgmt := rfl
@[simp] theorem Dev.setNv_boot (d : Dev) (g : NvState → NvState) : (d.setNv g).boot = d.boot := rfl
@[simp] theorem Dev.setNv_tap (d : Dev) (g : NvState → NvState) : (d.setNv g).tap = d.tap := rfl
@[simp] theorem Dev.setNv_flash (d : Dev) (g : NvState → NvState) : (d.setNv g).flash = d.flash := rfl
@[simp] theorem Dev.setNv_xspi (d : Dev) (g : NvState → NvState) : (d.setNv g).xspi = d.xspi := rfl
@[simp] theorem Dev.setNv_ticks (d : Dev) (g : NvState → NvState) : (d.setNv g).ticks = d.ticks := rfl
@[simp] theorem Dev.get_setNv (d : Dev) (g : NvState → NvState) (f : Field) (i : Nat) : (d.setNv g).get f i = d.get f i := rfl
@[simp] theorem Dev.rd_setNv (d : Dev) (g : NvState → NvState) (r : Reg) (i : Nat) : (d.setNv g).rd r i = d.rd r i := rfl
@[simp] theorem Dev.setTap_free (d : Dev) (g : TapState → TapState) : (d.setTap g).free = d.free := rfl
@[simp] theorem Dev.setTap_log (d : Dev) (g : TapState → TapState) : (d.setTap g).log = d.log := rfl
@[simp] theorem Dev.setTap_held (d : Dev) (g : TapState → TapState) : (d.setTap g).held = d.held := rfl
@[simp] theorem Dev.setTap_pwr (d : Dev) (g : TapState → TapState) : (d.setTap g).pwr = d.pwr := rfl
@[simp] theorem Dev.setTap_cp (d : Dev) (g : TapState → TapState) : (d.setTap g).cp = d.cp := rfl
@[simp] theorem Dev.setTap_ls (d : Dev) (g : TapState → TapState) : (d.setTap g).ls = d.ls := rfl
@[simp] theorem Dev.setTap_gdma (d : Dev) (g : TapState → TapState) : (d.setTap g).gdma = d.gdma := rfl
@[simp] theorem Dev.setTap_dram (d : Dev) (g : TapState → TapState) : (d.setTap g).dram = d.dram := rfl
@[simp] theorem Dev.setTap_codec (d : Dev) (g : TapState → TapState) : (d.setTap g).codec = d.codec := rfl
@[simp] theorem Dev.setTap_retiring (d : Dev) (g : TapState → TapState) : (d.setTap g).retiring = d.retiring := rfl
@[simp] theorem Dev.setTap_scan (d : Dev) (g : TapState → TapState) : (d.setTap g).scan = d.scan := rfl
@[simp] theorem Dev.setTap_col (d : Dev) (g : TapState → TapState) : (d.setTap g).col = d.col := rfl
@[simp] theorem Dev.setTap_gate (d : Dev) (g : TapState → TapState) : (d.setTap g).gate = d.gate := rfl
@[simp] theorem Dev.setTap_pseq (d : Dev) (g : TapState → TapState) : (d.setTap g).pseq = d.pseq := rfl
@[simp] theorem Dev.setTap_sched (d : Dev) (g : TapState → TapState) : (d.setTap g).sched = d.sched := rfl
@[simp] theorem Dev.setTap_bl (d : Dev) (g : TapState → TapState) : (d.setTap g).bl = d.bl := rfl
@[simp] theorem Dev.setTap_cal (d : Dev) (g : TapState → TapState) : (d.setTap g).cal = d.cal := rfl
@[simp] theorem Dev.setTap_rx (d : Dev) (g : TapState → TapState) : (d.setTap g).rx = d.rx := rfl
@[simp] theorem Dev.setTap_wall (d : Dev) (g : TapState → TapState) : (d.setTap g).wall = d.wall := rfl
@[simp] theorem Dev.setTap_mbox (d : Dev) (g : TapState → TapState) : (d.setTap g).mbox = d.mbox := rfl
@[simp] theorem Dev.setTap_mgmt (d : Dev) (g : TapState → TapState) : (d.setTap g).mgmt = d.mgmt := rfl
@[simp] theorem Dev.setTap_nv (d : Dev) (g : TapState → TapState) : (d.setTap g).nv = d.nv := rfl
@[simp] theorem Dev.setTap_boot (d : Dev) (g : TapState → TapState) : (d.setTap g).boot = d.boot := rfl
@[simp] theorem Dev.setTap_flash (d : Dev) (g : TapState → TapState) : (d.setTap g).flash = d.flash := rfl
@[simp] theorem Dev.setTap_xspi (d : Dev) (g : TapState → TapState) : (d.setTap g).xspi = d.xspi := rfl
@[simp] theorem Dev.setTap_ticks (d : Dev) (g : TapState → TapState) : (d.setTap g).ticks = d.ticks := rfl
@[simp] theorem Dev.get_setTap (d : Dev) (g : TapState → TapState) (f : Field) (i : Nat) : (d.setTap g).get f i = d.get f i := rfl
@[simp] theorem Dev.rd_setTap (d : Dev) (g : TapState → TapState) (r : Reg) (i : Nat) : (d.setTap g).rd r i = d.rd r i := rfl
@[simp] theorem Dev.setMgmt_free (d : Dev) (g : MgmtState → MgmtState) : (d.setMgmt g).free = d.free := rfl
@[simp] theorem Dev.setMgmt_log (d : Dev) (g : MgmtState → MgmtState) : (d.setMgmt g).log = d.log := rfl
@[simp] theorem Dev.setMgmt_held (d : Dev) (g : MgmtState → MgmtState) : (d.setMgmt g).held = d.held := rfl
@[simp] theorem Dev.setMgmt_pwr (d : Dev) (g : MgmtState → MgmtState) : (d.setMgmt g).pwr = d.pwr := rfl
@[simp] theorem Dev.setMgmt_cp (d : Dev) (g : MgmtState → MgmtState) : (d.setMgmt g).cp = d.cp := rfl
@[simp] theorem Dev.setMgmt_ls (d : Dev) (g : MgmtState → MgmtState) : (d.setMgmt g).ls = d.ls := rfl
@[simp] theorem Dev.setMgmt_gdma (d : Dev) (g : MgmtState → MgmtState) : (d.setMgmt g).gdma = d.gdma := rfl
@[simp] theorem Dev.setMgmt_dram (d : Dev) (g : MgmtState → MgmtState) : (d.setMgmt g).dram = d.dram := rfl
@[simp] theorem Dev.setMgmt_codec (d : Dev) (g : MgmtState → MgmtState) : (d.setMgmt g).codec = d.codec := rfl
@[simp] theorem Dev.setMgmt_retiring (d : Dev) (g : MgmtState → MgmtState) : (d.setMgmt g).retiring = d.retiring := rfl
@[simp] theorem Dev.setMgmt_scan (d : Dev) (g : MgmtState → MgmtState) : (d.setMgmt g).scan = d.scan := rfl
@[simp] theorem Dev.setMgmt_col (d : Dev) (g : MgmtState → MgmtState) : (d.setMgmt g).col = d.col := rfl
@[simp] theorem Dev.setMgmt_gate (d : Dev) (g : MgmtState → MgmtState) : (d.setMgmt g).gate = d.gate := rfl
@[simp] theorem Dev.setMgmt_pseq (d : Dev) (g : MgmtState → MgmtState) : (d.setMgmt g).pseq = d.pseq := rfl
@[simp] theorem Dev.setMgmt_sched (d : Dev) (g : MgmtState → MgmtState) : (d.setMgmt g).sched = d.sched := rfl
@[simp] theorem Dev.setMgmt_bl (d : Dev) (g : MgmtState → MgmtState) : (d.setMgmt g).bl = d.bl := rfl
@[simp] theorem Dev.setMgmt_cal (d : Dev) (g : MgmtState → MgmtState) : (d.setMgmt g).cal = d.cal := rfl
@[simp] theorem Dev.setMgmt_rx (d : Dev) (g : MgmtState → MgmtState) : (d.setMgmt g).rx = d.rx := rfl
@[simp] theorem Dev.setMgmt_wall (d : Dev) (g : MgmtState → MgmtState) : (d.setMgmt g).wall = d.wall := rfl
@[simp] theorem Dev.setMgmt_mbox (d : Dev) (g : MgmtState → MgmtState) : (d.setMgmt g).mbox = d.mbox := rfl
@[simp] theorem Dev.setMgmt_nv (d : Dev) (g : MgmtState → MgmtState) : (d.setMgmt g).nv = d.nv := rfl
@[simp] theorem Dev.setMgmt_boot (d : Dev) (g : MgmtState → MgmtState) : (d.setMgmt g).boot = d.boot := rfl
@[simp] theorem Dev.setMgmt_tap (d : Dev) (g : MgmtState → MgmtState) : (d.setMgmt g).tap = d.tap := rfl
@[simp] theorem Dev.setMgmt_flash (d : Dev) (g : MgmtState → MgmtState) : (d.setMgmt g).flash = d.flash := rfl
@[simp] theorem Dev.setMgmt_xspi (d : Dev) (g : MgmtState → MgmtState) : (d.setMgmt g).xspi = d.xspi := rfl
@[simp] theorem Dev.setMgmt_ticks (d : Dev) (g : MgmtState → MgmtState) : (d.setMgmt g).ticks = d.ticks := rfl
@[simp] theorem Dev.get_setMgmt (d : Dev) (g : MgmtState → MgmtState) (f : Field) (i : Nat) : (d.setMgmt g).get f i = d.get f i := rfl
@[simp] theorem Dev.rd_setMgmt (d : Dev) (g : MgmtState → MgmtState) (r : Reg) (i : Nat) : (d.setMgmt g).rd r i = d.rd r i := rfl
@[simp] theorem Dev.setBoot_free (d : Dev) (g : BootState → BootState) : (d.setBoot g).free = d.free := rfl
@[simp] theorem Dev.setBoot_log (d : Dev) (g : BootState → BootState) : (d.setBoot g).log = d.log := rfl
@[simp] theorem Dev.setBoot_held (d : Dev) (g : BootState → BootState) : (d.setBoot g).held = d.held := rfl
@[simp] theorem Dev.setBoot_pwr (d : Dev) (g : BootState → BootState) : (d.setBoot g).pwr = d.pwr := rfl
@[simp] theorem Dev.setBoot_cp (d : Dev) (g : BootState → BootState) : (d.setBoot g).cp = d.cp := rfl
@[simp] theorem Dev.setBoot_ls (d : Dev) (g : BootState → BootState) : (d.setBoot g).ls = d.ls := rfl
@[simp] theorem Dev.setBoot_gdma (d : Dev) (g : BootState → BootState) : (d.setBoot g).gdma = d.gdma := rfl
@[simp] theorem Dev.setBoot_dram (d : Dev) (g : BootState → BootState) : (d.setBoot g).dram = d.dram := rfl
@[simp] theorem Dev.setBoot_codec (d : Dev) (g : BootState → BootState) : (d.setBoot g).codec = d.codec := rfl
@[simp] theorem Dev.setBoot_retiring (d : Dev) (g : BootState → BootState) : (d.setBoot g).retiring = d.retiring := rfl
@[simp] theorem Dev.setBoot_scan (d : Dev) (g : BootState → BootState) : (d.setBoot g).scan = d.scan := rfl
@[simp] theorem Dev.setBoot_col (d : Dev) (g : BootState → BootState) : (d.setBoot g).col = d.col := rfl
@[simp] theorem Dev.setBoot_gate (d : Dev) (g : BootState → BootState) : (d.setBoot g).gate = d.gate := rfl
@[simp] theorem Dev.setBoot_pseq (d : Dev) (g : BootState → BootState) : (d.setBoot g).pseq = d.pseq := rfl
@[simp] theorem Dev.setBoot_sched (d : Dev) (g : BootState → BootState) : (d.setBoot g).sched = d.sched := rfl
@[simp] theorem Dev.setBoot_bl (d : Dev) (g : BootState → BootState) : (d.setBoot g).bl = d.bl := rfl
@[simp] theorem Dev.setBoot_cal (d : Dev) (g : BootState → BootState) : (d.setBoot g).cal = d.cal := rfl
@[simp] theorem Dev.setBoot_rx (d : Dev) (g : BootState → BootState) : (d.setBoot g).rx = d.rx := rfl
@[simp] theorem Dev.setBoot_wall (d : Dev) (g : BootState → BootState) : (d.setBoot g).wall = d.wall := rfl
@[simp] theorem Dev.setBoot_mbox (d : Dev) (g : BootState → BootState) : (d.setBoot g).mbox = d.mbox := rfl
@[simp] theorem Dev.setBoot_mgmt (d : Dev) (g : BootState → BootState) : (d.setBoot g).mgmt = d.mgmt := rfl
@[simp] theorem Dev.setBoot_nv (d : Dev) (g : BootState → BootState) : (d.setBoot g).nv = d.nv := rfl
@[simp] theorem Dev.setBoot_tap (d : Dev) (g : BootState → BootState) : (d.setBoot g).tap = d.tap := rfl
@[simp] theorem Dev.setBoot_flash (d : Dev) (g : BootState → BootState) : (d.setBoot g).flash = d.flash := rfl
@[simp] theorem Dev.setBoot_xspi (d : Dev) (g : BootState → BootState) : (d.setBoot g).xspi = d.xspi := rfl
@[simp] theorem Dev.setBoot_ticks (d : Dev) (g : BootState → BootState) : (d.setBoot g).ticks = d.ticks := rfl
@[simp] theorem Dev.get_setBoot (d : Dev) (g : BootState → BootState) (f : Field) (i : Nat) : (d.setBoot g).get f i = d.get f i := rfl
@[simp] theorem Dev.rd_setBoot (d : Dev) (g : BootState → BootState) (r : Reg) (i : Nat) : (d.setBoot g).rd r i = d.rd r i := rfl
@[simp] theorem Dev.setPwr_free (d : Dev) (g : PwrState → PwrState) : (d.setPwr g).free = d.free := rfl
@[simp] theorem Dev.setPwr_log (d : Dev) (g : PwrState → PwrState) : (d.setPwr g).log = d.log := rfl
@[simp] theorem Dev.setPwr_held (d : Dev) (g : PwrState → PwrState) : (d.setPwr g).held = d.held := rfl
@[simp] theorem Dev.setPwr_cp (d : Dev) (g : PwrState → PwrState) : (d.setPwr g).cp = d.cp := rfl
@[simp] theorem Dev.setPwr_ls (d : Dev) (g : PwrState → PwrState) : (d.setPwr g).ls = d.ls := rfl
@[simp] theorem Dev.setPwr_gdma (d : Dev) (g : PwrState → PwrState) : (d.setPwr g).gdma = d.gdma := rfl
@[simp] theorem Dev.setPwr_dram (d : Dev) (g : PwrState → PwrState) : (d.setPwr g).dram = d.dram := rfl
@[simp] theorem Dev.setPwr_codec (d : Dev) (g : PwrState → PwrState) : (d.setPwr g).codec = d.codec := rfl
@[simp] theorem Dev.setPwr_retiring (d : Dev) (g : PwrState → PwrState) : (d.setPwr g).retiring = d.retiring := rfl
@[simp] theorem Dev.setPwr_scan (d : Dev) (g : PwrState → PwrState) : (d.setPwr g).scan = d.scan := rfl
@[simp] theorem Dev.setPwr_col (d : Dev) (g : PwrState → PwrState) : (d.setPwr g).col = d.col := rfl
@[simp] theorem Dev.setPwr_gate (d : Dev) (g : PwrState → PwrState) : (d.setPwr g).gate = d.gate := rfl
@[simp] theorem Dev.setPwr_pseq (d : Dev) (g : PwrState → PwrState) : (d.setPwr g).pseq = d.pseq := rfl
@[simp] theorem Dev.setPwr_sched (d : Dev) (g : PwrState → PwrState) : (d.setPwr g).sched = d.sched := rfl
@[simp] theorem Dev.setPwr_bl (d : Dev) (g : PwrState → PwrState) : (d.setPwr g).bl = d.bl := rfl
@[simp] theorem Dev.setPwr_cal (d : Dev) (g : PwrState → PwrState) : (d.setPwr g).cal = d.cal := rfl
@[simp] theorem Dev.setPwr_rx (d : Dev) (g : PwrState → PwrState) : (d.setPwr g).rx = d.rx := rfl
@[simp] theorem Dev.setPwr_wall (d : Dev) (g : PwrState → PwrState) : (d.setPwr g).wall = d.wall := rfl
@[simp] theorem Dev.setPwr_mbox (d : Dev) (g : PwrState → PwrState) : (d.setPwr g).mbox = d.mbox := rfl
@[simp] theorem Dev.setPwr_mgmt (d : Dev) (g : PwrState → PwrState) : (d.setPwr g).mgmt = d.mgmt := rfl
@[simp] theorem Dev.setPwr_nv (d : Dev) (g : PwrState → PwrState) : (d.setPwr g).nv = d.nv := rfl
@[simp] theorem Dev.setPwr_boot (d : Dev) (g : PwrState → PwrState) : (d.setPwr g).boot = d.boot := rfl
@[simp] theorem Dev.setPwr_tap (d : Dev) (g : PwrState → PwrState) : (d.setPwr g).tap = d.tap := rfl
@[simp] theorem Dev.setPwr_flash (d : Dev) (g : PwrState → PwrState) : (d.setPwr g).flash = d.flash := rfl
@[simp] theorem Dev.setPwr_xspi (d : Dev) (g : PwrState → PwrState) : (d.setPwr g).xspi = d.xspi := rfl
@[simp] theorem Dev.setPwr_ticks (d : Dev) (g : PwrState → PwrState) : (d.setPwr g).ticks = d.ticks := rfl
@[simp] theorem Dev.get_setPwr (d : Dev) (g : PwrState → PwrState) (f : Field) (i : Nat) : (d.setPwr g).get f i = d.get f i := rfl
@[simp] theorem Dev.rd_setPwr (d : Dev) (g : PwrState → PwrState) (r : Reg) (i : Nat) : (d.setPwr g).rd r i = d.rd r i := rfl
@[simp] theorem Dev.setScan_free (d : Dev) (g : ScanState → ScanState) : (d.setScan g).free = d.free := rfl
@[simp] theorem Dev.setScan_log (d : Dev) (g : ScanState → ScanState) : (d.setScan g).log = d.log := rfl
@[simp] theorem Dev.setScan_held (d : Dev) (g : ScanState → ScanState) : (d.setScan g).held = d.held := rfl
@[simp] theorem Dev.setScan_pwr (d : Dev) (g : ScanState → ScanState) : (d.setScan g).pwr = d.pwr := rfl
@[simp] theorem Dev.setScan_cp (d : Dev) (g : ScanState → ScanState) : (d.setScan g).cp = d.cp := rfl
@[simp] theorem Dev.setScan_ls (d : Dev) (g : ScanState → ScanState) : (d.setScan g).ls = d.ls := rfl
@[simp] theorem Dev.setScan_gdma (d : Dev) (g : ScanState → ScanState) : (d.setScan g).gdma = d.gdma := rfl
@[simp] theorem Dev.setScan_dram (d : Dev) (g : ScanState → ScanState) : (d.setScan g).dram = d.dram := rfl
@[simp] theorem Dev.setScan_codec (d : Dev) (g : ScanState → ScanState) : (d.setScan g).codec = d.codec := rfl
@[simp] theorem Dev.setScan_retiring (d : Dev) (g : ScanState → ScanState) : (d.setScan g).retiring = d.retiring := rfl
@[simp] theorem Dev.setScan_col (d : Dev) (g : ScanState → ScanState) : (d.setScan g).col = d.col := rfl
@[simp] theorem Dev.setScan_gate (d : Dev) (g : ScanState → ScanState) : (d.setScan g).gate = d.gate := rfl
@[simp] theorem Dev.setScan_pseq (d : Dev) (g : ScanState → ScanState) : (d.setScan g).pseq = d.pseq := rfl
@[simp] theorem Dev.setScan_sched (d : Dev) (g : ScanState → ScanState) : (d.setScan g).sched = d.sched := rfl
@[simp] theorem Dev.setScan_bl (d : Dev) (g : ScanState → ScanState) : (d.setScan g).bl = d.bl := rfl
@[simp] theorem Dev.setScan_cal (d : Dev) (g : ScanState → ScanState) : (d.setScan g).cal = d.cal := rfl
@[simp] theorem Dev.setScan_rx (d : Dev) (g : ScanState → ScanState) : (d.setScan g).rx = d.rx := rfl
@[simp] theorem Dev.setScan_wall (d : Dev) (g : ScanState → ScanState) : (d.setScan g).wall = d.wall := rfl
@[simp] theorem Dev.setScan_mbox (d : Dev) (g : ScanState → ScanState) : (d.setScan g).mbox = d.mbox := rfl
@[simp] theorem Dev.setScan_mgmt (d : Dev) (g : ScanState → ScanState) : (d.setScan g).mgmt = d.mgmt := rfl
@[simp] theorem Dev.setScan_nv (d : Dev) (g : ScanState → ScanState) : (d.setScan g).nv = d.nv := rfl
@[simp] theorem Dev.setScan_boot (d : Dev) (g : ScanState → ScanState) : (d.setScan g).boot = d.boot := rfl
@[simp] theorem Dev.setScan_tap (d : Dev) (g : ScanState → ScanState) : (d.setScan g).tap = d.tap := rfl
@[simp] theorem Dev.setScan_flash (d : Dev) (g : ScanState → ScanState) : (d.setScan g).flash = d.flash := rfl
@[simp] theorem Dev.setScan_xspi (d : Dev) (g : ScanState → ScanState) : (d.setScan g).xspi = d.xspi := rfl
@[simp] theorem Dev.setScan_ticks (d : Dev) (g : ScanState → ScanState) : (d.setScan g).ticks = d.ticks := rfl
@[simp] theorem Dev.get_setScan (d : Dev) (g : ScanState → ScanState) (f : Field) (i : Nat) : (d.setScan g).get f i = d.get f i := rfl
@[simp] theorem Dev.rd_setScan (d : Dev) (g : ScanState → ScanState) (r : Reg) (i : Nat) : (d.setScan g).rd r i = d.rd r i := rfl
@[simp] theorem Dev.setPseq_free (d : Dev) (g : PseqState → PseqState) : (d.setPseq g).free = d.free := rfl
@[simp] theorem Dev.setPseq_log (d : Dev) (g : PseqState → PseqState) : (d.setPseq g).log = d.log := rfl
@[simp] theorem Dev.setPseq_held (d : Dev) (g : PseqState → PseqState) : (d.setPseq g).held = d.held := rfl
@[simp] theorem Dev.setPseq_pwr (d : Dev) (g : PseqState → PseqState) : (d.setPseq g).pwr = d.pwr := rfl
@[simp] theorem Dev.setPseq_cp (d : Dev) (g : PseqState → PseqState) : (d.setPseq g).cp = d.cp := rfl
@[simp] theorem Dev.setPseq_ls (d : Dev) (g : PseqState → PseqState) : (d.setPseq g).ls = d.ls := rfl
@[simp] theorem Dev.setPseq_gdma (d : Dev) (g : PseqState → PseqState) : (d.setPseq g).gdma = d.gdma := rfl
@[simp] theorem Dev.setPseq_dram (d : Dev) (g : PseqState → PseqState) : (d.setPseq g).dram = d.dram := rfl
@[simp] theorem Dev.setPseq_codec (d : Dev) (g : PseqState → PseqState) : (d.setPseq g).codec = d.codec := rfl
@[simp] theorem Dev.setPseq_retiring (d : Dev) (g : PseqState → PseqState) : (d.setPseq g).retiring = d.retiring := rfl
@[simp] theorem Dev.setPseq_scan (d : Dev) (g : PseqState → PseqState) : (d.setPseq g).scan = d.scan := rfl
@[simp] theorem Dev.setPseq_col (d : Dev) (g : PseqState → PseqState) : (d.setPseq g).col = d.col := rfl
@[simp] theorem Dev.setPseq_gate (d : Dev) (g : PseqState → PseqState) : (d.setPseq g).gate = d.gate := rfl
@[simp] theorem Dev.setPseq_sched (d : Dev) (g : PseqState → PseqState) : (d.setPseq g).sched = d.sched := rfl
@[simp] theorem Dev.setPseq_bl (d : Dev) (g : PseqState → PseqState) : (d.setPseq g).bl = d.bl := rfl
@[simp] theorem Dev.setPseq_cal (d : Dev) (g : PseqState → PseqState) : (d.setPseq g).cal = d.cal := rfl
@[simp] theorem Dev.setPseq_rx (d : Dev) (g : PseqState → PseqState) : (d.setPseq g).rx = d.rx := rfl
@[simp] theorem Dev.setPseq_wall (d : Dev) (g : PseqState → PseqState) : (d.setPseq g).wall = d.wall := rfl
@[simp] theorem Dev.setPseq_mbox (d : Dev) (g : PseqState → PseqState) : (d.setPseq g).mbox = d.mbox := rfl
@[simp] theorem Dev.setPseq_mgmt (d : Dev) (g : PseqState → PseqState) : (d.setPseq g).mgmt = d.mgmt := rfl
@[simp] theorem Dev.setPseq_nv (d : Dev) (g : PseqState → PseqState) : (d.setPseq g).nv = d.nv := rfl
@[simp] theorem Dev.setPseq_boot (d : Dev) (g : PseqState → PseqState) : (d.setPseq g).boot = d.boot := rfl
@[simp] theorem Dev.setPseq_tap (d : Dev) (g : PseqState → PseqState) : (d.setPseq g).tap = d.tap := rfl
@[simp] theorem Dev.setPseq_flash (d : Dev) (g : PseqState → PseqState) : (d.setPseq g).flash = d.flash := rfl
@[simp] theorem Dev.setPseq_xspi (d : Dev) (g : PseqState → PseqState) : (d.setPseq g).xspi = d.xspi := rfl
@[simp] theorem Dev.setPseq_ticks (d : Dev) (g : PseqState → PseqState) : (d.setPseq g).ticks = d.ticks := rfl
@[simp] theorem Dev.get_setPseq (d : Dev) (g : PseqState → PseqState) (f : Field) (i : Nat) : (d.setPseq g).get f i = d.get f i := rfl
@[simp] theorem Dev.rd_setPseq (d : Dev) (g : PseqState → PseqState) (r : Reg) (i : Nat) : (d.setPseq g).rd r i = d.rd r i := rfl
@[simp] theorem Dev.updWall_free (d : Dev) (g : WallState → WallState) : (d.updWall g).free = d.free := rfl
@[simp] theorem Dev.updWall_log (d : Dev) (g : WallState → WallState) : (d.updWall g).log = d.log := rfl
@[simp] theorem Dev.updWall_held (d : Dev) (g : WallState → WallState) : (d.updWall g).held = d.held := rfl
@[simp] theorem Dev.updWall_pwr (d : Dev) (g : WallState → WallState) : (d.updWall g).pwr = d.pwr := rfl
@[simp] theorem Dev.updWall_cp (d : Dev) (g : WallState → WallState) : (d.updWall g).cp = d.cp := rfl
@[simp] theorem Dev.updWall_ls (d : Dev) (g : WallState → WallState) : (d.updWall g).ls = d.ls := rfl
@[simp] theorem Dev.updWall_gdma (d : Dev) (g : WallState → WallState) : (d.updWall g).gdma = d.gdma := rfl
@[simp] theorem Dev.updWall_dram (d : Dev) (g : WallState → WallState) : (d.updWall g).dram = d.dram := rfl
@[simp] theorem Dev.updWall_codec (d : Dev) (g : WallState → WallState) : (d.updWall g).codec = d.codec := rfl
@[simp] theorem Dev.updWall_retiring (d : Dev) (g : WallState → WallState) : (d.updWall g).retiring = d.retiring := rfl
@[simp] theorem Dev.updWall_scan (d : Dev) (g : WallState → WallState) : (d.updWall g).scan = d.scan := rfl
@[simp] theorem Dev.updWall_col (d : Dev) (g : WallState → WallState) : (d.updWall g).col = d.col := rfl
@[simp] theorem Dev.updWall_gate (d : Dev) (g : WallState → WallState) : (d.updWall g).gate = d.gate := rfl
@[simp] theorem Dev.updWall_pseq (d : Dev) (g : WallState → WallState) : (d.updWall g).pseq = d.pseq := rfl
@[simp] theorem Dev.updWall_sched (d : Dev) (g : WallState → WallState) : (d.updWall g).sched = d.sched := rfl
@[simp] theorem Dev.updWall_bl (d : Dev) (g : WallState → WallState) : (d.updWall g).bl = d.bl := rfl
@[simp] theorem Dev.updWall_cal (d : Dev) (g : WallState → WallState) : (d.updWall g).cal = d.cal := rfl
@[simp] theorem Dev.updWall_rx (d : Dev) (g : WallState → WallState) : (d.updWall g).rx = d.rx := rfl
@[simp] theorem Dev.updWall_mbox (d : Dev) (g : WallState → WallState) : (d.updWall g).mbox = d.mbox := rfl
@[simp] theorem Dev.updWall_mgmt (d : Dev) (g : WallState → WallState) : (d.updWall g).mgmt = d.mgmt := rfl
@[simp] theorem Dev.updWall_nv (d : Dev) (g : WallState → WallState) : (d.updWall g).nv = d.nv := rfl
@[simp] theorem Dev.updWall_boot (d : Dev) (g : WallState → WallState) : (d.updWall g).boot = d.boot := rfl
@[simp] theorem Dev.updWall_tap (d : Dev) (g : WallState → WallState) : (d.updWall g).tap = d.tap := rfl
@[simp] theorem Dev.updWall_flash (d : Dev) (g : WallState → WallState) : (d.updWall g).flash = d.flash := rfl
@[simp] theorem Dev.updWall_xspi (d : Dev) (g : WallState → WallState) : (d.updWall g).xspi = d.xspi := rfl
@[simp] theorem Dev.updWall_ticks (d : Dev) (g : WallState → WallState) : (d.updWall g).ticks = d.ticks := rfl
@[simp] theorem Dev.get_updWall (d : Dev) (g : WallState → WallState) (f : Field) (i : Nat) : (d.updWall g).get f i = d.get f i := rfl
@[simp] theorem Dev.rd_updWall (d : Dev) (g : WallState → WallState) (r : Reg) (i : Nat) : (d.updWall g).rd r i = d.rd r i := rfl
@[simp] theorem Dev.updEqx_free (d : Dev) (g : EqxSet → EqxSet) : (d.updEqx g).free = d.free := rfl
@[simp] theorem Dev.updEqx_log (d : Dev) (g : EqxSet → EqxSet) : (d.updEqx g).log = d.log := rfl
@[simp] theorem Dev.updEqx_held (d : Dev) (g : EqxSet → EqxSet) : (d.updEqx g).held = d.held := rfl
@[simp] theorem Dev.updEqx_pwr (d : Dev) (g : EqxSet → EqxSet) : (d.updEqx g).pwr = d.pwr := rfl
@[simp] theorem Dev.updEqx_cp (d : Dev) (g : EqxSet → EqxSet) : (d.updEqx g).cp = d.cp := rfl
@[simp] theorem Dev.updEqx_ls (d : Dev) (g : EqxSet → EqxSet) : (d.updEqx g).ls = d.ls := rfl
@[simp] theorem Dev.updEqx_gdma (d : Dev) (g : EqxSet → EqxSet) : (d.updEqx g).gdma = d.gdma := rfl
@[simp] theorem Dev.updEqx_dram (d : Dev) (g : EqxSet → EqxSet) : (d.updEqx g).dram = d.dram := rfl
@[simp] theorem Dev.updEqx_codec (d : Dev) (g : EqxSet → EqxSet) : (d.updEqx g).codec = d.codec := rfl
@[simp] theorem Dev.updEqx_retiring (d : Dev) (g : EqxSet → EqxSet) : (d.updEqx g).retiring = d.retiring := rfl
@[simp] theorem Dev.updEqx_scan (d : Dev) (g : EqxSet → EqxSet) : (d.updEqx g).scan = d.scan := rfl
@[simp] theorem Dev.updEqx_col (d : Dev) (g : EqxSet → EqxSet) : (d.updEqx g).col = d.col := rfl
@[simp] theorem Dev.updEqx_gate (d : Dev) (g : EqxSet → EqxSet) : (d.updEqx g).gate = d.gate := rfl
@[simp] theorem Dev.updEqx_pseq (d : Dev) (g : EqxSet → EqxSet) : (d.updEqx g).pseq = d.pseq := rfl
@[simp] theorem Dev.updEqx_sched (d : Dev) (g : EqxSet → EqxSet) : (d.updEqx g).sched = d.sched := rfl
@[simp] theorem Dev.updEqx_bl (d : Dev) (g : EqxSet → EqxSet) : (d.updEqx g).bl = d.bl := rfl
@[simp] theorem Dev.updEqx_cal (d : Dev) (g : EqxSet → EqxSet) : (d.updEqx g).cal = d.cal := rfl
@[simp] theorem Dev.updEqx_rx (d : Dev) (g : EqxSet → EqxSet) : (d.updEqx g).rx = d.rx := rfl
@[simp] theorem Dev.updEqx_mbox (d : Dev) (g : EqxSet → EqxSet) : (d.updEqx g).mbox = d.mbox := rfl
@[simp] theorem Dev.updEqx_mgmt (d : Dev) (g : EqxSet → EqxSet) : (d.updEqx g).mgmt = d.mgmt := rfl
@[simp] theorem Dev.updEqx_nv (d : Dev) (g : EqxSet → EqxSet) : (d.updEqx g).nv = d.nv := rfl
@[simp] theorem Dev.updEqx_boot (d : Dev) (g : EqxSet → EqxSet) : (d.updEqx g).boot = d.boot := rfl
@[simp] theorem Dev.updEqx_tap (d : Dev) (g : EqxSet → EqxSet) : (d.updEqx g).tap = d.tap := rfl
@[simp] theorem Dev.updEqx_flash (d : Dev) (g : EqxSet → EqxSet) : (d.updEqx g).flash = d.flash := rfl
@[simp] theorem Dev.updEqx_xspi (d : Dev) (g : EqxSet → EqxSet) : (d.updEqx g).xspi = d.xspi := rfl
@[simp] theorem Dev.updEqx_ticks (d : Dev) (g : EqxSet → EqxSet) : (d.updEqx g).ticks = d.ticks := rfl
@[simp] theorem Dev.get_updEqx (d : Dev) (g : EqxSet → EqxSet) (f : Field) (i : Nat) : (d.updEqx g).get f i = d.get f i := rfl
@[simp] theorem Dev.rd_updEqx (d : Dev) (g : EqxSet → EqxSet) (r : Reg) (i : Nat) : (d.updEqx g).rd r i = d.rd r i := rfl
@[simp] theorem Dev.updNotice_free (d : Dev) (g : NoticeIn → NoticeIn) : (d.updNotice g).free = d.free := rfl
@[simp] theorem Dev.updNotice_log (d : Dev) (g : NoticeIn → NoticeIn) : (d.updNotice g).log = d.log := rfl
@[simp] theorem Dev.updNotice_held (d : Dev) (g : NoticeIn → NoticeIn) : (d.updNotice g).held = d.held := rfl
@[simp] theorem Dev.updNotice_pwr (d : Dev) (g : NoticeIn → NoticeIn) : (d.updNotice g).pwr = d.pwr := rfl
@[simp] theorem Dev.updNotice_cp (d : Dev) (g : NoticeIn → NoticeIn) : (d.updNotice g).cp = d.cp := rfl
@[simp] theorem Dev.updNotice_ls (d : Dev) (g : NoticeIn → NoticeIn) : (d.updNotice g).ls = d.ls := rfl
@[simp] theorem Dev.updNotice_gdma (d : Dev) (g : NoticeIn → NoticeIn) : (d.updNotice g).gdma = d.gdma := rfl
@[simp] theorem Dev.updNotice_dram (d : Dev) (g : NoticeIn → NoticeIn) : (d.updNotice g).dram = d.dram := rfl
@[simp] theorem Dev.updNotice_codec (d : Dev) (g : NoticeIn → NoticeIn) : (d.updNotice g).codec = d.codec := rfl
@[simp] theorem Dev.updNotice_retiring (d : Dev) (g : NoticeIn → NoticeIn) : (d.updNotice g).retiring = d.retiring := rfl
@[simp] theorem Dev.updNotice_scan (d : Dev) (g : NoticeIn → NoticeIn) : (d.updNotice g).scan = d.scan := rfl
@[simp] theorem Dev.updNotice_col (d : Dev) (g : NoticeIn → NoticeIn) : (d.updNotice g).col = d.col := rfl
@[simp] theorem Dev.updNotice_gate (d : Dev) (g : NoticeIn → NoticeIn) : (d.updNotice g).gate = d.gate := rfl
@[simp] theorem Dev.updNotice_pseq (d : Dev) (g : NoticeIn → NoticeIn) : (d.updNotice g).pseq = d.pseq := rfl
@[simp] theorem Dev.updNotice_sched (d : Dev) (g : NoticeIn → NoticeIn) : (d.updNotice g).sched = d.sched := rfl
@[simp] theorem Dev.updNotice_bl (d : Dev) (g : NoticeIn → NoticeIn) : (d.updNotice g).bl = d.bl := rfl
@[simp] theorem Dev.updNotice_cal (d : Dev) (g : NoticeIn → NoticeIn) : (d.updNotice g).cal = d.cal := rfl
@[simp] theorem Dev.updNotice_rx (d : Dev) (g : NoticeIn → NoticeIn) : (d.updNotice g).rx = d.rx := rfl
@[simp] theorem Dev.updNotice_mbox (d : Dev) (g : NoticeIn → NoticeIn) : (d.updNotice g).mbox = d.mbox := rfl
@[simp] theorem Dev.updNotice_mgmt (d : Dev) (g : NoticeIn → NoticeIn) : (d.updNotice g).mgmt = d.mgmt := rfl
@[simp] theorem Dev.updNotice_nv (d : Dev) (g : NoticeIn → NoticeIn) : (d.updNotice g).nv = d.nv := rfl
@[simp] theorem Dev.updNotice_boot (d : Dev) (g : NoticeIn → NoticeIn) : (d.updNotice g).boot = d.boot := rfl
@[simp] theorem Dev.updNotice_tap (d : Dev) (g : NoticeIn → NoticeIn) : (d.updNotice g).tap = d.tap := rfl
@[simp] theorem Dev.updNotice_flash (d : Dev) (g : NoticeIn → NoticeIn) : (d.updNotice g).flash = d.flash := rfl
@[simp] theorem Dev.updNotice_xspi (d : Dev) (g : NoticeIn → NoticeIn) : (d.updNotice g).xspi = d.xspi := rfl
@[simp] theorem Dev.updNotice_ticks (d : Dev) (g : NoticeIn → NoticeIn) : (d.updNotice g).ticks = d.ticks := rfl
@[simp] theorem Dev.get_updNotice (d : Dev) (g : NoticeIn → NoticeIn) (f : Field) (i : Nat) : (d.updNotice g).get f i = d.get f i := rfl
@[simp] theorem Dev.rd_updNotice (d : Dev) (g : NoticeIn → NoticeIn) (r : Reg) (i : Nat) : (d.updNotice g).rd r i = d.rd r i := rfl
@[simp] theorem Dev.setWp_free (d : Dev) (p : Nat) (g : WPort → WPort) : (d.setWp p g).free = d.free := rfl
@[simp] theorem Dev.setWp_log (d : Dev) (p : Nat) (g : WPort → WPort) : (d.setWp p g).log = d.log := rfl
@[simp] theorem Dev.setWp_held (d : Dev) (p : Nat) (g : WPort → WPort) : (d.setWp p g).held = d.held := rfl
@[simp] theorem Dev.setWp_pwr (d : Dev) (p : Nat) (g : WPort → WPort) : (d.setWp p g).pwr = d.pwr := rfl
@[simp] theorem Dev.setWp_cp (d : Dev) (p : Nat) (g : WPort → WPort) : (d.setWp p g).cp = d.cp := rfl
@[simp] theorem Dev.setWp_ls (d : Dev) (p : Nat) (g : WPort → WPort) : (d.setWp p g).ls = d.ls := rfl
@[simp] theorem Dev.setWp_gdma (d : Dev) (p : Nat) (g : WPort → WPort) : (d.setWp p g).gdma = d.gdma := rfl
@[simp] theorem Dev.setWp_dram (d : Dev) (p : Nat) (g : WPort → WPort) : (d.setWp p g).dram = d.dram := rfl
@[simp] theorem Dev.setWp_codec (d : Dev) (p : Nat) (g : WPort → WPort) : (d.setWp p g).codec = d.codec := rfl
@[simp] theorem Dev.setWp_retiring (d : Dev) (p : Nat) (g : WPort → WPort) : (d.setWp p g).retiring = d.retiring := rfl
@[simp] theorem Dev.setWp_scan (d : Dev) (p : Nat) (g : WPort → WPort) : (d.setWp p g).scan = d.scan := rfl
@[simp] theorem Dev.setWp_col (d : Dev) (p : Nat) (g : WPort → WPort) : (d.setWp p g).col = d.col := rfl
@[simp] theorem Dev.setWp_gate (d : Dev) (p : Nat) (g : WPort → WPort) : (d.setWp p g).gate = d.gate := rfl
@[simp] theorem Dev.setWp_pseq (d : Dev) (p : Nat) (g : WPort → WPort) : (d.setWp p g).pseq = d.pseq := rfl
@[simp] theorem Dev.setWp_sched (d : Dev) (p : Nat) (g : WPort → WPort) : (d.setWp p g).sched = d.sched := rfl
@[simp] theorem Dev.setWp_bl (d : Dev) (p : Nat) (g : WPort → WPort) : (d.setWp p g).bl = d.bl := rfl
@[simp] theorem Dev.setWp_cal (d : Dev) (p : Nat) (g : WPort → WPort) : (d.setWp p g).cal = d.cal := rfl
@[simp] theorem Dev.setWp_rx (d : Dev) (p : Nat) (g : WPort → WPort) : (d.setWp p g).rx = d.rx := rfl
@[simp] theorem Dev.setWp_mbox (d : Dev) (p : Nat) (g : WPort → WPort) : (d.setWp p g).mbox = d.mbox := rfl
@[simp] theorem Dev.setWp_mgmt (d : Dev) (p : Nat) (g : WPort → WPort) : (d.setWp p g).mgmt = d.mgmt := rfl
@[simp] theorem Dev.setWp_nv (d : Dev) (p : Nat) (g : WPort → WPort) : (d.setWp p g).nv = d.nv := rfl
@[simp] theorem Dev.setWp_boot (d : Dev) (p : Nat) (g : WPort → WPort) : (d.setWp p g).boot = d.boot := rfl
@[simp] theorem Dev.setWp_tap (d : Dev) (p : Nat) (g : WPort → WPort) : (d.setWp p g).tap = d.tap := rfl
@[simp] theorem Dev.setWp_flash (d : Dev) (p : Nat) (g : WPort → WPort) : (d.setWp p g).flash = d.flash := rfl
@[simp] theorem Dev.setWp_xspi (d : Dev) (p : Nat) (g : WPort → WPort) : (d.setWp p g).xspi = d.xspi := rfl
@[simp] theorem Dev.setWp_ticks (d : Dev) (p : Nat) (g : WPort → WPort) : (d.setWp p g).ticks = d.ticks := rfl
@[simp] theorem Dev.get_setWp (d : Dev) (p : Nat) (g : WPort → WPort) (f : Field) (i : Nat) : (d.setWp p g).get f i = d.get f i := rfl
@[simp] theorem Dev.rd_setWp (d : Dev) (p : Nat) (g : WPort → WPort) (r : Reg) (i : Nat) : (d.setWp p g).rd r i = d.rd r i := rfl
@[simp] theorem Dev.setDale_free (d : Dev) (k : Nat) (g : DaleState → DaleState) : (d.setDale k g).free = d.free := rfl
@[simp] theorem Dev.setDale_log (d : Dev) (k : Nat) (g : DaleState → DaleState) : (d.setDale k g).log = d.log := rfl
@[simp] theorem Dev.setDale_held (d : Dev) (k : Nat) (g : DaleState → DaleState) : (d.setDale k g).held = d.held := rfl
@[simp] theorem Dev.setDale_pwr (d : Dev) (k : Nat) (g : DaleState → DaleState) : (d.setDale k g).pwr = d.pwr := rfl
@[simp] theorem Dev.setDale_cp (d : Dev) (k : Nat) (g : DaleState → DaleState) : (d.setDale k g).cp = d.cp := rfl
@[simp] theorem Dev.setDale_ls (d : Dev) (k : Nat) (g : DaleState → DaleState) : (d.setDale k g).ls = d.ls := rfl
@[simp] theorem Dev.setDale_gdma (d : Dev) (k : Nat) (g : DaleState → DaleState) : (d.setDale k g).gdma = d.gdma := rfl
@[simp] theorem Dev.setDale_dram (d : Dev) (k : Nat) (g : DaleState → DaleState) : (d.setDale k g).dram = d.dram := rfl
@[simp] theorem Dev.setDale_codec (d : Dev) (k : Nat) (g : DaleState → DaleState) : (d.setDale k g).codec = d.codec := rfl
@[simp] theorem Dev.setDale_retiring (d : Dev) (k : Nat) (g : DaleState → DaleState) : (d.setDale k g).retiring = d.retiring := rfl
@[simp] theorem Dev.setDale_scan (d : Dev) (k : Nat) (g : DaleState → DaleState) : (d.setDale k g).scan = d.scan := rfl
@[simp] theorem Dev.setDale_col (d : Dev) (k : Nat) (g : DaleState → DaleState) : (d.setDale k g).col = d.col := rfl
@[simp] theorem Dev.setDale_gate (d : Dev) (k : Nat) (g : DaleState → DaleState) : (d.setDale k g).gate = d.gate := rfl
@[simp] theorem Dev.setDale_pseq (d : Dev) (k : Nat) (g : DaleState → DaleState) : (d.setDale k g).pseq = d.pseq := rfl
@[simp] theorem Dev.setDale_bl (d : Dev) (k : Nat) (g : DaleState → DaleState) : (d.setDale k g).bl = d.bl := rfl
@[simp] theorem Dev.setDale_cal (d : Dev) (k : Nat) (g : DaleState → DaleState) : (d.setDale k g).cal = d.cal := rfl
@[simp] theorem Dev.setDale_rx (d : Dev) (k : Nat) (g : DaleState → DaleState) : (d.setDale k g).rx = d.rx := rfl
@[simp] theorem Dev.setDale_wall (d : Dev) (k : Nat) (g : DaleState → DaleState) : (d.setDale k g).wall = d.wall := rfl
@[simp] theorem Dev.setDale_mbox (d : Dev) (k : Nat) (g : DaleState → DaleState) : (d.setDale k g).mbox = d.mbox := rfl
@[simp] theorem Dev.setDale_mgmt (d : Dev) (k : Nat) (g : DaleState → DaleState) : (d.setDale k g).mgmt = d.mgmt := rfl
@[simp] theorem Dev.setDale_nv (d : Dev) (k : Nat) (g : DaleState → DaleState) : (d.setDale k g).nv = d.nv := rfl
@[simp] theorem Dev.setDale_boot (d : Dev) (k : Nat) (g : DaleState → DaleState) : (d.setDale k g).boot = d.boot := rfl
@[simp] theorem Dev.setDale_tap (d : Dev) (k : Nat) (g : DaleState → DaleState) : (d.setDale k g).tap = d.tap := rfl
@[simp] theorem Dev.setDale_flash (d : Dev) (k : Nat) (g : DaleState → DaleState) : (d.setDale k g).flash = d.flash := rfl
@[simp] theorem Dev.setDale_xspi (d : Dev) (k : Nat) (g : DaleState → DaleState) : (d.setDale k g).xspi = d.xspi := rfl
@[simp] theorem Dev.setDale_ticks (d : Dev) (k : Nat) (g : DaleState → DaleState) : (d.setDale k g).ticks = d.ticks := rfl
@[simp] theorem Dev.get_setDale (d : Dev) (k : Nat) (g : DaleState → DaleState) (f : Field) (i : Nat) : (d.setDale k g).get f i = d.get f i := rfl
@[simp] theorem Dev.rd_setDale (d : Dev) (k : Nat) (g : DaleState → DaleState) (r : Reg) (i : Nat) : (d.setDale k g).rd r i = d.rd r i := rfl
@[simp] theorem Dev.setSink_free (d : Dev) (k : Nat) (g : SinkState → SinkState) : (d.setSink k g).free = d.free := rfl
@[simp] theorem Dev.setSink_log (d : Dev) (k : Nat) (g : SinkState → SinkState) : (d.setSink k g).log = d.log := rfl
@[simp] theorem Dev.setSink_held (d : Dev) (k : Nat) (g : SinkState → SinkState) : (d.setSink k g).held = d.held := rfl
@[simp] theorem Dev.setSink_pwr (d : Dev) (k : Nat) (g : SinkState → SinkState) : (d.setSink k g).pwr = d.pwr := rfl
@[simp] theorem Dev.setSink_cp (d : Dev) (k : Nat) (g : SinkState → SinkState) : (d.setSink k g).cp = d.cp := rfl
@[simp] theorem Dev.setSink_ls (d : Dev) (k : Nat) (g : SinkState → SinkState) : (d.setSink k g).ls = d.ls := rfl
@[simp] theorem Dev.setSink_gdma (d : Dev) (k : Nat) (g : SinkState → SinkState) : (d.setSink k g).gdma = d.gdma := rfl
@[simp] theorem Dev.setSink_dram (d : Dev) (k : Nat) (g : SinkState → SinkState) : (d.setSink k g).dram = d.dram := rfl
@[simp] theorem Dev.setSink_codec (d : Dev) (k : Nat) (g : SinkState → SinkState) : (d.setSink k g).codec = d.codec := rfl
@[simp] theorem Dev.setSink_retiring (d : Dev) (k : Nat) (g : SinkState → SinkState) : (d.setSink k g).retiring = d.retiring := rfl
@[simp] theorem Dev.setSink_scan (d : Dev) (k : Nat) (g : SinkState → SinkState) : (d.setSink k g).scan = d.scan := rfl
@[simp] theorem Dev.setSink_col (d : Dev) (k : Nat) (g : SinkState → SinkState) : (d.setSink k g).col = d.col := rfl
@[simp] theorem Dev.setSink_gate (d : Dev) (k : Nat) (g : SinkState → SinkState) : (d.setSink k g).gate = d.gate := rfl
@[simp] theorem Dev.setSink_pseq (d : Dev) (k : Nat) (g : SinkState → SinkState) : (d.setSink k g).pseq = d.pseq := rfl
@[simp] theorem Dev.setSink_sched (d : Dev) (k : Nat) (g : SinkState → SinkState) : (d.setSink k g).sched = d.sched := rfl
@[simp] theorem Dev.setSink_cal (d : Dev) (k : Nat) (g : SinkState → SinkState) : (d.setSink k g).cal = d.cal := rfl
@[simp] theorem Dev.setSink_rx (d : Dev) (k : Nat) (g : SinkState → SinkState) : (d.setSink k g).rx = d.rx := rfl
@[simp] theorem Dev.setSink_wall (d : Dev) (k : Nat) (g : SinkState → SinkState) : (d.setSink k g).wall = d.wall := rfl
@[simp] theorem Dev.setSink_mbox (d : Dev) (k : Nat) (g : SinkState → SinkState) : (d.setSink k g).mbox = d.mbox := rfl
@[simp] theorem Dev.setSink_mgmt (d : Dev) (k : Nat) (g : SinkState → SinkState) : (d.setSink k g).mgmt = d.mgmt := rfl
@[simp] theorem Dev.setSink_nv (d : Dev) (k : Nat) (g : SinkState → SinkState) : (d.setSink k g).nv = d.nv := rfl
@[simp] theorem Dev.setSink_boot (d : Dev) (k : Nat) (g : SinkState → SinkState) : (d.setSink k g).boot = d.boot := rfl
@[simp] theorem Dev.setSink_tap (d : Dev) (k : Nat) (g : SinkState → SinkState) : (d.setSink k g).tap = d.tap := rfl
@[simp] theorem Dev.setSink_flash (d : Dev) (k : Nat) (g : SinkState → SinkState) : (d.setSink k g).flash = d.flash := rfl
@[simp] theorem Dev.setSink_xspi (d : Dev) (k : Nat) (g : SinkState → SinkState) : (d.setSink k g).xspi = d.xspi := rfl
@[simp] theorem Dev.setSink_ticks (d : Dev) (k : Nat) (g : SinkState → SinkState) : (d.setSink k g).ticks = d.ticks := rfl
@[simp] theorem Dev.get_setSink (d : Dev) (k : Nat) (g : SinkState → SinkState) (f : Field) (i : Nat) : (d.setSink k g).get f i = d.get f i := rfl
@[simp] theorem Dev.rd_setSink (d : Dev) (k : Nat) (g : SinkState → SinkState) (r : Reg) (i : Nat) : (d.setSink k g).rd r i = d.rd r i := rfl
@[simp] theorem Dev.setBoost_free (d : Dev) (k : Nat) (g : BoostState → BoostState) : (d.setBoost k g).free = d.free := rfl
@[simp] theorem Dev.setBoost_log (d : Dev) (k : Nat) (g : BoostState → BoostState) : (d.setBoost k g).log = d.log := rfl
@[simp] theorem Dev.setBoost_held (d : Dev) (k : Nat) (g : BoostState → BoostState) : (d.setBoost k g).held = d.held := rfl
@[simp] theorem Dev.setBoost_pwr (d : Dev) (k : Nat) (g : BoostState → BoostState) : (d.setBoost k g).pwr = d.pwr := rfl
@[simp] theorem Dev.setBoost_cp (d : Dev) (k : Nat) (g : BoostState → BoostState) : (d.setBoost k g).cp = d.cp := rfl
@[simp] theorem Dev.setBoost_ls (d : Dev) (k : Nat) (g : BoostState → BoostState) : (d.setBoost k g).ls = d.ls := rfl
@[simp] theorem Dev.setBoost_gdma (d : Dev) (k : Nat) (g : BoostState → BoostState) : (d.setBoost k g).gdma = d.gdma := rfl
@[simp] theorem Dev.setBoost_dram (d : Dev) (k : Nat) (g : BoostState → BoostState) : (d.setBoost k g).dram = d.dram := rfl
@[simp] theorem Dev.setBoost_codec (d : Dev) (k : Nat) (g : BoostState → BoostState) : (d.setBoost k g).codec = d.codec := rfl
@[simp] theorem Dev.setBoost_retiring (d : Dev) (k : Nat) (g : BoostState → BoostState) : (d.setBoost k g).retiring = d.retiring := rfl
@[simp] theorem Dev.setBoost_scan (d : Dev) (k : Nat) (g : BoostState → BoostState) : (d.setBoost k g).scan = d.scan := rfl
@[simp] theorem Dev.setBoost_col (d : Dev) (k : Nat) (g : BoostState → BoostState) : (d.setBoost k g).col = d.col := rfl
@[simp] theorem Dev.setBoost_gate (d : Dev) (k : Nat) (g : BoostState → BoostState) : (d.setBoost k g).gate = d.gate := rfl
@[simp] theorem Dev.setBoost_pseq (d : Dev) (k : Nat) (g : BoostState → BoostState) : (d.setBoost k g).pseq = d.pseq := rfl
@[simp] theorem Dev.setBoost_sched (d : Dev) (k : Nat) (g : BoostState → BoostState) : (d.setBoost k g).sched = d.sched := rfl
@[simp] theorem Dev.setBoost_cal (d : Dev) (k : Nat) (g : BoostState → BoostState) : (d.setBoost k g).cal = d.cal := rfl
@[simp] theorem Dev.setBoost_rx (d : Dev) (k : Nat) (g : BoostState → BoostState) : (d.setBoost k g).rx = d.rx := rfl
@[simp] theorem Dev.setBoost_wall (d : Dev) (k : Nat) (g : BoostState → BoostState) : (d.setBoost k g).wall = d.wall := rfl
@[simp] theorem Dev.setBoost_mbox (d : Dev) (k : Nat) (g : BoostState → BoostState) : (d.setBoost k g).mbox = d.mbox := rfl
@[simp] theorem Dev.setBoost_mgmt (d : Dev) (k : Nat) (g : BoostState → BoostState) : (d.setBoost k g).mgmt = d.mgmt := rfl
@[simp] theorem Dev.setBoost_nv (d : Dev) (k : Nat) (g : BoostState → BoostState) : (d.setBoost k g).nv = d.nv := rfl
@[simp] theorem Dev.setBoost_boot (d : Dev) (k : Nat) (g : BoostState → BoostState) : (d.setBoost k g).boot = d.boot := rfl
@[simp] theorem Dev.setBoost_tap (d : Dev) (k : Nat) (g : BoostState → BoostState) : (d.setBoost k g).tap = d.tap := rfl
@[simp] theorem Dev.setBoost_flash (d : Dev) (k : Nat) (g : BoostState → BoostState) : (d.setBoost k g).flash = d.flash := rfl
@[simp] theorem Dev.setBoost_xspi (d : Dev) (k : Nat) (g : BoostState → BoostState) : (d.setBoost k g).xspi = d.xspi := rfl
@[simp] theorem Dev.setBoost_ticks (d : Dev) (k : Nat) (g : BoostState → BoostState) : (d.setBoost k g).ticks = d.ticks := rfl
@[simp] theorem Dev.get_setBoost (d : Dev) (k : Nat) (g : BoostState → BoostState) (f : Field) (i : Nat) : (d.setBoost k g).get f i = d.get f i := rfl
@[simp] theorem Dev.rd_setBoost (d : Dev) (k : Nat) (g : BoostState → BoostState) (r : Reg) (i : Nat) : (d.setBoost k g).rd r i = d.rd r i := rfl
@[simp] theorem Dev.setIc_free (d : Dev) (k : Nat) (g : IcState → IcState) : (d.setIc k g).free = d.free := rfl
@[simp] theorem Dev.setIc_log (d : Dev) (k : Nat) (g : IcState → IcState) : (d.setIc k g).log = d.log := rfl
@[simp] theorem Dev.setIc_held (d : Dev) (k : Nat) (g : IcState → IcState) : (d.setIc k g).held = d.held := rfl
@[simp] theorem Dev.setIc_pwr (d : Dev) (k : Nat) (g : IcState → IcState) : (d.setIc k g).pwr = d.pwr := rfl
@[simp] theorem Dev.setIc_cp (d : Dev) (k : Nat) (g : IcState → IcState) : (d.setIc k g).cp = d.cp := rfl
@[simp] theorem Dev.setIc_ls (d : Dev) (k : Nat) (g : IcState → IcState) : (d.setIc k g).ls = d.ls := rfl
@[simp] theorem Dev.setIc_gdma (d : Dev) (k : Nat) (g : IcState → IcState) : (d.setIc k g).gdma = d.gdma := rfl
@[simp] theorem Dev.setIc_dram (d : Dev) (k : Nat) (g : IcState → IcState) : (d.setIc k g).dram = d.dram := rfl
@[simp] theorem Dev.setIc_codec (d : Dev) (k : Nat) (g : IcState → IcState) : (d.setIc k g).codec = d.codec := rfl
@[simp] theorem Dev.setIc_retiring (d : Dev) (k : Nat) (g : IcState → IcState) : (d.setIc k g).retiring = d.retiring := rfl
@[simp] theorem Dev.setIc_scan (d : Dev) (k : Nat) (g : IcState → IcState) : (d.setIc k g).scan = d.scan := rfl
@[simp] theorem Dev.setIc_col (d : Dev) (k : Nat) (g : IcState → IcState) : (d.setIc k g).col = d.col := rfl
@[simp] theorem Dev.setIc_gate (d : Dev) (k : Nat) (g : IcState → IcState) : (d.setIc k g).gate = d.gate := rfl
@[simp] theorem Dev.setIc_pseq (d : Dev) (k : Nat) (g : IcState → IcState) : (d.setIc k g).pseq = d.pseq := rfl
@[simp] theorem Dev.setIc_sched (d : Dev) (k : Nat) (g : IcState → IcState) : (d.setIc k g).sched = d.sched := rfl
@[simp] theorem Dev.setIc_cal (d : Dev) (k : Nat) (g : IcState → IcState) : (d.setIc k g).cal = d.cal := rfl
@[simp] theorem Dev.setIc_rx (d : Dev) (k : Nat) (g : IcState → IcState) : (d.setIc k g).rx = d.rx := rfl
@[simp] theorem Dev.setIc_wall (d : Dev) (k : Nat) (g : IcState → IcState) : (d.setIc k g).wall = d.wall := rfl
@[simp] theorem Dev.setIc_mbox (d : Dev) (k : Nat) (g : IcState → IcState) : (d.setIc k g).mbox = d.mbox := rfl
@[simp] theorem Dev.setIc_mgmt (d : Dev) (k : Nat) (g : IcState → IcState) : (d.setIc k g).mgmt = d.mgmt := rfl
@[simp] theorem Dev.setIc_nv (d : Dev) (k : Nat) (g : IcState → IcState) : (d.setIc k g).nv = d.nv := rfl
@[simp] theorem Dev.setIc_boot (d : Dev) (k : Nat) (g : IcState → IcState) : (d.setIc k g).boot = d.boot := rfl
@[simp] theorem Dev.setIc_tap (d : Dev) (k : Nat) (g : IcState → IcState) : (d.setIc k g).tap = d.tap := rfl
@[simp] theorem Dev.setIc_flash (d : Dev) (k : Nat) (g : IcState → IcState) : (d.setIc k g).flash = d.flash := rfl
@[simp] theorem Dev.setIc_xspi (d : Dev) (k : Nat) (g : IcState → IcState) : (d.setIc k g).xspi = d.xspi := rfl
@[simp] theorem Dev.setIc_ticks (d : Dev) (k : Nat) (g : IcState → IcState) : (d.setIc k g).ticks = d.ticks := rfl
@[simp] theorem Dev.get_setIc (d : Dev) (k : Nat) (g : IcState → IcState) (f : Field) (i : Nat) : (d.setIc k g).get f i = d.get f i := rfl
@[simp] theorem Dev.rd_setIc (d : Dev) (k : Nat) (g : IcState → IcState) (r : Reg) (i : Nat) : (d.setIc k g).rd r i = d.rd r i := rfl
@[simp] theorem Dev.setGainCal_free (d : Dev) (k : Nat) (g : GainCal → GainCal) : (d.setGainCal k g).free = d.free := rfl
@[simp] theorem Dev.setGainCal_log (d : Dev) (k : Nat) (g : GainCal → GainCal) : (d.setGainCal k g).log = d.log := rfl
@[simp] theorem Dev.setGainCal_held (d : Dev) (k : Nat) (g : GainCal → GainCal) : (d.setGainCal k g).held = d.held := rfl
@[simp] theorem Dev.setGainCal_pwr (d : Dev) (k : Nat) (g : GainCal → GainCal) : (d.setGainCal k g).pwr = d.pwr := rfl
@[simp] theorem Dev.setGainCal_cp (d : Dev) (k : Nat) (g : GainCal → GainCal) : (d.setGainCal k g).cp = d.cp := rfl
@[simp] theorem Dev.setGainCal_ls (d : Dev) (k : Nat) (g : GainCal → GainCal) : (d.setGainCal k g).ls = d.ls := rfl
@[simp] theorem Dev.setGainCal_gdma (d : Dev) (k : Nat) (g : GainCal → GainCal) : (d.setGainCal k g).gdma = d.gdma := rfl
@[simp] theorem Dev.setGainCal_dram (d : Dev) (k : Nat) (g : GainCal → GainCal) : (d.setGainCal k g).dram = d.dram := rfl
@[simp] theorem Dev.setGainCal_codec (d : Dev) (k : Nat) (g : GainCal → GainCal) : (d.setGainCal k g).codec = d.codec := rfl
@[simp] theorem Dev.setGainCal_retiring (d : Dev) (k : Nat) (g : GainCal → GainCal) : (d.setGainCal k g).retiring = d.retiring := rfl
@[simp] theorem Dev.setGainCal_scan (d : Dev) (k : Nat) (g : GainCal → GainCal) : (d.setGainCal k g).scan = d.scan := rfl
@[simp] theorem Dev.setGainCal_col (d : Dev) (k : Nat) (g : GainCal → GainCal) : (d.setGainCal k g).col = d.col := rfl
@[simp] theorem Dev.setGainCal_gate (d : Dev) (k : Nat) (g : GainCal → GainCal) : (d.setGainCal k g).gate = d.gate := rfl
@[simp] theorem Dev.setGainCal_pseq (d : Dev) (k : Nat) (g : GainCal → GainCal) : (d.setGainCal k g).pseq = d.pseq := rfl
@[simp] theorem Dev.setGainCal_sched (d : Dev) (k : Nat) (g : GainCal → GainCal) : (d.setGainCal k g).sched = d.sched := rfl
@[simp] theorem Dev.setGainCal_bl (d : Dev) (k : Nat) (g : GainCal → GainCal) : (d.setGainCal k g).bl = d.bl := rfl
@[simp] theorem Dev.setGainCal_rx (d : Dev) (k : Nat) (g : GainCal → GainCal) : (d.setGainCal k g).rx = d.rx := rfl
@[simp] theorem Dev.setGainCal_wall (d : Dev) (k : Nat) (g : GainCal → GainCal) : (d.setGainCal k g).wall = d.wall := rfl
@[simp] theorem Dev.setGainCal_mbox (d : Dev) (k : Nat) (g : GainCal → GainCal) : (d.setGainCal k g).mbox = d.mbox := rfl
@[simp] theorem Dev.setGainCal_mgmt (d : Dev) (k : Nat) (g : GainCal → GainCal) : (d.setGainCal k g).mgmt = d.mgmt := rfl
@[simp] theorem Dev.setGainCal_nv (d : Dev) (k : Nat) (g : GainCal → GainCal) : (d.setGainCal k g).nv = d.nv := rfl
@[simp] theorem Dev.setGainCal_boot (d : Dev) (k : Nat) (g : GainCal → GainCal) : (d.setGainCal k g).boot = d.boot := rfl
@[simp] theorem Dev.setGainCal_tap (d : Dev) (k : Nat) (g : GainCal → GainCal) : (d.setGainCal k g).tap = d.tap := rfl
@[simp] theorem Dev.setGainCal_flash (d : Dev) (k : Nat) (g : GainCal → GainCal) : (d.setGainCal k g).flash = d.flash := rfl
@[simp] theorem Dev.setGainCal_xspi (d : Dev) (k : Nat) (g : GainCal → GainCal) : (d.setGainCal k g).xspi = d.xspi := rfl
@[simp] theorem Dev.setGainCal_ticks (d : Dev) (k : Nat) (g : GainCal → GainCal) : (d.setGainCal k g).ticks = d.ticks := rfl
@[simp] theorem Dev.get_setGainCal (d : Dev) (k : Nat) (g : GainCal → GainCal) (f : Field) (i : Nat) : (d.setGainCal k g).get f i = d.get f i := rfl
@[simp] theorem Dev.rd_setGainCal (d : Dev) (k : Nat) (g : GainCal → GainCal) (r : Reg) (i : Nat) : (d.setGainCal k g).rd r i = d.rd r i := rfl
@[simp] theorem Dev.setCtx_free (d : Dev) (c : Nat) (x : Option StreamCtx) : (d.setCtx c x).free = d.free := rfl
@[simp] theorem Dev.setCtx_log (d : Dev) (c : Nat) (x : Option StreamCtx) : (d.setCtx c x).log = d.log := rfl
@[simp] theorem Dev.setCtx_held (d : Dev) (c : Nat) (x : Option StreamCtx) : (d.setCtx c x).held = d.held := rfl
@[simp] theorem Dev.setCtx_pwr (d : Dev) (c : Nat) (x : Option StreamCtx) : (d.setCtx c x).pwr = d.pwr := rfl
@[simp] theorem Dev.setCtx_cp (d : Dev) (c : Nat) (x : Option StreamCtx) : (d.setCtx c x).cp = d.cp := rfl
@[simp] theorem Dev.setCtx_ls (d : Dev) (c : Nat) (x : Option StreamCtx) : (d.setCtx c x).ls = d.ls := rfl
@[simp] theorem Dev.setCtx_gdma (d : Dev) (c : Nat) (x : Option StreamCtx) : (d.setCtx c x).gdma = d.gdma := rfl
@[simp] theorem Dev.setCtx_dram (d : Dev) (c : Nat) (x : Option StreamCtx) : (d.setCtx c x).dram = d.dram := rfl
@[simp] theorem Dev.setCtx_retiring (d : Dev) (c : Nat) (x : Option StreamCtx) : (d.setCtx c x).retiring = d.retiring := rfl
@[simp] theorem Dev.setCtx_scan (d : Dev) (c : Nat) (x : Option StreamCtx) : (d.setCtx c x).scan = d.scan := rfl
@[simp] theorem Dev.setCtx_col (d : Dev) (c : Nat) (x : Option StreamCtx) : (d.setCtx c x).col = d.col := rfl
@[simp] theorem Dev.setCtx_gate (d : Dev) (c : Nat) (x : Option StreamCtx) : (d.setCtx c x).gate = d.gate := rfl
@[simp] theorem Dev.setCtx_pseq (d : Dev) (c : Nat) (x : Option StreamCtx) : (d.setCtx c x).pseq = d.pseq := rfl
@[simp] theorem Dev.setCtx_sched (d : Dev) (c : Nat) (x : Option StreamCtx) : (d.setCtx c x).sched = d.sched := rfl
@[simp] theorem Dev.setCtx_bl (d : Dev) (c : Nat) (x : Option StreamCtx) : (d.setCtx c x).bl = d.bl := rfl
@[simp] theorem Dev.setCtx_cal (d : Dev) (c : Nat) (x : Option StreamCtx) : (d.setCtx c x).cal = d.cal := rfl
@[simp] theorem Dev.setCtx_rx (d : Dev) (c : Nat) (x : Option StreamCtx) : (d.setCtx c x).rx = d.rx := rfl
@[simp] theorem Dev.setCtx_wall (d : Dev) (c : Nat) (x : Option StreamCtx) : (d.setCtx c x).wall = d.wall := rfl
@[simp] theorem Dev.setCtx_mbox (d : Dev) (c : Nat) (x : Option StreamCtx) : (d.setCtx c x).mbox = d.mbox := rfl
@[simp] theorem Dev.setCtx_mgmt (d : Dev) (c : Nat) (x : Option StreamCtx) : (d.setCtx c x).mgmt = d.mgmt := rfl
@[simp] theorem Dev.setCtx_nv (d : Dev) (c : Nat) (x : Option StreamCtx) : (d.setCtx c x).nv = d.nv := rfl
@[simp] theorem Dev.setCtx_boot (d : Dev) (c : Nat) (x : Option StreamCtx) : (d.setCtx c x).boot = d.boot := rfl
@[simp] theorem Dev.setCtx_tap (d : Dev) (c : Nat) (x : Option StreamCtx) : (d.setCtx c x).tap = d.tap := rfl
@[simp] theorem Dev.setCtx_flash (d : Dev) (c : Nat) (x : Option StreamCtx) : (d.setCtx c x).flash = d.flash := rfl
@[simp] theorem Dev.setCtx_xspi (d : Dev) (c : Nat) (x : Option StreamCtx) : (d.setCtx c x).xspi = d.xspi := rfl
@[simp] theorem Dev.setCtx_ticks (d : Dev) (c : Nat) (x : Option StreamCtx) : (d.setCtx c x).ticks = d.ticks := rfl
@[simp] theorem Dev.get_setCtx (d : Dev) (c : Nat) (x : Option StreamCtx) (f : Field) (i : Nat) : (d.setCtx c x).get f i = d.get f i := rfl
@[simp] theorem Dev.rd_setCtx (d : Dev) (c : Nat) (x : Option StreamCtx) (r : Reg) (i : Nat) : (d.setCtx c x).rd r i = d.rd r i := rfl
@[simp] theorem Dev.setChQueue_free (d : Dev) (c : Nat) (q : List DramReq) : (d.setChQueue c q).free = d.free := rfl
@[simp] theorem Dev.setChQueue_log (d : Dev) (c : Nat) (q : List DramReq) : (d.setChQueue c q).log = d.log := rfl
@[simp] theorem Dev.setChQueue_held (d : Dev) (c : Nat) (q : List DramReq) : (d.setChQueue c q).held = d.held := rfl
@[simp] theorem Dev.setChQueue_pwr (d : Dev) (c : Nat) (q : List DramReq) : (d.setChQueue c q).pwr = d.pwr := rfl
@[simp] theorem Dev.setChQueue_cp (d : Dev) (c : Nat) (q : List DramReq) : (d.setChQueue c q).cp = d.cp := rfl
@[simp] theorem Dev.setChQueue_ls (d : Dev) (c : Nat) (q : List DramReq) : (d.setChQueue c q).ls = d.ls := rfl
@[simp] theorem Dev.setChQueue_gdma (d : Dev) (c : Nat) (q : List DramReq) : (d.setChQueue c q).gdma = d.gdma := rfl
@[simp] theorem Dev.setChQueue_codec (d : Dev) (c : Nat) (q : List DramReq) : (d.setChQueue c q).codec = d.codec := rfl
@[simp] theorem Dev.setChQueue_retiring (d : Dev) (c : Nat) (q : List DramReq) : (d.setChQueue c q).retiring = d.retiring := rfl
@[simp] theorem Dev.setChQueue_scan (d : Dev) (c : Nat) (q : List DramReq) : (d.setChQueue c q).scan = d.scan := rfl
@[simp] theorem Dev.setChQueue_col (d : Dev) (c : Nat) (q : List DramReq) : (d.setChQueue c q).col = d.col := rfl
@[simp] theorem Dev.setChQueue_gate (d : Dev) (c : Nat) (q : List DramReq) : (d.setChQueue c q).gate = d.gate := rfl
@[simp] theorem Dev.setChQueue_pseq (d : Dev) (c : Nat) (q : List DramReq) : (d.setChQueue c q).pseq = d.pseq := rfl
@[simp] theorem Dev.setChQueue_sched (d : Dev) (c : Nat) (q : List DramReq) : (d.setChQueue c q).sched = d.sched := rfl
@[simp] theorem Dev.setChQueue_bl (d : Dev) (c : Nat) (q : List DramReq) : (d.setChQueue c q).bl = d.bl := rfl
@[simp] theorem Dev.setChQueue_cal (d : Dev) (c : Nat) (q : List DramReq) : (d.setChQueue c q).cal = d.cal := rfl
@[simp] theorem Dev.setChQueue_rx (d : Dev) (c : Nat) (q : List DramReq) : (d.setChQueue c q).rx = d.rx := rfl
@[simp] theorem Dev.setChQueue_wall (d : Dev) (c : Nat) (q : List DramReq) : (d.setChQueue c q).wall = d.wall := rfl
@[simp] theorem Dev.setChQueue_mbox (d : Dev) (c : Nat) (q : List DramReq) : (d.setChQueue c q).mbox = d.mbox := rfl
@[simp] theorem Dev.setChQueue_mgmt (d : Dev) (c : Nat) (q : List DramReq) : (d.setChQueue c q).mgmt = d.mgmt := rfl
@[simp] theorem Dev.setChQueue_nv (d : Dev) (c : Nat) (q : List DramReq) : (d.setChQueue c q).nv = d.nv := rfl
@[simp] theorem Dev.setChQueue_boot (d : Dev) (c : Nat) (q : List DramReq) : (d.setChQueue c q).boot = d.boot := rfl
@[simp] theorem Dev.setChQueue_tap (d : Dev) (c : Nat) (q : List DramReq) : (d.setChQueue c q).tap = d.tap := rfl
@[simp] theorem Dev.setChQueue_flash (d : Dev) (c : Nat) (q : List DramReq) : (d.setChQueue c q).flash = d.flash := rfl
@[simp] theorem Dev.setChQueue_xspi (d : Dev) (c : Nat) (q : List DramReq) : (d.setChQueue c q).xspi = d.xspi := rfl
@[simp] theorem Dev.setChQueue_ticks (d : Dev) (c : Nat) (q : List DramReq) : (d.setChQueue c q).ticks = d.ticks := rfl
@[simp] theorem Dev.get_setChQueue (d : Dev) (c : Nat) (q : List DramReq) (f : Field) (i : Nat) : (d.setChQueue c q).get f i = d.get f i := rfl
@[simp] theorem Dev.rd_setChQueue (d : Dev) (c : Nat) (q : List DramReq) (r : Reg) (i : Nat) : (d.setChQueue c q).rd r i = d.rd r i := rfl
@[simp] theorem Dev.setPort_free (d : Dev) (p : Nat) (g : PortState → PortState) : (d.setPort p g).free = d.free := by unfold Dev.setPort; split <;> rfl
@[simp] theorem Dev.setPort_log (d : Dev) (p : Nat) (g : PortState → PortState) : (d.setPort p g).log = d.log := by unfold Dev.setPort; split <;> rfl
@[simp] theorem Dev.setPort_held (d : Dev) (p : Nat) (g : PortState → PortState) : (d.setPort p g).held = d.held := by unfold Dev.setPort; split <;> rfl
@[simp] theorem Dev.setPort_pwr (d : Dev) (p : Nat) (g : PortState → PortState) : (d.setPort p g).pwr = d.pwr := by unfold Dev.setPort; split <;> rfl
@[simp] theorem Dev.setPort_cp (d : Dev) (p : Nat) (g : PortState → PortState) : (d.setPort p g).cp = d.cp := by unfold Dev.setPort; split <;> rfl
@[simp] theorem Dev.setPort_ls (d : Dev) (p : Nat) (g : PortState → PortState) : (d.setPort p g).ls = d.ls := by unfold Dev.setPort; split <;> rfl
@[simp] theorem Dev.setPort_gdma (d : Dev) (p : Nat) (g : PortState → PortState) : (d.setPort p g).gdma = d.gdma := by unfold Dev.setPort; split <;> rfl
@[simp] theorem Dev.setPort_dram (d : Dev) (p : Nat) (g : PortState → PortState) : (d.setPort p g).dram = d.dram := by unfold Dev.setPort; split <;> rfl
@[simp] theorem Dev.setPort_codec (d : Dev) (p : Nat) (g : PortState → PortState) : (d.setPort p g).codec = d.codec := by unfold Dev.setPort; split <;> rfl
@[simp] theorem Dev.setPort_retiring (d : Dev) (p : Nat) (g : PortState → PortState) : (d.setPort p g).retiring = d.retiring := by unfold Dev.setPort; split <;> rfl
@[simp] theorem Dev.setPort_scan (d : Dev) (p : Nat) (g : PortState → PortState) : (d.setPort p g).scan = d.scan := by unfold Dev.setPort; split <;> rfl
@[simp] theorem Dev.setPort_col (d : Dev) (p : Nat) (g : PortState → PortState) : (d.setPort p g).col = d.col := by unfold Dev.setPort; split <;> rfl
@[simp] theorem Dev.setPort_gate (d : Dev) (p : Nat) (g : PortState → PortState) : (d.setPort p g).gate = d.gate := by unfold Dev.setPort; split <;> rfl
@[simp] theorem Dev.setPort_pseq (d : Dev) (p : Nat) (g : PortState → PortState) : (d.setPort p g).pseq = d.pseq := by unfold Dev.setPort; split <;> rfl
@[simp] theorem Dev.setPort_sched (d : Dev) (p : Nat) (g : PortState → PortState) : (d.setPort p g).sched = d.sched := by unfold Dev.setPort; split <;> rfl
@[simp] theorem Dev.setPort_bl (d : Dev) (p : Nat) (g : PortState → PortState) : (d.setPort p g).bl = d.bl := by unfold Dev.setPort; split <;> rfl
@[simp] theorem Dev.setPort_cal (d : Dev) (p : Nat) (g : PortState → PortState) : (d.setPort p g).cal = d.cal := by unfold Dev.setPort; split <;> rfl
@[simp] theorem Dev.setPort_wall (d : Dev) (p : Nat) (g : PortState → PortState) : (d.setPort p g).wall = d.wall := by unfold Dev.setPort; split <;> rfl
@[simp] theorem Dev.setPort_mbox (d : Dev) (p : Nat) (g : PortState → PortState) : (d.setPort p g).mbox = d.mbox := by unfold Dev.setPort; split <;> rfl
@[simp] theorem Dev.setPort_mgmt (d : Dev) (p : Nat) (g : PortState → PortState) : (d.setPort p g).mgmt = d.mgmt := by unfold Dev.setPort; split <;> rfl
@[simp] theorem Dev.setPort_nv (d : Dev) (p : Nat) (g : PortState → PortState) : (d.setPort p g).nv = d.nv := by unfold Dev.setPort; split <;> rfl
@[simp] theorem Dev.setPort_boot (d : Dev) (p : Nat) (g : PortState → PortState) : (d.setPort p g).boot = d.boot := by unfold Dev.setPort; split <;> rfl
@[simp] theorem Dev.setPort_tap (d : Dev) (p : Nat) (g : PortState → PortState) : (d.setPort p g).tap = d.tap := by unfold Dev.setPort; split <;> rfl
@[simp] theorem Dev.setPort_flash (d : Dev) (p : Nat) (g : PortState → PortState) : (d.setPort p g).flash = d.flash := by unfold Dev.setPort; split <;> rfl
@[simp] theorem Dev.setPort_xspi (d : Dev) (p : Nat) (g : PortState → PortState) : (d.setPort p g).xspi = d.xspi := by unfold Dev.setPort; split <;> rfl
@[simp] theorem Dev.setPort_ticks (d : Dev) (p : Nat) (g : PortState → PortState) : (d.setPort p g).ticks = d.ticks := by unfold Dev.setPort; split <;> rfl
@[simp] theorem Dev.get_setPort (d : Dev) (p : Nat) (g : PortState → PortState) (f : Field) (i : Nat) : (d.setPort p g).get f i = d.get f i := by unfold Dev.setPort; split <;> rfl
@[simp] theorem Dev.rd_setPort (d : Dev) (p : Nat) (g : PortState → PortState) (r : Reg) (i : Nat) : (d.setPort p g).rd r i = d.rd r i := by unfold Dev.setPort; split <;> rfl
@[simp] theorem Dev.setDaleHart_free (d : Dev) (k : Nat) (h : Hart) : (d.setDaleHart k h).free = d.free := rfl
@[simp] theorem Dev.setDaleHart_log (d : Dev) (k : Nat) (h : Hart) : (d.setDaleHart k h).log = d.log := rfl
@[simp] theorem Dev.setDaleHart_held (d : Dev) (k : Nat) (h : Hart) : (d.setDaleHart k h).held = d.held := rfl
@[simp] theorem Dev.setDaleHart_pwr (d : Dev) (k : Nat) (h : Hart) : (d.setDaleHart k h).pwr = d.pwr := rfl
@[simp] theorem Dev.setDaleHart_cp (d : Dev) (k : Nat) (h : Hart) : (d.setDaleHart k h).cp = d.cp := rfl
@[simp] theorem Dev.setDaleHart_ls (d : Dev) (k : Nat) (h : Hart) : (d.setDaleHart k h).ls = d.ls := rfl
@[simp] theorem Dev.setDaleHart_gdma (d : Dev) (k : Nat) (h : Hart) : (d.setDaleHart k h).gdma = d.gdma := rfl
@[simp] theorem Dev.setDaleHart_dram (d : Dev) (k : Nat) (h : Hart) : (d.setDaleHart k h).dram = d.dram := rfl
@[simp] theorem Dev.setDaleHart_codec (d : Dev) (k : Nat) (h : Hart) : (d.setDaleHart k h).codec = d.codec := rfl
@[simp] theorem Dev.setDaleHart_retiring (d : Dev) (k : Nat) (h : Hart) : (d.setDaleHart k h).retiring = d.retiring := rfl
@[simp] theorem Dev.setDaleHart_scan (d : Dev) (k : Nat) (h : Hart) : (d.setDaleHart k h).scan = d.scan := rfl
@[simp] theorem Dev.setDaleHart_col (d : Dev) (k : Nat) (h : Hart) : (d.setDaleHart k h).col = d.col := rfl
@[simp] theorem Dev.setDaleHart_gate (d : Dev) (k : Nat) (h : Hart) : (d.setDaleHart k h).gate = d.gate := rfl
@[simp] theorem Dev.setDaleHart_pseq (d : Dev) (k : Nat) (h : Hart) : (d.setDaleHart k h).pseq = d.pseq := rfl
@[simp] theorem Dev.setDaleHart_bl (d : Dev) (k : Nat) (h : Hart) : (d.setDaleHart k h).bl = d.bl := rfl
@[simp] theorem Dev.setDaleHart_cal (d : Dev) (k : Nat) (h : Hart) : (d.setDaleHart k h).cal = d.cal := rfl
@[simp] theorem Dev.setDaleHart_rx (d : Dev) (k : Nat) (h : Hart) : (d.setDaleHart k h).rx = d.rx := rfl
@[simp] theorem Dev.setDaleHart_wall (d : Dev) (k : Nat) (h : Hart) : (d.setDaleHart k h).wall = d.wall := rfl
@[simp] theorem Dev.setDaleHart_mbox (d : Dev) (k : Nat) (h : Hart) : (d.setDaleHart k h).mbox = d.mbox := rfl
@[simp] theorem Dev.setDaleHart_mgmt (d : Dev) (k : Nat) (h : Hart) : (d.setDaleHart k h).mgmt = d.mgmt := rfl
@[simp] theorem Dev.setDaleHart_nv (d : Dev) (k : Nat) (h : Hart) : (d.setDaleHart k h).nv = d.nv := rfl
@[simp] theorem Dev.setDaleHart_boot (d : Dev) (k : Nat) (h : Hart) : (d.setDaleHart k h).boot = d.boot := rfl
@[simp] theorem Dev.setDaleHart_tap (d : Dev) (k : Nat) (h : Hart) : (d.setDaleHart k h).tap = d.tap := rfl
@[simp] theorem Dev.setDaleHart_flash (d : Dev) (k : Nat) (h : Hart) : (d.setDaleHart k h).flash = d.flash := rfl
@[simp] theorem Dev.setDaleHart_xspi (d : Dev) (k : Nat) (h : Hart) : (d.setDaleHart k h).xspi = d.xspi := rfl
@[simp] theorem Dev.setDaleHart_ticks (d : Dev) (k : Nat) (h : Hart) : (d.setDaleHart k h).ticks = d.ticks := rfl
@[simp] theorem Dev.get_setDaleHart (d : Dev) (k : Nat) (h : Hart) (f : Field) (i : Nat) : (d.setDaleHart k h).get f i = d.get f i := rfl
@[simp] theorem Dev.rd_setDaleHart (d : Dev) (k : Nat) (h : Hart) (r : Reg) (i : Nat) : (d.setDaleHart k h).rd r i = d.rd r i := rfl
@[simp] theorem Dev.setCpHart_free (d : Dev) (h : Hart) : (d.setCpHart h).free = d.free := rfl
@[simp] theorem Dev.setCpHart_log (d : Dev) (h : Hart) : (d.setCpHart h).log = d.log := rfl
@[simp] theorem Dev.setCpHart_held (d : Dev) (h : Hart) : (d.setCpHart h).held = d.held := rfl
@[simp] theorem Dev.setCpHart_pwr (d : Dev) (h : Hart) : (d.setCpHart h).pwr = d.pwr := rfl
@[simp] theorem Dev.setCpHart_ls (d : Dev) (h : Hart) : (d.setCpHart h).ls = d.ls := rfl
@[simp] theorem Dev.setCpHart_gdma (d : Dev) (h : Hart) : (d.setCpHart h).gdma = d.gdma := rfl
@[simp] theorem Dev.setCpHart_dram (d : Dev) (h : Hart) : (d.setCpHart h).dram = d.dram := rfl
@[simp] theorem Dev.setCpHart_codec (d : Dev) (h : Hart) : (d.setCpHart h).codec = d.codec := rfl
@[simp] theorem Dev.setCpHart_retiring (d : Dev) (h : Hart) : (d.setCpHart h).retiring = d.retiring := rfl
@[simp] theorem Dev.setCpHart_scan (d : Dev) (h : Hart) : (d.setCpHart h).scan = d.scan := rfl
@[simp] theorem Dev.setCpHart_col (d : Dev) (h : Hart) : (d.setCpHart h).col = d.col := rfl
@[simp] theorem Dev.setCpHart_gate (d : Dev) (h : Hart) : (d.setCpHart h).gate = d.gate := rfl
@[simp] theorem Dev.setCpHart_pseq (d : Dev) (h : Hart) : (d.setCpHart h).pseq = d.pseq := rfl
@[simp] theorem Dev.setCpHart_sched (d : Dev) (h : Hart) : (d.setCpHart h).sched = d.sched := rfl
@[simp] theorem Dev.setCpHart_bl (d : Dev) (h : Hart) : (d.setCpHart h).bl = d.bl := rfl
@[simp] theorem Dev.setCpHart_cal (d : Dev) (h : Hart) : (d.setCpHart h).cal = d.cal := rfl
@[simp] theorem Dev.setCpHart_rx (d : Dev) (h : Hart) : (d.setCpHart h).rx = d.rx := rfl
@[simp] theorem Dev.setCpHart_wall (d : Dev) (h : Hart) : (d.setCpHart h).wall = d.wall := rfl
@[simp] theorem Dev.setCpHart_mbox (d : Dev) (h : Hart) : (d.setCpHart h).mbox = d.mbox := rfl
@[simp] theorem Dev.setCpHart_mgmt (d : Dev) (h : Hart) : (d.setCpHart h).mgmt = d.mgmt := rfl
@[simp] theorem Dev.setCpHart_nv (d : Dev) (h : Hart) : (d.setCpHart h).nv = d.nv := rfl
@[simp] theorem Dev.setCpHart_boot (d : Dev) (h : Hart) : (d.setCpHart h).boot = d.boot := rfl
@[simp] theorem Dev.setCpHart_tap (d : Dev) (h : Hart) : (d.setCpHart h).tap = d.tap := rfl
@[simp] theorem Dev.setCpHart_flash (d : Dev) (h : Hart) : (d.setCpHart h).flash = d.flash := rfl
@[simp] theorem Dev.setCpHart_xspi (d : Dev) (h : Hart) : (d.setCpHart h).xspi = d.xspi := rfl
@[simp] theorem Dev.setCpHart_ticks (d : Dev) (h : Hart) : (d.setCpHart h).ticks = d.ticks := rfl
@[simp] theorem Dev.get_setCpHart (d : Dev) (h : Hart) (f : Field) (i : Nat) : (d.setCpHart h).get f i = d.get f i := rfl
@[simp] theorem Dev.rd_setCpHart (d : Dev) (h : Hart) (r : Reg) (i : Nat) : (d.setCpHart h).rd r i = d.rd r i := rfl

end Sys2Proof.Machine
end

