-- ==== Sys2Proof/Laws/Memory.lean ====
section
/-! SUPPORT.  Memory: the canonical form is kept by every memory operation, and a byte written reads back. -/

set_option Elab.async false

namespace Sys2Proof.Machine

/-- The canonical form, said with the library's predicates. -/
theorem Memory.wf_iff (m : Memory) :
    Memory.wf m = true ↔ List.Pairwise (fun c e => c.1 < e.1) m ∧ ∀ c ∈ m, c.2 ≠ 0 := by
  induction m with
  | nil => simp [Memory.wf]
  | cons p m ih =>
    obtain ⟨a, v⟩ := p
    cases m with
    | nil => simp [Memory.wf]
    | cons q m =>
      obtain ⟨b, w⟩ := q
      simp only [Memory.wf, Bool.and_eq_true, bne_iff_ne, decide_eq_true_eq, ih]
      constructor
      · rintro ⟨⟨h1, h2⟩, h3, h4⟩
        refine ⟨List.pairwise_cons.2 ⟨?_, h3⟩, ?_⟩
        · intro c hc
          rcases List.mem_cons.1 hc with rfl | hc
          · exact h2
          · exact Nat.lt_trans h2 ((List.pairwise_cons.1 h3).1 c hc)
        · intro c hc
          rcases List.mem_cons.1 hc with rfl | hc
          · exact h1
          · exact h4 c hc
      · rintro ⟨h1, h2⟩
        obtain ⟨h3, h4⟩ := List.pairwise_cons.1 h1
        exact ⟨⟨h2 _ List.mem_cons_self, h3 _ List.mem_cons_self⟩, h4, fun c hc => h2 c (List.mem_cons_of_mem _ hc)⟩

@[simp] theorem Memory.wf_nil : Memory.wf [] = true := rfl

theorem Memory.wf_filter {m : Memory} (p : Host.Cell → Bool) (h : m.wf = true) : Memory.wf (m.filter p) = true := by
  rw [Memory.wf_iff] at *
  exact ⟨h.1.filter p, fun c hc => h.2 c (List.mem_filter.1 hc).1⟩

theorem Memory.mem_insert {m : Memory} {a : Nat} {v : Byte} {c : Host.Cell} (h : c ∈ Memory.insert m a v) :
    c = (a, v) ∨ c ∈ m := by
  induction m with
  | nil => simpa [Memory.insert] using h
  | cons p m ih =>
    obtain ⟨b, w⟩ := p
    simp only [Memory.insert] at h
    split at h
    · simpa using h
    · split at h
      · rcases List.mem_cons.1 h with h | h
        · exact .inl h
        · exact .inr (List.mem_cons_of_mem _ h)
      · rcases List.mem_cons.1 h with h | h
        · exact .inr (h ▸ List.mem_cons_self)
        · exact (ih h).imp id (List.mem_cons_of_mem _)

theorem Memory.wf_insert {m : Memory} (a : Nat) {v : Byte} (hv : v ≠ 0) (h : m.wf = true) :
    Memory.wf (Memory.insert m a v) = true := by
  rw [Memory.wf_iff] at *
  refine ⟨?_, fun c hc => (Memory.mem_insert hc).elim (fun e => e ▸ hv) (h.2 c)⟩
  have h1 := h.1
  clear h
  induction m with
  | nil => simp [Memory.insert]
  | cons p m ih =>
    obtain ⟨b, w⟩ := p
    obtain ⟨h3, h4⟩ := List.pairwise_cons.1 h1
    simp only [Memory.insert]
    split
    · rename_i hl
      refine List.pairwise_cons.2 ⟨fun c hc => ?_, h1⟩
      rcases List.mem_cons.1 hc with rfl | hc
      · exact hl
      · exact Nat.lt_trans hl (h3 c hc)
    · split
      · rename_i e; subst e
        exact List.pairwise_cons.2 ⟨h3, h4⟩
      · refine List.pairwise_cons.2 ⟨fun c hc => ?_, ih h4⟩
        rcases Memory.mem_insert hc with rfl | hc
        · simp only; omega
        · exact h3 c hc

/-- Writing one byte keeps the canonical form. -/
@[simp] theorem Memory.wf_set {m : Memory} (a : Nat) (v : Byte) (h : m.wf = true) : Memory.wf (m.set a v) = true := by
  unfold Memory.set
  split
  · exact Memory.wf_filter _ h
  · exact Memory.wf_insert a ‹_› h

/-- Writing bytes keeps the canonical form. -/
@[simp] theorem Memory.wf_write {m : Memory} (a : Nat) (bs : List Byte) (h : m.wf = true) :
    Memory.wf (m.write a bs) = true := by
  induction bs generalizing m a with
  | nil => exact h
  | cons b bs ih => exact ih _ (Memory.wf_set a b h)

/-- Clearing a range keeps the canonical form. -/
@[simp] theorem Memory.wf_clear {m : Memory} (a n : Nat) (h : m.wf = true) : Memory.wf (m.clear a n) = true :=
  Memory.wf_filter _ h

theorem Memory.get_insert (m : Memory) (a b : Nat) (v : Byte) :
    Memory.get (Memory.insert m a v) b = if b = a then v else Memory.get m b := by
  induction m with
  | nil => simp only [Memory.insert, Memory.get, eq_comm]
  | cons p m ih =>
    obtain ⟨c, w⟩ := p
    simp only [Memory.insert]
    split
    · simp only [Memory.get, eq_comm]
    · split
      · rename_i e
        rw [← e]
        simp only [Memory.get]
        by_cases h : b = c
        · simp [h]
        · simp [h, Ne.symm h]
      · rename_i e
        simp only [Memory.get, ih]
        by_cases h : b = a
        · rw [if_pos h, if_pos h, if_neg (by omega)]
        · simp only [h, if_false]

theorem Memory.get_filter (m : Memory) (p : Nat → Bool) (b : Nat) :
    Memory.get (m.filter fun c => p c.1) b = if p b then Memory.get m b else 0 := by
  induction m with
  | nil => simp [Memory.get]
  | cons q m ih =>
    obtain ⟨c, w⟩ := q
    by_cases h : p c = true
    · rw [List.filter_cons_of_pos (by simpa using h)]
      simp only [Memory.get, ih]
      by_cases e : c = b
      · subst e; simp [h]
      · simp [e]
    · rw [List.filter_cons_of_neg (by simpa using h), ih]
      simp only [Memory.get]
      by_cases e : c = b
      · subst e; simp [h]
      · simp [e]

/-- A byte written reads back, and every other byte is as before. -/
@[simp] theorem Memory.get_set (m : Memory) (a b : Nat) (v : Byte) :
    Memory.get (m.set a v) b = if b = a then v else Memory.get m b := by
  unfold Memory.set
  split
  · rw [Memory.get_filter m (fun c => c != a)]
    by_cases h : b = a <;> simp [*]
  · exact Memory.get_insert m a b v

/-- Bytes written read back, and every byte outside them is as before. -/
theorem Memory.get_write (m : Memory) (a : Nat) (bs : List Byte) (b : Nat) :
    Memory.get (m.write a bs) b = if a ≤ b ∧ b < a + bs.length then (bs[b - a]?).getD 0 else Memory.get m b := by
  induction bs generalizing m a with
  | nil => rw [if_neg (by simp)]; rfl
  | cons x bs ih =>
    simp only [Memory.write, ih, Memory.get_set, List.length_cons]
    by_cases h1 : a + 1 ≤ b ∧ b < a + 1 + bs.length
    · rw [if_pos h1, if_pos (by omega)]
      obtain ⟨k, hk⟩ : ∃ k, b - a = k + 1 := ⟨b - a - 1, by omega⟩
      rw [hk, List.getElem?_cons_succ, show b - (a + 1) = k by omega]
    · rw [if_neg h1]
      by_cases h2 : b = a
      · subst h2; simp
      · rw [if_neg h2, if_neg (by omega)]

/-- A write leaves the bytes before it and after it alone. -/
theorem Memory.get_write_outside (m : Memory) (a : Nat) (bs : List Byte) (b : Nat) (h : b < a ∨ a + bs.length ≤ b) :
    Memory.get (m.write a bs) b = Memory.get m b := by
  rw [Memory.get_write, if_neg (by omega)]

/-- The bytes just written are read back. -/
theorem Memory.read_write (m : Memory) (a : Nat) (bs : List Byte) : (m.write a bs).read a bs.length = bs := by
  apply List.ext_getElem
  · simp [Memory.read]
  · intro i h1 h2
    simp [Memory.read, Memory.get_write, h2]

/-- A cleared byte reads 0. -/
theorem Memory.get_clear (m : Memory) (a n b : Nat) :
    Memory.get (m.clear a n) b = if a ≤ b ∧ b < a + n then 0 else Memory.get m b := by
  unfold Memory.clear
  rw [Memory.get_filter m (fun c => decide (c < a) || decide (a + n ≤ c))]
  by_cases h : a ≤ b ∧ b < a + n
  · rw [if_neg (by simp; omega), if_pos h]
  · rw [if_pos (by simp; omega), if_neg h]

end Sys2Proof.Machine
end

