-- ==== Sys2Proof/Laws/Keep.lean ====
section
/-! SUPPORT.  Footprints: `K d e pm rm` says that a change from `d` to `e` keeps every part outside the bit mask `pm` and every
register outside the bit mask `rm` of register numbers (bit 355: any word), and keeps the memories in canonical form.  The `Foot*` files give one such lemma per function of
`Machine/`; `K.keeps` turns a footprint into the frame that a claim states. -/

set_option Elab.async false
set_option linter.all false

namespace Sys2Proof.Machine

/-- Bit of a part in a footprint. -/
def Part.no : Part → Nat
  | .free => 0
  | .log => 1
  | .held => 2
  | .pwr => 3
  | .cp => 4
  | .ls => 5
  | .gdma => 6
  | .dram => 7
  | .codec => 8
  | .retiring => 9
  | .scan => 10
  | .col => 11
  | .gate => 12
  | .pseq => 13
  | .sched => 14
  | .bl => 15
  | .cal => 16
  | .rx => 17
  | .wall => 18
  | .mbox => 19
  | .mgmt => 20
  | .nv => 21
  | .boot => 22
  | .tap => 23
  | .flash => 24
  | .xspi => 25
  | .ticks => 26
  | .lsMem => 27
  | .dramMem => 28
  | .nvMem => 29
  | .tcm => 30
  | .dpcd => 31
  | .sharedMem => 32
  | .daleMem => 33

/-- Every bit of the first mask is in the second. -/
abbrev sub (p q : Nat) : Bool := p &&& q == p

/-- A footprint. -/
def K (d e : Dev) (pm rm : Nat) : Prop :=
  (∀ p : Part, pm.testBit p.no = false → d.same e p) ∧
    (rm.testBit 355 = false → ∀ a, (∀ r ∈ allRegs, rm.testBit r.no = true → r.index? a = none) → e.wordsAt a = d.wordsAt a) ∧
    (d.memsWf = true → e.memsWf = true)

theorem sub_testBit {p q k : Nat} (h : sub p q = true) (hq : q.testBit k = false) : p.testBit k = false := by
  have := beq_iff_eq.1 h
  rw [← this, Nat.testBit_and, hq, Bool.and_false]

theorem sub_testBit' {p q k : Nat} (h : sub p q = true) (hp : p.testBit k = true) : q.testBit k = true := by
  have := beq_iff_eq.1 h
  rw [← this, Nat.testBit_and, Bool.and_eq_true] at hp
  exact hp.2

theorem sub_trans {p q r : Nat} (h1 : sub p q = true) (h2 : sub q r = true) : sub p r = true := by
  have a := beq_iff_eq.1 h1
  have b := beq_iff_eq.1 h2
  rw [beq_iff_eq, ← a, Nat.and_assoc, b]

theorem K.refl (d : Dev) (pm rm : Nat) : K d d pm rm :=
  ⟨fun p _ => by cases p <;> simp [Dev.same], fun _ _ _ => rfl, id⟩

theorem K.lift {e d g : Dev} {pm rm p r : Nat} (h : K e d pm rm) (hp : sub p pm = true) (hr : sub r rm = true) (hg : K d g p r) :
    K e g pm rm :=
  ⟨fun q hq => Dev.same_trans (h.1 q hq) (hg.1 q (sub_testBit hp hq)), fun h0 a ha =>
    (hg.2.1 (sub_testBit hr h0) a fun x hx hb => ha x hx (sub_testBit' hr hb)).trans (h.2.1 h0 a ha), fun w => hg.2.2 (h.2.2 w)⟩

theorem K.ite {e a b : Dev} {pm rm : Nat} {c : Prop} [Decidable c] (h1 : K e a pm rm) (h2 : K e b pm rm) :
    K e (if c then a else b) pm rm := by split <;> assumption

theorem K.cond {e a b : Dev} {pm rm : Nat} {c : Bool} (h1 : K e a pm rm) (h2 : K e b pm rm) :
    K e (bif c then a else b) pm rm := by cases c <;> assumption

theorem K.fst_ite {e : Dev} {α : Type} {a b : Dev × α} {pm rm : Nat} {c : Prop} [Decidable c] (h1 : K e a.1 pm rm)
    (h2 : K e b.1 pm rm) : K e (if c then a else b).1 pm rm := by split <;> assumption

theorem K.of_fst {e d : Dev} {α : Type} {a : α} {x : Dev × α} {pm rm : Nat} (h : K e x.1 pm rm) (hx : x = (d, a)) :
    K e d pm rm := by rw [hx] at h; exact h

theorem K.of_snd {e d : Dev} {α : Type} {a : α} {x : α × Dev} {pm rm : Nat} (h : K e x.2 pm rm) (hx : x = (a, d)) :
    K e d pm rm := by rw [hx] at h; exact h

theorem K.each {α : Type} {f : Dev → α → Dev} {pm rm : Nat} {l : List α} {e d : Dev} (h : K e d pm rm)
    (hf : ∀ d x, K e d pm rm → K e (f d x) pm rm) : K e (d.each l f) pm rm := by
  induction l generalizing d with
  | nil => exact h
  | cons x l ih => exact ih (hf d x h)

theorem K.foldl {α : Type} {f : Dev → α → Dev} {pm rm : Nat} {l : List α} {e d : Dev} (h : K e d pm rm)
    (hf : ∀ d x, K e d pm rm → K e (f d x) pm rm) : K e (l.foldl f d) pm rm := K.each h hf

theorem K.cut {P : Prop} (e : Dev) (pm rm : Nat) (x : Dev) (h : K e x pm rm) (hg : K e x pm rm → P) : P := hg h

theorem K.foldlFst {α β : Type} {f : Dev × β → α → Dev × β} {pm rm : Nat} {l : List α} {e : Dev} {x : Dev × β} (h : K e x.1 pm rm)
    (hf : ∀ x y, K e x.1 pm rm → K e (f x y).1 pm rm) : K e (l.foldl f x).1 pm rm := by
  induction l generalizing x with
  | nil => exact h
  | cons y l ih => exact ih (hf x y h)

theorem K.foldlSnd {α β : Type} {f : β × Dev → α → β × Dev} {pm rm : Nat} {l : List α} {e : Dev} {x : β × Dev} (h : K e x.2 pm rm)
    (hf : ∀ x y, K e x.2 pm rm → K e (f x y).2 pm rm) : K e (l.foldl f x).2 pm rm := by
  induction l generalizing x with
  | nil => exact h
  | cons y l ih => exact ih (hf x y h)

theorem K.cutEq {P : Prop} (e : Dev) (pm rm : Nat) {x v : Dev} (g : x = v) (h : K e v pm rm) (hg : K e x pm rm → P) : P :=
  hg (g ▸ h)

theorem K.cutFst {P : Prop} {α : Type} (e : Dev) (pm rm : Nat) {x v : Dev × α} (g : x = v) (h : K e v.1 pm rm)
    (hg : K e x.1 pm rm → P) : P := hg (g ▸ h)

theorem K.cutSnd {P : Prop} {α : Type} (e : Dev) (pm rm : Nat) {x v : α × Dev} (g : x = v) (h : K e v.2 pm rm)
    (hg : K e x.2 pm rm → P) : P := hg (g ▸ h)

theorem K.when {f : Dev → Dev} {pm rm : Nat} {c : Bool} {e d : Dev} (h : K e d pm rm)
    (hf : ∀ d, K e d pm rm → K e (f d) pm rm) : K e (d.when c f) pm rm := by
  unfold Dev.when
  split
  · exact hf d h
  · exact h

/-- A change of parts alone. -/
theorem K.mk {e d : Dev} {pm rm : Nat} {x0 x1 x2 x3 x4 x5 x6 x7 x8 x9 x10 x11 x12 x13 x14 x15 x16 x17 x18 x19 x20 x21 x22 x23 x24 x25 x26} (h : K e d pm rm)
    (hw : d.memsWf = true → (Dev.mk d.regs d.shadow d.active x0 x1 x2 x3 x4 x5 x6 x7 x8 x9 x10 x11 x12 x13 x14 x15 x16 x17 x18 x19 x20 x21 x22 x23 x24 x25 x26).memsWf = true)
    (hs : ∀ p : Part, pm.testBit p.no = false → d.same (Dev.mk d.regs d.shadow d.active x0 x1 x2 x3 x4 x5 x6 x7 x8 x9 x10 x11 x12 x13 x14 x15 x16 x17 x18 x19 x20 x21 x22 x23 x24 x25 x26) p) :
    K e (Dev.mk d.regs d.shadow d.active x0 x1 x2 x3 x4 x5 x6 x7 x8 x9 x10 x11 x12 x13 x14 x15 x16 x17 x18 x19 x20 x21 x22 x23 x24 x25 x26) pm rm :=
  ⟨fun p hp => Dev.same_trans (h.1 p hp) (hs p hp), fun h0 a ha => h.2.1 h0 a ha, fun w => hw (h.2.2 w)⟩

theorem Dev.memsWf_iff (d : Dev) : d.memsWf = true ↔ d.ls.mem.wf = true ∧ d.dram.mem.wf = true ∧ d.nv.mem.wf = true ∧
    Memory.wf d.flash = true ∧ Memory.wf d.mbox = true ∧ d.cp.tcm.wf = true ∧ d.rx.a.dpcd.wf = true ∧ d.rx.b.dpcd.wf = true ∧
    d.sched.shared.wf = true ∧ ∀ p ∈ d.sched.dales, p.2.imem.wf = true ∧ p.2.dmem.wf = true := by
  simp [Dev.memsWf, and_assoc]


/-- A register of the map, found by its address. -/
@[irreducible] def Reg.inMap (r : Reg) : Bool := (regsOfBlock ((r.addr - 0x40000000) / 0x10000)).any fun q => q.no == r.no && q == r

theorem regsOfBlock_mem {k : Nat} {r : Reg} (h : r ∈ regsOfBlock k) : r ∈ allRegs := by
  have hk : k < 22 := by
    match k with
    | 0 | 1 | 2 | 3 | 4 | 5 | 6 | 7 | 8 | 9 | 10 | 11 | 12 | 13 | 14 | 15 | 16 | 17 | 18 | 19 | 20 | 21 => decide
    | k + 22 => simp [regsOfBlock] at h
  rw [allRegs, List.mem_flatMap]
  exact ⟨k, List.mem_range.2 hk, h⟩

theorem Reg.mem_of_inMap {r : Reg} (h : Reg.inMap r = true) : r ∈ allRegs := by
  unfold Reg.inMap at h
  generalize (r.addr - 0x40000000) / 0x10000 = k at h
  obtain ⟨q, hq, h⟩ := List.any_eq_true.1 h
  rw [Bool.and_eq_true, beq_iff_eq (a := q)] at h
  exact h.2 ▸ regsOfBlock_mem hq

theorem Reg.index?_at {r : Reg} {i : Nat} (h : r.has i = true) : r.index? (r.at i) ≠ none := by
  unfold Reg.has at h
  simp only [Bool.and_eq_true, decide_eq_true_eq] at h
  unfold Reg.index? Reg.at
  by_cases hs : r.stride = 0
  · simp [hs]
  · have h1 : r.addr + r.stride * i - r.addr = r.stride * i := by omega
    have h2 : r.stride * i / r.stride = i := Nat.mul_div_cancel_left i (Nat.pos_of_ne_zero hs)
    have h3 : r.stride * i % r.stride = 0 := Nat.mul_mod_right _ _
    simp [hs, h1, h2, h3, h.1, h.2]

/-- A word outside a footprint is not one that the footprint's registers hold. -/
theorem ne_of_index? {r : Reg} {i a : Nat} (hi : r.has i = true) (ha : r.index? a = none) : a ≠ r.at i := fun e =>
  Reg.index?_at hi (e ▸ ha)

theorem K.putWord {e d : Dev} {pm rm : Nat} (h : K e d pm rm) {r : Reg} (hm : Reg.inMap r = true) (hr : rm.testBit r.no = true) (i w : Nat) :
    K e (d.putWord r i w) pm rm :=
  ⟨fun p hp => Dev.same_trans (h.1 p hp) (by cases p <;> simp [Dev.same, Dev.dale]), fun h0 a ha => by
    rw [← h.2.1 h0 a ha]
    unfold Dev.putWord
    split
    · simp only [Dev.wordsAt, RegFile.find_put_ne _ _ (ne_of_index? ‹_› (ha r (Reg.mem_of_inMap hm) hr))]
    · rfl, fun w => by unfold Dev.putWord; split <;> exact h.2.2 w⟩

theorem K.put {e d : Dev} {pm rm : Nat} (h : K e d pm rm) {f : Field} (hm : Reg.inMap f.reg = true) (hr : rm.testBit f.reg.no = true)
    (v i : Nat) : K e (d.put f v i) pm rm := by
  unfold Dev.put
  split
  · refine ⟨fun p hp => Dev.same_trans (h.1 p hp) (by cases p <;> split <;> simp [Dev.same, Dev.dale]), fun h0 a ha => ?_, fun w => by split <;> exact h.2.2 w⟩
    rw [← h.2.1 h0 a ha]
    split
    · simp only [Dev.wordsAt, RegFile.find_put_ne _ _ (ne_of_index? ‹_› (ha _ (Reg.mem_of_inMap hm) hr))]
    · rfl
  · exact K.putWord h hm hr _ _

theorem K.putShadow {e d : Dev} {pm rm : Nat} (h : K e d pm rm) {f : Field} (hm : Reg.inMap f.reg = true)
    (hr : rm.testBit f.reg.no = true) (v i : Nat) : K e (d.putShadow f v i) pm rm := by
  unfold Dev.putShadow
  split
  · refine ⟨fun p hp => Dev.same_trans (h.1 p hp) (by cases p <;> simp [Dev.same, Dev.dale]), fun h0 a ha => ?_, fun w => h.2.2 w⟩
    rw [← h.2.1 h0 a ha]
    simp only [Dev.wordsAt, RegFile.find_put_ne _ _ (ne_of_index? ‹_› (ha _ (Reg.mem_of_inMap hm) hr))]
  · exact h

theorem K.flag {e d : Dev} {pm rm : Nat} (h : K e d pm rm) {f : Field} (hm : Reg.inMap f.reg = true)
    (hr : rm.testBit f.reg.no = true) (b : Bool) (i : Nat) : K e (d.flag f b i) pm rm := K.put h hm hr _ i

theorem K.inc {e d : Dev} {pm rm : Nat} (h : K e d pm rm) {f : Field} (hm : Reg.inMap f.reg = true)
    (hr : rm.testBit f.reg.no = true) (i n : Nat) : K e (d.inc f i n) pm rm := K.put h hm hr _ i

theorem K.incSat {e d : Dev} {pm rm : Nat} (h : K e d pm rm) {f : Field} (hm : Reg.inMap f.reg = true)
    (hr : rm.testBit f.reg.no = true) (i n : Nat) : K e (d.incSat f i n) pm rm := K.put h hm hr _ i


theorem R.mem_FSEQ_COMMIT : Reg.inMap R.FSEQ_COMMIT = true := by unfold Reg.inMap; decide
theorem R.mem_FSEQ_STATUS : Reg.inMap R.FSEQ_STATUS = true := by unfold Reg.inMap; decide
theorem R.mem_FRAME_COUNT : Reg.inMap R.FRAME_COUNT = true := by unfold Reg.inMap; decide
theorem R.mem_FSEQ_COMMIT_TARGET : Reg.inMap R.FSEQ_COMMIT_TARGET = true := by unfold Reg.inMap; decide
theorem R.mem_FSEQ_EVENT : Reg.inMap R.FSEQ_EVENT = true := by unfold Reg.inMap; decide
theorem R.mem_RX_MODE : Reg.inMap R.RX_MODE = true := by unfold Reg.inMap; decide
theorem R.mem_RX_PORT_STATUS : Reg.inMap R.RX_PORT_STATUS = true := by unfold Reg.inMap; decide
theorem R.mem_RX_EVENT : Reg.inMap R.RX_EVENT = true := by unfold Reg.inMap; decide
theorem R.mem_RASTER_H : Reg.inMap R.RASTER_H = true := by unfold Reg.inMap; decide
theorem R.mem_RASTER_V : Reg.inMap R.RASTER_V = true := by unfold Reg.inMap; decide
theorem R.mem_RASTER_VRR : Reg.inMap R.RASTER_VRR = true := by unfold Reg.inMap; decide
theorem R.mem_RASTER_FLOOR : Reg.inMap R.RASTER_FLOOR = true := by unfold Reg.inMap; decide
theorem R.mem_LATCH_CTRL : Reg.inMap R.LATCH_CTRL = true := by unfold Reg.inMap; decide
theorem R.mem_LINE_MATCH : Reg.inMap R.LINE_MATCH = true := by unfold Reg.inMap; decide
theorem R.mem_SCAN_POS : Reg.inMap R.SCAN_POS = true := by unfold Reg.inMap; decide
theorem R.mem_SCAN_EVENT : Reg.inMap R.SCAN_EVENT = true := by unfold Reg.inMap; decide
theorem R.mem_UNDERRUN_STATUS : Reg.inMap R.UNDERRUN_STATUS = true := by unfold Reg.inMap; decide
theorem R.mem_UNDERRUN_FRAMES : Reg.inMap R.UNDERRUN_FRAMES = true := by unfold Reg.inMap; decide
theorem R.mem_COMP_CTRL : Reg.inMap R.COMP_CTRL = true := by unfold Reg.inMap; decide
theorem R.mem_BG_COLOR_RG : Reg.inMap R.BG_COLOR_RG = true := by unfold Reg.inMap; decide
theorem R.mem_BG_COLOR_B : Reg.inMap R.BG_COLOR_B = true := by unfold Reg.inMap; decide
theorem R.mem_RING_BASE : Reg.inMap R.RING_BASE = true := by unfold Reg.inMap; decide
theorem R.mem_RING_STATUS : Reg.inMap R.RING_STATUS = true := by unfold Reg.inMap; decide
theorem R.mem_GUARD_CTRL : Reg.inMap R.GUARD_CTRL = true := by unfold Reg.inMap; decide
theorem R.mem_GUARD_HOLD : Reg.inMap R.GUARD_HOLD = true := by unfold Reg.inMap; decide
theorem R.mem_GUARD_STATUS : Reg.inMap R.GUARD_STATUS = true := by unfold Reg.inMap; decide
theorem R.mem_LAYER_CTRL : Reg.inMap R.LAYER_CTRL = true := by unfold Reg.inMap; decide
theorem R.mem_LAYER_BASE : Reg.inMap R.LAYER_BASE = true := by unfold Reg.inMap; decide
theorem R.mem_LAYER_STRIDE : Reg.inMap R.LAYER_STRIDE = true := by unfold Reg.inMap; decide
theorem R.mem_LAYER_SIZE : Reg.inMap R.LAYER_SIZE = true := by unfold Reg.inMap; decide
theorem R.mem_RETIRED_BASE : Reg.inMap R.RETIRED_BASE = true := by unfold Reg.inMap; decide
theorem R.mem_PAL_ENTRY : Reg.inMap R.PAL_ENTRY = true := by unfold Reg.inMap; decide
theorem R.mem_CORR_CTRL : Reg.inMap R.CORR_CTRL = true := by unfold Reg.inMap; decide
theorem R.mem_ZONE_GRID : Reg.inMap R.ZONE_GRID = true := by unfold Reg.inMap; decide
theorem R.mem_ZONE_SIZE : Reg.inMap R.ZONE_SIZE = true := by unfold Reg.inMap; decide
theorem R.mem_STAT_CTRL : Reg.inMap R.STAT_CTRL = true := by unfold Reg.inMap; decide
theorem R.mem_STAT_BASE : Reg.inMap R.STAT_BASE = true := by unfold Reg.inMap; decide
theorem R.mem_STAT_STATUS : Reg.inMap R.STAT_STATUS = true := by unfold Reg.inMap; decide
theorem R.mem_STAT_FRAME : Reg.inMap R.STAT_FRAME = true := by unfold Reg.inMap; decide
theorem R.mem_COMP_REF : Reg.inMap R.COMP_REF = true := by unfold Reg.inMap; decide
theorem R.mem_DEMURA_ANCHOR : Reg.inMap R.DEMURA_ANCHOR = true := by unfold Reg.inMap; decide
theorem R.mem_DEMURA_SCALE : Reg.inMap R.DEMURA_SCALE = true := by unfold Reg.inMap; decide
theorem R.mem_DEMURA_BASE : Reg.inMap R.DEMURA_BASE = true := by unfold Reg.inMap; decide
theorem R.mem_DEMURA_PITCH : Reg.inMap R.DEMURA_PITCH = true := by unfold Reg.inMap; decide
theorem R.mem_DEMURA_LEN_BASE : Reg.inMap R.DEMURA_LEN_BASE = true := by unfold Reg.inMap; decide
theorem R.mem_LUT_BASE : Reg.inMap R.LUT_BASE = true := by unfold Reg.inMap; decide
theorem R.mem_CORR_EVENT : Reg.inMap R.CORR_EVENT = true := by unfold Reg.inMap; decide
theorem R.mem_CLIP_COUNT : Reg.inMap R.CLIP_COUNT = true := by unfold Reg.inMap; decide
theorem R.mem_DRIVE_CTRL : Reg.inMap R.DRIVE_CTRL = true := by unfold Reg.inMap; decide
theorem R.mem_OD_TEMP_LO : Reg.inMap R.OD_TEMP_LO = true := by unfold Reg.inMap; decide
theorem R.mem_OD_CFG : Reg.inMap R.OD_CFG = true := by unfold Reg.inMap; decide
theorem R.mem_OD_TABLE_BASE : Reg.inMap R.OD_TABLE_BASE = true := by unfold Reg.inMap; decide
theorem R.mem_HIST_BASE : Reg.inMap R.HIST_BASE = true := by unfold Reg.inMap; decide
theorem R.mem_HIST_STATUS : Reg.inMap R.HIST_STATUS = true := by unfold Reg.inMap; decide
theorem R.mem_DRIVE_LIMIT_RG : Reg.inMap R.DRIVE_LIMIT_RG = true := by unfold Reg.inMap; decide
theorem R.mem_DRIVE_POLICY_RG : Reg.inMap R.DRIVE_POLICY_RG = true := by unfold Reg.inMap; decide
theorem R.mem_DITHER_M : Reg.inMap R.DITHER_M = true := by unfold Reg.inMap; decide
theorem R.mem_SAFE_COLOR_RG : Reg.inMap R.SAFE_COLOR_RG = true := by unfold Reg.inMap; decide
theorem R.mem_DRV_LAYOUT : Reg.inMap R.DRV_LAYOUT = true := by unfold Reg.inMap; decide
theorem R.mem_DRIVE_EVENT : Reg.inMap R.DRIVE_EVENT = true := by unfold Reg.inMap; decide
theorem R.mem_COL_CTRL : Reg.inMap R.COL_CTRL = true := by unfold Reg.inMap; decide
theorem R.mem_COL_STATUS : Reg.inMap R.COL_STATUS = true := by unfold Reg.inMap; decide
theorem R.mem_COL_PRESENT_LO : Reg.inMap R.COL_PRESENT_LO = true := by unfold Reg.inMap; decide
theorem R.mem_COL_LANE : Reg.inMap R.COL_LANE = true := by unfold Reg.inMap; decide
theorem R.mem_COL_EVENT : Reg.inMap R.COL_EVENT = true := by unfold Reg.inMap; decide
theorem R.mem_COL_CTLPKT_HDR : Reg.inMap R.COL_CTLPKT_HDR = true := by unfold Reg.inMap; decide
theorem R.mem_GATE_CTRL : Reg.inMap R.GATE_CTRL = true := by unfold Reg.inMap; decide
theorem R.mem_GATE_EDGE : Reg.inMap R.GATE_EDGE = true := by unfold Reg.inMap; decide
theorem R.mem_GATE_GST : Reg.inMap R.GATE_GST = true := by unfold Reg.inMap; decide
theorem R.mem_GATE_POL : Reg.inMap R.GATE_POL = true := by unfold Reg.inMap; decide
theorem R.mem_PSEQ_ON : Reg.inMap R.PSEQ_ON = true := by unfold Reg.inMap; decide
theorem R.mem_PSEQ_STATUS : Reg.inMap R.PSEQ_STATUS = true := by unfold Reg.inMap; decide
theorem R.mem_CODEC_CTRL : Reg.inMap R.CODEC_CTRL = true := by unfold Reg.inMap; decide
theorem R.mem_CODEC_Q_CFG : Reg.inMap R.CODEC_Q_CFG = true := by unfold Reg.inMap; decide
theorem R.mem_CODEC_EVENT : Reg.inMap R.CODEC_EVENT = true := by unfold Reg.inMap; decide
theorem R.mem_VERIFY_MISMATCH_COUNT : Reg.inMap R.VERIFY_MISMATCH_COUNT = true := by unfold Reg.inMap; decide
theorem R.mem_CHECK_STATUS : Reg.inMap R.CHECK_STATUS = true := by unfold Reg.inMap; decide
theorem R.mem_RING_LEN_BASE : Reg.inMap R.RING_LEN_BASE = true := by unfold Reg.inMap; decide
theorem R.mem_FALLOW_BASE : Reg.inMap R.FALLOW_BASE = true := by unfold Reg.inMap; decide
theorem R.mem_SCHED_CTRL : Reg.inMap R.SCHED_CTRL = true := by unfold Reg.inMap; decide
theorem R.mem_SCHED_STATUS : Reg.inMap R.SCHED_STATUS = true := by unfold Reg.inMap; decide
theorem R.mem_SCHED_EVENT : Reg.inMap R.SCHED_EVENT = true := by unfold Reg.inMap; decide
theorem R.mem_IMEM_LOAD : Reg.inMap R.IMEM_LOAD = true := by unfold Reg.inMap; decide
theorem R.mem_CTX_AREA : Reg.inMap R.CTX_AREA = true := by unfold Reg.inMap; decide
theorem R.mem_JOB_CFG : Reg.inMap R.JOB_CFG = true := by unfold Reg.inMap; decide
theorem R.mem_JOB_BUDGET : Reg.inMap R.JOB_BUDGET = true := by unfold Reg.inMap; decide
theorem R.mem_DALE_CTRL : Reg.inMap R.DALE_CTRL = true := by unfold Reg.inMap; decide
theorem R.mem_DALE_STATUS : Reg.inMap R.DALE_STATUS = true := by unfold Reg.inMap; decide
theorem R.mem_ZONE_MAP : Reg.inMap R.ZONE_MAP = true := by unfold Reg.inMap; decide
theorem R.mem_BL_CTRL : Reg.inMap R.BL_CTRL = true := by unfold Reg.inMap; decide
theorem R.mem_BL_SEG : Reg.inMap R.BL_SEG = true := by unfold Reg.inMap; decide
theorem R.mem_BL_LIMIT : Reg.inMap R.BL_LIMIT = true := by unfold Reg.inMap; decide
theorem R.mem_BL_BUDGET : Reg.inMap R.BL_BUDGET = true := by unfold Reg.inMap; decide
theorem R.mem_BL_STATUS : Reg.inMap R.BL_STATUS = true := by unfold Reg.inMap; decide
theorem R.mem_BL_EVENT : Reg.inMap R.BL_EVENT = true := by unfold Reg.inMap; decide
theorem R.mem_BOOST_CFG : Reg.inMap R.BOOST_CFG = true := by unfold Reg.inMap; decide
theorem R.mem_SINK_CFG : Reg.inMap R.SINK_CFG = true := by unfold Reg.inMap; decide
theorem R.mem_CAL_CTRL : Reg.inMap R.CAL_CTRL = true := by unfold Reg.inMap; decide
theorem R.mem_CAL_EVENT : Reg.inMap R.CAL_EVENT = true := by unfold Reg.inMap; decide
theorem R.mem_CAL_REJ_STATUS : Reg.inMap R.CAL_REJ_STATUS = true := by unfold Reg.inMap; decide
theorem R.mem_CAL_STATUS : Reg.inMap R.CAL_STATUS = true := by unfold Reg.inMap; decide
theorem R.mem_SINK_CAL : Reg.inMap R.SINK_CAL = true := by unfold Reg.inMap; decide
theorem R.mem_TS_CAL : Reg.inMap R.TS_CAL = true := by unfold Reg.inMap; decide
theorem R.mem_GDMA_Q_CFG : Reg.inMap R.GDMA_Q_CFG = true := by unfold Reg.inMap; decide
theorem R.mem_LS_CTRL : Reg.inMap R.LS_CTRL = true := by unfold Reg.inMap; decide
theorem R.mem_LS_EVENT : Reg.inMap R.LS_EVENT = true := by unfold Reg.inMap; decide
theorem R.mem_LS_ECC_STATUS : Reg.inMap R.LS_ECC_STATUS = true := by unfold Reg.inMap; decide
theorem R.mem_LS_PORT_CFG : Reg.inMap R.LS_PORT_CFG = true := by unfold Reg.inMap; decide
theorem R.mem_LS_BANK_CTRL : Reg.inMap R.LS_BANK_CTRL = true := by unfold Reg.inMap; decide
theorem R.mem_LS_BANK_STATUS : Reg.inMap R.LS_BANK_STATUS = true := by unfold Reg.inMap; decide
theorem R.mem_DRAM_CTRL : Reg.inMap R.DRAM_CTRL = true := by unfold Reg.inMap; decide
theorem R.mem_DRAM_REGION : Reg.inMap R.DRAM_REGION = true := by unfold Reg.inMap; decide
theorem R.mem_DRAM_AGE_LIMIT : Reg.inMap R.DRAM_AGE_LIMIT = true := by unfold Reg.inMap; decide
theorem R.mem_DRAM_RD_CFG : Reg.inMap R.DRAM_RD_CFG = true := by unfold Reg.inMap; decide
theorem R.mem_DRAM_EVENT : Reg.inMap R.DRAM_EVENT = true := by unfold Reg.inMap; decide
theorem R.mem_DRAM_ECC_STATUS : Reg.inMap R.DRAM_ECC_STATUS = true := by unfold Reg.inMap; decide
theorem R.mem_DRAM_ECC_INFO : Reg.inMap R.DRAM_ECC_INFO = true := by unfold Reg.inMap; decide
theorem R.mem_DRQ_CFG : Reg.inMap R.DRQ_CFG = true := by unfold Reg.inMap; decide
theorem R.mem_DRAM_CH_CFG : Reg.inMap R.DRAM_CH_CFG = true := by unfold Reg.inMap; decide
theorem R.mem_DRAM_CH_STATUS : Reg.inMap R.DRAM_CH_STATUS = true := by unfold Reg.inMap; decide
theorem R.mem_WALL_CTRL : Reg.inMap R.WALL_CTRL = true := by unfold Reg.inMap; decide
theorem R.mem_WALL_STATUS : Reg.inMap R.WALL_STATUS = true := by unfold Reg.inMap; decide
theorem R.mem_WALL_PORT_STATUS : Reg.inMap R.WALL_PORT_STATUS = true := by unfold Reg.inMap; decide
theorem R.mem_EQX_CMD : Reg.inMap R.EQX_CMD = true := by unfold Reg.inMap; decide
theorem R.mem_EQX_STATUS : Reg.inMap R.EQX_STATUS = true := by unfold Reg.inMap; decide
theorem R.mem_NOTICE_TX : Reg.inMap R.NOTICE_TX = true := by unfold Reg.inMap; decide
theorem R.mem_WALL_EVENT : Reg.inMap R.WALL_EVENT = true := by unfold Reg.inMap; decide
theorem R.mem_PWR_CMD : Reg.inMap R.PWR_CMD = true := by unfold Reg.inMap; decide
theorem R.mem_PWR_STATE : Reg.inMap R.PWR_STATE = true := by unfold Reg.inMap; decide
theorem R.mem_PWR_CFG : Reg.inMap R.PWR_CFG = true := by unfold Reg.inMap; decide
theorem R.mem_WAKE_EN : Reg.inMap R.WAKE_EN = true := by unfold Reg.inMap; decide
theorem R.mem_LAST_WAKE : Reg.inMap R.LAST_WAKE = true := by unfold Reg.inMap; decide
theorem R.mem_KEEP_LS_LO : Reg.inMap R.KEEP_LS_LO = true := by unfold Reg.inMap; decide
theorem R.mem_VIGIL_CFG : Reg.inMap R.VIGIL_CFG = true := by unfold Reg.inMap; decide
theorem R.mem_VIGIL_TEMP : Reg.inMap R.VIGIL_TEMP = true := by unfold Reg.inMap; decide
theorem R.mem_VREG_STATUS : Reg.inMap R.VREG_STATUS = true := by unfold Reg.inMap; decide
theorem R.mem_PAD_HOLD : Reg.inMap R.PAD_HOLD = true := by unfold Reg.inMap; decide
theorem R.mem_PWR_EVENT : Reg.inMap R.PWR_EVENT = true := by unfold Reg.inMap; decide
theorem R.mem_DOM_CTRL : Reg.inMap R.DOM_CTRL = true := by unfold Reg.inMap; decide
theorem R.mem_NV_CTRL : Reg.inMap R.NV_CTRL = true := by unfold Reg.inMap; decide
theorem R.mem_NV_CMD : Reg.inMap R.NV_CMD = true := by unfold Reg.inMap; decide
theorem R.mem_NV_STATUS : Reg.inMap R.NV_STATUS = true := by unfold Reg.inMap; decide
theorem R.mem_NV_EVENT : Reg.inMap R.NV_EVENT = true := by unfold Reg.inMap; decide
theorem R.mem_NV_SEL : Reg.inMap R.NV_SEL = true := by unfold Reg.inMap; decide
theorem R.mem_NV_BUF : Reg.inMap R.NV_BUF = true := by unfold Reg.inMap; decide
theorem R.mem_BOOT_STATUS : Reg.inMap R.BOOT_STATUS = true := by unfold Reg.inMap; decide
theorem R.mem_BOOT_SEQ : Reg.inMap R.BOOT_SEQ = true := by unfold Reg.inMap; decide
theorem R.mem_BOOT_LIGHT : Reg.inMap R.BOOT_LIGHT = true := by unfold Reg.inMap; decide
theorem R.mem_BOOT_CTRL : Reg.inMap R.BOOT_CTRL = true := by unfold Reg.inMap; decide
theorem R.mem_BOOT_EVENT : Reg.inMap R.BOOT_EVENT = true := by unfold Reg.inMap; decide
theorem R.mem_BOOT_STAGE : Reg.inMap R.BOOT_STAGE = true := by unfold Reg.inMap; decide
theorem R.mem_IRQ_SUMMARY : Reg.inMap R.IRQ_SUMMARY = true := by unfold Reg.inMap; decide
theorem R.mem_DEVICE_ID : Reg.inMap R.DEVICE_ID = true := by unfold Reg.inMap; decide
theorem R.mem_CP_CTRL : Reg.inMap R.CP_CTRL = true := by unfold Reg.inMap; decide
theorem R.mem_SYS_EVENT : Reg.inMap R.SYS_EVENT = true := by unfold Reg.inMap; decide
theorem R.mem_WDT_CTRL : Reg.inMap R.WDT_CTRL = true := by unfold Reg.inMap; decide
theorem R.mem_MGMT_CFG : Reg.inMap R.MGMT_CFG = true := by unfold Reg.inMap; decide
theorem R.mem_XSPI_CMD : Reg.inMap R.XSPI_CMD = true := by unfold Reg.inMap; decide
theorem R.mem_LADDER_CTRL : Reg.inMap R.LADDER_CTRL = true := by unfold Reg.inMap; decide
theorem R.mem_LADDER_STATUS : Reg.inMap R.LADDER_STATUS = true := by unfold Reg.inMap; decide
theorem R.mem_LOG_CTRL : Reg.inMap R.LOG_CTRL = true := by unfold Reg.inMap; decide
theorem R.mem_LOG_STATUS : Reg.inMap R.LOG_STATUS = true := by unfold Reg.inMap; decide
theorem R.mem_PIN_DP_MAP : Reg.inMap R.PIN_DP_MAP = true := by unfold Reg.inMap; decide
theorem R.mem_PIN_COL_POL_LO : Reg.inMap R.PIN_COL_POL_LO = true := by unfold Reg.inMap; decide
theorem R.mem_PIN_VREG : Reg.inMap R.PIN_VREG = true := by unfold Reg.inMap; decide
theorem R.mem_GPIO_CFG : Reg.inMap R.GPIO_CFG = true := by unfold Reg.inMap; decide
theorem R.mem_GPIO_OUT : Reg.inMap R.GPIO_OUT = true := by unfold Reg.inMap; decide
theorem R.mem_PIN_DRIVE : Reg.inMap R.PIN_DRIVE = true := by unfold Reg.inMap; decide
theorem R.mem_FSEQ_INT_EN : Reg.inMap R.FSEQ_INT_EN = true := by unfold Reg.inMap; decide
theorem R.mem_RX_INT_EN : Reg.inMap R.RX_INT_EN = true := by unfold Reg.inMap; decide
theorem R.mem_SCAN_INT_EN : Reg.inMap R.SCAN_INT_EN = true := by unfold Reg.inMap; decide
theorem R.mem_LAYER_BASE_C : Reg.inMap R.LAYER_BASE_C = true := by unfold Reg.inMap; decide
theorem R.mem_LAYER_BASE_V : Reg.inMap R.LAYER_BASE_V = true := by unfold Reg.inMap; decide
theorem R.mem_LAYER_POS : Reg.inMap R.LAYER_POS = true := by unfold Reg.inMap; decide
theorem R.mem_LAYER_SRC_OFF : Reg.inMap R.LAYER_SRC_OFF = true := by unfold Reg.inMap; decide
theorem R.mem_DEMURA_ANCHOR_HI : Reg.inMap R.DEMURA_ANCHOR_HI = true := by unfold Reg.inMap; decide
theorem R.mem_CORR_INT_EN : Reg.inMap R.CORR_INT_EN = true := by unfold Reg.inMap; decide
theorem R.mem_DEMURA_ERR_STATUS : Reg.inMap R.DEMURA_ERR_STATUS = true := by unfold Reg.inMap; decide
theorem R.mem_OD_TEMP_HI : Reg.inMap R.OD_TEMP_HI = true := by unfold Reg.inMap; decide
theorem R.mem_HIST_PITCH : Reg.inMap R.HIST_PITCH = true := by unfold Reg.inMap; decide
theorem R.mem_DRIVE_LIMIT_B : Reg.inMap R.DRIVE_LIMIT_B = true := by unfold Reg.inMap; decide
theorem R.mem_DRIVE_POLICY_B : Reg.inMap R.DRIVE_POLICY_B = true := by unfold Reg.inMap; decide
theorem R.mem_SAFE_COLOR_B : Reg.inMap R.SAFE_COLOR_B = true := by unfold Reg.inMap; decide
theorem R.mem_DRV_MAP : Reg.inMap R.DRV_MAP = true := by unfold Reg.inMap; decide
theorem R.mem_DRIVE_INT_EN : Reg.inMap R.DRIVE_INT_EN = true := by unfold Reg.inMap; decide
theorem R.mem_HIST_ERR_COUNT : Reg.inMap R.HIST_ERR_COUNT = true := by unfold Reg.inMap; decide
theorem R.mem_DRIVE_CLAMP_COUNT : Reg.inMap R.DRIVE_CLAMP_COUNT = true := by unfold Reg.inMap; decide
theorem R.mem_COL_PRESENT_HI : Reg.inMap R.COL_PRESENT_HI = true := by unfold Reg.inMap; decide
theorem R.mem_COL_FAILED_LO : Reg.inMap R.COL_FAILED_LO = true := by unfold Reg.inMap; decide
theorem R.mem_COL_FAILED_HI : Reg.inMap R.COL_FAILED_HI = true := by unfold Reg.inMap; decide
theorem R.mem_COL_LANE_TEST : Reg.inMap R.COL_LANE_TEST = true := by unfold Reg.inMap; decide
theorem R.mem_COL_INT_EN : Reg.inMap R.COL_INT_EN = true := by unfold Reg.inMap; decide
theorem R.mem_COL_CRC_PULSES : Reg.inMap R.COL_CRC_PULSES = true := by unfold Reg.inMap; decide
theorem R.mem_COL_TEST_PULSES : Reg.inMap R.COL_TEST_PULSES = true := by unfold Reg.inMap; decide
theorem R.mem_COL_CTLPKT_LANES_LO : Reg.inMap R.COL_CTLPKT_LANES_LO = true := by unfold Reg.inMap; decide
theorem R.mem_COL_CTLPKT_LANES_HI : Reg.inMap R.COL_CTLPKT_LANES_HI = true := by unfold Reg.inMap; decide
theorem R.mem_COL_CTLPKT_DATA : Reg.inMap R.COL_CTLPKT_DATA = true := by unfold Reg.inMap; decide
theorem R.mem_GATE_SHIFT : Reg.inMap R.GATE_SHIFT = true := by unfold Reg.inMap; decide
theorem R.mem_GATE_GRST : Reg.inMap R.GATE_GRST = true := by unfold Reg.inMap; decide
theorem R.mem_PSEQ_OFF : Reg.inMap R.PSEQ_OFF = true := by unfold Reg.inMap; decide
theorem R.mem_PSEQ_PF : Reg.inMap R.PSEQ_PF = true := by unfold Reg.inMap; decide
theorem R.mem_PSEQ_CMD : Reg.inMap R.PSEQ_CMD = true := by unfold Reg.inMap; decide
theorem R.mem_PSEQ_EVENT : Reg.inMap R.PSEQ_EVENT = true := by unfold Reg.inMap; decide
theorem R.mem_CODEC_Q_TAIL : Reg.inMap R.CODEC_Q_TAIL = true := by unfold Reg.inMap; decide
theorem R.mem_CODEC_Q_HEAD : Reg.inMap R.CODEC_Q_HEAD = true := by unfold Reg.inMap; decide
theorem R.mem_CODEC_INT_EN : Reg.inMap R.CODEC_INT_EN = true := by unfold Reg.inMap; decide
theorem R.mem_BOUND_FAIL_COUNT : Reg.inMap R.BOUND_FAIL_COUNT = true := by unfold Reg.inMap; decide
theorem R.mem_BLOCK_CHECK_COUNT : Reg.inMap R.BLOCK_CHECK_COUNT = true := by unfold Reg.inMap; decide
theorem R.mem_SUBST_BG_COUNT : Reg.inMap R.SUBST_BG_COUNT = true := by unfold Reg.inMap; decide
theorem R.mem_FALLOW_LEN_BASE : Reg.inMap R.FALLOW_LEN_BASE = true := by unfold Reg.inMap; decide
theorem R.mem_PLACARD_LEN_BASE : Reg.inMap R.PLACARD_LEN_BASE = true := by unfold Reg.inMap; decide
theorem R.mem_STREAM_WIN_BASE : Reg.inMap R.STREAM_WIN_BASE = true := by unfold Reg.inMap; decide
theorem R.mem_PLACARD_BASE : Reg.inMap R.PLACARD_BASE = true := by unfold Reg.inMap; decide
theorem R.mem_FP_PITCH : Reg.inMap R.FP_PITCH = true := by unfold Reg.inMap; decide
theorem R.mem_FP_STATUS : Reg.inMap R.FP_STATUS = true := by unfold Reg.inMap; decide
theorem R.mem_ZONES_UNASSIGNED : Reg.inMap R.ZONES_UNASSIGNED = true := by unfold Reg.inMap; decide
theorem R.mem_SCHED_INT_EN : Reg.inMap R.SCHED_INT_EN = true := by unfold Reg.inMap; decide
theorem R.mem_JOB_ENTRY : Reg.inMap R.JOB_ENTRY = true := by unfold Reg.inMap; decide
theorem R.mem_JOB_ZONES : Reg.inMap R.JOB_ZONES = true := by unfold Reg.inMap; decide
theorem R.mem_JOB_WMASK_LO : Reg.inMap R.JOB_WMASK_LO = true := by unfold Reg.inMap; decide
theorem R.mem_JOB_WMASK_HI : Reg.inMap R.JOB_WMASK_HI = true := by unfold Reg.inMap; decide
theorem R.mem_JOB_CAP : Reg.inMap R.JOB_CAP = true := by unfold Reg.inMap; decide
theorem R.mem_JOB_USED : Reg.inMap R.JOB_USED = true := by unfold Reg.inMap; decide
theorem R.mem_JOB_LAST_USED : Reg.inMap R.JOB_LAST_USED = true := by unfold Reg.inMap; decide
theorem R.mem_JOB_LATE_COUNT : Reg.inMap R.JOB_LATE_COUNT = true := by unfold Reg.inMap; decide
theorem R.mem_JOB_FAULT_COUNT : Reg.inMap R.JOB_FAULT_COUNT = true := by unfold Reg.inMap; decide
theorem R.mem_JOB_SKIP_COUNT : Reg.inMap R.JOB_SKIP_COUNT = true := by unfold Reg.inMap; decide
theorem R.mem_JOB_DONE_COUNT : Reg.inMap R.JOB_DONE_COUNT = true := by unfold Reg.inMap; decide
theorem R.mem_ZONE_SEL : Reg.inMap R.ZONE_SEL = true := by unfold Reg.inMap; decide
theorem R.mem_BL_MON : Reg.inMap R.BL_MON = true := by unfold Reg.inMap; decide
theorem R.mem_BL_DIE : Reg.inMap R.BL_DIE = true := by unfold Reg.inMap; decide
theorem R.mem_BL_INT_EN : Reg.inMap R.BL_INT_EN = true := by unfold Reg.inMap; decide
theorem R.mem_BL_LATE_COUNT : Reg.inMap R.BL_LATE_COUNT = true := by unfold Reg.inMap; decide
theorem R.mem_ZB_ERR_COUNT : Reg.inMap R.ZB_ERR_COUNT = true := by unfold Reg.inMap; decide
theorem R.mem_BOOST_STATUS : Reg.inMap R.BOOST_STATUS = true := by unfold Reg.inMap; decide
theorem R.mem_BOOST_FAULT : Reg.inMap R.BOOST_FAULT = true := by unfold Reg.inMap; decide
theorem R.mem_SINK_STATUS : Reg.inMap R.SINK_STATUS = true := by unfold Reg.inMap; decide
theorem R.mem_ZB_MAP : Reg.inMap R.ZB_MAP = true := by unfold Reg.inMap; decide
theorem R.mem_ZB_IC_STATUS : Reg.inMap R.ZB_IC_STATUS = true := by unfold Reg.inMap; decide
theorem R.mem_ZB_CTRL : Reg.inMap R.ZB_CTRL = true := by unfold Reg.inMap; decide
theorem R.mem_ZB_STATUS : Reg.inMap R.ZB_STATUS = true := by unfold Reg.inMap; decide
theorem R.mem_ZB_PRESENT : Reg.inMap R.ZB_PRESENT = true := by unfold Reg.inMap; decide
theorem R.mem_CAL_INT_EN : Reg.inMap R.CAL_INT_EN = true := by unfold Reg.inMap; decide
theorem R.mem_CAL_FW_REPORT : Reg.inMap R.CAL_FW_REPORT = true := by unfold Reg.inMap; decide
theorem R.mem_SG_CAND : Reg.inMap R.SG_CAND = true := by unfold Reg.inMap; decide
theorem R.mem_SG_CAND_IC : Reg.inMap R.SG_CAND_IC = true := by unfold Reg.inMap; decide
theorem R.mem_SG_COMMIT : Reg.inMap R.SG_COMMIT = true := by unfold Reg.inMap; decide
theorem R.mem_ETA : Reg.inMap R.ETA = true := by unfold Reg.inMap; decide
theorem R.mem_DRAM_T_HI : Reg.inMap R.DRAM_T_HI = true := by unfold Reg.inMap; decide
theorem R.mem_LS_INT_EN : Reg.inMap R.LS_INT_EN = true := by unfold Reg.inMap; decide
theorem R.mem_LS_CORR_COUNT : Reg.inMap R.LS_CORR_COUNT = true := by unfold Reg.inMap; decide
theorem R.mem_LS_TEST_FAIL_COUNT : Reg.inMap R.LS_TEST_FAIL_COUNT = true := by unfold Reg.inMap; decide
theorem R.mem_LS_TEST_SKIP_COUNT : Reg.inMap R.LS_TEST_SKIP_COUNT = true := by unfold Reg.inMap; decide
theorem R.mem_LS_TEST_STATUS : Reg.inMap R.LS_TEST_STATUS = true := by unfold Reg.inMap; decide
theorem R.mem_LS_COLLIDE_STATUS : Reg.inMap R.LS_COLLIDE_STATUS = true := by unfold Reg.inMap; decide
theorem R.mem_LS_PORT_CONFLICT : Reg.inMap R.LS_PORT_CONFLICT = true := by unfold Reg.inMap; decide
theorem R.mem_LS_PORT_COLLIDE : Reg.inMap R.LS_PORT_COLLIDE = true := by unfold Reg.inMap; decide
theorem R.mem_LS_RET_SIG : Reg.inMap R.LS_RET_SIG = true := by unfold Reg.inMap; decide
theorem R.mem_LS_EVENT_INFO : Reg.inMap R.LS_EVENT_INFO = true := by unfold Reg.inMap; decide
theorem R.mem_GDMA_Q_TAIL : Reg.inMap R.GDMA_Q_TAIL = true := by unfold Reg.inMap; decide
theorem R.mem_GDMA_Q_HEAD : Reg.inMap R.GDMA_Q_HEAD = true := by unfold Reg.inMap; decide
theorem R.mem_GDMA_EVENT : Reg.inMap R.GDMA_EVENT = true := by unfold Reg.inMap; decide
theorem R.mem_GDMA_INT_EN : Reg.inMap R.GDMA_INT_EN = true := by unfold Reg.inMap; decide
theorem R.mem_GDMA_STATUS : Reg.inMap R.GDMA_STATUS = true := by unfold Reg.inMap; decide
theorem R.mem_DRAM_REGION_LIMIT : Reg.inMap R.DRAM_REGION_LIMIT = true := by unfold Reg.inMap; decide
theorem R.mem_DRAM_INT_EN : Reg.inMap R.DRAM_INT_EN = true := by unfold Reg.inMap; decide
theorem R.mem_DRAM_CE_COUNT : Reg.inMap R.DRAM_CE_COUNT = true := by unfold Reg.inMap; decide
theorem R.mem_DRAM_UE_COUNT : Reg.inMap R.DRAM_UE_COUNT = true := by unfold Reg.inMap; decide
theorem R.mem_DRAM_RFM_COUNT : Reg.inMap R.DRAM_RFM_COUNT = true := by unfold Reg.inMap; decide
theorem R.mem_DRAM_HAMMER_STATUS : Reg.inMap R.DRAM_HAMMER_STATUS = true := by unfold Reg.inMap; decide
theorem R.mem_DRQ_STATUS : Reg.inMap R.DRQ_STATUS = true := by unfold Reg.inMap; decide
theorem R.mem_DRQ_UE_COUNT : Reg.inMap R.DRQ_UE_COUNT = true := by unfold Reg.inMap; decide
theorem R.mem_DRAM_SEG_CLEAR : Reg.inMap R.DRAM_SEG_CLEAR = true := by unfold Reg.inMap; decide
theorem R.mem_WALL_ADDR : Reg.inMap R.WALL_ADDR = true := by unfold Reg.inMap; decide
theorem R.mem_WALL_REMOVE : Reg.inMap R.WALL_REMOVE = true := by unfold Reg.inMap; decide
theorem R.mem_WALL_MEMBERS : Reg.inMap R.WALL_MEMBERS = true := by unfold Reg.inMap; decide
theorem R.mem_WALL_OFFSET : Reg.inMap R.WALL_OFFSET = true := by unfold Reg.inMap; decide
theorem R.mem_WALL_TIME_LO : Reg.inMap R.WALL_TIME_LO = true := by unfold Reg.inMap; decide
theorem R.mem_WALL_TIME_HI : Reg.inMap R.WALL_TIME_HI = true := by unfold Reg.inMap; decide
theorem R.mem_WALL_JOIN_INFO : Reg.inMap R.WALL_JOIN_INFO = true := by unfold Reg.inMap; decide
theorem R.mem_WALL_DROP_COUNT : Reg.inMap R.WALL_DROP_COUNT = true := by unfold Reg.inMap; decide
theorem R.mem_DELAY_ADJ : Reg.inMap R.DELAY_ADJ = true := by unfold Reg.inMap; decide
theorem R.mem_WALL_PORT_ERR : Reg.inMap R.WALL_PORT_ERR = true := by unfold Reg.inMap; decide
theorem R.mem_EQX_F : Reg.inMap R.EQX_F = true := by unfold Reg.inMap; decide
theorem R.mem_EQX_LEN : Reg.inMap R.EQX_LEN = true := by unfold Reg.inMap; decide
theorem R.mem_EQX_BUF : Reg.inMap R.EQX_BUF = true := by unfold Reg.inMap; decide
theorem R.mem_EQX_ACK : Reg.inMap R.EQX_ACK = true := by unfold Reg.inMap; decide
theorem R.mem_EQX_RESULT : Reg.inMap R.EQX_RESULT = true := by unfold Reg.inMap; decide
theorem R.mem_NOTICE_SRC : Reg.inMap R.NOTICE_SRC = true := by unfold Reg.inMap; decide
theorem R.mem_NOTICE_LEN : Reg.inMap R.NOTICE_LEN = true := by unfold Reg.inMap; decide
theorem R.mem_NOTICE_STAGE : Reg.inMap R.NOTICE_STAGE = true := by unfold Reg.inMap; decide
theorem R.mem_NOTICE_BASE : Reg.inMap R.NOTICE_BASE = true := by unfold Reg.inMap; decide
theorem R.mem_NOTICE_STAGE_SIZE : Reg.inMap R.NOTICE_STAGE_SIZE = true := by unfold Reg.inMap; decide
theorem R.mem_NOTICE_PLANE_SIZE : Reg.inMap R.NOTICE_PLANE_SIZE = true := by unfold Reg.inMap; decide
theorem R.mem_NOTICE_STATUS : Reg.inMap R.NOTICE_STATUS = true := by unfold Reg.inMap; decide
theorem R.mem_WALL_POS_X : Reg.inMap R.WALL_POS_X = true := by unfold Reg.inMap; decide
theorem R.mem_WALL_POS_Y : Reg.inMap R.WALL_POS_Y = true := by unfold Reg.inMap; decide
theorem R.mem_WALL_INT_EN : Reg.inMap R.WALL_INT_EN = true := by unfold Reg.inMap; decide
theorem R.mem_WALL_LAG : Reg.inMap R.WALL_LAG = true := by unfold Reg.inMap; decide
theorem R.mem_WAKE_PENDING : Reg.inMap R.WAKE_PENDING = true := by unfold Reg.inMap; decide
theorem R.mem_LAST_WAKE_SEC : Reg.inMap R.LAST_WAKE_SEC = true := by unfold Reg.inMap; decide
theorem R.mem_LAST_WAKE_SUB : Reg.inMap R.LAST_WAKE_SUB = true := by unfold Reg.inMap; decide
theorem R.mem_CAL_SEC : Reg.inMap R.CAL_SEC = true := by unfold Reg.inMap; decide
theorem R.mem_CAL_SUB : Reg.inMap R.CAL_SUB = true := by unfold Reg.inMap; decide
theorem R.mem_KEEP_LS_HI : Reg.inMap R.KEEP_LS_HI = true := by unfold Reg.inMap; decide
theorem R.mem_KEEP_PASR_LO : Reg.inMap R.KEEP_PASR_LO = true := by unfold Reg.inMap; decide
theorem R.mem_KEEP_PASR_HI : Reg.inMap R.KEEP_PASR_HI = true := by unfold Reg.inMap; decide
theorem R.mem_VIGIL_AMB : Reg.inMap R.VIGIL_AMB = true := by unfold Reg.inMap; decide
theorem R.mem_VIGIL_LAST : Reg.inMap R.VIGIL_LAST = true := by unfold Reg.inMap; decide
theorem R.mem_PWR_INT_EN : Reg.inMap R.PWR_INT_EN = true := by unfold Reg.inMap; decide
theorem R.mem_PIPE_CLK : Reg.inMap R.PIPE_CLK = true := by unfold Reg.inMap; decide
theorem R.mem_DOM_STATUS : Reg.inMap R.DOM_STATUS = true := by unfold Reg.inMap; decide
theorem R.mem_NV_PAGE : Reg.inMap R.NV_PAGE = true := by unfold Reg.inMap; decide
theorem R.mem_NV_SRC : Reg.inMap R.NV_SRC = true := by unfold Reg.inMap; decide
theorem R.mem_NV_INT_EN : Reg.inMap R.NV_INT_EN = true := by unfold Reg.inMap; decide
theorem R.mem_NV_RECOVERY : Reg.inMap R.NV_RECOVERY = true := by unfold Reg.inMap; decide
theorem R.mem_NV_CAL_NEXT : Reg.inMap R.NV_CAL_NEXT = true := by unfold Reg.inMap; decide
theorem R.mem_NV_AGE_NEXT : Reg.inMap R.NV_AGE_NEXT = true := by unfold Reg.inMap; decide
theorem R.mem_NV_JRNL_COUNT : Reg.inMap R.NV_JRNL_COUNT = true := by unfold Reg.inMap; decide
theorem R.mem_NV_REFRESH_COUNT : Reg.inMap R.NV_REFRESH_COUNT = true := by unfold Reg.inMap; decide
theorem R.mem_BOOT_VERSION : Reg.inMap R.BOOT_VERSION = true := by unfold Reg.inMap; decide
theorem R.mem_BOOT_FAIL_INFO : Reg.inMap R.BOOT_FAIL_INFO = true := by unfold Reg.inMap; decide
theorem R.mem_BOOT_INT_EN : Reg.inMap R.BOOT_INT_EN = true := by unfold Reg.inMap; decide
theorem R.mem_KEY_FUSE : Reg.inMap R.KEY_FUSE = true := by unfold Reg.inMap; decide
theorem R.mem_FUSE_STATUS : Reg.inMap R.FUSE_STATUS = true := by unfold Reg.inMap; decide
theorem R.mem_IRQ_MASK : Reg.inMap R.IRQ_MASK = true := by unfold Reg.inMap; decide
theorem R.mem_DEVICE_UID_LO : Reg.inMap R.DEVICE_UID_LO = true := by unfold Reg.inMap; decide
theorem R.mem_DEVICE_UID_HI : Reg.inMap R.DEVICE_UID_HI = true := by unfold Reg.inMap; decide
theorem R.mem_CP_STATUS : Reg.inMap R.CP_STATUS = true := by unfold Reg.inMap; decide
theorem R.mem_SYS_INT_EN : Reg.inMap R.SYS_INT_EN = true := by unfold Reg.inMap; decide
theorem R.mem_CP_BUS_ERR : Reg.inMap R.CP_BUS_ERR = true := by unfold Reg.inMap; decide
theorem R.mem_CP_BUS_ERR_COUNT : Reg.inMap R.CP_BUS_ERR_COUNT = true := by unfold Reg.inMap; decide
theorem R.mem_WDT_KICK : Reg.inMap R.WDT_KICK = true := by unfold Reg.inMap; decide
theorem R.mem_CP_SWAP : Reg.inMap R.CP_SWAP = true := by unfold Reg.inMap; decide
theorem R.mem_CP_SWAP_CTRL : Reg.inMap R.CP_SWAP_CTRL = true := by unfold Reg.inMap; decide
theorem R.mem_CP_SWAP_F : Reg.inMap R.CP_SWAP_F = true := by unfold Reg.inMap; decide
theorem R.mem_MTIME : Reg.inMap R.MTIME = true := by unfold Reg.inMap; decide
theorem R.mem_MTIMECMP : Reg.inMap R.MTIMECMP = true := by unfold Reg.inMap; decide
theorem R.mem_MB_COMPLETE : Reg.inMap R.MB_COMPLETE = true := by unfold Reg.inMap; decide
theorem R.mem_MGMT_EVENT : Reg.inMap R.MGMT_EVENT = true := by unfold Reg.inMap; decide
theorem R.mem_MGMT_INT_EN : Reg.inMap R.MGMT_INT_EN = true := by unfold Reg.inMap; decide
theorem R.mem_HOST_EVENT : Reg.inMap R.HOST_EVENT = true := by unfold Reg.inMap; decide
theorem R.mem_HOST_EVENT_SET : Reg.inMap R.HOST_EVENT_SET = true := by unfold Reg.inMap; decide
theorem R.mem_HOST_INT_EN : Reg.inMap R.HOST_INT_EN = true := by unfold Reg.inMap; decide
theorem R.mem_XSPI_ADDR : Reg.inMap R.XSPI_ADDR = true := by unfold Reg.inMap; decide
theorem R.mem_XSPI_BUF : Reg.inMap R.XSPI_BUF = true := by unfold Reg.inMap; decide
theorem R.mem_XSPI_LEN : Reg.inMap R.XSPI_LEN = true := by unfold Reg.inMap; decide
theorem R.mem_LOG_ENTRY : Reg.inMap R.LOG_ENTRY = true := by unfold Reg.inMap; decide
theorem R.mem_LOG_POP : Reg.inMap R.LOG_POP = true := by unfold Reg.inMap; decide
theorem R.mem_LOG_WRITE : Reg.inMap R.LOG_WRITE = true := by unfold Reg.inMap; decide
theorem R.mem_LOG_PUSH : Reg.inMap R.LOG_PUSH = true := by unfold Reg.inMap; decide
theorem R.mem_PIN_COL_POL_HI : Reg.inMap R.PIN_COL_POL_HI = true := by unfold Reg.inMap; decide
theorem R.mem_PIN_WALL_POL : Reg.inMap R.PIN_WALL_POL = true := by unfold Reg.inMap; decide
theorem R.mem_GPIO_OE : Reg.inMap R.GPIO_OE = true := by unfold Reg.inMap; decide
theorem R.mem_GPIO_IN : Reg.inMap R.GPIO_IN = true := by unfold Reg.inMap; decide

theorem K.logPlus {e d : Dev} {pm rm : Nat} (h : K e d pm rm) (hp : pm.testBit 1 = true) (g : LogState) :
    K e { d with log := g } pm rm :=
  K.mk h (fun w => w) fun p hq => by cases p <;> first | rfl | exact ⟨rfl, rfl⟩ | exact fun _ => ⟨rfl, rfl⟩ | exact absurd hp (by simpa [Part.no] using hq)

theorem K.logAppend {e d : Dev} {pm rm : Nat} (h : K e d pm rm) (hp : pm.testBit 1 = true)
    (hr : rm.testBit 19 = true) (x : LogEntry) : K e (d.logAppend x) pm rm := by
  unfold Dev.logAppend
  split
  · exact h
  · split
    · exact K.put (f := F.LOG_STATUS_COUNT) (K.logPlus h hp _) R.mem_LOG_STATUS hr _ _
    · exact K.incSat (f := F.LOG_STATUS_DROPPED) h R.mem_LOG_STATUS hr _ _

theorem K.logHw {e d : Dev} {pm rm : Nat} (h : K e d pm rm) (hp : pm.testBit 1 = true)
    (hr : rm.testBit 19 = true) (c k v : Nat) : K e (d.logHw c k v) pm rm := by
  unfold Dev.logHw
  split
  · exact h
  · split
    · exact K.logPlus h hp _
    · exact K.logAppend h hp hr _

theorem K.raiseSev {e d : Dev} {pm rm : Nat} (h : K e d pm rm) {x : Event} (hm : Reg.inMap x.reg = true)
    (hx : rm.testBit x.reg.no = true) (hp : pm.testBit 1 = true) (hr : rm.testBit 19 = true) (v k : Nat) :
    K e (d.raiseSev x v k) pm rm := by
  unfold Dev.raiseSev
  simp only
  split
  · exact K.logHw (K.putWord h hm hx _ _) hp hr _ _ _
  · exact K.putWord h hm hx _ _

theorem K.raise {e d : Dev} {pm rm : Nat} (h : K e d pm rm) {x : Event} (hm : Reg.inMap x.reg = true)
    (hx : rm.testBit x.reg.no = true) (hp : pm.testBit 1 = true) (hr : rm.testBit 19 = true) (k : Nat) :
    K e (d.raise x k) pm rm := K.raiseSev h hm hx hp hr _ k

theorem K.raiseIf {e d : Dev} {pm rm : Nat} (h : K e d pm rm) {x : Event} (hm : Reg.inMap x.reg = true)
    (hx : rm.testBit x.reg.no = true) (hp : pm.testBit 1 = true) (hr : rm.testBit 19 = true) (c : Bool) (k : Nat) :
    K e (d.raiseIf c x k) pm rm := by
  unfold Dev.raiseIf
  split
  · exact K.raise h hm hx hp hr k
  · exact h


theorem K.setCp {e d : Dev} {pm rm : Nat} (h : K e d pm rm) (hp : pm.testBit 4 = true) (g : CpState → CpState) (hm : ∀ c, (g c).tcm = c.tcm) :
    K e (d.setCp g) pm rm :=
  K.mk h (fun w => by rw [Dev.memsWf_iff] at w ⊢; simp only [hm]; exact w) fun p hq => by cases p <;> first | rfl | exact ⟨rfl, rfl⟩ | exact fun _ => ⟨rfl, rfl⟩ | exact (hm _).symm | exact absurd hp (by simpa [Part.no] using hq)

theorem K.setCpMem {e d : Dev} {pm rm : Nat} (h : K e d pm rm) (hp : pm.testBit 4 = true) (h2 : pm.testBit 30 = true) (g : CpState → CpState)
    (hw : ∀ c, c.tcm.wf = true → (g c).tcm.wf = true) : K e (d.setCp g) pm rm :=
  K.mk h (fun w => by rw [Dev.memsWf_iff] at w ⊢; obtain ⟨w1, w2, w3, w4, w5, w6, w⟩ := w; exact ⟨w1, w2, by first | exact w3 | exact hw _ w3, w4, w5, by first | exact w6 | exact hw _ w6, w⟩) fun p hq => by cases p <;> first | rfl | exact ⟨rfl, rfl⟩ | exact fun _ => ⟨rfl, rfl⟩ | exact absurd hp (by simpa [Part.no] using hq) | exact absurd h2 (by simpa [Part.no] using hq)

theorem K.setNv {e d : Dev} {pm rm : Nat} (h : K e d pm rm) (hp : pm.testBit 21 = true) (g : NvState → NvState) (hm : ∀ c, (g c).mem = c.mem) :
    K e (d.setNv g) pm rm :=
  K.mk h (fun w => by rw [Dev.memsWf_iff] at w ⊢; simp only [hm]; exact w) fun p hq => by cases p <;> first | rfl | exact ⟨rfl, rfl⟩ | exact fun _ => ⟨rfl, rfl⟩ | exact (hm _).symm | exact absurd hp (by simpa [Part.no] using hq)

theorem K.setNvMem {e d : Dev} {pm rm : Nat} (h : K e d pm rm) (hp : pm.testBit 21 = true) (h2 : pm.testBit 29 = true) (g : NvState → NvState)
    (hw : ∀ c, c.mem.wf = true → (g c).mem.wf = true) : K e (d.setNv g) pm rm :=
  K.mk h (fun w => by rw [Dev.memsWf_iff] at w ⊢; obtain ⟨w1, w2, w3, w4, w5, w6, w⟩ := w; exact ⟨w1, w2, by first | exact w3 | exact hw _ w3, w4, w5, by first | exact w6 | exact hw _ w6, w⟩) fun p hq => by cases p <;> first | rfl | exact ⟨rfl, rfl⟩ | exact fun _ => ⟨rfl, rfl⟩ | exact absurd hp (by simpa [Part.no] using hq) | exact absurd h2 (by simpa [Part.no] using hq)

theorem K.setTap {e d : Dev} {pm rm : Nat} (h : K e d pm rm) (hp : pm.testBit 23 = true) (g : TapState → TapState) :
    K e (d.setTap g) pm rm :=
  K.mk h (fun w => w) fun p hq => by cases p <;> first | rfl | exact ⟨rfl, rfl⟩ | exact fun _ => ⟨rfl, rfl⟩ | exact absurd hp (by simpa [Part.no] using hq)

theorem K.setMgmt {e d : Dev} {pm rm : Nat} (h : K e d pm rm) (hp : pm.testBit 20 = true) (g : MgmtState → MgmtState) :
    K e (d.setMgmt g) pm rm :=
  K.mk h (fun w => w) fun p hq => by cases p <;> first | rfl | exact ⟨rfl, rfl⟩ | exact fun _ => ⟨rfl, rfl⟩ | exact absurd hp (by simpa [Part.no] using hq)

theorem K.setBoot {e d : Dev} {pm rm : Nat} (h : K e d pm rm) (hp : pm.testBit 22 = true) (g : BootState → BootState) :
    K e (d.setBoot g) pm rm :=
  K.mk h (fun w => w) fun p hq => by cases p <;> first | rfl | exact ⟨rfl, rfl⟩ | exact fun _ => ⟨rfl, rfl⟩ | exact absurd hp (by simpa [Part.no] using hq)

theorem K.setPwr {e d : Dev} {pm rm : Nat} (h : K e d pm rm) (hp : pm.testBit 3 = true) (g : PwrState → PwrState) :
    K e (d.setPwr g) pm rm :=
  K.mk h (fun w => w) fun p hq => by cases p <;> first | rfl | exact ⟨rfl, rfl⟩ | exact fun _ => ⟨rfl, rfl⟩ | exact absurd hp (by simpa [Part.no] using hq)

theorem K.setScan {e d : Dev} {pm rm : Nat} (h : K e d pm rm) (hp : pm.testBit 10 = true) (g : ScanState → ScanState) :
    K e (d.setScan g) pm rm :=
  K.mk h (fun w => w) fun p hq => by cases p <;> first | rfl | exact ⟨rfl, rfl⟩ | exact fun _ => ⟨rfl, rfl⟩ | exact absurd hp (by simpa [Part.no] using hq)

theorem K.setPseq {e d : Dev} {pm rm : Nat} (h : K e d pm rm) (hp : pm.testBit 13 = true) (g : PseqState → PseqState) :
    K e (d.setPseq g) pm rm :=
  K.mk h (fun w => w) fun p hq => by cases p <;> first | rfl | exact ⟨rfl, rfl⟩ | exact fun _ => ⟨rfl, rfl⟩ | exact absurd hp (by simpa [Part.no] using hq)

theorem K.updWall {e d : Dev} {pm rm : Nat} (h : K e d pm rm) (hp : pm.testBit 18 = true) (g : WallState → WallState) :
    K e (d.updWall g) pm rm :=
  K.mk h (fun w => w) fun p hq => by cases p <;> first | rfl | exact ⟨rfl, rfl⟩ | exact fun _ => ⟨rfl, rfl⟩ | exact absurd hp (by simpa [Part.no] using hq)

theorem K.updEqx {e d : Dev} {pm rm : Nat} (h : K e d pm rm) (hp : pm.testBit 18 = true) (g : EqxSet → EqxSet) :
    K e (d.updEqx g) pm rm :=
  K.mk h (fun w => w) fun p hq => by cases p <;> first | rfl | exact ⟨rfl, rfl⟩ | exact fun _ => ⟨rfl, rfl⟩ | exact absurd hp (by simpa [Part.no] using hq)

theorem K.updNotice {e d : Dev} {pm rm : Nat} (h : K e d pm rm) (hp : pm.testBit 18 = true) (g : NoticeIn → NoticeIn) :
    K e (d.updNotice g) pm rm :=
  K.mk h (fun w => w) fun p hq => by cases p <;> first | rfl | exact ⟨rfl, rfl⟩ | exact fun _ => ⟨rfl, rfl⟩ | exact absurd hp (by simpa [Part.no] using hq)

theorem K.setWp {e d : Dev} {pm rm : Nat} (h : K e d pm rm) (hp : pm.testBit 18 = true) (k : Nat) (g : WPort → WPort) :
    K e (d.setWp k g) pm rm :=
  K.mk h (fun w => w) fun p hq => by cases p <;> first | rfl | exact ⟨rfl, rfl⟩ | exact fun _ => ⟨rfl, rfl⟩ | exact absurd hp (by simpa [Part.no] using hq)

theorem K.setSink {e d : Dev} {pm rm : Nat} (h : K e d pm rm) (hp : pm.testBit 15 = true) (k : Nat) (g : SinkState → SinkState) :
    K e (d.setSink k g) pm rm :=
  K.mk h (fun w => w) fun p hq => by cases p <;> first | rfl | exact ⟨rfl, rfl⟩ | exact fun _ => ⟨rfl, rfl⟩ | exact absurd hp (by simpa [Part.no] using hq)

theorem K.setBoost {e d : Dev} {pm rm : Nat} (h : K e d pm rm) (hp : pm.testBit 15 = true) (k : Nat) (g : BoostState → BoostState) :
    K e (d.setBoost k g) pm rm :=
  K.mk h (fun w => w) fun p hq => by cases p <;> first | rfl | exact ⟨rfl, rfl⟩ | exact fun _ => ⟨rfl, rfl⟩ | exact absurd hp (by simpa [Part.no] using hq)

theorem K.setIc {e d : Dev} {pm rm : Nat} (h : K e d pm rm) (hp : pm.testBit 15 = true) (k : Nat) (g : IcState → IcState) :
    K e (d.setIc k g) pm rm :=
  K.mk h (fun w => w) fun p hq => by cases p <;> first | rfl | exact ⟨rfl, rfl⟩ | exact fun _ => ⟨rfl, rfl⟩ | exact absurd hp (by simpa [Part.no] using hq)

theorem K.setGainCal {e d : Dev} {pm rm : Nat} (h : K e d pm rm) (hp : pm.testBit 16 = true) (k : Nat) (g : GainCal → GainCal) :
    K e (d.setGainCal k g) pm rm :=
  K.mk h (fun w => w) fun p hq => by cases p <;> first | rfl | exact ⟨rfl, rfl⟩ | exact fun _ => ⟨rfl, rfl⟩ | exact absurd hp (by simpa [Part.no] using hq)

theorem assoc_assocSet {α : Type} (k j : Nat) (v : α) (l : List (Nat × α)) :
    assoc j (assocSet k v l) = if j = k then some v else assoc j l := by
  induction l with
  | nil => simp only [assocSet, assoc, eq_comm]
  | cons p l ih =>
    obtain ⟨b, w⟩ := p
    simp only [assocSet]
    split
    · simp only [assoc, eq_comm]
    · split
      · rename_i h
        rw [← h]
        simp only [assoc, eq_comm]
        split <;> rfl
      · rename_i h1 h2
        simp only [assoc, ih]
        by_cases hj : j = k
        · rw [if_pos hj, if_pos hj, if_neg (by omega)]
        · simp only [hj, if_false]

/-- A dale after a change of one. -/
theorem Dev.dale_setDale (d : Dev) (k j : Nat) (g : DaleState → DaleState) :
    (d.setDale k g).dale j = if j = k then g (d.dale k) else d.dale j := by
  simp only [Dev.dale, Dev.setDale, assoc_assocSet]
  split
  · simp
  · rfl

theorem mem_assocSet {α : Type} {k : Nat} {v : α} {l : List (Nat × α)} {p : Nat × α} (h : p ∈ assocSet k v l) :
    p = (k, v) ∨ p ∈ l := by
  induction l with
  | nil => exact .inl (by simpa [assocSet] using h)
  | cons q l ih =>
    obtain ⟨b, w⟩ := q
    simp only [assocSet] at h
    split at h
    · simpa using h
    · split at h
      · rcases List.mem_cons.1 h with h | h
        · exact .inl h
        · exact .inr (List.mem_cons_of_mem _ h)
      · rcases List.mem_cons.1 h with h | h
        · exact .inr (h ▸ List.mem_cons_self)
        · exact (ih h).imp_right (List.mem_cons_of_mem _)

theorem mem_of_assoc {α : Type} {k : Nat} {v : α} {l : List (Nat × α)} (h : assoc k l = some v) : (k, v) ∈ l := by
  induction l with
  | nil => simp [assoc] at h
  | cons q l ih =>
    obtain ⟨b, w⟩ := q
    simp only [assoc] at h
    split at h
    · simp_all
    · exact List.mem_cons_of_mem _ (ih h)

/-- A dale's memories are in canonical form where the device's are. -/
theorem Dev.dale_wf {d : Dev} (w : d.memsWf = true) (k : Nat) : (d.dale k).imem.wf = true ∧ (d.dale k).dmem.wf = true := by
  rw [Dev.memsWf_iff] at w
  unfold Dev.dale
  cases h : assoc k d.sched.dales with
  | none => exact ⟨rfl, rfl⟩
  | some s => exact w.2.2.2.2.2.2.2.2.2 _ (mem_of_assoc h)

theorem Dev.memsWf_setDale (d : Dev) (k : Nat) (g : DaleState → DaleState)
    (hg : ∀ c, c.imem.wf = true ∧ c.dmem.wf = true → (g c).imem.wf = true ∧ (g c).dmem.wf = true) (w : d.memsWf = true) :
    (d.setDale k g).memsWf = true := by
  have w1 := hg _ (Dev.dale_wf w k)
  rw [Dev.memsWf_iff] at w ⊢
  obtain ⟨a1, a2, a3, a4, a5, a6, a7, a8, a9, wd⟩ := w
  exact ⟨a1, a2, a3, a4, a5, a6, a7, a8, a9, fun p hp => by
    rcases mem_assocSet hp with h | h
    · exact h ▸ w1
    · exact wd p h⟩

theorem K.setDale {e d : Dev} {pm rm : Nat} (h : K e d pm rm) (hp : pm.testBit 14 = true) (k : Nat)
    (g : DaleState → DaleState) (hm : ∀ c, (g c).imem = c.imem ∧ (g c).dmem = c.dmem) : K e (d.setDale k g) pm rm :=
  K.mk h (Dev.memsWf_setDale d k g fun c w => by rw [(hm c).1, (hm c).2]; exact w) fun p hq => by
    cases p
    case daleMem =>
      intro j
      have := Dev.dale_setDale d k j g
      unfold Dev.setDale at this
      rw [this]
      split
      · subst_vars; exact ⟨(hm _).1.symm, (hm _).2.symm⟩
      · exact ⟨rfl, rfl⟩
    all_goals first | rfl | exact ⟨rfl, rfl⟩ | exact absurd hp (by simpa [Part.no] using hq)

theorem K.setDaleMem {e d : Dev} {pm rm : Nat} (h : K e d pm rm) (hp : pm.testBit 14 = true)
    (h2 : pm.testBit 33 = true) (k : Nat) (g : DaleState → DaleState)
    (hw : ∀ c, c.imem.wf = true ∧ c.dmem.wf = true → (g c).imem.wf = true ∧ (g c).dmem.wf = true) : K e (d.setDale k g) pm rm :=
  K.mk h (Dev.memsWf_setDale d k g hw) fun p hq => by
    cases p <;> first | rfl | exact ⟨rfl, rfl⟩ | exact absurd hp (by simpa [Part.no] using hq) | exact absurd h2 (by simpa [Part.no] using hq)

theorem K.setPort {e d : Dev} {pm rm : Nat} (h : K e d pm rm) (hp : pm.testBit 17 = true) (k : Nat)
    (g : PortState → PortState) (hm : ∀ t, (g t).dpcd = t.dpcd) : K e (d.setPort k g) pm rm := by
  unfold Dev.setPort
  split
  all_goals exact K.mk h (fun w => by rw [Dev.memsWf_iff] at w ⊢; simp only [hm]; exact w) fun p hq => by cases p <;> first | rfl | exact ⟨rfl, rfl⟩ | exact fun _ => ⟨rfl, rfl⟩ | exact ⟨(hm _).symm, rfl⟩ | exact ⟨rfl, (hm _).symm⟩ | exact absurd hp (by simpa [Part.no] using hq)

theorem K.setPortMem {e d : Dev} {pm rm : Nat} (h : K e d pm rm) (hp : pm.testBit 17 = true)
    (h2 : pm.testBit 31 = true) (k : Nat) (g : PortState → PortState)
    (hw : ∀ t, t.dpcd.wf = true → (g t).dpcd.wf = true) : K e (d.setPort k g) pm rm := by
  unfold Dev.setPort
  split
  all_goals exact K.mk h (fun w => by rw [Dev.memsWf_iff] at w ⊢; obtain ⟨a1, a2, a3, a4, a5, a6, a7, a8, w⟩ := w; exact ⟨a1, a2, a3, a4, a5, a6, by first | exact a7 | exact hw _ a7, by first | exact a8 | exact hw _ a8, w⟩) fun p hq => by cases p <;> first | rfl | exact ⟨rfl, rfl⟩ | exact fun _ => ⟨rfl, rfl⟩ | exact absurd hp (by simpa [Part.no] using hq) | exact absurd h2 (by simpa [Part.no] using hq)


/-- A mark on a device written out field by field: the proofs of the `Foot*` files meet updates of parts under it. -/
@[irreducible] def Dev.tag (d : Dev) : Dev := d

theorem Dev.tag_eq (d : Dev) : d.tag = d := by unfold Dev.tag; rfl

theorem Dev.mk_tag (a0 a1 a2 a3 a4 a5 a6 a7 a8 a9 a10 a11 a12 a13 a14 a15 a16 a17 a18 a19 a20 a21 a22 a23 a24 a25 a26 a27 a28 a29) : Dev.mk a0 a1 a2 a3 a4 a5 a6 a7 a8 a9 a10 a11 a12 a13 a14 a15 a16 a17 a18 a19 a20 a21 a22 a23 a24 a25 a26 a27 a28 a29 = Dev.tag (Dev.mk a0 a1 a2 a3 a4 a5 a6 a7 a8 a9 a10 a11 a12 a13 a14 a15 a16 a17 a18 a19 a20 a21 a22 a23 a24 a25 a26 a27 a28 a29) := (Dev.tag_eq _).symm

theorem K.mkT {e d : Dev} {pm rm : Nat} {x0 x1 x2 x3 x4 x5 x6 x7 x8 x9 x10 x11 x12 x13 x14 x15 x16 x17 x18 x19 x20 x21 x22 x23 x24 x25 x26} (h : K e d pm rm)
    (hs : ∀ p : Part, pm.testBit p.no = false → d.same (Dev.mk d.regs d.shadow d.active x0 x1 x2 x3 x4 x5 x6 x7 x8 x9 x10 x11 x12 x13 x14 x15 x16 x17 x18 x19 x20 x21 x22 x23 x24 x25 x26) p)
    (hw : d.memsWf = true → (Dev.mk d.regs d.shadow d.active x0 x1 x2 x3 x4 x5 x6 x7 x8 x9 x10 x11 x12 x13 x14 x15 x16 x17 x18 x19 x20 x21 x22 x23 x24 x25 x26).memsWf = true) :
    K e (Dev.tag (Dev.mk d.regs d.shadow d.active x0 x1 x2 x3 x4 x5 x6 x7 x8 x9 x10 x11 x12 x13 x14 x15 x16 x17 x18 x19 x20 x21 x22 x23 x24 x25 x26)) pm rm := by
  rw [Dev.tag_eq]
  exact K.mk h hw hs

/-! ### A change of one part -/

theorem K.mk_free {e d : Dev} {pm rm : Nat} {v : Nat} (h : K e d pm rm) (hp : pm.testBit 0 = true) :
    K e (Dev.tag (Dev.mk d.regs d.shadow d.active v d.log d.held d.pwr d.cp d.ls d.gdma d.dram d.codec d.retiring d.scan d.col d.gate d.pseq d.sched d.bl d.cal d.rx d.wall d.mbox d.mgmt d.nv d.boot d.tap d.flash d.xspi d.ticks)) pm rm := by
  rw [Dev.tag_eq]
  exact K.mk h (fun w => w) fun p hq => by cases p <;> first | rfl | exact ⟨rfl, rfl⟩ | exact fun _ => ⟨rfl, rfl⟩ | exact absurd hp (by simpa [Part.no] using hq)

theorem K.mk_log {e d : Dev} {pm rm : Nat} {v : LogState} (h : K e d pm rm) (hp : pm.testBit 1 = true) :
    K e (Dev.tag (Dev.mk d.regs d.shadow d.active d.free v d.held d.pwr d.cp d.ls d.gdma d.dram d.codec d.retiring d.scan d.col d.gate d.pseq d.sched d.bl d.cal d.rx d.wall d.mbox d.mgmt d.nv d.boot d.tap d.flash d.xspi d.ticks)) pm rm := by
  rw [Dev.tag_eq]
  exact K.mk h (fun w => w) fun p hq => by cases p <;> first | rfl | exact ⟨rfl, rfl⟩ | exact fun _ => ⟨rfl, rfl⟩ | exact absurd hp (by simpa [Part.no] using hq)

theorem K.mk_held {e d : Dev} {pm rm : Nat} {v : List Held} (h : K e d pm rm) (hp : pm.testBit 2 = true) :
    K e (Dev.tag (Dev.mk d.regs d.shadow d.active d.free d.log v d.pwr d.cp d.ls d.gdma d.dram d.codec d.retiring d.scan d.col d.gate d.pseq d.sched d.bl d.cal d.rx d.wall d.mbox d.mgmt d.nv d.boot d.tap d.flash d.xspi d.ticks)) pm rm := by
  rw [Dev.tag_eq]
  exact K.mk h (fun w => w) fun p hq => by cases p <;> first | rfl | exact ⟨rfl, rfl⟩ | exact fun _ => ⟨rfl, rfl⟩ | exact absurd hp (by simpa [Part.no] using hq)

theorem K.mk_pwr {e d : Dev} {pm rm : Nat} {v : PwrState} (h : K e d pm rm) (hp : pm.testBit 3 = true) :
    K e (Dev.tag (Dev.mk d.regs d.shadow d.active d.free d.log d.held v d.cp d.ls d.gdma d.dram d.codec d.retiring d.scan d.col d.gate d.pseq d.sched d.bl d.cal d.rx d.wall d.mbox d.mgmt d.nv d.boot d.tap d.flash d.xspi d.ticks)) pm rm := by
  rw [Dev.tag_eq]
  exact K.mk h (fun w => w) fun p hq => by cases p <;> first | rfl | exact ⟨rfl, rfl⟩ | exact fun _ => ⟨rfl, rfl⟩ | exact absurd hp (by simpa [Part.no] using hq)

theorem K.mk_cp {e d : Dev} {pm rm : Nat} {v : CpState} (h : K e d pm rm) (hp : pm.testBit 4 = true)
    (hm : v.tcm = d.cp.tcm ∨ pm.testBit 30 = true ∧ (d.cp.tcm.wf = true → v.tcm.wf = true)) : K e (Dev.tag (Dev.mk d.regs d.shadow d.active d.free d.log d.held d.pwr v d.ls d.gdma d.dram d.codec d.retiring d.scan d.col d.gate d.pseq d.sched d.bl d.cal d.rx d.wall d.mbox d.mgmt d.nv d.boot d.tap d.flash d.xspi d.ticks)) pm rm := by
  rw [Dev.tag_eq]
  refine K.mk h (fun w => ?_) fun p hq => ?_
  · rw [Dev.memsWf_iff] at w ⊢
    obtain ⟨w1, w2, w3, w4, w5, w6, w⟩ := w
    have hx : d.cp.tcm.wf = true → v.tcm.wf = true := by
      rcases hm with hm | hm
      · rw [hm]; exact id
      · exact hm.2
    exact ⟨by first | exact w1 | exact hx w1, by first | exact w2 | exact hx w2, by first | exact w3 | exact hx w3, w4, w5, by first | exact w6 | exact hx w6, w⟩
  replace hm := hm.imp_right And.left
  exact by cases p <;> first | rfl | exact ⟨rfl, rfl⟩ | exact fun _ => ⟨rfl, rfl⟩ | exact absurd hp (by simpa [Part.no] using hq) | exact (hm.resolve_right (by simpa [Part.no] using hq)).symm

theorem K.mk_ls {e d : Dev} {pm rm : Nat} {v : LsState} (h : K e d pm rm) (hp : pm.testBit 5 = true)
    (hm : v.mem = d.ls.mem ∨ pm.testBit 27 = true ∧ (d.ls.mem.wf = true → v.mem.wf = true)) : K e (Dev.tag (Dev.mk d.regs d.shadow d.active d.free d.log d.held d.pwr d.cp v d.gdma d.dram d.codec d.retiring d.scan d.col d.gate d.pseq d.sched d.bl d.cal d.rx d.wall d.mbox d.mgmt d.nv d.boot d.tap d.flash d.xspi d.ticks)) pm rm := by
  rw [Dev.tag_eq]
  refine K.mk h (fun w => ?_) fun p hq => ?_
  · rw [Dev.memsWf_iff] at w ⊢
    obtain ⟨w1, w2, w3, w4, w5, w6, w⟩ := w
    have hx : d.ls.mem.wf = true → v.mem.wf = true := by
      rcases hm with hm | hm
      · rw [hm]; exact id
      · exact hm.2
    exact ⟨by first | exact w1 | exact hx w1, by first | exact w2 | exact hx w2, by first | exact w3 | exact hx w3, w4, w5, by first | exact w6 | exact hx w6, w⟩
  replace hm := hm.imp_right And.left
  exact by cases p <;> first | rfl | exact ⟨rfl, rfl⟩ | exact fun _ => ⟨rfl, rfl⟩ | exact absurd hp (by simpa [Part.no] using hq) | exact (hm.resolve_right (by simpa [Part.no] using hq)).symm

theorem K.mk_gdma {e d : Dev} {pm rm : Nat} {v : GdmaState} (h : K e d pm rm) (hp : pm.testBit 6 = true) :
    K e (Dev.tag (Dev.mk d.regs d.shadow d.active d.free d.log d.held d.pwr d.cp d.ls v d.dram d.codec d.retiring d.scan d.col d.gate d.pseq d.sched d.bl d.cal d.rx d.wall d.mbox d.mgmt d.nv d.boot d.tap d.flash d.xspi d.ticks)) pm rm := by
  rw [Dev.tag_eq]
  exact K.mk h (fun w => w) fun p hq => by cases p <;> first | rfl | exact ⟨rfl, rfl⟩ | exact fun _ => ⟨rfl, rfl⟩ | exact absurd hp (by simpa [Part.no] using hq)

theorem K.mk_dram {e d : Dev} {pm rm : Nat} {v : DramState} (h : K e d pm rm) (hp : pm.testBit 7 = true)
    (hm : v.mem = d.dram.mem ∨ pm.testBit 28 = true ∧ (d.dram.mem.wf = true → v.mem.wf = true)) : K e (Dev.tag (Dev.mk d.regs d.shadow d.active d.free d.log d.held d.pwr d.cp d.ls d.gdma v d.codec d.retiring d.scan d.col d.gate d.pseq d.sched d.bl d.cal d.rx d.wall d.mbox d.mgmt d.nv d.boot d.tap d.flash d.xspi d.ticks)) pm rm := by
  rw [Dev.tag_eq]
  refine K.mk h (fun w => ?_) fun p hq => ?_
  · rw [Dev.memsWf_iff] at w ⊢
    obtain ⟨w1, w2, w3, w4, w5, w6, w⟩ := w
    have hx : d.dram.mem.wf = true → v.mem.wf = true := by
      rcases hm with hm | hm
      · rw [hm]; exact id
      · exact hm.2
    exact ⟨by first | exact w1 | exact hx w1, by first | exact w2 | exact hx w2, by first | exact w3 | exact hx w3, w4, w5, by first | exact w6 | exact hx w6, w⟩
  replace hm := hm.imp_right And.left
  exact by cases p <;> first | rfl | exact ⟨rfl, rfl⟩ | exact fun _ => ⟨rfl, rfl⟩ | exact absurd hp (by simpa [Part.no] using hq) | exact (hm.resolve_right (by simpa [Part.no] using hq)).symm

theorem K.mk_codec {e d : Dev} {pm rm : Nat} {v : CodecState} (h : K e d pm rm) (hp : pm.testBit 8 = true) :
    K e (Dev.tag (Dev.mk d.regs d.shadow d.active d.free d.log d.held d.pwr d.cp d.ls d.gdma d.dram v d.retiring d.scan d.col d.gate d.pseq d.sched d.bl d.cal d.rx d.wall d.mbox d.mgmt d.nv d.boot d.tap d.flash d.xspi d.ticks)) pm rm := by
  rw [Dev.tag_eq]
  exact K.mk h (fun w => w) fun p hq => by cases p <;> first | rfl | exact ⟨rfl, rfl⟩ | exact fun _ => ⟨rfl, rfl⟩ | exact absurd hp (by simpa [Part.no] using hq)

theorem K.mk_retiring {e d : Dev} {pm rm : Nat} {v : List Retiring} (h : K e d pm rm) (hp : pm.testBit 9 = true) :
    K e (Dev.tag (Dev.mk d.regs d.shadow d.active d.free d.log d.held d.pwr d.cp d.ls d.gdma d.dram d.codec v d.scan d.col d.gate d.pseq d.sched d.bl d.cal d.rx d.wall d.mbox d.mgmt d.nv d.boot d.tap d.flash d.xspi d.ticks)) pm rm := by
  rw [Dev.tag_eq]
  exact K.mk h (fun w => w) fun p hq => by cases p <;> first | rfl | exact ⟨rfl, rfl⟩ | exact fun _ => ⟨rfl, rfl⟩ | exact absurd hp (by simpa [Part.no] using hq)

theorem K.mk_scan {e d : Dev} {pm rm : Nat} {v : ScanState} (h : K e d pm rm) (hp : pm.testBit 10 = true) :
    K e (Dev.tag (Dev.mk d.regs d.shadow d.active d.free d.log d.held d.pwr d.cp d.ls d.gdma d.dram d.codec d.retiring v d.col d.gate d.pseq d.sched d.bl d.cal d.rx d.wall d.mbox d.mgmt d.nv d.boot d.tap d.flash d.xspi d.ticks)) pm rm := by
  rw [Dev.tag_eq]
  exact K.mk h (fun w => w) fun p hq => by cases p <;> first | rfl | exact ⟨rfl, rfl⟩ | exact fun _ => ⟨rfl, rfl⟩ | exact absurd hp (by simpa [Part.no] using hq)

theorem K.mk_col {e d : Dev} {pm rm : Nat} {v : ColState} (h : K e d pm rm) (hp : pm.testBit 11 = true) :
    K e (Dev.tag (Dev.mk d.regs d.shadow d.active d.free d.log d.held d.pwr d.cp d.ls d.gdma d.dram d.codec d.retiring d.scan v d.gate d.pseq d.sched d.bl d.cal d.rx d.wall d.mbox d.mgmt d.nv d.boot d.tap d.flash d.xspi d.ticks)) pm rm := by
  rw [Dev.tag_eq]
  exact K.mk h (fun w => w) fun p hq => by cases p <;> first | rfl | exact ⟨rfl, rfl⟩ | exact fun _ => ⟨rfl, rfl⟩ | exact absurd hp (by simpa [Part.no] using hq)

theorem K.mk_gate {e d : Dev} {pm rm : Nat} {v : GateState} (h : K e d pm rm) (hp : pm.testBit 12 = true) :
    K e (Dev.tag (Dev.mk d.regs d.shadow d.active d.free d.log d.held d.pwr d.cp d.ls d.gdma d.dram d.codec d.retiring d.scan d.col v d.pseq d.sched d.bl d.cal d.rx d.wall d.mbox d.mgmt d.nv d.boot d.tap d.flash d.xspi d.ticks)) pm rm := by
  rw [Dev.tag_eq]
  exact K.mk h (fun w => w) fun p hq => by cases p <;> first | rfl | exact ⟨rfl, rfl⟩ | exact fun _ => ⟨rfl, rfl⟩ | exact absurd hp (by simpa [Part.no] using hq)

theorem K.mk_pseq {e d : Dev} {pm rm : Nat} {v : PseqState} (h : K e d pm rm) (hp : pm.testBit 13 = true) :
    K e (Dev.tag (Dev.mk d.regs d.shadow d.active d.free d.log d.held d.pwr d.cp d.ls d.gdma d.dram d.codec d.retiring d.scan d.col d.gate v d.sched d.bl d.cal d.rx d.wall d.mbox d.mgmt d.nv d.boot d.tap d.flash d.xspi d.ticks)) pm rm := by
  rw [Dev.tag_eq]
  exact K.mk h (fun w => w) fun p hq => by cases p <;> first | rfl | exact ⟨rfl, rfl⟩ | exact fun _ => ⟨rfl, rfl⟩ | exact absurd hp (by simpa [Part.no] using hq)

theorem K.mk_sched {e d : Dev} {pm rm : Nat} {v : SchedState} (h : K e d pm rm) (hp : pm.testBit 14 = true)
    (hm : v.shared = d.sched.shared ∨ pm.testBit 32 = true ∧ (d.sched.shared.wf = true → v.shared.wf = true))
    (hd : v.dales = d.sched.dales ∨ pm.testBit 33 = true ∧ ((∀ p ∈ d.sched.dales, p.2.imem.wf = true ∧ p.2.dmem.wf = true) →
      ∀ p ∈ v.dales, p.2.imem.wf = true ∧ p.2.dmem.wf = true)) :
    K e (Dev.tag (Dev.mk d.regs d.shadow d.active d.free d.log d.held d.pwr d.cp d.ls d.gdma d.dram d.codec d.retiring d.scan d.col d.gate d.pseq v d.bl d.cal d.rx d.wall d.mbox d.mgmt d.nv d.boot d.tap d.flash d.xspi d.ticks)) pm rm := by
  rw [Dev.tag_eq]
  refine K.mk h (fun w => ?_) fun p hq => ?_
  · rw [Dev.memsWf_iff] at w ⊢
    obtain ⟨w1, w2, w3, w4, w5, w6, w7, w8, w9, wa⟩ := w
    refine ⟨w1, w2, w3, w4, w5, w6, w7, w8, ?_, ?_⟩
    · rcases hm with hm | hm
      · exact hm ▸ w9
      · exact hm.2 w9
    · rcases hd with hd | hd
      · exact hd ▸ wa
      · exact hd.2 wa
  replace hm := hm.imp_right And.left
  replace hd := hd.imp_right And.left
  cases p
  case daleMem =>
    intro k
    have := hd.resolve_right (by simpa [Part.no] using hq)
    simp [Dev.dale, this]
  all_goals first | rfl | exact ⟨rfl, rfl⟩ | exact absurd hp (by simpa [Part.no] using hq) | exact (hm.resolve_right (by simpa [Part.no] using hq)).symm

theorem K.mk_bl {e d : Dev} {pm rm : Nat} {v : BlState} (h : K e d pm rm) (hp : pm.testBit 15 = true) :
    K e (Dev.tag (Dev.mk d.regs d.shadow d.active d.free d.log d.held d.pwr d.cp d.ls d.gdma d.dram d.codec d.retiring d.scan d.col d.gate d.pseq d.sched v d.cal d.rx d.wall d.mbox d.mgmt d.nv d.boot d.tap d.flash d.xspi d.ticks)) pm rm := by
  rw [Dev.tag_eq]
  exact K.mk h (fun w => w) fun p hq => by cases p <;> first | rfl | exact ⟨rfl, rfl⟩ | exact fun _ => ⟨rfl, rfl⟩ | exact absurd hp (by simpa [Part.no] using hq)

theorem K.mk_cal {e d : Dev} {pm rm : Nat} {v : CalState} (h : K e d pm rm) (hp : pm.testBit 16 = true) :
    K e (Dev.tag (Dev.mk d.regs d.shadow d.active d.free d.log d.held d.pwr d.cp d.ls d.gdma d.dram d.codec d.retiring d.scan d.col d.gate d.pseq d.sched d.bl v d.rx d.wall d.mbox d.mgmt d.nv d.boot d.tap d.flash d.xspi d.ticks)) pm rm := by
  rw [Dev.tag_eq]
  exact K.mk h (fun w => w) fun p hq => by cases p <;> first | rfl | exact ⟨rfl, rfl⟩ | exact fun _ => ⟨rfl, rfl⟩ | exact absurd hp (by simpa [Part.no] using hq)

theorem K.mk_rx {e d : Dev} {pm rm : Nat} {v : RxState} (h : K e d pm rm) (hp : pm.testBit 17 = true)
    (hm : v.a.dpcd = d.rx.a.dpcd ∧ v.b.dpcd = d.rx.b.dpcd ∨ pm.testBit 31 = true ∧ (d.rx.a.dpcd.wf = true ∧ d.rx.b.dpcd.wf = true → v.a.dpcd.wf = true ∧ v.b.dpcd.wf = true)) : K e (Dev.tag (Dev.mk d.regs d.shadow d.active d.free d.log d.held d.pwr d.cp d.ls d.gdma d.dram d.codec d.retiring d.scan d.col d.gate d.pseq d.sched d.bl d.cal v d.wall d.mbox d.mgmt d.nv d.boot d.tap d.flash d.xspi d.ticks)) pm rm := by
  rw [Dev.tag_eq]
  refine K.mk h (fun w => ?_) fun p hq => ?_
  · rw [Dev.memsWf_iff] at w ⊢
    obtain ⟨w1, w2, w3, w4, w5, w6, w7, w8, w⟩ := w
    have hx : v.a.dpcd.wf = true ∧ v.b.dpcd.wf = true := by
      rcases hm with hm | hm
      · rw [hm.1, hm.2]; exact ⟨w7, w8⟩
      · exact hm.2 ⟨w7, w8⟩
    exact ⟨w1, w2, w3, w4, w5, w6, hx.1, hx.2, w⟩
  replace hm := hm.imp_right And.left
  exact by cases p <;> first | rfl | exact fun _ => ⟨rfl, rfl⟩ | exact absurd hp (by simpa [Part.no] using hq) | exact ⟨(hm.resolve_right (by simpa [Part.no] using hq)).1.symm, (hm.resolve_right (by simpa [Part.no] using hq)).2.symm⟩

theorem K.mk_wall {e d : Dev} {pm rm : Nat} {v : WallState} (h : K e d pm rm) (hp : pm.testBit 18 = true) :
    K e (Dev.tag (Dev.mk d.regs d.shadow d.active d.free d.log d.held d.pwr d.cp d.ls d.gdma d.dram d.codec d.retiring d.scan d.col d.gate d.pseq d.sched d.bl d.cal d.rx v d.mbox d.mgmt d.nv d.boot d.tap d.flash d.xspi d.ticks)) pm rm := by
  rw [Dev.tag_eq]
  exact K.mk h (fun w => w) fun p hq => by cases p <;> first | rfl | exact ⟨rfl, rfl⟩ | exact fun _ => ⟨rfl, rfl⟩ | exact absurd hp (by simpa [Part.no] using hq)

theorem K.mk_mbox {e d : Dev} {pm rm : Nat} {v : Memory} (h : K e d pm rm) (hp : pm.testBit 19 = true)
    (hw : Memory.wf d.mbox = true → Memory.wf v = true) : K e (Dev.tag (Dev.mk d.regs d.shadow d.active d.free d.log d.held d.pwr d.cp d.ls d.gdma d.dram d.codec d.retiring d.scan d.col d.gate d.pseq d.sched d.bl d.cal d.rx d.wall v d.mgmt d.nv d.boot d.tap d.flash d.xspi d.ticks)) pm rm := by
  rw [Dev.tag_eq]
  refine K.mk h (fun w => ?_) fun p hq => by cases p <;> first | rfl | exact ⟨rfl, rfl⟩ | exact fun _ => ⟨rfl, rfl⟩ | exact absurd hp (by simpa [Part.no] using hq)
  rw [Dev.memsWf_iff] at w ⊢
  obtain ⟨w1, w2, w3, w4, w5, w⟩ := w
  exact ⟨w1, w2, w3, by first | exact w4 | exact hw w4, by first | exact w5 | exact hw w5, w⟩

theorem K.mk_mgmt {e d : Dev} {pm rm : Nat} {v : MgmtState} (h : K e d pm rm) (hp : pm.testBit 20 = true) :
    K e (Dev.tag (Dev.mk d.regs d.shadow d.active d.free d.log d.held d.pwr d.cp d.ls d.gdma d.dram d.codec d.retiring d.scan d.col d.gate d.pseq d.sched d.bl d.cal d.rx d.wall d.mbox v d.nv d.boot d.tap d.flash d.xspi d.ticks)) pm rm := by
  rw [Dev.tag_eq]
  exact K.mk h (fun w => w) fun p hq => by cases p <;> first | rfl | exact ⟨rfl, rfl⟩ | exact fun _ => ⟨rfl, rfl⟩ | exact absurd hp (by simpa [Part.no] using hq)

theorem K.mk_nv {e d : Dev} {pm rm : Nat} {v : NvState} (h : K e d pm rm) (hp : pm.testBit 21 = true)
    (hm : v.mem = d.nv.mem ∨ pm.testBit 29 = true ∧ (d.nv.mem.wf = true → v.mem.wf = true)) : K e (Dev.tag (Dev.mk d.regs d.shadow d.active d.free d.log d.held d.pwr d.cp d.ls d.gdma d.dram d.codec d.retiring d.scan d.col d.gate d.pseq d.sched d.bl d.cal d.rx d.wall d.mbox d.mgmt v d.boot d.tap d.flash d.xspi d.ticks)) pm rm := by
  rw [Dev.tag_eq]
  refine K.mk h (fun w => ?_) fun p hq => ?_
  · rw [Dev.memsWf_iff] at w ⊢
    obtain ⟨w1, w2, w3, w4, w5, w6, w⟩ := w
    have hx : d.nv.mem.wf = true → v.mem.wf = true := by
      rcases hm with hm | hm
      · rw [hm]; exact id
      · exact hm.2
    exact ⟨by first | exact w1 | exact hx w1, by first | exact w2 | exact hx w2, by first | exact w3 | exact hx w3, w4, w5, by first | exact w6 | exact hx w6, w⟩
  replace hm := hm.imp_right And.left
  exact by cases p <;> first | rfl | exact ⟨rfl, rfl⟩ | exact fun _ => ⟨rfl, rfl⟩ | exact absurd hp (by simpa [Part.no] using hq) | exact (hm.resolve_right (by simpa [Part.no] using hq)).symm

theorem K.mk_boot {e d : Dev} {pm rm : Nat} {v : BootState} (h : K e d pm rm) (hp : pm.testBit 22 = true) :
    K e (Dev.tag (Dev.mk d.regs d.shadow d.active d.free d.log d.held d.pwr d.cp d.ls d.gdma d.dram d.codec d.retiring d.scan d.col d.gate d.pseq d.sched d.bl d.cal d.rx d.wall d.mbox d.mgmt d.nv v d.tap d.flash d.xspi d.ticks)) pm rm := by
  rw [Dev.tag_eq]
  exact K.mk h (fun w => w) fun p hq => by cases p <;> first | rfl | exact ⟨rfl, rfl⟩ | exact fun _ => ⟨rfl, rfl⟩ | exact absurd hp (by simpa [Part.no] using hq)

theorem K.mk_tap {e d : Dev} {pm rm : Nat} {v : TapState} (h : K e d pm rm) (hp : pm.testBit 23 = true) :
    K e (Dev.tag (Dev.mk d.regs d.shadow d.active d.free d.log d.held d.pwr d.cp d.ls d.gdma d.dram d.codec d.retiring d.scan d.col d.gate d.pseq d.sched d.bl d.cal d.rx d.wall d.mbox d.mgmt d.nv d.boot v d.flash d.xspi d.ticks)) pm rm := by
  rw [Dev.tag_eq]
  exact K.mk h (fun w => w) fun p hq => by cases p <;> first | rfl | exact ⟨rfl, rfl⟩ | exact fun _ => ⟨rfl, rfl⟩ | exact absurd hp (by simpa [Part.no] using hq)

theorem K.mk_flash {e d : Dev} {pm rm : Nat} {v : Memory} (h : K e d pm rm) (hp : pm.testBit 24 = true)
    (hw : Memory.wf d.flash = true → Memory.wf v = true) : K e (Dev.tag (Dev.mk d.regs d.shadow d.active d.free d.log d.held d.pwr d.cp d.ls d.gdma d.dram d.codec d.retiring d.scan d.col d.gate d.pseq d.sched d.bl d.cal d.rx d.wall d.mbox d.mgmt d.nv d.boot d.tap v d.xspi d.ticks)) pm rm := by
  rw [Dev.tag_eq]
  refine K.mk h (fun w => ?_) fun p hq => by cases p <;> first | rfl | exact ⟨rfl, rfl⟩ | exact fun _ => ⟨rfl, rfl⟩ | exact absurd hp (by simpa [Part.no] using hq)
  rw [Dev.memsWf_iff] at w ⊢
  obtain ⟨w1, w2, w3, w4, w5, w⟩ := w
  exact ⟨w1, w2, w3, by first | exact w4 | exact hw w4, by first | exact w5 | exact hw w5, w⟩

theorem K.mk_xspi {e d : Dev} {pm rm : Nat} {v : XspiState} (h : K e d pm rm) (hp : pm.testBit 25 = true) :
    K e (Dev.tag (Dev.mk d.regs d.shadow d.active d.free d.log d.held d.pwr d.cp d.ls d.gdma d.dram d.codec d.retiring d.scan d.col d.gate d.pseq d.sched d.bl d.cal d.rx d.wall d.mbox d.mgmt d.nv d.boot d.tap d.flash v d.ticks)) pm rm := by
  rw [Dev.tag_eq]
  exact K.mk h (fun w => w) fun p hq => by cases p <;> first | rfl | exact ⟨rfl, rfl⟩ | exact fun _ => ⟨rfl, rfl⟩ | exact absurd hp (by simpa [Part.no] using hq)

theorem K.mk_ticks {e d : Dev} {pm rm : Nat} {v : Nat} (h : K e d pm rm) (hp : pm.testBit 26 = true) :
    K e (Dev.tag (Dev.mk d.regs d.shadow d.active d.free d.log d.held d.pwr d.cp d.ls d.gdma d.dram d.codec d.retiring d.scan d.col d.gate d.pseq d.sched d.bl d.cal d.rx d.wall d.mbox d.mgmt d.nv d.boot d.tap d.flash d.xspi v)) pm rm := by
  rw [Dev.tag_eq]
  exact K.mk h (fun w => w) fun p hq => by cases p <;> first | rfl | exact ⟨rfl, rfl⟩ | exact fun _ => ⟨rfl, rfl⟩ | exact absurd hp (by simpa [Part.no] using hq)

/-! ### Changes of any word (bit 355) -/

theorem K.words {e d g : Dev} {pm rm : Nat} (h : K e d pm rm) (hr : rm.testBit 355 = true) (hs : ∀ p, d.same g p)
    (hw : d.memsWf = true → g.memsWf = true) : K e g pm rm :=
  ⟨fun p hp => Dev.same_trans (h.1 p hp) (hs p), fun h0 => absurd hr (by simp [h0]), fun w => hw (h.2.2 w)⟩

theorem K.putWordAny {e d : Dev} {pm rm : Nat} (h : K e d pm rm) (hr : rm.testBit 355 = true) (r : Reg) (i w : Nat) :
    K e (d.putWord r i w) pm rm :=
  h.words hr (fun p => by cases p <;> simp [Dev.same, Dev.dale]) fun w => by unfold Dev.putWord; split <;> exact w

theorem K.putAny {e d : Dev} {pm rm : Nat} (h : K e d pm rm) (hr : rm.testBit 355 = true) (f : Field) (v i : Nat) :
    K e (d.put f v i) pm rm :=
  h.words hr (fun p => by cases p <;> simp [Dev.same, Dev.dale]) fun w => by unfold Dev.put Dev.putWord; split <;> split <;> exact w

theorem K.commitShadows {e d : Dev} {pm rm : Nat} (h : K e d pm rm) (hr : rm.testBit 355 = true) :
    K e d.commitShadows pm rm := h.words hr (fun p => by cases p <;> simp [Dev.same, Dev.dale]) fun w => w

theorem K.mk_scan' {e d : Dev} {pm rm : Nat} {v : ScanState} (h : K e d pm rm) (hp : pm.testBit 10 = true) :
    K e { d with scan := v } pm rm := by
  have := K.mk_scan (v := v) h hp
  rwa [Dev.tag_eq] at this

theorem K.discardShadows {e d : Dev} {pm rm : Nat} (h : K e d pm rm) (hr : rm.testBit 355 = true)
    (hp : pm.testBit 10 = true) : K e d.discardShadows pm rm :=
  K.mk_scan' (h.words hr (fun p => by cases p <;> first | rfl | exact ⟨rfl, rfl⟩ | exact fun _ => ⟨rfl, rfl⟩) fun w => w : K e { d with shadow := d.active } pm rm) hp

theorem K.mkShadow {e d : Dev} {pm rm : Nat} {v : RegFile} (h : K e d pm rm) (hr : rm.testBit 355 = true) :
    K e (Dev.tag { d with shadow := v }) pm rm := by
  rw [Dev.tag_eq]
  exact h.words hr (fun p => by cases p <;> first | rfl | exact ⟨rfl, rfl⟩ | exact fun _ => ⟨rfl, rfl⟩) fun w => w

theorem K.mkActive {e d : Dev} {pm rm : Nat} {v : RegFile} (h : K e d pm rm) (hr : rm.testBit 355 = true) :
    K e (Dev.tag { d with active := v }) pm rm := by
  rw [Dev.tag_eq]
  exact h.words hr (fun p => by cases p <;> first | rfl | exact ⟨rfl, rfl⟩ | exact fun _ => ⟨rfl, rfl⟩) fun w => w

theorem K.raiseAny {e d : Dev} {pm rm : Nat} (h : K e d pm rm) (hr : rm.testBit 355 = true) (hl : rm.testBit 19 = true)
    (hp : pm.testBit 1 = true) (x : Event) (k : Nat) : K e (d.raise x k) pm rm := by
  unfold Dev.raise Dev.raiseSev
  simp only
  split
  · exact K.logHw (K.putWordAny h hr _ _ _) hp hl _ _ _
  · exact K.putWordAny h hr _ _ _


/-! ### From footprints to frames and to single registers -/

/-- Two registers share no word: one ends before the other begins, or they step alike from different remainders. -/
def regsApart (r q : Reg) : Bool :=
  r.no == q.no || decide ((arrayOf r).2 ≤ (arrayOf q).1) || decide ((arrayOf q).2 ≤ (arrayOf r).1) ||
    (r.stride == q.stride && decide (r.addr % r.stride ≠ q.addr % r.stride))

/-- A register lies in the 64 KiB of its block. -/
def inBlock (k : Nat) (r : Reg) : Bool := decide ((blockOf k).1 ≤ (arrayOf r).1) && decide ((arrayOf r).2 ≤ (blockOf k).2)

theorem inBlock_iff {k : Nat} {r : Reg} : inBlock k r = true ↔
    0x40000000 + 0x10000 * k ≤ (arrayOf r).1 ∧ (arrayOf r).2 ≤ 0x40000000 + 0x10000 * (k + 1) := by
  unfold inBlock
  rw [Bool.and_eq_true]
  exact and_congr decide_eq_true_iff decide_eq_true_iff

theorem regs_inBlock : (List.range 22).all (fun k => (regsOfBlock k).all (inBlock k)) = true := by decide

theorem regs_apart : (List.range 22).all (fun k => (regsOfBlock k).all fun r => (regsOfBlock k).all (regsApart r)) = true := by decide +kernel

theorem Reg.at_mem {r : Reg} {i : Nat} (h : r.has i = true) : (arrayOf r).1 ≤ r.at i ∧ r.at i + 4 ≤ (arrayOf r).2 := by
  unfold Reg.has at h
  simp only [Bool.and_eq_true, decide_eq_true_eq] at h
  unfold arrayOf Reg.at
  exact ⟨Nat.add_le_add_left (Nat.mul_le_mul_left _ h.1) _,
    Nat.add_le_add_right (Nat.add_le_add_left (Nat.mul_le_mul_left _ (by omega)) _) 4⟩

theorem Reg.at_mod (r : Reg) (i : Nat) : r.at i % r.stride = r.addr % r.stride := by
  unfold Reg.at; rw [Nat.add_mul_mod_self_left]

/-- Words of different registers have different addresses. -/
theorem Reg.at_ne {r q : Reg} {i j : Nat} (hr : r ∈ allRegs) (hq : q ∈ allRegs) (hn : r.no ≠ q.no) (hi : r.has i = true)
    (hj : q.has j = true) : r.at i ≠ q.at j := by
  intro he
  rw [allRegs, List.mem_flatMap] at hr hq
  obtain ⟨k, hk, hr⟩ := hr
  obtain ⟨l, hl, hq⟩ := hq
  have b1 := List.all_eq_true.1 (List.all_eq_true.1 regs_inBlock k hk) r hr
  have b2 := List.all_eq_true.1 (List.all_eq_true.1 regs_inBlock l hl) q hq
  have m1 := Reg.at_mem hi
  have m2 := Reg.at_mem hj
  have b3 := inBlock_iff.1 b1
  have b4 := inBlock_iff.1 b2
  have hkl : k = l := by omega
  subst hkl
  have ha := List.all_eq_true.1 (List.all_eq_true.1 (List.all_eq_true.1 regs_apart k hk) r hr) q hq
  simp only [regsApart, Bool.or_eq_true, Bool.and_eq_true, decide_eq_true_eq, beq_iff_eq] at ha
  rcases ha with ((h | h) | h) | h
  · exact hn h
  · omega
  · omega
  · have e1 := Reg.at_mod r i
    have e2 := Reg.at_mod q j
    rw [← h.1] at e2
    rw [he, e2] at e1
    exact h.2 e1.symm

theorem Reg.index?_some {r : Reg} {a i : Nat} (h : r.index? a = some i) (h0 : r.stride = 0 → r.has 0 = true) :
    r.has i = true ∧ a = r.at i := by
  unfold Reg.index? at h
  split at h
  · split at h
    · rename_i h1 h2
      cases h
      exact ⟨h0 h1, by simp [Reg.at, h1, h2]⟩
    · cases h
  · split at h
    · cases h
    · simp only at h
      split at h
      · rename_i h1 h2 h3
        cases h
        refine ⟨by simp [Reg.has, h3.2], ?_⟩
        have := Nat.div_add_mod (a - r.addr) r.stride
        unfold Reg.at
        omega
      · cases h

theorem regs_scalar : (List.range 22).all (fun k => (regsOfBlock k).all fun r => r.stride != 0 || r.has 0) = true := by decide

theorem Reg.scalar {r : Reg} (hr : r ∈ allRegs) (h : r.stride = 0) : r.has 0 = true := by
  rw [allRegs, List.mem_flatMap] at hr
  obtain ⟨k, hk, hr⟩ := hr
  have := List.all_eq_true.1 (List.all_eq_true.1 regs_scalar k hk) r hr
  simpa [h] using this

/-- A register outside a footprint keeps its words. -/
theorem K.words_eq {d e : Dev} {pm rm : Nat} (h : K d e pm rm) (h0 : rm.testBit 355 = false) {r : Reg} (hm : Reg.inMap r = true)
    (hr : rm.testBit r.no = false) {i : Nat} (hi : r.has i = true) : e.wordsAt (r.at i) = d.wordsAt (r.at i) := by
  refine h.2.1 h0 _ fun q hq hb => ?_
  cases hx : q.index? (r.at i) with
  | none => rfl
  | some j =>
    obtain ⟨hj, he⟩ := Reg.index?_some hx (Reg.scalar hq)
    refine absurd he (Reg.at_ne (Reg.mem_of_inMap hm) hq (fun hn => ?_) hi hj)
    rw [hn, hb] at hr
    cases hr

theorem K.rd {d e : Dev} {pm rm : Nat} (h : K d e pm rm) (h0 : rm.testBit 355 = false) {r : Reg} (hm : Reg.inMap r = true)
    (hr : rm.testBit r.no = false) {i : Nat} (hi : r.has i = true) : e.rd r i = d.rd r i := by
  have := h.words_eq h0 hm hr hi
  simp only [Dev.wordsAt, Prod.mk.injEq] at this
  simp only [Dev.rd, Dev.plainWord, rwsWord, this]

theorem K.get {d e : Dev} {pm rm : Nat} (h : K d e pm rm) (h0 : rm.testBit 355 = false) {f : Field} (hm : Reg.inMap f.reg = true)
    (hr : rm.testBit f.reg.no = false) {i : Nat} (hi : f.reg.has i = true) : e.get f i = d.get f i := by
  rw [Dev.get, h.rd h0 hm hr hi, Dev.get]

theorem K.raised {d e : Dev} {pm rm : Nat} (h : K d e pm rm) (h0 : rm.testBit 355 = false) {x : Event} (hm : Reg.inMap x.reg = true)
    (hr : rm.testBit x.reg.no = false) (hi : x.reg.has 0 = true) (k : Nat) : e.raised x k = d.raised x k := by
  rw [Dev.raised, h.rd h0 hm hr hi, Dev.raised]

/-- The parts of a footprint. -/
def partsIn (pm : Nat) (ps : List Part) : Bool :=
  [Part.free, .log, .held, .pwr, .cp, .ls, .gdma, .dram, .codec, .retiring, .scan, .col, .gate, .pseq, .sched, .bl, .cal, .rx, .wall,
    .mbox, .mgmt, .nv, .boot, .tap, .flash, .xspi, .ticks, .lsMem, .dramMem, .nvMem, .tcm, .dpcd, .sharedMem, .daleMem].all
    fun p => !pm.testBit p.no || decide (p ∈ ps)

/-- Every register of a footprint lies in one of the ranges. -/
def regsIn (rm : Nat) (rs : List (Nat × Nat)) : Bool :=
  (List.range 22).all fun k => (regsOfBlock k).all fun r =>
    !rm.testBit r.no || rs.any fun q => decide (q.1 ≤ (arrayOf r).1) && decide ((arrayOf r).2 ≤ q.2)

/-- A footprint gives the frame that a claim states. -/
theorem K.keeps {d e : Dev} {pm rm : Nat} (h : K d e pm rm) {ps : List Part} {rs : List (Nat × Nat)} (h0 : rm.testBit 355 = false)
    (hp : partsIn pm ps = true) (hr : regsIn rm rs = true) : Keeps d e ps rs := by
  refine ⟨fun p hn => h.1 p ?_, fun a ha => h.2.1 h0 a fun r hm hb => ?_⟩
  · have := List.all_eq_true.1 hp p (by cases p <;> simp)
    simpa [hn] using this
  · cases hx : r.index? a with
    | none => rfl
    | some j =>
      obtain ⟨hj, rfl⟩ := Reg.index?_some hx (Reg.scalar hm)
      have m := Reg.at_mem hj
      rw [allRegs, List.mem_flatMap] at hm
      obtain ⟨k, hk, hm⟩ := hm
      have := List.all_eq_true.1 (List.all_eq_true.1 hr k hk) r hm
      simp only [hb, Bool.not_true, Bool.false_or, List.any_eq_true, Bool.and_eq_true, decide_eq_true_eq] at this
      obtain ⟨q, hq, h1, h2⟩ := this
      rcases ha q hq with h | h <;> omega

/-- Footprint of a change whose words are left open: the parts alone. -/
theorem K.keepsParts {d e : Dev} {pm rm : Nat} (h : K d e pm rm) {ps : List Part} (hp : partsIn pm ps = true) :
    ∀ p, p ∉ ps → d.same e p := fun p hn => h.1 p (by
  have := List.all_eq_true.1 hp p (by cases p <;> simp)
  simpa [hn] using this)


end Sys2Proof.Machine
end

