-- ==== Sys2Proof/Laws/Apart.lean ====
section
/-! SUPPORT.  A field after a write of another: of another register, of the same register, at another index; and after an
event.  The side conditions name the registers (`R.mem_…`) and their indexes (`Reg.has_…`).  Then the steps of a frame: one
lemma for each shared update and each part, so that a frame is built update by update. -/

set_option Elab.async false

namespace Sys2Proof.Machine

/-- An index that is bounded by its type belongs to a register of that size. -/
theorem Reg.has_fin {r : Reg} {n : Nat} (b : Fin n) (h0 : r.first = 0) (h : n ≤ r.count) : r.has b = true := by
  have := b.isLt
  simp [Reg.has, h0]; omega
theorem Reg.has_lt {r : Reg} {b n : Nat} (hb : b < n) (h0 : r.first = 0) (h : n ≤ r.count) : r.has b = true := by
  simp [Reg.has, h0]; omega
theorem Reg.has_byte {r : Reg} (b : BitVec 8) (h0 : r.first = 0) (h : 256 ≤ r.count) : r.has b.toNat = true := by
  have := b.isLt
  simp [Reg.has, h0]; omega
theorem regs_no : (List.range 22).all (fun k => (regsOfBlock k).all fun r => decide (r.no < 355)) = true := by decide

theorem Reg.no_lt {r : Reg} (h : Reg.inMap r = true) : r.no < 355 := by
  have hm := Reg.mem_of_inMap h
  rw [allRegs, List.mem_flatMap] at hm
  obtain ⟨k, hk, hr⟩ := hm
  simpa using List.all_eq_true.1 (List.all_eq_true.1 regs_no k hk) r hr

theorem Dev.get_put_other {f g : Field} (hn : f.reg.no ≠ g.reg.no) (hm : Reg.inMap f.reg = true) (hg : Reg.inMap g.reg = true)
    (d : Dev) (v i j : Nat) (hj : g.reg.has j = true) : (d.put f v i).get g j = d.get g j := by
  have : K d (d.put f v i) 0 (2 ^ f.reg.no) := K.put (K.refl _ _ _) hm (by rw [Nat.testBit_two_pow_self]) _ _
  refine this.get ?_ hg ?_ hj
  · rw [Nat.testBit_two_pow]
    have := Reg.no_lt hm
    simp; omega
  · rw [Nat.testBit_two_pow]; simpa using hn
/-- A value that fits its field reads back as it is. -/
theorem Dev.get_put_lt {f : Field} {v i : Nat} (h : f.ok = true) (hi : f.reg.has i = true) (hv : v < 2 ^ (f.hi + 1 - f.lo)) (d : Dev) :
    (d.put f v i).get f i = v := by
  rw [Dev.get_put_self h d v hi, Nat.mod_eq_of_lt hv]

theorem Dev.get_put_bits {f g : Field} (hr : f.reg = g.reg) (hf : f.ok = true) (hg : g.ok = true)
    (hb : f.hi < g.lo ∨ g.hi < f.lo) (d : Dev) (v i : Nat) : (d.put f v i).get g i = d.get g i :=
  Dev.get_put_apart hf hg d v i i (.inr ⟨hr, rfl, hb⟩)
theorem Dev.get_put_idx {f g : Field} (hr : f.reg = g.reg) (hs : 0 < f.reg.stride) (d : Dev) (v i j : Nat) (h : i ≠ j) :
    (d.put f v i).get g j = d.get g j := by
  rw [Dev.get, Dev.rd_put_ne, Dev.get]
  rw [hr] at hs ⊢
  unfold Reg.at
  intro he
  exact h (Nat.eq_of_mul_eq_mul_left hs (Nat.add_left_cancel he))
theorem Dev.get_raise_other {e : Event} {g : Field} (hn : e.reg.no ≠ g.reg.no) (hl : R.LOG_STATUS.no ≠ g.reg.no) (hm : Reg.inMap e.reg = true) (hg : Reg.inMap g.reg = true)
    (d : Dev) (k j : Nat) (hj : g.reg.has j = true) : (d.raise e k).get g j = d.get g j := by
  have h1 := Reg.no_lt hm
  have h2 := Reg.no_lt R.mem_LOG_STATUS
  have : K d (d.raise e k) 2 (2 ^ e.reg.no ||| 2 ^ R.LOG_STATUS.no) := K.raise (K.refl _ _ _) hm
    (by rw [Nat.testBit_or, Nat.testBit_two_pow_self, Bool.true_or]) (by decide)
    (by rw [Nat.testBit_or]; show (_ || Nat.testBit (2 ^ R.LOG_STATUS.no) R.LOG_STATUS.no) = true; rw [Nat.testBit_two_pow_self, Bool.or_true]) _
  refine this.get ?_ hg ?_ hj
  · rw [Nat.testBit_or, Nat.testBit_two_pow, Nat.testBit_two_pow]
    simp; omega
  · rw [Nat.testBit_or, Nat.testBit_two_pow, Nat.testBit_two_pow]; simp; exact ⟨hn, hl⟩
theorem Dev.raised_put_other {f : Field} {g : Event} (hn : f.reg.no ≠ g.reg.no) (hm : Reg.inMap f.reg = true) (hg : Reg.inMap g.reg = true)
    (d : Dev) (v i k : Nat) (hj : g.reg.has 0 = true) : (d.put f v i).raised g k = d.raised g k := by
  have : K d (d.put f v i) 0 (2 ^ f.reg.no) := K.put (K.refl _ _ _) hm (by rw [Nat.testBit_two_pow_self]) _ _
  refine this.raised ?_ hg ?_ hj k
  · rw [Nat.testBit_two_pow]
    have := Reg.no_lt hm
    simp; omega
  · rw [Nat.testBit_two_pow]; simpa using hn
@[simp] theorem Dev.raised_mk (d : Dev) (s x0 x1 x2 x3 x4 x5 x6 x7 x8 x9 x10 x11 x12 x13 x14 x15 x16 x17 x18 x19 x20 x21 x22 x23 x24 x25 x26) (g : Event) (k : Nat) :
  (Dev.mk d.regs s d.active x0 x1 x2 x3 x4 x5 x6 x7 x8 x9 x10 x11 x12 x13 x14 x15 x16 x17 x18 x19 x20 x21 x22 x23 x24 x25 x26).raised g k = d.raised g k := rfl

/-! ### Steps of a frame -/

theorem Keeps.putIn {d e : Dev} {ps : List Part} {rs : List (Nat × Nat)} (h : Keeps d e ps rs) {f : Field} {i : Nat}
    (hm : wordOf f.reg i ∈ rs) (v : Nat) : Keeps d (e.put f v i) ps rs :=
  h.trans ((Keeps.put e f v i).mono (List.nil_subset _) fun r hr => ⟨_, hm, by rw [List.mem_singleton.1 hr]; exact ⟨Nat.le_refl _, Nat.le_refl _⟩⟩)

theorem Keeps.putWordIn {d e : Dev} {ps : List Part} {rs : List (Nat × Nat)} (h : Keeps d e ps rs) {r : Reg} {i : Nat}
    (hm : wordOf r i ∈ rs) (w : Nat) : Keeps d (e.putWord r i w) ps rs :=
  h.trans ((Keeps.putWord e r i w).mono (List.nil_subset _) fun r hr => ⟨_, hm, by rw [List.mem_singleton.1 hr]; exact ⟨Nat.le_refl _, Nat.le_refl _⟩⟩)

theorem Keeps.putWithin {d e : Dev} {ps : List Part} {rs : List (Nat × Nat)} (h : Keeps d e ps rs) {f : Field} {i : Nat}
    {q : Nat × Nat} (hm : q ∈ rs) (h1 : q.1 ≤ f.reg.at i) (h2 : f.reg.at i + 4 ≤ q.2) (v : Nat) : Keeps d (e.put f v i) ps rs :=
  h.trans ((Keeps.put e f v i).mono (List.nil_subset _) fun r hr => ⟨_, hm, by rw [List.mem_singleton.1 hr]; exact ⟨h1, h2⟩⟩)

/-- A word of a register array lies in the array. -/
theorem Keeps.putArray {d e : Dev} {ps : List Part} {rs : List (Nat × Nat)} (h : Keeps d e ps rs) {f : Field} {i : Nat}
    (hm : arrayOf f.reg ∈ rs) (v : Nat) : Keeps d (e.put f v i) ps rs := by
  by_cases hi : f.reg.has i = true
  · exact h.putWithin hm (Reg.at_mem hi).1 (Reg.at_mem hi).2 v
  · have : e.put f v i = e := by
      unfold Dev.put Dev.putWord
      simp [hi]
    rw [this]; exact h

theorem Keeps.flagIn {d e : Dev} {ps : List Part} {rs : List (Nat × Nat)} (h : Keeps d e ps rs) {f : Field} {i : Nat}
    (hm : wordOf f.reg i ∈ rs) (b : Bool) : Keeps d (e.flag f b i) ps rs := h.putIn hm _

theorem Keeps.incIn {d e : Dev} {ps : List Part} {rs : List (Nat × Nat)} (h : Keeps d e ps rs) {f : Field} {i : Nat}
    (hm : wordOf f.reg i ∈ rs) (n : Nat) : Keeps d (e.inc f i n) ps rs := h.putIn hm _

theorem Keeps.incSatIn {d e : Dev} {ps : List Part} {rs : List (Nat × Nat)} (h : Keeps d e ps rs) {f : Field} {i : Nat}
    (hm : wordOf f.reg i ∈ rs) (n : Nat) : Keeps d (e.incSat f i n) ps rs := h.putIn hm _

theorem Keeps.raiseIn {d e : Dev} {ps : List Part} {rs : List (Nat × Nat)} (h : Keeps d e ps rs) {x : Event}
    (hl : .log ∈ ps) (he : wordOf x.reg ∈ rs) (hs : wordOf R.LOG_STATUS ∈ rs) (k : Nat) : Keeps d (e.raise x k) ps rs :=
  h.trans ((Keeps.raise e x k).mono (by simpa using hl) fun r hr => by
    simp only [eventWords, List.mem_cons, List.not_mem_nil, or_false] at hr
    rcases hr with rfl | rfl
    · exact ⟨_, he, Nat.le_refl _, Nat.le_refl _⟩
    · exact ⟨_, hs, Nat.le_refl _, Nat.le_refl _⟩)

theorem Keeps.raiseIfIn {d e : Dev} {ps : List Part} {rs : List (Nat × Nat)} (h : Keeps d e ps rs) {x : Event}
    (hl : .log ∈ ps) (he : wordOf x.reg ∈ rs) (hs : wordOf R.LOG_STATUS ∈ rs) (c : Bool) (k : Nat) :
    Keeps d (e.raiseIf c x k) ps rs := by
  unfold Dev.raiseIf
  split
  · exact h.raiseIn hl he hs k
  · exact h

/-- A step whose own frame is known. -/
theorem Keeps.step {d e g : Dev} {ps qs : List Part} {rs xs : List (Nat × Nat)} (h : Keeps d e ps rs) (hg : Keeps e g qs xs)
    (hp : qs ⊆ ps) (hr : rangesIn xs rs) : Keeps d g ps rs := h.trans (hg.mono hp hr)

theorem Keeps.mk_free {d e : Dev} {ps : List Part} {rs : List (Nat × Nat)} {v : Nat} (h : Keeps d e ps rs) (hp : .free ∈ ps) :
    Keeps d (Dev.tag (Dev.mk e.regs e.shadow e.active v e.log e.held e.pwr e.cp e.ls e.gdma e.dram e.codec e.retiring e.scan e.col e.gate e.pseq e.sched e.bl e.cal e.rx e.wall e.mbox e.mgmt e.nv e.boot e.tap e.flash e.xspi e.ticks)) ps rs := by
  rw [Dev.tag_eq]
  refine h.trans (Keeps.parts _ (fun p hq => ?_) rfl rfl rfl)
  cases p <;> first | rfl | exact ⟨rfl, rfl⟩ | exact fun _ => ⟨rfl, rfl⟩ | exact absurd hp hq

theorem Keeps.mk_log {d e : Dev} {ps : List Part} {rs : List (Nat × Nat)} {v : LogState} (h : Keeps d e ps rs) (hp : .log ∈ ps) :
    Keeps d (Dev.tag (Dev.mk e.regs e.shadow e.active e.free v e.held e.pwr e.cp e.ls e.gdma e.dram e.codec e.retiring e.scan e.col e.gate e.pseq e.sched e.bl e.cal e.rx e.wall e.mbox e.mgmt e.nv e.boot e.tap e.flash e.xspi e.ticks)) ps rs := by
  rw [Dev.tag_eq]
  refine h.trans (Keeps.parts _ (fun p hq => ?_) rfl rfl rfl)
  cases p <;> first | rfl | exact ⟨rfl, rfl⟩ | exact fun _ => ⟨rfl, rfl⟩ | exact absurd hp hq

theorem Keeps.mk_held {d e : Dev} {ps : List Part} {rs : List (Nat × Nat)} {v : List Held} (h : Keeps d e ps rs) (hp : .held ∈ ps) :
    Keeps d (Dev.tag (Dev.mk e.regs e.shadow e.active e.free e.log v e.pwr e.cp e.ls e.gdma e.dram e.codec e.retiring e.scan e.col e.gate e.pseq e.sched e.bl e.cal e.rx e.wall e.mbox e.mgmt e.nv e.boot e.tap e.flash e.xspi e.ticks)) ps rs := by
  rw [Dev.tag_eq]
  refine h.trans (Keeps.parts _ (fun p hq => ?_) rfl rfl rfl)
  cases p <;> first | rfl | exact ⟨rfl, rfl⟩ | exact fun _ => ⟨rfl, rfl⟩ | exact absurd hp hq

theorem Keeps.mk_pwr {d e : Dev} {ps : List Part} {rs : List (Nat × Nat)} {v : PwrState} (h : Keeps d e ps rs) (hp : .pwr ∈ ps) :
    Keeps d (Dev.tag (Dev.mk e.regs e.shadow e.active e.free e.log e.held v e.cp e.ls e.gdma e.dram e.codec e.retiring e.scan e.col e.gate e.pseq e.sched e.bl e.cal e.rx e.wall e.mbox e.mgmt e.nv e.boot e.tap e.flash e.xspi e.ticks)) ps rs := by
  rw [Dev.tag_eq]
  refine h.trans (Keeps.parts _ (fun p hq => ?_) rfl rfl rfl)
  cases p <;> first | rfl | exact ⟨rfl, rfl⟩ | exact fun _ => ⟨rfl, rfl⟩ | exact absurd hp hq

theorem Keeps.mk_cp {d e : Dev} {ps : List Part} {rs : List (Nat × Nat)} {v : CpState} (h : Keeps d e ps rs) (hp : .cp ∈ ps)
    (hm : v.tcm = e.cp.tcm ∨ .tcm ∈ ps) :
    Keeps d (Dev.tag (Dev.mk e.regs e.shadow e.active e.free e.log e.held e.pwr v e.ls e.gdma e.dram e.codec e.retiring e.scan e.col e.gate e.pseq e.sched e.bl e.cal e.rx e.wall e.mbox e.mgmt e.nv e.boot e.tap e.flash e.xspi e.ticks)) ps rs := by
  rw [Dev.tag_eq]
  refine h.trans (Keeps.parts _ (fun p hq => ?_) rfl rfl rfl)
  cases p <;> first | rfl | exact ⟨rfl, rfl⟩ | exact fun _ => ⟨rfl, rfl⟩ | exact absurd hp hq | exact (hm.resolve_right hq).symm

theorem Keeps.mk_ls {d e : Dev} {ps : List Part} {rs : List (Nat × Nat)} {v : LsState} (h : Keeps d e ps rs) (hp : .ls ∈ ps)
    (hm : v.mem = e.ls.mem ∨ .lsMem ∈ ps) :
    Keeps d (Dev.tag (Dev.mk e.regs e.shadow e.active e.free e.log e.held e.pwr e.cp v e.gdma e.dram e.codec e.retiring e.scan e.col e.gate e.pseq e.sched e.bl e.cal e.rx e.wall e.mbox e.mgmt e.nv e.boot e.tap e.flash e.xspi e.ticks)) ps rs := by
  rw [Dev.tag_eq]
  refine h.trans (Keeps.parts _ (fun p hq => ?_) rfl rfl rfl)
  cases p <;> first | rfl | exact ⟨rfl, rfl⟩ | exact fun _ => ⟨rfl, rfl⟩ | exact absurd hp hq | exact (hm.resolve_right hq).symm

theorem Keeps.mk_gdma {d e : Dev} {ps : List Part} {rs : List (Nat × Nat)} {v : GdmaState} (h : Keeps d e ps rs) (hp : .gdma ∈ ps) :
    Keeps d (Dev.tag (Dev.mk e.regs e.shadow e.active e.free e.log e.held e.pwr e.cp e.ls v e.dram e.codec e.retiring e.scan e.col e.gate e.pseq e.sched e.bl e.cal e.rx e.wall e.mbox e.mgmt e.nv e.boot e.tap e.flash e.xspi e.ticks)) ps rs := by
  rw [Dev.tag_eq]
  refine h.trans (Keeps.parts _ (fun p hq => ?_) rfl rfl rfl)
  cases p <;> first | rfl | exact ⟨rfl, rfl⟩ | exact fun _ => ⟨rfl, rfl⟩ | exact absurd hp hq

theorem Keeps.mk_dram {d e : Dev} {ps : List Part} {rs : List (Nat × Nat)} {v : DramState} (h : Keeps d e ps rs) (hp : .dram ∈ ps)
    (hm : v.mem = e.dram.mem ∨ .dramMem ∈ ps) :
    Keeps d (Dev.tag (Dev.mk e.regs e.shadow e.active e.free e.log e.held e.pwr e.cp e.ls e.gdma v e.codec e.retiring e.scan e.col e.gate e.pseq e.sched e.bl e.cal e.rx e.wall e.mbox e.mgmt e.nv e.boot e.tap e.flash e.xspi e.ticks)) ps rs := by
  rw [Dev.tag_eq]
  refine h.trans (Keeps.parts _ (fun p hq => ?_) rfl rfl rfl)
  cases p <;> first | rfl | exact ⟨rfl, rfl⟩ | exact fun _ => ⟨rfl, rfl⟩ | exact absurd hp hq | exact (hm.resolve_right hq).symm

theorem Keeps.mk_codec {d e : Dev} {ps : List Part} {rs : List (Nat × Nat)} {v : CodecState} (h : Keeps d e ps rs) (hp : .codec ∈ ps) :
    Keeps d (Dev.tag (Dev.mk e.regs e.shadow e.active e.free e.log e.held e.pwr e.cp e.ls e.gdma e.dram v e.retiring e.scan e.col e.gate e.pseq e.sched e.bl e.cal e.rx e.wall e.mbox e.mgmt e.nv e.boot e.tap e.flash e.xspi e.ticks)) ps rs := by
  rw [Dev.tag_eq]
  refine h.trans (Keeps.parts _ (fun p hq => ?_) rfl rfl rfl)
  cases p <;> first | rfl | exact ⟨rfl, rfl⟩ | exact fun _ => ⟨rfl, rfl⟩ | exact absurd hp hq

theorem Keeps.mk_retiring {d e : Dev} {ps : List Part} {rs : List (Nat × Nat)} {v : List Retiring} (h : Keeps d e ps rs) (hp : .retiring ∈ ps) :
    Keeps d (Dev.tag (Dev.mk e.regs e.shadow e.active e.free e.log e.held e.pwr e.cp e.ls e.gdma e.dram e.codec v e.scan e.col e.gate e.pseq e.sched e.bl e.cal e.rx e.wall e.mbox e.mgmt e.nv e.boot e.tap e.flash e.xspi e.ticks)) ps rs := by
  rw [Dev.tag_eq]
  refine h.trans (Keeps.parts _ (fun p hq => ?_) rfl rfl rfl)
  cases p <;> first | rfl | exact ⟨rfl, rfl⟩ | exact fun _ => ⟨rfl, rfl⟩ | exact absurd hp hq

theorem Keeps.mk_scan {d e : Dev} {ps : List Part} {rs : List (Nat × Nat)} {v : ScanState} (h : Keeps d e ps rs) (hp : .scan ∈ ps) :
    Keeps d (Dev.tag (Dev.mk e.regs e.shadow e.active e.free e.log e.held e.pwr e.cp e.ls e.gdma e.dram e.codec e.retiring v e.col e.gate e.pseq e.sched e.bl e.cal e.rx e.wall e.mbox e.mgmt e.nv e.boot e.tap e.flash e.xspi e.ticks)) ps rs := by
  rw [Dev.tag_eq]
  refine h.trans (Keeps.parts _ (fun p hq => ?_) rfl rfl rfl)
  cases p <;> first | rfl | exact ⟨rfl, rfl⟩ | exact fun _ => ⟨rfl, rfl⟩ | exact absurd hp hq

theorem Keeps.mk_col {d e : Dev} {ps : List Part} {rs : List (Nat × Nat)} {v : ColState} (h : Keeps d e ps rs) (hp : .col ∈ ps) :
    Keeps d (Dev.tag (Dev.mk e.regs e.shadow e.active e.free e.log e.held e.pwr e.cp e.ls e.gdma e.dram e.codec e.retiring e.scan v e.gate e.pseq e.sched e.bl e.cal e.rx e.wall e.mbox e.mgmt e.nv e.boot e.tap e.flash e.xspi e.ticks)) ps rs := by
  rw [Dev.tag_eq]
  refine h.trans (Keeps.parts _ (fun p hq => ?_) rfl rfl rfl)
  cases p <;> first | rfl | exact ⟨rfl, rfl⟩ | exact fun _ => ⟨rfl, rfl⟩ | exact absurd hp hq

theorem Keeps.mk_gate {d e : Dev} {ps : List Part} {rs : List (Nat × Nat)} {v : GateState} (h : Keeps d e ps rs) (hp : .gate ∈ ps) :
    Keeps d (Dev.tag (Dev.mk e.regs e.shadow e.active e.free e.log e.held e.pwr e.cp e.ls e.gdma e.dram e.codec e.retiring e.scan e.col v e.pseq e.sched e.bl e.cal e.rx e.wall e.mbox e.mgmt e.nv e.boot e.tap e.flash e.xspi e.ticks)) ps rs := by
  rw [Dev.tag_eq]
  refine h.trans (Keeps.parts _ (fun p hq => ?_) rfl rfl rfl)
  cases p <;> first | rfl | exact ⟨rfl, rfl⟩ | exact fun _ => ⟨rfl, rfl⟩ | exact absurd hp hq

theorem Keeps.mk_pseq {d e : Dev} {ps : List Part} {rs : List (Nat × Nat)} {v : PseqState} (h : Keeps d e ps rs) (hp : .pseq ∈ ps) :
    Keeps d (Dev.tag (Dev.mk e.regs e.shadow e.active e.free e.log e.held e.pwr e.cp e.ls e.gdma e.dram e.codec e.retiring e.scan e.col e.gate v e.sched e.bl e.cal e.rx e.wall e.mbox e.mgmt e.nv e.boot e.tap e.flash e.xspi e.ticks)) ps rs := by
  rw [Dev.tag_eq]
  refine h.trans (Keeps.parts _ (fun p hq => ?_) rfl rfl rfl)
  cases p <;> first | rfl | exact ⟨rfl, rfl⟩ | exact fun _ => ⟨rfl, rfl⟩ | exact absurd hp hq

theorem Keeps.mk_sched {d e : Dev} {ps : List Part} {rs : List (Nat × Nat)} {v : SchedState} (h : Keeps d e ps rs) (hp : .sched ∈ ps)
    (hm : v.shared = e.sched.shared ∨ .sharedMem ∈ ps) (hd : v.dales = e.sched.dales ∨ .daleMem ∈ ps) :
    Keeps d (Dev.tag (Dev.mk e.regs e.shadow e.active e.free e.log e.held e.pwr e.cp e.ls e.gdma e.dram e.codec e.retiring e.scan e.col e.gate e.pseq v e.bl e.cal e.rx e.wall e.mbox e.mgmt e.nv e.boot e.tap e.flash e.xspi e.ticks)) ps rs := by
  rw [Dev.tag_eq]
  refine h.trans (Keeps.parts _ (fun p hq => ?_) rfl rfl rfl)
  cases p <;> first | rfl | exact ⟨rfl, rfl⟩ | exact fun _ => ⟨rfl, rfl⟩ | exact absurd hp hq | exact (hm.resolve_right hq).symm | exact fun k => by have := hd.resolve_right hq; simp [Dev.dale, this]

theorem Keeps.mk_bl {d e : Dev} {ps : List Part} {rs : List (Nat × Nat)} {v : BlState} (h : Keeps d e ps rs) (hp : .bl ∈ ps) :
    Keeps d (Dev.tag (Dev.mk e.regs e.shadow e.active e.free e.log e.held e.pwr e.cp e.ls e.gdma e.dram e.codec e.retiring e.scan e.col e.gate e.pseq e.sched v e.cal e.rx e.wall e.mbox e.mgmt e.nv e.boot e.tap e.flash e.xspi e.ticks)) ps rs := by
  rw [Dev.tag_eq]
  refine h.trans (Keeps.parts _ (fun p hq => ?_) rfl rfl rfl)
  cases p <;> first | rfl | exact ⟨rfl, rfl⟩ | exact fun _ => ⟨rfl, rfl⟩ | exact absurd hp hq

theorem Keeps.mk_cal {d e : Dev} {ps : List Part} {rs : List (Nat × Nat)} {v : CalState} (h : Keeps d e ps rs) (hp : .cal ∈ ps) :
    Keeps d (Dev.tag (Dev.mk e.regs e.shadow e.active e.free e.log e.held e.pwr e.cp e.ls e.gdma e.dram e.codec e.retiring e.scan e.col e.gate e.pseq e.sched e.bl v e.rx e.wall e.mbox e.mgmt e.nv e.boot e.tap e.flash e.xspi e.ticks)) ps rs := by
  rw [Dev.tag_eq]
  refine h.trans (Keeps.parts _ (fun p hq => ?_) rfl rfl rfl)
  cases p <;> first | rfl | exact ⟨rfl, rfl⟩ | exact fun _ => ⟨rfl, rfl⟩ | exact absurd hp hq

theorem Keeps.mk_rx {d e : Dev} {ps : List Part} {rs : List (Nat × Nat)} {v : RxState} (h : Keeps d e ps rs) (hp : .rx ∈ ps)
    (hm : v.a.dpcd = e.rx.a.dpcd ∧ v.b.dpcd = e.rx.b.dpcd ∨ .dpcd ∈ ps) :
    Keeps d (Dev.tag (Dev.mk e.regs e.shadow e.active e.free e.log e.held e.pwr e.cp e.ls e.gdma e.dram e.codec e.retiring e.scan e.col e.gate e.pseq e.sched e.bl e.cal v e.wall e.mbox e.mgmt e.nv e.boot e.tap e.flash e.xspi e.ticks)) ps rs := by
  rw [Dev.tag_eq]
  refine h.trans (Keeps.parts _ (fun p hq => ?_) rfl rfl rfl)
  cases p <;> first | rfl | exact ⟨rfl, rfl⟩ | exact fun _ => ⟨rfl, rfl⟩ | exact absurd hp hq | exact ⟨(hm.resolve_right hq).1.symm, (hm.resolve_right hq).2.symm⟩

theorem Keeps.mk_wall {d e : Dev} {ps : List Part} {rs : List (Nat × Nat)} {v : WallState} (h : Keeps d e ps rs) (hp : .wall ∈ ps) :
    Keeps d (Dev.tag (Dev.mk e.regs e.shadow e.active e.free e.log e.held e.pwr e.cp e.ls e.gdma e.dram e.codec e.retiring e.scan e.col e.gate e.pseq e.sched e.bl e.cal e.rx v e.mbox e.mgmt e.nv e.boot e.tap e.flash e.xspi e.ticks)) ps rs := by
  rw [Dev.tag_eq]
  refine h.trans (Keeps.parts _ (fun p hq => ?_) rfl rfl rfl)
  cases p <;> first | rfl | exact ⟨rfl, rfl⟩ | exact fun _ => ⟨rfl, rfl⟩ | exact absurd hp hq

theorem Keeps.mk_mbox {d e : Dev} {ps : List Part} {rs : List (Nat × Nat)} {v : Memory} (h : Keeps d e ps rs) (hp : .mbox ∈ ps) :
    Keeps d (Dev.tag (Dev.mk e.regs e.shadow e.active e.free e.log e.held e.pwr e.cp e.ls e.gdma e.dram e.codec e.retiring e.scan e.col e.gate e.pseq e.sched e.bl e.cal e.rx e.wall v e.mgmt e.nv e.boot e.tap e.flash e.xspi e.ticks)) ps rs := by
  rw [Dev.tag_eq]
  refine h.trans (Keeps.parts _ (fun p hq => ?_) rfl rfl rfl)
  cases p <;> first | rfl | exact ⟨rfl, rfl⟩ | exact fun _ => ⟨rfl, rfl⟩ | exact absurd hp hq

theorem Keeps.mk_mgmt {d e : Dev} {ps : List Part} {rs : List (Nat × Nat)} {v : MgmtState} (h : Keeps d e ps rs) (hp : .mgmt ∈ ps) :
    Keeps d (Dev.tag (Dev.mk e.regs e.shadow e.active e.free e.log e.held e.pwr e.cp e.ls e.gdma e.dram e.codec e.retiring e.scan e.col e.gate e.pseq e.sched e.bl e.cal e.rx e.wall e.mbox v e.nv e.boot e.tap e.flash e.xspi e.ticks)) ps rs := by
  rw [Dev.tag_eq]
  refine h.trans (Keeps.parts _ (fun p hq => ?_) rfl rfl rfl)
  cases p <;> first | rfl | exact ⟨rfl, rfl⟩ | exact fun _ => ⟨rfl, rfl⟩ | exact absurd hp hq

theorem Keeps.mk_nv {d e : Dev} {ps : List Part} {rs : List (Nat × Nat)} {v : NvState} (h : Keeps d e ps rs) (hp : .nv ∈ ps)
    (hm : v.mem = e.nv.mem ∨ .nvMem ∈ ps) :
    Keeps d (Dev.tag (Dev.mk e.regs e.shadow e.active e.free e.log e.held e.pwr e.cp e.ls e.gdma e.dram e.codec e.retiring e.scan e.col e.gate e.pseq e.sched e.bl e.cal e.rx e.wall e.mbox e.mgmt v e.boot e.tap e.flash e.xspi e.ticks)) ps rs := by
  rw [Dev.tag_eq]
  refine h.trans (Keeps.parts _ (fun p hq => ?_) rfl rfl rfl)
  cases p <;> first | rfl | exact ⟨rfl, rfl⟩ | exact fun _ => ⟨rfl, rfl⟩ | exact absurd hp hq | exact (hm.resolve_right hq).symm

theorem Keeps.mk_boot {d e : Dev} {ps : List Part} {rs : List (Nat × Nat)} {v : BootState} (h : Keeps d e ps rs) (hp : .boot ∈ ps) :
    Keeps d (Dev.tag (Dev.mk e.regs e.shadow e.active e.free e.log e.held e.pwr e.cp e.ls e.gdma e.dram e.codec e.retiring e.scan e.col e.gate e.pseq e.sched e.bl e.cal e.rx e.wall e.mbox e.mgmt e.nv v e.tap e.flash e.xspi e.ticks)) ps rs := by
  rw [Dev.tag_eq]
  refine h.trans (Keeps.parts _ (fun p hq => ?_) rfl rfl rfl)
  cases p <;> first | rfl | exact ⟨rfl, rfl⟩ | exact fun _ => ⟨rfl, rfl⟩ | exact absurd hp hq

theorem Keeps.mk_tap {d e : Dev} {ps : List Part} {rs : List (Nat × Nat)} {v : TapState} (h : Keeps d e ps rs) (hp : .tap ∈ ps) :
    Keeps d (Dev.tag (Dev.mk e.regs e.shadow e.active e.free e.log e.held e.pwr e.cp e.ls e.gdma e.dram e.codec e.retiring e.scan e.col e.gate e.pseq e.sched e.bl e.cal e.rx e.wall e.mbox e.mgmt e.nv e.boot v e.flash e.xspi e.ticks)) ps rs := by
  rw [Dev.tag_eq]
  refine h.trans (Keeps.parts _ (fun p hq => ?_) rfl rfl rfl)
  cases p <;> first | rfl | exact ⟨rfl, rfl⟩ | exact fun _ => ⟨rfl, rfl⟩ | exact absurd hp hq

theorem Keeps.mk_flash {d e : Dev} {ps : List Part} {rs : List (Nat × Nat)} {v : Memory} (h : Keeps d e ps rs) (hp : .flash ∈ ps) :
    Keeps d (Dev.tag (Dev.mk e.regs e.shadow e.active e.free e.log e.held e.pwr e.cp e.ls e.gdma e.dram e.codec e.retiring e.scan e.col e.gate e.pseq e.sched e.bl e.cal e.rx e.wall e.mbox e.mgmt e.nv e.boot e.tap v e.xspi e.ticks)) ps rs := by
  rw [Dev.tag_eq]
  refine h.trans (Keeps.parts _ (fun p hq => ?_) rfl rfl rfl)
  cases p <;> first | rfl | exact ⟨rfl, rfl⟩ | exact fun _ => ⟨rfl, rfl⟩ | exact absurd hp hq

theorem Keeps.mk_xspi {d e : Dev} {ps : List Part} {rs : List (Nat × Nat)} {v : XspiState} (h : Keeps d e ps rs) (hp : .xspi ∈ ps) :
    Keeps d (Dev.tag (Dev.mk e.regs e.shadow e.active e.free e.log e.held e.pwr e.cp e.ls e.gdma e.dram e.codec e.retiring e.scan e.col e.gate e.pseq e.sched e.bl e.cal e.rx e.wall e.mbox e.mgmt e.nv e.boot e.tap e.flash v e.ticks)) ps rs := by
  rw [Dev.tag_eq]
  refine h.trans (Keeps.parts _ (fun p hq => ?_) rfl rfl rfl)
  cases p <;> first | rfl | exact ⟨rfl, rfl⟩ | exact fun _ => ⟨rfl, rfl⟩ | exact absurd hp hq

theorem Keeps.mk_ticks {d e : Dev} {ps : List Part} {rs : List (Nat × Nat)} {v : Nat} (h : Keeps d e ps rs) (hp : .ticks ∈ ps) :
    Keeps d (Dev.tag (Dev.mk e.regs e.shadow e.active e.free e.log e.held e.pwr e.cp e.ls e.gdma e.dram e.codec e.retiring e.scan e.col e.gate e.pseq e.sched e.bl e.cal e.rx e.wall e.mbox e.mgmt e.nv e.boot e.tap e.flash e.xspi v)) ps rs := by
  rw [Dev.tag_eq]
  refine h.trans (Keeps.parts _ (fun p hq => ?_) rfl rfl rfl)
  cases p <;> first | rfl | exact ⟨rfl, rfl⟩ | exact fun _ => ⟨rfl, rfl⟩ | exact absurd hp hq

/-! ### Parts listed by number -/

@[simp] theorem Dev.sink_setSink (d : Dev) (s k : Nat) (g : SinkState → SinkState) :
    (d.setSink s g).sink k = if k = s then g (d.sink s) else d.sink k := by
  simp only [Dev.sink, Dev.setSink, assoc_assocSet]
  split <;> rfl

@[simp] theorem Dev.boost_setBoost (d : Dev) (s k : Nat) (g : BoostState → BoostState) :
    (d.setBoost s g).boost k = if k = s then g (d.boost s) else d.boost k := by
  simp only [Dev.boost, Dev.setBoost, assoc_assocSet]
  split <;> rfl

@[simp] theorem Dev.ic_setIc (d : Dev) (s k : Nat) (g : IcState → IcState) :
    (d.setIc s g).ic k = if k = s then g (d.ic s) else d.ic k := by
  simp only [Dev.ic, Dev.setIc, assoc_assocSet]
  split <;> rfl

theorem assoc_map {α β : Type} (k : Nat) (g : α → β) (l : List (Nat × α)) :
    assoc k (l.map fun p => (p.1, g p.2)) = (assoc k l).map g := by
  induction l with
  | nil => rfl
  | cons p l ih =>
    obtain ⟨b, v⟩ := p
    simp only [List.map_cons, assoc, ih]
    split <;> rfl

/-- An event of one bit is set whatever its detail. -/
theorem Dev.raised_raise_flat (d : Dev) (e : Event) (k : Nat) (hw : e.wide = false) (h : e.reg.rws = 0)
    (hl : R.LOG_STATUS.at 0 ≠ e.reg.at 0) (hi : e.reg.has 0 = true) (hb : e.lo < 32) : (d.raise e k).raised e k = true :=
  Dev.raised_raise d e k h hl hi (by rw [hw]; exact hb)

/-- Raising an event clears no event of its register. -/
theorem Dev.raised_raise_mono (d : Dev) (e g : Event) (k l : Nat) (hr : g.reg = e.reg) (h : e.reg.rws = 0)
    (hl : R.LOG_STATUS.at 0 ≠ e.reg.at 0) (hi : e.reg.has 0 = true) (hg : g.lo + (if g.wide then l else 0) < 32)
    (ht : d.raised g l = true) : (d.raise e k).raised g l = true := by
  have h2 : (d.raise e k).rd e.reg 0 = (d.setEvent e k).rd e.reg 0 := by
    unfold Dev.raise Dev.raiseSev
    simp only
    split
    · exact Dev.rd_logHw _ _ _ _ hl
    · rfl
  unfold Dev.raised at ht ⊢
  rw [hr] at ht ⊢
  rw [h2, Dev.rd_setEvent_self d e k h hi]
  generalize g.lo + (if g.wide then l else 0) = n at hg ht ⊢
  have hp : (d.plainWord e.reg 0).testBit n = true := by
    simpa [bit, Dev.rd, h] using ht
  have : (0xFFFFFFFF : Nat).testBit n = true := by
    have := testBit_mask (show 0 < 2 ^ 32 by omega) (k := n)
    rw [Nat.sub_zero] at this
    rw [this]; simp [hg]
  rw [bit, Nat.testBit_and, Nat.testBit_mod_two_pow, putBit, testBit_putBits _ _ _ (Nat.le_refl _), this]
  simp only [hg, decide_true, Bool.true_and, Bool.and_true]
  generalize (e.lo + if e.wide then k else 0) = m
  split
  · rename_i hn
    have : n = m := Nat.le_antisymm hn.2 hn.1
    simp [this]
  · exact hp

@[simp] theorem Dev.wp_setWp (d : Dev) (s k : Nat) (g : WPort → WPort) :
    (d.setWp s g).wp k = if k = s then g (d.wp s) else d.wp k := by
  simp only [Dev.wp, Dev.setWp, assoc_assocSet]
  split <;> rfl

@[simp] theorem Dev.dale_setDale' (d : Dev) (k j : Nat) (g : DaleState → DaleState) :
    (d.setDale k g).dale j = if j = k then g (d.dale k) else d.dale j := Dev.dale_setDale d k j g

@[simp] theorem Dev.port_setPort (d : Dev) (p : Nat) (g : PortState → PortState) : (d.setPort p g).port p = g (d.port p) := by
  unfold Dev.setPort Dev.port
  split <;> simp_all

@[simp] theorem Dev.putWord_sink (d : Dev) (r : Reg) (i w : Nat) (x : Nat) : (d.putWord r i w).sink x = d.sink x := by
  simp only [Dev.sink, Dev.putWord_bl]
@[simp] theorem Dev.put_sink (d : Dev) (f : Field) (v i : Nat) (x : Nat) : (d.put f v i).sink x = d.sink x := by
  simp only [Dev.sink, Dev.put_bl]
@[simp] theorem Dev.putShadow_sink (d : Dev) (f : Field) (v i : Nat) (x : Nat) : (d.putShadow f v i).sink x = d.sink x := by
  simp only [Dev.sink, Dev.putShadow_bl]
@[simp] theorem Dev.flag_sink (d : Dev) (f : Field) (b : Bool) (i : Nat) (x : Nat) : (d.flag f b i).sink x = d.sink x := by
  simp only [Dev.sink, Dev.flag_bl]
@[simp] theorem Dev.inc_sink (d : Dev) (f : Field) (i n : Nat) (x : Nat) : (d.inc f i n).sink x = d.sink x := by
  simp only [Dev.sink, Dev.inc_bl]
@[simp] theorem Dev.incSat_sink (d : Dev) (f : Field) (i n : Nat) (x : Nat) : (d.incSat f i n).sink x = d.sink x := by
  simp only [Dev.sink, Dev.incSat_bl]
@[simp] theorem Dev.raise_sink (d : Dev) (e : Event) (k : Nat) (x : Nat) : (d.raise e k).sink x = d.sink x := by
  simp only [Dev.sink, Dev.raise_bl]
@[simp] theorem Dev.raiseIf_sink (d : Dev) (c : Bool) (e : Event) (k : Nat) (x : Nat) : (d.raiseIf c e k).sink x = d.sink x := by
  simp only [Dev.sink, Dev.raiseIf_bl]
@[simp] theorem Dev.putWord_boost (d : Dev) (r : Reg) (i w : Nat) (x : Nat) : (d.putWord r i w).boost x = d.boost x := by
  simp only [Dev.boost, Dev.putWord_bl]
@[simp] theorem Dev.put_boost (d : Dev) (f : Field) (v i : Nat) (x : Nat) : (d.put f v i).boost x = d.boost x := by
  simp only [Dev.boost, Dev.put_bl]
@[simp] theorem Dev.putShadow_boost (d : Dev) (f : Field) (v i : Nat) (x : Nat) : (d.putShadow f v i).boost x = d.boost x := by
  simp only [Dev.boost, Dev.putShadow_bl]
@[simp] theorem Dev.flag_boost (d : Dev) (f : Field) (b : Bool) (i : Nat) (x : Nat) : (d.flag f b i).boost x = d.boost x := by
  simp only [Dev.boost, Dev.flag_bl]
@[simp] theorem Dev.inc_boost (d : Dev) (f : Field) (i n : Nat) (x : Nat) : (d.inc f i n).boost x = d.boost x := by
  simp only [Dev.boost, Dev.inc_bl]
@[simp] theorem Dev.incSat_boost (d : Dev) (f : Field) (i n : Nat) (x : Nat) : (d.incSat f i n).boost x = d.boost x := by
  simp only [Dev.boost, Dev.incSat_bl]
@[simp] theorem Dev.raise_boost (d : Dev) (e : Event) (k : Nat) (x : Nat) : (d.raise e k).boost x = d.boost x := by
  simp only [Dev.boost, Dev.raise_bl]
@[simp] theorem Dev.raiseIf_boost (d : Dev) (c : Bool) (e : Event) (k : Nat) (x : Nat) : (d.raiseIf c e k).boost x = d.boost x := by
  simp only [Dev.boost, Dev.raiseIf_bl]
@[simp] theorem Dev.putWord_ic (d : Dev) (r : Reg) (i w : Nat) (x : Nat) : (d.putWord r i w).ic x = d.ic x := by
  simp only [Dev.ic, Dev.putWord_bl]
@[simp] theorem Dev.put_ic (d : Dev) (f : Field) (v i : Nat) (x : Nat) : (d.put f v i).ic x = d.ic x := by
  simp only [Dev.ic, Dev.put_bl]
@[simp] theorem Dev.putShadow_ic (d : Dev) (f : Field) (v i : Nat) (x : Nat) : (d.putShadow f v i).ic x = d.ic x := by
  simp only [Dev.ic, Dev.putShadow_bl]
@[simp] theorem Dev.flag_ic (d : Dev) (f : Field) (b : Bool) (i : Nat) (x : Nat) : (d.flag f b i).ic x = d.ic x := by
  simp only [Dev.ic, Dev.flag_bl]
@[simp] theorem Dev.inc_ic (d : Dev) (f : Field) (i n : Nat) (x : Nat) : (d.inc f i n).ic x = d.ic x := by
  simp only [Dev.ic, Dev.inc_bl]
@[simp] theorem Dev.incSat_ic (d : Dev) (f : Field) (i n : Nat) (x : Nat) : (d.incSat f i n).ic x = d.ic x := by
  simp only [Dev.ic, Dev.incSat_bl]
@[simp] theorem Dev.raise_ic (d : Dev) (e : Event) (k : Nat) (x : Nat) : (d.raise e k).ic x = d.ic x := by
  simp only [Dev.ic, Dev.raise_bl]
@[simp] theorem Dev.raiseIf_ic (d : Dev) (c : Bool) (e : Event) (k : Nat) (x : Nat) : (d.raiseIf c e k).ic x = d.ic x := by
  simp only [Dev.ic, Dev.raiseIf_bl]
@[simp] theorem Dev.putWord_dale (d : Dev) (r : Reg) (i w : Nat) (x : Nat) : (d.putWord r i w).dale x = d.dale x := by
  simp only [Dev.dale, Dev.putWord_sched]
@[simp] theorem Dev.put_dale (d : Dev) (f : Field) (v i : Nat) (x : Nat) : (d.put f v i).dale x = d.dale x := by
  simp only [Dev.dale, Dev.put_sched]
@[simp] theorem Dev.putShadow_dale (d : Dev) (f : Field) (v i : Nat) (x : Nat) : (d.putShadow f v i).dale x = d.dale x := by
  simp only [Dev.dale, Dev.putShadow_sched]
@[simp] theorem Dev.flag_dale (d : Dev) (f : Field) (b : Bool) (i : Nat) (x : Nat) : (d.flag f b i).dale x = d.dale x := by
  simp only [Dev.dale, Dev.flag_sched]
@[simp] theorem Dev.inc_dale (d : Dev) (f : Field) (i n : Nat) (x : Nat) : (d.inc f i n).dale x = d.dale x := by
  simp only [Dev.dale, Dev.inc_sched]
@[simp] theorem Dev.incSat_dale (d : Dev) (f : Field) (i n : Nat) (x : Nat) : (d.incSat f i n).dale x = d.dale x := by
  simp only [Dev.dale, Dev.incSat_sched]
@[simp] theorem Dev.raise_dale (d : Dev) (e : Event) (k : Nat) (x : Nat) : (d.raise e k).dale x = d.dale x := by
  simp only [Dev.dale, Dev.raise_sched]
@[simp] theorem Dev.raiseIf_dale (d : Dev) (c : Bool) (e : Event) (k : Nat) (x : Nat) : (d.raiseIf c e k).dale x = d.dale x := by
  simp only [Dev.dale, Dev.raiseIf_sched]
@[simp] theorem Dev.putWord_wp (d : Dev) (r : Reg) (i w : Nat) (x : Nat) : (d.putWord r i w).wp x = d.wp x := by
  simp only [Dev.wp, Dev.putWord_wall]
@[simp] theorem Dev.put_wp (d : Dev) (f : Field) (v i : Nat) (x : Nat) : (d.put f v i).wp x = d.wp x := by
  simp only [Dev.wp, Dev.put_wall]
@[simp] theorem Dev.putShadow_wp (d : Dev) (f : Field) (v i : Nat) (x : Nat) : (d.putShadow f v i).wp x = d.wp x := by
  simp only [Dev.wp, Dev.putShadow_wall]
@[simp] theorem Dev.flag_wp (d : Dev) (f : Field) (b : Bool) (i : Nat) (x : Nat) : (d.flag f b i).wp x = d.wp x := by
  simp only [Dev.wp, Dev.flag_wall]
@[simp] theorem Dev.inc_wp (d : Dev) (f : Field) (i n : Nat) (x : Nat) : (d.inc f i n).wp x = d.wp x := by
  simp only [Dev.wp, Dev.inc_wall]
@[simp] theorem Dev.incSat_wp (d : Dev) (f : Field) (i n : Nat) (x : Nat) : (d.incSat f i n).wp x = d.wp x := by
  simp only [Dev.wp, Dev.incSat_wall]
@[simp] theorem Dev.raise_wp (d : Dev) (e : Event) (k : Nat) (x : Nat) : (d.raise e k).wp x = d.wp x := by
  simp only [Dev.wp, Dev.raise_wall]
@[simp] theorem Dev.raiseIf_wp (d : Dev) (c : Bool) (e : Event) (k : Nat) (x : Nat) : (d.raiseIf c e k).wp x = d.wp x := by
  simp only [Dev.wp, Dev.raiseIf_wall]
@[simp] theorem Dev.putWord_port (d : Dev) (r : Reg) (i w : Nat) (x : Nat) : (d.putWord r i w).port x = d.port x := by
  simp only [Dev.port, Dev.putWord_rx]
@[simp] theorem Dev.put_port (d : Dev) (f : Field) (v i : Nat) (x : Nat) : (d.put f v i).port x = d.port x := by
  simp only [Dev.port, Dev.put_rx]
@[simp] theorem Dev.putShadow_port (d : Dev) (f : Field) (v i : Nat) (x : Nat) : (d.putShadow f v i).port x = d.port x := by
  simp only [Dev.port, Dev.putShadow_rx]
@[simp] theorem Dev.flag_port (d : Dev) (f : Field) (b : Bool) (i : Nat) (x : Nat) : (d.flag f b i).port x = d.port x := by
  simp only [Dev.port, Dev.flag_rx]
@[simp] theorem Dev.inc_port (d : Dev) (f : Field) (i n : Nat) (x : Nat) : (d.inc f i n).port x = d.port x := by
  simp only [Dev.port, Dev.inc_rx]
@[simp] theorem Dev.incSat_port (d : Dev) (f : Field) (i n : Nat) (x : Nat) : (d.incSat f i n).port x = d.port x := by
  simp only [Dev.port, Dev.incSat_rx]
@[simp] theorem Dev.raise_port (d : Dev) (e : Event) (k : Nat) (x : Nat) : (d.raise e k).port x = d.port x := by
  simp only [Dev.port, Dev.raise_rx]
@[simp] theorem Dev.raiseIf_port (d : Dev) (c : Bool) (e : Event) (k : Nat) (x : Nat) : (d.raiseIf c e k).port x = d.port x := by
  simp only [Dev.port, Dev.raiseIf_rx]
@[simp] theorem Dev.raised_setCp (d : Dev) (g : CpState → CpState) (e : Event) (k : Nat) : (d.setCp g).raised e k = d.raised e k := rfl
@[simp] theorem Dev.raised_setNv (d : Dev) (g : NvState → NvState) (e : Event) (k : Nat) : (d.setNv g).raised e k = d.raised e k := rfl
@[simp] theorem Dev.raised_setTap (d : Dev) (g : TapState → TapState) (e : Event) (k : Nat) : (d.setTap g).raised e k = d.raised e k := rfl
@[simp] theorem Dev.raised_setMgmt (d : Dev) (g : MgmtState → MgmtState) (e : Event) (k : Nat) : (d.setMgmt g).raised e k = d.raised e k := rfl
@[simp] theorem Dev.raised_setBoot (d : Dev) (g : BootState → BootState) (e : Event) (k : Nat) : (d.setBoot g).raised e k = d.raised e k := rfl
@[simp] theorem Dev.raised_setPwr (d : Dev) (g : PwrState → PwrState) (e : Event) (k : Nat) : (d.setPwr g).raised e k = d.raised e k := rfl
@[simp] theorem Dev.raised_setScan (d : Dev) (g : ScanState → ScanState) (e : Event) (k : Nat) : (d.setScan g).raised e k = d.raised e k := rfl
@[simp] theorem Dev.raised_setPseq (d : Dev) (g : PseqState → PseqState) (e : Event) (k : Nat) : (d.setPseq g).raised e k = d.raised e k := rfl
@[simp] theorem Dev.raised_updWall (d : Dev) (g : WallState → WallState) (e : Event) (k : Nat) : (d.updWall g).raised e k = d.raised e k := rfl
@[simp] theorem Dev.raised_setWp (d : Dev) (p : Nat) (g : WPort → WPort) (e : Event) (k : Nat) : (d.setWp p g).raised e k = d.raised e k := rfl
@[simp] theorem Dev.raised_setDale (d : Dev) (p : Nat) (g : DaleState → DaleState) (e : Event) (k : Nat) : (d.setDale p g).raised e k = d.raised e k := rfl
@[simp] theorem Dev.raised_setSink (d : Dev) (p : Nat) (g : SinkState → SinkState) (e : Event) (k : Nat) : (d.setSink p g).raised e k = d.raised e k := rfl
@[simp] theorem Dev.raised_setBoost (d : Dev) (p : Nat) (g : BoostState → BoostState) (e : Event) (k : Nat) : (d.setBoost p g).raised e k = d.raised e k := rfl
@[simp] theorem Dev.raised_setIc (d : Dev) (p : Nat) (g : IcState → IcState) (e : Event) (k : Nat) : (d.setIc p g).raised e k = d.raised e k := rfl
@[simp] theorem Dev.raised_setPort (d : Dev) (p : Nat) (g : PortState → PortState) (e : Event) (k : Nat) :
    (d.setPort p g).raised e k = d.raised e k := by
  unfold Dev.setPort; split <;> rfl
end Sys2Proof.Machine
end

