-- ==== Sys2Proof/Laws/FootOps.lean ====
section
/-! SUPPORT.  Footprints of the functions of `Machine/Ops.lean` (see `Keep.lean`): what each leaves alone. -/

set_option Elab.async false
set_option linter.all false

namespace Sys2Proof.Machine

theorem Foot.fresh {e d : Dev} {pm rm : Nat} (h : K e d pm rm) (hp : sub 0x1 pm = true)
    (hr : sub 0x0 rm = true) : K e (Dev.fresh d).2 pm rm := by
  refine K.lift h hp hr ?_
  clear h hp hr
  unfold Dev.fresh
  all_goals repeat' first
    | with_reducible exact K.refl _ _ _
    | with_reducible assumption
    | with_reducible apply K.ite
    | ((with_reducible apply K.foldl); rotate_left; intro d x h; rotate_right)
    | ((with_reducible apply K.foldlFst); rotate_left; intro x y h; rotate_right)
    | ((with_reducible apply K.foldlSnd); rotate_left; intro x y h; rotate_right)
    | with_reducible apply K.fst_ite
    | with_reducible apply K.cond
    | with_reducible refine K.of_fst ?_ (by assumption)
    | with_reducible refine K.of_snd ?_ (by assumption)
    | (split)
    | dsimp only
    | (rw [Dev.mk_tag]; (with_reducible apply K.mk_free); rotate_left; decide)
    | (rw [Dev.mk_tag]; (with_reducible apply K.mkT); rotate_left; (intro p hq; cases p <;> first | exact absurd hq (by decide) | rfl | exact ⟨rfl, rfl⟩ | exact fun _ => ⟨rfl, rfl⟩); exact fun w => w)

end Sys2Proof.Machine
end

