-- ==== Sys2Proof/Laws/FootDomains.lean ====
section
/-! SUPPORT.  Footprints of the functions of `Machine/Domains.lean` (see `Keep.lean`): what each leaves alone. -/

set_option Elab.async false
set_option linter.all false

namespace Sys2Proof.Machine

theorem Foot.vregRequest {e d : Dev} {pm rm : Nat} {rail : Nat} {target : Nat} {why : VWhy} (h : K e d pm rm) (hp : sub 0x8 pm = true)
    (hr : sub 0x0 rm = true) : K e (Dev.vregRequest d rail target why) pm rm := by
  refine K.lift h hp hr ?_
  clear h hp hr
  unfold Dev.vregRequest
  extract_lets x1
  clear_value (g1 : x1 = _)
  subst g1
  all_goals repeat' first
    | with_reducible exact K.refl _ _ _
    | with_reducible assumption
    | with_reducible apply K.ite
    | ((with_reducible apply K.foldl); rotate_left; intro d x h; rotate_right)
    | ((with_reducible apply K.foldlFst); rotate_left; intro x y h; rotate_right)
    | ((with_reducible apply K.foldlSnd); rotate_left; intro x y h; rotate_right)
    | with_reducible apply K.fst_ite
    | with_reducible apply K.cond
    | with_reducible refine K.of_fst ?_ (by assumption)
    | with_reducible refine K.of_snd ?_ (by assumption)
    | (split)
    | dsimp only
    | (rw [Dev.mk_tag]; (with_reducible apply K.mk_pwr); rotate_left; decide)
    | (rw [Dev.mk_tag]; (with_reducible apply K.mkT); rotate_left; (intro p hq; cases p <;> first | exact absurd hq (by decide) | rfl | exact ⟨rfl, rfl⟩ | exact fun _ => ⟨rfl, rfl⟩); exact fun w => w)

theorem Foot.raiseForWake {e d : Dev} {pm rm : Nat} (h : K e d pm rm) (hp : sub 0x8 pm = true)
    (hr : sub 0x0 rm = true) : K e (Dev.raiseForWake d) pm rm := by
  refine K.lift h hp hr ?_
  clear h hp hr
  unfold Dev.raiseForWake
  all_goals repeat' first
    | with_reducible exact K.refl _ _ _
    | with_reducible assumption
    | ((with_reducible apply Foot.vregRequest); rotate_left; decide; decide)
    | with_reducible apply K.ite
    | ((with_reducible apply K.foldl); rotate_left; intro d x h; rotate_right)
    | ((with_reducible apply K.foldlFst); rotate_left; intro x y h; rotate_right)
    | ((with_reducible apply K.foldlSnd); rotate_left; intro x y h; rotate_right)
    | with_reducible apply K.fst_ite
    | with_reducible apply K.cond
    | with_reducible refine K.of_fst ?_ (by assumption)
    | with_reducible refine K.of_snd ?_ (by assumption)
    | (split)
    | dsimp only
    | (rw [Dev.mk_tag]; (with_reducible apply K.mk_pwr); rotate_left; decide)
    | (rw [Dev.mk_tag]; (with_reducible apply K.mkT); rotate_left; (intro p hq; cases p <;> first | exact absurd hq (by decide) | rfl | exact ⟨rfl, rfl⟩ | exact fun _ => ⟨rfl, rfl⟩); exact fun w => w)

theorem Foot.startWake {e d : Dev} {pm rm : Nat} {k0 : Nat} (h : K e d pm rm) (hp : sub 0x8 pm = true)
    (hr : sub 0x80000000000000000000000000000000000000000000000000000000000000000000000 rm = true) : K e (Dev.startWake d k0) pm rm := by
  refine K.lift h hp hr ?_
  clear h hp hr
  unfold Dev.startWake
  extract_lets x1
  clear_value (g1 : x1 = _)
  subst g1
  all_goals repeat' first
    | with_reducible exact K.refl _ _ _
    | with_reducible assumption
    | ((with_reducible apply K.put); rotate_left; (first | assumption | exact R.mem_DOM_STATUS); decide)
    | ((with_reducible apply K.inc); rotate_left; (first | assumption | exact R.mem_DOM_STATUS); decide)
    | ((with_reducible apply Foot.raiseForWake); rotate_left; decide; decide)
    | with_reducible apply K.ite
    | ((with_reducible apply K.foldl); rotate_left; intro d x h; rotate_right)
    | ((with_reducible apply K.foldlFst); rotate_left; intro x y h; rotate_right)
    | ((with_reducible apply K.foldlSnd); rotate_left; intro x y h; rotate_right)
    | with_reducible apply K.fst_ite
    | with_reducible apply K.cond
    | with_reducible refine K.of_fst ?_ (by assumption)
    | with_reducible refine K.of_snd ?_ (by assumption)
    | (split)
    | dsimp only
    | (rw [Dev.mk_tag]; (with_reducible apply K.mk_pwr); rotate_left; decide)
    | (rw [Dev.mk_tag]; (with_reducible apply K.mkT); rotate_left; (intro p hq; cases p <;> first | exact absurd hq (by decide) | rfl | exact ⟨rfl, rfl⟩ | exact fun _ => ⟨rfl, rfl⟩); exact fun w => w)

theorem Foot.wakeNow {e d : Dev} {pm rm : Nat} {k0 : Nat} (h : K e d pm rm) (hp : sub 0x0 pm = true)
    (hr : sub 0x80000000000000000000000000000000000000000000000000000000000000000000000 rm = true) : K e (Dev.wakeNow d k0) pm rm := by
  refine K.lift h hp hr ?_
  clear h hp hr
  unfold Dev.wakeNow
  all_goals repeat' first
    | with_reducible exact K.refl _ _ _
    | with_reducible assumption
    | ((with_reducible apply K.put); rotate_left; (first | assumption | exact R.mem_DOM_STATUS); decide)
    | ((with_reducible apply K.inc); rotate_left; (first | assumption | exact R.mem_DOM_STATUS); decide)
    | with_reducible apply K.ite
    | ((with_reducible apply K.foldl); rotate_left; intro d x h; rotate_right)
    | ((with_reducible apply K.foldlFst); rotate_left; intro x y h; rotate_right)
    | ((with_reducible apply K.foldlSnd); rotate_left; intro x y h; rotate_right)
    | with_reducible apply K.fst_ite
    | with_reducible apply K.cond
    | with_reducible refine K.of_fst ?_ (by assumption)
    | with_reducible refine K.of_snd ?_ (by assumption)
    | (split)
    | dsimp only
    | (rw [Dev.mk_tag]; (with_reducible apply K.mkT); rotate_left; (intro p hq; cases p <;> first | exact absurd hq (by decide) | rfl | exact ⟨rfl, rfl⟩ | exact fun _ => ⟨rfl, rfl⟩); exact fun w => w)

theorem Foot.stall {e d : Dev} {pm rm : Nat} {a : BusAcc} {doms : List Nat} (h : K e d pm rm) (hp : sub 0x8 pm = true)
    (hr : sub 0x80000000000000000000000000000000000000000000000000000000000000000000000 rm = true) : K e (Dev.stall d a doms) pm rm := by
  refine K.lift h hp hr ?_
  clear h hp hr
  unfold Dev.stall
  extract_lets x1
  clear_value (g1 : x1 = _)
  subst g1
  all_goals repeat' first
    | with_reducible exact K.refl _ _ _
    | with_reducible assumption
    | ((with_reducible apply Foot.startWake); rotate_left; decide; decide)
    | with_reducible apply K.ite
    | ((with_reducible apply K.each); rotate_left; intro d x h; rotate_right)
    | ((with_reducible apply K.foldl); rotate_left; intro d x h; rotate_right)
    | ((with_reducible apply K.foldlFst); rotate_left; intro x y h; rotate_right)
    | ((with_reducible apply K.foldlSnd); rotate_left; intro x y h; rotate_right)
    | with_reducible apply K.fst_ite
    | with_reducible apply K.cond
    | with_reducible refine K.of_fst ?_ (by assumption)
    | with_reducible refine K.of_snd ?_ (by assumption)
    | (split)
    | dsimp only
    | (rw [Dev.mk_tag]; (with_reducible apply K.mk_pwr); rotate_left; decide)
    | (rw [Dev.mk_tag]; (with_reducible apply K.mkT); rotate_left; (intro p hq; cases p <;> first | exact absurd hq (by decide) | rfl | exact ⟨rfl, rfl⟩ | exact fun _ => ⟨rfl, rfl⟩); exact fun w => w)

theorem Foot.startDown {e d : Dev} {pm rm : Nat} {k0 : Nat} (h : K e d pm rm) (hp : sub 0x0 pm = true)
    (hr : sub 0x80000000000000000000000000000000000000000000000000000000000000000000000 rm = true) : K e (Dev.startDown d k0) pm rm := by
  refine K.lift h hp hr ?_
  clear h hp hr
  unfold Dev.startDown
  all_goals repeat' first
    | with_reducible exact K.refl _ _ _
    | with_reducible assumption
    | ((with_reducible apply K.put); rotate_left; (first | assumption | exact R.mem_DOM_STATUS); decide)
    | with_reducible apply K.ite
    | ((with_reducible apply K.foldl); rotate_left; intro d x h; rotate_right)
    | ((with_reducible apply K.foldlFst); rotate_left; intro x y h; rotate_right)
    | ((with_reducible apply K.foldlSnd); rotate_left; intro x y h; rotate_right)
    | with_reducible apply K.fst_ite
    | with_reducible apply K.cond
    | with_reducible refine K.of_fst ?_ (by assumption)
    | with_reducible refine K.of_snd ?_ (by assumption)
    | (split)
    | dsimp only
    | (rw [Dev.mk_tag]; (with_reducible apply K.mkT); rotate_left; (intro p hq; cases p <;> first | exact absurd hq (by decide) | rfl | exact ⟨rfl, rfl⟩ | exact fun _ => ⟨rfl, rfl⟩); exact fun w => w)

theorem Foot.viaDomain {e d : Dev} {pm rm : Nat} {k0 : Nat} {a : Nat} {w : Nat} {f : Dev → Dev} (h : K e d pm rm) (hp : sub 0x8 pm = true)
    (hr : sub 0x80000000000000000000000000000000000000000000000000000000000000000000000 rm = true) (hf_f : ∀ d', K e d' pm rm → K e (f d') pm rm) : K e (Dev.viaDomain d k0 a w f) pm rm := by
  unfold Dev.viaDomain
  all_goals repeat' first
    | with_reducible apply hf_f
    | with_reducible exact K.refl _ _ _
    | with_reducible assumption
    | ((with_reducible apply Foot.stall); rotate_left; (first | decide | assumption | exact sub_trans (by decide) hp | exact sub_trans (by decide) hr | exact sub_testBit' hp (by decide) | exact sub_testBit' hr (by decide)); (first | decide | assumption | exact sub_trans (by decide) hp | exact sub_trans (by decide) hr | exact sub_testBit' hp (by decide) | exact sub_testBit' hr (by decide)))
    | with_reducible apply K.ite
    | ((with_reducible apply K.foldl); rotate_left; intro d x h; rotate_right)
    | ((with_reducible apply K.foldlFst); rotate_left; intro x y h; rotate_right)
    | ((with_reducible apply K.foldlSnd); rotate_left; intro x y h; rotate_right)
    | with_reducible apply K.fst_ite
    | with_reducible apply K.cond
    | with_reducible refine K.of_fst ?_ (by assumption)
    | with_reducible refine K.of_snd ?_ (by assumption)
    | (split)
    | dsimp only
    | (rw [Dev.mk_tag]; (with_reducible apply K.mk_pwr); rotate_left; (first | decide | assumption | exact sub_trans (by decide) hp | exact sub_trans (by decide) hr | exact sub_testBit' hp (by decide) | exact sub_testBit' hr (by decide)))
    | (rw [Dev.mk_tag]; (with_reducible apply K.mkT); rotate_left; (intro p hq; cases p <;> first | exact absurd hq (by (first | decide | assumption | exact sub_trans (by decide) hp | exact sub_trans (by decide) hr | exact sub_testBit' hp (by decide) | exact sub_testBit' hr (by decide))) | rfl | exact ⟨rfl, rfl⟩ | exact fun _ => ⟨rfl, rfl⟩); exact fun w => w)

theorem Foot.startExit {e d : Dev} {pm rm : Nat} {src : Nat} {detail : Nat} (h : K e d pm rm) (hp : sub 0x8 pm = true)
    (hr : sub 0x80007100000000000000080000000000000000000000000000000000000000000000000 rm = true) : K e (Dev.startExit d src detail) pm rm := by
  refine K.lift h hp hr ?_
  clear h hp hr
  unfold Dev.startExit
  extract_lets x1 x2 x3 x4 x5 x6
  clear_value (g1 : x1 = _) (g2 : x2 = _) (g3 : x3 = _) (g4 : x4 = _) (g5 : x5 = _) (g6 : x6 = _)
  clear g1
  refine K.cutEq d 0x8 0x80007100000000000000080000000000000000000000000000000000000000000000000 g2 ?_ (fun h2 => ?_)
  rotate_left
  clear g2
  refine K.cutEq d 0x8 0x80007100000000000000080000000000000000000000000000000000000000000000000 g3 ?_ (fun h3 => ?_)
  rotate_left
  clear g3
  subst g4
  refine K.cutEq d 0x8 0x80007100000000000000080000000000000000000000000000000000000000000000000 g5 ?_ (fun h5 => ?_)
  rotate_left
  clear g5
  refine K.cutEq d 0x8 0x80007100000000000000080000000000000000000000000000000000000000000000000 g6 ?_ (fun h6 => ?_)
  rotate_left
  clear g6
  all_goals repeat' first
    | with_reducible exact K.refl _ _ _
    | with_reducible assumption
    | ((with_reducible apply K.put); rotate_left; (first | assumption | exact R.mem_CAL_SEC | exact R.mem_CAL_SUB | exact R.mem_DRAM_CH_STATUS | exact R.mem_LAST_WAKE | exact R.mem_LAST_WAKE_SEC | exact R.mem_LAST_WAKE_SUB | exact R.mem_PWR_STATE); decide)
    | ((with_reducible apply K.inc); rotate_left; (first | assumption | exact R.mem_CAL_SEC | exact R.mem_CAL_SUB | exact R.mem_DRAM_CH_STATUS | exact R.mem_LAST_WAKE | exact R.mem_LAST_WAKE_SEC | exact R.mem_LAST_WAKE_SUB | exact R.mem_PWR_STATE); decide)
    | ((with_reducible apply Foot.startWake); rotate_left; decide; decide)
    | ((with_reducible apply Foot.vregRequest); rotate_left; decide; decide)
    | with_reducible apply K.ite
    | ((with_reducible apply K.each); rotate_left; intro d x h; rotate_right)
    | ((with_reducible apply K.foldl); rotate_left; intro d x h; rotate_right)
    | ((with_reducible apply K.foldlFst); rotate_left; intro x y h; rotate_right)
    | ((with_reducible apply K.foldlSnd); rotate_left; intro x y h; rotate_right)
    | with_reducible apply K.fst_ite
    | with_reducible apply K.cond
    | with_reducible refine K.of_fst ?_ (by assumption)
    | with_reducible refine K.of_snd ?_ (by assumption)
    | (split)
    | dsimp only
    | (rw [Dev.mk_tag]; (with_reducible apply K.mk_pwr); rotate_left; decide)
    | (rw [Dev.mk_tag]; (with_reducible apply K.mkT); rotate_left; (intro p hq; cases p <;> first | exact absurd hq (by decide) | rfl | exact ⟨rfl, rfl⟩ | exact fun _ => ⟨rfl, rfl⟩); exact fun w => w)

theorem Foot.abandonFallow {e d : Dev} {pm rm : Nat} (h : K e d pm rm) (hp : sub 0x8 pm = true)
    (hr : sub 0x80000100000000000000080000000000000000000000000000000000000000000000000 rm = true) : K e (Dev.abandonFallow d) pm rm := by
  refine K.lift h hp hr ?_
  clear h hp hr
  unfold Dev.abandonFallow
  extract_lets x1 x2 x3
  clear_value (g1 : x1 = _) (g2 : x2 = _) (g3 : x3 = _)
  refine K.cutEq d 0x8 0x80000100000000000000080000000000000000000000000000000000000000000000000 g1 ?_ (fun h1 => ?_)
  rotate_left
  clear g1
  refine K.cutEq d 0x8 0x80000100000000000000080000000000000000000000000000000000000000000000000 g2 ?_ (fun h2 => ?_)
  rotate_left
  clear g2
  subst g3
  all_goals repeat' first
    | with_reducible exact K.refl _ _ _
    | with_reducible assumption
    | ((with_reducible apply K.put); rotate_left; (first | assumption | exact R.mem_DRAM_CH_STATUS | exact R.mem_PWR_STATE); decide)
    | ((with_reducible apply Foot.startWake); rotate_left; decide; decide)
    | with_reducible apply K.ite
    | ((with_reducible apply K.each); rotate_left; intro d x h; rotate_right)
    | ((with_reducible apply K.foldl); rotate_left; intro d x h; rotate_right)
    | ((with_reducible apply K.foldlFst); rotate_left; intro x y h; rotate_right)
    | ((with_reducible apply K.foldlSnd); rotate_left; intro x y h; rotate_right)
    | with_reducible apply K.fst_ite
    | with_reducible apply K.cond
    | with_reducible refine K.of_fst ?_ (by assumption)
    | with_reducible refine K.of_snd ?_ (by assumption)
    | (split)
    | dsimp only
    | (rw [Dev.mk_tag]; (with_reducible apply K.mk_pwr); rotate_left; decide)
    | (rw [Dev.mk_tag]; (with_reducible apply K.mkT); rotate_left; (intro p hq; cases p <;> first | exact absurd hq (by decide) | rfl | exact ⟨rfl, rfl⟩ | exact fun _ => ⟨rfl, rfl⟩); exact fun w => w)

theorem Foot.actWake {e d : Dev} {pm rm : Nat} {src : Nat} {detail : Nat} (h : K e d pm rm) (hp : sub 0x8 pm = true)
    (hr : sub 0x80007100000000000000080000000000000000000000000000000000000000000000000 rm = true) : K e (Dev.actWake d src detail) pm rm := by
  refine K.lift h hp hr ?_
  clear h hp hr
  unfold Dev.actWake
  extract_lets x1
  clear_value (g1 : x1 = _)
  subst g1
  all_goals repeat' first
    | with_reducible exact K.refl _ _ _
    | with_reducible assumption
    | ((with_reducible apply Foot.startExit); rotate_left; decide; decide)
    | ((with_reducible apply Foot.abandonFallow); rotate_left; decide; decide)
    | with_reducible apply K.ite
    | ((with_reducible apply K.foldl); rotate_left; intro d x h; rotate_right)
    | ((with_reducible apply K.foldlFst); rotate_left; intro x y h; rotate_right)
    | ((with_reducible apply K.foldlSnd); rotate_left; intro x y h; rotate_right)
    | with_reducible apply K.fst_ite
    | with_reducible apply K.cond
    | with_reducible refine K.of_fst ?_ (by assumption)
    | with_reducible refine K.of_snd ?_ (by assumption)
    | (split)
    | dsimp only
    | (rw [Dev.mk_tag]; (with_reducible apply K.mk_pwr); rotate_left; decide)
    | (rw [Dev.mk_tag]; (with_reducible apply K.mkT); rotate_left; (intro p hq; cases p <;> first | exact absurd hq (by decide) | rfl | exact ⟨rfl, rfl⟩ | exact fun _ => ⟨rfl, rfl⟩); exact fun w => w)

theorem Foot.latchWake {e d : Dev} {pm rm : Nat} {src : Nat} {detail : Nat} (h : K e d pm rm) (hp : sub 0xa pm = true)
    (hr : sub 0x88007900000000000000080000000000000000000000000000000000000000000080000 rm = true) : K e (Dev.latchWake d src detail) pm rm := by
  refine K.lift h hp hr ?_
  clear h hp hr
  unfold Dev.latchWake
  extract_lets x1
  clear_value (g1 : x1 = _)
  refine K.cutEq d 0xa 0x88007900000000000000080000000000000000000000000000000000000000000080000 g1 ?_ (fun h1 => ?_)
  rotate_left
  clear g1
  all_goals repeat' first
    | with_reducible exact K.refl _ _ _
    | with_reducible assumption
    | ((with_reducible apply K.put); rotate_left; (first | assumption | exact R.mem_PWR_EVENT | exact R.mem_WAKE_EN | exact R.mem_WAKE_PENDING); decide)
    | ((with_reducible apply K.raise); rotate_left; (first | assumption | exact R.mem_PWR_EVENT | exact R.mem_WAKE_EN | exact R.mem_WAKE_PENDING); decide; decide; decide)
    | ((with_reducible apply Foot.actWake); rotate_left; decide; decide)
    | with_reducible apply K.ite
    | ((with_reducible apply K.foldl); rotate_left; intro d x h; rotate_right)
    | ((with_reducible apply K.foldlFst); rotate_left; intro x y h; rotate_right)
    | ((with_reducible apply K.foldlSnd); rotate_left; intro x y h; rotate_right)
    | with_reducible apply K.fst_ite
    | with_reducible apply K.cond
    | with_reducible refine K.of_fst ?_ (by assumption)
    | with_reducible refine K.of_snd ?_ (by assumption)
    | (split)
    | dsimp only
    | (rw [Dev.mk_tag]; (with_reducible apply K.mk_log); rotate_left; decide)
    | (rw [Dev.mk_tag]; (with_reducible apply K.mk_pwr); rotate_left; decide)
    | (rw [Dev.mk_tag]; (with_reducible apply K.mkT); rotate_left; (intro p hq; cases p <;> first | exact absurd hq (by decide) | rfl | exact ⟨rfl, rfl⟩ | exact fun _ => ⟨rfl, rfl⟩); exact fun w => w)

theorem Foot.cause {e d : Dev} {pm rm : Nat} {c : Nat} (h : K e d pm rm) (hp : sub 0x400 pm = true)
    (hr : sub 0x0 rm = true) : K e (Dev.cause d c) pm rm := by
  refine K.lift h hp hr ?_
  clear h hp hr
  unfold Dev.cause
  extract_lets x1
  clear_value (g1 : x1 = _)
  subst g1
  all_goals repeat' first
    | with_reducible exact K.refl _ _ _
    | with_reducible assumption
    | with_reducible apply K.ite
    | ((with_reducible apply K.foldl); rotate_left; intro d x h; rotate_right)
    | ((with_reducible apply K.foldlFst); rotate_left; intro x y h; rotate_right)
    | ((with_reducible apply K.foldlSnd); rotate_left; intro x y h; rotate_right)
    | with_reducible apply K.fst_ite
    | with_reducible apply K.cond
    | with_reducible refine K.of_fst ?_ (by assumption)
    | with_reducible refine K.of_snd ?_ (by assumption)
    | (split)
    | dsimp only
    | (rw [Dev.mk_tag]; (with_reducible apply K.mk_scan); rotate_left; decide)
    | (rw [Dev.mk_tag]; (with_reducible apply K.mkT); rotate_left; (intro p hq; cases p <;> first | exact absurd hq (by decide) | rfl | exact ⟨rfl, rfl⟩ | exact fun _ => ⟨rfl, rfl⟩); exact fun w => w)

theorem Foot.clearFallow {e d : Dev} {pm rm : Nat} (h : K e d pm rm) (hp : sub 0x40a pm = true)
    (hr : sub 0x88007900000000000000080000000000000000000000000000000000000080000080000 rm = true) : K e (Dev.clearFallow d) pm rm := by
  refine K.lift h hp hr ?_
  clear h hp hr
  unfold Dev.clearFallow
  extract_lets x1
  clear_value (g1 : x1 = _)
  refine K.cutEq d 0x40a 0x88007900000000000000080000000000000000000000000000000000000080000080000 g1 ?_ (fun h1 => ?_)
  rotate_left
  clear g1
  all_goals repeat' first
    | with_reducible exact K.refl _ _ _
    | with_reducible assumption
    | ((with_reducible apply K.put); rotate_left; (first | assumption | exact R.mem_COMP_CTRL); decide)
    | ((with_reducible apply Foot.cause); rotate_left; decide; decide)
    | ((with_reducible apply Foot.latchWake); rotate_left; decide; decide)
    | with_reducible apply K.ite
    | ((with_reducible apply K.foldl); rotate_left; intro d x h; rotate_right)
    | ((with_reducible apply K.foldlFst); rotate_left; intro x y h; rotate_right)
    | ((with_reducible apply K.foldlSnd); rotate_left; intro x y h; rotate_right)
    | with_reducible apply K.fst_ite
    | with_reducible apply K.cond
    | with_reducible refine K.of_fst ?_ (by assumption)
    | with_reducible refine K.of_snd ?_ (by assumption)
    | (split)
    | dsimp only
    | (rw [Dev.mk_tag]; (with_reducible apply K.mk_log); rotate_left; decide)
    | (rw [Dev.mk_tag]; (with_reducible apply K.mk_pwr); rotate_left; decide)
    | (rw [Dev.mk_tag]; (with_reducible apply K.mk_scan); rotate_left; decide)
    | (rw [Dev.mk_tag]; (with_reducible apply K.mkT); rotate_left; (intro p hq; cases p <;> first | exact absurd hq (by decide) | rfl | exact ⟨rfl, rfl⟩ | exact fun _ => ⟨rfl, rfl⟩); exact fun w => w)

end Sys2Proof.Machine
end

