-- ==== Sys2Proof/Laws/FootLineStore.lean ====
section
/-! SUPPORT.  Footprints of the functions of `Machine/LineStore.lean` (see `Keep.lean`): what each leaves alone. -/

set_option Elab.async false
set_option linter.all false

namespace Sys2Proof.Machine

theorem Foot.lsAbortTest {e d : Dev} {pm rm : Nat} (h : K e d pm rm) (hp : sub 0x22 pm = true)
    (hr : sub 0x8800000000000000000000000000000000000080000 rm = true) : K e (Dev.lsAbortTest d) pm rm := by
  refine K.lift h hp hr ?_
  clear h hp hr
  unfold Dev.lsAbortTest
  extract_lets x1
  clear_value (g1 : x1 = _)
  subst g1
  all_goals repeat' first
    | with_reducible exact K.refl _ _ _
    | with_reducible assumption
    | ((with_reducible apply K.inc); rotate_left; (first | assumption | exact R.mem_LS_EVENT | exact R.mem_LS_TEST_SKIP_COUNT); decide)
    | ((with_reducible apply K.raise); rotate_left; (first | assumption | exact R.mem_LS_EVENT | exact R.mem_LS_TEST_SKIP_COUNT); decide; decide; decide)
    | with_reducible apply K.ite
    | ((with_reducible apply K.foldl); rotate_left; intro d x h; rotate_right)
    | ((with_reducible apply K.foldlFst); rotate_left; intro x y h; rotate_right)
    | ((with_reducible apply K.foldlSnd); rotate_left; intro x y h; rotate_right)
    | with_reducible apply K.fst_ite
    | with_reducible apply K.cond
    | with_reducible refine K.of_fst ?_ (by assumption)
    | with_reducible refine K.of_snd ?_ (by assumption)
    | (split)
    | dsimp only
    | (rw [Dev.mk_tag]; (with_reducible apply K.mk_log); rotate_left; decide)
    | (rw [Dev.mk_tag]; (with_reducible apply K.mk_ls); rotate_left; decide; (first | exact .inl rfl | exact .inl ⟨rfl, rfl⟩ | exact .inr ⟨by decide, by (intro w; first | exact w | exact Memory.wf_write _ _ w | exact Memory.wf_clear _ _ w | exact Memory.wf_filter _ w | exact Memory.wf_set _ _ w)⟩))
    | (rw [Dev.mk_tag]; (with_reducible apply K.mkT); rotate_left; (intro p hq; cases p <;> first | exact absurd hq (by decide) | rfl | exact ⟨rfl, rfl⟩ | exact fun _ => ⟨rfl, rfl⟩); exact fun w => w)

theorem Foot.lsMeetTest {e d : Dev} {pm rm : Nat} {p : Nat} {w : Nat} (h : K e d pm rm) (hp : sub 0x22 pm = true)
    (hr : sub 0x8800000000000000000000000000000000000080000 rm = true) : K e (Dev.lsMeetTest d p w) pm rm := by
  refine K.lift h hp hr ?_
  clear h hp hr
  unfold Dev.lsMeetTest
  all_goals repeat' first
    | with_reducible exact K.refl _ _ _
    | with_reducible assumption
    | ((with_reducible apply Foot.lsAbortTest); rotate_left; decide; decide)
    | with_reducible apply K.ite
    | ((with_reducible apply K.foldl); rotate_left; intro d x h; rotate_right)
    | ((with_reducible apply K.foldlFst); rotate_left; intro x y h; rotate_right)
    | ((with_reducible apply K.foldlSnd); rotate_left; intro x y h; rotate_right)
    | with_reducible apply K.fst_ite
    | with_reducible apply K.cond
    | with_reducible refine K.of_fst ?_ (by assumption)
    | with_reducible refine K.of_snd ?_ (by assumption)
    | (split)
    | dsimp only
    | (rw [Dev.mk_tag]; (with_reducible apply K.mk_log); rotate_left; decide)
    | (rw [Dev.mk_tag]; (with_reducible apply K.mk_ls); rotate_left; decide; (first | exact .inl rfl | exact .inl ⟨rfl, rfl⟩ | exact .inr ⟨by decide, by (intro w; first | exact w | exact Memory.wf_write _ _ w | exact Memory.wf_clear _ _ w | exact Memory.wf_filter _ w | exact Memory.wf_set _ _ w)⟩))
    | (rw [Dev.mk_tag]; (with_reducible apply K.mkT); rotate_left; (intro p hq; cases p <;> first | exact absurd hq (by decide) | rfl | exact ⟨rfl, rfl⟩ | exact fun _ => ⟨rfl, rfl⟩); exact fun w => w)

theorem Foot.lsRetCheck {e d : Dev} {pm rm : Nat} {k0 : Nat} (h : K e d pm rm) (hp : sub 0x2 pm = true)
    (hr : sub 0x2800800000000000000000000000000000000000080000 rm = true) : K e (Dev.lsRetCheck d k0) pm rm := by
  refine K.lift h hp hr ?_
  clear h hp hr
  unfold Dev.lsRetCheck
  extract_lets x1 x2
  clear_value (g1 : x1 = _) (g2 : x2 = _)
  clear g1
  refine K.cutEq d 0x2 0x2800800000000000000000000000000000000000080000 g2 ?_ (fun h2 => ?_)
  rotate_left
  clear g2
  all_goals repeat' first
    | with_reducible exact K.refl _ _ _
    | with_reducible assumption
    | ((with_reducible apply K.put); rotate_left; (first | assumption | exact R.mem_LS_BANK_STATUS | exact R.mem_LS_EVENT | exact R.mem_LS_EVENT_INFO | exact R.mem_LS_RET_SIG); decide)
    | ((with_reducible apply K.raise); rotate_left; (first | assumption | exact R.mem_LS_BANK_STATUS | exact R.mem_LS_EVENT | exact R.mem_LS_EVENT_INFO | exact R.mem_LS_RET_SIG); decide; decide; decide)
    | with_reducible apply K.ite
    | ((with_reducible apply K.foldl); rotate_left; intro d x h; rotate_right)
    | ((with_reducible apply K.foldlFst); rotate_left; intro x y h; rotate_right)
    | ((with_reducible apply K.foldlSnd); rotate_left; intro x y h; rotate_right)
    | with_reducible apply K.fst_ite
    | with_reducible apply K.cond
    | with_reducible refine K.of_fst ?_ (by assumption)
    | with_reducible refine K.of_snd ?_ (by assumption)
    | (split)
    | dsimp only
    | (rw [Dev.mk_tag]; (with_reducible apply K.mk_log); rotate_left; decide)
    | (rw [Dev.mk_tag]; (with_reducible apply K.mkT); rotate_left; (intro p hq; cases p <;> first | exact absurd hq (by decide) | rfl | exact ⟨rfl, rfl⟩ | exact fun _ => ⟨rfl, rfl⟩); exact fun w => w)

theorem Foot.lsTouchBank {e d : Dev} {pm rm : Nat} {k0 : Nat} (h : K e d pm rm) (hp : sub 0x2 pm = true)
    (hr : sub 0x2800800000000000000000000000000000000000080000 rm = true) : K e (Dev.lsTouchBank d k0) pm rm := by
  refine K.lift h hp hr ?_
  clear h hp hr
  unfold Dev.lsTouchBank
  extract_lets x1
  clear_value (g1 : x1 = _)
  refine K.cutEq d 0x2 0x2800800000000000000000000000000000000000080000 g1 ?_ (fun h1 => ?_)
  rotate_left
  clear g1
  all_goals repeat' first
    | with_reducible exact K.refl _ _ _
    | with_reducible assumption
    | ((with_reducible apply K.put); rotate_left; (first | assumption | exact R.mem_LS_BANK_STATUS); decide)
    | ((with_reducible apply Foot.lsRetCheck); rotate_left; decide; decide)
    | with_reducible apply K.ite
    | ((with_reducible apply K.foldl); rotate_left; intro d x h; rotate_right)
    | ((with_reducible apply K.foldlFst); rotate_left; intro x y h; rotate_right)
    | ((with_reducible apply K.foldlSnd); rotate_left; intro x y h; rotate_right)
    | with_reducible apply K.fst_ite
    | with_reducible apply K.cond
    | with_reducible refine K.of_fst ?_ (by assumption)
    | with_reducible refine K.of_snd ?_ (by assumption)
    | (split)
    | dsimp only
    | (rw [Dev.mk_tag]; (with_reducible apply K.mk_log); rotate_left; decide)
    | (rw [Dev.mk_tag]; (with_reducible apply K.mkT); rotate_left; (intro p hq; cases p <;> first | exact absurd hq (by decide) | rfl | exact ⟨rfl, rfl⟩ | exact fun _ => ⟨rfl, rfl⟩); exact fun w => w)

theorem Foot.lsReport {e d : Dev} {pm rm : Nat} {e0 : Event} {w : Nat} (h : K e d pm rm) (hp : sub 0x2 pm = true)
    (hr : sub 0x10000000000000000000000000000000000000080000 rm = true) (hm_e0 : Reg.inMap e0.reg = true) (hx_e0 : rm.testBit e0.reg.no = true) : K e (Dev.lsReport d e0 w) pm rm := by
  unfold Dev.lsReport
  all_goals repeat' first
    | with_reducible exact K.refl _ _ _
    | with_reducible assumption
    | ((with_reducible apply K.put); rotate_left; (first | assumption | exact R.mem_LS_ECC_STATUS); (first | decide | assumption | exact sub_trans (by decide) hp | exact sub_trans (by decide) hr | exact sub_testBit' hp (by decide) | exact sub_testBit' hr (by decide)))
    | ((with_reducible apply K.raise); rotate_left; (first | assumption | exact R.mem_LS_ECC_STATUS); (first | decide | assumption | exact sub_trans (by decide) hp | exact sub_trans (by decide) hr | exact sub_testBit' hp (by decide) | exact sub_testBit' hr (by decide)); (first | decide | assumption | exact sub_trans (by decide) hp | exact sub_trans (by decide) hr | exact sub_testBit' hp (by decide) | exact sub_testBit' hr (by decide)); (first | decide | assumption | exact sub_trans (by decide) hp | exact sub_trans (by decide) hr | exact sub_testBit' hp (by decide) | exact sub_testBit' hr (by decide)))
    | with_reducible apply K.ite
    | ((with_reducible apply K.foldl); rotate_left; intro d x h; rotate_right)
    | ((with_reducible apply K.foldlFst); rotate_left; intro x y h; rotate_right)
    | ((with_reducible apply K.foldlSnd); rotate_left; intro x y h; rotate_right)
    | with_reducible apply K.fst_ite
    | with_reducible apply K.cond
    | with_reducible refine K.of_fst ?_ (by assumption)
    | with_reducible refine K.of_snd ?_ (by assumption)
    | (split)
    | dsimp only
    | (rw [Dev.mk_tag]; (with_reducible apply K.mk_log); rotate_left; (first | decide | assumption | exact sub_trans (by decide) hp | exact sub_trans (by decide) hr | exact sub_testBit' hp (by decide) | exact sub_testBit' hr (by decide)))
    | (rw [Dev.mk_tag]; (with_reducible apply K.mkT); rotate_left; (intro p hq; cases p <;> first | exact absurd hq (by (first | decide | assumption | exact sub_trans (by decide) hp | exact sub_trans (by decide) hr | exact sub_testBit' hp (by decide) | exact sub_testBit' hr (by decide))) | rfl | exact ⟨rfl, rfl⟩ | exact fun _ => ⟨rfl, rfl⟩); exact fun w => w)

theorem Foot.lsCorrect {e d : Dev} {pm rm : Nat} {w : Nat} (h : K e d pm rm) (hp : sub 0x22 pm = true)
    (hr : sub 0x2800000000000000000000000000000000000080000 rm = true) : K e (Dev.lsCorrect d w) pm rm := by
  refine K.lift h hp hr ?_
  clear h hp hr
  unfold Dev.lsCorrect
  extract_lets x1
  clear_value (g1 : x1 = _)
  subst g1
  all_goals repeat' first
    | with_reducible exact K.refl _ _ _
    | with_reducible assumption
    | ((with_reducible apply K.inc); rotate_left; (first | assumption | exact R.mem_LS_CORR_COUNT | exact R.mem_LS_EVENT); decide)
    | ((with_reducible apply K.raise); rotate_left; (first | assumption | exact R.mem_LS_CORR_COUNT | exact R.mem_LS_EVENT); decide; decide; decide)
    | with_reducible apply K.ite
    | ((with_reducible apply K.foldl); rotate_left; intro d x h; rotate_right)
    | ((with_reducible apply K.foldlFst); rotate_left; intro x y h; rotate_right)
    | ((with_reducible apply K.foldlSnd); rotate_left; intro x y h; rotate_right)
    | with_reducible apply K.fst_ite
    | with_reducible apply K.cond
    | with_reducible refine K.of_fst ?_ (by assumption)
    | with_reducible refine K.of_snd ?_ (by assumption)
    | (split)
    | dsimp only
    | (rw [Dev.mk_tag]; (with_reducible apply K.mk_log); rotate_left; decide)
    | (rw [Dev.mk_tag]; (with_reducible apply K.mk_ls); rotate_left; decide; (first | exact .inl rfl | exact .inl ⟨rfl, rfl⟩ | exact .inr ⟨by decide, by (intro w; first | exact w | exact Memory.wf_write _ _ w | exact Memory.wf_clear _ _ w | exact Memory.wf_filter _ w | exact Memory.wf_set _ _ w)⟩))
    | (rw [Dev.mk_tag]; (with_reducible apply K.mkT); rotate_left; (intro p hq; cases p <;> first | exact absurd hq (by decide) | rfl | exact ⟨rfl, rfl⟩ | exact fun _ => ⟨rfl, rfl⟩); exact fun w => w)

theorem Foot.lsReadWord {e d : Dev} {pm rm : Nat} {p : Nat} {w : Nat} {o : Nat} {n : Nat} (h : K e d pm rm) (hp : sub 0x22 pm = true)
    (hr : sub 0x281a800000000000000000000000000000000000080000 rm = true) : K e (Dev.lsReadWord d p w o n).1 pm rm := by
  refine K.lift h hp hr ?_
  clear h hp hr
  unfold Dev.lsReadWord
  extract_lets x1
  clear_value (g1 : x1 = _)
  refine K.cutEq d 0x22 0x281a800000000000000000000000000000000000080000 g1 ?_ (fun h1 => ?_)
  rotate_left
  clear g1
  all_goals repeat' first
    | with_reducible exact K.refl _ _ _
    | with_reducible assumption
    | ((with_reducible apply Foot.lsTouchBank); rotate_left; decide; decide)
    | ((with_reducible apply Foot.lsMeetTest); rotate_left; decide; decide)
    | ((with_reducible apply Foot.lsReport); rotate_left; decide; decide; (first | assumption | (first | assumption | exact R.mem_LS_BANK_STATUS | exact R.mem_LS_EVENT) | decide); (first | assumption | (first | assumption | exact R.mem_LS_BANK_STATUS | exact R.mem_LS_EVENT) | decide))
    | ((with_reducible apply Foot.lsCorrect); rotate_left; decide; decide)
    | with_reducible apply K.ite
    | ((with_reducible apply K.foldl); rotate_left; intro d x h; rotate_right)
    | ((with_reducible apply K.foldlFst); rotate_left; intro x y h; rotate_right)
    | ((with_reducible apply K.foldlSnd); rotate_left; intro x y h; rotate_right)
    | with_reducible apply K.fst_ite
    | with_reducible apply K.cond
    | with_reducible refine K.of_fst ?_ (by assumption)
    | with_reducible refine K.of_snd ?_ (by assumption)
    | (split)
    | dsimp only
    | (rw [Dev.mk_tag]; (with_reducible apply K.mk_log); rotate_left; decide)
    | (rw [Dev.mk_tag]; (with_reducible apply K.mk_ls); rotate_left; decide; (first | exact .inl rfl | exact .inl ⟨rfl, rfl⟩ | exact .inr ⟨by decide, by (intro w; first | exact w | exact Memory.wf_write _ _ w | exact Memory.wf_clear _ _ w | exact Memory.wf_filter _ w | exact Memory.wf_set _ _ w)⟩))
    | (rw [Dev.mk_tag]; (with_reducible apply K.mkT); rotate_left; (intro p hq; cases p <;> first | exact absurd hq (by decide) | rfl | exact ⟨rfl, rfl⟩ | exact fun _ => ⟨rfl, rfl⟩); exact fun w => w)

theorem Foot.lsStore {e d : Dev} {pm rm : Nat} {w : Nat} {o : Nat} {bs : List Byte} (h : K e d pm rm) (hp : sub 0x8000020 pm = true)
    (hr : sub 0x0 rm = true) : K e (Dev.lsStore d w o bs) pm rm := by
  refine K.lift h hp hr ?_
  clear h hp hr
  unfold Dev.lsStore
  extract_lets x1
  clear_value (g1 : x1 = _)
  subst g1
  all_goals repeat' first
    | with_reducible exact K.refl _ _ _
    | with_reducible assumption
    | with_reducible apply K.ite
    | ((with_reducible apply K.foldl); rotate_left; intro d x h; rotate_right)
    | ((with_reducible apply K.foldlFst); rotate_left; intro x y h; rotate_right)
    | ((with_reducible apply K.foldlSnd); rotate_left; intro x y h; rotate_right)
    | with_reducible apply K.fst_ite
    | with_reducible apply K.cond
    | with_reducible refine K.of_fst ?_ (by assumption)
    | with_reducible refine K.of_snd ?_ (by assumption)
    | (split)
    | dsimp only
    | (rw [Dev.mk_tag]; (with_reducible apply K.mk_ls); rotate_left; decide; (first | exact .inl rfl | exact .inl ⟨rfl, rfl⟩ | exact .inr ⟨by decide, by (intro w; first | exact w | exact Memory.wf_write _ _ w | exact Memory.wf_clear _ _ w | exact Memory.wf_filter _ w | exact Memory.wf_set _ _ w)⟩))
    | (rw [Dev.mk_tag]; (with_reducible apply K.mkT); rotate_left; (intro p hq; cases p <;> first | exact absurd hq (by decide) | rfl | exact ⟨rfl, rfl⟩ | exact fun _ => ⟨rfl, rfl⟩); exact fun w => w)

theorem Foot.lsProtected_event {d : Dev} {a n : Nat} {x : Event} (h : d.lsProtected a n = some (some x)) :
    x = Ev.LUT_IN_USE ∨ x = Ev.OD_IN_USE := by
  unfold Dev.lsProtected at h
  split at h
  · exact .inl (by simpa using h.symm)
  · split at h
    · exact .inr (by simpa using h.symm)
    · split at h <;> simp at h

theorem Foot.lsWriteWord {e d : Dev} {pm rm : Nat} {p w o : Nat} {bs : List Byte} (h : K e d pm rm) (hp : sub 0x8000022 pm = true)
    (hr : sub 0x281a800000000040000400000000000000000000080000 rm = true) : K e (d.lsWriteWord p w o bs).1 pm rm := by
  refine K.lift h hp hr ?_
  clear h hp hr
  unfold Dev.lsWriteWord
  dsimp only
  have h1 : K d ((d.lsMeetTest p w).lsTouchBank (lsBankOf w)) 0x8000022 0x281a800000000040000400000000000000000000080000 :=
    Foot.lsTouchBank (Foot.lsMeetTest (K.refl _ _ _) (by decide) (by decide)) (by decide) (by decide)
  generalize (d.lsMeetTest p w).lsTouchBank (lsBankOf w) = g at h1
  split
  · exact Foot.lsReport h1 (by decide) (by decide) R.mem_LS_EVENT (by decide)
  · split
    · rename_i x hx
      cases x with
      | none => exact h1
      | some x =>
        rcases Foot.lsProtected_event hx with rfl | rfl
        · exact K.raise h1 R.mem_CORR_EVENT (by decide) (by decide) (by decide) _
        · exact K.raise h1 R.mem_DRIVE_EVENT (by decide) (by decide) (by decide) _
    · split
      · exact Foot.lsReport h1 (by decide) (by decide) R.mem_LS_EVENT (by decide)
      · refine Foot.lsStore ?_ (by decide) (by decide)
        split
        · exact Foot.lsCorrect h1 (by decide) (by decide)
        · exact h1

theorem Foot.lsRead {e d : Dev} {pm rm : Nat} {p : Nat} {a : Nat} {n : Nat} (h : K e d pm rm) (hp : sub 0x22 pm = true)
    (hr : sub 0x281a800000000000000000000000000000000000080000 rm = true) : K e (Dev.lsRead d p a n).1 pm rm := by
  refine K.lift h hp hr ?_
  clear h hp hr
  unfold Dev.lsRead
  all_goals repeat' first
    | with_reducible exact K.refl _ _ _
    | with_reducible assumption
    | ((with_reducible apply Foot.lsReadWord); rotate_left; decide; decide)
    | with_reducible apply K.ite
    | ((with_reducible apply K.foldl); rotate_left; intro d x h; rotate_right)
    | ((with_reducible apply K.foldlFst); rotate_left; intro x y h; rotate_right)
    | ((with_reducible apply K.foldlSnd); rotate_left; intro x y h; rotate_right)
    | with_reducible apply K.fst_ite
    | with_reducible apply K.cond
    | with_reducible refine K.of_fst ?_ (by assumption)
    | with_reducible refine K.of_snd ?_ (by assumption)
    | (split)
    | dsimp only
    | (rw [Dev.mk_tag]; (with_reducible apply K.mk_log); rotate_left; decide)
    | (rw [Dev.mk_tag]; (with_reducible apply K.mk_ls); rotate_left; decide; (first | exact .inl rfl | exact .inl ⟨rfl, rfl⟩ | exact .inr ⟨by decide, by (intro w; first | exact w | exact Memory.wf_write _ _ w | exact Memory.wf_clear _ _ w | exact Memory.wf_filter _ w | exact Memory.wf_set _ _ w)⟩))
    | (rw [Dev.mk_tag]; (with_reducible apply K.mkT); rotate_left; (intro p hq; cases p <;> first | exact absurd hq (by decide) | rfl | exact ⟨rfl, rfl⟩ | exact fun _ => ⟨rfl, rfl⟩); exact fun w => w)

theorem Foot.lsWrite {e d : Dev} {pm rm : Nat} {p : Nat} {a : Nat} {bs : List Byte} (h : K e d pm rm) (hp : sub 0x8000022 pm = true)
    (hr : sub 0x281a800000000040000400000000000000000000080000 rm = true) : K e (Dev.lsWrite d p a bs).1 pm rm := by
  refine K.lift h hp hr ?_
  clear h hp hr
  unfold Dev.lsWrite
  all_goals repeat' first
    | with_reducible exact K.refl _ _ _
    | with_reducible assumption
    | ((with_reducible apply Foot.lsWriteWord); rotate_left; decide; decide)
    | with_reducible apply K.ite
    | ((with_reducible apply K.foldl); rotate_left; intro d x h; rotate_right)
    | ((with_reducible apply K.foldlFst); rotate_left; intro x y h; rotate_right)
    | ((with_reducible apply K.foldlSnd); rotate_left; intro x y h; rotate_right)
    | with_reducible apply K.fst_ite
    | with_reducible apply K.cond
    | with_reducible refine K.of_fst ?_ (by assumption)
    | with_reducible refine K.of_snd ?_ (by assumption)
    | (split)
    | dsimp only
    | (rw [Dev.mk_tag]; (with_reducible apply K.mk_log); rotate_left; decide)
    | (rw [Dev.mk_tag]; (with_reducible apply K.mk_ls); rotate_left; decide; (first | exact .inl rfl | exact .inl ⟨rfl, rfl⟩ | exact .inr ⟨by decide, by (intro w; first | exact w | exact Memory.wf_write _ _ w | exact Memory.wf_clear _ _ w | exact Memory.wf_filter _ w | exact Memory.wf_set _ _ w)⟩))
    | (rw [Dev.mk_tag]; (with_reducible apply K.mkT); rotate_left; (intro p hq; cases p <;> first | exact absurd hq (by decide) | rfl | exact ⟨rfl, rfl⟩ | exact fun _ => ⟨rfl, rfl⟩); exact fun w => w)

theorem Foot.lsPoke {e d : Dev} {pm rm : Nat} {a : Nat} {bs : List Byte} (h : K e d pm rm) (hp : sub 0x8000022 pm = true)
    (hr : sub 0x10800000000000000000000000000000000000080000 rm = true) : K e (Dev.lsPoke d a bs) pm rm := by
  refine K.lift h hp hr ?_
  clear h hp hr
  unfold Dev.lsPoke
  all_goals repeat' first
    | with_reducible exact K.refl _ _ _
    | with_reducible assumption
    | ((with_reducible apply Foot.lsReport); rotate_left; decide; decide; (first | assumption | (first | assumption | exact R.mem_LS_BANK_STATUS | exact R.mem_LS_EVENT) | decide); (first | assumption | (first | assumption | exact R.mem_LS_BANK_STATUS | exact R.mem_LS_EVENT) | decide))
    | ((with_reducible apply Foot.lsStore); rotate_left; decide; decide)
    | with_reducible apply K.ite
    | ((with_reducible apply K.foldl); rotate_left; intro d x h; rotate_right)
    | ((with_reducible apply K.foldlFst); rotate_left; intro x y h; rotate_right)
    | ((with_reducible apply K.foldlSnd); rotate_left; intro x y h; rotate_right)
    | with_reducible apply K.fst_ite
    | with_reducible apply K.cond
    | with_reducible refine K.of_fst ?_ (by assumption)
    | with_reducible refine K.of_snd ?_ (by assumption)
    | (split)
    | dsimp only
    | (rw [Dev.mk_tag]; (with_reducible apply K.mk_log); rotate_left; decide)
    | (rw [Dev.mk_tag]; (with_reducible apply K.mk_ls); rotate_left; decide; (first | exact .inl rfl | exact .inl ⟨rfl, rfl⟩ | exact .inr ⟨by decide, by (intro w; first | exact w | exact Memory.wf_write _ _ w | exact Memory.wf_clear _ _ w | exact Memory.wf_filter _ w | exact Memory.wf_set _ _ w)⟩))
    | (rw [Dev.mk_tag]; (with_reducible apply K.mkT); rotate_left; (intro p hq; cases p <;> first | exact absurd hq (by decide) | rfl | exact ⟨rfl, rfl⟩ | exact fun _ => ⟨rfl, rfl⟩); exact fun w => w)

theorem Foot.lsUpset {e d : Dev} {pm rm : Nat} {us : List Upset} (h : K e d pm rm) (hp : sub 0x20 pm = true)
    (hr : sub 0x0 rm = true) : K e (Dev.lsUpset d us) pm rm := by
  refine K.lift h hp hr ?_
  clear h hp hr
  unfold Dev.lsUpset
  all_goals repeat' first
    | with_reducible exact K.refl _ _ _
    | with_reducible assumption
    | with_reducible apply K.ite
    | ((with_reducible apply K.each); rotate_left; intro d x h; rotate_right)
    | ((with_reducible apply K.foldl); rotate_left; intro d x h; rotate_right)
    | ((with_reducible apply K.foldlFst); rotate_left; intro x y h; rotate_right)
    | ((with_reducible apply K.foldlSnd); rotate_left; intro x y h; rotate_right)
    | with_reducible apply K.fst_ite
    | with_reducible apply K.cond
    | with_reducible refine K.of_fst ?_ (by assumption)
    | with_reducible refine K.of_snd ?_ (by assumption)
    | (split)
    | dsimp only
    | (rw [Dev.mk_tag]; (with_reducible apply K.mk_ls); rotate_left; decide; (first | exact .inl rfl | exact .inl ⟨rfl, rfl⟩ | exact .inr ⟨by decide, by (intro w; first | exact w | exact Memory.wf_write _ _ w | exact Memory.wf_clear _ _ w | exact Memory.wf_filter _ w | exact Memory.wf_set _ _ w)⟩))
    | (rw [Dev.mk_tag]; (with_reducible apply K.mkT); rotate_left; (intro p hq; cases p <;> first | exact absurd hq (by decide) | rfl | exact ⟨rfl, rfl⟩ | exact fun _ => ⟨rfl, rfl⟩); exact fun w => w)

theorem Foot.lsHoldReq {e d : Dev} {pm rm : Nat} {r : LsReq} (h : K e d pm rm) (hp : sub 0x20 pm = true)
    (hr : sub 0x800000000000000000000000000000000000000000000 rm = true) : K e (Dev.lsHoldReq d r) pm rm := by
  refine K.lift h hp hr ?_
  clear h hp hr
  unfold Dev.lsHoldReq
  extract_lets x1 x2
  clear_value (g1 : x1 = _) (g2 : x2 = _)
  refine K.cutEq d 0x20 0x800000000000000000000000000000000000000000000 g1 ?_ (fun h1 => ?_)
  rotate_left
  clear g1
  subst g2
  all_goals repeat' first
    | with_reducible exact K.refl _ _ _
    | with_reducible assumption
    | ((with_reducible apply K.put); rotate_left; (first | assumption | exact R.mem_LS_BANK_STATUS); decide)
    | with_reducible apply K.ite
    | ((with_reducible apply K.each); rotate_left; intro d x h; rotate_right)
    | ((with_reducible apply K.foldl); rotate_left; intro d x h; rotate_right)
    | ((with_reducible apply K.foldlFst); rotate_left; intro x y h; rotate_right)
    | ((with_reducible apply K.foldlSnd); rotate_left; intro x y h; rotate_right)
    | with_reducible apply K.fst_ite
    | with_reducible apply K.cond
    | with_reducible refine K.of_fst ?_ (by assumption)
    | with_reducible refine K.of_snd ?_ (by assumption)
    | (split)
    | dsimp only
    | (rw [Dev.mk_tag]; (with_reducible apply K.mk_ls); rotate_left; decide; (first | exact .inl rfl | exact .inl ⟨rfl, rfl⟩ | exact .inr ⟨by decide, by (intro w; first | exact w | exact Memory.wf_write _ _ w | exact Memory.wf_clear _ _ w | exact Memory.wf_filter _ w | exact Memory.wf_set _ _ w)⟩))
    | (rw [Dev.mk_tag]; (with_reducible apply K.mkT); rotate_left; (intro p hq; cases p <;> first | exact absurd hq (by decide) | rfl | exact ⟨rfl, rfl⟩ | exact fun _ => ⟨rfl, rfl⟩); exact fun w => w)

theorem Foot.lsServeRead {e d : Dev} {pm rm : Nat} {h0 : LsHalf} (h : K e d pm rm) (hp : sub 0x22 pm = true)
    (hr : sub 0x281a800000000000000000000000000000000000080000 rm = true) : K e (Dev.lsServeRead d h0).1 pm rm := by
  refine K.lift h hp hr ?_
  clear h hp hr
  unfold Dev.lsServeRead
  extract_lets x1 x2
  clear_value (g1 : x1 = _) (g2 : x2 = _)
  clear g1
  refine K.cutEq d 0x22 0x281a800000000000000000000000000000000000080000 g2 ?_ (fun h2 => ?_)
  rotate_left
  clear g2
  all_goals repeat' first
    | with_reducible exact K.refl _ _ _
    | with_reducible assumption
    | ((with_reducible apply K.put); rotate_left; (first | assumption | exact R.mem_LS_BANK_STATUS | exact R.mem_LS_EVENT); decide)
    | ((with_reducible apply Foot.lsMeetTest); rotate_left; decide; decide)
    | ((with_reducible apply Foot.lsReport); rotate_left; decide; decide; (first | assumption | (first | assumption | exact R.mem_LS_BANK_STATUS | exact R.mem_LS_EVENT) | decide); (first | assumption | (first | assumption | exact R.mem_LS_BANK_STATUS | exact R.mem_LS_EVENT) | decide))
    | ((with_reducible apply Foot.lsCorrect); rotate_left; decide; decide)
    | ((with_reducible apply Foot.lsReadWord); rotate_left; decide; decide)
    | with_reducible apply K.ite
    | ((with_reducible apply K.foldl); rotate_left; intro d x h; rotate_right)
    | ((with_reducible apply K.foldlFst); rotate_left; intro x y h; rotate_right)
    | ((with_reducible apply K.foldlSnd); rotate_left; intro x y h; rotate_right)
    | with_reducible apply K.fst_ite
    | with_reducible apply K.cond
    | with_reducible refine K.of_fst ?_ (by assumption)
    | with_reducible refine K.of_snd ?_ (by assumption)
    | (split)
    | dsimp only
    | (rw [Dev.mk_tag]; (with_reducible apply K.mk_log); rotate_left; decide)
    | (rw [Dev.mk_tag]; (with_reducible apply K.mk_ls); rotate_left; decide; (first | exact .inl rfl | exact .inl ⟨rfl, rfl⟩ | exact .inr ⟨by decide, by (intro w; first | exact w | exact Memory.wf_write _ _ w | exact Memory.wf_clear _ _ w | exact Memory.wf_filter _ w | exact Memory.wf_set _ _ w)⟩))
    | (rw [Dev.mk_tag]; (with_reducible apply K.mkT); rotate_left; (intro p hq; cases p <;> first | exact absurd hq (by decide) | rfl | exact ⟨rfl, rfl⟩ | exact fun _ => ⟨rfl, rfl⟩); exact fun w => w)

theorem Foot.lsLose {e d : Dev} {pm rm : Nat} {p : Nat} {w : Nat} (h : K e d pm rm) (hp : sub 0x2 pm = true)
    (hr : sub 0x240800000000000000000000000000000000000080000 rm = true) : K e (Dev.lsLose d p w) pm rm := by
  refine K.lift h hp hr ?_
  clear h hp hr
  unfold Dev.lsLose
  all_goals repeat' first
    | with_reducible exact K.refl _ _ _
    | with_reducible assumption
    | ((with_reducible apply K.put); rotate_left; (first | assumption | exact R.mem_LS_COLLIDE_STATUS | exact R.mem_LS_EVENT | exact R.mem_LS_PORT_COLLIDE); decide)
    | ((with_reducible apply K.inc); rotate_left; (first | assumption | exact R.mem_LS_COLLIDE_STATUS | exact R.mem_LS_EVENT | exact R.mem_LS_PORT_COLLIDE); decide)
    | ((with_reducible apply K.raise); rotate_left; (first | assumption | exact R.mem_LS_COLLIDE_STATUS | exact R.mem_LS_EVENT | exact R.mem_LS_PORT_COLLIDE); decide; decide; decide)
    | with_reducible apply K.ite
    | ((with_reducible apply K.foldl); rotate_left; intro d x h; rotate_right)
    | ((with_reducible apply K.foldlFst); rotate_left; intro x y h; rotate_right)
    | ((with_reducible apply K.foldlSnd); rotate_left; intro x y h; rotate_right)
    | with_reducible apply K.fst_ite
    | with_reducible apply K.cond
    | with_reducible refine K.of_fst ?_ (by assumption)
    | with_reducible refine K.of_snd ?_ (by assumption)
    | (split)
    | dsimp only
    | (rw [Dev.mk_tag]; (with_reducible apply K.mk_log); rotate_left; decide)
    | (rw [Dev.mk_tag]; (with_reducible apply K.mkT); rotate_left; (intro p hq; cases p <;> first | exact absurd hq (by decide) | rfl | exact ⟨rfl, rfl⟩ | exact fun _ => ⟨rfl, rfl⟩); exact fun w => w)

theorem Foot.lsCycle {e d : Dev} {pm rm : Nat} {hs : List LsHalf} (h : K e d pm rm) (hp : sub 0x8000022 pm = true)
    (hr : sub 0x2a5a800000000040000400000000000000000000080000 rm = true) : K e (Dev.lsCycle d hs).1 pm rm := by
  refine K.lift h hp hr ?_
  clear h hp hr
  unfold Dev.lsCycle
  all_goals repeat' first
    | with_reducible exact K.refl _ _ _
    | with_reducible assumption
    | ((with_reducible apply Foot.lsLose); rotate_left; decide; decide)
    | ((with_reducible apply Foot.lsWriteWord); rotate_left; decide; decide)
    | ((with_reducible apply Foot.lsServeRead); rotate_left; decide; decide)
    | with_reducible apply K.ite
    | ((with_reducible apply K.foldl); rotate_left; intro d x h; rotate_right)
    | ((with_reducible apply K.foldlFst); rotate_left; intro x y h; rotate_right)
    | ((with_reducible apply K.foldlSnd); rotate_left; intro x y h; rotate_right)
    | with_reducible apply K.fst_ite
    | with_reducible apply K.cond
    | with_reducible refine K.of_fst ?_ (by assumption)
    | with_reducible refine K.of_snd ?_ (by assumption)
    | (split)
    | dsimp only
    | (rw [Dev.mk_tag]; (with_reducible apply K.mk_log); rotate_left; decide)
    | (rw [Dev.mk_tag]; (with_reducible apply K.mk_ls); rotate_left; decide; (first | exact .inl rfl | exact .inl ⟨rfl, rfl⟩ | exact .inr ⟨by decide, by (intro w; first | exact w | exact Memory.wf_write _ _ w | exact Memory.wf_clear _ _ w | exact Memory.wf_filter _ w | exact Memory.wf_set _ _ w)⟩))
    | (rw [Dev.mk_tag]; (with_reducible apply K.mkT); rotate_left; (intro p hq; cases p <;> first | exact absurd hq (by decide) | rfl | exact ⟨rfl, rfl⟩ | exact fun _ => ⟨rfl, rfl⟩); exact fun w => w)

theorem Foot.lsConflicts {e d : Dev} {pm rm : Nat} {k0 : Nat} {hs : List LsHalf} (h : K e d pm rm) (hp : sub 0x20 pm = true)
    (hr : sub 0x100000000000000000000000000000000000000000000 rm = true) : K e (Dev.lsConflicts d k0 hs) pm rm := by
  refine K.lift h hp hr ?_
  clear h hp hr
  unfold Dev.lsConflicts
  extract_lets x1 x2
  clear_value (g1 : x1 = _) (g2 : x2 = _)
  clear g1
  clear g2
  all_goals repeat' first
    | with_reducible exact K.refl _ _ _
    | with_reducible assumption
    | ((with_reducible apply K.inc); rotate_left; (first | assumption | exact R.mem_LS_PORT_CFG | exact R.mem_LS_PORT_CONFLICT); decide)
    | with_reducible apply K.ite
    | ((with_reducible apply K.each); rotate_left; intro d x h; rotate_right)
    | ((with_reducible apply K.foldl); rotate_left; intro d x h; rotate_right)
    | ((with_reducible apply K.foldlFst); rotate_left; intro x y h; rotate_right)
    | ((with_reducible apply K.foldlSnd); rotate_left; intro x y h; rotate_right)
    | with_reducible apply K.fst_ite
    | with_reducible apply K.cond
    | with_reducible refine K.of_fst ?_ (by assumption)
    | with_reducible refine K.of_snd ?_ (by assumption)
    | (split)
    | dsimp only
    | (rw [Dev.mk_tag]; (with_reducible apply K.mk_ls); rotate_left; decide; (first | exact .inl rfl | exact .inl ⟨rfl, rfl⟩ | exact .inr ⟨by decide, by (intro w; first | exact w | exact Memory.wf_write _ _ w | exact Memory.wf_clear _ _ w | exact Memory.wf_filter _ w | exact Memory.wf_set _ _ w)⟩))
    | (rw [Dev.mk_tag]; (with_reducible apply K.mkT); rotate_left; (intro p hq; cases p <;> first | exact absurd hq (by decide) | rfl | exact ⟨rfl, rfl⟩ | exact fun _ => ⟨rfl, rfl⟩); exact fun w => w)

theorem Foot.lsBatch {e d : Dev} {pm rm : Nat} {hs : List LsHalf} (h : K e d pm rm) (hp : sub 0x8000022 pm = true)
    (hr : sub 0x2b5a800000000040000400000000000000000000080000 rm = true) : K e (Dev.lsBatch d hs).1 pm rm := by
  refine K.lift h hp hr ?_
  clear h hp hr
  unfold Dev.lsBatch
  extract_lets x1
  clear_value (g1 : x1 = _)
  refine K.cutEq d 0x8000022 0x2b5a800000000040000400000000000000000000080000 g1 ?_ (fun h1 => ?_)
  rotate_left
  clear g1
  all_goals repeat' first
    | with_reducible exact K.refl _ _ _
    | with_reducible assumption
    | ((with_reducible apply Foot.lsConflicts); rotate_left; decide; decide)
    | ((with_reducible apply Foot.lsCycle); rotate_left; decide; decide)
    | with_reducible apply K.ite
    | ((with_reducible apply K.each); rotate_left; intro d x h; rotate_right)
    | ((with_reducible apply K.foldl); rotate_left; intro d x h; rotate_right)
    | ((with_reducible apply K.foldlFst); rotate_left; intro x y h; rotate_right)
    | ((with_reducible apply K.foldlSnd); rotate_left; intro x y h; rotate_right)
    | with_reducible apply K.fst_ite
    | with_reducible apply K.cond
    | with_reducible refine K.of_fst ?_ (by assumption)
    | with_reducible refine K.of_snd ?_ (by assumption)
    | (split)
    | dsimp only
    | (rw [Dev.mk_tag]; (with_reducible apply K.mk_log); rotate_left; decide)
    | (rw [Dev.mk_tag]; (with_reducible apply K.mk_ls); rotate_left; decide; (first | exact .inl rfl | exact .inl ⟨rfl, rfl⟩ | exact .inr ⟨by decide, by (intro w; first | exact w | exact Memory.wf_write _ _ w | exact Memory.wf_clear _ _ w | exact Memory.wf_filter _ w | exact Memory.wf_set _ _ w)⟩))
    | (rw [Dev.mk_tag]; (with_reducible apply K.mkT); rotate_left; (intro p hq; cases p <;> first | exact absurd hq (by decide) | rfl | exact ⟨rfl, rfl⟩ | exact fun _ => ⟨rfl, rfl⟩); exact fun w => w)

theorem Foot.lsServe {e d : Dev} {pm rm : Nat} {rs : List LsReq} (h : K e d pm rm) (hp : sub 0x8000022 pm = true)
    (hr : sub 0x2b5a800000000040000400000000000000000000080000 rm = true) : K e (Dev.lsServe d rs) pm rm := by
  refine K.lift h hp hr ?_
  clear h hp hr
  unfold Dev.lsServe
  all_goals repeat' first
    | with_reducible exact K.refl _ _ _
    | with_reducible assumption
    | ((with_reducible apply Foot.lsBatch); rotate_left; decide; decide)
    | with_reducible apply K.ite
    | ((with_reducible apply K.foldl); rotate_left; intro d x h; rotate_right)
    | ((with_reducible apply K.foldlFst); rotate_left; intro x y h; rotate_right)
    | ((with_reducible apply K.foldlSnd); rotate_left; intro x y h; rotate_right)
    | with_reducible apply K.fst_ite
    | with_reducible apply K.cond
    | with_reducible refine K.of_fst ?_ (by assumption)
    | with_reducible refine K.of_snd ?_ (by assumption)
    | (split)
    | dsimp only
    | (rw [Dev.mk_tag]; (with_reducible apply K.mk_log); rotate_left; decide)
    | (rw [Dev.mk_tag]; (with_reducible apply K.mk_ls); rotate_left; decide; (first | exact .inl rfl | exact .inl ⟨rfl, rfl⟩ | exact .inr ⟨by decide, by (intro w; first | exact w | exact Memory.wf_write _ _ w | exact Memory.wf_clear _ _ w | exact Memory.wf_filter _ w | exact Memory.wf_set _ _ w)⟩))
    | (rw [Dev.mk_tag]; (with_reducible apply K.mkT); rotate_left; (intro p hq; cases p <;> first | exact absurd hq (by decide) | rfl | exact ⟨rfl, rfl⟩ | exact fun _ => ⟨rfl, rfl⟩); exact fun w => w)

theorem Foot.lsArrive {e d : Dev} {pm rm : Nat} {rs : List LsReq} (h : K e d pm rm) (hp : sub 0x800002a pm = true)
    (hr : sub 0x80000000000000000000000002b5a800000000040000400000000000000000000080000 rm = true) : K e (Dev.lsArrive d rs) pm rm := by
  refine K.lift h hp hr ?_
  clear h hp hr
  unfold Dev.lsArrive
  extract_lets x1 x2 x3 x4 x5
  clear_value (g1 : x1 = _) (g2 : x2 = _) (g3 : x3 = _) (g4 : x4 = _) (g5 : x5 = _)
  subst g1
  refine K.cutEq d 0x800002a 0x80000000000000000000000002b5a800000000040000400000000000000000000080000 g2 ?_ (fun h2 => ?_)
  rotate_left
  clear g2
  refine K.cutEq d 0x800002a 0x80000000000000000000000002b5a800000000040000400000000000000000000080000 g3 ?_ (fun h3 => ?_)
  rotate_left
  clear g3
  refine K.cutEq d 0x800002a 0x80000000000000000000000002b5a800000000040000400000000000000000000080000 g4 ?_ (fun h4 => ?_)
  rotate_left
  clear g4
  subst g5
  all_goals repeat' first
    | with_reducible exact K.refl _ _ _
    | with_reducible assumption
    | ((with_reducible apply Foot.lsHoldReq); rotate_left; decide; decide)
    | ((with_reducible apply Foot.lsServe); rotate_left; decide; decide)
    | ((with_reducible apply Foot.startWake); rotate_left; decide; decide)
    | with_reducible apply K.ite
    | ((with_reducible apply K.each); rotate_left; intro d x h; rotate_right)
    | ((with_reducible apply K.foldl); rotate_left; intro d x h; rotate_right)
    | ((with_reducible apply K.foldlFst); rotate_left; intro x y h; rotate_right)
    | ((with_reducible apply K.foldlSnd); rotate_left; intro x y h; rotate_right)
    | with_reducible apply K.fst_ite
    | with_reducible apply K.cond
    | with_reducible refine K.of_fst ?_ (by assumption)
    | with_reducible refine K.of_snd ?_ (by assumption)
    | (split)
    | dsimp only
    | (rw [Dev.mk_tag]; (with_reducible apply K.mk_log); rotate_left; decide)
    | (rw [Dev.mk_tag]; (with_reducible apply K.mk_pwr); rotate_left; decide)
    | (rw [Dev.mk_tag]; (with_reducible apply K.mk_ls); rotate_left; decide; (first | exact .inl rfl | exact .inl ⟨rfl, rfl⟩ | exact .inr ⟨by decide, by (intro w; first | exact w | exact Memory.wf_write _ _ w | exact Memory.wf_clear _ _ w | exact Memory.wf_filter _ w | exact Memory.wf_set _ _ w)⟩))
    | (rw [Dev.mk_tag]; (with_reducible apply K.mkT); rotate_left; (intro p hq; cases p <;> first | exact absurd hq (by decide) | rfl | exact ⟨rfl, rfl⟩ | exact fun _ => ⟨rfl, rfl⟩); exact fun w => w)

theorem Foot.lsRetry {e d : Dev} {pm rm : Nat} (h : K e d pm rm) (hp : sub 0x8000022 pm = true)
    (hr : sub 0x2b5a800000000040000400000000000000000000080000 rm = true) : K e (Dev.lsRetry d) pm rm := by
  refine K.lift h hp hr ?_
  clear h hp hr
  unfold Dev.lsRetry
  extract_lets x1 x2
  clear_value (g1 : x1 = _) (g2 : x2 = _)
  clear g1
  subst g2
  all_goals repeat' first
    | with_reducible exact K.refl _ _ _
    | with_reducible assumption
    | ((with_reducible apply Foot.lsHoldReq); rotate_left; decide; decide)
    | ((with_reducible apply Foot.lsServe); rotate_left; decide; decide)
    | with_reducible apply K.ite
    | ((with_reducible apply K.each); rotate_left; intro d x h; rotate_right)
    | ((with_reducible apply K.foldl); rotate_left; intro d x h; rotate_right)
    | ((with_reducible apply K.foldlFst); rotate_left; intro x y h; rotate_right)
    | ((with_reducible apply K.foldlSnd); rotate_left; intro x y h; rotate_right)
    | with_reducible apply K.fst_ite
    | with_reducible apply K.cond
    | with_reducible refine K.of_fst ?_ (by assumption)
    | with_reducible refine K.of_snd ?_ (by assumption)
    | (split)
    | dsimp only
    | (rw [Dev.mk_tag]; (with_reducible apply K.mk_log); rotate_left; decide)
    | (rw [Dev.mk_tag]; (with_reducible apply K.mk_ls); rotate_left; decide; (first | exact .inl rfl | exact .inl ⟨rfl, rfl⟩ | exact .inr ⟨by decide, by (intro w; first | exact w | exact Memory.wf_write _ _ w | exact Memory.wf_clear _ _ w | exact Memory.wf_filter _ w | exact Memory.wf_set _ _ w)⟩))
    | (rw [Dev.mk_tag]; (with_reducible apply K.mkT); rotate_left; (intro p hq; cases p <;> first | exact absurd hq (by decide) | rfl | exact ⟨rfl, rfl⟩ | exact fun _ => ⟨rfl, rfl⟩); exact fun w => w)

theorem Foot.lsAccess {e d : Dev} {pm rm : Nat} {rs : List LsReq} (h : K e d pm rm) (hp : sub 0x800002a pm = true)
    (hr : sub 0x80000000000000000000000002b5a800000000040000400000000000000000000080000 rm = true) : K e (Dev.lsAccess d rs) pm rm := by
  refine K.lift h hp hr ?_
  clear h hp hr
  unfold Dev.lsAccess
  extract_lets x1
  clear_value (g1 : x1 = _)
  refine K.cutEq d 0x800002a 0x80000000000000000000000002b5a800000000040000400000000000000000000080000 g1 ?_ (fun h1 => ?_)
  rotate_left
  clear g1
  all_goals repeat' first
    | with_reducible exact K.refl _ _ _
    | with_reducible assumption
    | ((with_reducible apply Foot.lsArrive); rotate_left; decide; decide)
    | ((with_reducible apply Foot.lsRetry); rotate_left; decide; decide)
    | with_reducible apply K.ite
    | ((with_reducible apply K.foldl); rotate_left; intro d x h; rotate_right)
    | ((with_reducible apply K.foldlFst); rotate_left; intro x y h; rotate_right)
    | ((with_reducible apply K.foldlSnd); rotate_left; intro x y h; rotate_right)
    | with_reducible apply K.fst_ite
    | with_reducible apply K.cond
    | with_reducible refine K.of_fst ?_ (by assumption)
    | with_reducible refine K.of_snd ?_ (by assumption)
    | (split)
    | dsimp only
    | (rw [Dev.mk_tag]; (with_reducible apply K.mk_log); rotate_left; decide)
    | (rw [Dev.mk_tag]; (with_reducible apply K.mk_pwr); rotate_left; decide)
    | (rw [Dev.mk_tag]; (with_reducible apply K.mk_ls); rotate_left; decide; (first | exact .inl rfl | exact .inl ⟨rfl, rfl⟩ | exact .inr ⟨by decide, by (intro w; first | exact w | exact Memory.wf_write _ _ w | exact Memory.wf_clear _ _ w | exact Memory.wf_filter _ w | exact Memory.wf_set _ _ w)⟩))
    | (rw [Dev.mk_tag]; (with_reducible apply K.mkT); rotate_left; (intro p hq; cases p <;> first | exact absurd hq (by decide) | rfl | exact ⟨rfl, rfl⟩ | exact fun _ => ⟨rfl, rfl⟩); exact fun w => w)

theorem Foot.bankIdle {e d : Dev} {pm rm : Nat} {k0 : Nat} (h : K e d pm rm) (hp : sub 0x0 pm = true)
    (hr : sub 0x800000000000000000000000000000000000000000000 rm = true) : K e (Dev.bankIdle d k0) pm rm := by
  refine K.lift h hp hr ?_
  clear h hp hr
  unfold Dev.bankIdle
  all_goals repeat' first
    | with_reducible exact K.refl _ _ _
    | with_reducible assumption
    | ((with_reducible apply K.put); rotate_left; (first | assumption | exact R.mem_LS_BANK_CTRL | exact R.mem_LS_BANK_STATUS); decide)
    | with_reducible apply K.ite
    | ((with_reducible apply K.foldl); rotate_left; intro d x h; rotate_right)
    | ((with_reducible apply K.foldlFst); rotate_left; intro x y h; rotate_right)
    | ((with_reducible apply K.foldlSnd); rotate_left; intro x y h; rotate_right)
    | with_reducible apply K.fst_ite
    | with_reducible apply K.cond
    | with_reducible refine K.of_fst ?_ (by assumption)
    | with_reducible refine K.of_snd ?_ (by assumption)
    | (split)
    | dsimp only
    | (rw [Dev.mk_tag]; (with_reducible apply K.mkT); rotate_left; (intro p hq; cases p <;> first | exact absurd hq (by decide) | rfl | exact ⟨rfl, rfl⟩ | exact fun _ => ⟨rfl, rfl⟩); exact fun w => w)

theorem Foot.bankSigDone {e d : Dev} {pm rm : Nat} {k0 : Nat} (h : K e d pm rm) (hp : sub 0x2 pm = true)
    (hr : sub 0x1800800000000000000000000000000000000000080000 rm = true) : K e (Dev.bankSigDone d k0) pm rm := by
  refine K.lift h hp hr ?_
  clear h hp hr
  unfold Dev.bankSigDone
  extract_lets x1
  clear_value (g1 : x1 = _)
  refine K.cutEq d 0x2 0x1800800000000000000000000000000000000000080000 g1 ?_ (fun h1 => ?_)
  rotate_left
  clear g1
  all_goals repeat' first
    | with_reducible exact K.refl _ _ _
    | with_reducible assumption
    | ((with_reducible apply K.put); rotate_left; (first | assumption | exact R.mem_LS_BANK_STATUS | exact R.mem_LS_EVENT | exact R.mem_LS_RET_SIG); decide)
    | ((with_reducible apply K.raise); rotate_left; (first | assumption | exact R.mem_LS_BANK_STATUS | exact R.mem_LS_EVENT | exact R.mem_LS_RET_SIG); decide; decide; decide)
    | with_reducible apply K.ite
    | ((with_reducible apply K.foldl); rotate_left; intro d x h; rotate_right)
    | ((with_reducible apply K.foldlFst); rotate_left; intro x y h; rotate_right)
    | ((with_reducible apply K.foldlSnd); rotate_left; intro x y h; rotate_right)
    | with_reducible apply K.fst_ite
    | with_reducible apply K.cond
    | with_reducible refine K.of_fst ?_ (by assumption)
    | with_reducible refine K.of_snd ?_ (by assumption)
    | (split)
    | dsimp only
    | (rw [Dev.mk_tag]; (with_reducible apply K.mk_log); rotate_left; decide)
    | (rw [Dev.mk_tag]; (with_reducible apply K.mkT); rotate_left; (intro p hq; cases p <;> first | exact absurd hq (by decide) | rfl | exact ⟨rfl, rfl⟩ | exact fun _ => ⟨rfl, rfl⟩); exact fun w => w)

theorem Foot.bankOff {e d : Dev} {pm rm : Nat} {k0 : Nat} (h : K e d pm rm) (hp : sub 0x8000020 pm = true)
    (hr : sub 0x1800000000000000000000000000000000000000000000 rm = true) : K e (Dev.bankOff d k0) pm rm := by
  refine K.lift h hp hr ?_
  clear h hp hr
  unfold Dev.bankOff
  extract_lets x1 x2
  clear_value (g1 : x1 = _) (g2 : x2 = _)
  refine K.cutEq d 0x8000020 0x1800000000000000000000000000000000000000000000 g1 ?_ (fun h1 => ?_)
  rotate_left
  clear g1
  subst g2
  all_goals repeat' first
    | with_reducible exact K.refl _ _ _
    | with_reducible assumption
    | ((with_reducible apply K.put); rotate_left; (first | assumption | exact R.mem_LS_BANK_STATUS | exact R.mem_LS_RET_SIG); decide)
    | with_reducible apply K.ite
    | ((with_reducible apply K.foldl); rotate_left; intro d x h; rotate_right)
    | ((with_reducible apply K.foldlFst); rotate_left; intro x y h; rotate_right)
    | ((with_reducible apply K.foldlSnd); rotate_left; intro x y h; rotate_right)
    | with_reducible apply K.fst_ite
    | with_reducible apply K.cond
    | with_reducible refine K.of_fst ?_ (by assumption)
    | with_reducible refine K.of_snd ?_ (by assumption)
    | (split)
    | dsimp only
    | (rw [Dev.mk_tag]; (with_reducible apply K.mk_ls); rotate_left; decide; (first | exact .inl rfl | exact .inl ⟨rfl, rfl⟩ | exact .inr ⟨by decide, by (intro w; first | exact w | exact Memory.wf_write _ _ w | exact Memory.wf_clear _ _ w | exact Memory.wf_filter _ w | exact Memory.wf_set _ _ w)⟩))
    | (rw [Dev.mk_tag]; (with_reducible apply K.mkT); rotate_left; (intro p hq; cases p <;> first | exact absurd hq (by decide) | rfl | exact ⟨rfl, rfl⟩ | exact fun _ => ⟨rfl, rfl⟩); exact fun w => w)

theorem Foot.bankRequest {e d : Dev} {pm rm : Nat} {k0 : Nat} {req : Nat} (h : K e d pm rm) (hp : sub 0x8000022 pm = true)
    (hr : sub 0x3f5a800000000040000400000000000000000000080000 rm = true) : K e (Dev.bankRequest d k0 req) pm rm := by
  refine K.lift h hp hr ?_
  clear h hp hr
  unfold Dev.bankRequest
  extract_lets x1 x2 x3
  clear_value (g1 : x1 = _) (g2 : x2 = _) (g3 : x3 = _)
  clear g1
  refine K.cutEq d 0x8000022 0x3f5a800000000040000400000000000000000000080000 g2 ?_ (fun h2 => ?_)
  rotate_left
  clear g2
  refine K.cutEq d 0x8000022 0x3f5a800000000040000400000000000000000000080000 g3 ?_ (fun h3 => ?_)
  rotate_left
  clear g3
  all_goals repeat' first
    | with_reducible exact K.refl _ _ _
    | with_reducible assumption
    | ((with_reducible apply K.put); rotate_left; (first | assumption | exact R.mem_CORR_EVENT | exact R.mem_DRIVE_EVENT | exact R.mem_LS_BANK_CTRL | exact R.mem_LS_BANK_STATUS); decide)
    | ((with_reducible apply Foot.lsRetry); rotate_left; decide; decide)
    | ((with_reducible apply Foot.bankOff); rotate_left; decide; decide)
    | with_reducible apply K.ite
    | ((with_reducible apply K.foldl); rotate_left; intro d x h; rotate_right)
    | ((with_reducible apply K.foldlFst); rotate_left; intro x y h; rotate_right)
    | ((with_reducible apply K.foldlSnd); rotate_left; intro x y h; rotate_right)
    | with_reducible apply K.fst_ite
    | with_reducible apply K.cond
    | with_reducible refine K.of_fst ?_ (by assumption)
    | with_reducible refine K.of_snd ?_ (by assumption)
    | (split)
    | dsimp only
    | (rw [Dev.mk_tag]; (with_reducible apply K.mk_log); rotate_left; decide)
    | (rw [Dev.mk_tag]; (with_reducible apply K.mk_ls); rotate_left; decide; (first | exact .inl rfl | exact .inl ⟨rfl, rfl⟩ | exact .inr ⟨by decide, by (intro w; first | exact w | exact Memory.wf_write _ _ w | exact Memory.wf_clear _ _ w | exact Memory.wf_filter _ w | exact Memory.wf_set _ _ w)⟩))
    | (rw [Dev.mk_tag]; (with_reducible apply K.mkT); rotate_left; (intro p hq; cases p <;> first | exact absurd hq (by decide) | rfl | exact ⟨rfl, rfl⟩ | exact fun _ => ⟨rfl, rfl⟩); exact fun w => w)

theorem Foot.bankCheckDone {e d : Dev} {pm rm : Nat} {k0 : Nat} (h : K e d pm rm) (hp : sub 0x8000022 pm = true)
    (hr : sub 0x2b5a800000000040000400000000000000000000080000 rm = true) : K e (Dev.bankCheckDone d k0) pm rm := by
  refine K.lift h hp hr ?_
  clear h hp hr
  unfold Dev.bankCheckDone
  all_goals repeat' first
    | with_reducible exact K.refl _ _ _
    | with_reducible assumption
    | ((with_reducible apply Foot.lsRetry); rotate_left; decide; decide)
    | ((with_reducible apply Foot.lsRetCheck); rotate_left; decide; decide)
    | with_reducible apply K.ite
    | ((with_reducible apply K.foldl); rotate_left; intro d x h; rotate_right)
    | ((with_reducible apply K.foldlFst); rotate_left; intro x y h; rotate_right)
    | ((with_reducible apply K.foldlSnd); rotate_left; intro x y h; rotate_right)
    | with_reducible apply K.fst_ite
    | with_reducible apply K.cond
    | with_reducible refine K.of_fst ?_ (by assumption)
    | with_reducible refine K.of_snd ?_ (by assumption)
    | (split)
    | dsimp only
    | (rw [Dev.mk_tag]; (with_reducible apply K.mk_log); rotate_left; decide)
    | (rw [Dev.mk_tag]; (with_reducible apply K.mk_ls); rotate_left; decide; (first | exact .inl rfl | exact .inl ⟨rfl, rfl⟩ | exact .inr ⟨by decide, by (intro w; first | exact w | exact Memory.wf_write _ _ w | exact Memory.wf_clear _ _ w | exact Memory.wf_filter _ w | exact Memory.wf_set _ _ w)⟩))
    | (rw [Dev.mk_tag]; (with_reducible apply K.mkT); rotate_left; (intro p hq; cases p <;> first | exact absurd hq (by decide) | rfl | exact ⟨rfl, rfl⟩ | exact fun _ => ⟨rfl, rfl⟩); exact fun w => w)

theorem Foot.bankClearDone {e d : Dev} {pm rm : Nat} {k0 : Nat} (h : K e d pm rm) (hp : sub 0x0 pm = true)
    (hr : sub 0x800000000000000000000000000000000000000000000 rm = true) : K e (Dev.bankClearDone d k0) pm rm := by
  refine K.lift h hp hr ?_
  clear h hp hr
  unfold Dev.bankClearDone
  all_goals repeat' first
    | with_reducible exact K.refl _ _ _
    | with_reducible assumption
    | ((with_reducible apply K.put); rotate_left; (first | assumption | exact R.mem_LS_BANK_STATUS); decide)
    | with_reducible apply K.ite
    | ((with_reducible apply K.foldl); rotate_left; intro d x h; rotate_right)
    | ((with_reducible apply K.foldlFst); rotate_left; intro x y h; rotate_right)
    | ((with_reducible apply K.foldlSnd); rotate_left; intro x y h; rotate_right)
    | with_reducible apply K.fst_ite
    | with_reducible apply K.cond
    | with_reducible refine K.of_fst ?_ (by assumption)
    | with_reducible refine K.of_snd ?_ (by assumption)
    | (split)
    | dsimp only
    | (rw [Dev.mk_tag]; (with_reducible apply K.mkT); rotate_left; (intro p hq; cases p <;> first | exact absurd hq (by decide) | rfl | exact ⟨rfl, rfl⟩ | exact fun _ => ⟨rfl, rfl⟩); exact fun w => w)

theorem Foot.regionTestStart {e d : Dev} {pm rm : Nat} {busy : Bool} (h : K e d pm rm) (hp : sub 0x8000022 pm = true)
    (hr : sub 0x2b5a800000000040000400000000000000000000080000 rm = true) : K e (Dev.regionTestStart d busy) pm rm := by
  refine K.lift h hp hr ?_
  clear h hp hr
  unfold Dev.regionTestStart
  extract_lets x1 x2
  clear_value (g1 : x1 = _) (g2 : x2 = _)
  refine K.cutEq d 0x8000022 0x2b5a800000000040000400000000000000000000080000 g1 ?_ (fun h1 => ?_)
  rotate_left
  clear g1
  subst g2
  all_goals repeat' first
    | with_reducible exact K.refl _ _ _
    | with_reducible assumption
    | ((with_reducible apply K.inc); rotate_left; (first | assumption | exact R.mem_CORR_EVENT | exact R.mem_DRIVE_EVENT | exact R.mem_LS_CORR_COUNT | exact R.mem_LS_CTRL | exact R.mem_LS_EVENT | exact R.mem_PIPE_CLK); decide)
    | ((with_reducible apply K.raiseIf); rotate_left; (first | assumption | exact R.mem_CORR_EVENT | exact R.mem_DRIVE_EVENT | exact R.mem_LS_CORR_COUNT | exact R.mem_LS_CTRL | exact R.mem_LS_EVENT | exact R.mem_PIPE_CLK); decide; decide; decide)
    | ((with_reducible apply Foot.lsRetry); rotate_left; decide; decide)
    | with_reducible apply K.ite
    | ((with_reducible apply K.foldl); rotate_left; intro d x h; rotate_right)
    | ((with_reducible apply K.foldlFst); rotate_left; intro x y h; rotate_right)
    | ((with_reducible apply K.foldlSnd); rotate_left; intro x y h; rotate_right)
    | with_reducible apply K.fst_ite
    | with_reducible apply K.cond
    | with_reducible refine K.of_fst ?_ (by assumption)
    | with_reducible refine K.of_snd ?_ (by assumption)
    | (split)
    | dsimp only
    | (rw [Dev.mk_tag]; (with_reducible apply K.mk_log); rotate_left; decide)
    | (rw [Dev.mk_tag]; (with_reducible apply K.mk_ls); rotate_left; decide; (first | exact .inl rfl | exact .inl ⟨rfl, rfl⟩ | exact .inr ⟨by decide, by (intro w; first | exact w | exact Memory.wf_write _ _ w | exact Memory.wf_clear _ _ w | exact Memory.wf_filter _ w | exact Memory.wf_set _ _ w)⟩))
    | (rw [Dev.mk_tag]; (with_reducible apply K.mkT); rotate_left; (intro p hq; cases p <;> first | exact absurd hq (by decide) | rfl | exact ⟨rfl, rfl⟩ | exact fun _ => ⟨rfl, rfl⟩); exact fun w => w)

theorem Foot.regionTestDone {e d : Dev} {pm rm : Nat} {fails : List Nat} (h : K e d pm rm) (hp : sub 0x8000022 pm = true)
    (hr : sub 0x2b7e800000000040000400000000000000000000080000 rm = true) : K e (Dev.regionTestDone d fails) pm rm := by
  refine K.lift h hp hr ?_
  clear h hp hr
  unfold Dev.regionTestDone
  all_goals repeat' first
    | with_reducible exact K.refl _ _ _
    | with_reducible assumption
    | ((with_reducible apply K.put); rotate_left; (first | assumption | exact R.mem_CORR_EVENT | exact R.mem_DRIVE_EVENT | exact R.mem_LS_EVENT | exact R.mem_LS_TEST_FAIL_COUNT | exact R.mem_LS_TEST_STATUS); decide)
    | ((with_reducible apply K.inc); rotate_left; (first | assumption | exact R.mem_CORR_EVENT | exact R.mem_DRIVE_EVENT | exact R.mem_LS_EVENT | exact R.mem_LS_TEST_FAIL_COUNT | exact R.mem_LS_TEST_STATUS); decide)
    | ((with_reducible apply K.raise); rotate_left; (first | assumption | exact R.mem_CORR_EVENT | exact R.mem_DRIVE_EVENT | exact R.mem_LS_EVENT | exact R.mem_LS_TEST_FAIL_COUNT | exact R.mem_LS_TEST_STATUS); decide; decide; decide)
    | ((with_reducible apply Foot.lsRetry); rotate_left; decide; decide)
    | with_reducible apply K.ite
    | ((with_reducible apply K.each); rotate_left; intro d x h; rotate_right)
    | ((with_reducible apply K.foldl); rotate_left; intro d x h; rotate_right)
    | ((with_reducible apply K.foldlFst); rotate_left; intro x y h; rotate_right)
    | ((with_reducible apply K.foldlSnd); rotate_left; intro x y h; rotate_right)
    | with_reducible apply K.fst_ite
    | with_reducible apply K.cond
    | with_reducible refine K.of_fst ?_ (by assumption)
    | with_reducible refine K.of_snd ?_ (by assumption)
    | (split)
    | dsimp only
    | (rw [Dev.mk_tag]; (with_reducible apply K.mk_log); rotate_left; decide)
    | (rw [Dev.mk_tag]; (with_reducible apply K.mk_ls); rotate_left; decide; (first | exact .inl rfl | exact .inl ⟨rfl, rfl⟩ | exact .inr ⟨by decide, by (intro w; first | exact w | exact Memory.wf_write _ _ w | exact Memory.wf_clear _ _ w | exact Memory.wf_filter _ w | exact Memory.wf_set _ _ w)⟩))
    | (rw [Dev.mk_tag]; (with_reducible apply K.mkT); rotate_left; (intro p hq; cases p <;> first | exact absurd hq (by decide) | rfl | exact ⟨rfl, rfl⟩ | exact fun _ => ⟨rfl, rfl⟩); exact fun w => w)

end Sys2Proof.Machine
end

