-- ==== Sys2Proof/Laws/FootCorrect.lean ====
section
/-! SUPPORT.  Footprints of the functions of `Machine/Correct.lean` (see `Keep.lean`): what each leaves alone. -/

set_option Elab.async false
set_option linter.all false

namespace Sys2Proof.Machine

theorem Foot.statLine {e d : Dev} {pm rm : Nat} {y : Nat} {px : List Px} (h : K e d pm rm) (hp : sub 0x400 pm = true)
    (hr : sub 0x0 rm = true) : K e (Dev.statLine d y px) pm rm := by
  refine K.lift h hp hr ?_
  clear h hp hr
  unfold Dev.statLine
  extract_lets x1 x2 x3 x4 x5
  clear_value (g1 : x1 = _) (g2 : x2 = _) (g3 : x3 = _) (g4 : x4 = _) (g5 : x5 = _)
  clear g1
  clear g2
  clear g3
  clear g4
  subst g5
  all_goals repeat' first
    | with_reducible exact K.refl _ _ _
    | with_reducible assumption
    | with_reducible apply K.ite
    | ((with_reducible apply K.foldl); rotate_left; intro d x h; rotate_right)
    | ((with_reducible apply K.foldlFst); rotate_left; intro x y h; rotate_right)
    | ((with_reducible apply K.foldlSnd); rotate_left; intro x y h; rotate_right)
    | with_reducible apply K.fst_ite
    | with_reducible apply K.cond
    | with_reducible refine K.of_fst ?_ (by assumption)
    | with_reducible refine K.of_snd ?_ (by assumption)
    | (split)
    | dsimp only
    | (rw [Dev.mk_tag]; (with_reducible apply K.mk_scan); rotate_left; decide)
    | (rw [Dev.mk_tag]; (with_reducible apply K.mkT); rotate_left; (intro p hq; cases p <;> first | exact absurd hq (by decide) | rfl | exact ⟨rfl, rfl⟩ | exact fun _ => ⟨rfl, rfl⟩); exact fun w => w)

theorem Foot.writeRecords {e d : Dev} {pm rm : Nat} {rs : List (Nat × List Byte)} (h : K e d pm rm) (hp : sub 0x8000022 pm = true)
    (hr : sub 0x281a800000000040000400000000000000000000080000 rm = true) : K e (Dev.writeRecords d rs) pm rm := by
  refine K.lift h hp hr ?_
  clear h hp hr
  unfold Dev.writeRecords
  all_goals repeat' first
    | with_reducible exact K.refl _ _ _
    | with_reducible assumption
    | ((with_reducible apply Foot.lsWrite); rotate_left; decide; decide)
    | with_reducible apply K.ite
    | ((with_reducible apply K.each); rotate_left; intro d x h; rotate_right)
    | ((with_reducible apply K.foldl); rotate_left; intro d x h; rotate_right)
    | ((with_reducible apply K.foldlFst); rotate_left; intro x y h; rotate_right)
    | ((with_reducible apply K.foldlSnd); rotate_left; intro x y h; rotate_right)
    | with_reducible apply K.fst_ite
    | with_reducible apply K.cond
    | with_reducible refine K.of_fst ?_ (by assumption)
    | with_reducible refine K.of_snd ?_ (by assumption)
    | (split)
    | dsimp only
    | (rw [Dev.mk_tag]; (with_reducible apply K.mk_log); rotate_left; decide)
    | (rw [Dev.mk_tag]; (with_reducible apply K.mk_ls); rotate_left; decide; (first | exact .inl rfl | exact .inl ⟨rfl, rfl⟩ | exact .inr ⟨by decide, by (intro w; first | exact w | exact Memory.wf_write _ _ w | exact Memory.wf_clear _ _ w | exact Memory.wf_filter _ w | exact Memory.wf_set _ _ w)⟩))
    | (rw [Dev.mk_tag]; (with_reducible apply K.mkT); rotate_left; (intro p hq; cases p <;> first | exact absurd hq (by decide) | rfl | exact ⟨rfl, rfl⟩ | exact fun _ => ⟨rfl, rfl⟩); exact fun w => w)

theorem Foot.statRowWrite {e d : Dev} {pm rm : Nat} (h : K e d pm rm) (hp : sub 0x8000422 pm = true)
    (hr : sub 0x281a800000000040000400000000000000000000080000 rm = true) : K e (Dev.statRowWrite d) pm rm := by
  refine K.lift h hp hr ?_
  clear h hp hr
  unfold Dev.statRowWrite
  extract_lets x1 x2
  clear_value (g1 : x1 = _) (g2 : x2 = _)
  refine K.cutEq d 0x8000422 0x281a800000000040000400000000000000000000080000 g1 ?_ (fun h1 => ?_)
  rotate_left
  clear g1
  subst g2
  all_goals repeat' first
    | with_reducible exact K.refl _ _ _
    | with_reducible assumption
    | ((with_reducible apply Foot.writeRecords); rotate_left; decide; decide)
    | with_reducible apply K.ite
    | ((with_reducible apply K.foldl); rotate_left; intro d x h; rotate_right)
    | ((with_reducible apply K.foldlFst); rotate_left; intro x y h; rotate_right)
    | ((with_reducible apply K.foldlSnd); rotate_left; intro x y h; rotate_right)
    | with_reducible apply K.fst_ite
    | with_reducible apply K.cond
    | with_reducible refine K.of_fst ?_ (by assumption)
    | with_reducible refine K.of_snd ?_ (by assumption)
    | (split)
    | dsimp only
    | (rw [Dev.mk_tag]; (with_reducible apply K.mk_log); rotate_left; decide)
    | (rw [Dev.mk_tag]; (with_reducible apply K.mk_ls); rotate_left; decide; (first | exact .inl rfl | exact .inl ⟨rfl, rfl⟩ | exact .inr ⟨by decide, by (intro w; first | exact w | exact Memory.wf_write _ _ w | exact Memory.wf_clear _ _ w | exact Memory.wf_filter _ w | exact Memory.wf_set _ _ w)⟩))
    | (rw [Dev.mk_tag]; (with_reducible apply K.mk_scan); rotate_left; decide)
    | (rw [Dev.mk_tag]; (with_reducible apply K.mkT); rotate_left; (intro p hq; cases p <;> first | exact absurd hq (by decide) | rfl | exact ⟨rfl, rfl⟩ | exact fun _ => ⟨rfl, rfl⟩); exact fun w => w)

theorem Foot.loadMap {e d : Dev} {pm rm : Nat} {k0 : Nat} (h : K e d pm rm) (hp : sub 0x400 pm = true)
    (hr : sub 0x0 rm = true) : K e (Dev.loadMap d k0) pm rm := by
  refine K.lift h hp hr ?_
  clear h hp hr
  unfold Dev.loadMap
  extract_lets x1
  clear_value (g1 : x1 = _)
  subst g1
  all_goals repeat' first
    | with_reducible exact K.refl _ _ _
    | with_reducible assumption
    | with_reducible apply K.ite
    | ((with_reducible apply K.foldl); rotate_left; intro d x h; rotate_right)
    | ((with_reducible apply K.foldlFst); rotate_left; intro x y h; rotate_right)
    | ((with_reducible apply K.foldlSnd); rotate_left; intro x y h; rotate_right)
    | with_reducible apply K.fst_ite
    | with_reducible apply K.cond
    | with_reducible refine K.of_fst ?_ (by assumption)
    | with_reducible refine K.of_snd ?_ (by assumption)
    | (split)
    | dsimp only
    | (rw [Dev.mk_tag]; (with_reducible apply K.mk_scan); rotate_left; decide)
    | (rw [Dev.mk_tag]; (with_reducible apply K.mkT); rotate_left; (intro p hq; cases p <;> first | exact absurd hq (by decide) | rfl | exact ⟨rfl, rfl⟩ | exact fun _ => ⟨rfl, rfl⟩); exact fun w => w)

end Sys2Proof.Machine
end

