-- ==== Sys2Proof/Laws/FootDram.lean ====
section
/-! SUPPORT.  Footprints of the functions of `Machine/Dram.lean` (see `Keep.lean`): what each leaves alone. -/

set_option Elab.async false
set_option linter.all false

namespace Sys2Proof.Machine

theorem Foot.dramReady {e d : Dev} {pm rm : Nat} {a : Nat} (h : K e d pm rm) (hp : sub 0x0 pm = true)
    (hr : sub 0x80000000000000000000080000000000000000000000000000000000000000000000000 rm = true) : K e (Dev.dramReady d a) pm rm := by
  refine K.lift h hp hr ?_
  clear h hp hr
  unfold Dev.dramReady
  extract_lets x1 x2
  clear_value (g1 : x1 = _) (g2 : x2 = _)
  clear g1
  refine K.cutEq d 0x0 0x80000000000000000000080000000000000000000000000000000000000000000000000 g2 ?_ (fun h2 => ?_)
  rotate_left
  clear g2
  all_goals repeat' first
    | with_reducible exact K.refl _ _ _
    | with_reducible assumption
    | ((with_reducible apply K.put); rotate_left; (first | assumption | exact R.mem_DRAM_CH_STATUS); decide)
    | ((with_reducible apply Foot.wakeNow); rotate_left; decide; decide)
    | with_reducible apply K.ite
    | ((with_reducible apply K.foldl); rotate_left; intro d x h; rotate_right)
    | ((with_reducible apply K.foldlFst); rotate_left; intro x y h; rotate_right)
    | ((with_reducible apply K.foldlSnd); rotate_left; intro x y h; rotate_right)
    | with_reducible apply K.fst_ite
    | with_reducible apply K.cond
    | with_reducible refine K.of_fst ?_ (by assumption)
    | with_reducible refine K.of_snd ?_ (by assumption)
    | (split)
    | dsimp only
    | (rw [Dev.mk_tag]; (with_reducible apply K.mkT); rotate_left; (intro p hq; cases p <;> first | exact absurd hq (by decide) | rfl | exact ⟨rfl, rfl⟩ | exact fun _ => ⟨rfl, rfl⟩); exact fun w => w)

theorem Foot.dramReadBlock {e d : Dev} {pm rm : Nat} {port : Nat} {a : Nat} (h : K e d pm rm) (hp : sub 0x82 pm = true)
    (hr : sub 0x800000000000000000000a3680000000000000000000000000000000000000000080000 rm = true) : K e (Dev.dramReadBlock d port a).1 pm rm := by
  refine K.lift h hp hr ?_
  clear h hp hr
  unfold Dev.dramReadBlock
  extract_lets x1 x2 x3 x4 x5 x6
  clear_value (g1 : x1 = _) (g2 : x2 = _) (g3 : x3 = _) (g4 : x4 = _) (g5 : x5 = _) (g6 : x6 = _)
  clear g1
  clear g2
  refine K.cutEq d 0x82 0x800000000000000000000a3680000000000000000000000000000000000000000080000 g3 ?_ (fun h3 => ?_)
  rotate_left
  clear g3
  refine K.cutEq d 0x82 0x800000000000000000000a3680000000000000000000000000000000000000000080000 g4 ?_ (fun h4 => ?_)
  rotate_left
  clear g4
  subst g5
  refine K.cutEq d 0x82 0x800000000000000000000a3680000000000000000000000000000000000000000080000 g6 ?_ (fun h6 => ?_)
  rotate_left
  clear g6
  all_goals repeat' first
    | with_reducible exact K.refl _ _ _
    | with_reducible assumption
    | ((with_reducible apply K.put); rotate_left; (first | assumption | exact R.mem_DRAM_CE_COUNT | exact R.mem_DRAM_ECC_INFO | exact R.mem_DRAM_ECC_STATUS | exact R.mem_DRAM_EVENT | exact R.mem_DRAM_UE_COUNT | exact R.mem_DRQ_UE_COUNT); decide)
    | ((with_reducible apply K.inc); rotate_left; (first | assumption | exact R.mem_DRAM_CE_COUNT | exact R.mem_DRAM_ECC_INFO | exact R.mem_DRAM_ECC_STATUS | exact R.mem_DRAM_EVENT | exact R.mem_DRAM_UE_COUNT | exact R.mem_DRQ_UE_COUNT); decide)
    | ((with_reducible apply K.raise); rotate_left; (first | assumption | exact R.mem_DRAM_CE_COUNT | exact R.mem_DRAM_ECC_INFO | exact R.mem_DRAM_ECC_STATUS | exact R.mem_DRAM_EVENT | exact R.mem_DRAM_UE_COUNT | exact R.mem_DRQ_UE_COUNT); decide; decide; decide)
    | ((with_reducible apply Foot.dramReady); rotate_left; decide; decide)
    | with_reducible apply K.ite
    | ((with_reducible apply K.foldl); rotate_left; intro d x h; rotate_right)
    | ((with_reducible apply K.foldlFst); rotate_left; intro x y h; rotate_right)
    | ((with_reducible apply K.foldlSnd); rotate_left; intro x y h; rotate_right)
    | with_reducible apply K.fst_ite
    | with_reducible apply K.cond
    | with_reducible refine K.of_fst ?_ (by assumption)
    | with_reducible refine K.of_snd ?_ (by assumption)
    | (split)
    | dsimp only
    | (rw [Dev.mk_tag]; (with_reducible apply K.mk_log); rotate_left; decide)
    | (rw [Dev.mk_tag]; (with_reducible apply K.mk_dram); rotate_left; decide; (first | exact .inl rfl | exact .inl ⟨rfl, rfl⟩ | exact .inr ⟨by decide, by (intro w; first | exact w | exact Memory.wf_write _ _ w | exact Memory.wf_clear _ _ w | exact Memory.wf_filter _ w | exact Memory.wf_set _ _ w)⟩))
    | (rw [Dev.mk_tag]; (with_reducible apply K.mkT); rotate_left; (intro p hq; cases p <;> first | exact absurd hq (by decide) | rfl | exact ⟨rfl, rfl⟩ | exact fun _ => ⟨rfl, rfl⟩); exact fun w => w)

theorem Foot.dramStore {e d : Dev} {pm rm : Nat} {a : Nat} {bs : List Byte} (h : K e d pm rm) (hp : sub 0x10000080 pm = true)
    (hr : sub 0x0 rm = true) : K e (Dev.dramStore d a bs) pm rm := by
  refine K.lift h hp hr ?_
  clear h hp hr
  unfold Dev.dramStore
  extract_lets x1
  clear_value (g1 : x1 = _)
  subst g1
  all_goals repeat' first
    | with_reducible exact K.refl _ _ _
    | with_reducible assumption
    | with_reducible apply K.ite
    | ((with_reducible apply K.foldl); rotate_left; intro d x h; rotate_right)
    | ((with_reducible apply K.foldlFst); rotate_left; intro x y h; rotate_right)
    | ((with_reducible apply K.foldlSnd); rotate_left; intro x y h; rotate_right)
    | with_reducible apply K.fst_ite
    | with_reducible apply K.cond
    | with_reducible refine K.of_fst ?_ (by assumption)
    | with_reducible refine K.of_snd ?_ (by assumption)
    | (split)
    | dsimp only
    | (rw [Dev.mk_tag]; (with_reducible apply K.mk_dram); rotate_left; decide; (first | exact .inl rfl | exact .inl ⟨rfl, rfl⟩ | exact .inr ⟨by decide, by (intro w; first | exact w | exact Memory.wf_write _ _ w | exact Memory.wf_clear _ _ w | exact Memory.wf_filter _ w | exact Memory.wf_set _ _ w)⟩))
    | (rw [Dev.mk_tag]; (with_reducible apply K.mkT); rotate_left; (intro p hq; cases p <;> first | exact absurd hq (by decide) | rfl | exact ⟨rfl, rfl⟩ | exact fun _ => ⟨rfl, rfl⟩); exact fun w => w)

theorem Foot.dramWriteBlock {e d : Dev} {pm rm : Nat} {port : Nat} {a : Nat} {bs : List Byte} (h : K e d pm rm) (hp : sub 0x10000082 pm = true)
    (hr : sub 0x800000000000000000000a3680000000000000000000000000000000000000000080000 rm = true) : K e (Dev.dramWriteBlock d port a bs).1 pm rm := by
  refine K.lift h hp hr ?_
  clear h hp hr
  unfold Dev.dramWriteBlock
  extract_lets x1
  clear_value (g1 : x1 = _)
  refine K.cutEq d 0x10000082 0x800000000000000000000a3680000000000000000000000000000000000000000080000 g1 ?_ (fun h1 => ?_)
  rotate_left
  clear g1
  all_goals repeat' first
    | with_reducible exact K.refl _ _ _
    | with_reducible assumption
    | ((with_reducible apply Foot.dramReady); rotate_left; decide; decide)
    | ((with_reducible apply Foot.dramStore); rotate_left; decide; decide)
    | ((with_reducible apply Foot.dramReadBlock); rotate_left; decide; decide)
    | with_reducible apply K.ite
    | ((with_reducible apply K.foldl); rotate_left; intro d x h; rotate_right)
    | ((with_reducible apply K.foldlFst); rotate_left; intro x y h; rotate_right)
    | ((with_reducible apply K.foldlSnd); rotate_left; intro x y h; rotate_right)
    | with_reducible apply K.fst_ite
    | with_reducible apply K.cond
    | with_reducible refine K.of_fst ?_ (by assumption)
    | with_reducible refine K.of_snd ?_ (by assumption)
    | (split)
    | dsimp only
    | (rw [Dev.mk_tag]; (with_reducible apply K.mk_log); rotate_left; decide)
    | (rw [Dev.mk_tag]; (with_reducible apply K.mk_dram); rotate_left; decide; (first | exact .inl rfl | exact .inl ⟨rfl, rfl⟩ | exact .inr ⟨by decide, by (intro w; first | exact w | exact Memory.wf_write _ _ w | exact Memory.wf_clear _ _ w | exact Memory.wf_filter _ w | exact Memory.wf_set _ _ w)⟩))
    | (rw [Dev.mk_tag]; (with_reducible apply K.mkT); rotate_left; (intro p hq; cases p <;> first | exact absurd hq (by decide) | rfl | exact ⟨rfl, rfl⟩ | exact fun _ => ⟨rfl, rfl⟩); exact fun w => w)

theorem Foot.dramRead {e d : Dev} {pm rm : Nat} {port : Nat} {a : Nat} {n : Nat} (h : K e d pm rm) (hp : sub 0x82 pm = true)
    (hr : sub 0x800000000000000000000a3680000000000000000000000000000000000000000080000 rm = true) : K e (Dev.dramRead d port a n).1 pm rm := by
  refine K.lift h hp hr ?_
  clear h hp hr
  unfold Dev.dramRead
  all_goals repeat' first
    | with_reducible exact K.refl _ _ _
    | with_reducible assumption
    | ((with_reducible apply Foot.dramReadBlock); rotate_left; decide; decide)
    | with_reducible apply K.ite
    | ((with_reducible apply K.foldl); rotate_left; intro d x h; rotate_right)
    | ((with_reducible apply K.foldlFst); rotate_left; intro x y h; rotate_right)
    | ((with_reducible apply K.foldlSnd); rotate_left; intro x y h; rotate_right)
    | with_reducible apply K.fst_ite
    | with_reducible apply K.cond
    | with_reducible refine K.of_fst ?_ (by assumption)
    | with_reducible refine K.of_snd ?_ (by assumption)
    | (split)
    | dsimp only
    | (rw [Dev.mk_tag]; (with_reducible apply K.mk_log); rotate_left; decide)
    | (rw [Dev.mk_tag]; (with_reducible apply K.mk_dram); rotate_left; decide; (first | exact .inl rfl | exact .inl ⟨rfl, rfl⟩ | exact .inr ⟨by decide, by (intro w; first | exact w | exact Memory.wf_write _ _ w | exact Memory.wf_clear _ _ w | exact Memory.wf_filter _ w | exact Memory.wf_set _ _ w)⟩))
    | (rw [Dev.mk_tag]; (with_reducible apply K.mkT); rotate_left; (intro p hq; cases p <;> first | exact absurd hq (by decide) | rfl | exact ⟨rfl, rfl⟩ | exact fun _ => ⟨rfl, rfl⟩); exact fun w => w)

theorem Foot.dramWrite {e d : Dev} {pm rm : Nat} {port : Nat} {a : Nat} {bs : List Byte} (h : K e d pm rm) (hp : sub 0x10000082 pm = true)
    (hr : sub 0x800000000000000000000a3680000000000000000000000000000000000000000080000 rm = true) : K e (Dev.dramWrite d port a bs).1 pm rm := by
  refine K.lift h hp hr ?_
  clear h hp hr
  unfold Dev.dramWrite
  all_goals repeat' first
    | with_reducible exact K.refl _ _ _
    | with_reducible assumption
    | ((with_reducible apply Foot.dramWriteBlock); rotate_left; decide; decide)
    | with_reducible apply K.ite
    | ((with_reducible apply K.foldl); rotate_left; intro d x h; rotate_right)
    | ((with_reducible apply K.foldlFst); rotate_left; intro x y h; rotate_right)
    | ((with_reducible apply K.foldlSnd); rotate_left; intro x y h; rotate_right)
    | with_reducible apply K.fst_ite
    | with_reducible apply K.cond
    | with_reducible refine K.of_fst ?_ (by assumption)
    | with_reducible refine K.of_snd ?_ (by assumption)
    | (split)
    | dsimp only
    | (rw [Dev.mk_tag]; (with_reducible apply K.mk_log); rotate_left; decide)
    | (rw [Dev.mk_tag]; (with_reducible apply K.mk_dram); rotate_left; decide; (first | exact .inl rfl | exact .inl ⟨rfl, rfl⟩ | exact .inr ⟨by decide, by (intro w; first | exact w | exact Memory.wf_write _ _ w | exact Memory.wf_clear _ _ w | exact Memory.wf_filter _ w | exact Memory.wf_set _ _ w)⟩))
    | (rw [Dev.mk_tag]; (with_reducible apply K.mkT); rotate_left; (intro p hq; cases p <;> first | exact absurd hq (by decide) | rfl | exact ⟨rfl, rfl⟩ | exact fun _ => ⟨rfl, rfl⟩); exact fun w => w)

theorem Foot.hold {e d : Dev} {pm rm : Nat} {h0 : Held} (h : K e d pm rm) (hp : sub 0x4 pm = true)
    (hr : sub 0x3000000000000 rm = true) : K e (Dev.hold d h0) pm rm := by
  refine K.lift h hp hr ?_
  clear h hp hr
  unfold Dev.hold
  all_goals repeat' first
    | with_reducible exact K.refl _ _ _
    | with_reducible assumption
    | ((with_reducible apply K.put); rotate_left; (first | assumption | exact R.mem_GUARD_CTRL | exact R.mem_GUARD_HOLD); decide)
    | ((with_reducible apply K.inc); rotate_left; (first | assumption | exact R.mem_GUARD_CTRL | exact R.mem_GUARD_HOLD); decide)
    | with_reducible apply K.ite
    | ((with_reducible apply K.foldl); rotate_left; intro d x h; rotate_right)
    | ((with_reducible apply K.foldlFst); rotate_left; intro x y h; rotate_right)
    | ((with_reducible apply K.foldlSnd); rotate_left; intro x y h; rotate_right)
    | with_reducible apply K.fst_ite
    | with_reducible apply K.cond
    | with_reducible refine K.of_fst ?_ (by assumption)
    | with_reducible refine K.of_snd ?_ (by assumption)
    | (split)
    | dsimp only
    | (rw [Dev.mk_tag]; (with_reducible apply K.mk_held); rotate_left; decide)
    | (rw [Dev.mk_tag]; (with_reducible apply K.mkT); rotate_left; (intro p hq; cases p <;> first | exact absurd hq (by decide) | rfl | exact ⟨rfl, rfl⟩ | exact fun _ => ⟨rfl, rfl⟩); exact fun w => w)

theorem Foot.guardRefuse {e d : Dev} {pm rm : Nat} {a : Nat} (h : K e d pm rm) (hp : sub 0x0 pm = true)
    (hr : sub 0x4000000000000 rm = true) : K e (Dev.guardRefuse d a) pm rm := by
  refine K.lift h hp hr ?_
  clear h hp hr
  unfold Dev.guardRefuse
  all_goals repeat' first
    | with_reducible exact K.refl _ _ _
    | with_reducible assumption
    | ((with_reducible apply K.put); rotate_left; (first | assumption | exact R.mem_GUARD_STATUS); decide)
    | with_reducible apply K.ite
    | ((with_reducible apply K.foldl); rotate_left; intro d x h; rotate_right)
    | ((with_reducible apply K.foldlFst); rotate_left; intro x y h; rotate_right)
    | ((with_reducible apply K.foldlSnd); rotate_left; intro x y h; rotate_right)
    | with_reducible apply K.fst_ite
    | with_reducible apply K.cond
    | with_reducible refine K.of_fst ?_ (by assumption)
    | with_reducible refine K.of_snd ?_ (by assumption)
    | (split)
    | dsimp only
    | (rw [Dev.mk_tag]; (with_reducible apply K.mkT); rotate_left; (intro p hq; cases p <;> first | exact absurd hq (by decide) | rfl | exact ⟨rfl, rfl⟩ | exact fun _ => ⟨rfl, rfl⟩); exact fun w => w)

theorem Foot.showUse {e d : Dev} {pm rm : Nat} {p : Nat} (h : K e d pm rm) (hp : sub 0x0 pm = true)
    (hr : sub 0x10000000000000000000000000000000000000000000000000 rm = true) : K e (Dev.showUse d p) pm rm := by
  refine K.lift h hp hr ?_
  clear h hp hr
  unfold Dev.showUse
  all_goals repeat' first
    | with_reducible exact K.refl _ _ _
    | with_reducible assumption
    | ((with_reducible apply K.put); rotate_left; (first | assumption | exact R.mem_DRQ_STATUS); decide)
    | with_reducible apply K.ite
    | ((with_reducible apply K.foldl); rotate_left; intro d x h; rotate_right)
    | ((with_reducible apply K.foldlFst); rotate_left; intro x y h; rotate_right)
    | ((with_reducible apply K.foldlSnd); rotate_left; intro x y h; rotate_right)
    | with_reducible apply K.fst_ite
    | with_reducible apply K.cond
    | with_reducible refine K.of_fst ?_ (by assumption)
    | with_reducible refine K.of_snd ?_ (by assumption)
    | (split)
    | dsimp only
    | (rw [Dev.mk_tag]; (with_reducible apply K.mkT); rotate_left; (intro p hq; cases p <;> first | exact absurd hq (by decide) | rfl | exact ⟨rfl, rfl⟩ | exact fun _ => ⟨rfl, rfl⟩); exact fun w => w)

theorem Foot.checkQuota {e d : Dev} {pm rm : Nat} {p : Nat} (h : K e d pm rm) (hp : sub 0x2 pm = true)
    (hr : sub 0x10080000000000000000000000000000000000000000080000 rm = true) : K e (Dev.checkQuota d p) pm rm := by
  refine K.lift h hp hr ?_
  clear h hp hr
  unfold Dev.checkQuota
  all_goals repeat' first
    | with_reducible exact K.refl _ _ _
    | with_reducible assumption
    | ((with_reducible apply K.put); rotate_left; (first | assumption | exact R.mem_DRAM_EVENT | exact R.mem_DRQ_STATUS); decide)
    | ((with_reducible apply K.raise); rotate_left; (first | assumption | exact R.mem_DRAM_EVENT | exact R.mem_DRQ_STATUS); decide; decide; decide)
    | with_reducible apply K.ite
    | ((with_reducible apply K.foldl); rotate_left; intro d x h; rotate_right)
    | ((with_reducible apply K.foldlFst); rotate_left; intro x y h; rotate_right)
    | ((with_reducible apply K.foldlSnd); rotate_left; intro x y h; rotate_right)
    | with_reducible apply K.fst_ite
    | with_reducible apply K.cond
    | with_reducible refine K.of_fst ?_ (by assumption)
    | with_reducible refine K.of_snd ?_ (by assumption)
    | (split)
    | dsimp only
    | (rw [Dev.mk_tag]; (with_reducible apply K.mk_log); rotate_left; decide)
    | (rw [Dev.mk_tag]; (with_reducible apply K.mkT); rotate_left; (intro p hq; cases p <;> first | exact absurd hq (by decide) | rfl | exact ⟨rfl, rfl⟩ | exact fun _ => ⟨rfl, rfl⟩); exact fun w => w)

theorem Foot.countGrant {e d : Dev} {pm rm : Nat} {p : Nat} {n : Nat} (h : K e d pm rm) (hp : sub 0x82 pm = true)
    (hr : sub 0x10080000000000000000000000000000000000000000080000 rm = true) : K e (Dev.countGrant d p n) pm rm := by
  refine K.lift h hp hr ?_
  clear h hp hr
  unfold Dev.countGrant
  extract_lets x1 x2
  clear_value (g1 : x1 = _) (g2 : x2 = _)
  clear g1
  subst g2
  all_goals repeat' first
    | with_reducible exact K.refl _ _ _
    | with_reducible assumption
    | ((with_reducible apply Foot.checkQuota); rotate_left; decide; decide)
    | ((with_reducible apply Foot.showUse); rotate_left; decide; decide)
    | with_reducible apply K.ite
    | ((with_reducible apply K.foldl); rotate_left; intro d x h; rotate_right)
    | ((with_reducible apply K.foldlFst); rotate_left; intro x y h; rotate_right)
    | ((with_reducible apply K.foldlSnd); rotate_left; intro x y h; rotate_right)
    | with_reducible apply K.fst_ite
    | with_reducible apply K.cond
    | with_reducible refine K.of_fst ?_ (by assumption)
    | with_reducible refine K.of_snd ?_ (by assumption)
    | (split)
    | dsimp only
    | (rw [Dev.mk_tag]; (with_reducible apply K.mk_log); rotate_left; decide)
    | (rw [Dev.mk_tag]; (with_reducible apply K.mk_dram); rotate_left; decide; (first | exact .inl rfl | exact .inl ⟨rfl, rfl⟩ | exact .inr ⟨by decide, by (intro w; first | exact w | exact Memory.wf_write _ _ w | exact Memory.wf_clear _ _ w | exact Memory.wf_filter _ w | exact Memory.wf_set _ _ w)⟩))
    | (rw [Dev.mk_tag]; (with_reducible apply K.mkT); rotate_left; (intro p hq; cases p <;> first | exact absurd hq (by decide) | rfl | exact ⟨rfl, rfl⟩ | exact fun _ => ⟨rfl, rfl⟩); exact fun w => w)

theorem Foot.closeRows {e d : Dev} {pm rm : Nat} {p : Nat → Bool} (h : K e d pm rm) (hp : sub 0x80 pm = true)
    (hr : sub 0x0 rm = true) : K e (Dev.closeRows d p) pm rm := by
  refine K.lift h hp hr ?_
  clear h hp hr
  unfold Dev.closeRows
  extract_lets x1
  clear_value (g1 : x1 = _)
  subst g1
  all_goals repeat' first
    | with_reducible exact K.refl _ _ _
    | with_reducible assumption
    | with_reducible apply K.ite
    | ((with_reducible apply K.foldl); rotate_left; intro d x h; rotate_right)
    | ((with_reducible apply K.foldlFst); rotate_left; intro x y h; rotate_right)
    | ((with_reducible apply K.foldlSnd); rotate_left; intro x y h; rotate_right)
    | with_reducible apply K.fst_ite
    | with_reducible apply K.cond
    | with_reducible refine K.of_fst ?_ (by assumption)
    | with_reducible refine K.of_snd ?_ (by assumption)
    | (split)
    | dsimp only
    | (rw [Dev.mk_tag]; (with_reducible apply K.mk_dram); rotate_left; decide; (first | exact .inl rfl | exact .inl ⟨rfl, rfl⟩ | exact .inr ⟨by decide, by (intro w; first | exact w | exact Memory.wf_write _ _ w | exact Memory.wf_clear _ _ w | exact Memory.wf_filter _ w | exact Memory.wf_set _ _ w)⟩))
    | (rw [Dev.mk_tag]; (with_reducible apply K.mkT); rotate_left; (intro p hq; cases p <;> first | exact absurd hq (by decide) | rfl | exact ⟨rfl, rfl⟩ | exact fun _ => ⟨rfl, rfl⟩); exact fun w => w)

theorem Foot.countActivation {e d : Dev} {pm rm : Nat} {ch : Nat} {bank : Nat} {row : Nat} {port : Nat} (h : K e d pm rm) (hp : sub 0x82 pm = true)
    (hr : sub 0x4880000000000000000000000000000000000000000080000 rm = true) : K e (Dev.countActivation d ch bank row port) pm rm := by
  refine K.lift h hp hr ?_
  clear h hp hr
  unfold Dev.countActivation
  extract_lets x1 x2 x3 x4
  clear_value (g1 : x1 = _) (g2 : x2 = _) (g3 : x3 = _) (g4 : x4 = _)
  clear g1
  clear g2
  subst g3
  clear g4
  all_goals repeat' first
    | with_reducible exact K.refl _ _ _
    | with_reducible assumption
    | ((with_reducible apply K.put); rotate_left; (first | assumption | exact R.mem_DRAM_EVENT | exact R.mem_DRAM_HAMMER_STATUS | exact R.mem_DRAM_RD_CFG | exact R.mem_DRAM_RFM_COUNT); decide)
    | ((with_reducible apply K.inc); rotate_left; (first | assumption | exact R.mem_DRAM_EVENT | exact R.mem_DRAM_HAMMER_STATUS | exact R.mem_DRAM_RD_CFG | exact R.mem_DRAM_RFM_COUNT); decide)
    | ((with_reducible apply K.raise); rotate_left; (first | assumption | exact R.mem_DRAM_EVENT | exact R.mem_DRAM_HAMMER_STATUS | exact R.mem_DRAM_RD_CFG | exact R.mem_DRAM_RFM_COUNT); decide; decide; decide)
    | ((with_reducible apply Foot.closeRows); rotate_left; decide; decide)
    | with_reducible apply K.ite
    | ((with_reducible apply K.foldl); rotate_left; intro d x h; rotate_right)
    | ((with_reducible apply K.foldlFst); rotate_left; intro x y h; rotate_right)
    | ((with_reducible apply K.foldlSnd); rotate_left; intro x y h; rotate_right)
    | with_reducible apply K.fst_ite
    | with_reducible apply K.cond
    | with_reducible refine K.of_fst ?_ (by assumption)
    | with_reducible refine K.of_snd ?_ (by assumption)
    | (split)
    | dsimp only
    | (rw [Dev.mk_tag]; (with_reducible apply K.mk_log); rotate_left; decide)
    | (rw [Dev.mk_tag]; (with_reducible apply K.mk_dram); rotate_left; decide; (first | exact .inl rfl | exact .inl ⟨rfl, rfl⟩ | exact .inr ⟨by decide, by (intro w; first | exact w | exact Memory.wf_write _ _ w | exact Memory.wf_clear _ _ w | exact Memory.wf_filter _ w | exact Memory.wf_set _ _ w)⟩))
    | (rw [Dev.mk_tag]; (with_reducible apply K.mkT); rotate_left; (intro p hq; cases p <;> first | exact absurd hq (by decide) | rfl | exact ⟨rfl, rfl⟩ | exact fun _ => ⟨rfl, rfl⟩); exact fun w => w)

theorem Foot.dramOpen {e d : Dev} {pm rm : Nat} {r : DramReq} (h : K e d pm rm) (hp : sub 0x82 pm = true)
    (hr : sub 0x4880000000000000000000000000000000000000000080000 rm = true) : K e (Dev.dramOpen d r) pm rm := by
  refine K.lift h hp hr ?_
  clear h hp hr
  unfold Dev.dramOpen
  extract_lets x1 x2 x3 x4 x5
  clear_value (g1 : x1 = _) (g2 : x2 = _) (g3 : x3 = _) (g4 : x4 = _) (g5 : x5 = _)
  clear g1
  clear g2
  clear g3
  clear g4
  subst g5
  all_goals repeat' first
    | with_reducible exact K.refl _ _ _
    | with_reducible assumption
    | ((with_reducible apply Foot.countActivation); rotate_left; decide; decide)
    | with_reducible apply K.ite
    | ((with_reducible apply K.foldl); rotate_left; intro d x h; rotate_right)
    | ((with_reducible apply K.foldlFst); rotate_left; intro x y h; rotate_right)
    | ((with_reducible apply K.foldlSnd); rotate_left; intro x y h; rotate_right)
    | with_reducible apply K.fst_ite
    | with_reducible apply K.cond
    | with_reducible refine K.of_fst ?_ (by assumption)
    | with_reducible refine K.of_snd ?_ (by assumption)
    | (split)
    | dsimp only
    | (rw [Dev.mk_tag]; (with_reducible apply K.mk_log); rotate_left; decide)
    | (rw [Dev.mk_tag]; (with_reducible apply K.mk_dram); rotate_left; decide; (first | exact .inl rfl | exact .inl ⟨rfl, rfl⟩ | exact .inr ⟨by decide, by (intro w; first | exact w | exact Memory.wf_write _ _ w | exact Memory.wf_clear _ _ w | exact Memory.wf_filter _ w | exact Memory.wf_set _ _ w)⟩))
    | (rw [Dev.mk_tag]; (with_reducible apply K.mkT); rotate_left; (intro p hq; cases p <;> first | exact absurd hq (by decide) | rfl | exact ⟨rfl, rfl⟩ | exact fun _ => ⟨rfl, rfl⟩); exact fun w => w)

theorem Foot.dramGrant {e d : Dev} {pm rm : Nat} {r : DramReq} (h : K e d pm rm) (hp : sub 0x8a pm = true)
    (hr : sub 0x80000000000000000000090080000000000000000000000000000000000000000080000 rm = true) : K e (Dev.dramGrant d r) pm rm := by
  refine K.lift h hp hr ?_
  clear h hp hr
  unfold Dev.dramGrant
  extract_lets x1 x2 x3 x4 x5
  clear_value (g1 : x1 = _) (g2 : x2 = _) (g3 : x3 = _) (g4 : x4 = _) (g5 : x5 = _)
  clear g1
  refine K.cutEq d 0x8a 0x80000000000000000000090080000000000000000000000000000000000000000080000 g2 ?_ (fun h2 => ?_)
  rotate_left
  clear g2
  refine K.cutEq d 0x8a 0x80000000000000000000090080000000000000000000000000000000000000000080000 g3 ?_ (fun h3 => ?_)
  rotate_left
  clear g3
  refine K.cutEq d 0x8a 0x80000000000000000000090080000000000000000000000000000000000000000080000 g4 ?_ (fun h4 => ?_)
  rotate_left
  clear g4
  subst g5
  all_goals repeat' first
    | with_reducible exact K.refl _ _ _
    | with_reducible assumption
    | ((with_reducible apply K.put); rotate_left; (first | assumption | exact R.mem_DRAM_CH_STATUS); decide)
    | ((with_reducible apply Foot.countGrant); rotate_left; decide; decide)
    | ((with_reducible apply Foot.startWake); rotate_left; decide; decide)
    | with_reducible apply K.ite
    | ((with_reducible apply K.foldl); rotate_left; intro d x h; rotate_right)
    | ((with_reducible apply K.foldlFst); rotate_left; intro x y h; rotate_right)
    | ((with_reducible apply K.foldlSnd); rotate_left; intro x y h; rotate_right)
    | with_reducible apply K.fst_ite
    | with_reducible apply K.cond
    | with_reducible refine K.of_fst ?_ (by assumption)
    | with_reducible refine K.of_snd ?_ (by assumption)
    | (split)
    | dsimp only
    | (rw [Dev.mk_tag]; (with_reducible apply K.mk_log); rotate_left; decide)
    | (rw [Dev.mk_tag]; (with_reducible apply K.mk_pwr); rotate_left; decide)
    | (rw [Dev.mk_tag]; (with_reducible apply K.mk_dram); rotate_left; decide; (first | exact .inl rfl | exact .inl ⟨rfl, rfl⟩ | exact .inr ⟨by decide, by (intro w; first | exact w | exact Memory.wf_write _ _ w | exact Memory.wf_clear _ _ w | exact Memory.wf_filter _ w | exact Memory.wf_set _ _ w)⟩))
    | (rw [Dev.mk_tag]; (with_reducible apply K.mkT); rotate_left; (intro p hq; cases p <;> first | exact absurd hq (by decide) | rfl | exact ⟨rfl, rfl⟩ | exact fun _ => ⟨rfl, rfl⟩); exact fun w => w)

theorem Foot.dramAdmit {e d : Dev} {pm rm : Nat} {r : DramReq} (h : K e d pm rm) (hp : sub 0x8a pm = true)
    (hr : sub 0x80000000000000000000090080000000000000000000000000000000000000000080000 rm = true) : K e (Dev.dramAdmit d r) pm rm := by
  refine K.lift h hp hr ?_
  clear h hp hr
  unfold Dev.dramAdmit
  extract_lets x1
  clear_value (g1 : x1 = _)
  subst g1
  all_goals repeat' first
    | with_reducible exact K.refl _ _ _
    | with_reducible assumption
    | ((with_reducible apply Foot.checkQuota); rotate_left; decide; decide)
    | ((with_reducible apply Foot.dramGrant); rotate_left; decide; decide)
    | with_reducible apply K.ite
    | ((with_reducible apply K.foldl); rotate_left; intro d x h; rotate_right)
    | ((with_reducible apply K.foldlFst); rotate_left; intro x y h; rotate_right)
    | ((with_reducible apply K.foldlSnd); rotate_left; intro x y h; rotate_right)
    | with_reducible apply K.fst_ite
    | with_reducible apply K.cond
    | with_reducible refine K.of_fst ?_ (by assumption)
    | with_reducible refine K.of_snd ?_ (by assumption)
    | (split)
    | dsimp only
    | (rw [Dev.mk_tag]; (with_reducible apply K.mk_log); rotate_left; decide)
    | (rw [Dev.mk_tag]; (with_reducible apply K.mk_pwr); rotate_left; decide)
    | (rw [Dev.mk_tag]; (with_reducible apply K.mk_dram); rotate_left; decide; (first | exact .inl rfl | exact .inl ⟨rfl, rfl⟩ | exact .inr ⟨by decide, by (intro w; first | exact w | exact Memory.wf_write _ _ w | exact Memory.wf_clear _ _ w | exact Memory.wf_filter _ w | exact Memory.wf_set _ _ w)⟩))
    | (rw [Dev.mk_tag]; (with_reducible apply K.mkT); rotate_left; (intro p hq; cases p <;> first | exact absurd hq (by decide) | rfl | exact ⟨rfl, rfl⟩ | exact fun _ => ⟨rfl, rfl⟩); exact fun w => w)

theorem Foot.dramRetryPorts {e d : Dev} {pm rm : Nat} (h : K e d pm rm) (hp : sub 0x8a pm = true)
    (hr : sub 0x80000000000000000000090080000000000000000000000000000000000000000080000 rm = true) : K e (Dev.dramRetryPorts d) pm rm := by
  refine K.lift h hp hr ?_
  clear h hp hr
  unfold Dev.dramRetryPorts
  extract_lets x1 x2
  clear_value (g1 : x1 = _) (g2 : x2 = _)
  clear g1
  subst g2
  all_goals repeat' first
    | with_reducible exact K.refl _ _ _
    | with_reducible assumption
    | ((with_reducible apply Foot.dramAdmit); rotate_left; decide; decide)
    | with_reducible apply K.ite
    | ((with_reducible apply K.each); rotate_left; intro d x h; rotate_right)
    | ((with_reducible apply K.foldl); rotate_left; intro d x h; rotate_right)
    | ((with_reducible apply K.foldlFst); rotate_left; intro x y h; rotate_right)
    | ((with_reducible apply K.foldlSnd); rotate_left; intro x y h; rotate_right)
    | with_reducible apply K.fst_ite
    | with_reducible apply K.cond
    | with_reducible refine K.of_fst ?_ (by assumption)
    | with_reducible refine K.of_snd ?_ (by assumption)
    | (split)
    | dsimp only
    | (rw [Dev.mk_tag]; (with_reducible apply K.mk_log); rotate_left; decide)
    | (rw [Dev.mk_tag]; (with_reducible apply K.mk_pwr); rotate_left; decide)
    | (rw [Dev.mk_tag]; (with_reducible apply K.mk_dram); rotate_left; decide; (first | exact .inl rfl | exact .inl ⟨rfl, rfl⟩ | exact .inr ⟨by decide, by (intro w; first | exact w | exact Memory.wf_write _ _ w | exact Memory.wf_clear _ _ w | exact Memory.wf_filter _ w | exact Memory.wf_set _ _ w)⟩))
    | (rw [Dev.mk_tag]; (with_reducible apply K.mkT); rotate_left; (intro p hq; cases p <;> first | exact absurd hq (by decide) | rfl | exact ⟨rfl, rfl⟩ | exact fun _ => ⟨rfl, rfl⟩); exact fun w => w)

theorem Foot.dramRespond {e d : Dev} {pm rm : Nat} {r : DramReq} {st : DramStatus} {bs : List Byte} (h : K e d pm rm) (hp : sub 0x80 pm = true)
    (hr : sub 0x0 rm = true) : K e (Dev.dramRespond d r st bs) pm rm := by
  refine K.lift h hp hr ?_
  clear h hp hr
  unfold Dev.dramRespond
  extract_lets x1
  clear_value (g1 : x1 = _)
  subst g1
  all_goals repeat' first
    | with_reducible exact K.refl _ _ _
    | with_reducible assumption
    | with_reducible apply K.ite
    | ((with_reducible apply K.foldl); rotate_left; intro d x h; rotate_right)
    | ((with_reducible apply K.foldlFst); rotate_left; intro x y h; rotate_right)
    | ((with_reducible apply K.foldlSnd); rotate_left; intro x y h; rotate_right)
    | with_reducible apply K.fst_ite
    | with_reducible apply K.cond
    | with_reducible refine K.of_fst ?_ (by assumption)
    | with_reducible refine K.of_snd ?_ (by assumption)
    | (split)
    | dsimp only
    | (rw [Dev.mk_tag]; (with_reducible apply K.mk_dram); rotate_left; decide; (first | exact .inl rfl | exact .inl ⟨rfl, rfl⟩ | exact .inr ⟨by decide, by (intro w; first | exact w | exact Memory.wf_write _ _ w | exact Memory.wf_clear _ _ w | exact Memory.wf_filter _ w | exact Memory.wf_set _ _ w)⟩))
    | (rw [Dev.mk_tag]; (with_reducible apply K.mkT); rotate_left; (intro p hq; cases p <;> first | exact absurd hq (by decide) | rfl | exact ⟨rfl, rfl⟩ | exact fun _ => ⟨rfl, rfl⟩); exact fun w => w)

theorem Foot.dramRequest {e d : Dev} {pm rm : Nat} {port : Nat} {a : Nat} {len : Nat} {data : Option (List Byte)} (h : K e d pm rm) (hp : sub 0x8e pm = true)
    (hr : sub 0x80000000000000000000090080000000000000000000000000000000007000000080000 rm = true) : K e (Dev.dramRequest d port a len data) pm rm := by
  refine K.lift h hp hr ?_
  clear h hp hr
  unfold Dev.dramRequest
  extract_lets x1 x2 x3
  clear_value (g1 : x1 = _) (g2 : x2 = _) (g3 : x3 = _)
  clear g1
  clear g2
  subst g3
  all_goals repeat' first
    | with_reducible exact K.refl _ _ _
    | with_reducible assumption
    | ((with_reducible apply Foot.dramRespond); rotate_left; decide; decide)
    | ((with_reducible apply Foot.hold); rotate_left; decide; decide)
    | ((with_reducible apply Foot.guardRefuse); rotate_left; decide; decide)
    | ((with_reducible apply Foot.dramAdmit); rotate_left; decide; decide)
    | with_reducible apply K.ite
    | ((with_reducible apply K.foldl); rotate_left; intro d x h; rotate_right)
    | ((with_reducible apply K.foldlFst); rotate_left; intro x y h; rotate_right)
    | ((with_reducible apply K.foldlSnd); rotate_left; intro x y h; rotate_right)
    | with_reducible apply K.fst_ite
    | with_reducible apply K.cond
    | with_reducible refine K.of_fst ?_ (by assumption)
    | with_reducible refine K.of_snd ?_ (by assumption)
    | (split)
    | dsimp only
    | (rw [Dev.mk_tag]; (with_reducible apply K.mk_log); rotate_left; decide)
    | (rw [Dev.mk_tag]; (with_reducible apply K.mk_held); rotate_left; decide)
    | (rw [Dev.mk_tag]; (with_reducible apply K.mk_pwr); rotate_left; decide)
    | (rw [Dev.mk_tag]; (with_reducible apply K.mk_dram); rotate_left; decide; (first | exact .inl rfl | exact .inl ⟨rfl, rfl⟩ | exact .inr ⟨by decide, by (intro w; first | exact w | exact Memory.wf_write _ _ w | exact Memory.wf_clear _ _ w | exact Memory.wf_filter _ w | exact Memory.wf_set _ _ w)⟩))
    | (rw [Dev.mk_tag]; (with_reducible apply K.mkT); rotate_left; (intro p hq; cases p <;> first | exact absurd hq (by decide) | rfl | exact ⟨rfl, rfl⟩ | exact fun _ => ⟨rfl, rfl⟩); exact fun w => w)

theorem Foot.setChQueue {e d : Dev} {pm rm : Nat} {ch : Nat} {q : List DramReq} (h : K e d pm rm) (hp : sub 0x80 pm = true)
    (hr : sub 0x0 rm = true) : K e (Dev.setChQueue d ch q) pm rm := by
  refine K.lift h hp hr ?_
  clear h hp hr
  unfold Dev.setChQueue
  extract_lets x1
  clear_value (g1 : x1 = _)
  subst g1
  all_goals repeat' first
    | with_reducible exact K.refl _ _ _
    | with_reducible assumption
    | with_reducible apply K.ite
    | ((with_reducible apply K.foldl); rotate_left; intro d x h; rotate_right)
    | ((with_reducible apply K.foldlFst); rotate_left; intro x y h; rotate_right)
    | ((with_reducible apply K.foldlSnd); rotate_left; intro x y h; rotate_right)
    | with_reducible apply K.fst_ite
    | with_reducible apply K.cond
    | with_reducible refine K.of_fst ?_ (by assumption)
    | with_reducible refine K.of_snd ?_ (by assumption)
    | (split)
    | dsimp only
    | (rw [Dev.mk_tag]; (with_reducible apply K.mk_dram); rotate_left; decide; (first | exact .inl rfl | exact .inl ⟨rfl, rfl⟩ | exact .inr ⟨by decide, by (intro w; first | exact w | exact Memory.wf_write _ _ w | exact Memory.wf_clear _ _ w | exact Memory.wf_filter _ w | exact Memory.wf_set _ _ w)⟩))
    | (rw [Dev.mk_tag]; (with_reducible apply K.mkT); rotate_left; (intro p hq; cases p <;> first | exact absurd hq (by decide) | rfl | exact ⟨rfl, rfl⟩ | exact fun _ => ⟨rfl, rfl⟩); exact fun w => w)

theorem Foot.dramUpset {e d : Dev} {pm rm : Nat} {us : List Upset} (h : K e d pm rm) (hp : sub 0x80 pm = true)
    (hr : sub 0x0 rm = true) : K e (Dev.dramUpset d us) pm rm := by
  refine K.lift h hp hr ?_
  clear h hp hr
  unfold Dev.dramUpset
  all_goals repeat' first
    | with_reducible exact K.refl _ _ _
    | with_reducible assumption
    | with_reducible apply K.ite
    | ((with_reducible apply K.each); rotate_left; intro d x h; rotate_right)
    | ((with_reducible apply K.foldl); rotate_left; intro d x h; rotate_right)
    | ((with_reducible apply K.foldlFst); rotate_left; intro x y h; rotate_right)
    | ((with_reducible apply K.foldlSnd); rotate_left; intro x y h; rotate_right)
    | with_reducible apply K.fst_ite
    | with_reducible apply K.cond
    | with_reducible refine K.of_fst ?_ (by assumption)
    | with_reducible refine K.of_snd ?_ (by assumption)
    | (split)
    | dsimp only
    | (rw [Dev.mk_tag]; (with_reducible apply K.mk_dram); rotate_left; decide; (first | exact .inl rfl | exact .inl ⟨rfl, rfl⟩ | exact .inr ⟨by decide, by (intro w; first | exact w | exact Memory.wf_write _ _ w | exact Memory.wf_clear _ _ w | exact Memory.wf_filter _ w | exact Memory.wf_set _ _ w)⟩))
    | (rw [Dev.mk_tag]; (with_reducible apply K.mkT); rotate_left; (intro p hq; cases p <;> first | exact absurd hq (by decide) | rfl | exact ⟨rfl, rfl⟩ | exact fun _ => ⟨rfl, rfl⟩); exact fun w => w)

theorem Foot.dramServeRead {e d : Dev} {pm rm : Nat} {ws : List DramReq} {r : DramReq} (h : K e d pm rm) (hp : sub 0x82 pm = true)
    (hr : sub 0x800000000000000000000a7e80000000000000000000000000000000000000000080000 rm = true) : K e (Dev.dramServeRead d ws r).1 pm rm := by
  refine K.lift h hp hr ?_
  clear h hp hr
  unfold Dev.dramServeRead
  extract_lets x1
  clear_value (g1 : x1 = _)
  refine K.cutEq d 0x82 0x800000000000000000000a7e80000000000000000000000000000000000000000080000 g1 ?_ (fun h1 => ?_)
  rotate_left
  clear g1
  all_goals repeat' first
    | with_reducible exact K.refl _ _ _
    | with_reducible assumption
    | ((with_reducible apply Foot.dramOpen); rotate_left; decide; decide)
    | ((with_reducible apply Foot.dramReadBlock); rotate_left; decide; decide)
    | with_reducible apply K.ite
    | ((with_reducible apply K.foldl); rotate_left; intro d x h; rotate_right)
    | ((with_reducible apply K.foldlFst); rotate_left; intro x y h; rotate_right)
    | ((with_reducible apply K.foldlSnd); rotate_left; intro x y h; rotate_right)
    | with_reducible apply K.fst_ite
    | with_reducible apply K.cond
    | with_reducible refine K.of_fst ?_ (by assumption)
    | with_reducible refine K.of_snd ?_ (by assumption)
    | (split)
    | dsimp only
    | (rw [Dev.mk_tag]; (with_reducible apply K.mk_log); rotate_left; decide)
    | (rw [Dev.mk_tag]; (with_reducible apply K.mk_dram); rotate_left; decide; (first | exact .inl rfl | exact .inl ⟨rfl, rfl⟩ | exact .inr ⟨by decide, by (intro w; first | exact w | exact Memory.wf_write _ _ w | exact Memory.wf_clear _ _ w | exact Memory.wf_filter _ w | exact Memory.wf_set _ _ w)⟩))
    | (rw [Dev.mk_tag]; (with_reducible apply K.mkT); rotate_left; (intro p hq; cases p <;> first | exact absurd hq (by decide) | rfl | exact ⟨rfl, rfl⟩ | exact fun _ => ⟨rfl, rfl⟩); exact fun w => w)

theorem Foot.dramServeWrite {e d : Dev} {pm rm : Nat} {r : DramReq} {bs : List Byte} (h : K e d pm rm) (hp : sub 0x10000082 pm = true)
    (hr : sub 0x800000000000000000000a7e80000000000000000000000000000000000000000080000 rm = true) : K e (Dev.dramServeWrite d r bs).1 pm rm := by
  refine K.lift h hp hr ?_
  clear h hp hr
  unfold Dev.dramServeWrite
  extract_lets x1
  clear_value (g1 : x1 = _)
  refine K.cutEq d 0x10000082 0x800000000000000000000a7e80000000000000000000000000000000000000000080000 g1 ?_ (fun h1 => ?_)
  rotate_left
  clear g1
  all_goals repeat' first
    | with_reducible exact K.refl _ _ _
    | with_reducible assumption
    | ((with_reducible apply Foot.dramOpen); rotate_left; decide; decide)
    | ((with_reducible apply Foot.dramWriteBlock); rotate_left; decide; decide)
    | with_reducible apply K.ite
    | ((with_reducible apply K.foldl); rotate_left; intro d x h; rotate_right)
    | ((with_reducible apply K.foldlFst); rotate_left; intro x y h; rotate_right)
    | ((with_reducible apply K.foldlSnd); rotate_left; intro x y h; rotate_right)
    | with_reducible apply K.fst_ite
    | with_reducible apply K.cond
    | with_reducible refine K.of_fst ?_ (by assumption)
    | with_reducible refine K.of_snd ?_ (by assumption)
    | (split)
    | dsimp only
    | (rw [Dev.mk_tag]; (with_reducible apply K.mk_log); rotate_left; decide)
    | (rw [Dev.mk_tag]; (with_reducible apply K.mk_dram); rotate_left; decide; (first | exact .inl rfl | exact .inl ⟨rfl, rfl⟩ | exact .inr ⟨by decide, by (intro w; first | exact w | exact Memory.wf_write _ _ w | exact Memory.wf_clear _ _ w | exact Memory.wf_filter _ w | exact Memory.wf_set _ _ w)⟩))
    | (rw [Dev.mk_tag]; (with_reducible apply K.mkT); rotate_left; (intro p hq; cases p <;> first | exact absurd hq (by decide) | rfl | exact ⟨rfl, rfl⟩ | exact fun _ => ⟨rfl, rfl⟩); exact fun w => w)

theorem Foot.dramComplete {e d : Dev} {pm rm : Nat} {ch : Nat} (h : K e d pm rm) (hp : sub 0x1000008a pm = true)
    (hr : sub 0x800000000000000000000b7e80000000000000000000000000000000000000000080000 rm = true) : K e (Dev.dramComplete d ch) pm rm := by
  refine K.lift h hp hr ?_
  clear h hp hr
  unfold Dev.dramComplete
  extract_lets x1
  clear_value (g1 : x1 = _)
  clear g1
  all_goals repeat' first
    | with_reducible exact K.refl _ _ _
    | with_reducible assumption
    | ((with_reducible apply Foot.setChQueue); rotate_left; decide; decide)
    | ((with_reducible apply Foot.dramServeWrite); rotate_left; decide; decide)
    | ((with_reducible apply Foot.dramRespond); rotate_left; decide; decide)
    | ((with_reducible apply Foot.dramServeRead); rotate_left; decide; decide)
    | ((with_reducible apply Foot.dramRetryPorts); rotate_left; decide; decide)
    | with_reducible apply K.ite
    | ((with_reducible apply K.foldl); rotate_left; intro d x h; rotate_right)
    | ((with_reducible apply K.foldlFst); rotate_left; intro x y h; rotate_right)
    | ((with_reducible apply K.foldlSnd); rotate_left; intro x y h; rotate_right)
    | with_reducible apply K.fst_ite
    | with_reducible apply K.cond
    | with_reducible refine K.of_fst ?_ (by assumption)
    | with_reducible refine K.of_snd ?_ (by assumption)
    | (split)
    | dsimp only
    | (rw [Dev.mk_tag]; (with_reducible apply K.mk_log); rotate_left; decide)
    | (rw [Dev.mk_tag]; (with_reducible apply K.mk_pwr); rotate_left; decide)
    | (rw [Dev.mk_tag]; (with_reducible apply K.mk_dram); rotate_left; decide; (first | exact .inl rfl | exact .inl ⟨rfl, rfl⟩ | exact .inr ⟨by decide, by (intro w; first | exact w | exact Memory.wf_write _ _ w | exact Memory.wf_clear _ _ w | exact Memory.wf_filter _ w | exact Memory.wf_set _ _ w)⟩))
    | (rw [Dev.mk_tag]; (with_reducible apply K.mkT); rotate_left; (intro p hq; cases p <;> first | exact absurd hq (by decide) | rfl | exact ⟨rfl, rfl⟩ | exact fun _ => ⟨rfl, rfl⟩); exact fun w => w)

theorem Foot.dramPromote {e d : Dev} {pm rm : Nat} {ch : Nat} {i : Nat} (h : K e d pm rm) (hp : sub 0x80 pm = true)
    (hr : sub 0x0 rm = true) : K e (Dev.dramPromote d ch i) pm rm := by
  refine K.lift h hp hr ?_
  clear h hp hr
  unfold Dev.dramPromote
  extract_lets x1
  clear_value (g1 : x1 = _)
  clear g1
  all_goals repeat' first
    | with_reducible exact K.refl _ _ _
    | with_reducible assumption
    | ((with_reducible apply Foot.setChQueue); rotate_left; decide; decide)
    | with_reducible apply K.ite
    | ((with_reducible apply K.foldl); rotate_left; intro d x h; rotate_right)
    | ((with_reducible apply K.foldlFst); rotate_left; intro x y h; rotate_right)
    | ((with_reducible apply K.foldlSnd); rotate_left; intro x y h; rotate_right)
    | with_reducible apply K.fst_ite
    | with_reducible apply K.cond
    | with_reducible refine K.of_fst ?_ (by assumption)
    | with_reducible refine K.of_snd ?_ (by assumption)
    | (split)
    | dsimp only
    | (rw [Dev.mk_tag]; (with_reducible apply K.mk_dram); rotate_left; decide; (first | exact .inl rfl | exact .inl ⟨rfl, rfl⟩ | exact .inr ⟨by decide, by (intro w; first | exact w | exact Memory.wf_write _ _ w | exact Memory.wf_clear _ _ w | exact Memory.wf_filter _ w | exact Memory.wf_set _ _ w)⟩))
    | (rw [Dev.mk_tag]; (with_reducible apply K.mkT); rotate_left; (intro p hq; cases p <;> first | exact absurd hq (by decide) | rfl | exact ⟨rfl, rfl⟩ | exact fun _ => ⟨rfl, rfl⟩); exact fun w => w)

theorem Foot.quotaBucket {e d : Dev} {pm rm : Nat} (h : K e d pm rm) (hp : sub 0x8a pm = true)
    (hr : sub 0x80000000000000000000090080000000000000000000000000000000000000000080000 rm = true) : K e (Dev.quotaBucket d) pm rm := by
  refine K.lift h hp hr ?_
  clear h hp hr
  unfold Dev.quotaBucket
  extract_lets x1 x2 x3
  clear_value (g1 : x1 = _) (g2 : x2 = _) (g3 : x3 = _)
  subst g1
  refine K.cutEq d 0x8a 0x80000000000000000000090080000000000000000000000000000000000000000080000 g2 ?_ (fun h2 => ?_)
  rotate_left
  clear g2
  refine K.cutEq d 0x8a 0x80000000000000000000090080000000000000000000000000000000000000000080000 g3 ?_ (fun h3 => ?_)
  rotate_left
  clear g3
  all_goals repeat' first
    | with_reducible exact K.refl _ _ _
    | with_reducible assumption
    | ((with_reducible apply Foot.checkQuota); rotate_left; decide; decide)
    | ((with_reducible apply Foot.showUse); rotate_left; decide; decide)
    | ((with_reducible apply Foot.dramRetryPorts); rotate_left; decide; decide)
    | with_reducible apply K.ite
    | ((with_reducible apply K.each); rotate_left; intro d x h; rotate_right)
    | ((with_reducible apply K.foldl); rotate_left; intro d x h; rotate_right)
    | ((with_reducible apply K.foldlFst); rotate_left; intro x y h; rotate_right)
    | ((with_reducible apply K.foldlSnd); rotate_left; intro x y h; rotate_right)
    | with_reducible apply K.fst_ite
    | with_reducible apply K.cond
    | with_reducible refine K.of_fst ?_ (by assumption)
    | with_reducible refine K.of_snd ?_ (by assumption)
    | (split)
    | dsimp only
    | (rw [Dev.mk_tag]; (with_reducible apply K.mk_log); rotate_left; decide)
    | (rw [Dev.mk_tag]; (with_reducible apply K.mk_pwr); rotate_left; decide)
    | (rw [Dev.mk_tag]; (with_reducible apply K.mk_dram); rotate_left; decide; (first | exact .inl rfl | exact .inl ⟨rfl, rfl⟩ | exact .inr ⟨by decide, by (intro w; first | exact w | exact Memory.wf_write _ _ w | exact Memory.wf_clear _ _ w | exact Memory.wf_filter _ w | exact Memory.wf_set _ _ w)⟩))
    | (rw [Dev.mk_tag]; (with_reducible apply K.mkT); rotate_left; (intro p hq; cases p <;> first | exact absurd hq (by decide) | rfl | exact ⟨rfl, rfl⟩ | exact fun _ => ⟨rfl, rfl⟩); exact fun w => w)

theorem Foot.quotaWrite {e d : Dev} {pm rm : Nat} {p : Nat} {q : Nat} (h : K e d pm rm) (hp : sub 0x8a pm = true)
    (hr : sub 0x80000000000000000000098080000000000000000000000000000000000000000080000 rm = true) : K e (Dev.quotaWrite d p q) pm rm := by
  refine K.lift h hp hr ?_
  clear h hp hr
  unfold Dev.quotaWrite
  all_goals repeat' first
    | with_reducible exact K.refl _ _ _
    | with_reducible assumption
    | ((with_reducible apply K.put); rotate_left; (first | assumption | exact R.mem_DRQ_CFG); decide)
    | ((with_reducible apply Foot.dramRetryPorts); rotate_left; decide; decide)
    | ((with_reducible apply Foot.checkQuota); rotate_left; decide; decide)
    | with_reducible apply K.ite
    | ((with_reducible apply K.foldl); rotate_left; intro d x h; rotate_right)
    | ((with_reducible apply K.foldlFst); rotate_left; intro x y h; rotate_right)
    | ((with_reducible apply K.foldlSnd); rotate_left; intro x y h; rotate_right)
    | with_reducible apply K.fst_ite
    | with_reducible apply K.cond
    | with_reducible refine K.of_fst ?_ (by assumption)
    | with_reducible refine K.of_snd ?_ (by assumption)
    | (split)
    | dsimp only
    | (rw [Dev.mk_tag]; (with_reducible apply K.mk_log); rotate_left; decide)
    | (rw [Dev.mk_tag]; (with_reducible apply K.mk_pwr); rotate_left; decide)
    | (rw [Dev.mk_tag]; (with_reducible apply K.mk_dram); rotate_left; decide; (first | exact .inl rfl | exact .inl ⟨rfl, rfl⟩ | exact .inr ⟨by decide, by (intro w; first | exact w | exact Memory.wf_write _ _ w | exact Memory.wf_clear _ _ w | exact Memory.wf_filter _ w | exact Memory.wf_set _ _ w)⟩))
    | (rw [Dev.mk_tag]; (with_reducible apply K.mkT); rotate_left; (intro p hq; cases p <;> first | exact absurd hq (by decide) | rfl | exact ⟨rfl, rfl⟩ | exact fun _ => ⟨rfl, rfl⟩); exact fun w => w)

theorem Foot.showPanic {e d : Dev} {pm rm : Nat} (h : K e d pm rm) (hp : sub 0x82 pm = true)
    (hr : sub 0x80000000000000000000000000000000000000000080000 rm = true) : K e (Dev.showPanic d) pm rm := by
  refine K.lift h hp hr ?_
  clear h hp hr
  unfold Dev.showPanic
  extract_lets x1 x2 x3
  clear_value (g1 : x1 = _) (g2 : x2 = _) (g3 : x3 = _)
  clear g1
  refine K.cutEq d 0x82 0x80000000000000000000000000000000000000000080000 g2 ?_ (fun h2 => ?_)
  rotate_left
  clear g2
  subst g3
  all_goals repeat' first
    | with_reducible exact K.refl _ _ _
    | with_reducible assumption
    | ((with_reducible apply K.raiseIf); rotate_left; (first | assumption | exact R.mem_DRAM_EVENT); decide; decide; decide)
    | with_reducible apply K.ite
    | ((with_reducible apply K.foldl); rotate_left; intro d x h; rotate_right)
    | ((with_reducible apply K.foldlFst); rotate_left; intro x y h; rotate_right)
    | ((with_reducible apply K.foldlSnd); rotate_left; intro x y h; rotate_right)
    | with_reducible apply K.fst_ite
    | with_reducible apply K.cond
    | with_reducible refine K.of_fst ?_ (by assumption)
    | with_reducible refine K.of_snd ?_ (by assumption)
    | (split)
    | dsimp only
    | (rw [Dev.mk_tag]; (with_reducible apply K.mk_log); rotate_left; decide)
    | (rw [Dev.mk_tag]; (with_reducible apply K.mk_dram); rotate_left; decide; (first | exact .inl rfl | exact .inl ⟨rfl, rfl⟩ | exact .inr ⟨by decide, by (intro w; first | exact w | exact Memory.wf_write _ _ w | exact Memory.wf_clear _ _ w | exact Memory.wf_filter _ w | exact Memory.wf_set _ _ w)⟩))
    | (rw [Dev.mk_tag]; (with_reducible apply K.mkT); rotate_left; (intro p hq; cases p <;> first | exact absurd hq (by decide) | rfl | exact ⟨rfl, rfl⟩ | exact fun _ => ⟨rfl, rfl⟩); exact fun w => w)

theorem Foot.setPanic {e d : Dev} {pm rm : Nat} {p : Nat} {b : Bool} (h : K e d pm rm) (hp : sub 0x82 pm = true)
    (hr : sub 0x10080000000000000000000000000000000000000000080000 rm = true) : K e (Dev.setPanic d p b) pm rm := by
  refine K.lift h hp hr ?_
  clear h hp hr
  unfold Dev.setPanic
  all_goals repeat' first
    | with_reducible exact K.refl _ _ _
    | with_reducible assumption
    | ((with_reducible apply K.flag); rotate_left; (first | assumption | exact R.mem_DRQ_STATUS); decide)
    | ((with_reducible apply Foot.showPanic); rotate_left; decide; decide)
    | with_reducible apply K.ite
    | ((with_reducible apply K.foldl); rotate_left; intro d x h; rotate_right)
    | ((with_reducible apply K.foldlFst); rotate_left; intro x y h; rotate_right)
    | ((with_reducible apply K.foldlSnd); rotate_left; intro x y h; rotate_right)
    | with_reducible apply K.fst_ite
    | with_reducible apply K.cond
    | with_reducible refine K.of_fst ?_ (by assumption)
    | with_reducible refine K.of_snd ?_ (by assumption)
    | (split)
    | dsimp only
    | (rw [Dev.mk_tag]; (with_reducible apply K.mk_log); rotate_left; decide)
    | (rw [Dev.mk_tag]; (with_reducible apply K.mk_dram); rotate_left; decide; (first | exact .inl rfl | exact .inl ⟨rfl, rfl⟩ | exact .inr ⟨by decide, by (intro w; first | exact w | exact Memory.wf_write _ _ w | exact Memory.wf_clear _ _ w | exact Memory.wf_filter _ w | exact Memory.wf_set _ _ w)⟩))
    | (rw [Dev.mk_tag]; (with_reducible apply K.mkT); rotate_left; (intro p hq; cases p <;> first | exact absurd hq (by decide) | rfl | exact ⟨rfl, rfl⟩ | exact fun _ => ⟨rfl, rfl⟩); exact fun w => w)

theorem Foot.refresh {e d : Dev} {pm rm : Nat} {ch : Nat} (h : K e d pm rm) (hp : sub 0x80 pm = true)
    (hr : sub 0x80000000000000000000000000000000000000000000000000 rm = true) : K e (Dev.refresh d ch) pm rm := by
  refine K.lift h hp hr ?_
  clear h hp hr
  unfold Dev.refresh
  extract_lets x1 x2
  clear_value (g1 : x1 = _) (g2 : x2 = _)
  clear g1
  subst g2
  all_goals repeat' first
    | with_reducible exact K.refl _ _ _
    | with_reducible assumption
    | ((with_reducible apply K.put); rotate_left; (first | assumption | exact R.mem_DRAM_CH_STATUS); decide)
    | ((with_reducible apply Foot.closeRows); rotate_left; decide; decide)
    | with_reducible apply K.ite
    | ((with_reducible apply K.foldl); rotate_left; intro d x h; rotate_right)
    | ((with_reducible apply K.foldlFst); rotate_left; intro x y h; rotate_right)
    | ((with_reducible apply K.foldlSnd); rotate_left; intro x y h; rotate_right)
    | with_reducible apply K.fst_ite
    | with_reducible apply K.cond
    | with_reducible refine K.of_fst ?_ (by assumption)
    | with_reducible refine K.of_snd ?_ (by assumption)
    | (split)
    | dsimp only
    | (rw [Dev.mk_tag]; (with_reducible apply K.mk_dram); rotate_left; decide; (first | exact .inl rfl | exact .inl ⟨rfl, rfl⟩ | exact .inr ⟨by decide, by (intro w; first | exact w | exact Memory.wf_write _ _ w | exact Memory.wf_clear _ _ w | exact Memory.wf_filter _ w | exact Memory.wf_set _ _ w)⟩))
    | (rw [Dev.mk_tag]; (with_reducible apply K.mkT); rotate_left; (intro p hq; cases p <;> first | exact absurd hq (by decide) | rfl | exact ⟨rfl, rfl⟩ | exact fun _ => ⟨rfl, rfl⟩); exact fun w => w)

theorem Foot.refreshRepay {e d : Dev} {pm rm : Nat} {ch : Nat} (h : K e d pm rm) (hp : sub 0x80 pm = true)
    (hr : sub 0x80000000000000000000000000000000000000000000000000 rm = true) : K e (Dev.refreshRepay d ch) pm rm := by
  refine K.lift h hp hr ?_
  clear h hp hr
  unfold Dev.refreshRepay
  extract_lets x1
  clear_value (g1 : x1 = _)
  clear g1
  all_goals repeat' first
    | with_reducible exact K.refl _ _ _
    | with_reducible assumption
    | ((with_reducible apply K.put); rotate_left; (first | assumption | exact R.mem_DRAM_CH_STATUS); decide)
    | ((with_reducible apply Foot.closeRows); rotate_left; decide; decide)
    | with_reducible apply K.ite
    | ((with_reducible apply K.foldl); rotate_left; intro d x h; rotate_right)
    | ((with_reducible apply K.foldlFst); rotate_left; intro x y h; rotate_right)
    | ((with_reducible apply K.foldlSnd); rotate_left; intro x y h; rotate_right)
    | with_reducible apply K.fst_ite
    | with_reducible apply K.cond
    | with_reducible refine K.of_fst ?_ (by assumption)
    | with_reducible refine K.of_snd ?_ (by assumption)
    | (split)
    | dsimp only
    | (rw [Dev.mk_tag]; (with_reducible apply K.mk_dram); rotate_left; decide; (first | exact .inl rfl | exact .inl ⟨rfl, rfl⟩ | exact .inr ⟨by decide, by (intro w; first | exact w | exact Memory.wf_write _ _ w | exact Memory.wf_clear _ _ w | exact Memory.wf_filter _ w | exact Memory.wf_set _ _ w)⟩))
    | (rw [Dev.mk_tag]; (with_reducible apply K.mkT); rotate_left; (intro p hq; cases p <;> first | exact absurd hq (by decide) | rfl | exact ⟨rfl, rfl⟩ | exact fun _ => ⟨rfl, rfl⟩); exact fun w => w)

theorem Foot.enterDoubled {e d : Dev} {pm rm : Nat} (h : K e d pm rm) (hp : sub 0x2 pm = true)
    (hr : sub 0x80080000000000000000000000000000000000000000080000 rm = true) : K e (Dev.enterDoubled d) pm rm := by
  refine K.lift h hp hr ?_
  clear h hp hr
  unfold Dev.enterDoubled
  dsimp only
  split
  · unfold Dev.setEvent
    exact K.logHw (K.putWord (K.put (K.put (K.refl _ _ _) R.mem_DRAM_CH_STATUS (by decide) _ _) R.mem_DRAM_CH_STATUS (by decide) _ _)
      R.mem_DRAM_EVENT (by decide) _ _) (by decide) (by decide) _ _ _
  · exact K.put (K.put (K.refl _ _ _) R.mem_DRAM_CH_STATUS (by decide) _ _) R.mem_DRAM_CH_STATUS (by decide) _ _

theorem Foot.leaveDoubled {e d : Dev} {pm rm : Nat} (h : K e d pm rm) (hp : sub 0x0 pm = true)
    (hr : sub 0x80000000000000000000000000000000000000000000000000 rm = true) : K e (Dev.leaveDoubled d) pm rm := by
  refine K.lift h hp hr ?_
  clear h hp hr
  unfold Dev.leaveDoubled
  all_goals repeat' first
    | with_reducible exact K.refl _ _ _
    | with_reducible assumption
    | ((with_reducible apply K.put); rotate_left; (first | assumption | exact R.mem_DRAM_CH_STATUS); decide)
    | with_reducible apply K.ite
    | ((with_reducible apply K.foldl); rotate_left; intro d x h; rotate_right)
    | ((with_reducible apply K.foldlFst); rotate_left; intro x y h; rotate_right)
    | ((with_reducible apply K.foldlSnd); rotate_left; intro x y h; rotate_right)
    | with_reducible apply K.fst_ite
    | with_reducible apply K.cond
    | with_reducible refine K.of_fst ?_ (by assumption)
    | with_reducible refine K.of_snd ?_ (by assumption)
    | (split)
    | dsimp only
    | (rw [Dev.mk_tag]; (with_reducible apply K.mkT); rotate_left; (intro p hq; cases p <;> first | exact absurd hq (by decide) | rfl | exact ⟨rfl, rfl⟩ | exact fun _ => ⟨rfl, rfl⟩); exact fun w => w)

theorem Foot.mr4 {e d : Dev} {pm rm : Nat} {reports : List Mr4Report} (h : K e d pm rm) (hp : sub 0x2 pm = true)
    (hr : sub 0x80080000000000000000000000000000000000000000080000 rm = true) : K e (Dev.mr4 d reports) pm rm := by
  refine K.lift h hp hr ?_
  clear h hp hr
  unfold Dev.mr4
  extract_lets x1
  clear_value (g1 : x1 = _)
  refine K.cutEq d 0x2 0x80080000000000000000000000000000000000000000080000 g1 ?_ (fun h1 => ?_)
  rotate_left
  clear g1
  all_goals repeat' first
    | with_reducible exact K.refl _ _ _
    | with_reducible assumption
    | ((with_reducible apply K.put); rotate_left; (first | assumption | exact R.mem_DRAM_CH_STATUS | exact R.mem_DRAM_EVENT); decide)
    | ((with_reducible apply K.raise); rotate_left; (first | assumption | exact R.mem_DRAM_CH_STATUS | exact R.mem_DRAM_EVENT); decide; decide; decide)
    | ((with_reducible apply K.raiseIf); rotate_left; (first | assumption | exact R.mem_DRAM_CH_STATUS | exact R.mem_DRAM_EVENT); decide; decide; decide)
    | ((with_reducible apply Foot.enterDoubled); rotate_left; decide; decide)
    | ((with_reducible apply Foot.leaveDoubled); rotate_left; decide; decide)
    | with_reducible apply K.ite
    | ((with_reducible apply K.each); rotate_left; intro d x h; rotate_right)
    | ((with_reducible apply K.foldl); rotate_left; intro d x h; rotate_right)
    | ((with_reducible apply K.foldlFst); rotate_left; intro x y h; rotate_right)
    | ((with_reducible apply K.foldlSnd); rotate_left; intro x y h; rotate_right)
    | with_reducible apply K.fst_ite
    | with_reducible apply K.cond
    | with_reducible refine K.of_fst ?_ (by assumption)
    | with_reducible refine K.of_snd ?_ (by assumption)
    | (split)
    | dsimp only
    | (rw [Dev.mk_tag]; (with_reducible apply K.mk_log); rotate_left; decide)
    | (rw [Dev.mk_tag]; (with_reducible apply K.mkT); rotate_left; (intro p hq; cases p <;> first | exact absurd hq (by decide) | rfl | exact ⟨rfl, rfl⟩ | exact fun _ => ⟨rfl, rfl⟩); exact fun w => w)

theorem Foot.enterSelfRefresh {e d : Dev} {pm rm : Nat} {ch : Nat} (h : K e d pm rm) (hp : sub 0x48a pm = true)
    (hr : sub 0x88007900000000000000080000000000000000000000000000000000000080000080000 rm = true) : K e (Dev.enterSelfRefresh d ch) pm rm := by
  refine K.lift h hp hr ?_
  clear h hp hr
  unfold Dev.enterSelfRefresh
  extract_lets x1 x2 x3 x4 x5
  clear_value (g1 : x1 = _) (g2 : x2 = _) (g3 : x3 = _) (g4 : x4 = _) (g5 : x5 = _)
  clear g1
  clear g2
  refine K.cutEq d 0x48a 0x88007900000000000000080000000000000000000000000000000000000080000080000 g3 ?_ (fun h3 => ?_)
  rotate_left
  clear g3
  refine K.cutEq d 0x48a 0x88007900000000000000080000000000000000000000000000000000000080000080000 g4 ?_ (fun h4 => ?_)
  rotate_left
  clear g4
  subst g5
  all_goals repeat' first
    | with_reducible exact K.refl _ _ _
    | with_reducible assumption
    | ((with_reducible apply K.put); rotate_left; (first | assumption | exact R.mem_DRAM_CH_CFG | exact R.mem_DRAM_CH_STATUS); decide)
    | ((with_reducible apply Foot.closeRows); rotate_left; decide; decide)
    | ((with_reducible apply Foot.clearFallow); rotate_left; decide; decide)
    | with_reducible apply K.ite
    | ((with_reducible apply K.foldl); rotate_left; intro d x h; rotate_right)
    | ((with_reducible apply K.foldlFst); rotate_left; intro x y h; rotate_right)
    | ((with_reducible apply K.foldlSnd); rotate_left; intro x y h; rotate_right)
    | with_reducible apply K.fst_ite
    | with_reducible apply K.cond
    | with_reducible refine K.of_fst ?_ (by assumption)
    | with_reducible refine K.of_snd ?_ (by assumption)
    | (split)
    | dsimp only
    | (rw [Dev.mk_tag]; (with_reducible apply K.mk_log); rotate_left; decide)
    | (rw [Dev.mk_tag]; (with_reducible apply K.mk_pwr); rotate_left; decide)
    | (rw [Dev.mk_tag]; (with_reducible apply K.mk_dram); rotate_left; decide; (first | exact .inl rfl | exact .inl ⟨rfl, rfl⟩ | exact .inr ⟨by decide, by (intro w; first | exact w | exact Memory.wf_write _ _ w | exact Memory.wf_clear _ _ w | exact Memory.wf_filter _ w | exact Memory.wf_set _ _ w)⟩))
    | (rw [Dev.mk_tag]; (with_reducible apply K.mk_scan); rotate_left; decide)
    | (rw [Dev.mk_tag]; (with_reducible apply K.mkT); rotate_left; (intro p hq; cases p <;> first | exact absurd hq (by decide) | rfl | exact ⟨rfl, rfl⟩ | exact fun _ => ⟨rfl, rfl⟩); exact fun w => w)

theorem Foot.srIdle {e d : Dev} {pm rm : Nat} {ch : Nat} (h : K e d pm rm) (hp : sub 0x48a pm = true)
    (hr : sub 0x88007900000000000000080000000000000000000000000000000000000080000080000 rm = true) : K e (Dev.srIdle d ch) pm rm := by
  refine K.lift h hp hr ?_
  clear h hp hr
  unfold Dev.srIdle
  all_goals repeat' first
    | with_reducible exact K.refl _ _ _
    | with_reducible assumption
    | ((with_reducible apply Foot.enterSelfRefresh); rotate_left; decide; decide)
    | with_reducible apply K.ite
    | ((with_reducible apply K.foldl); rotate_left; intro d x h; rotate_right)
    | ((with_reducible apply K.foldlFst); rotate_left; intro x y h; rotate_right)
    | ((with_reducible apply K.foldlSnd); rotate_left; intro x y h; rotate_right)
    | with_reducible apply K.fst_ite
    | with_reducible apply K.cond
    | with_reducible refine K.of_fst ?_ (by assumption)
    | with_reducible refine K.of_snd ?_ (by assumption)
    | (split)
    | dsimp only
    | (rw [Dev.mk_tag]; (with_reducible apply K.mk_log); rotate_left; decide)
    | (rw [Dev.mk_tag]; (with_reducible apply K.mk_pwr); rotate_left; decide)
    | (rw [Dev.mk_tag]; (with_reducible apply K.mk_dram); rotate_left; decide; (first | exact .inl rfl | exact .inl ⟨rfl, rfl⟩ | exact .inr ⟨by decide, by (intro w; first | exact w | exact Memory.wf_write _ _ w | exact Memory.wf_clear _ _ w | exact Memory.wf_filter _ w | exact Memory.wf_set _ _ w)⟩))
    | (rw [Dev.mk_tag]; (with_reducible apply K.mk_scan); rotate_left; decide)
    | (rw [Dev.mk_tag]; (with_reducible apply K.mkT); rotate_left; (intro p hq; cases p <;> first | exact absurd hq (by decide) | rfl | exact ⟨rfl, rfl⟩ | exact fun _ => ⟨rfl, rfl⟩); exact fun w => w)

theorem Foot.srExitDone {e d : Dev} {pm rm : Nat} {ch : Nat} (h : K e d pm rm) (hp : sub 0x0 pm = true)
    (hr : sub 0x80000000000000000000000000000000000000000000000000 rm = true) : K e (Dev.srExitDone d ch) pm rm := by
  refine K.lift h hp hr ?_
  clear h hp hr
  unfold Dev.srExitDone
  all_goals repeat' first
    | with_reducible exact K.refl _ _ _
    | with_reducible assumption
    | ((with_reducible apply K.put); rotate_left; (first | assumption | exact R.mem_DRAM_CH_STATUS); decide)
    | with_reducible apply K.ite
    | ((with_reducible apply K.foldl); rotate_left; intro d x h; rotate_right)
    | ((with_reducible apply K.foldlFst); rotate_left; intro x y h; rotate_right)
    | ((with_reducible apply K.foldlSnd); rotate_left; intro x y h; rotate_right)
    | with_reducible apply K.fst_ite
    | with_reducible apply K.cond
    | with_reducible refine K.of_fst ?_ (by assumption)
    | with_reducible refine K.of_snd ?_ (by assumption)
    | (split)
    | dsimp only
    | (rw [Dev.mk_tag]; (with_reducible apply K.mkT); rotate_left; (intro p hq; cases p <;> first | exact absurd hq (by decide) | rfl | exact ⟨rfl, rfl⟩ | exact fun _ => ⟨rfl, rfl⟩); exact fun w => w)

theorem Foot.segClear {e d : Dev} {pm rm : Nat} {ch : Nat} {mask : Nat} (h : K e d pm rm) (hp : sub 0x80 pm = true)
    (hr : sub 0x0 rm = true) : K e (Dev.segClear d ch mask) pm rm := by
  refine K.lift h hp hr ?_
  clear h hp hr
  unfold Dev.segClear
  extract_lets x1
  clear_value (g1 : x1 = _)
  subst g1
  all_goals repeat' first
    | with_reducible exact K.refl _ _ _
    | with_reducible assumption
    | with_reducible apply K.ite
    | ((with_reducible apply K.foldl); rotate_left; intro d x h; rotate_right)
    | ((with_reducible apply K.foldlFst); rotate_left; intro x y h; rotate_right)
    | ((with_reducible apply K.foldlSnd); rotate_left; intro x y h; rotate_right)
    | with_reducible apply K.fst_ite
    | with_reducible apply K.cond
    | with_reducible refine K.of_fst ?_ (by assumption)
    | with_reducible refine K.of_snd ?_ (by assumption)
    | (split)
    | dsimp only
    | (rw [Dev.mk_tag]; (with_reducible apply K.mk_dram); rotate_left; decide; (first | exact .inl rfl | exact .inl ⟨rfl, rfl⟩ | exact .inr ⟨by decide, by (intro w; first | exact w | exact Memory.wf_write _ _ w | exact Memory.wf_clear _ _ w | exact Memory.wf_filter _ w | exact Memory.wf_set _ _ w)⟩))
    | (rw [Dev.mk_tag]; (with_reducible apply K.mkT); rotate_left; (intro p hq; cases p <;> first | exact absurd hq (by decide) | rfl | exact ⟨rfl, rfl⟩ | exact fun _ => ⟨rfl, rfl⟩); exact fun w => w)

theorem Foot.segClearDone {e d : Dev} {pm rm : Nat} {ch : Nat} {s : Nat} (h : K e d pm rm) (hp : sub 0x10000082 pm = true)
    (hr : sub 0x80080000000000000000000000000000000000000000080000 rm = true) : K e (Dev.segClearDone d ch s) pm rm := by
  refine K.lift h hp hr ?_
  clear h hp hr
  unfold Dev.segClearDone
  extract_lets x1 x2
  clear_value (g1 : x1 = _) (g2 : x2 = _)
  subst g1
  refine K.cutEq d 0x10000082 0x80080000000000000000000000000000000000000000080000 g2 ?_ (fun h2 => ?_)
  rotate_left
  clear g2
  all_goals repeat' first
    | with_reducible exact K.refl _ _ _
    | with_reducible assumption
    | ((with_reducible apply K.put); rotate_left; (first | assumption | exact R.mem_DRAM_CH_STATUS | exact R.mem_DRAM_EVENT); decide)
    | ((with_reducible apply K.raise); rotate_left; (first | assumption | exact R.mem_DRAM_CH_STATUS | exact R.mem_DRAM_EVENT); decide; decide; decide)
    | with_reducible apply K.ite
    | ((with_reducible apply K.foldl); rotate_left; intro d x h; rotate_right)
    | ((with_reducible apply K.foldlFst); rotate_left; intro x y h; rotate_right)
    | ((with_reducible apply K.foldlSnd); rotate_left; intro x y h; rotate_right)
    | with_reducible apply K.fst_ite
    | with_reducible apply K.cond
    | with_reducible refine K.of_fst ?_ (by assumption)
    | with_reducible refine K.of_snd ?_ (by assumption)
    | (split)
    | dsimp only
    | (rw [Dev.mk_tag]; (with_reducible apply K.mk_log); rotate_left; decide)
    | (rw [Dev.mk_tag]; (with_reducible apply K.mk_dram); rotate_left; decide; (first | exact .inl rfl | exact .inl ⟨rfl, rfl⟩ | exact .inr ⟨by decide, by (intro w; first | exact w | exact Memory.wf_write _ _ w | exact Memory.wf_clear _ _ w | exact Memory.wf_filter _ w | exact Memory.wf_set _ _ w)⟩))
    | (rw [Dev.mk_tag]; (with_reducible apply K.mkT); rotate_left; (intro p hq; cases p <;> first | exact absurd hq (by decide) | rfl | exact ⟨rfl, rfl⟩ | exact fun _ => ⟨rfl, rfl⟩); exact fun w => w)

theorem Foot.scrubStep {e d : Dev} {pm rm : Nat} (h : K e d pm rm) (hp : sub 0x82 pm = true)
    (hr : sub 0x800000000000000000000a3680000000000000000000000000000000000000000080000 rm = true) : K e (Dev.scrubStep d) pm rm := by
  refine K.lift h hp hr ?_
  clear h hp hr
  unfold Dev.scrubStep
  extract_lets x1 x2 x3
  clear_value (g1 : x1 = _) (g2 : x2 = _) (g3 : x3 = _)
  clear g1
  subst g2
  refine K.cutEq d 0x82 0x800000000000000000000a3680000000000000000000000000000000000000000080000 g3 ?_ (fun h3 => ?_)
  rotate_left
  clear g3
  all_goals repeat' first
    | with_reducible exact K.refl _ _ _
    | with_reducible assumption
    | ((with_reducible apply Foot.dramReadBlock); rotate_left; decide; decide)
    | with_reducible apply K.ite
    | ((with_reducible apply K.foldl); rotate_left; intro d x h; rotate_right)
    | ((with_reducible apply K.foldlFst); rotate_left; intro x y h; rotate_right)
    | ((with_reducible apply K.foldlSnd); rotate_left; intro x y h; rotate_right)
    | with_reducible apply K.fst_ite
    | with_reducible apply K.cond
    | with_reducible refine K.of_fst ?_ (by assumption)
    | with_reducible refine K.of_snd ?_ (by assumption)
    | (split)
    | dsimp only
    | (rw [Dev.mk_tag]; (with_reducible apply K.mk_log); rotate_left; decide)
    | (rw [Dev.mk_tag]; (with_reducible apply K.mk_dram); rotate_left; decide; (first | exact .inl rfl | exact .inl ⟨rfl, rfl⟩ | exact .inr ⟨by decide, by (intro w; first | exact w | exact Memory.wf_write _ _ w | exact Memory.wf_clear _ _ w | exact Memory.wf_filter _ w | exact Memory.wf_set _ _ w)⟩))
    | (rw [Dev.mk_tag]; (with_reducible apply K.mkT); rotate_left; (intro p hq; cases p <;> first | exact absurd hq (by decide) | rfl | exact ⟨rfl, rfl⟩ | exact fun _ => ⟨rfl, rfl⟩); exact fun w => w)

theorem Foot.dramTrained {e d : Dev} {pm rm : Nat} {failed : Nat} (h : K e d pm rm) (hp : sub 0x2 pm = true)
    (hr : sub 0x80080000000000000000000000000000000000000000080000 rm = true) : K e (Dev.dramTrained d failed) pm rm := by
  refine K.lift h hp hr ?_
  clear h hp hr
  unfold Dev.dramTrained
  all_goals repeat' first
    | with_reducible exact K.refl _ _ _
    | with_reducible assumption
    | ((with_reducible apply K.put); rotate_left; (first | assumption | exact R.mem_DRAM_CH_STATUS | exact R.mem_DRAM_EVENT); decide)
    | ((with_reducible apply K.raise); rotate_left; (first | assumption | exact R.mem_DRAM_CH_STATUS | exact R.mem_DRAM_EVENT); decide; decide; decide)
    | with_reducible apply K.ite
    | ((with_reducible apply K.each); rotate_left; intro d x h; rotate_right)
    | ((with_reducible apply K.foldl); rotate_left; intro d x h; rotate_right)
    | ((with_reducible apply K.foldlFst); rotate_left; intro x y h; rotate_right)
    | ((with_reducible apply K.foldlSnd); rotate_left; intro x y h; rotate_right)
    | with_reducible apply K.fst_ite
    | with_reducible apply K.cond
    | with_reducible refine K.of_fst ?_ (by assumption)
    | with_reducible refine K.of_snd ?_ (by assumption)
    | (split)
    | dsimp only
    | (rw [Dev.mk_tag]; (with_reducible apply K.mk_log); rotate_left; decide)
    | (rw [Dev.mk_tag]; (with_reducible apply K.mkT); rotate_left; (intro p hq; cases p <;> first | exact absurd hq (by decide) | rfl | exact ⟨rfl, rfl⟩ | exact fun _ => ⟨rfl, rfl⟩); exact fun w => w)

end Sys2Proof.Machine
end

