-- ==== Sys2Proof/Laws/FootTransfer.lean ====
section
/-! SUPPORT.  Footprints of the functions of `Machine/Transfer.lean` (see `Keep.lean`): what each leaves alone. -/

set_option Elab.async false
set_option linter.all false

namespace Sys2Proof.Machine

theorem Foot.xread {e d : Dev} {pm rm : Nat} {lp : Nat} {dp : Nat} {x0 : XAddr} {n : Nat} (h : K e d pm rm) (hp : sub 0xa2 pm = true)
    (hr : sub 0x800000000000000000000a368281a800000000000000000000000000000000000080000 rm = true) : K e (Dev.xread d lp dp x0 n).1 pm rm := by
  refine K.lift h hp hr ?_
  clear h hp hr
  unfold Dev.xread
  all_goals repeat' first
    | with_reducible exact K.refl _ _ _
    | with_reducible assumption
    | ((with_reducible apply Foot.lsRead); rotate_left; decide; decide)
    | ((with_reducible apply Foot.dramRead); rotate_left; decide; decide)
    | with_reducible apply K.ite
    | ((with_reducible apply K.foldl); rotate_left; intro d x h; rotate_right)
    | ((with_reducible apply K.foldlFst); rotate_left; intro x y h; rotate_right)
    | ((with_reducible apply K.foldlSnd); rotate_left; intro x y h; rotate_right)
    | with_reducible apply K.fst_ite
    | with_reducible apply K.cond
    | with_reducible refine K.of_fst ?_ (by assumption)
    | with_reducible refine K.of_snd ?_ (by assumption)
    | (split)
    | dsimp only
    | (rw [Dev.mk_tag]; (with_reducible apply K.mk_log); rotate_left; decide)
    | (rw [Dev.mk_tag]; (with_reducible apply K.mk_ls); rotate_left; decide; (first | exact .inl rfl | exact .inl ⟨rfl, rfl⟩ | exact .inr ⟨by decide, by (intro w; first | exact w | exact Memory.wf_write _ _ w | exact Memory.wf_clear _ _ w | exact Memory.wf_filter _ w | exact Memory.wf_set _ _ w)⟩))
    | (rw [Dev.mk_tag]; (with_reducible apply K.mk_dram); rotate_left; decide; (first | exact .inl rfl | exact .inl ⟨rfl, rfl⟩ | exact .inr ⟨by decide, by (intro w; first | exact w | exact Memory.wf_write _ _ w | exact Memory.wf_clear _ _ w | exact Memory.wf_filter _ w | exact Memory.wf_set _ _ w)⟩))
    | (rw [Dev.mk_tag]; (with_reducible apply K.mkT); rotate_left; (intro p hq; cases p <;> first | exact absurd hq (by decide) | rfl | exact ⟨rfl, rfl⟩ | exact fun _ => ⟨rfl, rfl⟩); exact fun w => w)

theorem Foot.xwrite {e d : Dev} {pm rm : Nat} {lp : Nat} {dp : Nat} {x0 : XAddr} {bs : List Byte} (h : K e d pm rm) (hp : sub 0x180000a2 pm = true)
    (hr : sub 0x800000000000000000000a368281a800000000040000400000000000000000000080000 rm = true) : K e (Dev.xwrite d lp dp x0 bs).1 pm rm := by
  refine K.lift h hp hr ?_
  clear h hp hr
  unfold Dev.xwrite
  all_goals repeat' first
    | with_reducible exact K.refl _ _ _
    | with_reducible assumption
    | ((with_reducible apply Foot.lsWrite); rotate_left; decide; decide)
    | ((with_reducible apply Foot.dramWrite); rotate_left; decide; decide)
    | with_reducible apply K.ite
    | ((with_reducible apply K.foldl); rotate_left; intro d x h; rotate_right)
    | ((with_reducible apply K.foldlFst); rotate_left; intro x y h; rotate_right)
    | ((with_reducible apply K.foldlSnd); rotate_left; intro x y h; rotate_right)
    | with_reducible apply K.fst_ite
    | with_reducible apply K.cond
    | with_reducible refine K.of_fst ?_ (by assumption)
    | with_reducible refine K.of_snd ?_ (by assumption)
    | (split)
    | dsimp only
    | (rw [Dev.mk_tag]; (with_reducible apply K.mk_log); rotate_left; decide)
    | (rw [Dev.mk_tag]; (with_reducible apply K.mk_ls); rotate_left; decide; (first | exact .inl rfl | exact .inl ⟨rfl, rfl⟩ | exact .inr ⟨by decide, by (intro w; first | exact w | exact Memory.wf_write _ _ w | exact Memory.wf_clear _ _ w | exact Memory.wf_filter _ w | exact Memory.wf_set _ _ w)⟩))
    | (rw [Dev.mk_tag]; (with_reducible apply K.mk_dram); rotate_left; decide; (first | exact .inl rfl | exact .inl ⟨rfl, rfl⟩ | exact .inr ⟨by decide, by (intro w; first | exact w | exact Memory.wf_write _ _ w | exact Memory.wf_clear _ _ w | exact Memory.wf_filter _ w | exact Memory.wf_set _ _ w)⟩))
    | (rw [Dev.mk_tag]; (with_reducible apply K.mkT); rotate_left; (intro p hq; cases p <;> first | exact absurd hq (by decide) | rfl | exact ⟨rfl, rfl⟩ | exact fun _ => ⟨rfl, rfl⟩); exact fun w => w)

theorem Foot.runChunks {e d : Dev} {pm rm : Nat} {lp dp : Nat} {o : Owner} {cs : List WChunk} (h : K e d pm rm) (hp : sub 0x180000a6 pm = true)
    (hr : sub 0x800000000000000000000a368281a800000000040000400000000000003000000080000 rm = true) : K e (Dev.runChunks lp dp o cs d).1 pm rm := by
  induction cs generalizing d with
  | nil => exact K.lift h hp hr (K.refl _ _ _)
  | cons c cs ih =>
    unfold Dev.runChunks
    split
    · exact Foot.hold h (sub_trans (by decide) hp) (sub_trans (by decide) hr)
    · have h2 : K e (d.xwrite lp dp ⟨c.ls, c.addr⟩ c.bytes).1 pm rm :=
        Foot.xwrite h (sub_trans (by decide) hp) (sub_trans (by decide) hr)
      generalize d.xwrite lp dp ⟨c.ls, c.addr⟩ c.bytes = x at h2
      obtain ⟨d2, st⟩ := x
      dsimp only
      split
      · exact ih h2
      · exact h2

end Sys2Proof.Machine
end

