-- ==== Sys2Proof/Laws/FootSched.lean ====
section
/-! SUPPORT.  Footprints of the functions of `Machine/Sched.lean` (see `Keep.lean`): what each leaves alone. -/

set_option Elab.async false
set_option linter.all false

namespace Sys2Proof.Machine

theorem Foot.glenUpset {e d : Dev} {pm rm : Nat} {k0 : Nat} {a : Nat} {ecc : Nat} (h : K e d pm rm) (hp : sub 0x4000 pm = true)
    (hr : sub 0x0 rm = true) : K e (Dev.glenUpset d k0 a ecc) pm rm := by
  refine K.lift h hp hr ?_
  clear h hp hr
  unfold Dev.glenUpset
  extract_lets x1 x2
  clear_value (g1 : x1 = _) (g2 : x2 = _)
  clear g1
  subst g2
  all_goals repeat' first
    | with_reducible exact K.refl _ _ _
    | with_reducible assumption
    | with_reducible apply K.ite
    | ((with_reducible apply K.foldl); rotate_left; intro d x h; rotate_right)
    | ((with_reducible apply K.foldlFst); rotate_left; intro x y h; rotate_right)
    | ((with_reducible apply K.foldlSnd); rotate_left; intro x y h; rotate_right)
    | with_reducible apply K.fst_ite
    | with_reducible apply K.cond
    | with_reducible refine K.of_fst ?_ (by assumption)
    | with_reducible refine K.of_snd ?_ (by assumption)
    | (split)
    | dsimp only
    | (rw [Dev.mk_tag]; (with_reducible apply K.mk_sched); rotate_left; decide; (first | exact .inl rfl | exact .inr ⟨by decide, by (intro w; first | exact w | exact Memory.wf_write _ _ w | exact Memory.wf_clear _ _ w | exact Memory.wf_filter _ w | exact Memory.wf_set _ _ w)⟩); (first | exact .inl rfl | exact .inr ⟨by decide, by (intro w p hp; obtain ⟨q, hq, rfl⟩ := List.mem_map.1 hp; exact w q hq)⟩))
    | (rw [Dev.mk_tag]; (with_reducible apply K.mkT); rotate_left; (intro p hq; cases p <;> first | exact absurd hq (by decide) | rfl | exact ⟨rfl, rfl⟩ | exact fun _ => ⟨rfl, rfl⟩); exact fun w => w)

theorem Foot.glenMeet {e d : Dev} {pm rm : Nat} {k0 : Nat} {a : Nat} {n : Nat} (h : K e d pm rm) (hp : sub 0x4002 pm = true)
    (hr : sub 0x400000000000080000 rm = true) : K e (Dev.glenMeet d k0 a n).1 pm rm := by
  refine K.lift h hp hr ?_
  clear h hp hr
  unfold Dev.glenMeet
  extract_lets x1 x2
  clear_value (g1 : x1 = _) (g2 : x2 = _)
  subst g1
  refine K.cutEq d 0x4002 0x400000000000080000 g2 ?_ (fun h2 => ?_)
  rotate_left
  clear g2
  all_goals repeat' first
    | with_reducible exact K.refl _ _ _
    | with_reducible assumption
    | ((with_reducible apply K.raise); rotate_left; (first | assumption | exact R.mem_SCHED_EVENT); decide; decide; decide)
    | with_reducible apply K.ite
    | ((with_reducible apply K.foldl); rotate_left; intro d x h; rotate_right)
    | ((with_reducible apply K.foldlFst); rotate_left; intro x y h; rotate_right)
    | ((with_reducible apply K.foldlSnd); rotate_left; intro x y h; rotate_right)
    | with_reducible apply K.fst_ite
    | with_reducible apply K.cond
    | with_reducible refine K.of_fst ?_ (by assumption)
    | with_reducible refine K.of_snd ?_ (by assumption)
    | (split)
    | dsimp only
    | (rw [Dev.mk_tag]; (with_reducible apply K.mk_log); rotate_left; decide)
    | (rw [Dev.mk_tag]; (with_reducible apply K.mk_sched); rotate_left; decide; (first | exact .inl rfl | exact .inr ⟨by decide, by (intro w; first | exact w | exact Memory.wf_write _ _ w | exact Memory.wf_clear _ _ w | exact Memory.wf_filter _ w | exact Memory.wf_set _ _ w)⟩); (first | exact .inl rfl | exact .inr ⟨by decide, by (intro w p hp; obtain ⟨q, hq, rfl⟩ := List.mem_map.1 hp; exact w q hq)⟩))
    | (rw [Dev.mk_tag]; (with_reducible apply K.mkT); rotate_left; (intro p hq; cases p <;> first | exact absurd hq (by decide) | rfl | exact ⟨rfl, rfl⟩ | exact fun _ => ⟨rfl, rfl⟩); exact fun w => w)

theorem Foot.glenClean {e d : Dev} {pm rm : Nat} {k0 : Nat} {a : Nat} {n : Nat} (h : K e d pm rm) (hp : sub 0x4000 pm = true)
    (hr : sub 0x0 rm = true) : K e (Dev.glenClean d k0 a n) pm rm := by
  refine K.lift h hp hr ?_
  clear h hp hr
  unfold Dev.glenClean
  extract_lets x1
  clear_value (g1 : x1 = _)
  subst g1
  all_goals repeat' first
    | with_reducible exact K.refl _ _ _
    | with_reducible assumption
    | with_reducible apply K.ite
    | ((with_reducible apply K.foldl); rotate_left; intro d x h; rotate_right)
    | ((with_reducible apply K.foldlFst); rotate_left; intro x y h; rotate_right)
    | ((with_reducible apply K.foldlSnd); rotate_left; intro x y h; rotate_right)
    | with_reducible apply K.fst_ite
    | with_reducible apply K.cond
    | with_reducible refine K.of_fst ?_ (by assumption)
    | with_reducible refine K.of_snd ?_ (by assumption)
    | (split)
    | dsimp only
    | (rw [Dev.mk_tag]; (with_reducible apply K.mk_sched); rotate_left; decide; (first | exact .inl rfl | exact .inr ⟨by decide, by (intro w; first | exact w | exact Memory.wf_write _ _ w | exact Memory.wf_clear _ _ w | exact Memory.wf_filter _ w | exact Memory.wf_set _ _ w)⟩); (first | exact .inl rfl | exact .inr ⟨by decide, by (intro w p hp; obtain ⟨q, hq, rfl⟩ := List.mem_map.1 hp; exact w q hq)⟩))
    | (rw [Dev.mk_tag]; (with_reducible apply K.mkT); rotate_left; (intro p hq; cases p <;> first | exact absurd hq (by decide) | rfl | exact ⟨rfl, rfl⟩ | exact fun _ => ⟨rfl, rfl⟩); exact fun w => w)

theorem Foot.localWrite {e d : Dev} {pm rm : Nat} {k0 : Nat} {a : Nat} {bs : List Byte} (h : K e d pm rm) (hp : sub 0x300004000 pm = true)
    (hr : sub 0x0 rm = true) : K e (Dev.localWrite d k0 a bs) pm rm := by
  refine K.lift h hp hr ?_
  clear h hp hr
  unfold Dev.localWrite
  extract_lets x1
  clear_value (g1 : x1 = _)
  subst g1
  all_goals repeat' first
    | with_reducible exact K.refl _ _ _
    | with_reducible assumption
    | ((with_reducible apply K.setDale); rotate_left; decide; exact fun _ => ⟨rfl, rfl⟩)
    | ((with_reducible apply K.setDaleMem); rotate_left; decide; decide; (intro c w; first | exact w | exact ⟨Memory.wf_write _ _ w.1, w.2⟩ | exact ⟨w.1, Memory.wf_write _ _ w.2⟩ | (dsimp only; split <;> first | exact ⟨Memory.wf_write _ _ w.1, w.2⟩ | exact ⟨w.1, Memory.wf_write _ _ w.2⟩)))
    | with_reducible apply K.ite
    | ((with_reducible apply K.foldl); rotate_left; intro d x h; rotate_right)
    | ((with_reducible apply K.foldlFst); rotate_left; intro x y h; rotate_right)
    | ((with_reducible apply K.foldlSnd); rotate_left; intro x y h; rotate_right)
    | with_reducible apply K.fst_ite
    | with_reducible apply K.cond
    | with_reducible refine K.of_fst ?_ (by assumption)
    | with_reducible refine K.of_snd ?_ (by assumption)
    | (split)
    | dsimp only
    | (rw [Dev.mk_tag]; (with_reducible apply K.mk_sched); rotate_left; decide; (first | exact .inl rfl | exact .inr ⟨by decide, by (intro w; first | exact w | exact Memory.wf_write _ _ w | exact Memory.wf_clear _ _ w | exact Memory.wf_filter _ w | exact Memory.wf_set _ _ w)⟩); (first | exact .inl rfl | exact .inr ⟨by decide, by (intro w p hp; obtain ⟨q, hq, rfl⟩ := List.mem_map.1 hp; exact w q hq)⟩))
    | (rw [Dev.mk_tag]; (with_reducible apply K.mkT); rotate_left; (intro p hq; cases p <;> first | exact absurd hq (by decide) | rfl | exact ⟨rfl, rfl⟩ | exact fun _ => ⟨rfl, rfl⟩); exact fun w => w)

theorem Foot.glenWrite {e d : Dev} {pm rm : Nat} {k0 : Nat} {a : Nat} {bs : List Byte} (h : K e d pm rm) (hp : sub 0x300004002 pm = true)
    (hr : sub 0x400000000000080000 rm = true) : K e (Dev.glenWrite d k0 a bs).1 pm rm := by
  refine K.lift h hp hr ?_
  clear h hp hr
  unfold Dev.glenWrite
  extract_lets x1 x2 x3
  clear_value (g1 : x1 = _) (g2 : x2 = _) (g3 : x3 = _)
  clear g1
  clear g2
  clear g3
  all_goals repeat' first
    | with_reducible exact K.refl _ _ _
    | with_reducible assumption
    | ((with_reducible apply Foot.glenMeet); rotate_left; decide; decide)
    | ((with_reducible apply Foot.glenClean); rotate_left; decide; decide)
    | ((with_reducible apply Foot.localWrite); rotate_left; decide; decide)
    | with_reducible apply K.ite
    | ((with_reducible apply K.foldl); rotate_left; intro d x h; rotate_right)
    | ((with_reducible apply K.foldlFst); rotate_left; intro x y h; rotate_right)
    | ((with_reducible apply K.foldlSnd); rotate_left; intro x y h; rotate_right)
    | with_reducible apply K.fst_ite
    | with_reducible apply K.cond
    | with_reducible refine K.of_fst ?_ (by assumption)
    | with_reducible refine K.of_snd ?_ (by assumption)
    | (split)
    | dsimp only
    | (rw [Dev.mk_tag]; (with_reducible apply K.mk_log); rotate_left; decide)
    | (rw [Dev.mk_tag]; (with_reducible apply K.mk_sched); rotate_left; decide; (first | exact .inl rfl | exact .inr ⟨by decide, by (intro w; first | exact w | exact Memory.wf_write _ _ w | exact Memory.wf_clear _ _ w | exact Memory.wf_filter _ w | exact Memory.wf_set _ _ w)⟩); (first | exact .inl rfl | exact .inr ⟨by decide, by (intro w p hp; obtain ⟨q, hq, rfl⟩ := List.mem_map.1 hp; exact w q hq)⟩))
    | (rw [Dev.mk_tag]; (with_reducible apply K.mkT); rotate_left; (intro p hq; cases p <;> first | exact absurd hq (by decide) | rfl | exact ⟨rfl, rfl⟩ | exact fun _ => ⟨rfl, rfl⟩); exact fun w => w)

theorem Foot.showBusy {e d : Dev} {pm rm : Nat} {k0 : Nat} (h : K e d pm rm) (hp : sub 0x200000000 pm = true)
    (hr : sub 0x10000000000000000000000 rm = true) : K e (Dev.showBusy d k0) pm rm := by
  refine K.lift h hp hr ?_
  clear h hp hr
  unfold Dev.showBusy
  all_goals repeat' first
    | with_reducible exact K.refl _ _ _
    | with_reducible assumption
    | ((with_reducible apply K.flag); rotate_left; (first | assumption | exact R.mem_DALE_STATUS); decide)
    | with_reducible apply K.ite
    | ((with_reducible apply K.foldl); rotate_left; intro d x h; rotate_right)
    | ((with_reducible apply K.foldlFst); rotate_left; intro x y h; rotate_right)
    | ((with_reducible apply K.foldlSnd); rotate_left; intro x y h; rotate_right)
    | with_reducible apply K.fst_ite
    | with_reducible apply K.cond
    | with_reducible refine K.of_fst ?_ (by assumption)
    | with_reducible refine K.of_snd ?_ (by assumption)
    | (split)
    | dsimp only
    | (rw [Dev.mk_tag]; (with_reducible apply K.mkT); rotate_left; (intro p hq; cases p <;> first | exact absurd hq (by decide) | rfl | exact ⟨rfl, rfl⟩ | exact fun _ => ⟨rfl, rfl⟩); exact fun w => w)

theorem Foot.daleEvent {e d : Dev} {pm rm : Nat} {k0 : Nat} {bitNo : Nat} (h : K e d pm rm) (hp : sub 0x200004000 pm = true)
    (hr : sub 0x0 rm = true) : K e (Dev.daleEvent d k0 bitNo) pm rm := by
  refine K.lift h hp hr ?_
  clear h hp hr
  unfold Dev.daleEvent
  all_goals repeat' first
    | with_reducible exact K.refl _ _ _
    | with_reducible assumption
    | ((with_reducible apply K.setDale); rotate_left; decide; exact fun _ => ⟨rfl, rfl⟩)
    | ((with_reducible apply K.setDaleMem); rotate_left; decide; decide; (intro c w; first | exact w | exact ⟨Memory.wf_write _ _ w.1, w.2⟩ | exact ⟨w.1, Memory.wf_write _ _ w.2⟩ | (dsimp only; split <;> first | exact ⟨Memory.wf_write _ _ w.1, w.2⟩ | exact ⟨w.1, Memory.wf_write _ _ w.2⟩)))
    | with_reducible apply K.ite
    | ((with_reducible apply K.foldl); rotate_left; intro d x h; rotate_right)
    | ((with_reducible apply K.foldlFst); rotate_left; intro x y h; rotate_right)
    | ((with_reducible apply K.foldlSnd); rotate_left; intro x y h; rotate_right)
    | with_reducible apply K.fst_ite
    | with_reducible apply K.cond
    | with_reducible refine K.of_fst ?_ (by assumption)
    | with_reducible refine K.of_snd ?_ (by assumption)
    | (split)
    | dsimp only
    | (rw [Dev.mk_tag]; (with_reducible apply K.mk_sched); rotate_left; decide; (first | exact .inl rfl | exact .inr ⟨by decide, by (intro w; first | exact w | exact Memory.wf_write _ _ w | exact Memory.wf_clear _ _ w | exact Memory.wf_filter _ w | exact Memory.wf_set _ _ w)⟩); (first | exact .inl rfl | exact .inr ⟨by decide, by (intro w p hp; obtain ⟨q, hq, rfl⟩ := List.mem_map.1 hp; exact w q hq)⟩))
    | (rw [Dev.mk_tag]; (with_reducible apply K.mkT); rotate_left; (intro p hq; cases p <;> first | exact absurd hq (by decide) | rfl | exact ⟨rfl, rfl⟩ | exact fun _ => ⟨rfl, rfl⟩); exact fun w => w)

theorem Dev.dales_wf {d : Dev} (w : ∀ p ∈ d.sched.dales, p.2.imem.wf = true ∧ p.2.dmem.wf = true) (k : Nat) :
    (d.dale k).imem.wf = true ∧ (d.dale k).dmem.wf = true := by
  unfold Dev.dale
  cases h : assoc k d.sched.dales with
  | none => exact ⟨rfl, rfl⟩
  | some s => exact w _ (mem_of_assoc h)

theorem Foot.allDalesEvent {e d : Dev} {pm rm : Nat} {bitNo : Nat} (h : K e d pm rm) (hp : sub 0x200004000 pm = true)
    (hr : sub 0x0 rm = true) : K e (Dev.allDalesEvent d bitNo) pm rm := by
  refine K.lift h hp hr ?_
  clear h hp hr
  unfold Dev.allDalesEvent
  rw [Dev.mk_tag]
  refine K.mk_sched (K.refl _ _ _) (by decide) (.inl rfl) (.inr ⟨by decide, fun w p hp => ?_⟩)
  obtain ⟨k, _, rfl⟩ := List.mem_map.1 hp
  exact Dev.dales_wf w k

theorem Foot.showSched {e d : Dev} {pm rm : Nat} (h : K e d pm rm) (hp : sub 0x0 pm = true)
    (hr : sub 0x10000100000000000000000 rm = true) : K e (Dev.showSched d) pm rm := by
  refine K.lift h hp hr ?_
  clear h hp hr
  unfold Dev.showSched
  extract_lets x1 x2
  clear_value (g1 : x1 = _) (g2 : x2 = _)
  refine K.cutEq d 0x0 0x10000100000000000000000 g1 ?_ (fun h1 => ?_)
  rotate_left
  clear g1
  subst g2
  all_goals repeat' first
    | with_reducible exact K.refl _ _ _
    | with_reducible assumption
    | ((with_reducible apply K.put); rotate_left; (first | assumption | exact R.mem_DALE_STATUS | exact R.mem_SCHED_STATUS); decide)
    | with_reducible apply K.ite
    | ((with_reducible apply K.each); rotate_left; intro d x h; rotate_right)
    | ((with_reducible apply K.foldl); rotate_left; intro d x h; rotate_right)
    | ((with_reducible apply K.foldlFst); rotate_left; intro x y h; rotate_right)
    | ((with_reducible apply K.foldlSnd); rotate_left; intro x y h; rotate_right)
    | with_reducible apply K.fst_ite
    | with_reducible apply K.cond
    | with_reducible refine K.of_fst ?_ (by assumption)
    | with_reducible refine K.of_snd ?_ (by assumption)
    | (split)
    | dsimp only
    | (rw [Dev.mk_tag]; (with_reducible apply K.mkT); rotate_left; (intro p hq; cases p <;> first | exact absurd hq (by decide) | rfl | exact ⟨rfl, rfl⟩ | exact fun _ => ⟨rfl, rfl⟩); exact fun w => w)

theorem mapField_map (z : Nat) : Reg.inMap (mapField z).reg = true ∧ (mapField z).reg = R.ZONE_MAP := by
  unfold mapField
  split <;> exact ⟨R.mem_ZONE_MAP, rfl⟩

theorem Foot.reassign {e d : Dev} {pm rm : Nat} {z : Nat} (h : K e d pm rm) (hp : sub 0x2 pm = true)
    (hr : sub 0x20000600000000000080000 rm = true) : K e (Dev.reassign d z) pm rm := by
  refine K.lift h hp hr ?_
  clear h hp hr
  have hm := mapField_map z
  unfold Dev.reassign
  extract_lets counts best
  clear_value best
  rcases best with _ | ⟨k, n⟩
  rotate_left
  · exact K.put (K.refl _ _ _) hm.1 (by rw [hm.2]; decide) _ _
  · exact K.raise (K.inc (K.put (K.refl _ _ _) hm.1 (by rw [hm.2]; decide) _ _) R.mem_ZONES_UNASSIGNED (by decide) _ _)
      R.mem_SCHED_EVENT (by decide) (by decide) (by decide) _

theorem Foot.startJob {e d : Dev} {pm rm : Nat} {k0 : Nat} {z : Nat} {t : Nat} (h : K e d pm rm) (hp : sub 0x300004000 pm = true)
    (hr : sub 0x10000000000000000000000 rm = true) : K e (Dev.startJob d k0 z t) pm rm := by
  refine K.lift h hp hr ?_
  clear h hp hr
  unfold Dev.startJob
  extract_lets x1 x2 x3 x4
  clear_value (g1 : x1 = _) (g2 : x2 = _) (g3 : x3 = _) (g4 : x4 = _)
  clear g1
  subst g2
  refine K.cutEq d 0x300004000 0x10000000000000000000000 g3 ?_ (fun h3 => ?_)
  rotate_left
  clear g3
  refine K.cutEq d 0x300004000 0x10000000000000000000000 g4 ?_ (fun h4 => ?_)
  rotate_left
  clear g4
  all_goals repeat' first
    | with_reducible exact K.refl _ _ _
    | with_reducible assumption
    | ((with_reducible apply K.setDale); rotate_left; decide; exact fun _ => ⟨rfl, rfl⟩)
    | ((with_reducible apply K.setDaleMem); rotate_left; decide; decide; (intro c w; first | exact w | exact ⟨Memory.wf_write _ _ w.1, w.2⟩ | exact ⟨w.1, Memory.wf_write _ _ w.2⟩ | (dsimp only; split <;> first | exact ⟨Memory.wf_write _ _ w.1, w.2⟩ | exact ⟨w.1, Memory.wf_write _ _ w.2⟩)))
    | ((with_reducible apply Foot.glenClean); rotate_left; decide; decide)
    | ((with_reducible apply Foot.showBusy); rotate_left; decide; decide)
    | with_reducible apply K.ite
    | ((with_reducible apply K.foldl); rotate_left; intro d x h; rotate_right)
    | ((with_reducible apply K.foldlFst); rotate_left; intro x y h; rotate_right)
    | ((with_reducible apply K.foldlSnd); rotate_left; intro x y h; rotate_right)
    | with_reducible apply K.fst_ite
    | with_reducible apply K.cond
    | with_reducible refine K.of_fst ?_ (by assumption)
    | with_reducible refine K.of_snd ?_ (by assumption)
    | (split)
    | dsimp only
    | (rw [Dev.mk_tag]; (with_reducible apply K.mk_sched); rotate_left; decide; (first | exact .inl rfl | exact .inr ⟨by decide, by (intro w; first | exact w | exact Memory.wf_write _ _ w | exact Memory.wf_clear _ _ w | exact Memory.wf_filter _ w | exact Memory.wf_set _ _ w)⟩); (first | exact .inl rfl | exact .inr ⟨by decide, by (intro w p hp; obtain ⟨q, hq, rfl⟩ := List.mem_map.1 hp; exact w q hq)⟩))
    | (rw [Dev.mk_tag]; (with_reducible apply K.mkT); rotate_left; (intro p hq; cases p <;> first | exact absurd hq (by decide) | rfl | exact ⟨rfl, rfl⟩ | exact fun _ => ⟨rfl, rfl⟩); exact fun w => w)

theorem Foot.skipJob {e d : Dev} {pm rm : Nat} {t : Nat} (h : K e d pm rm) (hp : sub 0x2 pm = true)
    (hr : sub 0x2000400000000000080000 rm = true) : K e (Dev.skipJob d t) pm rm := by
  refine K.lift h hp hr ?_
  clear h hp hr
  unfold Dev.skipJob
  all_goals repeat' first
    | with_reducible exact K.refl _ _ _
    | with_reducible assumption
    | ((with_reducible apply K.inc); rotate_left; (first | assumption | exact R.mem_JOB_SKIP_COUNT | exact R.mem_SCHED_EVENT); decide)
    | ((with_reducible apply K.raise); rotate_left; (first | assumption | exact R.mem_JOB_SKIP_COUNT | exact R.mem_SCHED_EVENT); decide; decide; decide)
    | with_reducible apply K.ite
    | ((with_reducible apply K.foldl); rotate_left; intro d x h; rotate_right)
    | ((with_reducible apply K.foldlFst); rotate_left; intro x y h; rotate_right)
    | ((with_reducible apply K.foldlSnd); rotate_left; intro x y h; rotate_right)
    | with_reducible apply K.fst_ite
    | with_reducible apply K.cond
    | with_reducible refine K.of_fst ?_ (by assumption)
    | with_reducible refine K.of_snd ?_ (by assumption)
    | (split)
    | dsimp only
    | (rw [Dev.mk_tag]; (with_reducible apply K.mk_log); rotate_left; decide)
    | (rw [Dev.mk_tag]; (with_reducible apply K.mkT); rotate_left; (intro p hq; cases p <;> first | exact absurd hq (by decide) | rfl | exact ⟨rfl, rfl⟩ | exact fun _ => ⟨rfl, rfl⟩); exact fun w => w)

theorem Foot.dispatchFrom {e d : Dev} {pm rm : Nat} {k : Nat} {kept l : List (Nat × Nat)} (h : K e d pm rm) (hp : sub 0x300004002 pm = true)
    (hr : sub 0x12000400000000000080000 rm = true) : K e (Dev.dispatchFrom k kept l d) pm rm := by
  induction l generalizing kept d with
  | nil =>
    unfold Dev.dispatchFrom
    exact K.setDale h (sub_testBit' hp (by decide)) _ _ fun _ => ⟨rfl, rfl⟩
  | cons c l ih =>
    obtain ⟨z, t⟩ := c
    unfold Dev.dispatchFrom
    have hs : K e (d.skipJob t) pm rm := Foot.skipJob h (sub_trans (by decide) hp) (sub_trans (by decide) hr)
    split
    · exact ih hs
    · split
      · exact ih h
      · split
        · dsimp only
          refine ih ?_
          split
          · exact hs
          · refine K.raise ?_ R.mem_SCHED_EVENT (sub_testBit' hr (by decide)) (sub_testBit' hp (by decide)) (sub_testBit' hr (by decide)) _
            rw [Dev.mk_tag]
            exact K.mk_sched hs (sub_testBit' hp (by decide)) (.inl rfl) (.inl rfl)
        · exact Foot.startJob (K.setDale h (sub_testBit' hp (by decide)) _ _ fun _ => ⟨rfl, rfl⟩) (sub_trans (by decide) hp) (sub_trans (by decide) hr)

theorem Foot.dispatch {e d : Dev} {pm rm : Nat} {k0 : Nat} (h : K e d pm rm) (hp : sub 0x30000400a pm = true)
    (hr : sub 0x80000000000000000000000000000000000000000000000012000400000000000080000 rm = true) : K e (Dev.dispatch d k0) pm rm := by
  refine K.lift h hp hr ?_
  clear h hp hr
  unfold Dev.dispatch
  extract_lets x1
  clear_value (g1 : x1 = _)
  subst g1
  all_goals repeat' first
    | with_reducible exact K.refl _ _ _
    | with_reducible assumption
    | ((with_reducible apply Foot.startWake); rotate_left; decide; decide)
    | ((with_reducible apply Foot.dispatchFrom); rotate_left; decide; decide)
    | with_reducible apply K.ite
    | ((with_reducible apply K.foldl); rotate_left; intro d x h; rotate_right)
    | ((with_reducible apply K.foldlFst); rotate_left; intro x y h; rotate_right)
    | ((with_reducible apply K.foldlSnd); rotate_left; intro x y h; rotate_right)
    | with_reducible apply K.fst_ite
    | with_reducible apply K.cond
    | with_reducible refine K.of_fst ?_ (by assumption)
    | with_reducible refine K.of_snd ?_ (by assumption)
    | (split)
    | dsimp only
    | (rw [Dev.mk_tag]; (with_reducible apply K.mk_log); rotate_left; decide)
    | (rw [Dev.mk_tag]; (with_reducible apply K.mk_pwr); rotate_left; decide)
    | (rw [Dev.mk_tag]; (with_reducible apply K.mk_sched); rotate_left; decide; (first | exact .inl rfl | exact .inr ⟨by decide, by (intro w; first | exact w | exact Memory.wf_write _ _ w | exact Memory.wf_clear _ _ w | exact Memory.wf_filter _ w | exact Memory.wf_set _ _ w)⟩); (first | exact .inl rfl | exact .inr ⟨by decide, by (intro w p hp; obtain ⟨q, hq, rfl⟩ := List.mem_map.1 hp; exact w q hq)⟩))
    | (rw [Dev.mk_tag]; (with_reducible apply K.mkT); rotate_left; (intro p hq; cases p <;> first | exact absurd hq (by decide) | rfl | exact ⟨rfl, rfl⟩ | exact fun _ => ⟨rfl, rfl⟩); exact fun w => w)

theorem Foot.dispatchAll {e d : Dev} {pm rm : Nat} (h : K e d pm rm) (hp : sub 0x30000400a pm = true)
    (hr : sub 0x80000000000000000000000000000000000000000000000012000400000000000080000 rm = true) : K e (Dev.dispatchAll d) pm rm := by
  refine K.lift h hp hr ?_
  clear h hp hr
  unfold Dev.dispatchAll
  all_goals repeat' first
    | with_reducible exact K.refl _ _ _
    | with_reducible assumption
    | ((with_reducible apply Foot.dispatch); rotate_left; decide; decide)
    | with_reducible apply K.ite
    | ((with_reducible apply K.each); rotate_left; intro d x h; rotate_right)
    | ((with_reducible apply K.foldl); rotate_left; intro d x h; rotate_right)
    | ((with_reducible apply K.foldlFst); rotate_left; intro x y h; rotate_right)
    | ((with_reducible apply K.foldlSnd); rotate_left; intro x y h; rotate_right)
    | with_reducible apply K.fst_ite
    | with_reducible apply K.cond
    | with_reducible refine K.of_fst ?_ (by assumption)
    | with_reducible refine K.of_snd ?_ (by assumption)
    | (split)
    | dsimp only
    | (rw [Dev.mk_tag]; (with_reducible apply K.mk_log); rotate_left; decide)
    | (rw [Dev.mk_tag]; (with_reducible apply K.mk_pwr); rotate_left; decide)
    | (rw [Dev.mk_tag]; (with_reducible apply K.mk_sched); rotate_left; decide; (first | exact .inl rfl | exact .inr ⟨by decide, by (intro w; first | exact w | exact Memory.wf_write _ _ w | exact Memory.wf_clear _ _ w | exact Memory.wf_filter _ w | exact Memory.wf_set _ _ w)⟩); (first | exact .inl rfl | exact .inr ⟨by decide, by (intro w p hp; obtain ⟨q, hq, rfl⟩ := List.mem_map.1 hp; exact w q hq)⟩))
    | (rw [Dev.mk_tag]; (with_reducible apply K.mkT); rotate_left; (intro p hq; cases p <;> first | exact absurd hq (by decide) | rfl | exact ⟨rfl, rfl⟩ | exact fun _ => ⟨rfl, rfl⟩); exact fun w => w)

theorem Foot.daleTick {e d : Dev} {pm rm : Nat} {k0 : Nat} {cyc : Nat} (h : K e d pm rm) (hp : sub 0x200004000 pm = true)
    (hr : sub 0x200000000000000000000 rm = true) : K e (Dev.daleTick d k0 cyc) pm rm := by
  refine K.lift h hp hr ?_
  clear h hp hr
  unfold Dev.daleTick
  extract_lets x1
  clear_value (g1 : x1 = _)
  refine K.cutEq d 0x200004000 0x200000000000000000000 g1 ?_ (fun h1 => ?_)
  rotate_left
  clear g1
  all_goals repeat' first
    | with_reducible exact K.refl _ _ _
    | with_reducible assumption
    | ((with_reducible apply K.inc); rotate_left; (first | assumption | exact R.mem_JOB_USED); decide)
    | ((with_reducible apply K.setDale); rotate_left; decide; exact fun _ => ⟨rfl, rfl⟩)
    | ((with_reducible apply K.setDaleMem); rotate_left; decide; decide; (intro c w; first | exact w | exact ⟨Memory.wf_write _ _ w.1, w.2⟩ | exact ⟨w.1, Memory.wf_write _ _ w.2⟩ | (dsimp only; split <;> first | exact ⟨Memory.wf_write _ _ w.1, w.2⟩ | exact ⟨w.1, Memory.wf_write _ _ w.2⟩)))
    | with_reducible apply K.ite
    | ((with_reducible apply K.foldl); rotate_left; intro d x h; rotate_right)
    | ((with_reducible apply K.foldlFst); rotate_left; intro x y h; rotate_right)
    | ((with_reducible apply K.foldlSnd); rotate_left; intro x y h; rotate_right)
    | with_reducible apply K.fst_ite
    | with_reducible apply K.cond
    | with_reducible refine K.of_fst ?_ (by assumption)
    | with_reducible refine K.of_snd ?_ (by assumption)
    | (split)
    | dsimp only
    | (rw [Dev.mk_tag]; (with_reducible apply K.mk_sched); rotate_left; decide; (first | exact .inl rfl | exact .inr ⟨by decide, by (intro w; first | exact w | exact Memory.wf_write _ _ w | exact Memory.wf_clear _ _ w | exact Memory.wf_filter _ w | exact Memory.wf_set _ _ w)⟩); (first | exact .inl rfl | exact .inr ⟨by decide, by (intro w p hp; obtain ⟨q, hq, rfl⟩ := List.mem_map.1 hp; exact w q hq)⟩))
    | (rw [Dev.mk_tag]; (with_reducible apply K.mkT); rotate_left; (intro p hq; cases p <;> first | exact absurd hq (by decide) | rfl | exact ⟨rfl, rfl⟩ | exact fun _ => ⟨rfl, rfl⟩); exact fun w => w)

theorem Foot.jobEnded {e d : Dev} {pm rm : Nat} {k0 : Nat} (h : K e d pm rm) (hp : sub 0x30000400a pm = true)
    (hr : sub 0x80000000000000000000000000000000000000000000000012000400000000000080000 rm = true) : K e (Dev.jobEnded d k0) pm rm := by
  refine K.lift h hp hr ?_
  clear h hp hr
  unfold Dev.jobEnded
  all_goals repeat' first
    | with_reducible exact K.refl _ _ _
    | with_reducible assumption
    | ((with_reducible apply K.setDale); rotate_left; decide; exact fun _ => ⟨rfl, rfl⟩)
    | ((with_reducible apply K.setDaleMem); rotate_left; decide; decide; (intro c w; first | exact w | exact ⟨Memory.wf_write _ _ w.1, w.2⟩ | exact ⟨w.1, Memory.wf_write _ _ w.2⟩ | (dsimp only; split <;> first | exact ⟨Memory.wf_write _ _ w.1, w.2⟩ | exact ⟨w.1, Memory.wf_write _ _ w.2⟩)))
    | ((with_reducible apply Foot.dispatch); rotate_left; decide; decide)
    | ((with_reducible apply Foot.showBusy); rotate_left; decide; decide)
    | with_reducible apply K.ite
    | ((with_reducible apply K.foldl); rotate_left; intro d x h; rotate_right)
    | ((with_reducible apply K.foldlFst); rotate_left; intro x y h; rotate_right)
    | ((with_reducible apply K.foldlSnd); rotate_left; intro x y h; rotate_right)
    | with_reducible apply K.fst_ite
    | with_reducible apply K.cond
    | with_reducible refine K.of_fst ?_ (by assumption)
    | with_reducible refine K.of_snd ?_ (by assumption)
    | (split)
    | dsimp only
    | (rw [Dev.mk_tag]; (with_reducible apply K.mk_log); rotate_left; decide)
    | (rw [Dev.mk_tag]; (with_reducible apply K.mk_pwr); rotate_left; decide)
    | (rw [Dev.mk_tag]; (with_reducible apply K.mk_sched); rotate_left; decide; (first | exact .inl rfl | exact .inr ⟨by decide, by (intro w; first | exact w | exact Memory.wf_write _ _ w | exact Memory.wf_clear _ _ w | exact Memory.wf_filter _ w | exact Memory.wf_set _ _ w)⟩); (first | exact .inl rfl | exact .inr ⟨by decide, by (intro w p hp; obtain ⟨q, hq, rfl⟩ := List.mem_map.1 hp; exact w q hq)⟩))
    | (rw [Dev.mk_tag]; (with_reducible apply K.mkT); rotate_left; (intro p hq; cases p <;> first | exact absurd hq (by decide) | rfl | exact ⟨rfl, rfl⟩ | exact fun _ => ⟨rfl, rfl⟩); exact fun w => w)

theorem Foot.jobFault {e d : Dev} {pm rm : Nat} {k0 : Nat} {cause : Nat} (h : K e d pm rm) (hp : sub 0x30000400a pm = true)
    (hr : sub 0x80000000000000000000000000000000000000000000000013000400000000000080000 rm = true) : K e (Dev.jobFault d k0 cause) pm rm := by
  refine K.lift h hp hr ?_
  clear h hp hr
  unfold Dev.jobFault
  all_goals repeat' first
    | with_reducible exact K.refl _ _ _
    | with_reducible assumption
    | ((with_reducible apply K.put); rotate_left; (first | assumption | exact R.mem_DALE_STATUS | exact R.mem_JOB_FAULT_COUNT | exact R.mem_SCHED_CTRL | exact R.mem_SCHED_EVENT); decide)
    | ((with_reducible apply K.inc); rotate_left; (first | assumption | exact R.mem_DALE_STATUS | exact R.mem_JOB_FAULT_COUNT | exact R.mem_SCHED_CTRL | exact R.mem_SCHED_EVENT); decide)
    | ((with_reducible apply K.raise); rotate_left; (first | assumption | exact R.mem_DALE_STATUS | exact R.mem_JOB_FAULT_COUNT | exact R.mem_SCHED_CTRL | exact R.mem_SCHED_EVENT); decide; decide; decide)
    | ((with_reducible apply K.setDale); rotate_left; decide; exact fun _ => ⟨rfl, rfl⟩)
    | ((with_reducible apply K.setDaleMem); rotate_left; decide; decide; (intro c w; first | exact w | exact ⟨Memory.wf_write _ _ w.1, w.2⟩ | exact ⟨w.1, Memory.wf_write _ _ w.2⟩ | (dsimp only; split <;> first | exact ⟨Memory.wf_write _ _ w.1, w.2⟩ | exact ⟨w.1, Memory.wf_write _ _ w.2⟩)))
    | ((with_reducible apply Foot.jobEnded); rotate_left; decide; decide)
    | with_reducible apply K.ite
    | ((with_reducible apply K.foldl); rotate_left; intro d x h; rotate_right)
    | ((with_reducible apply K.foldlFst); rotate_left; intro x y h; rotate_right)
    | ((with_reducible apply K.foldlSnd); rotate_left; intro x y h; rotate_right)
    | with_reducible apply K.fst_ite
    | with_reducible apply K.cond
    | with_reducible refine K.of_fst ?_ (by assumption)
    | with_reducible refine K.of_snd ?_ (by assumption)
    | (split)
    | dsimp only
    | (rw [Dev.mk_tag]; (with_reducible apply K.mk_log); rotate_left; decide)
    | (rw [Dev.mk_tag]; (with_reducible apply K.mk_pwr); rotate_left; decide)
    | (rw [Dev.mk_tag]; (with_reducible apply K.mk_sched); rotate_left; decide; (first | exact .inl rfl | exact .inr ⟨by decide, by (intro w; first | exact w | exact Memory.wf_write _ _ w | exact Memory.wf_clear _ _ w | exact Memory.wf_filter _ w | exact Memory.wf_set _ _ w)⟩); (first | exact .inl rfl | exact .inr ⟨by decide, by (intro w p hp; obtain ⟨q, hq, rfl⟩ := List.mem_map.1 hp; exact w q hq)⟩))
    | (rw [Dev.mk_tag]; (with_reducible apply K.mkT); rotate_left; (intro p hq; cases p <;> first | exact absurd hq (by decide) | rfl | exact ⟨rfl, rfl⟩ | exact fun _ => ⟨rfl, rfl⟩); exact fun w => w)

theorem Foot.daleTrap {e d : Dev} {pm rm : Nat} {k0 : Nat} {exc : Nat} {tval : Word} (h : K e d pm rm) (hp : sub 0x30000400a pm = true)
    (hr : sub 0x80000000000000000000000000000000000000000000000013000400000000000080000 rm = true) : K e (Dev.daleTrap d k0 exc tval) pm rm := by
  refine K.lift h hp hr ?_
  clear h hp hr
  unfold Dev.daleTrap
  all_goals repeat' first
    | with_reducible exact K.refl _ _ _
    | with_reducible assumption
    | ((with_reducible apply K.setDale); rotate_left; decide; exact fun _ => ⟨rfl, rfl⟩)
    | ((with_reducible apply K.setDaleMem); rotate_left; decide; decide; (intro c w; first | exact w | exact ⟨Memory.wf_write _ _ w.1, w.2⟩ | exact ⟨w.1, Memory.wf_write _ _ w.2⟩ | (dsimp only; split <;> first | exact ⟨Memory.wf_write _ _ w.1, w.2⟩ | exact ⟨w.1, Memory.wf_write _ _ w.2⟩)))
    | ((with_reducible apply Foot.jobFault); rotate_left; decide; decide)
    | with_reducible apply K.ite
    | ((with_reducible apply K.foldl); rotate_left; intro d x h; rotate_right)
    | ((with_reducible apply K.foldlFst); rotate_left; intro x y h; rotate_right)
    | ((with_reducible apply K.foldlSnd); rotate_left; intro x y h; rotate_right)
    | with_reducible apply K.fst_ite
    | with_reducible apply K.cond
    | with_reducible refine K.of_fst ?_ (by assumption)
    | with_reducible refine K.of_snd ?_ (by assumption)
    | (split)
    | dsimp only
    | (rw [Dev.mk_tag]; (with_reducible apply K.mk_log); rotate_left; decide)
    | (rw [Dev.mk_tag]; (with_reducible apply K.mk_pwr); rotate_left; decide)
    | (rw [Dev.mk_tag]; (with_reducible apply K.mk_sched); rotate_left; decide; (first | exact .inl rfl | exact .inr ⟨by decide, by (intro w; first | exact w | exact Memory.wf_write _ _ w | exact Memory.wf_clear _ _ w | exact Memory.wf_filter _ w | exact Memory.wf_set _ _ w)⟩); (first | exact .inl rfl | exact .inr ⟨by decide, by (intro w p hp; obtain ⟨q, hq, rfl⟩ := List.mem_map.1 hp; exact w q hq)⟩))
    | (rw [Dev.mk_tag]; (with_reducible apply K.mkT); rotate_left; (intro p hq; cases p <;> first | exact absurd hq (by decide) | rfl | exact ⟨rfl, rfl⟩ | exact fun _ => ⟨rfl, rfl⟩); exact fun w => w)

theorem Foot.markDirty {e d : Dev} {pm rm : Nat} {n : Nat} (h : K e d pm rm) (hp : sub 0x4000 pm = true)
    (hr : sub 0x0 rm = true) : K e (Dev.markDirty d n) pm rm := by
  refine K.lift h hp hr ?_
  clear h hp hr
  unfold Dev.markDirty
  extract_lets x1
  clear_value (g1 : x1 = _)
  subst g1
  all_goals repeat' first
    | with_reducible exact K.refl _ _ _
    | with_reducible assumption
    | with_reducible apply K.ite
    | ((with_reducible apply K.foldl); rotate_left; intro d x h; rotate_right)
    | ((with_reducible apply K.foldlFst); rotate_left; intro x y h; rotate_right)
    | ((with_reducible apply K.foldlSnd); rotate_left; intro x y h; rotate_right)
    | with_reducible apply K.fst_ite
    | with_reducible apply K.cond
    | with_reducible refine K.of_fst ?_ (by assumption)
    | with_reducible refine K.of_snd ?_ (by assumption)
    | (split)
    | dsimp only
    | (rw [Dev.mk_tag]; (with_reducible apply K.mk_sched); rotate_left; decide; (first | exact .inl rfl | exact .inr ⟨by decide, by (intro w; first | exact w | exact Memory.wf_write _ _ w | exact Memory.wf_clear _ _ w | exact Memory.wf_filter _ w | exact Memory.wf_set _ _ w)⟩); (first | exact .inl rfl | exact .inr ⟨by decide, by (intro w p hp; obtain ⟨q, hq, rfl⟩ := List.mem_map.1 hp; exact w q hq)⟩))
    | (rw [Dev.mk_tag]; (with_reducible apply K.mkT); rotate_left; (intro p hq; cases p <;> first | exact absurd hq (by decide) | rfl | exact ⟨rfl, rfl⟩ | exact fun _ => ⟨rfl, rfl⟩); exact fun w => w)

theorem Foot.mergeDone {e d : Dev} {pm rm : Nat} {k : Nat} (h : K e d pm rm) (hp : sub 0x30800402a pm = true)
    (hr : sub 0x80000000000000000000000000010800000000000000000017000400000000000080000 rm = true) : K e (Dev.mergeDone d k) pm rm := by
  refine K.lift h hp hr ?_
  clear h hp hr
  unfold Dev.mergeDone
  split
  · exact K.refl _ _ _
  · rename_i j _
    split
    · exact K.refl _ _ _
    · have h2 : K d (d.glenMeet k (jobBufAt k) 256).1 0x30800402a 0x80000000000000000000000000010800000000000000000017000400000000000080000 := Foot.glenMeet (K.refl _ _ _) (by decide) (by decide)
      generalize d.glenMeet k (jobBufAt k) 256 = x at h2
      obtain ⟨d2, bad⟩ := x
      dsimp only
      split
      · exact Foot.jobFault h2 (by decide) (by decide)
      · refine Foot.jobEnded (K.inc (Foot.markDirty (K.each h2 fun x g h => ?_) (by decide) (by decide)) R.mem_JOB_DONE_COUNT (by decide) _ _) (by decide) (by decide)
        exact Foot.lsPoke h (by decide) (by decide)

theorem Foot.jobOverrun {e d : Dev} {pm rm : Nat} {k0 : Nat} (h : K e d pm rm) (hp : sub 0x30000400a pm = true)
    (hr : sub 0x80000000000000000000000000000000000000000000000013200400000000000080000 rm = true) : K e (Dev.jobOverrun d k0) pm rm := by
  refine K.lift h hp hr ?_
  clear h hp hr
  unfold Dev.jobOverrun
  all_goals repeat' first
    | with_reducible exact K.refl _ _ _
    | with_reducible assumption
    | ((with_reducible apply K.raise); rotate_left; (first | assumption | exact R.mem_SCHED_EVENT); decide; decide; decide)
    | ((with_reducible apply Foot.jobFault); rotate_left; decide; decide)
    | ((with_reducible apply Foot.daleTick); rotate_left; decide; decide)
    | with_reducible apply K.ite
    | ((with_reducible apply K.foldl); rotate_left; intro d x h; rotate_right)
    | ((with_reducible apply K.foldlFst); rotate_left; intro x y h; rotate_right)
    | ((with_reducible apply K.foldlSnd); rotate_left; intro x y h; rotate_right)
    | with_reducible apply K.fst_ite
    | with_reducible apply K.cond
    | with_reducible refine K.of_fst ?_ (by assumption)
    | with_reducible refine K.of_snd ?_ (by assumption)
    | (split)
    | dsimp only
    | (rw [Dev.mk_tag]; (with_reducible apply K.mk_log); rotate_left; decide)
    | (rw [Dev.mk_tag]; (with_reducible apply K.mk_pwr); rotate_left; decide)
    | (rw [Dev.mk_tag]; (with_reducible apply K.mk_sched); rotate_left; decide; (first | exact .inl rfl | exact .inr ⟨by decide, by (intro w; first | exact w | exact Memory.wf_write _ _ w | exact Memory.wf_clear _ _ w | exact Memory.wf_filter _ w | exact Memory.wf_set _ _ w)⟩); (first | exact .inl rfl | exact .inr ⟨by decide, by (intro w p hp; obtain ⟨q, hq, rfl⟩ := List.mem_map.1 hp; exact w q hq)⟩))
    | (rw [Dev.mk_tag]; (with_reducible apply K.mkT); rotate_left; (intro p hq; cases p <;> first | exact absurd hq (by decide) | rfl | exact ⟨rfl, rfl⟩ | exact fun _ => ⟨rfl, rfl⟩); exact fun w => w)

theorem Foot.dmaDrop {e d : Dev} {pm rm : Nat} {k0 : Nat} (h : K e d pm rm) (hp : sub 0x200004000 pm = true)
    (hr : sub 0x0 rm = true) : K e (Dev.dmaDrop d k0) pm rm := by
  refine K.lift h hp hr ?_
  clear h hp hr
  unfold Dev.dmaDrop
  all_goals repeat' first
    | with_reducible exact K.refl _ _ _
    | with_reducible assumption
    | ((with_reducible apply K.setDale); rotate_left; decide; exact fun _ => ⟨rfl, rfl⟩)
    | ((with_reducible apply K.setDaleMem); rotate_left; decide; decide; (intro c w; first | exact w | exact ⟨Memory.wf_write _ _ w.1, w.2⟩ | exact ⟨w.1, Memory.wf_write _ _ w.2⟩ | (dsimp only; split <;> first | exact ⟨Memory.wf_write _ _ w.1, w.2⟩ | exact ⟨w.1, Memory.wf_write _ _ w.2⟩)))
    | with_reducible apply K.ite
    | ((with_reducible apply K.foldl); rotate_left; intro d x h; rotate_right)
    | ((with_reducible apply K.foldlFst); rotate_left; intro x y h; rotate_right)
    | ((with_reducible apply K.foldlSnd); rotate_left; intro x y h; rotate_right)
    | with_reducible apply K.fst_ite
    | with_reducible apply K.cond
    | with_reducible refine K.of_fst ?_ (by assumption)
    | with_reducible refine K.of_snd ?_ (by assumption)
    | (split)
    | dsimp only
    | (rw [Dev.mk_tag]; (with_reducible apply K.mk_sched); rotate_left; decide; (first | exact .inl rfl | exact .inr ⟨by decide, by (intro w; first | exact w | exact Memory.wf_write _ _ w | exact Memory.wf_clear _ _ w | exact Memory.wf_filter _ w | exact Memory.wf_set _ _ w)⟩); (first | exact .inl rfl | exact .inr ⟨by decide, by (intro w p hp; obtain ⟨q, hq, rfl⟩ := List.mem_map.1 hp; exact w q hq)⟩))
    | (rw [Dev.mk_tag]; (with_reducible apply K.mkT); rotate_left; (intro p hq; cases p <;> first | exact absurd hq (by decide) | rfl | exact ⟨rfl, rfl⟩ | exact fun _ => ⟨rfl, rfl⟩); exact fun w => w)

theorem Foot.killJobs {e d : Dev} {pm rm : Nat} (h : K e d pm rm) (hp : sub 0x200004002 pm = true)
    (hr : sub 0x10800400000000000080000 rm = true) : K e (Dev.killJobs d) pm rm := by
  refine K.lift h hp hr ?_
  clear h hp hr
  unfold Dev.killJobs
  all_goals repeat' first
    | with_reducible exact K.refl _ _ _
    | with_reducible assumption
    | ((with_reducible apply K.inc); rotate_left; (first | assumption | exact R.mem_JOB_LATE_COUNT | exact R.mem_SCHED_EVENT); decide)
    | ((with_reducible apply K.raise); rotate_left; (first | assumption | exact R.mem_JOB_LATE_COUNT | exact R.mem_SCHED_EVENT); decide; decide; decide)
    | ((with_reducible apply K.setDale); rotate_left; decide; exact fun _ => ⟨rfl, rfl⟩)
    | ((with_reducible apply K.setDaleMem); rotate_left; decide; decide; (intro c w; first | exact w | exact ⟨Memory.wf_write _ _ w.1, w.2⟩ | exact ⟨w.1, Memory.wf_write _ _ w.2⟩ | (dsimp only; split <;> first | exact ⟨Memory.wf_write _ _ w.1, w.2⟩ | exact ⟨w.1, Memory.wf_write _ _ w.2⟩)))
    | ((with_reducible apply Foot.showBusy); rotate_left; decide; decide)
    | ((with_reducible apply Foot.dmaDrop); rotate_left; decide; decide)
    | with_reducible apply K.ite
    | ((with_reducible apply K.each); rotate_left; intro d x h; rotate_right)
    | ((with_reducible apply K.foldl); rotate_left; intro d x h; rotate_right)
    | ((with_reducible apply K.foldlFst); rotate_left; intro x y h; rotate_right)
    | ((with_reducible apply K.foldlSnd); rotate_left; intro x y h; rotate_right)
    | with_reducible apply K.fst_ite
    | with_reducible apply K.cond
    | with_reducible refine K.of_fst ?_ (by assumption)
    | with_reducible refine K.of_snd ?_ (by assumption)
    | (split)
    | dsimp only
    | (rw [Dev.mk_tag]; (with_reducible apply K.mk_log); rotate_left; decide)
    | (rw [Dev.mk_tag]; (with_reducible apply K.mk_sched); rotate_left; decide; (first | exact .inl rfl | exact .inr ⟨by decide, by (intro w; first | exact w | exact Memory.wf_write _ _ w | exact Memory.wf_clear _ _ w | exact Memory.wf_filter _ w | exact Memory.wf_set _ _ w)⟩); (first | exact .inl rfl | exact .inr ⟨by decide, by (intro w p hp; obtain ⟨q, hq, rfl⟩ := List.mem_map.1 hp; exact w q hq)⟩))
    | (rw [Dev.mk_tag]; (with_reducible apply K.mkT); rotate_left; (intro p hq; cases p <;> first | exact absurd hq (by decide) | rfl | exact ⟨rfl, rfl⟩ | exact fun _ => ⟨rfl, rfl⟩); exact fun w => w)

theorem Foot.newBudgets {e d : Dev} {pm rm : Nat} (h : K e d pm rm) (hp : sub 0x4000 pm = true)
    (hr : sub 0x600000000000000000000 rm = true) : K e (Dev.newBudgets d) pm rm := by
  refine K.lift h hp hr ?_
  clear h hp hr
  unfold Dev.newBudgets
  extract_lets x1 x2
  clear_value (g1 : x1 = _) (g2 : x2 = _)
  refine K.cutEq d 0x4000 0x600000000000000000000 g1 ?_ (fun h1 => ?_)
  rotate_left
  clear g1
  subst g2
  all_goals repeat' first
    | with_reducible exact K.refl _ _ _
    | with_reducible assumption
    | ((with_reducible apply K.put); rotate_left; (first | assumption | exact R.mem_JOB_LAST_USED | exact R.mem_JOB_USED); decide)
    | with_reducible apply K.ite
    | ((with_reducible apply K.each); rotate_left; intro d x h; rotate_right)
    | ((with_reducible apply K.foldl); rotate_left; intro d x h; rotate_right)
    | ((with_reducible apply K.foldlFst); rotate_left; intro x y h; rotate_right)
    | ((with_reducible apply K.foldlSnd); rotate_left; intro x y h; rotate_right)
    | with_reducible apply K.fst_ite
    | with_reducible apply K.cond
    | with_reducible refine K.of_fst ?_ (by assumption)
    | with_reducible refine K.of_snd ?_ (by assumption)
    | (split)
    | dsimp only
    | (rw [Dev.mk_tag]; (with_reducible apply K.mk_sched); rotate_left; decide; (first | exact .inl rfl | exact .inr ⟨by decide, by (intro w; first | exact w | exact Memory.wf_write _ _ w | exact Memory.wf_clear _ _ w | exact Memory.wf_filter _ w | exact Memory.wf_set _ _ w)⟩); (first | exact .inl rfl | exact .inr ⟨by decide, by (intro w p hp; obtain ⟨q, hq, rfl⟩ := List.mem_map.1 hp; exact w q hq)⟩))
    | (rw [Dev.mk_tag]; (with_reducible apply K.mkT); rotate_left; (intro p hq; cases p <;> first | exact absurd hq (by decide) | rfl | exact ⟨rfl, rfl⟩ | exact fun _ => ⟨rfl, rfl⟩); exact fun w => w)

theorem selField_map (z : Nat) : Reg.inMap (selField z).reg = true ∧ (selField z).reg = R.ZONE_SEL := by
  unfold selField
  split <;> exact ⟨R.mem_ZONE_SEL, rfl⟩

theorem Foot.stagingFlip {e d : Dev} {pm rm : Nat} (h : K e d pm rm) (hp : sub 0x4000 pm = true)
    (hr : sub 0x40000000000000000000000 rm = true) : K e (Dev.stagingFlip d) pm rm := by
  refine K.lift h hp hr ?_
  clear h hp hr
  unfold Dev.stagingFlip
  have h1 : K d (d.each d.sched.dirty fun d n =>
      d.put (selField (n / 8)) (putBit (d.get (selField (n / 8)) (n / 32)) (n % 8) (!bit (d.get (selField (n / 8)) (n / 32)) (n % 8))) (n / 32))
      0x4000 0x40000000000000000000000 := by
    refine K.each (K.refl _ _ _) fun d n h => ?_
    have hm := selField_map (n / 8)
    exact K.put h hm.1 (by rw [hm.2]; decide) _ _
  dsimp only
  rw [Dev.mk_tag]
  exact K.mk_sched h1 (by decide) (.inl rfl) (.inl rfl)

theorem Foot.mapGiven {e d : Dev} {pm rm : Nat} (h : K e d pm rm) (hp : sub 0x4000 pm = true)
    (hr : sub 0x0 rm = true) : K e (Dev.mapGiven d) pm rm := by
  refine K.lift h hp hr ?_
  clear h hp hr
  unfold Dev.mapGiven
  extract_lets x1
  clear_value (g1 : x1 = _)
  subst g1
  all_goals repeat' first
    | with_reducible exact K.refl _ _ _
    | with_reducible assumption
    | with_reducible apply K.ite
    | ((with_reducible apply K.foldl); rotate_left; intro d x h; rotate_right)
    | ((with_reducible apply K.foldlFst); rotate_left; intro x y h; rotate_right)
    | ((with_reducible apply K.foldlSnd); rotate_left; intro x y h; rotate_right)
    | with_reducible apply K.fst_ite
    | with_reducible apply K.cond
    | with_reducible refine K.of_fst ?_ (by assumption)
    | with_reducible refine K.of_snd ?_ (by assumption)
    | (split)
    | dsimp only
    | (rw [Dev.mk_tag]; (with_reducible apply K.mk_sched); rotate_left; decide; (first | exact .inl rfl | exact .inr ⟨by decide, by (intro w; first | exact w | exact Memory.wf_write _ _ w | exact Memory.wf_clear _ _ w | exact Memory.wf_filter _ w | exact Memory.wf_set _ _ w)⟩); (first | exact .inl rfl | exact .inr ⟨by decide, by (intro w p hp; obtain ⟨q, hq, rfl⟩ := List.mem_map.1 hp; exact w q hq)⟩))
    | (rw [Dev.mk_tag]; (with_reducible apply K.mkT); rotate_left; (intro p hq; cases p <;> first | exact absurd hq (by decide) | rfl | exact ⟨rfl, rfl⟩ | exact fun _ => ⟨rfl, rfl⟩); exact fun w => w)

theorem Foot.daleStates {e d : Dev} {pm rm : Nat} (h : K e d pm rm) (hp : sub 0x200004002 pm = true)
    (hr : sub 0x38000700000000000080000 rm = true) : K e (Dev.daleStates d) pm rm := by
  refine K.lift h hp hr ?_
  clear h hp hr
  unfold Dev.daleStates
  extract_lets x1 x2 x3 x4 x5 x6 x7
  clear_value (g1 : x1 = _) (g2 : x2 = _) (g3 : x3 = _) (g4 : x4 = _) (g5 : x5 = _) (g6 : x6 = _) (g7 : x7 = _)
  refine K.cutEq d 0x200004002 0x38000700000000000080000 g1 ?_ (fun h1 => ?_)
  rotate_left
  clear g1
  subst g2
  refine K.cutEq d 0x200004002 0x38000700000000000080000 g3 ?_ (fun h3 => ?_)
  rotate_left
  clear g3
  clear g4
  clear g5
  refine K.cutEq d 0x200004002 0x38000700000000000080000 g6 ?_ (fun h6 => ?_)
  rotate_left
  clear g6
  refine K.cutEq d 0x200004002 0x38000700000000000080000 g7 ?_ (fun h7 => ?_)
  rotate_left
  clear g7
  all_goals repeat' first
    | with_reducible exact K.refl _ _ _
    | with_reducible assumption
    | ((with_reducible apply K.put); rotate_left; (first | assumption | exact R.mem_DALE_CTRL | exact R.mem_DALE_STATUS | exact R.mem_SCHED_EVENT | exact R.mem_ZONE_MAP); decide)
    | ((with_reducible apply K.raise); rotate_left; (first | assumption | exact R.mem_DALE_CTRL | exact R.mem_DALE_STATUS | exact R.mem_SCHED_EVENT | exact R.mem_ZONE_MAP); decide; decide; decide)
    | ((with_reducible apply K.setDale); rotate_left; decide; exact fun _ => ⟨rfl, rfl⟩)
    | ((with_reducible apply K.setDaleMem); rotate_left; decide; decide; (intro c w; first | exact w | exact ⟨Memory.wf_write _ _ w.1, w.2⟩ | exact ⟨w.1, Memory.wf_write _ _ w.2⟩ | (dsimp only; split <;> first | exact ⟨Memory.wf_write _ _ w.1, w.2⟩ | exact ⟨w.1, Memory.wf_write _ _ w.2⟩)))
    | ((with_reducible apply Foot.showBusy); rotate_left; decide; decide)
    | ((with_reducible apply Foot.dmaDrop); rotate_left; decide; decide)
    | ((with_reducible apply Foot.mapGiven); rotate_left; decide; decide)
    | ((with_reducible apply Foot.reassign); rotate_left; decide; decide)
    | ((with_reducible apply Foot.showSched); rotate_left; decide; decide)
    | with_reducible apply K.ite
    | ((with_reducible apply K.each); rotate_left; intro d x h; rotate_right)
    | ((with_reducible apply K.foldl); rotate_left; intro d x h; rotate_right)
    | ((with_reducible apply K.foldlFst); rotate_left; intro x y h; rotate_right)
    | ((with_reducible apply K.foldlSnd); rotate_left; intro x y h; rotate_right)
    | with_reducible apply K.fst_ite
    | with_reducible apply K.cond
    | with_reducible refine K.of_fst ?_ (by assumption)
    | with_reducible refine K.of_snd ?_ (by assumption)
    | (split)
    | dsimp only
    | (rw [Dev.mk_tag]; (with_reducible apply K.mk_log); rotate_left; decide)
    | (rw [Dev.mk_tag]; (with_reducible apply K.mk_sched); rotate_left; decide; (first | exact .inl rfl | exact .inr ⟨by decide, by (intro w; first | exact w | exact Memory.wf_write _ _ w | exact Memory.wf_clear _ _ w | exact Memory.wf_filter _ w | exact Memory.wf_set _ _ w)⟩); (first | exact .inl rfl | exact .inr ⟨by decide, by (intro w p hp; obtain ⟨q, hq, rfl⟩ := List.mem_map.1 hp; exact w q hq)⟩))
    | (rw [Dev.mk_tag]; (with_reducible apply K.mkT); rotate_left; (intro p hq; cases p <;> first | exact absurd hq (by decide) | rfl | exact ⟨rfl, rfl⟩ | exact fun _ => ⟨rfl, rfl⟩); exact fun w => w)

theorem Foot.ageFaults {e d : Dev} {pm rm : Nat} (h : K e d pm rm) (hp : sub 0x200004000 pm = true)
    (hr : sub 0x10000000000000000000000 rm = true) : K e (Dev.ageFaults d) pm rm := by
  refine K.lift h hp hr ?_
  clear h hp hr
  unfold Dev.ageFaults
  all_goals repeat' first
    | with_reducible exact K.refl _ _ _
    | with_reducible assumption
    | ((with_reducible apply K.put); rotate_left; (first | assumption | exact R.mem_DALE_STATUS); decide)
    | ((with_reducible apply K.setDale); rotate_left; decide; exact fun _ => ⟨rfl, rfl⟩)
    | ((with_reducible apply K.setDaleMem); rotate_left; decide; decide; (intro c w; first | exact w | exact ⟨Memory.wf_write _ _ w.1, w.2⟩ | exact ⟨w.1, Memory.wf_write _ _ w.2⟩ | (dsimp only; split <;> first | exact ⟨Memory.wf_write _ _ w.1, w.2⟩ | exact ⟨w.1, Memory.wf_write _ _ w.2⟩)))
    | with_reducible apply K.ite
    | ((with_reducible apply K.each); rotate_left; intro d x h; rotate_right)
    | ((with_reducible apply K.foldl); rotate_left; intro d x h; rotate_right)
    | ((with_reducible apply K.foldlFst); rotate_left; intro x y h; rotate_right)
    | ((with_reducible apply K.foldlSnd); rotate_left; intro x y h; rotate_right)
    | with_reducible apply K.fst_ite
    | with_reducible apply K.cond
    | with_reducible refine K.of_fst ?_ (by assumption)
    | with_reducible refine K.of_snd ?_ (by assumption)
    | (split)
    | dsimp only
    | (rw [Dev.mk_tag]; (with_reducible apply K.mk_sched); rotate_left; decide; (first | exact .inl rfl | exact .inr ⟨by decide, by (intro w; first | exact w | exact Memory.wf_write _ _ w | exact Memory.wf_clear _ _ w | exact Memory.wf_filter _ w | exact Memory.wf_set _ _ w)⟩); (first | exact .inl rfl | exact .inr ⟨by decide, by (intro w p hp; obtain ⟨q, hq, rfl⟩ := List.mem_map.1 hp; exact w q hq)⟩))
    | (rw [Dev.mk_tag]; (with_reducible apply K.mkT); rotate_left; (intro p hq; cases p <;> first | exact absurd hq (by decide) | rfl | exact ⟨rfl, rfl⟩ | exact fun _ => ⟨rfl, rfl⟩); exact fun w => w)

theorem Foot.glensDown {e d : Dev} {pm rm : Nat} (h : K e d pm rm) (hp : sub 0x200000000 pm = true)
    (hr : sub 0x80000000000000000000000000000000000000000000000000000000000000000000000 rm = true) : K e (Dev.glensDown d) pm rm := by
  refine K.lift h hp hr ?_
  clear h hp hr
  unfold Dev.glensDown
  all_goals repeat' first
    | with_reducible exact K.refl _ _ _
    | with_reducible assumption
    | ((with_reducible apply Foot.startDown); rotate_left; decide; decide)
    | with_reducible apply K.ite
    | ((with_reducible apply K.each); rotate_left; intro d x h; rotate_right)
    | ((with_reducible apply K.foldl); rotate_left; intro d x h; rotate_right)
    | ((with_reducible apply K.foldlFst); rotate_left; intro x y h; rotate_right)
    | ((with_reducible apply K.foldlSnd); rotate_left; intro x y h; rotate_right)
    | with_reducible apply K.fst_ite
    | with_reducible apply K.cond
    | with_reducible refine K.of_fst ?_ (by assumption)
    | with_reducible refine K.of_snd ?_ (by assumption)
    | (split)
    | dsimp only
    | (rw [Dev.mk_tag]; (with_reducible apply K.mkT); rotate_left; (intro p hq; cases p <;> first | exact absurd hq (by decide) | rfl | exact ⟨rfl, rfl⟩ | exact fun _ => ⟨rfl, rfl⟩); exact fun w => w)

theorem Foot.schedLatch {e d : Dev} {pm rm : Nat} (h : K e d pm rm) (hp : sub 0x30000400a pm = true)
    (hr : sub 0x8000000000000000000000000000000000000000000000007ae00700000000000080000 rm = true) : K e (Dev.schedLatch d) pm rm := by
  refine K.lift h hp hr ?_
  clear h hp hr
  unfold Dev.schedLatch
  extract_lets x1 x2 x3 x4 x5 x6 x7
  clear_value (g1 : x1 = _) (g2 : x2 = _) (g3 : x3 = _) (g4 : x4 = _) (g5 : x5 = _) (g6 : x6 = _) (g7 : x7 = _)
  refine K.cutEq d 0x30000400a 0x8000000000000000000000000000000000000000000000007ae00700000000000080000 g1 ?_ (fun h1 => ?_)
  rotate_left
  clear g1
  subst g2
  subst g3
  refine K.cutEq d 0x30000400a 0x8000000000000000000000000000000000000000000000007ae00700000000000080000 g4 ?_ (fun h4 => ?_)
  rotate_left
  clear g4
  subst g5
  refine K.cutEq d 0x30000400a 0x8000000000000000000000000000000000000000000000007ae00700000000000080000 g6 ?_ (fun h6 => ?_)
  rotate_left
  clear g6
  refine K.cutEq d 0x30000400a 0x8000000000000000000000000000000000000000000000007ae00700000000000080000 g7 ?_ (fun h7 => ?_)
  rotate_left
  clear g7
  all_goals repeat' first
    | with_reducible exact K.refl _ _ _
    | with_reducible assumption
    | ((with_reducible apply K.setDale); rotate_left; decide; exact fun _ => ⟨rfl, rfl⟩)
    | ((with_reducible apply K.setDaleMem); rotate_left; decide; decide; (intro c w; first | exact w | exact ⟨Memory.wf_write _ _ w.1, w.2⟩ | exact ⟨w.1, Memory.wf_write _ _ w.2⟩ | (dsimp only; split <;> first | exact ⟨Memory.wf_write _ _ w.1, w.2⟩ | exact ⟨w.1, Memory.wf_write _ _ w.2⟩)))
    | ((with_reducible apply Foot.allDalesEvent); rotate_left; decide; decide)
    | ((with_reducible apply Foot.ageFaults); rotate_left; decide; decide)
    | ((with_reducible apply Foot.daleStates); rotate_left; decide; decide)
    | ((with_reducible apply Foot.stagingFlip); rotate_left; decide; decide)
    | ((with_reducible apply Foot.newBudgets); rotate_left; decide; decide)
    | ((with_reducible apply Foot.killJobs); rotate_left; decide; decide)
    | ((with_reducible apply Foot.dispatchAll); rotate_left; decide; decide)
    | ((with_reducible apply Foot.glensDown); rotate_left; decide; decide)
    | with_reducible apply K.ite
    | ((with_reducible apply K.each); rotate_left; intro d x h; rotate_right)
    | ((with_reducible apply K.foldl); rotate_left; intro d x h; rotate_right)
    | ((with_reducible apply K.foldlFst); rotate_left; intro x y h; rotate_right)
    | ((with_reducible apply K.foldlSnd); rotate_left; intro x y h; rotate_right)
    | with_reducible apply K.fst_ite
    | with_reducible apply K.cond
    | with_reducible refine K.of_fst ?_ (by assumption)
    | with_reducible refine K.of_snd ?_ (by assumption)
    | (split)
    | dsimp only
    | (rw [Dev.mk_tag]; (with_reducible apply K.mk_log); rotate_left; decide)
    | (rw [Dev.mk_tag]; (with_reducible apply K.mk_pwr); rotate_left; decide)
    | (rw [Dev.mk_tag]; (with_reducible apply K.mk_sched); rotate_left; decide; (first | exact .inl rfl | exact .inr ⟨by decide, by (intro w; first | exact w | exact Memory.wf_write _ _ w | exact Memory.wf_clear _ _ w | exact Memory.wf_filter _ w | exact Memory.wf_set _ _ w)⟩); (first | exact .inl rfl | exact .inr ⟨by decide, by (intro w p hp; obtain ⟨q, hq, rfl⟩ := List.mem_map.1 hp; exact w q hq)⟩))
    | (rw [Dev.mk_tag]; (with_reducible apply K.mkT); rotate_left; (intro p hq; cases p <;> first | exact absurd hq (by decide) | rfl | exact ⟨rfl, rfl⟩ | exact fun _ => ⟨rfl, rfl⟩); exact fun w => w)

theorem Foot.imemLoadDone {e d : Dev} {pm rm : Nat} (h : K e d pm rm) (hp : sub 0x30000400a pm = true)
    (hr : sub 0x80000000000000000000000000000000000000000000000012001500000000000080000 rm = true) : K e (Dev.imemLoadDone d) pm rm := by
  refine K.lift h hp hr ?_
  clear h hp hr
  unfold Dev.imemLoadDone
  extract_lets x1 x2 x3 x4
  clear_value (g1 : x1 = _) (g2 : x2 = _) (g3 : x3 = _) (g4 : x4 = _)
  clear g1
  refine K.cutEq d 0x30000400a 0x80000000000000000000000000000000000000000000000012001500000000000080000 g2 ?_ (fun h2 => ?_)
  rotate_left
  clear g2
  subst g3
  refine K.cutEq d 0x30000400a 0x80000000000000000000000000000000000000000000000012001500000000000080000 g4 ?_ (fun h4 => ?_)
  rotate_left
  clear g4
  all_goals repeat' first
    | with_reducible exact K.refl _ _ _
    | with_reducible assumption
    | ((with_reducible apply K.put); rotate_left; (first | assumption | exact R.mem_IMEM_LOAD | exact R.mem_SCHED_EVENT | exact R.mem_SCHED_STATUS); decide)
    | ((with_reducible apply K.raise); rotate_left; (first | assumption | exact R.mem_IMEM_LOAD | exact R.mem_SCHED_EVENT | exact R.mem_SCHED_STATUS); decide; decide; decide)
    | ((with_reducible apply Foot.glenClean); rotate_left; decide; decide)
    | ((with_reducible apply Foot.localWrite); rotate_left; decide; decide)
    | ((with_reducible apply Foot.dispatchAll); rotate_left; decide; decide)
    | with_reducible apply K.ite
    | ((with_reducible apply K.each); rotate_left; intro d x h; rotate_right)
    | ((with_reducible apply K.foldl); rotate_left; intro d x h; rotate_right)
    | ((with_reducible apply K.foldlFst); rotate_left; intro x y h; rotate_right)
    | ((with_reducible apply K.foldlSnd); rotate_left; intro x y h; rotate_right)
    | with_reducible apply K.fst_ite
    | with_reducible apply K.cond
    | with_reducible refine K.of_fst ?_ (by assumption)
    | with_reducible refine K.of_snd ?_ (by assumption)
    | (split)
    | dsimp only
    | (rw [Dev.mk_tag]; (with_reducible apply K.mk_log); rotate_left; decide)
    | (rw [Dev.mk_tag]; (with_reducible apply K.mk_pwr); rotate_left; decide)
    | (rw [Dev.mk_tag]; (with_reducible apply K.mk_sched); rotate_left; decide; (first | exact .inl rfl | exact .inr ⟨by decide, by (intro w; first | exact w | exact Memory.wf_write _ _ w | exact Memory.wf_clear _ _ w | exact Memory.wf_filter _ w | exact Memory.wf_set _ _ w)⟩); (first | exact .inl rfl | exact .inr ⟨by decide, by (intro w p hp; obtain ⟨q, hq, rfl⟩ := List.mem_map.1 hp; exact w q hq)⟩))
    | (rw [Dev.mk_tag]; (with_reducible apply K.mkT); rotate_left; (intro p hq; cases p <;> first | exact absurd hq (by decide) | rfl | exact ⟨rfl, rfl⟩ | exact fun _ => ⟨rfl, rfl⟩); exact fun w => w)

theorem Foot.daleStart {e d : Dev} {pm rm : Nat} {k0 : Nat} (h : K e d pm rm) (hp : sub 0x200004008 pm = true)
    (hr : sub 0x80000000000000000000000000000000000000000000000010000000000000000000000 rm = true) : K e (Dev.daleStart d k0) pm rm := by
  refine K.lift h hp hr ?_
  clear h hp hr
  unfold Dev.daleStart
  all_goals repeat' first
    | with_reducible exact K.refl _ _ _
    | with_reducible assumption
    | ((with_reducible apply K.setDale); rotate_left; decide; exact fun _ => ⟨rfl, rfl⟩)
    | ((with_reducible apply K.setDaleMem); rotate_left; decide; decide; (intro c w; first | exact w | exact ⟨Memory.wf_write _ _ w.1, w.2⟩ | exact ⟨w.1, Memory.wf_write _ _ w.2⟩ | (dsimp only; split <;> first | exact ⟨Memory.wf_write _ _ w.1, w.2⟩ | exact ⟨w.1, Memory.wf_write _ _ w.2⟩)))
    | ((with_reducible apply Foot.startWake); rotate_left; decide; decide)
    | ((with_reducible apply Foot.showBusy); rotate_left; decide; decide)
    | with_reducible apply K.ite
    | ((with_reducible apply K.foldl); rotate_left; intro d x h; rotate_right)
    | ((with_reducible apply K.foldlFst); rotate_left; intro x y h; rotate_right)
    | ((with_reducible apply K.foldlSnd); rotate_left; intro x y h; rotate_right)
    | with_reducible apply K.fst_ite
    | with_reducible apply K.cond
    | with_reducible refine K.of_fst ?_ (by assumption)
    | with_reducible refine K.of_snd ?_ (by assumption)
    | (split)
    | dsimp only
    | (rw [Dev.mk_tag]; (with_reducible apply K.mk_pwr); rotate_left; decide)
    | (rw [Dev.mk_tag]; (with_reducible apply K.mk_sched); rotate_left; decide; (first | exact .inl rfl | exact .inr ⟨by decide, by (intro w; first | exact w | exact Memory.wf_write _ _ w | exact Memory.wf_clear _ _ w | exact Memory.wf_filter _ w | exact Memory.wf_set _ _ w)⟩); (first | exact .inl rfl | exact .inr ⟨by decide, by (intro w p hp; obtain ⟨q, hq, rfl⟩ := List.mem_map.1 hp; exact w q hq)⟩))
    | (rw [Dev.mk_tag]; (with_reducible apply K.mkT); rotate_left; (intro p hq; cases p <;> first | exact absurd hq (by decide) | rfl | exact ⟨rfl, rfl⟩ | exact fun _ => ⟨rfl, rfl⟩); exact fun w => w)

theorem Foot.dmaStart {e d : Dev} {pm rm : Nat} {g : Nat} (h : K e d pm rm) (hp : sub 0x200004000 pm = true)
    (hr : sub 0x0 rm = true) : K e (Dev.dmaStart d g) pm rm := by
  refine K.lift h hp hr ?_
  clear h hp hr
  unfold Dev.dmaStart
  extract_lets x1
  clear_value (g1 : x1 = _)
  subst g1
  all_goals repeat' first
    | with_reducible exact K.refl _ _ _
    | with_reducible assumption
    | with_reducible apply K.ite
    | ((with_reducible apply K.foldl); rotate_left; intro d x h; rotate_right)
    | ((with_reducible apply K.foldlFst); rotate_left; intro x y h; rotate_right)
    | ((with_reducible apply K.foldlSnd); rotate_left; intro x y h; rotate_right)
    | with_reducible apply K.fst_ite
    | with_reducible apply K.cond
    | with_reducible refine K.of_fst ?_ (by assumption)
    | with_reducible refine K.of_snd ?_ (by assumption)
    | (split)
    | dsimp only
    | (rw [Dev.mk_tag]; (with_reducible apply K.mk_sched); rotate_left; decide; (first | exact .inl rfl | exact .inr ⟨by decide, by (intro w; first | exact w | exact Memory.wf_write _ _ w | exact Memory.wf_clear _ _ w | exact Memory.wf_filter _ w | exact Memory.wf_set _ _ w)⟩); (first | exact .inl rfl | exact .inr ⟨by decide, by (intro w p hp; obtain ⟨q, hq, rfl⟩ := List.mem_map.1 hp; exact w q hq)⟩))
    | (rw [Dev.mk_tag]; (with_reducible apply K.mkT); rotate_left; (intro p hq; cases p <;> first | exact absurd hq (by decide) | rfl | exact ⟨rfl, rfl⟩ | exact fun _ => ⟨rfl, rfl⟩); exact fun w => w)

theorem Foot.dmaEnd {e d : Dev} {pm rm : Nat} {k0 : Nat} {tag : Nat} {err : Nat} (h : K e d pm rm) (hp : sub 0x200004000 pm = true)
    (hr : sub 0x0 rm = true) : K e (Dev.dmaEnd d k0 tag err) pm rm := by
  refine K.lift h hp hr ?_
  clear h hp hr
  unfold Dev.dmaEnd
  extract_lets x1 x2
  clear_value (g1 : x1 = _) (g2 : x2 = _)
  subst g1
  refine K.cutEq d 0x200004000 0x0 g2 ?_ (fun h2 => ?_)
  rotate_left
  clear g2
  all_goals repeat' first
    | with_reducible exact K.refl _ _ _
    | with_reducible assumption
    | ((with_reducible apply K.setDale); rotate_left; decide; exact fun _ => ⟨rfl, rfl⟩)
    | ((with_reducible apply K.setDaleMem); rotate_left; decide; decide; (intro c w; first | exact w | exact ⟨Memory.wf_write _ _ w.1, w.2⟩ | exact ⟨w.1, Memory.wf_write _ _ w.2⟩ | (dsimp only; split <;> first | exact ⟨Memory.wf_write _ _ w.1, w.2⟩ | exact ⟨w.1, Memory.wf_write _ _ w.2⟩)))
    | ((with_reducible apply Foot.dmaStart); rotate_left; decide; decide)
    | ((with_reducible apply Foot.daleEvent); rotate_left; decide; decide)
    | with_reducible apply K.ite
    | ((with_reducible apply K.foldl); rotate_left; intro d x h; rotate_right)
    | ((with_reducible apply K.foldlFst); rotate_left; intro x y h; rotate_right)
    | ((with_reducible apply K.foldlSnd); rotate_left; intro x y h; rotate_right)
    | with_reducible apply K.fst_ite
    | with_reducible apply K.cond
    | with_reducible refine K.of_fst ?_ (by assumption)
    | with_reducible refine K.of_snd ?_ (by assumption)
    | (split)
    | dsimp only
    | (rw [Dev.mk_tag]; (with_reducible apply K.mk_sched); rotate_left; decide; (first | exact .inl rfl | exact .inr ⟨by decide, by (intro w; first | exact w | exact Memory.wf_write _ _ w | exact Memory.wf_clear _ _ w | exact Memory.wf_filter _ w | exact Memory.wf_set _ _ w)⟩); (first | exact .inl rfl | exact .inr ⟨by decide, by (intro w p hp; obtain ⟨q, hq, rfl⟩ := List.mem_map.1 hp; exact w q hq)⟩))
    | (rw [Dev.mk_tag]; (with_reducible apply K.mkT); rotate_left; (intro p hq; cases p <;> first | exact absurd hq (by decide) | rfl | exact ⟨rfl, rfl⟩ | exact fun _ => ⟨rfl, rfl⟩); exact fun w => w)

theorem Foot.dmaFetch {e d : Dev} {pm rm : Nat} {k0 : Nat} {q : DmaReq} (h : K e d pm rm) (hp : sub 0x2000040a3 pm = true)
    (hr : sub 0x800000000000000000000a368281a800000000000000000000000400000000000080000 rm = true) : K e (Dev.dmaFetch d k0 q).1 pm rm := by
  refine K.lift h hp hr ?_
  clear h hp hr
  unfold Dev.dmaFetch
  extract_lets x1 x2
  clear_value (g1 : x1 = _) (g2 : x2 = _)
  subst g1
  clear g2
  all_goals repeat' first
    | with_reducible exact K.refl _ _ _
    | with_reducible assumption
    | ((with_reducible apply Foot.glenMeet); rotate_left; decide; decide)
    | ((with_reducible apply Foot.xread); rotate_left; decide; decide)
    | ((with_reducible apply Foot.fresh); rotate_left; decide; decide)
    | with_reducible apply K.ite
    | ((with_reducible apply K.foldl); rotate_left; intro d x h; rotate_right)
    | ((with_reducible apply K.foldlFst); rotate_left; intro x y h; rotate_right)
    | ((with_reducible apply K.foldlSnd); rotate_left; intro x y h; rotate_right)
    | with_reducible apply K.fst_ite
    | with_reducible apply K.cond
    | with_reducible refine K.of_fst ?_ (by assumption)
    | with_reducible refine K.of_snd ?_ (by assumption)
    | (split)
    | dsimp only
    | (rw [Dev.mk_tag]; (with_reducible apply K.mk_free); rotate_left; decide)
    | (rw [Dev.mk_tag]; (with_reducible apply K.mk_log); rotate_left; decide)
    | (rw [Dev.mk_tag]; (with_reducible apply K.mk_ls); rotate_left; decide; (first | exact .inl rfl | exact .inl ⟨rfl, rfl⟩ | exact .inr ⟨by decide, by (intro w; first | exact w | exact Memory.wf_write _ _ w | exact Memory.wf_clear _ _ w | exact Memory.wf_filter _ w | exact Memory.wf_set _ _ w)⟩))
    | (rw [Dev.mk_tag]; (with_reducible apply K.mk_dram); rotate_left; decide; (first | exact .inl rfl | exact .inl ⟨rfl, rfl⟩ | exact .inr ⟨by decide, by (intro w; first | exact w | exact Memory.wf_write _ _ w | exact Memory.wf_clear _ _ w | exact Memory.wf_filter _ w | exact Memory.wf_set _ _ w)⟩))
    | (rw [Dev.mk_tag]; (with_reducible apply K.mk_sched); rotate_left; decide; (first | exact .inl rfl | exact .inr ⟨by decide, by (intro w; first | exact w | exact Memory.wf_write _ _ w | exact Memory.wf_clear _ _ w | exact Memory.wf_filter _ w | exact Memory.wf_set _ _ w)⟩); (first | exact .inl rfl | exact .inr ⟨by decide, by (intro w p hp; obtain ⟨q, hq, rfl⟩ := List.mem_map.1 hp; exact w q hq)⟩))
    | (rw [Dev.mk_tag]; (with_reducible apply K.mkT); rotate_left; (intro p hq; cases p <;> first | exact absurd hq (by decide) | rfl | exact ⟨rfl, rfl⟩ | exact fun _ => ⟨rfl, rfl⟩); exact fun w => w)

theorem Foot.dmaLsWrite {e d : Dev} {pm rm : Nat} {k0 : Nat} {a : Nat} {bs : List Byte} {lost : List Nat} {e0 : Nat} (h : K e d pm rm) (hp : sub 0x8000022 pm = true)
    (hr : sub 0x2a5a800000000040000400000000000000000000080000 rm = true) : K e (Dev.dmaLsWrite d k0 a bs lost e0).1 pm rm := by
  refine K.lift h hp hr ?_
  clear h hp hr
  unfold Dev.dmaLsWrite
  all_goals repeat' first
    | with_reducible exact K.refl _ _ _
    | with_reducible assumption
    | ((with_reducible apply Foot.lsLose); rotate_left; decide; decide)
    | ((with_reducible apply Foot.lsWriteWord); rotate_left; decide; decide)
    | with_reducible apply K.ite
    | ((with_reducible apply K.foldl); rotate_left; intro d x h; rotate_right)
    | ((with_reducible apply K.foldlFst); rotate_left; intro x y h; rotate_right)
    | ((with_reducible apply K.foldlSnd); rotate_left; intro x y h; rotate_right)
    | with_reducible apply K.fst_ite
    | with_reducible apply K.cond
    | with_reducible refine K.of_fst ?_ (by assumption)
    | with_reducible refine K.of_snd ?_ (by assumption)
    | (split)
    | dsimp only
    | (rw [Dev.mk_tag]; (with_reducible apply K.mk_log); rotate_left; decide)
    | (rw [Dev.mk_tag]; (with_reducible apply K.mk_ls); rotate_left; decide; (first | exact .inl rfl | exact .inl ⟨rfl, rfl⟩ | exact .inr ⟨by decide, by (intro w; first | exact w | exact Memory.wf_write _ _ w | exact Memory.wf_clear _ _ w | exact Memory.wf_filter _ w | exact Memory.wf_set _ _ w)⟩))
    | (rw [Dev.mk_tag]; (with_reducible apply K.mkT); rotate_left; (intro p hq; cases p <;> first | exact absurd hq (by decide) | rfl | exact ⟨rfl, rfl⟩ | exact fun _ => ⟨rfl, rfl⟩); exact fun w => w)

theorem Foot.dmaChunks {e d : Dev} {pm rm : Nat} {k tag er : Nat} {cs : List WChunk} (h : K e d pm rm) (hp : sub 0x210004086 pm = true)
    (hr : sub 0x800000000000000000000a3680000000000000000000000000000000003000000080000 rm = true) : K e (Dev.dmaChunks k tag cs er d) pm rm := by
  induction cs generalizing d er with
  | nil =>
    unfold Dev.dmaChunks
    exact Foot.dmaEnd h (sub_trans (by decide) hp) (sub_trans (by decide) hr)
  | cons c cs ih =>
    unfold Dev.dmaChunks
    split
    · exact K.setDale (Foot.hold h (sub_trans (by decide) hp) (sub_trans (by decide) hr)) (sub_testBit' hp (by decide)) _ _ fun _ => ⟨rfl, rfl⟩
    · have h2 : K e (d.dramWrite 7 c.addr c.bytes).1 pm rm :=
        Foot.dramWrite h (sub_trans (by decide) hp) (sub_trans (by decide) hr)
      generalize d.dramWrite 7 c.addr c.bytes = x at h2
      obtain ⟨d2, st⟩ := x
      dsimp only
      exact ih h2

theorem Foot.dmaRun {e d : Dev} {pm rm : Nat} {k0 : Nat} {q : DmaReq} {lost : List Nat} (h : K e d pm rm) (hp : sub 0x3180040a7 pm = true)
    (hr : sub 0x800000000000000000000a3682a5a800000000040000400000000400003000000080000 rm = true) : K e (Dev.dmaRun d k0 q lost) pm rm := by
  refine K.lift h hp hr ?_
  clear h hp hr
  unfold Dev.dmaRun
  all_goals repeat' first
    | with_reducible exact K.refl _ _ _
    | with_reducible assumption
    | ((with_reducible apply Foot.dmaEnd); rotate_left; decide; decide)
    | ((with_reducible apply Foot.dmaFetch); rotate_left; decide; decide)
    | ((with_reducible apply Foot.glenWrite); rotate_left; decide; decide)
    | ((with_reducible apply Foot.dmaLsWrite); rotate_left; decide; decide)
    | ((with_reducible apply Foot.dmaChunks); rotate_left; decide; decide)
    | with_reducible apply K.ite
    | ((with_reducible apply K.foldl); rotate_left; intro d x h; rotate_right)
    | ((with_reducible apply K.foldlFst); rotate_left; intro x y h; rotate_right)
    | ((with_reducible apply K.foldlSnd); rotate_left; intro x y h; rotate_right)
    | with_reducible apply K.fst_ite
    | with_reducible apply K.cond
    | with_reducible refine K.of_fst ?_ (by assumption)
    | with_reducible refine K.of_snd ?_ (by assumption)
    | (split)
    | dsimp only
    | (rw [Dev.mk_tag]; (with_reducible apply K.mk_free); rotate_left; decide)
    | (rw [Dev.mk_tag]; (with_reducible apply K.mk_log); rotate_left; decide)
    | (rw [Dev.mk_tag]; (with_reducible apply K.mk_held); rotate_left; decide)
    | (rw [Dev.mk_tag]; (with_reducible apply K.mk_ls); rotate_left; decide; (first | exact .inl rfl | exact .inl ⟨rfl, rfl⟩ | exact .inr ⟨by decide, by (intro w; first | exact w | exact Memory.wf_write _ _ w | exact Memory.wf_clear _ _ w | exact Memory.wf_filter _ w | exact Memory.wf_set _ _ w)⟩))
    | (rw [Dev.mk_tag]; (with_reducible apply K.mk_dram); rotate_left; decide; (first | exact .inl rfl | exact .inl ⟨rfl, rfl⟩ | exact .inr ⟨by decide, by (intro w; first | exact w | exact Memory.wf_write _ _ w | exact Memory.wf_clear _ _ w | exact Memory.wf_filter _ w | exact Memory.wf_set _ _ w)⟩))
    | (rw [Dev.mk_tag]; (with_reducible apply K.mk_sched); rotate_left; decide; (first | exact .inl rfl | exact .inr ⟨by decide, by (intro w; first | exact w | exact Memory.wf_write _ _ w | exact Memory.wf_clear _ _ w | exact Memory.wf_filter _ w | exact Memory.wf_set _ _ w)⟩); (first | exact .inl rfl | exact .inr ⟨by decide, by (intro w p hp; obtain ⟨q, hq, rfl⟩ := List.mem_map.1 hp; exact w q hq)⟩))
    | (rw [Dev.mk_tag]; (with_reducible apply K.mkT); rotate_left; (intro p hq; cases p <;> first | exact absurd hq (by decide) | rfl | exact ⟨rfl, rfl⟩ | exact fun _ => ⟨rfl, rfl⟩); exact fun w => w)

theorem Foot.dmaServe {e d : Dev} {pm rm : Nat} {g : Nat} {ecc : Nat} {lost : List Nat} (h : K e d pm rm) (hp : sub 0x3180040a7 pm = true)
    (hr : sub 0x800000000000000000000a3682a5a800000000040000400000000400003000000080000 rm = true) : K e (Dev.dmaServe d g ecc lost) pm rm := by
  refine K.lift h hp hr ?_
  clear h hp hr
  unfold Dev.dmaServe
  all_goals repeat' first
    | with_reducible exact K.refl _ _ _
    | with_reducible assumption
    | ((with_reducible apply Foot.dmaRun); rotate_left; decide; decide)
    | ((with_reducible apply Foot.glenUpset); rotate_left; decide; decide)
    | with_reducible apply K.ite
    | ((with_reducible apply K.foldl); rotate_left; intro d x h; rotate_right)
    | ((with_reducible apply K.foldlFst); rotate_left; intro x y h; rotate_right)
    | ((with_reducible apply K.foldlSnd); rotate_left; intro x y h; rotate_right)
    | with_reducible apply K.fst_ite
    | with_reducible apply K.cond
    | with_reducible refine K.of_fst ?_ (by assumption)
    | with_reducible refine K.of_snd ?_ (by assumption)
    | (split)
    | dsimp only
    | (rw [Dev.mk_tag]; (with_reducible apply K.mk_free); rotate_left; decide)
    | (rw [Dev.mk_tag]; (with_reducible apply K.mk_log); rotate_left; decide)
    | (rw [Dev.mk_tag]; (with_reducible apply K.mk_held); rotate_left; decide)
    | (rw [Dev.mk_tag]; (with_reducible apply K.mk_ls); rotate_left; decide; (first | exact .inl rfl | exact .inl ⟨rfl, rfl⟩ | exact .inr ⟨by decide, by (intro w; first | exact w | exact Memory.wf_write _ _ w | exact Memory.wf_clear _ _ w | exact Memory.wf_filter _ w | exact Memory.wf_set _ _ w)⟩))
    | (rw [Dev.mk_tag]; (with_reducible apply K.mk_dram); rotate_left; decide; (first | exact .inl rfl | exact .inl ⟨rfl, rfl⟩ | exact .inr ⟨by decide, by (intro w; first | exact w | exact Memory.wf_write _ _ w | exact Memory.wf_clear _ _ w | exact Memory.wf_filter _ w | exact Memory.wf_set _ _ w)⟩))
    | (rw [Dev.mk_tag]; (with_reducible apply K.mk_sched); rotate_left; decide; (first | exact .inl rfl | exact .inr ⟨by decide, by (intro w; first | exact w | exact Memory.wf_write _ _ w | exact Memory.wf_clear _ _ w | exact Memory.wf_filter _ w | exact Memory.wf_set _ _ w)⟩); (first | exact .inl rfl | exact .inr ⟨by decide, by (intro w p hp; obtain ⟨q, hq, rfl⟩ := List.mem_map.1 hp; exact w q hq)⟩))
    | (rw [Dev.mk_tag]; (with_reducible apply K.mkT); rotate_left; (intro p hq; cases p <;> first | exact absurd hq (by decide) | rfl | exact ⟨rfl, rfl⟩ | exact fun _ => ⟨rfl, rfl⟩); exact fun w => w)

end Sys2Proof.Machine
end

