-- ==== Sys2Proof/Laws/FootBacklight.lean ====
section
/-! SUPPORT.  Footprints of the functions of `Machine/Backlight.lean` (see `Keep.lean`): what each leaves alone. -/

set_option Elab.async false
set_option linter.all false

namespace Sys2Proof.Machine

theorem Foot.sinkTakes {e d : Dev} {pm rm : Nat} {s : Nat} (h : K e d pm rm) (hp : sub 0x8000 pm = true)
    (hr : sub 0x0 rm = true) : K e (Dev.sinkTakes d s) pm rm := by
  refine K.lift h hp hr ?_
  clear h hp hr
  unfold Dev.sinkTakes
  extract_lets x1 x2
  clear_value (g1 : x1 = _) (g2 : x2 = _)
  clear g1
  clear g2
  all_goals repeat' first
    | with_reducible exact K.refl _ _ _
    | with_reducible assumption
    | ((with_reducible apply K.setSink); rotate_left; decide)
    | with_reducible apply K.ite
    | ((with_reducible apply K.foldl); rotate_left; intro d x h; rotate_right)
    | ((with_reducible apply K.foldlFst); rotate_left; intro x y h; rotate_right)
    | ((with_reducible apply K.foldlSnd); rotate_left; intro x y h; rotate_right)
    | with_reducible apply K.fst_ite
    | with_reducible apply K.cond
    | with_reducible refine K.of_fst ?_ (by assumption)
    | with_reducible refine K.of_snd ?_ (by assumption)
    | (split)
    | dsimp only
    | (rw [Dev.mk_tag]; (with_reducible apply K.mk_bl); rotate_left; decide)
    | (rw [Dev.mk_tag]; (with_reducible apply K.mkT); rotate_left; (intro p hq; cases p <;> first | exact absurd hq (by decide) | rfl | exact ⟨rfl, rfl⟩ | exact fun _ => ⟨rfl, rfl⟩); exact fun w => w)

theorem Foot.lightSink {e d : Dev} {pm rm : Nat} {s : Nat} (h : K e d pm rm) (hp : sub 0x8000 pm = true)
    (hr : sub 0x4000000000000000000000000000000000000000000000000000000000000000 rm = true) : K e (Dev.lightSink d s) pm rm := by
  refine K.lift h hp hr ?_
  clear h hp hr
  unfold Dev.lightSink
  extract_lets x1 x2 x3 x4 x5 x6 x7 x8 x9 x10 x11
  clear_value (g1 : x1 = _) (g2 : x2 = _) (g3 : x3 = _) (g4 : x4 = _) (g5 : x5 = _) (g6 : x6 = _) (g7 : x7 = _) (g8 : x8 = _) (g9 : x9 = _) (g10 : x10 = _) (g11 : x11 = _)
  subst g1
  refine K.cutEq d 0x8000 0x4000000000000000000000000000000000000000000000000000000000000000 g2 ?_ (fun h2 => ?_)
  rotate_left
  clear g2
  clear g3
  clear g4
  clear g5
  refine K.cutEq d 0x8000 0x4000000000000000000000000000000000000000000000000000000000000000 g6 ?_ (fun h6 => ?_)
  rotate_left
  clear g6
  clear g7
  clear g8
  clear g9
  clear g10
  clear g11
  all_goals repeat' first
    | with_reducible exact K.refl _ _ _
    | with_reducible assumption
    | ((with_reducible apply K.put); rotate_left; (first | assumption | exact R.mem_BL_SEG | exact R.mem_BL_STATUS | exact R.mem_SINK_CFG | exact R.mem_SINK_STATUS); decide)
    | ((with_reducible apply K.setSink); rotate_left; decide)
    | ((with_reducible apply Foot.sinkTakes); rotate_left; decide; decide)
    | with_reducible apply K.ite
    | ((with_reducible apply K.foldl); rotate_left; intro d x h; rotate_right)
    | ((with_reducible apply K.foldlFst); rotate_left; intro x y h; rotate_right)
    | ((with_reducible apply K.foldlSnd); rotate_left; intro x y h; rotate_right)
    | with_reducible apply K.fst_ite
    | with_reducible apply K.cond
    | with_reducible refine K.of_fst ?_ (by assumption)
    | with_reducible refine K.of_snd ?_ (by assumption)
    | (split)
    | dsimp only
    | (rw [Dev.mk_tag]; (with_reducible apply K.mk_bl); rotate_left; decide)
    | (rw [Dev.mk_tag]; (with_reducible apply K.mkT); rotate_left; (intro p hq; cases p <;> first | exact absurd hq (by decide) | rfl | exact ⟨rfl, rfl⟩ | exact fun _ => ⟨rfl, rfl⟩); exact fun w => w)

theorem Foot.calEndAll {e d : Dev} {pm rm : Nat} (h : K e d pm rm) (hp : sub 0x10000 pm = true)
    (hr : sub 0x0 rm = true) : K e (Dev.calEndAll d) pm rm := by
  refine K.lift h hp hr ?_
  clear h hp hr
  unfold Dev.calEndAll
  extract_lets x1
  clear_value (g1 : x1 = _)
  subst g1
  all_goals repeat' first
    | with_reducible exact K.refl _ _ _
    | with_reducible assumption
    | with_reducible apply K.ite
    | ((with_reducible apply K.foldl); rotate_left; intro d x h; rotate_right)
    | ((with_reducible apply K.foldlFst); rotate_left; intro x y h; rotate_right)
    | ((with_reducible apply K.foldlSnd); rotate_left; intro x y h; rotate_right)
    | with_reducible apply K.fst_ite
    | with_reducible apply K.cond
    | with_reducible refine K.of_fst ?_ (by assumption)
    | with_reducible refine K.of_snd ?_ (by assumption)
    | (split)
    | dsimp only
    | (rw [Dev.mk_tag]; (with_reducible apply K.mk_cal); rotate_left; decide)
    | (rw [Dev.mk_tag]; (with_reducible apply K.mkT); rotate_left; (intro p hq; cases p <;> first | exact absurd hq (by decide) | rfl | exact ⟨rfl, rfl⟩ | exact fun _ => ⟨rfl, rfl⟩); exact fun w => w)

theorem Foot.calEndSink {e d : Dev} {pm rm : Nat} {s : Nat} (h : K e d pm rm) (hp : sub 0x10000 pm = true)
    (hr : sub 0x0 rm = true) : K e (Dev.calEndSink d s) pm rm := by
  refine K.lift h hp hr ?_
  clear h hp hr
  unfold Dev.calEndSink
  extract_lets x1
  clear_value (g1 : x1 = _)
  subst g1
  all_goals repeat' first
    | with_reducible exact K.refl _ _ _
    | with_reducible assumption
    | with_reducible apply K.ite
    | ((with_reducible apply K.foldl); rotate_left; intro d x h; rotate_right)
    | ((with_reducible apply K.foldlFst); rotate_left; intro x y h; rotate_right)
    | ((with_reducible apply K.foldlSnd); rotate_left; intro x y h; rotate_right)
    | with_reducible apply K.fst_ite
    | with_reducible apply K.cond
    | with_reducible refine K.of_fst ?_ (by assumption)
    | with_reducible refine K.of_snd ?_ (by assumption)
    | (split)
    | dsimp only
    | (rw [Dev.mk_tag]; (with_reducible apply K.mk_cal); rotate_left; decide)
    | (rw [Dev.mk_tag]; (with_reducible apply K.mkT); rotate_left; (intro p hq; cases p <;> first | exact absurd hq (by decide) | rfl | exact ⟨rfl, rfl⟩ | exact fun _ => ⟨rfl, rfl⟩); exact fun w => w)

theorem Foot.calEndBoost {e d : Dev} {pm rm : Nat} {b : Nat} (h : K e d pm rm) (hp : sub 0x10000 pm = true)
    (hr : sub 0x0 rm = true) : K e (Dev.calEndBoost d b) pm rm := by
  refine K.lift h hp hr ?_
  clear h hp hr
  unfold Dev.calEndBoost
  extract_lets x1
  clear_value (g1 : x1 = _)
  subst g1
  all_goals repeat' first
    | with_reducible exact K.refl _ _ _
    | with_reducible assumption
    | with_reducible apply K.ite
    | ((with_reducible apply K.foldl); rotate_left; intro d x h; rotate_right)
    | ((with_reducible apply K.foldlFst); rotate_left; intro x y h; rotate_right)
    | ((with_reducible apply K.foldlSnd); rotate_left; intro x y h; rotate_right)
    | with_reducible apply K.fst_ite
    | with_reducible apply K.cond
    | with_reducible refine K.of_fst ?_ (by assumption)
    | with_reducible refine K.of_snd ?_ (by assumption)
    | (split)
    | dsimp only
    | (rw [Dev.mk_tag]; (with_reducible apply K.mk_cal); rotate_left; decide)
    | (rw [Dev.mk_tag]; (with_reducible apply K.mkT); rotate_left; (intro p hq; cases p <;> first | exact absurd hq (by decide) | rfl | exact ⟨rfl, rfl⟩ | exact fun _ => ⟨rfl, rfl⟩); exact fun w => w)

theorem Foot.boostTarget {e d : Dev} {pm rm : Nat} {b : Nat} (h : K e d pm rm) (hp : sub 0x0 pm = true)
    (hr : sub 0x600000000000000000000000000000000000000000000000000000000000000 rm = true) : K e (Dev.boostTarget d b) pm rm := by
  refine K.lift h hp hr ?_
  clear h hp hr
  unfold Dev.boostTarget
  extract_lets x1 x2
  clear_value (g1 : x1 = _) (g2 : x2 = _)
  clear g1
  clear g2
  all_goals repeat' first
    | with_reducible exact K.refl _ _ _
    | with_reducible assumption
    | ((with_reducible apply K.put); rotate_left; (first | assumption | exact R.mem_BL_LIMIT | exact R.mem_BOOST_CFG | exact R.mem_BOOST_FAULT | exact R.mem_BOOST_STATUS | exact R.mem_ZB_MAP); decide)
    | with_reducible apply K.ite
    | ((with_reducible apply K.foldl); rotate_left; intro d x h; rotate_right)
    | ((with_reducible apply K.foldlFst); rotate_left; intro x y h; rotate_right)
    | ((with_reducible apply K.foldlSnd); rotate_left; intro x y h; rotate_right)
    | with_reducible apply K.fst_ite
    | with_reducible apply K.cond
    | with_reducible refine K.of_fst ?_ (by assumption)
    | with_reducible refine K.of_snd ?_ (by assumption)
    | (split)
    | dsimp only
    | (rw [Dev.mk_tag]; (with_reducible apply K.mkT); rotate_left; (intro p hq; cases p <;> first | exact absurd hq (by decide) | rfl | exact ⟨rfl, rfl⟩ | exact fun _ => ⟨rfl, rfl⟩); exact fun w => w)

theorem Foot.softStart {e d : Dev} {pm rm : Nat} {b : Nat} (h : K e d pm rm) (hp : sub 0x8001 pm = true)
    (hr : sub 0x200000000000000000000000000000000000000000000000000000000000000 rm = true) : K e (Dev.softStart d b) pm rm := by
  refine K.lift h hp hr ?_
  clear h hp hr
  unfold Dev.softStart
  all_goals repeat' first
    | with_reducible exact K.refl _ _ _
    | with_reducible assumption
    | ((with_reducible apply K.put); rotate_left; (first | assumption | exact R.mem_BOOST_CFG | exact R.mem_BOOST_STATUS); decide)
    | ((with_reducible apply K.setBoost); rotate_left; decide)
    | ((with_reducible apply Foot.fresh); rotate_left; decide; decide)
    | with_reducible apply K.ite
    | ((with_reducible apply K.foldl); rotate_left; intro d x h; rotate_right)
    | ((with_reducible apply K.foldlFst); rotate_left; intro x y h; rotate_right)
    | ((with_reducible apply K.foldlSnd); rotate_left; intro x y h; rotate_right)
    | with_reducible apply K.fst_ite
    | with_reducible apply K.cond
    | with_reducible refine K.of_fst ?_ (by assumption)
    | with_reducible refine K.of_snd ?_ (by assumption)
    | (split)
    | dsimp only
    | (rw [Dev.mk_tag]; (with_reducible apply K.mk_free); rotate_left; decide)
    | (rw [Dev.mk_tag]; (with_reducible apply K.mk_bl); rotate_left; decide)
    | (rw [Dev.mk_tag]; (with_reducible apply K.mkT); rotate_left; (intro p hq; cases p <;> first | exact absurd hq (by decide) | rfl | exact ⟨rfl, rfl⟩ | exact fun _ => ⟨rfl, rfl⟩); exact fun w => w)

theorem Foot.softStartDone {e d : Dev} {pm rm : Nat} {b : Nat} (h : K e d pm rm) (hp : sub 0x8000 pm = true)
    (hr : sub 0x200000000000000000000000000000000000000000000000000000000000000 rm = true) : K e (Dev.softStartDone d b) pm rm := by
  refine K.lift h hp hr ?_
  clear h hp hr
  unfold Dev.softStartDone
  all_goals repeat' first
    | with_reducible exact K.refl _ _ _
    | with_reducible assumption
    | ((with_reducible apply K.put); rotate_left; (first | assumption | exact R.mem_BOOST_CFG | exact R.mem_BOOST_STATUS); decide)
    | ((with_reducible apply K.setBoost); rotate_left; decide)
    | with_reducible apply K.ite
    | ((with_reducible apply K.foldl); rotate_left; intro d x h; rotate_right)
    | ((with_reducible apply K.foldlFst); rotate_left; intro x y h; rotate_right)
    | ((with_reducible apply K.foldlSnd); rotate_left; intro x y h; rotate_right)
    | with_reducible apply K.fst_ite
    | with_reducible apply K.cond
    | with_reducible refine K.of_fst ?_ (by assumption)
    | with_reducible refine K.of_snd ?_ (by assumption)
    | (split)
    | dsimp only
    | (rw [Dev.mk_tag]; (with_reducible apply K.mk_bl); rotate_left; decide)
    | (rw [Dev.mk_tag]; (with_reducible apply K.mkT); rotate_left; (intro p hq; cases p <;> first | exact absurd hq (by decide) | rfl | exact ⟨rfl, rfl⟩ | exact fun _ => ⟨rfl, rfl⟩); exact fun w => w)

theorem Foot.zbSend {e d : Dev} {pm rm : Nat} {l : List Sym} (h : K e d pm rm) (hp : sub 0x8000 pm = true)
    (hr : sub 0x0 rm = true) : K e (Dev.zbSend d l) pm rm := by
  refine K.lift h hp hr ?_
  clear h hp hr
  unfold Dev.zbSend
  extract_lets x1
  clear_value (g1 : x1 = _)
  subst g1
  all_goals repeat' first
    | with_reducible exact K.refl _ _ _
    | with_reducible assumption
    | with_reducible apply K.ite
    | ((with_reducible apply K.foldl); rotate_left; intro d x h; rotate_right)
    | ((with_reducible apply K.foldlFst); rotate_left; intro x y h; rotate_right)
    | ((with_reducible apply K.foldlSnd); rotate_left; intro x y h; rotate_right)
    | with_reducible apply K.fst_ite
    | with_reducible apply K.cond
    | with_reducible refine K.of_fst ?_ (by assumption)
    | with_reducible refine K.of_snd ?_ (by assumption)
    | (split)
    | dsimp only
    | (rw [Dev.mk_tag]; (with_reducible apply K.mk_bl); rotate_left; decide)
    | (rw [Dev.mk_tag]; (with_reducible apply K.mkT); rotate_left; (intro p hq; cases p <;> first | exact absurd hq (by decide) | rfl | exact ⟨rfl, rfl⟩ | exact fun _ => ⟨rfl, rfl⟩); exact fun w => w)

theorem Foot.zbMore {e d : Dev} {pm rm : Nat} {l : List Sym} (h : K e d pm rm) (hp : sub 0x8000 pm = true)
    (hr : sub 0x0 rm = true) : K e (Dev.zbMore d l) pm rm := by
  refine K.lift h hp hr ?_
  clear h hp hr
  unfold Dev.zbMore
  extract_lets x1
  clear_value (g1 : x1 = _)
  subst g1
  all_goals repeat' first
    | with_reducible exact K.refl _ _ _
    | with_reducible assumption
    | with_reducible apply K.ite
    | ((with_reducible apply K.foldl); rotate_left; intro d x h; rotate_right)
    | ((with_reducible apply K.foldlFst); rotate_left; intro x y h; rotate_right)
    | ((with_reducible apply K.foldlSnd); rotate_left; intro x y h; rotate_right)
    | with_reducible apply K.fst_ite
    | with_reducible apply K.cond
    | with_reducible refine K.of_fst ?_ (by assumption)
    | with_reducible refine K.of_snd ?_ (by assumption)
    | (split)
    | dsimp only
    | (rw [Dev.mk_tag]; (with_reducible apply K.mk_bl); rotate_left; decide)
    | (rw [Dev.mk_tag]; (with_reducible apply K.mkT); rotate_left; (intro p hq; cases p <;> first | exact absurd hq (by decide) | rfl | exact ⟨rfl, rfl⟩ | exact fun _ => ⟨rfl, rfl⟩); exact fun w => w)

theorem Foot.icOut {e d : Dev} {pm rm : Nat} {i : Nat} (h : K e d pm rm) (hp : sub 0x8000 pm = true)
    (hr : sub 0x0 rm = true) : K e (Dev.icOut d i) pm rm := by
  refine K.lift h hp hr ?_
  clear h hp hr
  unfold Dev.icOut
  extract_lets x1
  clear_value (g1 : x1 = _)
  clear g1
  all_goals repeat' first
    | with_reducible exact K.refl _ _ _
    | with_reducible assumption
    | ((with_reducible apply K.setIc); rotate_left; decide)
    | ((with_reducible apply Foot.zbMore); rotate_left; decide; decide)
    | with_reducible apply K.ite
    | ((with_reducible apply K.foldl); rotate_left; intro d x h; rotate_right)
    | ((with_reducible apply K.foldlFst); rotate_left; intro x y h; rotate_right)
    | ((with_reducible apply K.foldlSnd); rotate_left; intro x y h; rotate_right)
    | with_reducible apply K.fst_ite
    | with_reducible apply K.cond
    | with_reducible refine K.of_fst ?_ (by assumption)
    | with_reducible refine K.of_snd ?_ (by assumption)
    | (split)
    | dsimp only
    | (rw [Dev.mk_tag]; (with_reducible apply K.mk_bl); rotate_left; decide)
    | (rw [Dev.mk_tag]; (with_reducible apply K.mkT); rotate_left; (intro p hq; cases p <;> first | exact absurd hq (by decide) | rfl | exact ⟨rfl, rfl⟩ | exact fun _ => ⟨rfl, rfl⟩); exact fun w => w)

theorem Foot.icsOut {e d : Dev} {pm rm : Nat} {b : Nat} (h : K e d pm rm) (hp : sub 0x8000 pm = true)
    (hr : sub 0x0 rm = true) : K e (Dev.icsOut d b) pm rm := by
  refine K.lift h hp hr ?_
  clear h hp hr
  unfold Dev.icsOut
  all_goals repeat' first
    | with_reducible exact K.refl _ _ _
    | with_reducible assumption
    | ((with_reducible apply Foot.icOut); rotate_left; decide; decide)
    | with_reducible apply K.ite
    | ((with_reducible apply K.each); rotate_left; intro d x h; rotate_right)
    | ((with_reducible apply K.foldl); rotate_left; intro d x h; rotate_right)
    | ((with_reducible apply K.foldlFst); rotate_left; intro x y h; rotate_right)
    | ((with_reducible apply K.foldlSnd); rotate_left; intro x y h; rotate_right)
    | with_reducible apply K.fst_ite
    | with_reducible apply K.cond
    | with_reducible refine K.of_fst ?_ (by assumption)
    | with_reducible refine K.of_snd ?_ (by assumption)
    | (split)
    | dsimp only
    | (rw [Dev.mk_tag]; (with_reducible apply K.mk_bl); rotate_left; decide)
    | (rw [Dev.mk_tag]; (with_reducible apply K.mkT); rotate_left; (intro p hq; cases p <;> first | exact absurd hq (by decide) | rfl | exact ⟨rfl, rfl⟩ | exact fun _ => ⟨rfl, rfl⟩); exact fun w => w)

theorem Foot.latchBoost {e d : Dev} {pm rm : Nat} {b : Nat} (h : K e d pm rm) (hp : sub 0x18002 pm = true)
    (hr : sub 0x402000000000000000000000000000000000000000000000000000000080000 rm = true) : K e (Dev.latchBoost d b) pm rm := by
  refine K.lift h hp hr ?_
  clear h hp hr
  unfold Dev.latchBoost
  extract_lets x1 x2
  clear_value (g1 : x1 = _) (g2 : x2 = _)
  refine K.cutEq d 0x18002 0x402000000000000000000000000000000000000000000000000000000080000 g1 ?_ (fun h1 => ?_)
  rotate_left
  clear g1
  refine K.cutEq d 0x18002 0x402000000000000000000000000000000000000000000000000000000080000 g2 ?_ (fun h2 => ?_)
  rotate_left
  clear g2
  all_goals repeat' first
    | with_reducible exact K.refl _ _ _
    | with_reducible assumption
    | ((with_reducible apply K.put); rotate_left; (first | assumption | exact R.mem_BL_EVENT | exact R.mem_BOOST_FAULT | exact R.mem_SINK_CFG); decide)
    | ((with_reducible apply K.raise); rotate_left; (first | assumption | exact R.mem_BL_EVENT | exact R.mem_BOOST_FAULT | exact R.mem_SINK_CFG); decide; decide; decide)
    | ((with_reducible apply K.setSink); rotate_left; decide)
    | ((with_reducible apply K.setBoost); rotate_left; decide)
    | ((with_reducible apply Foot.calEndBoost); rotate_left; decide; decide)
    | ((with_reducible apply Foot.icsOut); rotate_left; decide; decide)
    | with_reducible apply K.ite
    | ((with_reducible apply K.each); rotate_left; intro d x h; rotate_right)
    | ((with_reducible apply K.foldl); rotate_left; intro d x h; rotate_right)
    | ((with_reducible apply K.foldlFst); rotate_left; intro x y h; rotate_right)
    | ((with_reducible apply K.foldlSnd); rotate_left; intro x y h; rotate_right)
    | with_reducible apply K.fst_ite
    | with_reducible apply K.cond
    | with_reducible refine K.of_fst ?_ (by assumption)
    | with_reducible refine K.of_snd ?_ (by assumption)
    | (split)
    | dsimp only
    | (rw [Dev.mk_tag]; (with_reducible apply K.mk_log); rotate_left; decide)
    | (rw [Dev.mk_tag]; (with_reducible apply K.mk_bl); rotate_left; decide)
    | (rw [Dev.mk_tag]; (with_reducible apply K.mk_cal); rotate_left; decide)
    | (rw [Dev.mk_tag]; (with_reducible apply K.mkT); rotate_left; (intro p hq; cases p <;> first | exact absurd hq (by decide) | rfl | exact ⟨rfl, rfl⟩ | exact fun _ => ⟨rfl, rfl⟩); exact fun w => w)

theorem Foot.boostOv {e d : Dev} {pm rm : Nat} {b : Nat} (h : K e d pm rm) (hp : sub 0x18002 pm = true)
    (hr : sub 0x402000000000000000000000000000000000000000000000000000000080000 rm = true) : K e (Dev.boostOv d b) pm rm := by
  refine K.lift h hp hr ?_
  clear h hp hr
  unfold Dev.boostOv
  extract_lets x1 x2
  clear_value (g1 : x1 = _) (g2 : x2 = _)
  refine K.cutEq d 0x18002 0x402000000000000000000000000000000000000000000000000000000080000 g1 ?_ (fun h1 => ?_)
  rotate_left
  clear g1
  refine K.cutEq d 0x18002 0x402000000000000000000000000000000000000000000000000000000080000 g2 ?_ (fun h2 => ?_)
  rotate_left
  clear g2
  all_goals repeat' first
    | with_reducible exact K.refl _ _ _
    | with_reducible assumption
    | ((with_reducible apply K.put); rotate_left; (first | assumption | exact R.mem_BL_EVENT | exact R.mem_BOOST_FAULT); decide)
    | ((with_reducible apply K.raise); rotate_left; (first | assumption | exact R.mem_BL_EVENT | exact R.mem_BOOST_FAULT); decide; decide; decide)
    | ((with_reducible apply K.setBoost); rotate_left; decide)
    | ((with_reducible apply Foot.latchBoost); rotate_left; decide; decide)
    | with_reducible apply K.ite
    | ((with_reducible apply K.foldl); rotate_left; intro d x h; rotate_right)
    | ((with_reducible apply K.foldlFst); rotate_left; intro x y h; rotate_right)
    | ((with_reducible apply K.foldlSnd); rotate_left; intro x y h; rotate_right)
    | with_reducible apply K.fst_ite
    | with_reducible apply K.cond
    | with_reducible refine K.of_fst ?_ (by assumption)
    | with_reducible refine K.of_snd ?_ (by assumption)
    | (split)
    | dsimp only
    | (rw [Dev.mk_tag]; (with_reducible apply K.mk_log); rotate_left; decide)
    | (rw [Dev.mk_tag]; (with_reducible apply K.mk_bl); rotate_left; decide)
    | (rw [Dev.mk_tag]; (with_reducible apply K.mk_cal); rotate_left; decide)
    | (rw [Dev.mk_tag]; (with_reducible apply K.mkT); rotate_left; (intro p hq; cases p <;> first | exact absurd hq (by decide) | rfl | exact ⟨rfl, rfl⟩ | exact fun _ => ⟨rfl, rfl⟩); exact fun w => w)

theorem Foot.boostOcClear {e d : Dev} {pm rm : Nat} {b : Nat} (h : K e d pm rm) (hp : sub 0x8001 pm = true)
    (hr : sub 0x600000000000000000000000000000000000000000000000000000000000000 rm = true) : K e (Dev.boostOcClear d b) pm rm := by
  refine K.lift h hp hr ?_
  clear h hp hr
  unfold Dev.boostOcClear
  extract_lets x1 x2
  clear_value (g1 : x1 = _) (g2 : x2 = _)
  clear g1
  refine K.cutEq d 0x8001 0x600000000000000000000000000000000000000000000000000000000000000 g2 ?_ (fun h2 => ?_)
  rotate_left
  clear g2
  all_goals repeat' first
    | with_reducible exact K.refl _ _ _
    | with_reducible assumption
    | ((with_reducible apply K.put); rotate_left; (first | assumption | exact R.mem_BL_CTRL | exact R.mem_BOOST_FAULT); decide)
    | ((with_reducible apply Foot.softStart); rotate_left; decide; decide)
    | ((with_reducible apply Foot.icsOut); rotate_left; decide; decide)
    | with_reducible apply K.ite
    | ((with_reducible apply K.foldl); rotate_left; intro d x h; rotate_right)
    | ((with_reducible apply K.foldlFst); rotate_left; intro x y h; rotate_right)
    | ((with_reducible apply K.foldlSnd); rotate_left; intro x y h; rotate_right)
    | with_reducible apply K.fst_ite
    | with_reducible apply K.cond
    | with_reducible refine K.of_fst ?_ (by assumption)
    | with_reducible refine K.of_snd ?_ (by assumption)
    | (split)
    | dsimp only
    | (rw [Dev.mk_tag]; (with_reducible apply K.mk_free); rotate_left; decide)
    | (rw [Dev.mk_tag]; (with_reducible apply K.mk_bl); rotate_left; decide)
    | (rw [Dev.mk_tag]; (with_reducible apply K.mkT); rotate_left; (intro p hq; cases p <;> first | exact absurd hq (by decide) | rfl | exact ⟨rfl, rfl⟩ | exact fun _ => ⟨rfl, rfl⟩); exact fun w => w)

theorem Foot.blEnable {e d : Dev} {pm rm : Nat} (h : K e d pm rm) (hp : sub 0x8001 pm = true)
    (hr : sub 0x200440000000000000000000000000000000000000000000000000000000000 rm = true) : K e (Dev.blEnable d) pm rm := by
  refine K.lift h hp hr ?_
  clear h hp hr
  unfold Dev.blEnable
  all_goals repeat' first
    | with_reducible exact K.refl _ _ _
    | with_reducible assumption
    | ((with_reducible apply K.put); rotate_left; (first | assumption | exact R.mem_BL_CTRL | exact R.mem_BL_STATUS); decide)
    | ((with_reducible apply Foot.softStart); rotate_left; decide; decide)
    | with_reducible apply K.ite
    | ((with_reducible apply K.each); rotate_left; intro d x h; rotate_right)
    | ((with_reducible apply K.foldl); rotate_left; intro d x h; rotate_right)
    | ((with_reducible apply K.foldlFst); rotate_left; intro x y h; rotate_right)
    | ((with_reducible apply K.foldlSnd); rotate_left; intro x y h; rotate_right)
    | with_reducible apply K.fst_ite
    | with_reducible apply K.cond
    | with_reducible refine K.of_fst ?_ (by assumption)
    | with_reducible refine K.of_snd ?_ (by assumption)
    | (split)
    | dsimp only
    | (rw [Dev.mk_tag]; (with_reducible apply K.mk_free); rotate_left; decide)
    | (rw [Dev.mk_tag]; (with_reducible apply K.mk_bl); rotate_left; decide)
    | (rw [Dev.mk_tag]; (with_reducible apply K.mkT); rotate_left; (intro p hq; cases p <;> first | exact absurd hq (by decide) | rfl | exact ⟨rfl, rfl⟩ | exact fun _ => ⟨rfl, rfl⟩); exact fun w => w)

theorem Foot.blShut {e d : Dev} {pm rm : Nat} {cause : Nat} (h : K e d pm rm) (hp : sub 0x18000 pm = true)
    (hr : sub 0x440000000000000000000000000000000000000000000000000000000000 rm = true) : K e (Dev.blShut d cause) pm rm := by
  refine K.lift h hp hr ?_
  clear h hp hr
  unfold Dev.blShut
  extract_lets x1 x2 x3 x4
  clear_value (g1 : x1 = _) (g2 : x2 = _) (g3 : x3 = _) (g4 : x4 = _)
  refine K.cutEq d 0x18000 0x440000000000000000000000000000000000000000000000000000000000 g1 ?_ (fun h1 => ?_)
  rotate_left
  clear g1
  subst g2
  subst g3
  subst g4
  all_goals repeat' first
    | with_reducible exact K.refl _ _ _
    | with_reducible assumption
    | ((with_reducible apply K.put); rotate_left; (first | assumption | exact R.mem_BL_CTRL | exact R.mem_BL_STATUS); decide)
    | ((with_reducible apply Foot.calEndAll); rotate_left; decide; decide)
    | with_reducible apply K.ite
    | ((with_reducible apply K.foldl); rotate_left; intro d x h; rotate_right)
    | ((with_reducible apply K.foldlFst); rotate_left; intro x y h; rotate_right)
    | ((with_reducible apply K.foldlSnd); rotate_left; intro x y h; rotate_right)
    | with_reducible apply K.fst_ite
    | with_reducible apply K.cond
    | with_reducible refine K.of_fst ?_ (by assumption)
    | with_reducible refine K.of_snd ?_ (by assumption)
    | (split)
    | dsimp only
    | (rw [Dev.mk_tag]; (with_reducible apply K.mk_bl); rotate_left; decide)
    | (rw [Dev.mk_tag]; (with_reducible apply K.mk_cal); rotate_left; decide)
    | (rw [Dev.mk_tag]; (with_reducible apply K.mkT); rotate_left; (intro p hq; cases p <;> first | exact absurd hq (by decide) | rfl | exact ⟨rfl, rfl⟩ | exact fun _ => ⟨rfl, rfl⟩); exact fun w => w)

theorem Foot.blRestart {e d : Dev} {pm rm : Nat} (h : K e d pm rm) (hp : sub 0x8001 pm = true)
    (hr : sub 0x200440000000000000000000000000000000000000000000000000000000000 rm = true) : K e (Dev.blRestart d) pm rm := by
  refine K.lift h hp hr ?_
  clear h hp hr
  unfold Dev.blRestart
  all_goals repeat' first
    | with_reducible exact K.refl _ _ _
    | with_reducible assumption
    | ((with_reducible apply Foot.blEnable); rotate_left; decide; decide)
    | with_reducible apply K.ite
    | ((with_reducible apply K.foldl); rotate_left; intro d x h; rotate_right)
    | ((with_reducible apply K.foldlFst); rotate_left; intro x y h; rotate_right)
    | ((with_reducible apply K.foldlSnd); rotate_left; intro x y h; rotate_right)
    | with_reducible apply K.fst_ite
    | with_reducible apply K.cond
    | with_reducible refine K.of_fst ?_ (by assumption)
    | with_reducible refine K.of_snd ?_ (by assumption)
    | (split)
    | dsimp only
    | (rw [Dev.mk_tag]; (with_reducible apply K.mk_free); rotate_left; decide)
    | (rw [Dev.mk_tag]; (with_reducible apply K.mk_bl); rotate_left; decide)
    | (rw [Dev.mk_tag]; (with_reducible apply K.mkT); rotate_left; (intro p hq; cases p <;> first | exact absurd hq (by decide) | rfl | exact ⟨rfl, rfl⟩ | exact fun _ => ⟨rfl, rfl⟩); exact fun w => w)

theorem Foot.dieHot {e d : Dev} {pm rm : Nat} {raw : Int} (h : K e d pm rm) (hp : sub 0x18002 pm = true)
    (hr : sub 0x2440000000000000000000000000000000000000000000000000000080000 rm = true) : K e (Dev.dieHot d raw) pm rm := by
  refine K.lift h hp hr ?_
  clear h hp hr
  unfold Dev.dieHot
  all_goals repeat' first
    | with_reducible exact K.refl _ _ _
    | with_reducible assumption
    | ((with_reducible apply K.raise); rotate_left; (first | assumption | exact R.mem_BL_CTRL | exact R.mem_BL_EVENT | exact R.mem_BL_LIMIT | exact R.mem_TS_CAL); decide; decide; decide)
    | ((with_reducible apply Foot.blShut); rotate_left; decide; decide)
    | with_reducible apply K.ite
    | ((with_reducible apply K.foldl); rotate_left; intro d x h; rotate_right)
    | ((with_reducible apply K.foldlFst); rotate_left; intro x y h; rotate_right)
    | ((with_reducible apply K.foldlSnd); rotate_left; intro x y h; rotate_right)
    | with_reducible apply K.fst_ite
    | with_reducible apply K.cond
    | with_reducible refine K.of_fst ?_ (by assumption)
    | with_reducible refine K.of_snd ?_ (by assumption)
    | (split)
    | dsimp only
    | (rw [Dev.mk_tag]; (with_reducible apply K.mk_log); rotate_left; decide)
    | (rw [Dev.mk_tag]; (with_reducible apply K.mk_bl); rotate_left; decide)
    | (rw [Dev.mk_tag]; (with_reducible apply K.mk_cal); rotate_left; decide)
    | (rw [Dev.mk_tag]; (with_reducible apply K.mkT); rotate_left; (intro p hq; cases p <;> first | exact absurd hq (by decide) | rfl | exact ⟨rfl, rfl⟩ | exact fun _ => ⟨rfl, rfl⟩); exact fun w => w)

theorem Foot.blEnWrite {e d : Dev} {pm rm : Nat} {en : Bool} (h : K e d pm rm) (hp : sub 0x18001 pm = true)
    (hr : sub 0x200440000000000000000000000000000000000000000000000000000000000 rm = true) : K e (Dev.blEnWrite d en) pm rm := by
  refine K.lift h hp hr ?_
  clear h hp hr
  unfold Dev.blEnWrite
  all_goals repeat' first
    | with_reducible exact K.refl _ _ _
    | with_reducible assumption
    | ((with_reducible apply Foot.blShut); rotate_left; decide; decide)
    | ((with_reducible apply Foot.blRestart); rotate_left; decide; decide)
    | ((with_reducible apply Foot.blEnable); rotate_left; decide; decide)
    | with_reducible apply K.ite
    | ((with_reducible apply K.foldl); rotate_left; intro d x h; rotate_right)
    | ((with_reducible apply K.foldlFst); rotate_left; intro x y h; rotate_right)
    | ((with_reducible apply K.foldlSnd); rotate_left; intro x y h; rotate_right)
    | with_reducible apply K.fst_ite
    | with_reducible apply K.cond
    | with_reducible refine K.of_fst ?_ (by assumption)
    | with_reducible refine K.of_snd ?_ (by assumption)
    | (split)
    | dsimp only
    | (rw [Dev.mk_tag]; (with_reducible apply K.mk_free); rotate_left; decide)
    | (rw [Dev.mk_tag]; (with_reducible apply K.mk_bl); rotate_left; decide)
    | (rw [Dev.mk_tag]; (with_reducible apply K.mk_cal); rotate_left; decide)
    | (rw [Dev.mk_tag]; (with_reducible apply K.mkT); rotate_left; (intro p hq; cases p <;> first | exact absurd hq (by decide) | rfl | exact ⟨rfl, rfl⟩ | exact fun _ => ⟨rfl, rfl⟩); exact fun w => w)

theorem Foot.resendIc {e d : Dev} {pm rm : Nat} {i : Nat} (h : K e d pm rm) (hp : sub 0x8000 pm = true)
    (hr : sub 0x0 rm = true) : K e (Dev.resendIc d i) pm rm := by
  refine K.lift h hp hr ?_
  clear h hp hr
  unfold Dev.resendIc
  extract_lets x1 x2
  clear_value (g1 : x1 = _) (g2 : x2 = _)
  clear g1
  subst g2
  all_goals repeat' first
    | with_reducible exact K.refl _ _ _
    | with_reducible assumption
    | with_reducible apply K.ite
    | ((with_reducible apply K.foldl); rotate_left; intro d x h; rotate_right)
    | ((with_reducible apply K.foldlFst); rotate_left; intro x y h; rotate_right)
    | ((with_reducible apply K.foldlSnd); rotate_left; intro x y h; rotate_right)
    | with_reducible apply K.fst_ite
    | with_reducible apply K.cond
    | with_reducible refine K.of_fst ?_ (by assumption)
    | with_reducible refine K.of_snd ?_ (by assumption)
    | (split)
    | dsimp only
    | (rw [Dev.mk_tag]; (with_reducible apply K.mk_bl); rotate_left; decide)
    | (rw [Dev.mk_tag]; (with_reducible apply K.mkT); rotate_left; (intro p hq; cases p <;> first | exact absurd hq (by decide) | rfl | exact ⟨rfl, rfl⟩ | exact fun _ => ⟨rfl, rfl⟩); exact fun w => w)

theorem Foot.blMerge {e d : Dev} {pm rm : Nat} {z : Nat} (h : K e d pm rm) (hp : sub 0x8000 pm = true)
    (hr : sub 0x0 rm = true) : K e (Dev.blMerge d z) pm rm := by
  refine K.lift h hp hr ?_
  clear h hp hr
  unfold Dev.blMerge
  extract_lets x1 x2 x3 x4 x5
  clear_value (g1 : x1 = _) (g2 : x2 = _) (g3 : x3 = _) (g4 : x4 = _) (g5 : x5 = _)
  subst g1
  clear g2
  clear g3
  clear g4
  clear g5
  all_goals repeat' first
    | with_reducible exact K.refl _ _ _
    | with_reducible assumption
    | with_reducible apply K.ite
    | ((with_reducible apply K.foldl); rotate_left; intro d x h; rotate_right)
    | ((with_reducible apply K.foldlFst); rotate_left; intro x y h; rotate_right)
    | ((with_reducible apply K.foldlSnd); rotate_left; intro x y h; rotate_right)
    | with_reducible apply K.fst_ite
    | with_reducible apply K.cond
    | with_reducible refine K.of_fst ?_ (by assumption)
    | with_reducible refine K.of_snd ?_ (by assumption)
    | (split)
    | dsimp only
    | (rw [Dev.mk_tag]; (with_reducible apply K.mk_bl); rotate_left; decide)
    | (rw [Dev.mk_tag]; (with_reducible apply K.mkT); rotate_left; (intro p hq; cases p <;> first | exact absurd hq (by decide) | rfl | exact ⟨rfl, rfl⟩ | exact fun _ => ⟨rfl, rfl⟩); exact fun w => w)

theorem Foot.updSend {e d : Dev} {pm rm : Nat} (h : K e d pm rm) (hp : sub 0x8000 pm = true)
    (hr : sub 0x0 rm = true) : K e (Dev.updSend d) pm rm := by
  refine K.lift h hp hr ?_
  clear h hp hr
  unfold Dev.updSend
  extract_lets x1 x2
  clear_value (g1 : x1 = _) (g2 : x2 = _)
  clear g1
  subst g2
  all_goals repeat' first
    | with_reducible exact K.refl _ _ _
    | with_reducible assumption
    | ((with_reducible apply Foot.zbSend); rotate_left; decide; decide)
    | with_reducible apply K.ite
    | ((with_reducible apply K.foldl); rotate_left; intro d x h; rotate_right)
    | ((with_reducible apply K.foldlFst); rotate_left; intro x y h; rotate_right)
    | ((with_reducible apply K.foldlSnd); rotate_left; intro x y h; rotate_right)
    | with_reducible apply K.fst_ite
    | with_reducible apply K.cond
    | with_reducible refine K.of_fst ?_ (by assumption)
    | with_reducible refine K.of_snd ?_ (by assumption)
    | (split)
    | dsimp only
    | (rw [Dev.mk_tag]; (with_reducible apply K.mk_bl); rotate_left; decide)
    | (rw [Dev.mk_tag]; (with_reducible apply K.mkT); rotate_left; (intro p hq; cases p <;> first | exact absurd hq (by decide) | rfl | exact ⟨rfl, rfl⟩ | exact fun _ => ⟨rfl, rfl⟩); exact fun w => w)

theorem Foot.updReturn {e d : Dev} {pm rm : Nat} {ack : Bool} (h : K e d pm rm) (hp : sub 0x8000 pm = true)
    (hr : sub 0x0 rm = true) : K e (Dev.updReturn d ack) pm rm := by
  refine K.lift h hp hr ?_
  clear h hp hr
  unfold Dev.updReturn
  extract_lets x1
  clear_value (g1 : x1 = _)
  subst g1
  all_goals repeat' first
    | with_reducible exact K.refl _ _ _
    | with_reducible assumption
    | with_reducible apply K.ite
    | ((with_reducible apply K.foldl); rotate_left; intro d x h; rotate_right)
    | ((with_reducible apply K.foldlFst); rotate_left; intro x y h; rotate_right)
    | ((with_reducible apply K.foldlSnd); rotate_left; intro x y h; rotate_right)
    | with_reducible apply K.fst_ite
    | with_reducible apply K.cond
    | with_reducible refine K.of_fst ?_ (by assumption)
    | with_reducible refine K.of_snd ?_ (by assumption)
    | (split)
    | dsimp only
    | (rw [Dev.mk_tag]; (with_reducible apply K.mk_bl); rotate_left; decide)
    | (rw [Dev.mk_tag]; (with_reducible apply K.mkT); rotate_left; (intro p hq; cases p <;> first | exact absurd hq (by decide) | rfl | exact ⟨rfl, rfl⟩ | exact fun _ => ⟨rfl, rfl⟩); exact fun w => w)

theorem Foot.updGiveUp {e d : Dev} {pm rm : Nat} (h : K e d pm rm) (hp : sub 0x8000 pm = true)
    (hr : sub 0x0 rm = true) : K e (Dev.updGiveUp d) pm rm := by
  refine K.lift h hp hr ?_
  clear h hp hr
  unfold Dev.updGiveUp
  extract_lets x1
  clear_value (g1 : x1 = _)
  subst g1
  all_goals repeat' first
    | with_reducible exact K.refl _ _ _
    | with_reducible assumption
    | with_reducible apply K.ite
    | ((with_reducible apply K.foldl); rotate_left; intro d x h; rotate_right)
    | ((with_reducible apply K.foldlFst); rotate_left; intro x y h; rotate_right)
    | ((with_reducible apply K.foldlSnd); rotate_left; intro x y h; rotate_right)
    | with_reducible apply K.fst_ite
    | with_reducible apply K.cond
    | with_reducible refine K.of_fst ?_ (by assumption)
    | with_reducible refine K.of_snd ?_ (by assumption)
    | (split)
    | dsimp only
    | (rw [Dev.mk_tag]; (with_reducible apply K.mk_bl); rotate_left; decide)
    | (rw [Dev.mk_tag]; (with_reducible apply K.mkT); rotate_left; (intro p hq; cases p <;> first | exact absurd hq (by decide) | rfl | exact ⟨rfl, rfl⟩ | exact fun _ => ⟨rfl, rfl⟩); exact fun w => w)

theorem Foot.updUndo {e d : Dev} {pm rm : Nat} {es : List UpdEntry} (h : K e d pm rm) (hp : sub 0x8000 pm = true)
    (hr : sub 0x0 rm = true) : K e (Dev.updUndo d es) pm rm := by
  refine K.lift h hp hr ?_
  clear h hp hr
  unfold Dev.updUndo
  extract_lets x1 x2 x3
  clear_value (g1 : x1 = _) (g2 : x2 = _) (g3 : x3 = _)
  clear g1
  clear g2
  subst g3
  all_goals repeat' first
    | with_reducible exact K.refl _ _ _
    | with_reducible assumption
    | with_reducible apply K.ite
    | ((with_reducible apply K.foldl); rotate_left; intro d x h; rotate_right)
    | ((with_reducible apply K.foldlFst); rotate_left; intro x y h; rotate_right)
    | ((with_reducible apply K.foldlSnd); rotate_left; intro x y h; rotate_right)
    | with_reducible apply K.fst_ite
    | with_reducible apply K.cond
    | with_reducible refine K.of_fst ?_ (by assumption)
    | with_reducible refine K.of_snd ?_ (by assumption)
    | (split)
    | dsimp only
    | (rw [Dev.mk_tag]; (with_reducible apply K.mk_bl); rotate_left; decide)
    | (rw [Dev.mk_tag]; (with_reducible apply K.mkT); rotate_left; (intro p hq; cases p <;> first | exact absurd hq (by decide) | rfl | exact ⟨rfl, rfl⟩ | exact fun _ => ⟨rfl, rfl⟩); exact fun w => w)

theorem Foot.blRead {e d : Dev} {pm rm : Nat} (h : K e d pm rm) (hp : sub 0x8023 pm = true)
    (hr : sub 0x281a800000000000000000000000000000000000080000 rm = true) : K e (Dev.blRead d) pm rm := by
  refine K.lift h hp hr ?_
  clear h hp hr
  unfold Dev.blRead
  all_goals repeat' first
    | with_reducible exact K.refl _ _ _
    | with_reducible assumption
    | ((with_reducible apply Foot.lsRead); rotate_left; decide; decide)
    | ((with_reducible apply Foot.fresh); rotate_left; decide; decide)
    | with_reducible apply K.ite
    | ((with_reducible apply K.foldl); rotate_left; intro d x h; rotate_right)
    | ((with_reducible apply K.foldlFst); rotate_left; intro x y h; rotate_right)
    | ((with_reducible apply K.foldlSnd); rotate_left; intro x y h; rotate_right)
    | with_reducible apply K.fst_ite
    | with_reducible apply K.cond
    | with_reducible refine K.of_fst ?_ (by assumption)
    | with_reducible refine K.of_snd ?_ (by assumption)
    | (split)
    | dsimp only
    | (rw [Dev.mk_tag]; (with_reducible apply K.mk_free); rotate_left; decide)
    | (rw [Dev.mk_tag]; (with_reducible apply K.mk_log); rotate_left; decide)
    | (rw [Dev.mk_tag]; (with_reducible apply K.mk_ls); rotate_left; decide; (first | exact .inl rfl | exact .inl ⟨rfl, rfl⟩ | exact .inr ⟨by decide, by (intro w; first | exact w | exact Memory.wf_write _ _ w | exact Memory.wf_clear _ _ w | exact Memory.wf_filter _ w | exact Memory.wf_set _ _ w)⟩))
    | (rw [Dev.mk_tag]; (with_reducible apply K.mk_bl); rotate_left; decide)
    | (rw [Dev.mk_tag]; (with_reducible apply K.mkT); rotate_left; (intro p hq; cases p <;> first | exact absurd hq (by decide) | rfl | exact ⟨rfl, rfl⟩ | exact fun _ => ⟨rfl, rfl⟩); exact fun w => w)

theorem Foot.dutyCutoff {e d : Dev} {pm rm : Nat} (h : K e d pm rm) (hp : sub 0x8023 pm = true)
    (hr : sub 0x281a800000000000000000000000000000000000080000 rm = true) : K e (Dev.dutyCutoff d) pm rm := by
  refine K.lift h hp hr ?_
  clear h hp hr
  unfold Dev.dutyCutoff
  extract_lets x1 x2 x3
  clear_value (g1 : x1 = _) (g2 : x2 = _) (g3 : x3 = _)
  clear g1
  refine K.cutEq d 0x8023 0x281a800000000000000000000000000000000000080000 g2 ?_ (fun h2 => ?_)
  rotate_left
  clear g2
  subst g3
  all_goals repeat' first
    | with_reducible exact K.refl _ _ _
    | with_reducible assumption
    | ((with_reducible apply Foot.updUndo); rotate_left; decide; decide)
    | ((with_reducible apply Foot.updGiveUp); rotate_left; decide; decide)
    | ((with_reducible apply Foot.blRead); rotate_left; decide; decide)
    | with_reducible apply K.ite
    | ((with_reducible apply K.foldl); rotate_left; intro d x h; rotate_right)
    | ((with_reducible apply K.foldlFst); rotate_left; intro x y h; rotate_right)
    | ((with_reducible apply K.foldlSnd); rotate_left; intro x y h; rotate_right)
    | with_reducible apply K.fst_ite
    | with_reducible apply K.cond
    | with_reducible refine K.of_fst ?_ (by assumption)
    | with_reducible refine K.of_snd ?_ (by assumption)
    | (split)
    | dsimp only
    | (rw [Dev.mk_tag]; (with_reducible apply K.mk_free); rotate_left; decide)
    | (rw [Dev.mk_tag]; (with_reducible apply K.mk_log); rotate_left; decide)
    | (rw [Dev.mk_tag]; (with_reducible apply K.mk_ls); rotate_left; decide; (first | exact .inl rfl | exact .inl ⟨rfl, rfl⟩ | exact .inr ⟨by decide, by (intro w; first | exact w | exact Memory.wf_write _ _ w | exact Memory.wf_clear _ _ w | exact Memory.wf_filter _ w | exact Memory.wf_set _ _ w)⟩))
    | (rw [Dev.mk_tag]; (with_reducible apply K.mk_bl); rotate_left; decide)
    | (rw [Dev.mk_tag]; (with_reducible apply K.mkT); rotate_left; (intro p hq; cases p <;> first | exact absurd hq (by decide) | rfl | exact ⟨rfl, rfl⟩ | exact fun _ => ⟨rfl, rfl⟩); exact fun w => w)

theorem Foot.blHold {e d : Dev} {pm rm : Nat} (h : K e d pm rm) (hp : sub 0x8000 pm = true)
    (hr : sub 0x0 rm = true) : K e (Dev.blHold d) pm rm := by
  refine K.lift h hp hr ?_
  clear h hp hr
  unfold Dev.blHold
  extract_lets x1 x2 x3
  clear_value (g1 : x1 = _) (g2 : x2 = _) (g3 : x3 = _)
  clear g1
  refine K.cutEq d 0x8000 0x0 g2 ?_ (fun h2 => ?_)
  rotate_left
  clear g2
  subst g3
  all_goals repeat' first
    | with_reducible exact K.refl _ _ _
    | with_reducible assumption
    | ((with_reducible apply Foot.updUndo); rotate_left; decide; decide)
    | ((with_reducible apply Foot.updGiveUp); rotate_left; decide; decide)
    | with_reducible apply K.ite
    | ((with_reducible apply K.foldl); rotate_left; intro d x h; rotate_right)
    | ((with_reducible apply K.foldlFst); rotate_left; intro x y h; rotate_right)
    | ((with_reducible apply K.foldlSnd); rotate_left; intro x y h; rotate_right)
    | with_reducible apply K.fst_ite
    | with_reducible apply K.cond
    | with_reducible refine K.of_fst ?_ (by assumption)
    | with_reducible refine K.of_snd ?_ (by assumption)
    | (split)
    | dsimp only
    | (rw [Dev.mk_tag]; (with_reducible apply K.mk_bl); rotate_left; decide)
    | (rw [Dev.mk_tag]; (with_reducible apply K.mkT); rotate_left; (intro p hq; cases p <;> first | exact absurd hq (by decide) | rfl | exact ⟨rfl, rfl⟩ | exact fun _ => ⟨rfl, rfl⟩); exact fun w => w)

theorem Foot.blLate {e d : Dev} {pm rm : Nat} (h : K e d pm rm) (hp : sub 0xc002 pm = true)
    (hr : sub 0xa000000000000000000000000000000000000000800400000000000080000 rm = true) : K e (Dev.blLate d) pm rm := by
  refine K.lift h hp hr ?_
  clear h hp hr
  unfold Dev.blLate
  extract_lets x1 x2 x3
  clear_value (g1 : x1 = _) (g2 : x2 = _) (g3 : x3 = _)
  clear g1
  refine K.cutEq d 0xc002 0xa000000000000000000000000000000000000000800400000000000080000 g2 ?_ (fun h2 => ?_)
  rotate_left
  clear g2
  subst g3
  all_goals repeat' first
    | with_reducible exact K.refl _ _ _
    | with_reducible assumption
    | ((with_reducible apply K.inc); rotate_left; (first | assumption | exact R.mem_BL_EVENT | exact R.mem_BL_LATE_COUNT | exact R.mem_JOB_LATE_COUNT | exact R.mem_SCHED_EVENT); decide)
    | ((with_reducible apply K.raise); rotate_left; (first | assumption | exact R.mem_BL_EVENT | exact R.mem_BL_LATE_COUNT | exact R.mem_JOB_LATE_COUNT | exact R.mem_SCHED_EVENT); decide; decide; decide)
    | with_reducible apply K.ite
    | ((with_reducible apply K.each); rotate_left; intro d x h; rotate_right)
    | ((with_reducible apply K.foldl); rotate_left; intro d x h; rotate_right)
    | ((with_reducible apply K.foldlFst); rotate_left; intro x y h; rotate_right)
    | ((with_reducible apply K.foldlSnd); rotate_left; intro x y h; rotate_right)
    | with_reducible apply K.fst_ite
    | with_reducible apply K.cond
    | with_reducible refine K.of_fst ?_ (by assumption)
    | with_reducible refine K.of_snd ?_ (by assumption)
    | (split)
    | dsimp only
    | (rw [Dev.mk_tag]; (with_reducible apply K.mk_log); rotate_left; decide)
    | (rw [Dev.mk_tag]; (with_reducible apply K.mk_sched); rotate_left; decide; (first | exact .inl rfl | exact .inr ⟨by decide, by (intro w; first | exact w | exact Memory.wf_write _ _ w | exact Memory.wf_clear _ _ w | exact Memory.wf_filter _ w | exact Memory.wf_set _ _ w)⟩); (first | exact .inl rfl | exact .inr ⟨by decide, by (intro w p hp; obtain ⟨q, hq, rfl⟩ := List.mem_map.1 hp; exact w q hq)⟩))
    | (rw [Dev.mk_tag]; (with_reducible apply K.mk_bl); rotate_left; decide)
    | (rw [Dev.mk_tag]; (with_reducible apply K.mkT); rotate_left; (intro p hq; cases p <;> first | exact absurd hq (by decide) | rfl | exact ⟨rfl, rfl⟩ | exact fun _ => ⟨rfl, rfl⟩); exact fun w => w)

theorem Foot.blTakeDuties {e d : Dev} {pm rm : Nat} (h : K e d pm rm) (hp : sub 0x8000 pm = true)
    (hr : sub 0x0 rm = true) : K e (Dev.blTakeDuties d) pm rm := by
  refine K.lift h hp hr ?_
  clear h hp hr
  unfold Dev.blTakeDuties
  extract_lets x1
  clear_value (g1 : x1 = _)
  subst g1
  all_goals repeat' first
    | with_reducible exact K.refl _ _ _
    | with_reducible assumption
    | with_reducible apply K.ite
    | ((with_reducible apply K.foldl); rotate_left; intro d x h; rotate_right)
    | ((with_reducible apply K.foldlFst); rotate_left; intro x y h; rotate_right)
    | ((with_reducible apply K.foldlSnd); rotate_left; intro x y h; rotate_right)
    | with_reducible apply K.fst_ite
    | with_reducible apply K.cond
    | with_reducible refine K.of_fst ?_ (by assumption)
    | with_reducible refine K.of_snd ?_ (by assumption)
    | (split)
    | dsimp only
    | (rw [Dev.mk_tag]; (with_reducible apply K.mk_bl); rotate_left; decide)
    | (rw [Dev.mk_tag]; (with_reducible apply K.mkT); rotate_left; (intro p hq; cases p <;> first | exact absurd hq (by decide) | rfl | exact ⟨rfl, rfl⟩ | exact fun _ => ⟨rfl, rfl⟩); exact fun w => w)

theorem Foot.blLatch {e d : Dev} {pm rm : Nat} {ns : Nat} (h : K e d pm rm) (hp : sub 0x8000 pm = true)
    (hr : sub 0x0 rm = true) : K e (Dev.blLatch d ns) pm rm := by
  refine K.lift h hp hr ?_
  clear h hp hr
  unfold Dev.blLatch
  extract_lets x1
  clear_value (g1 : x1 = _)
  subst g1
  all_goals repeat' first
    | with_reducible exact K.refl _ _ _
    | with_reducible assumption
    | with_reducible apply K.ite
    | ((with_reducible apply K.foldl); rotate_left; intro d x h; rotate_right)
    | ((with_reducible apply K.foldlFst); rotate_left; intro x y h; rotate_right)
    | ((with_reducible apply K.foldlSnd); rotate_left; intro x y h; rotate_right)
    | with_reducible apply K.fst_ite
    | with_reducible apply K.cond
    | with_reducible refine K.of_fst ?_ (by assumption)
    | with_reducible refine K.of_snd ?_ (by assumption)
    | (split)
    | dsimp only
    | (rw [Dev.mk_tag]; (with_reducible apply K.mk_bl); rotate_left; decide)
    | (rw [Dev.mk_tag]; (with_reducible apply K.mkT); rotate_left; (intro p hq; cases p <;> first | exact absurd hq (by decide) | rfl | exact ⟨rfl, rfl⟩ | exact fun _ => ⟨rfl, rfl⟩); exact fun w => w)

theorem Foot.blReserve {e d : Dev} {pm rm : Nat} {ns : Nat} (h : K e d pm rm) (hp : sub 0x8000 pm = true)
    (hr : sub 0x0 rm = true) : K e (Dev.blReserve d ns) pm rm := by
  refine K.lift h hp hr ?_
  clear h hp hr
  unfold Dev.blReserve
  extract_lets x1 x2
  clear_value (g1 : x1 = _) (g2 : x2 = _)
  refine K.cutEq d 0x8000 0x0 g1 ?_ (fun h1 => ?_)
  rotate_left
  clear g1
  subst g2
  all_goals repeat' first
    | with_reducible exact K.refl _ _ _
    | with_reducible assumption
    | ((with_reducible apply Foot.blLatch); rotate_left; decide; decide)
    | with_reducible apply K.ite
    | ((with_reducible apply K.foldl); rotate_left; intro d x h; rotate_right)
    | ((with_reducible apply K.foldlFst); rotate_left; intro x y h; rotate_right)
    | ((with_reducible apply K.foldlSnd); rotate_left; intro x y h; rotate_right)
    | with_reducible apply K.fst_ite
    | with_reducible apply K.cond
    | with_reducible refine K.of_fst ?_ (by assumption)
    | with_reducible refine K.of_snd ?_ (by assumption)
    | (split)
    | dsimp only
    | (rw [Dev.mk_tag]; (with_reducible apply K.mk_bl); rotate_left; decide)
    | (rw [Dev.mk_tag]; (with_reducible apply K.mkT); rotate_left; (intro p hq; cases p <;> first | exact absurd hq (by decide) | rfl | exact ⟨rfl, rfl⟩ | exact fun _ => ⟨rfl, rfl⟩); exact fun w => w)

theorem Foot.fsSend {e d : Dev} {pm rm : Nat} {index : Nat} (h : K e d pm rm) (hp : sub 0x8000 pm = true)
    (hr : sub 0x0 rm = true) : K e (Dev.fsSend d index) pm rm := by
  refine K.lift h hp hr ?_
  clear h hp hr
  unfold Dev.fsSend
  extract_lets x1 x2 x3 x4 x5 x6
  clear_value (g1 : x1 = _) (g2 : x2 = _) (g3 : x3 = _) (g4 : x4 = _) (g5 : x5 = _) (g6 : x6 = _)
  subst g1
  refine K.cutEq d 0x8000 0x0 g2 ?_ (fun h2 => ?_)
  rotate_left
  clear g2
  clear g3
  clear g4
  subst g5
  refine K.cutEq d 0x8000 0x0 g6 ?_ (fun h6 => ?_)
  rotate_left
  clear g6
  all_goals repeat' first
    | with_reducible exact K.refl _ _ _
    | with_reducible assumption
    | ((with_reducible apply K.setIc); rotate_left; decide)
    | ((with_reducible apply Foot.zbSend); rotate_left; decide; decide)
    | with_reducible apply K.ite
    | ((with_reducible apply K.each); rotate_left; intro d x h; rotate_right)
    | ((with_reducible apply K.foldl); rotate_left; intro d x h; rotate_right)
    | ((with_reducible apply K.foldlFst); rotate_left; intro x y h; rotate_right)
    | ((with_reducible apply K.foldlSnd); rotate_left; intro x y h; rotate_right)
    | with_reducible apply K.fst_ite
    | with_reducible apply K.cond
    | with_reducible refine K.of_fst ?_ (by assumption)
    | with_reducible refine K.of_snd ?_ (by assumption)
    | (split)
    | dsimp only
    | (rw [Dev.mk_tag]; (with_reducible apply K.mk_bl); rotate_left; decide)
    | (rw [Dev.mk_tag]; (with_reducible apply K.mkT); rotate_left; (intro p hq; cases p <;> first | exact absurd hq (by decide) | rfl | exact ⟨rfl, rfl⟩ | exact fun _ => ⟨rfl, rfl⟩); exact fun w => w)

theorem Foot.statSend {e d : Dev} {pm rm : Nat} (h : K e d pm rm) (hp : sub 0x8000 pm = true)
    (hr : sub 0x0 rm = true) : K e (Dev.statSend d) pm rm := by
  refine K.lift h hp hr ?_
  clear h hp hr
  unfold Dev.statSend
  extract_lets x1
  clear_value (g1 : x1 = _)
  subst g1
  all_goals repeat' first
    | with_reducible exact K.refl _ _ _
    | with_reducible assumption
    | ((with_reducible apply Foot.zbSend); rotate_left; decide; decide)
    | with_reducible apply K.ite
    | ((with_reducible apply K.foldl); rotate_left; intro d x h; rotate_right)
    | ((with_reducible apply K.foldlFst); rotate_left; intro x y h; rotate_right)
    | ((with_reducible apply K.foldlSnd); rotate_left; intro x y h; rotate_right)
    | with_reducible apply K.fst_ite
    | with_reducible apply K.cond
    | with_reducible refine K.of_fst ?_ (by assumption)
    | with_reducible refine K.of_snd ?_ (by assumption)
    | (split)
    | dsimp only
    | (rw [Dev.mk_tag]; (with_reducible apply K.mk_bl); rotate_left; decide)
    | (rw [Dev.mk_tag]; (with_reducible apply K.mkT); rotate_left; (intro p hq; cases p <;> first | exact absurd hq (by decide) | rfl | exact ⟨rfl, rfl⟩ | exact fun _ => ⟨rfl, rfl⟩); exact fun w => w)

theorem Foot.icFault {e d : Dev} {pm rm : Nat} {i : Nat} (h : K e d pm rm) (hp : sub 0x8002 pm = true)
    (hr : sub 0x2000000000000000000000000000000000000000000000000000000080000 rm = true) : K e (Dev.icFault d i) pm rm := by
  refine K.lift h hp hr ?_
  clear h hp hr
  unfold Dev.icFault
  all_goals repeat' first
    | with_reducible exact K.refl _ _ _
    | with_reducible assumption
    | ((with_reducible apply K.raise); rotate_left; (first | assumption | exact R.mem_BL_EVENT); decide; decide; decide)
    | ((with_reducible apply Foot.zbMore); rotate_left; decide; decide)
    | with_reducible apply K.ite
    | ((with_reducible apply K.foldl); rotate_left; intro d x h; rotate_right)
    | ((with_reducible apply K.foldlFst); rotate_left; intro x y h; rotate_right)
    | ((with_reducible apply K.foldlSnd); rotate_left; intro x y h; rotate_right)
    | with_reducible apply K.fst_ite
    | with_reducible apply K.cond
    | with_reducible refine K.of_fst ?_ (by assumption)
    | with_reducible refine K.of_snd ?_ (by assumption)
    | (split)
    | dsimp only
    | (rw [Dev.mk_tag]; (with_reducible apply K.mk_log); rotate_left; decide)
    | (rw [Dev.mk_tag]; (with_reducible apply K.mk_bl); rotate_left; decide)
    | (rw [Dev.mk_tag]; (with_reducible apply K.mkT); rotate_left; (intro p hq; cases p <;> first | exact absurd hq (by decide) | rfl | exact ⟨rfl, rfl⟩ | exact fun _ => ⟨rfl, rfl⟩); exact fun w => w)

theorem Foot.takeSlot {e d : Dev} {pm rm : Nat} {i : Nat} {s : List Byte} (h : K e d pm rm) (hp : sub 0x8002 pm = true)
    (hr : sub 0x1002000000000000000000000000000000000000000000000000000000080000 rm = true) : K e (Dev.takeSlot d i s) pm rm := by
  refine K.lift h hp hr ?_
  clear h hp hr
  unfold Dev.takeSlot
  extract_lets x1 x2 x3 x4 x5 x6 x7 x8
  skip
  refine K.cut d 0x8002 0x1002000000000000000000000000000000000000000000000000000000080000 x4 ?_ (fun h4 => ?_)
  unfold x4
  rotate_left
  refine K.cut d 0x8002 0x1002000000000000000000000000000000000000000000000000000000080000 x5 ?_ (fun h5 => ?_)
  unfold x5
  rotate_left
  refine K.cut d 0x8002 0x1002000000000000000000000000000000000000000000000000000000080000 x7 ?_ (fun h7 => ?_)
  unfold x7
  rotate_left
  refine K.cut d 0x8002 0x1002000000000000000000000000000000000000000000000000000000080000 x8 ?_ (fun h8 => ?_)
  unfold x8
  rotate_left
  all_goals repeat' first
    | with_reducible exact K.refl _ _ _
    | with_reducible assumption
    | ((with_reducible apply K.put); rotate_left; (first | assumption | exact R.mem_BL_EVENT | exact R.mem_BL_STATUS | exact R.mem_ZB_IC_STATUS); decide)
    | ((with_reducible apply K.raise); rotate_left; (first | assumption | exact R.mem_BL_EVENT | exact R.mem_BL_STATUS | exact R.mem_ZB_IC_STATUS); decide; decide; decide)
    | ((with_reducible apply K.setIc); rotate_left; decide)
    | ((with_reducible apply Foot.icFault); rotate_left; decide; decide)
    | ((with_reducible apply Foot.resendIc); rotate_left; decide; decide)
    | with_reducible apply K.ite
    | ((with_reducible apply K.foldl); rotate_left; intro d x h; rotate_right)
    | ((with_reducible apply K.foldlFst); rotate_left; intro x y h; rotate_right)
    | ((with_reducible apply K.foldlSnd); rotate_left; intro x y h; rotate_right)
    | with_reducible apply K.fst_ite
    | with_reducible apply K.cond
    | with_reducible refine K.of_fst ?_ (by assumption)
    | with_reducible refine K.of_snd ?_ (by assumption)
    | (split)
    | dsimp only
    | (rw [Dev.mk_tag]; (with_reducible apply K.mk_log); rotate_left; decide)
    | (rw [Dev.mk_tag]; (with_reducible apply K.mk_bl); rotate_left; decide)
    | (rw [Dev.mk_tag]; (with_reducible apply K.mkT); rotate_left; (intro p hq; cases p <;> first | exact absurd hq (by decide) | rfl | exact ⟨rfl, rfl⟩ | exact fun _ => ⟨rfl, rfl⟩); exact fun w => w)

theorem Foot.statReturn {e d : Dev} {pm rm : Nat} {slots : List (List Byte)} (h : K e d pm rm) (hp : sub 0x8002 pm = true)
    (hr : sub 0x1002000000000000000000000000000000000000000000000000000000080000 rm = true) : K e (Dev.statReturn d slots) pm rm := by
  refine K.lift h hp hr ?_
  clear h hp hr
  unfold Dev.statReturn
  extract_lets x1 x2
  clear_value (g1 : x1 = _) (g2 : x2 = _)
  refine K.cutEq d 0x8002 0x1002000000000000000000000000000000000000000000000000000000080000 g1 ?_ (fun h1 => ?_)
  rotate_left
  clear g1
  subst g2
  all_goals repeat' first
    | with_reducible exact K.refl _ _ _
    | with_reducible assumption
    | ((with_reducible apply Foot.takeSlot); rotate_left; decide; decide)
    | with_reducible apply K.ite
    | ((with_reducible apply K.each); rotate_left; intro d x h; rotate_right)
    | ((with_reducible apply K.foldl); rotate_left; intro d x h; rotate_right)
    | ((with_reducible apply K.foldlFst); rotate_left; intro x y h; rotate_right)
    | ((with_reducible apply K.foldlSnd); rotate_left; intro x y h; rotate_right)
    | with_reducible apply K.fst_ite
    | with_reducible apply K.cond
    | with_reducible refine K.of_fst ?_ (by assumption)
    | with_reducible refine K.of_snd ?_ (by assumption)
    | (split)
    | dsimp only
    | (rw [Dev.mk_tag]; (with_reducible apply K.mk_log); rotate_left; decide)
    | (rw [Dev.mk_tag]; (with_reducible apply K.mk_bl); rotate_left; decide)
    | (rw [Dev.mk_tag]; (with_reducible apply K.mkT); rotate_left; (intro p hq; cases p <;> first | exact absurd hq (by decide) | rfl | exact ⟨rfl, rfl⟩ | exact fun _ => ⟨rfl, rfl⟩); exact fun w => w)

theorem Foot.ringDown {e d : Dev} {pm rm : Nat} (h : K e d pm rm) (hp : sub 0x8002 pm = true)
    (hr : sub 0x42000000000000000000000000000000000000000000000000000000080000 rm = true) : K e (Dev.ringDown d) pm rm := by
  refine K.lift h hp hr ?_
  clear h hp hr
  unfold Dev.ringDown
  extract_lets x1 x2
  clear_value (g1 : x1 = _) (g2 : x2 = _)
  refine K.cutEq d 0x8002 0x42000000000000000000000000000000000000000000000000000000080000 g1 ?_ (fun h1 => ?_)
  rotate_left
  clear g1
  subst g2
  all_goals repeat' first
    | with_reducible exact K.refl _ _ _
    | with_reducible assumption
    | ((with_reducible apply K.put); rotate_left; (first | assumption | exact R.mem_BL_EVENT | exact R.mem_ZB_STATUS); decide)
    | ((with_reducible apply K.raise); rotate_left; (first | assumption | exact R.mem_BL_EVENT | exact R.mem_ZB_STATUS); decide; decide; decide)
    | ((with_reducible apply Foot.updGiveUp); rotate_left; decide; decide)
    | with_reducible apply K.ite
    | ((with_reducible apply K.foldl); rotate_left; intro d x h; rotate_right)
    | ((with_reducible apply K.foldlFst); rotate_left; intro x y h; rotate_right)
    | ((with_reducible apply K.foldlSnd); rotate_left; intro x y h; rotate_right)
    | with_reducible apply K.fst_ite
    | with_reducible apply K.cond
    | with_reducible refine K.of_fst ?_ (by assumption)
    | with_reducible refine K.of_snd ?_ (by assumption)
    | (split)
    | dsimp only
    | (rw [Dev.mk_tag]; (with_reducible apply K.mk_log); rotate_left; decide)
    | (rw [Dev.mk_tag]; (with_reducible apply K.mk_bl); rotate_left; decide)
    | (rw [Dev.mk_tag]; (with_reducible apply K.mkT); rotate_left; (intro p hq; cases p <;> first | exact absurd hq (by decide) | rfl | exact ⟨rfl, rfl⟩ | exact fun _ => ⟨rfl, rfl⟩); exact fun w => w)

theorem Foot.enumStart {e d : Dev} {pm rm : Nat} (h : K e d pm rm) (hp : sub 0x8000 pm = true)
    (hr : sub 0x20000000000000000000000000000000000000000000000000000000000000 rm = true) : K e (Dev.enumStart d) pm rm := by
  refine K.lift h hp hr ?_
  clear h hp hr
  unfold Dev.enumStart
  extract_lets x1 x2
  clear_value (g1 : x1 = _) (g2 : x2 = _)
  refine K.cutEq d 0x8000 0x20000000000000000000000000000000000000000000000000000000000000 g1 ?_ (fun h1 => ?_)
  rotate_left
  clear g1
  subst g2
  all_goals repeat' first
    | with_reducible exact K.refl _ _ _
    | with_reducible assumption
    | ((with_reducible apply K.put); rotate_left; (first | assumption | exact R.mem_ZB_CTRL); decide)
    | ((with_reducible apply Foot.zbSend); rotate_left; decide; decide)
    | with_reducible apply K.ite
    | ((with_reducible apply K.foldl); rotate_left; intro d x h; rotate_right)
    | ((with_reducible apply K.foldlFst); rotate_left; intro x y h; rotate_right)
    | ((with_reducible apply K.foldlSnd); rotate_left; intro x y h; rotate_right)
    | with_reducible apply K.fst_ite
    | with_reducible apply K.cond
    | with_reducible refine K.of_fst ?_ (by assumption)
    | with_reducible refine K.of_snd ?_ (by assumption)
    | (split)
    | dsimp only
    | (rw [Dev.mk_tag]; (with_reducible apply K.mk_bl); rotate_left; decide)
    | (rw [Dev.mk_tag]; (with_reducible apply K.mkT); rotate_left; (intro p hq; cases p <;> first | exact absurd hq (by decide) | rfl | exact ⟨rfl, rfl⟩ | exact fun _ => ⟨rfl, rfl⟩); exact fun w => w)

theorem Foot.replug {e d : Dev} {pm rm : Nat} (h : K e d pm rm) (hp : sub 0x8002 pm = true)
    (hr : sub 0x62000000000000000000000000000000000000000000000000000000080000 rm = true) : K e (Dev.replug d) pm rm := by
  refine K.lift h hp hr ?_
  clear h hp hr
  unfold Dev.replug
  extract_lets x1 x2
  clear_value (g1 : x1 = _) (g2 : x2 = _)
  refine K.cutEq d 0x8002 0x62000000000000000000000000000000000000000000000000000000080000 g1 ?_ (fun h1 => ?_)
  rotate_left
  clear g1
  subst g2
  all_goals repeat' first
    | with_reducible exact K.refl _ _ _
    | with_reducible assumption
    | ((with_reducible apply K.put); rotate_left; (first | assumption | exact R.mem_BL_EVENT | exact R.mem_ZB_STATUS); decide)
    | ((with_reducible apply K.raise); rotate_left; (first | assumption | exact R.mem_BL_EVENT | exact R.mem_ZB_STATUS); decide; decide; decide)
    | ((with_reducible apply Foot.enumStart); rotate_left; decide; decide)
    | with_reducible apply K.ite
    | ((with_reducible apply K.foldl); rotate_left; intro d x h; rotate_right)
    | ((with_reducible apply K.foldlFst); rotate_left; intro x y h; rotate_right)
    | ((with_reducible apply K.foldlSnd); rotate_left; intro x y h; rotate_right)
    | with_reducible apply K.fst_ite
    | with_reducible apply K.cond
    | with_reducible refine K.of_fst ?_ (by assumption)
    | with_reducible refine K.of_snd ?_ (by assumption)
    | (split)
    | dsimp only
    | (rw [Dev.mk_tag]; (with_reducible apply K.mk_log); rotate_left; decide)
    | (rw [Dev.mk_tag]; (with_reducible apply K.mk_bl); rotate_left; decide)
    | (rw [Dev.mk_tag]; (with_reducible apply K.mkT); rotate_left; (intro p hq; cases p <;> first | exact absurd hq (by decide) | rfl | exact ⟨rfl, rfl⟩ | exact fun _ => ⟨rfl, rfl⟩); exact fun w => w)

theorem Foot.configureIc {e d : Dev} {pm rm : Nat} {i : Nat} {id : BitVec 16 × Byte × Byte} (h : K e d pm rm) (hp : sub 0x8002 pm = true)
    (hr : sub 0x2000000000000000000000000000000000000000000000000000000080000 rm = true) : K e (Dev.configureIc d i id) pm rm := by
  refine K.lift h hp hr ?_
  clear h hp hr
  unfold Dev.configureIc
  extract_lets x1 x2 x3 x4 x5 x6
  clear_value (g1 : x1 = _) (g2 : x2 = _) (g3 : x3 = _) (g4 : x4 = _) (g5 : x5 = _) (g6 : x6 = _)
  clear g1
  refine K.cutEq d 0x8002 0x2000000000000000000000000000000000000000000000000000000080000 g2 ?_ (fun h2 => ?_)
  rotate_left
  clear g2
  clear g3
  clear g4
  clear g5
  refine K.cutEq d 0x8002 0x2000000000000000000000000000000000000000000000000000000080000 g6 ?_ (fun h6 => ?_)
  rotate_left
  clear g6
  all_goals repeat' first
    | with_reducible exact K.refl _ _ _
    | with_reducible assumption
    | ((with_reducible apply K.raiseIf); rotate_left; (first | assumption | exact R.mem_BL_EVENT | exact R.mem_BL_SEG); decide; decide; decide)
    | ((with_reducible apply K.setIc); rotate_left; decide)
    | ((with_reducible apply Foot.zbMore); rotate_left; decide; decide)
    | ((with_reducible apply Foot.resendIc); rotate_left; decide; decide)
    | with_reducible apply K.ite
    | ((with_reducible apply K.foldl); rotate_left; intro d x h; rotate_right)
    | ((with_reducible apply K.foldlFst); rotate_left; intro x y h; rotate_right)
    | ((with_reducible apply K.foldlSnd); rotate_left; intro x y h; rotate_right)
    | with_reducible apply K.fst_ite
    | with_reducible apply K.cond
    | with_reducible refine K.of_fst ?_ (by assumption)
    | with_reducible refine K.of_snd ?_ (by assumption)
    | (split)
    | dsimp only
    | (rw [Dev.mk_tag]; (with_reducible apply K.mk_log); rotate_left; decide)
    | (rw [Dev.mk_tag]; (with_reducible apply K.mk_bl); rotate_left; decide)
    | (rw [Dev.mk_tag]; (with_reducible apply K.mkT); rotate_left; (intro p hq; cases p <;> first | exact absurd hq (by decide) | rfl | exact ⟨rfl, rfl⟩ | exact fun _ => ⟨rfl, rfl⟩); exact fun w => w)

theorem Foot.enumReturn {e d : Dev} {pm rm : Nat} {ids : List (BitVec 16 × Byte × Byte)} (h : K e d pm rm) (hp : sub 0x8002 pm = true)
    (hr : sub 0xe2000000000000000000000000000000000000000000000000000000080000 rm = true) : K e (Dev.enumReturn d ids) pm rm := by
  refine K.lift h hp hr ?_
  clear h hp hr
  unfold Dev.enumReturn
  extract_lets x1 x2 x3 x4 x5 x6 x7
  clear_value (g1 : x1 = _) (g2 : x2 = _) (g3 : x3 = _) (g4 : x4 = _) (g5 : x5 = _) (g6 : x6 = _) (g7 : x7 = _)
  clear g1
  clear g2
  refine K.cutEq d 0x8002 0xe2000000000000000000000000000000000000000000000000000000080000 g3 ?_ (fun h3 => ?_)
  rotate_left
  clear g3
  refine K.cutEq d 0x8002 0xe2000000000000000000000000000000000000000000000000000000080000 g4 ?_ (fun h4 => ?_)
  rotate_left
  clear g4
  subst g5
  refine K.cutEq d 0x8002 0xe2000000000000000000000000000000000000000000000000000000080000 g6 ?_ (fun h6 => ?_)
  rotate_left
  clear g6
  refine K.cutEq d 0x8002 0xe2000000000000000000000000000000000000000000000000000000080000 g7 ?_ (fun h7 => ?_)
  rotate_left
  clear g7
  all_goals repeat' first
    | with_reducible exact K.refl _ _ _
    | with_reducible assumption
    | ((with_reducible apply K.put); rotate_left; (first | assumption | exact R.mem_BL_EVENT | exact R.mem_ZB_CTRL | exact R.mem_ZB_PRESENT | exact R.mem_ZB_STATUS); decide)
    | ((with_reducible apply K.raiseIf); rotate_left; (first | assumption | exact R.mem_BL_EVENT | exact R.mem_ZB_CTRL | exact R.mem_ZB_PRESENT | exact R.mem_ZB_STATUS); decide; decide; decide)
    | ((with_reducible apply Foot.updGiveUp); rotate_left; decide; decide)
    | ((with_reducible apply Foot.zbSend); rotate_left; decide; decide)
    | ((with_reducible apply Foot.configureIc); rotate_left; decide; decide)
    | with_reducible apply K.ite
    | ((with_reducible apply K.each); rotate_left; intro d x h; rotate_right)
    | ((with_reducible apply K.foldl); rotate_left; intro d x h; rotate_right)
    | ((with_reducible apply K.foldlFst); rotate_left; intro x y h; rotate_right)
    | ((with_reducible apply K.foldlSnd); rotate_left; intro x y h; rotate_right)
    | with_reducible apply K.fst_ite
    | with_reducible apply K.cond
    | with_reducible refine K.of_fst ?_ (by assumption)
    | with_reducible refine K.of_snd ?_ (by assumption)
    | (split)
    | dsimp only
    | (rw [Dev.mk_tag]; (with_reducible apply K.mk_log); rotate_left; decide)
    | (rw [Dev.mk_tag]; (with_reducible apply K.mk_bl); rotate_left; decide)
    | (rw [Dev.mk_tag]; (with_reducible apply K.mkT); rotate_left; (intro p hq; cases p <;> first | exact absurd hq (by decide) | rfl | exact ⟨rfl, rfl⟩ | exact fun _ => ⟨rfl, rfl⟩); exact fun w => w)

theorem Foot.openSink {e d : Dev} {pm rm : Nat} {s : Nat} (h : K e d pm rm) (hp : sub 0x18002 pm = true)
    (hr : sub 0x4002000000000000000000000000000000000000000000000000000000080000 rm = true) : K e (Dev.openSink d s) pm rm := by
  refine K.lift h hp hr ?_
  clear h hp hr
  unfold Dev.openSink
  all_goals repeat' first
    | with_reducible exact K.refl _ _ _
    | with_reducible assumption
    | ((with_reducible apply K.put); rotate_left; (first | assumption | exact R.mem_BL_EVENT | exact R.mem_SINK_STATUS); decide)
    | ((with_reducible apply K.raise); rotate_left; (first | assumption | exact R.mem_BL_EVENT | exact R.mem_SINK_STATUS); decide; decide; decide)
    | ((with_reducible apply K.setSink); rotate_left; decide)
    | ((with_reducible apply Foot.calEndSink); rotate_left; decide; decide)
    | with_reducible apply K.ite
    | ((with_reducible apply K.foldl); rotate_left; intro d x h; rotate_right)
    | ((with_reducible apply K.foldlFst); rotate_left; intro x y h; rotate_right)
    | ((with_reducible apply K.foldlSnd); rotate_left; intro x y h; rotate_right)
    | with_reducible apply K.fst_ite
    | with_reducible apply K.cond
    | with_reducible refine K.of_fst ?_ (by assumption)
    | with_reducible refine K.of_snd ?_ (by assumption)
    | (split)
    | dsimp only
    | (rw [Dev.mk_tag]; (with_reducible apply K.mk_log); rotate_left; decide)
    | (rw [Dev.mk_tag]; (with_reducible apply K.mk_bl); rotate_left; decide)
    | (rw [Dev.mk_tag]; (with_reducible apply K.mk_cal); rotate_left; decide)
    | (rw [Dev.mk_tag]; (with_reducible apply K.mkT); rotate_left; (intro p hq; cases p <;> first | exact absurd hq (by decide) | rfl | exact ⟨rfl, rfl⟩ | exact fun _ => ⟨rfl, rfl⟩); exact fun w => w)

theorem Foot.needSample {e d : Dev} {pm rm : Nat} {s : Nat} {vOut : Nat} {vPin : Nat} (h : K e d pm rm) (hp : sub 0x18002 pm = true)
    (hr : sub 0x4002000000000000000000000000000000000000000000000000000000080000 rm = true) : K e (Dev.needSample d s vOut vPin) pm rm := by
  refine K.lift h hp hr ?_
  clear h hp hr
  unfold Dev.needSample
  extract_lets x1 x2 x3 x4
  clear_value (g1 : x1 = _) (g2 : x2 = _) (g3 : x3 = _) (g4 : x4 = _)
  clear g1
  clear g2
  refine K.cutEq d 0x18002 0x4002000000000000000000000000000000000000000000000000000000080000 g3 ?_ (fun h3 => ?_)
  rotate_left
  clear g3
  refine K.cutEq d 0x18002 0x4002000000000000000000000000000000000000000000000000000000080000 g4 ?_ (fun h4 => ?_)
  rotate_left
  clear g4
  all_goals repeat' first
    | with_reducible exact K.refl _ _ _
    | with_reducible assumption
    | ((with_reducible apply K.put); rotate_left; (first | assumption | exact R.mem_BOOST_STATUS | exact R.mem_SINK_CFG | exact R.mem_SINK_STATUS); decide)
    | ((with_reducible apply K.setSink); rotate_left; decide)
    | ((with_reducible apply Foot.openSink); rotate_left; decide; decide)
    | with_reducible apply K.ite
    | ((with_reducible apply K.foldl); rotate_left; intro d x h; rotate_right)
    | ((with_reducible apply K.foldlFst); rotate_left; intro x y h; rotate_right)
    | ((with_reducible apply K.foldlSnd); rotate_left; intro x y h; rotate_right)
    | with_reducible apply K.fst_ite
    | with_reducible apply K.cond
    | with_reducible refine K.of_fst ?_ (by assumption)
    | with_reducible refine K.of_snd ?_ (by assumption)
    | (split)
    | dsimp only
    | (rw [Dev.mk_tag]; (with_reducible apply K.mk_log); rotate_left; decide)
    | (rw [Dev.mk_tag]; (with_reducible apply K.mk_bl); rotate_left; decide)
    | (rw [Dev.mk_tag]; (with_reducible apply K.mk_cal); rotate_left; decide)
    | (rw [Dev.mk_tag]; (with_reducible apply K.mkT); rotate_left; (intro p hq; cases p <;> first | exact absurd hq (by decide) | rfl | exact ⟨rfl, rfl⟩ | exact fun _ => ⟨rfl, rfl⟩); exact fun w => w)

theorem Foot.ledShorts {e d : Dev} {pm rm : Nat} {b : Nat} (h : K e d pm rm) (hp : sub 0x18002 pm = true)
    (hr : sub 0x4002000000000000000000000000000000000000000000000000000000080000 rm = true) : K e (Dev.ledShorts d b) pm rm := by
  refine K.lift h hp hr ?_
  clear h hp hr
  unfold Dev.ledShorts
  extract_lets x1 x2
  clear_value (g1 : x1 = _) (g2 : x2 = _)
  clear g1
  clear g2
  all_goals repeat' first
    | with_reducible exact K.refl _ _ _
    | with_reducible assumption
    | ((with_reducible apply K.put); rotate_left; (first | assumption | exact R.mem_BL_EVENT | exact R.mem_SINK_CFG | exact R.mem_SINK_STATUS); decide)
    | ((with_reducible apply K.raise); rotate_left; (first | assumption | exact R.mem_BL_EVENT | exact R.mem_SINK_CFG | exact R.mem_SINK_STATUS); decide; decide; decide)
    | ((with_reducible apply K.setSink); rotate_left; decide)
    | ((with_reducible apply Foot.calEndSink); rotate_left; decide; decide)
    | with_reducible apply K.ite
    | ((with_reducible apply K.each); rotate_left; intro d x h; rotate_right)
    | ((with_reducible apply K.foldl); rotate_left; intro d x h; rotate_right)
    | ((with_reducible apply K.foldlFst); rotate_left; intro x y h; rotate_right)
    | ((with_reducible apply K.foldlSnd); rotate_left; intro x y h; rotate_right)
    | with_reducible apply K.fst_ite
    | with_reducible apply K.cond
    | with_reducible refine K.of_fst ?_ (by assumption)
    | with_reducible refine K.of_snd ?_ (by assumption)
    | (split)
    | dsimp only
    | (rw [Dev.mk_tag]; (with_reducible apply K.mk_log); rotate_left; decide)
    | (rw [Dev.mk_tag]; (with_reducible apply K.mk_bl); rotate_left; decide)
    | (rw [Dev.mk_tag]; (with_reducible apply K.mk_cal); rotate_left; decide)
    | (rw [Dev.mk_tag]; (with_reducible apply K.mkT); rotate_left; (intro p hq; cases p <;> first | exact absurd hq (by decide) | rfl | exact ⟨rfl, rfl⟩ | exact fun _ => ⟨rfl, rfl⟩); exact fun w => w)

theorem Foot.endSamples {e d : Dev} {pm rm : Nat} (h : K e d pm rm) (hp : sub 0x18002 pm = true)
    (hr : sub 0x4002000000000000000000000000000000000000000000000000000000080000 rm = true) : K e (Dev.endSamples d) pm rm := by
  refine K.lift h hp hr ?_
  clear h hp hr
  unfold Dev.endSamples
  extract_lets x1
  clear_value (g1 : x1 = _)
  refine K.cutEq d 0x18002 0x4002000000000000000000000000000000000000000000000000000000080000 g1 ?_ (fun h1 => ?_)
  rotate_left
  clear g1
  all_goals repeat' first
    | with_reducible exact K.refl _ _ _
    | with_reducible assumption
    | ((with_reducible apply K.setSink); rotate_left; decide)
    | ((with_reducible apply Foot.ledShorts); rotate_left; decide; decide)
    | with_reducible apply K.ite
    | ((with_reducible apply K.each); rotate_left; intro d x h; rotate_right)
    | ((with_reducible apply K.foldl); rotate_left; intro d x h; rotate_right)
    | ((with_reducible apply K.foldlFst); rotate_left; intro x y h; rotate_right)
    | ((with_reducible apply K.foldlSnd); rotate_left; intro x y h; rotate_right)
    | with_reducible apply K.fst_ite
    | with_reducible apply K.cond
    | with_reducible refine K.of_fst ?_ (by assumption)
    | with_reducible refine K.of_snd ?_ (by assumption)
    | (split)
    | dsimp only
    | (rw [Dev.mk_tag]; (with_reducible apply K.mk_log); rotate_left; decide)
    | (rw [Dev.mk_tag]; (with_reducible apply K.mk_bl); rotate_left; decide)
    | (rw [Dev.mk_tag]; (with_reducible apply K.mk_cal); rotate_left; decide)
    | (rw [Dev.mk_tag]; (with_reducible apply K.mkT); rotate_left; (intro p hq; cases p <;> first | exact absurd hq (by decide) | rfl | exact ⟨rfl, rfl⟩ | exact fun _ => ⟨rfl, rfl⟩); exact fun w => w)

theorem Foot.pinTest {e d : Dev} {pm rm : Nat} {a : Nat} {b : Nat} {r : PinTest} (h : K e d pm rm) (hp : sub 0x18002 pm = true)
    (hr : sub 0x4002000000000000000000000000000000000000000000000000000000080000 rm = true) : K e (Dev.pinTest d a b r) pm rm := by
  refine K.lift h hp hr ?_
  clear h hp hr
  unfold Dev.pinTest
  extract_lets x1 x2 x3 x4 x5 x6
  clear_value (g1 : x1 = _) (g2 : x2 = _) (g3 : x3 = _) (g4 : x4 = _) (g5 : x5 = _) (g6 : x6 = _)
  subst g1
  refine K.cutEq d 0x18002 0x4002000000000000000000000000000000000000000000000000000000080000 g2 ?_ (fun h2 => ?_)
  rotate_left
  clear g2
  refine K.cutEq d 0x18002 0x4002000000000000000000000000000000000000000000000000000000080000 g3 ?_ (fun h3 => ?_)
  rotate_left
  clear g3
  subst g4
  subst g5
  refine K.cutEq d 0x18002 0x4002000000000000000000000000000000000000000000000000000000080000 g6 ?_ (fun h6 => ?_)
  rotate_left
  clear g6
  all_goals repeat' first
    | with_reducible exact K.refl _ _ _
    | with_reducible assumption
    | ((with_reducible apply K.put); rotate_left; (first | assumption | exact R.mem_BL_CTRL | exact R.mem_BL_EVENT | exact R.mem_BOOST_FAULT | exact R.mem_SINK_CFG | exact R.mem_SINK_STATUS); decide)
    | ((with_reducible apply K.raise); rotate_left; (first | assumption | exact R.mem_BL_CTRL | exact R.mem_BL_EVENT | exact R.mem_BOOST_FAULT | exact R.mem_SINK_CFG | exact R.mem_SINK_STATUS); decide; decide; decide)
    | ((with_reducible apply K.setSink); rotate_left; decide)
    | ((with_reducible apply Foot.calEndSink); rotate_left; decide; decide)
    | with_reducible apply K.ite
    | ((with_reducible apply K.each); rotate_left; intro d x h; rotate_right)
    | ((with_reducible apply K.foldl); rotate_left; intro d x h; rotate_right)
    | ((with_reducible apply K.foldlFst); rotate_left; intro x y h; rotate_right)
    | ((with_reducible apply K.foldlSnd); rotate_left; intro x y h; rotate_right)
    | with_reducible apply K.fst_ite
    | with_reducible apply K.cond
    | with_reducible refine K.of_fst ?_ (by assumption)
    | with_reducible refine K.of_snd ?_ (by assumption)
    | (split)
    | dsimp only
    | (rw [Dev.mk_tag]; (with_reducible apply K.mk_log); rotate_left; decide)
    | (rw [Dev.mk_tag]; (with_reducible apply K.mk_bl); rotate_left; decide)
    | (rw [Dev.mk_tag]; (with_reducible apply K.mk_cal); rotate_left; decide)
    | (rw [Dev.mk_tag]; (with_reducible apply K.mkT); rotate_left; (intro p hq; cases p <;> first | exact absurd hq (by decide) | rfl | exact ⟨rfl, rfl⟩ | exact fun _ => ⟨rfl, rfl⟩); exact fun w => w)

theorem Foot.sinkFaultClear {e d : Dev} {pm rm : Nat} {s : Nat} {clr : Nat} (h : K e d pm rm) (hp : sub 0x0 pm = true)
    (hr : sub 0x4000000000000000000000000000000000000000000000000000000000000000 rm = true) : K e (Dev.sinkFaultClear d s clr) pm rm := by
  refine K.lift h hp hr ?_
  clear h hp hr
  unfold Dev.sinkFaultClear
  extract_lets x1 x2 x3
  clear_value (g1 : x1 = _) (g2 : x2 = _) (g3 : x3 = _)
  refine K.cutEq d 0x0 0x4000000000000000000000000000000000000000000000000000000000000000 g1 ?_ (fun h1 => ?_)
  rotate_left
  clear g1
  refine K.cutEq d 0x0 0x4000000000000000000000000000000000000000000000000000000000000000 g2 ?_ (fun h2 => ?_)
  rotate_left
  clear g2
  refine K.cutEq d 0x0 0x4000000000000000000000000000000000000000000000000000000000000000 g3 ?_ (fun h3 => ?_)
  rotate_left
  clear g3
  all_goals repeat' first
    | with_reducible exact K.refl _ _ _
    | with_reducible assumption
    | ((with_reducible apply K.put); rotate_left; (first | assumption | exact R.mem_SINK_STATUS); decide)
    | with_reducible apply K.ite
    | ((with_reducible apply K.foldl); rotate_left; intro d x h; rotate_right)
    | ((with_reducible apply K.foldlFst); rotate_left; intro x y h; rotate_right)
    | ((with_reducible apply K.foldlSnd); rotate_left; intro x y h; rotate_right)
    | with_reducible apply K.fst_ite
    | with_reducible apply K.cond
    | with_reducible refine K.of_fst ?_ (by assumption)
    | with_reducible refine K.of_snd ?_ (by assumption)
    | (split)
    | dsimp only
    | (rw [Dev.mk_tag]; (with_reducible apply K.mkT); rotate_left; (intro p hq; cases p <;> first | exact absurd hq (by decide) | rfl | exact ⟨rfl, rfl⟩ | exact fun _ => ⟨rfl, rfl⟩); exact fun w => w)

theorem Foot.diagPulse {e d : Dev} {pm rm : Nat} {s : Nat} (h : K e d pm rm) (hp : sub 0x8000 pm = true)
    (hr : sub 0x0 rm = true) : K e (Dev.diagPulse d s) pm rm := by
  refine K.lift h hp hr ?_
  clear h hp hr
  unfold Dev.diagPulse
  all_goals repeat' first
    | with_reducible exact K.refl _ _ _
    | with_reducible assumption
    | ((with_reducible apply K.setSink); rotate_left; decide)
    | with_reducible apply K.ite
    | ((with_reducible apply K.foldl); rotate_left; intro d x h; rotate_right)
    | ((with_reducible apply K.foldlFst); rotate_left; intro x y h; rotate_right)
    | ((with_reducible apply K.foldlSnd); rotate_left; intro x y h; rotate_right)
    | with_reducible apply K.fst_ite
    | with_reducible apply K.cond
    | with_reducible refine K.of_fst ?_ (by assumption)
    | with_reducible refine K.of_snd ?_ (by assumption)
    | (split)
    | dsimp only
    | (rw [Dev.mk_tag]; (with_reducible apply K.mk_bl); rotate_left; decide)
    | (rw [Dev.mk_tag]; (with_reducible apply K.mkT); rotate_left; (intro p hq; cases p <;> first | exact absurd hq (by decide) | rfl | exact ⟨rfl, rfl⟩ | exact fun _ => ⟨rfl, rfl⟩); exact fun w => w)

theorem Foot.blPeriodShow {e d : Dev} {pm rm : Nat} {index : Nat} {m : PwmSense} (h : K e d pm rm) (hp : sub 0x8002 pm = true)
    (hr : sub 0x213c00000000000000000000000000000000000000000000000000000080000 rm = true) : K e (Dev.blPeriodShow d index m) pm rm := by
  refine K.lift h hp hr ?_
  clear h hp hr
  unfold Dev.blPeriodShow
  extract_lets x1 x2 x3 x4 x5 x6 x7
  clear_value (g1 : x1 = _) (g2 : x2 = _) (g3 : x3 = _) (g4 : x4 = _) (g5 : x5 = _) (g6 : x6 = _) (g7 : x7 = _)
  clear g1
  refine K.cutEq d 0x8002 0x213c00000000000000000000000000000000000000000000000000000080000 g2 ?_ (fun h2 => ?_)
  rotate_left
  clear g2
  refine K.cutEq d 0x8002 0x213c00000000000000000000000000000000000000000000000000000080000 g3 ?_ (fun h3 => ?_)
  rotate_left
  clear g3
  subst g4
  refine K.cutEq d 0x8002 0x213c00000000000000000000000000000000000000000000000000000080000 g5 ?_ (fun h5 => ?_)
  rotate_left
  clear g5
  refine K.cutEq d 0x8002 0x213c00000000000000000000000000000000000000000000000000000080000 g6 ?_ (fun h6 => ?_)
  rotate_left
  clear g6
  refine K.cutEq d 0x8002 0x213c00000000000000000000000000000000000000000000000000000080000 g7 ?_ (fun h7 => ?_)
  rotate_left
  clear g7
  all_goals repeat' first
    | with_reducible exact K.refl _ _ _
    | with_reducible assumption
    | ((with_reducible apply K.put); rotate_left; (first | assumption | exact R.mem_BL_CTRL | exact R.mem_BL_DIE | exact R.mem_BL_EVENT | exact R.mem_BL_MON | exact R.mem_BL_STATUS | exact R.mem_BOOST_STATUS | exact R.mem_ZB_ERR_COUNT); decide)
    | ((with_reducible apply K.inc); rotate_left; (first | assumption | exact R.mem_BL_CTRL | exact R.mem_BL_DIE | exact R.mem_BL_EVENT | exact R.mem_BL_MON | exact R.mem_BL_STATUS | exact R.mem_BOOST_STATUS | exact R.mem_ZB_ERR_COUNT); decide)
    | ((with_reducible apply K.raiseIf); rotate_left; (first | assumption | exact R.mem_BL_CTRL | exact R.mem_BL_DIE | exact R.mem_BL_EVENT | exact R.mem_BL_MON | exact R.mem_BL_STATUS | exact R.mem_BOOST_STATUS | exact R.mem_ZB_ERR_COUNT); decide; decide; decide)
    | with_reducible apply K.ite
    | ((with_reducible apply K.each); rotate_left; intro d x h; rotate_right)
    | ((with_reducible apply K.foldl); rotate_left; intro d x h; rotate_right)
    | ((with_reducible apply K.foldlFst); rotate_left; intro x y h; rotate_right)
    | ((with_reducible apply K.foldlSnd); rotate_left; intro x y h; rotate_right)
    | with_reducible apply K.fst_ite
    | with_reducible apply K.cond
    | with_reducible refine K.of_fst ?_ (by assumption)
    | with_reducible refine K.of_snd ?_ (by assumption)
    | (split)
    | dsimp only
    | (rw [Dev.mk_tag]; (with_reducible apply K.mk_log); rotate_left; decide)
    | (rw [Dev.mk_tag]; (with_reducible apply K.mk_bl); rotate_left; decide)
    | (rw [Dev.mk_tag]; (with_reducible apply K.mkT); rotate_left; (intro p hq; cases p <;> first | exact absurd hq (by decide) | rfl | exact ⟨rfl, rfl⟩ | exact fun _ => ⟨rfl, rfl⟩); exact fun w => w)

theorem Foot.blPeriodBoost {e d : Dev} {pm rm : Nat} {b : Nat} (h : K e d pm rm) (hp : sub 0x8000 pm = true)
    (hr : sub 0x600000000000000000000000000000000000000000000000000000000000000 rm = true) : K e (Dev.blPeriodBoost d b) pm rm := by
  refine K.lift h hp hr ?_
  clear h hp hr
  unfold Dev.blPeriodBoost
  extract_lets x1 x2
  clear_value (g1 : x1 = _) (g2 : x2 = _)
  clear g1
  refine K.cutEq d 0x8000 0x600000000000000000000000000000000000000000000000000000000000000 g2 ?_ (fun h2 => ?_)
  rotate_left
  clear g2
  all_goals repeat' first
    | with_reducible exact K.refl _ _ _
    | with_reducible assumption
    | ((with_reducible apply K.setBoost); rotate_left; decide)
    | ((with_reducible apply Foot.boostTarget); rotate_left; decide; decide)
    | with_reducible apply K.ite
    | ((with_reducible apply K.foldl); rotate_left; intro d x h; rotate_right)
    | ((with_reducible apply K.foldlFst); rotate_left; intro x y h; rotate_right)
    | ((with_reducible apply K.foldlSnd); rotate_left; intro x y h; rotate_right)
    | with_reducible apply K.fst_ite
    | with_reducible apply K.cond
    | with_reducible refine K.of_fst ?_ (by assumption)
    | with_reducible refine K.of_snd ?_ (by assumption)
    | (split)
    | dsimp only
    | (rw [Dev.mk_tag]; (with_reducible apply K.mk_bl); rotate_left; decide)
    | (rw [Dev.mk_tag]; (with_reducible apply K.mkT); rotate_left; (intro p hq; cases p <;> first | exact absurd hq (by decide) | rfl | exact ⟨rfl, rfl⟩ | exact fun _ => ⟨rfl, rfl⟩); exact fun w => w)

theorem Foot.blPeriodDie {e d : Dev} {pm rm : Nat} {m : PwmSense} (h : K e d pm rm) (hp : sub 0x18002 pm = true)
    (hr : sub 0x2440000000000000000000000000000000000000000000000000000080000 rm = true) : K e (Dev.blPeriodDie d m) pm rm := by
  refine K.lift h hp hr ?_
  clear h hp hr
  unfold Dev.blPeriodDie
  extract_lets x1 x2 x3
  skip
  refine K.cut d 0x18002 0x2440000000000000000000000000000000000000000000000000000080000 x3 ?_ (fun h3 => ?_)
  unfold x3
  rotate_left
  all_goals repeat' first
    | with_reducible exact K.refl _ _ _
    | with_reducible assumption
    | ((with_reducible apply K.raise); rotate_left; (first | assumption | exact R.mem_BL_CTRL | exact R.mem_BL_EVENT | exact R.mem_BL_LIMIT); decide; decide; decide)
    | ((with_reducible apply Foot.blShut); rotate_left; decide; decide)
    | with_reducible apply K.ite
    | ((with_reducible apply K.foldl); rotate_left; intro d x h; rotate_right)
    | ((with_reducible apply K.foldlFst); rotate_left; intro x y h; rotate_right)
    | ((with_reducible apply K.foldlSnd); rotate_left; intro x y h; rotate_right)
    | with_reducible apply K.fst_ite
    | with_reducible apply K.cond
    | with_reducible refine K.of_fst ?_ (by assumption)
    | with_reducible refine K.of_snd ?_ (by assumption)
    | (split)
    | dsimp only
    | (rw [Dev.mk_tag]; (with_reducible apply K.mk_log); rotate_left; decide)
    | (rw [Dev.mk_tag]; (with_reducible apply K.mk_bl); rotate_left; decide)
    | (rw [Dev.mk_tag]; (with_reducible apply K.mk_cal); rotate_left; decide)
    | (rw [Dev.mk_tag]; (with_reducible apply K.mkT); rotate_left; (intro p hq; cases p <;> first | exact absurd hq (by decide) | rfl | exact ⟨rfl, rfl⟩ | exact fun _ => ⟨rfl, rfl⟩); exact fun w => w)

theorem Foot.blPeriod {e d : Dev} {pm rm : Nat} {index : Nat} {m : PwmSense} (h : K e d pm rm) (hp : sub 0x18002 pm = true)
    (hr : sub 0x4613c40000000000000000000000000000000000000000000000000000080000 rm = true) : K e (Dev.blPeriod d index m) pm rm := by
  refine K.lift h hp hr ?_
  clear h hp hr
  unfold Dev.blPeriod
  extract_lets x1 x2
  clear_value (g1 : x1 = _) (g2 : x2 = _)
  refine K.cutEq d 0x18002 0x4613c40000000000000000000000000000000000000000000000000000080000 g1 ?_ (fun h1 => ?_)
  rotate_left
  clear g1
  refine K.cutEq d 0x18002 0x4613c40000000000000000000000000000000000000000000000000000080000 g2 ?_ (fun h2 => ?_)
  rotate_left
  clear g2
  all_goals repeat' first
    | with_reducible exact K.refl _ _ _
    | with_reducible assumption
    | ((with_reducible apply Foot.endSamples); rotate_left; decide; decide)
    | ((with_reducible apply Foot.blPeriodShow); rotate_left; decide; decide)
    | ((with_reducible apply Foot.blPeriodBoost); rotate_left; decide; decide)
    | ((with_reducible apply Foot.blPeriodDie); rotate_left; decide; decide)
    | ((with_reducible apply Foot.lightSink); rotate_left; decide; decide)
    | with_reducible apply K.ite
    | ((with_reducible apply K.each); rotate_left; intro d x h; rotate_right)
    | ((with_reducible apply K.foldl); rotate_left; intro d x h; rotate_right)
    | ((with_reducible apply K.foldlFst); rotate_left; intro x y h; rotate_right)
    | ((with_reducible apply K.foldlSnd); rotate_left; intro x y h; rotate_right)
    | with_reducible apply K.fst_ite
    | with_reducible apply K.cond
    | with_reducible refine K.of_fst ?_ (by assumption)
    | with_reducible refine K.of_snd ?_ (by assumption)
    | (split)
    | dsimp only
    | (rw [Dev.mk_tag]; (with_reducible apply K.mk_log); rotate_left; decide)
    | (rw [Dev.mk_tag]; (with_reducible apply K.mk_bl); rotate_left; decide)
    | (rw [Dev.mk_tag]; (with_reducible apply K.mk_cal); rotate_left; decide)
    | (rw [Dev.mk_tag]; (with_reducible apply K.mkT); rotate_left; (intro p hq; cases p <;> first | exact absurd hq (by decide) | rfl | exact ⟨rfl, rfl⟩ | exact fun _ => ⟨rfl, rfl⟩); exact fun w => w)

end Sys2Proof.Machine
end

