-- ==== Sys2Proof/Laws/FootMailbox.lean ====
section
/-! SUPPORT.  Footprints of the functions of `Machine/Mailbox.lean` (see `Keep.lean`): what each leaves alone. -/

set_option Elab.async false
set_option linter.all false

namespace Sys2Proof.Machine

theorem Foot.mbPut {e d : Dev} {pm rm : Nat} {m : Nat} {o : Nat} {bs : List Byte} (h : K e d pm rm) (hp : sub 0x80000 pm = true)
    (hr : sub 0x0 rm = true) : K e (Dev.mbPut d m o bs) pm rm := by
  refine K.lift h hp hr ?_
  clear h hp hr
  unfold Dev.mbPut
  all_goals repeat' first
    | with_reducible exact K.refl _ _ _
    | with_reducible assumption
    | with_reducible apply K.ite
    | ((with_reducible apply K.foldl); rotate_left; intro d x h; rotate_right)
    | ((with_reducible apply K.foldlFst); rotate_left; intro x y h; rotate_right)
    | ((with_reducible apply K.foldlSnd); rotate_left; intro x y h; rotate_right)
    | with_reducible apply K.fst_ite
    | with_reducible apply K.cond
    | with_reducible refine K.of_fst ?_ (by assumption)
    | with_reducible refine K.of_snd ?_ (by assumption)
    | (split)
    | dsimp only
    | (rw [Dev.mk_tag]; (with_reducible apply K.mk_mbox); rotate_left; decide; (intro w; first | exact w | exact Memory.wf_write _ _ w | exact Memory.wf_clear _ _ w | exact Memory.wf_filter _ w | exact Memory.wf_set _ _ w))
    | (rw [Dev.mk_tag]; (with_reducible apply K.mkT); rotate_left; (intro p hq; cases p <;> first | exact absurd hq (by decide) | rfl | exact ⟨rfl, rfl⟩ | exact fun _ => ⟨rfl, rfl⟩); exact fun w => w)

theorem Foot.mbSet {e d : Dev} {pm rm : Nat} {m : Nat} {i : Nat} {b : Bool} (h : K e d pm rm) (hp : sub 0x80000 pm = true)
    (hr : sub 0x0 rm = true) : K e (Dev.mbSet d m i b) pm rm := by
  refine K.lift h hp hr ?_
  clear h hp hr
  unfold Dev.mbSet
  all_goals repeat' first
    | with_reducible exact K.refl _ _ _
    | with_reducible assumption
    | ((with_reducible apply Foot.mbPut); rotate_left; decide; decide)
    | with_reducible apply K.ite
    | ((with_reducible apply K.foldl); rotate_left; intro d x h; rotate_right)
    | ((with_reducible apply K.foldlFst); rotate_left; intro x y h; rotate_right)
    | ((with_reducible apply K.foldlSnd); rotate_left; intro x y h; rotate_right)
    | with_reducible apply K.fst_ite
    | with_reducible apply K.cond
    | with_reducible refine K.of_fst ?_ (by assumption)
    | with_reducible refine K.of_snd ?_ (by assumption)
    | (split)
    | dsimp only
    | (rw [Dev.mk_tag]; (with_reducible apply K.mk_mbox); rotate_left; decide; (intro w; first | exact w | exact Memory.wf_write _ _ w | exact Memory.wf_clear _ _ w | exact Memory.wf_filter _ w | exact Memory.wf_set _ _ w))
    | (rw [Dev.mk_tag]; (with_reducible apply K.mkT); rotate_left; (intro p hq; cases p <;> first | exact absurd hq (by decide) | rfl | exact ⟨rfl, rfl⟩ | exact fun _ => ⟨rfl, rfl⟩); exact fun w => w)

theorem Foot.sendIbi {e d : Dev} {pm rm : Nat} {old : Nat} (h : K e d pm rm) (hp : sub 0x100000 pm = true)
    (hr : sub 0x0 rm = true) : K e (Dev.sendIbi d old) pm rm := by
  refine K.lift h hp hr ?_
  clear h hp hr
  unfold Dev.sendIbi
  extract_lets x1
  clear_value (g1 : x1 = _)
  subst g1
  all_goals repeat' first
    | with_reducible exact K.refl _ _ _
    | with_reducible assumption
    | with_reducible apply K.ite
    | ((with_reducible apply K.foldl); rotate_left; intro d x h; rotate_right)
    | ((with_reducible apply K.foldlFst); rotate_left; intro x y h; rotate_right)
    | ((with_reducible apply K.foldlSnd); rotate_left; intro x y h; rotate_right)
    | with_reducible apply K.fst_ite
    | with_reducible apply K.cond
    | with_reducible refine K.of_fst ?_ (by assumption)
    | with_reducible refine K.of_snd ?_ (by assumption)
    | (split)
    | dsimp only
    | (rw [Dev.mk_tag]; (with_reducible apply K.mk_mgmt); rotate_left; decide)
    | (rw [Dev.mk_tag]; (with_reducible apply K.mkT); rotate_left; (intro p hq; cases p <;> first | exact absurd hq (by decide) | rfl | exact ⟨rfl, rfl⟩ | exact fun _ => ⟨rfl, rfl⟩); exact fun w => w)

theorem Foot.hostEvent {e d : Dev} {pm rm : Nat} {i : Nat} (h : K e d pm rm) (hp : sub 0x100000 pm = true)
    (hr : sub 0x20000000000000000000000000000000000000000000000000000000000000000000000000000000000000 rm = true) : K e (Dev.hostEvent d i) pm rm := by
  refine K.lift h hp hr ?_
  clear h hp hr
  unfold Dev.hostEvent
  all_goals repeat' first
    | with_reducible exact K.refl _ _ _
    | with_reducible assumption
    | ((with_reducible apply K.putWord); rotate_left; (first | assumption | exact R.mem_HOST_EVENT); decide)
    | ((with_reducible apply Foot.sendIbi); rotate_left; decide; decide)
    | with_reducible apply K.ite
    | ((with_reducible apply K.foldl); rotate_left; intro d x h; rotate_right)
    | ((with_reducible apply K.foldlFst); rotate_left; intro x y h; rotate_right)
    | ((with_reducible apply K.foldlSnd); rotate_left; intro x y h; rotate_right)
    | with_reducible apply K.fst_ite
    | with_reducible apply K.cond
    | with_reducible refine K.of_fst ?_ (by assumption)
    | with_reducible refine K.of_snd ?_ (by assumption)
    | (split)
    | dsimp only
    | (rw [Dev.mk_tag]; (with_reducible apply K.mk_mgmt); rotate_left; decide)
    | (rw [Dev.mk_tag]; (with_reducible apply K.mkT); rotate_left; (intro p hq; cases p <;> first | exact absurd hq (by decide) | rfl | exact ⟨rfl, rfl⟩ | exact fun _ => ⟨rfl, rfl⟩); exact fun w => w)

theorem Foot.irqReason {e d : Dev} {pm rm : Nat} {p : Nat} {vec : Nat} (h : K e d pm rm) (hp : sub 0x20000 pm = true)
    (hr : sub 0x0 rm = true) : K e (Dev.irqReason d p vec) pm rm := by
  refine K.lift h hp hr ?_
  clear h hp hr
  unfold Dev.irqReason
  extract_lets x1 x2
  clear_value (g1 : x1 = _) (g2 : x2 = _)
  subst g1
  subst g2
  all_goals repeat' first
    | with_reducible exact K.refl _ _ _
    | with_reducible assumption
    | with_reducible apply K.ite
    | ((with_reducible apply K.foldl); rotate_left; intro d x h; rotate_right)
    | ((with_reducible apply K.foldlFst); rotate_left; intro x y h; rotate_right)
    | ((with_reducible apply K.foldlSnd); rotate_left; intro x y h; rotate_right)
    | with_reducible apply K.fst_ite
    | with_reducible apply K.cond
    | with_reducible refine K.of_fst ?_ (by assumption)
    | with_reducible refine K.of_snd ?_ (by assumption)
    | (split)
    | dsimp only
    | (rw [Dev.mk_tag]; (with_reducible apply K.mk_rx); rotate_left; decide; (first | exact .inl rfl | exact .inl ⟨rfl, rfl⟩ | exact .inr ⟨by decide, by (intro w; first | exact w | exact Memory.wf_write _ _ w | exact Memory.wf_clear _ _ w | exact Memory.wf_filter _ w | exact Memory.wf_set _ _ w)⟩))
    | (rw [Dev.mk_tag]; (with_reducible apply K.mkT); rotate_left; (intro p hq; cases p <;> first | exact absurd hq (by decide) | rfl | exact ⟨rfl, rfl⟩ | exact fun _ => ⟨rfl, rfl⟩); exact fun w => w)

theorem Foot.mbComplete {e d : Dev} {pm rm : Nat} {m : Nat} (h : K e d pm rm) (hp : sub 0x1a0000 pm = true)
    (hr : sub 0x20000000000000000000000000000000000000000000000000000000000000000000000000000000000000 rm = true) : K e (Dev.mbComplete d m) pm rm := by
  refine K.lift h hp hr ?_
  clear h hp hr
  unfold Dev.mbComplete
  extract_lets x1 x2
  clear_value (g1 : x1 = _) (g2 : x2 = _)
  refine K.cutEq d 0x1a0000 0x20000000000000000000000000000000000000000000000000000000000000000000000000000000000000 g1 ?_ (fun h1 => ?_)
  rotate_left
  clear g1
  refine K.cutEq d 0x1a0000 0x20000000000000000000000000000000000000000000000000000000000000000000000000000000000000 g2 ?_ (fun h2 => ?_)
  rotate_left
  clear g2
  all_goals repeat' first
    | with_reducible exact K.refl _ _ _
    | with_reducible assumption
    | ((with_reducible apply Foot.mbPut); rotate_left; decide; decide)
    | ((with_reducible apply Foot.mbSet); rotate_left; decide; decide)
    | ((with_reducible apply Foot.irqReason); rotate_left; decide; decide)
    | ((with_reducible apply Foot.hostEvent); rotate_left; decide; decide)
    | with_reducible apply K.ite
    | ((with_reducible apply K.foldl); rotate_left; intro d x h; rotate_right)
    | ((with_reducible apply K.foldlFst); rotate_left; intro x y h; rotate_right)
    | ((with_reducible apply K.foldlSnd); rotate_left; intro x y h; rotate_right)
    | with_reducible apply K.fst_ite
    | with_reducible apply K.cond
    | with_reducible refine K.of_fst ?_ (by assumption)
    | with_reducible refine K.of_snd ?_ (by assumption)
    | (split)
    | dsimp only
    | (rw [Dev.mk_tag]; (with_reducible apply K.mk_rx); rotate_left; decide; (first | exact .inl rfl | exact .inl ⟨rfl, rfl⟩ | exact .inr ⟨by decide, by (intro w; first | exact w | exact Memory.wf_write _ _ w | exact Memory.wf_clear _ _ w | exact Memory.wf_filter _ w | exact Memory.wf_set _ _ w)⟩))
    | (rw [Dev.mk_tag]; (with_reducible apply K.mk_mbox); rotate_left; decide; (intro w; first | exact w | exact Memory.wf_write _ _ w | exact Memory.wf_clear _ _ w | exact Memory.wf_filter _ w | exact Memory.wf_set _ _ w))
    | (rw [Dev.mk_tag]; (with_reducible apply K.mk_mgmt); rotate_left; decide)
    | (rw [Dev.mk_tag]; (with_reducible apply K.mkT); rotate_left; (intro p hq; cases p <;> first | exact absurd hq (by decide) | rfl | exact ⟨rfl, rfl⟩ | exact fun _ => ⟨rfl, rfl⟩); exact fun w => w)

theorem Foot.mbAnswer {e d : Dev} {pm rm : Nat} {m : Nat} {result : Nat} {data : optParam (List Byte) []} (h : K e d pm rm) (hp : sub 0x1a0000 pm = true)
    (hr : sub 0x20000000000000000000000000000000000000000000000000000000000000000000000000000000000000 rm = true) : K e (Dev.mbAnswer d m result data) pm rm := by
  refine K.lift h hp hr ?_
  clear h hp hr
  unfold Dev.mbAnswer
  extract_lets x1
  clear_value (g1 : x1 = _)
  refine K.cutEq d 0x1a0000 0x20000000000000000000000000000000000000000000000000000000000000000000000000000000000000 g1 ?_ (fun h1 => ?_)
  rotate_left
  clear g1
  all_goals repeat' first
    | with_reducible exact K.refl _ _ _
    | with_reducible assumption
    | ((with_reducible apply Foot.mbPut); rotate_left; decide; decide)
    | ((with_reducible apply Foot.mbComplete); rotate_left; decide; decide)
    | with_reducible apply K.ite
    | ((with_reducible apply K.foldl); rotate_left; intro d x h; rotate_right)
    | ((with_reducible apply K.foldlFst); rotate_left; intro x y h; rotate_right)
    | ((with_reducible apply K.foldlSnd); rotate_left; intro x y h; rotate_right)
    | with_reducible apply K.fst_ite
    | with_reducible apply K.cond
    | with_reducible refine K.of_fst ?_ (by assumption)
    | with_reducible refine K.of_snd ?_ (by assumption)
    | (split)
    | dsimp only
    | (rw [Dev.mk_tag]; (with_reducible apply K.mk_rx); rotate_left; decide; (first | exact .inl rfl | exact .inl ⟨rfl, rfl⟩ | exact .inr ⟨by decide, by (intro w; first | exact w | exact Memory.wf_write _ _ w | exact Memory.wf_clear _ _ w | exact Memory.wf_filter _ w | exact Memory.wf_set _ _ w)⟩))
    | (rw [Dev.mk_tag]; (with_reducible apply K.mk_mbox); rotate_left; decide; (intro w; first | exact w | exact Memory.wf_write _ _ w | exact Memory.wf_clear _ _ w | exact Memory.wf_filter _ w | exact Memory.wf_set _ _ w))
    | (rw [Dev.mk_tag]; (with_reducible apply K.mk_mgmt); rotate_left; decide)
    | (rw [Dev.mk_tag]; (with_reducible apply K.mkT); rotate_left; (intro p hq; cases p <;> first | exact absurd hq (by decide) | rfl | exact ⟨rfl, rfl⟩ | exact fun _ => ⟨rfl, rfl⟩); exact fun w => w)

theorem Foot.mbOverrun {e d : Dev} {pm rm : Nat} {m : Nat} (h : K e d pm rm) (hp : sub 0x80002 pm = true)
    (hr : sub 0x8000000000000000000010000000000000000000000000000000000000000000000000000000000080000 rm = true) : K e (Dev.mbOverrun d m) pm rm := by
  refine K.lift h hp hr ?_
  clear h hp hr
  unfold Dev.mbOverrun
  extract_lets x1
  clear_value (g1 : x1 = _)
  refine K.cutEq d 0x80002 0x8000000000000000000010000000000000000000000000000000000000000000000000000000000080000 g1 ?_ (fun h1 => ?_)
  rotate_left
  clear g1
  all_goals repeat' first
    | with_reducible exact K.refl _ _ _
    | with_reducible assumption
    | ((with_reducible apply K.raise); rotate_left; (first | assumption | exact R.mem_MGMT_EVENT | exact R.mem_RX_EVENT); decide; decide; decide)
    | ((with_reducible apply Foot.mbSet); rotate_left; decide; decide)
    | with_reducible apply K.ite
    | ((with_reducible apply K.foldl); rotate_left; intro d x h; rotate_right)
    | ((with_reducible apply K.foldlFst); rotate_left; intro x y h; rotate_right)
    | ((with_reducible apply K.foldlSnd); rotate_left; intro x y h; rotate_right)
    | with_reducible apply K.fst_ite
    | with_reducible apply K.cond
    | with_reducible refine K.of_fst ?_ (by assumption)
    | with_reducible refine K.of_snd ?_ (by assumption)
    | (split)
    | dsimp only
    | (rw [Dev.mk_tag]; (with_reducible apply K.mk_log); rotate_left; decide)
    | (rw [Dev.mk_tag]; (with_reducible apply K.mk_mbox); rotate_left; decide; (intro w; first | exact w | exact Memory.wf_write _ _ w | exact Memory.wf_clear _ _ w | exact Memory.wf_filter _ w | exact Memory.wf_set _ _ w))
    | (rw [Dev.mk_tag]; (with_reducible apply K.mkT); rotate_left; (intro p hq; cases p <;> first | exact absurd hq (by decide) | rfl | exact ⟨rfl, rfl⟩ | exact fun _ => ⟨rfl, rfl⟩); exact fun w => w)

theorem Foot.mbSubmit {e d : Dev} {pm rm : Nat} {m : Nat} (h : K e d pm rm) (hp : sub 0x1a0002 pm = true)
    (hr : sub 0x28000000000000000000010000000000000000000000000000000000000000000000000000000000080000 rm = true) : K e (Dev.mbSubmit d m) pm rm := by
  refine K.lift h hp hr ?_
  clear h hp hr
  unfold Dev.mbSubmit
  extract_lets x1 x2
  clear_value (g1 : x1 = _) (g2 : x2 = _)
  refine K.cutEq d 0x1a0002 0x28000000000000000000010000000000000000000000000000000000000000000000000000000000080000 g1 ?_ (fun h1 => ?_)
  rotate_left
  clear g1
  refine K.cutEq d 0x1a0002 0x28000000000000000000010000000000000000000000000000000000000000000000000000000000080000 g2 ?_ (fun h2 => ?_)
  rotate_left
  clear g2
  all_goals repeat' first
    | with_reducible exact K.refl _ _ _
    | with_reducible assumption
    | ((with_reducible apply K.raise); rotate_left; (first | assumption | exact R.mem_MGMT_EVENT | exact R.mem_RX_EVENT); decide; decide; decide)
    | ((with_reducible apply Foot.mbOverrun); rotate_left; decide; decide)
    | ((with_reducible apply Foot.mbSet); rotate_left; decide; decide)
    | ((with_reducible apply Foot.mbAnswer); rotate_left; decide; decide)
    | with_reducible apply K.ite
    | ((with_reducible apply K.foldl); rotate_left; intro d x h; rotate_right)
    | ((with_reducible apply K.foldlFst); rotate_left; intro x y h; rotate_right)
    | ((with_reducible apply K.foldlSnd); rotate_left; intro x y h; rotate_right)
    | with_reducible apply K.fst_ite
    | with_reducible apply K.cond
    | with_reducible refine K.of_fst ?_ (by assumption)
    | with_reducible refine K.of_snd ?_ (by assumption)
    | (split)
    | dsimp only
    | (rw [Dev.mk_tag]; (with_reducible apply K.mk_log); rotate_left; decide)
    | (rw [Dev.mk_tag]; (with_reducible apply K.mk_rx); rotate_left; decide; (first | exact .inl rfl | exact .inl ⟨rfl, rfl⟩ | exact .inr ⟨by decide, by (intro w; first | exact w | exact Memory.wf_write _ _ w | exact Memory.wf_clear _ _ w | exact Memory.wf_filter _ w | exact Memory.wf_set _ _ w)⟩))
    | (rw [Dev.mk_tag]; (with_reducible apply K.mk_mbox); rotate_left; decide; (intro w; first | exact w | exact Memory.wf_write _ _ w | exact Memory.wf_clear _ _ w | exact Memory.wf_filter _ w | exact Memory.wf_set _ _ w))
    | (rw [Dev.mk_tag]; (with_reducible apply K.mk_mgmt); rotate_left; decide)
    | (rw [Dev.mk_tag]; (with_reducible apply K.mkT); rotate_left; (intro p hq; cases p <;> first | exact absurd hq (by decide) | rfl | exact ⟨rfl, rfl⟩ | exact fun _ => ⟨rfl, rfl⟩); exact fun w => w)

theorem Foot.mbAck {e d : Dev} {pm rm : Nat} {m : Nat} (h : K e d pm rm) (hp : sub 0x80000 pm = true)
    (hr : sub 0x0 rm = true) : K e (Dev.mbAck d m) pm rm := by
  refine K.lift h hp hr ?_
  clear h hp hr
  unfold Dev.mbAck
  all_goals repeat' first
    | with_reducible exact K.refl _ _ _
    | with_reducible assumption
    | ((with_reducible apply Foot.mbSet); rotate_left; decide; decide)
    | with_reducible apply K.ite
    | ((with_reducible apply K.foldl); rotate_left; intro d x h; rotate_right)
    | ((with_reducible apply K.foldlFst); rotate_left; intro x y h; rotate_right)
    | ((with_reducible apply K.foldlSnd); rotate_left; intro x y h; rotate_right)
    | with_reducible apply K.fst_ite
    | with_reducible apply K.cond
    | with_reducible refine K.of_fst ?_ (by assumption)
    | with_reducible refine K.of_snd ?_ (by assumption)
    | (split)
    | dsimp only
    | (rw [Dev.mk_tag]; (with_reducible apply K.mk_mbox); rotate_left; decide; (intro w; first | exact w | exact Memory.wf_write _ _ w | exact Memory.wf_clear _ _ w | exact Memory.wf_filter _ w | exact Memory.wf_set _ _ w))
    | (rw [Dev.mk_tag]; (with_reducible apply K.mkT); rotate_left; (intro p hq; cases p <;> first | exact absurd hq (by decide) | rfl | exact ⟨rfl, rfl⟩ | exact fun _ => ⟨rfl, rfl⟩); exact fun w => w)

theorem Foot.mbHostWrite {e d : Dev} {pm rm : Nat} {m : Nat} {o : Nat} {b : Byte} (h : K e d pm rm) (hp : sub 0x1a0002 pm = true)
    (hr : sub 0xa8000000000000000000010000000000000000000000000000000000000000000000000000000000080000 rm = true) : K e (Dev.mbHostWrite d m o b) pm rm := by
  refine K.lift h hp hr ?_
  clear h hp hr
  unfold Dev.mbHostWrite
  all_goals repeat' first
    | with_reducible exact K.refl _ _ _
    | with_reducible assumption
    | ((with_reducible apply K.put); rotate_left; (first | assumption | exact R.mem_HOST_EVENT | exact R.mem_HOST_INT_EN); decide)
    | ((with_reducible apply K.putWord); rotate_left; (first | assumption | exact R.mem_HOST_EVENT | exact R.mem_HOST_INT_EN); decide)
    | ((with_reducible apply Foot.sendIbi); rotate_left; decide; decide)
    | ((with_reducible apply Foot.mbSet); rotate_left; decide; decide)
    | ((with_reducible apply Foot.mbPut); rotate_left; decide; decide)
    | ((with_reducible apply Foot.mbSubmit); rotate_left; decide; decide)
    | ((with_reducible apply Foot.mbAck); rotate_left; decide; decide)
    | with_reducible apply K.ite
    | ((with_reducible apply K.foldl); rotate_left; intro d x h; rotate_right)
    | ((with_reducible apply K.foldlFst); rotate_left; intro x y h; rotate_right)
    | ((with_reducible apply K.foldlSnd); rotate_left; intro x y h; rotate_right)
    | with_reducible apply K.fst_ite
    | with_reducible apply K.cond
    | with_reducible refine K.of_fst ?_ (by assumption)
    | with_reducible refine K.of_snd ?_ (by assumption)
    | (split)
    | dsimp only
    | (rw [Dev.mk_tag]; (with_reducible apply K.mk_log); rotate_left; decide)
    | (rw [Dev.mk_tag]; (with_reducible apply K.mk_rx); rotate_left; decide; (first | exact .inl rfl | exact .inl ⟨rfl, rfl⟩ | exact .inr ⟨by decide, by (intro w; first | exact w | exact Memory.wf_write _ _ w | exact Memory.wf_clear _ _ w | exact Memory.wf_filter _ w | exact Memory.wf_set _ _ w)⟩))
    | (rw [Dev.mk_tag]; (with_reducible apply K.mk_mbox); rotate_left; decide; (intro w; first | exact w | exact Memory.wf_write _ _ w | exact Memory.wf_clear _ _ w | exact Memory.wf_filter _ w | exact Memory.wf_set _ _ w))
    | (rw [Dev.mk_tag]; (with_reducible apply K.mk_mgmt); rotate_left; decide)
    | (rw [Dev.mk_tag]; (with_reducible apply K.mkT); rotate_left; (intro p hq; cases p <;> first | exact absurd hq (by decide) | rfl | exact ⟨rfl, rfl⟩ | exact fun _ => ⟨rfl, rfl⟩); exact fun w => w)

end Sys2Proof.Machine
end

