-- ==== Sys2Proof/Laws/FootCodec.lean ====
section
/-! SUPPORT.  Footprints of the functions of `Machine/Codec.lean` (see `Keep.lean`): what each leaves alone. -/

set_option Elab.async false
set_option linter.all false

namespace Sys2Proof.Machine

theorem Foot.codecAt {e d : Dev} {pm rm : Nat} {q : Nat} {p : CodecProg} (h : K e d pm rm) (hp : sub 0x100 pm = true)
    (hr : sub 0x0 rm = true) : K e (Dev.codecAt d q p) pm rm := by
  refine K.lift h hp hr ?_
  clear h hp hr
  unfold Dev.codecAt
  extract_lets x1
  clear_value (g1 : x1 = _)
  subst g1
  all_goals repeat' first
    | with_reducible exact K.refl _ _ _
    | with_reducible assumption
    | with_reducible apply K.ite
    | ((with_reducible apply K.foldl); rotate_left; intro d x h; rotate_right)
    | ((with_reducible apply K.foldlFst); rotate_left; intro x y h; rotate_right)
    | ((with_reducible apply K.foldlSnd); rotate_left; intro x y h; rotate_right)
    | with_reducible apply K.fst_ite
    | with_reducible apply K.cond
    | with_reducible refine K.of_fst ?_ (by assumption)
    | with_reducible refine K.of_snd ?_ (by assumption)
    | (split)
    | dsimp only
    | (rw [Dev.mk_tag]; (with_reducible apply K.mk_codec); rotate_left; decide)
    | (rw [Dev.mk_tag]; (with_reducible apply K.mkT); rotate_left; (intro p hq; cases p <;> first | exact absurd hq (by decide) | rfl | exact ⟨rfl, rfl⟩ | exact fun _ => ⟨rfl, rfl⟩); exact fun w => w)

theorem Foot.setCtx {e d : Dev} {pm rm : Nat} {c : Nat} {x0 : Option StreamCtx} (h : K e d pm rm) (hp : sub 0x100 pm = true)
    (hr : sub 0x0 rm = true) : K e (Dev.setCtx d c x0) pm rm := by
  refine K.lift h hp hr ?_
  clear h hp hr
  unfold Dev.setCtx
  extract_lets x1
  clear_value (g1 : x1 = _)
  subst g1
  all_goals repeat' first
    | with_reducible exact K.refl _ _ _
    | with_reducible assumption
    | with_reducible apply K.ite
    | ((with_reducible apply K.foldl); rotate_left; intro d x h; rotate_right)
    | ((with_reducible apply K.foldlFst); rotate_left; intro x y h; rotate_right)
    | ((with_reducible apply K.foldlSnd); rotate_left; intro x y h; rotate_right)
    | with_reducible apply K.fst_ite
    | with_reducible apply K.cond
    | with_reducible refine K.of_fst ?_ (by assumption)
    | with_reducible refine K.of_snd ?_ (by assumption)
    | (split)
    | dsimp only
    | (rw [Dev.mk_tag]; (with_reducible apply K.mk_codec); rotate_left; decide)
    | (rw [Dev.mk_tag]; (with_reducible apply K.mkT); rotate_left; (intro p hq; cases p <;> first | exact absurd hq (by decide) | rfl | exact ⟨rfl, rfl⟩ | exact fun _ => ⟨rfl, rfl⟩); exact fun w => w)

theorem Foot.CodecProg_once {e d : Dev} {pm rm : Nat} {p : CodecProg} {n : Nat} {e0 : Event} (h : K e d pm rm) (hp : sub 0x2 pm = true)
    (hr : sub 0x80000 rm = true) (hm_e0 : Reg.inMap e0.reg = true) (hx_e0 : rm.testBit e0.reg.no = true) : K e (CodecProg.once p n e0 d).1 pm rm := by
  unfold CodecProg.once
  all_goals repeat' first
    | with_reducible exact K.refl _ _ _
    | with_reducible assumption
    | ((with_reducible apply K.raise); rotate_left; (first | assumption); (first | decide | assumption | exact sub_trans (by decide) hp | exact sub_trans (by decide) hr | exact sub_testBit' hp (by decide) | exact sub_testBit' hr (by decide)); (first | decide | assumption | exact sub_trans (by decide) hp | exact sub_trans (by decide) hr | exact sub_testBit' hp (by decide) | exact sub_testBit' hr (by decide)); (first | decide | assumption | exact sub_trans (by decide) hp | exact sub_trans (by decide) hr | exact sub_testBit' hp (by decide) | exact sub_testBit' hr (by decide)))
    | with_reducible apply K.ite
    | ((with_reducible apply K.foldl); rotate_left; intro d x h; rotate_right)
    | ((with_reducible apply K.foldlFst); rotate_left; intro x y h; rotate_right)
    | ((with_reducible apply K.foldlSnd); rotate_left; intro x y h; rotate_right)
    | with_reducible apply K.fst_ite
    | with_reducible apply K.cond
    | with_reducible refine K.of_fst ?_ (by assumption)
    | with_reducible refine K.of_snd ?_ (by assumption)
    | (split)
    | dsimp only
    | (rw [Dev.mk_tag]; (with_reducible apply K.mk_log); rotate_left; (first | decide | assumption | exact sub_trans (by decide) hp | exact sub_trans (by decide) hr | exact sub_testBit' hp (by decide) | exact sub_testBit' hr (by decide)))
    | (rw [Dev.mk_tag]; (with_reducible apply K.mkT); rotate_left; (intro p hq; cases p <;> first | exact absurd hq (by (first | decide | assumption | exact sub_trans (by decide) hp | exact sub_trans (by decide) hr | exact sub_testBit' hp (by decide) | exact sub_testBit' hr (by decide))) | rfl | exact ⟨rfl, rfl⟩ | exact fun _ => ⟨rfl, rfl⟩); exact fun w => w)

theorem Foot.blockCheckRecord {e d : Dev} {pm rm : Nat} {source : Nat} {line : Nat} {seg : Nat} (h : K e d pm rm) (hp : sub 0x0 pm = true)
    (hr : sub 0x2800000000000000000000000000000000000000 rm = true) : K e (Dev.blockCheckRecord d source line seg) pm rm := by
  refine K.lift h hp hr ?_
  clear h hp hr
  unfold Dev.blockCheckRecord
  all_goals repeat' first
    | with_reducible exact K.refl _ _ _
    | with_reducible assumption
    | ((with_reducible apply K.put); rotate_left; (first | assumption | exact R.mem_BLOCK_CHECK_COUNT | exact R.mem_CHECK_STATUS); decide)
    | ((with_reducible apply K.inc); rotate_left; (first | assumption | exact R.mem_BLOCK_CHECK_COUNT | exact R.mem_CHECK_STATUS); decide)
    | with_reducible apply K.ite
    | ((with_reducible apply K.foldl); rotate_left; intro d x h; rotate_right)
    | ((with_reducible apply K.foldlFst); rotate_left; intro x y h; rotate_right)
    | ((with_reducible apply K.foldlSnd); rotate_left; intro x y h; rotate_right)
    | with_reducible apply K.fst_ite
    | with_reducible apply K.cond
    | with_reducible refine K.of_fst ?_ (by assumption)
    | with_reducible refine K.of_snd ?_ (by assumption)
    | (split)
    | dsimp only
    | (rw [Dev.mk_tag]; (with_reducible apply K.mkT); rotate_left; (intro p hq; cases p <;> first | exact absurd hq (by decide) | rfl | exact ⟨rfl, rfl⟩ | exact fun _ => ⟨rfl, rfl⟩); exact fun w => w)

theorem Foot.freeTail {e d : Dev} {pm rm : Nat} {x0 : XAddr} {written : Nat} {slot : Nat} (h : K e d pm rm) (hp : sub 0x180000a1 pm = true)
    (hr : sub 0x0 rm = true) : K e (Dev.freeTail d x0 written slot) pm rm := by
  refine K.lift h hp hr ?_
  clear h hp hr
  unfold Dev.freeTail
  all_goals repeat' first
    | with_reducible exact K.refl _ _ _
    | with_reducible assumption
    | ((with_reducible apply Foot.fresh); rotate_left; decide; decide)
    | with_reducible apply K.ite
    | ((with_reducible apply K.foldl); rotate_left; intro d x h; rotate_right)
    | ((with_reducible apply K.foldlFst); rotate_left; intro x y h; rotate_right)
    | ((with_reducible apply K.foldlSnd); rotate_left; intro x y h; rotate_right)
    | with_reducible apply K.fst_ite
    | with_reducible apply K.cond
    | with_reducible refine K.of_fst ?_ (by assumption)
    | with_reducible refine K.of_snd ?_ (by assumption)
    | (split)
    | dsimp only
    | (rw [Dev.mk_tag]; (with_reducible apply K.mk_free); rotate_left; decide)
    | (rw [Dev.mk_tag]; (with_reducible apply K.mk_ls); rotate_left; decide; (first | exact .inl rfl | exact .inl ⟨rfl, rfl⟩ | exact .inr ⟨by decide, by (intro w; first | exact w | exact Memory.wf_write _ _ w | exact Memory.wf_clear _ _ w | exact Memory.wf_filter _ w | exact Memory.wf_set _ _ w)⟩))
    | (rw [Dev.mk_tag]; (with_reducible apply K.mk_dram); rotate_left; decide; (first | exact .inl rfl | exact .inl ⟨rfl, rfl⟩ | exact .inr ⟨by decide, by (intro w; first | exact w | exact Memory.wf_write _ _ w | exact Memory.wf_clear _ _ w | exact Memory.wf_filter _ w | exact Memory.wf_set _ _ w)⟩))
    | (rw [Dev.mk_tag]; (with_reducible apply K.mkT); rotate_left; (intro p hq; cases p <;> first | exact absurd hq (by decide) | rfl | exact ⟨rfl, rfl⟩ | exact fun _ => ⟨rfl, rfl⟩); exact fun w => w)

theorem Foot.encodeSeg {e d : Dev} {pm rm : Nat} {q : Nat} {g : CodecDesc} {p : CodecProg} {y : Nat} {k0 : Nat} {fault : Bool} (h : K e d pm rm) (hp : sub 0x180000a7 pm = true)
    (hr : sub 0x800000000000000000000a368281a800680000040000400000000000003000000080000 rm = true) : K e (Dev.encodeSeg d q g p y k0 fault).1 pm rm := by
  refine K.lift h hp hr ?_
  clear h hp hr
  unfold Dev.encodeSeg
  extract_lets x1 x2
  clear_value (g1 : x1 = _) (g2 : x2 = _)
  clear g1
  subst g2
  all_goals repeat' first
    | with_reducible exact K.refl _ _ _
    | with_reducible assumption
    | ((with_reducible apply K.inc); rotate_left; (first | assumption | exact R.mem_BOUND_FAIL_COUNT | exact R.mem_CODEC_EVENT | exact R.mem_CORR_EVENT | exact R.mem_DRIVE_EVENT | exact R.mem_VERIFY_MISMATCH_COUNT); decide)
    | ((with_reducible apply Foot.xread); rotate_left; decide; decide)
    | ((with_reducible apply Foot.CodecProg_once); rotate_left; decide; decide; (first | assumption | (first | assumption | exact R.mem_BOUND_FAIL_COUNT | exact R.mem_CODEC_EVENT | exact R.mem_CORR_EVENT | exact R.mem_DRIVE_EVENT | exact R.mem_VERIFY_MISMATCH_COUNT) | decide); (first | assumption | (first | assumption | exact R.mem_BOUND_FAIL_COUNT | exact R.mem_CODEC_EVENT | exact R.mem_CORR_EVENT | exact R.mem_DRIVE_EVENT | exact R.mem_VERIFY_MISMATCH_COUNT) | decide))
    | ((with_reducible apply Foot.runChunks); rotate_left; decide; decide)
    | ((with_reducible apply Foot.freeTail); rotate_left; decide; decide)
    | with_reducible apply K.ite
    | ((with_reducible apply K.foldl); rotate_left; intro d x h; rotate_right)
    | ((with_reducible apply K.foldlFst); rotate_left; intro x y h; rotate_right)
    | ((with_reducible apply K.foldlSnd); rotate_left; intro x y h; rotate_right)
    | with_reducible apply K.fst_ite
    | with_reducible apply K.cond
    | with_reducible refine K.of_fst ?_ (by assumption)
    | with_reducible refine K.of_snd ?_ (by assumption)
    | (split)
    | dsimp only
    | (rw [Dev.mk_tag]; (with_reducible apply K.mk_free); rotate_left; decide)
    | (rw [Dev.mk_tag]; (with_reducible apply K.mk_log); rotate_left; decide)
    | (rw [Dev.mk_tag]; (with_reducible apply K.mk_held); rotate_left; decide)
    | (rw [Dev.mk_tag]; (with_reducible apply K.mk_ls); rotate_left; decide; (first | exact .inl rfl | exact .inl ⟨rfl, rfl⟩ | exact .inr ⟨by decide, by (intro w; first | exact w | exact Memory.wf_write _ _ w | exact Memory.wf_clear _ _ w | exact Memory.wf_filter _ w | exact Memory.wf_set _ _ w)⟩))
    | (rw [Dev.mk_tag]; (with_reducible apply K.mk_dram); rotate_left; decide; (first | exact .inl rfl | exact .inl ⟨rfl, rfl⟩ | exact .inr ⟨by decide, by (intro w; first | exact w | exact Memory.wf_write _ _ w | exact Memory.wf_clear _ _ w | exact Memory.wf_filter _ w | exact Memory.wf_set _ _ w)⟩))
    | (rw [Dev.mk_tag]; (with_reducible apply K.mkT); rotate_left; (intro p hq; cases p <;> first | exact absurd hq (by decide) | rfl | exact ⟨rfl, rfl⟩ | exact fun _ => ⟨rfl, rfl⟩); exact fun w => w)

theorem Foot.decodeSeg {e d : Dev} {pm rm : Nat} {q : Nat} {g : CodecDesc} {p : CodecProg} {y : Nat} {k0 : Nat} (h : K e d pm rm) (hp : sub 0x180000a7 pm = true)
    (hr : sub 0x800000000000000000000a368281a802880000040000400000000000003000000080000 rm = true) : K e (Dev.decodeSeg d q g p y k0).1 pm rm := by
  refine K.lift h hp hr ?_
  clear h hp hr
  unfold Dev.decodeSeg
  extract_lets x1 x2
  clear_value (g1 : x1 = _) (g2 : x2 = _)
  clear g1
  clear g2
  all_goals repeat' first
    | with_reducible exact K.refl _ _ _
    | with_reducible assumption
    | ((with_reducible apply Foot.lsRead); rotate_left; decide; decide)
    | ((with_reducible apply Foot.xread); rotate_left; decide; decide)
    | ((with_reducible apply Foot.fresh); rotate_left; decide; decide)
    | ((with_reducible apply Foot.blockCheckRecord); rotate_left; decide; decide)
    | ((with_reducible apply Foot.CodecProg_once); rotate_left; decide; decide; (first | assumption | (first | assumption | exact R.mem_CODEC_EVENT | exact R.mem_CORR_EVENT | exact R.mem_DRIVE_EVENT) | decide); (first | assumption | (first | assumption | exact R.mem_CODEC_EVENT | exact R.mem_CORR_EVENT | exact R.mem_DRIVE_EVENT) | decide))
    | ((with_reducible apply Foot.lsWrite); rotate_left; decide; decide)
    | ((with_reducible apply Foot.runChunks); rotate_left; decide; decide)
    | with_reducible apply K.ite
    | ((with_reducible apply K.foldl); rotate_left; intro d x h; rotate_right)
    | ((with_reducible apply K.foldlFst); rotate_left; intro x y h; rotate_right)
    | ((with_reducible apply K.foldlSnd); rotate_left; intro x y h; rotate_right)
    | with_reducible apply K.fst_ite
    | with_reducible apply K.cond
    | with_reducible refine K.of_fst ?_ (by assumption)
    | with_reducible refine K.of_snd ?_ (by assumption)
    | (split)
    | dsimp only
    | (rw [Dev.mk_tag]; (with_reducible apply K.mk_free); rotate_left; decide)
    | (rw [Dev.mk_tag]; (with_reducible apply K.mk_log); rotate_left; decide)
    | (rw [Dev.mk_tag]; (with_reducible apply K.mk_held); rotate_left; decide)
    | (rw [Dev.mk_tag]; (with_reducible apply K.mk_ls); rotate_left; decide; (first | exact .inl rfl | exact .inl ⟨rfl, rfl⟩ | exact .inr ⟨by decide, by (intro w; first | exact w | exact Memory.wf_write _ _ w | exact Memory.wf_clear _ _ w | exact Memory.wf_filter _ w | exact Memory.wf_set _ _ w)⟩))
    | (rw [Dev.mk_tag]; (with_reducible apply K.mk_dram); rotate_left; decide; (first | exact .inl rfl | exact .inl ⟨rfl, rfl⟩ | exact .inr ⟨by decide, by (intro w; first | exact w | exact Memory.wf_write _ _ w | exact Memory.wf_clear _ _ w | exact Memory.wf_filter _ w | exact Memory.wf_set _ _ w)⟩))
    | (rw [Dev.mk_tag]; (with_reducible apply K.mkT); rotate_left; (intro p hq; cases p <;> first | exact absurd hq (by decide) | rfl | exact ⟨rfl, rfl⟩ | exact fun _ => ⟨rfl, rfl⟩); exact fun w => w)

theorem Foot.blockRun {e d : Dev} {pm rm : Nat} {q : Nat} {g : CodecDesc} {faults : List Nat} {n : Nat} {p : CodecProg} (h : K e d pm rm) (hp : sub 0x180001a7 pm = true)
    (hr : sub 0x800000000000000000000a368281a802e80000040000400000000000003000000080000 rm = true) : K e (Dev.blockRun q g faults n p d) pm rm := by
  induction n generalizing d p with
  | zero =>
    unfold Dev.blockRun
    exact Foot.codecAt h (sub_trans (by decide) hp) (sub_trans (by decide) hr)
  | succ n ih =>
    unfold Dev.blockRun
    split
    · exact Foot.codecAt h (sub_trans (by decide) hp) (sub_trans (by decide) hr)
    · have h2 : K e (if g.encodes = true then d.encodeSeg q g p (p.next / g.segs) (p.next % g.segs) (faults.contains p.next)
          else d.decodeSeg q g p (p.next / g.segs) (p.next % g.segs)).1 pm rm := by
        split
        · exact Foot.encodeSeg h (sub_trans (by decide) hp) (sub_trans (by decide) hr)
        · exact Foot.decodeSeg h (sub_trans (by decide) hp) (sub_trans (by decide) hr)
      dsimp only
      generalize (if g.encodes = true then d.encodeSeg q g p (p.next / g.segs) (p.next % g.segs) (faults.contains p.next)
          else d.decodeSeg q g p (p.next / g.segs) (p.next % g.segs)) = x at h2
      obtain ⟨d2, p2, e2⟩ := x
      dsimp only
      split
      · exact ih h2
      · exact Foot.codecAt h2 (sub_trans (by decide) hp) (sub_trans (by decide) hr)
      · exact Foot.codecAt h2 (sub_trans (by decide) hp) (sub_trans (by decide) hr)

theorem Foot.winPush {e d : Dev} {pm rm : Nat} {c : Nat} {total : Nat} {bs : List Byte} (h : K e d pm rm) (hp : sub 0x8000022 pm = true)
    (hr : sub 0x281a800000000040000400000000000000000000080000 rm = true) : K e (Dev.winPush d c total bs) pm rm := by
  refine K.lift h hp hr ?_
  clear h hp hr
  unfold Dev.winPush
  all_goals repeat' first
    | with_reducible exact K.refl _ _ _
    | with_reducible assumption
    | ((with_reducible apply Foot.lsWrite); rotate_left; decide; decide)
    | with_reducible apply K.ite
    | ((with_reducible apply K.each); rotate_left; intro d x h; rotate_right)
    | ((with_reducible apply K.foldl); rotate_left; intro d x h; rotate_right)
    | ((with_reducible apply K.foldlFst); rotate_left; intro x y h; rotate_right)
    | ((with_reducible apply K.foldlSnd); rotate_left; intro x y h; rotate_right)
    | with_reducible apply K.fst_ite
    | with_reducible apply K.cond
    | with_reducible refine K.of_fst ?_ (by assumption)
    | with_reducible refine K.of_snd ?_ (by assumption)
    | (split)
    | dsimp only
    | (rw [Dev.mk_tag]; (with_reducible apply K.mk_log); rotate_left; decide)
    | (rw [Dev.mk_tag]; (with_reducible apply K.mk_ls); rotate_left; decide; (first | exact .inl rfl | exact .inl ⟨rfl, rfl⟩ | exact .inr ⟨by decide, by (intro w; first | exact w | exact Memory.wf_write _ _ w | exact Memory.wf_clear _ _ w | exact Memory.wf_filter _ w | exact Memory.wf_set _ _ w)⟩))
    | (rw [Dev.mk_tag]; (with_reducible apply K.mkT); rotate_left; (intro p hq; cases p <;> first | exact absurd hq (by decide) | rfl | exact ⟨rfl, rfl⟩ | exact fun _ => ⟨rfl, rfl⟩); exact fun w => w)

theorem Foot.winRead {e d : Dev} {pm rm : Nat} {c : Nat} {total : Nat} {n : Nat} (h : K e d pm rm) (hp : sub 0x22 pm = true)
    (hr : sub 0x281a800000000000000000000000000000000000080000 rm = true) : K e (Dev.winRead d c total n).1 pm rm := by
  refine K.lift h hp hr ?_
  clear h hp hr
  unfold Dev.winRead
  all_goals repeat' first
    | with_reducible exact K.refl _ _ _
    | with_reducible assumption
    | ((with_reducible apply Foot.lsRead); rotate_left; decide; decide)
    | with_reducible apply K.ite
    | ((with_reducible apply K.foldl); rotate_left; intro d x h; rotate_right)
    | ((with_reducible apply K.foldlFst); rotate_left; intro x y h; rotate_right)
    | ((with_reducible apply K.foldlSnd); rotate_left; intro x y h; rotate_right)
    | with_reducible apply K.fst_ite
    | with_reducible apply K.cond
    | with_reducible refine K.of_fst ?_ (by assumption)
    | with_reducible refine K.of_snd ?_ (by assumption)
    | (split)
    | dsimp only
    | (rw [Dev.mk_tag]; (with_reducible apply K.mk_log); rotate_left; decide)
    | (rw [Dev.mk_tag]; (with_reducible apply K.mk_ls); rotate_left; decide; (first | exact .inl rfl | exact .inl ⟨rfl, rfl⟩ | exact .inr ⟨by decide, by (intro w; first | exact w | exact Memory.wf_write _ _ w | exact Memory.wf_clear _ _ w | exact Memory.wf_filter _ w | exact Memory.wf_set _ _ w)⟩))
    | (rw [Dev.mk_tag]; (with_reducible apply K.mkT); rotate_left; (intro p hq; cases p <;> first | exact absurd hq (by decide) | rfl | exact ⟨rfl, rfl⟩ | exact fun _ => ⟨rfl, rfl⟩); exact fun w => w)

theorem Foot.readSource {e d : Dev} {pm rm : Nat} {g : CodecDesc} (h : K e d pm rm) (hp : sub 0xa2 pm = true)
    (hr : sub 0x800000000000000000000a368281a800000000000000000000000000000000000080000 rm = true) : K e (Dev.readSource d g).1 pm rm := by
  refine K.lift h hp hr ?_
  clear h hp hr
  unfold Dev.readSource
  all_goals repeat' first
    | with_reducible exact K.refl _ _ _
    | with_reducible assumption
    | ((with_reducible apply Foot.xread); rotate_left; decide; decide)
    | with_reducible apply K.ite
    | ((with_reducible apply K.foldl); rotate_left; intro d x h; rotate_right)
    | ((with_reducible apply K.foldlFst); rotate_left; intro x y h; rotate_right)
    | ((with_reducible apply K.foldlSnd); rotate_left; intro x y h; rotate_right)
    | with_reducible apply K.fst_ite
    | with_reducible apply K.cond
    | with_reducible refine K.of_fst ?_ (by assumption)
    | with_reducible refine K.of_snd ?_ (by assumption)
    | (split)
    | dsimp only
    | (rw [Dev.mk_tag]; (with_reducible apply K.mk_log); rotate_left; decide)
    | (rw [Dev.mk_tag]; (with_reducible apply K.mk_ls); rotate_left; decide; (first | exact .inl rfl | exact .inl ⟨rfl, rfl⟩ | exact .inr ⟨by decide, by (intro w; first | exact w | exact Memory.wf_write _ _ w | exact Memory.wf_clear _ _ w | exact Memory.wf_filter _ w | exact Memory.wf_set _ _ w)⟩))
    | (rw [Dev.mk_tag]; (with_reducible apply K.mk_dram); rotate_left; decide; (first | exact .inl rfl | exact .inl ⟨rfl, rfl⟩ | exact .inr ⟨by decide, by (intro w; first | exact w | exact Memory.wf_write _ _ w | exact Memory.wf_clear _ _ w | exact Memory.wf_filter _ w | exact Memory.wf_set _ _ w)⟩))
    | (rw [Dev.mk_tag]; (with_reducible apply K.mkT); rotate_left; (intro p hq; cases p <;> first | exact absurd hq (by decide) | rfl | exact ⟨rfl, rfl⟩ | exact fun _ => ⟨rfl, rfl⟩); exact fun w => w)

theorem Foot.sourceRun {e d : Dev} {pm rm : Nat} {g : CodecDesc} {y : StreamCtx} {n pos : Nat} {inp : List Byte} {r : SRun} (h : K e d pm rm) (hp : sub 0xa2 pm = true)
    (hr : sub 0x800000000000000000000a368281a800000000000000000000000000000000000080000 rm = true) : K e (Dev.sourceRun g y n pos inp r d).1 pm rm := by
  induction n generalizing d pos inp r with
  | zero =>
    unfold Dev.sourceRun
    exact h
  | succ n ih =>
    unfold Dev.sourceRun
    dsimp only
    generalize decompress y.total y.crc (g.isLast && !decide (pos < g.srcLen)) g.dstLen (runFuel inp.length g.dstLen) inp r = z
    obtain ⟨r2, stop⟩ := z
    dsimp only
    split
    · split
      · exact h
      · have h2 : K e (d.xread codecLs codecDram (g.src.plus pos) (g.srcStep pos)).1 pm rm :=
          Foot.xread h (sub_trans (by decide) hp) (sub_trans (by decide) hr)
        generalize d.xread codecLs codecDram (g.src.plus pos) (g.srcStep pos) = w at h2
        obtain ⟨d2, st, b⟩ := w
        dsimp only
        split
        · exact ih h2
        · exact h2
    · exact h

theorem Foot.streamOut {e d : Dev} {pm rm : Nat} {q : Nat} {g : CodecDesc} {out : List Byte} {p : CodecProg} (h : K e d pm rm) (hp : sub 0x180001a6 pm = true)
    (hr : sub 0x800000000000000000000a368281a800000000040000400000000000003000000080000 rm = true) : K e (Dev.streamOut d q g out p) pm rm := by
  refine K.lift h hp hr ?_
  clear h hp hr
  unfold Dev.streamOut
  all_goals repeat' first
    | with_reducible exact K.refl _ _ _
    | with_reducible assumption
    | ((with_reducible apply Foot.runChunks); rotate_left; decide; decide)
    | ((with_reducible apply Foot.codecAt); rotate_left; decide; decide)
    | with_reducible apply K.ite
    | ((with_reducible apply K.foldl); rotate_left; intro d x h; rotate_right)
    | ((with_reducible apply K.foldlFst); rotate_left; intro x y h; rotate_right)
    | ((with_reducible apply K.foldlSnd); rotate_left; intro x y h; rotate_right)
    | with_reducible apply K.fst_ite
    | with_reducible apply K.cond
    | with_reducible refine K.of_fst ?_ (by assumption)
    | with_reducible refine K.of_snd ?_ (by assumption)
    | (split)
    | dsimp only
    | (rw [Dev.mk_tag]; (with_reducible apply K.mk_log); rotate_left; decide)
    | (rw [Dev.mk_tag]; (with_reducible apply K.mk_held); rotate_left; decide)
    | (rw [Dev.mk_tag]; (with_reducible apply K.mk_ls); rotate_left; decide; (first | exact .inl rfl | exact .inl ⟨rfl, rfl⟩ | exact .inr ⟨by decide, by (intro w; first | exact w | exact Memory.wf_write _ _ w | exact Memory.wf_clear _ _ w | exact Memory.wf_filter _ w | exact Memory.wf_set _ _ w)⟩))
    | (rw [Dev.mk_tag]; (with_reducible apply K.mk_dram); rotate_left; decide; (first | exact .inl rfl | exact .inl ⟨rfl, rfl⟩ | exact .inr ⟨by decide, by (intro w; first | exact w | exact Memory.wf_write _ _ w | exact Memory.wf_clear _ _ w | exact Memory.wf_filter _ w | exact Memory.wf_set _ _ w)⟩))
    | (rw [Dev.mk_tag]; (with_reducible apply K.mk_codec); rotate_left; decide)
    | (rw [Dev.mk_tag]; (with_reducible apply K.mkT); rotate_left; (intro p hq; cases p <;> first | exact absurd hq (by decide) | rfl | exact ⟨rfl, rfl⟩ | exact fun _ => ⟨rfl, rfl⟩); exact fun w => w)

theorem Foot.decompressDesc {e d : Dev} {pm rm : Nat} {q : Nat} {g : CodecDesc} {x0 : StreamCtx} (h : K e d pm rm) (hp : sub 0x180001a6 pm = true)
    (hr : sub 0x800000000000000000000a368281a800080000040000400000000000003000000080000 rm = true) : K e (Dev.decompressDesc d q g x0) pm rm := by
  refine K.lift h hp hr ?_
  clear h hp hr
  unfold Dev.decompressDesc
  all_goals repeat' first
    | with_reducible exact K.refl _ _ _
    | with_reducible assumption
    | ((with_reducible apply K.raise); rotate_left; (first | assumption | exact R.mem_CODEC_EVENT | exact R.mem_CORR_EVENT | exact R.mem_DRIVE_EVENT); decide; decide; decide)
    | ((with_reducible apply Foot.sourceRun); rotate_left; decide; decide)
    | ((with_reducible apply Foot.winRead); rotate_left; decide; decide)
    | ((with_reducible apply Foot.codecAt); rotate_left; decide; decide)
    | ((with_reducible apply Foot.winPush); rotate_left; decide; decide)
    | ((with_reducible apply Foot.setCtx); rotate_left; decide; decide)
    | ((with_reducible apply Foot.streamOut); rotate_left; decide; decide)
    | with_reducible apply K.ite
    | ((with_reducible apply K.foldl); rotate_left; intro d x h; rotate_right)
    | ((with_reducible apply K.foldlFst); rotate_left; intro x y h; rotate_right)
    | ((with_reducible apply K.foldlSnd); rotate_left; intro x y h; rotate_right)
    | with_reducible apply K.fst_ite
    | with_reducible apply K.cond
    | with_reducible refine K.of_fst ?_ (by assumption)
    | with_reducible refine K.of_snd ?_ (by assumption)
    | (split)
    | dsimp only
    | (rw [Dev.mk_tag]; (with_reducible apply K.mk_log); rotate_left; decide)
    | (rw [Dev.mk_tag]; (with_reducible apply K.mk_held); rotate_left; decide)
    | (rw [Dev.mk_tag]; (with_reducible apply K.mk_ls); rotate_left; decide; (first | exact .inl rfl | exact .inl ⟨rfl, rfl⟩ | exact .inr ⟨by decide, by (intro w; first | exact w | exact Memory.wf_write _ _ w | exact Memory.wf_clear _ _ w | exact Memory.wf_filter _ w | exact Memory.wf_set _ _ w)⟩))
    | (rw [Dev.mk_tag]; (with_reducible apply K.mk_dram); rotate_left; decide; (first | exact .inl rfl | exact .inl ⟨rfl, rfl⟩ | exact .inr ⟨by decide, by (intro w; first | exact w | exact Memory.wf_write _ _ w | exact Memory.wf_clear _ _ w | exact Memory.wf_filter _ w | exact Memory.wf_set _ _ w)⟩))
    | (rw [Dev.mk_tag]; (with_reducible apply K.mk_codec); rotate_left; decide)
    | (rw [Dev.mk_tag]; (with_reducible apply K.mkT); rotate_left; (intro p hq; cases p <;> first | exact absurd hq (by decide) | rfl | exact ⟨rfl, rfl⟩ | exact fun _ => ⟨rfl, rfl⟩); exact fun w => w)

theorem Foot.compressDesc {e d : Dev} {pm rm : Nat} {q : Nat} {g : CodecDesc} {x0 : StreamCtx} (h : K e d pm rm) (hp : sub 0x180001a6 pm = true)
    (hr : sub 0x800000000000000000000a368281a800000000040000400000000000003000000080000 rm = true) : K e (Dev.compressDesc d q g x0) pm rm := by
  refine K.lift h hp hr ?_
  clear h hp hr
  unfold Dev.compressDesc
  extract_lets x1
  clear_value (g1 : x1 = _)
  clear g1
  all_goals repeat' first
    | with_reducible exact K.refl _ _ _
    | with_reducible assumption
    | ((with_reducible apply Foot.readSource); rotate_left; decide; decide)
    | ((with_reducible apply Foot.winRead); rotate_left; decide; decide)
    | ((with_reducible apply Foot.codecAt); rotate_left; decide; decide)
    | ((with_reducible apply Foot.setCtx); rotate_left; decide; decide)
    | ((with_reducible apply Foot.winPush); rotate_left; decide; decide)
    | ((with_reducible apply Foot.streamOut); rotate_left; decide; decide)
    | with_reducible apply K.ite
    | ((with_reducible apply K.foldl); rotate_left; intro d x h; rotate_right)
    | ((with_reducible apply K.foldlFst); rotate_left; intro x y h; rotate_right)
    | ((with_reducible apply K.foldlSnd); rotate_left; intro x y h; rotate_right)
    | with_reducible apply K.fst_ite
    | with_reducible apply K.cond
    | with_reducible refine K.of_fst ?_ (by assumption)
    | with_reducible refine K.of_snd ?_ (by assumption)
    | (split)
    | dsimp only
    | (rw [Dev.mk_tag]; (with_reducible apply K.mk_log); rotate_left; decide)
    | (rw [Dev.mk_tag]; (with_reducible apply K.mk_held); rotate_left; decide)
    | (rw [Dev.mk_tag]; (with_reducible apply K.mk_ls); rotate_left; decide; (first | exact .inl rfl | exact .inl ⟨rfl, rfl⟩ | exact .inr ⟨by decide, by (intro w; first | exact w | exact Memory.wf_write _ _ w | exact Memory.wf_clear _ _ w | exact Memory.wf_filter _ w | exact Memory.wf_set _ _ w)⟩))
    | (rw [Dev.mk_tag]; (with_reducible apply K.mk_dram); rotate_left; decide; (first | exact .inl rfl | exact .inl ⟨rfl, rfl⟩ | exact .inr ⟨by decide, by (intro w; first | exact w | exact Memory.wf_write _ _ w | exact Memory.wf_clear _ _ w | exact Memory.wf_filter _ w | exact Memory.wf_set _ _ w)⟩))
    | (rw [Dev.mk_tag]; (with_reducible apply K.mk_codec); rotate_left; decide)
    | (rw [Dev.mk_tag]; (with_reducible apply K.mkT); rotate_left; (intro p hq; cases p <;> first | exact absurd hq (by decide) | rfl | exact ⟨rfl, rfl⟩ | exact fun _ => ⟨rfl, rfl⟩); exact fun w => w)

theorem Foot.codecServe {e d : Dev} {pm rm : Nat} {q : Nat} {op : Nat} {faults : List Nat} (h : K e d pm rm) (hp : sub 0x180001a7 pm = true)
    (hr : sub 0x800000000000000000000a368281a802e80000040000400000000000003000000080000 rm = true) : K e (Dev.codecServe d q op faults) pm rm := by
  refine K.lift h hp hr ?_
  clear h hp hr
  unfold Dev.codecServe
  extract_lets x1
  clear_value (g1 : x1 = _)
  refine K.cutEq d 0x180001a7 0x800000000000000000000a368281a802e80000040000400000000000003000000080000 g1 ?_ (fun h1 => ?_)
  rotate_left
  clear g1
  all_goals repeat' first
    | with_reducible exact K.refl _ _ _
    | with_reducible assumption
    | ((with_reducible apply Foot.wakeNow); rotate_left; decide; decide)
    | ((with_reducible apply Foot.lsRead); rotate_left; decide; decide)
    | ((with_reducible apply Foot.codecAt); rotate_left; decide; decide)
    | ((with_reducible apply Foot.decompressDesc); rotate_left; decide; decide)
    | ((with_reducible apply Foot.compressDesc); rotate_left; decide; decide)
    | ((with_reducible apply Foot.blockRun); rotate_left; decide; decide)
    | with_reducible apply K.ite
    | ((with_reducible apply K.foldl); rotate_left; intro d x h; rotate_right)
    | ((with_reducible apply K.foldlFst); rotate_left; intro x y h; rotate_right)
    | ((with_reducible apply K.foldlSnd); rotate_left; intro x y h; rotate_right)
    | with_reducible apply K.fst_ite
    | with_reducible apply K.cond
    | with_reducible refine K.of_fst ?_ (by assumption)
    | with_reducible refine K.of_snd ?_ (by assumption)
    | (split)
    | dsimp only
    | (rw [Dev.mk_tag]; (with_reducible apply K.mk_free); rotate_left; decide)
    | (rw [Dev.mk_tag]; (with_reducible apply K.mk_log); rotate_left; decide)
    | (rw [Dev.mk_tag]; (with_reducible apply K.mk_held); rotate_left; decide)
    | (rw [Dev.mk_tag]; (with_reducible apply K.mk_ls); rotate_left; decide; (first | exact .inl rfl | exact .inl ⟨rfl, rfl⟩ | exact .inr ⟨by decide, by (intro w; first | exact w | exact Memory.wf_write _ _ w | exact Memory.wf_clear _ _ w | exact Memory.wf_filter _ w | exact Memory.wf_set _ _ w)⟩))
    | (rw [Dev.mk_tag]; (with_reducible apply K.mk_dram); rotate_left; decide; (first | exact .inl rfl | exact .inl ⟨rfl, rfl⟩ | exact .inr ⟨by decide, by (intro w; first | exact w | exact Memory.wf_write _ _ w | exact Memory.wf_clear _ _ w | exact Memory.wf_filter _ w | exact Memory.wf_set _ _ w)⟩))
    | (rw [Dev.mk_tag]; (with_reducible apply K.mk_codec); rotate_left; decide)
    | (rw [Dev.mk_tag]; (with_reducible apply K.mkT); rotate_left; (intro p hq; cases p <;> first | exact absurd hq (by decide) | rfl | exact ⟨rfl, rfl⟩ | exact fun _ => ⟨rfl, rfl⟩); exact fun w => w)

theorem Foot.codecResume {e d : Dev} {pm rm : Nat} {q : Nat} (h : K e d pm rm) (hp : sub 0x180001a7 pm = true)
    (hr : sub 0x800000000000000000000a368281a802e80000040000400000000000003000000080000 rm = true) : K e (Dev.codecResume d q) pm rm := by
  refine K.lift h hp hr ?_
  clear h hp hr
  unfold Dev.codecResume
  extract_lets x1
  clear_value (g1 : x1 = _)
  subst g1
  all_goals repeat' first
    | with_reducible exact K.refl _ _ _
    | with_reducible assumption
    | ((with_reducible apply Foot.codecAt); rotate_left; decide; decide)
    | ((with_reducible apply Foot.freeTail); rotate_left; decide; decide)
    | ((with_reducible apply Foot.blockRun); rotate_left; decide; decide)
    | with_reducible apply K.ite
    | ((with_reducible apply K.foldl); rotate_left; intro d x h; rotate_right)
    | ((with_reducible apply K.foldlFst); rotate_left; intro x y h; rotate_right)
    | ((with_reducible apply K.foldlSnd); rotate_left; intro x y h; rotate_right)
    | with_reducible apply K.fst_ite
    | with_reducible apply K.cond
    | with_reducible refine K.of_fst ?_ (by assumption)
    | with_reducible refine K.of_snd ?_ (by assumption)
    | (split)
    | dsimp only
    | (rw [Dev.mk_tag]; (with_reducible apply K.mk_free); rotate_left; decide)
    | (rw [Dev.mk_tag]; (with_reducible apply K.mk_log); rotate_left; decide)
    | (rw [Dev.mk_tag]; (with_reducible apply K.mk_held); rotate_left; decide)
    | (rw [Dev.mk_tag]; (with_reducible apply K.mk_ls); rotate_left; decide; (first | exact .inl rfl | exact .inl ⟨rfl, rfl⟩ | exact .inr ⟨by decide, by (intro w; first | exact w | exact Memory.wf_write _ _ w | exact Memory.wf_clear _ _ w | exact Memory.wf_filter _ w | exact Memory.wf_set _ _ w)⟩))
    | (rw [Dev.mk_tag]; (with_reducible apply K.mk_dram); rotate_left; decide; (first | exact .inl rfl | exact .inl ⟨rfl, rfl⟩ | exact .inr ⟨by decide, by (intro w; first | exact w | exact Memory.wf_write _ _ w | exact Memory.wf_clear _ _ w | exact Memory.wf_filter _ w | exact Memory.wf_set _ _ w)⟩))
    | (rw [Dev.mk_tag]; (with_reducible apply K.mk_codec); rotate_left; decide)
    | (rw [Dev.mk_tag]; (with_reducible apply K.mkT); rotate_left; (intro p hq; cases p <;> first | exact absurd hq (by decide) | rfl | exact ⟨rfl, rfl⟩ | exact fun _ => ⟨rfl, rfl⟩); exact fun w => w)

theorem Foot.codecFail {e d : Dev} {pm rm : Nat} {q : Nat} {err : Nat} {left : Nat} (h : K e d pm rm) (hp : sub 0x100 pm = true)
    (hr : sub 0x0 rm = true) : K e (Dev.codecFail d q err left) pm rm := by
  refine K.lift h hp hr ?_
  clear h hp hr
  unfold Dev.codecFail
  extract_lets x1
  clear_value (g1 : x1 = _)
  clear g1
  all_goals repeat' first
    | with_reducible exact K.refl _ _ _
    | with_reducible assumption
    | ((with_reducible apply Foot.codecAt); rotate_left; decide; decide)
    | with_reducible apply K.ite
    | ((with_reducible apply K.foldl); rotate_left; intro d x h; rotate_right)
    | ((with_reducible apply K.foldlFst); rotate_left; intro x y h; rotate_right)
    | ((with_reducible apply K.foldlSnd); rotate_left; intro x y h; rotate_right)
    | with_reducible apply K.fst_ite
    | with_reducible apply K.cond
    | with_reducible refine K.of_fst ?_ (by assumption)
    | with_reducible refine K.of_snd ?_ (by assumption)
    | (split)
    | dsimp only
    | (rw [Dev.mk_tag]; (with_reducible apply K.mk_codec); rotate_left; decide)
    | (rw [Dev.mk_tag]; (with_reducible apply K.mkT); rotate_left; (intro p hq; cases p <;> first | exact absurd hq (by decide) | rfl | exact ⟨rfl, rfl⟩ | exact fun _ => ⟨rfl, rfl⟩); exact fun w => w)

theorem Foot.codecDescDone {e d : Dev} {pm rm : Nat} {q : Nat} (h : K e d pm rm) (hp : sub 0x8000122 pm = true)
    (hr : sub 0x281a8000c0000040000400000000000000000000080000 rm = true) : K e (Dev.codecDescDone d q) pm rm := by
  refine K.lift h hp hr ?_
  clear h hp hr
  unfold Dev.codecDescDone
  extract_lets x1 x2
  clear_value (g1 : x1 = _) (g2 : x2 = _)
  subst g1
  clear g2
  all_goals repeat' first
    | with_reducible exact K.refl _ _ _
    | with_reducible assumption
    | ((with_reducible apply K.put); rotate_left; (first | assumption | exact R.mem_CODEC_EVENT | exact R.mem_CODEC_Q_HEAD | exact R.mem_CORR_EVENT | exact R.mem_DRIVE_EVENT); decide)
    | ((with_reducible apply K.raiseIf); rotate_left; (first | assumption | exact R.mem_CODEC_EVENT | exact R.mem_CODEC_Q_HEAD | exact R.mem_CORR_EVENT | exact R.mem_DRIVE_EVENT); decide; decide; decide)
    | ((with_reducible apply Foot.lsWrite); rotate_left; decide; decide)
    | with_reducible apply K.ite
    | ((with_reducible apply K.foldl); rotate_left; intro d x h; rotate_right)
    | ((with_reducible apply K.foldlFst); rotate_left; intro x y h; rotate_right)
    | ((with_reducible apply K.foldlSnd); rotate_left; intro x y h; rotate_right)
    | with_reducible apply K.fst_ite
    | with_reducible apply K.cond
    | with_reducible refine K.of_fst ?_ (by assumption)
    | with_reducible refine K.of_snd ?_ (by assumption)
    | (split)
    | dsimp only
    | (rw [Dev.mk_tag]; (with_reducible apply K.mk_log); rotate_left; decide)
    | (rw [Dev.mk_tag]; (with_reducible apply K.mk_ls); rotate_left; decide; (first | exact .inl rfl | exact .inl ⟨rfl, rfl⟩ | exact .inr ⟨by decide, by (intro w; first | exact w | exact Memory.wf_write _ _ w | exact Memory.wf_clear _ _ w | exact Memory.wf_filter _ w | exact Memory.wf_set _ _ w)⟩))
    | (rw [Dev.mk_tag]; (with_reducible apply K.mk_codec); rotate_left; decide)
    | (rw [Dev.mk_tag]; (with_reducible apply K.mkT); rotate_left; (intro p hq; cases p <;> first | exact absurd hq (by decide) | rfl | exact ⟨rfl, rfl⟩ | exact fun _ => ⟨rfl, rfl⟩); exact fun w => w)

theorem Foot.ctxReset {e d : Dev} {pm rm : Nat} {mask : Nat} (h : K e d pm rm) (hp : sub 0x100 pm = true)
    (hr : sub 0x0 rm = true) : K e (Dev.ctxReset d mask) pm rm := by
  refine K.lift h hp hr ?_
  clear h hp hr
  unfold Dev.ctxReset
  all_goals repeat' first
    | with_reducible exact K.refl _ _ _
    | with_reducible assumption
    | ((with_reducible apply Foot.setCtx); rotate_left; decide; decide)
    | with_reducible apply K.ite
    | ((with_reducible apply K.each); rotate_left; intro d x h; rotate_right)
    | ((with_reducible apply K.foldl); rotate_left; intro d x h; rotate_right)
    | ((with_reducible apply K.foldlFst); rotate_left; intro x y h; rotate_right)
    | ((with_reducible apply K.foldlSnd); rotate_left; intro x y h; rotate_right)
    | with_reducible apply K.fst_ite
    | with_reducible apply K.cond
    | with_reducible refine K.of_fst ?_ (by assumption)
    | with_reducible refine K.of_snd ?_ (by assumption)
    | (split)
    | dsimp only
    | (rw [Dev.mk_tag]; (with_reducible apply K.mk_codec); rotate_left; decide)
    | (rw [Dev.mk_tag]; (with_reducible apply K.mkT); rotate_left; (intro p hq; cases p <;> first | exact absurd hq (by decide) | rfl | exact ⟨rfl, rfl⟩ | exact fun _ => ⟨rfl, rfl⟩); exact fun w => w)

end Sys2Proof.Machine
end

