-- ==== Sys2Proof/Laws/FootCol.lean ====
section
/-! SUPPORT.  Footprints of the functions of `Machine/Col.lean` (see `Keep.lean`): what each leaves alone. -/

set_option Elab.async false
set_option linter.all false

namespace Sys2Proof.Machine

theorem Foot.mapCol {e d : Dev} {pm rm : Nat} {f : ColState → ColState} (h : K e d pm rm) (hp : sub 0x800 pm = true)
    (hr : sub 0x0 rm = true) : K e (Dev.mapCol d f) pm rm := by
  refine K.lift h hp hr ?_
  clear h hp hr
  unfold Dev.mapCol
  all_goals repeat' first
    | with_reducible exact K.refl _ _ _
    | with_reducible assumption
    | with_reducible apply K.ite
    | ((with_reducible apply K.foldl); rotate_left; intro d x h; rotate_right)
    | ((with_reducible apply K.foldlFst); rotate_left; intro x y h; rotate_right)
    | ((with_reducible apply K.foldlSnd); rotate_left; intro x y h; rotate_right)
    | with_reducible apply K.fst_ite
    | with_reducible apply K.cond
    | with_reducible refine K.of_fst ?_ (by assumption)
    | with_reducible refine K.of_snd ?_ (by assumption)
    | (split)
    | dsimp only
    | (rw [Dev.mk_tag]; (with_reducible apply K.mk_col); rotate_left; decide)
    | (rw [Dev.mk_tag]; (with_reducible apply K.mkT); rotate_left; (intro p hq; cases p <;> first | exact absurd hq (by decide) | rfl | exact ⟨rfl, rfl⟩ | exact fun _ => ⟨rfl, rfl⟩); exact fun w => w)

theorem Foot.setLane {e d : Dev} {pm rm : Nat} {x0 : LaneDrive} {l : Nat} (h : K e d pm rm) (hp : sub 0x800 pm = true)
    (hr : sub 0x0 rm = true) : K e (Dev.setLane d x0 l) pm rm := by
  refine K.lift h hp hr ?_
  clear h hp hr
  unfold Dev.setLane
  extract_lets x1
  clear_value (g1 : x1 = _)
  subst g1
  all_goals repeat' first
    | with_reducible exact K.refl _ _ _
    | with_reducible assumption
    | with_reducible apply K.ite
    | ((with_reducible apply K.foldl); rotate_left; intro d x h; rotate_right)
    | ((with_reducible apply K.foldlFst); rotate_left; intro x y h; rotate_right)
    | ((with_reducible apply K.foldlSnd); rotate_left; intro x y h; rotate_right)
    | with_reducible apply K.fst_ite
    | with_reducible apply K.cond
    | with_reducible refine K.of_fst ?_ (by assumption)
    | with_reducible refine K.of_snd ?_ (by assumption)
    | (split)
    | dsimp only
    | (rw [Dev.mk_tag]; (with_reducible apply K.mk_col); rotate_left; decide)
    | (rw [Dev.mk_tag]; (with_reducible apply K.mkT); rotate_left; (intro p hq; cases p <;> first | exact absurd hq (by decide) | rfl | exact ⟨rfl, rfl⟩ | exact fun _ => ⟨rfl, rfl⟩); exact fun w => w)

theorem Foot.setLaneMask {e d : Dev} {pm rm : Nat} {lo : Field} {hi : Field} {m : Nat} (h : K e d pm rm) (hp : sub 0x0 pm = true)
    (hr : sub 0x0 rm = true) (hm_lo : Reg.inMap lo.reg = true) (hx_lo : rm.testBit lo.reg.no = true) (hm_hi : Reg.inMap hi.reg = true) (hx_hi : rm.testBit hi.reg.no = true) : K e (Dev.setLaneMask d lo hi m) pm rm := by
  unfold Dev.setLaneMask
  all_goals repeat' first
    | with_reducible exact K.refl _ _ _
    | with_reducible assumption
    | ((with_reducible apply K.put); rotate_left; (first | assumption); (first | decide | assumption | exact sub_trans (by decide) hp | exact sub_trans (by decide) hr | exact sub_testBit' hp (by decide) | exact sub_testBit' hr (by decide)))
    | with_reducible apply K.ite
    | ((with_reducible apply K.foldl); rotate_left; intro d x h; rotate_right)
    | ((with_reducible apply K.foldlFst); rotate_left; intro x y h; rotate_right)
    | ((with_reducible apply K.foldlSnd); rotate_left; intro x y h; rotate_right)
    | with_reducible apply K.fst_ite
    | with_reducible apply K.cond
    | with_reducible refine K.of_fst ?_ (by assumption)
    | with_reducible refine K.of_snd ?_ (by assumption)
    | (split)
    | dsimp only
    | (rw [Dev.mk_tag]; (with_reducible apply K.mkT); rotate_left; (intro p hq; cases p <;> first | exact absurd hq (by (first | decide | assumption | exact sub_trans (by decide) hp | exact sub_trans (by decide) hr | exact sub_testBit' hp (by decide) | exact sub_testBit' hr (by decide))) | rfl | exact ⟨rfl, rfl⟩ | exact fun _ => ⟨rfl, rfl⟩); exact fun w => w)

theorem Foot.setPresent {e d : Dev} {pm rm : Nat} {l : Nat} {b : Bool} (h : K e d pm rm) (hp : sub 0x0 pm = true)
    (hr : sub 0x6000000000000000000000000000000000 rm = true) : K e (Dev.setPresent d l b) pm rm := by
  refine K.lift h hp hr ?_
  clear h hp hr
  unfold Dev.setPresent
  all_goals repeat' first
    | with_reducible exact K.refl _ _ _
    | with_reducible assumption
    | ((with_reducible apply Foot.setLaneMask); rotate_left; decide; decide; (first | assumption | (first | assumption | exact R.mem_COL_PRESENT_HI | exact R.mem_COL_PRESENT_LO) | decide); (first | assumption | (first | assumption | exact R.mem_COL_PRESENT_HI | exact R.mem_COL_PRESENT_LO) | decide); (first | assumption | (first | assumption | exact R.mem_COL_PRESENT_HI | exact R.mem_COL_PRESENT_LO) | decide); (first | assumption | (first | assumption | exact R.mem_COL_PRESENT_HI | exact R.mem_COL_PRESENT_LO) | decide))
    | with_reducible apply K.ite
    | ((with_reducible apply K.foldl); rotate_left; intro d x h; rotate_right)
    | ((with_reducible apply K.foldlFst); rotate_left; intro x y h; rotate_right)
    | ((with_reducible apply K.foldlSnd); rotate_left; intro x y h; rotate_right)
    | with_reducible apply K.fst_ite
    | with_reducible apply K.cond
    | with_reducible refine K.of_fst ?_ (by assumption)
    | with_reducible refine K.of_snd ?_ (by assumption)
    | (split)
    | dsimp only
    | (rw [Dev.mk_tag]; (with_reducible apply K.mkT); rotate_left; (intro p hq; cases p <;> first | exact absurd hq (by decide) | rfl | exact ⟨rfl, rfl⟩ | exact fun _ => ⟨rfl, rfl⟩); exact fun w => w)

theorem Foot.setFailed {e d : Dev} {pm rm : Nat} {l : Nat} {b : Bool} (h : K e d pm rm) (hp : sub 0x0 pm = true)
    (hr : sub 0x18000000000000000000000000000000000 rm = true) : K e (Dev.setFailed d l b) pm rm := by
  refine K.lift h hp hr ?_
  clear h hp hr
  unfold Dev.setFailed
  all_goals repeat' first
    | with_reducible exact K.refl _ _ _
    | with_reducible assumption
    | ((with_reducible apply Foot.setLaneMask); rotate_left; decide; decide; (first | assumption | (first | assumption | exact R.mem_COL_FAILED_HI | exact R.mem_COL_FAILED_LO) | decide); (first | assumption | (first | assumption | exact R.mem_COL_FAILED_HI | exact R.mem_COL_FAILED_LO) | decide); (first | assumption | (first | assumption | exact R.mem_COL_FAILED_HI | exact R.mem_COL_FAILED_LO) | decide); (first | assumption | (first | assumption | exact R.mem_COL_FAILED_HI | exact R.mem_COL_FAILED_LO) | decide))
    | with_reducible apply K.ite
    | ((with_reducible apply K.foldl); rotate_left; intro d x h; rotate_right)
    | ((with_reducible apply K.foldlFst); rotate_left; intro x y h; rotate_right)
    | ((with_reducible apply K.foldlSnd); rotate_left; intro x y h; rotate_right)
    | with_reducible apply K.fst_ite
    | with_reducible apply K.cond
    | with_reducible refine K.of_fst ?_ (by assumption)
    | with_reducible refine K.of_snd ?_ (by assumption)
    | (split)
    | dsimp only
    | (rw [Dev.mk_tag]; (with_reducible apply K.mkT); rotate_left; (intro p hq; cases p <;> first | exact absurd hq (by decide) | rfl | exact ⟨rfl, rfl⟩ | exact fun _ => ⟨rfl, rfl⟩); exact fun w => w)

theorem Foot.lanesIdle {e d : Dev} {pm rm : Nat} (h : K e d pm rm) (hp : sub 0x800 pm = true)
    (hr : sub 0x0 rm = true) : K e (Dev.lanesIdle d) pm rm := by
  refine K.lift h hp hr ?_
  clear h hp hr
  unfold Dev.lanesIdle
  extract_lets x1
  clear_value (g1 : x1 = _)
  subst g1
  all_goals repeat' first
    | with_reducible exact K.refl _ _ _
    | with_reducible assumption
    | with_reducible apply K.ite
    | ((with_reducible apply K.foldl); rotate_left; intro d x h; rotate_right)
    | ((with_reducible apply K.foldlFst); rotate_left; intro x y h; rotate_right)
    | ((with_reducible apply K.foldlSnd); rotate_left; intro x y h; rotate_right)
    | with_reducible apply K.fst_ite
    | with_reducible apply K.cond
    | with_reducible refine K.of_fst ?_ (by assumption)
    | with_reducible refine K.of_snd ?_ (by assumption)
    | (split)
    | dsimp only
    | (rw [Dev.mk_tag]; (with_reducible apply K.mk_col); rotate_left; decide)
    | (rw [Dev.mk_tag]; (with_reducible apply K.mkT); rotate_left; (intro p hq; cases p <;> first | exact absurd hq (by decide) | rfl | exact ⟨rfl, rfl⟩ | exact fun _ => ⟨rfl, rfl⟩); exact fun w => w)

theorem Foot.latchEq {e d : Dev} {pm rm : Nat} (h : K e d pm rm) (hp : sub 0x800 pm = true)
    (hr : sub 0x0 rm = true) : K e (Dev.latchEq d) pm rm := by
  refine K.lift h hp hr ?_
  clear h hp hr
  unfold Dev.latchEq
  extract_lets x1
  clear_value (g1 : x1 = _)
  subst g1
  all_goals repeat' first
    | with_reducible exact K.refl _ _ _
    | with_reducible assumption
    | with_reducible apply K.ite
    | ((with_reducible apply K.foldl); rotate_left; intro d x h; rotate_right)
    | ((with_reducible apply K.foldlFst); rotate_left; intro x y h; rotate_right)
    | ((with_reducible apply K.foldlSnd); rotate_left; intro x y h; rotate_right)
    | with_reducible apply K.fst_ite
    | with_reducible apply K.cond
    | with_reducible refine K.of_fst ?_ (by assumption)
    | with_reducible refine K.of_snd ?_ (by assumption)
    | (split)
    | dsimp only
    | (rw [Dev.mk_tag]; (with_reducible apply K.mk_col); rotate_left; decide)
    | (rw [Dev.mk_tag]; (with_reducible apply K.mkT); rotate_left; (intro p hq; cases p <;> first | exact absurd hq (by decide) | rfl | exact ⟨rfl, rfl⟩ | exact fun _ => ⟨rfl, rfl⟩); exact fun w => w)

theorem Foot.sendControl {e d : Dev} {pm rm : Nat} {ls : List Nat} {p : Nat → List Sym} (h : K e d pm rm) (hp : sub 0x800 pm = true)
    (hr : sub 0x0 rm = true) : K e (Dev.sendControl d ls p) pm rm := by
  refine K.lift h hp hr ?_
  clear h hp hr
  unfold Dev.sendControl
  extract_lets x1
  clear_value (g1 : x1 = _)
  subst g1
  all_goals repeat' first
    | with_reducible exact K.refl _ _ _
    | with_reducible assumption
    | with_reducible apply K.ite
    | ((with_reducible apply K.foldl); rotate_left; intro d x h; rotate_right)
    | ((with_reducible apply K.foldlFst); rotate_left; intro x y h; rotate_right)
    | ((with_reducible apply K.foldlSnd); rotate_left; intro x y h; rotate_right)
    | with_reducible apply K.fst_ite
    | with_reducible apply K.cond
    | with_reducible refine K.of_fst ?_ (by assumption)
    | with_reducible refine K.of_snd ?_ (by assumption)
    | (split)
    | dsimp only
    | (rw [Dev.mk_tag]; (with_reducible apply K.mk_col); rotate_left; decide)
    | (rw [Dev.mk_tag]; (with_reducible apply K.mkT); rotate_left; (intro p hq; cases p <;> first | exact absurd hq (by decide) | rfl | exact ⟨rfl, rfl⟩ | exact fun _ => ⟨rfl, rfl⟩); exact fun w => w)

theorem Foot.runConfig {e d : Dev} {pm rm : Nat} {ls : List Nat} (h : K e d pm rm) (hp : sub 0x800 pm = true)
    (hr : sub 0x0 rm = true) : K e (Dev.runConfig d ls) pm rm := by
  refine K.lift h hp hr ?_
  clear h hp hr
  unfold Dev.runConfig
  extract_lets x1
  clear_value (g1 : x1 = _)
  subst g1
  all_goals repeat' first
    | with_reducible exact K.refl _ _ _
    | with_reducible assumption
    | ((with_reducible apply Foot.setLane); rotate_left; decide; decide)
    | with_reducible apply K.ite
    | ((with_reducible apply K.each); rotate_left; intro d x h; rotate_right)
    | ((with_reducible apply K.foldl); rotate_left; intro d x h; rotate_right)
    | ((with_reducible apply K.foldlFst); rotate_left; intro x y h; rotate_right)
    | ((with_reducible apply K.foldlSnd); rotate_left; intro x y h; rotate_right)
    | with_reducible apply K.fst_ite
    | with_reducible apply K.cond
    | with_reducible refine K.of_fst ?_ (by assumption)
    | with_reducible refine K.of_snd ?_ (by assumption)
    | (split)
    | dsimp only
    | (rw [Dev.mk_tag]; (with_reducible apply K.mk_col); rotate_left; decide)
    | (rw [Dev.mk_tag]; (with_reducible apply K.mkT); rotate_left; (intro p hq; cases p <;> first | exact absurd hq (by decide) | rfl | exact ⟨rfl, rfl⟩ | exact fun _ => ⟨rfl, rfl⟩); exact fun w => w)

theorem Foot.configSent {e d : Dev} {pm rm : Nat} (h : K e d pm rm) (hp : sub 0x800 pm = true)
    (hr : sub 0x0 rm = true) : K e (Dev.configSent d) pm rm := by
  refine K.lift h hp hr ?_
  clear h hp hr
  unfold Dev.configSent
  extract_lets x1
  clear_value (g1 : x1 = _)
  clear g1
  all_goals repeat' first
    | with_reducible exact K.refl _ _ _
    | with_reducible assumption
    | ((with_reducible apply Foot.mapCol); rotate_left; decide; decide)
    | ((with_reducible apply Foot.sendControl); rotate_left; decide; decide)
    | with_reducible apply K.ite
    | ((with_reducible apply K.foldl); rotate_left; intro d x h; rotate_right)
    | ((with_reducible apply K.foldlFst); rotate_left; intro x y h; rotate_right)
    | ((with_reducible apply K.foldlSnd); rotate_left; intro x y h; rotate_right)
    | with_reducible apply K.fst_ite
    | with_reducible apply K.cond
    | with_reducible refine K.of_fst ?_ (by assumption)
    | with_reducible refine K.of_snd ?_ (by assumption)
    | (split)
    | dsimp only
    | (rw [Dev.mk_tag]; (with_reducible apply K.mk_col); rotate_left; decide)
    | (rw [Dev.mk_tag]; (with_reducible apply K.mkT); rotate_left; (intro p hq; cases p <;> first | exact absurd hq (by decide) | rfl | exact ⟨rfl, rfl⟩ | exact fun _ => ⟨rfl, rfl⟩); exact fun w => w)

theorem Foot.setTrain {e d : Dev} {pm rm : Nat} {s : Nat} (h : K e d pm rm) (hp : sub 0x0 pm = true)
    (hr : sub 0x1000000000000000000000000000000000 rm = true) : K e (Dev.setTrain d s) pm rm := by
  refine K.lift h hp hr ?_
  clear h hp hr
  unfold Dev.setTrain
  all_goals repeat' first
    | with_reducible exact K.refl _ _ _
    | with_reducible assumption
    | ((with_reducible apply K.put); rotate_left; (first | assumption | exact R.mem_COL_STATUS); decide)
    | with_reducible apply K.ite
    | ((with_reducible apply K.foldl); rotate_left; intro d x h; rotate_right)
    | ((with_reducible apply K.foldlFst); rotate_left; intro x y h; rotate_right)
    | ((with_reducible apply K.foldlSnd); rotate_left; intro x y h; rotate_right)
    | with_reducible apply K.fst_ite
    | with_reducible apply K.cond
    | with_reducible refine K.of_fst ?_ (by assumption)
    | with_reducible refine K.of_snd ?_ (by assumption)
    | (split)
    | dsimp only
    | (rw [Dev.mk_tag]; (with_reducible apply K.mkT); rotate_left; (intro p hq; cases p <;> first | exact absurd hq (by decide) | rfl | exact ⟨rfl, rfl⟩ | exact fun _ => ⟨rfl, rfl⟩); exact fun w => w)

theorem Foot.lanesRun {e d : Dev} {pm rm : Nat} (h : K e d pm rm) (hp : sub 0x2800 pm = true)
    (hr : sub 0x1000000000000000000000000000000000 rm = true) : K e (Dev.lanesRun d) pm rm := by
  refine K.lift h hp hr ?_
  clear h hp hr
  unfold Dev.lanesRun
  extract_lets x1 x2 x3 x4
  skip
  refine K.cut d 0x2800 0x1000000000000000000000000000000000 x1 ?_ (fun h1 => ?_)
  unfold x1
  rotate_left
  refine K.cut d 0x2800 0x1000000000000000000000000000000000 x3 ?_ (fun h3 => ?_)
  unfold x3
  rotate_left
  all_goals repeat' first
    | with_reducible exact K.refl _ _ _
    | with_reducible assumption
    | ((with_reducible apply Foot.setTrain); rotate_left; decide; decide)
    | with_reducible apply K.ite
    | ((with_reducible apply K.foldl); rotate_left; intro d x h; rotate_right)
    | ((with_reducible apply K.foldlFst); rotate_left; intro x y h; rotate_right)
    | ((with_reducible apply K.foldlSnd); rotate_left; intro x y h; rotate_right)
    | with_reducible apply K.fst_ite
    | with_reducible apply K.cond
    | with_reducible refine K.of_fst ?_ (by assumption)
    | with_reducible refine K.of_snd ?_ (by assumption)
    | (split)
    | dsimp only
    | (rw [Dev.mk_tag]; (with_reducible apply K.mk_col); rotate_left; decide)
    | (rw [Dev.mk_tag]; (with_reducible apply K.mk_pseq); rotate_left; decide)
    | (rw [Dev.mk_tag]; (with_reducible apply K.mkT); rotate_left; (intro p hq; cases p <;> first | exact absurd hq (by decide) | rfl | exact ⟨rfl, rfl⟩ | exact fun _ => ⟨rfl, rfl⟩); exact fun w => w)

theorem Foot.trainDone {e d : Dev} {pm rm : Nat} (h : K e d pm rm) (hp : sub 0x2802 pm = true)
    (hr : sub 0x21000000000000000000000000000080000 rm = true) : K e (Dev.trainDone d) pm rm := by
  refine K.lift h hp hr ?_
  clear h hp hr
  unfold Dev.trainDone
  all_goals repeat' first
    | with_reducible exact K.refl _ _ _
    | with_reducible assumption
    | ((with_reducible apply K.raise); rotate_left; (first | assumption | exact R.mem_COL_EVENT); decide; decide; decide)
    | ((with_reducible apply Foot.lanesRun); rotate_left; decide; decide)
    | ((with_reducible apply Foot.configSent); rotate_left; decide; decide)
    | with_reducible apply K.ite
    | ((with_reducible apply K.foldl); rotate_left; intro d x h; rotate_right)
    | ((with_reducible apply K.foldlFst); rotate_left; intro x y h; rotate_right)
    | ((with_reducible apply K.foldlSnd); rotate_left; intro x y h; rotate_right)
    | with_reducible apply K.fst_ite
    | with_reducible apply K.cond
    | with_reducible refine K.of_fst ?_ (by assumption)
    | with_reducible refine K.of_snd ?_ (by assumption)
    | (split)
    | dsimp only
    | (rw [Dev.mk_tag]; (with_reducible apply K.mk_log); rotate_left; decide)
    | (rw [Dev.mk_tag]; (with_reducible apply K.mk_col); rotate_left; decide)
    | (rw [Dev.mk_tag]; (with_reducible apply K.mk_pseq); rotate_left; decide)
    | (rw [Dev.mk_tag]; (with_reducible apply K.mkT); rotate_left; (intro p hq; cases p <;> first | exact absurd hq (by decide) | rfl | exact ⟨rfl, rfl⟩ | exact fun _ => ⟨rfl, rfl⟩); exact fun w => w)

theorem Foot.startConfig {e d : Dev} {pm rm : Nat} (h : K e d pm rm) (hp : sub 0x800 pm = true)
    (hr : sub 0x1000000000000000000000000000000000 rm = true) : K e (Dev.startConfig d) pm rm := by
  refine K.lift h hp hr ?_
  clear h hp hr
  unfold Dev.startConfig
  all_goals repeat' first
    | with_reducible exact K.refl _ _ _
    | with_reducible assumption
    | ((with_reducible apply Foot.runConfig); rotate_left; decide; decide)
    | ((with_reducible apply Foot.setTrain); rotate_left; decide; decide)
    | with_reducible apply K.ite
    | ((with_reducible apply K.foldl); rotate_left; intro d x h; rotate_right)
    | ((with_reducible apply K.foldlFst); rotate_left; intro x y h; rotate_right)
    | ((with_reducible apply K.foldlSnd); rotate_left; intro x y h; rotate_right)
    | with_reducible apply K.fst_ite
    | with_reducible apply K.cond
    | with_reducible refine K.of_fst ?_ (by assumption)
    | with_reducible refine K.of_snd ?_ (by assumption)
    | (split)
    | dsimp only
    | (rw [Dev.mk_tag]; (with_reducible apply K.mk_col); rotate_left; decide)
    | (rw [Dev.mk_tag]; (with_reducible apply K.mkT); rotate_left; (intro p hq; cases p <;> first | exact absurd hq (by decide) | rfl | exact ⟨rfl, rfl⟩ | exact fun _ => ⟨rfl, rfl⟩); exact fun w => w)

theorem Foot.startAlign {e d : Dev} {pm rm : Nat} (h : K e d pm rm) (hp : sub 0x800 pm = true)
    (hr : sub 0x1000000000000000000000000000000000 rm = true) : K e (Dev.startAlign d) pm rm := by
  refine K.lift h hp hr ?_
  clear h hp hr
  unfold Dev.startAlign
  extract_lets x1
  clear_value (g1 : x1 = _)
  refine K.cutEq d 0x800 0x1000000000000000000000000000000000 g1 ?_ (fun h1 => ?_)
  rotate_left
  clear g1
  all_goals repeat' first
    | with_reducible exact K.refl _ _ _
    | with_reducible assumption
    | ((with_reducible apply Foot.setTrain); rotate_left; decide; decide)
    | ((with_reducible apply Foot.setLane); rotate_left; decide; decide)
    | ((with_reducible apply Foot.startConfig); rotate_left; decide; decide)
    | with_reducible apply K.ite
    | ((with_reducible apply K.each); rotate_left; intro d x h; rotate_right)
    | ((with_reducible apply K.foldl); rotate_left; intro d x h; rotate_right)
    | ((with_reducible apply K.foldlFst); rotate_left; intro x y h; rotate_right)
    | ((with_reducible apply K.foldlSnd); rotate_left; intro x y h; rotate_right)
    | with_reducible apply K.fst_ite
    | with_reducible apply K.cond
    | with_reducible refine K.of_fst ?_ (by assumption)
    | with_reducible refine K.of_snd ?_ (by assumption)
    | (split)
    | dsimp only
    | (rw [Dev.mk_tag]; (with_reducible apply K.mk_col); rotate_left; decide)
    | (rw [Dev.mk_tag]; (with_reducible apply K.mkT); rotate_left; (intro p hq; cases p <;> first | exact absurd hq (by decide) | rfl | exact ⟨rfl, rfl⟩ | exact fun _ => ⟨rfl, rfl⟩); exact fun w => w)

theorem Foot.startCdr {e d : Dev} {pm rm : Nat} (h : K e d pm rm) (hp : sub 0x800 pm = true)
    (hr : sub 0x1000000000000000000000000000000000 rm = true) : K e (Dev.startCdr d) pm rm := by
  refine K.lift h hp hr ?_
  clear h hp hr
  unfold Dev.startCdr
  all_goals repeat' first
    | with_reducible exact K.refl _ _ _
    | with_reducible assumption
    | ((with_reducible apply Foot.setTrain); rotate_left; decide; decide)
    | ((with_reducible apply Foot.setLane); rotate_left; decide; decide)
    | with_reducible apply K.ite
    | ((with_reducible apply K.each); rotate_left; intro d x h; rotate_right)
    | ((with_reducible apply K.foldl); rotate_left; intro d x h; rotate_right)
    | ((with_reducible apply K.foldlFst); rotate_left; intro x y h; rotate_right)
    | ((with_reducible apply K.foldlSnd); rotate_left; intro x y h; rotate_right)
    | with_reducible apply K.fst_ite
    | with_reducible apply K.cond
    | with_reducible refine K.of_fst ?_ (by assumption)
    | with_reducible refine K.of_snd ?_ (by assumption)
    | (split)
    | dsimp only
    | (rw [Dev.mk_tag]; (with_reducible apply K.mk_col); rotate_left; decide)
    | (rw [Dev.mk_tag]; (with_reducible apply K.mkT); rotate_left; (intro p hq; cases p <;> first | exact absurd hq (by decide) | rfl | exact ⟨rfl, rfl⟩ | exact fun _ => ⟨rfl, rfl⟩); exact fun w => w)

theorem Foot.detectFrom {e d : Dev} {pm rm : Nat} {l : Nat} (h : K e d pm rm) (hp : sub 0x800 pm = true)
    (hr : sub 0x1000000000000000000000000000000000 rm = true) : K e (Dev.detectFrom d l) pm rm := by
  refine K.lift h hp hr ?_
  clear h hp hr
  unfold Dev.detectFrom
  extract_lets x1 x2
  clear_value (g1 : x1 = _) (g2 : x2 = _)
  refine K.cutEq d 0x800 0x1000000000000000000000000000000000 g1 ?_ (fun h1 => ?_)
  rotate_left
  clear g1
  subst g2
  all_goals repeat' first
    | with_reducible exact K.refl _ _ _
    | with_reducible assumption
    | ((with_reducible apply Foot.mapCol); rotate_left; decide; decide)
    | ((with_reducible apply Foot.setLane); rotate_left; decide; decide)
    | ((with_reducible apply Foot.setTrain); rotate_left; decide; decide)
    | ((with_reducible apply Foot.startCdr); rotate_left; decide; decide)
    | with_reducible apply K.ite
    | ((with_reducible apply K.foldl); rotate_left; intro d x h; rotate_right)
    | ((with_reducible apply K.foldlFst); rotate_left; intro x y h; rotate_right)
    | ((with_reducible apply K.foldlSnd); rotate_left; intro x y h; rotate_right)
    | with_reducible apply K.fst_ite
    | with_reducible apply K.cond
    | with_reducible refine K.of_fst ?_ (by assumption)
    | with_reducible refine K.of_snd ?_ (by assumption)
    | (split)
    | dsimp only
    | (rw [Dev.mk_tag]; (with_reducible apply K.mk_col); rotate_left; decide)
    | (rw [Dev.mk_tag]; (with_reducible apply K.mkT); rotate_left; (intro p hq; cases p <;> first | exact absurd hq (by decide) | rfl | exact ⟨rfl, rfl⟩ | exact fun _ => ⟨rfl, rfl⟩); exact fun w => w)

theorem Foot.trainStart {e d : Dev} {pm rm : Nat} (h : K e d pm rm) (hp : sub 0x2800 pm = true)
    (hr : sub 0x1f000000000000000000000000000000000 rm = true) : K e (Dev.trainStart d) pm rm := by
  refine K.lift h hp hr ?_
  clear h hp hr
  unfold Dev.trainStart
  extract_lets x1 x2 x3
  clear_value (g1 : x1 = _) (g2 : x2 = _) (g3 : x3 = _)
  refine K.cutEq d 0x2800 0x1f000000000000000000000000000000000 g1 ?_ (fun h1 => ?_)
  rotate_left
  clear g1
  refine K.cutEq d 0x2800 0x1f000000000000000000000000000000000 g2 ?_ (fun h2 => ?_)
  rotate_left
  clear g2
  refine K.cutEq d 0x2800 0x1f000000000000000000000000000000000 g3 ?_ (fun h3 => ?_)
  rotate_left
  clear g3
  all_goals repeat' first
    | with_reducible exact K.refl _ _ _
    | with_reducible assumption
    | ((with_reducible apply Foot.latchEq); rotate_left; decide; decide)
    | ((with_reducible apply Foot.lanesRun); rotate_left; decide; decide)
    | ((with_reducible apply Foot.setLane); rotate_left; decide; decide)
    | ((with_reducible apply Foot.setLaneMask); rotate_left; decide; decide; (first | assumption | (first | assumption | exact R.mem_COL_CTRL | exact R.mem_COL_FAILED_HI | exact R.mem_COL_FAILED_LO | exact R.mem_COL_PRESENT_HI | exact R.mem_COL_PRESENT_LO) | decide); (first | assumption | (first | assumption | exact R.mem_COL_CTRL | exact R.mem_COL_FAILED_HI | exact R.mem_COL_FAILED_LO | exact R.mem_COL_PRESENT_HI | exact R.mem_COL_PRESENT_LO) | decide); (first | assumption | (first | assumption | exact R.mem_COL_CTRL | exact R.mem_COL_FAILED_HI | exact R.mem_COL_FAILED_LO | exact R.mem_COL_PRESENT_HI | exact R.mem_COL_PRESENT_LO) | decide); (first | assumption | (first | assumption | exact R.mem_COL_CTRL | exact R.mem_COL_FAILED_HI | exact R.mem_COL_FAILED_LO | exact R.mem_COL_PRESENT_HI | exact R.mem_COL_PRESENT_LO) | decide))
    | ((with_reducible apply Foot.detectFrom); rotate_left; decide; decide)
    | ((with_reducible apply Foot.mapCol); rotate_left; decide; decide)
    | with_reducible apply K.ite
    | ((with_reducible apply K.each); rotate_left; intro d x h; rotate_right)
    | ((with_reducible apply K.foldl); rotate_left; intro d x h; rotate_right)
    | ((with_reducible apply K.foldlFst); rotate_left; intro x y h; rotate_right)
    | ((with_reducible apply K.foldlSnd); rotate_left; intro x y h; rotate_right)
    | with_reducible apply K.fst_ite
    | with_reducible apply K.cond
    | with_reducible refine K.of_fst ?_ (by assumption)
    | with_reducible refine K.of_snd ?_ (by assumption)
    | (split)
    | dsimp only
    | (rw [Dev.mk_tag]; (with_reducible apply K.mk_col); rotate_left; decide)
    | (rw [Dev.mk_tag]; (with_reducible apply K.mk_pseq); rotate_left; decide)
    | (rw [Dev.mk_tag]; (with_reducible apply K.mkT); rotate_left; (intro p hq; cases p <;> first | exact absurd hq (by decide) | rfl | exact ⟨rfl, rfl⟩ | exact fun _ => ⟨rfl, rfl⟩); exact fun w => w)

theorem Foot.retrainIfMoved {e d : Dev} {pm rm : Nat} (h : K e d pm rm) (hp : sub 0x800 pm = true)
    (hr : sub 0x1000000000000000000000000000000000 rm = true) : K e (Dev.retrainIfMoved d) pm rm := by
  refine K.lift h hp hr ?_
  clear h hp hr
  unfold Dev.retrainIfMoved
  extract_lets x1 x2 x3
  clear_value (g1 : x1 = _) (g2 : x2 = _) (g3 : x3 = _)
  clear g1
  clear g2
  clear g3
  all_goals repeat' first
    | with_reducible exact K.refl _ _ _
    | with_reducible assumption
    | ((with_reducible apply Foot.startCdr); rotate_left; decide; decide)
    | ((with_reducible apply Foot.mapCol); rotate_left; decide; decide)
    | with_reducible apply K.ite
    | ((with_reducible apply K.foldl); rotate_left; intro d x h; rotate_right)
    | ((with_reducible apply K.foldlFst); rotate_left; intro x y h; rotate_right)
    | ((with_reducible apply K.foldlSnd); rotate_left; intro x y h; rotate_right)
    | with_reducible apply K.fst_ite
    | with_reducible apply K.cond
    | with_reducible refine K.of_fst ?_ (by assumption)
    | with_reducible refine K.of_snd ?_ (by assumption)
    | (split)
    | dsimp only
    | (rw [Dev.mk_tag]; (with_reducible apply K.mk_col); rotate_left; decide)
    | (rw [Dev.mk_tag]; (with_reducible apply K.mkT); rotate_left; (intro p hq; cases p <;> first | exact absurd hq (by decide) | rfl | exact ⟨rfl, rfl⟩ | exact fun _ => ⟨rfl, rfl⟩); exact fun w => w)

theorem Foot.searchStart {e d : Dev} {pm rm : Nat} {training : Bool} (h : K e d pm rm) (hp : sub 0x800 pm = true)
    (hr : sub 0x1000000000000000000000000000000000 rm = true) : K e (Dev.searchStart d training) pm rm := by
  refine K.lift h hp hr ?_
  clear h hp hr
  unfold Dev.searchStart
  extract_lets x1 x2
  clear_value (g1 : x1 = _) (g2 : x2 = _)
  refine K.cutEq d 0x800 0x1000000000000000000000000000000000 g1 ?_ (fun h1 => ?_)
  rotate_left
  clear g1
  subst g2
  all_goals repeat' first
    | with_reducible exact K.refl _ _ _
    | with_reducible assumption
    | ((with_reducible apply Foot.setTrain); rotate_left; decide; decide)
    | with_reducible apply K.ite
    | ((with_reducible apply K.foldl); rotate_left; intro d x h; rotate_right)
    | ((with_reducible apply K.foldlFst); rotate_left; intro x y h; rotate_right)
    | ((with_reducible apply K.foldlSnd); rotate_left; intro x y h; rotate_right)
    | with_reducible apply K.fst_ite
    | with_reducible apply K.cond
    | with_reducible refine K.of_fst ?_ (by assumption)
    | with_reducible refine K.of_snd ?_ (by assumption)
    | (split)
    | dsimp only
    | (rw [Dev.mk_tag]; (with_reducible apply K.mk_col); rotate_left; decide)
    | (rw [Dev.mk_tag]; (with_reducible apply K.mkT); rotate_left; (intro p hq; cases p <;> first | exact absurd hq (by decide) | rfl | exact ⟨rfl, rfl⟩ | exact fun _ => ⟨rfl, rfl⟩); exact fun w => w)

theorem Foot.searchEnd {e d : Dev} {pm rm : Nat} (h : K e d pm rm) (hp : sub 0x802 pm = true)
    (hr : sub 0x39000000000000000000000000000080000 rm = true) : K e (Dev.searchEnd d) pm rm := by
  refine K.lift h hp hr ?_
  clear h hp hr
  unfold Dev.searchEnd
  extract_lets x1 x2 x3
  clear_value (g1 : x1 = _) (g2 : x2 = _) (g3 : x3 = _)
  clear g1
  refine K.cutEq d 0x802 0x39000000000000000000000000000080000 g2 ?_ (fun h2 => ?_)
  rotate_left
  clear g2
  refine K.cutEq d 0x802 0x39000000000000000000000000000080000 g3 ?_ (fun h3 => ?_)
  rotate_left
  clear g3
  all_goals repeat' first
    | with_reducible exact K.refl _ _ _
    | with_reducible assumption
    | ((with_reducible apply K.raise); rotate_left; (first | assumption | exact R.mem_COL_EVENT); decide; decide; decide)
    | ((with_reducible apply Foot.setLane); rotate_left; decide; decide)
    | ((with_reducible apply Foot.setFailed); rotate_left; decide; decide)
    | ((with_reducible apply Foot.mapCol); rotate_left; decide; decide)
    | ((with_reducible apply Foot.startConfig); rotate_left; decide; decide)
    | ((with_reducible apply Foot.setTrain); rotate_left; decide; decide)
    | ((with_reducible apply Foot.runConfig); rotate_left; decide; decide)
    | with_reducible apply K.ite
    | ((with_reducible apply K.each); rotate_left; intro d x h; rotate_right)
    | ((with_reducible apply K.foldl); rotate_left; intro d x h; rotate_right)
    | ((with_reducible apply K.foldlFst); rotate_left; intro x y h; rotate_right)
    | ((with_reducible apply K.foldlSnd); rotate_left; intro x y h; rotate_right)
    | with_reducible apply K.fst_ite
    | with_reducible apply K.cond
    | with_reducible refine K.of_fst ?_ (by assumption)
    | with_reducible refine K.of_snd ?_ (by assumption)
    | (split)
    | dsimp only
    | (rw [Dev.mk_tag]; (with_reducible apply K.mk_log); rotate_left; decide)
    | (rw [Dev.mk_tag]; (with_reducible apply K.mk_col); rotate_left; decide)
    | (rw [Dev.mk_tag]; (with_reducible apply K.mkT); rotate_left; (intro p hq; cases p <;> first | exact absurd hq (by decide) | rfl | exact ⟨rfl, rfl⟩ | exact fun _ => ⟨rfl, rfl⟩); exact fun w => w)

theorem Foot.searchAfter {e d : Dev} {pm rm : Nat} {l : Nat} (h : K e d pm rm) (hp : sub 0x802 pm = true)
    (hr : sub 0x39000000000000000000000000000080000 rm = true) : K e (Dev.searchAfter d l) pm rm := by
  unfold Dev.searchAfter
  generalize d.laneFrom (l + 1) = x
  cases x with
  | none => exact Foot.searchEnd h (sub_trans (by decide) hp) (sub_trans (by decide) hr)
  | some _ => exact K.lift h hp hr (K.refl _ _ _)

theorem Foot.trainTimeout {e d : Dev} {pm rm : Nat} (h : K e d pm rm) (hp : sub 0x2802 pm = true)
    (hr : sub 0x39000000000000000000000000000080000 rm = true) : K e (Dev.trainTimeout d) pm rm := by
  refine K.lift h hp hr ?_
  clear h hp hr
  unfold Dev.trainTimeout
  all_goals repeat' first
    | with_reducible exact K.refl _ _ _
    | with_reducible assumption
    | ((with_reducible apply Foot.detectFrom); rotate_left; decide; decide)
    | ((with_reducible apply Foot.setFailed); rotate_left; decide; decide)
    | ((with_reducible apply Foot.startAlign); rotate_left; decide; decide)
    | ((with_reducible apply Foot.searchStart); rotate_left; decide; decide)
    | ((with_reducible apply Foot.trainDone); rotate_left; decide; decide)
    | with_reducible apply K.ite
    | ((with_reducible apply K.foldl); rotate_left; intro d x h; rotate_right)
    | ((with_reducible apply K.foldlFst); rotate_left; intro x y h; rotate_right)
    | ((with_reducible apply K.foldlSnd); rotate_left; intro x y h; rotate_right)
    | with_reducible apply K.fst_ite
    | with_reducible apply K.cond
    | with_reducible refine K.of_fst ?_ (by assumption)
    | with_reducible refine K.of_snd ?_ (by assumption)
    | (split)
    | dsimp only
    | (rw [Dev.mk_tag]; (with_reducible apply K.mk_log); rotate_left; decide)
    | (rw [Dev.mk_tag]; (with_reducible apply K.mk_col); rotate_left; decide)
    | (rw [Dev.mk_tag]; (with_reducible apply K.mk_pseq); rotate_left; decide)
    | (rw [Dev.mk_tag]; (with_reducible apply K.mkT); rotate_left; (intro p hq; cases p <;> first | exact absurd hq (by decide) | rfl | exact ⟨rfl, rfl⟩ | exact fun _ => ⟨rfl, rfl⟩); exact fun w => w)

theorem Foot.lockFall {e d : Dev} {pm rm : Nat} (h : K e d pm rm) (hp : sub 0x800 pm = true)
    (hr : sub 0x7000000000000000000000000000000000 rm = true) : K e (Dev.lockFall d) pm rm := by
  refine K.lift h hp hr ?_
  clear h hp hr
  unfold Dev.lockFall
  extract_lets x1
  clear_value (g1 : x1 = _)
  refine K.cutEq d 0x800 0x7000000000000000000000000000000000 g1 ?_ (fun h1 => ?_)
  rotate_left
  clear g1
  all_goals repeat' first
    | with_reducible exact K.refl _ _ _
    | with_reducible assumption
    | ((with_reducible apply Foot.mapCol); rotate_left; decide; decide)
    | ((with_reducible apply Foot.detectFrom); rotate_left; decide; decide)
    | ((with_reducible apply Foot.setPresent); rotate_left; decide; decide)
    | with_reducible apply K.ite
    | ((with_reducible apply K.foldl); rotate_left; intro d x h; rotate_right)
    | ((with_reducible apply K.foldlFst); rotate_left; intro x y h; rotate_right)
    | ((with_reducible apply K.foldlSnd); rotate_left; intro x y h; rotate_right)
    | with_reducible apply K.fst_ite
    | with_reducible apply K.cond
    | with_reducible refine K.of_fst ?_ (by assumption)
    | with_reducible refine K.of_snd ?_ (by assumption)
    | (split)
    | dsimp only
    | (rw [Dev.mk_tag]; (with_reducible apply K.mk_col); rotate_left; decide)
    | (rw [Dev.mk_tag]; (with_reducible apply K.mkT); rotate_left; (intro p hq; cases p <;> first | exact absurd hq (by decide) | rfl | exact ⟨rfl, rfl⟩ | exact fun _ => ⟨rfl, rfl⟩); exact fun w => w)

theorem Foot.errorPulse {e d : Dev} {pm rm : Nat} (h : K e d pm rm) (hp : sub 0x2 pm = true)
    (hr : sub 0x1a0000000000000000000000000000080000 rm = true) : K e (Dev.errorPulse d) pm rm := by
  refine K.lift h hp hr ?_
  clear h hp hr
  unfold Dev.errorPulse
  all_goals repeat' first
    | with_reducible exact K.refl _ _ _
    | with_reducible assumption
    | ((with_reducible apply K.inc); rotate_left; (first | assumption | exact R.mem_COL_CRC_PULSES | exact R.mem_COL_EVENT | exact R.mem_COL_TEST_PULSES); decide)
    | ((with_reducible apply K.raise); rotate_left; (first | assumption | exact R.mem_COL_CRC_PULSES | exact R.mem_COL_EVENT | exact R.mem_COL_TEST_PULSES); decide; decide; decide)
    | with_reducible apply K.ite
    | ((with_reducible apply K.foldl); rotate_left; intro d x h; rotate_right)
    | ((with_reducible apply K.foldlFst); rotate_left; intro x y h; rotate_right)
    | ((with_reducible apply K.foldlSnd); rotate_left; intro x y h; rotate_right)
    | with_reducible apply K.fst_ite
    | with_reducible apply K.cond
    | with_reducible refine K.of_fst ?_ (by assumption)
    | with_reducible refine K.of_snd ?_ (by assumption)
    | (split)
    | dsimp only
    | (rw [Dev.mk_tag]; (with_reducible apply K.mk_log); rotate_left; decide)
    | (rw [Dev.mk_tag]; (with_reducible apply K.mkT); rotate_left; (intro p hq; cases p <;> first | exact absurd hq (by decide) | rfl | exact ⟨rfl, rfl⟩ | exact fun _ => ⟨rfl, rfl⟩); exact fun w => w)

theorem Foot.lockRise {e d : Dev} {pm rm : Nat} (h : K e d pm rm) (hp : sub 0x802 pm = true)
    (hr : sub 0x1a1000000000000000000000000000080000 rm = true) : K e (Dev.lockRise d) pm rm := by
  refine K.lift h hp hr ?_
  clear h hp hr
  unfold Dev.lockRise
  extract_lets x1 x2
  clear_value (g1 : x1 = _) (g2 : x2 = _)
  clear g1
  refine K.cutEq d 0x802 0x1a1000000000000000000000000000080000 g2 ?_ (fun h2 => ?_)
  rotate_left
  clear g2
  all_goals repeat' first
    | with_reducible exact K.refl _ _ _
    | with_reducible assumption
    | ((with_reducible apply K.put); rotate_left; (first | assumption | exact R.mem_COL_EVENT | exact R.mem_COL_STATUS); decide)
    | ((with_reducible apply K.raise); rotate_left; (first | assumption | exact R.mem_COL_EVENT | exact R.mem_COL_STATUS); decide; decide; decide)
    | ((with_reducible apply Foot.mapCol); rotate_left; decide; decide)
    | ((with_reducible apply Foot.startConfig); rotate_left; decide; decide)
    | ((with_reducible apply Foot.setTrain); rotate_left; decide; decide)
    | ((with_reducible apply Foot.runConfig); rotate_left; decide; decide)
    | ((with_reducible apply Foot.errorPulse); rotate_left; decide; decide)
    | with_reducible apply K.ite
    | ((with_reducible apply K.foldl); rotate_left; intro d x h; rotate_right)
    | ((with_reducible apply K.foldlFst); rotate_left; intro x y h; rotate_right)
    | ((with_reducible apply K.foldlSnd); rotate_left; intro x y h; rotate_right)
    | with_reducible apply K.fst_ite
    | with_reducible apply K.cond
    | with_reducible refine K.of_fst ?_ (by assumption)
    | with_reducible refine K.of_snd ?_ (by assumption)
    | (split)
    | dsimp only
    | (rw [Dev.mk_tag]; (with_reducible apply K.mk_log); rotate_left; decide)
    | (rw [Dev.mk_tag]; (with_reducible apply K.mk_col); rotate_left; decide)
    | (rw [Dev.mk_tag]; (with_reducible apply K.mkT); rotate_left; (intro p hq; cases p <;> first | exact absurd hq (by decide) | rfl | exact ⟨rfl, rfl⟩ | exact fun _ => ⟨rfl, rfl⟩); exact fun w => w)

theorem Foot.lockLoss {e d : Dev} {pm rm : Nat} (h : K e d pm rm) (hp : sub 0x802 pm = true)
    (hr : sub 0x21000000000000000000000000000080000 rm = true) : K e (Dev.lockLoss d) pm rm := by
  refine K.lift h hp hr ?_
  clear h hp hr
  unfold Dev.lockLoss
  extract_lets x1
  clear_value (g1 : x1 = _)
  refine K.cutEq d 0x802 0x21000000000000000000000000000080000 g1 ?_ (fun h1 => ?_)
  rotate_left
  clear g1
  all_goals repeat' first
    | with_reducible exact K.refl _ _ _
    | with_reducible assumption
    | ((with_reducible apply K.put); rotate_left; (first | assumption | exact R.mem_COL_EVENT | exact R.mem_COL_STATUS); decide)
    | ((with_reducible apply K.raise); rotate_left; (first | assumption | exact R.mem_COL_EVENT | exact R.mem_COL_STATUS); decide; decide; decide)
    | ((with_reducible apply Foot.mapCol); rotate_left; decide; decide)
    | with_reducible apply K.ite
    | ((with_reducible apply K.foldl); rotate_left; intro d x h; rotate_right)
    | ((with_reducible apply K.foldlFst); rotate_left; intro x y h; rotate_right)
    | ((with_reducible apply K.foldlSnd); rotate_left; intro x y h; rotate_right)
    | with_reducible apply K.fst_ite
    | with_reducible apply K.cond
    | with_reducible refine K.of_fst ?_ (by assumption)
    | with_reducible refine K.of_snd ?_ (by assumption)
    | (split)
    | dsimp only
    | (rw [Dev.mk_tag]; (with_reducible apply K.mk_log); rotate_left; decide)
    | (rw [Dev.mk_tag]; (with_reducible apply K.mk_col); rotate_left; decide)
    | (rw [Dev.mk_tag]; (with_reducible apply K.mkT); rotate_left; (intro p hq; cases p <;> first | exact absurd hq (by decide) | rfl | exact ⟨rfl, rfl⟩ | exact fun _ => ⟨rfl, rfl⟩); exact fun w => w)

theorem Foot.relock {e d : Dev} {pm rm : Nat} (h : K e d pm rm) (hp : sub 0x10800 pm = true)
    (hr : sub 0x1000000000000000000000000000000000 rm = true) : K e (Dev.relock d) pm rm := by
  refine K.lift h hp hr ?_
  clear h hp hr
  unfold Dev.relock
  extract_lets x1 x2
  clear_value (g1 : x1 = _) (g2 : x2 = _)
  refine K.cutEq d 0x10800 0x1000000000000000000000000000000000 g1 ?_ (fun h1 => ?_)
  rotate_left
  clear g1
  subst g2
  all_goals repeat' first
    | with_reducible exact K.refl _ _ _
    | with_reducible assumption
    | ((with_reducible apply Foot.mapCol); rotate_left; decide; decide)
    | ((with_reducible apply Foot.setTrain); rotate_left; decide; decide)
    | ((with_reducible apply Foot.setLane); rotate_left; decide; decide)
    | with_reducible apply K.ite
    | ((with_reducible apply K.each); rotate_left; intro d x h; rotate_right)
    | ((with_reducible apply K.foldl); rotate_left; intro d x h; rotate_right)
    | ((with_reducible apply K.foldlFst); rotate_left; intro x y h; rotate_right)
    | ((with_reducible apply K.foldlSnd); rotate_left; intro x y h; rotate_right)
    | with_reducible apply K.fst_ite
    | with_reducible apply K.cond
    | with_reducible refine K.of_fst ?_ (by assumption)
    | with_reducible refine K.of_snd ?_ (by assumption)
    | (split)
    | dsimp only
    | (rw [Dev.mk_tag]; (with_reducible apply K.mk_col); rotate_left; decide)
    | (rw [Dev.mk_tag]; (with_reducible apply K.mk_cal); rotate_left; decide)
    | (rw [Dev.mk_tag]; (with_reducible apply K.mkT); rotate_left; (intro p hq; cases p <;> first | exact absurd hq (by decide) | rfl | exact ⟨rfl, rfl⟩ | exact fun _ => ⟨rfl, rfl⟩); exact fun w => w)

theorem Foot.laneRetry {e d : Dev} {pm rm : Nat} {l : Nat} {passed : Bool} (h : K e d pm rm) (hp : sub 0x802 pm = true)
    (hr : sub 0x3e000000000000000000000000000080000 rm = true) : K e (Dev.laneRetry d l passed) pm rm := by
  refine K.lift h hp hr ?_
  clear h hp hr
  unfold Dev.laneRetry
  all_goals repeat' first
    | with_reducible exact K.refl _ _ _
    | with_reducible assumption
    | ((with_reducible apply K.raise); rotate_left; (first | assumption | exact R.mem_COL_EVENT); decide; decide; decide)
    | ((with_reducible apply Foot.runConfig); rotate_left; decide; decide)
    | ((with_reducible apply Foot.setPresent); rotate_left; decide; decide)
    | ((with_reducible apply Foot.setFailed); rotate_left; decide; decide)
    | with_reducible apply K.ite
    | ((with_reducible apply K.foldl); rotate_left; intro d x h; rotate_right)
    | ((with_reducible apply K.foldlFst); rotate_left; intro x y h; rotate_right)
    | ((with_reducible apply K.foldlSnd); rotate_left; intro x y h; rotate_right)
    | with_reducible apply K.fst_ite
    | with_reducible apply K.cond
    | with_reducible refine K.of_fst ?_ (by assumption)
    | with_reducible refine K.of_snd ?_ (by assumption)
    | (split)
    | dsimp only
    | (rw [Dev.mk_tag]; (with_reducible apply K.mk_log); rotate_left; decide)
    | (rw [Dev.mk_tag]; (with_reducible apply K.mk_col); rotate_left; decide)
    | (rw [Dev.mk_tag]; (with_reducible apply K.mkT); rotate_left; (intro p hq; cases p <;> first | exact absurd hq (by decide) | rfl | exact ⟨rfl, rfl⟩ | exact fun _ => ⟨rfl, rfl⟩); exact fun w => w)

theorem Foot.testBurst {e d : Dev} {pm rm : Nat} {l : Nat} (h : K e d pm rm) (hp : sub 0x800 pm = true)
    (hr : sub 0x0 rm = true) : K e (Dev.testBurst d l) pm rm := by
  refine K.lift h hp hr ?_
  clear h hp hr
  unfold Dev.testBurst
  extract_lets x1
  clear_value (g1 : x1 = _)
  clear g1
  all_goals repeat' first
    | with_reducible exact K.refl _ _ _
    | with_reducible assumption
    | ((with_reducible apply Foot.mapCol); rotate_left; decide; decide)
    | with_reducible apply K.ite
    | ((with_reducible apply K.foldl); rotate_left; intro d x h; rotate_right)
    | ((with_reducible apply K.foldlFst); rotate_left; intro x y h; rotate_right)
    | ((with_reducible apply K.foldlSnd); rotate_left; intro x y h; rotate_right)
    | with_reducible apply K.fst_ite
    | with_reducible apply K.cond
    | with_reducible refine K.of_fst ?_ (by assumption)
    | with_reducible refine K.of_snd ?_ (by assumption)
    | (split)
    | dsimp only
    | (rw [Dev.mk_tag]; (with_reducible apply K.mk_col); rotate_left; decide)
    | (rw [Dev.mk_tag]; (with_reducible apply K.mkT); rotate_left; (intro p hq; cases p <;> first | exact absurd hq (by decide) | rfl | exact ⟨rfl, rfl⟩ | exact fun _ => ⟨rfl, rfl⟩); exact fun w => w)

theorem Foot.ctlSent {e d : Dev} {pm rm : Nat} (h : K e d pm rm) (hp : sub 0x800 pm = true)
    (hr : sub 0x200000000000000000000000000000000000 rm = true) : K e (Dev.ctlSent d) pm rm := by
  refine K.lift h hp hr ?_
  clear h hp hr
  unfold Dev.ctlSent
  all_goals repeat' first
    | with_reducible exact K.refl _ _ _
    | with_reducible assumption
    | ((with_reducible apply K.put); rotate_left; (first | assumption | exact R.mem_COL_CTLPKT_HDR); decide)
    | ((with_reducible apply Foot.sendControl); rotate_left; decide; decide)
    | with_reducible apply K.ite
    | ((with_reducible apply K.foldl); rotate_left; intro d x h; rotate_right)
    | ((with_reducible apply K.foldlFst); rotate_left; intro x y h; rotate_right)
    | ((with_reducible apply K.foldlSnd); rotate_left; intro x y h; rotate_right)
    | with_reducible apply K.fst_ite
    | with_reducible apply K.cond
    | with_reducible refine K.of_fst ?_ (by assumption)
    | with_reducible refine K.of_snd ?_ (by assumption)
    | (split)
    | dsimp only
    | (rw [Dev.mk_tag]; (with_reducible apply K.mk_col); rotate_left; decide)
    | (rw [Dev.mk_tag]; (with_reducible apply K.mkT); rotate_left; (intro p hq; cases p <;> first | exact absurd hq (by decide) | rfl | exact ⟨rfl, rfl⟩ | exact fun _ => ⟨rfl, rfl⟩); exact fun w => w)

theorem Foot.ctlGo {e d : Dev} {pm rm : Nat} (h : K e d pm rm) (hp : sub 0x0 pm = true)
    (hr : sub 0x200000000000000000000000000000000000 rm = true) : K e (Dev.ctlGo d) pm rm := by
  refine K.lift h hp hr ?_
  clear h hp hr
  unfold Dev.ctlGo
  all_goals repeat' first
    | with_reducible exact K.refl _ _ _
    | with_reducible assumption
    | ((with_reducible apply K.put); rotate_left; (first | assumption | exact R.mem_COL_CTLPKT_HDR); decide)
    | with_reducible apply K.ite
    | ((with_reducible apply K.foldl); rotate_left; intro d x h; rotate_right)
    | ((with_reducible apply K.foldlFst); rotate_left; intro x y h; rotate_right)
    | ((with_reducible apply K.foldlSnd); rotate_left; intro x y h; rotate_right)
    | with_reducible apply K.fst_ite
    | with_reducible apply K.cond
    | with_reducible refine K.of_fst ?_ (by assumption)
    | with_reducible refine K.of_snd ?_ (by assumption)
    | (split)
    | dsimp only
    | (rw [Dev.mk_tag]; (with_reducible apply K.mkT); rotate_left; (intro p hq; cases p <;> first | exact absurd hq (by decide) | rfl | exact ⟨rfl, rfl⟩ | exact fun _ => ⟨rfl, rfl⟩); exact fun w => w)

theorem Foot.colDischarge {e d : Dev} {pm rm : Nat} (h : K e d pm rm) (hp : sub 0x800 pm = true)
    (hr : sub 0x0 rm = true) : K e (Dev.colDischarge d) pm rm := by
  refine K.lift h hp hr ?_
  clear h hp hr
  unfold Dev.colDischarge
  all_goals repeat' first
    | with_reducible exact K.refl _ _ _
    | with_reducible assumption
    | ((with_reducible apply Foot.mapCol); rotate_left; decide; decide)
    | ((with_reducible apply Foot.sendControl); rotate_left; decide; decide)
    | with_reducible apply K.ite
    | ((with_reducible apply K.foldl); rotate_left; intro d x h; rotate_right)
    | ((with_reducible apply K.foldlFst); rotate_left; intro x y h; rotate_right)
    | ((with_reducible apply K.foldlSnd); rotate_left; intro x y h; rotate_right)
    | with_reducible apply K.fst_ite
    | with_reducible apply K.cond
    | with_reducible refine K.of_fst ?_ (by assumption)
    | with_reducible refine K.of_snd ?_ (by assumption)
    | (split)
    | dsimp only
    | (rw [Dev.mk_tag]; (with_reducible apply K.mk_col); rotate_left; decide)
    | (rw [Dev.mk_tag]; (with_reducible apply K.mkT); rotate_left; (intro p hq; cases p <;> first | exact absurd hq (by decide) | rfl | exact ⟨rfl, rfl⟩ | exact fun _ => ⟨rfl, rfl⟩); exact fun w => w)

theorem Foot.openSlots {e d : Dev} {pm rm : Nat} {ls : List (Nat × List (List Sym))} (h : K e d pm rm) (hp : sub 0x800 pm = true)
    (hr : sub 0x0 rm = true) : K e (Dev.openSlots d ls) pm rm := by
  refine K.lift h hp hr ?_
  clear h hp hr
  unfold Dev.openSlots
  extract_lets x1
  clear_value (g1 : x1 = _)
  clear g1
  all_goals repeat' first
    | with_reducible exact K.refl _ _ _
    | with_reducible assumption
    | ((with_reducible apply Foot.mapCol); rotate_left; decide; decide)
    | with_reducible apply K.ite
    | ((with_reducible apply K.foldl); rotate_left; intro d x h; rotate_right)
    | ((with_reducible apply K.foldlFst); rotate_left; intro x y h; rotate_right)
    | ((with_reducible apply K.foldlSnd); rotate_left; intro x y h; rotate_right)
    | with_reducible apply K.fst_ite
    | with_reducible apply K.cond
    | with_reducible refine K.of_fst ?_ (by assumption)
    | with_reducible refine K.of_snd ?_ (by assumption)
    | (split)
    | dsimp only
    | (rw [Dev.mk_tag]; (with_reducible apply K.mk_col); rotate_left; decide)
    | (rw [Dev.mk_tag]; (with_reducible apply K.mkT); rotate_left; (intro p hq; cases p <;> first | exact absurd hq (by decide) | rfl | exact ⟨rfl, rfl⟩ | exact fun _ => ⟨rfl, rfl⟩); exact fun w => w)

theorem Foot.mlvStrobe {e d : Dev} {pm rm : Nat} (h : K e d pm rm) (hp : sub 0x800 pm = true)
    (hr : sub 0x0 rm = true) : K e (Dev.mlvStrobe d) pm rm := by
  refine K.lift h hp hr ?_
  clear h hp hr
  unfold Dev.mlvStrobe
  all_goals repeat' first
    | with_reducible exact K.refl _ _ _
    | with_reducible assumption
    | ((with_reducible apply Foot.mapCol); rotate_left; decide; decide)
    | with_reducible apply K.ite
    | ((with_reducible apply K.foldl); rotate_left; intro d x h; rotate_right)
    | ((with_reducible apply K.foldlFst); rotate_left; intro x y h; rotate_right)
    | ((with_reducible apply K.foldlSnd); rotate_left; intro x y h; rotate_right)
    | with_reducible apply K.fst_ite
    | with_reducible apply K.cond
    | with_reducible refine K.of_fst ?_ (by assumption)
    | with_reducible refine K.of_snd ?_ (by assumption)
    | (split)
    | dsimp only
    | (rw [Dev.mk_tag]; (with_reducible apply K.mk_col); rotate_left; decide)
    | (rw [Dev.mk_tag]; (with_reducible apply K.mkT); rotate_left; (intro p hq; cases p <;> first | exact absurd hq (by decide) | rfl | exact ⟨rfl, rfl⟩ | exact fun _ => ⟨rfl, rfl⟩); exact fun w => w)

theorem Foot.sendLine {e d : Dev} {pm rm : Nat} {y : Nat} {line : List Px} (h : K e d pm rm) (hp : sub 0x801 pm = true)
    (hr : sub 0x0 rm = true) : K e (Dev.sendLine d y line) pm rm := by
  refine K.lift h hp hr ?_
  clear h hp hr
  unfold Dev.sendLine
  all_goals repeat' first
    | with_reducible exact K.refl _ _ _
    | with_reducible assumption
    | ((with_reducible apply Foot.fresh); rotate_left; decide; decide)
    | ((with_reducible apply Foot.mapCol); rotate_left; decide; decide)
    | ((with_reducible apply Foot.mlvStrobe); rotate_left; decide; decide)
    | ((with_reducible apply Foot.openSlots); rotate_left; decide; decide)
    | with_reducible apply K.ite
    | ((with_reducible apply K.foldl); rotate_left; intro d x h; rotate_right)
    | ((with_reducible apply K.foldlFst); rotate_left; intro x y h; rotate_right)
    | ((with_reducible apply K.foldlSnd); rotate_left; intro x y h; rotate_right)
    | with_reducible apply K.fst_ite
    | with_reducible apply K.cond
    | with_reducible refine K.of_fst ?_ (by assumption)
    | with_reducible refine K.of_snd ?_ (by assumption)
    | (split)
    | dsimp only
    | (rw [Dev.mk_tag]; (with_reducible apply K.mk_free); rotate_left; decide)
    | (rw [Dev.mk_tag]; (with_reducible apply K.mk_col); rotate_left; decide)
    | (rw [Dev.mk_tag]; (with_reducible apply K.mkT); rotate_left; (intro p hq; cases p <;> first | exact absurd hq (by decide) | rfl | exact ⟨rfl, rfl⟩ | exact fun _ => ⟨rfl, rfl⟩); exact fun w => w)

theorem Foot.blankSent {e d : Dev} {pm rm : Nat} (h : K e d pm rm) (hp : sub 0x2802 pm = true)
    (hr : sub 0x221000000000000000000000000000080000 rm = true) : K e (Dev.blankSent d) pm rm := by
  refine K.lift h hp hr ?_
  clear h hp hr
  unfold Dev.blankSent
  extract_lets x1
  clear_value (g1 : x1 = _)
  refine K.cutEq d 0x2802 0x221000000000000000000000000000080000 g1 ?_ (fun h1 => ?_)
  rotate_left
  clear g1
  all_goals repeat' first
    | with_reducible exact K.refl _ _ _
    | with_reducible assumption
    | ((with_reducible apply Foot.ctlSent); rotate_left; decide; decide)
    | ((with_reducible apply Foot.mapCol); rotate_left; decide; decide)
    | ((with_reducible apply Foot.trainDone); rotate_left; decide; decide)
    | ((with_reducible apply Foot.configSent); rotate_left; decide; decide)
    | with_reducible apply K.ite
    | ((with_reducible apply K.foldl); rotate_left; intro d x h; rotate_right)
    | ((with_reducible apply K.foldlFst); rotate_left; intro x y h; rotate_right)
    | ((with_reducible apply K.foldlSnd); rotate_left; intro x y h; rotate_right)
    | with_reducible apply K.fst_ite
    | with_reducible apply K.cond
    | with_reducible refine K.of_fst ?_ (by assumption)
    | with_reducible refine K.of_snd ?_ (by assumption)
    | (split)
    | dsimp only
    | (rw [Dev.mk_tag]; (with_reducible apply K.mk_log); rotate_left; decide)
    | (rw [Dev.mk_tag]; (with_reducible apply K.mk_col); rotate_left; decide)
    | (rw [Dev.mk_tag]; (with_reducible apply K.mk_pseq); rotate_left; decide)
    | (rw [Dev.mk_tag]; (with_reducible apply K.mkT); rotate_left; (intro p hq; cases p <;> first | exact absurd hq (by decide) | rfl | exact ⟨rfl, rfl⟩ | exact fun _ => ⟨rfl, rfl⟩); exact fun w => w)

theorem Foot.tp1Passes {e d : Dev} {pm rm : Nat} (h : K e d pm rm) (hp : sub 0x800 pm = true)
    (hr : sub 0x0 rm = true) : K e (Dev.tp1Passes d) pm rm := by
  refine K.lift h hp hr ?_
  clear h hp hr
  unfold Dev.tp1Passes
  extract_lets x1 x2
  clear_value (g1 : x1 = _) (g2 : x2 = _)
  clear g1
  refine K.cutEq d 0x800 0x0 g2 ?_ (fun h2 => ?_)
  rotate_left
  clear g2
  all_goals repeat' first
    | with_reducible exact K.refl _ _ _
    | with_reducible assumption
    | ((with_reducible apply Foot.setLane); rotate_left; decide; decide)
    | ((with_reducible apply Foot.mapCol); rotate_left; decide; decide)
    | with_reducible apply K.ite
    | ((with_reducible apply K.each); rotate_left; intro d x h; rotate_right)
    | ((with_reducible apply K.foldl); rotate_left; intro d x h; rotate_right)
    | ((with_reducible apply K.foldlFst); rotate_left; intro x y h; rotate_right)
    | ((with_reducible apply K.foldlSnd); rotate_left; intro x y h; rotate_right)
    | with_reducible apply K.fst_ite
    | with_reducible apply K.cond
    | with_reducible refine K.of_fst ?_ (by assumption)
    | with_reducible refine K.of_snd ?_ (by assumption)
    | (split)
    | dsimp only
    | (rw [Dev.mk_tag]; (with_reducible apply K.mk_col); rotate_left; decide)
    | (rw [Dev.mk_tag]; (with_reducible apply K.mkT); rotate_left; (intro p hq; cases p <;> first | exact absurd hq (by decide) | rfl | exact ⟨rfl, rfl⟩ | exact fun _ => ⟨rfl, rfl⟩); exact fun w => w)

theorem Foot.sendBlank {e d : Dev} {pm rm : Nat} (h : K e d pm rm) (hp : sub 0x2802 pm = true)
    (hr : sub 0x221000000000000000000000000000080000 rm = true) : K e (Dev.sendBlank d) pm rm := by
  refine K.lift h hp hr ?_
  clear h hp hr
  unfold Dev.sendBlank
  extract_lets x1 x2
  clear_value (g1 : x1 = _) (g2 : x2 = _)
  clear g1
  refine K.cutEq d 0x2802 0x221000000000000000000000000000080000 g2 ?_ (fun h2 => ?_)
  rotate_left
  clear g2
  all_goals repeat' first
    | with_reducible exact K.refl _ _ _
    | with_reducible assumption
    | ((with_reducible apply Foot.mapCol); rotate_left; decide; decide)
    | ((with_reducible apply Foot.mlvStrobe); rotate_left; decide; decide)
    | ((with_reducible apply Foot.openSlots); rotate_left; decide; decide)
    | ((with_reducible apply Foot.tp1Passes); rotate_left; decide; decide)
    | ((with_reducible apply Foot.blankSent); rotate_left; decide; decide)
    | with_reducible apply K.ite
    | ((with_reducible apply K.foldl); rotate_left; intro d x h; rotate_right)
    | ((with_reducible apply K.foldlFst); rotate_left; intro x y h; rotate_right)
    | ((with_reducible apply K.foldlSnd); rotate_left; intro x y h; rotate_right)
    | with_reducible apply K.fst_ite
    | with_reducible apply K.cond
    | with_reducible refine K.of_fst ?_ (by assumption)
    | with_reducible refine K.of_snd ?_ (by assumption)
    | (split)
    | dsimp only
    | (rw [Dev.mk_tag]; (with_reducible apply K.mk_log); rotate_left; decide)
    | (rw [Dev.mk_tag]; (with_reducible apply K.mk_col); rotate_left; decide)
    | (rw [Dev.mk_tag]; (with_reducible apply K.mk_pseq); rotate_left; decide)
    | (rw [Dev.mk_tag]; (with_reducible apply K.mkT); rotate_left; (intro p hq; cases p <;> first | exact absurd hq (by decide) | rfl | exact ⟨rfl, rfl⟩ | exact fun _ => ⟨rfl, rfl⟩); exact fun w => w)

theorem Foot.gateLine {e d : Dev} {pm rm : Nat} {y : Nat} {repeated : Bool} (h : K e d pm rm) (hp : sub 0x1000 pm = true)
    (hr : sub 0x0 rm = true) : K e (Dev.gateLine d y repeated) pm rm := by
  refine K.lift h hp hr ?_
  clear h hp hr
  unfold Dev.gateLine
  extract_lets x1 x2 x3 x4 x5 x6
  clear_value (g1 : x1 = _) (g2 : x2 = _) (g3 : x3 = _) (g4 : x4 = _) (g5 : x5 = _) (g6 : x6 = _)
  subst g1
  refine K.cutEq d 0x1000 0x0 g2 ?_ (fun h2 => ?_)
  rotate_left
  clear g2
  subst g3
  clear g4
  clear g5
  clear g6
  all_goals repeat' first
    | with_reducible exact K.refl _ _ _
    | with_reducible assumption
    | with_reducible apply K.ite
    | ((with_reducible apply K.foldl); rotate_left; intro d x h; rotate_right)
    | ((with_reducible apply K.foldlFst); rotate_left; intro x y h; rotate_right)
    | ((with_reducible apply K.foldlSnd); rotate_left; intro x y h; rotate_right)
    | with_reducible apply K.fst_ite
    | with_reducible apply K.cond
    | with_reducible refine K.of_fst ?_ (by assumption)
    | with_reducible refine K.of_snd ?_ (by assumption)
    | (split)
    | dsimp only
    | (rw [Dev.mk_tag]; (with_reducible apply K.mk_gate); rotate_left; decide)
    | (rw [Dev.mk_tag]; (with_reducible apply K.mkT); rotate_left; (intro p hq; cases p <;> first | exact absurd hq (by decide) | rfl | exact ⟨rfl, rfl⟩ | exact fun _ => ⟨rfl, rfl⟩); exact fun w => w)

end Sys2Proof.Machine
end

