-- ==== Sys2Proof/Laws/FootScan.lean ====
section
/-! SUPPORT.  Footprints of the functions of `Machine/Scan.lean` (see `Keep.lean`): what each leaves alone. -/

set_option Elab.async false
set_option linter.all false

namespace Sys2Proof.Machine

theorem Foot.once {e d : Dev} {pm rm : Nat} {o : Once} {e0 : Event} {detail : optParam Nat 0} (h : K e d pm rm) (hp : sub 0x402 pm = true)
    (hr : sub 0x80000 rm = true) (hm_e0 : Reg.inMap e0.reg = true) (hx_e0 : rm.testBit e0.reg.no = true) : K e (Dev.once d o e0 detail) pm rm := by
  unfold Dev.once
  extract_lets x1
  clear_value (g1 : x1 = _)
  subst g1
  all_goals repeat' first
    | with_reducible exact K.refl _ _ _
    | with_reducible assumption
    | ((with_reducible apply K.raise); rotate_left; (first | assumption); (first | decide | assumption | exact sub_trans (by decide) hp | exact sub_trans (by decide) hr | exact sub_testBit' hp (by decide) | exact sub_testBit' hr (by decide)); (first | decide | assumption | exact sub_trans (by decide) hp | exact sub_trans (by decide) hr | exact sub_testBit' hp (by decide) | exact sub_testBit' hr (by decide)); (first | decide | assumption | exact sub_trans (by decide) hp | exact sub_trans (by decide) hr | exact sub_testBit' hp (by decide) | exact sub_testBit' hr (by decide)))
    | with_reducible apply K.ite
    | ((with_reducible apply K.foldl); rotate_left; intro d x h; rotate_right)
    | ((with_reducible apply K.foldlFst); rotate_left; intro x y h; rotate_right)
    | ((with_reducible apply K.foldlSnd); rotate_left; intro x y h; rotate_right)
    | with_reducible apply K.fst_ite
    | with_reducible apply K.cond
    | with_reducible refine K.of_fst ?_ (by assumption)
    | with_reducible refine K.of_snd ?_ (by assumption)
    | (split)
    | dsimp only
    | (rw [Dev.mk_tag]; (with_reducible apply K.mk_log); rotate_left; (first | decide | assumption | exact sub_trans (by decide) hp | exact sub_trans (by decide) hr | exact sub_testBit' hp (by decide) | exact sub_testBit' hr (by decide)))
    | (rw [Dev.mk_tag]; (with_reducible apply K.mk_scan); rotate_left; (first | decide | assumption | exact sub_trans (by decide) hp | exact sub_trans (by decide) hr | exact sub_testBit' hp (by decide) | exact sub_testBit' hr (by decide)))
    | (rw [Dev.mk_tag]; (with_reducible apply K.mkT); rotate_left; (intro p hq; cases p <;> first | exact absurd hq (by (first | decide | assumption | exact sub_trans (by decide) hp | exact sub_trans (by decide) hr | exact sub_testBit' hp (by decide) | exact sub_testBit' hr (by decide))) | rfl | exact ⟨rfl, rfl⟩ | exact fun _ => ⟨rfl, rfl⟩); exact fun w => w)

theorem Foot.ringTake {e d : Dev} {pm rm : Nat} {p : Nat} (h : K e d pm rm) (hp : sub 0x0 pm = true)
    (hr : sub 0x800000000000 rm = true) : K e (Dev.ringTake d p) pm rm := by
  refine K.lift h hp hr ?_
  clear h hp hr
  unfold Dev.ringTake
  all_goals repeat' first
    | with_reducible exact K.refl _ _ _
    | with_reducible assumption
    | ((with_reducible apply K.put); rotate_left; (first | assumption | exact R.mem_RING_STATUS); decide)
    | with_reducible apply K.ite
    | ((with_reducible apply K.foldl); rotate_left; intro d x h; rotate_right)
    | ((with_reducible apply K.foldlFst); rotate_left; intro x y h; rotate_right)
    | ((with_reducible apply K.foldlSnd); rotate_left; intro x y h; rotate_right)
    | with_reducible apply K.fst_ite
    | with_reducible apply K.cond
    | with_reducible refine K.of_fst ?_ (by assumption)
    | with_reducible refine K.of_snd ?_ (by assumption)
    | (split)
    | dsimp only
    | (rw [Dev.mk_tag]; (with_reducible apply K.mkT); rotate_left; (intro p hq; cases p <;> first | exact absurd hq (by decide) | rfl | exact ⟨rfl, rfl⟩ | exact fun _ => ⟨rfl, rfl⟩); exact fun w => w)

theorem Foot.ringComplete {e d : Dev} {pm rm : Nat} {p : Nat} (h : K e d pm rm) (hp : sub 0x2 pm = true)
    (hr : sub 0x808000080000 rm = true) : K e (Dev.ringComplete d p) pm rm := by
  refine K.lift h hp hr ?_
  clear h hp hr
  unfold Dev.ringComplete
  extract_lets x1 x2
  clear_value (g1 : x1 = _) (g2 : x2 = _)
  clear g1
  refine K.cutEq d 0x2 0x808000080000 g2 ?_ (fun h2 => ?_)
  rotate_left
  clear g2
  all_goals repeat' first
    | with_reducible exact K.refl _ _ _
    | with_reducible assumption
    | ((with_reducible apply K.put); rotate_left; (first | assumption | exact R.mem_RING_STATUS | exact R.mem_SCAN_EVENT); decide)
    | ((with_reducible apply K.inc); rotate_left; (first | assumption | exact R.mem_RING_STATUS | exact R.mem_SCAN_EVENT); decide)
    | ((with_reducible apply K.raise); rotate_left; (first | assumption | exact R.mem_RING_STATUS | exact R.mem_SCAN_EVENT); decide; decide; decide)
    | with_reducible apply K.ite
    | ((with_reducible apply K.foldl); rotate_left; intro d x h; rotate_right)
    | ((with_reducible apply K.foldlFst); rotate_left; intro x y h; rotate_right)
    | ((with_reducible apply K.foldlSnd); rotate_left; intro x y h; rotate_right)
    | with_reducible apply K.fst_ite
    | with_reducible apply K.cond
    | with_reducible refine K.of_fst ?_ (by assumption)
    | with_reducible refine K.of_snd ?_ (by assumption)
    | (split)
    | dsimp only
    | (rw [Dev.mk_tag]; (with_reducible apply K.mk_log); rotate_left; decide)
    | (rw [Dev.mk_tag]; (with_reducible apply K.mkT); rotate_left; (intro p hq; cases p <;> first | exact absurd hq (by decide) | rfl | exact ⟨rfl, rfl⟩ | exact fun _ => ⟨rfl, rfl⟩); exact fun w => w)

theorem Foot.ringDiscard {e d : Dev} {pm rm : Nat} {p : Nat} (h : K e d pm rm) (hp : sub 0x0 pm = true)
    (hr : sub 0x800000000000 rm = true) : K e (Dev.ringDiscard d p) pm rm := by
  refine K.lift h hp hr ?_
  clear h hp hr
  unfold Dev.ringDiscard
  all_goals repeat' first
    | with_reducible exact K.refl _ _ _
    | with_reducible assumption
    | ((with_reducible apply K.put); rotate_left; (first | assumption | exact R.mem_RING_STATUS); decide)
    | with_reducible apply K.ite
    | ((with_reducible apply K.foldl); rotate_left; intro d x h; rotate_right)
    | ((with_reducible apply K.foldlFst); rotate_left; intro x y h; rotate_right)
    | ((with_reducible apply K.foldlSnd); rotate_left; intro x y h; rotate_right)
    | with_reducible apply K.fst_ite
    | with_reducible apply K.cond
    | with_reducible refine K.of_fst ?_ (by assumption)
    | with_reducible refine K.of_snd ?_ (by assumption)
    | (split)
    | dsimp only
    | (rw [Dev.mk_tag]; (with_reducible apply K.mkT); rotate_left; (intro p hq; cases p <;> first | exact absurd hq (by decide) | rfl | exact ⟨rfl, rfl⟩ | exact fun _ => ⟨rfl, rfl⟩); exact fun w => w)

theorem Foot.ringScanMove {e d : Dev} {pm rm : Nat} {p : Nat} (h : K e d pm rm) (hp : sub 0x0 pm = true)
    (hr : sub 0x800000000000 rm = true) : K e (Dev.ringScanMove d p) pm rm := by
  refine K.lift h hp hr ?_
  clear h hp hr
  unfold Dev.ringScanMove
  extract_lets x1
  clear_value (g1 : x1 = _)
  refine K.cutEq d 0x0 0x800000000000 g1 ?_ (fun h1 => ?_)
  rotate_left
  clear g1
  all_goals repeat' first
    | with_reducible exact K.refl _ _ _
    | with_reducible assumption
    | ((with_reducible apply K.put); rotate_left; (first | assumption | exact R.mem_RING_STATUS); decide)
    | with_reducible apply K.ite
    | ((with_reducible apply K.foldl); rotate_left; intro d x h; rotate_right)
    | ((with_reducible apply K.foldlFst); rotate_left; intro x y h; rotate_right)
    | ((with_reducible apply K.foldlSnd); rotate_left; intro x y h; rotate_right)
    | with_reducible apply K.fst_ite
    | with_reducible apply K.cond
    | with_reducible refine K.of_fst ?_ (by assumption)
    | with_reducible refine K.of_snd ?_ (by assumption)
    | (split)
    | dsimp only
    | (rw [Dev.mk_tag]; (with_reducible apply K.mkT); rotate_left; (intro p hq; cases p <;> first | exact absurd hq (by decide) | rfl | exact ⟨rfl, rfl⟩ | exact fun _ => ⟨rfl, rfl⟩); exact fun w => w)

theorem Foot.ringsFree {e d : Dev} {pm rm : Nat} (h : K e d pm rm) (hp : sub 0x0 pm = true)
    (hr : sub 0x800000000000 rm = true) : K e (Dev.ringsFree d) pm rm := by
  refine K.lift h hp hr ?_
  clear h hp hr
  unfold Dev.ringsFree
  all_goals repeat' first
    | with_reducible exact K.refl _ _ _
    | with_reducible assumption
    | ((with_reducible apply K.put); rotate_left; (first | assumption | exact R.mem_RING_STATUS); decide)
    | with_reducible apply K.ite
    | ((with_reducible apply K.each); rotate_left; intro d x h; rotate_right)
    | ((with_reducible apply K.foldl); rotate_left; intro d x h; rotate_right)
    | ((with_reducible apply K.foldlFst); rotate_left; intro x y h; rotate_right)
    | ((with_reducible apply K.foldlSnd); rotate_left; intro x y h; rotate_right)
    | with_reducible apply K.fst_ite
    | with_reducible apply K.cond
    | with_reducible refine K.of_fst ?_ (by assumption)
    | with_reducible refine K.of_snd ?_ (by assumption)
    | (split)
    | dsimp only
    | (rw [Dev.mk_tag]; (with_reducible apply K.mkT); rotate_left; (intro p hq; cases p <;> first | exact absurd hq (by decide) | rfl | exact ⟨rfl, rfl⟩ | exact fun _ => ⟨rfl, rfl⟩); exact fun w => w)

theorem Foot.showAvail {e d : Dev} {pm rm : Nat} (h : K e d pm rm) (hp : sub 0x0 pm = true)
    (hr : sub 0x80000000 rm = true) : K e (Dev.showAvail d) pm rm := by
  refine K.lift h hp hr ?_
  clear h hp hr
  unfold Dev.showAvail
  all_goals repeat' first
    | with_reducible exact K.refl _ _ _
    | with_reducible assumption
    | ((with_reducible apply K.put); rotate_left; (first | assumption | exact R.mem_LADDER_STATUS); decide)
    | with_reducible apply K.ite
    | ((with_reducible apply K.foldl); rotate_left; intro d x h; rotate_right)
    | ((with_reducible apply K.foldlFst); rotate_left; intro x y h; rotate_right)
    | ((with_reducible apply K.foldlSnd); rotate_left; intro x y h; rotate_right)
    | with_reducible apply K.fst_ite
    | with_reducible apply K.cond
    | with_reducible refine K.of_fst ?_ (by assumption)
    | with_reducible refine K.of_snd ?_ (by assumption)
    | (split)
    | dsimp only
    | (rw [Dev.mk_tag]; (with_reducible apply K.mkT); rotate_left; (intro p hq; cases p <;> first | exact absurd hq (by decide) | rfl | exact ⟨rfl, rfl⟩ | exact fun _ => ⟨rfl, rfl⟩); exact fun w => w)

theorem Foot.setLevel {e d : Dev} {pm rm : Nat} {l : Nat} (h : K e d pm rm) (hp : sub 0x400 pm = true)
    (hr : sub 0x42000000 rm = true) : K e (Dev.setLevel d l) pm rm := by
  refine K.lift h hp hr ?_
  clear h hp hr
  unfold Dev.setLevel
  extract_lets x1 x2
  clear_value (g1 : x1 = _) (g2 : x2 = _)
  subst g1
  refine K.cutEq d 0x400 0x42000000 g2 ?_ (fun h2 => ?_)
  rotate_left
  clear g2
  all_goals repeat' first
    | with_reducible exact K.refl _ _ _
    | with_reducible assumption
    | ((with_reducible apply K.put); rotate_left; (first | assumption | exact R.mem_FSEQ_STATUS | exact R.mem_LADDER_CTRL); decide)
    | with_reducible apply K.ite
    | ((with_reducible apply K.foldl); rotate_left; intro d x h; rotate_right)
    | ((with_reducible apply K.foldlFst); rotate_left; intro x y h; rotate_right)
    | ((with_reducible apply K.foldlSnd); rotate_left; intro x y h; rotate_right)
    | with_reducible apply K.fst_ite
    | with_reducible apply K.cond
    | with_reducible refine K.of_fst ?_ (by assumption)
    | with_reducible refine K.of_snd ?_ (by assumption)
    | (split)
    | dsimp only
    | (rw [Dev.mk_tag]; (with_reducible apply K.mk_scan); rotate_left; decide)
    | (rw [Dev.mk_tag]; (with_reducible apply K.mkT); rotate_left; (intro p hq; cases p <;> first | exact absurd hq (by decide) | rfl | exact ⟨rfl, rfl⟩ | exact fun _ => ⟨rfl, rfl⟩); exact fun w => w)

theorem Foot.ladderDrop {e d : Dev} {pm rm : Nat} {cause : Nat} {old : Nat} {new : Nat} (h : K e d pm rm) (hp : sub 0x402 pm = true)
    (hr : sub 0xd2080000 rm = true) : K e (Dev.ladderDrop d cause old new) pm rm := by
  refine K.lift h hp hr ?_
  clear h hp hr
  unfold Dev.ladderDrop
  extract_lets x1
  clear_value (g1 : x1 = _)
  refine K.cutEq d 0x402 0xd2080000 g1 ?_ (fun h1 => ?_)
  rotate_left
  clear g1
  all_goals repeat' first
    | with_reducible exact K.refl _ _ _
    | with_reducible assumption
    | ((with_reducible apply K.put); rotate_left; (first | assumption | exact R.mem_FSEQ_EVENT | exact R.mem_LADDER_STATUS); decide)
    | ((with_reducible apply K.inc); rotate_left; (first | assumption | exact R.mem_FSEQ_EVENT | exact R.mem_LADDER_STATUS); decide)
    | ((with_reducible apply K.raiseSev); rotate_left; (first | assumption | exact R.mem_FSEQ_EVENT | exact R.mem_LADDER_STATUS); decide; decide; decide)
    | ((with_reducible apply Foot.setLevel); rotate_left; decide; decide)
    | with_reducible apply K.ite
    | ((with_reducible apply K.foldl); rotate_left; intro d x h; rotate_right)
    | ((with_reducible apply K.foldlFst); rotate_left; intro x y h; rotate_right)
    | ((with_reducible apply K.foldlSnd); rotate_left; intro x y h; rotate_right)
    | with_reducible apply K.fst_ite
    | with_reducible apply K.cond
    | with_reducible refine K.of_fst ?_ (by assumption)
    | with_reducible refine K.of_snd ?_ (by assumption)
    | (split)
    | dsimp only
    | (rw [Dev.mk_tag]; (with_reducible apply K.mk_log); rotate_left; decide)
    | (rw [Dev.mk_tag]; (with_reducible apply K.mk_scan); rotate_left; decide)
    | (rw [Dev.mk_tag]; (with_reducible apply K.mkT); rotate_left; (intro p hq; cases p <;> first | exact absurd hq (by decide) | rfl | exact ⟨rfl, rfl⟩ | exact fun _ => ⟨rfl, rfl⟩); exact fun w => w)

theorem Foot.applyDrop {e d : Dev} {pm rm : Nat} {old : Nat} (h : K e d pm rm) (hp : sub 0x402 pm = true)
    (hr : sub 0xd2080000 rm = true) : K e (Dev.applyDrop d old) pm rm := by
  refine K.lift h hp hr ?_
  clear h hp hr
  unfold Dev.applyDrop
  extract_lets x1 x2
  clear_value (g1 : x1 = _) (g2 : x2 = _)
  subst g1
  refine K.cutEq d 0x402 0xd2080000 g2 ?_ (fun h2 => ?_)
  rotate_left
  clear g2
  all_goals repeat' first
    | with_reducible exact K.refl _ _ _
    | with_reducible assumption
    | ((with_reducible apply Foot.ladderDrop); rotate_left; decide; decide)
    | with_reducible apply K.ite
    | ((with_reducible apply K.foldl); rotate_left; intro d x h; rotate_right)
    | ((with_reducible apply K.foldlFst); rotate_left; intro x y h; rotate_right)
    | ((with_reducible apply K.foldlSnd); rotate_left; intro x y h; rotate_right)
    | with_reducible apply K.fst_ite
    | with_reducible apply K.cond
    | with_reducible refine K.of_fst ?_ (by assumption)
    | with_reducible refine K.of_snd ?_ (by assumption)
    | (split)
    | dsimp only
    | (rw [Dev.mk_tag]; (with_reducible apply K.mk_log); rotate_left; decide)
    | (rw [Dev.mk_tag]; (with_reducible apply K.mk_scan); rotate_left; decide)
    | (rw [Dev.mk_tag]; (with_reducible apply K.mkT); rotate_left; (intro p hq; cases p <;> first | exact absurd hq (by decide) | rfl | exact ⟨rfl, rfl⟩ | exact fun _ => ⟨rfl, rfl⟩); exact fun w => w)

theorem Foot.underrun {e d : Dev} {pm rm : Nat} {l : Nat} {y : Nat} {x0 : Nat} {dram : Bool} (h : K e d pm rm) (hp : sub 0x402 pm = true)
    (hr : sub 0x68000080000 rm = true) : K e (Dev.underrun d l y x0 dram) pm rm := by
  refine K.lift h hp hr ?_
  clear h hp hr
  unfold Dev.underrun
  extract_lets x1 x2 x3 x4 x5
  clear_value (g1 : x1 = _) (g2 : x2 = _) (g3 : x3 = _) (g4 : x4 = _) (g5 : x5 = _)
  refine K.cutEq d 0x402 0x68000080000 g1 ?_ (fun h1 => ?_)
  rotate_left
  clear g1
  clear g2
  refine K.cutEq d 0x402 0x68000080000 g3 ?_ (fun h3 => ?_)
  rotate_left
  clear g3
  refine K.cutEq d 0x402 0x68000080000 g4 ?_ (fun h4 => ?_)
  rotate_left
  clear g4
  subst g5
  all_goals repeat' first
    | with_reducible exact K.refl _ _ _
    | with_reducible assumption
    | ((with_reducible apply K.put); rotate_left; (first | assumption | exact R.mem_SCAN_EVENT | exact R.mem_UNDERRUN_FRAMES | exact R.mem_UNDERRUN_STATUS); decide)
    | ((with_reducible apply K.inc); rotate_left; (first | assumption | exact R.mem_SCAN_EVENT | exact R.mem_UNDERRUN_FRAMES | exact R.mem_UNDERRUN_STATUS); decide)
    | ((with_reducible apply Foot.once); rotate_left; decide; decide; (first | assumption | (first | assumption | exact R.mem_SCAN_EVENT | exact R.mem_UNDERRUN_FRAMES | exact R.mem_UNDERRUN_STATUS) | decide); (first | assumption | (first | assumption | exact R.mem_SCAN_EVENT | exact R.mem_UNDERRUN_FRAMES | exact R.mem_UNDERRUN_STATUS) | decide))
    | with_reducible apply K.ite
    | ((with_reducible apply K.foldl); rotate_left; intro d x h; rotate_right)
    | ((with_reducible apply K.foldlFst); rotate_left; intro x y h; rotate_right)
    | ((with_reducible apply K.foldlSnd); rotate_left; intro x y h; rotate_right)
    | with_reducible apply K.fst_ite
    | with_reducible apply K.cond
    | with_reducible refine K.of_fst ?_ (by assumption)
    | with_reducible refine K.of_snd ?_ (by assumption)
    | (split)
    | dsimp only
    | (rw [Dev.mk_tag]; (with_reducible apply K.mk_log); rotate_left; decide)
    | (rw [Dev.mk_tag]; (with_reducible apply K.mk_scan); rotate_left; decide)
    | (rw [Dev.mk_tag]; (with_reducible apply K.mkT); rotate_left; (intro p hq; cases p <;> first | exact absurd hq (by decide) | rfl | exact ⟨rfl, rfl⟩ | exact fun _ => ⟨rfl, rfl⟩); exact fun w => w)

theorem Foot.fetchBlock {e d : Dev} {pm rm : Nat} {port : Nat} {k0 : BKind} {addr : Nat} {entry : Option Nat} {n : Nat} (h : K e d pm rm) (hp : sub 0x80000a2 pm = true)
    (hr : sub 0x800000000000000000000a368281a800000000040000400000000000000000000080000 rm = true) : K e (Dev.fetchBlock d port k0 addr entry n).1 pm rm := by
  refine K.lift h hp hr ?_
  clear h hp hr
  unfold Dev.fetchBlock
  all_goals repeat' first
    | with_reducible exact K.refl _ _ _
    | with_reducible assumption
    | ((with_reducible apply Foot.lsRead); rotate_left; decide; decide)
    | ((with_reducible apply Foot.dramRead); rotate_left; decide; decide)
    | ((with_reducible apply Foot.lsWrite); rotate_left; decide; decide)
    | with_reducible apply K.ite
    | ((with_reducible apply K.foldl); rotate_left; intro d x h; rotate_right)
    | ((with_reducible apply K.foldlFst); rotate_left; intro x y h; rotate_right)
    | ((with_reducible apply K.foldlSnd); rotate_left; intro x y h; rotate_right)
    | with_reducible apply K.fst_ite
    | with_reducible apply K.cond
    | with_reducible refine K.of_fst ?_ (by assumption)
    | with_reducible refine K.of_snd ?_ (by assumption)
    | (split)
    | dsimp only
    | (rw [Dev.mk_tag]; (with_reducible apply K.mk_log); rotate_left; decide)
    | (rw [Dev.mk_tag]; (with_reducible apply K.mk_ls); rotate_left; decide; (first | exact .inl rfl | exact .inl ⟨rfl, rfl⟩ | exact .inr ⟨by decide, by (intro w; first | exact w | exact Memory.wf_write _ _ w | exact Memory.wf_clear _ _ w | exact Memory.wf_filter _ w | exact Memory.wf_set _ _ w)⟩))
    | (rw [Dev.mk_tag]; (with_reducible apply K.mk_dram); rotate_left; decide; (first | exact .inl rfl | exact .inl ⟨rfl, rfl⟩ | exact .inr ⟨by decide, by (intro w; first | exact w | exact Memory.wf_write _ _ w | exact Memory.wf_clear _ _ w | exact Memory.wf_filter _ w | exact Memory.wf_set _ _ w)⟩))
    | (rw [Dev.mk_tag]; (with_reducible apply K.mkT); rotate_left; (intro p hq; cases p <;> first | exact absurd hq (by decide) | rfl | exact ⟨rfl, rfl⟩ | exact fun _ => ⟨rfl, rfl⟩); exact fun w => w)

theorem Foot.blockBad {e d : Dev} {pm rm : Nat} {u : ReadUnit} {source : Nat} {line : Nat} {seg : Nat} (h : K e d pm rm) (hp : sub 0x402 pm = true)
    (hr : sub 0x2880000000000000000000000000000000080000 rm = true) : K e (Dev.blockBad d u source line seg) pm rm := by
  refine K.lift h hp hr ?_
  clear h hp hr
  unfold Dev.blockBad
  all_goals repeat' first
    | with_reducible exact K.refl _ _ _
    | with_reducible assumption
    | ((with_reducible apply Foot.once); rotate_left; decide; decide; (first | assumption | (first | assumption | exact R.mem_CODEC_EVENT) | decide); (first | assumption | (first | assumption | exact R.mem_CODEC_EVENT) | decide))
    | ((with_reducible apply Foot.blockCheckRecord); rotate_left; decide; decide)
    | with_reducible apply K.ite
    | ((with_reducible apply K.foldl); rotate_left; intro d x h; rotate_right)
    | ((with_reducible apply K.foldlFst); rotate_left; intro x y h; rotate_right)
    | ((with_reducible apply K.foldlSnd); rotate_left; intro x y h; rotate_right)
    | with_reducible apply K.fst_ite
    | with_reducible apply K.cond
    | with_reducible refine K.of_fst ?_ (by assumption)
    | with_reducible refine K.of_snd ?_ (by assumption)
    | (split)
    | dsimp only
    | (rw [Dev.mk_tag]; (with_reducible apply K.mk_log); rotate_left; decide)
    | (rw [Dev.mk_tag]; (with_reducible apply K.mk_scan); rotate_left; decide)
    | (rw [Dev.mk_tag]; (with_reducible apply K.mkT); rotate_left; (intro p hq; cases p <;> first | exact absurd hq (by decide) | rfl | exact ⟨rfl, rfl⟩ | exact fun _ => ⟨rfl, rfl⟩); exact fun w => w)

theorem Foot.takeSeg {e d : Dev} {pm rm : Nat} {u : ReadUnit} {line : Nat} {seg : Nat} {px : Option (List Px)} (h : K e d pm rm) (hp : sub 0x400 pm = true)
    (hr : sub 0x0 rm = true) : K e (Dev.takeSeg d u line seg px) pm rm := by
  refine K.lift h hp hr ?_
  clear h hp hr
  unfold Dev.takeSeg
  extract_lets x1
  clear_value (g1 : x1 = _)
  subst g1
  all_goals repeat' first
    | with_reducible exact K.refl _ _ _
    | with_reducible assumption
    | with_reducible apply K.ite
    | ((with_reducible apply K.foldl); rotate_left; intro d x h; rotate_right)
    | ((with_reducible apply K.foldlFst); rotate_left; intro x y h; rotate_right)
    | ((with_reducible apply K.foldlSnd); rotate_left; intro x y h; rotate_right)
    | with_reducible apply K.fst_ite
    | with_reducible apply K.cond
    | with_reducible refine K.of_fst ?_ (by assumption)
    | with_reducible refine K.of_snd ?_ (by assumption)
    | (split)
    | dsimp only
    | (rw [Dev.mk_tag]; (with_reducible apply K.mk_scan); rotate_left; decide)
    | (rw [Dev.mk_tag]; (with_reducible apply K.mkT); rotate_left; (intro p hq; cases p <;> first | exact absurd hq (by decide) | rfl | exact ⟨rfl, rfl⟩ | exact fun _ => ⟨rfl, rfl⟩); exact fun w => w)

theorem Foot.fetchRing {e d : Dev} {pm rm : Nat} {b : Nat} {line : Nat} {seg : Nat} (h : K e d pm rm) (hp : sub 0x80000a2 pm = true)
    (hr : sub 0x800000000000000000000a368281a800000000040000400000000000000000000080000 rm = true) : K e (Dev.fetchRing d b line seg).1 pm rm := by
  refine K.lift h hp hr ?_
  clear h hp hr
  unfold Dev.fetchRing
  all_goals repeat' first
    | with_reducible exact K.refl _ _ _
    | with_reducible assumption
    | ((with_reducible apply Foot.fetchBlock); rotate_left; decide; decide)
    | with_reducible apply K.ite
    | ((with_reducible apply K.foldl); rotate_left; intro d x h; rotate_right)
    | ((with_reducible apply K.foldlFst); rotate_left; intro x y h; rotate_right)
    | ((with_reducible apply K.foldlSnd); rotate_left; intro x y h; rotate_right)
    | with_reducible apply K.fst_ite
    | with_reducible apply K.cond
    | with_reducible refine K.of_fst ?_ (by assumption)
    | with_reducible refine K.of_snd ?_ (by assumption)
    | (split)
    | dsimp only
    | (rw [Dev.mk_tag]; (with_reducible apply K.mk_log); rotate_left; decide)
    | (rw [Dev.mk_tag]; (with_reducible apply K.mk_ls); rotate_left; decide; (first | exact .inl rfl | exact .inl ⟨rfl, rfl⟩ | exact .inr ⟨by decide, by (intro w; first | exact w | exact Memory.wf_write _ _ w | exact Memory.wf_clear _ _ w | exact Memory.wf_filter _ w | exact Memory.wf_set _ _ w)⟩))
    | (rw [Dev.mk_tag]; (with_reducible apply K.mk_dram); rotate_left; decide; (first | exact .inl rfl | exact .inl ⟨rfl, rfl⟩ | exact .inr ⟨by decide, by (intro w; first | exact w | exact Memory.wf_write _ _ w | exact Memory.wf_clear _ _ w | exact Memory.wf_filter _ w | exact Memory.wf_set _ _ w)⟩))
    | (rw [Dev.mk_tag]; (with_reducible apply K.mkT); rotate_left; (intro p hq; cases p <;> first | exact absurd hq (by decide) | rfl | exact ⟨rfl, rfl⟩ | exact fun _ => ⟨rfl, rfl⟩); exact fun w => w)

theorem Foot.fetchPrev {e d : Dev} {pm rm : Nat} {p : Nat} {line : Nat} {seg : Nat} (h : K e d pm rm) (hp : sub 0x80004a2 pm = true)
    (hr : sub 0x800000000000000000000a368281a802880000040000400000000000000000000080000 rm = true) : K e (Dev.fetchPrev d p line seg).1 pm rm := by
  refine K.lift h hp hr ?_
  clear h hp hr
  unfold Dev.fetchPrev
  all_goals repeat' first
    | with_reducible exact K.refl _ _ _
    | with_reducible assumption
    | ((with_reducible apply Foot.fetchRing); rotate_left; decide; decide)
    | ((with_reducible apply Foot.blockBad); rotate_left; decide; decide)
    | with_reducible apply K.ite
    | ((with_reducible apply K.foldl); rotate_left; intro d x h; rotate_right)
    | ((with_reducible apply K.foldlFst); rotate_left; intro x y h; rotate_right)
    | ((with_reducible apply K.foldlSnd); rotate_left; intro x y h; rotate_right)
    | with_reducible apply K.fst_ite
    | with_reducible apply K.cond
    | with_reducible refine K.of_fst ?_ (by assumption)
    | with_reducible refine K.of_snd ?_ (by assumption)
    | (split)
    | dsimp only
    | (rw [Dev.mk_tag]; (with_reducible apply K.mk_log); rotate_left; decide)
    | (rw [Dev.mk_tag]; (with_reducible apply K.mk_ls); rotate_left; decide; (first | exact .inl rfl | exact .inl ⟨rfl, rfl⟩ | exact .inr ⟨by decide, by (intro w; first | exact w | exact Memory.wf_write _ _ w | exact Memory.wf_clear _ _ w | exact Memory.wf_filter _ w | exact Memory.wf_set _ _ w)⟩))
    | (rw [Dev.mk_tag]; (with_reducible apply K.mk_dram); rotate_left; decide; (first | exact .inl rfl | exact .inl ⟨rfl, rfl⟩ | exact .inr ⟨by decide, by (intro w; first | exact w | exact Memory.wf_write _ _ w | exact Memory.wf_clear _ _ w | exact Memory.wf_filter _ w | exact Memory.wf_set _ _ w)⟩))
    | (rw [Dev.mk_tag]; (with_reducible apply K.mk_scan); rotate_left; decide)
    | (rw [Dev.mk_tag]; (with_reducible apply K.mkT); rotate_left; (intro p hq; cases p <;> first | exact absurd hq (by decide) | rfl | exact ⟨rfl, rfl⟩ | exact fun _ => ⟨rfl, rfl⟩); exact fun w => w)

theorem Foot.histErr {e d : Dev} {pm rm : Nat} (h : K e d pm rm) (hp : sub 0x402 pm = true)
    (hr : sub 0x140000000000000000000000000080000 rm = true) : K e (Dev.histErr d) pm rm := by
  refine K.lift h hp hr ?_
  clear h hp hr
  unfold Dev.histErr
  all_goals repeat' first
    | with_reducible exact K.refl _ _ _
    | with_reducible assumption
    | ((with_reducible apply K.inc); rotate_left; (first | assumption | exact R.mem_DRIVE_EVENT | exact R.mem_HIST_ERR_COUNT); decide)
    | ((with_reducible apply Foot.once); rotate_left; decide; decide; (first | assumption | (first | assumption | exact R.mem_DRIVE_EVENT | exact R.mem_HIST_ERR_COUNT) | decide); (first | assumption | (first | assumption | exact R.mem_DRIVE_EVENT | exact R.mem_HIST_ERR_COUNT) | decide))
    | with_reducible apply K.ite
    | ((with_reducible apply K.foldl); rotate_left; intro d x h; rotate_right)
    | ((with_reducible apply K.foldlFst); rotate_left; intro x y h; rotate_right)
    | ((with_reducible apply K.foldlSnd); rotate_left; intro x y h; rotate_right)
    | with_reducible apply K.fst_ite
    | with_reducible apply K.cond
    | with_reducible refine K.of_fst ?_ (by assumption)
    | with_reducible refine K.of_snd ?_ (by assumption)
    | (split)
    | dsimp only
    | (rw [Dev.mk_tag]; (with_reducible apply K.mk_log); rotate_left; decide)
    | (rw [Dev.mk_tag]; (with_reducible apply K.mk_scan); rotate_left; decide)
    | (rw [Dev.mk_tag]; (with_reducible apply K.mkT); rotate_left; (intro p hq; cases p <;> first | exact absurd hq (by decide) | rfl | exact ⟨rfl, rfl⟩ | exact fun _ => ⟨rfl, rfl⟩); exact fun w => w)

theorem Foot.histLost {e d : Dev} {pm rm : Nat} {u : ReadUnit} {line : Nat} {seg : Nat} (h : K e d pm rm) (hp : sub 0x402 pm = true)
    (hr : sub 0x140000000000000000000000000080000 rm = true) : K e (Dev.histLost d u line seg) pm rm := by
  refine K.lift h hp hr ?_
  clear h hp hr
  unfold Dev.histLost
  all_goals repeat' first
    | with_reducible exact K.refl _ _ _
    | with_reducible assumption
    | ((with_reducible apply Foot.takeSeg); rotate_left; decide; decide)
    | ((with_reducible apply Foot.histErr); rotate_left; decide; decide)
    | with_reducible apply K.ite
    | ((with_reducible apply K.foldl); rotate_left; intro d x h; rotate_right)
    | ((with_reducible apply K.foldlFst); rotate_left; intro x y h; rotate_right)
    | ((with_reducible apply K.foldlSnd); rotate_left; intro x y h; rotate_right)
    | with_reducible apply K.fst_ite
    | with_reducible apply K.cond
    | with_reducible refine K.of_fst ?_ (by assumption)
    | with_reducible refine K.of_snd ?_ (by assumption)
    | (split)
    | dsimp only
    | (rw [Dev.mk_tag]; (with_reducible apply K.mk_log); rotate_left; decide)
    | (rw [Dev.mk_tag]; (with_reducible apply K.mk_scan); rotate_left; decide)
    | (rw [Dev.mk_tag]; (with_reducible apply K.mkT); rotate_left; (intro p hq; cases p <;> first | exact absurd hq (by decide) | rfl | exact ⟨rfl, rfl⟩ | exact fun _ => ⟨rfl, rfl⟩); exact fun w => w)

theorem Foot.fetchHd {e d : Dev} {pm rm : Nat} {line : Nat} {seg : Nat} (h : K e d pm rm) (hp : sub 0x80004a2 pm = true)
    (hr : sub 0x800000000000000000000a368281a802880000140000400000000000000000000080000 rm = true) : K e (Dev.fetchHd d line seg) pm rm := by
  refine K.lift h hp hr ?_
  clear h hp hr
  unfold Dev.fetchHd
  all_goals repeat' first
    | with_reducible exact K.refl _ _ _
    | with_reducible assumption
    | ((with_reducible apply Foot.fetchBlock); rotate_left; decide; decide)
    | ((with_reducible apply Foot.takeSeg); rotate_left; decide; decide)
    | ((with_reducible apply Foot.histLost); rotate_left; decide; decide)
    | ((with_reducible apply Foot.blockBad); rotate_left; decide; decide)
    | with_reducible apply K.ite
    | ((with_reducible apply K.foldl); rotate_left; intro d x h; rotate_right)
    | ((with_reducible apply K.foldlFst); rotate_left; intro x y h; rotate_right)
    | ((with_reducible apply K.foldlSnd); rotate_left; intro x y h; rotate_right)
    | with_reducible apply K.fst_ite
    | with_reducible apply K.cond
    | with_reducible refine K.of_fst ?_ (by assumption)
    | with_reducible refine K.of_snd ?_ (by assumption)
    | (split)
    | dsimp only
    | (rw [Dev.mk_tag]; (with_reducible apply K.mk_log); rotate_left; decide)
    | (rw [Dev.mk_tag]; (with_reducible apply K.mk_ls); rotate_left; decide; (first | exact .inl rfl | exact .inl ⟨rfl, rfl⟩ | exact .inr ⟨by decide, by (intro w; first | exact w | exact Memory.wf_write _ _ w | exact Memory.wf_clear _ _ w | exact Memory.wf_filter _ w | exact Memory.wf_set _ _ w)⟩))
    | (rw [Dev.mk_tag]; (with_reducible apply K.mk_dram); rotate_left; decide; (first | exact .inl rfl | exact .inl ⟨rfl, rfl⟩ | exact .inr ⟨by decide, by (intro w; first | exact w | exact Memory.wf_write _ _ w | exact Memory.wf_clear _ _ w | exact Memory.wf_filter _ w | exact Memory.wf_set _ _ w)⟩))
    | (rw [Dev.mk_tag]; (with_reducible apply K.mk_scan); rotate_left; decide)
    | (rw [Dev.mk_tag]; (with_reducible apply K.mkT); rotate_left; (intro p hq; cases p <;> first | exact absurd hq (by decide) | rfl | exact ⟨rfl, rfl⟩ | exact fun _ => ⟨rfl, rfl⟩); exact fun w => w)

theorem Foot.fetchStored {e d : Dev} {pm rm : Nat} {port : Nat} {placard : Bool} {line : Nat} {seg : Nat} (h : K e d pm rm) (hp : sub 0x80000a2 pm = true)
    (hr : sub 0x800000000000000000000a368281a800000000040000400000000000000000000080000 rm = true) : K e (Dev.fetchStored d port placard line seg).1 pm rm := by
  refine K.lift h hp hr ?_
  clear h hp hr
  unfold Dev.fetchStored
  extract_lets x1 x2
  clear_value (g1 : x1 = _) (g2 : x2 = _)
  clear g1
  clear g2
  all_goals repeat' first
    | with_reducible exact K.refl _ _ _
    | with_reducible assumption
    | ((with_reducible apply Foot.fetchBlock); rotate_left; decide; decide)
    | with_reducible apply K.ite
    | ((with_reducible apply K.foldl); rotate_left; intro d x h; rotate_right)
    | ((with_reducible apply K.foldlFst); rotate_left; intro x y h; rotate_right)
    | ((with_reducible apply K.foldlSnd); rotate_left; intro x y h; rotate_right)
    | with_reducible apply K.fst_ite
    | with_reducible apply K.cond
    | with_reducible refine K.of_fst ?_ (by assumption)
    | with_reducible refine K.of_snd ?_ (by assumption)
    | (split)
    | dsimp only
    | (rw [Dev.mk_tag]; (with_reducible apply K.mk_log); rotate_left; decide)
    | (rw [Dev.mk_tag]; (with_reducible apply K.mk_ls); rotate_left; decide; (first | exact .inl rfl | exact .inl ⟨rfl, rfl⟩ | exact .inr ⟨by decide, by (intro w; first | exact w | exact Memory.wf_write _ _ w | exact Memory.wf_clear _ _ w | exact Memory.wf_filter _ w | exact Memory.wf_set _ _ w)⟩))
    | (rw [Dev.mk_tag]; (with_reducible apply K.mk_dram); rotate_left; decide; (first | exact .inl rfl | exact .inl ⟨rfl, rfl⟩ | exact .inr ⟨by decide, by (intro w; first | exact w | exact Memory.wf_write _ _ w | exact Memory.wf_clear _ _ w | exact Memory.wf_filter _ w | exact Memory.wf_set _ _ w)⟩))
    | (rw [Dev.mk_tag]; (with_reducible apply K.mkT); rotate_left; (intro p hq; cases p <;> first | exact absurd hq (by decide) | rfl | exact ⟨rfl, rfl⟩ | exact fun _ => ⟨rfl, rfl⟩); exact fun w => w)

theorem Foot.fetchFd1 {e d : Dev} {pm rm : Nat} {line : Nat} {seg : Nat} (h : K e d pm rm) (hp : sub 0x80004a2 pm = true)
    (hr : sub 0x800000000000000000000a368281a802880000140000400000000000000000000080000 rm = true) : K e (Dev.fetchFd1 d line seg) pm rm := by
  refine K.lift h hp hr ?_
  clear h hp hr
  unfold Dev.fetchFd1
  all_goals repeat' first
    | with_reducible exact K.refl _ _ _
    | with_reducible assumption
    | ((with_reducible apply Foot.fetchStored); rotate_left; decide; decide)
    | ((with_reducible apply Foot.takeSeg); rotate_left; decide; decide)
    | ((with_reducible apply Foot.histLost); rotate_left; decide; decide)
    | ((with_reducible apply Foot.blockBad); rotate_left; decide; decide)
    | with_reducible apply K.ite
    | ((with_reducible apply K.foldl); rotate_left; intro d x h; rotate_right)
    | ((with_reducible apply K.foldlFst); rotate_left; intro x y h; rotate_right)
    | ((with_reducible apply K.foldlSnd); rotate_left; intro x y h; rotate_right)
    | with_reducible apply K.fst_ite
    | with_reducible apply K.cond
    | with_reducible refine K.of_fst ?_ (by assumption)
    | with_reducible refine K.of_snd ?_ (by assumption)
    | (split)
    | dsimp only
    | (rw [Dev.mk_tag]; (with_reducible apply K.mk_log); rotate_left; decide)
    | (rw [Dev.mk_tag]; (with_reducible apply K.mk_ls); rotate_left; decide; (first | exact .inl rfl | exact .inl ⟨rfl, rfl⟩ | exact .inr ⟨by decide, by (intro w; first | exact w | exact Memory.wf_write _ _ w | exact Memory.wf_clear _ _ w | exact Memory.wf_filter _ w | exact Memory.wf_set _ _ w)⟩))
    | (rw [Dev.mk_tag]; (with_reducible apply K.mk_dram); rotate_left; decide; (first | exact .inl rfl | exact .inl ⟨rfl, rfl⟩ | exact .inr ⟨by decide, by (intro w; first | exact w | exact Memory.wf_write _ _ w | exact Memory.wf_clear _ _ w | exact Memory.wf_filter _ w | exact Memory.wf_set _ _ w)⟩))
    | (rw [Dev.mk_tag]; (with_reducible apply K.mk_scan); rotate_left; decide)
    | (rw [Dev.mk_tag]; (with_reducible apply K.mkT); rotate_left; (intro p hq; cases p <;> first | exact absurd hq (by decide) | rfl | exact ⟨rfl, rfl⟩ | exact fun _ => ⟨rfl, rfl⟩); exact fun w => w)

theorem Foot.storeExact {e d : Dev} {pm rm : Nat} {u : WriteUnit} {port : Nat} {addr : Nat} {entry : Nat} {px : List Px} {fault : Bool} (h : K e d pm rm) (hp : sub 0x180004a3 pm = true)
    (hr : sub 0x800000000000000000000a368281a800280000040000400000000000000000000080000 rm = true) : K e (Dev.storeExact d u port addr entry px fault).1 pm rm := by
  refine K.lift h hp hr ?_
  clear h hp hr
  unfold Dev.storeExact
  extract_lets x1 x2
  clear_value (g1 : x1 = _) (g2 : x2 = _)
  subst g1
  refine K.cutEq d 0x180004a3 0x800000000000000000000a368281a800280000040000400000000000000000000080000 g2 ?_ (fun h2 => ?_)
  rotate_left
  clear g2
  all_goals repeat' first
    | with_reducible exact K.refl _ _ _
    | with_reducible assumption
    | ((with_reducible apply K.inc); rotate_left; (first | assumption | exact R.mem_CODEC_EVENT | exact R.mem_CORR_EVENT | exact R.mem_DRIVE_EVENT | exact R.mem_VERIFY_MISMATCH_COUNT); decide)
    | ((with_reducible apply Foot.once); rotate_left; decide; decide; (first | assumption | (first | assumption | exact R.mem_CODEC_EVENT | exact R.mem_CORR_EVENT | exact R.mem_DRIVE_EVENT | exact R.mem_VERIFY_MISMATCH_COUNT) | decide); (first | assumption | (first | assumption | exact R.mem_CODEC_EVENT | exact R.mem_CORR_EVENT | exact R.mem_DRIVE_EVENT | exact R.mem_VERIFY_MISMATCH_COUNT) | decide))
    | ((with_reducible apply Foot.dramWrite); rotate_left; decide; decide)
    | ((with_reducible apply Foot.freeTail); rotate_left; decide; decide)
    | ((with_reducible apply Foot.lsWrite); rotate_left; decide; decide)
    | with_reducible apply K.ite
    | ((with_reducible apply K.foldl); rotate_left; intro d x h; rotate_right)
    | ((with_reducible apply K.foldlFst); rotate_left; intro x y h; rotate_right)
    | ((with_reducible apply K.foldlSnd); rotate_left; intro x y h; rotate_right)
    | with_reducible apply K.fst_ite
    | with_reducible apply K.cond
    | with_reducible refine K.of_fst ?_ (by assumption)
    | with_reducible refine K.of_snd ?_ (by assumption)
    | (split)
    | dsimp only
    | (rw [Dev.mk_tag]; (with_reducible apply K.mk_free); rotate_left; decide)
    | (rw [Dev.mk_tag]; (with_reducible apply K.mk_log); rotate_left; decide)
    | (rw [Dev.mk_tag]; (with_reducible apply K.mk_ls); rotate_left; decide; (first | exact .inl rfl | exact .inl ⟨rfl, rfl⟩ | exact .inr ⟨by decide, by (intro w; first | exact w | exact Memory.wf_write _ _ w | exact Memory.wf_clear _ _ w | exact Memory.wf_filter _ w | exact Memory.wf_set _ _ w)⟩))
    | (rw [Dev.mk_tag]; (with_reducible apply K.mk_dram); rotate_left; decide; (first | exact .inl rfl | exact .inl ⟨rfl, rfl⟩ | exact .inr ⟨by decide, by (intro w; first | exact w | exact Memory.wf_write _ _ w | exact Memory.wf_clear _ _ w | exact Memory.wf_filter _ w | exact Memory.wf_set _ _ w)⟩))
    | (rw [Dev.mk_tag]; (with_reducible apply K.mk_scan); rotate_left; decide)
    | (rw [Dev.mk_tag]; (with_reducible apply K.mkT); rotate_left; (intro p hq; cases p <;> first | exact absurd hq (by decide) | rfl | exact ⟨rfl, rfl⟩ | exact fun _ => ⟨rfl, rfl⟩); exact fun w => w)

theorem Foot.encodeRing {e d : Dev} {pm rm : Nat} {u : WriteUnit} {p : Nat} {line : Nat} {seg : Nat} {px : List Px} {fault : Bool} (h : K e d pm rm) (hp : sub 0x180004a3 pm = true)
    (hr : sub 0x800000000000000000000a368281a800280000040000400000000000000000000080000 rm = true) : K e (Dev.encodeRing d u p line seg px fault) pm rm := by
  refine K.lift h hp hr ?_
  clear h hp hr
  unfold Dev.encodeRing
  extract_lets x1 x2 x3
  clear_value (g1 : x1 = _) (g2 : x2 = _) (g3 : x3 = _)
  clear g1
  clear g2
  clear g3
  all_goals repeat' first
    | with_reducible exact K.refl _ _ _
    | with_reducible assumption
    | ((with_reducible apply Foot.storeExact); rotate_left; decide; decide)
    | with_reducible apply K.ite
    | ((with_reducible apply K.foldl); rotate_left; intro d x h; rotate_right)
    | ((with_reducible apply K.foldlFst); rotate_left; intro x y h; rotate_right)
    | ((with_reducible apply K.foldlSnd); rotate_left; intro x y h; rotate_right)
    | with_reducible apply K.fst_ite
    | with_reducible apply K.cond
    | with_reducible refine K.of_fst ?_ (by assumption)
    | with_reducible refine K.of_snd ?_ (by assumption)
    | (split)
    | dsimp only
    | (rw [Dev.mk_tag]; (with_reducible apply K.mk_free); rotate_left; decide)
    | (rw [Dev.mk_tag]; (with_reducible apply K.mk_log); rotate_left; decide)
    | (rw [Dev.mk_tag]; (with_reducible apply K.mk_ls); rotate_left; decide; (first | exact .inl rfl | exact .inl ⟨rfl, rfl⟩ | exact .inr ⟨by decide, by (intro w; first | exact w | exact Memory.wf_write _ _ w | exact Memory.wf_clear _ _ w | exact Memory.wf_filter _ w | exact Memory.wf_set _ _ w)⟩))
    | (rw [Dev.mk_tag]; (with_reducible apply K.mk_dram); rotate_left; decide; (first | exact .inl rfl | exact .inl ⟨rfl, rfl⟩ | exact .inr ⟨by decide, by (intro w; first | exact w | exact Memory.wf_write _ _ w | exact Memory.wf_clear _ _ w | exact Memory.wf_filter _ w | exact Memory.wf_set _ _ w)⟩))
    | (rw [Dev.mk_tag]; (with_reducible apply K.mk_scan); rotate_left; decide)
    | (rw [Dev.mk_tag]; (with_reducible apply K.mkT); rotate_left; (intro p hq; cases p <;> first | exact absurd hq (by decide) | rfl | exact ⟨rfl, rfl⟩ | exact fun _ => ⟨rfl, rfl⟩); exact fun w => w)

theorem Foot.encodeHist {e d : Dev} {pm rm : Nat} {line : Nat} {seg : Nat} {fault : Bool} (h : K e d pm rm) (hp : sub 0x180004a3 pm = true)
    (hr : sub 0x800000000000000000000a3680000000480000000000000000000000000000000080000 rm = true) : K e (Dev.encodeHist d line seg fault) pm rm := by
  refine K.lift h hp hr ?_
  clear h hp hr
  unfold Dev.encodeHist
  extract_lets x1 x2 x3
  clear_value (g1 : x1 = _) (g2 : x2 = _) (g3 : x3 = _)
  subst g1
  refine K.cutEq d 0x180004a3 0x800000000000000000000a3680000000480000000000000000000000000000000080000 g2 ?_ (fun h2 => ?_)
  rotate_left
  clear g2
  clear g3
  all_goals repeat' first
    | with_reducible exact K.refl _ _ _
    | with_reducible assumption
    | ((with_reducible apply K.inc); rotate_left; (first | assumption | exact R.mem_BOUND_FAIL_COUNT | exact R.mem_CODEC_EVENT | exact R.mem_HIST_STATUS); decide)
    | ((with_reducible apply Foot.once); rotate_left; decide; decide; (first | assumption | (first | assumption | exact R.mem_BOUND_FAIL_COUNT | exact R.mem_CODEC_EVENT | exact R.mem_HIST_STATUS) | decide); (first | assumption | (first | assumption | exact R.mem_BOUND_FAIL_COUNT | exact R.mem_CODEC_EVENT | exact R.mem_HIST_STATUS) | decide))
    | ((with_reducible apply Foot.dramWrite); rotate_left; decide; decide)
    | ((with_reducible apply Foot.freeTail); rotate_left; decide; decide)
    | with_reducible apply K.ite
    | ((with_reducible apply K.foldl); rotate_left; intro d x h; rotate_right)
    | ((with_reducible apply K.foldlFst); rotate_left; intro x y h; rotate_right)
    | ((with_reducible apply K.foldlSnd); rotate_left; intro x y h; rotate_right)
    | with_reducible apply K.fst_ite
    | with_reducible apply K.cond
    | with_reducible refine K.of_fst ?_ (by assumption)
    | with_reducible refine K.of_snd ?_ (by assumption)
    | (split)
    | dsimp only
    | (rw [Dev.mk_tag]; (with_reducible apply K.mk_free); rotate_left; decide)
    | (rw [Dev.mk_tag]; (with_reducible apply K.mk_log); rotate_left; decide)
    | (rw [Dev.mk_tag]; (with_reducible apply K.mk_ls); rotate_left; decide; (first | exact .inl rfl | exact .inl ⟨rfl, rfl⟩ | exact .inr ⟨by decide, by (intro w; first | exact w | exact Memory.wf_write _ _ w | exact Memory.wf_clear _ _ w | exact Memory.wf_filter _ w | exact Memory.wf_set _ _ w)⟩))
    | (rw [Dev.mk_tag]; (with_reducible apply K.mk_dram); rotate_left; decide; (first | exact .inl rfl | exact .inl ⟨rfl, rfl⟩ | exact .inr ⟨by decide, by (intro w; first | exact w | exact Memory.wf_write _ _ w | exact Memory.wf_clear _ _ w | exact Memory.wf_filter _ w | exact Memory.wf_set _ _ w)⟩))
    | (rw [Dev.mk_tag]; (with_reducible apply K.mk_scan); rotate_left; decide)
    | (rw [Dev.mk_tag]; (with_reducible apply K.mkT); rotate_left; (intro p hq; cases p <;> first | exact absurd hq (by decide) | rfl | exact ⟨rfl, rfl⟩ | exact fun _ => ⟨rfl, rfl⟩); exact fun w => w)

theorem Foot.encodeFallow {e d : Dev} {pm rm : Nat} {line : Nat} {seg : Nat} {fault : Bool} (h : K e d pm rm) (hp : sub 0x180004ab pm = true)
    (hr : sub 0x800000000000000000000a368281a800280000040000400000000000000000000080000 rm = true) : K e (Dev.encodeFallow d line seg fault) pm rm := by
  refine K.lift h hp hr ?_
  clear h hp hr
  unfold Dev.encodeFallow
  all_goals repeat' first
    | with_reducible exact K.refl _ _ _
    | with_reducible assumption
    | ((with_reducible apply Foot.storeExact); rotate_left; decide; decide)
    | with_reducible apply K.ite
    | ((with_reducible apply K.foldl); rotate_left; intro d x h; rotate_right)
    | ((with_reducible apply K.foldlFst); rotate_left; intro x y h; rotate_right)
    | ((with_reducible apply K.foldlSnd); rotate_left; intro x y h; rotate_right)
    | with_reducible apply K.fst_ite
    | with_reducible apply K.cond
    | with_reducible refine K.of_fst ?_ (by assumption)
    | with_reducible refine K.of_snd ?_ (by assumption)
    | (split)
    | dsimp only
    | (rw [Dev.mk_tag]; (with_reducible apply K.mk_free); rotate_left; decide)
    | (rw [Dev.mk_tag]; (with_reducible apply K.mk_log); rotate_left; decide)
    | (rw [Dev.mk_tag]; (with_reducible apply K.mk_pwr); rotate_left; decide)
    | (rw [Dev.mk_tag]; (with_reducible apply K.mk_ls); rotate_left; decide; (first | exact .inl rfl | exact .inl ⟨rfl, rfl⟩ | exact .inr ⟨by decide, by (intro w; first | exact w | exact Memory.wf_write _ _ w | exact Memory.wf_clear _ _ w | exact Memory.wf_filter _ w | exact Memory.wf_set _ _ w)⟩))
    | (rw [Dev.mk_tag]; (with_reducible apply K.mk_dram); rotate_left; decide; (first | exact .inl rfl | exact .inl ⟨rfl, rfl⟩ | exact .inr ⟨by decide, by (intro w; first | exact w | exact Memory.wf_write _ _ w | exact Memory.wf_clear _ _ w | exact Memory.wf_filter _ w | exact Memory.wf_set _ _ w)⟩))
    | (rw [Dev.mk_tag]; (with_reducible apply K.mk_scan); rotate_left; decide)
    | (rw [Dev.mk_tag]; (with_reducible apply K.mkT); rotate_left; (intro p hq; cases p <;> first | exact absurd hq (by decide) | rfl | exact ⟨rfl, rfl⟩ | exact fun _ => ⟨rfl, rfl⟩); exact fun w => w)

theorem Foot.blockEncode {e d : Dev} {pm rm : Nat} {u : WriteUnit} {line : Nat} {seg : Nat} {px : List Px} {fault : Bool} (h : K e d pm rm) (hp : sub 0x180004ab pm = true)
    (hr : sub 0x800000000000000000000a368281a800680000040000400000000000000000000080000 rm = true) : K e (Dev.blockEncode d u line seg px fault) pm rm := by
  refine K.lift h hp hr ?_
  clear h hp hr
  unfold Dev.blockEncode
  all_goals repeat' first
    | with_reducible exact K.refl _ _ _
    | with_reducible assumption
    | ((with_reducible apply Foot.encodeRing); rotate_left; decide; decide)
    | ((with_reducible apply Foot.encodeHist); rotate_left; decide; decide)
    | ((with_reducible apply Foot.encodeFallow); rotate_left; decide; decide)
    | with_reducible apply K.ite
    | ((with_reducible apply K.foldl); rotate_left; intro d x h; rotate_right)
    | ((with_reducible apply K.foldlFst); rotate_left; intro x y h; rotate_right)
    | ((with_reducible apply K.foldlSnd); rotate_left; intro x y h; rotate_right)
    | with_reducible apply K.fst_ite
    | with_reducible apply K.cond
    | with_reducible refine K.of_fst ?_ (by assumption)
    | with_reducible refine K.of_snd ?_ (by assumption)
    | (split)
    | dsimp only
    | (rw [Dev.mk_tag]; (with_reducible apply K.mk_free); rotate_left; decide)
    | (rw [Dev.mk_tag]; (with_reducible apply K.mk_log); rotate_left; decide)
    | (rw [Dev.mk_tag]; (with_reducible apply K.mk_pwr); rotate_left; decide)
    | (rw [Dev.mk_tag]; (with_reducible apply K.mk_ls); rotate_left; decide; (first | exact .inl rfl | exact .inl ⟨rfl, rfl⟩ | exact .inr ⟨by decide, by (intro w; first | exact w | exact Memory.wf_write _ _ w | exact Memory.wf_clear _ _ w | exact Memory.wf_filter _ w | exact Memory.wf_set _ _ w)⟩))
    | (rw [Dev.mk_tag]; (with_reducible apply K.mk_dram); rotate_left; decide; (first | exact .inl rfl | exact .inl ⟨rfl, rfl⟩ | exact .inr ⟨by decide, by (intro w; first | exact w | exact Memory.wf_write _ _ w | exact Memory.wf_clear _ _ w | exact Memory.wf_filter _ w | exact Memory.wf_set _ _ w)⟩))
    | (rw [Dev.mk_tag]; (with_reducible apply K.mk_scan); rotate_left; decide)
    | (rw [Dev.mk_tag]; (with_reducible apply K.mkT); rotate_left; (intro p hq; cases p <;> first | exact absurd hq (by decide) | rfl | exact ⟨rfl, rfl⟩ | exact fun _ => ⟨rfl, rfl⟩); exact fun w => w)

theorem Foot.fetchLayer {e d : Dev} {pm rm : Nat} {y : Layer} {line : Nat} (h : K e d pm rm) (hp : sub 0x82 pm = true)
    (hr : sub 0x800000000000000000000a3680000000000000000000000000000000000000000080000 rm = true) : K e (Dev.fetchLayer d y line).1 pm rm := by
  refine K.lift h hp hr ?_
  clear h hp hr
  unfold Dev.fetchLayer
  extract_lets x1 x2 x3 x4 x5 x6 x7
  clear_value (g1 : x1 = _) (g2 : x2 = _) (g3 : x3 = _) (g4 : x4 = _) (g5 : x5 = _) (g6 : x6 = _) (g7 : x7 = _)
  clear g1
  clear g2
  subst g3
  subst g4
  clear g5
  clear g6
  clear g7
  all_goals repeat' first
    | with_reducible exact K.refl _ _ _
    | with_reducible assumption
    | ((with_reducible apply Foot.dramRead); rotate_left; decide; decide)
    | with_reducible apply K.ite
    | ((with_reducible apply K.foldl); rotate_left; intro d x h; rotate_right)
    | ((with_reducible apply K.foldlFst); rotate_left; intro x y h; rotate_right)
    | ((with_reducible apply K.foldlSnd); rotate_left; intro x y h; rotate_right)
    | with_reducible apply K.fst_ite
    | with_reducible apply K.cond
    | with_reducible refine K.of_fst ?_ (by assumption)
    | with_reducible refine K.of_snd ?_ (by assumption)
    | (split)
    | dsimp only
    | (rw [Dev.mk_tag]; (with_reducible apply K.mk_log); rotate_left; decide)
    | (rw [Dev.mk_tag]; (with_reducible apply K.mk_dram); rotate_left; decide; (first | exact .inl rfl | exact .inl ⟨rfl, rfl⟩ | exact .inr ⟨by decide, by (intro w; first | exact w | exact Memory.wf_write _ _ w | exact Memory.wf_clear _ _ w | exact Memory.wf_filter _ w | exact Memory.wf_set _ _ w)⟩))
    | (rw [Dev.mk_tag]; (with_reducible apply K.mkT); rotate_left; (intro p hq; cases p <;> first | exact absurd hq (by decide) | rfl | exact ⟨rfl, rfl⟩ | exact fun _ => ⟨rfl, rfl⟩); exact fun w => w)

theorem Foot.composeLine {e d : Dev} {pm rm : Nat} {line : Nat} {live : Option (List Px)} (h : K e d pm rm) (hp : sub 0x482 pm = true)
    (hr : sub 0x800000000000000000000a3680000000000000000000000000000000000068000080000 rm = true) : K e (Dev.composeLine d line live).1 pm rm := by
  refine K.lift h hp hr ?_
  clear h hp hr
  unfold Dev.composeLine
  extract_lets x1 x2 x3 x4 x5 x6 x7 x8 x9 x10 x11 x12 x13
  clear_value (g1 : x1 = _) (g2 : x2 = _) (g3 : x3 = _) (g4 : x4 = _) (g5 : x5 = _) (g6 : x6 = _) (g7 : x7 = _) (g8 : x8 = _) (g9 : x9 = _) (g10 : x10 = _) (g11 : x11 = _) (g12 : x12 = _) (g13 : x13 = _)
  subst g1
  clear g2
  refine K.cutEq d 0x482 0x800000000000000000000a3680000000000000000000000000000000000068000080000 g3 ?_ (fun h3 => ?_)
  rotate_left
  clear g3
  subst g4
  clear g5
  clear g6
  refine K.cutEq d 0x482 0x800000000000000000000a3680000000000000000000000000000000000068000080000 g7 ?_ (fun h7 => ?_)
  rotate_left
  clear g7
  subst g8
  clear g9
  clear g10
  clear g11
  subst g12
  clear g13
  all_goals repeat' first
    | with_reducible exact K.refl _ _ _
    | with_reducible assumption
    | ((with_reducible apply Foot.fetchLayer); rotate_left; decide; decide)
    | ((with_reducible apply Foot.underrun); rotate_left; decide; decide)
    | with_reducible apply K.ite
    | ((with_reducible apply K.each); rotate_left; intro d x h; rotate_right)
    | ((with_reducible apply K.foldl); rotate_left; intro d x h; rotate_right)
    | ((with_reducible apply K.foldlFst); rotate_left; intro x y h; rotate_right)
    | ((with_reducible apply K.foldlSnd); rotate_left; intro x y h; rotate_right)
    | with_reducible apply K.fst_ite
    | with_reducible apply K.cond
    | with_reducible refine K.of_fst ?_ (by assumption)
    | with_reducible refine K.of_snd ?_ (by assumption)
    | (split)
    | dsimp only
    | (rw [Dev.mk_tag]; (with_reducible apply K.mk_log); rotate_left; decide)
    | (rw [Dev.mk_tag]; (with_reducible apply K.mk_dram); rotate_left; decide; (first | exact .inl rfl | exact .inl ⟨rfl, rfl⟩ | exact .inr ⟨by decide, by (intro w; first | exact w | exact Memory.wf_write _ _ w | exact Memory.wf_clear _ _ w | exact Memory.wf_filter _ w | exact Memory.wf_set _ _ w)⟩))
    | (rw [Dev.mk_tag]; (with_reducible apply K.mk_scan); rotate_left; decide)
    | (rw [Dev.mk_tag]; (with_reducible apply K.mkT); rotate_left; (intro p hq; cases p <;> first | exact absurd hq (by decide) | rfl | exact ⟨rfl, rfl⟩ | exact fun _ => ⟨rfl, rfl⟩); exact fun w => w)

theorem Foot.correctLine {e d : Dev} {pm rm : Nat} {line : Nat} {px : List Composed} (h : K e d pm rm) (hp : sub 0x402 pm = true)
    (hr : sub 0x400000000000000000000080000 rm = true) : K e (Dev.correctLine d line px).1 pm rm := by
  refine K.lift h hp hr ?_
  clear h hp hr
  unfold Dev.correctLine
  extract_lets x1 x2 x3 x4 x5 x6 x7
  clear_value (g1 : x1 = _) (g2 : x2 = _) (g3 : x3 = _) (g4 : x4 = _) (g5 : x5 = _) (g6 : x6 = _) (g7 : x7 = _)
  refine K.cutEq d 0x402 0x400000000000000000000080000 g1 ?_ (fun h1 => ?_)
  rotate_left
  clear g1
  clear g2
  subst g3
  clear g4
  clear g5
  subst g6
  refine K.cutEq d 0x402 0x400000000000000000000080000 g7 ?_ (fun h7 => ?_)
  rotate_left
  clear g7
  all_goals repeat' first
    | with_reducible exact K.refl _ _ _
    | with_reducible assumption
    | ((with_reducible apply Foot.statLine); rotate_left; decide; decide)
    | ((with_reducible apply Foot.once); rotate_left; decide; decide; (first | assumption | (first | assumption | exact R.mem_CORR_EVENT) | decide); (first | assumption | (first | assumption | exact R.mem_CORR_EVENT) | decide))
    | with_reducible apply K.ite
    | ((with_reducible apply K.foldl); rotate_left; intro d x h; rotate_right)
    | ((with_reducible apply K.foldlFst); rotate_left; intro x y h; rotate_right)
    | ((with_reducible apply K.foldlSnd); rotate_left; intro x y h; rotate_right)
    | with_reducible apply K.fst_ite
    | with_reducible apply K.cond
    | with_reducible refine K.of_fst ?_ (by assumption)
    | with_reducible refine K.of_snd ?_ (by assumption)
    | (split)
    | dsimp only
    | (rw [Dev.mk_tag]; (with_reducible apply K.mk_log); rotate_left; decide)
    | (rw [Dev.mk_tag]; (with_reducible apply K.mk_scan); rotate_left; decide)
    | (rw [Dev.mk_tag]; (with_reducible apply K.mkT); rotate_left; (intro p hq; cases p <;> first | exact absurd hq (by decide) | rfl | exact ⟨rfl, rfl⟩ | exact fun _ => ⟨rfl, rfl⟩); exact fun w => w)

theorem Foot.seedLine {e d : Dev} {pm rm : Nat} {line : Nat} (h : K e d pm rm) (hp : sub 0x402 pm = true)
    (hr : sub 0x140000000000000000000000000080000 rm = true) : K e (Dev.seedLine d line).1 pm rm := by
  refine K.lift h hp hr ?_
  clear h hp hr
  unfold Dev.seedLine
  extract_lets x1
  clear_value (g1 : x1 = _)
  subst g1
  all_goals repeat' first
    | with_reducible exact K.refl _ _ _
    | with_reducible assumption
    | ((with_reducible apply Foot.histErr); rotate_left; decide; decide)
    | with_reducible apply K.ite
    | ((with_reducible apply K.foldl); rotate_left; intro d x h; rotate_right)
    | ((with_reducible apply K.foldlFst); rotate_left; intro x y h; rotate_right)
    | ((with_reducible apply K.foldlSnd); rotate_left; intro x y h; rotate_right)
    | with_reducible apply K.fst_ite
    | with_reducible apply K.cond
    | with_reducible refine K.of_fst ?_ (by assumption)
    | with_reducible refine K.of_snd ?_ (by assumption)
    | (split)
    | dsimp only
    | (rw [Dev.mk_tag]; (with_reducible apply K.mk_log); rotate_left; decide)
    | (rw [Dev.mk_tag]; (with_reducible apply K.mk_scan); rotate_left; decide)
    | (rw [Dev.mk_tag]; (with_reducible apply K.mkT); rotate_left; (intro p hq; cases p <;> first | exact absurd hq (by decide) | rfl | exact ⟨rfl, rfl⟩ | exact fun _ => ⟨rfl, rfl⟩); exact fun w => w)

theorem Foot.driveLine {e d : Dev} {pm rm : Nat} {line : Nat} {px : List Px} (h : K e d pm rm) (hp : sub 0x402 pm = true)
    (hr : sub 0x340000000000000000000000000080000 rm = true) : K e (Dev.driveLine d line px).1 pm rm := by
  refine K.lift h hp hr ?_
  clear h hp hr
  unfold Dev.driveLine
  all_goals repeat' first
    | with_reducible exact K.refl _ _ _
    | with_reducible assumption
    | ((with_reducible apply K.inc); rotate_left; (first | assumption | exact R.mem_DRIVE_CLAMP_COUNT | exact R.mem_DRIVE_EVENT); decide)
    | ((with_reducible apply Foot.seedLine); rotate_left; decide; decide)
    | ((with_reducible apply Foot.once); rotate_left; decide; decide; (first | assumption | (first | assumption | exact R.mem_DRIVE_CLAMP_COUNT | exact R.mem_DRIVE_EVENT) | decide); (first | assumption | (first | assumption | exact R.mem_DRIVE_CLAMP_COUNT | exact R.mem_DRIVE_EVENT) | decide))
    | with_reducible apply K.ite
    | ((with_reducible apply K.foldl); rotate_left; intro d x h; rotate_right)
    | ((with_reducible apply K.foldlFst); rotate_left; intro x y h; rotate_right)
    | ((with_reducible apply K.foldlSnd); rotate_left; intro x y h; rotate_right)
    | with_reducible apply K.fst_ite
    | with_reducible apply K.cond
    | with_reducible refine K.of_fst ?_ (by assumption)
    | with_reducible refine K.of_snd ?_ (by assumption)
    | (split)
    | dsimp only
    | (rw [Dev.mk_tag]; (with_reducible apply K.mk_log); rotate_left; decide)
    | (rw [Dev.mk_tag]; (with_reducible apply K.mk_scan); rotate_left; decide)
    | (rw [Dev.mk_tag]; (with_reducible apply K.mkT); rotate_left; (intro p hq; cases p <;> first | exact absurd hq (by decide) | rfl | exact ⟨rfl, rfl⟩ | exact fun _ => ⟨rfl, rfl⟩); exact fun w => w)

theorem Foot.activeLine {e d : Dev} {pm rm : Nat} {line : Nat} {live : Option (List Px)} (h : K e d pm rm) (hp : sub 0xc83 pm = true)
    (hr : sub 0x800000000000000000000a3680000000000000340000400000000000000068000080000 rm = true) : K e (Dev.activeLine d line live) pm rm := by
  refine K.lift h hp hr ?_
  clear h hp hr
  unfold Dev.activeLine
  all_goals repeat' first
    | with_reducible exact K.refl _ _ _
    | with_reducible assumption
    | ((with_reducible apply Foot.composeLine); rotate_left; decide; decide)
    | ((with_reducible apply Foot.correctLine); rotate_left; decide; decide)
    | ((with_reducible apply Foot.driveLine); rotate_left; decide; decide)
    | ((with_reducible apply Foot.sendLine); rotate_left; decide; decide)
    | with_reducible apply K.ite
    | ((with_reducible apply K.foldl); rotate_left; intro d x h; rotate_right)
    | ((with_reducible apply K.foldlFst); rotate_left; intro x y h; rotate_right)
    | ((with_reducible apply K.foldlSnd); rotate_left; intro x y h; rotate_right)
    | with_reducible apply K.fst_ite
    | with_reducible apply K.cond
    | with_reducible refine K.of_fst ?_ (by assumption)
    | with_reducible refine K.of_snd ?_ (by assumption)
    | (split)
    | dsimp only
    | (rw [Dev.mk_tag]; (with_reducible apply K.mk_free); rotate_left; decide)
    | (rw [Dev.mk_tag]; (with_reducible apply K.mk_log); rotate_left; decide)
    | (rw [Dev.mk_tag]; (with_reducible apply K.mk_dram); rotate_left; decide; (first | exact .inl rfl | exact .inl ⟨rfl, rfl⟩ | exact .inr ⟨by decide, by (intro w; first | exact w | exact Memory.wf_write _ _ w | exact Memory.wf_clear _ _ w | exact Memory.wf_filter _ w | exact Memory.wf_set _ _ w)⟩))
    | (rw [Dev.mk_tag]; (with_reducible apply K.mk_scan); rotate_left; decide)
    | (rw [Dev.mk_tag]; (with_reducible apply K.mk_col); rotate_left; decide)
    | (rw [Dev.mk_tag]; (with_reducible apply K.mkT); rotate_left; (intro p hq; cases p <;> first | exact absurd hq (by decide) | rfl | exact ⟨rfl, rfl⟩ | exact fun _ => ⟨rfl, rfl⟩); exact fun w => w)

theorem Foot.lineStart {e d : Dev} {pm rm : Nat} {line : Nat} {live : Option (List Px)} (h : K e d pm rm) (hp : sub 0x8003cab pm = true)
    (hr : sub 0x800000000000000000000a368281a80000022134000040000000000000006c002080000 rm = true) : K e (Dev.lineStart d line live) pm rm := by
  refine K.lift h hp hr ?_
  clear h hp hr
  unfold Dev.lineStart
  extract_lets x1 x2 x3 x4 x5 x6 x7 x8 x9
  clear_value (g1 : x1 = _) (g2 : x2 = _) (g3 : x3 = _) (g4 : x4 = _) (g5 : x5 = _) (g6 : x6 = _) (g7 : x7 = _) (g8 : x8 = _) (g9 : x9 = _)
  clear g1
  refine K.cutEq d 0x8003cab 0x800000000000000000000a368281a80000022134000040000000000000006c002080000 g2 ?_ (fun h2 => ?_)
  rotate_left
  clear g2
  refine K.cutEq d 0x8003cab 0x800000000000000000000a368281a80000022134000040000000000000006c002080000 g3 ?_ (fun h3 => ?_)
  rotate_left
  clear g3
  refine K.cutEq d 0x8003cab 0x800000000000000000000a368281a80000022134000040000000000000006c002080000 g4 ?_ (fun h4 => ?_)
  rotate_left
  clear g4
  refine K.cutEq d 0x8003cab 0x800000000000000000000a368281a80000022134000040000000000000006c002080000 g5 ?_ (fun h5 => ?_)
  rotate_left
  clear g5
  refine K.cutEq d 0x8003cab 0x800000000000000000000a368281a80000022134000040000000000000006c002080000 g6 ?_ (fun h6 => ?_)
  rotate_left
  clear g6
  refine K.cutEq d 0x8003cab 0x800000000000000000000a368281a80000022134000040000000000000006c002080000 g7 ?_ (fun h7 => ?_)
  rotate_left
  clear g7
  clear g8
  subst g9
  all_goals repeat' first
    | with_reducible exact K.refl _ _ _
    | with_reducible assumption
    | ((with_reducible apply K.put); rotate_left; (first | assumption | exact R.mem_CORR_EVENT | exact R.mem_DRIVE_EVENT | exact R.mem_FSEQ_STATUS | exact R.mem_LINE_MATCH | exact R.mem_SCAN_EVENT | exact R.mem_SCAN_POS); decide)
    | ((with_reducible apply K.flag); rotate_left; (first | assumption | exact R.mem_CORR_EVENT | exact R.mem_DRIVE_EVENT | exact R.mem_FSEQ_STATUS | exact R.mem_LINE_MATCH | exact R.mem_SCAN_EVENT | exact R.mem_SCAN_POS); decide)
    | ((with_reducible apply K.raise); rotate_left; (first | assumption | exact R.mem_CORR_EVENT | exact R.mem_DRIVE_EVENT | exact R.mem_FSEQ_STATUS | exact R.mem_LINE_MATCH | exact R.mem_SCAN_EVENT | exact R.mem_SCAN_POS); decide; decide; decide)
    | ((with_reducible apply Foot.statRowWrite); rotate_left; decide; decide)
    | ((with_reducible apply Foot.gateLine); rotate_left; decide; decide)
    | ((with_reducible apply Foot.activeLine); rotate_left; decide; decide)
    | ((with_reducible apply Foot.retrainIfMoved); rotate_left; decide; decide)
    | ((with_reducible apply Foot.sendBlank); rotate_left; decide; decide)
    | ((with_reducible apply Foot.latchEq); rotate_left; decide; decide)
    | ((with_reducible apply Foot.once); rotate_left; decide; decide; (first | assumption | (first | assumption | exact R.mem_CORR_EVENT | exact R.mem_DRIVE_EVENT | exact R.mem_FSEQ_STATUS | exact R.mem_LINE_MATCH | exact R.mem_SCAN_EVENT | exact R.mem_SCAN_POS) | decide); (first | assumption | (first | assumption | exact R.mem_CORR_EVENT | exact R.mem_DRIVE_EVENT | exact R.mem_FSEQ_STATUS | exact R.mem_LINE_MATCH | exact R.mem_SCAN_EVENT | exact R.mem_SCAN_POS) | decide))
    | with_reducible apply K.ite
    | ((with_reducible apply K.foldl); rotate_left; intro d x h; rotate_right)
    | ((with_reducible apply K.foldlFst); rotate_left; intro x y h; rotate_right)
    | ((with_reducible apply K.foldlSnd); rotate_left; intro x y h; rotate_right)
    | with_reducible apply K.fst_ite
    | with_reducible apply K.cond
    | with_reducible refine K.of_fst ?_ (by assumption)
    | with_reducible refine K.of_snd ?_ (by assumption)
    | (split)
    | dsimp only
    | (rw [Dev.mk_tag]; (with_reducible apply K.mk_free); rotate_left; decide)
    | (rw [Dev.mk_tag]; (with_reducible apply K.mk_log); rotate_left; decide)
    | (rw [Dev.mk_tag]; (with_reducible apply K.mk_pwr); rotate_left; decide)
    | (rw [Dev.mk_tag]; (with_reducible apply K.mk_ls); rotate_left; decide; (first | exact .inl rfl | exact .inl ⟨rfl, rfl⟩ | exact .inr ⟨by decide, by (intro w; first | exact w | exact Memory.wf_write _ _ w | exact Memory.wf_clear _ _ w | exact Memory.wf_filter _ w | exact Memory.wf_set _ _ w)⟩))
    | (rw [Dev.mk_tag]; (with_reducible apply K.mk_dram); rotate_left; decide; (first | exact .inl rfl | exact .inl ⟨rfl, rfl⟩ | exact .inr ⟨by decide, by (intro w; first | exact w | exact Memory.wf_write _ _ w | exact Memory.wf_clear _ _ w | exact Memory.wf_filter _ w | exact Memory.wf_set _ _ w)⟩))
    | (rw [Dev.mk_tag]; (with_reducible apply K.mk_scan); rotate_left; decide)
    | (rw [Dev.mk_tag]; (with_reducible apply K.mk_col); rotate_left; decide)
    | (rw [Dev.mk_tag]; (with_reducible apply K.mk_gate); rotate_left; decide)
    | (rw [Dev.mk_tag]; (with_reducible apply K.mk_pseq); rotate_left; decide)
    | (rw [Dev.mk_tag]; (with_reducible apply K.mkT); rotate_left; (intro p hq; cases p <;> first | exact absurd hq (by decide) | rfl | exact ⟨rfl, rfl⟩ | exact fun _ => ⟨rfl, rfl⟩); exact fun w => w)

theorem Foot.retarget {e d : Dev} {pm rm : Nat} (h : K e d pm rm) (hp : sub 0x0 pm = true)
    (hr : sub 0x8000000 rm = true) : K e (Dev.retarget d) pm rm := by
  refine K.lift h hp hr ?_
  clear h hp hr
  unfold Dev.retarget
  all_goals repeat' first
    | with_reducible exact K.refl _ _ _
    | with_reducible assumption
    | ((with_reducible apply K.put); rotate_left; (first | assumption | exact R.mem_FSEQ_COMMIT_TARGET | exact R.mem_FSEQ_STATUS); decide)
    | with_reducible apply K.ite
    | ((with_reducible apply K.foldl); rotate_left; intro d x h; rotate_right)
    | ((with_reducible apply K.foldlFst); rotate_left; intro x y h; rotate_right)
    | ((with_reducible apply K.foldlSnd); rotate_left; intro x y h; rotate_right)
    | with_reducible apply K.fst_ite
    | with_reducible apply K.cond
    | with_reducible refine K.of_fst ?_ (by assumption)
    | with_reducible refine K.of_snd ?_ (by assumption)
    | (split)
    | dsimp only
    | (rw [Dev.mk_tag]; (with_reducible apply K.mkT); rotate_left; (intro p hq; cases p <;> first | exact absurd hq (by decide) | rfl | exact ⟨rfl, rfl⟩ | exact fun _ => ⟨rfl, rfl⟩); exact fun w => w)

theorem Foot.commit {e d : Dev} {pm rm : Nat} (h : K e d pm rm) (hp : sub 0x0 pm = true)
    (hr : sub 0xa000000 rm = true) : K e (Dev.commit d) pm rm := by
  refine K.lift h hp hr ?_
  clear h hp hr
  unfold Dev.commit
  all_goals repeat' first
    | with_reducible exact K.refl _ _ _
    | with_reducible assumption
    | ((with_reducible apply K.put); rotate_left; (first | assumption | exact R.mem_FSEQ_STATUS); decide)
    | ((with_reducible apply Foot.retarget); rotate_left; decide; decide)
    | with_reducible apply K.ite
    | ((with_reducible apply K.foldl); rotate_left; intro d x h; rotate_right)
    | ((with_reducible apply K.foldlFst); rotate_left; intro x y h; rotate_right)
    | ((with_reducible apply K.foldlSnd); rotate_left; intro x y h; rotate_right)
    | with_reducible apply K.fst_ite
    | with_reducible apply K.cond
    | with_reducible refine K.of_fst ?_ (by assumption)
    | with_reducible refine K.of_snd ?_ (by assumption)
    | (split)
    | dsimp only
    | (rw [Dev.mk_tag]; (with_reducible apply K.mkT); rotate_left; (intro p hq; cases p <;> first | exact absurd hq (by decide) | rfl | exact ⟨rfl, rfl⟩ | exact fun _ => ⟨rfl, rfl⟩); exact fun w => w)

end Sys2Proof.Machine
end

