-- ==== Sys2Proof/Laws/FootInput.lean ====
section
/-! SUPPORT.  Footprints of the functions of `Machine/Input.lean` (see `Keep.lean`): what each leaves alone. -/

set_option Elab.async false
set_option linter.all false

namespace Sys2Proof.Machine

theorem Foot.driveHpd {e d : Dev} {pm rm : Nat} {p : Nat} (h : K e d pm rm) (hp : sub 0x0 pm = true)
    (hr : sub 0x40000000000000000000000000000000000000000000000000000000000000000 rm = true) : K e (Dev.driveHpd d p) pm rm := by
  refine K.lift h hp hr ?_
  clear h hp hr
  unfold Dev.driveHpd
  all_goals repeat' first
    | with_reducible exact K.refl _ _ _
    | with_reducible assumption
    | ((with_reducible apply K.flag); rotate_left; (first | assumption | exact R.mem_RX_PORT_STATUS); decide)
    | with_reducible apply K.ite
    | ((with_reducible apply K.foldl); rotate_left; intro d x h; rotate_right)
    | ((with_reducible apply K.foldlFst); rotate_left; intro x y h; rotate_right)
    | ((with_reducible apply K.foldlSnd); rotate_left; intro x y h; rotate_right)
    | with_reducible apply K.fst_ite
    | with_reducible apply K.cond
    | with_reducible refine K.of_fst ?_ (by assumption)
    | with_reducible refine K.of_snd ?_ (by assumption)
    | (split)
    | dsimp only
    | (rw [Dev.mk_tag]; (with_reducible apply K.mkT); rotate_left; (intro p hq; cases p <;> first | exact absurd hq (by decide) | rfl | exact ⟨rfl, rfl⟩ | exact fun _ => ⟨rfl, rfl⟩); exact fun w => w)

theorem Foot.dropRef {e d : Dev} {pm rm : Nat} (h : K e d pm rm) (hp : sub 0x20000 pm = true)
    (hr : sub 0x0 rm = true) : K e (Dev.dropRef d) pm rm := by
  refine K.lift h hp hr ?_
  clear h hp hr
  unfold Dev.dropRef
  extract_lets x1
  clear_value (g1 : x1 = _)
  subst g1
  all_goals repeat' first
    | with_reducible exact K.refl _ _ _
    | with_reducible assumption
    | with_reducible apply K.ite
    | ((with_reducible apply K.foldl); rotate_left; intro d x h; rotate_right)
    | ((with_reducible apply K.foldlFst); rotate_left; intro x y h; rotate_right)
    | ((with_reducible apply K.foldlSnd); rotate_left; intro x y h; rotate_right)
    | with_reducible apply K.fst_ite
    | with_reducible apply K.cond
    | with_reducible refine K.of_fst ?_ (by assumption)
    | with_reducible refine K.of_snd ?_ (by assumption)
    | (split)
    | dsimp only
    | (rw [Dev.mk_tag]; (with_reducible apply K.mk_rx); rotate_left; decide; (first | exact .inl rfl | exact .inl ⟨rfl, rfl⟩ | exact .inr ⟨by decide, by (intro w; first | exact w | exact Memory.wf_write _ _ w | exact Memory.wf_clear _ _ w | exact Memory.wf_filter _ w | exact Memory.wf_set _ _ w)⟩))
    | (rw [Dev.mk_tag]; (with_reducible apply K.mkT); rotate_left; (intro p hq; cases p <;> first | exact absurd hq (by decide) | rfl | exact ⟨rfl, rfl⟩ | exact fun _ => ⟨rfl, rfl⟩); exact fun w => w)

theorem Foot.showHealth {e d : Dev} {pm rm : Nat} {p : Nat} (h : K e d pm rm) (hp : sub 0x20002 pm = true)
    (hr : sub 0x50000000000000000000000000000000000000000000000000000000000080000 rm = true) : K e (Dev.showHealth d p) pm rm := by
  refine K.lift h hp hr ?_
  clear h hp hr
  unfold Dev.showHealth
  extract_lets x1 x2 x3 x4 x5
  clear_value (g1 : x1 = _) (g2 : x2 = _) (g3 : x3 = _) (g4 : x4 = _) (g5 : x5 = _)
  clear g1
  clear g2
  refine K.cutEq d 0x20002 0x50000000000000000000000000000000000000000000000000000000000080000 g3 ?_ (fun h3 => ?_)
  rotate_left
  clear g3
  refine K.cutEq d 0x20002 0x50000000000000000000000000000000000000000000000000000000000080000 g4 ?_ (fun h4 => ?_)
  rotate_left
  clear g4
  refine K.cutEq d 0x20002 0x50000000000000000000000000000000000000000000000000000000000080000 g5 ?_ (fun h5 => ?_)
  rotate_left
  clear g5
  all_goals repeat' first
    | with_reducible exact K.refl _ _ _
    | with_reducible assumption
    | ((with_reducible apply K.flag); rotate_left; (first | assumption | exact R.mem_RX_EVENT | exact R.mem_RX_PORT_STATUS); decide)
    | ((with_reducible apply K.raiseIf); rotate_left; (first | assumption | exact R.mem_RX_EVENT | exact R.mem_RX_PORT_STATUS); decide; decide; decide)
    | ((with_reducible apply Foot.dropRef); rotate_left; decide; decide)
    | with_reducible apply K.ite
    | ((with_reducible apply K.foldl); rotate_left; intro d x h; rotate_right)
    | ((with_reducible apply K.foldlFst); rotate_left; intro x y h; rotate_right)
    | ((with_reducible apply K.foldlSnd); rotate_left; intro x y h; rotate_right)
    | with_reducible apply K.fst_ite
    | with_reducible apply K.cond
    | with_reducible refine K.of_fst ?_ (by assumption)
    | with_reducible refine K.of_snd ?_ (by assumption)
    | (split)
    | dsimp only
    | (rw [Dev.mk_tag]; (with_reducible apply K.mk_log); rotate_left; decide)
    | (rw [Dev.mk_tag]; (with_reducible apply K.mk_rx); rotate_left; decide; (first | exact .inl rfl | exact .inl ⟨rfl, rfl⟩ | exact .inr ⟨by decide, by (intro w; first | exact w | exact Memory.wf_write _ _ w | exact Memory.wf_clear _ _ w | exact Memory.wf_filter _ w | exact Memory.wf_set _ _ w)⟩))
    | (rw [Dev.mk_tag]; (with_reducible apply K.mkT); rotate_left; (intro p hq; cases p <;> first | exact absurd hq (by decide) | rfl | exact ⟨rfl, rfl⟩ | exact fun _ => ⟨rfl, rfl⟩); exact fun w => w)

theorem Foot.stopAt {e d : Dev} {pm rm : Nat} {line : Nat} (h : K e d pm rm) (hp : sub 0x400 pm = true)
    (hr : sub 0x0 rm = true) : K e (Dev.stopAt d line) pm rm := by
  refine K.lift h hp hr ?_
  clear h hp hr
  unfold Dev.stopAt
  extract_lets x1 x2
  clear_value (g1 : x1 = _) (g2 : x2 = _)
  clear g1
  subst g2
  all_goals repeat' first
    | with_reducible exact K.refl _ _ _
    | with_reducible assumption
    | with_reducible apply K.ite
    | ((with_reducible apply K.foldl); rotate_left; intro d x h; rotate_right)
    | ((with_reducible apply K.foldlFst); rotate_left; intro x y h; rotate_right)
    | ((with_reducible apply K.foldlSnd); rotate_left; intro x y h; rotate_right)
    | with_reducible apply K.fst_ite
    | with_reducible apply K.cond
    | with_reducible refine K.of_fst ?_ (by assumption)
    | with_reducible refine K.of_snd ?_ (by assumption)
    | (split)
    | dsimp only
    | (rw [Dev.mk_tag]; (with_reducible apply K.mk_scan); rotate_left; decide)
    | (rw [Dev.mk_tag]; (with_reducible apply K.mkT); rotate_left; (intro p hq; cases p <;> first | exact absurd hq (by decide) | rfl | exact ⟨rfl, rfl⟩ | exact fun _ => ⟨rfl, rfl⟩); exact fun w => w)

theorem Foot.inputStop {e d : Dev} {pm rm : Nat} {line : Nat} (h : K e d pm rm) (hp : sub 0x402 pm = true)
    (hr : sub 0x10080000 rm = true) : K e (Dev.inputStop d line) pm rm := by
  refine K.lift h hp hr ?_
  clear h hp hr
  unfold Dev.inputStop
  extract_lets x1 x2
  clear_value (g1 : x1 = _) (g2 : x2 = _)
  refine K.cutEq d 0x402 0x10080000 g1 ?_ (fun h1 => ?_)
  rotate_left
  clear g1
  subst g2
  all_goals repeat' first
    | with_reducible exact K.refl _ _ _
    | with_reducible assumption
    | ((with_reducible apply K.raise); rotate_left; (first | assumption | exact R.mem_FSEQ_EVENT | exact R.mem_RX_PORT_STATUS); decide; decide; decide)
    | ((with_reducible apply Foot.cause); rotate_left; decide; decide)
    | ((with_reducible apply Foot.stopAt); rotate_left; decide; decide)
    | with_reducible apply K.ite
    | ((with_reducible apply K.foldl); rotate_left; intro d x h; rotate_right)
    | ((with_reducible apply K.foldlFst); rotate_left; intro x y h; rotate_right)
    | ((with_reducible apply K.foldlSnd); rotate_left; intro x y h; rotate_right)
    | with_reducible apply K.fst_ite
    | with_reducible apply K.cond
    | with_reducible refine K.of_fst ?_ (by assumption)
    | with_reducible refine K.of_snd ?_ (by assumption)
    | (split)
    | dsimp only
    | (rw [Dev.mk_tag]; (with_reducible apply K.mk_log); rotate_left; decide)
    | (rw [Dev.mk_tag]; (with_reducible apply K.mk_scan); rotate_left; decide)
    | (rw [Dev.mk_tag]; (with_reducible apply K.mkT); rotate_left; (intro p hq; cases p <;> first | exact absurd hq (by decide) | rfl | exact ⟨rfl, rfl⟩ | exact fun _ => ⟨rfl, rfl⟩); exact fun w => w)

theorem Foot.abandonFrame {e d : Dev} {pm rm : Nat} {p : Nat} (h : K e d pm rm) (hp : sub 0x20000 pm = true)
    (hr : sub 0x800000000000 rm = true) : K e (Dev.abandonFrame d p) pm rm := by
  refine K.lift h hp hr ?_
  clear h hp hr
  unfold Dev.abandonFrame
  extract_lets x1
  clear_value (g1 : x1 = _)
  refine K.cutEq d 0x20000 0x800000000000 g1 ?_ (fun h1 => ?_)
  rotate_left
  clear g1
  all_goals repeat' first
    | with_reducible exact K.refl _ _ _
    | with_reducible assumption
    | ((with_reducible apply K.setPort); rotate_left; decide; exact fun _ => rfl)
    | ((with_reducible apply K.setPortMem); rotate_left; decide; decide; (intro c w; first | exact w | exact Memory.wf_write _ _ w | exact Memory.wf_set _ _ w))
    | ((with_reducible apply Foot.ringDiscard); rotate_left; decide; decide)
    | with_reducible apply K.ite
    | ((with_reducible apply K.foldl); rotate_left; intro d x h; rotate_right)
    | ((with_reducible apply K.foldlFst); rotate_left; intro x y h; rotate_right)
    | ((with_reducible apply K.foldlSnd); rotate_left; intro x y h; rotate_right)
    | with_reducible apply K.fst_ite
    | with_reducible apply K.cond
    | with_reducible refine K.of_fst ?_ (by assumption)
    | with_reducible refine K.of_snd ?_ (by assumption)
    | (split)
    | dsimp only
    | (rw [Dev.mk_tag]; (with_reducible apply K.mk_rx); rotate_left; decide; (first | exact .inl rfl | exact .inl ⟨rfl, rfl⟩ | exact .inr ⟨by decide, by (intro w; first | exact w | exact Memory.wf_write _ _ w | exact Memory.wf_clear _ _ w | exact Memory.wf_filter _ w | exact Memory.wf_set _ _ w)⟩))
    | (rw [Dev.mk_tag]; (with_reducible apply K.mkT); rotate_left; (intro p hq; cases p <;> first | exact absurd hq (by decide) | rfl | exact ⟨rfl, rfl⟩ | exact fun _ => ⟨rfl, rfl⟩); exact fun w => w)

theorem Foot.portFail {e d : Dev} {pm rm : Nat} {p : Nat} (h : K e d pm rm) (hp : sub 0x20402 pm = true)
    (hr : sub 0x50000000000000000000000000000000000000000000000000000800010080000 rm = true) : K e (Dev.portFail d p) pm rm := by
  refine K.lift h hp hr ?_
  clear h hp hr
  unfold Dev.portFail
  extract_lets x1 x2 x3 x4 x5
  clear_value (g1 : x1 = _) (g2 : x2 = _) (g3 : x3 = _) (g4 : x4 = _) (g5 : x5 = _)
  subst g1
  refine K.cutEq d 0x20402 0x50000000000000000000000000000000000000000000000000000800010080000 g2 ?_ (fun h2 => ?_)
  rotate_left
  clear g2
  refine K.cutEq d 0x20402 0x50000000000000000000000000000000000000000000000000000800010080000 g3 ?_ (fun h3 => ?_)
  rotate_left
  clear g3
  refine K.cutEq d 0x20402 0x50000000000000000000000000000000000000000000000000000800010080000 g4 ?_ (fun h4 => ?_)
  rotate_left
  clear g4
  refine K.cutEq d 0x20402 0x50000000000000000000000000000000000000000000000000000800010080000 g5 ?_ (fun h5 => ?_)
  rotate_left
  clear g5
  all_goals repeat' first
    | with_reducible exact K.refl _ _ _
    | with_reducible assumption
    | ((with_reducible apply K.put); rotate_left; (first | assumption | exact R.mem_RX_EVENT | exact R.mem_RX_PORT_STATUS); decide)
    | ((with_reducible apply K.raise); rotate_left; (first | assumption | exact R.mem_RX_EVENT | exact R.mem_RX_PORT_STATUS); decide; decide; decide)
    | ((with_reducible apply K.setPort); rotate_left; decide; exact fun _ => rfl)
    | ((with_reducible apply K.setPortMem); rotate_left; decide; decide; (intro c w; first | exact w | exact Memory.wf_write _ _ w | exact Memory.wf_set _ _ w))
    | ((with_reducible apply Foot.irqReason); rotate_left; decide; decide)
    | ((with_reducible apply Foot.dropRef); rotate_left; decide; decide)
    | ((with_reducible apply Foot.abandonFrame); rotate_left; decide; decide)
    | ((with_reducible apply Foot.inputStop); rotate_left; decide; decide)
    | ((with_reducible apply Foot.showHealth); rotate_left; decide; decide)
    | with_reducible apply K.ite
    | ((with_reducible apply K.foldl); rotate_left; intro d x h; rotate_right)
    | ((with_reducible apply K.foldlFst); rotate_left; intro x y h; rotate_right)
    | ((with_reducible apply K.foldlSnd); rotate_left; intro x y h; rotate_right)
    | with_reducible apply K.fst_ite
    | with_reducible apply K.cond
    | with_reducible refine K.of_fst ?_ (by assumption)
    | with_reducible refine K.of_snd ?_ (by assumption)
    | (split)
    | dsimp only
    | (rw [Dev.mk_tag]; (with_reducible apply K.mk_log); rotate_left; decide)
    | (rw [Dev.mk_tag]; (with_reducible apply K.mk_scan); rotate_left; decide)
    | (rw [Dev.mk_tag]; (with_reducible apply K.mk_rx); rotate_left; decide; (first | exact .inl rfl | exact .inl ⟨rfl, rfl⟩ | exact .inr ⟨by decide, by (intro w; first | exact w | exact Memory.wf_write _ _ w | exact Memory.wf_clear _ _ w | exact Memory.wf_filter _ w | exact Memory.wf_set _ _ w)⟩))
    | (rw [Dev.mk_tag]; (with_reducible apply K.mkT); rotate_left; (intro p hq; cases p <;> first | exact absurd hq (by decide) | rfl | exact ⟨rfl, rfl⟩ | exact fun _ => ⟨rfl, rfl⟩); exact fun w => w)

theorem Foot.checkTrained {e d : Dev} {pm rm : Nat} {p : Nat} (h : K e d pm rm) (hp : sub 0x30000 pm = true)
    (hr : sub 0x40000000000000000000000000000000000000000000000000000000000000000 rm = true) : K e (Dev.checkTrained d p) pm rm := by
  refine K.lift h hp hr ?_
  clear h hp hr
  unfold Dev.checkTrained
  extract_lets x1 x2 x3 x4 x5 x6
  clear_value (g1 : x1 = _) (g2 : x2 = _) (g3 : x3 = _) (g4 : x4 = _) (g5 : x5 = _) (g6 : x6 = _)
  subst g1
  clear g2
  clear g3
  refine K.cutEq d 0x30000 0x40000000000000000000000000000000000000000000000000000000000000000 g4 ?_ (fun h4 => ?_)
  rotate_left
  clear g4
  subst g5
  refine K.cutEq d 0x30000 0x40000000000000000000000000000000000000000000000000000000000000000 g6 ?_ (fun h6 => ?_)
  rotate_left
  clear g6
  all_goals repeat' first
    | with_reducible exact K.refl _ _ _
    | with_reducible assumption
    | ((with_reducible apply K.put); rotate_left; (first | assumption | exact R.mem_RX_PORT_STATUS); decide)
    | ((with_reducible apply K.setPort); rotate_left; decide; exact fun _ => rfl)
    | ((with_reducible apply K.setPortMem); rotate_left; decide; decide; (intro c w; first | exact w | exact Memory.wf_write _ _ w | exact Memory.wf_set _ _ w))
    | with_reducible apply K.ite
    | ((with_reducible apply K.foldl); rotate_left; intro d x h; rotate_right)
    | ((with_reducible apply K.foldlFst); rotate_left; intro x y h; rotate_right)
    | ((with_reducible apply K.foldlSnd); rotate_left; intro x y h; rotate_right)
    | with_reducible apply K.fst_ite
    | with_reducible apply K.cond
    | with_reducible refine K.of_fst ?_ (by assumption)
    | with_reducible refine K.of_snd ?_ (by assumption)
    | (split)
    | dsimp only
    | (rw [Dev.mk_tag]; (with_reducible apply K.mk_cal); rotate_left; decide)
    | (rw [Dev.mk_tag]; (with_reducible apply K.mk_rx); rotate_left; decide; (first | exact .inl rfl | exact .inl ⟨rfl, rfl⟩ | exact .inr ⟨by decide, by (intro w; first | exact w | exact Memory.wf_write _ _ w | exact Memory.wf_clear _ _ w | exact Memory.wf_filter _ w | exact Memory.wf_set _ _ w)⟩))
    | (rw [Dev.mk_tag]; (with_reducible apply K.mkT); rotate_left; (intro p hq; cases p <;> first | exact absurd hq (by decide) | rfl | exact ⟨rfl, rfl⟩ | exact fun _ => ⟨rfl, rfl⟩); exact fun w => w)

theorem Foot.laneLock {e d : Dev} {pm rm : Nat} {p : Nat} {l : Nat} {ph : TrainPhase} (h : K e d pm rm) (hp : sub 0x30000 pm = true)
    (hr : sub 0x40000000000000000000000000000000000000000000000000000000000000000 rm = true) : K e (Dev.laneLock d p l ph) pm rm := by
  refine K.lift h hp hr ?_
  clear h hp hr
  unfold Dev.laneLock
  extract_lets x1 x2
  clear_value (g1 : x1 = _) (g2 : x2 = _)
  clear g1
  refine K.cutEq d 0x30000 0x40000000000000000000000000000000000000000000000000000000000000000 g2 ?_ (fun h2 => ?_)
  rotate_left
  clear g2
  all_goals repeat' first
    | with_reducible exact K.refl _ _ _
    | with_reducible assumption
    | ((with_reducible apply K.setPort); rotate_left; decide; exact fun _ => rfl)
    | ((with_reducible apply K.setPortMem); rotate_left; decide; decide; (intro c w; first | exact w | exact Memory.wf_write _ _ w | exact Memory.wf_set _ _ w))
    | ((with_reducible apply Foot.checkTrained); rotate_left; decide; decide)
    | with_reducible apply K.ite
    | ((with_reducible apply K.foldl); rotate_left; intro d x h; rotate_right)
    | ((with_reducible apply K.foldlFst); rotate_left; intro x y h; rotate_right)
    | ((with_reducible apply K.foldlSnd); rotate_left; intro x y h; rotate_right)
    | with_reducible apply K.fst_ite
    | with_reducible apply K.cond
    | with_reducible refine K.of_fst ?_ (by assumption)
    | with_reducible refine K.of_snd ?_ (by assumption)
    | (split)
    | dsimp only
    | (rw [Dev.mk_tag]; (with_reducible apply K.mk_cal); rotate_left; decide)
    | (rw [Dev.mk_tag]; (with_reducible apply K.mk_rx); rotate_left; decide; (first | exact .inl rfl | exact .inl ⟨rfl, rfl⟩ | exact .inr ⟨by decide, by (intro w; first | exact w | exact Memory.wf_write _ _ w | exact Memory.wf_clear _ _ w | exact Memory.wf_filter _ w | exact Memory.wf_set _ _ w)⟩))
    | (rw [Dev.mk_tag]; (with_reducible apply K.mkT); rotate_left; (intro p hq; cases p <;> first | exact absurd hq (by decide) | rfl | exact ⟨rfl, rfl⟩ | exact fun _ => ⟨rfl, rfl⟩); exact fun w => w)

theorem Foot.trainReset {e d : Dev} {pm rm : Nat} {p : Nat} (h : K e d pm rm) (hp : sub 0x20000 pm = true)
    (hr : sub 0x40000000000000000000000000000000000000000000000000000000000000000 rm = true) : K e (Dev.trainReset d p) pm rm := by
  refine K.lift h hp hr ?_
  clear h hp hr
  unfold Dev.trainReset
  all_goals repeat' first
    | with_reducible exact K.refl _ _ _
    | with_reducible assumption
    | ((with_reducible apply K.put); rotate_left; (first | assumption | exact R.mem_RX_PORT_STATUS); decide)
    | ((with_reducible apply K.setPort); rotate_left; decide; exact fun _ => rfl)
    | ((with_reducible apply K.setPortMem); rotate_left; decide; decide; (intro c w; first | exact w | exact Memory.wf_write _ _ w | exact Memory.wf_set _ _ w))
    | with_reducible apply K.ite
    | ((with_reducible apply K.foldl); rotate_left; intro d x h; rotate_right)
    | ((with_reducible apply K.foldlFst); rotate_left; intro x y h; rotate_right)
    | ((with_reducible apply K.foldlSnd); rotate_left; intro x y h; rotate_right)
    | with_reducible apply K.fst_ite
    | with_reducible apply K.cond
    | with_reducible refine K.of_fst ?_ (by assumption)
    | with_reducible refine K.of_snd ?_ (by assumption)
    | (split)
    | dsimp only
    | (rw [Dev.mk_tag]; (with_reducible apply K.mk_rx); rotate_left; decide; (first | exact .inl rfl | exact .inl ⟨rfl, rfl⟩ | exact .inr ⟨by decide, by (intro w; first | exact w | exact Memory.wf_write _ _ w | exact Memory.wf_clear _ _ w | exact Memory.wf_filter _ w | exact Memory.wf_set _ _ w)⟩))
    | (rw [Dev.mk_tag]; (with_reducible apply K.mkT); rotate_left; (intro p hq; cases p <;> first | exact absurd hq (by decide) | rfl | exact ⟨rfl, rfl⟩ | exact fun _ => ⟨rfl, rfl⟩); exact fun w => w)

theorem Foot.rejudge {e d : Dev} {pm rm : Nat} {p : Nat} (h : K e d pm rm) (hp : sub 0x20002 pm = true)
    (hr : sub 0x50000000000000000000000000000000000000000000000000000800000080000 rm = true) : K e (Dev.rejudge d p) pm rm := by
  refine K.lift h hp hr ?_
  clear h hp hr
  unfold Dev.rejudge
  extract_lets x1 x2 x3 x4 x5 x6 x7 x8
  clear_value (g1 : x1 = _) (g2 : x2 = _) (g3 : x3 = _) (g4 : x4 = _) (g5 : x5 = _) (g6 : x6 = _) (g7 : x7 = _) (g8 : x8 = _)
  subst g1
  clear g2
  clear g3
  clear g4
  refine K.cutEq d 0x20002 0x50000000000000000000000000000000000000000000000000000800000080000 g5 ?_ (fun h5 => ?_)
  rotate_left
  clear g5
  refine K.cutEq d 0x20002 0x50000000000000000000000000000000000000000000000000000800000080000 g6 ?_ (fun h6 => ?_)
  rotate_left
  clear g6
  refine K.cutEq d 0x20002 0x50000000000000000000000000000000000000000000000000000800000080000 g7 ?_ (fun h7 => ?_)
  rotate_left
  clear g7
  refine K.cutEq d 0x20002 0x50000000000000000000000000000000000000000000000000000800000080000 g8 ?_ (fun h8 => ?_)
  rotate_left
  clear g8
  all_goals repeat' first
    | with_reducible exact K.refl _ _ _
    | with_reducible assumption
    | ((with_reducible apply K.raiseIf); rotate_left; (first | assumption | exact R.mem_RX_EVENT | exact R.mem_RX_PORT_STATUS); decide; decide; decide)
    | ((with_reducible apply K.setPort); rotate_left; decide; exact fun _ => rfl)
    | ((with_reducible apply K.setPortMem); rotate_left; decide; decide; (intro c w; first | exact w | exact Memory.wf_write _ _ w | exact Memory.wf_set _ _ w))
    | ((with_reducible apply Foot.abandonFrame); rotate_left; decide; decide)
    | ((with_reducible apply Foot.showHealth); rotate_left; decide; decide)
    | with_reducible apply K.ite
    | ((with_reducible apply K.foldl); rotate_left; intro d x h; rotate_right)
    | ((with_reducible apply K.foldlFst); rotate_left; intro x y h; rotate_right)
    | ((with_reducible apply K.foldlSnd); rotate_left; intro x y h; rotate_right)
    | with_reducible apply K.fst_ite
    | with_reducible apply K.cond
    | with_reducible refine K.of_fst ?_ (by assumption)
    | with_reducible refine K.of_snd ?_ (by assumption)
    | (split)
    | dsimp only
    | (rw [Dev.mk_tag]; (with_reducible apply K.mk_log); rotate_left; decide)
    | (rw [Dev.mk_tag]; (with_reducible apply K.mk_rx); rotate_left; decide; (first | exact .inl rfl | exact .inl ⟨rfl, rfl⟩ | exact .inr ⟨by decide, by (intro w; first | exact w | exact Memory.wf_write _ _ w | exact Memory.wf_clear _ _ w | exact Memory.wf_filter _ w | exact Memory.wf_set _ _ w)⟩))
    | (rw [Dev.mk_tag]; (with_reducible apply K.mkT); rotate_left; (intro p hq; cases p <;> first | exact absurd hq (by decide) | rfl | exact ⟨rfl, rfl⟩ | exact fun _ => ⟨rfl, rfl⟩); exact fun w => w)

theorem Foot.ppsReceived {e d : Dev} {pm rm : Nat} {p : Nat} {q : Pps} (h : K e d pm rm) (hp : sub 0x20002 pm = true)
    (hr : sub 0x50000000000000000000000000000000000000000000000000000800000080000 rm = true) : K e (Dev.ppsReceived d p q) pm rm := by
  refine K.lift h hp hr ?_
  clear h hp hr
  unfold Dev.ppsReceived
  extract_lets x1 x2
  clear_value (g1 : x1 = _) (g2 : x2 = _)
  clear g1
  refine K.cutEq d 0x20002 0x50000000000000000000000000000000000000000000000000000800000080000 g2 ?_ (fun h2 => ?_)
  rotate_left
  clear g2
  all_goals repeat' first
    | with_reducible exact K.refl _ _ _
    | with_reducible assumption
    | ((with_reducible apply K.raiseIf); rotate_left; (first | assumption | exact R.mem_RX_EVENT); decide; decide; decide)
    | ((with_reducible apply K.setPort); rotate_left; decide; exact fun _ => rfl)
    | ((with_reducible apply K.setPortMem); rotate_left; decide; decide; (intro c w; first | exact w | exact Memory.wf_write _ _ w | exact Memory.wf_set _ _ w))
    | ((with_reducible apply Foot.rejudge); rotate_left; decide; decide)
    | with_reducible apply K.ite
    | ((with_reducible apply K.foldl); rotate_left; intro d x h; rotate_right)
    | ((with_reducible apply K.foldlFst); rotate_left; intro x y h; rotate_right)
    | ((with_reducible apply K.foldlSnd); rotate_left; intro x y h; rotate_right)
    | with_reducible apply K.fst_ite
    | with_reducible apply K.cond
    | with_reducible refine K.of_fst ?_ (by assumption)
    | with_reducible refine K.of_snd ?_ (by assumption)
    | (split)
    | dsimp only
    | (rw [Dev.mk_tag]; (with_reducible apply K.mk_log); rotate_left; decide)
    | (rw [Dev.mk_tag]; (with_reducible apply K.mk_rx); rotate_left; decide; (first | exact .inl rfl | exact .inl ⟨rfl, rfl⟩ | exact .inr ⟨by decide, by (intro w; first | exact w | exact Memory.wf_write _ _ w | exact Memory.wf_clear _ _ w | exact Memory.wf_filter _ w | exact Memory.wf_set _ _ w)⟩))
    | (rw [Dev.mk_tag]; (with_reducible apply K.mkT); rotate_left; (intro p hq; cases p <;> first | exact absurd hq (by decide) | rfl | exact ⟨rfl, rfl⟩ | exact fun _ => ⟨rfl, rfl⟩); exact fun w => w)

theorem Foot.msaReceived {e d : Dev} {pm rm : Nat} {p : Nat} {m : Msa} (h : K e d pm rm) (hp : sub 0x20002 pm = true)
    (hr : sub 0x50000000000000000000000000000000000000000000000000000800000080000 rm = true) : K e (Dev.msaReceived d p m) pm rm := by
  refine K.lift h hp hr ?_
  clear h hp hr
  unfold Dev.msaReceived
  extract_lets x1 x2 x3 x4 x5 x6 x7 x8 x9 x10
  clear_value (g1 : x1 = _) (g2 : x2 = _) (g3 : x3 = _) (g4 : x4 = _) (g5 : x5 = _) (g6 : x6 = _) (g7 : x7 = _) (g8 : x8 = _) (g9 : x9 = _) (g10 : x10 = _)
  subst g1
  clear g2
  refine K.cutEq d 0x20002 0x50000000000000000000000000000000000000000000000000000800000080000 g3 ?_ (fun h3 => ?_)
  rotate_left
  clear g3
  refine K.cutEq d 0x20002 0x50000000000000000000000000000000000000000000000000000800000080000 g4 ?_ (fun h4 => ?_)
  rotate_left
  clear g4
  clear g5
  clear g6
  refine K.cutEq d 0x20002 0x50000000000000000000000000000000000000000000000000000800000080000 g7 ?_ (fun h7 => ?_)
  rotate_left
  clear g7
  subst g8
  refine K.cutEq d 0x20002 0x50000000000000000000000000000000000000000000000000000800000080000 g9 ?_ (fun h9 => ?_)
  rotate_left
  clear g9
  refine K.cutEq d 0x20002 0x50000000000000000000000000000000000000000000000000000800000080000 g10 ?_ (fun h10 => ?_)
  rotate_left
  clear g10
  all_goals repeat' first
    | with_reducible exact K.refl _ _ _
    | with_reducible assumption
    | ((with_reducible apply K.put); rotate_left; (first | assumption | exact R.mem_RX_EVENT | exact R.mem_RX_PORT_STATUS); decide)
    | ((with_reducible apply K.raiseIf); rotate_left; (first | assumption | exact R.mem_RX_EVENT | exact R.mem_RX_PORT_STATUS); decide; decide; decide)
    | ((with_reducible apply K.setPort); rotate_left; decide; exact fun _ => rfl)
    | ((with_reducible apply K.setPortMem); rotate_left; decide; decide; (intro c w; first | exact w | exact Memory.wf_write _ _ w | exact Memory.wf_set _ _ w))
    | ((with_reducible apply Foot.abandonFrame); rotate_left; decide; decide)
    | ((with_reducible apply Foot.rejudge); rotate_left; decide; decide)
    | with_reducible apply K.ite
    | ((with_reducible apply K.foldl); rotate_left; intro d x h; rotate_right)
    | ((with_reducible apply K.foldlFst); rotate_left; intro x y h; rotate_right)
    | ((with_reducible apply K.foldlSnd); rotate_left; intro x y h; rotate_right)
    | with_reducible apply K.fst_ite
    | with_reducible apply K.cond
    | with_reducible refine K.of_fst ?_ (by assumption)
    | with_reducible refine K.of_snd ?_ (by assumption)
    | (split)
    | dsimp only
    | (rw [Dev.mk_tag]; (with_reducible apply K.mk_log); rotate_left; decide)
    | (rw [Dev.mk_tag]; (with_reducible apply K.mk_rx); rotate_left; decide; (first | exact .inl rfl | exact .inl ⟨rfl, rfl⟩ | exact .inr ⟨by decide, by (intro w; first | exact w | exact Memory.wf_write _ _ w | exact Memory.wf_clear _ _ w | exact Memory.wf_filter _ w | exact Memory.wf_set _ _ w)⟩))
    | (rw [Dev.mk_tag]; (with_reducible apply K.mkT); rotate_left; (intro p hq; cases p <;> first | exact absurd hq (by decide) | rfl | exact ⟨rfl, rfl⟩ | exact fun _ => ⟨rfl, rfl⟩); exact fun w => w)

theorem Foot.splitSkew {e d : Dev} {pm rm : Nat} {p : Nat} (h : K e d pm rm) (hp : sub 0x20402 pm = true)
    (hr : sub 0x10000000000000000000000000000000000000000000000000000800010080000 rm = true) : K e (Dev.splitSkew d p) pm rm := by
  refine K.lift h hp hr ?_
  clear h hp hr
  unfold Dev.splitSkew
  extract_lets x1
  clear_value (g1 : x1 = _)
  refine K.cutEq d 0x20402 0x10000000000000000000000000000000000000000000000000000800010080000 g1 ?_ (fun h1 => ?_)
  rotate_left
  clear g1
  all_goals repeat' first
    | with_reducible exact K.refl _ _ _
    | with_reducible assumption
    | ((with_reducible apply K.raise); rotate_left; (first | assumption | exact R.mem_RX_EVENT); decide; decide; decide)
    | ((with_reducible apply Foot.abandonFrame); rotate_left; decide; decide)
    | ((with_reducible apply Foot.inputStop); rotate_left; decide; decide)
    | with_reducible apply K.ite
    | ((with_reducible apply K.foldl); rotate_left; intro d x h; rotate_right)
    | ((with_reducible apply K.foldlFst); rotate_left; intro x y h; rotate_right)
    | ((with_reducible apply K.foldlSnd); rotate_left; intro x y h; rotate_right)
    | with_reducible apply K.fst_ite
    | with_reducible apply K.cond
    | with_reducible refine K.of_fst ?_ (by assumption)
    | with_reducible refine K.of_snd ?_ (by assumption)
    | (split)
    | dsimp only
    | (rw [Dev.mk_tag]; (with_reducible apply K.mk_log); rotate_left; decide)
    | (rw [Dev.mk_tag]; (with_reducible apply K.mk_scan); rotate_left; decide)
    | (rw [Dev.mk_tag]; (with_reducible apply K.mk_rx); rotate_left; decide; (first | exact .inl rfl | exact .inl ⟨rfl, rfl⟩ | exact .inr ⟨by decide, by (intro w; first | exact w | exact Memory.wf_write _ _ w | exact Memory.wf_clear _ _ w | exact Memory.wf_filter _ w | exact Memory.wf_set _ _ w)⟩))
    | (rw [Dev.mk_tag]; (with_reducible apply K.mkT); rotate_left; (intro p hq; cases p <;> first | exact absurd hq (by decide) | rfl | exact ⟨rfl, rfl⟩ | exact fun _ => ⟨rfl, rfl⟩); exact fun w => w)

theorem Foot.halfStart {e d : Dev} {pm rm : Nat} {p : Nat} {apart : Nat} (h : K e d pm rm) (hp : sub 0x20402 pm = true)
    (hr : sub 0x10000000000000000000000000000000000000000000000000000800010080000 rm = true) : K e (Dev.halfStart d p apart) pm rm := by
  refine K.lift h hp hr ?_
  clear h hp hr
  unfold Dev.halfStart
  extract_lets x1 x2 x3 x4
  clear_value (g1 : x1 = _) (g2 : x2 = _) (g3 : x3 = _) (g4 : x4 = _)
  clear g1
  refine K.cutEq d 0x20402 0x10000000000000000000000000000000000000000000000000000800010080000 g2 ?_ (fun h2 => ?_)
  rotate_left
  clear g2
  subst g3
  refine K.cutEq d 0x20402 0x10000000000000000000000000000000000000000000000000000800010080000 g4 ?_ (fun h4 => ?_)
  rotate_left
  clear g4
  all_goals repeat' first
    | with_reducible exact K.refl _ _ _
    | with_reducible assumption
    | ((with_reducible apply K.setPort); rotate_left; decide; exact fun _ => rfl)
    | ((with_reducible apply K.setPortMem); rotate_left; decide; decide; (intro c w; first | exact w | exact Memory.wf_write _ _ w | exact Memory.wf_set _ _ w))
    | ((with_reducible apply Foot.splitSkew); rotate_left; decide; decide)
    | ((with_reducible apply Foot.abandonFrame); rotate_left; decide; decide)
    | ((with_reducible apply Foot.ringTake); rotate_left; decide; decide)
    | with_reducible apply K.ite
    | ((with_reducible apply K.foldl); rotate_left; intro d x h; rotate_right)
    | ((with_reducible apply K.foldlFst); rotate_left; intro x y h; rotate_right)
    | ((with_reducible apply K.foldlSnd); rotate_left; intro x y h; rotate_right)
    | with_reducible apply K.fst_ite
    | with_reducible apply K.cond
    | with_reducible refine K.of_fst ?_ (by assumption)
    | with_reducible refine K.of_snd ?_ (by assumption)
    | (split)
    | dsimp only
    | (rw [Dev.mk_tag]; (with_reducible apply K.mk_log); rotate_left; decide)
    | (rw [Dev.mk_tag]; (with_reducible apply K.mk_scan); rotate_left; decide)
    | (rw [Dev.mk_tag]; (with_reducible apply K.mk_rx); rotate_left; decide; (first | exact .inl rfl | exact .inl ⟨rfl, rfl⟩ | exact .inr ⟨by decide, by (intro w; first | exact w | exact Memory.wf_write _ _ w | exact Memory.wf_clear _ _ w | exact Memory.wf_filter _ w | exact Memory.wf_set _ _ w)⟩))
    | (rw [Dev.mk_tag]; (with_reducible apply K.mkT); rotate_left; (intro p hq; cases p <;> first | exact absurd hq (by decide) | rfl | exact ⟨rfl, rfl⟩ | exact fun _ => ⟨rfl, rfl⟩); exact fun w => w)

theorem Foot.frameComplete {e d : Dev} {pm rm : Nat} {ps : List Nat} {us : Nat} (h : K e d pm rm) (hp : sub 0x20002 pm = true)
    (hr : sub 0x50000000000000000000000000000000000000000000000000000808000080000 rm = true) : K e (Dev.frameComplete d ps us) pm rm := by
  refine K.lift h hp hr ?_
  clear h hp hr
  unfold Dev.frameComplete
  extract_lets x1 x2 x3 x4
  clear_value (g1 : x1 = _) (g2 : x2 = _) (g3 : x3 = _) (g4 : x4 = _)
  clear g1
  refine K.cutEq d 0x20002 0x50000000000000000000000000000000000000000000000000000808000080000 g2 ?_ (fun h2 => ?_)
  rotate_left
  clear g2
  subst g3
  refine K.cutEq d 0x20002 0x50000000000000000000000000000000000000000000000000000808000080000 g4 ?_ (fun h4 => ?_)
  rotate_left
  clear g4
  all_goals repeat' first
    | with_reducible exact K.refl _ _ _
    | with_reducible assumption
    | ((with_reducible apply K.setPort); rotate_left; decide; exact fun _ => rfl)
    | ((with_reducible apply K.setPortMem); rotate_left; decide; decide; (intro c w; first | exact w | exact Memory.wf_write _ _ w | exact Memory.wf_set _ _ w))
    | ((with_reducible apply Foot.ringComplete); rotate_left; decide; decide)
    | ((with_reducible apply Foot.showHealth); rotate_left; decide; decide)
    | with_reducible apply K.ite
    | ((with_reducible apply K.each); rotate_left; intro d x h; rotate_right)
    | ((with_reducible apply K.foldl); rotate_left; intro d x h; rotate_right)
    | ((with_reducible apply K.foldlFst); rotate_left; intro x y h; rotate_right)
    | ((with_reducible apply K.foldlSnd); rotate_left; intro x y h; rotate_right)
    | with_reducible apply K.fst_ite
    | with_reducible apply K.cond
    | with_reducible refine K.of_fst ?_ (by assumption)
    | with_reducible refine K.of_snd ?_ (by assumption)
    | (split)
    | dsimp only
    | (rw [Dev.mk_tag]; (with_reducible apply K.mk_log); rotate_left; decide)
    | (rw [Dev.mk_tag]; (with_reducible apply K.mk_rx); rotate_left; decide; (first | exact .inl rfl | exact .inl ⟨rfl, rfl⟩ | exact .inr ⟨by decide, by (intro w; first | exact w | exact Memory.wf_write _ _ w | exact Memory.wf_clear _ _ w | exact Memory.wf_filter _ w | exact Memory.wf_set _ _ w)⟩))
    | (rw [Dev.mk_tag]; (with_reducible apply K.mkT); rotate_left; (intro p hq; cases p <;> first | exact absurd hq (by decide) | rfl | exact ⟨rfl, rfl⟩ | exact fun _ => ⟨rfl, rfl⟩); exact fun w => w)

theorem Foot.inputFrameComplete {e d : Dev} {pm rm : Nat} {p : Nat} {us : Nat} (h : K e d pm rm) (hp : sub 0x20002 pm = true)
    (hr : sub 0x50000000000000000000000000000000000000000000000000000808000080000 rm = true) : K e (Dev.inputFrameComplete d p us) pm rm := by
  refine K.lift h hp hr ?_
  clear h hp hr
  unfold Dev.inputFrameComplete
  extract_lets x1
  clear_value (g1 : x1 = _)
  refine K.cutEq d 0x20002 0x50000000000000000000000000000000000000000000000000000808000080000 g1 ?_ (fun h1 => ?_)
  rotate_left
  clear g1
  all_goals repeat' first
    | with_reducible exact K.refl _ _ _
    | with_reducible assumption
    | ((with_reducible apply K.inc); rotate_left; (first | assumption | exact R.mem_RING_STATUS | exact R.mem_RX_PORT_STATUS); decide)
    | ((with_reducible apply K.setPort); rotate_left; decide; exact fun _ => rfl)
    | ((with_reducible apply K.setPortMem); rotate_left; decide; decide; (intro c w; first | exact w | exact Memory.wf_write _ _ w | exact Memory.wf_set _ _ w))
    | ((with_reducible apply Foot.frameComplete); rotate_left; decide; decide)
    | with_reducible apply K.ite
    | ((with_reducible apply K.foldl); rotate_left; intro d x h; rotate_right)
    | ((with_reducible apply K.foldlFst); rotate_left; intro x y h; rotate_right)
    | ((with_reducible apply K.foldlSnd); rotate_left; intro x y h; rotate_right)
    | with_reducible apply K.fst_ite
    | with_reducible apply K.cond
    | with_reducible refine K.of_fst ?_ (by assumption)
    | with_reducible refine K.of_snd ?_ (by assumption)
    | (split)
    | dsimp only
    | (rw [Dev.mk_tag]; (with_reducible apply K.mk_log); rotate_left; decide)
    | (rw [Dev.mk_tag]; (with_reducible apply K.mk_rx); rotate_left; decide; (first | exact .inl rfl | exact .inl ⟨rfl, rfl⟩ | exact .inr ⟨by decide, by (intro w; first | exact w | exact Memory.wf_write _ _ w | exact Memory.wf_clear _ _ w | exact Memory.wf_filter _ w | exact Memory.wf_set _ _ w)⟩))
    | (rw [Dev.mk_tag]; (with_reducible apply K.mkT); rotate_left; (intro p hq; cases p <;> first | exact absurd hq (by decide) | rfl | exact ⟨rfl, rfl⟩ | exact fun _ => ⟨rfl, rfl⟩); exact fun w => w)

theorem Foot.replayError {e d : Dev} {pm rm : Nat} {p : Nat} (h : K e d pm rm) (hp : sub 0x20000 pm = true)
    (hr : sub 0x0 rm = true) : K e (Dev.replayError d p) pm rm := by
  refine K.lift h hp hr ?_
  clear h hp hr
  unfold Dev.replayError
  all_goals repeat' first
    | with_reducible exact K.refl _ _ _
    | with_reducible assumption
    | ((with_reducible apply K.setPort); rotate_left; decide; exact fun _ => rfl)
    | ((with_reducible apply K.setPortMem); rotate_left; decide; decide; (intro c w; first | exact w | exact Memory.wf_write _ _ w | exact Memory.wf_set _ _ w))
    | ((with_reducible apply Foot.irqReason); rotate_left; decide; decide)
    | with_reducible apply K.ite
    | ((with_reducible apply K.foldl); rotate_left; intro d x h; rotate_right)
    | ((with_reducible apply K.foldlFst); rotate_left; intro x y h; rotate_right)
    | ((with_reducible apply K.foldlSnd); rotate_left; intro x y h; rotate_right)
    | with_reducible apply K.fst_ite
    | with_reducible apply K.cond
    | with_reducible refine K.of_fst ?_ (by assumption)
    | with_reducible refine K.of_snd ?_ (by assumption)
    | (split)
    | dsimp only
    | (rw [Dev.mk_tag]; (with_reducible apply K.mk_rx); rotate_left; decide; (first | exact .inl rfl | exact .inl ⟨rfl, rfl⟩ | exact .inr ⟨by decide, by (intro w; first | exact w | exact Memory.wf_write _ _ w | exact Memory.wf_clear _ _ w | exact Memory.wf_filter _ w | exact Memory.wf_set _ _ w)⟩))
    | (rw [Dev.mk_tag]; (with_reducible apply K.mkT); rotate_left; (intro p hq; cases p <;> first | exact absurd hq (by decide) | rfl | exact ⟨rfl, rfl⟩ | exact fun _ => ⟨rfl, rfl⟩); exact fun w => w)

theorem Foot.dscError {e d : Dev} {pm rm : Nat} {p : Nat} {line : Nat} (h : K e d pm rm) (hp : sub 0x20402 pm = true)
    (hr : sub 0x50000000000000000000000000000000000000000000000000000800000080000 rm = true) : K e (Dev.dscError d p line) pm rm := by
  refine K.lift h hp hr ?_
  clear h hp hr
  unfold Dev.dscError
  extract_lets x1 x2 x3 x4
  clear_value (g1 : x1 = _) (g2 : x2 = _) (g3 : x3 = _) (g4 : x4 = _)
  refine K.cutEq d 0x20402 0x50000000000000000000000000000000000000000000000000000800000080000 g1 ?_ (fun h1 => ?_)
  rotate_left
  clear g1
  refine K.cutEq d 0x20402 0x50000000000000000000000000000000000000000000000000000800000080000 g2 ?_ (fun h2 => ?_)
  rotate_left
  clear g2
  refine K.cutEq d 0x20402 0x50000000000000000000000000000000000000000000000000000800000080000 g3 ?_ (fun h3 => ?_)
  rotate_left
  clear g3
  refine K.cutEq d 0x20402 0x50000000000000000000000000000000000000000000000000000800000080000 g4 ?_ (fun h4 => ?_)
  rotate_left
  clear g4
  all_goals repeat' first
    | with_reducible exact K.refl _ _ _
    | with_reducible assumption
    | ((with_reducible apply K.raise); rotate_left; (first | assumption | exact R.mem_RX_EVENT); decide; decide; decide)
    | ((with_reducible apply K.setPort); rotate_left; decide; exact fun _ => rfl)
    | ((with_reducible apply K.setPortMem); rotate_left; decide; decide; (intro c w; first | exact w | exact Memory.wf_write _ _ w | exact Memory.wf_set _ _ w))
    | ((with_reducible apply Foot.replayError); rotate_left; decide; decide)
    | ((with_reducible apply Foot.abandonFrame); rotate_left; decide; decide)
    | ((with_reducible apply Foot.stopAt); rotate_left; decide; decide)
    | ((with_reducible apply Foot.showHealth); rotate_left; decide; decide)
    | with_reducible apply K.ite
    | ((with_reducible apply K.foldl); rotate_left; intro d x h; rotate_right)
    | ((with_reducible apply K.foldlFst); rotate_left; intro x y h; rotate_right)
    | ((with_reducible apply K.foldlSnd); rotate_left; intro x y h; rotate_right)
    | with_reducible apply K.fst_ite
    | with_reducible apply K.cond
    | with_reducible refine K.of_fst ?_ (by assumption)
    | with_reducible refine K.of_snd ?_ (by assumption)
    | (split)
    | dsimp only
    | (rw [Dev.mk_tag]; (with_reducible apply K.mk_log); rotate_left; decide)
    | (rw [Dev.mk_tag]; (with_reducible apply K.mk_scan); rotate_left; decide)
    | (rw [Dev.mk_tag]; (with_reducible apply K.mk_rx); rotate_left; decide; (first | exact .inl rfl | exact .inl ⟨rfl, rfl⟩ | exact .inr ⟨by decide, by (intro w; first | exact w | exact Memory.wf_write _ _ w | exact Memory.wf_clear _ _ w | exact Memory.wf_filter _ w | exact Memory.wf_set _ _ w)⟩))
    | (rw [Dev.mk_tag]; (with_reducible apply K.mkT); rotate_left; (intro p hq; cases p <;> first | exact absurd hq (by decide) | rfl | exact ⟨rfl, rfl⟩ | exact fun _ => ⟨rfl, rfl⟩); exact fun w => w)

theorem Foot.dpcdKeep {e d : Dev} {pm rm : Nat} {p : Nat} {a : Nat} {b : Byte} (h : K e d pm rm) (hp : sub 0x80020000 pm = true)
    (hr : sub 0x0 rm = true) : K e (Dev.dpcdKeep d p a b) pm rm := by
  refine K.lift h hp hr ?_
  clear h hp hr
  unfold Dev.dpcdKeep
  all_goals repeat' first
    | with_reducible exact K.refl _ _ _
    | with_reducible assumption
    | ((with_reducible apply K.setPort); rotate_left; decide; exact fun _ => rfl)
    | ((with_reducible apply K.setPortMem); rotate_left; decide; decide; (intro c w; first | exact w | exact Memory.wf_write _ _ w | exact Memory.wf_set _ _ w))
    | with_reducible apply K.ite
    | ((with_reducible apply K.foldl); rotate_left; intro d x h; rotate_right)
    | ((with_reducible apply K.foldlFst); rotate_left; intro x y h; rotate_right)
    | ((with_reducible apply K.foldlSnd); rotate_left; intro x y h; rotate_right)
    | with_reducible apply K.fst_ite
    | with_reducible apply K.cond
    | with_reducible refine K.of_fst ?_ (by assumption)
    | with_reducible refine K.of_snd ?_ (by assumption)
    | (split)
    | dsimp only
    | (rw [Dev.mk_tag]; (with_reducible apply K.mk_rx); rotate_left; decide; (first | exact .inl rfl | exact .inl ⟨rfl, rfl⟩ | exact .inr ⟨by decide, by (intro w; first | exact w | exact Memory.wf_write _ _ w | exact Memory.wf_clear _ _ w | exact Memory.wf_filter _ w | exact Memory.wf_set _ _ w)⟩))
    | (rw [Dev.mk_tag]; (with_reducible apply K.mkT); rotate_left; (intro p hq; cases p <;> first | exact absurd hq (by decide) | rfl | exact ⟨rfl, rfl⟩ | exact fun _ => ⟨rfl, rfl⟩); exact fun w => w)

theorem Foot.dpcdWrite {e d : Dev} {pm rm : Nat} {p : Nat} {a : Nat} {b : Byte} (h : K e d pm rm) (hp : sub 0x801a0002 pm = true)
    (hr : sub 0xa8000000000000000000050000000000000000000000000000000000000000000000000000800000080000 rm = true) : K e (Dev.dpcdWrite d p a b) pm rm := by
  refine K.lift h hp hr ?_
  clear h hp hr
  unfold Dev.dpcdWrite
  extract_lets x1 x2
  clear_value (g1 : x1 = _) (g2 : x2 = _)
  clear g1
  refine K.cutEq d 0x801a0002 0xa8000000000000000000050000000000000000000000000000000000000000000000000000800000080000 g2 ?_ (fun h2 => ?_)
  rotate_left
  clear g2
  all_goals repeat' first
    | with_reducible exact K.refl _ _ _
    | with_reducible assumption
    | ((with_reducible apply K.put); rotate_left; (first | assumption | exact R.mem_RX_PORT_STATUS); decide)
    | ((with_reducible apply K.flag); rotate_left; (first | assumption | exact R.mem_RX_PORT_STATUS); decide)
    | ((with_reducible apply K.setPort); rotate_left; decide; exact fun _ => rfl)
    | ((with_reducible apply K.setPortMem); rotate_left; decide; decide; (intro c w; first | exact w | exact Memory.wf_write _ _ w | exact Memory.wf_set _ _ w))
    | ((with_reducible apply Foot.mbHostWrite); rotate_left; decide; decide)
    | ((with_reducible apply Foot.rejudge); rotate_left; decide; decide)
    | ((with_reducible apply Foot.dpcdKeep); rotate_left; decide; decide)
    | ((with_reducible apply Foot.trainReset); rotate_left; decide; decide)
    | with_reducible apply K.ite
    | ((with_reducible apply K.foldl); rotate_left; intro d x h; rotate_right)
    | ((with_reducible apply K.foldlFst); rotate_left; intro x y h; rotate_right)
    | ((with_reducible apply K.foldlSnd); rotate_left; intro x y h; rotate_right)
    | with_reducible apply K.fst_ite
    | with_reducible apply K.cond
    | with_reducible refine K.of_fst ?_ (by assumption)
    | with_reducible refine K.of_snd ?_ (by assumption)
    | (split)
    | dsimp only
    | (rw [Dev.mk_tag]; (with_reducible apply K.mk_log); rotate_left; decide)
    | (rw [Dev.mk_tag]; (with_reducible apply K.mk_rx); rotate_left; decide; (first | exact .inl rfl | exact .inl ⟨rfl, rfl⟩ | exact .inr ⟨by decide, by (intro w; first | exact w | exact Memory.wf_write _ _ w | exact Memory.wf_clear _ _ w | exact Memory.wf_filter _ w | exact Memory.wf_set _ _ w)⟩))
    | (rw [Dev.mk_tag]; (with_reducible apply K.mk_mbox); rotate_left; decide; (intro w; first | exact w | exact Memory.wf_write _ _ w | exact Memory.wf_clear _ _ w | exact Memory.wf_filter _ w | exact Memory.wf_set _ _ w))
    | (rw [Dev.mk_tag]; (with_reducible apply K.mk_mgmt); rotate_left; decide)
    | (rw [Dev.mk_tag]; (with_reducible apply K.mkT); rotate_left; (intro p hq; cases p <;> first | exact absurd hq (by decide) | rfl | exact ⟨rfl, rfl⟩ | exact fun _ => ⟨rfl, rfl⟩); exact fun w => w)

theorem Foot.auxServe {e d : Dev} {pm rm : Nat} {p : Nat} {r : AuxReq} (h : K e d pm rm) (hp : sub 0x801a0002 pm = true)
    (hr : sub 0xa8000000000000000000050000000000000000000000000000000000000000000000000000800000080000 rm = true) : K e (Dev.auxServe d p r) pm rm := by
  refine K.lift h hp hr ?_
  clear h hp hr
  unfold Dev.auxServe
  all_goals repeat' first
    | with_reducible exact K.refl _ _ _
    | with_reducible assumption
    | ((with_reducible apply K.setPort); rotate_left; decide; exact fun _ => rfl)
    | ((with_reducible apply K.setPortMem); rotate_left; decide; decide; (intro c w; first | exact w | exact Memory.wf_write _ _ w | exact Memory.wf_set _ _ w))
    | ((with_reducible apply Foot.dpcdWrite); rotate_left; decide; decide)
    | with_reducible apply K.ite
    | ((with_reducible apply K.foldl); rotate_left; intro d x h; rotate_right)
    | ((with_reducible apply K.foldlFst); rotate_left; intro x y h; rotate_right)
    | ((with_reducible apply K.foldlSnd); rotate_left; intro x y h; rotate_right)
    | with_reducible apply K.fst_ite
    | with_reducible apply K.cond
    | with_reducible refine K.of_fst ?_ (by assumption)
    | with_reducible refine K.of_snd ?_ (by assumption)
    | (split)
    | dsimp only
    | (rw [Dev.mk_tag]; (with_reducible apply K.mk_log); rotate_left; decide)
    | (rw [Dev.mk_tag]; (with_reducible apply K.mk_rx); rotate_left; decide; (first | exact .inl rfl | exact .inl ⟨rfl, rfl⟩ | exact .inr ⟨by decide, by (intro w; first | exact w | exact Memory.wf_write _ _ w | exact Memory.wf_clear _ _ w | exact Memory.wf_filter _ w | exact Memory.wf_set _ _ w)⟩))
    | (rw [Dev.mk_tag]; (with_reducible apply K.mk_mbox); rotate_left; decide; (intro w; first | exact w | exact Memory.wf_write _ _ w | exact Memory.wf_clear _ _ w | exact Memory.wf_filter _ w | exact Memory.wf_set _ _ w))
    | (rw [Dev.mk_tag]; (with_reducible apply K.mk_mgmt); rotate_left; decide)
    | (rw [Dev.mk_tag]; (with_reducible apply K.mkT); rotate_left; (intro p hq; cases p <;> first | exact absurd hq (by decide) | rfl | exact ⟨rfl, rfl⟩ | exact fun _ => ⟨rfl, rfl⟩); exact fun w => w)

theorem Foot.aux {e d : Dev} {pm rm : Nat} {p : Nat} {r : AuxReq} (h : K e d pm rm) (hp : sub 0x801a000a pm = true)
    (hr : sub 0xa8000000000000080000050000000000000000000000000000000000000000000000000000800000080000 rm = true) : K e (Dev.aux d p r) pm rm := by
  refine K.lift h hp hr ?_
  clear h hp hr
  unfold Dev.aux
  extract_lets x1 x2
  clear_value (g1 : x1 = _) (g2 : x2 = _)
  refine K.cutEq d 0x801a000a 0xa8000000000000080000050000000000000000000000000000000000000000000000000000800000080000 g1 ?_ (fun h1 => ?_)
  rotate_left
  clear g1
  refine K.cutEq d 0x801a000a 0xa8000000000000080000050000000000000000000000000000000000000000000000000000800000080000 g2 ?_ (fun h2 => ?_)
  rotate_left
  clear g2
  all_goals repeat' first
    | with_reducible exact K.refl _ _ _
    | with_reducible assumption
    | ((with_reducible apply K.put); rotate_left; (first | assumption | exact R.mem_RX_MODE | exact R.mem_RX_PORT_STATUS); decide)
    | ((with_reducible apply K.setPort); rotate_left; decide; exact fun _ => rfl)
    | ((with_reducible apply K.setPortMem); rotate_left; decide; decide; (intro c w; first | exact w | exact Memory.wf_write _ _ w | exact Memory.wf_set _ _ w))
    | ((with_reducible apply Foot.auxServe); rotate_left; decide; decide)
    | ((with_reducible apply Foot.startWake); rotate_left; decide; decide)
    | with_reducible apply K.ite
    | ((with_reducible apply K.foldl); rotate_left; intro d x h; rotate_right)
    | ((with_reducible apply K.foldlFst); rotate_left; intro x y h; rotate_right)
    | ((with_reducible apply K.foldlSnd); rotate_left; intro x y h; rotate_right)
    | with_reducible apply K.fst_ite
    | with_reducible apply K.cond
    | with_reducible refine K.of_fst ?_ (by assumption)
    | with_reducible refine K.of_snd ?_ (by assumption)
    | (split)
    | dsimp only
    | (rw [Dev.mk_tag]; (with_reducible apply K.mk_log); rotate_left; decide)
    | (rw [Dev.mk_tag]; (with_reducible apply K.mk_pwr); rotate_left; decide)
    | (rw [Dev.mk_tag]; (with_reducible apply K.mk_rx); rotate_left; decide; (first | exact .inl rfl | exact .inl ⟨rfl, rfl⟩ | exact .inr ⟨by decide, by (intro w; first | exact w | exact Memory.wf_write _ _ w | exact Memory.wf_clear _ _ w | exact Memory.wf_filter _ w | exact Memory.wf_set _ _ w)⟩))
    | (rw [Dev.mk_tag]; (with_reducible apply K.mk_mbox); rotate_left; decide; (intro w; first | exact w | exact Memory.wf_write _ _ w | exact Memory.wf_clear _ _ w | exact Memory.wf_filter _ w | exact Memory.wf_set _ _ w))
    | (rw [Dev.mk_tag]; (with_reducible apply K.mk_mgmt); rotate_left; decide)
    | (rw [Dev.mk_tag]; (with_reducible apply K.mkT); rotate_left; (intro p hq; cases p <;> first | exact absurd hq (by decide) | rfl | exact ⟨rfl, rfl⟩ | exact fun _ => ⟨rfl, rfl⟩); exact fun w => w)

theorem Foot.prEntry {e d : Dev} {pm rm : Nat} {p : Nat} (h : K e d pm rm) (hp : sub 0x20002 pm = true)
    (hr : sub 0x50000000000000000000000000000000000000000000000000000000000080000 rm = true) : K e (Dev.prEntry d p) pm rm := by
  refine K.lift h hp hr ?_
  clear h hp hr
  unfold Dev.prEntry
  all_goals repeat' first
    | with_reducible exact K.refl _ _ _
    | with_reducible assumption
    | ((with_reducible apply K.put); rotate_left; (first | assumption | exact R.mem_RX_EVENT | exact R.mem_RX_PORT_STATUS); decide)
    | ((with_reducible apply K.raise); rotate_left; (first | assumption | exact R.mem_RX_EVENT | exact R.mem_RX_PORT_STATUS); decide; decide; decide)
    | ((with_reducible apply K.setPort); rotate_left; decide; exact fun _ => rfl)
    | ((with_reducible apply K.setPortMem); rotate_left; decide; decide; (intro c w; first | exact w | exact Memory.wf_write _ _ w | exact Memory.wf_set _ _ w))
    | with_reducible apply K.ite
    | ((with_reducible apply K.foldl); rotate_left; intro d x h; rotate_right)
    | ((with_reducible apply K.foldlFst); rotate_left; intro x y h; rotate_right)
    | ((with_reducible apply K.foldlSnd); rotate_left; intro x y h; rotate_right)
    | with_reducible apply K.fst_ite
    | with_reducible apply K.cond
    | with_reducible refine K.of_fst ?_ (by assumption)
    | with_reducible refine K.of_snd ?_ (by assumption)
    | (split)
    | dsimp only
    | (rw [Dev.mk_tag]; (with_reducible apply K.mk_log); rotate_left; decide)
    | (rw [Dev.mk_tag]; (with_reducible apply K.mk_rx); rotate_left; decide; (first | exact .inl rfl | exact .inl ⟨rfl, rfl⟩ | exact .inr ⟨by decide, by (intro w; first | exact w | exact Memory.wf_write _ _ w | exact Memory.wf_clear _ _ w | exact Memory.wf_filter _ w | exact Memory.wf_set _ _ w)⟩))
    | (rw [Dev.mk_tag]; (with_reducible apply K.mkT); rotate_left; (intro p hq; cases p <;> first | exact absurd hq (by decide) | rfl | exact ⟨rfl, rfl⟩ | exact fun _ => ⟨rfl, rfl⟩); exact fun w => w)

theorem Foot.prExit {e d : Dev} {pm rm : Nat} {p : Nat} (h : K e d pm rm) (hp : sub 0x20000 pm = true)
    (hr : sub 0x40000000000000000000000000000000000000000000000000000000000000000 rm = true) : K e (Dev.prExit d p) pm rm := by
  refine K.lift h hp hr ?_
  clear h hp hr
  unfold Dev.prExit
  all_goals repeat' first
    | with_reducible exact K.refl _ _ _
    | with_reducible assumption
    | ((with_reducible apply K.put); rotate_left; (first | assumption | exact R.mem_RX_PORT_STATUS); decide)
    | ((with_reducible apply K.setPort); rotate_left; decide; exact fun _ => rfl)
    | ((with_reducible apply K.setPortMem); rotate_left; decide; decide; (intro c w; first | exact w | exact Memory.wf_write _ _ w | exact Memory.wf_set _ _ w))
    | with_reducible apply K.ite
    | ((with_reducible apply K.foldl); rotate_left; intro d x h; rotate_right)
    | ((with_reducible apply K.foldlFst); rotate_left; intro x y h; rotate_right)
    | ((with_reducible apply K.foldlSnd); rotate_left; intro x y h; rotate_right)
    | with_reducible apply K.fst_ite
    | with_reducible apply K.cond
    | with_reducible refine K.of_fst ?_ (by assumption)
    | with_reducible refine K.of_snd ?_ (by assumption)
    | (split)
    | dsimp only
    | (rw [Dev.mk_tag]; (with_reducible apply K.mk_rx); rotate_left; decide; (first | exact .inl rfl | exact .inl ⟨rfl, rfl⟩ | exact .inr ⟨by decide, by (intro w; first | exact w | exact Memory.wf_write _ _ w | exact Memory.wf_clear _ _ w | exact Memory.wf_filter _ w | exact Memory.wf_set _ _ w)⟩))
    | (rw [Dev.mk_tag]; (with_reducible apply K.mkT); rotate_left; (intro p hq; cases p <;> first | exact absurd hq (by decide) | rfl | exact ⟨rfl, rfl⟩ | exact fun _ => ⟨rfl, rfl⟩); exact fun w => w)

theorem Foot.countReplay {e d : Dev} {pm rm : Nat} (h : K e d pm rm) (hp : sub 0x20000 pm = true)
    (hr : sub 0x0 rm = true) : K e (Dev.countReplay d) pm rm := by
  refine K.lift h hp hr ?_
  clear h hp hr
  unfold Dev.countReplay
  extract_lets x1 x2 x3
  clear_value (g1 : x1 = _) (g2 : x2 = _) (g3 : x3 = _)
  clear g1
  clear g2
  subst g3
  all_goals repeat' first
    | with_reducible exact K.refl _ _ _
    | with_reducible assumption
    | with_reducible apply K.ite
    | ((with_reducible apply K.foldl); rotate_left; intro d x h; rotate_right)
    | ((with_reducible apply K.foldlFst); rotate_left; intro x y h; rotate_right)
    | ((with_reducible apply K.foldlSnd); rotate_left; intro x y h; rotate_right)
    | with_reducible apply K.fst_ite
    | with_reducible apply K.cond
    | with_reducible refine K.of_fst ?_ (by assumption)
    | with_reducible refine K.of_snd ?_ (by assumption)
    | (split)
    | dsimp only
    | (rw [Dev.mk_tag]; (with_reducible apply K.mk_rx); rotate_left; decide; (first | exact .inl rfl | exact .inl ⟨rfl, rfl⟩ | exact .inr ⟨by decide, by (intro w; first | exact w | exact Memory.wf_write _ _ w | exact Memory.wf_clear _ _ w | exact Memory.wf_filter _ w | exact Memory.wf_set _ _ w)⟩))
    | (rw [Dev.mk_tag]; (with_reducible apply K.mkT); rotate_left; (intro p hq; cases p <;> first | exact absurd hq (by decide) | rfl | exact ⟨rfl, rfl⟩ | exact fun _ => ⟨rfl, rfl⟩); exact fun w => w)

theorem Foot.alpmWake {e d : Dev} {pm rm : Nat} {p : Nat} (h : K e d pm rm) (hp : sub 0xa pm = true)
    (hr : sub 0x88007950000000000000080000000000000000000000000000000000000000000080000 rm = true) : K e (Dev.alpmWake d p) pm rm := by
  refine K.lift h hp hr ?_
  clear h hp hr
  unfold Dev.alpmWake
  all_goals repeat' first
    | with_reducible exact K.refl _ _ _
    | with_reducible assumption
    | ((with_reducible apply K.put); rotate_left; (first | assumption | exact R.mem_RX_EVENT | exact R.mem_RX_PORT_STATUS); decide)
    | ((with_reducible apply K.raise); rotate_left; (first | assumption | exact R.mem_RX_EVENT | exact R.mem_RX_PORT_STATUS); decide; decide; decide)
    | ((with_reducible apply Foot.latchWake); rotate_left; decide; decide)
    | with_reducible apply K.ite
    | ((with_reducible apply K.foldl); rotate_left; intro d x h; rotate_right)
    | ((with_reducible apply K.foldlFst); rotate_left; intro x y h; rotate_right)
    | ((with_reducible apply K.foldlSnd); rotate_left; intro x y h; rotate_right)
    | with_reducible apply K.fst_ite
    | with_reducible apply K.cond
    | with_reducible refine K.of_fst ?_ (by assumption)
    | with_reducible refine K.of_snd ?_ (by assumption)
    | (split)
    | dsimp only
    | (rw [Dev.mk_tag]; (with_reducible apply K.mk_log); rotate_left; decide)
    | (rw [Dev.mk_tag]; (with_reducible apply K.mk_pwr); rotate_left; decide)
    | (rw [Dev.mk_tag]; (with_reducible apply K.mkT); rotate_left; (intro p hq; cases p <;> first | exact absurd hq (by decide) | rfl | exact ⟨rfl, rfl⟩ | exact fun _ => ⟨rfl, rfl⟩); exact fun w => w)

theorem Foot.auxWake {e d : Dev} {pm rm : Nat} {p : Nat} (h : K e d pm rm) (hp : sub 0xa pm = true)
    (hr : sub 0x88007940000000000000080000000000000000000000000000000000000000000080000 rm = true) : K e (Dev.auxWake d p) pm rm := by
  refine K.lift h hp hr ?_
  clear h hp hr
  unfold Dev.auxWake
  extract_lets x1
  clear_value (g1 : x1 = _)
  refine K.cutEq d 0xa 0x88007940000000000000080000000000000000000000000000000000000000000080000 g1 ?_ (fun h1 => ?_)
  rotate_left
  clear g1
  all_goals repeat' first
    | with_reducible exact K.refl _ _ _
    | with_reducible assumption
    | ((with_reducible apply K.put); rotate_left; (first | assumption | exact R.mem_RX_MODE | exact R.mem_RX_PORT_STATUS); decide)
    | ((with_reducible apply Foot.latchWake); rotate_left; decide; decide)
    | with_reducible apply K.ite
    | ((with_reducible apply K.foldl); rotate_left; intro d x h; rotate_right)
    | ((with_reducible apply K.foldlFst); rotate_left; intro x y h; rotate_right)
    | ((with_reducible apply K.foldlSnd); rotate_left; intro x y h; rotate_right)
    | with_reducible apply K.fst_ite
    | with_reducible apply K.cond
    | with_reducible refine K.of_fst ?_ (by assumption)
    | with_reducible refine K.of_snd ?_ (by assumption)
    | (split)
    | dsimp only
    | (rw [Dev.mk_tag]; (with_reducible apply K.mk_log); rotate_left; decide)
    | (rw [Dev.mk_tag]; (with_reducible apply K.mk_pwr); rotate_left; decide)
    | (rw [Dev.mk_tag]; (with_reducible apply K.mkT); rotate_left; (intro p hq; cases p <;> first | exact absurd hq (by decide) | rfl | exact ⟨rfl, rfl⟩ | exact fun _ => ⟨rfl, rfl⟩); exact fun w => w)

theorem Foot.showActive {e d : Dev} {pm rm : Nat} {p : Nat} (h : K e d pm rm) (hp : sub 0x0 pm = true)
    (hr : sub 0x40000000000000000000000000000000000000000000000000000000000000000 rm = true) : K e (Dev.showActive d p) pm rm := by
  refine K.lift h hp hr ?_
  clear h hp hr
  unfold Dev.showActive
  extract_lets x1
  clear_value (g1 : x1 = _)
  subst g1
  all_goals repeat' first
    | with_reducible exact K.refl _ _ _
    | with_reducible assumption
    | ((with_reducible apply K.flag); rotate_left; (first | assumption | exact R.mem_RX_PORT_STATUS); decide)
    | with_reducible apply K.ite
    | ((with_reducible apply K.foldl); rotate_left; intro d x h; rotate_right)
    | ((with_reducible apply K.foldlFst); rotate_left; intro x y h; rotate_right)
    | ((with_reducible apply K.foldlSnd); rotate_left; intro x y h; rotate_right)
    | with_reducible apply K.fst_ite
    | with_reducible apply K.cond
    | with_reducible refine K.of_fst ?_ (by assumption)
    | with_reducible refine K.of_snd ?_ (by assumption)
    | (split)
    | dsimp only
    | (rw [Dev.mk_tag]; (with_reducible apply K.mkT); rotate_left; (intro p hq; cases p <;> first | exact absurd hq (by decide) | rfl | exact ⟨rfl, rfl⟩ | exact fun _ => ⟨rfl, rfl⟩); exact fun w => w)

theorem Foot.inheritAge {e d : Dev} {pm rm : Nat} {old : Nat} {new : Nat} (h : K e d pm rm) (hp : sub 0x20000 pm = true)
    (hr : sub 0x0 rm = true) : K e (Dev.inheritAge d old new) pm rm := by
  refine K.lift h hp hr ?_
  clear h hp hr
  unfold Dev.inheritAge
  extract_lets x1
  clear_value (g1 : x1 = _)
  subst g1
  all_goals repeat' first
    | with_reducible exact K.refl _ _ _
    | with_reducible assumption
    | ((with_reducible apply K.setPort); rotate_left; decide; exact fun _ => rfl)
    | ((with_reducible apply K.setPortMem); rotate_left; decide; decide; (intro c w; first | exact w | exact Memory.wf_write _ _ w | exact Memory.wf_set _ _ w))
    | with_reducible apply K.ite
    | ((with_reducible apply K.foldl); rotate_left; intro d x h; rotate_right)
    | ((with_reducible apply K.foldlFst); rotate_left; intro x y h; rotate_right)
    | ((with_reducible apply K.foldlSnd); rotate_left; intro x y h; rotate_right)
    | with_reducible apply K.fst_ite
    | with_reducible apply K.cond
    | with_reducible refine K.of_fst ?_ (by assumption)
    | with_reducible refine K.of_snd ?_ (by assumption)
    | (split)
    | dsimp only
    | (rw [Dev.mk_tag]; (with_reducible apply K.mk_rx); rotate_left; decide; (first | exact .inl rfl | exact .inl ⟨rfl, rfl⟩ | exact .inr ⟨by decide, by (intro w; first | exact w | exact Memory.wf_write _ _ w | exact Memory.wf_clear _ _ w | exact Memory.wf_filter _ w | exact Memory.wf_set _ _ w)⟩))
    | (rw [Dev.mk_tag]; (with_reducible apply K.mkT); rotate_left; (intro p hq; cases p <;> first | exact absurd hq (by decide) | rfl | exact ⟨rfl, rfl⟩ | exact fun _ => ⟨rfl, rfl⟩); exact fun w => w)

theorem Foot.takeover {e d : Dev} {pm rm : Nat} {us : Nat} (h : K e d pm rm) (hp : sub 0x402 pm = true)
    (hr : sub 0x58000000000000000000000000000000000000000000000000000000000080000 rm = true) : K e (Dev.takeover d us) pm rm := by
  refine K.lift h hp hr ?_
  clear h hp hr
  unfold Dev.takeover
  extract_lets x1 x2 x3 x4
  clear_value (g1 : x1 = _) (g2 : x2 = _) (g3 : x3 = _) (g4 : x4 = _)
  clear g1
  clear g2
  refine K.cutEq d 0x402 0x58000000000000000000000000000000000000000000000000000000000080000 g3 ?_ (fun h3 => ?_)
  rotate_left
  clear g3
  subst g4
  all_goals repeat' first
    | with_reducible exact K.refl _ _ _
    | with_reducible assumption
    | ((with_reducible apply K.put); rotate_left; (first | assumption | exact R.mem_RX_EVENT | exact R.mem_RX_MODE | exact R.mem_RX_PORT_STATUS); decide)
    | ((with_reducible apply K.raise); rotate_left; (first | assumption | exact R.mem_RX_EVENT | exact R.mem_RX_MODE | exact R.mem_RX_PORT_STATUS); decide; decide; decide)
    | ((with_reducible apply Foot.showActive); rotate_left; decide; decide)
    | with_reducible apply K.ite
    | ((with_reducible apply K.foldl); rotate_left; intro d x h; rotate_right)
    | ((with_reducible apply K.foldlFst); rotate_left; intro x y h; rotate_right)
    | ((with_reducible apply K.foldlSnd); rotate_left; intro x y h; rotate_right)
    | with_reducible apply K.fst_ite
    | with_reducible apply K.cond
    | with_reducible refine K.of_fst ?_ (by assumption)
    | with_reducible refine K.of_snd ?_ (by assumption)
    | (split)
    | dsimp only
    | (rw [Dev.mk_tag]; (with_reducible apply K.mk_log); rotate_left; decide)
    | (rw [Dev.mk_tag]; (with_reducible apply K.mk_scan); rotate_left; decide)
    | (rw [Dev.mk_tag]; (with_reducible apply K.mkT); rotate_left; (intro p hq; cases p <;> first | exact absurd hq (by decide) | rfl | exact ⟨rfl, rfl⟩ | exact fun _ => ⟨rfl, rfl⟩); exact fun w => w)

theorem Foot.rediscover {e d : Dev} {pm rm : Nat} {p : Nat} (h : K e d pm rm) (hp : sub 0x20002 pm = true)
    (hr : sub 0x50000000000000000000000000000000000000000000000000000000000080000 rm = true) : K e (Dev.rediscover d p) pm rm := by
  refine K.lift h hp hr ?_
  clear h hp hr
  unfold Dev.rediscover
  all_goals repeat' first
    | with_reducible exact K.refl _ _ _
    | with_reducible assumption
    | ((with_reducible apply K.setPort); rotate_left; decide; exact fun _ => rfl)
    | ((with_reducible apply K.setPortMem); rotate_left; decide; decide; (intro c w; first | exact w | exact Memory.wf_write _ _ w | exact Memory.wf_set _ _ w))
    | ((with_reducible apply Foot.showHealth); rotate_left; decide; decide)
    | ((with_reducible apply Foot.driveHpd); rotate_left; decide; decide)
    | with_reducible apply K.ite
    | ((with_reducible apply K.foldl); rotate_left; intro d x h; rotate_right)
    | ((with_reducible apply K.foldlFst); rotate_left; intro x y h; rotate_right)
    | ((with_reducible apply K.foldlSnd); rotate_left; intro x y h; rotate_right)
    | with_reducible apply K.fst_ite
    | with_reducible apply K.cond
    | with_reducible refine K.of_fst ?_ (by assumption)
    | with_reducible refine K.of_snd ?_ (by assumption)
    | (split)
    | dsimp only
    | (rw [Dev.mk_tag]; (with_reducible apply K.mk_log); rotate_left; decide)
    | (rw [Dev.mk_tag]; (with_reducible apply K.mk_rx); rotate_left; decide; (first | exact .inl rfl | exact .inl ⟨rfl, rfl⟩ | exact .inr ⟨by decide, by (intro w; first | exact w | exact Memory.wf_write _ _ w | exact Memory.wf_clear _ _ w | exact Memory.wf_filter _ w | exact Memory.wf_set _ _ w)⟩))
    | (rw [Dev.mk_tag]; (with_reducible apply K.mkT); rotate_left; (intro p hq; cases p <;> first | exact absurd hq (by decide) | rfl | exact ⟨rfl, rfl⟩ | exact fun _ => ⟨rfl, rfl⟩); exact fun w => w)

end Sys2Proof.Machine
end

