-- ==== Sys2Proof/Laws/FootWall.lean ====
section
/-! SUPPORT.  Footprints of the functions of `Machine/Wall.lean` (see `Keep.lean`): what each leaves alone. -/

set_option Elab.async false
set_option linter.all false

namespace Sys2Proof.Machine

theorem Foot.setWallState {e d : Dev} {pm rm : Nat} {k0 : Nat} (h : K e d pm rm) (hp : sub 0x0 pm = true)
    (hr : sub 0x800000000000000000000000000000000000000000000000000 rm = true) : K e (Dev.setWallState d k0) pm rm := by
  refine K.lift h hp hr ?_
  clear h hp hr
  unfold Dev.setWallState
  all_goals repeat' first
    | with_reducible exact K.refl _ _ _
    | with_reducible assumption
    | ((with_reducible apply K.put); rotate_left; (first | assumption | exact R.mem_WALL_STATUS); decide)
    | with_reducible apply K.ite
    | ((with_reducible apply K.foldl); rotate_left; intro d x h; rotate_right)
    | ((with_reducible apply K.foldlFst); rotate_left; intro x y h; rotate_right)
    | ((with_reducible apply K.foldlSnd); rotate_left; intro x y h; rotate_right)
    | with_reducible apply K.fst_ite
    | with_reducible apply K.cond
    | with_reducible refine K.of_fst ?_ (by assumption)
    | with_reducible refine K.of_snd ?_ (by assumption)
    | (split)
    | dsimp only
    | (rw [Dev.mk_tag]; (with_reducible apply K.mkT); rotate_left; (intro p hq; cases p <;> first | exact absurd hq (by decide) | rfl | exact ⟨rfl, rfl⟩ | exact fun _ => ⟨rfl, rfl⟩); exact fun w => w)

theorem Foot.showWall {e d : Dev} {pm rm : Nat} (h : K e d pm rm) (hp : sub 0x0 pm = true)
    (hr : sub 0x82800000000000000000000000000000000000000000000000000 rm = true) : K e (Dev.showWall d) pm rm := by
  refine K.lift h hp hr ?_
  clear h hp hr
  unfold Dev.showWall
  extract_lets x1
  clear_value (g1 : x1 = _)
  refine K.cutEq d 0x0 0x82800000000000000000000000000000000000000000000000000 g1 ?_ (fun h1 => ?_)
  rotate_left
  clear g1
  all_goals repeat' first
    | with_reducible exact K.refl _ _ _
    | with_reducible assumption
    | ((with_reducible apply K.put); rotate_left; (first | assumption | exact R.mem_WALL_MEMBERS | exact R.mem_WALL_PORT_STATUS | exact R.mem_WALL_STATUS); decide)
    | with_reducible apply K.ite
    | ((with_reducible apply K.each); rotate_left; intro d x h; rotate_right)
    | ((with_reducible apply K.foldl); rotate_left; intro d x h; rotate_right)
    | ((with_reducible apply K.foldlFst); rotate_left; intro x y h; rotate_right)
    | ((with_reducible apply K.foldlSnd); rotate_left; intro x y h; rotate_right)
    | with_reducible apply K.fst_ite
    | with_reducible apply K.cond
    | with_reducible refine K.of_fst ?_ (by assumption)
    | with_reducible refine K.of_snd ?_ (by assumption)
    | (split)
    | dsimp only
    | (rw [Dev.mk_tag]; (with_reducible apply K.mkT); rotate_left; (intro p hq; cases p <;> first | exact absurd hq (by decide) | rfl | exact ⟨rfl, rfl⟩ | exact fun _ => ⟨rfl, rfl⟩); exact fun w => w)

theorem Foot.wallStart {e d : Dev} {pm rm : Nat} (h : K e d pm rm) (hp : sub 0x40000 pm = true)
    (hr : sub 0x800000000000000000000000000000000000000000000000000 rm = true) : K e (Dev.wallStart d) pm rm := by
  refine K.lift h hp hr ?_
  clear h hp hr
  unfold Dev.wallStart
  all_goals repeat' first
    | with_reducible exact K.refl _ _ _
    | with_reducible assumption
    | ((with_reducible apply K.put); rotate_left; (first | assumption | exact R.mem_WALL_CTRL | exact R.mem_WALL_STATUS); decide)
    | ((with_reducible apply K.updWall); rotate_left; decide)
    | ((with_reducible apply Foot.setWallState); rotate_left; decide; decide)
    | with_reducible apply K.ite
    | ((with_reducible apply K.foldl); rotate_left; intro d x h; rotate_right)
    | ((with_reducible apply K.foldlFst); rotate_left; intro x y h; rotate_right)
    | ((with_reducible apply K.foldlSnd); rotate_left; intro x y h; rotate_right)
    | with_reducible apply K.fst_ite
    | with_reducible apply K.cond
    | with_reducible refine K.of_fst ?_ (by assumption)
    | with_reducible refine K.of_snd ?_ (by assumption)
    | (split)
    | dsimp only
    | (rw [Dev.mk_tag]; (with_reducible apply K.mk_wall); rotate_left; decide)
    | (rw [Dev.mk_tag]; (with_reducible apply K.mkT); rotate_left; (intro p hq; cases p <;> first | exact absurd hq (by decide) | rfl | exact ⟨rfl, rfl⟩ | exact fun _ => ⟨rfl, rfl⟩); exact fun w => w)

theorem Foot.wallSend {e d : Dev} {pm rm : Nat} {p : Nat} {c : WCmd} (h : K e d pm rm) (hp : sub 0x40000 pm = true)
    (hr : sub 0x0 rm = true) : K e (Dev.wallSend d p c) pm rm := by
  refine K.lift h hp hr ?_
  clear h hp hr
  unfold Dev.wallSend
  all_goals repeat' first
    | with_reducible exact K.refl _ _ _
    | with_reducible assumption
    | ((with_reducible apply K.setWp); rotate_left; decide)
    | with_reducible apply K.ite
    | ((with_reducible apply K.foldl); rotate_left; intro d x h; rotate_right)
    | ((with_reducible apply K.foldlFst); rotate_left; intro x y h; rotate_right)
    | ((with_reducible apply K.foldlSnd); rotate_left; intro x y h; rotate_right)
    | with_reducible apply K.fst_ite
    | with_reducible apply K.cond
    | with_reducible refine K.of_fst ?_ (by assumption)
    | with_reducible refine K.of_snd ?_ (by assumption)
    | (split)
    | dsimp only
    | (rw [Dev.mk_tag]; (with_reducible apply K.mk_wall); rotate_left; decide)
    | (rw [Dev.mk_tag]; (with_reducible apply K.mkT); rotate_left; (intro p hq; cases p <;> first | exact absurd hq (by decide) | rfl | exact ⟨rfl, rfl⟩ | exact fun _ => ⟨rfl, rfl⟩); exact fun w => w)

theorem Foot.wallDownAll {e d : Dev} {pm rm : Nat} {c : WCmd} (h : K e d pm rm) (hp : sub 0x40000 pm = true)
    (hr : sub 0x0 rm = true) : K e (Dev.wallDownAll d c) pm rm := by
  refine K.lift h hp hr ?_
  clear h hp hr
  unfold Dev.wallDownAll
  all_goals repeat' first
    | with_reducible exact K.refl _ _ _
    | with_reducible assumption
    | ((with_reducible apply Foot.wallSend); rotate_left; decide; decide)
    | with_reducible apply K.ite
    | ((with_reducible apply K.each); rotate_left; intro d x h; rotate_right)
    | ((with_reducible apply K.foldl); rotate_left; intro d x h; rotate_right)
    | ((with_reducible apply K.foldlFst); rotate_left; intro x y h; rotate_right)
    | ((with_reducible apply K.foldlSnd); rotate_left; intro x y h; rotate_right)
    | with_reducible apply K.fst_ite
    | with_reducible apply K.cond
    | with_reducible refine K.of_fst ?_ (by assumption)
    | with_reducible refine K.of_snd ?_ (by assumption)
    | (split)
    | dsimp only
    | (rw [Dev.mk_tag]; (with_reducible apply K.mk_wall); rotate_left; decide)
    | (rw [Dev.mk_tag]; (with_reducible apply K.mkT); rotate_left; (intro p hq; cases p <;> first | exact absurd hq (by decide) | rfl | exact ⟨rfl, rfl⟩ | exact fun _ => ⟨rfl, rfl⟩); exact fun w => w)

theorem Foot.wallUp {e d : Dev} {pm rm : Nat} {c : WCmd} (h : K e d pm rm) (hp : sub 0x40000 pm = true)
    (hr : sub 0x0 rm = true) : K e (Dev.wallUp d c) pm rm := by
  refine K.lift h hp hr ?_
  clear h hp hr
  unfold Dev.wallUp
  all_goals repeat' first
    | with_reducible exact K.refl _ _ _
    | with_reducible assumption
    | ((with_reducible apply Foot.wallSend); rotate_left; decide; decide)
    | with_reducible apply K.ite
    | ((with_reducible apply K.foldl); rotate_left; intro d x h; rotate_right)
    | ((with_reducible apply K.foldlFst); rotate_left; intro x y h; rotate_right)
    | ((with_reducible apply K.foldlSnd); rotate_left; intro x y h; rotate_right)
    | with_reducible apply K.fst_ite
    | with_reducible apply K.cond
    | with_reducible refine K.of_fst ?_ (by assumption)
    | with_reducible refine K.of_snd ?_ (by assumption)
    | (split)
    | dsimp only
    | (rw [Dev.mk_tag]; (with_reducible apply K.mk_wall); rotate_left; decide)
    | (rw [Dev.mk_tag]; (with_reducible apply K.mkT); rotate_left; (intro p hq; cases p <;> first | exact absurd hq (by decide) | rfl | exact ⟨rfl, rfl⟩ | exact fun _ => ⟨rfl, rfl⟩); exact fun w => w)

theorem Foot.wallLearn {e d : Dev} {pm rm : Nat} {p : Nat} {src : Nat} (h : K e d pm rm) (hp : sub 0x40000 pm = true)
    (hr : sub 0x0 rm = true) : K e (Dev.wallLearn d p src) pm rm := by
  refine K.lift h hp hr ?_
  clear h hp hr
  unfold Dev.wallLearn
  all_goals repeat' first
    | with_reducible exact K.refl _ _ _
    | with_reducible assumption
    | ((with_reducible apply K.setWp); rotate_left; decide)
    | with_reducible apply K.ite
    | ((with_reducible apply K.each); rotate_left; intro d x h; rotate_right)
    | ((with_reducible apply K.foldl); rotate_left; intro d x h; rotate_right)
    | ((with_reducible apply K.foldlFst); rotate_left; intro x y h; rotate_right)
    | ((with_reducible apply K.foldlSnd); rotate_left; intro x y h; rotate_right)
    | with_reducible apply K.fst_ite
    | with_reducible apply K.cond
    | with_reducible refine K.of_fst ?_ (by assumption)
    | with_reducible refine K.of_snd ?_ (by assumption)
    | (split)
    | dsimp only
    | (rw [Dev.mk_tag]; (with_reducible apply K.mk_wall); rotate_left; decide)
    | (rw [Dev.mk_tag]; (with_reducible apply K.mkT); rotate_left; (intro p hq; cases p <;> first | exact absurd hq (by decide) | rfl | exact ⟨rfl, rfl⟩ | exact fun _ => ⟨rfl, rfl⟩); exact fun w => w)

theorem Foot.cmdRx {e d : Dev} {pm rm : Nat} {p : Nat} {h0 : WallHdr} {type : Nat} {data : List Byte} {f : Dev → Dev} (h : K e d pm rm) (hp : sub 0x40000 pm = true)
    (hr : sub 0xc2800000000000000000000000000000000000000000000000000 rm = true) (hf_f : ∀ d', K e d' pm rm → K e (f d') pm rm) : K e (Dev.cmdRx d p h0 type data f) pm rm := by
  unfold Dev.cmdRx
  extract_lets x1 x2 x3 x4 x5 x6
  clear_value (g1 : x1 = _) (g2 : x2 = _) (g3 : x3 = _) (g4 : x4 = _) (g5 : x5 = _) (g6 : x6 = _)
  subst g1
  clear g2
  refine K.cutEq e pm rm g3 ?_ (fun h3 => ?_)
  rotate_left
  clear g3
  clear g4
  clear g5
  refine K.cutEq e pm rm g6 ?_ (fun h6 => ?_)
  rotate_left
  clear g6
  all_goals repeat' first
    | with_reducible apply hf_f
    | with_reducible exact K.refl _ _ _
    | with_reducible assumption
    | ((with_reducible apply K.inc); rotate_left; (first | assumption | exact R.mem_WALL_DROP_COUNT); (first | decide | assumption | exact sub_trans (by decide) hp | exact sub_trans (by decide) hr | exact sub_testBit' hp (by decide) | exact sub_testBit' hr (by decide)))
    | ((with_reducible apply K.setWp); rotate_left; (first | decide | assumption | exact sub_trans (by decide) hp | exact sub_trans (by decide) hr | exact sub_testBit' hp (by decide) | exact sub_testBit' hr (by decide)))
    | ((with_reducible apply Foot.wallLearn); rotate_left; (first | decide | assumption | exact sub_trans (by decide) hp | exact sub_trans (by decide) hr | exact sub_testBit' hp (by decide) | exact sub_testBit' hr (by decide)); (first | decide | assumption | exact sub_trans (by decide) hp | exact sub_trans (by decide) hr | exact sub_testBit' hp (by decide) | exact sub_testBit' hr (by decide)))
    | ((with_reducible apply Foot.wallSend); rotate_left; (first | decide | assumption | exact sub_trans (by decide) hp | exact sub_trans (by decide) hr | exact sub_testBit' hp (by decide) | exact sub_testBit' hr (by decide)); (first | decide | assumption | exact sub_trans (by decide) hp | exact sub_trans (by decide) hr | exact sub_testBit' hp (by decide) | exact sub_testBit' hr (by decide)))
    | ((with_reducible apply Foot.showWall); rotate_left; (first | decide | assumption | exact sub_trans (by decide) hp | exact sub_trans (by decide) hr | exact sub_testBit' hp (by decide) | exact sub_testBit' hr (by decide)); (first | decide | assumption | exact sub_trans (by decide) hp | exact sub_trans (by decide) hr | exact sub_testBit' hp (by decide) | exact sub_testBit' hr (by decide)))
    | with_reducible apply K.ite
    | ((with_reducible apply K.each); rotate_left; intro d x h; rotate_right)
    | ((with_reducible apply K.foldl); rotate_left; intro d x h; rotate_right)
    | ((with_reducible apply K.foldlFst); rotate_left; intro x y h; rotate_right)
    | ((with_reducible apply K.foldlSnd); rotate_left; intro x y h; rotate_right)
    | with_reducible apply K.fst_ite
    | with_reducible apply K.cond
    | with_reducible refine K.of_fst ?_ (by assumption)
    | with_reducible refine K.of_snd ?_ (by assumption)
    | (split)
    | dsimp only
    | (rw [Dev.mk_tag]; (with_reducible apply K.mk_wall); rotate_left; (first | decide | assumption | exact sub_trans (by decide) hp | exact sub_trans (by decide) hr | exact sub_testBit' hp (by decide) | exact sub_testBit' hr (by decide)))
    | (rw [Dev.mk_tag]; (with_reducible apply K.mkT); rotate_left; (intro p hq; cases p <;> first | exact absurd hq (by (first | decide | assumption | exact sub_trans (by decide) hp | exact sub_trans (by decide) hr | exact sub_testBit' hp (by decide) | exact sub_testBit' hr (by decide))) | rfl | exact ⟨rfl, rfl⟩ | exact fun _ => ⟨rfl, rfl⟩); exact fun w => w)

theorem Foot.sendJoin {e d : Dev} {pm rm : Nat} (h : K e d pm rm) (hp : sub 0x40000 pm = true)
    (hr : sub 0x0 rm = true) : K e (Dev.sendJoin d) pm rm := by
  refine K.lift h hp hr ?_
  clear h hp hr
  unfold Dev.sendJoin
  all_goals repeat' first
    | with_reducible exact K.refl _ _ _
    | with_reducible assumption
    | ((with_reducible apply Foot.wallUp); rotate_left; decide; decide)
    | with_reducible apply K.ite
    | ((with_reducible apply K.foldl); rotate_left; intro d x h; rotate_right)
    | ((with_reducible apply K.foldlFst); rotate_left; intro x y h; rotate_right)
    | ((with_reducible apply K.foldlSnd); rotate_left; intro x y h; rotate_right)
    | with_reducible apply K.fst_ite
    | with_reducible apply K.cond
    | with_reducible refine K.of_fst ?_ (by assumption)
    | with_reducible refine K.of_snd ?_ (by assumption)
    | (split)
    | dsimp only
    | (rw [Dev.mk_tag]; (with_reducible apply K.mk_wall); rotate_left; decide)
    | (rw [Dev.mk_tag]; (with_reducible apply K.mkT); rotate_left; (intro p hq; cases p <;> first | exact absurd hq (by decide) | rfl | exact ⟨rfl, rfl⟩ | exact fun _ => ⟨rfl, rfl⟩); exact fun w => w)

theorem Foot.flushResults {e d : Dev} {pm rm : Nat} (h : K e d pm rm) (hp : sub 0x40000 pm = true)
    (hr : sub 0x0 rm = true) : K e (Dev.flushResults d) pm rm := by
  refine K.lift h hp hr ?_
  clear h hp hr
  unfold Dev.flushResults
  all_goals repeat' first
    | with_reducible exact K.refl _ _ _
    | with_reducible assumption
    | ((with_reducible apply K.updWall); rotate_left; decide)
    | ((with_reducible apply Foot.wallUp); rotate_left; decide; decide)
    | with_reducible apply K.ite
    | ((with_reducible apply K.each); rotate_left; intro d x h; rotate_right)
    | ((with_reducible apply K.foldl); rotate_left; intro d x h; rotate_right)
    | ((with_reducible apply K.foldlFst); rotate_left; intro x y h; rotate_right)
    | ((with_reducible apply K.foldlSnd); rotate_left; intro x y h; rotate_right)
    | with_reducible apply K.fst_ite
    | with_reducible apply K.cond
    | with_reducible refine K.of_fst ?_ (by assumption)
    | with_reducible refine K.of_snd ?_ (by assumption)
    | (split)
    | dsimp only
    | (rw [Dev.mk_tag]; (with_reducible apply K.mk_wall); rotate_left; decide)
    | (rw [Dev.mk_tag]; (with_reducible apply K.mkT); rotate_left; (intro p hq; cases p <;> first | exact absurd hq (by decide) | rfl | exact ⟨rfl, rfl⟩ | exact fun _ => ⟨rfl, rfl⟩); exact fun w => w)

theorem Foot.chooseUpstream {e d : Dev} {pm rm : Nat} (h : K e d pm rm) (hp : sub 0x40002 pm = true)
    (hr : sub 0x8000000800000000000000000000000000000000000000000000080000 rm = true) : K e (Dev.chooseUpstream d) pm rm := by
  refine K.lift h hp hr ?_
  clear h hp hr
  unfold Dev.chooseUpstream
  all_goals repeat' first
    | with_reducible exact K.refl _ _ _
    | with_reducible assumption
    | ((with_reducible apply K.put); rotate_left; (first | assumption | exact R.mem_WALL_EVENT | exact R.mem_WALL_STATUS); decide)
    | ((with_reducible apply K.raise); rotate_left; (first | assumption | exact R.mem_WALL_EVENT | exact R.mem_WALL_STATUS); decide; decide; decide)
    | ((with_reducible apply K.updWall); rotate_left; decide)
    | ((with_reducible apply Foot.setWallState); rotate_left; decide; decide)
    | ((with_reducible apply Foot.flushResults); rotate_left; decide; decide)
    | ((with_reducible apply Foot.sendJoin); rotate_left; decide; decide)
    | with_reducible apply K.ite
    | ((with_reducible apply K.foldl); rotate_left; intro d x h; rotate_right)
    | ((with_reducible apply K.foldlFst); rotate_left; intro x y h; rotate_right)
    | ((with_reducible apply K.foldlSnd); rotate_left; intro x y h; rotate_right)
    | with_reducible apply K.fst_ite
    | with_reducible apply K.cond
    | with_reducible refine K.of_fst ?_ (by assumption)
    | with_reducible refine K.of_snd ?_ (by assumption)
    | (split)
    | dsimp only
    | (rw [Dev.mk_tag]; (with_reducible apply K.mk_log); rotate_left; decide)
    | (rw [Dev.mk_tag]; (with_reducible apply K.mk_wall); rotate_left; decide)
    | (rw [Dev.mk_tag]; (with_reducible apply K.mkT); rotate_left; (intro p hq; cases p <;> first | exact absurd hq (by decide) | rfl | exact ⟨rfl, rfl⟩ | exact fun _ => ⟨rfl, rfl⟩); exact fun w => w)

theorem Foot.dropUpstream {e d : Dev} {pm rm : Nat} (h : K e d pm rm) (hp : sub 0x40000 pm = true)
    (hr : sub 0x800000000000000000000000000000000000000000000000000 rm = true) : K e (Dev.dropUpstream d) pm rm := by
  refine K.lift h hp hr ?_
  clear h hp hr
  unfold Dev.dropUpstream
  all_goals repeat' first
    | with_reducible exact K.refl _ _ _
    | with_reducible assumption
    | ((with_reducible apply K.put); rotate_left; (first | assumption | exact R.mem_WALL_STATUS); decide)
    | ((with_reducible apply K.updWall); rotate_left; decide)
    | with_reducible apply K.ite
    | ((with_reducible apply K.foldl); rotate_left; intro d x h; rotate_right)
    | ((with_reducible apply K.foldlFst); rotate_left; intro x y h; rotate_right)
    | ((with_reducible apply K.foldlSnd); rotate_left; intro x y h; rotate_right)
    | with_reducible apply K.fst_ite
    | with_reducible apply K.cond
    | with_reducible refine K.of_fst ?_ (by assumption)
    | with_reducible refine K.of_snd ?_ (by assumption)
    | (split)
    | dsimp only
    | (rw [Dev.mk_tag]; (with_reducible apply K.mk_wall); rotate_left; decide)
    | (rw [Dev.mk_tag]; (with_reducible apply K.mkT); rotate_left; (intro p hq; cases p <;> first | exact absurd hq (by decide) | rfl | exact ⟨rfl, rfl⟩ | exact fun _ => ⟨rfl, rfl⟩); exact fun w => w)

theorem Foot.setLag {e d : Dev} {pm rm : Nat} {a : Nat} (h : K e d pm rm) (hp : sub 0x0 pm = true)
    (hr : sub 0x20000000000000000000000000000000000000000000000000000000000 rm = true) : K e (Dev.setLag d a) pm rm := by
  refine K.lift h hp hr ?_
  clear h hp hr
  unfold Dev.setLag
  all_goals repeat' first
    | with_reducible exact K.refl _ _ _
    | with_reducible assumption
    | ((with_reducible apply K.put); rotate_left; (first | assumption | exact R.mem_WALL_LAG); decide)
    | with_reducible apply K.ite
    | ((with_reducible apply K.foldl); rotate_left; intro d x h; rotate_right)
    | ((with_reducible apply K.foldlFst); rotate_left; intro x y h; rotate_right)
    | ((with_reducible apply K.foldlSnd); rotate_left; intro x y h; rotate_right)
    | with_reducible apply K.fst_ite
    | with_reducible apply K.cond
    | with_reducible refine K.of_fst ?_ (by assumption)
    | with_reducible refine K.of_snd ?_ (by assumption)
    | (split)
    | dsimp only
    | (rw [Dev.mk_tag]; (with_reducible apply K.mkT); rotate_left; (intro p hq; cases p <;> first | exact absurd hq (by decide) | rfl | exact ⟨rfl, rfl⟩ | exact fun _ => ⟨rfl, rfl⟩); exact fun w => w)

theorem Foot.lostAt {e d : Dev} {pm rm : Nat} {addrs : List Nat} (h : K e d pm rm) (hp : sub 0x40002 pm = true)
    (hr : sub 0x28000000000000000000000000000000000000000000000000000080000 rm = true) : K e (Dev.lostAt d addrs) pm rm := by
  refine K.lift h hp hr ?_
  clear h hp hr
  unfold Dev.lostAt
  extract_lets x1
  clear_value (g1 : x1 = _)
  refine K.cutEq d 0x40002 0x28000000000000000000000000000000000000000000000000000080000 g1 ?_ (fun h1 => ?_)
  rotate_left
  clear g1
  all_goals repeat' first
    | with_reducible exact K.refl _ _ _
    | with_reducible assumption
    | ((with_reducible apply K.raise); rotate_left; (first | assumption | exact R.mem_WALL_EVENT); decide; decide; decide)
    | ((with_reducible apply K.updWall); rotate_left; decide)
    | ((with_reducible apply Foot.setLag); rotate_left; decide; decide)
    | with_reducible apply K.ite
    | ((with_reducible apply K.each); rotate_left; intro d x h; rotate_right)
    | ((with_reducible apply K.foldl); rotate_left; intro d x h; rotate_right)
    | ((with_reducible apply K.foldlFst); rotate_left; intro x y h; rotate_right)
    | ((with_reducible apply K.foldlSnd); rotate_left; intro x y h; rotate_right)
    | with_reducible apply K.fst_ite
    | with_reducible apply K.cond
    | with_reducible refine K.of_fst ?_ (by assumption)
    | with_reducible refine K.of_snd ?_ (by assumption)
    | (split)
    | dsimp only
    | (rw [Dev.mk_tag]; (with_reducible apply K.mk_log); rotate_left; decide)
    | (rw [Dev.mk_tag]; (with_reducible apply K.mk_wall); rotate_left; decide)
    | (rw [Dev.mk_tag]; (with_reducible apply K.mkT); rotate_left; (intro p hq; cases p <;> first | exact absurd hq (by decide) | rfl | exact ⟨rfl, rfl⟩ | exact fun _ => ⟨rfl, rfl⟩); exact fun w => w)

theorem Foot.sendLost {e d : Dev} {pm rm : Nat} {addrs : List Nat} (h : K e d pm rm) (hp : sub 0x40000 pm = true)
    (hr : sub 0x0 rm = true) : K e (Dev.sendLost d addrs) pm rm := by
  refine K.lift h hp hr ?_
  clear h hp hr
  unfold Dev.sendLost
  all_goals repeat' first
    | with_reducible exact K.refl _ _ _
    | with_reducible assumption
    | ((with_reducible apply Foot.wallUp); rotate_left; decide; decide)
    | with_reducible apply K.ite
    | ((with_reducible apply K.each); rotate_left; intro d x h; rotate_right)
    | ((with_reducible apply K.foldl); rotate_left; intro d x h; rotate_right)
    | ((with_reducible apply K.foldlFst); rotate_left; intro x y h; rotate_right)
    | ((with_reducible apply K.foldlSnd); rotate_left; intro x y h; rotate_right)
    | with_reducible apply K.fst_ite
    | with_reducible apply K.cond
    | with_reducible refine K.of_fst ?_ (by assumption)
    | with_reducible refine K.of_snd ?_ (by assumption)
    | (split)
    | dsimp only
    | (rw [Dev.mk_tag]; (with_reducible apply K.mk_wall); rotate_left; decide)
    | (rw [Dev.mk_tag]; (with_reducible apply K.mkT); rotate_left; (intro p hq; cases p <;> first | exact absurd hq (by decide) | rfl | exact ⟨rfl, rfl⟩ | exact fun _ => ⟨rfl, rfl⟩); exact fun w => w)

theorem Foot.sendTrainSet {e d : Dev} {pm rm : Nat} {p : Nat} (h : K e d pm rm) (hp : sub 0x40001 pm = true)
    (hr : sub 0x0 rm = true) : K e (Dev.sendTrainSet d p) pm rm := by
  refine K.lift h hp hr ?_
  clear h hp hr
  unfold Dev.sendTrainSet
  extract_lets x1
  clear_value (g1 : x1 = _)
  clear g1
  all_goals repeat' first
    | with_reducible exact K.refl _ _ _
    | with_reducible assumption
    | ((with_reducible apply K.setWp); rotate_left; decide)
    | ((with_reducible apply Foot.fresh); rotate_left; decide; decide)
    | with_reducible apply K.ite
    | ((with_reducible apply K.foldl); rotate_left; intro d x h; rotate_right)
    | ((with_reducible apply K.foldlFst); rotate_left; intro x y h; rotate_right)
    | ((with_reducible apply K.foldlSnd); rotate_left; intro x y h; rotate_right)
    | with_reducible apply K.fst_ite
    | with_reducible apply K.cond
    | with_reducible refine K.of_fst ?_ (by assumption)
    | with_reducible refine K.of_snd ?_ (by assumption)
    | (split)
    | dsimp only
    | (rw [Dev.mk_tag]; (with_reducible apply K.mk_free); rotate_left; decide)
    | (rw [Dev.mk_tag]; (with_reducible apply K.mk_wall); rotate_left; decide)
    | (rw [Dev.mk_tag]; (with_reducible apply K.mkT); rotate_left; (intro p hq; cases p <;> first | exact absurd hq (by decide) | rfl | exact ⟨rfl, rfl⟩ | exact fun _ => ⟨rfl, rfl⟩); exact fun w => w)

theorem Foot.wallPortDown {e d : Dev} {pm rm : Nat} {p : Nat} (h : K e d pm rm) (hp : sub 0x40002 pm = true)
    (hr : sub 0x28000082800000000000000000000000000000000000000000000080000 rm = true) : K e (Dev.wallPortDown d p) pm rm := by
  refine K.lift h hp hr ?_
  clear h hp hr
  unfold Dev.wallPortDown
  extract_lets x1 x2 x3 x4 x5 x6 x7
  clear_value (g1 : x1 = _) (g2 : x2 = _) (g3 : x3 = _) (g4 : x4 = _) (g5 : x5 = _) (g6 : x6 = _) (g7 : x7 = _)
  subst g1
  clear g2
  subst g3
  refine K.cutEq d 0x40002 0x28000082800000000000000000000000000000000000000000000080000 g4 ?_ (fun h4 => ?_)
  rotate_left
  clear g4
  refine K.cutEq d 0x40002 0x28000082800000000000000000000000000000000000000000000080000 g5 ?_ (fun h5 => ?_)
  rotate_left
  clear g5
  refine K.cutEq d 0x40002 0x28000082800000000000000000000000000000000000000000000080000 g6 ?_ (fun h6 => ?_)
  rotate_left
  clear g6
  refine K.cutEq d 0x40002 0x28000082800000000000000000000000000000000000000000000080000 g7 ?_ (fun h7 => ?_)
  rotate_left
  clear g7
  all_goals repeat' first
    | with_reducible exact K.refl _ _ _
    | with_reducible assumption
    | ((with_reducible apply K.raise); rotate_left; (first | assumption | exact R.mem_WALL_EVENT); decide; decide; decide)
    | ((with_reducible apply K.setWp); rotate_left; decide)
    | ((with_reducible apply Foot.chooseUpstream); rotate_left; decide; decide)
    | ((with_reducible apply Foot.dropUpstream); rotate_left; decide; decide)
    | ((with_reducible apply Foot.lostAt); rotate_left; decide; decide)
    | ((with_reducible apply Foot.sendLost); rotate_left; decide; decide)
    | ((with_reducible apply Foot.showWall); rotate_left; decide; decide)
    | with_reducible apply K.ite
    | ((with_reducible apply K.foldl); rotate_left; intro d x h; rotate_right)
    | ((with_reducible apply K.foldlFst); rotate_left; intro x y h; rotate_right)
    | ((with_reducible apply K.foldlSnd); rotate_left; intro x y h; rotate_right)
    | with_reducible apply K.fst_ite
    | with_reducible apply K.cond
    | with_reducible refine K.of_fst ?_ (by assumption)
    | with_reducible refine K.of_snd ?_ (by assumption)
    | (split)
    | dsimp only
    | (rw [Dev.mk_tag]; (with_reducible apply K.mk_log); rotate_left; decide)
    | (rw [Dev.mk_tag]; (with_reducible apply K.mk_wall); rotate_left; decide)
    | (rw [Dev.mk_tag]; (with_reducible apply K.mkT); rotate_left; (intro p hq; cases p <;> first | exact absurd hq (by decide) | rfl | exact ⟨rfl, rfl⟩ | exact fun _ => ⟨rfl, rfl⟩); exact fun w => w)

theorem Foot.trainSet {e d : Dev} {pm rm : Nat} {p : Nat} {t : TrainSet} (h : K e d pm rm) (hp : sub 0x40003 pm = true)
    (hr : sub 0x8000082800000000000000000000000000000000000000000000080000 rm = true) : K e (Dev.trainSet d p t) pm rm := by
  refine K.lift h hp hr ?_
  clear h hp hr
  unfold Dev.trainSet
  extract_lets x1 x2
  clear_value (g1 : x1 = _) (g2 : x2 = _)
  refine K.cutEq d 0x40003 0x8000082800000000000000000000000000000000000000000000080000 g1 ?_ (fun h1 => ?_)
  rotate_left
  clear g1
  refine K.cutEq d 0x40003 0x8000082800000000000000000000000000000000000000000000080000 g2 ?_ (fun h2 => ?_)
  rotate_left
  clear g2
  all_goals repeat' first
    | with_reducible exact K.refl _ _ _
    | with_reducible assumption
    | ((with_reducible apply K.raise); rotate_left; (first | assumption | exact R.mem_WALL_EVENT); decide; decide; decide)
    | ((with_reducible apply K.setWp); rotate_left; decide)
    | ((with_reducible apply Foot.sendTrainSet); rotate_left; decide; decide)
    | ((with_reducible apply Foot.showWall); rotate_left; decide; decide)
    | with_reducible apply K.ite
    | ((with_reducible apply K.foldl); rotate_left; intro d x h; rotate_right)
    | ((with_reducible apply K.foldlFst); rotate_left; intro x y h; rotate_right)
    | ((with_reducible apply K.foldlSnd); rotate_left; intro x y h; rotate_right)
    | with_reducible apply K.fst_ite
    | with_reducible apply K.cond
    | with_reducible refine K.of_fst ?_ (by assumption)
    | with_reducible refine K.of_snd ?_ (by assumption)
    | (split)
    | dsimp only
    | (rw [Dev.mk_tag]; (with_reducible apply K.mk_free); rotate_left; decide)
    | (rw [Dev.mk_tag]; (with_reducible apply K.mk_log); rotate_left; decide)
    | (rw [Dev.mk_tag]; (with_reducible apply K.mk_wall); rotate_left; decide)
    | (rw [Dev.mk_tag]; (with_reducible apply K.mkT); rotate_left; (intro p hq; cases p <;> first | exact absurd hq (by decide) | rfl | exact ⟨rfl, rfl⟩ | exact fun _ => ⟨rfl, rfl⟩); exact fun w => w)

theorem Foot.beaconTx {e d : Dev} {pm rm : Nat} {now : Nat} {fsTime : Nat} (h : K e d pm rm) (hp : sub 0x40000 pm = true)
    (hr : sub 0x18000000000000000000000000000000000000000000000000000 rm = true) : K e (Dev.beaconTx d now fsTime) pm rm := by
  refine K.lift h hp hr ?_
  clear h hp hr
  unfold Dev.beaconTx
  extract_lets x1
  clear_value (g1 : x1 = _)
  refine K.cutEq d 0x40000 0x18000000000000000000000000000000000000000000000000000 g1 ?_ (fun h1 => ?_)
  rotate_left
  clear g1
  all_goals repeat' first
    | with_reducible exact K.refl _ _ _
    | with_reducible assumption
    | ((with_reducible apply K.put); rotate_left; (first | assumption | exact R.mem_WALL_STATUS | exact R.mem_WALL_TIME_HI | exact R.mem_WALL_TIME_LO); decide)
    | ((with_reducible apply K.setWp); rotate_left; decide)
    | with_reducible apply K.ite
    | ((with_reducible apply K.each); rotate_left; intro d x h; rotate_right)
    | ((with_reducible apply K.foldl); rotate_left; intro d x h; rotate_right)
    | ((with_reducible apply K.foldlFst); rotate_left; intro x y h; rotate_right)
    | ((with_reducible apply K.foldlSnd); rotate_left; intro x y h; rotate_right)
    | with_reducible apply K.fst_ite
    | with_reducible apply K.cond
    | with_reducible refine K.of_fst ?_ (by assumption)
    | with_reducible refine K.of_snd ?_ (by assumption)
    | (split)
    | dsimp only
    | (rw [Dev.mk_tag]; (with_reducible apply K.mk_wall); rotate_left; decide)
    | (rw [Dev.mk_tag]; (with_reducible apply K.mkT); rotate_left; (intro p hq; cases p <;> first | exact absurd hq (by decide) | rfl | exact ⟨rfl, rfl⟩ | exact fun _ => ⟨rfl, rfl⟩); exact fun w => w)

theorem Foot.dreqTx {e d : Dev} {pm rm : Nat} {now : Nat} (h : K e d pm rm) (hp : sub 0x40000 pm = true)
    (hr : sub 0x0 rm = true) : K e (Dev.dreqTx d now) pm rm := by
  refine K.lift h hp hr ?_
  clear h hp hr
  unfold Dev.dreqTx
  all_goals repeat' first
    | with_reducible exact K.refl _ _ _
    | with_reducible assumption
    | ((with_reducible apply K.setWp); rotate_left; decide)
    | with_reducible apply K.ite
    | ((with_reducible apply K.each); rotate_left; intro d x h; rotate_right)
    | ((with_reducible apply K.foldl); rotate_left; intro d x h; rotate_right)
    | ((with_reducible apply K.foldlFst); rotate_left; intro x y h; rotate_right)
    | ((with_reducible apply K.foldlSnd); rotate_left; intro x y h; rotate_right)
    | with_reducible apply K.fst_ite
    | with_reducible apply K.cond
    | with_reducible refine K.of_fst ?_ (by assumption)
    | with_reducible refine K.of_snd ?_ (by assumption)
    | (split)
    | dsimp only
    | (rw [Dev.mk_tag]; (with_reducible apply K.mk_wall); rotate_left; decide)
    | (rw [Dev.mk_tag]; (with_reducible apply K.mkT); rotate_left; (intro p hq; cases p <;> first | exact absurd hq (by decide) | rfl | exact ⟨rfl, rfl⟩ | exact fun _ => ⟨rfl, rfl⟩); exact fun w => w)

theorem Foot.dreqRx {e d : Dev} {pm rm : Nat} {p : Nat} {child : Bool} {t1 : Nat} {seq : Nat} {t2 : Nat} {t3 : Nat} (h : K e d pm rm) (hp : sub 0x40000 pm = true)
    (hr : sub 0x82800000000000000000000000000000000000000000000000000 rm = true) : K e (Dev.dreqRx d p child t1 seq t2 t3) pm rm := by
  refine K.lift h hp hr ?_
  clear h hp hr
  unfold Dev.dreqRx
  all_goals repeat' first
    | with_reducible exact K.refl _ _ _
    | with_reducible assumption
    | ((with_reducible apply K.setWp); rotate_left; decide)
    | ((with_reducible apply Foot.showWall); rotate_left; decide; decide)
    | with_reducible apply K.ite
    | ((with_reducible apply K.foldl); rotate_left; intro d x h; rotate_right)
    | ((with_reducible apply K.foldlFst); rotate_left; intro x y h; rotate_right)
    | ((with_reducible apply K.foldlSnd); rotate_left; intro x y h; rotate_right)
    | with_reducible apply K.fst_ite
    | with_reducible apply K.cond
    | with_reducible refine K.of_fst ?_ (by assumption)
    | with_reducible refine K.of_snd ?_ (by assumption)
    | (split)
    | dsimp only
    | (rw [Dev.mk_tag]; (with_reducible apply K.mk_wall); rotate_left; decide)
    | (rw [Dev.mk_tag]; (with_reducible apply K.mkT); rotate_left; (intro p hq; cases p <;> first | exact absurd hq (by decide) | rfl | exact ⟨rfl, rfl⟩ | exact fun _ => ⟨rfl, rfl⟩); exact fun w => w)

theorem Foot.drspRx {e d : Dev} {pm rm : Nat} {p : Nat} {t1 : Nat} {t2 : Nat} {t3 : Nat} {seq : Nat} {t4 : Nat} (h : K e d pm rm) (hp : sub 0x40000 pm = true)
    (hr : sub 0x80000000000000000000000000000000000000000000000000000 rm = true) : K e (Dev.drspRx d p t1 t2 t3 seq t4) pm rm := by
  refine K.lift h hp hr ?_
  clear h hp hr
  unfold Dev.drspRx
  extract_lets x1 x2
  clear_value (g1 : x1 = _) (g2 : x2 = _)
  clear g1
  refine K.cutEq d 0x40000 0x80000000000000000000000000000000000000000000000000000 g2 ?_ (fun h2 => ?_)
  rotate_left
  clear g2
  all_goals repeat' first
    | with_reducible exact K.refl _ _ _
    | with_reducible assumption
    | ((with_reducible apply K.put); rotate_left; (first | assumption | exact R.mem_WALL_PORT_STATUS); decide)
    | ((with_reducible apply K.setWp); rotate_left; decide)
    | with_reducible apply K.ite
    | ((with_reducible apply K.foldl); rotate_left; intro d x h; rotate_right)
    | ((with_reducible apply K.foldlFst); rotate_left; intro x y h; rotate_right)
    | ((with_reducible apply K.foldlSnd); rotate_left; intro x y h; rotate_right)
    | with_reducible apply K.fst_ite
    | with_reducible apply K.cond
    | with_reducible refine K.of_fst ?_ (by assumption)
    | with_reducible refine K.of_snd ?_ (by assumption)
    | (split)
    | dsimp only
    | (rw [Dev.mk_tag]; (with_reducible apply K.mk_wall); rotate_left; decide)
    | (rw [Dev.mk_tag]; (with_reducible apply K.mkT); rotate_left; (intro p hq; cases p <;> first | exact absurd hq (by decide) | rfl | exact ⟨rfl, rfl⟩ | exact fun _ => ⟨rfl, rfl⟩); exact fun w => w)

theorem Foot.lockCount {e d : Dev} {pm rm : Nat} {o : Int} (h : K e d pm rm) (hp : sub 0x40002 pm = true)
    (hr : sub 0x8000000800000000000000000000000000000000000000000000080000 rm = true) : K e (Dev.lockCount d o) pm rm := by
  refine K.lift h hp hr ?_
  clear h hp hr
  unfold Dev.lockCount
  extract_lets x1 x2 x3 x4
  clear_value (g1 : x1 = _) (g2 : x2 = _) (g3 : x3 = _) (g4 : x4 = _)
  clear g1
  refine K.cutEq d 0x40002 0x8000000800000000000000000000000000000000000000000000080000 g2 ?_ (fun h2 => ?_)
  rotate_left
  clear g2
  clear g3
  refine K.cutEq d 0x40002 0x8000000800000000000000000000000000000000000000000000080000 g4 ?_ (fun h4 => ?_)
  rotate_left
  clear g4
  all_goals repeat' first
    | with_reducible exact K.refl _ _ _
    | with_reducible assumption
    | ((with_reducible apply K.raise); rotate_left; (first | assumption | exact R.mem_WALL_EVENT); decide; decide; decide)
    | ((with_reducible apply K.updWall); rotate_left; decide)
    | ((with_reducible apply Foot.setWallState); rotate_left; decide; decide)
    | with_reducible apply K.ite
    | ((with_reducible apply K.foldl); rotate_left; intro d x h; rotate_right)
    | ((with_reducible apply K.foldlFst); rotate_left; intro x y h; rotate_right)
    | ((with_reducible apply K.foldlSnd); rotate_left; intro x y h; rotate_right)
    | with_reducible apply K.fst_ite
    | with_reducible apply K.cond
    | with_reducible refine K.of_fst ?_ (by assumption)
    | with_reducible refine K.of_snd ?_ (by assumption)
    | (split)
    | dsimp only
    | (rw [Dev.mk_tag]; (with_reducible apply K.mk_log); rotate_left; decide)
    | (rw [Dev.mk_tag]; (with_reducible apply K.mk_wall); rotate_left; decide)
    | (rw [Dev.mk_tag]; (with_reducible apply K.mkT); rotate_left; (intro p hq; cases p <;> first | exact absurd hq (by decide) | rfl | exact ⟨rfl, rfl⟩ | exact fun _ => ⟨rfl, rfl⟩); exact fun w => w)

theorem Foot.checkTiming {e d : Dev} {pm rm : Nat} {b : Beacon} (h : K e d pm rm) (hp : sub 0x40002 pm = true)
    (hr : sub 0x8000000800000000000000000000000000000000000000000000080000 rm = true) : K e (Dev.checkTiming d b) pm rm := by
  refine K.lift h hp hr ?_
  clear h hp hr
  unfold Dev.checkTiming
  all_goals repeat' first
    | with_reducible exact K.refl _ _ _
    | with_reducible assumption
    | ((with_reducible apply K.raise); rotate_left; (first | assumption | exact R.mem_WALL_ADDR | exact R.mem_WALL_CTRL | exact R.mem_WALL_EVENT); decide; decide; decide)
    | ((with_reducible apply K.updWall); rotate_left; decide)
    | ((with_reducible apply Foot.setWallState); rotate_left; decide; decide)
    | with_reducible apply K.ite
    | ((with_reducible apply K.foldl); rotate_left; intro d x h; rotate_right)
    | ((with_reducible apply K.foldlFst); rotate_left; intro x y h; rotate_right)
    | ((with_reducible apply K.foldlSnd); rotate_left; intro x y h; rotate_right)
    | with_reducible apply K.fst_ite
    | with_reducible apply K.cond
    | with_reducible refine K.of_fst ?_ (by assumption)
    | with_reducible refine K.of_snd ?_ (by assumption)
    | (split)
    | dsimp only
    | (rw [Dev.mk_tag]; (with_reducible apply K.mk_log); rotate_left; decide)
    | (rw [Dev.mk_tag]; (with_reducible apply K.mk_wall); rotate_left; decide)
    | (rw [Dev.mk_tag]; (with_reducible apply K.mkT); rotate_left; (intro p hq; cases p <;> first | exact absurd hq (by decide) | rfl | exact ⟨rfl, rfl⟩ | exact fun _ => ⟨rfl, rfl⟩); exact fun w => w)

theorem Foot.servo {e d : Dev} {pm rm : Nat} {p : Nat} {b : Beacon} {tRx : Nat} {own : Nat} (h : K e d pm rm) (hp : sub 0x40002 pm = true)
    (hr : sub 0x800001c800000000000000000000000000000000000000000008080000 rm = true) : K e (Dev.servo d p b tRx own) pm rm := by
  refine K.lift h hp hr ?_
  clear h hp hr
  unfold Dev.servo
  extract_lets x1 x2 x3 x4 x5 x6 x7
  clear_value (g1 : x1 = _) (g2 : x2 = _) (g3 : x3 = _) (g4 : x4 = _) (g5 : x5 = _) (g6 : x6 = _) (g7 : x7 = _)
  clear g1
  clear g2
  clear g3
  refine K.cutEq d 0x40002 0x800001c800000000000000000000000000000000000000000008080000 g4 ?_ (fun h4 => ?_)
  rotate_left
  clear g4
  refine K.cutEq d 0x40002 0x800001c800000000000000000000000000000000000000000008080000 g5 ?_ (fun h5 => ?_)
  rotate_left
  clear g5
  refine K.cutEq d 0x40002 0x800001c800000000000000000000000000000000000000000008080000 g6 ?_ (fun h6 => ?_)
  rotate_left
  clear g6
  refine K.cutEq d 0x40002 0x800001c800000000000000000000000000000000000000000008080000 g7 ?_ (fun h7 => ?_)
  rotate_left
  clear g7
  all_goals repeat' first
    | with_reducible exact K.refl _ _ _
    | with_reducible assumption
    | ((with_reducible apply K.put); rotate_left; (first | assumption | exact R.mem_DELAY_ADJ | exact R.mem_WALL_OFFSET | exact R.mem_WALL_TIME_HI | exact R.mem_WALL_TIME_LO); decide)
    | ((with_reducible apply K.updWall); rotate_left; decide)
    | ((with_reducible apply Foot.checkTiming); rotate_left; decide; decide)
    | ((with_reducible apply Foot.retarget); rotate_left; decide; decide)
    | ((with_reducible apply Foot.lockCount); rotate_left; decide; decide)
    | with_reducible apply K.ite
    | ((with_reducible apply K.foldl); rotate_left; intro d x h; rotate_right)
    | ((with_reducible apply K.foldlFst); rotate_left; intro x y h; rotate_right)
    | ((with_reducible apply K.foldlSnd); rotate_left; intro x y h; rotate_right)
    | with_reducible apply K.fst_ite
    | with_reducible apply K.cond
    | with_reducible refine K.of_fst ?_ (by assumption)
    | with_reducible refine K.of_snd ?_ (by assumption)
    | (split)
    | dsimp only
    | (rw [Dev.mk_tag]; (with_reducible apply K.mk_log); rotate_left; decide)
    | (rw [Dev.mk_tag]; (with_reducible apply K.mk_wall); rotate_left; decide)
    | (rw [Dev.mk_tag]; (with_reducible apply K.mkT); rotate_left; (intro p hq; cases p <;> first | exact absurd hq (by decide) | rfl | exact ⟨rfl, rfl⟩ | exact fun _ => ⟨rfl, rfl⟩); exact fun w => w)

theorem Foot.yield {e d : Dev} {pm rm : Nat} (h : K e d pm rm) (hp : sub 0x40002 pm = true)
    (hr : sub 0x8000000800000000000000000000000000000000000000000000080000 rm = true) : K e (Dev.yield d) pm rm := by
  refine K.lift h hp hr ?_
  clear h hp hr
  unfold Dev.yield
  extract_lets x1
  clear_value (g1 : x1 = _)
  refine K.cutEq d 0x40002 0x8000000800000000000000000000000000000000000000000000080000 g1 ?_ (fun h1 => ?_)
  rotate_left
  clear g1
  all_goals repeat' first
    | with_reducible exact K.refl _ _ _
    | with_reducible assumption
    | ((with_reducible apply K.put); rotate_left; (first | assumption | exact R.mem_WALL_CTRL | exact R.mem_WALL_EVENT | exact R.mem_WALL_STATUS); decide)
    | ((with_reducible apply K.raiseIf); rotate_left; (first | assumption | exact R.mem_WALL_CTRL | exact R.mem_WALL_EVENT | exact R.mem_WALL_STATUS); decide; decide; decide)
    | ((with_reducible apply K.updWall); rotate_left; decide)
    | ((with_reducible apply Foot.setWallState); rotate_left; decide; decide)
    | with_reducible apply K.ite
    | ((with_reducible apply K.foldl); rotate_left; intro d x h; rotate_right)
    | ((with_reducible apply K.foldlFst); rotate_left; intro x y h; rotate_right)
    | ((with_reducible apply K.foldlSnd); rotate_left; intro x y h; rotate_right)
    | with_reducible apply K.fst_ite
    | with_reducible apply K.cond
    | with_reducible refine K.of_fst ?_ (by assumption)
    | with_reducible refine K.of_snd ?_ (by assumption)
    | (split)
    | dsimp only
    | (rw [Dev.mk_tag]; (with_reducible apply K.mk_log); rotate_left; decide)
    | (rw [Dev.mk_tag]; (with_reducible apply K.mk_wall); rotate_left; decide)
    | (rw [Dev.mk_tag]; (with_reducible apply K.mkT); rotate_left; (intro p hq; cases p <;> first | exact absurd hq (by decide) | rfl | exact ⟨rfl, rfl⟩ | exact fun _ => ⟨rfl, rfl⟩); exact fun w => w)

theorem Foot.fence {e d : Dev} {pm rm : Nat} {p : Nat} (h : K e d pm rm) (hp : sub 0x40000 pm = true)
    (hr : sub 0x800000000000000000000000000000000000000000000000000 rm = true) : K e (Dev.fence d p) pm rm := by
  refine K.lift h hp hr ?_
  clear h hp hr
  unfold Dev.fence
  extract_lets x1
  clear_value (g1 : x1 = _)
  refine K.cutEq d 0x40000 0x800000000000000000000000000000000000000000000000000 g1 ?_ (fun h1 => ?_)
  rotate_left
  clear g1
  all_goals repeat' first
    | with_reducible exact K.refl _ _ _
    | with_reducible assumption
    | ((with_reducible apply K.setWp); rotate_left; decide)
    | ((with_reducible apply Foot.dropUpstream); rotate_left; decide; decide)
    | with_reducible apply K.ite
    | ((with_reducible apply K.foldl); rotate_left; intro d x h; rotate_right)
    | ((with_reducible apply K.foldlFst); rotate_left; intro x y h; rotate_right)
    | ((with_reducible apply K.foldlSnd); rotate_left; intro x y h; rotate_right)
    | with_reducible apply K.fst_ite
    | with_reducible apply K.cond
    | with_reducible refine K.of_fst ?_ (by assumption)
    | with_reducible refine K.of_snd ?_ (by assumption)
    | (split)
    | dsimp only
    | (rw [Dev.mk_tag]; (with_reducible apply K.mk_wall); rotate_left; decide)
    | (rw [Dev.mk_tag]; (with_reducible apply K.mkT); rotate_left; (intro p hq; cases p <;> first | exact absurd hq (by decide) | rfl | exact ⟨rfl, rfl⟩ | exact fun _ => ⟨rfl, rfl⟩); exact fun w => w)

theorem Foot.newEpoch {e d : Dev} {pm rm : Nat} {epoch : Nat} {root : Nat} (h : K e d pm rm) (hp : sub 0x40000 pm = true)
    (hr : sub 0x800000000000000000000000000000000000000000000000000 rm = true) : K e (Dev.newEpoch d epoch root) pm rm := by
  refine K.lift h hp hr ?_
  clear h hp hr
  unfold Dev.newEpoch
  all_goals repeat' first
    | with_reducible exact K.refl _ _ _
    | with_reducible assumption
    | ((with_reducible apply K.put); rotate_left; (first | assumption | exact R.mem_WALL_STATUS); decide)
    | ((with_reducible apply K.updWall); rotate_left; decide)
    | ((with_reducible apply Foot.dropUpstream); rotate_left; decide; decide)
    | with_reducible apply K.ite
    | ((with_reducible apply K.foldl); rotate_left; intro d x h; rotate_right)
    | ((with_reducible apply K.foldlFst); rotate_left; intro x y h; rotate_right)
    | ((with_reducible apply K.foldlSnd); rotate_left; intro x y h; rotate_right)
    | with_reducible apply K.fst_ite
    | with_reducible apply K.cond
    | with_reducible refine K.of_fst ?_ (by assumption)
    | with_reducible refine K.of_snd ?_ (by assumption)
    | (split)
    | dsimp only
    | (rw [Dev.mk_tag]; (with_reducible apply K.mk_wall); rotate_left; decide)
    | (rw [Dev.mk_tag]; (with_reducible apply K.mkT); rotate_left; (intro p hq; cases p <;> first | exact absurd hq (by decide) | rfl | exact ⟨rfl, rfl⟩ | exact fun _ => ⟨rfl, rfl⟩); exact fun w => w)

theorem Foot.fenceOthers {e d : Dev} {pm rm : Nat} {p : Nat} {epoch : Nat} {root : Nat} (h : K e d pm rm) (hp : sub 0x40000 pm = true)
    (hr : sub 0x800000000000000000000000000000000000000000000000000 rm = true) : K e (Dev.fenceOthers d p epoch root) pm rm := by
  refine K.lift h hp hr ?_
  clear h hp hr
  unfold Dev.fenceOthers
  all_goals repeat' first
    | with_reducible exact K.refl _ _ _
    | with_reducible assumption
    | ((with_reducible apply Foot.fence); rotate_left; decide; decide)
    | with_reducible apply K.ite
    | ((with_reducible apply K.each); rotate_left; intro d x h; rotate_right)
    | ((with_reducible apply K.foldl); rotate_left; intro d x h; rotate_right)
    | ((with_reducible apply K.foldlFst); rotate_left; intro x y h; rotate_right)
    | ((with_reducible apply K.foldlSnd); rotate_left; intro x y h; rotate_right)
    | with_reducible apply K.fst_ite
    | with_reducible apply K.cond
    | with_reducible refine K.of_fst ?_ (by assumption)
    | with_reducible refine K.of_snd ?_ (by assumption)
    | (split)
    | dsimp only
    | (rw [Dev.mk_tag]; (with_reducible apply K.mk_wall); rotate_left; decide)
    | (rw [Dev.mk_tag]; (with_reducible apply K.mkT); rotate_left; (intro p hq; cases p <;> first | exact absurd hq (by decide) | rfl | exact ⟨rfl, rfl⟩ | exact fun _ => ⟨rfl, rfl⟩); exact fun w => w)

theorem Foot.beaconTake {e d : Dev} {pm rm : Nat} {p : Nat} {b : Beacon} {tRx : Nat} {own : Nat} (h : K e d pm rm) (hp : sub 0x40002 pm = true)
    (hr : sub 0x800009e800000000000000000000000000000000000000000008080000 rm = true) : K e (Dev.beaconTake d p b tRx own) pm rm := by
  refine K.lift h hp hr ?_
  clear h hp hr
  unfold Dev.beaconTake
  extract_lets x1 x2 x3 x4
  clear_value (g1 : x1 = _) (g2 : x2 = _) (g3 : x3 = _) (g4 : x4 = _)
  refine K.cutEq d 0x40002 0x800009e800000000000000000000000000000000000000000008080000 g1 ?_ (fun h1 => ?_)
  rotate_left
  clear g1
  refine K.cutEq d 0x40002 0x800009e800000000000000000000000000000000000000000008080000 g2 ?_ (fun h2 => ?_)
  rotate_left
  clear g2
  refine K.cutEq d 0x40002 0x800009e800000000000000000000000000000000000000000008080000 g3 ?_ (fun h3 => ?_)
  rotate_left
  clear g3
  refine K.cutEq d 0x40002 0x800009e800000000000000000000000000000000000000000008080000 g4 ?_ (fun h4 => ?_)
  rotate_left
  clear g4
  all_goals repeat' first
    | with_reducible exact K.refl _ _ _
    | with_reducible assumption
    | ((with_reducible apply K.put); rotate_left; (first | assumption | exact R.mem_WALL_STATUS); decide)
    | ((with_reducible apply K.setWp); rotate_left; decide)
    | ((with_reducible apply Foot.dropUpstream); rotate_left; decide; decide)
    | ((with_reducible apply Foot.chooseUpstream); rotate_left; decide; decide)
    | ((with_reducible apply Foot.servo); rotate_left; decide; decide)
    | ((with_reducible apply Foot.showWall); rotate_left; decide; decide)
    | with_reducible apply K.ite
    | ((with_reducible apply K.foldl); rotate_left; intro d x h; rotate_right)
    | ((with_reducible apply K.foldlFst); rotate_left; intro x y h; rotate_right)
    | ((with_reducible apply K.foldlSnd); rotate_left; intro x y h; rotate_right)
    | with_reducible apply K.fst_ite
    | with_reducible apply K.cond
    | with_reducible refine K.of_fst ?_ (by assumption)
    | with_reducible refine K.of_snd ?_ (by assumption)
    | (split)
    | dsimp only
    | (rw [Dev.mk_tag]; (with_reducible apply K.mk_log); rotate_left; decide)
    | (rw [Dev.mk_tag]; (with_reducible apply K.mk_wall); rotate_left; decide)
    | (rw [Dev.mk_tag]; (with_reducible apply K.mkT); rotate_left; (intro p hq; cases p <;> first | exact absurd hq (by decide) | rfl | exact ⟨rfl, rfl⟩ | exact fun _ => ⟨rfl, rfl⟩); exact fun w => w)

theorem Foot.beaconRx {e d : Dev} {pm rm : Nat} {p : Nat} {b : Beacon} {tRx : Nat} {own : Nat} (h : K e d pm rm) (hp : sub 0x40002 pm = true)
    (hr : sub 0x800009e800000000000000000000000000000000000000000008080000 rm = true) : K e (Dev.beaconRx d p b tRx own) pm rm := by
  refine K.lift h hp hr ?_
  clear h hp hr
  unfold Dev.beaconRx
  extract_lets x1 x2 x3
  clear_value (g1 : x1 = _) (g2 : x2 = _) (g3 : x3 = _)
  clear g1
  clear g2
  clear g3
  all_goals repeat' first
    | with_reducible exact K.refl _ _ _
    | with_reducible assumption
    | ((with_reducible apply K.raise); rotate_left; (first | assumption | exact R.mem_WALL_EVENT | exact R.mem_WALL_STATUS); decide; decide; decide)
    | ((with_reducible apply Foot.beaconTake); rotate_left; decide; decide)
    | ((with_reducible apply Foot.newEpoch); rotate_left; decide; decide)
    | ((with_reducible apply Foot.yield); rotate_left; decide; decide)
    | ((with_reducible apply Foot.showWall); rotate_left; decide; decide)
    | ((with_reducible apply Foot.fence); rotate_left; decide; decide)
    | ((with_reducible apply Foot.fenceOthers); rotate_left; decide; decide)
    | ((with_reducible apply Foot.chooseUpstream); rotate_left; decide; decide)
    | with_reducible apply K.ite
    | ((with_reducible apply K.foldl); rotate_left; intro d x h; rotate_right)
    | ((with_reducible apply K.foldlFst); rotate_left; intro x y h; rotate_right)
    | ((with_reducible apply K.foldlSnd); rotate_left; intro x y h; rotate_right)
    | with_reducible apply K.fst_ite
    | with_reducible apply K.cond
    | with_reducible refine K.of_fst ?_ (by assumption)
    | with_reducible refine K.of_snd ?_ (by assumption)
    | (split)
    | dsimp only
    | (rw [Dev.mk_tag]; (with_reducible apply K.mk_log); rotate_left; decide)
    | (rw [Dev.mk_tag]; (with_reducible apply K.mk_wall); rotate_left; decide)
    | (rw [Dev.mk_tag]; (with_reducible apply K.mkT); rotate_left; (intro p hq; cases p <;> first | exact absurd hq (by decide) | rfl | exact ⟨rfl, rfl⟩ | exact fun _ => ⟨rfl, rfl⟩); exact fun w => w)

theorem Foot.upstreamTimeout {e d : Dev} {pm rm : Nat} (h : K e d pm rm) (hp : sub 0x40002 pm = true)
    (hr : sub 0x8000082800000000000000000000000000000000000000000000080000 rm = true) : K e (Dev.upstreamTimeout d) pm rm := by
  refine K.lift h hp hr ?_
  clear h hp hr
  unfold Dev.upstreamTimeout
  all_goals repeat' first
    | with_reducible exact K.refl _ _ _
    | with_reducible assumption
    | ((with_reducible apply K.setWp); rotate_left; decide)
    | ((with_reducible apply Foot.showWall); rotate_left; decide; decide)
    | ((with_reducible apply Foot.chooseUpstream); rotate_left; decide; decide)
    | ((with_reducible apply Foot.dropUpstream); rotate_left; decide; decide)
    | with_reducible apply K.ite
    | ((with_reducible apply K.foldl); rotate_left; intro d x h; rotate_right)
    | ((with_reducible apply K.foldlFst); rotate_left; intro x y h; rotate_right)
    | ((with_reducible apply K.foldlSnd); rotate_left; intro x y h; rotate_right)
    | with_reducible apply K.fst_ite
    | with_reducible apply K.cond
    | with_reducible refine K.of_fst ?_ (by assumption)
    | with_reducible refine K.of_snd ?_ (by assumption)
    | (split)
    | dsimp only
    | (rw [Dev.mk_tag]; (with_reducible apply K.mk_log); rotate_left; decide)
    | (rw [Dev.mk_tag]; (with_reducible apply K.mk_wall); rotate_left; decide)
    | (rw [Dev.mk_tag]; (with_reducible apply K.mkT); rotate_left; (intro p hq; cases p <;> first | exact absurd hq (by decide) | rfl | exact ⟨rfl, rfl⟩ | exact fun _ => ⟨rfl, rfl⟩); exact fun w => w)

theorem Foot.almanacLost {e d : Dev} {pm rm : Nat} (h : K e d pm rm) (hp : sub 0x40002 pm = true)
    (hr : sub 0x8000082800000000000000000000000000000000000000000000080000 rm = true) : K e (Dev.almanacLost d) pm rm := by
  refine K.lift h hp hr ?_
  clear h hp hr
  unfold Dev.almanacLost
  extract_lets x1 x2 x3
  clear_value (g1 : x1 = _) (g2 : x2 = _) (g3 : x3 = _)
  refine K.cutEq d 0x40002 0x8000082800000000000000000000000000000000000000000000080000 g1 ?_ (fun h1 => ?_)
  rotate_left
  clear g1
  refine K.cutEq d 0x40002 0x8000082800000000000000000000000000000000000000000000080000 g2 ?_ (fun h2 => ?_)
  rotate_left
  clear g2
  refine K.cutEq d 0x40002 0x8000082800000000000000000000000000000000000000000000080000 g3 ?_ (fun h3 => ?_)
  rotate_left
  clear g3
  all_goals repeat' first
    | with_reducible exact K.refl _ _ _
    | with_reducible assumption
    | ((with_reducible apply K.put); rotate_left; (first | assumption | exact R.mem_WALL_CTRL | exact R.mem_WALL_EVENT | exact R.mem_WALL_STATUS); decide)
    | ((with_reducible apply K.inc); rotate_left; (first | assumption | exact R.mem_WALL_CTRL | exact R.mem_WALL_EVENT | exact R.mem_WALL_STATUS); decide)
    | ((with_reducible apply K.raise); rotate_left; (first | assumption | exact R.mem_WALL_CTRL | exact R.mem_WALL_EVENT | exact R.mem_WALL_STATUS); decide; decide; decide)
    | ((with_reducible apply K.updWall); rotate_left; decide)
    | ((with_reducible apply K.setWp); rotate_left; decide)
    | ((with_reducible apply Foot.dropUpstream); rotate_left; decide; decide)
    | ((with_reducible apply Foot.setWallState); rotate_left; decide; decide)
    | ((with_reducible apply Foot.showWall); rotate_left; decide; decide)
    | with_reducible apply K.ite
    | ((with_reducible apply K.each); rotate_left; intro d x h; rotate_right)
    | ((with_reducible apply K.foldl); rotate_left; intro d x h; rotate_right)
    | ((with_reducible apply K.foldlFst); rotate_left; intro x y h; rotate_right)
    | ((with_reducible apply K.foldlSnd); rotate_left; intro x y h; rotate_right)
    | with_reducible apply K.fst_ite
    | with_reducible apply K.cond
    | with_reducible refine K.of_fst ?_ (by assumption)
    | with_reducible refine K.of_snd ?_ (by assumption)
    | (split)
    | dsimp only
    | (rw [Dev.mk_tag]; (with_reducible apply K.mk_log); rotate_left; decide)
    | (rw [Dev.mk_tag]; (with_reducible apply K.mk_wall); rotate_left; decide)
    | (rw [Dev.mk_tag]; (with_reducible apply K.mkT); rotate_left; (intro p hq; cases p <;> first | exact absurd hq (by decide) | rfl | exact ⟨rfl, rfl⟩ | exact fun _ => ⟨rfl, rfl⟩); exact fun w => w)

theorem Foot.joinAt {e d : Dev} {pm rm : Nat} {p : Nat} {id : Nat} {req : Nat} {cur : Nat} (h : K e d pm rm) (hp : sub 0x40002 pm = true)
    (hr : sub 0x8000020000000000000000000000000000000000000000000000080000 rm = true) : K e (Dev.joinAt d p id req cur) pm rm := by
  refine K.lift h hp hr ?_
  clear h hp hr
  unfold Dev.joinAt
  extract_lets x1
  clear_value (g1 : x1 = _)
  refine K.cutEq d 0x40002 0x8000020000000000000000000000000000000000000000000000080000 g1 ?_ (fun h1 => ?_)
  rotate_left
  clear g1
  all_goals repeat' first
    | with_reducible exact K.refl _ _ _
    | with_reducible assumption
    | ((with_reducible apply K.put); rotate_left; (first | assumption | exact R.mem_WALL_EVENT | exact R.mem_WALL_JOIN_INFO); decide)
    | ((with_reducible apply K.raise); rotate_left; (first | assumption | exact R.mem_WALL_EVENT | exact R.mem_WALL_JOIN_INFO); decide; decide; decide)
    | ((with_reducible apply K.updWall); rotate_left; decide)
    | ((with_reducible apply Foot.wallSend); rotate_left; decide; decide)
    | with_reducible apply K.ite
    | ((with_reducible apply K.foldl); rotate_left; intro d x h; rotate_right)
    | ((with_reducible apply K.foldlFst); rotate_left; intro x y h; rotate_right)
    | ((with_reducible apply K.foldlSnd); rotate_left; intro x y h; rotate_right)
    | with_reducible apply K.fst_ite
    | with_reducible apply K.cond
    | with_reducible refine K.of_fst ?_ (by assumption)
    | with_reducible refine K.of_snd ?_ (by assumption)
    | (split)
    | dsimp only
    | (rw [Dev.mk_tag]; (with_reducible apply K.mk_log); rotate_left; decide)
    | (rw [Dev.mk_tag]; (with_reducible apply K.mk_wall); rotate_left; decide)
    | (rw [Dev.mk_tag]; (with_reducible apply K.mkT); rotate_left; (intro p hq; cases p <;> first | exact absurd hq (by decide) | rfl | exact ⟨rfl, rfl⟩ | exact fun _ => ⟨rfl, rfl⟩); exact fun w => w)

theorem Foot.assignRx {e d : Dev} {pm rm : Nat} {p : Nat} {h0 : WallHdr} {id : Nat} {addr : Nat} {refused : Bool} (h : K e d pm rm) (hp : sub 0x40000 pm = true)
    (hr : sub 0x40400000000000000000000000000000000000000000000000000 rm = true) : K e (Dev.assignRx d p h0 id addr refused) pm rm := by
  refine K.lift h hp hr ?_
  clear h hp hr
  unfold Dev.assignRx
  extract_lets x1 x2 x3
  clear_value (g1 : x1 = _) (g2 : x2 = _) (g3 : x3 = _)
  subst g1
  clear g2
  refine K.cutEq d 0x40000 0x40400000000000000000000000000000000000000000000000000 g3 ?_ (fun h3 => ?_)
  rotate_left
  clear g3
  all_goals repeat' first
    | with_reducible exact K.refl _ _ _
    | with_reducible assumption
    | ((with_reducible apply K.put); rotate_left; (first | assumption | exact R.mem_WALL_ADDR | exact R.mem_WALL_DROP_COUNT); decide)
    | ((with_reducible apply K.inc); rotate_left; (first | assumption | exact R.mem_WALL_ADDR | exact R.mem_WALL_DROP_COUNT); decide)
    | ((with_reducible apply K.setWp); rotate_left; decide)
    | ((with_reducible apply Foot.wallSend); rotate_left; decide; decide)
    | with_reducible apply K.ite
    | ((with_reducible apply K.foldl); rotate_left; intro d x h; rotate_right)
    | ((with_reducible apply K.foldlFst); rotate_left; intro x y h; rotate_right)
    | ((with_reducible apply K.foldlSnd); rotate_left; intro x y h; rotate_right)
    | with_reducible apply K.fst_ite
    | with_reducible apply K.cond
    | with_reducible refine K.of_fst ?_ (by assumption)
    | with_reducible refine K.of_snd ?_ (by assumption)
    | (split)
    | dsimp only
    | (rw [Dev.mk_tag]; (with_reducible apply K.mk_wall); rotate_left; decide)
    | (rw [Dev.mk_tag]; (with_reducible apply K.mkT); rotate_left; (intro p hq; cases p <;> first | exact absurd hq (by decide) | rfl | exact ⟨rfl, rfl⟩ | exact fun _ => ⟨rfl, rfl⟩); exact fun w => w)

theorem Foot.showEqx {e d : Dev} {pm rm : Nat} (h : K e d pm rm) (hp : sub 0x0 pm = true)
    (hr : sub 0x4000000000000000000000000000000000000000000000000000000 rm = true) : K e (Dev.showEqx d) pm rm := by
  refine K.lift h hp hr ?_
  clear h hp hr
  unfold Dev.showEqx
  all_goals repeat' first
    | with_reducible exact K.refl _ _ _
    | with_reducible assumption
    | ((with_reducible apply K.put); rotate_left; (first | assumption | exact R.mem_EQX_STATUS); decide)
    | with_reducible apply K.ite
    | ((with_reducible apply K.foldl); rotate_left; intro d x h; rotate_right)
    | ((with_reducible apply K.foldlFst); rotate_left; intro x y h; rotate_right)
    | ((with_reducible apply K.foldlSnd); rotate_left; intro x y h; rotate_right)
    | with_reducible apply K.fst_ite
    | with_reducible apply K.cond
    | with_reducible refine K.of_fst ?_ (by assumption)
    | with_reducible refine K.of_snd ?_ (by assumption)
    | (split)
    | dsimp only
    | (rw [Dev.mk_tag]; (with_reducible apply K.mkT); rotate_left; (intro p hq; cases p <;> first | exact absurd hq (by decide) | rfl | exact ⟨rfl, rfl⟩ | exact fun _ => ⟨rfl, rfl⟩); exact fun w => w)

theorem Foot.eqxEnd {e d : Dev} {pm rm : Nat} {phase : Nat} (h : K e d pm rm) (hp : sub 0x40000 pm = true)
    (hr : sub 0x4400000000000000000000000000000000000000000000000000000 rm = true) : K e (Dev.eqxEnd d phase) pm rm := by
  refine K.lift h hp hr ?_
  clear h hp hr
  unfold Dev.eqxEnd
  extract_lets x1 x2
  clear_value (g1 : x1 = _) (g2 : x2 = _)
  clear g1
  refine K.cutEq d 0x40000 0x4400000000000000000000000000000000000000000000000000000 g2 ?_ (fun h2 => ?_)
  rotate_left
  clear g2
  all_goals repeat' first
    | with_reducible exact K.refl _ _ _
    | with_reducible assumption
    | ((with_reducible apply K.put); rotate_left; (first | assumption | exact R.mem_EQX_CMD | exact R.mem_EQX_STATUS); decide)
    | ((with_reducible apply K.updWall); rotate_left; decide)
    | with_reducible apply K.ite
    | ((with_reducible apply K.foldl); rotate_left; intro d x h; rotate_right)
    | ((with_reducible apply K.foldlFst); rotate_left; intro x y h; rotate_right)
    | ((with_reducible apply K.foldlSnd); rotate_left; intro x y h; rotate_right)
    | with_reducible apply K.fst_ite
    | with_reducible apply K.cond
    | with_reducible refine K.of_fst ?_ (by assumption)
    | with_reducible refine K.of_snd ?_ (by assumption)
    | (split)
    | dsimp only
    | (rw [Dev.mk_tag]; (with_reducible apply K.mk_wall); rotate_left; decide)
    | (rw [Dev.mk_tag]; (with_reducible apply K.mkT); rotate_left; (intro p hq; cases p <;> first | exact absurd hq (by decide) | rfl | exact ⟨rfl, rfl⟩ | exact fun _ => ⟨rfl, rfl⟩); exact fun w => w)

theorem Foot.eqxOutcome {e d : Dev} {pm rm : Nat} {set : Nat} {outcome : Nat} (h : K e d pm rm) (hp : sub 0x40000 pm = true)
    (hr : sub 0x10000000000000000000000000000000000000000000000000000000 rm = true) : K e (Dev.eqxOutcome d set outcome) pm rm := by
  refine K.lift h hp hr ?_
  clear h hp hr
  unfold Dev.eqxOutcome
  extract_lets x1
  clear_value (g1 : x1 = _)
  refine K.cutEq d 0x40000 0x10000000000000000000000000000000000000000000000000000000 g1 ?_ (fun h1 => ?_)
  rotate_left
  clear g1
  all_goals repeat' first
    | with_reducible exact K.refl _ _ _
    | with_reducible assumption
    | ((with_reducible apply K.put); rotate_left; (first | assumption | exact R.mem_EQX_RESULT); decide)
    | ((with_reducible apply K.updWall); rotate_left; decide)
    | ((with_reducible apply Foot.flushResults); rotate_left; decide; decide)
    | with_reducible apply K.ite
    | ((with_reducible apply K.foldl); rotate_left; intro d x h; rotate_right)
    | ((with_reducible apply K.foldlFst); rotate_left; intro x y h; rotate_right)
    | ((with_reducible apply K.foldlSnd); rotate_left; intro x y h; rotate_right)
    | with_reducible apply K.fst_ite
    | with_reducible apply K.cond
    | with_reducible refine K.of_fst ?_ (by assumption)
    | with_reducible refine K.of_snd ?_ (by assumption)
    | (split)
    | dsimp only
    | (rw [Dev.mk_tag]; (with_reducible apply K.mk_wall); rotate_left; decide)
    | (rw [Dev.mk_tag]; (with_reducible apply K.mkT); rotate_left; (intro p hq; cases p <;> first | exact absurd hq (by decide) | rfl | exact ⟨rfl, rfl⟩ | exact fun _ => ⟨rfl, rfl⟩); exact fun w => w)

theorem Foot.eqxTryGo {e d : Dev} {pm rm : Nat} (h : K e d pm rm) (hp : sub 0x40000 pm = true)
    (hr : sub 0x4000000000000000000000000000000000000000000000000000000 rm = true) : K e (Dev.eqxTryGo d) pm rm := by
  refine K.lift h hp hr ?_
  clear h hp hr
  unfold Dev.eqxTryGo
  all_goals repeat' first
    | with_reducible exact K.refl _ _ _
    | with_reducible assumption
    | ((with_reducible apply K.put); rotate_left; (first | assumption | exact R.mem_EQX_STATUS | exact R.mem_FRAME_COUNT); decide)
    | ((with_reducible apply K.updEqx); rotate_left; decide)
    | ((with_reducible apply Foot.wallDownAll); rotate_left; decide; decide)
    | with_reducible apply K.ite
    | ((with_reducible apply K.foldl); rotate_left; intro d x h; rotate_right)
    | ((with_reducible apply K.foldlFst); rotate_left; intro x y h; rotate_right)
    | ((with_reducible apply K.foldlSnd); rotate_left; intro x y h; rotate_right)
    | with_reducible apply K.fst_ite
    | with_reducible apply K.cond
    | with_reducible refine K.of_fst ?_ (by assumption)
    | with_reducible refine K.of_snd ?_ (by assumption)
    | (split)
    | dsimp only
    | (rw [Dev.mk_tag]; (with_reducible apply K.mk_wall); rotate_left; decide)
    | (rw [Dev.mk_tag]; (with_reducible apply K.mkT); rotate_left; (intro p hq; cases p <;> first | exact absurd hq (by decide) | rfl | exact ⟨rfl, rfl⟩ | exact fun _ => ⟨rfl, rfl⟩); exact fun w => w)

theorem Foot.eqxTryAck {e d : Dev} {pm rm : Nat} {deadline : Bool} (h : K e d pm rm) (hp : sub 0x40000 pm = true)
    (hr : sub 0x0 rm = true) : K e (Dev.eqxTryAck d deadline) pm rm := by
  refine K.lift h hp hr ?_
  clear h hp hr
  unfold Dev.eqxTryAck
  all_goals repeat' first
    | with_reducible exact K.refl _ _ _
    | with_reducible assumption
    | ((with_reducible apply K.updEqx); rotate_left; decide)
    | ((with_reducible apply Foot.wallUp); rotate_left; decide; decide)
    | with_reducible apply K.ite
    | ((with_reducible apply K.foldl); rotate_left; intro d x h; rotate_right)
    | ((with_reducible apply K.foldlFst); rotate_left; intro x y h; rotate_right)
    | ((with_reducible apply K.foldlSnd); rotate_left; intro x y h; rotate_right)
    | with_reducible apply K.fst_ite
    | with_reducible apply K.cond
    | with_reducible refine K.of_fst ?_ (by assumption)
    | with_reducible refine K.of_snd ?_ (by assumption)
    | (split)
    | dsimp only
    | (rw [Dev.mk_tag]; (with_reducible apply K.mk_wall); rotate_left; decide)
    | (rw [Dev.mk_tag]; (with_reducible apply K.mkT); rotate_left; (intro p hq; cases p <;> first | exact absurd hq (by decide) | rfl | exact ⟨rfl, rfl⟩ | exact fun _ => ⟨rfl, rfl⟩); exact fun w => w)

theorem Foot.eqxOwn {e d : Dev} {pm rm : Nat} {why : Option Nat} {fw : Option Byte} (h : K e d pm rm) (hp : sub 0x40000 pm = true)
    (hr : sub 0x14000000000000000000000000000000000000000000000000000000 rm = true) : K e (Dev.eqxOwn d why fw) pm rm := by
  refine K.lift h hp hr ?_
  clear h hp hr
  unfold Dev.eqxOwn
  all_goals repeat' first
    | with_reducible exact K.refl _ _ _
    | with_reducible assumption
    | ((with_reducible apply K.updEqx); rotate_left; decide)
    | ((with_reducible apply Foot.eqxOutcome); rotate_left; decide; decide)
    | ((with_reducible apply Foot.eqxTryAck); rotate_left; decide; decide)
    | ((with_reducible apply Foot.showEqx); rotate_left; decide; decide)
    | with_reducible apply K.ite
    | ((with_reducible apply K.foldl); rotate_left; intro d x h; rotate_right)
    | ((with_reducible apply K.foldlFst); rotate_left; intro x y h; rotate_right)
    | ((with_reducible apply K.foldlSnd); rotate_left; intro x y h; rotate_right)
    | with_reducible apply K.fst_ite
    | with_reducible apply K.cond
    | with_reducible refine K.of_fst ?_ (by assumption)
    | with_reducible refine K.of_snd ?_ (by assumption)
    | (split)
    | dsimp only
    | (rw [Dev.mk_tag]; (with_reducible apply K.mk_wall); rotate_left; decide)
    | (rw [Dev.mk_tag]; (with_reducible apply K.mkT); rotate_left; (intro p hq; cases p <;> first | exact absurd hq (by decide) | rfl | exact ⟨rfl, rfl⟩ | exact fun _ => ⟨rfl, rfl⟩); exact fun w => w)

theorem Foot.putPal7 {e d : Dev} {pm rm : Nat} {i : Nat} {w : Nat} (h : K e d pm rm) (hp : sub 0x0 pm = true)
    (hr : sub 0x40000000000000000 rm = true) : K e (Dev.putPal7 d i w) pm rm := by
  refine K.lift h hp hr ?_
  clear h hp hr
  unfold Dev.putPal7
  extract_lets x1 x2
  clear_value (g1 : x1 = _) (g2 : x2 = _)
  clear g1
  subst g2
  all_goals repeat' first
    | with_reducible exact K.refl _ _ _
    | with_reducible assumption
    | ((with_reducible apply K.putShadow); rotate_left; (first | assumption | exact R.mem_PAL_ENTRY); decide)
    | with_reducible apply K.ite
    | ((with_reducible apply K.foldl); rotate_left; intro d x h; rotate_right)
    | ((with_reducible apply K.foldlFst); rotate_left; intro x y h; rotate_right)
    | ((with_reducible apply K.foldlSnd); rotate_left; intro x y h; rotate_right)
    | with_reducible apply K.fst_ite
    | with_reducible apply K.cond
    | with_reducible refine K.of_fst ?_ (by assumption)
    | with_reducible refine K.of_snd ?_ (by assumption)
    | (split)
    | dsimp only
    | (rw [Dev.mk_tag]; (with_reducible apply K.mkT); rotate_left; (intro p hq; cases p <;> first | exact absurd hq (by decide) | rfl | exact ⟨rfl, rfl⟩ | exact fun _ => ⟨rfl, rfl⟩); exact fun w => w)

theorem Foot.stageNotice {e d : Dev} {pm rm : Nat} {b : Nat} {galpha : Nat} {premult : Nat} (h : K e d pm rm) (hp : sub 0x400 pm = true)
    (hr : sub 0x40798000000000000 rm = true) : K e (Dev.stageNotice d b galpha premult) pm rm := by
  refine K.lift h hp hr ?_
  clear h hp hr
  unfold Dev.stageNotice
  extract_lets x1 x2 x3 x4 x5
  clear_value (g1 : x1 = _) (g2 : x2 = _) (g3 : x3 = _) (g4 : x4 = _) (g5 : x5 = _)
  subst g1
  subst g2
  refine K.cutEq d 0x400 0x40798000000000000 g3 ?_ (fun h3 => ?_)
  rotate_left
  clear g3
  refine K.cutEq d 0x400 0x40798000000000000 g4 ?_ (fun h4 => ?_)
  rotate_left
  clear g4
  refine K.cutEq d 0x400 0x40798000000000000 g5 ?_ (fun h5 => ?_)
  rotate_left
  clear g5
  all_goals repeat' first
    | with_reducible exact K.refl _ _ _
    | with_reducible assumption
    | ((with_reducible apply K.putShadow); rotate_left; (first | assumption | exact R.mem_LAYER_BASE | exact R.mem_LAYER_CTRL | exact R.mem_LAYER_POS | exact R.mem_LAYER_SIZE | exact R.mem_LAYER_SRC_OFF | exact R.mem_LAYER_STRIDE | exact R.mem_WALL_POS_X | exact R.mem_WALL_POS_Y); decide)
    | ((with_reducible apply Foot.putPal7); rotate_left; decide; decide)
    | with_reducible apply K.ite
    | ((with_reducible apply K.each); rotate_left; intro d x h; rotate_right)
    | ((with_reducible apply K.foldl); rotate_left; intro d x h; rotate_right)
    | ((with_reducible apply K.foldlFst); rotate_left; intro x y h; rotate_right)
    | ((with_reducible apply K.foldlSnd); rotate_left; intro x y h; rotate_right)
    | with_reducible apply K.fst_ite
    | with_reducible apply K.cond
    | with_reducible refine K.of_fst ?_ (by assumption)
    | with_reducible refine K.of_snd ?_ (by assumption)
    | (split)
    | dsimp only
    | (rw [Dev.mk_tag]; (with_reducible apply K.mk_scan); rotate_left; decide)
    | (rw [Dev.mk_tag]; (with_reducible apply K.mkT); rotate_left; (intro p hq; cases p <;> first | exact absurd hq (by decide) | rfl | exact ⟨rfl, rfl⟩ | exact fun _ => ⟨rfl, rfl⟩); exact fun w => w)

theorem Foot.eqxStage {e d : Dev} {pm rm : Nat} {kind : Nat} {data : List Byte} (h : K e d pm rm) (hp : sub 0x40400 pm = true)
    (hr : sub 0x14000000000000000000000000000000000000040798000000000000 rm = true) : K e (Dev.eqxStage d kind data) pm rm := by
  refine K.lift h hp hr ?_
  clear h hp hr
  unfold Dev.eqxStage
  extract_lets x1 x2 x3
  clear_value (g1 : x1 = _) (g2 : x2 = _) (g3 : x3 = _)
  subst g1
  clear g2
  clear g3
  all_goals repeat' first
    | with_reducible exact K.refl _ _ _
    | with_reducible assumption
    | ((with_reducible apply K.putShadow); rotate_left; (first | assumption | exact R.mem_COMP_CTRL | exact R.mem_LAYER_CTRL | exact R.mem_NOTICE_STATUS); decide)
    | ((with_reducible apply Foot.eqxOwn); rotate_left; decide; decide)
    | ((with_reducible apply Foot.stageNotice); rotate_left; decide; decide)
    | with_reducible apply K.ite
    | ((with_reducible apply K.foldl); rotate_left; intro d x h; rotate_right)
    | ((with_reducible apply K.foldlFst); rotate_left; intro x y h; rotate_right)
    | ((with_reducible apply K.foldlSnd); rotate_left; intro x y h; rotate_right)
    | with_reducible apply K.fst_ite
    | with_reducible apply K.cond
    | with_reducible refine K.of_fst ?_ (by assumption)
    | with_reducible refine K.of_snd ?_ (by assumption)
    | (split)
    | dsimp only
    | (rw [Dev.mk_tag]; (with_reducible apply K.mk_scan); rotate_left; decide)
    | (rw [Dev.mk_tag]; (with_reducible apply K.mk_wall); rotate_left; decide)
    | (rw [Dev.mk_tag]; (with_reducible apply K.mkT); rotate_left; (intro p hq; cases p <;> first | exact absurd hq (by decide) | rfl | exact ⟨rfl, rfl⟩ | exact fun _ => ⟨rfl, rfl⟩); exact fun w => w)

theorem Foot.eqxPrepare {e d : Dev} {pm rm : Nat} {set : Nat} {f : Nat} {kind : Nat} {scope : Bool} {bitmap : Nat} {data : List Byte} (h : K e d pm rm) (hp : sub 0x8040422 pm = true)
    (hr : sub 0x801580000000281a800000000040000400000000040798000000080000 rm = true) : K e (Dev.eqxPrepare d set f kind scope bitmap data) pm rm := by
  refine K.lift h hp hr ?_
  clear h hp hr
  unfold Dev.eqxPrepare
  extract_lets x1 x2 x3 x4
  clear_value (g1 : x1 = _) (g2 : x2 = _) (g3 : x3 = _) (g4 : x4 = _)
  clear g1
  refine K.cutEq d 0x8040422 0x801580000000281a800000000040000400000000040798000000080000 g2 ?_ (fun h2 => ?_)
  rotate_left
  clear g2
  refine K.cutEq d 0x8040422 0x801580000000281a800000000040000400000000040798000000080000 g3 ?_ (fun h3 => ?_)
  rotate_left
  clear g3
  refine K.cutEq d 0x8040422 0x801580000000281a800000000040000400000000040798000000080000 g4 ?_ (fun h4 => ?_)
  rotate_left
  clear g4
  all_goals repeat' first
    | with_reducible exact K.refl _ _ _
    | with_reducible assumption
    | ((with_reducible apply K.put); rotate_left; (first | assumption | exact R.mem_CORR_EVENT | exact R.mem_DRIVE_EVENT | exact R.mem_EQX_BUF | exact R.mem_EQX_F | exact R.mem_EQX_LEN | exact R.mem_EQX_STATUS | exact R.mem_WALL_EVENT); decide)
    | ((with_reducible apply K.raise); rotate_left; (first | assumption | exact R.mem_CORR_EVENT | exact R.mem_DRIVE_EVENT | exact R.mem_EQX_BUF | exact R.mem_EQX_F | exact R.mem_EQX_LEN | exact R.mem_EQX_STATUS | exact R.mem_WALL_EVENT); decide; decide; decide)
    | ((with_reducible apply K.updWall); rotate_left; decide)
    | ((with_reducible apply Foot.showEqx); rotate_left; decide; decide)
    | ((with_reducible apply Foot.eqxTryAck); rotate_left; decide; decide)
    | ((with_reducible apply Foot.lsWrite); rotate_left; decide; decide)
    | ((with_reducible apply Foot.eqxStage); rotate_left; decide; decide)
    | with_reducible apply K.ite
    | ((with_reducible apply K.foldl); rotate_left; intro d x h; rotate_right)
    | ((with_reducible apply K.foldlFst); rotate_left; intro x y h; rotate_right)
    | ((with_reducible apply K.foldlSnd); rotate_left; intro x y h; rotate_right)
    | with_reducible apply K.fst_ite
    | with_reducible apply K.cond
    | with_reducible refine K.of_fst ?_ (by assumption)
    | with_reducible refine K.of_snd ?_ (by assumption)
    | (split)
    | dsimp only
    | (rw [Dev.mk_tag]; (with_reducible apply K.mk_log); rotate_left; decide)
    | (rw [Dev.mk_tag]; (with_reducible apply K.mk_ls); rotate_left; decide; (first | exact .inl rfl | exact .inl ⟨rfl, rfl⟩ | exact .inr ⟨by decide, by (intro w; first | exact w | exact Memory.wf_write _ _ w | exact Memory.wf_clear _ _ w | exact Memory.wf_filter _ w | exact Memory.wf_set _ _ w)⟩))
    | (rw [Dev.mk_tag]; (with_reducible apply K.mk_scan); rotate_left; decide)
    | (rw [Dev.mk_tag]; (with_reducible apply K.mk_wall); rotate_left; decide)
    | (rw [Dev.mk_tag]; (with_reducible apply K.mkT); rotate_left; (intro p hq; cases p <;> first | exact absurd hq (by decide) | rfl | exact ⟨rfl, rfl⟩ | exact fun _ => ⟨rfl, rfl⟩); exact fun w => w)

theorem Foot.eqxAckRx {e d : Dev} {pm rm : Nat} {p : Nat} {set : Nat} {count : Nat} {naks : Nat} {reason : Nat} (h : K e d pm rm) (hp : sub 0x40000 pm = true)
    (hr : sub 0x4000000000000000000000000000000000000000000000000000000 rm = true) : K e (Dev.eqxAckRx d p set count naks reason) pm rm := by
  refine K.lift h hp hr ?_
  clear h hp hr
  unfold Dev.eqxAckRx
  extract_lets x1
  clear_value (g1 : x1 = _)
  refine K.cutEq d 0x40000 0x4000000000000000000000000000000000000000000000000000000 g1 ?_ (fun h1 => ?_)
  rotate_left
  clear g1
  all_goals repeat' first
    | with_reducible exact K.refl _ _ _
    | with_reducible assumption
    | ((with_reducible apply K.updEqx); rotate_left; decide)
    | ((with_reducible apply Foot.showEqx); rotate_left; decide; decide)
    | ((with_reducible apply Foot.eqxTryGo); rotate_left; decide; decide)
    | ((with_reducible apply Foot.eqxTryAck); rotate_left; decide; decide)
    | with_reducible apply K.ite
    | ((with_reducible apply K.foldl); rotate_left; intro d x h; rotate_right)
    | ((with_reducible apply K.foldlFst); rotate_left; intro x y h; rotate_right)
    | ((with_reducible apply K.foldlSnd); rotate_left; intro x y h; rotate_right)
    | with_reducible apply K.fst_ite
    | with_reducible apply K.cond
    | with_reducible refine K.of_fst ?_ (by assumption)
    | with_reducible refine K.of_snd ?_ (by assumption)
    | (split)
    | dsimp only
    | (rw [Dev.mk_tag]; (with_reducible apply K.mk_wall); rotate_left; decide)
    | (rw [Dev.mk_tag]; (with_reducible apply K.mkT); rotate_left; (intro p hq; cases p <;> first | exact absurd hq (by decide) | rfl | exact ⟨rfl, rfl⟩ | exact fun _ => ⟨rfl, rfl⟩); exact fun w => w)

theorem Foot.eqxCommit {e d : Dev} {pm rm : Nat} (h : K e d pm rm) (hp : sub 0x40000 pm = true)
    (hr : sub 0xa000000 rm = true) : K e (Dev.eqxCommit d) pm rm := by
  refine K.lift h hp hr ?_
  clear h hp hr
  unfold Dev.eqxCommit
  all_goals repeat' first
    | with_reducible exact K.refl _ _ _
    | with_reducible assumption
    | ((with_reducible apply K.updEqx); rotate_left; decide)
    | ((with_reducible apply Foot.commit); rotate_left; decide; decide)
    | with_reducible apply K.ite
    | ((with_reducible apply K.foldl); rotate_left; intro d x h; rotate_right)
    | ((with_reducible apply K.foldlFst); rotate_left; intro x y h; rotate_right)
    | ((with_reducible apply K.foldlSnd); rotate_left; intro x y h; rotate_right)
    | with_reducible apply K.fst_ite
    | with_reducible apply K.cond
    | with_reducible refine K.of_fst ?_ (by assumption)
    | with_reducible refine K.of_snd ?_ (by assumption)
    | (split)
    | dsimp only
    | (rw [Dev.mk_tag]; (with_reducible apply K.mk_wall); rotate_left; decide)
    | (rw [Dev.mk_tag]; (with_reducible apply K.mkT); rotate_left; (intro p hq; cases p <;> first | exact absurd hq (by decide) | rfl | exact ⟨rfl, rfl⟩ | exact fun _ => ⟨rfl, rfl⟩); exact fun w => w)

theorem Foot.eqxDropLate {e d : Dev} {pm rm : Nat} {e0 : EqxSet} (h : K e d pm rm) (hp : sub 0x40402 pm = true)
    (hr : sub 0xfffffffffffffffffffffffffffffffffffffffffffffffffffffffffffffffffffffffffffffffffffffffff rm = true) : K e (Dev.eqxDropLate d e0) pm rm := by
  refine K.lift h hp hr ?_
  clear h hp hr
  unfold Dev.eqxDropLate
  all_goals repeat' first
    | with_reducible exact K.refl _ _ _
    | with_reducible assumption
    | ((with_reducible apply K.raise); rotate_left; (first | assumption | exact R.mem_WALL_EVENT); decide; decide; decide)
    | ((with_reducible apply K.raiseAny); rotate_left; decide; decide; decide)
    | ((with_reducible apply K.discardShadows); rotate_left; decide; decide)
    | ((with_reducible apply Foot.eqxOutcome); rotate_left; decide; decide)
    | ((with_reducible apply Foot.eqxEnd); rotate_left; decide; decide)
    | with_reducible apply K.ite
    | ((with_reducible apply K.foldl); rotate_left; intro d x h; rotate_right)
    | ((with_reducible apply K.foldlFst); rotate_left; intro x y h; rotate_right)
    | ((with_reducible apply K.foldlSnd); rotate_left; intro x y h; rotate_right)
    | with_reducible apply K.fst_ite
    | with_reducible apply K.cond
    | with_reducible refine K.of_fst ?_ (by assumption)
    | with_reducible refine K.of_snd ?_ (by assumption)
    | (split)
    | dsimp only
    | (rw [Dev.mk_tag]; (with_reducible apply K.mk_log); rotate_left; decide)
    | (rw [Dev.mk_tag]; (with_reducible apply K.mk_scan); rotate_left; decide)
    | (rw [Dev.mk_tag]; (with_reducible apply K.mk_wall); rotate_left; decide)
    | (rw [Dev.mk_tag]; (with_reducible apply K.mkShadow); rotate_left; decide)
    | (rw [Dev.mk_tag]; (with_reducible apply K.mkActive); rotate_left; decide)
    | (rw [Dev.mk_tag]; (with_reducible apply K.mkT); rotate_left; (intro p hq; cases p <;> first | exact absurd hq (by decide) | rfl | exact ⟨rfl, rfl⟩ | exact fun _ => ⟨rfl, rfl⟩); exact fun w => w)

theorem Foot.eqxGoRx {e d : Dev} {pm rm : Nat} {set : Nat} {f : Nat} (h : K e d pm rm) (hp : sub 0x40402 pm = true)
    (hr : sub 0xfffffffffffffffffffffffffffffffffffffffffffffffffffffffffffffffffffffffffffffffffffffffff rm = true) : K e (Dev.eqxGoRx d set f) pm rm := by
  refine K.lift h hp hr ?_
  clear h hp hr
  unfold Dev.eqxGoRx
  all_goals repeat' first
    | with_reducible exact K.refl _ _ _
    | with_reducible assumption
    | ((with_reducible apply K.put); rotate_left; (first | assumption | exact R.mem_EQX_STATUS | exact R.mem_FRAME_COUNT); decide)
    | ((with_reducible apply K.updEqx); rotate_left; decide)
    | ((with_reducible apply K.putAny); rotate_left; decide)
    | ((with_reducible apply Foot.eqxDropLate); rotate_left; decide; decide)
    | ((with_reducible apply Foot.eqxCommit); rotate_left; decide; decide)
    | with_reducible apply K.ite
    | ((with_reducible apply K.foldl); rotate_left; intro d x h; rotate_right)
    | ((with_reducible apply K.foldlFst); rotate_left; intro x y h; rotate_right)
    | ((with_reducible apply K.foldlSnd); rotate_left; intro x y h; rotate_right)
    | with_reducible apply K.fst_ite
    | with_reducible apply K.cond
    | with_reducible refine K.of_fst ?_ (by assumption)
    | with_reducible refine K.of_snd ?_ (by assumption)
    | (split)
    | dsimp only
    | (rw [Dev.mk_tag]; (with_reducible apply K.mk_log); rotate_left; decide)
    | (rw [Dev.mk_tag]; (with_reducible apply K.mk_scan); rotate_left; decide)
    | (rw [Dev.mk_tag]; (with_reducible apply K.mk_wall); rotate_left; decide)
    | (rw [Dev.mk_tag]; (with_reducible apply K.mkShadow); rotate_left; decide)
    | (rw [Dev.mk_tag]; (with_reducible apply K.mkActive); rotate_left; decide)
    | (rw [Dev.mk_tag]; (with_reducible apply K.mkT); rotate_left; (intro p hq; cases p <;> first | exact absurd hq (by decide) | rfl | exact ⟨rfl, rfl⟩ | exact fun _ => ⟨rfl, rfl⟩); exact fun w => w)

theorem Foot.eqxAbortRx {e d : Dev} {pm rm : Nat} {set : Nat} (h : K e d pm rm) (hp : sub 0x40402 pm = true)
    (hr : sub 0xfffffffffffffffffffffffffffffffffffffffffffffffffffffffffffffffffffffffffffffffffffffffff rm = true) : K e (Dev.eqxAbortRx d set) pm rm := by
  refine K.lift h hp hr ?_
  clear h hp hr
  unfold Dev.eqxAbortRx
  all_goals repeat' first
    | with_reducible exact K.refl _ _ _
    | with_reducible assumption
    | ((with_reducible apply K.raise); rotate_left; (first | assumption | exact R.mem_WALL_EVENT); decide; decide; decide)
    | ((with_reducible apply K.raiseAny); rotate_left; decide; decide; decide)
    | ((with_reducible apply K.discardShadows); rotate_left; decide; decide)
    | ((with_reducible apply Foot.eqxOutcome); rotate_left; decide; decide)
    | ((with_reducible apply Foot.eqxEnd); rotate_left; decide; decide)
    | with_reducible apply K.ite
    | ((with_reducible apply K.foldl); rotate_left; intro d x h; rotate_right)
    | ((with_reducible apply K.foldlFst); rotate_left; intro x y h; rotate_right)
    | ((with_reducible apply K.foldlSnd); rotate_left; intro x y h; rotate_right)
    | with_reducible apply K.fst_ite
    | with_reducible apply K.cond
    | with_reducible refine K.of_fst ?_ (by assumption)
    | with_reducible refine K.of_snd ?_ (by assumption)
    | (split)
    | dsimp only
    | (rw [Dev.mk_tag]; (with_reducible apply K.mk_log); rotate_left; decide)
    | (rw [Dev.mk_tag]; (with_reducible apply K.mk_scan); rotate_left; decide)
    | (rw [Dev.mk_tag]; (with_reducible apply K.mk_wall); rotate_left; decide)
    | (rw [Dev.mk_tag]; (with_reducible apply K.mkShadow); rotate_left; decide)
    | (rw [Dev.mk_tag]; (with_reducible apply K.mkActive); rotate_left; decide)
    | (rw [Dev.mk_tag]; (with_reducible apply K.mkT); rotate_left; (intro p hq; cases p <;> first | exact absurd hq (by decide) | rfl | exact ⟨rfl, rfl⟩ | exact fun _ => ⟨rfl, rfl⟩); exact fun w => w)

theorem Foot.eqxLate {e d : Dev} {pm rm : Nat} {n : Nat} (h : K e d pm rm) (hp : sub 0x40402 pm = true)
    (hr : sub 0xfffffffffffffffffffffffffffffffffffffffffffffffffffffffffffffffffffffffffffffffffffffffff rm = true) : K e (Dev.eqxLate d n) pm rm := by
  refine K.lift h hp hr ?_
  clear h hp hr
  unfold Dev.eqxLate
  all_goals repeat' first
    | with_reducible exact K.refl _ _ _
    | with_reducible assumption
    | ((with_reducible apply K.updEqx); rotate_left; decide)
    | ((with_reducible apply Foot.eqxEnd); rotate_left; decide; decide)
    | ((with_reducible apply Foot.commit); rotate_left; decide; decide)
    | ((with_reducible apply Foot.eqxDropLate); rotate_left; decide; decide)
    | with_reducible apply K.ite
    | ((with_reducible apply K.foldl); rotate_left; intro d x h; rotate_right)
    | ((with_reducible apply K.foldlFst); rotate_left; intro x y h; rotate_right)
    | ((with_reducible apply K.foldlSnd); rotate_left; intro x y h; rotate_right)
    | with_reducible apply K.fst_ite
    | with_reducible apply K.cond
    | with_reducible refine K.of_fst ?_ (by assumption)
    | with_reducible refine K.of_snd ?_ (by assumption)
    | (split)
    | dsimp only
    | (rw [Dev.mk_tag]; (with_reducible apply K.mk_log); rotate_left; decide)
    | (rw [Dev.mk_tag]; (with_reducible apply K.mk_scan); rotate_left; decide)
    | (rw [Dev.mk_tag]; (with_reducible apply K.mk_wall); rotate_left; decide)
    | (rw [Dev.mk_tag]; (with_reducible apply K.mkShadow); rotate_left; decide)
    | (rw [Dev.mk_tag]; (with_reducible apply K.mkActive); rotate_left; decide)
    | (rw [Dev.mk_tag]; (with_reducible apply K.mkT); rotate_left; (intro p hq; cases p <;> first | exact absurd hq (by decide) | rfl | exact ⟨rfl, rfl⟩ | exact fun _ => ⟨rfl, rfl⟩); exact fun w => w)

theorem Foot.eqxApplied {e d : Dev} {pm rm : Nat} {n : Nat} {applied : Bool} (h : K e d pm rm) (hp : sub 0x40002 pm = true)
    (hr : sub 0x9014400000000000000000000000000000000000000000000000080000 rm = true) : K e (Dev.eqxApplied d n applied) pm rm := by
  refine K.lift h hp hr ?_
  clear h hp hr
  unfold Dev.eqxApplied
  all_goals repeat' first
    | with_reducible exact K.refl _ _ _
    | with_reducible assumption
    | ((with_reducible apply K.put); rotate_left; (first | assumption | exact R.mem_NOTICE_STATUS | exact R.mem_WALL_EVENT); decide)
    | ((with_reducible apply K.raise); rotate_left; (first | assumption | exact R.mem_NOTICE_STATUS | exact R.mem_WALL_EVENT); decide; decide; decide)
    | ((with_reducible apply Foot.eqxOutcome); rotate_left; decide; decide)
    | ((with_reducible apply Foot.eqxEnd); rotate_left; decide; decide)
    | with_reducible apply K.ite
    | ((with_reducible apply K.foldl); rotate_left; intro d x h; rotate_right)
    | ((with_reducible apply K.foldlFst); rotate_left; intro x y h; rotate_right)
    | ((with_reducible apply K.foldlSnd); rotate_left; intro x y h; rotate_right)
    | with_reducible apply K.fst_ite
    | with_reducible apply K.cond
    | with_reducible refine K.of_fst ?_ (by assumption)
    | with_reducible refine K.of_snd ?_ (by assumption)
    | (split)
    | dsimp only
    | (rw [Dev.mk_tag]; (with_reducible apply K.mk_log); rotate_left; decide)
    | (rw [Dev.mk_tag]; (with_reducible apply K.mk_wall); rotate_left; decide)
    | (rw [Dev.mk_tag]; (with_reducible apply K.mkT); rotate_left; (intro p hq; cases p <;> first | exact absurd hq (by decide) | rfl | exact ⟨rfl, rfl⟩ | exact fun _ => ⟨rfl, rfl⟩); exact fun w => w)

theorem Foot.eqxStart {e d : Dev} {pm rm : Nat} {scope : Bool} {kind : Nat} {set : Nat} (h : K e d pm rm) (hp : sub 0x40022 pm = true)
    (hr : sub 0x800440000000281a800000000000000000000000000000000000080000 rm = true) : K e (Dev.eqxStart d scope kind set) pm rm := by
  refine K.lift h hp hr ?_
  clear h hp hr
  unfold Dev.eqxStart
  extract_lets x1 x2 x3 x4 x5 x6 x7
  clear_value (g1 : x1 = _) (g2 : x2 = _) (g3 : x3 = _) (g4 : x4 = _) (g5 : x5 = _) (g6 : x6 = _) (g7 : x7 = _)
  refine K.cutEq d 0x40022 0x800440000000281a800000000000000000000000000000000000080000 g1 ?_ (fun h1 => ?_)
  rotate_left
  clear g1
  clear g2
  clear g3
  clear g4
  clear g5
  clear g6
  clear g7
  all_goals repeat' first
    | with_reducible exact K.refl _ _ _
    | with_reducible assumption
    | ((with_reducible apply K.put); rotate_left; (first | assumption | exact R.mem_EQX_BUF | exact R.mem_EQX_CMD | exact R.mem_EQX_F | exact R.mem_EQX_LEN | exact R.mem_EQX_STATUS | exact R.mem_FRAME_COUNT | exact R.mem_WALL_EVENT | exact R.mem_WALL_LAG); decide)
    | ((with_reducible apply K.raise); rotate_left; (first | assumption | exact R.mem_EQX_BUF | exact R.mem_EQX_CMD | exact R.mem_EQX_F | exact R.mem_EQX_LEN | exact R.mem_EQX_STATUS | exact R.mem_FRAME_COUNT | exact R.mem_WALL_EVENT | exact R.mem_WALL_LAG); decide; decide; decide)
    | ((with_reducible apply K.updWall); rotate_left; decide)
    | ((with_reducible apply Foot.lsRead); rotate_left; decide; decide)
    | ((with_reducible apply Foot.showEqx); rotate_left; decide; decide)
    | ((with_reducible apply Foot.eqxTryGo); rotate_left; decide; decide)
    | ((with_reducible apply Foot.wallDownAll); rotate_left; decide; decide)
    | with_reducible apply K.ite
    | ((with_reducible apply K.foldl); rotate_left; intro d x h; rotate_right)
    | ((with_reducible apply K.foldlFst); rotate_left; intro x y h; rotate_right)
    | ((with_reducible apply K.foldlSnd); rotate_left; intro x y h; rotate_right)
    | with_reducible apply K.fst_ite
    | with_reducible apply K.cond
    | with_reducible refine K.of_fst ?_ (by assumption)
    | with_reducible refine K.of_snd ?_ (by assumption)
    | (split)
    | dsimp only
    | (rw [Dev.mk_tag]; (with_reducible apply K.mk_log); rotate_left; decide)
    | (rw [Dev.mk_tag]; (with_reducible apply K.mk_ls); rotate_left; decide; (first | exact .inl rfl | exact .inl ⟨rfl, rfl⟩ | exact .inr ⟨by decide, by (intro w; first | exact w | exact Memory.wf_write _ _ w | exact Memory.wf_clear _ _ w | exact Memory.wf_filter _ w | exact Memory.wf_set _ _ w)⟩))
    | (rw [Dev.mk_tag]; (with_reducible apply K.mk_wall); rotate_left; decide)
    | (rw [Dev.mk_tag]; (with_reducible apply K.mkT); rotate_left; (intro p hq; cases p <;> first | exact absurd hq (by decide) | rfl | exact ⟨rfl, rfl⟩ | exact fun _ => ⟨rfl, rfl⟩); exact fun w => w)

theorem Foot.eqxAbortDeadline {e d : Dev} {pm rm : Nat} (h : K e d pm rm) (hp : sub 0x40002 pm = true)
    (hr : sub 0x8004400000000000000000000000000000000000000000000000080000 rm = true) : K e (Dev.eqxAbortDeadline d) pm rm := by
  refine K.lift h hp hr ?_
  clear h hp hr
  unfold Dev.eqxAbortDeadline
  all_goals repeat' first
    | with_reducible exact K.refl _ _ _
    | with_reducible assumption
    | ((with_reducible apply K.raise); rotate_left; (first | assumption | exact R.mem_WALL_EVENT); decide; decide; decide)
    | ((with_reducible apply Foot.eqxEnd); rotate_left; decide; decide)
    | ((with_reducible apply Foot.wallDownAll); rotate_left; decide; decide)
    | with_reducible apply K.ite
    | ((with_reducible apply K.foldl); rotate_left; intro d x h; rotate_right)
    | ((with_reducible apply K.foldlFst); rotate_left; intro x y h; rotate_right)
    | ((with_reducible apply K.foldlSnd); rotate_left; intro x y h; rotate_right)
    | with_reducible apply K.fst_ite
    | with_reducible apply K.cond
    | with_reducible refine K.of_fst ?_ (by assumption)
    | with_reducible refine K.of_snd ?_ (by assumption)
    | (split)
    | dsimp only
    | (rw [Dev.mk_tag]; (with_reducible apply K.mk_log); rotate_left; decide)
    | (rw [Dev.mk_tag]; (with_reducible apply K.mk_wall); rotate_left; decide)
    | (rw [Dev.mk_tag]; (with_reducible apply K.mkT); rotate_left; (intro p hq; cases p <;> first | exact absurd hq (by decide) | rfl | exact ⟨rfl, rfl⟩ | exact fun _ => ⟨rfl, rfl⟩); exact fun w => w)

theorem Foot.takeStretch {e d : Dev} {pm rm : Nat} (h : K e d pm rm) (hp : sub 0x40000 pm = true)
    (hr : sub 0x0 rm = true) : K e (Dev.takeStretch d) pm rm := by
  refine K.lift h hp hr ?_
  clear h hp hr
  unfold Dev.takeStretch
  extract_lets x1
  clear_value (g1 : x1 = _)
  clear g1
  all_goals repeat' first
    | with_reducible exact K.refl _ _ _
    | with_reducible assumption
    | ((with_reducible apply K.updWall); rotate_left; decide)
    | with_reducible apply K.ite
    | ((with_reducible apply K.foldl); rotate_left; intro d x h; rotate_right)
    | ((with_reducible apply K.foldlFst); rotate_left; intro x y h; rotate_right)
    | ((with_reducible apply K.foldlSnd); rotate_left; intro x y h; rotate_right)
    | with_reducible apply K.fst_ite
    | with_reducible apply K.cond
    | with_reducible refine K.of_fst ?_ (by assumption)
    | with_reducible refine K.of_snd ?_ (by assumption)
    | (split)
    | dsimp only
    | (rw [Dev.mk_tag]; (with_reducible apply K.mk_wall); rotate_left; decide)
    | (rw [Dev.mk_tag]; (with_reducible apply K.mkT); rotate_left; (intro p hq; cases p <;> first | exact absurd hq (by decide) | rfl | exact ⟨rfl, rfl⟩ | exact fun _ => ⟨rfl, rfl⟩); exact fun w => w)

theorem Foot.wallLatch {e d : Dev} {pm rm : Nat} (h : K e d pm rm) (hp : sub 0x40002 pm = true)
    (hr : sub 0x8000000000000000000000000000000000000000000000000004080000 rm = true) : K e (Dev.wallLatch d) pm rm := by
  refine K.lift h hp hr ?_
  clear h hp hr
  unfold Dev.wallLatch
  all_goals repeat' first
    | with_reducible exact K.refl _ _ _
    | with_reducible assumption
    | ((with_reducible apply K.put); rotate_left; (first | assumption | exact R.mem_FRAME_COUNT | exact R.mem_WALL_EVENT); decide)
    | ((with_reducible apply K.raise); rotate_left; (first | assumption | exact R.mem_FRAME_COUNT | exact R.mem_WALL_EVENT); decide; decide; decide)
    | ((with_reducible apply K.updWall); rotate_left; decide)
    | ((with_reducible apply Foot.takeStretch); rotate_left; decide; decide)
    | with_reducible apply K.ite
    | ((with_reducible apply K.foldl); rotate_left; intro d x h; rotate_right)
    | ((with_reducible apply K.foldlFst); rotate_left; intro x y h; rotate_right)
    | ((with_reducible apply K.foldlSnd); rotate_left; intro x y h; rotate_right)
    | with_reducible apply K.fst_ite
    | with_reducible apply K.cond
    | with_reducible refine K.of_fst ?_ (by assumption)
    | with_reducible refine K.of_snd ?_ (by assumption)
    | (split)
    | dsimp only
    | (rw [Dev.mk_tag]; (with_reducible apply K.mk_log); rotate_left; decide)
    | (rw [Dev.mk_tag]; (with_reducible apply K.mk_wall); rotate_left; decide)
    | (rw [Dev.mk_tag]; (with_reducible apply K.mkT); rotate_left; (intro p hq; cases p <;> first | exact absurd hq (by decide) | rfl | exact ⟨rfl, rfl⟩ | exact fun _ => ⟨rfl, rfl⟩); exact fun w => w)

end Sys2Proof.Machine
end

