-- ==== Sys2Proof/Laws/FootCp.lean ====
section
/-! SUPPORT.  Footprints of the functions of `Machine/Cp.lean` (see `Keep.lean`): what each leaves alone. -/

set_option Elab.async false
set_option linter.all false

namespace Sys2Proof.Machine

theorem Foot.startFw {e d : Dev} {pm rm : Nat} (h : K e d pm rm) (hp : sub 0x10 pm = true)
    (hr : sub 0x0 rm = true) : K e (Dev.startFw d) pm rm := by
  refine K.lift h hp hr ?_
  clear h hp hr
  unfold Dev.startFw
  all_goals repeat' first
    | with_reducible exact K.refl _ _ _
    | with_reducible assumption
    | ((with_reducible apply K.setCp); rotate_left; decide; exact fun _ => rfl)
    | ((with_reducible apply K.setCpMem); rotate_left; decide; decide; (intro c w; first | exact w | exact Memory.wf_write _ _ w | exact Memory.wf_set _ _ w))
    | with_reducible apply K.ite
    | ((with_reducible apply K.foldl); rotate_left; intro d x h; rotate_right)
    | ((with_reducible apply K.foldlFst); rotate_left; intro x y h; rotate_right)
    | ((with_reducible apply K.foldlSnd); rotate_left; intro x y h; rotate_right)
    | with_reducible apply K.fst_ite
    | with_reducible apply K.cond
    | with_reducible refine K.of_fst ?_ (by assumption)
    | with_reducible refine K.of_snd ?_ (by assumption)
    | (split)
    | dsimp only
    | (rw [Dev.mk_tag]; (with_reducible apply K.mk_cp); rotate_left; decide; (first | exact .inl rfl | exact .inl ⟨rfl, rfl⟩ | exact .inr ⟨by decide, by (intro w; first | exact w | exact Memory.wf_write _ _ w | exact Memory.wf_clear _ _ w | exact Memory.wf_filter _ w | exact Memory.wf_set _ _ w)⟩))
    | (rw [Dev.mk_tag]; (with_reducible apply K.mkT); rotate_left; (intro p hq; cases p <;> first | exact absurd hq (by decide) | rfl | exact ⟨rfl, rfl⟩ | exact fun _ => ⟨rfl, rfl⟩); exact fun w => w)

theorem Foot.cpReset_setPwrq {e d : Dev} {pm rm : Nat} {f : PwrState → PwrState} (h : K e d pm rm) (hp : sub 0x8 pm = true)
    (hr : sub 0x0 rm = true) : K e (Dev.cpReset.setPwr' d f) pm rm := by
  refine K.lift h hp hr ?_
  clear h hp hr
  unfold Dev.cpReset.setPwr'
  all_goals repeat' first
    | with_reducible exact K.refl _ _ _
    | with_reducible assumption
    | with_reducible apply K.ite
    | ((with_reducible apply K.foldl); rotate_left; intro d x h; rotate_right)
    | ((with_reducible apply K.foldlFst); rotate_left; intro x y h; rotate_right)
    | ((with_reducible apply K.foldlSnd); rotate_left; intro x y h; rotate_right)
    | with_reducible apply K.fst_ite
    | with_reducible apply K.cond
    | with_reducible refine K.of_fst ?_ (by assumption)
    | with_reducible refine K.of_snd ?_ (by assumption)
    | (split)
    | dsimp only
    | (rw [Dev.mk_tag]; (with_reducible apply K.mk_pwr); rotate_left; decide)
    | (rw [Dev.mk_tag]; (with_reducible apply K.mkT); rotate_left; (intro p hq; cases p <;> first | exact absurd hq (by decide) | rfl | exact ⟨rfl, rfl⟩ | exact fun _ => ⟨rfl, rfl⟩); exact fun w => w)

theorem Foot.cpReset {e d : Dev} {pm rm : Nat} {cause : Nat} (h : K e d pm rm) (hp : sub 0x9e0018 pm = true)
    (hr : sub 0x20000000000000000000000000000014000000000000000000000000000000000000000000000000000004 rm = true) : K e (Dev.cpReset d cause) pm rm := by
  refine K.lift h hp hr ?_
  clear h hp hr
  unfold Dev.cpReset
  extract_lets x1 x2 x3 x4 x5 x6 x7 x8
  clear_value (g1 : x1 = _) (g2 : x2 = _) (g3 : x3 = _) (g4 : x4 = _) (g5 : x5 = _) (g6 : x6 = _) (g7 : x7 = _) (g8 : x8 = _)
  refine K.cutEq d 0x9e0018 0x20000000000000000000000000000014000000000000000000000000000000000000000000000000000004 g1 ?_ (fun h1 => ?_)
  rotate_left
  clear g1
  refine K.cutEq d 0x9e0018 0x20000000000000000000000000000014000000000000000000000000000000000000000000000000000004 g2 ?_ (fun h2 => ?_)
  rotate_left
  clear g2
  subst g3
  refine K.cutEq d 0x9e0018 0x20000000000000000000000000000014000000000000000000000000000000000000000000000000000004 g4 ?_ (fun h4 => ?_)
  rotate_left
  clear g4
  refine K.cutEq d 0x9e0018 0x20000000000000000000000000000014000000000000000000000000000000000000000000000000000004 g5 ?_ (fun h5 => ?_)
  rotate_left
  clear g5
  subst g6
  refine K.cutEq d 0x9e0018 0x20000000000000000000000000000014000000000000000000000000000000000000000000000000000004 g7 ?_ (fun h7 => ?_)
  rotate_left
  clear g7
  refine K.cutEq d 0x9e0018 0x20000000000000000000000000000014000000000000000000000000000000000000000000000000000004 g8 ?_ (fun h8 => ?_)
  rotate_left
  clear g8
  all_goals repeat' first
    | with_reducible exact K.refl _ _ _
    | with_reducible assumption
    | ((with_reducible apply K.put); rotate_left; (first | assumption | exact R.mem_CP_STATUS); decide)
    | ((with_reducible apply K.inc); rotate_left; (first | assumption | exact R.mem_CP_STATUS); decide)
    | ((with_reducible apply K.setCp); rotate_left; decide; exact fun _ => rfl)
    | ((with_reducible apply K.setCpMem); rotate_left; decide; decide; (intro c w; first | exact w | exact Memory.wf_write _ _ w | exact Memory.wf_set _ _ w))
    | ((with_reducible apply Foot.cpReset_setPwrq); rotate_left; decide; decide)
    | ((with_reducible apply Foot.mbAnswer); rotate_left; decide; decide)
    | ((with_reducible apply Foot.eqxOwn); rotate_left; decide; decide)
    | with_reducible apply K.ite
    | ((with_reducible apply K.each); rotate_left; intro d x h; rotate_right)
    | ((with_reducible apply K.foldl); rotate_left; intro d x h; rotate_right)
    | ((with_reducible apply K.foldlFst); rotate_left; intro x y h; rotate_right)
    | ((with_reducible apply K.foldlSnd); rotate_left; intro x y h; rotate_right)
    | with_reducible apply K.fst_ite
    | with_reducible apply K.cond
    | with_reducible refine K.of_fst ?_ (by assumption)
    | with_reducible refine K.of_snd ?_ (by assumption)
    | (split)
    | dsimp only
    | (rw [Dev.mk_tag]; (with_reducible apply K.mk_pwr); rotate_left; decide)
    | (rw [Dev.mk_tag]; (with_reducible apply K.mk_cp); rotate_left; decide; (first | exact .inl rfl | exact .inl ⟨rfl, rfl⟩ | exact .inr ⟨by decide, by (intro w; first | exact w | exact Memory.wf_write _ _ w | exact Memory.wf_clear _ _ w | exact Memory.wf_filter _ w | exact Memory.wf_set _ _ w)⟩))
    | (rw [Dev.mk_tag]; (with_reducible apply K.mk_rx); rotate_left; decide; (first | exact .inl rfl | exact .inl ⟨rfl, rfl⟩ | exact .inr ⟨by decide, by (intro w; first | exact w | exact Memory.wf_write _ _ w | exact Memory.wf_clear _ _ w | exact Memory.wf_filter _ w | exact Memory.wf_set _ _ w)⟩))
    | (rw [Dev.mk_tag]; (with_reducible apply K.mk_wall); rotate_left; decide)
    | (rw [Dev.mk_tag]; (with_reducible apply K.mk_mbox); rotate_left; decide; (intro w; first | exact w | exact Memory.wf_write _ _ w | exact Memory.wf_clear _ _ w | exact Memory.wf_filter _ w | exact Memory.wf_set _ _ w))
    | (rw [Dev.mk_tag]; (with_reducible apply K.mk_mgmt); rotate_left; decide)
    | (rw [Dev.mk_tag]; (with_reducible apply K.mk_tap); rotate_left; decide)
    | (rw [Dev.mk_tag]; (with_reducible apply K.mkT); rotate_left; (intro p hq; cases p <;> first | exact absurd hq (by decide) | rfl | exact ⟨rfl, rfl⟩ | exact fun _ => ⟨rfl, rfl⟩); exact fun w => w)

theorem Foot.cpHold {e d : Dev} {pm rm : Nat} (h : K e d pm rm) (hp : sub 0x100000 pm = true)
    (hr : sub 0x20000000000000000000000000000000000000000000000000000000000000000000000000000000000004 rm = true) : K e (Dev.cpHold d) pm rm := by
  refine K.lift h hp hr ?_
  clear h hp hr
  unfold Dev.cpHold
  all_goals repeat' first
    | with_reducible exact K.refl _ _ _
    | with_reducible assumption
    | ((with_reducible apply K.put); rotate_left; (first | assumption | exact R.mem_CP_STATUS); decide)
    | ((with_reducible apply Foot.hostEvent); rotate_left; decide; decide)
    | with_reducible apply K.ite
    | ((with_reducible apply K.foldl); rotate_left; intro d x h; rotate_right)
    | ((with_reducible apply K.foldlFst); rotate_left; intro x y h; rotate_right)
    | ((with_reducible apply K.foldlSnd); rotate_left; intro x y h; rotate_right)
    | with_reducible apply K.fst_ite
    | with_reducible apply K.cond
    | with_reducible refine K.of_fst ?_ (by assumption)
    | with_reducible refine K.of_snd ?_ (by assumption)
    | (split)
    | dsimp only
    | (rw [Dev.mk_tag]; (with_reducible apply K.mk_mgmt); rotate_left; decide)
    | (rw [Dev.mk_tag]; (with_reducible apply K.mkT); rotate_left; (intro p hq; cases p <;> first | exact absurd hq (by decide) | rfl | exact ⟨rfl, rfl⟩ | exact fun _ => ⟨rfl, rfl⟩); exact fun w => w)

end Sys2Proof.Machine
end

