-- ==== Sys2Proof/Laws/FootPseq.lean ====
section
/-! SUPPORT.  Footprints of the functions of `Machine/Pseq.lean` (see `Keep.lean`): what each leaves alone. -/

set_option Elab.async false
set_option linter.all false

namespace Sys2Proof.Machine

theorem Foot.pseqGpio {e d : Dev} {pm rm : Nat} {g : Nat} {high : Bool} (h : K e d pm rm) (hp : sub 0x2000 pm = true)
    (hr : sub 0x0 rm = true) : K e (Dev.pseqGpio d g high) pm rm := by
  refine K.lift h hp hr ?_
  clear h hp hr
  unfold Dev.pseqGpio
  all_goals repeat' first
    | with_reducible exact K.refl _ _ _
    | with_reducible assumption
    | ((with_reducible apply K.setPseq); rotate_left; decide)
    | with_reducible apply K.ite
    | ((with_reducible apply K.foldl); rotate_left; intro d x h; rotate_right)
    | ((with_reducible apply K.foldlFst); rotate_left; intro x y h; rotate_right)
    | ((with_reducible apply K.foldlSnd); rotate_left; intro x y h; rotate_right)
    | with_reducible apply K.fst_ite
    | with_reducible apply K.cond
    | with_reducible refine K.of_fst ?_ (by assumption)
    | with_reducible refine K.of_snd ?_ (by assumption)
    | (split)
    | dsimp only
    | (rw [Dev.mk_tag]; (with_reducible apply K.mk_pseq); rotate_left; decide)
    | (rw [Dev.mk_tag]; (with_reducible apply K.mkT); rotate_left; (intro p hq; cases p <;> first | exact absurd hq (by decide) | rfl | exact ⟨rfl, rfl⟩ | exact fun _ => ⟨rfl, rfl⟩); exact fun w => w)

theorem Foot.pseqAct {e d : Dev} {pm rm : Nat} {act : Nat} {g : Nat} (h : K e d pm rm) (hp : sub 0x1b801 pm = true)
    (hr : sub 0x20044000000000000000000000001f000000000000000000000000000000000 rm = true) : K e (Dev.pseqAct d act g) pm rm := by
  refine K.lift h hp hr ?_
  clear h hp hr
  unfold Dev.pseqAct
  extract_lets x1 x2
  clear_value (g1 : x1 = _) (g2 : x2 = _)
  subst g1
  subst g2
  all_goals repeat' first
    | with_reducible exact K.refl _ _ _
    | with_reducible assumption
    | ((with_reducible apply K.setPseq); rotate_left; decide)
    | ((with_reducible apply Foot.pseqGpio); rotate_left; decide; decide)
    | ((with_reducible apply Foot.trainStart); rotate_left; decide; decide)
    | ((with_reducible apply Foot.colDischarge); rotate_left; decide; decide)
    | ((with_reducible apply Foot.blEnable); rotate_left; decide; decide)
    | ((with_reducible apply Foot.blShut); rotate_left; decide; decide)
    | with_reducible apply K.ite
    | ((with_reducible apply K.foldl); rotate_left; intro d x h; rotate_right)
    | ((with_reducible apply K.foldlFst); rotate_left; intro x y h; rotate_right)
    | ((with_reducible apply K.foldlSnd); rotate_left; intro x y h; rotate_right)
    | with_reducible apply K.fst_ite
    | with_reducible apply K.cond
    | with_reducible refine K.of_fst ?_ (by assumption)
    | with_reducible refine K.of_snd ?_ (by assumption)
    | (split)
    | dsimp only
    | (rw [Dev.mk_tag]; (with_reducible apply K.mk_free); rotate_left; decide)
    | (rw [Dev.mk_tag]; (with_reducible apply K.mk_col); rotate_left; decide)
    | (rw [Dev.mk_tag]; (with_reducible apply K.mk_gate); rotate_left; decide)
    | (rw [Dev.mk_tag]; (with_reducible apply K.mk_pseq); rotate_left; decide)
    | (rw [Dev.mk_tag]; (with_reducible apply K.mk_bl); rotate_left; decide)
    | (rw [Dev.mk_tag]; (with_reducible apply K.mk_cal); rotate_left; decide)
    | (rw [Dev.mk_tag]; (with_reducible apply K.mkT); rotate_left; (intro p hq; cases p <;> first | exact absurd hq (by decide) | rfl | exact ⟨rfl, rfl⟩ | exact fun _ => ⟨rfl, rfl⟩); exact fun w => w)

theorem Foot.pseqFinish {e d : Dev} {pm rm : Nat} (h : K e d pm rm) (hp : sub 0x3c02 pm = true)
    (hr : sub 0x2800000000000000000000000000000000000001000000000000000001000000000080000 rm = true) : K e (Dev.pseqFinish d) pm rm := by
  refine K.lift h hp hr ?_
  clear h hp hr
  unfold Dev.pseqFinish
  extract_lets x1 x2 x3 x4 x5 x6
  clear_value (g1 : x1 = _) (g2 : x2 = _) (g3 : x3 = _) (g4 : x4 = _) (g5 : x5 = _) (g6 : x6 = _)
  clear g1
  refine K.cutEq d 0x3c02 0x2800000000000000000000000000000000000001000000000000000001000000000080000 g2 ?_ (fun h2 => ?_)
  rotate_left
  clear g2
  refine K.cutEq d 0x3c02 0x2800000000000000000000000000000000000001000000000000000001000000000080000 g3 ?_ (fun h3 => ?_)
  rotate_left
  clear g3
  subst g4
  subst g5
  refine K.cutEq d 0x3c02 0x2800000000000000000000000000000000000001000000000000000001000000000080000 g6 ?_ (fun h6 => ?_)
  rotate_left
  clear g6
  all_goals repeat' first
    | with_reducible exact K.refl _ _ _
    | with_reducible assumption
    | ((with_reducible apply K.put); rotate_left; (first | assumption | exact R.mem_GATE_CTRL | exact R.mem_PSEQ_EVENT | exact R.mem_PSEQ_STATUS); decide)
    | ((with_reducible apply K.raise); rotate_left; (first | assumption | exact R.mem_GATE_CTRL | exact R.mem_PSEQ_EVENT | exact R.mem_PSEQ_STATUS); decide; decide; decide)
    | ((with_reducible apply K.setPseq); rotate_left; decide)
    | ((with_reducible apply Foot.lanesIdle); rotate_left; decide; decide)
    | ((with_reducible apply Foot.setTrain); rotate_left; decide; decide)
    | with_reducible apply K.ite
    | ((with_reducible apply K.foldl); rotate_left; intro d x h; rotate_right)
    | ((with_reducible apply K.foldlFst); rotate_left; intro x y h; rotate_right)
    | ((with_reducible apply K.foldlSnd); rotate_left; intro x y h; rotate_right)
    | with_reducible apply K.fst_ite
    | with_reducible apply K.cond
    | with_reducible refine K.of_fst ?_ (by assumption)
    | with_reducible refine K.of_snd ?_ (by assumption)
    | (split)
    | dsimp only
    | (rw [Dev.mk_tag]; (with_reducible apply K.mk_log); rotate_left; decide)
    | (rw [Dev.mk_tag]; (with_reducible apply K.mk_scan); rotate_left; decide)
    | (rw [Dev.mk_tag]; (with_reducible apply K.mk_col); rotate_left; decide)
    | (rw [Dev.mk_tag]; (with_reducible apply K.mk_gate); rotate_left; decide)
    | (rw [Dev.mk_tag]; (with_reducible apply K.mk_pseq); rotate_left; decide)
    | (rw [Dev.mk_tag]; (with_reducible apply K.mkT); rotate_left; (intro p hq; cases p <;> first | exact absurd hq (by decide) | rfl | exact ⟨rfl, rfl⟩ | exact fun _ => ⟨rfl, rfl⟩); exact fun w => w)

theorem Foot.pseqFirstDone {e d : Dev} {pm rm : Nat} (h : K e d pm rm) (hp : sub 0x2000 pm = true)
    (hr : sub 0x0 rm = true) : K e (Dev.pseqFirstDone d) pm rm := by
  refine K.lift h hp hr ?_
  clear h hp hr
  unfold Dev.pseqFirstDone
  all_goals repeat' first
    | with_reducible exact K.refl _ _ _
    | with_reducible assumption
    | ((with_reducible apply K.setPseq); rotate_left; decide)
    | with_reducible apply K.ite
    | ((with_reducible apply K.foldl); rotate_left; intro d x h; rotate_right)
    | ((with_reducible apply K.foldlFst); rotate_left; intro x y h; rotate_right)
    | ((with_reducible apply K.foldlSnd); rotate_left; intro x y h; rotate_right)
    | with_reducible apply K.fst_ite
    | with_reducible apply K.cond
    | with_reducible refine K.of_fst ?_ (by assumption)
    | with_reducible refine K.of_snd ?_ (by assumption)
    | (split)
    | dsimp only
    | (rw [Dev.mk_tag]; (with_reducible apply K.mk_pseq); rotate_left; decide)
    | (rw [Dev.mk_tag]; (with_reducible apply K.mkT); rotate_left; (intro p hq; cases p <;> first | exact absurd hq (by decide) | rfl | exact ⟨rfl, rfl⟩ | exact fun _ => ⟨rfl, rfl⟩); exact fun w => w)

end Sys2Proof.Machine
end

