-- ==== Sys2Proof/Laws/FootCalib.lean ====
section
/-! SUPPORT.  Footprints of the functions of `Machine/Calib.lean` (see `Keep.lean`): what each leaves alone. -/

set_option Elab.async false
set_option linter.all false

namespace Sys2Proof.Machine

theorem Foot.setConsec {e d : Dev} {pm rm : Nat} {c : Nat} {inst : Nat} {n : Nat} (h : K e d pm rm) (hp : sub 0x10000 pm = true)
    (hr : sub 0x80000000000000000000000000000000000000000000000000000000000000000000000000 rm = true) : K e (Dev.setConsec d c inst n) pm rm := by
  refine K.lift h hp hr ?_
  clear h hp hr
  unfold Dev.setConsec
  extract_lets x1 x2
  clear_value (g1 : x1 = _) (g2 : x2 = _)
  subst g1
  refine K.cutEq d 0x10000 0x80000000000000000000000000000000000000000000000000000000000000000000000000 g2 ?_ (fun h2 => ?_)
  rotate_left
  clear g2
  all_goals repeat' first
    | with_reducible exact K.refl _ _ _
    | with_reducible assumption
    | ((with_reducible apply K.put); rotate_left; (first | assumption | exact R.mem_CAL_STATUS); decide)
    | with_reducible apply K.ite
    | ((with_reducible apply K.foldl); rotate_left; intro d x h; rotate_right)
    | ((with_reducible apply K.foldlFst); rotate_left; intro x y h; rotate_right)
    | ((with_reducible apply K.foldlSnd); rotate_left; intro x y h; rotate_right)
    | with_reducible apply K.fst_ite
    | with_reducible apply K.cond
    | with_reducible refine K.of_fst ?_ (by assumption)
    | with_reducible refine K.of_snd ?_ (by assumption)
    | (split)
    | dsimp only
    | (rw [Dev.mk_tag]; (with_reducible apply K.mk_cal); rotate_left; decide)
    | (rw [Dev.mk_tag]; (with_reducible apply K.mkT); rotate_left; (intro p hq; cases p <;> first | exact absurd hq (by decide) | rfl | exact ⟨rfl, rfl⟩ | exact fun _ => ⟨rfl, rfl⟩); exact fun w => w)

theorem Foot.calShow {e d : Dev} {pm rm : Nat} {c : Nat} {inst : Nat} {reason : Nat} {n : Nat} (h : K e d pm rm) (hp : sub 0x2 pm = true)
    (hr : sub 0x28000000000000000000000000000000000000000000000000000000000000000000080000 rm = true) : K e (Dev.calShow d c inst reason n) pm rm := by
  refine K.lift h hp hr ?_
  clear h hp hr
  unfold Dev.calShow
  extract_lets x1
  clear_value (g1 : x1 = _)
  refine K.cutEq d 0x2 0x28000000000000000000000000000000000000000000000000000000000000000000080000 g1 ?_ (fun h1 => ?_)
  rotate_left
  clear g1
  all_goals repeat' first
    | with_reducible exact K.refl _ _ _
    | with_reducible assumption
    | ((with_reducible apply K.put); rotate_left; (first | assumption | exact R.mem_CAL_EVENT | exact R.mem_CAL_REJ_STATUS); decide)
    | ((with_reducible apply K.raise); rotate_left; (first | assumption | exact R.mem_CAL_EVENT | exact R.mem_CAL_REJ_STATUS); decide; decide; decide)
    | with_reducible apply K.ite
    | ((with_reducible apply K.foldl); rotate_left; intro d x h; rotate_right)
    | ((with_reducible apply K.foldlFst); rotate_left; intro x y h; rotate_right)
    | ((with_reducible apply K.foldlSnd); rotate_left; intro x y h; rotate_right)
    | with_reducible apply K.fst_ite
    | with_reducible apply K.cond
    | with_reducible refine K.of_fst ?_ (by assumption)
    | with_reducible refine K.of_snd ?_ (by assumption)
    | (split)
    | dsimp only
    | (rw [Dev.mk_tag]; (with_reducible apply K.mk_log); rotate_left; decide)
    | (rw [Dev.mk_tag]; (with_reducible apply K.mkT); rotate_left; (intro p hq; cases p <;> first | exact absurd hq (by decide) | rfl | exact ⟨rfl, rfl⟩ | exact fun _ => ⟨rfl, rfl⟩); exact fun w => w)

theorem Foot.calReject {e d : Dev} {pm rm : Nat} {c : Nat} {inst : Nat} {reason : Nat} (h : K e d pm rm) (hp : sub 0x10002 pm = true)
    (hr : sub 0xa8000000000000000000000000000000000000000000000000000000000000000000080000 rm = true) : K e (Dev.calReject d c inst reason) pm rm := by
  refine K.lift h hp hr ?_
  clear h hp hr
  unfold Dev.calReject
  extract_lets x1 x2 x3
  clear_value (g1 : x1 = _) (g2 : x2 = _) (g3 : x3 = _)
  clear g1
  clear g2
  refine K.cutEq d 0x10002 0xa8000000000000000000000000000000000000000000000000000000000000000000080000 g3 ?_ (fun h3 => ?_)
  rotate_left
  clear g3
  all_goals repeat' first
    | with_reducible exact K.refl _ _ _
    | with_reducible assumption
    | ((with_reducible apply K.raiseIf); rotate_left; (first | assumption | exact R.mem_CAL_EVENT); decide; decide; decide)
    | ((with_reducible apply Foot.calShow); rotate_left; decide; decide)
    | ((with_reducible apply Foot.setConsec); rotate_left; decide; decide)
    | with_reducible apply K.ite
    | ((with_reducible apply K.foldl); rotate_left; intro d x h; rotate_right)
    | ((with_reducible apply K.foldlFst); rotate_left; intro x y h; rotate_right)
    | ((with_reducible apply K.foldlSnd); rotate_left; intro x y h; rotate_right)
    | with_reducible apply K.fst_ite
    | with_reducible apply K.cond
    | with_reducible refine K.of_fst ?_ (by assumption)
    | with_reducible refine K.of_snd ?_ (by assumption)
    | (split)
    | dsimp only
    | (rw [Dev.mk_tag]; (with_reducible apply K.mk_log); rotate_left; decide)
    | (rw [Dev.mk_tag]; (with_reducible apply K.mk_cal); rotate_left; decide)
    | (rw [Dev.mk_tag]; (with_reducible apply K.mkT); rotate_left; (intro p hq; cases p <;> first | exact absurd hq (by decide) | rfl | exact ⟨rfl, rfl⟩ | exact fun _ => ⟨rfl, rfl⟩); exact fun w => w)

theorem Foot.calAccept {e d : Dev} {pm rm : Nat} {c : Nat} {inst : Nat} (h : K e d pm rm) (hp : sub 0x10000 pm = true)
    (hr : sub 0x80000000000000000000000000000000000000000000000000000000000000000000000000 rm = true) : K e (Dev.calAccept d c inst) pm rm := by
  refine K.lift h hp hr ?_
  clear h hp hr
  unfold Dev.calAccept
  all_goals repeat' first
    | with_reducible exact K.refl _ _ _
    | with_reducible assumption
    | ((with_reducible apply K.inc); rotate_left; (first | assumption | exact R.mem_CAL_STATUS); decide)
    | ((with_reducible apply Foot.setConsec); rotate_left; decide; decide)
    | with_reducible apply K.ite
    | ((with_reducible apply K.foldl); rotate_left; intro d x h; rotate_right)
    | ((with_reducible apply K.foldlFst); rotate_left; intro x y h; rotate_right)
    | ((with_reducible apply K.foldlSnd); rotate_left; intro x y h; rotate_right)
    | with_reducible apply K.fst_ite
    | with_reducible apply K.cond
    | with_reducible refine K.of_fst ?_ (by assumption)
    | with_reducible refine K.of_snd ?_ (by assumption)
    | (split)
    | dsimp only
    | (rw [Dev.mk_tag]; (with_reducible apply K.mk_cal); rotate_left; decide)
    | (rw [Dev.mk_tag]; (with_reducible apply K.mkT); rotate_left; (intro p hq; cases p <;> first | exact absurd hq (by decide) | rfl | exact ⟨rfl, rfl⟩ | exact fun _ => ⟨rfl, rfl⟩); exact fun w => w)

theorem Foot.calMark {e d : Dev} {pm rm : Nat} {c : Nat} {inst : Nat} {v : Int} {dflt : Int} {tol : Nat} (h : K e d pm rm) (hp : sub 0x2 pm = true)
    (hr : sub 0x8000000000000000000000000000000000000000000000000000000000000000000080000 rm = true) : K e (Dev.calMark d c inst v dflt tol) pm rm := by
  refine K.lift h hp hr ?_
  clear h hp hr
  unfold Dev.calMark
  all_goals repeat' first
    | with_reducible exact K.refl _ _ _
    | with_reducible assumption
    | ((with_reducible apply K.raiseIf); rotate_left; (first | assumption | exact R.mem_CAL_EVENT); decide; decide; decide)
    | with_reducible apply K.ite
    | ((with_reducible apply K.foldl); rotate_left; intro d x h; rotate_right)
    | ((with_reducible apply K.foldlFst); rotate_left; intro x y h; rotate_right)
    | ((with_reducible apply K.foldlSnd); rotate_left; intro x y h; rotate_right)
    | with_reducible apply K.fst_ite
    | with_reducible apply K.cond
    | with_reducible refine K.of_fst ?_ (by assumption)
    | with_reducible refine K.of_snd ?_ (by assumption)
    | (split)
    | dsimp only
    | (rw [Dev.mk_tag]; (with_reducible apply K.mk_log); rotate_left; decide)
    | (rw [Dev.mk_tag]; (with_reducible apply K.mkT); rotate_left; (intro p hq; cases p <;> first | exact absurd hq (by decide) | rfl | exact ⟨rfl, rfl⟩ | exact fun _ => ⟨rfl, rfl⟩); exact fun w => w)

theorem Foot.ofsSample {e d : Dev} {pm rm : Nat} {p : Nat × Int} (h : K e d pm rm) (hp : sub 0x10000 pm = true)
    (hr : sub 0x0 rm = true) : K e (Dev.ofsSample d p) pm rm := by
  refine K.lift h hp hr ?_
  clear h hp hr
  unfold Dev.ofsSample
  extract_lets x1 x2
  clear_value (g1 : x1 = _) (g2 : x2 = _)
  clear g1
  subst g2
  all_goals repeat' first
    | with_reducible exact K.refl _ _ _
    | with_reducible assumption
    | with_reducible apply K.ite
    | ((with_reducible apply K.foldl); rotate_left; intro d x h; rotate_right)
    | ((with_reducible apply K.foldlFst); rotate_left; intro x y h; rotate_right)
    | ((with_reducible apply K.foldlSnd); rotate_left; intro x y h; rotate_right)
    | with_reducible apply K.fst_ite
    | with_reducible apply K.cond
    | with_reducible refine K.of_fst ?_ (by assumption)
    | with_reducible refine K.of_snd ?_ (by assumption)
    | (split)
    | dsimp only
    | (rw [Dev.mk_tag]; (with_reducible apply K.mk_cal); rotate_left; decide)
    | (rw [Dev.mk_tag]; (with_reducible apply K.mkT); rotate_left; (intro p hq; cases p <;> first | exact absurd hq (by decide) | rfl | exact ⟨rfl, rfl⟩ | exact fun _ => ⟨rfl, rfl⟩); exact fun w => w)

theorem Foot.ofsEnd {e d : Dev} {pm rm : Nat} {s : Nat} {timeout : Bool} (h : K e d pm rm) (hp : sub 0x10002 pm = true)
    (hr : sub 0x1a8000000000000000000000000000000000000000000000000000000000000000000080000 rm = true) : K e (Dev.ofsEnd d s timeout) pm rm := by
  refine K.lift h hp hr ?_
  clear h hp hr
  unfold Dev.ofsEnd
  extract_lets x1 x2 x3
  clear_value (g1 : x1 = _) (g2 : x2 = _) (g3 : x3 = _)
  clear g1
  refine K.cutEq d 0x10002 0x1a8000000000000000000000000000000000000000000000000000000000000000000080000 g2 ?_ (fun h2 => ?_)
  rotate_left
  clear g2
  clear g3
  all_goals repeat' first
    | with_reducible exact K.refl _ _ _
    | with_reducible assumption
    | ((with_reducible apply K.put); rotate_left; (first | assumption | exact R.mem_SINK_CAL); decide)
    | ((with_reducible apply Foot.calEndSink); rotate_left; decide; decide)
    | ((with_reducible apply Foot.calReject); rotate_left; decide; decide)
    | ((with_reducible apply Foot.calMark); rotate_left; decide; decide)
    | ((with_reducible apply Foot.calAccept); rotate_left; decide; decide)
    | with_reducible apply K.ite
    | ((with_reducible apply K.foldl); rotate_left; intro d x h; rotate_right)
    | ((with_reducible apply K.foldlFst); rotate_left; intro x y h; rotate_right)
    | ((with_reducible apply K.foldlSnd); rotate_left; intro x y h; rotate_right)
    | with_reducible apply K.fst_ite
    | with_reducible apply K.cond
    | with_reducible refine K.of_fst ?_ (by assumption)
    | with_reducible refine K.of_snd ?_ (by assumption)
    | (split)
    | dsimp only
    | (rw [Dev.mk_tag]; (with_reducible apply K.mk_log); rotate_left; decide)
    | (rw [Dev.mk_tag]; (with_reducible apply K.mk_cal); rotate_left; decide)
    | (rw [Dev.mk_tag]; (with_reducible apply K.mkT); rotate_left; (intro p hq; cases p <;> first | exact absurd hq (by decide) | rfl | exact ⟨rfl, rfl⟩ | exact fun _ => ⟨rfl, rfl⟩); exact fun w => w)

theorem Foot.gainSample {e d : Dev} {pm rm : Nat} {m : PwmSense} {b : Nat} (h : K e d pm rm) (hp : sub 0x10000 pm = true)
    (hr : sub 0x0 rm = true) : K e (Dev.gainSample d m b) pm rm := by
  refine K.lift h hp hr ?_
  clear h hp hr
  unfold Dev.gainSample
  extract_lets x1 x2
  clear_value (g1 : x1 = _) (g2 : x2 = _)
  clear g1
  clear g2
  all_goals repeat' first
    | with_reducible exact K.refl _ _ _
    | with_reducible assumption
    | ((with_reducible apply K.setGainCal); rotate_left; decide)
    | with_reducible apply K.ite
    | ((with_reducible apply K.foldl); rotate_left; intro d x h; rotate_right)
    | ((with_reducible apply K.foldlFst); rotate_left; intro x y h; rotate_right)
    | ((with_reducible apply K.foldlSnd); rotate_left; intro x y h; rotate_right)
    | with_reducible apply K.fst_ite
    | with_reducible apply K.cond
    | with_reducible refine K.of_fst ?_ (by assumption)
    | with_reducible refine K.of_snd ?_ (by assumption)
    | (split)
    | dsimp only
    | (rw [Dev.mk_tag]; (with_reducible apply K.mk_cal); rotate_left; decide)
    | (rw [Dev.mk_tag]; (with_reducible apply K.mkT); rotate_left; (intro p hq; cases p <;> first | exact absurd hq (by decide) | rfl | exact ⟨rfl, rfl⟩ | exact fun _ => ⟨rfl, rfl⟩); exact fun w => w)

theorem Foot.fitReady {e d : Dev} {pm rm : Nat} {b : Nat} (h : K e d pm rm) (hp : sub 0x10002 pm = true)
    (hr : sub 0xa8000000000000000000000000000000000000000000000000000000000000000000080000 rm = true) : K e (Dev.fitReady d b) pm rm := by
  refine K.lift h hp hr ?_
  clear h hp hr
  unfold Dev.fitReady
  all_goals repeat' first
    | with_reducible exact K.refl _ _ _
    | with_reducible assumption
    | ((with_reducible apply K.raise); rotate_left; (first | assumption | exact R.mem_CAL_EVENT); decide; decide; decide)
    | ((with_reducible apply K.setGainCal); rotate_left; decide)
    | ((with_reducible apply Foot.calReject); rotate_left; decide; decide)
    | ((with_reducible apply Foot.calEndBoost); rotate_left; decide; decide)
    | with_reducible apply K.ite
    | ((with_reducible apply K.foldl); rotate_left; intro d x h; rotate_right)
    | ((with_reducible apply K.foldlFst); rotate_left; intro x y h; rotate_right)
    | ((with_reducible apply K.foldlSnd); rotate_left; intro x y h; rotate_right)
    | with_reducible apply K.fst_ite
    | with_reducible apply K.cond
    | with_reducible refine K.of_fst ?_ (by assumption)
    | with_reducible refine K.of_snd ?_ (by assumption)
    | (split)
    | dsimp only
    | (rw [Dev.mk_tag]; (with_reducible apply K.mk_log); rotate_left; decide)
    | (rw [Dev.mk_tag]; (with_reducible apply K.mk_cal); rotate_left; decide)
    | (rw [Dev.mk_tag]; (with_reducible apply K.mkT); rotate_left; (intro p hq; cases p <;> first | exact absurd hq (by decide) | rfl | exact ⟨rfl, rfl⟩ | exact fun _ => ⟨rfl, rfl⟩); exact fun w => w)

theorem Foot.sgCommit {e d : Dev} {pm rm : Nat} {b : Nat} (h : K e d pm rm) (hp : sub 0x10000 pm = true)
    (hr : sub 0x0 rm = true) : K e (Dev.sgCommit d b) pm rm := by
  refine K.lift h hp hr ?_
  clear h hp hr
  unfold Dev.sgCommit
  extract_lets x1
  clear_value (g1 : x1 = _)
  clear g1
  all_goals repeat' first
    | with_reducible exact K.refl _ _ _
    | with_reducible assumption
    | ((with_reducible apply K.setGainCal); rotate_left; decide)
    | with_reducible apply K.ite
    | ((with_reducible apply K.foldl); rotate_left; intro d x h; rotate_right)
    | ((with_reducible apply K.foldlFst); rotate_left; intro x y h; rotate_right)
    | ((with_reducible apply K.foldlSnd); rotate_left; intro x y h; rotate_right)
    | with_reducible apply K.fst_ite
    | with_reducible apply K.cond
    | with_reducible refine K.of_fst ?_ (by assumption)
    | with_reducible refine K.of_snd ?_ (by assumption)
    | (split)
    | dsimp only
    | (rw [Dev.mk_tag]; (with_reducible apply K.mk_cal); rotate_left; decide)
    | (rw [Dev.mk_tag]; (with_reducible apply K.mkT); rotate_left; (intro p hq; cases p <;> first | exact absurd hq (by decide) | rfl | exact ⟨rfl, rfl⟩ | exact fun _ => ⟨rfl, rfl⟩); exact fun w => w)

theorem Foot.gainApply {e d : Dev} {pm rm : Nat} {b : Nat} {g : List Nat} (h : K e d pm rm) (hp : sub 0x2 pm = true)
    (hr : sub 0x1a8000000000000000000000000000000000000000000000000000000000000000000080000 rm = true) : K e (Dev.gainApply d b g) pm rm := by
  refine K.lift h hp hr ?_
  clear h hp hr
  unfold Dev.gainApply
  extract_lets x1 x2
  clear_value (g1 : x1 = _) (g2 : x2 = _)
  clear g1
  refine K.cutEq d 0x2 0x1a8000000000000000000000000000000000000000000000000000000000000000000080000 g2 ?_ (fun h2 => ?_)
  rotate_left
  clear g2
  all_goals repeat' first
    | with_reducible exact K.refl _ _ _
    | with_reducible assumption
    | ((with_reducible apply K.put); rotate_left; (first | assumption | exact R.mem_CAL_STATUS | exact R.mem_SINK_CAL); decide)
    | ((with_reducible apply Foot.calMark); rotate_left; decide; decide)
    | ((with_reducible apply Foot.calShow); rotate_left; decide; decide)
    | with_reducible apply K.ite
    | ((with_reducible apply K.each); rotate_left; intro d x h; rotate_right)
    | ((with_reducible apply K.foldl); rotate_left; intro d x h; rotate_right)
    | ((with_reducible apply K.foldlFst); rotate_left; intro x y h; rotate_right)
    | ((with_reducible apply K.foldlSnd); rotate_left; intro x y h; rotate_right)
    | with_reducible apply K.fst_ite
    | with_reducible apply K.cond
    | with_reducible refine K.of_fst ?_ (by assumption)
    | with_reducible refine K.of_snd ?_ (by assumption)
    | (split)
    | dsimp only
    | (rw [Dev.mk_tag]; (with_reducible apply K.mk_log); rotate_left; decide)
    | (rw [Dev.mk_tag]; (with_reducible apply K.mkT); rotate_left; (intro p hq; cases p <;> first | exact absurd hq (by decide) | rfl | exact ⟨rfl, rfl⟩ | exact fun _ => ⟨rfl, rfl⟩); exact fun w => w)

theorem Foot.gainEnd {e d : Dev} {pm rm : Nat} {b : Nat} {timeout : Bool} (h : K e d pm rm) (hp : sub 0x10002 pm = true)
    (hr : sub 0x1a8000000000000000000000000000000000000000000000000000000000000000000080000 rm = true) : K e (Dev.gainEnd d b timeout) pm rm := by
  refine K.lift h hp hr ?_
  clear h hp hr
  unfold Dev.gainEnd
  extract_lets x1 x2 x3 x4 x5 x6
  clear_value (g1 : x1 = _) (g2 : x2 = _) (g3 : x3 = _) (g4 : x4 = _) (g5 : x5 = _) (g6 : x6 = _)
  subst g1
  clear g2
  refine K.cutEq d 0x10002 0x1a8000000000000000000000000000000000000000000000000000000000000000000080000 g3 ?_ (fun h3 => ?_)
  rotate_left
  clear g3
  clear g4
  clear g5
  clear g6
  all_goals repeat' first
    | with_reducible exact K.refl _ _ _
    | with_reducible assumption
    | ((with_reducible apply Foot.calEndBoost); rotate_left; decide; decide)
    | ((with_reducible apply Foot.calReject); rotate_left; decide; decide)
    | ((with_reducible apply Foot.gainApply); rotate_left; decide; decide)
    | ((with_reducible apply Foot.calAccept); rotate_left; decide; decide)
    | with_reducible apply K.ite
    | ((with_reducible apply K.foldl); rotate_left; intro d x h; rotate_right)
    | ((with_reducible apply K.foldlFst); rotate_left; intro x y h; rotate_right)
    | ((with_reducible apply K.foldlSnd); rotate_left; intro x y h; rotate_right)
    | with_reducible apply K.fst_ite
    | with_reducible apply K.cond
    | with_reducible refine K.of_fst ?_ (by assumption)
    | with_reducible refine K.of_snd ?_ (by assumption)
    | (split)
    | dsimp only
    | (rw [Dev.mk_tag]; (with_reducible apply K.mk_log); rotate_left; decide)
    | (rw [Dev.mk_tag]; (with_reducible apply K.mk_cal); rotate_left; decide)
    | (rw [Dev.mk_tag]; (with_reducible apply K.mkT); rotate_left; (intro p hq; cases p <;> first | exact absurd hq (by decide) | rfl | exact ⟨rfl, rfl⟩ | exact fun _ => ⟨rfl, rfl⟩); exact fun w => w)

theorem Foot.fitTimeout {e d : Dev} {pm rm : Nat} {b : Nat} (h : K e d pm rm) (hp : sub 0x10002 pm = true)
    (hr : sub 0xa8000000000000000000000000000000000000000000000000000000000000000000080000 rm = true) : K e (Dev.fitTimeout d b) pm rm := by
  refine K.lift h hp hr ?_
  clear h hp hr
  unfold Dev.fitTimeout
  all_goals repeat' first
    | with_reducible exact K.refl _ _ _
    | with_reducible assumption
    | ((with_reducible apply Foot.calReject); rotate_left; decide; decide)
    | ((with_reducible apply Foot.calEndBoost); rotate_left; decide; decide)
    | with_reducible apply K.ite
    | ((with_reducible apply K.foldl); rotate_left; intro d x h; rotate_right)
    | ((with_reducible apply K.foldlFst); rotate_left; intro x y h; rotate_right)
    | ((with_reducible apply K.foldlSnd); rotate_left; intro x y h; rotate_right)
    | with_reducible apply K.fst_ite
    | with_reducible apply K.cond
    | with_reducible refine K.of_fst ?_ (by assumption)
    | with_reducible refine K.of_snd ?_ (by assumption)
    | (split)
    | dsimp only
    | (rw [Dev.mk_tag]; (with_reducible apply K.mk_log); rotate_left; decide)
    | (rw [Dev.mk_tag]; (with_reducible apply K.mk_cal); rotate_left; decide)
    | (rw [Dev.mk_tag]; (with_reducible apply K.mkT); rotate_left; (intro p hq; cases p <;> first | exact absurd hq (by decide) | rfl | exact ⟨rfl, rfl⟩ | exact fun _ => ⟨rfl, rfl⟩); exact fun w => w)

theorem Foot.calPeriod {e d : Dev} {pm rm : Nat} {m : PwmSense} (h : K e d pm rm) (hp : sub 0x10000 pm = true)
    (hr : sub 0x0 rm = true) : K e (Dev.calPeriod d m) pm rm := by
  refine K.lift h hp hr ?_
  clear h hp hr
  unfold Dev.calPeriod
  extract_lets x1
  clear_value (g1 : x1 = _)
  refine K.cutEq d 0x10000 0x0 g1 ?_ (fun h1 => ?_)
  rotate_left
  clear g1
  all_goals repeat' first
    | with_reducible exact K.refl _ _ _
    | with_reducible assumption
    | ((with_reducible apply Foot.ofsSample); rotate_left; decide; decide)
    | ((with_reducible apply Foot.gainSample); rotate_left; decide; decide)
    | with_reducible apply K.ite
    | ((with_reducible apply K.each); rotate_left; intro d x h; rotate_right)
    | ((with_reducible apply K.foldl); rotate_left; intro d x h; rotate_right)
    | ((with_reducible apply K.foldlFst); rotate_left; intro x y h; rotate_right)
    | ((with_reducible apply K.foldlSnd); rotate_left; intro x y h; rotate_right)
    | with_reducible apply K.fst_ite
    | with_reducible apply K.cond
    | with_reducible refine K.of_fst ?_ (by assumption)
    | with_reducible refine K.of_snd ?_ (by assumption)
    | (split)
    | dsimp only
    | (rw [Dev.mk_tag]; (with_reducible apply K.mk_cal); rotate_left; decide)
    | (rw [Dev.mk_tag]; (with_reducible apply K.mkT); rotate_left; (intro p hq; cases p <;> first | exact absurd hq (by decide) | rfl | exact ⟨rfl, rfl⟩ | exact fun _ => ⟨rfl, rfl⟩); exact fun w => w)

theorem Foot.tsConvert {e d : Dev} {pm rm : Nat} {raw : List (BitVec 16)} (h : K e d pm rm) (hp : sub 0x18002 pm = true)
    (hr : sub 0x400000000000003440000000000000000000000000000000000000000000000000000080000 rm = true) : K e (Dev.tsConvert d raw) pm rm := by
  refine K.lift h hp hr ?_
  clear h hp hr
  unfold Dev.tsConvert
  extract_lets x1 x2 x3
  clear_value (g1 : x1 = _) (g2 : x2 = _) (g3 : x3 = _)
  refine K.cutEq d 0x18002 0x400000000000003440000000000000000000000000000000000000000000000000000080000 g1 ?_ (fun h1 => ?_)
  rotate_left
  clear g1
  subst g2
  refine K.cutEq d 0x18002 0x400000000000003440000000000000000000000000000000000000000000000000000080000 g3 ?_ (fun h3 => ?_)
  rotate_left
  clear g3
  all_goals repeat' first
    | with_reducible exact K.refl _ _ _
    | with_reducible assumption
    | ((with_reducible apply K.put); rotate_left; (first | assumption | exact R.mem_BL_DIE | exact R.mem_TS_CAL); decide)
    | ((with_reducible apply Foot.dieHot); rotate_left; decide; decide)
    | with_reducible apply K.ite
    | ((with_reducible apply K.each); rotate_left; intro d x h; rotate_right)
    | ((with_reducible apply K.foldl); rotate_left; intro d x h; rotate_right)
    | ((with_reducible apply K.foldlFst); rotate_left; intro x y h; rotate_right)
    | ((with_reducible apply K.foldlSnd); rotate_left; intro x y h; rotate_right)
    | with_reducible apply K.fst_ite
    | with_reducible apply K.cond
    | with_reducible refine K.of_fst ?_ (by assumption)
    | with_reducible refine K.of_snd ?_ (by assumption)
    | (split)
    | dsimp only
    | (rw [Dev.mk_tag]; (with_reducible apply K.mk_log); rotate_left; decide)
    | (rw [Dev.mk_tag]; (with_reducible apply K.mk_bl); rotate_left; decide)
    | (rw [Dev.mk_tag]; (with_reducible apply K.mk_cal); rotate_left; decide)
    | (rw [Dev.mk_tag]; (with_reducible apply K.mkT); rotate_left; (intro p hq; cases p <;> first | exact absurd hq (by decide) | rfl | exact ⟨rfl, rfl⟩ | exact fun _ => ⟨rfl, rfl⟩); exact fun w => w)

theorem Foot.tsSample {e d : Dev} {pm rm : Nat} {raw : List (BitVec 16)} (h : K e d pm rm) (hp : sub 0x18002 pm = true)
    (hr : sub 0x400000000000003440000000000000000000000000000000000000000000000000000080000 rm = true) : K e (Dev.tsSample d raw) pm rm := by
  refine K.lift h hp hr ?_
  clear h hp hr
  unfold Dev.tsSample
  extract_lets x1 x2
  clear_value (g1 : x1 = _) (g2 : x2 = _)
  refine K.cutEq d 0x18002 0x400000000000003440000000000000000000000000000000000000000000000000000080000 g1 ?_ (fun h1 => ?_)
  rotate_left
  clear g1
  subst g2
  all_goals repeat' first
    | with_reducible exact K.refl _ _ _
    | with_reducible assumption
    | ((with_reducible apply Foot.tsConvert); rotate_left; decide; decide)
    | with_reducible apply K.ite
    | ((with_reducible apply K.foldl); rotate_left; intro d x h; rotate_right)
    | ((with_reducible apply K.foldlFst); rotate_left; intro x y h; rotate_right)
    | ((with_reducible apply K.foldlSnd); rotate_left; intro x y h; rotate_right)
    | with_reducible apply K.fst_ite
    | with_reducible apply K.cond
    | with_reducible refine K.of_fst ?_ (by assumption)
    | with_reducible refine K.of_snd ?_ (by assumption)
    | (split)
    | dsimp only
    | (rw [Dev.mk_tag]; (with_reducible apply K.mk_log); rotate_left; decide)
    | (rw [Dev.mk_tag]; (with_reducible apply K.mk_bl); rotate_left; decide)
    | (rw [Dev.mk_tag]; (with_reducible apply K.mk_cal); rotate_left; decide)
    | (rw [Dev.mk_tag]; (with_reducible apply K.mkT); rotate_left; (intro p hq; cases p <;> first | exact absurd hq (by decide) | rfl | exact ⟨rfl, rfl⟩ | exact fun _ => ⟨rfl, rfl⟩); exact fun w => w)

theorem Foot.tsJudge {e d : Dev} {pm rm : Nat} {w : List Int} {i : Nat} {cand : Int} (h : K e d pm rm) (hp : sub 0x10002 pm = true)
    (hr : sub 0x4a8000000000000000000000000000000000000000000000000000000000000000000080000 rm = true) : K e (Dev.tsJudge d w i cand) pm rm := by
  refine K.lift h hp hr ?_
  clear h hp hr
  unfold Dev.tsJudge
  all_goals repeat' first
    | with_reducible exact K.refl _ _ _
    | with_reducible assumption
    | ((with_reducible apply K.put); rotate_left; (first | assumption | exact R.mem_TS_CAL); decide)
    | ((with_reducible apply Foot.calReject); rotate_left; decide; decide)
    | ((with_reducible apply Foot.calMark); rotate_left; decide; decide)
    | ((with_reducible apply Foot.calAccept); rotate_left; decide; decide)
    | with_reducible apply K.ite
    | ((with_reducible apply K.foldl); rotate_left; intro d x h; rotate_right)
    | ((with_reducible apply K.foldlFst); rotate_left; intro x y h; rotate_right)
    | ((with_reducible apply K.foldlSnd); rotate_left; intro x y h; rotate_right)
    | with_reducible apply K.fst_ite
    | with_reducible apply K.cond
    | with_reducible refine K.of_fst ?_ (by assumption)
    | with_reducible refine K.of_snd ?_ (by assumption)
    | (split)
    | dsimp only
    | (rw [Dev.mk_tag]; (with_reducible apply K.mk_log); rotate_left; decide)
    | (rw [Dev.mk_tag]; (with_reducible apply K.mk_cal); rotate_left; decide)
    | (rw [Dev.mk_tag]; (with_reducible apply K.mkT); rotate_left; (intro p hq; cases p <;> first | exact absurd hq (by decide) | rfl | exact ⟨rfl, rfl⟩ | exact fun _ => ⟨rfl, rfl⟩); exact fun w => w)

theorem Foot.anchorSet {e d : Dev} {pm rm : Nat} {r : List Int} (h : K e d pm rm) (hp : sub 0x10002 pm = true)
    (hr : sub 0x4a8000000000000000000000000000000000000000000000000000000000000000000080000 rm = true) : K e (Dev.anchorSet d r) pm rm := by
  refine K.lift h hp hr ?_
  clear h hp hr
  unfold Dev.anchorSet
  all_goals repeat' first
    | with_reducible exact K.refl _ _ _
    | with_reducible assumption
    | ((with_reducible apply K.put); rotate_left; (first | assumption | exact R.mem_TS_CAL); decide)
    | ((with_reducible apply Foot.calReject); rotate_left; decide; decide)
    | ((with_reducible apply Foot.calMark); rotate_left; decide; decide)
    | with_reducible apply K.ite
    | ((with_reducible apply K.each); rotate_left; intro d x h; rotate_right)
    | ((with_reducible apply K.foldl); rotate_left; intro d x h; rotate_right)
    | ((with_reducible apply K.foldlFst); rotate_left; intro x y h; rotate_right)
    | ((with_reducible apply K.foldlSnd); rotate_left; intro x y h; rotate_right)
    | with_reducible apply K.fst_ite
    | with_reducible apply K.cond
    | with_reducible refine K.of_fst ?_ (by assumption)
    | with_reducible refine K.of_snd ?_ (by assumption)
    | (split)
    | dsimp only
    | (rw [Dev.mk_tag]; (with_reducible apply K.mk_log); rotate_left; decide)
    | (rw [Dev.mk_tag]; (with_reducible apply K.mk_cal); rotate_left; decide)
    | (rw [Dev.mk_tag]; (with_reducible apply K.mkT); rotate_left; (intro p hq; cases p <;> first | exact absurd hq (by decide) | rfl | exact ⟨rfl, rfl⟩ | exact fun _ => ⟨rfl, rfl⟩); exact fun w => w)

theorem Foot.anchorAdd {e d : Dev} {pm rm : Nat} {found : List Int} (h : K e d pm rm) (hp : sub 0x10002 pm = true)
    (hr : sub 0x4a8000000000000000000000000000000000000000000000000000000000000000000080000 rm = true) : K e (Dev.anchorAdd d found) pm rm := by
  refine K.lift h hp hr ?_
  clear h hp hr
  unfold Dev.anchorAdd
  all_goals repeat' first
    | with_reducible exact K.refl _ _ _
    | with_reducible assumption
    | ((with_reducible apply Foot.anchorSet); rotate_left; decide; decide)
    | with_reducible apply K.ite
    | ((with_reducible apply K.each); rotate_left; intro d x h; rotate_right)
    | ((with_reducible apply K.foldl); rotate_left; intro d x h; rotate_right)
    | ((with_reducible apply K.foldlFst); rotate_left; intro x y h; rotate_right)
    | ((with_reducible apply K.foldlSnd); rotate_left; intro x y h; rotate_right)
    | with_reducible apply K.fst_ite
    | with_reducible apply K.cond
    | with_reducible refine K.of_fst ?_ (by assumption)
    | with_reducible refine K.of_snd ?_ (by assumption)
    | (split)
    | dsimp only
    | (rw [Dev.mk_tag]; (with_reducible apply K.mk_log); rotate_left; decide)
    | (rw [Dev.mk_tag]; (with_reducible apply K.mk_cal); rotate_left; decide)
    | (rw [Dev.mk_tag]; (with_reducible apply K.mkT); rotate_left; (intro p hq; cases p <;> first | exact absurd hq (by decide) | rfl | exact ⟨rfl, rfl⟩ | exact fun _ => ⟨rfl, rfl⟩); exact fun w => w)

theorem Foot.tsEnd {e d : Dev} {pm rm : Nat} {timeout : Bool} (h : K e d pm rm) (hp : sub 0x10002 pm = true)
    (hr : sub 0x4a8000000000000000000000000000000000000000000000000000000000000000000080000 rm = true) : K e (Dev.tsEnd d timeout) pm rm := by
  refine K.lift h hp hr ?_
  clear h hp hr
  unfold Dev.tsEnd
  extract_lets x1 x2 x3 x4 x5 x6 x7 x8 x9
  clear_value (g1 : x1 = _) (g2 : x2 = _) (g3 : x3 = _) (g4 : x4 = _) (g5 : x5 = _) (g6 : x6 = _) (g7 : x7 = _) (g8 : x8 = _) (g9 : x9 = _)
  clear g1
  clear g2
  clear g3
  clear g4
  clear g5
  clear g6
  clear g7
  subst g8
  refine K.cutEq d 0x10002 0x4a8000000000000000000000000000000000000000000000000000000000000000000080000 g9 ?_ (fun h9 => ?_)
  rotate_left
  clear g9
  all_goals repeat' first
    | with_reducible exact K.refl _ _ _
    | with_reducible assumption
    | ((with_reducible apply Foot.calReject); rotate_left; decide; decide)
    | ((with_reducible apply Foot.anchorAdd); rotate_left; decide; decide)
    | ((with_reducible apply Foot.tsJudge); rotate_left; decide; decide)
    | with_reducible apply K.ite
    | ((with_reducible apply K.each); rotate_left; intro d x h; rotate_right)
    | ((with_reducible apply K.foldl); rotate_left; intro d x h; rotate_right)
    | ((with_reducible apply K.foldlFst); rotate_left; intro x y h; rotate_right)
    | ((with_reducible apply K.foldlSnd); rotate_left; intro x y h; rotate_right)
    | with_reducible apply K.fst_ite
    | with_reducible apply K.cond
    | with_reducible refine K.of_fst ?_ (by assumption)
    | with_reducible refine K.of_snd ?_ (by assumption)
    | (split)
    | dsimp only
    | (rw [Dev.mk_tag]; (with_reducible apply K.mk_log); rotate_left; decide)
    | (rw [Dev.mk_tag]; (with_reducible apply K.mk_cal); rotate_left; decide)
    | (rw [Dev.mk_tag]; (with_reducible apply K.mkT); rotate_left; (intro p hq; cases p <;> first | exact absurd hq (by decide) | rfl | exact ⟨rfl, rfl⟩ | exact fun _ => ⟨rfl, rfl⟩); exact fun w => w)

theorem Foot.mr4Read {e d : Dev} {pm rm : Nat} {reports : List Mr4Report} (h : K e d pm rm) (hp : sub 0x10002 pm = true)
    (hr : sub 0x80080000000000000000000000000000000000000000080000 rm = true) : K e (Dev.mr4Read d reports) pm rm := by
  refine K.lift h hp hr ?_
  clear h hp hr
  unfold Dev.mr4Read
  extract_lets x1 x2 x3 x4
  clear_value (g1 : x1 = _) (g2 : x2 = _) (g3 : x3 = _) (g4 : x4 = _)
  clear g1
  refine K.cutEq d 0x10002 0x80080000000000000000000000000000000000000000080000 g2 ?_ (fun h2 => ?_)
  rotate_left
  clear g2
  clear g3
  subst g4
  all_goals repeat' first
    | with_reducible exact K.refl _ _ _
    | with_reducible assumption
    | ((with_reducible apply Foot.mr4); rotate_left; decide; decide)
    | with_reducible apply K.ite
    | ((with_reducible apply K.foldl); rotate_left; intro d x h; rotate_right)
    | ((with_reducible apply K.foldlFst); rotate_left; intro x y h; rotate_right)
    | ((with_reducible apply K.foldlSnd); rotate_left; intro x y h; rotate_right)
    | with_reducible apply K.fst_ite
    | with_reducible apply K.cond
    | with_reducible refine K.of_fst ?_ (by assumption)
    | with_reducible refine K.of_snd ?_ (by assumption)
    | (split)
    | dsimp only
    | (rw [Dev.mk_tag]; (with_reducible apply K.mk_log); rotate_left; decide)
    | (rw [Dev.mk_tag]; (with_reducible apply K.mk_cal); rotate_left; decide)
    | (rw [Dev.mk_tag]; (with_reducible apply K.mkT); rotate_left; (intro p hq; cases p <;> first | exact absurd hq (by decide) | rfl | exact ⟨rfl, rfl⟩ | exact fun _ => ⟨rfl, rfl⟩); exact fun w => w)

theorem Foot.eqStep {e d : Dev} {pm rm : Nat} {p : Nat} {l : Nat} {taps : Nat} {errors : Bool} (h : K e d pm rm) (hp : sub 0x10002 pm = true)
    (hr : sub 0xa8000000000000000000000000000000000000000000000000000000000000000000080000 rm = true) : K e (Dev.eqStep d p l taps errors) pm rm := by
  refine K.lift h hp hr ?_
  clear h hp hr
  unfold Dev.eqStep
  extract_lets x1 x2 x3 x4 x5 x6 x7
  clear_value (g1 : x1 = _) (g2 : x2 = _) (g3 : x3 = _) (g4 : x4 = _) (g5 : x5 = _) (g6 : x6 = _) (g7 : x7 = _)
  clear g1
  clear g2
  refine K.cutEq d 0x10002 0xa8000000000000000000000000000000000000000000000000000000000000000000080000 g3 ?_ (fun h3 => ?_)
  rotate_left
  clear g3
  subst g4
  refine K.cutEq d 0x10002 0xa8000000000000000000000000000000000000000000000000000000000000000000080000 g5 ?_ (fun h5 => ?_)
  rotate_left
  clear g5
  subst g6
  subst g7
  all_goals repeat' first
    | with_reducible exact K.refl _ _ _
    | with_reducible assumption
    | ((with_reducible apply K.raiseIf); rotate_left; (first | assumption | exact R.mem_CAL_EVENT | exact R.mem_RX_PORT_STATUS); decide; decide; decide)
    | ((with_reducible apply Foot.calReject); rotate_left; decide; decide)
    | ((with_reducible apply Foot.calAccept); rotate_left; decide; decide)
    | with_reducible apply K.ite
    | ((with_reducible apply K.foldl); rotate_left; intro d x h; rotate_right)
    | ((with_reducible apply K.foldlFst); rotate_left; intro x y h; rotate_right)
    | ((with_reducible apply K.foldlSnd); rotate_left; intro x y h; rotate_right)
    | with_reducible apply K.fst_ite
    | with_reducible apply K.cond
    | with_reducible refine K.of_fst ?_ (by assumption)
    | with_reducible refine K.of_snd ?_ (by assumption)
    | (split)
    | dsimp only
    | (rw [Dev.mk_tag]; (with_reducible apply K.mk_log); rotate_left; decide)
    | (rw [Dev.mk_tag]; (with_reducible apply K.mk_cal); rotate_left; decide)
    | (rw [Dev.mk_tag]; (with_reducible apply K.mkT); rotate_left; (intro p hq; cases p <;> first | exact absurd hq (by decide) | rfl | exact ⟨rfl, rfl⟩ | exact fun _ => ⟨rfl, rfl⟩); exact fun w => w)

theorem Foot.calFwReport {e d : Dev} {pm rm : Nat} {zone : Nat} {reason : Nat} (h : K e d pm rm) (hp : sub 0x10002 pm = true)
    (hr : sub 0xa8000000000000000000000000000000000000000000000000000000000000000000080000 rm = true) : K e (Dev.calFwReport d zone reason) pm rm := by
  refine K.lift h hp hr ?_
  clear h hp hr
  unfold Dev.calFwReport
  all_goals repeat' first
    | with_reducible exact K.refl _ _ _
    | with_reducible assumption
    | ((with_reducible apply Foot.calReject); rotate_left; decide; decide)
    | with_reducible apply K.ite
    | ((with_reducible apply K.foldl); rotate_left; intro d x h; rotate_right)
    | ((with_reducible apply K.foldlFst); rotate_left; intro x y h; rotate_right)
    | ((with_reducible apply K.foldlSnd); rotate_left; intro x y h; rotate_right)
    | with_reducible apply K.fst_ite
    | with_reducible apply K.cond
    | with_reducible refine K.of_fst ?_ (by assumption)
    | with_reducible refine K.of_snd ?_ (by assumption)
    | (split)
    | dsimp only
    | (rw [Dev.mk_tag]; (with_reducible apply K.mk_log); rotate_left; decide)
    | (rw [Dev.mk_tag]; (with_reducible apply K.mk_cal); rotate_left; decide)
    | (rw [Dev.mk_tag]; (with_reducible apply K.mkT); rotate_left; (intro p hq; cases p <;> first | exact absurd hq (by decide) | rfl | exact ⟨rfl, rfl⟩ | exact fun _ => ⟨rfl, rfl⟩); exact fun w => w)

theorem Foot.calEnWrite {e d : Dev} {pm rm : Nat} {en : Nat} (h : K e d pm rm) (hp : sub 0x10000 pm = true)
    (hr : sub 0x4000000000000000000000000000000000000000000000000000000000000000000000000 rm = true) : K e (Dev.calEnWrite d en) pm rm := by
  refine K.lift h hp hr ?_
  clear h hp hr
  unfold Dev.calEnWrite
  extract_lets x1 x2 x3
  clear_value (g1 : x1 = _) (g2 : x2 = _) (g3 : x3 = _)
  refine K.cutEq d 0x10000 0x4000000000000000000000000000000000000000000000000000000000000000000000000 g1 ?_ (fun h1 => ?_)
  rotate_left
  clear g1
  subst g2
  subst g3
  all_goals repeat' first
    | with_reducible exact K.refl _ _ _
    | with_reducible assumption
    | ((with_reducible apply K.put); rotate_left; (first | assumption | exact R.mem_CAL_CTRL); decide)
    | with_reducible apply K.ite
    | ((with_reducible apply K.foldl); rotate_left; intro d x h; rotate_right)
    | ((with_reducible apply K.foldlFst); rotate_left; intro x y h; rotate_right)
    | ((with_reducible apply K.foldlSnd); rotate_left; intro x y h; rotate_right)
    | with_reducible apply K.fst_ite
    | with_reducible apply K.cond
    | with_reducible refine K.of_fst ?_ (by assumption)
    | with_reducible refine K.of_snd ?_ (by assumption)
    | (split)
    | dsimp only
    | (rw [Dev.mk_tag]; (with_reducible apply K.mk_cal); rotate_left; decide)
    | (rw [Dev.mk_tag]; (with_reducible apply K.mkT); rotate_left; (intro p hq; cases p <;> first | exact absurd hq (by decide) | rfl | exact ⟨rfl, rfl⟩ | exact fun _ => ⟨rfl, rfl⟩); exact fun w => w)

end Sys2Proof.Machine
end

