-- ==== Sys2Proof/Laws/FootDaleExt.lean ====
section
/-! SUPPORT.  Footprints of the functions of `Machine/DaleExt.lean` (see `Keep.lean`): what each leaves alone. -/

set_option Elab.async false
set_option linter.all false

namespace Sys2Proof.Machine

theorem Foot.dlsstat {e d : Dev} {pm rm : Nat} {k0 : Nat} {bitNo : Nat} {word : Option Nat} (h : K e d pm rm) (hp : sub 0x200004000 pm = true)
    (hr : sub 0x0 rm = true) : K e (Dev.dlsstat d k0 bitNo word) pm rm := by
  refine K.lift h hp hr ?_
  clear h hp hr
  unfold Dev.dlsstat
  extract_lets x1
  clear_value (g1 : x1 = _)
  refine K.cutEq d 0x200004000 0x0 g1 ?_ (fun h1 => ?_)
  rotate_left
  clear g1
  all_goals repeat' first
    | with_reducible exact K.refl _ _ _
    | with_reducible assumption
    | ((with_reducible apply K.setDale); rotate_left; decide; exact fun _ => ⟨rfl, rfl⟩)
    | ((with_reducible apply K.setDaleMem); rotate_left; decide; decide; (intro c w; first | exact w | exact ⟨Memory.wf_write _ _ w.1, w.2⟩ | exact ⟨w.1, Memory.wf_write _ _ w.2⟩ | (dsimp only; split <;> first | exact ⟨Memory.wf_write _ _ w.1, w.2⟩ | exact ⟨w.1, Memory.wf_write _ _ w.2⟩)))
    | ((with_reducible apply Foot.daleEvent); rotate_left; decide; decide)
    | with_reducible apply K.ite
    | ((with_reducible apply K.foldl); rotate_left; intro d x h; rotate_right)
    | ((with_reducible apply K.foldlFst); rotate_left; intro x y h; rotate_right)
    | ((with_reducible apply K.foldlSnd); rotate_left; intro x y h; rotate_right)
    | with_reducible apply K.fst_ite
    | with_reducible apply K.cond
    | with_reducible refine K.of_fst ?_ (by assumption)
    | with_reducible refine K.of_snd ?_ (by assumption)
    | (split)
    | dsimp only
    | (rw [Dev.mk_tag]; (with_reducible apply K.mk_sched); rotate_left; decide; (first | exact .inl rfl | exact .inr ⟨by decide, by (intro w; first | exact w | exact Memory.wf_write _ _ w | exact Memory.wf_clear _ _ w | exact Memory.wf_filter _ w | exact Memory.wf_set _ _ w)⟩); (first | exact .inl rfl | exact .inr ⟨by decide, by (intro w p hp; obtain ⟨q, hq, rfl⟩ := List.mem_map.1 hp; exact w q hq)⟩))
    | (rw [Dev.mk_tag]; (with_reducible apply K.mkT); rotate_left; (intro p hq; cases p <;> first | exact absurd hq (by decide) | rfl | exact ⟨rfl, rfl⟩ | exact fun _ => ⟨rfl, rfl⟩); exact fun w => w)

theorem Foot.daleDone {e d : Dev} {pm rm : Nat} {k0 : Nat} {len : Nat} {rd : Nat} {v : Word} (h : K e d pm rm) (hp : sub 0x200004000 pm = true)
    (hr : sub 0x0 rm = true) : K e (Dev.daleDone d k0 len rd v) pm rm := by
  refine K.lift h hp hr ?_
  clear h hp hr
  unfold Dev.daleDone
  all_goals repeat' first
    | with_reducible exact K.refl _ _ _
    | with_reducible assumption
    | ((with_reducible apply K.setDale); rotate_left; decide; exact fun _ => ⟨rfl, rfl⟩)
    | ((with_reducible apply K.setDaleMem); rotate_left; decide; decide; (intro c w; first | exact w | exact ⟨Memory.wf_write _ _ w.1, w.2⟩ | exact ⟨w.1, Memory.wf_write _ _ w.2⟩ | (dsimp only; split <;> first | exact ⟨Memory.wf_write _ _ w.1, w.2⟩ | exact ⟨w.1, Memory.wf_write _ _ w.2⟩)))
    | with_reducible apply K.ite
    | ((with_reducible apply K.foldl); rotate_left; intro d x h; rotate_right)
    | ((with_reducible apply K.foldlFst); rotate_left; intro x y h; rotate_right)
    | ((with_reducible apply K.foldlSnd); rotate_left; intro x y h; rotate_right)
    | with_reducible apply K.fst_ite
    | with_reducible apply K.cond
    | with_reducible refine K.of_fst ?_ (by assumption)
    | with_reducible refine K.of_snd ?_ (by assumption)
    | (split)
    | dsimp only
    | (rw [Dev.mk_tag]; (with_reducible apply K.mk_sched); rotate_left; decide; (first | exact .inl rfl | exact .inr ⟨by decide, by (intro w; first | exact w | exact Memory.wf_write _ _ w | exact Memory.wf_clear _ _ w | exact Memory.wf_filter _ w | exact Memory.wf_set _ _ w)⟩); (first | exact .inl rfl | exact .inr ⟨by decide, by (intro w p hp; obtain ⟨q, hq, rfl⟩ := List.mem_map.1 hp; exact w q hq)⟩))
    | (rw [Dev.mk_tag]; (with_reducible apply K.mkT); rotate_left; (intro p hq; cases p <;> first | exact absurd hq (by decide) | rfl | exact ⟨rfl, rfl⟩ | exact fun _ => ⟨rfl, rfl⟩); exact fun w => w)

theorem Foot.daleUncorr {e d : Dev} {pm rm : Nat} {k0 : Nat} {exc : Nat} {tval : Word} (h : K e d pm rm) (hp : sub 0x30000400a pm = true)
    (hr : sub 0x80000000000000000000000000000000000000000000000013000400000000000080000 rm = true) : K e (Dev.daleUncorr d k0 exc tval) pm rm := by
  refine K.lift h hp hr ?_
  clear h hp hr
  unfold Dev.daleUncorr
  all_goals repeat' first
    | with_reducible exact K.refl _ _ _
    | with_reducible assumption
    | ((with_reducible apply Foot.jobFault); rotate_left; decide; decide)
    | ((with_reducible apply Foot.daleTrap); rotate_left; decide; decide)
    | with_reducible apply K.ite
    | ((with_reducible apply K.foldl); rotate_left; intro d x h; rotate_right)
    | ((with_reducible apply K.foldlFst); rotate_left; intro x y h; rotate_right)
    | ((with_reducible apply K.foldlSnd); rotate_left; intro x y h; rotate_right)
    | with_reducible apply K.fst_ite
    | with_reducible apply K.cond
    | with_reducible refine K.of_fst ?_ (by assumption)
    | with_reducible refine K.of_snd ?_ (by assumption)
    | (split)
    | dsimp only
    | (rw [Dev.mk_tag]; (with_reducible apply K.mk_log); rotate_left; decide)
    | (rw [Dev.mk_tag]; (with_reducible apply K.mk_pwr); rotate_left; decide)
    | (rw [Dev.mk_tag]; (with_reducible apply K.mk_sched); rotate_left; decide; (first | exact .inl rfl | exact .inr ⟨by decide, by (intro w; first | exact w | exact Memory.wf_write _ _ w | exact Memory.wf_clear _ _ w | exact Memory.wf_filter _ w | exact Memory.wf_set _ _ w)⟩); (first | exact .inl rfl | exact .inr ⟨by decide, by (intro w p hp; obtain ⟨q, hq, rfl⟩ := List.mem_map.1 hp; exact w q hq)⟩))
    | (rw [Dev.mk_tag]; (with_reducible apply K.mkT); rotate_left; (intro p hq; cases p <;> first | exact absurd hq (by decide) | rfl | exact ⟨rfl, rfl⟩ | exact fun _ => ⟨rfl, rfl⟩); exact fun w => w)

theorem Foot.daleRead {e d : Dev} {pm rm : Nat} {k0 : Nat} {a : Nat} {n : Nat} {ecc : Nat} {exc : optParam Nat excLoadFault} {f : Dev → List Byte → Dev} (h : K e d pm rm) (hp : sub 0x30000400a pm = true)
    (hr : sub 0x80000000000000000000000000000000000000000000000013000400000000000080000 rm = true) (hf_f : ∀ d' y'1, K e d' pm rm → K e (f d' y'1) pm rm) : K e (Dev.daleRead d k0 a n ecc exc f) pm rm := by
  unfold Dev.daleRead
  all_goals repeat' first
    | with_reducible apply hf_f
    | with_reducible exact K.refl _ _ _
    | with_reducible assumption
    | ((with_reducible apply Foot.glenMeet); rotate_left; (first | decide | assumption | exact sub_trans (by decide) hp | exact sub_trans (by decide) hr | exact sub_testBit' hp (by decide) | exact sub_testBit' hr (by decide)); (first | decide | assumption | exact sub_trans (by decide) hp | exact sub_trans (by decide) hr | exact sub_testBit' hp (by decide) | exact sub_testBit' hr (by decide)))
    | ((with_reducible apply Foot.glenUpset); rotate_left; (first | decide | assumption | exact sub_trans (by decide) hp | exact sub_trans (by decide) hr | exact sub_testBit' hp (by decide) | exact sub_testBit' hr (by decide)); (first | decide | assumption | exact sub_trans (by decide) hp | exact sub_trans (by decide) hr | exact sub_testBit' hp (by decide) | exact sub_testBit' hr (by decide)))
    | ((with_reducible apply Foot.daleUncorr); rotate_left; (first | decide | assumption | exact sub_trans (by decide) hp | exact sub_trans (by decide) hr | exact sub_testBit' hp (by decide) | exact sub_testBit' hr (by decide)); (first | decide | assumption | exact sub_trans (by decide) hp | exact sub_trans (by decide) hr | exact sub_testBit' hp (by decide) | exact sub_testBit' hr (by decide)))
    | with_reducible apply K.ite
    | ((with_reducible apply K.foldl); rotate_left; intro d x h; rotate_right)
    | ((with_reducible apply K.foldlFst); rotate_left; intro x y h; rotate_right)
    | ((with_reducible apply K.foldlSnd); rotate_left; intro x y h; rotate_right)
    | with_reducible apply K.fst_ite
    | with_reducible apply K.cond
    | with_reducible refine K.of_fst ?_ (by assumption)
    | with_reducible refine K.of_snd ?_ (by assumption)
    | (split)
    | dsimp only
    | (rw [Dev.mk_tag]; (with_reducible apply K.mk_log); rotate_left; (first | decide | assumption | exact sub_trans (by decide) hp | exact sub_trans (by decide) hr | exact sub_testBit' hp (by decide) | exact sub_testBit' hr (by decide)))
    | (rw [Dev.mk_tag]; (with_reducible apply K.mk_pwr); rotate_left; (first | decide | assumption | exact sub_trans (by decide) hp | exact sub_trans (by decide) hr | exact sub_testBit' hp (by decide) | exact sub_testBit' hr (by decide)))
    | (rw [Dev.mk_tag]; (with_reducible apply K.mk_sched); rotate_left; (first | decide | assumption | exact sub_trans (by decide) hp | exact sub_trans (by decide) hr | exact sub_testBit' hp (by decide) | exact sub_testBit' hr (by decide)); (first | exact .inl rfl | exact .inr ⟨by (first | decide | assumption | exact sub_trans (by decide) hp | exact sub_trans (by decide) hr | exact sub_testBit' hp (by decide) | exact sub_testBit' hr (by decide)), by (intro w; first | exact w | exact Memory.wf_write _ _ w | exact Memory.wf_clear _ _ w | exact Memory.wf_filter _ w | exact Memory.wf_set _ _ w)⟩); (first | exact .inl rfl | exact .inr ⟨by (first | decide | assumption | exact sub_trans (by decide) hp | exact sub_trans (by decide) hr | exact sub_testBit' hp (by decide) | exact sub_testBit' hr (by decide)), by (intro w p hp; obtain ⟨q, hq, rfl⟩ := List.mem_map.1 hp; exact w q hq)⟩))
    | (rw [Dev.mk_tag]; (with_reducible apply K.mkT); rotate_left; (intro p hq; cases p <;> first | exact absurd hq (by (first | decide | assumption | exact sub_trans (by decide) hp | exact sub_trans (by decide) hr | exact sub_testBit' hp (by decide) | exact sub_testBit' hr (by decide))) | rfl | exact ⟨rfl, rfl⟩ | exact fun _ => ⟨rfl, rfl⟩); exact fun w => w)

theorem Foot.luti {e d : Dev} {pm rm : Nat} {k0 : Nat} {rd : Nat} {rs1 : Nat} {rs2 : Nat} {s : Nat} {ecc : Nat} (h : K e d pm rm) (hp : sub 0x30000400a pm = true)
    (hr : sub 0x80000000000000000000000000000000000000000000000013000400000000000080000 rm = true) : K e (Dev.luti d k0 rd rs1 rs2 s ecc) pm rm := by
  refine K.lift h hp hr ?_
  clear h hp hr
  unfold Dev.luti
  extract_lets x1 x2 x3
  clear_value (g1 : x1 = _) (g2 : x2 = _) (g3 : x3 = _)
  clear g1
  clear g2
  clear g3
  all_goals repeat' first
    | with_reducible exact K.refl _ _ _
    | with_reducible assumption
    | ((with_reducible apply Foot.daleTrap); rotate_left; decide; decide)
    | ((with_reducible apply Foot.daleRead); rotate_left; decide; decide; intro d y h; rotate_right)
    | ((with_reducible apply Foot.daleDone); rotate_left; decide; decide)
    | with_reducible apply K.ite
    | ((with_reducible apply K.foldl); rotate_left; intro d x h; rotate_right)
    | ((with_reducible apply K.foldlFst); rotate_left; intro x y h; rotate_right)
    | ((with_reducible apply K.foldlSnd); rotate_left; intro x y h; rotate_right)
    | with_reducible apply K.fst_ite
    | with_reducible apply K.cond
    | with_reducible refine K.of_fst ?_ (by assumption)
    | with_reducible refine K.of_snd ?_ (by assumption)
    | (split)
    | dsimp only
    | (rw [Dev.mk_tag]; (with_reducible apply K.mk_log); rotate_left; decide)
    | (rw [Dev.mk_tag]; (with_reducible apply K.mk_pwr); rotate_left; decide)
    | (rw [Dev.mk_tag]; (with_reducible apply K.mk_sched); rotate_left; decide; (first | exact .inl rfl | exact .inr ⟨by decide, by (intro w; first | exact w | exact Memory.wf_write _ _ w | exact Memory.wf_clear _ _ w | exact Memory.wf_filter _ w | exact Memory.wf_set _ _ w)⟩); (first | exact .inl rfl | exact .inr ⟨by decide, by (intro w p hp; obtain ⟨q, hq, rfl⟩ := List.mem_map.1 hp; exact w q hq)⟩))
    | (rw [Dev.mk_tag]; (with_reducible apply K.mkT); rotate_left; (intro p hq; cases p <;> first | exact absurd hq (by decide) | rfl | exact ⟨rfl, rfl⟩ | exact fun _ => ⟨rfl, rfl⟩); exact fun w => w)

theorem Foot.hacc {e d : Dev} {pm rm : Nat} {k0 : Nat} {rd : Nat} {rs1 : Nat} {rs3 : Nat} {weight : Option Nat} {ecc : Nat} (h : K e d pm rm) (hp : sub 0x30000402a pm = true)
    (hr : sub 0x8000000000000000000000000281a800000000000000000013000400000000000080000 rm = true) : K e (Dev.hacc d k0 rd rs1 rs3 weight ecc) pm rm := by
  refine K.lift h hp hr ?_
  clear h hp hr
  unfold Dev.hacc
  extract_lets x1 x2 x3
  clear_value (g1 : x1 = _) (g2 : x2 = _) (g3 : x3 = _)
  clear g1
  subst g2
  subst g3
  all_goals repeat' first
    | with_reducible exact K.refl _ _ _
    | with_reducible assumption
    | ((with_reducible apply Foot.daleTrap); rotate_left; decide; decide)
    | ((with_reducible apply Foot.daleDone); rotate_left; decide; decide)
    | ((with_reducible apply Foot.daleRead); rotate_left; decide; decide; intro d y h; rotate_right)
    | ((with_reducible apply Foot.startWake); rotate_left; decide; decide)
    | ((with_reducible apply Foot.lsReadWord); rotate_left; decide; decide)
    | with_reducible apply K.ite
    | ((with_reducible apply K.foldl); rotate_left; intro d x h; rotate_right)
    | ((with_reducible apply K.foldlFst); rotate_left; intro x y h; rotate_right)
    | ((with_reducible apply K.foldlSnd); rotate_left; intro x y h; rotate_right)
    | with_reducible apply K.fst_ite
    | with_reducible apply K.cond
    | with_reducible refine K.of_fst ?_ (by assumption)
    | with_reducible refine K.of_snd ?_ (by assumption)
    | (split)
    | dsimp only
    | (rw [Dev.mk_tag]; (with_reducible apply K.mk_log); rotate_left; decide)
    | (rw [Dev.mk_tag]; (with_reducible apply K.mk_pwr); rotate_left; decide)
    | (rw [Dev.mk_tag]; (with_reducible apply K.mk_ls); rotate_left; decide; (first | exact .inl rfl | exact .inl ⟨rfl, rfl⟩ | exact .inr ⟨by decide, by (intro w; first | exact w | exact Memory.wf_write _ _ w | exact Memory.wf_clear _ _ w | exact Memory.wf_filter _ w | exact Memory.wf_set _ _ w)⟩))
    | (rw [Dev.mk_tag]; (with_reducible apply K.mk_sched); rotate_left; decide; (first | exact .inl rfl | exact .inr ⟨by decide, by (intro w; first | exact w | exact Memory.wf_write _ _ w | exact Memory.wf_clear _ _ w | exact Memory.wf_filter _ w | exact Memory.wf_set _ _ w)⟩); (first | exact .inl rfl | exact .inr ⟨by decide, by (intro w p hp; obtain ⟨q, hq, rfl⟩ := List.mem_map.1 hp; exact w q hq)⟩))
    | (rw [Dev.mk_tag]; (with_reducible apply K.mkT); rotate_left; (intro p hq; cases p <;> first | exact absurd hq (by decide) | rfl | exact ⟨rfl, rfl⟩ | exact fun _ => ⟨rfl, rfl⟩); exact fun w => w)

theorem Foot.dmaq {e d : Dev} {pm rm : Nat} {k0 : Nat} {rd : Nat} {rs1 : Nat} {ecc : Nat} (h : K e d pm rm) (hp : sub 0x30000400a pm = true)
    (hr : sub 0x80000000000000000000000000000000000000000000000013000400000000000080000 rm = true) : K e (Dev.dmaq d k0 rd rs1 ecc) pm rm := by
  refine K.lift h hp hr ?_
  clear h hp hr
  unfold Dev.dmaq
  extract_lets x1
  clear_value (g1 : x1 = _)
  clear g1
  all_goals repeat' first
    | with_reducible exact K.refl _ _ _
    | with_reducible assumption
    | ((with_reducible apply K.setDale); rotate_left; decide; exact fun _ => ⟨rfl, rfl⟩)
    | ((with_reducible apply K.setDaleMem); rotate_left; decide; decide; (intro c w; first | exact w | exact ⟨Memory.wf_write _ _ w.1, w.2⟩ | exact ⟨w.1, Memory.wf_write _ _ w.2⟩ | (dsimp only; split <;> first | exact ⟨Memory.wf_write _ _ w.1, w.2⟩ | exact ⟨w.1, Memory.wf_write _ _ w.2⟩)))
    | ((with_reducible apply Foot.daleTrap); rotate_left; decide; decide)
    | ((with_reducible apply Foot.daleRead); rotate_left; decide; decide; intro d y h; rotate_right)
    | ((with_reducible apply Foot.daleDone); rotate_left; decide; decide)
    | ((with_reducible apply Foot.dmaStart); rotate_left; decide; decide)
    | with_reducible apply K.ite
    | ((with_reducible apply K.foldl); rotate_left; intro d x h; rotate_right)
    | ((with_reducible apply K.foldlFst); rotate_left; intro x y h; rotate_right)
    | ((with_reducible apply K.foldlSnd); rotate_left; intro x y h; rotate_right)
    | with_reducible apply K.fst_ite
    | with_reducible apply K.cond
    | with_reducible refine K.of_fst ?_ (by assumption)
    | with_reducible refine K.of_snd ?_ (by assumption)
    | (split)
    | dsimp only
    | (rw [Dev.mk_tag]; (with_reducible apply K.mk_log); rotate_left; decide)
    | (rw [Dev.mk_tag]; (with_reducible apply K.mk_pwr); rotate_left; decide)
    | (rw [Dev.mk_tag]; (with_reducible apply K.mk_sched); rotate_left; decide; (first | exact .inl rfl | exact .inr ⟨by decide, by (intro w; first | exact w | exact Memory.wf_write _ _ w | exact Memory.wf_clear _ _ w | exact Memory.wf_filter _ w | exact Memory.wf_set _ _ w)⟩); (first | exact .inl rfl | exact .inr ⟨by decide, by (intro w p hp; obtain ⟨q, hq, rfl⟩ := List.mem_map.1 hp; exact w q hq)⟩))
    | (rw [Dev.mk_tag]; (with_reducible apply K.mkT); rotate_left; (intro p hq; cases p <;> first | exact absurd hq (by decide) | rfl | exact ⟨rfl, rfl⟩ | exact fun _ => ⟨rfl, rfl⟩); exact fun w => w)

theorem Foot.dmaw {e d : Dev} {pm rm : Nat} {k0 : Nat} {rd : Nat} {rs1 : Nat} (h : K e d pm rm) (hp : sub 0x200004000 pm = true)
    (hr : sub 0x0 rm = true) : K e (Dev.dmaw d k0 rd rs1) pm rm := by
  refine K.lift h hp hr ?_
  clear h hp hr
  unfold Dev.dmaw
  extract_lets x1
  clear_value (g1 : x1 = _)
  clear g1
  all_goals repeat' first
    | with_reducible exact K.refl _ _ _
    | with_reducible assumption
    | ((with_reducible apply Foot.daleDone); rotate_left; decide; decide)
    | with_reducible apply K.ite
    | ((with_reducible apply K.foldl); rotate_left; intro d x h; rotate_right)
    | ((with_reducible apply K.foldlFst); rotate_left; intro x y h; rotate_right)
    | ((with_reducible apply K.foldlSnd); rotate_left; intro x y h; rotate_right)
    | with_reducible apply K.fst_ite
    | with_reducible apply K.cond
    | with_reducible refine K.of_fst ?_ (by assumption)
    | with_reducible refine K.of_snd ?_ (by assumption)
    | (split)
    | dsimp only
    | (rw [Dev.mk_tag]; (with_reducible apply K.mk_sched); rotate_left; decide; (first | exact .inl rfl | exact .inr ⟨by decide, by (intro w; first | exact w | exact Memory.wf_write _ _ w | exact Memory.wf_clear _ _ w | exact Memory.wf_filter _ w | exact Memory.wf_set _ _ w)⟩); (first | exact .inl rfl | exact .inr ⟨by decide, by (intro w p hp; obtain ⟨q, hq, rfl⟩ := List.mem_map.1 hp; exact w q hq)⟩))
    | (rw [Dev.mk_tag]; (with_reducible apply K.mkT); rotate_left; (intro p hq; cases p <;> first | exact absurd hq (by decide) | rfl | exact ⟨rfl, rfl⟩ | exact fun _ => ⟨rfl, rfl⟩); exact fun w => w)

theorem Foot.jend {e d : Dev} {pm rm : Nat} {k0 : Nat} {rs1 : Nat} (h : K e d pm rm) (hp : sub 0x30000400a pm = true)
    (hr : sub 0x80000000000000000000000000000000000000000000000013000400000000000080000 rm = true) : K e (Dev.jend d k0 rs1) pm rm := by
  refine K.lift h hp hr ?_
  clear h hp hr
  unfold Dev.jend
  extract_lets x1
  clear_value (g1 : x1 = _)
  clear g1
  all_goals repeat' first
    | with_reducible exact K.refl _ _ _
    | with_reducible assumption
    | ((with_reducible apply K.setDale); rotate_left; decide; exact fun _ => ⟨rfl, rfl⟩)
    | ((with_reducible apply K.setDaleMem); rotate_left; decide; decide; (intro c w; first | exact w | exact ⟨Memory.wf_write _ _ w.1, w.2⟩ | exact ⟨w.1, Memory.wf_write _ _ w.2⟩ | (dsimp only; split <;> first | exact ⟨Memory.wf_write _ _ w.1, w.2⟩ | exact ⟨w.1, Memory.wf_write _ _ w.2⟩)))
    | ((with_reducible apply Foot.daleTrap); rotate_left; decide; decide)
    | ((with_reducible apply Foot.jobFault); rotate_left; decide; decide)
    | with_reducible apply K.ite
    | ((with_reducible apply K.foldl); rotate_left; intro d x h; rotate_right)
    | ((with_reducible apply K.foldlFst); rotate_left; intro x y h; rotate_right)
    | ((with_reducible apply K.foldlSnd); rotate_left; intro x y h; rotate_right)
    | with_reducible apply K.fst_ite
    | with_reducible apply K.cond
    | with_reducible refine K.of_fst ?_ (by assumption)
    | with_reducible refine K.of_snd ?_ (by assumption)
    | (split)
    | dsimp only
    | (rw [Dev.mk_tag]; (with_reducible apply K.mk_log); rotate_left; decide)
    | (rw [Dev.mk_tag]; (with_reducible apply K.mk_pwr); rotate_left; decide)
    | (rw [Dev.mk_tag]; (with_reducible apply K.mk_sched); rotate_left; decide; (first | exact .inl rfl | exact .inr ⟨by decide, by (intro w; first | exact w | exact Memory.wf_write _ _ w | exact Memory.wf_clear _ _ w | exact Memory.wf_filter _ w | exact Memory.wf_set _ _ w)⟩); (first | exact .inl rfl | exact .inr ⟨by decide, by (intro w p hp; obtain ⟨q, hq, rfl⟩ := List.mem_map.1 hp; exact w q hq)⟩))
    | (rw [Dev.mk_tag]; (with_reducible apply K.mkT); rotate_left; (intro p hq; cases p <;> first | exact absurd hq (by decide) | rfl | exact ⟨rfl, rfl⟩ | exact fun _ => ⟨rfl, rfl⟩); exact fun w => w)

theorem Foot.wfe {e d : Dev} {pm rm : Nat} {k0 : Nat} {rd : Nat} {rs1 : Nat} (h : K e d pm rm) (hp : sub 0x200004000 pm = true)
    (hr : sub 0x0 rm = true) : K e (Dev.wfe d k0 rd rs1) pm rm := by
  refine K.lift h hp hr ?_
  clear h hp hr
  unfold Dev.wfe
  extract_lets x1 x2
  clear_value (g1 : x1 = _) (g2 : x2 = _)
  clear g1
  clear g2
  all_goals repeat' first
    | with_reducible exact K.refl _ _ _
    | with_reducible assumption
    | ((with_reducible apply K.setDale); rotate_left; decide; exact fun _ => ⟨rfl, rfl⟩)
    | ((with_reducible apply K.setDaleMem); rotate_left; decide; decide; (intro c w; first | exact w | exact ⟨Memory.wf_write _ _ w.1, w.2⟩ | exact ⟨w.1, Memory.wf_write _ _ w.2⟩ | (dsimp only; split <;> first | exact ⟨Memory.wf_write _ _ w.1, w.2⟩ | exact ⟨w.1, Memory.wf_write _ _ w.2⟩)))
    | ((with_reducible apply Foot.daleDone); rotate_left; decide; decide)
    | with_reducible apply K.ite
    | ((with_reducible apply K.foldl); rotate_left; intro d x h; rotate_right)
    | ((with_reducible apply K.foldlFst); rotate_left; intro x y h; rotate_right)
    | ((with_reducible apply K.foldlSnd); rotate_left; intro x y h; rotate_right)
    | with_reducible apply K.fst_ite
    | with_reducible apply K.cond
    | with_reducible refine K.of_fst ?_ (by assumption)
    | with_reducible refine K.of_snd ?_ (by assumption)
    | (split)
    | dsimp only
    | (rw [Dev.mk_tag]; (with_reducible apply K.mk_sched); rotate_left; decide; (first | exact .inl rfl | exact .inr ⟨by decide, by (intro w; first | exact w | exact Memory.wf_write _ _ w | exact Memory.wf_clear _ _ w | exact Memory.wf_filter _ w | exact Memory.wf_set _ _ w)⟩); (first | exact .inl rfl | exact .inr ⟨by decide, by (intro w p hp; obtain ⟨q, hq, rfl⟩ := List.mem_map.1 hp; exact w q hq)⟩))
    | (rw [Dev.mk_tag]; (with_reducible apply K.mkT); rotate_left; (intro p hq; cases p <;> first | exact absurd hq (by decide) | rfl | exact ⟨rfl, rfl⟩ | exact fun _ => ⟨rfl, rfl⟩); exact fun w => w)

theorem Foot.dfence {e d : Dev} {pm rm : Nat} {k0 : Nat} {pred : Nat} (h : K e d pm rm) (hp : sub 0x200004000 pm = true)
    (hr : sub 0x0 rm = true) : K e (Dev.dfence d k0 pred) pm rm := by
  refine K.lift h hp hr ?_
  clear h hp hr
  unfold Dev.dfence
  all_goals repeat' first
    | with_reducible exact K.refl _ _ _
    | with_reducible assumption
    | ((with_reducible apply Foot.daleDone); rotate_left; decide; decide)
    | with_reducible apply K.ite
    | ((with_reducible apply K.foldl); rotate_left; intro d x h; rotate_right)
    | ((with_reducible apply K.foldlFst); rotate_left; intro x y h; rotate_right)
    | ((with_reducible apply K.foldlSnd); rotate_left; intro x y h; rotate_right)
    | with_reducible apply K.fst_ite
    | with_reducible apply K.cond
    | with_reducible refine K.of_fst ?_ (by assumption)
    | with_reducible refine K.of_snd ?_ (by assumption)
    | (split)
    | dsimp only
    | (rw [Dev.mk_tag]; (with_reducible apply K.mk_sched); rotate_left; decide; (first | exact .inl rfl | exact .inr ⟨by decide, by (intro w; first | exact w | exact Memory.wf_write _ _ w | exact Memory.wf_clear _ _ w | exact Memory.wf_filter _ w | exact Memory.wf_set _ _ w)⟩); (first | exact .inl rfl | exact .inr ⟨by decide, by (intro w p hp; obtain ⟨q, hq, rfl⟩ := List.mem_map.1 hp; exact w q hq)⟩))
    | (rw [Dev.mk_tag]; (with_reducible apply K.mkT); rotate_left; (intro p hq; cases p <;> first | exact absurd hq (by decide) | rfl | exact ⟨rfl, rfl⟩ | exact fun _ => ⟨rfl, rfl⟩); exact fun w => w)

theorem Foot.ffence {e d : Dev} {pm rm : Nat} {k0 : Nat} {rd : Nat} (h : K e d pm rm) (hp : sub 0x30000400a pm = true)
    (hr : sub 0x80000000000000000000000000000000000000000000000013000400000000000080000 rm = true) : K e (Dev.ffence d k0 rd) pm rm := by
  refine K.lift h hp hr ?_
  clear h hp hr
  unfold Dev.ffence
  all_goals repeat' first
    | with_reducible exact K.refl _ _ _
    | with_reducible assumption
    | ((with_reducible apply K.setDale); rotate_left; decide; exact fun _ => ⟨rfl, rfl⟩)
    | ((with_reducible apply K.setDaleMem); rotate_left; decide; decide; (intro c w; first | exact w | exact ⟨Memory.wf_write _ _ w.1, w.2⟩ | exact ⟨w.1, Memory.wf_write _ _ w.2⟩ | (dsimp only; split <;> first | exact ⟨Memory.wf_write _ _ w.1, w.2⟩ | exact ⟨w.1, Memory.wf_write _ _ w.2⟩)))
    | ((with_reducible apply Foot.daleTrap); rotate_left; decide; decide)
    | ((with_reducible apply Foot.daleDone); rotate_left; decide; decide)
    | with_reducible apply K.ite
    | ((with_reducible apply K.foldl); rotate_left; intro d x h; rotate_right)
    | ((with_reducible apply K.foldlFst); rotate_left; intro x y h; rotate_right)
    | ((with_reducible apply K.foldlSnd); rotate_left; intro x y h; rotate_right)
    | with_reducible apply K.fst_ite
    | with_reducible apply K.cond
    | with_reducible refine K.of_fst ?_ (by assumption)
    | with_reducible refine K.of_snd ?_ (by assumption)
    | (split)
    | dsimp only
    | (rw [Dev.mk_tag]; (with_reducible apply K.mk_log); rotate_left; decide)
    | (rw [Dev.mk_tag]; (with_reducible apply K.mk_pwr); rotate_left; decide)
    | (rw [Dev.mk_tag]; (with_reducible apply K.mk_sched); rotate_left; decide; (first | exact .inl rfl | exact .inr ⟨by decide, by (intro w; first | exact w | exact Memory.wf_write _ _ w | exact Memory.wf_clear _ _ w | exact Memory.wf_filter _ w | exact Memory.wf_set _ _ w)⟩); (first | exact .inl rfl | exact .inr ⟨by decide, by (intro w p hp; obtain ⟨q, hq, rfl⟩ := List.mem_map.1 hp; exact w q hq)⟩))
    | (rw [Dev.mk_tag]; (with_reducible apply K.mkT); rotate_left; (intro p hq; cases p <;> first | exact absurd hq (by decide) | rfl | exact ⟨rfl, rfl⟩ | exact fun _ => ⟨rfl, rfl⟩); exact fun w => w)

theorem Foot.daleExt {e d : Dev} {pm rm : Nat} {k0 : Nat} {o : DaleOp} {ecc : Nat} (h : K e d pm rm) (hp : sub 0x30000402a pm = true)
    (hr : sub 0x8000000000000000000000000281a800000000000000000013000400000000000080000 rm = true) : K e (Dev.daleExt d k0 o ecc) pm rm := by
  refine K.lift h hp hr ?_
  clear h hp hr
  unfold Dev.daleExt
  extract_lets x1 x2
  clear_value (g1 : x1 = _) (g2 : x2 = _)
  subst g1
  subst g2
  all_goals repeat' first
    | with_reducible exact K.refl _ _ _
    | with_reducible assumption
    | ((with_reducible apply Foot.daleDone); rotate_left; decide; decide)
    | ((with_reducible apply Foot.daleTrap); rotate_left; decide; decide)
    | ((with_reducible apply Foot.luti); rotate_left; decide; decide)
    | ((with_reducible apply Foot.hacc); rotate_left; decide; decide)
    | ((with_reducible apply Foot.dmaq); rotate_left; decide; decide)
    | ((with_reducible apply Foot.dmaw); rotate_left; decide; decide)
    | ((with_reducible apply Foot.jend); rotate_left; decide; decide)
    | ((with_reducible apply Foot.wfe); rotate_left; decide; decide)
    | ((with_reducible apply Foot.dfence); rotate_left; decide; decide)
    | ((with_reducible apply Foot.ffence); rotate_left; decide; decide)
    | with_reducible apply K.ite
    | ((with_reducible apply K.foldl); rotate_left; intro d x h; rotate_right)
    | ((with_reducible apply K.foldlFst); rotate_left; intro x y h; rotate_right)
    | ((with_reducible apply K.foldlSnd); rotate_left; intro x y h; rotate_right)
    | with_reducible apply K.fst_ite
    | with_reducible apply K.cond
    | with_reducible refine K.of_fst ?_ (by assumption)
    | with_reducible refine K.of_snd ?_ (by assumption)
    | (split)
    | dsimp only
    | (rw [Dev.mk_tag]; (with_reducible apply K.mk_log); rotate_left; decide)
    | (rw [Dev.mk_tag]; (with_reducible apply K.mk_pwr); rotate_left; decide)
    | (rw [Dev.mk_tag]; (with_reducible apply K.mk_ls); rotate_left; decide; (first | exact .inl rfl | exact .inl ⟨rfl, rfl⟩ | exact .inr ⟨by decide, by (intro w; first | exact w | exact Memory.wf_write _ _ w | exact Memory.wf_clear _ _ w | exact Memory.wf_filter _ w | exact Memory.wf_set _ _ w)⟩))
    | (rw [Dev.mk_tag]; (with_reducible apply K.mk_sched); rotate_left; decide; (first | exact .inl rfl | exact .inr ⟨by decide, by (intro w; first | exact w | exact Memory.wf_write _ _ w | exact Memory.wf_clear _ _ w | exact Memory.wf_filter _ w | exact Memory.wf_set _ _ w)⟩); (first | exact .inl rfl | exact .inr ⟨by decide, by (intro w p hp; obtain ⟨q, hq, rfl⟩ := List.mem_map.1 hp; exact w q hq)⟩))
    | (rw [Dev.mk_tag]; (with_reducible apply K.mkT); rotate_left; (intro p hq; cases p <;> first | exact absurd hq (by decide) | rfl | exact ⟨rfl, rfl⟩ | exact fun _ => ⟨rfl, rfl⟩); exact fun w => w)

theorem Foot.daleIssue {e d : Dev} {pm rm : Nat} {dale : Byte} {cyc : Nat} {o : DaleOp} {ecc : optParam Nat 0} (h : K e d pm rm) (hp : sub 0x30000402a pm = true)
    (hr : sub 0x8000000000000000000000000281a800000000000000000013200400000000000080000 rm = true) : K e (Dev.daleIssue d dale cyc o ecc) pm rm := by
  refine K.lift h hp hr ?_
  clear h hp hr
  unfold Dev.daleIssue
  all_goals repeat' first
    | with_reducible exact K.refl _ _ _
    | with_reducible assumption
    | ((with_reducible apply Foot.daleExt); rotate_left; decide; decide)
    | ((with_reducible apply Foot.daleTick); rotate_left; decide; decide)
    | with_reducible apply K.ite
    | ((with_reducible apply K.foldl); rotate_left; intro d x h; rotate_right)
    | ((with_reducible apply K.foldlFst); rotate_left; intro x y h; rotate_right)
    | ((with_reducible apply K.foldlSnd); rotate_left; intro x y h; rotate_right)
    | with_reducible apply K.fst_ite
    | with_reducible apply K.cond
    | with_reducible refine K.of_fst ?_ (by assumption)
    | with_reducible refine K.of_snd ?_ (by assumption)
    | (split)
    | dsimp only
    | (rw [Dev.mk_tag]; (with_reducible apply K.mk_log); rotate_left; decide)
    | (rw [Dev.mk_tag]; (with_reducible apply K.mk_pwr); rotate_left; decide)
    | (rw [Dev.mk_tag]; (with_reducible apply K.mk_ls); rotate_left; decide; (first | exact .inl rfl | exact .inl ⟨rfl, rfl⟩ | exact .inr ⟨by decide, by (intro w; first | exact w | exact Memory.wf_write _ _ w | exact Memory.wf_clear _ _ w | exact Memory.wf_filter _ w | exact Memory.wf_set _ _ w)⟩))
    | (rw [Dev.mk_tag]; (with_reducible apply K.mk_sched); rotate_left; decide; (first | exact .inl rfl | exact .inr ⟨by decide, by (intro w; first | exact w | exact Memory.wf_write _ _ w | exact Memory.wf_clear _ _ w | exact Memory.wf_filter _ w | exact Memory.wf_set _ _ w)⟩); (first | exact .inl rfl | exact .inr ⟨by decide, by (intro w p hp; obtain ⟨q, hq, rfl⟩ := List.mem_map.1 hp; exact w q hq)⟩))
    | (rw [Dev.mk_tag]; (with_reducible apply K.mkT); rotate_left; (intro p hq; cases p <;> first | exact absurd hq (by decide) | rfl | exact ⟨rfl, rfl⟩ | exact fun _ => ⟨rfl, rfl⟩); exact fun w => w)

end Sys2Proof.Machine
end

