-- ==== Sys2Proof/Laws/FootPower.lean ====
section
/-! SUPPORT.  Footprints of the functions of `Machine/Power.lean` (see `Keep.lean`): what each leaves alone. -/

set_option Elab.async false
set_option linter.all false

namespace Sys2Proof.Machine

theorem Foot.domainIdle {e d : Dev} {pm rm : Nat} {k0 : Nat} (h : K e d pm rm) (hp : sub 0x0 pm = true)
    (hr : sub 0x80000000000000000000000000000000000000000000000000000000000000000000000 rm = true) : K e (Dev.domainIdle d k0) pm rm := by
  refine K.lift h hp hr ?_
  clear h hp hr
  unfold Dev.domainIdle
  extract_lets x1
  clear_value (g1 : x1 = _)
  clear g1
  all_goals repeat' first
    | with_reducible exact K.refl _ _ _
    | with_reducible assumption
    | ((with_reducible apply Foot.startDown); rotate_left; decide; decide)
    | with_reducible apply K.ite
    | ((with_reducible apply K.foldl); rotate_left; intro d x h; rotate_right)
    | ((with_reducible apply K.foldlFst); rotate_left; intro x y h; rotate_right)
    | ((with_reducible apply K.foldlSnd); rotate_left; intro x y h; rotate_right)
    | with_reducible apply K.fst_ite
    | with_reducible apply K.cond
    | with_reducible refine K.of_fst ?_ (by assumption)
    | with_reducible refine K.of_snd ?_ (by assumption)
    | (split)
    | dsimp only
    | (rw [Dev.mk_tag]; (with_reducible apply K.mkT); rotate_left; (intro p hq; cases p <;> first | exact absurd hq (by decide) | rfl | exact ⟨rfl, rfl⟩ | exact fun _ => ⟨rfl, rfl⟩); exact fun w => w)

theorem Foot.domReqOn {e d : Dev} {pm rm : Nat} {k0 : Nat} (h : K e d pm rm) (hp : sub 0x8 pm = true)
    (hr : sub 0xc0000000000000000000000000000000000000000000000000000000000000000000000 rm = true) : K e (Dev.domReqOn d k0) pm rm := by
  refine K.lift h hp hr ?_
  clear h hp hr
  unfold Dev.domReqOn
  all_goals repeat' first
    | with_reducible exact K.refl _ _ _
    | with_reducible assumption
    | ((with_reducible apply K.put); rotate_left; (first | assumption | exact R.mem_DOM_CTRL); decide)
    | ((with_reducible apply Foot.startWake); rotate_left; decide; decide)
    | with_reducible apply K.ite
    | ((with_reducible apply K.foldl); rotate_left; intro d x h; rotate_right)
    | ((with_reducible apply K.foldlFst); rotate_left; intro x y h; rotate_right)
    | ((with_reducible apply K.foldlSnd); rotate_left; intro x y h; rotate_right)
    | with_reducible apply K.fst_ite
    | with_reducible apply K.cond
    | with_reducible refine K.of_fst ?_ (by assumption)
    | with_reducible refine K.of_snd ?_ (by assumption)
    | (split)
    | dsimp only
    | (rw [Dev.mk_tag]; (with_reducible apply K.mk_pwr); rotate_left; decide)
    | (rw [Dev.mk_tag]; (with_reducible apply K.mkT); rotate_left; (intro p hq; cases p <;> first | exact absurd hq (by decide) | rfl | exact ⟨rfl, rfl⟩ | exact fun _ => ⟨rfl, rfl⟩); exact fun w => w)

theorem Foot.domReqRet {e d : Dev} {pm rm : Nat} {k0 : Nat} (h : K e d pm rm) (hp : sub 0x2 pm = true)
    (hr : sub 0xc8000000000000000000000000000000000000000000000000000000000000000080000 rm = true) : K e (Dev.domReqRet d k0) pm rm := by
  refine K.lift h hp hr ?_
  clear h hp hr
  unfold Dev.domReqRet
  all_goals repeat' first
    | with_reducible exact K.refl _ _ _
    | with_reducible assumption
    | ((with_reducible apply K.put); rotate_left; (first | assumption | exact R.mem_DOM_CTRL | exact R.mem_PWR_EVENT); decide)
    | ((with_reducible apply K.raise); rotate_left; (first | assumption | exact R.mem_DOM_CTRL | exact R.mem_PWR_EVENT); decide; decide; decide)
    | ((with_reducible apply Foot.startDown); rotate_left; decide; decide)
    | with_reducible apply K.ite
    | ((with_reducible apply K.foldl); rotate_left; intro d x h; rotate_right)
    | ((with_reducible apply K.foldlFst); rotate_left; intro x y h; rotate_right)
    | ((with_reducible apply K.foldlSnd); rotate_left; intro x y h; rotate_right)
    | with_reducible apply K.fst_ite
    | with_reducible apply K.cond
    | with_reducible refine K.of_fst ?_ (by assumption)
    | with_reducible refine K.of_snd ?_ (by assumption)
    | (split)
    | dsimp only
    | (rw [Dev.mk_tag]; (with_reducible apply K.mk_log); rotate_left; decide)
    | (rw [Dev.mk_tag]; (with_reducible apply K.mkT); rotate_left; (intro p hq; cases p <;> first | exact absurd hq (by decide) | rfl | exact ⟨rfl, rfl⟩ | exact fun _ => ⟨rfl, rfl⟩); exact fun w => w)

theorem Foot.padLatch {e d : Dev} {pm rm : Nat} {g : Nat} (h : K e d pm rm) (hp : sub 0x8 pm = true)
    (hr : sub 0x4000000000000000000000000000000000000000000000000000000000000000000000 rm = true) : K e (Dev.padLatch d g) pm rm := by
  refine K.lift h hp hr ?_
  clear h hp hr
  unfold Dev.padLatch
  all_goals repeat' first
    | with_reducible exact K.refl _ _ _
    | with_reducible assumption
    | ((with_reducible apply K.put); rotate_left; (first | assumption | exact R.mem_PAD_HOLD); decide)
    | ((with_reducible apply K.setPwr); rotate_left; decide)
    | with_reducible apply K.ite
    | ((with_reducible apply K.foldl); rotate_left; intro d x h; rotate_right)
    | ((with_reducible apply K.foldlFst); rotate_left; intro x y h; rotate_right)
    | ((with_reducible apply K.foldlSnd); rotate_left; intro x y h; rotate_right)
    | with_reducible apply K.fst_ite
    | with_reducible apply K.cond
    | with_reducible refine K.of_fst ?_ (by assumption)
    | with_reducible refine K.of_snd ?_ (by assumption)
    | (split)
    | dsimp only
    | (rw [Dev.mk_tag]; (with_reducible apply K.mk_pwr); rotate_left; decide)
    | (rw [Dev.mk_tag]; (with_reducible apply K.mkT); rotate_left; (intro p hq; cases p <;> first | exact absurd hq (by decide) | rfl | exact ⟨rfl, rfl⟩ | exact fun _ => ⟨rfl, rfl⟩); exact fun w => w)

theorem Foot.tryLower {e d : Dev} {pm rm : Nat} (h : K e d pm rm) (hp : sub 0x8 pm = true)
    (hr : sub 0x0 rm = true) : K e (Dev.tryLower d) pm rm := by
  refine K.lift h hp hr ?_
  clear h hp hr
  unfold Dev.tryLower
  extract_lets x1 x2
  clear_value (g1 : x1 = _) (g2 : x2 = _)
  refine K.cutEq d 0x8 0x0 g1 ?_ (fun h1 => ?_)
  rotate_left
  clear g1
  refine K.cutEq d 0x8 0x0 g2 ?_ (fun h2 => ?_)
  rotate_left
  clear g2
  all_goals repeat' first
    | with_reducible exact K.refl _ _ _
    | with_reducible assumption
    | ((with_reducible apply K.setPwr); rotate_left; decide)
    | ((with_reducible apply Foot.vregRequest); rotate_left; decide; decide)
    | with_reducible apply K.ite
    | ((with_reducible apply K.foldl); rotate_left; intro d x h; rotate_right)
    | ((with_reducible apply K.foldlFst); rotate_left; intro x y h; rotate_right)
    | ((with_reducible apply K.foldlSnd); rotate_left; intro x y h; rotate_right)
    | with_reducible apply K.fst_ite
    | with_reducible apply K.cond
    | with_reducible refine K.of_fst ?_ (by assumption)
    | with_reducible refine K.of_snd ?_ (by assumption)
    | (split)
    | dsimp only
    | (rw [Dev.mk_tag]; (with_reducible apply K.mk_pwr); rotate_left; decide)
    | (rw [Dev.mk_tag]; (with_reducible apply K.mkT); rotate_left; (intro p hq; cases p <;> first | exact absurd hq (by decide) | rfl | exact ⟨rfl, rfl⟩ | exact fun _ => ⟨rfl, rfl⟩); exact fun w => w)

theorem Foot.setBanks {e d : Dev} {pm rm : Nat} {s : Nat} (h : K e d pm rm) (hp : sub 0x800002a pm = true)
    (hr : sub 0x3f5a800000000040000400000000000000000000080000 rm = true) : K e (Dev.setBanks d s) pm rm := by
  refine K.lift h hp hr ?_
  clear h hp hr
  unfold Dev.setBanks
  extract_lets x1
  clear_value (g1 : x1 = _)
  refine K.cutEq d 0x800002a 0x3f5a800000000040000400000000000000000000080000 g1 ?_ (fun h1 => ?_)
  rotate_left
  clear g1
  all_goals repeat' first
    | with_reducible exact K.refl _ _ _
    | with_reducible assumption
    | ((with_reducible apply K.setPwr); rotate_left; decide)
    | ((with_reducible apply Foot.bankRequest); rotate_left; decide; decide)
    | with_reducible apply K.ite
    | ((with_reducible apply K.each); rotate_left; intro d x h; rotate_right)
    | ((with_reducible apply K.foldl); rotate_left; intro d x h; rotate_right)
    | ((with_reducible apply K.foldlFst); rotate_left; intro x y h; rotate_right)
    | ((with_reducible apply K.foldlSnd); rotate_left; intro x y h; rotate_right)
    | with_reducible apply K.fst_ite
    | with_reducible apply K.cond
    | with_reducible refine K.of_fst ?_ (by assumption)
    | with_reducible refine K.of_snd ?_ (by assumption)
    | (split)
    | dsimp only
    | (rw [Dev.mk_tag]; (with_reducible apply K.mk_log); rotate_left; decide)
    | (rw [Dev.mk_tag]; (with_reducible apply K.mk_pwr); rotate_left; decide)
    | (rw [Dev.mk_tag]; (with_reducible apply K.mk_ls); rotate_left; decide; (first | exact .inl rfl | exact .inl ⟨rfl, rfl⟩ | exact .inr ⟨by decide, by (intro w; first | exact w | exact Memory.wf_write _ _ w | exact Memory.wf_clear _ _ w | exact Memory.wf_filter _ w | exact Memory.wf_set _ _ w)⟩))
    | (rw [Dev.mk_tag]; (with_reducible apply K.mkT); rotate_left; (intro p hq; cases p <;> first | exact absurd hq (by decide) | rfl | exact ⟨rfl, rfl⟩ | exact fun _ => ⟨rfl, rfl⟩); exact fun w => w)

theorem Foot.restoreBanks {e d : Dev} {pm rm : Nat} (h : K e d pm rm) (hp : sub 0x800002a pm = true)
    (hr : sub 0x3f5a800000000040000400000000000000000000080000 rm = true) : K e (Dev.restoreBanks d) pm rm := by
  refine K.lift h hp hr ?_
  clear h hp hr
  unfold Dev.restoreBanks
  all_goals repeat' first
    | with_reducible exact K.refl _ _ _
    | with_reducible assumption
    | ((with_reducible apply K.setPwr); rotate_left; decide)
    | ((with_reducible apply Foot.bankRequest); rotate_left; decide; decide)
    | with_reducible apply K.ite
    | ((with_reducible apply K.each); rotate_left; intro d x h; rotate_right)
    | ((with_reducible apply K.foldl); rotate_left; intro d x h; rotate_right)
    | ((with_reducible apply K.foldlFst); rotate_left; intro x y h; rotate_right)
    | ((with_reducible apply K.foldlSnd); rotate_left; intro x y h; rotate_right)
    | with_reducible apply K.fst_ite
    | with_reducible apply K.cond
    | with_reducible refine K.of_fst ?_ (by assumption)
    | with_reducible refine K.of_snd ?_ (by assumption)
    | (split)
    | dsimp only
    | (rw [Dev.mk_tag]; (with_reducible apply K.mk_log); rotate_left; decide)
    | (rw [Dev.mk_tag]; (with_reducible apply K.mk_pwr); rotate_left; decide)
    | (rw [Dev.mk_tag]; (with_reducible apply K.mk_ls); rotate_left; decide; (first | exact .inl rfl | exact .inl ⟨rfl, rfl⟩ | exact .inr ⟨by decide, by (intro w; first | exact w | exact Memory.wf_write _ _ w | exact Memory.wf_clear _ _ w | exact Memory.wf_filter _ w | exact Memory.wf_set _ _ w)⟩))
    | (rw [Dev.mk_tag]; (with_reducible apply K.mkT); rotate_left; (intro p hq; cases p <;> first | exact absurd hq (by decide) | rfl | exact ⟨rfl, rfl⟩ | exact fun _ => ⟨rfl, rfl⟩); exact fun w => w)

theorem Foot.sleepChannel {e d : Dev} {pm rm : Nat} {s : Nat} {ch : Nat} (h : K e d pm rm) (hp : sub 0x48a pm = true)
    (hr : sub 0x880079000000000000000c0000000000000000000000000000000000000080000080000 rm = true) : K e (Dev.sleepChannel d s ch) pm rm := by
  refine K.lift h hp hr ?_
  clear h hp hr
  unfold Dev.sleepChannel
  all_goals repeat' first
    | with_reducible exact K.refl _ _ _
    | with_reducible assumption
    | ((with_reducible apply K.put); rotate_left; (first | assumption | exact R.mem_DRAM_CH_CFG); decide)
    | ((with_reducible apply Foot.enterSelfRefresh); rotate_left; decide; decide)
    | with_reducible apply K.ite
    | ((with_reducible apply K.foldl); rotate_left; intro d x h; rotate_right)
    | ((with_reducible apply K.foldlFst); rotate_left; intro x y h; rotate_right)
    | ((with_reducible apply K.foldlSnd); rotate_left; intro x y h; rotate_right)
    | with_reducible apply K.fst_ite
    | with_reducible apply K.cond
    | with_reducible refine K.of_fst ?_ (by assumption)
    | with_reducible refine K.of_snd ?_ (by assumption)
    | (split)
    | dsimp only
    | (rw [Dev.mk_tag]; (with_reducible apply K.mk_log); rotate_left; decide)
    | (rw [Dev.mk_tag]; (with_reducible apply K.mk_pwr); rotate_left; decide)
    | (rw [Dev.mk_tag]; (with_reducible apply K.mk_dram); rotate_left; decide; (first | exact .inl rfl | exact .inl ⟨rfl, rfl⟩ | exact .inr ⟨by decide, by (intro w; first | exact w | exact Memory.wf_write _ _ w | exact Memory.wf_clear _ _ w | exact Memory.wf_filter _ w | exact Memory.wf_set _ _ w)⟩))
    | (rw [Dev.mk_tag]; (with_reducible apply K.mk_scan); rotate_left; decide)
    | (rw [Dev.mk_tag]; (with_reducible apply K.mkT); rotate_left; (intro p hq; cases p <;> first | exact absurd hq (by decide) | rfl | exact ⟨rfl, rfl⟩ | exact fun _ => ⟨rfl, rfl⟩); exact fun w => w)

theorem Foot.sleepDown {e d : Dev} {pm rm : Nat} (h : K e d pm rm) (hp : sub 0x80004aa pm = true)
    (hr : sub 0x8c0079000000000000000c0003f5a800000000040000400000000000000080000080000 rm = true) : K e (Dev.sleepDown d) pm rm := by
  refine K.lift h hp hr ?_
  clear h hp hr
  unfold Dev.sleepDown
  extract_lets x1 x2 x3 x4 x5 x6
  clear_value (g1 : x1 = _) (g2 : x2 = _) (g3 : x3 = _) (g4 : x4 = _) (g5 : x5 = _) (g6 : x6 = _)
  clear g1
  refine K.cutEq d 0x80004aa 0x8c0079000000000000000c0003f5a800000000040000400000000000000080000080000 g2 ?_ (fun h2 => ?_)
  rotate_left
  clear g2
  refine K.cutEq d 0x80004aa 0x8c0079000000000000000c0003f5a800000000040000400000000000000080000080000 g3 ?_ (fun h3 => ?_)
  rotate_left
  clear g3
  subst g4
  refine K.cutEq d 0x80004aa 0x8c0079000000000000000c0003f5a800000000040000400000000000000080000080000 g5 ?_ (fun h5 => ?_)
  rotate_left
  clear g5
  refine K.cutEq d 0x80004aa 0x8c0079000000000000000c0003f5a800000000040000400000000000000080000080000 g6 ?_ (fun h6 => ?_)
  rotate_left
  clear g6
  all_goals repeat' first
    | with_reducible exact K.refl _ _ _
    | with_reducible assumption
    | ((with_reducible apply K.setPwr); rotate_left; decide)
    | ((with_reducible apply Foot.padLatch); rotate_left; decide; decide)
    | ((with_reducible apply Foot.setBanks); rotate_left; decide; decide)
    | ((with_reducible apply Foot.sleepChannel); rotate_left; decide; decide)
    | ((with_reducible apply Foot.tryLower); rotate_left; decide; decide)
    | ((with_reducible apply Foot.startDown); rotate_left; decide; decide)
    | with_reducible apply K.ite
    | ((with_reducible apply K.each); rotate_left; intro d x h; rotate_right)
    | ((with_reducible apply K.foldl); rotate_left; intro d x h; rotate_right)
    | ((with_reducible apply K.foldlFst); rotate_left; intro x y h; rotate_right)
    | ((with_reducible apply K.foldlSnd); rotate_left; intro x y h; rotate_right)
    | with_reducible apply K.fst_ite
    | with_reducible apply K.cond
    | with_reducible refine K.of_fst ?_ (by assumption)
    | with_reducible refine K.of_snd ?_ (by assumption)
    | (split)
    | dsimp only
    | (rw [Dev.mk_tag]; (with_reducible apply K.mk_log); rotate_left; decide)
    | (rw [Dev.mk_tag]; (with_reducible apply K.mk_pwr); rotate_left; decide)
    | (rw [Dev.mk_tag]; (with_reducible apply K.mk_ls); rotate_left; decide; (first | exact .inl rfl | exact .inl ⟨rfl, rfl⟩ | exact .inr ⟨by decide, by (intro w; first | exact w | exact Memory.wf_write _ _ w | exact Memory.wf_clear _ _ w | exact Memory.wf_filter _ w | exact Memory.wf_set _ _ w)⟩))
    | (rw [Dev.mk_tag]; (with_reducible apply K.mk_dram); rotate_left; decide; (first | exact .inl rfl | exact .inl ⟨rfl, rfl⟩ | exact .inr ⟨by decide, by (intro w; first | exact w | exact Memory.wf_write _ _ w | exact Memory.wf_clear _ _ w | exact Memory.wf_filter _ w | exact Memory.wf_set _ _ w)⟩))
    | (rw [Dev.mk_tag]; (with_reducible apply K.mk_scan); rotate_left; decide)
    | (rw [Dev.mk_tag]; (with_reducible apply K.mkT); rotate_left; (intro p hq; cases p <;> first | exact absurd hq (by decide) | rfl | exact ⟨rfl, rfl⟩ | exact fun _ => ⟨rfl, rfl⟩); exact fun w => w)

theorem Foot.fallowEntry {e d : Dev} {pm rm : Nat} (h : K e d pm rm) (hp : sub 0x8 pm = true)
    (hr : sub 0x100000000000000000000000000000000000000000000000000000000000000000 rm = true) : K e (Dev.fallowEntry d) pm rm := by
  refine K.lift h hp hr ?_
  clear h hp hr
  unfold Dev.fallowEntry
  all_goals repeat' first
    | with_reducible exact K.refl _ _ _
    | with_reducible assumption
    | ((with_reducible apply K.put); rotate_left; (first | assumption | exact R.mem_PWR_STATE); decide)
    | ((with_reducible apply K.setPwr); rotate_left; decide)
    | with_reducible apply K.ite
    | ((with_reducible apply K.foldl); rotate_left; intro d x h; rotate_right)
    | ((with_reducible apply K.foldlFst); rotate_left; intro x y h; rotate_right)
    | ((with_reducible apply K.foldlSnd); rotate_left; intro x y h; rotate_right)
    | with_reducible apply K.fst_ite
    | with_reducible apply K.cond
    | with_reducible refine K.of_fst ?_ (by assumption)
    | with_reducible refine K.of_snd ?_ (by assumption)
    | (split)
    | dsimp only
    | (rw [Dev.mk_tag]; (with_reducible apply K.mk_pwr); rotate_left; decide)
    | (rw [Dev.mk_tag]; (with_reducible apply K.mkT); rotate_left; (intro p hq; cases p <;> first | exact absurd hq (by decide) | rfl | exact ⟨rfl, rfl⟩ | exact fun _ => ⟨rfl, rfl⟩); exact fun w => w)

theorem Foot.takeAlmanac {e d : Dev} {pm rm : Nat} (h : K e d pm rm) (hp : sub 0x40002 pm = true)
    (hr : sub 0x8000082800000000000000000000000000000000000000000000080000 rm = true) : K e (Dev.takeAlmanac d) pm rm := by
  refine K.lift h hp hr ?_
  clear h hp hr
  unfold Dev.takeAlmanac
  extract_lets x1
  clear_value (g1 : x1 = _)
  refine K.cutEq d 0x40002 0x8000082800000000000000000000000000000000000000000000080000 g1 ?_ (fun h1 => ?_)
  rotate_left
  clear g1
  all_goals repeat' first
    | with_reducible exact K.refl _ _ _
    | with_reducible assumption
    | ((with_reducible apply K.put); rotate_left; (first | assumption | exact R.mem_WALL_EVENT | exact R.mem_WALL_STATUS); decide)
    | ((with_reducible apply K.inc); rotate_left; (first | assumption | exact R.mem_WALL_EVENT | exact R.mem_WALL_STATUS); decide)
    | ((with_reducible apply K.raise); rotate_left; (first | assumption | exact R.mem_WALL_EVENT | exact R.mem_WALL_STATUS); decide; decide; decide)
    | ((with_reducible apply K.updWall); rotate_left; decide)
    | ((with_reducible apply Foot.setWallState); rotate_left; decide; decide)
    | ((with_reducible apply Foot.showWall); rotate_left; decide; decide)
    | with_reducible apply K.ite
    | ((with_reducible apply K.foldl); rotate_left; intro d x h; rotate_right)
    | ((with_reducible apply K.foldlFst); rotate_left; intro x y h; rotate_right)
    | ((with_reducible apply K.foldlSnd); rotate_left; intro x y h; rotate_right)
    | with_reducible apply K.fst_ite
    | with_reducible apply K.cond
    | with_reducible refine K.of_fst ?_ (by assumption)
    | with_reducible refine K.of_snd ?_ (by assumption)
    | (split)
    | dsimp only
    | (rw [Dev.mk_tag]; (with_reducible apply K.mk_log); rotate_left; decide)
    | (rw [Dev.mk_tag]; (with_reducible apply K.mk_wall); rotate_left; decide)
    | (rw [Dev.mk_tag]; (with_reducible apply K.mkT); rotate_left; (intro p hq; cases p <;> first | exact absurd hq (by decide) | rfl | exact ⟨rfl, rfl⟩ | exact fun _ => ⟨rfl, rfl⟩); exact fun w => w)

theorem Foot.runCmd {e d : Dev} {pm rm : Nat} {src : Nat} {detail : Nat} (h : K e d pm rm) (hp : sub 0xa pm = true)
    (hr : sub 0x88007900000000000000080000000000000000000000000000000000000000000080000 rm = true) : K e (Dev.runCmd d src detail) pm rm := by
  refine K.lift h hp hr ?_
  clear h hp hr
  unfold Dev.runCmd
  extract_lets x1
  clear_value (g1 : x1 = _)
  refine K.cutEq d 0xa 0x88007900000000000000080000000000000000000000000000000000000000000080000 g1 ?_ (fun h1 => ?_)
  rotate_left
  clear g1
  all_goals repeat' first
    | with_reducible exact K.refl _ _ _
    | with_reducible assumption
    | ((with_reducible apply K.put); rotate_left; (first | assumption | exact R.mem_PWR_EVENT | exact R.mem_WAKE_EN | exact R.mem_WAKE_PENDING); decide)
    | ((with_reducible apply K.raise); rotate_left; (first | assumption | exact R.mem_PWR_EVENT | exact R.mem_WAKE_EN | exact R.mem_WAKE_PENDING); decide; decide; decide)
    | ((with_reducible apply Foot.actWake); rotate_left; decide; decide)
    | with_reducible apply K.ite
    | ((with_reducible apply K.foldl); rotate_left; intro d x h; rotate_right)
    | ((with_reducible apply K.foldlFst); rotate_left; intro x y h; rotate_right)
    | ((with_reducible apply K.foldlSnd); rotate_left; intro x y h; rotate_right)
    | with_reducible apply K.fst_ite
    | with_reducible apply K.cond
    | with_reducible refine K.of_fst ?_ (by assumption)
    | with_reducible refine K.of_snd ?_ (by assumption)
    | (split)
    | dsimp only
    | (rw [Dev.mk_tag]; (with_reducible apply K.mk_log); rotate_left; decide)
    | (rw [Dev.mk_tag]; (with_reducible apply K.mk_pwr); rotate_left; decide)
    | (rw [Dev.mk_tag]; (with_reducible apply K.mkT); rotate_left; (intro p hq; cases p <;> first | exact absurd hq (by decide) | rfl | exact ⟨rfl, rfl⟩ | exact fun _ => ⟨rfl, rfl⟩); exact fun w => w)

theorem Foot.sendHandover {e d : Dev} {pm rm : Nat} (h : K e d pm rm) (hp : sub 0x40001 pm = true)
    (hr : sub 0x40000000000000000000000000000000000000000000000000000 rm = true) : K e (Dev.sendHandover d) pm rm := by
  refine K.lift h hp hr ?_
  clear h hp hr
  unfold Dev.sendHandover
  all_goals repeat' first
    | with_reducible exact K.refl _ _ _
    | with_reducible assumption
    | ((with_reducible apply K.inc); rotate_left; (first | assumption | exact R.mem_WALL_DROP_COUNT); decide)
    | ((with_reducible apply Foot.fresh); rotate_left; decide; decide)
    | ((with_reducible apply Foot.wallSend); rotate_left; decide; decide)
    | with_reducible apply K.ite
    | ((with_reducible apply K.foldl); rotate_left; intro d x h; rotate_right)
    | ((with_reducible apply K.foldlFst); rotate_left; intro x y h; rotate_right)
    | ((with_reducible apply K.foldlSnd); rotate_left; intro x y h; rotate_right)
    | with_reducible apply K.fst_ite
    | with_reducible apply K.cond
    | with_reducible refine K.of_fst ?_ (by assumption)
    | with_reducible refine K.of_snd ?_ (by assumption)
    | (split)
    | dsimp only
    | (rw [Dev.mk_tag]; (with_reducible apply K.mk_free); rotate_left; decide)
    | (rw [Dev.mk_tag]; (with_reducible apply K.mk_wall); rotate_left; decide)
    | (rw [Dev.mk_tag]; (with_reducible apply K.mkT); rotate_left; (intro p hq; cases p <;> first | exact absurd hq (by decide) | rfl | exact ⟨rfl, rfl⟩ | exact fun _ => ⟨rfl, rfl⟩); exact fun w => w)

theorem Foot.fallowDown {e d : Dev} {pm rm : Nat} (h : K e d pm rm) (hp : sub 0x48a pm = true)
    (hr : sub 0x880079000000000000000c0000000000000000000000000000000000000080000080000 rm = true) : K e (Dev.fallowDown d) pm rm := by
  refine K.lift h hp hr ?_
  clear h hp hr
  unfold Dev.fallowDown
  extract_lets x1
  clear_value (g1 : x1 = _)
  refine K.cutEq d 0x48a 0x880079000000000000000c0000000000000000000000000000000000000080000080000 g1 ?_ (fun h1 => ?_)
  rotate_left
  clear g1
  all_goals repeat' first
    | with_reducible exact K.refl _ _ _
    | with_reducible assumption
    | ((with_reducible apply K.setPwr); rotate_left; decide)
    | ((with_reducible apply Foot.sleepChannel); rotate_left; decide; decide)
    | ((with_reducible apply Foot.startDown); rotate_left; decide; decide)
    | with_reducible apply K.ite
    | ((with_reducible apply K.each); rotate_left; intro d x h; rotate_right)
    | ((with_reducible apply K.foldl); rotate_left; intro d x h; rotate_right)
    | ((with_reducible apply K.foldlFst); rotate_left; intro x y h; rotate_right)
    | ((with_reducible apply K.foldlSnd); rotate_left; intro x y h; rotate_right)
    | with_reducible apply K.fst_ite
    | with_reducible apply K.cond
    | with_reducible refine K.of_fst ?_ (by assumption)
    | with_reducible refine K.of_snd ?_ (by assumption)
    | (split)
    | dsimp only
    | (rw [Dev.mk_tag]; (with_reducible apply K.mk_log); rotate_left; decide)
    | (rw [Dev.mk_tag]; (with_reducible apply K.mk_pwr); rotate_left; decide)
    | (rw [Dev.mk_tag]; (with_reducible apply K.mk_dram); rotate_left; decide; (first | exact .inl rfl | exact .inl ⟨rfl, rfl⟩ | exact .inr ⟨by decide, by (intro w; first | exact w | exact Memory.wf_write _ _ w | exact Memory.wf_clear _ _ w | exact Memory.wf_filter _ w | exact Memory.wf_set _ _ w)⟩))
    | (rw [Dev.mk_tag]; (with_reducible apply K.mk_scan); rotate_left; decide)
    | (rw [Dev.mk_tag]; (with_reducible apply K.mkT); rotate_left; (intro p hq; cases p <;> first | exact absurd hq (by decide) | rfl | exact ⟨rfl, rfl⟩ | exact fun _ => ⟨rfl, rfl⟩); exact fun w => w)

theorem Foot.captureDone {e d : Dev} {pm rm : Nat} (h : K e d pm rm) (hp : sub 0x48a pm = true)
    (hr : sub 0x880079000000000000000c0000000000000000000000000000000000000080000080000 rm = true) : K e (Dev.captureDone d) pm rm := by
  refine K.lift h hp hr ?_
  clear h hp hr
  unfold Dev.captureDone
  extract_lets x1 x2 x3 x4
  clear_value (g1 : x1 = _) (g2 : x2 = _) (g3 : x3 = _) (g4 : x4 = _)
  clear g1
  clear g2
  refine K.cutEq d 0x48a 0x880079000000000000000c0000000000000000000000000000000000000080000080000 g3 ?_ (fun h3 => ?_)
  rotate_left
  clear g3
  refine K.cutEq d 0x48a 0x880079000000000000000c0000000000000000000000000000000000000080000080000 g4 ?_ (fun h4 => ?_)
  rotate_left
  clear g4
  all_goals repeat' first
    | with_reducible exact K.refl _ _ _
    | with_reducible assumption
    | ((with_reducible apply K.put); rotate_left; (first | assumption | exact R.mem_COMP_CTRL | exact R.mem_PWR_EVENT | exact R.mem_PWR_STATE); decide)
    | ((with_reducible apply K.raise); rotate_left; (first | assumption | exact R.mem_COMP_CTRL | exact R.mem_PWR_EVENT | exact R.mem_PWR_STATE); decide; decide; decide)
    | ((with_reducible apply K.setPwr); rotate_left; decide)
    | ((with_reducible apply Foot.abandonFallow); rotate_left; decide; decide)
    | ((with_reducible apply Foot.fallowDown); rotate_left; decide; decide)
    | with_reducible apply K.ite
    | ((with_reducible apply K.foldl); rotate_left; intro d x h; rotate_right)
    | ((with_reducible apply K.foldlFst); rotate_left; intro x y h; rotate_right)
    | ((with_reducible apply K.foldlSnd); rotate_left; intro x y h; rotate_right)
    | with_reducible apply K.fst_ite
    | with_reducible apply K.cond
    | with_reducible refine K.of_fst ?_ (by assumption)
    | with_reducible refine K.of_snd ?_ (by assumption)
    | (split)
    | dsimp only
    | (rw [Dev.mk_tag]; (with_reducible apply K.mk_log); rotate_left; decide)
    | (rw [Dev.mk_tag]; (with_reducible apply K.mk_pwr); rotate_left; decide)
    | (rw [Dev.mk_tag]; (with_reducible apply K.mk_dram); rotate_left; decide; (first | exact .inl rfl | exact .inl ⟨rfl, rfl⟩ | exact .inr ⟨by decide, by (intro w; first | exact w | exact Memory.wf_write _ _ w | exact Memory.wf_clear _ _ w | exact Memory.wf_filter _ w | exact Memory.wf_set _ _ w)⟩))
    | (rw [Dev.mk_tag]; (with_reducible apply K.mk_scan); rotate_left; decide)
    | (rw [Dev.mk_tag]; (with_reducible apply K.mkT); rotate_left; (intro p hq; cases p <;> first | exact absurd hq (by decide) | rfl | exact ⟨rfl, rfl⟩ | exact fun _ => ⟨rfl, rfl⟩); exact fun w => w)

theorem Foot.dropVreq {e d : Dev} {pm rm : Nat} {rail : Nat} (h : K e d pm rm) (hp : sub 0x8 pm = true)
    (hr : sub 0x0 rm = true) : K e (Dev.dropVreq d rail) pm rm := by
  refine K.lift h hp hr ?_
  clear h hp hr
  unfold Dev.dropVreq
  all_goals repeat' first
    | with_reducible exact K.refl _ _ _
    | with_reducible assumption
    | ((with_reducible apply K.setPwr); rotate_left; decide)
    | with_reducible apply K.ite
    | ((with_reducible apply K.foldl); rotate_left; intro d x h; rotate_right)
    | ((with_reducible apply K.foldlFst); rotate_left; intro x y h; rotate_right)
    | ((with_reducible apply K.foldlSnd); rotate_left; intro x y h; rotate_right)
    | with_reducible apply K.fst_ite
    | with_reducible apply K.cond
    | with_reducible refine K.of_fst ?_ (by assumption)
    | with_reducible refine K.of_snd ?_ (by assumption)
    | (split)
    | dsimp only
    | (rw [Dev.mk_tag]; (with_reducible apply K.mk_pwr); rotate_left; decide)
    | (rw [Dev.mk_tag]; (with_reducible apply K.mkT); rotate_left; (intro p hq; cases p <;> first | exact absurd hq (by decide) | rfl | exact ⟨rfl, rfl⟩ | exact fun _ => ⟨rfl, rfl⟩); exact fun w => w)

theorem Foot.setVreq {e d : Dev} {pm rm : Nat} {rail : Nat} {f : VReq → VReq} (h : K e d pm rm) (hp : sub 0x8 pm = true)
    (hr : sub 0x0 rm = true) : K e (Dev.setVreq d rail f) pm rm := by
  refine K.lift h hp hr ?_
  clear h hp hr
  unfold Dev.setVreq
  all_goals repeat' first
    | with_reducible exact K.refl _ _ _
    | with_reducible assumption
    | ((with_reducible apply K.setPwr); rotate_left; decide)
    | with_reducible apply K.ite
    | ((with_reducible apply K.foldl); rotate_left; intro d x h; rotate_right)
    | ((with_reducible apply K.foldlFst); rotate_left; intro x y h; rotate_right)
    | ((with_reducible apply K.foldlSnd); rotate_left; intro x y h; rotate_right)
    | with_reducible apply K.fst_ite
    | with_reducible apply K.cond
    | with_reducible refine K.of_fst ?_ (by assumption)
    | with_reducible refine K.of_snd ?_ (by assumption)
    | (split)
    | dsimp only
    | (rw [Dev.mk_tag]; (with_reducible apply K.mk_pwr); rotate_left; decide)
    | (rw [Dev.mk_tag]; (with_reducible apply K.mkT); rotate_left; (intro p hq; cases p <;> first | exact absurd hq (by decide) | rfl | exact ⟨rfl, rfl⟩ | exact fun _ => ⟨rfl, rfl⟩); exact fun w => w)

theorem Foot.vregTimeout {e d : Dev} {pm rm : Nat} {rail : Nat} (h : K e d pm rm) (hp : sub 0xa pm = true)
    (hr : sub 0xa000100000000000000000000000000000000000000000000000000000000000080000 rm = true) : K e (Dev.vregTimeout d rail) pm rm := by
  refine K.lift h hp hr ?_
  clear h hp hr
  unfold Dev.vregTimeout
  extract_lets x1
  clear_value (g1 : x1 = _)
  refine K.cutEq d 0xa 0xa000100000000000000000000000000000000000000000000000000000000000080000 g1 ?_ (fun h1 => ?_)
  rotate_left
  clear g1
  all_goals repeat' first
    | with_reducible exact K.refl _ _ _
    | with_reducible assumption
    | ((with_reducible apply K.put); rotate_left; (first | assumption | exact R.mem_PWR_EVENT | exact R.mem_PWR_STATE | exact R.mem_VREG_STATUS); decide)
    | ((with_reducible apply K.incSat); rotate_left; (first | assumption | exact R.mem_PWR_EVENT | exact R.mem_PWR_STATE | exact R.mem_VREG_STATUS); decide)
    | ((with_reducible apply K.raise); rotate_left; (first | assumption | exact R.mem_PWR_EVENT | exact R.mem_PWR_STATE | exact R.mem_VREG_STATUS); decide; decide; decide)
    | ((with_reducible apply Foot.setVreq); rotate_left; decide; decide)
    | ((with_reducible apply Foot.dropVreq); rotate_left; decide; decide)
    | with_reducible apply K.ite
    | ((with_reducible apply K.foldl); rotate_left; intro d x h; rotate_right)
    | ((with_reducible apply K.foldlFst); rotate_left; intro x y h; rotate_right)
    | ((with_reducible apply K.foldlSnd); rotate_left; intro x y h; rotate_right)
    | with_reducible apply K.fst_ite
    | with_reducible apply K.cond
    | with_reducible refine K.of_fst ?_ (by assumption)
    | with_reducible refine K.of_snd ?_ (by assumption)
    | (split)
    | dsimp only
    | (rw [Dev.mk_tag]; (with_reducible apply K.mk_log); rotate_left; decide)
    | (rw [Dev.mk_tag]; (with_reducible apply K.mk_pwr); rotate_left; decide)
    | (rw [Dev.mk_tag]; (with_reducible apply K.mkT); rotate_left; (intro p hq; cases p <;> first | exact absurd hq (by decide) | rfl | exact ⟨rfl, rfl⟩ | exact fun _ => ⟨rfl, rfl⟩); exact fun w => w)

theorem Foot.vregRetry {e d : Dev} {pm rm : Nat} {rail : Nat} (h : K e d pm rm) (hp : sub 0x8 pm = true)
    (hr : sub 0x100000000000000000000000000000000000000000000000000000000000000000 rm = true) : K e (Dev.vregRetry d rail) pm rm := by
  refine K.lift h hp hr ?_
  clear h hp hr
  unfold Dev.vregRetry
  all_goals repeat' first
    | with_reducible exact K.refl _ _ _
    | with_reducible assumption
    | ((with_reducible apply K.put); rotate_left; (first | assumption | exact R.mem_PWR_STATE); decide)
    | ((with_reducible apply Foot.setVreq); rotate_left; decide; decide)
    | with_reducible apply K.ite
    | ((with_reducible apply K.foldl); rotate_left; intro d x h; rotate_right)
    | ((with_reducible apply K.foldlFst); rotate_left; intro x y h; rotate_right)
    | ((with_reducible apply K.foldlSnd); rotate_left; intro x y h; rotate_right)
    | with_reducible apply K.fst_ite
    | with_reducible apply K.cond
    | with_reducible refine K.of_fst ?_ (by assumption)
    | with_reducible refine K.of_snd ?_ (by assumption)
    | (split)
    | dsimp only
    | (rw [Dev.mk_tag]; (with_reducible apply K.mk_pwr); rotate_left; decide)
    | (rw [Dev.mk_tag]; (with_reducible apply K.mkT); rotate_left; (intro p hq; cases p <;> first | exact absurd hq (by decide) | rfl | exact ⟨rfl, rfl⟩ | exact fun _ => ⟨rfl, rfl⟩); exact fun w => w)

theorem Foot.daleTurbo {e d : Dev} {pm rm : Nat} {on : Bool} (h : K e d pm rm) (hp : sub 0x8 pm = true)
    (hr : sub 0x200000000000000000000000000000000000000000000000000000000000000000 rm = true) : K e (Dev.daleTurbo d on) pm rm := by
  refine K.lift h hp hr ?_
  clear h hp hr
  unfold Dev.daleTurbo
  extract_lets x1
  clear_value (g1 : x1 = _)
  refine K.cutEq d 0x8 0x200000000000000000000000000000000000000000000000000000000000000000 g1 ?_ (fun h1 => ?_)
  rotate_left
  clear g1
  all_goals repeat' first
    | with_reducible exact K.refl _ _ _
    | with_reducible assumption
    | ((with_reducible apply K.flag); rotate_left; (first | assumption | exact R.mem_PWR_CFG | exact R.mem_VREG_STATUS); decide)
    | ((with_reducible apply Foot.vregRequest); rotate_left; decide; decide)
    | ((with_reducible apply Foot.dropVreq); rotate_left; decide; decide)
    | with_reducible apply K.ite
    | ((with_reducible apply K.foldl); rotate_left; intro d x h; rotate_right)
    | ((with_reducible apply K.foldlFst); rotate_left; intro x y h; rotate_right)
    | ((with_reducible apply K.foldlSnd); rotate_left; intro x y h; rotate_right)
    | with_reducible apply K.fst_ite
    | with_reducible apply K.cond
    | with_reducible refine K.of_fst ?_ (by assumption)
    | with_reducible refine K.of_snd ?_ (by assumption)
    | (split)
    | dsimp only
    | (rw [Dev.mk_tag]; (with_reducible apply K.mk_pwr); rotate_left; decide)
    | (rw [Dev.mk_tag]; (with_reducible apply K.mkT); rotate_left; (intro p hq; cases p <;> first | exact absurd hq (by decide) | rfl | exact ⟨rfl, rfl⟩ | exact fun _ => ⟨rfl, rfl⟩); exact fun w => w)

theorem Foot.turboLatch {e d : Dev} {pm rm : Nat} (h : K e d pm rm) (hp : sub 0x8 pm = true)
    (hr : sub 0x0 rm = true) : K e (Dev.turboLatch d) pm rm := by
  refine K.lift h hp hr ?_
  clear h hp hr
  unfold Dev.turboLatch
  all_goals repeat' first
    | with_reducible exact K.refl _ _ _
    | with_reducible assumption
    | ((with_reducible apply K.setPwr); rotate_left; decide)
    | ((with_reducible apply Foot.vregRequest); rotate_left; decide; decide)
    | with_reducible apply K.ite
    | ((with_reducible apply K.foldl); rotate_left; intro d x h; rotate_right)
    | ((with_reducible apply K.foldlFst); rotate_left; intro x y h; rotate_right)
    | ((with_reducible apply K.foldlSnd); rotate_left; intro x y h; rotate_right)
    | with_reducible apply K.fst_ite
    | with_reducible apply K.cond
    | with_reducible refine K.of_fst ?_ (by assumption)
    | with_reducible refine K.of_snd ?_ (by assumption)
    | (split)
    | dsimp only
    | (rw [Dev.mk_tag]; (with_reducible apply K.mk_pwr); rotate_left; decide)
    | (rw [Dev.mk_tag]; (with_reducible apply K.mkT); rotate_left; (intro p hq; cases p <;> first | exact absurd hq (by decide) | rfl | exact ⟨rfl, rfl⟩ | exact fun _ => ⟨rfl, rfl⟩); exact fun w => w)

theorem Foot.domainDown {e d : Dev} {pm rm : Nat} {k0 : Nat} (h : K e d pm rm) (hp : sub 0x8 pm = true)
    (hr : sub 0x84000000000000000000000000000000000000000000000000000000000000000000000 rm = true) : K e (Dev.domainDown d k0) pm rm := by
  refine K.lift h hp hr ?_
  clear h hp hr
  unfold Dev.domainDown
  extract_lets x1 x2 x3
  clear_value (g1 : x1 = _) (g2 : x2 = _) (g3 : x3 = _)
  refine K.cutEq d 0x8 0x84000000000000000000000000000000000000000000000000000000000000000000000 g1 ?_ (fun h1 => ?_)
  rotate_left
  clear g1
  refine K.cutEq d 0x8 0x84000000000000000000000000000000000000000000000000000000000000000000000 g2 ?_ (fun h2 => ?_)
  rotate_left
  clear g2
  refine K.cutEq d 0x8 0x84000000000000000000000000000000000000000000000000000000000000000000000 g3 ?_ (fun h3 => ?_)
  rotate_left
  clear g3
  all_goals repeat' first
    | with_reducible exact K.refl _ _ _
    | with_reducible assumption
    | ((with_reducible apply K.put); rotate_left; (first | assumption | exact R.mem_DOM_STATUS); decide)
    | ((with_reducible apply K.setPwr); rotate_left; decide)
    | ((with_reducible apply Foot.padLatch); rotate_left; decide; decide)
    | ((with_reducible apply Foot.startWake); rotate_left; decide; decide)
    | ((with_reducible apply Foot.tryLower); rotate_left; decide; decide)
    | with_reducible apply K.ite
    | ((with_reducible apply K.foldl); rotate_left; intro d x h; rotate_right)
    | ((with_reducible apply K.foldlFst); rotate_left; intro x y h; rotate_right)
    | ((with_reducible apply K.foldlSnd); rotate_left; intro x y h; rotate_right)
    | with_reducible apply K.fst_ite
    | with_reducible apply K.cond
    | with_reducible refine K.of_fst ?_ (by assumption)
    | with_reducible refine K.of_snd ?_ (by assumption)
    | (split)
    | dsimp only
    | (rw [Dev.mk_tag]; (with_reducible apply K.mk_pwr); rotate_left; decide)
    | (rw [Dev.mk_tag]; (with_reducible apply K.mkT); rotate_left; (intro p hq; cases p <;> first | exact absurd hq (by decide) | rfl | exact ⟨rfl, rfl⟩ | exact fun _ => ⟨rfl, rfl⟩); exact fun w => w)

theorem Foot.heat {e d : Dev} {pm rm : Nat} {panel : Option Int} (h : K e d pm rm) (hp : sub 0x8 pm = true)
    (hr : sub 0x0 rm = true) : K e (Dev.heat d panel) pm rm := by
  refine K.lift h hp hr ?_
  clear h hp hr
  unfold Dev.heat
  all_goals repeat' first
    | with_reducible exact K.refl _ _ _
    | with_reducible assumption
    | ((with_reducible apply K.setPwr); rotate_left; decide)
    | with_reducible apply K.ite
    | ((with_reducible apply K.foldl); rotate_left; intro d x h; rotate_right)
    | ((with_reducible apply K.foldlFst); rotate_left; intro x y h; rotate_right)
    | ((with_reducible apply K.foldlSnd); rotate_left; intro x y h; rotate_right)
    | with_reducible apply K.fst_ite
    | with_reducible apply K.cond
    | with_reducible refine K.of_fst ?_ (by assumption)
    | with_reducible refine K.of_snd ?_ (by assumption)
    | (split)
    | dsimp only
    | (rw [Dev.mk_tag]; (with_reducible apply K.mk_pwr); rotate_left; decide)
    | (rw [Dev.mk_tag]; (with_reducible apply K.mkT); rotate_left; (intro p hq; cases p <;> first | exact absurd hq (by decide) | rfl | exact ⟨rfl, rfl⟩ | exact fun _ => ⟨rfl, rfl⟩); exact fun w => w)

theorem Foot.vigilTick {e d : Dev} {pm rm : Nat} {raw : List (BitVec 16)} {panel : Option (BitVec 8)} {amb : Option (BitVec 16)} (h : K e d pm rm) (hp : sub 0x1800a pm = true)
    (hr : sub 0x400089007900003440000000080000000000000000000000000000000000000000000080000 rm = true) : K e (Dev.vigilTick d raw panel amb) pm rm := by
  refine K.lift h hp hr ?_
  clear h hp hr
  unfold Dev.vigilTick
  extract_lets x1 x2 x3 x4 x5 x6 x7 x8 x9 x10 x11 x12
  clear_value (g1 : x1 = _) (g2 : x2 = _) (g3 : x3 = _) (g4 : x4 = _) (g5 : x5 = _) (g6 : x6 = _) (g7 : x7 = _) (g8 : x8 = _) (g9 : x9 = _) (g10 : x10 = _) (g11 : x11 = _) (g12 : x12 = _)
  refine K.cutEq d 0x1800a 0x400089007900003440000000080000000000000000000000000000000000000000000080000 g1 ?_ (fun h1 => ?_)
  rotate_left
  clear g1
  clear g2
  subst g3
  clear g4
  subst g5
  clear g6
  clear g7
  refine K.cutEq d 0x1800a 0x400089007900003440000000080000000000000000000000000000000000000000000080000 g8 ?_ (fun h8 => ?_)
  rotate_left
  clear g8
  refine K.cutEq d 0x1800a 0x400089007900003440000000080000000000000000000000000000000000000000000080000 g9 ?_ (fun h9 => ?_)
  rotate_left
  clear g9
  refine K.cutEq d 0x1800a 0x400089007900003440000000080000000000000000000000000000000000000000000080000 g10 ?_ (fun h10 => ?_)
  rotate_left
  clear g10
  refine K.cutEq d 0x1800a 0x400089007900003440000000080000000000000000000000000000000000000000000080000 g11 ?_ (fun h11 => ?_)
  rotate_left
  clear g11
  clear g12
  all_goals repeat' first
    | with_reducible exact K.refl _ _ _
    | with_reducible assumption
    | ((with_reducible apply K.put); rotate_left; (first | assumption | exact R.mem_VIGIL_AMB | exact R.mem_VIGIL_CFG | exact R.mem_VIGIL_LAST | exact R.mem_VIGIL_TEMP); decide)
    | ((with_reducible apply K.setPwr); rotate_left; decide)
    | ((with_reducible apply Foot.tsConvert); rotate_left; decide; decide)
    | ((with_reducible apply Foot.heat); rotate_left; decide; decide)
    | ((with_reducible apply Foot.latchWake); rotate_left; decide; decide)
    | with_reducible apply K.ite
    | ((with_reducible apply K.each); rotate_left; intro d x h; rotate_right)
    | ((with_reducible apply K.foldl); rotate_left; intro d x h; rotate_right)
    | ((with_reducible apply K.foldlFst); rotate_left; intro x y h; rotate_right)
    | ((with_reducible apply K.foldlSnd); rotate_left; intro x y h; rotate_right)
    | with_reducible apply K.fst_ite
    | with_reducible apply K.cond
    | with_reducible refine K.of_fst ?_ (by assumption)
    | with_reducible refine K.of_snd ?_ (by assumption)
    | (split)
    | dsimp only
    | (rw [Dev.mk_tag]; (with_reducible apply K.mk_log); rotate_left; decide)
    | (rw [Dev.mk_tag]; (with_reducible apply K.mk_pwr); rotate_left; decide)
    | (rw [Dev.mk_tag]; (with_reducible apply K.mk_bl); rotate_left; decide)
    | (rw [Dev.mk_tag]; (with_reducible apply K.mk_cal); rotate_left; decide)
    | (rw [Dev.mk_tag]; (with_reducible apply K.mkT); rotate_left; (intro p hq; cases p <;> first | exact absurd hq (by decide) | rfl | exact ⟨rfl, rfl⟩ | exact fun _ => ⟨rfl, rfl⟩); exact fun w => w)

end Sys2Proof.Machine
end

