-- ==== Sys2Proof/Laws/FootNv.lean ====
section
/-! SUPPORT.  Footprints of the functions of `Machine/Nv.lean` (see `Keep.lean`): what each leaves alone. -/

set_option Elab.async false
set_option linter.all false

namespace Sys2Proof.Machine

theorem Foot.nvPut {e d : Dev} {pm rm : Nat} {p : Nat} {o : Nat} {bs : List Byte} (h : K e d pm rm) (hp : sub 0x20200000 pm = true)
    (hr : sub 0x0 rm = true) : K e (Dev.nvPut d p o bs) pm rm := by
  refine K.lift h hp hr ?_
  clear h hp hr
  unfold Dev.nvPut
  all_goals repeat' first
    | with_reducible exact K.refl _ _ _
    | with_reducible assumption
    | ((with_reducible apply K.setNv); rotate_left; decide; exact fun _ => rfl)
    | ((with_reducible apply K.setNvMem); rotate_left; decide; decide; (intro c w; first | exact w | exact Memory.wf_write _ _ w | exact Memory.wf_set _ _ w))
    | with_reducible apply K.ite
    | ((with_reducible apply K.foldl); rotate_left; intro d x h; rotate_right)
    | ((with_reducible apply K.foldlFst); rotate_left; intro x y h; rotate_right)
    | ((with_reducible apply K.foldlSnd); rotate_left; intro x y h; rotate_right)
    | with_reducible apply K.fst_ite
    | with_reducible apply K.cond
    | with_reducible refine K.of_fst ?_ (by assumption)
    | with_reducible refine K.of_snd ?_ (by assumption)
    | (split)
    | dsimp only
    | (rw [Dev.mk_tag]; (with_reducible apply K.mk_nv); rotate_left; decide; (first | exact .inl rfl | exact .inl ⟨rfl, rfl⟩ | exact .inr ⟨by decide, by (intro w; first | exact w | exact Memory.wf_write _ _ w | exact Memory.wf_clear _ _ w | exact Memory.wf_filter _ w | exact Memory.wf_set _ _ w)⟩))
    | (rw [Dev.mk_tag]; (with_reducible apply K.mkT); rotate_left; (intro p hq; cases p <;> first | exact absurd hq (by decide) | rfl | exact ⟨rfl, rfl⟩ | exact fun _ => ⟨rfl, rfl⟩); exact fun w => w)

theorem Foot.nvFetch {e d : Dev} {pm rm : Nat} {p : Nat} (h : K e d pm rm) (hp : sub 0x200000 pm = true)
    (hr : sub 0x0 rm = true) : K e (Dev.nvFetch d p).1 pm rm := by
  refine K.lift h hp hr ?_
  clear h hp hr
  unfold Dev.nvFetch
  extract_lets x1 x2 x3
  clear_value (g1 : x1 = _) (g2 : x2 = _) (g3 : x3 = _)
  clear g1
  clear g2
  refine K.cutEq d 0x200000 0x0 g3 ?_ (fun h3 => ?_)
  rotate_left
  clear g3
  all_goals repeat' first
    | with_reducible exact K.refl _ _ _
    | with_reducible assumption
    | ((with_reducible apply K.setNv); rotate_left; decide; exact fun _ => rfl)
    | ((with_reducible apply K.setNvMem); rotate_left; decide; decide; (intro c w; first | exact w | exact Memory.wf_write _ _ w | exact Memory.wf_set _ _ w))
    | with_reducible apply K.ite
    | ((with_reducible apply K.foldl); rotate_left; intro d x h; rotate_right)
    | ((with_reducible apply K.foldlFst); rotate_left; intro x y h; rotate_right)
    | ((with_reducible apply K.foldlSnd); rotate_left; intro x y h; rotate_right)
    | with_reducible apply K.fst_ite
    | with_reducible apply K.cond
    | with_reducible refine K.of_fst ?_ (by assumption)
    | with_reducible refine K.of_snd ?_ (by assumption)
    | (split)
    | dsimp only
    | (rw [Dev.mk_tag]; (with_reducible apply K.mk_nv); rotate_left; decide; (first | exact .inl rfl | exact .inl ⟨rfl, rfl⟩ | exact .inr ⟨by decide, by (intro w; first | exact w | exact Memory.wf_write _ _ w | exact Memory.wf_clear _ _ w | exact Memory.wf_filter _ w | exact Memory.wf_set _ _ w)⟩))
    | (rw [Dev.mk_tag]; (with_reducible apply K.mkT); rotate_left; (intro p hq; cases p <;> first | exact absurd hq (by decide) | rfl | exact ⟨rfl, rfl⟩ | exact fun _ => ⟨rfl, rfl⟩); exact fun w => w)

theorem Foot.setNvStage {e d : Dev} {pm rm : Nat} {k0 : Nat} (h : K e d pm rm) (hp : sub 0x0 pm = true)
    (hr : sub 0x80000000000000000000000000000000000000000000000000000000000000000000000000000 rm = true) : K e (Dev.setNvStage d k0) pm rm := by
  refine K.lift h hp hr ?_
  clear h hp hr
  unfold Dev.setNvStage
  all_goals repeat' first
    | with_reducible exact K.refl _ _ _
    | with_reducible assumption
    | ((with_reducible apply K.put); rotate_left; (first | assumption | exact R.mem_NV_STATUS); decide)
    | ((with_reducible apply K.flag); rotate_left; (first | assumption | exact R.mem_NV_STATUS); decide)
    | with_reducible apply K.ite
    | ((with_reducible apply K.foldl); rotate_left; intro d x h; rotate_right)
    | ((with_reducible apply K.foldlFst); rotate_left; intro x y h; rotate_right)
    | ((with_reducible apply K.foldlSnd); rotate_left; intro x y h; rotate_right)
    | with_reducible apply K.fst_ite
    | with_reducible apply K.cond
    | with_reducible refine K.of_fst ?_ (by assumption)
    | with_reducible refine K.of_snd ?_ (by assumption)
    | (split)
    | dsimp only
    | (rw [Dev.mk_tag]; (with_reducible apply K.mkT); rotate_left; (intro p hq; cases p <;> first | exact absurd hq (by decide) | rfl | exact ⟨rfl, rfl⟩ | exact fun _ => ⟨rfl, rfl⟩); exact fun w => w)

theorem Foot.nvSpan {e d : Dev} {pm rm : Nat} (h : K e d pm rm) (hp : sub 0x200000 pm = true)
    (hr : sub 0x80000000000000000000000000000000000000000000000000000000000000000000000000000 rm = true) : K e (Dev.nvSpan d) pm rm := by
  refine K.lift h hp hr ?_
  clear h hp hr
  unfold Dev.nvSpan
  all_goals repeat' first
    | with_reducible exact K.refl _ _ _
    | with_reducible assumption
    | ((with_reducible apply K.setNv); rotate_left; decide; exact fun _ => rfl)
    | ((with_reducible apply K.setNvMem); rotate_left; decide; decide; (intro c w; first | exact w | exact Memory.wf_write _ _ w | exact Memory.wf_set _ _ w))
    | ((with_reducible apply Foot.setNvStage); rotate_left; decide; decide)
    | with_reducible apply K.ite
    | ((with_reducible apply K.foldl); rotate_left; intro d x h; rotate_right)
    | ((with_reducible apply K.foldlFst); rotate_left; intro x y h; rotate_right)
    | ((with_reducible apply K.foldlSnd); rotate_left; intro x y h; rotate_right)
    | with_reducible apply K.fst_ite
    | with_reducible apply K.cond
    | with_reducible refine K.of_fst ?_ (by assumption)
    | with_reducible refine K.of_snd ?_ (by assumption)
    | (split)
    | dsimp only
    | (rw [Dev.mk_tag]; (with_reducible apply K.mk_nv); rotate_left; decide; (first | exact .inl rfl | exact .inl ⟨rfl, rfl⟩ | exact .inr ⟨by decide, by (intro w; first | exact w | exact Memory.wf_write _ _ w | exact Memory.wf_clear _ _ w | exact Memory.wf_filter _ w | exact Memory.wf_set _ _ w)⟩))
    | (rw [Dev.mk_tag]; (with_reducible apply K.mkT); rotate_left; (intro p hq; cases p <;> first | exact absurd hq (by decide) | rfl | exact ⟨rfl, rfl⟩ | exact fun _ => ⟨rfl, rfl⟩); exact fun w => w)

theorem Foot.nvSave {e d : Dev} {pm rm : Nat} (h : K e d pm rm) (hp : sub 0x200000 pm = true)
    (hr : sub 0x80000000000000000000000000000000000000000000000000000000000000000000000000000 rm = true) : K e (Dev.nvSave d) pm rm := by
  refine K.lift h hp hr ?_
  clear h hp hr
  unfold Dev.nvSave
  all_goals repeat' first
    | with_reducible exact K.refl _ _ _
    | with_reducible assumption
    | ((with_reducible apply K.put); rotate_left; (first | assumption | exact R.mem_NV_STATUS); decide)
    | ((with_reducible apply K.setNv); rotate_left; decide; exact fun _ => rfl)
    | ((with_reducible apply K.setNvMem); rotate_left; decide; decide; (intro c w; first | exact w | exact Memory.wf_write _ _ w | exact Memory.wf_set _ _ w))
    | ((with_reducible apply Foot.nvSpan); rotate_left; decide; decide)
    | with_reducible apply K.ite
    | ((with_reducible apply K.foldl); rotate_left; intro d x h; rotate_right)
    | ((with_reducible apply K.foldlFst); rotate_left; intro x y h; rotate_right)
    | ((with_reducible apply K.foldlSnd); rotate_left; intro x y h; rotate_right)
    | with_reducible apply K.fst_ite
    | with_reducible apply K.cond
    | with_reducible refine K.of_fst ?_ (by assumption)
    | with_reducible refine K.of_snd ?_ (by assumption)
    | (split)
    | dsimp only
    | (rw [Dev.mk_tag]; (with_reducible apply K.mk_nv); rotate_left; decide; (first | exact .inl rfl | exact .inl ⟨rfl, rfl⟩ | exact .inr ⟨by decide, by (intro w; first | exact w | exact Memory.wf_write _ _ w | exact Memory.wf_clear _ _ w | exact Memory.wf_filter _ w | exact Memory.wf_set _ _ w)⟩))
    | (rw [Dev.mk_tag]; (with_reducible apply K.mkT); rotate_left; (intro p hq; cases p <;> first | exact absurd hq (by decide) | rfl | exact ⟨rfl, rfl⟩ | exact fun _ => ⟨rfl, rfl⟩); exact fun w => w)

theorem Foot.nvEnd {e d : Dev} {pm rm : Nat} {err : Nat} (h : K e d pm rm) (hp : sub 0x200002 pm = true)
    (hr : sub 0x190000000000000000000000000000000000000000000000000000000000000000000000080000 rm = true) : K e (Dev.nvEnd d err) pm rm := by
  refine K.lift h hp hr ?_
  clear h hp hr
  unfold Dev.nvEnd
  extract_lets x1
  clear_value (g1 : x1 = _)
  refine K.cutEq d 0x200002 0x190000000000000000000000000000000000000000000000000000000000000000000000080000 g1 ?_ (fun h1 => ?_)
  rotate_left
  clear g1
  all_goals repeat' first
    | with_reducible exact K.refl _ _ _
    | with_reducible assumption
    | ((with_reducible apply K.put); rotate_left; (first | assumption | exact R.mem_NV_CMD | exact R.mem_NV_EVENT | exact R.mem_NV_STATUS); decide)
    | ((with_reducible apply K.raise); rotate_left; (first | assumption | exact R.mem_NV_CMD | exact R.mem_NV_EVENT | exact R.mem_NV_STATUS); decide; decide; decide)
    | ((with_reducible apply K.raiseIf); rotate_left; (first | assumption | exact R.mem_NV_CMD | exact R.mem_NV_EVENT | exact R.mem_NV_STATUS); decide; decide; decide)
    | ((with_reducible apply K.setNv); rotate_left; decide; exact fun _ => rfl)
    | ((with_reducible apply K.setNvMem); rotate_left; decide; decide; (intro c w; first | exact w | exact Memory.wf_write _ _ w | exact Memory.wf_set _ _ w))
    | ((with_reducible apply Foot.nvSave); rotate_left; decide; decide)
    | with_reducible apply K.ite
    | ((with_reducible apply K.foldl); rotate_left; intro d x h; rotate_right)
    | ((with_reducible apply K.foldlFst); rotate_left; intro x y h; rotate_right)
    | ((with_reducible apply K.foldlSnd); rotate_left; intro x y h; rotate_right)
    | with_reducible apply K.fst_ite
    | with_reducible apply K.cond
    | with_reducible refine K.of_fst ?_ (by assumption)
    | with_reducible refine K.of_snd ?_ (by assumption)
    | (split)
    | dsimp only
    | (rw [Dev.mk_tag]; (with_reducible apply K.mk_log); rotate_left; decide)
    | (rw [Dev.mk_tag]; (with_reducible apply K.mk_nv); rotate_left; decide; (first | exact .inl rfl | exact .inl ⟨rfl, rfl⟩ | exact .inr ⟨by decide, by (intro w; first | exact w | exact Memory.wf_write _ _ w | exact Memory.wf_clear _ _ w | exact Memory.wf_filter _ w | exact Memory.wf_set _ _ w)⟩))
    | (rw [Dev.mk_tag]; (with_reducible apply K.mkT); rotate_left; (intro p hq; cases p <;> first | exact absurd hq (by decide) | rfl | exact ⟨rfl, rfl⟩ | exact fun _ => ⟨rfl, rfl⟩); exact fun w => w)

theorem Foot.nvOwnEnd {e d : Dev} {pm rm : Nat} (h : K e d pm rm) (hp : sub 0x200000 pm = true)
    (hr : sub 0x80000000000000000000000000000000000000000000000000000000000000000000000000000 rm = true) : K e (Dev.nvOwnEnd d) pm rm := by
  refine K.lift h hp hr ?_
  clear h hp hr
  unfold Dev.nvOwnEnd
  all_goals repeat' first
    | with_reducible exact K.refl _ _ _
    | with_reducible assumption
    | ((with_reducible apply K.put); rotate_left; (first | assumption | exact R.mem_NV_STATUS); decide)
    | ((with_reducible apply K.setNv); rotate_left; decide; exact fun _ => rfl)
    | ((with_reducible apply K.setNvMem); rotate_left; decide; decide; (intro c w; first | exact w | exact Memory.wf_write _ _ w | exact Memory.wf_set _ _ w))
    | ((with_reducible apply Foot.nvSave); rotate_left; decide; decide)
    | with_reducible apply K.ite
    | ((with_reducible apply K.foldl); rotate_left; intro d x h; rotate_right)
    | ((with_reducible apply K.foldlFst); rotate_left; intro x y h; rotate_right)
    | ((with_reducible apply K.foldlSnd); rotate_left; intro x y h; rotate_right)
    | with_reducible apply K.fst_ite
    | with_reducible apply K.cond
    | with_reducible refine K.of_fst ?_ (by assumption)
    | with_reducible refine K.of_snd ?_ (by assumption)
    | (split)
    | dsimp only
    | (rw [Dev.mk_tag]; (with_reducible apply K.mk_nv); rotate_left; decide; (first | exact .inl rfl | exact .inl ⟨rfl, rfl⟩ | exact .inr ⟨by decide, by (intro w; first | exact w | exact Memory.wf_write _ _ w | exact Memory.wf_clear _ _ w | exact Memory.wf_filter _ w | exact Memory.wf_set _ _ w)⟩))
    | (rw [Dev.mk_tag]; (with_reducible apply K.mkT); rotate_left; (intro p hq; cases p <;> first | exact absurd hq (by decide) | rfl | exact ⟨rfl, rfl⟩ | exact fun _ => ⟨rfl, rfl⟩); exact fun w => w)

theorem Foot.nvReject {e d : Dev} {pm rm : Nat} {err : Nat} (h : K e d pm rm) (hp : sub 0x2 pm = true)
    (hr : sub 0x180000000000000000000000000000000000000000000000000000000000000000000000080000 rm = true) : K e (Dev.nvReject d err) pm rm := by
  refine K.lift h hp hr ?_
  clear h hp hr
  unfold Dev.nvReject
  all_goals repeat' first
    | with_reducible exact K.refl _ _ _
    | with_reducible assumption
    | ((with_reducible apply K.put); rotate_left; (first | assumption | exact R.mem_NV_EVENT | exact R.mem_NV_STATUS); decide)
    | ((with_reducible apply K.raise); rotate_left; (first | assumption | exact R.mem_NV_EVENT | exact R.mem_NV_STATUS); decide; decide; decide)
    | with_reducible apply K.ite
    | ((with_reducible apply K.foldl); rotate_left; intro d x h; rotate_right)
    | ((with_reducible apply K.foldlFst); rotate_left; intro x y h; rotate_right)
    | ((with_reducible apply K.foldlSnd); rotate_left; intro x y h; rotate_right)
    | with_reducible apply K.fst_ite
    | with_reducible apply K.cond
    | with_reducible refine K.of_fst ?_ (by assumption)
    | with_reducible refine K.of_snd ?_ (by assumption)
    | (split)
    | dsimp only
    | (rw [Dev.mk_tag]; (with_reducible apply K.mk_log); rotate_left; decide)
    | (rw [Dev.mk_tag]; (with_reducible apply K.mkT); rotate_left; (intro p hq; cases p <;> first | exact absurd hq (by decide) | rfl | exact ⟨rfl, rfl⟩ | exact fun _ => ⟨rfl, rfl⟩); exact fun w => w)

theorem Foot.nvStart {e d : Dev} {pm rm : Nat} {todo : List NvWrite} {after : NvAfter} (h : K e d pm rm) (hp : sub 0x200000 pm = true)
    (hr : sub 0x90000000000000000000000000000000000000000000000000000000000000000000000000000 rm = true) : K e (Dev.nvStart d todo after) pm rm := by
  refine K.lift h hp hr ?_
  clear h hp hr
  unfold Dev.nvStart
  all_goals repeat' first
    | with_reducible exact K.refl _ _ _
    | with_reducible assumption
    | ((with_reducible apply K.put); rotate_left; (first | assumption | exact R.mem_NV_CMD | exact R.mem_NV_STATUS); decide)
    | ((with_reducible apply K.setNv); rotate_left; decide; exact fun _ => rfl)
    | ((with_reducible apply K.setNvMem); rotate_left; decide; decide; (intro c w; first | exact w | exact Memory.wf_write _ _ w | exact Memory.wf_set _ _ w))
    | ((with_reducible apply Foot.nvSpan); rotate_left; decide; decide)
    | with_reducible apply K.ite
    | ((with_reducible apply K.foldl); rotate_left; intro d x h; rotate_right)
    | ((with_reducible apply K.foldlFst); rotate_left; intro x y h; rotate_right)
    | ((with_reducible apply K.foldlSnd); rotate_left; intro x y h; rotate_right)
    | with_reducible apply K.fst_ite
    | with_reducible apply K.cond
    | with_reducible refine K.of_fst ?_ (by assumption)
    | with_reducible refine K.of_snd ?_ (by assumption)
    | (split)
    | dsimp only
    | (rw [Dev.mk_tag]; (with_reducible apply K.mk_nv); rotate_left; decide; (first | exact .inl rfl | exact .inl ⟨rfl, rfl⟩ | exact .inr ⟨by decide, by (intro w; first | exact w | exact Memory.wf_write _ _ w | exact Memory.wf_clear _ _ w | exact Memory.wf_filter _ w | exact Memory.wf_set _ _ w)⟩))
    | (rw [Dev.mk_tag]; (with_reducible apply K.mkT); rotate_left; (intro p hq; cases p <;> first | exact absurd hq (by decide) | rfl | exact ⟨rfl, rfl⟩ | exact fun _ => ⟨rfl, rfl⟩); exact fun w => w)

theorem Foot.nvAfter {e d : Dev} {pm rm : Nat} {o : NvOp} (h : K e d pm rm) (hp : sub 0x200002 pm = true)
    (hr : sub 0x8d90000000000000000000000000000000000000000000000000000000000000000000000080000 rm = true) : K e (Dev.nvAfter d o) pm rm := by
  refine K.lift h hp hr ?_
  clear h hp hr
  unfold Dev.nvAfter
  extract_lets x1 x2
  clear_value (g1 : x1 = _) (g2 : x2 = _)
  subst g1
  refine K.cutEq d 0x200002 0x8d90000000000000000000000000000000000000000000000000000000000000000000000080000 g2 ?_ (fun h2 => ?_)
  rotate_left
  clear g2
  all_goals repeat' first
    | with_reducible exact K.refl _ _ _
    | with_reducible assumption
    | ((with_reducible apply K.put); rotate_left; (first | assumption | exact R.mem_NV_EVENT | exact R.mem_NV_RECOVERY | exact R.mem_NV_REFRESH_COUNT | exact R.mem_NV_SEL | exact R.mem_NV_STATUS); decide)
    | ((with_reducible apply K.inc); rotate_left; (first | assumption | exact R.mem_NV_EVENT | exact R.mem_NV_RECOVERY | exact R.mem_NV_REFRESH_COUNT | exact R.mem_NV_SEL | exact R.mem_NV_STATUS); decide)
    | ((with_reducible apply K.raise); rotate_left; (first | assumption | exact R.mem_NV_EVENT | exact R.mem_NV_RECOVERY | exact R.mem_NV_REFRESH_COUNT | exact R.mem_NV_SEL | exact R.mem_NV_STATUS); decide; decide; decide)
    | ((with_reducible apply K.setNv); rotate_left; decide; exact fun _ => rfl)
    | ((with_reducible apply K.setNvMem); rotate_left; decide; decide; (intro c w; first | exact w | exact Memory.wf_write _ _ w | exact Memory.wf_set _ _ w))
    | ((with_reducible apply Foot.nvSpan); rotate_left; decide; decide)
    | ((with_reducible apply Foot.nvEnd); rotate_left; decide; decide)
    | ((with_reducible apply Foot.nvOwnEnd); rotate_left; decide; decide)
    | with_reducible apply K.ite
    | ((with_reducible apply K.foldl); rotate_left; intro d x h; rotate_right)
    | ((with_reducible apply K.foldlFst); rotate_left; intro x y h; rotate_right)
    | ((with_reducible apply K.foldlSnd); rotate_left; intro x y h; rotate_right)
    | with_reducible apply K.fst_ite
    | with_reducible apply K.cond
    | with_reducible refine K.of_fst ?_ (by assumption)
    | with_reducible refine K.of_snd ?_ (by assumption)
    | (split)
    | dsimp only
    | (rw [Dev.mk_tag]; (with_reducible apply K.mk_log); rotate_left; decide)
    | (rw [Dev.mk_tag]; (with_reducible apply K.mk_nv); rotate_left; decide; (first | exact .inl rfl | exact .inl ⟨rfl, rfl⟩ | exact .inr ⟨by decide, by (intro w; first | exact w | exact Memory.wf_write _ _ w | exact Memory.wf_clear _ _ w | exact Memory.wf_filter _ w | exact Memory.wf_set _ _ w)⟩))
    | (rw [Dev.mk_tag]; (with_reducible apply K.mkT); rotate_left; (intro p hq; cases p <;> first | exact absurd hq (by decide) | rfl | exact ⟨rfl, rfl⟩ | exact fun _ => ⟨rfl, rfl⟩); exact fun w => w)

theorem Foot.burstStart {e d : Dev} {pm rm : Nat} (h : K e d pm rm) (hp : sub 0x200000 pm = true)
    (hr : sub 0x80000000000000000000000000000000000000000000000000000000000000000000000000000 rm = true) : K e (Dev.burstStart d) pm rm := by
  refine K.lift h hp hr ?_
  clear h hp hr
  unfold Dev.burstStart
  all_goals repeat' first
    | with_reducible exact K.refl _ _ _
    | with_reducible assumption
    | ((with_reducible apply K.put); rotate_left; (first | assumption | exact R.mem_NV_STATUS); decide)
    | ((with_reducible apply K.setNv); rotate_left; decide; exact fun _ => rfl)
    | ((with_reducible apply K.setNvMem); rotate_left; decide; decide; (intro c w; first | exact w | exact Memory.wf_write _ _ w | exact Memory.wf_set _ _ w))
    | ((with_reducible apply Foot.setNvStage); rotate_left; decide; decide)
    | with_reducible apply K.ite
    | ((with_reducible apply K.foldl); rotate_left; intro d x h; rotate_right)
    | ((with_reducible apply K.foldlFst); rotate_left; intro x y h; rotate_right)
    | ((with_reducible apply K.foldlSnd); rotate_left; intro x y h; rotate_right)
    | with_reducible apply K.fst_ite
    | with_reducible apply K.cond
    | with_reducible refine K.of_fst ?_ (by assumption)
    | with_reducible refine K.of_snd ?_ (by assumption)
    | (split)
    | dsimp only
    | (rw [Dev.mk_tag]; (with_reducible apply K.mk_nv); rotate_left; decide; (first | exact .inl rfl | exact .inl ⟨rfl, rfl⟩ | exact .inr ⟨by decide, by (intro w; first | exact w | exact Memory.wf_write _ _ w | exact Memory.wf_clear _ _ w | exact Memory.wf_filter _ w | exact Memory.wf_set _ _ w)⟩))
    | (rw [Dev.mk_tag]; (with_reducible apply K.mkT); rotate_left; (intro p hq; cases p <;> first | exact absurd hq (by decide) | rfl | exact ⟨rfl, rfl⟩ | exact fun _ => ⟨rfl, rfl⟩); exact fun w => w)

theorem Foot.spanEnd {e d : Dev} {pm rm : Nat} (h : K e d pm rm) (hp : sub 0x200002 pm = true)
    (hr : sub 0x8d90000000000000000000000000000000000000000000000000000000000000000000000080000 rm = true) : K e (Dev.spanEnd d) pm rm := by
  refine K.lift h hp hr ?_
  clear h hp hr
  unfold Dev.spanEnd
  all_goals repeat' first
    | with_reducible exact K.refl _ _ _
    | with_reducible assumption
    | ((with_reducible apply K.put); rotate_left; (first | assumption | exact R.mem_NV_CMD | exact R.mem_NV_STATUS); decide)
    | ((with_reducible apply K.inc); rotate_left; (first | assumption | exact R.mem_NV_CMD | exact R.mem_NV_STATUS); decide)
    | ((with_reducible apply K.setNv); rotate_left; decide; exact fun _ => rfl)
    | ((with_reducible apply K.setNvMem); rotate_left; decide; decide; (intro c w; first | exact w | exact Memory.wf_write _ _ w | exact Memory.wf_set _ _ w))
    | ((with_reducible apply Foot.setNvStage); rotate_left; decide; decide)
    | ((with_reducible apply Foot.nvReject); rotate_left; decide; decide)
    | ((with_reducible apply Foot.nvAfter); rotate_left; decide; decide)
    | ((with_reducible apply Foot.burstStart); rotate_left; decide; decide)
    | with_reducible apply K.ite
    | ((with_reducible apply K.foldl); rotate_left; intro d x h; rotate_right)
    | ((with_reducible apply K.foldlFst); rotate_left; intro x y h; rotate_right)
    | ((with_reducible apply K.foldlSnd); rotate_left; intro x y h; rotate_right)
    | with_reducible apply K.fst_ite
    | with_reducible apply K.cond
    | with_reducible refine K.of_fst ?_ (by assumption)
    | with_reducible refine K.of_snd ?_ (by assumption)
    | (split)
    | dsimp only
    | (rw [Dev.mk_tag]; (with_reducible apply K.mk_log); rotate_left; decide)
    | (rw [Dev.mk_tag]; (with_reducible apply K.mk_nv); rotate_left; decide; (first | exact .inl rfl | exact .inl ⟨rfl, rfl⟩ | exact .inr ⟨by decide, by (intro w; first | exact w | exact Memory.wf_write _ _ w | exact Memory.wf_clear _ _ w | exact Memory.wf_filter _ w | exact Memory.wf_set _ _ w)⟩))
    | (rw [Dev.mk_tag]; (with_reducible apply K.mkT); rotate_left; (intro p hq; cases p <;> first | exact absurd hq (by decide) | rfl | exact ⟨rfl, rfl⟩ | exact fun _ => ⟨rfl, rfl⟩); exact fun w => w)

theorem Foot.nvProgramDone {e d : Dev} {pm rm : Nat} (h : K e d pm rm) (hp : sub 0x20200002 pm = true)
    (hr : sub 0xcd90000000000000000000000000000000000000000000000000000000000000000000000080000 rm = true) : K e (Dev.nvProgramDone d) pm rm := by
  refine K.lift h hp hr ?_
  clear h hp hr
  unfold Dev.nvProgramDone
  extract_lets x1 x2
  clear_value (g1 : x1 = _) (g2 : x2 = _)
  clear g1
  refine K.cutEq d 0x20200002 0xcd90000000000000000000000000000000000000000000000000000000000000000000000080000 g2 ?_ (fun h2 => ?_)
  rotate_left
  clear g2
  all_goals repeat' first
    | with_reducible exact K.refl _ _ _
    | with_reducible assumption
    | ((with_reducible apply K.put); rotate_left; (first | assumption | exact R.mem_NV_JRNL_COUNT | exact R.mem_NV_STATUS); decide)
    | ((with_reducible apply K.inc); rotate_left; (first | assumption | exact R.mem_NV_JRNL_COUNT | exact R.mem_NV_STATUS); decide)
    | ((with_reducible apply K.setNv); rotate_left; decide; exact fun _ => rfl)
    | ((with_reducible apply K.setNvMem); rotate_left; decide; decide; (intro c w; first | exact w | exact Memory.wf_write _ _ w | exact Memory.wf_set _ _ w))
    | ((with_reducible apply Foot.nvPut); rotate_left; decide; decide)
    | ((with_reducible apply Foot.setNvStage); rotate_left; decide; decide)
    | ((with_reducible apply Foot.spanEnd); rotate_left; decide; decide)
    | with_reducible apply K.ite
    | ((with_reducible apply K.each); rotate_left; intro d x h; rotate_right)
    | ((with_reducible apply K.foldl); rotate_left; intro d x h; rotate_right)
    | ((with_reducible apply K.foldlFst); rotate_left; intro x y h; rotate_right)
    | ((with_reducible apply K.foldlSnd); rotate_left; intro x y h; rotate_right)
    | with_reducible apply K.fst_ite
    | with_reducible apply K.cond
    | with_reducible refine K.of_fst ?_ (by assumption)
    | with_reducible refine K.of_snd ?_ (by assumption)
    | (split)
    | dsimp only
    | (rw [Dev.mk_tag]; (with_reducible apply K.mk_log); rotate_left; decide)
    | (rw [Dev.mk_tag]; (with_reducible apply K.mk_nv); rotate_left; decide; (first | exact .inl rfl | exact .inl ⟨rfl, rfl⟩ | exact .inr ⟨by decide, by (intro w; first | exact w | exact Memory.wf_write _ _ w | exact Memory.wf_clear _ _ w | exact Memory.wf_filter _ w | exact Memory.wf_set _ _ w)⟩))
    | (rw [Dev.mk_tag]; (with_reducible apply K.mkT); rotate_left; (intro p hq; cases p <;> first | exact absurd hq (by decide) | rfl | exact ⟨rfl, rfl⟩ | exact fun _ => ⟨rfl, rfl⟩); exact fun w => w)

theorem Foot.nvSpanGap {e d : Dev} {pm rm : Nat} (h : K e d pm rm) (hp : sub 0x200000 pm = true)
    (hr : sub 0x80000000000000000000000000000000000000000000000000000000000000000000000000000 rm = true) : K e (Dev.nvSpanGap d) pm rm := by
  refine K.lift h hp hr ?_
  clear h hp hr
  unfold Dev.nvSpanGap
  all_goals repeat' first
    | with_reducible exact K.refl _ _ _
    | with_reducible assumption
    | ((with_reducible apply K.setNv); rotate_left; decide; exact fun _ => rfl)
    | ((with_reducible apply K.setNvMem); rotate_left; decide; decide; (intro c w; first | exact w | exact Memory.wf_write _ _ w | exact Memory.wf_set _ _ w))
    | ((with_reducible apply Foot.nvSpan); rotate_left; decide; decide)
    | with_reducible apply K.ite
    | ((with_reducible apply K.foldl); rotate_left; intro d x h; rotate_right)
    | ((with_reducible apply K.foldlFst); rotate_left; intro x y h; rotate_right)
    | ((with_reducible apply K.foldlSnd); rotate_left; intro x y h; rotate_right)
    | with_reducible apply K.fst_ite
    | with_reducible apply K.cond
    | with_reducible refine K.of_fst ?_ (by assumption)
    | with_reducible refine K.of_snd ?_ (by assumption)
    | (split)
    | dsimp only
    | (rw [Dev.mk_tag]; (with_reducible apply K.mk_nv); rotate_left; decide; (first | exact .inl rfl | exact .inl ⟨rfl, rfl⟩ | exact .inr ⟨by decide, by (intro w; first | exact w | exact Memory.wf_write _ _ w | exact Memory.wf_clear _ _ w | exact Memory.wf_filter _ w | exact Memory.wf_set _ _ w)⟩))
    | (rw [Dev.mk_tag]; (with_reducible apply K.mkT); rotate_left; (intro p hq; cases p <;> first | exact absurd hq (by decide) | rfl | exact ⟨rfl, rfl⟩ | exact fun _ => ⟨rfl, rfl⟩); exact fun w => w)

theorem Foot.nvOff {e d : Dev} {pm rm : Nat} (h : K e d pm rm) (hp : sub 0x200000 pm = true)
    (hr : sub 0x0 rm = true) : K e (Dev.nvOff d) pm rm := by
  refine K.lift h hp hr ?_
  clear h hp hr
  unfold Dev.nvOff
  all_goals repeat' first
    | with_reducible exact K.refl _ _ _
    | with_reducible assumption
    | ((with_reducible apply K.setNv); rotate_left; decide; exact fun _ => rfl)
    | ((with_reducible apply K.setNvMem); rotate_left; decide; decide; (intro c w; first | exact w | exact Memory.wf_write _ _ w | exact Memory.wf_set _ _ w))
    | with_reducible apply K.ite
    | ((with_reducible apply K.foldl); rotate_left; intro d x h; rotate_right)
    | ((with_reducible apply K.foldlFst); rotate_left; intro x y h; rotate_right)
    | ((with_reducible apply K.foldlSnd); rotate_left; intro x y h; rotate_right)
    | with_reducible apply K.fst_ite
    | with_reducible apply K.cond
    | with_reducible refine K.of_fst ?_ (by assumption)
    | with_reducible refine K.of_snd ?_ (by assumption)
    | (split)
    | dsimp only
    | (rw [Dev.mk_tag]; (with_reducible apply K.mk_nv); rotate_left; decide; (first | exact .inl rfl | exact .inl ⟨rfl, rfl⟩ | exact .inr ⟨by decide, by (intro w; first | exact w | exact Memory.wf_write _ _ w | exact Memory.wf_clear _ _ w | exact Memory.wf_filter _ w | exact Memory.wf_set _ _ w)⟩))
    | (rw [Dev.mk_tag]; (with_reducible apply K.mkT); rotate_left; (intro p hq; cases p <;> first | exact absurd hq (by decide) | rfl | exact ⟨rfl, rfl⟩ | exact fun _ => ⟨rfl, rfl⟩); exact fun w => w)

theorem Foot.nvCommand {e d : Dev} {pm rm : Nat} {op : Nat} {count : Nat} {part : Nat} {kind : Bool} {f : Dev → Dev} (h : K e d pm rm) (hp : sub 0x200002 pm = true)
    (hr : sub 0x190000000000000000000000000000000000000000000000000000000000000000000000080000 rm = true) (hf_f : ∀ d', K e d' pm rm → K e (f d') pm rm) : K e (Dev.nvCommand d op count part kind f) pm rm := by
  unfold Dev.nvCommand
  extract_lets x1
  clear_value (g1 : x1 = _)
  refine K.cutEq e pm rm g1 ?_ (fun h1 => ?_)
  rotate_left
  clear g1
  all_goals repeat' first
    | with_reducible apply hf_f
    | with_reducible exact K.refl _ _ _
    | with_reducible assumption
    | ((with_reducible apply K.put); rotate_left; (first | assumption | exact R.mem_NV_CMD | exact R.mem_NV_STATUS); (first | decide | assumption | exact sub_trans (by decide) hp | exact sub_trans (by decide) hr | exact sub_testBit' hp (by decide) | exact sub_testBit' hr (by decide)))
    | ((with_reducible apply K.flag); rotate_left; (first | assumption | exact R.mem_NV_CMD | exact R.mem_NV_STATUS); (first | decide | assumption | exact sub_trans (by decide) hp | exact sub_trans (by decide) hr | exact sub_testBit' hp (by decide) | exact sub_testBit' hr (by decide)))
    | ((with_reducible apply K.setNv); rotate_left; (first | decide | assumption | exact sub_trans (by decide) hp | exact sub_trans (by decide) hr | exact sub_testBit' hp (by decide) | exact sub_testBit' hr (by decide)); exact fun _ => rfl)
    | ((with_reducible apply K.setNvMem); rotate_left; (first | decide | assumption | exact sub_trans (by decide) hp | exact sub_trans (by decide) hr | exact sub_testBit' hp (by decide) | exact sub_testBit' hr (by decide)); (first | decide | assumption | exact sub_trans (by decide) hp | exact sub_trans (by decide) hr | exact sub_testBit' hp (by decide) | exact sub_testBit' hr (by decide)); (intro c w; first | exact w | exact Memory.wf_write _ _ w | exact Memory.wf_set _ _ w))
    | ((with_reducible apply Foot.nvReject); rotate_left; (first | decide | assumption | exact sub_trans (by decide) hp | exact sub_trans (by decide) hr | exact sub_testBit' hp (by decide) | exact sub_testBit' hr (by decide)); (first | decide | assumption | exact sub_trans (by decide) hp | exact sub_trans (by decide) hr | exact sub_testBit' hp (by decide) | exact sub_testBit' hr (by decide)))
    | with_reducible apply K.ite
    | ((with_reducible apply K.foldl); rotate_left; intro d x h; rotate_right)
    | ((with_reducible apply K.foldlFst); rotate_left; intro x y h; rotate_right)
    | ((with_reducible apply K.foldlSnd); rotate_left; intro x y h; rotate_right)
    | with_reducible apply K.fst_ite
    | with_reducible apply K.cond
    | with_reducible refine K.of_fst ?_ (by assumption)
    | with_reducible refine K.of_snd ?_ (by assumption)
    | (split)
    | dsimp only
    | (rw [Dev.mk_tag]; (with_reducible apply K.mk_log); rotate_left; (first | decide | assumption | exact sub_trans (by decide) hp | exact sub_trans (by decide) hr | exact sub_testBit' hp (by decide) | exact sub_testBit' hr (by decide)))
    | (rw [Dev.mk_tag]; (with_reducible apply K.mk_nv); rotate_left; (first | decide | assumption | exact sub_trans (by decide) hp | exact sub_trans (by decide) hr | exact sub_testBit' hp (by decide) | exact sub_testBit' hr (by decide)); (first | exact .inl rfl | exact .inl ⟨rfl, rfl⟩ | exact .inr ⟨by (first | decide | assumption | exact sub_trans (by decide) hp | exact sub_trans (by decide) hr | exact sub_testBit' hp (by decide) | exact sub_testBit' hr (by decide)), by (intro w; first | exact w | exact Memory.wf_write _ _ w | exact Memory.wf_clear _ _ w | exact Memory.wf_filter _ w | exact Memory.wf_set _ _ w)⟩))
    | (rw [Dev.mk_tag]; (with_reducible apply K.mkT); rotate_left; (intro p hq; cases p <;> first | exact absurd hq (by (first | decide | assumption | exact sub_trans (by decide) hp | exact sub_trans (by decide) hr | exact sub_testBit' hp (by decide) | exact sub_testBit' hr (by decide))) | rfl | exact ⟨rfl, rfl⟩ | exact fun _ => ⟨rfl, rfl⟩); exact fun w => w)

theorem Foot.setNvBuf {e d : Dev} {pm rm : Nat} {bs : List Byte} (h : K e d pm rm) (hp : sub 0x0 pm = true)
    (hr : sub 0x10000000000000000000000000000000000000000000000000000000000000000000000000000000 rm = true) : K e (Dev.setNvBuf d bs) pm rm := by
  refine K.lift h hp hr ?_
  clear h hp hr
  unfold Dev.setNvBuf
  all_goals repeat' first
    | with_reducible exact K.refl _ _ _
    | with_reducible assumption
    | ((with_reducible apply K.put); rotate_left; (first | assumption | exact R.mem_NV_BUF); decide)
    | with_reducible apply K.ite
    | ((with_reducible apply K.each); rotate_left; intro d x h; rotate_right)
    | ((with_reducible apply K.foldl); rotate_left; intro d x h; rotate_right)
    | ((with_reducible apply K.foldlFst); rotate_left; intro x y h; rotate_right)
    | ((with_reducible apply K.foldlSnd); rotate_left; intro x y h; rotate_right)
    | with_reducible apply K.fst_ite
    | with_reducible apply K.cond
    | with_reducible refine K.of_fst ?_ (by assumption)
    | with_reducible refine K.of_snd ?_ (by assumption)
    | (split)
    | dsimp only
    | (rw [Dev.mk_tag]; (with_reducible apply K.mkT); rotate_left; (intro p hq; cases p <;> first | exact absurd hq (by decide) | rfl | exact ⟨rfl, rfl⟩ | exact fun _ => ⟨rfl, rfl⟩); exact fun w => w)

theorem Foot.nvSource {e d : Dev} {pm rm : Nat} {n : Nat} (h : K e d pm rm) (hp : sub 0x22 pm = true)
    (hr : sub 0x8000000000000000000000000281a800000000000000000000000000000000000080000 rm = true) : K e (Dev.nvSource d n).1 pm rm := by
  refine K.lift h hp hr ?_
  clear h hp hr
  unfold Dev.nvSource
  all_goals repeat' first
    | with_reducible exact K.refl _ _ _
    | with_reducible assumption
    | ((with_reducible apply Foot.lsRead); rotate_left; decide; decide)
    | ((with_reducible apply Foot.wakeNow); rotate_left; decide; decide)
    | with_reducible apply K.ite
    | ((with_reducible apply K.foldl); rotate_left; intro d x h; rotate_right)
    | ((with_reducible apply K.foldlFst); rotate_left; intro x y h; rotate_right)
    | ((with_reducible apply K.foldlSnd); rotate_left; intro x y h; rotate_right)
    | with_reducible apply K.fst_ite
    | with_reducible apply K.cond
    | with_reducible refine K.of_fst ?_ (by assumption)
    | with_reducible refine K.of_snd ?_ (by assumption)
    | (split)
    | dsimp only
    | (rw [Dev.mk_tag]; (with_reducible apply K.mk_log); rotate_left; decide)
    | (rw [Dev.mk_tag]; (with_reducible apply K.mk_ls); rotate_left; decide; (first | exact .inl rfl | exact .inl ⟨rfl, rfl⟩ | exact .inr ⟨by decide, by (intro w; first | exact w | exact Memory.wf_write _ _ w | exact Memory.wf_clear _ _ w | exact Memory.wf_filter _ w | exact Memory.wf_set _ _ w)⟩))
    | (rw [Dev.mk_tag]; (with_reducible apply K.mkT); rotate_left; (intro p hq; cases p <;> first | exact absurd hq (by decide) | rfl | exact ⟨rfl, rfl⟩ | exact fun _ => ⟨rfl, rfl⟩); exact fun w => w)

theorem Foot.nvRead {e d : Dev} {pm rm : Nat} {count : Nat} (h : K e d pm rm) (hp : sub 0x8200022 pm = true)
    (hr : sub 0x1019000008000000000000000000000000281a800000000040000400000000000000000000080000 rm = true) : K e (Dev.nvRead d count) pm rm := by
  refine K.lift h hp hr ?_
  clear h hp hr
  unfold Dev.nvRead
  all_goals repeat' first
    | with_reducible exact K.refl _ _ _
    | with_reducible assumption
    | ((with_reducible apply K.inc); rotate_left; (first | assumption | exact R.mem_CORR_EVENT | exact R.mem_DRIVE_EVENT | exact R.mem_NV_SRC | exact R.mem_NV_STATUS); decide)
    | ((with_reducible apply Foot.nvEnd); rotate_left; decide; decide)
    | ((with_reducible apply Foot.nvFetch); rotate_left; decide; decide)
    | ((with_reducible apply Foot.lsWrite); rotate_left; decide; decide)
    | ((with_reducible apply Foot.wakeNow); rotate_left; decide; decide)
    | ((with_reducible apply Foot.setNvBuf); rotate_left; decide; decide)
    | with_reducible apply K.ite
    | ((with_reducible apply K.foldl); rotate_left; intro d x h; rotate_right)
    | ((with_reducible apply K.foldlFst); rotate_left; intro x y h; rotate_right)
    | ((with_reducible apply K.foldlSnd); rotate_left; intro x y h; rotate_right)
    | with_reducible apply K.fst_ite
    | with_reducible apply K.cond
    | with_reducible refine K.of_fst ?_ (by assumption)
    | with_reducible refine K.of_snd ?_ (by assumption)
    | (split)
    | dsimp only
    | (rw [Dev.mk_tag]; (with_reducible apply K.mk_log); rotate_left; decide)
    | (rw [Dev.mk_tag]; (with_reducible apply K.mk_ls); rotate_left; decide; (first | exact .inl rfl | exact .inl ⟨rfl, rfl⟩ | exact .inr ⟨by decide, by (intro w; first | exact w | exact Memory.wf_write _ _ w | exact Memory.wf_clear _ _ w | exact Memory.wf_filter _ w | exact Memory.wf_set _ _ w)⟩))
    | (rw [Dev.mk_tag]; (with_reducible apply K.mk_nv); rotate_left; decide; (first | exact .inl rfl | exact .inl ⟨rfl, rfl⟩ | exact .inr ⟨by decide, by (intro w; first | exact w | exact Memory.wf_write _ _ w | exact Memory.wf_clear _ _ w | exact Memory.wf_filter _ w | exact Memory.wf_set _ _ w)⟩))
    | (rw [Dev.mk_tag]; (with_reducible apply K.mkT); rotate_left; (intro p hq; cases p <;> first | exact absurd hq (by decide) | rfl | exact ⟨rfl, rfl⟩ | exact fun _ => ⟨rfl, rfl⟩); exact fun w => w)

theorem Foot.nvWrite {e d : Dev} {pm rm : Nat} {count : Nat} {slot : Bool} (h : K e d pm rm) (hp : sub 0x200022 pm = true)
    (hr : sub 0x19000008000000000000000000000000281a800000000000000000000000000000000000080000 rm = true) : K e (Dev.nvWrite d count slot) pm rm := by
  refine K.lift h hp hr ?_
  clear h hp hr
  unfold Dev.nvWrite
  all_goals repeat' first
    | with_reducible exact K.refl _ _ _
    | with_reducible assumption
    | ((with_reducible apply Foot.nvEnd); rotate_left; decide; decide)
    | ((with_reducible apply Foot.nvSource); rotate_left; decide; decide)
    | ((with_reducible apply Foot.nvStart); rotate_left; decide; decide)
    | with_reducible apply K.ite
    | ((with_reducible apply K.foldl); rotate_left; intro d x h; rotate_right)
    | ((with_reducible apply K.foldlFst); rotate_left; intro x y h; rotate_right)
    | ((with_reducible apply K.foldlSnd); rotate_left; intro x y h; rotate_right)
    | with_reducible apply K.fst_ite
    | with_reducible apply K.cond
    | with_reducible refine K.of_fst ?_ (by assumption)
    | with_reducible refine K.of_snd ?_ (by assumption)
    | (split)
    | dsimp only
    | (rw [Dev.mk_tag]; (with_reducible apply K.mk_log); rotate_left; decide)
    | (rw [Dev.mk_tag]; (with_reducible apply K.mk_ls); rotate_left; decide; (first | exact .inl rfl | exact .inl ⟨rfl, rfl⟩ | exact .inr ⟨by decide, by (intro w; first | exact w | exact Memory.wf_write _ _ w | exact Memory.wf_clear _ _ w | exact Memory.wf_filter _ w | exact Memory.wf_set _ _ w)⟩))
    | (rw [Dev.mk_tag]; (with_reducible apply K.mk_nv); rotate_left; decide; (first | exact .inl rfl | exact .inl ⟨rfl, rfl⟩ | exact .inr ⟨by decide, by (intro w; first | exact w | exact Memory.wf_write _ _ w | exact Memory.wf_clear _ _ w | exact Memory.wf_filter _ w | exact Memory.wf_set _ _ w)⟩))
    | (rw [Dev.mk_tag]; (with_reducible apply K.mkT); rotate_left; (intro p hq; cases p <;> first | exact absurd hq (by decide) | rfl | exact ⟨rfl, rfl⟩ | exact fun _ => ⟨rfl, rfl⟩); exact fun w => w)

theorem Foot.pwCheck {e d : Dev} {pm rm : Nat} {p : Nat} {kind : Bool} (h : K e d pm rm) (hp : sub 0x200002 pm = true)
    (hr : sub 0x190000000000000000000000000000000000000000000000000000000000000000000000080000 rm = true) : K e (Dev.pwCheck d p kind) pm rm := by
  refine K.lift h hp hr ?_
  clear h hp hr
  unfold Dev.pwCheck
  extract_lets x1 x2 x3 x4
  clear_value (g1 : x1 = _) (g2 : x2 = _) (g3 : x3 = _) (g4 : x4 = _)
  clear g1
  refine K.cutEq d 0x200002 0x190000000000000000000000000000000000000000000000000000000000000000000000080000 g2 ?_ (fun h2 => ?_)
  rotate_left
  clear g2
  clear g3
  clear g4
  all_goals repeat' first
    | with_reducible exact K.refl _ _ _
    | with_reducible assumption
    | ((with_reducible apply K.put); rotate_left; (first | assumption | exact R.mem_NV_STATUS); decide)
    | ((with_reducible apply Foot.nvEnd); rotate_left; decide; decide)
    | ((with_reducible apply Foot.nvStart); rotate_left; decide; decide)
    | with_reducible apply K.ite
    | ((with_reducible apply K.foldl); rotate_left; intro d x h; rotate_right)
    | ((with_reducible apply K.foldlFst); rotate_left; intro x y h; rotate_right)
    | ((with_reducible apply K.foldlSnd); rotate_left; intro x y h; rotate_right)
    | with_reducible apply K.fst_ite
    | with_reducible apply K.cond
    | with_reducible refine K.of_fst ?_ (by assumption)
    | with_reducible refine K.of_snd ?_ (by assumption)
    | (split)
    | dsimp only
    | (rw [Dev.mk_tag]; (with_reducible apply K.mk_log); rotate_left; decide)
    | (rw [Dev.mk_tag]; (with_reducible apply K.mk_nv); rotate_left; decide; (first | exact .inl rfl | exact .inl ⟨rfl, rfl⟩ | exact .inr ⟨by decide, by (intro w; first | exact w | exact Memory.wf_write _ _ w | exact Memory.wf_clear _ _ w | exact Memory.wf_filter _ w | exact Memory.wf_set _ _ w)⟩))
    | (rw [Dev.mk_tag]; (with_reducible apply K.mkT); rotate_left; (intro p hq; cases p <;> first | exact absurd hq (by decide) | rfl | exact ⟨rfl, rfl⟩ | exact fun _ => ⟨rfl, rfl⟩); exact fun w => w)

theorem Foot.pwSet {e d : Dev} {pm rm : Nat} {p : Nat} {kind : Bool} (h : K e d pm rm) (hp : sub 0x200002 pm = true)
    (hr : sub 0x190000000000000000000000000000000000000000000000000000000000000000000000080000 rm = true) : K e (Dev.pwSet d p kind) pm rm := by
  refine K.lift h hp hr ?_
  clear h hp hr
  unfold Dev.pwSet
  all_goals repeat' first
    | with_reducible exact K.refl _ _ _
    | with_reducible assumption
    | ((with_reducible apply Foot.nvEnd); rotate_left; decide; decide)
    | ((with_reducible apply Foot.nvStart); rotate_left; decide; decide)
    | with_reducible apply K.ite
    | ((with_reducible apply K.foldl); rotate_left; intro d x h; rotate_right)
    | ((with_reducible apply K.foldlFst); rotate_left; intro x y h; rotate_right)
    | ((with_reducible apply K.foldlSnd); rotate_left; intro x y h; rotate_right)
    | with_reducible apply K.fst_ite
    | with_reducible apply K.cond
    | with_reducible refine K.of_fst ?_ (by assumption)
    | with_reducible refine K.of_snd ?_ (by assumption)
    | (split)
    | dsimp only
    | (rw [Dev.mk_tag]; (with_reducible apply K.mk_log); rotate_left; decide)
    | (rw [Dev.mk_tag]; (with_reducible apply K.mk_nv); rotate_left; decide; (first | exact .inl rfl | exact .inl ⟨rfl, rfl⟩ | exact .inr ⟨by decide, by (intro w; first | exact w | exact Memory.wf_write _ _ w | exact Memory.wf_clear _ _ w | exact Memory.wf_filter _ w | exact Memory.wf_set _ _ w)⟩))
    | (rw [Dev.mk_tag]; (with_reducible apply K.mkT); rotate_left; (intro p hq; cases p <;> first | exact absurd hq (by decide) | rfl | exact ⟨rfl, rfl⟩ | exact fun _ => ⟨rfl, rfl⟩); exact fun w => w)

theorem Foot.nvMode {e d : Dev} {pm rm : Nat} {p : Nat} {compat : Bool} (h : K e d pm rm) (hp : sub 0x200002 pm = true)
    (hr : sub 0x190000000000000000000000000000000000000000000000000000000000000000000000080000 rm = true) : K e (Dev.nvMode d p compat) pm rm := by
  refine K.lift h hp hr ?_
  clear h hp hr
  unfold Dev.nvMode
  extract_lets x1
  clear_value (g1 : x1 = _)
  clear g1
  all_goals repeat' first
    | with_reducible exact K.refl _ _ _
    | with_reducible assumption
    | ((with_reducible apply Foot.nvEnd); rotate_left; decide; decide)
    | ((with_reducible apply Foot.nvStart); rotate_left; decide; decide)
    | with_reducible apply K.ite
    | ((with_reducible apply K.foldl); rotate_left; intro d x h; rotate_right)
    | ((with_reducible apply K.foldlFst); rotate_left; intro x y h; rotate_right)
    | ((with_reducible apply K.foldlSnd); rotate_left; intro x y h; rotate_right)
    | with_reducible apply K.fst_ite
    | with_reducible apply K.cond
    | with_reducible refine K.of_fst ?_ (by assumption)
    | with_reducible refine K.of_snd ?_ (by assumption)
    | (split)
    | dsimp only
    | (rw [Dev.mk_tag]; (with_reducible apply K.mk_log); rotate_left; decide)
    | (rw [Dev.mk_tag]; (with_reducible apply K.mk_nv); rotate_left; decide; (first | exact .inl rfl | exact .inl ⟨rfl, rfl⟩ | exact .inr ⟨by decide, by (intro w; first | exact w | exact Memory.wf_write _ _ w | exact Memory.wf_clear _ _ w | exact Memory.wf_filter _ w | exact Memory.wf_set _ _ w)⟩))
    | (rw [Dev.mk_tag]; (with_reducible apply K.mkT); rotate_left; (intro p hq; cases p <;> first | exact absurd hq (by decide) | rfl | exact ⟨rfl, rfl⟩ | exact fun _ => ⟨rfl, rfl⟩); exact fun w => w)

theorem Foot.nvLock {e d : Dev} {pm rm : Nat} (h : K e d pm rm) (hp : sub 0x300002 pm = true)
    (hr : sub 0x190000000000000000000000000000000000000000000000000000000000000000000000080000 rm = true) : K e (Dev.nvLock d) pm rm := by
  refine K.lift h hp hr ?_
  clear h hp hr
  unfold Dev.nvLock
  extract_lets x1
  clear_value (g1 : x1 = _)
  subst g1
  all_goals repeat' first
    | with_reducible exact K.refl _ _ _
    | with_reducible assumption
    | ((with_reducible apply K.put); rotate_left; (first | assumption | exact R.mem_NV_STATUS); decide)
    | ((with_reducible apply Foot.nvEnd); rotate_left; decide; decide)
    | with_reducible apply K.ite
    | ((with_reducible apply K.foldl); rotate_left; intro d x h; rotate_right)
    | ((with_reducible apply K.foldlFst); rotate_left; intro x y h; rotate_right)
    | ((with_reducible apply K.foldlSnd); rotate_left; intro x y h; rotate_right)
    | with_reducible apply K.fst_ite
    | with_reducible apply K.cond
    | with_reducible refine K.of_fst ?_ (by assumption)
    | with_reducible refine K.of_snd ?_ (by assumption)
    | (split)
    | dsimp only
    | (rw [Dev.mk_tag]; (with_reducible apply K.mk_log); rotate_left; decide)
    | (rw [Dev.mk_tag]; (with_reducible apply K.mk_mgmt); rotate_left; decide)
    | (rw [Dev.mk_tag]; (with_reducible apply K.mk_nv); rotate_left; decide; (first | exact .inl rfl | exact .inl ⟨rfl, rfl⟩ | exact .inr ⟨by decide, by (intro w; first | exact w | exact Memory.wf_write _ _ w | exact Memory.wf_clear _ _ w | exact Memory.wf_filter _ w | exact Memory.wf_set _ _ w)⟩))
    | (rw [Dev.mk_tag]; (with_reducible apply K.mkT); rotate_left; (intro p hq; cases p <;> first | exact absurd hq (by decide) | rfl | exact ⟨rfl, rfl⟩ | exact fun _ => ⟨rfl, rfl⟩); exact fun w => w)

theorem Foot.nvFlip {e d : Dev} {pm rm : Nat} {flips : List (BitVec 18 × BitVec 3)} (h : K e d pm rm) (hp : sub 0x20200000 pm = true)
    (hr : sub 0x0 rm = true) : K e (Dev.nvFlip d flips) pm rm := by
  refine K.lift h hp hr ?_
  clear h hp hr
  unfold Dev.nvFlip
  all_goals repeat' first
    | with_reducible exact K.refl _ _ _
    | with_reducible assumption
    | ((with_reducible apply K.setNv); rotate_left; decide; exact fun _ => rfl)
    | ((with_reducible apply K.setNvMem); rotate_left; decide; decide; (intro c w; first | exact w | exact Memory.wf_write _ _ w | exact Memory.wf_set _ _ w))
    | with_reducible apply K.ite
    | ((with_reducible apply K.each); rotate_left; intro d x h; rotate_right)
    | ((with_reducible apply K.foldl); rotate_left; intro d x h; rotate_right)
    | ((with_reducible apply K.foldlFst); rotate_left; intro x y h; rotate_right)
    | ((with_reducible apply K.foldlSnd); rotate_left; intro x y h; rotate_right)
    | with_reducible apply K.fst_ite
    | with_reducible apply K.cond
    | with_reducible refine K.of_fst ?_ (by assumption)
    | with_reducible refine K.of_snd ?_ (by assumption)
    | (split)
    | dsimp only
    | (rw [Dev.mk_tag]; (with_reducible apply K.mk_nv); rotate_left; decide; (first | exact .inl rfl | exact .inl ⟨rfl, rfl⟩ | exact .inr ⟨by decide, by (intro w; first | exact w | exact Memory.wf_write _ _ w | exact Memory.wf_clear _ _ w | exact Memory.wf_filter _ w | exact Memory.wf_set _ _ w)⟩))
    | (rw [Dev.mk_tag]; (with_reducible apply K.mkT); rotate_left; (intro p hq; cases p <;> first | exact absurd hq (by decide) | rfl | exact ⟨rfl, rfl⟩ | exact fun _ => ⟨rfl, rfl⟩); exact fun w => w)

theorem Foot.nvRefresh {e d : Dev} {pm rm : Nat} {weak : Bool} {still : Bool} (h : K e d pm rm) (hp : sub 0x200000 pm = true)
    (hr : sub 0x80000000000000000000000000000000000000000000000000000000000000000000000000000 rm = true) : K e (Dev.nvRefresh d weak still) pm rm := by
  refine K.lift h hp hr ?_
  clear h hp hr
  unfold Dev.nvRefresh
  extract_lets x1
  clear_value (g1 : x1 = _)
  subst g1
  all_goals repeat' first
    | with_reducible exact K.refl _ _ _
    | with_reducible assumption
    | ((with_reducible apply K.put); rotate_left; (first | assumption | exact R.mem_NV_CTRL | exact R.mem_NV_STATUS); decide)
    | ((with_reducible apply K.setNv); rotate_left; decide; exact fun _ => rfl)
    | ((with_reducible apply K.setNvMem); rotate_left; decide; decide; (intro c w; first | exact w | exact Memory.wf_write _ _ w | exact Memory.wf_set _ _ w))
    | ((with_reducible apply Foot.nvFetch); rotate_left; decide; decide)
    | ((with_reducible apply Foot.nvSpan); rotate_left; decide; decide)
    | with_reducible apply K.ite
    | ((with_reducible apply K.foldl); rotate_left; intro d x h; rotate_right)
    | ((with_reducible apply K.foldlFst); rotate_left; intro x y h; rotate_right)
    | ((with_reducible apply K.foldlSnd); rotate_left; intro x y h; rotate_right)
    | with_reducible apply K.fst_ite
    | with_reducible apply K.cond
    | with_reducible refine K.of_fst ?_ (by assumption)
    | with_reducible refine K.of_snd ?_ (by assumption)
    | (split)
    | dsimp only
    | (rw [Dev.mk_tag]; (with_reducible apply K.mk_nv); rotate_left; decide; (first | exact .inl rfl | exact .inl ⟨rfl, rfl⟩ | exact .inr ⟨by decide, by (intro w; first | exact w | exact Memory.wf_write _ _ w | exact Memory.wf_clear _ _ w | exact Memory.wf_filter _ w | exact Memory.wf_set _ _ w)⟩))
    | (rw [Dev.mk_tag]; (with_reducible apply K.mkT); rotate_left; (intro p hq; cases p <;> first | exact absurd hq (by decide) | rfl | exact ⟨rfl, rfl⟩ | exact fun _ => ⟨rfl, rfl⟩); exact fun w => w)

theorem Foot.lockMinute {e d : Dev} {pm rm : Nat} (h : K e d pm rm) (hp : sub 0x200000 pm = true)
    (hr : sub 0x80000000000000000000000000000000000000000000000000000000000000000000000000000 rm = true) : K e (Dev.lockMinute d) pm rm := by
  refine K.lift h hp hr ?_
  clear h hp hr
  unfold Dev.lockMinute
  extract_lets x1
  clear_value (g1 : x1 = _)
  clear g1
  all_goals repeat' first
    | with_reducible exact K.refl _ _ _
    | with_reducible assumption
    | ((with_reducible apply K.setNv); rotate_left; decide; exact fun _ => rfl)
    | ((with_reducible apply K.setNvMem); rotate_left; decide; decide; (intro c w; first | exact w | exact Memory.wf_write _ _ w | exact Memory.wf_set _ _ w))
    | ((with_reducible apply Foot.nvSave); rotate_left; decide; decide)
    | with_reducible apply K.ite
    | ((with_reducible apply K.foldl); rotate_left; intro d x h; rotate_right)
    | ((with_reducible apply K.foldlFst); rotate_left; intro x y h; rotate_right)
    | ((with_reducible apply K.foldlSnd); rotate_left; intro x y h; rotate_right)
    | with_reducible apply K.fst_ite
    | with_reducible apply K.cond
    | with_reducible refine K.of_fst ?_ (by assumption)
    | with_reducible refine K.of_snd ?_ (by assumption)
    | (split)
    | dsimp only
    | (rw [Dev.mk_tag]; (with_reducible apply K.mk_nv); rotate_left; decide; (first | exact .inl rfl | exact .inl ⟨rfl, rfl⟩ | exact .inr ⟨by decide, by (intro w; first | exact w | exact Memory.wf_write _ _ w | exact Memory.wf_clear _ _ w | exact Memory.wf_filter _ w | exact Memory.wf_set _ _ w)⟩))
    | (rw [Dev.mk_tag]; (with_reducible apply K.mkT); rotate_left; (intro p hq; cases p <;> first | exact absurd hq (by decide) | rfl | exact ⟨rfl, rfl⟩ | exact fun _ => ⟨rfl, rfl⟩); exact fun w => w)

theorem Foot.nvRecover {e d : Dev} {pm rm : Nat} (h : K e d pm rm) (hp : sub 0x20200002 pm = true)
    (hr : sub 0x500000000000000000000000000000000000000000000000000000000000000000000000080000 rm = true) : K e (Dev.nvRecover d) pm rm := by
  refine K.lift h hp hr ?_
  clear h hp hr
  unfold Dev.nvRecover
  all_goals repeat' first
    | with_reducible exact K.refl _ _ _
    | with_reducible assumption
    | ((with_reducible apply K.put); rotate_left; (first | assumption | exact R.mem_NV_EVENT | exact R.mem_NV_RECOVERY); decide)
    | ((with_reducible apply K.raise); rotate_left; (first | assumption | exact R.mem_NV_EVENT | exact R.mem_NV_RECOVERY); decide; decide; decide)
    | ((with_reducible apply K.setNv); rotate_left; decide; exact fun _ => rfl)
    | ((with_reducible apply K.setNvMem); rotate_left; decide; decide; (intro c w; first | exact w | exact Memory.wf_write _ _ w | exact Memory.wf_set _ _ w))
    | ((with_reducible apply Foot.nvPut); rotate_left; decide; decide)
    | with_reducible apply K.ite
    | ((with_reducible apply K.foldl); rotate_left; intro d x h; rotate_right)
    | ((with_reducible apply K.foldlFst); rotate_left; intro x y h; rotate_right)
    | ((with_reducible apply K.foldlSnd); rotate_left; intro x y h; rotate_right)
    | with_reducible apply K.fst_ite
    | with_reducible apply K.cond
    | with_reducible refine K.of_fst ?_ (by assumption)
    | with_reducible refine K.of_snd ?_ (by assumption)
    | (split)
    | dsimp only
    | (rw [Dev.mk_tag]; (with_reducible apply K.mk_log); rotate_left; decide)
    | (rw [Dev.mk_tag]; (with_reducible apply K.mk_nv); rotate_left; decide; (first | exact .inl rfl | exact .inl ⟨rfl, rfl⟩ | exact .inr ⟨by decide, by (intro w; first | exact w | exact Memory.wf_write _ _ w | exact Memory.wf_clear _ _ w | exact Memory.wf_filter _ w | exact Memory.wf_set _ _ w)⟩))
    | (rw [Dev.mk_tag]; (with_reducible apply K.mkT); rotate_left; (intro p hq; cases p <;> first | exact absurd hq (by decide) | rfl | exact ⟨rfl, rfl⟩ | exact fun _ => ⟨rfl, rfl⟩); exact fun w => w)

theorem Foot.nvBegin {e d : Dev} {pm rm : Nat} (h : K e d pm rm) (hp : sub 0x20200002 pm = true)
    (hr : sub 0x3d80000000000000000000000000000000000000000000000000000000000000000000000080000 rm = true) : K e (Dev.nvBegin d) pm rm := by
  refine K.lift h hp hr ?_
  clear h hp hr
  unfold Dev.nvBegin
  extract_lets x1 x2
  clear_value (g1 : x1 = _) (g2 : x2 = _)
  refine K.cutEq d 0x20200002 0x3d80000000000000000000000000000000000000000000000000000000000000000000000080000 g1 ?_ (fun h1 => ?_)
  rotate_left
  clear g1
  clear g2
  all_goals repeat' first
    | with_reducible exact K.refl _ _ _
    | with_reducible assumption
    | ((with_reducible apply K.put); rotate_left; (first | assumption | exact R.mem_NV_AGE_NEXT | exact R.mem_NV_CAL_NEXT | exact R.mem_NV_EVENT | exact R.mem_NV_SEL | exact R.mem_NV_STATUS); decide)
    | ((with_reducible apply K.flag); rotate_left; (first | assumption | exact R.mem_NV_AGE_NEXT | exact R.mem_NV_CAL_NEXT | exact R.mem_NV_EVENT | exact R.mem_NV_SEL | exact R.mem_NV_STATUS); decide)
    | ((with_reducible apply K.raiseIf); rotate_left; (first | assumption | exact R.mem_NV_AGE_NEXT | exact R.mem_NV_CAL_NEXT | exact R.mem_NV_EVENT | exact R.mem_NV_SEL | exact R.mem_NV_STATUS); decide; decide; decide)
    | ((with_reducible apply K.setNv); rotate_left; decide; exact fun _ => rfl)
    | ((with_reducible apply K.setNvMem); rotate_left; decide; decide; (intro c w; first | exact w | exact Memory.wf_write _ _ w | exact Memory.wf_set _ _ w))
    | ((with_reducible apply Foot.nvRecover); rotate_left; decide; decide)
    | with_reducible apply K.ite
    | ((with_reducible apply K.foldl); rotate_left; intro d x h; rotate_right)
    | ((with_reducible apply K.foldlFst); rotate_left; intro x y h; rotate_right)
    | ((with_reducible apply K.foldlSnd); rotate_left; intro x y h; rotate_right)
    | with_reducible apply K.fst_ite
    | with_reducible apply K.cond
    | with_reducible refine K.of_fst ?_ (by assumption)
    | with_reducible refine K.of_snd ?_ (by assumption)
    | (split)
    | dsimp only
    | (rw [Dev.mk_tag]; (with_reducible apply K.mk_log); rotate_left; decide)
    | (rw [Dev.mk_tag]; (with_reducible apply K.mk_nv); rotate_left; decide; (first | exact .inl rfl | exact .inl ⟨rfl, rfl⟩ | exact .inr ⟨by decide, by (intro w; first | exact w | exact Memory.wf_write _ _ w | exact Memory.wf_clear _ _ w | exact Memory.wf_filter _ w | exact Memory.wf_set _ _ w)⟩))
    | (rw [Dev.mk_tag]; (with_reducible apply K.mkT); rotate_left; (intro p hq; cases p <;> first | exact absurd hq (by decide) | rfl | exact ⟨rfl, rfl⟩ | exact fun _ => ⟨rfl, rfl⟩); exact fun w => w)

theorem Foot.nvTear {e d : Dev} {pm rm : Nat} {a : Nat} {n : Nat} (h : K e d pm rm) (hp : sub 0x20200001 pm = true)
    (hr : sub 0x0 rm = true) : K e (Dev.nvTear d a n) pm rm := by
  refine K.lift h hp hr ?_
  clear h hp hr
  unfold Dev.nvTear
  all_goals repeat' first
    | with_reducible exact K.refl _ _ _
    | with_reducible assumption
    | ((with_reducible apply K.setNv); rotate_left; decide; exact fun _ => rfl)
    | ((with_reducible apply K.setNvMem); rotate_left; decide; decide; (intro c w; first | exact w | exact Memory.wf_write _ _ w | exact Memory.wf_set _ _ w))
    | ((with_reducible apply Foot.fresh); rotate_left; decide; decide)
    | with_reducible apply K.ite
    | ((with_reducible apply K.foldl); rotate_left; intro d x h; rotate_right)
    | ((with_reducible apply K.foldlFst); rotate_left; intro x y h; rotate_right)
    | ((with_reducible apply K.foldlSnd); rotate_left; intro x y h; rotate_right)
    | with_reducible apply K.fst_ite
    | with_reducible apply K.cond
    | with_reducible refine K.of_fst ?_ (by assumption)
    | with_reducible refine K.of_snd ?_ (by assumption)
    | (split)
    | dsimp only
    | (rw [Dev.mk_tag]; (with_reducible apply K.mk_free); rotate_left; decide)
    | (rw [Dev.mk_tag]; (with_reducible apply K.mk_nv); rotate_left; decide; (first | exact .inl rfl | exact .inl ⟨rfl, rfl⟩ | exact .inr ⟨by decide, by (intro w; first | exact w | exact Memory.wf_write _ _ w | exact Memory.wf_clear _ _ w | exact Memory.wf_filter _ w | exact Memory.wf_set _ _ w)⟩))
    | (rw [Dev.mk_tag]; (with_reducible apply K.mkT); rotate_left; (intro p hq; cases p <;> first | exact absurd hq (by decide) | rfl | exact ⟨rfl, rfl⟩ | exact fun _ => ⟨rfl, rfl⟩); exact fun w => w)

theorem Foot.nvCut {e d : Dev} {pm rm : Nat} (h : K e d pm rm) (hp : sub 0x20200001 pm = true)
    (hr : sub 0x0 rm = true) : K e (Dev.nvCut d) pm rm := by
  refine K.lift h hp hr ?_
  clear h hp hr
  unfold Dev.nvCut
  extract_lets x1
  clear_value (g1 : x1 = _)
  clear g1
  all_goals repeat' first
    | with_reducible exact K.refl _ _ _
    | with_reducible assumption
    | ((with_reducible apply Foot.nvTear); rotate_left; decide; decide)
    | with_reducible apply K.ite
    | ((with_reducible apply K.each); rotate_left; intro d x h; rotate_right)
    | ((with_reducible apply K.foldl); rotate_left; intro d x h; rotate_right)
    | ((with_reducible apply K.foldlFst); rotate_left; intro x y h; rotate_right)
    | ((with_reducible apply K.foldlSnd); rotate_left; intro x y h; rotate_right)
    | with_reducible apply K.fst_ite
    | with_reducible apply K.cond
    | with_reducible refine K.of_fst ?_ (by assumption)
    | with_reducible refine K.of_snd ?_ (by assumption)
    | (split)
    | dsimp only
    | (rw [Dev.mk_tag]; (with_reducible apply K.mk_free); rotate_left; decide)
    | (rw [Dev.mk_tag]; (with_reducible apply K.mk_nv); rotate_left; decide; (first | exact .inl rfl | exact .inl ⟨rfl, rfl⟩ | exact .inr ⟨by decide, by (intro w; first | exact w | exact Memory.wf_write _ _ w | exact Memory.wf_clear _ _ w | exact Memory.wf_filter _ w | exact Memory.wf_set _ _ w)⟩))
    | (rw [Dev.mk_tag]; (with_reducible apply K.mkT); rotate_left; (intro p hq; cases p <;> first | exact absurd hq (by decide) | rfl | exact ⟨rfl, rfl⟩ | exact fun _ => ⟨rfl, rfl⟩); exact fun w => w)

theorem Foot.nvPfail {e d : Dev} {pm rm : Nat} (h : K e d pm rm) (hp : sub 0x20200003 pm = true)
    (hr : sub 0x190000000000000000000000000000000000000000000000000000000000000000000000080000 rm = true) : K e (Dev.nvPfail d) pm rm := by
  refine K.lift h hp hr ?_
  clear h hp hr
  unfold Dev.nvPfail
  extract_lets x1 x2 x3 x4
  clear_value (g1 : x1 = _) (g2 : x2 = _) (g3 : x3 = _) (g4 : x4 = _)
  refine K.cutEq d 0x20200003 0x190000000000000000000000000000000000000000000000000000000000000000000000080000 g1 ?_ (fun h1 => ?_)
  rotate_left
  clear g1
  refine K.cutEq d 0x20200003 0x190000000000000000000000000000000000000000000000000000000000000000000000080000 g2 ?_ (fun h2 => ?_)
  rotate_left
  clear g2
  clear g3
  refine K.cutEq d 0x20200003 0x190000000000000000000000000000000000000000000000000000000000000000000000080000 g4 ?_ (fun h4 => ?_)
  rotate_left
  clear g4
  all_goals repeat' first
    | with_reducible exact K.refl _ _ _
    | with_reducible assumption
    | ((with_reducible apply K.put); rotate_left; (first | assumption | exact R.mem_NV_CMD); decide)
    | ((with_reducible apply K.setNv); rotate_left; decide; exact fun _ => rfl)
    | ((with_reducible apply K.setNvMem); rotate_left; decide; decide; (intro c w; first | exact w | exact Memory.wf_write _ _ w | exact Memory.wf_set _ _ w))
    | ((with_reducible apply Foot.nvCut); rotate_left; decide; decide)
    | ((with_reducible apply Foot.nvReject); rotate_left; decide; decide)
    | ((with_reducible apply Foot.burstStart); rotate_left; decide; decide)
    | with_reducible apply K.ite
    | ((with_reducible apply K.foldl); rotate_left; intro d x h; rotate_right)
    | ((with_reducible apply K.foldlFst); rotate_left; intro x y h; rotate_right)
    | ((with_reducible apply K.foldlSnd); rotate_left; intro x y h; rotate_right)
    | with_reducible apply K.fst_ite
    | with_reducible apply K.cond
    | with_reducible refine K.of_fst ?_ (by assumption)
    | with_reducible refine K.of_snd ?_ (by assumption)
    | (split)
    | dsimp only
    | (rw [Dev.mk_tag]; (with_reducible apply K.mk_free); rotate_left; decide)
    | (rw [Dev.mk_tag]; (with_reducible apply K.mk_log); rotate_left; decide)
    | (rw [Dev.mk_tag]; (with_reducible apply K.mk_nv); rotate_left; decide; (first | exact .inl rfl | exact .inl ⟨rfl, rfl⟩ | exact .inr ⟨by decide, by (intro w; first | exact w | exact Memory.wf_write _ _ w | exact Memory.wf_clear _ _ w | exact Memory.wf_filter _ w | exact Memory.wf_set _ _ w)⟩))
    | (rw [Dev.mk_tag]; (with_reducible apply K.mkT); rotate_left; (intro p hq; cases p <;> first | exact absurd hq (by decide) | rfl | exact ⟨rfl, rfl⟩ | exact fun _ => ⟨rfl, rfl⟩); exact fun w => w)

theorem Foot.nvRelease {e d : Dev} {pm rm : Nat} (h : K e d pm rm) (hp : sub 0x200000 pm = true)
    (hr : sub 0x80000000000000000000000000000000000000000000000000000000000000000000000000000 rm = true) : K e (Dev.nvRelease d) pm rm := by
  refine K.lift h hp hr ?_
  clear h hp hr
  unfold Dev.nvRelease
  all_goals repeat' first
    | with_reducible exact K.refl _ _ _
    | with_reducible assumption
    | ((with_reducible apply K.setNv); rotate_left; decide; exact fun _ => rfl)
    | ((with_reducible apply K.setNvMem); rotate_left; decide; decide; (intro c w; first | exact w | exact Memory.wf_write _ _ w | exact Memory.wf_set _ _ w))
    | ((with_reducible apply Foot.nvSave); rotate_left; decide; decide)
    | with_reducible apply K.ite
    | ((with_reducible apply K.foldl); rotate_left; intro d x h; rotate_right)
    | ((with_reducible apply K.foldlFst); rotate_left; intro x y h; rotate_right)
    | ((with_reducible apply K.foldlSnd); rotate_left; intro x y h; rotate_right)
    | with_reducible apply K.fst_ite
    | with_reducible apply K.cond
    | with_reducible refine K.of_fst ?_ (by assumption)
    | with_reducible refine K.of_snd ?_ (by assumption)
    | (split)
    | dsimp only
    | (rw [Dev.mk_tag]; (with_reducible apply K.mk_nv); rotate_left; decide; (first | exact .inl rfl | exact .inl ⟨rfl, rfl⟩ | exact .inr ⟨by decide, by (intro w; first | exact w | exact Memory.wf_write _ _ w | exact Memory.wf_clear _ _ w | exact Memory.wf_filter _ w | exact Memory.wf_set _ _ w)⟩))
    | (rw [Dev.mk_tag]; (with_reducible apply K.mkT); rotate_left; (intro p hq; cases p <;> first | exact absurd hq (by decide) | rfl | exact ⟨rfl, rfl⟩ | exact fun _ => ⟨rfl, rfl⟩); exact fun w => w)

end Sys2Proof.Machine
end

