-- ==== Sys2Proof/Laws/FootBoot.lean ====
section
/-! SUPPORT.  Footprints of the functions of `Machine/Boot.lean` (see `Keep.lean`): what each leaves alone. -/

set_option Elab.async false
set_option linter.all false

namespace Sys2Proof.Machine

theorem Foot.setStep {e d : Dev} {pm rm : Nat} {k0 : Nat} (h : K e d pm rm) (hp : sub 0x0 pm = true)
    (hr : sub 0x20000000000000000000000000000000000000000000000000000000000000000000000000000000 rm = true) : K e (Dev.setStep d k0) pm rm := by
  refine K.lift h hp hr ?_
  clear h hp hr
  unfold Dev.setStep
  all_goals repeat' first
    | with_reducible exact K.refl _ _ _
    | with_reducible assumption
    | ((with_reducible apply K.put); rotate_left; (first | assumption | exact R.mem_BOOT_STATUS); decide)
    | with_reducible apply K.ite
    | ((with_reducible apply K.foldl); rotate_left; intro d x h; rotate_right)
    | ((with_reducible apply K.foldlFst); rotate_left; intro x y h; rotate_right)
    | ((with_reducible apply K.foldlSnd); rotate_left; intro x y h; rotate_right)
    | with_reducible apply K.fst_ite
    | with_reducible apply K.cond
    | with_reducible refine K.of_fst ?_ (by assumption)
    | with_reducible refine K.of_snd ?_ (by assumption)
    | (split)
    | dsimp only
    | (rw [Dev.mk_tag]; (with_reducible apply K.mkT); rotate_left; (intro p hq; cases p <;> first | exact absurd hq (by decide) | rfl | exact ⟨rfl, rfl⟩ | exact fun _ => ⟨rfl, rfl⟩); exact fun w => w)

theorem Foot.copyFuses {e d : Dev} {pm rm : Nat} {old : Dev} (h : K e d pm rm) (hp : sub 0x0 pm = true)
    (hr : sub 0x6000000000000000000000000000000000000000000000000000000000000000000000000000030000 rm = true) : K e (Dev.copyFuses d old) pm rm := by
  refine K.lift h hp hr ?_
  clear h hp hr
  unfold Dev.copyFuses
  extract_lets x1
  clear_value (g1 : x1 = _)
  refine K.cutEq d 0x0 0x6000000000000000000000000000000000000000000000000000000000000000000000000000030000 g1 ?_ (fun h1 => ?_)
  rotate_left
  clear g1
  all_goals repeat' first
    | with_reducible exact K.refl _ _ _
    | with_reducible assumption
    | ((with_reducible apply K.putWord); rotate_left; (first | assumption | exact R.mem_DEVICE_UID_HI | exact R.mem_DEVICE_UID_LO | exact R.mem_FUSE_STATUS | exact R.mem_KEY_FUSE); decide)
    | with_reducible apply K.ite
    | ((with_reducible apply K.each); rotate_left; intro d x h; rotate_right)
    | ((with_reducible apply K.foldl); rotate_left; intro d x h; rotate_right)
    | ((with_reducible apply K.foldlFst); rotate_left; intro x y h; rotate_right)
    | ((with_reducible apply K.foldlSnd); rotate_left; intro x y h; rotate_right)
    | with_reducible apply K.fst_ite
    | with_reducible apply K.cond
    | with_reducible refine K.of_fst ?_ (by assumption)
    | with_reducible refine K.of_snd ?_ (by assumption)
    | (split)
    | dsimp only
    | (rw [Dev.mk_tag]; (with_reducible apply K.mkT); rotate_left; (intro p hq; cases p <;> first | exact absurd hq (by decide) | rfl | exact ⟨rfl, rfl⟩ | exact fun _ => ⟨rfl, rfl⟩); exact fun w => w)

theorem Foot.powerGood {e d : Dev} {pm rm : Nat} (h : K e d pm rm) (hp : sub 0x20200002 pm = true)
    (hr : sub 0x3d80000000000000000000000000000000000000000000000000000000000000000080000080000 rm = true) : K e (Dev.powerGood d) pm rm := by
  refine K.lift h hp hr ?_
  clear h hp hr
  unfold Dev.powerGood
  extract_lets x1
  clear_value (g1 : x1 = _)
  subst g1
  all_goals repeat' first
    | with_reducible exact K.refl _ _ _
    | with_reducible assumption
    | ((with_reducible apply K.put); rotate_left; (first | assumption | exact R.mem_COMP_CTRL); decide)
    | ((with_reducible apply Foot.nvBegin); rotate_left; decide; decide)
    | with_reducible apply K.ite
    | ((with_reducible apply K.foldl); rotate_left; intro d x h; rotate_right)
    | ((with_reducible apply K.foldlFst); rotate_left; intro x y h; rotate_right)
    | ((with_reducible apply K.foldlSnd); rotate_left; intro x y h; rotate_right)
    | with_reducible apply K.fst_ite
    | with_reducible apply K.cond
    | with_reducible refine K.of_fst ?_ (by assumption)
    | with_reducible refine K.of_snd ?_ (by assumption)
    | (split)
    | dsimp only
    | (rw [Dev.mk_tag]; (with_reducible apply K.mk_log); rotate_left; decide)
    | (rw [Dev.mk_tag]; (with_reducible apply K.mk_nv); rotate_left; decide; (first | exact .inl rfl | exact .inl ⟨rfl, rfl⟩ | exact .inr ⟨by decide, by (intro w; first | exact w | exact Memory.wf_write _ _ w | exact Memory.wf_clear _ _ w | exact Memory.wf_filter _ w | exact Memory.wf_set _ _ w)⟩))
    | (rw [Dev.mk_tag]; (with_reducible apply K.mkT); rotate_left; (intro p hq; cases p <;> first | exact absurd hq (by decide) | rfl | exact ⟨rfl, rfl⟩ | exact fun _ => ⟨rfl, rfl⟩); exact fun w => w)

theorem Foot.setReason {e d : Dev} {pm rm : Nat} {slot : Nat} {r : Nat} (h : K e d pm rm) (hp : sub 0x0 pm = true)
    (hr : sub 0x20000000000000000000000000000000000000000000000000000000000000000000000000000000 rm = true) : K e (Dev.setReason d slot r) pm rm := by
  refine K.lift h hp hr ?_
  clear h hp hr
  unfold Dev.setReason
  all_goals repeat' first
    | with_reducible exact K.refl _ _ _
    | with_reducible assumption
    | ((with_reducible apply K.put); rotate_left; (first | assumption | exact R.mem_BOOT_STATUS); decide)
    | with_reducible apply K.ite
    | ((with_reducible apply K.foldl); rotate_left; intro d x h; rotate_right)
    | ((with_reducible apply K.foldlFst); rotate_left; intro x y h; rotate_right)
    | ((with_reducible apply K.foldlSnd); rotate_left; intro x y h; rotate_right)
    | with_reducible apply K.fst_ite
    | with_reducible apply K.cond
    | with_reducible refine K.of_fst ?_ (by assumption)
    | with_reducible refine K.of_snd ?_ (by assumption)
    | (split)
    | dsimp only
    | (rw [Dev.mk_tag]; (with_reducible apply K.mkT); rotate_left; (intro p hq; cases p <;> first | exact absurd hq (by decide) | rfl | exact ⟨rfl, rfl⟩ | exact fun _ => ⟨rfl, rfl⟩); exact fun w => w)

theorem Foot.bootHold {e d : Dev} {pm rm : Nat} (h : K e d pm rm) (hp : sub 0x0 pm = true)
    (hr : sub 0x20000000000000000000000000000000000000000000000000000000000000000000000000000000 rm = true) : K e (Dev.bootHold d) pm rm := by
  refine K.lift h hp hr ?_
  clear h hp hr
  unfold Dev.bootHold
  all_goals repeat' first
    | with_reducible exact K.refl _ _ _
    | with_reducible assumption
    | ((with_reducible apply Foot.setStep); rotate_left; decide; decide)
    | with_reducible apply K.ite
    | ((with_reducible apply K.foldl); rotate_left; intro d x h; rotate_right)
    | ((with_reducible apply K.foldlFst); rotate_left; intro x y h; rotate_right)
    | ((with_reducible apply K.foldlSnd); rotate_left; intro x y h; rotate_right)
    | with_reducible apply K.fst_ite
    | with_reducible apply K.cond
    | with_reducible refine K.of_fst ?_ (by assumption)
    | with_reducible refine K.of_snd ?_ (by assumption)
    | (split)
    | dsimp only
    | (rw [Dev.mk_tag]; (with_reducible apply K.mkT); rotate_left; (intro p hq; cases p <;> first | exact absurd hq (by decide) | rfl | exact ⟨rfl, rfl⟩ | exact fun _ => ⟨rfl, rfl⟩); exact fun w => w)

theorem Foot.flashSend {e d : Dev} {pm rm : Nat} {ops : List FlashOp} (h : K e d pm rm) (hp : sub 0x400000 pm = true)
    (hr : sub 0x0 rm = true) : K e (Dev.flashSend d ops) pm rm := by
  refine K.lift h hp hr ?_
  clear h hp hr
  unfold Dev.flashSend
  all_goals repeat' first
    | with_reducible exact K.refl _ _ _
    | with_reducible assumption
    | ((with_reducible apply K.setBoot); rotate_left; decide)
    | with_reducible apply K.ite
    | ((with_reducible apply K.foldl); rotate_left; intro d x h; rotate_right)
    | ((with_reducible apply K.foldlFst); rotate_left; intro x y h; rotate_right)
    | ((with_reducible apply K.foldlSnd); rotate_left; intro x y h; rotate_right)
    | with_reducible apply K.fst_ite
    | with_reducible apply K.cond
    | with_reducible refine K.of_fst ?_ (by assumption)
    | with_reducible refine K.of_snd ?_ (by assumption)
    | (split)
    | dsimp only
    | (rw [Dev.mk_tag]; (with_reducible apply K.mk_boot); rotate_left; decide)
    | (rw [Dev.mk_tag]; (with_reducible apply K.mkT); rotate_left; (intro p hq; cases p <;> first | exact absurd hq (by decide) | rfl | exact ⟨rfl, rfl⟩ | exact fun _ => ⟨rfl, rfl⟩); exact fun w => w)

theorem Foot.takeCandidate {e d : Dev} {pm rm : Nat} {slot : Nat} (h : K e d pm rm) (hp : sub 0x400000 pm = true)
    (hr : sub 0x20000000020000000000000000000080004000000000000000000000000000000000000000000000 rm = true) : K e (Dev.takeCandidate d slot) pm rm := by
  refine K.lift h hp hr ?_
  clear h hp hr
  unfold Dev.takeCandidate
  extract_lets x1 x2 x3 x4
  clear_value (g1 : x1 = _) (g2 : x2 = _) (g3 : x3 = _) (g4 : x4 = _)
  subst g1
  refine K.cutEq d 0x400000 0x20000000020000000000000000000080004000000000000000000000000000000000000000000000 g2 ?_ (fun h2 => ?_)
  rotate_left
  clear g2
  refine K.cutEq d 0x400000 0x20000000020000000000000000000080004000000000000000000000000000000000000000000000 g3 ?_ (fun h3 => ?_)
  rotate_left
  clear g3
  refine K.cutEq d 0x400000 0x20000000020000000000000000000080004000000000000000000000000000000000000000000000 g4 ?_ (fun h4 => ?_)
  rotate_left
  clear g4
  all_goals repeat' first
    | with_reducible exact K.refl _ _ _
    | with_reducible assumption
    | ((with_reducible apply K.put); rotate_left; (first | assumption | exact R.mem_DRAM_CH_STATUS | exact R.mem_DRAM_CTRL | exact R.mem_PIPE_CLK); decide)
    | ((with_reducible apply K.setBoot); rotate_left; decide)
    | ((with_reducible apply Foot.flashSend); rotate_left; decide; decide)
    | ((with_reducible apply Foot.setStep); rotate_left; decide; decide)
    | with_reducible apply K.ite
    | ((with_reducible apply K.each); rotate_left; intro d x h; rotate_right)
    | ((with_reducible apply K.foldl); rotate_left; intro d x h; rotate_right)
    | ((with_reducible apply K.foldlFst); rotate_left; intro x y h; rotate_right)
    | ((with_reducible apply K.foldlSnd); rotate_left; intro x y h; rotate_right)
    | with_reducible apply K.fst_ite
    | with_reducible apply K.cond
    | with_reducible refine K.of_fst ?_ (by assumption)
    | with_reducible refine K.of_snd ?_ (by assumption)
    | (split)
    | dsimp only
    | (rw [Dev.mk_tag]; (with_reducible apply K.mk_boot); rotate_left; decide)
    | (rw [Dev.mk_tag]; (with_reducible apply K.mkT); rotate_left; (intro p hq; cases p <;> first | exact absurd hq (by decide) | rfl | exact ⟨rfl, rfl⟩ | exact fun _ => ⟨rfl, rfl⟩); exact fun w => w)

theorem Foot.bootHeaders {e d : Dev} {pm rm : Nat} (h : K e d pm rm) (hp : sub 0x400000 pm = true)
    (hr : sub 0x120000000020000000000000000000080004000000000000000000000000000000000000000000000 rm = true) : K e (Dev.bootHeaders d) pm rm := by
  refine K.lift h hp hr ?_
  clear h hp hr
  unfold Dev.bootHeaders
  extract_lets x1 x2 x3 x4 x5 x6 x7
  clear_value (g1 : x1 = _) (g2 : x2 = _) (g3 : x3 = _) (g4 : x4 = _) (g5 : x5 = _) (g6 : x6 = _) (g7 : x7 = _)
  refine K.cutEq d 0x400000 0x120000000020000000000000000000080004000000000000000000000000000000000000000000000 g1 ?_ (fun h1 => ?_)
  rotate_left
  clear g1
  subst g2
  clear g3
  refine K.cutEq d 0x400000 0x120000000020000000000000000000080004000000000000000000000000000000000000000000000 g4 ?_ (fun h4 => ?_)
  rotate_left
  clear g4
  refine K.cutEq d 0x400000 0x120000000020000000000000000000080004000000000000000000000000000000000000000000000 g5 ?_ (fun h5 => ?_)
  rotate_left
  clear g5
  refine K.cutEq d 0x400000 0x120000000020000000000000000000080004000000000000000000000000000000000000000000000 g6 ?_ (fun h6 => ?_)
  rotate_left
  clear g6
  subst g7
  all_goals repeat' first
    | with_reducible exact K.refl _ _ _
    | with_reducible assumption
    | ((with_reducible apply K.put); rotate_left; (first | assumption | exact R.mem_BOOT_FAIL_INFO | exact R.mem_BOOT_STATUS); decide)
    | ((with_reducible apply K.putWord); rotate_left; (first | assumption | exact R.mem_BOOT_FAIL_INFO | exact R.mem_BOOT_STATUS); decide)
    | ((with_reducible apply Foot.setStep); rotate_left; decide; decide)
    | ((with_reducible apply Foot.bootHold); rotate_left; decide; decide)
    | ((with_reducible apply Foot.flashSend); rotate_left; decide; decide)
    | ((with_reducible apply Foot.setReason); rotate_left; decide; decide)
    | ((with_reducible apply Foot.takeCandidate); rotate_left; decide; decide)
    | with_reducible apply K.ite
    | ((with_reducible apply K.each); rotate_left; intro d x h; rotate_right)
    | ((with_reducible apply K.foldl); rotate_left; intro d x h; rotate_right)
    | ((with_reducible apply K.foldlFst); rotate_left; intro x y h; rotate_right)
    | ((with_reducible apply K.foldlSnd); rotate_left; intro x y h; rotate_right)
    | with_reducible apply K.fst_ite
    | with_reducible apply K.cond
    | with_reducible refine K.of_fst ?_ (by assumption)
    | with_reducible refine K.of_snd ?_ (by assumption)
    | (split)
    | dsimp only
    | (rw [Dev.mk_tag]; (with_reducible apply K.mk_boot); rotate_left; decide)
    | (rw [Dev.mk_tag]; (with_reducible apply K.mkT); rotate_left; (intro p hq; cases p <;> first | exact absurd hq (by decide) | rfl | exact ⟨rfl, rfl⟩ | exact fun _ => ⟨rfl, rfl⟩); exact fun w => w)

theorem Foot.bootStart {e d : Dev} {pm rm : Nat} {straps : Nat} (h : K e d pm rm) (hp : sub 0x26600002 pm = true)
    (hr : sub 0x123d80000020000000000000000000280004000000000000000000000000000000000080000080000 rm = true) : K e (Dev.bootStart d straps) pm rm := by
  refine K.lift h hp hr ?_
  clear h hp hr
  unfold Dev.bootStart
  extract_lets x1 x2 x3 x4 x5
  clear_value (g1 : x1 = _) (g2 : x2 = _) (g3 : x3 = _) (g4 : x4 = _) (g5 : x5 = _)
  refine K.cutEq d 0x26600002 0x123d80000020000000000000000000280004000000000000000000000000000000000080000080000 g1 ?_ (fun h1 => ?_)
  rotate_left
  clear g1
  subst g2
  subst g3
  refine K.cutEq d 0x26600002 0x123d80000020000000000000000000280004000000000000000000000000000000000080000080000 g4 ?_ (fun h4 => ?_)
  rotate_left
  clear g4
  refine K.cutEq d 0x26600002 0x123d80000020000000000000000000280004000000000000000000000000000000000080000080000 g5 ?_ (fun h5 => ?_)
  rotate_left
  clear g5
  all_goals repeat' first
    | with_reducible exact K.refl _ _ _
    | with_reducible assumption
    | ((with_reducible apply K.put); rotate_left; (first | assumption | exact R.mem_BOOT_STATUS | exact R.mem_WALL_CTRL); decide)
    | ((with_reducible apply Foot.powerGood); rotate_left; decide; decide)
    | ((with_reducible apply Foot.bootHeaders); rotate_left; decide; decide)
    | with_reducible apply K.ite
    | ((with_reducible apply K.foldl); rotate_left; intro d x h; rotate_right)
    | ((with_reducible apply K.foldlFst); rotate_left; intro x y h; rotate_right)
    | ((with_reducible apply K.foldlSnd); rotate_left; intro x y h; rotate_right)
    | with_reducible apply K.fst_ite
    | with_reducible apply K.cond
    | with_reducible refine K.of_fst ?_ (by assumption)
    | with_reducible refine K.of_snd ?_ (by assumption)
    | (split)
    | dsimp only
    | (rw [Dev.mk_tag]; (with_reducible apply K.mk_log); rotate_left; decide)
    | (rw [Dev.mk_tag]; (with_reducible apply K.mk_nv); rotate_left; decide; (first | exact .inl rfl | exact .inl ⟨rfl, rfl⟩ | exact .inr ⟨by decide, by (intro w; first | exact w | exact Memory.wf_write _ _ w | exact Memory.wf_clear _ _ w | exact Memory.wf_filter _ w | exact Memory.wf_set _ _ w)⟩))
    | (rw [Dev.mk_tag]; (with_reducible apply K.mk_boot); rotate_left; decide)
    | (rw [Dev.mk_tag]; (with_reducible apply K.mk_xspi); rotate_left; decide)
    | (rw [Dev.mk_tag]; (with_reducible apply K.mk_ticks); rotate_left; decide)
    | (rw [Dev.mk_tag]; (with_reducible apply K.mkT); rotate_left; (intro p hq; cases p <;> first | exact absurd hq (by decide) | rfl | exact ⟨rfl, rfl⟩ | exact fun _ => ⟨rfl, rfl⟩); exact fun w => w)

theorem Foot.xspiRun {e d : Dev} {pm rm : Nat} (h : K e d pm rm) (hp : sub 0xb000023 pm = true)
    (hr : sub 0x8000000000000000000000000281a800000000040000400000000000000000000080000 rm = true) : K e (Dev.xspiRun d) pm rm := by
  refine K.lift h hp hr ?_
  clear h hp hr
  unfold Dev.xspiRun
  extract_lets x1 x2 x3 x4 x5 x6 x7 x8
  clear_value (g1 : x1 = _) (g2 : x2 = _) (g3 : x3 = _) (g4 : x4 = _) (g5 : x5 = _) (g6 : x6 = _) (g7 : x7 = _) (g8 : x8 = _)
  clear g1
  clear g2
  clear g3
  clear g4
  subst g5
  refine K.cutEq d 0xb000023 0x8000000000000000000000000281a800000000040000400000000000000000000080000 g6 ?_ (fun h6 => ?_)
  rotate_left
  clear g6
  subst g7
  refine K.cutEq d 0xb000023 0x8000000000000000000000000281a800000000040000400000000000000000000080000 g8 ?_ (fun h8 => ?_)
  rotate_left
  clear g8
  all_goals repeat' first
    | with_reducible exact K.refl _ _ _
    | with_reducible assumption
    | ((with_reducible apply Foot.wakeNow); rotate_left; decide; decide)
    | ((with_reducible apply Foot.lsRead); rotate_left; decide; decide)
    | ((with_reducible apply Foot.lsWrite); rotate_left; decide; decide)
    | ((with_reducible apply Foot.fresh); rotate_left; decide; decide)
    | with_reducible apply K.ite
    | ((with_reducible apply K.foldl); rotate_left; intro d x h; rotate_right)
    | ((with_reducible apply K.foldlFst); rotate_left; intro x y h; rotate_right)
    | ((with_reducible apply K.foldlSnd); rotate_left; intro x y h; rotate_right)
    | with_reducible apply K.fst_ite
    | with_reducible apply K.cond
    | with_reducible refine K.of_fst ?_ (by assumption)
    | with_reducible refine K.of_snd ?_ (by assumption)
    | (split)
    | dsimp only
    | (rw [Dev.mk_tag]; (with_reducible apply K.mk_free); rotate_left; decide)
    | (rw [Dev.mk_tag]; (with_reducible apply K.mk_log); rotate_left; decide)
    | (rw [Dev.mk_tag]; (with_reducible apply K.mk_ls); rotate_left; decide; (first | exact .inl rfl | exact .inl ⟨rfl, rfl⟩ | exact .inr ⟨by decide, by (intro w; first | exact w | exact Memory.wf_write _ _ w | exact Memory.wf_clear _ _ w | exact Memory.wf_filter _ w | exact Memory.wf_set _ _ w)⟩))
    | (rw [Dev.mk_tag]; (with_reducible apply K.mk_flash); rotate_left; decide; (intro w; first | exact w | exact Memory.wf_write _ _ w | exact Memory.wf_clear _ _ w | exact Memory.wf_filter _ w | exact Memory.wf_set _ _ w))
    | (rw [Dev.mk_tag]; (with_reducible apply K.mk_xspi); rotate_left; decide)
    | (rw [Dev.mk_tag]; (with_reducible apply K.mkT); rotate_left; (intro p hq; cases p <;> first | exact absurd hq (by decide) | rfl | exact ⟨rfl, rfl⟩ | exact fun _ => ⟨rfl, rfl⟩); exact fun w => w)

theorem Foot.xspiGo {e d : Dev} {pm rm : Nat} {dir : Bool} (h : K e d pm rm) (hp : sub 0xb000023 pm = true)
    (hr : sub 0x20000000000000008000000000000000000000000281a800000000040000400000000000000000000080000 rm = true) : K e (Dev.xspiGo d dir) pm rm := by
  refine K.lift h hp hr ?_
  clear h hp hr
  unfold Dev.xspiGo
  extract_lets x1 x2
  clear_value (g1 : x1 = _) (g2 : x2 = _)
  refine K.cutEq d 0xb000023 0x20000000000000008000000000000000000000000281a800000000040000400000000000000000000080000 g1 ?_ (fun h1 => ?_)
  rotate_left
  clear g1
  subst g2
  all_goals repeat' first
    | with_reducible exact K.refl _ _ _
    | with_reducible assumption
    | ((with_reducible apply K.put); rotate_left; (first | assumption | exact R.mem_CORR_EVENT | exact R.mem_DRIVE_EVENT | exact R.mem_XSPI_CMD); decide)
    | ((with_reducible apply K.flag); rotate_left; (first | assumption | exact R.mem_CORR_EVENT | exact R.mem_DRIVE_EVENT | exact R.mem_XSPI_CMD); decide)
    | ((with_reducible apply Foot.xspiRun); rotate_left; decide; decide)
    | with_reducible apply K.ite
    | ((with_reducible apply K.foldl); rotate_left; intro d x h; rotate_right)
    | ((with_reducible apply K.foldlFst); rotate_left; intro x y h; rotate_right)
    | ((with_reducible apply K.foldlSnd); rotate_left; intro x y h; rotate_right)
    | with_reducible apply K.fst_ite
    | with_reducible apply K.cond
    | with_reducible refine K.of_fst ?_ (by assumption)
    | with_reducible refine K.of_snd ?_ (by assumption)
    | (split)
    | dsimp only
    | (rw [Dev.mk_tag]; (with_reducible apply K.mk_free); rotate_left; decide)
    | (rw [Dev.mk_tag]; (with_reducible apply K.mk_log); rotate_left; decide)
    | (rw [Dev.mk_tag]; (with_reducible apply K.mk_ls); rotate_left; decide; (first | exact .inl rfl | exact .inl ⟨rfl, rfl⟩ | exact .inr ⟨by decide, by (intro w; first | exact w | exact Memory.wf_write _ _ w | exact Memory.wf_clear _ _ w | exact Memory.wf_filter _ w | exact Memory.wf_set _ _ w)⟩))
    | (rw [Dev.mk_tag]; (with_reducible apply K.mk_flash); rotate_left; decide; (intro w; first | exact w | exact Memory.wf_write _ _ w | exact Memory.wf_clear _ _ w | exact Memory.wf_filter _ w | exact Memory.wf_set _ _ w))
    | (rw [Dev.mk_tag]; (with_reducible apply K.mk_xspi); rotate_left; decide)
    | (rw [Dev.mk_tag]; (with_reducible apply K.mkT); rotate_left; (intro p hq; cases p <;> first | exact absurd hq (by decide) | rfl | exact ⟨rfl, rfl⟩ | exact fun _ => ⟨rfl, rfl⟩); exact fun w => w)

theorem Foot.xspiDone {e d : Dev} {pm rm : Nat} (h : K e d pm rm) (hp : sub 0x0 pm = true)
    (hr : sub 0x200000000000000000000000000000000000000000000000000000000000000000000000000000000000000 rm = true) : K e (Dev.xspiDone d) pm rm := by
  refine K.lift h hp hr ?_
  clear h hp hr
  unfold Dev.xspiDone
  all_goals repeat' first
    | with_reducible exact K.refl _ _ _
    | with_reducible assumption
    | ((with_reducible apply K.put); rotate_left; (first | assumption | exact R.mem_XSPI_CMD); decide)
    | with_reducible apply K.ite
    | ((with_reducible apply K.foldl); rotate_left; intro d x h; rotate_right)
    | ((with_reducible apply K.foldlFst); rotate_left; intro x y h; rotate_right)
    | ((with_reducible apply K.foldlSnd); rotate_left; intro x y h; rotate_right)
    | with_reducible apply K.fst_ite
    | with_reducible apply K.cond
    | with_reducible refine K.of_fst ?_ (by assumption)
    | with_reducible refine K.of_snd ?_ (by assumption)
    | (split)
    | dsimp only
    | (rw [Dev.mk_tag]; (with_reducible apply K.mkT); rotate_left; (intro p hq; cases p <;> first | exact absurd hq (by decide) | rfl | exact ⟨rfl, rfl⟩ | exact fun _ => ⟨rfl, rfl⟩); exact fun w => w)

end Sys2Proof.Machine
end

