-- ==== Sys2Proof/Laws/FootFrame.lean ====
section
/-! SUPPORT.  Footprints of the functions of `Machine/Frame.lean` (see `Keep.lean`): what each leaves alone. -/

set_option Elab.async false
set_option linter.all false

namespace Sys2Proof.Machine

theorem Foot.raiseChecks {e d : Dev} {pm rm : Nat} {l : List (Option Event)} (h : K e d pm rm) (hp : sub 0x2 pm = true)
    (hr : sub 0xfffffffffffffffffffffffffffffffffffffffffffffffffffffffffffffffffffffffffffffffffffffffff rm = true) : K e (Dev.raiseChecks d l) pm rm := by
  refine K.lift h hp hr ?_
  clear h hp hr
  unfold Dev.raiseChecks
  all_goals repeat' first
    | with_reducible exact K.refl _ _ _
    | with_reducible assumption
    | ((with_reducible apply K.raise); rotate_left; (first | assumption); decide; decide; decide)
    | ((with_reducible apply K.raiseAny); rotate_left; decide; decide; decide)
    | with_reducible apply K.ite
    | ((with_reducible apply K.each); rotate_left; intro d x h; rotate_right)
    | ((with_reducible apply K.foldl); rotate_left; intro d x h; rotate_right)
    | ((with_reducible apply K.foldlFst); rotate_left; intro x y h; rotate_right)
    | ((with_reducible apply K.foldlSnd); rotate_left; intro x y h; rotate_right)
    | with_reducible apply K.fst_ite
    | with_reducible apply K.cond
    | with_reducible refine K.of_fst ?_ (by assumption)
    | with_reducible refine K.of_snd ?_ (by assumption)
    | (split)
    | dsimp only
    | (rw [Dev.mk_tag]; (with_reducible apply K.mk_log); rotate_left; decide)
    | (rw [Dev.mk_tag]; (with_reducible apply K.mkShadow); rotate_left; decide)
    | (rw [Dev.mk_tag]; (with_reducible apply K.mkActive); rotate_left; decide)
    | (rw [Dev.mk_tag]; (with_reducible apply K.mkT); rotate_left; (intro p hq; cases p <;> first | exact absurd hq (by decide) | rfl | exact ⟨rfl, rfl⟩ | exact fun _ => ⟨rfl, rfl⟩); exact fun w => w)

theorem Foot.replaceBuffers {e d : Dev} {pm rm : Nat} {old : Dev} (h : K e d pm rm) (hp : sub 0x200 pm = true)
    (hr : sub 0x0 rm = true) : K e (Dev.replaceBuffers d old) pm rm := by
  refine K.lift h hp hr ?_
  clear h hp hr
  unfold Dev.replaceBuffers
  extract_lets x1 x2 x3
  clear_value (g1 : x1 = _) (g2 : x2 = _) (g3 : x3 = _)
  subst g1
  clear g2
  clear g3
  all_goals repeat' first
    | with_reducible exact K.refl _ _ _
    | with_reducible assumption
    | with_reducible apply K.ite
    | ((with_reducible apply K.foldl); rotate_left; intro d x h; rotate_right)
    | ((with_reducible apply K.foldlFst); rotate_left; intro x y h; rotate_right)
    | ((with_reducible apply K.foldlSnd); rotate_left; intro x y h; rotate_right)
    | with_reducible apply K.fst_ite
    | with_reducible apply K.cond
    | with_reducible refine K.of_fst ?_ (by assumption)
    | with_reducible refine K.of_snd ?_ (by assumption)
    | (split)
    | dsimp only
    | (rw [Dev.mk_tag]; (with_reducible apply K.mk_retiring); rotate_left; decide)
    | (rw [Dev.mk_tag]; (with_reducible apply K.mkT); rotate_left; (intro p hq; cases p <;> first | exact absurd hq (by decide) | rfl | exact ⟨rfl, rfl⟩ | exact fun _ => ⟨rfl, rfl⟩); exact fun w => w)

theorem Foot.ringFreeAll {e d : Dev} {pm rm : Nat} {p : Nat} (h : K e d pm rm) (hp : sub 0x0 pm = true)
    (hr : sub 0x800000000000 rm = true) : K e (Dev.ringFreeAll d p) pm rm := by
  refine K.lift h hp hr ?_
  clear h hp hr
  unfold Dev.ringFreeAll
  all_goals repeat' first
    | with_reducible exact K.refl _ _ _
    | with_reducible assumption
    | ((with_reducible apply K.put); rotate_left; (first | assumption | exact R.mem_RING_STATUS); decide)
    | with_reducible apply K.ite
    | ((with_reducible apply K.foldl); rotate_left; intro d x h; rotate_right)
    | ((with_reducible apply K.foldlFst); rotate_left; intro x y h; rotate_right)
    | ((with_reducible apply K.foldlSnd); rotate_left; intro x y h; rotate_right)
    | with_reducible apply K.fst_ite
    | with_reducible apply K.cond
    | with_reducible refine K.of_fst ?_ (by assumption)
    | with_reducible refine K.of_snd ?_ (by assumption)
    | (split)
    | dsimp only
    | (rw [Dev.mk_tag]; (with_reducible apply K.mkT); rotate_left; (intro p hq; cases p <;> first | exact absurd hq (by decide) | rfl | exact ⟨rfl, rfl⟩ | exact fun _ => ⟨rfl, rfl⟩); exact fun w => w)

theorem Foot.modeMoves {e d : Dev} {pm rm : Nat} {old : Dev} (h : K e d pm rm) (hp : sub 0x2040a pm = true)
    (hr : sub 0x80000050000000000000000000000000000000000000000000000000000800000080000 rm = true) : K e (Dev.modeMoves d old) pm rm := by
  refine K.lift h hp hr ?_
  clear h hp hr
  unfold Dev.modeMoves
  extract_lets x1 x2 x3 x4 x5 x6 x7
  clear_value (g1 : x1 = _) (g2 : x2 = _) (g3 : x3 = _) (g4 : x4 = _) (g5 : x5 = _) (g6 : x6 = _) (g7 : x7 = _)
  clear g1
  subst g2
  refine K.cutEq d 0x2040a 0x80000050000000000000000000000000000000000000000000000000000800000080000 g3 ?_ (fun h3 => ?_)
  rotate_left
  clear g3
  refine K.cutEq d 0x2040a 0x80000050000000000000000000000000000000000000000000000000000800000080000 g4 ?_ (fun h4 => ?_)
  rotate_left
  clear g4
  refine K.cutEq d 0x2040a 0x80000050000000000000000000000000000000000000000000000000000800000080000 g5 ?_ (fun h5 => ?_)
  rotate_left
  clear g5
  refine K.cutEq d 0x2040a 0x80000050000000000000000000000000000000000000000000000000000800000080000 g6 ?_ (fun h6 => ?_)
  rotate_left
  clear g6
  refine K.cutEq d 0x2040a 0x80000050000000000000000000000000000000000000000000000000000800000080000 g7 ?_ (fun h7 => ?_)
  rotate_left
  clear g7
  all_goals repeat' first
    | with_reducible exact K.refl _ _ _
    | with_reducible assumption
    | ((with_reducible apply K.setScan); rotate_left; decide)
    | ((with_reducible apply K.setPort); rotate_left; decide; exact fun _ => rfl)
    | ((with_reducible apply K.setPortMem); rotate_left; decide; decide; (intro c w; first | exact w | exact Memory.wf_write _ _ w | exact Memory.wf_set _ _ w))
    | ((with_reducible apply Foot.ringDiscard); rotate_left; decide; decide)
    | ((with_reducible apply Foot.ringFreeAll); rotate_left; decide; decide)
    | ((with_reducible apply Foot.showActive); rotate_left; decide; decide)
    | ((with_reducible apply Foot.startWake); rotate_left; decide; decide)
    | ((with_reducible apply Foot.startDown); rotate_left; decide; decide)
    | ((with_reducible apply Foot.rediscover); rotate_left; decide; decide)
    | ((with_reducible apply Foot.showHealth); rotate_left; decide; decide)
    | ((with_reducible apply Foot.driveHpd); rotate_left; decide; decide)
    | with_reducible apply K.ite
    | ((with_reducible apply K.each); rotate_left; intro d x h; rotate_right)
    | ((with_reducible apply K.foldl); rotate_left; intro d x h; rotate_right)
    | ((with_reducible apply K.foldlFst); rotate_left; intro x y h; rotate_right)
    | ((with_reducible apply K.foldlSnd); rotate_left; intro x y h; rotate_right)
    | with_reducible apply K.fst_ite
    | with_reducible apply K.cond
    | with_reducible refine K.of_fst ?_ (by assumption)
    | with_reducible refine K.of_snd ?_ (by assumption)
    | (split)
    | dsimp only
    | (rw [Dev.mk_tag]; (with_reducible apply K.mk_log); rotate_left; decide)
    | (rw [Dev.mk_tag]; (with_reducible apply K.mk_pwr); rotate_left; decide)
    | (rw [Dev.mk_tag]; (with_reducible apply K.mk_scan); rotate_left; decide)
    | (rw [Dev.mk_tag]; (with_reducible apply K.mk_rx); rotate_left; decide; (first | exact .inl rfl | exact .inl ⟨rfl, rfl⟩ | exact .inr ⟨by decide, by (intro w; first | exact w | exact Memory.wf_write _ _ w | exact Memory.wf_clear _ _ w | exact Memory.wf_filter _ w | exact Memory.wf_set _ _ w)⟩))
    | (rw [Dev.mk_tag]; (with_reducible apply K.mkT); rotate_left; (intro p hq; cases p <;> first | exact absurd hq (by decide) | rfl | exact ⟨rfl, rfl⟩ | exact fun _ => ⟨rfl, rfl⟩); exact fun w => w)

theorem Foot.preferMoves {e d : Dev} {pm rm : Nat} {old : Dev} (h : K e d pm rm) (hp : sub 0x20400 pm = true)
    (hr : sub 0x40000000000000000000000000000000000000000000000000000000000000000 rm = true) : K e (Dev.preferMoves d old) pm rm := by
  refine K.lift h hp hr ?_
  clear h hp hr
  unfold Dev.preferMoves
  extract_lets x1 x2 x3
  clear_value (g1 : x1 = _) (g2 : x2 = _) (g3 : x3 = _)
  clear g1
  clear g2
  clear g3
  all_goals repeat' first
    | with_reducible exact K.refl _ _ _
    | with_reducible assumption
    | ((with_reducible apply K.setScan); rotate_left; decide)
    | ((with_reducible apply Foot.inheritAge); rotate_left; decide; decide)
    | ((with_reducible apply Foot.showActive); rotate_left; decide; decide)
    | with_reducible apply K.ite
    | ((with_reducible apply K.foldl); rotate_left; intro d x h; rotate_right)
    | ((with_reducible apply K.foldlFst); rotate_left; intro x y h; rotate_right)
    | ((with_reducible apply K.foldlSnd); rotate_left; intro x y h; rotate_right)
    | with_reducible apply K.fst_ite
    | with_reducible apply K.cond
    | with_reducible refine K.of_fst ?_ (by assumption)
    | with_reducible refine K.of_snd ?_ (by assumption)
    | (split)
    | dsimp only
    | (rw [Dev.mk_tag]; (with_reducible apply K.mk_scan); rotate_left; decide)
    | (rw [Dev.mk_tag]; (with_reducible apply K.mk_rx); rotate_left; decide; (first | exact .inl rfl | exact .inl ⟨rfl, rfl⟩ | exact .inr ⟨by decide, by (intro w; first | exact w | exact Memory.wf_write _ _ w | exact Memory.wf_clear _ _ w | exact Memory.wf_filter _ w | exact Memory.wf_set _ _ w)⟩))
    | (rw [Dev.mk_tag]; (with_reducible apply K.mkT); rotate_left; (intro p hq; cases p <;> first | exact absurd hq (by decide) | rfl | exact ⟨rfl, rfl⟩ | exact fun _ => ⟨rfl, rfl⟩); exact fun w => w)

theorem Foot.vrrBegins {e d : Dev} {pm rm : Nat} {old : Dev} (h : K e d pm rm) (hp : sub 0x400 pm = true)
    (hr : sub 0x0 rm = true) : K e (Dev.vrrBegins d old) pm rm := by
  refine K.lift h hp hr ?_
  clear h hp hr
  unfold Dev.vrrBegins
  all_goals repeat' first
    | with_reducible exact K.refl _ _ _
    | with_reducible assumption
    | ((with_reducible apply K.setScan); rotate_left; decide)
    | with_reducible apply K.ite
    | ((with_reducible apply K.foldl); rotate_left; intro d x h; rotate_right)
    | ((with_reducible apply K.foldlFst); rotate_left; intro x y h; rotate_right)
    | ((with_reducible apply K.foldlSnd); rotate_left; intro x y h; rotate_right)
    | with_reducible apply K.fst_ite
    | with_reducible apply K.cond
    | with_reducible refine K.of_fst ?_ (by assumption)
    | with_reducible refine K.of_snd ?_ (by assumption)
    | (split)
    | dsimp only
    | (rw [Dev.mk_tag]; (with_reducible apply K.mk_scan); rotate_left; decide)
    | (rw [Dev.mk_tag]; (with_reducible apply K.mkT); rotate_left; (intro p hq; cases p <;> first | exact absurd hq (by decide) | rfl | exact ⟨rfl, rfl⟩ | exact fun _ => ⟨rfl, rfl⟩); exact fun w => w)

theorem Foot.setApplied {e d : Dev} {pm rm : Nat} {old : Dev} (h : K e d pm rm) (hp : sub 0x803462a pm = true)
    (hr : sub 0x88007950000000000000080002b5a800000000040000400010000100000880002080000 rm = true) : K e (Dev.setApplied d old) pm rm := by
  refine K.lift h hp hr ?_
  clear h hp hr
  unfold Dev.setApplied
  extract_lets x1 x2 x3 x4 x5 x6 x7 x8 x9 x10
  clear_value (g1 : x1 = _) (g2 : x2 = _) (g3 : x3 = _) (g4 : x4 = _) (g5 : x5 = _) (g6 : x6 = _) (g7 : x7 = _) (g8 : x8 = _) (g9 : x9 = _) (g10 : x10 = _)
  refine K.cutEq d 0x803462a 0x88007950000000000000080002b5a800000000040000400010000100000880002080000 g1 ?_ (fun h1 => ?_)
  rotate_left
  clear g1
  refine K.cutEq d 0x803462a 0x88007950000000000000080002b5a800000000040000400010000100000880002080000 g2 ?_ (fun h2 => ?_)
  rotate_left
  clear g2
  refine K.cutEq d 0x803462a 0x88007950000000000000080002b5a800000000040000400010000100000880002080000 g3 ?_ (fun h3 => ?_)
  rotate_left
  clear g3
  refine K.cutEq d 0x803462a 0x88007950000000000000080002b5a800000000040000400010000100000880002080000 g4 ?_ (fun h4 => ?_)
  rotate_left
  clear g4
  refine K.cutEq d 0x803462a 0x88007950000000000000080002b5a800000000040000400010000100000880002080000 g5 ?_ (fun h5 => ?_)
  rotate_left
  clear g5
  refine K.cutEq d 0x803462a 0x88007950000000000000080002b5a800000000040000400010000100000880002080000 g6 ?_ (fun h6 => ?_)
  rotate_left
  clear g6
  refine K.cutEq d 0x803462a 0x88007950000000000000080002b5a800000000040000400010000100000880002080000 g7 ?_ (fun h7 => ?_)
  rotate_left
  clear g7
  refine K.cutEq d 0x803462a 0x88007950000000000000080002b5a800000000040000400010000100000880002080000 g8 ?_ (fun h8 => ?_)
  rotate_left
  clear g8
  refine K.cutEq d 0x803462a 0x88007950000000000000080002b5a800000000040000400010000100000880002080000 g9 ?_ (fun h9 => ?_)
  rotate_left
  clear g9
  subst g10
  all_goals repeat' first
    | with_reducible exact K.refl _ _ _
    | with_reducible assumption
    | ((with_reducible apply K.flag); rotate_left; (first | assumption | exact R.mem_CORR_EVENT | exact R.mem_DRIVE_EVENT | exact R.mem_FSEQ_STATUS | exact R.mem_PIPE_CLK | exact R.mem_RX_MODE | exact R.mem_ZONE_MAP); decide)
    | ((with_reducible apply K.setPwr); rotate_left; decide)
    | ((with_reducible apply K.setScan); rotate_left; decide)
    | ((with_reducible apply Foot.calConfig); rotate_left; decide; decide)
    | ((with_reducible apply Foot.vrrBegins); rotate_left; decide; decide)
    | ((with_reducible apply Foot.replaceBuffers); rotate_left; decide; decide)
    | ((with_reducible apply Foot.showSched); rotate_left; decide; decide)
    | ((with_reducible apply Foot.mapGiven); rotate_left; decide; decide)
    | ((with_reducible apply Foot.clearFallow); rotate_left; decide; decide)
    | ((with_reducible apply Foot.modeMoves); rotate_left; decide; decide)
    | ((with_reducible apply Foot.preferMoves); rotate_left; decide; decide)
    | ((with_reducible apply Foot.rejudge); rotate_left; decide; decide)
    | ((with_reducible apply Foot.lsRetry); rotate_left; decide; decide)
    | ((with_reducible apply Foot.lsAbortTest); rotate_left; decide; decide)
    | with_reducible apply K.ite
    | ((with_reducible apply K.foldl); rotate_left; intro d x h; rotate_right)
    | ((with_reducible apply K.foldlFst); rotate_left; intro x y h; rotate_right)
    | ((with_reducible apply K.foldlSnd); rotate_left; intro x y h; rotate_right)
    | with_reducible apply K.fst_ite
    | with_reducible apply K.cond
    | with_reducible refine K.of_fst ?_ (by assumption)
    | with_reducible refine K.of_snd ?_ (by assumption)
    | (split)
    | dsimp only
    | (rw [Dev.mk_tag]; (with_reducible apply K.mk_log); rotate_left; decide)
    | (rw [Dev.mk_tag]; (with_reducible apply K.mk_pwr); rotate_left; decide)
    | (rw [Dev.mk_tag]; (with_reducible apply K.mk_ls); rotate_left; decide; (first | exact .inl rfl | exact .inl ⟨rfl, rfl⟩ | exact .inr ⟨by decide, by (intro w; first | exact w | exact Memory.wf_write _ _ w | exact Memory.wf_clear _ _ w | exact Memory.wf_filter _ w | exact Memory.wf_set _ _ w)⟩))
    | (rw [Dev.mk_tag]; (with_reducible apply K.mk_retiring); rotate_left; decide)
    | (rw [Dev.mk_tag]; (with_reducible apply K.mk_scan); rotate_left; decide)
    | (rw [Dev.mk_tag]; (with_reducible apply K.mk_sched); rotate_left; decide; (first | exact .inl rfl | exact .inr ⟨by decide, by (intro w; first | exact w | exact Memory.wf_write _ _ w | exact Memory.wf_clear _ _ w | exact Memory.wf_filter _ w | exact Memory.wf_set _ _ w)⟩); (first | exact .inl rfl | exact .inr ⟨by decide, by (intro w p hp; obtain ⟨q, hq, rfl⟩ := List.mem_map.1 hp; exact w q hq)⟩))
    | (rw [Dev.mk_tag]; (with_reducible apply K.mk_cal); rotate_left; decide)
    | (rw [Dev.mk_tag]; (with_reducible apply K.mk_rx); rotate_left; decide; (first | exact .inl rfl | exact .inl ⟨rfl, rfl⟩ | exact .inr ⟨by decide, by (intro w; first | exact w | exact Memory.wf_write _ _ w | exact Memory.wf_clear _ _ w | exact Memory.wf_filter _ w | exact Memory.wf_set _ _ w)⟩))
    | (rw [Dev.mk_tag]; (with_reducible apply K.mkT); rotate_left; (intro p hq; cases p <;> first | exact absurd hq (by decide) | rfl | exact ⟨rfl, rfl⟩ | exact fun _ => ⟨rfl, rfl⟩); exact fun w => w)

theorem Foot.latchCommit {e d : Dev} {pm rm : Nat} (h : K e d pm rm) (hp : sub 0x803462a pm = true)
    (hr : sub 0xfffffffffffffffffffffffffffffffffffffffffffffffffffffffffffffffffffffffffffffffffffffffff rm = true) : K e (Dev.latchCommit d).1 pm rm := by
  refine K.lift h hp hr ?_
  clear h hp hr
  unfold Dev.latchCommit
  extract_lets x1
  clear_value (g1 : x1 = _)
  refine K.cutEq d 0x803462a 0xfffffffffffffffffffffffffffffffffffffffffffffffffffffffffffffffffffffffffffffffffffffffff g1 ?_ (fun h1 => ?_)
  rotate_left
  clear g1
  all_goals repeat' first
    | with_reducible exact K.refl _ _ _
    | with_reducible assumption
    | ((with_reducible apply K.put); rotate_left; (first | assumption | exact R.mem_CORR_EVENT | exact R.mem_DRIVE_EVENT | exact R.mem_FSEQ_EVENT | exact R.mem_FSEQ_STATUS); decide)
    | ((with_reducible apply K.raise); rotate_left; (first | assumption | exact R.mem_CORR_EVENT | exact R.mem_DRIVE_EVENT | exact R.mem_FSEQ_EVENT | exact R.mem_FSEQ_STATUS); decide; decide; decide)
    | ((with_reducible apply K.putAny); rotate_left; decide)
    | ((with_reducible apply K.raiseAny); rotate_left; decide; decide; decide)
    | ((with_reducible apply K.commitShadows); rotate_left; decide)
    | ((with_reducible apply Foot.setApplied); rotate_left; decide; decide)
    | ((with_reducible apply Foot.raiseChecks); rotate_left; decide; decide)
    | with_reducible apply K.ite
    | ((with_reducible apply K.foldl); rotate_left; intro d x h; rotate_right)
    | ((with_reducible apply K.foldlFst); rotate_left; intro x y h; rotate_right)
    | ((with_reducible apply K.foldlSnd); rotate_left; intro x y h; rotate_right)
    | with_reducible apply K.fst_ite
    | with_reducible apply K.cond
    | with_reducible refine K.of_fst ?_ (by assumption)
    | with_reducible refine K.of_snd ?_ (by assumption)
    | (split)
    | dsimp only
    | (rw [Dev.mk_tag]; (with_reducible apply K.mk_log); rotate_left; decide)
    | (rw [Dev.mk_tag]; (with_reducible apply K.mk_pwr); rotate_left; decide)
    | (rw [Dev.mk_tag]; (with_reducible apply K.mk_ls); rotate_left; decide; (first | exact .inl rfl | exact .inl ⟨rfl, rfl⟩ | exact .inr ⟨by decide, by (intro w; first | exact w | exact Memory.wf_write _ _ w | exact Memory.wf_clear _ _ w | exact Memory.wf_filter _ w | exact Memory.wf_set _ _ w)⟩))
    | (rw [Dev.mk_tag]; (with_reducible apply K.mk_retiring); rotate_left; decide)
    | (rw [Dev.mk_tag]; (with_reducible apply K.mk_scan); rotate_left; decide)
    | (rw [Dev.mk_tag]; (with_reducible apply K.mk_sched); rotate_left; decide; (first | exact .inl rfl | exact .inr ⟨by decide, by (intro w; first | exact w | exact Memory.wf_write _ _ w | exact Memory.wf_clear _ _ w | exact Memory.wf_filter _ w | exact Memory.wf_set _ _ w)⟩); (first | exact .inl rfl | exact .inr ⟨by decide, by (intro w p hp; obtain ⟨q, hq, rfl⟩ := List.mem_map.1 hp; exact w q hq)⟩))
    | (rw [Dev.mk_tag]; (with_reducible apply K.mk_cal); rotate_left; decide)
    | (rw [Dev.mk_tag]; (with_reducible apply K.mk_rx); rotate_left; decide; (first | exact .inl rfl | exact .inl ⟨rfl, rfl⟩ | exact .inr ⟨by decide, by (intro w; first | exact w | exact Memory.wf_write _ _ w | exact Memory.wf_clear _ _ w | exact Memory.wf_filter _ w | exact Memory.wf_set _ _ w)⟩))
    | (rw [Dev.mk_tag]; (with_reducible apply K.mkShadow); rotate_left; decide)
    | (rw [Dev.mk_tag]; (with_reducible apply K.mkActive); rotate_left; decide)
    | (rw [Dev.mk_tag]; (with_reducible apply K.mkT); rotate_left; (intro p hq; cases p <;> first | exact absurd hq (by decide) | rfl | exact ⟨rfl, rfl⟩ | exact fun _ => ⟨rfl, rfl⟩); exact fun w => w)

theorem Foot.ladderCommit {e d : Dev} {pm rm : Nat} {applied : Bool} (h : K e d pm rm) (hp : sub 0x400 pm = true)
    (hr : sub 0x42000000 rm = true) : K e (Dev.ladderCommit d applied) pm rm := by
  refine K.lift h hp hr ?_
  clear h hp hr
  unfold Dev.ladderCommit
  extract_lets x1
  clear_value (g1 : x1 = _)
  refine K.cutEq d 0x400 0x42000000 g1 ?_ (fun h1 => ?_)
  rotate_left
  clear g1
  all_goals repeat' first
    | with_reducible exact K.refl _ _ _
    | with_reducible assumption
    | ((with_reducible apply K.put); rotate_left; (first | assumption | exact R.mem_LADDER_CTRL); decide)
    | ((with_reducible apply K.setScan); rotate_left; decide)
    | ((with_reducible apply Foot.setLevel); rotate_left; decide; decide)
    | with_reducible apply K.ite
    | ((with_reducible apply K.foldl); rotate_left; intro d x h; rotate_right)
    | ((with_reducible apply K.foldlFst); rotate_left; intro x y h; rotate_right)
    | ((with_reducible apply K.foldlSnd); rotate_left; intro x y h; rotate_right)
    | with_reducible apply K.fst_ite
    | with_reducible apply K.cond
    | with_reducible refine K.of_fst ?_ (by assumption)
    | with_reducible refine K.of_snd ?_ (by assumption)
    | (split)
    | dsimp only
    | (rw [Dev.mk_tag]; (with_reducible apply K.mk_scan); rotate_left; decide)
    | (rw [Dev.mk_tag]; (with_reducible apply K.mkT); rotate_left; (intro p hq; cases p <;> first | exact absurd hq (by decide) | rfl | exact ⟨rfl, rfl⟩ | exact fun _ => ⟨rfl, rfl⟩); exact fun w => w)

theorem Foot.floorCause {e d : Dev} {pm rm : Nat} (h : K e d pm rm) (hp : sub 0x400 pm = true)
    (hr : sub 0x0 rm = true) : K e (Dev.floorCause d) pm rm := by
  refine K.lift h hp hr ?_
  clear h hp hr
  unfold Dev.floorCause
  extract_lets x1
  clear_value (g1 : x1 = _)
  clear g1
  all_goals repeat' first
    | with_reducible exact K.refl _ _ _
    | with_reducible assumption
    | ((with_reducible apply Foot.cause); rotate_left; decide; decide)
    | with_reducible apply K.ite
    | ((with_reducible apply K.foldl); rotate_left; intro d x h; rotate_right)
    | ((with_reducible apply K.foldlFst); rotate_left; intro x y h; rotate_right)
    | ((with_reducible apply K.foldlSnd); rotate_left; intro x y h; rotate_right)
    | with_reducible apply K.fst_ite
    | with_reducible apply K.cond
    | with_reducible refine K.of_fst ?_ (by assumption)
    | with_reducible refine K.of_snd ?_ (by assumption)
    | (split)
    | dsimp only
    | (rw [Dev.mk_tag]; (with_reducible apply K.mk_scan); rotate_left; decide)
    | (rw [Dev.mk_tag]; (with_reducible apply K.mkT); rotate_left; (intro p hq; cases p <;> first | exact absurd hq (by decide) | rfl | exact ⟨rfl, rfl⟩ | exact fun _ => ⟨rfl, rfl⟩); exact fun w => w)

theorem Foot.firstLit {e d : Dev} {pm rm : Nat} (h : K e d pm rm) (hp : sub 0x1400 pm = true)
    (hr : sub 0x1000000042000000 rm = true) : K e (Dev.firstLit d) pm rm := by
  refine K.lift h hp hr ?_
  clear h hp hr
  unfold Dev.firstLit
  extract_lets x1 x2 x3
  clear_value (g1 : x1 = _) (g2 : x2 = _) (g3 : x3 = _)
  clear g1
  refine K.cutEq d 0x1400 0x1000000042000000 g2 ?_ (fun h2 => ?_)
  rotate_left
  clear g2
  subst g3
  all_goals repeat' first
    | with_reducible exact K.refl _ _ _
    | with_reducible assumption
    | ((with_reducible apply K.put); rotate_left; (first | assumption | exact R.mem_GATE_CTRL); decide)
    | ((with_reducible apply K.setScan); rotate_left; decide)
    | ((with_reducible apply Foot.setLevel); rotate_left; decide; decide)
    | with_reducible apply K.ite
    | ((with_reducible apply K.foldl); rotate_left; intro d x h; rotate_right)
    | ((with_reducible apply K.foldlFst); rotate_left; intro x y h; rotate_right)
    | ((with_reducible apply K.foldlSnd); rotate_left; intro x y h; rotate_right)
    | with_reducible apply K.fst_ite
    | with_reducible apply K.cond
    | with_reducible refine K.of_fst ?_ (by assumption)
    | with_reducible refine K.of_snd ?_ (by assumption)
    | (split)
    | dsimp only
    | (rw [Dev.mk_tag]; (with_reducible apply K.mk_scan); rotate_left; decide)
    | (rw [Dev.mk_tag]; (with_reducible apply K.mk_gate); rotate_left; decide)
    | (rw [Dev.mk_tag]; (with_reducible apply K.mkT); rotate_left; (intro p hq; cases p <;> first | exact absurd hq (by decide) | rfl | exact ⟨rfl, rfl⟩ | exact fun _ => ⟨rfl, rfl⟩); exact fun w => w)

theorem Foot.ladderLatch {e d : Dev} {pm rm : Nat} {applied : Bool} (h : K e d pm rm) (hp : sub 0x1402 pm = true)
    (hr : sub 0x10000000d2080000 rm = true) : K e (Dev.ladderLatch d applied) pm rm := by
  refine K.lift h hp hr ?_
  clear h hp hr
  unfold Dev.ladderLatch
  extract_lets x1 x2
  clear_value (g1 : x1 = _) (g2 : x2 = _)
  refine K.cutEq d 0x1402 0x10000000d2080000 g1 ?_ (fun h1 => ?_)
  rotate_left
  clear g1
  clear g2
  all_goals repeat' first
    | with_reducible exact K.refl _ _ _
    | with_reducible assumption
    | ((with_reducible apply Foot.floorCause); rotate_left; decide; decide)
    | ((with_reducible apply Foot.showAvail); rotate_left; decide; decide)
    | ((with_reducible apply Foot.firstLit); rotate_left; decide; decide)
    | ((with_reducible apply Foot.applyDrop); rotate_left; decide; decide)
    | ((with_reducible apply Foot.ladderCommit); rotate_left; decide; decide)
    | with_reducible apply K.ite
    | ((with_reducible apply K.foldl); rotate_left; intro d x h; rotate_right)
    | ((with_reducible apply K.foldlFst); rotate_left; intro x y h; rotate_right)
    | ((with_reducible apply K.foldlSnd); rotate_left; intro x y h; rotate_right)
    | with_reducible apply K.fst_ite
    | with_reducible apply K.cond
    | with_reducible refine K.of_fst ?_ (by assumption)
    | with_reducible refine K.of_snd ?_ (by assumption)
    | (split)
    | dsimp only
    | (rw [Dev.mk_tag]; (with_reducible apply K.mk_log); rotate_left; decide)
    | (rw [Dev.mk_tag]; (with_reducible apply K.mk_scan); rotate_left; decide)
    | (rw [Dev.mk_tag]; (with_reducible apply K.mk_gate); rotate_left; decide)
    | (rw [Dev.mk_tag]; (with_reducible apply K.mkT); rotate_left; (intro p hq; cases p <;> first | exact absurd hq (by decide) | rfl | exact ⟨rfl, rfl⟩ | exact fun _ => ⟨rfl, rfl⟩); exact fun w => w)

theorem Foot.statSwap {e d : Dev} {pm rm : Nat} {measured : Nat} (h : K e d pm rm) (hp : sub 0x400 pm = true)
    (hr : sub 0x3000000000000000000000000 rm = true) : K e (Dev.statSwap d measured) pm rm := by
  refine K.lift h hp hr ?_
  clear h hp hr
  unfold Dev.statSwap
  extract_lets x1
  clear_value (g1 : x1 = _)
  refine K.cutEq d 0x400 0x3000000000000000000000000 g1 ?_ (fun h1 => ?_)
  rotate_left
  clear g1
  all_goals repeat' first
    | with_reducible exact K.refl _ _ _
    | with_reducible assumption
    | ((with_reducible apply K.put); rotate_left; (first | assumption | exact R.mem_STAT_FRAME | exact R.mem_STAT_STATUS); decide)
    | ((with_reducible apply K.flag); rotate_left; (first | assumption | exact R.mem_STAT_FRAME | exact R.mem_STAT_STATUS); decide)
    | ((with_reducible apply K.setScan); rotate_left; decide)
    | with_reducible apply K.ite
    | ((with_reducible apply K.foldl); rotate_left; intro d x h; rotate_right)
    | ((with_reducible apply K.foldlFst); rotate_left; intro x y h; rotate_right)
    | ((with_reducible apply K.foldlSnd); rotate_left; intro x y h; rotate_right)
    | with_reducible apply K.fst_ite
    | with_reducible apply K.cond
    | with_reducible refine K.of_fst ?_ (by assumption)
    | with_reducible refine K.of_snd ?_ (by assumption)
    | (split)
    | dsimp only
    | (rw [Dev.mk_tag]; (with_reducible apply K.mk_scan); rotate_left; decide)
    | (rw [Dev.mk_tag]; (with_reducible apply K.mkT); rotate_left; (intro p hq; cases p <;> first | exact absurd hq (by decide) | rfl | exact ⟨rfl, rfl⟩ | exact fun _ => ⟨rfl, rfl⟩); exact fun w => w)

theorem Foot.periodLatch {e d : Dev} {pm rm : Nat} {ns : Nat} (h : K e d pm rm) (hp : sub 0x30000c42b pm = true)
    (hr : sub 0x8000000000a00000000000000281a80000000000000000007ae00700000000002080000 rm = true) : K e (Dev.periodLatch d ns) pm rm := by
  refine K.lift h hp hr ?_
  clear h hp hr
  unfold Dev.periodLatch
  extract_lets x1 x2 x3
  clear_value (g1 : x1 = _) (g2 : x2 = _) (g3 : x3 = _)
  refine K.cutEq d 0x30000c42b 0x8000000000a00000000000000281a80000000000000000007ae00700000000002080000 g1 ?_ (fun h1 => ?_)
  rotate_left
  clear g1
  refine K.cutEq d 0x30000c42b 0x8000000000a00000000000000281a80000000000000000007ae00700000000002080000 g2 ?_ (fun h2 => ?_)
  rotate_left
  clear g2
  refine K.cutEq d 0x30000c42b 0x8000000000a00000000000000281a80000000000000000007ae00700000000002080000 g3 ?_ (fun h3 => ?_)
  rotate_left
  clear g3
  all_goals repeat' first
    | with_reducible exact K.refl _ _ _
    | with_reducible assumption
    | ((with_reducible apply K.flag); rotate_left; (first | assumption | exact R.mem_FSEQ_STATUS | exact R.mem_SCHED_CTRL | exact R.mem_ZONE_MAP | exact R.mem_ZONE_SEL); decide)
    | ((with_reducible apply Foot.schedLatch); rotate_left; decide; decide)
    | ((with_reducible apply Foot.blLate); rotate_left; decide; decide)
    | ((with_reducible apply Foot.blRead); rotate_left; decide; decide)
    | ((with_reducible apply Foot.blTakeDuties); rotate_left; decide; decide)
    | ((with_reducible apply Foot.blLatch); rotate_left; decide; decide)
    | ((with_reducible apply Foot.loadMap); rotate_left; decide; decide)
    | with_reducible apply K.ite
    | ((with_reducible apply K.foldl); rotate_left; intro d x h; rotate_right)
    | ((with_reducible apply K.foldlFst); rotate_left; intro x y h; rotate_right)
    | ((with_reducible apply K.foldlSnd); rotate_left; intro x y h; rotate_right)
    | with_reducible apply K.fst_ite
    | with_reducible apply K.cond
    | with_reducible refine K.of_fst ?_ (by assumption)
    | with_reducible refine K.of_snd ?_ (by assumption)
    | (split)
    | dsimp only
    | (rw [Dev.mk_tag]; (with_reducible apply K.mk_free); rotate_left; decide)
    | (rw [Dev.mk_tag]; (with_reducible apply K.mk_log); rotate_left; decide)
    | (rw [Dev.mk_tag]; (with_reducible apply K.mk_pwr); rotate_left; decide)
    | (rw [Dev.mk_tag]; (with_reducible apply K.mk_ls); rotate_left; decide; (first | exact .inl rfl | exact .inl ⟨rfl, rfl⟩ | exact .inr ⟨by decide, by (intro w; first | exact w | exact Memory.wf_write _ _ w | exact Memory.wf_clear _ _ w | exact Memory.wf_filter _ w | exact Memory.wf_set _ _ w)⟩))
    | (rw [Dev.mk_tag]; (with_reducible apply K.mk_scan); rotate_left; decide)
    | (rw [Dev.mk_tag]; (with_reducible apply K.mk_sched); rotate_left; decide; (first | exact .inl rfl | exact .inr ⟨by decide, by (intro w; first | exact w | exact Memory.wf_write _ _ w | exact Memory.wf_clear _ _ w | exact Memory.wf_filter _ w | exact Memory.wf_set _ _ w)⟩); (first | exact .inl rfl | exact .inr ⟨by decide, by (intro w p hp; obtain ⟨q, hq, rfl⟩ := List.mem_map.1 hp; exact w q hq)⟩))
    | (rw [Dev.mk_tag]; (with_reducible apply K.mk_bl); rotate_left; decide)
    | (rw [Dev.mk_tag]; (with_reducible apply K.mkT); rotate_left; (intro p hq; cases p <;> first | exact absurd hq (by decide) | rfl | exact ⟨rfl, rfl⟩ | exact fun _ => ⟨rfl, rfl⟩); exact fun w => w)

theorem Foot.markCapture {e d : Dev} {pm rm : Nat} (h : K e d pm rm) (hp : sub 0x8 pm = true)
    (hr : sub 0x0 rm = true) : K e (Dev.markCapture d) pm rm := by
  refine K.lift h hp hr ?_
  clear h hp hr
  unfold Dev.markCapture
  all_goals repeat' first
    | with_reducible exact K.refl _ _ _
    | with_reducible assumption
    | ((with_reducible apply K.setPwr); rotate_left; decide)
    | with_reducible apply K.ite
    | ((with_reducible apply K.foldl); rotate_left; intro d x h; rotate_right)
    | ((with_reducible apply K.foldlFst); rotate_left; intro x y h; rotate_right)
    | ((with_reducible apply K.foldlSnd); rotate_left; intro x y h; rotate_right)
    | with_reducible apply K.fst_ite
    | with_reducible apply K.cond
    | with_reducible refine K.of_fst ?_ (by assumption)
    | with_reducible refine K.of_snd ?_ (by assumption)
    | (split)
    | dsimp only
    | (rw [Dev.mk_tag]; (with_reducible apply K.mk_pwr); rotate_left; decide)
    | (rw [Dev.mk_tag]; (with_reducible apply K.mkT); rotate_left; (intro p hq; cases p <;> first | exact absurd hq (by decide) | rfl | exact ⟨rfl, rfl⟩ | exact fun _ => ⟨rfl, rfl⟩); exact fun w => w)

theorem Foot.agePorts {e d : Dev} {pm rm : Nat} {ns : Nat} (h : K e d pm rm) (hp : sub 0x20000 pm = true)
    (hr : sub 0x40000000000000000000000000000000000000000000000000000000000000000 rm = true) : K e (Dev.agePorts d ns) pm rm := by
  refine K.lift h hp hr ?_
  clear h hp hr
  unfold Dev.agePorts
  all_goals repeat' first
    | with_reducible exact K.refl _ _ _
    | with_reducible assumption
    | ((with_reducible apply K.setPort); rotate_left; decide; exact fun _ => rfl)
    | ((with_reducible apply K.setPortMem); rotate_left; decide; decide; (intro c w; first | exact w | exact Memory.wf_write _ _ w | exact Memory.wf_set _ _ w))
    | ((with_reducible apply Foot.prExit); rotate_left; decide; decide)
    | with_reducible apply K.ite
    | ((with_reducible apply K.each); rotate_left; intro d x h; rotate_right)
    | ((with_reducible apply K.foldl); rotate_left; intro d x h; rotate_right)
    | ((with_reducible apply K.foldlFst); rotate_left; intro x y h; rotate_right)
    | ((with_reducible apply K.foldlSnd); rotate_left; intro x y h; rotate_right)
    | with_reducible apply K.fst_ite
    | with_reducible apply K.cond
    | with_reducible refine K.of_fst ?_ (by assumption)
    | with_reducible refine K.of_snd ?_ (by assumption)
    | (split)
    | dsimp only
    | (rw [Dev.mk_tag]; (with_reducible apply K.mk_rx); rotate_left; decide; (first | exact .inl rfl | exact .inl ⟨rfl, rfl⟩ | exact .inr ⟨by decide, by (intro w; first | exact w | exact Memory.wf_write _ _ w | exact Memory.wf_clear _ _ w | exact Memory.wf_filter _ w | exact Memory.wf_set _ _ w)⟩))
    | (rw [Dev.mk_tag]; (with_reducible apply K.mkT); rotate_left; (intro p hq; cases p <;> first | exact absurd hq (by decide) | rfl | exact ⟨rfl, rfl⟩ | exact fun _ => ⟨rfl, rfl⟩); exact fun w => w)

theorem Foot.chooseSeed {e d : Dev} {pm rm : Nat} (h : K e d pm rm) (hp : sub 0x402 pm = true)
    (hr : sub 0x40200000000000000000000000080000 rm = true) : K e (Dev.chooseSeed d) pm rm := by
  refine K.lift h hp hr ?_
  clear h hp hr
  unfold Dev.chooseSeed
  extract_lets x1 x2 x3
  clear_value (g1 : x1 = _) (g2 : x2 = _) (g3 : x3 = _)
  clear g1
  clear g2
  refine K.cutEq d 0x402 0x40200000000000000000000000080000 g3 ?_ (fun h3 => ?_)
  rotate_left
  clear g3
  all_goals repeat' first
    | with_reducible exact K.refl _ _ _
    | with_reducible assumption
    | ((with_reducible apply K.put); rotate_left; (first | assumption | exact R.mem_DRIVE_EVENT | exact R.mem_HIST_STATUS); decide)
    | ((with_reducible apply K.raiseIf); rotate_left; (first | assumption | exact R.mem_DRIVE_EVENT | exact R.mem_HIST_STATUS); decide; decide; decide)
    | ((with_reducible apply K.setScan); rotate_left; decide)
    | with_reducible apply K.ite
    | ((with_reducible apply K.foldl); rotate_left; intro d x h; rotate_right)
    | ((with_reducible apply K.foldlFst); rotate_left; intro x y h; rotate_right)
    | ((with_reducible apply K.foldlSnd); rotate_left; intro x y h; rotate_right)
    | with_reducible apply K.fst_ite
    | with_reducible apply K.cond
    | with_reducible refine K.of_fst ?_ (by assumption)
    | with_reducible refine K.of_snd ?_ (by assumption)
    | (split)
    | dsimp only
    | (rw [Dev.mk_tag]; (with_reducible apply K.mk_log); rotate_left; decide)
    | (rw [Dev.mk_tag]; (with_reducible apply K.mk_scan); rotate_left; decide)
    | (rw [Dev.mk_tag]; (with_reducible apply K.mkT); rotate_left; (intro p hq; cases p <;> first | exact absurd hq (by decide) | rfl | exact ⟨rfl, rfl⟩ | exact fun _ => ⟨rfl, rfl⟩); exact fun w => w)

theorem Foot.ringSwitch {e d : Dev} {pm rm : Nat} (h : K e d pm rm) (hp : sub 0x400 pm = true)
    (hr : sub 0x0 rm = true) : K e (Dev.ringSwitch d) pm rm := by
  refine K.lift h hp hr ?_
  clear h hp hr
  unfold Dev.ringSwitch
  extract_lets x1
  clear_value (g1 : x1 = _)
  clear g1
  all_goals repeat' first
    | with_reducible exact K.refl _ _ _
    | with_reducible assumption
    | ((with_reducible apply K.setScan); rotate_left; decide)
    | with_reducible apply K.ite
    | ((with_reducible apply K.foldl); rotate_left; intro d x h; rotate_right)
    | ((with_reducible apply K.foldlFst); rotate_left; intro x y h; rotate_right)
    | ((with_reducible apply K.foldlSnd); rotate_left; intro x y h; rotate_right)
    | with_reducible apply K.fst_ite
    | with_reducible apply K.cond
    | with_reducible refine K.of_fst ?_ (by assumption)
    | with_reducible refine K.of_snd ?_ (by assumption)
    | (split)
    | dsimp only
    | (rw [Dev.mk_tag]; (with_reducible apply K.mk_scan); rotate_left; decide)
    | (rw [Dev.mk_tag]; (with_reducible apply K.mkT); rotate_left; (intro p hq; cases p <;> first | exact absurd hq (by decide) | rfl | exact ⟨rfl, rfl⟩ | exact fun _ => ⟨rfl, rfl⟩); exact fun w => w)

theorem Foot.prefetchStart {e d : Dev} {pm rm : Nat} {us : Nat} (h : K e d pm rm) (hp : sub 0x402 pm = true)
    (hr : sub 0x58000000000000000000000000000000040200000000000000000824010080000 rm = true) : K e (Dev.prefetchStart d us) pm rm := by
  refine K.lift h hp hr ?_
  clear h hp hr
  unfold Dev.prefetchStart
  extract_lets x1 x2 x3 x4 x5
  clear_value (g1 : x1 = _) (g2 : x2 = _) (g3 : x3 = _) (g4 : x4 = _) (g5 : x5 = _)
  refine K.cutEq d 0x402 0x58000000000000000000000000000000040200000000000000000824010080000 g1 ?_ (fun h1 => ?_)
  rotate_left
  clear g1
  refine K.cutEq d 0x402 0x58000000000000000000000000000000040200000000000000000824010080000 g2 ?_ (fun h2 => ?_)
  rotate_left
  clear g2
  refine K.cutEq d 0x402 0x58000000000000000000000000000000040200000000000000000824010080000 g3 ?_ (fun h3 => ?_)
  rotate_left
  clear g3
  refine K.cutEq d 0x402 0x58000000000000000000000000000000040200000000000000000824010080000 g4 ?_ (fun h4 => ?_)
  rotate_left
  clear g4
  refine K.cutEq d 0x402 0x58000000000000000000000000000000040200000000000000000824010080000 g5 ?_ (fun h5 => ?_)
  rotate_left
  clear g5
  all_goals repeat' first
    | with_reducible exact K.refl _ _ _
    | with_reducible assumption
    | ((with_reducible apply K.put); rotate_left; (first | assumption | exact R.mem_FSEQ_EVENT | exact R.mem_RING_STATUS | exact R.mem_SCAN_POS | exact R.mem_UNDERRUN_STATUS); decide)
    | ((with_reducible apply K.raise); rotate_left; (first | assumption | exact R.mem_FSEQ_EVENT | exact R.mem_RING_STATUS | exact R.mem_SCAN_POS | exact R.mem_UNDERRUN_STATUS); decide; decide; decide)
    | ((with_reducible apply K.setScan); rotate_left; decide)
    | ((with_reducible apply Foot.ringSwitch); rotate_left; decide; decide)
    | ((with_reducible apply Foot.takeover); rotate_left; decide; decide)
    | ((with_reducible apply Foot.ringScanMove); rotate_left; decide; decide)
    | ((with_reducible apply Foot.chooseSeed); rotate_left; decide; decide)
    | with_reducible apply K.ite
    | ((with_reducible apply K.foldl); rotate_left; intro d x h; rotate_right)
    | ((with_reducible apply K.foldlFst); rotate_left; intro x y h; rotate_right)
    | ((with_reducible apply K.foldlSnd); rotate_left; intro x y h; rotate_right)
    | with_reducible apply K.fst_ite
    | with_reducible apply K.cond
    | with_reducible refine K.of_fst ?_ (by assumption)
    | with_reducible refine K.of_snd ?_ (by assumption)
    | (split)
    | dsimp only
    | (rw [Dev.mk_tag]; (with_reducible apply K.mk_log); rotate_left; decide)
    | (rw [Dev.mk_tag]; (with_reducible apply K.mk_scan); rotate_left; decide)
    | (rw [Dev.mk_tag]; (with_reducible apply K.mkT); rotate_left; (intro p hq; cases p <;> first | exact absurd hq (by decide) | rfl | exact ⟨rfl, rfl⟩ | exact fun _ => ⟨rfl, rfl⟩); exact fun w => w)

theorem Foot.sampleSafe {e d : Dev} {pm rm : Nat} (h : K e d pm rm) (hp : sub 0x400 pm = true)
    (hr : sub 0x0 rm = true) : K e (Dev.sampleSafe d) pm rm := by
  refine K.lift h hp hr ?_
  clear h hp hr
  unfold Dev.sampleSafe
  all_goals repeat' first
    | with_reducible exact K.refl _ _ _
    | with_reducible assumption
    | ((with_reducible apply K.setScan); rotate_left; decide)
    | with_reducible apply K.ite
    | ((with_reducible apply K.foldl); rotate_left; intro d x h; rotate_right)
    | ((with_reducible apply K.foldlFst); rotate_left; intro x y h; rotate_right)
    | ((with_reducible apply K.foldlSnd); rotate_left; intro x y h; rotate_right)
    | with_reducible apply K.fst_ite
    | with_reducible apply K.cond
    | with_reducible refine K.of_fst ?_ (by assumption)
    | with_reducible refine K.of_snd ?_ (by assumption)
    | (split)
    | dsimp only
    | (rw [Dev.mk_tag]; (with_reducible apply K.mk_scan); rotate_left; decide)
    | (rw [Dev.mk_tag]; (with_reducible apply K.mkT); rotate_left; (intro p hq; cases p <;> first | exact absurd hq (by decide) | rfl | exact ⟨rfl, rfl⟩ | exact fun _ => ⟨rfl, rfl⟩); exact fun w => w)

theorem Foot.beginFrame {e d : Dev} {pm rm : Nat} (h : K e d pm rm) (hp : sub 0x1400 pm = true)
    (hr : sub 0x4002000000 rm = true) : K e (Dev.beginFrame d) pm rm := by
  refine K.lift h hp hr ?_
  clear h hp hr
  unfold Dev.beginFrame
  extract_lets x1 x2 x3
  clear_value (g1 : x1 = _) (g2 : x2 = _) (g3 : x3 = _)
  refine K.cutEq d 0x1400 0x4002000000 g1 ?_ (fun h1 => ?_)
  rotate_left
  clear g1
  subst g2
  refine K.cutEq d 0x1400 0x4002000000 g3 ?_ (fun h3 => ?_)
  rotate_left
  clear g3
  all_goals repeat' first
    | with_reducible exact K.refl _ _ _
    | with_reducible assumption
    | ((with_reducible apply K.put); rotate_left; (first | assumption | exact R.mem_FSEQ_STATUS | exact R.mem_SCAN_POS); decide)
    | ((with_reducible apply K.setScan); rotate_left; decide)
    | ((with_reducible apply Foot.sampleSafe); rotate_left; decide; decide)
    | with_reducible apply K.ite
    | ((with_reducible apply K.foldl); rotate_left; intro d x h; rotate_right)
    | ((with_reducible apply K.foldlFst); rotate_left; intro x y h; rotate_right)
    | ((with_reducible apply K.foldlSnd); rotate_left; intro x y h; rotate_right)
    | with_reducible apply K.fst_ite
    | with_reducible apply K.cond
    | with_reducible refine K.of_fst ?_ (by assumption)
    | with_reducible refine K.of_snd ?_ (by assumption)
    | (split)
    | dsimp only
    | (rw [Dev.mk_tag]; (with_reducible apply K.mk_scan); rotate_left; decide)
    | (rw [Dev.mk_tag]; (with_reducible apply K.mk_gate); rotate_left; decide)
    | (rw [Dev.mk_tag]; (with_reducible apply K.mkT); rotate_left; (intro p hq; cases p <;> first | exact absurd hq (by decide) | rfl | exact ⟨rfl, rfl⟩ | exact fun _ => ⟨rfl, rfl⟩); exact fun w => w)

theorem Foot.frameStart {e d : Dev} {pm rm : Nat} (h : K e d pm rm) (hp : sub 0x2140a pm = true)
    (hr : sub 0x88007900000000000000080000000000000000000000000000000000000084002080000 rm = true) : K e (Dev.frameStart d) pm rm := by
  refine K.lift h hp hr ?_
  clear h hp hr
  unfold Dev.frameStart
  extract_lets x1 x2 x3
  clear_value (g1 : x1 = _) (g2 : x2 = _) (g3 : x3 = _)
  refine K.cutEq d 0x2140a 0x88007900000000000000080000000000000000000000000000000000000084002080000 g1 ?_ (fun h1 => ?_)
  rotate_left
  clear g1
  refine K.cutEq d 0x2140a 0x88007900000000000000080000000000000000000000000000000000000084002080000 g2 ?_ (fun h2 => ?_)
  rotate_left
  clear g2
  subst g3
  all_goals repeat' first
    | with_reducible exact K.refl _ _ _
    | with_reducible assumption
    | ((with_reducible apply K.setScan); rotate_left; decide)
    | ((with_reducible apply Foot.beginFrame); rotate_left; decide; decide)
    | ((with_reducible apply Foot.clearFallow); rotate_left; decide; decide)
    | with_reducible apply K.ite
    | ((with_reducible apply K.foldl); rotate_left; intro d x h; rotate_right)
    | ((with_reducible apply K.foldlFst); rotate_left; intro x y h; rotate_right)
    | ((with_reducible apply K.foldlSnd); rotate_left; intro x y h; rotate_right)
    | with_reducible apply K.fst_ite
    | with_reducible apply K.cond
    | with_reducible refine K.of_fst ?_ (by assumption)
    | with_reducible refine K.of_snd ?_ (by assumption)
    | (split)
    | dsimp only
    | (rw [Dev.mk_tag]; (with_reducible apply K.mk_log); rotate_left; decide)
    | (rw [Dev.mk_tag]; (with_reducible apply K.mk_pwr); rotate_left; decide)
    | (rw [Dev.mk_tag]; (with_reducible apply K.mk_scan); rotate_left; decide)
    | (rw [Dev.mk_tag]; (with_reducible apply K.mk_gate); rotate_left; decide)
    | (rw [Dev.mk_tag]; (with_reducible apply K.mk_rx); rotate_left; decide; (first | exact .inl rfl | exact .inl ⟨rfl, rfl⟩ | exact .inr ⟨by decide, by (intro w; first | exact w | exact Memory.wf_write _ _ w | exact Memory.wf_clear _ _ w | exact Memory.wf_filter _ w | exact Memory.wf_set _ _ w)⟩))
    | (rw [Dev.mk_tag]; (with_reducible apply K.mkT); rotate_left; (intro p hq; cases p <;> first | exact absurd hq (by decide) | rfl | exact ⟨rfl, rfl⟩ | exact fun _ => ⟨rfl, rfl⟩); exact fun w => w)

theorem Foot.retire {e d : Dev} {pm rm : Nat} (h : K e d pm rm) (hp : sub 0x202 pm = true)
    (hr : sub 0x800008000080000 rm = true) : K e (Dev.retire d) pm rm := by
  refine K.lift h hp hr ?_
  clear h hp hr
  unfold Dev.retire
  extract_lets x1
  clear_value (g1 : x1 = _)
  clear g1
  all_goals repeat' first
    | with_reducible exact K.refl _ _ _
    | with_reducible assumption
    | ((with_reducible apply K.put); rotate_left; (first | assumption | exact R.mem_RETIRED_BASE | exact R.mem_SCAN_EVENT); decide)
    | ((with_reducible apply K.raise); rotate_left; (first | assumption | exact R.mem_RETIRED_BASE | exact R.mem_SCAN_EVENT); decide; decide; decide)
    | with_reducible apply K.ite
    | ((with_reducible apply K.each); rotate_left; intro d x h; rotate_right)
    | ((with_reducible apply K.foldl); rotate_left; intro d x h; rotate_right)
    | ((with_reducible apply K.foldlFst); rotate_left; intro x y h; rotate_right)
    | ((with_reducible apply K.foldlSnd); rotate_left; intro x y h; rotate_right)
    | with_reducible apply K.fst_ite
    | with_reducible apply K.cond
    | with_reducible refine K.of_fst ?_ (by assumption)
    | with_reducible refine K.of_snd ?_ (by assumption)
    | (split)
    | dsimp only
    | (rw [Dev.mk_tag]; (with_reducible apply K.mk_log); rotate_left; decide)
    | (rw [Dev.mk_tag]; (with_reducible apply K.mk_retiring); rotate_left; decide)
    | (rw [Dev.mk_tag]; (with_reducible apply K.mkT); rotate_left; (intro p hq; cases p <;> first | exact absurd hq (by decide) | rfl | exact ⟨rfl, rfl⟩ | exact fun _ => ⟨rfl, rfl⟩); exact fun w => w)

theorem Foot.histSwap {e d : Dev} {pm rm : Nat} (h : K e d pm rm) (hp : sub 0x400 pm = true)
    (hr : sub 0x200000000000000000000000000000 rm = true) : K e (Dev.histSwap d) pm rm := by
  refine K.lift h hp hr ?_
  clear h hp hr
  unfold Dev.histSwap
  extract_lets x1 x2
  clear_value (g1 : x1 = _) (g2 : x2 = _)
  clear g1
  refine K.cutEq d 0x400 0x200000000000000000000000000000 g2 ?_ (fun h2 => ?_)
  rotate_left
  clear g2
  all_goals repeat' first
    | with_reducible exact K.refl _ _ _
    | with_reducible assumption
    | ((with_reducible apply K.put); rotate_left; (first | assumption | exact R.mem_HIST_STATUS); decide)
    | ((with_reducible apply K.setScan); rotate_left; decide)
    | with_reducible apply K.ite
    | ((with_reducible apply K.foldl); rotate_left; intro d x h; rotate_right)
    | ((with_reducible apply K.foldlFst); rotate_left; intro x y h; rotate_right)
    | ((with_reducible apply K.foldlSnd); rotate_left; intro x y h; rotate_right)
    | with_reducible apply K.fst_ite
    | with_reducible apply K.cond
    | with_reducible refine K.of_fst ?_ (by assumption)
    | with_reducible refine K.of_snd ?_ (by assumption)
    | (split)
    | dsimp only
    | (rw [Dev.mk_tag]; (with_reducible apply K.mk_scan); rotate_left; decide)
    | (rw [Dev.mk_tag]; (with_reducible apply K.mkT); rotate_left; (intro p hq; cases p <;> first | exact absurd hq (by decide) | rfl | exact ⟨rfl, rfl⟩ | exact fun _ => ⟨rfl, rfl⟩); exact fun w => w)

theorem Foot.statEnd {e d : Dev} {pm rm : Nat} (h : K e d pm rm) (hp : sub 0x400 pm = true)
    (hr : sub 0x1000000000000000000000000 rm = true) : K e (Dev.statEnd d) pm rm := by
  refine K.lift h hp hr ?_
  clear h hp hr
  unfold Dev.statEnd
  all_goals repeat' first
    | with_reducible exact K.refl _ _ _
    | with_reducible assumption
    | ((with_reducible apply K.put); rotate_left; (first | assumption | exact R.mem_STAT_STATUS); decide)
    | ((with_reducible apply K.setScan); rotate_left; decide)
    | with_reducible apply K.ite
    | ((with_reducible apply K.foldl); rotate_left; intro d x h; rotate_right)
    | ((with_reducible apply K.foldlFst); rotate_left; intro x y h; rotate_right)
    | ((with_reducible apply K.foldlSnd); rotate_left; intro x y h; rotate_right)
    | with_reducible apply K.fst_ite
    | with_reducible apply K.cond
    | with_reducible refine K.of_fst ?_ (by assumption)
    | with_reducible refine K.of_snd ?_ (by assumption)
    | (split)
    | dsimp only
    | (rw [Dev.mk_tag]; (with_reducible apply K.mk_scan); rotate_left; decide)
    | (rw [Dev.mk_tag]; (with_reducible apply K.mkT); rotate_left; (intro p hq; cases p <;> first | exact absurd hq (by decide) | rfl | exact ⟨rfl, rfl⟩ | exact fun _ => ⟨rfl, rfl⟩); exact fun w => w)

theorem Foot.losePlacard {e d : Dev} {pm rm : Nat} (h : K e d pm rm) (hp : sub 0x400 pm = true)
    (hr : sub 0x200000000000000000000000000000000000000000 rm = true) : K e (Dev.losePlacard d) pm rm := by
  refine K.lift h hp hr ?_
  clear h hp hr
  unfold Dev.losePlacard
  all_goals repeat' first
    | with_reducible exact K.refl _ _ _
    | with_reducible assumption
    | ((with_reducible apply K.put); rotate_left; (first | assumption | exact R.mem_FP_STATUS); decide)
    | ((with_reducible apply Foot.cause); rotate_left; decide; decide)
    | with_reducible apply K.ite
    | ((with_reducible apply K.foldl); rotate_left; intro d x h; rotate_right)
    | ((with_reducible apply K.foldlFst); rotate_left; intro x y h; rotate_right)
    | ((with_reducible apply K.foldlSnd); rotate_left; intro x y h; rotate_right)
    | with_reducible apply K.fst_ite
    | with_reducible apply K.cond
    | with_reducible refine K.of_fst ?_ (by assumption)
    | with_reducible refine K.of_snd ?_ (by assumption)
    | (split)
    | dsimp only
    | (rw [Dev.mk_tag]; (with_reducible apply K.mk_scan); rotate_left; decide)
    | (rw [Dev.mk_tag]; (with_reducible apply K.mkT); rotate_left; (intro p hq; cases p <;> first | exact absurd hq (by decide) | rfl | exact ⟨rfl, rfl⟩ | exact fun _ => ⟨rfl, rfl⟩); exact fun w => w)

theorem Foot.countFailures {e d : Dev} {pm rm : Nat} (h : K e d pm rm) (hp : sub 0x40a pm = true)
    (hr : sub 0x88007900000000000000080000000200000000000000000000000000000080000080000 rm = true) : K e (Dev.countFailures d) pm rm := by
  refine K.lift h hp hr ?_
  clear h hp hr
  unfold Dev.countFailures
  extract_lets x1 x2 x3 x4 x5 x6 x7 x8 x9
  clear_value (g1 : x1 = _) (g2 : x2 = _) (g3 : x3 = _) (g4 : x4 = _) (g5 : x5 = _) (g6 : x6 = _) (g7 : x7 = _) (g8 : x8 = _) (g9 : x9 = _)
  subst g1
  clear g2
  clear g3
  clear g4
  clear g5
  refine K.cutEq d 0x40a 0x88007900000000000000080000000200000000000000000000000000000080000080000 g6 ?_ (fun h6 => ?_)
  rotate_left
  clear g6
  refine K.cutEq d 0x40a 0x88007900000000000000080000000200000000000000000000000000000080000080000 g7 ?_ (fun h7 => ?_)
  rotate_left
  clear g7
  refine K.cutEq d 0x40a 0x88007900000000000000080000000200000000000000000000000000000080000080000 g8 ?_ (fun h8 => ?_)
  rotate_left
  clear g8
  refine K.cutEq d 0x40a 0x88007900000000000000080000000200000000000000000000000000000080000080000 g9 ?_ (fun h9 => ?_)
  rotate_left
  clear g9
  all_goals repeat' first
    | with_reducible exact K.refl _ _ _
    | with_reducible assumption
    | ((with_reducible apply K.setScan); rotate_left; decide)
    | ((with_reducible apply Foot.cause); rotate_left; decide; decide)
    | ((with_reducible apply Foot.clearFallow); rotate_left; decide; decide)
    | ((with_reducible apply Foot.losePlacard); rotate_left; decide; decide)
    | with_reducible apply K.ite
    | ((with_reducible apply K.foldl); rotate_left; intro d x h; rotate_right)
    | ((with_reducible apply K.foldlFst); rotate_left; intro x y h; rotate_right)
    | ((with_reducible apply K.foldlSnd); rotate_left; intro x y h; rotate_right)
    | with_reducible apply K.fst_ite
    | with_reducible apply K.cond
    | with_reducible refine K.of_fst ?_ (by assumption)
    | with_reducible refine K.of_snd ?_ (by assumption)
    | (split)
    | dsimp only
    | (rw [Dev.mk_tag]; (with_reducible apply K.mk_log); rotate_left; decide)
    | (rw [Dev.mk_tag]; (with_reducible apply K.mk_pwr); rotate_left; decide)
    | (rw [Dev.mk_tag]; (with_reducible apply K.mk_scan); rotate_left; decide)
    | (rw [Dev.mk_tag]; (with_reducible apply K.mkT); rotate_left; (intro p hq; cases p <;> first | exact absurd hq (by decide) | rfl | exact ⟨rfl, rfl⟩ | exact fun _ => ⟨rfl, rfl⟩); exact fun w => w)

theorem Foot.frameDone {e d : Dev} {pm rm : Nat} (h : K e d pm rm) (hp : sub 0x2360a pm = true)
    (hr : sub 0x88007900000000000000080000000200000000000201001000000000800088000080000 rm = true) : K e (Dev.frameDone d) pm rm := by
  refine K.lift h hp hr ?_
  clear h hp hr
  unfold Dev.frameDone
  extract_lets x1 x2 x3 x4 x5
  clear_value (g1 : x1 = _) (g2 : x2 = _) (g3 : x3 = _) (g4 : x4 = _) (g5 : x5 = _)
  refine K.cutEq d 0x2360a 0x88007900000000000000080000000200000000000201001000000000800088000080000 g1 ?_ (fun h1 => ?_)
  rotate_left
  clear g1
  refine K.cutEq d 0x2360a 0x88007900000000000000080000000200000000000201001000000000800088000080000 g2 ?_ (fun h2 => ?_)
  rotate_left
  clear g2
  refine K.cutEq d 0x2360a 0x88007900000000000000080000000200000000000201001000000000800088000080000 g3 ?_ (fun h3 => ?_)
  rotate_left
  clear g3
  subst g4
  refine K.cutEq d 0x2360a 0x88007900000000000000080000000200000000000201001000000000800088000080000 g5 ?_ (fun h5 => ?_)
  rotate_left
  clear g5
  all_goals repeat' first
    | with_reducible exact K.refl _ _ _
    | with_reducible assumption
    | ((with_reducible apply K.put); rotate_left; (first | assumption | exact R.mem_CLIP_COUNT | exact R.mem_SCAN_EVENT); decide)
    | ((with_reducible apply K.raise); rotate_left; (first | assumption | exact R.mem_CLIP_COUNT | exact R.mem_SCAN_EVENT); decide; decide; decide)
    | ((with_reducible apply K.setScan); rotate_left; decide)
    | ((with_reducible apply Foot.statEnd); rotate_left; decide; decide)
    | ((with_reducible apply Foot.histSwap); rotate_left; decide; decide)
    | ((with_reducible apply Foot.retire); rotate_left; decide; decide)
    | ((with_reducible apply Foot.countFailures); rotate_left; decide; decide)
    | ((with_reducible apply Foot.countReplay); rotate_left; decide; decide)
    | ((with_reducible apply Foot.pseqFirstDone); rotate_left; decide; decide)
    | with_reducible apply K.ite
    | ((with_reducible apply K.foldl); rotate_left; intro d x h; rotate_right)
    | ((with_reducible apply K.foldlFst); rotate_left; intro x y h; rotate_right)
    | ((with_reducible apply K.foldlSnd); rotate_left; intro x y h; rotate_right)
    | with_reducible apply K.fst_ite
    | with_reducible apply K.cond
    | with_reducible refine K.of_fst ?_ (by assumption)
    | with_reducible refine K.of_snd ?_ (by assumption)
    | (split)
    | dsimp only
    | (rw [Dev.mk_tag]; (with_reducible apply K.mk_log); rotate_left; decide)
    | (rw [Dev.mk_tag]; (with_reducible apply K.mk_pwr); rotate_left; decide)
    | (rw [Dev.mk_tag]; (with_reducible apply K.mk_retiring); rotate_left; decide)
    | (rw [Dev.mk_tag]; (with_reducible apply K.mk_scan); rotate_left; decide)
    | (rw [Dev.mk_tag]; (with_reducible apply K.mk_gate); rotate_left; decide)
    | (rw [Dev.mk_tag]; (with_reducible apply K.mk_pseq); rotate_left; decide)
    | (rw [Dev.mk_tag]; (with_reducible apply K.mk_rx); rotate_left; decide; (first | exact .inl rfl | exact .inl ⟨rfl, rfl⟩ | exact .inr ⟨by decide, by (intro w; first | exact w | exact Memory.wf_write _ _ w | exact Memory.wf_clear _ _ w | exact Memory.wf_filter _ w | exact Memory.wf_set _ _ w)⟩))
    | (rw [Dev.mk_tag]; (with_reducible apply K.mkT); rotate_left; (intro p hq; cases p <;> first | exact absurd hq (by decide) | rfl | exact ⟨rfl, rfl⟩ | exact fun _ => ⟨rfl, rfl⟩); exact fun w => w)

theorem Foot.compTimingLoss {e d : Dev} {pm rm : Nat} (h : K e d pm rm) (hp : sub 0x840a pm = true)
    (hr : sub 0x880079000000000000000800000000000000000000000000000000000000000d2080000 rm = true) : K e (Dev.compTimingLoss d) pm rm := by
  refine K.lift h hp hr ?_
  clear h hp hr
  unfold Dev.compTimingLoss
  extract_lets x1 x2 x3 x4
  clear_value (g1 : x1 = _) (g2 : x2 = _) (g3 : x3 = _) (g4 : x4 = _)
  clear g1
  refine K.cutEq d 0x840a 0x880079000000000000000800000000000000000000000000000000000000000d2080000 g2 ?_ (fun h2 => ?_)
  rotate_left
  clear g2
  refine K.cutEq d 0x840a 0x880079000000000000000800000000000000000000000000000000000000000d2080000 g3 ?_ (fun h3 => ?_)
  rotate_left
  clear g3
  refine K.cutEq d 0x840a 0x880079000000000000000800000000000000000000000000000000000000000d2080000 g4 ?_ (fun h4 => ?_)
  rotate_left
  clear g4
  all_goals repeat' first
    | with_reducible exact K.refl _ _ _
    | with_reducible assumption
    | ((with_reducible apply K.setScan); rotate_left; decide)
    | ((with_reducible apply Foot.ladderDrop); rotate_left; decide; decide)
    | ((with_reducible apply Foot.blHold); rotate_left; decide; decide)
    | ((with_reducible apply Foot.showAvail); rotate_left; decide; decide)
    | ((with_reducible apply Foot.latchWake); rotate_left; decide; decide)
    | with_reducible apply K.ite
    | ((with_reducible apply K.foldl); rotate_left; intro d x h; rotate_right)
    | ((with_reducible apply K.foldlFst); rotate_left; intro x y h; rotate_right)
    | ((with_reducible apply K.foldlSnd); rotate_left; intro x y h; rotate_right)
    | with_reducible apply K.fst_ite
    | with_reducible apply K.cond
    | with_reducible refine K.of_fst ?_ (by assumption)
    | with_reducible refine K.of_snd ?_ (by assumption)
    | (split)
    | dsimp only
    | (rw [Dev.mk_tag]; (with_reducible apply K.mk_log); rotate_left; decide)
    | (rw [Dev.mk_tag]; (with_reducible apply K.mk_pwr); rotate_left; decide)
    | (rw [Dev.mk_tag]; (with_reducible apply K.mk_scan); rotate_left; decide)
    | (rw [Dev.mk_tag]; (with_reducible apply K.mk_bl); rotate_left; decide)
    | (rw [Dev.mk_tag]; (with_reducible apply K.mkT); rotate_left; (intro p hq; cases p <;> first | exact absurd hq (by decide) | rfl | exact ⟨rfl, rfl⟩ | exact fun _ => ⟨rfl, rfl⟩); exact fun w => w)

end Sys2Proof.Machine
end

