-- ==== Sys2Proof/Laws/FootStartup.lean ====
section
/-! SUPPORT.  Footprints of the functions of `Machine/Startup.lean` (see `Keep.lean`): what each leaves alone. -/

set_option Elab.async false
set_option linter.all false

namespace Sys2Proof.Machine

theorem Foot.bootEnd {e d : Dev} {pm rm : Nat} (h : K e d pm rm) (hp : sub 0xb120033 pm = true)
    (hr : sub 0x2000082000000008000004000000000000000000281a800000000040000400000000000000000000080000 rm = true) : K e (Dev.bootEnd d) pm rm := by
  refine K.lift h hp hr ?_
  clear h hp hr
  unfold Dev.bootEnd
  extract_lets x1 x2 x3 x4 x5
  clear_value (g1 : x1 = _) (g2 : x2 = _) (g3 : x3 = _) (g4 : x4 = _) (g5 : x5 = _)
  subst g1
  refine K.cutEq d 0xb120033 0x2000082000000008000004000000000000000000281a800000000040000400000000000000000000080000 g2 ?_ (fun h2 => ?_)
  rotate_left
  clear g2
  refine K.cutEq d 0xb120033 0x2000082000000008000004000000000000000000281a800000000040000400000000000000000000080000 g3 ?_ (fun h3 => ?_)
  rotate_left
  clear g3
  refine K.cutEq d 0xb120033 0x2000082000000008000004000000000000000000281a800000000040000400000000000000000000080000 g4 ?_ (fun h4 => ?_)
  rotate_left
  clear g4
  refine K.cutEq d 0xb120033 0x2000082000000008000004000000000000000000281a800000000040000400000000000000000000080000 g5 ?_ (fun h5 => ?_)
  rotate_left
  clear g5
  all_goals repeat' first
    | with_reducible exact K.refl _ _ _
    | with_reducible assumption
    | ((with_reducible apply K.raiseIf); rotate_left; (first | assumption | exact R.mem_BOOT_EVENT | exact R.mem_BOOT_STATUS | exact R.mem_CORR_EVENT | exact R.mem_DRIVE_EVENT); decide; decide; decide)
    | ((with_reducible apply Foot.driveHpd); rotate_left; decide; decide)
    | ((with_reducible apply Foot.hostEvent); rotate_left; decide; decide)
    | ((with_reducible apply Foot.setStep); rotate_left; decide; decide)
    | ((with_reducible apply Foot.startFw); rotate_left; decide; decide)
    | ((with_reducible apply Foot.xspiRun); rotate_left; decide; decide)
    | with_reducible apply K.ite
    | ((with_reducible apply K.foldl); rotate_left; intro d x h; rotate_right)
    | ((with_reducible apply K.foldlFst); rotate_left; intro x y h; rotate_right)
    | ((with_reducible apply K.foldlSnd); rotate_left; intro x y h; rotate_right)
    | with_reducible apply K.fst_ite
    | with_reducible apply K.cond
    | with_reducible refine K.of_fst ?_ (by assumption)
    | with_reducible refine K.of_snd ?_ (by assumption)
    | (split)
    | dsimp only
    | (rw [Dev.mk_tag]; (with_reducible apply K.mk_free); rotate_left; decide)
    | (rw [Dev.mk_tag]; (with_reducible apply K.mk_log); rotate_left; decide)
    | (rw [Dev.mk_tag]; (with_reducible apply K.mk_cp); rotate_left; decide; (first | exact .inl rfl | exact .inl ⟨rfl, rfl⟩ | exact .inr ⟨by decide, by (intro w; first | exact w | exact Memory.wf_write _ _ w | exact Memory.wf_clear _ _ w | exact Memory.wf_filter _ w | exact Memory.wf_set _ _ w)⟩))
    | (rw [Dev.mk_tag]; (with_reducible apply K.mk_ls); rotate_left; decide; (first | exact .inl rfl | exact .inl ⟨rfl, rfl⟩ | exact .inr ⟨by decide, by (intro w; first | exact w | exact Memory.wf_write _ _ w | exact Memory.wf_clear _ _ w | exact Memory.wf_filter _ w | exact Memory.wf_set _ _ w)⟩))
    | (rw [Dev.mk_tag]; (with_reducible apply K.mk_rx); rotate_left; decide; (first | exact .inl rfl | exact .inl ⟨rfl, rfl⟩ | exact .inr ⟨by decide, by (intro w; first | exact w | exact Memory.wf_write _ _ w | exact Memory.wf_clear _ _ w | exact Memory.wf_filter _ w | exact Memory.wf_set _ _ w)⟩))
    | (rw [Dev.mk_tag]; (with_reducible apply K.mk_mgmt); rotate_left; decide)
    | (rw [Dev.mk_tag]; (with_reducible apply K.mk_flash); rotate_left; decide; (intro w; first | exact w | exact Memory.wf_write _ _ w | exact Memory.wf_clear _ _ w | exact Memory.wf_filter _ w | exact Memory.wf_set _ _ w))
    | (rw [Dev.mk_tag]; (with_reducible apply K.mk_xspi); rotate_left; decide)
    | (rw [Dev.mk_tag]; (with_reducible apply K.mkT); rotate_left; (intro p hq; cases p <;> first | exact absurd hq (by decide) | rfl | exact ⟨rfl, rfl⟩ | exact fun _ => ⟨rfl, rfl⟩); exact fun w => w)

theorem Foot.slotInUse {e d : Dev} {pm rm : Nat} {m : ImgAt} (h : K e d pm rm) (hp : sub 0x0 pm = true)
    (hr : sub 0xe0000000000000000000000000000000000000000000000000000000000000000000000000000000 rm = true) : K e (Dev.slotInUse d m) pm rm := by
  refine K.lift h hp hr ?_
  clear h hp hr
  unfold Dev.slotInUse
  extract_lets x1
  clear_value (g1 : x1 = _)
  refine K.cutEq d 0x0 0xe0000000000000000000000000000000000000000000000000000000000000000000000000000000 g1 ?_ (fun h1 => ?_)
  rotate_left
  clear g1
  all_goals repeat' first
    | with_reducible exact K.refl _ _ _
    | with_reducible assumption
    | ((with_reducible apply K.put); rotate_left; (first | assumption | exact R.mem_BOOT_SEQ | exact R.mem_BOOT_STATUS | exact R.mem_BOOT_VERSION); decide)
    | ((with_reducible apply K.flag); rotate_left; (first | assumption | exact R.mem_BOOT_SEQ | exact R.mem_BOOT_STATUS | exact R.mem_BOOT_VERSION); decide)
    | with_reducible apply K.ite
    | ((with_reducible apply K.foldl); rotate_left; intro d x h; rotate_right)
    | ((with_reducible apply K.foldlFst); rotate_left; intro x y h; rotate_right)
    | ((with_reducible apply K.foldlSnd); rotate_left; intro x y h; rotate_right)
    | with_reducible apply K.fst_ite
    | with_reducible apply K.cond
    | with_reducible refine K.of_fst ?_ (by assumption)
    | with_reducible refine K.of_snd ?_ (by assumption)
    | (split)
    | dsimp only
    | (rw [Dev.mk_tag]; (with_reducible apply K.mkT); rotate_left; (intro p hq; cases p <;> first | exact absurd hq (by decide) | rfl | exact ⟨rfl, rfl⟩ | exact fun _ => ⟨rfl, rfl⟩); exact fun w => w)

theorem Foot.bootLock {e d : Dev} {pm rm : Nat} (h : K e d pm rm) (hp : sub 0x40000 pm = true)
    (hr : sub 0x400000000000000040000000000000800000000000000000000000000000000080000000002000000 rm = true) : K e (Dev.bootLock d) pm rm := by
  refine K.lift h hp hr ?_
  clear h hp hr
  unfold Dev.bootLock
  extract_lets x1
  clear_value (g1 : x1 = _)
  refine K.cutEq d 0x40000 0x400000000000000040000000000000800000000000000000000000000000000080000000002000000 g1 ?_ (fun h1 => ?_)
  rotate_left
  clear g1
  all_goals repeat' first
    | with_reducible exact K.refl _ _ _
    | with_reducible assumption
    | ((with_reducible apply K.put); rotate_left; (first | assumption | exact R.mem_BOOT_CTRL | exact R.mem_FSEQ_STATUS | exact R.mem_RX_MODE | exact R.mem_SCHED_CTRL); decide)
    | ((with_reducible apply K.flag); rotate_left; (first | assumption | exact R.mem_BOOT_CTRL | exact R.mem_FSEQ_STATUS | exact R.mem_RX_MODE | exact R.mem_SCHED_CTRL); decide)
    | ((with_reducible apply Foot.showActive); rotate_left; decide; decide)
    | ((with_reducible apply Foot.wallStart); rotate_left; decide; decide)
    | with_reducible apply K.ite
    | ((with_reducible apply K.foldl); rotate_left; intro d x h; rotate_right)
    | ((with_reducible apply K.foldlFst); rotate_left; intro x y h; rotate_right)
    | ((with_reducible apply K.foldlSnd); rotate_left; intro x y h; rotate_right)
    | with_reducible apply K.fst_ite
    | with_reducible apply K.cond
    | with_reducible refine K.of_fst ?_ (by assumption)
    | with_reducible refine K.of_snd ?_ (by assumption)
    | (split)
    | dsimp only
    | (rw [Dev.mk_tag]; (with_reducible apply K.mk_wall); rotate_left; decide)
    | (rw [Dev.mk_tag]; (with_reducible apply K.mkT); rotate_left; (intro p hq; cases p <;> first | exact absurd hq (by decide) | rfl | exact ⟨rfl, rfl⟩ | exact fun _ => ⟨rfl, rfl⟩); exact fun w => w)

theorem Foot.bootRecords {e d : Dev} {pm rm : Nat} (h : K e d pm rm) (hp : sub 0x801002a pm = true)
    (hr : sub 0x20000500000000000000000000000000000010800000000000000000000000000000000000080000 rm = true) : K e (Dev.bootRecords d) pm rm := by
  refine K.lift h hp hr ?_
  clear h hp hr
  unfold Dev.bootRecords
  all_goals repeat' first
    | with_reducible exact K.refl _ _ _
    | with_reducible assumption
    | ((with_reducible apply Foot.loadAge); rotate_left; decide; decide)
    | ((with_reducible apply Foot.loadCal); rotate_left; decide; decide)
    | ((with_reducible apply Foot.vregRequest); rotate_left; decide; decide)
    | with_reducible apply K.ite
    | ((with_reducible apply K.foldl); rotate_left; intro d x h; rotate_right)
    | ((with_reducible apply K.foldlFst); rotate_left; intro x y h; rotate_right)
    | ((with_reducible apply K.foldlSnd); rotate_left; intro x y h; rotate_right)
    | with_reducible apply K.fst_ite
    | with_reducible apply K.cond
    | with_reducible refine K.of_fst ?_ (by assumption)
    | with_reducible refine K.of_snd ?_ (by assumption)
    | (split)
    | dsimp only
    | (rw [Dev.mk_tag]; (with_reducible apply K.mk_log); rotate_left; decide)
    | (rw [Dev.mk_tag]; (with_reducible apply K.mk_pwr); rotate_left; decide)
    | (rw [Dev.mk_tag]; (with_reducible apply K.mk_ls); rotate_left; decide; (first | exact .inl rfl | exact .inl ⟨rfl, rfl⟩ | exact .inr ⟨by decide, by (intro w; first | exact w | exact Memory.wf_write _ _ w | exact Memory.wf_clear _ _ w | exact Memory.wf_filter _ w | exact Memory.wf_set _ _ w)⟩))
    | (rw [Dev.mk_tag]; (with_reducible apply K.mk_cal); rotate_left; decide)
    | (rw [Dev.mk_tag]; (with_reducible apply K.mkT); rotate_left; (intro p hq; cases p <;> first | exact absurd hq (by decide) | rfl | exact ⟨rfl, rfl⟩ | exact fun _ => ⟨rfl, rfl⟩); exact fun w => w)

theorem Foot.bootFrame {e d : Dev} {pm rm : Nat} {first : Bool} (h : K e d pm rm) (hp : sub 0xb120033 pm = true)
    (hr : sub 0x20000a2000000008000004000000000000000000281a800000000040000400000000000000000000080000 rm = true) : K e (Dev.bootFrame d first) pm rm := by
  refine K.lift h hp hr ?_
  clear h hp hr
  unfold Dev.bootFrame
  all_goals repeat' first
    | with_reducible exact K.refl _ _ _
    | with_reducible assumption
    | ((with_reducible apply K.put); rotate_left; (first | assumption | exact R.mem_BOOT_LIGHT | exact R.mem_CORR_EVENT | exact R.mem_DRIVE_EVENT); decide)
    | ((with_reducible apply Foot.bootEnd); rotate_left; decide; decide)
    | ((with_reducible apply Foot.setStep); rotate_left; decide; decide)
    | with_reducible apply K.ite
    | ((with_reducible apply K.foldl); rotate_left; intro d x h; rotate_right)
    | ((with_reducible apply K.foldlFst); rotate_left; intro x y h; rotate_right)
    | ((with_reducible apply K.foldlSnd); rotate_left; intro x y h; rotate_right)
    | with_reducible apply K.fst_ite
    | with_reducible apply K.cond
    | with_reducible refine K.of_fst ?_ (by assumption)
    | with_reducible refine K.of_snd ?_ (by assumption)
    | (split)
    | dsimp only
    | (rw [Dev.mk_tag]; (with_reducible apply K.mk_free); rotate_left; decide)
    | (rw [Dev.mk_tag]; (with_reducible apply K.mk_log); rotate_left; decide)
    | (rw [Dev.mk_tag]; (with_reducible apply K.mk_cp); rotate_left; decide; (first | exact .inl rfl | exact .inl ⟨rfl, rfl⟩ | exact .inr ⟨by decide, by (intro w; first | exact w | exact Memory.wf_write _ _ w | exact Memory.wf_clear _ _ w | exact Memory.wf_filter _ w | exact Memory.wf_set _ _ w)⟩))
    | (rw [Dev.mk_tag]; (with_reducible apply K.mk_ls); rotate_left; decide; (first | exact .inl rfl | exact .inl ⟨rfl, rfl⟩ | exact .inr ⟨by decide, by (intro w; first | exact w | exact Memory.wf_write _ _ w | exact Memory.wf_clear _ _ w | exact Memory.wf_filter _ w | exact Memory.wf_set _ _ w)⟩))
    | (rw [Dev.mk_tag]; (with_reducible apply K.mk_rx); rotate_left; decide; (first | exact .inl rfl | exact .inl ⟨rfl, rfl⟩ | exact .inr ⟨by decide, by (intro w; first | exact w | exact Memory.wf_write _ _ w | exact Memory.wf_clear _ _ w | exact Memory.wf_filter _ w | exact Memory.wf_set _ _ w)⟩))
    | (rw [Dev.mk_tag]; (with_reducible apply K.mk_mgmt); rotate_left; decide)
    | (rw [Dev.mk_tag]; (with_reducible apply K.mk_flash); rotate_left; decide; (intro w; first | exact w | exact Memory.wf_write _ _ w | exact Memory.wf_clear _ _ w | exact Memory.wf_filter _ w | exact Memory.wf_set _ _ w))
    | (rw [Dev.mk_tag]; (with_reducible apply K.mk_xspi); rotate_left; decide)
    | (rw [Dev.mk_tag]; (with_reducible apply K.mkT); rotate_left; (intro p hq; cases p <;> first | exact absurd hq (by decide) | rfl | exact ⟨rfl, rfl⟩ | exact fun _ => ⟨rfl, rfl⟩); exact fun w => w)

end Sys2Proof.Machine
end

