-- ==== Sys2Proof/WellFormed.lean ====
section
/-! DEFINITION.  Well-formed commands: the operand values that the block's ports, buses and packets can carry.  Operand types
already bound most of them; what is left is checked here. -/

set_option Elab.async false

namespace Sys2Proof

/-- A line-store access writes as many bytes as its size says (R270). -/
def LsReq.wf (r : LsReq) : Bool := match r.data with | some bs => bs.length == r.size.bytes | none => true

/-- A port issues at most one access in a cycle (R270). -/
def portsApart : List LsReq → Bool
  | [] => true
  | r :: rest => rest.all (fun q => q.port != r.port) && portsApart rest

/-- A command is well formed: accesses and packets have the lengths of R270, R292 (a request lies within one 32-byte block),
R304, R246, R248, R319, R339 and R423, register offsets are those of whole words below the end of the register space (R415),
a fuse exists (R394, R431), and a period has passed between two latch points (R19). -/
def Instr.wf : Instr → Bool
  | .latchPoint ns => decide (0 < ns)
  | .zbStatReturn slots => decide (slots.length ≤ 31) && slots.all fun b => b.length == 8
  | .zbEnumReturn ids => decide (ids.length ≤ 31)
  | .tsSample raw => raw.length == 9
  | .lsAccess reqs upsets => reqs.all LsReq.wf && portsApart reqs && upsets.all fun u => decide (u.unit < 2 ^ 20)
  | .dramRequest _ addr len data => decide (1 ≤ len.val) && decide (addr.toNat % 32 + len ≤ 32) && (match data with | some bs => bs.length == len.val | none => true)
  | .dramComplete _ upsets => upsets.all fun u => decide (u.unit < 0xF000000)
  | .mr4Read reports => reports.length == 8
  | .scrubStep upsets => upsets.all fun u => decide (u.unit < 0xF000000)
  | .lost _ _ addrs => decide (2 * addrs.length ≤ 512)
  | .prepare _ _ _ _ _ _ _ data => decide (data.length ≤ 376)
  | .wallRegWr _ _ _ words => decide (1 ≤ words.length) && decide (words.length ≤ 64)
  | .wallRegRd _ _ _ count => decide (1 ≤ count.toNat) && decide (count.toNat ≤ 64)
  | .rdRsp _ _ _ words => decide (words.length ≤ 64)
  | .msg _ _ data => decide (1 ≤ data.length) && decide (data.length ≤ 512)
  | .noticePacket _ _ _ _ data _ => decide (1 ≤ data.length) && decide (data.length ≤ 512)
  | .vigilTick raw _ _ => raw.length == 9
  | .mgmtTransaction _ write read => !write.isEmpty || decide (0 < read)
  | .imgBegin _ stage => decide (stage.toNat * 64 < 0x1E0000000)
  | .tapDmi _ _ op => decide (op.toNat < 3)
  | .tapFuse cells _ => cells.all fun c => decide (c.toNat < 258)
  | .regWrite offset _ => decide (offset.toNat % 4 = 0) && decide (offset.toNat < 0x160000)
  | .prefetchStart _ | .frameStart | .frameDone | .lineStart _ _ | .commit | .statWriteDone | .reserveTimerFrame
  | .vrrTrigger | .vrrTimeout | .inputStop _ | .underrun _ _ _ | .laneLock _ _ _ | .trainBoundExpire _ _ _
  | .laneLockLost _ _ | .portFail _ | .msaReceived _ _ | .irqHpd _ | .irqHpdEnd _ | .hpdRediscover _
  | .hpdRediscoverEnd _ | .sourceAbsent _ | .auxTransaction _ _ | .mbSubmit _ | .mbAck _ | .inputFrameStart _ _
  | .inputFrameComplete _ _ | .inputFrameIncomplete _ | .standbyFrameTimeout _ | .ppsReceived _ _ | .dscError _ _
  | .prEntry _ | .fallowRequest | .alpmWake _ | .auxWake _ | .resumeLockTimeout _ _ | .codecQTail _ _
  | .streamDecompress _ | .streamCompress _ | .exactEncode _ _ | .exactDecode _ | .boundedEncode21 _
  | .boundedEncode31 _ | .boundedDecode _ | .descDone _ | .ctxReset _ | .blockEncode _ _ _ _ _ | .blockFetch _ _ _
  | .guardRelease | .guardExpire | .trainPhaseTimeout | .lockNFall | .lockNRise | .lockLoss | .relock
  | .laneSearchStep _ | .laneRetry _ _ | .testBurst _ | .colCtlpktGo | .pseqCmdOn | .pseqCmdOff | .pseqStep
  | .waitInMet | .waitInTimeout | .pfail | .pfailRelease | .blEnable | .blOff | .daleInstruction _ _ _
  | .daleLoad _ _ _ _ _ _ _ | .daleStore _ _ _ _ _ _ _ _ | .paddS16 _ _ _ _ _ | .psubS16 _ _ _ _ _
  | .paddU16 _ _ _ _ _ | .psubU16 _ _ _ _ _ | .clamp _ _ _ _ _ | .rcpe _ _ _ _ | .qmulr _ _ _ _ _ _
  | .luti _ _ _ _ _ _ _ | .hacc _ _ _ _ _ _ | .haccw _ _ _ _ _ _ _ | .bfx _ _ _ _ _ _ _ | .bfi _ _ _ _ _ _
  | .dmaq _ _ _ _ _ | .dmaw _ _ _ _ | .jend _ _ _ | .wfe _ _ _ _ | .dfence _ _ _ _ | .ffence _ _ _
  | .jobMergeDone _ _ | .dmaTagDone _ _ | .jobOverrun _ | .daleStart _ | .daleDoorbell _ | .imemLoadGo
  | .imemLoadDone | .pwmPeriodStart _ _ | .zbFsSend _ | .dutyCutoff | .zbUpdSend | .zbUpdReturn _ | .zbStatSend
  | .zbEnum | .zbRingDown | .zbReplug | .needSample _ _ _ | .boostOv _ | .boostOc _ | .boostUvTimeout _
  | .boostOcClear _ | .softStartDone _ | .blShutdown _ | .blRestart | .blPolicy _ | .diagPulse _ | .pinTest _ _ _
  | .sinkFaultClear _ _ | .calWindowEnd _ _ _ | .calFitReady _ | .sgCommit _ | .calFitTimeout _ | .eqStep _ _ _ _
  | .colTune _ _ | .calFwReport _ _ | .calEnWrite _ | .bankIdle _ | .bankSigDone _ | .bankStateReq _ _ _
  | .bankCheckDone _ | .bankClearDone _ | .regionTestStart _ | .regionTestDone _ | .gdmaQTail _ _ | .gdmaCopy _
  | .gdmaFill _ | .gdmaDescDone _ | .dramAgePromote _ _ | .quotaBucket | .drqQuotaWrite _ _ | .panicAssert _
  | .panicRelease _ | .dramRefresh _ | .refreshRepay _ | .rdWindowEnd | .srIdleEntry _ | .srExitDone _
  | .dramSegClear _ _ | .segClearDone _ _ | .dramTrainDone _ | .wckOscRead _ | .tsReceived _ _
  | .wallCommaTimeout _ _ | .beaconTx _ _ | .dreqTx _ | .beaconRx _ _ _ _ | .dreqRx _ _ _ _ _ _ | .drspRx _ _ _ _ _ _
  | .upstreamTimeout | .almanacLost | .lakRx _ _ | .cmdResend _ | .join _ _ _ _ _ | .assign _ _ _ _ _
  | .ack _ _ _ _ _ _ | .go _ _ _ _ | .abort _ _ _ _ | .result _ _ _ _ | .wallState _ _ _ _ | .noticeNak _ _ _ _
  | .noticeDone _ _ _ _ _ | .eqxCmdPrepare _ _ _ | .eqxAck _ _ | .ackDeadline | .eqxAbortDeadline | .noticeTx _
  | .wallRemove _ | .domainIdle _ | .domReqOn _ | .domReqRet _ | .domainPowerDownDone _ | .domainReady _ | .vregAck _
  | .vregTimeout _ | .vregRetry _ | .daleTurbo _ | .stateRun _ | .stateFallow _ | .stateVigil _ | .stateDormant _
  | .stateCapture _ | .stateHandover _ | .captureDone | .stateEntryDone | .wakeSource _ _ | .padHoldRelease _
  | .nvCmdRead _ _ | .nvCmdUpdate _ | .nvCmdSlotWrite _ | .nvCmdPwCheck _ _ | .nvCmdPwSet _ _ | .nvCmdMode _ _
  | .nvCmdClearPf | .nvCmdLock | .nvProgramDone | .nvSpanGap | .nvMacroOff | .nvRefreshTick _ _ | .nvLockoutMinute
  | .powerGood | .resetNLow | .bootStart _ | .flashReadFail | .bootHoldRetry | .bootRetry | .wallWaitExpire
  | .lockstepMismatch | .wdtExpire | .wdtKick _ | .wdtEnable | .cpInterrupt | .cpLoad _ _ _ _ | .cpStore _ _ _ _
  | .hostEventSet _ | .mbComplete _ | .entdaa _ | .setdasa _ _ | .setnewda _ _ | .rstdaa | .getpid _ | .getbcr _
  | .getdcr _ | .getstatus _ | .getmwl _ | .getmrl _ | .enec _ _ | .disec _ _ | .bootStatus _ | .deviceInfo _
  | .restartCp _ | .getEvents _ | .regRead _ | .state _ | .brightness _ | .rediscover _ | .pwCheck _ | .pwSet _
  | .lock _ | .nvRead _ | .nvWrite _ | .imgData _ | .imgEnd _ _ | .imgActivate _ | .cpSwapGo _ | .xspiRead
  | .xspiWrite | .xspiDone | .tapExtest | .tapIdcode | .tapSamplePreload | .tapExtestPulse | .tapExtestTrain
  | .tapClamp | .tapHighz | .tapDtmcs | .tapBypass | .debugHalt | .debugResume | .debugStep | .logPush | .logPop
  | .logClear | .cpInstruction | .supplyLoss | .signalDetect _ | .wallSignalDetect _ | .alpmSleepEntry _
  | .laneLockRegained _ _ | .compTimingLoss => true

end Sys2Proof
end

