-- ==== Sys2Proof/Tests/Slice0.lean ====
section
/-! SUPPORT.  Tests: a well-formed and an ill-formed command for each check of `Instr.wf`, the worked examples of the spec,
and for each obligation with hypotheses small states at which they hold. -/

set_option Elab.async false

namespace Sys2Proof.Machine

/-! ### Well-formed commands -/

theorem test_wf_latch_point : (Instr.latchPoint 0).wf = false ∧ (Instr.latchPoint 8333333).wf = true := by decide
theorem test_wf_stat_slots : (Instr.zbStatReturn (List.replicate 32 (List.replicate 8 0))).wf = false ∧
    (Instr.zbStatReturn [[1, 2, 3]]).wf = false ∧ (Instr.zbStatReturn [List.replicate 8 0]).wf = true := by decide
theorem test_wf_enum_slots : (Instr.zbEnumReturn (List.replicate 32 (0, 0, 0))).wf = false ∧ (Instr.zbEnumReturn [(1, 2, 3)]).wf = true := by
  decide
theorem test_wf_sensors : (Instr.tsSample [1, 2]).wf = false ∧ (Instr.tsSample (List.replicate 9 1)).wf = true ∧
    (Instr.vigilTick [1] none none).wf = false ∧ (Instr.mr4Read []).wf = false ∧
    (Instr.mr4Read (List.replicate 8 ⟨1, .normal⟩)).wf = true := by decide
theorem test_wf_ls_size : (Instr.lsAccess [⟨0, 0, .b4, some [1, 2]⟩] []).wf = false ∧
    (Instr.lsAccess [⟨0, 0, .b4, some [1, 2, 3, 4]⟩] []).wf = true := by decide
theorem test_wf_ls_ports : (Instr.lsAccess [⟨3, 0, .b1, none⟩, ⟨3, 16, .b1, none⟩] []).wf = false ∧
    (Instr.lsAccess [⟨3, 0, .b1, none⟩, ⟨4, 16, .b1, none⟩] []).wf = true := by decide
theorem test_wf_ls_upset : (Instr.lsAccess [] [⟨2 ^ 20, true⟩]).wf = false ∧ (Instr.lsAccess [] [⟨2 ^ 20 - 1, true⟩]).wf = true := by decide
theorem test_wf_dram_request : (Instr.dramRequest 5 0 0 none).wf = false ∧ (Instr.dramRequest 5 31 2 none).wf = false ∧
    (Instr.dramRequest 5 0 2 (some [1])).wf = false ∧ (Instr.dramRequest 5 30 2 (some [1, 2])).wf = true := by decide
theorem test_wf_dram_upset : (Instr.dramComplete 0 [⟨0xF000000, true⟩]).wf = false ∧ (Instr.scrubStep [⟨0xF000000, true⟩]).wf = false ∧
    (Instr.dramComplete 0 [⟨7, false⟩]).wf = true := by decide
theorem test_wf_wall_packets : (Instr.wallRegWr 0 ⟨0, 0, 0⟩ 0 []).wf = false ∧ (Instr.wallRegRd 0 ⟨0, 0, 0⟩ 0 65).wf = false ∧
    (Instr.msg 0 ⟨0, 0, 0⟩ []).wf = false ∧ (Instr.noticePacket 0 0 0 0 [] true).wf = false ∧
    (Instr.rdRsp 0 ⟨0, 0, 0⟩ 0 (List.replicate 65 0)).wf = false ∧ (Instr.msg 0 ⟨0, 0, 0⟩ [1]).wf = true := by decide
theorem test_wf_prepare : (Instr.prepare 0 ⟨0, 0, 0⟩ 0 0 0 false 0 (List.replicate 377 0)).wf = false ∧
    (Instr.prepare 0 ⟨0, 0, 0⟩ 0 0 0 false 0 (List.replicate 376 0)).wf = true := by
  simp only [Instr.wf, List.length_replicate]; decide
theorem test_wf_lost : (Instr.lost 0 ⟨0, 0, 0⟩ (List.replicate 257 0)).wf = false ∧ (Instr.lost 0 ⟨0, 0, 0⟩ [5]).wf = true := by
  simp only [Instr.wf, List.length_replicate]; decide
theorem test_wf_service : (Instr.mgmtTransaction 0x3C [] 0).wf = false ∧ (Instr.imgBegin 0 0x7800000).wf = false ∧
    (Instr.tapDmi 0 0 3).wf = false ∧ (Instr.tapFuse [258] true).wf = false ∧ (Instr.regWrite 6 0).wf = false ∧
    (Instr.regWrite 0x160000 0).wf = false ∧ (Instr.regWrite 8 0).wf = true := by decide

/-! ### Decoding: no row of the table gives bits -/

theorem test_no_word_spells : decodeTableWord 32 0x13 = none ∧ State.reset.withFetchWord 32 0x13 = State.reset := by
  exact ⟨rfl, rfl⟩

/-! ### Worked examples of the spec -/

/-- Section 3, a ticker over live content. -/
theorem test_ticker_pixel : expand 8 0xC0 = 3084 ∧ effAlpha 2056 0xE6 = 1855 ∧ blend 1600 4095 2056 0xE6 false = 2730 ∧
    blend 1200 3084 2056 0xE6 false = 2053 ∧ blend 800 0 2056 0xE6 false = 438 := by decide
/-- Section 4, one pixel on the reference panel: the gain, and the re-encoding of red, green and blue. -/
theorem test_gain_and_encode : pixelGain 40000 0x4000 28734 = 5702 ∧ encode (fun k => if k = 3152 then 3172 else 3174) 37389 = 3173 ∧
    encode (fun k => if k = 2608 then 2386 else 2388) 19972 = 2386 ∧ encode (fun k => if k = 667 then 509 else 0) 667 = 509 := by decide
/-- Section 4, the same pixel: demura. -/
theorem test_demura : anchorDelta 57 40 17295 8 = -288 ∧ anchorDelta 5 48 17295 8 = 261 ∧ anchorDelta 3 40 17295 8 = 135 ∧
    demura (512, 1536, 3072) 0 0 (-288) 3173 = 3157 ∧ demura (512, 1536, 3072) 0 261 135 2386 = 2398 ∧
    demura (512, 1536, 3072) (-397) 0 0 509 = 484 := by decide
/-- Section 5, the red subpixel of pixel (4,001, 2,001): temperature, nodes, drive and reach. -/
theorem test_overdrive : odSet [0, 5120, 10240, 15360] 8233 = (1, 155) ∧ nodePos 3120 = (24, 49) ∧ nodePos 2600 = (20, 41) ∧
    overdrive 2 (fun s p t => (if s = 1 then (if p = 20 then (if t = 24 then 3402 else 3560) else (if t = 24 then 3330 else 3488))
      else (if p = 20 then (if t = 24 then 3240 else 3376) else (if t = 24 then 3200 else 3336))) + 65536 * (if t = 24 then 3071 else 3199))
      1 155 2600 3120 = (3342, 3120) := by decide
/-- Section 5, the dither of the same subpixel over four frames. -/
theorem test_dither : [0, 1, 2, 3].map (fun phi => ditherCode true true 4 16 phi 3342) = [209, 209, 209, 208] := by decide
/-- Section 7, a ring segment: 68 payload bytes, and the first 22, which carry component 0. -/
theorem test_ring_segment :
    let px : List Px := List.replicate 32 ⟨1600, 1200, 800⟩ ++ List.replicate 8 ⟨1602, 1201, 800⟩ ++ List.replicate 88 ⟨1600, 1200, 800⟩
    (BKind.codePayload .rgb36 0 px).length = 68 ∧ (BKind.codePayload .rgb36 0 px).take 22 =
      [0x0B, 0, 0x12, 0, 0, 0, 0, 0, 0xB0, 0x04, 0, 0, 0, 0, 0, 0, 0, 0, 0, 1, 0, 1] ∧
    ((BKind.encode .rgb36 px false).block.take 2) = [0x44, 0] := by decide +kernel
/-- Section 7, "abcabcabcabc": its 11 bytes decompress to it. -/
theorem test_stream : let abc : List Byte := [0x61, 0x62, 0x63]
    let text := abc ++ abc ++ abc ++ abc
    let r := decompress 0 0xFFFFFFFF true 12 60 ([0x02, 0x61, 0x62, 0x63, 0x70, 0x02] ++ endGroup (crc32Run 0xFFFFFFFF text)) ⟨.tokens, [], [], 0, 0, 0⟩
    r.1.bytes = text ∧ r.2 = .ended ∧ r.1.consumed = 11 := by decide +kernel
/-- Section 9, zone 2,849: the budget, the duty, the ticks, and the UPD packet before its CRC. -/
theorem test_backlight_zone : budgetScale 6124 6000 = 32104 ∧ scaledDuty 32048 32104 = 31399 ∧ onTicks 32048 32104 416666 = 199632 ∧
    (updBytes [⟨21, 33, 32048, 255, false, 2849⟩]).take 7 = [0x10, 0x15, 0x01, 0x21, 0x30, 0x7D, 0xFF] := by decide
/-- Section 13, worker 7 and the notice of the reference wall: the part of it on the panel. -/
theorem test_notice_cut :
    let g : NoticeHead := ⟨0x544E, 3, 4, 4, 15360, 1080, 0, 0⟩
    let d := (((State.reset.dev.put F.WALL_POS_X_PX 30720).put F.WALL_POS_Y_PY 2160).put F.RASTER_H_H_ACTIVE 15360).put F.RASTER_V_V_ACTIVE 2160
    d.noticeCut g = (30720, 2160, 46080, 4320) ∧ (30720 - g.x0) / g.sx = 7680 ∧ (2160 - g.y0) / g.sy = 540 ∧ g.stride = 15360 ∧
    4096 + g.h * g.stride = 16592896 := by decide
/-- R20: the frame counter compares around its wrap. -/
theorem test_ahead : ahead 2 0xFFFFFFFF = true ∧ ahead 0xFFFFFFFF 2 = false ∧ ahead 5 5 = false := by decide

/-! ### Helpers: a device at reset with an update, and a small boot image -/

/-- The machine after reset with its device changed. -/
def stWith (f : Dev → Dev) : State := State.reset.upd f

/-- The CRC-32 register with every step evaluated before the next. -/
def crcGo : Nat → List Byte → Nat
  | c, [] => c
  | c, x :: xs => match crc32Byte c x with
    | 0 => crcGo 0 xs
    | n + 1 => crcGo (n + 1) xs

theorem crcGo_eq (c : Nat) (bs : List Byte) : crcGo c bs = crc32Run c bs := by
  induction bs generalizing c with
  | nil => rfl
  | cons x xs ih =>
    have h : crcGo c (x :: xs) = crcGo (crc32Byte c x) xs := by
      rw [crcGo]; cases crc32Byte c x <;> rfl
    simpa [crc32Run] using h.trans (ih _)

/-- A small boot image: empty segments of types 1 and 2, and four bytes of firmware for TCM at 16. -/
def bootImg : Memory :=
  [(0, 0x59), (1, 0x4C), (2, 0x42), (3, 0x49), (4, 1), (6, 3), (8, 9), (12, 8), (13, 16), (20, 32), (21, 78), (25, 25), (26, 8), (28, 5),
    (256, 1), (261, 16), (280, 2), (285, 16), (304, 3), (309, 16), (312, 4), (316, 4), (320, 16), (4092, 161), (4093, 230), (4094, 66),
    (4095, 33), (4096, 17), (4097, 34), (4098, 51), (4099, 68), (4100, 164), (4101, 157), (4102, 148), (4103, 51)]

theorem get_none (m : Memory) (a : Nat) (h : m.all (fun c => c.1 != a) = true) : Memory.get m a = 0 := by
  induction m with
  | nil => rfl
  | cons c m ih =>
    simp only [List.all_cons, Bool.and_eq_true, bne_iff_ne, ne_eq] at h
    simp only [Memory.get, h.1, if_false]; exact ih h.2

/-- Where a memory lists nothing, it reads as zeros. -/
theorem read_none (m : Memory) (a n : Nat) (h : m.all (fun c => decide (c.1 < a) || decide (a + n ≤ c.1)) = true) :
    Memory.read m a n = List.replicate n 0 := by
  refine List.ext_getElem (by simp [Memory.read]) fun i h1 h2 => ?_
  have hi : i < n := by simpa using h2
  simp only [Memory.read, List.getElem_map, List.getElem_range, List.getElem_replicate]
  refine get_none m (a + i) (List.all_eq_true.2 fun c hc => ?_)
  have := List.all_eq_true.1 h c hc
  simp only [Bool.or_eq_true, decide_eq_true_eq] at this
  simp only [bne_iff_ne, ne_eq]; omega

theorem read_add (m : Memory) (a n k : Nat) : Memory.read m a (n + k) = Memory.read m a n ++ Memory.read m (a + n) k := by
  simp only [Memory.read, List.range_add, List.map_append, List.map_map]
  congr 1
  exact List.map_congr_left fun i _ => by simp only [Function.comp, Nat.add_assoc]

/-- The CRC-32 register after zeros. -/
def crcZeros : Nat → Nat → Nat
  | 0, c => c
  | n + 1, c => match crc32Byte c 0 with
    | 0 => crcZeros n 0
    | k + 1 => crcZeros n (k + 1)

theorem crcZeros_eq (n c : Nat) : crc32Run c (List.replicate n 0) = crcZeros n c := by
  induction n generalizing c with
  | zero => rfl
  | succ n ih =>
    rw [crcZeros, List.replicate_succ]
    have h := ih (crc32Byte c 0)
    rw [show crc32Run c (0 :: List.replicate n 0) = crc32Run (crc32Byte c 0) (List.replicate n 0) from rfl, h]
    cases crc32Byte c 0 <;> rfl

theorem crc32Run_append (c : Nat) (xs ys : List Byte) : crc32Run c (xs ++ ys) = crc32Run (crc32Run c xs) ys := List.foldl_append ..

theorem bootImg_headerRun : crc32Run 0xFFFFFFFF (Memory.read bootImg 0 0xFFC) = 0x2142E6A1 ^^^ 0xFFFFFFFF := by
  have h : crc32Run 0xFFFFFFFF (Memory.read bootImg 0 324) = 0x6480eae3 := by rw [← crcGo_eq]; decide +kernel
  rw [show (0xFFC : Nat) = 324 + 3768 from rfl, read_add, crc32Run_append, h, read_none _ _ _ (by decide), crcZeros_eq]
  decide +kernel

theorem bootImg_headerCrc : crc32 (Memory.read bootImg 0 0xFFC) = 0x2142E6A1 := by rw [crc32, bootImg_headerRun]; decide

theorem bootImg_crc : crc32 (Memory.read bootImg 0 0x1004) = 0x33949DA4 := by
  rw [crc32, show (0x1004 : Nat) = 0xFFC + 8 from rfl, read_add, crc32Run_append, bootImg_headerRun, ← crcGo_eq]; decide +kernel

/-- The same image at another address. -/
def bootImgAt (b : Nat) : Memory := bootImg.map fun c => (b + c.1, c.2)

theorem get_shift (m : Memory) (b a : Nat) : Memory.get (m.map fun c => (b + c.1, c.2)) (b + a) = Memory.get m a := by
  induction m with
  | nil => rfl
  | cons c m ih => simp only [List.map_cons, Memory.get, Nat.add_left_cancel_iff, ih]

theorem read_bootImgAt (b a n : Nat) : Memory.read (bootImgAt b) (b + a) n = Memory.read bootImg a n := by
  simp only [Memory.read, bootImgAt, Nat.add_assoc, get_shift]

theorem bootImg_fieldsOk : ImgAt.fieldsOk ⟨bootImg, 0⟩ false = true := by
  have h1 : ImgAt.bytes ⟨bootImg, 0⟩ (0x100 + 24 * ImgAt.segCount ⟨bootImg, 0⟩) (24 * (128 - ImgAt.segCount ⟨bootImg, 0⟩)) = List.replicate 3000 0 :=
    read_none bootImg 328 3000 (by decide)
  have h2 : ImgAt.bytes ⟨bootImg, 0⟩ 0xD40 0x2BC = List.replicate 700 0 := read_none bootImg 0xD40 700 (by decide)
  simp only [ImgAt.fieldsOk, h1, h2]; decide +kernel

theorem bootImg_tableOk : ImgAt.tableOk ⟨bootImg, 0⟩ = true := by decide +kernel

theorem bootImg_headerOk (limit : Nat) (h : 0x1008 ≤ limit) : ImgAt.headerBad ⟨bootImg, 0⟩ false limit = none := by
  have h1 : ImgAt.bytes ⟨bootImg, 0⟩ 0 4 = [0x59, 0x4C, 0x42, 0x49] := by decide +kernel
  have h2 : crc32 (ImgAt.bytes ⟨bootImg, 0⟩ 0 0xFFC) = ImgAt.num ⟨bootImg, 0⟩ 0xFFC 4 :=
    bootImg_headerCrc.trans (by decide +kernel)
  have h3 : ImgAt.num ⟨bootImg, 0⟩ 4 2 = 1 := by decide +kernel
  have h4 : ImgAt.len ⟨bootImg, 0⟩ = 0x1008 := by decide +kernel
  simp [ImgAt.headerBad, h1, h2, h3, h4, bootImg_fieldsOk, bootImg_tableOk, Nat.not_lt.2 h]

theorem bootImg_crcOk : ImgAt.crcOk ⟨bootImg, 0⟩ = true := by
  have h : ImgAt.crcAt ⟨bootImg, 0⟩ = 0x1004 := by decide
  simp only [ImgAt.crcOk, ImgAt.bytes, h, Nat.add_zero, bootImg_crc]; decide +kernel

theorem bootImgAt_num (b o n : Nat) : ImgAt.num ⟨bootImgAt b, b⟩ o n = ImgAt.num ⟨bootImg, 0⟩ o n := by
  simp only [ImgAt.num, ImgAt.bytes, read_bootImgAt, Nat.zero_add]

theorem bootImgAt_crcOk (b : Nat) : ImgAt.crcOk ⟨bootImgAt b, b⟩ = true := by
  have h : ImgAt.crcAt ⟨bootImgAt b, b⟩ = ImgAt.crcAt ⟨bootImg, 0⟩ := by
    simp only [ImgAt.crcAt, ImgAt.len, ImgAt.isSigned, bootImgAt_num]; rfl
  rw [← bootImg_crcOk, ImgAt.crcOk, ImgAt.crcOk, bootImgAt_num, h]
  simp only [ImgAt.bytes, read_bootImgAt, Nat.zero_add]

theorem bootImgAt_bytes (b o n : Nat) : ImgAt.bytes ⟨bootImgAt b, b⟩ o n = ImgAt.bytes ⟨bootImg, 0⟩ o n := by
  simp only [ImgAt.bytes, read_bootImgAt, Nat.zero_add]

theorem bootImgAt_seg (b : Nat) : ImgAt.seg ⟨bootImgAt b, b⟩ = ImgAt.seg ⟨bootImg, 0⟩ := by
  funext i; simp only [ImgAt.seg, bootImgAt_num]

theorem bootImgAt_headerBad (b : Nat) (quad : Bool) (limit : Nat) :
    ImgAt.headerBad ⟨bootImgAt b, b⟩ quad limit = ImgAt.headerBad ⟨bootImg, 0⟩ quad limit := by
  have h1 : ImgAt.segCount ⟨bootImgAt b, b⟩ = ImgAt.segCount ⟨bootImg, 0⟩ := bootImgAt_num ..
  have h2 : ImgAt.segs ⟨bootImgAt b, b⟩ = ImgAt.segs ⟨bootImg, 0⟩ := by simp only [ImgAt.segs, h1, bootImgAt_seg]
  have h3 : ImgAt.isSigned ⟨bootImgAt b, b⟩ = ImgAt.isSigned ⟨bootImg, 0⟩ := by simp only [ImgAt.isSigned, bootImgAt_num]
  have h4 : ImgAt.len ⟨bootImgAt b, b⟩ = ImgAt.len ⟨bootImg, 0⟩ := bootImgAt_num ..
  have h5 : ImgAt.crcAt ⟨bootImgAt b, b⟩ = ImgAt.crcAt ⟨bootImg, 0⟩ := by simp only [ImgAt.crcAt, h3, h4]
  have h8 : ImgAt.segOk ⟨bootImgAt b, b⟩ = ImgAt.segOk ⟨bootImg, 0⟩ := by funext g; simp only [ImgAt.segOk, h1, h5]
  have h9 : ImgAt.segsOf ⟨bootImgAt b, b⟩ = ImgAt.segsOf ⟨bootImg, 0⟩ := by funext t; simp only [ImgAt.segsOf, h2]
  have h6 : ImgAt.tableOk ⟨bootImgAt b, b⟩ = ImgAt.tableOk ⟨bootImg, 0⟩ := by
    unfold ImgAt.tableOk; rw [h2, h8, h9]
  have h7 : ImgAt.fieldsOk ⟨bootImgAt b, b⟩ quad = ImgAt.fieldsOk ⟨bootImg, 0⟩ quad := by
    simp only [ImgAt.fieldsOk, h1, h3, bootImgAt_num, bootImgAt_bytes]
  simp only [ImgAt.headerBad, h4, h6, h7, bootImgAt_num, bootImgAt_bytes]

/-! ## The hypotheses of the obligations are met -/

/-! ### IdleTick -/

def wIdleTick1 : State := stWith fun d => ((d.put F.CAL_SUB_SUB 32767).put F.WDT_CTRL_EN 1).put F.CAL_SEC_SEC 0xFFFFFFFF
def wIdleTick2 : State := stWith fun d => (d.putWord R.MTIME 0 0xFFFFFFFF).putWord R.MTIME 1 0xFFFFFFFF

theorem test_IdleTick :
  State.reset.pending = [] ∧ State.reset.dev.get F.CAL_SUB_SUB = 0 ∧ (wIdleTick1).pending = [] ∧ (wIdleTick1).dev.get F.CAL_SUB_SUB = 32767 := by decide

/-! ### ResetMemoriesCanonical -/


theorem test_ResetMemoriesCanonical :
  State.reset.memsWf = true := by decide

/-! ### StepKeepsMemories -/


theorem test_StepKeepsMemories :
  State.reset.memsWf = true ∧ ∃ t, step State.reset = .next t := ⟨by decide, _, rfl⟩

/-! ### RegisterWrites -/

def wRegisterWrites1 : State := stWith fun d => (d.put F.BOOT_CTRL_LOCK 1).raise Ev.LINK_DOWN 1
def wRegisterWrites2 : State := stWith fun d => d.raise Ev.LINK_DOWN 0

theorem test_RegisterWrites :
  (findReg 0x40040000).isSome = true ∧ State.reset.dev.domOn domCORR = true ∧ State.reset.dev.behind .cp domCORR = false := by decide

/-! ### UnmappedStores -/

def wUnmappedStores1 : State := stWith fun d => ((d.put F.DOM_STATUS_STATE 1 14).put F.DOM_STATUS_STATE 1 4).raise Ev.BUS_ERR
def wUnmappedStores2 : State := stWith fun d => d.setPwr fun p => { p with stalled := [⟨.cp, true, 0x40040000, 4, 1⟩] }
def wUnmappedStores3 : State := stWith fun d => ((d.put F.DOM_STATUS_STATE 1 5).put F.DOM_STATUS_STATE 1 15).put F.DOM_STATUS_STATE 1 8

theorem test_UnmappedStores :
  regDomain 0x4000FFFF = none ∧ State.reset.dev.on F.SYS_EVENT_BUS_ERR = false ∧ (wUnmappedStores1).dev.on F.SYS_EVENT_BUS_ERR = true ∧
    regDomain 0x400A0000 = some 14 ∧ (wUnmappedStores1).dev.domState 14 = 1 ∧
    regDomain 0x40040000 = some 6 ∧ (wUnmappedStores2).dev.behind .cp 6 = true ∧ (wUnmappedStores2).dev.domState 6 = 0 := by decide

/-! ### StalledWrites -/


theorem test_StalledWrites :
  (let s := stWith fun d => d.put F.DOM_STATUS_STATE 1 domBL; writeAt .zbEnum = some (domBL, R.ZB_CTRL.at 0) ∧ s.dev.reaches domBL (R.ZB_CTRL.at 0) = false ∧ s.dev.domState domBL = 1) ∧
  (let s := stWith fun d => d.put F.DOM_STATUS_STATE 2 domCOMP; writeAt .commit = some (domCOMP, R.FSEQ_COMMIT.at 0) ∧ s.dev.reaches domCOMP (R.FSEQ_COMMIT.at 0) = false ∧ s.dev.domState domCOMP = 2) := by decide

/-! ### EventLog -/

def wEventLog1 : State := stWith fun d => { d with log := { d.log with started := true } }
def wEventLog2 : State := stWith fun d => { (d.put F.LOG_STATUS_DROPPED 65535) with log := { d.log with started := true, entries := List.replicate 16 ⟨1,2,3,4,5,6,7,8,9⟩ } }

theorem test_EventLog :
  (wEventLog1).dev.log.started = true ∧ (wEventLog1).dev.log.frozen = false ∧ (wEventLog1).dev.log.entries.length < 16 ∧ 16 ≤ (wEventLog2).dev.log.entries.length ∧
    State.reset.dev.log.started = false := by decide

/-! ### BacklightSwitches -/

def wBacklightSwitches1 : State := stWith fun d => ((d.put F.BL_CTRL_EN 1).put F.BL_LIMIT_TJ_MAX 100).setBoost 2 fun b => { b with phase := 2 }
def wBacklightSwitches2 : State := stWith fun d => let e := (d.put F.BL_CTRL_EN 1).put F.BL_LIMIT_TJ_MAX 127; { e with bl := { e.bl with dieOver := 2, sinks := [(3, { segs := [(1, 2)] })] } }
def wBacklightSwitches3 : State := stWith fun d => (((d.put F.BL_STATUS_SHUT_CAUSE 1).put F.BL_LIMIT_TJ_MAX 140).put F.BOOST_CFG_EN 1 3).put F.BOOST_CFG_VSTART 40 3
def wBacklightSwitches4 : State := stWith fun d => (d.put F.BL_STATUS_SHUT_CAUSE 1).put F.BL_DIE_TEMP 100

theorem test_BacklightSwitches :
  (State.reset.dev.on F.BL_CTRL_EN = false ∧ State.reset.dev.reaches domBL (R.BL_CTRL.at 0) = true ∧ State.reset.dev.reaches domBL (R.BL_BUDGET.at 0) = true) ∧
    (let d := (wBacklightSwitches1).dev; d.on F.BL_CTRL_EN = true ∧ 16 * (d.get F.BL_LIMIT_TJ_MAX : Int) ≤ (1600 : BitVec 16).toInt ∧
      ¬ (16 * (d.get F.BL_LIMIT_TJ_MAX : Int) ≤ (1599 : BitVec 16).toInt) ∧ d.getS F.TS_CAL_OFS 8 = 0) ∧
    ((wBacklightSwitches2).dev.on F.BL_CTRL_EN = true ∧ 2 ≤ (wBacklightSwitches2).dev.bl.dieOver) ∧
    (let d := (wBacklightSwitches3).dev; d.get F.BL_STATUS_SHUT_CAUSE ≠ 0 ∧ d.on F.BL_CTRL_EN = false ∧ d.boostUsable 3 = true ∧
      d.getS F.BL_DIE_TEMP + 15 ≤ (d.get F.BL_LIMIT_TJ_MAX : Int)) ∧
    State.reset.dev.get F.BL_STATUS_SHUT_CAUSE = 0 ∧
    (let d := (wBacklightSwitches4).dev; (d.get F.BL_LIMIT_TJ_MAX : Int) < d.getS F.BL_DIE_TEMP + 15) := by decide

/-! ### BoostFaults -/

def wBoostFaults1 : State := stWith fun d => (((d.put F.BOOST_FAULT_LATCHED 1 0).put F.BL_CTRL_EN 1).put F.BOOST_CFG_EN 1 0).put F.BOOST_CFG_VSTART 9 0
def wBoostFaults2 : State := stWith fun d => (d.put F.BOOST_FAULT_LATCHED 1 15).setBoost 0 fun t => { t with ovRun := 2 }
def wBoostFaults3 : State := stWith fun d => ((((((d.put F.ZB_PRESENT_ICS 3).put F.BL_CTRL_ZB_EN 1).put F.SINK_CFG_EN 1 5).put F.ZB_MAP_EN 1 1).setIc 1 fun t => { t with outEn := true, idOk := true }).setBoost 0 fun t => { t with phase := 2, ovRun := 1 }).setBoost 15 fun t => { t with ovNow := true, phase := 1 }

theorem test_BoostFaults :
  (let d := (wBoostFaults1).dev; d.reaches domBL (R.BOOST_FAULT.at 0) = true ∧ d.on F.BOOST_FAULT_LATCHED 0 = true ∧ d.on F.BL_CTRL_EN = true ∧ d.on F.BOOST_CFG_EN 0 = true) ∧
    (let d := (wBoostFaults2).dev; d.on F.BOOST_FAULT_LATCHED 15 = true ∧ d.on F.BL_CTRL_EN = false ∧ 2 ≤ (d.boost 0).ovRun ∧ d.on F.BOOST_FAULT_LATCHED 0 = false) ∧
    (let d := (wBoostFaults3).dev; (d.boost 0).phase = 2 ∧ (d.boost 15).phase = 1 ∧ (d.boost 15).ovNow = true) ∧
  (stWith fun d => d.setBoost 0 fun t => { t with ovRun := 1 }).dev.on F.BOOST_FAULT_LATCHED 0 = false ∧
    ((stWith fun d => d.setBoost 15 fun t => { t with ovRun := 1 }).dev.boost 15).ovRun = 1 := by decide

/-! ### StringSamples -/

def wStringSamples1 : State := stWith fun d => ((((d.put F.BL_CTRL_EN 1).put F.SINK_CFG_EN 1 127).put F.SINK_CFG_EN 1 0).put F.BOOST_CFG_EN 1 0).put F.BL_CTRL_PIN_TEST_EN 1
def wStringSamples2 : State := stWith fun d => (((((d.put F.BL_CTRL_EN 1).put F.SINK_CFG_EN 1 0).put F.BOOST_CFG_EN 1 0).put F.BL_CTRL_DIAG_EN 1).setSink 0 fun t => { t with lowPrev := true, noLong := 64, segs := [(0, 5)] }).setSink 1 fun t => { t with offNow := true }
def wStringSamples3 : State := stWith fun d => let d := (((d.put F.BL_CTRL_PIN_TEST_EN 1).put F.SINK_STATUS_OFF 1 7).put F.SINK_STATUS_OFF 1 1).setSink 1 fun t => { t with offNow := true }; { d with bl := { d.bl with pinOnce := [(0, 1), (1, 2)] } }
def wStringSamples4 : State := stWith fun d => (((((d.put F.BL_CTRL_PIN_TEST_EN 1).put F.BOOST_FAULT_LATCHED 1 3).put F.SINK_CFG_BOOST 3 2).put F.SINK_STATUS_OPEN 1 5).put F.SINK_STATUS_PIN_SHORT 1 5).put F.SINK_STATUS_OFF 1 5

theorem test_StringSamples :
  (let d := (wStringSamples1).dev; d.stringOn 127 = true ∧ d.stringOn 0 = true ∧ State.reset.dev.stringOn 127 = false ∧ d.on F.BL_CTRL_PIN_TEST_EN = true ∧
      d.on F.SINK_STATUS_OFF 127 = false ∧ d.on F.BOOST_FAULT_LATCHED 0 = false ∧ d.get F.SINK_CFG_BOOST 127 = 0) ∧
    (let d := (wStringSamples2).dev; d.stringOn 0 = true ∧ (d.sink 0).lowPrev = true ∧ d.boostUsable 0 = true ∧ d.get F.SINK_CFG_BOOST 0 = 0 ∧
      (d.sink 1).offNow = true ∧ d.on F.BL_CTRL_DIAG_EN = true ∧ 64 ≤ (d.sink 0).noLong) ∧
    (let d := (wStringSamples3).dev; (0, 1) ∈ d.bl.pinOnce ∧ (d.sink 1).offNow = true ∧ d.on F.SINK_STATUS_OFF 7 = true ∧ (d.sink 7).offNow = false) ∧
    ((wStringSamples4).dev.on F.BOOST_FAULT_LATCHED ((wStringSamples4).dev.get F.SINK_CFG_BOOST 2) = true ∧ (wStringSamples4).dev.reaches domBL (R.SINK_STATUS.at 5) = true) := by decide

/-! ### ZoneBusOut -/

def wZoneBusOut1 : State := stWith fun d => let e := ((d.put F.BL_CTRL_ZB_EN 1).put F.ZB_STATUS_RING_UP 1).put F.ZB_PRESENT_ICS 3; { e with bl := { e.bl with queue := [⟨0, 127, 65535, 255, false, 4095⟩, ⟨0, 1, 2, 3, true, 5⟩, ⟨0, 127, 9, 9, false, 7⟩], flight := [[⟨1, 3, 4, 5, false, 6⟩]], statOut := true } }
def wZoneBusOut2 : State := stWith fun d => let e := ((d.put F.BL_CTRL_ZB_EN 1).put F.ZB_STATUS_RING_UP 1).put F.ZB_MAP_EN 1 0; { e with bl := { e.bl with statOut := true, noReply := 1 } }
def wZoneBusOut3 : State := stWith fun d => let e := d.put F.BL_CTRL_ZB_EN 1; { e with bl := { e.bl with statOut := true, noReply := 5, duties := [(7, 3, 4)] } }

theorem test_ZoneBusOut :
  (stWith fun d => d.put F.BL_CTRL_ZB_EN 1).dev.on F.BL_CTRL_ZB_EN = true ∧ State.reset.dev.bl.noReply = 0 ∧
    (stWith fun d => { (d.put F.ZB_STATUS_RING_UP 1) with bl := { d.bl with statOut := true, noReply := 1 } }).dev.on F.ZB_STATUS_RING_UP = true ∧
    (let s := stWith fun d => { ((d.put F.BL_CTRL_ZB_EN 1).put F.ZB_STATUS_RING_UP 1) with bl := { d.bl with queue := [⟨0, 127, 65535, 255, false, 4095⟩] } }
     nextPacket s.dev.bl.queue ≠ [] ∧ s.dev.ringUp = true) ∧
    State.reset.dev.reaches domBL (R.ZB_CTRL.at 0) = true ∧ State.reset.dev.ringUp = false := by decide

/-! ### ZoneBusBack -/

def wZoneBusBack1 : State := stWith fun d => let e := (((d.put F.BL_CTRL_ZB_EN 1).put F.ZB_STATUS_RING_UP 1).put F.ZB_PRESENT_ICS 3).put F.ZB_MAP_EN 1 0; { e with bl := { e.bl with flight := [[⟨1, 3, 4, 5, false, 6⟩]], queue := [⟨0, 1, 2, 3, true, 5⟩, ⟨0, 127, 9, 9, false, 7⟩], statOut := true, enumOut := true } }

theorem test_ZoneBusBack :
  (0 ∈ (wZoneBusBack1).dev.liveIcs ∧ (wZoneBusBack1).dev.bl.statOut = true ∧ (wZoneBusBack1).dev.bl.enumOut = true) ∧
  (stWith fun d => { d with bl := { d.bl with flight := [[]], statOut := true, enumOut := true } }).dev.bl.flight = [[]] ∧
    State.reset.dev.boot.waitEnum = false ∧ State.reset.dev.on F.ZB_STATUS_RING_UP = false ∧
    (stWith fun d => d.put F.ZB_STATUS_RING_UP 1).dev.on F.ZB_STATUS_RING_UP = true := by decide

/-! ### CalibrationWindows -/

def wCalibrationWindows1 : State := stWith fun d => { d with cal := { d.cal with ofs := [(4, List.replicate 100 3)], gain := [(4, { phase := 2, rows := [] })], ts := [[1,2,3,4,5,6,7,8,9]] } }
def wCalibrationWindows2 : State := stWith fun d => { d with cal := { d.cal with ofs := [(4, List.replicate 512 0 ++ List.replicate 512 12)], gain := [(0, { phase := 1 }), (1, { phase := 0, count := 4096 })], consec := [(calKey 0 4, 15)] } }
def wCalibrationWindows3 : State := stWith fun d => { (d.put F.SINK_CFG_EN 1 3) with cal := { d.cal with ofs := [(1, List.replicate 1024 50), (4, List.replicate 1024 100)], gain := [(0, { phase := 2, g := [32768], rows := List.replicate 1024 ([0],[100],100) })], ts := List.replicate 1000 [10,0,0,0,0,0,0,0,0] } }
def wCalibrationWindows4 : State := stWith fun d => { d with cal := { d.cal with ofs := [(4, (List.range 1024).map fun i => ((i % 17 : Nat) : Int) - 8)], ts := List.replicate 1000 [5,0,0,0,0,0,0,0,0] } }
def wCalibrationWindows5 : State := stWith fun d => { (d.put F.SINK_CFG_EN 1 3) with cal := { d.cal with gain := [(0, { phase := 2, g := [40000], rows := List.replicate 1024 ([0],[100],122) }), (1, { phase := 2, g := [], rows := List.replicate 512 ([0],[100],100) ++ List.replicate 512 ([0],[0],200) }), (2, { phase := 2, g := [32768], rows := List.replicate 512 ([0],[100],100) ++ List.replicate 512 ([0],[100],200) })] } }
def wCalibrationWindows6 : State := stWith fun d => (List.range 5).foldl (fun d i => (d.put F.ZB_MAP_EN 1 i).put F.ZB_PRESENT_ICS 31) { d with cal := { d.cal with gain := [(0, { count := 4096 })] } }
def wCalibrationWindows7 : State := stWith fun d => { d with cal := { d.cal with ts := List.replicate 1000 [5,0,0,0,0,0,0,0,0], anchors := List.replicate 15 20, anchorNow := [22, 7] } }

theorem test_CalibrationWindows :
  (let d := (wCalibrationWindows7).dev; d.cal.anchors.length < 16 ∧ 16 ≤ (d.cal.anchors ++ d.cal.anchorNow).length ∧ varianceOk ((d.cal.anchors ++ d.cal.anchorNow).take 16) 576 1 = true) ∧
  (let s := wCalibrationWindows1; s.dev.calRuns 0 = true ∧ s.dev.calRuns 1 = true ∧ s.dev.calRuns 2 = true ∧ (s.dev.gainCal 4).phase = 2 ∧
     ((assoc 4 s.dev.cal.ofs).getD []).length < 1024 ∧ s.dev.cal.ts.length < 1000 ∧ s.dev.reaches domBL (R.SG_COMMIT.at 0) = true) ∧
  ((wCalibrationWindows2).dev.gainCal 0).phase = 1 ∧ ((wCalibrationWindows2).dev.gainCal 1).count = 4096 := by decide

/-! ### CalibrationSamples -/

def wCalibrationSamples1 : State := stWith fun d => { (d.put F.RX_PORT_STATUS_TRAINED 1 1) with cal := { d.cal with ts := [[1,2,3,4,5,6,7,8,9]], consec := [(calKey 3 4, 15), (calKey 3 5, 3)], eqRun := [(4, 15), (5, 3)] } }
def wCalibrationSamples2 : State := stWith fun d => { ((((d.put F.BL_CTRL_EN 1).put F.COL_CTRL_RETUNE_EN 1).put F.COL_STATUS_TRAIN_STATE 5).put F.COL_PRESENT_LO_LANES 3) with bl := { d.bl with dieOver := 1, predNow := 9 } }
def wCalibrationSamples3 : State := stWith fun d => { (((d.put F.COL_CTRL_RETUNE_EN 1).put F.COL_STATUS_TRAIN_STATE 5).put F.COL_PRESENT_LO_LANES 3) with cal := { d.cal with tuneSpoilt := true, tuneNext := 1 } }

theorem test_CalibrationSamples :
  (let s := wCalibrationSamples1; s.dev.calRuns 3 = true ∧ s.dev.on F.RX_PORT_STATUS_TRAINED 1 = true ∧ s.dev.calRuns 2 = true ∧ s.dev.cal.ts ≠ [] ∧ s.dev.pwrState = 0) ∧
  (let s := wCalibrationSamples2; s.dev.bl.dieOver = 1 ∧ s.dev.on F.BL_CTRL_EN = true ∧ s.dev.trainState = 5 ∧ s.dev.tuneLane = some 0 ∧ s.dev.cal.tuneSpoilt = false ∧
    16 * (s.dev.get F.BL_LIMIT_TJ_MAX : Int) ≤ max (0x7FFF : BitVec 16).toInt 0) ∧
  (let s := wCalibrationSamples3; s.dev.cal.tuneSpoilt = true ∧ s.dev.tuneLane = some 1) ∧ 0 < (wCalibrationSamples1).dev.laneCount 1 := by decide

/-! ### ExactBlockRoundTrip -/


theorem test_ExactBlockRoundTrip :
  BKind.exact .s18 = true ∧ (∀ p ∈ [(⟨1, 2, 63⟩ : Px), ⟨0, 0, 0⟩], p.r < 2 ^ BKind.rawBits .s18 ∧ p.g < 2 ^ BKind.rawBits .s18 ∧ p.b < 2 ^ BKind.rawBits .s18) := by decide

/-! ### ExactBlockChoice -/


theorem test_ExactBlockChoice :
  BKind.exact .rgb36 = true ∧ (BKind.codePayload .s18 0 [⟨1, 2, 63⟩, ⟨0, 0, 0⟩]).length ≠ 0 := by decide

/-! ### BoundedBlocks -/


set_option maxRecDepth 4000 in
theorem test_BoundedBlocks :
  BKind.exact .b2 = false ∧ (BKind.encodeBounded .b2 [⟨1, 2, 3⟩] false).boundFail = false ∧
    BKind.rawSize .b2 1 < bits (leNat ((BKind.encodeBounded .b2 [⟨1, 2, 3⟩] false).block.take 2)) 9 0 ∧
    bits (leNat ((BKind.encodeBounded .b2 [⟨1, 2, 3⟩, ⟨1, 2, 3⟩, ⟨1, 2, 3⟩, ⟨1, 2, 3⟩] false).block.take 2)) 9 0 ≤ BKind.rawSize .b2 4 ∧ (BKind.encodeBounded .b3 [⟨1, 2, 3⟩] true).boundFail = true := by decide

/-! ### CodecBlockService -/

def wCodecBlockService1 : State := stWith fun d => ((((((d.put F.LUT_BASE_BASE 0x80000).put F.OD_TABLE_BASE_BASE 0x90000).put F.CODEC_CTRL_Q0_EN 1).put F.CODEC_CTRL_Q1_EN 1).put F.CODEC_Q_TAIL_TAIL 1 0).put F.CODEC_Q_CFG_SIZE 3 0).put F.CODEC_Q_CFG_BASE 0x4000 0
def wCodecBlockService2 : State := (wCodecBlockService1).upd fun d => { d with ls := { d.ls with mem := Memory.write (Memory.write [] 0x40000 (leBytes 4 2 ++ leBytes 4 0 ++ leBytes 8 (2^63 + 0x50000) ++ leBytes 8 (2^63 + 0x60000) ++ leBytes 4 0 ++ leBytes 4 0 ++ List.replicate 20 0 ++ leBytes 4 (9 + 65536) ++ leBytes 4 0 ++ leBytes 4 0x7000)) 0x50000 [1,2,3,4,5,6,7,8,9,10,200,255,1,2,3] } }
def wCodecBlockService3 : State := (wCodecBlockService2).upd fun d => { d with ls := { d.ls with mem := Memory.write d.ls.mem 0x40000 (leBytes 4 4) } }
def wCodecBlockService4 : State := (wCodecBlockService2).upd fun d => { d with ls := { d.ls with mem := Memory.write d.ls.mem 0x40000 (leBytes 4 5) } }
def wCodecBlockService5 : State := (wCodecBlockService2).upd fun d => { d with ls := { d.ls with mem := Memory.write (Memory.write (Memory.write d.ls.mem 0x40000 (leBytes 4 3)) 0x50000 (BKind.encodeExact .rgb36 (List.replicate 9 ⟨5,6,7⟩) false).block) 0x70000 (leBytes 2 (lenEntry (BKind.encodeExact .rgb36 (List.replicate 9 ⟨5,6,7⟩) false).block)) } }
def wCodecBlockService6 : State := (wCodecBlockService2).upd fun d => { d with ls := { d.ls with mem := Memory.write (Memory.write d.ls.mem 0x40000 (leBytes 4 6)) 0x50000 (BKind.encodeBounded .b2 (List.replicate 9 ⟨5,6,7⟩) false).block } }
def wCodecBlockService7 : State := (wCodecBlockService2).upd fun d => { d with ls := { d.ls with mem := Memory.write (Memory.write d.ls.mem 0x40000 (leBytes 4 6)) 0x50000 (BKind.encodeBounded .b2 (List.replicate 9 ⟨5,6,7⟩) true).block } }
def wCodecBlockService8 : State := (wCodecBlockService2).upd fun d => { d with ls := { d.ls with mem := Memory.write d.ls.mem 0x40000 (leBytes 4 3) } }
def wCodecBlockService9 : State := (wCodecBlockService2).upd fun d => { d with ls := { d.ls with mem := Memory.write d.ls.mem 0x40000 (leBytes 4 0x102) } }
def wCodecBlockService10 : State := (wCodecBlockService2).upd fun d => { d with ls := { d.ls with mem := Memory.write d.ls.mem 0x40000 (leBytes 4 0x402) } }

theorem test_CodecBlockService :
  (let d := (wCodecBlockService2).dev; let g := codecDecode (d.lsPeek (d.codecDescAddr 0) 64)
   d.codecPending 0 = true ∧ assoc 0 d.codec.prog = none ∧ d.lsPlain (d.codecDescAddr 0) 64 = true ∧ d.codecTurn 0 1 = true ∧ g.op = 2 ∧
   d.codecInvalid 0 g = false ∧ g.lines = 1 ∧ g.width = 9 ∧ d.lsPlain g.dst.addr g.kind.slot = true ∧ d.lsPlain g.lenTab 2 = true ∧
   overlaps g.dst.addr g.kind.slot g.lenTab 2 = false) ∧
  (let d := (wCodecBlockService8).dev; let g := codecDecode (d.lsPeek (d.codecDescAddr 0) 64); g.op = 3 ∧ d.codecInvalid 0 g = false ∧ d.lsPlain g.src.addr 1040 = true) := by decide

/-! ### CodecStreams -/

def wCodecStreams1 : State := stWith fun d => ((((((d.put F.LUT_BASE_BASE 0x80000).put F.OD_TABLE_BASE_BASE 0x90000).put F.CODEC_CTRL_Q0_EN 1).put F.CODEC_CTRL_Q1_EN 1).put F.CODEC_Q_TAIL_TAIL 1 0).put F.CODEC_Q_CFG_SIZE 3 0).put F.CODEC_Q_CFG_BASE 0x4000 0
def wCodecStreams2 : State := (wCodecStreams1).upd fun d => { (d.put F.STREAM_WIN_BASE_BASE 0x8000) with ls := { d.ls with mem := Memory.write (Memory.write [] 0x40000 (leBytes 4 0xC1 ++ leBytes 4 0 ++ leBytes 8 (2^63 + 0x50000) ++ leBytes 8 (2^63 + 0x60000) ++ leBytes 4 15 ++ leBytes 4 20000)) 0x50000 [1,2,3,4,5,6,7,8,9,10,200,255,1,2,3] } }
def wCodecStreams3 : State := (wCodecStreams2).upd fun d => { d with ls := { d.ls with mem := Memory.write d.ls.mem 0x40000 (leBytes 4 0x40) } }
def wCodecStreams4 : State := (wCodecStreams2).upd fun d => { d with ls := { d.ls with mem := Memory.write (Memory.write d.ls.mem 0x40000 (leBytes 4 0xC0)) 0x50000 [1, 65, 66, 0xC0, 1, 2, 3] } }
def wCodecStreams5 : State := (wCodecStreams2).upd fun d => { d with codec := { d.codec with prog := [(0, { fin := true, outFull := true, consumed := 7 }), (1, { fin := true, produced := 9 })], ctx := [(1, ⟨false, 0, 0, .tokens, []⟩), (2, ⟨false, 0, 0, .tokens, []⟩)] } }
def wCodecStreams6 : State := (wCodecStreams2).upd fun d => { d with ls := { d.ls with mem := Memory.write d.ls.mem 0x40000 (leBytes 4 0x41) } }

theorem test_CodecStreams :
  (let d := (wCodecStreams2).dev; let g := codecDecode (d.lsPeek (d.codecDescAddr 0) 64)
   d.codecPending 0 = true ∧ assoc 0 d.codec.prog = none ∧ d.codecTurn 0 0 = true ∧ g.op = 1 ∧ d.codecInvalid 0 g = false ∧ g.first = true) ∧
  (∃ r ∈ assoc 0 (wCodecStreams5).dev.codec.prog, r.fin = true) := by decide

/-! ### LineStoreAccess -/

def wLineStoreAccess1 : State := stWith fun d => ((d.put F.LUT_BASE_BASE 0x80000).put F.OD_TABLE_BASE_BASE 0x90000)
def wLineStoreAccess2 : State := (wLineStoreAccess1).upd fun d => { (d.put F.LS_BANK_STATUS_STATE 2 0) with ls := { d.ls with mem := Memory.write [] 0 [1,2,3,4,5,6,7,8,9,10,11,12,13,14,15,16,17,18,19] } }
def wLineStoreAccess3 : State := (wLineStoreAccess1).upd fun d => { d with ls := { d.ls with mem := Memory.write [] 0 [1,2,3,4,5,6,7,8,9,10,11,12,13,14,15,16,17,18,19], uncorr := [0, 1] } }
def wLineStoreAccess4 : State := (wLineStoreAccess3).upd fun d => d.put F.DOM_STATUS_STATE 1 domLS

theorem test_LineStoreAccess :
  (wLineStoreAccess1).dev.domOn domLS = true ∧ (wLineStoreAccess1).dev.lsPlain 14 4 = true ∧ (wLineStoreAccess3).dev.domOn domLS = true ∧ (wLineStoreAccess3).dev.get F.LS_BANK_STATUS_STATE 0 = 0 ∧
    (wLineStoreAccess2).dev.get F.LS_BANK_STATUS_STATE 0 = 2 ∧ ((wLineStoreAccess3).dev.lsProtected 0 16).isNone = true ∧ (wLineStoreAccess4).dev.domOn domLS = false := by decide

/-! ### LineStoreBanks -/

def wLineStoreBanks1 : State := stWith fun d => (((d.put F.LS_BANK_CTRL_STATE_REQ 1 1).put F.LS_BANK_STATUS_ENTERING 1 2).put F.LS_BANK_STATUS_STATE 1 3).put F.LS_BANK_STATUS_CHECKING 1 3
def wLineStoreBanks2 : State := stWith fun d => { (((d.put F.LS_BANK_STATUS_CHECKING 1 1).put F.LS_BANK_STATUS_STATE 2 1).put F.LS_BANK_STATUS_ENTERING 1 0) with ls := { d.ls with uncorr := [3], mem := Memory.write [] 0x3FFFE [1,2,3,4,5] } }

theorem test_LineStoreBanks :
  (wLineStoreBanks1).dev.get F.LS_BANK_CTRL_STATE_REQ 1 = 1 ∧ (wLineStoreBanks1).dev.get F.LS_BANK_STATUS_STATE 1 = 0 ∧ (wLineStoreBanks1).dev.on F.LS_BANK_STATUS_ENTERING 2 = true ∧
    (wLineStoreBanks1).dev.get F.LS_BANK_STATUS_STATE 3 = 1 ∧ (wLineStoreBanks1).dev.on F.LS_BANK_STATUS_CHECKING 3 = true ∧ (wLineStoreBanks1).dev.ls.stalled = [] ∧
    (wLineStoreBanks2).dev.ls.uncorr.any (inBank 0) = true ∧ (wLineStoreBanks2).dev.on F.LS_BANK_STATUS_ENTERING 0 = true ∧
    (wLineStoreBanks2).dev.get F.LS_BANK_STATUS_STATE 1 = 2 ∧ (wLineStoreBanks2).dev.on F.LS_BANK_STATUS_CHECKING 1 = true := by decide

/-! ### LineStoreTest -/

def wLineStoreTest1 : State := stWith fun d => { ((d.put F.LS_CTRL_TEST_EN 1).put F.PIPE_CLK_FREQ 500000) with ls := { d.ls with corr := [3, 17], uncorr := [5] } }
def wLineStoreTest2 : State := stWith fun d => { d with ls := { d.ls with region := some 70 } }

theorem test_LineStoreTest :
  (wLineStoreTest1).dev.nextRegion 65 (wLineStoreTest1).dev.ls.regionNext = some 0 ∧ (wLineStoreTest1).dev.on F.LS_CTRL_TEST_EN = true ∧ (wLineStoreTest2).dev.ls.region = some 70 := by decide

/-! ### DramRequests -/

def wDramRequests1 : State := stWith fun d => (d.put F.DRAM_CH_STATUS_STATE 2 0).put F.DRAM_CH_STATUS_STATE 2 7
def wDramRequests2 : State := (wDramRequests1).upd fun d => { (d.put F.LAYER_BASE_BASE 0 1 |>.put F.LAYER_STRIDE_STRIDE 100 1 |>.put F.LAYER_SIZE_SRC_H 100 1) with dram := { d.dram with queue := [(0, ⟨3, 5, 4, none, 1, 1, 0, false⟩), (7, ⟨8, 0x1A4000000, 32, some (List.replicate 32 3), 3, 3, 0, false⟩)], mem := [(3, 7), (6, 9)] } }
def wDramRequests3 : State := (wDramRequests2).upd fun d => { ((d.put F.DRAM_CH_STATUS_LOST 1 0).put F.DRQ_CFG_QUOTA 0 3) with dram := { d.dram with queue := (0, ⟨3, 5, 4, none, 1, 1, 0, false⟩) :: List.replicate 4 (0, ⟨2, 32, 4, some [1,2,3,4], 0, 1, 0, false⟩), uncorr := [0] } }
def wDramRequests4 : State := (wDramRequests2).upd fun d => { (d.put F.DRQ_CFG_CLASS 1 3) with dram := { d.dram with uncorr := [0], corr := [1] } }
def wDramRequests5 : State := (wDramRequests2).upd fun d => { ((d.put F.DRAM_CH_STATUS_STATE 6 0).put F.DRQ_CFG_CLASS 1 3) with dram := { d.dram with queue := [(0, ⟨3, 5, 4, some [1,2,3,4], 2, 1, 0, false⟩)] } }
def wDramRequests6 : State := (wDramRequests2).upd fun d => { d with dram := { d.dram with queue := [(0, ⟨3, 5, 4, some [1,2,3,4], 2, 1, 0, false⟩)], corr := [0] } }
def wDramRequests7 : State := (wDramRequests2).upd fun d => { (d.put F.DRQ_CFG_CLASS 1 3) with dram := { d.dram with queue := [(0, ⟨7, 4, 4, some [1,2,3,4], 2, 3, 0, false⟩), (0, ⟨3, 5, 4, none, 1, 1, 0, false⟩)], tracker := [(0, [⟨0, 5, 3, 1⟩])], uncorr := [9] } }
def wDramRequests8 : State := (wDramRequests2).upd fun d => { (d.put F.DRQ_CFG_CLASS 1 3) with dram := { d.dram with queue := [(0, ⟨7, 0, 32, some (List.replicate 32 8), 2, 3, 0, false⟩), (0, ⟨3, 5, 4, none, 1, 1, 0, false⟩)], uncorr := [0] } }

theorem test_DramRequests :
  (let d := (wDramRequests7).dev; d.dramPick 0 = some (1, ⟨3, 5, 4, none, 1, 1, 0, false⟩)) ∧ (let d := (wDramRequests8).dev; d.dramPick 0 = some (1, ⟨3, 5, 4, none, 1, 1, 0, false⟩) ∧ d.dram.uncorr = [0]) ∧
  (let d := (wDramRequests2).dev; d.dramPick 0 = some (0, ⟨3, 5, 4, none, 1, 1, 0, false⟩) ∧ d.chState 0 = 2 ∧ d.domOn (chDomain 0) = true ∧ d.dramBus 5 = false ∧
     d.dramLost 5 = false ∧ d.dram.atPort = [] ∧ d.guarded 0 4 = true) ∧ (wDramRequests5).dev.dramBus 0 = true ∧ (wDramRequests4).dev.dram.uncorr = [0] ∧
  (wDramRequests3).dev.dramLost 5 = true := by decide

/-! ### DramQuotaAndPanic -/

def wDramQuotaAndPanic1 : State := stWith fun d => { (d.put F.DRAM_CTRL_PANIC_EN 1 |>.put F.DRQ_STATUS_PANIC 1 1 |>.put F.DRQ_CFG_QUOTA 1 3 |>.put F.DRQ_CFG_CLASS 2 3) with dram := { d.dram with panic := true, buckets := [(3, [64, 70000, 1,2,3,4,5,6])], wckFix := [2] } }
def wDramQuotaAndPanic2 : State := stWith fun d => { ((d.put F.DRAM_CTRL_PANIC_EN 1).put F.DRAM_CH_STATUS_POSTPONED 5 3) with dram := { d.dram with wckFix := [2], openRow := [(50, 7), (2, 3)] } }

theorem test_DramQuotaAndPanic :
  (wDramQuotaAndPanic1).dev.panicNow = true ∧ (wDramQuotaAndPanic1).dev.dram.atPort = [] ∧ (wDramQuotaAndPanic2).dev.panicNow = false ∧ (wDramQuotaAndPanic2).dev.get F.DRAM_CH_STATUS_POSTPONED 3 = 5 ∧
    (wDramQuotaAndPanic1).dev.get F.DRAM_CH_STATUS_POSTPONED 0 = 0 := by decide

/-! ### DramUpkeep -/

def wDramUpkeep1 : State := stWith fun d => { ((((d.put F.DRAM_CH_STATUS_STATE 2 0).put F.DRAM_CH_STATUS_STATE 2 7).put F.DRAM_CH_STATUS_STATE 5 3).put F.DRAM_CTRL_SCRUB_EN 1 |>.put F.DRAM_CH_CFG_SR_IDLE 10 0 |>.put F.DRAM_CH_CFG_SR_IDLE 10 7 |>.put F.DRAM_CH_CFG_PASR 0x0F 7 |>.put F.DRAM_CH_STATUS_LOST 0xF0 2) with dram := { d.dram with corr := [0], clearing := [(2, 5), (0, 0)], mem := [(0, 1), (5, 6), (1000, 7)] } }
def wDramUpkeep2 : State := (wDramUpkeep1).upd fun d => { d with dram := { d.dram with uncorr := [0] } }

theorem test_DramUpkeep :
  (wDramUpkeep1).dev.chState 0 = 2 ∧ (wDramUpkeep1).dev.on F.DRAM_CH_CFG_SR_IDLE 0 = true ∧ (wDramUpkeep1).dev.chQueue 0 = [] ∧ (wDramUpkeep1).dev.chState 3 = 5 ∧
    (2, 5) ∈ (wDramUpkeep1).dev.dram.clearing ∧ (wDramUpkeep1).dev.on F.DRAM_CTRL_SCRUB_EN = true ∧ (wDramUpkeep1).dev.dramLost 0 = false ∧ State.reset.dev.chState 0 ≠ 2 ∧
    (stWith fun d => d.put F.DRAM_CTRL_SCRUB_EN 0).dev.on F.DRAM_CTRL_SCRUB_EN = false := by decide

/-! ### GdmaService -/

def wGdmaService1 : State := stWith fun d => ((d.put F.LUT_BASE_BASE 0x80000).put F.OD_TABLE_BASE_BASE 0x90000).put F.GDMA_Q_CFG_SIZE 3 0 |>.put F.GDMA_Q_CFG_BASE 0x4000 0 |>.put F.GDMA_Q_TAIL_TAIL 1 0
def wGdmaService2 : State := (wGdmaService1).upd fun d => { d with ls := { d.ls with mem := Memory.write (Memory.write [] 0x40000 (leBytes 8 (2^63 + 0x50010) ++ leBytes 8 (2^63 + 0x50000) ++ leBytes 4 24 ++ leBytes 4 2)) 0x50000 ((List.range 50).map (BitVec.ofNat 8)) } }
def wGdmaService3 : State := (wGdmaService2).upd fun d => { d with ls := { d.ls with mem := Memory.write d.ls.mem (0x40000 + 20) [3, 0, 0, 0, 1, 2, 3, 4] } }
def wGdmaService4 : State := (wGdmaService2).upd fun d => { d with ls := { d.ls with mem := Memory.write d.ls.mem (0x40000 + 8) [0x20] } }
def wGdmaService5 : State := (wGdmaService2).upd fun d => { d with ls := { d.ls with mem := Memory.write d.ls.mem (0x40000 + 20) [11] } }
def wGdmaService6 : State := (wGdmaService2).upd fun d => { d with gdma := { d.gdma with prog := [(0, ⟨[], 5, some 0⟩), (1, ⟨[], 37, some 4⟩), (2, ⟨[], 1, none⟩)], order := [(0, 0), (1, 0)] } }

theorem test_GdmaService :
  (let d := (wGdmaService2).dev; (∀ k : Fin 4, k ≠ 0 → d.gdmaDue k = false ∧ d.gdmaGoing k = none) ∧ d.held = [] ∧ d.gdmaGoing 0 = none) ∧
  (let d := (wGdmaService2).dev; let g := gdmaDecode (d.lsPeek (d.gdmaDescAddr 0) 32)
   d.gdmaHead 0 ≠ d.gdmaTail 0 ∧ assoc 0 d.gdma.prog = none ∧ d.lsPlain (d.gdmaDescAddr 0) 32 = true ∧ g.fill = false ∧ g.invalid = false ∧
   d.lsPlain g.dst.addr g.len = true ∧ d.lsPlain g.src.addr g.len = true ∧ g.len = 25) ∧
  (let d := (wGdmaService4).dev; (gdmaDecode (d.lsPeek (d.gdmaDescAddr 0) 32)).invalid = true) ∧
  assoc 0 (wGdmaService6).dev.gdma.prog = some ⟨[], 5, some 0⟩ ∧ assoc 1 (wGdmaService6).dev.gdma.prog = some ⟨[], 37, some 4⟩ := by decide

/-! ### DomainsAndStalls -/

def wDomainsAndStalls1 : State := stWith fun d => (d.put F.DOM_CTRL_AUTO 1 8).put F.PAD_HOLD_HELD 5
def wDomainsAndStalls2 : State := stWith fun d => (List.range 80).foldl (fun d k => d.put F.DOM_STATUS_STATE (k % 4) k) (d.put F.VREG_STATUS_POINT 1)
def wDomainsAndStalls3 : State := stWith fun d => (List.range 80).foldl (fun d k => d.put F.DOM_STATUS_STATE 3 k) (d.put F.VREG_STATUS_POINT 0)
def wDomainsAndStalls4 : State := stWith fun d => let d := (List.range 80).foldl (fun d k => d.put F.DOM_STATUS_STATE 2 k) d; { d with pwr := { d.pwr with wakeAfter := [3, 8, 15, 20] } }
def wDomainsAndStalls5 : State := stWith fun d => let d := d.put F.DOM_STATUS_STATE 3 15; { d with pwr := { d.pwr with stalled := [⟨.cp, true, R.BL_BUDGET.at 0, 4, 1 * 2 ^ 16⟩] } }
def wDomainsAndStalls6 : State := stWith fun d => (List.range 80).foldl (fun d k => d.put F.DOM_STATUS_STATE 1 k) (d.put F.PWR_STATE_STATE 2)

theorem test_DomainsAndStalls :
  (let d := (wDomainsAndStalls1).dev; d.on F.DOM_CTRL_AUTO 8 = true ∧ d.get F.DOM_CTRL_REQ 8 ≠ 1 ∧ d.markedOn 8 = false ∧ d.domState 8 = 0 ∧ d.markedOn 5 = true) ∧
  (let d := (wDomainsAndStalls2).dev; d.domState 7 = 3 ∧ d.get F.VREG_STATUS_POINT ≠ 0 ∧ d.pwr.stalled = [] ∧ d.pwr.releaseWait = [] ∧ d.pwrState = 0 ∧ d.domState 2 = 2) ∧
  ((wDomainsAndStalls5).dev.domState 15 = 3 ∧ (wDomainsAndStalls5).dev.pwr.stalled = [⟨.cp, true, R.BL_BUDGET.at 0, 4, (1 : BitVec 16).toNat * 2 ^ 16⟩]) ∧
  ((∀ g < 6, bit (5 : BitVec 6).toNat g = true → (padDomains g).all (wDomainsAndStalls1).dev.domOn = true) ∧ (wDomainsAndStalls1).dev.pwr.onAfterRelease = false) := by decide

/-! ### Regulators -/

def wRegulators1 : State := stWith fun d => d.vregRequest 0 2 .turbo
def wRegulators2 : State := stWith fun d => { (d.vregRequest 0 0 .entry).put F.VREG_STATUS_RETRIES 255 with pwr := { d.pwr with vreqs := [⟨0, 0, true, false, .entry⟩, ⟨1, 1, true, false, .exit⟩, ⟨2, 1, true, true, .exit⟩, ⟨3, 1, false, false, .exit⟩] } }
def wRegulators3 : State := stWith fun d => { d with pwr := { d.pwr with dale800 := true, vreqs := [⟨0, 1, false, false, .nominal⟩] } }.put F.VREG_STATUS_POINT 2

theorem test_Regulators :
  ((wRegulators1).dev.vreq 0 = some ⟨0, 2, false, false, .turbo⟩ ∧ (wRegulators1).dev.vreq 1 = none ∧ (wRegulators1).dev.pwrState = 0) ∧
  ((wRegulators2).dev.vreq 0 = some ⟨0, 0, true, false, .entry⟩ ∧ (wRegulators2).dev.vreq 1 = some ⟨1, 1, true, false, .exit⟩ ∧ (wRegulators2).dev.vreq 2 = some ⟨2, 1, true, true, .exit⟩) ∧
  ((wRegulators3).dev.pwr.dale800 = true ∧ (wRegulators3).dev.get F.VREG_STATUS_POINT = 2) := by decide

/-! ### PowerStates -/

def wPowerStates1 : State := stWith fun d => d.put F.PWR_CFG_HOST_GATE 1
def wPowerStates2 : State := stWith fun d => { d.put F.PWR_STATE_STATE 4 with pwr := { d.pwr with target := 1, captureBad := true, capturing := true } }
def wPowerStates3 : State := stWith fun d => { (List.range 8).foldl (fun d c => d.put F.DRAM_CH_STATUS_STATE 2 c) (((d.put F.FSEQ_STATUS_LADDER_LEVEL 0).put F.PWR_CFG_FALLOW_V_TOTAL 2400).put F.RX_MODE_FALLOW_DELAY 4) with rx := { d.rx with replayFrames := 7 } }
def wPowerStates4 : State := (wPowerStates3).upd fun d => (d.put F.WALL_CTRL_EN 1).put F.WALL_CTRL_ROLE 1
def wPowerStates5 : State := stWith fun d => (d.put F.PWR_STATE_STATE 2)
def wPowerStates6 : State := stWith fun d => (d.put F.PWR_STATE_STATE 3)
def wPowerStates7 : State := stWith fun d => { d.put F.PWR_STATE_STATE 5 with pwr := { d.pwr with captured := true, capturing := true, capNext := d.vActive * d.lineSegs } }
def wPowerStates8 : State := stWith fun d => { d with pwr := { d.pwr with capturing := true, capNext := d.vActive * d.lineSegs } }
def wPowerStates9 : State := stWith fun d => { (List.range 80).foldl (fun d k => d.put F.DOM_STATUS_STATE 1 k) (d.put F.PWR_STATE_STATE 4) with pwr := { d.pwr with target := 1, captured := true } }

theorem test_PowerStates :
  (let d := (wPowerStates3).dev; d.pwrState = 0 ∧ d.inWall = false ∧ d.fallowAllowed = true ∧ d.fallowDue = true ∧ d.chTrained 7 7 = true) ∧
  (let d := (wPowerStates4).dev; d.inWall = true ∧ d.isAlmanac = false ∧ d.ownAddr = some 0 ∧ d.pwrState = 0) ∧
  ((wPowerStates5).dev.pwrState = 2 ∧ (wPowerStates6).dev.pwrState = 3 ∧ (wPowerStates7).dev.pwrState = 5 ∧ (wPowerStates7).dev.inWall = false) ∧
  (let d := (wPowerStates2).dev; d.pwrState = 4 ∧ d.pwr.target = 1 ∧ d.pwr.captured = false ∧ d.pwr.capturing = true ∧ d.pwr.captureBad = true ∧ bit (d.get F.WAKE_EN_SRC) 12 = false) ∧
  (let d := (wPowerStates8).dev; d.pwr.capturing = true ∧ d.pwr.captureBad = false ∧ d.pwr.capNext = d.vActive * d.lineSegs ∧ d.pwrState = 0) ∧
  (let d := (wPowerStates9).dev; d.entryDowns = true ∧ d.pwr.target = 1 ∧ (entryDomains 1).all (fun k => d.domState k == 1) = true ∧ d.pwr.exitAfter = false ∧ d.pwr.heldCmd = none) ∧
  (wPowerStates1).dev.on F.PWR_CFG_HOST_GATE = true := by decide

/-! ### WakesAndHeldWrites -/

def wWakesAndHeldWrites1 : State := stWith fun d => (d.put F.WAKE_EN_SRC 0x3FFF).put F.RX_MODE_AUX_WAKE_EN 1
def wWakesAndHeldWrites2 : State := (wWakesAndHeldWrites1).upd fun d => (d.put F.PWR_STATE_STATE 1).put F.DOM_STATUS_STATE 1 domCORR
def wWakesAndHeldWrites3 : State := (wWakesAndHeldWrites1).upd fun d => { ((((d.put F.PWR_STATE_STATE 2).put F.VIGIL_CFG_THR_EN 15).put F.VIGIL_CFG_HEAT_EN 1).put F.VIGIL_TEMP_HEAT_ON 5) with pwr := { d.pwr with crossings := [1, 0, 0, 2, 0], sensorFails := [2, 0] } }
def wWakesAndHeldWrites4 : State := (wWakesAndHeldWrites1).upd fun d => { d.put F.PWR_STATE_STATE 4 with pwr := { d.pwr with target := 2 } }
def wWakesAndHeldWrites5 : State := (wWakesAndHeldWrites3).upd fun d => d.put F.WALL_CTRL_EN 1
def wWakesAndHeldWrites6 : State := stWith fun d => { (d.put F.LAYER_BASE_BASE 0 1 |>.put F.LAYER_STRIDE_STRIDE 100 1 |>.put F.LAYER_SIZE_SRC_H 100 1 |>.put F.GUARD_CTRL_GUARD_WAIT 2) with held := [⟨.plain 5, 5, [⟨false, 64, [1, 2]⟩], 3⟩] }
def wWakesAndHeldWrites7 : State := stWith fun d => { d with held := [⟨.plain 5, 5, [⟨false, 0x1C0000000, [1, 2]⟩], 0⟩] }
def wWakesAndHeldWrites8 : State := (wWakesAndHeldWrites3).upd fun d => (d.put F.WAKE_EN_SRC 0).put F.VIGIL_CFG_HEAT_EN 0

theorem test_WakesAndHeldWrites :
  (let d := (wWakesAndHeldWrites1).dev; d.get F.WAKE_EN_SRC = 0x3FFF ∧ d.pwrState = 0 ∧ d.portEnabled 0 = true ∧ d.on F.RX_MODE_AUX_WAKE_EN = true) ∧
  (let d := (wWakesAndHeldWrites2).dev; d.inWall = false ∧ d.pwrState = 1 ∧ d.domState domCORR = 1) ∧
  (let d := (wWakesAndHeldWrites3).dev; d.pwrState = 2 ∧ d.inWall = false ∧ bit (d.get F.VIGIL_CFG_THR_EN) 0 = true ∧ nth d.pwr.crossings 0 = 1 ∧ nth d.pwr.sensorFails 0 = 2 ∧
     bit (d.get F.WAKE_EN_SRC) 6 = true ∧ d.on F.VIGIL_CFG_HEAT_EN = true ∧ d.getS F.VIGIL_TEMP_PANEL_HI < 100) ∧
  (let d := (wWakesAndHeldWrites4).dev; d.pwrState = 4 ∧ d.pwr.target ≠ 1 ∧ d.pwr.exitAfter = false) ∧
  (let d := (wWakesAndHeldWrites6).dev; d.guarded 64 2 = true ∧ d.guardWait = 2) ∧ (wWakesAndHeldWrites7).dev.guarded 0x1C0000000 2 = false ∧ (wWakesAndHeldWrites7).dev.overQuota 5 = false ∧
  (wWakesAndHeldWrites7).dev.chRoom (dramChannel 0x1C0000000) ((wWakesAndHeldWrites7).dev.plainReq ⟨false, 0x1C0000000, [1, 2]⟩ 5) = true := by decide

/-! ### InputLinks -/

def wInputLinks1 : State := stWith fun d => d.put F.RX_PORT_STATUS_LANES 2 0 |>.setPort 0 fun s => { s with cr := [0,1,2,3], eq := [0,1,2], sym := [0,1,2], irqWait := true, up := true }
def wInputLinks2 : State := stWith fun d => (d.put F.RX_PORT_STATUS_TRAINED 1 0 |>.put F.RX_PORT_STATUS_HPD_LEVEL 1 0 |>.put F.RX_PORT_STATUS_PR_ACTIVE 1 1 |>.put F.RX_MODE_PORT_MODE 3).setPort 0 fun s => { s with cr := [0,1,2,3], eq := [0,1,2,3], sym := [0,1,2,3], irqWait := true, lost := [1], trainedNow := true, up := true, aligned := true }
def wInputLinks3 : State := stWith fun d => (d.put F.RX_MODE_PORT_MODE 2).setPort 1 fun s => { s with failed := true, trainedNow := true, lost := [2], sym := [2], half := .waiting }
def wInputLinks4 : State := stWith fun d => d.setPort 1 fun s => { s with failed := true, trainedNow := false }

theorem test_InputLinks :
  (let d := (wInputLinks2).dev; (d.port 0).trainedNow = true ∧ (d.port 0).lost = [1] ∧ (d.port 0).failed = false ∧ (d.port 0).irqWait = true ∧
     d.on F.RX_PORT_STATUS_HPD_LEVEL 0 = true ∧ (d.port 0).up = true ∧ d.on F.RX_PORT_STATUS_PR_ACTIVE 0 = false ∧ d.portMode = 3) ∧
  ((wInputLinks1).dev.port 0).trainedNow = false ∧ (let q := (wInputLinks3).dev.port 1; q.failed = true ∧ q.trainedNow = true ∧ q.lost ≠ []) := by decide

/-! ### InputStreams -/

def wInputStreams1 : State := stWith fun d => (d.put F.RX_MODE_PORT_MODE 3).setPort 0 fun s => { s with up := true, accepted := true, trainedNow := true, msa := some ⟨0, 0, 7, 0, 60000, ⟨.rgb, 8, 0⟩, none⟩ }
def wInputStreams2 : State := stWith fun d => (((d.put F.RASTER_H_H_ACTIVE 3840).put F.RASTER_V_V_ACTIVE 2160).put F.RX_PORT_STATUS_LANES 2).put F.RX_PORT_STATUS_RATE 3 |>.setPort 0 fun s => { s with trainedNow := true, edidPtr := 250 }
def wInputStreams3 : State := stWith fun d => (d.put F.DOM_STATUS_STATE 1 2).put F.DOM_STATUS_STATE 2 3
def wInputStreams4 : State := stWith fun d => { (wInputStreams2).dev with rx := { (wInputStreams2).dev.rx with ref := some ⟨4000, 2200, 3840, 2160, 60000, ⟨.rgb, 8, 0⟩, none⟩, edid := [1, 2, 3] } }
def wInputStreams5 : State := (wInputStreams4).upd fun d => ((d.put F.PIPE_CLK_FREQ 600).put F.RX_PORT_STATUS_FEC_ON 1 0).setPort 0 fun s => { s with edidPtr := 0 }

theorem test_InputStreams :
  ((wInputStreams2).dev.port 0).trainedNow = true ∧ ((wInputStreams2).dev.port 0).up = false ∧ (wInputStreams2).dev.rx.ref = none ∧ (wInputStreams2).dev.portEnabled 0 = true ∧
  (wInputStreams4).dev.rx.ref.isSome = true ∧ (wInputStreams3).dev.domOn (domRXA + 0) = false ∧ (wInputStreams3).dev.domState (domRXA + 0) = 1 ∧ (wInputStreams2).dev.domOn (domRXA + 0) = true ∧
  (let m : Msa := ⟨4000, 2200, 3840, 2160, 60000, ⟨.rgb, 8, 0⟩, none⟩; !(wInputStreams2).dev.msaDiffers m && !(wInputStreams2).dev.totalsDiffer m && !(wInputStreams2).dev.msaTooFast 0 m && msaEncodingOk m) = true := by decide

/-! ### InputFrames -/

def wInputFrames1 : State := stWith fun d => (((d.put F.RING_STATUS_WRITING 1).put F.RX_PORT_STATUS_HEALTHY 1 1).put F.RX_MODE_PORT_MODE 0).setPort 0 fun s => { s with up := true, accepted := true, dscRun := 1 }
def wInputFrames2 : State := stWith fun d => (((d.put F.RX_MODE_PORT_MODE 2).put F.COMP_CTRL_L0_BUFFERED 1).setPort 0 fun s => { s with up := true, accepted := true, half := .waiting }).setPort 1 fun s => { s with up := true, accepted := true, dscRun := 3 }
def wInputFrames3 : State := stWith fun d => (((((d.put F.RX_MODE_PORT_MODE 3).put F.FSEQ_STATUS_LADDER_LEVEL 0).put F.COMP_CTRL_L0_BUFFERED 0).put F.RX_PORT_STATUS_HEALTHY 1 1).put F.RX_PORT_STATUS_HEALTHY 1 0).setPort 1 fun s => { s with up := true, accepted := true }
def wInputFrames4 : State := stWith fun d => { d with scan := { d.scan with vrrHold := true } }
def wInputFrames5 : State := (wInputFrames2).upd fun d => d.put F.RING_STATUS_WRITING 1
def wInputFrames6 : State := (wInputFrames3).upd fun d => (d.put F.RX_MODE_PORT_MODE 0)
def wInputFrames7 : State := (wInputFrames2).upd fun d => (d.put F.COMP_CTRL_L0_BUFFERED 0)
def wInputFrames8 : State := (wInputFrames5).upd fun d => ((d.setPort 0 fun s => { s with half := .paired }).setPort 1 fun s => { s with half := .complete, dscBad := false }).put F.RX_PORT_STATUS_PR_ACTIVE 1 0
def wInputFrames9 : State := (wInputFrames2).upd fun d => d.setPort 1 fun s => { s with half := .alone }
def wInputFrames10 : State := (wInputFrames1).upd fun d => (((((((d.put F.RING_STATUS_WRITING 0).put F.RING_STATUS_LATEST_VALID 1).put F.RING_STATUS_LATEST_BUF 0).put F.RING_STATUS_SCAN_VALID 1).put F.RING_STATUS_SCAN_BUF 1).put F.RING_STATUS_PREV_VALID 1).put F.RING_STATUS_PREV_BUF 2)

theorem test_InputFrames :
  (let d := (wInputFrames1).dev; d.acceptsFrames 0 = true ∧ d.portMode = 0 ∧ (d.port 0).dscBad = false ∧ d.on F.RING_STATUS_WRITING (d.ringOf 0) = true) ∧
  (let d := (wInputFrames2).dev; d.acceptsFrames 1 = true ∧ d.portMode = 2 ∧ (d.port 0).half = .waiting ∧ 5 ≤ d.pairLines ∨ d.pairLines = 0) ∧
  (let d := (wInputFrames3).dev; d.portMode = 3 ∧ d.buffered = false ∧ d.level = 0 ∧ d.scan.stopped = false ∧ d.on F.RX_PORT_STATUS_PR_ACTIVE d.activePort = false) ∧
  (let d := (wInputFrames8).dev; d.acceptsFrames 0 = true ∧ (d.port 0).half = .paired ∧ (d.port 1).half = .complete ∧ d.on F.RING_STATUS_WRITING (d.ringOf 0) = true) ∧
  (wInputFrames4).dev.scan.vrrHold = true := by decide

/-! ### LatchAndCommit -/

def wLatchAndCommit1 : State := stWith fun d => d
def wLatchAndCommit2 : State := (wLatchAndCommit1).upd fun d => (d.put F.BOOT_CTRL_LOCK 1).put F.FSEQ_STATUS_COMMIT_PENDING 1
def wLatchAndCommit3 : State := stWith fun d => (List.range 16).foldl (fun d v => (d.put F.DRV_MAP_EN 1 v).put F.DRV_MAP_START_X (96 * v) v) <|
  [(F.BOOT_CTRL_LOCK, 1), (F.FSEQ_STATUS_COMMIT_PENDING, 1), (F.RASTER_H_H_ACTIVE, 1536), (F.RASTER_H_H_TOTAL, 1600), (F.RASTER_V_V_ACTIVE, 2160),
   (F.RASTER_V_V_TOTAL, 2200), (F.PIPE_CLK_FREQ, 100000), (F.LATCH_CTRL_PREFETCH_LINES, 8), (F.RASTER_FLOOR_FLOOR_US, 100000), (F.ZONE_GRID_ZONE_ROWS, 27),
   (F.ZONE_GRID_ZONE_COLS, 16), (F.ZONE_SIZE_ZONE_W, 96), (F.ZONE_SIZE_ZONE_H, 80), (F.DRV_LAYOUT_DRV_PIXELS, 96), (F.COL_CTRL_COL_MULT, 40),
   (F.GATE_CTRL_ROWS, 2160), (F.GATE_CTRL_PHASES, 4), (F.GATE_CTRL_SPAN, 1), (F.OD_TEMP_LO_T1, 256), (F.OD_TEMP_HI_T2, 512), (F.OD_TEMP_HI_T3, 768),
   (F.DEMURA_ANCHOR_A0, 1024), (F.DEMURA_ANCHOR_A1, 2048), (F.DEMURA_ANCHOR_HI_A2, 3072), (F.CORR_CTRL_KSIZE, 1)].foldl (fun d p => d.put p.1 p.2) d
def wLatchAndCommit4 : State := (wLatchAndCommit3).upd fun d => ((d.putShadow F.LAYER_BASE_BASE 5 3).putShadow F.STAT_CTRL_STAT_SRC 2).putShadow F.LAYER_BASE_BASE 77 1
def wLatchAndCommit5 : State := stWith fun d => { ((d.put F.LUT_BASE_BASE 0x80000).put F.OD_TABLE_BASE_BASE 0x90000).put F.STAT_STATUS_LAST_ROW_BUSY 1 with scan := { d.scan with statTail := [(0x10000, [1, 2, 3]), (0x10110, [4])] } }
def wLatchAndCommit6 : State := (wLatchAndCommit2).upd fun d => { d with bl := { d.bl with latched := true }, wall := { d.wall with step := some (5, 40000), stretchLeft := 9 } }
def wLatchAndCommit7 : State := (wLatchAndCommit1).upd fun d => { d with wall := { d.wall with eqx := some { set := 1, f := 9, kind := 0, root := false, need := 0, inScope := true, own := some 0 } } }

theorem test_LatchAndCommit :
  (let d := (wLatchAndCommit1).dev; d.reaches domCOMP (R.FSEQ_COMMIT.at 0) = true ∧ d.eqxHolds = false ∧ d.rasterRuns = false) ∧ (wLatchAndCommit7).dev.eqxHolds = true ∧
  (let d := (wLatchAndCommit2).dev; d.rasterRuns = true ∧ d.scan.compLost = false ∧ d.on F.FSEQ_STATUS_COMMIT_PENDING = true ∧
     ((d.latchBefore 7).put F.FSEQ_STATUS_COMMIT_PENDING 0).failedChecks ≠ []) ∧
  (let d := (wLatchAndCommit3).dev; d.rasterRuns = true ∧ ((d.latchBefore 7).put F.FSEQ_STATUS_COMMIT_PENDING 0).failedChecks = []) ∧
  (let d := (wLatchAndCommit5).dev; d.on F.STAT_STATUS_LAST_ROW_BUSY = true ∧ (∀ r ∈ d.scan.statTail, d.lsPlain r.1 r.2.length = true) ∧
     (d.scan.statTail.map (·.1)).Pairwise (fun a b => a + 272 ≤ b ∨ b + 272 ≤ a) ∧ ∀ r ∈ d.scan.statTail, r.2.length ≤ 272) := by
  have sh : (((wLatchAndCommit3).dev.latchBefore 7).put F.FSEQ_STATUS_COMMIT_PENDING 0).asCommitted = ((wLatchAndCommit3).dev.latchBefore 7).put F.FSEQ_STATUS_COMMIT_PENDING 0 := by
    have h : (((wLatchAndCommit3).dev.latchBefore 7).put F.FSEQ_STATUS_COMMIT_PENDING 0).shadow = (((wLatchAndCommit3).dev.latchBefore 7).put F.FSEQ_STATUS_COMMIT_PENDING 0).active := by
      decide +kernel
    generalize ((wLatchAndCommit3).dev.latchBefore 7).put F.FSEQ_STATUS_COMMIT_PENDING 0 = d at h
    cases d; simp only [Dev.asCommitted, Dev.commitShadows] at *; subst h; rfl
  have job : (((wLatchAndCommit3).dev.latchBefore 7).put F.FSEQ_STATUS_COMMIT_PENDING 0).cfgJob (((wLatchAndCommit3).dev.latchBefore 7).put F.FSEQ_STATUS_COMMIT_PENDING 0) = false := by
    have hm : ∀ d : Dev, ((List.range 4096).any fun z => d.zoneDale z != d.zoneDale z) = false := by
      intro d; rw [List.any_eq_false]; intro z _; simp only [bne_self_eq_false, Bool.false_eq_true, not_false_eq_true]
    unfold Dev.cfgJob
    rw [hm]
    decide +kernel
  have hf : (((wLatchAndCommit3).dev.latchBefore 7).put F.FSEQ_STATUS_COMMIT_PENDING 0).failedChecks = [] := by
    unfold Dev.failedChecks
    rw [sh]
    simp only [job]
    decide +kernel
  refine ⟨by decide, by decide, ⟨by decide, by decide, by decide, ?_⟩, ⟨by decide, hf⟩, by decide⟩
  intro h
  have ht : (((wLatchAndCommit2).dev.latchBefore 7).put F.FSEQ_STATUS_COMMIT_PENDING 0).asCommitted.cfgTiming = true := by decide +kernel
  simp [Dev.failedChecks, ht] at h

/-! ### FrameMoments -/

def wFrameMoments1 : State := stWith fun d => { (((d.put F.BOOT_CTRL_LOCK 1).put F.RING_STATUS_LATEST_VALID 1).put F.FSEQ_STATUS_LADDER_LEVEL 0).put F.RING_STATUS_SCAN_BUF 2 with scan := { d.scan with inFrame := true, lit := true } }
def wFrameMoments2 : State := (wFrameMoments1).upd fun d => { (d.put F.FSEQ_STATUS_LADDER_LEVEL 4).put F.UNDERRUN_STATUS_LAYERS 1 with retiring := [⟨3, 64, []⟩, ⟨4, 640, []⟩], scan := { d.scan with odFrame := true, l0Under := 1 } }
def wFrameMoments3 : State := (wFrameMoments1).upd fun d => { (d.put F.DRIVE_CTRL_OD_EN 1).put F.COMP_CTRL_FALLOW_VALID 1 with pwr := { d.pwr with capturing := true } }
def wFrameMoments4 : State := (wFrameMoments1).upd fun d => { ((d.put F.FSEQ_STATUS_COMMIT_PENDING 1).put F.COL_STATUS_TRAIN_STATE 2).put F.FRAME_COUNT_FRAME 0xFFFFFFFE with col := { d.col with why := .retrain } }

theorem test_FrameMoments :
  ((wFrameMoments4).dev.retraining = true ∧ (wFrameMoments4).dev.on F.FSEQ_STATUS_COMMIT_PENDING = true) ∧
  (let d := (wFrameMoments1).dev; d.rasterRuns = true ∧ d.scan.compLost = false ∧ d.portMode < 2 ∧ d.scan.ringHeld = none ∧ d.level = 0 ∧
     d.on F.RING_STATUS_LATEST_VALID d.activePort = true ∧ d.scan.inFrame = true ∧ d.gate.firstDone = false ∧ d.scan.lit = true) ∧
  (let d := (wFrameMoments2).dev; d.retiring.length = 2 ∧ d.scan.odFrame = true ∧ d.scan.l0Under = 1 ∧ bit (d.get F.UNDERRUN_STATUS_LAYERS) 0 = true) ∧
  (wFrameMoments3).dev.pwr.capturing = true ∧ State.reset.dev.rasterRuns = false ∧ State.reset.dev.scan.inFrame = false := by decide

/-! ### LinesAndBlocks -/

def wLinesAndBlocks1 : State := stWith fun d => ((d.put F.RASTER_H_H_ACTIVE 136).put F.RASTER_V_V_ACTIVE 16).put F.RASTER_V_V_TOTAL 40 |>.put F.LINE_MATCH_MATCH_EN 1 |>.put F.LINE_MATCH_MATCH_LINE 7 |>.put F.ZONE_SIZE_ZONE_W 16 |>.put F.ZONE_SIZE_ZONE_H 8 |>.put F.ZONE_GRID_ZONE_COLS 9 |>.put F.ZONE_GRID_ZONE_ROWS 2 |>.put F.LUT_BASE_BASE 0x80000 |>.put F.OD_TABLE_BASE_BASE 0x90000 |>.put F.LAYER_CTRL_EN 1 0 |>.put F.LAYER_CTRL_EN 1 3 |>.put F.RING_STATUS_SCAN_VALID 1 |>.put F.RING_STATUS_WRITING 1 |>.put F.RING_STATUS_WRITE_BUF 1 |>.put F.RING_BASE_BASE 1000 1 |>.put F.RING_LEN_BASE_BASE 4096 1 |>.put F.FSEQ_STATUS_LADDER_LEVEL 0
def wLinesAndBlocks2 : State := (wLinesAndBlocks1).upd fun d => { (d.put F.UNDERRUN_STATUS_LAYERS 2) with dram := { d.dram with mem := Memory.write [] 0 (BKind.rgb36.encode (List.replicate 128 ⟨100, 2000, 4095⟩) false).block }, ls := { d.ls with mem := Memory.write [] 0 (leBytes 2 (lenEntry (BKind.rgb36.encode (List.replicate 128 ⟨100, 2000, 4095⟩) false).block)) } }
def wLinesAndBlocks3 : State := (wLinesAndBlocks2).upd fun d => { d with scan := { d.scan with off := [(3, 7, 0)], seen := [.lineMatch] } }
def wLinesAndBlocks4 : State := (wLinesAndBlocks1).upd fun d => d.setPort 0 fun p => { p with accepted := true, msa := some ⟨4000, 2200, 136, 16, 60000, ⟨.rgb, 8, 0⟩, none⟩ }
def wLinesAndBlocks5 : State := (wLinesAndBlocks1).upd fun d => d.put F.DRAM_CH_STATUS_STATE 6 0
def wLinesAndBlocks6 : State := (wLinesAndBlocks1).upd fun d => d.put F.RING_STATUS_SCAN_VALID 0
def wLinesAndBlocks7 : State := (wLinesAndBlocks1).upd fun d => { d with dram := { d.dram with mem := Memory.write [] 580 (BKind.rgb36.encode (List.replicate 8 ⟨100, 2000, 4095⟩) false).block }, ls := { d.ls with mem := Memory.write [] 2 (leBytes 2 (lenEntry (BKind.rgb36.encode (List.replicate 8 ⟨100, 2000, 4095⟩) false).block)) } }

theorem test_LinesAndBlocks :
  (let d := (wLinesAndBlocks1).dev; d.pwrState = 0 ∧ d.vActive = 16 ∧ d.lineSegs = 2 ∧ (d.layer 3).en = true ∧ (d.layer 2).en = false ∧ d.level ≠ 4 ∧
     d.on F.LINE_MATCH_MATCH_EN = true ∧ d.get F.LINE_MATCH_MATCH_LINE = 7 ∧ d.on F.RING_STATUS_SCAN_VALID d.scanRing = true ∧ d.on F.RING_STATUS_WRITING (d.ringOf 0) = true ∧
     (d.fetchRing (3 * d.scanRing + d.get F.RING_STATUS_SCAN_BUF d.scanRing) 0 0).2 = .bad ∧ d.on F.RING_STATUS_PREV_VALID d.scanRing = false ∧
     d.dramPlain 64000 580 = true ∧ d.lsPlain 65536 2 = true) ∧
  (wLinesAndBlocks3).dev.layerOff 3 7 5 = true ∧ ((wLinesAndBlocks5).dev.fetchRing 0 0 0).2 = .err ∧
  (match ((wLinesAndBlocks7).dev.fetchRing 0 0 1).2 with | .ok _ => true | _ => false) = true ∧
  (let d := (wLinesAndBlocks4).dev; (d.port 0).accepted = true ∧ (d.port 0).msa.isSome = true) := by decide +kernel

/-! ### PanelSequencer -/

def wPanelSequencer1 : State := stWith fun d => d
def wPanelSequencer2 : State := (wPanelSequencer1).upd fun d => { (((d.put F.PSEQ_ON_ACT 1 0).put F.GPIO_CFG_FUNC 1 0).put F.PSEQ_OFF_ACT 2 0) with pseq := { d.pseq with pfailClear := true } }
def wPanelSequencer3 : State := (wPanelSequencer1).upd fun d => { (d.put F.PSEQ_STATUS_LIST 1).put F.PSEQ_OFF_ACT 5 0 with pseq := { d.pseq with pfailClear := true, wait := .delay, offReq := true } }
def wPanelSequencer4 : State := (wPanelSequencer1).upd fun d => { ((d.put F.PSEQ_STATUS_LIST 1).put F.PSEQ_OFF_ACT 5 0).put F.PSEQ_STATUS_STEP 3 with pseq := { d.pseq with pfailClear := true, wait := .input } }
def wPanelSequencer5 : State := (wPanelSequencer1).upd fun d => { ((d.put F.PSEQ_STATUS_LIST 2).put F.PSEQ_OFF_ACT 6 4).put F.PSEQ_STATUS_STEP 3 with pseq := { d.pseq with pfailClear := true, wait := .delay } }
def wPanelSequencer6 : State := (wPanelSequencer1).upd fun d => { d with pseq := { d.pseq with pfailClear := true } }
def wPanelSequencer7 : State := (wPanelSequencer5).upd fun d => { d with pseq := { d.pseq with wait := .input } }
def wPanelSequencer8 : State := (wPanelSequencer4).upd fun d => { d with pseq := { d.pseq with wait := .delay } }

theorem test_PanelSequencer :
  (let d := (wPanelSequencer2).dev; d.pseqList = 0 ∧ d.pseq.offReq = false ∧ d.pseq.pfailClear = true ∧ d.pseqEntry 1 0 = (1, 0, 0) ∧ d.get F.GPIO_CFG_FUNC 0 = 1 ∧ (d.pseqEntry 2 0).1 = 2) ∧
  (let d := (wPanelSequencer6).dev; d.pseqList = 0 ∧ d.pseq.offReq = false ∧ d.pseq.pfailClear = true ∧ (d.pseqEntry 1 0).1 = 0 ∧ (d.pseqEntry 2 0).1 = 0) ∧
  (let d := (wPanelSequencer3).dev; d.pseq.wait = .delay ∧ d.pseqList = 1 ∧ d.pseq.offReq = true ∧ (d.pseqEntry 2 0).1 = 5 ∧ d.pwrState = 0) ∧
  (let d := (wPanelSequencer4).dev; d.pseq.wait = .input ∧ d.pseqList = 1 ∧ d.pseq.offReq = false ∧ d.pseqIndex = 3 ∧ (d.pseqEntry 1 4).1 = 0) ∧
  (let d := (wPanelSequencer5).dev; d.pseq.wait = .delay ∧ d.pseqList = 2 ∧ d.pseqIndex = 3 ∧ (d.pseqEntry 2 4).1 = 6) := by decide

/-! ### ColumnLanes -/

def wColumnLanes1 : State := stWith fun d => (((d.put F.COL_STATUS_TRAIN_STATE 1).put F.COL_PRESENT_LO_LANES 0x13).put F.DRV_MAP_EN 1 4).put F.COL_FAILED_LO_LANES 2
def wColumnLanes2 : State := (wColumnLanes1).upd fun d => { d.put F.COL_STATUS_TRAIN_STATE 2 with col := { d.col with detect := 5 } }
def wColumnLanes3 : State := (wColumnLanes1).upd fun d => d.put F.COL_STATUS_TRAIN_STATE 3
def wColumnLanes4 : State := (wColumnLanes1).upd fun d => { ((d.put F.COL_STATUS_TRAIN_STATE 5).put F.COL_STATUS_LOCK_N 1).put F.COL_CTRL_RETUNE_EN 1 with col := { d.col with lockLow := true, slotFree := true } }
def wColumnLanes5 : State := (wColumnLanes4).upd fun d => { d with col := { d.col with test := some ⟨3, 0, 50⟩, relockDue := true, prevPacket := true } }
def wColumnLanes6 : State := (wColumnLanes1).upd fun d => d.put F.COL_STATUS_TRAIN_STATE 6
def wColumnLanes7 : State := (wColumnLanes1).upd fun d => { d.put F.COL_STATUS_TRAIN_STATE 7 with col := { d.col with searchTrain := true } }
def wColumnLanes8 : State := (wColumnLanes1).upd fun d => { d.put F.COL_STATUS_TRAIN_STATE 7 with col := { d.col with searchNext := 3, suspects := [0] } }
def wColumnLanes9 : State := (wColumnLanes1).upd fun d => { d with col := { d.col with detect := 4 } }
def wColumnLanes10 : State := (wColumnLanes4).upd fun d => ((d.put F.COL_CTLPKT_LANES_LO_LANES 0x13).setLane .live 4).put F.COL_CTLPKT_HDR_GO 1
def wColumnLanes11 : State := (wColumnLanes2).upd fun d => { d with col := { d.col with lockLow := true } }
def wColumnLanes12 : State := (wColumnLanes1).upd fun d => { d.put F.COL_STATUS_TRAIN_STATE 4 with col := { d.col with config := [0, 4] } }
def wColumnLanes13 : State := (wColumnLanes8).upd fun d => { d with col := { d.col with searchNext := 9 } }
def wColumnLanes14 : State := (wColumnLanes3).upd fun d => { (d.put F.COL_STATUS_LOCK_N 1) with col := { d.col with lockLow := true } }
def wColumnLanes15 : State := (wColumnLanes12).upd fun d => { d with pseq := { d.pseq with wait := .train } }

theorem test_ColumnLanes :
  ((wColumnLanes1).dev.trainState = 1 ∧ (wColumnLanes1).dev.goodLanes = [0, 4] ∧ (wColumnLanes1).dev.drivers = [4] ∧ (wColumnLanes1).dev.laneFailed 1 = true) ∧
  ((wColumnLanes2).dev.trainState = 2 ∧ (wColumnLanes2).dev.col.lockLow = false ∧ (wColumnLanes11).dev.trainState = 2 ∧ (wColumnLanes11).dev.col.lockLow = true) ∧ (wColumnLanes3).dev.trainState = 3 ∧
  (let d := (wColumnLanes4).dev; d.trainState = 5 ∧ d.on F.COL_STATUS_LOCK_N = true ∧ d.col.lockLow = true ∧ d.col.test = none ∧ d.on F.COL_CTRL_RETUNE_EN = true ∧
     d.col.relockDue = false ∧ d.lanePresent 4 = true ∧ d.laneFailed 4 = false ∧ d.on F.COL_CTRL_MLV_MODE = false ∧ d.col.slotFree = true) ∧
  ((wColumnLanes5).dev.col.test ≠ none ∧ (wColumnLanes5).dev.col.relockDue = true) ∧ (wColumnLanes6).dev.trainState = 6 ∧
  ((wColumnLanes7).dev.laneFrom (wColumnLanes7).dev.col.searchNext = some 0 ∧ (wColumnLanes8).dev.laneFrom (wColumnLanes8).dev.col.searchNext = some 4 ∧ (wColumnLanes13).dev.laneFrom (wColumnLanes13).dev.col.searchNext = none) ∧
  (bit ((wColumnLanes10).dev.laneMask F.COL_CTLPKT_LANES_LO_LANES F.COL_CTLPKT_LANES_HI_LANES) 4 = true ∧ (wColumnLanes10).dev.laneDrive 4 = .live ∧ (wColumnLanes10).dev.ctlDue = true) ∧
  ((wColumnLanes12).dev.trainState = 4 ∧ (wColumnLanes12).dev.col.config = [0, 4] ∧ (wColumnLanes12).dev.col.discharge = false ∧ (wColumnLanes12).dev.vActive = 0) ∧
  ((wColumnLanes14).dev.trainState = 3 ∧ (wColumnLanes14).dev.on F.COL_STATUS_LOCK_N = true) := by decide

/-! ### DaleArithmetic -/

def wDaleArithmetic1 : State := stWith fun d => d.setDale 7 fun s => { s with service := true, hart := { pc := 0x100, x := [(1, 0x7FFF8000), (5, 0x80017FFF), (10, 0x00FF0010), (31, 0xFFFF8000)] } }
def wDaleArithmetic2 : State := stWith fun d => d.setDale 255 fun s => { s with job := some ⟨3, 2, 5, 1000, false⟩, hart := { pc := 0x100, x := [(1, 0x12345678), (5, 0xFFFFFFFF), (10, 0x7FFF0010)] } }

theorem test_DaleArithmetic :
  ((wDaleArithmetic1).dev.daleRuns 7 = true ∧ ((wDaleArithmetic1).dev.dale 7).job = none ∧ (wDaleArithmetic2).dev.daleRuns 255 = true ∧ State.reset.dev.daleRuns 7 = false) ∧
  sgn 16 (bits (5 : Word).toNat 15 0) ≤ sgn 16 (bits (0x00090005 : Word).toNat 31 16) := by decide

/-! ### DaleMemory -/

def wDaleMemory1 : State := stWith fun d => ((d.put F.LUT_BASE_BASE 0x80000).put F.OD_TABLE_BASE_BASE 0x90000).setDale 7 fun s => { s with service := true, dmem := Memory.write [] 0 ((List.range 64).map fun i => BitVec.ofNat 8 (37 * i)), hart := { pc := 0x100, x := [(1, 0x10010), (5, 0x10020), (10, 0x10000010), (31, 0x3FC08)] } }
def wDaleMemory2 : State := (wDaleMemory1).upd fun d => d.setDale 255 fun s => { s with job := some ⟨3, 2, 5, 1000, false⟩, dma := [⟨0, 0x10000, 0x20000, 0x40000 + 15, 0, true⟩], dmaErr := [(1, 3), (0, 2)], dmem := Memory.write [] 0 ((List.range 64).map fun i => BitVec.ofNat 8 (91 * i)), hart := { pc := 0x100, x := [(1, 0x10010), (5, 3), (10, 0x7FFF0010)] } }
def wDaleMemory3 : State := (wDaleMemory2).upd fun d => { d with sched := { d.sched with dmaNow := [(63, 255, 0)], dmaLast := [(63, 3)] } }
def wDaleMemory4 : State := (wDaleMemory3).upd fun d => { d with sched := { d.sched with dmaNow := [(63, 255, 3)] } }.setDale 255 fun s => { s with dmaErr := [], dma := [⟨3, 0x10000, 0x20000, 0xC000F, 0, true⟩, ⟨1, 0x10000, 0x20000, 0xC000F, 0, false⟩], hart := { s.hart with x := [(1, 0x10010), (5, 2), (10, 0x7FFF0010)] } }
def wDaleMemory5 : State := (wDaleMemory1).upd fun d => d.setDale 7 fun s => { s with hart := { s.hart with x := [(1, 0x1000000E), (5, 0x12345678), (10, 0x1000000D), (31, 0x3FC08)] } }

theorem test_DaleMemory :
  (let d := (wDaleMemory1).dev; d.daleRuns 7 = true ∧ d.daleReg 7 1 = 0x10010 ∧ inDmem 0x10010 4 = true ∧ inDmem 0x10010 16 = true ∧ d.daleReg 7 10 = 0x10000010 ∧ d.domOn domLS = true ∧
     d.lsPlain 0x10 4 = true ∧ d.on F.SCHED_CTRL_EN = false ∧ (d.dale 7).job = none ∧ (d.dale 7).dma = []) ∧
  (let d := (wDaleMemory3).dev; let q : DmaReq := ⟨0, 0x10000, 0x20000, 0x40000 + 15, 0, true⟩
     d.daleRuns 255 = true ∧ (d.dale 255).dma = [q] ∧ q.bad = false ∧ q.srcSp = 0 ∧ q.dstSp = 1 ∧ d.lsPlain q.dst q.len = true ∧ (d.dale 255).dmaHeld = none ∧ assoc 63 d.sched.dmaNow = some (255, q.tag) ∧
       d.glenPlain 255 q.src q.len = true) ∧
  (DmaReq.mk 3 0x10000 0x20000 0xC000F 0 true).bad = true ∧ ((wDaleMemory4).dev.dale 255).dma.length = 2 := by decide

/-! ### DaleJobs -/

def wDaleJobs1 : State := stWith fun d => (d.put F.DALE_STATUS_STATE 1 7).setDale 7 fun s => { s with service := true, events := 0x12, imem := Memory.write [] 0x100 [0x93, 0x80, 0x10, 0x00], hart := { pc := 0x100, x := [(5, 18), (10, 16), (31, 0x28)] } }
def wDaleJobs2 : State := (wDaleJobs1).upd fun d => d.setDale 255 fun s => { s with job := some ⟨3, 2, 5, 1000, false⟩, hart := { pc := 0x100, x := [(1, 7), (5, 0)] } }
def wDaleJobs3 : State := ((wDaleJobs1).upd fun d => d.setDale 255 fun s => { s with job := some ⟨3, 2, 5, 1000, true⟩ }).upd fun d => { ((((d.put F.JOB_WMASK_LO_MASK 0x12 2).put F.LUT_BASE_BASE 0x80000).put F.OD_TABLE_BASE_BASE 0x90000)) with sched := { d.sched with shared := Memory.write [] (jobBuf 255) ((List.range 64).map fun i => BitVec.ofNat 8 (3 * i)) } }
def wDaleJobs4 : State := (wDaleJobs1).upd fun d => d.setDale 7 fun s => { s with dma := [⟨0, 0x10000, 0x20000, 15, 0, true⟩], ffence := some true }
def wDaleJobs5 : State := (wDaleJobs2).upd fun d => { d with pwr := { d.pwr with stalled := [⟨.dale 255, true, 0x10000000, 4, 7⟩] } }
def wDaleJobs6 : State := (wDaleJobs1).upd fun d => { (d.put F.DALE_CTRL_START_PC 0x100 7).setDale 7 fun s => { s with service := false } with sched := { ((d.put F.DALE_CTRL_START_PC 0x100 7).setDale 7 fun s => { s with service := false }).sched with imemCopy := true }, ls := { d.ls with mem := [(0, 1), (1, 2), (5, 3)] } }
def wDaleJobs7 : State := (wDaleJobs6).upd fun d => d.put F.DOM_STATUS_STATE 1 17

theorem test_DaleJobs :
  (let d := (wDaleJobs1).dev; d.daleRuns 7 = true ∧ inImem (d.dale 7).hart.pc.toNat 4 = true ∧ Memory.read (d.dale 7).imem (d.dale 7).hart.pc.toNat 4 = [0x93, 0x80, 0x10, 0x00] ∧
     (d.dale 7).job = none ∧ (d.dale 7).events &&& (d.daleReg 7 5).toNat ≠ 0 ∧ (d.dale 7).events &&& (d.daleReg 7 31).toNat = 0 ∧ (d.dale 7).ffence = none ∧ d.storesWait 7 = false) ∧
  (let d := (wDaleJobs2).dev; d.daleRuns 255 = true ∧ (d.dale 255).job = some ⟨3, 2, 5, 1000, false⟩ ∧ (d.dale 255).todo = [] ∧ (d.dale 255).dma = [] ∧ d.daleReg 255 5 = 0 ∧ d.daleReg 255 1 = 7) ∧
  (let d := (wDaleJobs3).dev; (d.dale 255).job = some ⟨3, 2, 5, 1000, true⟩ ∧ bit (d.jobMask 2) 1 = true ∧ d.lsPlain (d.granAddr (1 - d.zoneSel 3 2) 3 1) 4 = true) ∧
  (wDaleJobs4).dev.storesWait 7 = false ∧ ((wDaleJobs4).dev.dale 7).ffence = some true ∧ (wDaleJobs5).dev.storesWait 255 = true ∧
  (wDaleJobs6).dev.daleMode 7 = 1 ∧ ((wDaleJobs6).dev.dale 7).service = false ∧ (wDaleJobs6).dev.sched.imemCopy = true ∧ State.reset.dev.daleMode 7 ≠ 1 := by decide

/-! ### CpRestarts -/

def wCpRestarts1 : State := stWith fun d =>
  { d.put F.BOOT_STATUS_STEP 11 with flash := bootImg, cp := { d.cp with fwRuns := true, tcm := [(3, 9), (17, 5), (99, 1)], hart := { pc := 0x08000010, x := [(5, 77)] } }, mbox := [0, 1, 2].foldl (fun b m => Memory.write (Memory.write b (256 * m + 0x11) [0x0F]) (256 * m + 0x80) [1]) [], pwr := { d.pwr with stalled := [⟨.cp, true, 0x40000000, 4, 0⟩, ⟨.dale 5, true, 0x40000000, 4, 0⟩] } }
def wCpRestarts2 : State := (wCpRestarts1).upd fun d => { (d.put F.WDT_CTRL_EN 1) with dram := { d.dram with mem := bootImgAt copyBase }, cp := { d.cp with wdt := 7, restarts := [0, 0] } }
def wCpRestarts3 : State := (wCpRestarts2).upd fun d => { (d.put F.CP_STATUS_HOLD 1) with cp := { d.cp with restarts := [0, 0, 0] } }
def wCpRestarts4 : State := (wCpRestarts2).upd fun d => { d with cp := { d.cp with restarts := [0, 0, 0] } }
def wCpRestarts5 : State := (wCpRestarts2).upd fun d => { d with dram := { d.dram with mem := [] }, flash := [] }

theorem test_CpRestarts :
  ((wCpRestarts1).dev.bootDone = true ∧ (wCpRestarts1).dev.on F.CP_STATUS_HOLD = false ∧ (wCpRestarts1).dev.get F.BOOT_STATUS_STEP ≠ 0 ∧ (wCpRestarts1).dev.mbOpen 2 0x0F = true ∧ (wCpRestarts2).dev.on F.WDT_CTRL_EN = true ∧
    (wCpRestarts3).dev.on F.CP_STATUS_HOLD = true ∧ (wCpRestarts4).dev.cp.restarts.length = 3 ∧ State.reset.dev.bootDone = false) ∧
  ((wCpRestarts2).dev.copyGood = true ∧ (wCpRestarts2).dev.imageCopy.segsOf 3 = [⟨3, 0, 0, 4096, 4, 4, 16⟩] ∧ (wCpRestarts1).dev.copyGood = false) ∧
  (let d := (wCpRestarts1).dev; let m := d.slotImage 0; d.get F.BOOT_STATUS_SLOT = 0 ∧ m.headerBad d.quadBoot (d.slotRoom 0) = none ∧ d.imageBad m = none ∧ m.segsOf 3 = [⟨3, 0, 0, 4096, 4, 4, 16⟩]) ∧
  (wCpRestarts5).dev.copyGood = false ∧ ((wCpRestarts5).dev.slotImage 0).headerBad (wCpRestarts5).dev.quadBoot ((wCpRestarts5).dev.slotRoom 0) ≠ none := by
  refine ⟨by decide +kernel, ⟨?_, by decide +kernel, by decide +kernel⟩, ⟨by decide +kernel, bootImg_headerOk _ (by decide), ?_, by decide +kernel⟩, by decide +kernel⟩
  · have h : (wCpRestarts2).dev.imageCopy.crcOk = true := bootImgAt_crcOk copyBase
    simp only [Dev.copyGood, h]; decide +kernel
  · have h : ((wCpRestarts1).dev.slotImage 0).crcOk = true := bootImg_crcOk
    simp only [Dev.imageBad, h]; decide +kernel

/-! ### CpInstructions -/

def wCpInstructions1 : State := stWith fun d => { (d.put F.LUT_BASE_BASE 0x80000) with cp := { d.cp with fwRuns := true, tcm := Memory.write [] 0x10 [0x93, 0x80, 0x10, 0, 0x73, 0, 0, 0, 5, 6, 7, 0x88], hart := { pc := 0x08000010, x := [(1, 0x08000018), (5, 0x40000000), (10, 0x80000100), (31, 0x22000003)] } } }
def wCpInstructions2 : State := (wCpInstructions1).upd fun d => { (((d.put F.CP_CTRL_DWIN0 1).put F.GUARD_STATUS_ADDR 5)) with cp := { d.cp with hart := { pc := 0x08000014, x := [(1, 0x400), (5, 0xBFFFFFF8), (10, 0x30000000), (31, 0x0807FFFC)], csr := [(0x300, 8), (0x305, 0x08000101)] } } }
def wCpInstructions3 : State := (wCpInstructions2).upd fun d => { ((d.raise Ev.RESTART).putWord R.SYS_INT_EN 0 0xFFFFFFFF).put F.IRQ_MASK_BLOCK 0xFFFFFFF with cp := { d.cp with hart := d.cp.hart.setCsr 0x304 0x880 } }
def wCpInstructions4 : State := (wCpInstructions1).upd fun d => { (d.putWord R.MTIME 0 1000).putWord R.MTIMECMP 0 999 |>.putWord R.MTIMECMP 1 0 with cp := { d.cp with hart := { d.cp.hart with csr := [(0x300, 8), (0x304, 0x80), (0x305, 0x08000100)] } } }
def wCpInstructions5 : State := (wCpInstructions3).upd fun d => d.put F.DOM_STATUS_STATE 1 domCP
def wCpInstructions6 : State := (wCpInstructions1).upd fun d => { d with cp := { d.cp with waiting := true } }
def wCpInstructions7 : State := (wCpInstructions1).upd fun d => { d with tap := { d.tap with halted := true, dpc := 0x08000010 } }
def wCpInstructions8 : State := (wCpInstructions1).upd fun d => { d with tap := { d.tap with dbgLock := true }, cp := { d.cp with hart := { d.cp.hart with pc := 0x08000020 } } }
def wCpInstructions9 : State := (wCpInstructions1).upd fun d => { (d.put F.LAYER_BASE_BASE 0 1 |>.put F.LAYER_STRIDE_STRIDE 100 1 |>.put F.LAYER_SIZE_SRC_H 100 1) with cp := { d.cp with hart := { d.cp.hart with x := [(1, 0x80000140), (5, 0x4000FF00)] } } }

theorem test_CpInstructions :
  (let d := (wCpInstructions1).dev; d.cpRuns = true ∧ d.cp.waiting = false ∧ bit (d.cp.hart.csrWord 0x300).toNat 3 = false ∧ d.cp.hart.pc = 0x08000010 ∧ d.guarded 0x100 4 = false ∧
    d.dramPlain 0x100 4 = true ∧ d.domOn (chDomain (dramChannel 0x100)) = true ∧ d.pwr.stalled = [] ∧ (d.regRead 0x40000000).isSome = true ∧ d.tap.dbgLock = false) ∧
  ((wCpInstructions9).dev.guarded 0x140 4 = true ∧ (wCpInstructions3).dev.irqSummary &&& (wCpInstructions3).dev.get F.IRQ_MASK_BLOCK ≠ 0 ∧ (wCpInstructions3).dev.cpRuns = true ∧ (wCpInstructions5).dev.domState domCP = 1 ∧ (wCpInstructions6).dev.cpRuns = true ∧
    (wCpInstructions4).dev.mtimecmp ≤ (wCpInstructions4).dev.mtime ∧ (wCpInstructions7).dev.tap.halted = true ∧ (wCpInstructions8).dev.tap.dbgLock = true) := by decide +kernel

/-! ### Mailboxes -/

def wMailboxes1 : State := stWith fun d => { ((d.put F.BOOT_STATUS_STEP 11).put F.HOST_INT_EN_EN 3).put F.MGMT_CFG_I3C_EN 1 with mgmt := { d.mgmt with ibiEn := true, grants := [2, 19, 33] }, cp := { d.cp with fwRuns := true }, mbox := Memory.write (Memory.write (Memory.write [] 0x10 [7, 0x03, 0, 0, 1]) 0x110 [9, 0x04, 1, 0, 4, 0, 0, 0x40, 2]) 0x210 [3, 0x10, 0, 0, 0] }
def wMailboxes2 : State := (wMailboxes1).upd fun d => { d with mbox := [0, 1, 2].foldl (fun b m => Memory.write b (256 * m + 0x80) [1]) d.mbox }
def wMailboxes3 : State := (wMailboxes2).upd fun d => { d with mbox := Memory.write (Memory.write (Memory.write (Memory.write (Memory.write d.mbox 0x11 [1, 0, 0, 0]) 0x111 [2, 0, 0, 0, 0, 0, 0]) 0x211 [0x0F]) 0x80 [5]) 0x280 [3] }
def wMailboxes4 : State := (wMailboxes2).upd fun d => { d.put F.PWR_CFG_HOST_GATE 1 with mbox := Memory.write (Memory.write (Memory.write d.mbox 0x11 [0x12]) 0x111 [0x22]) 0x211 [0x11], cp := { d.cp with fwRuns := false } }
def wMailboxes5 : State := (wMailboxes2).upd fun d => { d with mbox := Memory.write (Memory.write (Memory.write d.mbox 0x11 [0x12]) 0x111 [0x22, 0, 0, 0, 0, 0, 0]) 0x211 [0x11] }
def wMailboxes6 : State := (wMailboxes2).upd fun d => { d.put F.PWR_CFG_HOST_GATE 1 with mbox := Memory.write (Memory.write (Memory.write d.mbox 0x11 [0x10]) 0x111 [0x10, 0, 0, 2, 1, 0, 0]) 0x211 [0x12, 0, 0, 5] }
def wMailboxes7 : State := (wMailboxes2).upd fun d => { d with tap := { d.tap with halted := true }, mbox := Memory.write (Memory.write (Memory.write (Memory.write d.mbox 0x80 [0]) 0x11 [0x55]) 0x211 [0x11, 0, 0, 0, 0, 1, 0, 0]) 0x118 [0] }
def wMailboxes8 : State := (wMailboxes5).upd fun d => { d with mbox := Memory.write (Memory.write d.mbox 0x211 [0x11, 0, 0, 0, 0, 1, 0]) 0x111 [4, 1, 0, 0, 0x20, 0, 0, 2] }
def wMailboxes9 : State := (wMailboxes2).upd fun d => (d.put F.BOOT_STATUS_STEP 5).put F.CP_STATUS_HOLD 1
def wMailboxes10 : State := (wMailboxes3).upd fun d => d.put F.BOOT_STATUS_STEP 5
def wMailboxes11 : State := (wMailboxes2).upd fun d => { d with mbox := Memory.write d.mbox 0x211 [0x10, 0, 0, 5] }
def wMailboxes12 : State := (wMailboxes2).upd fun d => { d with mbox := Memory.write d.mbox 0x118 [0] }
def wMailboxes13 : State := (wMailboxes2).upd fun d => { d with mbox := Memory.write d.mbox 0x114 [0xF0, 0xFF, 0, 0x40, 20] }
def wMailboxes14 : State := (wMailboxes7).upd fun d => { d with tap := { d.tap with halted := false } }
def wMailboxes15 : State := (wMailboxes3).upd fun d => { d with mbox := Memory.write d.mbox 0x11 [1, 0, 0, 1] }
def wMailboxes16 : State := (wMailboxes2).upd fun d => { d with mbox := Memory.write (Memory.write d.mbox 0x12 [1]) 0x211 [0x33, 2] }

theorem test_Mailboxes :
  ((wMailboxes2).dev.servesReq 0 0x03 = true ∧ (wMailboxes2).dev.servesReq 1 0x04 = true ∧ (wMailboxes2).dev.servesReq 2 0x10 = true ∧ (wMailboxes5).dev.servesReq 0 0x12 = true ∧ (wMailboxes5).dev.servesReq 1 0x22 = true ∧
    (wMailboxes5).dev.servesReq 2 0x11 = true ∧ (wMailboxes3).dev.mbOpen 0 1 = true ∧ (wMailboxes3).dev.mbOpen 1 2 = true ∧ (wMailboxes1).dev.mbBit 0 0 = false) ∧
  (let d := (wMailboxes2).dev; d.mbLenOf 1 = 1 ∧ leNat (d.mbData 1 1) = 2 ∧ d.mbArgOf 1 % 4 = 0 ∧ d.on F.PWR_CFG_HOST_GATE = false ∧ (wMailboxes10).dev.mbOpen 2 0x0F = true ∧ (wMailboxes10).dev.bootDone = false) ∧
  ((wMailboxes7).dev.mbGet 0 mbOpcode 1 = 0x55 ∧ (wMailboxes7).dev.mbBit 0 0 = false ∧ (wMailboxes6).dev.servesReq 0 0x10 = true ∧ (wMailboxes6).dev.on F.PWR_CFG_HOST_GATE = true) := by decide

/-! ### NvCommands -/

def wNvCommands1 : State := stWith fun d => { ((d.put F.NV_STATUS_BUSY 0).put F.NV_PAGE_PAGE 290) with nv := { d.nv with mem := Memory.write (Memory.write [] (64 * 290) ((List.range 64).map fun i => BitVec.ofNat 8 (i * 37))) (64 * 257) [1, 2, 3, 4, 0, 0, 0, 0, 9, 8, 7, 0, 0, 0, 0, 0, 5, 255, 0, 1, 9], lock := [(3, 60)] }, mgmt := { d.mgmt with grants := [1, 2] } }
def wNvCommands2 : State := (wNvCommands1).upd fun d => (d.put F.NV_PAGE_PAGE 700).put F.NV_BUF_DATA 0x04030201 0
def wNvCommands3 : State := (wNvCommands1).upd fun d => d.put F.NV_PAGE_PAGE 270
def wNvCommands4 : State := (wNvCommands1).upd fun d => { d with nv := { d.nv with refuse := true } }
def wNvCommands5 : State := (wNvCommands1).upd fun d => d.put F.NV_PAGE_PAGE 1120
def wNvCommands6 : State := (wNvCommands1).upd fun d => d.put F.NV_STATUS_BUSY 1

theorem test_NvCommands :
  (let d := (wNvCommands1).dev; d.nv.refuse = false ∧ d.on F.NV_STATUS_BUSY = false ∧ d.nv.saves = [] ∧ d.nv.gap = false ∧ d.nvStage = 0 ∧ d.on F.NV_SRC_USE_LS = false ∧ d.get F.NV_PAGE_PAGE = 290 ∧
    d.nvNat 257 0 8 = 0x04030201 ∧ d.lockLeft 1 0 = 0 ∧ d.lockLeft 1 1 = 60 ∧ d.nvNat 256 0 8 = 0 ∧ d.nvNat 259 18 1 % 2 = 0 ∧ d.nvNat 260 18 1 % 2 = 0) ∧
  ((wNvCommands2).dev.get F.NV_PAGE_PAGE = 700 ∧ (wNvCommands5).dev.get F.NV_PAGE_PAGE = 1120 ∧ (1120 - 608) % 513 = 512 ∧ (wNvCommands3).dev.get F.NV_PAGE_PAGE = 270 ∧ (wNvCommands4).dev.nv.refuse = true ∧ (wNvCommands6).dev.on F.NV_STATUS_BUSY = true) := by decide

/-! ### NvPrograms -/

def wNvPrograms1 : State := stWith fun d => { ((d.put F.NV_STATUS_BUSY 1).put F.NV_STATUS_STAGE 1) with nv := { d.nv with jseq := 200, mem := Memory.write [] (64 * 290) ((List.range 64).map fun i => BitVec.ofNat 8 (i * 37)), op := some ⟨true, [⟨290, (List.range 64).map fun i => BitVec.ofNat 8 (i * 11), false⟩], .done⟩ } }
def wNvPrograms2 : State := (wNvPrograms1).upd fun d => d.nvProgramDone
def wNvPrograms3 : State := (wNvPrograms2).upd fun d => d.nvProgramDone
def wNvPrograms4 : State := (wNvPrograms3).upd fun d => d.nvProgramDone
def wNvPrograms5 : State := stWith fun d => { ((d.put F.NV_STATUS_BUSY 1).put F.NV_STATUS_STAGE 5) with nv := { d.nv with op := some ⟨true, [⟨700, List.replicate 64 7, true⟩, ⟨701, List.replicate 64 9, true⟩], .done⟩ } }
def wNvPrograms6 : State := (wNvPrograms5).upd fun d => d.nvProgramDone
def wNvPrograms7 : State := (wNvPrograms6).upd fun d => d.nvSpanGap
def wNvPrograms8 : State := stWith fun d => { ((d.put F.NV_STATUS_BUSY 1).put F.NV_STATUS_STAGE 6) with nv := { d.nv with burst := some [(280, List.replicate 64 7)] } }
def wNvPrograms9 : State := stWith fun d => { ((d.put F.NV_STATUS_BUSY 0).put F.NV_CTRL_REFRESH_EN 1) with nv := { d.nv with lock := [(3, 60), (6, 11), (5, 1), (9, 20)], refreshNext := 4095 } }
def wNvPrograms10 : State := (wNvPrograms9).upd fun d => { d with nv := { d.nv with refreshNext := 700 } }

theorem test_NvPrograms :
  (let d := (wNvPrograms1).dev; d.nvStage = 1 ∧ d.mgmt.nvJob = none ∧ d.nv.op.isSome = true ∧ d.nv.burst = none) ∧ ((wNvPrograms2).dev.nvStage = 2 ∧ (wNvPrograms3).dev.nvStage = 3 ∧ (wNvPrograms4).dev.nvStage = 4) ∧
  ((wNvPrograms5).dev.nvStage = 5 ∧ (wNvPrograms6).dev.nv.gap = true ∧ (wNvPrograms8).dev.nvStage = 6 ∧ (wNvPrograms9).dev.on F.NV_CTRL_REFRESH_EN = true ∧ ((wNvPrograms9).dev.nv.lock.map (·.1)).Nodup ∧ (wNvPrograms10).dev.nv.refreshQ = []) := by decide +kernel

/-! ### CompatPages -/


theorem test_CompatPages :
  ([1, 2, 3, 4, 5, 6, 7, 8, 9, 10, 11, 12, 13, 14] : List Byte).length = 14 := by decide

/-! ### TapAndFuses -/

def wTapAndFuses1 : State := stWith fun d => { d with tap := { d.tap with dmActive := true, halted := true, data := 99, resumeAck := true, sbcs := 0x00050000, sbaddr := 0x08000010 }, cp := { d.cp with tcm := [(16, 5), (20, 9)], hart := { pc := 0x08000004, x := [(5, 77)] } } }
def wTapAndFuses2 : State := (wTapAndFuses1).upd fun d => { d with tap := { d.tap with halted := false, cmdErr := 3, sbaddr := 0x08000011, sbcs := 0x40000 } }
def wTapAndFuses3 : State := (wTapAndFuses1).upd fun d => { (d.put F.BOOT_STATUS_STEP 15).putWord R.KEY_FUSE 2 0x55 with tap := { d.tap with dbgLock := true } }
def wTapAndFuses4 : State := (wTapAndFuses1).upd fun d => { d with tap := { d.tap with halted := false } }

theorem test_TapAndFuses :
  ((wTapAndFuses1).dev.tap.dbgLock = false ∧ (wTapAndFuses1).dev.tap.dmActive = true ∧ (wTapAndFuses1).dev.tap.halted = true ∧ (wTapAndFuses1).dev.tap.cmdErr = 0 ∧ (wTapAndFuses1).dev.tap.sbErr = 0 ∧ bits (wTapAndFuses1).dev.tap.sbcs.toNat 19 17 = 2) ∧
  ((wTapAndFuses2).dev.tap.cmdErr ≠ 0 ∧ (wTapAndFuses3).dev.tap.dbgLock = true ∧ (wTapAndFuses3).dev.get F.BOOT_STATUS_STEP = 15 ∧ (wTapAndFuses4).dev.tap.halted = false ∧ State.reset.dev.tap.dmActive = false) := by decide

/-! ### StoreAndImageRequests -/

def wStoreAndImageRequests1 : State := stWith fun d => { (d.put F.BOOT_STATUS_STEP 11).put F.NV_STATUS_BUSY 0 with cp := { d.cp with fwRuns := true }, mbox := ([(0, [7, 0x20, 8, 0, 1, 0, 0, 0, 5]), (0x70, [1]), (0x100, [9, 0x23, 0, 0, 3, 0, 0, 4]), (0x170, [1]), (0x200, [3, 0x30, 0, 0, 8, 0x10]), (0x270, [1])] : List (Nat × List Byte)).foldl (fun b (x : Nat × List Byte) => Memory.write b (0x10 + x.1) x.2) [], mgmt := { d.mgmt with grants := [3, 16 + 8, 32 + 7, 32 + 8 + 1] }, nv := { d.nv with mem := Memory.write (Memory.write [] (64 * 2663) [1, 2, 3]) (64 * 257) [0, 0, 0, 0, 0, 0, 0, 0, 9], lock := [(3, 60)] } }
def wStoreAndImageRequests2 : State := (wStoreAndImageRequests1).upd fun d => { d with mbox := ([(0x11, [0x20, 8, 0, 1, 1]), (0x111, [0x21, 8, 0, 4, 1, 0, 0]), (0x211, [0x24, 64, 0, 5, 0, 0, 4])] : List (Nat × List Byte)).foldl (fun b (x : Nat × List Byte) => Memory.write b x.1 x.2) d.mbox }
def wStoreAndImageRequests3 : State := (wStoreAndImageRequests2).upd fun d => { d with nv := { d.nv with lock := [] }, mgmt := { d.mgmt with grants := [16 + 9, 32 + 9] } }
def wStoreAndImageRequests4 : State := (wStoreAndImageRequests3).upd fun d => { d with nv := { d.nv with op := some ⟨true, [], .done⟩ } }.put F.NV_STATUS_BUSY 1
def wStoreAndImageRequests5 : State := (wStoreAndImageRequests1).upd fun d => { d with mgmt := { d.mgmt with imgOwner := some 1, imgLen := 0x1008, imgGot := 0x1008, imgBase := 0x1B0000000 }, dram := { d.dram with mem := bootImgAt 0x1B0000000 }, mbox := ([(0x11, [0x31, 8, 0, 8, 0x10]), (0x111, [0x32, 0, 0, 0, 0, 0, 0]), (0x211, [0x33, 0, 0, 5, 0, 0, 4])] : List (Nat × List Byte)).foldl (fun b (x : Nat × List Byte) => Memory.write b x.1 x.2) d.mbox }
def wStoreAndImageRequests6 : State := (wStoreAndImageRequests5).upd fun d => { d with mgmt := { d.mgmt with imgOwner := some 0, imgGot := 0x1000 }, mbox := ([(0x11, [0x31, 8, 0, 0, 0x10]), (0x18, [1, 2, 3, 4, 5, 6, 7, 8])] : List (Nat × List Byte)).foldl (fun b (x : Nat × List Byte) => Memory.write b x.1 x.2) d.mbox }
def wStoreAndImageRequests7 : State := (wStoreAndImageRequests5).upd fun d => { d with mgmt := { d.mgmt with imgOwner := some 2, imgSlot := some 1 } }
def wStoreAndImageRequests8 : State := (wStoreAndImageRequests7).upd fun d => { d with mgmt := { d.mgmt with imgSlot := none } }
def wStoreAndImageRequests9 : State := (wStoreAndImageRequests7).upd fun d => { d with mbox := Memory.write d.mbox 0x214 [0, 0, 0, 0xFF] }
def wStoreAndImageRequests10 : State := (wStoreAndImageRequests5).upd fun d => { d with mgmt := { d.mgmt with imgOwner := none } }
def wStoreAndImageRequests11 : State := (wStoreAndImageRequests5).upd fun d => { d with mbox := Memory.write d.mbox 0x111 [0x31] }
def wStoreAndImageRequests12 : State := (wStoreAndImageRequests5).upd fun d => { d with mgmt := { d.mgmt with imgGot := 0x1004 } }
def wStoreAndImageRequests13 : State := (wStoreAndImageRequests2).upd fun d => { d with mbox := ([(0x11, [0x20, 9]), (0x111, [0x23, 0, 0, 4, 1]), (0x211, [0x24, 64, 0, 5, 0, 0, 0])] : List (Nat × List Byte)).foldl (fun b (x : Nat × List Byte) => Memory.write b x.1 x.2) d.mbox }
def wStoreAndImageRequests14 : State := (wStoreAndImageRequests2).upd fun d => { d with mbox := ([(0x11, [0x23, 0, 0, 5, 0, 0, 0]), (0x111, [0x21, 9]), (0x211, [0x21, 8, 0, 3, 0, 0, 0])] : List (Nat × List Byte)).foldl (fun b (x : Nat × List Byte) => Memory.write b x.1 x.2) d.mbox }
def wStoreAndImageRequests15 : State := (wStoreAndImageRequests10).upd fun d => { d with mbox := ([(0x11, [0x30, 0, 0, 9, 0x10]), (0x111, [0x33]), (0x211, [0x31])] : List (Nat × List Byte)).foldl (fun b (x : Nat × List Byte) => Memory.write b x.1 x.2) d.mbox }
def wStoreAndImageRequests16 : State := (wStoreAndImageRequests14).upd fun d => { d with mbox := ([(0x11, [0x24, 64, 0, 5, 0, 0, 3])] : List (Nat × List Byte)).foldl (fun b (x : Nat × List Byte) => Memory.write b x.1 x.2) d.mbox }
def wStoreAndImageRequests17 : State := (wStoreAndImageRequests7).upd fun d => { d with mgmt := { d.mgmt with imgLost := [0, 1] } }
def wStoreAndImageRequests18 : State := (wStoreAndImageRequests1).upd fun d => { d with mgmt := { d.mgmt with imgOwner := some 1 } }
def wStoreAndImageRequests19 : State := (wStoreAndImageRequests7).upd fun d => { d with mgmt := { d.mgmt with imgOwner := some 0, imgLost := [2, 1] } }

theorem test_StoreAndImageRequests :
  (let d := (wStoreAndImageRequests1).dev; d.servesReq 0 0x20 = true ∧ d.servesReq 1 0x23 = true ∧ d.servesReq 2 0x30 = true ∧ d.granted 1 4 0 = true ∧ d.mbArgOf 2 = 0x1008 ∧ d.nvNat 257 0 8 = 0 ∧ d.mbLenOf 0 = 8 ∧
    d.on F.NV_STATUS_BUSY = false ∧ d.mgmt.nvJob = none ∧ d.nvStage = 0 ∧ 0x1008 ≤ d.slotRoom 1) ∧
  ((wStoreAndImageRequests2).dev.lockLeft 1 1 = 60 ∧ (wStoreAndImageRequests3).dev.servesReq 1 0x21 = true ∧ (wStoreAndImageRequests3).dev.granted 1 4 1 = true ∧ (wStoreAndImageRequests3).dev.servesReq 2 0x24 = true ∧ (wStoreAndImageRequests3).dev.granted 2 4 1 = true) ∧
  ((wStoreAndImageRequests6).dev.servesReq 0 0x31 = true ∧ (wStoreAndImageRequests6).dev.dramPlain 0x1B0001000 8 = true ∧ (wStoreAndImageRequests7).dev.servesReq 2 0x33 = true ∧ (wStoreAndImageRequests5).dev.servesReq 1 0x32 = true ∧ (wStoreAndImageRequests10).dev.mgmt.imgOwner = none) ∧ (wStoreAndImageRequests5).dev.imgGood = true := by
  refine ⟨by decide +kernel, by decide +kernel, by decide +kernel, ?_⟩
  have e : (wStoreAndImageRequests5).dev.imgStaged = ⟨bootImgAt 0x1B0000000, 0x1B0000000⟩ := rfl
  have c : (wStoreAndImageRequests5).dev.imageBad ⟨bootImgAt 0x1B0000000, 0x1B0000000⟩ = none := by
    simp only [Dev.imageBad, bootImgAt_crcOk]; decide +kernel
  have h : ImgAt.headerBad ⟨bootImgAt 0x1B0000000, 0x1B0000000⟩ (wStoreAndImageRequests5).dev.quadBoot ((wStoreAndImageRequests5).dev.slotRoom (wStoreAndImageRequests5).dev.spareSlot) = none := by
    rw [bootImgAt_headerBad]; exact bootImg_headerOk _ (by decide +kernel)
  simp only [Dev.imgGood, e, c, h, ImgAt.len, ImgAt.seq, bootImgAt_num]; decide +kernel

/-! ### ManagementPort -/

def wManagementPort1 : State := stWith fun d => { (d.put F.MGMT_CFG_ADDR 8).put F.MGMT_CFG_I3C_EN 1 with mgmt := { d.mgmt with dyn := some 5, ptr := 250, ibiEn := true } }
def wManagementPort2 : State := (wManagementPort1).upd fun d => { (d.put F.NV_STATUS_PROG 1) with mgmt := { d.mgmt with ibiEn := false } }
def wManagementPort3 : State := (wManagementPort1).upd fun d => { d.putWord R.HOST_EVENT 0 0x3F with mgmt := { d.mgmt with dyn := none }, mbox := [(0x290, 1)] }
def wManagementPort4 : State := (wManagementPort2).upd fun d => { d with mgmt := { d.mgmt with dyn := none } }
def wManagementPort5 : State := stWith fun d => { d.put F.MGMT_CFG_ADDR 8 with mbox := [(0x220, 7)] }
def wManagementPort6 : State := (wManagementPort5).upd fun d => d.mbSet 2 0 true

theorem test_ManagementPort :
  ((wManagementPort1).dev.on F.MGMT_CFG_I3C_EN = true ∧ (wManagementPort1).dev.mgmt.dyn = some 5 ∧ (wManagementPort1).dev.get F.MGMT_CFG_ADDR = 8 ∧ (wManagementPort1).dev.on F.NV_STATUS_PROG = false ∧ (wManagementPort2).dev.on F.NV_STATUS_PROG = true ∧
    (wManagementPort3).dev.mgmt.dyn = none ∧ (wManagementPort4).dev.mgmt.dyn = none ∧ (wManagementPort5).dev.on F.MGMT_CFG_I3C_EN = false ∧ (wManagementPort6).dev.mbBit 2 0 = true ∧ (wManagementPort5).dev.mbBit 2 0 = false) := by decide

/-! ### ResetAndBoot -/

def wResetAndBoot1 : State := stWith fun d => { (d.put F.CAL_SEC_SEC 77).putWord R.KEY_FUSE 3 5 with flash := bootImg, nv := { d.nv with mem := [(64 * 290 + 5, 9), (64 * 300, 1)] }, tap := { d.tap with data := 5, ir := 2, dr := 9 } }
def wResetAndBoot2 : State := (wResetAndBoot1).upd fun d => { ((d.put F.NV_STATUS_STAGE 3).put F.BOOT_STATUS_STEP 2) with flash := bootImgAt 0x2000000, nv := { d.nv with op := some ⟨true, [⟨290, List.replicate 64 7, false⟩], .done⟩ }, boot := { d.boot with cand := 1, first := some 1 } }
def wResetAndBoot3 : State := (wResetAndBoot1).upd fun d => { d with nv := { d.nv with mem := Memory.write (Memory.write d.nv.mem (128 * 5) (List.replicate 64 3)) (128 * 5 + 64) (jrnlHeader 290 5 (List.replicate 64 3)) } }
def wResetAndBoot4 : State := (wResetAndBoot3).upd fun d => { d with nv := { d.nv with mem := Memory.write d.nv.mem (128 * 5) [9] } }
def wResetAndBoot5 : State := (wResetAndBoot3).upd fun d => { d with nv := { d.nv with mem := Memory.write d.nv.mem (128 * 5 + 80) (jrnlMarker 1 290 5) } }
def wResetAndBoot6 : State := (wResetAndBoot1).upd fun d => { (d.put F.BOOT_STATUS_STEP 15).put F.BOOT_STATUS_STRAPS 2 with flash := bootImg ++ bootImgAt 0x2000000, nv := { d.nv with recovered := true } }
def wResetAndBoot7 : State := (wResetAndBoot1).upd fun d => { (d.each (List.range 8) fun d ch => d.put F.DRAM_CH_STATUS_STATE 1 ch).put F.BOOT_STATUS_STEP 2 with boot := { d.boot with cand := 0, first := some 0 } }
def wResetAndBoot8 : State := (wResetAndBoot7).upd fun d => { d with flash := Memory.set d.flash 4097 0 }
def wResetAndBoot9 : State := (wResetAndBoot7).upd fun d => (List.range 16).foldl (fun d v => (d.put F.DRV_MAP_EN 1 v).put F.DRV_MAP_START_X (96 * v) v) <|
  [(F.RASTER_H_H_ACTIVE, 1536), (F.RASTER_H_H_TOTAL, 1600), (F.RASTER_V_V_ACTIVE, 2160),
   (F.RASTER_V_V_TOTAL, 2200), (F.PIPE_CLK_FREQ, 100000), (F.LATCH_CTRL_PREFETCH_LINES, 8), (F.RASTER_FLOOR_FLOOR_US, 100000), (F.ZONE_GRID_ZONE_ROWS, 27),
   (F.ZONE_GRID_ZONE_COLS, 16), (F.ZONE_SIZE_ZONE_W, 96), (F.ZONE_SIZE_ZONE_H, 80), (F.DRV_LAYOUT_DRV_PIXELS, 96), (F.COL_CTRL_COL_MULT, 40),
   (F.GATE_CTRL_ROWS, 2160), (F.GATE_CTRL_PHASES, 4), (F.GATE_CTRL_SPAN, 1), (F.OD_TEMP_LO_T1, 256), (F.OD_TEMP_HI_T2, 512), (F.OD_TEMP_HI_T3, 768),
   (F.DEMURA_ANCHOR_A0, 1024), (F.DEMURA_ANCHOR_A1, 2048), (F.DEMURA_ANCHOR_HI_A2, 3072), (F.CORR_CTRL_KSIZE, 1)].foldl (fun d p => d.put p.1 p.2) d
def wResetAndBoot10 : State := (wResetAndBoot1).upd fun d => (d.put F.BOOT_STATUS_STEP 8).put F.BOOT_CTRL_LOCK 1
def wResetAndBoot11 : State := (wResetAndBoot10).upd fun d => { d.put F.WALL_CTRL_ROLE 1 with boot := { d.boot with stopped := false } }
def wResetAndBoot12 : State := (wResetAndBoot10).upd fun d => { d with boot := { d.boot with waitEnum := true } }
def wResetAndBoot13 : State := (wResetAndBoot2).upd fun d => d.put F.BOOT_STATUS_STRAPS 2
def wResetAndBoot14 : State := (wResetAndBoot10).upd fun d => d.put F.PSEQ_ON_ACT 1 0

set_option maxRecDepth 4000 in
theorem test_ResetAndBoot :
  (let d := (wResetAndBoot1).dev; d.nv.recovered = false ∧ d.get F.BOOT_STATUS_STEP = 0 ∧ d.boot.failed = [] ∧ d.nvStage = 0 ∧ d.jrnlTop = none) ∧
  ((wResetAndBoot2).dev.nvStage = 3 ∧ (wResetAndBoot2).dev.quadBoot = false ∧ (wResetAndBoot2).dev.boot.cand = 1 ∧ (wResetAndBoot13).dev.quadBoot = true ∧ (wResetAndBoot6).dev.nv.recovered = true ∧ (wResetAndBoot6).dev.get F.BOOT_STATUS_STEP = 15) ∧
  ((wResetAndBoot3).dev.jrnlTop = some (5, 290, 5, crc16 (List.replicate 64 3)) ∧ (wResetAndBoot3).dev.markerComplete 5 290 5 = false ∧ (wResetAndBoot5).dev.markerComplete 5 290 5 = true ∧
    crc16 ((wResetAndBoot3).dev.nvPage 10) = crc16 (List.replicate 64 3) ∧ crc16 ((wResetAndBoot4).dev.nvPage 10) ≠ crc16 (List.replicate 64 3) ∧ (wResetAndBoot4).dev.jrnlTop = some (5, 290, 5, crc16 (List.replicate 64 3))) ∧
  ((wResetAndBoot7).dev.get F.BOOT_STATUS_STEP = 2 ∧ (wResetAndBoot7).dev.chState 7 = 1 ∧ (wResetAndBoot10).dev.on F.BOOT_CTRL_LOCK = true ∧ (wResetAndBoot10).dev.boot.waitEnum = false ∧ (wResetAndBoot12).dev.boot.waitEnum = true) ∧
  (((wResetAndBoot7).dev.slotImage 0).headerBad (wResetAndBoot7).dev.quadBoot ((wResetAndBoot7).dev.slotRoom 0) = none) := by
  refine ⟨by decide +kernel, by decide +kernel, by decide +kernel, by decide +kernel, ?_⟩
  have h : (wResetAndBoot7).dev.slotImage 0 = ⟨bootImg, 0⟩ := rfl
  rw [h]; exact bootImg_headerOk _ (by decide +kernel)

/-! ### PowerFailAndFlash -/

def wPowerFailAndFlash1 : State := stWith fun d => { ((((d.put F.BOOT_STATUS_STEP 11).put F.XSPI_CMD_ADDR_LEN 4).put F.XSPI_LEN_LEN 6).put F.XSPI_BUF_BUF 5).put F.XSPI_ADDR_ADDR 100 with flash := [(99, 1), (101, 7), (103, 9), (107, 4)], ls := { d.ls with mem := [(80, 3), (86, 5), (87, 6)] }, log := { d.log with started := true } }
def wPowerFailAndFlash2 : State := (wPowerFailAndFlash1).upd fun d => ((d.put F.LUT_BASE_BASE 0x80000).put F.OD_TABLE_BASE_BASE 0x90000)
def wPowerFailAndFlash3 : State := (wPowerFailAndFlash2).upd fun d => { ((d.put F.XSPI_CMD_GO 1).put F.XSPI_CMD_MODE 2).put F.PSEQ_STATUS_LIST 2 with nv := { d.nv with refuse := true } }
def wPowerFailAndFlash4 : State := (wPowerFailAndFlash2).upd fun d => { ((d.put F.BOOT_STATUS_STEP 5).put F.NV_STATUS_STAGE 1) with nv := { d.nv with op := some ⟨true, [⟨290, List.replicate 64 7, false⟩], .done⟩ } }
def wPowerFailAndFlash5 : State := (wPowerFailAndFlash4).upd fun d => (d.put F.NV_STATUS_STAGE 3)
def wPowerFailAndFlash6 : State := (wPowerFailAndFlash1).upd fun d => d.put F.XSPI_CMD_ADDR_LEN 0
def wPowerFailAndFlash7 : State := (wPowerFailAndFlash4).upd fun d => { d.put F.BOOT_STATUS_STEP 9 with boot := { d.boot with stopped := true } }
def wPowerFailAndFlash8 : State := (wPowerFailAndFlash7).upd fun d => d.put F.PSEQ_PF_ACT 1 0

theorem test_PowerFailAndFlash :
  (let d := (wPowerFailAndFlash2).dev; d.get F.BOOT_STATUS_STEP = 11 ∧ d.get F.XSPI_CMD_ADDR_LEN = 4 ∧ d.domOn domLS = true ∧ d.lsPlain 80 7 = true ∧ d.mgmt.nvJob = none ∧ d.nv.burst = none) ∧
  ((wPowerFailAndFlash3).dev.on F.XSPI_CMD_GO = true ∧ (wPowerFailAndFlash3).dev.xspi.waits = false ∧ (wPowerFailAndFlash3).dev.get F.XSPI_CMD_MODE = 2 ∧ (wPowerFailAndFlash3).dev.get F.XSPI_CMD_DIR = 0 ∧ (wPowerFailAndFlash4).dev.nvStage = 1 ∧ (wPowerFailAndFlash5).dev.nvStage = 3 ∧ (wPowerFailAndFlash7).dev.boot.stopped = true) := by decide

/-! ### WallPorts -/

def wWallPorts1 : State := stWith fun d => { ((d.put F.WALL_CTRL_EN 1).put F.WALL_CTRL_PORT_EN 7).put F.WALL_STATUS_STATE 3 with wall := { d.wall with upstream := some 0, root := some 3, ports := [(0, { up := true, good := 40, beacon := some (2, 3, 1), lseq := 9, unacked := [(7, ⟨0x30, 5, 6, [1]⟩), (8, ⟨0x30, 5, 6, [2]⟩)], backlog := [⟨0x30, 5, 6, [3]⟩], dreq := some (0, 0) }), (1, { good := 31, peer := 20, signal := true }), (2, { up := true, child := true, learned := [5, 9], unacked := [(1, ⟨0x30, 5, 6, [1]⟩)], resent := 3, dreq := some (7, 0), delays := [4, 5, 6, 7, 8] })] } }
def wWallPorts2 : State := (wWallPorts1).upd fun d => { ((d.put F.WALL_CTRL_DEPUTY 1).put F.WALL_ADDR_VALID 1).put F.WALL_STATUS_EPOCH 255 with wall := { d.wall with ports := d.wall.ports ++ [(3, { up := true, beacon := some (255, 3, 2) })] } }
def wWallPorts3 : State := (wWallPorts1).upd fun d => { (d.put F.WALL_STATUS_STATE 5).put F.WALL_STATUS_HOPS 0 with wall := { d.wall with upstream := none, members := [5, 6, 9] } }

theorem test_WallPorts :
  (let d := (wWallPorts1).dev; d.wallPortOn 1 = true ∧ (d.wp 1).up = false ∧ d.pwrState = 0 ∧ d.wallPortOn 3 = false ∧ d.wall.upstream = some 0 ∧ d.isAlmanac = false ∧ (d.wp 2).resent = 3 ∧ (d.wp 0).resent = 0 ∧
    d.wallState = 3 ∧ (d.wp 2).dreq = some (7, 0) ∧ (d.wp 0).fenced = false) ∧ ((wWallPorts3).dev.isAlmanac = true ∧ (wWallPorts3).dev.wall.root = some 3 ∧ (wWallPorts3).dev.get F.WALL_STATUS_HOPS ≠ 0xF ∧ (wWallPorts2).dev.on F.WALL_CTRL_DEPUTY = true) := by decide

/-! ### WallTiming -/

def wWallTiming1 : State := stWith fun d => { (((d.put F.WALL_CTRL_EN 1).put F.WALL_CTRL_PORT_EN 7).put F.WALL_STATUS_STATE 2).put F.WALL_STATUS_EPOCH 5 with wall := { d.wall with upstream := some 0, root := some 3, timing := some true, near := 15, ports := [(0, { up := true, delays := [4, 5, 6], beacon := some (5, 3, 1) }), (1, { up := true })] } }
def wWallTiming2 : State := (wWallTiming1).upd fun d => { d.put F.WALL_STATUS_STATE 3 with wall := { d.wall with far := 3 } }
def wWallTiming3 : State := (wWallTiming1).upd fun d => { d.put F.WALL_STATUS_STATE 1 with wall := { d.wall with upstream := none, ports := [(0, { up := true, fenced := true }), (1, { up := true, delays := [5] })] } }
def wWallTiming4 : State := (wWallTiming1).upd fun d => { d.put F.WALL_STATUS_STATE 5 |>.put F.WALL_CTRL_ROLE 1 with wall := { d.wall with upstream := none, members := [4] } }
def wWallTiming5 : State := (wWallTiming1).upd fun d => { d.put F.WALL_STATUS_STATE 1 |>.put F.WALL_ADDR_VALID 1 with wall := { d.wall with timing := none, last := some (6, 0) } }
def wWallTiming6 : State := (wWallTiming1).upd fun d => { d with wall := { d.wall with near := 3, ports := [(0, { up := true, beacon := some (5, 3, 1) })] } }
def wWallTiming7 : State := (wWallTiming1).upd fun d => { d with wall := { d.wall with root := none, upstream := none } }
def wWallTiming8 : State := (wWallTiming2).upd fun d => { d with wall := { d.wall with far := 1, near := 3 } }
def wWallTiming9 : State := (wWallTiming8).upd fun d => d.put F.WALL_STATUS_STATE 2
def wWallTiming10 : State := (wWallTiming5).upd fun d => ((d.put F.RASTER_H_H_TOTAL 1000).put F.RASTER_V_V_TOTAL 1000).put F.PIPE_CLK_FREQ 20000
def wWallTiming11 : State := (wWallTiming10).upd fun d => { ((d.put F.RASTER_FLOOR_FLOOR_US 40000).put F.FRAME_COUNT_FRAME 17).put F.WALL_STATUS_STATE 2 with wall := { d.wall with timing := some true } }
def wWallTiming12 : State := (wWallTiming1).upd fun d => { d with wall := { d.wall with step := some (3, 5) } }
def wWallTiming13 : State := (wWallTiming11).upd fun d => d.put F.RASTER_FLOOR_FLOOR_US 5000

theorem test_WallTiming :
  (let d := (wWallTiming1).dev; d.wallPortOn 0 = true ∧ (d.wp 0).up = true ∧ (d.wp 0).fenced = false ∧ d.get F.BOOT_STATUS_STEP ≠ 8 ∧ d.wallState = 2 ∧ d.wall.near = 15 ∧ d.isAlmanac = false ∧ d.get F.WALL_STATUS_EPOCH = 5) ∧
  ((wWallTiming2).dev.wallState = 3 ∧ (wWallTiming3).dev.wall.upstream = none ∧ (wWallTiming4).dev.isAlmanac = true ∧ (wWallTiming5).dev.wall.last = some (6, 0) ∧ (wWallTiming5).dev.wall.timing = none ∧ (wWallTiming6).dev.wall.near = 3 ∧ (wWallTiming7).dev.wall.root = none) := by decide

/-! ### WallPackets -/

def wWallPackets1 : State := stWith fun d => { (((d.put F.WALL_CTRL_EN 1).put F.WALL_CTRL_PORT_EN 15).put F.WALL_STATUS_STATE 5).put F.WALL_CTRL_ROLE 1 with wall := { d.wall with root := some 0, members := [1, 5, 7], binds := [(0, 5), (9, 1)], paths := [(1, 3)], ports := [(0, { up := true, child := true, learned := [5], seen := [4] }), (1, { up := true, child := true, learned := [2, 255] }), (3, { up := true, child := true, learned := [9] })] } }
def wWallPackets2 : State := (wWallPackets1).upd fun d => { ((d.put F.WALL_STATUS_STATE 3).put F.WALL_CTRL_ROLE 0).put F.WALL_ADDR_VALID 1 |>.put F.WALL_ADDR_ADDR 4 |>.put F.PWR_CFG_HOST_GATE 1 with wall := { d.wall with upstream := some 3, root := some 1, ports := [(0, { up := true, child := true, learned := [5] }), (1, { up := true, child := true, learned := [2, 255] }), (3, { up := true })] } }
def wWallPackets3 : State := (wWallPackets1).upd fun d => { d.put F.FRAME_COUNT_FRAME 0xFFFFFFF0 with wall := { d.wall with binds := [] } }
def wWallPackets4 : State := (wWallPackets1).upd fun d => d.put F.WALL_CTRL_PORT_EN 8

theorem test_WallPackets :
  (let d := (wWallPackets1).dev; d.wallPortOn 0 = true ∧ (d.wp 0).up = true ∧ (d.wp 0).fenced = false ∧ d.isAlmanac = true ∧ d.wallDown = [0, 1, 3] ∧ d.wallState ≠ 6 ∧ d.pwrState = 0 ∧ d.on F.PWR_CFG_HOST_GATE = false ∧
    d.uid = 0 ∧ assoc 1 d.wall.paths = some 3 ∧ d.reaches domWALL (R.WALL_REMOVE.at 0) = true) ∧ ((wWallPackets2).dev.ownAddr = some 4 ∧ (wWallPackets2).dev.wall.upstream = some 3 ∧ (wWallPackets2).dev.on F.PWR_CFG_HOST_GATE = true) := by decide

/-! ### EquinoxCommits -/

def wEquinoxCommits1 : State := stWith fun d => { ((((((d.put F.LUT_BASE_BASE 0x80000).put F.OD_TABLE_BASE_BASE 0x90000).put F.WALL_CTRL_EN 1).put F.WALL_CTRL_PORT_EN 15).put F.WALL_STATUS_STATE 5).put F.WALL_CTRL_ROLE 1).put F.EQX_F_F 7 |>.put F.EQX_LEN_LEN 4 |>.put F.WALL_LAG_MEMBER 0x20 0 with wall := { d.wall with root := some 0, members := [1, 5, 7], ports := [(0, { up := true, child := true, learned := [5] }), (1, { up := true, child := true, learned := [2] }), (3, { up := true })] } }
def wEquinoxCommits2 : State := (wEquinoxCommits1).upd fun d => { d.put F.FRAME_COUNT_FRAME 6 with wall := { d.wall with eqx := some { set := 5, f := 7, kind := 0, root := true, need := 1, inScope := false, acks := [(1, 1, 0)] } } }
def wEquinoxCommits3 : State := (wEquinoxCommits1).upd fun d => { (((d.put F.WALL_STATUS_STATE 3).put F.WALL_CTRL_ROLE 0).put F.WALL_ADDR_VALID 1).put F.WALL_ADDR_ADDR 4 |>.put F.FRAME_COUNT_FRAME 0xFFFFFFFF with wall := { d.wall with upstream := some 3, timing := some true, root := some 1, ports := [(3, { up := true })] } }
def wEquinoxCommits4 : State := (wEquinoxCommits3).upd fun d => { (d.put F.COMP_CTRL_WALL_FEED 1).put F.NOTICE_STATUS_STATE 3 |>.put F.NOTICE_STATUS_ID 0x0707 |>.put F.RASTER_H_H_ACTIVE 100 with wall := { d.wall with notice := some { id := 5, total := 0 } } }
def wEquinoxCommits5 : State := (wEquinoxCommits3).upd fun d => { d with wall := { d.wall with eqx := some { set := 5, f := 0, kind := 0, root := false, need := 0, inScope := true } } }
def wEquinoxCommits6 : State := (wEquinoxCommits3).upd fun d => { d with wall := { d.wall with ports := [(0, { up := true, child := true, learned := [5] }), (3, { up := true })], eqx := some { set := 5, f := 0, kind := 0, root := false, need := 0, inScope := true, own := some 0 } } }
def wEquinoxCommits7 : State := (wEquinoxCommits6).upd fun d => { d with wall := { d.wall with eqx := some { set := 5, f := 0, kind := 0, root := false, need := 0, inScope := true } } }
def wEquinoxCommits8 : State := (wEquinoxCommits6).upd fun d => { d with wall := { d.wall with upstream := none, eqx := some { set := 5, f := 0xA5A5A5A5, kind := 0, root := false, need := 0, inScope := false, own := some 0 } } }
def wEquinoxCommits9 : State := (wEquinoxCommits6).upd fun d => { d with wall := { d.wall with upstream := none } }
def wEquinoxCommits10 : State := (wEquinoxCommits6).upd fun d => { d with wall := { d.wall with eqx := some { set := 5, f := 0, kind := 0, root := false, need := 0, inScope := true, own := some 0, acks := [(0, 3, 0)] } } }
def wEquinoxCommits11 : State := (wEquinoxCommits3).upd fun d => (d.put F.FSEQ_STATUS_COMMIT_PENDING 1).put F.COMP_CTRL_WALL_FEED 1
def wEquinoxCommits12 : State := (wEquinoxCommits4).upd fun d => { (d.put F.RASTER_V_V_ACTIVE 100).put F.WALL_POS_X_PX 8 with dram := { d.dram with mem := Memory.write [] 0 ([0x4E, 0x54, 0, 1, 50, 0, 40, 0] ++ leBytes 4 4 ++ leBytes 4 2) } }
def wEquinoxCommits13 : State := (wEquinoxCommits6).upd fun d => { d.put F.FRAME_COUNT_FRAME 0 with wall := { d.wall with eqx := some { set := 5, f := 0, kind := 0, root := false, need := 0, inScope := true, own := some 0 } } }
def wEquinoxCommits14 : State := (wEquinoxCommits13).upd fun d => { d.put F.FRAME_COUNT_FRAME 3 with wall := { d.wall with upstream := none, results := [] } }
def wEquinoxCommits15 : State := (wEquinoxCommits8).upd fun d => d.put F.FRAME_COUNT_FRAME 0x80000000
def wEquinoxCommits16 : State := (wEquinoxCommits6).upd fun d => { d with wall := { d.wall with step := some (3, 5) } }

theorem test_EquinoxCommits_1 :
  (let d := (wEquinoxCommits1).dev; d.reaches domWALL (R.EQX_CMD.at 0) = true ∧ d.reaches domWALL (R.EQX_ACK.at 0) = true ∧ d.isAlmanac = true ∧ d.wall.eqx = none ∧ d.get F.EQX_F_F = 7 ∧ d.get F.FRAME_COUNT_FRAME = 0 ∧ d.get F.EQX_LEN_LEN = 4 ∧
    d.lsPlain (d.get F.EQX_BUF_BASE * 16) 4 = true ∧ d.wallDown = [0, 1] ∧ d.wallPortOn 0 = true ∧ (d.wp 0).up = true ∧ (d.wp 0).fenced = false ∧ (d.wp 0).seen = []) := by decide

theorem test_EquinoxCommits_2 :
  (let d := (wEquinoxCommits2).dev; d.isAlmanac = true ∧ d.wall.eqx.map (fun x => (x.set, x.f, x.root, x.go, x.need)) = some (5, 7, true, false, 1) ∧ d.wallPortState 0 = 3 ∧ d.get F.FRAME_COUNT_FRAME = 6) := by decide

theorem test_EquinoxCommits_3 :
  (let d := (wEquinoxCommits3).dev; d.isAlmanac = false ∧ d.wallPortOn 3 = true ∧ (d.wp 3).up = true ∧ (d.wp 3).fenced = false ∧ d.ownAddr = some 4 ∧ d.wall.upstream = some 3 ∧ d.wallState = 3 ∧ d.wall.timing = some true ∧
    d.wallDown = [] ∧ d.on F.FSEQ_STATUS_COMMIT_PENDING = false ∧ d.on F.COMP_CTRL_WALL_FEED = false ∧ d.get F.FRAME_COUNT_FRAME = 0xFFFFFFFF) := by decide

theorem test_EquinoxCommits_4 :
  (let d := (wEquinoxCommits4).dev; d.wall.notice.isSome = true ∧ d.on F.COMP_CTRL_WALL_FEED = true ∧ d.get F.NOTICE_STATUS_STATE = 3 ∧ d.get F.NOTICE_STATUS_ID = leNat [7, 7]) := by decide

theorem test_EquinoxCommits_5 :
  ((wEquinoxCommits5).dev.wall.eqx.map (fun x => (x.inScope, x.own, x.root, x.acked)) = some (true, none, false, false)) := by decide

theorem test_EquinoxCommits_6 :
  (let d := (wEquinoxCommits6).dev; d.wallDown = [0] ∧ d.wallPortState 0 = 3 ∧ d.wall.eqx.map (fun x => (x.set, x.f, x.own, x.committed)) = some (5, 0, some 0, false)) := by decide

theorem test_EquinoxCommits_7 :
  ((wEquinoxCommits8).dev.wall.eqx.map (·.inScope) = some false ∧ (wEquinoxCommits8).dev.wall.upstream = none) := by decide

theorem test_EquinoxCommits_8 :
  (wEquinoxCommits11).dev.on F.FSEQ_STATUS_COMMIT_PENDING = true := by decide

theorem test_EquinoxCommits_9 :
  ((wEquinoxCommits12).dev.noticeHead 0).magic = 0x544E ∧ ((wEquinoxCommits12).dev.noticeHead 0).sx = 2 ∧ (wEquinoxCommits12).dev.noticeMeets ((wEquinoxCommits12).dev.noticeHead 0) = true := by decide

/-! ### WallNotices -/

def wWallNotices1 : State := stWith fun d => { ((((((d.put F.LUT_BASE_BASE 0x80000).put F.OD_TABLE_BASE_BASE 0x90000).put F.WALL_CTRL_EN 1).put F.WALL_CTRL_PORT_EN 15).put F.WALL_STATUS_STATE 5).put F.WALL_CTRL_ROLE 1).put F.NOTICE_LEN_LEN 5 |>.put F.NOTICE_SRC_SRC 3 with wall := { d.wall with root := some 0, ports := [(0, { up := true, child := true }), (1, { up := true, child := true }), (3, { up := true })], notice := some { id := 5, total := 9, got := 9, own := true } } }
def wWallNotices2 : State := (wWallNotices1).upd fun d => { (((d.put F.WALL_STATUS_STATE 3).put F.WALL_CTRL_ROLE 0).put F.WALL_ADDR_VALID 1).put F.NOTICE_STATUS_STATE 1 |>.put F.NOTICE_STAGE_SIZE_MIB 512 |>.put F.NOTICE_STAGE_BASE 0x4000000 with wall := { d.wall with upstream := some 3, notice := some { id := 5, total := 4 } } }
def wWallNotices3 : State := (wWallNotices2).upd fun d => { d with wall := { d.wall with notice := some { id := 5, total := 40, got := 2, own := true, done := [1] } } }
def wWallNotices4 : State := (wWallNotices2).upd fun d => { d with wall := { d.wall with notice := some { id := 5, total := 40, got := 20, own := true, done := [0] } } }

theorem test_WallNotices_1 :
  (let d := (wWallNotices1).dev; d.reaches domWALL (R.NOTICE_TX.at 0) = true ∧ d.isAlmanac = true ∧ d.get F.NOTICE_LEN_LEN = 5 ∧ d.wallPortOn 0 = true ∧ (d.wp 0).up = true ∧ (d.wp 0).fenced = false ∧ (d.wp 0).seen = [] ∧ d.wallPortState 0 = 3 ∧
    d.wall.notice.map (fun n => (n.id, n.own, n.sent, n.done)) = some (5, true, false, [])) := by decide

theorem test_WallNotices_2 :
  (let d := (wWallNotices2).dev; d.isAlmanac = false ∧ d.wallPortOn 3 = true ∧ d.wallPortState 3 = 2 ∧ d.wallState = 3 ∧ d.get F.NOTICE_STATUS_STATE = 1 ∧ d.get F.NOTICE_STAGE_SIZE_MIB * 2 ^ 20 = 2 ^ 29 ∧
    d.wall.notice.map (fun n => (n.id, n.total, n.got)) = some (5, 4, 0) ∧ d.dramPlain (d.get F.NOTICE_STAGE_BASE * 64) 4 = true ∧ d.guarded (d.get F.NOTICE_STAGE_BASE * 64) 4 = false ∧
    d.on F.LAYER_CTRL_EN 7 = false ∧ d.retiring = [] ∧ d.lsPlain (d.get F.CODEC_Q_CFG_BASE 1 / 4 * 64 + d.codecTail 1 * 64) 64 = true) := by decide

theorem test_WallNotices_3 :
  ((wWallNotices3).dev.wall.notice.map (fun n => (n.id, n.total, n.got, n.done)) = some (5, 40, 2, [1])) := by decide

theorem test_WallNotices_4 :
  (wWallNotices4).dev.wall.notice.map (·.got) = some 20 := by decide

end Sys2Proof.Machine
end

section
/-! SUPPORT.  The Bluris block formats: what a header and a packing hold, and the block that the exact encoder chooses. -/

namespace Sys2Proof.Machine

/-! ### Bytes and bit streams -/

@[simp] theorem length_leBytes (n x : Nat) : (leBytes n x).length = n := by
  induction n generalizing x with
  | zero => rfl
  | succ n ih => simp [leBytes, ih]

theorem leNat_leBytes (n x : Nat) : leNat (leBytes n x) = x % 256 ^ n := by
  induction n generalizing x with
  | zero => simp [leBytes, leNat, Nat.mod_one]
  | succ n ih => rw [Nat.pow_succ', Nat.mod_mul, leBytes, leNat, ih, BitVec.toNat_ofNat]

@[simp] theorem length_natBits (n x : Nat) : (natBits n x).length = n := by simp [natBits]

@[simp] theorem length_packBits (bs : List Bool) : (packBits bs).length = divUp bs.length 8 := by simp [packBits]

/-- The raw packing of a segment fills its raw size (R162). -/
@[simp] theorem BKind.length_rawPack (k : BKind) (px : List Px) : (k.rawPack px).length = k.rawSize px.length := by
  have hbits : (px.flatMap fun p => natBits k.rawBits p.r ++ natBits k.rawBits p.g ++ natBits k.rawBits p.b).length =
      3 * k.rawBits * px.length := by
    induction px with
    | nil => rfl
    | cons p px ih =>
      rw [List.flatMap_cons, List.length_append, ih]
      simp only [List.length_append, length_natBits, List.length_cons, Nat.mul_add]
      omega
  rw [BKind.rawPack, length_packBits, hbits, BKind.rawSize]

/-! ### The parts of a block (Table 7.2) -/

section Block

variable (low : Nat) (covered payload : List Byte)

@[simp] theorem length_mkBlock : (mkBlock low covered payload).length = payload.length + 4 := by
  simp [mkBlock]; omega

@[simp] theorem take_two_mkBlock : (mkBlock low covered payload).take 2 = leBytes 2 low := by
  simp [mkBlock, List.append_assoc]

@[simp] theorem drop_four_mkBlock : (mkBlock low covered payload).drop 4 = payload :=
  List.drop_left' (by simp)

end Block

/-- With quantizer index 0 the low half of a header is 14 bits: LEN in 9:0, RAW in 10, KIND in 12:11 and BOUND_FAIL in 13. -/
theorem BKind.headLow_lt (k : BKind) (len : Nat) (raw boundFail : Bool) : k.headLow len raw boundFail 0 < 2 ^ 14 := by
  have hcode : k.code ≤ 3 := by cases k <;> decide
  have hraw := raw.toNat_le
  have hfail := boundFail.toNat_le
  unfold BKind.headLow
  omega

/-- Bit 10 of a header is RAW. -/
theorem BKind.bit_ten_headLow (k : BKind) (len : Nat) (raw boundFail : Bool) (q : Nat) :
    bit (k.headLow len raw boundFail q) 10 = raw := by
  have hhigh : k.headLow len raw boundFail q / 1024 % 2 = raw.toNat := by
    have hraw := raw.toNat_le
    unfold BKind.headLow
    omega
  cases raw <;> simp [bit, Nat.testBit_eq_decide_div_mod_eq, hhigh]

/-- The RAW bit as a reader takes it from the first two bytes of a block. -/
@[simp] theorem BKind.bit_ten_mkBlock_headLow (k : BKind) (len : Nat) (raw boundFail : Bool) (covered payload : List Byte) :
    bit (leNat ((mkBlock (k.headLow len raw boundFail 0) covered payload).take 2)) 10 = raw := by
  have hlow := k.headLow_lt len raw boundFail
  rw [take_two_mkBlock, leNat_leBytes, Nat.mod_eq_of_lt (by omega), BKind.bit_ten_headLow]

/-! ### The exact encoder's choice (R164) -/

section Choice

variable {k : BKind} {px : List Px}

theorem BKind.encodeExact_block_of_shorter (h : (k.codePayload 0 px).length < (k.rawPack px).length) :
    (k.encodeExact px false).block =
      mkBlock (k.headLow (k.codePayload 0 px).length false false 0) (k.rawPack px) (k.codePayload 0 px) := by
  rw [BKind.length_rawPack] at h
  simp [BKind.encodeExact, h]

theorem BKind.encodeExact_block_of_not_shorter (h : (k.rawPack px).length ≤ (k.codePayload 0 px).length) :
    (k.encodeExact px false).block = k.rawBlock px := by
  rw [BKind.length_rawPack] at h
  simp [BKind.encodeExact, Nat.not_lt.mpr h]

end Choice

/-- Settles O19: the two branches of the exact encoder's comparison of the coded payload with the raw packing. -/
theorem exactBlockChoice : Obligations.ExactBlockChoice := by
  intro k px _ _ _
  dsimp only
  rcases Nat.lt_or_ge (k.codePayload 0 px).length (k.rawPack px).length with hshort | hlong
  · rw [BKind.encodeExact_block_of_shorter hshort, length_mkBlock]
    refine ⟨fun _ => ⟨drop_four_mkBlock .., k.bit_ten_mkBlock_headLow ..⟩, fun hlong => ?_, ?_⟩ <;> omega
  · rw [BKind.encodeExact_block_of_not_shorter hlong, BKind.rawBlock, length_mkBlock]
    exact ⟨fun hshort => by omega, fun _ => ⟨drop_four_mkBlock .., k.bit_ten_mkBlock_headLow ..⟩, Nat.le_refl _⟩

end Sys2Proof.Machine
end

section
/-! SUPPORT.  A dale's registers, counters and traps, and what an instruction of the Dale extension leaves. -/

namespace Sys2Proof.Machine

/-! ### The registers and the CSRs of a hart -/

namespace Hart

variable (h : Hart) (n k m : Nat) (v : Word)

theorem reg_setReg (i j : Nat) : (h.setReg j v).reg i = if i = j ∧ j ≠ 0 then v else h.reg i := by
  unfold setReg reg
  by_cases hj : j = 0
  · simp [hj]
  · by_cases hi : i = j
    · subst hi; simp [hj, RegFile.find_put_self]
    · simp [hj, hi, RegFile.find_put_ne _ _ hi]

theorem csrWord_setCsr : (h.setCsr n v).csrWord m = if m = n then v else h.csrWord m := by
  unfold setCsr csrWord
  split
  next hm => subst hm; simp [RegFile.find_put_self]
  next hm => simp [RegFile.find_put_ne _ _ hm]

@[simp] theorem csrWord_setReg (j : Nat) : (h.setReg j v).csrWord m = h.csrWord m := by
  unfold setReg; split <;> rfl

@[simp] theorem pc_setReg (j : Nat) : (h.setReg j v).pc = h.pc := by
  unfold setReg; split <;> rfl

@[simp] theorem reg_count (i : Nat) : (h.count n k).reg i = h.reg i := by
  unfold count; dsimp only; split <;> rfl

@[simp] theorem pc_count : (h.count n k).pc = h.pc := by
  unfold count; dsimp only; split <;> rfl

/-- The low word of a counter counts modulo 2³². -/
theorem csrWord_count_self : (h.count n k).csrWord n = h.csrWord n + BitVec.ofNat 32 k := by
  unfold count
  dsimp only
  split <;> simp [csrWord_setCsr, BitVec.ofNat_add]

/-- A counter touches its two words alone. -/
theorem csrWord_count_ne (hlow : m ≠ n) (hhigh : m ≠ n + 0x80) : (h.count n k).csrWord m = h.csrWord m := by
  unfold count
  dsimp only
  split <;> simp [csrWord_setCsr, hlow, hhigh]

@[simp] theorem reg_retire (i : Nat) : h.retire.reg i = h.reg i := h.reg_count ..
@[simp] theorem pc_retire : h.retire.pc = h.pc := h.pc_count ..
@[simp] theorem minstret_retire : h.retire.csrWord 0xB02 = h.csrWord 0xB02 + 1 := h.csrWord_count_self ..
@[simp] theorem mcycle_retire : h.retire.csrWord 0xB00 = h.csrWord 0xB00 := h.csrWord_count_ne _ _ _ (by decide) (by decide)
@[simp] theorem reg_advance (i len : Nat) : (h.advance len).reg i = h.reg i := rfl
@[simp] theorem csrWord_advance (len : Nat) : (h.advance len).csrWord m = h.csrWord m := rfl
@[simp] theorem pc_advance (len : Nat) : (h.advance len).pc = h.pc + BitVec.ofNat 32 len := rfl

/-- An exception leaves its cause in mcause. -/
theorem mcause_trap (exc : Nat) : (h.trap false exc v).csrWord 0x342 = BitVec.ofNat 32 exc := by
  unfold trap csrMstatus csrMepc csrMcause csrMtval
  exact (csrWord_setCsr ..).trans <| (csrWord_setCsr ..).trans <| csrWord_setCsr ..

/-- A trap leaves the interrupted program counter in mepc. -/
theorem mepc_trap (irq : Bool) (cause : Nat) : (h.trap irq cause v).csrWord 0x341 = h.pc := by
  unfold trap csrMstatus csrMepc csrMcause csrMtval
  exact (csrWord_setCsr ..).trans <| (csrWord_setCsr ..).trans <| (csrWord_setCsr ..).trans <| csrWord_setCsr ..

end Hart

/-! ### One dale -/

/-- A change of a dale outside its memories is a change of the scheduler's part. -/
theorem Keeps.setDale (d : Dev) (k : Nat) {g : DaleState → DaleState} (rs : List (Nat × Nat))
    (himem : ∀ s, (g s).imem = s.imem) (hdmem : ∀ s, (g s).dmem = s.dmem) : Keeps d (d.setDale k g) [.sched] rs :=
  Keeps.parts rs (fun p hp => by
    cases p
    case sched => simp at hp
    case daleMem =>
      intro j
      rw [Dev.dale_setDale]
      split
      next hj => subst hj; exact ⟨(himem _).symm, (hdmem _).symm⟩
      next => exact ⟨rfl, rfl⟩
    case dpcd => exact ⟨rfl, rfl⟩
    all_goals rfl) rfl rfl rfl

/-- A dale after `cyc` cycles: they count for its job and in mcycle (R187, R214). -/
def DaleState.tick (cyc : Nat) (s : DaleState) : DaleState :=
  { s with job := s.job.map (fun j => { j with cycles := j.cycles + cyc }), hart := s.hart.count 0xB00 cyc }

@[simp] theorem DaleState.hart_tick (cyc : Nat) (s : DaleState) : (s.tick cyc).hart = s.hart.count 0xB00 cyc := rfl
@[simp] theorem DaleState.isSome_job_tick (cyc : Nat) (s : DaleState) : (s.tick cyc).job.isSome = s.job.isSome :=
  Option.isSome_map

theorem Keeps.setDale_tick (d : Dev) (k cyc : Nat) (rs : List (Nat × Nat)) : Keeps d (d.setDale k (.tick cyc)) [.sched] rs :=
  Keeps.setDale d k rs (fun _ => rfl) fun _ => rfl

namespace Dev

variable (d : Dev) (k cyc : Nat)

section Tick

/-! A dale pass: the cycles of an instruction (R187, R214). -/

theorem daleTick_of_job {j : Job} (hj : (d.dale k).job = some j) :
    d.daleTick k cyc = (d.setDale k (.tick cyc)).inc F.JOB_USED_COUNT j.type cyc := by
  delta DaleState.tick
  simp [daleTick, hj]

theorem daleTick_of_no_job (hj : (d.dale k).job = none) : d.daleTick k cyc = d.setDale k (.tick cyc) := by
  delta DaleState.tick
  simp [daleTick, hj]

theorem dale_daleTick (i : Nat) : (d.daleTick k cyc).dale i = if i = k then (d.dale k).tick cyc else d.dale i := by
  cases hj : (d.dale k).job with
  | none => simp [d.daleTick_of_no_job k cyc hj]
  | some j => simp [d.daleTick_of_job k cyc hj]

@[simp] theorem daleReg_daleTick (i : Nat) : (d.daleTick k cyc).daleReg k i = d.daleReg k i := by
  simp [daleReg, dale_daleTick]

/-- The type of the job that runs is charged the cycles, and no other. -/
theorem used_daleTick {t : Nat} (ht : t ∈ List.range 8) : (d.daleTick k cyc).get F.JOB_USED_COUNT t =
    if (d.dale k).job.any (fun j => j.type == t) then (d.get F.JOB_USED_COUNT t + cyc) % 2 ^ 32
    else d.get F.JOB_USED_COUNT t := by
  have hhas : R.JOB_USED.has t = true := Reg.has_lt (List.mem_range.mp ht) rfl (Nat.le_refl 8)
  cases hj : (d.dale k).job with
  | none => simp [d.daleTick_of_no_job k cyc hj]
  | some j =>
    rw [d.daleTick_of_job k cyc hj]
    by_cases hjt : j.type = t
    · subst hjt
      rw [get_inc_self (by decide) _ _ hhas]
      simp [F.JOB_USED_COUNT]
    · rw [inc, get_put_idx rfl (by decide) _ _ _ _ hjt]
      simp [hjt]

theorem keeps_daleTick : Keeps d (d.daleTick k cyc) [.sched] [arrayOf R.JOB_USED] := by
  cases hj : (d.dale k).job with
  | none => exact d.daleTick_of_no_job k cyc hj ▸ Keeps.setDale_tick ..
  | some j => exact d.daleTick_of_job k cyc hj ▸ (Keeps.setDale_tick ..).putArray (List.mem_singleton_self _) _

end Tick

section Done

/-! A complete instruction of 4 bytes after its cycles. -/

variable (rd : Nat) (v : Word)

theorem dale_daleDone (len i : Nat) : (d.daleDone k len rd v).dale i = if i = k then
    { d.dale k with hart := (((d.dale k).hart.setReg rd v).advance len).retire } else d.dale i := by
  simp [daleDone]

theorem daleResult_daleDone : d.daleResult ((d.daleTick k cyc).daleDone k 4 rd v) k rd v cyc := by
  refine ⟨fun i _ => ?_, ?_, ?_, ?_, fun i _ hi => ?_, fun t ht => d.used_daleTick k cyc ht⟩
  · simp [daleReg, dale_daleDone, dale_daleTick, Hart.reg_setReg]
  · simp [dale_daleDone, dale_daleTick]
  · simp [dale_daleDone, dale_daleTick, Hart.csrWord_count_ne]
  · simp [dale_daleDone, dale_daleTick, Hart.csrWord_count_self]
  · simp [dale_daleDone, dale_daleTick, hi]

theorem keeps_daleDone : Keeps d ((d.daleTick k cyc).daleDone k 4 rd v) [.sched] [arrayOf R.JOB_USED] :=
  (d.keeps_daleTick k cyc).trans (Keeps.setDale _ k _ (fun _ => rfl) fun _ => rfl)

end Done

section Trap

/-! A trap of a dale that runs no job, after its cycles (R213). -/

variable (exc : Nat) (tval : Word) (hj : (d.dale k).job = none)
include hj

theorem daleTrap_daleTick_of_no_job : (d.daleTick k cyc).daleTrap k exc tval =
    (d.daleTick k cyc).setDale k fun s => { s with hart := s.hart.trap false exc tval } := by
  simp [daleTrap, dale_daleTick, hj]

theorem mcause_daleTrap : (((d.daleTick k cyc).daleTrap k exc tval).dale k).hart.csrWord 0x342 = BitVec.ofNat 32 exc := by
  simp [d.daleTrap_daleTick_of_no_job k cyc exc tval hj, Hart.mcause_trap]

theorem mepc_daleTrap : (((d.daleTick k cyc).daleTrap k exc tval).dale k).hart.csrWord 0x341 = (d.dale k).hart.pc := by
  simp [d.daleTrap_daleTick_of_no_job k cyc exc tval hj, Hart.mepc_trap, dale_daleTick]

theorem keeps_daleTrap : Keeps d ((d.daleTick k cyc).daleTrap k exc tval) [.sched] [] := by
  rw [d.daleTrap_daleTick_of_no_job k cyc exc tval hj, d.daleTick_of_no_job k cyc hj]
  exact Keeps.trans (Keeps.setDale_tick ..) (Keeps.setDale _ _ _ (fun _ => rfl) fun _ => rfl)

end Trap

end Dev

/-! ### The extension's arithmetic instructions -/

/-- The register that an arithmetic instruction of the extension writes, and its result over a reading `r` of the registers;
none is an instruction of another kind. -/
def DaleOp.arith (r : Nat → Word) : DaleOp → Option (Nat × Word)
  | .paddS16 rd a b => some (rd, Machine.paddS16 (r a) (r b))
  | .psubS16 rd a b => some (rd, Machine.psubS16 (r a) (r b))
  | .paddU16 rd a b => some (rd, Machine.paddU16 (r a) (r b))
  | .psubU16 rd a b => some (rd, Machine.psubU16 (r a) (r b))
  | .clamp rd a b => some (rd, clampW (r a) (r b))
  | .rcpe rd a => some (rd, Machine.rcpe (r a))
  | .qmulr rd a b q => some (rd, Machine.qmulr (r a) (r b) q)
  | .bfx rd a lsb w sg => some (rd, Machine.bfx (r a) lsb w sg)
  | .bfi rd a lsb w => some (rd, Machine.bfi (r rd) (r a) lsb w)
  | _ => none

theorem Dev.daleExt_of_arith {d : Dev} {k ecc rd : Nat} {v : Word} {o : DaleOp} (hvalid : o.valid = true)
    (harith : o.arith (d.daleReg k) = some (rd, v)) : d.daleExt k o ecc = d.daleDone k 4 rd v := by
  unfold Dev.daleExt
  rw [hvalid]
  cases o
  case paddS16 | psubS16 | paddU16 | psubU16 | clamp | rcpe | qmulr | bfx | bfi => cases harith; rfl
  all_goals cases harith

section Issue

variable {c : Instr} {s : State} {k : Byte} {cyc : Nat} {o : DaleOp}
  (hexec : exec c s = .next (s.upd fun d => d.daleIssue k cyc o))
include hexec

theorem exec_of_not_daleRuns (hruns : s.dev.daleRuns k.toNat = false) : exec c s = .next s := by
  simp [hexec, State.upd, Dev.daleIssue, hruns]

theorem completes_of_daleRuns {P : Dev → Prop} (hruns : s.dev.daleRuns k.toNat = true)
    (hP : P ((s.dev.daleTick k.toNat cyc).daleExt k.toNat o 0)) : Completes c s P :=
  ⟨_, hexec, rfl, by simpa [State.upd, Dev.daleIssue, hruns] using hP⟩

/-- On a dale that runs, an arithmetic instruction gives its result. -/
theorem completes_of_arith {rd : Nat} {v : Word} (hruns : s.dev.daleRuns k.toNat = true) (hvalid : o.valid = true)
    (harith : o.arith (s.dev.daleReg k.toNat) = some (rd, v)) :
    Completes c s fun e => s.dev.daleResult e k.toNat rd v cyc ∧ Keeps s.dev e [.sched] [arrayOf R.JOB_USED] := by
  have hregs : (s.dev.daleTick k.toNat cyc).daleReg k.toNat = s.dev.daleReg k.toNat := funext fun i => by simp
  refine completes_of_daleRuns hexec hruns ?_
  rw [Dev.daleExt_of_arith hvalid (hregs ▸ harith)]
  exact ⟨s.dev.daleResult_daleDone .., s.dev.keeps_daleDone ..⟩

/-- In SERVICE, an encoding with operands that the extension lacks is an illegal instruction. -/
theorem completes_of_not_valid (hruns : s.dev.daleRuns k.toNat = true) (hvalid : o.valid = false)
    (hjob : (s.dev.dale k.toNat).job = none) :
    Completes c s fun e => (e.dale k.toNat).hart.csrWord 0x342 = 2 ∧
      (e.dale k.toNat).hart.csrWord 0x341 = (s.dev.dale k.toNat).hart.pc ∧ Keeps s.dev e [.sched] [] := by
  refine completes_of_daleRuns hexec hruns ?_
  have htrap : (s.dev.daleTick k.toNat cyc).daleExt k.toNat o 0 = (s.dev.daleTick k.toNat cyc).daleTrap k.toNat excIllegal 0 := by
    simp [Dev.daleExt, hvalid]
  rw [htrap]
  exact ⟨s.dev.mcause_daleTrap k.toNat cyc _ _ hjob, s.dev.mepc_daleTrap k.toNat cyc _ _ hjob,
    s.dev.keeps_daleTrap k.toNat cyc _ _ hjob⟩

end Issue

end Sys2Proof.Machine
end

section
/-! SUPPORT.  The Dale extension's arithmetic over words (R195, R198), and what its instructions do with it. -/

namespace Sys2Proof.Machine

/-! ### Signed readings -/

/-- The two's-complement reading is that of a bit vector. -/
theorem sgn_eq_toInt {n : Nat} (hn : 0 < n) (x : Nat) : sgn n x = (BitVec.ofNat n x).toInt := by
  obtain ⟨m, rfl⟩ : ∃ m, n = m + 1 := ⟨n - 1, by omega⟩
  have hpow : 2 ^ (m + 1) = 2 * 2 ^ m := Nat.pow_succ'
  rw [sgn, BitVec.toInt_eq_toNat_cond, BitVec.toNat_ofNat, Nat.add_sub_cancel]
  split <;> split <;> omega

theorem le_sgn {n : Nat} (hn : 0 < n) (x : Nat) : -2 ^ (n - 1) ≤ sgn n x :=
  sgn_eq_toInt hn x ▸ BitVec.le_toInt _

theorem sgn_lt {n : Nat} (hn : 0 < n) (x : Nat) : sgn n x < 2 ^ (n - 1) := by
  rw [sgn_eq_toInt hn x]
  exact BitVec.toInt_lt

/-- A word made of an integer in its range reads back as it is. -/
theorem toInt_ofInt_word {x : Int} (hlow : -2147483648 ≤ x) (hhigh : x ≤ 2147483647) : (BitVec.ofInt 32 x).toInt = x :=
  BitVec.toInt_ofInt_eq_self (by decide) (by omega) (by omega)

/-- The sign extension of a field to a word keeps its value. -/
theorem toInt_sext {n : Nat} (hn : 0 < n) (hw : n ≤ 32) (x : Nat) : (sext n x).toInt = sgn n x := by
  have hpow : (2 : Int) ^ (n - 1) ≤ 2 ^ 31 := by
    exact_mod_cast Nat.pow_le_pow_right (show 0 < 2 by decide) (show n - 1 ≤ 31 by omega)
  have hlow := le_sgn hn x
  have hhigh := sgn_lt hn x
  exact toInt_ofInt_word (by omega) (by omega)

/-! ### Packed sums (R195) -/

theorem bits_half_lt (x h : Nat) : bits x (h + 15) h < 65536 := by
  have hlt := bits_lt x (h + 15) h
  rwa [show h + 15 + 1 - h = 16 by omega] at hlt

/-- Each lane is computed alone. -/
theorem bits_lanes (f : Nat → Nat → Nat) (a b : Word) {h : Nat} (hh : h ∈ [0, 16]) :
    bits (lanes f a b).toNat (h + 15) h = f (bits a.toNat (h + 15) h) (bits b.toNat (h + 15) h) % 65536 := by
  have hsplit : ∀ x y, x < 65536 → y < 65536 →
      bits (BitVec.ofNat 32 (x + 65536 * y)).toNat 15 0 = x ∧ bits (BitVec.ofNat 32 (x + 65536 * y)).toNat 31 16 = y := by
    intro x y hx hy
    simp only [bits, BitVec.toNat_ofNat]
    omega
  obtain ⟨hlow, hhigh⟩ := hsplit (f (bits a.toNat 15 0) (bits b.toNat 15 0) % 65536)
    (f (bits a.toNat 31 16) (bits b.toNat 31 16) % 65536) (Nat.mod_lt _ (by decide)) (Nat.mod_lt _ (by decide))
  simp only [List.mem_cons, List.not_mem_nil, or_false] at hh
  rcases hh with rfl | rfl
  · exact hlow
  · exact hhigh

/-- A saturated signed lane reads as the sum cut to the lane's range. -/
theorem sgn_satS16 (x : Int) : sgn 16 (satS16 x % 65536) = max (-32768) (min 32767 x) := by
  simp only [satS16, wrap, clampI, sgn]
  omega

/-- A saturated unsigned lane holds the sum cut to the lane's range. -/
theorem satU16_mod (x : Int) : satU16 x % 65536 = (max 0 (min 65535 x)).toNat := by
  simp only [satU16, clampN, clampI]
  omega

section Lanes

variable (a b : Word) {h : Nat} (hh : h ∈ [0, 16])
include hh

theorem sgn_lane_paddS16 : sgn 16 (bits (paddS16 a b).toNat (h + 15) h) =
    max (-32768) (min 32767 (sgn 16 (bits a.toNat (h + 15) h) + sgn 16 (bits b.toNat (h + 15) h))) := by
  rw [paddS16, bits_lanes _ a b hh, sgn_satS16]

theorem sgn_lane_psubS16 : sgn 16 (bits (psubS16 a b).toNat (h + 15) h) =
    max (-32768) (min 32767 (sgn 16 (bits a.toNat (h + 15) h) - sgn 16 (bits b.toNat (h + 15) h))) := by
  rw [psubS16, bits_lanes _ a b hh, sgn_satS16]

theorem lane_paddU16 : bits (paddU16 a b).toNat (h + 15) h =
    min 65535 (bits a.toNat (h + 15) h + bits b.toNat (h + 15) h) := by
  rw [paddU16, bits_lanes _ a b hh, satU16_mod]
  omega

theorem lane_psubU16 : bits (psubU16 a b).toNat (h + 15) h = bits a.toNat (h + 15) h - bits b.toNat (h + 15) h := by
  have ha := bits_half_lt a.toNat h
  rw [psubU16, bits_lanes _ a b hh, satU16_mod]
  omega

end Lanes

/-! ### CLAMP and QMULR (R195) -/

/-- The clamp as the spec writes it: the upper bound wins. -/
theorem toInt_clampW (a b : Word) : (clampW a b).toInt =
    min (max a.toInt (sgn 16 (bits b.toNat 15 0))) (sgn 16 (bits b.toNat 31 16)) := by
  have hlow := le_sgn (n := 16) (by decide) (bits b.toNat 31 16)
  have hlow' := le_sgn (n := 16) (by decide) (bits b.toNat 15 0)
  have hhigh := sgn_lt (n := 16) (by decide) (bits b.toNat 31 16)
  exact toInt_ofInt_word (by omega) (by omega)

theorem toInt_ofInt_clampI (x : Int) : (BitVec.ofInt 32 (clampI (-2147483648) 2147483647 x)).toInt =
    max (-2147483648) (min 2147483647 x) :=
  toInt_ofInt_word (Int.le_max_left ..) (by rw [clampI]; omega)

theorem toInt_qmulr_zero (a b : Word) : (qmulr a b 0).toInt = max (-2147483648) (min 2147483647 (a.toInt * b.toInt)) :=
  toInt_ofInt_clampI _

theorem toInt_qmulr_of_pos (a b : Word) {q : Nat} (hq : 1 ≤ q) : (qmulr a b q).toInt =
    max (-2147483648) (min 2147483647 ((a.toInt * b.toInt + 2 ^ (q - 1)) / 2 ^ q)) := by
  have hround : (a.toInt * b.toInt + (2 ^ (q - 1) : Nat)).fdiv (2 ^ q : Nat) = (a.toInt * b.toInt + 2 ^ (q - 1)) / 2 ^ q := by
    rw [Int.fdiv_eq_ediv_of_nonneg _ (Int.natCast_nonneg _)]
    push_cast
    rfl
  simp only [qmulr, show q ≠ 0 by omega, if_false, hround, toInt_ofInt_clampI]

/-! ### Bit fields (R198) -/

section Fields

variable (a : Word) {l w : Nat} (hw : 1 ≤ w) (hfit : l + w ≤ 32)
include hw

theorem bits_field (x : Nat) : bits x (l + w - 1) l = x / 2 ^ l % 2 ^ w := by
  rw [bits, show l + w - 1 + 1 - l = w by omega]

include hfit

theorem toNat_bfx_unsigned : (bfx a l w false).toNat = a.toNat / 2 ^ l % 2 ^ w := by
  have hlt : a.toNat / 2 ^ l % 2 ^ w < 2 ^ 32 :=
    Nat.lt_of_lt_of_le (Nat.mod_lt _ (Nat.two_pow_pos w)) (Nat.pow_le_pow_right (by decide) (by omega))
  simp only [bfx, bits_field hw, Bool.false_eq_true, if_false, BitVec.toNat_ofNat, Nat.mod_eq_of_lt hlt]

theorem toInt_bfx_signed : (bfx a l w true).toInt = sgn w (a.toNat / 2 ^ l % 2 ^ w) := by
  simp only [bfx, bits_field hw, if_true]
  exact toInt_sext hw (by omega) _

omit hfit in
theorem getLsbD_bfi (b : Word) {i : Nat} (hi : i < 32) : (bfi a b l w).getLsbD i =
    if l ≤ i ∧ i < l + w then b.getLsbD (i - l) else a.getLsbD i := by
  rw [bfi, BitVec.getLsbD_ofNat, testBit_putBits _ _ _ (by omega)]
  by_cases hin : l ≤ i ∧ i < l + w
  · rw [if_pos hin, if_pos (by omega), Nat.testBit_mod_two_pow, BitVec.testBit_toNat]
    simp [hi, show i - l < w by omega]
  · rw [if_neg hin, if_neg (by omega), BitVec.testBit_toNat]
    simp [hi]

end Fields

/-! ### RCPE (R195) -/

theorem clz32_eq {x n : Nat} (hn : n < 32) (hlow : 2 ^ (31 - n) ≤ x) (hhigh : x < 2 ^ (32 - n)) : clz32 x = n := by
  have hlog : x.log2 = 31 - n := (Nat.log2_eq_iff (by have := Nat.two_pow_pos (31 - n); omega)).mpr
    ⟨hlow, by rwa [show 31 - n + 1 = 32 - n by omega]⟩
  rw [clz32, hlog]
  omega

/-- The exponent is above the 16 bits of the reciprocal. -/
theorem toNat_rcpe_of_clz {a : Word} {n : Nat} (hn : n < 32) (hlow : 2 ^ (31 - n) ≤ a.toNat) (hhigh : a.toNat < 2 ^ (32 - n)) :
    let m := a.toNat * 2 ^ n / 65536
    (rcpe a).toNat = n * 65536 + min 65535 ((0x80000000 + m / 2) / m) := by
  intro m
  have hne : a ≠ 0 := by
    rintro rfl
    exact absurd hlow (Nat.not_le.mpr (Nat.two_pow_pos _))
  have hor : ∀ r, r < 65536 → n * 65536 ||| r = n * 65536 + r := fun r hr => by
    rw [Nat.mul_comm]
    exact (Nat.two_pow_add_eq_or_of_lt (i := 16) hr n).symm
  simp only [rcpe, if_neg hne, clz32_eq hn hlow hhigh, BitVec.toNat_ofNat]
  rw [Nat.min_comm, hor _ (by omega), Nat.mod_eq_of_lt (by omega)]

/-! ### The statement -/

/-- Settles O42: each instruction is carried to its operation of the extension, valid or not, and each result is that of the
lemma on its function; the two claims on CLAMP are the two orders of its bounds. -/
theorem daleArithmetic : Obligations.DaleArithmetic := by
  unfold Obligations.DaleArithmetic
  refine ⟨fun s k rd rs1 rs2 q cyc => ⟨fun hruns => ?stopped, fun hruns => ?packed, fun w sg hruns hfit => ?within,
      fun w sg hruns hbeyond hjob => ?beyond⟩,
    fun a b h hh => ⟨sgn_lane_paddS16 a b hh, sgn_lane_psubS16 a b hh, lane_paddU16 a b hh, lane_psubU16 a b hh⟩,
    fun a b hordered => ?ordered, toInt_qmulr_zero, fun a b q hq _ => toInt_qmulr_of_pos a b hq,
    fun a l w => toNat_bfx_unsigned a, fun a b l w i hw _ => getLsbD_bfi a hw b, fun a b hcrossed => ?crossed,
    fun a l w => toInt_bfx_signed a, fun a n => toNat_rcpe_of_clz, by decide, by decide⟩
  case stopped =>
    simp only [List.forall_mem_cons, List.not_mem_nil, false_imp_iff, implies_true, and_true]
    refine ⟨?_, ?_, ?_, ?_, ?_, ?_, ?_, ?_, ?_⟩ <;> exact exec_of_not_daleRuns rfl hruns
  case packed =>
    simp only [List.forall_mem_cons, List.not_mem_nil, false_imp_iff, implies_true, and_true]
    refine ⟨?_, ?_, ?_, ?_, ?_, ?_, ?_⟩ <;> exact completes_of_arith rfl hruns rfl rfl
  case within =>
    refine ⟨completes_of_arith rfl hruns ?_ rfl, completes_of_arith rfl hruns ?_ rfl⟩ <;> exact decide_eq_true hfit
  case beyond =>
    have hinvalid : ¬ q.toNat + (w.toNat + 1) ≤ 32 := by omega
    simp only [List.forall_mem_cons, List.not_mem_nil, false_imp_iff, implies_true, and_true]
    refine ⟨completes_of_not_valid rfl hruns ?_ hjob, completes_of_not_valid rfl hruns ?_ hjob⟩ <;>
      exact decide_eq_false hinvalid
  case ordered => rw [toInt_clampW]; omega
  case crossed => rw [toInt_clampW]; omega

end Sys2Proof.Machine
end

section
/-! SUPPORT.  Posted stores: an error response and what it records (R418), an access that stalls and the wake of its domain
(R25, R346). -/

namespace Sys2Proof.Machine

/-! ### Events in the field of their bit -/

/-- A field of one bit is on as its bit of the register is set. -/
theorem Dev.on_eq_bit (d : Dev) {f : Field} (hwidth : f.hi = f.lo) (i : Nat) : d.on f i = bit (d.rd f.reg i) f.lo := by
  rw [Dev.on, Dev.get, hwidth, bits, bit, Nat.testBit_eq_decide_div_mod_eq, Nat.add_sub_cancel_left, Nat.pow_one]
  rcases Nat.mod_two_eq_zero_or_one (d.rd f.reg i / 2 ^ f.lo) with h | h <;> simp [h]

/-! ### A wake starts (R346) -/

/-- The power state with one more access that stalls. -/
def PwrState.withStalled (q : BusAcc) (p : PwrState) : PwrState := { p with stalled := p.stalled ++ [q] }

/-- A change of the power state alone keeps the rest. -/
theorem Keeps.setPwr (d : Dev) (g : PwrState → PwrState) (rs : List (Nat × Nat)) : Keeps d (d.setPwr g) [.pwr] rs :=
  Keeps.parts rs (fun p hp => by
    cases p
    case pwr => simp at hp
    case dpcd => exact ⟨rfl, rfl⟩
    case daleMem => exact fun _ => ⟨rfl, rfl⟩
    all_goals rfl) rfl rfl rfl

/-- A change that keeps the control processor's part takes no exception. -/
theorem Keeps.hart_eq {d e : Dev} {ps : List Part} {rs : List (Nat × Nat)} (h : Keeps d e ps rs) (hcp : .cp ∉ ps) :
    e.cp.hart = d.cp.hart :=
  congrArg CpState.hart (h.1 .cp hcp).symm

namespace Dev

variable (d : Dev)

/-- A wake at the RET point adds at most a request for the raise of VDD_CORE. -/
theorem raiseForWake_eq : ∃ vreqs, d.raiseForWake = d.setPwr fun p => { p with vreqs := vreqs } := by
  unfold Dev.raiseForWake
  split
  · exact ⟨_, rfl⟩
  · exact ⟨d.pwr.vreqs, rfl⟩

@[simp] theorem get_raiseForWake (f : Field) (i : Nat) : d.raiseForWake.get f i = d.get f i := by
  obtain ⟨vreqs, h⟩ := d.raiseForWake_eq
  rw [h, get_setPwr]

@[simp] theorem stalled_raiseForWake : d.raiseForWake.pwr.stalled = d.pwr.stalled := by
  obtain ⟨vreqs, h⟩ := d.raiseForWake_eq
  rw [h]
  rfl

theorem keeps_raiseForWake (rs : List (Nat × Nat)) : Keeps d d.raiseForWake [.pwr] rs := by
  obtain ⟨vreqs, h⟩ := d.raiseForWake_eq
  rw [h]
  exact Keeps.setPwr ..

section StartWake

variable {d} {k : Nat}

theorem startWake_of_ret (hret : d.domState k = 1) :
    d.startWake k = ((d.put F.DOM_STATUS_STATE 3 k).inc F.DOM_STATUS_WAKES k).raiseForWake := if_pos hret

theorem startWake_of_on (hon : d.domState k = 0) : d.startWake k = d := by simp [Dev.startWake, hon]

/-- A domain in RET wakes. -/
theorem domState_startWake_of_ret (hk : k < 80) (hret : d.domState k = 1) : (d.startWake k).domState k = 3 := by
  rw [startWake_of_ret hret, Dev.domState, get_raiseForWake, Dev.inc,
    Dev.get_put_bits (f := F.DOM_STATUS_WAKES) (g := F.DOM_STATUS_STATE) rfl (by decide) (by decide) (by decide)]
  exact Dev.get_put_lt (by decide) (Reg.has_lt hk rfl (Nat.le_refl _)) (by decide) d

theorem stalled_startWake_of_ret (hret : d.domState k = 1) : (d.startWake k).pwr.stalled = d.pwr.stalled := by
  simp [startWake_of_ret hret]

theorem keeps_startWake_of_ret (hret : d.domState k = 1) : Keeps d (d.startWake k) [.pwr] [wordOf R.DOM_STATUS k] := by
  rw [startWake_of_ret hret]
  have hstate := (Keeps.refl d [.pwr] [wordOf R.DOM_STATUS k]).putIn (f := F.DOM_STATUS_STATE) (List.mem_singleton_self _) 3
  exact (hstate.incIn (f := F.DOM_STATUS_WAKES) (List.mem_singleton_self _) 1).trans (keeps_raiseForWake ..)

end StartWake

/-! ### An access stalls (R346) -/

section Stall

variable {d} {k : Nat} (q : BusAcc)

theorem stall_singleton (k : Nat) : d.stall q [k] = (d.setPwr (.withStalled q)).startWake k := rfl

theorem domState_stall_of_ret (hk : k < 80) (hret : d.domState k = 1) : (d.stall q [k]).domState k = 3 := by
  rw [stall_singleton]
  exact domState_startWake_of_ret hk hret

theorem stalled_stall_of_ret (hret : d.domState k = 1) : (d.stall q [k]).pwr.stalled = d.pwr.stalled ++ [q] := by
  rw [stall_singleton]
  exact stalled_startWake_of_ret hret

theorem keeps_stall_of_ret (hret : d.domState k = 1) : Keeps d (d.stall q [k]) [.pwr] [wordOf R.DOM_STATUS k] := by
  rw [stall_singleton]
  exact (Keeps.setPwr ..).trans (keeps_startWake_of_ret hret)

/-- An access to a domain that is ON stalls without a wake. -/
theorem stall_of_on (hon : d.domState k = 0) : d.stall q [k] = d.setPwr (.withStalled q) := by
  rw [stall_singleton]
  exact startWake_of_on hon

end Stall

/-! ### A store has an error response (R418) -/

section BusError

variable {d} {a : Nat}

theorem cpAddr_of_lt (d : Dev) (ha : a < 2 ^ 33) : d.cpAddr a = a := if_pos ha

/-- The event's bit of SYS_EVENT is its field. -/
theorem on_busErr (d : Dev) : d.on F.SYS_EVENT_BUS_ERR = d.raised Ev.BUS_ERR := d.on_eq_bit rfl 0

@[simp] theorem raised_raise_busErr (d : Dev) : (d.raise Ev.BUS_ERR).raised Ev.BUS_ERR = true :=
  d.raised_raise Ev.BUS_ERR 0 rfl (by decide) (by decide) (by decide)

/-- The count of failed stores is a register of its own. -/
theorem get_inc_busErrCount (d : Dev) {f : Field} {i : Nat} (hother : R.CP_BUS_ERR_COUNT.at 0 ≠ f.reg.at i) :
    (d.inc F.CP_BUS_ERR_COUNT_COUNT).get f i = d.get f i := by
  rw [Dev.get, Dev.inc, Dev.rd_put_ne _ _ _ hother, Dev.get]

theorem on_busErr_inc_busErrCount (d : Dev) :
    (d.inc F.CP_BUS_ERR_COUNT_COUNT).on F.SYS_EVENT_BUS_ERR = d.on F.SYS_EVENT_BUS_ERR := by
  rw [Dev.on, get_inc_busErrCount d (by decide), Dev.on]

/-- The first failed store is counted, and its address recorded. -/
theorem busError_of_off (ha : a < 2 ^ 33) (hoff : d.on F.SYS_EVENT_BUS_ERR = false) :
    d.busError .cp a = ((d.inc F.CP_BUS_ERR_COUNT_COUNT).put F.CP_BUS_ERR_ADDR a).raise Ev.BUS_ERR := by
  simp only [Dev.busError, on_busErr_inc_busErrCount, hoff, Bool.false_eq_true, if_false, cpAddr_of_lt _ ha]

/-- A further one is only counted. -/
theorem busError_of_on (hon : d.on F.SYS_EVENT_BUS_ERR = true) :
    d.busError .cp a = (d.inc F.CP_BUS_ERR_COUNT_COUNT).raise Ev.BUS_ERR := by
  simp only [Dev.busError, on_busErr_inc_busErrCount, hon, if_true]

theorem busErrAddr_busError_of_off (ha : a < 2 ^ 32) (hoff : d.on F.SYS_EVENT_BUS_ERR = false) :
    (d.busError .cp a).get F.CP_BUS_ERR_ADDR = a := by
  rw [busError_of_off (by omega) hoff, Dev.get_raise _ _ _ (by decide) (by decide)]
  exact Dev.get_put_lt (by decide) (by decide) ha _

theorem busErrAddr_busError_of_on (hon : d.on F.SYS_EVENT_BUS_ERR = true) :
    (d.busError .cp a).get F.CP_BUS_ERR_ADDR = d.get F.CP_BUS_ERR_ADDR := by
  rw [busError_of_on hon, Dev.get_raise _ _ _ (by decide) (by decide), get_inc_busErrCount d (by decide)]

theorem busErrCount_busError_of_on (hon : d.on F.SYS_EVENT_BUS_ERR = true) :
    (d.busError .cp a).get F.CP_BUS_ERR_COUNT_COUNT = (d.get F.CP_BUS_ERR_COUNT_COUNT + 1) % 2 ^ 32 := by
  rw [busError_of_on hon, Dev.get_raise _ _ _ (by decide) (by decide)]
  exact Dev.get_inc_self (by decide) d 1 (by decide)

theorem keeps_busError_of_off (ha : a < 2 ^ 33) (hoff : d.on F.SYS_EVENT_BUS_ERR = false) :
    Keeps d (d.busError .cp a) [.log] (wordOf R.CP_BUS_ERR :: wordOf R.CP_BUS_ERR_COUNT :: eventWords Ev.BUS_ERR) := by
  rw [busError_of_off ha hoff]
  have hcount := (Keeps.refl d [.log] (wordOf R.CP_BUS_ERR :: wordOf R.CP_BUS_ERR_COUNT :: eventWords Ev.BUS_ERR)).incIn
    (f := F.CP_BUS_ERR_COUNT_COUNT) (i := 0) (by decide) 1
  exact (hcount.putIn (f := F.CP_BUS_ERR_ADDR) (i := 0) (by decide) a).raiseIn (by decide) (by decide) (by decide) 0

theorem keeps_busError_of_on (hon : d.on F.SYS_EVENT_BUS_ERR = true) :
    Keeps d (d.busError .cp a) [.log] (wordOf R.CP_BUS_ERR_COUNT :: eventWords Ev.BUS_ERR) := by
  rw [busError_of_on hon]
  have hcount := (Keeps.refl d [.log] (wordOf R.CP_BUS_ERR_COUNT :: eventWords Ev.BUS_ERR)).incIn
    (f := F.CP_BUS_ERR_COUNT_COUNT) (i := 0) (by decide) 1
  exact hcount.raiseIn (by decide) (by decide) (by decide) 0

/-- Whether it is the first or a further one, BUS_ERR is raised. -/
theorem raised_busError (ha : a < 2 ^ 33) : (d.busError .cp a).raised Ev.BUS_ERR = true := by
  cases herr : d.on F.SYS_EVENT_BUS_ERR
  · rw [busError_of_off ha herr, raised_raise_busErr]
  · rw [busError_of_on herr, raised_raise_busErr]

end BusError

/-! ### What becomes of a posted store -/

section BusStore

variable {d} {m : Master} {k a n v : Nat}

theorem busStore_of_unmapped (hnone : busDomain a = none) : d.busStore m a n v = d.busError m a := by
  simp only [Dev.busStore, hnone]

/-- A store waits while its domain is not ON, or behind an older access of its master. -/
theorem busStore_of_waits (hdom : busDomain a = some k) (hwaits : d.domOn k = false ∨ d.behind m k = true) :
    d.busStore m a n v = d.stall ⟨m, true, a, n, v⟩ [k] := by
  rcases hwaits with h | h <;> simp [Dev.busStore, hdom, h]

end BusStore

end Dev

/-! ### REG_WRITE -/

section RegWrite

variable (offset : BitVec 21)

theorem regOffset_lt : 0x40000000 + offset.toNat < 2 ^ 32 := by
  have := offset.isLt
  omega

/-- Register space is decoded by its blocks. -/
theorem busDomain_regOffset : busDomain (0x40000000 + offset.toNat) = regDomain (0x40000000 + offset.toNat) := by
  have := regOffset_lt offset
  rw [busDomain, if_neg (by omega), if_pos (by omega)]

/-- REG_WRITE is a posted store of the control processor. -/
theorem completes_regWrite {value : Word} {s : State} {P : Dev → Prop}
    (h : P (s.dev.busStore .cp (0x40000000 + offset.toNat) 4 value.toNat)) : Completes (.regWrite offset value) s P :=
  ⟨_, rfl, rfl, h⟩

end RegWrite

/-- Settles O8: a store to no register has an error response, the first or a further one; one to a domain in RET, or behind an older
access, stalls. The frame of each holds the processor's state, and so no exception is taken. -/
theorem unmappedStores : Obligations.UnmappedStores := by
  unfold Obligations.UnmappedStores
  intro s offset value d a
  have ha : a < 2 ^ 32 := regOffset_lt offset
  have ha' : a < 2 ^ 33 := by omega
  have hbus : busDomain a = regDomain a := busDomain_regOffset offset
  refine ⟨fun hnone hoff => completes_regWrite offset ?first, fun hnone hon => completes_regWrite offset ?further,
    fun k hdom hk hlt hret => completes_regWrite offset ?asleep, fun k hdom hon hbehind => completes_regWrite offset ?behind⟩
  case first =>
    rw [Dev.busStore_of_unmapped (hbus.trans hnone)]
    have hkeeps := Dev.keeps_busError_of_off ha' hoff
    exact ⟨Dev.busErrAddr_busError_of_off ha hoff, Dev.raised_busError ha',
      hkeeps.hart_eq (by decide), hkeeps⟩
  case further =>
    rw [Dev.busStore_of_unmapped (hbus.trans hnone)]
    have hkeeps := Dev.keeps_busError_of_on (a := a) hon
    exact ⟨Dev.busErrCount_busError_of_on hon, Dev.busErrAddr_busError_of_on hon,
      (Dev.on_busErr _).trans (Dev.raised_busError ha'), hkeeps.hart_eq (by decide), hkeeps⟩
  case asleep =>
    have hasleep : d.domOn k = false := by simp [Dev.domOn, hk, hret]
    rw [Dev.busStore_of_waits (hbus.trans hdom) (.inl hasleep)]
    have hkeeps := Dev.keeps_stall_of_ret ⟨.cp, true, a, 4, value.toNat⟩ hret
    have hsys : outside (R.SYS_EVENT.at 0) [wordOf R.DOM_STATUS k] := by
      intro r hr
      obtain rfl := List.mem_singleton.1 hr
      exact .inl (Nat.lt_of_lt_of_le (by decide) (Nat.le_add_right _ _))
    exact ⟨Dev.domState_stall_of_ret _ hlt hret, Dev.stalled_stall_of_ret _ hret,
      congrArg (· != 0) (hkeeps.get (f := F.SYS_EVENT_BUS_ERR) hsys),
      hkeeps.hart_eq (by decide), hkeeps⟩
  case behind =>
    rw [Dev.busStore_of_waits (hbus.trans hdom) (.inr hbehind), Dev.stall_of_on _ hon]
    exact ⟨rfl, Keeps.setPwr ..⟩

end Sys2Proof.Machine
end
